-- ==== Sys2Proof/Word.lean ====
section
/-! DEFINITION. Word.lean: the plain words the manual counts bits in (00_scope.md R14: every multi-byte field is
little-endian) and the sizes it fixes. -/
namespace Sys2Proof

/-- One byte. -/
abbrev Byte := BitVec 8
/-- A 16-bit, 32-bit and 64-bit word. -/
abbrev W16 := BitVec 16
abbrev W32 := BitVec 32
abbrev W64 := BitVec 64
/-- A time in ns. -/
abbrev Time := Nat

/-- Sizes (R15): KiB, MiB, GiB; the 64-byte line, the 2 MiB pool frame (R106), the 1 GiB translation page (R163). -/
abbrev KiB : Nat := 1024
abbrev MiB : Nat := 1048576
abbrev GiB : Nat := 1073741824
abbrev lineBytes : Nat := 64
abbrev frameBytes : Nat := 2097152
/-- Times (R147 and others): 1 µs and 1 ms in ns. -/
abbrev usNs : Nat := 1000
abbrev msNs : Nat := 1000000

end Sys2Proof
end

