-- ==== Sys2Proof/Syntax.lean ====
section
/-! DEFINITION. Syntax.lean: the commands of the block, one constructor of `Instr` for each row of the table of
operations and events, with the operands that come with it from outside. -/
namespace Sys2Proof

/-- A Jarti request packet as it stands on the wire (02_jarti_transactions.md R53): the header's fields but for OPCODE,
which the command's own constructor gives, all reserved bits of the header together, and the payload bytes. -/
structure Req where
  /-- the logical port on which the packet arrived: 0 to 511 fabric, 512 to 515 host bridges -/
  lport : Nat
  /-- whether it arrived on an escape channel (R615) -/
  esc : Bool := false
  tc : BitVec 3
  vc : BitVec 3
  partition : BitVec 10
  ast : BitVec 12
  src : BitVec 15
  dst : BitVec 15
  tag : BitVec 16
  length : BitVec 24
  address : BitVec 64
  seq : BitVec 32
  flags : BitVec 16
  rsv : BitVec 38 := 0
  payload : List Byte := []
  /-- OPCODE, where the packet carries an encoding that R71, R205 and R803 do not list: no row of the table names it, so it may come
  with any request's row (log entry 131) -/
  unlisted : Option (BitVec 8) := none
deriving DecidableEq, Repr

/-- A Jarti response packet (R55): OPCODE CPL_DATA or CPL by `isData`, all reserved bits together, the data bytes. -/
structure Resp where
  lport : Nat
  esc : Bool := false
  isData : Bool
  tc : BitVec 3 := 1
  vc : BitVec 3 := 1
  status : BitVec 4
  load : BitVec 4 := 0
  reqOpcode : BitVec 8
  rspNode : BitVec 15
  dst : BitVec 15
  tag : BitVec 16
  segOffset : BitVec 24 := 0
  segCover : BitVec 24 := 0
  result : BitVec 64 := 0
  rsv : BitVec 44 := 0
  data : List Byte := []
deriving DecidableEq, Repr

/-- A Hyser command as fetched (20_hyser_interface.md R844): the issuing function (0 is PF0, v is VF v) and queue
pair, the descriptor's fields but for GROUP and VERB, which the command's own constructor gives, and the bytes a read
of host memory at ADDR0 returns (`none`: the read fails). -/
structure Cmd where
  fn : Nat
  qp : Nat
  cid : BitVec 16
  fence : Bool := false
  signed : Bool := false
  rsv : BitVec 32 := 0
  opts : BitVec 8 := 0
  partition : BitVec 10 := 0
  ast : BitVec 12 := 0
  outLen : BitVec 32 := 0
  addr0 : BitVec 64 := 0
  addr1 : BitVec 64 := 0
  args : BitVec 256 := 0
  host : Option (List Byte) := some []
  /-- the further host memory a signed command's body names at its own ADDR0 (R848) -/
  list : Option (List Byte) := some []
deriving DecidableEq, Repr

/-- The CXL.mem requests that a host bridge converts (R240): MemRd or MemRdData with MetaValue I, S or A, MemInv with
MetaValue A, MemClnEvct. -/
inductive CxlReq where
  | readI | readS | readA | memInv | clnEvct
deriving DecidableEq, Repr

/-- The read-modify-write operations (R77). -/
inductive AtomicOp where
  | add | min | max | and | or | xor | swap | cas
deriving DecidableEq, Repr

/-- The request opcodes of R71 and R205. -/
inductive Op where
  | load | store | storeClearPoison | copy
  | atomic (a : AtomicOp)
  | fence | openVersion | closeVersion | publish
  | rdShared | rdOwn | upgrade | wbDirty | evictClean | snpInv | snpShare
  | collContrib | collPartial | collDeliver
  | gather | scatter | search | attend | filter | run | ownerCas
  | mgmt (code : Nat)
  /-- an encoding that is not listed (R71) -/
  | unlisted (code : Nat)
deriving DecidableEq, Repr

/-- What the stream of packet flits says of a packet flit (R608): its channel, whether it starts a packet of `size` flits, whether it ends one. -/
structure PacketFlit where
  vc : Nat := 0
  first : Bool := false
  last : Bool := false
  size : Nat := 0
deriving DecidableEq, Repr

/-- The message of a codeword: its tag (R605), its 640 flit bytes, and by slot what its packet flits are (R603). -/
structure Codeword where
  tag : Nat := 0
  data : List Byte := []
  packets : List PacketFlit := []
deriving DecidableEq, Repr

/-- A flit of a codeword as its receiver sees it (R608, R611), with its first 32 bytes (R958). -/
inductive Flit where
  /-- a packet flit of a channel; `first` starts a packet of `size` flits, `last` ends it -/
  | packet (vc : Nat) (first last : Bool) (size : Nat) (head : List Byte)
  /-- a secure-frame trailer (R591) -/
  | trailer (head : List Byte)
  /-- a link control flit; `ok` when CHECK, TYPE and its reserved bits are good -/
  | control (ok : Bool) (head : List Byte)
deriving DecidableEq, Repr

/-- The commands: one constructor for each row of the table, in its order. -/
inductive Instr where
  /-- LOAD (R78): A LOAD request arrives at a switch; it is checked, translated, possibly combined, and read at the home or forwarded. -/
  | load (p : Req)
  /-- STORE (R71): A STORE request arrives at a switch; it is checked, possibly held on a hot line, and written at the home or forwarded. -/
  | store (p : Req)
  /-- STORE_CLEAR_POISON (R80): A STORE_CLEAR_POISON request writes its payload and clears the poison of every line it covers. -/
  | storeClearPoison (p : Req)
  /-- COPY (R75): A COPY request copies a source range to a non-overlapping destination range. -/
  | copy (p : Req)
  /-- ATOMIC_ADD (R77): An ATOMIC_ADD adds to a W-byte integer at the home and returns the pre-value. -/
  | atomicAdd (p : Req)
  /-- ATOMIC_MIN (R77): An ATOMIC_MIN stores the smaller value, compared as FLAGS.SIGNED selects, and returns the pre-value. -/
  | atomicMin (p : Req)
  /-- ATOMIC_MAX (R77): An ATOMIC_MAX stores the larger value and returns the pre-value. -/
  | atomicMax (p : Req)
  /-- ATOMIC_AND (R77): An ATOMIC_AND applies a bitwise AND at the home and returns the pre-value. -/
  | atomicAnd (p : Req)
  /-- ATOMIC_OR (R77): An ATOMIC_OR applies a bitwise OR at the home and returns the pre-value. -/
  | atomicOr (p : Req)
  /-- ATOMIC_XOR (R77): An ATOMIC_XOR applies a bitwise XOR at the home and returns the pre-value. -/
  | atomicXor (p : Req)
  /-- ATOMIC_SWAP (R77): An ATOMIC_SWAP stores the new value and returns the pre-value. -/
  | atomicSwap (p : Req)
  /-- ATOMIC_CAS (R77): An ATOMIC_CAS stores the new value only if the pre-value equals the compare value. -/
  | atomicCas (p : Req)
  /-- FENCE (R97): A FENCE arrives at the ingress switch and holds later requests to its destination until earlier ones are complete. -/
  | fence (p : Req)
  /-- OPEN_VERSION (R268): An OPEN_VERSION opens a read open or a draft of a shared region, or renews a lease. -/
  | openVersion (p : Req)
  /-- CLOSE_VERSION (R269): A CLOSE_VERSION ends the node's open, discards its draft and clears its expired mark. -/
  | closeVersion (p : Req)
  /-- PUBLISH (R276): A PUBLISH commits the node's draft as the next version or refuses it as stale. -/
  | publish (p : Req)
  /-- RD_SHARED (R221): A caching agent asks the home for a shared copy of a coherent line. -/
  | rdShared (p : Req)
  /-- RD_OWN (R221): A caching agent asks the home for an owned copy of a coherent line. -/
  | rdOwn (p : Req)
  /-- UPGRADE (R229): A caching agent asks to upgrade its copy of a line to M. -/
  | upgrade (p : Req)
  /-- WB_DIRTY (R227): An owner writes back a modified line, possibly taken as a crossed snoop answer. -/
  | wbDirty (p : Req)
  /-- EVICT_CLEAN (R221): A holder drops a clean copy of a line and tells the home. -/
  | evictClean (p : Req)
  /-- SNOOP_ANSWER (R212): A snoop answer reaches the home, which records it and collects the transaction when all answers are in. -/
  | snoopAnswer (r : Resp)
  /-- COLL_CONTRIB (R397): A member's collective contribution or JOIN is added to a region record, spilled, or refused. -/
  | collContrib (p : Req)
  /-- COLL_PARTIAL (R404): A partial travelling up, or a result travelling down, a collective tree reaches its logical node. -/
  | collPartial (p : Req)
  /-- COLL_DELIVER (R405): A switch writes collective result data or a notice into an endpoint's memory. -/
  | collDeliver (p : Req)
  /-- GATHER (R460): A GATHER request is split into shard parts whose bag partials are pooled and rounded once. -/
  | gather (p : Req)
  /-- SCATTER (R467): A SCATTER request adds sparse gradients into the update buffers of an embedding step. -/
  | scatter (p : Req)
  /-- SEARCH (R502): A SEARCH request is sent as parts to every shard host and its results are merged at the root. -/
  | search (p : Req)
  /-- ATTEND (R536): An ATTEND request runs exact-order softmax attention over listed KV pages at the attention host. -/
  | attend (p : Req)
  /-- FILTER (R376): A FILTER request tests elements against a predicate and returns a count, bitmap or indices. -/
  | filter (p : Req)
  /-- RUN (R356): A RUN request invokes a loaded program instance for a number of global steps. -/
  | run (p : Req)
  /-- OWNER_CAS (R555): An OWNER_CAS acquires, hands off, renews, releases or queries the ownership token of a serving request. -/
  | ownerCas (p : Req)
  /-- CPL (R98): A response without data reaches a switch and, at the ingress switch, completes its request. -/
  | cpl (r : Resp)
  /-- CPL_DATA (R78): A response with data reaches a switch and answers its segment of the request. -/
  | cplData (r : Resp)
  /-- UNANSWERED (R88): A request that will never be answered is detected within 10 µs, reported and held. -/
  | unanswered (node tag cause : Nat)
  /-- SEQUENCE_GAP (R100): A missing sequence number outlasts the largest age limit; the gap is logged and fences above it are reported. -/
  | sequenceGap (src dst : Nat)
  /-- REGION_ARB_GRANT (R144): In each switch-core cycle the region arbiter grants promoted then weighted round-robin accesses. -/
  | regionArbGrant (r : Nat)
  /-- REGION_ARB_PROMOTE (R145): An access at the region arbiter is promoted after waiting its class's promotion time. -/
  | regionArbPromote (r : Nat)
  /-- HBM_ACCESS_DONE (R147): An HBM access completes and its data or write acknowledgement returns: `bad` are the lines
  whose ECC failed, those of switch tables from 2^41 on, and from 2^42 on either kind where it corrected a single bit. -/
  | hbmAccessDone (r id : Nat) (bad : List Nat)
  /-- MOVE_SUBBLOCK_DONE (R129): A 64 KiB sub-block copy of a frame move finishes, waiting requests proceed and the next sub-block starts. -/
  | moveSubblockDone (frame : Nat) (ok : Bool)
  /-- HEAT_DECAY_PERIOD (R134): A heat decay period ends and the decay epoch advances. -/
  | heatDecayPeriod
  /-- TIER_MAP_VISIT (R135): The Wick visits tier map entries so that no HEAT_EPOCH falls more than 128 epochs behind. -/
  | tierMapVisit (frame : Nat)
  /-- TIERING_SCAN (R141): The Wick runs a tiering scan of demotions, T1-pressure demotions and promotions. -/
  | tieringScan
  /-- T3_WRITE_RESUME (R975): A held T3 write proceeds once storage is freed or the frame's move commits. -/
  | t3WriteResume (op : Nat)
  /-- TRAY_LATE_TIMEOUT (R158): A TRAY_LATE stall unanswered after 10 µs becomes NO_RESPONSE or is re-issued to another copy. -/
  | trayLateTimeout (tag : Nat)
  /-- FREE_MODE_TAKE_EFFECT (R153): A free-mode change reaches its named fabric time and takes effect. -/
  | freeModeTakeEffect
  /-- PAGE_WALK_DONE (R180): A page table walk returns its entry, which is cached or discarded and re-walked if GEN changed. -/
  | pageWalkDone (ast page : Nat)
  /-- GEN_SWEEP_DONE (R183): The sweep that removes an AST's old-generation cache entries finishes. -/
  | genSweepDone (ast : Nat)
  /-- PT_RELOCATE (R164): The switch relocates a page table by its own choice to keep free space usable. -/
  | ptRelocate (ast loc : Nat)
  /-- TENURE_END (R224): The minimum tenure of a line's last grant ends and waiting transactions may start. -/
  | tenureEnd (line : Nat)
  /-- HOME_TIMEOUT (R231): A snoop goes unanswered for TIMEOUT; the agent is marked failed and the line may be poisoned. -/
  | homeTimeout (line : Nat)
  /-- DIRECTORY_SWEEP (R232): The directory sweep applies an agent failure to all remaining lines within 2 ms. -/
  | directorySweep (domain agent : Nat) (bad : List Nat)
  /-- COMBINE_WINDOW_END (R245): A read or atomic combining window closes and the group's single request is sent. -/
  | combineWindowEnd (group : Nat)
  /-- HOT_LINE_SEND (R252): On a hot line's STORE_WINDOW, the ingress switch sends the newest surviving held STORE. -/
  | hotLineSend (line : Nat)
  /-- HOT_LINE_EXPIRE (R251): A line stops being hot after one STORE_WINDOW with no STORE held or outstanding. -/
  | hotLineExpire (line : Nat)
  /-- VERSION_LEASE_END (R270): An open's lease ends; the open is ended, any draft discarded and an expired mark set. -/
  | versionLeaseEnd (region node : Nat)
  /-- COW_COPY_DONE (R272): The copy-on-write copy of a frame for a draft finishes and the pending write is applied. -/
  | cowCopyDone (region node frame : Nat)
  /-- STEP_START (R316): A step of a program instance starts sweeping its chunk through the configured cells and tile. The unit is the low 64 bits;
  above them a bit stands for each unit of the block whose words fail their parity as it starts (R322). -/
  | stepStart (unit : Nat)
  /-- STEP_RESUME (R319): A stalled step resumes when its missing operand arrives in scratch. -/
  | stepResume (unit : Nat)
  /-- STEP_COMMIT (R317): A step whose chunk has passed every stage without error commits its write halves and issues its writes. -/
  | stepCommit (unit : Nat) (bad : List Nat)
  /-- CONFIG_SCRUB (R322): Every 1 ms each block's configuration words are checked by parity and reloaded on error. -/
  | configScrub (block : Nat) (bad : List Nat)
  /-- BLOCK_ARB_GRANT (R313): In each region clock each scratch bank grants the oldest promoted request or rotates. -/
  | blockArbGrant (block : Nat)
  /-- BLOCK_ARB_PROMOTE (R312): A cell or tile request at the block arbiter is promoted after its class's promotion time. -/
  | blockArbPromote (block request : Nat)
  /-- NEIGHBOUR_COMPARE (R331): Every 100 µs the Wick compares neighbouring regions and lowers the hotter or higher-voltage one. -/
  | neighbourCompare
  /-- NEIGHBOUR_TRIM (R332): A neighbour difference persisting 10 ms at 0.9 GHz steps the region to Trimmed. -/
  | neighbourTrim (r : Nat)
  /-- SHADOW_COMPARE (R370): A shadow step finishes and its write halves are compared bit for bit with the primary's. -/
  | shadowCompare (unit : Nat) (same : Bool)
  /-- REFEREE_DONE (R782): A referee run of a mismatched step finishes and the verdict decides which halves commit. -/
  | refereeDone (unit row : Nat)
  /-- COLL_STALL (R417): A node's lowest open chunk gains no input for STALL_MS and the stall is reported. -/
  | collStall (coord id ix : Nat)
  /-- EMB_ROW_APPLY (R472): After a step closes, a host applies each row's summed gradient and requantizes it with a swap. -/
  | embRowApply (coord id row : Nat)
  /-- SEARCH_PART_RETRY (R507): The root sends a search part again 1 µs after it was refused with RETRY_LATER. -/
  | searchPartRetry
  /-- SERVE_LEASE_END (R560): An ownership lease ends and the serving host gives the request to another member or parks it. -/
  | serveLeaseEnd (svc id : Nat)
  /-- SERVE_DRAIN_END (R567): DRAIN_MS passes and old-epoch entries are taken under the token rule. -/
  | serveDrainEnd (svc : Nat)
  /-- CODEWORD_RECEIVED (R607): A link receiver decodes a codeword, checks its CRC and accepts or discards its flits. Operands: logical port,
  whether RS decoding succeeded, symbols corrected, the message. -/
  | codewordReceived (n : Nat) (rs : Bool) (corrected : Nat) (cw : Codeword)
  /-- IDLE (R612): An IDLE link control flit is received and fills a slot. -/
  | idle (n : Nat)
  /-- STATUS (R616): A STATUS flit acknowledges data codewords and returns credit per channel. -/
  | status (n ack : Nat) (valid : Bool) (credits : List Nat)
  /-- NAK (R621): A NAK makes the transmitter send REPLAY and resend held codewords from the named number. -/
  | nak (n seq : Nat)
  /-- REPLAY (R620): A REPLAY flit tells the receiver the number of the next data codeword after a NAK. -/
  | replay (n seq : Nat)
  /-- ESCAPE (R615): An ESCAPE flit puts the next packet on the escape channel of its VC. -/
  | escape (n : Nat)
  /-- LP_REQ (R635): A partner asks for low power and is answered LP_ACK or LP_NAK. -/
  | lpReq (n : Nat)
  /-- LP_ACK (R635): A partner accepts low power and each side goes to LOW_POWER once its codewords are acknowledged. -/
  | lpAck (n : Nat)
  /-- LP_NAK (R885): A partner refuses low power and the chip stays in Trimmed. -/
  | lpNak (n : Nat)
  /-- TRAIN_ID (R627): An identification flit arrives in IDENTIFY and is compared with the local one. -/
  | trainId (n version role lanes : Nat) (marked degradeOk : Bool)
  /-- TRAIN_CREDIT (R614): A credit advertisement arrives in CONFIG. -/
  | trainCredit (n : Nat) (adv : List Nat)
  /-- TRAIN_DONE (R626): CONFIG ends; numbers and credits are zeroed and the logical port goes ACTIVE. -/
  | trainDone (n : Nat)
  /-- SECURE_FRAME (R593): A secure-frame trailer arrives and the frame is accepted or discarded and asked for again. -/
  | secureFrame (n slot ctr : Nat) (data : List Byte) (tag : BitVec 128)
  /-- LINK_KEY_ROTATE (R592): Hurricane installs a new link key before FRAME_CTR reaches 2^48 or 24 hours pass. -/
  | linkKeyRotate (n : Nat)
  /-- ACK_TIMEOUT (R621): The oldest held data codeword waits ACK_TIMEOUT and the transmitter replays from it. -/
  | ackTimeout (n : Nat)
  /-- NAK_REPEAT (R620): A receiver waiting for REPLAY repeats its NAK every 1 µs. -/
  | nakRepeat (n : Nat)
  /-- STATUS_TIMER (R616): A side sends STATUS at least every 100 ns while ACTIVE. -/
  | statusTimer (n : Nat)
  /-- PARTNER_LOCK (R626): Partner training frames lock on every lane and coefficient exchange starts. -/
  | partnerLock (n : Nat)
  /-- EQUALIZE_DONE (R626): Every lane is below the error ratio; lanes bond and TRAIN_ID is sent. -/
  | equalizeDone (n : Nat)
  /-- EQUALIZE_TIMEOUT (R632): After 50 ms with failed lanes, the logical port degrades or goes DOWN. -/
  | equalizeTimeout (n : Nat) (lanes : List Nat)
  /-- IDENTIFY_TIMEOUT (R626): IDENTIFY lasts 1 ms without agreement and the port goes DOWN. -/
  | identifyTimeout (n : Nat)
  /-- CONFIG_TIMEOUT (R626): CONFIG lasts 100 µs without completion and the port goes DOWN. -/
  | configTimeout (n : Nat)
  /-- RETRAIN_TIMEOUT (R626): RETRAIN lasts 20 µs without success and the port goes DOWN. -/
  | retrainTimeout (n : Nat)
  /-- RETRAIN_DONE (R626): Equalization and TRAIN_ID agree in RETRAIN and the port sends REPLAY and returns to ACTIVE. -/
  | retrainDone (n : Nat) (lanes : List Nat)
  /-- DOWN_TIMEOUT (R626): After 1 ms in DOWN the logical port returns to DETECT. -/
  | downTimeout (n : Nat)
  /-- LANE_FAIL (R632): A lane exceeds the error ratio over 1 ms and the logical port retrains with fewer lanes. -/
  | laneFail (n lane : Nat)
  /-- PARTNER_LOSS (R630): All lanes show loss for 500 ns; partial and unacknowledged packets are discarded and routes withdrawn. -/
  | partnerLoss (n : Nat)
  /-- BEACON_TIMER (R636): In LOW_POWER each lane sends a training beacon every 50 µs. -/
  | beaconTimer (n : Nat)
  /-- BEACON_LOSS (R636): No beacon arrives for 150 µs in LOW_POWER and the port goes DOWN. -/
  | beaconLoss (n : Nat)
  /-- LOW_POWER_EXIT (R626): Training frames or a queued packet bring a LOW_POWER port back to ACTIVE within 3 µs. -/
  | lowPowerExit (n : Nat)
  /-- TUNNEL_FRAME (R644): A tunnel frame arrives at a gateway port and is accepted in SEQ order or discarded. -/
  | tunnelFrame (n seq ack flits : Nat) (fcs : Bool)
  /-- PFC_FRAME (R642): An IEEE 802.1Qbb PFC frame arrives at a gateway port and is honoured. -/
  | pfcFrame (n : Nat) (quanta : List (Nat × Nat))
  /-- PTP_FRAME (R712): A PTP frame arrives at the slave gateway port and feeds the time root. -/
  | ptpFrame (n : Nat) (offset : Int)
  /-- TUN_RTO (R644): The oldest unacknowledged tunnel frame waits TUN_RTO_US and is resent. -/
  | tunRto (n : Nat)
  /-- TUN_DEAD (R645): TUN_DEAD_US passes without a good frame and the gateway port has lost its partner. -/
  | tunDead (n : Nat)
  /-- TUNNEL_KEEPALIVE (R644): Each gateway side sends a frame at least every 10 µs. -/
  | tunnelKeepalive (n : Nat)
  /-- HB_LINK_LOSS (R647): A host bridge link is lost and the loss is reported to the Wick. -/
  | hbLinkLoss (bridge : Nat)
  /-- CXL_M2S_REQ (R240): A CXL M2S request from a host is converted to LOAD, RD_SHARED, RD_OWN, UPGRADE or EVICT_CLEAN. -/
  | cxlM2sReq (bridge : Nat) (kind : CxlReq) (hpa tag : Nat)
  /-- CXL_M2S_RWD (R240): A CXL M2S write is converted to WB_DIRTY or STORE. -/
  | cxlM2sRwd (bridge hpa tag : Nat) (mask : BitVec 64) (data : List Byte)
  /-- CXL_BI_RSP (R240): A host's back-invalidate response is converted into a snoop answer. -/
  | cxlBiRsp (bridge hpa : Nat) (kept : Bool) (data : List Byte)
  /-- CXL_BICONFLICT (R241): The bridge carries out the BIConflict handshake when a host request crosses a snoop. -/
  | cxlBiconflict (bridge hpa : Nat)
  /-- SCHED_MATCH (R654): In each 1.28 ns cell time the central scheduler matches attachments and moves cells. -/
  | schedMatch (bad : List Nat) (parity : Bool) (queues : List Nat)
  /-- VOQ_PROMOTE (R653): A VOQ head is promoted after its class's promotion time in the buffer. -/
  | voqPromote (id : Nat)
  /-- SHARED_ADMIT (R660): A packet waiting in its credit reserve is admitted to the shared area when caps and room allow. -/
  | sharedAdmit (id : Nat)
  /-- AGE_DISCARD (R679): A packet with no crossed cell exceeds its age limit and is discarded with a discard report. -/
  | ageDiscard (id : Nat)
  /-- ESC_WAIT_EXPIRE (R670): A head blocked for ESC_WAIT without credit moves to the escape channel. -/
  | escWaitExpire (id : Nat)
  /-- BUCKET_RELEASE (R697): A held request is released into its VOQ once its host bucket holds at least 0. -/
  | bucketRelease (port : Nat)
  /-- BUCKET_OVERRIDE (R699): A request held half its age limit is released at once with every request ahead of it. -/
  | bucketOverride (port : Nat)
  /-- GATE_ENTRY_CHANGE (R706): A gate list entry ends and the next takes force, or a new cycle starts. -/
  | gateEntryChange (p : Nat)
  /-- GATE_LIST_SWITCH (R705): A pending gate list takes effect at the first cycle start at or after CHANGE_TIME. -/
  | gateListSwitch (p : Nat)
  /-- TIME_SYNC_TIMER (R714): Every INTERVAL_US each side sends TIME_SYNC followed by TIME_FOLLOW. -/
  | timeSyncTimer (n : Nat)
  /-- TIME_SYNC (R714): A TIME_SYNC arrives and is timestamped at the lanes. -/
  | timeSync (p : Req)
  /-- TIME_FOLLOW (R716): A TIME_FOLLOW completes an exchange; the follower computes its offset and updates its time state. -/
  | timeFollow (p : Req)
  /-- PPS_EDGE (R875): A rising edge on TIME_PPS_IN is timestamped and disciplines fabric time. -/
  | ppsEdge
  /-- TIME_REF_LOST (R875): The PPS or 10 MHz input misses its limit and its CLK_STATUS bit clears. -/
  | timeRefLost (pps : Bool)
  /-- PPS_OUT (R938): TIME_PPS_OUT rises at each whole second of fabric time. -/
  | ppsOut
  /-- LL_HELLO (R806): An LL_HELLO arrives and moves the logical port's discovery state. -/
  | llHello (p : Req)
  /-- LL_CERT (R808): A piece of a partner's certificate chain arrives; the last piece carries the nonce signature. -/
  | llCert (p : Req)
  /-- LL_STATE (R810): An endpoint reports UP or RESET_ENTRY; on reset its holds are released and the RESET message sent. -/
  | llState (p : Req)
  /-- FM_COMMAND (R815): A signed fabric-manager command arrives by management message and is checked and run. -/
  | fmCommand (p : Req)
  /-- FM_REPLY (R805): A switch's reply to a signed command is forwarded toward the manager. -/
  | fmReply (p : Req)
  /-- ROUTE_WITHDRAW (R822): A switch clears hops back to the sender for named destinations and forwards the withdrawal. -/
  | routeWithdraw (p : Req)
  /-- ROUTE_RESTORE (R824): A switch restores withdrawn hops for named destinations and forwards the restore. -/
  | routeRestore (p : Req)
  /-- EVENT (R826): An EVENT report message is forwarded toward a manager's REPORT_NODE. -/
  | event (p : Req)
  /-- DISCARD_REPORT (R680): A discard report reaches the requester's ingress switch, which treats the request as unanswered. -/
  | discardReport (p : Req)
  /-- WICK_XCHG (R827): A Wick-to-Wick message relays a map reference, revocation, admission, resume, failure, range, install or redirect. -/
  | wickXchg (p : Req)
  /-- TICKET (R797): A quorum ticket arrives by management message, is checked and carried out or refused. -/
  | ticket (p : Req)
  /-- LINK_KEX (R757): An in-band link key exchange record arrives for a rekey. -/
  | linkKex (p : Req)
  /-- HELLO_RESEND (R806): Lamplighter resends LL_HELLO every 1 ms until the partner's arrives. -/
  | helloResend (n : Nat)
  /-- HELLO_TIMEOUT (R806): No LL_HELLO arrives for 10 ms and NEIGHBOUR_UP is reported without identity. -/
  | helloTimeout (n : Nat)
  /-- VERIFY_TIMEOUT (R806): Certificate verification takes 10 ms and the port becomes UNTRUSTED. -/
  | verifyTimeout (n : Nat)
  /-- ESC_DRAIN_DONE (R820): Escape channels drain and a ROUTE.SET with ESC_DRAIN writes its entries. -/
  | escDrainDone
  /-- ESC_DRAIN_TIMEOUT (R820): Escape channels fail to drain in 10 ms and ROUTE.SET completes with RETRY_LATER. -/
  | escDrainTimeout
  /-- TICKET_EXPIRE (R798): An accepted ticket reaches EXPIRES and its ID is no longer held. -/
  | ticketExpire (id : Nat)
  /-- HEALTH_RECOVER (R794): Every RECOVER_MS without a penalty a health score rises by 1. -/
  | healthRecover (n : Nat)
  /-- VERIFY_PASS (R793): The Wick reads and compares every copied frame once every VERIFY_H hours. -/
  | verifyPass (found : List (Nat × List Byte))
  /-- WICK_WATCHDOG (R786): A Wick core sends no heartbeat for 1 ms and Hurricane halts and restarts it. -/
  | wickWatchdog (k : Nat)
  /-- WICK_CORE_REJOIN (R786): A restarted Wick core copies state from a live core and rejoins the vote. -/
  | wickCoreRejoin (k : Nat)
  /-- WICK_RESTART (R787): With no live core, Hurricane resets the whole Wick and restarts all four cores. -/
  | wickRestart
  /-- WICK_RESTART_TIMEOUT (R787): A whole-Wick restart leaves no live core within 50 ms and counts as failed. -/
  | wickRestartTimeout
  /-- HURRICANE_MISMATCH (R788): Hurricane's lockstep comparison fails; it destroys every key and stops. -/
  | hurricaneMismatch
  /-- REGION_SUPPLY_FAULT (R777): A region's supply or compute clock leaves its range and the Wick fences the region. -/
  | regionSupplyFault (r : Nat)
  /-- RNG_HEALTH_FAIL (R733): The entropy source fails a health test; issuing stops and the start-up test repeats. -/
  | rngHealthFail
  /-- RNG_RETEST_DONE (R733): The repeated start-up test finishes and the generator resumes or latches failed. -/
  | rngRetestDone (ok : Bool)
  /-- LINK_KEX_EXPIRE (R755): A link key exchange start not finished in 10 s expires and its key is destroyed. -/
  | linkKexExpire (n : Nat)
  /-- SCRUB_WRITE_DONE (R762): A Snuffer scrub write completes; the last one destroys the scrub key. -/
  | scrubWriteDone (part addr : Nat) (ok : Bool)
  /-- GET_VERSION (R739): An SPDM GET_VERSION request arrives at PF0's DOE mailbox. -/
  | getVersion
  /-- GET_CAPABILITIES (R740): An SPDM GET_CAPABILITIES request returns the switch's capabilities. -/
  | getCapabilities
  /-- NEGOTIATE_ALGORITHMS (R742): An SPDM NEGOTIATE_ALGORITHMS request selects the only accepted algorithm set. -/
  | negotiateAlgorithms (sigs kems : List (Nat × Nat)) (sha384 gcm raw : Bool)
  /-- GET_DIGESTS (R739): An SPDM GET_DIGESTS request returns the slot 0 digest. -/
  | getDigests
  /-- GET_CERTIFICATE (R743): An SPDM GET_CERTIFICATE request returns the slot 0 chain. -/
  | getCertificate (slot off len : Nat)
  /-- CHALLENGE (R739): An SPDM CHALLENGE is answered with a signature under the alias key. -/
  | challenge (slot : Nat) (nonce : List Byte)
  /-- GET_MEASUREMENTS (R744): An SPDM GET_MEASUREMENTS returns the measurement blocks, signed on request. -/
  | getMeasurements (op : Nat) (sign : Bool) (nonce : List Byte)
  /-- KEY_EXCHANGE (R741): An SPDM KEY_EXCHANGE starts a secured session by ML-KEM-1024 encapsulation. -/
  | keyExchange (ek : List Byte)
  /-- FINISH (R739): An SPDM FINISH completes a secured session handshake. -/
  | finish (session : Nat) (ok : Bool)
  /-- END_SESSION (R734): An SPDM END_SESSION ends a session and destroys its keys. -/
  | endSession (session : Nat)
  /-- HEARTBEAT (R739): An SPDM HEARTBEAT keeps a secured session alive. -/
  | heartbeat (session : Nat)
  /-- KEY_UPDATE (R739): An SPDM KEY_UPDATE updates a session's keys. -/
  | keyUpdate (session : Nat)
  /-- VENDOR_DEFINED_REQUEST (R739): An SPDM vendor-defined request inside a session carries IDE_KM or TDISP. -/
  | vendorDefinedRequest (session : Option Nat) (known : Bool)
  /-- SPDM_UNSUPPORTED (R739): Any other SPDM request is answered with ERROR UnsupportedRequest. -/
  | spdmUnsupported (code : Nat)
  /-- GET_TDISP_VERSION (R747): A TDISP GET_TDISP_VERSION request for a VF's TDI. -/
  | getTdispVersion (session vf : Nat)
  /-- GET_TDISP_CAPABILITIES (R747): A TDISP GET_TDISP_CAPABILITIES request for a VF's TDI. -/
  | getTdispCapabilities (session vf : Nat)
  /-- LOCK_INTERFACE_REQUEST (R751): A TDISP lock moves a TDI to CONFIG_LOCKED and binds its selective stream. -/
  | lockInterfaceRequest (session vf stream : Nat)
  /-- GET_DEVICE_INTERFACE_REPORT (R748): A TDISP request returns a VF's interface report. -/
  | getDeviceInterfaceReport (session vf : Nat)
  /-- GET_DEVICE_INTERFACE_STATE (R747): A TDISP request returns a TDI's state. -/
  | getDeviceInterfaceState (session vf : Nat)
  /-- START_INTERFACE_REQUEST (R747): A TDISP start moves a locked TDI to RUN. -/
  | startInterfaceRequest (session vf : Nat) (nonce : List Byte)
  /-- STOP_INTERFACE_REQUEST (R750): A TDISP stop returns a TDI to CONFIG_UNLOCKED. -/
  | stopInterfaceRequest (session vf : Nat)
  /-- KEY_PROG (R751): An IDE_KM KEY_PROG programs an IDE stream key. -/
  | keyProg (session port stream set sub : Nat)
  /-- K_SET_GO (R751): An IDE_KM K_SET_GO activates a key set. -/
  | kSetGo (session port stream set sub : Nat)
  /-- K_SET_STOP (R751): An IDE_KM K_SET_STOP deactivates a key set. -/
  | kSetStop (session port stream set sub : Nat)
  /-- HYS_NOP (R854): HYS.NOP changes nothing and completes with OK. -/
  | hysNop (c : Cmd)
  /-- PART_CREATE (R727): PART.CREATE makes a FREE partition ACTIVE with a new memory key pair. -/
  | partCreate (c : Cmd)
  /-- PART_INFO (R728): PART.INFO returns the partition record. -/
  | partInfo (c : Cmd)
  /-- PART_SET (R728): PART.SET changes a partition's enabled opcodes and pin quota. -/
  | partSet (c : Cmd)
  /-- PART_ADD_PORT (R729): PART.ADD_PORT makes an endpoint-facing logical port a member of a partition. -/
  | partAddPort (c : Cmd)
  /-- PART_REMOVE_PORT (R730): PART.REMOVE_PORT removes a logical port from a partition. -/
  | partRemovePort (c : Cmd)
  /-- PART_TEARDOWN (R759): PART.TEARDOWN tears a partition down, destroys its key and scrubs its storage. -/
  | partTeardown (c : Cmd)
  /-- SEC_ATTEST (R746): SEC.ATTEST returns signed measurements, nonce, serial and fabric time. -/
  | secAttest (c : Cmd)
  /-- SEC_PROG_LOG (R745): SEC.PROG_LOG returns the program log events in order. -/
  | secProgLog (c : Cmd)
  /-- SEC_LINK_KEX_START (R755): SEC.LINK_KEX_START returns a signed nonce and fresh encapsulation key for a marked port. -/
  | secLinkKexStart (c : Cmd)
  /-- SEC_LINK_KEX_RESPOND (R755): SEC.LINK_KEX_RESPOND verifies the peer record, encapsulates and installs keys. -/
  | secLinkKexRespond (c : Cmd)
  /-- SEC_LINK_KEX_FINISH (R756): SEC.LINK_KEX_FINISH verifies the response, decapsulates and installs keys. -/
  | secLinkKexFinish (c : Cmd)
  /-- PORT_SET_PRIV (R62): PORT.SET_PRIV grants flat and node privilege to a logical port. -/
  | portSetPriv (c : Cmd)
  /-- PORT_SET_CRYPT (R590): PORT.SET_CRYPT marks or unmarks a port as leaving the rack. -/
  | portSetCrypt (c : Cmd)
  /-- PORT_SET_GATEWAY (R641): PORT.SET_GATEWAY pairs a gateway logical port with its peer and sets tunnel parameters. -/
  | portSetGateway (c : Cmd)
  /-- PORT_RETRAIN (R982): PORT.RETRAIN takes an ACTIVE logical port through RETRAIN. -/
  | portRetrain (c : Cmd)
  /-- PORT_RELEASE (R982): PORT.RELEASE takes a QUARANTINED logical port to DOWN. -/
  | portRelease (c : Cmd)
  /-- PORT_LINK_STATS (R639): PORT.LINK_STATS returns a logical port's link counters. -/
  | portLinkStats (c : Cmd)
  /-- NODE_SET_SELF (R816): NODE.SET_SELF sets the switch's own node number. -/
  | nodeSetSelf (c : Cmd)
  /-- NODE_ASSIGN (R817): NODE.ASSIGN gives an endpoint-facing logical port a node number and route. -/
  | nodeAssign (c : Cmd)
  /-- NODE_CLEAR (R818): NODE.CLEAR takes a logical port DOWN and clears its node number and route. -/
  | nodeClear (c : Cmd)
  /-- ROUTE_SET (R819): ROUTE.SET writes 1 to 4,096 routing table entries. -/
  | routeSet (c : Cmd)
  /-- FABRIC_SET_MANAGERS (R812): FABRIC.SET_MANAGERS installs a manager set and advances KEY_EPOCH. -/
  | fabricSetManagers (c : Cmd)
  /-- FABRIC_SET_ROLE (R816): FABRIC.SET_ROLE sets STAGE and the fabric's endpoint count. -/
  | fabricSetRole (c : Cmd)
  /-- FABRIC_SET_FREE_MODE (R153): FABRIC.SET_FREE_MODE enters or leaves free mode, now or at a named fabric time. -/
  | fabricSetFreeMode (c : Cmd)
  /-- FABRIC_TICKET (R797): FABRIC.TICKET delivers a quorum ticket through PF0. -/
  | fabricTicket (c : Cmd)
  /-- FABRIC_SET_BUDGET (R799): FABRIC.SET_BUDGET sets the expulsion budget record. -/
  | fabricSetBudget (c : Cmd)
  /-- FABRIC_ADD_SPARES (R799): FABRIC.ADD_SPARES adds spares to the expulsion budget. -/
  | fabricAddSpares (c : Cmd)
  /-- POOL_MAP (R979): POOL.MAP maps one translation page after the home adds its reference. -/
  | poolMap (c : Cmd)
  /-- POOL_UNMAP (R980): POOL.UNMAP invalidates translation pages and releases their references after draining. -/
  | poolUnmap (c : Cmd)
  /-- POOL_PROTECT (R980): POOL.PROTECT rewrites permissions and runs a full invalidation. -/
  | poolProtect (c : Cmd)
  /-- POOL_FRAME_INFO (R122): POOL.FRAME_INFO returns a frame's tier map entry. -/
  | poolFrameInfo (c : Cmd)
  /-- POOL_HEAT_READ (R137): POOL.HEAT_READ returns decayed HEAT for a range of frames. -/
  | poolHeatRead (c : Cmd)
  /-- POOL_MOVE (R976): POOL.MOVE moves copy 0 of a frame to a named tier and slot. -/
  | poolMove (c : Cmd)
  /-- POOL_RESOLVE (R792): POOL.RESOLVE rewrites a quarantined frame's copies from a named copy. -/
  | poolResolve (c : Cmd)
  /-- POOL_SET_HOME (R108): POOL.SET_HOME sets a home range table entry. -/
  | poolSetHome (c : Cmd)
  /-- POOL_ATTACH_TRAY (R115): POOL.ATTACH_TRAY attaches a tray to a slot with T2 and T3 areas. -/
  | poolAttachTray (c : Cmd)
  /-- POOL_DETACH_TRAY (R120): POOL.DETACH_TRAY detaches a tray, evacuating it first when asked. -/
  | poolDetachTray (c : Cmd)
  /-- POOL_SET_POLICY (R140): POOL.SET_POLICY defines an expert policy class. -/
  | poolSetPolicy (c : Cmd)
  /-- POOL_ENABLE_CLASS (R974): POOL.ENABLE_CLASS enables or disables an expert class for a partition. -/
  | poolEnableClass (c : Cmd)
  /-- AST_CREATE (R162): AST.CREATE creates an AST with a zeroed page table. -/
  | astCreate (c : Cmd)
  /-- AST_DESTROY (R170): AST.DESTROY destroys an AST with no valid entry. -/
  | astDestroy (c : Cmd)
  /-- AST_INVALIDATE (R185): AST.INVALIDATE advances GEN and waits for old-generation requests to drain. -/
  | astInvalidate (c : Cmd)
  /-- AST_INFO (R169): AST.INFO returns an AST table entry. -/
  | astInfo (c : Cmd)
  /-- AST_PTE_READ (R165): AST.PTE_READ returns a page table entry. -/
  | astPteRead (c : Cmd)
  /-- WINDOW_SET (R192): WINDOW.SET writes a window table entry. -/
  | windowSet (c : Cmd)
  /-- WINDOW_CLEAR (R197): WINDOW.CLEAR clears a window and completes when requests through it are done. -/
  | windowClear (c : Cmd)
  /-- DOMAIN_CREATE (R199): DOMAIN.CREATE creates an empty coherence domain. -/
  | domainCreate (c : Cmd)
  /-- DOMAIN_DESTROY (R202): DOMAIN.DESTROY snoops every holder and removes the domain. -/
  | domainDestroy (c : Cmd)
  /-- DOMAIN_ADD_AGENT (R200): DOMAIN.ADD_AGENT writes a member agent at an index. -/
  | domainAddAgent (c : Cmd)
  /-- DOMAIN_REMOVE_AGENT (R234): DOMAIN.REMOVE_AGENT marks an agent failed at once. -/
  | domainRemoveAgent (c : Cmd)
  /-- DOMAIN_SET_RANGE (R201): DOMAIN.SET_RANGE makes a homed gigabyte coherent for a domain. -/
  | domainSetRange (c : Cmd)
  /-- SNAP_CREATE (R255): SNAP.CREATE creates a shared region at version 1 and announces its range. -/
  | snapCreate (c : Cmd)
  /-- SNAP_DESTROY (R282): SNAP.DESTROY ends every open and frees retained versions. -/
  | snapDestroy (c : Cmd)
  /-- SNAP_INFO (R283): SNAP.INFO returns a shared region's record. -/
  | snapInfo (c : Cmd)
  /-- PROG_LOAD_LIB (R348): PROG.LOAD_LIB binds a library program from the bundle. -/
  | progLoadLib (c : Cmd)
  /-- PROG_LOAD (R348): PROG.LOAD checks, binds and measures an expert image. -/
  | progLoad (c : Cmd)
  /-- PROG_REPLACE (R364): PROG.REPLACE loads a new image into a bound instance. -/
  | progReplace (c : Cmd)
  /-- PROG_UNLOAD (R366): PROG.UNLOAD stops an instance and frees its blocks. -/
  | progUnload (c : Cmd)
  /-- PROG_INFO (R336): PROG.INFO reports an instance's program identity. -/
  | progInfo (c : Cmd)
  /-- PROG_CELL_READ (R294): PROG.CELL_READ returns a loaded cell configuration word. -/
  | progCellRead (c : Cmd)
  /-- PROG_STALLS (R159): PROG.STALLS returns an instance's stall counters. -/
  | progStalls (c : Cmd)
  /-- PROG_COUNTERS (R372): PROG.COUNTERS returns an instance's arithmetic and shadow counters. -/
  | progCounters (c : Cmd)
  /-- PROG_SET_SIGNER (R347): PROG.SET_SIGNER registers a partition's expert signing key. -/
  | progSetSigner (c : Cmd)
  /-- PROG_SET_QUOTA (R351): PROG.SET_QUOTA sets a partition's program record. -/
  | progSetQuota (c : Cmd)
  /-- COLL_OPEN (R391): COLL.OPEN checks a collective descriptor and admits the context at every host. -/
  | collOpen (c : Cmd)
  /-- COLL_CLOSE (R431): COLL.CLOSE closes a context, waiting for rounds unless forced. -/
  | collClose (c : Cmd)
  /-- COLL_SET_OPT (R438): COLL.SET_OPT changes optimizer parameters from a named round. -/
  | collSetOpt (c : Cmd)
  /-- COLL_STATS (R440): COLL.STATS returns a context's counters at a host. -/
  | collStats (c : Cmd)
  /-- COLL_REHOST (R424): COLL.REHOST re-hosts a logical node on a named switch. -/
  | collRehost (c : Cmd)
  /-- EMB_CREATE (R447): EMB.CREATE creates an embedding table at every switch concerned. -/
  | embCreate (c : Cmd)
  /-- EMB_DESTROY (R450): EMB.DESTROY destroys a table after admitted requests complete. -/
  | embDestroy (c : Cmd)
  /-- EMB_SET_DEFAULT (R466): EMB.SET_DEFAULT installs a new default row at every switch. -/
  | embSetDefault (c : Cmd)
  /-- EMB_REPLACE_ROWS (R475): EMB.REPLACE_ROWS replaces or clears listed rows by swaps. -/
  | embReplaceRows (c : Cmd)
  /-- EMB_CLOSE_STEP (R471): EMB.CLOSE_STEP closes an update step at the hosts. -/
  | embCloseStep (c : Cmd)
  /-- EMB_STEP_INFO (R484): EMB.STEP_INFO returns each host's current step and rows applied. -/
  | embStepInfo (c : Cmd)
  /-- EMB_HOT_SET (R478): EMB.HOT_SET names the hot set for the next refresh. -/
  | embHotSet (c : Cmd)
  /-- EMB_HOT_REFRESH (R478): EMB.HOT_REFRESH copies hot rows into every switch's replicas. -/
  | embHotRefresh (c : Cmd)
  /-- EMB_MOVE_ROWS (R480): EMB.MOVE_ROWS moves rows to another shard host. -/
  | embMoveRows (c : Cmd)
  /-- EMB_STATS (R484): EMB.STATS returns a table's counters. -/
  | embStats (c : Cmd)
  /-- SEARCH_CREATE (R492): SEARCH.CREATE creates a vector index at every switch concerned. -/
  | searchCreate (c : Cmd)
  /-- SEARCH_DESTROY (R494): SEARCH.DESTROY destroys an index after admitted queries complete. -/
  | searchDestroy (c : Cmd)
  /-- SEARCH_QUERY (R855): SEARCH.QUERY runs a SEARCH from host memory and writes the results back. -/
  | searchQuery (c : Cmd)
  /-- SEARCH_DELETE (R520): SEARCH.DELETE sets or clears item tombstones. -/
  | searchDelete (c : Cmd)
  /-- SEARCH_REPAIR (R522): SEARCH.REPAIR rewrites neighbour lists that name deleted items. -/
  | searchRepair (c : Cmd)
  /-- SEARCH_INFO (R524): SEARCH.INFO reports an index's state including its ENTRY. -/
  | searchInfo (c : Cmd)
  /-- SEARCH_STATS (R526): SEARCH.STATS returns an index's counters. -/
  | searchStats (c : Cmd)
  /-- ATTN_OPEN (R533): ATTN.OPEN opens an attention context. -/
  | attnOpen (c : Cmd)
  /-- ATTN_CLOSE (R535): ATTN.CLOSE closes an attention context after admitted ATTENDs complete. -/
  | attnClose (c : Cmd)
  /-- ATTN_STATS (R573): ATTN.STATS returns a context's counters. -/
  | attnStats (c : Cmd)
  /-- SERVE_CREATE (R547): SERVE.CREATE creates a serving service with its initial route map. -/
  | serveCreate (c : Cmd)
  /-- SERVE_SET_MAP (R563): SERVE.SET_MAP installs a new route map as the next epoch. -/
  | serveSetMap (c : Cmd)
  /-- SERVE_OWNER_INFO (R553): SERVE.OWNER_INFO returns an ownership entry. -/
  | serveOwnerInfo (c : Cmd)
  /-- SERVE_DESTROY (R569): SERVE.DESTROY parks every entry and frees the service. -/
  | serveDestroy (c : Cmd)
  /-- SERVE_STATS (R573): SERVE.STATS returns a service's counters. -/
  | serveStats (c : Cmd)
  /-- SHAPE_SET_PART (R693): SHAPE.SET_PART sets a level-two shaper for a partition and class. -/
  | shapeSetPart (c : Cmd)
  /-- SHAPE_STATS (R723): SHAPE.STATS returns the shaping and time counters. -/
  | shapeStats (c : Cmd)
  /-- GATE_SET (R705): GATE.SET installs a gate list that takes effect at its change time. -/
  | gateSet (c : Cmd)
  /-- TIME_SET (R709): TIME.SET sets the origin of fabric time at the root. -/
  | timeSet (c : Cmd)
  /-- TIME_SET_SOURCE (R711): TIME.SET_SOURCE makes the switch the time root with a named source. -/
  | timeSetSource (c : Cmd)
  /-- TIME_SET_UPSTREAM (R713): TIME.SET_UPSTREAM names the upstream and backup time ports. -/
  | timeSetUpstream (c : Cmd)
  /-- CORE_STATS (R684): CORE.STATS returns the switch core counters. -/
  | coreStats (c : Cmd)
  /-- REGION_FENCE (R778): REGION.FENCE fences a region by command. -/
  | regionFence (c : Cmd)
  /-- REGION_UNFENCE (R779): REGION.UNFENCE ends a commanded fence. -/
  | regionUnfence (c : Cmd)
  /-- RAS_STATS (R802): RAS.STATS returns the reliability counters. -/
  | rasStats (c : Cmd)
  /-- HEALTH_READ (R794): HEALTH.READ returns the health scores. -/
  | healthRead (c : Cmd)
  /-- POWER_SET_STATE (R886): POWER.SET_STATE moves the chip to a named power state. -/
  | powerSetState (c : Cmd)
  /-- POWER_SET_REGION (R890): POWER.SET_REGION holds or releases a region's power state. -/
  | powerSetRegion (c : Cmd)
  /-- POWER_STATS (R907): POWER.STATS returns the power counters. -/
  | powerStats (c : Cmd)
  /-- LANTERN_READ (R960): LANTERN.READ returns capture ring entries in SEQ order. -/
  | lanternRead (c : Cmd)
  /-- LANTERN_LOG_READ (R965): LANTERN.LOG_READ returns health log entries. -/
  | lanternLogRead (c : Cmd)
  /-- LANTERN_STATS (R964): LANTERN.STATS returns the Lantern counters. -/
  | lanternStats (c : Cmd)
  /-- DB_WRITE (R837): A doorbell write sets a queue pair's SQ_TAIL or CQ_HEAD. -/
  | dbWrite (fn q part value : Nat)
  /-- DESCRIPTOR_FETCH (R839): The fetcher visits a ready queue and reads one command descriptor from host memory. -/
  | descriptorFetch (desc : Option (List Byte))
  /-- COMMAND_COMPLETION (R840): A command's completion entry is written to its completion queue. -/
  | commandCompletion (fn qp : Nat) (outOk : Bool)
  /-- COAL_TIMER (R842): The oldest unsignalled completion reaches COAL_US and an MSI-X message is sent. -/
  | coalTimer (fn qp : Nat)
  /-- QRESET (R836): A write of 1 to HYS_CTRL.QRESET clears EN of every queue of the function. -/
  | qreset (fn : Nat)
  /-- QP_ENABLE (R840): Setting QP_CFG_q.EN starts a queue pair in its first phase. -/
  | qpEnable (fn q value : Nat)
  /-- QP_DISABLE (R840): Clearing QP_CFG_q.EN stops fetching and drops later completions. -/
  | qpDisable (fn q value : Nat)
  /-- MBX_GO (R861): A write of GO takes a bundle chunk from MBX_DATA. -/
  | mbxGo (len offset : Nat)
  /-- MBX_LAST (R918): GO with LAST ends the bundle and starts verification. -/
  | mbxLast (len offset : Nat)
  /-- MBX_ABORT (R861): ABORT discards every staged bundle byte. -/
  | mbxAbort
  /-- BUNDLE_VERIFY_DONE (R918): Bundle verification finishes; on success measurements are recorded and the rails come up. -/
  | bundleVerifyDone
  /-- HBM_INIT_DONE (R912): HBM4 training and reserved-frame writing finish and READY is set. -/
  | hbmInitDone
  /-- FTIME_READ (R710): A read of FTIME's low word latches the high word. -/
  | ftimeRead (part : Nat)
  /-- HYS_DROPPED_READ (R18): A read of HYS_DROPPED returns and clears its counts. -/
  | hysDroppedRead (fn : Nat)
  /-- PORT_CFG_EN_SET (R626): Setting PORT_CFG_p.EN starts training of the port's logical ports. -/
  | portCfgEnSet (p value : Nat)
  /-- PORT_CFG_EN_CLEAR (R626): Clearing PORT_CFG_p.EN idles the lanes and disables every logical port. -/
  | portCfgEnClear (p value : Nat)
  /-- POOL_HEAT_CFG_WRITE (R136): A write of a new PERIOD_LOG2 ends the current decay period and starts a new one. -/
  | poolHeatCfgWrite (value : Nat)
  /-- POOL_POLICY_CFG_WRITE (R141): A write of POOL_POLICY_CFG reschedules scans and suspends or resumes moves. -/
  | poolPolicyCfgWrite (value : Nat)
  /-- REGISTER_WRITE (R833): A write to a register without behaviour of its own sets fields or is ignored and flagged. -/
  | registerWrite (fn off size value : Nat)
  /-- POWER_ON (R912): The input enters its range and the switch powers on up to recovery. -/
  | powerOn
  /-- SYS_RESET_ASSERT (R911): SYS_RESET_N goes low; lanes idle, rails fall and Hurricane and the Wick are held in reset. -/
  | sysResetAssert
  /-- SYS_RESET_DEASSERT (R911): SYS_RESET_N goes high and the power-on sequence resumes at step 3. -/
  | sysResetDeassert
  /-- PERST_MGT_ASSERT (R909): A management-link reset resets the Hyser state of every function. -/
  | perstMgtAssert
  /-- PERST_MGT_DEASSERT (R914): PERST_MGT_N rises and the management port is released to train. -/
  | perstMgtDeassert
  /-- FUNCTION_LEVEL_RESET (R831): A PCIe FLR resets one function's Hyser state. -/
  | functionLevelReset (fn : Nat)
  /-- HB_PERST_ASSERT (R910): HB_PERST_N_k goes low; the bridge's agent is marked failed and its holds released. -/
  | hbPerstAssert (k : Nat)
  /-- HB_PERST_DEASSERT (R910): HB_PERST_N_k goes high and the host bridge port may train. -/
  | hbPerstDeassert (k : Nat)
  /-- INPUT_LOW (R868): The input stays below 44 V for 10 µs and a THROTTLE event is reported. -/
  | inputLow
  /-- INPUT_FAIL (R869): The input leaves its hold range and stage 1 stops, unpowering the switch. -/
  | inputFail
  /-- REFCLK_LOST (R871): The selected reference input is lost and every PLL switches to the other input. -/
  | refclkLost (b : Nat) (ports : List Nat)
  /-- REFCLK_BOTH_LOST (R872): Both reference inputs stay lost for 10 µs and the switch halts. -/
  | refclkBothLost
  /-- REFCLK_SWITCHBACK (R873): The preferred input stays good for 100 ms and the monitor switches back to it. -/
  | refclkSwitchback (ports : List Nat)
  /-- REGION_IDLE_TRIM (R882): A region with no step for IDLE_TRIM_US goes to Trimmed. -/
  | regionIdleTrim (r : Nat)
  /-- CHIP_HOOD_ENTRY (R882): The Hooded conditions hold for IDLE_HOOD_US and the chip sends LP_REQ to enter Hooded. -/
  | chipHoodEntry
  /-- LP_ACK_TIMEOUT (R885): No LP_ACK arrives in 10 µs and the chip stays in Trimmed. -/
  | lpAckTimeout
  /-- WAKE (R883): A wake event ends an automatic power state as far as the work needs. -/
  | wake (regions : List Nat)
  /-- POWER_STATE_DRAIN_TIMEOUT (R886): The conditions of a commanded state do not hold within DRAIN_US and the command is refused. -/
  | powerStateDrainTimeout
  /-- POWER_TICK (R894): Every 100 µs the Wick sets each Lit region's frequency under policy, cap and limits. -/
  | powerTick (vin pin : Nat)
  /-- CAP_TRIM (R896): The cap is exceeded for 10 ms at 0.9 GHz and a region is held in Trimmed, or a hold released. -/
  | capTrim
  /-- CURRENT_GUARD (R897): Input current exceeds GUARD_A for 1 µs and hardware halves tile issue. -/
  | currentGuard
  /-- GUARD_RELEASE (R897): Current stays below GUARD_A for 100 µs and the halving ends. -/
  | guardRelease
  /-- THERM_SAMPLE (R898): Every 10 µs each sensor is read and throttling applied beyond its limit. -/
  | thermSample (n : Nat) (t : Int)
  /-- THERMAL_HOLD (R899): A region still hot at 0.9 GHz after 10 ms receives a thermal hold in Trimmed. -/
  | thermalHold (r : Nat)
  /-- THERMAL_TRIP (R903): A sensor reaches the trip temperature and hardware drops to Pilot, losing partitions. -/
  | thermalTrip
  /-- IDCODE (R966): The JTAG IDCODE instruction selects the identification register. -/
  | idcode
  /-- SAMPLE_PRELOAD (R967): The JTAG SAMPLE/PRELOAD instruction selects the boundary register. -/
  | samplePreload (pps t10m test float : Bool) (shift : Nat)
  /-- EXTEST (R968): The JTAG EXTEST instruction drives boundary outputs when policy allows. -/
  | extest (pps t10m test float : Bool) (shift : Nat)
  /-- CLAMP (R968): The JTAG CLAMP instruction holds boundary outputs when policy allows. -/
  | clamp
  /-- HIGHZ (R968): The JTAG HIGHZ instruction releases outputs when policy allows. -/
  | highz
  /-- BYPASS (R966): The JTAG BYPASS instruction, or any unlisted code, selects the 1-bit bypass. -/
  | bypass
  /-- DEBUG_STATUS (R966): The DEBUG_STATUS instruction shows the die serial and a fresh nonce. -/
  | debugStatus
  /-- DEBUG_UNLOCK (R969): A signed unlock token is checked and, if accepted, destroys all keys and opens debug. -/
  | debugUnlock (token : List Byte)
  /-- JTAG_TRST (R966): JTAG_TRST_N low resets the TAP and selects IDCODE. -/
  | jtagTrst
  /-- SNP_INV (R205): An SNP_INV snoop from a home arrives at a switch on its way to, or for, a caching agent. -/
  | snpInv (p : Req)
  /-- SNP_SHARE (R205): An SNP_SHARE snoop from a home arrives at a switch on its way to, or for, a caching agent. -/
  | snpShare (p : Req)
  /-- INPUT_RECOVER (R868): The 60 V input returns above 44 V and PWR_STATUS.INPUT_LOW clears. -/
  | inputRecover
  /-- REFCLK_RESTORED (R873): A lost reference clock input becomes good again, setting its CLK_STATUS bit and starting the 100 ms switch-back wait. -/
  | refclkRestored (b : Nat)
  /-- TIME_REF_RESTORED (R875): The PPS or 10 MHz time input becomes good again, setting PPS_OK or T10M_OK and taking a root in HOLDOVER to ACQUIRING. -/
  | timeRefRestored (pps : Bool)
  /-- LANE_LOSS_OF_SIGNAL (R629): Some but not all lanes of an ACTIVE or RETRAIN logical port show loss of signal or codeword lock for 500 ns, and those lanes fail. -/
  | laneLossOfSignal (n : Nat) (lanes : List Nat)
  /-- NUMVFS_WRITE (R830): Host software writes the SR-IOV NumVFs or VF Enable of PF0, creating or removing virtual functions. -/
  | numvfsWrite (n : Nat) (enable : Bool)
  /-- HDM_DECODER_WRITE (R238): A host programs and commits an HDM decoder of a host bridge port, binding a host physical range to a partition, AST and virtual base. -/
  | hdmDecoderWrite (bridge index base sizeGib part ast vbase : Nat) (commit : Bool)
deriving DecidableEq, Repr

end Sys2Proof
end

