-- ==== Sys2Proof/Decode.lean ====
section
/-! DEFINITION. Decode.lean: commands spelled by bits. The table of operations and events gives no row any bits: a
request's form is its packet header (Machine/Operands.lean), a Hyser command's its descriptor (Machine/Command.lean). -/
namespace Sys2Proof

/-- The command that a word spells by the table's bits: no row has any. -/
def decodeTableWord (_nbits _w : Nat) : Option Instr := none

end Sys2Proof
end

