-- ==== Sys2Proof/Config.lean ====
section
/-! DEFINITION. Config.lean: what one implementation fixes, and the free values: constants without a body, of which
nothing can be proved but what holds for every value. A free value is applied to the counter `State.freeCtr`, which
each use advances, or to the data it depends on. -/
namespace Sys2Proof

/-- The orderable parts (R2). -/
inductive Part where
  | olm9648A0 | olm9664A0 | olm9648B0 | olm9664B0
deriving DecidableEq, Repr, Inhabited

/-- The part this switch is (R2, R8). -/
opaque Config.part : Part
/-- The k-th open choice of the switch among things that the manual lets it choose (where storage is placed, R975;
which identifier it draws). -/
opaque Config.freeNat : Nat → Nat
/-- Whether a destination of the routing table that is not attached to the switch is itself a switch (R827): how a Wick knows it the manual
does not say. -/
opaque Config.switchNode : Nat → Bool
/-- The k-th open 64-bit value. -/
opaque Config.freeWord : Nat → BitVec 64
/-- The k-th draw of the random bit generator (R733), a byte string of the asked length. -/
opaque Config.random : Nat → Nat → List Byte
/-- The die serial number (R807, R829). -/
opaque Config.serial : BitVec 64
/-- The verified bundle that the bundle store holds after the power-on sequence (R921). -/
opaque Config.bundle : List Byte
/-- The SHAKE256 digests in the four ROM key slots (R918), and the part's helper facts (R919). -/
opaque Config.romDigest : Nat → List Byte
/-- The public key of a ROM key slot under which an unlock token verifies (R969). -/
opaque Config.romKey : Nat → List Byte
/-- The voltage-frequency curve of a region of this die (R893), which the bundle carries. -/
opaque Config.voltageCurve : Nat → Nat → Nat
/-- What Hurricane finds in sections of a bundle whose inner layout the manual does not give: the die serial of the helper record
that it accepts from PUF_HELPER, if any (R919); whether VF_CURVES holds a record for a die serial (R918); the library image of
a catalogue number in LIBRARY (R373); the device's certificate chain with CERTS (R743). -/
opaque Config.helperSerial : List Byte → Option Nat
opaque Config.hasCurve : List Byte → Nat → Bool
opaque Config.libraryImage : List Byte → Nat → Option (List Byte)
opaque Config.certChain : List Byte → Nat → List Byte
/-- SHAKE256 digests of what the measurement blocks 1, 4 and 6 cover (R744), whose serialisation the manual does not give: the ROM,
the security configuration and the partition set. -/
opaque Config.romMeasurement : List Byte
opaque Config.secMeasurement : List (List Byte) → List Nat → List Nat → List Byte
opaque Config.partMeasurement : List (List Nat) → List Byte
/-- Published cryptography, uninterpreted: SHAKE256 of the asked number of bytes. -/
opaque Config.shake256 : Nat → List Byte → List Byte
/-- ML-DSA-65 (FIPS 204) verification: public key, message, signature. -/
opaque Config.mldsaVerify : List Byte → List Byte → List Byte → Bool
/-- The alias key's ML-DSA-65 signature over a message: of a die serial and a bundle measurement (R735). -/
opaque Config.mldsaSign : Nat → List Byte → List Byte → List Byte
/-- The alias public key and the die serial that a certificate chain names, where it reaches the Shoarn root (R743, R806). -/
opaque Config.chainKey : List Byte → Option (List Byte × Nat)
/-- SHA-384. -/
opaque Config.sha384 : List Byte → List Byte
/-- The TDISP interface report as bytes (R748), whose serialisation the manual does not give. -/
opaque Config.reportBytes : List (List Nat) → List (Nat × List Byte) → List Byte
/-- ML-KEM-1024: the public part of the generator's k-th key pair; the ciphertext and shared secret of the k-th encapsulation to a
public key; the secret that the k-th key pair finds in a ciphertext. -/
opaque Config.kemPublic : Nat → List Byte
opaque Config.kemEncaps : List Byte → Nat → List Byte × List Byte
opaque Config.kemDecaps : Nat → List Byte → List Byte
/-- What a special function of a cell gives where it has no value, by its code in SFU and its FP32 operand (R295). -/
opaque Config.sfuOpen : Nat → Nat → BitVec 32
/-- The scale of an MX block whose elements are all 0 (R293, OCP MX v1.0). -/
opaque Config.mxZeroScale : BitVec 8
/-- AES-256-GCM: whether a tag verifies over data, under a key, an IV and additional authenticated data (R591, R593). -/
opaque Config.gcmVerify : List Byte → List Byte → List Byte → List Byte → BitVec 128 → Bool
/-- AES-256-XTS of one 64-byte unit under the key pair of a partition's key generation and a tweak (R594, R595). -/
opaque Config.xtsEncrypt : Nat → BitVec 128 → List Byte → List Byte
opaque Config.xtsDecrypt : Nat → BitVec 128 → List Byte → List Byte

end Sys2Proof
end

