-- ==== Sys2Proof/Machine/KMap.lean ====
section
/-! DEFINITION. Machine/KMap.lean: finite maps as lists of (key, value) in one canonical form, keys strictly rising,
and memory as such a list of bytes with no entry equal to what an unlisted address reads as. -/
namespace Sys2Proof.Machine

/-- A finite map from numbers, kept with its keys strictly rising. -/
abbrev KMap (α : Type) := List (Nat × α)

/-- The value at a key. -/
def kfind {α : Type} : List (Nat × α) → Nat → Option α
  | [], _ => none
  | (j, v) :: m, k => if j = k then some v else kfind m k

/-- The value at a key, or a default. -/
def kget {α : Type} (m : List (Nat × α)) (k : Nat) (d : α) : α := (kfind m k).getD d

/-- Write a key, keeping the order. -/
def kset {α : Type} : List (Nat × α) → Nat → α → List (Nat × α)
  | [], k, v => [(k, v)]
  | (j, w) :: m, k, v =>
    if k < j then (k, v) :: (j, w) :: m
    else if k = j then (k, v) :: m
    else (j, w) :: kset m k v

/-- Remove a key. -/
def kdel {α : Type} : List (Nat × α) → Nat → List (Nat × α)
  | [], _ => []
  | (j, w) :: m, k => if j = k then m else (j, w) :: kdel m k

/-- Change the value at a key, where there is one. -/
def kmod {α : Type} (m : List (Nat × α)) (k : Nat) (f : α → α) : List (Nat × α) :=
  match kfind m k with
  | some v => kset m k (f v)
  | none => m

/-- Keys strictly rising. -/
def ksorted {α : Type} : List (Nat × α) → Bool
  | [] => true
  | [_] => true
  | (i, _) :: (j, w) :: m => decide (i < j) && ksorted ((j, w) :: m)

/-- What a byte that nothing has written reads as: a newly mapped frame reads as zero (17_security.md R738). -/
def unlistedByte : Byte := 0

/-- Read one byte. -/
def byteAt (m : List (Nat × Byte)) (a : Nat) : Byte := kget m a unlistedByte

/-- Write one byte, keeping the canonical form. -/
def setByte (m : List (Nat × Byte)) (a : Nat) (b : Byte) : List (Nat × Byte) :=
  if b = unlistedByte then kdel m a else kset m a b

/-- Read n bytes from an address on. -/
def readBytes (m : List (Nat × Byte)) (a : Nat) : Nat → List Byte
  | 0 => []
  | n + 1 => byteAt m a :: readBytes m (a + 1) n

/-- Write bytes from an address on. -/
def writeBytes (m : List (Nat × Byte)) (a : Nat) : List Byte → List (Nat × Byte)
  | [] => m
  | b :: bs => writeBytes (setByte m a b) (a + 1) bs

/-- Forget every byte of a range: it then reads as an unlisted byte. -/
def clearBytes (m : List (Nat × Byte)) (a n : Nat) : List (Nat × Byte) :=
  m.filter fun c => decide (c.1 < a) || decide (a + n ≤ c.1)

/-- The canonical form of a memory: addresses strictly rising, no entry equal to what an unlisted address reads as. -/
def memWf (m : List (Nat × Byte)) : Bool :=
  ksorted m && m.all fun c => decide (c.2 ≠ unlistedByte)

/-- The little-endian number a byte list spells (R14). -/
def leNat : List Byte → Nat
  | [] => 0
  | b :: bs => b.toNat + 256 * leNat bs

/-- The n low bytes of a number, little-endian (R14). -/
def leBytes : Nat → Nat → List Byte
  | 0, _ => []
  | n + 1, v => BitVec.ofNat 8 v :: leBytes n (v / 256)

/-- n bytes of a list from an offset on; bytes beyond its end read as 0. -/
def sliceBytes (l : List Byte) (off n : Nat) : List Byte :=
  let t := (l.drop off).take n
  t ++ List.replicate (n - t.length) 0

/-- A little-endian field of a byte list. -/
def leField (l : List Byte) (off n : Nat) : Nat := leNat (sliceBytes l off n)

/-- Bits [lo + w − 1 : lo] of a number. -/
def bits (v lo w : Nat) : Nat := v / 2 ^ lo % 2 ^ w

/-- v with bits [lo + w − 1 : lo] replaced by x. -/
def setBits (v lo w x : Nat) : Nat :=
  v % 2 ^ lo + (x % 2 ^ w) * 2 ^ lo + v / 2 ^ (lo + w) * 2 ^ (lo + w)

/-- Add, saturating at 2^w − 1. -/
def satAdd (w a b : Nat) : Nat := min (a + b) (2 ^ w - 1)

/-- The first number at or after `start`, counted cyclically below `n`, that is not in `used`: an open choice kept
among the free places. -/
def firstFree (used : List Nat) (n start : Nat) : Nat → Option Nat
  | 0 => none
  | fuel + 1 =>
    let k := start % n
    if n = 0 then none
    else if used.contains k then firstFree used n (k + 1) fuel
    else some k

/-- Round up division. -/
def ceilDiv (a b : Nat) : Nat := (a + b - 1) / b

/-- Numbers a, a + 1, …, a + n − 1. -/
def natRange (a : Nat) : Nat → List Nat
  | 0 => []
  | n + 1 => a :: natRange (a + 1) n

end Sys2Proof.Machine
end

