-- ==== Sys2Proof/Machine/State.lean ====
section
/-! DEFINITION. Machine/State.lean: everything the manual gives the switch, as plain data, and the state right after
reset. Maps from numbers are lists with rising keys; what a map does not list has the reset value that the map's
docstring names. -/
namespace Sys2Proof.Machine

/-- Reasons a command could stop the machine with a fault: there are none, since every command of the table has an
effect, an answer or no effect in every state. Nobody raises one: safe. -/
inductive Fault where
deriving DecidableEq, Repr

/-- Reasons for a command to have no meaning. -/
inductive Refusal where
  /-- The command of this mnemonic is not modelled yet. Raised by exec's own arm only: safe. -/
  | notModelled (mnemonic : String)
deriving DecidableEq, Repr

/-! ## Small kinds -/

/-- Tiers of copy 0 of a pool frame (R122). -/
inductive Tier where
  | t1 | t2 | t3
deriving DecidableEq, Repr

/-- Classes of accesses at the region arbiter (R143). -/
inductive ArbClass where
  | fast | req | col | bulk | bg
deriving DecidableEq, Repr

/-- Directory states of a line (R216). -/
inductive DirState where
  | i | s | e | m
deriving DecidableEq, Repr

/-- The switch's status codes of a command in progress or a request are Jarti's codes (R82) and Hyser's (R851); a
command's return address: who gets its completion. -/
structure CmdRef where
  fn : Nat
  qp : Nat
  cid : BitVec 16
  addr1 : Nat
  outLen : Nat
  /-- the command came in FM_COMMAND: node to answer and CMD_SEQ (R815) -/
  fm : Option (Nat × Nat) := none
deriving DecidableEq, Repr

/-- A packet inside the switch core. -/
inductive Packet where
  | req (op : Op) (p : Req)
  | resp (r : Resp)
deriving DecidableEq, Repr

/-! ## Jarti transactions (02) -/

/-- One part of a request that has passed the ingress check (R189): bytes `off` to `off + len` of the request, which
lie at pool address `pool` and are homed at `home`. -/
structure ReqPart where
  off : Nat
  len : Nat
  pool : Nat
  /-- pool address of the source bytes of a COPY -/
  srcPool : Nat := 0
  home : Nat
  /-- a node offset of this switch as the windows translate it when the request is admitted (R190, R197): pool address and window index plus 1
  of its range, and those of a COPY's source; none where no window holds it -/
  win : Option ((Nat × Nat) × (Nat × Nat)) := none
  /-- the part was sent, or its operation started -/
  sent : Bool := false
  /-- the tag and number under which the part was sent to another home (R64, R94) -/
  tag : Nat := 0
  /-- bytes answered of a part of a LOAD -/
  got : Nat := 0
  done : Bool := false
  status : Nat := 0
deriving DecidableEq, Repr

/-- Where a request stands at its ingress. -/
inductive ReqPhase where
  /-- waiting for its host bucket (R697) -/
  | bucket
  /-- held behind an earlier request or a FENCE (R96, R97) -/
  | held
  /-- a FENCE that waits for earlier requests -/
  | fencing
  /-- joined to a combining group (R245, R248) -/
  | grouped (g : Nat)
  /-- held on hot lines, with the STORE's place in the order of arrival there (R252), or absorbed by a later held STORE -/
  | hot (order : Nat)
  | absorbed (byReq : Nat)
  /-- forwarded, or being carried out at this switch -/
  | active
  /-- will never be answered (R88): held until its endpoint is reset or its partition torn down -/
  | unanswered
deriving DecidableEq, Repr

/-- A request of an attached endpoint that has passed the ingress check and is not complete (R86, R98). -/
structure OutReq where
  op : Op
  p : Req
  /-- the generation under which it is counted (R184) -/
  gen : Nat
  phase : ReqPhase
  parts : List ReqPart
  /-- what a compute request reads and writes in memory, as its admission knows it (R96, R360, R377): home, first and last line -/
  reach : List (Nat × Nat × Nat) := []
  /-- bytes answered so far (R78) -/
  covered : Nat := 0
  /-- result of the parts of an atomic or the single part of a forwarded request -/
  result : Nat := 0
  arrived : Time
deriving DecidableEq, Repr

/-- The sequence numbers of one pair of source and destination (R93, R100). -/
structure SeqPair where
  src : Nat
  dst : Nat
  /-- the lowest number that has not arrived -/
  next : Nat := 0
  /-- numbers above it that have arrived, each with the time of its arrival -/
  above : List (Nat × Time) := []
  /-- the missing numbers below this one have been logged (R100) -/
  logged : Option Nat := none
deriving DecidableEq, Repr

/-- A page table entry (R165). -/
structure Pte where
  size32 : Bool
  r : Bool
  w : Bool
  a : Bool
  page : Nat
deriving DecidableEq, Repr

/-- A request whose check waits for page walks (R180), with the entries that have arrived. -/
structure WalkWait where
  op : Op
  p : Req
  /-- pages (AST, index) whose walk has not ended -/
  todo : List (Nat × Nat)
  /-- the entries read: page, and its table entry where valid -/
  got : List ((Nat × Nat) × Option Pte) := []
deriving DecidableEq, Repr

/-- A page walk in progress, tagged with the generation current when it began (R180). -/
structure Walk where
  ast : Nat
  page : Nat
  gen : Nat
deriving DecidableEq, Repr

/-! ## Memory tiers (03) -/

/-- The tier map entry of a pool frame (R122), and what the switch remembers beside it. -/
structure TierEntry where
  tier : Tier
  moving : Bool := false
  /-- number of copies, 1 to 3 -/
  copies : Nat := 1
  quarantined : Bool := false
  cls : Nat
  heat : Nat := 0
  heatEpoch : Nat := 0
  /-- tier address [47:12] of each copy -/
  loc0 : Nat
  loc1 : Nat := 0
  loc2 : Nat := 0
  /-- the partition whose mapping created the entry (R594) -/
  partition : Nat
  /-- the mapping asked for read verification (R152) -/
  verify : Bool := false
  /-- time of the last move (R140) -/
  lastMove : Time := 0
  /-- how many collective optimizers' contexts bind it (R433) -/
  bound : Nat := 0
  /-- copies that failed or are stale (R151, R152) -/
  stale : List Nat := []
deriving DecidableEq, Repr

/-- Metadata of 4 KiB of one copy (R150). -/
structure CopyMeta where
  version : Nat := 0
  /-- at mapping, the CRC-32C of 4 KiB of zeros (R738) -/
  checksum : BitVec 32 := 0x98F94189
  pending : Bool := false
deriving DecidableEq, Repr

/-- A tray slot (R115 to R119). -/
structure TraySlot where
  nodes : List Nat
  t2Gib : Nat
  t3Gib : Nat
  t2Off : Nat
  t3Off : Nat
  /-- an evacuation runs (R120): the commands that wait for it -/
  evacuating : List CmdRef := []
deriving DecidableEq, Repr

/-- A frame move in progress (R129 to R132). -/
structure Move where
  dst : Tier
  /-- tier address [47:12] reserved at the destination, and the slot of a tray -/
  loc : Nat
  slot : Nat := 0
  /-- next sub-block, 0 to 32; whether its copy is running -/
  next : Nat := 0
  copying : Bool := true
  suspended : Bool := false
  /-- a read or a write of the move has failed: it is abandoned (R132) -/
  lost : Bool := false
  /-- which copy is moved (copies 1 and 2 move only on evacuation, R977) -/
  copyIx : Nat := 0
  /-- units held at a destination in T3 for each of its blocks: address [47:6] and length (R975) -/
  blocks : List (Nat × Nat) := []
  /-- the running sub-block's accesses: its operation, and that they are done -/
  op : Option Nat := none
  copied : Bool := false
  by_ : Option CmdRef := none
  /-- every sub-block is copied; the commit waits for writes in flight (R131) -/
  ready : Bool := false
deriving DecidableEq, Repr

/-- Where an operation at a home comes from. -/
inductive Origin where
  /-- part `part` of request `req` of this ingress -/
  | here (req part : Nat)
  /-- a request that another switch forwarded: the answer goes back over the fabric -/
  | remote
  /-- the single request of a combining group (R245, R248) -/
  | group (g : Nat)
  /-- the memory read of a coherence transaction on a line (R221) -/
  | coh (line : Nat)
  /-- an access of a compute engine's work: offset in the range asked for -/
  | job (id : Nat)
  /-- the copy of a sub-block of a frame, or of draft storage, that is being moved (R129) -/
  | move (frame : Nat)
  /-- data that a holder of a line gave with its snoop answer (R151, R221) -/
  | snooped
  /-- a copy of a frame that could not be used, written again from a good one (R152): its number -/
  | rewrite (copyIx : Nat)
  /-- what an engine of the switch has put in pool memory: a table's rows, an index's tombstones and lists -/
  | put
deriving DecidableEq, Repr

/-- Where an operation at a home stands. -/
inductive MemPhase where
  /-- waiting in the queue of a coherent line (R219, R223) -/
  | line
  /-- waiting for a sub-block copy (R130) -/
  | move
  /-- waiting for a copy-on-write copy (R272) -/
  | cow
  /-- a T3 write held for storage (R975) -/
  | t3
  /-- an earlier write of the home to one of its lines, or to one of its blocks in T3, is not done (R127, R250) -/
  | order
  /-- served by the memory read of another LOAD of its line (R247) -/
  | joined
  /-- its accesses are at the arbiters, in HBM or at trays -/
  | access
deriving DecidableEq, Repr

/-- A memory operation being carried out at this home. -/
structure MemOp where
  op : Op
  p : Req
  origin : Origin
  /-- pool range, and the source range of a COPY -/
  pool : Nat
  len : Nat
  srcPool : Nat := 0
  /-- bytes to write, or the operands of an atomic -/
  data : List Byte := []
  /-- offset of the part in its request (R189) -/
  segOff : Nat := 0
  /-- where each touched frame's bytes stand: the version the request reads or writes (R263) -/
  views : List (Nat × Nat) := []
  phase : MemPhase
  /-- coherent lines still to be taken, and those taken -/
  todo : List Nat := []
  held : List Nat := []
  /-- accesses not yet done -/
  left : Nat := 0
  /-- lines that an access found uncorrectable (R597) -/
  bad : List Nat := []
  /-- lines that one copy of a frame failed to bring under read verification, each with the copy's number (R152) -/
  copyBad : List (Nat × Nat) := []
  failed : Bool := false
  /-- its effect has been applied and its writes run; the status and RESULT it will answer -/
  writing : Bool := false
  st : Nat := 0
  res : Nat := 0
  /-- window index used, plus 1, or 0 for none (R197), and that of a COPY's source -/
  window : Nat := 0
  srcWindow : Nat := 0
  /-- the line whose transaction waits for the operation (R221) -/
  forLine : Option Nat := none
  /-- LOADs of the same line that waited with it and that its memory read serves (R247) -/
  also : List Nat := []
  /-- an access of a repair: the BG class (R523) -/
  bg : Bool := false
  arrived : Time
deriving DecidableEq, Repr

/-- An access at a region arbiter (R143 to R147). -/
structure Access where
  id : Nat
  cls : ArbClass
  group : Nat
  arrived : Time
  promoted : Bool := false
  /-- memory operation served; 0: none of the home's operations waits for it -/
  op : Nat
  /-- what it reads or writes -/
  frame : Nat := 0
  read : Bool := true
  pool : Nat := 0
  len : Nat := 0
  /-- further LOADs of the same line that one memory read serves (R247) -/
  also : List Nat := []
deriving DecidableEq, Repr

/-- A region arbiter: accesses waiting, accesses that found their group full (R146), accesses granted and not done,
and the running credit of each class of the smooth weighted round-robin. -/
structure Arb where
  nextAcc : Nat := 0
  waiting : List Access := []
  outside : List Access := []
  granted : List Access := []
  credit : List Int := [0, 0, 0, 0, 0]
deriving DecidableEq, Repr

/-- What a request to a tray is for: lines of a frame in T2, a block of a T3 frame, or its block index (R125, R127). -/
inductive TrayUse where
  | lines | block | index
deriving DecidableEq, Repr

/-- A request sent to a tray for a memory operation (R117). -/
structure TrayReq where
  op : Nat
  what : TrayUse := .lines
  slot : Nat
  frame : Nat
  copyIx : Nat
  read : Bool
  pool : Nat
  len : Nat
  /-- bytes asked of the tray, and the segments that have arrived -/
  n : Nat := 0
  segs : List (Nat × List Byte) := []
  got : Nat := 0
  bad : Bool := false
  /-- a write to the range took effect while the read was under way -/
  excess : Bool := false
  /-- units newly allocated for a block that is written to a frame in T3 (R127): address [47:6] and length -/
  ext : Nat × Nat := (0, 0)
  /-- unanswered after 10 µs, and no other copy can be read (R158) -/
  late : Bool := false
  /-- SRC_NODE and TAG that it carries, and the tray's node (R64) -/
  src : Nat := 0
  tag : Nat := 0
  node : Nat := 0
  /-- not sent yet: the scheduler port at which it will enter, and its packet but for SEQ; it waits for the answer to an earlier one of the
  same source, tag and node -/
  wait : Option (Nat × Req) := none
  since : Time
deriving DecidableEq, Repr

/-- Storage chosen for a frame: tier address [47:12], and in T3 the units of its blocks, address [47:6] and length. -/
structure Place where
  loc : Nat
  blocks : List (Nat × Nat) := []
deriving DecidableEq, Repr

/-- The definition of an expert policy class (R140). -/
structure PolicyClass where
  tiers : Nat
  initial : Nat
  promote : Nat
  demote : Nat
  compress : Nat
  dwell : Nat
deriving DecidableEq, Repr

/-- The map count of a homed gigabyte, with the class and copy count of its first reference (R173, R175). -/
structure MapCount where
  count : Nat
  cls : Nat
  copies : Nat
  /-- references of other switches: node and number (R174, R759) -/
  refs : List (Nat × Nat) := []
deriving DecidableEq, Repr

/-! ## Translation (04) -/

/-- An entry of the AST table (R169). -/
structure Ast where
  draining : Bool := false
  spanLog2 : Nat
  partition : Nat
  gen : Nat
  ptLoc : Nat
  drainCount : Nat := 0
  /-- the sweep that follows the last advance of GEN is running (R183) -/
  sweeping : Bool := false
  /-- no request was in flight at the last advance: its invalidation completes with the sweep (R187) -/
  quiet : Bool := false
  /-- tells it from another AST that has had its number -/
  born : Nat := 0
deriving DecidableEq, Repr

/-- An entry of the translation cache (R179); the list's order is its use, newest first. -/
structure XEntry where
  ast : Nat
  gen : Nat
  page : Nat
  pte : Pte
deriving DecidableEq, Repr

/-- An invalidation that runs or waits (R185, R186): its AST, what it does when it runs, who waits for it. -/
inductive InvalKind where
  /-- POOL.UNMAP: pages that are released when it completes (R177) -/
  | unmap (base gib : Nat)
  | protect (base gib : Nat) (perms : Nat)
  | invalidate
  | destroy
  /-- a revocation (R759): every entry that translates to a gigabyte of pool goes -/
  | revoke (gib : Nat)
deriving DecidableEq, Repr

structure Inval where
  ast : Nat
  kind : InvalKind
  running : Bool
  /-- the gigabytes of pool released on completion -/
  release : List Nat := []
  by_ : Option CmdRef
deriving DecidableEq, Repr

/-- A window table entry (R191). -/
structure Window where
  offsetBase : Nat
  sizeGib : Nat
  poolBase : Nat
deriving DecidableEq, Repr

/-- A window change whose command waits for requests that use the old entry (R197). -/
structure WindowDrain where
  index : Nat
  ops : List Nat
  by_ : CmdRef
deriving DecidableEq, Repr

/-! ## Coherence (05) -/

/-- A coherence domain (R199, R203); `cfg` holds TENURE and TIMEOUT in the register file. -/
structure Domain where
  partition : Nat
  /-- members: index and node number (R200) -/
  members : List (Nat × Nat) := []
  failed : List Nat := []
  /-- a DOMAIN.DESTROY runs: who waits (R202, R986) -/
  destroying : Option (List CmdRef) := none
deriving DecidableEq, Repr

/-- A request in a line's queue (R219). -/
inductive LineReq where
  /-- a coherence message of member `agent`, to be answered to its sender -/
  | coh (op : Op) (agent : Nat) (p : Req) (origin : Origin)
  /-- a memory operation; `excl` where it writes -/
  | plain (op : Nat) (excl : Bool)
  /-- the home itself invalidates the line: an eviction (R217), a range withdrawn (R202) -/
  | inval
  /-- the line's directory entry was uncorrectable: every member is snooped (R218) -/
  | entry
deriving DecidableEq, Repr

/-- The transaction of a line (R219, R221). -/
structure Txn where
  req : LineReq
  /-- waits for the tenure of the last grant (R224) -/
  waitTenure : Bool := false
  /-- snoop sent: SNP_INV or SNP_SHARE; its tag (R212); members whose answer is awaited; those of them that answered no copy (R228) -/
  inv : Bool := true
  tag : Nat := 0
  awaiting : List Nat := []
  noCopy : List Nat := []
  deadline : Time := 0
  /-- the memory access of the transaction is running; writes of data that holders gave (R151, R221) -/
  reading : Bool := false
  writes : List Nat := []
  /-- the line was in I when the transaction began: RD_SHARED then grants E (R221) -/
  fromI : Bool := false
deriving DecidableEq, Repr

/-- The directory entry of a line, its queue and its transaction (R216 to R226). -/
structure Line where
  st : DirState := .i
  sharers : List Nat := []
  owner : Nat := 0
  domain : Nat
  /-- end of the tenure of the last grant, and the agent granted (R224) -/
  tenure : Option (Time × Nat) := none
  txn : Option Txn := none
  queue : List LineReq := []
  /-- agents whose most recent request for the line the home has granted (R211) -/
  granted : List Nat := []
  used : Nat := 0
  /-- snooped because its range is being withdrawn (R202) -/
  leaving : Bool := false
deriving DecidableEq, Repr

/-- A combining group (R245, R248). -/
structure Group where
  /-- pool address of the line, or of the integer -/
  pool : Nat
  op : Op
  width : Nat
  signed : Bool
  ast : Nat
  gen : Nat
  home : Nat
  start : Time
  /-- requests of the group in order of arrival -/
  members : List Nat
  /-- the window has closed and the group's request was sent -/
  sent : Bool := false
  tag : Nat := 0
deriving DecidableEq, Repr

/-- A hot line (R251 to R254). -/
structure HotLine where
  lastSend : Time
  /-- since when no STORE to it is held or outstanding -/
  idle : Time := 0
  outstanding : Option Nat := none
  held : List Nat := []
deriving DecidableEq, Repr

/-- A request of a host bridge's host, as the bridge converted it (R240). -/
structure BridgeOp where
  bridge : Nat
  /-- the host's tag -/
  hostTag : Nat
  /-- tags of its Jarti requests that are not answered: a partial write takes a STORE for each run of bytes -/
  tags : List Nat
  /-- the first status other than OK that one of them brought -/
  status : Nat := 0
deriving DecidableEq, Repr

/-- A back-invalidate snoop that a host bridge has sent to its host and that is not answered (R240). -/
structure BiSnoop where
  bridge : Nat
  line : Nat
  inv : Bool
  home : Nat
  tag : Nat
deriving DecidableEq, Repr

/-- An HDM decoder of a host bridge port (R238). -/
structure HdmDecoder where
  base : Nat
  sizeGib : Nat
  partition : Nat
  ast : Nat
  vbase : Nat
deriving DecidableEq, Repr

/-! ## Logical ports (14, 19) -/

/-- Link states of a logical port (R626). -/
inductive LinkState where
  | disabled | detect | equalize | identify | config | active | retrain | lowPower | down | quarantined
deriving DecidableEq, Repr

/-- Discovery states of a logical port (R806). -/
inductive Disc where
  | none | hello | verify | known | untrusted
deriving DecidableEq, Repr

/-- Roles of a link partner (R612 TRAIN_ID, R807). -/
inductive Role where
  | switch | endpoint | tray
deriving DecidableEq, Repr

/-- The identity a partner's LL_HELLO gives (R807). -/
structure Partner where
  role : Role
  deviceId : Nat
  node : Nat
  yourNode : Nat
  lport : Nat
  caps : Nat
  serial : Nat
  bootId : Nat
  queueBytes : Nat
  dramBytes : Nat
  chainLen : Nat
  nonce : List Byte
deriving DecidableEq, Repr

/-- A low-power negotiation (R635). -/
inductive LpState where
  | idle | asked | acked | granted
deriving DecidableEq, Repr

/-- A packet at its egress: its identity, flits in all and not yet sent, and whether it uses the escape channel. -/
structure TxPkt where
  id : Nat
  pkt : Packet
  total : Nat
  left : Nat
  esc : Bool := false
  /-- where it entered the switch -/
  inPort : Nat := 148
  inLport : Nat := 748
deriving DecidableEq, Repr

/-- The link layer of a logical port (R608 to R636). -/
structure Link where
  /-- packets that have crossed and wait to be sent, oldest first; data flits in the open secure frame -/
  txq : List TxPkt := []
  txFrame : Nat := 0
  /-- transmitter: next data codeword number, numbers held (oldest first), when the oldest was sent, replays in a row
  from one number -/
  txNext : Nat := 0
  txHeld : List Nat := []
  txSince : Time := 0
  replayAt : Nat := 0
  replays : Nat := 0
  /-- packets (by core identity) with a flit in each held codeword -/
  txPkts : List (Nat × Nat × Packet) := []
  /-- flits sent per channel, the partner's advertisements and CREDIT_c -/
  sent : List Nat := [0, 0, 0, 0, 0, 0, 0, 0, 0, 0, 0, 0]
  peerAdv : List Nat := [0, 0, 0, 0, 0, 0, 0, 0, 0, 0, 0, 0]
  peerFreed : List Nat := [0, 0, 0, 0, 0, 0, 0, 0, 0, 0, 0, 0]
  /-- receiver: next number expected, whether any was accepted, waiting for REPLAY since, accepted since the last
  STATUS, when the last STATUS was sent -/
  rxNext : Nat := 0
  /-- number of the next data codeword to arrive, which a REPLAY sets back; slots of it already accepted (R623) -/
  rxPos : Nat := 0
  rxSkip : Nat := 0
  rxAny : Bool := false
  rxWait : Option Time := none
  rxCount : Nat := 0
  statusAt : Time := 0
  /-- own advertisements, flits received and flits freed per channel -/
  adv : List Nat := [0, 0, 0, 0, 0, 0, 0, 0, 0, 0, 0, 0]
  got : List Nat := [0, 0, 0, 0, 0, 0, 0, 0, 0, 0, 0, 0]
  freed : List Nat := [0, 0, 0, 0, 0, 0, 0, 0, 0, 0, 0, 0]
  /-- a packet is received in part: its channel; its flits are discarded (R637) -/
  partial_ : Option Nat := none
  dropping : Bool := false
  /-- an ESCAPE has arrived and its packet has not (R615); that packet is discarded (R637) -/
  escNext : Bool := false
  dropNext : Bool := false
  /-- codeword and slot of the first data flit of the open secure frame, and its data flits (R591, R624) -/
  frameAt : Option (Nat × Nat) := none
  frameFlits : Nat := 0
  /-- training: what CONFIG has received -/
  gotCredit : Bool := false
  sentCredit : Bool := false
  gotDone : Bool := false
  lp : LpState := .idle
  beaconAt : Time := 0
deriving DecidableEq, Repr

/-- Secure frames of a marked port (R591 to R593). -/
structure Secure where
  txCtr : Nat := 0
  rxCtr : Nat := 0
  txSlot : Nat := 0
  rxSlot : Nat := 0
  /-- key and salt in each slot, by direction, 36 bytes each; the slot that the transmitter takes at its next frame boundary; when
  the current key was installed -/
  txKeys : List (Option (List Byte)) := [none, none]
  rxKeys : List (Option (List Byte)) := [none, none]
  txWant : Option Nat := none
  since : Time := 0
  /-- the frame that failed once -/
  failedOnce : Option Nat := none
deriving DecidableEq, Repr

/-- A gateway logical port (R641 to R645). -/
structure Gateway where
  ownMac : Nat
  peerMac : Nat
  vlan : Option Nat
  pcp : List Nat
  rtoUs : Nat
  deadUs : Nat
  retxMib : Nat
  seq : Nat := 0
  acked : Nat := 0
  rxSeq : Nat := 0
  /-- data frames held with the flits of each, oldest first, and when the oldest was sent -/
  held : List (Nat × Nat) := []
  heldSince : Time := 0
  lastGood : Time := 0
  lastSent : Time := 0
  /-- priorities paused by PFC, and until when -/
  paused : List (Nat × Time) := []
deriving DecidableEq, Repr

/-- A logical port: link state, partner, discovery, privileges, membership. -/
structure LPort where
  link : LinkState := .disabled
  entered : Time := 0
  role : Option Role := none
  /-- lanes in use, as lanes of the fabric port, when below those configured (R632); the partner's DEGRADE_OK -/
  lanesCut : Option (List Nat) := none
  peerDegrade : Bool := false
  ll : Link := {}
  marked : Bool := false
  sec : Secure := {}
  gw : Option Gateway := none
  /-- times of violations, newest first (R638) -/
  viol : List Time := []
  /-- PORT.RETRAIN commands that wait (R982) -/
  retrainBy : List CmdRef := []
  disc : Disc := .none
  discSince : Time := 0
  partner : Option Partner := none
  /-- the serial and node of the partner before the last loss (R824) -/
  before : Option (Nat × Nat) := none
  /-- 10 ms have passed without the partner's LL_HELLO, and this was reported (R806) -/
  helloLate : Bool := false
  nonce : List Byte := []
  cert : List Byte := []
  /-- node number assigned (R817) -/
  node : Option Nat := none
  flat : Bool := false
  nodePriv : Bool := false
  /-- partitions it belongs to (R729) -/
  parts : List Nat := []
  /-- the endpoint passed through NONE since it was last KNOWN (R810) -/
  wasDown : Bool := false
deriving DecidableEq, Repr

/-- A hop that Lamplighter cleared and may restore (R821, R824): entry, hop index (4 is the escape hop), port. -/
structure Cleared where
  dst : Nat
  hop : Nat
  lport : Nat
deriving DecidableEq, Repr

/-- A registered fabric manager (R811). -/
structure Manager where
  key : List Byte
  report : Nat
  /-- the largest CMD_SEQ accepted from it since cold start: none before the first (R814) -/
  lastSeq : Option Nat := none
deriving DecidableEq, Repr

/-! ## Switch core (15) -/

/-- A packet in a virtual output queue, or waiting in its credit reserve (R649, R660). -/
structure QPkt where
  id : Nat
  pkt : Packet
  /-- ingress scheduler port and ingress logical port (512 and above: none) -/
  inPort : Nat
  inLport : Nat
  /-- egress logical port; 600 + n for internal scheduler port n -/
  egress : Nat
  esc : Bool := false
  tc : Nat
  bytes : Nat
  entered : Time
  /-- admitted to the shared area, and so to its VOQ (R660) -/
  shared : Bool := false
  admitted : Time := 0
  promoted : Bool := false
  /-- flits still to cross, and flits in all; cells hold four (R650) -/
  cells : Nat
  total : Nat
  /-- since when its channel has had no credit (R670) -/
  noCredit : Option Time := none
  /-- further egress ports of a multicast packet that still need their copy, and those that take the pass in
  progress (R676) -/
  others : List Nat := []
  taking : List Nat := []
  /-- it may be cut through (R665); its last flit has not arrived -/
  cut : Bool := false
  tail : Bool := false
  /-- flits of link credit to return when it is admitted, or has crossed (R660) -/
  credit : Nat := 0
  /-- since when it has waited at the head for a shaper, for a gate (R723) -/
  shapeSince : Option Time := none
  gateSince : Option Time := none
  /-- gate group of a collective's packet (R703) -/
  group : Nat := 0
  /-- what each egress of a multicast packet sends: its copy, with its own DST_NODE, ADDRESS, framing and number (R677) -/
  copies : List (Nat × Packet) := []
  /-- a compute request on its way to the blocks of a region: whom they answer, and the request with its plain payload (R43, R44) -/
  work : Option (Origin × Op × Req) := none
deriving DecidableEq, Repr

/-- A routing table entry (R667). -/
structure Route where
  local_ : Bool
  /-- adaptive next hops 0 to 3, where valid -/
  hops : List (Option Nat)
  esc : Option Nat
  /-- the hop this entry last chose (R669) -/
  last : Nat := 3
deriving DecidableEq, Repr

/-! ## Hyser (20) -/

/-- A queue pair (R836). -/
structure Qp where
  sqBase : Nat := 0
  cqBase : Nat := 0
  en : Bool := false
  sqLog2 : Nat := 0
  cqLog2 : Nat := 0
  vector : Nat := 0
  ien : Bool := false
  coalCount : Nat := 1
  coalUs : Nat := 0
  ready : Bool := false
  error : Bool := false
  sqHead : Nat := 0
  sqTail : Nat := 0
  cqHead : Nat := 0
  cqTail : Nat := 0
  phase : Bool := true
  /-- completions written and not yet signalled, and when the oldest was written (R842) -/
  unsignalled : Nat := 0
  oldest : Time := 0
deriving DecidableEq, Repr

/-- A completion that waits to be written (R840). -/
structure Completion where
  qp : Nat
  cid : BitVec 16
  status : Nat
  result : Nat
  time : Nat
  sqHead : Nat
  /-- output bytes and their host address (R846) -/
  out : List Byte := []
  addr : Nat := 0
deriving DecidableEq, Repr

/-- A command in progress (R838, R856). -/
structure InFlight where
  qp : Nat
  cid : BitVec 16
  fence : Bool
  started : Bool
  sqHead : Nat
  group : Nat := 0
  verb : Nat := 0
  /-- the status with which a command whose GROUP and VERB are not listed (R852), or whose fixed reserved bits are set,
  completes when it may start -/
  unknown : Option Nat := none
  /-- its function was reset or its queue stopped: no completion is posted (R831, R840) -/
  orphan : Bool := false
deriving DecidableEq, Repr

/-- The Hyser state of one function (R836). -/
structure Fn where
  qps : List (Nat × Qp) := []
  evqOverflow : Bool := false
  cfgReject : Bool := false
  accessError : Bool := false
  droppedCompletions : Nat := 0
  droppedEvents : Nat := 0
  /-- commands in progress, oldest first, and completions to be written, oldest first -/
  inFlight : List InFlight := []
  done : List Completion := []
  /-- low halves held by register offset (R833) -/
  lowHalf : List (Nat × Nat) := []
  /-- the MSI-X table and pending bits as written, in 32-bit words by offset (R832) -/
  msix : List (Nat × Nat) := []
deriving DecidableEq, Repr

/-- PF0's event queue (R843). -/
structure Evq where
  base : Nat := 0
  en : Bool := false
  log2 : Nat := 0
  vector : Nat := 0
  head : Nat := 0
  tail : Nat := 0
  phase : Bool := true
deriving DecidableEq, Repr

/-! ## What the switch sends -/

/-- A report to the fabric managers (R826): its kind, the node or port it names, and its detail words. -/
structure Report where
  kind : Nat
  a : Nat := 0
  b : Nat := 0
  c : Nat := 0
deriving DecidableEq, Repr

/-- Link control flits that the switch sends (R612). -/
inductive Ctl where
  | status (ack : Nat) (valid : Bool) (credits : List Nat)
  | nak (seq : Nat)
  | replay (seq : Nat)
  | escape
  | lpReq | lpAck | lpNak
  | trainId (lanes : Nat) (marked degradeOk : Bool)
  | trainCredit (adv : List Nat)
  | trainDone
deriving DecidableEq, Repr

/-- Errors that the SPDM responder answers (R739, R741, and DMTF SPDM 1.3). -/
inductive SpdmError where
  | unsupportedRequest | negotiationFail | invalidRequest | unexpectedRequest | unspecified
deriving DecidableEq, Repr

/-- Errors of a TDI (TDISP 1.0, R747). -/
inductive TdispError where
  | invalidRequest | invalidInterface | invalidInterfaceState | invalidNonce
deriving DecidableEq, Repr

/-- The interface report of a VF (R748): registers of its BAR0, MSI-X vectors, the partition record, logical ports, decoders,
AST numbers, and program instances with their image's measurement. -/
structure TdiReport where
  vf : Nat
  barBytes : Nat
  vectors : Nat
  record : Nat
  ports : List Nat
  decoders : List Nat
  asts : List Nat
  insts : List (Nat × List Byte)
deriving DecidableEq, Repr

/-- What the SPDM responder answers (R739 to R751): the contents that the manual gives, without the encodings of SPDM, IDE_KM and
TDISP. -/
inductive SpdmReply where
  | version
  /-- the capabilities of R740 -/
  | capabilities
  /-- the algorithm set of R741 is selected -/
  | algorithms
  | digest (d : List Byte)
  | certificate (part : List Byte) (left : Nat)
  | challenge (certDigest nonce signature : List Byte)
  | measurements (total : Nat) (blocks : List (Nat × List Byte)) (signature : Option (List Byte))
  | keyExchange (ciphertext signature : List Byte)
  | finish | endSession | heartbeat | keyUpdate | vendorDefined
  | error (e : SpdmError)
  | ideAck (ok : Bool)
  | tdispVersion | tdispCapabilities | lockNonce (nonce : List Byte) | report (r : TdiReport) | tdiState (code : Nat)
  | started | stopped
  | tdispError (e : TdispError)
deriving DecidableEq, Repr

/-- What a host bridge sends to its host (R238, R240, R241). -/
inductive CxlOut where
  /-- S2M DRS MemData of a host tag: the line, and the status of the request where it failed -/
  | memData (tag : Nat) (line : List Byte) (status : Nat)
  /-- S2M NDR of a host tag: Cmp, or Cmp-S, Cmp-E, Cmp-M for a state granted of 1, 2, 3; and the status where the request failed -/
  | cmp (tag granted status : Nat)
  /-- S2M BISnpInv and BISnpData of a host physical address -/
  | biSnpInv (hpa : Nat)
  | biSnpData (hpa : Nat)
  /-- BIConflictAck of a host physical address -/
  | biConflictAck (hpa : Nat)
  /-- the outcome of a decoder's commit that was refused: index and status -/
  | decoderRefused (index status : Nat)
deriving DecidableEq, Repr

/-- What leaves the switch, in the order in which it leaves. -/
inductive Out where
  /-- a link control flit on a logical port -/
  | control (lport : Nat) (f : Ctl)
  /-- held data codewords sent again on a logical port (R621) -/
  | resend (lport : Nat) (nums : List Nat)
  /-- a beacon of training frames on an idle logical port (R636) -/
  | beacon (lport : Nat)
  /-- a secure-frame trailer (R591): key slot, frame counter, data flits -/
  | trailer (lport slot ctr flits : Nat)
  /-- a tunnel frame of a gateway logical port (R642): SEQ, ACK, FLITS -/
  | tunnel (lport seq ack flits : Nat)
  /-- a packet on a logical port -/
  | packet (lport : Nat) (pkt : Packet)
  /-- a CXL message of a host bridge to its host (R238, R240, R241) -/
  | cxl (bridge : Nat) (msg : CxlOut)
  /-- a write to host memory over the management link (R840, R846) -/
  | hostWrite (addr : Nat) (bytes : List Byte)
  /-- an MSI-X message of a function (R842) -/
  | msix (fn vector : Nat)
  /-- the value that a read of a register with effects of its own returns: function, offset, value (R18, R710) -/
  | regRead (fn off value : Nat)
  /-- a pulse of TIME_PPS_OUT at a second of fabric time (R938) -/
  | ppsOut (second : Nat)
  /-- the data register that a JTAG instruction shows: its length in bits, and its value (R966, R967) -/
  | tdo (len value : Nat)
  /-- an answer of the SPDM responder at PF0's DOE mailbox (R739), within a session where it names one -/
  | spdm (session : Option Nat) (reply : SpdmReply)
deriving DecidableEq, Repr

/-! ## Counters -/

/-- The counters the manual names. -/
inductive Ctr where
  /-- srcDrop: requests dropped at step 2 of the ingress check, per logical port (R84) -/
  | srcDrop (lport : Nat)
  /-- responses dropped under R102, per logical port -/
  | rspDrop (lport : Nat)
  /-- responses for no outstanding request (R89), per logical port -/
  | rspStray (lport : Nat)
  /-- snoop answers dropped under R102 or R235 -/
  | snoopDrop
  /-- placements that fell to a lower tier (R124) -/
  | placeFallback
  /-- abandoned moves (R132) -/
  | moveAbandon
  /-- promotions skipped for want of a T1 frame (R141) -/
  | promoteSkip
  /-- stale copies (R151) -/
  | staleCopy
  /-- crossings (R228) -/
  | crossing
  /-- coherence requests of the recorded owner (R215, R221) -/
  | ownerViolation
  /-- uncorrectable directory entries (R218) -/
  | dirEcc
  /-- stages of a read that failed (R597) -/
  | stageFail
  /-- requests that a teardown released (R759) -/
  | tearReleased
  /-- packets discarded on logical ports that are not KNOWN (R809) -/
  | notKnown (lport : Nat)
  /-- switch core counters (R684), 48 bits -/
  | ageDiscards
  | noRouteDiscards
  | unanswered
  | rerouted
  | escMoves
  | ctAborts
  | reserveShort
  /-- link counters of each logical port (R639), 48 bits, in the order of R639 -/
  | link (lport k : Nat)
  /-- secure frames rejected (R593), per logical port -/
  | secureReject (lport : Nat)
  /-- gateway frames discarded (R642), per logical port -/
  | gwDiscard (lport : Nat)
  /-- program stalls (R159): instance, tier and reason code; time in ns (48 bits) and events (32 bits) -/
  | stallNs (inst tier code : Nat)
  | stallEvents (inst tier code : Nat)
  /-- shaping and time counters (R723), 48 bits -/
  | hostHolds
  | bucketOverrides
  | shaperWaitNs
  | gateWaitNs
  | gateOverruns
  | timeSteps
  | upstreamChanges
  /-- link-level violations and other flits dropped with a counter (R637), per logical port -/
  | linkDrop (lport : Nat)
  /-- reliability counters (R802), 48 bits, in the order of R802 -/
  | ras (k : Nat)
  /-- faults that no counter of R802 counts (R34, R769): 0 errors of cells and tiles, 1 of scratch banks, 2 of queue state, 3 single
  bits of HBM lines that ECC corrected, 4 comparison mismatches of Hurricane, 5 parity errors of block arbiters -/
  | fault (k : Nat)
  /-- Lantern counters (R964), in the order of R964 -/
  | lantern (k : Nat)
  /-- power counters (R907), in the order of R907 -/
  | power (k : Nat)
  /-- counters of a program instance (R372): NAN_TO_INT, TERM_OVERFLOW, TERM_ROUNDED, SHADOW_STEPS, SHADOW_WAIT_NS, SHADOW_SKIPPED -/
  | prog (inst k : Nat)
  /-- counters of a collective context (R440), a table (R484), an index (R526), an attention context and a service (R573), in the order
  | of those rules -/
  | coll (ctx k : Nat)
  | emb (table k : Nat)
  | search (index k : Nat)
  | attn (ctx k : Nat)
  | serve (svc k : Nat)
  /-- scrubs of parity that reloaded a word (R322); re-balancing moves of the switch and those not started (R434, R571) -/
  | rebalances
  | rebalanceHeld
  /-- contributions and partials for rounds that are not open (R401), pieces that did not fit (R399) -/
  | collOdd
  /-- deliveries sent once more in plain form (R588) -/
  | deliverAgain
deriving DecidableEq, Repr

/-- An event that the manual logs without saying where (R34): a kind and the numbers it names. -/
structure LogEntry where
  kind : String
  args : List Nat := []
  time : Time := 0
deriving DecidableEq, Repr

/-! ## The parts of the state -/

/-- The link credit of a request that the switch has not given back yet (R226, R254). -/
structure Owed where
  p : Req
  flits : Nat
deriving DecidableEq, Repr

/-- Requests at this ingress (02). -/
structure Ingress where
  outs : List (Nat × OutReq) := []
  pairs : List SeqPair := []
  waits : List (Nat × WalkWait) := []
  /-- the next number of each pair of this switch's own node and a destination, by node times 32,768 plus destination (R94) -/
  ownSeq : List (Nat × Nat) := []
  ownTag : Nat := 0
  /-- tags of this switch's own management messages that are not answered (R89, R803) -/
  mgmtOut : List Nat := []
  /-- requests whose link credit is withheld: for a place in a full queue of a line (R226), or, on channel REQ of an endpoint port, while
  4,096 STOREs are held for hot lines (R254) -/
  owed : List Owed := []
deriving DecidableEq, Repr

/-- The pool this switch homes (03). -/
structure Mem where
  /-- plaintext contents of mapped frames by pool address -/
  bytes : List (Nat × Byte) := []
  /-- poisoned lines by pool address ÷ 64, rising -/
  poison : List Nat := []
  tier : List (Nat × TierEntry) := []
  /-- copy metadata by (frame × 4 + copy) × 512 + unit of 4 KiB (R150) -/
  copyMeta : List (Nat × CopyMeta) := []
  /-- contents of a copy's 4 KiB where they differ from the frame's, by the same key (R790) -/
  copyAlt : List (Nat × List Byte) := []
  counts : List (Nat × MapCount) := []
  /-- home range table, 4,096 entries: node number of the home; unlisted: no home (R107) -/
  homes : List (Nat × Nat) := []
  slots : List (Nat × TraySlot) := []
  moves : List (Nat × Move) := []
  ops : List (Nat × MemOp) := []
  arbs : List (Nat × Arb) := []
  trayReqs : List (Nat × TrayReq) := []
  /-- T3 frames whose block index is cached, most recently used first (R126) -/
  t3Index : List Nat := []
  /-- units of the block of each 4 KiB of a T3 frame, by frame × 512 + j: tier address [47:6] and length (R125) -/
  t3At : List (Nat × (Nat × Nat)) := []
  /-- units that blocks have left, and the reads that still use them (R127) -/
  t3Old : List ((Nat × Nat) × List Nat) := []
  /-- storage that a committed move has left, and the reads that still use it (R131) -/
  freeing : List (Nat × List Nat) := []
  /-- expert classes as they are in force, and redefinitions that the next scan puts in force (R140) -/
  classes : List (Nat × PolicyClass) := []
  classesNext : List (Nat × PolicyClass) := []
  /-- bits 8 to 63 of the class mask of each partition (R974) -/
  classOn : List (Nat × Nat) := []
  scanAt : Time := 0
  /-- when the next scan is due (R141); after READY the first one comes one interval, 10 ms at the reset value, later (DESIGN CHOICE, log
  entry 163) -/
  nextScan : Option Time := some 10000000
  periodAt : Time := 0
  freeMode : Bool := false
  freePending : Option (Bool × Nat × CmdRef) := none
  /-- T1 frames taken by other uses than pool frames (R446, R490, R547, R641): owner and number of frames -/
  reserved : List (Nat × Nat) := []
deriving DecidableEq, Repr

/-- Translation (04). -/
structure Xlat where
  asts : List (Nat × Ast) := []
  /-- page table entries by AST × 2^18 + index; unlisted: invalid -/
  ptes : List (Nat × Pte) := []
  cache : List XEntry := []
  walks : List Walk := []
  invals : List Inval := []
  windows : List (Nat × Window) := []
  windowDrains : List WindowDrain := []
deriving DecidableEq, Repr

/-- Coherence, combining and hot lines (05). -/
structure Coh where
  domains : List (Nat × Domain) := []
  /-- coherent gigabytes: pool address ÷ 2^30 to domain (R201) -/
  ranges : List (Nat × Nat) := []
  lines : List (Nat × Line) := []
  /-- directory entries used, for the least recently used (R217) -/
  stamp : Nat := 0
  groups : List (Nat × Group) := []
  hot : List (Nat × HotLine) := []
  decoders : List (Nat × HdmDecoder) := []
  /-- lines that a host bridge's host holds in E or M (R240): bridge × 2^48 + line -/
  hostHeld : List Nat := []
  biSnoops : List BiSnoop := []
  /-- host requests that a bridge has converted and that are not answered, and the tag it used last (R240) -/
  bridgeOps : List BridgeOp := []
  bridgeTag : Nat := 0
  /-- the next number of each pair of a host bridge's node and a destination (R93): by port times 2^30, plus the bridge's node times
  32,768, plus the destination -/
  bridgeSeq : List (Nat × Nat) := []
  /-- DOMAIN.SET_RANGE removals that wait for their snoops: gigabyte and command -/
  leaving : List (Nat × CmdRef) := []
  /-- agent failures whose directory sweep has not run: domain and index (R232) -/
  sweeps : List (Nat × Nat) := []
  /-- agents marked failed whose endpoint has not been reset since: domain and node (R235) -/
  unreset : List (Nat × Nat) := []
  /-- requests that a line's full queue does not take yet, oldest first: line and request (R226) -/
  backlog : List (Nat × LineReq) := []
deriving DecidableEq, Repr

/-- The switch core (15). -/
structure Core where
  voqs : List QPkt := []
  routes : List (Nat × Route) := []
  grantPtr : List (Nat × Nat) := []
  acceptPtr : List (Nat × Nat) := []
  /-- attachments retired per scheduler port (R771) -/
  retiredAtt : List (Nat × Nat) := []
  /-- bytes of spill reserved by collectives at this switch (R409, R659) -/
  spill : Nat := 0
  /-- number of the last cell time (R46) -/
  lastCell : Nat := 0
  /-- times of cell CRC errors per scheduler port, and of scheduler parity errors (R771, R781) -/
  crcAt : List (Nat × List Time) := []
  parityAt : List Time := []
deriving DecidableEq, Repr

/-- The Hyser interface (20). -/
structure Hys where
  fns : List (Nat × Fn) := []
  evq : Evq := {}
  numVfs : Nat := 0
  vfEnable : Bool := false
  /-- fetcher rotation: PF's turn next, last PF queue, last VF queue visited -/
  pfTurn : Bool := true
  pfLast : Nat := 63
  vfLast : Nat := 0
deriving DecidableEq, Repr

/-- Discovery and management (19). -/
structure Fm where
  managers : List Manager := []
  threshold : Nat := 0
  keyEpoch : Nat := 0
  selfNode : Nat := 0x7FFF
  stage : Nat := 0
  endpoints : Nat := 0
  serial : Nat := Config.serial.toNat
  bootId : Nat := (Config.freeWord 0).toNat
  cleared : List Cleared := []
  /-- RESET messages forwarded: node and time (R823) -/
  resets : List (Nat × Nat) := []
  eventSeq : Nat := 0
  uncounted : Nat := 0
  /-- a ROUTE.SET with ESC_DRAIN that waits: entries and command (R820) -/
  escDrain : Option (List (Nat × Option Route) × CmdRef × Time) := none
deriving DecidableEq, Repr

/-! ### Versioned shared regions (06) -/

/-- An open of a node on a region (R261): a read open of a version, or a draft. -/
structure VOpen where
  draft : Bool
  version : Nat
  maxDirty : Nat := 0
  /-- storage reserved and not yet written (R268) -/
  reserve : List Nat := []
  /-- frames written by the draft: index in the region and the storage that holds them -/
  written : List (Nat × Nat) := []
  leaseEnd : Time
deriving DecidableEq, Repr

/-- Storage that keeps a frame of the region as it was up to version `upTo` (R280). -/
structure Retained where
  frame : Nat
  upTo : Nat
  sid : Nat
deriving DecidableEq, Repr

/-- A copy-on-write copy in progress, with the writes that wait for it (R272). -/
structure CowCopy where
  node : Nat
  frame : Nat
  sid : Nat
  ops : List Nat
deriving DecidableEq, Repr

/-- A shared region (R255 to R283). -/
structure SharedRegion where
  partition : Nat
  /-- pool frame numbers of the region, in order -/
  frames : List Nat
  leaseMs : Nat
  current : Nat := 1
  expiries : Nat := 0
  opens : List (Nat × VOpen) := []
  /-- nodes that hold an expired mark (R270) -/
  expired : List Nat := []
  retained : List Retained := []
  copies : List CowCopy := []
deriving DecidableEq, Repr

/-- Versioned shared regions of this home, and the pool ranges other homes announced (R260). -/
structure Snap where
  regions : List (Nat × SharedRegion) := []
  /-- announced ranges: first frame and number of frames -/
  announced : List (Nat × Nat) := []
  /-- storage in use for drafts and retained versions: storage number and tier address [47:12] -/
  storage : List (Nat × Nat) := []
  /-- storage that no version needs, kept while an operation uses it: storage number and region (R280) -/
  dying : List (Nat × Nat) := []
  /-- those of them that held a draft, not a version (R283) -/
  dyingDrafts : List Nat := []
  /-- SNAP.DESTROY commands that wait: region and command -/
  destroying : List (Nat × CmdRef) := []
deriving DecidableEq, Repr

/-! ### The compute fabric: blocks, instances and steps (07, 08) -/

/-- What a block is for. -/
inductive BlockUse where
  | free
  /-- bound to an instance's template under an ordinal (R349, R358) -/
  | bound (inst tmpl ord : Nat)
  /-- a shadow block of an instance (R368) -/
  | shadow (inst : Nat)
deriving DecidableEq, Repr

/-- Requesters of the block arbiter (R311). -/
inductive ArbPort where
  | cell (n : Nat)
  | tile | port | mem | net
deriving DecidableEq, Repr

/-- A request pending at a scratch bank (R311 to R313). -/
structure BankReq where
  id : Nat
  by_ : ArbPort
  bank : Nat
  issued : Time
  promoted : Bool := false
deriving DecidableEq, Repr

/-- A block arbiter (R311 to R314): requests not yet issued, requests pending, the rotating pointer of each bank. -/
structure BlockArb where
  todo : List (ArbPort × Nat) := []
  pending : List BankReq := []
  next : Nat := 0
  ptr : List (Nat × Nat) := []
deriving DecidableEq, Repr

/-- A block (R294, R305, R308, R322 to R326). -/
structure Block where
  use : BlockUse := .free
  retired : Bool := false
  /-- physical cell of each logical cell that a spare has replaced (R324) -/
  phys : List (Nat × Nat) := []
  spares : List Nat := [32, 33]
  suspects : List Nat := []
  retiredCells : List Nat := []
  /-- transient errors of a physical cell within the last second (R323) -/
  transients : List (Nat × Time) := []
  /-- uncorrectable errors of a scratch bank within the last millisecond (R773) -/
  bankErrs : List (Nat × Time) := []
  /-- when its words were last scrubbed (R322) -/
  scrubAt : Time := 0
  /-- steps committed since load, and the phase P (R369) -/
  steps : Nat := 0
  phase : Nat := 0
  /-- its 512 KiB of scratch by byte: byte a of block b is at T0 tier address b × 512 KiB + a (R308) -/
  scratch : List (Nat × Byte) := []
  /-- streams whose read half is the second of their two (R316, R345) -/
  second : List Nat := []
  /-- long accumulators by (logical cell × 32 + slice) × 4 + number (R299) -/
  accs : List (Nat × Nat) := []
  /-- a lane's previous result, by logical cell × 64 + lane (R295) -/
  prev : List (Nat × Nat) := []
  /-- C of the tile: 1,024 words of 32 bits, row-major; empty: zeros -/
  tileC : List Nat := []
  arb : BlockArb := {}
deriving DecidableEq, Repr

/-- Who is answered when an engine's work ends. -/
inductive JobTo where
  /-- a compute request: where it comes from, and the scheduler port of the region that serves it (R45) -/
  | origin (o : Origin) (port : Nat)
  /-- a part of a root at this switch -/
  | part (job ix : Nat)
  | cmd (r : CmdRef)
  /-- the sender of a relayed command (R827) -/
  | msg (p : Req)
  /-- a relayed command of this switch, as the part of a node -/
  | relay (id node : Nat)
  | nobody
deriving DecidableEq, Repr

/-- What is done with one row of a table at the host that holds it (R472, R476, R481). -/
inductive RowAct where
  | apply
  | record (bytes : List Byte)
  | move
deriving DecidableEq, Repr

/-- What an engine is working on. -/
inductive JobKind where
  /-- global step g of a template of an instance (R358) -/
  | image (inst tmpl g : Nat)
  /-- step g of a RUN of the quantize program or of the Tallow codec (R374, R375) -/
  | convert (inst g : Nat)
  | filter (inst : Nat)
  /-- a GATHER or SCATTER at its ingress, and a GATHER part at a host (R456 to R459, R469) -/
  | gather (table : Nat)
  | gatherPart (table : Nat)
  | scatter (table : Nat)
  /-- a SCATTER part at a host (R469), work on one row, and the reading of rows for a hot set (R478) -/
  | scatterPart (table : Nat)
  | row (table row : Nat) (act : RowAct)
  | rowsRead (table : Nat)
  /-- a SEARCH at its root, and a part on a shard (R504, R509, R512) -/
  | search (index : Nat)
  | searchPart (index : Nat)
  /-- SEARCH.REPAIR at a host (R522): the shards that are left, and the local number of the item in hand -/
  | repair (index : Nat) (shards : List Nat) (item : Nat)
  | attend (ctx : Nat)
  /-- the owner region's step for a complete chunk (R395) -/
  | chunk (node round chunk : Nat)
  /-- a command of a group and verb that reads tables at virtual addresses -/
  | command (group verb : Nat) (c : Cmd)
  /-- a request that goes on unchanged to the switch that holds its context or service -/
  | forward
deriving DecidableEq, Repr

/-- Where an engine's work stands. -/
inductive JobStage where
  /-- a step that has not started -/
  | queued
  /-- its operands are awaited (R319); a step goes on at STEP_RESUME -/
  | stalled
  /-- every element has passed: the step waits for its shadow's comparison or its commit (R317, R370) -/
  | done
  /-- a referee runs the step a third time (R782) -/
  | referee
  /-- committed; its writes to memory run -/
  | writing
  /-- parts sent to other hosts, or phases of other regions, are awaited -/
  | parts
deriving DecidableEq, Repr

/-- A part that a root has sent to a host (R457, R506). -/
structure JobPart where
  host : Nat
  /-- positions of the root's index words, or the shard -/
  items : List Nat
  sent : Bool := false
  /-- segments answered, and the bytes covered -/
  segs : List (Nat × List Byte) := []
  got : Nat := 0
  status : Option Nat := none
  result : Nat := 0
  /-- it was answered with RETRY_LATER: when it is sent again (R507) -/
  retryAt : Option Time := none
deriving DecidableEq, Repr

/-- Work of an engine: a pure function of the work and of the lines of memory that have arrived for it. -/
structure Job where
  kind : JobKind
  dest : JobTo
  op : Op := .run
  /-- the invoking request: its source, partition, class and payload -/
  p : Req
  /-- the instance whose stall counters it counts in (R159), and the block that carries it out -/
  inst : Option Nat := none
  block : Option Nat := none
  /-- blocks of the instance in other regions that hold its data: the shares of a step that spans regions (R43) -/
  also : List Nat := []
  /-- translations taken at admission: (AST, page) and the gigabyte of pool (R360) -/
  pages : List ((Nat × Nat) × Nat) := []
  /-- AST and generation in which it is counted here (R184, R540) -/
  hold : Option (Nat × Nat) := none
  stage : JobStage := .queued
  /-- lines that have arrived, by pool address ÷ 64 -/
  cache : List (Nat × List Byte) := []
  /-- ranges asked for and not arrived, and ranges whose writes are not done: pool address and length -/
  wait : List (Nat × Nat) := []
  /-- it ends with this status (R156) -/
  fail : Option Nat := none
  /-- the pool address at which it failed -/
  failAt : Option Nat := none
  /-- fabric time since which the present stall has had its reason, its tier and that reason (R156, R159) -/
  since : Time := 0
  tier : Nat := 0
  code : Nat := 0
  /-- the block steps counted for R369; it is shadowed, on a block, and compared equal -/
  shadowed : Bool := false
  watched : Bool := false
  shadow : Option Nat := none
  waitSince : Option Time := none
  checked : Bool := false
  /-- the step replays after a verdict against both blocks (R782) -/
  replayed : Bool := false
  /-- its data was read again once (R310) -/
  reread : Bool := false
  parts : List JobPart := []
  /-- plain lists of a root, once read -/
  lists : Option (List Byte) := none
  arrived : Time := 0
deriving DecidableEq, Repr

/-- A RUN in progress or queued at an instance (R358 to R363). -/
structure RunState where
  dest : JobTo
  p : Req
  /-- AST and generation in which it is counted here (R184, R360) -/
  hold : Option (Nat × Nat) := none
  pages : List ((Nat × Nat) × Nat) := []
  /-- next global step of each block, by template × 256 + ordinal (R358) -/
  next : List (Nat × Nat) := []
  committed : Nat := 0
  /-- data on NET streams: (template × 64 + stream) and global step (R346) -/
  net : List ((Nat × Nat) × List Byte) := []
  rsp : List (Nat × List Byte) := []
  writes : Nat := 0
  fail : Option Nat := none
deriving DecidableEq, Repr

/-- A program instance (R335, R349). -/
structure Inst where
  part : Nat
  gen : Nat
  /-- number in the library catalogue, or none for an expert image -/
  lib : Option Nat
  image : List Byte
  measure : List Byte
  /-- blocks by template and ordinal; none where a retired block has not been replaced -/
  blocks : List (List (Option Nat))
  shadows : List Nat
  /-- shadow blocks reserved at load (R368) -/
  need : Nat
  shadowN : Nat
  run : Option RunState := none
  queue : List RunState := []
  replace : Option (List Byte × CmdRef) := none
  /-- PROG.UNLOAD or teardown waits for the RUN in progress (R366) -/
  unload : Option (List CmdRef) := none
deriving DecidableEq, Repr

/-- The program record of a partition (R351), and the key it has registered (R347). -/
structure ProgRec where
  blocks : Nat := 0
  insts : Nat := 0
  expert : Bool := false
  shadowN : Nat := 1024
  signer : Option (List Byte) := none
deriving DecidableEq, Repr

/-! ### Collectives (09) -/

/-- A chunk at a logical node: what has arrived, the records, and where its delivery stands. -/
structure ChunkSt where
  /-- 1,024-element pieces received (R399): member, first element, number -/
  got : List (Nat × Nat × Nat) := []
  /-- pieces received from child nodes: child, first element, number -/
  kids : List (Nat × Nat × Nat) := []
  /-- records, or values of other kinds than SUM, by region × 2^20 + element at arrival regions, and by element at the owner -/
  regs : List (Nat × Nat) := []
  own : List (Nat × Nat) := []
  /-- arrival regions whose record has left; the owner's has left: sent up or committed (R413) -/
  leftRegs : List Nat := []
  closed : Bool := false
  /-- the result, once known, and the pieces of it that have come down -/
  result : List Byte := []
  known : Bool := false
  resGot : List (Nat × Nat) := []
  /-- deliveries and downward partials not complete, by tag; delivered whole -/
  out : List Nat := []
  delivered : Bool := false
  /-- downward partials of the parent to answer when the delivery is complete (R396) -/
  owe : List Req := []
  /-- the chunk's optimizer update is committed (R428), and the elements of it whose sum was not finite (R437) -/
  updated : Bool := false
  bad : Nat := 0
deriving DecidableEq, Repr

/-- An input that waits in spill (R415). -/
structure SpillIn where
  key : Nat
  op : Op
  p : Req
  bytes : Nat
  /-- the pieces of it that were not received before: first element, number -/
  parts : List (Nat × Nat)
deriving DecidableEq, Repr

/-- How devices lag (R571): the time that each took for its share, the consecutive slow rounds or parts of each, and that a boundary has
come since work was last moved. -/
structure Lag where
  took : List (Nat × Nat) := []
  slowFor : List (Nat × Nat) := []
  due : Bool := false
deriving DecidableEq, Repr

/-- A logical node hosted here. -/
structure CollNode where
  ctx : Nat
  ix : Nat
  owners : List Nat
  /-- block scratch reserved by region in bytes (R409) -/
  areas : List (Nat × Nat) := []
  /-- the lowest round not finished (R401) -/
  round : Nat := 0
  /-- chunks by round × 2^32 + chunk -/
  chunks : List (Nat × ChunkSt) := []
  /-- tree 0: members that joined, and children that reported JOINED, by round; rounds whose joins were reported up; rounds that all
  members joined (R402, R407) -/
  joined : List (Nat × Nat) := []
  kidsJoined : List (Nat × Nat) := []
  joinSent : List Nat := []
  allJoined : List Nat := []
  spill : List SpillIn := []
  /-- when the lowest open chunk was last given an input, or became it (R417) -/
  lastInput : Time := 0
  stallTold : Bool := false
  /-- optimizer: the powers of β in FP32 bits, and rounds begun (R436) -/
  b1p : Nat := 0
  b2p : Nat := 0
  begun : Nat := 0
  /-- at an optimizer's root: when the round began, and how regions lag (R571) -/
  startedAt : Time := 0
  lag : Lag := {}
  /-- at an optimizer's root: elements of the round before this one whose sum was not finite (R437) -/
  lastBad : Nat := 0
  /-- re-hosted here, and RESUME has not come: its round is not known -/
  fresh : Bool := false
deriving DecidableEq, Repr

/-- A collective context at a host (R379 to R390). -/
structure CollCtx where
  coord : Nat
  id : Nat
  part : Nat
  gen : Nat
  desc : List Byte
  members : List Byte
  /-- the tree table with its present hosts -/
  tree : List Byte
  rehostGen : Nat := 0
  /-- the switch to which each member's NODE is attached, and the host of each logical node as at open: 2 bytes each (R388) -/
  nodeAt : List Byte := []
  hosts0 : List Byte := []
  /-- the present coordinator (R424) -/
  lead : Nat
  /-- RESUMEs so far: each wrote a notice to every member, as each finished round did, so the two count a member's notices (R406) -/
  resumes : Nat := 0
  /-- sums of a whole shard that were not finite, by round × 16 + tree, as their root has told it (R437) -/
  nonfinite : List (Nat × Nat) := []
  /-- logical nodes at other hosts that have delivered their shard to members whose tree 0 leaf is here: round and node (R407) -/
  away : List (Nat × Nat) := []
  /-- COLL.SET_OPT changes by first round: LR, WD, BETA1, BETA2, EPS, GRAD_SCALE; roots begin no round from `hold` on (R438) -/
  opts : List (Nat × List Nat) := []
  hold : Option Nat := none
  /-- frames bound here by root (R433), and who waits until their moves have committed: for a whole context, or a node that is re-hosted here -/
  bound : List (Nat × List Nat) := []
  opening : Option (JobTo × Option Nat) := none
  /-- rounds from this one on are not begun; who waits until those before it are finished (R431) -/
  stopAt : Option Nat := none
  /-- COLL.CLOSE asks the hosts which rounds have begun: those from `stopAt` on wait -/
  undecided : Bool := false
  closing : List JobTo := []
  /-- COLL.CLOSE with FORCE: nothing more is delivered -/
  forced : Bool := false
deriving DecidableEq, Repr

/-! ### Embedding tables (10) -/

/-- A row held by the switch beside its home: header fields and codes (R451, R452). -/
structure RowCopy where
  valid : Bool := true
  version : Nat := 0
  scale : Nat := 0
  offset : Nat := 0
  g : Nat := 0
  codes : List Byte := []
  /-- the slot in use (ACTIVE), and the scale and offset of the other one -/
  active : Nat := 0
  scaleOld : Nat := 0
  offsetOld : Nat := 0
deriving DecidableEq, Repr

/-- A row move in progress at its old host (R481). -/
structure RowMove where
  row : Nat
  target : Nat
  /-- the copy was sent, and acknowledged; every switch has acknowledged the redirect -/
  sent : Bool := false
  copied : Bool := false
  acked : Bool := false
  /-- the command's part that waits for it -/
  dest : JobTo
deriving DecidableEq, Repr

/-- An update buffer (R469, R470): records by row, the nodes whose END has arrived, whether the step has closed. -/
structure UpdBuf where
  rows : List (Nat × List Nat) := []
  ends : List Nat := []
  closed : Bool := false
deriving DecidableEq, Repr

/-- A table at a switch (R441 to R450). -/
structure EmbTable where
  coord : Nat
  id : Nat
  part : Nat
  gen : Nat
  desc : List Byte
  shards : List Byte
  dflt : RowCopy := {}
  /-- the list of EMB.HOT_SET, at the coordinator, and the replicas as at the last refresh -/
  hotList : List Nat := []
  replicas : List (Nat × RowCopy) := []
  redirects : List (Nat × Nat) := []
  /-- the current step, its buffer and the next one's, by step -/
  step : Nat := 0
  bufs : List (Nat × UpdBuf) := []
  /-- the current step is being applied: rows not yet applied; rows applied in it, and in the last one -/
  applying : Bool := false
  todo : List Nat := []
  doing : Nat := 0
  lastApplied : Nat := 0
  /-- when this host's apply began, and at the coordinator how the shard hosts lag (R571) -/
  began : Nat := 0
  lag : Lag := {}
  /-- rows held for other shards, and how many are promised to moves -/
  held : List (Nat × RowCopy) := []
  promised : Nat := 0
  moves : List RowMove := []
  /-- replacements in their order of arrival, and who is answered when each has been applied (R477) -/
  late : List (List Byte × JobTo) := []
  /-- no request is admitted any more; who waits for those admitted before (R450) -/
  active : Bool := true
  closing : List JobTo := []
deriving DecidableEq, Repr

/-! ### Vector search (11) -/

/-- An index at a switch (R485 to R494). -/
structure SearchIx where
  coord : Nat
  id : Nat
  part : Nat
  gen : Nat
  desc : List Byte
  shards : List Byte
  /-- entry items that repairs have chosen, by shard (R522) -/
  entries : List (Nat × Nat) := []
  repairing : Bool := false
  /-- parts that a query did not wait for: source, tag and host (R517) -/
  late : List (Nat × Nat × Nat) := []
  /-- how regions lag, and those that are left out of later parts (R571) -/
  lag : Lag := {}
  slow : List Nat := []
  /-- no query is admitted any more; who waits for those admitted before (R494) -/
  active : Bool := true
  closing : List JobTo := []
deriving DecidableEq, Repr

/-- SEARCH.DELETE parts that wait for the queries admitted before (R521): the jobs, and who is answered. -/
structure TombWait where
  index : Nat
  jobs : List Nat
  dest : JobTo
  skipped : Nat
deriving DecidableEq, Repr

/-! ### Serving (12) -/

/-- An attention context (R530 to R535). -/
structure AttnCtx where
  part : Nat
  gen : Nat
  desc : List Byte
  closing : Option (List CmdRef) := none
deriving DecidableEq, Repr

/-- An ownership entry (R553). -/
structure OwnEntry where
  owned : Bool := false
  stage : Nat := 0
  offload : Bool := false
  parked : Bool := false
  owner : Nat := 0x7FFF
  token : Nat := 0
  epoch : Nat := 0
  leaseEnd : Nat := 0
  stateVa : Nat := 0
deriving DecidableEq, Repr

/-- A serving service (R547 to R569). -/
structure Service where
  part : Nat
  gen : Nat
  slots : Nat
  leaseUs : Nat
  epoch : Nat := 0
  map : List Byte
  /-- the honoured old epoch's map, when its drain ends on the fabric clock, and the command that waits -/
  old : Option (List Byte × Nat × CmdRef) := none
  entries : List (Nat × OwnEntry) := []
  /-- parked requests, oldest first -/
  parked : List Nat := []
  notices : List (Nat × Nat) := []
  /-- the table is being read in after a region fence (R558): until when -/
  reading : Bool := false
deriving DecidableEq, Repr

/-- What a command that other switches take part in does when all have answered (R410, R425, R445, R466, R478). -/
structure Relay where
  group : Nat
  verb : Nat
  part : Nat
  /-- who is answered; the object concerned -/
  dest : JobTo
  obj : Nat
  /-- tags of messages not answered, and switches whose part here or there is not done -/
  tags : List Nat := []
  local_ : Bool := false
  /-- switches that have accepted, and RESULT of each -/
  took : List (Nat × Nat) := []
  /-- statuses of those that have not -/
  bad : List Nat := []
  stage : Nat := 0
  args : List Nat := []
  rest : List Byte := []
deriving DecidableEq, Repr

/-- What a message or packet of a compute engine that awaits its answer is for. -/
inductive FabUse where
  /-- a LOAD or STORE of a job at another home: pool address and length -/
  | read (job pool len : Nat)
  | write (job pool len : Nat)
  /-- a relayed command to a switch -/
  | relay (relay node : Nat)
  /-- a partial sent up or a result sent down for a chunk, sent again on RETRY_LATER (R404); a delivery or a result not complete; a
  notice -/
  | up (node key : Nat) (p : Req)
  | down (node key : Nat) (p : Req)
  | notice (ctx : Nat)
  /-- a part that a root which is a command sent -/
  | part (job ix : Nat)
deriving DecidableEq, Repr

/-- A compute request that spans regions: the packets that carry its shares to them and have not crossed, whom to answer, the request, and
the port of the first region (R43, R45). -/
structure Split where
  shares : List Nat
  origin : Origin
  op : Op
  p : Req
  port : Nat
deriving DecidableEq, Repr

/-- The compute engines. -/
structure Fab where
  blocks : List (Nat × Block) := []
  insts : List (Nat × Inst) := []
  progs : List (Nat × ProgRec) := []
  jobs : List (Nat × Job) := []
  /-- generations of handle numbers, by kind × 2^16 + number (R350, R390, R449, R493, R534, R549) -/
  gens : List (Nat × Nat) := []
  ctxs : List (Nat × CollCtx) := []
  nodes : List (Nat × CollNode) := []
  tables : List (Nat × EmbTable) := []
  indexes : List (Nat × SearchIx) := []
  tombs : List TombWait := []
  attns : List (Nat × AttnCtx) := []
  services : List (Nat × Service) := []
  relays : List (Nat × Relay) := []
  /-- parts of relayed commands longer than a message, by sender × 2^16 + number: offset and bytes -/
  parcels : List (Nat × List (Nat × List Byte)) := []
  uses : List (Nat × FabUse) := []
  /-- compute requests that have crossed to a region compute port: whom to answer, the request, and the port (R43, R45) -/
  landed : List (Origin × Op × Req × Nat) := []
  /-- compute requests whose shares for several regions have not all crossed (R43) -/
  splits : List Split := []
  /-- responses of this switch to packets of its own that have crossed back to the Wick -/
  heard : List Resp := []
deriving DecidableEq, Repr

/-! ### Host buckets (16) -/

/-- A host bucket that has been used (R696, R697): its level in 1/80 byte, when that was, and the requests it holds in
order of arrival. One unit of RATE, 100 Mb/s, is 1/80 byte in each ns. -/
structure Bucket where
  level : Int
  at_ : Time
  queue : List Nat := []
deriving DecidableEq, Repr

/-! ### Shapers, gates and fabric time (16) -/

/-- A level-two shaper (R693, R694): its record, its tokens in millionths of a token, and when they were counted. -/
structure Shape2 where
  rateKpps : Nat
  burst : Nat
  tokens : Nat
  at_ : Time
deriving DecidableEq, Repr

/-- An entry of a gate list (R701). -/
structure GateEntry where
  tcOpen : Nat
  groupOpen : Nat
  mode : Nat
  dur : Nat
deriving DecidableEq, Repr

/-- A gate list with its cycle (R705). -/
structure GateList where
  entries : List GateEntry
  cycle : Nat
  base : Nat
deriving DecidableEq, Repr

/-- The gate list of a fabric port, the list that waits for its change time, and the command that brought it. -/
structure Gate where
  cur : GateList
  next : Option (GateList × Nat × CmdRef) := none
deriving DecidableEq, Repr

/-- Sources of the time root (R711). -/
inductive TimeSource where
  | free
  | pps
  | ptp (lport : Nat)
deriving DecidableEq, Repr

/-- Time states (R718). -/
inductive TimeState where
  | unset | acquiring | locked | holdover
deriving DecidableEq, Repr

/-- The exchange on one logical port (R714 to R716). -/
structure Exch where
  txSeq : Nat := 0
  /-- SEQ and time of the last TIME_SYNC sent, and of the last received -/
  sent : Option (Nat × Nat) := none
  got : Option (Nat × Nat) := none
  /-- time state and depth that the partner gave last -/
  peer : Option (Nat × Nat) := none
deriving DecidableEq, Repr

/-- Time keeping (R711 to R719). -/
structure TimeKeep where
  st : TimeState := .unset
  source : Option TimeSource := none
  upstream : Option Nat := none
  backup : Option Nat := none
  onBackup : Bool := false
  depth : Nat := 0
  offset : Int := 0
  /-- LOCKED has been reached since reset: no more steps (R719) -/
  everLocked : Bool := false
  /-- exchanges in a row within ±4 ns, and beyond ±20 ns -/
  inRow : Nat := 0
  outRow : Nat := 0
  /-- correction still to be slewed, in ns, and ns of the current 10 µs (R719) -/
  slew : Int := 0
  slewFrac : Nat := 0
  exch : List (Nat × Exch) := []
  /-- TIME.SET's second for a root with a 1PPS input -/
  nextPps : Option Nat := none
  /-- FTIME's high word that a read of the low word latched, until the high word is read (R710) -/
  latch : Option Nat := none
  /-- CLK_STATUS PPS_OK and T10M_OK (21) -/
  ppsOk : Bool := false
  t10mOk : Bool := false
deriving DecidableEq, Repr

/-- Shaping and gates. -/
structure Shape where
  /-- level-one credits by 8 × logical port + class in 1/80 byte, and when they were counted; unlisted: full -/
  l1 : List (Nat × (Int × Time)) := []
  /-- level-two shapers that are enabled, by 8 × partition + class -/
  l2 : List (Nat × Shape2) := []
  gates : List (Nat × Gate) := []
deriving DecidableEq, Repr

/-! ### Partitions (17) -/

/-- States of a partition (R728). -/
inductive PartState where
  | free | active | tearing | scrubbing
deriving DecidableEq, Repr

/-- TDISP states of a VF (R728, R747). -/
inductive Tdi where
  | unlocked | locked | run | error
deriving DecidableEq, Repr

/-- A partition record (R728); ports are derived from the logical ports' membership. -/
structure Partition where
  st : PartState := .free
  tdi : Tdi := .unlocked
  /-- enabled opcodes, bits [27:16] of the record shifted down; bit 0 is OP_BASE, always 1 -/
  ops : Nat := 1
  pinT1 : Nat := 0
  keyGen : Nat := 0
deriving DecidableEq, Repr

/-! ### Hurricane, attestation and the Snuffer (17) -/

/-- A stretch of storage that a scrub writes: the frame it belongs to, its first tier address in bytes, its length, the tweak of its
first line (R595) and what each further line adds to it. -/
structure Piece where
  frame : Nat
  addr : Nat
  len : Nat
  tweak : Nat
  step : Nat
deriving DecidableEq, Repr

/-- A scrub of a partition's storage (R762 to R766). Partition 1,024 stands for frames that a scrub left out of the free storage,
1,025 for those that are to be written again (R765). -/
structure Scrub where
  part : Nat
  /-- it runs, or waits for one of the four places; identity of its key -/
  running : Bool := false
  key : Nat := 0
  /-- frames of T1 and T2 that it takes: tier address [47:12] -/
  frames : List Nat := []
  /-- units of T3 that it takes: tier address [47:6] and length -/
  units : List (Nat × Nat) := []
  /-- what is left to write, ascending -/
  todo : List Piece := []
  /-- what could not be written -/
  failed : List Piece := []
deriving DecidableEq, Repr

/-- A PART.TEARDOWN in progress (R759): the commands that wait, and revocations not answered, by tag. -/
structure Tearing where
  by_ : List CmdRef
  revokes : List Nat := []
deriving DecidableEq, Repr

/-- A link key exchange that this switch has started (R755). -/
structure Kex where
  since : Time
  nonce : List Byte
  /-- which of the generator's ML-KEM key pairs -/
  pair : Nat
deriving DecidableEq, Repr

/-- An SPDM session (R739): established once FINISH has arrived; key updates since. -/
structure SpdmSession where
  id : Nat
  established : Bool := false
  updates : Nat := 0
deriving DecidableEq, Repr

/-- A key of an IDE stream (R751): stream, key set, direction and sub-stream, and whether the set is active. -/
structure IdeKey where
  session : Nat
  port : Nat
  stream : Nat
  set : Nat
  sub : Nat
  active : Bool := false
deriving DecidableEq, Repr

/-- Hurricane and what it serves. -/
structure Sec where
  scrubs : List Scrub := []
  tearing : List (Nat × Tearing) := []
  /-- events of the program log (R745), oldest first, 64 bytes each -/
  progLog : List (List Byte) := []
  /-- changes of measurement 4 that are not held elsewhere: unlocks and changes of DEBUG_POLICY, oldest first -/
  policyLog : List Nat := []
  kex : List (Nat × Kex) := []
  /-- keys made so far, for identities of keys -/
  keys : Nat := 0
  /-- how far the SPDM connection is negotiated: 0 nothing, 1 version, 2 capabilities, 3 algorithms -/
  spdm : Nat := 0
  sessions : List SpdmSession := []
  ide : List IdeKey := []
  /-- selective stream bound at LOCK_INTERFACE_REQUEST, by VF -/
  bound : List (Nat × Nat) := []
  /-- nonce of the last lock of each VF's TDI -/
  lockNonce : List (Nat × List Byte) := []
  /-- revocations of other homes being carried out (R759): the gigabyte, and the message to answer -/
  revokes : List (Nat × Req) := []
  /-- the PUF reconstruction failed its check (R736) -/
  noIdentity : Bool := false
  /-- when a health test of the generator failed (R733) -/
  rngAt : Option Time := none
deriving DecidableEq, Repr

/-! ### Health and faults (18) -/

/-- The health score of a partner or agent (R794), 0 to 1,000; when it last changed, bad codewords
not yet charged, and the UNANSWERED penalties of the current second. -/
structure Health where
  score : Nat := 1000
  at_ : Time := 0
  bad : Nat := 0
  unAt : Time := 0
  un : Nat := 0
deriving DecidableEq, Repr

/-- A target of a ticket (R796): an endpoint or a switch, by node number. -/
structure Target where
  switch : Bool
  node : Nat
deriving DecidableEq, Repr

/-- A core of the Wick (R785, R786): whether it is live. -/
structure WickCore where
  live : Bool := true
deriving DecidableEq, Repr

/-- Detection and degradation. -/
structure Ras where
  /-- HALT_CAUSE, 0 while not halted (R801) -/
  halt : Nat := 0
  cores : List WickCore := [{}, {}, {}, {}]
  /-- whole-Wick restarts that failed in a row, and since when a restart runs (R787) -/
  failedRestarts : Nat := 0
  restartAt : Option Time := none
  /-- management messages that wait for a live core (R787): opcode and message -/
  wickQueue : List (Nat × Req) := []
  /-- Hurricane's two cores agree (R788) -/
  hurricane : Bool := true
  /-- the random generator: issuing, in its repeated start-up test, or failed for good (R733) -/
  rngOk : Bool := true
  rngTests : Nat := 0
  rngFailed : Bool := false
  health : List (Nat × Health) := []
  /-- accepted tickets until they expire: ID and EXPIRES (R798) -/
  tickets : List (Nat × Nat) := []
  /-- the budget record (R799) and the fabric times of accepted EXPELs -/
  spares : Nat := 0
  limit : Nat := 0
  windowMs : Nat := 60000
  expels : List Nat := []
  degraded : List Target := []
  /-- fenced regions, and whether the fence was commanded (R779) -/
  fenced : List (Nat × Bool) := []
  /-- block faults by region (R777), and parity faults of switch tables -/
  faultsAt : List (Nat × List Time) := []
  /-- credits of the limiters of ports that face a degraded switch, in 1/80 byte (R800) -/
  limiter : List (Nat × (Int × Time)) := []
  /-- when the last verification pass began (R793) -/
  verifyAt : Time := 0
  /-- fingerprints recorded: region, temperature in 1/8 °C, supply in mV (R783, R784) -/
  prints : List (Nat × Int × Nat) := []
deriving DecidableEq, Repr

/-! ### Wick-to-Wick messages that await their answer (19) -/

/-- What a WICK_XCHG that was sent is for. -/
inductive WaitUse where
  /-- MAP_REF of a POOL.MAP whose home is another switch (R174): the page's entries are written when it is added, in the AST that the command
  named and no other that has its number by then -/
  | mapRef (by_ : CmdRef) (ast va gib pool perms : Nat) (born : Nat)
  /-- MAP_REVOKE of a gigabyte of a partition, to a switch (R759) -/
  | revoke (part gib node : Nat)
  /-- a STORE of a scrub to a tray (R763): the scrub's partition, and the address written -/
  | scrub (part addr : Nat)
  /-- nothing waits for the answer -/
  | notice
deriving DecidableEq, Repr

/-! ### Power, clocks and thermal (21) -/

/-- States of the chip (R876). -/
inductive Chip where
  | lit | trimmed | hooded | banked | pilot
deriving DecidableEq, Repr

/-- States of a region (R889). -/
inductive RState where
  | lit | trimmed | banked
deriving DecidableEq, Repr

/-- A region on the ladder (R889 to R892), its frequency and supply (R327), and the limits the Wick set. -/
structure Region where
  st : RState := .trimmed
  /-- Trimmed because idle (R882) -/
  idle : Bool := true
  /-- holds: commanded, of the cap, thermal, of the neighbour limit -/
  cmd : Option RState := none
  cap : Bool := false
  therm : Bool := false
  nbr : Bool := false
  mhz : Nat := 900
  mv : Nat := 600
  /-- limits of the neighbour comparison, of the thermal rules and of the cap; 3,600 limits nothing -/
  limN : Nat := 3600
  limT : Nat := 3600
  limC : Nat := 3600
  /-- since when it is to be lowered although at 0.9 GHz, by its neighbours and by its temperature -/
  nbrSince : Option Time := none
  hotSince : Option Time := none
  /-- since when no step runs or is queued -/
  idleSince : Time := 0
  /-- when steps of it committed in the last millisecond, and how many, newest first (R896) -/
  commits : List (Time × Nat) := []
deriving DecidableEq, Repr

/-- What a region's supply in mV, frequency in MHz and temperature in 1/8 °C were until a time, for averages over 100 µs (R329, R965). -/
structure RegionSample where
  till : Time
  mv : Nat
  mhz : Nat
  tj : Int
deriving DecidableEq, Repr

/-- A POWER.SET_STATE that waits (R886). -/
structure SetState where
  target : Chip
  deadline : Time
  by_ : CmdRef
deriving DecidableEq, Repr

/-- An entry into Hooded: the logical ports whose answer is awaited, those that have agreed, and when LP_REQ was sent. -/
structure Hooding where
  await : List Nat
  agreed : List Nat := []
  since : Time
deriving DecidableEq, Repr

/-- Power, clocks and thermal (R863 to R907). -/
structure Power where
  chip : Chip := .trimmed
  /-- PWR_STATUS.CAUSE: the last entry to Pilot -/
  cause : Nat := 0
  capped : Bool := false
  guard : Bool := false
  inputLow : Bool := false
  /-- averages over 1 ms (R867): input voltage in 10 mV, input power in W -/
  vin : Nat := 0
  pin : Nat := 0
  regions : List (Nat × Region) := []
  /-- what each region's supply, frequency and temperature were in the last 100 µs, newest first -/
  samples : List (Nat × List RegionSample) := []
  /-- the last neighbour comparison (R329) -/
  nbrAt : Time := 0
  /-- cap holds, oldest first; since when the cap is exceeded with every Lit region at 0.9 GHz; the last release -/
  capHolds : List Nat := []
  overSince : Option Time := none
  releaseAt : Time := 0
  guardAt : Time := 0
  /-- sensors read (R898), in 1/8 °C -/
  temps : List (Nat × Int) := []
  /-- a throttle episode runs: the switch core or converter (R900), a stack (R901) -/
  coreHot : Bool := false
  hbmHot : List Nat := []
  tripped : Bool := false
  asked : Option SetState := none
  hooding : Option Hooding := none
  /-- the last time the Hooded conditions may have broken: a packet, command or move came or went (R882) -/
  busyAt : Time := 0
  /-- reference inputs: good, and in use (R870 to R873); since when each has been good -/
  refA : Bool := true
  refB : Bool := true
  refSel : Nat := 0
  refSince : List Time := [0, 0]
deriving DecidableEq, Repr

/-! ### Power-on, reset and the management port (21, 22) -/

/-- Where the power-on sequence of R912 stands. -/
inductive Phase where
  /-- stage 1 does not convert -/
  | unpowered
  /-- in reset: SYS_RESET_N low or the rails rising -/
  | reset
  /-- HYS_STATUS.RECOVERY is 1: the ROM loader serves the mailbox -/
  | recovery
  /-- the bundle is verified, the rails rise and HBM4 trains -/
  | rails
  /-- HYS_STATUS.READY is 1 -/
  | ready
deriving DecidableEq, Repr

/-- The recovery mailbox (R861, R862). -/
structure Mbx where
  /-- MBX_DATA: bytes written, by offset -/
  data : List (Nat × Byte) := []
  busy : Bool := false
  done : Bool := false
  err : Nat := 0
  /-- bundle bytes staged -/
  staged : List Byte := []
deriving DecidableEq, Repr

/-- Reset state of the switch. -/
structure Boot where
  phase : Phase := .ready
  /-- levels of the reset pins: true is released -/
  sysReset : Bool := true
  perstMgt : Bool := true
  hbPerst : List Bool := [true, true, true, true]
  /-- links of the host bridges (R646, R647) -/
  hbLink : List Bool := [true, true, true, true]
  /-- the bundle in the bundle store (R921) -/
  bundle : List Byte := Config.bundle
  /-- FAULT_N is held low: a bundle failed (R922) -/
  bundleFault : Bool := false
  mbx : Mbx := {}
deriving DecidableEq, Repr

/-! ### Lantern, the health log and JTAG (24) -/

/-- Lantern (R954 to R963) and the health log (R965). -/
structure Lantern where
  /-- entries in the ring by SEQ since cold start, oldest first -/
  ring : List (Nat × List Byte) := []
  next : Nat := 0
  /-- matches of each filter since its EN was set -/
  matched : List (Nat × Nat) := []
  /-- when the last entry was written (R957) -/
  wrote : Option Time := none
  /-- mirror copies sent since cold start -/
  copies : Nat := 0
  /-- the health log: entries by SEQ, oldest first -/
  log : List (Nat × List Byte) := []
  logNext : Nat := 0
deriving DecidableEq, Repr

/-- Instructions of the TAP (R966). -/
inductive TapInstr where
  | idcode | samplePreload | extest | clamp | highz | bypass | debugStatus | debugUnlock
deriving DecidableEq, Repr

/-- The test access port (R966 to R971). -/
structure Tap where
  instr : TapInstr := .idcode
  /-- boundary output cells 12 to 15 as preloaded, and whether the instruction drives them or releases them -/
  cells : Nat := 0
  /-- the nonce shown last, while it serves an attempt, and whether the last unlock was refused -/
  nonce : Option (List Byte) := none
  refused : Bool := false
  unlocked : Bool := false
deriving DecidableEq, Repr

/-- The whole machine. -/
structure State where
  /-- commands that wait, first in, first out -/
  pending : List Instr
  /-- the model's own counter of free values used -/
  freeCtr : Nat
  /-- the model's own counter of internal identities -/
  nextId : Nat
  part : Part
  /-- ns since the switch left reset, and fabric time (R709) -/
  clk : Time
  ftime : BitVec 64
  /-- registers written, by PF0 BAR0 offset; unlisted: the reset value of 20_hyser_interface.md R832's tables -/
  cfg : List (Nat × Nat)
  /-- counters; unlisted: 0 -/
  ctrs : List (Ctr × Nat)
  ing : Ingress
  mem : Mem
  xl : Xlat
  coh : Coh
  lports : List (Nat × LPort)
  core : Core
  hys : Hys
  fm : Fm
  /-- shared regions -/
  snap : Snap
  /-- the compute engines -/
  fab : Fab
  /-- host buckets by port, unlisted: full and empty of requests -/
  buckets : List (Nat × Bucket)
  /-- shapers and gates -/
  shape : Shape
  /-- keeping of fabric time -/
  tk : TimeKeep
  /-- partitions, unlisted: FREE -/
  parts : List (Nat × Partition)
  /-- Hurricane, attestation, teardown and the Snuffer -/
  sec : Sec
  /-- detection and degradation -/
  ras : Ras
  /-- messages sent by this switch whose answer is awaited, by tag -/
  waits : List (Nat × WaitUse)
  /-- power, clocks and thermal -/
  power : Power
  /-- the power-on sequence and reset pins -/
  boot : Boot
  /-- Lantern and the health log -/
  lan : Lantern
  /-- the test access port -/
  tap : Tap
  /-- what the switch has sent, oldest first -/
  outs : List Out
  /-- reports made (R826), oldest first -/
  reports : List Report
  /-- events that the manual logs without saying where (R34), oldest first: kind, and the numbers it names; the health log is in `lan` -/
  log : List LogEntry
deriving DecidableEq, Repr

/-- The state right after reset: READY is 1 and every register and table has its reset value (R912 step 8, R913). -/
def State.reset : State where
  pending := []
  freeCtr := 1
  nextId := 1
  part := Config.part
  clk := 0
  ftime := 0
  cfg := []
  ctrs := []
  ing := {}
  mem := {}
  xl := {}
  coh := {}
  lports := []
  core := {}
  hys := {}
  fm := {}
  snap := {}
  fab := {}
  buckets := []
  shape := {}
  tk := {}
  parts := []
  sec := {}
  ras := { health := [(512, {}), (513, {}), (514, {}), (515, {})] }
  waits := []
  power := {}
  boot := {}
  lan := {}
  tap := {}
  outs := []
  reports := []
  log := []

end Sys2Proof.Machine
end

