-- ==== Sys2Proof/Machine/Regs.lean ====
section
/-! DEFINITION. Machine/Regs.lean: PF0's BAR0 register map (20_hyser_interface.md R832) as one table, the fields of
each register with their access types, ranges and reset values, and the readers of fields. -/
namespace Sys2Proof.Machine

/-- Access of a field (R18); RW with its least and greatest legal value (R11). -/
inductive Acc where
  | rw (lo hi : Nat)
  /-- a signed field from −m to m -/
  | rws (m : Nat)
  | ro
  | w1c
deriving DecidableEq, Repr

/-- A field of a register: its lowest bit, width, access and reset value. -/
structure Field where
  lo : Nat
  w : Nat
  acc : Acc
  reset : Nat := 0
deriving DecidableEq, Repr

/-- A register: its width in bits, its fields, and the register and bit that an out-of-range write sets. -/
structure RegSpec where
  width : Nat
  fields : List Field
  rejReg : Nat := 0
  rejBit : Nat := 0
  /-- an illegal value rejects the whole write, not only its field -/
  whole : Bool := false
deriving DecidableEq, Repr

/-- An RW field. -/
def rwf (lo w least most reset : Nat) : Field := ⟨lo, w, .rw least most, reset⟩

/-! Offsets of the registers (R832). -/
abbrev rPoolHeat : Nat := 0x100000
abbrev rPoolPolicy : Nat := 0x100008
abbrev rPoolMode : Nat := 0x100010
abbrev rSnuffer : Nat := 0x100018
abbrev rStraggler : Nat := 0x100020
abbrev rArbCfg (n : Nat) : Nat := 0x100100 + 8 * n
abbrev rArbPromo (n : Nat) : Nat := 0x100180 + 8 * n
abbrev rRegionClk (r : Nat) : Nat := 0x100200 + 8 * r
abbrev rRegionStatus (r : Nat) : Nat := 0x100280 + 8 * r
abbrev rCohStatus : Nat := 0x110000
abbrev rCombine : Nat := 0x110008
abbrev rDomain (d : Nat) : Nat := 0x110100 + 8 * d
abbrev rBlockArb (n : Nat) : Nat := 0x120000 + 8 * n
abbrev rPort (p : Nat) : Nat := 0x130000 + 8 * p
abbrev rPortLink (p : Nat) : Nat := 0x130400 + 8 * p
abbrev rPortStatus (p : Nat) : Nat := 0x130800 + 8 * p
abbrev rPortFwd (p : Nat) : Nat := 0x130C00 + 8 * p
abbrev rSchedPromo : Nat := 0x140000
abbrev rCoreStatus : Nat := 0x140008
abbrev rBuf : Nat := 0x140010
abbrev rRouteCfg : Nat := 0x140018
abbrev rBufAdv : Nat := 0x140020
abbrev rAge : Nat := 0x140030
abbrev rLportRoute (n : Nat) : Nat := 0x141000 + 8 * n

/-- Whether an offset is an instance of an array of `n` registers 8 bytes apart. -/
def inArr (off base n : Nat) : Bool := decide (base ≤ off ∧ off < base + 8 * n ∧ off % 8 = 0)

/-- The register at an offset of the pool, coherence, port and core part of BAR0. -/
def regSpecA (off : Nat) : Option RegSpec :=
  if off = rPoolHeat then
    some ⟨32, [rwf 0 4 0 10 6, rwf 4 3 0 4 1, ⟨8, 8, .ro, 0⟩], rPoolMode, 1, false⟩
  else if off = rPoolPolicy then
    some ⟨32, [rwf 0 10 0 1000 10, rwf 10 6 0 50 10, rwf 16 8 0 50 4, rwf 24 8 0 50 8], rPoolMode, 1, false⟩
  else if off = rPoolMode then some ⟨32, [⟨0, 1, .ro, 0⟩, ⟨1, 1, .w1c, 0⟩], 0, 0, false⟩
  else if inArr off (rArbCfg 0) 16 then
    some ⟨32, [rwf 0 4 0 15 6, rwf 4 4 0 15 5, rwf 8 4 0 15 3, rwf 12 4 0 15 1, rwf 16 4 0 15 1], rPoolMode, 1, false⟩
  else if inArr off (rArbPromo 0) 16 then
    some ⟨64, [rwf 0 9 0 400 2, rwf 9 9 0 400 8, rwf 18 9 0 400 16, rwf 27 9 0 400 32, rwf 36 9 0 400 200],
      rPoolMode, 1, false⟩
  else if off = rCohStatus then some ⟨32, [⟨0, 1, .w1c, 0⟩], 0, 0, false⟩
  else if off = rCombine then some ⟨32, [rwf 0 10 0 1000 200, rwf 10 10 0 1000 200], rCohStatus, 0, false⟩
  else if inArr off (rDomain 0) 64 then
    some ⟨64, [⟨0, 1, .ro, 0⟩, rwf 1 9 25 400 100, rwf 10 10 2 1000 8, ⟨20, 10, .ro, 0⟩, ⟨32, 32, .ro, 0⟩],
      rCohStatus, 0, false⟩
  else if inArr off (rPort 0) 128 then
    some ⟨32, [rwf 0 1 0 1 0, rwf 1 2 0 2 0, rwf 3 1 0 1 0, rwf 4 1 0 1 1], rPortStatus ((off - rPort 0) / 8), 21, true⟩
  else if inArr off (rPortLink 0) 128 then
    some ⟨64, [rwf 0 8 1 255 20, rwf 8 4 1 15 8, rwf 12 5 8 20 11, rwf 32 16 1 65535 64, rwf 48 14 1 10000 1000,
      rwf 62 1 0 1 1], rPortStatus ((off - rPortLink 0) / 8), 21, false⟩
  else if inArr off (rPortStatus 0) 128 then
    some ⟨32, [⟨0, 16, .ro, 0⟩, ⟨16, 4, .ro, 0⟩, ⟨20, 1, .ro, 0⟩, ⟨21, 1, .w1c, 0⟩], 0, 0, false⟩
  else if inArr off (rPortFwd 0) 128 then some ⟨32, [rwf 0 8 0 255 0x7F], 0, 0, false⟩
  else if off = rSchedPromo then
    some ⟨64, [rwf 0 8 0 200 2, rwf 8 8 0 200 2, rwf 16 8 0 200 2, rwf 24 8 0 200 4, rwf 32 8 0 200 20,
      rwf 40 8 0 200 40, rwf 48 8 0 200 20, rwf 56 8 0 200 100], rCoreStatus, 0, false⟩
  else if off = rCoreStatus then some ⟨32, [⟨0, 1, .w1c, 0⟩], 0, 0, false⟩
  else if off = rBuf then some ⟨32, [rwf 0 8 4 64 8, rwf 8 8 2 128 32, rwf 16 8 2 128 32], rCoreStatus, 0, false⟩
  else if off = rRouteCfg then some ⟨32, [rwf 0 1 0 1 1, rwf 8 8 1 200 5], rCoreStatus, 0, false⟩
  else if off = rBufAdv then
    some ⟨128, [rwf 0 16 1025 32768 1025, rwf 16 16 1025 32768 1536, rwf 32 16 1 32768 128, rwf 48 16 1025 32768 1536,
      rwf 64 16 1025 32768 1536, rwf 80 16 1025 32768 1025, rwf 96 16 1025 32768 1025], rCoreStatus, 0, false⟩
  else if off = rAge then
    some ⟨128, [rwf 0 16 1 10000 100, rwf 16 16 1 10000 200, rwf 32 16 1 10000 200, rwf 48 16 1 10000 200,
      rwf 64 16 1 10000 200, rwf 80 16 1 10000 1000, rwf 96 16 1 10000 200, rwf 112 16 1 10000 1000],
      rCoreStatus, 0, false⟩
  else if inArr off (rLportRoute 0) 512 then some ⟨32, [rwf 0 1 0 1 0, ⟨1, 1, .ro, 0⟩], 0, 0, false⟩
  else none

abbrev rShapeStatus : Nat := 0x150000
abbrev rTimeStatus : Nat := 0x150008
abbrev rTimeCfg : Nat := 0x150010
abbrev rFtime : Nat := 0x150018
abbrev rBucket (n : Nat) : Nat := 0x151000 + 8 * n
abbrev rShape (i : Nat) : Nat := 0x158000 + 8 * i
abbrev rRas : Nat := 0x160000
abbrev rHealth : Nat := 0x160008
abbrev rRasStatus : Nat := 0x160010
abbrev rFabric : Nat := 0x160018
abbrev rLantern : Nat := 0x200000
abbrev rLanternStatus : Nat := 0x200010
abbrev rDebugPolicy : Nat := 0x200018
abbrev rFilter (f : Nat) : Nat := 0x201000 + 16 * f
abbrev rPwr : Nat := 0x300000
abbrev rPwrStatus : Nat := 0x300008
abbrev rTherm : Nat := 0x300010
abbrev rClk : Nat := 0x300018
abbrev rClkStatus : Nat := 0x300020
abbrev rRegionPwr (r : Nat) : Nat := 0x300100 + 8 * r
abbrev rThermTemp (n : Nat) : Nat := 0x301000 + 8 * n

/-- The power and clock registers, and the registers of regions, blocks, the Snuffer and re-balancing. -/
def regSpecC (off : Nat) : Option RegSpec :=
  if off = rPwr then
    some ⟨64, [rwf 0 2 0 2 2, rwf 2 10 1 1000 10, rwf 12 12 10 4000 100, rwf 24 12 500 2000 2000, rwf 36 7 10 55 52],
      rPwrStatus, 6, false⟩
  else if off = rPwrStatus then
    some ⟨64, [⟨0, 3, .ro, 0⟩, ⟨3, 1, .ro, 0⟩, ⟨4, 1, .ro, 0⟩, ⟨5, 1, .ro, 0⟩, ⟨6, 1, .w1c, 0⟩, ⟨7, 2, .ro, 0⟩,
      ⟨16, 16, .ro, 0⟩, ⟨32, 12, .ro, 0⟩], 0, 0, false⟩
  else if off = rTherm then some ⟨32, [rwf 0 7 70 100 95, rwf 7 7 70 95 85], rPwrStatus, 6, false⟩
  else if off = rClk then some ⟨32, [rwf 0 1 0 1 0], rPwrStatus, 6, false⟩
  else if off = rClkStatus then
    some ⟨32, [⟨0, 1, .ro, 0⟩, ⟨1, 1, .ro, 0⟩, ⟨2, 1, .ro, 0⟩, ⟨3, 1, .ro, 0⟩, ⟨4, 1, .ro, 0⟩], 0, 0, false⟩
  else if inArr off (rRegionPwr 0) 16 then some ⟨32, [⟨0, 2, .ro, 0⟩, ⟨2, 5, .ro, 0⟩], 0, 0, false⟩
  else if inArr off (rThermTemp 0) 96 then some ⟨32, [⟨0, 12, .ro, 0⟩, ⟨12, 1, .ro, 0⟩], 0, 0, false⟩
  else if inArr off (rRegionClk 0) 16 then
    some ⟨32, [rwf 0 12 900 3600 3600, ⟨12, 12, .ro, 0⟩], rRegionStatus ((off - rRegionClk 0) / 8), 20, false⟩
  else if inArr off (rRegionStatus 0) 16 then
    some ⟨32, [⟨0, 10, .ro, 0⟩, ⟨10, 8, .ro, 0⟩, ⟨18, 1, .ro, 0⟩, ⟨19, 1, .ro, 0⟩, ⟨20, 1, .w1c, 0⟩], 0, 0, false⟩
  else if off = rStraggler then
    some ⟨32, [rwf 0 1 0 1 1, rwf 1 7 10 100 25, rwf 8 8 1 255 8, ⟨16, 1, .ro, 0⟩, ⟨17, 1, .w1c, 0⟩], rStraggler, 17, false⟩
  else if off = rSnuffer then some ⟨32, [rwf 0 7 10 100 50, ⟨7, 1, .w1c, 0⟩, ⟨8, 3, .ro, 0⟩], rSnuffer, 7, false⟩
  else if inArr off (rBlockArb 0) 256 then some ⟨32, [rwf 0 8 0 255 32, rwf 8 8 0 255 32], 0, 0, false⟩
  else none

/-- The register at an offset of the shaping, time, reliability and telemetry part of BAR0. -/
def regSpecB (off : Nat) : Option RegSpec :=
  if off = rShapeStatus then some ⟨32, [⟨0, 1, .w1c, 0⟩], 0, 0, false⟩
  else if off = rTimeStatus then
    some ⟨32, [⟨0, 2, .ro, 0⟩, ⟨2, 3, .ro, 0⟩, ⟨5, 1, .ro, 0⟩, ⟨6, 1, .w1c, 0⟩, ⟨16, 16, .ro, 0⟩], 0, 0, false⟩
  else if off = rTimeCfg then
    some ⟨64, [rwf 0 10 10 1000 100, ⟨32, 16, .rws 1000, 0⟩, ⟨48, 16, .rws 1000, 0⟩], rTimeStatus, 6, false⟩
  else if inArr off (rBucket 0) 516 then
    some ⟨64, [rwf 0 1 0 1 0, rwf 1 14 1 16000 16000, rwf 15 17 1 65536 1024], rShapeStatus, 0, true⟩
  else if inArr off (rShape 0) 4096 && decide (3 ≤ (off - rShape 0) / 8 % 8) then
    some ⟨64, [rwf 0 1 0 1 0, rwf 1 14 1 16000 16000, rwf 15 17 1 65536 1024, rwf 32 8 0 255 0], rShapeStatus, 0, true⟩
  else if off = rRas then
    some ⟨32, [rwf 0 1 0 1 1, rwf 1 5 1 20 5, rwf 6 6 5 60 20, rwf 12 4 1 15 4, rwf 16 14 0 8760 24], rRasStatus, 0, false⟩
  else if off = rHealth then
    some ⟨64, [rwf 0 10 0 1000 500, rwf 10 10 1 1000 100, rwf 20 14 1 16000 400], rRasStatus, 0, false⟩
  else if off = rRasStatus then
    some ⟨32, [⟨0, 1, .w1c, 0⟩, ⟨1, 3, .ro, 0⟩, ⟨4, 5, .ro, 0⟩, ⟨9, 1, .ro, 0⟩, ⟨10, 5, .ro, 0⟩], 0, 0, false⟩
  else if off = rFabric then
    some ⟨64, [⟨0, 15, .ro, 0x7FFF⟩, ⟨16, 2, .ro, 0⟩, ⟨32, 16, .ro, 0⟩, ⟨48, 3, .ro, 0⟩, ⟨51, 3, .ro, 0⟩], 0, 0, false⟩
  else if off = rLantern then
    some ⟨128, [rwf 0 1 0 1 0, rwf 1 4 0 9 6, rwf 5 1 0 1 0, rwf 6 9 0 511 0, rwf 16 48 0 (2 ^ 48 - 1) 0,
      rwf 64 16 0 65535 0], rLanternStatus, 34, true⟩
  else if off = rLanternStatus then
    some ⟨64, [⟨0, 32, .ro, 0⟩, ⟨32, 1, .w1c, 0⟩, ⟨33, 1, .ro, 0⟩, ⟨34, 1, .w1c, 0⟩], 0, 0, false⟩
  else if off = rDebugPolicy then
    some ⟨32, [rwf 0 1 0 1 0, rwf 1 1 0 1 1, rwf 2 1 0 1 0, ⟨3, 1, .ro, 0⟩], 0, 0, false⟩
  else if decide (rFilter 0 ≤ off ∧ off < rFilter 16 ∧ off % 16 = 0) then
    some ⟨128, [rwf 0 1 0 1 0, rwf 1 1 0 1 0, rwf 2 2 0 2 0, rwf 4 9 0 511 0, rwf 13 1 0 1 1, rwf 14 8 0 255 0,
      rwf 22 1 0 1 1, rwf 23 8 0 255 255, rwf 31 10 0 1023 0, rwf 41 1 0 1 1, rwf 42 15 0 32767 0, rwf 57 1 0 1 1,
      rwf 58 1 0 1 0, rwf 59 4 0 15 0], rLanternStatus, 34, true⟩
  else none

/-- The register at an offset. -/
def regSpec (off : Nat) : Option RegSpec := (regSpecA off).or ((regSpecB off).or (regSpecC off))

/-- A register's reset value: its fields' reset values in their places. -/
def RegSpec.resetWord (r : RegSpec) : Nat := r.fields.foldl (fun v f => setBits v f.lo f.w f.reset) 0

/-- What an unlisted register holds: its reset value. -/
def resetWord (off : Nat) : Nat :=
  match regSpec off with
  | some r => r.resetWord
  | none => 0

/-- The word a register holds. -/
def regWord (s : State) (off : Nat) : Nat := kget s.cfg off (resetWord off)

/-- A field of a register. -/
def regField (s : State) (off lo w : Nat) : Nat := bits (regWord s off) lo w

/-- Hardware or firmware sets a field (RO fields and W1C bits). -/
def setField (s : State) (off lo w v : Nat) : State :=
  { s with cfg := kset s.cfg off (setBits (regWord s off) lo w v) }

/-- A value is within a field's range (R11). -/
def Field.legal (f : Field) (x : Nat) : Bool :=
  match f.acc with
  | .rw lo hi => decide (lo ≤ x ∧ x ≤ hi)
  | .rws m => decide (x ≤ m ∨ 2 ^ f.w - m ≤ x)
  | _ => true

/-- A field after a write of its bits: RW takes a legal value, a W1C bit clears where 1 is written, RO stays (R18). -/
def Field.written (f : Field) (old x : Nat) : Nat :=
  match f.acc with
  | .rw _ _ | .rws _ => if f.legal x then x else old
  | .ro => old
  | .w1c => if x = 0 then old else 0

/-- Some field of a write is outside its range. -/
def RegSpec.bad (r : RegSpec) (v : Nat) : Bool := r.fields.any fun f => !f.legal (bits v f.lo f.w)

/-- A write of a register's word: illegal values are ignored, by field or as a whole, and set the bit that says so; reserved
bits are ignored (R22). -/
def writeReg (s : State) (off v : Nat) : State :=
  match regSpec off with
  | none => s
  | some r =>
    let old := regWord s off
    let new := r.fields.foldl (fun w f => setBits w f.lo f.w (f.written (bits old f.lo f.w) (bits v f.lo f.w))) old
    let s := if r.whole && r.bad v then s else { s with cfg := kset s.cfg off new }
    if r.bad v then setField s r.rejReg r.rejBit 1 1 else s

end Sys2Proof.Machine
end

