-- ==== Sys2Proof/Machine/Ops.lean ====
section
/-! DEFINITION. Machine/Ops.lean: the operations that the meanings share: counters, reports, routing and queueing a
packet, answering a request, completing a command. -/
namespace Sys2Proof.Machine

/-! ## Status codes (R82, R851) -/
abbrev stOk : Nat := 0x0
abbrev stPartial : Nat := 0x1
abbrev stRetry : Nat := 0x2
abbrev stPoisoned : Nat := 0x3
abbrev stNoMapping : Nat := 0x4
abbrev stDenied : Nat := 0x5
abbrev stMalformed : Nat := 0x6
abbrev stStale : Nat := 0x7
abbrev stDivergent : Nat := 0x8
abbrev stBudget : Nat := 0x9
abbrev stUnsupported : Nat := 0xA
abbrev stTornDown : Nat := 0xB
abbrev stHostFault : Nat := 0x10

/-- No node (R804). -/
abbrev noNode : Nat := 0x7FFF
/-- No logical port in a report (R984). -/
abbrev noLport : Nat := 0x1FF

/-! ## Counters, logs, identities, free values -/

/-- The value of a counter. -/
def ctr (s : State) (c : Ctr) : Nat := ((s.ctrs.find? fun e => e.1 = c).map (·.2)).getD 0

/-- Write a counter in an association list. -/
def ctrSet (c : Ctr) (v : Nat) : List (Ctr × Nat) → List (Ctr × Nat)
  | [] => [(c, v)]
  | (d, w) :: m => if d = c then (c, v) :: m else (d, w) :: ctrSet c v m

/-- Add n to a counter of width w, saturating. -/
def bumpBy (s : State) (c : Ctr) (w n : Nat) : State :=
  { s with ctrs := ctrSet c (satAdd w (ctr s c) n) s.ctrs }

/-- Add 1 to a 48-bit counter (R639, R684). -/
def bump (s : State) (c : Ctr) : State := bumpBy s c 48 1

/-- A host bridge port's link is lost: its IDE keys are destroyed with it (R734). -/
def bridgeDown (s : State) (k : Nat) : State :=
  { s with boot := { s.boot with hbLink := s.boot.hbLink.set k false }
           sec := { s.sec with ide := s.sec.ide.filter fun e => e.port ≠ k + 1 } }

/-- Every host bridge port's link goes down, and their IDE keys with them; the management port's stay (R734). -/
def bridgesDown (s : State) : State :=
  { s with boot := { s.boot with hbLink := [false, false, false, false] }
           sec := { s.sec with ide := s.sec.ide.filter fun e => e.port = 0 } }

/-- Log an event that the manual logs without saying where (R34). -/
def note (s : State) (kind : String) (args : List Nat) : State :=
  { s with log := s.log ++ [⟨kind, args, s.clk⟩] }

/-- Something leaves the switch. -/
def emit (s : State) (o : Out) : State := { s with outs := s.outs ++ [o] }

/-- Use up one free value. -/
def bumpFree (s : State) : State := { s with freeCtr := s.freeCtr + 1 }

/-- A packet, a command or a move comes or goes: the switch is not idle now (R882). -/
def markBusy (s : State) : State := { s with power := { s.power with busyAt := s.clk } }

/-- The next free number. -/
def freeNat (s : State) : Nat := Config.freeNat s.freeCtr

/-- A timed event happens no earlier than its time: where the clock has not reached it, it is that time now. Fabric time
goes with the clock, and slews by at most 100 ppm, 1 ns in 10 µs, toward a correction (R709, R719). -/
def untilTime (s : State) (t : Time) : State :=
  if s.clk < t then
    let dt := t - s.clk
    let n := s.tk.slewFrac + dt
    let m : Int := (min (n / 10000) s.tk.slew.natAbs : Nat)
    let d : Int := if 0 ≤ s.tk.slew then m else -m
    { s with clk := t, ftime := s.ftime + BitVec.ofInt 64 (dt + d),
             tk := { s.tk with slew := s.tk.slew - d, slewFrac := n % 10000 } }
  else s

/-- The same for a time on the fabric clock (R709). -/
def untilFabric (s : State) (t : Nat) : State :=
  if s.ftime.toNat < t then untilTime s (s.clk + (t - s.ftime.toNat)) else s

/-! ## Logical ports, nodes, registers used everywhere -/

/-- A logical port. -/
def lportOf (s : State) (n : Nat) : LPort := kget s.lports n {}

/-- Change a logical port. -/
def modLport (s : State) (n : Nat) (f : LPort → LPort) : State :=
  { s with lports := kset s.lports n (f (lportOf s n)) }

/-- Host bridge ports stand as logical ports 512 to 515. -/
def isBridge (n : Nat) : Bool := decide (512 ≤ n ∧ n < 516)

/-- Whether the partner on a logical port is a switch (R668). -/
def facesSwitch (s : State) (n : Nat) : Bool := (lportOf s n).role = some .switch

/-- A logical port is a member of a partition. A switch-facing one is a member of none (R729): a membership set while it faced no
switch rests as long as it faces one (DESIGN CHOICE, log entry 183). -/
def portMember (s : State) (n part : Nat) : Bool := !facesSwitch s n && (lportOf s n).parts.contains part

/-- A logical port can carry routed packets in its link state (R669). -/
def linkUp (l : LinkState) : Bool := l = .active || l = .retrain || l = .lowPower

/-- This switch's own node number (R813). -/
def selfNode (s : State) : Nat := s.fm.selfNode

/-- The logical port of this switch that has a node number. -/
def lportOfNode (s : State) (n : Nat) : Option Nat :=
  (s.lports.find? fun e => e.2.node = some n).map (·.1)

/-- The scheduler port of a logical port (R45): fabric port, or host bridge. -/
def schedPort (lport : Nat) : Nat := if lport < 512 then lport / 4 else 144 + (lport - 512)

/-- Egress number of an internal scheduler port. -/
abbrev internal (port : Nat) : Nat := 600 + port

/-- The Wick's scheduler port (R45). -/
abbrev wickPort : Nat := 148

/-- A region's compute port (R45). -/
def computePort (r : Nat) : Nat := 128 + r

/-- Virtual channel of a traffic class (R68). -/
def tcVc : Nat → Nat
  | 0 => 0
  | 1 => 1
  | 2 => 2
  | 5 => 4
  | 7 => 5
  | _ => 3

/-- Credit channel (R613). -/
def channelOf (tc : Nat) (esc : Bool) : Nat := 2 * tcVc tc + (if esc then 1 else 0)

/-! ## Lanes (R598, R599, R632) -/

/-- The fabric port of a logical port. -/
def portOf (n : Nat) : Nat := n / 4

/-- SPLIT of a fabric port (R599). -/
def splitOf (s : State) (p : Nat) : Nat := regField s (rPort p) 1 2

/-- Logical ports of a fabric port (R599). -/
def lportsOf (s : State) (p : Nat) : List Nat :=
  if splitOf s p = 0 then [4 * p] else if splitOf s p = 1 then [4 * p, 4 * p + 2] else natRange (4 * p) 4

/-- Lanes of the fabric port that a logical port has been given (R599). -/
def lanesGiven (s : State) (n : Nat) : List Nat :=
  if splitOf s (portOf n) = 0 then [0, 1, 2, 3] else if splitOf s (portOf n) = 1 then [n % 4, n % 4 + 1] else [n % 4]

/-- Lanes in use (R632). -/
def lanesUsed (s : State) (n : Nat) : List Nat := (lportOf s n).lanesCut.getD (lanesGiven s n)

/-- Rate of a scheduler port's logical port in Gb/s per direction (R599, R632, R640, R651). -/
def portRate (s : State) (n : Nat) : Nat :=
  if n < 512 then (lanesUsed s n).length * (if regField s (rPort (portOf n)) 3 1 = 1 then 200 else 400)
  else if n < 516 then 1024 else 3200

/-! ## Packets -/

def Packet.tcOf : Packet → Nat
  | .req _ p => p.tc.toNat
  | .resp r => r.tc.toNat

def Packet.dstOf : Packet → Nat
  | .req _ p => p.dst.toNat
  | .resp r => r.dst.toNat

/-- Bytes of a packet, header and payload, padded to whole flits (R50, R51). -/
def Packet.size : Packet → Nat
  | .req _ p => 64 * ceilDiv (32 + p.payload.length) 64
  | .resp r => 64 * ceilDiv (32 + r.data.length) 64

/-- The requester, tag and number a discarded packet names in its discard report (R680). -/
def Packet.names : Packet → Option (Nat × Nat × Nat)
  | .req (.mgmt _) _ => none
  | .req _ p => some (p.src.toNat, p.tag.toNat, p.seq.toNat)
  | .resp r => some (r.dst.toNat, r.tag.toNat, 0)

/-! ## Routing and queueing (R649, R660, R667 to R674) -/

/-- Shared bytes queued for an egress (R660). -/
def egressBytes (s : State) (e : Nat) : Nat :=
  (s.core.voqs.filter fun q => q.shared && (q.egress = e || q.others.contains e)).foldl (fun n q => n + q.bytes) 0

/-- Shared bytes of an ingress logical port (R660). -/
def ingressBytes (s : State) (l : Nat) : Nat :=
  (s.core.voqs.filter fun q => q.shared && decide (q.inLport = l)).foldl (fun n q => n + q.bytes) 0

/-- BUF_CFG.OUT_CAP and IN_CAP in bytes (R663). -/
def outCap (s : State) : Nat := regField s rBuf 16 8 * 65536
def inCap (s : State) : Nat := regField s rBuf 8 8 * 65536

/-- Load level of an egress (R674). -/
def loadLevel (s : State) (e : Nat) : Nat := min 15 (16 * egressBytes s e / outCap s)

/-- UP of a logical port (R668). -/
def isUp (s : State) (n : Nat) : Bool := regField s (rLportRoute n) 0 1 = 1

/-- A hop is permitted for a packet that arrived on `inL` (R669). -/
def permitted (s : State) (inL n : Nat) : Bool :=
  let l := lportOf s n
  l.disc = .known && linkUp l.link &&
  !(facesSwitch s inL && isUp s inL && isUp s n)

/-- Of hops with their index, those with the least load level. -/
def leastLoaded (s : State) (hs : List (Nat × Nat)) : List (Nat × Nat) :=
  let m := hs.foldl (fun m h => min m (loadLevel s h.2)) 15
  hs.filter fun h => loadLevel s h.2 = m

/-- Ties go to the hop that follows, in index order, the hop last chosen (R669). -/
def afterLast (last : Nat) (hs : List (Nat × Nat)) : Option (Nat × Nat) :=
  match hs.find? fun h => decide (last < h.1) with
  | some h => some h
  | none => hs.head?

/-- The hop for a packet (R669): index and logical port. -/
def chooseHop (s : State) (inL : Nat) (r : Route) : Option (Nat × Nat) :=
  let hs := (natRange 0 4).filterMap fun i => ((r.hops.getD i none).map fun l => (i, l))
  let ok := hs.filter fun h => permitted s inL h.2
  let act := ok.filter fun h => (lportOf s h.2).link = .active
  if regField s rRouteCfg 0 1 = 0 then
    match act.head? with
    | some h => some h
    | none => ok.head?
  else if act.isEmpty then afterLast r.last (leastLoaded s ok)
  else afterLast r.last (leastLoaded s act)

/-- The escape hop can be used: valid, its port KNOWN and its link up (R672). -/
def escUsable (s : State) (r : Route) : Option Nat :=
  match r.esc with
  | some n => if (lportOf s n).disc = .known && linkUp (lportOf s n).link then some n else none
  | none => none

/-- A region is fenced (R777). -/
def isFenced (s : State) (r : Nat) : Bool := (kfind s.ras.fenced r).isSome

/-- The other slice or region of a pair. -/
def pairOf (r : Nat) : Nat := if r % 2 = 0 then r + 1 else r - 1

/-- The slice in which an internal port is stored: slice r XOR 1 while region r is fenced (R778). -/
def movedSlice (s : State) (r : Nat) : Nat := if isFenced s r then pairOf r else r

/-- The buffer slice of an ingress scheduler port (R658, R778). -/
def sliceOf (s : State) (port : Nat) : Nat :=
  if port < 128 then port / 8
  else movedSlice s (if port < 144 then port - 128 else if port < 148 then port - 144 else 15)

/-- A link state in which a logical port holds its credit reserve (R659). -/
def reserves (l : LinkState) : Bool := l = .config || linkUp l

/-- Bytes of credit reserve that advertisements take (R659). -/
def reserveBytes (adv : List Nat) : Nat := adv.foldl (· + ·) 0 * 64

/-- The shared area of a slice in bytes: 12 MiB less the credit reserves, the internal ports' 96 KiB a channel and its part
of the spill (R658, R659). -/
def sharedArea (s : State) (r : Nat) : Nat :=
  let ports := (s.lports.filter fun e => decide (e.1 / 32 = r) && reserves e.2.link).foldl
    (fun n e => n + reserveBytes e.2.ll.adv) 0
  let inner := ((natRange 128 21).filter fun p => sliceOf s p = r).length
  12 * MiB - ports - inner * 12 * 96 * KiB - s.core.spill / 16

/-- BUF_CFG.SHARED_MIN in bytes (R663). -/
def sharedMin (s : State) : Nat := regField s rBuf 0 8 * 65536

/-- Bytes of the shared area of a slice in use. -/
def sharedUsed (s : State) (r : Nat) : Nat :=
  (s.core.voqs.filter fun q => q.shared && decide (sliceOf s q.inPort = r)).foldl (fun n q => n + q.bytes) 0

/-- Whether a packet may enter the shared area now (R660). -/
def sharedRoom (s : State) (q : QPkt) : Bool :=
  decide (ingressBytes s q.inLport + q.bytes ≤ inCap s ∨ 512 ≤ q.inLport) &&
  decide (egressBytes s q.egress + q.bytes ≤ outCap s) &&
  decide (sharedUsed s (sliceOf s q.inPort) + q.bytes ≤ sharedArea s (sliceOf s q.inPort))

/-- Give back the link credit of flits that a fabric port received (R616, R660): never more than were received. -/
def returnCredit (s : State) (lport channel flits : Nat) : State :=
  if 512 ≤ lport then s
  else modLport s lport fun l =>
    let out := (l.ll.got.getD channel 0 + 65536 - l.ll.freed.getD channel 0) % 65536
    let freed := l.ll.freed.set channel ((l.ll.freed.getD channel 0 + min flits out) % 65536)
    { l with ll := { l.ll with freed := freed } }

/-- Put a packet into the queue for an egress; it is admitted to the shared area at once when R660 allows it. -/
def pushVoq (s : State) (inPort inL egress : Nat) (esc : Bool) (pkt : Packet) (others : List Nat) : State :=
  let b := pkt.size
  let n := b / 64
  let q : QPkt := { id := s.nextId, pkt := pkt, inPort := inPort, inLport := inL, egress := egress, esc := esc,
                    tc := pkt.tcOf, bytes := b, entered := s.clk, cells := n, total := n, others := others }
  -- packets of one channel of a port are admitted in their order (R623, R660)
  let behind := s.core.voqs.any fun x => !x.shared && !x.esc && x.inLport = inL && channelOf x.tc false = channelOf q.tc false
  let q := if !esc && !behind && sharedRoom s q then { q with shared := true, admitted := s.clk } else q
  markBusy { s with core := { s.core with voqs := s.core.voqs ++ [q] }, nextId := s.nextId + 1 }

/-- Change a queued packet. -/
def modPkt (s : State) (id : Nat) (f : QPkt → QPkt) : State :=
  { s with core := { s.core with voqs := s.core.voqs.map fun q => if q.id = id then f q else q } }

/-- The outcome of routing a packet. -/
inductive Routed where
  | dest (egress : Nat) (esc : Bool) (hop : Option Nat)
  | noEntry
  | noHop
deriving DecidableEq, Repr

/-- Route a packet for a destination (R669, R670, R672). A packet that arrived on an escape channel follows only the
escape hop, on the escape channel where the next partner is a switch (R670). -/
def routeOf (s : State) (inL dst : Nat) (escIn : Bool) : Routed :=
  match (lportOfNode s dst).filter isBridge with
  | some b => .dest b false none
  | none =>
  match kfind s.core.routes dst with
  | none => .noEntry
  | some r =>
    if r.local_ then .dest (internal wickPort) false none
    else
      match (if escIn then none else chooseHop s inL r) with
      | some (i, l) => .dest l false (some i)
      | none =>
        match escUsable s r with
        | some l => .dest l (facesSwitch s l) none
        | none => .noHop

/-- Remember the hop an entry chose last (R669). -/
def markHop (s : State) (dst : Nat) : Option Nat → State
  | some i => { s with core := { s.core with routes := kmod s.core.routes dst fun r => { r with last := i } } }
  | none => s

/-- Queue a packet toward its destination, or answer none where it has no route. -/
def enqueue (s : State) (inPort inL : Nat) (escIn : Bool) (pkt : Packet) : Option State :=
  match routeOf s inL pkt.dstOf escIn with
  | .dest e esc hop => some (pushVoq (markHop s pkt.dstOf hop) inPort inL e esc pkt [])
  | _ => none

/-- The pair of this switch's own node and a destination (R94). -/
def ownPair (s : State) (dst : Nat) : Nat := selfNode s * 32768 + dst

/-- The number of this switch's next request to a destination, from 0 for each pair (R93, R94). -/
def ownNum (s : State) (dst : Nat) : Nat := kget s.ing.ownSeq (ownPair s dst) 0

/-- A management message of this switch (R803). -/
def mgmtPkt (s : State) (code dst : Nat) (payload : List Byte) : Packet :=
  .req (.mgmt code)
    { lport := 1000, tc := 0, vc := 0, partition := 0, ast := 0, src := BitVec.ofNat 15 (selfNode s),
      dst := BitVec.ofNat 15 dst, tag := BitVec.ofNat 16 s.ing.ownTag, length := BitVec.ofNat 24 payload.length,
      address := 0, seq := BitVec.ofNat 32 (ownNum s dst), flags := 2, payload := payload }

/-- Advance the number of the pair of this switch and a destination (R94). -/
def bumpOwn (s : State) (dst : Nat) : State :=
  { s with ing := { s.ing with ownSeq := kset s.ing.ownSeq (ownPair s dst) ((ownNum s dst + 1) % 2 ^ 32),
                               ownTag := (s.ing.ownTag + 1) % 65536 } }

/-- Note the management message that goes next: its answer is outstanding (R89, R102, R803). -/
def noteMgmt (s : State) : State :=
  { s with ing := { s.ing with mgmtOut := s.ing.ownTag :: s.ing.mgmtOut.filter (· ≠ s.ing.ownTag) } }

/-- Send a management message to a node; where it has no route it is dropped, and counted as asked. -/
def sendMgmt (s : State) (code dst : Nat) (payload : List Byte) : Option State :=
  enqueue (bumpOwn (noteMgmt s) dst) wickPort (internal wickPort) false (mgmtPkt s code dst payload)

/-- Send a link-scoped management message on a logical port (R804). -/
def sendLink (s : State) (code lport : Nat) (payload : List Byte) : State :=
  pushVoq (bumpOwn (noteMgmt s) noNode) wickPort (internal wickPort) lport false (mgmtPkt s code noNode payload) []

/-! ## Reports (R826, R843, R984) -/

/-- The EVENT payload (R826). -/
def eventPayload (s : State) (type subject lport detail : Nat) : List Byte :=
  leBytes 4 (type + 2 ^ 8 * (subject % 2 ^ 15) + 2 ^ 23 * (lport % 2 ^ 9)) ++ leBytes 8 0 ++
  leBytes 8 s.ftime.toNat ++ leBytes 8 detail ++ leBytes 8 s.fm.eventSeq ++ leBytes 28 0

/-- Change the Hyser state of a function. -/
def modFn (s : State) (fn : Nat) (f : Fn → Fn) : State :=
  { s with hys := { s.hys with fns := kset s.hys.fns fn (f (kget s.hys.fns fn {})) } }

/-- The Hyser state of a function. -/
def fnOf (s : State) (fn : Nat) : Fn := kget s.hys.fns fn {}

/-- Post a report to PF0's event queue (R843): a full queue drops it, sets EVQ_OVERFLOW and counts it. -/
def postEvent (s : State) (payload : List Byte) : State :=
  let e := s.hys.evq
  let n := 2 ^ e.log2
  if !e.en then s
  else if (e.tail + 1) % n = e.head % n then
    modFn s 0 fun f => { f with evqOverflow := true, droppedEvents := min 65535 (f.droppedEvents + 1) }
  else
    let last := payload.getD 63 0
    let entry := payload.take 63 ++ [if e.phase then last ||| 0x80 else last]
    let s := emit (emit s (.hostWrite (e.base * 4096 + 64 * e.tail) entry)) (.msix 0 e.vector)
    let t := (e.tail + 1) % n
    { s with hys := { s.hys with evq := { e with tail := t, phase := if t = 0 then !e.phase else e.phase } } }

/-- Send a report to every registered manager's REPORT_NODE; one without a route is counted. -/
def eventsTo (payload : List Byte) : List Manager → State → State
  | [], s => s
  | m :: ms, s =>
    eventsTo payload ms <|
      if m.report = noNode then s
      else match sendMgmt s 0x87 m.report payload with
        | some t => t
        | none => { s with fm := { s.fm with uncounted := s.fm.uncounted + 1 } }

/-- Make a report: to the managers and to PF0's event queue (R826). -/
def report (s : State) (type subject lport detail : Nat) : State :=
  let pl := eventPayload s type subject lport detail
  let s := { s with reports := s.reports ++ [⟨type, subject, lport, detail⟩] }
  let s := postEvent (eventsTo pl s.fm.managers s) pl
  { s with fm := { s.fm with eventSeq := (s.fm.eventSeq + 1) % 2 ^ 64 } }

/-- A QUEUE_ERROR report goes only to PF0's event queue (R984). -/
def reportQueueError (s : State) (fn qp cause : Nat) : State :=
  let d := fn + 2 ^ 16 * qp + 2 ^ 24 * cause
  let s := { s with reports := s.reports ++ [⟨0x11, noNode, noLport, d⟩] }
  let s := postEvent s (eventPayload s 0x11 noNode noLport d)
  { s with fm := { s.fm with eventSeq := (s.fm.eventSeq + 1) % 2 ^ 64 } }

/-! ## Health scores (R794, R795) -/

/-- Lower the score of a partner or agent; a crossing of THRESHOLD is reported. -/
def penal (s : State) (lport n : Nat) : State :=
  match kfind s.ras.health lport with
  | none => s
  | some h =>
    let score := h.score - n
    let thr := regField s rHealth 0 10
    let s := { s with ras := { s.ras with health := kset s.ras.health lport { h with score := score, at_ := s.clk } } }
    if thr ≤ h.score && decide (score < thr) then
      let l := lportOf s lport
      report s 0x06 ((l.partner.map (·.node)).getD (l.node.getD noNode)) lport score
    else s

/-- A score starts at 1,000 when its port first reaches ACTIVE (R794). -/
def startHealth (s : State) (lport : Nat) : State :=
  if (kfind s.ras.health lport).isSome then s
  else { s with ras := { s.ras with health := kset s.ras.health lport { at_ := s.clk } } }

/-- A request to a partner was left unanswered: 10, at most 200 in a second (R794). -/
def penalUnanswered (s : State) (lport : Nat) : State :=
  match kfind s.ras.health lport with
  | none => s
  | some h =>
    let fresh := decide (h.unAt + 1000000000 ≤ s.clk)
    let used := if fresh then 0 else h.un
    if 200 ≤ used then s
    else
      let h' : Health := { h with unAt := if fresh then s.clk else h.unAt, un := used + 10 }
      penal { s with ras := { s.ras with health := kset s.ras.health lport h' } } lport 10

/-- The logical port whose partner has a node number. -/
def partnerPort (s : State) (node : Nat) : Option Nat :=
  (s.lports.find? fun e => e.2.node = some node || (e.2.partner.map (·.node)) = some node).map (·.1)

/-- The partners that left a request unanswered lose points (R794). -/
def chargePartners (s : State) (o : OutReq) : State :=
  ((o.parts.filter fun p => p.sent && !p.done).filterMap fun p => partnerPort s p.home).eraseDups.foldl penalUnanswered s

/-! ## Unanswered requests and discards (R87, R88, R680) -/

/-- The key of an outstanding request by requester node and tag (R90: the oldest where two share a tag). -/
def findOut (s : State) (node tag : Nat) : Option (Nat × OutReq) :=
  s.ing.outs.find? fun e => e.2.p.src.toNat = node && e.2.p.tag.toNat = tag

/-- Change an outstanding request. -/
def modOut (s : State) (id : Nat) (f : OutReq → OutReq) : State :=
  { s with ing := { s.ing with outs := kmod s.ing.outs id f } }

/-- One request will never be answered: it is reported, counted and held (R88). -/
def markOne (cause : Nat) (s : State) (id : Nat) : State :=
  match kfind s.ing.outs id with
  | some o =>
    if o.phase = .unanswered then s
    else
      let s := chargePartners (bump (modOut s id fun o => { o with phase := .unanswered }) .unanswered) o
      report s 0x05 o.p.src.toNat o.p.lport (o.p.seq.toNat + 2 ^ 32 * o.p.tag.toNat + 2 ^ 48 * cause)
  | none => s

/-- A request will never be answered, nor will the STOREs that it absorbed, which complete with it (R88, R253; DEDUCED, log entry 171). -/
def markUnanswered (s : State) (id cause : Nat) : State :=
  let with_ := (s.ing.outs.filter fun e => e.2.phase = .absorbed id).map (·.1)
  with_.foldl (markOne cause) (markOne cause s id)

/-- Report a discarded request or response to the requester's ingress switch (R680); where that is this switch, the
request is unanswered at once. -/
def discardReport (s : State) (pkt : Packet) (reason : Nat) : State :=
  match pkt.names with
  | none => s
  | some (node, tag, seq) =>
    match lportOfNode s node with
    | some _ =>
      match findOut s node tag with
      | some (id, _) => markUnanswered s id reason
      | none => s
    | none =>
      (sendMgmt s 0x88 node (leBytes 4 (node + 2 ^ 16 * tag) ++ leBytes 4 seq ++ leBytes 8 reason)).getD s

/-- Queue a packet toward its destination; a packet without a route is discarded, counted and reported (R672). -/
def sendPkt (s : State) (inPort inL : Nat) (escIn : Bool) (pkt : Packet) : State :=
  match enqueue s inPort inL escIn pkt with
  | some t => t
  | none => discardReport (bump s .noRouteDiscards) pkt 1

/-! ## Answering a request (R55 to R58, R81) -/

/-- Bits of a response's OPCODE of the request answered (R71, R205). -/
def opCode : Op → Nat
  | .load => 0x01 | .store => 0x02 | .storeClearPoison => 0x03 | .copy => 0x04
  | .atomic .add => 0x20 | .atomic .min => 0x21 | .atomic .max => 0x22 | .atomic .and => 0x23
  | .atomic .or => 0x24 | .atomic .xor => 0x25 | .atomic .swap => 0x26 | .atomic .cas => 0x27
  | .fence => 0x30 | .openVersion => 0x31 | .closeVersion => 0x32 | .publish => 0x33
  | .rdShared => 0x40 | .rdOwn => 0x41 | .upgrade => 0x42 | .wbDirty => 0x43 | .evictClean => 0x44
  | .snpInv => 0x48 | .snpShare => 0x49
  | .collContrib => 0x60 | .collPartial => 0x61 | .collDeliver => 0x62
  | .gather => 0x68 | .scatter => 0x69 | .search => 0x6C | .attend => 0x70 | .filter => 0x74
  | .run => 0x78 | .ownerCas => 0x7C
  | .mgmt c => c
  | .unlisted c => c

/-- A response to a request: status, the bytes answered, result word and data (R55, R56). -/
def mkResp (s : State) (op : Op) (p : Req) (status segOff cover result : Nat) (data : List Byte) : Resp :=
  { lport := 1000, isData := !data.isEmpty, status := BitVec.ofNat 4 status, reqOpcode := BitVec.ofNat 8 (opCode op),
    rspNode := BitVec.ofNat 15 (selfNode s), dst := p.src, tag := p.tag, segOffset := BitVec.ofNat 24 segOff,
    segCover := BitVec.ofNat 24 cover, result := BitVec.ofNat 64 result, data := data }

/-- Send a response that this switch makes; in free mode LOAD is 0 (R58), otherwise the load level of the switch's own
port (R57, R675) that the caller gives. -/
def sendResp (s : State) (port load : Nat) (r : Resp) : State :=
  sendPkt s port (internal port) false
    (.resp { r with load := BitVec.ofNat 4 (if s.mem.freeMode then 0 else load) })

/-- The ranges of n bytes that one packet each answers, at most 65,536 bytes in a packet (R78). -/
def coverPieces (n : Nat) : List (Nat × Nat) :=
  if n = 0 then [(0, 0)] else (natRange 0 (ceilDiv n 65536)).map fun i => (65536 * i, min 65536 (n - 65536 * i))

/-- The ranges that the packets of an answer without data cover: a LOAD's one after another (R78), any other request's at once (R81). -/
def coverOf (op : Op) (n : Nat) : List (Nat × Nat) :=
  match op with
  | .load => coverPieces n
  | _ => [(0, n)]

/-- Answer a request whole, with no data: a request of another switch that is refused, a management message, a downward COLL_PARTIAL. The
answer enters the crossbar at the Wick's port (DESIGN CHOICE, log entry 156). -/
def answer (s : State) (op : Op) (p : Req) (status result : Nat) : State :=
  (coverOf op p.length.toNat).foldl (fun s c => sendResp s wickPort 0 (mkResp s op p status c.1 c.2 result [])) s

/-! ## Completing a command (R840, R846, R850, R851) -/

/-- The return address of a command. -/
def cmdRef (c : Cmd) : CmdRef := ⟨c.fn, c.qp, c.cid, c.addr1.toNat, c.outLen.toNat, none⟩

/-- Complete a command with a status, a 128-bit RESULT and output bytes for ADDR1: output beyond OUT_LEN turns OK into
OK_PARTIAL with the full length in RESULT bytes 8 to 15 (R846). A command that came in FM_COMMAND is answered with
FM_REPLY (R805, R815). -/
def complete (s : State) (r : CmdRef) (status result : Nat) (out : List Byte) : State :=
  match r.fm with
  | some (node, seq) =>
    (sendMgmt s 0x84 node (leBytes 8 seq ++ leBytes 8 status ++ leBytes 16 result)).getD s
  | none =>
    let f := fnOf s r.fn
    let excess := decide (r.outLen < out.length) && decide (status = stOk)
    match f.inFlight.find? fun i => i.qp = r.qp && i.cid = r.cid with
    | none => s
    | some i =>
      let s := markBusy s
      let rest := f.inFlight.erase i
      let done : Completion :=
        { qp := r.qp, cid := r.cid, status := if excess then stPartial else status,
          result := if excess then result % 2 ^ 64 + 2 ^ 64 * out.length else result,
          time := s.ftime.toNat, sqHead := i.sqHead, out := out.take r.outLen, addr := r.addr1 }
      if i.orphan then
        modFn s r.fn fun f => { f with inFlight := rest, droppedCompletions := min 65535 (f.droppedCompletions + 1) }
      else modFn s r.fn fun f => { f with inFlight := rest, done := f.done ++ [done] }

/-- Complete a list of commands alike. -/
def completeAll (s : State) (rs : List CmdRef) (status : Nat) : State :=
  rs.foldl (fun s r => complete s r status 0 []) s

/-! ## Partitions -/

/-- A partition record. -/
def partOf (s : State) (n : Nat) : Partition := kget s.parts n {}

/-- The switch runs: firmware is up (R913). -/
def running (s : State) : Bool := s.boot.phase = .ready

/-- A meaning that has an effect only while the switch runs. -/
def live (s : State) (f : State → State) : Host.Outcome State Fault Refusal :=
  if running s then .next (f s) else .next s

end Sys2Proof.Machine
end

