-- ==== Sys2Proof/Machine/Command.lean ====
section
/-! DEFINITION. Machine/Command.lean: what every Hyser command goes through before its own checks
(20_hyser_interface.md R844 to R860, R978; signed commands, 19_fabric_management.md R814, R815). -/
namespace Sys2Proof.Machine

/-- Change a partition's record. -/
def modPart (s : State) (n : Nat) (f : Partition → Partition) : State :=
  { s with parts := kset s.parts n (f (partOf s n)) }

/-- A change of R749 while a TDI is CONFIG_LOCKED or RUN moves it to ERROR. -/
def tdiFault (s : State) (n : Nat) : State :=
  if (partOf s n).tdi = .locked || (partOf s n).tdi = .run then modPart s n fun p => { p with tdi := .error } else s

/-- A parameter of ARGS: n bytes at an offset (R845). -/
def arg (c : Cmd) (off n : Nat) : Nat := bits c.args.toNat (8 * off) (8 * n)

/-- An option bit (R845). -/
def opt (c : Cmd) (i : Nat) : Bool := c.opts.getLsbD i

/-- Which partition a command acts for (R978). -/
inductive Acts where
  /-- none: through PF0 the command must have PARTITION 0 -/
  | nothing
  /-- the one that PARTITION names -/
  | field
  /-- the one of the object that the command names, where it exists -/
  | object
  /-- judged only by its own chapter (PART.CREATE, PART.INFO, PART.TEARDOWN) -/
  | own
  /-- none: the command only reads an object that it names, and PARTITION is not judged -/
  | reads
deriving DecidableEq, Repr

/-- What the common checks need to know of a command. -/
structure CmdSpec where
  pf0 : Bool := false
  signed : Bool := false
  /-- option bits used -/
  opts : Nat := 0
  /-- bytes of ARGS used, as (offset, length) -/
  args : List (Nat × Nat) := []
  /-- ADDR0 is a host address that the switch reads -/
  host : Bool := false
  /-- AST is used -/
  ast : Bool := false
  acts : Acts := .nothing
  group : Nat
  verb : Nat
deriving DecidableEq, Repr

/-- The bits of ARGS that parameters use. -/
def argMask (l : List (Nat × Nat)) : Nat :=
  l.foldl (fun m e => setBits m (8 * e.1) (8 * e.2) (2 ^ (8 * e.2) - 1)) 0

/-- Check 1 of R852: reserved bits and values of the descriptor are 0 (R24); so is ADDR0 where the command names no memory address
(R844). -/
def descriptorOk (c : Cmd) (sp : CmdSpec) : Bool :=
  c.rsv = 0 && decide (c.opts.toNat < 2 ^ sp.opts) &&
  c.args.toNat &&& (2 ^ 256 - 1 - argMask sp.args) = 0 &&
  (sp.ast || c.ast = 0) && (sp.ast || sp.host || c.addr0 = 0) &&
  (if c.fn = 0 then (sp.acts != .nothing || c.partition = 0) else c.partition = 0)

/-- The function exists (R830). -/
def fnExists (s : State) (fn : Nat) : Bool := fn = 0 || (s.hys.vfEnable && decide (fn ≤ s.hys.numVfs))

/-- Check 4 of R852 (R978) on the partition acted for. -/
def partitionCheck (s : State) (c : Cmd) (part : Option Nat) : Option Nat :=
  match part with
  | none => none
  | some n =>
    match (partOf s n).st with
    | .active => none
    | .free => if c.fn = 0 then some stDenied else some stTornDown
    | _ => some stTornDown

/-- The partition a command acts for; `obj` is that of the object it names. -/
def actsFor (c : Cmd) (sp : CmdSpec) (obj : Option Nat) : Option Nat :=
  if c.fn ≠ 0 then some (c.fn - 1)
  else match sp.acts with
    | .field => some c.partition.toNat
    | .object => obj
    | _ => none

/-- The checks of R852 in their order: the CODE of the first that fails. `obj` is the partition of the object named,
`mine` whether everything named belongs to the VF's partition. -/
def commonCheck (s : State) (c : Cmd) (sp : CmdSpec) (obj : Option Nat) (mine : Bool) : Option Nat :=
  if !descriptorOk c sp then some stMalformed
  else if sp.pf0 && c.fn ≠ 0 then some stDenied
  else match partitionCheck s c (if sp.acts = .own && c.fn = 0 then none else actsFor c sp obj) with
    | some st => some st
    | none =>
      if c.fn ≠ 0 && !mine then some stDenied
      else if sp.host && c.host.isNone then some stHostFault
      else none

/-- A command in progress is this one, fetched and not started. -/
def isFetch (c : Cmd) (sp : CmdSpec) (i : InFlight) : Bool :=
  i.qp = c.qp && i.cid = c.cid && i.group = sp.group && i.verb = sp.verb && i.unknown.isNone && !i.started

/-- Commands of the same queue fetched before this one and not completed. -/
def before (s : State) (c : Cmd) (sp : CmdSpec) : List InFlight :=
  ((fnOf s c.fn).inFlight.takeWhile fun i => !isFetch c sp i).filter fun i => i.qp = c.qp

/-- The command has been fetched from its queue, and has not started. -/
def fetched (s : State) (c : Cmd) (sp : CmdSpec) : Bool := (fnOf s c.fn).inFlight.any (isFetch c sp)

/-- With these commands of its queue before it, a command may start (R856): a FENCE waits for every one, and every command
waits for an earlier FENCE. -/
def orderOk (fence : Bool) (earlier : List InFlight) : Bool :=
  if fence then earlier.isEmpty else earlier.all fun i => !i.fence

/-- A command may start: its function exists, or it was fetched while it did, its order allows it, and a core of the Wick is live
(R787). -/
def mayStart (s : State) (c : Cmd) (sp : CmdSpec) : Bool :=
  running s && s.ras.cores.any (·.live) && (fnExists s c.fn || fetched s c sp) && orderOk c.fence (before s c sp)

/-- Note a command as started; one that was not fetched by a command of its own counts as fetched now. -/
def startCmd (s : State) (c : Cmd) (sp : CmdSpec) : State :=
  modFn (markBusy s) c.fn fun f =>
    match f.inFlight.find? (isFetch c sp) with
    | some i => { f with inFlight := f.inFlight.map fun j => if j = i then { i with started := true } else j }
    | none =>
      { f with inFlight := f.inFlight ++ [{ qp := c.qp, cid := c.cid, fence := c.fence, started := true,
                                            sqHead := (kget f.qps c.qp {}).sqHead, group := sp.group, verb := sp.verb }] }

/-- The first command of a function that completes without a meaning of its own (R852) and whose order allows it to start. -/
def unknownDue (earlier : List InFlight) : List InFlight → Option InFlight
  | [] => none
  | i :: is =>
    if i.unknown.isSome && orderOk i.fence (earlier.filter fun e => e.qp = i.qp) then some i
    else unknownDue (earlier ++ [i]) is

/-- A VF whose TDI is in ERROR processes no command and completes every new one with DENIED (R750). -/
def tdiError (s : State) (fn : Nat) : Bool := fn ≠ 0 && (partOf s (fn - 1)).tdi = .error

/-- Complete every command that is not listed in the catalogue and that may start (R852, R856). -/
def settleUnknown : Nat → State → State
  | 0, s => s
  | n + 1, s =>
    match s.hys.fns.findSome? fun e => (unknownDue [] e.2.inFlight).map fun i => (e.1, i) with
    | none => s
    | some (fn, i) =>
      settleUnknown n (complete s { fn := fn, qp := i.qp, cid := i.cid, addr1 := 0, outLen := 0 } (if tdiError s fn then stDenied else i.unknown.getD stUnsupported) 0 [])

/-- Carry out a command: the common checks, then its own. A command that may not start yet changes nothing. -/
def runCmd (s : State) (c : Cmd) (sp : CmdSpec) (obj : Option Nat) (mine : Bool) (body : State → State) : State :=
  if !mayStart s c sp then s
  else
    let t := startCmd s c sp
    if tdiError t c.fn then complete t (cmdRef c) stDenied 0 []
    else match commonCheck t c sp obj mine with
    | some st => complete t (cmdRef c) st 0 []
    | none => body t

/-! ## Signed commands -/

/-- The command that a signed command's body holds (R814, R844). -/
def bodyCmd (c : Cmd) (b : List Byte) : Cmd :=
  let w4 := leField b 4 1
  { c with fence := c.fence, signed := false,
           rsv := BitVec.ofNat 32 (w4 / 2 + leField b 6 2 / 1024 + leField b 8 4 / 4096),
           opts := BitVec.ofNat 8 (leField b 5 1), partition := BitVec.ofNat 10 (leField b 6 2),
           ast := BitVec.ofNat 12 (leField b 8 4), outLen := BitVec.ofNat 32 (leField b 12 4),
           addr0 := BitVec.ofNat 64 (leField b 16 8), addr1 := BitVec.ofNat 64 (leField b 24 8),
           args := BitVec.ofNat 256 (leField b 32 32), host := c.list }

/-- A signature block verifies (R796): 3,309 bytes of ML-DSA-65 signature, then 19 zero bytes. -/
def sigOk (key msg block : List Byte) : Bool :=
  block.length = 3328 && (block.drop 3309).all (· = 0) && Config.mldsaVerify key msg (block.take 3309)

/-- The checks of R815: the status of the first that fails. `b` is the signed command. -/
def signedCheck (s : State) (b : List Byte) : Option (Nat × Nat) :=
  let mgr := leField b 6 2
  if b.length ≠ 3456 ∨ leField b 0 4 ≠ 0x434D4446 ∨ leField b 0x20 4 ≠ 64 ∨ leField b 0x24 28 ≠ 0 ∨ 8 ≤ mgr then
    some (stMalformed, 1)
  else
    match s.fm.managers[mgr]? with
    | none => some (stDenied, 2)
    | some m =>
      if leField b 4 2 ≠ s.fm.keyEpoch then some (stDenied, 2)
      else if leField b 8 8 ≠ s.fm.serial ∨ leField b 0x10 8 ≠ s.fm.bootId then some (stDenied, 3)
      else if m.lastSeq.any (fun k => decide (leField b 0x18 8 ≤ k)) then some (stDenied, 4)
      else if !sigOk m.key (b.take 128) (b.drop 128) then some (stDenied, 5)
      else none

/-- Remember the CMD_SEQ accepted from a manager (R814). -/
def acceptSeq (s : State) (b : List Byte) : State :=
  let mgr := leField b 6 2
  { s with fm := { s.fm with managers := s.fm.managers.mapIdx fun i m =>
      if i = mgr then { m with lastSeq := some (leField b 0x18 8) } else m } }

/-- What a list-reading command's digest must be (R848). -/
def digestOk (c : Cmd) (l : List Byte) : Bool := Config.shake256 32 l = sliceBytes (leBytes 32 c.args.toNat) 0 32

/-- The outer descriptor of a signed command (R847): every field but GROUP, VERB, CID, FENCE, SIGNED and ADDR0 is 0. -/
def outerOk (c : Cmd) : Bool :=
  c.rsv = 0 && c.opts = 0 && c.partition = 0 && c.ast = 0 && c.outLen = 0 && c.addr1 = 0 && c.args = 0

/-- Carry out a command of the FABRIC, NODE and ROUTE groups through PF0 (R814, R847): the outer descriptor, the
function, the host read, the checks of R815, then the body's descriptor and the command's own checks on it. The body comes with
what it reads at its own ADDR0, and with the header and body that signatures cover. -/
def runSigned (s : State) (c : Cmd) (sp : CmdSpec) (body : State → Cmd → CmdRef → State) : State :=
  if !mayStart s c sp then s
  else
    let t := startCmd s c sp
    let r := cmdRef c
    if tdiError t c.fn then complete t r stDenied 0 []
    else if c.signed then
      if !outerOk c then complete t r stMalformed 0 []
      else if c.fn ≠ 0 then complete t r stDenied 0 []
      else match c.host with
        | none => complete t r stHostFault 0 []
        | some b =>
          match signedCheck t b with
          | some (st, order) => complete t r (st + 256 * (0x80 + order)) 0 []
          | none =>
            let bc := bodyCmd c (sliceBytes b 64 64)
            let t := acceptSeq t b
            if leField b 64 1 ≠ sp.group ∨ leField b 65 1 ≠ sp.verb ∨ bc.outLen ≠ 0 ∨ bc.addr1 ≠ 0 ∨
                !descriptorOk bc sp then complete t r stMalformed 0 []
            else if sp.host && bc.host.isNone then complete t r stHostFault 0 []
            else body t { bc with list := some (b.take 128) } (cmdRef bc)
    else if !descriptorOk c sp then complete t r stMalformed 0 []
    else complete t r stDenied 0 []

end Sys2Proof.Machine
end

