-- ==== Sys2Proof/Machine/Tallow.lean ====
section
/-! DEFINITION. Machine/Tallow.lean: the lossless codec (13_tallow_protection.md R574 to R585, R987) and CRC-32C. -/
namespace Sys2Proof.Machine

/-! ## CRC-32C -/

/-- One bit of the reflected CRC-32C (polynomial 0x1EDC6F41). -/
def crcBit (c : BitVec 32) : BitVec 32 :=
  if c.getLsbD 0 then (c >>> 1) ^^^ 0x82F63B78 else c >>> 1

/-- One byte of the reflected CRC-32C. -/
def crcByte (c : BitVec 32) (b : Byte) : BitVec 32 :=
  crcBit <| crcBit <| crcBit <| crcBit <| crcBit <| crcBit <| crcBit <| crcBit (c ^^^ b.zeroExtend 32)

/-- CRC-32C of a byte string. -/
def crc32c (l : List Byte) : BitVec 32 := (l.foldl crcByte 0xFFFFFFFF) ^^^ 0xFFFFFFFF

/-! ## Blocks -/

/-- The plane stride S of a STRIDE code (R574). -/
def strideOf : Nat → Option Nat
  | 0 => some 1 | 1 => some 2 | 2 => some 4 | 3 => some 8 | 4 => some 40 | 5 => some 272
  | _ => none

/-- The bytes of plane p (R577), from input offset o on. -/
def planeOf (s phase p : Nat) (o : Nat) : List Byte → List Byte
  | [] => []
  | b :: bs => if (o + phase) % s = p then b :: planeOf s phase p (o + 1) bs else planeOf s phase p (o + 1) bs

/-- The deltas of a plane (R578). -/
def deltas (prev : Byte) : List Byte → List Byte
  | [] => []
  | b :: bs => (b - prev) :: deltas b bs

/-- A running sum, which restores a delta-coded plane (R578). -/
def undelta (prev : Byte) : List Byte → List Byte
  | [] => []
  | d :: ds => (prev + d) :: undelta (prev + d) ds

/-- The literal tokens of a byte string, 128 bytes each and one for the rest (R579, R987). -/
def literals (l : List Byte) : Nat → List Byte
  | 0 => []
  | fuel + 1 =>
    if l.isEmpty then []
    else
      let t := l.take 128
      (BitVec.ofNat 8 (t.length - 1) :: t) ++ literals (l.drop 128) fuel

/-- The token of a run of n bytes of 0x00 or 0xFF (R579). -/
def runToken (v : Byte) (n : Nat) : List Byte :=
  let f : Nat := if v = 0 then 0 else 0x20
  if n ≤ 32 then [BitVec.ofNat 8 (0x80 + f + (n - 1))]
  else BitVec.ofNat 8 (0xC0 + f) :: leBytes 2 n

/-- The token stream of a plane in one pass (R987 item 3); `lit` holds the literal bytes gathered, newest first. -/
def tokens (lit : List Byte) (l : List Byte) : Nat → List Byte
  | 0 => literals lit.reverse (lit.length + 1)
  | fuel + 1 =>
    match l with
    | [] => literals lit.reverse (lit.length + 1)
    | b :: bs =>
      let run := (bs.takeWhile fun c => c = b).length + 1
      if (b = 0 ∨ b = 0xFF) ∧ 2 ≤ run then
        literals lit.reverse (lit.length + 1) ++ runToken b run ++ tokens [] (bs.drop (run - 1)) fuel
      else tokens (b :: lit) bs fuel

/-- The token stream of a plane, delta-coded only when that is strictly shorter (R987 item 2). -/
def planeTokens (l : List Byte) : Bool × List Byte :=
  let plain := tokens [] l (l.length + 1)
  let delta := tokens [] (deltas 0 l) (l.length + 1)
  if delta.length < plain.length then (true, delta) else (false, plain)

/-- The delta mask of the planes (R576). -/
def deltaMask (flags : List Bool) : Nat :=
  (flags.zipIdx).foldl (fun m e => if e.1 then m + 2 ^ e.2 else m) 0

/-- A compressed block of one stride, before its padding (R576): the body after the header. -/
def compressedBody (code s phase : Nat) (l : List Byte) : Nat × Nat × List Byte :=
  let ps := (natRange 0 s).map fun p => planeTokens (planeOf s phase p 0 l)
  (code, phase, leBytes (ceilDiv s 8) (deltaMask (ps.map (·.1))) ++ (ps.map (·.2)).flatten)

/-- A block's bytes from its header fields and body, padded to whole units (R574). -/
def blockBytes (raw : Bool) (code phase : Nat) (input body : List Byte) : List Byte :=
  let units := ceilDiv (8 + body.length) 64
  let h := units + (if raw then 128 else 0) + 2 ^ 8 * code + 2 ^ 11 * phase + 2 ^ 20 * (input.length - 1)
  leBytes 4 h ++ leBytes 4 (crc32c input).toNat ++ body ++ List.replicate (units * 64 - 8 - body.length) 0

/-- The body with the fewest bytes; the smaller stride when two are equal (R987 item 4). -/
def bestBody : List (Nat × Nat × List Byte) → Option (Nat × Nat × List Byte)
  | [] => none
  | c :: cs =>
    match bestBody cs with
    | none => some c
    | some d => if c.2.2.length ≤ d.2.2.length then some c else some d

/-- PHASE of stride s for a block whose first byte stands at offset o of a sequence with elements from d on (R987). -/
def phaseOf (s o d : Nat) : Nat := (((o : Int) - (d : Int)) % (s : Int)).toNat

/-- The switch's encoder (R581, R987): a fixed function of 1 to 4,096 input bytes and their position. -/
def tallowEncode (o d : Nat) (input : List Byte) : List Byte :=
  let cs := [0, 1, 2, 3, 4, 5].filterMap fun code =>
    (strideOf code).map fun s => compressedBody code s (phaseOf s o d) input
  let raw := blockBytes true 0 0 input input
  match bestBody cs with
  | some (code, ph, body) =>
    if ceilDiv (8 + body.length) 64 < ceilDiv (8 + input.length) 64 then blockBytes false code ph input body else raw
  | none => raw

/-- Read one plane of `need` bytes from a token stream (R579): its bytes and the rest of the stream. -/
def readPlane (need : Nat) (l : List Byte) : Nat → Option (List Byte × List Byte)
  | 0 => if need = 0 then some ([], l) else none
  | fuel + 1 =>
    if need = 0 then some ([], l)
    else match l with
      | [] => none
      | t :: ts =>
        let v := t.toNat
        if v < 0x80 then
          let n := v + 1
          if need < n ∨ ts.length < n then none
          else (readPlane (need - n) (ts.drop n) fuel).map fun r => (ts.take n ++ r.1, r.2)
        else if v < 0xC0 then
          let n := v % 32 + 1
          let b : Byte := if v % 64 < 32 then 0 else 0xFF
          if need < n then none
          else (readPlane (need - n) ts fuel).map fun r => (List.replicate n b ++ r.1, r.2)
        else if v % 32 ≠ 0 ∨ ts.length < 2 then none
        else
          let n := leField ts 0 2
          let b : Byte := if v % 64 < 32 then 0 else 0xFF
          if n = 0 ∨ 4096 < n ∨ need < n then none
          else (readPlane (need - n) (ts.drop 2) fuel).map fun r => (List.replicate n b ++ r.1, r.2)

/-- Bytes of plane p among n input bytes (R577). -/
def planeLen (s phase n p : Nat) : Nat := ((natRange 0 n).filter fun o => (o + phase) % s = p).length

/-- Read the planes of a compressed block in order. -/
def readPlanes (s phase n mask : Nat) (l : List Byte) : List Nat → Option (List (List Byte) × List Byte)
  | [] => some ([], l)
  | p :: ps =>
    match readPlane (planeLen s phase n p) l (n + 1) with
    | none => none
    | some (b, r) =>
      let b := if mask / 2 ^ p % 2 = 1 then undelta 0 b else b
      (readPlanes s phase n mask r ps).map fun q => (b :: q.1, q.2)

/-- Put the planes' bytes back in input order. -/
def weave (s phase : Nat) (planes : List (List Byte)) (o : Nat) : Nat → List Byte
  | 0 => []
  | n + 1 =>
    let p := (o + phase) % s
    let cur := planes.getD p []
    cur.headD 0 :: weave s phase (planes.set p cur.tail) (o + 1) n

/-- Expand the block at the start of a byte string (R580): its input bytes and its units; none when malformed. -/
def tallowDecode (l : List Byte) : Option (List Byte × Nat) :=
  let h := leField l 0 4
  let units := bits h 0 7
  let raw := bits h 7 1 = 1
  let phase := bits h 11 9
  let n := bits h 20 12 + 1
  let body := (l.take (units * 64)).drop 8
  if units = 0 ∨ 65 < units ∨ l.length < units * 64 then none
  else match strideOf (bits h 8 3) with
    | none => none
    | some s =>
      if raw then
        if units ≠ ceilDiv (8 + n) 64 ∨ bits h 8 3 ≠ 0 ∨ phase ≠ 0 then none
        else if (body.drop n).any (fun b => b ≠ 0) ∨ (crc32c (body.take n)).toNat ≠ leField l 4 4 then none
        else some (body.take n, units)
      else if s ≤ phase then none
      else
        let mb := ceilDiv s 8
        let mask := leField body 0 mb
        if body.length < mb ∨ 2 ^ s ≤ mask then none
        else match readPlanes s phase n mask (body.drop mb) (natRange 0 s) with
          | none => none
          | some (ps, rest) =>
            let out := weave s phase ps 0 n
            if rest.any (fun b => b ≠ 0) ∨ (crc32c out).toNat ≠ leField l 4 4 then none
            else some (out, units)

/-- Units of the block that the encoder makes of 4 KiB of a frame (R125, R987): d is 0 in a T3 frame. -/
def tallowUnits (o : Nat) (input : List Byte) : Nat := (tallowEncode o 0 input).length / 64

/-- Expand a payload under FLAGS.TALLOW (R583, R584): LENGTH bytes in blocks of 4,096 and one for the rest, chained
exactly to its end. -/
def tallowPayload (length : Nat) (l : List Byte) : Nat → Option (List Byte)
  | 0 => if length = 0 ∧ l.isEmpty then some [] else none
  | fuel + 1 =>
    if length = 0 then (if l.isEmpty then some [] else none)
    else match tallowDecode l with
      | none => none
      | some (b, u) =>
        if b.length ≠ min 4096 length then none
        else (tallowPayload (length - b.length) (l.drop (u * 64)) fuel).map fun r => b ++ r

/-- The lengths that a TALLOW payload's blocks claim, checked without expanding (R584): whether they chain exactly. -/
def tallowChain (length : Nat) (l : List Byte) : Nat → Bool
  | 0 => length = 0 && l.isEmpty
  | fuel + 1 =>
    if length = 0 then l.isEmpty
    else
      let u := leField l 0 1 % 128
      let n := leField l 2 2 / 16 + 1
      decide (0 < u) && decide (u * 64 ≤ l.length) && decide (n = min 4096 length) &&
      tallowChain (length - n) (l.drop (u * 64)) fuel

/-- The blocks of a payload that the switch compresses (R586), whose elements start at d. -/
def tallowBlocks (d o : Nat) (l : List Byte) : Nat → List Byte
  | 0 => []
  | fuel + 1 => if l.isEmpty then [] else tallowEncode o d (l.take 4096) ++ tallowBlocks d (o + 4096) (l.drop 4096) fuel

end Sys2Proof.Machine
end

