-- ==== Sys2Proof/Machine/Pool.lean ====
section
/-! DEFINITION. Machine/Pool.lean: homes, tier addresses, free storage, placement, policy classes and heat
(03_memory_tiers.md R104 to R142). -/
namespace Sys2Proof.Machine

/-! ## Homes (R106, R107) -/

/-- Pool frame of a pool address. -/
def frameOf (pool : Nat) : Nat := pool / frameBytes

/-- The node that homes a pool address, if any (R107). -/
def homeOf (s : State) (pool : Nat) : Option Nat := kfind s.mem.homes (pool / (32 * GiB))

/-- This switch homes a pool address. -/
def homedHere (s : State) (pool : Nat) : Bool := homeOf s pool = some (selfNode s)

/-- Tier map entry of a frame (R122). -/
def tierOf (s : State) (frame : Nat) : Option TierEntry := kfind s.mem.tier frame

/-- Change a tier map entry. -/
def modTier (s : State) (frame : Nat) (f : TierEntry → TierEntry) : State :=
  { s with mem := { s.mem with tier := kmod s.mem.tier frame f } }

/-! ## Tier addresses (R104, R112, R113, R116, R117) -/

/-- The two ranges of T0 (R104): compute scratch, and the packet buffer's spill. No tier map entry and no request reaches them (R105). -/
def t0Scratch : Nat × Nat := (0x000000000000, 0x000007FFFFFF)
def t0Spill : Nat × Nat := (0x000008000000, 0x000013FFFFFF)

/-- A tier address in bytes lies in T0 (R104). -/
def inT0 (a : Nat) : Bool := decide (a ≤ t0Scratch.2 ∨ (t0Spill.1 ≤ a ∧ a ≤ t0Spill.2))

/-- T1 frames that back pool frames (R114). -/
def t1Frames (s : State) : Nat :=
  match s.part with
  | .olm9648A0 | .olm9648B0 => 194560
  | _ => 260096

/-- Tier address [47:12] of T1 frame f. -/
def t1Loc (f : Nat) : Nat := 0x10000000 + f * 512
/-- T1 frame number of a tier address [47:12]. -/
def t1FrameOf (loc : Nat) : Nat := (loc - 0x10000000) / 512
/-- Stack and owning region of a T1 frame (R112, R113). -/
def t1Stack (f : Nat) : Nat := f % 8
def t1Region (f : Nat) : Nat := 2 * (f % 8) + f / 8 % 2
/-- The region whose arbiter serves a T1 frame: its owner's, else that of the region that shares the stack; a stack with both
regions fenced has none (R778, R780). -/
def t1Owner (s : State) (f : Nat) : Option Nat :=
  let r := t1Region f
  let x := if r % 2 = 0 then r + 1 else r - 1
  if !isFenced s r then some r else if !isFenced s x then some x else none
/-- Tier address [47:12] of tray offset x (bytes) of a slot, in T2 and T3 (R116). -/
def t2Loc (slot x : Nat) : Nat := (0x200000000000 + slot * 2 ^ 40 + x) / 4096
def t3Loc (slot x : Nat) : Nat := (0x400000000000 + slot * 2 ^ 40 + x) / 4096
/-- Slot and byte offset of a T2 or T3 tier address [47:12]. -/
def locSlot (loc : Nat) : Nat := loc * 4096 % 0x200000000000 / 2 ^ 40
def locOff (loc : Nat) : Nat := loc * 4096 % 2 ^ 40
/-- Which tier a tier address [47:12] that the tier map may hold lies in (R105). -/
def locTier (loc : Nat) : Tier :=
  if loc * 4096 < 0x200000000000 then .t1 else if loc * 4096 < 0x400000000000 then .t2 else .t3

/-- The region that owns a pool address's frame (R113): none where the frame is not in T1. -/
def ownerRegion (s : State) (pool : Nat) : Option Nat :=
  (tierOf s (frameOf pool)).bind fun t => if t.tier = .t1 then t1Owner s (t1FrameOf t.loc0) else none

/-- Owner regions of the frames that ranges of pool touch, in the order of the ranges (R43). -/
def dataRegions (s : State) (rs : List (Nat × Nat)) : List Nat :=
  (rs.flatMap fun r => if r.2 = 0 then [] else
    (natRange (frameOf r.1) (frameOf (r.1 + r.2 - 1) - frameOf r.1 + 1)).filterMap fun f => ownerRegion s (f * frameBytes)).eraseDups

/-- The scheduler port at which a home's own packets about a pool address enter the crossbar (R45): the compute port of the region that
owns the frame, or to whose port its tray is attached (DESIGN CHOICE, log entry 156). -/
def homePort (s : State) (pool : Nat) : Nat :=
  match tierOf s (frameOf pool) with
  | none => wickPort
  | some t =>
    if t.tier = .t1 then ((t1Owner s (t1FrameOf t.loc0)).map computePort).getD wickPort
    else match (kfind s.mem.slots (locSlot t.loc0)).bind fun v => v.nodes.head?.bind (lportOfNode s) with
      | some l => computePort (l / 32 % 16)
      | none => wickPort

/-- Locations of a frame's copies. -/
def TierEntry.locs (t : TierEntry) : List Nat := [t.loc0, t.loc1, t.loc2].take t.copies

/-! ## Free storage -/

/-- T1 frames taken: by copies 0, by moves toward T1, by drafts and retained versions, by reservations. -/
def t1Taken (s : State) : List Nat :=
  (s.mem.tier.filterMap fun e => if e.2.tier = .t1 then some (t1FrameOf e.2.loc0) else none) ++
  (s.mem.moves.filterMap fun e => if e.2.dst = .t1 then some (t1FrameOf e.2.loc) else none) ++
  (s.mem.freeing.filterMap fun e => if locTier e.1 = .t1 then some (t1FrameOf e.1) else none) ++
  (s.snap.storage.filterMap fun e => if locTier e.2 = .t1 then some (t1FrameOf e.2) else none) ++
  ((s.sec.scrubs.flatMap (·.frames)).filterMap fun l => if locTier l = .t1 then some (t1FrameOf l) else none)

/-- Free T1 frames. -/
def t1Free (s : State) : Nat :=
  t1Frames s - ((t1Taken s).length + s.mem.reserved.foldl (fun n e => n + e.2) 0)

/-- T2 frames of a slot after the area for copy metadata (R119). -/
def t2Capacity (t : TraySlot) : Nat := t.t2Gib * 510

/-- Frame indexes taken in a slot's T2 area. -/
def t2Taken (s : State) (slot : Nat) : List Nat :=
  (s.mem.tier.flatMap fun e => e.2.locs.filterMap fun l =>
    if locTier l = .t2 && locSlot l = slot then some (locOff l / frameBytes) else none) ++
  (s.mem.moves.filterMap fun e =>
    if e.2.dst = .t2 && locSlot e.2.loc = slot then some (locOff e.2.loc / frameBytes) else none) ++
  (s.mem.freeing.filterMap fun e =>
    if locTier e.1 = .t2 && locSlot e.1 = slot then some (locOff e.1 / frameBytes) else none) ++
  (s.snap.storage.filterMap fun e =>
    if locTier e.2 = .t2 && locSlot e.2 = slot then some (locOff e.2 / frameBytes) else none) ++
  ((s.sec.scrubs.flatMap (·.frames)).filterMap fun l =>
    if locTier l = .t2 && locSlot l = slot then some (locOff l / frameBytes) else none)

/-- Free T2 frames of a slot. -/
def t2Free (s : State) (slot : Nat) : Nat :=
  match kfind s.mem.slots slot with
  | some t => t2Capacity t - (t2Taken s slot).length
  | none => 0

/-- 64-byte units of the blocks of a frame's bytes as they stand (R125). -/
def blockLens (bytes : List Byte) : List Nat :=
  (natRange 0 512).map fun j => tallowUnits (4096 * j) ((bytes.drop (4096 * j)).take 4096)

/-- The bytes of a frame of the pool or of draft and retained storage. -/
def frameData (s : State) (frame : Nat) : List Byte := readBytes s.mem.bytes (frame * frameBytes) frameBytes

/-- Units of a frame's blocks in T3: a frame that lists no byte is all zero, one unit for each block. -/
def frameLens (s : State) (frame : Nat) : List Nat :=
  if s.mem.bytes.any fun c => decide (frame * frameBytes ≤ c.1 ∧ c.1 < (frame + 1) * frameBytes)
  then blockLens (frameData s frame) else List.replicate 512 1

/-- Units that a frame takes in T3: its index and its blocks (R975). -/
def t3Units (lens : List Nat) : Nat := 64 + lens.foldl (· + ·) 0

/-- Slot of a unit address [47:6] in T3. -/
def unitSlot (u : Nat) : Nat := u % 2 ^ 39 / 2 ^ 34

/-- Units that are allocated in T3 (R975): block indexes, blocks, destinations of moves, places that frames and blocks have left and
that reads still use, blocks being written, and storage left to scrubs. -/
def t3Extents (s : State) : List (Nat × Nat) :=
  let indexes := (s.mem.tier.filterMap fun e => if e.2.tier = .t3 then some e.2.loc0 else none) ++
    (s.mem.moves.filterMap fun e => if e.2.dst = .t3 then some e.2.loc else none) ++ s.mem.freeing.map (·.1) ++ s.snap.storage.map (·.2)
  ((indexes.filter fun l => locTier l = .t3).map fun l => (l * 64, 64)) ++ s.mem.t3At.map (·.2) ++
    s.mem.moves.flatMap (fun e => e.2.blocks) ++ s.mem.t3Old.map (·.1) ++ s.mem.trayReqs.map (fun e => e.2.ext) ++
    s.sec.scrubs.flatMap (·.units)

/-- Units taken in a slot's T3 area. -/
def t3Taken (s : State) (slot : Nat) : Nat :=
  (t3Extents s).foldl (fun n e => if unitSlot e.1 = slot then n + e.2 else n) 0

/-- Free units of a slot's T3 area (R975). -/
def t3Free (s : State) (slot : Nat) : Nat :=
  match kfind s.mem.slots slot with
  | some t => t.t3Gib * 16777216 - t3Taken s slot
  | none => 0

/-! ## Choosing storage: an open choice among what is free -/

/-- Choose one of a list by the next free value. -/
def chooseOf (s : State) (l : List Nat) : Option Nat :=
  if l.isEmpty then none else l[freeNat s % l.length]?

/-- A free T1 frame. -/
def pickT1 (s : State) : Option Nat :=
  if t1Free s = 0 then none
  else (firstFree (t1Taken s) (t1Frames s) (freeNat s) ((t1Taken s).length + 1)).map t1Loc

/-- A free T2 frame on a slot. -/
def pickT2 (s : State) (slot : Nat) : Option Nat :=
  match kfind s.mem.slots slot with
  | none => none
  | some t =>
    (firstFree (t2Taken s slot) (t2Capacity t) (freeNat s) ((t2Taken s slot).length + 1)).map fun k =>
      t2Loc slot (k * frameBytes)

/-- n contiguous units of a slot's T3 area that meet no other allocation, aligned: an open choice, else the first place behind an
allocation (R116, R975). -/
def t3Alloc (s : State) (taken : List (Nat × Nat)) (slot n align : Nat) : Option Nat :=
  match kfind s.mem.slots slot with
  | none => none
  | some t =>
    let lo := 2 ^ 40 + slot * 2 ^ 34
    let size := t.t3Gib * 16777216
    let fits := fun (u : Nat) => decide (lo ≤ u ∧ u + n ≤ lo + size) && taken.all fun e => decide (e.2 = 0 ∨ u + n ≤ e.1 ∨ e.1 + e.2 ≤ u)
    ((lo + freeNat s % max 1 size / align * align) :: lo :: taken.map fun e => ceilDiv (e.1 + e.2) align * align).find? fits

/-- Units for several blocks. -/
def t3AllocAll (s : State) (slot : Nat) : List Nat → List (Nat × Nat) → Option (List (Nat × Nat))
  | [], _ => some []
  | n :: ns, taken => (t3Alloc s taken slot n 1).bind fun u => (t3AllocAll s slot ns ((u, n) :: taken)).map fun l => (u, n) :: l

/-- Space for a frame in a slot's T3 area: for its block index, on 64 units aligned to 4 KiB, and for its blocks, each on contiguous
units. Free units that hold no contiguous run of a block's length do not serve (log entry 139). -/
def pickT3 (s : State) (slot : Nat) (lens : List Nat) : Option Place :=
  if t3Free s slot < t3Units lens then none
  else (t3Alloc s (t3Extents s) slot 64 64).bind fun u =>
    (t3AllocAll s slot lens ((u, 64) :: t3Extents s)).map fun bs => { loc := u / 64, blocks := bs }

/-- The blocks of a frame that stands in T3 stand there (R125). -/
def putBlocks (s : State) (frame : Nat) (blocks : List (Nat × Nat)) : State :=
  { s with mem := { s.mem with t3At := (blocks.zipIdx).foldl (fun m e => kset m (frame * 512 + e.2) e.1) s.mem.t3At } }

/-- Slots that are attached and not being evacuated. Whether a slot may take placements while its evacuation runs the manual does not
say: it takes none (DESIGN CHOICE, log entry 140). -/
def openSlots (s : State) : List Nat :=
  s.mem.slots.filterMap fun e => if e.2.evacuating.isEmpty then some e.1 else none

/-- Storage for a frame in a tier, on any open slot but those excluded (R116, R149); in T3 for blocks of these lengths. -/
def pickIn (s : State) (tier : Tier) (lens : List Nat) (except : List Nat) : Option Place :=
  let slots := (openSlots s).filter fun x => !except.contains x
  match tier with
  | .t1 => (pickT1 s).map fun l => { loc := l }
  | .t2 => ((chooseOf s (slots.filter fun x => 0 < t2Free s x)).bind fun x => pickT2 s x).map fun l => { loc := l }
  | .t3 => (chooseOf s (slots.filter fun x => (pickT3 s x lens).isSome)).bind fun x => pickT3 s x lens

/-! ## Policy classes (R138 to R140) -/

/-- How a class moves frames. -/
structure ClassRules where
  tiers : List Tier
  initial : Tier
  promote : Option Nat
  /-- heat below which a T1 frame goes down, and where -/
  demote : Option Nat
  demoteTo : Tier
  compress : Option Nat
  /-- demoted under T1 pressure -/
  pressure : Bool
  dwellNs : Nat
deriving DecidableEq, Repr

/-- The fixed classes (R139); their heats and DWELL as R140 gives them. -/
def fixedRules : Nat → Option ClassRules
  | 0 => some ⟨[.t1, .t2, .t3], .t1, some 2048, some 256, .t2, some 16, true, 100000000⟩
  | 1 => some ⟨[.t1], .t1, none, none, .t2, none, false, 100000000⟩
  | 2 => some ⟨[.t1, .t2], .t1, some 2048, none, .t2, none, true, 100000000⟩
  | 3 => some ⟨[.t1, .t2], .t2, some 2048, some 256, .t2, none, true, 100000000⟩
  | 4 => some ⟨[.t2], .t2, none, none, .t2, none, false, 100000000⟩
  | 5 => some ⟨[.t1, .t3], .t3, some 2048, some 256, .t3, none, true, 100000000⟩
  | _ => none

def tierOfCode (n : Nat) : Tier := if n = 1 then .t1 else if n = 2 then .t2 else .t3
def Tier.code : Tier → Nat
  | .t1 => 1 | .t2 => 2 | .t3 => 3

/-- An expert class's rules (R140, R141). A frame that a redefinition has left in a tier that TIERS no longer holds goes down by heat like
any other, to a tier that it does hold. -/
def expertRules (c : PolicyClass) : ClassRules :=
  let ts := [Tier.t1, .t2, .t3].filter fun t => c.tiers.testBit (t.code - 1)
  let low := if ts.contains .t2 then Tier.t2 else .t3
  { tiers := ts, initial := tierOfCode c.initial,
    promote := if ts.contains .t1 then some c.promote else none,
    demote := if (ts.contains .t2 || ts.contains .t3) && c.demote ≠ 0 then some c.demote else none,
    demoteTo := low,
    compress := if ts.contains .t3 && c.compress ≠ 0 then some c.compress else none,
    pressure := ts.contains .t1 && (ts.contains .t2 || ts.contains .t3),
    dwellNs := c.dwell * msNs }

/-- The rules of a class, where it is defined. -/
def rulesOf (s : State) (cls : Nat) : Option ClassRules :=
  match fixedRules cls with
  | some r => some r
  | none => (kfind s.mem.classes cls).map expertRules

/-- Whether a mapping for a partition may name a class (R138, R974): none, or the status of the refusal. -/
def classRefusal (s : State) (part cls : Nat) : Option Nat :=
  if cls = 6 ∨ cls = 7 ∨ 64 ≤ cls then some stMalformed
  else if cls < 6 then none
  else if (kfind s.mem.classes cls).isNone || !(kget s.mem.classOn part 0).testBit cls then some stDenied
  else none

/-! ## Placement (R123, R124, R149) -/

/-- Tiers at or below a tier, in order. -/
def atOrBelow : Tier → List Tier
  | .t1 => [.t1, .t2, .t3]
  | .t2 => [.t2, .t3]
  | .t3 => [.t3]

/-- The first tier, from the initial one down, that the class allows and that has storage: tier, place, whether the
frame fell below its initial tier. -/
def placeFirst (s : State) (r : ClassRules) (lens : List Nat) : List Tier → Option (Tier × Place)
  | [] => none
  | t :: ts =>
    if r.tiers.contains t then
      match pickIn s t lens [] with
      | some l => some (t, l)
      | none => placeFirst s r lens ts
    else placeFirst s r lens ts

/-- Redundant copies go to T2 on trays other than those of every other copy (R149). -/
def placeCopies (s : State) (used : List Nat) : Nat → Option (List Nat × State)
  | 0 => some ([], s)
  | n + 1 =>
    match pickIn s .t2 [] used with
    | none => none
    | some l => (placeCopies (bumpFree s) (locSlot l.loc :: used) n).map fun r => (l.loc :: r.1, r.2)

/-- Create the tier map entry of one frame (R123): none where its storage is short. Its placement counts as its last move for DWELL
(DESIGN CHOICE, log entry 141). -/
def placeFrame (s : State) (frame cls copies part : Nat) (verify : Bool) : Option State :=
  match rulesOf s cls with
  | none => none
  | some r =>
    match placeFirst s r (List.replicate 512 1) (atOrBelow r.initial) with
    | none => none
    | some (t, l) =>
      let s := if t = r.initial then bumpFree s else bump (bumpFree s) .placeFallback
      match placeCopies s (if t = .t1 then [] else [locSlot l.loc]) (copies - 1) with
      | none => none
      | some (ls, s) =>
        let e : TierEntry :=
          { tier := t, copies := copies, cls := cls, loc0 := l.loc, loc1 := ls.getD 0 0, loc2 := ls.getD 1 0,
            partition := part, verify := verify, heatEpoch := regField s rPoolHeat 8 8, lastMove := s.clk }
        some (putBlocks { s with mem := { s.mem with tier := kset s.mem.tier frame e } } frame l.blocks)

/-- Create the entries of a run of frames, all or none. -/
def placeFrames (cls copies part : Nat) (verify : Bool) : List Nat → State → Option State
  | [], s => some s
  | f :: fs, s => (placeFrame s f cls copies part verify).bind (placeFrames cls copies part verify fs)

/-- Delete a frame's entry and free its storage (R123, R177): its bytes, poison and copy metadata go. -/
def dropFrame (s : State) (frame : Nat) : State :=
  let a := frame * frameBytes
  { s with mem := { s.mem with
      tier := kdel s.mem.tier frame
      bytes := clearBytes s.mem.bytes a frameBytes
      t3Index := s.mem.t3Index.filter (· ≠ frame)
      t3At := s.mem.t3At.filter fun e => decide (e.1 / 512 ≠ frame)
      poison := s.mem.poison.filter fun l => decide (l < a / 64) || decide ((a + frameBytes) / 64 ≤ l)
      copyMeta := s.mem.copyMeta.filter fun c => decide (c.1 / 2048 ≠ frame)
      copyAlt := s.mem.copyAlt.filter fun c => decide (c.1 / 2048 ≠ frame) } }

/-! ## Heat (R133 to R137) -/

/-- HEAT after the decay that has passed since its epoch (R134). -/
def decayedHeat (s : State) (t : TierEntry) : Nat :=
  let passed := (regField s rPoolHeat 8 8 + 256 - t.heatEpoch) % 256
  t.heat / 2 ^ (regField s rPoolHeat 4 3 * passed)

/-- A request or access touches a frame (R133): the decay is applied first, then 1 is added, saturating. -/
def touchFrame (s : State) (frame : Nat) : State :=
  modTier s frame fun t =>
    { t with heat := satAdd 16 (decayedHeat s t) 1, heatEpoch := regField s rPoolHeat 8 8 }

/-- Frames that a pool range touches. -/
def framesOf (pool len : Nat) : List Nat :=
  if len = 0 then [] else natRange (frameOf pool) (frameOf (pool + len - 1) - frameOf pool + 1)

/-- Lines that a pool range touches. -/
def linesOf (pool len : Nat) : List Nat :=
  if len = 0 then [] else natRange (pool / 64) ((pool + len - 1) / 64 - pool / 64 + 1)

/-- Touch every frame of a range. -/
def touchRange (s : State) (pool len : Nat) : State := (framesOf pool len).foldl touchFrame s

/-! ## Poison (R79, R236) -/

/-- A line is poisoned. -/
def poisoned (s : State) (line : Nat) : Bool := s.mem.poison.contains line

/-- Put an element into a list ordered by a relation. -/
def insertBy {α : Type} (lt : α → α → Bool) (x : α) : List α → List α
  | [] => [x]
  | y :: ys => if lt x y then x :: y :: ys else y :: insertBy lt x ys
def sortBy {α : Type} (lt : α → α → Bool) (l : List α) : List α := l.foldl (fun acc x => insertBy lt x acc) []

/-- Insert into a rising list. -/
def insertRising (x : Nat) : List Nat → List Nat
  | [] => [x]
  | y :: ys => if x < y then x :: y :: ys else if x = y then y :: ys else y :: insertRising x ys

/-- Set a line's poison. -/
def setPoison (s : State) (line : Nat) : State := { s with mem := { s.mem with poison := insertRising line s.mem.poison } }

end Sys2Proof.Machine
end

