-- ==== Sys2Proof/Machine/Operands.lean ====
section
/-! DEFINITION. Machine/Operands.lean: the forms of a Jarti packet: the header's bytes (02_jarti_transactions.md R53,
R55), and what steps 1 and 3 of the ingress check ask of a header and payload (R52, R54, R60, R61, R63, R68, R71,
R75, R76, R205, R206, R265, R583, R584). -/
namespace Sys2Proof.Machine

/-! ## The request header's bytes (R53) -/

/-- The 38 reserved header bits in ascending order of position. -/
def rsvAt (r : BitVec 38) (lo w : Nat) : Nat := bits r.toNat lo w

/-- The 32 header bytes of a request of an opcode; an unlisted OPCODE is the code itself. -/
def reqHeader (code : Nat) (p : Req) : List Byte :=
  leBytes 1 code ++
  leBytes 1 (p.tc.toNat + 2 ^ 3 * p.vc.toNat + 2 ^ 6 * rsvAt p.rsv 0 2) ++
  leBytes 2 (p.partition.toNat + 2 ^ 10 * rsvAt p.rsv 2 6) ++
  leBytes 2 (p.ast.toNat + 2 ^ 12 * rsvAt p.rsv 8 4) ++
  leBytes 2 (p.src.toNat + 2 ^ 15 * rsvAt p.rsv 12 1) ++
  leBytes 2 (p.dst.toNat + 2 ^ 15 * rsvAt p.rsv 13 1) ++
  leBytes 2 p.tag.toNat ++
  leBytes 4 (p.length.toNat + 2 ^ 24 * rsvAt p.rsv 14 8) ++
  leBytes 8 p.address.toNat ++
  leBytes 4 p.seq.toNat ++
  leBytes 2 p.flags.toNat ++
  leBytes 2 (rsvAt p.rsv 22 16)

/-- The request that 32 header bytes spell, on a logical port and with a payload. -/
def reqOfHeader (lport : Nat) (esc : Bool) (b payload : List Byte) : Nat × Req :=
  let f := fun o n => leField b o n
  (f 0 1,
   { lport := lport, esc := esc,
     tc := BitVec.ofNat 3 (f 1 1), vc := BitVec.ofNat 3 (f 1 1 / 8),
     partition := BitVec.ofNat 10 (f 2 2), ast := BitVec.ofNat 12 (f 4 2),
     src := BitVec.ofNat 15 (f 6 2), dst := BitVec.ofNat 15 (f 8 2), tag := BitVec.ofNat 16 (f 10 2),
     length := BitVec.ofNat 24 (f 12 4), address := BitVec.ofNat 64 (f 16 8), seq := BitVec.ofNat 32 (f 24 4),
     flags := BitVec.ofNat 16 (f 28 2),
     rsv := BitVec.ofNat 38 (bits (f 1 1) 6 2 + 2 ^ 2 * bits (f 2 2) 10 6 + 2 ^ 8 * bits (f 4 2) 12 4 +
       2 ^ 12 * bits (f 6 2) 15 1 + 2 ^ 13 * bits (f 8 2) 15 1 + 2 ^ 14 * bits (f 12 4) 24 8 + 2 ^ 22 * f 30 2),
     payload := payload })

/-- The 44 reserved bits of a response header stand in ascending order of position. -/
def respRsv (r : Resp) (lo w : Nat) : Nat := bits r.rsv.toNat lo w

/-- The 32 header bytes of a response (R55). -/
def respHeader (r : Resp) : List Byte :=
  leBytes 1 (if r.isData then 0xE1 else 0xE0) ++
  leBytes 1 (r.tc.toNat + 2 ^ 3 * r.vc.toNat + 2 ^ 6 * respRsv r 0 2) ++
  leBytes 1 (r.status.toNat + 2 ^ 4 * r.load.toNat) ++ leBytes 1 r.reqOpcode.toNat ++
  leBytes 2 (r.rspNode.toNat + 2 ^ 15 * respRsv r 2 1) ++ leBytes 2 (r.dst.toNat + 2 ^ 15 * respRsv r 3 1) ++
  leBytes 2 r.tag.toNat ++ leBytes 2 (respRsv r 4 16) ++
  leBytes 4 (r.data.length + 2 ^ 24 * respRsv r 20 8) ++ leBytes 4 (r.segOffset.toNat + 2 ^ 24 * respRsv r 28 8) ++
  leBytes 4 (r.segCover.toNat + 2 ^ 24 * respRsv r 36 8) ++ leBytes 8 r.result.toNat

/-! ## Flags and forms (R54, R60) -/

/-- ADDR_FORM. -/
def addrForm (p : Req) : Nat := bits p.flags.toNat 0 2
def flagSigned (p : Req) : Bool := p.flags.getLsbD 2
def flagTallow (p : Req) : Bool := p.flags.getLsbD 3
def flagNoCombine (p : Req) : Bool := p.flags.getLsbD 4

/-- The compute opcodes, 0x60 to 0x7C (R72). -/
def isCompute : Op → Bool
  | .collContrib | .collPartial | .collDeliver | .gather | .scatter | .search | .attend | .filter | .run | .ownerCas => true
  | _ => false

/-- The memory opcodes that windows translate (R195). -/
def isMemory : Op → Bool
  | .load | .store | .storeClearPoison | .copy | .atomic _ => true
  | _ => false

/-- The messages of caching agents (R205). -/
def isCoherence : Op → Bool
  | .rdShared | .rdOwn | .upgrade | .wbDirty | .evictClean => true
  | _ => false

/-- Traffic classes allowed (R71, R205, R803). -/
def tcAllowed : Op → List Nat
  | .load | .storeClearPoison | .atomic _ => [3, 4]
  | .store => [3, 4, 7]
  | .copy => [7]
  | .fence => [4, 5, 7]
  | .openVersion | .closeVersion | .publish => [4]
  | .rdShared | .rdOwn | .upgrade | .wbDirty | .evictClean | .ownerCas => [3]
  | .snpInv | .snpShare => [2]
  | .collContrib | .collPartial | .collDeliver => [5]
  | .gather | .scatter | .search | .attend | .filter | .run => [6]
  | .mgmt _ => [0]
  | .unlisted _ => []

/-- Address forms allowed (R71, R205, R803). -/
def formsAllowed : Op → List Nat
  | .load | .store | .storeClearPoison | .copy | .atomic _ | .fence => [0, 1, 2]
  | .rdShared | .rdOwn | .upgrade | .wbDirty | .evictClean => [0, 1]
  | .snpInv | .snpShare => [1]
  | .collPartial | .collDeliver | .mgmt _ => [2]
  | _ => [0]

/-- Flags permitted for an opcode on a class (R54). -/
def flagsOk (op : Op) (p : Req) : Bool :=
  (!flagSigned p || op = .atomic .min || op = .atomic .max) &&
  (!flagTallow p || ((op = .store || isCompute op) && decide (4 ≤ p.tc.toNat))) &&
  (!flagNoCombine p || op = .load || (match op with | .atomic _ => true | _ => false))

/-- ADDRESS bits that a form does not use are 0 (R60, R61). -/
def addrBitsOk (form addr : Nat) : Bool :=
  if form = 1 then decide (addr < 2 ^ 47) else decide (addr < 2 ^ 48)

/-- Operand bytes of an atomic of width W (R71). -/
def atomicPayload : AtomicOp → Nat → Nat
  | .cas, w => 2 * w
  | _, w => w

/-- The source address of a COPY. -/
def copySrc (p : Req) : Nat := leNat p.payload

/-- Two ranges of n bytes overlap (R75). -/
def overlap (a b n : Nat) : Bool := decide (0 < n ∧ a < b + n ∧ b < a + n)

/-- LENGTH, payload size and ADDRESS are legal for the opcode (R52, R71, R75, R76, R205, R206, R211, R265, R584). -/
def shapeOk (op : Op) (p : Req) : Bool :=
  let n := p.length.toNat
  let a := p.address.toNat
  let pl := p.payload.length
  match op with
  | .load => pl = 0
  | .store =>
    decide (n ≤ 65536) &&
    (if flagTallow p then decide (pl ≤ 65536) && tallowChain n p.payload 17 else pl = n)
  | .storeClearPoison => decide (n ≤ 65536) && n % 64 = 0 && a % 64 = 0 && pl = n
  | .copy => pl = 8 && !overlap a (copySrc p) n && addrBitsOk (addrForm p) (copySrc p)
  | .atomic o => (n = 0 || n = 4 || n = 8) && pl = atomicPayload o n && (n = 0 || a % n = 0)
  | .fence => n = 0 && a = 0 && pl = 0
  | .openVersion | .publish => (n = 0 || n = 16) && pl = n
  | .closeVersion => (n = 0 || n = 8) && pl = n
  | .rdShared | .rdOwn | .upgrade | .evictClean => n = 64 && a % 64 = 0 && pl = 0
  | .wbDirty => n = 64 && a % 64 = 0 && pl = 64
  | .snpInv | .snpShare =>
    n = 8 && a % 64 = 0 && pl = 8 && decide (leNat p.payload &&& 0xFFFFFFFFFFFFC0FE = 0)
  | .mgmt _ => pl = n && decide (n ≤ 65536) && a = 0 && p.partition = 0 && p.ast = 0
  | _ => decide (n ≤ 65536 ∨ flagTallow p) &&
    (if flagTallow p then decide (pl ≤ 65536) && tallowChain n p.payload 4097 else pl = n)

/-- The encodings of OPCODE that R71, R205 and R805 list. -/
def listedCodes : List Nat :=
  [0x01, 0x02, 0x03, 0x04, 0x20, 0x21, 0x22, 0x23, 0x24, 0x25, 0x26, 0x27, 0x30, 0x31, 0x32, 0x33, 0x40, 0x41, 0x42, 0x43, 0x44, 0x48, 0x49,
   0x60, 0x61, 0x62, 0x68, 0x69, 0x6C, 0x70, 0x74, 0x78, 0x7C, 0x80, 0x81, 0x82, 0x83, 0x84, 0x85, 0x86, 0x87, 0x88, 0x89, 0x8A, 0x8B,
   0x8E, 0x8F, 0xE0, 0xE1]

/-- The opcode of a request that comes with a row of the table: the row's own, or an encoding that is not listed (R71). -/
def rowOp (op : Op) (p : Req) : Op :=
  match p.unlisted with
  | none => op
  | some c => if listedCodes.contains c.toNat then op else .unlisted c.toNat

/-- OPCODE is listed (R71, R84). -/
def listedOp : Op → Bool
  | .unlisted _ => false
  | .mgmt c => listedCodes.contains c
  | _ => true

/-- Step 1 of the ingress check (R84): reserved bits, OPCODE is listed, and ADDR_FORM. -/
def step1Ok (op : Op) (p : Req) : Bool := p.rsv = 0 && p.flags.toNat < 32 && listedOp op && addrForm p ≠ 3

/-- What step 3 of the ingress check (R84) asks of a request whose address form is one of these. No step of R84's table names the DST_NODE of R63: it is
tested in step 3, among the other fields of the header (DESIGN CHOICE, log entry 132). -/
def step3With (forms : List Nat) (self : Nat) (op : Op) (p : Req) : Bool :=
  (tcAllowed op).contains p.tc.toNat && p.vc.toNat = tcVc p.tc.toNat && flagsOk op p &&
  forms.contains (addrForm p) && addrBitsOk (addrForm p) p.address.toNat && shapeOk op p &&
  (addrForm p = 2 || p.dst.toNat = self)

/-- Step 3 of the ingress check (R84) at a switch with this node number (R63). -/
def step3Ok (self : Nat) (op : Op) (p : Req) : Bool := step3With (formsAllowed op) self op p

/-- Step 3 on a port that faces another switch (R85): DST_NODE names the request's target, and a request that its ingress has forwarded
names the owning node's offset, whatever its form was (R64). -/
def step3Fwd (op : Op) (p : Req) : Bool := step3With (2 :: formsAllowed op) p.dst.toNat op p

/-- The bytes a payload carries, expanded (R585): none where a block is malformed. -/
def plainPayload (p : Req) : Option (List Byte) :=
  if flagTallow p then tallowPayload p.length.toNat p.payload 4097 else some p.payload

/-- The responses that R102 and R103 do not drop: no reserved bit, TC and VC 1, and no reserved status. -/
def respOk (r : Resp) : Bool :=
  r.rsv = 0 && r.tc = 1 && r.vc = 1 && decide (r.status.toNat ≤ 0xB)

/-- A payload that the switch may compress on egress (R586). -/
def compressible (op : Op) (p : Req) : Bool :=
  !flagTallow p && (op = .store || isCompute op) && decide (4 ≤ p.tc.toNat) && decide (256 ≤ p.payload.length)

end Sys2Proof.Machine
end

