-- ==== Sys2Proof/Machine/Watch.lean ====
section
/-! DEFINITION. Machine/Watch.lean: what the switch notes of its traffic: Lantern's ring, mirror copies and health log
(24_telemetry_debug.md R954 to R965), violations (02 R102, 14 R637) and health scores (18 R794, R795). -/
namespace Sys2Proof.Machine

/-- A byte string of n bytes of which the manual says nothing more: the k-th draw of the random bit generator, or bytes that
the model does not hold. -/
def freeBytes (k n : Nat) : List Byte := sliceBytes (Config.random k n) 0 n

/-! ## Health scores (R794) -/

/-- Bad codewords: one point for each 1,024 (R794). -/
def penalCodeword (s : State) (lport : Nat) : State :=
  match kfind s.ras.health lport with
  | none => s
  | some h =>
    let h' : Health := { h with bad := (h.bad + 1) % 1024 }
    let s := { s with ras := { s.ras with health := kset s.ras.health lport h' } }
    if h.bad + 1 = 1024 then penal s lport 1 else s

/-! ## Lantern (R954 to R963) -/

/-- The header bytes of a packet. -/
def Packet.header : Packet → List Byte
  | .req op p => reqHeader (opCode op) p
  | .resp r => respHeader r

/-- The packet's bytes as they cross a port, padding included. -/
def Packet.bytes (k : Packet) : List Byte :=
  let l := k.header ++ (match k with
    | .req _ p => p.payload
    | .resp r => r.data)
  l ++ List.replicate (k.size - l.length) 0

/-- Entries that the ring holds (R959). -/
def ringSize (s : State) : Nat := 2 ^ regField s rLantern 1 4 * 16384

/-- A ring entry (R958). -/
def ringEntry (s : State) (lport dir hits row size : Nat) (header : List Byte) : List Byte :=
  leBytes 8 s.ftime.toNat ++
  leBytes 4 (min lport 0x1FF + 2 ^ 9 * dir + 2 ^ 10 * hits + (if row = 0 then 0 else 2 ^ 26) + 2 ^ 27 * row) ++
  leBytes 4 s.lan.next ++ sliceBytes header 0 32 ++ leBytes 4 size ++ leBytes 12 0

/-- Lantern writes one entry in 2 ns (R957): whether an entry that follows another within this time came faster than that the clock, which
counts whole ns and no time within a step, does not tell: it is a free choice (log entry 85). -/
def tooFast (s : State) : Bool := s.lan.wrote.any (fun t => decide (s.clk < t + 2)) && freeNat s % 2 = 1

/-- Write an entry: a full ring loses its oldest entry, and an entry that comes too fast is discarded and counted (R957). -/
def ringWrite (s : State) (entry : List Byte) : State :=
  if tooFast s then bump (bumpFree s) (.lantern 0) else
  let s := bumpFree s
  let full := decide (ringSize s ≤ s.lan.ring.length)
  let s := if full then setField s rLanternStatus 32 1 1 else s
  let r := s.lan.ring.drop (s.lan.ring.length + 1 - ringSize s) ++ [(s.lan.next, entry)]
  { s with lan := { s.lan with ring := r, next := s.lan.next + 1, wrote := some s.clk } }

/-- A packet's opcode, partition and nodes as filters see them (R954); a response has the partition of the request it
answers, where this switch knows it. -/
def lanKeys (s : State) : Packet → Nat × Option Nat × Nat × Nat × Bool
  | .req op p => (opCode op, some p.partition.toNat, p.src.toNat, p.dst.toNat, false)
  | .resp r => (r.reqOpcode.toNat, ((findOut s r.dst.toNat r.tag.toNat).map fun e => e.2.p.partition.toNat),
      r.rspNode.toNat, r.dst.toNat, r.status ≠ 0)

/-- A filter matches a packet (R954). -/
def lanMatch (s : State) (f lport dir : Nat) (pkt : Packet) : Bool :=
  let g := fun lo w => regField s (rFilter f) lo w
  let (code, part, a, b, bad) := lanKeys s pkt
  g 0 1 = 1 && (g 2 2 = dir || g 2 2 = 2) && (g 13 1 = 1 || g 4 9 = lport) && (g 22 1 = 1 || g 14 8 = code) &&
  (g 23 8).testBit pkt.tcOf && (g 41 1 = 1 || part = some (g 31 10)) && (g 57 1 = 1 || g 42 15 = a || g 42 15 = b) &&
  (g 58 1 = 0 || bad)

/-- Count a filter's match: whether it is selected (R955). -/
def lanCount (s : State) (f : Nat) : State × Bool :=
  let n := kget s.lan.matched f 0
  ({ s with lan := { s.lan with matched := kset s.lan.matched f (n + 1) } },
   n % 2 ^ regField s (rFilter f) 59 4 = 0)

/-- Count every matching filter: the filters that select. -/
def lanCounts : List Nat → State → State × List Nat
  | [], s => (s, [])
  | f :: fs, s =>
    let (s, sel) := lanCount s f
    let (s, r) := lanCounts fs s
    (s, if sel then f :: r else r)

/-- A packet can leave a port at once: its link is ACTIVE, its channel holds credit, and the shared area takes it
(R962). -/
def leavesAtOnce (s : State) (lport tc size : Nat) : Bool :=
  let l := lportOf s lport
  let c := channelOf tc false
  let used := (l.ll.sent.getD c 0 + 65536 - l.ll.peerFreed.getD c 0) % 65536
  l.link = .active && decide (used + size / 64 ≤ l.ll.peerAdv.getD c 0) && decide (egressBytes s lport = 0)

/-- Send a mirror copy, or count why there is none (R961 to R963). -/
def mirror (s : State) (pkt : Packet) (entry : List Byte) : State :=
  let slots := regField s rLantern 64 16
  let port := regField s rLantern 6 9
  let part := (lanKeys s pkt).2.1
  let locked : Bool := match part with
    | some n => (partOf s n).tdi = .locked || (partOf s n).tdi = .run
    | none => false
  if regField s rDebugPolicy 0 1 = 0 || slots = 0 then s
  else if locked then bump s (.lantern 2)
  else
    let pl := (entry ++ pkt.bytes).take 65472
    match (lportOf s port).node with
    | none => bump s (.lantern 1)
    | some node =>
      let p : Req := { lport := 1000, tc := 4, vc := 3, partition := 0, ast := 0, src := BitVec.ofNat 15 (selfNode s),
                       dst := BitVec.ofNat 15 node, tag := BitVec.ofNat 16 s.ing.ownTag,
                       length := BitVec.ofNat 24 pl.length,
                       address := BitVec.ofNat 64 (regField s rLantern 16 48 + 65536 * (s.lan.copies % slots)),
                       seq := BitVec.ofNat 32 (ownNum s node), flags := 2, payload := pl }
      let copy : Packet := .req .store p
      if !leavesAtOnce s port 4 copy.size then bump s (.lantern 1)
      else
        let s := bump { s with lan := { s.lan with copies := s.lan.copies + 1 } } (.lantern 3)
        pushVoq (bumpOwn s node) wickPort (internal wickPort) port false copy []

/-- A packet crosses a port: filters, ring, mirror (R954 to R963). -/
def capture (s : State) (lport dir : Nat) (pkt : Packet) : State :=
  if regField s rLantern 0 1 = 0 then s
  else
    let hit := (natRange 0 16).filter fun f => lanMatch s f lport dir pkt
    if hit.isEmpty then s
    else
      let (s, sel) := lanCounts hit s
      if sel.isEmpty then s
      else
        let e := ringEntry s lport dir (hit.foldl (fun n f => n + 2 ^ f) 0) 0 pkt.size pkt.header
        let full := decide (ringSize s ≤ s.lan.ring.length)
        let stop := regField s rLantern 5 1 = 1
        let s := if stop && full then setField s rLanternStatus 33 1 1 else ringWrite s e
        if sel.any fun f => regField s (rFilter f) 1 1 = 1 then mirror s pkt e else s

/-- An entry of the health log (R965): its 64 bytes but for SEQ and TIME. -/
def healthLog (s : State) (type region block cell : Nat) (rest : List Byte) : State :=
  let e := leBytes 4 (type + 2 ^ 8 * region + 2 ^ 16 * block + 2 ^ 24 * cell) ++ leBytes 4 s.lan.logNext ++
    leBytes 8 s.ftime.toNat ++ sliceBytes rest 0 48
  let s := if 4096 ≤ s.lan.log.length then bump s (.lantern 4) else s
  { s with lan := { s.lan with log := s.lan.log.drop (s.lan.log.length + 1 - 4096) ++ [(s.lan.logNext % 2 ^ 32, e)],
                               logNext := s.lan.logNext + 1 } }

/-! ## Regions -/

/-- A region. -/
def regionPow (s : State) (r : Nat) : Region := kget s.power.regions r {}

/-- A sensor's last reading in 1/8 °C. -/
def temp (s : State) (n : Nat) : Int := kget s.power.temps n 0

/-- A region's temperature (R329): the largest of its four sensors. -/
def regionTemp (s : State) (r : Nat) : Int :=
  max (max (temp s (4 * r)) (temp s (4 * r + 1))) (max (temp s (4 * r + 2)) (temp s (4 * r + 3)))

/-- A region's supply as it stands: none while the island is unpowered, Banked or fenced (R333, R778). -/
def supplyNow (s : State) (r : Nat) : Nat :=
  if isFenced s r || (regionPow s r).st = .banked || s.power.chip = .banked || s.power.chip = .pilot then 0 else (regionPow s r).mv
/-- Its frequency as it stands: none while its compute clock is stopped. -/
def clockNow (s : State) (r : Nat) : Nat :=
  if (regionPow s r).st = .lit && !isFenced s r then (regionPow s r).mhz else 0

/-- What a region's supply, frequency and temperature were until now is kept for as long as an average over 100 µs may ask for it. -/
def keepSample (s : State) (r : Nat) : State :=
  let e : RegionSample := ⟨s.clk, supplyNow s r, clockNow s r, regionTemp s r⟩
  let l := e :: (kget s.power.samples r []).filter fun x => decide (s.clk ≤ x.till + 100000)
  { s with power := { s.power with samples := kset s.power.samples r l } }

/-- Averages of a region. -/
structure RegionAvg where
  mv : Int
  mhz : Int
  tj : Int
deriving DecidableEq, Repr

/-- What each of a region's three values was, and for how long, within the last 100 µs: newest first. -/
def regionSpans (s : State) (r : Nat) : List (Nat × RegionAvg) :=
  let ss := kget s.power.samples r []
  let vs := RegionAvg.mk (supplyNow s r) (clockNow s r) (regionTemp s r) :: ss.map fun e => ⟨e.mv, e.mhz, e.tj⟩
  let ends := s.clk :: ss.map (·.till)
  let starts := ss.map (·.till) ++ [0]
  (vs.zip (ends.zip starts)).map fun e => (e.2.1 - Nat.max e.2.2 (s.clk - 100000), e.1)

/-- Sums over the last 100 µs of each value times its time, and the time (R329); at the start of time, what stands. -/
def regionSum (s : State) (r : Nat) : Nat × RegionAvg :=
  let sp := regionSpans s r
  let t := (sp.map (·.1)).foldl (· + ·) 0
  if t = 0 then (1, ⟨supplyNow s r, clockNow s r, regionTemp s r⟩)
  else (t, sp.foldl (fun a e => ⟨a.mv + e.1 * e.2.mv, a.mhz + e.1 * e.2.mhz, a.tj + e.1 * e.2.tj⟩) ⟨0, 0, 0⟩)

/-- A region's averages over the preceding 100 µs, rounded down (R329, R783, R965; log entry 177). -/
def regionAvg (s : State) (r : Nat) : RegionAvg :=
  let x := regionSum s r
  ⟨x.2.mv / x.1, x.2.mhz / x.1, x.2.tj / x.1⟩

/-! ## Violations (R102, R637) -/

/-- Count a violation of the row of R102 (1 to 8) or R637 (9 to 15): its header in the ring, the port's counter and score, and
its time for quarantine (R638, R794, R956). -/
def violate (s : State) (lport row : Nat) (header : List Byte) (size : Nat) : State :=
  let s := ringWrite s (ringEntry s lport 0 0 row size header)
  let s := penal (bump s (.link lport 8)) lport 5
  modLport s lport fun l => { l with viol := s.clk :: l.viol }

/-- A violation by a packet. -/
def violatePkt (s : State) (lport row : Nat) (pkt : Packet) : State := violate s lport row pkt.header pkt.size

end Sys2Proof.Machine
end

