-- ==== Sys2Proof/Machine/MemCore.lean ====
section
/-! DEFINITION. Machine/MemCore.lean: a memory operation at its home: version views (06), accesses at the region
arbiter (03 R143 to R147) and at trays (R117), and what the operation does to memory (R77 to R80, R151, R236). -/
namespace Sys2Proof.Machine

/-! ## Version views (R261 to R263, R272, R273, R280) -/

/-- Storage beside pool addresses, for drafts and retained versions: its first byte's key in memory. -/
def sidBase (sid : Nat) : Nat := 2 ^ 47 + sid * frameBytes

/-- The shared region that holds a pool frame, and the frame's index in it. -/
def regionOf (s : State) (frame : Nat) : Option (Nat × SharedRegion × Nat) :=
  s.snap.regions.findSome? fun e =>
    match e.2.frames.findIdx? (· = frame) with
    | some i => some (e.1, e.2, i)
    | none => none

/-- A pool address lies in a shared region, here or announced (R260). -/
def inShared (s : State) (pool : Nat) : Bool :=
  (regionOf s (frameOf pool)).isSome ||
  s.snap.announced.any fun a => decide (a.1 ≤ frameOf pool ∧ frameOf pool < a.1 + a.2)

/-- Where version v of frame index i stands: the retained storage with the least `upTo` at or above v, else the frame
itself (R280). -/
def versionBase (r : SharedRegion) (i v : Nat) : Nat :=
  let cs := r.retained.filter fun t => t.frame = i && decide (v ≤ t.upTo)
  match cs.foldl (fun (b : Option Retained) t =>
      match b with
      | none => some t
      | some u => if t.upTo < u.upTo then some t else b) none with
  | some t => sidBase t.sid
  | none => r.frames.getD i 0 * frameBytes

/-- What a node's access to a frame meets (R262). -/
inductive View where
  | at (base : Nat)
  | denied
  /-- the first write of a draft to a frame: a copy-on-write copy is needed (R272) -/
  | cow (region index : Nat)
deriving DecidableEq, Repr

/-- The view of a node on a pool frame (R262, R272, R273). -/
def viewOf (s : State) (node frame : Nat) (write : Bool) : View :=
  match regionOf s frame with
  | none => .at (frame * frameBytes)
  | some (n, r, i) =>
    if r.expired.contains node then .denied
    else match kfind r.opens node with
      | none => if write then .denied else .at (frame * frameBytes)
      | some o =>
        if o.draft then
          match kfind o.written i with
          | some sid => .at (sidBase sid)
          | none =>
            if !write then .at (versionBase r i o.version)
            else if o.reserve.isEmpty then .denied
            else .cow n i
        else if write then .denied
        else .at (versionBase r i o.version)

/-! ## The lines and frames an operation touches -/

/-- Whether an operation writes its range, and reads it. -/
def writes : Op → Bool
  | .store | .storeClearPoison | .copy | .atomic _ | .wbDirty => true
  | _ => false

/-- Key in memory of a pool address under an operation's views. -/
def keyOf (o : MemOp) (a : Nat) : Nat := kget o.views (frameOf a) (frameOf a * frameBytes) + a % frameBytes

/-- Read n bytes of pool from a under an operation's views. -/
def readPool (s : State) (o : MemOp) (a : Nat) : Nat → List Byte
  | 0 => []
  | n + 1 => byteAt s.mem.bytes (keyOf o a) :: readPool s o (a + 1) n

/-- Write bytes to pool from a on. -/
def writePool (m : List (Nat × Byte)) (o : MemOp) (a : Nat) : List Byte → List (Nat × Byte)
  | [] => m
  | b :: bs => writePool (setByte m (keyOf o a) b) o (a + 1) bs

/-- The frame's contents are the pool's own, not a draft's or an old version's. -/
def plainView (o : MemOp) (frame : Nat) : Bool := kget o.views frame (frame * frameBytes) = frame * frameBytes

/-- The frames, of the pool or of drafts and old versions, that stand behind a range. -/
def physFrames (o : MemOp) (a n : Nat) : List Nat := (framesOf a n).map fun f => keyOf o (f * frameBytes) / frameBytes

/-- The line that stands behind a pool line. -/
def physLine (o : MemOp) (line : Nat) : Nat := keyOf o (line * 64) / 64

/-- The frame index of a region whose bytes a draft or a retained version keeps in some storage. -/
def sidIndex (r : SharedRegion) (sid : Nat) : Option Nat :=
  match r.retained.find? fun t => t.sid = sid with
  | some t => some t.frame
  | none => ((r.opens.flatMap fun o => o.2.written).find? fun w => w.2 = sid).map (·.1)

/-- The pool frame that draft or retained storage holds a version of. -/
def poolFrameOf (s : State) (frame : Nat) : Nat :=
  if frame < 2 ^ 26 then frame
  else
    let sid := frame - 2 ^ 26
    (s.snap.regions.findSome? fun e => (sidIndex e.2 sid).map fun i => e.2.frames.getD i 0).getD 0

/-! ## Copy metadata (R150, R151) -/

/-- Key of a copy's metadata record. -/
def metaKey (frame copy unit : Nat) : Nat := (frame * 4 + copy) * 512 + unit

/-- What a copy of 4 KiB holds: the frame's bytes, but where it was found to differ (R790). -/
def copyBytes (s : State) (frame copy unit : Nat) : List Byte :=
  kget s.mem.copyAlt (metaKey frame copy unit) (readBytes s.mem.bytes (frame * frameBytes + unit * 4096) 4096)

/-- One copy's records after a write of a unit: the next VERSION, the CHECKSUM of the new contents, PENDING 0. -/
def stampCopy (s : State) (frame unit : Nat) (m : List (Nat × CopyMeta)) (copy : Nat) : List (Nat × CopyMeta) :=
  let k := metaKey frame copy unit
  kset m k ⟨(kget m k {}).version + 1, crc32c (copyBytes s frame copy unit), false⟩

/-- A write to every copy reaches those too that differ elsewhere in their 4 KiB (R791). -/
def altWrite (s : State) (a : Nat) (data : List Byte) : State :=
  let alt := s.mem.copyAlt.map fun (e : Nat × List Byte) =>
    let base := e.1 / 2048 * frameBytes + e.1 % 512 * 4096
    (e.1, (natRange 0 4096).map fun i =>
      if a ≤ base + i ∧ base + i < a + data.length then data.getD (base + i - a) 0 else e.2.getD i 0)
  if s.mem.copyAlt.isEmpty then s else { s with mem := { s.mem with copyAlt := alt } }

/-- After a write to 4 KiB of a frame with copies, every healthy copy's record (R151). -/
def stampUnit (s : State) (a : Nat) : State :=
  let frame := frameOf a
  match tierOf s frame with
  | some t =>
    if t.copies = 1 then s
    else
      let unit := a % frameBytes / 4096
      let good := (natRange 0 t.copies).filter fun c => !t.stale.contains c
      { s with mem := { s.mem with copyMeta := good.foldl (stampCopy s frame unit) s.mem.copyMeta } }
  | none => s

/-- Every 4 KiB that a range touches. -/
def unitsOf (a n : Nat) : List Nat :=
  if n = 0 then [] else (natRange (a / 4096) ((a + n - 1) / 4096 - a / 4096 + 1)).map (· * 4096)

/-! ## What an operation does to memory -/

/-- The pre-value and the value stored by an atomic of width w (R77). -/
def atomicValue (o : AtomicOp) (w : Nat) (signed : Bool) (pre a b : Nat) : Nat :=
  let sgn := fun x : Nat => (BitVec.ofNat (8 * w) x).toInt
  let less := if signed then decide (sgn a < sgn pre) else decide (a < pre)
  match o with
  | .add => (pre + a) % 2 ^ (8 * w)
  | .min => if less then a else pre
  | .max => if less then pre else a
  | .and => pre &&& a
  | .or => pre ||| a
  | .xor => pre ^^^ a
  | .swap => a
  | .cas => if pre = a then b else pre

/-- An operation touches a frame that is quarantined. -/
def anyQuarantined (s : State) (a n : Nat) : Bool :=
  (framesOf a n).any fun f => ((tierOf s f).map (·.quarantined)).getD false

/-- A line of a range is poisoned, or an access found it uncorrectable and no copy was left (R79, R597). -/
def anyBad (s : State) (o : MemOp) (a n : Nat) : Bool :=
  (linesOf a n).any fun l => poisoned s (physLine o l) || o.bad.contains l

/-- Clear the poison of the lines of a range. -/
def clearPoisonRange (s : State) (o : MemOp) (a n : Nat) : State :=
  { s with mem := { s.mem with poison := s.mem.poison.filter fun l => !((linesOf a n).map (physLine o)).contains l } }

/-- A write begins: the records of its 4 KiB are PENDING in every healthy copy (R151). -/
def pendUnit (s : State) (a : Nat) : State :=
  let frame := frameOf a
  match tierOf s frame with
  | some t =>
    if t.copies = 1 then s
    else
      let good := (natRange 0 t.copies).filter fun c => !t.stale.contains c
      { s with mem := { s.mem with copyMeta := good.foldl (fun m c =>
          let k := metaKey frame c (a % frameBytes / 4096)
          kset m k { kget m k {} with pending := true }) s.mem.copyMeta } }
  | none => s

/-- What an operation writes to its range of the pool: a COPY its source's bytes, an atomic its result, any other its data (R71, R77). -/
def newData (s : State) (o : MemOp) : List Byte :=
  match o.op with
  | .copy => readPool s o o.srcPool o.len
  | .atomic a =>
    let pre := leNat (readPool s o o.pool o.len)
    leBytes o.len (atomicValue a o.len (flagSigned o.p) pre (leNat (o.data.take o.len)) (leNat (o.data.drop o.len)))
  | _ => o.data

/-- Reads of a pool range that are under way at trays bring bytes older than a write that takes effect now. -/
def overRun (s : State) (a n : Nat) : State :=
  let rs := s.mem.trayReqs.map fun e =>
    if e.2.read && decide (a < e.2.pool + e.2.len ∧ e.2.pool < a + n) then (e.1, { e.2 with excess := true }) else e
  { s with mem := { s.mem with trayReqs := rs } }

/-- Write data to the pool; the copies' records are PENDING until every copy is written (R151). -/
def storeBytes (s : State) (o : MemOp) (data : List Byte) : State :=
  let s := altWrite { s with mem := { s.mem with bytes := writePool s.mem.bytes o o.pool data } } o.pool data
  (unitsOf o.pool data.length).foldl pendUnit (overRun s o.pool data.length)

/-! ## Copies that differ (R789 to R791) -/

/-- A copy's record of 4 KiB is committed (R789): PENDING is 0, the copy is not stale, and its data pass CHECKSUM. -/
def committed (s : State) (t : TierEntry) (frame unit copy : Nat) : Bool :=
  let r := kget s.mem.copyMeta (metaKey frame copy unit) {}
  !t.stale.contains copy && !r.pending && crc32c (copyBytes s frame copy unit) = r.checksum

/-- Every copy of 4 KiB holds the bytes and the record of one of them. -/
def adopt (s : State) (t : TierEntry) (frame unit winner : Nat) : State :=
  let data := copyBytes s frame winner unit
  let r := kget s.mem.copyMeta (metaKey frame winner unit) {}
  let all := natRange 0 t.copies
  { s with mem := { s.mem with
      bytes := writeBytes s.mem.bytes (frame * frameBytes + unit * 4096) data
      copyAlt := s.mem.copyAlt.filter fun e => !(all.map fun c => metaKey frame c unit).contains e.1
      copyMeta := all.foldl (fun m c => kset m (metaKey frame c unit) { r with pending := false }) s.mem.copyMeta } }

/-- A frame is quarantined (R791). -/
def quarantineFrame (s : State) (frame : Nat) : State :=
  if ((tierOf s frame).map (·.quarantined)).getD true then s
  else
    let s := note (bump (modTier s frame fun t => { t with quarantined := true }) (.ras 13)) "QUARANTINED_FRAME" [frame]
    report s 0x0D (selfNode s) noLport (frame * frameBytes)

/-- The outcome of reading every copy of 4 KiB (R790). -/
def decideUnit (s : State) (frame unit : Nat) : State :=
  match tierOf s frame with
  | none => s
  | some t =>
    let good := (natRange 0 t.copies).filter (committed s t frame unit)
    let ver := fun c => (kget s.mem.copyMeta (metaKey frame c unit) {}).version
    let top := good.foldl (fun m c => max m (ver c)) 0
    match good.filter fun c => ver c = top with
    | [] => s
    | w :: ws =>
      let same := fun c => decide (copyBytes s frame c unit = copyBytes s frame w unit)
      if !ws.all same then quarantineFrame s frame
      else
        let lost := (good.filter fun c => !(decide (ver c = top) && same c)).length
        bumpBy (adopt s t frame unit w) (.ras 12) 48 lost

/-- Bytes of a range, where a write of others has changed them. -/
def putOver (a : Nat) (b : List Byte) (x : Nat) (data : List Byte) : List Byte :=
  b.mapIdx fun i v => if x ≤ a + i ∧ a + i < x + data.length then data.getD (a + i - x) v else v

/-- Read plain pool bytes for an engine of the switch: those of its own writes that still wait for earlier writes of their lines, too (R250). -/
def getPool (s : State) (a n : Nat) : List Byte :=
  (s.mem.ops.filter fun e => e.2.origin = .put && !e.2.writing).foldl (fun b e => putOver a b e.2.pool e.2.data) (readBytes s.mem.bytes a n)

/-- The status and RESULT of an operation that is not a LOAD, and the state after it (R77, R80, R101). A COPY whose source frame is
quarantined is DIVERGENT, as R791 has it for every read segment; R82 lists no status for it (DESIGN CHOICE, log entry 142). -/
def memEffect (s : State) (o : MemOp) : State × Nat × Nat :=
  if o.len = 0 then (s, stOk, 0)
  else match o.op with
  | .store =>
    if o.origin ≠ .put && anyBad s o o.pool o.len then (s, stPoisoned, 0) else (storeBytes s o (newData s o), stOk, 0)
  | .wbDirty => (storeBytes s o o.data, stOk, 0)
  | .storeClearPoison => (storeBytes (clearPoisonRange s o o.pool o.len) o o.data, stOk, 0)
  | .copy =>
    if anyBad s o o.pool o.len || anyBad s o o.srcPool o.len then (s, stPoisoned, 0)
    else if anyQuarantined s o.srcPool o.len then (s, stDivergent, 0)
    else (storeBytes s o (newData s o), stOk, 0)
  | .atomic _ =>
    if anyBad s o o.pool o.len then (s, stPoisoned, 0)
    else if anyQuarantined s o.pool o.len then (s, stDivergent, 0)
    else (storeBytes s o (newData s o), stOk, leNat (readPool s o o.pool o.len))
  | _ => (s, stOk, 0)

/-- The segments of a LOAD (R78): at most 65,536 bytes each, with the status of each (R79). A segment that is both poisoned and in a
quarantined frame is POISONED (DESIGN CHOICE, log entry 143). -/
def loadSegments (s : State) (o : MemOp) (off : Nat) : Nat → List (Nat × Nat × Nat × List Byte)
  | 0 => []
  | fuel + 1 =>
    if o.len ≤ off then []
    else
      let n := min 65536 (o.len - off)
      let a := o.pool + off
      let st := if anyBad s o a n then stPoisoned else if anyQuarantined s a n then stDivergent else stOk
      (off, n, st, if st = stOk then readPool s o a n else []) :: loadSegments s o (off + n) fuel

/-! ## Accesses at the region arbiter (R143 to R147) -/

/-- The class of an operation's accesses (R143, R220): moves and copies written again are BG, snoop-driven accesses and write-backs FAST.
TC 0, of which R143 does not speak, is BULK: what the Wick's commands read (DESIGN CHOICE, log entry 162). -/
def arbClass (o : MemOp) : ArbClass :=
  match o.origin with
  | .coh _ | .snooped => .fast
  | .move _ | .rewrite _ => .bg
  | _ =>
    if o.bg then .bg
    else if o.op = .wbDirty then .fast
    else match o.p.tc.toNat with
    | 1 | 2 | 3 => .fast
    | 4 | 6 => .req
    | 5 => .col
    | _ => .bulk

/-- A region arbiter. -/
def arbOf (s : State) (r : Nat) : Arb := kget s.mem.arbs r {}
def setArb (s : State) (r : Nat) (a : Arb) : State := { s with mem := { s.mem with arbs := kset s.mem.arbs r a } }

/-- Number of a class in the registers' order. -/
def ArbClass.ix : ArbClass → Nat
  | .fast => 0 | .req => 1 | .col => 2 | .bulk => 3 | .bg => 4

/-- Promotion time in ns of a class at a region (R148). -/
def arbPromoNs (s : State) (r k : Nat) : Nat := regField s (rArbPromo r) (9 * k) 9 * 250

/-- An access reaches an arbiter; a full group does not accept it yet (R146). A class whose promotion time is 0 is promoted on arrival
(R145). -/
def arbPush (s : State) (r : Nat) (x : Access) : State :=
  let a := arbOf s r
  let x := { x with id := a.nextAcc, arrived := s.clk, promoted := arbPromoNs s r x.cls.ix = 0 }
  let a := { a with nextAcc := a.nextAcc + 1 }
  if (a.waiting.filter fun y => y.group = x.group).length < 256 then setArb s r { a with waiting := a.waiting ++ [x] }
  else setArb s r { a with outside := a.outside ++ [x] }

/-- Bytes of a range that lie in a frame: first address and number. -/
def clip (frame a n : Nat) : Nat × Nat :=
  let lo := max a (frame * frameBytes)
  (lo, min (a + n) ((frame + 1) * frameBytes) - lo)

/-! ## Accesses at trays (R117, R125 to R127, R594, R595) -/

/-- The key a frame's lines are encrypted under: that of the partition that owns it (R594). -/
def frameKey (s : State) (frame : Nat) : Nat :=
  let p := ((tierOf s (poolFrameOf s frame)).map (·.partition)).getD 0
  p * 2 ^ 32 + (partOf s p).keyGen + 1

/-- The pool address that the tweak of a line or block takes (R595): storage of a draft or of a retained version holds
bytes of a pool frame, and keeps that frame's address. -/
def tweakAddr (s : State) (a : Nat) : Nat := poolFrameOf s (frameOf a) * frameBytes + a % frameBytes

/-- The tweak of a T1 or T2 line, and of unit u of the block at pool address a in T3 (R595). -/
def lineTweak (pool : Nat) : BitVec 128 := BitVec.ofNat 128 (pool / 64 % 2 ^ 41)
def blockTweak (pool u : Nat) : BitVec 128 := BitVec.ofNat 128 (pool / 4096 % 2 ^ 35 + 2 ^ 35 * u + 2 ^ 63)

/-- Cut a list of bytes into 64-byte units. -/
def units64 (l : List Byte) : Nat → List (List Byte)
  | 0 => []
  | n + 1 => l.take 64 :: units64 (l.drop 64) n

/-- Ciphertext and plaintext of the lines from a pool address on. -/
def sealLines (key pool : Nat) (l : List Byte) : List Byte :=
  ((units64 l (ceilDiv l.length 64)).zipIdx).flatMap fun e => Config.xtsEncrypt key (lineTweak (pool + 64 * e.2)) e.1
def openLines (key pool : Nat) (l : List Byte) : List Byte :=
  ((units64 l (ceilDiv l.length 64)).zipIdx).flatMap fun e => Config.xtsDecrypt key (lineTweak (pool + 64 * e.2)) e.1
/-- Ciphertext and plaintext of a Tallow block of a T3 frame. -/
def sealBlock (key pool : Nat) (l : List Byte) : List Byte :=
  ((units64 l (ceilDiv l.length 64)).zipIdx).flatMap fun e => Config.xtsEncrypt key (blockTweak pool e.2) e.1
def openBlock (key pool : Nat) (l : List Byte) : List Byte :=
  ((units64 l (ceilDiv l.length 64)).zipIdx).flatMap fun e => Config.xtsDecrypt key (blockTweak pool e.2) e.1

/-- The accesses of a range of a T1 frame, one for each 256-byte unit: units take the 32 channels of the stack in turn, 16 to a channel
group (R112, R144, R146). Answers how many. -/
def t1Access (s : State) (r : Nat) (x : Access) (a n : Nat) : State × Nat :=
  let us := if n = 0 then [] else natRange (a / 256) ((a + n - 1) / 256 - a / 256 + 1)
  (us.foldl (fun s u =>
    let lo := max a (u * 256)
    arbPush s r { x with group := u % 32 / 16, pool := lo, len := min (a + n) ((u + 1) * 256) - lo }) s, us.length)

/-- A write to a stretch of pool has taken effect and has not reached its trays. -/
def overWritten (s : State) (a n : Nat) : Bool :=
  s.mem.ops.any fun e => e.2.writing && decide (e.2.pool < a + n ∧ a < e.2.pool + e.2.len)

/-- The request that a tray request carries on (R64): a memory request of an endpoint or of another switch; none for what the switch asks
for itself. -/
def trayFrom (s : State) (op : Nat) : Option Req :=
  (kfind s.mem.ops op).bind fun o => match o.origin with
    | .here _ _ | .remote => some o.p
    | _ => none

/-- TC of a request to a tray: that of the request it carries on, where R71 lets the opcode have it, else 4 (DESIGN CHOICE, log entry 30). -/
def trayTc (load : Bool) (tc : Nat) : Nat := if tc = 3 ∨ (tc = 7 ∧ load = false) then tc else 4

/-- Tray requests that one source's tag names at one node; at most one of them has been sent (log entry 30). -/
def sameTray (a b : TrayReq) : Bool := a.src = b.src && a.tag = b.tag && a.node = b.node

/-- Send a tray request that waited for its turn, numbered as the switch's own (R94). -/
def trayGo (s : State) (key : Nat) : State :=
  match kfind s.mem.trayReqs key with
  | none => s
  | some t =>
    match t.wait with
    | none => s
    | some (port, p) =>
      let s' := { s with mem := { s.mem with trayReqs := kset s.mem.trayReqs key { t with wait := none } } }
      sendPkt (bumpOwn s' t.node) port (internal port) false
        (.req (if t.read then .load else .store) { p with seq := BitVec.ofNat 32 (ownNum s t.node) })

/-- A tray request whose turn has come. -/
def trayDue (s : State) : Option Nat :=
  (s.mem.trayReqs.find? fun e => e.2.wait.isSome && !s.mem.trayReqs.any fun f => f.2.wait.isNone && sameTray f.2 e.2).map (·.1)

/-- Send a request to the tray of a slot at offset x of its T2 or T3 area (R116, R117). One that carries on a checked request keeps its
SRC_NODE, TAG, PARTITION and AST (R64), so it waits for the answer to an earlier one of the same source, tag and node. -/
def traySend (s : State) (x : Nat) (tier : Tier) (t : TrayReq) (n : Nat) (data : List Byte) : State :=
  match kfind s.mem.slots t.slot with
  | none => s
  | some v =>
    let node := v.nodes.getD (x / 4096 % v.nodes.length) noNode
    let base := (if tier = .t2 then v.t2Off else v.t3Off) * GiB
    let from_ := trayFrom s t.op
    let own : Req := { lport := 1000, tc := 4, vc := 3, partition := 0, ast := 0, src := BitVec.ofNat 15 (selfNode s), dst := 0,
                       tag := BitVec.ofNat 16 s.ing.ownTag, length := 0, address := 0, seq := 0, flags := 0 }
    let p := from_.getD own
    let tc := trayTc t.read p.tc.toNat
    let pkt : Req :=
      { lport := 1000, tc := BitVec.ofNat 3 tc, vc := BitVec.ofNat 3 (tcVc tc), partition := p.partition, ast := p.ast, src := p.src,
        dst := BitVec.ofNat 15 node, tag := p.tag, length := BitVec.ofNat 24 n,
        address := BitVec.ofNat 64 (base + x), seq := 0, flags := 2, payload := data }
    let t' : TrayReq := { t with n := n, excess := t.read && overWritten s (t.pool / 4096 * 4096) (max t.len 4096),
                                 src := p.src.toNat, tag := p.tag.toNat, node := node, wait := some (homePort s t.pool, pkt) }
    let key := if from_.isSome then 65536 + s.nextId else s.ing.ownTag
    let busy := s.mem.trayReqs.any fun e => sameTray e.2 t'
    let s := { s with mem := { s.mem with trayReqs := kset s.mem.trayReqs key t' },
                      nextId := if from_.isSome then s.nextId + 1 else s.nextId }
    if busy then s else trayGo s key

/-- Cut a range at every 64 KiB: first addresses and lengths. -/
def pieces (a n : Nat) : List (Nat × Nat) :=
  if n = 0 then []
  else (natRange (a / 65536) ((a + n - 1) / 65536 - a / 65536 + 1)).map fun k =>
    let lo := max a (k * 65536)
    (lo, min (a + n) ((k + 1) * 65536) - lo)

/-- Use the cached block index of a T3 frame: the 4,096 most recently used stay (R126). -/
def useIndex (s : State) (frame : Nat) : State :=
  { s with mem := { s.mem with t3Index := (frame :: s.mem.t3Index.filter (· ≠ frame)).take 4096 } }

/-- Units of the block of 4 KiB at a pool address in T3 (R125): of the frame, or of the place that a move is taking it to. -/
def blockAt (s : State) (copyIx pool : Nat) : Nat × Nat :=
  if copyIx = 3 then ((kfind s.mem.moves (frameOf pool)).map fun m => m.blocks.getD (pool / 4096 % 512) (0, 0)).getD (0, 0)
  else kget s.mem.t3At (pool / 4096) (0, 0)

/-- The block of 4 KiB at a pool address stands on other units. -/
def setBlock (s : State) (copyIx pool : Nat) (u : Nat × Nat) : State :=
  if copyIx = 3 then
    { s with mem := { s.mem with moves := kmod s.mem.moves (frameOf pool) fun m => { m with blocks := m.blocks.set (pool / 4096 % 512) u } } }
  else { s with mem := { s.mem with t3At := kset s.mem.t3At (pool / 4096) u } }

/-- The block that the encoder makes of the 4 KiB at a pool address as they stand. -/
def blockOf (s : State) (pool : Nat) : List Byte :=
  tallowEncode (pool % frameBytes) 0 (readBytes s.mem.bytes (pool / 4096 * 4096) 4096)

/-- Read one block of a T3 frame (R126). -/
def blockRead (id frame slot : Nat) (s : State) (pool : Nat) : State :=
  let u := blockAt s 0 pool
  traySend s (u.1 * 64 % 2 ^ 40) .t3
    { op := id, what := .block, slot := slot, frame := frame, copyIx := 0, read := true, pool := pool, len := 4096, since := s.clk }
    (64 * u.2) []

/-- Change an operation at the home. -/
def modOp (s : State) (id : Nat) (f : MemOp → MemOp) : State :=
  { s with mem := { s.mem with ops := kmod s.mem.ops id f } }

/-- Units for the new block of n units at a pool address: newly allocated ones (R127), or, where a move writes the block for the first time,
those that it holds for it, if the block as it stands now fits them (R975). -/
def blockUnits (s : State) (id slot copyIx pool n : Nat) : Option Nat × State :=
  let first := match (kfind s.mem.ops id).map (·.origin) with
    | some (.move _) => true
    | _ => false
  let u := blockAt s copyIx pool
  if first && decide (n ≤ u.2) then (some u.1, setBlock s copyIx pool (0, 0))
  else (t3Alloc s (t3Extents s) slot n 1, bumpFree s)

/-- A read or a write of a frame's move has failed (R132). -/
def loseMove (s : State) (frame : Nat) : State :=
  { s with mem := { s.mem with moves := kmod s.mem.moves frame fun m => { m with lost := true } } }

/-- A tier address is served: a tray's, or a T1 frame that some region owns (R113, R780). -/
def served (s : State) (loc : Nat) : Bool := locTier loc ≠ .t1 || (t1Owner s (t1FrameOf loc)).isSome

/-- Write the block of 4 KiB at a pool address as its bytes stand; its index entry follows once the block is written (R127). Without units
the operation has failed. Answers how many accesses. -/
def blockWrite (id frame slot copyIx : Nat) (r : State × Nat) (pool : Nat) : State × Nat :=
  let s := r.1
  let b := blockOf s pool
  match blockUnits s id slot copyIx pool (b.length / 64) with
  | (none, s) =>
    -- R132: the write of a move has failed; a T3 frame's own write has its units (R975)
    if copyIx = 3 then (loseMove s frame, r.2) else (modOp s id fun o => { o with failed := true }, r.2)
  | (some u, s) =>
    (traySend s (u * 64 % 2 ^ 40) .t3
      { op := id, what := .block, slot := slot, frame := frame, copyIx := copyIx, read := false, pool := pool, len := 4096,
        ext := (u, b.length / 64), since := s.clk }
      b.length (sealBlock (frameKey s frame) (tweakAddr s pool) b), r.2 + 1)

/-- Write the line of a frame's block index that holds the entry of the block at a pool address (R125, R127). -/
def indexWrite (s : State) (t : TrayReq) (loc : Nat) : State :=
  let j := t.pool % frameBytes / 4096
  let line := (natRange (j / 8 * 8) 8).flatMap fun i =>
    let u := blockAt s t.copyIx ((t.frame * 512 + i) * 4096)
    leBytes 8 (u.1 % 2 ^ 42 + 2 ^ 42 * u.2)
  traySend s (locOff loc + 64 * (j / 8)) .t3
    { op := t.op, what := .index, slot := t.slot, frame := t.frame, copyIx := t.copyIx, read := false, pool := t.pool, len := 64,
      since := s.clk }
    64 (Config.xtsEncrypt 0 (BitVec.ofNat 128 ((loc * 64 + j / 8) % 2 ^ 42 + 2 ^ 62)) line)

/-- Where the index of a frame in T3, or of a move's destination there, lies: tier address [47:12]. -/
def indexLoc (s : State) (frame copyIx : Nat) : Option Nat :=
  if copyIx = 3 then (kfind s.mem.moves frame).map (·.loc)
  else if frame < 2 ^ 26 then (tierOf s frame).map (·.loc0) else kfind s.snap.storage (frame - 2 ^ 26)

/-- A block is written (R127): its entry goes into the index, and its old units are free once no read of them is in flight. -/
def blockWritten (s : State) (t : TrayReq) : State :=
  let old := blockAt s t.copyIx t.pool
  let readers := (s.mem.trayReqs.filter fun e => e.2.read && e.2.what = .block && e.2.copyIx = t.copyIx && e.2.pool / 4096 = t.pool / 4096).map (·.2.op)
  let s := setBlock s t.copyIx t.pool t.ext
  let s := if readers.isEmpty then s else { s with mem := { s.mem with t3Old := s.mem.t3Old ++ [(old, readers)] } }
  match indexLoc s t.frame t.copyIx with
  | some loc => indexWrite s t loc
  | none => modOp s t.op fun o => { o with left := o.left - 1 }

/-- Start the accesses to one copy of a frame for a range: the region arbiter for T1 (R113), the tray for T2 and T3.
Answers how many accesses. -/
def accessCopy (id : Nat) (cls : ArbClass) (frame a n : Nat) (read : Bool) (loc copyIx : Nat) (s : State) : State × Nat :=
  let r := clip frame a n
  if r.2 = 0 then (s, 0)
  else match locTier loc with
  | .t1 =>
    match t1Owner s (t1FrameOf loc) with
    | none => (if copyIx = 3 then loseMove s frame else s, 0)
    | some g =>
      t1Access s g { id := 0, cls := cls, group := 0, arrived := 0, op := id, frame := frame, read := read } r.1 r.2
  | .t2 =>
    let slot := locSlot loc
    let lo := r.1 / 64 * 64
    let ps := pieces lo (ceilDiv (r.1 + r.2 - lo) 64 * 64)
    (ps.foldl (fun s p =>
      traySend s (locOff loc + p.1 % frameBytes) .t2
        { op := id, slot := slot, frame := frame, copyIx := copyIx, read := read, pool := p.1, len := p.2, since := s.clk }
        p.2 (if read then [] else sealLines (frameKey s frame) (tweakAddr s p.1) (readBytes s.mem.bytes p.1 p.2))) s, ps.length)
  | .t3 =>
    let slot := locSlot loc
    let bs := unitsOf r.1 r.2
    if read then
      let known := s.mem.t3Index.contains frame
      let s := if known then s else
        traySend s (locOff loc) .t3
          { op := id, what := .index, slot := slot, frame := frame, copyIx := copyIx, read := true, pool := r.1, len := 4096,
            since := s.clk } 4096 []
      (bs.foldl (blockRead id frame slot) (useIndex s frame), bs.length + (if known then 0 else 1))
    else bs.foldl (blockWrite id frame slot copyIx) (useIndex s frame, 0)

/-- Copies of a frame that may be used: location and number. -/
def healthyCopies (s : State) (t : TierEntry) : List (Nat × Nat) :=
  (t.locs.zipIdx).filter fun e => !t.stale.contains e.2 && served s e.1

/-- Start accesses to several copies. -/
def accessCopies (id : Nat) (cls : ArbClass) (frame a n : Nat) (read : Bool) : List (Nat × Nat) → State → State × Nat
  | [], s => (s, 0)
  | c :: cs, s =>
    let r := accessCopy id cls frame a n read c.1 c.2 s
    let q := accessCopies id cls frame a n read cs r.1
    (q.1, r.2 + q.2)

/-- Start an operation's accesses in the storage of a draft or of a retained version. -/
def accessStorage (id : Nat) (cls : ArbClass) (o : MemOp) (a n : Nat) (read : Bool) (s : State) (frame : Nat) : State × Nat :=
  let r := clip frame a n
  let k := keyOf o r.1
  match kfind s.snap.storage (k / frameBytes - 2 ^ 26) with
  | none => (s, 0)
  | some loc =>
    let mv := match kfind s.mem.moves (k / frameBytes) with
      | some m => if !read && decide (k % frameBytes / 65536 < m.next) then [(m.loc, 3)] else []
      | none => []
    accessCopies id cls (k / frameBytes) k r.2 read ((loc, 0) :: mv) s

/-- The 4 KiB units that hold a range: a copy's CHECKSUM covers each of them whole (R150). -/
def wholeUnits (a n : Nat) : Nat × Nat := (a / 4096 * 4096, if n = 0 then 0 else ((a + n - 1) / 4096 + 1) * 4096 - a / 4096 * 4096)

/-- Start the reads that an operation needs in one frame: of copy 0, of the lowest healthy copy, or of every copy under
read verification; a frame with copies is read in whole units, whose CHECKSUM is tested (R152). -/
def readFrame (id : Nat) (cls : ArbClass) (o : MemOp) (a n : Nat) (s : State) (frame : Nat) : State × Nat :=
  match tierOf s frame with
  | none => (s, 0)
  | some t =>
    if plainView o frame then
      if (healthyCopies s t).isEmpty then
        -- no copy that can be read: POISONED (R780)
        let c := clip frame a n
        ({ s with mem := { s.mem with ops := kmod s.mem.ops id fun o => { o with bad := o.bad ++ linesOf c.1 c.2 } } }, 0)
      else
        let c := clip frame a n
        let w := if t.copies = 1 then c else wholeUnits c.1 c.2
        accessCopies id cls frame w.1 w.2 true (if t.verify then healthyCopies s t else (healthyCopies s t).take 1) s
    else accessStorage id cls o a n true s frame

/-- Start the writes: of every copy (R151), and of a move's destination whose sub-block is copied (R130). -/
def writeFrame (id : Nat) (cls : ArbClass) (o : MemOp) (a n : Nat) (s : State) (frame : Nat) : State × Nat :=
  match tierOf s frame with
  | none => (s, 0)
  | some t =>
    if plainView o frame then
      let mv := match kfind s.mem.moves frame with
        | some m => if (clip frame a n).1 % frameBytes / 65536 < m.next then [(m.loc, 3)] else []
        | none => []
      accessCopies id cls frame a n false (healthyCopies s t ++ mv) s
    else accessStorage id cls o a n false s frame

/-- Accesses over a list of frames. -/
def overFrames (f : State → Nat → State × Nat) : List Nat → State → State × Nat
  | [], s => (s, 0)
  | x :: xs, s =>
    let r := f s x
    let q := overFrames f xs r.1
    (q.1, r.2 + q.2)

/-- Frames of a range that stand in T3, and that an operation sees as they are. -/
def t3FramesOf (s : State) (o : MemOp) (a n : Nat) : List Nat :=
  (framesOf a n).filter fun f => plainView o f && (match tierOf s f with
    | some t => decide (t.tier = Tier.t3)
    | none => false)

/-- Start the reads of an operation: its range for a LOAD or an atomic, the source of a COPY, and the blocks of T3 that a
write changes (R127). -/
def memReads (s : State) (id : Nat) : State :=
  match kfind s.mem.ops id with
  | none => s
  | some o =>
    let cls := arbClass o
    let r := match o.op with
      | .copy =>
        let r := overFrames (readFrame id cls o o.srcPool o.len) (framesOf o.srcPool o.len) s
        let q := overFrames (readFrame id cls o o.pool o.len) (t3FramesOf s o o.pool o.len) r.1
        (q.1, r.2 + q.2)
      | .store | .storeClearPoison | .wbDirty => overFrames (readFrame id cls o o.pool o.len) (t3FramesOf s o o.pool o.len) s
      | _ => overFrames (readFrame id cls o o.pool o.len) (framesOf o.pool o.len) s
    modOp r.1 id fun o => { o with phase := .access, left := r.2 }

/-- A LOAD within one line that may be served with others: NO_COMBINE is clear (R54), combining is on (R243), and the line lies in no
shared region (R260). -/
def shareable (s : State) (o : MemOp) : Bool :=
  o.op = .load && o.views.isEmpty && o.len ≠ 0 && o.pool / 64 = (o.pool + o.len - 1) / 64 && !flagNoCombine o.p &&
  decide (0 < regField s rCombine 0 10) && !inShared s o.pool && (match o.origin with
    | .coh _ => false
    | _ => true)

/-- An access that waits at the arbiter for a LOAD of the same line, not longer than READ_WINDOW ago (R247). -/
def sharedRead (s : State) (o : MemOp) (x : Access) : Bool :=
  x.read && decide (x.pool / 64 = o.pool / 64 ∧ (x.pool + x.len - 1) / 64 = o.pool / 64) &&
  decide (s.clk ≤ x.arrived + regField s rCombine 0 10) && ((kfind s.mem.ops x.op).map (shareable s)).getD false

/-- An operation that reads a line for a LOAD of the same line, not longer than READ_WINDOW ago, and still waits (R247): for a tray, or with
accesses at a region's arbiter. -/
def sharedOp (s : State) (id : Nat) (o : MemOp) : Option Nat :=
  (s.mem.ops.find? fun e => e.1 ≠ id && e.2.phase = .access && decide (0 < e.2.left) && shareable s e.2 && e.2.pool / 64 = o.pool / 64 &&
    decide (s.clk ≤ e.2.arrived + regField s rCombine 0 10) &&
    ((s.mem.trayReqs.any fun r => r.2.op = e.1) || s.mem.arbs.any fun a => (a.2.waiting ++ a.2.outside).any fun x => x.op = e.1)).map (·.1)

/-- A LOAD within one line joins the memory read of another that still waits (R247): whether it did. -/
def joinRead (s : State) (id : Nat) : State × Bool :=
  match kfind s.mem.ops id with
  | none => (s, false)
  | some o =>
    match tierOf s (frameOf o.pool) with
    | none => (s, false)
    | some t =>
      let r := (t1Owner s (t1FrameOf t.loc0)).getD 0
      let a := arbOf s r
      if !shareable s o then (s, false)
      else if t.tier ≠ .t1 || t.copies ≠ 1 then
        match sharedOp s id o with
        | some e => (modOp (modOp s e fun x => { x with also := x.also ++ [id] }) id fun o => { o with phase := .joined }, true)
        | none => (s, false)
      else if a.waiting.any (sharedRead s o) then
        let w := a.waiting.map fun x => if sharedRead s o x then { x with also := x.also ++ [id] } else x
        (modOp (setArb s r { a with waiting := w }) id fun o => { o with phase := .access, left := 1 }, true)
      else (s, false)

/-- Start the writes of an operation. -/
def memWrites (s : State) (id : Nat) : State :=
  match kfind s.mem.ops id with
  | none => s
  | some o =>
    let r := overFrames (writeFrame id (arbClass o) o o.pool o.len) (framesOf o.pool o.len) s
    modOp r.1 id fun o => { o with writing := true, left := r.2 }

/-- A move is copying a sub-block that the range touches (R130). -/
def moveBlocks (s : State) (o : MemOp) (a n : Nat) : Bool :=
  (framesOf a n).any fun f =>
    match kfind s.mem.moves (keyOf o (f * frameBytes) / frameBytes) with
    | some m =>
      let c := clip f a n
      m.copying && !m.suspended && decide (c.1 % frameBytes / 65536 ≤ m.next) &&
        decide (m.next ≤ (c.1 + c.2 - 1) % frameBytes / 65536)
    | none => false

/-- Units of the blocks of a frame that an operation writes, once its bytes stand in them (R127). -/
def newLens (s : State) (o : MemOp) (f : Nat) : List Nat :=
  let c := clip f o.pool o.len
  let m := writeBytes s.mem.bytes c.1 ((newData s o).drop (c.1 - o.pool) |>.take c.2)
  (unitsOf c.1 c.2).map fun u => tallowUnits (u % frameBytes) (readBytes m u 4096)

/-- Units for the new blocks of several frames in T3, one frame after another: the first frame for which there are none. -/
def t3Room (s : State) (o : MemOp) : List Nat → List (Nat × Nat) → Option Nat
  | [], _ => none
  | f :: fs, taken =>
    match (tierOf s f).bind fun t => t3AllocAll s (locSlot t.loc0) (newLens s o f) taken with
    | some l => t3Room s o fs (l ++ taken)
    | none => some f

/-- A T3 frame that an operation writes needs more units than are free (R975): its new blocks stand beside the old ones until no read
of those is in flight (R127). -/
def t3Short (s : State) (o : MemOp) : Option Nat :=
  if !writes o.op then none else t3Room s o (t3FramesOf s o o.pool o.len) (t3Extents s)

/-- An operation that writes a move's next sub-block has begun its accesses: the copy waits for it (R130). -/
def moveWaits (s : State) (frame next : Nat) : Bool :=
  let a := frame * frameBytes + next * 65536
  s.mem.ops.any fun e => e.2.phase = .access && writes e.2.op && (match e.2.origin with
      | .move _ => false
      | _ => true) &&
    (framesOf e.2.pool e.2.len).any fun f =>
      let c := clip f e.2.pool e.2.len
      let k := keyOf e.2 c.1
      decide (k < a + 65536 ∧ a < k + c.2)

/-- Start the copy of a move's next sub-block (R129): 64 KiB are read at the source and then written at the destination, as accesses of
class BG. Where no region serves the source any more, another copy of the frame is read (R780). -/
def moveCopy (s : State) (frame : Nat) : State :=
  match kfind s.mem.moves frame with
  | none => s
  | some m =>
    if moveWaits s frame m.next then s else
    let src := if frame < 2 ^ 26 then (tierOf s frame).map fun t =>
                 let own := (if m.copyIx = 0 then t.loc0 else if m.copyIx = 1 then t.loc1 else t.loc2, m.copyIx)
                 if served s own.1 then own else ((healthyCopies s t).head?).getD own
               else (kfind s.snap.storage (frame - 2 ^ 26)).map fun l => (l, m.copyIx)
    match src with
    | none => s
    | some (loc, ix) =>
      if !served s loc then loseMove s frame else
      let id := s.nextId
      let a := frame * frameBytes + m.next * 65536
      let p : Req := { lport := 1000, tc := 7, vc := 5, partition := 0, ast := 0, src := 0, dst := 0, tag := 0, length := 65536, address := 0,
                       seq := 0, flags := 2 }
      let o : MemOp := { op := .copy, p := p, origin := .move frame, pool := a, len := 65536, srcPool := a, phase := .access, arrived := s.clk }
      let s := { s with mem := { s.mem with ops := kset s.mem.ops id o,
                                            moves := kset s.mem.moves frame { m with op := some id, copied := false } }, nextId := id + 1 }
      let r := accessCopy id .bg frame a 65536 true loc ix s
      modOp r.1 id fun o => { o with left := r.2 }

/-- Start a move of a frame's copy to a place already chosen (R129). -/
def startMove (s : State) (frame copyIx : Nat) (dst : Tier) (at_ : Place) (by_ : Option CmdRef) : State :=
  let m : Move := { dst := dst, loc := at_.loc, slot := locSlot at_.loc, copyIx := copyIx, by_ := by_, blocks := at_.blocks,
                    suspended := regField s rPoolPolicy 10 6 = 0 }
  let s := modTier { s with mem := { s.mem with moves := kset s.mem.moves frame m } } frame fun t =>
    if copyIx = 0 then { t with moving := true } else t
  if m.suspended then s else moveCopy s frame

/-- Slots of a frame's other copies. -/
def otherSlots (t : TierEntry) (ix : Nat) : List Nat :=
  (t.locs.zipIdx).filterMap fun l => if l.2 ≠ ix && locTier l.1 ≠ .t1 then some (locSlot l.1) else none

/-- A T3 frame whose write needs storage is moved to a tier its class allows, T2 on any attached slot first that holds no other copy
(R149), then T1; without such storage the shortage is reported to the Wick's log and to the managers; R984 has no TYPE for
it, so TYPE and detail word are free values (R975; log entry 144). -/
def expandOut (s : State) (frame : Nat) : State :=
  if (kfind s.mem.moves frame).isSome then s
  else match (tierOf s frame).bind fun t => (rulesOf s t.cls).map fun r => (t, r) with
    | none => s
    | some (e, r) =>
      let go := fun (t : Tier) => if r.tiers.contains t then pickIn s t [] (otherSlots e 0) else none
      match go .t2 with
      | some l => startMove (bumpFree s) frame 0 .t2 l none
      | none =>
        match go .t1 with
        | some l => startMove (bumpFree s) frame 0 .t1 l none
        | none =>
          let t := bumpFree s
          report (note (bumpFree t) "T3_SHORT" [frame]) (freeNat s % 256) (selfNode s) noLport (freeNat t % 2 ^ 64)

/-- The 4 KiB blocks in T3 that an operation writes: each is read, merged and written anew (R127). -/
def t3Blocks (s : State) (o : MemOp) : List Nat :=
  if writes o.op then (t3FramesOf s o o.pool o.len).flatMap fun f => unitsOf (clip f o.pool o.len).1 (clip f o.pool o.len).2 else []

/-- Another operation is writing one of the blocks in T3 that an operation writes. -/
def unitBusy (s : State) (id : Nat) (o : MemOp) : Bool :=
  let bs := t3Blocks s o
  !bs.isEmpty && s.mem.ops.any fun e => e.1 ≠ id && e.2.phase = .access && (t3Blocks s e.2).any bs.contains

/-- Carry an operation on to its accesses, unless a sub-block copy or the writing of a block holds it. -/
def memAccess (s : State) (id : Nat) : State :=
  match kfind s.mem.ops id with
  | none => s
  | some o =>
    if unitBusy s id o then modOp s id fun o => { o with phase := .order }
    else if moveBlocks s o o.pool o.len || (o.op = .copy && moveBlocks s o o.srcPool o.len) then
      modOp s id fun o => { o with phase := .move }
    else match joinRead s id with
      | (s, true) => s
      | (s, false) => memReads s id

/-- A new operation at the home. -/
def putOp (s : State) (o : MemOp) : State :=
  { s with mem := { s.mem with ops := kset s.mem.ops s.nextId o }, nextId := s.nextId + 1 }

/-- Remove an operation. -/
def dropOp (s : State) (id : Nat) : State := { s with mem := { s.mem with ops := kdel s.mem.ops id } }

end Sys2Proof.Machine
end

