-- ==== Sys2Proof/Machine/Xlat.lean ====
section
/-! DEFINITION. Machine/Xlat.lean: page tables, the translation cache, generations and invalidations, references to
mapped gigabytes, windows (04_translation_windows.md). -/
namespace Sys2Proof.Machine

/-! ## ASTs and entries (R163, R165, R169) -/

/-- An AST of the AST table. -/
def astOf (s : State) (n : Nat) : Option Ast := kfind s.xl.asts n
/-- Change an AST. -/
def modAst (s : State) (n : Nat) (f : Ast → Ast) : State :=
  { s with xl := { s.xl with asts := kmod s.xl.asts n f } }
/-- Key of a page table entry. -/
def pteKey (ast i : Nat) : Nat := ast * 2 ^ 18 + i
/-- A page table entry, where it is valid; no AST reaches past 2^48 (R162). -/
def pteOf (s : State) (ast i : Nat) : Option Pte := if i < 2 ^ 18 then kfind s.xl.ptes (pteKey ast i) else none
/-- Entries of an AST's table. -/
def tableEntries (a : Ast) : Nat := 2 ^ (a.spanLog2 - 30)
/-- Bytes a table takes in the reserved frames, rounded up to 4 KiB (R163). -/
def tableBytes (span : Nat) : Nat := max 4096 (4 * 2 ^ (span - 30))
/-- Bytes all tables take (R164). -/
def tablesTotal (s : State) : Nat := s.xl.asts.foldl (fun n e => n + tableBytes e.2.spanLog2) 0

/-- The word of an entry as AST.PTE_READ returns it (R165). -/
def pteWord (p : Pte) : Nat :=
  1 + (if p.size32 then 2 else 0) + (if p.r then 4 else 0) + (if p.w then 8 else 0) + (if p.a then 16 else 0) +
    2 ^ 12 * p.page

/-! ## The translation cache (R179, R180, R182, R183) -/

/-- Set of the cache that a page falls in: 4,096 sets; how pages spread over them is the model's choice. -/
def cacheSet (ast page : Nat) : Nat := (ast + page) % 4096

/-- A cached entry hits under the AST's current generation only. -/
def cacheHit (s : State) (ast gen page : Nat) : Option Pte :=
  (s.xl.cache.find? fun e => e.ast = ast && e.gen = gen && e.page = page).map (·.pte)

/-- Use moves an entry to the front. -/
def cacheTouch (s : State) (ast gen page : Nat) : State :=
  match s.xl.cache.find? fun e => e.ast = ast && e.gen = gen && e.page = page with
  | some e => { s with xl := { s.xl with cache := e :: s.xl.cache.erase e } }
  | none => s

/-- Remove the last entry of a set from a list whose order is its use. -/
def dropLastOf (st : Nat) (l : List XEntry) : List XEntry :=
  match l.reverse.find? fun e => cacheSet e.ast e.page = st with
  | some e => (l.reverse.erase e).reverse
  | none => l

/-- Insert an entry; a full set of 16 gives up its least recently used one. -/
def cachePut (s : State) (e : XEntry) : State :=
  let st := cacheSet e.ast e.page
  let c := s.xl.cache.filter fun x => !(x.ast = e.ast && x.page = e.page && x.gen = e.gen)
  let c := if 16 ≤ (c.filter fun x => cacheSet x.ast x.page = st).length then dropLastOf st c else c
  { s with xl := { s.xl with cache := e :: c } }

/-! ## References to gigabytes (R173 to R177) -/

/-- Frames of a gigabyte of pool. -/
def gibFrames (g : Nat) : List Nat := natRange (g * 512) 512

/-- Add a reference at the home: none where the class or copy count differs (R175), the count is full (R176) or
storage is short (R124, R149), with the status. -/
def addRef (s : State) (g cls copies part : Nat) (verify : Bool) : State ⊕ Nat :=
  match kfind s.mem.counts g with
  | some c =>
    if c.cls ≠ cls ∨ c.copies ≠ copies then .inr stMalformed
    else if 65535 ≤ c.count then .inr stBudget
    else .inl { s with mem := { s.mem with counts := kset s.mem.counts g { c with count := c.count + 1 } } }
  | none =>
    match placeFrames cls copies part verify (gibFrames g) s with
    | some t => .inl { t with mem := { t.mem with counts := kset t.mem.counts g { count := 1, cls := cls, copies := copies } } }
    | none => .inr stBudget

/-- Operations that a sub-block copy holds are tried again (R130). -/
def retryMoves (s : State) : State :=
  (s.mem.ops.filter fun e => e.2.phase = .move).foldl (fun s e => memAccess s e.1) s

/-- Operations whose writes to a move's destination may be under way: its own, and those that write the frame. -/
def moveUsers (s : State) (frame : Nat) (m : Move) : List Nat :=
  (s.mem.ops.filter fun e => m.op = some e.1 || (e.2.writing && (physFrames e.2 e.2.pool e.2.len).contains frame)).map (·.1)

/-- A move is abandoned: its destination is free once the writes to it are done, and the event is counted (R132). Its POOL.MOVE completes
with the status given. -/
def abandonMove (s : State) (frame status : Nat) : State :=
  match kfind s.mem.moves frame with
  | some m =>
    let s := modTier (markBusy s) frame fun t => { t with moving := false }
    let users := moveUsers s frame m
    let s := bump { s with mem := { s.mem with
      moves := kdel s.mem.moves frame
      freeing := if users.isEmpty then s.mem.freeing else kset s.mem.freeing m.loc users
      t3Old := if users.isEmpty then s.mem.t3Old else s.mem.t3Old ++ m.blocks.map fun u => (u, users) } } .moveAbandon
    let s := match m.by_ with
      | some r => complete s r status 0 []
      | none => s
    retryMoves s
  | none => s

/-- A frame's entry goes: a move of it is abandoned, and its POOL.MOVE completes with NO_MAPPING (R976). -/
def abandonGone (s : State) (frame : Nat) : State := abandonMove s frame stNoMapping

/-- Cut a stretch of storage at every 64 KiB where it lies on a tray (R763). -/
def piecesOf (p : Piece) : List Piece :=
  if p.addr < 0x200000000000 then [p]
  else (natRange (p.addr / 65536) (ceilDiv (p.addr % 65536 + p.len) 65536)).map fun k =>
    let lo := max p.addr (k * 65536)
    { p with addr := lo, len := min (p.addr + p.len) ((k + 1) * 65536) - lo, tweak := p.tweak + p.step * ((lo - p.addr) / 64) }

/-- Insert a stretch in ascending order. -/
def insertPiece (p : Piece) : List Piece → List Piece
  | [] => [p]
  | q :: qs => if p.addr ≤ q.addr then p :: q :: qs else q :: insertPiece p qs

/-- Storage is left to a partition's scrub. -/
def leaveToScrub (s : State) (part : Nat) (frames : List Nat) (units : List (Nat × Nat)) (todo : List Piece) : State :=
  let put := fun (c : Scrub) =>
    { c with frames := c.frames ++ frames, units := c.units ++ units, todo := todo.foldl (fun l p => insertPiece p l) c.todo }
  let l := s.sec.scrubs
  let l := if l.any fun c => c.part = part then l.map fun c => if c.part = part then put c else c
           else l ++ [put { part := part }]
  { s with sec := { s.sec with scrubs := l } }

/-- A frame of a partition that is torn down leaves its storage to the scrub: every copy, and its index and blocks in T3
(R762). -/
def scrubFrame (s : State) (frame : Nat) : State :=
  match kfind s.mem.tier frame with
  | none => s
  | some e =>
    if (partOf s e.partition).st ≠ .tearing then s
    else
      let whole := e.locs.filter fun l => locTier l ≠ .t3
      let inT3 := e.tier = .t3
      let blocks := if inT3 then (natRange (frame * 512) 512).flatMap fun j =>
          match kfind s.mem.t3At j with
          | some u =>
            piecesOf ⟨frame, u.1 * 64, 64 * u.2, j % 2 ^ 35 + 2 ^ 63, 2 ^ 35⟩
          | none => []
        else []
      leaveToScrub s e.partition whole (if inT3 then (e.loc0 * 64, 64) :: (natRange (frame * 512) 512).filterMap (kfind s.mem.t3At) else [])
        (whole.flatMap (fun l => piecesOf ⟨frame, l * 4096, frameBytes, frame * frameBytes / 64 % 2 ^ 41, 1⟩) ++
          (if inT3 then piecesOf ⟨frame, e.loc0 * 4096, 4096, e.loc0 * 64 % 2 ^ 42 + 2 ^ 62, 1⟩ else []) ++ blocks)

/-- Release a reference at the home; at 0 the gigabyte's entries go and their storage is freed (R177). -/
def dropRef (s : State) (g : Nat) : State :=
  match kfind s.mem.counts g with
  | some c =>
    if c.count ≤ 1 then
      (gibFrames g).foldl (fun s f => dropFrame (abandonGone (scrubFrame s f) f) f)
        { s with mem := { s.mem with counts := kdel s.mem.counts g } }
    else { s with mem := { s.mem with counts := kset s.mem.counts g { c with count := c.count - 1 } } }
  | none => s

/-- The body of a relayed command (R827): KIND, six reserved bytes and a descriptor. -/
def xchgPayload (kind group verb part : Nat) (addr0 : Nat) (args : List Byte) : List Byte :=
  leBytes 2 kind ++ leBytes 6 0 ++ leBytes 1 group ++ leBytes 1 verb ++ leBytes 2 0 ++ leBytes 2 0 ++ leBytes 2 part ++
  leBytes 8 0 ++ leBytes 8 addr0 ++ leBytes 8 0 ++ sliceBytes args 0 32

/-- Release references wherever their home is: here at once, elsewhere by management message (R174, R177). Without a route to
the home the message is dropped, and the home's map count stays (DESIGN CHOICE, log entry 168). -/
def releaseGib (s : State) (g : Nat) : State :=
  if homedHere s (g * GiB) then dropRef s g
  else match homeOf s (g * GiB) with
    | some n => (sendMgmt s 0x89 n (xchgPayload 1 0x08 0x02 0 (g * GiB) (leBytes 8 (g * GiB) ++ leBytes 4 1))).getD s
    | none => s

/-! ## Generations and invalidations (R181 to R188) -/

/-- A request that is counted in a generation of its AST: one whose pages step 9 has looked up (R184). Engines count the work that they
translate for (`Job.hold`, `RunState.hold`). -/
def countsAst (op : Op) (p : Req) : Bool := addrForm p = 0 && !isCompute op

/-- RUNs in progress or queued that are counted in a generation of an AST (R360). -/
def runsUnder (s : State) (ast gen : Nat) : Nat :=
  ((s.fab.insts.flatMap fun e => e.2.run.toList ++ e.2.queue).filter fun r => r.hold = some (ast, gen)).length

/-- Requests in flight under a generation of an AST (R184). -/
def inFlightOf (s : State) (ast gen : Nat) : Nat :=
  runsUnder s ast gen + (s.ing.outs.filter fun e => countsAst e.2.op e.2.p && e.2.p.ast.toNat = ast && e.2.gen = gen).length +
  (s.fab.jobs.filter fun e => e.2.hold = some (ast, gen)).length

/-- Advance GEN: the old generation's requests become DRAIN_COUNT, DRAINING is set and the sweep starts (R182, R183,
R185). -/
def advanceGen (s : State) (ast : Nat) : State :=
  match astOf s ast with
  | some a =>
    let n := inFlightOf s ast a.gen
    let s := modAst s ast fun b => { b with gen := (a.gen + 1) % 65536, draining := true, sweeping := true, drainCount := n,
                                            quiet := decide (n = 0) }
    -- R180: entries that requests still in their check have read under the old GEN are walked for again
    let old := fun (w : WalkWait) => w.got.filter fun e => e.1.1 = ast
    let again := (s.ing.waits.flatMap fun e => (old e.2).map (·.1.2)).eraseDups.filter fun p =>
      !s.xl.walks.any fun w => w.ast = ast && w.page = p
    let waits := s.ing.waits.map fun e =>
      (e.1, { e.2 with todo := e.2.todo ++ (old e.2).map (·.1), got := e.2.got.filter fun g => g.1.1 ≠ ast })
    { s with ing := { s.ing with waits := waits },
             xl := { s.xl with walks := s.xl.walks ++ again.map fun p => { ast := ast, page := p, gen := (a.gen + 1) % 65536 } } }
  | none => s

/-- Clear or rewrite the entries that an invalidation changes (R185). -/
def invalWrite (s : State) (ast : Nat) : InvalKind → State
  | .unmap base gib =>
    { s with xl := { s.xl with ptes := (natRange base gib).foldl (fun m i => kdel m (pteKey ast i)) s.xl.ptes } }
  | .protect base gib perms =>
    { s with xl := { s.xl with ptes := (natRange base gib).foldl (fun m i => kmod m (pteKey ast i) fun p =>
        { p with r := perms.testBit 0, w := perms.testBit 1, a := perms.testBit 2 }) s.xl.ptes } }
  | .revoke gib => { s with xl := { s.xl with ptes := s.xl.ptes.filter fun e => !(e.1 / 2 ^ 18 = ast && e.2.page = gib) } }
  | _ => s

/-- The gigabytes whose references an invalidation releases (R177). -/
def invalReleases (s : State) (ast : Nat) : InvalKind → List Nat
  | .unmap base gib => (natRange base gib).filterMap fun i => (pteOf s ast i).map (·.page)
  | .revoke gib =>
    -- the home of another switch takes the answer for the release (R759)
    if homedHere s (gib * GiB) then (s.xl.ptes.filter fun e => e.1 / 2 ^ 18 = ast && e.2.page = gib).map fun _ => gib else []
  | _ => []

/-- Destroy an AST with no valid entry (R170). Walks of its table end as they would: a request that waits for one is then checked again,
and finds no AST. -/
def astDestroyNow (s : State) (ast : Nat) (r : Option CmdRef) : State :=
  let done := fun (s : State) (st : Nat) => match r with
    | some r => complete s r st 0 []
    | none => s
  match astOf s ast with
  | none => done s stDenied
  | some _ =>
    if s.xl.ptes.any fun e => e.1 / 2 ^ 18 = ast then done s stDenied
    else
      done { s with xl := { s.xl with asts := kdel s.xl.asts ast, cache := s.xl.cache.filter fun e => e.ast ≠ ast } } stOk

/-- A range of whole translation pages (R980): it starts and ends at page borders. -/
def wholePages (s : State) (t v n : Nat) : Bool :=
  let inside := fun i => ((pteOf s t i).map fun e => e.size32).getD false && i % 32 ≠ 0
  !inside v && !(inside (v + n) && ((pteOf s t (v + n - 1)).map fun e => e.size32).getD false)

/-- The status with which POOL.UNMAP and POOL.PROTECT refuse a range of n gigabytes from v on (R980). -/
def rangeRefusal (s : State) (t v n : Nat) : Option Nat :=
  if !wholePages s t v n then some stMalformed
  else if decide (2 ^ 18 < v + n) || (natRange v n).any (fun i => (pteOf s t i).isNone) then some stNoMapping
  else none

/-- The status with which a command's invalidation is refused when its turn comes (R186, R980, R981). -/
def invalRefusal (s : State) (v : Inval) : Option Nat :=
  if (astOf s v.ast).isNone then some stDenied
  else match v.kind with
    | .unmap base gib => rangeRefusal s v.ast base gib
    | .protect base gib _ => rangeRefusal s v.ast base gib
    | _ => none

/-- Start an invalidation that may run: a command's is judged now (R186); then it writes the entries, advances GEN and drains. -/
def invalStart (s : State) (v : Inval) : State :=
  let run := fun (s : State) =>
    let rel := invalReleases s v.ast v.kind
    let s := advanceGen (invalWrite s v.ast v.kind) v.ast
    { s with xl := { s.xl with invals := s.xl.invals ++ [{ v with running := true, release := rel }] } }
  match v.kind, v.by_ with
  | .destroy, _ => astDestroyNow s v.ast v.by_
  | _, some r => match invalRefusal s v with
    | some st => complete s r st 0 []
    | none => run s
  | _, none => if (astOf s v.ast).isNone then s else run s

/-- An invalidation of an AST may not run yet: the AST is DRAINING (R186), or the sweep of its last advance runs, before whose end GEN
does not advance again (R183). -/
def mustWait (s : State) (ast : Nat) (kind : InvalKind) : Bool :=
  match astOf s ast with
  | some a => a.draining || (a.sweeping && decide (kind ≠ .destroy))
  | none => false

/-- Ask for an invalidation: it runs at once, or waits its turn (R186). -/
def invalidate (s : State) (ast : Nat) (kind : InvalKind) (r : Option CmdRef) : State :=
  let v : Inval := { ast := ast, kind := kind, running := false, by_ := r }
  if mustWait s ast kind || s.xl.invals.any fun w => w.ast = ast && !w.running then
    { s with xl := { s.xl with invals := s.xl.invals ++ [v] } }
  else invalStart s v

/-- Run waiting invalidations of an AST from the front, as far as they run at once. -/
def invalNext (ast : Nat) : Nat → State → State
  | 0, s => s
  | fuel + 1, s =>
    match s.xl.invals.find? fun v => v.ast = ast && !v.running with
    | some v =>
      if mustWait s ast v.kind then s
      else invalNext ast fuel (invalStart { s with xl := { s.xl with invals := s.xl.invals.erase v } } v)
    | none => s

/-- An invalidation completes when DRAIN_COUNT reaches 0 (R185), or, with no request in flight, when its sweep has finished (R187):
DRAINING clears, released pages go to their homes, the command completes, and the next invalidation of the AST runs (R186). -/
def invalFinish (s : State) (ast : Nat) : State :=
  match astOf s ast with
  | none => s
  | some a =>
    if !a.draining || (a.quiet && a.sweeping) || a.drainCount ≠ 0 then s
    else
      let s := modAst s ast fun b => { b with draining := false }
      match s.xl.invals.find? fun v => v.ast = ast && v.running with
      | none => invalNext ast (s.xl.invals.length + 1) s
      | some v =>
        let s := v.release.foldl releaseGib { s with xl := { s.xl with invals := s.xl.invals.erase v } }
        let s := match v.by_ with
          | some r => complete s r stOk 0 []
          | none => s
        invalNext ast (s.xl.invals.length + 1) s

/-! ## Windows (R190 to R197) -/

/-- The pool address of a node offset at this switch, with the window used plus 1, or 0 for the home aperture (R190,
R193, R194): none where no window holds the whole range. -/
def windowOf (s : State) (x n : Nat) : Option (Nat × Nat) :=
  if x < 2 ^ 47 then (if x + n ≤ 2 ^ 47 then some (x, 0) else none)
  else
    let y := x - 2 ^ 47
    (s.xl.windows.find? fun e =>
      decide (e.2.offsetBase * GiB ≤ y ∧ y + max n 1 ≤ (e.2.offsetBase + e.2.sizeGib) * GiB)).map fun e =>
      (e.2.poolBase * GiB + (y - e.2.offsetBase * GiB), e.1 + 1)

/-- A window change completes when every operation translated through the old entry is done (R197). -/
def windowStep (s : State) (op : Nat) : State :=
  let ds := s.xl.windowDrains.map fun d => { d with ops := d.ops.filter (· ≠ op) }
  let done := ds.filter fun d => d.ops.isEmpty
  completeAll { s with xl := { s.xl with windowDrains := ds.filter fun d => !d.ops.isEmpty } } (done.map (·.by_)) stOk

/-! ## A request leaves the ingress (R98, R184, R185) -/

/-- The count of an AST's draining generation falls by one (R185). -/
def drainOne (s : State) (ast gen : Nat) : State :=
  match astOf s ast with
  | some a =>
    if a.draining && a.gen ≠ gen then
      invalFinish (modAst s ast fun b => { b with drainCount := b.drainCount - 1 }) ast
    else s
  | none => s

/-- What is counted in a generation ends (R184). -/
def holdEnd (s : State) (hold : Option (Nat × Nat)) : State :=
  match hold with
  | some (ast, gen) => drainOne s ast gen
  | none => s

/-- An engine's work that is counted in a generation ends (R360, R540). -/
def jobGone (s : State) (id : Nat) : State :=
  match kfind s.fab.jobs id with
  | none => s
  | some j =>
    holdEnd { s with fab := { s.fab with jobs := kdel s.fab.jobs id } } j.hold

/-- Operations of this home that carry out a request of this ingress. -/
def opsHere (s : State) (id : Nat) : List Nat :=
  (s.mem.ops.filter fun e => match e.2.origin with
    | .here i _ => i = id
    | _ => false).map (·.1)

/-- A STORE is no longer outstanding on the hot lines that it was sent on (R252). -/
def hotDone (s : State) (id : Nat) : State :=
  let hot := s.coh.hot.map fun (h : Nat × HotLine) => (h.1, if h.2.outstanding = some id then { h.2 with outstanding := none, idle := s.clk } else h.2)
  { s with coh := { s.coh with hot := hot } }

/-- A request is complete or released: it leaves, and its generation's count falls. -/
def requestGone (s : State) (id : Nat) : State :=
  match kfind s.ing.outs id with
  | none => s
  | some o =>
    let s := { s with ing := { s.ing with outs := kdel s.ing.outs id } }
    -- R197: a window change holds for the request no longer
    let s := (id :: opsHere s id).foldl windowStep s
    -- R252: a hot line that it was sent on has nothing outstanding
    let s := hotDone s id
    if countsAst o.op o.p then drainOne s o.p.ast.toNat o.gen else s

end Sys2Proof.Machine
end

