-- ==== Sys2Proof/Machine/CohCore.lean ====
section
/-! DEFINITION. Machine/CohCore.lean: answering requests of this ingress (02 R78, R81, R91, R189; 05 R249, R253), and
the directory's transactions (05_coherence.md R216 to R237). -/
namespace Sys2Proof.Machine

/-! ## Answers -/

/-- Key of a line that a host bridge's host holds. -/
def heldKey (bridge line : Nat) : Nat := bridge * 2 ^ 48 + line

/-- What a grant to a host bridge tells of the host's hold on the line (R240). -/
def noteGrant (s : State) (lport : Nat) (r : Resp) : State :=
  if isBridge lport && r.status = 0 && decide (0x40 ≤ r.reqOpcode.toNat ∧ r.reqOpcode.toNat ≤ 0x42) then
    let k := heldKey (lport - 512) (r.result.toNat / 64 % 2 ^ 41)
    let held := if 2 ≤ r.result.toNat % 4 then insertRising k s.coh.hostHeld else s.coh.hostHeld.filter (· ≠ k)
    { s with coh := { s.coh with hostHeld := held } }
  else s

/-- Send a response to a requester attached here, from a scheduler port. -/
def respondHere (s : State) (port lport load : Nat) (r : Resp) : State :=
  pushVoq (noteGrant s lport r) port (internal port) lport false
    (.resp { r with load := BitVec.ofNat 4 (if s.mem.freeMode then 0 else load) }) []

/-- Answer a request of an endpoint attached here, whole and with no data, at the port where it was checked. -/
def refuseHere (s : State) (lport : Nat) (op : Op) (p : Req) (status : Nat) : State :=
  (coverOf op p.length.toNat).foldl (fun s c => respondHere s (schedPort lport) lport 0 (mkResp s op p status c.1 c.2 0 [])) s

/-- The load level of a home for a pool address (R675): the accesses waiting at the owning region's arbiter. -/
def homeLoad (s : State) (pool : Nat) : Nat :=
  match tierOf s (frameOf pool) with
  | some t =>
    if t.tier = .t1 then
      let a := arbOf s ((t1Owner s (t1FrameOf t.loc0)).getD 0)
      min 15 (16 * a.waiting.length / 512)
    else 0
  | none => 0

/-- The part of least offset. -/
def lowestPart (ps : List ReqPart) : Option ReqPart :=
  ps.foldl (fun (b : Option ReqPart) p =>
    match b with
    | none => some p
    | some q => if p.off < q.off then some p else b) none

/-- Parts that did not complete with OK. -/
def failedParts (ps : List ReqPart) : List ReqPart := ps.filter fun p => p.status ≠ stOk

/-- The status a request of several parts completes with (R189): that of the failing part of lowest offset. -/
def partsStatus (ps : List ReqPart) : Nat := ((lowestPart (failedParts ps)).map (·.status)).getD stOk

/-- The node that carries out a part of a request: its home (R55). -/
def partNode (s : State) (o : OutReq) (i : Nat) : Nat := ((o.parts[i]?).map (·.home)).getD (selfNode s)

/-- The node that a split request's one response names: that of the failing part of lowest offset, else of its first part (R55, R189). -/
def splitNode (s : State) (ps : List ReqPart) : Nat :=
  (((lowestPart (failedParts ps)).or (lowestPart ps)).map (·.home)).getD (selfNode s)

/-- A response that another node than this switch carried out (R55). -/
def respFrom (r : Resp) (node : Nat) : Resp := { r with rspNode := BitVec.ofNat 15 node }

/-- Complete a request that `node` carried out with a response that covers all of it, and release what waits in its name: STOREs that it
absorbed complete with its status (R253). -/
def completeReq (s : State) (port id node status result : Nat) (data : List Byte) (load : Nat) : State :=
  match kfind s.ing.outs id with
  | none => s
  | some o =>
    let absorbed := s.ing.outs.filter fun e => e.2.phase = .absorbed id
    let s := respondHere s port o.p.lport load (respFrom (mkResp s o.op o.p status 0 o.p.length.toNat result data) node)
    absorbed.foldl (fun s e =>
      requestGone (respondHere s port e.2.p.lport load (respFrom (mkResp s e.2.op e.2.p status 0 e.2.p.length.toNat 0 []) node)) e.1)
      (requestGone s id)

/-- Lines of a range of whole lines, with their bytes; those that are there already stay. -/
def cacheLines (m : List (Nat × List Byte)) (line : Nat) (data : List Byte) : Nat → List (Nat × List Byte)
  | 0 => m
  | n + 1 => cacheLines (if (kfind m line).isSome then m else kset m line (data.take 64)) (line + 1) (data.drop 64) n

/-- An access of an engine's work is answered: a read brings its lines, a write is done. A failure ends the work (R156). -/
def jobGot (s : State) (id : Nat) (op : Op) (p : Req) (status : Nat) (data : List Byte) : State :=
  let a := p.address.toNat
  let n := p.length.toNat
  { s with fab := { s.fab with jobs := kmod s.fab.jobs id fun j =>
      let j := if status = stOk then j else { j with fail := some (j.fail.getD status), failAt := some (j.failAt.getD a) }
      match op with
      | .load =>
        { j with wait := j.wait.erase (a, n),
                 cache := if status = stOk then cacheLines j.cache (a / 64) data (n / 64) else j.cache }
      | _ => { j with wait := j.wait.erase (a, n) } } }

/-- A part of a request of this ingress is answered: a LOAD's segment goes on at once with its offset in the request
(R78, R189), anything else waits for every part. A request already held as unanswered takes no answer (R88). -/
def hereReply (s : State) (port id part status off cover result : Nat) (data : List Byte) (load : Nat) : State :=
  match kfind s.ing.outs id with
  | none => s
  | some o =>
    if o.phase = .unanswered then s
    else
      let base := ((o.parts[part]?).map (·.off)).getD 0
      match o.op with
      | .load =>
        let s := respondHere s port o.p.lport load (respFrom (mkResp s o.op o.p status (base + off) cover result data) (partNode s o part))
        if o.p.length.toNat ≤ o.covered + cover then requestGone s id
        else modOut s id fun o => { o with covered := o.covered + cover, parts := o.parts.mapIdx fun i p =>
          if i = part then { p with got := p.got + cover, done := decide (p.len ≤ p.got + cover) } else p }
      | _ =>
        let ps := o.parts.mapIdx fun i p => if i = part then { p with done := true, status := status } else p
        if isBridge o.p.lport && (o.op = .rdShared || o.op = .rdOwn) && status = stDenied && base = 0 && partNode s o part ≠ selfNode s then
          -- R239: which domain another home's gigabyte belongs to only that home knows; a line it denies is read uncached
          -- (DESIGN CHOICE, log entry 153)
          modOut s id fun o => { o with op := .load, phase := .held, parts := o.parts.map fun p => { p with sent := false, got := 0 } }
        else
        -- R239: ownership and eviction have no uncached form (log entry 153)
        let uncached := isBridge o.p.lport && (o.op = .upgrade || o.op = .evictClean) && status = stDenied && partNode s o part ≠ selfNode s
        let ps := if uncached then ps.map fun p => { p with status := stOk } else ps
        let s := modOut s id fun o => { o with parts := ps, result := if o.parts.length = 1 then result else o.result }
        if ps.all fun p => p.done then
          completeReq s port id (if ps.length = 1 then partNode s o part else splitNode s ps) (partsStatus ps) (if ps.length = 1 then result else 0) (if ps.length = 1 then data else []) load
        else s

/-- The operand of a member of an atomic group. -/
def groupOperand (o : OutReq) : Nat := leNat o.p.payload

/-- Answer the members of an atomic group in order of arrival (R249): the first gets the pre-value, each later one the
pre-value combined with the operands before it. -/
def answerAtomics (a : AtomicOp) (w : Nat) (signed : Bool) (port status load : Nat) : List Nat → Nat → State → State
  | [], _, s => s
  | id :: ids, pre, s =>
    match kfind s.ing.outs id with
    | none => answerAtomics a w signed port status load ids pre s
    | some o =>
      let next := atomicValue a w signed pre (groupOperand o) 0
      answerAtomics a w signed port status load ids next
        (completeReq s port id (partNode s o 0) status (if status = stOk then pre else 0) [] load)

/-- Answer the members of a read group, each with its own bytes and tag (R91, R245). -/
def answerReads (port line status load : Nat) (data : List Byte) : List Nat → State → State
  | [], s => s
  | id :: ids, s =>
    match kfind s.ing.outs id with
    | none => answerReads port line status load data ids s
    | some o =>
      let pool := ((o.parts[0]?).map (·.pool)).getD 0
      let bs := if status = stOk then (data.drop (pool - line * 64)).take o.p.length.toNat else []
      answerReads port line status load data ids (completeReq s port id (partNode s o 0) status 0 bs load)

/-- The single request of a combining group is answered. -/
def groupReply (s : State) (port g status result : Nat) (data : List Byte) (load : Nat) : State :=
  match kfind s.coh.groups g with
  | none => s
  | some gr =>
    let s := { s with coh := { s.coh with groups := kdel s.coh.groups g } }
    match gr.op with
    | .atomic a => answerAtomics a gr.width gr.signed port status load gr.members result s
    | _ => answerReads port (gr.pool / 64) status load data gr.members s

/-- Answer an operation of this home to where it came from, from a scheduler port. -/
def reply (s : State) (port : Nat) (origin : Origin) (op : Op) (p : Req) (status off cover result : Nat) (data : List Byte)
    (load : Nat) : State :=
  match origin with
  | .remote => sendResp s port load (mkResp s op p status off cover result data)
  | .here id part => hereReply s port id part status off cover result data load
  | .group g => groupReply s port g status result data load
  | .coh _ | .move _ | .snooped | .rewrite _ | .put => s
  | .job id => jobGot s id op p status data

/-- Answer an operation of n bytes whole, with no data: a LOAD by as many packets as its length needs (R78). -/
def replyWhole (s : State) (port : Nat) (origin : Origin) (op : Op) (p : Req) (status n load : Nat) : State :=
  match origin with
  | .here _ _ | .remote => (coverOf op n).foldl (fun s c => reply s port origin op p status c.1 c.2 0 [] load) s
  | _ => reply s port origin op p status 0 n 0 [] load

/-! ## Directory entries (R216, R217) -/

/-- The domain that a line's gigabyte is coherent for (R201), unless the range is being withdrawn. -/
def domainOf (s : State) (line : Nat) : Option Nat := kfind s.coh.ranges (line * 64 / GiB)
/-- A line's directory entry; a line without one is in I. Its domain is that of its gigabyte, but that a line being withdrawn keeps the one
it leaves (R202, R208). -/
def lineOf (s : State) (line : Nat) : Line :=
  let l := kget s.coh.lines line { domain := 0 }
  if l.leaving then l else { l with domain := (domainOf s line).getD l.domain }
/-- Write a line's entry. -/
def setLine (s : State) (line : Nat) (l : Line) : State :=
  { s with coh := { s.coh with lines := kset s.coh.lines line { l with used := s.coh.stamp }, stamp := s.coh.stamp + 1 } }
/-- A domain. -/
def domOf (s : State) (d : Nat) : Option Domain := kfind s.coh.domains d
/-- The index of a member node. -/
def agentOf (s : State) (d node : Nat) : Option Nat :=
  (domOf s d).bind fun x => (x.members.find? fun m => m.2 = node).map (·.1)
/-- An agent is marked failed. -/
def isFailed (s : State) (d agent : Nat) : Bool := ((domOf s d).map fun x => x.failed.contains agent).getD false
/-- TENURE in ns and TIMEOUT in ns of a domain (R203). -/
def tenureNs (s : State) (d : Nat) : Nat := regField s (rDomain d) 1 9
def timeoutNs (s : State) (d : Nat) : Nat := regField s (rDomain d) 10 10 * 1000

/-- Set of the directory that a line falls in, 131,072 sets of 16; how lines spread over them is the model's choice. -/
def dirSet (line : Nat) : Nat := line % 131072

/-- Agents that hold a line. -/
def holders (l : Line) : List Nat :=
  match l.st with
  | .i => []
  | .s => l.sharers
  | _ => [l.owner]

/-- The holders once one agent is gone. -/
def dropHolder (l : Line) (a : Nat) : Line :=
  match l.st with
  | .s =>
    let sh := l.sharers.filter (· ≠ a)
    if sh.isEmpty then { l with st := .i, sharers := [] } else { l with sharers := sh }
  | .i => l
  | _ => if l.owner = a then { l with st := .i, sharers := [] } else l

/-- A member's failure applied to a line (R232): what it held in E or M is poisoned, and it is no sharer. -/
def failLine (s : State) (line : Nat) : State :=
  let l := lineOf s line
  match l.st with
  | .i => s
  | .s =>
    let sh := l.sharers.filter fun a => !isFailed s l.domain a
    if sh = l.sharers then s
    else setLine s line { l with sharers := sh, st := if sh.isEmpty then .i else .s }
  | _ => if isFailed s l.domain l.owner then setLine (setPoison s line) line { l with st := .i } else s

/-! ## Snoops (R210, R211) -/

/-- Send a snoop for a line to a member, with the tag of the line's transaction (R210, R211, R212). -/
def sendSnoop (line tag : Nat) (inv : Bool) (s : State) (agent : Nat) : State :=
  let l := lineOf s line
  match domOf s l.domain with
  | none => s
  | some d =>
    match kfind d.members agent with
    | none => s
    | some node =>
      let p : Req :=
        { lport := 1000, tc := 2, vc := 2, partition := BitVec.ofNat 10 d.partition, ast := 0,
          src := BitVec.ofNat 15 (selfNode s), dst := BitVec.ofNat 15 node, tag := BitVec.ofNat 16 tag,
          length := 8, address := BitVec.ofNat 64 (line * 64), seq := BitVec.ofNat 32 (ownNum s node),
          flags := 1, payload := leBytes 8 ((if l.granted.contains agent then 1 else 0) + 256 * l.domain) }
      let at_ := homePort s (line * 64)
      sendPkt (bumpOwn s node) at_ (internal at_) false (.req (if inv then .snpInv else .snpShare) p)

/-! ## Transactions (R219, R221, R223) -/

/-- Whether a request takes a held line away, so that it waits for the tenure of the last grant (R221, R223, R224). -/
def needsTenure (l : Line) : LineReq → Bool
  | .coh op a _ _ =>
    match op, l.st with
    | .rdShared, .e | .rdShared, .m => l.owner ≠ a
    | .rdOwn, .i | .upgrade, .i | .rdShared, _ => false
    | .rdOwn, .s | .upgrade, .s => true
    | .rdOwn, _ | .upgrade, _ => l.owner ≠ a
    | _, _ => false
  | .plain _ true => l.st ≠ .i
  | .plain _ false => l.st = .e || l.st = .m
  | .inval | .entry => true

/-- Members to snoop, and whether with SNP_INV. -/
def snoopSet (s : State) (l : Line) : LineReq → List Nat × Bool
  | .coh .rdShared a _ _ => if l.st = .e || l.st = .m then ((holders l).filter (· ≠ a), false) else ([], false)
  | .coh .wbDirty _ _ _ | .coh .evictClean _ _ _ => ([], false)
  | .coh _ a _ _ => ((holders l).filter (· ≠ a), true)
  | .plain _ true => (holders l, true)
  | .plain _ false => (if l.st = .e || l.st = .m then holders l else [], false)
  | .inval => (holders l, true)
  | .entry => (((domOf s l.domain).map fun d => d.members.map (·.1)).getD [], true)

/-- The grant's RESULT word (R209). -/
def grantWord (line code : Nat) : Nat := code + line * 64

/-- Grant a line to an agent and answer it; its tenure starts (R209, R224). -/
def grant (s : State) (line agent : Nat) (op : Op) (p : Req) (origin : Origin) (code : Nat) (data : List Byte) : State :=
  let l := lineOf s line
  let l := { l with txn := none, granted := insertRising agent l.granted, tenure := some (s.clk + tenureNs s l.domain, agent) }
  let l := match code with
    | 1 => { l with st := .s, sharers := insertRising agent l.sharers }
    | 2 => { l with st := .e, sharers := [], owner := agent }
    | _ => { l with st := .m, sharers := [], owner := agent }
  reply (setLine s line l) (homePort s (line * 64)) origin op p stOk 0 64 (grantWord line code) data (homeLoad s (line * 64))

/-- End a line's transaction with no grant. -/
def endTxn (s : State) (line : Nat) : State := setLine s line { lineOf s line with txn := none }

/-- A line in I with nothing to do needs no entry; whose requests it has granted is known until it is invalidated (R211). -/
def tidyLine (s : State) (line : Nat) : State :=
  let l := lineOf s line
  if l.st = .i && l.txn.isNone && l.queue.isEmpty && !l.leaving && l.granted.isEmpty then
    { s with coh := { s.coh with lines := kdel s.coh.lines line } }
  else s

/-- Start the memory read of a coherence transaction (R220). -/
def cohRead (s : State) (line : Nat) (p : Req) : State :=
  let o : MemOp := { op := .load, p := p, origin := .coh line, pool := line * 64, len := 64, phase := .access, arrived := s.clk }
  let id := s.nextId
  let l := lineOf s line
  let s := setLine s line { l with txn := l.txn.map fun t => { t with reading := true } }
  memAccess (putOp s o) id

/-- A WB_DIRTY whose turn it is (R221): the owner's data is written and the line goes to I; anyone else is refused. -/
def takeWb (s : State) (line a : Nat) (p : Req) (origin : Origin) : State :=
  let l := lineOf s line
  if (l.st = .e || l.st = .m) && l.owner = a then
    let id := s.nextId
    let s := setLine s line { l with txn := l.txn.map fun t => { t with req := .plain id true } }
    memAccess (putOp s { op := .wbDirty, p := p, origin := origin, pool := line * 64, len := 64, data := p.payload,
                         phase := .access, held := [line], arrived := s.clk }) id
  else reply (endTxn s line) (homePort s (line * 64)) origin .wbDirty p stDenied 0 64 0 [] 0

/-- An EVICT_CLEAN whose turn it is (R221): a holder is removed; a non-holder changes nothing. -/
def takeEvict (s : State) (line a : Nat) (p : Req) (origin : Origin) : State :=
  let s := setLine s line (dropHolder { lineOf s line with txn := none } a)
  reply s (homePort s (line * 64)) origin .evictClean p stOk 0 64 0 [] 0

/-- Every answer of a line's transaction is in (R221, R223). A poisoned line grants nothing (R236). Answers the plain
operation that may go on with the line. -/
def collected (s : State) (line : Nat) : State × Option Nat :=
  let l := lineOf s line
  match l.txn with
  | none => (s, none)
  | some t =>
    match t.req with
    | .inval | .entry => (tidyLine (setLine s line { l with txn := none, st := .i, sharers := [], leaving := false, granted := [] }) line, none)
    | .plain op _ => (s, some op)
    | .coh .wbDirty a p origin => (takeWb s line a p origin, none)
    | .coh .evictClean a p origin => (takeEvict s line a p origin, none)
    | .coh op a p origin =>
      if poisoned s line then
        (reply (endTxn s line) (homePort s (line * 64)) origin op p stPoisoned 0 64 0 [] 0, none)
      else if op = .upgrade && l.st = .s && l.sharers.contains a then
        (grant (setLine s line { l with sharers := [] }) line a op p origin 3 [], none)
      else (cohRead s line p, none)

/-- The memory read of a coherence transaction is done: grant the line (R221). -/
def cohReadDone (s : State) (line : Nat) (bad : Bool) : State :=
  let l := lineOf s line
  match l.txn with
  | some t =>
    match t.req with
    | .coh op a p origin =>
      if bad || poisoned s line then reply (endTxn s line) (homePort s (line * 64)) origin op p stPoisoned 0 64 0 [] 0
      else
        let data := readBytes s.mem.bytes (line * 64) 64
        match op with
        | .rdShared => grant s line a op p origin (if t.fromI then 2 else 1) data
        | _ => grant (setLine s line { l with sharers := [] }) line a op p origin 3 data
    | _ => s
  | none => s

/-- Write the data that a holder gave for a line, as an operation that the line's transaction waits for (R151, R220, R221). -/
def lineWrite (s : State) (line : Nat) (origin : Origin) (p : Req) (data : List Byte) : State :=
  let id := s.nextId
  let l := lineOf s line
  let s := setLine s line { l with txn := l.txn.map fun t => { t with writes := t.writes ++ [id] } }
  memAccess (putOp s { op := .wbDirty, p := p, origin := origin, pool := line * 64, len := 64, data := data, phase := .access,
                       forLine := some line, arrived := s.clk }) id

/-- What the home's own write of a holder's data carries. -/
def snoopedReq (s : State) (line : Nat) : Req :=
  { lport := 1000, tc := 1, vc := 1, partition := 0, ast := 0, src := BitVec.ofNat 15 (selfNode s), dst := BitVec.ofNat 15 (selfNode s),
    tag := 0, length := 64, address := BitVec.ofNat 64 (line * 64), seq := 0, flags := 1 }

/-- A snoop answer, or a message taken as one, from an awaited agent (R212, R227): the agent keeps the line in S or not at all. -/
def noteAnswer (s : State) (line a : Nat) (kept : Bool) : State :=
  let l := lineOf s line
  let inv := (l.txn.map (·.inv)).getD true
  let l := if kept && !inv then
      (if l.st = .s then l else { l with st := .s, sharers := [a] })
    else dropHolder l a
  setLine s line { l with txn := l.txn.map fun t =>
    { t with awaiting := t.awaiting.filter (· ≠ a), noCopy := t.noCopy.filter (· ≠ a) } }

/-- A WB_DIRTY or EVICT_CLEAN of a snooped E or M owner is that owner's answer (R227, R228): its data is written, and it is answered OK. -/
def takeCrossing (s : State) (line a : Nat) (op : Op) (p : Req) (origin : Origin) : State :=
  let l := lineOf s line
  let s := if (l.txn.map fun t => t.noCopy.contains a).getD false then bump s .crossing else s
  let s := noteAnswer s line a false
  if op = .wbDirty then lineWrite s line origin p p.payload else reply s (homePort s (line * 64)) origin op p stOk 0 64 0 [] 0

/-- Every answer of a line's transaction is in, and every write of data that answers brought is done (R221). -/
def txnReady (s : State) (line : Nat) : Bool :=
  ((lineOf s line).txn.map fun t => !t.waitTenure && !t.reading && t.awaiting.isEmpty && t.writes.isEmpty).getD false

/-- The home has snooped an agent that holds a line in E or M. -/
def snoopedOwner (s : State) (line a : Nat) : Bool :=
  let l := lineOf s line
  (l.st = .e || l.st = .m) && l.owner = a && (l.txn.map fun t => t.awaiting.contains a).getD false

/-- Write-backs of a snooped owner that stand in the line's queue are taken at once (R219). -/
def crossQueued (line : Nat) : List LineReq → State → State
  | [], s => s
  | q :: qs, s =>
    match q with
    | .coh op a p origin =>
      if (op = .wbDirty || op = .evictClean) && snoopedOwner s line a then
        let l := lineOf s line
        crossQueued line qs (takeCrossing (setLine s line { l with queue := l.queue.erase q }) line a op p origin)
      else crossQueued line qs s
    | _ => crossQueued line qs s

/-- So are those that wait for a place in it (R219, R226). -/
def crossWaiting (line : Nat) : List (Nat × LineReq) → State → State
  | [], s => s
  | e :: es, s =>
    match e.2 with
    | .coh op a p origin =>
      if e.1 = line && (op = .wbDirty || op = .evictClean) && snoopedOwner s line a then
        crossWaiting line es (takeCrossing { s with coh := { s.coh with backlog := s.coh.backlog.erase e } } line a op p origin)
      else crossWaiting line es s
    | _ => crossWaiting line es s

/-- Send the snoops of a line's transaction, or go on when there is none to send. Of an agent that has failed since the transaction began the
line is cleared first (R232). -/
def sendSnoops (s : State) (line : Nat) : State × Option Nat :=
  let s := failLine s line
  let l := lineOf s line
  match l.txn with
  | none => (s, none)
  | some t =>
    let (who, inv) := snoopSet s l t.req
    let who := who.filter fun a => !isFailed s l.domain a
    let tag := s.ing.ownTag
    let s := setLine s line { l with txn := some { t with waitTenure := false, inv := inv, tag := tag, awaiting := who,
                                                          deadline := s.clk + timeoutNs s l.domain } }
    let s := crossQueued line (lineOf s line).queue (who.foldl (sendSnoop line tag inv) s)
    let s := crossWaiting line s.coh.backlog s
    if txnReady s line then collected s line else (s, none)

/-- A request for a line in I that needs a directory entry: one that takes a copy (R217, R221). A line in I has no entry, and plain requests,
write-backs and evictions leave it so (R216, R223). -/
def needsEntry : LineReq → Bool
  | .coh op _ _ _ => op = .rdShared || op = .rdOwn || op = .upgrade
  | _ => false

/-- Directory entries in use in a line's set, but for the line's own (R216). -/
def setEntries (s : State) (line : Nat) : List (Nat × Line) :=
  s.coh.lines.filter fun e => dirSet e.1 = dirSet line && e.1 ≠ line && (e.2.st ≠ .i || (e.2.txn.any fun t => needsEntry t.req))

/-- A line has an entry, or its oldest request needs none, or its set has one free (R217). -/
def mayBegin (s : State) (line : Nat) : Bool :=
  let l := lineOf s line
  l.st ≠ .i || !(l.queue.head?.any needsEntry) || decide ((setEntries s line).length < 16)

/-- The recorded owner asks again: counted as a violation of the port that it came from (R102, R221). -/
def ownerAgain (s : State) : LineReq → State
  | .coh op _ p _ => violatePkt (bump s .ownerViolation) p.lport 8 (.req op p)
  | _ => s

/-- A request for a grant by the line's recorded owner: RD_SHARED, RD_OWN or UPGRADE (R221). -/
def asksAgain (l : Line) : LineReq → Bool
  | .coh op a _ _ => (op = .rdShared || op = .rdOwn || op = .upgrade) && (l.st = .e || l.st = .m) && l.owner = a
  | _ => false

/-- The request packet of a line's request. -/
def lineReqPkt (s : State) : LineReq → Option Req
  | .coh _ _ p _ => some p
  | .plain id _ => (kfind s.mem.ops id).map (·.p)
  | _ => none

/-- Two requests are the same packet. -/
def samePkt (a b : Req) : Bool := a.lport = b.lport && a.src = b.src && a.tag = b.tag && a.seq = b.seq

/-- Requests that a line's full queue did not take come in, oldest first (R226). -/
def refill (s : State) (line : Nat) : State :=
  let room := 1024 - (lineOf s line).queue.length
  ((s.coh.backlog.filter fun e => e.1 = line).take room).foldl (fun s e =>
    let l := lineOf s line
    let s := setLine s line { l with queue := l.queue ++ [e.2] }
    { s with coh := { s.coh with backlog := s.coh.backlog.erase e } }) s

/-- Begin the next transaction of a line's queue, oldest first, when none is running (R219). A recorded owner that asks
again is a violation: it is removed as holder first (R221). A request of an agent that has failed meanwhile, or whose line is no longer coherent
for it, is DENIED (R202, R208, R235). -/
def lineBegin (s : State) (line : Nat) : State × Option Nat :=
  let s := failLine s line
  let l := lineOf s line
  if !mayBegin s line then (s, none) else
  match l.txn, l.queue with
  | none, q :: qs =>
    let gone : Bool := match q with
      | .coh _ a p _ => isFailed s l.domain a || (!l.leaving && (domainOf s line).isNone) || agentOf s l.domain p.src.toNat ≠ some a
      | _ => false
    if gone then
      match q with
      | .coh op _ p origin => (reply (setLine s line { l with queue := qs }) (homePort s (line * 64)) origin op p stDenied 0 64 0 [] 0, none)
      | _ => (s, none)
    else
      let own := asksAgain l q
      let s := if own then ownerAgain s q else s
      let l := if own then { l with st := .i, sharers := [] } else l
      let wait := needsTenure l q && (match l.tenure with
        | some (t, _) => decide (s.clk < t)
        | none => false)
      let l := { l with queue := qs, txn := some { req := q, waitTenure := wait, fromI := l.st = .i } }
      let s := setLine s line l
      if wait then (s, none) else sendSnoops s line
  | _, _ => (s, none)

/-- An operation writes a line, and so takes it away from every holder (R223). -/
def takesLine (o : MemOp) (line : Nat) : Bool := writes o.op && (linesOf o.pool o.len).contains line

/-- LOADs at the front of a line's queue that one memory read serves with the LOAD that has the line: those that waited with it, not longer
than READ_WINDOW after it came (R247). -/
def readsWith (s : State) (line : Nat) (first : MemOp) : List LineReq → List Nat
  | .plain id false :: qs =>
    match kfind s.mem.ops id with
    | some o =>
      if shareable s o && o.pool / 64 = line && decide (o.arrived ≤ first.arrived + regField s rCombine 0 10) && o.todo = [line]
      then id :: readsWith s line first qs else []
    | none => []
  | _ => []

/-- A plain operation has a line; with the last of its coherent lines it goes on to its accesses, a LOAD with those that wait with it. -/
def opGotLine (s : State) (line op : Nat) : State :=
  match kfind s.mem.ops op with
  | none => s
  | some o =>
    let todo := o.todo.filter (· ≠ line)
    let s := modOp s op fun o => { o with todo := todo, held := line :: o.held }
    if !todo.isEmpty then s
    else if !shareable s o then memAccess s op
    else
      let l := lineOf s line
      let also := readsWith s line o l.queue
      let s := setLine s line { l with queue := l.queue.drop also.length }
      let s := also.foldl (fun s i => modOp s i fun o => { o with todo := [], phase := .joined }) s
      memAccess (modOp s op fun o => { o with also := also }) op

/-- Begin a line's next transaction and carry on whatever it lets go on; transactions that end at once let the next
begin. -/
def lineRun (fuel : Nat) (s : State) (line : Nat) : State :=
  match fuel with
  | 0 => s
  | fuel + 1 =>
    match lineBegin (refill s line) line with
    | (s, some op) => refill (opGotLine s line op) line
    | (s, none) =>
      let l := lineOf s line
      if l.txn.isNone && !l.queue.isEmpty then lineRun fuel s line else tidyLine (refill s line) line

/-- After a transaction's answers are in: go on with it, then with the queue. -/
def lineGo (s : State) (line : Nat) : State :=
  match collected s line with
  | (s, some op) => opGotLine s line op
  | (s, none) => if (lineOf s line).txn.isNone then lineRun 1026 s line else s

/-- After a tenure's end: send the snoops that waited, then go on. -/
def lineSnoop (s : State) (line : Nat) : State :=
  match sendSnoops s line with
  | (s, some op) => opGotLine s line op
  | (s, none) => if (lineOf s line).txn.isNone then lineRun 1026 s line else s

/-- The entry that a full set gives up: its least recently used line with no transaction and no tenure, unless one is being
given up already (R217). -/
def victim (s : State) (line : Nat) : Option Nat :=
  let inSet := setEntries s line
  if inSet.any fun e => e.2.txn.any fun t => t.req = .inval then none
  else
    let idle := inSet.filter fun e => e.2.txn.isNone && e.2.queue.isEmpty && (match e.2.tenure with
      | some (t, _) => decide (t ≤ s.clk)
      | none => true)
    (idle.foldl (fun (b : Option (Nat × Line)) e =>
      match b with
      | none => some e
      | some c => if e.2.used < c.2.used then some e else b) none).map (·.1)

/-- Make room for a line that needs an entry: the victim's holders are snooped (R217). -/
def makeRoom (s : State) (line : Nat) : State :=
  if mayBegin s line then s
  else match victim s line with
    | some v => lineRun 8 (setLine s v { lineOf s v with queue := [.inval] }) v
    | none => s

/-- A request joins a line's queue (R219); a full queue does not take it yet (R226). -/
def lineJoin (s : State) (line : Nat) (q : LineReq) : State :=
  let l := lineOf s line
  if 1024 ≤ l.queue.length then { s with coh := { s.coh with backlog := s.coh.backlog ++ [(line, q)] } } else
  let s := makeRoom (setLine s line { l with queue := l.queue ++ [q] }) line
  lineRun 1026 s line

/-- A line whose queue waits only for a directory entry, and can have one now or can ask for one. -/
def lineStuck (s : State) : Option Nat :=
  (s.coh.lines.find? fun e => e.2.txn.isNone && !e.2.queue.isEmpty &&
    (mayBegin s e.1 || (victim s e.1).isSome)).map (·.1)

/-- An operation is over: its lines are free for their next requests; those it wrote are in I (R223). -/
def releaseLines (wrote : Nat → Bool) : List Nat → State → State
  | [], s => s
  | line :: ls, s =>
    let l := lineOf s line
    let l := { l with txn := none }
    let l := if wrote line then { l with st := .i, sharers := [] } else l
    releaseLines wrote ls (lineRun 1026 (setLine s line l) line)

/-! ## An operation comes to its home, and leaves it -/

/-- The views of an operation on the frames it touches (R262, R263): none where one is denied. -/
def takeViews (s : State) (node : Nat) (write : Bool) : List Nat → Option (List (Nat × Nat) × List (Nat × Nat × Nat))
  | [] => some ([], [])
  | f :: fs =>
    match takeViews s node write fs with
    | none => none
    | some (vs, cs) =>
      match viewOf s node f write with
      | .at b => some (if b = f * frameBytes then vs else kset vs f b, cs)
      | .denied => none
      | .cow r i => some (vs, (r, i, f) :: cs)

/-- Frames of storage that a node's draft has left (R273). -/
def reserveLeft (s : State) (node region : Nat) : Nat :=
  match (kfind s.snap.regions region).bind fun r => kfind r.opens node with
  | some o => o.reserve.length
  | none => 0

/-- Start a copy-on-write copy for a draft's first write to a frame (R272). -/
def cowStart (node op : Nat) (s : State) (c : Nat × Nat × Nat) : State :=
  match kfind s.snap.regions c.1 with
  | none => s
  | some r =>
    match kfind r.opens node with
    | none => s
    | some o =>
      match o.reserve with
      | [] => s
      | sid :: rest =>
        let o := { o with reserve := rest, written := kset o.written c.2.1 sid }
        let r := { r with opens := kset r.opens node o,
                          copies := r.copies ++ [{ node := node, frame := c.2.1, sid := sid, ops := [op] }] }
        modOp { s with snap := { s.snap with regions := kset s.snap.regions c.1 r } } op fun m =>
          { m with phase := .cow, views := kset m.views c.2.2 (sidBase sid) }

/-- Coherent lines of a range. -/
def coherentLines (s : State) (a n : Nat) : List Nat :=
  (linesOf a n).filter fun l => (domainOf s l).isSome || ((kfind s.coh.lines l).map (·.leaving)).getD false

/-- Frames that a range concerns: those it touches; for a range of 0 bytes, the frame of its address (R101). -/
def framesAt (a n : Nat) : List Nat := if n = 0 then [frameOf a] else framesOf a n

/-- Every frame of a range is homed here and backed (R194). -/
def backed (s : State) (a n : Nat) : Bool :=
  (framesAt a n).all fun f => homedHere s (f * frameBytes) && (tierOf s f).isSome

/-- A STORE_CLEAR_POISON in a coherent gigabyte comes from a member agent that is not failed (R237); of one of 0 bytes, its address
counts (R27). -/
def clearAllowed (s : State) (o : MemOp) : Bool :=
  o.op ≠ .storeClearPoison || (if o.len = 0 then [o.pool / 64] else linesOf o.pool o.len).all fun l =>
    match domainOf s l with
    | none => true
    | some d => match agentOf s d o.p.src.toNat with
      | some a => !isFailed s d a
      | none => false

/-- The stretches that an operation writes outside coherent gigabytes, where they stand: first line and last (R250). -/
def writeSpans (s : State) (o : MemOp) : List (Nat × Nat) :=
  if !writes o.op then []
  else ((framesOf o.pool o.len).filter fun f => (domainOf s (f * 32768)).isNone).map fun f =>
    let c := clip f o.pool o.len
    let k := keyOf o c.1
    (k / 64, (k + c.2 - 1) / 64)

/-- An earlier operation that writes one of the lines that an operation writes is not done (R250). -/
def orderHeld (s : State) (id : Nat) (o : MemOp) : Bool :=
  let ls := writeSpans s o
  !ls.isEmpty && s.mem.ops.any fun e => decide (e.1 < id) && (match e.2.origin with
      | .move _ | .rewrite _ => false
      | _ => true) &&
    (writeSpans s e.2).any fun x => ls.any fun y => decide (x.1 ≤ y.2 ∧ y.1 ≤ x.2)

/-- An operation waits for a copy-on-write copy (R272). -/
def copying (s : State) (id : Nat) : Bool := s.snap.regions.any fun r => r.2.copies.any fun c => c.ops.contains id

/-- An operation goes on: past the copies that it waits for (R272) and earlier writes of its lines (R250), to the queues of its coherent
lines, which it joins all at once (R219), and to its accesses. -/
def memNext (s : State) (id : Nat) : State :=
  match kfind s.mem.ops id with
  | none => s
  | some o =>
    if copying s id then modOp s id fun o => { o with phase := .cow }
    else if orderHeld s id o then modOp s id fun o => { o with phase := .order }
    else match o.todo with
      | [] => memAccess s id
      | ls => ls.foldl (fun s l => lineJoin s l (.plain id (takesLine o l))) (modOp s id fun o => { o with phase := .line })

/-- An operation held by earlier ones that may go on now. -/
def orderFree (s : State) : Option Nat :=
  (s.mem.ops.find? fun e => e.2.phase = .order && !orderHeld s e.1 e.2 && !unitBusy s e.1 e.2).map (·.1)

/-- A request adds 1 to the HEAT of each frame that it touches, also where a COPY's source and destination share it (R133); frames whose
drafts or old versions it accesses do not count (R281). -/
def touchOp (s : State) (o : MemOp) : State :=
  let fs := framesOf o.pool o.len ++ (if o.op = .copy then framesOf o.srcPool o.len else [])
  (fs.eraseDups.filter (plainView o)).foldl touchFrame s

/-- Copies under way that an operation of a node waits for: those of storage that it reads or writes. -/
def awaitCopies (node id : Nat) (o : MemOp) (s : State) : State :=
  { s with snap := { s.snap with regions := s.snap.regions.map fun r =>
      (r.1, { r.2 with copies := r.2.copies.map fun c =>
        if c.node = node && !c.ops.contains id && (o.views.any fun v => v.2 = sidBase c.sid) then { c with ops := c.ops ++ [id] } else c }) } }

/-- A memory operation reaches its home. One of 0 bytes passes every check and touches nothing (R27). -/
def memStart (s : State) (o : MemOp) : State :=
  let fail := fun st => replyWhole s (homePort s o.pool) o.origin o.op o.p st o.len (homeLoad s o.pool)
  if !backed s o.pool o.len || (o.op = .copy && !backed s o.srcPool o.len) then fail stNoMapping
  else if !clearAllowed s o then fail stDenied
  else
    let node := o.p.src.toNat
    match takeViews s node (writes o.op) (framesAt o.pool o.len),
          takeViews s node false (if o.op = .copy then framesAt o.srcPool o.len else []) with
    | some (v1, cows), some (v2, _) =>
      if cows.any fun c => decide (reserveLeft s node c.1 < (cows.filter fun d => d.1 = c.1).length) then fail stDenied
      else if o.len = 0 then fail stOk
      else
        let o := { o with views := v2.foldl (fun m e => kset m e.1 e.2) v1 }
        let lines := coherentLines s o.pool o.len ++ (if o.op = .copy then coherentLines s o.srcPool o.len else [])
        let id := s.nextId
        let s := putOp s { o with todo := lines.foldl (fun l x => insertRising x l) [], phase := .order }
        let s := cows.foldl (cowStart node id) s
        let s := touchOp s ((kfind s.mem.ops id).getD o)
        memNext (awaitCopies node id o s) id
    | _, _ => fail stDenied

/-- Answer every segment of a LOAD (R78, R79). -/
def loadReplies (o : MemOp) (load : Nat) : List (Nat × Nat × Nat × List Byte) → State → State
  | [], s => s
  | (off, n, st, data) :: r, s => loadReplies o load r (reply s (homePort s o.pool) o.origin o.op o.p st off n 0 data load)

/-- An operation that wrote is done: the copies' records (R151). -/
def stampRange (s : State) (o : MemOp) : State := (unitsOf o.pool o.len).foldl stampUnit s

/-- Storage that frames and blocks have left is free once no access uses it (R127, R131). -/
def freeStep (s : State) (op : Nat) : State :=
  { s with mem := { s.mem with
      freeing := (s.mem.freeing.map fun e => (e.1, e.2.filter (· ≠ op))).filter fun e => !e.2.isEmpty
      t3Old := (s.mem.t3Old.map fun e => (e.1, e.2.filter (· ≠ op))).filter fun e => !e.2.isEmpty } }

/-- The copy of a move's sub-block ends (R129): it is copied, or the move is abandoned (R132). -/
def moveStep (s : State) (frame id : Nat) (o : MemOp) : State :=
  match kfind s.mem.moves frame with
  | none => s
  | some m =>
    if m.op ≠ some id then s
    else if o.failed || !o.bad.isEmpty then abandonMove s frame stPoisoned
    else { s with mem := { s.mem with moves := kset s.mem.moves frame { m with copied := true } } }

/-- A copy has been written again from a good one (R152): it holds the frame's bytes and the good copy's records. -/
def rewritten (s : State) (o : MemOp) (copy : Nat) : State :=
  let frame := frameOf o.pool
  match tierOf s frame with
  | none => s
  | some t =>
    let good := ((healthyCopies s t).find? fun c => c.2 ≠ copy).map (·.2)
    let keys := (unitsOf o.pool o.len).map fun u => u % frameBytes / 4096
    match good with
    | none => s
    | some g =>
      { s with mem := { s.mem with
          copyAlt := s.mem.copyAlt.filter fun e => !(keys.map (metaKey frame copy)).contains e.1
          copyMeta := keys.foldl (fun m u => kset m (metaKey frame copy u) (kget m (metaKey frame g u) {})) s.mem.copyMeta } }

/-- The line whose transaction an operation's write belongs to goes on (R221). -/
def lineStep (s : State) (id : Nat) (o : MemOp) : State :=
  match o.forLine with
  | none => s
  | some line =>
    let l := lineOf s line
    let s := setLine s line { l with txn := l.txn.map fun t => { t with writes := t.writes.filter (· ≠ id) } }
    if txnReady s line then lineGo s line else s

/-- An operation is answered, and lets its lines go (R77 to R80). -/
def memDone (s : State) (id : Nat) : State :=
  match kfind s.mem.ops id with
  | none => s
  | some o =>
    let load := homeLoad s o.pool
    let s := freeStep (windowStep (dropOp s id) id) id
    match o.origin with
    | .coh line => lineRun 1026 (cohReadDone s line (anyBad s o o.pool o.len)) line
    | .move frame => moveStep s frame id o
    | .rewrite copy => if o.failed || !o.writing then s else rewritten s o copy
    | _ =>
      match o.op with
      | .load =>
        let segs := loadSegments s o 0 (o.len + 1)
        match o.origin with
        | .group _ =>
          let bad := anyBad s o o.pool o.len
          let st := if bad then stPoisoned else if anyQuarantined s o.pool o.len then stDivergent else stOk
          releaseLines (fun _ => false) o.held (reply s (homePort s o.pool) o.origin o.op o.p st 0 o.len 0 (readPool s o o.pool o.len) load)
        | _ => releaseLines (fun _ => false) o.held (loadReplies o load segs s)
      | _ =>
        let s := if o.writing then stampRange s o else s
        let st := if o.failed && o.st = stOk then stPoisoned else o.st
        lineStep (releaseLines (fun l => o.writing && takesLine o l) o.held (reply s (homePort s o.pool) o.origin o.op o.p st 0 o.len o.res [] load)) id o

/-- An operation ends, with the LOADs that its memory read served (R247): they share what the read found. -/
def memFinish (s : State) (id : Nat) : State :=
  match kfind s.mem.ops id with
  | none => s
  | some o => memDone (o.also.foldl (fun s i => memDone (modOp s i fun x => { x with bad := o.bad }) i) s) id

/-- The reads of a copy of 64 KiB or of 4 KiB units are in: they are written to the move's destination, or to the copy that failed. -/
def copyWrites (s : State) (id : Nat) (o : MemOp) (loc : Option Nat) (copyIx : Nat) : State :=
  if o.failed || !o.bad.isEmpty then memFinish s id
  else match loc with
    | none => memFinish s id
    | some loc =>
      let r := accessCopy id .bg (frameOf o.pool) o.pool o.len false loc copyIx s
      modOp r.1 id fun o => { o with writing := true, left := r.2 }

/-- Location of a copy of a frame. -/
def copyLoc (s : State) (frame copy : Nat) : Option Nat := (tierOf s frame).bind fun t => t.locs[copy]?

/-- Every access that an operation has started is done: a writing operation whose reads are in takes effect as one and
starts its writes, unless it must wait for storage in T3 (R975); anything else is answered. -/
def memStep (s : State) (id : Nat) : State :=
  match kfind s.mem.ops id with
  | none => s
  | some o =>
    if o.writing || !writes o.op then memFinish s id
    else match o.origin with
      | .move frame => copyWrites s id o ((kfind s.mem.moves frame).bind fun m => if m.op = some id then some m.loc else none) 3
      | .rewrite copy => copyWrites s id o (copyLoc s (frameOf o.pool) copy) copy
      | _ =>
        let (t, st, res) := memEffect s o
        if st ≠ stOk then memFinish (modOp t id fun o => { o with st := st, res := res }) id
        else match t3Short s o with
          | some f => modOp (expandOut s f) id fun o => { o with phase := .t3 }
          | none => memWrites (modOp t id fun o => { o with st := st, res := res }) id

/-- The first operation that has nothing left to wait for. -/
def memReady (s : State) : Option Nat :=
  (s.mem.ops.find? fun e => e.2.phase = .access && decide (e.2.left = 0)).map (·.1)

/-- One access of an operation is done. -/
def accessDone (s : State) (id : Nat) : State := modOp s id fun o => { o with left := o.left - 1 }

/-- A copy of a frame that failed is written again from another, in whole units (R152). -/
def rewriteCopy (s : State) (frame copyIx pool len : Nat) : State :=
  match tierOf s frame with
  | none => s
  | some t =>
    match (healthyCopies s t).find? fun c => c.2 ≠ copyIx with
    | none => s
    | some c =>
      let w := wholeUnits pool len
      if s.mem.ops.any fun e => e.2.origin = .rewrite copyIx && e.2.pool = w.1 && e.2.len = w.2 then s
      else
        let id := s.nextId
        let p : Req := { snoopedReq s (pool / 64) with tc := 7, vc := 5, length := BitVec.ofNat 24 w.2 }
        let s := putOp s { op := .copy, p := p, origin := .rewrite copyIx, pool := w.1, len := w.2, srcPool := w.1, phase := .access,
                           arrived := s.clk }
        let r := accessCopy id .bg frame w.1 w.2 true c.1 c.2 s
        modOp r.1 id fun o => { o with left := r.2 }

/-- A read of a copy failed for some lines (R152, R597): another healthy copy is read in its place, and the failed one is written again from
it; without one the lines are bad for the operation; under read verification a line is, once every copy has
failed to bring it. The copy of a move or of a copy written again has failed. -/
def readFailed (s : State) (id frame copyIx pool len : Nat) (bad : List Nat) : State :=
  let s := note (bumpBy s .stageFail 64 1) "STAGE_FAIL" [frame, copyIx, pool]
  match kfind s.mem.ops id, tierOf s frame with
  | some o, some t =>
    match o.origin with
    | .move _ | .rewrite _ => accessDone (modOp s id fun o => { o with failed := true }) id
    | _ =>
      match (healthyCopies s t).find? fun c => decide (copyIx < c.2) && !t.verify with
      | some c =>
        let r := accessCopy id (arbClass o) frame pool len true c.1 c.2 (rewriteCopy s frame copyIx pool len)
        modOp r.1 id fun o => { o with left := o.left - 1 + r.2 }
      | none =>
        if t.verify && decide (1 < (healthyCopies s t).length) then
          let seen := o.copyBad ++ bad.map fun l => (copyIx, l)
          let none_ := bad.filter fun l => (healthyCopies s t).all fun c => seen.contains (c.2, l)
          accessDone (modOp (rewriteCopy s frame copyIx pool len) id fun o => { o with copyBad := seen, bad := o.bad ++ none_ }) id
        else accessDone (modOp s id fun o => { o with bad := o.bad ++ bad }) id
  | _, _ => accessDone s id

end Sys2Proof.Machine
end

