-- ==== Sys2Proof/Machine/MoveCore.lean ====
section
/-! DEFINITION. Machine/MoveCore.lean: moving frames between tiers and trays (03_memory_tiers.md R129 to R132, R977). -/
namespace Sys2Proof.Machine

/-- Operations whose accesses to a frame, or to draft storage, are under way. -/
def opsOn (s : State) (frame : Nat) : List (Nat × MemOp) :=
  s.mem.ops.filter fun e =>
    e.2.phase = .access && ((physFrames e.2 e.2.pool e.2.len).contains frame ||
      (e.2.op = .copy && (physFrames e.2 e.2.srcPool e.2.len).contains frame))

/-- A write to the frame is in flight (R131). -/
def writeOn (s : State) (frame : Nat) : Bool :=
  (opsOn s frame).any fun e => writes e.2.op && (physFrames e.2 e.2.pool e.2.len).contains frame

/-- A frame's blocks in T3 give way to those of the place it has moved to: units that reads still use are kept until they end (R131). -/
def moveBlocksTo (s : State) (frame : Nat) (blocks : List (Nat × Nat)) (readers : List Nat) : State :=
  let old := (s.mem.t3At.filter fun e => e.1 / 512 = frame).map (·.2)
  let kept := if readers.isEmpty then [] else old.map fun u => (u, readers)
  let s := { s with mem := { s.mem with
      t3At := s.mem.t3At.filter fun e => decide (e.1 / 512 ≠ frame)
      t3Index := s.mem.t3Index.filter (· ≠ frame)
      t3Old := s.mem.t3Old ++ kept } }
  putBlocks s frame blocks

/-- Rewrite where a frame's copy, or draft storage, stands: the old place is free once its readers are done (R131). -/
def relocate (s : State) (frame : Nat) (m : Move) : State :=
  let readers := (opsOn s frame).map (·.1)
  let free := fun (s : State) (old : Nat) =>
    if readers.isEmpty then s else { s with mem := { s.mem with freeing := kset s.mem.freeing old readers } }
  if 2 ^ 26 ≤ frame then
    match kfind s.snap.storage (frame - 2 ^ 26) with
    | some old => free (moveBlocksTo { s with snap := { s.snap with storage := kset s.snap.storage (frame - 2 ^ 26) m.loc } } frame m.blocks readers) old
    | none => s
  else
    match tierOf s frame with
    | none => s
    | some t =>
      let old := if m.copyIx = 0 then t.loc0 else if m.copyIx = 1 then t.loc1 else t.loc2
      let s := modTier s frame fun t =>
        if m.copyIx = 0 then { t with loc0 := m.loc, tier := m.dst, moving := false, lastMove := s.clk }
        else if m.copyIx = 1 then { t with loc1 := m.loc } else { t with loc2 := m.loc }
      free (if m.copyIx = 0 then moveBlocksTo s frame m.blocks readers else s) old

/-- Commit a move: the new place is the frame's, POOL.MOVE completes (R129, R976), and what waited goes on. -/
def commitMove (s : State) (frame : Nat) : State :=
  match kfind s.mem.moves frame with
  | none => s
  | some m =>
    let s := relocate { markBusy s with mem := { s.mem with moves := kdel s.mem.moves frame } } frame m
    let s := match m.by_ with
      | some r => complete s r stOk 0 []
      | none => s
    retryMoves s

/-- A move of which a read or a write has failed: it is abandoned (R132). -/
def moveLost (s : State) : Option Nat := (s.mem.moves.find? fun e => e.2.lost).map (·.1)

/-- A move whose next sub-block can be copied now. -/
def moveDue (s : State) : Option Nat :=
  (s.mem.moves.find? fun e => e.2.copying && !e.2.suspended && !e.2.lost && e.2.op.isNone && !moveWaits s e.1 e.2.next &&
    (if e.1 < 2 ^ 26 then (tierOf s e.1).isSome else (kfind s.snap.storage (e.1 - 2 ^ 26)).isSome)).map (·.1)

/-- A move whose every sub-block is copied and that no write holds. -/
def commitReady (s : State) : Option Nat :=
  (s.mem.moves.find? fun e => e.2.ready && !e.2.lost && !writeOn s e.1).map (·.1)

/-! ## Evacuation (R120, R977) -/

/-- What a tray still backs: frame, number of the copy, tier address. Draft storage counts as copy 0 of its own frame. -/
def backedBy (s : State) (slot : Nat) : List (Nat × Nat × Nat) :=
  (s.mem.tier.flatMap fun e => (e.2.locs.zipIdx).filterMap fun l =>
    if locTier l.1 ≠ .t1 && locSlot l.1 = slot then some (e.1, l.2, l.1) else none) ++
  (s.snap.storage.filterMap fun e =>
    if locTier e.2 ≠ .t1 && locSlot e.2 = slot then some (e.1 + 2 ^ 26, 0, e.2) else none)

/-- The slot's storage that departed frames still hold for their readers. -/
def freeingOn (s : State) (slot : Nat) : Bool :=
  s.mem.freeing.any fun e => locTier e.1 ≠ .t1 && locSlot e.1 = slot

/-- The first destination in R977's order that has storage: tier and place. -/
def evacPlace (s : State) (slot frame ix loc : Nat) : Option (Tier × Place) :=
  match tierOf s frame with
  | none => (pickIn s (locTier loc) (frameLens s frame) [slot]).map fun l => (locTier loc, l)
  | some t =>
    let except := slot :: otherSlots t ix
    if ix ≠ 0 then (pickIn s .t2 [] except).map fun l => (.t2, l)
    else
      let allowed := ((rulesOf s t.cls).map (·.tiers)).getD []
      let order := locTier loc :: ([Tier.t2, .t3, .t1].filter fun x => x ≠ locTier loc && allowed.contains x)
      order.findSome? fun x => (pickIn s x (frameLens s frame) except).map fun l => (x, l)

/-- A move brings a frame onto a slot. -/
def movingOnto (s : State) (slot : Nat) : Bool :=
  s.mem.moves.any fun m => m.2.dst ≠ .t1 && locSlot m.2.loc = slot

/-- Go on with the evacuation of a slot: complete it when the slot is empty, start the next move, or stop for want of
storage with BUDGET (R977). -/
def evacStep (s : State) (slot : Nat) : State :=
  match kfind s.mem.slots slot with
  | none => s
  | some t =>
    if t.evacuating.isEmpty then s
    else
      let items := backedBy s slot
      match items with
      | [] =>
        if freeingOn s slot || movingOnto s slot then s
        else completeAll { s with mem := { s.mem with slots := kdel s.mem.slots slot } } t.evacuating stOk
      | _ =>
        if items.any fun i => (kfind s.mem.moves i.1).isSome then s
        else match items with
          | (f, ix, loc) :: _ =>
            match evacPlace s slot f ix loc with
            | some (tier, l) => startMove (bumpFree s) f ix tier l none
            | none =>
              completeAll { s with mem := { s.mem with slots := kset s.mem.slots slot { t with evacuating := [] } } }
                t.evacuating stBudget
          | [] => s

/-- Go on with every evacuation. -/
def evacAll (s : State) : State := s.mem.slots.foldl (fun s e => evacStep s e.1) s

end Sys2Proof.Machine
end

