-- ==== Sys2Proof/Machine/SnapCore.lean ====
section
/-! DEFINITION. Machine/SnapCore.lean: versioned shared regions (06_snapshots.md R255 to R283). -/
namespace Sys2Proof.Machine

/-- Change a region. -/
def modRegion (s : State) (n : Nat) (f : SharedRegion → SharedRegion) : State :=
  { s with snap := { s.snap with regions := kmod s.snap.regions n f } }

/-! ## Storage (R274, R280) -/

/-- An operation uses the storage. -/
def sidUsed (s : State) (sid : Nat) : Bool :=
  s.mem.ops.any fun e => e.2.views.any fun v => v.2 = sidBase sid

/-- Free storage: its bytes and poison go, and a move of it is abandoned. -/
def freeSid (s : State) (sid : Nat) : State :=
  let s := abandonMove s (sid + 2 ^ 26) stNoMapping
  let lo := sidBase sid
  { s with snap := { s.snap with storage := kdel s.snap.storage sid },
           mem := { s.mem with
             t3At := s.mem.t3At.filter fun e => decide (e.1 / 512 ≠ sid + 2 ^ 26)
             t3Index := s.mem.t3Index.filter (· ≠ sid + 2 ^ 26)
             bytes := clearBytes s.mem.bytes lo frameBytes
             poison := s.mem.poison.filter fun l => decide (l < lo / 64) || decide ((lo + frameBytes) / 64 ≤ l) } }

/-- Storage is no longer needed: it is freed once no operation uses it. -/
def dropSid (region : Nat) (s : State) (sid : Nat) : State :=
  { s with snap := { s.snap with dying := kset s.snap.dying sid region } }

/-- A draft's storage is no longer needed. -/
def dropDraft (region : Nat) (s : State) (sid : Nat) : State :=
  let s := dropSid region s sid
  { s with snap := { s.snap with dyingDrafts := insertRising sid s.snap.dyingDrafts } }

/-- Free what nothing uses, and complete the SNAP.DESTROY commands that waited for it (R282). -/
def sweepDying (s : State) : State :=
  let gone := (s.snap.dying.filter fun e => !sidUsed s e.1).map (·.1)
  let kept : Snap := { s.snap with
    dying := s.snap.dying.filter fun e => !gone.contains e.1
    dyingDrafts := s.snap.dyingDrafts.filter fun i => !gone.contains i }
  let s := gone.foldl freeSid { s with snap := kept }
  let ready := s.snap.destroying.filter fun d => !s.snap.dying.any fun e => e.2 = d.1
  let rest := s.snap.destroying.filter fun d => s.snap.dying.any fun e => e.2 = d.1
  ready.foldl (fun s d => complete s d.2 stOk 0 []) { s with snap := { s.snap with destroying := rest } }

/-- Take n frames of storage from free T1 frames, else from T2, which is counted as a fall-back (R124, R274): the numbers taken, or none
where it is short. -/
def takeSids : Nat → State → Option (List Nat × State)
  | 0, s => some ([], s)
  | n + 1, s =>
    let place : Option (Nat × State) := match pickIn s .t1 [] [] with
      | some l => some (l.loc, s)
      | none => (pickIn s .t2 [] []).map fun l => (l.loc, bump s .placeFallback)
    match place with
    | none => none
    | some (l, s) =>
      let sid := s.nextId
      let t := bumpFree { s with snap := { s.snap with storage := kset s.snap.storage sid l }, nextId := sid + 1 }
      (takeSids n t).map fun r => (sid :: r.1, r.2)

/-! ## Versions -/

/-- An open of the region needs a retained frame: its version is the frame's at that storage (R280). -/
def needed (r : SharedRegion) (t : Retained) : Bool :=
  r.opens.any fun o => versionBase r t.frame o.2.version = sidBase t.sid

/-- Free retained storage of versions that no open holds. -/
def reclaim (s : State) (n : Nat) : State :=
  match kfind s.snap.regions n with
  | none => s
  | some r =>
    let gone := r.retained.filter fun t => !needed r t
    let s := modRegion s n fun r => { r with retained := r.retained.filter fun t => !gone.contains t }
    gone.foldl (fun s t => dropSid n s t.sid) s

/-- Copies of a node that are under way in a region. -/
def copiesOf (r : SharedRegion) (node : Nat) : List CowCopy := r.copies.filter fun c => c.node = node

/-- An operation waited for a copy of a draft that has ended, or been published without it: a write to the frame is refused, and writes
nothing (R279); a read goes on with the bytes that the draft would have shown, those of its base version (R263). -/
def uncopied (r : SharedRegion) (base : Nat) (c : CowCopy) (s : State) (id : Nat) : State :=
  match kfind s.mem.ops id with
  | none => s
  | some o =>
    let f := r.frames.getD c.frame 0
    if o.phase ≠ .cow then s
    else if writes o.op && (framesOf o.pool o.len).contains f then
      let s := freeStep (windowStep (dropOp s id) id) id
      replyWhole s (homePort s o.pool) o.origin o.op o.p stDenied o.len (homeLoad s o.pool)
    else
      let b := versionBase r c.frame base
      modOp s id fun o => { o with views := if b = f * frameBytes then kdel o.views f else kset o.views f b }

/-- An operation that waited for copies goes on once all of them are dropped. -/
def cowNext (s : State) (id : Nat) : State :=
  match kfind s.mem.ops id with
  | some o => if o.phase = .cow then memNext s id else s
  | none => s

/-- A node's copies under way in a region are dropped: those frames have no written storage, and what waited for them goes on. -/
def dropCopies (s : State) (n node : Nat) : State :=
  match kfind s.snap.regions n with
  | none => s
  | some r =>
    match kfind r.opens node with
    | none => s
    | some o =>
      let cs := copiesOf r node
      let s := modRegion s n fun r => { r with
        copies := r.copies.filter fun c => c.node ≠ node
        opens := kset r.opens node { o with written := o.written.filter fun w => !cs.any fun c => c.frame = w.1 } }
      let s := cs.foldl (fun s c => dropDraft n (c.ops.foldl (uncopied r o.version c) s) c.sid) s
      ((cs.flatMap (·.ops)).eraseDups).foldl cowNext s

/-- End a node's open and discard its draft (R268 to R270). -/
def endOpen (s : State) (n node : Nat) : State :=
  match kfind s.snap.regions n with
  | none => s
  | some r =>
    match kfind r.opens node with
    | none => s
    | some o =>
      let s := dropCopies s n node
      let s := modRegion s n fun r => { r with opens := kdel r.opens node }
      let s := (o.reserve ++ o.written.map (·.2)).foldl (dropDraft n) s
      reclaim s n

/-- Clear a node's expired mark. -/
def clearMark (s : State) (n node : Nat) : State :=
  modRegion s n fun r => { r with expired := r.expired.filter (· ≠ node) }

/-- Opens over all regions, and drafts of one (R258). -/
def opensAll (s : State) : Nat := s.snap.regions.foldl (fun k e => k + e.2.opens.length) 0
def draftsOf (r : SharedRegion) : Nat := (r.opens.filter fun o => o.2.draft).length

/-- The key of a byte after two ranges of a frame's size are exchanged. -/
def swapKey (a b k : Nat) : Nat :=
  if a ≤ k ∧ k < a + frameBytes then k - a + b else if b ≤ k ∧ k < b + frameBytes then k - b + a else k

/-- Exchange the bytes and poison of two ranges of a frame's size. -/
def swapFrames (s : State) (a b : Nat) : State :=
  let moved := s.mem.bytes.filter fun c => swapKey a b c.1 ≠ c.1
  let kept := s.mem.bytes.filter fun c => swapKey a b c.1 = c.1
  let lines := s.mem.poison.filter fun l => swapKey a b (l * 64) ≠ l * 64
  let rest := s.mem.poison.filter fun l => swapKey a b (l * 64) = l * 64
  { s with mem := { s.mem with
      bytes := moved.foldl (fun m c => setByte m (swapKey a b c.1) c.2) kept
      poison := lines.foldl (fun m l => insertRising (swapKey a b (l * 64) / 64) m) rest } }

/-- Operations that use a frame's current version go on with the storage that now keeps it (R263). -/
def redirect (frame sid : Nat) (s : State) : State :=
  let ops := s.mem.ops.map fun e =>
    let o := e.2
    let hit := (framesOf o.pool o.len).contains frame || (o.op = .copy && (framesOf o.srcPool o.len).contains frame)
    if !hit then e
    else if plainView o frame then (e.1, { o with views := kset o.views frame (sidBase sid) })
    else if kget o.views frame 0 = sidBase sid then (e.1, { o with views := kdel o.views frame })
    else e
  { s with mem := { s.mem with ops := ops } }

/-- Commit one written frame of a draft: its storage becomes the frame's, and the old storage keeps the old version as long
as an open holds it (R276, R280). -/
def commitFrame (n : Nat) (s : State) (w : Nat × Nat) : State :=
  match kfind s.snap.regions n with
  | none => s
  | some r =>
    let frame := r.frames.getD w.1 0
    match tierOf s frame, kfind s.snap.storage w.2 with
    | some t, some loc =>
      let s := abandonMove (abandonMove s frame stNoMapping) (w.2 + 2 ^ 26) stNoMapping
      -- R277: what a tray read that began before brings is the old version's
      let s := { s with mem := { s.mem with trayReqs := s.mem.trayReqs.map fun (e : Nat × TrayReq) =>
        if e.2.frame = frame && e.2.read then (e.1, { e.2 with excess := true }) else e } }
      let s := redirect frame w.2 (swapFrames s (frame * frameBytes) (sidBase w.2))
      let s := modTier s frame fun t => { t with loc0 := loc, tier := locTier loc }
      -- the blocks of a frame in T3 stay with its old storage
      let sid := w.2 + 2 ^ 26
      let mine := (s.mem.t3At.filter fun e => decide (e.1 / 512 = frame)).map fun e => (e.1 - frame * 512 + sid * 512, e.2)
      let others := s.mem.t3At.filter fun e => decide (e.1 / 512 ≠ frame)
      let s := { s with mem := { s.mem with t3At := mine.foldl (fun m e => kset m e.1 e.2) others,
                                            t3Index := s.mem.t3Index.map fun f => if f = frame then sid else f },
                        snap := { s.snap with storage := kset s.snap.storage w.2 t.loc0 } }
      modRegion s n fun r => { r with retained := r.retained ++ [{ frame := w.1, upTo := r.current, sid := w.2 }] }
    | _, _ => s

/-! ## The version opcodes (R264 to R279) -/

/-- End of a lease that starts now, in fabric time (R270). -/
def leaseFrom (s : State) (r : SharedRegion) : Time := s.ftime.toNat + r.leaseMs * msNs

/-- Give a node an open. -/
def setOpen (s : State) (n node : Nat) (o : VOpen) : State :=
  modRegion s n fun r => { r with opens := kset r.opens node o }

/-- The result of a version opcode: status and RESULT. -/
abbrev VResult := State × Nat × Nat

/-- OPEN_VERSION (R267, R268). -/
def openVersion (s : State) (n : Nat) (r : SharedRegion) (node : Nat) (b : List Byte) : VResult :=
  let w := leField b 0 4
  let mode := w % 4
  let renew := bits w 2 1 = 1
  let dirty := leField b 4 4
  let ver := leField b 8 8
  let bad := decide (8 ≤ w) || mode = 3 || (renew && (mode ≠ 0 || dirty ≠ 0 || ver ≠ 0)) ||
    (mode ≠ 2 && dirty ≠ 0) || decide (r.frames.length < dirty) || (mode ≠ 1 && ver ≠ 0)
  if bad then (s, stMalformed, 0)
  else if renew then
    match kfind r.opens node with
    | some o => if r.expired.contains node then (s, stStale, r.current)
                else (setOpen s n node { o with leaseEnd := leaseFrom s r }, stOk, o.version)
    | none => (s, stStale, r.current)
  else
    -- what the ended open held is free at once (R268)
    let s := sweepDying (clearMark (endOpen s n node) n node)
    match kfind s.snap.regions n with
    | none => (s, stDenied, 0)
    | some r =>
      if 65536 ≤ opensAll s then (s, stRetry, 0)
      else if mode = 0 then
        (setOpen s n node { draft := false, version := r.current, leaseEnd := leaseFrom s r }, stOk, r.current)
      else if mode = 1 then
        if ver = r.current || r.opens.any (fun o => o.2.version = ver) then
          (setOpen s n node { draft := false, version := ver, leaseEnd := leaseFrom s r }, stOk, ver)
        else (s, stStale, r.current)
      else if 16 ≤ draftsOf r then (s, stRetry, 0)
      else match takeSids dirty s with
        | none => (s, stRetry, 0)
        | some (sids, s) =>
          (setOpen s n node { draft := true, version := r.current, maxDirty := dirty, reserve := sids,
                              leaseEnd := leaseFrom s r }, stOk, r.current)

/-- PUBLISH (R275, R276, R277). -/
def publish (s : State) (n : Nat) (r : SharedRegion) (node : Nat) (b : List Byte) : VResult :=
  let base := leField b 0 8
  let keep := leField b 8 8 = 1
  if 2 ≤ leField b 8 8 then (s, stMalformed, 0)
  else match kfind r.opens node with
    | none => (s, stStale, r.current)
    | some o =>
      if !o.draft || r.expired.contains node then (s, stStale, r.current)
      else if base ≠ o.version then (s, stMalformed, 0)
      else if base ≠ r.current then (endOpen s n node, stStale, r.current)
      else
        -- copies still under way hold no written byte: they are left out (DESIGN CHOICE, log entry 148)
        let s := dropCopies s n node
        let written := o.written.filter fun w => !(copiesOf r node).any fun c => c.frame = w.1
        let s := written.foldl (commitFrame n) s
        let v := r.current + 1
        let s := o.reserve.foldl (dropDraft n) s
        let s := modRegion s n fun r =>
          { r with current := v,
                   opens := if keep then kset r.opens node { draft := false, version := v, leaseEnd := leaseFrom s r }
                            else kdel r.opens node }
        (reclaim s n, stOk, v)

/-- A version opcode reaches its home (R264 to R279): `pool` is the address that names the region. -/
def versionStart (s : State) (origin : Origin) (op : Op) (p : Req) : State :=
  let pool := p.address.toNat
  let out := fun (s : State) (st res : Nat) => reply s (homePort s pool) origin op p st 0 p.length.toNat res [] 0
  if !backed s pool 0 || decide (2 ^ 47 ≤ pool) then out s stNoMapping 0
  else if p.length = 0 then out s stOk 0
  else match regionOf s (frameOf pool) with
    | none => out s stDenied 0
    | some (n, r, _) =>
      let node := p.src.toNat
      match op with
      | .openVersion => let x := openVersion s n r node p.payload; out x.1 x.2.1 x.2.2
      | .closeVersion =>
        if leNat p.payload ≠ 0 then out s stMalformed 0
        else out (clearMark (endOpen s n node) n node) stOk 0
      | _ => let x := publish s n r node p.payload; out x.1 x.2.1 x.2.2

/-- A lease ends: the open is ended, the mark set and the event counted (R270). -/
def leaseEnds (s : State) (n node : Nat) : State :=
  match kfind s.snap.regions n with
  | none => s
  | some r =>
    match kfind r.opens node with
    | none => s
    | some o =>
      modRegion (endOpen (untilFabric s o.leaseEnd) n node) n fun r =>
        { r with expired := insertRising node r.expired, expiries := satAdd 32 r.expiries 1 }

/-- A copy-on-write copy is done: the base version's frame stands in the draft's storage, and the writes that waited go on
(R272). -/
def cowDone (s : State) (n node frame : Nat) : State :=
  match kfind s.snap.regions n with
  | none => s
  | some r =>
    match r.copies.find? fun c => c.node = node && c.frame = frame, kfind r.opens node with
    | some c, some o =>
      let src := versionBase r frame o.version
      let lines := s.mem.poison.filter fun l => decide (src ≤ l * 64 ∧ l * 64 < src + frameBytes)
      let old := s.mem.bytes.filter fun x => decide (src ≤ x.1 ∧ x.1 < src + frameBytes)
      let mem := old.foldl (fun m x => setByte m (x.1 - src + sidBase c.sid) x.2) s.mem.bytes
      let poison := lines.foldl (fun m l => insertRising ((l * 64 - src + sidBase c.sid) / 64) m) s.mem.poison
      let s := modRegion { s with mem := { s.mem with bytes := mem, poison := poison } } n fun r =>
        { r with copies := r.copies.erase c }
      let still := (s.snap.regions.flatMap fun e => e.2.copies).flatMap (·.ops)
      (c.ops.filter fun i => !still.contains i).foldl memNext s
    | _, _ => s

/-- An endpoint has been reset: its expired marks go (R271). -/
def marksGone (s : State) (node : Nat) : State :=
  { s with snap := { s.snap with regions := s.snap.regions.map fun e =>
      (e.1, { e.2 with expired := e.2.expired.filter (· ≠ node) }) } }

end Sys2Proof.Machine
end

