-- ==== Sys2Proof/Machine/DomainCore.lean ====
section
/-! DEFINITION. Machine/DomainCore.lean: coherence messages at their home, snoop answers, failed agents, ranges that are
withdrawn (05_coherence.md R199 to R237). -/
namespace Sys2Proof.Machine

/-- Change a domain. -/
def modDom (s : State) (d : Nat) (f : Domain → Domain) : State :=
  { s with coh := { s.coh with domains := kmod s.coh.domains d f } }

/-- The other homes that this switch knows from its home range table. -/
def otherHomes (s : State) : List Nat := (s.mem.homes.map (·.2)).eraseDups.filter fun n => n ≠ selfNode s

/-- Switches that the routing table reaches and that are no neighbours: which of its destinations are switches is a free value (log entry 172). -/
def routedSwitches (s : State) : List Nat :=
  (s.core.routes.map (·.1)).filter fun n => (lportOfNode s n).isNone && Config.switchNode n

/-- Every other switch of the fabric that this switch knows: as a home, as a neighbour, or through its routing table (R827). -/
def otherSwitches (s : State) : List Nat :=
  ((otherHomes s) ++ (s.lports.filterMap fun e =>
    if e.2.disc = .known && e.2.role = some .switch then e.2.partner.map (·.node) else none) ++ routedSwitches s).eraseDups.filter
    fun n => n ≠ selfNode s && n ≠ noNode

/-- Send a Wick-to-Wick message to each of a list of nodes (R827). -/
def xchgAll (payload : List Byte) : List Nat → State → State
  | [], s => s
  | n :: ns, s => xchgAll payload ns ((sendMgmt s 0x89 n payload).getD s)

/-! ## A coherence message reaches its home (R208, R221) -/

def cohStart (s : State) (origin : Origin) (op : Op) (p : Req) : State :=
  let pool := p.address.toNat
  let line := pool / 64
  let out := fun (s : State) (st : Nat) => reply s (homePort s pool) origin op p st 0 64 0 [] 0
  if decide (2 ^ 47 ≤ pool) || !backed s pool 64 then out s stNoMapping
  else
    let s := touchRange s pool 64
    let l := lineOf s line
    match agentOf s l.domain p.src.toNat with
    | none => out s stDenied
    | some a =>
      -- R211: the agent's most recent request for the line is this one
      let asks := op = .rdShared || op = .rdOwn || op = .upgrade
      let s := if asks && l.granted.contains a then setLine s line { l with granted := l.granted.filter (· ≠ a) } else s
      if isFailed s l.domain a || s.coh.unreset.contains (l.domain, p.src.toNat) then out s stDenied
      else if (op = .wbDirty || op = .evictClean) && snoopedOwner s line a then
        let s := takeCrossing s line a op p origin
        if txnReady s line then lineGo s line else s
      else if (domainOf s line).isNone then out s stDenied
      else lineJoin s line (.coh op a p origin)

/-! ## Snoop answers (R212, R227, R228, R235) -/

/-- The line whose transaction awaits this answer, and the agent. -/
def snoopLine (s : State) (r : Resp) : Option (Nat × Nat) :=
  s.coh.lines.findSome? fun e =>
    match agentOf s e.2.domain r.rspNode.toNat with
    | some a => if (e.2.txn.map fun t => t.tag % 65536 = r.tag.toNat && t.awaiting.contains a &&
        r.reqOpcode.toNat = (if t.inv then 0x48 else 0x49)).getD false then some (e.1, a) else none
    | none => none

/-- The RESULT of a snoop answer is well formed: a state kept of I or S, HAD_COPY, nothing else. -/
def snoopResultOk (r : Resp) : Bool :=
  decide (r.result.toNat < 8) && decide (r.result.toNat % 4 ≤ 1) && (r.data.isEmpty || r.data.length = 64)

/-- A node is a failed member of some domain, or has not been reset since it failed (R235). -/
def failedNode (s : State) (node : Nat) : Bool :=
  (s.coh.domains.any fun e => e.2.members.any fun m => m.2 = node && e.2.failed.contains m.1) || s.coh.unreset.any fun e => e.2 = node

/-- A line's awaited agents count as not answering (R231): the transaction goes on without them. -/
def dropAwaited (s : State) (line : Nat) (gone : Nat → Bool) : State :=
  let s := failLine s line
  let l := lineOf s line
  match l.txn with
  | none => s
  | some t =>
    if t.awaiting.any gone then
      let t := { t with awaiting := t.awaiting.filter fun a => !gone a }
      let s := setLine s line { l with txn := some t }
      if txnReady s line then lineGo s line else s
    else s

/-- An agent's answer reaches the home. One of a failed agent is discarded and counted, and the line, touched, awaits it no more (R232, R235). -/
def snoopAnswer (s : State) (r : Resp) : State :=
  match snoopLine s r with
  | none => if failedNode s r.rspNode.toNat then bump s .snoopDrop
            else if r.result.toNat = 0 then bump s .crossing else violatePkt (bump s .snoopDrop) r.lport 4 (.resp r)
  | some (line, a) =>
    let l := lineOf s line
    if isFailed s l.domain a then dropAwaited (bump s .snoopDrop) line (isFailed s l.domain) else
    let had := r.result.getLsbD 2
    if !had && r.data.isEmpty && (l.st = .e || l.st = .m) && l.owner = a then
      setLine s line { l with txn := l.txn.map fun t => { t with noCopy := insertRising a t.noCopy } }
    else
      let s := noteAnswer s line a (r.result.toNat % 4 = 1)
      let s := if r.data.isEmpty then s else lineWrite s line .snooped (snoopedReq s line) r.data
      if txnReady s line then lineGo s line else s

/-! ## Failed agents (R231 to R235) -/

/-- Mark an agent failed for a cause of R984: the FAILED bit, the report, the message to the other homes, the sweep. Which other switches are
homes of the domain a home does not know: the message goes to every home of the home range table, and those without the domain ignore it.
The agent's node must be reset before it takes part again (R235): here, or at the switch whose RESET message says so (R823, R983). -/
def agentFail (s : State) (d a cause : Nat) : State :=
  match domOf s d with
  | none => s
  | some x =>
    match kfind x.members a with
    | none => s
    | some node =>
      if x.failed.contains a then s
      else
        let s := modDom s d fun x => { x with failed := insertRising a x.failed }
        let s := setField s (rDomain d) (32 + a) 1 1
        let s := { s with coh := { s.coh with sweeps := s.coh.sweeps ++ [(d, a)],
                                              unreset := if cause = 2 || s.coh.unreset.contains (d, node) then s.coh.unreset
                                                         else s.coh.unreset ++ [(d, node)] } }
        let s := match lportOfNode s node with
          | some n => penal s n 400
          | none => s
        let s := report s 0x09 node ((lportOfNode s node).getD noLport) (d + 2 ^ 8 * a + 2 ^ 16 * cause)
        if cause = 3 then s
        else xchgAll (xchgPayload 5 0x0B 0x04 x.partition node (leBytes 4 d ++ leBytes 4 a)) (otherHomes s) s

/-- Every domain in which a node is a member marks it failed (R983). A reset (cause 2) also ends the wait for one (R235). -/
def nodeFails (s : State) (node cause : Nat) : State :=
  let s := s.coh.domains.foldl (fun s e =>
    (e.2.members.filter fun m => m.2 = node).foldl (fun s m => agentFail s e.1 m.1 cause) s) s
  if cause = 2 then { s with coh := { s.coh with unreset := s.coh.unreset.filter fun e => e.2 ≠ node } } else s

/-- Another home reports an agent failed (R233). Domain numbers are each home's own (R199): the message's partition, agent index and node tell
which of this home's domains it concerns (DESIGN CHOICE, log entry 147). -/
def reportedFail (s : State) (part a node : Nat) : State :=
  (s.coh.domains.filter fun e => e.2.partition = part && kfind e.2.members a = some node).foldl (fun s e => agentFail s e.1 a 3) s

/-- The home timeout of a line ends (R231). -/
def lineTimeout (s : State) (line : Nat) : State :=
  let l := lineOf s line
  match l.txn with
  | none => s
  | some t =>
    if t.awaiting.isEmpty || t.waitTenure then s
    else
      let s := untilTime s t.deadline
      dropAwaited (t.awaiting.foldl (fun s a => agentFail s l.domain a 0) s) line fun _ => true

/-- An uncorrectable directory entry (R218): it is counted and logged, every member is sent SNP_INV for the line, any data returned is
written, and the line goes to I. Where the line has a transaction, that ends first. -/
def entryError (s : State) (line : Nat) : State :=
  match kfind s.coh.lines line with
  | some l =>
    let s := note (bump s .dirEcc) "DIRECTORY_ECC_ERROR" [line]
    lineRun 1026 (setLine s line { l with queue := .entry :: l.queue }) line
  | none => s

/-- The directory sweep after a failure (R232); `bad` are the lines of the domain whose entries are found uncorrectable (R218). -/
def sweepAgent (s : State) (d a : Nat) (bad : List Nat) : State :=
  let s := (bad.filter fun l => (lineOf s l).domain = d).foldl entryError s
  if !s.coh.sweeps.contains (d, a) then s
  else
    let s := { s with coh := { s.coh with sweeps := s.coh.sweeps.filter (· ≠ (d, a)) } }
    (s.coh.lines.filter fun e => (lineOf s e.1).domain = d).foldl (fun s e => dropAwaited s e.1 (· = a)) s

/-! ## Domains and ranges that go (R202) -/

/-- Withdraw lines: each is invalidated in its turn. -/
def leaveLines (s : State) (which : Nat → Line → Bool) : State :=
  (s.coh.lines.filter fun e => which e.1 e.2).foldl (fun s e =>
    let l := lineOf s e.1
    lineRun 1026 (setLine s e.1 { l with leaving := true, queue := l.queue ++ [.inval] }) e.1) s

/-- Complete the commands whose lines are all invalidated (R202): a destroyed domain is gone. -/
def leaveDone (s : State) : State :=
  let busy := s.coh.lines.filter fun e => e.2.leaving
  let gone := s.coh.domains.filter fun e => e.2.destroying.isSome && !busy.any fun l => l.2.domain = e.1
  let s := gone.foldl (fun s e =>
    let s := { s with coh := { s.coh with domains := kdel s.coh.domains e.1, unreset := s.coh.unreset.filter fun x => x.1 ≠ e.1 },
                      cfg := kset s.cfg (rDomain e.1) (setBits (setBits (setBits (regWord s (rDomain e.1)) 0 1 0) 20 10 0) 32 32 0) }
    completeAll s (e.2.destroying.getD []) stOk) s
  let done := s.coh.leaving.filter fun e => !busy.any fun l => l.1 * 64 / GiB = e.1
  let s := { s with coh := { s.coh with leaving := s.coh.leaving.filter fun e => !done.contains e } }
  completeAll s (done.map (·.2)) stOk

end Sys2Proof.Machine
end

