-- ==== Sys2Proof/Machine/TearCore.lean ====
section
/-! DEFINITION. Machine/TearCore.lean: teardown of a partition as far as it runs by itself, revocations, the Snuffer scrub
(17_security.md R759 to R766), and a function's reset (20_hyser_interface.md R831). -/
namespace Sys2Proof.Machine

/-! ## A function-level reset (R831, R840) -/

/-- A function's commands in progress lose their completions, and completions not yet written are dropped and counted (R831,
R840): of one queue pair, or of every one. -/
def orphan (s : State) (fn : Nat) (which : Nat → Bool) : State :=
  modFn s fn fun x =>
    let lost := (x.done.filter fun d => which d.qp).length
    { x with inFlight := x.inFlight.map fun i => if which i.qp then { i with orphan := true } else i
             done := x.done.filter fun d => !which d.qp
             droppedCompletions := min 65535 (x.droppedCompletions + lost) }

/-- A function-level reset (R831): the function's Hyser state goes back to its reset values; commands in progress go on
without a completion. -/
def fnReset (s : State) (fn : Nat) : State :=
  let s := orphan s fn fun _ => true
  let s := modFn s fn fun x => { inFlight := x.inFlight, droppedCompletions := x.droppedCompletions }
  if fn = 0 then
    { s with hys := { s.hys with evq := {} }, boot := { s.boot with mbx := {} } }
  else s

/-! ## Scrubs (R762 to R766) -/

/-- The device that a stretch of storage lies on: a stack, or 8 and more for a tray slot. -/
def pieceDev (p : Piece) : Nat :=
  if p.addr < 0x200000000000 then t1Stack (t1FrameOf (p.addr / 4096)) else 8 + locSlot (p.addr / 4096)

/-- What a scrub writes to a stretch (R595, R762): 64 zero bytes a line, encrypted under its key. -/
def scrubBytes (key : Nat) (p : Piece) : List Byte :=
  (natRange 0 (p.len / 64)).flatMap fun i => Config.xtsEncrypt key (BitVec.ofNat 128 (p.tweak + p.step * i)) (List.replicate 64 0)

/-- Send the writes that scrub a stretch: accesses of class BULK in T1 (R143, R763), a STORE to a tray. A slot without a route leaves the
stretch unanswered. -/
def scrubSend (s : State) (c : Scrub) (p : Piece) : State :=
  if p.addr < 0x200000000000 then
    match t1Owner s (t1FrameOf (p.addr / 4096)) with
    | some r => (t1Access s r { id := 0, cls := .bulk, group := 0, arrived := 0, op := 0, frame := p.frame, read := false } p.addr p.len).1
    | none => s
  else
    let loc := p.addr / 4096
    match kfind s.mem.slots (locSlot loc) with
    | none => s
    | some v =>
      let x := p.addr % 2 ^ 40
      let node := v.nodes.getD (x / 4096 % v.nodes.length) noNode
      let base := (if locTier loc = .t2 then v.t2Off else v.t3Off) * GiB
      let tag := s.ing.ownTag
      let pkt : Req :=
        { lport := 1000, tc := 7, vc := 3, partition := 0, ast := 0, src := BitVec.ofNat 15 (selfNode s),
          dst := BitVec.ofNat 15 node, tag := BitVec.ofNat 16 tag, length := BitVec.ofNat 24 p.len,
          address := BitVec.ofNat 64 (base + x), seq := BitVec.ofNat 32 (ownNum s node), flags := 2,
          payload := scrubBytes c.key p }
      sendPkt (bumpOwn { s with waits := kset s.waits tag (.scrub c.part p.addr) } node) wickPort (internal wickPort) false
        (.req .store pkt)

/-- The first stretch left on each device. -/
def scrubHeads : List Piece → List Nat → List Piece
  | [], _ => []
  | p :: ps, seen => if seen.contains (pieceDev p) then scrubHeads ps seen else p :: scrubHeads ps (pieceDev p :: seen)

/-- A scrub may start: its partition's key is destroyed, or its frames were left out and are to be written again. -/
def scrubReady (s : State) (c : Scrub) : Bool :=
  !c.running && (c.part = 1025 || (decide (c.part < 1024) && (partOf s c.part).st = .scrubbing))

/-- Change a scrub. -/
def modScrub (s : State) (part : Nat) (f : Scrub → Scrub) : State :=
  { s with sec := { s.sec with scrubs := s.sec.scrubs.map fun c => if c.part = part then f c else c } }

/-- Frames that a list of stretches belongs to. -/
def pieceFrames (l : List Piece) : List Nat := (l.map (·.frame)).eraseDups

/-- What a scrub leaves out of the free storage, as a record that waits for its tray to return (R765). -/
def leaveOut (s : State) (c : Scrub) : State :=
  if c.failed.isEmpty then s
  else
    let f := c.frames.filter fun l => c.failed.any fun p => decide (l * 4096 ≤ p.addr ∧ p.addr < l * 4096 + frameBytes)
    let u := (c.failed.filter fun p => locTier (p.addr / 4096) = .t3).map fun p => (p.addr / 64, p.len / 64)
    leaveToScrub (note s "SCRUB_LEFT" (pieceFrames c.failed)) 1024 f u c.failed

/-- Step 7 of R759: the partition is FREE, its VF is reset, and the commands complete. -/
def partGone (s : State) (n left : Nat) : State :=
  let s := fnReset s (n + 1)
  let s := { s with
    parts := kset s.parts n { keyGen := (partOf s n).keyGen }
    lports := s.lports.map fun (e : Nat × LPort) => (e.1, { e.2 with parts := e.2.parts.filter (· ≠ n) })
    coh := { s.coh with decoders := s.coh.decoders.filter fun e => e.2.partition ≠ n }
    shape := { s.shape with l2 := s.shape.l2.filter fun e => e.1 / 8 ≠ n }
    mem := { s.mem with classOn := kdel s.mem.classOn n } }
  let by_ := (kget s.sec.tearing n { by_ := [] }).by_
  let s := { s with sec := { s.sec with tearing := kdel s.sec.tearing n, bound := kdel s.sec.bound (n + 1),
                                        lockNonce := kdel s.sec.lockNonce (n + 1) } }
  by_.foldl (fun s r => complete s r (if left = 0 then stOk else stPartial) left []) s

/-- Scrubs whose last write is done end: the key is destroyed (R762), and a partition becomes FREE (R759). -/
def scrubEnds (s : State) : State :=
  let ended := s.sec.scrubs.filter fun c => c.running && c.todo.isEmpty
  ended.foldl (fun s c =>
    let s := leaveOut { s with sec := { s.sec with scrubs := s.sec.scrubs.filter fun d => d.part ≠ c.part } } c
    if c.part < 1024 then partGone s c.part (pieceFrames c.failed).length else s) s

/-- Start waiting scrubs while fewer than four run (R766). -/
def scrubStart (s : State) : State :=
  let room := 4 - (s.sec.scrubs.filter (·.running)).length
  ((s.sec.scrubs.filter (scrubReady s)).take room).foldl (fun s c =>
    let key := 2 ^ 43 + s.sec.keys
    let s := { s with sec := { s.sec with keys := s.sec.keys + 1 } }
    let c' : Scrub := { c with running := true, key := key }
    (scrubHeads c.todo []).foldl (fun s p => scrubSend s c' p) (modScrub s c.part fun _ => c')) s

/-- A write of a scrub ends: the next one on its device starts (R762, R763, R765). -/
def scrubDone (s : State) (part addr : Nat) (ok : Bool) : State :=
  match s.sec.scrubs.find? fun c => c.part = part && c.running with
  | none => s
  | some c =>
    match (scrubHeads c.todo []).find? fun p => p.addr = addr with
    | none => s
    | some p =>
      let s := { s with waits := s.waits.filter fun e => e.2 ≠ .scrub part addr }
      let c' : Scrub := { c with todo := c.todo.filter (· ≠ p), failed := if ok then c.failed else c.failed ++ [p] }
      let s := modScrub s part fun _ => c'
      match (scrubHeads c'.todo []).find? fun q => pieceDev q = pieceDev p with
      | some q => scrubSend s c' q
      | none => s

/-- Frames that scrubs left out are written again: a route to a tray has returned (R765). -/
def rescrub (s : State) : State :=
  if s.sec.scrubs.any fun c => c.part = 1025 then s
  else { s with sec := { s.sec with scrubs := s.sec.scrubs.map fun c => if c.part = 1024 then { c with part := 1025, failed := [] } else c } }

/-! ## Steps 4 to 6 of R759 -/

/-- Gigabytes homed here that a mapping of a partition created. -/
def pagesOfPart (s : State) (n : Nat) : List Nat :=
  (s.mem.counts.filter fun e => ((tierOf s (e.1 * 512)).map fun t => decide (t.partition = n)).getD false).map (·.1)

/-- Steps 2 and 4 have ended: no domain and no AST of the partition is left, and every map count concerned is 0. -/
def unmapped (s : State) (n : Nat) : Bool :=
  !(s.coh.domains.any fun e => e.2.partition = n) && !(s.xl.asts.any fun e => e.2.partition = n) && (pagesOfPart s n).isEmpty

/-- Steps 5 and 6: the memory key pair is destroyed, and the scrub may start. -/
def keyGone (s : State) (n : Nat) : State :=
  leaveToScrub (modPart s n fun p => { p with st := .scrubbing }) n [] [] []

/-- A window change holds no longer for another switch's requests that will never be answered (a tray is silent, R158) and that a reset or
a teardown releases (R188, R197). One that still runs goes on (R760). -/
def windowReleased (s : State) (which : Req → Bool) : State :=
  ((s.mem.ops.filter fun e => e.2.origin = .remote && which e.2.p && s.mem.trayReqs.any fun t => t.2.op = e.1 && t.2.late).map (·.1)).foldl windowStep s

/-- A request of a partition held under R88 is released and counted (R759). -/
def releasePart (s : State) (n : Nat) : State :=
  let gone := (s.ing.outs.filter fun e => e.2.phase = .unanswered && e.2.p.partition.toNat = n).map (·.1)
  let s := windowReleased s fun p => p.partition.toNat = n
  gone.foldl (fun s id => requestGone (bump s .tearReleased) id) s

/-- Holds of R88 on a node's requests are released: they are complete without an answer (R88, R188). -/
def releaseHolds (s : State) (which : OutReq → Bool) : State :=
  let gone := (s.ing.outs.filter fun e => e.2.phase = .unanswered && which e.2).map (·.1)
  gone.foldl requestGone s

/-- Answer the revocations of other homes whose invalidations have ended (R759). -/
def revokesDone (s : State) : State :=
  let excess := s.sec.revokes.filter fun e => !s.xl.invals.any fun v => v.kind = .revoke e.1
  excess.foldl (fun s e => answer s (.mgmt 0x89) e.2 stOk 0)
    { s with sec := { s.sec with revokes := s.sec.revokes.filter fun e => !excess.contains e } }

/-- Teardowns and scrubs go on as far as they can. -/
def tearAll (s : State) : State :=
  let s := revokesDone s
  if s.sec.tearing.isEmpty && s.sec.scrubs.isEmpty then s
  else
    let on := (s.sec.tearing.filter fun e => (partOf s e.1).st = .tearing).map (·.1)
    let s := on.foldl releasePart s
    let s := on.foldl (fun s n => if unmapped s n then keyGone s n else s) s
    scrubStart (scrubEnds (scrubStart s))

/-- The answer to a revocation (R759): the switch's references are gone. -/
def revoked (s : State) (gib node : Nat) : State :=
  let n := ((kfind s.mem.counts gib).map fun c => kget c.refs node 0).getD 0
  let s := { s with mem := { s.mem with counts := kmod s.mem.counts gib fun c => { c with refs := kdel c.refs node } } }
  (natRange 0 n).foldl (fun s _ => dropRef s gib) s

/-- Step 4 begins: the partition's ASTs are unmapped and destroyed, and references to its gigabytes revoked, here and at the
switches that hold them. -/
def unmapPart (s : State) (n : Nat) : State :=
  let mine := s.xl.asts.filter fun e => e.2.partition = n
  let s := mine.foldl (fun s e =>
    invalidate (invalidate s e.1 (.unmap 0 (tableEntries e.2)) none) e.1 .destroy none) s
  (pagesOfPart s n).foldl (fun s g =>
    let others := ((s.xl.ptes.filter fun e => e.2.page = g).map fun e => e.1 / 2 ^ 18).eraseDups.filter fun t =>
      ((astOf s t).map (·.partition)) ≠ some n
    let s := others.foldl (fun s t => invalidate s t (.revoke g) none) s
    ((kfind s.mem.counts g).map (·.refs)).getD [] |>.foldl (fun s r =>
      let tag := s.ing.ownTag
      match sendMgmt s 0x89 r.1 (xchgPayload 2 0x02 0x06 n (g * GiB) []) with
      | some t => { t with waits := kset t.waits tag (.revoke n g r.1) }
      | none => s) s) s

/-- MAP_REVOKE arrives (R759): the entries that translate to the gigabyte are invalidated, and the partition's held requests
released. -/
def gotRevoke (s : State) (p : Req) (part gib : Nat) : State :=
  let s := { s with sec := { s.sec with revokes := s.sec.revokes ++ [(gib, p)] } }
  let asts := ((s.xl.ptes.filter fun e => e.2.page = gib).map fun e => e.1 / 2 ^ 18).eraseDups
  let s := asts.foldl (fun s t => invalidate s t (.revoke gib) none) s
  releasePart s part

end Sys2Proof.Machine
end

