-- ==== Sys2Proof/Machine/Ingress.lean ====
section
/-! DEFINITION. Machine/Ingress.lean: a request at its ingress switch: the check (02 R84, R85), buckets (16 R696 to
R700), order and fences (R92 to R99), splitting and forwarding (04 R189, R64), combining and hot lines (05 R243 to
R254). -/
namespace Sys2Proof.Machine

/-- What the engines of the later chapters bring in: starting a request at its engine, as this ingress's request or as
another switch's, and whether a handle belongs to the request's partition (R72). -/
structure Hooks where
  start : State → Origin → Op → Req → State
  handleOk : State → Op → Req → Bool
  /-- the virtual ranges that a compute request's own fields name: address and bytes (R96, R360, R377) -/
  ranges : State → Op → Req → List (Nat × Nat)
  /-- a response to a request that an engine of this switch sent -/
  respond : State → Resp → State
  /-- the engines go on as far as they can -/
  finish : State → State

/-! ## The ingress check (R84) -/

/-- Bit of the partition record that enables an opcode (R728). -/
def opBit : Op → Nat
  | .load | .store | .storeClearPoison | .fence => 0
  | .copy => 1
  | .atomic _ => 2
  | .openVersion | .closeVersion | .publish => 3
  | .rdShared | .rdOwn | .upgrade | .wbDirty | .evictClean => 4
  | .collContrib => 5
  | .gather | .scatter => 6
  | .search => 7
  | .attend => 8
  | .filter => 9
  | .run => 10
  | .ownerCas => 11
  | _ => 0

/-- An opcode that only switches send (R73, R205). -/
def switchOnly : Op → Bool
  | .collPartial | .collDeliver | .snpInv | .snpShare => true
  | _ => false

/-- A permission need: read, write, atomic (R167, R207, R264). -/
structure Need where
  ast : Nat
  page : Nat
  r : Bool
  w : Bool
  a : Bool
deriving DecidableEq, Repr

/-- Pages of a virtual range; the page of its address when it is empty (step 9). -/
def pagesOf (va n : Nat) : List Nat :=
  if n = 0 then [va / GiB] else natRange (va / GiB) ((va + n - 1) / GiB - va / GiB + 1)

/-- MODE WRITE of an OPEN_VERSION (R267). -/
def openWrites (p : Req) : Bool := leField p.payload 0 4 % 4 = 2

/-- The pages and permissions that steps 9 and 10 ask for. -/
def needsOf (op : Op) (p : Req) : List Need :=
  if addrForm p ≠ 0 then []
  else
    let t := p.ast.toNat
    let mk := fun (r w a : Bool) (va n : Nat) => (pagesOf va n).map fun g => Need.mk t g r w a
    let va := p.address.toNat
    let n := p.length.toNat
    match op with
    | .load => mk true false false va n
    | .store | .storeClearPoison => mk false true false va n
    | .copy => mk true false false (copySrc p) n ++ mk false true false va n
    | .atomic _ => mk true true true va n
    | .openVersion => mk true (openWrites p) false va 0
    | .closeVersion => mk true false false va 0
    | .publish => mk true true false va 0
    | .rdShared | .evictClean => mk true false false va 64
    | .rdOwn | .upgrade | .wbDirty => mk true true false va 64
    | .fence => mk false false false va n
    | _ => []

/-- The entry for a page under the AST's current generation: known (valid or not), or to be walked for. -/
def lookPage (s : State) (got : List ((Nat × Nat) × Option Pte)) (t g : Nat) : Option (Option Pte) :=
  match astOf s t with
  | none => some none
  | some a =>
    if tableEntries a ≤ g then some none
    else match (got.find? fun e => e.1 = (t, g)) with
      | some e => some e.2
      | none => (cacheHit s t a.gen g).map some

/-- Pages whose walk must end before steps 9 and 10 can be judged. -/
def missing (s : State) (got : List ((Nat × Nat) × Option Pte)) (ns : List Need) : List (Nat × Nat) :=
  (ns.filter fun n => (lookPage s got n.ast n.page).isNone).map fun n => (n.ast, n.page)

/-- Steps 9 and 10 over known pages. -/
def judgePages (s : State) (got : List ((Nat × Nat) × Option Pte)) (ns : List Need) : Nat :=
  let look := fun n : Need => (lookPage s got n.ast n.page).getD none
  if ns.any fun n => (look n).isNone then stNoMapping
  else if ns.any fun n => match look n with
      | some e => (n.r && !e.r) || (n.w && !e.w) || (n.a && !e.a)
      | none => true
    then stDenied
  else stOk

/-- Home ranges of a rack flat range (R111, R168). -/
def flatOk (s : State) (op : Op) (p : Req) : Bool :=
  let n := p.length.toNat
  let ok := fun a => (pagesOf a n).all fun g => decide (g < 131072) && (homeOf s (g * GiB)).isSome
  ok p.address.toNat && (op ≠ .copy || ok (copySrc p))

/-- The outcome of the ingress check. -/
inductive Verdict where
  /-- step 2: silent drop with counter -/
  | drop
  | fail (status : Nat)
  | walk (pages : List (Nat × Nat))
  | pass
deriving DecidableEq, Repr

/-- A port is a member of a partition (R729): a host bridge through its decoders. -/
def memberOf (s : State) (lport part : Nat) : Bool :=
  if isBridge lport then s.coh.decoders.any fun e => e.1 / 16 = lport - 512 && e.2.partition = part
  else portMember s lport part

/-- The ten steps in their order (R84). Step 8 asks for the AST of every request under the partition virtual form. Of a FENCE, whose
LENGTH is 0, step 9 asks that the page holding ADDRESS is mapped (R101), and step 10 nothing; of a compute request, whose ADDRESS is a handle,
steps 9 and 10 ask nothing (DEDUCED, log entry 133). -/
def ingressCheck (h : Hooks) (s : State) (op : Op) (p : Req) (got : List ((Nat × Nat) × Option Pte)) : Verdict :=
  let l := lportOf s p.lport
  let pt := partOf s p.partition.toNat
  let form := addrForm p
  if !step1Ok op p then .fail stMalformed
  else if l.node ≠ some p.src.toNat then .drop
  else if !step3Ok (selfNode s) op p then .fail stMalformed
  else if !memberOf s p.lport p.partition.toNat then .fail stDenied
  else if pt.st = .tearing || pt.st = .scrubbing then .fail stTornDown
  else if (form = 1 && !l.flat) || (form = 2 && !l.nodePriv) || switchOnly op then .fail stDenied
  else if !pt.ops.testBit (opBit op) && opBit op ≠ 0 then .fail stUnsupported
  else if form = 0 && (match astOf s p.ast.toNat with
       | some a => decide (a.partition ≠ p.partition.toNat)
       | none => true) then .fail stDenied
  else if isCompute op && !h.handleOk s op p then .fail stDenied
  else if form = 1 && !flatOk s op p then .fail stNoMapping
  else
    let ns := needsOf op p
    match missing s got ns with
    | [] => if judgePages s got ns = stOk then .pass else .fail (judgePages s got ns)
    | ms => .walk ms.eraseDups

/-! ## Translation and splitting (R189) -/

/-- Pool address of a virtual address under known pages. -/
def translate (s : State) (got : List ((Nat × Nat) × Option Pte)) (p : Req) (va : Nat) : Nat :=
  if addrForm p ≠ 0 then va
  else match lookPage s got p.ast.toNat (va / GiB) with
    | some (some e) => e.page * GiB + va % GiB
    | _ => 0

/-- Cut a range at every gigabyte of the destination and of the source. -/
def cuts (va src n off : Nat) : Nat → List (Nat × Nat)
  | 0 => []
  | fuel + 1 =>
    if n ≤ off then []
    else
      let k := min (n - off) (min (GiB - (va + off) % GiB) (GiB - (src + off) % GiB))
      (off, k) :: cuts va src n (off + k) fuel

/-- Join neighbouring parts that are contiguous at one home, and whose sources are (R189). -/
def joinParts (s : State) (copy : Bool) : List ReqPart → List ReqPart
  | [] => []
  | p :: ps =>
    match joinParts s copy ps with
    | [] => [p]
    | q :: qs =>
      if p.pool + p.len = q.pool && p.home = q.home &&
          (!copy || (p.srcPool + p.len = q.srcPool && homeOf s p.srcPool = homeOf s q.srcPool))
      then { p with len := p.len + q.len } :: qs
      else p :: q :: qs

/-- The windows' pool addresses of a request's range, and of a COPY's source, each with the index of its window plus 1 (R190, R195, R197):
none where one has no window entry. -/
def windowsOf (s : State) (op : Op) (a src n : Nat) : Option ((Nat × Nat) × (Nat × Nat)) :=
  match op with
  | .copy => (windowOf s a n).bind fun d => (windowOf s src n).map fun b => (d, b)
  | _ => (windowOf s a n).map fun d => (d, (0, 0))

/-- The parts of a request that passed the check. A node offset of this switch is translated now (R197). -/
def partsOf (s : State) (op : Op) (p : Req) (got : List ((Nat × Nat) × Option Pte)) : List ReqPart :=
  let n := p.length.toNat
  let va := p.address.toNat
  if addrForm p = 2 then
    let win := if p.dst.toNat = selfNode s ∧ isMemory op then windowsOf s op va (copySrc p) n else none
    [{ off := 0, len := n, pool := va, srcPool := copySrc p, home := p.dst.toNat, win := win }]
  else if isCompute op || op = .fence then []
  else
    let copy := op = .copy
    let one := fun (o k : Nat) =>
      let a := translate s got p (va + o)
      ({ off := o, len := k, pool := a, srcPool := if copy then translate s got p (copySrc p + o) else 0,
         home := (homeOf s a).getD noNode } : ReqPart)
    let whole := match op with
      | .load | .store | .storeClearPoison | .copy => false
      | _ => true
    if n = 0 || whole then [one 0 n] else joinParts s copy ((cuts va (if copy then copySrc p else 0) n 0 8).map fun c => one c.1 c.2)

/-- Homes and lines of the virtual ranges of a compute request, each as far as its pages are valid. -/
def reachOf (s : State) (p : Req) (rs : List (Nat × Nat)) : List (Nat × Nat × Nat) :=
  rs.flatMap fun r => if r.2 = 0 then [] else (pagesOf r.1 r.2).filterMap fun g =>
    (pteOf s p.ast.toNat g).map fun e =>
      let lo := max r.1 (g * GiB)
      let hi := min (r.1 + r.2) ((g + 1) * GiB)
      let x := e.page * GiB + lo % GiB
      ((homeOf s x).getD noNode, x / 64, (x + (hi - lo) - 1) / 64)

/-! ## Sequence numbers, order and fences (R93 to R100) -/

/-- a is lower than b, modulo 2^32. -/
def seqLess (a b : Nat) : Bool := decide ((b + 2 ^ 32 - a) % 2 ^ 32 ≠ 0 ∧ (b + 2 ^ 32 - a) % 2 ^ 32 < 2 ^ 31)

/-- Take arrived numbers off the front of a gap. -/
def closeGap (p : SeqPair) : Nat → SeqPair
  | 0 => p
  | fuel + 1 =>
    if p.above.any fun a => a.1 = p.next then
      closeGap { p with next := (p.next + 1) % 2 ^ 32, above := p.above.filter fun a => a.1 ≠ p.next } fuel
    else p

/-- A number of a pair has arrived (R93, R100). -/
def seqArrive (clk : Time) (q : Nat) (p : SeqPair) : SeqPair :=
  if q = p.next then
    let r := closeGap { p with next := (p.next + 1) % 2 ^ 32 } (p.above.length + 1)
    { r with logged := r.logged.bind fun l => if seqLess r.next l then some l else none }
  else if seqLess p.next q && !(p.above.any fun a => a.1 = q) then { p with above := (q, clk) :: p.above }
  else p

/-- The first number from m on that has not arrived. -/
def missingFrom (p : SeqPair) : Nat → Nat → Nat
  | 0, m => m
  | fuel + 1, m => if p.above.any fun a => a.1 = m then missingFrom p fuel ((m + 1) % 2 ^ 32) else m

/-- The first missing number of a gap that has not been logged. -/
def gapStart (p : SeqPair) : Nat := missingFrom p (p.above.length + 1) (p.logged.getD p.next)

/-- When the first request numbered above m arrived (R100). -/
def firstAbove (p : SeqPair) (m : Nat) : Option Time :=
  (p.above.filter fun a => seqLess m a.1).foldl (fun (b : Option Time) a =>
    match b with
    | none => some a.2
    | some t => some (min t a.2)) none

/-- The number that ends a gap that begins at m: the lowest that has arrived above it. -/
def gapEnd (p : SeqPair) (m : Nat) : Nat :=
  (p.above.filter fun a => seqLess m a.1).foldl (fun b a => if (a.1 + 2 ^ 32 - m) % 2 ^ 32 < (b + 2 ^ 32 - m) % 2 ^ 32 then a.1 else b)
    ((m + 2 ^ 32 - 1) % 2 ^ 32)

/-- Note a request's number. -/
def noteSeq (s : State) (p : Req) : State :=
  let src := p.src.toNat
  let dst := p.dst.toNat
  let ps := if s.ing.pairs.any fun e => e.src = src && e.dst = dst then s.ing.pairs
            else s.ing.pairs ++ [{ src := src, dst := dst }]
  { s with ing := { s.ing with pairs := ps.map fun e =>
      if e.src = src && e.dst = dst then seqArrive s.clk p.seq.toNat e else e } }

/-- A number below q of a pair is missing, and has been logged: a FENCE of number q is never answered (R100). -/
def gapToldBelow (s : State) (src dst q : Nat) : Bool :=
  match s.ing.pairs.find? fun e => e.src = src && e.dst = dst with
  | some e => e.logged.isSome && seqLess e.next q
  | none => false

/-- Every number of a pair below q has arrived. -/
def noGapBelow (s : State) (src dst q : Nat) : Bool :=
  match s.ing.pairs.find? fun e => e.src = src && e.dst = dst with
  | some e => !seqLess e.next q
  | none => true

/-- Of two requests of one source to one destination, the earlier is the one of the lower number; requests to different destinations
have no order (R95, R96). -/
def earlier (a b : Nat × OutReq) : Bool := a.2.p.dst = b.2.p.dst && seqLess a.2.p.seq.toNat b.2.p.seq.toNat

/-- The pool address of a part's range, and of its source: as the windows of this switch translated a node offset (R190); at another node its
windows are not known here, and the offset stands for itself (log entry 134). -/
def partPool (p : ReqPart) : Nat := (p.win.map (·.1.1)).getD p.pool
def partSrc (p : ReqPart) : Nat := (p.win.map (·.2.1)).getD p.srcPool

/-- Home and line of every byte of a request's parts. -/
def touched (o : OutReq) : List (Nat × Nat) :=
  o.parts.flatMap fun p => (linesOf (partPool p) p.len ++ (if o.op = .copy then linesOf (partSrc p) p.len else [])).map fun l => (p.home, l)

/-- The dependency order of channels, by virtual channel (R69). The order between COL (4) and BLK (5), which R69 names together, is a
DESIGN CHOICE (log entry 135): COL before BLK, as the virtual channels are numbered. -/
def vcOf (o : OutReq) : Nat := tcVc o.p.tc.toNat

/-- Stretches of lines that a request touches, each with its home: its parts', and what a compute request reads and writes (R96). -/
def spansOf (o : OutReq) : List (Nat × Nat × Nat) :=
  let span := fun (home x n : Nat) => if n = 0 then [] else [(home, x / 64, (x + n - 1) / 64)]
  (o.parts.flatMap fun p => span p.home (partPool p) p.len ++ (if o.op = .copy then span p.home (partSrc p) p.len else [])) ++ o.reach

/-- Two requests touch a common line of the same home's pool memory (R96). -/
def meets (a b : OutReq) : Bool :=
  (spansOf a).any fun x => (spansOf b).any fun y => decide (x.1 = y.1 ∧ x.2.1 ≤ y.2.2 ∧ y.2.1 ≤ x.2.2)

/-- Earlier requests of the same source and destination that are not complete and touch a common line (R96). -/
def lineBlockers (s : State) (me : Nat × OutReq) : List (Nat × OutReq) :=
  s.ing.outs.filter fun e => e.2.p.src = me.2.p.src && e.1 ≠ me.1 && earlier e me && meets e.2 me.2

/-- An earlier request whose translation is still walked for may touch any line. -/
def walkHeld (s : State) (me : Nat × OutReq) : Bool :=
  s.ing.waits.any fun w => w.2.p.src = me.2.p.src && w.2.p.dst = me.2.p.dst &&
    seqLess w.2.p.seq.toNat me.2.p.seq.toNat && me.2.op ≠ .fence && !(me.2.parts.isEmpty && me.2.reach.isEmpty)

/-- A request waits for earlier requests to its lines (R96). -/
def lineHeld (s : State) (me : Nat × OutReq) : Bool := !(lineBlockers s me).isEmpty || walkHeld s me

/-- A FENCE of the same source and destination with a lower number on this channel or an earlier one is not complete, or its page's walk
has not ended (R97, R99). -/
def fenceHeld (s : State) (me : Nat × OutReq) : Bool :=
  (s.ing.outs.any fun e => e.2.op = .fence && e.1 ≠ me.1 && e.2.p.src = me.2.p.src && e.2.p.dst = me.2.p.dst &&
    seqLess e.2.p.seq.toNat me.2.p.seq.toNat && decide (vcOf e.2 ≤ vcOf me.2)) ||
  s.ing.waits.any fun w => w.2.op = .fence && w.2.p.src = me.2.p.src && w.2.p.dst = me.2.p.dst &&
    seqLess w.2.p.seq.toNat me.2.p.seq.toNat && decide (tcVc w.2.p.tc.toNat ≤ vcOf me.2)

/-- A FENCE may complete (R97): no gap below it, and nothing with a lower number on its channel or an earlier one, COL before BLK
(DESIGN CHOICE, log entry 135). -/
def fenceReady (s : State) (me : Nat × OutReq) : Bool :=
  noGapBelow s me.2.p.src.toNat me.2.p.dst.toNat me.2.p.seq.toNat &&
  !(s.ing.waits.any fun w => w.2.p.src = me.2.p.src && w.2.p.dst = me.2.p.dst &&
    seqLess w.2.p.seq.toNat me.2.p.seq.toNat && decide (tcVc w.2.p.tc.toNat ≤ vcOf me.2)) &&
  !s.ing.outs.any fun e => e.1 ≠ me.1 && e.2.p.src = me.2.p.src && e.2.p.dst = me.2.p.dst &&
    seqLess e.2.p.seq.toNat me.2.p.seq.toNat && decide (vcOf e.2 ≤ vcOf me.2)

/-! ## Host buckets (R696 to R700) -/

/-- The endpoint on a port is degraded (R800). -/
def degradedEnd (s : State) (n : Nat) : Bool :=
  match (lportOf s n).node with
  | some d => s.ras.degraded.any fun t => !t.switch && t.node = d
  | none => false

/-- A bucket's greatest level, in 1/80 byte. -/
def bucketFull (s : State) (n : Nat) : Int :=
  ((if degradedEnd s n then 1024 else regField s (rBucket n) 15 17) * 64 * 80 : Nat)

/-- A bucket's rate in 100 Mb/s units. -/
def bucketRate (s : State) (n : Nat) : Nat :=
  if degradedEnd s n then regField s rHealth 20 14 else regField s (rBucket n) 1 14

/-- A bucket refilled to now. -/
def bucketNow (s : State) (n : Nat) : Bucket :=
  match kfind s.buckets n with
  | none => { level := bucketFull s n, at_ := s.clk }
  | some b =>
    { b with level := min (bucketFull s n) (b.level + (bucketRate s n * (s.clk - b.at_) : Nat)), at_ := s.clk }

/-- A bucket limits a request (R697, R700). -/
def bucketLimits (s : State) (p : Req) : Bool :=
  decide (p.lport < 516) && decide (3 ≤ p.tc.toNat) &&
  (degradedEnd s p.lport || (regField s (rBucket p.lport) 0 1 = 1 && !s.mem.freeMode))

/-- What a request costs, in 1/80 byte (R697). -/
def bucketCost (p : Req) : Int := ((32 + p.length.toNat) * 80 : Nat)

/-- Hold a request at its bucket, or debit it (R697, R698): whether it may go on. -/
def bucketTake (s : State) (id : Nat) (p : Req) : State × Bool :=
  if !bucketLimits s p then (s, true)
  else
    let b := bucketNow s p.lport
    if b.queue.isEmpty && decide (0 ≤ b.level) then
      ({ s with buckets := kset s.buckets p.lport { b with level := b.level - bucketCost p } }, true)
    else (bump { s with buckets := kset s.buckets p.lport { b with queue := b.queue ++ [id] } } .hostHolds, false)

/-! ## Sending parts (R64, R189, R94) -/

/-- The packet of a part for another node (R64): node plus offset form at the home; the requester, tag, partition and AST
stand; a part of a split request is numbered as the switch's own (R94). -/
def partPkt (s : State) (o : OutReq) (part : ReqPart) (pl : List Byte) : Req :=
  let split := o.parts.length ≠ 1
  let data := match o.op with
    | .store | .storeClearPoison => (pl.drop part.off).take part.len
    | .copy => leBytes 8 part.srcPool
    | _ => o.p.payload
  let keep := !split && flagTallow o.p
  { o.p with
    dst := BitVec.ofNat 15 part.home, address := BitVec.ofNat 64 part.pool,
    length := if o.parts.length = 1 then o.p.length else BitVec.ofNat 24 part.len,
    seq := if split then BitVec.ofNat 32 (ownNum s part.home) else o.p.seq,
    flags := BitVec.ofNat 16 (setBits (setBits o.p.flags.toNat 0 2 2) 3 1 (if keep then 1 else 0)),
    payload := if keep then o.p.payload else data }

/-- The operation of a part whose home is this switch: its destination's pool address and window, and its source's. -/
def partOp (s : State) (id : Nat) (o : OutReq) (i : Nat) (part : ReqPart) (pl : List Byte) (dst src : Nat × Nat) : MemOp :=
  { op := o.op, p := o.p, origin := .here id i, pool := dst.1, len := part.len, srcPool := src.1,
    data := (match o.op with
      | .store | .storeClearPoison => (pl.drop part.off).take part.len
      | _ => pl),
    segOff := part.off, phase := .access, window := dst.2, srcWindow := src.2, arrived := s.clk }

/-- Send one part: to the tier map here, or on to its home. -/
def sendPart (h : Hooks) (id : Nat) (pl : List Byte) (s : State) (ip : Nat × ReqPart) : State :=
  match kfind s.ing.outs id with
  | none => s
  | some o =>
    let (i, part) := ip
    let s := modOut s id fun o => { o with parts := o.parts.mapIdx fun j p => if j = i then { p with sent := true } else p }
    if part.home = selfNode s then
      if isMemory o.op then
        if addrForm o.p = 2 then
          match part.win with
          | some (a, b) => memStart s (partOp s id o i part pl a b)
          | none => replyWhole s (schedPort o.p.lport) (.here id i) o.op o.p stNoMapping part.len 0
        else memStart s (partOp s id o i part pl (part.pool, 0) (part.srcPool, 0))
      else h.start s (.here id i) o.op { o.p with address := BitVec.ofNat 64 part.pool }
    else
      let pkt : Packet := .req o.op (partPkt s o part pl)
      sendPkt (if o.parts.length ≠ 1 then bumpOwn s part.home else s) (schedPort o.p.lport) o.p.lport false pkt

/-- A part of a request that may be sent: parts at one other home share the request's tag, so each waits until the one before it there is
done, and no answer can be taken for another part's (DESIGN CHOICE, log entry 138). -/
def partFree (s : State) (o : OutReq) (i : Nat) : Bool :=
  match o.parts[i]? with
  | none => false
  | some p => !p.sent && (p.home = selfNode s || o.parts.all fun q => !(q.home = p.home && q.sent && !q.done))

/-- Send every part of a request that may go; a malformed Tallow payload takes no effect (R585). -/
def sendParts (h : Hooks) (s : State) (id : Nat) : State :=
  match kfind s.ing.outs id with
  | none => s
  | some o =>
    let s := modOut s id fun o => { o with phase := .active }
    match plainPayload o.p with
    | none => completeReq s (schedPort o.p.lport) id (selfNode s) stMalformed 0 [] 0
    | some pl =>
      if isCompute o.op then h.start s (.here id 0) o.op { o.p with payload := pl }
      else (o.parts.zipIdx).foldl (fun s e =>
        if ((kfind s.ing.outs id).map fun o => partFree s o e.2).getD false then sendPart h id pl s (e.2, e.1) else s) s

/-! ## Combining (R243 to R249) and hot lines (R250 to R254) -/

def readWindow (s : State) : Nat := regField s rCombine 0 10
def storeWindow (s : State) : Nat := regField s rCombine 10 10

/-- A request may be combined (R245, R248). -/
def combinable (s : State) (o : OutReq) : Bool :=
  decide (0 < readWindow s) && !flagNoCombine o.p && o.p.length ≠ 0 &&
  (match o.op, o.parts with
   | .load, [p] => addrForm o.p = 0 && p.pool / 64 = (p.pool + p.len - 1) / 64 && !inShared s p.pool
   | .atomic .swap, _ | .atomic .cas, _ => false
   | .atomic _, [p] => decide (partPool p < 2 ^ 47) && homeOf s (partPool p) = some p.home && !inShared s (partPool p)
   | _, _ => false)

/-- An open group that a request may join. -/
def groupFor (s : State) (o : OutReq) (pool : Nat) : Option Nat :=
  (s.coh.groups.find? fun e =>
    let g := e.2
    !g.sent && decide (s.clk ≤ g.start + readWindow s) && g.op = o.op &&
    (match o.op with
     | .load => g.pool / 64 = pool / 64 && g.ast = o.p.ast.toNat && g.gen = o.gen
     | _ => g.pool = pool && g.width = o.p.length.toNat && g.signed = flagSigned o.p)).map (·.1)

/-- Join or open a combining group. -/
def combine (s : State) (id : Nat) (o : OutReq) (part : ReqPart) : State :=
  match groupFor s o (partPool part) with
  | some g =>
    let s := { s with coh := { s.coh with groups := kmod s.coh.groups g fun x => { x with members := x.members ++ [id] } } }
    modOut s id fun o => { o with phase := .grouped g }
  | none =>
    let g : Group := { pool := partPool part, op := o.op, width := o.p.length.toNat, signed := flagSigned o.p,
                       ast := o.p.ast.toNat, gen := o.gen, home := part.home, start := s.clk, members := [id] }
    let n := s.nextId
    modOut { s with coh := { s.coh with groups := kset s.coh.groups n g }, nextId := n + 1 } id fun o =>
      { o with phase := .grouped n }

/-- The operand that combines a group's operands (R248). -/
def groupOperands (s : State) (g : Group) : List Byte :=
  match g.op with
  | .atomic a =>
    let xs := g.members.filterMap fun id => (kfind s.ing.outs id).map groupOperand
    match xs with
    | [] => []
    | x :: r => leBytes g.width (r.foldl (fun v y => atomicValue a g.width g.signed v y 0) x)
  | _ => []

/-- A group's window closes: its single request goes to the home (R245, R248), numbered as the switch's own (R94). There it is one access, and
adds 1 to HEAT once, whatever the number of its members: R133 does not say (DESIGN CHOICE, log entry 150). -/
def groupSend (s : State) (n : Nat) : State :=
  match kfind s.coh.groups n with
  | none => s
  | some g =>
    match (g.members.head?).bind fun id => kfind s.ing.outs id with
    | none => { s with coh := { s.coh with groups := kdel s.coh.groups n } }
    | some o =>
      let data := groupOperands s g
      let (pool, len) := match g.op with
        | .load => (g.pool / 64 * 64, 64)
        | _ => (g.pool, g.width)
      let tag := s.ing.ownTag
      let s := { s with coh := { s.coh with groups := kmod s.coh.groups n fun x => { x with sent := true, tag := tag } } }
      let p : Req := { o.p with src := BitVec.ofNat 15 (selfNode s), dst := BitVec.ofNat 15 g.home,
                                tag := BitVec.ofNat 16 tag, length := BitVec.ofNat 24 len,
                                address := BitVec.ofNat 64 pool,
                                seq := BitVec.ofNat 32 (ownNum s g.home),
                                flags := BitVec.ofNat 16 (2 + (if g.signed then 4 else 0)), payload := data }
      if g.home = selfNode s then
        memStart s { op := g.op, p := p, origin := .group n, pool := pool, len := len, data := data, phase := .access,
                     arrived := s.clk }
      else sendPkt (bumpOwn s g.home) (schedPort o.p.lport) o.p.lport false (.req g.op p)

/-- Pool lines of a STORE, of those parts whose pool address this switch knows: not behind another node's window. -/
def hotLines (s : State) (o : OutReq) : List Nat :=
  if o.op ≠ .store then []
  else o.parts.flatMap fun p =>
    let a := partPool p
    if a < 2 ^ 47 ∧ homeOf s a = some p.home then linesOf a p.len else []

/-- A STORE to the line that this switch sent is outstanding (R251). -/
def storeOut (s : State) (line id : Nat) : Option Nat :=
  (s.ing.outs.find? fun e => e.1 ≠ id && e.2.phase = .active && (hotLines s e.2).contains line).map (·.1)

/-- Lines of a STORE that become hot with it (R251): while the switch can track them. -/
def newHot (s : State) (id : Nat) (o : OutReq) : List Nat :=
  ((hotLines s o).eraseDups.filter fun l => (kfind s.coh.hot l).isNone && (storeOut s l id).isSome).take (1024 - s.coh.hot.length)

/-- Hot lines that hold a STORE, those that it makes hot among them. -/
def hotNeed (s : State) (id : Nat) (o : OutReq) : List Nat :=
  ((hotLines s o).eraseDups.filter fun l => (kfind s.coh.hot l).isSome) ++ newHot s id o

/-- STOREs held on other hot lines that meet a line, oldest first: once it is hot they are held on it too (R252). -/
def hotMeets (s : State) (line : Nat) : List Nat :=
  let held := s.ing.outs.filterMap fun e => match e.2.phase with
    | .hot n => if (hotLines s e.2).contains line then some (n, e.1) else none
    | _ => none
  (sortBy (fun a b => decide (a.1 < b.1)) held).map (·.2)

/-- STOREs that hot lines hold (R254). -/
def hotCount (s : State) : Nat := (s.coh.hot.flatMap fun h => h.2.held).eraseDups.length

/-- A STORE needs a place among the held ones, and all 4,096 are in use (R254). -/
def hotFull (s : State) (me : Nat × OutReq) : Bool := decide (4096 ≤ hotCount s) && !(hotNeed s me.1 me.2).isEmpty

/-- The bytes of one STORE are all covered by another's, at the same homes (R253). -/
def covered (a b : OutReq) : Bool :=
  !a.parts.isEmpty && a.parts.all fun p =>
    let x := partPool p
    b.parts.any fun q =>
      let y := partPool q
      decide (q.home = p.home ∧ y ≤ x ∧ x + p.len ≤ y + q.len)

/-- A STORE lies in no shared region, so it may be absorbed (R260). -/
def absorbable (s : State) (o : OutReq) : Bool := o.parts.all fun p => !inShared s (partPool p)

/-- STOREs absorbed by one that is itself absorbed wait for the last. -/
def hotChain (s : State) (id : Nat) (gone : List Nat) : State :=
  { s with ing := { s.ing with outs := s.ing.outs.map fun e =>
      match e.2.phase with
      | .absorbed b => if gone.contains b then (e.1, { e.2 with phase := .absorbed id }) else e
      | _ => e } }

/-- Hold a STORE on its hot lines; held STOREs that it covers are absorbed (R251 to R253), but not with STORE_WINDOW 0 (R243). -/
def hotHold (s : State) (id : Nat) (o : OutReq) (lines : List Nat) : State :=
  let new := newHot s id o
  let s := new.foldl (fun s l =>
    { s with coh := { s.coh with hot := kset s.coh.hot l { lastSend := s.clk, outstanding := storeOut s l id, held := hotMeets s l } } }) s
  let waiting := (lines.flatMap fun l => ((kfind s.coh.hot l).map (·.held)).getD []).eraseDups
  let gone := waiting.filter fun i => match kfind s.ing.outs i with
    | some x => decide (0 < storeWindow s) && covered x o && absorbable s x
    | none => false
  let s := hotChain (gone.foldl (fun s i => modOut s i fun x => { x with phase := .absorbed id }) s) id gone
  let hot := s.coh.hot.map fun (e : Nat × HotLine) =>
    let held := e.2.held.filter fun i => !gone.contains i
    (e.1, { e.2 with held := if lines.contains e.1 then held ++ [id] else held })
  modOut { s with coh := { s.coh with hot := hot }, nextId := s.nextId + 1 } id fun o => { o with phase := .hot s.nextId }

/-- Earlier STOREs of its source that a STORE meets are sent to, or held on, lines that are hot or become so: there their order is kept (R252),
and the STORE may absorb them (R253). -/
def hotOrders (s : State) (me : Nat × OutReq) : Bool :=
  let ls := hotNeed s me.1 me.2
  (lineBlockers s me).all fun e =>
    (match e.2.phase with
     | .active | .hot _ | .absorbed _ => e.2.op = .store
     | _ => false) &&
    (touched e.2).all fun t => !(touched me.2).contains t || (ls.contains t.2 && (hotLines s e.2).contains t.2)

/-- Order lets a request go on (R96, R97), and a STORE for a hot line has a place (R254). -/
def orderLets (s : State) (me : Nat × OutReq) : Bool :=
  !walkHeld s me && hotOrders s me && !fenceHeld s me && !hotFull s me

/-- Send a request that order no longer holds: to a group, to its hot lines, or on. -/
def forwardReq (h : Hooks) (s : State) (id : Nat) : State :=
  match kfind s.ing.outs id with
  | none => s
  | some o =>
    if combinable s o then
      match o.parts with
      | p :: _ => combine s id o p
      | [] => s
    else match hotNeed s id o with
      | [] => sendParts h s id
      | ls => hotHold s id o ls

/-- A STORE held on hot lines may be sent on a line: it is the oldest there and on its other hot lines, and no STORE to any of them is
outstanding (R252). Answers the lines. -/
def hotReady (s : State) (line : Nat) : Option (Nat × List Nat) :=
  ((kfind s.coh.hot line).bind fun h => h.held.head?).bind fun id =>
    let ls := (s.coh.hot.filter fun e => e.2.held.contains id).map (·.1)
    if ls.all fun l => (storeOut s l id).isNone && ((kfind s.coh.hot l).map fun h => h.outstanding.isNone && h.held.head? = some id).getD false
    then some (id, ls) else none

/-- Send a STORE of hot lines (R252). -/
def hotSend (h : Hooks) (s : State) (id : Nat) (lines : List Nat) : State :=
  let hot := lines.foldl (fun m l => kmod m l fun (x : HotLine) => { x with lastSend := s.clk, outstanding := some id, held := x.held.drop 1 }) s.coh.hot
  sendParts h { s with coh := { s.coh with hot := hot } } id

/-- A request still stands in the buffer of its port (R226, R660, R698): at its bucket, at a page walk, behind an earlier request, or without a
place in the queue of its line. -/
def reqWaits (s : State) (p : Req) : Bool :=
  (s.coh.backlog.any fun e => (lineReqPkt s e.2).any (samePkt p)) || (s.ing.waits.any fun w => samePkt w.2.p p) ||
  (s.ing.outs.any fun e => (e.2.phase = .bucket || e.2.phase = .held) && samePkt e.2.p p) ||
  s.mem.ops.any fun e => (e.2.phase = .order || e.2.phase = .cow) && !e.2.todo.isEmpty && samePkt e.2.p p

/-- An endpoint port's REQ credit, which none is granted of while all held STOREs of the hot lines are in use (R254). -/
def hotPort (s : State) (p : Req) : Bool := tcVc p.tc.toNat = 3 && decide (p.lport < 512) && !facesSwitch s p.lport

/-- The link credit of arrived requests is still withheld: R226, R254, R698. -/
def creditOwed (s : State) (o : Owed) : Bool := reqWaits s o.p || (hotPort s o.p && decide (4096 ≤ hotCount s))

/-- The link credit of requests that no longer wait goes back (R616, R660). -/
def payCredits (s : State) : State :=
  (s.ing.owed.filter fun o => !creditOwed s o).foldl (fun s o => returnCredit s o.p.lport (channelOf o.p.tc.toNat o.p.esc) o.flits)
    { s with ing := { s.ing with owed := s.ing.owed.filter (creditOwed s) } }

/-- Take a request past order and fences, or hold it there (R96, R97). -/
def tryReq (h : Hooks) (s : State) (id : Nat) : State :=
  match kfind s.ing.outs id with
  | none => s
  | some o =>
    let me := (id, o)
    if o.op = .fence then
      if fenceReady s me then completeReq s (schedPort o.p.lport) id (selfNode s) stOk 0 [] 0
      else modOut s id fun o => { o with phase := .fencing }
    else if !orderLets s me then modOut s id fun o => { o with phase := .held }
    else forwardReq h s id

/-- A request that waits at the ingress may be tried. -/
def waitsHere (o : OutReq) : Bool := o.phase = .held || o.phase = .fencing

/-- The first waiting request that can go on now. -/
def releasable (s : State) : Option Nat :=
  (s.ing.outs.find? fun e =>
    waitsHere e.2 && (if e.2.op = .fence then fenceReady s e else orderLets s e)).map (·.1)

/-- A part that may be sent now that the one before it at its home is done. -/
def partDue (s : State) : Option Nat :=
  (s.ing.outs.find? fun e => e.2.phase = .active && (natRange 0 e.2.parts.length).any (partFree s e.2)).map (·.1)

/-- Carry on every operation of this home that waits for nothing, and let go every request that order no longer holds
(R96, R97). -/
def settleN (h : Hooks) : Nat → State → State
  | 0, s => s
  | fuel + 1, s =>
    match memReady s with
    | some op => settleN h fuel (memStep s op)
    | none =>
      match commitReady s with
      | some f => settleN h fuel (commitMove s f)
      | none =>
      match orderFree s with
      | some op => settleN h fuel (memNext s op)
      | none =>
      match trayDue s with
      | some k => settleN h fuel (trayGo s k)
      | none =>
      match moveLost s with
      | some f => settleN h fuel (abandonMove s f stPoisoned)
      | none =>
      match moveDue s with
      | some f => settleN h fuel (moveCopy s f)
      | none =>
        match releasable s with
        | some id => settleN h fuel (tryReq h s id)
        | none =>
        match partDue s with
        | some id => settleN h fuel (sendParts h s id)
        | none =>
          match lineStuck s with
          | some l => settleN h fuel (lineRun 1026 (makeRoom s l) l)
          | none => s

/-- Everything that can go on at once goes on: operations, commits of moves (R131), evacuations (R977), the release of
storage that nothing uses (R280), requests that order held, engines, teardowns and scrubs. -/
def settle (h : Hooks) (s : State) : State :=
  payCredits <| tearAll (h.finish (evacAll (leaveDone (sweepDying (settleN h (32 * (s.ing.outs.length + s.mem.ops.length + s.mem.moves.length + s.coh.lines.length + 1)) s)))))

/-! ## Arrival -/

/-- A request that passed the check is outstanding (R86): counted in its generation (R184), then its bucket, then its
order. -/
def admitReq (h : Hooks) (s : State) (op : Op) (p : Req) (got : List ((Nat × Nat) × Option Pte)) : State :=
  let parts := partsOf s op p got
  let gen := ((astOf s p.ast.toNat).map (·.gen)).getD 0
  let id := s.nextId
  let ns := needsOf op p
  let s := ns.foldl (fun s n => cacheTouch s n.ast gen n.page) s
  let o : OutReq := { op := op, p := p, gen := gen, phase := .bucket, parts := parts, arrived := s.clk,
                       reach := if isCompute op then reachOf s p (h.ranges s op p) else [] }
  let s := { s with ing := { s.ing with outs := kset s.ing.outs id o }, nextId := id + 1 }
  if op = .fence && gapToldBelow s p.src.toNat p.dst.toNat p.seq.toNat then markUnanswered s id 6
  else match bucketTake s id p with
    | (s, true) => tryReq h s id
    | (s, false) => s

/-- A request of an attached endpoint arrives: the check decides (R84, R102). -/
def fromEndpoint (h : Hooks) (s : State) (op : Op) (p : Req) (got : List ((Nat × Nat) × Option Pte)) : State :=
  match ingressCheck h s op p got with
  | .drop => violatePkt (bump s (.srcDrop p.lport)) p.lport 2 (.req op p)
  | .fail st =>
    let s := if st = stMalformed then violatePkt s p.lport 1 (.req op p)
             else if switchOnly op then violatePkt s p.lport 6 (.req op p) else s
    refuseHere s p.lport op p st
  | .walk pages =>
    let gen := fun t => ((astOf s t).map (·.gen)).getD 0
    let new := pages.filter fun g => !s.xl.walks.any fun w => w.ast = g.1 && w.page = g.2
    { s with ing := { s.ing with waits := kset s.ing.waits s.nextId { op := op, p := p, todo := pages, got := got } },
             nextId := s.nextId + 1,
             xl := { s.xl with walks := s.xl.walks ++ new.map fun g => { ast := g.1, page := g.2, gen := gen g.1 } } }
  | .pass =>
    -- R672: a node-addressed request whose destination has no entry here is answered NO_MAPPING
    if addrForm p = 2 && p.dst.toNat ≠ selfNode s && (kfind s.core.routes p.dst.toNat).isNone &&
        (lportOfNode s p.dst.toNat).isNone then
      refuseHere s p.lport op p stNoMapping
    else admitReq h s op p got

/-- A memory request of another switch reaches this home or target (R42, R85, R194). -/
def atHome (h : Hooks) (s : State) (op : Op) (p : Req) : State :=
  match plainPayload p with
  | none => answer s op p stMalformed 0
  | some pl =>
    if isMemory op then
      let n := p.length.toNat
      match windowsOf s op p.address.toNat (copySrc p) n with
      | some (a, b) =>
        memStart s { op := op, p := { p with payload := pl }, origin := .remote, pool := a.1, len := n, srcPool := b.1, data := pl,
                     phase := .access, window := a.2, srcWindow := b.2, arrived := s.clk }
      | none => answer s op p stNoMapping 0
    else h.start s .remote op { p with payload := pl }

/-- An egress may compress or has to expand the payload, so that the packet is stored whole (R665). -/
def recoded (s : State) (e : Nat) : Packet → Bool
  | .req op p => if facesSwitch s e then compressible op p else flagTallow p && op ≠ .collDeliver
  | .resp _ => false

/-- A packet from another switch goes on through the buffer: its flits hold link credit until it is admitted, or has
crossed on an escape channel (R660). It may be cut through where R664 and R665 let it; while its own last flit has not
arrived it is incomplete. -/
def transit (s : State) (inL : Nat) (esc : Bool) (pkt : Packet) : State :=
  match enqueue s (schedPort inL) inL esc pkt with
  | none => returnCredit (discardReport (bump s .noRouteDiscards) pkt 1) inL (channelOf pkt.tcOf esc) (pkt.size / 64)
  | some t =>
    match t.core.voqs.getLast? with
    | none => t
    | some q =>
      let partly := (lportOf s inL).ll.partial_.isSome
      let alone := !(s.core.voqs.any fun x => x.egress = q.egress && channelOf x.tc x.esc = channelOf q.tc q.esc)
      let rates := decide (inL < 512) && decide (portRate s q.egress ≤ portRate s inL)
      let cut := (regField s (rPortFwd (inL / 4)) 0 8).testBit q.tc && q.shared && alone && rates && !recoded s q.egress pkt && !degradedEnd s inL
      let n := pkt.size / 64
      let now := q.shared && !q.esc
      let t := if now then returnCredit t inL (channelOf q.tc esc) n else t
      { t with core := { t.core with voqs := t.core.voqs.map fun x => if x.id = q.id then
          { x with tail := partly, cut := cut, credit := if now then 0 else n } else x } }

/-- A request arrives on a port that faces another switch: steps 1 and 3 only (R85), then it is consumed here or sent on. -/
def fromSwitch (h : Hooks) (s : State) (op : Op) (p : Req) : State :=
  if !step1Ok op p || !step3Fwd op p then
    answer (violatePkt s p.lport 1 (.req op p)) op p stMalformed 0
  else if p.dst.toNat = selfNode s then atHome h s op p
  else transit s p.lport p.esc (.req op p)

/-- A logical port that is not KNOWN carries only link-scoped messages (R809). -/
def discardUnknown (s : State) (lport : Nat) : Bool := decide (lport < 512) && (lportOf s lport).disc ≠ .known

/-- A Jarti request arrives at the switch. -/
def arrive (h : Hooks) (s : State) (op : Op) (p : Req) : State :=
  if discardUnknown s p.lport then bump s (.notKnown p.lport)
  else if facesSwitch s p.lport then settle h (fromSwitch h s op p)
  else
    let s := if (lportOf s p.lport).node = some p.src.toNat then noteSeq s p else s
    settle h (fromEndpoint h s op p [])

end Sys2Proof.Machine
end

