-- ==== Sys2Proof/Machine/Num.lean ====
section
/-! DEFINITION. Machine/Num.lean: the exact numbers of the compute fabric: values, element formats and their conversions (R287 to
R293), the correctly rounded special functions (R295), long accumulator records (R299 to R304). -/
namespace Sys2Proof.Machine

/-! ## Values -/

/-- What an element stands for: a NaN, an infinity, or the exact number (n ÷ d) × 2^e with a sign, zeros signed. -/
inductive Val where
  | nan
  | inf (neg : Bool)
  | fin (neg : Bool) (n d : Nat) (e : Int)
deriving DecidableEq, Repr

def Val.zero : Val := .fin false 0 1 0
def Val.ofNat (n : Nat) : Val := .fin false n 1 0
def Val.ofInt (i : Int) : Val := .fin (decide (i < 0)) i.natAbs 1 0
def Val.isNan : Val → Bool
  | .nan => true
  | _ => false
def Val.isFinite : Val → Bool
  | .fin .. => true
  | _ => false
def Val.negative : Val → Bool
  | .nan => false
  | .inf s => s
  | .fin s .. => s
def Val.isZero : Val → Bool
  | .fin _ n _ _ => decide (n = 0)
  | _ => false
def Val.neg : Val → Val
  | .nan => .nan
  | .inf s => .inf !s
  | .fin s n d e => .fin (!s) n d e
def Val.abs : Val → Val
  | .nan => .nan
  | .inf _ => .inf false
  | .fin _ n d e => .fin false n d e

/-- Numerators of two numbers over a common denominator and power of 2. -/
def common (n₁ d₁ : Nat) (e₁ : Int) (n₂ d₂ : Nat) (e₂ : Int) : Nat × Nat × Nat × Int :=
  let e := min e₁ e₂
  (n₁ * d₂ * 2 ^ (e₁ - e).toNat, n₂ * d₁ * 2 ^ (e₂ - e).toNat, d₁ * d₂, e)

/-- The exact sum; opposite infinities give a NaN, and an exact zero of unlike signs is +0. -/
def Val.add : Val → Val → Val
  | .nan, _ | _, .nan => .nan
  | .inf a, .inf b => if a = b then .inf a else .nan
  | .inf a, _ => .inf a
  | _, .inf b => .inf b
  | .fin s n d e, .fin t m c f =>
    let (x, y, w, g) := common n d e m c f
    if s = t then .fin s (x + y) w g
    else if x = y then .zero
    else if y < x then .fin s (x - y) w g
    else .fin t (y - x) w g

def Val.sub (a b : Val) : Val := a.add b.neg

/-- The exact product; an infinity times 0 is a NaN. -/
def Val.mul : Val → Val → Val
  | .nan, _ | _, .nan => .nan
  | .inf a, .inf b => .inf (a != b)
  | .inf a, .fin t m _ _ => if m = 0 then .nan else .inf (a != t)
  | .fin s n _ _, .inf b => if n = 0 then .nan else .inf (s != b)
  | .fin s n d e, .fin t m c f => .fin (s != t) (n * m) (d * c) (e + f)

/-- The exact quotient by a finite number that is not 0. -/
def Val.divFin : Val → Val → Val
  | .fin s n d e, .fin t m c f => .fin (s != t) (n * c) (d * m) (e - f)
  | .inf a, .fin t .. => .inf (a != t)
  | _, _ => .nan

/-- Comparison of numbers: −1, 0 or 1; zeros of both signs are equal. -/
def Val.cmpNum : Val → Val → Int
  | .inf a, .inf b => if a = b then 0 else if a then -1 else 1
  | .inf a, _ => if a then -1 else 1
  | _, .inf b => if b then 1 else -1
  | .fin s n d e, .fin t m c f =>
    let (x, y, _, _) := common n d e m c f
    let u : Int := if s then -x else x
    let v : Int := if t then -y else y
    if u < v then -1 else if v < u then 1 else 0
  | _, _ => 0

/-- a < b, for numbers; no NaN is less than or greater than anything. -/
def Val.lt (a b : Val) : Bool := !a.isNan && !b.isNan && decide (a.cmpNum b = -1)

/-- The order in which −0 comes before +0 (R383, R463). -/
def Val.before (a b : Val) : Bool :=
  a.lt b || (a.isZero && b.isZero && a.negative && !b.negative)

/-- The smaller or larger of two; a NaN operand gives a NaN. -/
def Val.min (a b : Val) : Val := if a.isNan || b.isNan then .nan else if b.before a then b else a
def Val.max (a b : Val) : Val := if a.isNan || b.isNan then .nan else if a.before b then b else a

/-! ## Rounding -/

/-- ROUND of R294. -/
abbrev rne : Nat := 0

/-- n ÷ d rounded to a whole number, for a number of a sign. -/
def roundNat (mode : Nat) (neg : Bool) (n d : Nat) : Nat :=
  let q := n / d
  let r := n % d
  let up := match mode with
    | 0 => decide (d < 2 * r) || (decide (2 * r = d) && decide (q % 2 = 1))
    | 1 => false
    | 2 => decide (r ≠ 0) && !neg
    | _ => decide (r ≠ 0) && neg
  if up then q + 1 else q

/-- (n ÷ d) × 2^e in units of 2^k, rounded. -/
def roundUnits (mode : Nat) (neg : Bool) (n d : Nat) (e k : Int) : Nat :=
  if k ≤ e then roundNat mode neg (n * 2 ^ (e - k).toNat) d else roundNat mode neg n (d * 2 ^ (k - e).toNat)

/-- Exponent of the leading bit of n ÷ d, n not 0. -/
def leadExp (n d : Nat) : Int :=
  let t : Int := (Nat.log2 n : Int) - (Nat.log2 d : Int)
  let less := if 0 ≤ t then decide (n < d * 2 ^ t.toNat) else decide (n * 2 ^ (-t).toNat < d)
  if less then t - 1 else t

/-- How a floating-point format treats what is too large: as IEEE 754, as FP8 E4M3, or with neither infinity nor NaN (R290). -/
inductive Specials where
  | ieee | e4m3 | none
deriving DecidableEq, Repr

/-- A floating-point format: widths of the exponent and the fraction (R287). -/
structure FFmt where
  eb : Nat
  mb : Nat
  sp : Specials := .ieee
deriving DecidableEq, Repr

def FFmt.width (f : FFmt) : Nat := 1 + f.eb + f.mb
def FFmt.bias (f : FFmt) : Int := 2 ^ (f.eb - 1) - 1
/-- Exponent of the last place of subnormals. -/
def FFmt.ulp0 (f : FFmt) : Int := 1 - f.bias - f.mb
/-- The bit pattern, without sign, of the largest finite value. -/
def FFmt.maxBits (f : FFmt) : Nat :=
  match f.sp with
  | .ieee => 2 ^ (f.eb + f.mb) - 2 ^ f.mb - 1
  | .e4m3 => 2 ^ (f.eb + f.mb) - 2
  | .none => 2 ^ (f.eb + f.mb) - 1
/-- The patterns of an infinity and of the quiet NaN, without sign (R291). -/
def FFmt.infBits (f : FFmt) : Nat := (2 ^ f.eb - 1) * 2 ^ f.mb
def FFmt.nanBits (f : FFmt) : Nat :=
  if f.eb = 5 ∧ f.mb = 2 ∨ f.sp ≠ .ieee then 2 ^ (f.eb + f.mb) - 1 else f.infBits + 2 ^ (f.mb - 1)

def fp64 : FFmt := ⟨11, 52, .ieee⟩
def fp32 : FFmt := ⟨8, 23, .ieee⟩
def fp16 : FFmt := ⟨5, 10, .ieee⟩
def bf16 : FFmt := ⟨8, 7, .ieee⟩
def e4m3 : FFmt := ⟨4, 3, .e4m3⟩
def e5m2 : FFmt := ⟨5, 2, .ieee⟩
def e3m2 : FFmt := ⟨3, 2, .none⟩
def e2m3 : FFmt := ⟨2, 3, .none⟩
def e2m1 : FFmt := ⟨2, 1, .none⟩

/-- The value of a bit pattern. -/
def FFmt.decode (f : FFmt) (w : Nat) : Val :=
  let neg := w.testBit (f.eb + f.mb)
  let x := bits w f.mb f.eb
  let m := bits w 0 f.mb
  let special := match f.sp with
    | .ieee => decide (x = 2 ^ f.eb - 1)
    | .e4m3 => decide (x = 2 ^ f.eb - 1 ∧ m = 2 ^ f.mb - 1)
    | .none => false
  if special then (if f.sp = .ieee && decide (m = 0) then .inf neg else .nan)
  else if x = 0 then .fin neg m 1 f.ulp0
  else .fin neg (2 ^ f.mb + m) 1 (f.ulp0 + (x - 1 : Nat))

/-- The bit pattern of a value rounded into a format, with SAT (R290, R291). -/
def FFmt.encode (f : FFmt) (mode : Nat) (sat : Bool) : Val → Nat
  | .nan => f.nanBits
  | .inf neg =>
    let s := if neg then 2 ^ (f.eb + f.mb) else 0
    match f.sp with
    | .ieee => s + f.infBits
    | .e4m3 => f.nanBits
    | .none => s + f.maxBits
  | .fin neg n d e =>
    let s := if neg then 2 ^ (f.eb + f.mb) else 0
    if n = 0 then s
    else
      let k := Max.max (leadExp n d + e - f.mb) f.ulp0
      let r := roundUnits mode neg n d e k
      -- the patterns of a sign are in the order of the values: fraction and exponent carry into one another
      let b := if r < 2 ^ f.mb then r else r - 2 ^ f.mb + (k - f.ulp0 + 1).toNat * 2 ^ f.mb
      if b ≤ f.maxBits then s + b
      else match f.sp with
        | .ieee =>
          if sat || mode = 1 || (mode = 2 && neg) || (mode = 3 && !neg) then s + f.maxBits else s + f.infBits
        | .e4m3 => if sat then s + f.maxBits else f.nanBits
        | .none => s + f.maxBits

/-- rnd of the manual: rounded once to FP32, to nearest with ties to even. -/
def rnd32 (v : Val) : Val := fp32.decode (fp32.encode rne false v)

/-- A value rounded to a whole number and saturated to a range (R292); a NaN gives 0. -/
def roundInt (mode : Nat) (lo hi : Int) : Val → Int
  | .nan => 0
  | .inf neg => if neg then lo else hi
  | .fin neg n d e =>
    let r : Int := roundUnits mode neg n d e 0
    let r := if neg then -r else r
    Max.max lo (Min.min hi r)

/-! ## Element formats (R287, R288) -/

/-- The floating-point format of a code, or of the elements of an MX block. -/
def floatOf : Nat → Option FFmt
  | 0x08 | 0x10 => some e4m3
  | 0x09 | 0x11 => some e5m2
  | 0x0A => some fp16
  | 0x0B => some bf16
  | 0x0C => some fp32
  | 0x0D => some fp64
  | 0x12 => some e3m2
  | 0x13 => some e2m3
  | 0x14 => some e2m1
  | _ => none

/-- Signedness and width of an integer format. -/
def intOf : Nat → Option (Bool × Nat)
  | 0x01 => some (false, 4)
  | 0x02 => some (true, 4)
  | 0x03 => some (false, 8)
  | 0x04 | 0x15 => some (true, 8)
  | 0x05 => some (true, 16)
  | 0x06 => some (true, 32)
  | _ => none

def isMx (c : Nat) : Bool := decide (0x10 ≤ c ∧ c ≤ 0x15)
/-- A code that R287 lists. -/
def fmtListed (c : Nat) : Bool := c = 0 || (floatOf c).isSome || (intOf c).isSome || c = 0x18 || c = 0x19
/-- An integer format of R287, MXINT8 not among them. -/
def isInt (c : Nat) : Bool := !isMx c && (intOf c).isSome
/-- Bits of one element. -/
def fmtBits (c : Nat) : Nat :=
  match floatOf c, intOf c with
  | some f, _ => f.width
  | _, some i => i.2
  | _, _ => if c = 0x18 then 320 else if c = 0x19 then 2176 else 0
/-- Bytes of n packed elements. -/
def fmtBytes (c n : Nat) : Nat := ceilDiv (n * fmtBits c) 8

/-- Largest and smallest value of an integer format. -/
def intRange (i : Bool × Nat) : Int × Int :=
  if i.1 then (-(2 ^ (i.2 - 1) : Nat), (2 ^ (i.2 - 1) : Nat) - 1) else (0, (2 ^ i.2 : Nat) - 1)

/-- An integer's bit pattern, and the integer of a pattern. -/
def intBits (i : Bool × Nat) (x : Int) : Nat := (x % (2 ^ i.2 : Nat)).toNat
def intVal (i : Bool × Nat) (w : Nat) : Int :=
  if i.1 && w.testBit (i.2 - 1) then (w : Int) - (2 ^ i.2 : Nat) else w

/-! ## Long accumulator records (R299 to R304) -/

/-- A kind of record: bits of VALUE, weight of bit 0, and the magnitude from which a term overflows (R299, R304). -/
structure AccKind where
  w : Nat
  frac : Nat
  excess : Nat
deriving DecidableEq, Repr

def acc320 : AccKind := ⟨317, 160, 128⟩
def acc2176 : AccKind := ⟨2173, 1100, 1024⟩
def AccKind.bytes (k : AccKind) : Nat := (k.w + 3) / 8

/-- Flags of a record: NAN, PINF, NINF. -/
def accFlag (k : AccKind) (r i : Nat) : Bool := r.testBit (k.w + i)

/-- Add 1 to a record's flag. -/
def accMark (k : AccKind) (r i : Nat) : Nat := setBits r (k.w + i) 1 1

/-- VALUE as a whole number of grid steps. -/
def accInt (k : AccKind) (r : Nat) : Int := intVal (true, k.w) (r % 2 ^ k.w)

/-- What ADD did with a term: the record, and whether the term is counted in TERM_OVERFLOW and in TERM_ROUNDED. -/
structure AccAdd where
  r : Nat
  excess : Bool := false
  rounded : Bool := false
deriving DecidableEq, Repr

/-- ADD of a term (R300). -/
def accAdd (k : AccKind) (r : Nat) : Val → AccAdd
  | .nan => ⟨accMark k r 0, false, false⟩
  | .inf neg => ⟨accMark k r (if neg then 2 else 1), false, false⟩
  | .fin neg n d e =>
    if n = 0 then ⟨r, false, false⟩
    else if (k.excess : Int) ≤ leadExp n d + e then ⟨accMark k r (if neg then 2 else 1), true, false⟩
    else
      let g : Int := -(k.frac : Int)
      let m := roundUnits rne neg n d e g
      let exact := if g ≤ e then decide (n * 2 ^ (e - g).toNat % d = 0) else decide (n % (d * 2 ^ (g - e).toNat) = 0)
      let x : Int := if neg then -(m : Int) else m
      ⟨setBits r 0 k.w (((r % 2 ^ k.w : Nat) + x) % (2 ^ k.w : Nat)).toNat, false, !exact⟩

/-- MERGE of two records (R301). -/
def accMerge (k : AccKind) (a b : Nat) : Nat :=
  (a % 2 ^ k.w + b % 2 ^ k.w) % 2 ^ k.w + 2 ^ k.w * ((a / 2 ^ k.w ||| b / 2 ^ k.w) % 8)

/-- The value that a record stands for before it is rounded (R303): its flags first, then VALUE, whose zero is +0. -/
def accVal (k : AccKind) (r : Nat) : Val :=
  if accFlag k r 0 || (accFlag k r 1 && accFlag k r 2) then .nan
  else if accFlag k r 1 then .inf false
  else if accFlag k r 2 then .inf true
  else .fin (decide (accInt k r < 0)) (accInt k r).natAbs 1 (-(k.frac : Int))

/-- Every flag of a record is clear. -/
def accClean (k : AccKind) (r : Nat) : Bool := decide (r < 2 ^ k.w)

/-- The record of one value, exact (R289): a finite value is on the grid up to the sign bit of VALUE, so the limit that ADD sets a term (R300)
does not apply to it. Beyond VALUE's range it is taken as ADD takes a term (DESIGN CHOICE, log entry 46). -/
def accRecord (k : AccKind) : Val → Nat
  | .fin neg n d e =>
    let m := roundUnits rne neg n d e (-(k.frac : Int))
    if m < 2 ^ (k.w - 1) then intBits (true, k.w) (if neg then -(m : Int) else m) else (accAdd k 0 (.fin neg n d e)).r
  | v => (accAdd k 0 v).r

/-- The exact sum of terms as a record. -/
def accSum (k : AccKind) (vs : List Val) : Nat := vs.foldl (fun r v => (accAdd k r v).r) 0

/-! ## Elements -/

/-- The value of an element's bits; an MX element is taken with scale 1. -/
def elemVal (c w : Nat) : Val :=
  if c = 0x15 then (match Val.ofInt (intVal (true, 8) w) with
    | .fin s n d e => .fin s n d (e - 6)
    | v => v)
  else match floatOf c, intOf c with
    | some f, _ => f.decode w
    | _, some i => .ofInt (intVal i w)
    | _, _ => if c = 0x18 then accVal acc320 w else if c = 0x19 then accVal acc2176 w else .zero

/-- The bits of a value converted to a format that is not an MX format (R290 to R292). -/
def elemBits (c mode : Nat) (sat : Bool) (v : Val) : Nat :=
  match floatOf c, intOf c with
  | some f, _ => f.encode mode sat v
  | _, some i => intBits i (roundInt mode (intRange i).1 (intRange i).2 v)
  | _, _ => if c = 0x18 then accRecord acc320 v else if c = 0x19 then accRecord acc2176 v else 0

/-- A conversion to an integer format meets a NaN: it is counted in NAN_TO_INT (R292). -/
def nanToInt (c : Nat) (v : Val) : Bool := isInt c && v.isNan

/-- EMIT of a record into a format (R303): to nearest, whatever ROUND and SAT hold. -/
def accEmit (k : AccKind) (r c : Nat) : Nat := elemBits c rne false (accVal k r)

/-- An element of an MX block under its scale byte (R288). -/
def scaled (v : Val) (scale : Nat) : Val :=
  if scale = 0xFF then .nan
  else match v with
    | .fin s n d e => .fin s n d (e + scale - 127)
    | v => v

/-- Largest exponent of the elements of an MX format (OCP MX v1.0). -/
def mxEmax : Nat → Int
  | 0x10 => 8
  | 0x11 => 15
  | 0x12 => 4
  | 0x13 => 2
  | 0x14 => 2
  | _ => 0

/-- Exponent of the largest finite magnitude of a block, where one is not 0. -/
def blockExp (vs : List Val) : Option Int :=
  vs.foldl (fun m v => match v with
    | .fin _ n d e => if n = 0 then m else some (Max.max (leadExp n d + e) (m.getD (leadExp n d + e)))
    | _ => m) none

/-- A block converted to an MX format: scale byte and element bits (R291, R293). A block whose magnitudes are all 0 has a scale that
OCP MX does not fix. -/
def mxBlock (c mode : Nat) (sat : Bool) (vs : List Val) : Nat × List Nat :=
  let scale : Nat :=
    if vs.any Val.isNan then 0xFF
    else match blockExp vs with
      | some x => (Max.max 0 (Min.min 254 (x - mxEmax c + 127))).toNat
      | none => (Config.mxZeroScale.toNat) % 255
  let down := fun (v : Val) => match v with
    | .fin s n d e => Val.fin s n d (e - ((scale : Int) - 127))
    | v => v
  let one := fun v => if c = 0x15 then
      (match down v with
       | .fin s n d e => intBits (true, 8) (roundInt mode (-128) 127 (.fin s n d (e + 6)))
       | v => intBits (true, 8) (roundInt mode (-128) 127 v))
    else elemBits c mode sat (down v)
  (scale, vs.map one)

/-- Cut a list into runs of n. -/
def chunksOf {α : Type} (n : Nat) : Nat → List α → List (List α)
  | 0, _ => []
  | fuel + 1, l => if l.isEmpty then [] else l.take n :: chunksOf n fuel (l.drop n)

/-- The n-th field of width w of packed bytes (R287, R288: low bits first). -/
def fieldAt (b : List Byte) (w i : Nat) : Nat :=
  let lo := i * w
  bits (leNat (sliceBytes b (lo / 8) (ceilDiv (lo % 8 + w) 8))) (lo % 8) w

/-- n packed elements as values; an MX format's scale bytes are given apart. -/
def unpackVals (c n : Nat) (b scales : List Byte) : List Val :=
  (natRange 0 n).map fun i =>
    let v := elemVal c (fieldAt b (fmtBits c) i)
    if isMx c then scaled v (leField scales (i / 32) 1) else v

/-- Pack bit fields of width w into bytes, low bits first. -/
def packFields (w : Nat) (l : List Nat) : List Byte :=
  leBytes (ceilDiv (l.length * w) 8) (l.foldr (fun x acc => x % 2 ^ w + 2 ^ w * acc) 0)

/-- Values packed in a format: element bytes and, for an MX format, scale bytes. -/
def packVals (c mode : Nat) (sat : Bool) (vs : List Val) : List Byte × List Byte :=
  if isMx c then
    let bs := (chunksOf 32 vs.length vs).map (mxBlock c mode sat)
    (packFields (fmtBits c) (bs.flatMap (·.2)), bs.map fun b => BitVec.ofNat 8 b.1)
  else (packFields (fmtBits c) (vs.map (elemBits c mode sat)), [])

/-! ## Special functions (R295) -/

/-- Whole square root by bits: b is the power of 2 tried, halved each time. -/
def isqrtGo (n : Nat) : Nat → Nat → Nat
  | 0, r => r
  | k + 1, r => if (r + 2 ^ k) * (r + 2 ^ k) ≤ n then isqrtGo n k (r + 2 ^ k) else isqrtGo n k r
def isqrt (n : Nat) : Nat := isqrtGo n (Nat.log2 n / 2 + 1) 0

/-- The root of a positive number to 80 bits, the last bit set where it is not exact. -/
def rootVal (n d : Nat) (e : Int) : Val :=
  let k : Int := (leadExp n d + e) / 2 - 80
  let x := n * 2 ^ (e - 2 * k).toNat
  let x' := if e < 2 * k then n / (d * 2 ^ (2 * k - e).toNat) else x / d
  let exact := if e < 2 * k then decide (n % (d * 2 ^ (2 * k - e).toNat) = 0) else decide (x % d = 0)
  let r := isqrt x'
  .fin false (2 * r + (if exact && decide (r * r = x') then 0 else 1)) 1 (k - 1)

/-- Fraction bits of the fixed-point numbers that EXP and LOG are formed in. -/
abbrev fxBits : Nat := 320

/-- Sum of y^k ÷ k! from term k on, in fixed point. -/
def expSeries (y : Nat) : Nat → Nat → Nat → Nat
  | 0, _, _ => 0
  | fuel + 1, k, t => t + expSeries y fuel (k + 1) (t * y / 2 ^ fxBits / (k + 1))

/-- Square n times in fixed point. -/
def squareN : Nat → Nat → Nat
  | 0, x => x
  | n + 1, x => squareN n (x * x / 2 ^ fxBits)

/-- e to a number of magnitude below 256, before rounding. -/
def expVal (neg : Bool) (n : Nat) (e : Int) : Val :=
  let y := if 0 ≤ e + fxBits - 8 then n * 2 ^ (e + fxBits - 8).toNat else n / 2 ^ (-(e + fxBits - 8)).toNat
  let x := squareN 8 (expSeries y 80 0 (2 ^ fxBits))
  if neg then .fin false (2 ^ fxBits) x 0 else .fin false x (2 ^ fxBits) 0

/-- Sum of z^(2i+1) ÷ (2i+1), in fixed point, where zz is z². -/
def atanhSeries (zz : Nat) : Nat → Nat → Nat → Nat
  | 0, _, _ => 0
  | fuel + 1, i, t => t / (2 * i + 1) + atanhSeries zz fuel (i + 1) (t * zz / 2 ^ fxBits)

/-- ln 2 and the logarithm of m from 1 to 2, in fixed point. -/
def fxLog (num den : Nat) : Nat :=
  let z := (num - den) * 2 ^ fxBits / (num + den)
  2 * atanhSeries (z * z / 2 ^ fxBits) 110 0 z

/-- The logarithm of a positive number, before rounding. -/
def logVal (n : Nat) (e : Int) : Val :=
  let l := Nat.log2 n
  let x : Int := (e + l) * (fxLog 2 1 : Nat) + (fxLog n (2 ^ l) : Nat)
  .fin (decide (x < 0)) x.natAbs 1 (-(fxBits : Int))

/-- A special function of an FP32 value (R295), correctly rounded to FP32; where the function has no value (the logarithm or root of a
number below its range, the reciprocal of 0) the result is open. -/
def sfu (op : Nat) (v : Val) : Val :=
  let open_ := fp32.decode (Config.sfuOpen op (fp32.encode rne false v)).toNat
  match op, v with
  | _, .nan => .nan
  | 1, .inf neg => if neg then .zero else .inf false
  | 1, .fin neg n d e =>
    if n = 0 then .ofNat 1
    else if 7 ≤ leadExp n d + e then (if neg then .zero else .inf false)
    else rnd32 (expVal neg n e)
  | 2, .inf neg => if neg then open_ else .inf false
  | 2, .fin neg n _ e => if n = 0 ∨ neg = true then open_ else rnd32 (logVal n e)
  | 3, .inf neg => .fin neg 0 1 0
  | 3, .fin neg n d e => if n = 0 then open_ else rnd32 (.fin neg d n (-e))
  | 4, .inf neg => if neg then open_ else .zero
  | 4, .fin neg n d e => if n = 0 ∨ neg = true then open_ else rnd32 (rootVal d n (-e))
  | 5, .inf neg => if neg then open_ else .inf false
  | 5, .fin neg n d e => if n = 0 then .fin neg 0 1 0 else if neg then open_ else rnd32 (rootVal n d e)
  | _, v => v

/-- The functions by name. -/
def expF (v : Val) : Val := sfu 1 v
def logF (v : Val) : Val := sfu 2 v
def rcpF (v : Val) : Val := sfu 3 v
def rsqrtF (v : Val) : Val := sfu 4 v
def sqrtF (v : Val) : Val := sfu 5 v

/-! ## The tile's sums (R307) -/

/-- Products that one output receives in one clock (R306): FP32 takes a quarter, so each stands alone. -/
def perClock (c : Nat) : Nat := if c = 0x0C ∨ c = 0x0A ∨ c = 0x0B then 1 else 2

/-- One output of a tile in a floating-point mode: the products of each clock summed exactly and rounded to FP32, that sum added with
one rounding, in ascending k. -/
def tileFloat (per : Nat) (c : Val) (ps : List Val) : Val :=
  (chunksOf per ps.length ps).foldl (fun c g => rnd32 (c.add (rnd32 (g.foldl Val.add .zero)))) c

/-- A whole number reduced to 48 bits, two's complement. -/
def wrap48 (x : Int) : Int := intVal (true, 48) (intBits (true, 48) x)

/-- The integer a value stands for. -/
def Val.toInt : Val → Int
  | .fin s n d e => let m : Int := roundUnits 1 s n d e 0
                    if s then -m else m
  | _ => 0

/-- A dot product as a tile forms it in a GEMM mode from C = 0 with FP32 outputs (R305, R307). -/
def tileDot (c : Nat) (a b : List Val) : Val :=
  let ps := (a.zip b).map fun p => p.1.mul p.2
  if isInt c then rnd32 (.ofInt (wrap48 (ps.foldl (fun x p => x + p.toInt) 0))) else tileFloat (perClock c) .zero ps

/-- A squared distance as a tile forms it in L2 mode. -/
def tileL2 (c : Nat) (a b : List Val) : Val :=
  let ps := (a.zip b).map fun p => (p.1.sub p.2).mul (p.1.sub p.2)
  if isInt c then rnd32 (.ofInt (wrap48 (ps.foldl (fun x p => x + p.toInt) 0))) else tileFloat (perClock c) .zero ps

end Sys2Proof.Machine
end

