-- ==== Sys2Proof/Machine/Cells.lean ====
section
/-! DEFINITION. Machine/Cells.lean: the cell and tile configuration words (07_compute_fabric.md R294, R295, R298, R305) and one step
of a block: every element of a chunk through its cells and its tile (R284 to R286, R295 to R307). -/
namespace Sys2Proof.Machine

/-! ## Configuration words -/

/-- The fields of a cell word (R294). -/
structure CellWord where
  en : Bool
  mode : Nat
  sat : Bool
  fmtA : Nat
  fmtB : Nat
  fmtOut : Nat
  srcA : Nat
  srcB : Nat
  srcC : Nat
  mul : Nat
  alu : Nat
  sfu : Nat
  accOp : Nat
  accSel : Nat
  acc64 : Bool
  round : Nat
  dst : Nat
  stA : Nat
  stB : Nat
  stOut : Nat
  constA : Nat
  constB : Nat
deriving DecidableEq, Repr

def cellWord (w : Nat) : CellWord :=
  { en := w.testBit 0, mode := bits w 1 2, sat := w.testBit 3, fmtA := bits w 4 5, fmtB := bits w 9 5, fmtOut := bits w 14 5,
    srcA := bits w 20 4, srcB := bits w 24 4, srcC := bits w 28 4, mul := bits w 32 4, alu := bits w 36 4, sfu := bits w 40 3,
    accOp := bits w 44 3, accSel := bits w 47 2, acc64 := w.testBit 49, round := bits w 50 2, dst := bits w 52 4,
    stA := bits w 64 6, stB := bits w 70 6, stOut := bits w 76 6, constA := bits w 96 32, constB := bits w 128 32 }

/-- A format belongs to a lane mode (R287). -/
def laneFmt (mode c : Nat) : Bool :=
  c = 0 ||
  match mode with
  | 0 => c = 0x05 || c = 0x0A || c = 0x0B || c = 0x18
  | 1 => c = 0x01 || c = 0x02 || c = 0x03 || c = 0x04 || c = 0x08 || c = 0x09 || isMx c
  | 2 => c = 0x06 || c = 0x0C || c = 0x0D || c = 0x18 || c = 0x19
  | _ => fmtListed c

/-- A cell word meets R298. -/
def cellOk (w : Nat) : Bool :=
  let c := cellWord w
  bits w 19 1 = 0 && bits w 43 1 = 0 && bits w 56 8 = 0 && bits w 82 14 = 0 && bits w 160 96 = 0 &&
  decide (c.srcA ≤ 12 ∧ c.srcB ≤ 12 ∧ c.srcC ≤ 12 ∧ c.mul ≤ 4 ∧ c.alu ≤ 10 ∧ c.sfu ≤ 5 ∧ c.accOp ≤ 6 ∧ c.dst ≤ 6) &&
  (decide (c.accOp ≠ 1 ∧ c.accOp ≠ 2) || (c.alu = 0 && c.sfu = 0)) &&
  laneFmt c.mode c.fmtA && laneFmt c.mode c.fmtB && laneFmt c.mode c.fmtOut &&
  (c.alu ≠ 8 || c.mode = 3) && (c.mode ≠ 1 || decide (c.accSel < 2)) && (!c.acc64 || c.mode = 2)

/-- A format that a tile takes (R287), and its width class. -/
def tileFmt (c : Nat) : Bool :=
  c = 1 || c = 2 || c = 3 || c = 4 || c = 8 || c = 9 || c = 0xA || c = 0xB || c = 0xC || isMx c
def widthClass (c : Nat) : Nat := if c = 0xC then 32 else if c = 0xA ∨ c = 0xB then 16 else 8

/-- A tile word meets R298 and R305. -/
def tileOk (w : Nat) : Bool :=
  let a := bits w 3 5
  let b := bits w 8 5
  decide (bits w 0 3 ≤ 4) && bits w 14 2 = 0 && bits w 32 32 = 0 &&
  ((bits w 0 3 = 0 && a = 0 && b = 0 && !w.testBit 13) ||
   (tileFmt a && tileFmt b && widthClass a = widthClass b && (!w.testBit 13 || (isInt a && isInt b))))

/-! ## A step's surroundings -/

/-- What a block's step works on: the words and routes of its template, the elements in its chunk, the read halves by stream, and the
long-lived state of the block. -/
structure StepIn where
  words : List Nat
  routes : List Nat
  tile : Nat
  elems : Nat
  reads : List (Nat × List Byte)
  accs : List (Nat × Nat)
  prev : List (Nat × Nat)
  tileC : List Nat
deriving DecidableEq, Repr

/-- What a step leaves: accumulators, previous results and the tile's C; the bytes it wrote to streams; and what it counts (R372). -/
structure StepOut where
  accs : List (Nat × Nat) := []
  prev : List (Nat × Nat) := []
  tileC : List Nat := []
  writes : List (Nat × List Byte) := []
  nanInt : Nat := 0
  excess : Nat := 0
  rounded : Nat := 0
deriving DecidableEq, Repr

/-- Lanes of a cell (R284, R285, R304). -/
def lanesOf (c : CellWord) : Nat :=
  match c.mode with
  | 0 => 32
  | 1 => 64
  | 2 => if c.acc64 then 4 else if c.fmtA = 0xD ∨ c.fmtB = 0xD ∨ c.fmtOut = 0xD then 8 else 16
  | _ => 1

/-- Slice and number of the accumulator that a lane uses (R284, R304). -/
def accAt (c : CellWord) (lane : Nat) : Nat × Nat :=
  match c.mode with
  | 0 => (lane, c.accSel)
  | 1 => (lane / 2, c.accSel + 2 * (lane % 2))
  | 2 => if c.acc64 then (7 * lane, c.accSel) else if lanesOf c = 8 then (4 * lane, c.accSel) else (2 * lane, c.accSel)
  | _ => (0, c.accSel)

def accKind (c : CellWord) : AccKind := if c.acc64 then acc2176 else acc320

/-- Read and write the record of a lane; an FP64 record lies in the accumulators of seven slices (R304). -/
def accRead (c : CellWord) (accs : List (Nat × Nat)) (cell lane : Nat) : Nat :=
  let a := accAt c lane
  let key := fun k => (cell * 32 + a.1 + k) * 4 + a.2
  if c.acc64 then (natRange 0 7).foldr (fun k v => kget accs (key k) 0 + 2 ^ 320 * v) 0 % 2 ^ 2176 else kget accs (key 0) 0
def accWrite (c : CellWord) (accs : List (Nat × Nat)) (cell lane r : Nat) : List (Nat × Nat) :=
  let a := accAt c lane
  let put := fun (m : List (Nat × Nat)) k v => if v = 0 then kdel m ((cell * 32 + a.1 + k) * 4 + a.2) else kset m ((cell * 32 + a.1 + k) * 4 + a.2) v
  if c.acc64 then (natRange 0 7).foldl (fun m k => put m k (r / 2 ^ (320 * k) % 2 ^ 320)) accs else put accs 0 r

/-- An element's value from bits, in 512-bit mode as they stand. -/
def laneVal (c : CellWord) (fmt w : Nat) : Val := if c.mode = 3 then .ofNat w else elemVal fmt w
/-- The bits of an element's value. -/
def laneBits (c : CellWord) (fmt : Nat) (v : Val) : Nat :=
  if c.mode = 3 then v.toInt.toNat % 2 ^ 512 else elemBits fmt c.round c.sat v
def laneWidth (c : CellWord) (fmt : Nat) : Nat := if c.mode = 3 then 512 else fmtBits fmt

/-- A constant of the word, in FP32 for formats wider than 32 bits (R294). -/
def constVal (c : CellWord) (fmt w : Nat) : Val :=
  if c.mode = 3 then .ofNat w else if 32 < fmtBits fmt then fp32.decode w else elemVal fmt (w % 2 ^ fmtBits fmt)

/-- Element i of a stream under a format; the scales of an MX stream are the next stream (R288). -/
def streamVal (x : StepIn) (c : CellWord) (fmt st i : Nat) : Val :=
  let v := laneVal c fmt (fieldAt (kget x.reads st []) (laneWidth c fmt) i)
  if c.mode ≠ 3 ∧ isMx fmt = true then scaled v (leField (kget x.reads ((st + 1) % 64) []) (i / 32) 1) else v

/-- Element n of the tile's output: row-major, INT32 or FP32 (R305). -/
def tileVal (x : StepIn) (n : Nat) : Val := elemVal (if x.tile.testBit 13 then 0x06 else 0x0C) (x.tileC.getD (n % 1024) 0)

/-- A cell's results so far, by element: the values that its outputs carry. -/
abbrev Results := List (Nat × List Val)

/-- The value at a network input of a cell (R342). -/
def netIn (x : StepIn) (res : Results) (cell port i : Nat) : Val :=
  let r := x.routes.getD (4 * cell + port) 0
  let src := bits r 2 5
  let dst := bits (x.words.getD src 0) 52 4
  let carried := if bits r 0 2 = 1 then dst = 1 || dst = 6 else if bits r 0 2 = 2 then dst = 2 || dst = 6 else false
  if carried then (kget res src []).getD i .zero else .zero

/-- The state of a cell while its elements pass. -/
structure CellRun where
  accs : List (Nat × Nat)
  prev : List (Nat × Nat)
  /-- the accumulators as the present clock found them -/
  clock : List (Nat × Nat) := []
  out : List (Option Val) := []
  recs : List Nat := []
  nanInt : Nat := 0
  excess : Nat := 0
  rounded : Nat := 0
deriving DecidableEq, Repr

/-- The selected accumulator of a lane, rounded to nearest even into FMT_OUT (R295): as its bits stand in 512-bit mode, which ignores every
format (R286); for an MX format under the scale of the lanes that pass in the same clock and block. -/
def accSource (x : StepIn) (c : CellWord) (cell lane i : Nat) (r : CellRun) : Val :=
  let k := accKind c
  if c.mode = 3 then .ofNat (accRead c r.accs cell lane)
  else if isMx c.fmtOut then
    let n := Nat.min 32 (x.elems - i / 32 * 32)
    let p := packVals c.fmtOut rne false ((natRange (lane / 32 * 32) n).map fun l => accVal k (accRead c r.clock cell l))
    (unpackVals c.fmtOut n p.1 p.2).getD (lane % 32) .zero
  else elemVal c.fmtOut (accEmit k (accRead c r.accs cell lane) c.fmtOut)

/-- Results converted to an MX FMT_OUT, block by block (R293): element bytes and scale bytes. EMIT rounds to nearest whatever ROUND and SAT
hold (R303). -/
def mxOut (c : CellWord) (vs : List Val) : List Byte × List Byte :=
  if c.accOp = 3 then packVals c.fmtOut rne false vs else packVals c.fmtOut c.round c.sat vs

/-- The cell's own result of its lane's previous element, in FMT_OUT (FEEDBACK; log entry 46 for the lane). An MX block passes within one
clock, so the previous element's block has its scale; a step's first clock takes the result that the step before left. -/
def feedback (c : CellWord) (cell lane i : Nat) (r : CellRun) : Val :=
  if c.mode ≠ 3 ∧ isMx c.fmtOut = true then
    if i < lanesOf c then
      let w := kget r.prev (cell * 64 + lane) 0
      scaled (elemVal c.fmtOut (w % 2 ^ 8)) (w / 2 ^ 8)
    else
      let j := i - lanesOf c
      let vs := ((r.out.drop (j / 32 * 32)).take 32).map fun o => o.getD .zero
      let p := mxOut c vs
      (unpackVals c.fmtOut vs.length p.1 p.2).getD (j % 32) .zero
  else laneVal c c.fmtOut (kget r.prev (cell * 64 + lane) 0)

/-- The value of a source (R295): `fmt` is the operand's format. -/
def source (x : StepIn) (res : Results) (c : CellWord) (cell lane i code fmt : Nat) (r : CellRun) : Val :=
  match code with
  | 1 => constVal c c.fmtA c.constA
  | 2 => constVal c c.fmtB c.constB
  | 3 | 4 | 5 | 6 => netIn x res cell (code - 3) i
  | 7 => streamVal x c fmt c.stA i
  | 8 => streamVal x c fmt c.stB i
  | 9 => accSource x c cell lane i r
  | 10 => tileVal x i
  | 11 => feedback c cell lane i r
  | 12 => .ofNat (lane + 64 * i)
  | _ => .zero

/-- The multiply stage. -/
def mulStage (op : Nat) (a b c : Val) : Val :=
  match op with
  | 1 => a.mul b
  | 2 => a.mul a
  | 3 => (a.sub b).mul (a.sub b)
  | 4 => (a.mul b).add c
  | _ => a

/-- A bitwise operation on the patterns of two values. -/
def bitwise (c : CellWord) (op : Nat) (m v : Val) : Val :=
  let x := laneBits c c.fmtA m
  let y := laneBits c c.fmtA v
  laneVal c c.fmtA (if op = 5 then x &&& y else if op = 6 then x ||| y else x ^^^ y)

/-- Number of 1 bits. -/
def popcount (x : Nat) : Nat := ((natRange 0 512).filter fun i => x.testBit i).length

/-- A value rounded to FP32 under ROUND (R296). -/
def roundAlu (c : CellWord) (v : Val) : Val := fp32.decode (fp32.encode c.round c.sat v)

/-- The ALU stage. -/
def aluStage (c : CellWord) (m v : Val) : Val :=
  match c.alu with
  | 1 => roundAlu c (m.add v)
  | 2 => roundAlu c (m.sub v)
  | 3 => roundAlu c (m.min v)
  | 4 => roundAlu c (m.max v)
  | 5 | 6 | 7 => if c.mode = 3 then bitwise c c.alu m v else roundAlu c (bitwise c c.alu m v)
  | 8 => .ofNat (popcount (laneBits c c.fmtA m ^^^ laneBits c c.fmtA v))
  | 9 => .ofNat (if m.lt v then 1 else 0)
  | 10 => roundAlu c m.abs
  | _ => m

/-- The stages before the accumulator. In 512-bit mode only the bitwise and popcount operations act (R286). -/
def stages (x : StepIn) (res : Results) (c : CellWord) (cell lane i : Nat) (r : CellRun) : Val :=
  let a := source x res c cell lane i c.srcA c.fmtA r
  let b := source x res c cell lane i c.srcB c.fmtB r
  let v := source x res c cell lane i c.srcC (if c.srcC = 8 then c.fmtB else c.fmtA) r
  if c.mode = 3 then (if 5 ≤ c.alu ∧ c.alu ≤ 8 then aluStage c a v else a)
  else
    let m := aluStage c (mulStage c.mul a b v) v
    if c.sfu = 0 then m else sfu c.sfu (roundAlu c m)

/-- The ACC source converts a NaN record into an integer FMT_OUT: one NAN_TO_INT (R292). -/
def accNan (c : CellWord) (acc : Nat) : Nat :=
  if c.mode ≠ 3 ∧ c.accOp ≤ 2 ∧ (c.srcA = 9 ∨ c.srcB = 9 ∨ c.srcC = 9) ∧ nanToInt c.fmtOut (accVal (accKind c) acc) = true then 1 else 0

/-- One element through one cell (R295, R300 to R303). -/
def elemStep (x : StepIn) (res : Results) (c : CellWord) (cell : Nat) (r : CellRun) (i : Nat) : CellRun :=
  let lane := i % lanesOf c
  let k := accKind c
  let acc := accRead c r.accs cell lane
  let r := if lane = 0 then { r with clock := r.accs } else r
  let nan := fun (v : Val) => if c.mode ≠ 3 ∧ nanToInt c.fmtOut v = true then 1 else 0
  let record := leNat (sliceBytes (kget x.reads c.stA []) (i * k.bytes) k.bytes)
  let put := fun (r : CellRun) (a : Nat) => { r with accs := accWrite c r.accs cell lane a, out := r.out ++ [none] }
  let add := fun (from_ : Nat) (v : Val) =>
    let t := accAdd k from_ v
    { put r t.r with excess := r.excess + (if t.excess then 1 else 0), rounded := r.rounded + (if t.rounded then 1 else 0) }
  -- a result leaves: in FMT_OUT, or for its MX block, which is converted once it is whole
  let send := fun (r : CellRun) (v : Val) (w : Nat) =>
    if c.mode ≠ 3 ∧ isMx c.fmtOut = true then { r with out := r.out ++ [some v] }
    else { r with prev := kset r.prev (cell * 64 + lane) w, out := r.out ++ [some (laneVal c c.fmtOut w)] }
  let r := { r with nanInt := r.nanInt + accNan c acc }
  match (if c.mode = 3 then 0 else c.accOp) with
  | 1 => add acc (stages x res c cell lane i r)
  | 2 => add 0 (stages x res c cell lane i r)
  | 3 =>
    let v := accVal k acc
    send { r with accs := accWrite c r.accs cell lane 0, nanInt := r.nanInt + nan v } v (accEmit k acc c.fmtOut)
  | 4 => { r with out := r.out ++ [none], recs := r.recs ++ [acc] }
  | 5 => put r record
  | 6 => put r (accMerge k acc record)
  | _ =>
    let v := stages x res c cell lane i r
    send { r with nanInt := r.nanInt + nan v } v (laneBits c c.fmtOut v)

/-- The values that a cell's outputs carry, once an MX result's blocks have their scales (R293); and its element and scale bytes. -/
def outVals (c : CellWord) (out : List (Option Val)) : List Val × List Byte × List Byte :=
  let vs := out.map fun o => o.getD .zero
  if c.mode ≠ 3 ∧ isMx c.fmtOut = true then
    let p := mxOut c vs
    (unpackVals c.fmtOut vs.length p.1 p.2, p.1, p.2)
  else (vs, packFields (laneWidth c c.fmtOut) (vs.map (laneBits c c.fmtOut)), [])

/-- The result that each lane last gave, kept for the next step's FEEDBACK: an MX element with its scale above it. -/
def mxPrev (c : CellWord) (cell n : Nat) (p : List Byte × List Byte) (prev : List (Nat × Nat)) : List (Nat × Nat) :=
  (natRange (n - lanesOf c) (Nat.min n (lanesOf c))).foldl (fun m j =>
    kset m (cell * 64 + j % lanesOf c) (fieldAt p.1 (fmtBits c.fmtOut) j + 2 ^ 8 * leField p.2 (j / 32) 1)) prev

/-- A cell over the whole chunk. -/
def cellRun (x : StepIn) (cell : Nat) (st : StepOut × Results) : StepOut × Results :=
  let c := cellWord (x.words.getD cell 0)
  if !c.en then (st.1, kset st.2 cell [])
  else
    let o := st.1
    let r := (natRange 0 x.elems).foldl (elemStep x st.2 c cell) { accs := o.accs, prev := o.prev }
    let v := outVals c r.out
    let leaves := r.out.any Option.isSome
    let prev := if c.mode ≠ 3 ∧ isMx c.fmtOut = true ∧ leaves = true then mxPrev c cell r.out.length v.2 r.prev else r.prev
    let writes := if c.mode ≠ 3 ∧ c.accOp = 4 then kset o.writes c.stOut (r.recs.flatMap (leBytes (accKind c).bytes))
      else if c.dst = 3 ∧ leaves = true then
        let w := kset o.writes c.stOut v.2.1
        if v.2.2.isEmpty then w else kset w ((c.stOut + 1) % 64) v.2.2
      else o.writes
    ({ o with accs := r.accs, prev := prev, writes := writes, nanInt := o.nanInt + r.nanInt, excess := o.excess + r.excess,
              rounded := o.rounded + r.rounded }, kset st.2 cell v.1)

/-- Cells whose results a cell needs. -/
def feeds (x : StepIn) (cell : Nat) : List Nat :=
  (natRange 0 4).filterMap fun p =>
    let r := x.routes.getD (4 * cell + p) 0
    if bits r 0 2 = 0 then none else some (bits r 2 5)

/-- Run the cells whose sources have run, over and over: the routes form no cycle (R342). -/
def cellsRun (x : StepIn) : Nat → StepOut × Results → StepOut × Results
  | 0, st => st
  | fuel + 1, st =>
    match (natRange 0 x.words.length).find? fun c => (kfind st.2 c).isNone && (feeds x c).all fun d => (kfind st.2 d).isSome with
    | some c => cellsRun x fuel (cellRun x c st)
    | none => st

/-- The panel that cells send to an operand of the tile, row after row (DEDUCED from C's order, log entry 50). -/
def panel (x : StepIn) (res : Results) (dst : Nat) : List Val :=
  match ((natRange 0 x.words.length).filter fun c => (x.words.getD c 0).testBit 0 && bits (x.words.getD c 0) 52 4 = dst).getLast? with
  | some c => kget res c []
  | none => []

/-- The tile's C after a step (R305, R307): A has 32 rows of K, B has K rows of 32, and under GEMM_BT 32 rows of K. -/
def tileStep (x : StepIn) (res : Results) : List Nat :=
  let mode := bits x.tile 0 3
  let fa := bits x.tile 3 5
  let fb := bits x.tile 8 5
  let k := bits x.tile 16 16
  let int := isInt fa && isInt fb
  let a := panel x res 4
  let b := panel x res 5
  if mode = 0 then x.tileC
  else
    (natRange 0 1024).map fun n =>
      let i := n / 32
      let j := n % 32
      let c0 := if mode = 4 then Val.zero else tileVal x n
      let ps := (natRange 0 k).map fun q =>
        let u := a.getD (k * i + q) .zero
        let v := b.getD (if mode = 2 then k * j + q else 32 * q + j) .zero
        if mode = 3 then (u.sub v).mul (u.sub v) else u.mul v
      if int then
        let v := wrap48 (ps.foldl (fun t p => t + p.toInt) c0.toInt)
        if x.tile.testBit 13 then intBits (true, 32) (roundInt rne (-(2 ^ 31)) (2 ^ 31 - 1) (.ofInt v)) else fp32.encode rne false (.ofInt v)
      else fp32.encode rne false (tileFloat (Nat.max (perClock fa) (perClock fb)) c0 ps)

/-- One step of a block (R316): the cells that feed the tile, the tile, and the cells again with the tile's output. -/
def blockStep (x : StepIn) : StepOut :=
  let start : StepOut := { accs := x.accs, prev := x.prev, tileC := x.tileC }
  if x.elems = 0 then start
  else
    let n := x.words.length
    let first := cellsRun x n (start, [])
    if bits x.tile 0 3 = 0 then first.1
    else
      let c := tileStep x first.2
      let y := { x with tileC := c }
      { (cellsRun y n (start, [])).1 with tileC := c }

end Sys2Proof.Machine
end

