-- ==== Sys2Proof/Machine/Sections.lean ====
section
/-! DEFINITION. Machine/Sections.lean: section tables of program images and firmware bundles (08_fabric_programs.md R336 to R338,
22_boot_reset.md R916), and what is read from the bundle that is in use. -/
namespace Sys2Proof.Machine

/-- A section: its type, offset and length. -/
structure Section where
  type : Nat
  off : Nat
  len : Nat
deriving DecidableEq, Repr

/-- The entries of a section table of n entries (R337): none where a reserved bit is 1 or an unused entry is not 0. -/
def readSections (b : List Byte) (base : Nat) : Nat → Option (List Section)
  | 0 => some []
  | n + 1 =>
    match readSections b base n with
    | none => none
    | some l =>
      let o := base + 16 * n
      let e : Section := { type := leField b o 1, off := leField b (o + 4) 4, len := leField b (o + 8) 4 }
      if leField b (o + 1) 3 ≠ 0 ∨ leField b (o + 12) 4 ≠ 0 then none
      else if e.type = 0 then (if e.off = 0 ∧ e.len = 0 then some l else none)
      else some (l ++ [e])

/-- Two sections share a byte. -/
def Section.meets (a b : Section) : Bool := decide (a.off < b.off + b.len ∧ b.off < a.off + a.len)

/-- A byte offset lies in a section, or before the first place where one may start. -/
def inSection (l : List Section) (least k : Nat) : Bool :=
  decide (k < least) || l.any fun e => decide (e.off ≤ k ∧ k < e.off + e.len)

/-- Bytes between sections are zero. -/
def gapsZero (l : List Section) (least : Nat) : Nat → List Byte → Bool
  | _, [] => true
  | k, x :: xs => (x = 0 || inSection l least k) && gapsZero l least (k + 1) xs

/-- Sections meet R337 and R338: known types, each at most once, the required ones there, offsets multiples of 64 at or above
the least, none overlapping, SIGNATURE (0x0F) last and ending with the image. -/
def sectionsOk (b : List Byte) (least : Nat) (known required : List Nat) (l : List Section) : Bool :=
  let types := l.map (·.type)
  types.all known.contains && required.all types.contains && types.Nodup &&
  l.all (fun e => e.off % 64 = 0 && decide (least ≤ e.off) && decide (e.off + e.len ≤ b.length)) &&
  l.Pairwise (fun a c => !a.meets c) &&
  (l.find? fun e => e.type = 0x0F).any (fun g => g.off + g.len = b.length && l.all fun e => decide (e.off ≤ g.off)) &&
  gapsZero l least 0 b

/-- The bytes of a section of a type; none of them where there is no such section. -/
def sectionBytes (b : List Byte) (l : List Section) (type : Nat) : List Byte :=
  match l.find? fun e => e.type = type with
  | some e => (b.drop e.off).take e.len
  | none => []

/-! ## The firmware bundle (R916, R917) -/

/-- Section table of a bundle. -/
def bundleSections (b : List Byte) : Option (List Section) := readSections b 0x40 16

/-- Bytes of a section of the bundle. -/
def bundlePart (b : List Byte) (type : Nat) : List Byte := sectionBytes b ((bundleSections b).getD []) type

/-! ## The switch's own identity (R735, R743, R744) -/

/-- The certificate chain in slot 0 (R743). -/
def ownChain (s : State) : List Byte := Config.certChain (bundlePart s.boot.bundle 5) s.fm.serial

/-- The measurement of the bundle in use (R744, index 2). -/
def bundleMeasure (s : State) : List Byte := Config.shake256 32 s.boot.bundle

/-- A signature under the alias key (R735): an ML-DSA-65 signature in the block of R796. -/
def aliasSign (s : State) (msg : List Byte) : List Byte :=
  sliceBytes (Config.mldsaSign s.fm.serial (bundleMeasure s) msg) 0 3309 ++ leBytes 19 0

end Sys2Proof.Machine
end

