-- ==== Sys2Proof/Machine/ProgImage.lean ====
section
/-! DEFINITION. Machine/ProgImage.lean: the program image and the checks it meets when it is loaded (08_fabric_programs.md R336 to
R348, R359). -/
namespace Sys2Proof.Machine

/-! ## Reading an image -/

/-- The section table of an image (R336). -/
def imageSections (b : List Byte) : Option (List Section) := readSections b 0x40 8

/-- Bytes of a section of an image. -/
def imagePart (b : List Byte) (type : Nat) : List Byte := sectionBytes b ((imageSections b).getD []) type

/-- Number of templates (R339). -/
def templateCount (b : List Byte) : Nat := (imagePart b 1).length / 32

/-- The fields of a template's resource record (R339). -/
structure Resource where
  count : Nat
  regions : Nat
  placement : Nat
  cells : Nat
  tile : Bool
  scratch : Nat
deriving DecidableEq, Repr

def resourceOf (b : List Byte) (t : Nat) : Resource :=
  let r := sliceBytes (imagePart b 1) (32 * t) 32
  { count := leField r 0 2 % 512, regions := leField r 2 2, placement := leField r 4 1 % 4, cells := leField r 4 1 / 4,
    tile := leField r 5 1 % 2 = 1, scratch := leField r 8 4 % 2 ^ 20 }

/-- The words, tile word and route entries of a template (R340). -/
def templateBytes (b : List Byte) (t : Nat) : List Byte := sliceBytes (imagePart b 2) (1344 * t) 1344
def cellWords (b : List Byte) (t : Nat) : List Nat := (natRange 0 32).map fun i => leField (templateBytes b t) (32 * i) 32
def tileWord (b : List Byte) (t : Nat) : Nat := leField (templateBytes b t) 1024 8
def routeEntries (b : List Byte) (t : Nat) : List Nat := (natRange 0 128).map fun i => leField (templateBytes b t) (1088 + 2 * i) 2

/-- A stream entry (R344). -/
structure Stream where
  valid : Bool
  write : Bool
  compressed : Bool
  kind : Nat
  param : Nat
  base : Nat
  half : Nat
  peerT : Nat
  peerS : Nat
  bytes : Nat
deriving DecidableEq, Repr

def streamBytes (b : List Byte) (t : Nat) : List Byte := sliceBytes (imagePart b 3) (1040 * t) 1040
def stepElems (b : List Byte) (t : Nat) : Nat := leField (streamBytes b t) 0 4
def streamOf (b : List Byte) (t s : Nat) : Stream :=
  let e := sliceBytes (streamBytes b t) (16 + 16 * s) 16
  let f := leField e 0 1
  { valid := f.testBit 0, write := f.testBit 1, compressed := f.testBit 2, kind := bits f 3 4, param := leField e 1 1,
    base := leField e 2 2 % 2 ^ 13, half := leField e 4 2 % 2 ^ 14, peerT := leField e 6 2 % 16,
    peerS := leField e 6 2 / 16 % 64, bytes := leField e 8 4 }

/-- The valid streams of a template by number. -/
def streamsOf (b : List Byte) (t : Nat) : List (Nat × Stream) :=
  ((natRange 0 64).map fun s => (s, streamOf b t s)).filter fun e => e.2.valid

/-- Blocks that an image binds (R349, R368). -/
def blocksOf (b : List Byte) : Nat := ((natRange 0 (templateCount b)).map fun t => (resourceOf b t).count).foldl (· + ·) 0

def programId (b : List Byte) : Nat := leField b 0x10 8
def programVersion (b : List Byte) : Nat := leField b 0x18 4
def imageKind (b : List Byte) : Nat := leField b 6 1

/-! ## The checks of R348 -/

/-- The reserved bits of RESOURCES are 0, and values are in range (R339). -/
def resourceOk (b : List Byte) (t : Nat) : Bool :=
  let r := sliceBytes (imagePart b 1) (32 * t) 32
  let x := resourceOf b t
  decide (x.count ≤ 256) && leField r 0 2 / 512 = 0 && decide (x.placement ≤ 2) && decide (x.cells ≤ 32) &&
  leField r 5 1 / 2 = 0 && leField r 6 2 = 0 && leField r 8 4 / 2 ^ 20 = 0 && leField r 12 20 = 0 &&
  x.scratch % 4096 = 0 && decide (x.scratch ≤ 524288)

/-- Check 1 on a template: every reserved bit of its cell and tile words (R294, R305), its routes (R342) and its streams (R343, R344) is 0. -/
def reservedOk (b : List Byte) (t : Nat) : Bool :=
  let raw := streamBytes b t
  ((cellWords b t).all fun w => bits w 19 1 = 0 && bits w 43 1 = 0 && bits w 56 8 = 0 && bits w 82 14 = 0 && bits w 160 96 = 0) &&
  bits (tileWord b t) 14 2 = 0 && bits (tileWord b t) 32 32 = 0 &&
  ((routeEntries b t).all fun e => bits e 7 9 = 0) && leField raw 4 12 = 0 &&
  (natRange 0 64).all fun s =>
    let e := sliceBytes raw (16 + 16 * s) 16
    leField e 0 1 / 128 = 0 && leField e 2 2 / 2 ^ 13 = 0 && leField e 4 2 / 2 ^ 14 = 0 && leField e 6 2 / 2 ^ 10 = 0 && leField e 12 4 = 0

/-- Check 1: header, section table and reserved bits (R336 to R344). -/
def imageFormOk (b : List Byte) : Bool :=
  match imageSections b with
  | none => false
  | some l =>
    let n := (sectionBytes b l 1).length / 32
    b.length % 64 = 0 && decide (b.length ≤ 16 * MiB) && leField b 0 4 = 0x46504D4F && leField b 4 2 = 1 &&
    (leField b 6 1 = 1 || leField b 6 1 = 2) && leField b 7 1 = 0 && leField b 8 4 = b.length && decide (leField b 12 4 < 4) &&
    leField b 0x1C 4 = 0 && sectionsOk b 0xC0 [1, 2, 3, 0x0F] [1, 2, 3, 0x0F] l &&
    (sectionBytes b l 1).length = 32 * n && decide (n ≤ 16) && (sectionBytes b l 2).length = 1344 * n &&
    (sectionBytes b l 3).length = 1040 * n && (sectionBytes b l 0x0F).length = 3328 &&
    ((sectionBytes b l 0x0F).drop 3309).all (· = 0) && (natRange 0 n).all fun t => resourceOk b t && reservedOk b t

/-- The public key that signs an image of a kind (R347): a Shoarn key of the bundle, or the key the partition has registered. -/
def signerKey (s : State) (part : Nat) (b : List Byte) : Option (List Byte) :=
  let named := sliceBytes b 0x20 32
  let keys := if imageKind b = 1 then
      let k := bundlePart s.boot.bundle 3
      (natRange 0 (k.length / 1952)).map fun i => sliceBytes k (1952 * i) 1952
    else (match (kget s.fab.progs part {}).signer with
      | some k => [k]
      | none => [])
  keys.find? fun k => Config.shake256 32 k = named

/-- Check 4: the signature verifies over everything before its section (R347). -/
def imageSigned (b key : List Byte) : Bool :=
  let l := (imageSections b).getD []
  match l.find? fun e => e.type = 0x0F with
  | some e => Config.mldsaVerify key (b.take e.off) ((sectionBytes b l 0x0F).take 3309)
  | none => false

/-- Cells that can be run in some order: the routes form no cycle (R342). -/
def acyclic (b : List Byte) (t n : Nat) : Bool :=
  let x : StepIn := { words := (cellWords b t).take n, routes := routeEntries b t, tile := 0, elems := 0, reads := [], accs := [],
                      prev := [], tileC := [] }
  let rec go : Nat → List Nat → Nat
    | 0, done => done.length
    | fuel + 1, done =>
      match (natRange 0 n).find? fun c => !done.contains c && (feeds x c).all done.contains with
      | some c => go fuel (c :: done)
      | none => done.length
  go n [] = n

/-- Check 6 on a template's words and routes (R298, R305, R340 to R342). -/
def templateOk (b : List Byte) (t : Nat) : Bool :=
  let r := resourceOf b t
  let routes := routeEntries b t
  (cellWords b t).all cellOk && ((cellWords b t).drop r.cells).all (· = 0) && tileOk (tileWord b t) &&
  (r.tile || tileWord b t = 0) && leField (templateBytes b t) 1032 56 = 0 &&
  ((natRange 0 128).all fun i =>
    let e := routes.getD i 0
    bits e 7 9 = 0 && bits e 0 2 ≠ 3 && (i / 4 < r.cells || e = 0) &&
    (bits e 0 2 = 0 || (decide (bits e 2 5 < r.cells) && bits e 2 5 ≠ i / 4))) &&
  acyclic b t r.cells

/-- Check 6 on a stream entry (R343 to R346, R357). -/
def streamOk (b : List Byte) (t : Nat) (e : Stream) : Bool :=
  decide (e.kind ≤ 6) && (e.kind = 1 || e.param = 0) && decide (e.param ≤ 31) && decide (e.half ≤ 4096) &&
  decide (e.bytes ≤ 64 * e.half) && decide (64 * (e.base + 2 * e.half) ≤ (resourceOf b t).scratch) &&
  (!e.compressed || !e.write) &&
  (match e.kind with
   | 2 | 5 => !e.write
   | 3 => e.write
   | _ => true) &&
  (e.kind ≠ 4 || (decide (e.peerT < templateCount b) &&
    ((resourceOf b t).count = 0 || (resourceOf b e.peerT).count ≠ 0)))

/-- Check 6 on a template's streams: reserved bits, no overlap, at most 8 compressed reads (R309, R343 to R345). -/
def streamsOk (b : List Byte) (t : Nat) : Bool :=
  let raw := streamBytes b t
  let l := streamsOf b t
  decide (stepElems b t ≤ 2 ^ 20) && leField raw 4 12 = 0 &&
  ((natRange 0 64).all fun s =>
    let e := sliceBytes raw (16 + 16 * s) 16
    leField e 0 1 / 128 = 0 && leField e 2 2 / 2 ^ 13 = 0 && leField e 4 2 / 2 ^ 14 = 0 && leField e 6 2 / 2 ^ 10 = 0 &&
    leField e 12 4 = 0) &&
  l.all (fun e => streamOk b t e.2) &&
  l.Pairwise (fun a c => a.2.base + 2 * a.2.half ≤ c.2.base ∨ c.2.base + 2 * c.2.half ≤ a.2.base ∨ a.2.half = 0 ∨ c.2.half = 0) &&
  decide ((l.filter fun e => e.2.compressed).length ≤ 8)

/-- The status of the first check of 1 to 6 that fails, with its order (R348). -/
def imageCheck (s : State) (part kind : Nat) (b : List Byte) : Option (Nat × Nat) :=
  let n := templateCount b
  if !imageFormOk b || imageKind b ≠ kind then some (0x6, 1)
  else if !(leField b 12 4).testBit (match s.part with
      | .olm9648A0 | .olm9648B0 => 0
      | _ => 1) then some (0xA, 2)
  else match signerKey s part b with
    | none => some (0x5, 3)
    | some key =>
      if !imageSigned b key then some (0x5, 4)
      else if imageKind b = 2 && (natRange 0 n).any fun t => (streamsOf b t).any fun e => e.2.kind = 5 then some (0x5, 5)
      else if !(natRange 0 n).all fun t => templateOk b t && streamsOk b t then some (0x6, 6)
      else none

end Sys2Proof.Machine
end

