-- ==== Sys2Proof/Machine/FabCore.lean ====
section
/-! DEFINITION. Machine/FabCore.lean: blocks and their binding (08_fabric_programs.md R335 to R372), engines' work over memory (03
R156 to R159, 07 R316 to R320), block faults and verdicts (18 R773 to R784). -/
namespace Sys2Proof.Machine

/-! ## Access to the parts of the compute state -/

def modFab (s : State) (f : Fab → Fab) : State := { s with fab := f s.fab }
def jobOf (s : State) (id : Nat) : Option Job := kfind s.fab.jobs id
def modJob (s : State) (id : Nat) (f : Job → Job) : State := modFab s fun x => { x with jobs := kmod x.jobs id f }
/-- A block; one that is not listed is free and whole. -/
def blk (s : State) (b : Nat) : Block := kget s.fab.blocks b {}
def modBlk (s : State) (b : Nat) (f : Block → Block) : State := modFab s fun x => { x with blocks := kset x.blocks b (f (kget x.blocks b {})) }
def instOf (s : State) (i : Nat) : Option Inst := kfind s.fab.insts i
def modInst (s : State) (i : Nat) (f : Inst → Inst) : State := modFab s fun x => { x with insts := kmod x.insts i f }
def modRun (s : State) (i : Nat) (f : RunState → RunState) : State := modInst s i fun x => { x with run := x.run.map f }
/-- New work of an engine, and its identity. -/
def putJob (s : State) (j : Job) : State × Nat :=
  ({ s with fab := { s.fab with jobs := kset s.fab.jobs s.nextId { j with arrived := s.clk } }, nextId := s.nextId + 1 }, s.nextId)

/-- Kinds of handle numbers with a generation of their own. -/
abbrev hProg : Nat := 0
abbrev hColl : Nat := 1
abbrev hTable : Nat := 2
abbrev hIndex : Nat := 3
abbrev hAttn : Nat := 4
abbrev hServe : Nat := 5
/-- The generation of a handle number, and its advance when the number is freed. -/
def genOf (s : State) (kind n : Nat) : Nat := kget s.fab.gens (kind * 65536 + n) 0
def bumpGen (s : State) (kind n wide : Nat) : State :=
  modFab s fun x => { x with gens := kset x.gens (kind * 65536 + n) ((genOf s kind n + 1) % 2 ^ wide) }

/-- Fields of a handle in ADDRESS (R350; R390, R449, R493, R534). -/
def progHandle (a : Nat) : Nat × Nat × Nat := (bits a 0 12, bits a 12 10, bits a 22 16)
def nodeHandle (a : Nat) : Nat × Nat × Nat × Nat := (bits a 0 12, bits a 12 15, bits a 27 10, bits a 37 11)
def tableHandle (a : Nat) : Nat × Nat × Nat × Nat := (bits a 0 14, bits a 14 15, bits a 29 10, bits a 39 9)
def mkNodeHandle (id node part gen : Nat) : Nat := id + 2 ^ 12 * node + 2 ^ 27 * part + 2 ^ 37 * gen
def mkTableHandle (id node part gen : Nat) : Nat := id + 2 ^ 14 * node + 2 ^ 29 * part + 2 ^ 39 * gen

/-- The event of the program log for a load, replace or unload (R745), appended to it. -/
def progEvent (kind part inst : Nat) (measure : List Byte) : List Byte :=
  leBytes 32 (kind + 2 ^ 8 * (part % 2 ^ 10) + 2 ^ 18 * (inst % 2 ^ 12)) ++ sliceBytes measure 0 32
def logProg (s : State) (kind part inst : Nat) (measure : List Byte) : State :=
  { s with sec := { s.sec with progLog := s.sec.progLog ++ [progEvent kind part inst measure] } }

/-! ## Free blocks and placement (R339, R348, R368) -/

/-- Blocks of a region. -/
def blocksIn (r : Nat) : List Nat := natRange (16 * r) 16
/-- A block lacks its tile, or a cell that no spare has replaced: no step passes in it (R323, R326). Where the Wick's vote retires it, it goes out of
use; with one live core none does (R785), and it stays where it is, its steps abandoned (log entry 176). -/
def broken (x : Block) : Bool :=
  x.retiredCells.contains 34 || (natRange 0 32).any fun l => x.retiredCells.contains (kget x.phys l l)
/-- A block that nothing uses. -/
def blockFree (s : State) (b : Nat) : Bool :=
  (blk s b).use = .free && !(blk s b).retired && !broken (blk s b) && !s.fab.jobs.any fun e => e.2.block = some b || e.2.shadow = some b
/-- Block scratch that collectives hold in a region (R409). -/
def collScratch (s : State) (r : Nat) : Nat := (s.fab.nodes.map fun e => kget e.2.areas r 0).foldl (· + ·) 0
/-- Free blocks of an unfenced region that collectives' scratch leaves; which of them come first is an open choice. -/
def freeBlocks (s : State) (r : Nat) : List Nat :=
  if isFenced s r then []
  else
    let l := (blocksIn r).filter (blockFree s)
    let k := freeNat s % Nat.max 1 l.length
    (l.drop k ++ l.take k).take (l.length - ceilDiv (collScratch s r) 524288)

/-- What a template asks of the placement: blocks, regions allowed, the most in one region. -/
structure Ask where
  count : Nat
  mask : Nat
  cap : Nat
  /-- in as few regions as can be -/
  packed : Bool := false
deriving DecidableEq, Repr

/-- Blocks given so far: template and region of each. -/
abbrev Alloc := List (Nat × Nat)

def given (al : Alloc) (t r : Nat) : Nat := (al.filter fun e => e = (t, r)).length

/-- Give a template one block more, moving those of other templates where that makes room. -/
def augment (asks : List Ask) (avail : Nat → Nat) : Nat → List Nat → Nat → Alloc → Option Alloc
  | 0, _, _, _ => none
  | fuel + 1, seen, t, al =>
    match asks[t]? with
    | none => none
    | some a =>
      let rs := (natRange 0 16).filter fun r => a.mask.testBit r && !seen.contains r && decide (given al t r < a.cap)
      let rs := (rs.filter fun r => decide (0 < given al t r)) ++ rs.filter fun r => given al t r = 0
      rs.findSome? fun r =>
        if (al.filter fun e => e.2 = r).length < avail r then some ((t, r) :: al)
        else (((al.filter fun e => e.2 = r && e.1 ≠ t).map (·.1)).eraseDups).findSome? fun u =>
          (augment asks avail fuel (r :: seen) u (al.erase (u, r))).map fun m => (t, r) :: m

/-- Give every template its blocks, one by one. -/
def placeUnits (asks : List Ask) (avail : Nat → Nat) : List Nat → Alloc → Option Alloc
  | [], al => some al
  | t :: ts, al => (augment asks avail 17 [] t al).bind fun m => placeUnits asks avail ts m

/-- Regions of a mask. -/
def maskCount (m : Nat) : Nat := ((natRange 0 16).filter m.testBit).length

/-- What the templates of an image and S shadow blocks ask (R339, R368). -/
def asksOf (b : List Byte) (shadows : Nat) : List Ask :=
  ((natRange 0 (templateCount b)).map fun t =>
    let r := resourceOf b t
    { count := r.count, mask := r.regions, cap := if r.placement = 1 then ceilDiv r.count (Nat.max 1 (maskCount r.regions)) else 256,
      packed := r.placement = 2 }) ++
  [{ count := shadows, mask := 0xFFFF, cap := shadows - 1 }]

/-- The blocks that are asked for, one entry each. -/
def askUnits (asks : List Ask) : List Nat := (asks.zipIdx).flatMap fun e => List.replicate e.1.count e.2

/-- Sets of k members of a list. -/
def subsetsOf {α : Type} : List α → Nat → List (List α)
  | _, 0 => [[]]
  | [], _ + 1 => []
  | x :: xs, k + 1 => (subsetsOf xs k).map (x :: ·) ++ subsetsOf xs (k + 1)

/-- A PACKED template lies in the fewest regions in which it, and everything else that is asked for, finds room (R339): one template after the
other, so that an earlier one comes first (DESIGN CHOICE, log entry 178). -/
def packAsk (avail : Nat → Nat) (asks : List Ask) (t : Nat) : List Ask :=
  match asks[t]? with
  | none => asks
  | some a =>
    if !a.packed ∨ a.count = 0 then asks
    else
      let rs := (natRange 0 16).filter a.mask.testBit
      let fit := fun (set : List Nat) =>
        let as_ := asks.set t { a with mask := (set.map (2 ^ ·)).foldl (· + ·) 0 }
        if (set.map avail).foldl (· + ·) 0 < a.count then none
        else if (placeUnits as_ avail (askUnits as_) []).isSome then some as_ else none
      ((natRange 1 rs.length).findSome? fun k => (subsetsOf rs k).findSome? fit).getD asks

/-- Shadow blocks to reserve for B blocks under interval N (R368). -/
def shadowCount (n bound : Nat) : Nat := if bound = 0 then 0 else Nat.max 2 (ceilDiv (2 * bound) n)

/-- Name the blocks of each template in turn, taking each region's free blocks in their order. -/
def nameBlocks (free : Nat → List Nat) : List (Nat × Nat) → List Nat → List (Nat × Nat)
  | [], _ => []
  | (t, r) :: l, taken =>
    match (free r).find? fun b => !taken.contains b with
    | some b => (t, b) :: nameBlocks free l (b :: taken)
    | none => nameBlocks free l taken

/-- Blocks for every template, and the shadow blocks; none where the free blocks do not meet the placement (check 8 of R348). -/
def placeImage (s : State) (b : List Byte) (shadows : Nat) : Option (List (List Nat) × List Nat) :=
  let avail := fun r => (freeBlocks s r).length
  let asks := (natRange 0 (templateCount b)).foldl (packAsk avail) (asksOf b shadows)
  (placeUnits asks avail (askUnits asks) []).map fun al =>
    let named := nameBlocks (freeBlocks s) al.reverse []
    let mine := fun t => (named.filter fun e => e.1 = t).map (·.2)
    ((natRange 0 (templateCount b)).map mine, mine (templateCount b))

/-- A block cleared for a use: its scratch and accumulators are zero, its cells as they are (R355). -/
def clearBlk (s : State) (b : Nat) (use : BlockUse) (phase : Nat) : State :=
  modBlk s b fun x => { retired := x.retired, phys := x.phys, spares := x.spares, suspects := x.suspects,
                        retiredCells := x.retiredCells, transients := x.transients, scrubAt := x.scrubAt, use := use, phase := phase }

/-- Bind a block: P is drawn from 0 to N − 1 (R369). -/
def bindBlk (n : Nat) (s : State) (e : Nat × BlockUse) : State :=
  clearBlk (bumpFree s) e.1 e.2 (freeNat s % Nat.max 1 n)

/-- Free the blocks of an instance (R355, R366). -/
def freeInst (s : State) (i : Nat) : State :=
  match instOf s i with
  | none => s
  | some x =>
    let bs := (x.blocks.flatMap fun l => l.filterMap id) ++ x.shadows
    let s := bs.foldl (fun s b => clearBlk s b .free 0) s
    bumpGen (modFab s fun f => { f with insts := kdel f.insts i }) hProg i 16

/-- Blocks that a partition's instances have bound, and how many instances it holds (R351). -/
def partBlocks (s : State) (part : Nat) : Nat :=
  ((s.fab.insts.filter fun e => e.2.part = part).map fun e => blocksOf e.2.image).foldl (· + ·) 0
def partInsts (s : State) (part : Nat) : Nat := (s.fab.insts.filter fun e => e.2.part = part).length

/-- Checks 7 and 8 of R348 and the binding of R349: the instance, or none where the quota or the blocks do not allow it. -/
def bindInst (s : State) (part : Nat) (lib : Option Nat) (image : List Byte) : Option (State × Nat) ⊕ Nat :=
  let q := kget s.fab.progs part {}
  let b := blocksOf image
  if q.insts ≤ partInsts s part ∨ q.blocks < partBlocks s part + b ∨ (lib.isNone = true ∧ q.expert = false) ∨
      4096 ≤ s.fab.insts.length then .inr 7
  else
    let sh := shadowCount q.shadowN b
    match placeImage s image sh, firstFree (s.fab.insts.map (·.1)) 4096 (freeNat s) 4096 with
    | some (bs, shs), some i =>
      let uses := ((bs.zipIdx).flatMap fun e => (e.1.zipIdx).map fun x => (x.1, BlockUse.bound i e.2 x.2)) ++
        shs.map fun x => (x, BlockUse.shadow i)
      let s := uses.foldl (bindBlk q.shadowN) (bumpFree s)
      let m := Config.shake256 32 image
      let x : Inst := { part := part, gen := genOf s hProg i, lib := lib, image := image, measure := m,
                        blocks := bs.map fun l => l.map some, shadows := shs, need := sh, shadowN := q.shadowN }
      .inl (some (logProg (modFab s fun f => { f with insts := kset f.insts i x }) 1 part i m, i))
    | _, _ => .inr 8

/-- An instance is short of a block (R775). -/
def isShort (x : Inst) : Bool := x.blocks.any fun l => l.any Option.isNone

/-- The loaded instance of a library program for a partition (R491, R533). -/
def libInst (s : State) (part number : Nat) : Option Nat :=
  (s.fab.insts.find? fun e => e.2.part = part && e.2.lib = some number && e.2.unload.isNone).map (·.1)

/-! ## Answers of engines -/

/-- Cut an answer's coverage into segments of 65,536 bytes (R78). An ATTEND's last one is always shorter, so that an ingress that sent it
on can tell it (log entry 19); what covers no more than 65,536 bytes is otherwise one segment (R362, R378, R514). -/
def segCuts (op : Op) (cover off : Nat) : Nat → List (Nat × Nat)
  | 0 => []
  | fuel + 1 =>
    if cover - off < 65536 then [(off, cover - off)]
    else if cover - off = 65536 then
      if op = .attend then [(off, 32768), (off + 32768, 32768)] else [(off, 65536)]
    else (off, 65536) :: segCuts op cover (off + 65536) fuel

/-- The packets of an answer: one without data, or data in segments (R78). -/
def answerPkts (s : State) (op : Op) (p : Req) (status result cover : Nat) (data : Option (List Byte)) : List Resp :=
  match data with
  | none => [mkResp s op p status 0 cover result []]
  | some d =>
    (segCuts op cover 0 (cover / 65536 + 1)).map fun c =>
      { mkResp s op p status c.1 c.2 result (sliceBytes d c.1 (Nat.min c.2 (d.length - c.1))) with isData := true }

/-- A request of this ingress is answered by an engine at a scheduler port, and leaves. -/
def engineAnswer (s : State) (port id : Nat) (rs : List Resp) : State :=
  match kfind s.ing.outs id with
  | none => s
  | some o =>
    if o.phase = .unanswered then s
    else requestGone (rs.foldl (fun s r => respondHere s port o.p.lport 0 r) s) id

/-- A switch has done its part of a relayed command, or refused it. -/
def relayGot (s : State) (id node status result : Nat) : State :=
  modFab s fun x => { x with relays := kmod x.relays id fun r =>
    if status = stOk then { r with took := kset r.took node (kget r.took node 0 + result) } else { r with bad := r.bad ++ [status] } }

/-- Another switch sent the request. -/
def isRemote : JobTo → Bool
  | .origin .remote _ => true
  | _ => false

/-- Answer who waits for an engine's work: a request here or of another switch, a command (whose CODE is the status, R855), a relayed
command, or a root of this switch. -/
def answerTo (s : State) (dest : JobTo) (op : Op) (p : Req) (status result cover : Nat) (data : Option (List Byte)) : State :=
  match dest with
  | .origin (.here id _) port => engineAnswer s port id (answerPkts s op p status result cover data)
  | .origin .remote port => (answerPkts s op p status result cover data).foldl (sendResp · port 0 ·) s
  | .cmd r => complete s r status result (data.getD [])
  | .msg m => answer s (.mgmt 0x89) m (status % 16) result
  | .relay id node => modFab (relayGot s id node status result) fun x => { x with relays := kmod x.relays id fun r => { r with local_ := false } }
  | .part job ix =>
    modJob s job fun j => { j with parts := j.parts.mapIdx fun i x =>
      if i = ix then { x with status := some status, result := result, segs := [(0, data.getD [])] } else x }
  | _ => s

/-- Answer who waits for a command or a part of one. -/
def tellTo (s : State) (dest : JobTo) (status result : Nat) (data : List Byte) : State :=
  answerTo s dest .run { lport := 1000, tc := 0, vc := 0, partition := 0, ast := 0, src := 0, dst := 0, tag := 0, length := 0, address := 0, seq := 0,
                         flags := 0, payload := [] } status result 0 (if data.isEmpty then none else some data)

/-! ## Relayed commands (R827) -/

/-- Bytes of a relayed command that go in one message beside its descriptor. -/
abbrev parcelBytes : Nat := 65024

/-- The messages of a relayed command: its descriptor, then the number of the command, the offset and the length in all of what
follows it, and a part of that. -/
def parcelsOf (kind group verb part addr0 num : Nat) (args extra : List Byte) : List (List Byte) :=
  (natRange 0 (Nat.max 1 (ceilDiv extra.length parcelBytes))).map fun i =>
    xchgPayload kind group verb part addr0 args ++ leBytes 4 num ++ leBytes 4 (i * parcelBytes) ++ leBytes 4 extra.length ++ leBytes 4 0 ++
      sliceBytes extra (i * parcelBytes) (Nat.min parcelBytes (extra.length - i * parcelBytes))

/-- The body of a relayed command that has arrived whole: its descriptor and what follows; none while a part is missing. -/
def parcelGot (s : State) (node : Nat) (d : List Byte) : State × Option (List Byte) :=
  let key := node * 2 ^ 32 + leField d 64 4
  let parts := kset (kget s.fab.parcels key []) (leField d 68 4) (d.drop 80)
  let all := parts.flatMap (·.2)
  if all.length < leField d 72 4 then (modFab s fun x => { x with parcels := kset x.parcels key parts }, none)
  else (modFab s fun x => { x with parcels := kdel x.parcels key }, some (d.take 64 ++ all))

/-- Begin a relayed command. -/
def newRelay (s : State) (r : Relay) : State × Nat :=
  ({ s with fab := { s.fab with relays := kset s.fab.relays s.nextId r }, nextId := s.nextId + 1 }, s.nextId)

/-- Send a relayed command's messages to other switches; one without a route refuses. -/
def relaySend (s : State) (id kind group verb part addr0 : Nat) (args extra : List Byte) (nodes : List Nat) : State :=
  let ps := parcelsOf kind group verb part addr0 id args extra
  nodes.foldl (fun s n =>
    if n = selfNode s then modFab s fun x => { x with relays := kmod x.relays id fun r => { r with local_ := true } }
    else ps.foldl (fun s pl =>
      let tag := s.ing.ownTag
      match sendMgmt s 0x89 n pl with
      | none => relayGot s id n stNoMapping 0
      | some s => modFab s fun x => { x with uses := kset x.uses tag (.relay id n), relays := kmod x.relays id fun r => { r with tags := r.tags ++ [tag] } }) s) s

/-- Every switch has answered. -/
def relayDone (r : Relay) : Bool := r.tags.isEmpty && !r.local_

/-! ## Memory as an engine's work sees it -/

/-- Pool address of a virtual address under the translations taken at admission. -/
def poolAt (pages : List ((Nat × Nat) × Nat)) (ast va : Nat) : Option Nat :=
  (pages.find? fun e => e.1 = (ast, va / GiB)).map fun e => e.2 * GiB + va % GiB

/-- A virtual range as ranges of pool, cut at every gigabyte. -/
def vaPool (pages : List ((Nat × Nat) × Nat)) (ast va n : Nat) : List (Nat × Nat) :=
  if n = 0 then []
  else (natRange (va / GiB) ((va + n - 1) / GiB - va / GiB + 1)).map fun g =>
    let lo := Nat.max va (g * GiB)
    ((poolAt pages ast lo).getD 0, Nat.min (va + n) ((g + 1) * GiB) - lo)

/-- The lines of ranges that have not arrived, neighbours joined. -/
def missingLines (j : Job) (rs : List (Nat × Nat)) : List Nat :=
  ((rs.flatMap fun r => linesOf r.1 r.2).eraseDups).filter fun l => (kfind j.cache l).isNone
def joinLines : List Nat → List (Nat × Nat)
  | [] => []
  | l :: ls =>
    match joinLines ls with
    | (a, n) :: r => if a = (l + 1) * 64 then (l * 64, n + 64) :: r else (l * 64, 64) :: (a, n) :: r
    | [] => [(l * 64, 64)]

/-- Bytes of a range whose lines have arrived. -/
def cached (j : Job) (a n : Nat) : List Byte :=
  let ls := linesOf a n
  sliceBytes (ls.flatMap fun l => kget j.cache l (leBytes 64 0)) (a - ls.headD 0 * 64) n
def cachedRanges (j : Job) (rs : List (Nat × Nat)) : List Byte := rs.flatMap fun r => cached j r.1 r.2

/-- The outcome of looking at pages as steps 8 to 10 of the ingress check do (R84, R360): their translations, or a status. -/
def lookPages (s : State) (part ast : Nat) (w : Bool) (va n : Nat) : List ((Nat × Nat) × Nat) ⊕ Nat :=
  match astOf s ast with
  | none => .inr stDenied
  | some a =>
    if a.partition ≠ part then .inr stDenied
    else
      let gs := if n = 0 then [va / GiB] else natRange (va / GiB) ((va + n - 1) / GiB - va / GiB + 1)
      let es := gs.map fun g => (g, if g < tableEntries a then pteOf s ast g else none)
      if es.any fun e => e.2.isNone then .inr stNoMapping
      else if es.any fun e => match e.2 with
          | some q => if w then !q.w else !q.r
          | none => true then .inr stDenied
      else .inl (es.filterMap fun e => e.2.map fun q => ((ast, e.1), q.page))

/-- Several looks in turn: all translations, or the first failing status, NO_MAPPING of any before DENIED of permissions. -/
def lookAll (s : State) (part : Nat) (l : List (Nat × Bool × Nat × Nat)) : List ((Nat × Nat) × Nat) ⊕ Nat :=
  let rs := l.map fun e => lookPages s part e.1 e.2.1 e.2.2.1 e.2.2.2
  let bad := rs.filterMap fun r => match r with
    | .inr st => some st
    | .inl _ => none
  if bad.contains stNoMapping && l.all (fun e => ((astOf s e.1).map (·.partition)) = some part) then .inr stNoMapping
  else match bad.head? with
    | some st => .inr st
    | none => .inl ((rs.flatMap fun r => match r with
        | .inl ps => ps
        | .inr _ => []).eraseDups)

/-- The scheduler port at which the packets of an engine's work enter the crossbar (R45): the compute port of the region of its block, or
of the region at which its request arrived; the Wick's for work of a command. -/
def jobPort (j : Job) : Nat :=
  match j.block with
  | some b => computePort (b / 16)
  | none => match j.dest with
    | .origin _ port => port
    | _ => wickPort

/-- A request of an engine to another node: node plus offset form, its own tag; numbered and noted, but not queued (R64, R94). -/
def enginePkt (s : State) (op : Op) (p : Req) (node n address flags : Nat) (payload : List Byte) (use : FabUse) : State × Packet :=
  let tag := s.ing.ownTag
  let q : Req := { p with lport := 1000, src := BitVec.ofNat 15 (selfNode s), dst := BitVec.ofNat 15 node, tag := BitVec.ofNat 16 tag,
                          length := BitVec.ofNat 24 n, address := BitVec.ofNat 64 address, esc := false,
                          seq := BitVec.ofNat 32 (ownNum s node), flags := BitVec.ofNat 16 flags, rsv := 0, payload := payload }
  let s := modFab s fun x => { x with uses := kset x.uses tag use }
  (bumpOwn s node, .req op q)

/-- Send a request of an engine to another node from a scheduler port. -/
def engineSend (s : State) (port : Nat) (op : Op) (p : Req) (node n address flags : Nat) (payload : List Byte) (use : FabUse) : State :=
  let x := enginePkt s op p node n address flags payload use
  sendPkt x.1 port (internal port) false x.2

/-- A write of an engine that nothing holds takes effect at once. -/
def putNow (s : State) (id : Nat) : State :=
  match kfind s.mem.ops id with
  | some o => if o.phase = .access && o.left = 0 && !o.writing then memStep s id else s
  | none => s

/-- An engine of this home puts bytes in pool memory, behind the earlier writes of their lines (R250) and with the lines taken from their
holders (R223); the accesses that write every copy are in the class of a traffic class (R113, R143, R151). -/
def enginePut (tc : BitVec 3) (s : State) (a : Nat) (data : List Byte) (bg : Bool := false) : State :=
  (pieces a data.length).foldl (fun s r =>
    let id := s.nextId
    let o : MemOp := { op := .store, p := { snoopedReq s (r.1 / 64) with tc := tc }, origin := .put, pool := r.1, len := r.2,
                       data := sliceBytes data (r.1 - a) r.2, todo := coherentLines s r.1 r.2, bg := bg, phase := .order, arrived := s.clk }
    putNow (memNext (touchOp (putOp s o) o) id) id) s

/-- One piece of an engine's read or write: at this home through the tier map, or a request to its home. -/
def jobAccess (op : Op) (data : List Byte) (id : Nat) (s : State) (r : Nat × Nat) : State :=
  match jobOf s id with
  | none => s
  | some j =>
    let s := modJob s id fun j => { j with wait := j.wait ++ [r] }
    let p : Req := { j.p with address := BitVec.ofNat 64 r.1, length := BitVec.ofNat 24 r.2, flags := 1, payload := data }
    match homeOf s r.1 with
    | none => jobGot s id op p stNoMapping []
    | some h =>
      if h = selfNode s then
        let bg := match j.kind with
          | .repair .. => true
          | _ => false
        memStart s { op := op, p := p, origin := .job id, pool := r.1, len := r.2, data := data, bg := bg, phase := .access, arrived := s.clk }
      else engineSend s (jobPort j) op j.p h r.2 r.1 2 data (if op = .load then .read id r.1 r.2 else .write id r.1 r.2)

/-- Read the lines of ranges that have not arrived. -/
def jobFetch (s : State) (id : Nat) (rs : List (Nat × Nat)) : State :=
  (rs.flatMap fun r => pieces r.1 r.2).foldl (jobAccess .load [] id) s

/-- Write bytes to pool. -/
def jobWrite (id : Nat) (s : State) (w : Nat × List Byte) : State :=
  (pieces w.1 w.2.length).foldl (fun s r => jobAccess .store (sliceBytes w.2 (r.1 - w.1) r.2) id s r) s

/-- What a piece of an engine's work comes to on the lines that have arrived. -/
structure JobOut where
  writes : List (Nat × List Byte) := []
  status : Nat := 0
  result : Nat := 0
  cover : Nat := 0
  data : Option (List Byte) := none
  /-- of an image step: the block's state after it, its filled read halves, what it sent on NET and RSP streams -/
  step : StepOut := {}
  halves : List (Nat × List Byte) := []
  net : List (Nat × List Byte) := []
  rsp : List (Nat × List Byte) := []
  counts : List (Ctr × Nat) := []
deriving DecidableEq, Repr

inductive JobStep where
  /-- ranges of pool are needed first; with none the step waits at tier 0 for another block or region -/
  | need (ranges : List (Nat × Nat))
  | fail (status : Nat)
  /-- what the pool holds at this address is malformed (R310) -/
  | malformed (at_ : Option Nat)
  /-- data that has no copy outside scratch is malformed: it cannot be read again (R310) -/
  | lost
  | done (o : JobOut)
deriving DecidableEq, Repr

/-- Ask for ranges, or go on with their bytes. -/
def withRanges (j : Job) (rs : List (Nat × Nat)) (k : List Byte → JobStep) : JobStep :=
  match missingLines j rs with
  | [] => k (cachedRanges j rs)
  | ls => .need (joinLines ls)

/-! ## Image steps (R316, R343 to R346, R358) -/

/-- The head of a RUN payload (R356). -/
def runSteps (p : Req) : Nat := leField p.payload 0 4
def runParams (p : Req) : Nat := leField p.payload 4 2
def runOut (p : Req) : Nat := leField p.payload 8 4 % 2 ^ 24
def runSlot (p : Req) (k : Nat) : Nat := leField p.payload (16 + 8 * k) 8
def runInline (p : Req) : List Byte := p.payload.drop (16 + runParams p)

/-- The data of a stream that holds Tallow blocks (R309); none where a block is malformed. -/
def streamData (e : Stream) (b : List Byte) : Option (List Byte) :=
  if !e.compressed then some b
  else
    let rec go : Nat → List Byte → Option (List Byte)
      | 0, _ => some []
      | fuel + 1, l =>
        if l.isEmpty then some []
        else match tallowDecode l with
          | some (x, n) => if n = 0 then none else (go fuel (l.drop n)).map (x ++ ·)
          | none => none
    go (b.length + 1) b

/-- What fills a read half of a stream: the bytes that come to scratch, and those that the operand ports of cells and tile take (R309). -/
structure StreamFill where
  held : List Byte := []
  plain : List Byte := []
deriving DecidableEq, Repr

/-- Data that comes to scratch as the operand ports take it. -/
def StreamFill.same (b : List Byte) : StreamFill := ⟨b, b⟩

/-- A pool address is homed here and stands in T3. -/
def t3Here (s : State) (a : Nat) : Bool := homedHere s a && (tierOf s (frameOf a)).any fun t => t.tier = .t3

/-- What a program reads of one block of 4 KiB: of a T3 frame the Tallow block comes to scratch, and the operand ports expand it (R128,
R309). A malformed block gives none. -/
def unitFill (s : State) (j : Job) (r : Nat × Nat) (u : Nat) : Option StreamFill :=
  let lo := Nat.max r.1 u
  let n := Nat.min (r.1 + r.2) (u + 4096) - lo
  if t3Here s u then
    let b := tallowEncode (u % frameBytes) 0 ((linesOf u 4096).flatMap fun l => kget j.cache l (readBytes s.mem.bytes (64 * l) 64))
    (tallowDecode b).map fun x => ⟨b, sliceBytes x.1 (lo - u) n⟩
  else some (StreamFill.same (cached j lo n))

/-- What a program reads of ranges of pool that have arrived. -/
def rangesFill (s : State) (j : Job) (rs : List (Nat × Nat)) : Option StreamFill :=
  (rs.flatMap fun r => (unitsOf r.1 r.2).map fun u => (r, u)).foldl (fun (f : Option StreamFill) e =>
    f.bind fun f => (unitFill s j e.1 e.2).map fun x => ⟨f.held ++ x.held, f.plain ++ x.plain⟩) (some {})

/-- What fills a read stream for global step g; none where it is not there yet. A MEM stream's fill is none where a block is malformed. -/
def fillStream (s : State) (r : RunState) (j : Job) (b : List Byte) (g : Nat) (e : Nat × Stream) : Option StreamFill :=
  let x := e.2
  match x.kind with
  | 1 => (rangesFill s j (vaPool j.pages j.p.ast.toNat (runSlot r.p x.param + g * x.bytes) x.bytes)).map fun f =>
      { f with held := f.held.take (64 * x.half) }
  | 2 => some (StreamFill.same (sliceBytes (runInline r.p) (g * x.bytes) x.bytes))
  | 4 =>
    let peer := streamOf b x.peerT x.peerS
    if peer.valid && peer.write && peer.kind = 4 && stepElems b x.peerT ≠ 0 then
      (r.net.find? fun n => n.1 = (x.peerT * 64 + x.peerS, g)).map fun n => StreamFill.same n.2
    else some {}
  | 5 => some (StreamFill.same (freeBytes (g + 1) x.bytes))
  | _ => none

/-- A read stream that a step fills before it starts. -/
def filled (x : Stream) : Bool := !x.write && (x.kind = 1 || x.kind = 2 || x.kind = 4 || x.kind = 5)

/-- Bytes laid over others from the front. -/
def overlay (old new : List Byte) : List Byte := new ++ old.drop new.length

/-- Byte of a block's scratch where a half of a stream begins, by stream number: the half that steps read or the half that they write
(R308, R316, R345). -/
def halfAt (x : Block) (e : Nat × Stream) (wr : Bool) : Nat :=
  64 * (e.2.base + if x.second.contains e.1 != wr then e.2.half else 0)

/-- The bytes of a half of a stream. -/
def halfBytes (x : Block) (e : Nat × Stream) (wr : Bool) : List Byte := readBytes x.scratch (halfAt x e wr) e.2.bytes

/-- One global step of a template on its block. -/
def imageStep (s : State) (j : Job) (i t g : Nat) : JobStep :=
  match instOf s i, (instOf s i).bind (·.run), j.block with
  | some x, some r, some b =>
    let im := x.image
    let ss := streamsOf im t
    let at_ := fun (e : Stream) => vaPool j.pages j.p.ast.toNat (runSlot r.p e.param + g * e.bytes) e.bytes
    let mem := (ss.filter fun e => filled e.2 && e.2.kind = 1).flatMap fun e => at_ e.2
    let bad := fun (e : Stream) => JobStep.malformed ((at_ e).head?.map (·.1))
    -- R318: a line that an earlier committed step writes is read after that write
    let busy := j.stage ≠ .done && j.stage ≠ .referee && s.fab.jobs.any fun e => e.2.stage = .writing && e.2.inst = some i && e.2.wait.any fun w =>
      mem.any fun m => decide (w.1 < m.1 + m.2 ∧ m.1 < w.1 + w.2)
    if busy then .need []
    else withRanges j mem fun _ =>
      let fills := (ss.filter fun e => filled e.2).map fun e => (e.1, e.2, fillStream s r j im g e)
      match fills.find? fun e => e.2.2.isNone && e.2.1.kind = 1 with
      | some e => bad e.2.1
      | none =>
      if fills.any fun e => e.2.2.isNone then .need []
      else
        let read := fun (n : Nat) (e : Stream) => match fills.find? fun f => f.1 = n with
          | some f => overlay (halfBytes (blk s b) (n, e) false) (f.2.2.getD {}).plain
          | none => halfBytes (blk s b) (n, e) false
        let data := ss.map fun e => (e.1, streamData e.2 (read e.1 e.2))
        let torn := (data.zip ss).filter fun e => e.1.2.isNone
        -- R310: only what a MEM stream brought can be read again
        if torn.any fun e => e.2.2.write || e.2.2.kind ≠ 1 then .lost
        else match torn with
        | e :: _ => bad e.2.2
        | [] =>
          let res := resourceOf im t
          let o := blockStep { words := (cellWords im t).take res.cells, routes := routeEntries im t, tile := tileWord im t,
                               elems := stepElems im t, reads := data.map fun e => (e.1, e.2.getD []), accs := (blk s b).accs,
                               prev := (blk s b).prev, tileC := (blk s b).tileC }
          let outs := ss.filter fun e => e.2.write
          let wrote := fun (e : Nat × Stream) =>
            overlay (halfBytes (blk s b) e true) ((kget o.writes e.1 []).take e.2.bytes)
          .done
            { step := o
              halves := fills.map fun f => (f.1, (f.2.2.getD {}).held)
              writes := (outs.filter fun e => e.2.kind = 1).flatMap fun e =>
                let w := wrote e
                ((vaPool j.pages j.p.ast.toNat (runSlot r.p e.2.param + g * e.2.bytes) e.2.bytes).foldl
                  (fun (acc : List (Nat × List Byte) × Nat) q => (acc.1 ++ [(q.1, sliceBytes w acc.2 q.2)], acc.2 + q.2)) ([], 0)).1
              net := (outs.filter fun e => e.2.kind = 4).map fun e => (t * 64 + e.1, wrote e)
              rsp := (outs.filter fun e => e.2.kind = 3).map fun e => (g * e.2.bytes, wrote e)
              counts := [(.prog i 0, o.nanInt), (.prog i 1, o.excess), (.prog i 2, o.rounded)] }
  | _, _, _ => .fail stPoisoned

/-- A block after a step: what filled its read halves and what it wrote stand in scratch, and its written streams' halves change places
(R308, R316). -/
def commitBlk (im : List Byte) (t : Nat) (o : JobOut) (x : Block) : Block :=
  let ss := streamsOf im t
  let put := fun (m : List (Nat × Byte)) (e : Nat × Stream) =>
    if e.2.write then writeBytes m (halfAt x e true) ((kget o.step.writes e.1 []).take e.2.bytes)
    else writeBytes m (halfAt x e false) (kget o.halves e.1 [])
  let turn := fun (l : List Nat) (e : Nat × Stream) =>
    if !e.2.write then l else if l.contains e.1 then l.erase e.1 else e.1 :: l
  { x with scratch := ss.foldl put x.scratch, second := ss.foldl turn x.second, accs := o.step.accs, prev := o.step.prev, tileC := o.step.tileC, steps := x.steps + 1 }

/-! ## RUN (R356 to R363) -/

/-- The PARAM slots that an image's MEM streams name, of whatever template (R357). -/
def memSlots (b : List Byte) : List Nat :=
  (natRange 0 (templateCount b)).flatMap fun t => ((streamsOf b t).filter fun e => e.2.kind = 1).map fun e => e.2.param

/-- The MEM streams of templates that run, each with its whole range (R357, R359, R360): write, slot, bytes. -/
def memStreams (b : List Byte) (p : Req) : List (Bool × Nat × Nat) :=
  ((natRange 0 (templateCount b)).filter fun t => (resourceOf b t).count ≠ 0).flatMap fun t =>
    ((streamsOf b t).filter fun e => e.2.kind = 1).map fun e => (e.2.write, e.2.param, runSteps p * e.2.bytes)

/-- A RUN payload keeps R356. -/
def runFormOk (p : Req) : Bool :=
  decide (16 ≤ p.length.toNat) && runParams p % 8 = 0 && decide (runParams p ≤ 256) && leField p.payload 6 2 = 0 &&
  decide (leField p.payload 8 4 ≤ 65536) && leField p.payload 12 4 = 0 && decide (16 + runParams p ≤ p.payload.length)

/-- The quantize descriptor in slot 2 (R374). -/
structure Quant where
  src : Nat
  dst : Nat
  round : Nat
  sat : Bool
  n : Nat
deriving DecidableEq, Repr
def quantOf (p : Req) : Option Quant :=
  let d := runSlot p 2
  let q : Quant := { src := bits d 0 5, dst := bits d 8 5, round := bits d 13 2, sat := d.testBit 15, n := bits d 32 32 }
  if bits d 5 3 ≠ 0 ∨ bits d 16 16 ≠ 0 ∨ !fmtListed q.src ∨ !fmtListed q.dst ∨ q.src = 0 ∨ q.dst = 0 then none else some q

/-- Bytes of n elements in memory; an MX format's scale bytes follow its elements (R398). -/
def packedBytes (c n : Nat) : Nat := fmtBytes c n + (if isMx c then ceilDiv n 32 else 0)

/-- The Tallow codec's descriptor (R375): expand, and the number of blocks. -/
def codecOf (p : Req) : Option (Bool × Nat) :=
  let d := runSlot p 2
  if bits d 1 31 ≠ 0 then none else some (d.testBit 0, bits d 32 32)

/-- Bytes of the block index of n blocks: 4 KiB for each 512 entries, as in a T3 frame (R125; log entry 178 for more than one frame's). -/
def indexBytes (n : Nat) : Nat := ceilDiv n 512 * 4096

/-- Ranges that a library RUN reads and writes (R374, R375): write, address, bytes; none where its descriptor is malformed. What the
codec compresses takes at most a raw unit more than each block. -/
def convertRanges (lib : Nat) (p : Req) : Option (List (Bool × Nat × Nat)) :=
  if lib = 8 then (quantOf p).map fun q => [(false, runSlot p 0, packedBytes q.src q.n), (true, runSlot p 1, packedBytes q.dst q.n)]
  else (codecOf p).map fun c =>
    let plain := 4096 * c.2
    let packed := indexBytes c.2 + 4160 * c.2
    if c.1 then [(false, runSlot p 0, indexBytes c.2), (true, runSlot p 1, plain)]
    else [(false, runSlot p 0, plain), (true, runSlot p 1, packed)]

/-- Quantize n elements (R374). -/
def quantStep (j : Job) (i : Nat) (q : Quant) : JobStep :=
  let t := j.p.ast.toNat
  withRanges j (vaPool j.pages t (runSlot j.p 0) (packedBytes q.src q.n)) fun b =>
    let vs := unpackVals q.src q.n b (b.drop (fmtBytes q.src q.n))
    let r := packVals q.dst q.round q.sat vs
    let out := r.1 ++ r.2
    .done { writes := ((vaPool j.pages t (runSlot j.p 1) out.length).foldl
              (fun (acc : List (Nat × List Byte) × Nat) x => (acc.1 ++ [(x.1, sliceBytes out acc.2 x.2)], acc.2 + x.2)) ([], 0)).1
            counts := [(.prog i 0, (vs.filter (nanToInt q.dst)).length)] }

/-- Compress or expand n blocks of 4 KiB (R375): a block index entry holds the offset of its block in 64-byte units and its units. Which ranges
hold the blocks is known once the index is read: they are then translated and checked as R360 does those known at admission. -/
def codecStep (s : State) (j : Job) (expand : Bool) (n : Nat) : JobStep :=
  let t := j.p.ast.toNat
  let src := runSlot j.p 0
  let put := fun (out : List Byte) => ((vaPool j.pages t (runSlot j.p 1) out.length).foldl
    (fun (acc : List (Nat × List Byte) × Nat) x => (acc.1 ++ [(x.1, sliceBytes out acc.2 x.2)], acc.2 + x.2)) ([], 0)).1
  if !expand then
    withRanges j (vaPool j.pages t src (4096 * n)) fun b =>
      let bs := (natRange 0 n).map fun k => tallowEncode (4096 * k) 0 (sliceBytes b (4096 * k) 4096)
      let r := bs.foldl (fun (acc : List Byte × Nat) x => (acc.1 ++ leBytes 8 (acc.2 / 64 % 2 ^ 42 + 2 ^ 42 * (x.length / 64)), acc.2 + x.length))
        ([], indexBytes n)
      .done { writes := put (r.1 ++ leBytes (indexBytes n - 8 * n) 0 ++ bs.flatMap id) }
  else
    withRanges j (vaPool j.pages t src (indexBytes n)) fun ix =>
      let es := (natRange 0 n).map fun k =>
        let w := leField ix (8 * k) 8
        (w % 2 ^ 42 * 64, bits w 42 7 * 64)
      match lookAll s j.p.partition.toNat (es.map fun e => (t, false, src + e.1, e.2)) with
      | .inr st => .fail st
      | .inl ps =>
      withRanges j (es.flatMap fun e => vaPool ps t (src + e.1) e.2) fun _ =>
        let outs := es.map fun e => tallowDecode (cachedRanges j (vaPool ps t (src + e.1) e.2))
        let bad := (es.zip outs).find? fun o => match o.2 with
          | some x => x.1.length ≠ 4096
          | none => true
        match bad with
        | some e => .malformed ((vaPool ps t (src + e.1.1) e.1.2).head?.map (·.1))
        | none => .done { writes := put (outs.flatMap fun o => (o.map (·.1)).getD []) }

/-- A RUN of a program whose steps the manual gives whole. -/
def convertStep (s : State) (j : Job) (i : Nat) : JobStep :=
  match (instOf s i).bind (·.lib) with
  | some 8 => match quantOf j.p with
    | some q => quantStep j i q
    | none => .fail stMalformed
  | _ => match codecOf j.p with
    | some c => codecStep s j c.1 c.2
    | none => .fail stMalformed

/-! ## FILTER (R376 to R378) -/

/-- A FILTER payload keeps R376. -/
def filterOk (p : Req) : Bool :=
  let b := p.payload
  let f := leField b 4 1
  let pred := leField b 5 1 % 16
  let mode := leField b 5 1 / 16
  decide (1 ≤ f ∧ f ≤ 0x0D) && f ≠ 7 && decide (pred ≤ 8) && decide (mode ≤ 2) && leField b 6 2 = 0 && leField b 0x2C 4 = 0 &&
  (mode = 1 || leField b 0x10 8 = 0) && (pred = 6 || leField b 0x20 8 = 0) &&
  (if mode = 2 then decide (leField b 0x28 4 ≤ 16384) else leField b 0x28 4 = 0) && (decide (pred < 7) || isInt f)

/-- Ranges of a FILTER: write, address, bytes. -/
def filterRanges (p : Req) : List (Bool × Nat × Nat) :=
  let b := p.payload
  (false, leField b 8 8, fmtBytes (leField b 4 1) (leField b 0 4)) ::
    (if leField b 5 1 / 16 = 1 then [(true, leField b 0x10 8, ceilDiv (leField b 0 4) 8)] else [])

/-- An element meets the predicate (R377). -/
def matches_ (f pred lo hi w : Nat) : Bool :=
  let x := elemVal f w
  let lim := fun (n : Nat) => if isInt f then Val.ofInt (intVal (true, 64) n) else fp64.decode n
  let a := lim lo
  let num := !x.isNan && !a.isNan
  let c := x.cmpNum a
  match pred with
  | 0 => num && decide (c = 0)
  | 1 => !num || decide (c ≠ 0)
  | 2 => num && decide (c < 0)
  | 3 => num && decide (c ≤ 0)
  | 4 => num && decide (0 < c)
  | 5 => num && decide (0 ≤ c)
  | 6 => num && decide (0 ≤ c) && !(lim hi).isNan && decide (x.cmpNum (lim hi) ≤ 0)
  | 7 => decide (w &&& lo ≠ 0)
  | _ => decide (w &&& lo = lo)

/-- A FILTER over its elements. -/
def filterStep (j : Job) : JobStep :=
  let b := j.p.payload
  let f := leField b 4 1
  let n := leField b 0 4
  let t := j.p.ast.toNat
  let mode := leField b 5 1 / 16
  let most := leField b 0x28 4
  withRanges j (vaPool j.pages t (leField b 8 8) (fmtBytes f n)) fun d =>
    let hit := (natRange 0 n).filter fun i => matches_ f (leField b 5 1 % 16) (leField b 0x18 8) (leField b 0x20 8) (fieldAt d (fmtBits f) i)
    if mode = 1 then
      let bm := packFields 1 ((natRange 0 n).map fun i => if hit.contains i then 1 else 0)
      .done { result := hit.length
              writes := ((vaPool j.pages t (leField b 0x10 8) bm.length).foldl
                (fun (acc : List (Nat × List Byte) × Nat) x => (acc.1 ++ [(x.1, sliceBytes bm acc.2 x.2)], acc.2 + x.2)) ([], 0)).1 }
    else if mode = 2 then
      .done { status := if most < hit.length then stPartial else stOk, result := hit.length, cover := 4 * most
              data := some ((hit.take most).flatMap (leBytes 4)) }
    else .done { result := hit.length }

end Sys2Proof.Machine
end

