-- ==== Sys2Proof/Machine/RunCore.lean ====
section
/-! DEFINITION. Machine/RunCore.lean: RUNs and the steps of instances (08 R356 to R372), stalls (03 R156 to R159), cells, block
faults and verdicts (07 R321 to R326, 18 R773 to R784). -/
namespace Sys2Proof.Machine

/-! ## Stalls (R156 to R159) -/

/-- Why an access of an engine at this home has not been answered (R156): a sub-block copy holds it, a tray's response is outstanding, the
block index is awaited, or it waits for the arbiter, a channel or a link. -/
def waitWhy (s : State) (o : Nat × MemOp) : Nat :=
  let ts := s.mem.trayReqs.filter fun t => t.2.op = o.1 && t.2.read
  if o.2.phase = .move then 3
  else if ts.any (·.2.late) then 11
  else if ts.any fun t => t.2.what = .index then 2
  else if !ts.isEmpty then 1
  else 0

/-- Tier and reason of what a stalled step waits for first (R156): a range of pool, or in T0 a scratch bank or data that another block has
not sent. Where another home keeps the range is not known here: such a wait counts as T1, QUEUE (DESIGN CHOICE, log entry 157). -/
def stallOf (s : State) (id : Nat) (j : Job) : Nat × Nat :=
  match j.wait.head? with
  | none => (0, match j.block with
    | some b => if (blk s b).arb.pending.isEmpty && (blk s b).arb.todo.isEmpty then 0 else 4
    | none => 0)
  | some r =>
    if homedHere s r.1 then
      (((tierOf s (frameOf r.1)).map (·.tier.code)).getD 1,
        ((s.mem.ops.find? fun o => o.2.origin = .job id && o.2.pool / 65536 = r.1 / 65536).map (waitWhy s)).getD 0)
    else (1, 0)

/-- What invoked a step of this switch will never be answered: it is reported and held under R88 (R156). -/
def jobSilent (s : State) (j : Job) : State :=
  let held := fun (s : State) (d : JobTo) => match d with
    | .origin (.here id _) _ => markUnanswered s id 7
    | .origin .remote _ => report (bump s .unanswered) 0x05 j.p.src.toNat noLport (j.p.seq.toNat + 2 ^ 32 * j.p.tag.toNat + 2 ^ 48 * 7)
    | _ => s
  match j.dest with
  | .part r _ => ((jobOf s r).map fun x => held s x.dest).getD s
  | d => held s d

/-- A stall under a reason begins: the event is counted for the instance (R159); without a response what invoked the step is held. -/
def stallEvent (s : State) (j : Job) (w : Nat × Nat) : State :=
  let s := if w.2 = 11 then jobSilent s j else s
  match j.inst with
  | none => s
  | some i => bumpBy s (.stallEvents i w.1 w.2) 32 1

/-- Nanoseconds from one fabric time to another; 0 where fabric time has been stepped back. -/
def timeSpan (a b : Nat) : Nat := (BitVec.ofNat 64 b - BitVec.ofNat 64 a).toInt.toNat

/-- A step stalls (R319). -/
def stall (s : State) (id : Nat) : State :=
  match jobOf s id with
  | none => s
  | some j =>
    let w := stallOf s id j
    let s := modJob s id fun j => { j with stage := .stalled, since := s.ftime.toNat, tier := w.1, code := w.2 }
    stallEvent s j w

/-- The time of a stall until now counts under its reason, in ns of fabric time; a step of fabric time backward counts none (R159). -/
def stallEnd (s : State) (j : Job) : State :=
  match j.inst with
  | none => s
  | some i => bumpBy s (.stallNs i j.tier j.code) 48 (timeSpan j.since s.ftime.toNat)

/-- Time that stalled steps have spent counts under its reason; where a step now waits for another reason, that stall begins (R156, R158,
R159). -/
def restall (s : State) : State :=
  s.fab.jobs.foldl (fun s e =>
    if e.2.stage ≠ .stalled then s
    else
      let w := stallOf s e.1 e.2
      let s := modJob (stallEnd s e.2) e.1 fun j => { j with since := s.ftime.toNat, tier := w.1, code := w.2 }
      if w = (e.2.tier, e.2.code) then s else stallEvent s e.2 w) s

/-- A wait for a shadow block or a referee ends without one: its time is in SHADOW_WAIT_NS (R371, R782). -/
def waitEnd (s : State) (j : Job) : State :=
  match j.waitSince, j.inst with
  | some t, some i => bumpBy s (.prog i 4) 48 (s.clk - t)
  | _, _ => s

/-- A step is stopped as it stands: the time it has stalled or waited for a shadow until now is counted. -/
def stopEnd (s : State) (j : Job) : State := waitEnd (if j.stage = .stalled then stallEnd s j else s) j

/-- A step is abandoned: the reason is counted under the tier of the operand that failed, or of the first it read where none is named; a
frame under quarantine gives QUARANTINED (R156, log entry 157). -/
def countAbandon (s : State) (j : Job) (status : Nat) : State :=
  match j.inst with
  | none => s
  | some i =>
    let t := ((j.failAt.orElse fun _ => j.cache.head?.map fun l => 64 * l.1).filter (homedHere s)).bind fun a => tierOf s (frameOf a)
    let tier := (t.map (·.tier.code)).getD 1
    if status = stPoisoned then bumpBy s (.stallEvents i tier 8) 32 1
    else if status = stDivergent then bumpBy s (.stallEvents i tier (if t.any (·.quarantined) then 10 else 9)) 32 1
    else s

/-! ## Steps of a RUN -/

/-- Global steps below n of one ordinal (R358). -/
def ordSteps (n count ord : Nat) : Nat := if n ≤ ord then 0 else (n - ord - 1) / count + 1

/-- The work of a step: its job. -/
def stepJob (s : State) (r : RunState) (i t g b : Nat) : Job :=
  { kind := .image i t g, dest := r.dest, op := .run, p := r.p, inst := some i, block := some b, pages := r.pages, arrived := s.clk }

/-- A block has a step that has not committed. -/
def blockBusy (s : State) (b : Nat) : Bool := s.fab.jobs.any fun e => e.2.block = some b && match e.2.kind with
  | .image _ _ _ => true
  | _ => false

/-- Queue the next step of every block of a RUN that has none (R318, R358). -/
def schedule (s : State) (i : Nat) : State :=
  match instOf s i with
  | none => s
  | some x =>
    match x.run with
    | none => s
    | some r =>
      if r.fail.isSome then s
      else (x.blocks.zipIdx).foldl (fun s e =>
        if stepElems x.image e.2 = 0 then s
        else (e.1.zipIdx).foldl (fun s o =>
          let g := ((instOf s i).bind (·.run)).elim 0 fun r => kget r.next (e.2 * 256 + o.2) o.2
          match o.1 with
          | some b =>
            if runSteps r.p ≤ g ∨ blockBusy s b then s
            else
              let s := modRun s i fun r => { r with next := kset r.next (e.2 * 256 + o.2) (g + e.1.length) }
              (putJob s (stepJob s r i e.2 g b)).1
          | none => s) s) s

/-- Steps that a RUN commits in all (R359, R362). -/
def runTotal (im : List Byte) (n : Nat) : Nat :=
  ((natRange 0 (templateCount im)).filter fun t => (resourceOf im t).count ≠ 0).length * n

/-- Steps of a block committed in its region (R896). -/
def regionCommits (s : State) (b n : Nat) : State :=
  let r := regionPow s (b / 16)
  let r := { r with commits := (s.clk, n) :: (r.commits.filter fun e => decide (s.clk < e.1 + 1000000)) }
  { s with power := { s.power with regions := kset s.power.regions (b / 16) r } }

/-- Steps of zero elements commit at once (R320). -/
def emptySteps (s : State) (i : Nat) : State :=
  match instOf s i with
  | none => s
  | some x =>
    match x.run with
    | none => s
    | some r =>
      (x.blocks.zipIdx).foldl (fun s e =>
        if stepElems x.image e.2 ≠ 0 ∨ e.1.isEmpty then s
        else
          let s := (e.1.zipIdx).foldl (fun s o => match o.1 with
            | some b =>
              let n := ordSteps (runSteps r.p) e.1.length o.2
              regionCommits (modBlk s b fun x => { x with steps := x.steps + n }) b n
            | none => s) s
          modRun s i fun r => { r with committed := r.committed + runSteps r.p }) s

/-- The steps of a program whose effect the manual states whole: one step of work for the RUN (R374, R375). -/
def isConvert (x : Inst) : Bool := x.lib = some 8 || x.lib = some 9

/-- Of blocks, those in the first of some regions that has any, else all of them (R43). -/
def blocksNear (bs : List Nat) (rs : List Nat) : List Nat :=
  match rs.find? fun r => bs.any fun b => b / 16 = r with
  | some r => bs.filter fun b => b / 16 = r
  | none => bs

/-- A block of an instance on which a step of library work counts: in the first region that holds its data where the instance has a block
there (R43); which one of them is an open choice. -/
def someBlock (s : State) (i : Nat) (rs : List Nat) : Option Nat :=
  match instOf s i with
  | none => none
  | some x =>
    let bs := blocksNear (x.blocks.flatMap fun l => l.filterMap id) rs
    bs[freeNat s % Nat.max 1 bs.length]?

/-- The blocks of an instance that take the shares of a step whose data spans regions: one in each region beside that of its own block (R43). -/
def shareBlocks (s : State) (i : Option Nat) (rs : List Nat) (b : Option Nat) : List Nat :=
  let bs := ((i.bind (instOf s)).map fun x => x.blocks.flatMap fun l => l.filterMap id).getD []
  (rs.filter fun r => (b.map (· / 16)) ≠ some r).filterMap fun r => (bs.filter fun k => k / 16 = r)[freeNat s % Nat.max 1 (bs.filter fun k => k / 16 = r).length]?

/-- A RUN begins (R361). -/
def beginRun (s : State) (i : Nat) (r : RunState) : State :=
  let s := modInst s i fun x => { x with run := some r }
  match instOf s i with
  | none => s
  | some x =>
    if isConvert x then
      if runSteps r.p = 0 then s
      else (putJob (bumpFree s) { kind := .convert i 0, dest := r.dest, op := .run, p := r.p, inst := some i, block := someBlock s i [],
                                  pages := r.pages, arrived := s.clk }).1
    else schedule (emptySteps s i) i

/-- Data that RSP streams produced, in place (R358, R362). -/
def rspData (l : List (Nat × List Byte)) : List Byte :=
  l.foldl (fun acc e => acc.take e.1 ++ List.replicate (e.1 - acc.length) 0 ++ e.2 ++ acc.drop (e.1 + e.2.length)) []

/-- Answer a RUN (R362, R363). -/
def answerRun (s : State) (r : RunState) (status : Nat) : State :=
  let n := runOut r.p
  answerTo s r.dest .run r.p status r.committed (if n = 0 then r.p.length.toNat else n)
    (if n = 0 ∨ status ≠ stOk then none else some ((rspData r.rsp).take n))

/-- Write the words of a replacement (R364, R365): the scratch and the steps counted stand. -/
def applyReplace (s : State) (i : Nat) : State :=
  match instOf s i with
  | none => s
  | some x =>
    match x.replace with
    | none => s
    | some (im, r) =>
      let m := Config.shake256 32 im
      let s := modInst s i fun x => { x with image := im, measure := m, replace := none }
      complete (logProg s 2 x.part i m) r stOk 0 []

/-- Unload an instance in which no RUN is in progress (R366). -/
def finishUnload (s : State) (i : Nat) : State :=
  match instOf s i with
  | none => s
  | some x =>
    match x.unload with
    | none => s
    | some rs =>
      let s := match x.replace with
        | some (_, r) => complete s r stDenied 0 []
        | none => s
      let s := freeInst (logProg s 3 x.part i x.measure) i
      rs.foldl (fun s r => complete s r stOk 0 []) s

/-- An instance that is to be unloaded goes once nothing of it is in progress (R366). -/
def unloadGo (s : State) (i : Nat) : State :=
  match instOf s i with
  | none => s
  | some x => if x.unload.isSome && x.run.isNone && !s.fab.jobs.any (fun e => e.2.inst = some i) then finishUnload s i else s

/-- The RUN in progress has ended: a replacement, an unloading, or the next RUN of the queue (R361, R365, R366). -/
def nextRun (s : State) (i : Nat) : State :=
  let s := applyReplace (modInst s i fun x => { x with run := none }) i
  match instOf s i with
  | none => s
  | some x =>
    if x.unload.isSome then s
    else match x.queue with
      | [] => s
      | r :: rs => beginRun (modInst s i fun x => { x with queue := rs }) i r

/-- The status with which the RUN in progress ends now: its steps and writes are done, or it has failed and its writes are done. -/
def runOver (s : State) (i : Nat) (x : Inst) (r : RunState) : Option Nat :=
  let writing := s.fab.jobs.any fun e => e.2.inst = some i && e.2.op = .run && (e.2.stage = .writing || (isConvert x && r.fail.isNone && runSteps r.p ≠ 0))
  let total := if isConvert x then (if runSteps r.p = 0 then 0 else r.committed) else runTotal x.image (runSteps r.p)
  if writing then none
  else match r.fail with
    | some st => some st
    | none => if r.committed = total then some stOk else none

/-- End RUNs that are over, one after the other; a RUN of no steps is over as it begins. -/
def checkRuns : Nat → State → Nat → State
  | 0, s, _ => s
  | n + 1, s, i =>
    match instOf s i, (instOf s i).bind (·.run) with
    | some x, some r =>
      match runOver s i x r with
      | some st => checkRuns n (holdEnd (nextRun (answerRun s r st) i) r.hold) i
      | none => s
    | _, _ => s

/-- End the RUN in progress where it is over, and those of the queue that are over as they begin. -/
def checkRun (s : State) (i : Nat) : State := checkRuns 66 s i

/-- A RUN stops with a status (R363): its steps are dropped, committed ones keep their effects. -/
def failRun (s : State) (i st : Nat) : State :=
  let drop := fun (e : Nat × Job) => e.2.inst = some i && e.2.op = .run && e.2.stage ≠ .writing
  let s := (s.fab.jobs.filter drop).foldl (fun s e => stopEnd s e.2) s
  let s := modFab s fun x => { x with jobs := x.jobs.filter fun e => !drop e }
  checkRun (modRun s i fun r => { r with fail := some (r.fail.getD st) }) i

/-- Issue the writes of committed work; with none it is done at once. -/
def issueWrites (s : State) (id : Nat) (ws : List (Nat × List Byte)) : State :=
  let s := modJob s id fun j => { j with stage := .writing, block := none, wait := [] }
  ws.foldl (jobWrite id) s

/-- Count what a step counted (R292, R300, R372). -/
def countAll (s : State) (l : List (Ctr × Nat)) : State := l.foldl (fun s e => bumpBy s e.1 48 e.2) s

/-- One of a block's steps committed in its region. -/
def regionCommit (s : State) (b : Nat) : State := regionCommits s b 1

/-- A step of a block counts there (R369). -/
def countStep (s : State) (b : Nat) : State := regionCommit (modBlk s b fun x => { x with steps := x.steps + 1 }) b

/-- Commit an image step (R316, R317). -/
def commitImage (s : State) (id i t g b : Nat) (o : JobOut) : State :=
  match instOf s i with
  | none => s
  | some x =>
    let s := regionCommit (modBlk (countAll s o.counts) b (commitBlk x.image t o)) b
    let s := modRun s i fun r => { r with committed := r.committed + 1, net := r.net ++ o.net.map fun e => ((e.1, g), e.2), rsp := r.rsp ++ o.rsp }
    checkRun (schedule (issueWrites s id o.writes) i) i

/-! ## Admission of RUN and FILTER -/

/-- Ranges of a RUN (R360): write, address, bytes. -/
def runRanges (x : Inst) (p : Req) : Option (List (Bool × Nat × Nat)) :=
  let slots := runParams p / 8
  match x.lib with
  | some 8 | some 9 => if slots < 3 then none else convertRanges (x.lib.getD 8) p
  | _ =>
    let ms := memStreams x.image p
    if (memSlots x.image).any fun k => decide (slots ≤ k) then none else some (ms.map fun m => (m.1, runSlot p m.2.1, m.2.2))

/-- Answer a request at its engine at once. -/
def refuse (s : State) (dest : JobTo) (op : Op) (p : Req) (st : Nat) : State := answerTo s dest op p st 0 p.length.toNat none

/-- The instance of a program handle that is current and not being unloaded (R350, R366). -/
def handleInst (s : State) (p : Req) : Option (Nat × Inst) :=
  let h := progHandle p.address.toNat
  match instOf s h.1 with
  | some x => if x.gen = h.2.2 ∧ x.part = h.2.1 ∧ p.address.toNat < 2 ^ 38 then some (h.1, x) else none
  | none => none

/-- Where an engine's work is counted until it completes (R184, R360). -/
def holdOf (s : State) (p : Req) : Option (Nat × Nat) := (astOf s p.ast.toNat).map fun a => (p.ast.toNat, a.gen)

/-- A RUN reaches its instance (R356 to R361). -/
def startRun (s : State) (dest : JobTo) (p : Req) : State :=
  match handleInst s p with
  | none => refuse s dest .run p stDenied
  | some (i, x) =>
    if p.length = 0 then refuse s dest .run p (if x.unload.isSome then stDenied else stOk)
    else if !runFormOk p then refuse s dest .run p stMalformed
    else match runRanges x p with
      | none => refuse s dest .run p stMalformed
      | some rs =>
        match lookAll s x.part (rs.map fun r => (p.ast.toNat, r.1, r.2.1, r.2.2)) with
        | .inr st => refuse s dest .run p st
        | .inl pages =>
          if x.unload.isSome then refuse s dest .run p stDenied
          else if isShort x ∨ (x.run.isSome ∧ 64 ≤ x.queue.length) then refuse s dest .run p stRetry
          else
            let r : RunState := { dest := dest, p := p, hold := holdOf s p, pages := pages }
            if x.run.isSome then modInst s i fun x => { x with queue := x.queue ++ [r] }
            else checkRun (beginRun s i r) i

/-- A FILTER reaches its instance (R376, R377). -/
def startFilter (s : State) (dest : JobTo) (p : Req) : State :=
  match handleInst s p with
  | none => refuse s dest .filter p stDenied
  | some (i, x) =>
    if x.lib ≠ some 7 ∨ x.unload.isSome = true then refuse s dest .filter p stDenied
    else if p.length = 0 then refuse s dest .filter p stOk
    else if p.length ≠ 48 ∨ !filterOk p then refuse s dest .filter p stMalformed
    else match lookAll s x.part ((filterRanges p).map fun r => (p.ast.toNat, r.1, r.2.1, r.2.2)) with
      | .inr st => refuse s dest .filter p st
      | .inl pages =>
        let rs := dataRegions s ((filterRanges p).flatMap fun r => vaPool pages p.ast.toNat r.2.1 r.2.2)
        let b := someBlock s i rs
        (putJob (bumpFree s) { kind := .filter i, dest := dest, op := .filter, p := p, hold := holdOf s p, inst := some i, block := b,
                               also := shareBlocks s (some i) rs b, pages := pages, arrived := s.clk }).1

/-! ## Shadow execution (R368 to R371, R784, R800) -/

/-- Regions whose conditions repeat a fingerprint's (R784). -/
def watchedRegion (s : State) (r : Nat) : Bool :=
  regField s rRas 0 1 = 1 && s.ras.prints.any fun f =>
    decide (f.1 = r ∧ (f.2.1 - regionTemp s r).natAbs ≤ 8 * regField s rRas 1 5 ∧
      ((f.2.2 : Int) - (regionPow s r).mv).natAbs ≤ regField s rRas 6 6)

/-- Some block of an instance lies in a watched region. -/
def watched (s : State) (x : Inst) : Bool :=
  (x.blocks.flatMap fun l => l.filterMap id).any fun b => watchedRegion s (b / 16)

/-- This switch is in the degraded state (R800). -/
def selfDegraded (s : State) : Bool := s.ras.degraded.any fun t => t.switch && t.node = selfNode s

/-- Why the next step of a block is shadowed: interval, watch. -/
def shadowWhy (s : State) (x : Inst) (b : Nat) : Bool × Bool :=
  let due := decide (((blk s b).steps + (blk s b).phase) % Nat.max 1 x.shadowN = 0) || selfDegraded s
  (due, !due && watched s x)

/-- Shadow blocks of an instance outside a region. -/
def shadowsFor (s : State) (x : Inst) (b : Nat) : List Nat := x.shadows.filter fun h => h / 16 ≠ b / 16 && !isFenced s (h / 16) && !broken (blk s h)
/-- A shadow block that runs no step. -/
def shadowFree (s : State) (h : Nat) : Bool := !s.fab.jobs.any fun e => e.2.shadow = some h

/-- A shadowed step whose elements have passed takes its shadow block, waits for one, or commits unchecked (R370, R371). -/
def takeShadow (s : State) (id : Nat) : State :=
  match jobOf s id with
  | none => s
  | some j =>
    match j.inst.bind (instOf s), j.inst, j.block with
    | some x, some i, some b =>
      if !j.shadowed ∨ j.checked ∨ j.shadow.isSome ∨ j.stage ≠ .done then s
      else match (shadowsFor s x b).find? (shadowFree s) with
        | some h =>
          modJob (waitEnd s j) id fun j => { j with shadow := some h, waitSince := none }
        | none =>
          if (shadowsFor s x b).isEmpty && decide (x.shadows.length < x.need) then
            note (bump (modJob (waitEnd s j) id fun j => { j with checked := true, waitSince := none }) (.prog i 5)) "SHADOW_SKIPPED" [i, b]
          else modJob s id fun j => { j with waitSince := some (j.waitSince.getD s.clk) }
    | _, _, _ => s

/-- Every element of a step has passed (R317). -/
def passed (s : State) (id : Nat) : State := takeShadow (modJob s id fun j => { j with stage := .done }) id

/-! ## Retired blocks (R773 to R775) -/

/-- Blocks that may take the place of a template's block (R774): for a PACKED template those of regions that it uses already come first. -/
def replacements (s : State) (x : Inst) (t : Nat) (old : Nat) : List Nat :=
  let r := resourceOf x.image t
  let mine := ((x.blocks[t]?).getD []).filterMap id
  let cap := if r.placement = 1 then ceilDiv r.count (Nat.max 1 (maskCount r.regions)) else 256
  let there := fun (k : Nat) => (mine.filter fun b => b ≠ old && b / 16 = k).length
  let rs := (natRange 0 16).filter fun k => r.regions.testBit k && decide (there k < cap)
  let rs := if r.placement = 2 then (rs.filter fun k => decide (0 < there k)) ++ rs.filter fun k => there k = 0 else rs
  rs.flatMap (freeBlocks s)

/-- Put block nb in place of a bound block, with its scratch and accumulators, its steps and its phase. -/
def moveBlock (s : State) (i t o old nb : Nat) : State :=
  let c := blk s old
  let s := (s.fab.jobs.filter fun e => e.2.block = some old).foldl (fun s e => stopEnd s e.2) s
  let s := modBlk (clearBlk s nb (.bound i t o) c.phase) nb fun x =>
    { x with steps := c.steps, scratch := c.scratch, second := c.second, accs := c.accs, prev := c.prev, tileC := c.tileC }
  let s := modInst s i fun x => { x with
    blocks := x.blocks.mapIdx fun k l => if k = t then l.mapIdx fun q b => if q = o then some nb else b else l
    shadows := x.shadows.filter (· ≠ nb) }
  let redo := fun (j : Job) =>
    { j with block := some nb, stage := if j.stage = .parts then .parts else .queued, cache := [], wait := [],
             shadow := none, checked := false, waitSince := none }
  let js := s.fab.jobs.map fun (e : Nat × Job) =>
    if e.2.block = some old then (e.1, redo e.2) else (e.1, { e.2 with also := e.2.also.map fun b => if b = old then nb else b })
  modFab s fun f => { f with jobs := js }

/-- An instance is short: its RUN in progress is POISONED, those queued are sent away (R775). -/
def goShort (s : State) (i t o old : Nat) : State :=
  let s := bump s (.ras 3)
  let s := modInst s i fun x => { x with
    blocks := x.blocks.mapIdx fun k l => if k = t then l.mapIdx fun q b => if q = o then none else b else l }
  let q := ((instOf s i).map (·.queue)).getD []
  let s := modInst s i fun x => { x with queue := [] }
  let js := s.fab.jobs.map fun (e : Nat × Job) =>
    if e.2.block = some old ∧ e.2.op ≠ .run then (e.1, { e.2 with block := none }) else (e.1, { e.2 with also := e.2.also.filter (· ≠ old) })
  let s := modFab s fun f => { f with jobs := js }
  let s := if ((instOf s i).bind (·.run)).isSome then failRun s i stPoisoned else s
  q.foldl (fun s r => holdEnd (refuse s r.dest .run r.p stRetry) r.hold) s

/-- Replace a block that is gone (R774, R775): by a free one, by a shadow block, or not. -/
def replaceBlock (s : State) (i t o old : Nat) : State :=
  match instOf s i with
  | none => s
  | some x =>
    match replacements s x t old, x.shadows.find? (shadowFree s) with
    | nb :: _, _ => moveBlock s i t o old nb
    | [], some nb => moveBlock s i t o old nb
    | [], none => goShort s i t o old

/-- A shadow block is gone: a free block of another region takes its place where there is one (R371, R778). -/
def replaceShadow (s : State) (i old : Nat) : State :=
  let s := (s.fab.jobs.filter fun e => e.2.shadow = some old).foldl (fun s e => waitEnd s e.2) s
  let again := fun (j : Job) => { j with shadow := none, waitSince := none, stage := if j.stage = .referee then .done else j.stage }
  let s := modFab s fun f => { f with jobs := f.jobs.map fun e => if e.2.shadow = some old then (e.1, again e.2) else e }
  let s := modInst s i fun x => { x with shadows := x.shadows.filter (· ≠ old) }
  match instOf s i with
  | none => s
  | some x =>
    let regs := (x.shadows.map (· / 16)).eraseDups
    let ok := fun (r : Nat) => decide (1 < regs.length) || !regs.contains r
    match ((natRange 0 16).filter ok).flatMap (freeBlocks s) with
    | nb :: _ => modInst (clearBlk s nb (.shadow i) 0) i fun x => { x with shadows := x.shadows ++ [nb] }
    | [] => s

/-- A block goes out of use: what held it is placed anew. -/
def vacate (s : State) (b : Nat) : State :=
  let u := (blk s b).use
  let s := match u with
    | .bound i t o => replaceBlock s i t o b
    | .shadow i => replaceShadow s i b
    | .free => s
  modBlk s b fun x => { retired := x.retired, phys := x.phys, spares := x.spares, suspects := x.suspects, retiredCells := x.retiredCells,
                        transients := x.transients, scrubAt := x.scrubAt }

/-- A region's temperature in 1/8 °C, supply and frequency, averaged over the preceding 100 µs, and the percentage of its cells that are enabled
(R783, R965). -/
def regionBody (s : State) (r : Nat) : List Byte :=
  let a := regionAvg s r
  let cells := (blocksIn r).foldl (fun n b => match (blk s b).use with
    | .bound i t _ => n + match instOf s i with
        | some x => ((cellWords x.image t).filter fun w => w.testBit 0).length
        | none => 0
    | _ => n) 0
  leBytes 2 (a.tj % 65536).toNat ++ leBytes 2 a.mv.toNat ++ leBytes 2 a.mhz.toNat ++ leBytes 1 (cells * 100 / 512)

/-- Identity of the program concerned, and a step's number, for the health log (R965). -/
def logBody (s : State) (b step : Nat) : List Byte :=
  let im := match (blk s b).use with
    | .bound i _ _ | .shadow i => ((instOf s i).map (·.image)).getD []
    | .free => []
  leBytes 8 (if im.isEmpty then 0 else programId im) ++ leBytes 4 (if im.isEmpty then 0 else programVersion im) ++ leBytes 4 (step % 2 ^ 32) ++
    regionBody s (b / 16)

/-- A block fault (R773): counted and logged; the block is retired where two live cores of the Wick decide that (R785, log entry 176). -/
def blockFault (s : State) (b : Nat) : State :=
  if (blk s b).retired then s
  else
    let s := healthLog (bump s (.ras 2)) 3 (b / 16) b 0 (logBody s b (blk s b).steps)
    let s := { s with ras := { s.ras with faultsAt := kset s.ras.faultsAt (b / 16) (s.clk :: kget s.ras.faultsAt (b / 16) []) } }
    if (s.ras.cores.filter (·.live)).length < 2 then s else vacate (modBlk s b fun x => { x with retired := true }) b

/-- Blocks that have become free go to instances that are short of one (R775). -/
def fillShort (s : State) : State :=
  s.fab.insts.foldl (fun s e =>
    e.2.blocks.zipIdx.foldl (fun s l => l.1.zipIdx.foldl (fun s o =>
      match o.1, instOf s e.1 with
      | none, some x =>
        match replacements s x l.2 65535 with
        | nb :: _ =>
          modInst (clearBlk s nb (.bound e.1 l.2 o.2) 0) e.1 fun x => { x with
            blocks := x.blocks.mapIdx fun k l' => if k = l.2 then l'.mapIdx fun q b => if q = o.2 then some nb else b else l' }
        | [] => s
      | _, _ => s) s) s) s

/-! ## Cells (R322 to R326) -/

/-- The physical cell and the logical cell it carries. -/
def logicalOf (x : Block) (p : Nat) : Nat := ((x.phys.find? fun e => e.2 = p).map (·.1)).getD p
/-- A physical cell carries a word. -/
def cellInUse (x : Block) (p : Nat) : Bool :=
  decide (p < 34) && !x.retiredCells.contains p && !x.spares.contains p

/-- Retire a cell: its word and routes go to a free spare (R323 to R325); none left is a block fault. -/
def retireCell (s : State) (b p : Nat) : State :=
  let x := blk s b
  let s := healthLog (bump s (.ras 1)) 1 (b / 16) b p (logBody s b x.steps)
  let s := modBlk s b fun x => { x with suspects := x.suspects.filter (· ≠ p), retiredCells := x.retiredCells ++ [p],
                                        transients := x.transients.filter fun e => e.1 ≠ p }
  match x.spares with
  | sp :: rest => modBlk s b fun y => { y with spares := rest, phys := kset y.phys (logicalOf x p) sp }
  | [] => blockFault s b

/-- Errors in a step, or in words at rest: ACTIVE becomes SUSPECT, SUSPECT is retired; the tile is number 34 (R323, R326). -/
def cellErrors (s : State) (b : Nat) (bad : List Nat) : State :=
  bad.eraseDups.foldl (fun s p =>
    let x := blk s b
    let s := note (bump s (.fault 0)) "CELL_ERROR" [b, p]
    if x.retired then s
    else if p = 34 then
      if x.suspects.contains 34 then
        blockFault (modBlk (healthLog s 2 (b / 16) b 0 (logBody s b x.steps)) b fun x =>
          { x with suspects := x.suspects.filter (· ≠ 34), retiredCells := x.retiredCells ++ [34] }) b
      else modBlk s b fun x => { x with suspects := x.suspects ++ [34] }
    else if !cellInUse x p then s
    else if x.suspects.contains p then retireCell s b p
    else modBlk s b fun x => { x with suspects := x.suspects ++ [p] }) s

/-- Words whose parity fails while a step starts or the scrub runs are loaded anew from the image (R322): 0 to 33 are those of physical
cells, which change state (R323), 34 that of the tile, 35 routes and stream tables. -/
def wordErrors (s : State) (b : Nat) (bad : List Nat) : State :=
  let s := (bad.filter fun n => decide (34 ≤ n)).eraseDups.foldl (fun s n => note (bump s (.fault 0)) "WORD_RELOADED" [b, n]) s
  cellErrors s b (bad.filter fun n => decide (n < 34))

/-- A replay without error: each suspect cell is ACTIVE again with a transient counted, or retired at its fifth within a second;
whether a cell was retired (R323). -/
def clearSuspects (s : State) (b : Nat) : State × Bool :=
  (blk s b).suspects.foldl (fun (a : State × Bool) p =>
    let (s, again) := a
    if p = 34 then (modBlk s b fun x => { x with suspects := x.suspects.filter (· ≠ 34) }, again)
    else
      let s := note (bump s (.ras 0)) "CELL_TRANSIENT" [b, p]
      let recent := ((blk s b).transients.filter fun e => e.1 = p && decide (s.clk < e.2 + 1000000000)).length + 1
      if 5 ≤ recent then (retireCell s b p, true)
      else (modBlk s b fun x => { x with suspects := x.suspects.filter (· ≠ p),
                                         transients := (x.transients.filter fun e => decide (s.clk < e.2 + 1000000000)) ++ [(p, s.clk)] }, again)) (s, false)

/-- Replay a step: its operands are read again (R310, R323). -/
def replay (s : State) (id : Nat) : State :=
  let s := ((jobOf s id).map (stopEnd s)).getD s
  modJob s id fun j => { j with stage := .queued, cache := [], wait := [], shadow := none, checked := false, waitSince := none }

/-! ## Verdicts (R782, R783) -/

/-- A step replays where it stands; in a block that lacks a cell or its tile it is abandoned (R323, R326). -/
def isBroken (s : State) (id : Nat) : Bool :=
  match (jobOf s id).bind (·.block) with
  | some b => broken (blk s b) && !(blk s b).retired
  | none => false

/-- Write a fingerprint for a block. -/
def fingerprint (s : State) (b row step : Nat) : State :=
  let r := b / 16
  let s := healthLog s 4 r b (64 * row) (logBody s b step)
  { s with ras := { s.ras with prints := s.ras.prints ++ [(r, (regionAvg s r).tj, (regionAvg s r).mv.toNat)] } }

/-- A referee can be bound: a free block, or a shadow block that runs nothing, outside both regions. -/
def refereeFor (s : State) (x : Inst) (a b : Nat) : Option Nat :=
  let ok := fun (r : Nat) => r ≠ a / 16 && r ≠ b / 16
  match (x.shadows.filter fun h => ok (h / 16) && !isFenced s (h / 16)).find? (shadowFree s) with
  | some h => some h
  | none => (((natRange 0 16).filter ok).flatMap (freeBlocks s)).head?

/-! ## Slow devices (R570 to R572) -/

/-- Work moves for slowness (R572). -/
def rebalanceOn (s : State) : Bool := regField s rStraggler 0 1 = 1 && regField s rStraggler 16 1 = 1

/-- The lower of the middle values. -/
def medianOf (l : List Nat) : Nat :=
  let ins := fun (acc : List Nat) (x : Nat) => acc.takeWhile (fun y => decide (y ≤ x)) ++ x :: acc.dropWhile fun y => decide (y ≤ x)
  (l.foldl ins []).getD ((l.length - 1) / 2) 0

/-- A device's time exceeds the median by more than LAG_PCT. -/
def lags (s : State) (took : List (Nat × Nat)) (d : Nat) : Bool :=
  decide (medianOf (took.map (·.2)) * (100 + regField s rStraggler 1 7) < kget took d 0 * 100)

/-- Count a device's consecutive slow rounds or parts. -/
def lagOne (s : State) (l : Lag) (d : Nat) : Lag :=
  { l with slowFor := kset l.slowFor d (if lags s l.took d then kget l.slowFor d 0 + 1 else 0) }

/-- Devices that have been slow for STEPS. -/
def slowOnes (s : State) (l : Lag) : List Nat :=
  (l.slowFor.filter fun e => decide (Nat.max 1 (regField s rStraggler 8 8) ≤ e.2)).map (·.1)

/-- The shares of a round or step are compared (R571). -/
def roundLag (s : State) (l : Lag) : Lag :=
  if l.took.isEmpty || !rebalanceOn s then { l with took := [] }
  else { (l.took.foldl (fun l e => lagOne s l e.1) l) with took := [], due := true }

/-- Count moves of work of a partition: of the switch, and of the partition's services (R571, R573). -/
def countMoves (s : State) (part n : Nat) : State :=
  let s := bumpBy s .rebalances 48 n
  s.fab.services.foldl (fun s e => if e.2.part = part then bumpBy s (.serve e.1 10) 48 n else s) s

end Sys2Proof.Machine
end

