-- ==== Sys2Proof/Machine/CollCore.lean ====
section
/-! DEFINITION. Machine/CollCore.lean: collective contexts: descriptors, admission, contributions, records, partials, delivery,
notices, re-hosting and the optimizer (09_collectives.md R379 to R440). -/
namespace Sys2Proof.Machine

/-! ## The descriptor and its tables (R380 to R389) -/

def cdKind (d : List Byte) : Nat := leField d 0 1
def cdOp (d : List Byte) : Nat := leField d 1 1 % 16
def cdRounded (d : List Byte) : Bool := bits (leField d 1 1) 4 2 = 1
def cdIn (d : List Byte) : Nat := leField d 2 1
def cdOut (d : List Byte) : Nat := leField d 3 1
def cdPartial (d : List Byte) : Nat := leField d 4 1
def cdOpt (d : List Byte) : Nat := leField d 5 1 % 16
def cdGate (d : List Byte) : Nat := leField d 5 1 / 16
def cdSlots (d : List Byte) : Nat := leField d 6 1
def cdChunk (d : List Byte) : Nat := 2 ^ leField d 7 1
def cdElems (d : List Byte) : Nat := leField d 8 8
def cdMembers (d : List Byte) : Nat := leField d 0x10 2
def cdRoot (d : List Byte) : Nat := leField d 0x12 2
def cdNodes (d : List Byte) : Nat := leField d 0x14 2
def cdTrees (d : List Byte) : Nat := leField d 0x16 2
def cdSpill (d : List Byte) : Nat := leField d 0x28 2
def cdStall (d : List Byte) : Nat := leField d 0x2A 2
def cdAst (d : List Byte) : Nat := leField d 0x2C 4
/-- Only passed through (R384). -/
def cdPass (d : List Byte) : Bool := cdKind d = 3 || cdKind d = 5
/-- Summed in records, and the kind of record (R382). -/
def cdSum (d : List Byte) : Bool := !cdPass d && cdOp d = 0
def cdAcc (d : List Byte) : AccKind := if cdIn d = 0x0D then acc2176 else acc320

/-- Formats of contributions that R382 allows under SUM, and what they may be delivered and carried in. -/
def sumFormatsOk (d : List Byte) : Bool :=
  let f := cdIn d
  let o := cdOut d
  let p := cdPartial d
  let small := decide (8 ≤ o ∧ o ≤ 0xC)
  if f = 0x0D then (o = 0x0D || o = 0x0C) && p = (if cdRounded d then 0x0D else 0)
  else if decide (8 ≤ f ∧ f ≤ 0xC) || isMx f then
    small && (if cdRounded d then decide (0xA ≤ p ∧ p ≤ 0xC) else p = 0)
  else if f = 4 ∨ f = 5 ∨ f = 6 then (o = 6 || o = 0xC) && !cdRounded d && p = 0
  else false

/-- A plain element format: one that is neither NONE, nor a record, nor of MX blocks. -/
def plainFormat (c : Nat) : Bool := fmtListed c && c ≠ 0 && decide (c < 0x10)

/-- Check 1 of R391 on the descriptor: reserved bits and values, and R381 to R385. -/
def descOk (d : List Byte) : Bool :=
  let z := fun (o n : Nat) => decide (leField d o n = 0)
  d.length = 128 &&
  decide (1 ≤ cdKind d ∧ cdKind d ≤ 5) && decide (cdOp d ≤ 2) && decide (leField d 1 1 / 16 ≤ 1) && decide (cdIn d < 32) && decide (cdOut d < 32) &&
  decide (cdPartial d < 32) && decide (cdOpt d ≤ 2) && decide (1 ≤ cdSlots d ∧ cdSlots d ≤ 8) &&
  decide (10 ≤ leField d 7 1 ∧ leField d 7 1 ≤ 16) && decide (cdElems d < 2 ^ 40) && decide (cdMembers d ≤ 24576) &&
  decide (leField d 0x12 2 < 2 ^ 15) &&
  (if cdKind d = 4 ∨ cdKind d = 5 then decide (cdRoot d < cdMembers d ∨ cdMembers d = 0) else cdRoot d = 0) &&
  decide (1 ≤ cdNodes d ∧ cdNodes d ≤ 1023) && decide (1 ≤ cdTrees d ∧ cdTrees d ≤ 16) && decide (cdSpill d ≤ 64) && decide (cdStall d ≤ 60000) &&
  decide (cdAst d < 4096) && z 0x68 24 &&
  (if cdOpt d = 0 then z 0x2C 60 else cdKind d = 1 && cdOp d = 0 && cdIn d ≠ 0x0D && !isInt (cdIn d) && decide (0xA ≤ cdOut d ∧ cdOut d ≤ 0xC) &&
    (cdOpt d = 2 || z 0x40 8)) &&
  (if cdPass d then cdOp d = 0 && !cdRounded d && cdPartial d = 0 && cdOpt d = 0 && cdOut d = cdIn d && (plainFormat (cdIn d) || isMx (cdIn d))
   else if cdOp d = 0 then sumFormatsOk d
   else !cdRounded d && cdPartial d = 0 && plainFormat (cdIn d) && (plainFormat (cdOut d) || isMx (cdOut d)))

/-- Entries of the member table (R386). -/
def memNode (t : List Byte) (m : Nat) : Nat := leField t (32 * m) 2
def memAlt (t : List Byte) (m : Nat) : Nat := leField t (32 * m + 2) 2
def memTallow (t : List Byte) (m : Nat) : Bool := (leField t (32 * m + 4) 4).testBit 0
def memResult (t : List Byte) (m : Nat) : Nat := leField t (32 * m + 8) 8
def memNotice (t : List Byte) (m : Nat) : Nat := leField t (32 * m + 16) 8
def memberOk (t : List Byte) (m : Nat) : Bool :=
  decide (memNode t m < 2 ^ 15) && decide (memAlt t m < 2 ^ 15) && decide (leField t (32 * m + 4) 4 ≤ 1) && decide (memResult t m < 2 ^ 48) &&
  decide (memNotice t m < 2 ^ 48) && memNotice t m % 1024 = 0 && leField t (32 * m + 24) 8 = 0
def membersOk (d t : List Byte) : Bool :=
  (natRange 0 (cdMembers d)).all (memberOk t) && ((natRange 0 (cdMembers d)).map (memNode t)).Nodup

/-- Entries of the tree table (R387). -/
def trHost (t : List Byte) (i : Nat) : Nat := leField t (16 * i) 2
def trSpare (t : List Byte) (i : Nat) : Nat := leField t (16 * i + 2) 2
def trParent (t : List Byte) (i : Nat) : Nat := leField t (16 * i + 4) 2 % 1024
def trTree (t : List Byte) (i : Nat) : Nat := bits (leField t (16 * i + 4) 2) 10 4
def trSpan (t : List Byte) (i : Nat) : Nat := leField t (16 * i + 6) 2
def trRoot (t : List Byte) (i : Nat) : Bool := trParent t i = 0x3FF
/-- A parent chain ends at its root within so many logical nodes. -/
def chainOk (t : List Byte) (n i : Nat) : Nat → Bool
  | 0 => false
  | fuel + 1 => trRoot t i || (decide (trParent t i < n) && trTree t (trParent t i) = trTree t i && chainOk t n (trParent t i) fuel)
def treeNodes (d t : List Byte) (k : Nat) : List Nat := (natRange 0 (cdNodes d)).filter fun i => trTree t i = k
def childrenOf (d t : List Byte) (i : Nat) : List Nat := (natRange 0 (cdNodes d)).filter fun j => trParent t j = i
/-- Switches that a tree table names as hosts or spares. -/
def tableHosts (d t : List Byte) : List Nat :=
  (((natRange 0 (cdNodes d)).map (trHost t)) ++ ((natRange 0 (cdNodes d)).map (trSpare t)).filter (· ≠ noNode)).eraseDups
def rootOf (d t : List Byte) (k : Nat) : Nat := ((treeNodes d t k).find? (trRoot t)).getD 0
/-- R388, but for what only the attaching switches know. -/
def treeOk (d t : List Byte) : Bool :=
  let is := natRange 0 (cdNodes d)
  is.all (fun i => decide (trHost t i < 2 ^ 15) && decide (trSpare t i < 2 ^ 15) && decide (leField t (16 * i + 4) 2 < 2 ^ 14) &&
    decide (1 ≤ trSpan t i ∧ trSpan t i ≤ 16) && leField t (16 * i + 8) 8 = 0 && decide (trTree t i < cdTrees d) &&
    chainOk t (cdNodes d) i 6 && decide ((childrenOf d t i).length ≤ 128)) &&
  (natRange 0 (cdTrees d)).all fun k =>
    ((treeNodes d t k).filter (trRoot t)).length = 1 && ((treeNodes d t k).map (trHost t)).Nodup

/-- Chunks of a round, and those of a tree's shard: first and end (R389). -/
def cdChunks (d : List Byte) : Nat := ceilDiv (cdElems d) (cdChunk d)
def shardFirst (d : List Byte) (t : Nat) : Nat := t * cdChunks d / cdTrees d
def shardEnd (d : List Byte) (t : Nat) : Nat := (t + 1) * cdChunks d / cdTrees d
def chunkTree (d : List Byte) (c : Nat) : Nat := ((natRange 0 (cdTrees d)).find? fun t => decide (shardFirst d t ≤ c ∧ c < shardEnd d t)).getD 0
def chunkLen (d : List Byte) (c : Nat) : Nat := Nat.min (cdChunk d) (cdElems d - c * cdChunk d)
/-- Member m's range (R381); the elements it contributes, and those it receives: first and end. -/
def memRange (d : List Byte) (m : Nat) : Nat × Nat := (m * cdElems d / cdMembers d, (m + 1) * cdElems d / cdMembers d)
def contributes (d : List Byte) (m : Nat) : Nat × Nat :=
  if cdKind d = 3 then memRange d m else if cdKind d = 5 ∧ m ≠ cdRoot d then (0, 0) else (0, cdElems d)
def receives (d : List Byte) (m : Nat) : Nat × Nat :=
  if cdKind d = 2 then memRange d m else if cdKind d = 4 ∧ m ≠ cdRoot d then (0, 0) else (0, cdElems d)
/-- Elements of a chunk that lie in a range: first and end within the chunk. -/
def within (d : List Byte) (c : Nat) (r : Nat × Nat) : Nat × Nat :=
  let b := c * cdChunk d
  let lo := Nat.max b r.1
  let hi := Nat.min (b + chunkLen d c) r.2
  if hi ≤ lo then (0, 0) else (lo - b, hi - b)

/-! ## Contexts and nodes -/

def ctxKey (coord id : Nat) : Nat := coord * 4096 + id
def nodeKey (ck ix : Nat) : Nat := ck * 1024 + ix
def chunkKey (round c : Nat) : Nat := round % 2 ^ 32 * 2 ^ 32 + c
def ctxOf (s : State) (ck : Nat) : Option CollCtx := kfind s.fab.ctxs ck
def modCtx (s : State) (ck : Nat) (f : CollCtx → CollCtx) : State := modFab s fun x => { x with ctxs := kmod x.ctxs ck f }
def cnodeOf (s : State) (nk : Nat) : Option CollNode := kfind s.fab.nodes nk
def modNode (s : State) (nk : Nat) (f : CollNode → CollNode) : State := modFab s fun x => { x with nodes := kmod x.nodes nk f }
def chunkOf (n : CollNode) (key : Nat) : ChunkSt := kget n.chunks key {}
def modChunk (s : State) (nk key : Nat) (f : ChunkSt → ChunkSt) : State :=
  modNode s nk fun n => { n with chunks := kset n.chunks key (f (chunkOf n key)) }
/-- The nodes of a context hosted here, and those of a tree. -/
def nodesHere (s : State) (ck : Nat) : List (Nat × CollNode) := s.fab.nodes.filter fun e => e.2.ctx = ck
def nodesIn (s : State) (ck : Nat) (x : CollCtx) (t : Nat) : List (Nat × CollNode) := (nodesHere s ck).filter fun e => trTree x.tree e.2.ix = t
def handleOf (x : CollCtx) : Nat := mkNodeHandle x.id x.coord x.part x.gen
/-- The host of a logical node. -/
def hostOf (x : CollCtx) (ix : Nat) : Nat := trHost x.tree ix

/-- A member's leaf in a tree: the logical node that the switch to which NODE is attached hosted at open; it keeps its index when it is re-hosted
(R388, R420, R421). -/
def leafIx (x : CollCtx) (m t : Nat) : Nat :=
  let h := leField x.nodeAt (2 * m) 2
  ((treeNodes x.desc x.tree t).find? fun i => leField x.hosts0 (2 * i) 2 = h).getD 1023
/-- The members of a leaf. -/
def leafMembers (x : CollCtx) (ix : Nat) : List Nat :=
  (natRange 0 (cdMembers x.desc)).filter fun m => leafIx x m (trTree x.tree ix) = ix
/-- The members below a logical node: its own, and those of the nodes whose parent chain leads to it. -/
def isBelow (x : CollCtx) (ix i : Nat) : Nat → Bool
  | 0 => i = ix
  | fuel + 1 => i = ix || (!trRoot x.tree i && isBelow x ix (trParent x.tree i) fuel)
def belowMembers (x : CollCtx) (ix : Nat) : List Nat :=
  (natRange 0 (cdMembers x.desc)).filter fun m => isBelow x ix (leafIx x m (trTree x.tree ix)) 6
/-- A member's node in a tree: NODE, or ALT_NODE once its leaf is at another switch (R427). -/
def viaNode (x : CollCtx) (m t : Nat) : Nat :=
  if hostOf x (leafIx x m t) = leField x.nodeAt (2 * m) 2 then memNode x.members m else memAlt x.members m
/-- The region of a member's port at its leaf. -/
def memberRegion (s : State) (x : CollCtx) (m t : Nat) : Nat := ((lportOfNode s (viaNode x m t)).getD 0) / 32 % 16
/-- The members of a node that contribute to a chunk. -/
def contributors (x : CollCtx) (ix c : Nat) : List Nat :=
  (leafMembers x ix).filter fun m => within x.desc c (contributes x.desc m) ≠ (0, 0)
/-- Arrival regions of a chunk at a node (R392). -/
def arrivalRegs (s : State) (x : CollCtx) (ix c : Nat) : List Nat :=
  if cdPass x.desc then [] else ((contributors x ix c).map fun m => memberRegion s x m (trTree x.tree ix)).eraseDups

/-- Rounds from a node's current one. -/
def roundOff (n : CollNode) (rd : Nat) : Nat := (rd + 2 ^ 32 - n.round % 2 ^ 32) % 2 ^ 32
/-- A round counted from the first. -/
def fullRound (n : CollNode) (rd : Nat) : Nat := n.round + roundOff n rd
/-- The logical node of another tree that the same switch hosted at open: a leaf of the same members. -/
def sibling (x : CollCtx) (ix t : Nat) : Nat :=
  ((treeNodes x.desc x.tree t).find? fun i => leField x.hosts0 (2 * i) 2 = leField x.hosts0 (2 * ix) 2).getD 1023
/-- A tree carries chunks. -/
def carries (x : CollCtx) (t : Nat) : Bool := decide (shardFirst x.desc t < shardEnd x.desc t)
/-- Chunks before one at a node, current round first (R413). -/
def keysBefore (x : CollCtx) (n : CollNode) (rd c : Nat) : List Nat :=
  let t := trTree x.tree n.ix
  let f := shardFirst x.desc t
  let cur := fun (e : Nat) => (natRange f (e - f)).map (chunkKey n.round)
  if roundOff n rd = 0 then cur c else cur (shardEnd x.desc t) ++ (natRange f (c - f)).map (chunkKey rd)

/-- A chunk holds a slot of an arrival region, of the owner: fewer than SLOTS earlier ones still do, or still will (R413). -/
def regSlot (s : State) (x : CollCtx) (n : CollNode) (rd c r : Nat) : Bool :=
  let open_ := (keysBefore x n rd c).filter fun k => (arrivalRegs s x n.ix (k % 2 ^ 32)).contains r && !(chunkOf n k).leftRegs.contains r
  decide (open_.length < cdSlots x.desc) && !(chunkOf n (chunkKey rd c)).leftRegs.contains r
/-- The elements of a chunk that come up to a node of a passed kind (R384). -/
def passUp (x : CollCtx) (ix c : Nat) : List Nat :=
  ((belowMembers x ix).flatMap fun m => let r := within x.desc c (contributes x.desc m); natRange r.1 (r.2 - r.1)).eraseDups
/-- The owner of a node has a record of a chunk: unless nothing of a passed kind comes up to it there. -/
def usesOwner (x : CollCtx) (n : CollNode) (c : Nat) : Bool :=
  !cdPass x.desc || trRoot x.tree n.ix || (belowMembers x n.ix).any fun m => within x.desc c (contributes x.desc m) ≠ (0, 0)
def ownSlot (x : CollCtx) (n : CollNode) (rd c : Nat) : Bool :=
  let open_ := (keysBefore x n rd c).filter fun k => !(chunkOf n k).closed && usesOwner x n (k % 2 ^ 32)
  decide (open_.length < cdSlots x.desc) && !(chunkOf n (chunkKey rd c)).closed

/-! ## Elements -/

/-- Bits of an element as a piece carries it; the width of what travels up and down. -/
def upBits (d : List Byte) : Nat := if cdSum d then (if cdRounded d then fmtBits (cdPartial d) else (cdAcc d).bytes * 8) else fmtBits (cdIn d)
/-- Results have MX elements: passed on, or delivered under MIN and MAX (R383, R384). -/
def mxDown (d : List Byte) : Bool := isMx (cdOut d)
/-- Bytes of n elements going up or down, with the scale bytes of MX formats. -/
def dataBytes (d : List Byte) (down : Bool) (w n : Nat) : Nat :=
  ceilDiv (n * w) 8 + (if (if down then mxDown d else cdPass d && isMx (cdIn d)) then ceilDiv n 32 else 0)
/-- Bytes of a contribution of n elements (R398). -/
def contribBytes (d : List Byte) (n : Nat) : Nat := packedBytes (cdIn d) n
/-- Elements in a piece that a packet carries (R52), in whole pieces of 1,024 elements (R404). DESIGN CHOICE (log 67): 1,024 FP64 records do
not fit a packet, so those go 128 at a time. -/
def pieceElems (w : Nat) : Nat := if 65504 < 136 * w then 128 else 65504 / (136 * w) * 1024
/-- Cut n elements into pieces: first and number. -/
def pieceCuts (per n : Nat) : List (Nat × Nat) := (natRange 0 (ceilDiv n per)).map fun k => (k * per, Nat.min per (n - k * per))

/-- A piece of its own for each 1,024 elements, or fewer where records go in smaller pieces: first and number. -/
def pieceBlocks (unit start n : Nat) : List (Nat × Nat) := (natRange 0 (ceilDiv n unit)).map fun k => (start + k * unit, Nat.min unit (n - k * unit))
/-- Pieces that follow each other, as one. -/
def joinPieces : List (Nat × Nat) → List (Nat × Nat)
  | [] => []
  | e :: l => match joinPieces l with
    | [] => [e]
    | f :: r => if e.1 + e.2 = f.1 then (e.1, e.2 + f.2) :: r else e :: f :: r

/-- Elements start to start + n of a piece's data, which carries cnt elements of w bits from `first` on: with their scale bytes where they are MX. -/
def pieceData (mx : Bool) (w first cnt start n : Nat) (data : List Byte) : List Byte :=
  sliceBytes data ((start - first) * w / 8) (ceilDiv (n * w) 8) ++
    (if mx then sliceBytes data (ceilDiv (cnt * w) 8 + (start - first) / 32) (ceilDiv n 32) else [])

/-- The lesser or the greater of two elements by their bits (R383). -/
def pickBits (d : List Byte) (a b : Nat) : Nat :=
  let x := elemVal (cdIn d) a
  let y := elemVal (cdIn d) b
  if x.isNan || y.isNan then elemBits (cdIn d) rne false .nan
  else if cdOp d = 1 then (if y.before x then b else a) else (if x.before y then b else a)

/-- Put an element's value into a record or a place (R300, R383, R384): the places, and whether a term overflowed or was rounded. -/
def putVal (d : List Byte) (m : List (Nat × Nat)) (k : Nat) (bits_ : Nat) (v : Val) : List (Nat × Nat) × Bool × Bool :=
  if cdSum d then
    let r := accAdd (cdAcc d) (kget m k 0) v
    (kset m k r.r, r.excess, r.rounded)
  else
    (kset m k (match kfind m k with
      | some b => if cdPass d then bits_ else pickBits d b bits_
      | none => bits_), false, false)

/-- Where the scale byte of 32 passed MX elements stands beside the elements. -/
abbrev scaleAt (e : Nat) : Nat := 2 ^ 18 + e / 32

/-- A contribution's elements into a list of records. -/
def addData (d : List Byte) (m : List (Nat × Nat)) (base start n : Nat) (data : List Byte) : List (Nat × Nat) × Nat × Nat :=
  let f := cdIn d
  let scales := data.drop (fmtBytes f n)
  let r := ((unpackVals f n data scales).zipIdx).foldl (fun (a : List (Nat × Nat) × Nat × Nat) e =>
    let x := putVal d a.1 (base + start + e.2) (fieldAt data (fmtBits f) e.2) e.1
    (x.1, a.2.1 + (if x.2.1 then 1 else 0), a.2.2 + (if x.2.2 then 1 else 0))) (m, 0, 0)
  if cdPass d && isMx f then
    ((natRange 0 (ceilDiv n 32)).foldl (fun l i => kset l (base + scaleAt (start + 32 * i)) (leField scales i 1)) r.1, r.2)
  else r

/-- A partial's elements into the owner's records (R395). -/
def addPartial (d : List Byte) (m : List (Nat × Nat)) (start n : Nat) (data : List Byte) : List (Nat × Nat) × Nat × Nat :=
  if cdSum d && !cdRounded d then
    let z := (cdAcc d).bytes
    ((natRange 0 n).foldl (fun l i => kset l (start + i) (accMerge (cdAcc d) (kget l (start + i) 0) (leField data (z * i) z))) m, 0, 0)
  else if cdSum d then
    ((natRange 0 n).foldl (fun (a : List (Nat × Nat) × Nat × Nat) i =>
      let x := putVal d a.1 (start + i) 0 (elemVal (cdPartial d) (fieldAt data (fmtBits (cdPartial d)) i))
      (x.1, a.2.1 + (if x.2.1 then 1 else 0), a.2.2 + (if x.2.2 then 1 else 0))) (m, 0, 0))
  else addData d m 0 start n data

/-- A region's record of n elements as it moves to the owner region: exact long accumulators, or values under MIN and MAX (R47, R393). -/
def regionBytes (d : List Byte) (regs : List (Nat × Nat)) (base n : Nat) : List Byte :=
  let es := (natRange 0 n).map fun e => kget regs (base + e) 0
  if cdSum d then es.flatMap (leBytes (cdAcc d).bytes) else packFields (fmtBits (cdIn d)) es

/-- A region's record merged into the owner's (R395). -/
def mergeRecord (d : List Byte) (own : List (Nat × Nat)) (n : Nat) (b : List Byte) : List (Nat × Nat) :=
  (natRange 0 n).foldl (fun l e =>
    if cdSum d then kset l e (accMerge (cdAcc d) (kget l e 0) (leField b ((cdAcc d).bytes * e) (cdAcc d).bytes))
    else
      let v := fieldAt b (fmtBits (cdIn d)) e
      kset l e (match kfind l e with
        | some x => pickBits d x v
        | none => v)) own

/-- A region's record reaches the owner region: as Tallow blocks from another region (R47, R393), as it is in the owner itself. -/
def mergeRegs (d : List Byte) (own regs : List (Nat × Nat)) (base n : Nat) (moves : Bool) : List (Nat × Nat) :=
  let raw := regionBytes d regs base n
  let k := raw.length / 4096 + 2
  if moves then
    match tallowPayload raw.length (tallowBlocks 0 0 raw k) k with
    | some b => mergeRecord d own n b
    | none => own
  else mergeRecord d own n raw

/-- The elements that travel up from a node, from their places. -/
def upData (d : List Byte) (own : List (Nat × Nat)) (start n : Nat) : List Byte :=
  let es := natRange start n
  if cdSum d && !cdRounded d then es.flatMap fun e => leBytes (cdAcc d).bytes (kget own e 0)
  else if cdSum d then packFields (fmtBits (cdPartial d)) (es.map fun e => accEmit (cdAcc d) (kget own e 0) (cdPartial d))
  else packFields (fmtBits (cdIn d)) (es.map fun e => kget own e 0) ++
    (if isMx (cdIn d) then (natRange 0 (ceilDiv n 32)).map fun i => BitVec.ofNat 8 (kget own (scaleAt (start + 32 * i)) 0) else [])

/-- The result of a whole chunk at a root without an optimizer (R303, R383, R384): its elements, then the scale bytes of MX elements. -/
def resultData (d : List Byte) (own : List (Nat × Nat)) (n : Nat) : List Byte :=
  let rs := (natRange 0 n).map fun e => kget own e 0
  if cdSum d then packFields (fmtBits (cdOut d)) (rs.map fun r => accEmit (cdAcc d) r (cdOut d))
  else if cdPass d then
    packFields (fmtBits (cdOut d)) rs ++
      (if isMx (cdIn d) then (natRange 0 (ceilDiv n 32)).map fun i => BitVec.ofNat 8 (kget own (scaleAt (32 * i)) 0) else [])
  else
    let p := packVals (cdOut d) rne false (rs.map (elemVal (cdIn d)))
    p.1 ++ p.2

/-- A piece of a chunk's result of n elements. -/
def resultPiece (d res : List Byte) (len start n : Nat) : List Byte := pieceData (mxDown d) (fmtBits (cdOut d)) 0 len start n res

/-- A piece of the result laid in its place. -/
def putResult (d res : List Byte) (len start n : Nat) (data : List Byte) : List Byte :=
  let w := fmtBits (cdOut d)
  let all := res ++ List.replicate (dataBytes d true w len - res.length) 0
  let put := fun (l : List Byte) (at_ : Nat) (b : List Byte) => l.take at_ ++ b ++ l.drop (at_ + b.length)
  let all := put all (start * w / 8) (data.take (ceilDiv (n * w) 8))
  if mxDown d then put all (ceilDiv (len * w) 8 + start / 32) (data.drop (ceilDiv (n * w) 8)) else all

/-- An element of a round's result at a node, as far as it is known there. -/
def resultElem (d : List Byte) (n : CollNode) (rd e : Nat) : Nat :=
  let k := chunkOf n (chunkKey rd (e / cdChunk d))
  if k.known then fieldAt k.result (fmtBits (cdOut d)) (e % cdChunk d) else 0
/-- The whole bytes that hold elements lo to hi of a member's result, whose range is r: the first of them, and what they hold. Where an
element ends inside a byte, its neighbours in that byte come with it (R405; log entry 69). -/
def rangeBytes (d : List Byte) (n : CollNode) (rd : Nat) (r : Nat × Nat) (lo hi : Nat) : Nat × List Byte :=
  let w := fmtBits (cdOut d)
  let first := (lo - r.1) * w / 8
  let last := ceilDiv ((hi - r.1) * w) 8
  let e0 := r.1 + first * 8 / w
  let es := (natRange e0 (Nat.min r.2 (r.1 + ceilDiv (last * 8) w) - e0)).map (resultElem d n rd)
  let v := es.foldr (fun x acc => x % 2 ^ w + 2 ^ w * acc) 0
  (first, leBytes (last - first) (v / 2 ^ (first * 8 - (e0 - r.1) * w)))

/-! ## What a switch sends for a context (R404 to R408, R416) -/

/-- Give the packet just queued the context's gate group (R416). -/
def gateLast (s : State) (n0 g : Nat) : State :=
  { s with core := { s.core with voqs := s.core.voqs.map fun q => if n0 ≤ q.id then { q with group := g } else q } }

/-- The header fields of a context's own packets. -/
def collReq (x : CollCtx) : Req :=
  { lport := 1000, tc := 5, vc := BitVec.ofNat 3 (tcVc 5), partition := BitVec.ofNat 10 x.part, ast := 0, src := 0, dst := 0, tag := 0, length := 0,
    address := 0, seq := 0, flags := 2, payload := [] }

/-- A context's packet, numbered and noted but not queued: Tallow blocks where asked (R408, R439). -/
def collPkt (s : State) (x : CollCtx) (op : Op) (node address : Nat) (tallow : Bool) (d : Nat) (data : List Byte) (use : Req → FabUse) : State × Packet :=
  let body := if tallow then tallowBlocks d 0 data (data.length / 4096 + 2) else data
  let flags := if tallow then 10 else 2
  let q : Req := { collReq x with dst := BitVec.ofNat 15 node, length := BitVec.ofNat 24 data.length, address := BitVec.ofNat 64 address,
                                  flags := BitVec.ofNat 16 flags, payload := body }
  enginePkt s op q node data.length address flags body (use q)

/-- Addresses of the optimizer's arrays for a chunk: W, M and V (R432). -/
def optArrays (d : List Byte) (c : Nat) : List Nat :=
  (if cdOpt d = 2 then [0x30, 0x38, 0x40] else [0x30, 0x38]).map fun o => leField d o 8 + 4 * c * cdChunk d

/-- The region that owns the W frame of a chunk (R435). -/
def chunkOwner (s : State) (x : CollCtx) (c : Nat) : Option Nat :=
  let a := (optArrays x.desc c).headD 0
  match lookPages s x.part (cdAst x.desc) false a 4 with
  | .inl ps => (poolAt ps (cdAst x.desc) a).bind (ownerRegion s)
  | .inr _ => none

/-- The owner region of a chunk at a node (R392, R435): owner region number c mod OWNER_SPAN, at an optimizer's root that of the chunk's
W frame. -/
def ownerOf (s : State) (x : CollCtx) (n : CollNode) (c : Nat) : Nat :=
  let r := n.owners.getD (c % Nat.max 1 n.owners.length) 0
  if cdOpt x.desc ≠ 0 ∧ trRoot x.tree n.ix = true then (chunkOwner s x c).getD r else r

/-- The scheduler port from which a node sends what concerns a chunk: its owner region's (R45). -/
def chunkPort (s : State) (x : CollCtx) (nk c : Nat) : Nat :=
  match cnodeOf s nk with
  | some n => computePort (ownerOf s x n c)
  | none => wickPort

/-- The context of a handle in ADDRESS, where it is current (R390). -/
def handleCtx (s : State) (a : Nat) : Option (Nat × CollCtx) :=
  let h := nodeHandle a
  let ck := ctxKey h.2.1 h.1
  match ctxOf s ck with
  | some x => if x.part = h.2.2.1 ∧ x.gen = h.2.2.2 ∧ a < 2 ^ 48 then some (ck, x) else none
  | none => none

/-- The logical nodes here to which a COLL_PARTIAL goes: the sender's parent, or its children. -/
def partialTo (s : State) (ck : Nat) (x : CollCtx) (b : List Byte) : List Nat :=
  let from_ := leField b 8 2 % 1024
  if (leField b 8 2).testBit 10 then ((nodesHere s ck).filter fun e => !trRoot x.tree e.2.ix && trParent x.tree e.2.ix = from_).map (·.1)
  else if trRoot x.tree from_ then [] else ((cnodeOf s (nodeKey ck (trParent x.tree from_))).map fun _ => nodeKey ck (trParent x.tree from_)).toList

/-- The owner regions of the chunk that a COLL_PARTIAL names, where it goes (R394). -/
def partialRegions (s : State) (ck : Nat) (x : CollCtx) (b : List Byte) : List Nat :=
  (partialTo s ck x b).filterMap fun k => (cnodeOf s k).map fun n => ownerOf s x n (leField b 4 4)

/-- A COLL_PARTIAL to a logical node of this switch crosses to the owner region of its chunk (R394). -/
def sendSelf (s : State) (port : Nat) (pkt : Packet) : State :=
  match pkt with
  | .req op p =>
    let b := (plainPayload p).getD []
    let r := (((handleCtx s p.address.toNat).map fun e => partialRegions s e.1 e.2 b).getD []).headD 0
    let id := s.nextId
    modPkt (pushVoq s port (internal port) (internal (computePort r)) false pkt []) id fun q =>
      { q with work := some (.remote, op, { p with payload := b, flags := p.flags &&& 0xFFF7 }) }
  | .resp _ => s

/-- Send a context's packet from a scheduler port. -/
def collSend (s : State) (port : Nat) (x : CollCtx) (op : Op) (node address : Nat) (tallow : Bool) (d : Nat) (data : List Byte) (use : Req → FabUse) : State :=
  let y := collPkt s x op node address tallow d data use
  if op = .collPartial ∧ node = selfNode s then sendSelf y.1 port y.2
  else gateLast (sendPkt y.1 port (internal port) false y.2) s.nextId (cdGate x.desc)

/-- The first packet for each egress. -/
def firstEach : List (Nat × Packet) → List (Nat × Packet)
  | [] => []
  | e :: l => e :: (firstEach l).filter fun f => f.1 ≠ e.1

/-- Packets that differ only in what each egress writes leave as one multicast packet for each egress at most, and what is left over as
the next one (R46, R676, R677). -/
def pushCopies (port : Nat) : Nat → State → List (Nat × Packet) → State
  | 0, s, _ => s
  | fuel + 1, s, l =>
    match firstEach l with
    | [] => s
    | e :: es =>
      let id := s.nextId
      let s := modPkt (pushVoq s port (internal port) e.1 false e.2 (es.map (·.1))) id fun q => { q with copies := e :: es }
      pushCopies port fuel s ((e :: es).foldl (fun l x => l.erase x) l)

/-- Send one result to several nodes from a scheduler port: multicast where the routes are not escape hops (R676). -/
def sendCopies (s : State) (port g : Nat) (pkts : List Packet) : State :=
  let n0 := s.nextId
  let r := pkts.foldl (fun (a : State × List (Nat × Packet)) pkt =>
    if pkt.dstOf = selfNode s then (sendSelf a.1 port pkt, a.2)
    else match routeOf a.1 (internal port) pkt.dstOf false with
    | .dest e false hop => (markHop a.1 pkt.dstOf hop, a.2 ++ [(e, pkt)])
    | _ => (sendPkt a.1 port (internal port) false pkt, a.2)) (s, [])
  gateLast (pushCopies port r.2.length r.1 r.2) n0 g

/-- Send a packet of a context again as it was (R404). -/
def collAgain (s : State) (port : Nat) (op : Op) (q : Req) (g : Nat) (use : FabUse) : State × Nat :=
  let tag := s.ing.ownTag
  let n0 := s.nextId
  (gateLast (engineSend s port op q q.dst.toNat q.length.toNat q.address.toNat q.flags.toNat q.payload use) n0 g, tag)

/-- The header of a COLL_PARTIAL (R404). -/
def partialHeader (x : CollCtx) (key ix : Nat) (down : Bool) (start n : Nat) (joined : Bool) : List Byte :=
  leBytes 4 (key / 2 ^ 32) ++ leBytes 4 (key % 2 ^ 32) ++ leBytes 2 (ix + (if down then 1024 else 0)) ++ leBytes 2 x.rehostGen ++
    leBytes 4 start ++ leBytes 4 n ++ leBytes 4 (if joined then 1 else 0) ++ leBytes 8 0

/-- Send a chunk's partial, or its last piece of a passed kind, to the parent. -/
def sendUp (s : State) (x : CollCtx) (nk key ix start n : Nat) (data : List Byte) : State :=
  collSend s (chunkPort s x nk (key % 2 ^ 32)) x .collPartial (hostOf x (trParent x.tree ix)) (handleOf x) true 32
    (partialHeader x key ix false start n false ++ data) (.up nk key)

/-- Report joins up the tree, or down it, to a host (R404, R407). -/
def sendJoins (s : State) (x : CollCtx) (nk round ix host : Nat) (down : Bool) : State :=
  collSend s (chunkPort s x nk 0) x .collPartial host (handleOf x) true 32 (partialHeader x (chunkKey round 0) ix down 0 0 true)
    (.up nk (chunkKey round 0))

/-- Hosts of a node's children, each once. -/
def childHosts (x : CollCtx) (ix : Nat) : List Nat := ((childrenOf x.desc x.tree ix).map (hostOf x)).eraseDups

/-- The member's leaf of tree 0 writes it a notice (R406). Every notice goes out there, so that one count numbers them (log entry 68): DONE of each
finished round, and one for each RESUME. -/
def notice (s : State) (ck m t type round chunk via nonfinite : Nat) : State :=
  match ctxOf s ck with
  | none => s
  | some x =>
    let nk := nodeKey ck (leafIx x m 0)
    let n := ((cnodeOf s nk).map (·.round)).getD 0 + x.resumes
    let b := leBytes 1 type ++ leBytes 1 x.rehostGen ++ leBytes 2 (if type = 2 then t else 0) ++ leBytes 4 (round % 2 ^ 32) ++ leBytes 4 chunk ++
      leBytes 4 via ++ leBytes 8 nonfinite ++ leBytes 8 n ++ leBytes 32 0
    collSend s (chunkPort s x nk 0) x .collDeliver (viaNode x m 0) (memNotice x.members m + 64 * (n % 16)) false 0 b fun _ => .notice ck

/-! ## What hosts tell each other of a round (R402, R406, R407; log entry 179) -/

/-- Parameters of a message about re-hosting or a round: stage, generation, logical node, host or member, coordinator, chunk or round, a
number. -/
def noteArgs (stage gen ix host lead rc num : Nat) : List Byte :=
  leBytes 1 stage ++ leBytes 1 gen ++ leBytes 2 ix ++ leBytes 2 host ++ leBytes 2 lead ++ leBytes 4 rc ++ leBytes 8 num ++ leBytes 4 0

/-- Take what a host tells of a round: a member joined at its leaf of another tree (3), a leaf of another tree has delivered its shard (4), a
root counts its sums that were not finite (5). -/
def collTold (s : State) (ck stage ix m rd num : Nat) : State :=
  match ctxOf s ck with
  | none => s
  | some x =>
    match stage with
    | 3 => modNode s (nodeKey ck (leafIx x m 0)) fun n =>
        if n.joined.contains (rd, m) || decide (1 < roundOff n rd) then n else { n with joined := n.joined ++ [(rd, m)] }
    | 4 => modCtx s ck fun x => { x with away := if x.away.contains (rd, ix) then x.away else x.away ++ [(rd, ix)] }
    | _ => modCtx s ck fun x => { x with nonfinite := kset x.nonfinite (rd * 16 + ix) num }

/-- Tell a host of a round. -/
def tellHost (s : State) (ck : Nat) (x : CollCtx) (host stage ix m rd num : Nat) : State :=
  if host = selfNode s then collTold s ck stage ix m rd num
  else
    let (s, id) := newRelay s { group := 0x0E, verb := 5, part := x.part, dest := .nobody, obj := ck, stage := 2 }
    relaySend s id 4 0x0E 5 x.part 0 (leBytes 8 (handleOf x) ++ noteArgs stage 0 ix m 0 rd num) [] [host]

/-- Hosts of the leaves of tree 0. -/
def leafHosts (x : CollCtx) : List Nat :=
  (((treeNodes x.desc x.tree 0).filter fun i => !(leafMembers x i).isEmpty).map (hostOf x)).eraseDups

/-! ## Rounds (R401, R402, R407) -/

/-- Every member below a node of tree 0 has joined a round. -/
def belowJoined (x : CollCtx) (n : CollNode) (rd : Nat) : Bool :=
  (leafMembers x n.ix).all (fun m => n.joined.contains (rd, m)) && (childrenOf x.desc x.tree n.ix).all fun i => n.kidsJoined.contains (rd, i)

/-- All members have joined a round: a node of tree 0 learns it, and passes it down. -/
def takeJoined (s : State) (x : CollCtx) (nk rd : Nat) : State :=
  match cnodeOf s nk with
  | none => s
  | some n =>
    if n.allJoined.contains rd then s
    else (childHosts x n.ix).foldl (fun s h => sendJoins s x nk rd n.ix h true) (modNode s nk fun n => { n with allJoined := n.allJoined ++ [rd] })

/-- Pass the joins of a round on: up from a node whose members have all joined, down from the root (R404, R407). -/
def goJoins (s : State) (ck : Nat) : State :=
  match ctxOf s ck with
  | none => s
  | some x => (nodesIn s ck x 0).foldl (fun s e =>
      [e.2.round % 2 ^ 32, (e.2.round + 1) % 2 ^ 32].foldl (fun s rd =>
        match cnodeOf s e.1 with
        | none => s
        | some n =>
          if n.fresh || n.joinSent.contains rd || !belowJoined x n rd then s
          else
            let s := modNode s e.1 fun n => { n with joinSent := n.joinSent ++ [rd] }
            if trRoot x.tree n.ix then takeJoined s x e.1 rd
            else sendJoins s x e.1 rd n.ix (hostOf x (trParent x.tree n.ix)) false) s) s

/-- Chunks of a node's shard. -/
def shardChunks (x : CollCtx) (n : CollNode) : List Nat :=
  let t := trTree x.tree n.ix
  natRange (shardFirst x.desc t) (shardEnd x.desc t - shardFirst x.desc t)
/-- Every chunk of a node's shard has been delivered in its current round. -/
def shardDone (x : CollCtx) (n : CollNode) : Bool := !n.fresh && (shardChunks x n).all fun c => (chunkOf n (chunkKey n.round c)).delivered
/-- Elements of a root's shard whose sum was not finite in its current round (R437). -/
def shardBad (x : CollCtx) (n : CollNode) : Nat := ((shardChunks x n).map fun c => (chunkOf n (chunkKey n.round c)).bad).foldl (· + ·) 0
/-- The lowest chunk of the current round that is not closed (R417). -/
def lowestOpen (x : CollCtx) (n : CollNode) : Option Nat := ((shardChunks x n).map (chunkKey n.round)).find? fun k => !(chunkOf n k).closed

/-- Change a node; where another chunk is its lowest open one afterwards, the time without input begins (R417). -/
def modOpen (s : State) (x : CollCtx) (nk : Nat) (f : CollNode → CollNode) : State :=
  modNode s nk fun n =>
    let m := f n
    if lowestOpen x m = lowestOpen x n then m else { m with lastInput := s.clk, stallTold := false }
/-- Change a chunk, the same way. -/
def modOpenChunk (s : State) (x : CollCtx) (nk key : Nat) (f : ChunkSt → ChunkSt) : State :=
  modOpen s x nk fun n => { n with chunks := kset n.chunks key (f (chunkOf n key)) }

/-- A node goes on to its next round. -/
def nextRound (s : State) (x : CollCtx) (nk : Nat) : State :=
  modNode s nk fun n =>
    let rd := n.round % 2 ^ 32
    let n := { n with lag := roundLag s n.lag, lastBad := shardBad x n }
    { n with round := n.round + 1, chunks := n.chunks.filter (fun e => e.1 / 2 ^ 32 ≠ rd), joined := n.joined.filter (fun e => e.1 ≠ rd),
             kidsJoined := n.kidsJoined.filter (fun e => e.1 ≠ rd), joinSent := n.joinSent.filter (· ≠ rd), allJoined := n.allJoined.filter (· ≠ rd),
             spill := n.spill.filter (fun e => e.key / 2 ^ 32 ≠ rd), stallTold := false, lastInput := s.clk }

/-- The leaf of a tree that holds the same members as a leaf of tree 0 has delivered its shard of that one's round. -/
def siblingDone (s : State) (ck : Nat) (x : CollCtx) (n : CollNode) (t : Nat) : Bool :=
  let ix := sibling x n.ix t
  match cnodeOf s (nodeKey ck ix) with
  | some m => !m.fresh && (decide (n.round < m.round) || (m.round = n.round && shardDone x m))
  | none => x.away.contains (n.round % 2 ^ 32, ix)
/-- A node of tree 0 has finished its round: all joined, its shard and its members' shards of other trees delivered, the counts of DONE
known (R406, R407). -/
def leafDone (s : State) (ck : Nat) (x : CollCtx) (n : CollNode) : Bool :=
  let rd := n.round % 2 ^ 32
  let others := (natRange 1 (cdTrees x.desc - 1)).filter (carries x)
  !x.forced && n.allJoined.contains rd && shardDone x n &&
  ((leafMembers x n.ix).isEmpty || (others.all (siblingDone s ck x n) &&
    (cdOpt x.desc = 0 || ((natRange 0 (cdTrees x.desc)).filter (carries x)).all fun t => (kfind x.nonfinite (rd * 16 + t)).isSome)))
/-- A round's elements whose sums were not finite, in all. -/
def roundBad (x : CollCtx) (rd : Nat) : Nat := ((natRange 0 (cdTrees x.desc)).map fun t => kget x.nonfinite (rd * 16 + t) 0).foldl (· + ·) 0

/-- A node of another tree finishes its rounds with the leaf of tree 0 that holds the same members, where that is here. -/
def besideLeaf (s : State) (ck : Nat) (x : CollCtx) (n : CollNode) : Bool :=
  !(leafMembers x n.ix).isEmpty && match cnodeOf s (nodeKey ck (sibling x n.ix 0)) with
    | some m => decide (m.round ≤ n.round)
    | none => false

/-- Finish rounds where everything of them is done: a leaf of tree 0 writes DONE to its members (R407); a leaf of another tree that is not beside
it tells it. -/
def goRounds (s : State) (ck : Nat) : State :=
  match ctxOf s ck with
  | none => s
  | some x =>
    let s := (nodesIn s ck x 0).foldl (fun s e =>
      match cnodeOf s e.1, ctxOf s ck with
      | some n, some x =>
        let rd := n.round % 2 ^ 32
        if !leafDone s ck x n then s
        else
          let s := (leafMembers x n.ix).foldl (fun s m => notice s ck m 0 1 rd 0 0 (roundBad x rd)) s
          let with_ := (nodesHere s ck).filter fun f => f.1 = e.1 ||
            (!(leafMembers x n.ix).isEmpty && f.2.ix = sibling x n.ix (trTree x.tree f.2.ix) && f.2.round = n.round && shardDone x f.2)
          let s := with_.foldl (fun s f => nextRound s x f.1) s
          modCtx s ck fun x =>
            { x with away := x.away.filter fun a => decide ((rd + 2 ^ 32 - a.1) % 2 ^ 32 ≤ 1 ∨ 2 ^ 31 ≤ (rd + 2 ^ 32 - a.1) % 2 ^ 32)
                     nonfinite := x.nonfinite.filter fun a =>
                       decide ((rd + 2 ^ 32 - a.1 / 16) % 2 ^ 32 ≤ 1 ∨ 2 ^ 31 ≤ (rd + 2 ^ 32 - a.1 / 16) % 2 ^ 32) }
      | _, _ => s) s
    (nodesHere s ck).foldl (fun s e =>
      match cnodeOf s e.1 with
      | some n =>
        let t := trTree x.tree n.ix
        if t = 0 ∨ x.forced = true ∨ carries x t = false ∨ shardDone x n = false ∨ besideLeaf s ck x n = true then s
        else
          let s := nextRound s x e.1
          if (leafMembers x n.ix).isEmpty then s else tellHost s ck x (hostOf x (sibling x n.ix 0)) 4 n.ix 0 (n.round % 2 ^ 32) 0
      | none => s) s

/-! ## Delivery (R396, R405) -/

/-- A chunk's delivery is complete: the parent is answered, once every child of it here has delivered; a root that has delivered its shard tells
its count (R406). -/
def delivered (s : State) (nk key : Nat) : State :=
  match cnodeOf s nk with
  | none => s
  | some n =>
    let c := chunkOf n key
    if !c.known || !c.out.isEmpty || c.delivered then s
    else
      let s := modChunk s nk key fun c => { c with delivered := true, owe := [] }
      let s := c.owe.foldl (fun s p =>
        if (nodesHere s n.ctx).any fun e => (chunkOf e.2 key).owe.contains p then s else answer s .collPartial p stOk 0) s
      match ctxOf s n.ctx, cnodeOf s nk with
      | some x, some n =>
        if cdOpt x.desc = 0 ∨ trRoot x.tree n.ix = false ∨ shardDone x n = false then s
        else (leafHosts x).foldl (fun s h => tellHost s n.ctx x h 5 (trTree x.tree n.ix) 0 (n.round % 2 ^ 32) (shardBad x n)) s
      | _, _ => s

/-- Deliver a chunk's result to the members that receive it here, and send it down to the child nodes. -/
def startDelivery (s : State) (nk key : Nat) : State :=
  match cnodeOf s nk with
  | none => s
  | some n =>
    match ctxOf s n.ctx with
    | none => s
    | some x =>
      if x.forced then s
      else
        let d := x.desc
        let rd := key / 2 ^ 32
        let c := key % 2 ^ 32
        let len := chunkLen d c
        let base := c * cdChunk d
        let res := (chunkOf n key).result
        let t := trTree x.tree n.ix
        let w := fmtBits (cdOut d)
        let port := chunkPort s x nk c
        -- one packet of the delivery: noted by its tag
        let noted := fun (a : State × List Packet) (op : Op) (node address : Nat) (tall : Bool) (at0 : Nat) (data : List Byte) =>
          let tag := a.1.ing.ownTag
          let y := collPkt a.1 x op node address tall at0 data (.down nk key)
          (modChunk y.1 nk key fun c => { c with out := c.out ++ [tag] }, a.2 ++ [y.2])
        -- elements of a member's range, at their node offsets (R405)
        let elems := fun (a : State × List Packet) (m start cnt : Nat) =>
          let b := rangeBytes d n rd (receives d m) (base + start) (base + start + cnt)
          noted a .collDeliver (viaNode x m t) (memResult x.members m + b.1) (memTallow x.members m) 0 b.2
        -- the scale bytes of MX elements follow all elements of the member's range
        let scales := fun (a : State × List Packet) (m start cnt : Nat) =>
          let r := receives d m
          noted a .collDeliver (viaNode x m t) (memResult x.members m + fmtBytes (cdOut d) (r.2 - r.1) + ((base + start) / 32 - r.1 / 32))
            (memTallow x.members m) 0 (sliceBytes res (ceilDiv (len * w) 8 + start / 32) (ceilDiv (start + cnt) 32 - start / 32))
        let send := fun (a : State × List Packet) => sendCopies a.1 port (cdGate d) a.2
        let here := (leafMembers x n.ix).map fun m => (m, within d c (receives d m))
        -- whether a member gets the whole chunk as it is: its elements begin on a byte
        let same := fun (e : Nat × Nat × Nat) => e.2 = (0, len) && (base - (receives d e.1).1) * w % 8 = 0
        let whole := (here.filter same).map (·.1)
        let mx := mxDown d
        -- what every receiver gets alike leaves once, for members and child nodes together (R46, R396, R676)
        let s := (pieceCuts (pieceElems w) len).foldl (fun s p =>
          let a := whole.foldl (fun a m => elems a m p.1 p.2) (s, [])
          send ((childHosts x n.ix).foldl (fun a h => noted a .collPartial h (handleOf x) true 32
            (partialHeader x key n.ix true p.1 p.2 false ++ resultPiece d res len p.1 p.2)) a)) s
        let s := if mx then send (whole.foldl (fun a m => scales a m 0 len) (s, [])) else s
        -- a part of the chunk goes to its one receiver
        let s := (here.filter fun e => !same e).foldl (fun s e =>
          let r := e.2
          let s := (pieceCuts (pieceElems w) (r.2 - r.1)).foldl (fun s p => send (elems (s, []) e.1 (r.1 + p.1) p.2)) s
          if mx && decide (r.1 < r.2) then send (scales (s, []) e.1 r.1 (r.2 - r.1)) else s) s
        delivered s nk key

/-- A result is known at a node. -/
def haveResult (s : State) (x : CollCtx) (nk key : Nat) (res : List Byte) : State :=
  startDelivery (modOpenChunk s x nk key fun c => { c with result := res, known := true, closed := true, regs := [], own := [] }) nk key

/-! ## Chunks (R393, R395) -/

/-- Places of a chunk that pieces cover. -/
def covers (ps : List (Nat × Nat × Nat)) (m : Nat) (r : Nat × Nat) : Bool :=
  decide (((ps.filter fun p => p.1 = m && decide (r.1 ≤ p.2.1)).map (·.2.2)).foldl (· + ·) 0 = r.2 - r.1)

/-- An arrival region's members have supplied every element, and none of it waits in spill. -/
def regionFull (s : State) (x : CollCtx) (n : CollNode) (key r : Nat) : Bool :=
  let c := key % 2 ^ 32
  let t := trTree x.tree n.ix
  let ck := chunkOf n key
  ((contributors x n.ix c).filter fun m => memberRegion s x m t = r).all (fun m => covers ck.got m (within x.desc c (contributes x.desc m))) &&
  !n.spill.any fun e => e.key = key && e.op = .collContrib && memberRegion s x (leField e.p.payload 8 2) t = r

/-- Elements of a chunk that an owner's record holds. -/
def heldElems (c : ChunkSt) : Nat := (c.own.filter fun e => decide (e.1 < 2 ^ 18)).length

/-- Every input of a chunk has reached the owner. A root of a passed kind has it once every element is there. -/
def ownerFull (s : State) (x : CollCtx) (n : CollNode) (key : Nat) : Bool :=
  let c := key % 2 ^ 32
  let ck := chunkOf n key
  let len := chunkLen x.desc c
  if cdPass x.desc then trRoot x.tree n.ix && heldElems ck = len
  else (arrivalRegs s x n.ix c).all ck.leftRegs.contains && (childrenOf x.desc x.tree n.ix).all (fun i => covers ck.kids i (0, len)) &&
    !n.spill.any fun e => e.key = key

/-- The parameters of a round (R438): LR, WD, BETA1, BETA2, EPS, GRAD_SCALE. -/
def optParams (x : CollCtx) (rd : Nat) : List Nat :=
  ((x.opts.filter fun e => decide (e.1 ≤ rd)).getLast?.map (·.2)).getD ((natRange 0 6).map fun i => leField x.desc (0x48 + 4 * i) 4)
def f32 (w : Nat) : Val := fp32.decode w
def f32Bits (v : Val) : Nat := fp32.encode rne false v

/-- A round begins at an optimizer's root (R436). -/
def beginRound (x : CollCtx) (n : CollNode) : CollNode :=
  let ps := optParams x n.begun
  let step := fun (b k : Nat) => f32Bits ((f32 b).mul (f32 (ps.getD k 0)))
  { n with b1p := step n.b1p 2, b2p := step n.b2p 3, begun := n.begun + 1 }

/-- One element's update (R436): the new W, M, V. -/
def optElem (x : CollCtx) (n : CollNode) (rd : Nat) (sum w m v : Val) : Val × Val × Val :=
  let p := fun k => f32 ((optParams x rd).getD k 0)
  let lr := p 0
  let wd := p 1
  let beta1 := p 2
  let beta2 := p 3
  let one := Val.ofNat 1
  let g := rnd32 (sum.mul (p 5))
  if cdOpt x.desc = 2 then
    let c1 := rcpF (rnd32 (one.sub (f32 n.b1p)))
    let c2 := rcpF (rnd32 (one.sub (f32 n.b2p)))
    let k1 := rnd32 (one.sub beta1)
    let k2 := rnd32 (one.sub beta2)
    let lrwd := rnd32 (lr.mul wd)
    let m := rnd32 ((beta1.mul m).add (k1.mul g))
    let v := rnd32 ((beta2.mul v).add ((k2.mul g).mul g))
    let mh := rnd32 (m.mul c1)
    let vh := rnd32 (v.mul c2)
    let u := rnd32 (mh.mul (rcpF (rnd32 ((sqrtF vh).add (p 4)))))
    (rnd32 ((w.sub (lr.mul u)).sub (lrwd.mul w)), m, v)
  else
    let m := rnd32 (((beta1.mul m).add g).add (wd.mul w))
    (rnd32 (w.sub (lr.mul m)), m, v)

/-- The owner region's step for a complete chunk (R395, R408, R436). -/
def chunkStep (s : State) (j : Job) (nk key : Nat) : JobStep :=
  match (cnodeOf s nk).bind fun n => (ctxOf s n.ctx).map fun x => (n, x) with
  | none => .done {}
  | some (n, x) =>
    let d := x.desc
    let c := key % 2 ^ 32
    let len := chunkLen d c
    let own := (chunkOf n key).own
    if !trRoot x.tree n.ix then .done {}
    else if cdOpt d = 0 then .done { data := some (resultData d own len) }
    else
      let as := optArrays d c
      let ranges := fun (a : Nat) => vaPool j.pages (cdAst d) a (4 * len)
      withRanges j (as.flatMap ranges) fun _ =>
        let arr := as.map fun a => cachedRanges j (ranges a)
        let at_ := fun (k e : Nat) => f32 (leField (arr.getD k []) (4 * e) 4)
        if (chunkOf n key).updated then
          .done { data := some (packFields (fmtBits (cdOut d)) ((natRange 0 len).map fun e => elemBits (cdOut d) rne false (at_ 0 e))) }
        else
          let new := (natRange 0 len).map fun e => optElem x n (fullRound n (key / 2 ^ 32)) (accVal (cdAcc d) (kget own e 0)) (at_ 0 e) (at_ 1 e) (at_ 2 e)
          let put := fun (k : Nat) (f : Val × Val × Val → Val) =>
            match as[k]? with
            | none => []
            | some a =>
              let b := new.flatMap fun v => leBytes 4 (f32Bits (f v))
              ((ranges a).foldl (fun (acc : List (Nat × List Byte) × Nat) q => (acc.1 ++ [(q.1, sliceBytes b acc.2 q.2)], acc.2 + q.2)) ([], 0)).1
          .done { data := some (packFields (fmtBits (cdOut d)) (new.map fun v => elemBits (cdOut d) rne false v.1))
                  writes := put 0 (·.1) ++ put 1 (·.2.1) ++ put 2 (·.2.2)
                  result := ((natRange 0 len).filter fun e => !accClean (cdAcc d) (kget own e 0)).length }

/-- The library instance under which a context's steps run (R412). -/
def collInst (s : State) (x : CollCtx) : Option Nat := libInst s x.part (if cdOpt x.desc = 0 then 1 else 2)

/-- The block of the instance that runs a chunk's step: one of the chunk's owner region, or none where the instance has none there: the context's
own scratch holds the work (R392, R412, R435; log entry 180). -/
def ownerBlock (s : State) (x : CollCtx) (nk key i : Nat) : Option Nat :=
  (cnodeOf s nk).bind fun n =>
    let r := ownerOf s x n (key % 2 ^ 32)
    (someBlock s i [r]).filter fun b => b / 16 = r

/-- Queue the owner's step for a chunk. -/
def queueChunk (s : State) (x : CollCtx) (nk key : Nat) : State :=
  let i := collInst s x
  let pages := if cdOpt x.desc = 0 then [] else
    match lookAll s x.part ((optArrays x.desc (key % 2 ^ 32)).map fun a => (cdAst x.desc, true, a, 4 * chunkLen x.desc (key % 2 ^ 32))) with
    | .inl ps => ps
    | .inr _ => []
  (putJob (bumpFree s) { kind := .chunk nk (key / 2 ^ 32) (key % 2 ^ 32), dest := .nobody, op := .collPartial,
                         p := { collReq x with ast := BitVec.ofNat 12 (cdAst x.desc) }, inst := i, block := i.bind fun i => ownerBlock s x nk key i, pages := pages }).1

/-- The owner's step for a chunk is queued or runs. -/
def chunkBusy (s : State) (nk key : Nat) : Bool := s.fab.jobs.any fun e => match e.2.kind with
  | .chunk n r c => n = nk && chunkKey r c = key
  | _ => false

/-- Take what a piece brings, now that its chunk holds a slot: at an arrival region, or at the owner. -/
def takePiece (s : State) (x : CollCtx) (nk key : Nat) (op : Op) (p : Req) (parts : List (Nat × Nat)) : State :=
  match cnodeOf s nk with
  | none => s
  | some n =>
    let d := x.desc
    let t := trTree x.tree n.ix
    let b := p.payload
    let w := if op = .collContrib then fmtBits (cdIn d) else upBits d
    let mx := isMx (cdIn d) && (op = .collContrib || cdPass d)
    let dataOf := fun (e : Nat × Nat) => pieceData mx w (leField b 0xC 4) (leField b 0x10 4) e.1 e.2 (b.drop 32)
    -- the pieces one by one into a record: what overflowed and was rounded with it
    let addAll := fun (m : List (Nat × Nat)) (f : List (Nat × Nat) → Nat × Nat → List (Nat × Nat) × Nat × Nat) =>
      parts.foldl (fun (a : List (Nat × Nat) × Nat × Nat) e =>
        let r := f a.1 e
        (r.1, a.2.1 + r.2.1, a.2.2 + r.2.2)) (m, 0, 0)
    let done := fun (s : State) (excess rounded : Nat) => match collInst s x with
      | some i => bumpBy (bumpBy s (.prog i 1) 48 excess) (.prog i 2) 48 rounded
      | none => s
    if op = .collContrib ∧ cdPass d = false then
      let r := addAll (chunkOf n key).regs fun m e => addData d m (memberRegion s x (leField b 8 2) t * 2 ^ 20) e.1 e.2 (dataOf e)
      done (modChunk s nk key fun c => { c with regs := r.1 }) r.2.1 r.2.2
    else
      let r := addAll (chunkOf n key).own fun m e =>
        if op = .collContrib then addData d m 0 e.1 e.2 (dataOf e) else addPartial d m e.1 e.2 (dataOf e)
      let s := done (modChunk s nk key fun c => { c with own := r.1 }) r.2.1 r.2.2
      if !cdPass d || trRoot x.tree n.ix then s
      else
        -- what is only passed on goes on at once; the owner's record has left when all of it has been sent up (R413)
        let s := (joinPieces parts).foldl (fun s e => sendUp s x nk key n.ix e.1 e.2 (dataOf e)) s
        modOpenChunk s x nk key fun c => if heldElems c = (passUp x n.ix (key % 2 ^ 32)).length then { c with own := [], closed := true } else c

/-- The piece may be taken: its chunk holds a slot where it arrives (R414, R415). -/
def pieceSlot (s : State) (x : CollCtx) (n : CollNode) (key : Nat) (op : Op) (p : Req) : Bool :=
  let t := trTree x.tree n.ix
  if op = .collContrib && !cdPass x.desc then regSlot s x n (key / 2 ^ 32) (key % 2 ^ 32) (memberRegion s x (leField p.payload 8 2) t)
  else ownSlot x n (key / 2 ^ 32) (key % 2 ^ 32)

/-- An optimizer's root may begin a round: none may while a change of parameters is being agreed (R438). -/
def rootMayBegin (x : CollCtx) (n : CollNode) (rd : Nat) : Bool :=
  decide (fullRound n rd < n.begun) || (match x.hold with
    | some h => decide (rd < h)
    | none => true)

/-- A chunk goes on as far as it can at a node: spilled inputs first, then regions' records, then the owner's step. -/
def goChunk (s : State) (x : CollCtx) (nk key : Nat) : State :=
  match cnodeOf s nk with
  | none => s
  | some n =>
    let ready := n.spill.filter fun e => e.key = key && pieceSlot s x n key e.op e.p
    let s := modNode s nk fun n => { n with spill := n.spill.filter fun e => !ready.contains e }
    let s := ready.foldl (fun s e => takePiece s x nk key e.op e.p e.parts) s
    let s := (arrivalRegs s x n.ix (key % 2 ^ 32)).foldl (fun s r =>
      match cnodeOf s nk with
      | none => s
      | some n =>
        let ck := chunkOf n key
        if ck.leftRegs.contains r || !regionFull s x n key r || !ownSlot x n (key / 2 ^ 32) (key % 2 ^ 32) then s
        else modChunk s nk key fun c =>
          { c with own := mergeRegs x.desc c.own c.regs (r * 2 ^ 20) (chunkLen x.desc (key % 2 ^ 32)) (r ≠ ownerOf s x n (key % 2 ^ 32)), leftRegs := c.leftRegs ++ [r] }) s
    match cnodeOf s nk with
    | none => s
    | some n =>
      let root := trRoot x.tree n.ix
      if (chunkOf n key).closed || chunkBusy s nk key || !ownSlot x n (key / 2 ^ 32) (key % 2 ^ 32) || !ownerFull s x n key then s
      else if cdOpt x.desc ≠ 0 ∧ root = true then
        if !rootMayBegin x n (key / 2 ^ 32) then s
        else queueChunk (modNode s nk fun n =>
          if fullRound n (key / 2 ^ 32) < n.begun then n else { beginRound x n with startedAt := s.clk }) x nk key
      else queueChunk s x nk key

/-- Chunks that a node has heard of, in order; a node without inputs has every chunk of its shard. -/
def chunkKeys (x : CollCtx) (n : CollNode) : List Nat :=
  let lonely := (leafMembers x n.ix).isEmpty && (childrenOf x.desc x.tree n.ix).isEmpty && !cdPass x.desc && !trRoot x.tree n.ix
  let all := if lonely then (shardChunks x n).map (chunkKey n.round) else n.chunks.map (·.1)
  all.filter (fun k => k / 2 ^ 32 = n.round % 2 ^ 32) ++ all.filter fun k => k / 2 ^ 32 ≠ n.round % 2 ^ 32

/-- A context's nodes here go on as far as they can. -/
def collGo (s : State) (ck : Nat) : State :=
  let s := goRounds (goJoins s ck) ck
  match ctxOf s ck with
  | none => s
  | some x => (nodesHere s ck).foldl (fun s e =>
      match cnodeOf s e.1 with
      | none => s
      | some n => if n.fresh then s else (chunkKeys x n).foldl (fun s k => goChunk s x e.1 k) s) s

/-- An optimizer's root notes how long a chunk's region took for it (R571). -/
def chunkTook (s : State) (x : CollCtx) (nk c : Nat) : State :=
  if cdOpt x.desc = 0 then s
  else match chunkOwner s x c with
    | some r => modNode s nk fun n => { n with lag := { n.lag with took := kset n.lag.took r (s.clk - n.startedAt) } }
    | none => s

/-- The owner's step for a chunk commits (R395): its writes first (R437), then the partial or the result leaves. -/
def commitChunk (s : State) (id nk key : Nat) (o : JobOut) : State :=
  match cnodeOf s nk with
  | none => s
  | some n =>
    match ctxOf s n.ctx with
    | none => s
    | some x =>
      let root := trRoot x.tree n.ix
      let s := if root then chunkTook s x nk (key % 2 ^ 32) else s
      let s := modOpenChunk s x nk key fun c =>
        { c with closed := true, result := o.data.getD [], bad := if c.updated then c.bad else o.result, updated := c.updated || (root && cdOpt x.desc ≠ 0) }
      issueWrites s id o.writes

/-- The writes of a chunk's commit are done: its partial or its result leaves, unless a RESUME has discarded the chunk meanwhile (R425, R428). -/
def chunkDone (s : State) (nk key : Nat) : State :=
  match cnodeOf s nk with
  | none => s
  | some n =>
    match ctxOf s n.ctx with
    | none => s
    | some x =>
      if !(chunkOf n key).closed then s
      else if trRoot x.tree n.ix then haveResult s x nk key (chunkOf n key).result
      else
        let own := (chunkOf n key).own
        let s := (pieceCuts (pieceElems (upBits x.desc)) (chunkLen x.desc (key % 2 ^ 32))).foldl
          (fun s p => sendUp s x nk key n.ix p.1 p.2 (upData x.desc own p.1 p.2)) s
        modChunk s nk key fun c => { c with own := [], regs := [] }

end Sys2Proof.Machine
end

