-- ==== Sys2Proof/Machine/CollRun.lean ====
section
/-! DEFINITION. Machine/CollRun.lean: collective inputs and answers, admission, binding, closing and re-hosting (09_collectives.md R391
to R440). -/
namespace Sys2Proof.Machine

/-- Counters of a context (R440). -/
def bumpColl (s : State) (ck k n : Nat) : State := bumpBy s (.coll ck k) 48 n

/-! ## Contributions (R397 to R402) -/

/-- The header and data of a contribution keep R397 and R398; a DATA piece without elements is right in a round without chunks, too. -/
def contribOk (x : CollCtx) (p : Req) : Bool :=
  let d := x.desc
  let b := p.payload
  let m := leField b 8 2
  let kind := leField b 0xA 1
  let c := leField b 4 4
  let start := leField b 0xC 4
  let n := leField b 0x10 4
  let len := chunkLen d c
  decide (32 ≤ b.length) && decide (m < cdMembers d) && (memNode x.members m = p.src.toNat || memAlt x.members m = p.src.toNat) &&
  decide (kind ≤ 1) && leField b 0x14 12 = 0 &&
  (if kind = 1 then n = 0 && start = 0 && b.length = 32
   else decide (c < cdChunks d ∨ (cdChunks d = 0 ∧ n = 0)) && start % 1024 = 0 && decide (start + n ≤ len) && (n % 1024 = 0 || start + n = len) &&
     b.length = 32 + contribBytes d n &&
     (n = 0 || !cdPass d ||
       let r := within d c (contributes d m)
       decide (r.1 ≤ start ∧ start + n ≤ r.2)))

/-- The pieces of an input that were not received before, and how many of it were (R399). Each stands for 1,024 elements of the chunk, so two of them
are the same or apart, and none is taken for one it only overlaps. -/
def newPieces (unit start n : Nat) (had : Nat × Nat → Bool) : List (Nat × Nat) × Nat :=
  let l := pieceBlocks unit start n
  (l.filter fun e => !had e, (l.filter had).length)

/-- Complete an input with RETRY_LATER and the current re-host generation (R400). -/
def retryInput (s : State) (x : CollCtx) (ck : Nat) (dest : JobTo) (op : Op) (p : Req) : State :=
  answerTo (bumpColl s ck 1 1) dest op p stRetry x.rehostGen p.length.toNat none

/-- Spill that a context has in use here. -/
def spillUsed (s : State) (ck : Nat) : Nat := ((nodesHere s ck).flatMap fun e => e.2.spill.map (·.bytes)).foldl (· + ·) 0

/-- Bytes of an input as it arrived (R415). -/
def arrivedBytes (op : Op) (p : Req) : Nat :=
  if flagTallow p then (tallowBlocks (match op with
    | .collContrib | .collPartial => 32
    | _ => 0) 0 p.payload (p.payload.length / 4096 + 2)).length
  else p.payload.length

/-- New pieces for a chunk: into a record where its chunk holds a slot, to spill where there is room, or refused (R414, R415); whether they were
taken. -/
def inputPiece (s : State) (x : CollCtx) (ck nk key : Nat) (dest : JobTo) (op : Op) (p : Req) (parts : List (Nat × Nat)) (note : ChunkSt → ChunkSt) :
    State × Bool :=
  match cnodeOf s nk with
  | none => (refuse s dest op p stDenied, false)
  | some n =>
    let bytes := arrivedBytes op p
    let mark := fun (s : State) => modNode (modChunk s nk key note) nk fun m =>
      if lowestOpen x n = some key then { m with lastInput := s.clk, stallTold := false } else m
    if pieceSlot s x n key op p then (refuse (takePiece (mark s) x nk key op p parts) dest op p stOk, true)
    else if spillUsed s ck + bytes ≤ cdSpill x.desc * MiB then
      let e : SpillIn := { key := key, op := op, p := p, bytes := bytes, parts := parts }
      (refuse (bumpColl (modNode (mark s) nk fun n => { n with spill := n.spill ++ [e] }) ck 0 bytes) dest op p stOk, true)
    else (retryInput s x ck dest op p, false)

/-- Why a node takes no input of a round, if it takes none: it takes those of its current round and the next (R401), none of a round that
COLL.CLOSE has stopped (R431). While it is not decided which rounds those are, and while a node that was re-hosted here does not know its
round, inputs are to come again (log entry 68). -/
def roundShut (x : CollCtx) (n : CollNode) (rd : Nat) : Option Nat :=
  if n.fresh then some stRetry
  else if 1 < roundOff n rd then some stDenied
  else match x.stopAt with
    | some r => if fullRound n rd < r then none else some (if x.undecided then stRetry else stDenied)
    | none => none

/-- Refuse an input of a round that a node does not take: a stale round is counted (R401). -/
def shutInput (s : State) (x : CollCtx) (n : CollNode) (ck rd st : Nat) (dest : JobTo) (op : Op) (p : Req) : State :=
  if st = stRetry then retryInput s x ck dest op p
  else refuse (if decide (1 < roundOff n rd) then bumpColl s ck 3 1 else s) dest op p st

/-- A member joins a round with the first input accepted from it (R402): at its leaf of tree 0, which a leaf of another tree tells where it is
elsewhere. -/
def joins (s : State) (ck : Nat) (x : CollCtx) (nk m rd : Nat) : State :=
  match cnodeOf s nk with
  | none => s
  | some n =>
    if n.joined.contains (rd, m) then s
    else
      let s := modNode s nk fun n => { n with joined := n.joined ++ [(rd, m)] }
      if trTree x.tree n.ix = 0 then s else tellHost s ck x (hostOf x (leafIx x m 0)) 3 0 m rd 0

/-- A COLL_CONTRIB reaches its leaf (R397 to R402). -/
def startContrib (s : State) (dest : JobTo) (p : Req) : State :=
  let op := Op.collContrib
  match handleCtx s p.address.toNat with
  | none => refuse s dest op p stDenied
  | some (ck, x) =>
    if p.length = 0 then refuse s dest op p stOk
    else if !contribOk x p then refuse s dest op p stMalformed
    else
      let b := p.payload
      let rd := leField b 0 4
      let c := leField b 4 4
      let m := leField b 8 2
      let start := leField b 0xC 4
      let n := leField b 0x10 4
      let join := leField b 0xA 1 = 1
      let t := if join then 0 else chunkTree x.desc c
      let nk := nodeKey ck (leafIx x m t)
      if leField b 0xB 1 ≠ x.rehostGen then retryInput s x ck dest op p
      else match cnodeOf s nk with
        | none => refuse s dest op p stDenied
        | some nd =>
          match roundShut x nd rd with
          | some st => shutInput s x nd ck rd st dest op p
          | none =>
            if join then collGo (refuse (joins s ck x nk m rd) dest op p stOk) ck
            else if n = 0 then refuse s dest op p stOk
            else
              let key := chunkKey rd c
              let got := (chunkOf nd key).got
              let new := newPieces 1024 start n fun e => got.contains (m, e.1, e.2)
              if new.1.isEmpty then refuse (bumpColl s ck 2 new.2) dest op p stOk
              else
                let r := inputPiece s x ck nk key dest op p new.1 fun k => { k with got := k.got ++ new.1.map fun e => (m, e.1, e.2) }
                if r.2 then collGo (joins (bumpColl r.1 ck 2 new.2) ck x nk m rd) ck else r.1

/-! ## Partials and results (R394, R396, R404) -/

/-- The header and data of a COLL_PARTIAL keep R404; FP64 records come in pieces of 128 (log 67). -/
def partialOk (x : CollCtx) (b : List Byte) : Bool :=
  let d := x.desc
  let c := leField b 4 4
  let w := leField b 8 2
  let start := leField b 0xC 4
  let n := leField b 0x10 4
  let down := w.testBit 10
  let len := chunkLen d c
  decide (32 ≤ b.length) && decide (w < 2048) && decide (w % 1024 < cdNodes d) && leField b 0xB 1 = 0 && decide (leField b 0x14 4 ≤ 1) &&
  leField b 0x18 8 = 0 &&
  (if n = 0 then b.length = 32
   else
     let w := if down then fmtBits (cdOut d) else upBits d
     let unit := Nat.min 1024 (pieceElems w)
     decide (c < cdChunks d) && start % unit = 0 && decide (start + n ≤ len) && (n % unit = 0 || start + n = len) && b.length = 32 + dataBytes d down w n)

/-- Generation g is older than h (R427), modulo 256. -/
def genOlder (g h : Nat) : Bool := decide ((h + 256 - g) % 256 ≠ 0 ∧ (h + 256 - g) % 256 < 128)

/-- Pieces of a result reach a child node (R396): once it is whole it is delivered on. -/
def takeDown (s : State) (x : CollCtx) (nk key start n : Nat) (data : List Byte) : State :=
  match cnodeOf s nk with
  | none => s
  | some nd =>
    let k := chunkOf nd key
    let len := chunkLen x.desc (key % 2 ^ 32)
    if k.delivered || k.known then s
    else
      let new := (newPieces (Nat.min 1024 (pieceElems (fmtBits (cdOut x.desc)))) start n k.resGot.contains).1
      let s := modChunk s nk key fun k =>
        { k with resGot := k.resGot ++ new, result := putResult x.desc k.result len start n data }
      match cnodeOf s nk with
      | some nd =>
        let k := chunkOf nd key
        if decide ((k.resGot.map (·.2)).foldl (· + ·) 0 = len) then haveResult s x nk key k.result else s
      | none => s

/-- A COLL_PARTIAL reaches its logical node, or its nodes (R394, R396, R404). One of a generation that is not current is to come again; an older
one is counted (R427). -/
def startPartial (s : State) (dest : JobTo) (p : Req) : State :=
  let op := Op.collPartial
  match handleCtx s p.address.toNat with
  | none => refuse s dest op p stDenied
  | some (ck, x) =>
    let b := p.payload
    if p.length = 0 then refuse s dest op p stOk
    else if !partialOk x b then refuse s dest op p stMalformed
    else
      let rd := leField b 0 4
      let c := leField b 4 4
      let from_ := leField b 8 2 % 1024
      let down := (leField b 8 2).testBit 10
      let gen := leField b 0xA 1
      let start := leField b 0xC 4
      let n := leField b 0x10 4
      let joined := (leField b 0x14 4).testBit 0
      let t := trTree x.tree from_
      let key := chunkKey rd c
      if gen ≠ x.rehostGen then retryInput (if genOlder gen x.rehostGen then bumpColl s ck 4 1 else s) x ck dest op p
      else match partialTo s ck x b with
      | [] => refuse s dest op p stDenied
      | nk :: more =>
        match cnodeOf s nk with
        | none => refuse s dest op p stDenied
        | some nd =>
          if hostOf x from_ ≠ p.src.toNat || (n ≠ 0 && chunkTree x.desc c ≠ t) || (joined && t ≠ 0) then refuse s dest op p stDenied
          else if nd.fresh then retryInput s x ck dest op p
          else if decide (1 < roundOff nd rd) then refuse (bumpColl s ck 3 1) dest op p stDenied
          else
            let s := if !joined then s
              else if down then (nk :: more).foldl (fun s k => takeJoined s x k rd) s
              else modNode s nk fun n => { n with kidsJoined := if n.kidsJoined.contains (rd, from_) then n.kidsJoined else n.kidsJoined ++ [(rd, from_)] }
            if n = 0 then refuse (collGo s ck) dest op p stOk
            else if down then
              let waits := (nk :: more).filter fun k => ((cnodeOf s k).map fun n => !(chunkOf n key).delivered).getD false
              if waits.isEmpty then refuse (collGo (bumpColl s ck 2 1) ck) dest op p stOk
              else
                let s := waits.foldl (fun s k => modChunk s k key fun c => { c with owe := c.owe ++ [p] }) s
                collGo (waits.foldl (fun s k => takeDown s x k key start n (b.drop 32)) s) ck
            else
              let got := (chunkOf nd key).kids
              let new := newPieces (Nat.min 1024 (pieceElems (upBits x.desc))) start n fun e => got.contains (from_, e.1, e.2)
              if new.1.isEmpty then refuse (bumpColl s ck 2 new.2) dest op p stOk
              else
                let r := inputPiece s x ck nk key dest op p new.1 fun k => { k with kids := k.kids ++ new.1.map fun e => (from_, e.1, e.2) }
                collGo (if r.2 then bumpColl r.1 ck 2 new.2 else r.1) ck

/-- A member of this node takes Tallow blocks (R386). -/
def toTallow (x : CollCtx) (node : Nat) : Bool :=
  (natRange 0 (cdMembers x.desc)).any fun m => (memNode x.members m = node || memAlt x.members m = node) && memTallow x.members m

/-- Report a stall (R417): the node whose input is missing, and the stalled logical node. -/
def stallReport (s : State) (x : CollCtx) (n : CollNode) (node : Nat) : State :=
  report s 0x0A node 0x1FF (handleOf x + 2 ^ 48 * n.ix)

/-- What a context sent is answered: a partial or a result that is to come again goes again under the generation now current, as long as its node
holds what it carries (R404, R425); a delivery is complete (R396). -/
def collAnswered (s : State) (tag : Nat) (u : FabUse) (status : Nat) : State :=
  let gen := fun (x : CollCtx) (p : Req) =>
    let b := (plainPayload p).getD []
    b.take 10 ++ leBytes 1 x.rehostGen ++ b.drop 11
  match u with
  | .up nk key p =>
    match (cnodeOf s nk).bind fun n => (ctxOf s n.ctx).map fun x => (n, x) with
    | none => s
    | some (n, x) =>
      let b := gen x p
      let start := leField b 0xC 4
      let cnt := leField b 0x10 4
      let down := (leField b 8 2).testBit 10
      let k := chunkOf n key
      let held := cnt = 0 || (if cdPass x.desc then k.closed || (kfind k.own start).isSome else k.closed)
      if status ≠ stRetry || decide (1 < roundOff n (key / 2 ^ 32)) || !held then s
      else
        let host := if down then p.dst.toNat else hostOf x (trParent x.tree n.ix)
        collSend s (chunkPort s x nk (key % 2 ^ 32)) x .collPartial host (handleOf x) true 32 b (.up nk key)
  | .down nk key p =>
    match (cnodeOf s nk).bind fun n => (ctxOf s n.ctx).map fun x => (n, x) with
    | none => s
    | some (n, x) =>
      let port := chunkPort s x nk (key % 2 ^ 32)
      let renew := fun (s : State) (tag' : Nat) => modChunk s nk key fun k => { k with out := (k.out.filter (· ≠ tag)) ++ [tag'] }
      if !(chunkOf n key).out.contains tag then s
      else if status = stRetry && (lportOfNode s p.dst.toNat).isNone then
        renew (collSend s port x .collPartial p.dst.toNat (handleOf x) true 32 (gen x p) (.down nk key)) s.ing.ownTag
      else if status = stMalformed && (lportOfNode s p.dst.toNat).isSome && toTallow x p.dst.toNat then
        -- a delivery that its member found malformed goes once more in plain form; then the round stalls (R588)
        if flagTallow p then
          let q := { p with flags := p.flags &&& 0xFFF7, payload := (plainPayload p).getD [] }
          let r := collAgain (bump s .deliverAgain) port .collDeliver q (cdGate x.desc) (.down nk key q)
          renew r.1 r.2
        else stallReport s x n p.dst.toNat
      else collGo (delivered (modChunk s nk key fun k => { k with out := k.out.filter (· ≠ tag) }) nk key) n.ctx
  | _ => s

/-! ## Stalls (R417) -/

/-- Nodes whose input a chunk lacks: members' and children's hosts. -/
def lacking (x : CollCtx) (n : CollNode) (key : Nat) : List Nat :=
  let c := key % 2 ^ 32
  let t := trTree x.tree n.ix
  let k := chunkOf n key
  (((contributors x n.ix c).filter fun m => !covers k.got m (within x.desc c (contributes x.desc m))).map fun m => viaNode x m t) ++
    ((childrenOf x.desc x.tree n.ix).filter fun i => !covers k.kids i (0, chunkLen x.desc c)).map (hostOf x)

/-! ## Admission (R409 to R412) -/

/-- Bytes of a region's scratch that a node needs (R409). -/
def nodeArea (d : List Byte) (arrival owners : List Nat) (r : Nat) : Nat :=
  let slot := cdSlots d * cdChunk d * (cdAcc d).bytes
  let a := if arrival.contains r then slot else 0
  let o := if owners.contains r then slot else 0
  if a + o = 0 then 0 else a + o + 65536

/-- Blocks of a region that no instance holds. -/
def spareBlocks (s : State) (r : Nat) : Nat := if isFenced s r then 0 else ((blocksIn r).filter fun b => blockFree s b).length

/-- A port serves a partition's members (R391). -/
def portServes (s : State) (l part : Nat) : Bool :=
  if isBridge l then s.coh.decoders.any fun e => e.1 / 16 = l - 512 && e.2.partition = part else portMember s l part

/-- The frames of a root's shard of the optimizer's arrays, array by array, or a status (R432). -/
def shardFrames (s : State) (part : Nat) (d : List Byte) (t : Nat) : List (List Nat) ⊕ Nat :=
  let lo := 4 * shardFirst d t * cdChunk d
  let hi := Nat.min (4 * shardEnd d t * cdChunk d) (4 * cdElems d)
  let as := (if cdOpt d = 2 then [0x30, 0x38, 0x40] else [0x30, 0x38]).map fun o => leField d o 8
  if hi ≤ lo then (if as.all fun a => a % (2 * MiB) = 0 then .inl (as.map fun _ => []) else .inr stDenied)
  else
    let looks := as.flatMap fun a => [(cdAst d, false, a + lo, hi - lo), (cdAst d, true, a + lo, hi - lo)]
    match lookAll s part looks with
    | .inr st => .inr st
    | .inl pages =>
      let frames := as.map fun a => (natRange ((a + lo) / frameBytes) ((a + hi - 1) / frameBytes - (a + lo) / frameBytes + 1)).map fun f =>
        ((poolAt pages (cdAst d) (f * frameBytes)).getD 0) / frameBytes
      let ok := as.all (fun a => a % (2 * MiB) = 0) && frames.all fun l => l.all fun f =>
        homedHere s (f * frameBytes) && match tierOf s f with
          | some e => e.copies = 1 && (e.cls = 0 || e.cls = 2)
          | none => false
      if ok then .inl frames else .inr stDenied

/-- A free T1 frame of a region. -/
def pickRegion (s : State) (r : Nat) : Option Nat :=
  if t1Free s = 0 then none
  else (chooseOf s ((natRange 0 (t1Frames s)).filter fun f => t1Region f = r && !(t1Taken s).contains f)).map t1Loc

/-- The region of a frame in T1, or of where it is moving. -/
def goingTo (s : State) (f : Nat) : Option Nat :=
  match kfind s.mem.moves f with
  | some m => if m.dst = .t1 then some (t1Region (t1FrameOf m.loc)) else none
  | none => match tierOf s f with
    | some e => if e.tier = .t1 then some (t1Region (t1FrameOf e.loc0)) else none
    | none => none

/-- Bind one frame: into T1, in a region where one is given (R433); a status where it cannot be. Several contexts may bind a frame. -/
def bindFrame (s : State) (f : Nat) (region : Option Nat) : State ⊕ Nat :=
  let s := modTier s f fun e => { e with bound := e.bound + 1 }
  let fine : Bool := match goingTo s f with
    | some r => region.getD r = r
    | none => false
  if fine then .inl s
  else if (kfind s.mem.moves f).isSome ∨ regField s rPoolPolicy 10 6 = 0 then .inr stRetry
  else match (match region with
      | some r => pickRegion s r
      | none => pickT1 s) with
    | some l => .inl (startMove (bumpFree s) f 0 .t1 { loc := l } none)
    | none => .inr stBudget

/-- Bind a shard: each W frame, then those of M and V that hold the same parameters. -/
def bindShard (s : State) (frames : List (List Nat)) : State ⊕ Nat :=
  match frames with
  | [] => .inl s
  | ws :: rest =>
    (ws.zipIdx).foldl (fun a w =>
      match a with
      | .inr st => .inr st
      | .inl s =>
        match bindFrame s w.1 none with
        | .inr st => .inr st
        | .inl s => rest.foldl (fun a l => match a with
            | .inr st => .inr st
            | .inl s => match l[w.2]? with
              | some f => bindFrame s f (goingTo s w.1)
              | none => .inl s) (.inl s)) (.inl s)

/-- Give frames free again. -/
def unbind (s : State) (fs : List Nat) : State := fs.foldl (fun s f => modTier s f fun e => { e with bound := e.bound - 1 }) s

/-- Free a context here (R431): its reservations, its frames, its waiting commands. -/
def freeCtx (s : State) (ck : Nat) : State :=
  match ctxOf s ck with
  | none => s
  | some x =>
    let s := unbind s (x.bound.flatMap (·.2))
    let js := s.fab.jobs.filter fun e => match e.2.kind with
      | .chunk n _ _ => !(n / 1024 = ck && e.2.stage ≠ .writing)
      | _ => true
    let s := modFab s fun f => { f with ctxs := kdel f.ctxs ck, nodes := f.nodes.filter (fun e => e.2.ctx ≠ ck), jobs := js }
    let s := { s with core := { s.core with spill := s.core.spill - cdSpill x.desc * MiB } }
    if x.coord = selfNode s then bumpGen s hColl x.id 11 else s

/-- Take back the step of chunks of a node that has not committed (R425). -/
def dropSteps (s : State) (nk : Nat) (which : Nat → Bool) : State :=
  modFab s fun f => { f with jobs := f.jobs.filter fun j => match j.2.kind with
    | .chunk n r c => !(n = nk && which (chunkKey r c) && j.2.stage ≠ .writing)
    | _ => true }

/-- A logical node is no longer hosted here: what it owes its parent is to come again elsewhere, and its frames are free. -/
def dropNode (s : State) (ck ix : Nat) : State :=
  match ctxOf s ck, cnodeOf s (nodeKey ck ix) with
  | some x, some n =>
    let s := modFab (dropSteps s (nodeKey ck ix) fun _ => true) fun f => { f with nodes := kdel f.nodes (nodeKey ck ix) }
    let s := ((n.chunks.flatMap fun k => k.2.owe).eraseDups).foldl (fun s p => answer s .collPartial p stRetry x.rehostGen) s
    modCtx (unbind s (kget x.bound ix [])) ck fun x => { x with bound := kdel x.bound ix }
  | _, _ => s

/-- A switch that hosts no logical node of a context and does not direct it has no more to do with it. -/
def leaveCtx (s : State) (ck : Nat) : State :=
  match ctxOf s ck with
  | some x => if (nodesHere s ck).isEmpty && x.coord ≠ selfNode s && x.lead ≠ selfNode s then freeCtx s ck else s
  | none => s

/-- Regions that own a root's W frames, or will once they have moved (R113, R433). -/
def rootOwners (s : State) (x : CollCtx) (ix : Nat) : List Nat :=
  match shardFrames s x.part x.desc (trTree x.tree ix) with
  | .inl (ws :: _) => (natRange 0 16).filter (ws.filterMap (goingTo s)).contains
  | _ => []

/-- Put a node here: its owner regions and areas, or none where scratch does not allow it. At an optimizer's root the owner regions are those of
its W frames (R435). A node that is here already keeps what it holds (R421, R430); one that comes to a context later learns its round from
RESUME. -/
def admitNode (s : State) (x : CollCtx) (ck ix : Nat) (fresh : Bool) : Option State :=
  let d := x.desc
  let t := trTree x.tree ix
  let nk := nodeKey ck ix
  let old := cnodeOf s nk
  let s := modFab s fun f => { f with nodes := kdel f.nodes nk }
  let here := (leafMembers x ix).filter fun m => (lportOfNode s (viaNode x m t)).isSome
  let arrival := ((here.map fun m => memberRegion s x m t).eraseDups).filter fun r => !isFenced s r
  let room := fun (r : Nat) (n : Nat) => decide (ceilDiv (collScratch s r + n) 524288 ≤ spareBlocks s r)
  let can := (natRange 0 16).filter fun r => room r (nodeArea d arrival [r] r)
  let k := freeNat s % Nat.max 1 can.length
  let span := trSpan x.tree ix
  let fixed := if cdOpt d ≠ 0 ∧ trRoot x.tree ix = true then rootOwners s x ix else []
  let owners := if fixed.isEmpty then (natRange 0 16).filter ((can.drop k ++ can.take k).take span).contains else fixed
  let areas := ((natRange 0 16).map fun r => (r, nodeArea d arrival owners r)).filter fun e => e.2 ≠ 0
  if (fixed.isEmpty && owners.length ≠ span) || !(areas.all fun e => room e.1 e.2) then none
  else
    let n : CollNode := match old with
      | some n => { n with owners := owners, areas := areas }
      | none => { ctx := ck, ix := ix, owners := owners, areas := areas, lastInput := s.clk, b1p := leField d 0x60 4, b2p := leField d 0x64 4,
                  fresh := fresh }
    some (modFab (bumpFree s) fun f => { f with nodes := kset f.nodes nk n })

/-- Put nodes here one by one. -/
def admitNodes (x : CollCtx) (ck : Nat) (fresh : Bool) : List Nat → State → Option State
  | [], s => some s
  | ix :: l, s => (admitNode s x ck ix fresh).bind (admitNodes x ck fresh l)

/-- Counters of a new context start from 0. -/
def clearColl (s : State) (ck : Nat) : State :=
  let cs := s.ctrs.filter fun e => match e.1 with
    | .coll k _ => k ≠ ck
    | _ => true
  { s with ctrs := cs }

/-- Bind the shards of optimizer roots here, unless they are bound already (R433). -/
def bindRoots (s : State) (ck : Nat) (l : List (Nat × List (List Nat))) : State ⊕ Nat :=
  l.foldl (fun (acc : State ⊕ Nat) e => match acc with
    | .inr st => .inr st
    | .inl s =>
      if ((ctxOf s ck).map fun x => (kfind x.bound e.1).isSome).getD true then .inl s
      else match bindShard s e.2 with
        | .inr st => .inr st
        | .inl s => .inl (modCtx s ck fun x => { x with bound := kset x.bound e.1 (e.2.flatMap id) })) (.inl s)

/-- The relayed body of COLL.OPEN and COLL.REHOST: the descriptor, its tables, and the two lists of 2 bytes that R388 settles. -/
def ctxBody (x : CollCtx) : List Byte := x.desc ++ x.members ++ x.tree ++ x.nodeAt ++ x.hosts0
/-- A context from its body and the parameters of ADMIT: coordinator, ID, GEN, REHOST_GEN, present coordinator, RESUMEs so far. -/
def ctxFrom (part : Nat) (a : Nat → Nat → Nat) (b : List Byte) : CollCtx :=
  let d := b.take 128
  let m := 32 * cdMembers d
  let t := 16 * cdNodes d
  { coord := a 0 2, id := a 2 2, part := part, gen := a 4 2, desc := d, members := sliceBytes b 128 m, tree := sliceBytes b (128 + m) t,
    rehostGen := a 6 1, nodeAt := sliceBytes b (128 + m + t) (2 * cdMembers d), hosts0 := sliceBytes b (128 + m + t + 2 * cdMembers d) (2 * cdNodes d),
    lead := a 10 2, resumes := a 12 8 }

/-- ADMIT (R409, R410): reserve at once or refuse, also where the spill's share would take a slice's shared area below SHARED_MIN (R662). The
logical node to re-host, or 0xFFFF for all of this host's, stands at 8 of the parameters. -/
def collAdmit (s : State) (dest : JobTo) (b : List Byte) : State :=
  let a := fun (o n : Nat) => leField b (0x20 + o) n
  let ans := fun (s : State) (st : Nat) => tellTo s dest st 0 []
  let x := ctxFrom (leField b 6 2 % 1024) a (b.drop 64)
  let d := x.desc
  let ck := ctxKey x.coord x.id
  let only := a 8 2
  let known := (ctxOf s ck).isSome
  let mine := if only = 0xFFFF then (natRange 0 (cdNodes d)).filter fun i => trHost x.tree i = selfNode s else [only]
  let roots := if cdOpt d = 0 then [] else mine.filter (trRoot x.tree)
  let frames := roots.map fun i => (i, shardFrames s x.part d (trTree x.tree i))
  match frames.filterMap fun f => match f.2 with
      | .inr st => some st
      | .inl _ => none with
  | st :: _ => ans s st
  | [] =>
    let fs := frames.filterMap fun f => match f.2 with
      | .inl l => some (f.1, l)
      | .inr _ => none
    let spill := cdSpill d * MiB
    if !known && (decide (4096 ≤ s.fab.ctxs.length) || decide (96 * MiB < s.core.spill + spill)) then ans s stBudget
    else
      let s1 := if known then s else clearColl (modFab { s with core := { s.core with spill := s.core.spill + spill } } fun f => { f with ctxs := kset f.ctxs ck x }) ck
      if (natRange 0 16).any fun r => decide (sharedArea s1 r < sharedMin s) then ans s stBudget else
      match bindRoots s1 ck fs with
      | .inr st => ans s st
      | .inl s2 =>
        match admitNodes x ck (only ≠ 0xFFFF) mine s2 with
        | none => ans s stBudget
        | some s3 =>
          if fs.isEmpty then ans s3 stOk
          else modCtx s3 ck fun y => { y with opening := some (dest, if only = 0xFFFF then none else some only) }

/-- A root waits for the moves of its bind (R433, R434). -/
def goBind (s : State) (ck : Nat) : State :=
  match ctxOf s ck with
  | none => s
  | some x =>
    match x.opening with
    | none => s
    | some (dest, only) =>
      let mine : List Nat := match only with
        | some ix => kget x.bound ix []
        | none => x.bound.flatMap (·.2)
      let moving := mine.filter fun f => (kfind s.mem.moves f).isSome
      let ans := fun (s : State) (st : Nat) => tellTo s dest st 0 []
      -- what admission reserved is released
      let undo := fun (s : State) => match only with
        | some ix => leaveCtx (modCtx (dropNode s ck ix) ck fun x => { x with opening := none }) ck
        | none => freeCtx s ck
      if !moving.isEmpty && regField s rPoolPolicy 10 6 = 0 then
        ans (undo (moving.foldl (fun s f => abandonMove s f stRetry) s)) stRetry
      else if !moving.isEmpty then s
      else if mine.all fun f => match tierOf s f with
          | some e => e.tier = .t1
          | none => false then
        ans (modCtx s ck fun x => { x with opening := none }) stOk
      else ans (undo s) stRetry

/-! ## Opening (R379, R391, R410) -/

/-- A HOST or SPARE is a switch, as far as this switch knows it (R391). -/
def nodeAllowed (s : State) (part node : Nat) : Bool :=
  match lportOfNode s node with
  | some l => portServes s l part
  | none => node = selfNode s || (kfind s.core.routes node).isSome

/-- Hosts of a tree table, and of a context: its coordinators among them. -/
def hostsOf (d tree : List Byte) : List Nat := ((natRange 0 (cdNodes d)).map (trHost tree)).eraseDups
def ctxHosts (x : CollCtx) : List Nat := (hostsOf x.desc x.tree ++ [x.coord, x.lead]).eraseDups

/-- Check 1 of R391 on a table that could be read. -/
def tablesOk (d : List Byte) (members tree : Option (List Byte)) : Bool :=
  (members.map (membersOk d)).getD true && (tree.map (treeOk d)).getD true

/-- Reading COLL.OPEN's descriptor and tables under the AST named (checks 1 and 2 of R391): what can be read is checked first. -/
def readOpen (s : State) (j : Job) (part ast va : Nat) : JobStep :=
  let look := fun (a n : Nat) => lookPages s part ast false a n
  match look va 128 with
  | .inr st => .fail (st + 256 * 2)
  | .inl ps => withRanges j (vaPool ps ast va 128) fun d =>
    if !descOk d then .fail (stMalformed + 256)
    else if cdMembers d = 0 then .done { data := some d }
    else
      let mt := leField d 0x18 8
      let tt := leField d 0x20 8
      let mn := 32 * cdMembers d
      let tn := 16 * cdNodes d
      match look mt mn, look tt tn with
      | .inl pm, .inl pt => withRanges j (vaPool pm ast mt mn ++ vaPool pt ast tt tn) fun t =>
          if tablesOk d (some (t.take mn)) (some (t.drop mn)) then .done { data := some (d ++ t) } else .fail (stMalformed + 256)
      | .inl pm, .inr st => withRanges j (vaPool pm ast mt mn) fun m =>
          .fail (if tablesOk d (some m) none then st + 256 * 2 else stMalformed + 256)
      | .inr st, .inl pt => withRanges j (vaPool pt ast tt tn) fun t =>
          .fail (if tablesOk d none (some t) then st + 256 * 2 else stMalformed + 256)
      | .inr st, .inr _ => .fail (st + 256 * 2)

/-- Run a part of a relayed command here, after telling the others. -/
def hereToo (s : State) (nodes : List Nat) (f : State → State) : State := if nodes.contains (selfNode s) then f s else s

/-- Ask hosts whether they admit a context, or a node of it. -/
def askAdmit (s : State) (dest : JobTo) (x : CollCtx) (only : Nat) (nodes : List Nat) (obj : Nat) (args : List Nat) : State :=
  let a := leBytes 2 x.coord ++ leBytes 2 x.id ++ leBytes 2 x.gen ++ leBytes 1 x.rehostGen ++ leBytes 1 0 ++ leBytes 2 only ++ leBytes 2 x.lead ++
    leBytes 8 x.resumes ++ leBytes 12 0
  let extra := ctxBody x
  let (s, id) := newRelay s { group := 0x0E, verb := if only = 0xFFFF then 1 else 5, part := x.part, dest := dest, obj := obj, args := args, rest := extra }
  let s := relaySend s id 3 0x0E 1 x.part 0 a extra nodes
  hereToo s nodes fun s => collAdmit s (.relay id (selfNode s)) ((xchgPayload 3 0x0E 1 x.part 0 a).drop 8 ++ extra)

/-- Members of whom one message asks: three bits of each fit RESULT. -/
abbrev askMembers : Nat := 21

/-- What a switch knows of members (R388, R391): whether it attaches NODE, whether it attaches ALT_NODE, and whether NODE's port serves the
partition: three bits of RESULT for each. -/
def collWhere (s : State) (dest : JobTo) (b : List Byte) : State :=
  let part := leField b 6 2 % 1024
  let t := b.drop 64
  let word := fun (m : Nat) =>
    let l := lportOfNode s (memNode t m)
    (if l.isSome then 1 else 0) + (if memAlt t m ≠ noNode ∧ (lportOfNode s (memAlt t m)).isSome = true then 2 else 0) +
      (if (l.map fun l => portServes s l part).getD false then 4 else 0)
  tellTo s dest stOk (((natRange 0 (t.length / 32)).map fun m => word m * 2 ^ (3 * m)).foldl (· + ·) 0) []

/-- Ask every host and spare where the next members are attached. `args` holds what is known so far, member by member: the switch of NODE, that of
ALT_NODE × 2^16, and whether NODE's port serves the partition × 2^32; a host that cannot be asked leaves a status in `bad`. -/
def askWhere (s : State) (r : Relay) (part : Nat) (b : List Byte) (known : List Nat) : State :=
  let d := b.take 128
  let k := known.length
  let some_ := sliceBytes b (128 + 32 * k) (32 * Nat.min askMembers (cdMembers d - k))
  let hosts := tableHosts d (sliceBytes b (128 + 32 * cdMembers d) (16 * cdNodes d))
  let a := leBytes 7 0 ++ leBytes 1 1 ++ leBytes 24 0
  let (s, id) := newRelay s { r with tags := [], local_ := false, took := [], args := known }
  let s := relaySend s id 3 0x0E 1 part 0 a some_ hosts
  hereToo s hosts fun s => collWhere s (.relay id (selfNode s)) ((xchgPayload 3 0x0E 1 part 0 a).drop 8 ++ some_)

/-- Checks 1 and 3 of R391 that this switch can make itself, once the descriptor and its tables have been read; then it asks the others. -/
def collOpen (s : State) (dest : JobTo) (part : Nat) (b : List Byte) : State :=
  let d := b.take 128
  let tree := sliceBytes b (128 + 32 * cdMembers d) (16 * cdNodes d)
  let ans := fun (s : State) (st : Nat) => tellTo s dest st 0 []
  if cdMembers d = 0 then ans s stOk
  else if trHost tree (rootOf d tree 0) ≠ selfNode s then ans s (stMalformed + 256)
  else askWhere s { group := 0x0E, verb := 6, part := part, dest := dest, obj := 0, rest := b } part b []

/-- Context IDs of this coordinator in use: of contexts, of opens that hosts are deciding on, and of those they are giving up (R410). -/
def idsInUse (s : State) : List Nat :=
  (s.fab.ctxs.filter fun e => e.2.coord = selfNode s).map (·.2.id) ++ s.fab.relays.filterMap fun e =>
    if e.2.group = 0x0E ∧ e.2.verb = 1 then e.2.args.head?
    else if e.2.group = 0x0E ∧ e.2.verb = 2 ∧ e.2.stage = 3 ∧ (nodeHandle e.2.obj).2.1 = selfNode s then some (nodeHandle e.2.obj).1
    else none

/-- The rest of checks 1 and 3 of R391, once every member's place is known (R388); then every host is asked to admit the context. -/
def collPlaced (s : State) (dest : JobTo) (part : Nat) (b : List Byte) (places : List Nat) (unheard : Bool) : State :=
  let d := b.take 128
  let ms := 32 * cdMembers d
  let members := sliceBytes b 128 ms
  let tree := sliceBytes b (128 + ms) (16 * cdNodes d)
  let ans := fun (s : State) (st : Nat) => tellTo s dest st 0 []
  let all := natRange 0 (cdMembers d)
  let at_ := fun (m : Nat) => places.getD m 0 % 2 ^ 16
  let alt := fun (m : Nat) => places.getD m 0 / 2 ^ 16 % 2 ^ 16
  let trees := natRange 0 (cdTrees d)
  let leaf := fun (m t : Nat) => (treeNodes d tree t).find? fun i => trHost tree i = at_ m
  let leaves := all.all fun m => trees.all fun t => (leaf m t).isSome
  let spares := all.all fun m => memAlt members m = noNode || trees.all fun t => (leaf m t).all fun i => trSpare tree i = alt m
  if !leaves || !spares then ans s (if unheard then stDenied + 256 * 3 else stMalformed + 256)
  else if !(all.all fun m => places.getD m 0 / 2 ^ 32 = 1) ||
      !((natRange 0 (cdNodes d)).all fun i => nodeAllowed s part (trHost tree i) && (trSpare tree i = noNode || nodeAllowed s part (trSpare tree i))) then
    ans s (stDenied + 256 * 3)
  else
    match firstFree (idsInUse s) 4096 (freeNat s) 4096 with
    | none => ans s (stBudget + 256 * 5)
    | some id =>
      let x : CollCtx := { coord := selfNode s, id := id, part := part, gen := genOf s hColl id, desc := d, members := members, tree := tree,
                           lead := selfNode s, nodeAt := all.flatMap fun m => leBytes 2 (at_ m),
                           hosts0 := (natRange 0 (cdNodes d)).flatMap fun i => leBytes 2 (trHost tree i) }
      askAdmit (bumpFree s) dest x 0xFFFF (hostsOf d tree) (ctxKey x.coord id) [id, x.gen]

/-- Every host and spare has answered where some members are attached. -/
def wherePlaced (s : State) (r : Relay) : State :=
  let d := r.rest.take 128
  let k := r.args.length
  let n := Nat.min askMembers (cdMembers d - k)
  let find := fun (m bit : Nat) => ((r.took.find? fun e => (e.2 / 2 ^ (3 * m)).testBit bit).map (·.1)).getD 0xFFFF
  let known := r.args ++ (natRange 0 n).map fun m =>
    find m 0 + 2 ^ 16 * find m 1 + 2 ^ 32 * (if r.took.any fun e => (e.2 / 2 ^ (3 * m)).testBit 2 then 1 else 0)
  if known.length < cdMembers d then askWhere s r r.part r.rest known
  else collPlaced s r.dest r.part r.rest known (!r.bad.isEmpty)

/-- Tell other hosts to do something for a context: verb, stage and parameters (CLOSE 2, SET_OPT 3, REHOST 5). -/
def tellHosts (s : State) (r : Relay) (kind verb : Nat) (handle : Nat) (args : List Byte) (nodes : List Nat) (here : State → JobTo → List Byte → State) : State :=
  let a := leBytes 8 handle ++ args
  let (s, id) := newRelay s r
  let s := relaySend s id kind 0x0E verb r.part 0 a [] nodes
  hereToo s nodes fun s => here s (.relay id (selfNode s)) ((xchgPayload kind 0x0E verb r.part 0 a).drop 8)

/-! ## Closing (R431) -/

/-- Rounds of a context that have begun here: one past the last. -/
def begunRounds (s : State) (ck : Nat) : Nat :=
  ((nodesHere s ck).map fun e =>
    let n := e.2
    let any := fun (rd : Nat) => n.chunks.any (fun k => k.1 / 2 ^ 32 = rd % 2 ^ 32) || n.joined.any (fun k => k.1 = rd % 2 ^ 32) ||
      n.kidsJoined.any (fun k => k.1 = rd % 2 ^ 32)
    if any (n.round + 1) then n.round + 2 else if any n.round then n.round + 1 else n.round).foldl Nat.max 0

/-- Write CLOSED or FAILED to the members whose leaf is here. -/
def noticeAll (s : State) (ck type : Nat) : State :=
  match ctxOf s ck with
  | none => s
  | some x =>
    (nodesIn s ck x 0).foldl (fun s e => (leafMembers x e.2.ix).foldl (fun s m => notice s ck m 0 type e.2.round 0 0 0) s) s

/-- A context that is to close ends here once its rounds are finished. -/
def goClose (s : State) (ck : Nat) : State :=
  match ctxOf s ck with
  | none => s
  | some x =>
    match x.stopAt with
    | none => s
    | some r =>
      let live := (nodesHere s ck).filter fun e => trTree x.tree e.2.ix = 0 || carries x (trTree x.tree e.2.ix)
      if x.closing.isEmpty || !live.all (fun e => decide (r ≤ e.2.round)) then s
      else x.closing.foldl (fun s dest => tellTo s dest stOk 0 []) (freeCtx (noticeAll s ck 4) ck)

/-- End a context here at once: open inputs are DENIED, nothing more is delivered (R431). -/
def forceClose (s : State) (ck type : Nat) : State :=
  match ctxOf s ck with
  | none => s
  | some x =>
    let owed := ((nodesHere s ck).flatMap fun e => e.2.chunks.flatMap fun k => k.2.owe).eraseDups
    let s := owed.foldl (fun s p => answer s .collPartial p stDenied 0) s
    let s := if type = 0 then s else noticeAll s ck type
    x.closing.foldl (fun s dest => tellTo s dest stOk 0 []) (freeCtx (modCtx s ck fun x => { x with forced := true }) ck)

/-- A host's part of COLL.CLOSE: 0 lets no round begin and answers those begun; 1 finishes the rounds below one; 2 ends it at once; 3 gives
up what admission reserved. -/
def collClosePart (s : State) (dest : JobTo) (b : List Byte) : State :=
  let ans := fun (s : State) (res : Nat) => tellTo s dest stOk res []
  match handleCtx s (leField b 0x20 8) with
  | none => ans s 0
  | some (ck, _) =>
    match leField b 0x28 4 with
    | 0 =>
      let n := begunRounds s ck
      ans (modCtx s ck fun x => { x with stopAt := some n, undecided := true }) n
    | 1 => goClose (collGo (modCtx s ck fun x => { x with stopAt := some (leField b 0x2C 8), undecided := false, closing := x.closing ++ [dest] }) ck) ck
    | 2 => ans (forceClose s ck 4) 0
    | _ => ans (freeCtx s ck) 0

/-- COLL.CLOSE at the coordinator. -/
def collClose (s : State) (dest : JobTo) (x : CollCtx) (force : Bool) : State :=
  let hosts := ctxHosts x
  let stage := if force then 2 else 0
  tellHosts s { group := 0x0E, verb := 2, part := x.part, dest := dest, obj := handleOf x, stage := stage, args := hosts } 3 2 (handleOf x)
    (leBytes 4 stage ++ leBytes 20 0) hosts collClosePart

/-! ## Parameters (R438) -/

/-- A root host's part of COLL.SET_OPT: 0 holds rounds and answers the first not begun; 1 takes the parameters from a round on. -/
def collOptPart (s : State) (dest : JobTo) (b : List Byte) : State :=
  let ans := fun (s : State) (st res : Nat) => tellTo s dest st res []
  match handleCtx s (leField b 0x20 8) with
  | none => ans s stDenied 0
  | some (ck, _) =>
    if leField b 0x28 4 = 0 then
      let n := ((nodesHere s ck).map fun e => e.2.begun).foldl Nat.max (leField b 0x2C 4)
      ans (modCtx s ck fun x => { x with hold := some n }) stOk n
    else
      let p := (natRange 0 6).map fun i => leField b (64 + 4 * i) 4
      let r := leField b 0x2C 4
      ans (collGo (modCtx s ck fun x => { x with hold := none, opts := (x.opts.filter fun e => decide (e.1 < r)) ++ [(r, p)] }) ck) stOk r

/-! ## Re-hosting (R424 to R430) -/

/-- Change the host of a logical node in a tree table. -/
def setHost (tree : List Byte) (ix host : Nat) : List Byte := tree.take (16 * ix) ++ leBytes 2 host ++ tree.drop (16 * ix + 2)

/-- What a node of a context tells the new host of a leaf of tree 0 of the round that it takes up: the members that joined by data in another tree,
shards delivered, and counts of sums (R402, R406, R407). -/
def retell (s : State) (ck : Nat) (x : CollCtx) (ix round : Nat) (n : CollNode) : State :=
  let t := trTree x.tree n.ix
  let rd := round % 2 ^ 32
  let h := hostOf x ix
  let past := !n.fresh && (decide (round < n.round) || (n.round = round && shardDone x n))
  let s := if t = 0 || sibling x n.ix 0 ≠ ix || (leafMembers x n.ix).isEmpty then s
    else
      let s := if past then tellHost s ck x h 4 n.ix 0 rd 0 else s
      let came := ((n.joined.filter fun j => j.1 = rd).map (·.2)).eraseDups
      came.foldl (fun s m => tellHost s ck x h 3 0 m rd 0) s
  if cdOpt x.desc ≠ 0 && trRoot x.tree n.ix && past then
    tellHost s ck x h 5 t 0 rd (if n.round = round then shardBad x n else n.lastBad)
  else s

/-- A host discards what it holds of the chunks of a tree that are reduced again (R425): what it owes for them is to come again. What an optimizer has
committed stays known (R428). -/
def discard (s : State) (x : CollCtx) (t round rc gen : Nat) (ns : List (Nat × CollNode)) : State :=
  let ns := ns.filter fun e => trTree x.tree e.2.ix = t
  let lost := fun (n : CollNode) (k : Nat) => k / 2 ^ 32 = round % 2 ^ 32 && n.round % 2 ^ 32 = round % 2 ^ 32 && decide (rc ≤ k % 2 ^ 32)
  let owed := (ns.flatMap fun e => (e.2.chunks.filter fun k => lost e.2 k.1).flatMap fun k => k.2.owe).eraseDups
  let s := owed.foldl (fun s p => answer s .collPartial p stRetry gen) s
  ns.foldl (fun s e =>
    modNode (dropSteps s e.1 (lost e.2)) e.1 fun n =>
      { n with chunks := n.chunks.map fun k => if lost n k.1 then (k.1, { updated := k.2.updated, bad := k.2.bad }) else k
               spill := n.spill.filter fun p => !lost n p.key
               lastInput := s.clk }) s

/-- Joins of a re-hosted node of tree 0 are told again: by its children to it, and to it by its parent. -/
def joinsAgain (s : State) (x : CollCtx) (ix : Nat) (e : Nat × CollNode) : State :=
  if !trRoot x.tree e.2.ix && trParent x.tree e.2.ix = ix then modNode s e.1 fun n => { n with joinSent := [] }
  else if !trRoot x.tree ix && trParent x.tree ix = e.2.ix then
    e.2.allJoined.foldl (fun s rd => sendJoins s x e.1 rd e.2.ix (hostOf x ix) true) s
  else s

/-- Take RESUME at a host of the context (R425 to R428). Every host of the context takes it, since members send to every tree under the one
generation; only those of the tree discard (log entry 68). -/
def takeResume (s : State) (ck ix host gen rc lead round : Nat) : State :=
  match ctxOf s ck with
  | none => s
  | some x =>
    let s := bumpColl (modCtx s ck fun x => { x with tree := setHost x.tree ix host, rehostGen := gen, lead := lead }) ck 6 1
    let s := if host ≠ selfNode s then dropNode s ck ix else s
    let s := modNode s (nodeKey ck ix) fun n => 
      if n.fresh then (natRange 0 round).foldl (fun n _ => beginRound x n) { n with fresh := false, round := round } else n
    match ctxOf s ck with
    | none => s
    | some x' =>
      let t := trTree x.tree ix
      let s := discard s x' t round rc gen (nodesHere s ck)
      let s := if t ≠ 0 then s else (nodesIn s ck x' 0).foldl (fun s e => joinsAgain s x' ix e) s
      let s := if t ≠ 0 ∨ (leafMembers x' ix).isEmpty = true then s else (nodesHere s ck).foldl (fun s e => retell s ck x' ix round e.2) s
      let s := (nodesIn s ck x' 0).foldl (fun s e =>
        (leafMembers x' e.2.ix).foldl (fun s m => notice s ck m t 2 round rc (viaNode x' m t) 0) s) s
      let s := modCtx s ck fun x => { x with resumes := x.resumes + 1 }
      leaveCtx (collGo s ck) ck

/-- Where a tree stands at this host, for one of its logical nodes that is re-hosted (R426): the round that its root, or a node of it, has not
finished, × 2^32, and the chunk from which it is reduced again. -/
def resumePoint (s : State) (ck ix : Nat) : Nat :=
  match ctxOf s ck with
  | none => 0
  | some x =>
    let t := trTree x.tree ix
    let root := rootOf x.desc x.tree t
    let at_ := fun (n : CollNode) => n.round + (if n.ix ≠ root ∧ shardDone x n = true then 1 else 0)
    let ns := (nodesIn s ck x t).map (·.2) |>.filter fun n => !n.fresh
    match ns.find? fun n => n.ix = root with
    | some n =>
      let c := if ix = root then shardFirst x.desc t
        else ((shardChunks x n).find? fun c => !(chunkOf n (chunkKey n.round c)).delivered).getD (shardEnd x.desc t)
      n.round % 2 ^ 32 * 2 ^ 32 + c
    | none =>
      let lows := ns.map at_
      (lows.foldl Nat.min (lows.headD 0)) % 2 ^ 32 * 2 ^ 32 + shardFirst x.desc t

/-- Begin to re-host a logical node (R425): the new host admits it first. -/
def rehost (s : State) (dest : JobTo) (ck ix host lead : Nat) : State :=
  match ctxOf s ck with
  | none => tellTo s dest stDenied 0 []
  | some x => askAdmit s dest { x with tree := setHost x.tree ix host, lead := lead } ix [host] ck [ix, host, lead]

/-- A host's part of re-hosting: 0 answers where a tree stands, 1 takes RESUME, 2 asks the coordinator to re-host a node; from 3 on it is told of a
round. -/
def collResumePart (s : State) (dest : JobTo) (b : List Byte) : State :=
  let a := fun (o n : Nat) => leField b (0x20 + o) n
  let ans := fun (s : State) (st res : Nat) => tellTo s dest st res []
  match handleCtx s (a 0 8) with
  | none => ans s stDenied 0
  | some (ck, _) =>
    match a 8 1 with
    | 0 => ans s (if (nodesHere s ck).any fun e => !e.2.fresh then stOk else stDenied) (resumePoint s ck (a 10 2))
    | 1 => ans (takeResume s ck (a 10 2) (a 12 2) (a 9 1) (a 16 4) (a 14 2) (a 20 8)) stOk 0
    | 2 => rehost s dest ck (a 10 2) (a 12 2) (a 14 2)
    | k => ans (collGo (collTold s ck k (a 10 2) (a 12 2) (a 16 4) (a 20 8)) ck) stOk 0

/-- RESUME to every host of the context (R425). -/
def sendResume (s : State) (dest : JobTo) (ck ix host lead rc round : Nat) : State :=
  match ctxOf s ck with
  | none => tellTo s dest stDenied 0 []
  | some x =>
    let gen := (x.rehostGen + 1) % 256
    let old := hostOf x ix
    let hosts := (ctxHosts { x with tree := setHost x.tree ix host, lead := lead } ++ [old]).eraseDups
    let hosts := hosts.filter fun h => h = selfNode s || (kfind s.core.routes h).isSome
    tellHosts s { group := 0x0E, verb := 5, part := x.part, dest := dest, obj := ck, stage := 2 } 4 5 (handleOf x) (noteArgs 1 gen ix host lead rc round)
      hosts collResumePart

/-- The new host has admitted a node: the hosts of its tree are asked where it stands, its root's alone where that is another node (R426). -/
def askResume (s : State) (dest : JobTo) (ck ix host lead : Nat) : State :=
  match ctxOf s ck with
  | none => tellTo s dest stDenied 0 []
  | some x =>
    let t := trTree x.tree ix
    let root := rootOf x.desc x.tree t
    let hosts := if root = ix then ((treeNodes x.desc x.tree t).map (hostOf x)).eraseDups else [hostOf x root]
    tellHosts s { group := 0x0E, verb := 5, part := x.part, dest := dest, obj := ck, stage := 1, args := [ix, host, lead] } 4 5 (handleOf x)
      (noteArgs 0 0 ix 0 0 0 0) hosts collResumePart

/-! ## Relayed commands of collectives -/

/-- What a switch does with a relayed COLL command. -/
def collTake (s : State) (dest : JobTo) (b : List Byte) : State :=
  match leField b 1 1 with
  | 1 => if leField b (0x20 + 7) 1 = 1 then collWhere s dest b else collAdmit s dest b
  | 2 => collClosePart s dest b
  | 3 => collOptPart s dest b
  | 5 => collResumePart s dest b
  | _ => tellTo s dest stUnsupported 0 []

/-- The status of the first check that failed at some host: 4, then 5 (R391). -/
def firstBad (l : List Nat) : Nat :=
  if l.contains stNoMapping then stNoMapping + 256 * 4 else if l.contains stDenied then stDenied + 256 * 4
  else if l.contains stBudget then stBudget + 256 * 5 else l.headD stRetry

/-- Every switch has answered a relayed COLL command. -/
def collRelayed (s : State) (r : Relay) : State :=
  let ans := fun (s : State) (st res : Nat) => tellTo s r.dest st res []
  match r.verb, r.stage with
  | 6, _ => wherePlaced s r
  | 1, _ =>
    let id := r.args.headD 0
    let h := mkNodeHandle id (selfNode s) r.part (r.args.getD 1 0)
    if r.bad.isEmpty then ans s stOk h
    else
      let hosts := r.took.map (·.1)
      let s := tellHosts s { group := 0x0E, verb := 2, part := r.part, dest := .nobody, obj := h, stage := 3 } 3 2 h (leBytes 4 3 ++ leBytes 20 0) hosts collClosePart
      ans s (firstBad r.bad) 0
  | 2, 0 =>
    let top := (r.took.map (·.2)).foldl Nat.max 0
    tellHosts s { r with stage := 1, took := [], bad := [], tags := [] } 3 2 r.obj (leBytes 4 1 ++ leBytes 8 top ++ leBytes 12 0) r.args collClosePart
  | 2, _ => ans s stOk 0
  | 3, 0 =>
    if !r.bad.isEmpty then ans s (r.bad.headD stDenied) 0
    else
      let top := (r.took.map (·.2)).foldl Nat.max 0
      let nodes := r.took.map (·.1)
      let a := leBytes 8 r.obj ++ leBytes 4 1 ++ leBytes 4 top ++ leBytes 16 0
      let (s, id) := newRelay s { r with stage := 1, took := [], bad := [], tags := [], args := [top] }
      let s := relaySend s id 4 0x0E 3 r.part 0 a r.rest nodes
      hereToo s nodes fun s => collOptPart s (.relay id (selfNode s)) ((xchgPayload 4 0x0E 3 r.part 0 a).drop 8 ++ r.rest)
  | 3, _ => ans s (r.bad.headD stOk) (r.args.headD 0)
  | 5, 0 =>
    if r.bad.isEmpty then askResume s r.dest r.obj (r.args.headD 0) (r.args.getD 1 0) (r.args.getD 2 0) else ans s (r.bad.headD stBudget) 0
  | 5, 1 =>
    -- the lowest round that a node of the tree has not finished; without an answer, what this switch knows
    let ix := r.args.headD 0
    let got := match r.took.map (·.2) with
      | [] => resumePoint s r.obj ix
      | l => l.foldl Nat.min (l.headD 0)
    sendResume s r.dest r.obj ix (r.args.getD 1 0) (r.args.getD 2 0) (got % 2 ^ 32) (got / 2 ^ 32)
  | _, _ => ans s (r.bad.headD stOk) 0

/-- A switch is lost (R424, R429): its logical nodes are re-hosted on their spares, an optimizer that had a root there fails. -/
def collLost (s : State) (node : Nat) : State :=
  s.fab.ctxs.foldl (fun s e =>
    let x := e.2
    let ixs := (natRange 0 (cdNodes x.desc)).filter fun i => hostOf x i = node
    if cdOpt x.desc ≠ 0 ∧ (ixs.any fun i => trRoot x.tree i) = true then forceClose s e.1 3
    else if x.lead ≠ selfNode s then s
    else ixs.foldl (fun s i =>
      let sp := trSpare x.tree i
      if sp = noNode ∨ sp = node then s else rehost s .nobody e.1 i sp (selfNode s)) s) s

/-- Nodes of this host are re-hosted, as their coordinators direct (R430, R776): each to the host that `to_` names. -/
def rehostHere (s : State) (to_ : CollCtx → CollNode → Option Nat) : State :=
  s.fab.nodes.foldl (fun s e =>
    match (ctxOf s e.2.ctx).bind fun x => (to_ x e.2).map fun h => (x, h) with
    | none => s
    | some (x, h) =>
      if x.lead = selfNode s then rehost s .nobody e.2.ctx e.2.ix h (selfNode s)
      else tellHosts s { group := 0x0E, verb := 5, part := x.part, dest := .nobody, obj := e.2.ctx, stage := 2 } 4 5 (handleOf x)
        (noteArgs 2 0 e.2.ix h x.lead 0 0) [x.lead] collResumePart) s

/-- A region of this host is fenced (R430): each node is re-hosted here, but a leaf with members on the region's ports that have an ALT_NODE on its
SPARE (R388). -/
def collFence (s : State) (r : Nat) : State := rehostHere s fun x n =>
  let t := trTree x.tree n.ix
  let sp := trSpare x.tree n.ix
  let moves := sp ≠ noNode && (leafMembers x n.ix).any fun m =>
    memAlt x.members m ≠ noNode && (lportOfNode s (viaNode x m t)).isSome && memberRegion s x m t = r
  some (if moves then sp else selfNode s)

/-- A retired block held scratch of contexts: their nodes here are re-hosted here (R776). -/
def collBlock (s : State) (r : Nat) : State :=
  let ctxs := (s.fab.nodes.filter fun e => kget e.2.areas r 0 ≠ 0).map (·.2.ctx)
  rehostHere s fun _ n => if ctxs.contains n.ctx then some (selfNode s) else none

/-- T1 frames in use in a region. -/
def t1Load (s : State) (r : Nat) : Nat := ((t1Taken s).filter fun f => t1Region f = r).length

/-- The least loaded unfenced region but one. -/
def lightest (s : State) (but : Nat) : Option Nat :=
  ((natRange 0 16).filter fun r => r ≠ but && !isFenced s r).foldl (fun (m : Option Nat) r => match m with
    | some q => if t1Load s r < t1Load s q then some r else some q
    | none => some r) none

/-- A boundary at an optimizer's root: the frames of a slow region's chunks move (R571, R434), where the region they move to has room for an owner's
area (R409, R435). -/
def moveShard (s : State) (nk : Nat) : State :=
  match (cnodeOf s nk).bind fun n => (ctxOf s n.ctx).map fun x => (n, x) with
  | none => s
  | some (n, x) =>
    if !n.lag.due then s
    else
      let s := modNode s nk fun n => { n with lag := { n.lag with due := false } }
      match slowOnes s n.lag with
      | [] => s
      | r :: _ =>
        match shardFrames s x.part x.desc (trTree x.tree n.ix), lightest s r with
        | .inl (ws :: rest), some q =>
          if regField s rPoolPolicy 10 6 = 0 then bump s .rebalanceHeld
          else
            let area := cdSlots x.desc * cdChunk x.desc * (cdAcc x.desc).bytes + (if kget n.areas q 0 = 0 then 65536 else 0)
            let new := !n.owners.contains q
            if new && decide (spareBlocks s q < ceilDiv (collScratch s q + area) 524288) then s else
            let mine := ((ws.zipIdx).filter fun w => goingTo s w.1 = some r).flatMap fun w => w.1 :: rest.filterMap fun l => l[w.2]?
            let moved := (mine.eraseDups).foldl (fun (a : State × Nat) f =>
              if (kfind a.1.mem.moves f).isSome then a
              else match pickRegion a.1 q with
                | some l => (startMove (bumpFree a.1) f 0 .t1 { loc := l } none, a.2 + 1)
                | none => a) (s, 0)
            countMoves (modNode moved.1 nk fun n =>
              { n with lag := { n.lag with slowFor := kdel n.lag.slowFor r }
                       owners := if new then (natRange 0 16).filter fun g => g = q || n.owners.contains g else n.owners
                       areas := if new then kset n.areas q (kget n.areas q 0 + area) else n.areas }) x.part moved.2
        | _, _ => s

/-- Collectives go on: binds, rounds, closings, re-balancing. -/
def collFinish (s : State) : State :=
  let s := s.fab.ctxs.foldl (fun s e => goClose (collGo (goBind s e.1) e.1) e.1) s
  s.fab.nodes.foldl (fun s e => moveShard s e.1) s

end Sys2Proof.Machine
end

