-- ==== Sys2Proof/Machine/EmbCore.lean ====
section
/-! DEFINITION. Machine/EmbCore.lean: embedding tables: tables and rows (10_embeddings.md R441 to R455), finding rows, GATHER and SCATTER
(R456 to R471), applying a step (R472 to R474). -/
namespace Sys2Proof.Machine

/-! ## Tables (R441 to R449) -/

/-- Fields of a table descriptor (R442). -/
def tdBits (d : List Byte) : Nat := leField d 0 1 % 4
def tdOpt (d : List Byte) : Nat := leField d 0 1 / 4 % 4
def tdShards (d : List Byte) : Nat := leField d 1 1 % 128
def tdDim (d : List Byte) : Nat := leField d 2 2 % 8192
def tdUpd (d : List Byte) : Nat := leField d 4 4
def tdRows (d : List Byte) : Nat := leField d 8 5
def tdLr (d : List Byte) : Nat := leField d 0x18 4
def tdEps (d : List Byte) : Nat := leField d 0x1C 4
def tdContrib (d : List Byte) : Nat := leField d 0x20 2 % 2 ^ 15
def tdHot (d : List Byte) : Nat := leField d 0x24 3 % 2 ^ 17
def tdMove (d : List Byte) : Nat := leField d 0x28 3 % 2 ^ 21

/-- Fields of entry k of a shard table (R443), and the end of the shard's rows (R444). -/
def teHost (t : List Byte) (k : Nat) : Nat := leField t (32 * k) 2 % 2 ^ 15
def teAst (t : List Byte) (k : Nat) : Nat := leField t (32 * k + 2) 2 % 2 ^ 12
def teBase (t : List Byte) (k : Nat) : Nat := leField t (32 * k + 8) 5
def teVa (t : List Byte) (k : Nat) : Nat := leField t (32 * k + 16) 8
def teEnd (d t : List Byte) (k : Nat) : Nat := if k + 1 < tdShards d then teBase t (k + 1) else tdRows d

/-- Bytes of a row's codes, of a slot, and of a row (R451). -/
def codeBytes (d : List Byte) : Nat := if tdBits d = 0 then tdDim d else tdDim d / 2
def slotBytes (d : List Byte) : Nat := ceilDiv (codeBytes d) 64 * 64
def rowStride (d : List Byte) : Nat := 64 + 2 * slotBytes d

/-- Check 1 of R447 on the descriptor (R441, R442). -/
def tableDescOk (d : List Byte) : Bool :=
  let opt := tdOpt d
  let fin := fun (w : Nat) => (fp32.decode w).isFinite
  decide (tdBits d ≤ 1) && opt ≠ 3 && leField d 0 1 / 16 = 0 && decide (1 ≤ tdShards d ∧ tdShards d ≤ 64) && leField d 1 1 / 128 = 0 &&
  decide (tdDim d ≤ 4096) && (tdBits d = 0 || tdDim d % 2 = 0) && leField d 2 2 / 8192 = 0 && decide (tdUpd d ≤ 1048576) &&
  leField d 0xD 3 = 0 && fin (tdLr d) && fin (tdEps d) && (opt ≠ 0 || tdLr d = 0) && (opt = 2 || tdEps d = 0) &&
  decide (tdContrib d ≤ 24576) && leField d 0x20 2 / 2 ^ 15 = 0 && leField d 0x22 2 = 0 && decide (tdHot d ≤ 65536) &&
  leField d 0x24 4 / 2 ^ 17 = 0 && decide (tdMove d ≤ 1048576) && leField d 0x28 8 / 2 ^ 21 = 0 && leField d 0x30 16 = 0

/-- Check 1 of R447 on the shard table (R443, R444). -/
def tableShardsOk (d t : List Byte) : Bool :=
  (natRange 0 (tdShards d)).all fun k =>
    leField t (32 * k) 2 / 2 ^ 15 = 0 && leField t (32 * k + 2) 2 / 2 ^ 12 = 0 && leField t (32 * k + 4) 4 = 0 &&
    leField t (32 * k + 13) 3 = 0 && teVa t k % 64 = 0 && leField t (32 * k + 24) 8 = 0 &&
    (if k = 0 then teBase t 0 = 0 else decide (teBase t (k - 1) ≤ teBase t k)) && decide (teBase t k ≤ teEnd d t k)

def tableKey (coord id : Nat) : Nat := coord * 16384 + id
def tableOf (s : State) (tk : Nat) : Option EmbTable := kfind s.fab.tables tk
def modTable (s : State) (tk : Nat) (f : EmbTable → EmbTable) : State := modFab s fun x => { x with tables := kmod x.tables tk f }
def bumpEmb (s : State) (tk k n : Nat) : State := bumpBy s (.emb tk k) 48 n
def handleOfTable (t : EmbTable) : Nat := mkTableHandle t.id t.coord t.part t.gen

/-- The table of a handle, where its entry here is current (R449). -/
def handleTable (s : State) (a : Nat) : Option (Nat × EmbTable) :=
  let h := tableHandle a
  let tk := tableKey h.2.1 h.1
  match tableOf s tk with
  | some t => if t.part = h.2.2.1 ∧ t.gen = h.2.2.2 ∧ a < 2 ^ 48 then some (tk, t) else none
  | none => none

/-- The shard that holds a row (R444), and the table's shard hosts. -/
def shardOf (t : EmbTable) (row : Nat) : Option Nat :=
  (natRange 0 (tdShards t.desc)).find? fun k => decide (teBase t.shards k ≤ row ∧ row < teEnd t.desc t.shards k)
def shardHosts (d t : List Byte) : List Nat := ((natRange 0 (tdShards d)).map (teHost t)).eraseDups

/-- The home of a row, and its present source (orders 3 and 4 of R456). -/
def rowHome (t : EmbTable) (row : Nat) : Nat := ((shardOf t row).map (teHost t.shards)).getD noNode
def rowSource (t : EmbTable) (row : Nat) : Nat := (kfind t.redirects row).getD (rowHome t row)

/-- Frames that a switch reserves for a table (R446). -/
def tableFrames (s : State) (d t : List Byte) : Nat :=
  (if (shardHosts d t).contains (selfNode s) then
    ceilDiv (2 * (tdUpd d * (64 + 40 * tdDim d)) + tdMove d * rowStride d) frameBytes else 0) +
  ceilDiv (tdHot d * rowStride d) frameBytes
abbrev tableOwner : Nat := 2 ^ 40

/-! ## Rows (R451 to R455) -/

/-- Where a home row lies: AST and address. -/
def rowVa (t : EmbTable) (row : Nat) : Nat × Nat :=
  match shardOf t row with
  | some k => (teAst t.shards k, teVa t.shards k + (row - teBase t.shards k) * rowStride t.desc)
  | none => (0, 0)

/-- Pool ranges of n bytes at an offset of a home row, where its pages are mapped. -/
def rowRanges (s : State) (t : EmbTable) (row off n : Nat) : Option (List (Nat × Nat)) :=
  let a := rowVa t row
  match lookPages s t.part a.1 true (a.2 + off) n with
  | .inl ps => some (vaPool ps a.1 (a.2 + off) n)
  | .inr _ => none

def getRanges (s : State) (rs : List (Nat × Nat)) : List Byte := rs.flatMap fun r => getPool s r.1 r.2
def putRanges (s : State) (tc : BitVec 3) (rs : List (Nat × Nat)) (b : List Byte) (bg : Bool := false) : State :=
  (rs.foldl (fun (a : State × Nat) r => (enginePut tc a.1 r.1 (sliceBytes b a.2 r.2) bg, a.2 + r.2)) (s, 0)).1

/-- A header with a reserved bit set (R454). -/
def badHeader (h : List Byte) : Bool := leField h 0 4 / 4 ≠ 0 || leField h 20 44 ≠ 0
/-- The slot in use, and whether the row is present (R452, R454). -/
def rowActive (h : List Byte) : Nat := leField h 0 1 / 2 % 2
def rowValid (h : List Byte) : Bool := (leField h 0 1).testBit 0 && !badHeader h

/-- A row as its header and its active slot's codes hold it. -/
def rowCopy (h codes : List Byte) : RowCopy :=
  let o := 8 + 4 * rowActive h
  let p := 8 + 4 * (1 - rowActive h)
  { valid := rowValid h, version := leField h 4 4, scale := leField h o 2, offset := leField h (o + 2) 2, g := leField h 16 4, codes := codes,
    active := rowActive h, scaleOld := leField h p 2, offsetOld := leField h (p + 2) 2 }

/-- The header line of a row (R452). -/
def rowHeader (r : RowCopy) : List Byte :=
  let new := leBytes 2 r.scale ++ leBytes 2 r.offset
  let old := leBytes 2 r.scaleOld ++ leBytes 2 r.offsetOld
  leBytes 4 ((if r.valid then 1 else 0) + 2 * r.active) ++ leBytes 4 r.version ++ (if r.active = 0 then new ++ old else old ++ new) ++
    leBytes 4 r.g ++ leBytes 44 0

/-- A row after a swap (R455): ACTIVE flips, the new slot has its scale and offset, VERSION advances. Without codes the slot is left. -/
def swapped (r : RowCopy) (valid : Bool) (scale offset g : Nat) (codes : Option (List Byte)) : RowCopy :=
  { valid := valid, version := (r.version + 1) % 2 ^ 32, scale := scale, offset := offset, g := g, codes := codes.getD r.codes,
    active := 1 - r.active, scaleOld := r.scale, offsetOld := r.offset }

/-- Value d of a row, formed exactly (R453). -/
def rowVal (d : List Byte) (r : RowCopy) (k : Nat) : Val :=
  let c := if tdBits d = 0 then leField r.codes k 1 else fieldAt r.codes 4 k
  ((Val.ofNat c).mul (fp16.decode r.scale)).add (fp16.decode r.offset)
def rowVals (d : List Byte) (r : RowCopy) : List Val := (natRange 0 (tdDim d)).map (rowVal d r)

/-- What a look at a row held here comes to, on the lines of its home place that have arrived. -/
inductive RowGot where
  | need (ranges : List (Nat × Nat))
  /-- the row is not here, or nothing maps its place -/
  | gone
  | got (r : RowCopy) (bad : Bool)
deriving DecidableEq, Repr

/-- A row held here: for another shard, or at its home, where its header line and then, where `codes` asks for them, those of its active
slot are read (R451 to R454). -/
def rowGot (s : State) (t : EmbTable) (j : Job) (row : Nat) (codes : RowCopy → Bool) : RowGot :=
  match kfind t.held row with
  | some r => .got r false
  | none =>
    if rowHome t row ≠ selfNode s then .gone
    else match rowRanges s t row 0 64 with
      | none => .gone
      | some rs =>
        if !(missingLines j rs).isEmpty then .need (joinLines (missingLines j rs))
        else
          let h := cachedRanges j rs
          if !codes (rowCopy h []) then .got (rowCopy h []) (badHeader h)
          else match rowRanges s t row (64 + rowActive h * slotBytes t.desc) (codeBytes t.desc) with
            | none => .gone
            | some cs =>
              if (missingLines j cs).isEmpty then .got (rowCopy h (cachedRanges j cs)) (badHeader h) else .need (joinLines (missingLines j cs))

/-- Parts of GATHERs, and readings for a hot set, in progress here that read a row (R455, R481). -/
def partsReading (s : State) (tk row : Nat) : List Job :=
  (s.fab.jobs.map (·.2)).filter fun j => (j.kind = .gatherPart tk || j.kind = .rowsRead tk) && j.parts.any fun x => x.items.contains row

/-- A part that has come to a row's home before a swap reads the old row (R474): where it has not read the header yet, it keeps the old one. -/
def keepHeader (s : State) (tk row : Nat) (rs : List (Nat × Nat)) (h : List Byte) : State :=
  modFab s fun f => { f with jobs := f.jobs.map fun (e : Nat × Job) =>
    if (e.2.kind = .gatherPart tk || e.2.kind = .rowsRead tk) && (e.2.parts.any fun x => x.items.contains row) then
      (e.1, { e.2 with cache := rs.foldl (fun m r => cacheLines m (r.1 / 64) h 1) e.2.cache })
    else e }

/-- Swap a row (R455): the new codes into the slot not in use, then the whole header line; `codes` none leaves the slot. -/
def swapRow (s : State) (tk : Nat) (t : EmbTable) (row : Nat) (valid : Bool) (scale offset g : Nat) (codes : Option (List Byte)) : State :=
  let s := bumpEmb s tk 10 1
  match kfind t.held row with
  | some r => modTable s tk fun t => { t with held := kset t.held row (swapped r valid scale offset g codes) }
  | none =>
    match rowRanges s t row 0 64 with
    | none => s
    | some rs =>
      let h := getRanges s rs
      let r := swapped (rowCopy h []) valid scale offset g codes
      let s := keepHeader s tk row rs h
      let s := match codes, rowRanges s t row (64 + r.active * slotBytes t.desc) (codeBytes t.desc) with
        | some c, some cs => putRanges s 5 cs c
        | _, _ => s
      putRanges s 5 rs (rowHeader r)

/-- A GATHER part in progress here chose the slot that a swap of the row would write (R455). -/
def slotBusy (s : State) (tk : Nat) (t : EmbTable) (row : Nat) : Bool :=
  match kfind t.held row, rowRanges s t row 0 64 with
  | none, some rs =>
    (partsReading s tk row).any fun j =>
      missingLines j rs = [] && rowValid (cachedRanges j rs) && rowActive (cachedRanges j rs) ≠ rowActive (getRanges s rs)
  | _, _ => false

/-- Work on a row is under way here: its header or its codes are being read, or written behind earlier writes of their lines. -/
def rowWorking (s : State) (tk : Nat) (t : EmbTable) (row : Nat) : Bool :=
  (s.fab.jobs.any fun e => match e.2.kind with
    | .row k r _ => k = tk && r = row
    | _ => false) ||
  (((rowRanges s t row 0 64).getD []).any fun r => s.mem.ops.any fun o => o.2.origin = .put && !o.2.writing &&
    decide (o.2.pool < r.1 + r.2 ∧ r.1 < o.2.pool + o.2.len))

/-! ## Applying a step (R472) -/

/-- What the apply of a row comes to. -/
inductive RowApplied where
  | missing
  | nonfinite
  | new (scale offset g : Nat) (codes : List Byte)
deriving DecidableEq, Repr

/-- Round to FP16, saturating. -/
def rnd16 (v : Val) : Nat := fp16.encode rne true v

/-- The pseudocode of R472 on a row and its records. `lo0` and `hi0` stand for the least and the largest of no values. -/
def applyRow (d : List Byte) (r : RowCopy) (recs : List Nat) (lo0 hi0 : Val) : RowApplied :=
  if !r.valid then .missing
  else
    let dim := tdDim d
    let lr := fp32.decode (tdLr d)
    let q : Nat := if tdBits d = 0 then 255 else 15
    let w0 := (rowVals d r).map rnd32
    let g := (natRange 0 dim).map fun k => rnd32 (accVal acc320 (recs.getD k 0))
    let sq := (g.map fun x => x.mul x).foldl Val.add .zero
    let qv := if dim = 0 then Val.zero else rnd32 (sq.divFin (Val.ofNat dim))
    let gAcc := if tdOpt d = 2 then rnd32 ((fp32.decode r.g).add qv) else fp32.decode r.g
    let a := rcpF (rnd32 ((sqrtF gAcc).add (fp32.decode (tdEps d))))
    let w := (w0.zip g).map fun e =>
      if tdOpt d = 1 then rnd32 (e.1.sub (lr.mul e.2)) else if tdOpt d = 2 then rnd32 (e.1.sub ((lr.mul e.2).mul a)) else e.1
    if !(g.all Val.isFinite && w.all Val.isFinite && gAcc.isFinite) then .nonfinite
    else
      let lo := if w.isEmpty then lo0 else w.foldl Val.min (w.headD .zero)
      let hi := if w.isEmpty then hi0 else w.foldl Val.max (w.headD .zero)
      let off := rnd16 lo
      let sc := rnd16 ((hi.sub lo).divFin (Val.ofNat q))
      let code := fun (x : Val) =>
        if (fp16.decode sc).isZero then 0 else (roundInt rne 0 q ((x.sub (fp16.decode off)).divFin (fp16.decode sc))).toNat
      .new sc off (if tdOpt d = 2 then fp32.encode rne false gAcc else r.g) (packFields (if tdBits d = 0 then 8 else 4) (w.map code))

/-! ## Update steps at a shard host (R469 to R471) -/

/-- A row's swaps wait: it is moving, or its replacements are queued before (R477, R482). -/
def rowMoving (t : EmbTable) (row : Nat) : Bool := t.moves.any fun m => m.row = row

/-- SCATTER parts of a step that have come to this host and are not in its buffer yet (R469). -/
def partsOpen (s : State) (tk step : Nat) : Bool :=
  s.fab.jobs.any fun e => e.2.kind = .scatterPart tk && leField e.2.p.payload 0 4 = step

/-- The hosts' times for the step that ends here (R571): at a coordinator that is a shard host. What another host took no message tells it, and is an
open choice (log entry 71). -/
def tableTimes (s : State) (t : EmbTable) : List (Nat × Nat) :=
  let hosts := shardHosts t.desc t.shards
  if t.coord ≠ selfNode s ∨ !hosts.contains t.coord then []
  else (hosts.zipIdx).map fun h => (h.1, if h.1 = t.coord then s.clk - t.began else Config.freeNat (s.freeCtr + h.2))

/-- The current step is applied, and the next one is current (R471); its boundary may move rows (R571). -/
def stepEnds (s : State) (tk : Nat) (t : EmbTable) : State :=
  let times := tableTimes s t
  let l := roundLag s { t.lag with took := times }
  modTable { s with freeCtr := s.freeCtr + times.length } tk fun t =>
    { t with applying := false, lastApplied := t.doing, bufs := kdel t.bufs t.step, step := (t.step + 1) % 2 ^ 32, lag := l }

/-- A closed step begins to be applied once the parts accepted for it are in its buffer, and one with nothing left to apply ends (R471). -/
def stepGo (s : State) (tk : Nat) : Nat → State
  | 0 => s
  | fuel + 1 =>
    match tableOf s tk with
    | none => s
    | some t =>
      if t.applying then
        if t.todo.isEmpty && !partsOpen s tk t.step then
          stepGo (stepEnds s tk t) tk fuel
        else s
      else match kfind t.bufs t.step with
        | some b => if b.closed && !partsOpen s tk t.step then
            stepGo (modTable s tk fun t => { t with applying := true, todo := b.rows.map (·.1), doing := 0, began := s.clk }) tk fuel
          else s
        | none => s

/-- What the work on a row of a table asks for: an access of the optimizer, TC 5 (R143). -/
def rowReq (s : State) (t : EmbTable) : Req := { snoopedReq s 0 with tc := 5, vc := 4, partition := BitVec.ofNat 10 t.part }

/-- A row of the step that is being applied is done with: its record goes. -/
def rowApplied (s : State) (tk row n : Nat) : State :=
  stepGo (modTable s tk fun t =>
    { t with todo := t.todo.erase row, doing := t.doing + n, bufs := kmod t.bufs t.step fun u => { u with rows := kdel u.rows row } }) tk 8

/-- Apply a row, as it stands, in the step that is being applied (R472). -/
def applyNow (s : State) (tk : Nat) (t : EmbTable) (row : Nat) (r : RowCopy) : State :=
  let recs := ((kget t.bufs t.step {}).rows.find? fun e => e.1 = row).map (·.2)
  let s0 := bumpFree (bumpFree s)
  let free := fun (s : State) => fp32.decode (freeNat s % 2 ^ 31 % (2 ^ 23 * 254))
  match applyRow t.desc r (recs.getD []) (free s) (free (bumpFree s)) with
  | .missing => rowApplied (bumpEmb s0 tk 8 1) tk row 0
  | .nonfinite => rowApplied (bumpEmb s0 tk 9 1) tk row 0
  | .new sc off g codes => rowApplied (swapRow s0 tk t row true sc off g (some codes)) tk row 1

/-! ## Lists of GATHER and SCATTER (R460, R461, R467, R468) -/

def pad8 (n : Nat) : Nat := ceilDiv n 8 * 8

/-- Fields of a GATHER's header. -/
def gBags (b : List Byte) : Nat := leField b 0 4
def gIdx (b : List Byte) : Nat := leField b 4 4
def gPool (b : List Byte) : Nat := leField b 8 1 % 8
def g64 (b : List Byte) : Bool := (leField b 8 1).testBit 3
def gNoHot (b : List Byte) : Bool := (leField b 8 1).testBit 4
def gPart (b : List Byte) : Bool := (leField b 8 1).testBit 7
def gFmt (b : List Byte) : Nat := leField b 9 1 % 32
def gList (b : List Byte) : Nat := leField b 0x10 8
def gOut (b : List Byte) : Nat := leField b 0x18 8
def gWide (b : List Byte) : Nat := if g64 b then 8 else 4
/-- Bytes of a GATHER's lists. -/
def gListBytes (b : List Byte) : Nat :=
  pad8 (4 * gBags b) + pad8 (gWide b * gIdx b) + (if gPool b = 3 then pad8 (4 * gIdx b) else 0)
/-- A GATHER's header keeps R460. -/
def gatherFormOk (p : Req) : Bool :=
  let b := p.payload
  decide (32 ≤ b.length) && decide (gPool b ≤ 4) && bits (leField b 8 1) 5 2 = 0 && (gFmt b = 0xC || gFmt b = 0xA || gFmt b = 0xB) &&
  leField b 9 1 / 32 = 0 && leField b 0xA 6 = 0 && (gPool b ≠ 0 || gBags b = 0) &&
  b.length = 32 + (if gList b = 0 then gListBytes b else 0)

/-- Index words, bag ends and weights of lists. -/
def gEnd (_b l : List Byte) (k : Nat) : Nat := leField l (4 * k) 4
def gIndex (b l : List Byte) (i : Nat) : Nat := leField l (pad8 (4 * gBags b) + gWide b * i) (gWide b)
def gWeight (b l : List Byte) (i : Nat) : Nat := leField l (pad8 (4 * gBags b) + pad8 (gWide b * gIdx b) + 4 * i) 4
/-- The ends do not decrease and the last is INDICES (R461). -/
def gEndsOk (b l : List Byte) : Bool :=
  gPool b = 0 || ((natRange 0 (gBags b)).all (fun k => k = 0 || decide (gEnd b l (k - 1) ≤ gEnd b l k)) &&
    (if gBags b = 0 then 0 else gEnd b l (gBags b - 1)) = gIdx b)
/-- The bag of each index word, in order; under NONE each is its own. Words beyond the last end do not exist. -/
def gBagOf (b l : List Byte) : List Nat :=
  if gPool b = 0 then natRange 0 (gIdx b)
  else (natRange 0 (gBags b)).flatMap fun k => List.replicate (gEnd b l k - (if k = 0 then 0 else gEnd b l (k - 1))) k
/-- Bags of the output. -/
def gOuts (b : List Byte) : Nat := if gPool b = 0 then gIdx b else gBags b

/-- A term of MAX or NONE as a record. VALUE has no −0, which R463 tells from +0: such a record stands for it by −2^156, which no term reaches
(DESIGN CHOICE, log entry 173). -/
def termRec : Val → Nat
  | .fin true 0 _ _ => 2 ^ 316
  | v => (accAdd acc320 0 v).r
/-- The term that such a record holds. -/
def termOf (r : Nat) : Val := if r = 2 ^ 316 then .fin true 0 1 0 else accVal acc320 r

/-- Records of a bag from its terms: weight and row (R458, R463). -/
def bagRecs (d : List Byte) (pool : Nat) (terms : List (Val × RowCopy)) : List Nat :=
  (natRange 0 (tdDim d)).map fun k =>
    let ts := terms.map fun e => e.1.mul (rowVal d e.2 k)
    if pool = 4 || pool = 0 then termRec (ts.foldl Val.max (ts.headD .zero)) else accSum acc320 ts

/-- Bag partials of terms: bag, weight, row (R458). -/
def bagPartials (d : List Byte) (pool : Nat) (terms : List (Nat × Val × RowCopy)) : List Byte :=
  ((terms.map (·.1)).eraseDups).flatMap fun k =>
    let mine := terms.filter fun e => e.1 = k
    leBytes 8 (1 + 2 ^ 32 * mine.length) ++ (bagRecs d pool (mine.map (·.2))).flatMap (leBytes 40)

/-- Records of two parts of a bag together. -/
def joinRecs (pool : Nat) (a b : List Nat) : List Nat :=
  if a.isEmpty then b else if b.isEmpty then a
  else (a.zip b).map fun e => if pool = 4 then termRec ((termOf e.1).max (termOf e.2)) else accMerge acc320 e.1 e.2

/-- A bag's results from its records (R463, R464): n is its count of index words. -/
def bagOut (d : List Byte) (pool fmt n : Nat) (recs : List Nat) : List Nat :=
  if n = 0 then List.replicate (tdDim d) 0
  else recs.map fun r =>
    if pool = 2 && accClean acc320 r then elemBits fmt rne false ((accVal acc320 r).divFin (Val.ofNat n))
    else if pool = 0 || pool = 4 then elemBits fmt rne false (termOf r)
    else accEmit acc320 r fmt

/-! ## Parts (R456 to R459, R506) -/

/-- Cut a host's index words where one packet cannot carry more of them (R52). -/
def cutFits (fits : List Nat → Bool) : List Nat → List Nat → List (List Nat)
  | [], cur => if cur.isEmpty then [] else [cur]
  | i :: is, cur => if cur.isEmpty || fits (cur ++ [i]) then cutFits fits is (cur ++ [i]) else cur :: cutFits fits is [i]

/-- One part for each host (R457); more only where R52's packet cannot carry a host's index words (DESIGN CHOICE, log entry 174). -/
def groupParts (l : List (Nat × Nat)) (fits : List Nat → Bool) : List JobPart :=
  ((l.map (·.1)).eraseDups).flatMap fun h =>
    let ps := (l.filter fun e => e.1 = h).map (·.2)
    (if fits ps then [ps] else cutFits fits ps []).map fun c => { host := h, items := c }

/-- Send a part (R457): a request keeps its source and tag, and the switch numbers it as its own (R94); a part of a command or of a host
has the switch's own. -/
def sendRootPart (s : State) (id ix host : Nat) (op : Op) (payload : List Byte) : State :=
  match jobOf s id with
  | none => s
  | some j =>
    let s := modJob s id fun j => { j with parts := j.parts.mapIdx fun i x => if i = ix then { x with sent := true } else x }
    match j.dest with
    | .origin (.here _ _) _ =>
      let q : Req := { j.p with dst := BitVec.ofNat 15 host, length := BitVec.ofNat 24 payload.length, esc := false,
                                seq := BitVec.ofNat 32 (ownNum s host), flags := 0, payload := payload }
      sendPkt (bumpOwn s host) (schedPort j.p.lport) j.p.lport false (.req op q)
    | _ => engineSend s (jobPort j) op j.p host payload.length j.p.address.toNat 0 payload (.part id ix)

/-- The parts that may go now: one at a time to each host. -/
def partsDue (j : Job) : List Nat :=
  let busy := (j.parts.filter fun x => x.sent && x.status.isNone).map (·.host)
  let due := (j.parts.zipIdx).filter fun e => !e.1.sent && e.1.status.isNone && !busy.contains e.1.host
  due.foldl (fun l e => if l.any fun i => ((j.parts[i]?).map (·.host)) = some e.1.host then l else l ++ [e.2]) []

/-- Every part is answered; the status of the one with the lowest first item that failed (R459). -/
def rootDone (j : Job) : Bool := j.parts.all fun x => x.status.isSome
def rootStatus (j : Job) : Nat :=
  ((j.parts.foldl (fun (b : Option (Nat × Nat)) x =>
    let st := x.status.getD 0
    if st = stOk ∨ st = stPartial then b
    else match b with
      | some e => if e.1 ≤ x.items.headD (2 ^ 40) then some e else some (x.items.headD (2 ^ 40), st)
      | none => some (x.items.headD (2 ^ 40), st)) none).map (·.2)).getD stOk

/-- A part answered. -/
def setPart (s : State) (id ix status result : Nat) (data : List Byte) : State :=
  modJob s id fun j => { j with parts := j.parts.mapIdx fun i x =>
    if i = ix then { x with sent := true, status := some status, result := result, segs := [(0, data)] } else x }

/-- Plain bytes of a part's segments, in order of offset. -/
def partBytes (x : JobPart) : List Byte :=
  (x.segs.foldl (fun (m : List (Nat × Byte)) e => writeBytes m e.1 e.2) []) |> fun m => readBytes m 0 x.got

/-! ## GATHER at its ingress (R456 to R466) -/

/-- The sources of index words: each position with the default row, a replica, or a host. -/
inductive RowSrc where
  | dflt
  | replica (r : RowCopy)
  | host (h : Nat)
deriving DecidableEq, Repr
def srcOf (t : EmbTable) (hot : Bool) (index : Nat) : RowSrc :=
  if tdRows t.desc ≤ index then .dflt
  else match hot, kfind t.replicas index with
    | true, some r => if r.valid then .replica r else .host (rowSource t index)
    | _, _ => .host (rowSource t index)

/-- The payload of a part of a GATHER. -/
def gatherPartPayload (b l : List Byte) (items : List Nat) : List Byte :=
  let bag := gBagOf b l
  let mine := items.map fun i => bag.getD i 0
  let ends := if gPool b = 0 then [] else (mine.eraseDups).map fun k => (mine.takeWhile fun m => decide (m ≤ k)).length
  let w0 := leField b 8 1
  let words := fun (n : Nat) (f : Nat → Nat) => items.flatMap fun i => leBytes n (f i)
  let pad := fun (x : List Byte) => x ++ leBytes (pad8 x.length - x.length) 0
  leBytes 4 ends.length ++ leBytes 4 items.length ++ leBytes 1 (w0 % 128 + 128) ++ leBytes 1 (leField b 9 1) ++ leBytes 22 0 ++
    pad (ends.flatMap (leBytes 4)) ++ pad (words (gWide b) (gIndex b l)) ++ (if gPool b = 3 then pad (words 4 (gWeight b l)) else [])

/-- A row as it travels: its index, header fields and codes. -/
def rowImage (row : Nat) (r : RowCopy) : List Byte :=
  leBytes 8 row ++ leBytes 4 ((if r.valid then 1 else 0) + 2 * r.active) ++ leBytes 4 r.version ++ leBytes 2 r.scale ++ leBytes 2 r.offset ++
    leBytes 4 r.g ++ leBytes 2 r.scaleOld ++ leBytes 2 r.offsetOld ++ leBytes 4 0 ++ r.codes
def imageRow (d b : List Byte) : Nat × RowCopy :=
  (leField b 0 8, { valid := leField b 8 4 % 2 = 1, active := leField b 8 4 / 2, version := leField b 12 4, scale := leField b 16 2,
                    offset := leField b 18 2, g := leField b 20 4, scaleOld := leField b 24 2, offsetOld := leField b 26 2,
                    codes := sliceBytes b 32 (codeBytes d) })
def imageBytes (d : List Byte) : Nat := 32 + codeBytes d

/-- Bytes of the bag partials that answer a part. -/
def partialBytes (d : List Byte) (b l : List Byte) (items : List Nat) : Nat :=
  let bag := gBagOf b l
  ((items.map fun i => bag.getD i 0).eraseDups).length * (8 + 40 * tdDim d)

/-- A part with these index words fits: its lists one packet, its bag partials the offsets of a response (R52, R78). -/
def gatherFits (d b l : List Byte) (items : List Nat) : Bool :=
  let ends := if gPool b = 0 then 0 else ((items.map fun i => (gBagOf b l).getD i 0).eraseDups).length
  decide (32 + pad8 (4 * ends) + pad8 (gWide b * items.length) + (if gPool b = 3 then pad8 (4 * items.length) else 0) ≤ 65536) &&
    decide (partialBytes d b l items < 2 ^ 24)

/-- The library instance of a partition that carries a program's steps, and a block of it. -/
def libBlock (s : State) (part number : Nat) (rs : List Nat) : Option Nat × Option Nat :=
  match libInst s part number with
  | some i => (some i, someBlock s i rs)
  | none => (none, none)

/-- A GATHER part reaches its host (R457, R458): its rows' pages are looked up once, and rows held for other shards are taken as they stand
(R474). -/
def startGatherPart (s : State) (dest : JobTo) (tk : Nat) (t : EmbTable) (p : Req) : State :=
  let b := p.payload
  let l := b.drop 32
  let rows := ((natRange 0 (gIdx b)).map (gIndex b l)).eraseDups
  let mine := rows.filter fun r => (kfind t.held r).isNone && rowHome t r = selfNode s
  let looks := mine.map fun r =>
    let a := rowVa t r
    (a.1, false, a.2, rowStride t.desc)
  match lookAll s t.part looks with
  | .inr st => refuse s dest .gather p st
  | .inl pages =>
    let at_ := fun r => vaPool pages (rowVa t r).1 (rowVa t r).2 (rowStride t.desc)
    let rs := dataRegions s (mine.flatMap at_)
    let ib := libBlock s t.part 3 rs
    (putJob (bumpFree s) { kind := .gatherPart tk, dest := dest, op := .gather, p := p, inst := ib.1, block := ib.2, also := shareBlocks s ib.1 rs ib.2, pages := pages, lists := some l,
                           parts := [{ host := selfNode s, items := rows,
                                       segs := rows.filterMap fun r => (kfind t.held r).map fun c => (r, rowImage r c) }] }).1

/-- A GATHER part over the rows it names. -/
def gatherPartStep (s : State) (j : Job) (tk : Nat) : JobStep :=
  match tableOf s tk with
  | none => .fail stDenied
  | some t =>
    let d := t.desc
    let b := j.p.payload
    let l := j.lists.getD []
    let x := j.parts.headD { host := 0, items := [] }
    let rows := x.items.filter fun r => (kfind x.segs r).isNone && rowHome t r = selfNode s
    let at_ := fun (r off n : Nat) => let a := rowVa t r; vaPool j.pages a.1 (a.2 + off) n
    withRanges j (rows.flatMap fun r => at_ r 0 64) fun _ =>
      let head := fun r => cachedRanges j (at_ r 0 64)
      let codes := fun r => at_ r (64 + rowActive (head r) * slotBytes d) (codeBytes d)
      withRanges j ((rows.filter fun r => rowValid (head r)).flatMap codes) fun _ =>
        let row := fun (r : Nat) => match kfind x.segs r with
          | some c => (imageRow d c).2
          | none => if rows.contains r then rowCopy (head r) (cachedRanges j (codes r)) else { valid := false }
        let bag := gBagOf b l
        let terms := bag.zipIdx.map fun e =>
          let c := row (gIndex b l e.2)
          (e.1, if gPool b = 3 then fp32.decode (gWeight b l e.2) else Val.ofNat 1, if c.valid then c else t.dflt, !c.valid)
        let out := bagPartials d (gPool b) (terms.map fun e => (e.1, e.2.1, e.2.2.1))
        let lost := (terms.filter fun e => e.2.2.2).length
        .done { result := lost, cover := out.length, data := some out
                counts := [(.emb tk 1, lost), (.emb tk 3, (rows.filter fun r => badHeader (head r)).length)] }

/-- The answer to a part: its bag partials as Tallow blocks (R458), in segments of up to 15 blocks. -/
def answerGatherPart (s : State) (j : Job) (o : JobOut) : State :=
  let d := o.data.getD []
  match j.dest with
  | .origin .remote port =>
    (natRange 0 (Nat.max 1 (ceilDiv d.length 61440))).foldl (fun s k =>
      let piece := sliceBytes d (61440 * k) (Nat.min 61440 (d.length - 61440 * k))
      sendResp s port 0 { mkResp s .gather j.p stOk (61440 * k) piece.length o.result (tallowBlocks 0 0 piece 16) with isData := true }) s
  | .part id ix =>
    modJob (setPart s id ix stOk o.result d) id fun x => { x with parts := x.parts.mapIdx fun i y => if i = ix then { y with got := d.length } else y }
  | _ => s

/-- A GATHER at its ingress (R457, R460 to R462): lists and output are checked, and the lists are read where they lie in memory. -/
def startGather (s : State) (dest : JobTo) (p : Req) : State :=
  match handleTable s p.address.toNat with
  | none => refuse s dest .gather p stDenied
  | some (tk, t) =>
    let b := p.payload
    let remote := isRemote dest
    if p.length = 0 then refuse s dest .gather p stOk
    else if !gatherFormOk p then refuse s dest .gather p stMalformed
    else if gPart b ≠ remote then refuse s dest .gather p stDenied
    else if remote then
      if gEndsOk b (b.drop 32) then startGatherPart s dest tk t p else refuse s dest .gather p stMalformed
    else
      let out := gOuts b * tdDim t.desc * (fmtBits (gFmt b) / 8)
      let a := p.ast.toNat
      let looks := (if gList b = 0 then [] else [(a, false, gList b, gListBytes b)]) ++ (if gOut b = 0 then [] else [(a, true, gOut b, out)])
      if gOut b = 0 ∧ 16777215 < out then refuse s dest .gather p stMalformed
      else match lookAll s t.part looks with
        | .inr st => refuse s dest .gather p st
        | .inl pages =>
          (putJob (bumpEmb s tk 0 1) { kind := .gather tk, dest := dest, op := .gather, p := p, pages := pages, hold := if looks.isEmpty then none else holdOf s p,
                                       lists := if gList b = 0 then some (b.drop 32) else none }).1

/-- Send what parts may go; a part of this switch's own is begun here. -/
def gatherSend (s : State) (id tk : Nat) : State :=
  match jobOf s id, tableOf s tk with
  | some j, some t =>
    (partsDue j).foldl (fun s ix =>
      match j.parts[ix]? with
      | none => s
      | some x =>
        let pl := gatherPartPayload j.p.payload (j.lists.getD []) x.items
        if x.host = selfNode s then
          let s := modJob s id fun j => { j with parts := j.parts.mapIdx fun i x => if i = ix then { x with sent := true } else x }
          startGatherPart s (.part id ix) tk t { j.p with payload := pl, length := BitVec.ofNat 24 pl.length }
        else sendRootPart s id ix x.host .gather pl) s
  | _, _ => s

/-- The lists are at hand: sources are chosen (R456) and parts made; what the ingress holds itself is the first of them. -/
def gatherParts (s : State) (id tk : Nat) (l : List Byte) : State :=
  match jobOf s id, tableOf s tk with
  | some j, some t =>
    let b := j.p.payload
    if !gEndsOk b l then jobGone (refuse s j.dest .gather j.p stMalformed) id
    else
      let src := (gBagOf b l).zipIdx.map fun e => (e.2, e.1, srcOf t (!gNoHot b) (gIndex b l e.2))
      let far := src.filterMap fun e => match e.2.2 with
        | .host h => some (h, e.1)
        | _ => none
      let wt := fun i => if gPool b = 3 then fp32.decode (gWeight b l i) else Val.ofNat 1
      let near := src.filterMap fun e => match e.2.2 with
        | .dflt => some (e.1, e.2.1, wt e.1, t.dflt, true)
        | .replica r => some (e.1, e.2.1, wt e.1, r, false)
        | .host _ => none
      let bad := (near.filter fun e => e.2.2.2.2).length
      let pb := bagPartials t.desc (gPool b) (near.map fun e => (e.2.1, e.2.2.1, e.2.2.2.1))
      let own : JobPart := { host := noNode, items := near.map (·.1), sent := true, segs := [(0, pb)], got := pb.length, status := some stOk,
                             result := bad + 2 ^ 32 * (near.length - bad) }
      let s := bumpEmb (bumpEmb s tk 1 bad) tk 2 (near.length - bad)
      gatherSend (modJob s id fun j => { j with lists := some l, stage := .parts, parts := own :: groupParts far (gatherFits t.desc b l) }) id tk
  | _, _ => s

/-- Every part of a GATHER is answered: the output (R459, R462 to R465). -/
def gatherEnd (s : State) (id tk : Nat) : State :=
  match jobOf s id, tableOf s tk with
  | some j, some t =>
    let d := t.desc
    let b := j.p.payload
    let l := j.lists.getD []
    let st := rootStatus j
    if st ≠ stOk then jobGone (refuse s j.dest .gather j.p st) id
    else
      let bag := gBagOf b l
      let recs := j.parts.flatMap fun x =>
        let pb := partBytes x
        (((x.items.map fun i => bag.getD i 0).eraseDups).zipIdx).map fun e =>
          (e.1, (natRange 0 (tdDim d)).map fun k => leField pb (e.2 * (8 + 40 * tdDim d) + 8 + 40 * k) 40)
      let outs := (natRange 0 (gOuts b)).flatMap fun k =>
        bagOut d (gPool b) (gFmt b) (bag.filter (· = k)).length (((recs.filter fun e => e.1 = k).map (·.2)).foldl (joinRecs (gPool b)) [])
      let data := packFields (fmtBits (gFmt b)) outs
      let lo := (j.parts.map fun x => x.result % 2 ^ 32).foldl (· + ·) 0
      let hi := (j.parts.map fun x => x.result / 2 ^ 32).foldl (· + ·) 0
      let result := Nat.min (2 ^ 32 - 1) lo + 2 ^ 32 * Nat.min (2 ^ 32 - 1) hi
      if gOut b = 0 then jobGone (answerTo s j.dest .gather j.p stOk result data.length (some data)) id
      else
        let rs := vaPool j.pages j.p.ast.toNat (gOut b) data.length
        let ws := (rs.foldl (fun (acc : List (Nat × List Byte) × Nat) r => (acc.1 ++ [(r.1, sliceBytes data acc.2 r.2)], acc.2 + r.2)) ([], 0)).1
        issueWrites (modJob s id fun j => { j with parts := [], lists := some (leBytes 8 result) }) id ws
  | _, _ => s

/-- Read lists that lie in memory; then go on with them. -/
def listsThen (s : State) (id : Nat) (va n : Nat) (k : State → List Byte → State) : State :=
  match jobOf s id with
  | none => s
  | some j =>
    match j.lists with
    | some l => k s l
    | none =>
      match withRanges j (vaPool j.pages j.p.ast.toNat va n) fun l => .done { data := some l } with
      | .need rs => jobFetch (modJob s id fun j => { j with stage := .stalled }) id rs
      | .done o => k s (o.data.getD [])
      | .fail st => jobGone (refuse s j.dest j.op j.p st) id
      | .malformed _ => jobGone (refuse s j.dest j.op j.p stPoisoned) id
      | .lost => jobGone (refuse s j.dest j.op j.p stPoisoned) id

/-- A GATHER goes on at its ingress. -/
def gatherGo (s : State) (id tk : Nat) : State :=
  match jobOf s id with
  | none => s
  | some j =>
    let b := j.p.payload
    if (tableOf s tk).isNone then jobGone (refuse s j.dest .gather j.p stDenied) id
    else match j.fail with
      | some st => if j.wait.isEmpty then jobGone (refuse s j.dest .gather j.p st) id else s
      | none =>
        if !j.wait.isEmpty then s
        else match j.stage with
          | .parts => if rootDone j then gatherEnd s id tk else gatherSend s id tk
          | .writing => jobGone (answerTo s j.dest .gather j.p stOk (leField (j.lists.getD []) 0 8) j.p.length.toNat none) id
          | _ => listsThen s id (gList b) (gListBytes b) fun s l =>
              let s := gatherParts s id tk l
              match jobOf s id with
              | some j => if j.stage = .parts && rootDone j then gatherEnd s id tk else s
              | none => s

/-! ## SCATTER (R467 to R471) -/

def xStep (b : List Byte) : Nat := leField b 0 4
def xIdx (b : List Byte) : Nat := leField b 4 4
def xFmt (b : List Byte) : Nat := leField b 8 1 % 32
def xWide (b : List Byte) : Nat := if (leField b 8 1).testBit 5 then 8 else 4
def xEnd (b : List Byte) : Bool := (leField b 8 1).testBit 6
def xPart (b : List Byte) : Bool := (leField b 8 1).testBit 7
/-- Bytes of a row of gradients, of a SCATTER's lists. -/
def xRow (d b : List Byte) : Nat := tdDim d * (fmtBits (xFmt b) / 8)
def xListBytes (d b : List Byte) : Nat := pad8 (xWide b * xIdx b) + xIdx b * xRow d b
def scatterFormOk (d : List Byte) (p : Req) : Bool :=
  let b := p.payload
  decide (32 ≤ b.length) && (xFmt b = 0xC || xFmt b = 0xA || xFmt b = 0xB) && leField b 9 7 = 0 && leField b 0x18 8 = 0 &&
  b.length = 32 + (if leField b 0x10 8 = 0 then xListBytes d b else 0)
def xIndex (b l : List Byte) (i : Nat) : Nat := leField l (xWide b * i) (xWide b)
def xGrads (d b l : List Byte) (i : Nat) : List Byte := sliceBytes l (pad8 (xWide b * xIdx b) + i * xRow d b) (xRow d b)

/-- The payload of a part of a SCATTER. -/
def scatterPartPayload (d b l : List Byte) (items : List Nat) (fin : Bool) : List Byte :=
  let idx := items.flatMap fun i => leBytes (xWide b) (xIndex b l i)
  leBytes 4 (xStep b) ++ leBytes 4 items.length ++ leBytes 1 (leField b 8 1 % 64 + (if fin then 64 else 0) + 128) ++ leBytes 23 0 ++
    idx ++ leBytes (pad8 idx.length - idx.length) 0 ++ items.flatMap (xGrads d b l)

/-- A part with these gradient rows fits one packet (R52). -/
def scatterFits (d b : List Byte) (items : List Nat) : Bool :=
  decide (32 + pad8 (xWide b * items.length) + items.length * xRow d b ≤ 65536)

/-- Add gradients to a step's records (R470): all of the part's, or none where its new rows find no room. -/
def addGrads (t : EmbTable) (buf : UpdBuf) (d b l : List Byte) (items : List Nat) : Option UpdBuf :=
  let rows := (items.map (xIndex b l)).eraseDups
  let new := rows.filter fun r => (kfind buf.rows r).isNone
  if tdUpd t.desc < buf.rows.length + new.length then none
  else some (items.foldl (fun u i =>
    let r := xIndex b l i
    let g := xGrads d b l i
    let old := kget u.rows r []
    { u with rows := kset u.rows r ((natRange 0 (tdDim d)).map fun k =>
        (accAdd acc320 (old.getD k 0) (elemVal (xFmt b) (fieldAt g (fmtBits (xFmt b)) k))).r) }) buf)

/-- Where a host sends gradients and replacements of a row on to: the target of a move that has been sent, or the row's source, unless the
row is here or coming here (R481). -/
def forwardTo (s : State) (t : EmbTable) (row : Nat) : Option Nat :=
  match t.moves.find? fun m => m.row = row && m.sent && m.target ≠ selfNode s with
  | some m => some m.target
  | none =>
    if (kfind t.held row).isSome || (t.moves.any fun m => m.row = row && m.target = selfNode s) || rowSource t row = selfNode s then none
    else some (rowSource t row)

/-- A host accepts parts for its current step and for the next one (R469). -/
def stepTaken (t : EmbTable) (b : List Byte) : Bool := xStep b = t.step || xStep b = (t.step + 1) % 2 ^ 32

/-- A SCATTER part at a shard host (R469 to R471): the state, status and RESULT, and the rows that another host takes. Gradients for a step that
is being applied are applied in it too. -/
def scatterTake (s : State) (tk : Nat) (t : EmbTable) (p : Req) : State × Nat × Nat × List Nat :=
  let b := p.payload
  let l := b.drop 32
  let d := t.desc
  let buf := kget t.bufs (xStep b) {}
  let all := natRange 0 (xIdx b)
  let away := all.filter fun i => (forwardTo s t (xIndex b l i)).isSome
  let near := all.filter fun i => !away.contains i
  let r := addGrads t buf d b l near
  let buf1 := r.getD buf
  let ends := if xEnd b && !buf1.ends.contains p.src.toNat then buf1.ends ++ [p.src.toNat] else buf1.ends
  let buf2 : UpdBuf := { buf1 with ends := ends, closed := buf1.closed || (tdContrib d ≠ 0 && decide (tdContrib d ≤ ends.length)) }
  let more := if t.applying && xStep b = t.step && r.isSome then ((near.map (xIndex b l)).eraseDups).filter fun x => !t.todo.contains x else []
  let s := modTable s tk fun t => { t with bufs := kset t.bufs (xStep b) buf2, todo := t.todo ++ more }
  match r with
  | some _ => (s, stOk, 0, away)
  | none => (s, stPartial, near.length * 2 ^ 32, away)

/-- A SCATTER part reaches its host: a step of the scatter program (R373). One for a step that the host does not take is answered at once
(R469). -/
def startScatterPart (s : State) (dest : JobTo) (tk : Nat) (t : EmbTable) (p : Req) : State :=
  if !stepTaken t p.payload then refuse (bumpEmb s tk 7 1) dest .scatter p stDenied
  else
    let l := p.payload.drop 32
    let rows := ((natRange 0 (xIdx p.payload)).map (xIndex p.payload l)).filter fun r => rowHome t r = selfNode s
    let rs := dataRegions s (rows.flatMap fun r => (rowRanges s t r 0 64).getD [])
    let ib := libBlock s t.part 4 rs
    (putJob (bumpFree s) { kind := .scatterPart tk, dest := dest, op := .scatter, p := p, inst := ib.1, block := ib.2, also := shareBlocks s ib.1 rs ib.2, lists := some l }).1

/-- The step of a SCATTER part commits: its gradients are in the buffer; those of rows that are moving go on from here. -/
def commitScatter (s : State) (id : Nat) (j : Job) (tk : Nat) : State :=
  let s := jobGone s id
  match tableOf s tk with
  | none => refuse s j.dest .scatter j.p stDenied
  | some t =>
    let r := scatterTake s tk t j.p
    let s := stepGo r.1 tk 8
    if r.2.2.2.isEmpty then answerTo s j.dest .scatter j.p r.2.1 r.2.2.1 j.p.length.toNat none
    else
      let b := j.p.payload
      let l := b.drop 32
      let far := r.2.2.2.filterMap fun i => (forwardTo s t (xIndex b l i)).map fun h => (h, i)
      (putJob s { kind := .scatter tk, dest := j.dest, op := .scatter, p := j.p, lists := some l, stage := .parts, code := 1,
                  cache := [(0, leBytes 8 r.2.2.1)], parts := groupParts far (scatterFits t.desc b) }).1

/-- A SCATTER at its ingress (R467). -/
def startScatter (s : State) (dest : JobTo) (p : Req) : State :=
  match handleTable s p.address.toNat with
  | none => refuse s dest .scatter p stDenied
  | some (tk, t) =>
    let b := p.payload
    let remote := isRemote dest
    if p.length = 0 then refuse s dest .scatter p stOk
    else if !scatterFormOk t.desc p then refuse s dest .scatter p stMalformed
    else if xPart b ≠ remote then refuse s dest .scatter p stDenied
    else if tdOpt t.desc = 0 then refuse s dest .scatter p stUnsupported
    else if remote then startScatterPart s dest tk t p
    else
      let va := leField b 0x10 8
      match lookAll s t.part (if va = 0 then [] else [(p.ast.toNat, false, va, xListBytes t.desc b)]) with
      | .inr st => refuse s dest .scatter p st
      | .inl pages =>
        (putJob (bumpEmb s tk 4 1) { kind := .scatter tk, dest := dest, op := .scatter, p := p, pages := pages, hold := if va = 0 then none else holdOf s p,
                                     lists := if va = 0 then some (b.drop 32) else none }).1

/-- The last part to a host carries END (R469). -/
def scatterFin (j : Job) (ix : Nat) (x : JobPart) : Bool :=
  j.code = 0 && xEnd j.p.payload && !(j.parts.zipIdx).any fun e => e.1.host = x.host && decide (ix < e.2)

/-- Send what parts of a SCATTER may go. -/
def scatterSend (s : State) (id tk : Nat) : State :=
  match jobOf s id, tableOf s tk with
  | some j, some t =>
    (partsDue j).foldl (fun s ix =>
      match j.parts[ix]? with
      | none => s
      | some x =>
        let pl := scatterPartPayload t.desc j.p.payload (j.lists.getD []) x.items (scatterFin j ix x)
        if x.host = selfNode s then
          let s := modJob s id fun j => { j with parts := j.parts.mapIdx fun i x => if i = ix then { x with sent := true } else x }
          startScatterPart s (.part id ix) tk t { j.p with payload := pl, length := BitVec.ofNat 24 pl.length }
        else sendRootPart s id ix x.host .scatter pl) s
  | _, _ => s

/-- The lists of a SCATTER are at hand: index words beyond the table are discarded, parts made (R469, R470). -/
def scatterParts (s : State) (id tk : Nat) (l : List Byte) : State :=
  match jobOf s id, tableOf s tk with
  | some j, some t =>
    let b := j.p.payload
    let ok := (natRange 0 (xIdx b)).filter fun i => decide (xIndex b l i < tdRows t.desc)
    let ps := groupParts (ok.map fun i => (rowSource t (xIndex b l i), i)) (scatterFits t.desc b)
    let ends := if !xEnd b then []
      else ((shardHosts t.desc t.shards).filter fun h => !ps.any fun x => x.host = h).map fun h => ({ host := h, items := [] } : JobPart)
    let s := bumpEmb s tk 5 (xIdx b - ok.length)
    scatterSend (modJob s id fun j => { j with lists := some l, stage := .parts, parts := ps ++ ends, cache := [(0, leBytes 8 (xIdx b - ok.length))] }) id tk
  | _, _ => s

/-- Every part of a SCATTER is answered (R459, R470). -/
def scatterEnd (s : State) (id tk : Nat) : State :=
  match jobOf s id with
  | none => s
  | some j =>
    let st := rootStatus j
    let base := leField (kget j.cache 0 []) 0 8
    let lost := base / 2 ^ 32 + (j.parts.map fun x => x.result / 2 ^ 32).foldl (· + ·) 0
    let res := Nat.min (2 ^ 32 - 1) (base % 2 ^ 32) + 2 ^ 32 * Nat.min (2 ^ 32 - 1) lost
    let part := decide (0 < lost)
    let s := if part && j.code = 0 then bumpEmb s tk 6 1 else s
    jobGone (answerTo s j.dest .scatter j.p (if st ≠ stOk then st else if part then stPartial else stOk) (if st ≠ stOk then 0 else res) j.p.length.toNat none) id

/-- A SCATTER goes on. -/
def scatterGo (s : State) (id tk : Nat) : State :=
  match jobOf s id with
  | none => s
  | some j =>
    let b := j.p.payload
    match tableOf s tk with
    | none => jobGone (refuse s j.dest .scatter j.p stDenied) id
    | some t =>
      match j.fail with
      | some st => if j.wait.isEmpty then jobGone (refuse s j.dest .scatter j.p st) id else s
      | none =>
        if !j.wait.isEmpty then s
        else match j.stage with
          | .parts => if rootDone j then scatterEnd s id tk else scatterSend s id tk
          | _ => listsThen s id (leField b 0x10 8) (xListBytes t.desc b) fun s l => scatterParts s id tk l

end Sys2Proof.Machine
end

