-- ==== Sys2Proof/Machine/EmbRun.lean ====
section
/-! DEFINITION. Machine/EmbRun.lean: creation and destruction of embedding tables, replacement of rows, the hot set, moves of rows, and the
messages by which switches take part in them (10_embeddings.md R445 to R450, R466, R475 to R484). -/
namespace Sys2Proof.Machine

/-! ## Messages (R827) -/

/-- Switches that may hold an entry of a table (R445) or an index (R489): every one of the fabric. -/
def entryNodes (s : State) (hosts : List Nat) : List Nat := (selfNode s :: hosts ++ otherSwitches s).eraseDups

/-- Parameters of a message about a table: its handle and a stage. -/
def embArgs (handle stage : Nat) (rest : List Byte) : List Byte := leBytes 8 handle ++ leBytes 4 stage ++ rest ++ leBytes (20 - rest.length) 0

/-- Ask switches to do something for a table or an index, this one among them: the message is a relayed command. -/
def tellEmb (s : State) (r : Relay) (kind verb handle stage : Nat) (args extra : List Byte) (nodes : List Nat)
    (here : State → JobTo → List Byte → State) : State :=
  let a := embArgs handle stage args
  let (s, id) := newRelay s r
  let s := relaySend s id kind r.group verb r.part 0 a extra nodes
  if nodes.contains (selfNode s) then here s (.relay id (selfNode s)) ((xchgPayload kind r.group verb r.part 0 a).drop 8 ++ extra) else s

/-- Fields of a message about a table: handle, stage, further parameters, what follows the descriptor. -/
def emHandle (b : List Byte) : Nat := leField b 0x20 8
def emStage (b : List Byte) : Nat := leField b 0x28 4
def emArg (b : List Byte) (o n : Nat) : Nat := leField b (0x2C + o) n

/-! ## Creation (R445 to R448) -/

/-- The status of check 3 of R447 for this switch's shards, or their frames. -/
def shardCheck (s : State) (part : Nat) (d t : List Byte) : Nat :=
  let mine := (natRange 0 (tdShards d)).filter fun k => teHost t k = selfNode s && decide (teBase t k < teEnd d t k)
  let area := fun (k : Nat) => (teVa t k, (teEnd d t k - teBase t k) * rowStride d)
  match lookAll s part (mine.flatMap fun k => [(teAst t k, false, (area k).1, (area k).2), (teAst t k, true, (area k).1, (area k).2)]) with
  | .inr st => st
  | .inl ps =>
    let rs := mine.flatMap fun k => vaPool ps (teAst t k) (area k).1 (area k).2
    let ok := rs.all fun r => (natRange (r.1 / frameBytes) ((r.1 + r.2 - 1) / frameBytes - r.1 / frameBytes + 1)).all fun f =>
      homedHere s (f * frameBytes) && match tierOf s f with
        | some e => e.copies = 1
        | none => false
    if ok then stOk else stDenied

/-- INIT (R448): every header of this switch's shards becomes 0. -/
def clearRows (s : State) (t : EmbTable) : State :=
  (natRange 0 (tdShards t.desc)).foldl (fun s k =>
    if teHost t.shards k ≠ selfNode s then s
    else (natRange (teBase t.shards k) (teEnd t.desc t.shards k - teBase t.shards k)).foldl (fun s row =>
      match rowRanges s t row 0 64 with
      | some rs => putRanges s 5 rs (leBytes 64 0)
      | none => s) s) s

/-- Counters of a new table start from 0. -/
def clearEmb (s : State) (tk : Nat) : State :=
  let cs := s.ctrs.filter fun e => match e.1 with
    | .emb k _ => k ≠ tk
    | _ => true
  { s with ctrs := cs }

/-- This switch keeps an entry (R445, R489): it hosts a shard, coordinates, or has a logical port or bridge of the partition. -/
def entryHere (s : State) (part coord : Nat) (hosts : List Nat) : Bool :=
  hosts.contains (selfNode s) || coord = selfNode s || (s.lports.any fun e => portMember s e.1 part) ||
    s.coh.decoders.any fun e => e.2.partition = part

/-- A switch's part of EMB.CREATE: stage 0 installs an entry, 1 gives it up again, 2 clears the rows (R448), 3 only checks. -/
def embInstall (s : State) (part : Nat) (b : List Byte) : State × Nat :=
  let h := tableHandle (emHandle b)
  let tk := tableKey h.2.1 h.1
  let d := sliceBytes b 64 64
  let sh := sliceBytes b 128 (32 * tdShards d)
  let st := shardCheck s part d sh
  let need := tableFrames s d sh
  if st ≠ stOk ∨ emStage b = 3 then (s, st)
  else if !entryHere s part h.2.1 (shardHosts d sh) then (s, stOk)
  else if 16384 ≤ s.fab.tables.length ∨ t1Free s < need then (s, stBudget)
  else
    let t : EmbTable := { coord := h.2.1, id := h.1, part := part, gen := h.2.2.2, desc := d, shards := sh,
                          dflt := { codes := leBytes (codeBytes d) 0 } }
    let s := clearEmb (modFab s fun f => { f with tables := kset f.tables tk t }) tk
    let s := if need = 0 then s else { s with mem := { s.mem with reserved := kset s.mem.reserved (tableOwner + tk) need } }
    (s, stOk)

/-- Free a table's entry and its reservations here (R450). -/
def freeTable (s : State) (tk : Nat) : State :=
  match tableOf s tk with
  | none => s
  | some t =>
    let mine := fun (j : Job) => match j.kind with
      | .gather k | .gatherPart k | .scatter k | .scatterPart k | .row k _ _ | .rowsRead k => k = tk
      | _ => false
    let gone := s.fab.jobs.filter fun e => mine e.2
    let s := gone.foldl (fun s e => jobGone (refuse s e.2.dest e.2.op e.2.p stDenied) e.1) s
    let s := t.late.foldl (fun s e => tellTo s e.2 stDenied 0 []) s
    let s := modFab s fun f => { f with tables := kdel f.tables tk }
    let s := { s with mem := { s.mem with reserved := kdel s.mem.reserved (tableOwner + tk) } }
    if t.coord = selfNode s then bumpGen s hTable t.id 9 else s

/-- Reading EMB.CREATE's descriptor and shard table under the AST named (checks 1 and 2 of R447). -/
def readTable (s : State) (j : Job) (part ast va : Nat) : JobStep :=
  let look := fun (a n : Nat) (k : List ((Nat × Nat) × Nat) → JobStep) => match lookPages s part ast false a n with
    | .inr st => .fail (st + 256 * 2)
    | .inl ps => k ps
  look va 64 fun ps => withRanges j (vaPool ps ast va 64) fun d =>
    if !tableDescOk d then .fail (stMalformed + 256)
    else
      let n := 32 * tdShards d
      look (leField d 0x10 8) n fun pt => withRanges j (vaPool pt ast (leField d 0x10 8) n) fun t => .done { data := some (d ++ t) }

/-- A node can be a shard's host as far as this switch sees: no endpoint is (check 3 of R447). -/
def hostAllowed (s : State) (node : Nat) : Bool :=
  node = selfNode s || match lportOfNode s node with
    | some l => (lportOf s l).role = some .switch
    | none => true

/-- Numbers of objects that this switch is creating, or giving up again at other switches (R410, R447, R492). -/
def idsCreated (s : State) (group : Nat) (num : Nat → Nat) : List Nat :=
  s.fab.relays.filterMap fun e => if e.2.group = group ∧ e.2.verb = 1 ∧ e.2.stage ≤ 2 then some (num e.2.obj) else none

/-- EMB.CREATE, once its descriptor and shard table have been read. -/
def embCreate (s : State) (dest : JobTo) (part : Nat) (init : Bool) (b : List Byte) : State :=
  let d := b.take 64
  let sh := b.drop 64
  let ans := fun (s : State) (st : Nat) => tellTo s dest st 0 []
  if !tableShardsOk d sh then ans s (stMalformed + 256)
  else if !((shardHosts d sh).all (hostAllowed s)) then ans s (stDenied + 256 * 3)
  else
    let take := fun (s : State) (dest : JobTo) (b : List Byte) =>
      let r := embInstall s part b
      tellTo r.1 dest r.2 0 []
    let used := (s.fab.tables.filter fun e => e.2.coord = selfNode s).map (·.2.id) ++ idsCreated s 0x0F fun h => (tableHandle h).1
    match firstFree used 16384 (freeNat s) 16384 with
    | none =>
      -- check 3 comes first, at the hosts
      let h := mkTableHandle 0 (selfNode s) part 0
      tellEmb s { group := 0x0F, verb := 1, part := part, dest := dest, obj := 0, stage := 3 } 7 1 h 3 [] (d ++ sh) (entryNodes s (shardHosts d sh)) take
    | some id =>
      let s := bumpFree s
      let h := mkTableHandle id (selfNode s) part (genOf s hTable id)
      tellEmb s { group := 0x0F, verb := 1, part := part, dest := dest, obj := h, args := if init then shardHosts d sh else [] } 7 1 h 0 [] (d ++ sh)
        (entryNodes s (shardHosts d sh)) take

/-! ## Replacements (R475 to R477) -/

/-- Bytes of a record. -/
def recordBytes (d : List Byte) : Nat := 16 + slotBytes d

/-- A record of REPLACE_ROWS: row, CLEAR, scale, offset, codes. -/
def recordOk (r : List Byte) : Bool := leField r 0 8 / 2 ^ 41 = 0 && leField r 12 4 = 0
def recRow (r : List Byte) : Nat := leField r 0 5
def recClear (r : List Byte) : Bool := (leField r 5 1).testBit 0

/-- Apply a record to a row as it stands at its host (R476). -/
def recordNow (s : State) (tk : Nat) (t : EmbTable) (rec : List Byte) (r : RowCopy) : State :=
  swapRow s tk t (recRow rec) (!recClear rec) (leField rec 8 2) (leField rec 10 2) r.g
    (if recClear rec then none else some (sliceBytes rec 16 (codeBytes t.desc)))

/-- A record that waits must still wait: an earlier one for its row waits, the row is moving or being swapped, or its other slot is being
read. -/
def recordHeld (s : State) (tk : Nat) (t : EmbTable) (before : List (List Byte × JobTo)) (r : List Byte) : Bool :=
  before.any (fun e => recRow e.1 = recRow r) || rowMoving t (recRow r) || rowWorking s tk t (recRow r) || slotBusy s tk t (recRow r)

/-- Records of a row in both buffers. -/
def rowRecords (t : EmbTable) (row : Nat) : List Byte :=
  let one := fun (step : Nat) => match kfind (kget t.bufs step {}).rows row with
    | some l => leBytes 8 (1 + 2 ^ 32 * step) ++ l.flatMap (leBytes 40)
    | none => leBytes 8 (2 ^ 32 * step) ++ leBytes (40 * tdDim t.desc) 0
  one t.step ++ one ((t.step + 1) % 2 ^ 32)

/-- Change the move of a row that is under way: the first of those asked for. -/
def onMove (row : Nat) (f : RowMove → RowMove) : List RowMove → List RowMove
  | [] => []
  | m :: ms => if m.row = row then f m :: ms else m :: onMove row f ms

/-- The move of a row under way at its old host. -/
def moveOf (s : State) (t : EmbTable) (row : Nat) : Option RowMove := t.moves.find? fun x => x.row = row && x.target ≠ selfNode s

/-- A move ends with nothing moved: the target's promise goes back. -/
def dropMove (s : State) (tk : Nat) (t : EmbTable) (m : RowMove) : State :=
  tellEmb (modTable s tk fun t => { t with moves := t.moves.erase m }) { group := 0x0F, verb := 9, part := t.part, dest := .nobody, obj := tk, stage := 5 }
    8 9 (handleOfTable t) 5 (leBytes 4 (if rowHome t m.row = m.target then 0 else 1)) [] [m.target] fun s _ _ => s

/-- The row's copy and its records go to the target (step 2 of R481): from then on only the target holds the records (R482). -/
def sendRow (s : State) (tk : Nat) (t : EmbTable) (m : RowMove) (r : RowCopy) : State :=
  let drop := fun (u : UpdBuf) => { u with rows := kdel u.rows m.row }
  let recs := rowRecords t m.row
  let s := modTable s tk fun t =>
    { t with moves := onMove m.row (fun x => { x with sent := true }) t.moves
             todo := t.todo.erase m.row
             bufs := t.bufs.map fun (e : Nat × UpdBuf) => (e.1, drop e.2) }
  tellEmb s { group := 0x0F, verb := 9, part := t.part, dest := .nobody, obj := tk, stage := 2, args := [m.row] } 8 9 (handleOfTable t) 2 []
    (rowImage m.row r ++ recs) [m.target] fun s _ _ => s

/-- Whether the work on a row reads its codes: a move copies them, an apply needs those of a row that is present. -/
def wantCodes (act : RowAct) (r : RowCopy) : Bool :=
  match act with
  | .apply => r.valid
  | .record _ => false
  | .move => true

/-- The row is at hand: the work on it is done. One that is not here, or that nothing maps, is missing. -/
def rowDone (s : State) (id : Nat) (j : Job) (tk : Nat) (t : EmbTable) (row : Nat) (act : RowAct) (got : Option (RowCopy × Bool)) : State :=
  let s := jobGone (if j.stage = .stalled then stallEnd s j else s) id
  let s := if got.any (·.2) then bumpEmb s tk 3 1 else s
  match act, got with
  | .apply, none => rowApplied (bumpEmb s tk 8 1) tk row 0
  | .apply, some (r, _) => applyNow (match j.block with
      | some b => countStep s b
      | none => s) tk t row r
  | .record rec, none => recordNow s tk t rec { valid := false }
  | .record rec, some (r, _) => recordNow s tk t rec r
  | .move, none => match moveOf s t row with
    | some m => dropMove s tk t m
    | none => s
  | .move, some (r, _) => match moveOf s t row with
    | some m => sendRow s tk t m r
    | none => s

/-- The row cannot be read (R156): the work on it is abandoned, and its record goes with it. Whose share of a command it was takes the status
(DESIGN CHOICE, log entry 175). -/
def rowFailed (s : State) (id : Nat) (j : Job) (tk : Nat) (t : EmbTable) (row st : Nat) (act : RowAct) : State :=
  let s := countAbandon (jobGone (if j.stage = .stalled then stallEnd s j else s) id) j st
  let bad := fun (s : State) (d : JobTo) => match d with
    | .relay k n => relayGot s k n st 0
    | _ => s
  match act with
  | .apply => rowApplied s tk row 0
  | .record _ => bad s j.dest
  | .move => match moveOf s t row with
    | some m => dropMove (bad s m.dest) tk t m
    | none => s

/-- Work on a row goes on: the lines that it needs are read through the arbiter (R113, R143), and it waits for them (R156, R319). -/
def rowGo (s : State) (id tk row : Nat) (act : RowAct) : State :=
  match jobOf s id, tableOf s tk with
  | some j, some t =>
    if !j.wait.isEmpty then s
    else match j.fail with
      | some st => rowFailed s id j tk t row st act
      | none => match rowGot s t j row (wantCodes act) with
        | .need rs => stall (jobFetch s id rs) id
        | .gone => rowDone s id j tk t row act none
        | .got r bad => rowDone s id j tk t row act (some (r, bad))
  | some _, none => jobGone s id
  | none, _ => s

/-- Work on a row begins. -/
def rowWork (s : State) (tk : Nat) (t : EmbTable) (row : Nat) (act : RowAct) (dest : JobTo) : State :=
  let rs := (rowRanges s t row 0 64).getD []
  let ib := if act = .apply then libBlock s t.part 4 (dataRegions s rs) else (none, none)
  let r := putJob (bumpFree s) { kind := .row tk row act, dest := dest, op := .scatter, p := rowReq s t, inst := ib.1, block := ib.2 }
  rowGo r.1 r.2 tk row act

/-- Apply one row of the step that is being applied (R472): it waits while the row moves or is being swapped, while a replacement that came
before waits, or while its other slot is being read. -/
def applyOne (s : State) (tk row : Nat) : State :=
  match tableOf s tk with
  | none => s
  | some t =>
    let late := t.late.any fun e => leField e.1 0 5 = row
    if !t.applying || !t.todo.contains row || rowMoving t row || late || rowWorking s tk t row || slotBusy s tk t row then s
    else rowWork s tk t row .apply .nobody

/-- Apply the records that can be applied; those of rows that have gone to another host follow them (R481). -/
def lateGo (s : State) (tk : Nat) : State :=
  match tableOf s tk with
  | none => s
  | some t =>
    let s := modTable s tk fun t => { t with late := [] }
    t.late.foldl (fun s e =>
      match tableOf s tk with
      | none => s
      | some t =>
        if recordHeld s tk t t.late e.1 then modTable s tk fun t => { t with late := t.late ++ [e] }
        else match forwardTo s t (recRow e.1) with
          | some h => match e.2 with
            | .relay id _ => relaySend s id 8 0x0F 4 t.part 0 (embArgs (handleOfTable t) 0 []) e.1 [h]
            | _ => s
          | none => rowWork s tk t (recRow e.1) (.record e.1) e.2) s

/-- Records of a message, cut. -/
def cutRecords (n : Nat) (b : List Byte) : List (List Byte) := chunksOf n (b.length / Nat.max 1 n) b

/-- A host's part of EMB.REPLACE_ROWS: it is done when every record of it is applied. -/
def replacePart (s : State) (dest : JobTo) (tk : Nat) (t : EmbTable) (b : List Byte) : State :=
  let (s, id) := newRelay s { group := 0x0F, verb := 4, part := t.part, dest := dest, obj := tk, stage := 9, local_ := true }
  lateGo (modTable s tk fun t => { t with late := t.late ++ (cutRecords (recordBytes t.desc) (b.drop 64)).map fun r => (r, JobTo.relay id (selfNode s)) }) tk

/-! ## Moves of rows (R480 to R483) -/

/-- Add another host's records of a row to the buffers here: those of a step that this host has ended go into its current one. -/
def takeRecords (t : EmbTable) (row : Nat) (b : List Byte) : EmbTable :=
  let n := 8 + 40 * tdDim t.desc
  [0, 1].foldl (fun t k =>
    let sent := leField b (n * k + 4) 4
    let step := if sent = (t.step + 1) % 2 ^ 32 then sent else t.step
    if leField b (n * k) 4 = 0 then t
    else
      let l := (natRange 0 (tdDim t.desc)).map fun i => leField b (n * k + 8 + 40 * i) 40
      let u := kget t.bufs step {}
      let sum := match kfind u.rows row with
        | some old => (old.zip l).map fun e => accMerge acc320 e.1 e.2
        | none => l
      { t with bufs := kset t.bufs step { u with rows := kset u.rows row sum }
               todo := if t.applying && step = t.step && !t.todo.contains row then t.todo ++ [row] else t.todo }) t

/-- B takes a row (step 2 of R481): into its held rows, or into its home place. -/
def takeRow (s : State) (tk : Nat) (t : EmbTable) (b : List Byte) : State :=
  let e := imageRow t.desc b
  let row := e.1
  let r := e.2
  let s := modTable s tk fun t => takeRecords { t with moves := t.moves ++ [{ row := row, target := selfNode s, dest := .nobody }] } row (b.drop (imageBytes t.desc))
  if rowHome t row ≠ selfNode s then modTable s tk fun t => { t with held := kset t.held row r }
  else
    let s := match rowRanges s t row (64 + r.active * slotBytes t.desc) (codeBytes t.desc) with
      | some cs => putRanges s 5 cs r.codes
      | none => s
    match rowRanges s t row 0 64 with
    | some rs => putRanges s 5 rs (rowHeader r)
    | none => s

/-- A begins the moves of rows (steps 1 and 2 of R481). -/
def moveRows (s : State) (dest : JobTo) (tk : Nat) (t : EmbTable) (target : Nat) (rows : List Nat) : State :=
  let (s, id) := newRelay s { group := 0x0F, verb := 9, part := t.part, dest := dest, obj := tk, stage := 9, local_ := true }
  modTable s tk fun t => { t with moves := t.moves ++ rows.map fun r => { row := r, target := target, dest := JobTo.relay id (selfNode s) } }

/-- Forwards of gradients of a row that its new host has not acknowledged. -/
def forwards (s : State) (tk row : Nat) : Bool :=
  s.fab.jobs.any fun e => e.2.kind = .scatter tk && e.2.code = 1 && e.2.parts.any fun x =>
    x.status.isNone && x.items.any fun i => xIndex e.2.p.payload (e.2.lists.getD []) i = row

/-- The commit of a move at its old host (step 5 of R481). -/
def commitRow (s : State) (tk : Nat) (m : RowMove) : State :=
  match tableOf s tk with
  | none => s
  | some t =>
    let s := modTable (bumpEmb s tk 11 1) tk fun t =>
      { t with moves := t.moves.erase m
               held := kdel t.held m.row
               promised := if (kfind t.held m.row).isSome then t.promised - 1 else t.promised }
    let s := tellEmb s { group := 0x0F, verb := 9, part := t.part, dest := .nobody, obj := tk, stage := 4 } 8 9 (handleOfTable t) 4
      (leBytes 8 m.row) [] [m.target] fun s _ _ => s
    lateGo (stepGo s tk 8) tk

/-- One move goes on as far as it can; moves of one row go one after another, and one whose row has gone gives its promise back. -/
def moveGo (tk : Nat) (s : State) (m : RowMove) : State :=
  match tableOf s tk with
  | none => s
  | some t =>
    if m.target = selfNode s ∨ (t.moves.find? fun x => x.row = m.row) ≠ some m then s
    else if !m.sent then (if rowWorking s tk t m.row then s else rowWork s tk t m.row .move .nobody)
    else if m.acked && (partsReading s tk m.row).isEmpty && !forwards s tk m.row then commitRow s tk m
    else s

/-- Redirects of a row, as each switch with an entry installs or frees it (step 4 of R481). -/
def redirectRow (s : State) (tk row target : Nat) : State :=
  modTable s tk fun t => { t with redirects := if rowHome t row = target then kdel t.redirects row else kset t.redirects row target }

/-- A part of EMB.MOVE_ROWS: 0 promises room at the target, 1 begins moves at a row's host, 2 brings a row, 3 its redirect, 4 its commit, 5
gives promised room back. -/
def movePart (s : State) (dest : JobTo) (tk : Nat) (t : EmbTable) (b : List Byte) : State :=
  let ans := fun (s : State) (st : Nat) => tellTo s dest st 0 []
  match emStage b with
  | 0 =>
    let n := emArg b 0 4
    if tdMove t.desc < t.promised + n then ans s stBudget else ans (modTable s tk fun t => { t with promised := t.promised + n }) stOk
  | 1 => moveRows s dest tk t (emArg b 0 4) ((natRange 0 ((b.length - 64) / 8)).map fun k => leField b (64 + 8 * k) 8)
  | 2 => ans (takeRow s tk t (b.drop 64)) stOk
  | 3 => ans (redirectRow s tk (emArg b 0 8) (emArg b 8 4)) stOk
  | 4 => ans (lateGo (modTable s tk fun t => { t with moves := t.moves.filter fun m => !(m.row = emArg b 0 8 && m.target = selfNode s) }) tk) stOk
  | _ => ans (modTable s tk fun t => { t with promised := t.promised - emArg b 0 4 }) stOk

/-! ## The hot set (R478, R479) -/

/-- A part of EMB.HOT_REFRESH: 0 drops the replicas that the list no longer names, 1 asks a source for rows, 2 brings rows. -/
def hotPart (s : State) (dest : JobTo) (tk : Nat) (t : EmbTable) (b : List Byte) : State :=
  let e := b.drop 64
  match emStage b with
  | 0 =>
    let rows := (natRange 0 (e.length / 8)).map fun k => leField e (8 * k) 8
    tellTo (modTable s tk fun t => { t with replicas := t.replicas.filter fun r => rows.contains r.1 }) dest stOk 0 []
  | 1 =>
    let rows := (natRange 0 (e.length / 8)).map fun k => leField e (8 * k) 8
    (putJob s { kind := .rowsRead tk, dest := dest, op := .scatter, p := rowReq s t, stage := .stalled, parts := [{ host := selfNode s, items := rows }] }).1
  | _ =>
    let rs := (cutRecords (imageBytes t.desc) e).map (imageRow t.desc)
    tellTo (modTable s tk fun t => { t with replicas := rs.foldl (fun m r => kset m r.1 r.2) t.replicas }) dest stOk 0 []

/-- A source's rows for a hot set are read (R478): once all are at hand they go to every switch with an entry. -/
def rowsGo (s : State) (id tk : Nat) : State :=
  match jobOf s id, tableOf s tk with
  | some j, some t =>
    if !j.wait.isEmpty then s
    else match j.fail with
      | some st => jobGone (tellTo s j.dest st 0 []) id
      | none =>
        let gots := (j.parts.flatMap (·.items)).map fun r => (r, rowGot s t j r (·.valid))
        let needs := (gots.flatMap fun e => match e.2 with
          | .need rs => rs
          | _ => []).eraseDups
        if !needs.isEmpty then jobFetch s id needs
        else
          let imgs := gots.flatMap fun e => match e.2 with
            | .got c _ => rowImage e.1 (if c.valid then c else { c with codes := leBytes (codeBytes t.desc) 0 })
            | _ => rowImage e.1 { valid := false, codes := leBytes (codeBytes t.desc) 0 }
          let bad := (gots.filter fun e => match e.2 with
            | .got _ b => b
            | _ => false).length
          let put := fun (s : State) (dest : JobTo) (b : List Byte) =>
            let rs := (cutRecords (imageBytes t.desc) (b.drop 64)).map (imageRow t.desc)
            tellTo (modTable s tk fun t => { t with replicas := rs.foldl (fun m r => kset m r.1 r.2) t.replicas }) dest stOk 0 []
          tellEmb (jobGone (bumpEmb s tk 3 bad) id) { group := 0x0F, verb := 8, part := t.part, dest := j.dest, obj := tk, stage := 2 } 7 8 (handleOfTable t) 2 [] imgs
            (entryNodes s (shardHosts t.desc t.shards)) put
  | some j, none => jobGone (tellTo s j.dest stDenied 0 []) id
  | none, _ => s

/-! ## Destruction, steps, default row (R450, R466, R471, R484) -/

/-- Admitted requests of a table here, those that R88 holds among them (R450). -/
def tableBusy (s : State) (tk : Nat) : Bool := s.ing.outs.any fun e =>
  (e.2.op = .gather || e.2.op = .scatter) && (handleTable s e.2.p.address.toNat).any fun x => x.1 = tk

/-- Who waits for the admitted requests of a table is answered when they are complete. -/
def closeTable (s : State) (tk : Nat) : State :=
  match tableOf s tk with
  | none => s
  | some t =>
    if t.closing.isEmpty || tableBusy s tk then s
    else t.closing.foldl (fun s dest => tellTo s dest stOk 0 []) (modTable s tk fun t => { t with closing := [] })

/-- EMB.CLOSE_STEP at a shard host (R471). -/
def closeStep (s : State) (tk : Nat) (t : EmbTable) (step : Nat) : State × Nat :=
  if step ≠ t.step ∧ step ≠ (t.step + 1) % 2 ^ 32 then (s, stDenied)
  else (stepGo (modTable s tk fun t => { t with bufs := kset t.bufs step { kget t.bufs step {} with closed := true } }) tk 8, stOk)

/-- What a switch does with a relayed EMB command. -/
def embTake (s : State) (dest : JobTo) (b : List Byte) : State :=
  let ans := fun (s : State) (st res : Nat) => tellTo s dest st res []
  let part := leField b 6 2 % 1024
  let verb := leField b 1 1
  if verb = 1 && (emStage b = 0 || emStage b = 3) then
    let r := embInstall s part b
    ans r.1 r.2 0
  else match handleTable s (emHandle b) with
    | none => ans s (if verb = 9 && emStage b = 3 || verb = 1 || verb = 2 || verb = 3 || verb = 8 then stOk else stDenied) 0
    | some (tk, t) =>
      match verb with
      | 1 => ans (if emStage b = 2 then clearRows s t else freeTable s tk) stOk 0
      | 2 => if emStage b = 0 then closeTable (modTable s tk fun t => { t with active := false, closing := t.closing ++ [dest] }) tk
             else ans (freeTable s tk) stOk 0
      | 3 =>
        let r : RowCopy := { scale := emArg b 0 2, offset := emArg b 4 2, codes := sliceBytes b 64 (codeBytes t.desc) }
        ans (modTable s tk fun t => { t with dflt := r }) stOk 0
      | 4 => replacePart s dest tk t b
      | 5 =>
        let r := closeStep s tk t (emArg b 0 4)
        ans r.1 r.2 0
      | 6 => ans s stOk (t.step + 2 ^ 32 * t.lastApplied)
      | 8 => hotPart s dest tk t b
      | 9 => movePart s dest tk t b
      | _ => ans s stUnsupported 0

/-! ## When every switch has answered -/

/-- The status of the first check of R447 that failed at some switch. -/
def firstBadTable (l : List Nat) : Nat :=
  if l.contains stNoMapping then stNoMapping + 256 * 3 else if l.contains stDenied then stDenied + 256 * 3
  else if l.contains stBudget then stBudget + 256 * 4 else l.headD stRetry

/-- Every switch has answered a message about a table. -/
def embRelayed (s : State) (r : Relay) : State :=
  let ans := fun (s : State) (st res : Nat) => tellTo s r.dest st res []
  let worst := r.bad.headD stOk
  match r.verb, r.stage with
  | 1, 0 =>
    if r.bad.isEmpty then
      -- R447, R448: rows are cleared once every switch has made its checks
      if r.args.isEmpty then ans s stOk r.obj
      else tellEmb s { group := 0x0F, verb := 1, part := r.part, dest := r.dest, obj := r.obj, stage := 2 } 7 1 r.obj 2 [] [] r.args embTake
    else
      let s := tellEmb s { group := 0x0F, verb := 1, part := r.part, dest := .nobody, obj := r.obj, stage := 1 } 7 1 r.obj 1 [] [] (r.took.map (·.1)) embTake
      ans s (firstBadTable r.bad) 0
  | 1, 2 => ans s worst r.obj
  | 1, 3 => ans s (if r.bad.isEmpty then stBudget + 256 * 4 else firstBadTable r.bad) 0
  | 2, 0 => tellEmb s { group := 0x0F, verb := 2, part := r.part, dest := r.dest, obj := r.obj, stage := 1 } 7 2 r.obj 1 [] [] (entryNodes s r.args) embTake
  | 4, 9 => ans s worst 0
  | 4, _ => ans s worst (r.args.headD 0)
  | 6, _ =>
    let rows := r.args.map fun h => kget r.took h 0
    tellTo s r.dest worst 0 (rows.flatMap fun x => leBytes 8 x)
  | 8, 0 =>
    match handleTable s r.obj with
    | none => ans s stDenied 0
    | some (_, t) =>
      let hosts := (r.args.map (rowSource t)).eraseDups
      if hosts.isEmpty then ans s worst 0
      else
        let (s, id) := newRelay s { group := 0x0F, verb := 8, part := r.part, dest := r.dest, obj := r.obj, stage := 1 }
        hosts.foldl (fun s h =>
          let rows := (r.args.filter fun x => rowSource t x = h).flatMap (leBytes 8)
          let a := embArgs r.obj 1 []
          let s := relaySend s id 7 0x0F 8 r.part 0 a rows [h]
          if h = selfNode s then embTake s (.relay id h) ((xchgPayload 7 0x0F 8 r.part 0 a).drop 8 ++ rows) else s) s
  | 9, 0 =>
    -- a move that the coordinator makes for slowness answers nobody (R571)
    let s := if r.dest = .nobody && r.bad.isEmpty then countMoves s r.part (r.args.length - 1) else s
    if !r.bad.isEmpty then ans s worst 0
    else match handleTable s r.obj with
      | none => ans s stDenied 0
      | some (_, t) =>
        let target := r.args.headD 0
        let rows := (r.args.drop 1).filter fun x => rowSource t x ≠ target
        let hosts := (rows.map (rowSource t)).eraseDups
        if hosts.isEmpty then ans s stOk 0
        else
          let (s, id) := newRelay s { group := 0x0F, verb := 9, part := r.part, dest := r.dest, obj := r.obj, stage := 1 }
          hosts.foldl (fun s h =>
            let mine := (rows.filter fun x => rowSource t x = h).flatMap (leBytes 8)
            let a := embArgs r.obj 1 (leBytes 4 target)
            let s := relaySend s id 8 0x0F 9 r.part 0 a mine [h]
            if h = selfNode s then embTake s (.relay id h) ((xchgPayload 8 0x0F 9 r.part 0 a).drop 8 ++ mine) else s) s
  | 9, 2 =>
    let row := r.args.headD 0
    match tableOf s r.obj with
    | none => s
    | some t =>
      match t.moves.find? fun m => m.row = row && m.target ≠ selfNode s with
      | none => s
      | some m =>
        let s := modTable s r.obj fun t => { t with moves := onMove row (fun x => { x with copied := true }) t.moves }
        tellEmb s { group := 0x0F, verb := 9, part := t.part, dest := .nobody, obj := r.obj, stage := 3, args := [row] } 8 9 (handleOfTable t) 3
          (leBytes 8 row ++ leBytes 4 m.target) [] (entryNodes s (shardHosts t.desc t.shards)) embTake
  | 9, 3 => modTable s r.obj fun t => { t with moves := onMove (r.args.headD 0) (fun x => if x.copied then { x with acked := true } else x) t.moves }
  | _, _ => ans s worst 0

/-- A host's share of a command is done when none of its records or moves waits any more. -/
def embShares (s : State) : State :=
  let waits := fun (id : Nat) => s.fab.tables.any fun e =>
    e.2.late.any (fun x => x.2 = .relay id (selfNode s)) || (e.2.moves.any fun m => m.dest = .relay id (selfNode s)) ||
      s.fab.jobs.any fun j => j.2.dest = .relay id (selfNode s) && (match j.2.kind with
        | .row _ _ _ => true
        | _ => false)
  modFab s fun f => { f with relays := f.relays.map fun (e : Nat × Relay) =>
    if e.2.group = 0x0F && e.2.stage = 9 && e.2.local_ && !waits e.1 then (e.1, { e.2 with local_ := false }) else e }

/-- Rows that a re-balancing moves from a slow host to another shard host (R571): some of those of one frame, of which at most MOVE_CAP. Which frame is
read most, which host is least loaded and how many rows go only the hosts know: open choices (log entry 71). -/
def movableRows (s : State) (t : EmbTable) (slow : Nat) : List Nat × Nat :=
  let others := (shardHosts t.desc t.shards).filter (· ≠ slow)
  let mine := (natRange 0 (tdShards t.desc)).filter fun k => teHost t.shards k = slow && decide (teBase t.shards k < teEnd t.desc t.shards k)
  match mine[freeNat s % mine.length]? with
  | none => ([], noNode)
  | some k =>
    let start := teBase t.shards k + Config.freeNat (s.freeCtr + 1) % (teEnd t.desc t.shards k - teBase t.shards k)
    let most := Nat.min (tdMove t.desc) (Nat.max 1 (frameBytes / rowStride t.desc))
    let n := Nat.min (1 + Config.freeNat (s.freeCtr + 2) % Nat.max 1 most) most
    ((natRange start (Nat.min n (teEnd t.desc t.shards k - start))).filter fun r => rowSource t r = slow,
     others.getD (Config.freeNat (s.freeCtr + 3) % Nat.max 1 others.length) noNode)

/-- A step's boundary at a table's coordinator: rows of a slow host move to another, as by EMB.MOVE_ROWS (R571). -/
def balanceTable (s : State) (tk : Nat) : State :=
  match tableOf s tk with
  | none => s
  | some t =>
    if !t.lag.due then s
    else
      let s' := { modTable s tk fun t => { t with lag := { t.lag with due := false } } with freeCtr := s.freeCtr + 4 }
      match slowOnes s t.lag with
      | [] => s'
      | h :: _ =>
        let m := movableRows s t h
        if m.1.isEmpty ∨ m.2 = noNode then s'
        else
          let n := (m.1.filter fun r => rowHome t r ≠ m.2).length
          tellEmb (modTable s' tk fun t => { t with lag := { t.lag with slowFor := kdel t.lag.slowFor h } })
            { group := 0x0F, verb := 9, part := t.part, dest := .nobody, obj := handleOfTable t, args := m.2 :: m.1 } 8 9 (handleOfTable t) 0
            (leBytes 4 n) [] [m.2] embTake

/-- Embedding tables go on: moves, replacements, steps, closings. -/
def embFinish (s : State) : State :=
  embShares (s.fab.tables.foldl (fun s e =>
    let s := ((tableOf s e.1).map (·.moves)).getD [] |>.foldl (moveGo e.1) s
    closeTable (lateGo (balanceTable (stepGo s e.1 8) e.1) e.1) e.1) s)

end Sys2Proof.Machine
end

