-- ==== Sys2Proof/Machine/SearchCore.lean ====
section
/-! DEFINITION. Machine/SearchCore.lean: vector indexes, search on a shard, merging, deletion and repair (11_vector_search.md R485 to
R526). -/
namespace Sys2Proof.Machine

/-! ## Indexes (R485 to R498) -/

/-- Fields of an index descriptor (R486). -/
def ixCluster (d : List Byte) : Bool := leField d 0 1 % 4 = 1
def ixMetric (d : List Byte) : Nat := leField d 0 1 / 4 % 4
def ixFmt (d : List Byte) : Nat := leField d 1 1 % 32
def ixDim (d : List Byte) : Nat := leField d 2 2 % 8192
def ixSk (d : List Byte) : Nat := leField d 4 1 % 32
def ixDeg (d : List Byte) : Nat := leField d 5 1 % 128
def ixShards (d : List Byte) : Nat := leField d 6 1 % 128
def ixItems (d : List Byte) : Nat := leField d 8 4
def ixMax (d : List Byte) : Nat := leField d 0xC 2 % 2 ^ 15

/-- Bytes of a vector, and the strides of R495 and R497. -/
def vecBytes (d : List Byte) : Nat := ixDim d * (fmtBits (ixFmt d) / 8)
def vStride (d : List Byte) : Nat := ceilDiv (vecBytes d) 64 * 64
def nStride (d : List Byte) : Nat := ceilDiv (4 * ixDeg d) 64 * 64
def cStride (d : List Byte) : Nat := ceilDiv (vecBytes d) 16 * 16
def eStride (d : List Byte) : Nat := ceilDiv (8 + vecBytes d) 16 * 16

/-- Fields of entry k of a shard table (R487), and the end of the shard's ids (R488). -/
def siHost (t : List Byte) (k : Nat) : Nat := leField t (64 * k) 2 % 2 ^ 15
def siAst (t : List Byte) (k : Nat) : Nat := leField t (64 * k + 2) 2 % 2 ^ 12
def siBase (t : List Byte) (k : Nat) : Nat := leField t (64 * k + 4) 4
def siVec (t : List Byte) (k : Nat) : Nat := leField t (64 * k + 8) 8
def siSk (t : List Byte) (k : Nat) : Nat := leField t (64 * k + 0x10) 8
def siNbr (t : List Byte) (k : Nat) : Nat := leField t (64 * k + 0x18) 8
def siTomb (t : List Byte) (k : Nat) : Nat := leField t (64 * k + 0x20) 8
def siEntry (t : List Byte) (k : Nat) : Nat := leField t (64 * k + 0x28) 4
def siLen (t : List Byte) (k : Nat) : Nat := leField t (64 * k + 0x30) 8
def siEnd (d t : List Byte) (k : Nat) : Nat := if k + 1 < ixShards d then siBase t (k + 1) else ixItems d

/-- Check 1 of R492 on the descriptor. -/
def ixDescOk (d : List Byte) : Bool :=
  decide (leField d 0 1 % 4 ≤ 1) && ixMetric d ≠ 3 && leField d 0 1 / 16 = 0 && (ixFmt d = 4 || ixFmt d = 0xB || ixFmt d = 0xC) &&
  leField d 1 1 / 32 = 0 && decide (ixDim d ≤ 4096) && leField d 2 2 / 8192 = 0 && leField d 4 1 / 32 = 0 && leField d 5 1 / 128 = 0 &&
  (if ixCluster d then ixSk d = 0 && ixDeg d = 0 else decide (1 ≤ ixSk d ∧ ixSk d ≤ 16) && decide (1 ≤ ixDeg d ∧ ixDeg d ≤ 64)) &&
  decide (1 ≤ ixShards d ∧ ixShards d ≤ 64) && leField d 6 2 / 128 = 0 && decide (1 ≤ ixMax d ∧ ixMax d ≤ 16384) && leField d 0xC 4 / 2 ^ 15 = 0 &&
  leField d 0x18 40 = 0

/-- Check 1 of R492 on the shard table. -/
def ixShardsOk (d t : List Byte) : Bool :=
  (natRange 0 (ixShards d)).all fun k =>
    leField t (64 * k) 2 / 2 ^ 15 = 0 && leField t (64 * k + 2) 2 / 2 ^ 12 = 0 && leField t (64 * k + 0x2C) 4 = 0 && leField t (64 * k + 0x38) 8 = 0 &&
    siVec t k % 64 = 0 && siSk t k % 64 = 0 && siNbr t k % 64 = 0 && siTomb t k % 64 = 0 &&
    (if ixCluster d then decide (siEntry t k ≤ 1048576) else siLen t k = 0) &&
    (if k = 0 then siBase t 0 = 0 else decide (siBase t (k - 1) ≤ siBase t k)) && decide (siBase t k ≤ siEnd d t k)

def indexKey (coord id : Nat) : Nat := coord * 4096 + id
def indexOf (s : State) (xk : Nat) : Option SearchIx := kfind s.fab.indexes xk
def modIndex (s : State) (xk : Nat) (f : SearchIx → SearchIx) : State := modFab s fun x => { x with indexes := kmod x.indexes xk f }
def bumpSearch (s : State) (xk k n : Nat) : State := bumpBy s (.search xk k) 48 n
def handleOfIndex (x : SearchIx) : Nat := mkNodeHandle x.id x.coord x.part x.gen

/-- The index of a handle, where its entry here is current (R493). -/
def handleIndex (s : State) (a : Nat) : Option (Nat × SearchIx) :=
  let h := nodeHandle a
  let xk := indexKey h.2.1 h.1
  match indexOf s xk with
  | some x => if x.part = h.2.2.1 ∧ x.gen = h.2.2.2 ∧ a < 2 ^ 48 then some (xk, x) else none
  | none => none

def ixHosts (d t : List Byte) : List Nat := ((natRange 0 (ixShards d)).map (siHost t)).eraseDups
/-- The shards of a host; the present entry item of a shard (R524). -/
def hostShards (d t : List Byte) (h : Nat) : List Nat := (natRange 0 (ixShards d)).filter fun k => siHost t k = h
def entryItem (x : SearchIx) (k : Nat) : Nat := (kfind x.entries k).getD (siEntry x.shards k)

/-- Arrays of a shard: write, address, bytes (R492, R495, R497). -/
def shardArrays (d t : List Byte) (k : Nat) : List (Bool × Nat × Nat) :=
  let n := siEnd d t k - siBase t k
  let tomb := [(false, siTomb t k, ceilDiv n 8), (true, siTomb t k, ceilDiv n 8)]
  let l := if ixCluster d then
      [(false, siVec t k, siLen t k), (false, siSk t k, siEntry t k * cStride d), (false, siNbr t k, 16 * siEntry t k)] ++ tomb
    else [(false, siVec t k, n * vStride d), (false, siSk t k, n * 32 * ixSk d), (false, siNbr t k, n * nStride d)] ++ tomb
  l.filter fun e => e.2.2 ≠ 0

/-- Translations of the arrays of shards under their ASTs. -/
def shardPages (s : State) (part : Nat) (d t : List Byte) (ks : List Nat) : List ((Nat × Nat) × Nat) ⊕ Nat :=
  lookAll s part (ks.flatMap fun k => (shardArrays d t k).map fun e => (siAst t k, e.1, e.2.1, e.2.2))

/-! ## Scores (R499 to R501) -/

/-- Elements of a vector. -/
def vecVals (d b : List Byte) : List Val := (natRange 0 (ixDim d)).map fun k => elemVal (ixFmt d) (fieldAt b (fmtBits (ixFmt d)) k)

/-- The score of an item for a query. -/
def score (d : List Byte) (q x : List Val) : Val :=
  if ixDim d = 0 then .zero
  else
    let f := ixFmt d
    let dot := fun a b => rnd32 (tileDot f a b)
    match ixMetric d with
    | 0 => dot q x
    | 2 => rnd32 (tileL2 f q x)
    | _ =>
      let n := rnd32 ((dot q q).mul (dot x x))
      if n.isZero then .zero else rnd32 ((dot q x).mul (rsqrtF n))

/-- The key of a score, and the order of keys and ids. -/
def scoreKey (d : List Byte) (sc : Val) : Val := if ixMetric d = 2 then sc else sc.neg
def keyBefore (a b : Val × Nat) : Bool :=
  if a.1.isNan then b.1.isNan && decide (a.2 < b.2)
  else if b.1.isNan then true
  else decide (a.1.cmpNum b.1 < 0) || (a.1.cmpNum b.1 = 0 && decide (a.2 < b.2))

/-- A scored item: id and score. -/
abbrev Scored := Nat × Val
def ranked (d : List Byte) (l : List Scored) : List Scored := sortBy (fun a b => keyBefore (scoreKey d a.2, a.1) (scoreKey d b.2, b.1)) l
def bestFirst (d : List Byte) (n : Nat) (l : List Scored) : List Scored := (ranked d l).take n

/-- One bits of bytes. -/
def popByte (b : Byte) : Nat := ((natRange 0 8).filter fun i => b.getLsbD i).length
def popXor (a b : List Byte) : Nat := ((a.zip b).map fun e => popByte (e.1 ^^^ e.2)).foldl (· + ·) 0

/-- Order of (h, id) pairs (R501). -/
def pairBefore (a b : Nat × Nat) : Bool := decide (a.1 < b.1 ∨ (a.1 = b.1 ∧ a.2 < b.2))

/-! ## The request (R502, R503) -/

def sK (b : List Byte) : Nat := leField b 0 2
def sQueue (b : List Byte) : Nat := leField b 2 2
def sRerank (b : List Byte) : Nat := leField b 4 2
def sEffort (b : List Byte) : Nat := leField b 6 2
def sPart (b : List Byte) : Bool := (leField b 8 1).testBit 0
def sMissing (b : List Byte) : Bool := (leField b 8 1).testBit 1
def sFilter (b : List Byte) : Nat := leField b 0x10 8
/-- Bytes of the query vector and of the sketch, padded. -/
def qVecBytes (d : List Byte) : Nat := ceilDiv (vecBytes d) 64 * 64
def qSkBytes (d : List Byte) : Nat := if ixCluster d then 0 else ceilDiv (32 * ixSk d) 64 * 64
def bitmapBytes (d : List Byte) : Nat := ceilDiv (ixItems d) 8

/-- A virtual range lies in one translation page: one of 32 GiB where its table entry says so (R166). -/
def onePage (s : State) (ast va n : Nat) : Bool :=
  n = 0 || va / GiB = (va + n - 1) / GiB || (va / (32 * GiB) = (va + n - 1) / (32 * GiB) && (pteOf s ast (va / GiB)).any (·.size32))

/-- Check 1 of R504 (R502); the bitmap lies in one page (R503). -/
def searchFormOk (s : State) (d : List Byte) (p : Req) : Bool :=
  let b := p.payload
  b.length = 64 + qVecBytes d + qSkBytes d && decide (sK b ≤ 1024) && leField b 8 1 / 4 = 0 && leField b 9 7 = 0 && leField b 0x18 40 = 0 &&
  (if ixCluster d then sQueue b = 0 && sRerank b = 0
   else decide (1 ≤ sQueue b ∧ sQueue b ≤ 1024) && decide (sK b ≤ sRerank b ∧ sRerank b ≤ 1024) && decide (sEffort b ≤ 4096)) &&
  (sPart b || sFilter b = 0 || onePage s p.ast.toNat (sFilter b) (bitmapBytes d))

/-! ## Search on a shard (R508 to R512) -/

/-- What a part has found so far, and its counts: expansions, items scored, re-ranked, deleted, filtered, out of range, bad lists. -/
structure Found where
  q : List (Nat × Nat) := []
  e : List (Nat × Nat) := []
  x : List Nat := []
  n : Nat := 0
  scored : Nat := 0
  tombs : Nat := 0
  filtered : Nat := 0
  outside : Nat := 0
  bad : Nat := 0
deriving DecidableEq, Repr

/-- A search stops where lines it needs have not arrived: it is run again from its start when they have. -/
abbrev Search := Except (List (Nat × Nat))

/-- Bytes of pool ranges, where their lines have arrived. -/
def fetchBytes (j : Job) (rs : List (Nat × Nat)) : Search (List Byte) :=
  match missingLines j rs with
  | [] => .ok (cachedRanges j rs)
  | ls => .error (joinLines ls)

/-- The shard a part searches. -/
structure ShardView where
  j : Job
  x : SearchIx
  k : Nat
  /-- pool address of the bitmap, where there is one -/
  bitmap : Option Nat
def ShardView.d (v : ShardView) : List Byte := v.x.desc
def ShardView.base (v : ShardView) : Nat := siBase v.x.shards v.k
def ShardView.fin (v : ShardView) : Nat := siEnd v.x.desc v.x.shards v.k
/-- Bytes at a virtual address under the shard's AST. -/
def ShardView.bytes (v : ShardView) (va n : Nat) : Search (List Byte) := fetchBytes v.j (vaPool v.j.pages (siAst v.x.shards v.k) va n)
def ShardView.has (v : ShardView) (id : Nat) : Bool := decide (v.base ≤ id ∧ id < v.fin)

/-- Sketch, neighbour list and vector of an item (R495). -/
def ShardView.sketch (v : ShardView) (id : Nat) : Search (List Byte) :=
  v.bytes (siSk v.x.shards v.k + (id - v.base) * 32 * ixSk v.d) (32 * ixSk v.d)
def ShardView.nbrs (v : ShardView) (id : Nat) : Search (List Nat) := do
  let b ← v.bytes (siNbr v.x.shards v.k + (id - v.base) * nStride v.d) (4 * ixDeg v.d)
  return (natRange 0 (ixDeg v.d)).map fun i => leField b (4 * i) 4
def ShardView.vec (v : ShardView) (id : Nat) : Search (List Val) := do
  let b ← v.bytes (siVec v.x.shards v.k + (id - v.base) * vStride v.d) (vecBytes v.d)
  return vecVals v.d b

/-- An item is deleted; a filter does not allow it (R495, R503). -/
def ShardView.deleted (v : ShardView) (id : Nat) : Search Bool := do
  let i := id - v.base
  let b ← v.bytes (siTomb v.x.shards v.k + i / 8) 1
  return (leField b 0 1).testBit (i % 8)
def ShardView.barred (v : ShardView) (id : Nat) : Search Bool := do
  match v.bitmap with
  | none => return false
  | some a =>
    let b ← fetchBytes v.j [(a + id / 8, 1)]
    return !(leField b 0 1).testBit (id % 8)

/-- `consider` of R509: Q holds `queue` entries, E `rerank`. -/
def consider (v : ShardView) (qs : List Byte) (queue rerank : Nat) (f : Found) (y : Nat) : Search Found := do
  let sk ← v.sketch y
  let h := popXor qs sk
  let f := { f with scored := f.scored + 1 }
  let q := if f.q.length < queue then insertBy pairBefore (h, y) f.q
    else match f.q.getLast? with
      | some z => if pairBefore (h, y) z then insertBy pairBefore (h, y) f.q.dropLast else f.q
      | none => f.q
  let f := { f with q := q }
  let could := decide (f.e.length < rerank) || match f.e.getLast? with
    | some z => pairBefore (h, y) z
    | none => false
  if !could then return f
  else
    let del ← v.deleted y
    let bar ← v.barred y
    if del || bar then return { f with tombs := f.tombs + del.toNat, filtered := f.filtered + bar.toNat }
    else return { f with e := insertBy pairBefore (h, y) (if f.e.length < rerank then f.e else f.e.dropLast) }

/-- The loop of R509: what is found, and the stop reason. -/
def graphLoop (v : ShardView) (qs : List Byte) (queue rerank budget : Nat) : Nat → Found → Search (Found × Nat)
  | 0, f => return (f, 2)
  | fuel + 1, f =>
    match f.q.find? fun e => !f.x.contains e.2 with
    | none => return (f, 0)
    | some e =>
      let conv := f.e.length = rerank && match f.e.getLast? with
        | some z => pairBefore z e
        | none => false
      if conv then return (f, 1)
      else if f.n = budget then return (f, 2)
      else do
        let f := { f with x := f.x ++ [e.2], n := f.n + 1 }
        let ys ← v.nbrs e.2
        let f ← ys.foldlM (fun (f : Found) y => do
          if y = 0xFFFFFFFF || y = e.2 then return f
          else if !v.has y then return { f with outside := f.outside + 1 }
          else if f.q.any (fun z => z.2 = y) || f.e.any (fun z => z.2 = y) || f.x.contains y then return f
          else consider v qs queue rerank f y) f
        graphLoop v qs queue rerank budget fuel f

/-- A GRAPH shard (R509, R511): items with scores, what was counted, and the stop reason. -/
def graphShard (v : ShardView) (b : List Byte) : Search (List Scored × Found × Nat) := do
  let entry := entryItem v.x v.k
  if v.base = v.fin || !v.has entry then return ([], {}, 3)
  else
    let qs := sliceBytes b (64 + qVecBytes v.d) (32 * ixSk v.d)
    let q := vecVals v.d (sliceBytes b 64 (vecBytes v.d))
    let f ← consider v qs (sQueue b) (sRerank b) {} entry
    let (f, stop) ← graphLoop v qs (sQueue b) (sRerank b) (sEffort b) (sEffort b + 1) f
    let l ← f.e.mapM fun e => do
      let x ← v.vec e.2
      return (e.2, score v.d q x)
    return (bestFirst v.d (sK b) l, f, stop)

/-- A CLUSTER shard (R497, R498, R512). -/
def clusterShard (v : ShardView) (b : List Byte) : Search (List Scored × Found × Nat) := do
  let t := v.x.shards
  let n := siEntry t v.k
  if n = 0 then return ([], {}, 3)
  else
    let q := vecVals v.d (sliceBytes b 64 (vecBytes v.d))
    let cs ← (natRange 0 n).mapM fun c => do
      let x ← v.bytes (siSk t v.k + c * cStride v.d) (vecBytes v.d)
      return (c, score v.d q (vecVals v.d x))
    let lists := (bestFirst v.d (Nat.min (sEffort b) n) cs).map (·.1)
    let (l, f) ← lists.foldlM (fun (a : List Scored × Found) c => do
      let e ← v.bytes (siNbr t v.k + 16 * c) 16
      let off := leField e 0 5
      let cnt := leField e 8 4
      if siLen t v.k < off + cnt * eStride v.d then return (a.1, { a.2 with bad := a.2.bad + 1 })
      else (natRange 0 cnt).foldlM (fun (a : List Scored × Found) i => do
        let p ← v.bytes (siVec t v.k + off + i * eStride v.d) (8 + vecBytes v.d)
        let id := leField p 0 4
        if !v.has id then return (a.1, { a.2 with outside := a.2.outside + 1 })
        else
          let del ← v.deleted id
          let bar ← v.barred id
          if del || bar then return (a.1, { a.2 with tombs := a.2.tombs + del.toNat, filtered := a.2.filtered + bar.toNat })
          else
            let sc := score v.d q (vecVals v.d (p.drop 8))
            return (a.1 ++ [(id, sc)], { a.2 with scored := a.2.scored + 1 })) (a.1, { a.2 with n := a.2.n + 1 })) (([], {}) : List Scored × Found)
    let one := (ranked v.d l).foldl (fun (acc : List Scored) e => if acc.any fun z => z.1 = e.1 then acc else acc ++ [e]) []
    return (one.take (sK b), f, 4)

/-- A SEARCH part over the shards of this host (R511). -/
def searchPartStep (s : State) (j : Job) (xk : Nat) : JobStep :=
  match indexOf s xk with
  | none => .fail stDenied
  | some x =>
    let b := j.p.payload
    let d := x.desc
    let ks := hostShards d x.shards (selfNode s)
    let bm := if sFilter b = 0 then none else some (sFilter b)
    match ks.mapM fun k => (if ixCluster d then clusterShard else graphShard) { j := j, x := x, k := k, bitmap := bm } b with
    | .error rs => .need rs
    | .ok rs =>
      let items := bestFirst d (sK b) (rs.flatMap (·.1))
      let sum := fun (f : Found → Nat) => (rs.map fun r => f r.2.1).foldl (· + ·) 0
      let stops := rs.map (·.2.2)
      let stop := if stops.contains 2 then 2 else (stops.find? (· ≠ 3)).getD (stops.headD 3)
      let rer := if ixCluster d then 0 else (rs.map fun r => r.2.1.e.length).foldl (· + ·) 0
      .done { result := items.length + 2 ^ 32 * Nat.min 65535 (sum (·.n)) + 2 ^ 48 * stop
              cover := 8 * sK b, data := some (items.flatMap fun e => leBytes 4 e.1 ++ leBytes 4 (fp32.encode rne false e.2))
              counts := [(.search xk 3, if ixCluster d then 0 else sum (·.n)), (.search xk 4, sum (·.scored)), (.search xk 5, rer), (.search xk 6, sum (·.tombs)),
                         (.search xk 7, sum (·.filtered)), (.search xk 8, sum (·.outside)), (.search xk 9, sum (·.bad)),
                         (.search xk 11, (stops.filter (· = 2)).length)] }

/-! ## Parts and roots (R504 to R507, R513 to R517) -/

/-- Query slots of an index in use here: queries rooted here and parts (R489, R504, R507). -/
def slotsUsed (s : State) (xk : Nat) : Nat := (s.fab.jobs.filter fun e => e.2.kind = .search xk || e.2.kind = .searchPart xk).length

/-- A block of the search instance, outside the regions that re-balancing leaves out where there are others (R571). -/
def searchBlock (s : State) (x : SearchIx) (i : Nat) (rs : List Nat) : Option Nat :=
  let bs := ((instOf s i).map fun y => y.blocks.flatMap fun l => l.filterMap id).getD []
  let fast := bs.filter fun b => !x.slow.contains (b / 16)
  let l := blocksNear (if fast.isEmpty then bs else fast) rs
  l[freeNat s % Nat.max 1 l.length]?

/-- A part's step has committed in a region: how long it took is compared with the other regions (R571). -/
def searchTook (s : State) (xk r took : Nat) : State :=
  if !rebalanceOn s then s
  else match indexOf s xk with
    | none => s
    | some x =>
      let l := lagOne s { x.lag with took := kset x.lag.took r took } r
      let s := modIndex s xk fun x => { x with lag := l }
      if (slowOnes s l).contains r && !x.slow.contains r then
        countMoves (modIndex s xk fun x => { x with slow := x.slow ++ [r] }) x.part 1
      else s

/-- A SEARCH part reaches its host (R507). -/
def startSearchPart (s : State) (dest : JobTo) (xk : Nat) (x : SearchIx) (p : Req) : State :=
  if ixMax x.desc ≤ slotsUsed s xk then refuse s dest .search p stRetry
  else match libInst s x.part 5 with
    | none => refuse s dest .search p stUnsupported
    | some i =>
      match shardPages s x.part x.desc x.shards (hostShards x.desc x.shards (selfNode s)) with
      | .inr st => refuse s dest .search p st
      | .inl pages =>
        let data := (hostShards x.desc x.shards (selfNode s)).flatMap fun k =>
          (shardArrays x.desc x.shards k).flatMap fun e => vaPool pages (siAst x.shards k) e.2.1 e.2.2
        let b := searchBlock s x i (dataRegions s data)
        (putJob (bumpFree (bumpSearch s xk 1 1)) { kind := .searchPart xk, dest := dest, op := .search, p := p, inst := some i, block := b,
                                                   also := (shareBlocks s (some i) (dataRegions s data) b).filter fun k => !x.slow.contains (k / 16),
                                                   pages := pages }).1

/-- A SEARCH at its root (R504, R505). -/
def startSearch (s : State) (dest : JobTo) (p : Req) : State :=
  match handleIndex s p.address.toNat with
  | none => refuse s dest .search p stDenied
  | some (xk, x) =>
    let b := p.payload
    let d := x.desc
    let remote := isRemote dest
    let cmd := match dest with
      | .cmd _ => true
      | _ => false
    -- a request of an endpoint was admitted at its ingress (R494); a command is admitted here
    if cmd && !x.active then refuse s dest .search p stDenied
    else if p.length = 0 then refuse s dest .search p stOk
    else if !searchFormOk s d p then refuse s dest .search p stMalformed
    else if sPart b ≠ remote then refuse s dest .search p stDenied
    else if remote then startSearchPart s dest xk x p
    else
      let a := p.ast.toNat
      match lookAll s x.part (if sFilter b = 0 then [] else [(a, false, sFilter b, bitmapBytes d)]) with
      | .inr st => refuse s dest .search p st
      | .inl pages =>
        if ixMax d ≤ slotsUsed s xk then refuse s dest .search p stRetry
        else if sK b = 0 then refuse (bumpSearch s xk 0 1) dest .search p stOk
        else
          let f := if sFilter b = 0 then 0 else (poolAt pages a (sFilter b)).getD 0
          let pl := sliceBytes b 0 8 ++ leBytes 1 (leField b 8 1 + 1) ++ sliceBytes b 9 7 ++ leBytes 8 f ++ b.drop 24
          (putJob (bumpSearch s xk 0 1) { kind := .search xk, dest := dest, op := .search, p := p, pages := pages, lists := some pl, stage := .parts,
                                          hold := holdOf s p,
                                          parts := (ixHosts d x.shards).map fun h => { host := h, items := hostShards d x.shards h } }).1

/-- The status of a part that the root does without (R517). -/
abbrev stMissing : Nat := 0x100

/-- Send the parts of a query that may go; this switch's own begin here. -/
def searchSend (s : State) (id xk : Nat) : State :=
  match jobOf s id, indexOf s xk with
  | some j, some x =>
    (partsDue { j with parts := j.parts.map fun y => if y.retryAt.isSome then { y with sent := true, status := some 0 } else y }).foldl (fun s ix =>
      match j.parts[ix]? with
      | none => s
      | some y =>
        let pl := j.lists.getD []
        if y.host = selfNode s then
          let s := modJob s id fun j => { j with parts := j.parts.mapIdx fun i x => if i = ix then { x with sent := true } else x }
          startSearchPart s (.part id ix) xk x { j.p with payload := pl, length := BitVec.ofNat 24 pl.length }
        else sendRootPart s id ix y.host .search pl) s
  | _, _ => s

/-- Every part of a query is answered: the merge (R513 to R515). -/
def searchEnd (s : State) (id xk : Nat) : State :=
  match jobOf s id, indexOf s xk with
  | some j, some x =>
    let b := j.p.payload
    let d := x.desc
    let gone := j.parts.filter fun y => y.status = some stMissing
    let st := rootStatus { j with parts := j.parts.filter fun y => y.status ≠ some stMissing }
    if st ≠ stOk then jobGone (refuse s j.dest .search j.p st) id
    else
      let items := j.parts.flatMap fun y =>
        if y.status = some stMissing then []
        else
          let pb := (y.segs.headD (0, [])).2
          (natRange 0 (Nat.min (pb.length / 8) (y.result % 2 ^ 32))).map fun i => (leField pb (8 * i) 4, fp32.decode (leField pb (8 * i + 4) 4), leField pb (8 * i) 8)
      let top := (sortBy (fun a b => keyBefore (scoreKey d a.2.1, a.1) (scoreKey d b.2.1, b.1)) items).take (sK b)
      let missing := (gone.map (·.items.length)).foldl (· + ·) 0
      let budget := (j.parts.filter fun y => y.status ≠ some stMissing && bits y.result 48 3 = 2).length
      let full := decide (top.length = sK b)
      let s := bumpSearch (bumpSearch s xk 12 missing) xk 10 (if full then 0 else 1)
      let own := s.fab.uses.filterMap fun (e : Nat × FabUse) => match e.2 with
        | .part k ix => if k = id then (j.parts[ix]?).bind fun y => if y.status = some stMissing then some (selfNode s, e.1, y.host) else none else none
        | _ => none
      let late := match j.dest with
        | .cmd _ => own
        | _ => gone.map fun y => (j.p.src.toNat, j.p.tag.toNat, y.host)
      let s := modIndex s xk fun x => { x with late := x.late ++ late }
      jobGone (answerTo s j.dest .search j.p (if full && missing = 0 then stOk else stPartial)
        (top.length + 2 ^ 32 * Nat.min 255 budget + 2 ^ 40 * Nat.min 255 missing) (8 * sK b) (some (top.flatMap fun e => leBytes 8 e.2.2))) id
  | _, _ => s

/-- A query goes on at its root. -/
def searchGo (s : State) (id xk : Nat) : State :=
  match jobOf s id with
  | none => s
  | some j =>
    if (indexOf s xk).isNone then jobGone (refuse s j.dest .search j.p stDenied) id
    else if rootDone j then searchEnd s id xk
    else
      let s := searchSend s id xk
      match jobOf s id with
      | some j => if rootDone j then searchEnd s id xk else s
      | none => s

/-- A part came back with RETRY_LATER: it goes again 1 µs later (R507). -/
def searchRetry (s : State) (id ix : Nat) : State :=
  match jobOf s id with
  | none => s
  | some j =>
    let s := match j.kind with
      | .search xk => bumpSearch s xk 2 1
      | _ => s
    modJob s id fun j => { j with parts := j.parts.mapIdx fun i x =>
      if i = ix then { x with sent := false, status := none, segs := [], got := 0, retryAt := some (s.clk + 1000) } else x }

/-- The route to a host is lost while its parts are outstanding (R517). -/
def searchLost (s : State) (node : Nat) : State :=
  s.fab.jobs.foldl (fun s e =>
    match e.2.kind with
    | .search xk =>
      if !sMissing e.2.p.payload then s
      else
        let out := fun (x : JobPart) => x.host = node && x.status.isNone
        if !e.2.parts.any out then s
        else searchGo (modJob s e.1 fun j => { j with parts := j.parts.map fun x => if out x then { x with status := some stMissing, segs := [] } else x }) e.1 xk
    | _ => s) s

/-! ## Creation and destruction (R485 to R494) -/

/-- Reading SEARCH.CREATE's descriptor and shard table (checks 1 and 2 of R492). -/
def readIndex (s : State) (j : Job) (part ast va : Nat) : JobStep :=
  let look := fun (a n : Nat) (k : List ((Nat × Nat) × Nat) → JobStep) => match lookPages s part ast false a n with
    | .inr st => .fail (st + 256 * 2)
    | .inl ps => k ps
  look va 64 fun ps => withRanges j (vaPool ps ast va 64) fun d =>
    if !ixDescOk d then .fail (stMalformed + 256)
    else
      let n := 64 * ixShards d
      look (leField d 0x10 8) n fun pt => withRanges j (vaPool pt ast (leField d 0x10 8) n) fun t => .done { data := some (d ++ t) }

/-- SEARCH.CREATE, once its descriptor and shard table have been read. -/
def searchCreate (s : State) (dest : JobTo) (part : Nat) (b : List Byte) (take : State → JobTo → List Byte → State) : State :=
  let d := b.take 64
  let sh := b.drop 64
  let ans := fun (s : State) (st : Nat) => tellTo s dest st 0 []
  if !ixShardsOk d sh then ans s (stMalformed + 256)
  else if !((ixHosts d sh).all (hostAllowed s)) then ans s (stDenied + 256 * 3)
  else
    let hosts := entryNodes s (ixHosts d sh)
    let used := (s.fab.indexes.filter fun e => e.2.coord = selfNode s).map (·.2.id) ++ idsCreated s 0x10 fun h => (nodeHandle h).1
    match firstFree used 4096 (freeNat s) 4096 with
    | none =>
      -- checks 3 and 4 come first, at the hosts
      let h := mkNodeHandle 0 (selfNode s) part 0
      tellEmb s { group := 0x10, verb := 1, part := part, dest := dest, obj := 0, stage := 3 } 7 1 h 3 [] (d ++ sh) hosts take
    | some id =>
      let s := bumpFree s
      let h := mkNodeHandle id (selfNode s) part (genOf s hIndex id)
      tellEmb s { group := 0x10, verb := 1, part := part, dest := dest, obj := h } 7 1 h 0 [] (d ++ sh) hosts take

/-- Frames for query state at a shard host (R490). -/
def indexFrames (d : List Byte) : Nat := ceilDiv (ixMax d * 65536) frameBytes
abbrev indexOwner : Nat := 2 ^ 41

/-- Checks 3 and 4 of R492 at a switch: its shards' arrays, and its search instance. -/
def searchCheck (s : State) (part : Nat) (d sh : List Byte) : Nat :=
  let mine := hostShards d sh (selfNode s)
  match shardPages s part d sh mine with
  | .inr st => st
  | .inl ps =>
    let rs := mine.flatMap fun k => (shardArrays d sh k).flatMap fun e => vaPool ps (siAst sh k) e.2.1 e.2.2
    if !(rs.all fun r => homedHere s r.1 && homedHere s (r.1 + r.2 - 1)) then stDenied
    else if !mine.isEmpty && (libInst s part 5).isNone then stUnsupported else stOk

/-- A switch's part of SEARCH.CREATE. -/
def searchInstall (s : State) (part : Nat) (b : List Byte) : State × Nat :=
  let h := nodeHandle (emHandle b)
  let xk := indexKey h.2.1 h.1
  let d := sliceBytes b 64 64
  let sh := sliceBytes b 128 (64 * ixShards d)
  let mine := hostShards d sh (selfNode s)
  let here := searchCheck s part d sh
  let total := (s.fab.indexes.map fun e => ixMax e.2.desc).foldl (· + ·) 0
  let need := if mine.isEmpty then 0 else indexFrames d
  if here ≠ stOk then (s, here)
  else if !entryHere s part h.2.1 (ixHosts d sh) then (s, stOk)
  else if 4096 ≤ s.fab.indexes.length ∨ 16384 < total + ixMax d ∨ t1Free s < need then (s, stBudget)
  else
    let x : SearchIx := { coord := h.2.1, id := h.1, part := part, gen := h.2.2.2, desc := d, shards := sh }
    let cs := s.ctrs.filter fun e => match e.1 with
      | .search k _ => k ≠ xk
      | _ => true
    let s := modFab { s with ctrs := cs } fun f => { f with indexes := kset f.indexes xk x }
    (if need = 0 then s else { s with mem := { s.mem with reserved := kset s.mem.reserved (indexOwner + xk) need } }, stOk)

/-- Free an index's entry here (R494). -/
def freeIndex (s : State) (xk : Nat) : State :=
  match indexOf s xk with
  | none => s
  | some x =>
    let gone := s.fab.jobs.filter fun e => match e.2.kind with
      | .search k | .searchPart k | .repair k _ _ => k = xk
      | _ => false
    let s := gone.foldl (fun s e => jobGone (refuse s e.2.dest e.2.op e.2.p stDenied) e.1) s
    let s := modFab s fun f => { f with indexes := kdel f.indexes xk, tombs := f.tombs.filter fun t => t.index ≠ xk }
    let s := { s with mem := { s.mem with reserved := kdel s.mem.reserved (indexOwner + xk) } }
    if x.coord = selfNode s then bumpGen s hIndex x.id 11 else s

/-- Queries admitted here: those that an ingress check or R88 holds among them, and commands' (R494). -/
def indexBusy (s : State) (xk : Nat) : Bool :=
  (s.fab.jobs.any fun e => e.2.kind = .search xk) ||
    s.ing.outs.any fun e => e.2.op = .search && (handleIndex s e.2.p.address.toNat).any fun x => x.1 = xk

/-- Queries admitted here are complete: who waits for that is answered. -/
def closeIndex (s : State) (xk : Nat) : State :=
  match indexOf s xk with
  | none => s
  | some x =>
    if x.closing.isEmpty || indexBusy s xk then s
    else x.closing.foldl (fun s dest => tellTo s dest stOk 0 []) (modIndex s xk fun x => { x with closing := [] })

/-! ## Deletion (R520, R521) -/

/-- Set or clear tombstones at a shard host, each with one write; the answer waits for the parts admitted before. -/
def deletePart (s : State) (dest : JobTo) (xk : Nat) (x : SearchIx) (undelete : Bool) (ids : List Nat) : State :=
  let s := ids.foldl (fun s id =>
    match (natRange 0 (ixShards x.desc)).find? fun k => decide (siBase x.shards k ≤ id ∧ id < siEnd x.desc x.shards k) with
    | none => s
    | some k =>
      let i := id - siBase x.shards k
      let va := siTomb x.shards k + i / 8
      match lookPages s x.part (siAst x.shards k) true va 1 with
      | .inr _ => s
      | .inl ps =>
        let a := (poolAt ps (siAst x.shards k) va).getD 0
        enginePut 4 s a (leBytes 1 (setBits (leField (getPool s a 1) 0 1) (i % 8) 1 (if undelete then 0 else 1)))) s
  let before := (s.fab.jobs.filter fun e => e.2.kind = .searchPart xk).map (·.1)
  if before.isEmpty then tellTo s dest stOk 0 []
  else modFab s fun f => { f with tombs := f.tombs ++ [{ index := xk, jobs := before, dest := dest, skipped := 0 }] }

/-- Answer the deletions whose parts are complete. -/
def tombsDone (s : State) : State :=
  let live := s.fab.tombs.map fun (t : TombWait) => { t with jobs := t.jobs.filter fun id => (jobOf s id).isSome }
  let ready := live.filter fun t => t.jobs.isEmpty
  ready.foldl (fun s t => tellTo s t.dest stOk 0 []) (modFab s fun f => { f with tombs := live.filter fun t => !t.jobs.isEmpty })

/-! ## Repair (R522 to R524) -/

/-- The ids of an item's list that lie in the shard. -/
def ShardView.ids (v : ShardView) (id : Nat) : Search (List Nat) := do
  return (← v.nbrs id).filter fun y => y ≠ 0xFFFFFFFF && v.has y
/-- Items by key against another item's vector. -/
def ShardView.byKey (v : ShardView) (id : Nat) (l : List Nat) : Search (List Nat) := do
  let q ← v.vec id
  let sc ← l.mapM fun y => do return (y, score v.d q (← v.vec y))
  return (ranked v.d sc).map (·.1)
/-- The items of a list that are not deleted. -/
def ShardView.live (v : ShardView) (l : List Nat) : Search (List Nat) := do
  let e ← l.mapM fun y => do return (y, ← v.deleted y)
  return (e.filter fun x => !x.2).map (·.1)

/-- The list with which an item's is rewritten, where it is. -/
def ShardView.repaired (v : ShardView) (id : Nat) : Search (Option (List Nat)) := do
  if ← v.deleted id then return none
  let l ← v.ids id
  let keep ← v.live l
  let dead := l.filter fun y => !keep.contains y
  if dead.isEmpty then return none
  let more ← dead.mapM fun d => do v.live (← v.ids d)
  let c := ((keep ++ more.flatten).eraseDups).filter (· ≠ id)
  return some ((← v.byKey id c).take (ixDeg v.d))

/-- The new entry item of a shard, where the present one is deleted and has a neighbour that is not. -/
def ShardView.newEntry (v : ShardView) : Search (Option Nat) := do
  let e := entryItem v.x v.k
  if !v.has e then return none
  if !(← v.deleted e) then return none
  return (← v.byKey e (← v.live (← v.ids e))).head?

/-- What a repair asks for: accesses of the BG class (R523). -/
def repairReq (s : State) (x : SearchIx) : Req := { snoopedReq s 0 with tc := 4, vc := 3, partition := BitVec.ofNat 10 x.part }

/-- Every named shard of this host is repaired: the new entry items go to every switch with an entry (R524). -/
def repairEnd (s : State) (id xk : Nat) (j : Job) (x : SearchIx) (take : State → JobTo → List Byte → State) : State :=
  tellEmb (jobGone s id) { group := 0x10, verb := 5, part := x.part, dest := j.dest, obj := xk, stage := 1 } 7 5 (handleOfIndex x) 1 []
    (j.lists.getD []) (entryNodes s (ixHosts x.desc x.shards)) take

/-- Write an item's list with one STORE (R522). -/
def writeList (s : State) (j : Job) (x : SearchIx) (k id : Nat) (l : List Nat) : State :=
  let n := nStride x.desc
  let va := siNbr x.shards k + (id - siBase x.shards k) * n
  putRanges s 4 (vaPool j.pages (siAst x.shards k) va n) (l.flatMap (leBytes 4) ++ List.replicate (n - 4 * l.length) 0xFF) true

/-- A repair goes on: the item in hand, then the next one, whose lines and tombstones are read anew (R524). -/
def repairGo : Nat → (State → JobTo → List Byte → State) → State → Nat → State
  | 0, _, s, _ => s
  | fuel + 1, take, s, id =>
    match jobOf s id with
    | none => s
    | some j => match j.kind with
      | .repair xk ks i => match indexOf s xk with
        | none => jobGone (tellTo s j.dest stDenied 0 []) id
        | some x =>
          if !j.wait.isEmpty then s
          else match j.fail with
          | some st => jobGone (tellTo s j.dest st 0 []) id
          | none => match ks with
            | [] => repairEnd s id xk j x take
            | k :: rest =>
              let v : ShardView := { j := j, x := x, k := k, bitmap := none }
              let next := fun (s : State) (kind : JobKind) => repairGo fuel take (modJob s id fun j => { j with kind := kind, cache := [] }) id
              if v.base + i < v.fin then
                match v.repaired (v.base + i) with
                | .error rs => jobFetch s id rs
                | .ok none => next s (.repair xk ks (i + 1))
                | .ok (some l) => next (writeList (bumpSearch s xk 14 1) j x k (v.base + i) l) (.repair xk ks (i + 1))
              else
                match v.newEntry with
                | .error rs => jobFetch s id rs
                | .ok none => next s (.repair xk rest 0)
                | .ok (some e) =>
                  next (modJob s id fun j => { j with lists := some (j.lists.getD [] ++ leBytes 4 k ++ leBytes 4 e) }) (.repair xk rest 0)
      | _ => s

/-- A host's part of SEARCH.REPAIR begins: the named shards, in ascending number. -/
def repairPart (s : State) (dest : JobTo) (xk : Nat) (x : SearchIx) (mask : Nat) : State :=
  let ks := (hostShards x.desc x.shards (selfNode s)).filter mask.testBit
  if ixCluster x.desc then tellTo s dest stOk ks.length []
  else match shardPages s x.part x.desc x.shards ks with
    | .inr st => tellTo s dest st 0 []
    | .inl pages =>
      (putJob s { kind := .repair xk ks 0, dest := dest, op := .search, p := repairReq s x, stage := .stalled, pages := pages }).1

/-! ## Relayed commands of indexes -/

/-- What a switch does with a relayed SEARCH command. -/
def searchTake (s : State) (dest : JobTo) (b : List Byte) : State :=
  let ans := fun (s : State) (st res : Nat) => tellTo s dest st res []
  let verb := leField b 1 1
  if verb = 1 && emStage b = 3 then
    let d := sliceBytes b 64 64
    ans s (searchCheck s (leField b 6 2 % 1024) d (sliceBytes b 128 (64 * ixShards d))) 0
  else if verb = 1 && emStage b = 0 then
    let r := searchInstall s (leField b 6 2 % 1024) b
    ans r.1 r.2 0
  else match handleIndex s (emHandle b) with
    | none => ans s (if verb = 4 || (verb = 5 && emStage b = 0) then stDenied else stOk) 0
    | some (xk, x) =>
      let e := b.drop 64
      match verb, emStage b with
      | 1, _ => ans (freeIndex s xk) stOk 0
      | 2, 0 => closeIndex (modIndex s xk fun x => { x with active := false, closing := x.closing ++ [dest] }) xk
      | 2, _ => ans (freeIndex s xk) stOk 0
      | 4, _ => deletePart s dest xk x (emArg b 0 4 = 1) ((natRange 0 (e.length / 4)).map fun i => leField e (4 * i) 4)
      | 5, 0 => repairPart s dest xk x (emArg b 0 8)
      | 5, _ =>
        let es := (natRange 0 (e.length / 8)).map fun i => (leField e (8 * i) 4, leField e (8 * i + 4) 4)
        ans (modIndex s xk fun x => { x with entries := es.foldl (fun m e => kset m e.1 e.2) x.entries }) stOk 0
      | _, _ => ans s stUnsupported 0

/-- The status of the first check of R492 that failed at some switch. -/
def firstBadIndex (l : List Nat) : Nat :=
  if l.contains stNoMapping then stNoMapping + 256 * 3 else if l.contains stDenied then stDenied + 256 * 3
  else if l.contains stUnsupported then stUnsupported + 256 * 4
  else if l.contains stBudget then stBudget + 256 * 5 else l.headD stRetry

/-- Every switch has answered a message about an index. -/
def searchRelayed (s : State) (r : Relay) : State :=
  let ans := fun (s : State) (st res : Nat) => tellTo s r.dest st res []
  let worst := r.bad.headD stOk
  match r.verb, r.stage with
  | 1, 0 =>
    if r.bad.isEmpty then ans s stOk r.obj
    else
      let s := tellEmb s { group := 0x10, verb := 1, part := r.part, dest := .nobody, obj := r.obj, stage := 1 } 7 1 r.obj 1 [] [] (r.took.map (·.1)) searchTake
      ans s (firstBadIndex r.bad) 0
  | 1, 3 => ans s (if r.bad.isEmpty then stBudget + 256 * 5 else firstBadIndex r.bad) 0
  | 2, 0 => tellEmb s { group := 0x10, verb := 2, part := r.part, dest := r.dest, obj := r.obj, stage := 1 } 7 2 r.obj 1 [] [] (entryNodes s r.args) searchTake
  | 4, _ => ans s worst (r.args.headD 0)
  | 5, 0 =>
    let s := match handleIndex s r.obj with
      | some (xk, _) => modIndex s xk fun x => { x with repairing := false }
      | none => s
    ans s worst ((r.took.map (·.2)).foldl (· + ·) 0)
  | _, _ => ans s worst 0

/-- Vector search goes on: deletions, closings. -/
def searchFinish (s : State) : State :=
  s.fab.indexes.foldl (fun s e => closeIndex s e.1) (tombsDone s)

end Sys2Proof.Machine
end

