-- ==== Sys2Proof/Machine/ServeCore.lean ====
section
/-! DEFINITION. Machine/ServeCore.lean: decode attention over KV pages (12_serving_composition.md R527 to R546), ownership tokens,
leases and epochs of serving services (R547 to R569). -/
namespace Sys2Proof.Machine

/-! ## Attention contexts (R527 to R535) -/

def attnOf (s : State) (i : Nat) : Option AttnCtx := kfind s.fab.attns i
def modAttn (s : State) (i : Nat) (f : AttnCtx → AttnCtx) : State := modFab s fun x => { x with attns := kmod x.attns i f }

/-- Fields of an attention descriptor (R530). -/
def kvFmt (d : List Byte) : Nat := leField d 0 1
def hQ (d : List Byte) : Nat := leField d 1 1
def hKv (d : List Byte) : Nat := leField d 2 1
def headDim (d : List Byte) : Nat := 64 * 2 ^ leField d 3 1
def pageTokens (d : List Byte) : Nat := 2 ^ leField d 4 1
def kvAst (d : List Byte) : Nat := leField d 6 2
def attnMax (d : List Byte) : Nat := leField d 0x14 4
/-- Bytes of a page (R527). -/
def kvPageBytes (d : List Byte) : Nat := 2 * hKv d * pageTokens d * headDim d * (fmtBits (kvFmt d) / 8)

/-- FP32 bits that stand for a finite number. -/
def finite32 (w : Nat) : Bool := (fp32.decode w).isFinite

/-- Check 1 of R533 (R530, R531). -/
def attnOk (d : List Byte) : Bool :=
  d.length = 64 && (kvFmt d = 0x0B || kvFmt d = 0x08 || kvFmt d = 0x09) && decide (1 ≤ hQ d ∧ hQ d ≤ 128) &&
  decide (1 ≤ hKv d ∧ hKv d ≤ 128) && hQ d % hKv d = 0 && decide (leField d 3 1 ≤ 2) && decide (4 ≤ leField d 4 1 ∧ leField d 4 1 ≤ 16) &&
  leField d 5 1 = 0 && decide (kvAst d < 4096) && finite32 (leField d 8 4) && finite32 (leField d 0xC 4) && finite32 (leField d 0x10 4) &&
  decide (1 ≤ attnMax d ∧ attnMax d ≤ 16384) && leField d 0x18 40 = 0 && decide (kvPageBytes d ≤ 2 * MiB)

/-- ATTENDs in progress at a context (R535, R539). -/
def attends (s : State) (i : Nat) : List (Nat × Job) :=
  s.fab.jobs.filter fun e => e.2.kind = .attend i && e.2.lists.isSome

/-! ## ATTEND (R536 to R546) -/

def attB (p : Req) : Nat := leField p.payload 0 2
def attPages (p : Req) : Nat := leField p.payload 2 2
def attQ (p : Req) : Nat := leField p.payload 4 1 % 32
def attOut (p : Req) : Nat := leField p.payload 5 1 % 32
def attLse (p : Req) : Bool := (leField p.payload 5 1).testBit 5
def attPart (p : Req) : Bool := (leField p.payload 5 1).testBit 6
def attList (p : Req) : Nat := leField p.payload 8 8
/-- Bytes of the queries, padded (R536). -/
def attQBytes (d : List Byte) (p : Req) : Nat := ceilDiv (fmtBytes (attQ p) (attB p * hQ d * headDim d)) 64 * 64

/-- Check 1 of R539 on the header (R536, R538). -/
def attendOk (d : List Byte) (p : Req) : Bool :=
  let b := p.payload
  let q := attQ p
  leField b 4 1 / 32 = 0 && (leField b 5 1).testBit 7 = false && leField b 6 2 = 0 && leField b 0x10 16 = 0 &&
  (if kvFmt d = 0x0B then q = 0x0B || q = 0x0A else q = 0x08 || q = 0x09) &&
  (attOut p = 0xC || attOut p = 0xA || attOut p = 0xB) && decide (attB p * hQ d * headDim d ≤ 32768) &&
  b.length = 32 + attQBytes d p + (if attList p = 0 then 16 * attPages p else 0)

/-- Entry k of a page list: address and tokens. -/
def pageEntry (l : List Byte) (k : Nat) : Nat × Nat := (leField l (16 * k) 8, leField l (16 * k + 8) 2)

/-- The checks of R539 on a page list once it is read, and the translations taken: the status of the first that fails. -/
def attendPages (s : State) (c : AttnCtx) (p : Req) (l : List Byte) : List ((Nat × Nat) × Nat) ⊕ Nat :=
  let d := c.desc
  let es := (natRange 0 (attPages p)).map (pageEntry l)
  if (natRange 0 (attPages p)).any fun k => leField l (16 * k + 10) 6 ≠ 0 then .inr stMalformed
  else match lookAll s c.part (es.map fun e => (kvAst d, false, e.1, kvPageBytes d)) with
    | .inr st => .inr st
    | .inl ps =>
      let bad := es.any fun e =>
        match poolAt ps (kvAst d) e.1 with
        | none => true
        | some a => a % 64 ≠ 0 || a / (2 * MiB) ≠ (a + kvPageBytes d - 1) / (2 * MiB) || !homedHere s a || decide (pageTokens d < e.2)
      if bad then .inr stMalformed else .inl ps

/-- Byte ranges of the keys or values of a page's valid tokens under one head, in pool. -/
def kvRange (d : List Byte) (base h tokens part : Nat) : Nat × Nat :=
  let e := fmtBits (kvFmt d) / 8
  (base + (part * hKv d * pageTokens d + h * pageTokens d) * headDim d * e, tokens * headDim d * e)

/-- The output of one query head (R541): outputs, log-sum-exp, and whether a score was not finite. -/
def headOut (d : List Byte) (out : Nat) (q : List Val) (ks vs : List (List Val)) : List Nat × Nat × Bool :=
  let n := headDim d
  let c := rnd32 ((fp32.decode (leField d 8 4)).mul (fp32.decode (leField d 0xC 4)))
  let ss := ks.map fun k => rnd32 (c.mul (tileDot (kvFmt d) q k))
  if ks.isEmpty then (List.replicate n 0, fp32.encode rne false (.inf true), false)
  else if ss.any fun v => !v.isFinite then (List.replicate n (elemBits out rne false .nan), fp32.nanBits, true)
  else
    let m := ss.foldl Val.max (ss.headD .zero)
    let ps := ss.map fun v => expF (rnd32 (v.sub m))
    let l := accSum acc320 ps
    let one := fun k =>
      let r := accSum acc320 ((ps.zip vs).map fun e => e.1.mul (e.2.getD k .zero))
      let v := if accClean acc320 r then ((fp32.decode (leField d 0x10 4)).mul (accVal acc320 r)).divFin (accVal acc320 l) else accVal acc320 r
      elemBits out rne false (if v.isZero then .zero else v)
    ((natRange 0 n).map one, fp32.encode rne false (rnd32 (m.add (logF (rnd32 (accVal acc320 l))))), false)

/-- An ATTEND over the pages it lists. -/
def attendStep (s : State) (j : Job) (i : Nat) : JobStep :=
  match attnOf s i with
  | none => .fail stDenied
  | some c =>
    let d := c.desc
    let p := j.p
    let es := (natRange 0 (attPages p)).map (pageEntry (j.lists.getD []))
    let at_ := fun (e : Nat × Nat) => (poolAt j.pages (kvAst d) e.1).getD 0
    let rs := es.flatMap fun e => (natRange 0 (hKv d)).flatMap fun h => [kvRange d (at_ e) h e.2 0, kvRange d (at_ e) h e.2 1]
    let tokens := (es.map (·.2)).foldl (· + ·) 0
    let n := headDim d
    withRanges j (if attB p = 0 then [] else rs) fun _ =>
      let rows := fun h part => es.flatMap fun e =>
        let r := kvRange d (at_ e) h e.2 part
        let b := cached j r.1 r.2
        (natRange 0 e.2).map fun t => (natRange 0 n).map fun k => elemVal (kvFmt d) (fieldAt b (fmtBits (kvFmt d)) (t * n + k))
      let qb := p.payload.drop 32
      let outs := (natRange 0 (attB p)).flatMap fun b => (natRange 0 (hQ d)).map fun h =>
        let g := h * hKv d / hQ d
        let q := (natRange 0 n).map fun k => elemVal (attQ p) (fieldAt qb (fmtBits (attQ p)) ((b * hQ d + h) * n + k))
        headOut d (attOut p) q (rows g 0) (rows g 1)
      let vals := packFields (fmtBits (attOut p)) (outs.flatMap (·.1))
      let data := if attLse p then vals ++ leBytes (ceilDiv vals.length 64 * 64 - vals.length) 0 ++ outs.flatMap (fun o => leBytes 4 o.2.1) else vals
      let bad := (outs.filter fun o => o.2.2).length
      let recomputed := (natRange 0 16).any fun r =>
        decide (2 * MiB < 4 * attB p * hQ d * ((es.filter fun e => homePort s (at_ e) = computePort r).map (·.2)).foldl (· + ·) 0)
      .done { result := tokens + 2 ^ 32 * Nat.min 65535 bad, cover := data.length, data := if attB p = 0 then none else some data
              counts := [(.attn i 0, 1), (.attn i 1, tokens), (.attn i 2, if recomputed then 1 else 0), (.attn i 3, bad)] }

/-! ## Serving services -/

def serviceOf (s : State) (i : Nat) : Option Service := kfind s.fab.services i
def modService (s : State) (i : Nat) (f : Service → Service) : State := modFab s fun x => { x with services := kmod x.services i f }

/-- Members of a pool in a route map (R550). -/
def poolCount (m : List Byte) (p : Nat) : Nat := leField m (2 * p) 2
def poolStart (m : List Byte) (p : Nat) : Nat := ((natRange 0 p).map (poolCount m)).foldl (· + ·) 0
def mapMembers (m : List Byte) : Nat := poolStart m 8
/-- Node, CAP and notice offset of member k. -/
def memberNode (m : List Byte) (k : Nat) : Nat := leField m (0x40 + 16 * k) 2
def memberCap (m : List Byte) (k : Nat) : Nat := leField m (0x42 + 16 * k) 2
def memberNotice (m : List Byte) (k : Nat) : Nat := leField m (0x48 + 16 * k) 8
def poolMembers (m : List Byte) (p : Nat) : List Nat := natRange (poolStart m p) (poolCount m p)
def inMap (m : List Byte) (node : Nat) : Bool := (natRange 0 (mapMembers m)).any fun k => memberNode m k = node
/-- A stage's word: VALID, POOL, FALLBACK, FB_POOL, OVER. -/
def stageWord (m : List Byte) (st : Nat) : Nat := leField m (0x10 + 8 * st) 8

/-- A node number that this switch holds as a switch: its own, or a partner's in KNOWN. -/
def heldAsSwitch (s : State) (n : Nat) : Bool :=
  n = selfNode s || s.lports.any fun e => e.2.role = some .switch && e.2.disc = .known && (e.2.partner.map (·.node)) = some n

/-- Check 1 of R548 on a map (R550). -/
def mapOk (s : State) (m : List Byte) : Bool :=
  (natRange 0 8).all (fun p => decide (poolCount m p ≤ 1024)) && decide (mapMembers m ≤ 4096) && leField m 0x30 16 = 0 &&
  (natRange 0 4).all (fun st =>
    let w := stageWord m st
    let fb := bits w 4 2
    bits w 9 7 = 0 && bits w 32 32 = 0 && fb ≠ 3 && (fb = 1 || bits w 6 3 = 0) && (fb = 2 || bits w 16 16 = 0) &&
    (fb ≠ 1 || decide (0 < poolCount m (bits w 6 3)))) &&
  (natRange 0 (mapMembers m)).all (fun k =>
    let w := leField m (0x40 + 16 * k) 8
    let v := memberNotice m k
    (w.testBit 15) = false && bits w 32 32 = 0 && v / 2 ^ 48 = 0 && v % 1024 = 0 && memberNode m k ≠ noNode && !heldAsSwitch s (memberNode m k)) &&
  (natRange 0 8).all fun p => ((poolMembers m p).map (memberNode m)).Nodup

/-- Check 3 of R548: members attached here are on ports of the partition. -/
def mapPorts (s : State) (part : Nat) (m : List Byte) : Bool :=
  (natRange 0 (mapMembers m)).all fun k => match lportOfNode s (memberNode m k) with
    | some l => if isBridge l then s.coh.decoders.any fun e => e.1 / 16 = l - 512 && e.2.partition = part else portMember s l part
    | none => true

/-- A member is live (R551): the switch has a route to its node, and its endpoint is not in reset. -/
def memberLive (s : State) (node : Nat) : Bool :=
  match lportOfNode s node with
  | some l => linkUp (lportOf s l).link && (isBridge l || (lportOf s l).disc = .known)
  | none => match kfind s.core.routes node with
    | some r => (natRange 0 4).any fun i => (r.hops.getD i none).isSome
    | none => false

/-- Requests that a node owns. -/
def ownedBy (v : Service) (node : Nat) : Nat := (v.entries.filter fun e => e.2.owned && !e.2.parked && e.2.owner = node).length

/-- The live member of a pool with the fewest owned requests below CAP and an allowance (R552). -/
def fewest (s : State) (v : Service) (pool excess : Nat) : Option Nat :=
  let ok := (poolMembers v.map pool).filter fun k =>
    memberLive s (memberNode v.map k) && decide (ownedBy v (memberNode v.map k) < memberCap v.map k + excess)
  let m := ok.foldl (fun m k => Nat.min m (ownedBy v (memberNode v.map k))) (2 ^ 32)
  (ok.find? fun k => ownedBy v (memberNode v.map k) = m).map (memberNode v.map)

/-- The member chosen for a stage, whether the request is marked OFFLOAD, and the counter of a fallback (R552, R573). -/
def chooseMember (s : State) (v : Service) (stage : Nat) : Option (Nat × Bool × Option Nat) :=
  let w := stageWord v.map stage
  if !w.testBit 0 then none
  else match fewest s v (bits w 1 3) 0 with
    | some n => some (n, false, none)
    | none =>
      match bits w 4 2 with
      | 1 => (fewest s v (bits w 6 3) 0).map fun n => (n, false, some 7)
      | 2 => (fewest s v (bits w 1 3) (bits w 16 16)).map fun n => (n, true, some 8)
      | _ => none

def entryOf (v : Service) (id : Nat) : OwnEntry := kget v.entries id {}

/-- Write a notice to a member (R559). -/
def serveNotice (s : State) (i type node id : Nat) : State :=
  match serviceOf s i with
  | none => s
  | some v =>
    let maps := v.map :: (match v.old with
      | some o => [o.1]
      | none => [])
    match maps.findSome? fun m => ((natRange 0 (mapMembers m)).find? fun k => memberNode m k = node).map (memberNotice m) with
    | none => s
    | some off =>
      let n := kget v.notices node 0
      let e := entryOf v id
      let b := leBytes 4 (type + 2 ^ 8 * (e.stage + (if e.offload then 4 else 0))) ++ leBytes 4 id ++ leBytes 4 e.token ++ leBytes 4 v.epoch ++
        leBytes 8 e.stateVa ++ leBytes 8 n ++ leBytes 32 0
      let s := modService s i fun v => { v with notices := kset v.notices node (n + 1) }
      let p : Req := { lport := 1000, tc := 5, vc := 4, partition := BitVec.ofNat 10 v.part, ast := 0, src := 0, dst := 0, tag := 0, length := 0,
                       address := 0, seq := 0, flags := 0 }
      engineSend s wickPort .collDeliver p node 64 (off + 64 * (n % 16)) 2 b (.notice 0)

/-- The lease restarts (R555). -/
def leaseAgain (s : State) (v : Service) (e : OwnEntry) : OwnEntry := { e with leaseEnd := s.ftime.toNat + 1000 * v.leaseUs }

/-- Give a request to a stage's member, or park it (R552, R557, R560): TOKEN advances, EPOCH is the current one. -/
def giveEntry (s : State) (i id stage notice : Nat) (dest : Option Nat) (stateVa : Option Nat) : State :=
  match serviceOf s i with
  | none => s
  | some v =>
    let e := entryOf v id
    let e := { e with token := (e.token + 1) % 2 ^ 32, stage := stage, epoch := v.epoch, owned := true, stateVa := stateVa.getD e.stateVa }
    let pick := match dest with
      | some n => some (n, false, none)
      | none => chooseMember s v stage
    match pick with
    | some (n, off, c) =>
      let e := leaseAgain s v { e with owner := n, offload := off, parked := false }
      let s := modService s i fun v => { v with entries := kset v.entries id e, parked := v.parked.filter (· ≠ id) }
      let s := match c with
        | some k => bump s (.serve i k)
        | none => s
      serveNotice s i notice n id
    | none =>
      let e := { e with owner := selfNode s, offload := false, parked := true }
      bump (modService s i fun v => { v with entries := kset v.entries id e, parked := v.parked.filter (· ≠ id) ++ [id] }) (.serve i 9)

/-- Parked requests go, oldest first, to members that have become eligible (R552). -/
def unpark (s : State) (i : Nat) : State :=
  match serviceOf s i with
  | none => s
  | some v => v.parked.foldl (fun s id =>
      match serviceOf s i with
      | none => s
      | some v => if (chooseMember s v (entryOf v id).stage).isSome then giveEntry s i id (entryOf v id).stage 0x12 none none else s) s

/-- Entries that keep the old epoch (R567). -/
def oldCount (v : Service) : Nat := (v.entries.filter fun e => e.2.owned && e.2.epoch ≠ v.epoch).length

/-- The old epoch retires when no entry keeps it (R568). -/
def retireEpoch (s : State) (i : Nat) : State :=
  match serviceOf s i with
  | none => s
  | some v =>
    match v.old with
    | some (_, _, r) => if oldCount v = 0 then complete (modService s i fun v => { v with old := none }) r stOk 0 [] else s
    | none => s

/-- After a change of ownership: parked requests, and the old epoch. -/
def afterOwn (s : State) (i : Nat) : State := retireEpoch (unpark s i) i

/-- The serving host takes the token of a request (R560). -/
def takeOver (s : State) (i id : Nat) : State :=
  match serviceOf s i with
  | none => s
  | some v =>
    let e := entryOf v id
    if !e.owned || e.parked then s
    else
      -- the token is the host's while it chooses: what the old owner owns no longer counts this request
      let s := modService s i fun v => { v with entries := kset v.entries id { e with owner := selfNode s } }
      let s := bump (giveEntry s i id e.stage 0x12 none none) (.serve i 4)
      if memberLive s e.owner then bump (serveNotice s i 0x13 e.owner id) (.serve i 5) else s

/-- A member's route is lost (R561): the leases of what it owns end. -/
def serveLost (s : State) (node : Nat) : State :=
  s.fab.services.foldl (fun s v =>
    let ids := (v.2.entries.filter fun e => e.2.owned && !e.2.parked && e.2.owner = node).map (·.1)
    if ids.isEmpty then s else afterOwn (ids.foldl (fun s id => takeOver s v.1 id) s) v.1) s

/-! ### OWNER_CAS (R554 to R557) -/

/-- RESULT of an OWNER_CAS (R556). -/
def casResult (v : Service) (before : OwnEntry) (id : Nat) (swapped stale : Bool) : Nat :=
  let e := entryOf v id
  (if before.owned then before.owner else noNode) + 2 ^ 15 * (if stale then v.epoch else e.token) + 2 ^ 47 * e.stage +
  (if swapped then 2 ^ 49 else 0) + (if stale then 2 ^ 50 else 0)

/-- The payload keeps R554 for a service. -/
def casOk (v : Service) (b : List Byte) : Bool :=
  let w := leField b 4 4
  let op := w % 8
  decide (leField b 0 4 < v.slots) && decide (op ≤ 4) && w / 64 = 0 && (op ≤ 1 || bits w 3 2 = 0) && (op = 1 || !w.testBit 5) &&
  leField b 0x10 8 / 2 ^ 15 = 0 && ((op = 1 && w.testBit 5) || leField b 0x10 8 = 0) && (op ≤ 1 || leField b 0x18 8 = 0)

/-- Carry out an OWNER_CAS at its serving host (R555, R563 to R568): the state and RESULT, or a status. -/
def ownerCas (s : State) (i : Nat) (v : Service) (src : Nat) (b : List Byte) : State × Nat × Nat :=
  let id := leField b 0 4
  let w := leField b 4 4
  let op := w % 8
  let stage := bits w 3 2
  let epoch := leField b 0xC 4
  let e := entryOf v id
  let map := if epoch = v.epoch then some v.map else match v.old with
    | some o => if (epoch + 1) % 2 ^ 32 = v.epoch then some o.1 else none
    | none => none
  let fin := fun (s : State) (swapped : Bool) => match serviceOf s i with
    | some v' => (s, stOk, casResult v' e id swapped false)
    | none => (s, stOk, 0)
  match map with
  | none => (bump s (.serve i 3), stOk, casResult v e id false true)
  | some m =>
    let node := leField b 0x10 8 % 2 ^ 15
    let sw := stageWord m stage
    let member := (poolMembers m (bits sw 1 3) ++ (if bits sw 4 2 = 1 then poolMembers m (bits sw 6 3) else [])).any fun k => memberNode m k = src
    let isOwner := e.owned && !e.parked && e.owner = src
    let stub := match v.old with
      | some o => inMap o.1 node && !inMap v.map node
      | none => false
    if op = 1 ∧ w.testBit 5 = true ∧ inMap v.map node = false ∧ stub = false then (s, stDenied, 0)
    else
      let ok := leField b 8 4 = e.token && (match op with
        | 0 => (!e.owned || e.parked) && sw.testBit 0 && member && memberLive s src
        | 1 | 2 | 3 => isOwner
        | _ => false)
      if !ok then fin (if op = 4 then s else bump s (.serve i 2)) false
      else match op with
        | 0 =>
          let e' := { e with owned := true, parked := false, offload := false, owner := src, stage := stage }
          let e' := leaseAgain s v { e' with token := (e.token + 1) % 2 ^ 32, epoch := v.epoch, stateVa := leField b 0x18 8 }
          fin (afterOwn (bump (modService s i fun v => { v with entries := kset v.entries id e', parked := v.parked.filter (· ≠ id) }) (.serve i 0)) i) true
        | 1 =>
          let dest := if w.testBit 5 && !stub then some node else none
          let s := modService s i fun v => { v with entries := kset v.entries id (leaseAgain s v e) }
          let s := bump (giveEntry s i id stage 0x11 dest (some (leField b 0x18 8))) (.serve i 1)
          let s := if w.testBit 5 && stub then bump s (.serve i 6) else s
          fin (afterOwn s i) true
        | 2 => fin (afterOwn (modService s i fun v => { v with entries := kset v.entries id (leaseAgain s v e) }) i) true
        | _ =>
          let e' := { e with owned := false, owner := noNode, offload := false, parked := false, token := (e.token + 1) % 2 ^ 32 }
          let e' := { e' with leaseEnd := s.ftime.toNat + 1000 * v.leaseUs }
          fin (afterOwn (modService s i fun v => { v with entries := kset v.entries id e' }) i) true

/-- The map of a new epoch becomes current in one step (R563, R567). -/
def newEpoch (s : State) (i : Nat) (map : List Byte) (drainMs : Nat) (r : CmdRef) : State :=
  match serviceOf s i with
  | none => s
  | some v =>
    let ep := (v.epoch + 1) % 2 ^ 32
    let es := v.entries.map fun (e : Nat × OwnEntry) =>
      (e.1, if e.2.owned && (e.2.parked || inMap map e.2.owner) then { e.2 with epoch := ep } else e.2)
    let s := modService s i fun v => { v with epoch := ep, map := map, old := some (v.map, s.ftime.toNat + 1000000 * drainMs, r), entries := es }
    afterOwn s i

end Sys2Proof.Machine
end

