-- ==== Sys2Proof/Machine/JobCore.lean ====
section
/-! DEFINITION. Machine/JobCore.lean: engines' work goes on: steps start, stall, resume, commit and are abandoned (07 R316 to R326, 03 R156 to
R159), roots and commands, answers to what engines sent, and what power, fences and teardowns do to it all. -/
namespace Sys2Proof.Machine

/-! ## ATTEND and OWNER_CAS (R536 to R540, R554 to R559) -/

/-- A request goes on to the switch that a handle names, numbered as this switch's own (R539, R549). -/
def forwardOn (s : State) (dest : JobTo) (op : Op) (p : Req) (host : Nat) : State :=
  if (lportOfNode s host).isNone && (kfind s.core.routes host).isNone then refuse s dest op p stNoMapping
  else
    let (s, id) := putJob s { kind := .forward, dest := dest, op := op, p := p, stage := .parts, parts := [{ host := host, items := [] }] }
    sendRootPart s id 0 host op p.payload

/-- The attention context of a handle of this switch (R534). -/
def handleAttn (s : State) (a : Nat) : Option (Nat × AttnCtx) :=
  let h := nodeHandle a
  match attnOf s h.1 with
  | some c => if h.2.1 = selfNode s ∧ c.part = h.2.2.1 ∧ c.gen = h.2.2.2 ∧ a < 2 ^ 48 then some (h.1, c) else none
  | none => none

/-- The page list of an ATTEND is at hand: checks 2 to 4 of R539. -/
def attendList (s : State) (id i : Nat) (l : List Byte) : State :=
  match jobOf s id, attnOf s i with
  | some j, some c =>
    match attendPages s c j.p l with
    | .inr st => jobGone (refuse s j.dest .attend j.p st) id
    | .inl ps =>
      if attnMax c.desc ≤ (attends s i).length then jobGone (refuse (bump s (.attn i 4)) j.dest .attend j.p stRetry) id
      else
        let rs := dataRegions s (((natRange 0 (attPages j.p)).map (pageEntry l)).flatMap fun e => vaPool ps (kvAst c.desc) e.1 (kvPageBytes c.desc))
        let ib := libBlock s c.part 6 rs
        let also := shareBlocks s ib.1 rs ib.2
        modJob (bumpFree s) id fun j => { j with lists := some l, pages := j.pages ++ ps, stage := .queued, inst := ib.1, block := ib.2, also := also }
  | some j, none => jobGone (refuse s j.dest .attend j.p stDenied) id
  | none, _ => s

/-- An ATTEND (R536, R539): at its ingress it goes to its host; there it is checked. One without a length goes to its host too, where its
handle passes the same check (R27, R534). -/
def startAttend (s : State) (dest : JobTo) (p : Req) : State :=
  let h := nodeHandle p.address.toNat
  let part := attPart p
  let remote := isRemote dest
  if p.length ≠ 0 ∧ part ≠ remote then refuse s dest .attend p stDenied
  else if h.2.1 ≠ selfNode s then
    if remote then refuse s dest .attend p stDenied
    else if p.length = 0 then forwardOn s dest .attend p h.2.1
    else forwardOn s dest .attend { p with payload := sliceBytes p.payload 0 5 ++ leBytes 1 (leField p.payload 5 1 % 64 + 64 + leField p.payload 5 1 / 128 * 128) ++ p.payload.drop 6 } h.2.1
  else match handleAttn s p.address.toNat with
    | none => refuse s dest .attend p stDenied
    | some (i, c) =>
      let d := c.desc
      -- R535: one that this switch's ingress admitted before is still served
      if c.closing.isSome && remote then refuse s dest .attend p stDenied
      else if p.length = 0 then refuse s dest .attend p stOk
      else if !attendOk d p then refuse s dest .attend p stMalformed
      else
        let t := kvAst d
        let hold := (astOf s t).map fun a => (t, a.gen)
        let j : Job := { kind := .attend i, dest := dest, op := .attend, p := p, hold := hold, stage := .parts }
        let n := 16 * attPages p
        if attList p = 0 then
          let r := putJob s j
          attendList r.1 r.2 i (sliceBytes p.payload (32 + attQBytes d p) n)
        else match lookAll s c.part [(t, false, attList p, n)] with
          | .inr st => refuse s dest .attend p st
          | .inl ps => (putJob s { j with pages := ps }).1

/-- ATTENDs of a context that this ingress has admitted, on their way to their work, or held by R88, among them (R535). -/
def attnWaits (s : State) (i : Nat) : Bool := s.ing.outs.any fun e =>
  e.2.op = .attend && (handleAttn s e.2.p.address.toNat).any fun x => x.1 = i

/-- Who waits for a context's ATTENDs to complete is answered (R535). -/
def closeAttn (s : State) (i : Nat) : State :=
  match attnOf s i with
  | none => s
  | some c =>
    match c.closing with
    | none => s
    | some rs =>
      if (s.fab.jobs.any fun e => e.2.kind = .attend i) || attnWaits s i then s
      else completeAll (bumpGen (modFab s fun f => { f with attns := kdel f.attns i }) hAttn i 11) rs stOk

/-- The service of a handle of this switch (R549). -/
def handleService (s : State) (a : Nat) : Option (Nat × Service) :=
  let h := nodeHandle a
  match serviceOf s h.1 with
  | some v => if h.2.1 = selfNode s ∧ v.part = h.2.2.1 ∧ v.gen = h.2.2.2 ∧ a < 2 ^ 48 then some (h.1, v) else none
  | none => none

/-- An OWNER_CAS (R549, R554, R558): while the table is being read in after a fence it may be sent away; when that ends is an open choice. -/
def startOwnerCas (s : State) (dest : JobTo) (p : Req) : State :=
  let h := nodeHandle p.address.toNat
  if h.2.1 ≠ selfNode s then
    if isRemote dest then refuse s dest .ownerCas p stDenied else forwardOn s dest .ownerCas p h.2.1
  else match handleService s p.address.toNat with
    | none => refuse s dest .ownerCas p stDenied
    | some (i, v) =>
      if p.length = 0 then refuse s dest .ownerCas p stOk
      else if p.length ≠ 32 ∨ !casOk v p.payload then refuse s dest .ownerCas p stMalformed
      else if v.reading && freeNat s % 2 = 0 then refuse (bumpFree s) dest .ownerCas p stRetry
      else
        let s := if v.reading then modService (bumpFree s) i fun v => { v with reading := false } else s
        let r := ownerCas s i { v with reading := false } p.src.toNat p.payload
        answerTo r.1 dest .ownerCas p r.2.1 r.2.2 32 none

/-! ## One piece of work -/

/-- What a piece of work comes to on the lines that have arrived. -/
def jobStep (s : State) (j : Job) : JobStep :=
  match j.kind with
  | .image i t g => imageStep s j i t g
  | .convert i _ => convertStep s j i
  | .filter _ => filterStep j
  | .gatherPart tk => gatherPartStep s j tk
  | .scatterPart _ => .done {}
  | .searchPart xk => searchPartStep s j xk
  | .attend i => attendStep s j i
  | .chunk n r c => chunkStep s j n (chunkKey r c)
  | .command g v c =>
    let part := ((astOf s c.ast.toNat).map (·.partition)).getD 0
    let va := c.addr0.toNat
    let t := c.ast.toNat
    let one := fun (n : Nat) => match lookPages s part t false va n with
      | .inr st => JobStep.fail (st + 256 * 2)
      | .inl ps => withRanges j (vaPool ps t va n) fun b => .done { data := some b }
    match g, v with
    | 0x0E, _ => readOpen s j part t va
    | 0x0F, _ => readTable s j part t va
    | 0x10, _ => readIndex s j part t va
    | 0x11, _ => one 64
    | _, _ =>
      match lookPages s part t false va 64 with
      | .inr st => .fail (st + 256 * 2)
      | .inl ps => withRanges j (vaPool ps t va 64) fun m => one (64 + 16 * mapMembers m)
  | _ => .need []

/-- A step of an instance's block, or of the library: it starts, stalls and commits by events of its own. -/
def isStep (j : Job) : Bool :=
  match j.kind with
  | .image .. | .convert .. | .filter _ | .gatherPart _ | .scatterPart _ | .searchPart _ | .chunk .. => true
  | .attend _ => j.lists.isSome
  | _ => false

/-- The work ends with a status (R156, R157): nothing of it is written. -/
def abandon (s : State) (id st : Nat) : State :=
  match jobOf s id with
  | none => s
  | some j =>
    let s := countAbandon s j st
    match j.kind with
    | .image i _ _ | .convert i _ => failRun (modFab s fun f => { f with jobs := kdel f.jobs id }) i st
    | .chunk n _ _ =>
      -- what an owner's step reads cannot be read: the collective fails (R424, R429)
      let s := modFab s fun f => { f with jobs := kdel f.jobs id }
      match cnodeOf s n with
      | some x => forceClose s x.ctx 3
      | none => s
    | .command .. => jobGone (tellTo s j.dest st 0 []) id
    | _ => jobGone (refuse s j.dest j.op j.p st) id

/-- The data of a step is read again, once (R310); then the work is abandoned. -/
def rereadOr (s : State) (id st : Nat) : State :=
  match jobOf s id with
  | none => s
  | some j => if st = stPoisoned && !j.reread then replay (modJob s id fun j => { j with reread := true }) id else abandon s id st

/-- What the step reads at an address is malformed: it is read again, once (R310); the step that is then abandoned counts under that operand's
tier (R156). -/
def malformed (s : State) (id : Nat) (a : Option Nat) : State :=
  rereadOr (modJob s id fun j => { j with failAt := if j.reread then j.failAt.orElse fun _ => a else j.failAt }) id stPoisoned

/-- A step runs as far as its operands allow. -/
def runStep (s : State) (id : Nat) : State :=
  match jobOf s id with
  | none => s
  | some j =>
    match jobStep s j with
    | .need rs => stall (jobFetch s id rs) id
    | .fail st => rereadOr s id st
    | .malformed a => malformed s id a
    | .lost => abandon s id stPoisoned
    | .done _ => passed s id

/-- Whether a step about to start is shadowed (R369, R784, R800), counted once. -/
def chooseShadow (s : State) (id : Nat) : State :=
  match jobOf s id with
  | none => s
  | some j =>
    match j.inst, j.inst.bind (instOf s), j.block with
    | some i, some x, some b =>
      if j.shadowed then s
      else
        let w := shadowWhy s x b
        let s := if w.1 then bump s (.prog i 3) else s
        let s := if w.2 then bump s (.ras 10) else s
        modJob s id fun j => { j with shadowed := w.1 || w.2, watched := w.2 }
    | _, _, _ => s

/-- The work of unit u that stands at one of the stages: the image step of block u, or library work u − 256. -/
def unitJob (s : State) (u : Nat) : Option (Nat × Job) :=
  if u < 256 then s.fab.jobs.find? fun e => e.2.block = some u && e.2.stage ≠ .writing && match e.2.kind with
    | .image .. => true
    | _ => false
  else (jobOf s (u - 256)).bind fun j => if isStep j && (match j.kind with
    | .image .. => false
    | _ => true) then some (u - 256, j) else none

/-! ## Commit (R317, R321 to R326) -/

/-- A library step is over: what waits for it is answered, or its writes go out first. -/
def commitLib (s : State) (id : Nat) (j : Job) (o : JobOut) : State :=
  let s := countAll s o.counts
  let s := match j.block with
    | some b => countStep s b
    | none => s
  let s := j.also.foldl countStep s
  let s := match j.kind, j.block with
    | .searchPart xk, some b => searchTook s xk (b / 16) (s.clk - j.arrived)
    | _, _ => s
  match j.kind with
  | .chunk n r c => commitChunk s id n (chunkKey r c) o
  | .gatherPart _ => jobGone (answerGatherPart s j o) id
  | .scatterPart tk => commitScatter s id j tk
  | .convert .. => issueWrites s id o.writes
  | _ =>
    if o.writes.isEmpty then jobGone (answerTo s j.dest j.op j.p o.status o.result (if o.data.isSome then o.cover else j.p.length.toNat) o.data) id
    else issueWrites s id o.writes

/-- A step commits. -/
def commitStep (s : State) (id : Nat) : State :=
  match jobOf s id with
  | none => s
  | some j =>
    match jobStep s j with
    | .done o =>
      match j.kind, j.block with
      | .image i t g, some b => commitImage s id i t g b o
      | _, _ => commitLib s id j o
    | .fail st => rereadOr s id st
    | .malformed a => malformed s id a
    | .lost => abandon s id stPoisoned
    | .need rs => stall (jobFetch s id rs) id

/-- Errors of scratch banks (R310, R773): two of one bank within 1 ms are a block fault. -/
def bankErrors (s : State) (b : Nat) (banks : List Nat) : State :=
  banks.foldl (fun s k =>
    let s := note (bump s (.fault 1)) "SCRATCH_BANK" [b, k]
    let recent := (blk s b).bankErrs.filter fun e => decide (s.clk < e.2 + 1000000)
    if recent.any fun e => e.1 = k then blockFault s b
    else modBlk s b fun x => { x with bankErrs := recent ++ [(k, s.clk)] }) s

/-- A step replays, or is abandoned in a block that lacks a cell or its tile (R323, R326). -/
def replayOr (s : State) (id : Nat) : State := if isBroken s id then abandon s id stPoisoned else replay s id

/-- Errors found in a block: numbers 0 to 33 are physical cells, 34 the tile's residue, 35 and 36 the parity of routes or stream tables and of
the tile's word, 37 the block arbiter's parity, 64 + k an uncorrectable error of scratch bank k in data that has a source, 128 + k in data that
has none. -/
def blockErrors (s : State) (b : Nat) (bad : List Nat) : State :=
  let banks := (bad.filter fun n => decide (64 ≤ n ∧ n < 80 ∨ 128 ≤ n ∧ n < 144)).map (· % 64)
  let s := wordErrors s b ((bad.filter fun n => n = 35 || n = 36).map fun n => if n = 36 then 34 else n)
  let s := bankErrors (cellErrors s b (bad.filter fun n => decide (n < 35))) b banks
  if bad.contains 37 then blockFault (note (bump s (.fault 5)) "ARBITER_PARITY" [b]) b else s

/-- A step that has passed commits, or is replayed or abandoned for the errors found in it. -/
def finishStep (s : State) (id : Nat) (bad : List Nat) : State :=
  match jobOf s id with
  | none => s
  | some j =>
    match j.block with
    | none => commitStep s id
    | some b =>
      if bad.isEmpty then
        let r := clearSuspects s b
        -- a fifth transient retires its cell and replays the step (R323)
        if r.2 then replayOr r.1 id else commitStep r.1 id
      else
        let s := blockErrors s b bad
        if bad.any fun n => decide (128 ≤ n ∧ n < 144) then abandon s id stPoisoned
        else if bad.any (fun n => decide (64 ≤ n ∧ n < 80)) && j.reread then abandon s id stPoisoned
        else
          let s := if bad.any fun n => decide (64 ≤ n ∧ n < 80) then modJob s id fun j => { j with reread := true } else s
          if (jobOf s id).isSome then replayOr s id else s

/-! ## Work that goes on without events of its own -/

/-- The writes of committed work are done. -/
def written (s : State) (id : Nat) (j : Job) : State :=
  let drop := fun (s : State) => modFab s fun f => { f with jobs := kdel f.jobs id }
  match j.kind with
  | .image i _ _ => checkRun (drop s) i
  | .convert i _ => checkRun (modRun (drop s) i fun r => { r with committed := runSteps r.p }) i
  | .chunk n r c => chunkDone (drop s) n (chunkKey r c)
  | .gather tk => gatherGo s id tk
  | _ => match jobStep s j with
    | .done o => jobGone (answerTo s j.dest j.op j.p o.status o.result (if o.data.isSome then o.cover else j.p.length.toNat) o.data) id
    | _ => jobGone (refuse s j.dest j.op j.p stPoisoned) id

/-- A command has read its tables. -/
def commandGo (s : State) (id : Nat) (j : Job) (g v : Nat) (c : Cmd) : State :=
  let part := ((astOf s c.ast.toNat).map (·.partition)).getD 0
  match jobStep s j with
  | .need rs => jobFetch (modJob s id fun j => { j with stage := .stalled }) id rs
  | .fail st => jobGone (tellTo s j.dest st 0 []) id
  | .malformed _ => jobGone (tellTo s j.dest stPoisoned 0 []) id
  | .lost => jobGone (tellTo s j.dest stPoisoned 0 []) id
  | .done o =>
    let b := o.data.getD []
    let s := jobGone s id
    match g, v with
    | 0x0E, _ => collOpen s j.dest part b
    | 0x0F, _ => embCreate s j.dest part (opt c 0) b
    | 0x10, _ => searchCreate s j.dest part b searchTake
    | 0x11, _ => attnOpen s j.dest part b
    | _, 1 => serveCreate s j.dest part (arg c 0 4) (arg c 4 4) b
    | _, _ => serveSetMap s j.dest c b
where
  /-- ATTN.OPEN, once its descriptor has been read (R533). -/
  attnOpen (s : State) (dest : JobTo) (part : Nat) (d : List Byte) : State :=
    let ans := fun (s : State) (st res : Nat) => tellTo s dest st res []
    if !attnOk d then ans s (stMalformed + 256) 0
    else if ((astOf s (kvAst d)).map (·.partition)) ≠ some part then ans s (stDenied + 256 * 2) 0
    else if (libInst s part 6).isNone then ans s (stUnsupported + 256 * 3) 0
    else
      let used := s.fab.attns.map (·.1)
      let total := (s.fab.attns.map fun e => attnMax e.2.desc).foldl (· + ·) 0
      if 1024 ≤ used.length ∨ 16384 < total + attnMax d then ans s (stBudget + 256 * 4) 0
      else match firstFree used 4096 (freeNat s) 4096 with
        | none => ans s (stBudget + 256 * 4) 0
        | some i =>
          let cs := s.ctrs.filter fun e => match e.1 with
            | .attn k _ => k ≠ i
            | _ => true
          let s := bumpFree { s with ctrs := cs }
          ans (modFab s fun f => { f with attns := kset f.attns i { part := part, gen := genOf s hAttn i, desc := d } }) stOk
            (mkNodeHandle i (selfNode s) part (genOf s hAttn i))
  /-- SERVE.CREATE, once its map has been read (R547, R548). -/
  serveCreate (s : State) (dest : JobTo) (part slots lease : Nat) (m : List Byte) : State :=
    let ans := fun (s : State) (st res : Nat) => tellTo s dest st res []
    let need := ceilDiv (slots * 32) frameBytes
    if 1048576 < slots ∨ lease < 10 ∨ 10000000 < lease ∨ !mapOk s m then ans s (stMalformed + 256) 0
    else if !mapPorts s part m then ans s (stDenied + 256 * 3) 0
    else
      let used := s.fab.services.map (·.1)
      if 64 ≤ used.length ∨ t1Free s < need then ans s (stBudget + 256 * 4) 0
      else match firstFree used 4096 (freeNat s) 4096 with
        | none => ans s (stBudget + 256 * 4) 0
        | some i =>
          let cs := s.ctrs.filter fun e => match e.1 with
            | .serve k _ => k ≠ i
            | _ => true
          let s := bumpFree { s with ctrs := cs, mem := { s.mem with reserved := kset s.mem.reserved (2 ^ 42 + i) need } }
          ans (modFab s fun f => { f with services := kset f.services i { part := part, gen := genOf s hServe i, slots := slots, leaseUs := lease, map := m } })
            stOk (mkNodeHandle i (selfNode s) part (genOf s hServe i))
  /-- SERVE.SET_MAP, once its map has been read (R563). -/
  serveSetMap (s : State) (dest : JobTo) (c : Cmd) (m : List Byte) : State :=
    let ans := fun (s : State) (st : Nat) => tellTo s dest st 0 []
    match handleService s (arg c 0 8) with
    | none => ans s stDenied
    | some (i, v) =>
      if 60000 < arg c 8 4 ∨ !mapOk s m then ans s (stMalformed + 256)
      else if !mapPorts s v.part m then ans s (stDenied + 256 * 3)
      else if v.old.isSome then ans s stRetry
      else newEpoch s i m (arg c 8 4) (cmdRef c)

/-- One piece of work goes on, where no event of its own is awaited. -/
def jobGo (s : State) (id : Nat) : State :=
  match jobOf s id with
  | none => s
  | some j =>
    let gone := match j.dest with
      | .origin (.here r _) _ => (kfind s.ing.outs r).isNone
      | .part r _ => (jobOf s r).isNone
      | _ => false
    if gone then match j.kind with
      -- R367: the RUN that the step is of is released, and with it the rest of its work
      | .image i _ _ | .convert i _ =>
        if j.stage ≠ .writing then failRun s i stPoisoned else if j.wait.isEmpty then written s id j else s
      | _ => jobGone s id
    else if !j.wait.isEmpty then s
    else match j.fail with
      | some st => match j.kind with
        | .gather tk => gatherGo s id tk
        | .scatter tk => scatterGo s id tk
        | .row tk r a => rowGo s id tk r a
        | .rowsRead tk => rowsGo s id tk
        | .repair _ ks _ => repairGo (ks.length + 3) searchTake s id
        | _ => abandon s id st
      | none =>
        if j.stage = .writing then written s id j
        else match j.kind with
          | .gather tk => gatherGo s id tk
          | .scatter tk => scatterGo s id tk
          | .row tk r a => rowGo s id tk r a
          | .rowsRead tk => rowsGo s id tk
          | .repair _ ks _ => repairGo (ks.length + 3) searchTake s id
          | .search xk => searchGo s id xk
          | .command g v c => commandGo s id j g v c
          | .attend i => if j.lists.isSome then takeShadow s id else readPages s id i j
          | _ => takeShadow s id
where
  /-- The page list is read under KV_AST (R539). -/
  readPages (s : State) (id i : Nat) (j : Job) : State :=
    let t := ((attnOf s i).map fun c => kvAst c.desc).getD 0
    match withRanges j (vaPool j.pages t (attList j.p) (16 * attPages j.p)) fun l => .done { data := some l } with
    | .need rs => jobFetch s id rs
    | .done o => attendList s id i (o.data.getD [])
    | .fail st => abandon s id st
    | .malformed _ => abandon s id stPoisoned
    | .lost => abandon s id stPoisoned

/-! ## Answers to what engines sent -/

/-- A segment of a read at another home. -/
def readGot (s : State) (tag job pool len : Nat) (r : Resp) : State :=
  let ok := r.status = 0
  let done := fun (j : Job) => { j with wait := j.wait.erase (pool, len) }
  let s := modJob s job fun j =>
    if !ok then done { j with fail := some (j.fail.getD r.status.toNat) }
    else
      let a := pool + r.segOffset.toNat
      let j := { j with cache := cacheLines j.cache (a / 64) r.data (r.data.length / 64) }
      if (linesOf pool len).all fun l => (kfind j.cache l).isSome then done j else j
  let excess := match jobOf s job with
    | some j => !j.wait.contains (pool, len)
    | none => true
  if excess then modFab s fun f => { f with uses := kdel f.uses tag } else s

/-- A segment of the answer to a part of a root (R458, R511). -/
def partSeg (s : State) (id ix : Nat) (r : Resp) : State :=
  match jobOf s id with
  | none => s
  | some j =>
    match j.parts[ix]? with
    | none => s
    | some x =>
      let st := r.status.toNat
      let set := fun (f : JobPart → JobPart) => modJob s id fun j => { j with parts := j.parts.mapIdx fun i y => if i = ix then f y else y }
      match j.kind with
      | .forward =>
        -- the answer goes on as it is; it is whole when its last segment has come (R78)
        let fin := !r.isData || decide (st ≠ stOk ∧ st ≠ stPartial) ||
          (let segs := (x.segs ++ [(r.segOffset.toNat, leBytes 4 r.segCover.toNat)])
           segs.any fun e => decide (leField e.2 0 4 < 65536) && (segs.map fun y => leField y.2 0 4).foldl (· + ·) 0 = e.1 + leField e.2 0 4)
        (match j.dest with
        | .origin (.here q _) _ =>
          let s := set fun y => { y with segs := y.segs ++ [(r.segOffset.toNat, leBytes 4 r.segCover.toNat)] }
          let s := respondHere s (schedPort r.lport) j.p.lport r.load.toNat r
          if fin then jobGone (requestGone s q) id else s
        | _ => jobGone s id)
      | .gather tk =>
        if st ≠ stOk then set fun y => { y with status := some st }
        else
          let want := match tableOf s tk with
            | some t => partialBytes t.desc j.p.payload (j.lists.getD []) x.items
            | none => 0
          match tallowPayload r.segCover.toNat r.data 32 with
          | none => set fun y => { y with status := some stPoisoned }
          | some d => set fun y =>
              let got := y.got + d.length
              { y with segs := y.segs ++ [(r.segOffset.toNat, d)], got := got, result := r.result.toNat, status := if want ≤ got then some stOk else none }
      | .search _ =>
        if st = stRetry then searchRetry s id ix
        else set fun y => { y with status := some st, result := r.result.toNat, segs := [(0, r.data)] }
      | _ => set fun y => { y with status := some st, result := r.result.toNat }

/-- A response to a request whose parts an engine sent in the requester's name. -/
def partAnswer (s : State) (out : Nat) (r : Resp) : Option State :=
  match s.fab.jobs.find? fun e => match e.2.dest with
      | .origin (.here q _) _ => q = out
      | _ => false with
  | none => none
  | some (id, j) =>
    (j.parts.findIdx? fun x => x.host = r.rspNode.toNat && x.sent && x.status.isNone).map fun ix => partSeg s id ix r

/-- A part's answer that comes after its SEARCH is discarded and counted (R517). -/
def lateSearch (s : State) (r : Resp) : Option State :=
  (s.fab.indexes.find? fun e => e.2.late.contains (r.dst.toNat, r.tag.toNat, r.rspNode.toNat)).map fun e =>
    modIndex (bumpSearch s e.1 13 1) e.1 fun x => { x with late := x.late.erase (r.dst.toNat, r.tag.toNat, r.rspNode.toNat) }

/-- A response to a request or message of this switch's engines; none where no engine sent it. -/
def fabAnswered (s : State) (r : Resp) : Option State :=
  let tag := r.tag.toNat
  let drop := fun (s : State) => modFab s fun f => { f with uses := kdel f.uses tag }
  match kfind s.fab.uses tag with
  | none => lateSearch s r
  | some u => some (match u with
    | .read job pool len => readGot s tag job pool len r
    | .write job pool len => drop (modJob s job fun j =>
        { j with wait := j.wait.erase (pool, len), fail := if r.status = 0 then j.fail else some (j.fail.getD r.status.toNat) })
    | .relay id node => relayGot (modFab (drop s) fun f => { f with relays := kmod f.relays id fun x => { x with tags := x.tags.erase tag } })
        id node r.status.toNat r.result.toNat
    | .part id ix =>
      match jobOf s id with
      | none => ((lateSearch (drop s) r).getD (drop s))
      | some _ =>
        let s := partSeg s id ix r
        let excess : Bool := match (jobOf s id).bind fun j => j.parts[ix]? with
          | some x => x.status.isSome || !x.sent
          | none => true
        if excess then drop s else s
    | .notice _ => drop s
    | _ => collAnswered (drop s) tag u r.status.toNat)

/-- Relayed commands whose every part is done. -/
def relaysGo (s : State) : State :=
  match s.fab.relays.find? fun e => relayDone e.2 with
  | none => s
  | some (id, r) =>
    let s := modFab s fun f => { f with relays := kdel f.relays id }
    match r.group with
    | 0x0E => collRelayed s r
    | 0x0F => embRelayed s r
    | _ => searchRelayed s r

/-- Everything of the engines that can go on without an event goes on. -/
def engineFinish (s : State) : State :=
  if s.fab.jobs.isEmpty && s.fab.relays.isEmpty && s.fab.ctxs.isEmpty && s.fab.tables.isEmpty && s.fab.indexes.isEmpty && s.fab.attns.isEmpty &&
      s.fab.insts.isEmpty then s
  else
    let s := (s.fab.jobs.map (·.1)).foldl jobGo s
    let s := (s.fab.relays).foldl (fun s _ => relaysGo s) s
    let s := collFinish s
    let s := searchFinish (embFinish s)
    let s := s.fab.attns.foldl (fun s e => closeAttn s e.1) s
    let s := restall s
    fillShort (s.fab.insts.foldl (fun s e => unloadGo s e.1) s)

/-! ## Requests for engines (R72) -/

/-- Regions that hold what a virtual range under an AST reads, where it is mapped. -/
def vaRegions (s : State) (part ast va n : Nat) : List Nat :=
  match lookPages s part ast false va n with
  | .inl ps => dataRegions s (vaPool ps ast va n)
  | .inr _ => []

/-- The regions that hold a compute request's data, as far as the request itself names them (R43, R394). -/
def serveRegions (s : State) (op : Op) (p : Req) : List Nat :=
  let b := p.payload
  let a := p.address.toNat
  let part := p.partition.toNat
  let rows := fun (t : EmbTable) (rs : List Nat) => (rs.filter fun r => rowHome t r = selfNode s).flatMap fun r =>
    vaRegions s part (rowVa t r).1 (rowVa t r).2 (rowStride t.desc)
  match op with
  | .collPartial => match handleCtx s a with
    | some (ck, x) => partialRegions s ck x b
    | none => []
  | .run => match handleInst s p with
    | some (_, x) => (x.blocks.flatMap fun l => l.filterMap id).map (· / 16)
    | none => []
  | .filter => (filterRanges p).flatMap fun r => vaRegions s part p.ast.toNat r.2.1 r.2.2
  | .gather => match handleTable s a with
    | some (_, t) => rows t (if gList b = 0 then (natRange 0 (gIdx b)).map (gIndex b (b.drop 32)) else [])
    | none => []
  | .scatter => match handleTable s a with
    | some (_, t) => rows t (if leField b 0x10 8 = 0 then (natRange 0 (xIdx b)).map (xIndex b (b.drop 32)) else [])
    | none => []
  | .search => match handleIndex s a with
    | some (_, x) => (hostShards x.desc x.shards (selfNode s)).flatMap fun k =>
        (shardArrays x.desc x.shards k).flatMap fun e => vaRegions s part (siAst x.shards k) e.2.1 e.2.2
    | none => []
  | .attend => match handleAttn s a with
    | some (_, c) => if attList p ≠ 0 then [] else
        ((natRange 0 (attPages p)).map (pageEntry (sliceBytes b (32 + attQBytes c.desc p) (16 * attPages p)))).flatMap fun e =>
          vaRegions s part (kvAst c.desc) e.1 (kvPageBytes c.desc)
    | none => []
  | _ => []

/-- The scheduler ports of the regions to which a compute request goes: those that hold its data; where none does it is the lowest region not
fenced (DESIGN CHOICE, log entry 156). A RUN and a COLL_PARTIAL go to one. -/
def servePorts (s : State) (op : Op) (p : Req) : List Nat :=
  let rs := (serveRegions s op p).eraseDups
  let rs := if op = .run ∨ op = .collPartial then rs.take 1 else rs
  (if rs.isEmpty then [((natRange 0 16).find? fun r => !isFenced s r).getD 0] else rs).map computePort
def servePort (s : State) (op : Op) (p : Req) : Nat := (servePorts s op p).headD (computePort 0)

/-- Send a compute request to a region's compute port. -/
def pushShare (s : State) (o : Origin) (op : Op) (p : Req) (port : Nat) : State :=
  let id := s.nextId
  let s := pushVoq s (schedPort p.lport) p.lport (internal port) false (.req op { p with flags := p.flags &&& 0xFFF7 }) []
  modPkt s id fun q => { q with work := some (o, op, p) }

/-- A compute request crosses the central scheduler to a region's compute port, or is split among the regions that hold its data; only a collective
contribution takes the local port path of the region where it arrived (R43, R44, R393). What crosses to each of several regions is the request with
its header, for the spec names no form of a share (DESIGN CHOICE, log entry 181). -/
def toRegion (s : State) (o : Origin) (op : Op) (p : Req) : State :=
  match servePorts s op p with
  | [] => s
  | [port] => pushShare s o op p port
  | port :: more =>
    let r := (port :: more).foldl (fun (a : State × List Nat) k => (pushShare a.1 o op p k, a.2 ++ [a.1.nextId])) (s, [])
    modFab r.1 fun f => { f with splits := f.splits ++ [{ shares := r.2, origin := o, op := op, p := p, port := port }] }

/-- A compute request begins at its engine. -/
def engineStart (s : State) (o : Origin) (port : Nat) (op : Op) (p : Req) : State :=
  let dest := JobTo.origin o port
  match op with
  | .run => startRun s dest p
  | .filter => startFilter s dest p
  | .gather => startGather s dest p
  | .scatter => startScatter s dest p
  | .search => startSearch s dest p
  | .attend => startAttend s dest p
  | .ownerCas => startOwnerCas s dest p
  | .collContrib => startContrib s dest p
  | .collPartial => startPartial s dest p
  | _ => refuse s dest op p stUnsupported

/-- Compute requests that have reached a region's compute port begin there, and what this switch answered itself is heard. -/
def startLanded (s : State) : State :=
  let heard := s.fab.heard
  let s := s.fab.landed.foldl (fun s l => engineStart s l.1 l.2.2.2 l.2.1 l.2.2.1) { s with fab := { s.fab with landed := [], heard := [] } }
  heard.foldl (fun s r => (fabAnswered s r).getD s) s

/-- The virtual ranges that a compute request's own fields name (R96): a RUN's MEM streams and a FILTER's source and bitmap (R360, R377),
the lists and output of a GATHER, the lists of a SCATTER and the filter of a SEARCH. -/
def engineRanges (s : State) (op : Op) (p : Req) : List (Nat × Nat) :=
  match plainPayload p with
  | none => []
  | some b =>
    let p := { p with payload := b }
    let at_ := fun (a n : Nat) => if a = 0 then [] else [(a, n)]
    if p.length = 0 then []
    else match op with
      | .run => match handleInst s p with
        | some (_, x) => ((runRanges x p).getD []).map (·.2)
        | none => []
      | .filter => (filterRanges p).map (·.2)
      | .gather => match handleTable s p.address.toNat with
        | some (_, t) => at_ (gList b) (gListBytes b) ++ at_ (gOut b) (gOuts b * tdDim t.desc * (fmtBits (gFmt b) / 8))
        | none => []
      | .scatter => match handleTable s p.address.toNat with
        | some (_, t) => at_ (leField b 0x10 8) (xListBytes t.desc b)
        | none => []
      | .search => match handleIndex s p.address.toNat with
        | some (_, x) => at_ (sFilter b) (bitmapBytes x.desc)
        | none => []
      | _ => []

/-- A handle names an object of the request's partition (step 8 of R84); one of another switch's is judged there. -/
def engineHandle (s : State) (op : Op) (p : Req) : Bool :=
  let a := p.address.toNat
  let part := p.partition.toNat
  match op with
  | .run | .filter => match handleInst s p with
    | some e => e.2.part = part
    | none => false
  | .gather | .scatter => match handleTable s a with
    | some e => e.2.part = part && e.2.active
    | none => false
  | .search => match handleIndex s a with
    | some e => e.2.part = part && e.2.active
    | none => false
  | .attend => (nodeHandle a).2.2.1 = part && ((nodeHandle a).2.1 ≠ selfNode s || (handleAttn s a).any fun x => x.2.closing.isNone)
  | .ownerCas => (nodeHandle a).2.2.1 = part && ((nodeHandle a).2.1 ≠ selfNode s || (handleService s a).isSome)
  | .collContrib => match handleCtx s a with
    | some e => e.2.part = part
    | none => false
  | _ => false

/-! ## Loss of nodes (R424, R517, R561) -/

/-- The route to a node is lost. -/
def nodeLost (s : State) (node : Nat) : State :=
  let ids := s.fab.uses.filterMap fun e => match e.2 with
    | .relay id n => if n = node then some (e.1, id) else none
    | _ => none
  let s := ids.foldl (fun s e => relayGot (modFab s fun f =>
    { f with uses := kdel f.uses e.1, relays := kmod f.relays e.2 fun x => { x with tags := x.tags.erase e.1 } }) e.2 node stNoMapping 0) s
  serveLost (searchLost (collLost s node) node) node

/-! ## What power, fences and partitions ask -/

/-- A step runs or is queued on a block of a region (R882). -/
def regionWork (s : State) (r : Nat) : Bool :=
  s.fab.jobs.any fun e => isStep e.2 && e.2.stage ≠ .writing && ((e.2.block.map (· / 16)) = some r || (e.2.shadow.map (· / 16)) = some r || e.2.also.any (· / 16 = r))

/-- A block of a region is bound to an instance, held as a shadow block, or holds scratch of a collective context (R890). -/
def regionBound (s : State) (r : Nat) : Bool :=
  (blocksIn r).any (fun b => (blk s b).use ≠ .free) || decide (0 < collScratch s r)

/-- No collective round, RUN, ATTEND, SEARCH or step apply is in progress (R878). -/
def computeIdle (s : State) : Bool :=
  s.fab.jobs.isEmpty && s.fab.insts.all (fun e => e.2.run.isNone) && s.fab.nodes.all (fun e => e.2.chunks.isEmpty && e.2.joined.isEmpty) &&
  s.fab.tables.all fun e => !e.2.applying

/-- A block's scratch and accumulators are lost or cleared (R355, R876). -/
def scratchGone (x : Block) : Block := { x with scratch := [], second := [], accs := [], prev := [], tileC := [] }

/-- Entering Banked clears every slot of every collective context (R879); scratch is lost (R876). -/
def bankCompute (s : State) : State :=
  modFab s fun f => { f with blocks := f.blocks.map fun e => (e.1, scratchGone e.2)
                             nodes := f.nodes.map fun e => (e.1, { e.2 with chunks := [], spill := [] }) }

/-- Pilot loses every object; what a block has retired stays retired (R325, R773, R876, R881). -/
def pilotCompute (s : State) : State :=
  modFab s fun f =>
    { blocks := f.blocks.map fun e => (e.1, { retired := e.2.retired, phys := e.2.phys, spares := e.2.spares, suspects := e.2.suspects,
                                              retiredCells := e.2.retiredCells, transients := e.2.transients, scrubAt := e.2.scrubAt }) }

/-- Program instances of a partition with their image's measurement (R748). -/
def instsOf (s : State) (n : Nat) : List (Nat × List Byte) :=
  (s.fab.insts.filter fun e => e.2.part = n).map fun e => (e.1, e.2.measure)

/-- An object's last command and requests: an instance is unloaded at once (R367, R759). -/
def dropInst (s : State) (i : Nat) : State :=
  match instOf s i with
  | none => s
  | some x =>
    let runs := x.run.toList ++ x.queue
    let jobs := s.fab.jobs.filter fun e => e.2.inst = some i
    let s := runs.foldl (fun s r => holdEnd (refuse s r.dest .run r.p stTornDown) r.hold) s
    let s := jobs.foldl (fun s e => jobGone (if e.2.op = .run then s else refuse s e.2.dest e.2.op e.2.p stTornDown) e.1) s
    let s := match x.replace with
      | some (_, r) => complete s r stTornDown 0 []
      | none => s
    finishUnload (modInst s i fun x => { x with run := none, queue := [], replace := none, unload := some (x.unload.getD []) }) i

/-- A service goes (R569): nothing of its table stays. -/
def dropService (s : State) (i : Nat) : State :=
  match serviceOf s i with
  | none => s
  | some v =>
    let s := match v.old with
      | some (_, _, r) => complete s r stDenied 0 []
      | none => s
    bumpGen { s with fab := { s.fab with services := kdel s.fab.services i }, mem := { s.mem with reserved := kdel s.mem.reserved (2 ^ 42 + i) } } hServe i 11

/-- A partition's contexts, tables, indexes, services and instances go (R759). -/
def dropCompute (s : State) (n : Nat) : State :=
  let s := s.fab.ctxs.foldl (fun s e => if e.2.part = n then forceClose s e.1 0 else s) s
  let s := s.fab.tables.foldl (fun s e => if e.2.part = n then freeTable s e.1 else s) s
  let s := s.fab.indexes.foldl (fun s e => if e.2.part = n then freeIndex s e.1 else s) s
  let s := s.fab.attns.foldl (fun s e =>
    if e.2.part ≠ n then s
    else
      let jobs := s.fab.jobs.filter fun j => j.2.kind = .attend e.1
      let s := jobs.foldl (fun s j => jobGone (refuse s j.2.dest .attend j.2.p stTornDown) j.1) s
      closeAttn (modAttn s e.1 fun c => { c with closing := some (c.closing.getD []) }) e.1) s
  let s := s.fab.services.foldl (fun s e => if e.2.part = n then dropService s e.1 else s) s
  let s := s.fab.insts.foldl (fun s e => if e.2.part = n then dropInst s e.1 else s) s
  let mine := s.fab.jobs.filter fun e => e.2.p.partition.toNat = n
  let s := mine.foldl (fun s e => jobGone (match e.2.kind with
    | .command .. => tellTo s e.2.dest stTornDown 0 []
    | _ => refuse s e.2.dest e.2.op e.2.p stTornDown) e.1) s
  modFab s fun f => { f with progs := kdel f.progs n }

/-- What a region's fence does to steps, blocks, shadow blocks, collective nodes, service tables, and requests on their way to the region's
blocks (R430, R558, R778). -/
def fenceCompute (s : State) (r : Nat) : State :=
  let s := (blocksIn r).foldl vacate s
  let s := collFence s r
  let s := { s with core := { s.core with voqs := s.core.voqs.map fun q => match q.work with
    | some (_, op, p) => if q.egress = internal (computePort r) then { q with egress := internal (servePort s op p) } else q
    | none => q } }
  modFab s fun f => { f with services := f.services.map fun e => (e.1, { e.2 with reading := true }) }

/-- A Wick-to-Wick message for the engines (R410, R425, R445, R481, R489): ADMIT, RESUME, ENTRY_INSTALL or ROW_REDIRECT, as the sender
relays it. A command longer than a message is carried out when its last part has come. -/
def wickCompute (s : State) (node : Nat) (p : Req) (d : List Byte) : State :=
  match parcelGot s node d with
  | (s, none) => answer s (.mgmt 0x89) p stOk 0
  | (s, some b) =>
    let dest := JobTo.msg p
    match leField b 0 1 with
    | 0x0E => collTake s dest b
    | 0x0F => embTake s dest b
    | 0x10 => searchTake s dest b
    | _ => tellTo s dest stUnsupported 0 []

end Sys2Proof.Machine
end

