-- ==== Sys2Proof/Machine/ShapeCore.lean ====
section
/-! DEFINITION. Machine/ShapeCore.lean: egress shapers and time gates (16_shaping_time.md R685 to R708, 18 R800). -/
namespace Sys2Proof.Machine

/-! ## Shapers -/

/-- A credit or bucket level that grows at a rate of 100 Mb/s units to its cap, both in 1/80 byte (R690, R691). -/
def grown (level : Int) (rate cap : Nat) (dt : Time) : Int := min (cap : Int) (level + (rate * dt : Nat))

/-- Level-one credit of an egress and class (R690, R691). -/
def l1Credit (s : State) (e tc : Nat) : Int :=
  let i := 8 * e + tc
  let cap := regField s (rShape i) 15 17 * 64 * 80
  match kfind s.shape.l1 i with
  | some (v, t) => grown v (regField s (rShape i) 1 14) cap (s.clk - t)
  | none => cap

/-- The shaper of an egress and class limits it. -/
def l1On (s : State) (e tc : Nat) : Bool := decide (e < 512 ∧ 3 ≤ tc) && regField s (rShape (8 * e + tc)) 0 1 = 1

/-- Tokens of a level-two shaper, in millionths (R694). -/
def l2Tokens (s : State) (x : Shape2) : Nat := min (x.burst * 1000000) (x.tokens + x.rateKpps * (s.clk - x.at_))

/-- Level two of a partition and class. -/
def l2Of (s : State) (part tc : Nat) : Option Shape2 := if tc < 3 then none else kfind s.shape.l2 (8 * part + tc)

/-- An egress that faces a degraded switch has a limiter of its own over TC 3 to 7 (R800). -/
def limited (s : State) (e tc : Nat) : Bool :=
  decide (3 ≤ tc) && (lportOf s e).role = some .switch &&
  (match (lportOf s e).partner with
   | some p => s.ras.degraded.any fun d => d.switch && d.node = p.node
   | none => false)

/-- That limiter's credit. -/
def limiterCredit (s : State) (e : Nat) : Int :=
  let cap := 1024 * 64 * 80
  match kfind s.ras.limiter e with
  | some (v, t) => grown v (regField s rHealth 20 14) cap (s.clk - t)
  | none => cap

/-- A packet's partition for level two (R695). -/
def Packet.part : Packet → Nat
  | .req _ p => p.partition.toNat
  | .resp _ => 0

/-- Both shapers, and a degraded neighbour's limiter, let a packet start (R690, R694, R800). -/
def shaped (s : State) (e tc : Nat) (pkt : Packet) : Bool :=
  (!l1On s e tc || decide (0 ≤ l1Credit s e tc)) &&
  (match l2Of s pkt.part tc with
   | some x => decide (1000000 ≤ l2Tokens s x) || decide (512 ≤ e)
   | none => true) &&
  (!limited s e tc || decide (0 ≤ limiterCredit s e))

/-- A packet of so many flits starts on an egress: its cost is taken (R689, R690, R694). -/
def debit (s : State) (e tc flits : Nat) (pkt : Packet) : State :=
  let i := 8 * e + tc
  let s := if l1On s e tc then
      let cost : Int := ((64 * flits + regField s (rShape i) 32 8) * 80 : Nat)
      let c := l1Credit s e tc - cost
      { s with shape := { s.shape with l1 := kset s.shape.l1 i (c, s.clk) } }
    else s
  let s := match l2Of s pkt.part tc with
    | some x =>
      if 512 ≤ e then s
      else
        let x' : Shape2 := { x with tokens := l2Tokens s x - 1000000, at_ := s.clk }
        { s with shape := { s.shape with l2 := kset s.shape.l2 (8 * pkt.part + tc) x' } }
    | none => s
  if limited s e tc then
    let c := limiterCredit s e - (64 * flits * 80 : Nat)
    { s with ras := { s.ras with limiter := kset s.ras.limiter e (c, s.clk) } }
  else s

/-- A logical port enters ACTIVE: its level-one credits are full (R691). -/
def l1Fill (s : State) (e : Nat) : State :=
  { s with shape := { s.shape with l1 := s.shape.l1.filter fun x => x.1 / 8 ≠ e } }

/-! ## Gates -/

/-- The entries of a cycle with their start and end in ns from its start (R701, R706): entries of 0 are skipped, the last
stays to the end of the cycle, which cuts off what runs past it. -/
def gateSegs (cycle : Nat) (from_ : Nat) : List GateEntry → List (Nat × Nat × GateEntry)
  | [] => []
  | e :: es =>
    if e.dur = 0 then gateSegs cycle from_ es
    else if cycle ≤ from_ then []
    else
      match gateSegs cycle (from_ + e.dur) es with
      | [] => [(from_, cycle, e)]
      | r => (from_, min cycle (from_ + e.dur), e) :: r

/-- Position in the cycle at a fabric time (R705). -/
def gatePos (g : GateList) (t : Nat) : Nat := (((t : Int) - (g.base : Int)) % (g.cycle : Int)).toNat

/-- The entry in force at a position. -/
def gateEntryAt (segs : List (Nat × Nat × GateEntry)) (pos : Nat) : Option (Nat × Nat × GateEntry) :=
  segs.find? fun x => decide (x.1 ≤ pos ∧ pos < x.2.1)

/-- An entry lets packets of a class and group start (R702, R703). -/
def gateLets (e : GateEntry) (tc group : Nat) : Bool :=
  if group ≠ 0 then e.groupOpen.testBit (group - 1)
  else e.mode ≠ 2 && e.tcOpen.testBit (tc - 3)

/-- ns from a position until an entry that does not let the packet start; none where every entry does. -/
def openFor (ok : GateEntry → Bool) (segs : List (Nat × Nat × GateEntry)) (pos : Nat) : Option Nat :=
  if segs.all fun x => ok x.2.2 then none
  else
    let later := (segs.filter fun x => decide (pos < x.2.1)).map fun x => (x.1 - pos, x.2.1 - pos, x.2.2)
    let cycle := (segs.getLast?.map fun x => x.2.1).getD 0
    let again := segs.map fun x => (x.1 + (cycle - pos), x.2.1 + (cycle - pos), x.2.2)
    ((later ++ again).find? fun x => !ok x.2.2).map (·.1)

/-- ns that a window has been open at a position. -/
def openSince (ok : GateEntry → Bool) (segs : List (Nat × Nat × GateEntry)) (pos : Nat) : Nat :=
  let cycle := (segs.getLast?.map fun x => x.2.1).getD 0
  let before := (segs.filter fun x => decide (x.1 ≤ pos)).map fun x => (pos - x.1, pos - min pos x.2.1, x.2.2)
  let earlier := segs.map fun x => (pos + (cycle - x.1), pos + (cycle - x.2.1), x.2.2)
  -- newest closed entry before the position: its end
  match ((earlier ++ before).reverse.find? fun x => !ok x.2.2) with
  | some x => x.2.1
  | none => pos

/-- The longest window of a cycle in which a packet may start. -/
def longestOpen (ok : GateEntry → Bool) (segs : List (Nat × Nat × GateEntry)) : Nat :=
  (segs.filter fun x => ok x.2.2).foldl (fun m x => max m ((openFor ok segs x.1).getD 0)) 0

/-- The gate's answer for a packet. -/
inductive GateSays where
  | closed
  | open_
  /-- it starts at the beginning of its window and runs past it (R704) -/
  | overrun
deriving DecidableEq, Repr

/-- Whether a packet of so many ns on the egress may start now (R702 to R706). -/
def gateOf (s : State) (e tc group ns : Nat) : GateSays :=
  if decide (512 ≤ e) || decide (tc < 3) then .open_
  else match kfind s.shape.gates (e / 4) with
    | none => .open_
    | some g =>
      let segs := gateSegs g.cur.cycle 0 g.cur.entries
      if segs.isEmpty then .open_
      else
        let pos := gatePos g.cur s.ftime.toNat
        let ok := fun x => gateLets x tc group
        match gateEntryAt segs pos with
        | none => .open_
        | some x =>
          if !ok x.2.2 then .closed
          else match openFor ok segs pos with
            | none => .open_
            | some left =>
              if ns ≤ left then .open_
              else if longestOpen ok segs < ns && decide (openSince ok segs pos ≤ 1) then .overrun
              else .closed

/-- Rank of a head at an egress whose entry gives open groups priority (R702). -/
def gateFirst (s : State) (e tc group : Nat) : Bool :=
  decide (e < 512) && decide (3 ≤ tc) && decide (group ≠ 0) &&
  (match kfind s.shape.gates (e / 4) with
   | none => false
   | some g =>
     match gateEntryAt (gateSegs g.cur.cycle 0 g.cur.entries) (gatePos g.cur s.ftime.toNat) with
     | some x => x.2.2.mode = 1 && x.2.2.groupOpen.testBit (group - 1)
     | none => false)

/-- The next instant at which a port's entry changes. -/
def gateNext (s : State) (g : GateList) : Option Nat :=
  let pos := gatePos g s.ftime.toNat
  (gateEntryAt (gateSegs g.cycle 0 g.entries) pos).map fun x => s.ftime.toNat + (x.2.1 - pos)

/-- The first cycle start of a list at or after a fabric time (R705). -/
def cycleStart (g : GateList) (t : Nat) : Nat :=
  let d := gatePos g t
  if d = 0 then t else t + (g.cycle - d)

end Sys2Proof.Machine
end

