-- ==== Sys2Proof/Machine/TxCore.lean ====
section
/-! DEFINITION. Machine/TxCore.lean: the transmitter of a logical port: data codewords and their numbers, secure frames, tunnel
frames, credit and replay (14_link_layer.md R603 to R624, R641 to R644; 13_tallow_protection.md R591, R592). -/
namespace Sys2Proof.Machine

/-! ## What a logical port is -/

/-- Change the link layer of a logical port. -/
def modLink (s : State) (n : Nat) (f : Link → Link) : State := modLport s n fun l => { l with ll := f l.ll }

/-- The share of the port's retry buffer (R618). -/
def retryShare (s : State) (n : Nat) : Nat := 400 / (lportsOf s (portOf n)).length

/-- Credit that the transmitter holds on a channel (R616). -/
def creditHeld (l : Link) (c : Nat) : Nat :=
  l.peerAdv.getD c 0 - (l.sent.getD c 0 + 65536 - l.peerFreed.getD c 0) % 65536

/-- Channel of a packet on the wire of a port: the escape channel only toward a switch (R670). -/
def wireChannel (s : State) (q : QPkt) (e : Nat) : Nat := channelOf q.tc (q.esc && facesSwitch s e)

/-- Flits of a packet. -/
def Packet.flits (k : Packet) : Nat := k.size / 64

/-! ## Filling codewords and tunnel frames -/

/-- What a run over slots has gathered. -/
structure Fill where
  q : List TxPkt
  frame : Nat
  ctr : Nat
  used : Nat := 0
  touched : List (Nat × Packet) := []
  outs : List Out := []
deriving DecidableEq, Repr

/-- Fill so many slots of a codeword or tunnel frame: packet flits in order, on a marked port the trailer after 16 flits or
when no further flit is ready (R591, R608, R609, R615). -/
def fillSlots (n slot : Nat) (marked : Bool) : Nat → Fill → Fill
  | 0, f => f
  | k + 1, f =>
    if marked && (f.frame = 16 || (f.q.isEmpty && decide (0 < f.frame))) then
      fillSlots n slot marked k { f with outs := f.outs ++ [.trailer n slot f.ctr f.frame], frame := 0, ctr := f.ctr + 1,
                                         used := f.used + 1 }
    else match f.q with
      | [] => f
      | t :: ts =>
        if t.left = t.total && t.esc then
          -- ESCAPE takes a slot before the packet's first flit (R612, R615)
          fillSlots n slot marked k { f with q := { t with esc := false } :: ts, used := f.used + 1, outs := f.outs ++ [.control n .escape] }
        else
        let fin := if t.left ≤ 1 then [Out.packet n t.pkt] else []
        let q := if t.left ≤ 1 then ts else { t with left := t.left - 1 } :: ts
        fillSlots n slot marked k { f with
          q := q, frame := if marked then f.frame + 1 else 0, used := f.used + 1,
          touched := if f.touched.any fun x => x.1 = t.id then f.touched else f.touched ++ [(t.id, t.pkt)],
          outs := f.outs ++ fin }

/-- A gateway holds its retransmission buffer full (R644). -/
def gwFull (g : Gateway) : Bool := decide (g.retxMib * MiB ≤ (g.held.foldl (fun n h => n + h.2) 0 + 128) * 64)

/-- A gateway's network pauses the priority of a class (R642). -/
def gwPaused (s : State) (g : Gateway) (tc : Nat) : Bool :=
  g.paused.any fun p => p.1 = g.pcp.getD (tcVc tc) 0 && decide (s.clk < p.2)

/-- The port may send packet flits: it is ACTIVE, and a marked port has a key and its Hurricane (R590, R788). -/
def mayTalk (s : State) (n : Nat) : Bool :=
  let l := lportOf s n
  l.link = .active && s.ras.halt = 0 &&
  (!l.marked || (s.ras.hurricane && (l.sec.txKeys.getD l.sec.txSlot none).isSome))

/-- At a frame boundary the transmitter takes the slot that waits, counts its frames from 0, and destroys the old key (R592,
R734). -/
def takeSlot (s : State) (n : Nat) : State :=
  modLport s n fun l =>
    match l.sec.txWant with
    | some k =>
      if l.ll.txFrame = 0 then
        let x : Secure := { l.sec with
          txKeys := (l.sec.txKeys.set (1 - k) none), txSlot := k, txCtr := 0, txWant := none, since := s.clk }
        { l with sec := x }
      else l
    | none => l

/-- Send one data codeword, or one tunnel frame (R617, R618, R642). -/
def sendOne (s : State) (n : Nat) : State :=
  let s := takeSlot s n
  let l := lportOf s n
  let f := fillSlots n l.sec.txSlot l.marked (if l.gw.isSome then 128 else 10)
    { q := l.ll.txq, frame := l.ll.txFrame, ctr := l.sec.txCtr }
  let k := l.ll.txNext
  let ll := { l.ll with txq := f.q, txFrame := f.frame }
  let s := f.outs.foldl emit s
  match l.gw with
  | none =>
    let ll : Link := { ll with
      txNext := (k + 1) % 4096, txHeld := ll.txHeld ++ [k],
      txSince := if ll.txHeld.isEmpty then s.clk else ll.txSince,
      txPkts := ll.txPkts ++ f.touched.map fun x => (k, x.1, x.2) }
    modLport s n fun l => { l with ll := ll, sec := { l.sec with txCtr := f.ctr } }
  | some g =>
    let q := (g.seq + 1) % 2 ^ 32
    let g' : Gateway := { g with
      seq := q, held := g.held ++ [(q, f.used)], heldSince := if g.held.isEmpty then s.clk else g.heldSince,
      lastSent := s.clk }
    let ll : Link := { ll with txPkts := ll.txPkts ++ f.touched.map fun x => (q, x.1, x.2) }
    emit (modLport s n fun l => { l with ll := ll, sec := { l.sec with txCtr := f.ctr }, gw := some g' })
      (.tunnel n q g.rxSeq f.used)

/-- Room for another data codeword (R618) or data frame (R644). -/
def txRoom (s : State) (n : Nat) : Bool :=
  let l := lportOf s n
  match l.gw with
  | some g => !gwFull g
  | none => decide (l.ll.txHeld.length < retryShare s n)

/-- Send data codewords while packets wait and the share has room (R617, R618). -/
def pumpN (n : Nat) : Nat → State → State
  | 0, s => s
  | k + 1, s =>
    let l := lportOf s n
    if (l.ll.txq.isEmpty && decide (l.ll.txFrame = 0)) || !mayTalk s n || !txRoom s n then s
    else pumpN n k (sendOne s n)

/-- Send what the port can send now. -/
def pump (s : State) (n : Nat) : State := pumpN n 400 s

/-- A host bridge sends a snoop to its host as a back-invalidate (R240). -/
def noteBi (s : State) (e : Nat) (inv : Bool) (p : Req) : State :=
  let b : BiSnoop := { bridge := e - 512, line := p.address.toNat / 64, inv := inv, home := p.src.toNat, tag := p.tag.toNat }
  { s with coh := { s.coh with biSnoops := s.coh.biSnoops ++ [b] } }

/-- The host physical address of a pool line at a bridge, where one of its decoders maps it. -/
def hpaOf (s : State) (bridge line : Nat) : Option Nat :=
  (s.coh.decoders.filter fun e => e.1 / 16 = bridge).findSome? fun e =>
    (natRange 0 e.2.sizeGib).findSome? fun i =>
      match pteOf s e.2.ast (e.2.vbase / GiB + i) with
      | some p => if p.page = line * 64 / GiB then some (e.2.base + i * GiB + line * 64 % GiB) else none
      | none => none

/-- A response reaches a host bridge: it goes to the host as R240 converts it. A request that failed is handed on with its status, for
which R240 names no CXL form (DESIGN CHOICE, log entry 152). -/
def bridgeResp (s : State) (bridge : Nat) (r : Resp) : State :=
  match s.coh.bridgeOps.find? fun o => o.bridge = bridge && o.tags.contains r.tag.toNat with
  | none => s
  | some o =>
    let o' : BridgeOp := { o with tags := o.tags.erase r.tag.toNat, status := if o.status = 0 then r.status.toNat else o.status }
    let rest := s.coh.bridgeOps.erase o
    if !o'.tags.isEmpty then { s with coh := { s.coh with bridgeOps := rest ++ [o'] } }
    else
      let s := { s with coh := { s.coh with bridgeOps := rest } }
      let grants := decide (0x40 ≤ r.reqOpcode.toNat ∧ r.reqOpcode.toNat ≤ 0x42)
      let reads := r.reqOpcode.toNat = opCode .load || r.reqOpcode.toNat = 0x40 || r.reqOpcode.toNat = 0x41 || r.isData
      let s := if reads then emit s (.cxl bridge (.memData o.hostTag r.data o'.status)) else s
      if grants then emit s (.cxl bridge (.cmp o.hostTag (if o'.status = 0 then r.result.toNat % 4 else 0) o'.status))
      else if reads then s else emit s (.cxl bridge (.cmp o.hostTag 0 o'.status))

/-- A snoop reaches a host bridge: it goes to the host as a back-invalidate (R240). -/
def bridgeSnoop (s : State) (e : Nat) (inv : Bool) (p : Req) : State :=
  let s := noteBi s e inv p
  match hpaOf s (e - 512) (p.address.toNat / 64) with
  | some a => emit s (.cxl (e - 512) (if inv then .biSnpInv a else .biSnpData a))
  | none => s

/-- A compute request, or its share for one of several regions, has crossed: it begins once all of them have (R43). -/
def landShare (s : State) (id : Nat) (o : Origin) (op : Op) (p : Req) (port : Nat) : State :=
  match s.fab.splits.find? fun x => x.shares.contains id with
  | none => { s with fab := { s.fab with landed := s.fab.landed ++ [(o, op, p, port)] } }
  | some x =>
    let rest := s.fab.splits.erase x
    let left := x.shares.filter (· ≠ id)
    if left.isEmpty then { s with fab := { s.fab with splits := rest, landed := s.fab.landed ++ [(x.origin, x.op, x.p, x.port)] } }
    else { s with fab := { s.fab with splits := rest ++ [{ x with shares := left }] } }

/-- A packet has crossed to its egress (R652): a link sends it, a host bridge takes it, a region's compute port has its blocks' work. -/
def deliver (s : State) (e : Nat) (q : QPkt) : State :=
  if e < 512 then
    let t : TxPkt := { id := q.id, pkt := q.pkt, total := q.pkt.flits, left := q.pkt.flits,
                       esc := q.esc && facesSwitch s e, inPort := q.inPort, inLport := q.inLport }
    pump (modLink s e fun l => { l with txq := l.txq ++ [t] }) e
  else if isBridge e then
    match q.pkt with
    | .req .snpInv p => bridgeSnoop s e true p
    | .req .snpShare p => bridgeSnoop s e false p
    | .req _ _ => s
    | .resp r => bridgeResp s (e - 512) r
  else match q.work with
    | some (o, op, p) => landShare s q.id o op p (e - 600)
    | none => match q.pkt with
      | .resp r => { s with fab := { s.fab with heard := s.fab.heard ++ [r] } }
      | _ => s

/-! ## Replay (R621, R622) -/

/-- a ≤ b among codeword numbers, modulo 4,096. -/
def cwBefore (a b : Nat) : Bool := decide ((b + 4096 - a) % 4096 < 2048)

/-- Send REPLAY and again every held data codeword from a number on: the count of replays in a row from that number. -/
def replayFrom (s : State) (n seq : Nat) : State :=
  let l := lportOf s n
  let again := l.ll.txHeld.dropWhile fun k => k ≠ seq
  let s := emit (emit (bump s (.link n 3)) (.control n (.replay seq))) (.resend n again)
  modLink s n fun ll => { ll with replayAt := seq, replays := if ll.replayAt = seq then ll.replays + 1 else 1,
                                  txSince := s.clk }

/-- NAK_LIMIT replays in a row began at the same number (R622). -/
def replaysOut (s : State) (n : Nat) : Bool := decide (regField s (rPortLink (portOf n)) 8 4 ≤ (lportOf s n).ll.replays)

/-- An acknowledgement covers held codewords up to a number (R618). -/
def ackTo (s : State) (n seq : Nat) : State :=
  modLink s n fun ll =>
    let gone := ll.txHeld.filter fun k => cwBefore k seq
    if gone.isEmpty then ll
    else { ll with txHeld := ll.txHeld.filter fun k => !gone.contains k, replays := 0, txSince := s.clk,
                   txPkts := ll.txPkts.filter fun x => !gone.contains x.1 }

/-- The STATUS flit that a port would send now (R612, R616, R619). -/
def statusFlit (l : Link) : Ctl := .status ((l.rxNext + 4095) % 4096) l.rxAny l.freed

/-- Send STATUS. -/
def sendStatus (s : State) (n : Nat) : State :=
  let l := lportOf s n
  modLink (emit s (.control n (statusFlit l.ll))) n fun ll => { ll with rxCount := 0, statusAt := s.clk }

end Sys2Proof.Machine
end

