-- ==== Sys2Proof/Machine/SchedCore.lean ====
section
/-! DEFINITION. Machine/SchedCore.lean: the switch core: virtual output queues, attachments, the central scheduler's matching,
admission to the shared area, and discards (15_switch_core.md R649 to R680; 18 R771, R772). -/
namespace Sys2Proof.Machine

/-! ## Attachments (R651) -/

/-- Attachments of a scheduler port per direction, less those retired (R651, R771). -/
def attachments (s : State) (p : Nat) : Nat :=
  (if p < 128 then 2 else if p < 144 then 3 else 1) - kget s.core.retiredAtt p 0

/-- Scheduler port of an egress. -/
def egressPort (e : Nat) : Nat := if e < 600 then schedPort e else e - 600

/-- A queued packet. -/
def pktOf (s : State) (id : Nat) : Option QPkt := s.core.voqs.find? fun q => q.id = id

/-- Take a packet out of the buffer, giving back the link credit that it holds (R660). -/
def takePkt (s : State) (q : QPkt) : State :=
  returnCredit (markBusy { s with core := { s.core with voqs := s.core.voqs.filter fun x => x.id ≠ q.id } }) q.inLport
    (channelOf q.tc q.esc) q.credit

/-- Egresses that a packet still needs (R676). -/
def egresses (q : QPkt) : List Nat := q.egress :: q.others

/-- What a packet is on an egress: of a multicast packet, its copy (R677). -/
def copyFor (q : QPkt) (e : Nat) : Packet := (kfind q.copies e).getD q.pkt

/-- Discard a packet, with the report of each copy that it still is (R680). -/
def discardPkt (s : State) (q : QPkt) (reason : Nat) : State :=
  (egresses q).foldl (fun s e => discardReport s (copyFor q e) reason) (takePkt s q)

/-- A packet is in progress across the crossbar (R652). -/
def crossing (q : QPkt) : Bool := decide (q.cells < q.total)

/-! ## What an egress sends (R586, R587) -/

/-- Offset of the first element of a payload (R987). -/
def elemStart : Op → Nat
  | .collContrib | .collPartial => 32
  | _ => 0

/-- The form of a packet on an egress: compressed toward a switch where that takes fewer flits, plain toward an endpoint or
a tray but for a COLL_DELIVER (R586, R587). -/
def egressForm (s : State) (e : Nat) (pkt : Packet) : Packet :=
  match pkt with
  | .resp _ => pkt
  | .req op p =>
    if facesSwitch s e then
      if compressible op p then
        let b := tallowBlocks (elemStart op) 0 p.payload (p.payload.length / 4096 + 2)
        let p' : Req := { p with flags := p.flags ||| 8, payload := b }
        if (Packet.req op p').size < pkt.size && decide (b.length ≤ 65536) then .req op p' else pkt
      else pkt
    else if flagTallow p && op ≠ .collDeliver then
      match tallowPayload p.length.toNat p.payload 4097 with
      | some b => .req op { p with flags := p.flags &&& 0xFFF7, payload := b }
      | none => pkt
    else pkt

/-- The form of a packet, or of its copy, on an egress. -/
def formAt (s : State) (q : QPkt) (e : Nat) : Packet := egressForm s e (copyFor q e)

/-! ## Heads (R610, R649, R653, R686) -/

/-- Two packets share a virtual output queue (R649). -/
def sameVoq (a b : QPkt) : Bool :=
  a.inPort = b.inPort && a.egress = b.egress && a.esc = b.esc && a.tc = b.tc

/-- In a virtual output queue: admitted, or on an escape channel (R660). -/
def inVoq (q : QPkt) : Bool := q.shared || q.esc

/-- The head of each virtual output queue. -/
def headsOf : List QPkt → List QPkt → List QPkt
  | _, [] => []
  | seen, q :: qs =>
    if !inVoq q || seen.any (sameVoq q) then headsOf seen qs else q :: headsOf (q :: seen) qs

/-- A packet has waited its class's promotion time (R653). -/
def promotedNow (s : State) (q : QPkt) : Bool :=
  q.promoted || decide (q.entered + regField s rSchedPromo (8 * q.tc) 8 * 50 ≤ s.clk)

/-- Transmission time of so many flits at a logical port, in ns: 1.28 ns a flit and lane (R604). -/
def wireNs (s : State) (e flits : Nat) : Nat := ceilDiv (flits * 128) (100 * max 1 (lanesUsed s e).length)

/-- The link of an egress can take the whole packet: it is ACTIVE and its channel holds the credit (R610, R669). -/
def linkTakes (s : State) (q : QPkt) (e : Nat) : Bool :=
  if e < 512 then
    mayTalk s e &&
    decide ((formAt s q e).flits ≤ creditHeld (lportOf s e).ll (wireChannel s q e)) &&
    (match (lportOf s e).gw with
     | some g => !gwPaused s g q.tc
     | none => true)
  else true

/-- The channel of a head has no credit for it (R610, R670). -/
def noCreditFor (s : State) (q : QPkt) (e : Nat) : Bool :=
  decide (e < 512) && decide (creditHeld (lportOf s e).ll (wireChannel s q e) < (formAt s q e).flits)

/-- The gate's answer for a head at an egress. -/
def gateSays (s : State) (q : QPkt) (e : Nat) : GateSays :=
  gateOf s e q.tc q.group (wireNs s e (formAt s q e).flits)

/-- A head may start on an egress now (R610, R664, R686). -/
def mayCross (s : State) (q : QPkt) (e : Nat) : Bool :=
  (!q.tail || q.cut) && linkTakes s q e && shaped s e q.tc (formAt s q e) && gateSays s q e ≠ .closed

/-! ## Matching (R654) -/

/-- A matching under way: attachments in use by scheduler port, ports withheld, and packets picked with their egresses. -/
structure Match where
  inUsed : List (Nat × Nat) := []
  egUsed : List (Nat × Nat) := []
  noIn : List Nat := []
  noEg : List Nat := []
  picks : List (Nat × List Nat) := []
deriving DecidableEq, Repr

/-- Free attachments of a port, within its port group's three (R651). -/
def freeAtt (s : State) (used : List (Nat × Nat)) (p : Nat) : Nat :=
  let own := attachments s p - kget used p 0
  if p < 128 then min own (3 - kget used (p / 2 * 2) 0 - kget used (p / 2 * 2 + 1) 0) else own

def freeIn (s : State) (m : Match) (p : Nat) : Nat := if m.noIn.contains p then 0 else freeAtt s m.inUsed p
def freeEg (s : State) (m : Match) (p : Nat) : Nat := if m.noEg.contains p then 0 else freeAtt s m.egUsed p

def useOne (l : List (Nat × Nat)) (p : Nat) : List (Nat × Nat) := kset l p (kget l p 0 + 1)

/-- Match a packet with egresses. -/
def takeMatch (m : Match) (q : QPkt) (es : List Nat) : Match :=
  { m with inUsed := useOne m.inUsed q.inPort, egUsed := es.foldl (fun l e => useOne l (egressPort e)) m.egUsed,
           picks := m.picks ++ [(q.id, es)] }

/-- Attachments that packets in progress hold (R652). -/
def heldMatch (s : State) : Match :=
  (s.core.voqs.filter crossing).foldl (fun m q =>
    let t := takeMatch m q q.taking
    { t with picks := m.picks }) {}

/-- Of egresses, those that have a free attachment when each takes one in turn (R651, R654). -/
def fitting (s : State) : Match → List Nat → List Nat
  | _, [] => []
  | m, e :: es =>
    if 0 < freeEg s m (egressPort e) then e :: fitting s { m with egUsed := useOne m.egUsed (egressPort e) } es
    else fitting s m es

/-- Egresses of a head that it may start on and that have a free attachment. -/
def reach (s : State) (m : Match) (q : QPkt) : List Nat := fitting s m ((egresses q).filter fun e => mayCross s q e)

/-- The promoted pass: heads oldest first by admission (R654). What it withholds it withholds from the iterations that follow. -/
def promotedPass (s : State) : List QPkt → Match → Match
  | [], m => m
  | q :: qs, m =>
    let ok := (egresses q).filter fun e => mayCross s q e
    if ok.isEmpty then promotedPass s qs m
    else
      let es := reach s { m with noEg := [] } q
      if decide (0 < freeAtt s m.inUsed q.inPort) && !es.isEmpty then promotedPass s qs (takeMatch m q es)
      else promotedPass s qs { m with noIn := m.noIn ++ [q.inPort], noEg := m.noEg ++ ok.map egressPort }

/-- The element of least key. -/
def minBy {α : Type} (key : α → Nat) : List α → Option α
  | [] => none
  | a :: l => match minBy key l with
    | none => some a
    | some b => if key a ≤ key b then some a else some b

/-- The n elements of least key, in order. -/
def takeLeast {α : Type} [DecidableEq α] (key : α → Nat) : Nat → List α → List α
  | 0, _ => []
  | n + 1, l => match minBy key l with
    | none => []
    | some a => a :: takeLeast key n (l.erase a)

/-- Distance of a port from a rotating pointer. -/
def turn (ptr p : Nat) : Nat := (p + 149 - ptr % 149) % 149

/-- Key of a grant: priority groups, then the earliest channel, the ingress at or after the pointer, the lowest class. -/
def grantKey (s : State) (pe : Nat) (c : QPkt × Nat) : Nat :=
  let rank := if gateFirst s c.2 c.1.tc c.1.group then (if 3 ≤ c.1.tc then 0 else 1) else 1
  let first := if decide (c.1.tc < 3) then 0 else rank
  ((first * 16 + channelOf c.1.tc c.1.esc) * 149 + turn (kget s.core.grantPtr pe 0) c.1.inPort) * 8 + c.1.tc

/-- Key of an accept. -/
def acceptKey (s : State) (c : QPkt × Nat) : Nat :=
  (channelOf c.1.tc c.1.esc * 149 + turn (kget s.core.acceptPtr c.1.inPort 0) (egressPort c.2)) * 8 + c.1.tc

/-- Packets of a list of grants, each once, in the order of their best grant. -/
def grantPkts (l : List (QPkt × Nat)) : List QPkt := (l.map (·.1)).eraseDups

/-- The accept of one ingress: packets up to its free attachments, each with every egress that granted it (R676). -/
def acceptOne (s : State) (grants : List (QPkt × Nat)) (m : Match) (pi : Nat) : Match :=
  let mine := grants.filter fun g => g.1.inPort = pi
  let order := takeLeast (acceptKey s) mine.length mine
  ((grantPkts order).take (freeIn s m pi)).foldl (fun m q =>
    takeMatch m q ((order.filter fun g => g.1.id = q.id).map (·.2))) m

/-- The grants of egress ports in turn: each up to its free attachments, those that a port of its group has just granted being taken
(R651). -/
def grantAll (s : State) (reqs : List (QPkt × Nat)) : Match → List Nat → List (QPkt × Nat)
  | _, [] => []
  | m, pe :: pes =>
    let g := takeLeast (grantKey s pe) (freeEg s m pe) (reqs.filter fun r => egressPort r.2 = pe)
    g ++ grantAll s reqs { m with egUsed := g.foldl (fun l _ => useOne l pe) m.egUsed } pes

/-- One iteration of request, grant and accept. -/
def iterate (s : State) (heads : List QPkt) (m : Match) : Match :=
  let reqs := (heads.filter fun q => decide (0 < freeIn s m q.inPort) && !m.picks.any fun p => p.1 = q.id).flatMap
    fun q => (reach s m q).map fun e => (q, e)
  let pes := (reqs.map fun r => egressPort r.2).eraseDups
  let grants := grantAll s reqs m pes
  let pis := (grants.map fun g => g.1.inPort).eraseDups
  pis.foldl (acceptOne s grants) m

/-- The pointers after the first iteration: one place past the port last granted or accepted (R654). -/
def movePtrs (s : State) (new : List (Nat × List Nat)) : State :=
  new.foldl (fun s p => match pktOf s p.1 with
    | none => s
    | some q => p.2.foldl (fun s e =>
        { s with core := { s.core with
          grantPtr := kset s.core.grantPtr (egressPort e) ((q.inPort + 1) % 149),
          acceptPtr := kset s.core.acceptPtr q.inPort ((egressPort e + 1) % 149) } }) s) s

/-- The whole matching of a cell time: the packets to start, and the state with its pointers moved. -/
def matchAll (s : State) : State × List (Nat × List Nat) :=
  let heads := (headsOf [] s.core.voqs).filter fun q => !crossing q
  let old := heads.filter (promotedNow s)
  let new := heads.filter fun q => !promotedNow s q
  let m0 := promotedPass s (takeLeast (fun q => q.admitted) old.length old) (heldMatch s)
  let m1 := iterate s new m0
  let s := movePtrs s (m1.picks.drop m0.picks.length)
  (s, (iterate s new (iterate s new (iterate s new m1))).picks)

/-! ## Moving cells (R650, R652, R676) -/

/-- ns that a head waited are counted when it starts (R723). -/
def waited (s : State) (q : QPkt) : State :=
  let add := fun (s : State) (c : Ctr) (t : Option Time) => match t with
    | some t => bumpBy s c 48 (s.clk - t)
    | none => s
  add (add s .shaperWaitNs q.shapeSince) .gateWaitNs q.gateSince

/-- A packet starts on its egresses: shapers and credit are charged, its egress form is fixed, Lantern sees it leave. -/
def startPkt (s : State) (q : QPkt) (es : List Nat) : State :=
  let s := waited s q
  let form := formAt s q (es.headD q.egress)
  let flits := (es.map fun e => (formAt s q e).flits).foldl Nat.max 0
  let s := es.foldl (fun s e =>
    let pkt := formAt s q e
    let s := if gateSays s q e = .overrun then bump s .gateOverruns else s
    let s := debit s e q.tc pkt.flits pkt
    if e < 512 then
      let c := wireChannel s q e
      capture (modLink s e fun l => { l with sent := l.sent.set c ((l.sent.getD c 0 + pkt.flits) % 65536) }) e 1 pkt
    else capture s 0x1FF 1 pkt) s
  modPkt s q.id fun q => { q with cells := flits, total := flits, taking := es, shapeSince := none,
                                  gateSince := none, noCredit := none,
                                  pkt := if q.others.isEmpty then form else q.pkt }

/-- A packet has crossed to the egresses that took it; others receive it in a later pass (R676). -/
def crossed (s : State) (q : QPkt) : State :=
  let rest := (egresses q).filter fun e => !q.taking.contains e
  let s := match rest with
    | [] => takePkt s q
    | e :: es => modPkt s q.id fun q => { q with egress := e, others := es, taking := [], cells := q.total, pkt := copyFor q e }
  q.taking.foldl (fun s e => deliver s e { q with pkt := formAt s q e }) s

/-- Move a cell's flits of a virtual output queue (R650): four flits, from as many packets as they reach. -/
def moveCell : Nat → State → Nat → Nat → State
  | 0, s, _, _ => s
  | fuel + 1, s, id, n =>
    match pktOf s id with
    | none => s
    | some q =>
      if n < q.cells then modPkt s id fun q => { q with cells := q.cells - n }
      else
        let spare := n - q.cells
        let t := crossed s q
        if spare = 0 then t
        else match (headsOf [] t.core.voqs).find? fun h => sameVoq h q && !crossing h && h.others.isEmpty with
          | some h => if q.others.isEmpty && mayCross t h h.egress then
              moveCell fuel (startPkt t h [h.egress]) h.id spare
            else t
          | none => t

/-- Note what holds back each head: link credit (R670), a shaper or a gate (R723). -/
def noteWaits (s : State) : State :=
  (headsOf [] s.core.voqs).foldl (fun s q =>
    if crossing q then s
    else
      let credit := !noCreditFor s q q.egress
      let sh := shaped s q.egress q.tc (formAt s q q.egress)
      let gate := gateSays s q q.egress = .closed
      modPkt s q.id fun q => { q with
        noCredit := if credit then none else some (q.noCredit.getD s.clk)
        shapeSince := if sh then q.shapeSince else some (q.shapeSince.getD s.clk)
        gateSince := if gate then some (q.gateSince.getD s.clk) else q.gateSince }) s

/-- The next cell time: the clock stands at it (R46). -/
def nextCell (s : State) : State :=
  let n := max (s.core.lastCell + 1) (ceilDiv (s.clk * 100) 128)
  let s := untilTime s (n * 128 / 100)
  { s with core := { s.core with lastCell := n } }

/-- One cell time without faults (R654). -/
def cellTime (s : State) : State :=
  let going := (s.core.voqs.filter crossing).map (·.id)
  let (s, picks) := matchAll (noteWaits s)
  let s := picks.foldl (fun s p => match pktOf s p.1 with
    | some q => startPkt s q p.2
    | none => s) s
  (going ++ picks.map (·.1)).foldl (fun s id => moveCell 5 s id 4) s

/-! ## The shared area and other events of the buffer -/

/-- Admit a packet that waits in its credit reserve, behind none of its own channel (R660): it joins the end of its queue. -/
def admitPkt (s : State) (id : Nat) : State :=
  match pktOf s id with
  | none => s
  | some q =>
    let earlier := (s.core.voqs.takeWhile fun x => x.id ≠ id).any fun x =>
      !inVoq x && x.inLport = q.inLport && channelOf x.tc x.esc = channelOf q.tc q.esc
    if inVoq q || earlier || !sharedRoom s q then s
    else
      let s := returnCredit s q.inLport (channelOf q.tc q.esc) q.credit
      let v := (s.core.voqs.filter fun x => x.id ≠ id) ++
        [{ q with shared := true, admitted := s.clk, credit := 0 }]
      { s with core := { s.core with voqs := v } }

/-- A packet's age limit in ns (R678). -/
def ageLimit (s : State) (tc : Nat) : Nat := regField s rAge (16 * tc) 16 * 10000

/-- Escape channels hold nothing (R820). -/
def escDrained (s : State) : Bool := !(s.core.voqs.any fun q => q.esc)

/-- The packet of a multicast packet's copy for one egress, taken from it: the number of the packet that stands for that copy alone (R676). -/
def aloneFor (s : State) (q : QPkt) (e : Nat) : State × Nat :=
  match (egresses q).filter (· ≠ e) with
  | [] => (s, q.id)
  | f :: fs =>
    let s := modPkt s q.id fun q =>
      let t := q.taking.filter (· ≠ e)
      { q with egress := f, others := fs, taking := t, cells := if t.isEmpty then q.total else q.cells, pkt := copyFor q f }
    let c : QPkt := { q with id := s.nextId, egress := e, others := [], copies := [], taking := [], cells := q.total, pkt := copyFor q e, credit := 0 }
    ({ s with core := { s.core with voqs := s.core.voqs ++ [c] }, nextId := s.nextId + 1 }, s.nextId)

/-- Send a packet of the buffer on its escape channel (R670): none where it has no escape hop that can be used. -/
def toEscape (s : State) (q : QPkt) : Option State :=
  match kfind s.core.routes q.pkt.dstOf with
  | none => none
  | some r => (escUsable s r).map fun l =>
      modPkt s q.id fun q => { q with egress := l, esc := facesSwitch s l, shared := !facesSwitch s l, admitted := s.clk,
                                      cells := q.total, taking := [], noCredit := none }

end Sys2Proof.Machine
end

