-- ==== Sys2Proof/Machine/TimeCore.lean ====
section
/-! DEFINITION. Machine/TimeCore.lean: the keeping of fabric time (16_shaping_time.md R709 to R721). -/
namespace Sys2Proof.Machine

/-- Change the time keeping. -/
def modTk (s : State) (f : TimeKeep → TimeKeep) : State := { s with tk := f s.tk }

/-- TIME_STATUS.STATE codes (R718). -/
def TimeState.code : TimeState → Nat
  | .unset => 0 | .acquiring => 1 | .locked => 2 | .holdover => 3

/-- Loss of lock is reported with the new state and the last offset (R718, R984). -/
def reportLost (s : State) : State :=
  let port := if s.tk.onBackup then s.tk.backup else s.tk.upstream
  report s 0x10 (selfNode s) (port.getD noLport)
    (s.tk.st.code + 2 ^ 32 * (BitVec.ofInt 32 (max (-32767) (min 32767 s.tk.offset))).toNat)

/-- The switch is a follower. -/
def follows (s : State) : Bool := s.tk.source.isNone

/-- The port followed. -/
def followed (s : State) : Option Nat := if s.tk.onBackup then s.tk.backup else s.tk.upstream

/-- A port whose partner can give time: its link is up and the partner is LOCKED (R718). -/
def givesTime (s : State) (n : Nat) : Bool :=
  linkUp (lportOf s n).link &&
  (match (kget s.tk.exch n {}).peer with
   | some (st, _) => st = 2
   | none => false)

/-- The followed port or the root's reference is lost (R718): the backup, or HOLDOVER. -/
def timeLost (s : State) : State :=
  if s.tk.st ≠ .acquiring && s.tk.st ≠ .locked then s
  else
    let other := if s.tk.onBackup then s.tk.upstream else s.tk.backup
    match (if follows s then other else none).filter (givesTime s) with
    | some _ =>
      bump (modTk s fun t => { t with onBackup := !t.onBackup, st := .acquiring, inRow := 0, outRow := 0 }) .upstreamChanges
    | none => reportLost (modTk s fun t => { t with st := .holdover, inRow := 0, outRow := 0, slew := 0 })

/-- A logical port went down: time is lost where it was the port followed, or the slave port of a root (R711, R718). -/
def timePortLost (s : State) (n : Nat) : State :=
  if (follows s && followed s = some n) || s.tk.source = some (.ptp n) then timeLost s else s

/-- Fabric time steps, which it does only before it was first LOCKED (R719); otherwise it slews. -/
def correct (s : State) (offset : Int) (step : Bool) : State :=
  if step && !s.tk.everLocked then
    bump { s with ftime := s.ftime - BitVec.ofInt 64 offset } .timeSteps
  else modTk s fun t => { t with slew := -offset }

/-- The root's reference is valid (R711, R718). -/
def refValid (s : State) : Bool :=
  match s.tk.source with
  | some .free => true
  | some .pps => s.tk.ppsOk && s.tk.t10mOk
  | some (.ptp n) => (lportOf s n).link = .active
  | none => false

/-- A root whose reference is valid locks (R718). -/
def rootLock (s : State) : State :=
  if !follows s && s.tk.st = .acquiring && refValid s then
    note (modTk s fun t => { t with st := .locked, everLocked := true }) "TIME_LOCK" []
  else s

/-- An exchange with the followed port has given an offset (R716, R718); `up` says that its partner is LOCKED. -/
def tookOffset (s : State) (offset : Int) (up : Bool) (depth : Nat) : State :=
  let s := modTk s fun t => { t with offset := offset, depth := depth + 1 }
  match s.tk.st with
  | .unset =>
    if up then modTk (correct s offset true) fun t => { t with st := .acquiring, inRow := 0, outRow := 0 } else s
  | .acquiring =>
    if !up then timeLost s
    else
      let near := decide (offset.natAbs ≤ 4)
      let s := modTk s fun t => { t with inRow := if near then t.inRow + 1 else 0 }
      if 16 ≤ s.tk.inRow then
        note (modTk s fun t => { t with st := .locked, everLocked := true, outRow := 0 }) "TIME_LOCK" []
      else correct s offset (decide (1000 < offset.natAbs))
  | .locked =>
    if !up then timeLost s
    else
      let far := decide (20 < offset.natAbs)
      let s := modTk s fun t => { t with outRow := if far then t.outRow + 1 else 0 }
      if 16 ≤ s.tk.outRow then
        reportLost (modTk (correct s offset false) fun t => { t with st := .acquiring, inRow := 0, outRow := 0 })
      else correct s offset false
  | .holdover =>
    if up then modTk (correct s offset false) fun t => { t with st := .acquiring, inRow := 0, outRow := 0 } else s

/-- Asymmetry of the port followed, in ns (R716, R721). -/
def asymNs (s : State) : Int :=
  (BitVec.ofNat 16 (regField s rTimeCfg (if s.tk.onBackup then 48 else 32) 16)).toInt

/-- Signed difference of two fabric times. -/
def timeDiff (a b : Nat) : Int := (BitVec.ofNat 64 a - BitVec.ofNat 64 b).toInt

/-- Half of a difference, toward zero. -/
def halfOf (x : Int) : Int := if 0 ≤ x then x / 2 else -((-x) / 2)

/-- In HOLDOVER the port that is not followed gives time: the switch follows it (R718). -/
def otherUsable (s : State) (n : Nat) : Bool :=
  s.tk.st = .holdover && (if s.tk.onBackup then s.tk.upstream else s.tk.backup) = some n && givesTime s n

/-- A TIME_FOLLOW arrives on a port (R715, R716): the partner's state is kept, and a follower whose two exchanges match has an
offset; the port followed is lost where its partner is not LOCKED (R718). -/
def timeFollow (s : State) (n tTx seqTx seqRx st depth tRx : Nat) : State :=
  let x := kget s.tk.exch n {}
  let s := modTk s fun t => { t with exch := kset t.exch n { x with peer := some (st, depth) } }
  if !follows s then s
  else if followed s ≠ some n then
    if otherUsable s n then
      bump (modTk s fun t => { t with onBackup := !t.onBackup, st := .acquiring, inRow := 0, outRow := 0 }) .upstreamChanges
    else s
  else match x.got, x.sent with
    | some (a, t2), some (b, t3) =>
      if a = seqTx && b = seqRx then
        tookOffset s (halfOf (timeDiff t2 tTx - timeDiff tRx t3) - asymNs s) (st = 2) depth
      else if st = 2 then s else timeLost s
    | _, _ => if st = 2 then s else timeLost s

/-- A TIME_SYNC leaves or arrives: its time is kept (R714). -/
def syncSent (s : State) (n : Nat) : State :=
  let x := kget s.tk.exch n {}
  modTk s fun t => { t with exch := kset t.exch n { x with sent := some (x.txSeq, s.ftime.toNat),
                                                           txSeq := (x.txSeq + 1) % 65536 } }

def syncGot (s : State) (n seq : Nat) : State :=
  modTk s fun t => { t with exch := kset t.exch n { kget t.exch n {} with got := some (seq, s.ftime.toNat) } }

/-- The TIME_FOLLOW payload of a port (R715). -/
def followPayload (s : State) (n : Nat) : List Byte :=
  let x := kget s.tk.exch n {}
  let sent := x.sent.getD (0, 0)
  let got := x.got.getD (0, 0)
  leBytes 8 sent.2 ++ leBytes 2 sent.1 ++ leBytes 2 got.1 ++ leBytes 4 (s.tk.st.code + 8 * min 5 s.tk.depth) ++
  leBytes 8 got.2 ++ leBytes 8 0

end Sys2Proof.Machine
end

