-- ==== Sys2Proof/Machine/LamCore.lean ====
section
/-! DEFINITION. Machine/LamCore.lean: Lamplighter: meeting neighbours, withdrawing and restoring routes
(19_fabric_management.md R803 to R810, R821 to R825), and the loss of a link (14_link_layer.md R630). -/
namespace Sys2Proof.Machine

/-- Live cores of the Wick (R786). -/
def liveCores (s : State) : Nat := (s.ras.cores.filter (·.live)).length

/-- A Wick decision can be taken: at least two live cores propose it (R785). -/
def wickDecides (s : State) : Bool := decide (2 ≤ liveCores s)

/-! ## Routes lost and restored (R821 to R825) -/

/-- A route has a valid hop or a valid escape hop, or is local. -/
def Route.valid (r : Route) : Bool := r.local_ || r.esc.isSome || r.hops.any (·.isSome)

/-- Hops of an entry that name a logical port; 4 is the escape hop. -/
def Route.naming (r : Route) (lport : Nat) : List Nat :=
  ((natRange 0 4).filter fun i => r.hops.getD i none = some lport) ++ (if r.esc = some lport then [4] else [])

/-- An entry without the hops that name a logical port. -/
def Route.without (r : Route) (lport : Nat) : Route :=
  { r with hops := r.hops.map fun h => if h = some lport then none else h, esc := if r.esc = some lport then none else r.esc }

/-- Clear the hops of some destinations that name a logical port (R821, R822): the destinations left without a route. -/
def clearHops (s : State) (lport : Nat) (which : Nat → Bool) : State × List Nat :=
  let hit := s.core.routes.filter fun e => which e.1 && !e.2.local_ && !(e.2.naming lport).isEmpty
  let gone := (hit.filter fun e => !(e.2.without lport).valid).map (·.1)
  let marks := hit.flatMap fun e => (e.2.naming lport).map fun i => ({ dst := e.1, hop := i, lport := lport } : Cleared)
  let routes := s.core.routes.map fun e =>
    if which e.1 && !e.2.local_ then (e.1, e.2.without lport) else e
  ({ s with core := { s.core with routes := routes },
            fm := { s.fm with cleared := s.fm.cleared ++ marks.filter fun m => !s.fm.cleared.contains m } }, gone)

/-- Ranges of a rising list of destinations: first and number. -/
def rangesOf : List Nat → List (Nat × Nat)
  | [] => []
  | d :: ds =>
    match rangesOf ds with
    | (f, n) :: r => if f = d + 1 then (d, n + 1) :: r else (d, 1) :: (f, n) :: r
    | [] => [(d, 1)]

/-- Payloads of ROUTE_WITHDRAW or ROUTE_RESTORE for ranges, at most 16,382 in each (R823). -/
def routePayloads (reset : Bool) : Nat → List (Nat × Nat) → List (List Byte)
  | 0, _ => []
  | k + 1, rs =>
    if rs.isEmpty then []
    else
      let now := rs.take 16382
      (leBytes 8 (now.length + (if reset then 2 ^ 16 else 0)) ++ now.flatMap fun r => leBytes 4 (r.1 + 2 ^ 16 * r.2)) ::
        routePayloads reset k (rs.drop 16382)

/-- Switch-facing logical ports in KNOWN, but for one. -/
def knownSwitches (s : State) (but : Nat) : List Nat :=
  (s.lports.filter fun e => decide (e.1 < 512) && e.1 ≠ but && e.2.disc = .known && e.2.role = some .switch).map (·.1)

/-- Send route messages for destinations on every switch-facing port in KNOWN but for one. -/
def spread (s : State) (code : Nat) (reset : Bool) (dsts : List Nat) (but : Nat) : State :=
  let pls := routePayloads reset (dsts.length + 1) (rangesOf dsts)
  (knownSwitches s but).foldl (fun s n => pls.foldl (fun s pl => sendLink s code n pl) s) s

/-- Outstanding requests to destinations that have no route any more, or are in reset, are unanswered (R681, R825). -/
def requestsLost (s : State) (gone : Nat → Bool) : State :=
  (s.ing.outs.filter fun e => e.2.phase ≠ .unanswered &&
    e.2.parts.any fun p => gone p.home && p.sent && !p.done && p.home ≠ selfNode s).foldl
    (fun s e => markUnanswered s e.1 5) s

/-- Nodes that engines have to do with. -/
def engineNodes (s : State) : List Nat :=
  ((s.fab.uses.filterMap fun e => match e.2 with
      | .relay _ n => some n
      | _ => none) ++
    (s.fab.jobs.flatMap fun e => e.2.parts.map (·.host)) ++ (s.fab.ctxs.flatMap fun e => hostsOf e.2.desc e.2.tree) ++
    (s.fab.services.flatMap fun e => e.2.entries.map (·.2.owner))).eraseDups

/-- What engines do when destinations have no route any more (R424, R517, R561); a request with a part there is unanswered (R825). -/
def enginesLost (s : State) (gone : List Nat) : State :=
  let s := ((engineNodes s).filter gone.contains).foldl nodeLost s
  let lost := s.fab.jobs.filterMap fun e => match e.2.dest with
    | .origin (.here id _) _ => if e.2.parts.any fun x => gone.contains x.host && x.sent && x.status.isNone then some id else none
    | _ => none
  lost.foldl (fun s id => markUnanswered s id 5) s

/-- Withdraw a lost logical port's hops (R821): a Wick decision (R785). -/
def withdraw (s : State) (lport : Nat) : State :=
  if !wickDecides s then s
  else
    let (s, gone) := clearHops s lport fun _ => true
    let s := report s 0x04 noNode lport gone.length
    let s := if gone.isEmpty then s else spread s 0x85 false gone noLport
    enginesLost (requestsLost s gone.contains) gone

/-- A message names destinations and came from a logical port: hops back to the sender go, and what this leaves without a
route is withdrawn in turn (R822, R825). -/
def withdrawFrom (s : State) (lport : Nat) (dsts : List (Nat × Nat)) : State × List Nat :=
  if !wickDecides s then (s, [])
  else
    let named := fun d => dsts.any fun r => decide (r.1 ≤ d ∧ d < r.1 + r.2)
    let (s, gone) := clearHops s lport named
    (enginesLost (requestsLost s gone.contains) gone, gone)

/-- Put cleared hops of some entries on a port back (R824): the destinations that regain a route. -/
def restoreHops (s : State) (lport : Nat) (which : Nat → Bool) : State × List Nat :=
  let mine := s.fm.cleared.filter fun m => m.lport = lport && which m.dst
  let back := fun (d : Nat) (r : Route) =>
    (mine.filter fun m => m.dst = d).foldl (fun r m =>
      if m.hop = 4 then { r with esc := some lport } else { r with hops := r.hops.set m.hop (some lport) }) r
  let regained := (s.core.routes.filter fun e => !e.2.valid && (back e.1 e.2).valid).map (·.1)
  ({ s with core := { s.core with routes := s.core.routes.map fun e => (e.1, back e.1 e.2) },
            fm := { s.fm with cleared := s.fm.cleared.filter fun m => !mine.contains m } }, regained)

/-! ## Hello (R806, R807) -/

/-- The Device ID of PF0 (R8, R828). -/
def deviceId : Part → Nat
  | .olm9648A0 | .olm9648B0 => 0x9648
  | .olm9664A0 | .olm9664B0 => 0x9664

/-- The Revision ID of PF0 (R8). -/
def revisionId : Part → Nat
  | .olm9648A0 | .olm9664A0 => 0x00
  | .olm9648B0 | .olm9664B0 => 0x10

/-- The VF Device ID in PF0's SR-IOV capability (R828). -/
def vfDeviceId : Part → Nat
  | .olm9648A0 | .olm9648B0 => 0x9649
  | .olm9664A0 | .olm9664B0 => 0x9665

/-- The configuration-space fields of PF0 that R828 names. -/
inductive CfgField where
  | vendorId | subsystemVendorId | deviceId | revisionId | subsystemId | classCode | headerType | interruptPin
  | bar01Bytes | bar2to5Bytes | romBytes | totalVfs | initialVfs | firstVfOffset | vfStride | vfDeviceId | vfBar01Bytes
  | pageBytes
deriving DecidableEq, Repr

/-- What PF0's configuration space reports (R8, R828); a BAR that is not implemented has no bytes. -/
def cfgValue (part : Part) : CfgField → Nat
  | .vendorId | .subsystemVendorId => 0x1F7A
  | .deviceId => Machine.deviceId part
  | .revisionId => Machine.revisionId part
  | .subsystemId | .headerType | .interruptPin | .bar2to5Bytes | .romBytes => 0
  | .classCode => 0x120000
  | .bar01Bytes => 4 * MiB
  | .totalVfs | .initialVfs => 1024
  | .firstVfOffset | .vfStride => 1
  | .vfDeviceId => Machine.vfDeviceId part
  | .vfBar01Bytes => 64 * KiB
  | .pageBytes => 4 * KiB

/-- The routing ID of VF v: PF0's plus v (R828, R830). -/
def vfRoutingId (part : Part) (pf0 v : Nat) : Nat :=
  pf0 + cfgValue part .firstVfOffset + (v - 1) * cfgValue part .vfStride

/-- The LL_HELLO payload on a port (R807), whose NONCE the port keeps. -/
def helloPayload (s : State) (n : Nat) (nonce : List Byte) : List Byte :=
  leBytes 2 (2 ^ 8 * 1) ++ leBytes 2 (deviceId s.part) ++ leBytes 2 (selfNode s) ++
  leBytes 2 ((lportOf s n).node.getD noNode) ++ leBytes 4 n ++ leBytes 4 0 ++ leBytes 8 s.fm.serial ++
  leBytes 8 s.fm.bootId ++ leBytes 8 0 ++ leBytes 8 0 ++ leBytes 4 (ownChain s).length ++ leBytes 12 0 ++
  sliceBytes nonce 0 32

/-- Send LL_HELLO on a port again, with the NONCE that its partner may have signed. -/
def resendHello (s : State) (n : Nat) : State := sendLink s 0x80 n (helloPayload s n (lportOf s n).nonce)

/-- Send LL_HELLO on a port with a fresh NONCE. -/
def sendHello (s : State) (n : Nat) : State :=
  let nonce := freeBytes s.freeCtr 32
  let s := modLport (bumpFree s) n fun l => { l with nonce := nonce }
  sendLink s 0x80 n (helloPayload s n nonce)

/-- Send LL_HELLO again on every port that has met its partner: a node number changed (R807). -/
def helloAgain (s : State) : State :=
  (s.lports.filter fun e => decide (e.1 < 512) && e.2.disc ≠ .none && linkUp e.2.link).foldl (fun s e =>
    if e.2.disc = .known then sendHello s e.1 else resendHello s e.1) s

/-- A logical port leaves ACTIVE, RETRAIN and LOW_POWER: its neighbour is gone (R806, R821). -/
def discGone (s : State) (n : Nat) : State :=
  let l := lportOf s n
  let s := report s 0x02 ((l.partner.map (·.node)).getD noNode) n 0
  let s := modLport s n fun l => { l with
    disc := .none, discSince := s.clk, helloLate := false, partner := none, cert := [], wasDown := true,
    before := match l.partner with
      | some p => if l.disc = .known then some (p.serial, l.node.getD p.node) else l.before
      | none => l.before }
  withdraw s n

/-! ## Loss of a link (R630) -/

/-- Take a link state. -/
def setLink (s : State) (n : Nat) (st : LinkState) : State :=
  modLport s n fun l => { l with link := st, entered := s.clk }

/-- A code that R630's discards carry in their reports, which the manual leaves open among 0 to 4 (R805). -/
def openReason (s : State) : Nat := Config.freeNat s.freeCtr % 5

/-- Send a packet that its port lost on its escape path, or discard it (R630, R670, R672, R682). -/
def reroute (s : State) (q : QPkt) : State :=
  match toEscape s q with
  | some t => bump t .rerouted
  | none => bump (discardPkt s q 1) .noRouteDiscards

/-- Everything that R630 does to packets and counters of a logical port whose link is lost. -/
def dropLink (s : State) (n : Nat) : State :=
  let l := lportOf s n
  let unacked := (l.ll.txPkts.map fun x => (x.2.1, x.2.2)).eraseDups
  let waiting := l.ll.txq.filter fun t => t.left = t.total
  let inner := s.core.voqs.filter fun q => (egresses q).contains n
  let partly := s.core.voqs.filter fun q => q.inLport = n && q.tail && !crossing q
  let s := modLport s n fun l => { l with ll := { adv := l.ll.adv } }
  let s := { s with ing := { s.ing with owed := s.ing.owed.filter fun o => o.p.lport ≠ n } }
  let s := partly.foldl (fun s q => discardPkt (bumpFree s) q (openReason s)) s
  let s := unacked.foldl (fun s x => discardReport (bumpFree (bump s (.link n 7))) x.2 (openReason s)) s
  let s := inner.foldl (fun s q => match pktOf s q.id with
    | some q =>
      let r := aloneFor s q n
      match pktOf r.1 r.2 with
      | some q => reroute r.1 q
      | none => s
    | none => s) s
  waiting.foldl (fun s t =>
    let s := pushVoq s t.inPort t.inLport n false t.pkt []
    match s.core.voqs.getLast? with
    | some q => reroute s q
    | none => s) s

/-- PORT.RETRAIN commands that wait on a port complete (R982). -/
def retrainEnds (s : State) (n status : Nat) : State :=
  let rs := (lportOf s n).retrainBy
  completeAll (modLport s n fun l => { l with retrainBy := [] }) rs status

/-- A packet that crosses on from a port whose partner is lost in its middle takes its egress down too (R666). -/
def cutFrom (s : State) (n : Nat) : Option QPkt :=
  s.core.voqs.find? fun q => q.inLport = n && q.tail && crossing q

/-- Take a logical port out of its link states to another state: R630 where it was up. -/
def leaveUp : Nat → State → Nat → LinkState → State
  | 0, s, n, dest => setLink s n dest
  | fuel + 1, s, n, dest =>
    let l := lportOf s n
    let cut := cutFrom s n
    let up := linkUp l.link
    let s := setLink s n dest
    let s := modLport s n fun l => { l with lanesCut := none }
    let s := if up then dropLink s n else modLink s n fun ll => { adv := ll.adv }
    let s := if up then timePortLost (discGone s n) n else s
    let s := retrainEnds s n stRetry
    match cut with
    | some q =>
      let s := discardPkt (bumpFree s) q (openReason s)
      leaveUp fuel (bump s .ctAborts) q.egress .down
    | none => s

/-- Take a logical port down. -/
def goDown (s : State) (n : Nat) : State := leaveUp 8 s n .down

/-- The partner is lost (R629, R630). -/
def partnerLost (s : State) (n : Nat) : State := goDown (penal (bump s (.link n 6)) n 50) n

end Sys2Proof.Machine
end

