-- ==== Sys2Proof/Machine/LinkCore.lean ====
section
/-! DEFINITION. Machine/LinkCore.lean: training, lanes, the receiver and violations of a logical port (14_link_layer.md R603 to
R639). -/
namespace Sys2Proof.Machine

/-! ## Quarantine (R638) -/

/-- Violations of a port within its window. -/
def violations (s : State) (n : Nat) : Nat :=
  ((lportOf s n).viol.filter fun t => decide (s.clk < t + regField s (rPortLink (portOf n)) 48 14 * msNs)).length

/-- Take a logical port to QUARANTINED: counted and reported. -/
def quarantine (s : State) (n : Nat) : State :=
  let k := violations s n
  let node := ((lportOf s n).partner.map (·.node)).getD noNode
  let s := penal (bump s (.link n 9)) n 300
  let s := leaveUp 8 s n .quarantined
  report (modLport s n fun l => { l with viol := [] }) 0x07 node n k

/-- A port whose violations reach the threshold is quarantined. -/
def quarOne (s : State) (n : Nat) : State :=
  let l := lportOf s n
  if decide (n < 512) && l.link ≠ .disabled && l.link ≠ .quarantined &&
      regField s (rPortLink (portOf n)) 62 1 = 1 &&
      decide (regField s (rPortLink (portOf n)) 32 16 ≤ violations s n) then quarantine s n
  else s

/-- Every port that a violation may have brought to its threshold. -/
def checkQuar (s : State) (_lport : Nat) : State :=
  ((s.lports.filter fun e => !e.2.viol.isEmpty).map (·.1)).foldl quarOne s

/-! ## Halt (R781) -/

/-- The switch halts: lanes and host bridge links go idle, the cause is kept, logged and reported. -/
def haltSwitch (s : State) (cause : Nat) : State :=
  if s.ras.halt ≠ 0 then s
  else
    let s := (s.lports.filter fun e => decide (e.1 < 512) && e.2.link ≠ .disabled).foldl
      (fun s e => leaveUp 1 s e.1 .down) s
    let s := bridgesDown { s with ras := { s.ras with halt := cause } }
    let s := healthLog s 7 0 0 0 (leBytes 23 0 ++ [BitVec.ofNat 8 cause])
    report s 0x0C (selfNode s) noLport cause

/-! ## Retraining and lanes (R622, R632, R633) -/

/-- Take an ACTIVE logical port to RETRAIN (R626). -/
def toRetrain (s : State) (n : Nat) : State :=
  if (lportOf s n).link = .active then penal (bump (setLink s n .retrain) (.link n 4)) n 20
  else s

/-- LANE_FAILED of a port. -/
def lanesFailed (s : State) (p : Nat) : Nat := regField s (rPortStatus p) 16 4

/-- Mark lanes of a port failed, or clear their marks. -/
def markLanes (s : State) (p : Nat) (lanes : List Nat) (bad : Bool) : State :=
  setField s (rPortStatus p) 16 4
    (lanes.foldl (fun v i => setBits v i 1 (if bad then 1 else 0)) (lanesFailed s p))

/-- The lanes on which a logical port goes on with some failed (R632): none where it cannot. -/
def fewerLanes (given good : List Nat) : Option (List Nat) :=
  if given.length = 4 then
    if good.contains 0 && good.contains 1 then some [0, 1]
    else if good.contains 2 && good.contains 3 then some [2, 3]
    else good.head?.map fun i => [i]
  else if given.length = 2 then good.head?.map fun i => [i]
  else none

/-- Degrade a logical port to fewer lanes (R632, R633): none where it is not allowed or cannot be. -/
def degrade (s : State) (n : Nat) : Option State :=
  let given := lanesGiven s n
  let good := given.filter fun i => !(lanesFailed s (portOf n)).testBit i
  if regField s (rPort (portOf n)) 4 1 = 0 || !(lportOf s n).peerDegrade then none
  else (fewerLanes given good).map fun lanes =>
    let s := modLport s n fun l => { l with lanesCut := some lanes }
    let s := penal (bump s (.link n 5)) n 100
    report s 0x08 (((lportOf s n).partner.map (·.node)).getD noNode) n (lanesFailed s (portOf n) + 16 * lanes.length)

/-- Lanes of an ACTIVE or RETRAIN logical port fail (R629, R632). -/
def failLanes (s : State) (n : Nat) (lanes : List Nat) : State :=
  let s := markLanes s (portOf n) (lanes.filter fun i => (lanesGiven s n).contains i) true
  match degrade s n with
  | some s => if (lportOf s n).link = .active then toRetrain s n else setLink s n .retrain
  | none => goDown s n

/-! ## Training (R626, R627, R661) -/

/-- What a logical port advertises on each channel (R614, R661): the value of BUF_ADV_CFG by its lanes, at least R614's
minimum; nothing on escape channels toward an endpoint or a tray. -/
def advertised (s : State) (n : Nat) (role : Option Role) : List Nat :=
  let lanes := (lanesUsed s n).length
  let v := fun k => regField s rBufAdv (16 * k) 16
  let snp := max 1 (ceilDiv (v 2 * lanes) 4)
  let big := fun k => max 1025 (ceilDiv (v k * lanes) 4)
  let esc := if role = some .switch then big 6 else 0
  let escSnp := if role = some .switch then snp else 0
  [big 0, esc, big 1, esc, snp, escSnp, big 3, esc, big 4, esc, big 5, esc]

/-- The slice holds a port's new reserve and SHARED_MIN (R661). -/
def reserveFits (s : State) (n : Nat) (adv : List Nat) : Bool :=
  decide (regField s rBuf 0 8 * 64 * KiB + reserveBytes adv ≤ sharedArea s (portOf n / 8))

/-- Send TRAIN_CREDIT and TRAIN_DONE, or count RESERVE_SHORT (R626, R661). -/
def sendCredit (s : State) (n : Nat) : State :=
  let adv := advertised s n (lportOf s n).role
  if reserveFits (modLink s n fun ll => { ll with adv := [] }) n adv then
    let s := modLink s n fun ll => { ll with adv := adv, sentCredit := true }
    emit (emit s (.control n (.trainCredit adv))) (.control n .trainDone)
  else bump s .reserveShort

/-- The lanes' own TRAIN_ID. -/
def sendTrainId (s : State) (n : Nat) : State :=
  emit s (.control n (.trainId (lanesUsed s n).length (lportOf s n).marked (regField s (rPort (portOf n)) 4 1 = 1)))

/-- EQUALIZE ends well: TRAIN_ID in every slot. -/
def toIdentify (s : State) (n : Nat) : State := sendTrainId (setLink s n .identify) n

/-- The bytes of an ASCII text. -/
def asciiBytes (t : String) : List Byte := t.toList.map fun c => BitVec.ofNat 8 c.toNat

/-- A marked port ratchets its keys when it enters ACTIVE from DOWN, and counts frames from 0 (R758). -/
def ratchet (s : State) (n : Nat) : State :=
  modLport s n fun l =>
    if l.marked then
      let next := fun (k : Option (List Byte)) => k.map fun k =>
        sliceBytes (Config.shake256 36 (k.take 32 ++ asciiBytes "OLM RATCHET")) 0 36
      let x : Secure := { l.sec with
        txKeys := l.sec.txKeys.map next, rxKeys := l.sec.rxKeys.map next, txCtr := 0, rxCtr := 0, failedOnce := none }
      { l with sec := x }
    else l

/-- CONFIG is done: numbers and credit counters start at 0, the port is ACTIVE, and Lamplighter greets the partner (R617,
R626, R691, R794, R806). -/
def enterActive (s : State) (n : Nat) : State :=
  let s := modLink s n fun ll => { adv := ll.adv, peerAdv := ll.peerAdv, statusAt := s.clk }
  let s := ratchet (startHealth (l1Fill (setLink s n .active) n) n) n
  let s := note s "LINK_UP" [n]
  let s := modLport s n fun l => { l with disc := .hello, discSince := s.clk }
  sendHello s n

/-- Go to ACTIVE once both of the partner's flits and the port's own credit are out. -/
def tryActive (s : State) (n : Nat) : State :=
  let l := lportOf s n
  if l.link = .config && l.ll.gotCredit && l.ll.gotDone && l.ll.sentCredit then enterActive s n else s

/-- The first 32 bytes of a link control flit (R611, R612). -/
def ctlHead (type : Nat) (body : List Byte) : List Byte := sliceBytes (leBytes 1 type ++ body) 0 32

/-- A link-level violation (R637): the row of R958, with the first bytes of its flit. -/
def linkViolation (s : State) (n row : Nat) (head : List Byte) : State := violate s n row head 64

/-- One that is only dropped and counted. -/
def linkDropped (s : State) (n row : Nat) (head : List Byte) : State := linkViolation (bump s (.linkDrop n)) n row head

/-- TRAIN_ID arrives (R626, R627, R637). -/
def trainId (s : State) (n version role lanes : Nat) (marked degradeOk : Bool) : State :=
  let l := lportOf s n
  let who : Option Role := if role = 0 then some .switch else if role = 1 then some .endpoint
    else if role = 2 then some .tray else none
  match l.link with
  | .active => linkDropped s n 10 (ctlHead 0x10 (leBytes 1 version ++
      leBytes 1 (role + 4 * lanes + (if marked then 32 else 0) + (if degradeOk then 64 else 0))))
  | .retrain => modLport s n fun l => { l with peerDegrade := degradeOk }
  | .identify =>
    if version = 1 && who.isSome && lanes = (lanesUsed s n).length && marked = l.marked then
      let s := modLport s n fun l => { l with role := who, peerDegrade := degradeOk }
      let s := modLink s n fun ll => { ll with gotCredit := false, gotDone := false, sentCredit := false }
      let s := setField s (rLportRoute n) 1 1 (if who = some .switch then 1 else 0)
      sendCredit (setLink s n .config) n
    else note (goDown s n) "TRAIN_MISMATCH" [n]
  | _ => s

/-- TRAIN_CREDIT arrives. -/
def trainCredit (s : State) (n : Nat) (adv : List Nat) : State :=
  match (lportOf s n).link with
  | .active => linkDropped s n 10 (ctlHead 0x11 (leBytes 3 0 ++ (natRange 0 12).flatMap fun c => leBytes 2 (adv.getD c 0)))
  | .config =>
    tryActive (modLink s n fun ll => { ll with
      gotCredit := true
      peerAdv := (natRange 0 12).map fun c => adv.getD c 0 % 65536 }) n
  | _ => s

/-- TRAIN_DONE arrives. -/
def trainDone (s : State) (n : Nat) : State :=
  match (lportOf s n).link with
  | .active => linkDropped s n 10 (ctlHead 0x12 [])
  | .config => tryActive (modLink s n fun ll => { ll with gotDone := true }) n
  | _ => s

/-- RETRAIN succeeds (R626): REPLAY with the oldest held number, and the port is ACTIVE again; PORT.RETRAIN finds which lanes
are good (R633). -/
def retrainDone (s : State) (n : Nat) (good : List Nat) : State :=
  let l := lportOf s n
  let all := (lanesGiven s n).all good.contains
  let s := if !l.retrainBy.isEmpty && all then
      markLanes (modLport s n fun l => { l with lanesCut := none }) (portOf n) (lanesGiven s n) false
    else s
  let s := setLink s n .active
  let s := emit s (.control n (.replay (l.ll.txHeld.headD l.ll.txNext)))
  let s := if l.ll.txHeld.isEmpty then s else emit s (.resend n l.ll.txHeld)
  pump (retrainEnds (modLink s n fun ll => { ll with rxWait := none, txSince := s.clk }) n stOk) n

/-! ## Low power (R635, R636) -/

/-- After LP_ACK a port with every data codeword acknowledged idles. -/
def tryLowPower (s : State) (n : Nat) : State :=
  let l := lportOf s n
  if l.link = .active && (l.ll.lp = .acked || l.ll.lp = .granted) && l.ll.txHeld.isEmpty && l.ll.txq.isEmpty then
    modLink (setLink s n .lowPower) n fun ll => { ll with lp := .idle, beaconAt := s.clk }
  else s

/-- No packet waits for a port. -/
def portQuiet (s : State) (n : Nat) : Bool :=
  (lportOf s n).ll.txq.isEmpty && !(s.core.voqs.any fun q => (egresses q).contains n)

/-! ## The receiver (R607, R611, R617 to R624, R637) -/

/-- Replays in a row from one number may end in RETRAIN (R622). -/
def replayOrRetrain (s : State) (n seq : Nat) : State :=
  let s := replayFrom s n seq
  if replaysOut s n then toRetrain (modLink s n fun ll => { ll with replays := 0 }) n else s

/-- NAK arrives (R621). -/
def gotNak (s : State) (n seq : Nat) : State :=
  if (lportOf s n).ll.txHeld.contains seq then replayOrRetrain s n seq
  else toRetrain (linkViolation s n 14 (ctlHead 0x03 (leBytes 2 seq))) n

/-- STATUS arrives (R616, R619): acknowledgement and credit. -/
def gotStatus (s : State) (n ack : Nat) (valid : Bool) (credits : List Nat) : State :=
  let ll := (lportOf s n).ll
  let behind := (ll.txNext + 4096 - (ack + 1) % 4096) % 4096
  if valid && decide (2048 ≤ behind) then
    toRetrain (linkViolation s n 14 (ctlHead 0x02 (leBytes 3 (ack + 2 ^ 12) ++ (natRange 0 12).flatMap fun c => leBytes 2 (credits.getD c 0)))) n
  else
    let s := modLink s n fun ll => { ll with peerFreed := (natRange 0 12).map fun c => credits.getD c 0 % 65536 }
    let s := if valid then ackTo s n ack else s
    tryLowPower (pump s n) n

/-- REPLAY arrives (R620): from here the receiver counts from its number. -/
def gotReplay (s : State) (n seq : Nat) : State :=
  let ll := (lportOf s n).ll
  if cwBefore seq ll.rxNext then modLink s n fun ll => { ll with rxPos := seq, rxWait := none }
  else toRetrain (linkViolation s n 14 (ctlHead 0x04 (leBytes 2 seq))) n

/-- Ask for replay from a number (R620, R624). -/
def sendNak (s : State) (n seq : Nat) : State :=
  modLink (emit (bump s (.link n 2)) (.control n (.nak seq))) n fun ll => { ll with rxWait := some s.clk }

/-- A packet flit of an accepted codeword (R608, R615, R637): a packet beyond its credit, or after a forbidden ESCAPE, is
discarded. The header of a packet comes with the packet's own row. -/
def packetFlit (s : State) (n vc : Nat) (first last : Bool) (size : Nat) (head : List Byte) : State :=
  let ll := (lportOf s n).ll
  let c := 2 * vc + (if first && ll.escNext then 1 else if first then 0 else (ll.partial_.getD 0) % 2)
  let used := (ll.got.getD c 0 + 65536 - ll.freed.getD c 0) % 65536
  let beyond := first && !ll.dropNext && decide (ll.adv.getD c 0 < used + size) && decide (vc < 6)
  let row := if ll.escNext && ll.adv.getD c 0 = 0 then 12 else 13
  let drop := if first then beyond || ll.dropNext else ll.dropping
  let s := if beyond then linkDropped s n row head else s
  let s := modLink s n fun ll => { ll with
    got := if drop then ll.got else ll.got.set c ((ll.got.getD c 0 + 1) % 65536),
    partial_ := if last then none else some c, dropping := drop && !last,
    escNext := if first then false else ll.escNext, dropNext := if first then false else ll.dropNext }
  if last && !drop then
    { s with core := { s.core with voqs := s.core.voqs.map fun q => if q.inLport = n then { q with tail := false } else q } }
  else s

/-- The flits of an accepted codeword from a slot on. -/
def takeFlits (n k : Nat) : Nat → State → List Flit → State
  | _, s, [] => s
  | slot, s, f :: fs =>
    let s := match f with
      | .packet vc first last size head =>
        let s := packetFlit s n vc first last size head
        modLink s n fun ll => { ll with frameAt := some (ll.frameAt.getD (k, slot)), frameFlits := ll.frameFlits + 1 }
      | .trailer head => if (lportOf s n).marked then s else linkDropped s n 11 head
      | .control _ _ => s
    takeFlits n k (slot + 1) s fs

/-- One bit into CRC10, whose polynomial is x¹⁰ + x⁹ + x⁵ + x⁴ + x + 1 (R606); the coefficient of x⁹ is bit 9 (DESIGN CHOICE, log entry
158). -/
def crc10Bit (c : Nat) (b : Bool) : Nat :=
  if (c / 512 % 2 = 1) != b then c * 2 % 1024 ^^^ 0x233 else c * 2 % 1024

/-- CRC10 of a codeword: over CTRL_MAP, bit 0 first, and its flit bytes, each least significant bit first (R606). -/
def crc10 (map : Nat) (data : List Byte) : Nat :=
  data.foldl (fun c x => (natRange 0 8).foldl (fun c i => crc10Bit c (x.getLsbD i)) c)
    ((natRange 0 10).foldl (fun c i => crc10Bit c (map.testBit i)) 0x3FF)

/-- RS decoding succeeded and CRC10 matches (R605, R607). -/
def codewordGood (rs : Bool) (c : Codeword) : Bool :=
  rs && decide (bits c.tag 10 10 = crc10 (bits c.tag 0 10) c.data)

/-- A link control flit's TYPE is listed, its CHECK is good, and its reserved bits are 0 (R611, R612). -/
def controlOk (f : List Byte) : Bool :=
  let zero := fun (lo hi : Nat) => decide (leField f lo (hi - lo) = 0)
  decide (leField f 0x38 4 = (crc32c (f.take 0x38)).toNat) && decide (leField f 0x3C 4 = 2 ^ 31) &&
  match leField f 0 1 with
  | 0x02 => decide (leField f 1 2 < 2 ^ 13) && zero 3 4 && zero 28 0x38
  | 0x03 | 0x04 => decide (leField f 1 2 < 4096) && zero 3 0x38
  | 0x10 => decide (leField f 2 1 < 128) && zero 3 0x38
  | 0x11 => zero 1 4 && zero 28 0x38
  | 0x01 | 0x05 | 0x06 | 0x07 | 0x08 | 0x12 => zero 1 0x38
  | _ => false

/-- The flits of a codeword: CTRL_MAP tells packet flits from others, and a non-packet flit's byte 0x3F a control flit from a secure-frame
trailer (R605, R608, R611). -/
def codewordFlits (c : Codeword) : List Flit :=
  (natRange 0 10).map fun i =>
    let f := sliceBytes c.data (64 * i) 64
    if !c.tag.testBit i then
      let x := c.packets.getD i {}
      .packet x.vc x.first x.last x.size (f.take 32)
    else if (f.getD 0x3F 0).getLsbD 7 then .control (controlOk f) (f.take 32)
    else .trailer (f.take 32)

/-- A flit that makes its codeword a data codeword (R617). -/
def isData : Flit → Bool
  | .control _ _ => false
  | _ => true

/-- A link control flit that R637 drops. -/
def badControl : Flit → Bool
  | .control ok _ => !ok
  | _ => false

/-- A codeword arrives (R607, R611, R617, R619, R620, R623): an uncorrectable one, and symbols corrected in a good one, are counted and
logged (R34). -/
def codeword (s : State) (n : Nat) (good : Bool) (corrected : Nat) (flits : List Flit) : State :=
  let l := lportOf s n
  if !good then
    let s := penalCodeword (note (bump s (.link n 0)) "CODEWORD_BAD" [n]) n
    if l.ll.rxWait.isSome then s else sendNak s n l.ll.rxNext
  else
    let s := bumpBy s (.link n 1) 48 corrected
    let s := if corrected = 0 then s else note s "CODEWORD_CORRECTED" [n, corrected]
    let s := flits.foldl (fun s f => match f with
      | .control false head => linkDropped s n 9 head
      | _ => s) s
    if !flits.any isData || l.ll.rxWait.isSome then s
    else
      let k := l.ll.rxPos
      let s := modLink s n fun ll => { ll with rxPos := (k + 1) % 4096 }
      if k ≠ l.ll.rxNext then s
      else
        let s := modLink s n fun ll => { ll with rxNext := (k + 1) % 4096, rxAny := true, rxCount := ll.rxCount + 1,
                                                 rxSkip := 0 }
        let s := takeFlits n k l.ll.rxSkip s (flits.drop l.ll.rxSkip)
        if 32 ≤ (lportOf s n).ll.rxCount then sendStatus s n else s

/-! ## Secure frames (R591 to R593, R624) -/

/-- A secure frame ends: accepted, or discarded and asked for again. -/
def secureFrame (s : State) (n slot ctr : Nat) (data : List Byte) (tag : BitVec 128) : State :=
  let l := lportOf s n
  if !l.marked then linkDropped s n 11 (leBytes 8 ctr ++ leBytes 1 (data.length / 64) ++ leBytes 7 slot ++ leBytes 16 tag.toNat)
  else
    let key := l.sec.rxKeys.getD slot none
    -- a slot that was current, or whose first frame this is (R592)
    let fresh := slot ≠ l.sec.rxSlot
    let expect := if fresh then 0 else l.sec.rxCtr
    let ok := match key with
      | some k =>
        decide (ctr = expect) &&
        Config.gcmVerify (k.take 32) (k.drop 32 ++ leBytes 8 ctr) (leBytes 8 ctr ++ leBytes 1 (data.length / 64) ++ leBytes 7 slot)
          data tag
      | none => false
    if ok then
      -- the first frame of a new slot: the old key goes, and the own transmitter follows (R592)
      let x : Secure := { l.sec with
        rxSlot := slot, rxCtr := ctr + 1, failedOnce := none
        rxKeys := if fresh then l.sec.rxKeys.set l.sec.rxSlot none else l.sec.rxKeys
        txWant := if fresh && slot ≠ l.sec.txSlot && (l.sec.txKeys.getD slot none).isSome then some slot else l.sec.txWant }
      pump (modLport s n fun l => { l with sec := x, ll := { l.ll with frameAt := none, frameFlits := 0 } }) n
    else
      let (k, sl) := l.ll.frameAt.getD (l.ll.rxNext, 0)
      let again := l.sec.failedOnce = some expect
      let s := penal (bump s (.secureReject n)) n 50
      let s := modLport s n fun l => { l with
        sec := { l.sec with failedOnce := some expect }
        ll := { l.ll with rxNext := k, rxSkip := sl, frameAt := none, frameFlits := 0 } }
      let s := sendNak s n k
      if again then
        report (toRetrain s n) 0x0E (((lportOf s n).partner.map (·.node)).getD noNode) n 1
      else s

end Sys2Proof.Machine
end

