-- ==== Sys2Proof/Machine/PowerCore.lean ====
section
/-! DEFINITION. Machine/PowerCore.lean: the power ladder, regions, frequencies and thermal limits (21_power_clocks.md). -/
namespace Sys2Proof.Machine

/-! ## Regions (R327, R889 to R894) -/

def modPower (s : State) (f : Power → Power) : State := { s with power := f s.power }

/-- Change a region; where its supply, its frequency or its state changes, what they were is kept for averages. -/
def modRegionPow (s : State) (r : Nat) (f : Region → Region) : State :=
  let x := regionPow s r
  let y := f x
  let s := if x.mv = y.mv ∧ x.mhz = y.mhz ∧ x.st = y.st then s else keepSample s r
  modPower s fun p => { p with regions := kset p.regions r y }

abbrev regions16 : List Nat := [0, 1, 2, 3, 4, 5, 6, 7, 8, 9, 10, 11, 12, 13, 14, 15]

/-- A region is Lit: it runs and is not fenced. -/
def isLit (s : State) (r : Nat) : Bool := (regionPow s r).st = .lit && !isFenced s r

/-- A hold keeps a region from waking on demand (R891). -/
def Region.held (x : Region) : Bool := x.cmd.isSome || x.cap || x.therm || x.nbr

/-- The supply of a region at a frequency (R893): the die's curve, within 0.60 to 0.90 V. -/
def supplyMv (r mhz : Nat) : Nat := min 900 (max 600 (Config.voltageCurve r mhz))

/-- FMAX_MHZ of a region as it acts (R333). -/
def fmax (s : State) (r : Nat) : Nat := regField s (rRegionClk r) 0 12 / 25 * 25

/-- Bring a region's frequency below its limits (R327, R331, R895, R899); the supply follows. -/
def capFreq (s : State) (r : Nat) : State :=
  modRegionPow s r fun x =>
    let f := max 900 (min (min x.mhz (fmax s r)) (min x.limN (min x.limT x.limC)))
    { x with mhz := f, mv := supplyMv r f }

/-! ## The chip and its regions (R876, R882, R883) -/

/-- Fabric time is not followed below Trimmed (R877). -/
def timeHolds (s : State) : State :=
  if s.tk.st = .unset then s else modTk s fun t => { t with st := .holdover }

/-- Back in Trimmed or Lit, time is acquired again (R877). -/
def timeAgain (s : State) : State :=
  if s.tk.st = .unset then s
  else rootLock (modTk s fun t => { t with st := .acquiring, inRow := 0, outRow := 0 })

/-- The chip follows its regions between Lit and Trimmed (R882, R883). -/
def followRegions (s : State) : State :=
  let lit := regions16.any (isLit s)
  match s.power.chip with
  | .lit => if lit then s else bump (modPower s fun p => { p with chip := .trimmed, busyAt := s.clk }) (.power 0)
  | .trimmed => if lit then modPower s fun p => { p with chip := .lit, tripped := false } else s
  | _ => s

/-- A region goes to Trimmed: the neighbour comparison no longer lowers it (R331, R332). -/
def trimRegion (s : State) (r : Nat) (f : Region → Region) : State :=
  followRegions (modRegionPow s r fun x => f { x with st := .trimmed, mv := 600, limN := 3600, nbrSince := none })

/-- Every logical port in LOW_POWER that an abandoned entry has taken there returns to ACTIVE (R885). -/
def unhood (s : State) : State :=
  match s.power.hooding with
  | none => s
  | some h =>
    let s := h.agreed.foldl (fun s n =>
      if (lportOf s n).link = .lowPower then pump (modLink (setLink s n .active) n fun ll => { ll with lp := .idle }) n else s) s
    let s := h.await.foldl (fun s n => modLink s n fun ll => { ll with lp := .idle }) s
    markBusy (modPower s fun p => { p with hooding := none })

/-- A wake event reaches the chip (R883, R884): from Hooded it returns to Trimmed, and an entry into Hooded is abandoned. -/
def wakeChip (s : State) : State :=
  if s.power.hooding.isSome then unhood (bump s (.power 4))
  else if s.power.chip = .hooded then timeAgain (markBusy (modPower s fun p => { p with chip := .trimmed }))
  else markBusy s

/-- A wake event needs a region's blocks (R883): a region without a hold is Lit. -/
def wakeRegion (s : State) (r : Nat) : State :=
  let s := wakeChip s
  let x := regionPow s r
  if (s.power.chip = .lit || s.power.chip = .trimmed) && decide (r < 16) && x.st = .trimmed && !x.held && !isFenced s r then
    capFreq (followRegions (modRegionPow s r fun x => { x with st := .lit, idle := false, idleSince := s.clk, nbrSince := none })) r
  else s

/-! ## Conditions of the states (R878) -/

/-- Trimmed: every region is Trimmed or Banked. -/
def trimmedOk (s : State) : Bool := !regions16.any (isLit s)

/-- Hyser commands in progress but one. -/
def commandsBut (s : State) (r : Option CmdRef) : Nat :=
  let n := s.hys.fns.foldl (fun n e => n + e.2.inFlight.length + e.2.done.length) 0
  match r with
  | some c => n - ((fnOf s c.fn).inFlight.filter fun i => i.qp = c.qp && i.cid = c.cid).length
  | none => n

/-- Hooded, but for the LP_REQ condition: Trimmed holds, the buffer is empty, the switch waits for nothing of its own and works
on nothing. -/
def quiet (s : State) (r : Option CmdRef) : Bool :=
  trimmedOk s && s.core.voqs.isEmpty && (s.lports.all fun e => e.2.ll.txq.isEmpty) && s.waits.isEmpty && s.mem.trayReqs.isEmpty && s.mem.ops.isEmpty && s.coh.biSnoops.isEmpty &&
  !(s.coh.lines.any fun l => l.2.txn.isSome) && s.coh.sweeps.isEmpty && commandsBut s r = 0 && s.mem.moves.isEmpty &&
  s.sec.scrubs.isEmpty && s.xl.walks.isEmpty

/-- Ports, decoders, collectives and requests that Banked asks about. -/
def bankedPorts (s : State) : Bool :=
  (natRange 0 128).all (fun p => regField s (rPort p) 0 1 = 0) && s.coh.decoders.all fun e => e.2.sizeGib = 0

/-- Partitions and trays that Pilot asks about. -/
def pilotParts (s : State) : Bool := s.parts.all (fun e => e.2.st = .free) && s.mem.slots.isEmpty

/-! ## Entering states -/

/-- ACTIVE logical ports. -/
def activePorts (s : State) : List Nat := (s.lports.filter fun e => decide (e.1 < 512) && e.2.link = .active).map (·.1)

/-- Start to enter Hooded: LP_REQ on every ACTIVE logical port (R882, R635). -/
def askHood (s : State) : State :=
  let ps := activePorts s
  let s := ps.foldl (fun s n => emit (modLink s n fun ll => { ll with lp := .asked }) (.control n .lpReq)) s
  modPower s fun p => { p with hooding := some { await := ps, since := s.clk } }

/-- The commanded state is reached: its command completes. -/
def askedDone (s : State) : State :=
  match s.power.asked with
  | some a => complete (modPower s fun p => { p with asked := none }) a.by_ stOk 0 []
  | none => s

/-- Enter Hooded once every logical port that was asked is in LOW_POWER. -/
def hoodCheck (s : State) : State :=
  match s.power.hooding with
  | none => s
  | some h =>
    if h.await.isEmpty && h.agreed.all fun n => (lportOf s n).link ≠ .active then
      let s := timeHolds (bump (modPower s fun p => { p with chip := .hooded, hooding := none }) (.power 1))
      if (s.power.asked.map (·.target)) = some .hooded then askedDone s else s
    else s

/-- A partner refuses or does not answer: the chip stays in Trimmed (R885). -/
def hoodRefused (s : State) : State := bump (unhood s) (.power 5)

/-- Before Banked (R879): lines with directory entries are snooped; those that remain keep the chip from entering. -/
def bankLines (s : State) : State × Bool :=
  let s := leaveLines s fun _ l => !l.leaving
  (s, s.coh.lines.isEmpty)

/-- What Banked loses (R876, R879): the translation cache, the packet buffer, scratch. -/
def enterBanked (s : State) : State :=
  let s := bankCompute { s with xl := { s.xl with cache := [] } }
  let s := regions16.foldl (fun s r => modRegionPow s r fun x => { x with mv := 600 }) s
  timeHolds (bump (modPower s fun p => { p with chip := .banked }) (.power 2))

/-- What Pilot loses beside (R876): HBM contents and the tables in it; a later exit makes them anew (R881). -/
def losePool (s : State) : State :=
  let s := pilotCompute s
  let keep := s.mem
  { s with
    mem := { homes := keep.homes, classes := keep.classes, classesNext := keep.classesNext, classOn := keep.classOn,
             freeMode := keep.freeMode, freePending := keep.freePending, nextScan := keep.nextScan, scanAt := keep.scanAt, periodAt := keep.periodAt }
    xl := {}, coh := {}, snap := {}, lan := { s.lan with ring := [] }, ing := { ownSeq := s.ing.ownSeq, ownTag := s.ing.ownTag },
    buckets := [], waits := [], core := { s.core with voqs := [] } }

/-- Enter Pilot for a cause (R876, R906). -/
def enterPilot (s : State) (cause : Nat) : State :=
  timeHolds (bump (modPower (losePool s) fun p => { p with chip := .pilot, cause := cause, hooding := none }) (.power 3))

/-- A POWER.SET_STATE that waits is tested (R878, R886 to R888): it completes when its state is reached. -/
def trySetState (s : State) : State :=
  match s.power.asked with
  | none => s
  | some a =>
    let deep := s.power.chip = .banked || s.power.chip = .pilot
    let me := some a.by_
    match a.target with
    | .lit =>
      let s := if deep then timeAgain (modPower s fun p => { p with chip := .trimmed }) else wakeChip s
      let s := regions16.foldl wakeRegion s
      if s.power.chip = .lit then askedDone s else s
    | .trimmed =>
      if deep then s
      else
        let s := wakeChip s
        if trimmedOk s then askedDone s else s
    | .hooded =>
      if deep then s
      else if s.power.chip = .hooded then askedDone s
      else if s.power.hooding.isSome then hoodCheck s
      else if quiet s me then hoodCheck (askHood s) else s
    | .banked =>
      if s.power.chip = .banked then askedDone s
      else if s.power.chip = .pilot then s
      else
        let (s, clear) := if quiet s me && computeIdle s then bankLines s else (s, false)
        if clear then askedDone (enterBanked s) else s
    | .pilot =>
      if s.power.chip = .pilot then askedDone s
      else
        let (s, clear) := if quiet s me && computeIdle s then bankLines s else (s, false)
        if clear then askedDone (enterPilot s 1) else s

/-! ## Time with nothing commanded -/

/-- Time goes on by 1 ns (DESIGN CHOICE: the unit of time of an idle step; fabric time counts ns, R709), and a commanded power
state that waits is tested (R886); commands that are not listed in the catalogue complete (R852). -/
def idle (s : State) : State := trySetState (settleUnknown 256 (untilTime s (s.clk + 1)))

/-! ## Fences seen from a region's clock -/

/-- Neighbouring regions (R41): their places in the grid of 4 by 4 share an edge. -/
def neighbours (a b : Nat) : Bool :=
  (a / 4 = b / 4 && (a % 4 + 1 = b % 4 || b % 4 + 1 = a % 4)) || (a % 4 = b % 4 && (a / 4 + 1 = b / 4 || b / 4 + 1 = a / 4))

/-- THROTTLED of a region (R331, R899). -/
def throttled (s : State) (r : Nat) : Bool :=
  let x := regionPow s r
  decide (x.limN < 3600) || decide (x.limT < 3600) || x.nbr

/-- A throttle episode begins: one entry in the health log (R331, R902, R965). -/
def throttleLog (s : State) (r : Nat) : State :=
  healthLog s 6 r 0 0 (leBytes 16 0 ++ regionBody s r)

end Sys2Proof.Machine
end

