-- ==== Sys2Proof/Machine/MapCore.lean ====
section
/-! DEFINITION. Machine/MapCore.lean: references to gigabytes of pool as a home adds them, and the answers to messages that this
switch sent (04_translation_windows.md R174 to R178; 17_security.md R759, R762). -/
namespace Sys2Proof.Machine

/-- Add references to a run of gigabytes, all or none: the mismatches of R175 come before the limits. -/
def addRefs (s : State) (gibs : List Nat) (cls copies part : Nat) (verify : Bool) : State ⊕ Nat :=
  let bad := gibs.any fun g => match kfind s.mem.counts g with
    | some c => c.cls ≠ cls || c.copies ≠ copies
    | none => false
  if bad then .inr stMalformed
  else gibs.foldl (fun (r : State ⊕ Nat) g => match r with
    | .inl t => addRef t g cls copies part verify
    | .inr st => .inr st) (.inl s)

/-- Gigabytes that a partition has pinned in T1 (R139, R728). -/
def pinnedGib (s : State) (part : Nat) : Nat :=
  (s.mem.counts.filter fun e => e.2.cls = 1 && ((tierOf s (e.1 * 512)).map fun t => decide (t.partition = part)).getD false).length

/-- The pin quota allows new gigabytes of class PIN_T1. -/
def pinAllows (s : State) (part cls : Nat) (gibs : List Nat) : Bool :=
  cls ≠ 1 || decide (pinnedGib s part + (gibs.filter fun g => (kfind s.mem.counts g).isNone).length ≤ (partOf s part).pinT1)

/-- A home adds the references of a page: the status of the first check that fails (orders 7 and 8 of R979). -/
def homeAdds (s : State) (gibs : List Nat) (cls copies part : Nat) (verify : Bool) : State ⊕ Nat :=
  match addRefs s gibs cls copies part verify with
  | .inr st => .inr st
  | .inl t => if pinAllows s part cls gibs then .inl t else .inr stBudget

/-- Write a page's entries (R165, R166). -/
def writePage (s : State) (ast va gib pool perms : Nat) : State :=
  let one := fun (m : List (Nat × Pte)) i =>
    kset m (pteKey ast (va + i)) { size32 := decide (gib = 32), r := perms.testBit 0, w := perms.testBit 1, a := perms.testBit 2,
                                   page := pool + i }
  { s with xl := { s.xl with ptes := (natRange 0 gib).foldl one s.xl.ptes } }

/-- A home counts the references of another switch (R174, R759). -/
def noteRefs (s : State) (gibs : List Nat) (node : Nat) : State :=
  { s with mem := { s.mem with counts := gibs.foldl (fun m g =>
      kmod m g fun c => { c with refs := kset c.refs node (kget c.refs node 0 + 1) }) s.mem.counts } }

/-- Another switch releases a reference (R177). -/
def dropRemote (s : State) (g node : Nat) : State :=
  let s := { s with mem := { s.mem with counts := kmod s.mem.counts g fun c =>
    { c with refs := if kget c.refs node 0 ≤ 1 then kdel c.refs node else kset c.refs node (kget c.refs node 0 - 1) } } }
  dropRef s g

/-- Pool gigabytes that a decoder of a host bridge maps. -/
def hdmPages (s : State) (d : HdmDecoder) : List Nat :=
  (natRange (d.vbase / GiB) d.sizeGib).filterMap fun i => (pteOf s d.ast i).map (·.page)

/-- Two decoders of one host bridge map one pool gigabyte (R238). -/
def hdmClash (s : State) : Bool :=
  s.coh.decoders.any fun d => s.coh.decoders.any fun e =>
    e.1 / 16 = d.1 / 16 && e.1 ≠ d.1 && (hdmPages s d.2).any fun g => (hdmPages s e.2).contains g

/-- The home has answered MAP_REF (R174): the page's entries are written, or POOL.MAP fails with the home's status and the order of
the check that failed there (R979). The AST must still be the one that the command named; with another under its number the reference is
released. -/
def mapAnswered (s : State) (r : CmdRef) (ast va gib pool perms born status : Nat) : State :=
  let gone := fun (code : Nat) => complete ((natRange pool gib).foldl releaseGib s) r code 0 []
  if status ≠ stOk then complete s r (status + 256 * (if status = stMalformed then 7 else if status = stBudget then 8 else 0)) 0 []
  else if ((astOf s ast).map (·.born)) ≠ some born then gone (stDenied + 256 * 2)
  else if (natRange va gib).any fun i => (pteOf s ast i).isSome then
    -- R171: another POOL.MAP has written an entry of the page meanwhile
    gone (stDenied + 256 * 5)
  -- R238: a decoder or another page has come meanwhile
  else if !hdmClash s && hdmClash (writePage s ast va gib pool perms) then gone stMalformed
  else complete (writePage s ast va gib pool perms) r stOk 0 []


/-- The answer to a management message of this switch has arrived. -/
def mgmtHeard (s : State) (tag : Nat) : State := { s with ing := { s.ing with mgmtOut := s.ing.mgmtOut.filter (· ≠ tag) } }

/-- An answer to a message or store that this switch itself sent; one for no outstanding tag is a violation (R89, R102). -/
def ownAnswered (s : State) (r : Resp) : State :=
  let tag := r.tag.toNat
  match kfind s.waits tag with
  | none => if decide (0x80 ≤ r.reqOpcode.toNat ∧ r.reqOpcode.toNat ≤ 0x8F) && s.ing.mgmtOut.contains tag then mgmtHeard s tag
            else violatePkt (bump s (.rspStray r.lport)) r.lport 4 (.resp r)
  | some w =>
    let s := mgmtHeard { s with waits := kdel s.waits tag } tag
    match w with
    | .mapRef by_ ast va gib pool perms born => mapAnswered s by_ ast va gib pool perms born r.status.toNat
    | .revoke _ gib node => revoked s gib node
    | .scrub part addr => scrubDone { s with waits := kset s.waits tag (.scrub part addr) } part addr (r.status.toNat = stOk)
    | .notice => s

end Sys2Proof.Machine
end

