-- ==== Sys2Proof/Machine/Engines.lean ====
section
/-! DEFINITION. Machine/Engines.lean: the engines as the ingress and the home see them. -/
namespace Sys2Proof.Machine

/-- A response to a request that this switch sent itself: an engine's, or a message's. -/
def engineRespond (s : State) (r : Resp) : State :=
  match fabAnswered s r with
  | some t => mgmtHeard t r.tag.toNat
  | none => ownAnswered s r

/-- A request begins at the unit that serves it at its home: the line's home (R208), the snapshots (R264), or an engine. -/
def homeStart (s : State) (o : Origin) (op : Op) (p : Req) : State :=
  if isCoherence op then cohStart s o op p
  else match op with
    | .openVersion | .closeVersion | .publish => versionStart s o op p
    | .collContrib => engineStart s o (computePort (p.lport / 32 % 16)) op p
    | _ => toRegion s o op p

/-- How engines start, without the rounds in which they go on. -/
def engines : Hooks := { start := homeStart, handleOk := engineHandle, ranges := engineRanges, respond := engineRespond, finish := id }

/-- No engine has work, or waits for anything. -/
def enginesIdle (s : State) : Bool := s.fab.landed.isEmpty && s.fab.heard.isEmpty && s.fab.jobs.isEmpty && s.fab.relays.isEmpty && s.fab.ctxs.isEmpty

/-- Engines go on, then what they asked of memory, round by round. -/
def goOn : Nat → State → State
  | 0, s => s
  | n + 1, s =>
    let s := engineFinish (startLanded s)
    if enginesIdle s then s
    else goOn n (settleN engines (32 * (s.ing.outs.length + s.mem.ops.length + s.mem.moves.length + 1)) s)

def hooks : Hooks := { engines with finish := goOn 4 }

/-- Requests that buckets hold, in arrival order. -/
def heldByBuckets (s : State) : List Nat :=
  (s.ing.outs.filter fun e => e.2.phase = .bucket).map (·.1)

/-- A held request leaves its bucket, and order decides on it (R97, R698); its link credit follows once it waits no more. -/
def bucketOut (s : State) (id : Nat) : State :=
  match kfind s.ing.outs id with
  | some _ => tryReq hooks s id
  | none => s

/-- Enter or leave free mode (R154): on entering, every request that a bucket holds goes, in arrival order; on leaving, every bucket is full,
and holds what it held. -/
def setFree (s : State) (on : Bool) : State :=
  if on = s.mem.freeMode then s
  else
    let s := setField { s with mem := { s.mem with freeMode := on } } rPoolMode 0 1 (if on then 1 else 0)
    if on then settle hooks ((heldByBuckets s).foldl bucketOut { s with buckets := [] })
    else { s with buckets := s.buckets.map fun (b : Nat × Bucket) => (b.1, { b.2 with level := bucketFull s b.1, at_ := s.clk }) }

end Sys2Proof.Machine
end

