-- ==== Sys2Proof/Machine/Switch.lean ====
section
/-! DEFINITION. Machine/Switch.lean: the meanings of the events and commands of the switch core, of shapers, gates and fabric
time (15_switch_core.md, 16_shaping_time.md). -/
namespace Sys2Proof.Machine

/-! ## The crossbar -/

/-- A cell of a packet fails its CRC at the egress (R771): the packet is discarded, and an attachment where it happens twice in
1 ms is retired; a fabric port left with none goes down. -/
def cellBad (s : State) (id : Nat) : State :=
  match pktOf s id with
  | none => s
  | some q =>
    let p := egressPort q.egress
    let s := discardPkt (note (bump s (.ras 5)) "CELL_CRC" [p]) q 3
    let recent := (kget s.core.crcAt p []).filter fun t => decide (s.clk < t + msNs)
    let s := { s with core := { s.core with crcAt := kset s.core.crcAt p (if recent.isEmpty then [s.clk] else []) } }
    if recent.isEmpty then s
    else
      let s := bump { s with core := { s.core with retiredAtt := kset s.core.retiredAtt p (kget s.core.retiredAtt p 0 + 1) } }
        (.ras 6)
      if p < 128 && attachments s p = 0 then (lportsOf s p).foldl goDown s else s

/-- A parity error in scheduler state: the pointers are reset and nothing is matched; the sixteenth within 1 ms halts the
switch (R772, R781). -/
def schedParity (s : State) : State :=
  let s := bump { s with core := { s.core with grantPtr := [], acceptPtr := [] } } (.ras 7)
  let s := note s "SCHEDULER_PARITY" []
  let recent := s.clk :: s.core.parityAt.filter fun t => decide (s.clk < t + msNs)
  let s := { s with core := { s.core with parityAt := recent } }
  if 16 ≤ recent.length then haltSwitch s 3 else s

/-- A parity error in a queue's state: every packet of it of which no cell has crossed is discarded (R772). -/
def voqParity (s : State) (id : Nat) : State :=
  match pktOf s id with
  | none => s
  | some q =>
    (s.core.voqs.filter fun x => inVoq x && sameVoq x q && !crossing x).foldl (fun s x => discardPkt (bumpFree s) x (openReason s))
      (note (bump s (.fault 2)) "VOQ_PARITY" [q.inPort, q.egress, q.tc])

/-- SCHED_MATCH (R654, R771, R772): one cell time; `bad` are packets whose cell arrives corrupt, `parity` an error in scheduler
state, `queues` name by a packet the queues whose state fails. -/
def execSchedMatch (bad : List Nat) (parity : Bool) (queues : List Nat) (s : State) : Host.Outcome State Fault Refusal :=
  live s fun s =>
    if s.ras.halt ≠ 0 then s
    else
      let s := queues.foldl voqParity (nextCell s)
      let s := if parity then schedParity s else cellTime s
      settle hooks (bad.foldl cellBad s)

/-- VOQ_PROMOTE (R653). -/
def execVoqPromote (id : Nat) (s : State) : Host.Outcome State Fault Refusal :=
  live s fun s =>
    match pktOf s id with
    | none => s
    | some q =>
      let s := untilTime s (q.entered + regField s rSchedPromo (8 * q.tc) 8 * 50)
      modPkt s id fun q => { q with promoted := true }

/-- SHARED_ADMIT (R660). -/
def execSharedAdmit (id : Nat) (s : State) : Host.Outcome State Fault Refusal := live s fun s => admitPkt s id

/-- AGE_DISCARD (R679, R680): a packet with no crossed cell is older than its limit. -/
def execAgeDiscard (id : Nat) (s : State) : Host.Outcome State Fault Refusal :=
  live s fun s =>
    match pktOf s id with
    | none => s
    | some q =>
      if crossing q then s
      else
        let s := untilTime s (q.entered + ageLimit s q.tc)
        settle hooks (bump (discardPkt s q 0) .ageDiscards)

/-- ESC_WAIT_EXPIRE (R670): a head toward a switch has had no credit for ESC_WAIT, and moves to the escape channel. -/
def execEscWaitExpire (id : Nat) (s : State) : Host.Outcome State Fault Refusal :=
  live s fun s =>
    match (headsOf [] s.core.voqs).find? fun q => q.id = id with
    | none => s
    | some q =>
      if crossing q || q.esc || !facesSwitch s q.egress || !noCreditFor s q q.egress || s.fm.escDrain.isSome then s
      else
        let s := untilTime s (q.noCredit.getD s.clk + regField s rRouteCfg 8 8 * usNs)
        let r := aloneFor s q q.egress
        match (pktOf r.1 r.2).bind (toEscape r.1) with
        | some t => bump t .escMoves
        | none => s

/-- CORE_STATS (R684). -/
def execCoreStats (c : Cmd) (s : State) : Host.Outcome State Fault Refusal :=
  live s fun s => runCmd s c { pf0 := true, group := 0x16, verb := 1 } none true fun s =>
    let cs : List Ctr := [.ageDiscards, .noRouteDiscards, .unanswered, .rerouted, .escMoves, .ctAborts, .reserveShort]
    complete s (cmdRef c) stOk 0 (cs.flatMap fun k => leBytes 8 (ctr s k))

/-! ## Host buckets (R697 to R699) -/

/-- A held request leaves its bucket: its cost is taken, its link credit goes back, and order decides on it (R697, R698). -/
def releaseHead (port : Nat) (s : State) (id : Nat) : State :=
  match kfind s.ing.outs id with
  | none => s
  | some o =>
    let b := bucketNow s port
    let b' : Bucket := { b with level := b.level - bucketCost o.p, queue := b.queue.filter (· ≠ id) }
    let s := { s with buckets := kset s.buckets port b' }
    bucketOut s id

/-- Ns until a bucket holds at least 0. -/
def bucketWait (s : State) (port : Nat) : Nat :=
  let b := bucketNow s port
  if 0 ≤ b.level then 0 else ceilDiv b.level.natAbs (max 1 (bucketRate s port))

/-- BUCKET_RELEASE (R697, R698): the oldest held request of a port, once its bucket holds at least 0. -/
def execBucketRelease (port : Nat) (s : State) : Host.Outcome State Fault Refusal :=
  live s fun s =>
    match (bucketNow s port).queue with
    | [] => s
    | id :: _ => settle hooks (releaseHead port (untilTime s (s.clk + bucketWait s port)) id)

/-- BUCKET_OVERRIDE (R699): the first request that has been held for half its age limit goes, with all ahead of it. -/
def execBucketOverride (port : Nat) (s : State) : Host.Outcome State Fault Refusal :=
  live s fun s =>
    let q := (bucketNow s port).queue
    let due := fun id => ((kfind s.ing.outs id).map fun o => o.arrived + ageLimit s o.p.tc.toNat / 2).getD s.clk
    match minBy due q with
    | none => s
    | some id =>
      let s := bump (untilTime s (due id)) .bucketOverrides
      settle hooks ((q.takeWhile (· ≠ id) ++ [id]).foldl (releaseHead port) s)

/-! ## Shapers and gates -/

/-- SHAPE_SET_PART (R693): the class, and the record. -/
def execShapeSetPart (c : Cmd) (s : State) : Host.Outcome State Fault Refusal :=
  live s fun s => runCmd s c { pf0 := true, group := 0x13, verb := 1, args := [(0, 4), (8, 8)], acts := .field } none true fun s =>
    let tc := arg c 0 4
    let v := arg c 8 8
    let rate := bits v 1 20
    let burst := bits v 21 16
    let key := 8 * c.partition.toNat + tc
    if !decide (3 ≤ tc ∧ tc ≤ 7) || !decide (1 ≤ rate ∧ rate ≤ 1000000) || burst = 0 || decide (2 ^ 37 ≤ v) then
      complete s (cmdRef c) stMalformed 0 []
    else
      let old := kfind s.shape.l2 key
      let full := burst * 1000000
      let x : Shape2 := { rateKpps := rate, burst := burst, at_ := s.clk, tokens := match old with
        | some o => min full (l2Tokens s o)
        | none => full }
      let l2 := if bits v 0 1 = 1 then kset s.shape.l2 key x else kdel s.shape.l2 key
      complete { s with shape := { s.shape with l2 := l2 } } (cmdRef c) stOk 0 []

/-- SHAPE_STATS (R723). -/
def execShapeStats (c : Cmd) (s : State) : Host.Outcome State Fault Refusal :=
  live s fun s => runCmd s c { pf0 := true, group := 0x13, verb := 2 } none true fun s =>
    let cs : List Ctr := [.hostHolds, .bucketOverrides, .shaperWaitNs, .gateWaitNs, .gateOverruns, .timeSteps, .upstreamChanges]
    complete s (cmdRef c) stOk 0 (cs.flatMap fun k => leBytes 8 (ctr s k))

/-- An entry of a gate list, where it breaks no rule of R701 and R702. -/
def gateEntry (b : List Byte) : Option GateEntry :=
  let t := leField b 0 1
  let g := leField b 1 2
  let m := leField b 3 1
  let e : GateEntry := { tcOpen := t / 8, groupOpen := g % 2 ^ 15, mode := m % 4, dur := leField b 4 4 }
  if t % 8 ≠ 0 ∨ 2 ^ 15 ≤ g ∨ 3 ≤ m ∨ (m = 2 ∧ t / 8 ≠ 0) then none else some e

/-- A list of so many entries. -/
def gateEntries (b : List Byte) : Nat → Option (List GateEntry)
  | 0 => some []
  | n + 1 => match gateEntry (b.take 8), gateEntries (b.drop 8) n with
    | some e, some r => some (e :: r)
    | _, _ => none

/-- GATE_SET (R705 to R707): port, entries, CYCLE_NS, BASE_TIME, CHANGE_TIME; the list waits for its change. -/
def execGateSet (c : Cmd) (s : State) : Host.Outcome State Fault Refusal :=
  live s fun s => runCmd s c { pf0 := true, group := 0x14, verb := 1, host := true,
                               args := [(0, 4), (4, 4), (8, 4), (16, 8), (24, 8)] } none true fun s =>
    let p := arg c 0 4
    let n := arg c 4 4
    let cycle := arg c 8 4
    let r := cmdRef c
    let list := (c.host.getD []).take (8 * n)
    if 128 ≤ p ∨ 256 < n ∨ ¬(1000 ≤ cycle ∧ cycle ≤ 1000000000) ∨ list.length < 8 * n then complete s r stMalformed 0 []
    else match gateEntries list n with
      | none => complete s r stMalformed 0 []
      | some es =>
        let g := kget s.shape.gates p { cur := { entries := [], cycle := 1000, base := 0 } }
        if g.next.isSome then complete s r stRetry 0 []
        else
          let l : GateList := { entries := es, cycle := cycle, base := arg c 16 8 }
          -- a change time that has passed: the first cycle start from now on
          let at_ := cycleStart l (max (arg c 24 8) s.ftime.toNat)
          let g' : Gate := { g with next := some (l, at_, r) }
          { s with shape := { s.shape with gates := kset s.shape.gates p g' } }

/-- GATE_LIST_SWITCH (R705): a waiting list takes effect, and its command completes. -/
def execGateListSwitch (p : Nat) (s : State) : Host.Outcome State Fault Refusal :=
  live s fun s =>
    match kfind s.shape.gates p with
    | none => s
    | some g =>
      match g.next with
      | none => s
      | some (l, t, r) =>
        let s := untilFabric s t
        complete { s with shape := { s.shape with gates := kset s.shape.gates p { cur := l } } } r stOk 0 []

/-- GATE_ENTRY_CHANGE (R706): the next instant at which the entry in force changes comes. -/
def execGateEntryChange (p : Nat) (s : State) : Host.Outcome State Fault Refusal :=
  live s fun s =>
    match (kfind s.shape.gates p).bind fun g => gateNext s g.cur with
    | none => s
    | some t => untilFabric s t

/-! ## Fabric time -/

/-- TIME_SET (R709, R719): the origin of fabric time at a root that has never been LOCKED; with a 1PPS input it names the first
second. -/
def execTimeSet (c : Cmd) (s : State) : Host.Outcome State Fault Refusal :=
  live s fun s => runCmd s c { pf0 := true, group := 0x15, verb := 1, args := [(0, 8)] } none true fun s =>
    let t := arg c 0 8
    if s.tk.source = some .pps then complete (modTk s fun k => { k with nextPps := some t }) (cmdRef c) stOk 0 []
    else if s.tk.everLocked then complete s (cmdRef c) stDenied 0 []
    else complete { s with ftime := BitVec.ofNat 64 t } (cmdRef c) stOk 0 []

/-- TIME_SET_SOURCE (R711, R718): FREE 0, PPS 1, PTP 2 on a gateway logical port. -/
def execTimeSetSource (c : Cmd) (s : State) : Host.Outcome State Fault Refusal :=
  live s fun s => runCmd s c { pf0 := true, group := 0x15, verb := 2, args := [(0, 4), (4, 4)] } none true fun s =>
    let k := arg c 0 4
    let n := arg c 4 4
    if 2 < k ∨ (k = 2 ∧ ((lportOf s n).gw.isNone ∨ 512 ≤ n)) ∨ (k ≠ 2 ∧ n ≠ 0) then complete s (cmdRef c) stMalformed 0 []
    else
      let src : TimeSource := if k = 0 then .free else if k = 1 then .pps else .ptp n
      let s := modTk s fun t => { t with source := some src, depth := 0, onBackup := false, st := .acquiring, inRow := 0,
                                         outRow := 0 }
      complete (rootLock s) (cmdRef c) stOk 0 []

/-- TIME_SET_UPSTREAM (R713): the port followed and its backup, 0xFFFF_FFFF for none. -/
def execTimeSetUpstream (c : Cmd) (s : State) : Host.Outcome State Fault Refusal :=
  live s fun s => runCmd s c { pf0 := true, group := 0x15, verb := 3, args := [(0, 4), (4, 4)] } none true fun s =>
    let a := arg c 0 4
    let b := arg c 4 4
    let none_ := 2 ^ 32 - 1
    let ok := fun n => decide (n < 512) && facesSwitch s n
    if !ok a || !(b = none_ || (ok b && b ≠ a)) then complete s (cmdRef c) stMalformed 0 []
    else
      complete (modTk s fun t => { t with source := none, upstream := some a, onBackup := false,
                                          backup := if b = none_ then none else some b, inRow := 0, outRow := 0,
                                          st := if t.st = .unset then .unset else .acquiring }) (cmdRef c) stOk 0 []

/-- TIME_SYNC_TIMER (R714): TIME_SYNC and then TIME_FOLLOW leave on a port that an exchange runs on, INTERVAL_US after the
last. -/
def execTimeSyncTimer (n : Nat) (s : State) : Host.Outcome State Fault Refusal :=
  live s fun s =>
    if (lportOf s n).link ≠ .active || !facesSwitch s n || (lportOf s n).disc ≠ .known then s
    else
      let x := kget s.tk.exch n {}
      let s := match x.sent with
        | some (_, t) => untilFabric s (t + regField s rTimeCfg 0 10 * usNs)
        | none => s
      let seq := (kget s.tk.exch n {}).txSeq
      let s := sendLink (syncSent s n) 0x8E n (leBytes 16 seq)
      sendLink s 0x8F n (followPayload s n)

/-- PPS_EDGE (R711, R718): the 1PPS input marks a second; the root's offset from it steps or slews fabric time. -/
def execPpsEdge (s : State) : Host.Outcome State Fault Refusal :=
  live s fun s =>
    let s := modTk s fun t => { t with ppsOk := true }
    if s.tk.source ≠ some .pps then s
    else
      let near := (s.ftime.toNat + 500000000) / 1000000000 * 1000000000
      let mark := s.tk.nextPps.getD near
      let offset := timeDiff s.ftime.toNat mark
      let s := correct (modTk s fun t => { t with offset := offset, nextPps := none }) offset
        (s.tk.nextPps.isSome || decide (1000 < offset.natAbs))
      rootLock s

/-- TIME_REF_LOST (R711, R718): the PPS input (true) or the 10 MHz input (false) misses its limit. -/
def execTimeRefLost (pps : Bool) (s : State) : Host.Outcome State Fault Refusal :=
  live s fun s =>
    let s := modTk s fun t => if pps then { t with ppsOk := false } else { t with t10mOk := false }
    if s.tk.source = some .pps then timeLost s else s

/-- TIME_REF_RESTORED: a root in HOLDOVER acquires again (R718). -/
def execTimeRefRestored (pps : Bool) (s : State) : Host.Outcome State Fault Refusal :=
  live s fun s =>
    let s := modTk s fun t => if pps then { t with ppsOk := true } else { t with t10mOk := true }
    if s.tk.source = some .pps && s.tk.st = .holdover && refValid s then
      modTk s fun t => { t with st := .acquiring, inRow := 0, outRow := 0 }
    else if s.tk.source = some .pps then rootLock s else s

/-- PPS_OUT (R938): TIME_PPS_OUT pulses at the next whole second of fabric time; it stays low while the time state is
UNSET. -/
def execPpsOut (s : State) : Host.Outcome State Fault Refusal :=
  live s fun s =>
    let t := s.ftime.toNat / 1000000000 + 1
    let s := untilFabric s (t * 1000000000)
    if s.tk.st = .unset then s else emit s (.ppsOut t)

/-- PTP_FRAME (R712): at the slave port an exchange of IEEE 1588 gives its offset; other gateway ports discard it. -/
def execPtpFrame (n : Nat) (offset : Int) (s : State) : Host.Outcome State Fault Refusal :=
  live s fun s =>
    if (lportOf s n).gw.isNone then s
    else if s.tk.source ≠ some (.ptp n) then bump s (.gwDiscard n)
    else
      let far := decide (1000 < offset.natAbs)
      let s := correct (modTk s fun t => { t with offset := offset }) offset (far || s.tk.st = .acquiring)
      let s := if s.tk.st = .holdover then modTk s fun t => { t with st := .acquiring } else s
      rootLock s

end Sys2Proof.Machine
end

