-- ==== Sys2Proof/Machine/HysCore.lean ====
section
/-! DEFINITION. Machine/HysCore.lean: the Hyser registers, queue pairs, doorbells and completions, and what a write of any
register of BAR0 does (20_hyser_interface.md R828 to R860). -/
namespace Sys2Proof.Machine

/-! ## Function state (R831, R836, R840) -/

/-- Queue pairs and MSI-X entries of a function (R832). -/
def qpairs (fn : Nat) : Nat := if fn = 0 then 64 else 8
def vectors (fn : Nat) : Nat := if fn = 0 then 66 else 8

/-- The management port carries requests: its link is up (R909, R914). -/
def mgmtUp (s : State) : Bool :=
  s.boot.perstMgt && (s.boot.phase = .recovery || s.boot.phase = .rails || s.boot.phase = .ready)

/-- A queue pair. -/
def qpOf (s : State) (fn q : Nat) : Qp := kget (fnOf s fn).qps q {}

/-- Change a queue pair. -/
def modQp (s : State) (fn q : Nat) (f : Qp → Qp) : State :=
  modFn s fn fun x => { x with qps := kset x.qps q (f (kget x.qps q {})) }

/-- HYS_STATUS.ACCESS_ERROR and CFG_REJECT of a function (R833, R836). -/
def accessError (s : State) (fn : Nat) : State := modFn s fn fun x => { x with accessError := true }
def cfgReject (s : State) (fn : Nat) : State := modFn s fn fun x => { x with cfgReject := true }

/-- EN of a queue pair is set: it runs, from the start of its queues in its first phase (R840). -/
def qpStart (s : State) (fn q : Nat) : State :=
  modQp s fn q fun x => { x with en := true, ready := true, error := false, sqHead := 0, sqTail := 0, cqHead := 0, cqTail := 0,
                                 phase := true, unsignalled := 0 }

/-- EN of a queue pair is cleared: fetching stops, and its completions are dropped (R840); ERROR clears (R836). -/
def qpStop (s : State) (fn q : Nat) : State :=
  if !(qpOf s fn q).en then s
  else orphan (modQp s fn q fun x => { x with en := false, ready := false, error := false, unsignalled := 0 }) fn (· = q)

/-- HYS_CTRL.QRESET (R836): EN of every queue pair and of the event queue is cleared. -/
def qreset (s : State) (fn : Nat) : State :=
  let s := ((fnOf s fn).qps.map (·.1)).foldl (fun s q => qpStop s fn q) s
  if fn = 0 then { s with hys := { s.hys with evq := { s.hys.evq with en := false } } } else s

/-! ## Queue errors, doorbells, interrupts (R837, R841, R842) -/

/-- A queue pair stops with ERROR and is reported (R841, R984). -/
def qpError (s : State) (fn q cause : Nat) : State :=
  reportQueueError (modQp s fn q fun x => { x with error := true, ready := false }) fn q cause

/-- A doorbell write (R837, R841): the fields given. -/
def doorbell (s : State) (fn q : Nat) (tail head : Option Nat) : State :=
  let x := qpOf s fn q
  if qpairs fn ≤ q || !x.en || x.error then s
  else
    let t := tail.getD x.sqTail % 4096
    let h := head.getD x.cqHead % 4096
    let n := 2 ^ x.cqLog2
    if 2 ^ x.sqLog2 ≤ t ∨ n ≤ h then qpError s fn q 1
    else if (x.cqTail + n - x.cqHead) % n < (h + n - x.cqHead) % n then qpError s fn q 2
    else modQp s fn q fun x => { x with sqTail := t, cqHead := h }

/-- The MSI-X message of a queue pair's vector (R842). -/
def signal (s : State) (fn q : Nat) : State :=
  emit (modQp s fn q fun x => { x with unsignalled := 0 }) (.msix fn (qpOf s fn q).vector)

/-- The completion entry (R850). -/
def queueEntry (x : Qp) (d : Completion) : List Byte :=
  leBytes 16 d.result ++ leBytes 2 d.status ++ leBytes 2 d.cid.toNat ++ leBytes 2 (d.sqHead % 4096) ++
  leBytes 2 (if x.phase then 2 ^ 15 else 0) ++ leBytes 8 d.time

/-- Write one completion: output first, then the entry, then the message (R840, R842, R846, R858). Output that could not be
written turns the status into HOST_FAULT (R851). -/
def writeCompletion (s : State) (fn : Nat) (d : Completion) (outOk : Bool) : State :=
  let x := qpOf s fn d.qp
  let n := 2 ^ x.cqLog2
  let lost := !outOk && !d.out.isEmpty
  let d := if lost then { d with status := stHostFault } else d
  let s := if d.out.isEmpty || lost then s else emit s (.hostWrite d.addr d.out)
  let s := emit s (.hostWrite (x.cqBase * 4096 + 32 * x.cqTail) (queueEntry x d))
  let t := (x.cqTail + 1) % n
  let s := modQp s fn d.qp fun x => { x with cqTail := t, phase := if t = 0 then !x.phase else x.phase,
                                             unsignalled := x.unsignalled + 1,
                                             oldest := if x.unsignalled = 0 then s.clk else x.oldest }
  let x := qpOf s fn d.qp
  if x.ien && (decide (x.coalCount ≤ x.unsignalled) || x.coalUs = 0) then signal s fn d.qp else s

/-- The completion queue has a free entry (R837). -/
def cqRoom (x : Qp) : Bool := decide ((x.cqTail + 1) % 2 ^ x.cqLog2 ≠ x.cqHead % 2 ^ x.cqLog2)

/-! ## Fetching (R838, R839, R852) -/

/-- Commands of a function in progress: fetched, and their completion entry not written (R838). -/
def inProgress (s : State) (fn : Nat) : Nat := (fnOf s fn).inFlight.length + (fnOf s fn).done.length

/-- A queue pair has a descriptor to fetch and may be visited (R838). -/
def qpReady (s : State) (fn q : Nat) : Bool :=
  let x := qpOf s fn q
  x.en && !x.error && decide (x.sqHead ≠ x.sqTail) && decide (inProgress s fn < 256) && fnExists s fn

/-- The next ready queue pair of PF0 after the one visited last. -/
def nextPf (s : State) : Option Nat :=
  let l := (natRange 0 64).filter (qpReady s 0)
  (l.find? fun q => decide (s.hys.pfLast < q)).or l.head?

/-- The next ready queue pair of the virtual functions after the one visited last, by 8 × VF + queue. -/
def nextVf (s : State) : Option Nat :=
  let l := (s.hys.fns.filter fun e => e.1 ≠ 0).flatMap fun e =>
    ((natRange 0 8).filter (qpReady s e.1)).map fun q => 8 * e.1 + q
  (l.find? fun k => decide (s.hys.vfLast < k)).or l.head?

/-- The queue pair that the fetcher visits next, and the state with the rotation moved (R839). -/
def visit (s : State) : Option (State × Nat × Nat) :=
  let total := s.hys.fns.foldl (fun n e => n + inProgress s e.1) 0
  if 16384 ≤ total then none
  else
    let pf := (nextPf s).map fun q => ({ s with hys := { s.hys with pfTurn := false, pfLast := q } }, 0, q)
    let vf := (nextVf s).map fun k => ({ s with hys := { s.hys with pfTurn := true, vfLast := k } }, k / 8, k % 8)
    if s.hys.pfTurn then pf.or vf else vf.or pf

/-- GROUP and VERB are in the catalogue (R853). -/
def listed (group verb : Nat) : Bool :=
  let last := [0, 1, 6, 5, 6, 3, 1, 6, 12, 5, 2, 5, 3, 10, 5, 10, 7, 3, 5, 2, 1, 3, 1, 2, 1, 1, 3, 3]
  decide (1 ≤ verb ∧ verb ≤ last.getD group 0)

/-- What a descriptor's bytes say of a command before its own row carries it out (R844, R852 checks 1 and 2). -/
def fetchedEntry (fn q head : Nat) (b : List Byte) : InFlight :=
  let g := leField b 0 1
  let v := leField b 1 1
  let rsv := leField b 4 1 / 4 ≠ 0 || leField b 6 2 / 1024 ≠ 0 || leField b 8 4 / 4096 ≠ 0 || (fn ≠ 0 && leField b 6 2 ≠ 0)
  { qp := q, cid := BitVec.ofNat 16 (leField b 2 2), fence := (leField b 4 1).testBit 0, started := false, sqHead := head,
    group := g, verb := v,
    unknown := if listed g v then none else some (if rsv then stMalformed else stUnsupported) }

/-- A visit of the fetcher reads a descriptor (R839, R841): one that cannot be read stops the queue pair. -/
def fetch (s : State) (desc : Option (List Byte)) : State :=
  match (if s.ras.cores.any (·.live) then visit s else none) with
  | none => s
  | some (s, fn, q) =>
    let x := qpOf s fn q
    let head := (x.sqHead + 1) % 2 ^ x.sqLog2
    match desc with
    | none => qpError s fn q 3
    | some b =>
      let s := modQp s fn q fun x => { x with sqHead := head }
      modFn (markBusy s) fn fun f => { f with inFlight := f.inFlight ++ [fetchedEntry fn q head b] }

/-! ## Writes of the Hyser registers (R836) -/

/-- A write of QP_CFG_q. -/
def writeQpCfg (s : State) (fn q v : Nat) : State :=
  let x := qpOf s fn q
  let en := v % 2 = 1
  let sq := bits v 1 4
  let cq := bits v 5 4
  let vec := bits v 9 7
  let count := bits v 17 8
  let us := bits v 25 10
  if 12 < sq ∨ 12 < cq ∨ vectors fn ≤ vec ∨ count = 0 ∨ 1000 < us ∨ (x.en ∧ (sq ≠ x.sqLog2 ∨ cq ≠ x.cqLog2)) ∨
      (en ∧ (sq = 0 ∨ cq = 0)) then cfgReject s fn
  else
    let was := x.en
    let s := if was && !en then qpStop s fn q else s
    let s := modQp s fn q fun x => { x with sqLog2 := sq, cqLog2 := cq, vector := vec, ien := (v / 65536) % 2 = 1,
                                            coalCount := count, coalUs := us }
    if !was && en then qpStart s fn q else s

/-- A write of a queue's base. -/
def writeQpBase (s : State) (fn q v : Nat) (cq : Bool) : State :=
  let x := qpOf s fn q
  let b := v / 4096
  if x.en ∧ b ≠ (if cq then x.cqBase else x.sqBase) then cfgReject s fn
  else modQp s fn q fun x => if cq then { x with cqBase := b } else { x with sqBase := b }

/-- A write of EVQ_CFG. -/
def writeEvqCfg (s : State) (v : Nat) : State :=
  let e := s.hys.evq
  let en := v % 2 = 1
  let n := bits v 1 4
  let vec := bits v 5 7
  if 12 < n ∨ 66 ≤ vec ∨ (e.en ∧ n ≠ e.log2) ∨ (en ∧ n = 0) then cfgReject s 0
  else
    let e' : Evq := { e with en := en, log2 := n, vector := vec }
    let e' : Evq := if en && !e.en then { e' with tail := 0, phase := true } else e'
    { s with hys := { s.hys with evq := e' } }

/-- A write of EVQ_BASE. -/
def writeEvqBase (s : State) (v : Nat) : State :=
  if s.hys.evq.en ∧ v / 4096 ≠ s.hys.evq.base then cfgReject s 0
  else { s with hys := { s.hys with evq := { s.hys.evq with base := v / 4096 } } }

/-- A write of HYS_STATUS: its W1C bits (R18). -/
def writeHysStatus (s : State) (fn v : Nat) : State :=
  modFn s fn fun x => { x with evqOverflow := x.evqOverflow && !v.testBit 3, cfgReject := x.cfgReject && !v.testBit 4,
                               accessError := x.accessError && !v.testBit 5 }

/-! ## The recovery mailbox (R861, R862) -/

/-- Change the mailbox. -/
def modMbx (s : State) (f : Mbx → Mbx) : State := { s with boot := { s.boot with mbx := f s.boot.mbx } }

/-- A chunk or a delivery is done: ERR, DONE, and the mailbox's message (R861, R862). -/
def mbxDone (s : State) (err : Nat) : State :=
  emit (modMbx s fun m => { m with busy := false, done := true, err := err }) (.msix 0 65)

/-- A write of MBX_CTRL. -/
def mbxWrite (s : State) (v : Nat) : State :=
  let m := s.boot.mbx
  let len := bits v 3 17
  let off := bits v 32 26
  if m.busy then s
  else if v.testBit 2 then
    if s.boot.phase = .recovery then mbxDone (modMbx s fun m => { m with staged := [] }) 6 else s
  else if !v.testBit 0 then s
  else if s.boot.phase ≠ .recovery then mbxDone s 5
  else if off ≠ m.staged.length ∨ len = 0 ∨ 65536 < len then mbxDone s 1
  else if 64 * MiB < off + len then mbxDone s 2
  else
    let s := modMbx s fun m => { m with staged := m.staged ++ readBytes m.data 0 len }
    if v.testBit 1 then modMbx s fun m => { m with busy := true, done := false, err := 0 } else mbxDone s 0

/-! ## Ports (R601, R626, R640, R880) -/

/-- EN of a fabric port is set: each of its logical ports leaves electrical idle and trains, but in a fenced region (R778). -/
def portOn (s : State) (p : Nat) : State :=
  (lportsOf s p).foldl (fun s n => setLink s n (if isFenced s (p / 8) then .down else .detect)) s

/-- EN of a fabric port is cleared: its lanes go idle, and its logical ports are DISABLED. -/
def portOff (s : State) (p : Nat) : State :=
  (lportsOf s p).foldl (fun s n => if (lportOf s n).link = .disabled then s else leaveUp 8 s n .disabled) s

/-- A write of PORT_CFG_p (R601). -/
def writePortCfg (s : State) (p v : Nat) : State :=
  let old := regWord s (rPort p)
  let v := v % 32
  let bad := bits v 1 2 = 3 || (v.testBit 3 && decide (p < 96)) || (old.testBit 0 && bits v 1 3 ≠ bits old 1 3)
  if bad then setField s (rPortStatus p) 21 1 1
  else
    let s := if old.testBit 0 && !v.testBit 0 then portOff s p else s
    let s := { s with cfg := kset s.cfg (rPort p) v }
    if !old.testBit 0 && v.testBit 0 && s.ras.halt = 0 then portOn s p else s

/-! ## Registers whose writes do more (R136, R141, R142, R691, R700, R955, R959, R971) -/

/-- A write of POOL_HEAT_CFG: a new PERIOD_LOG2 starts a new period (R136). -/
def writePoolHeat (s : State) (v : Nat) : State :=
  let old := regField s rPoolHeat 0 4
  let s := writeReg s rPoolHeat v
  if regField s rPoolHeat 0 4 = old then s else { s with mem := { s.mem with periodAt := s.clk } }

/-- A write of POOL_POLICY_CFG (R141, R142): scans are timed anew, and moves are suspended or go on. -/
def writePoolPolicy (s : State) (v : Nat) : State :=
  let t := writeReg s rPoolPolicy v
  if regField t rPoolPolicy 24 8 < regField t rPoolPolicy 16 8 then setField s rPoolMode 1 1 1
  else
    let was := regField s rPoolPolicy 0 10
    let now := regField t rPoolPolicy 0 10
    let next : Option Time :=
      if now = was then t.mem.nextScan
      else if now = 0 then none
      else if was = 0 then some (t.clk + now * msNs)
      else some (max t.clk (t.mem.scanAt + now * msNs))
    let go := regField t rPoolPolicy 10 6 ≠ 0
    -- suspended moves resume where they stopped, and a bind whose moves are in progress is abandoned at once (R142, R434)
    settle hooks { t with mem := { t.mem with
        nextScan := next
        moves := t.mem.moves.map fun (e : Nat × Move) => if go then (e.1, { e.2 with suspended := false }) else e } }

/-- A write of HOST_BUCKET_n (R696, R700): the bucket is refilled at its old rate first; a bucket that is set starts full, and
one that is cleared holds nothing any more. -/
def writeBucket (s : State) (n v : Nat) : State :=
  let was := regField s (rBucket n) 0 1
  let b := bucketNow s n
  let s := writeReg { s with buckets := kset s.buckets n b } (rBucket n) v
  let now := regField s (rBucket n) 0 1
  if was = 0 ∧ now = 1 then { s with buckets := kset s.buckets n { b with level := bucketFull s n } }
  else if was = 1 ∧ now = 0 then settle hooks (b.queue.foldl (releaseHead n) s)
  else s

/-- A write of SHAPE_L1_i (R688, R691, R692): the credit grows at its old rate first; it is full when EN is set. -/
def writeShape (s : State) (i v : Nat) : State :=
  let was := regField s (rShape i) 0 1
  let c := l1Credit s (i / 8) (i % 8)
  let s := writeReg { s with shape := { s.shape with l1 := kset s.shape.l1 i (c, s.clk) } } (rShape i) v
  if was = 0 ∧ regField s (rShape i) 0 1 = 1 then { s with shape := { s.shape with l1 := kdel s.shape.l1 i } } else s

/-- A write of LANTERN_CFG (R959): RING_LOG2 stays while EN is 1; a MIRROR_OFFSET that is not 64 KiB aligned is out of range (log entry
125); clearing EN clears STOPPED. -/
def writeLantern (s : State) (v : Nat) : State :=
  let en := regField s rLantern 0 1
  if (en = 1 ∧ bits v 1 4 ≠ regField s rLantern 1 4) ∨ bits v 16 16 ≠ 0 then setField s rLanternStatus 34 1 1
  else
    let s := writeReg s rLantern v
    let s := if en = 1 ∧ regField s rLantern 0 1 = 0 then setField s rLanternStatus 33 1 0 else s
    { s with lan := { s.lan with ring := s.lan.ring.drop (s.lan.ring.length - ringSize s) } }

/-- A write of LANTERN_FILTER_f (R955): its count starts at 0 when EN is set. -/
def writeFilter (s : State) (f v : Nat) : State :=
  let was := regField s (rFilter f) 0 1
  let s := writeReg s (rFilter f) v
  if was = 0 ∧ regField s (rFilter f) 0 1 = 1 then { s with lan := { s.lan with matched := kdel s.lan.matched f } } else s

/-- A write of DEBUG_POLICY (R971): a change is recorded for measurement 4. -/
def writeDebugPolicy (s : State) (v : Nat) : State :=
  let was := regWord s rDebugPolicy
  let s := writeReg s rDebugPolicy v
  if regWord s rDebugPolicy = was then s
  else { s with sec := { s.sec with policyLog := s.sec.policyLog ++ [regWord s rDebugPolicy] } }

/-! ## A whole write of a register (R832) -/

/-- The instance number of an offset in an array of n registers a stride apart. -/
def regInst (off base stride n : Nat) : Option Nat :=
  if base ≤ off ∧ off < base + stride * n ∧ (off - base) % stride = 0 then some ((off - base) / stride) else none

/-- A register's value is written whole, by a function and the offset of the register. Before READY only the mailbox and the
status bits of HYS_STATUS work (R836 RECOVERY). -/
def writeWhole (s : State) (fn off v : Nat) : State :=
  if off = 0x10 then writeHysStatus s fn v
  else if fn = 0 ∧ off = 0x2000 then mbxWrite s v
  else if fn = 0 ∧ off = 0x2008 then modMbx s fun m => { m with done := m.done && !v.testBit 1 }
  else if !running s then s
  else if off = 0x08 then (if v.testBit 0 then qreset s fn else s)
  else if off < 0x1000 then
    match regInst off 0x100 32 (qpairs fn), regInst off 0x108 32 (qpairs fn), regInst off 0x110 32 (qpairs fn) with
    | some q, _, _ => writeQpBase s fn q v false
    | _, some q, _ => writeQpBase s fn q v true
    | _, _, some q => writeQpCfg s fn q v
    | _, _, _ =>
      if fn ≠ 0 then s
      else if off = 0x40 then writeEvqBase s v
      else if off = 0x48 then writeEvqCfg s v
      else if off = 0x50 then { s with hys := { s.hys with evq := { s.hys.evq with head := v % 4096 } } }
      else s
  else if fn ≠ 0 then s
  else if off = rPoolHeat then writePoolHeat s v
  else if off = rPoolPolicy then writePoolPolicy s v
  else if off = rLantern then writeLantern s v
  else if off = rDebugPolicy then writeDebugPolicy s v
  else match regInst off (rPort 0) 8 128, regInst off (rBucket 0) 8 516, regInst off (rShape 0) 8 4096, regInst off (rFilter 0) 16 16 with
    | some p, _, _, _ => writePortCfg s p v
    | _, some n, _, _ => writeBucket s n v
    | _, _, some i, _ => if 3 ≤ i % 8 then writeShape s i v else s
    | _, _, _, some f => writeFilter s f v
    | _, _, _, _ => writeReg s off v

/-! ## Accesses of BAR0 (R832, R833) -/

/-- Width in bits of the register at an offset of a function's BAR0 and the register's own offset: none where nothing lies. -/
def regAt (fn off : Nat) : Option (Nat × Nat) :=
  let b := off / 8 * 8
  if fn ≠ 0 ∧ 0x4000 ≤ off then none
  else if b = 0 then some (b, 64)
  else if b = 0x08 ∨ b = 0x10 ∨ b = 0x18 then some (b, 32)
  else if 0x100 ≤ b ∧ b < 0x100 + 32 * qpairs fn then some (b, 64)
  else if 0x1000 ≤ b ∧ b < 0x1000 + 8 * qpairs fn then some (b, 64)
  else if fn ≠ 0 then none
  else if b = 0x40 ∨ b = 0x2000 then some (b, 64)
  else if b = 0x48 ∨ b = 0x50 ∨ b = 0x2008 then some (b, 32)
  else if b = rFtime ∨ (0x180000 ≤ b ∧ b < 0x180000 + 8 * 32768) then some (b, 64)
  else match regSpec b, regSpec (off / 16 * 16) with
    | some r, _ => some (b, r.width)
    | none, some r => if r.width = 128 then some (off / 16 * 16, 128) else none
    | none, none => none

/-- A register whose upper half is written holds no low half any more (R833). -/
def dropLow (s : State) (fn b : Nat) : State :=
  if (kfind (fnOf s fn).lowHalf b).isNone then s else modFn s fn fun x => { x with lowHalf := kdel x.lowHalf b }

/-- A write access of a function's BAR0 (R832, R833, R883). -/
def writeBar (s : State) (fn off size v : Nat) : State :=
  let s := wakeChip s
  let v := v % 2 ^ (8 * size)
  if (size ≠ 4 ∧ size ≠ 8) ∨ off % size ≠ 0 then accessError s fn
  else if 0x3000 ≤ off ∧ off < 0x3000 + 16 * vectors fn then
    let s := modFn s fn fun x => { x with msix := kset x.msix off (v % 2 ^ 32) }
    if size = 8 then modFn s fn fun x => { x with msix := kset x.msix (off + 4) (v / 2 ^ 32) } else s
  else if fn = 0 ∧ 0x10000 ≤ off ∧ off < 0x20000 then
    modMbx s fun m => { m with data := writeBytes m.data (off - 0x10000) (leBytes size v) }
  else match regAt fn off with
    | none => s
    | some (b, w) =>
      if w = 32 then (if off = b then writeWhole s fn b (v % 2 ^ 32) else s)
      else if 0x1000 ≤ b ∧ b < 0x2000 then
        let q := (b - 0x1000) / 8
        if !running s then s
        else if size = 8 then doorbell s fn q (some v) (some (v / 2 ^ 32))
        else if off = b then doorbell s fn q (some v) none
        else doorbell s fn q none (some v)
      else if w = 64 ∧ size = 8 then writeWhole (dropLow s fn b) fn b v
      else if w = 128 ∧ size = 4 then accessError s fn
      else if off = b then modFn s fn fun x => { x with lowHalf := kset x.lowHalf b v }
      else match kfind (fnOf s fn).lowHalf b with
        | none => accessError s fn
        | some low =>
          writeWhole (dropLow s fn b) fn b (low + v * 2 ^ (8 * size))

/-! ## What registers read as -/

/-- A routing table entry (R667). -/
def routeWord : Option Route → Nat
  | none => 0
  | some r =>
    let hop := fun (i : Nat) => match r.hops.getD i none with
      | some n => (n + 2 ^ 9) * 2 ^ (4 + 12 * i)
      | none => 0
    1 + (if r.local_ then 2 else 0) + hop 0 + hop 1 + hop 2 + hop 3 +
      (match r.esc with | some n => (n + 2 ^ 9) * 2 ^ 52 | none => 0)

def Chip.code : Chip → Nat
  | .lit => 0 | .trimmed => 1 | .hooded => 2 | .banked => 3 | .pilot => 4

def LinkState.code : LinkState → Nat
  | .disabled => 0 | .detect => 1 | .equalize => 2 | .identify => 3 | .config => 4 | .active => 5 | .retrain => 6
  | .lowPower => 7 | .down => 8 | .quarantined => 9

def flag (b : Bool) : Nat := if b then 1 else 0

/-- HYS_STATUS of a function (R836). -/
def hysStatus (s : State) (fn : Nat) : Nat :=
  let x := fnOf s fn
  flag (running s) + 2 * flag (s.boot.phase = .recovery || s.boot.phase = .rails) + 4 * flag (decide (s.ras.halt ≠ 0)) +
  8 * flag x.evqOverflow + 16 * flag x.cfgReject + 32 * flag x.accessError + 2 ^ 16 * inProgress s fn

/-- A region's word in REGION_PWR_r (R906). -/
def regionPwrWord (s : State) (r : Nat) : Nat :=
  let x := regionPow s r
  (if isFenced s r then 3 else match x.st with | .lit => 0 | .trimmed => 1 | .banked => 2) +
  4 * (flag (x.idle && x.st = .trimmed) + 2 * flag x.cmd.isSome + 4 * flag x.cap + 8 * flag x.therm + 16 * flag x.nbr)

/-- REGION_STATUS_r (R333). -/
def regionStatusWord (s : State) (r : Nat) : Nat :=
  let w := setBits (regWord s (rRegionStatus r)) 0 10 (supplyNow s r)
  let w := setBits w 10 8 (BitVec.ofInt 8 (regionTemp s r / 8)).toNat
  setBits (setBits w 18 1 (flag (throttled s r))) 19 1 (flag (isFenced s r))

/-- TIME_STATUS (R721). -/
def timeStatusWord (s : State) : Nat :=
  let st := match s.tk.st with | .unset => 0 | .acquiring => 1 | .locked => 2 | .holdover => 3
  let off := max (-32767) (min 32767 s.tk.offset)
  setBits (regWord s rTimeStatus) 0 6 (st + 4 * s.tk.depth + 32 * flag s.tk.onBackup) + 2 ^ 16 * (BitVec.ofInt 16 off).toNat

/-- A register's value as software reads it: fields that mirror other state are taken from it (R18, R832). -/
def viewReg (s : State) (fn off : Nat) : Nat :=
  let e := s.hys.evq
  let p := s.power
  if off = 0x00 then 1 + 2 ^ 8 * qpairs fn + 2 ^ 15 * flag (fn = 0) + 2 ^ 16 * (fn - 1)
  else if off = 0x10 then hysStatus s fn
  else if off = 0x18 then (fnOf s fn).droppedCompletions + 2 ^ 16 * (fnOf s fn).droppedEvents
  else if off < 0x1000 ∧ 0x100 ≤ off then
    let q := (off - 0x100) / 32
    let x := qpOf s fn q
    if qpairs fn ≤ q then 0
    else if off % 32 = 0 then x.sqBase * 4096
    else if off % 32 = 8 then x.cqBase * 4096
    else if off % 32 = 16 then flag x.en + 2 * x.sqLog2 + 2 ^ 5 * x.cqLog2 + 2 ^ 9 * x.vector + 2 ^ 16 * flag x.ien +
      2 ^ 17 * x.coalCount + 2 ^ 25 * x.coalUs
    else flag x.ready + 2 * flag x.error + 4 * x.sqHead + 2 ^ 14 * x.cqTail + 2 ^ 26 * flag x.phase
  else if 0x3000 ≤ off ∧ off < 0x3000 + 16 * vectors fn then kget (fnOf s fn).msix off 0
  else if fn ≠ 0 then 0
  else if off = 0x40 then e.base * 4096
  else if off = 0x48 then flag e.en + 2 * e.log2 + 2 ^ 5 * e.vector
  else if off = 0x50 then e.head + 2 ^ 16 * e.tail
  else if off = 0x2008 then flag s.boot.mbx.busy + 2 * flag s.boot.mbx.done + 4 * s.boot.mbx.err +
    2 ^ 6 * ceilDiv s.boot.mbx.staged.length 64
  else if off = rFtime then s.ftime.toNat
  else if off = rTimeStatus then timeStatusWord s
  else if 0x180000 ≤ off ∧ off < 0x180000 + 8 * 32768 then routeWord (kfind s.core.routes ((off - 0x180000) / 8))
  else if off = rFabric then
    selfNode s + 2 ^ 16 * s.fm.stage + 2 ^ 32 * s.fm.keyEpoch + 2 ^ 48 * s.fm.managers.length + 2 ^ 51 * s.fm.threshold
  else if off = rRasStatus then
    bits (regWord s off) 0 1 + 2 * (s.ras.cores.filter (·.live)).length + 2 ^ 4 * s.ras.fenced.length +
    2 ^ 9 * flag (decide (s.ras.halt ≠ 0)) + 2 ^ 10 * s.ras.halt
  else if off = rPwrStatus then
    p.chip.code + 2 ^ 3 * flag p.capped + 2 ^ 4 * flag p.guard + 2 ^ 5 * flag p.inputLow + 2 ^ 6 * bits (regWord s off) 6 1 +
    2 ^ 7 * p.cause + 2 ^ 16 * p.vin + 2 ^ 32 * p.pin
  else if off = rClkStatus then
    flag p.refA + 2 * flag p.refB + 4 * p.refSel + 8 * flag s.tk.ppsOk + 16 * flag s.tk.t10mOk
  else if off = rLanternStatus then s.lan.next % 2 ^ 32 + bits (regWord s off) 32 3 * 2 ^ 32
  else if off = rSnuffer then setBits (regWord s off) 8 3 (s.sec.scrubs.filter (·.running)).length
  else match regInst off (rRegionPwr 0) 8 16, regInst off (rThermTemp 0) 8 96, regInst off (rRegionClk 0) 8 16,
      regInst off (rRegionStatus 0) 8 16, regInst off (rPortStatus 0) 8 128 with
    | some r, _, _, _, _ => regionPwrWord s r
    | _, some n, _, _, _ =>
      match kfind p.temps n with
      | some t => (BitVec.ofInt 12 t).toNat + 2 ^ 12
      | none => 0
    | _, _, some r, _, _ => setBits (regWord s off) 12 12 (clockNow s r)
    | _, _, _, some r, _ => regionStatusWord s r
    | _, _, _, _, some q =>
      setBits ((natRange 0 4).foldl (fun v l => setBits v (4 * l) 4 (lportOf s (4 * q + l)).link.code) (regWord s off)) 20 1
        (flag ((lportsOf s q).any fun n => (lportOf s n).marked))
    | _, _, _, _, _ => regWord s off

end Sys2Proof.Machine
end

