-- ==== Sys2Proof/Machine/Image.lean ====
section
/-! DEFINITION. Machine/Image.lean: the checks of a firmware bundle (22_boot_reset.md R916 to R918), and the manager list
(20_hyser_interface.md R848). -/
namespace Sys2Proof.Machine

/-- Header, section table and sections of a bundle meet R916 and R917. -/
def bundleFormOk (b : List Byte) : Bool :=
  match bundleSections b with
  | none => false
  | some l =>
    b.length % 64 = 0 && decide (0x140 ≤ b.length ∧ b.length ≤ 64 * MiB) &&
    leField b 0 4 = 0x4F4C4D42 && leField b 4 2 = 1 && leField b 6 2 = 0 && leField b 8 4 = b.length &&
    decide (leField b 0x10 4 < 4) && decide (leField b 0x14 4 < 4) && leField b 0x20 32 = 0 &&
    sectionsOk b 0x140 [1, 2, 3, 4, 5, 6, 7, 0x0E, 0x0F] [1, 2, 3, 4, 5, 6, 0x0E, 0x0F] l &&
    decide ((sectionBytes b l 1).length ≤ 2 * MiB) && (sectionBytes b l 0x0E).length = 1952 &&
    (sectionBytes b l 0x0F).length = 3328

/-- The REVISIONS bit of R916 that stands for a Revision ID. -/
def revisionBit (rev : Nat) : Nat := if rev = 0x10 then 1 else 0

/-- ERR of a bundle's verification (R918), 0 where it passes. -/
def bundleErr (part : Part) (b : List Byte) : Nat :=
  if !bundleFormOk b then 3
  else if (leField b 0x0C 2 ≠ deviceId part && leField b 0x0E 2 ≠ deviceId part) ||
      !(leField b 0x10 4).testBit (revisionBit (revisionId part)) then 4
  else if Config.shake256 32 (bundlePart b 0x0E) ≠ Config.romDigest (leField b 0x14 4) ||
      !sigOk (bundlePart b 0x0E) (b.take (b.length - 3328)) (bundlePart b 0x0F) then 3
  else if !Config.hasCurve (bundlePart b 6) ((Config.helperSerial (bundlePart b 4)).getD 0) then 3
  else 0

/-! ## Manager lists (R848, R849) -/

/-- The n records of a manager list, each 1,960 bytes. -/
def managerRecords (b : List Byte) (n : Nat) : List Manager :=
  (natRange 0 n).map fun i =>
    { key := sliceBytes b (8 + 1960 * i + 8) 1952, report := leField b (8 + 1960 * i) 2 % 2 ^ 15 }

/-- n and k of a manager list are in range and its reserved bits are 0 (R811, R849): the managers and the threshold. -/
def managerList (b : List Byte) : Option (List Manager × Nat) :=
  let h := leField b 0 8
  let n := bits h 0 3
  let k := bits h 8 3
  let rsv := (natRange 0 n).all fun i => decide (leField b (8 + 1960 * i) 8 < 2 ^ 15)
  if n = 0 ∨ k = 0 ∨ n < k ∨ h ≠ n + 2 ^ 8 * k ∨ b.length < 8 + 1960 * n ∨ !rsv then none
  else some (managerRecords b n, k)

end Sys2Proof.Machine
end

