-- ==== Sys2Proof/Machine/Boot.lean ====
section
/-! DEFINITION. Machine/Boot.lean: power-on, resets and the firmware bundle (22_boot_reset.md). -/
namespace Sys2Proof.Machine

/-! ## Cold start (R908, R912) -/

/-- Everything is cleared (R908): what stays is the part, the levels of the reset pins, and the model's own counters and record
of what happened. BOOT_ID is new (R807). -/
def coldStart (s : State) (phase : Phase) : State :=
  { State.reset with
    pending := s.pending
    freeCtr := s.freeCtr + 1
    nextId := s.nextId
    part := s.part
    clk := s.clk
    outs := s.outs
    reports := s.reports
    log := s.log
    fm := { serial := 0, bootId := (Config.freeWord s.freeCtr).toNat }
    power := { (State.reset).power with temps := s.power.temps, refA := s.power.refA, refB := s.power.refB,
                                        refSel := if s.power.refA then 0 else 1, busyAt := s.clk }
    ras := {}
    mem := { (State.reset).mem with scanAt := s.clk, nextScan := none, periodAt := s.clk }
    boot := { (State.reset).boot with
      phase := phase, sysReset := s.boot.sysReset, perstMgt := s.boot.perstMgt, hbPerst := s.boot.hbPerst,
      hbLink := [false, false, false, false], bundle := [] } }

/-- POWER_ON (R912 steps 1 to 4): the input has been within its range for 10 ms, and the ROM loader waits for a bundle. -/
def execPowerOn (s : State) : Host.Outcome State Fault Refusal :=
  if s.boot.phase = .unpowered then .next (coldStart s (if s.boot.sysReset then .recovery else .reset)) else .next s

/-- INPUT_FAIL (R869, R915): the switch is unpowered, and nothing is retained. -/
def execInputFail (s : State) : Host.Outcome State Fault Refusal := .next (coldStart s .unpowered)

/-- SYS_RESET_ASSERT (R911, R940): SYS_RESET_N has been low for 1 µs. -/
def execSysResetAssert (s : State) : Host.Outcome State Fault Refusal :=
  let s := { s with boot := { s.boot with sysReset := false } }
  if s.boot.phase = .unpowered then .next s else .next (coldStart s .reset)

/-- SYS_RESET_DEASSERT (R911): the sequence resumes at step 3 and comes to recovery. -/
def execSysResetDeassert (s : State) : Host.Outcome State Fault Refusal :=
  let s := { s with boot := { s.boot with sysReset := true } }
  if s.boot.phase = .reset then .next { s with boot := { s.boot with phase := .recovery } } else .next s

/-! ## The bundle (R918 to R922) -/

/-- BUNDLE_VERIFY_DONE (R918, R922): the bundle that LAST ended is judged. A good one is kept in the bundle store, and the rails
rise; a bad one is discarded and FAULT_N goes low. -/
def execBundleVerifyDone (s : State) : Host.Outcome State Fault Refusal :=
  let m := s.boot.mbx
  if !m.busy || s.boot.phase ≠ .recovery then .next s
  else
    let b := m.staged
    let err := bundleErr s.part b
    if err ≠ 0 then
      .next (mbxDone { s with boot := { s.boot with bundleFault := true, mbx := { m with staged := [] } } } err)
    else
      let serial := Config.helperSerial (bundlePart b 4)
      let s := { s with fm := { s.fm with serial := serial.getD 0 }, sec := { s.sec with noIdentity := serial.isNone } }
      .next (mbxDone { s with boot := { s.boot with bundle := b, bundleFault := false, phase := .rails } } 0)

/-- HBM_INIT_DONE (R912 steps 7 and 8, R913): the switch is ready. -/
def execHbmInitDone (s : State) : Host.Outcome State Fault Refusal :=
  if s.boot.phase ≠ .rails then .next s
  else
    let set := (managerList (bundlePart s.boot.bundle 7)).getD ([], 0)
    let s := (List.range 4).foldl (fun s k => if s.boot.hbPerst.getD k false then startHealth s (512 + k) else s) s
    .next { s with
      fm := { s.fm with managers := set.1, threshold := set.2 }
      mem := { s.mem with scanAt := s.clk, periodAt := s.clk, nextScan := some (s.clk + regField s rPoolPolicy 0 10 * msNs) }
      ras := { s.ras with verifyAt := s.clk }
      power := { s.power with busyAt := s.clk }
      boot := { s.boot with phase := .ready, hbLink := s.boot.hbPerst } }

/-! ## The management link (R909, R914) -/

/-- End every SPDM session and destroy its keys and the IDE keys (R734, R909). -/
def endSpdm (s : State) : State := { s with sec := { s.sec with spdm := 0, sessions := [], ide := [], bound := [] } }

/-- PERST_MGT_ASSERT (R909): every function is reset, NumVFs is 0, SPDM sessions end, every TDI is CONFIG_UNLOCKED, and a bundle
delivery in progress is abandoned. -/
def execPerstMgtAssert (s : State) : Host.Outcome State Fault Refusal :=
  let s := { s with boot := { s.boot with perstMgt := false } }
  if s.boot.phase = .unpowered || s.boot.phase = .reset then .next s
  else
    let s := ((0 :: s.hys.fns.map (·.1)).eraseDups).foldl fnReset s
    .next (endSpdm { s with
      hys := { s.hys with numVfs := 0, vfEnable := false }
      parts := s.parts.map fun (e : Nat × Partition) => (e.1, { e.2 with tdi := .unlocked }) })

/-- PERST_MGT_DEASSERT (R914): the management port may train. -/
def execPerstMgtDeassert (s : State) : Host.Outcome State Fault Refusal :=
  .next { s with boot := { s.boot with perstMgt := true } }

/-! ## Host bridges (R910) -/

/-- HB_PERST_ASSERT (R910): host bridge port k is in reset: its agent has failed, its requests' holds are released, and its
decoders' CXL-visible registers are reset. -/
def execHbPerstAssert (k : Nat) (s : State) : Host.Outcome State Fault Refusal :=
  if 4 ≤ k then .next s
  else
    let s := bridgeDown { s with boot := { s.boot with hbPerst := s.boot.hbPerst.set k false } } k
    live s fun s =>
      let s := match (lportOf s (512 + k)).node with
        | some n => nodeFails s n 2
        | none => s
      let s := releaseHolds s fun o => o.p.lport = 512 + k
      let s := match (lportOf s (512 + k)).node with
        | some n => { s with ing := { s.ing with pairs := s.ing.pairs.filter fun e => e.src ≠ n } }
        | none => s
      settle hooks { s with coh := { s.coh with
        decoders := s.coh.decoders.map fun (e : Nat × HdmDecoder) => if e.1 / 16 = k then (e.1, { e.2 with base := 0, sizeGib := 0 }) else e
        hostHeld := s.coh.hostHeld.filter fun h => h / 2 ^ 48 ≠ k
        biSnoops := s.coh.biSnoops.filter fun b => b.bridge ≠ k
        -- R93: the bridge numbers its requests from 0 again
        bridgeSeq := s.coh.bridgeSeq.filter fun e => e.1 / 2 ^ 30 ≠ 512 + k
        bridgeOps := s.coh.bridgeOps.filter fun b => b.bridge ≠ k } }

/-- HB_PERST_DEASSERT (R910): the host bridge port may train; with a host present it does, and its score starts (R794). -/
def execHbPerstDeassert (k : Nat) (s : State) : Host.Outcome State Fault Refusal :=
  if 4 ≤ k then .next s
  else
    let s := { s with boot := { s.boot with hbPerst := s.boot.hbPerst.set k true } }
    if running s && s.ras.halt = 0 then .next (startHealth { s with boot := { s.boot with hbLink := s.boot.hbLink.set k true } } (512 + k))
    else .next s

/-! ## Pins (R923, R937) -/

/-- PWR_GOOD: high while the switch is powered. -/
def pwrGood (s : State) : Bool := s.boot.phase ≠ .unpowered

/-- FAULT_N is held low (R937): a bundle failed, the switch is halted, or it has tripped. -/
def faultLow (s : State) : Bool := s.boot.bundleFault || decide (s.ras.halt ≠ 0) || s.power.tripped

end Sys2Proof.Machine
end

