-- ==== Sys2Proof/Machine/Coherence.lean ====
section
/-! DEFINITION. Machine/Coherence.lean: the meanings of the commands and events of 05_coherence.md. -/
namespace Sys2Proof.Machine

/-! ## Events at a home -/

/-- SNOOP_ANSWER (R102, R212, R227, R228, R235): an answer on its way to its home, or at it. -/
def execSnoopAnswer (r : Resp) (s : State) : Host.Outcome State Fault Refusal :=
  live s fun s =>
    if discardUnknown s r.lport then bump s (.notKnown r.lport)
    else if !respOk r || !snoopResultOk r then checkQuar (violatePkt (bump s (.rspDrop r.lport)) r.lport 3 (.resp r)) r.lport
    else if r.status ≠ 0 then checkQuar (violatePkt (bump s .snoopDrop) r.lport 7 (.resp r)) r.lport
    else if r.dst.toNat ≠ selfNode s then transit s r.lport r.esc (.resp r)
    else checkQuar (settle hooks (snoopAnswer s r)) r.lport

/-- TENURE_END (R224): the tenure of a line's last grant is over, and a transaction that waited for it sends its snoops. -/
def execTenureEnd (line : Nat) (s : State) : Host.Outcome State Fault Refusal :=
  live s fun s =>
    let l := lineOf s line
    match l.tenure, l.txn with
    | some (t, _), some x =>
      if x.waitTenure then settle hooks (lineSnoop (untilTime s t) line) else s
    | some (t, _), none => settle hooks (lineRun 1026 (untilTime s t) line)
    | _, _ => s

/-- HOME_TIMEOUT (R231). -/
def execHomeTimeout (line : Nat) (s : State) : Host.Outcome State Fault Refusal :=
  live s fun s => settle hooks (lineTimeout s line)

/-- DIRECTORY_SWEEP (R218, R232): the sweep that an agent's failure started reaches every other line; `bad` are the lines whose
entries are found uncorrectable: the table has no row of its own for an entry error, so one met on an ordinary access comes with this row
too (DESIGN CHOICE, log entry 146). -/
def execDirectorySweep (domain agent : Nat) (bad : List Nat) (s : State) : Host.Outcome State Fault Refusal :=
  live s fun s => settle hooks (sweepAgent s domain agent bad)

/-! ## Combining and hot lines at the ingress -/

/-- COMBINE_WINDOW_END (R245, R248). -/
def execCombineWindowEnd (group : Nat) (s : State) : Host.Outcome State Fault Refusal :=
  live s fun s =>
    match kfind s.coh.groups group with
    | none => s
    | some g => if g.sent then s else settle hooks (groupSend (untilTime s (g.start + readWindow s)) group)

/-- HOT_LINE_SEND (R252): a STORE_WINDOW after the last, the oldest STORE that survives on the line is sent. -/
def execHotLineSend (line : Nat) (s : State) : Host.Outcome State Fault Refusal :=
  live s fun s =>
    match hotReady s line with
    | none => s
    | some (id, ls) =>
      let last := ls.foldl (fun t l => max t (((kfind s.coh.hot l).map (·.lastSend)).getD 0)) 0
      settle hooks (hotSend hooks (untilTime s (last + storeWindow s)) id ls)

/-- HOT_LINE_EXPIRE (R251). -/
def execHotLineExpire (line : Nat) (s : State) : Host.Outcome State Fault Refusal :=
  live s fun s =>
    match kfind s.coh.hot line with
    | none => s
    | some h =>
      if h.outstanding.isNone && h.held.isEmpty then
        let s := untilTime s (h.idle + storeWindow s)
        { s with coh := { s.coh with hot := kdel s.coh.hot line } }
      else s

/-! ## The DOMAIN commands (R199 to R203, R986) -/

def domSpec (verb : Nat) (args : List (Nat × Nat)) (acts : Acts) (opts : Nat) : CmdSpec :=
  { pf0 := true, group := 0x0B, verb := verb, args := args, acts := acts, opts := opts }

/-- Partition of the domain that a command names first. -/
def domPart (s : State) (c : Cmd) : Option Nat := (domOf s (arg c 0 4)).map (·.partition)

/-- The domain exists and is not being destroyed. -/
def domLives (s : State) (d : Nat) : Bool := ((domOf s d).map fun x => x.destroying.isNone).getD false

/-- DOMAIN_CREATE. -/
def execDomainCreate (c : Cmd) (s : State) : Host.Outcome State Fault Refusal :=
  live s fun s => runCmd s c (domSpec 1 [(0, 4)] .field 0) none true fun s =>
    let d := arg c 0 4
    let r := cmdRef c
    if 63 < d then complete s r stMalformed 0 []
    else if (domOf s d).isSome then complete s r stDenied 0 []
    else
      let w := setBits (setBits (setBits (regWord s (rDomain d)) 0 1 1) 20 10 c.partition.toNat) 32 32 0
      let x : Domain := { partition := c.partition.toNat }
      complete { s with coh := { s.coh with domains := kset s.coh.domains d x }, cfg := kset s.cfg (rDomain d) w } r stOk 0 []

/-- DOMAIN_DESTROY. -/
def execDomainDestroy (c : Cmd) (s : State) : Host.Outcome State Fault Refusal :=
  live s fun s => runCmd s c (domSpec 2 [(0, 4)] .object 0) (domPart s c) true fun s =>
    let d := arg c 0 4
    match domOf s d with
    | none => complete s (cmdRef c) stDenied 0 []
    | some x =>
      match x.destroying with
      | some rs => modDom s d fun x => { x with destroying := some (rs ++ [cmdRef c]) }
      | none =>
        let s := modDom s d fun x => { x with destroying := some [cmdRef c] }
        let gone := s.coh.ranges
        let s := { s with coh := { s.coh with ranges := s.coh.ranges.filter fun e => e.2 ≠ d } }
        settle hooks (leaveLines s fun n _ => kfind gone (n * 64 / GiB) = some d)

/-- A node may become a member (R986): where it is attached here, its port belongs to the domain's partition. -/
def agentMemberOk (s : State) (x : Domain) (node : Nat) : Bool :=
  match lportOfNode s node with
  | none => true
  | some l =>
    if isBridge l then
      -- R239: a bridge is a member of at most one domain; R986 has no case for a second (DESIGN CHOICE, log entry 155)
      ((s.coh.decoders.filter fun e => e.1 / 16 = l - 512).all fun e => e.2.partition = x.partition) &&
        !(s.coh.domains.any fun e => e.2 ≠ x && e.2.members.any fun m => m.2 = node)
    else portMember s l x.partition

/-- DOMAIN_ADD_AGENT. -/
def execDomainAddAgent (c : Cmd) (s : State) : Host.Outcome State Fault Refusal :=
  live s fun s => runCmd s c (domSpec 3 [(0, 4), (4, 4), (8, 4)] .object 0) (domPart s c) true fun s =>
    let d := arg c 0 4
    let i := arg c 4 4
    let node := arg c 8 4
    let r := cmdRef c
    match domOf s d with
    | none => complete s r stDenied 0 []
    | some x =>
      if x.destroying.isSome then complete s r stDenied 0 []
      else if decide (31 < i) || decide (noNode ≤ node) then complete s r stMalformed 0 []
      else if x.members.any fun m => m.2 = node && m.1 ≠ i then complete s r stMalformed 0 []
      else
        let held := kfind x.members i
        let failed := x.failed.contains i
        if held.isSome && !failed && held ≠ some node then complete s r stDenied 0 []
        else if held = some node && !failed then complete s r stOk 0 []
        else if !agentMemberOk s x node then complete s r stDenied 0 []
        else
          let s := settle hooks (sweepAgent s d i [])
          -- R211: the home has granted nothing to a node that is new at its index
          let s := { s with coh := { s.coh with lines := s.coh.lines.map fun (e : Nat × Line) =>
            if (lineOf s e.1).domain = d then (e.1, { e.2 with granted := e.2.granted.filter (· ≠ i) }) else e } }
          let s := modDom s d fun x => { x with members := kset x.members i node, failed := x.failed.filter (· ≠ i) }
          complete (setField s (rDomain d) (32 + i) 1 0) r stOk 0 []

/-- DOMAIN_REMOVE_AGENT (R234). -/
def execDomainRemoveAgent (c : Cmd) (s : State) : Host.Outcome State Fault Refusal :=
  live s fun s => runCmd s c (domSpec 4 [(0, 4), (4, 4)] .object 0) (domPart s c) true fun s =>
    let d := arg c 0 4
    let i := arg c 4 4
    let r := cmdRef c
    if !domLives s d || (((domOf s d).bind fun x => kfind x.members i)).isNone then complete s r stDenied 0 []
    else complete (agentFail s d i 1) r stOk 0 []

/-- A gigabyte holds a frame of a shared region (R257). -/
def gibShared (s : State) (g : Nat) : Bool :=
  s.snap.regions.any fun e => e.2.frames.any fun f => f * frameBytes / GiB = g

/-- DOMAIN_SET_RANGE (R201, R202, R257): option bit 0 removes the gigabyte. A number of 131,072 or more names no gigabyte of the pool and is
MALFORMED (DESIGN CHOICE, log entry 169). Removing a gigabyte that is not the domain's, and adding one whose removal still runs, are DENIED
(DESIGN CHOICE, log entry 170). -/
def execDomainSetRange (c : Cmd) (s : State) : Host.Outcome State Fault Refusal :=
  live s fun s => runCmd s c (domSpec 5 [(0, 4), (4, 4)] .object 1) (domPart s c) true fun s =>
    let d := arg c 0 4
    let g := arg c 4 4
    let r := cmdRef c
    if !domLives s d then complete s r stDenied 0 []
    else if 131072 ≤ g then complete s r stMalformed 0 []
    else if opt c 0 then
      if kfind s.coh.ranges g ≠ some d then complete s r stDenied 0 []
      else
        let s := { s with coh := { s.coh with ranges := kdel s.coh.ranges g, leaving := s.coh.leaving ++ [(g, r)] } }
        settle hooks (leaveLines s fun n _ => n * 64 / GiB = g)
    else match kfind s.coh.ranges g with
      | some e => complete s r (if e = d then stOk else stDenied) 0 []
      | none =>
        if !homedHere s (g * GiB) || gibShared s g || (s.coh.leaving.any fun e => e.1 = g) then complete s r stDenied 0 []
        else complete { s with coh := { s.coh with ranges := kset s.coh.ranges g d } } r stOk 0 []

/-! ## Host bridge ports (R238 to R241) -/

/-- HDM_DECODER_WRITE (R238): a commit that would map one pool gigabyte through two decoders of the bridge is refused. -/
def execHdmDecoderWrite (bridge index base sizeGib part ast vbase : Nat) (commit : Bool) (s : State) :
    Host.Outcome State Fault Refusal :=
  live s fun s =>
    let k := bridge * 16 + index
    if decide (4 ≤ bridge) || decide (16 ≤ index) then s
    else if !commit then
      let s' : State := { s with coh := { s.coh with decoders := kdel s.coh.decoders k } }
      match kfind s.coh.decoders k with
      | some d => tdiFault s' d.partition
      | none => s'
    else
      let new : HdmDecoder := { base := base, sizeGib := sizeGib, partition := part, ast := ast, vbase := vbase }
      let clash := s.coh.decoders.any fun e => e.1 / 16 = bridge && e.1 ≠ k && (hdmPages s e.2).any fun g => (hdmPages s new).contains g
      if clash then emit s (.cxl bridge (.decoderRefused index stMalformed))
      else if (partOf s part).st ≠ .active || base % GiB ≠ 0 || vbase % GiB ≠ 0 || decide (1024 ≤ part) || decide (4096 ≤ ast) then s
      else
        let s' : State := { s with coh := { s.coh with decoders := kset s.coh.decoders k new } }
        match kfind s.coh.decoders k with
        | some o => tdiFault (tdiFault s' part) o.partition
        | none => tdiFault s' part

/-- The decoder that holds a host physical address. -/
def decoderOf (s : State) (bridge hpa : Nat) : Option HdmDecoder :=
  (s.coh.decoders.find? fun e => e.1 / 16 = bridge &&
    decide (e.2.base ≤ hpa ∧ hpa < e.2.base + e.2.sizeGib * GiB)).map (·.2)

/-- Virtual address of a host physical address, and its pool line where it is mapped. -/
def hdmVa (d : HdmDecoder) (hpa : Nat) : Nat := d.vbase + (hpa - d.base)
def hdmLine (s : State) (d : HdmDecoder) (hpa : Nat) : Option Nat :=
  (pteOf s d.ast (hdmVa d hpa / GiB)).map fun e => (e.page * GiB + hdmVa d hpa % GiB) / 64

/-- The line lies in a coherent gigabyte of a domain of this home that the bridge is no member of (R239). -/
def foreignLine (s : State) (bridge : Nat) (line : Option Nat) : Bool :=
  match line.bind (domainOf s), (lportOf s (512 + bridge)).node with
  | some d, some n => (agentOf s d n).isNone
  | _, _ => false

/-- The host bridge may carry traffic: it exists and its host holds it out of reset (R910). -/
def bridgeUp (s : State) (bridge : Nat) : Bool :=
  s.boot.hbPerst.getD bridge false && s.ras.halt = 0 && s.power.chip ≠ .banked && s.power.chip ≠ .pilot

/-- A tag of a bridge's that no request of its uses. -/
def freeTag (s : State) (bridge : Nat) : Nat :=
  let used := (s.coh.bridgeOps.filter fun o => o.bridge = bridge).flatMap (·.tags)
  (firstFree used 65536 s.coh.bridgeTag (used.length + 1)).getD 0

/-- Note a host request that the bridge converts to Jarti requests with these tags (R240). -/
def noteHost (s : State) (bridge hostTag : Nat) (tags : List Nat) : State :=
  { s with coh := { s.coh with bridgeOps := s.coh.bridgeOps ++ [{ bridge := bridge, hostTag := hostTag, tags := tags }],
                               bridgeTag := ((tags.getLast?.getD s.coh.bridgeTag) + 1) % 65536 } }

/-- Send a converted request through the ingress check as the bridge's own, numbered by the bridge (R67, R93). -/
def bridgeReq (s : State) (bridge : Nat) (d : HdmDecoder) (op : Op) (va tag len : Nat) (payload : List Byte) : State :=
  let l := 512 + bridge
  let src := (lportOf s l).node.getD noNode
  let pair := l * 2 ^ 30 + src * 32768 + selfNode s
  let q := kget s.coh.bridgeSeq pair 0
  let p : Req := { lport := l, tc := 3, vc := 3, partition := BitVec.ofNat 10 d.partition, ast := BitVec.ofNat 12 d.ast,
                   src := BitVec.ofNat 15 src, dst := BitVec.ofNat 15 (selfNode s),
                   tag := BitVec.ofNat 16 tag, length := BitVec.ofNat 24 len, address := BitVec.ofNat 64 va,
                   seq := BitVec.ofNat 32 q, flags := 0, payload := payload }
  arrive hooks { s with coh := { s.coh with bridgeSeq := kset s.coh.bridgeSeq pair ((q + 1) % 2 ^ 32) } } op p

/-- The host no longer holds a line in E or M. -/
def hostDrops (s : State) (bridge : Nat) (line : Option Nat) : State :=
  match line with
  | some n => { s with coh := { s.coh with hostHeld := s.coh.hostHeld.filter (· ≠ heldKey bridge n) } }
  | none => s

/-- CXL_M2S_REQ (R240). To a coherent gigabyte of another domain a cached read is a plain one (R239), and ownership and eviction, which have
no uncached form, complete at once (DESIGN CHOICE, log entry 153). -/
def execCxlM2sReq (bridge : Nat) (kind : CxlReq) (hpa tag : Nat) (s : State) : Host.Outcome State Fault Refusal :=
  live s fun s =>
    match decoderOf s bridge hpa with
    | none => s
    | some d =>
      if !bridgeUp s bridge then s
      else
        let line := hdmLine s d hpa
        let far := foreignLine s bridge line
        let op : Op := match kind with
          | .readI => .load
          | .readS => if far then .load else .rdShared
          | .readA => if far then .load else .rdOwn
          | .memInv => .upgrade
          | .clnEvct => .evictClean
        let s := if kind = .clnEvct then hostDrops s bridge line else s
        if far && (kind = .memInv || kind = .clnEvct) then emit s (.cxl bridge (.cmp tag 0 0))
        else
          let t := freeTag s bridge
          bridgeReq (noteHost s bridge tag [t]) bridge d op (hdmVa d hpa / 64 * 64) t 64 []

/-- Runs of enabled bytes of a partial write: first byte and length. -/
def runsOf (mask : BitVec 64) : List (Nat × Nat) :=
  (natRange 0 64).foldl (fun rs i =>
    if mask.getLsbD i then
      match rs.getLast? with
      | some (a, n) => if a + n = i then rs.dropLast ++ [(a, n + 1)] else rs ++ [(i, 1)]
      | none => [(i, 1)]
    else rs) []

/-- CXL_M2S_RWD (R240): a write of a line that the host holds in E or M is a WB_DIRTY, any other a STORE of the bytes
enabled. -/
def execCxlM2sRwd (bridge hpa tag : Nat) (mask : BitVec 64) (data : List Byte) (s : State) :
    Host.Outcome State Fault Refusal :=
  live s fun s =>
    match decoderOf s bridge hpa with
    | none => s
    | some d =>
      if !bridgeUp s bridge then s
      else
        let va := hdmVa d hpa / 64 * 64
        let line := hdmLine s d hpa
        let held := (line.map fun n => s.coh.hostHeld.contains (heldKey bridge n)).getD false
        let t := freeTag s bridge
        if held then bridgeReq (noteHost (hostDrops s bridge line) bridge tag [t]) bridge d .wbDirty va t 64 (sliceBytes data 0 64)
        else match runsOf mask with
          | [] => emit s (.cxl bridge (.cmp tag 0 0))
          | rs =>
            -- one STORE for each run of bytes, each with a tag of its own
            let used := (s.coh.bridgeOps.filter fun o => o.bridge = bridge).flatMap (·.tags)
            let tags := rs.foldl (fun (l : List Nat) _ => l ++ [(firstFree (used ++ l) 65536 s.coh.bridgeTag (used.length + l.length + 1)).getD 0]) []
            (rs.zip tags).foldl (fun s r => bridgeReq s bridge d .store (va + r.1.1) r.2 r.1.2 (sliceBytes data r.1.1 r.1.2))
              (noteHost s bridge tag tags)

/-- CXL_BI_RSP (R240): the host's answer to a back-invalidate snoop, with the write-back it brought, is the snoop answer. -/
def execCxlBiRsp (bridge hpa : Nat) (kept : Bool) (data : List Byte) (s : State) : Host.Outcome State Fault Refusal :=
  live s fun s =>
    match (decoderOf s bridge hpa).bind fun d => hdmLine s d hpa with
    | none => s
    | some line =>
      match s.coh.biSnoops.find? fun b => b.bridge = bridge && b.line = line with
      | none => s
      | some b =>
        let had := kept || !data.isEmpty || s.coh.hostHeld.contains (heldKey bridge line)
        let s := hostDrops { s with coh := { s.coh with biSnoops := s.coh.biSnoops.erase b } } bridge (some line)
        let keepS := kept && !b.inv
        let r : Resp := { lport := 512 + bridge, isData := !data.isEmpty, status := 0,
                          reqOpcode := if b.inv then 0x48 else 0x49,
                          rspNode := BitVec.ofNat 15 ((lportOf s (512 + bridge)).node.getD noNode),
                          dst := BitVec.ofNat 15 b.home, tag := BitVec.ofNat 16 b.tag, segCover := 8,
                          result := BitVec.ofNat 64 ((if keepS then 1 else 0) + (if had then 4 else 0)),
                          data := if data.isEmpty then [] else sliceBytes data 0 64 }
        if b.home = selfNode s then settle hooks (snoopAnswer s r)
        else sendPkt s (schedPort r.lport) r.lport false (.resp r)

/-- CXL_BICONFLICT (R241): the bridge acknowledges the conflict of a host request with a snoop that it sent. -/
def execCxlBiconflict (bridge hpa : Nat) (s : State) : Host.Outcome State Fault Refusal :=
  live s fun s =>
    match (decoderOf s bridge hpa).bind fun d => hdmLine s d hpa with
    | none => s
    | some line =>
      if s.coh.biSnoops.any fun b => b.bridge = bridge && b.line = line then emit s (.cxl bridge (.biConflictAck hpa)) else s

end Sys2Proof.Machine
end

