-- ==== Sys2Proof/Machine/RasCore.lean ====
section
/-! DEFINITION. Machine/RasCore.lean: region fences, copies that are verified, health, quorum tickets (18_reliability.md R777 to
R800). -/
namespace Sys2Proof.Machine

/-- Change what detection and degradation keep. -/
def modRas (s : State) (f : Ras → Ras) : State := { s with ras := f s.ras }

/-! ## Region fences (R777 to R780) -/

/-- An access that no arbiter serves any more: a read fails for its lines, a write reaches only the other copies (R780), and one of a
move has failed (R132). -/
def unserved (s : State) (x : Access) : State :=
  (x.op :: x.also).foldl (fun s o =>
    if x.read then readFailed s o x.frame 0 x.pool x.len (linesOf x.pool x.len)
    else
      let s := match kfind s.mem.moves x.frame with
        | some m => if served s m.loc then s else loseMove s x.frame
        | none => s
      let internal := match (kfind s.mem.ops o).map (·.origin) with
        | some (.move _) | some (.rewrite _) => true
        | _ => false
      accessDone (if internal then modOp s o fun y => { y with failed := true } else s) o) s

/-- Accesses that wait at a fenced region's arbiter go to that of the region that shares the stack (R778). -/
def moveAccesses (s : State) (r : Nat) : State :=
  let a := arbOf s r
  let s := setArb s r { a with waiting := [], outside := [] }
  (a.waiting ++ a.outside).foldl (fun s x =>
    if isFenced s (pairOf r) then unserved s x else arbPush s (pairOf r) x) s

/-- Frames of a stack whose both regions are fenced that have copies move copy 0, the one in T1 (R149), onto another tier (R780). A
quarantined frame stays (R791). -/
def leaveStack (s : State) (stack : Nat) : State :=
  (s.mem.tier.filter fun e => e.2.tier = .t1 && decide (1 < e.2.copies) && t1Stack (t1FrameOf e.2.loc0) = stack && !e.2.quarantined &&
    (kfind s.mem.moves e.1).isNone).foldl
    (fun s e =>
      match pickIn s .t2 [] (otherSlots e.2 0) with
      | some l => startMove (bumpFree s) e.1 0 .t2 l none
      | none =>
        match pickIn s .t3 (frameLens s e.1) (otherSlots e.2 0) with
        | some l => startMove (bumpFree s) e.1 0 .t3 l none
        | none => s) s

/-- Fence a region for a cause of R984 (R777, R778). One that REGION.FENCE fenced and that then meets another cause stays fenced (R779). -/
def fence (s : State) (r cause : Nat) : State :=
  if isFenced s r then (if cause = 3 then s else modRas s fun x => { x with fenced := kset x.fenced r false })
  else
    let inSlice := fun (q : QPkt) => sliceOf s q.inPort = r
    let s := bump (modRas s fun x => { x with fenced := kset x.fenced r (decide (cause = 3)) }) (.ras 4)
    let s := healthLog (keepSample s r) 5 r 0 0 (leBytes 16 0 ++ regionBody s r)
    let s := fenceCompute s r
    let s := (s.lports.filter fun e => decide (e.1 < 512) && e.1 / 32 = r && e.2.link ≠ .disabled).foldl (fun s e => goDown s e.1) s
    let s := (s.core.voqs.filter inSlice).foldl
      (fun s q => if crossing q then s else discardPkt s q 4) s
    let s := moveAccesses s r
    let s := if isFenced s (pairOf r) then leaveStack s (r / 2) else s
    report s 0x0B (selfNode s) noLport (r + 16 * cause)

/-! ## Verification of copies (R790 to R793) -/

/-- Units of 4 KiB of every frame with copies that no write or move is under way on. -/
def copiedUnits (s : State) : List (Nat × Nat) :=
  (s.mem.tier.filter fun e => decide (1 < e.2.copies) && !e.2.quarantined && !writeOn s e.1 && (kfind s.mem.moves e.1).isNone).flatMap
    fun e => (natRange 0 512).map fun u => (e.1, u)

/-- Stale copies of a frame whose every record was rewritten are copies again (R789). -/
def refresh (s : State) (frame : Nat) : State :=
  match tierOf s frame with
  | none => s
  | some t => if t.quarantined then s else modTier s frame fun t => { t with stale := [] }

/-- The accesses in class BG that read a frame's copy in T1 for verification (R143). -/
def verifyAccess (s : State) (frame : Nat) : State :=
  match (tierOf s frame).bind fun t => if t.tier = .t1 then t1Owner s (t1FrameOf t.loc0) else none with
  | some r => (t1Access s r { id := 0, cls := .bg, group := 0, arrived := 0, op := 0, frame := frame, read := true } (frame * frameBytes) frameBytes).1
  | none => s

/-- A pass of background verification (R793). -/
def verifyPass (s : State) : State :=
  let us := copiedUnits s
  let s := ((us.map (·.1)).eraseDups).foldl verifyAccess s
  let s := us.foldl (fun s u => decideUnit s u.1 u.2) s
  ((us.map (·.1)).eraseDups).foldl refresh s

/-- POOL.RESOLVE (R792): every copy of a frame from one of them; none where that copy has a record that is not committed. -/
def resolve (s : State) (frame copy : Nat) : Option State :=
  match tierOf s frame with
  | none => none
  | some t =>
    let units := natRange 0 512
    if !units.all fun u => committed s t frame u copy then none
    else
      let all := natRange 0 t.copies
      let top := units.foldl (fun m u => all.foldl (fun m c => max m (kget s.mem.copyMeta (metaKey frame c u) {}).version) m) 0
      let s := units.foldl (fun s u => adopt s t frame u copy) s
      let metas := units.foldl (fun m u => all.foldl (fun m c =>
        kset m (metaKey frame c u) { kget m (metaKey frame c u) {} with version := top + 1 }) m) s.mem.copyMeta
      some (modTier { s with mem := { s.mem with copyMeta := metas } } frame fun t => { t with quarantined := false, stale := [] })

/-! ## Quorum tickets (R796 to R800) -/

/-- A ticket's header fields. -/
structure Ticket where
  action : Nat
  target : Target
  id : Nat
  issued : Nat
  expires : Nat
  signers : Nat
  epoch : Nat
deriving DecidableEq, Repr

/-- The header of a ticket (R796). -/
def ticketOf (b : List Byte) : Ticket :=
  { action := leField b 4 1, target := { switch := (leField b 5 1).testBit 0, node := leField b 6 2 % 2 ^ 15 }, id := leField b 8 8,
    issued := leField b 16 8, expires := leField b 24 8, signers := leField b 32 1 % 128, epoch := leField b 34 2 }

/-- The bits set in SIGNERS, ascending. -/
def signerList (w : Nat) : List Nat := (natRange 0 7).filter fun i => w.testBit i

/-- Check 1 of R797. -/
def ticketForm (b : List Byte) : Bool :=
  leField b 0 4 = 0x5449434B && decide (1 ≤ leField b 4 1 ∧ leField b 4 1 ≤ 3) && decide (leField b 5 1 < 2) &&
  decide (leField b 6 2 < 2 ^ 15) && decide (leField b 32 1 < 128) && leField b 33 1 = 0 && leField b 36 28 = 0 &&
  decide (64 ≤ b.length) && b.length = 64 + 3328 * (signerList (leField b 32 1)).length

/-- Signature blocks of some managers, in order, each over a message (R796, R812). -/
def blocksOk (s : State) (msg : List Byte) : List Nat → List Byte → Bool
  | [], _ => true
  | i :: is, b =>
    (match s.fm.managers[i]? with
     | some m => sigOk m.key msg (b.take 3328)
     | none => false) && blocksOk s msg is (b.drop 3328)

/-- The manager bits name at least k of the current set (R797, R812). -/
def quorum (s : State) (is : List Nat) : Bool :=
  is.all (fun i => decide (i < s.fm.managers.length)) && !s.fm.managers.isEmpty && decide (s.fm.threshold ≤ is.length)

/-- Logical ports that face a target: its own, or those whose partner it is or last was. -/
def facing (s : State) (t : Target) : List Nat :=
  (s.lports.filter fun e =>
    if t.switch then facesSwitch s e.1 && ((e.2.partner.map (·.node)) = some t.node || (e.2.before.map (·.2)) = some t.node)
    else e.2.node = some t.node).map (·.1)

/-- Accepted EXPELs of the current window (R799). -/
def expelsUsed (s : State) : Nat := (s.ras.expels.filter fun t => decide (s.ftime.toNat < t + s.ras.windowMs * msNs)).length

/-- Checks 1 to 6 of R797: the status and order of the first that fails. -/
def ticketCheck (s : State) (b : List Byte) : Option (Nat × Nat) :=
  let t := ticketOf b
  let is := signerList t.signers
  if !ticketForm b then some (stMalformed, 1)
  else if t.epoch ≠ s.fm.keyEpoch ∨ !quorum s is then some (stDenied, 2)
  else if !blocksOk s (b.take 64) is (b.drop 64) then some (stDenied, 3)
  else if s.ftime.toNat < t.issued ∨ t.expires < s.ftime.toNat ∨ t.issued + 600000000000 < t.expires then some (stDenied, 4)
  else if s.ras.tickets.any fun e => e.1 = t.id then some (stDenied, 5)
  else if (facing s t.target).isEmpty && !(t.target.switch && t.target.node = selfNode s) then some (stDenied, 6)
  else none

/-- An accepted ticket can be carried out: its ID can be held (R798), and the Wick can decide (R785). -/
def ticketRoom (s : State) : Bool := decide (s.ras.tickets.length < 4096) && wickDecides s

/-- The target is in the degraded state (R800), or leaves it. -/
def degradeTarget (s : State) (t : Target) : State :=
  modRas s fun x => { x with degraded := if x.degraded.contains t then x.degraded else x.degraded ++ [t] }
def restoreTarget (s : State) (t : Target) : State :=
  modRas s fun x => { x with degraded := x.degraded.filter (· ≠ t) }

/-- EXPEL (R798). -/
def expel (s : State) (t : Target) : State :=
  let s := restoreTarget (modRas s fun x => { x with spares := x.spares - 1, expels := x.expels ++ [s.ftime.toNat] }) t
  if t.switch && t.node = selfNode s then haltSwitch s 5
  else
    let s := ((facing s t).filter fun n => decide (n < 512)).foldl quarantine s
    if t.switch then s else nodeFails s t.node 1

/-- READMIT (R798): quarantined ports that face the target go to DOWN, and its score is 1,000. -/
def readmit (s : State) (t : Target) : State :=
  let ports := facing s t
  let s := (ports.filter fun n => (lportOf s n).link = .quarantined).foldl (fun s n => setLink s n .down) (restoreTarget s t)
  modRas s fun x => { x with health := x.health.map fun (e : Nat × Health) => if ports.contains e.1 then (e.1, { e.2 with score := 1000, at_ := s.clk }) else e }

/-- A ticket arrives (R797 to R800): the state after it, its status, and the order of the check that failed. -/
def takeTicket (s : State) (b : List Byte) : State × Nat × Nat :=
  match ticketCheck s b with
  | some (st, order) => (bump s (.ras 15), st, order)
  | none =>
    let t := ticketOf b
    if t.action = 1 ∧ (s.ras.limit ≤ expelsUsed s ∨ s.ras.spares = 0) then
      let s := bump (bump s (.ras 15)) (.ras 16)
      -- to degrade the target is a Wick decision too (R785, R800)
      ((if wickDecides s then degradeTarget s t.target else s), stBudget, 7)
    else if !ticketRoom s then (bump s (.ras 15), stRetry, 0)
    else
      let s := bump (modRas s fun x => { x with tickets := x.tickets ++ [(t.id, t.expires)] }) (.ras 14)
      let s := note s "TICKET" [t.action, t.id, t.target.node]
      ((if t.action = 1 then expel s t.target else if t.action = 2 then degradeTarget s t.target else readmit s t.target), stOk, 0)

end Sys2Proof.Machine
end

