-- ==== Sys2Proof/Machine/Memory.lean ====
section
/-! DEFINITION. Machine/Memory.lean: the meanings of the commands and events of 03_memory_tiers.md. -/
namespace Sys2Proof.Machine

/-! ## The region arbiter (R143 to R147) -/

/-- Weight of a class at a region (R148): BULK and BG have none in the two regions of a stack that is too hot (R901). -/
def arbWeight (s : State) (r k : Nat) : Nat :=
  if s.power.hbmHot.contains (r / 2) && decide (3 ≤ k) then 0 else regField s (rArbCfg r) (4 * k) 4

/-- The oldest of a list of accesses. -/
def oldest (l : List Access) : Option Access :=
  l.foldl (fun (b : Option Access) x =>
    match b with
    | none => some x
    | some y => if x.arrived < y.arrived then some x else b) none

/-- One turn of the smooth weighted round-robin (R144): the credits after it, and the class served, if any. Of waiting classes of equal credit
the one of the lower number in the registers' order is served (DESIGN CHOICE, log entry 160). -/
def wrrTurn (weights : List Nat) (waits : Nat → Bool) (credit : List Int) : List Int × Option Nat :=
  let on := (natRange 0 5).filter fun k => waits k && decide (0 < weights.getD k 0)
  let credit := (natRange 0 5).map fun k =>
    credit.getD k 0 + (if on.contains k then (weights.getD k 0 : Int) else 0)
  match on.foldl (fun (b : Option Nat) k =>
      match b with
      | none => some k
      | some j => if credit.getD j 0 < credit.getD k 0 then some k else b) none with
  | none => (credit, none)
  | some k => (credit, some k)

/-- Take an access from the waiting ones; one that its full group held outside comes in, and waits at the arbiter from now on
(R145, R146). -/
def arbTake (s : State) (r : Nat) (a : Arb) (x : Access) : Arb :=
  let w := a.waiting.erase x
  match a.outside.find? fun y => y.group = x.group with
  | some y => { a with waiting := w ++ [{ y with arrived := s.clk, promoted := arbPromoNs s r y.cls.ix = 0 }], outside := a.outside.erase y, granted := a.granted ++ [x] }
  | none => { a with waiting := w, granted := a.granted ++ [x] }

/-- The arbiter's next grant (R144): the oldest promoted access, else the round-robin's choice. -/
def arbGrant (s : State) (r : Nat) : State :=
  let a := arbOf s r
  match oldest (a.waiting.filter (·.promoted)) with
  | some x => setArb s r (arbTake s r a x)
  | none =>
    let weights := (natRange 0 5).map (arbWeight s r)
    let (credit, k) := wrrTurn weights (fun k => a.waiting.any fun x => x.cls.ix = k) a.credit
    match k with
    | none => s
    | some k =>
      match oldest (a.waiting.filter fun x => x.cls.ix = k) with
      | none => s
      | some x =>
        let total : Nat := (weights.zipIdx).foldl (fun n e =>
          if a.waiting.any fun y => y.cls.ix = e.2 then n + e.1 else n) 0
        let credit := credit.mapIdx fun i (v : Int) => if i = k then v - (total : Int) else v
        setArb s r (arbTake s r { a with credit := credit } x)

/-- REGION_ARB_GRANT (R144). -/
def execRegionArbGrant (r : Nat) (s : State) : Host.Outcome State Fault Refusal := live s fun s => arbGrant s r

/-- REGION_ARB_PROMOTE (R145): every access that has waited its class's promotion time is promoted. -/
def execRegionArbPromote (r : Nat) (s : State) : Host.Outcome State Fault Refusal :=
  live s fun s =>
    let a := arbOf s r
    let due := (a.waiting.filter fun x => !x.promoted).map fun x => x.arrived + arbPromoNs s r x.cls.ix
    let s := match due with
      | [] => s
      | t :: ts => untilTime s (ts.foldl min t)
    let w := a.waiting.map fun x =>
      if x.arrived + arbPromoNs s r x.cls.ix ≤ s.clk then { x with promoted := true } else x
    setArb s r { a with waiting := w }

/-- Lines of switch tables whose ECC failed (R770), numbered from 2^41: one listed once is rewritten from its other copy; when both
copies of one failed, the switch halts (R781). -/
def tableErrors (s : State) (bad : List Nat) : State :=
  match bad with
  | [] => s
  | l :: ls => if ls.contains l then haltSwitch (note s "TABLE_LINE_LOST" [l]) 1 else tableErrors (note (bump s (.ras 8)) "TABLE_LINE" [l]) ls

/-- Lines in which ECC corrected a single bit: the line is written back as it should be, and the error is counted and logged (R34). -/
def correctedLines (s : State) (lines : List Nat) : State :=
  lines.foldl (fun s l => note (bump s (.fault 3)) "ECC_CORRECTED" [l]) s

/-- An uncorrectable error in the region's arbiter state or in its packet-buffer slice control fences it (R777). -/
def regionStateError (s : State) (r : Nat) : State := if wickDecides s then fence s r 2 else s

/-- HBM_ACCESS_DONE (R147, R152, R597, R770, R777): an access that was granted is done; `bad` are the lines whose ECC was
uncorrectable, those of switch tables from 2^41 on; from 2^42 on, the same lines where it was corrected; and 2^43 where the state
of the region's arbiter or of its slice control failed. -/
def execHbmAccessDone (r id : Nat) (bad : List Nat) (s : State) : Host.Outcome State Fault Refusal :=
  live s fun s =>
    let a := arbOf s r
    match a.granted.find? fun x => x.id = id with
    | none => s
    | some x =>
      let s := setArb s r { a with granted := a.granted.erase x }
      let s := correctedLines s ((bad.filter fun l => decide (2 ^ 42 ≤ l ∧ l < 2 ^ 43)).map (· - 2 ^ 42))
      let s := tableErrors s (bad.filter fun l => decide (2 ^ 41 ≤ l ∧ l < 2 ^ 42))
      let lost := bad.filter (linesOf x.pool x.len).contains
      let s := (x.op :: x.also).foldl (fun s o =>
        if x.read && !lost.isEmpty then readFailed s o x.frame 0 x.pool x.len lost else accessDone s o) s
      settle hooks (if bad.contains (2 ^ 43) then regionStateError s r else s)

/-! ## Moves -/

/-- MOVE_SUBBLOCK_DONE (R129 to R132, R142): the sub-block's read and its write are done, or one of them has failed. -/
def execMoveSubblockDone (frame : Nat) (ok : Bool) (s : State) : Host.Outcome State Fault Refusal :=
  live s fun s =>
    match kfind s.mem.moves frame with
    | none => s
    | some m =>
      if !m.copying || m.suspended then s
      else if !ok then settle hooks (abandonMove s frame stPoisoned)
      else if !m.copied then s
      else
        let n := m.next + 1
        let m : Move := { m with next := n, copying := decide (n < 32), ready := decide (32 ≤ n),
                                 suspended := decide (n < 32) && regField s rPoolPolicy 10 6 = 0, op := none, copied := false }
        let s := retryMoves { s with mem := { s.mem with moves := kset s.mem.moves frame m } }
        settle hooks (if m.copying && !m.suspended then moveCopy s frame else s)

/-- T3_WRITE_RESUME (R975): a write held for T3 storage is tried again. -/
def execT3WriteResume (op : Nat) (s : State) : Host.Outcome State Fault Refusal :=
  live s fun s =>
    match kfind s.mem.ops op with
    | some o => if o.phase = .t3 then settle hooks (memAccess s op) else s
    | none => s

/-- TRAY_LATE_TIMEOUT (R158): a tray read unanswered for 10 µs, named by its number in the switch's list, goes to another healthy copy;
without one, as in storage of drafts and retained versions, its request is never answered. -/
def execTrayLateTimeout (tag : Nat) (s : State) : Host.Outcome State Fault Refusal :=
  live s fun s =>
    match kfind s.mem.trayReqs tag with
    | none => s
    | some t =>
      let s := untilTime s (t.since + 10 * usNs)
      match kfind s.mem.ops t.op with
      | some o =>
        match (tierOf s t.frame).bind fun e => (healthyCopies s e).find? fun c => c.2 ≠ t.copyIx && t.read with
        | some c =>
          let s := { s with mem := { s.mem with trayReqs := kdel s.mem.trayReqs tag } }
          let r := accessCopy t.op (arbClass o) t.frame t.pool t.len true c.1 c.2 s
          settle hooks (modOp r.1 t.op fun o => { o with left := o.left - 1 + r.2 })
        | none =>
          let s := { s with mem := { s.mem with trayReqs := kset s.mem.trayReqs tag { t with late := true } } }
          match o.origin with
          | .job _ => settle hooks s
          | .here id _ => markUnanswered s id 7
          | .group g => ((kfind s.coh.groups g).map (·.members)).getD [] |>.foldl (fun s id => markUnanswered s id 7) s
          | _ =>
            report (bump s .unanswered) 0x05 o.p.src.toNat noLport
              (o.p.seq.toNat + 2 ^ 32 * o.p.tag.toNat + 2 ^ 48 * 7)
      | none => s

/-! ## Heat and the tiering scan (R133 to R141) -/

/-- Length of a decay period in ns (R136). -/
def periodNs (s : State) : Nat := 2 ^ regField s rPoolHeat 0 4 * msNs

/-- HEAT_DECAY_PERIOD (R134). -/
def execHeatDecayPeriod (s : State) : Host.Outcome State Fault Refusal :=
  live s fun s =>
    let s := untilTime s (s.mem.periodAt + periodNs s)
    setField { s with mem := { s.mem with periodAt := s.mem.periodAt + periodNs s } } rPoolHeat 8 8
      (regField s rPoolHeat 8 8 + 1)

/-- Read a frame's HEAT: the decay that has passed is applied to the entry (R134). -/
def readHeat (s : State) (frame : Nat) : State :=
  modTier s frame fun t => { t with heat := decayedHeat s t, heatEpoch := regField s rPoolHeat 8 8 }

/-- The access of a table sweep to a frame's tier map entry: 32 bytes of the T1 frames that the switch keeps for its tables, in class BG
(R114, R143). Where in them an entry lies is the switch's own: by frame number from the first of them on (DESIGN CHOICE, log entry 149). -/
def tableAccess (s : State) (frame : Nat) : State :=
  let f := t1Frames s + frame * 32 / frameBytes
  match t1Owner s f with
  | some r => (t1Access s r { id := 0, cls := .bg, group := 0, arrived := 0, op := 0, frame := 0, read := true } (t1Loc f * 4096 + frame * 32 % frameBytes) 32).1
  | none => s

/-- TIER_MAP_VISIT (R135). -/
def execTierMapVisit (frame : Nat) (s : State) : Host.Outcome State Fault Refusal := live s fun s => tableAccess (readHeat s frame) frame

/-- A frame that policy may move (R140, R433, R791). -/
def movable (s : State) (frame : Nat) (t : TierEntry) : Bool :=
  (kfind s.mem.moves frame).isNone && t.bound = 0 && !t.quarantined

/-- DWELL has passed since the frame's last move. -/
def dwelt (s : State) (t : TierEntry) (r : ClassRules) : Bool := decide (t.lastMove + r.dwellNs ≤ s.clk)

/-- Start a policy move of copy 0 to a tier, where it has storage on a tray that holds no other copy. -/
def policyMove (s : State) (frame : Nat) (t : TierEntry) (dst : Tier) : Option State :=
  (pickIn s dst (frameLens s frame) (otherSlots t 0)).map fun l => startMove (bumpFree s) frame 0 dst l none

/-- Pass 1 of a scan for one frame: demotion and compression by heat. -/
def scanDown (s : State) (e : Nat × TierEntry) : State :=
  match tierOf s e.1, rulesOf s e.2.cls with
  | some t, some r =>
    let below := fun (h : Option Nat) => (h.map fun x => decide (t.heat < x)).getD false
    if !movable s e.1 t || !dwelt s t r then s
    else if t.tier = .t1 && below r.demote then (policyMove s e.1 t r.demoteTo).getD s
    else if t.tier = .t2 && below r.compress then (policyMove s e.1 t .t3).getD s
    else s
  | _, _ => s

/-- T1 frames that are free or being left: frames that running moves leave count as free in the watermark tests, as R141 does not say
(DESIGN CHOICE, log entry 161). -/
def t1FreeSoon (s : State) : Nat :=
  t1Free s + (s.mem.moves.filter fun m => m.2.copyIx = 0 && m.2.dst ≠ .t1 && (match tierOf s m.1 with
    | some t => decide (t.tier = .t1)
    | none => false)).length

/-- Whether free T1 frames reach a percentage of the pool's. -/
def t1Above (s : State) (percent : Nat) : Bool := decide (percent * t1Frames s ≤ 100 * t1FreeSoon s)

/-- The coldest T1 frame that pressure may demote and that is not in a list. -/
def coldest (s : State) (skip : List Nat) : Option (Nat × TierEntry) :=
  s.mem.tier.foldl (fun (b : Option (Nat × TierEntry)) e =>
    let ok := e.2.tier = .t1 && movable s e.1 e.2 && !skip.contains e.1 && ((rulesOf s e.2.cls).map (·.pressure)).getD false
    if !ok then b else match b with
      | none => some e
      | some c => if e.2.heat < c.2.heat then some e else b) none

/-- Pass 2: demotions under T1 pressure, coldest first, until T1_HIGH_WM percent are free. -/
def scanPressure (high : Nat) : Nat → List Nat → State → State
  | 0, _, s => s
  | fuel + 1, skip, s =>
    if t1Above s high then s
    else match coldest s skip with
      | none => s
      | some (f, t) =>
        let dst := ((rulesOf s t.cls).map (·.demoteTo)).getD .t2
        scanPressure high fuel (f :: skip) ((policyMove s f t dst).getD s)

/-- Pass 3 for one frame: promotion by heat; without a free T1 frame it is skipped and counted. -/
def scanUp (s : State) (e : Nat × TierEntry) : State :=
  match tierOf s e.1, rulesOf s e.2.cls with
  | some t, some r =>
    let hot := (r.promote.map fun x => decide (x ≤ t.heat)).getD false
    if t.tier = .t1 || !hot || !movable s e.1 t || !dwelt s t r then s
    else match policyMove s e.1 t .t1 with
      | some u => u
      | none => bump s .promoteSkip
  | _, _ => s

/-- A scan (R141); redefinitions of classes are in force from it on (R140). -/
def scan (s : State) : State :=
  let classes := s.mem.classesNext.foldl (fun m e => kset m e.1 e.2) s.mem.classes
  let s : State := { s with mem := { s.mem with classes := classes, classesNext := [] } }
  let s := s.mem.tier.foldl (fun s e => readHeat s e.1) s
  let s := s.mem.tier.foldl scanDown s
  let s := if t1Above s (regField s rPoolPolicy 16 8) then s
           else scanPressure (regField s rPoolPolicy 24 8) s.mem.tier.length [] s
  s.mem.tier.foldl scanUp s

/-- TIERING_SCAN (R141): a scan that is due. -/
def execTieringScan (s : State) : Host.Outcome State Fault Refusal :=
  live s fun s =>
    match s.mem.nextScan with
    | none => s
    | some t =>
      let s := untilTime s t
      let next := s.clk + regField s rPoolPolicy 0 10 * msNs
      settle hooks (scan { s with mem := { s.mem with scanAt := s.clk, nextScan := some next } })

/-! ## Free mode (R153 to R155) -/

/-- FREE_MODE_TAKE_EFFECT (R153): a change that named a fabric time takes effect when that time comes. -/
def execFreeModeTakeEffect (s : State) : Host.Outcome State Fault Refusal :=
  live s fun s =>
    match s.mem.freePending with
    | none => s
    | some (on, t, r) =>
      let s := untilFabric s t
      complete (setFree { s with mem := { s.mem with freePending := none } } on) r stOk 0 []

/-! ## The POOL commands of 03 -/

def poolSpec (verb : Nat) (pf0 : Bool) (args : List (Nat × Nat)) (opts : Nat) : CmdSpec :=
  { pf0 := pf0, group := 0x08, verb := verb, args := args, opts := opts }

/-- The 32-byte entry that POOL.FRAME_INFO returns (R122). -/
def entryBytes (s : State) (frame : Nat) : List Byte :=
  match tierOf s frame with
  | none => leBytes 32 0
  | some t =>
    leBytes 8 (1 + 2 * t.tier.code + (if t.moving then 8 else 0) + 16 * (t.copies - 1) +
      (if t.quarantined then 64 else 0) + 2 ^ 8 * t.cls + 2 ^ 16 * t.heat + 2 ^ 32 * t.heatEpoch) ++
    leBytes 8 t.loc0 ++ leBytes 8 t.loc1 ++ leBytes 8 t.loc2

/-- An AST belongs to the partition of a virtual function, or the command comes through PF0. -/
def astMine (s : State) (c : Cmd) (t : Nat) : Bool :=
  c.fn = 0 || ((astOf s t).map fun a => decide (a.partition = c.fn - 1)).getD false

/-- The pool address of a virtual address, where its page is valid. -/
def vaToPool (s : State) (t va : Nat) : Option Nat := (pteOf s t (va / GiB)).map fun e => e.page * GiB + va % GiB

/-- POOL_FRAME_INFO (R122): through PF0 a pool address in ARGS, through a VF a virtual address in ADDR0. -/
def execPoolFrameInfo (c : Cmd) (s : State) : Host.Outcome State Fault Refusal :=
  live s fun s =>
    let vf := c.fn ≠ 0
    let sp : CmdSpec := { poolSpec 4 false (if vf then [] else [(0, 8)]) 0 with ast := vf, acts := .reads }
    runCmd s c sp none (astMine s c c.ast.toNat) fun s =>
      if vf then
        match vaToPool s c.ast.toNat c.addr0.toNat with
        | none => complete s (cmdRef c) stNoMapping 0 []
        | some a =>
          let s := readHeat s (frameOf a)
          complete s (cmdRef c) stOk 0 (entryBytes s (frameOf a))
      else if 2 ^ 47 ≤ arg c 0 8 then complete s (cmdRef c) stMalformed 0 []
      else
        let f := frameOf (arg c 0 8)
        let s := readHeat s f
        complete s (cmdRef c) stOk 0 (entryBytes s f)

/-- HEAT of a list of frames, 2 bytes each. -/
def heatBytes (s : State) (fs : List (Option Nat)) : List Byte :=
  fs.flatMap fun f => leBytes 2 (((f.bind (tierOf s)).map (decayedHeat s)).getD 0)

/-- POOL_HEAT_READ (R137). -/
def execPoolHeatRead (c : Cmd) (s : State) : Host.Outcome State Fault Refusal :=
  live s fun s =>
    let vf := c.fn ≠ 0
    let sp : CmdSpec := { poolSpec 5 false (if vf then [(0, 4)] else [(0, 8), (8, 4)]) 0 with ast := vf, acts := .reads }
    runCmd s c sp none (astMine s c c.ast.toNat) fun s =>
      let n := if vf then arg c 0 4 else arg c 8 4
      let frames := if vf then (natRange 0 n).map fun i => (vaToPool s c.ast.toNat (c.addr0.toNat + i * frameBytes)).map frameOf
                    else (natRange (frameOf (arg c 0 8)) n).map some
      if vf && frames.any (·.isNone) then complete s (cmdRef c) stDenied 0 []
      else if !vf && decide (2 ^ 47 ≤ arg c 0 8) then complete s (cmdRef c) stMalformed 0 []
      else
        let s := frames.foldl (fun s f => match f with
          | some f => readHeat s f
          | none => s) s
        complete s (cmdRef c) stOk 0 (heatBytes s frames)

/-- A place for POOL.MOVE (R976): on the named slot, or on any. A named slot whose tray holds another copy of the frame has no place for it
(R149), and R976 has no case for that: the command completes with BUDGET as for want of storage (DESIGN CHOICE, log entry 164). -/
def movePlace (s : State) (frame : Nat) (t : TierEntry) (dst : Tier) (slot : Nat) : Option Place :=
  let except := otherSlots t 0
  if dst = .t1 || slot = 0xFF then pickIn s dst (frameLens s frame) except
  else if except.contains slot || !(openSlots s).contains slot then none
  else if dst = .t2 then (pickT2 s slot).map fun l => { loc := l } else pickT3 s slot (frameLens s frame)

/-- The partition of the frame that POOL.MOVE names (R594). -/
def framePart (s : State) (c : Cmd) : Option Nat := (tierOf s (frameOf (arg c 0 8))).map (·.partition)

/-- POOL_MOVE (R976). -/
def execPoolMove (c : Cmd) (s : State) : Host.Outcome State Fault Refusal :=
  live s fun s => runCmd s c { poolSpec 6 true [(0, 8), (8, 4), (12, 4)] 0 with acts := .object } (framePart s c) true fun s =>
    let a := arg c 0 8
    let tier := arg c 8 4
    let slot := arg c 12 4
    let r := cmdRef c
    let named := decide (1 < tier) && slot ≠ 0xFF
    if decide (2 ^ 47 ≤ a) || tier = 0 || decide (3 < tier) || (named && (decide (31 < slot) || (kfind s.mem.slots slot).isNone))
    then complete s r stMalformed 0 []
    else
      let f := frameOf a
      let dst := tierOfCode tier
      match tierOf s f with
      | none => complete s r stNoMapping 0 []
      | some t =>
        if t.tier = dst && (!named || locSlot t.loc0 = slot) then complete s r stOk 0 []
        else if !(((rulesOf s t.cls).map (·.tiers)).getD []).contains dst || t.bound ≠ 0 || t.quarantined then
          complete s r stDenied 0 []
        else if (kfind s.mem.moves f).isSome then complete s r stRetry 0 []
        else match movePlace s f t dst slot with
          | none => complete s r stBudget 0 []
          | some l => startMove (bumpFree s) f 0 dst l (some r)

/-- A pool frame of a home range is mapped (R110): homed here, or translated to by a page table of this switch. -/
def rangeMapped (s : State) (i : Nat) : Bool := s.mem.tier.any (fun e => e.1 / 16384 = i) || s.xl.ptes.any fun e => e.2.page / 32 = i

/-- POOL_SET_HOME (R108 to R110): entry index, then node number, 0x7FFF for no home. -/
def execPoolSetHome (c : Cmd) (s : State) : Host.Outcome State Fault Refusal :=
  live s fun s => runCmd s c (poolSpec 8 true [(0, 4), (4, 4)] 0) none true fun s =>
    let i := arg c 0 4
    let n := arg c 4 4
    let r := cmdRef c
    let old := (kfind s.mem.homes i).getD noNode
    if decide (4096 ≤ i) || decide (noNode < n) then complete s r stMalformed 0 []
    else if old = n then complete s r stOk 0 []
    else if rangeMapped s i then complete s r stDenied 0 []
    else if n ≠ noNode && decide (512 ≤ (s.mem.homes.filter fun e => e.2 = n).length) then
      complete s r stBudget 0 []
    else
      let h := if n = noNode then kdel s.mem.homes i else kset s.mem.homes i n
      complete { s with mem := { s.mem with homes := h } } r stOk 0 []

/-- The partner tray on a node of this switch, in discovery state KNOWN (R115): its DRAM size. -/
def trayDram (s : State) (node : Nat) : Option Nat :=
  match lportOfNode s node with
  | none => none
  | some n =>
    let l := lportOf s n
    if l.disc = .known && l.role = some .tray then l.partner.map (·.dramBytes) else none

/-- The node numbers of a list parameter (R845): unused entries hold 0x7FFF. -/
def nodeList (v : Nat) : List Nat := ((natRange 0 4).map fun i => bits v (16 * i) 16).filter (· ≠ noNode)

/-- POOL_ATTACH_TRAY (R115, R119, R737). The two tray offsets are 4 bytes each and count GiB (DESIGN CHOICE, log entry 145). -/
def execPoolAttachTray (c : Cmd) (s : State) : Host.Outcome State Fault Refusal :=
  live s fun s => runCmd s c (poolSpec 9 true [(0, 4), (8, 8), (16, 4), (20, 4), (24, 4), (28, 4)] 0) none true fun s =>
    let slot := arg c 0 4
    let nodes := nodeList (arg c 8 8)
    let t2 := arg c 16 4
    let t3 := arg c 20 4
    let o2 := arg c 24 4
    let o3 := arg c 28 4
    let r := cmdRef c
    let dram := nodes.findSome? (trayDram s)
    let excess := fun (o n : Nat) => (dram.map fun d => decide (0 < n ∧ d < (o + n) * GiB)).getD false
    if decide (31 < slot) || decide (1024 < t2) || decide (1024 < t3) || decide (2048 < t2 + t3) ||
        nodes.isEmpty || (nodes.any fun n => decide (noNode < n)) || nodes.eraseDups.length ≠ nodes.length ||
        (decide (0 < t2) && decide (0 < t3) && decide (o2 < o3 + t3) && decide (o3 < o2 + t2)) || excess o2 t2 || excess o3 t3 then
      complete s r stMalformed 0 []
    else if (kfind s.mem.slots slot).isSome || (nodes.any fun n => (trayDram s n).isNone) ||
        (s.mem.slots.any fun e => e.2.nodes.any nodes.contains) then complete s r stDenied 0 []
    else
      let t : TraySlot := { nodes := nodes, t2Gib := t2, t3Gib := t3, t2Off := o2, t3Off := o3 }
      complete { s with mem := { s.mem with slots := kset s.mem.slots slot t } } r stOk 0 []

/-- POOL_DETACH_TRAY (R120, R977): option bit 0 is EVACUATE. -/
def execPoolDetachTray (c : Cmd) (s : State) : Host.Outcome State Fault Refusal :=
  live s fun s => runCmd s c (poolSpec 10 true [(0, 4)] 1) none true fun s =>
    let slot := arg c 0 4
    let r := cmdRef c
    if 31 < slot then complete s r stMalformed 0 []
    else match kfind s.mem.slots slot with
      | none => complete s r stDenied 0 []
      | some t =>
        let t' : TraySlot := { t with evacuating := t.evacuating ++ [r] }
        let put := fun (s : State) => { s with mem := { s.mem with slots := kset s.mem.slots slot t' } }
        if !t.evacuating.isEmpty then put s
        else if (backedBy s slot).isEmpty && !freeingOn s slot && !movingOnto s slot then
          complete { s with mem := { s.mem with slots := kdel s.mem.slots slot } } r stOk 0 []
        else if !opt c 0 then complete s r stDenied 0 []
        else settle hooks (put s)

/-- POOL_SET_POLICY (R140): a class that is not defined is defined at once, a redefinition waits for the next scan. -/
def execPoolSetPolicy (c : Cmd) (s : State) : Host.Outcome State Fault Refusal :=
  live s fun s => runCmd s c (poolSpec 11 true [(0, 4), (4, 4), (8, 4), (12, 4), (16, 4), (20, 4), (24, 4)] 0) none true fun s =>
    let cls := arg c 0 4
    let p : PolicyClass := { tiers := arg c 4 4, initial := arg c 8 4, promote := arg c 12 4, demote := arg c 16 4,
                             compress := arg c 20 4, dwell := arg c 24 4 }
    if decide (cls < 8) || decide (63 < cls) || p.tiers = 0 || decide (7 < p.tiers) || p.initial = 0 ||
        decide (3 < p.initial) || !p.tiers.testBit (p.initial - 1) || decide (65535 < p.promote) ||
        decide (65535 < p.demote) || decide (65535 < p.compress) || decide (10000 < p.dwell) ||
        decide (p.promote ≤ p.demote) || decide (p.demote < p.compress) then complete s (cmdRef c) stMalformed 0 []
    else if (kfind s.mem.classes cls).isSome then
      complete { s with mem := { s.mem with classesNext := kset s.mem.classesNext cls p } } (cmdRef c) stOk 0 []
    else complete { s with mem := { s.mem with classes := kset s.mem.classes cls p } } (cmdRef c) stOk 0 []

/-- POOL_ENABLE_CLASS (R974): option bit 0 is ENABLE. -/
def execPoolEnableClass (c : Cmd) (s : State) : Host.Outcome State Fault Refusal :=
  live s fun s => runCmd s c { poolSpec 12 true [(0, 4)] 1 with acts := .field } none true fun s =>
    let cls := arg c 0 4
    let part := c.partition.toNat
    if decide (cls < 8) || decide (63 < cls) then complete s (cmdRef c) stMalformed 0 []
    else
      let m := setBits (kget s.mem.classOn part 0) cls 1 (if opt c 0 then 1 else 0)
      complete { s with mem := { s.mem with classOn := kset s.mem.classOn part m } } (cmdRef c) stOk (m + 0x3F) []

end Sys2Proof.Machine
end

