-- ==== Sys2Proof/Machine/Translation.lean ====
section
/-! DEFINITION. Machine/Translation.lean: the meanings of the commands and events of 04_translation_windows.md. -/
namespace Sys2Proof.Machine

/-! ## Walks and sweeps (R180, R183) -/

/-- A walk's entry for the requests that wait for it; a request whose last page has come is checked again. -/
def walkArrives (s : State) (ast page : Nat) : State :=
  let e := pteOf s ast page
  let waits := s.ing.waits.map fun w =>
    if w.2.todo.contains (ast, page) then
      (w.1, { w.2 with todo := w.2.todo.filter (· ≠ (ast, page)), got := w.2.got ++ [((ast, page), e)] })
    else w
  let ready := waits.filter fun w => w.2.todo.isEmpty
  let s := { s with ing := { s.ing with waits := waits.filter fun w => !w.2.todo.isEmpty } }
  ready.foldl (fun s w => checkQuar (fromEndpoint hooks s w.2.op w.2.p w.2.got) w.2.p.lport) s

/-- PAGE_WALK_DONE (R180): the entry read is cached where it is valid; under a GEN that has changed it is discarded and
walked for again. -/
def execPageWalkDone (ast page : Nat) (s : State) : Host.Outcome State Fault Refusal :=
  live s fun s =>
    match s.xl.walks.find? fun w => w.ast = ast && w.page = page with
    | none => s
    | some w =>
      let gen := ((astOf s ast).map (·.gen)).getD w.gen
      let rest := s.xl.walks.erase w
      if gen ≠ w.gen then { s with xl := { s.xl with walks := rest ++ [{ w with gen := gen }] } }
      else
        let s := { s with xl := { s.xl with walks := rest } }
        let s := match pteOf s ast page with
          | some e => if (astOf s ast).isSome then cachePut s { ast := ast, gen := gen, page := page, pte := e } else s
          | none => s
        settle hooks (walkArrives s ast page)

/-- GEN_SWEEP_DONE (R183, R187): the sweep has removed every entry of an earlier generation. -/
def execGenSweepDone (ast : Nat) (s : State) : Host.Outcome State Fault Refusal :=
  live s fun s =>
    match astOf s ast with
    | none => s
    | some a =>
      if !a.sweeping then s
      else
        let c := s.xl.cache.filter fun e => e.ast ≠ ast || e.gen = a.gen
        let s := invalFinish (modAst { s with xl := { s.xl with cache := c } } ast fun b => { b with sweeping := false }) ast
        settle hooks (invalNext ast (s.xl.invals.length + 1) s)

/-- Pages of 4 KiB that a table takes. -/
def tablePages (span : Nat) : Nat := tableBytes span / 4096

/-- The reserved frames that can hold tables (R114): first tier address [47:12] and number of 4 KiB pages. -/
def tableArea (s : State) : Nat × Nat := (t1Loc (t1Frames s), 2048 * 512)

/-- A table at a place meets no other table and lies in the reserved frames. -/
def tableFits (s : State) (loc pages : Nat) (except : Option Nat) : Bool :=
  let (lo, n) := tableArea s
  decide (lo ≤ loc ∧ loc + pages ≤ lo + n) &&
  s.xl.asts.all fun e => some e.1 = except ||
    decide (loc + pages ≤ e.2.ptLoc ∨ e.2.ptLoc + tablePages e.2.spanLog2 ≤ loc)

/-- PT_RELOCATE (R164): the switch moves a table to a free place of its own choice. -/
def execPtRelocate (ast loc : Nat) (s : State) : Host.Outcome State Fault Refusal :=
  live s fun s =>
    match astOf s ast with
    | none => s
    | some a => if tableFits s loc (tablePages a.spanLog2) (some ast) then modAst s ast fun b => { b with ptLoc := loc } else s

/-! ## The AST commands (R160 to R170, R981) -/

def astSpec (verb : Nat) (args : List (Nat × Nat)) (acts : Acts) : CmdSpec :=
  { group := 0x09, verb := verb, args := args, acts := acts }

/-- The partition of an AST that a command names. -/
def astPart (s : State) (t : Nat) : Option Nat := (astOf s t).map (·.partition)

/-- Partition a creating command acts for. -/
def fieldPart (c : Cmd) : Nat := if c.fn ≠ 0 then c.fn - 1 else c.partition.toNat

/-- A free place for a table: an open choice among the places that fit, looked for after every table's end and at the
area's start. -/
def tablePlace (s : State) (pages : Nat) : Option Nat :=
  let (lo, _) := tableArea s
  let spots := (lo :: s.xl.asts.map fun e => e.2.ptLoc + tablePages e.2.spanLog2).filter fun l => tableFits s l pages none
  chooseOf s spots

/-- The tables moved together at the area's start (R164), with the first place behind them. -/
def packTables (s : State) : State × Nat :=
  s.xl.asts.foldl (fun (r : State × Nat) e =>
    (modAst r.1 e.1 fun b => { b with ptLoc := r.2 }, r.2 + tablePages e.2.spanLog2)) (s, (tableArea s).1)

/-- Place a new table: at a free place, or behind the others once the switch has moved them together (R164). -/
def tableAlloc (s : State) (span : Nat) : State × Nat :=
  match tablePlace s (tablePages span) with
  | some loc => (bumpFree s, loc)
  | none => packTables s

/-- AST_CREATE (R162 to R164). GEN is 0 after it (R169), also under a number that another AST had (DESIGN CHOICE, log entry 136). With all
4,096 numbers in use it completes with BUDGET (DESIGN CHOICE, log entry 166). -/
def execAstCreate (c : Cmd) (s : State) : Host.Outcome State Fault Refusal :=
  live s fun s => runCmd s c (astSpec 1 [(0, 4)] .field) none true fun s =>
    let span := arg c 0 4
    let r := cmdRef c
    if decide (span < 30) || decide (48 < span) then complete s r stMalformed 0 []
    else if GiB < tablesTotal s + tableBytes span then complete s r stBudget 0 []
    else match firstFree (s.xl.asts.map (·.1)) 4096 (freeNat s) (s.xl.asts.length + 1) with
      | some n =>
        let (s, loc) := tableAlloc s span
        let a : Ast := { spanLog2 := span, partition := fieldPart c, gen := 0, ptLoc := loc, born := s.nextId }
        let s := bumpFree { s with xl := { s.xl with asts := kset s.xl.asts n a }, nextId := s.nextId + 1 }
        complete (if c.fn = 0 then tdiFault s a.partition else s) r stOk n []
      | none => complete s r stBudget 0 []

/-- AST_DESTROY (R170). -/
def execAstDestroy (c : Cmd) (s : State) : Host.Outcome State Fault Refusal :=
  live s fun s => runCmd s c (astSpec 2 [(0, 4)] .object) (astPart s (arg c 0 4)) (astMine s c (arg c 0 4)) fun s =>
    if (astOf s (arg c 0 4)).isNone then complete s (cmdRef c) stDenied 0 []
    else settle hooks (invalidate s (arg c 0 4) .destroy (some (cmdRef c)))

/-- AST_INVALIDATE (R185). -/
def execAstInvalidate (c : Cmd) (s : State) : Host.Outcome State Fault Refusal :=
  live s fun s => runCmd s c (astSpec 3 [(0, 4)] .object) (astPart s (arg c 0 4)) (astMine s c (arg c 0 4)) fun s =>
    if (astOf s (arg c 0 4)).isNone then complete s (cmdRef c) stDenied 0 []
    else settle hooks (invalidate s (arg c 0 4) .invalidate (some (cmdRef c)))

/-- The 16-byte entry that AST.INFO returns (R169). -/
def astBytes (s : State) (t : Nat) : List Byte :=
  match astOf s t with
  | none => leBytes 16 0
  | some a =>
    leBytes 8 (1 + (if a.draining then 2 else 0) + 4 * a.spanLog2 + 2 ^ 8 * a.partition + 2 ^ 32 * a.gen) ++
    leBytes 8 (a.ptLoc + 2 ^ 36 * a.drainCount)

/-- AST_INFO (R169, R981). A number above 4,095 names no AST and is MALFORMED (DESIGN CHOICE, log entry 167). -/
def execAstInfo (c : Cmd) (s : State) : Host.Outcome State Fault Refusal :=
  live s fun s => runCmd s c (astSpec 4 [(0, 4)] .reads) none (astMine s c (arg c 0 4)) fun s =>
    if 4095 < arg c 0 4 then complete s (cmdRef c) stMalformed 0 []
    else complete s (cmdRef c) stOk 0 (astBytes s (arg c 0 4))

/-- AST_PTE_READ (R165, R981). -/
def execAstPteRead (c : Cmd) (s : State) : Host.Outcome State Fault Refusal :=
  live s fun s => runCmd s c (astSpec 5 [(0, 4), (4, 4)] .reads) none (astMine s c (arg c 0 4)) fun s =>
    let t := arg c 0 4
    let i := arg c 4 4
    if 262143 < i then complete s (cmdRef c) stMalformed 0 []
    else if (astOf s t).isNone then complete s (cmdRef c) stDenied 0 []
    else complete s (cmdRef c) stOk 0 (leBytes 4 (((pteOf s t i).map pteWord).getD 0))

/-! ## Windows (R191 to R197) -/

def winSpec (verb : Nat) (args : List (Nat × Nat)) : CmdSpec := { pf0 := true, group := 0x0A, verb := verb, args := args }

/-- Operations, and requests of this ingress, that were translated through a window entry. -/
def windowUsers (s : State) (i : Nat) : List Nat :=
  (s.mem.ops.filter fun e => e.2.window = i + 1 || e.2.srcWindow = i + 1).map (·.1) ++
  (s.ing.outs.filter fun e => e.2.parts.any fun p => match p.win with
    | some w => w.1.2 = i + 1 || w.2.2 = i + 1
    | none => false).map (·.1)

/-- The change of a window completes when its old users are done (R197). -/
def windowChanged (s : State) (i : Nat) (r : CmdRef) : State :=
  let ops := windowUsers s i
  if ops.isEmpty then complete s r stOk 0 []
  else { s with xl := { s.xl with windowDrains := s.xl.windowDrains ++ [{ index := i, ops := ops, by_ := r }] } }

/-- WINDOW_SET (R192): index, OFFSET_BASE, SIZE_GIB, POOL_BASE. -/
def execWindowSet (c : Cmd) (s : State) : Host.Outcome State Fault Refusal :=
  live s fun s => runCmd s c (winSpec 1 [(0, 4), (4, 4), (8, 4), (12, 4)]) none true fun s =>
    let i := arg c 0 4
    let w : Window := { offsetBase := arg c 4 4, sizeGib := arg c 8 4, poolBase := arg c 12 4 }
    -- a window of size 0 matches no offset, and so overlaps none (R26, R191)
    let overlaps := s.xl.windows.any fun e => e.1 ≠ i && e.2.sizeGib ≠ 0 && w.sizeGib ≠ 0 &&
      decide (w.offsetBase < e.2.offsetBase + e.2.sizeGib ∧ e.2.offsetBase < w.offsetBase + w.sizeGib)
    if decide (1023 < i) || decide (131071 < w.offsetBase) || decide (131071 < w.poolBase) ||
        decide (131072 < w.offsetBase + w.sizeGib) || decide (131072 < w.poolBase + w.sizeGib) || overlaps then
      complete s (cmdRef c) stMalformed 0 []
    else
      -- R749: the partitions that have mapped a gigabyte of the window
      let seen := (s.xl.ptes.filter fun e => decide (w.poolBase ≤ e.2.page ∧ e.2.page < w.poolBase + w.sizeGib)).filterMap fun e =>
        astPart s (e.1 / 2 ^ 18)
      let s := seen.eraseDups.foldl tdiFault s
      windowChanged { s with xl := { s.xl with windows := kset s.xl.windows i w } } i (cmdRef c)

/-- WINDOW_CLEAR (R191, R197). -/
def execWindowClear (c : Cmd) (s : State) : Host.Outcome State Fault Refusal :=
  live s fun s => runCmd s c (winSpec 2 [(0, 4)]) none true fun s =>
    let i := arg c 0 4
    if 1023 < i then complete s (cmdRef c) stMalformed 0 []
    else windowChanged { s with xl := { s.xl with windows := kdel s.xl.windows i } } i (cmdRef c)

/-! ## Mapping (R171 to R178, R979, R980) -/

/-- Complete with a CODE and the order of the failing check (R851). -/
def failCheck (s : State) (c : Cmd) (st order : Nat) : State := complete s (cmdRef c) (st + 256 * order) 0 []

/-- POOL_MAP (R979). A pool base at or above 2^47 is no pool address: check 1 refuses it; a home to which the message finds no route is
RETRY_LATER (DESIGN CHOICE, log entry 137). -/
def execPoolMap (c : Cmd) (s : State) : Host.Outcome State Fault Refusal :=
  live s fun s =>
    let t := c.ast.toNat
    runCmd s c { group := 0x08, verb := 1, pf0 := true, opts := 1, ast := true, acts := .object,
                 args := [(0, 8), (8, 4), (12, 4), (16, 4), (20, 4)] } (astPart s t) true fun s =>
      let va := c.addr0.toNat
      let pool := arg c 0 8
      let size := arg c 8 4
      let perms := arg c 12 4
      let cls := arg c 16 4
      let copies := arg c 20 4
      let v := va / GiB
      let p := pool / GiB
      if (size ≠ 1 && size ≠ 32) || va % (size * GiB) ≠ 0 || pool % (size * GiB) ≠ 0 || copies = 0 || decide (3 < copies) ||
          decide (7 < perms) || decide (2 ^ 47 ≤ pool) then failCheck s c stMalformed 1
      else match astOf s t with
        | none => failCheck s c stDenied 2
        | some a =>
          if tableEntries a < v + size then failCheck s c stMalformed 3
          else match classRefusal s a.partition cls with
            | some st => failCheck s c st 4
            | none =>
              if (natRange v size).any fun i => (pteOf s t i).isSome then failCheck s c stDenied 5
              -- R238: no mapping makes two decoders of a host bridge map one gigabyte; R174 gives the check no order (DESIGN CHOICE, log
              -- entry 154)
              else if !hdmClash s && hdmClash (writePage s t v size p perms) then failCheck s c stMalformed 0
              else match homeOf s pool with
                | none => failCheck s c stNoMapping 6
                | some n =>
                  if n = selfNode s then
                    match homeAdds s (natRange p size) cls copies a.partition (opt c 0) with
                    | .inr st => failCheck s c st (if st = stMalformed then 7 else 8)
                    | .inl u => complete (writePage u t v size p perms) (cmdRef c) stOk 0 []
                  else
                    let tag := s.ing.ownTag
                    let body := leBytes 8 pool ++ leBytes 4 size ++ leBytes 4 perms ++ leBytes 4 cls ++ leBytes 4 copies
                    let pl := xchgPayload 1 0x08 0x01 a.partition va body
                    let pl := pl.take 13 ++ leBytes 1 (if opt c 0 then 1 else 0) ++ pl.drop 14
                    match sendMgmt s 0x89 n pl with
                    | some u => { u with waits := kset u.waits tag (.mapRef (cmdRef c) t v size p perms a.born) }
                    | none => failCheck s c stRetry 0

/-- POOL.UNMAP and POOL.PROTECT: a size of 0 changes nothing (R26); else their invalidation runs, or waits to be judged when its turn
comes (R186, R980). -/
def changeRange (s : State) (c : Cmd) (n : Nat) (kind : Nat → InvalKind) (bad : Bool) : State :=
  let t := c.ast.toNat
  let va := c.addr0.toNat
  let v := va / GiB
  if (astOf s t).isNone then complete s (cmdRef c) stDenied 0 []
  else if bad then complete s (cmdRef c) stMalformed 0 []
  else if n = 0 then complete s (cmdRef c) stOk 0 []
  else if va % GiB ≠ 0 then complete s (cmdRef c) stMalformed 0 []
  else settle hooks (invalidate s t (kind v) (some (cmdRef c)))

/-- POOL_UNMAP (R980). -/
def execPoolUnmap (c : Cmd) (s : State) : Host.Outcome State Fault Refusal :=
  live s fun s =>
    let t := c.ast.toNat
    runCmd s c { group := 0x08, verb := 2, ast := true, acts := .object, args := [(0, 4)] } (astPart s t) (astMine s c t)
      fun s => changeRange s c (arg c 0 4) (fun v => .unmap v (arg c 0 4)) false

/-- POOL_PROTECT (R980). -/
def execPoolProtect (c : Cmd) (s : State) : Host.Outcome State Fault Refusal :=
  live s fun s =>
    let t := c.ast.toNat
    runCmd s c { group := 0x08, verb := 3, ast := true, acts := .object, args := [(0, 4), (4, 4)] } (astPart s t) (astMine s c t)
      fun s => changeRange s c (arg c 0 4) (fun v => .protect v (arg c 0 4) (arg c 4 4)) (decide (7 < arg c 4 4))

end Sys2Proof.Machine
end

