-- ==== Sys2Proof/Machine/Coll.lean ====
section
/-! DEFINITION. Machine/Coll.lean: the meanings of the COLL commands and of a stall (09_collectives.md). -/
namespace Sys2Proof.Machine

/-! ## Commands that name tables -/

/-- Begin a command that reads its descriptor or map at a virtual address under an AST (R845). -/
def tableCmd (s : State) (c : Cmd) (part group verb : Nat) : State :=
  let p : Req := { lport := 1000, tc := 0, vc := 0, partition := BitVec.ofNat 10 part, ast := c.ast, src := BitVec.ofNat 15 (selfNode s), dst := 0, tag := 0, length := 0,
                   address := 0, seq := 0, flags := 0, payload := [] }
  settle hooks (putJob s { kind := .command group verb c, dest := .cmd (cmdRef c), p := p, stage := .parts }).1

/-- The partition of an AST named, where there is one. -/
def tablePart (s : State) (c : Cmd) : Nat := ((astOf s c.ast.toNat).map (·.partition)).getD 0

/-- COLL_OPEN (R379, R391): the descriptor at a virtual address under the AST. -/
def execCollOpen (c : Cmd) (s : State) : Host.Outcome State Fault Refusal :=
  live s fun s => runCmd s c { group := 0x0E, verb := 1, ast := true, acts := .object } (astPart s c.ast.toNat) (astMine s c c.ast.toNat) fun s =>
    tableCmd s c (tablePart s c) 0x0E 1

/-- The context of a command's handle here, whether it is of the function's partition. -/
def collOf (s : State) (c : Cmd) : Option (Nat × CollCtx) := handleCtx s (arg c 0 8)
def collPart (s : State) (c : Cmd) : Option Nat := (collOf s c).map (·.2.part)
def collMine (s : State) (c : Cmd) : Bool := c.fn = 0 || collPart s c = some (c.fn - 1)

/-- A command that goes to the coordinator of a context: the one that re-hosting has named last (R424). -/
def atCoordinator (s : State) (c : Cmd) (f : Nat → CollCtx → State) : State :=
  match collOf s c with
  | some (ck, x) => if x.lead = selfNode s then f ck x else complete s (cmdRef c) stDenied 0 []
  | none => complete s (cmdRef c) stDenied 0 []

/-- COLL_CLOSE (R431): option 0 is FORCE. -/
def execCollClose (c : Cmd) (s : State) : Host.Outcome State Fault Refusal :=
  live s fun s => runCmd s c { group := 0x0E, verb := 2, opts := 1, args := [(0, 8)], acts := .object } (collPart s c) (collMine s c) fun s =>
    atCoordinator s c fun _ x => settle hooks (collClose s (.cmd (cmdRef c)) x (opt c 0))

/-- COLL_SET_OPT (R438): the handle and the round in ARGS; LR, WD, BETA1, BETA2, EPS and GRAD_SCALE at ADDR0. -/
def execCollSetOpt (c : Cmd) (s : State) : Host.Outcome State Fault Refusal :=
  live s fun s =>
    let sp : CmdSpec := { group := 0x0E, verb := 3, host := true, args := [(0, 8), (8, 4)], acts := .object }
    runCmd s c sp (collPart s c) (collMine s c) fun s =>
      atCoordinator s c fun _ x =>
        let b := sliceBytes (c.host.getD []) 0 24
        if cdOpt x.desc = 0 then complete s (cmdRef c) stMalformed 0 []
        else
          let hosts := ((natRange 0 (cdTrees x.desc)).map fun t => hostOf x (rootOf x.desc x.tree t)).eraseDups
          settle hooks (tellHosts s { group := 0x0E, verb := 3, part := x.part, dest := .cmd (cmdRef c), obj := handleOf x, stage := 0, rest := b } 4 3
            (handleOf x) (leBytes 4 0 ++ leBytes 4 (arg c 8 4) ++ leBytes 16 0) hosts collOptPart)

/-- The contexts that a function sees: PF0 all of them, a virtual function those of its partition. -/
def collsSeen (s : State) (c : Cmd) : List (Nat × CollCtx) := s.fab.ctxs.filter fun e => c.fn = 0 || e.2.part = c.fn - 1

/-- COLL_STATS (R440): for each context here its handle and its seven counters. -/
def execCollStats (c : Cmd) (s : State) : Host.Outcome State Fault Refusal :=
  live s fun s => runCmd s c { group := 0x0E, verb := 4, acts := .reads } none true fun s =>
    complete s (cmdRef c) stOk 0 ((collsSeen s c).flatMap fun e => leBytes 8 (handleOf e.2) ++ (natRange 0 7).flatMap fun k => leBytes 8 (ctr s (.coll e.1 k)))

/-- COLL_REHOST (R424): the handle, the logical node, its new host, and the new coordinator or 0x7FFF for none in ARGS. Where none is named the
coordinator directs the re-host, and is asked to where the command reaches another host; otherwise this switch does. -/
def execCollRehost (c : Cmd) (s : State) : Host.Outcome State Fault Refusal :=
  live s fun s =>
    let sp : CmdSpec := { pf0 := true, group := 0x0E, verb := 5, args := [(0, 8), (8, 4), (12, 4), (16, 4)], acts := .object }
    runCmd s c sp (collPart s c) true fun s =>
      match collOf s c with
      | none => complete s (cmdRef c) stDenied 0 []
      | some (ck, x) =>
        let ix := arg c 8 4
        let host := arg c 12 4
        let lead := arg c 16 4
        let known := fun (n : Nat) => n = selfNode s || (kfind s.core.routes n).isSome
        if cdNodes x.desc ≤ ix ∨ 2 ^ 15 ≤ host ∨ 2 ^ 15 ≤ lead then complete s (cmdRef c) stMalformed 0 []
        else if !known host || !(lead = noNode || known lead) then complete s (cmdRef c) stDenied 0 []
        else if lead ≠ noNode ∨ x.lead = selfNode s then
          settle hooks (rehost s (.cmd (cmdRef c)) ck ix host (if lead = noNode then x.lead else lead))
        else settle hooks (tellHosts s { group := 0x0E, verb := 5, part := x.part, dest := .cmd (cmdRef c), obj := ck, stage := 2 } 4 5 (handleOf x)
          (noteArgs 2 0 ix host x.lead 0 0) [x.lead] collResumePart)

/-! ## Stalls -/

/-- A node that has had no input for STALL_MS reports what its lowest open chunk lacks, and a partner named loses 30 points (R417, R794). -/
def collStall (s : State) (coord id ix : Nat) : State :=
  let ck := ctxKey coord id
  let nk := nodeKey ck ix
  match ctxOf s ck, cnodeOf s nk with
  | some x, some n =>
    if cdStall x.desc = 0 ∨ n.stallTold = true then s
    else match lowestOpen x n with
      | none => s
      | some key =>
        let who := lacking x n key
        if who.isEmpty then s
        else
          let s := untilTime s (n.lastInput + cdStall x.desc * 1000000)
          let s := bumpColl (modNode s nk fun n => { n with stallTold := true }) ck 5 1
          who.foldl (fun s node =>
            let s := match partnerPort s node with
              | some l => penal s l 30
              | none => s
            stallReport s x n node) s
  | _, _ => s

/-- COLL_STALL (R417). -/
def execCollStall (coord id ix : Nat) (s : State) : Host.Outcome State Fault Refusal :=
  live s fun s => settle hooks (collStall s coord id ix)

end Sys2Proof.Machine
end

