-- ==== Sys2Proof/Machine/SecCore.lean ====
section
/-! DEFINITION. Machine/SecCore.lean: Hurricane: who it is, keys, measurements, link key exchanges, TDISP and IDE
(17_security.md R724 to R758). -/
namespace Sys2Proof.Machine

/-! ## Identity, generator, keys -/

/-- The switch has no identity to sign with: the PUF reconstruction failed (R736), the keys were destroyed (R788, R969). -/
def idLost (s : State) : Bool := s.sec.noIdentity || s.tap.unlocked || !s.ras.hurricane

/-- The status of a command that needs a new key or nonce, where it gets none (R733, R788). -/
def keyStatus (s : State) : Option Nat :=
  if !s.ras.hurricane || s.ras.rngFailed || s.tap.unlocked then some stDenied else if !s.ras.rngOk then some stRetry else none

/-- A random byte string of the generator (R732). -/
def randomBytes (s : State) (n : Nat) : List Byte := sliceBytes (Config.random s.freeCtr n) 0 n

/-- Change what Hurricane keeps. -/
def modSec (s : State) (f : Sec → Sec) : State := { s with sec := f s.sec }

/-- What frames and draft storage hold once their keys are destroyed: bytes that nobody knows (R737). -/
def scrambled (s : State) : List (Nat × Byte) :=
  let units := s.mem.tier.map (fun e => e.1 * frameBytes) ++ s.snap.storage.map fun e => sidBase e.1
  units.foldl (fun m a => writeBytes m a (freeBytes (s.freeCtr + a) frameBytes)) s.mem.bytes

/-- Every key is destroyed (R731, R788, R969): link, session and IDE keys, and the memory keys, so that nothing stored can be read. -/
def destroyKeys (s : State) : State :=
  let s := { s with
    lports := s.lports.map fun (e : Nat × LPort) => (e.1, { e.2 with sec := {} })
    mem := { s.mem with bytes := scrambled s } }
  bumpFree (modSec s fun x => { x with kex := [], sessions := [], ide := [], spdm := 0, bound := [] })

/-! ## Partitions (R728) -/

/-- Decoders that are members of a partition (R729). -/
def decodersOf (s : State) (n : Nat) : List Nat := (s.coh.decoders.filter fun e => e.2.partition = n && decide (0 < e.2.sizeGib)).map (·.1)

/-- Logical ports that are members of a partition. -/
def portsOf (s : State) (n : Nat) : List Nat := (s.lports.filter fun e => portMember s e.1 n).map (·.1)

def PartState.code : PartState → Nat
  | .free => 0 | .active => 1 | .tearing => 2 | .scrubbing => 3
def Tdi.code : Tdi → Nat
  | .unlocked => 0 | .locked => 1 | .run => 2 | .error => 3

/-- The 128-bit record of a partition (R728). -/
def partWord (s : State) (n : Nat) : Nat :=
  let p := partOf s n
  p.st.code + 2 ^ 2 * p.tdi.code + 2 ^ 16 * p.ops + 2 ^ 32 * p.pinT1 +
  2 ^ 48 * ((portsOf s n).length + (decodersOf s n).length) + 2 ^ 64 * p.keyGen

/-! ## Measurements (R744, R745) -/

/-- The program log's value (R745). -/
def progFold (events : List (List Byte)) : List Byte :=
  events.foldl (fun l e => Config.shake256 32 (l ++ e)) (leBytes 32 0)

/-- Marked ports. -/
def markedPorts (s : State) : List Nat := (s.lports.filter fun e => e.2.marked).map (·.1)

/-- What index 6 covers (R744): of each partition that is not FREE its number, record, member ports and decoders. -/
def partSet (s : State) : List (List Nat) :=
  ((s.parts.filter fun e => e.2.st ≠ .free).map fun e => e.1 :: partWord s e.1 :: (portsOf s e.1 ++ 1024 :: decodersOf s e.1))

/-- The measurement blocks of R744: index and digest. -/
def measurements (s : State) : List (Nat × List Byte) :=
  [(1, Config.romMeasurement), (2, bundleMeasure s), (3, Config.shake256 32 (bundlePart s.boot.bundle 2)),
   (4, Config.secMeasurement (s.fm.managers.map (·.key)) (markedPorts s) s.sec.policyLog), (5, progFold s.sec.progLog),
   (6, Config.partMeasurement (partSet s))]

/-! ## Interface reports (R748) -/

/-- The interface report of a VF. -/
def tdiReport (s : State) (vf : Nat) : TdiReport :=
  let n := vf - 1
  { vf := vf, barBytes := 65536, vectors := vectors vf, record := partWord s n, ports := portsOf s n,
    decoders := decodersOf s n, asts := (s.xl.asts.filter fun e => e.2.partition = n).map (·.1), insts := instsOf s n }

/-- Its bytes. -/
def TdiReport.bytes (r : TdiReport) : List Byte :=
  Config.reportBytes [[r.vf, r.barBytes, r.vectors, r.record], r.ports, r.decoders, r.asts] r.insts

/-- What SEC.ATTEST signs (R746): the blocks in order, the nonce, the die serial number, fabric time, and through a VF its report. -/
def attestBody (s : State) (fn : Nat) (nonce : List Byte) : List Byte :=
  (measurements s).flatMap (fun m => sliceBytes m.2 0 32) ++ sliceBytes nonce 0 32 ++ leBytes 8 s.fm.serial ++
  leBytes 8 s.ftime.toNat ++ (if fn = 0 then [] else (tdiReport s fn).bytes)

/-! ## Link key exchanges (R755 to R758) -/

/-- A record of R755: node, port and nonce, and an encapsulation key or ciphertext. -/
structure KexRecord where
  node : Nat
  port : Nat
  nonce : List Byte
  body : List Byte
deriving DecidableEq, Repr

/-- Bytes of a record: 4 of the node, 4 of the port, 32 of the nonce, then 1,568 of the key or ciphertext. -/
def KexRecord.bytes (r : KexRecord) : List Byte :=
  leBytes 4 r.node ++ leBytes 4 r.port ++ sliceBytes r.nonce 0 32 ++ sliceBytes r.body 0 1568

/-- A record with its signature and the sender's chain. -/
def kexPayload (s : State) (r : KexRecord) : List Byte := r.bytes ++ aliasSign s r.bytes ++ ownChain s

/-- The record, signature and chain verified: the record, and the serial that the chain names. -/
def kexRead (b : List Byte) : Option (KexRecord × Nat) :=
  if b.length < 4936 then none
  else match Config.chainKey (b.drop 4936) with
    | none => none
    | some (key, serial) =>
      if sigOk key (b.take 1608) (sliceBytes b 1608 3328) then
        some ({ node := leField b 0 4, port := leField b 4 4, nonce := sliceBytes b 8 32, body := sliceBytes b 40 1568 }, serial)
      else none

/-- The 72 bytes that both sides take (R756), of the initiator's and the responder's nonce, serial and port. -/
def kexKeys (secret nA nB : List Byte) (serA serB portA portB : Nat) : List Byte :=
  sliceBytes (Config.shake256 72 (secret ++ nA ++ nB ++ leBytes 8 serA ++ leBytes 8 serB ++ leBytes 4 portA ++ leBytes 4 portB)) 0 72

/-- Install a key for each direction in the empty slot (R592, R756): the first keys are used at once; later the side that started
the exchange changes over at its next frame boundary, the other when the first frame of the new slot arrives. -/
def installKeys (s : State) (n : Nat) (tx rx : List Byte) (initiator : Bool) : State :=
  let s := modLport s n fun l =>
    if (l.sec.txKeys.getD l.sec.txSlot none).isNone then
      let x : Secure := { txKeys := [some tx, none], rxKeys := [some rx, none], since := s.clk }
      { l with sec := x }
    else
      let k := 1 - l.sec.txSlot
      let x : Secure := { l.sec with
        txKeys := l.sec.txKeys.set k (some tx), rxKeys := l.sec.rxKeys.set k (some rx)
        txWant := if initiator then some k else l.sec.txWant }
      { l with sec := x }
  pump s n

/-- Start an exchange on a port: the record of A. -/
def kexStart (s : State) (n : Nat) : State × KexRecord :=
  let nonce := randomBytes s 32
  let r : KexRecord := { node := selfNode s, port := n, nonce := nonce, body := Config.kemPublic s.freeCtr }
  let k : Kex := { since := s.clk, nonce := nonce, pair := s.freeCtr }
  (bumpFree (modSec s fun x => { x with kex := kset x.kex n k }), r)

/-- Answer A's record on a port (step 2 of R755): the keys are installed; the record of B. -/
def kexRespond (s : State) (n : Nat) (a : KexRecord) (serial : Nat) : State × KexRecord :=
  let nonce := randomBytes s 32
  let (ct, secret) := Config.kemEncaps a.body s.freeCtr
  let keys := kexKeys secret a.nonce nonce serial s.fm.serial a.port n
  (installKeys (bumpFree s) n (keys.drop 36) (keys.take 36) false, { node := selfNode s, port := n, nonce := nonce, body := ct })

/-- B's record finishes an exchange that this switch started (step 3 of R755). -/
def kexFinish (s : State) (n : Nat) (k : Kex) (b : KexRecord) (serial : Nat) : State :=
  let keys := kexKeys (Config.kemDecaps k.pair b.body) k.nonce b.nonce s.fm.serial serial n b.port
  installKeys (modSec s fun x => { x with kex := kdel x.kex n }) n (keys.take 36) (keys.drop 36) true

/-- Whether an exchange can run on a port: the status that refuses it (R733, R736, R755). -/
def kexCheck (s : State) (n : Nat) : Option Nat :=
  if idLost s then some stDenied
  else if !(lportOf s n).marked then some stDenied
  else keyStatus s

/-- The rekey of a marked link is this side's to start (R757): the lower node number. -/
def kexMine (s : State) (n : Nat) : Bool :=
  match (lportOf s n).partner with
  | some p => decide (selfNode s < p.node)
  | none => false

/-! ## SPDM, TDISP and IDE (R739 to R752) -/

/-- The responder answers. -/
def spdmSay (s : State) (session : Option Nat) (r : SpdmReply) : State := emit s (.spdm session r)

/-- An SPDM request arrives at PF0's mailbox: it is answered while the management port carries it; ERROR where the switch has no
identity (R736). `need` is how far the connection must be negotiated. -/
def spdm (need : Nat) (f : State → State) (s : State) : Host.Outcome State Fault Refusal :=
  live s fun s =>
    if !mgmtUp s then s
    else if idLost s then spdmSay s none (.error .unspecified)
    else if s.sec.spdm < need then spdmSay s none (.error .unexpectedRequest)
    else f s

/-- A session that is established. -/
def sessionOpen (s : State) (id : Nat) : Bool := s.sec.sessions.any fun x => x.id = id && x.established

/-- A request within a session. -/
def inSession (id : Nat) (f : State → State) (s : State) : Host.Outcome State Fault Refusal :=
  spdm 3 (fun s => if sessionOpen s id then f s else spdmSay s (some id) (.error .unexpectedRequest)) s

/-- A session ends (R734): its keys, and the IDE keys programmed in it, are destroyed. -/
def sessionEnds (s : State) (id : Nat) : State :=
  modSec s fun x => { x with sessions := x.sessions.filter fun e => e.id ≠ id, ide := x.ide.filter fun k => k.session ≠ id }

/-- A TDISP request for a VF's TDI: the partition it serves. -/
def tdisp (id vf : Nat) (f : State → Nat → State) (s : State) : Host.Outcome State Fault Refusal :=
  inSession id (fun s =>
    if vf = 0 || !fnExists s vf then spdmSay s (some id) (.tdispError .invalidInterface) else f s (vf - 1)) s

/-- Streams that hold keys on a port: 0 is the management port, k + 1 host bridge k. -/
def ideStreamsOf (s : State) (port : Nat) : List Nat := ((s.sec.ide.filter fun k => k.port = port).map (·.stream)).eraseDups

/-- Streams that a port supports (R751, R752): one link and eight selective; CXL.mem and one selective. -/
def streamRoom (port : Nat) : Nat := if port = 0 then 9 else 2

/-- A key set of a stream. -/
def inSet (port stream set : Nat) (k : IdeKey) : Bool := k.port = port && k.stream = stream && k.set = set

/-- Change the TDI of a partition. -/
def setTdi (s : State) (n : Nat) (t : Tdi) : State := modPart s n fun p => { p with tdi := t }

end Sys2Proof.Machine
end

