-- ==== Sys2Proof/Machine/Debug.lean ====
section
/-! DEFINITION. Machine/Debug.lean: the commands that read Lantern's ring and the health log, and the JTAG port
(24_telemetry_debug.md R960, R964 to R972). -/
namespace Sys2Proof.Machine

/-! ## Reading the rings (R960) -/

/-- Entries of a ring of which the oldest is held first, from FIRST or from the oldest entry where that is later, at most COUNT;
`next` is the number of the next entry. Numbers are modulo 2^32, and FIRST is the latest one that is not after `next`; before the
first 2^32 entries a FIRST beyond `next` names none. -/
def ringFrom (ring : List (Nat × List Byte)) (next first count : Nat) : List (Nat × List Byte) :=
  let age := fun k : Nat => (next % 2 ^ 32 + 2 ^ 32 - k % 2 ^ 32) % 2 ^ 32
  if next < 2 ^ 32 ∧ next < first then [] else (ring.filter fun e => decide (age e.1 ≤ age first)).take count

/-- Complete a read of a ring: RESULT holds the first SEQ written and the number of entries. -/
def completeRing (s : State) (r : CmdRef) (first : Nat) (l : List (Nat × List Byte)) : State :=
  let seq := match l with
    | e :: _ => e.1 % 2 ^ 32
    | [] => first
  complete s r stOk (seq + 2 ^ 32 * l.length) (l.flatMap fun e => sliceBytes e.2 0 64)

/-- A read of a ring: FIRST and COUNT are its parameters. -/
def readRing (s : State) (c : Cmd) (ring : List (Nat × List Byte)) (next : Nat) : State :=
  let count := arg c 4 4
  if 16777215 < count then complete s (cmdRef c) stMalformed 0 []
  else completeRing s (cmdRef c) (arg c 0 4) (ringFrom ring next (arg c 0 4) count)

/-- LANTERN_READ (R960). -/
def execLanternRead (c : Cmd) (s : State) : Host.Outcome State Fault Refusal :=
  live s fun s => runCmd s c { pf0 := true, group := 0x1B, verb := 1, args := [(0, 4), (4, 4)] } none true fun s =>
    readRing s c s.lan.ring s.lan.next

/-- LANTERN_LOG_READ (R965). -/
def execLanternLogRead (c : Cmd) (s : State) : Host.Outcome State Fault Refusal :=
  live s fun s => runCmd s c { pf0 := true, group := 0x1B, verb := 2, args := [(0, 4), (4, 4)] } none true fun s =>
    readRing s c s.lan.log s.lan.logNext

/-- LANTERN_STATS (R964). -/
def execLanternStats (c : Cmd) (s : State) : Host.Outcome State Fault Refusal :=
  live s fun s => runCmd s c { pf0 := true, group := 0x1B, verb := 3 } none true fun s =>
    complete s (cmdRef c) stOk 0 ((natRange 0 5).flatMap fun k => leBytes 8 (ctr s (.lantern k)))

/-! ## The test access port (R966 to R968) -/

/-- The switch is powered, so that its TAP works. -/
def tapPowered (s : State) : Bool := s.boot.phase ≠ .unpowered

/-- A TAP instruction takes effect while the switch is powered. -/
def tapRow (s : State) (f : State → State) : Host.Outcome State Fault Refusal :=
  if tapPowered s then .next (f s) else .next s

/-- Load an instruction. -/
def tapLoad (s : State) (i : TapInstr) : State := { s with tap := { s.tap with instr := i } }

/-- The part's number, as IDCODE and the Device ID give it. -/
def partNumber : Part → Nat
  | .olm9648A0 | .olm9648B0 => 0x9648
  | .olm9664A0 | .olm9664B0 => 0x9664

/-- The silicon's revision: A0 or B0. -/
def partRevision : Part → Nat
  | .olm9648A0 | .olm9664A0 => 0
  | .olm9648B0 | .olm9664B0 => 1

/-- The identification register (R966). -/
def idcodeWord (p : Part) : Nat := 1 + 2 * 0x2B7 + 2 ^ 12 * partNumber p + 2 ^ 28 * partRevision p

/-- EXTEST, CLAMP and HIGHZ may act (R968): else they load as BYPASS. -/
def extestOk (s : State) : Bool :=
  regField s rDebugPolicy 1 1 = 1 && (s.boot.phase = .recovery || decide (s.ras.halt ≠ 0))

/-- TIME_PPS_OUT as the switch drives it (R938): high for 1 ms from each second of fabric time, low while UNSET. -/
def ppsLevel (s : State) : Bool := s.tk.st ≠ .unset && decide (s.ftime.toNat % 1000000000 < 1000000)

/-- An output ball: what the loaded instruction drives on it (R967), or what the switch drives; `none` where nothing drives it. -/
def ballLevel (s : State) (cell : Nat) (enabled : Bool) (own : Option Bool) : Option Bool :=
  match s.tap.instr with
  | .extest | .clamp => if enabled then some (s.tap.cells.testBit cell) else none
  | .highz => none
  | _ => own

/-- The level that a released open-drain ball takes is high. -/
def odLevel (l : Option Bool) : Bool := l.getD true

/-- PWR_GOOD, FAULT_N and TIME_PPS_OUT as they stand at their balls; 0 and 1 of the cells of the open-drain balls drive low and
release. -/
def ballPwrGood (s : State) : Bool := odLevel (ballLevel s 12 true (some (pwrGood s)))
def ballFault (s : State) : Bool := odLevel (ballLevel s 13 true (some (!faultLow s)))
def ballPps (s : State) : Option Bool := ballLevel s 14 (s.tap.cells.testBit 15) (some (ppsLevel s))

/-- The number that bits spell, lowest first. -/
def bitsNat : List Bool → Nat
  | [] => 0
  | b :: bs => (if b then 1 else 0) + 2 * bitsNat bs

/-- The boundary register as captured (R967), with the levels of the inputs that the model does not hold: TIME_PPS_IN, TIME_10M_IN and
TEST_MODE, and that of TIME_PPS_OUT's ball where nothing drives it. -/
def boundary (s : State) (pps t10m test float : Bool) : Nat :=
  bitsNat ([s.boot.sysReset, s.boot.perstMgt] ++ (natRange 0 4).map (fun k => s.boot.hbPerst.getD k true) ++
    [ballPwrGood s, ballFault s, pps, t10m, (ballPps s).getD float, test] ++
    (natRange 12 4).map fun k => s.tap.cells.testBit k)

/-- A scan of the boundary register: what is captured is shown, and what is shifted in is held in the output cells. -/
def scanBoundary (s : State) (pps t10m test float : Bool) (shift : Nat) : State :=
  let s := emit s (.tdo 16 (boundary s pps t10m test float))
  { s with tap := { s.tap with cells := shift % 2 ^ 16 } }

/-- IDCODE (R966). -/
def execIdcode (s : State) : Host.Outcome State Fault Refusal :=
  tapRow s fun s => emit (tapLoad s .idcode) (.tdo 32 (idcodeWord s.part))

/-- The bypass register shows its one bit, captured as 0. -/
def tapBypass (s : State) (i : TapInstr) : State := emit (tapLoad s i) (.tdo 1 0)

/-- BYPASS (R966). -/
def execBypass (s : State) : Host.Outcome State Fault Refusal := tapRow s fun s => tapBypass s .bypass

/-- SAMPLE_PRELOAD (R967). -/
def execSamplePreload (pps t10m test float : Bool) (shift : Nat) (s : State) : Host.Outcome State Fault Refusal :=
  tapRow s fun s => scanBoundary (tapLoad s .samplePreload) pps t10m test float shift

/-- EXTEST (R967, R968). -/
def execExtest (pps t10m test float : Bool) (shift : Nat) (s : State) : Host.Outcome State Fault Refusal :=
  tapRow s fun s => if extestOk s then scanBoundary (tapLoad s .extest) pps t10m test float shift else tapBypass s .bypass

/-- CLAMP (R968). -/
def execClamp (s : State) : Host.Outcome State Fault Refusal :=
  tapRow s fun s => tapBypass s (if extestOk s then .clamp else .bypass)

/-- HIGHZ (R968). -/
def execHighz (s : State) : Host.Outcome State Fault Refusal :=
  tapRow s fun s => tapBypass s (if extestOk s then .highz else .bypass)

/-- JTAG_TRST (R966): IDCODE is selected after TAP reset. -/
def execJtagTrst (s : State) : Host.Outcome State Fault Refusal := tapRow s fun s => tapLoad s .idcode

/-! ## Debug status and unlock (R966, R969 to R971) -/

/-- The 384 bits of DEBUG_STATUS: the die serial, a nonce, UNLOCKED, and whether the last unlock was refused. -/
def debugWord (s : State) (nonce : List Byte) : Nat :=
  s.fm.serial % 2 ^ 64 + 2 ^ 64 * leNat nonce + (if s.tap.unlocked then 2 ^ 320 else 0) + (if s.tap.refused then 2 ^ 321 else 0)

/-- DEBUG_STATUS (R966): a fresh nonce, which serves one attempt; where the generator issues none (R733), the bits shown serve none. -/
def execDebugStatus (s : State) : Host.Outcome State Fault Refusal :=
  tapRow s fun s =>
    let nonce := randomBytes s 32
    let s := emit (tapLoad s .debugStatus) (.tdo 384 (debugWord s nonce))
    bumpFree { s with tap := { s.tap with nonce := if s.ras.rngOk && !s.ras.rngFailed then some nonce else none } }

/-- A token is good (R969): 64 bytes of serial, nonce and ROM key slot, whose signature verifies under that slot's key. -/
def tokenOk (s : State) (token : List Byte) : Bool :=
  token.length = 3392 && leField token 0 8 = s.fm.serial && s.tap.nonce = some (sliceBytes token 8 32) &&
  decide (leField token 40 1 < 4) && (sliceBytes token 41 23).all (· = 0) &&
  sigOk (Config.romKey (leField token 40 1)) (token.take 64) (token.drop 64)

/-- An unlock may be accepted: the policy allows it, and every partition is FREE. -/
def unlockOk (s : State) : Bool := regField s rDebugPolicy 2 1 = 1 && s.parts.all fun e => e.2.st = .free

/-- The unlock takes place (R970): every key is destroyed, and measurement 4 records it. -/
def unlock (s : State) : State :=
  let s := setField (destroyKeys s) rDebugPolicy 3 1 1
  let s := modSec s fun x => { x with policyLog := x.policyLog ++ [regWord s rDebugPolicy] }
  { s with tap := { s.tap with unlocked := true, refused := false } }

/-- DEBUG_UNLOCK (R969): each nonce serves one attempt. -/
def execDebugUnlock (token : List Byte) (s : State) : Host.Outcome State Fault Refusal :=
  tapRow s fun s =>
    let ok := unlockOk s && tokenOk s token
    let s := tapLoad { s with tap := { s.tap with nonce := none } } .debugUnlock
    if ok then unlock s else { s with tap := { s.tap with refused := true } }

end Sys2Proof.Machine
end

