-- ==== Sys2Proof/Machine/Emb.lean ====
section
/-! DEFINITION. Machine/Emb.lean: the meanings of the EMB commands and of the apply of a row (10_embeddings.md). -/
namespace Sys2Proof.Machine

/-- EMB_CREATE (R441, R447): the descriptor at a virtual address under the AST; option 0 is INIT. -/
def execEmbCreate (c : Cmd) (s : State) : Host.Outcome State Fault Refusal :=
  live s fun s =>
    let sp : CmdSpec := { group := 0x0F, verb := 1, opts := 1, ast := true, acts := .object }
    runCmd s c sp (astPart s c.ast.toNat) (astMine s c c.ast.toNat) fun s => tableCmd s c (tablePart s c) 0x0F 1

/-- The table of a command's handle here, whether it is of the function's partition. -/
def embOf (s : State) (c : Cmd) : Option (Nat × EmbTable) := handleTable s (arg c 0 8)
def embPart (s : State) (c : Cmd) : Option Nat := (embOf s c).map (·.2.part)
def embMine (s : State) (c : Cmd) : Bool := c.fn = 0 || embPart s c = some (c.fn - 1)

/-- A command on a table, at its coordinator. -/
def embCmd (s : State) (c : Cmd) (sp : CmdSpec) (f : State → Nat → EmbTable → State) : State :=
  runCmd s c { sp with group := 0x0F, acts := .object } (embPart s c) (embMine s c) fun s =>
    match embOf s c with
    | some (tk, t) => if t.coord = selfNode s then settle hooks (f s tk t) else complete s (cmdRef c) stDenied 0 []
    | none => complete s (cmdRef c) stDenied 0 []

/-- A relayed command of a table. -/
def embRelay (c : Cmd) (t : EmbTable) (verb : Nat) (args : List Nat) : Relay :=
  { group := 0x0F, verb := verb, part := t.part, dest := .cmd (cmdRef c), obj := handleOfTable t, args := args }

/-- 8-byte row indices that a command lists. -/
def rowList (c : Cmd) (n : Nat) : List Nat := (natRange 0 n).map fun k => leField (c.host.getD []) (8 * k) 8

/-- EMB_DESTROY (R450). -/
def execEmbDestroy (c : Cmd) (s : State) : Host.Outcome State Fault Refusal :=
  live s fun s => embCmd s c { group := 0x0F, verb := 2, args := [(0, 8)] } fun s _ t =>
    let hosts := shardHosts t.desc t.shards
    tellEmb s (embRelay c t 2 hosts) 7 2 (handleOfTable t) 0 [] [] (entryNodes s hosts) embTake

/-- EMB_SET_DEFAULT (R466): handle, scale and offset in ARGS, the codes at ADDR0. -/
def execEmbSetDefault (c : Cmd) (s : State) : Host.Outcome State Fault Refusal :=
  live s fun s => embCmd s c { group := 0x0F, verb := 3, host := true, args := [(0, 8), (8, 4), (12, 4)] } fun s _ t =>
    if 65536 ≤ arg c 8 4 ∨ 65536 ≤ arg c 12 4 then complete s (cmdRef c) stMalformed 0 []
    else
      tellEmb s (embRelay c t 3 []) 7 3 (handleOfTable t) 0 (leBytes 4 (arg c 8 4) ++ leBytes 4 (arg c 12 4))
        (sliceBytes (c.host.getD []) 0 (codeBytes t.desc)) (entryNodes s (shardHosts t.desc t.shards)) embTake

/-- EMB_REPLACE_ROWS (R475 to R477): each record goes to its row's source; the rows skipped are counted. -/
def execEmbReplaceRows (c : Cmd) (s : State) : Host.Outcome State Fault Refusal :=
  live s fun s => embCmd s c { group := 0x0F, verb := 4, host := true, args := [(0, 8), (8, 4)] } fun s _ t =>
    let n := recordBytes t.desc
    let rs := (natRange 0 (arg c 8 4)).map fun k => sliceBytes (c.host.getD []) (n * k) n
    if !rs.all recordOk then complete s (cmdRef c) stMalformed 0 []
    else
      let good := rs.filter fun r => decide (recRow r < tdRows t.desc)
      let skipped := rs.length - good.length
      let hosts := (good.map fun r => rowSource t (recRow r)).eraseDups
      if hosts.isEmpty then complete s (cmdRef c) stOk skipped []
      else
        let (s, id) := newRelay s (embRelay c t 4 [skipped])
        hosts.foldl (fun s h =>
          let mine := (good.filter fun r => rowSource t (recRow r) = h).flatMap fun r => r
          let a := embArgs (handleOfTable t) 0 []
          let s := relaySend s id 8 0x0F 4 t.part 0 a mine [h]
          if h = selfNode s then embTake s (.relay id h) ((xchgPayload 8 0x0F 4 t.part 0 a).drop 8 ++ mine) else s) s

/-- EMB_CLOSE_STEP (R471): handle and step in ARGS. -/
def execEmbCloseStep (c : Cmd) (s : State) : Host.Outcome State Fault Refusal :=
  live s fun s => embCmd s c { group := 0x0F, verb := 5, args := [(0, 8), (8, 4)] } fun s _ t =>
    tellEmb s (embRelay c t 5 []) 8 5 (handleOfTable t) 0 (leBytes 4 (arg c 8 4)) [] (shardHosts t.desc t.shards) embTake

/-- EMB_STEP_INFO (R484): for each shard's host, its current step and the rows applied in the last. -/
def execEmbStepInfo (c : Cmd) (s : State) : Host.Outcome State Fault Refusal :=
  live s fun s => embCmd s c { group := 0x0F, verb := 6, args := [(0, 8)] } fun s _ t =>
    tellEmb s (embRelay c t 6 ((natRange 0 (tdShards t.desc)).map (teHost t.shards))) 8 6 (handleOfTable t) 0 [] [] (shardHosts t.desc t.shards) embTake

/-- EMB_HOT_SET (R478): handle and count in ARGS, the row indices at ADDR0; it takes effect at the next refresh. -/
def execEmbHotSet (c : Cmd) (s : State) : Host.Outcome State Fault Refusal :=
  live s fun s => embCmd s c { group := 0x0F, verb := 7, host := true, args := [(0, 8), (8, 4)] } fun s tk t =>
    let n := arg c 8 4
    if tdHot t.desc < n ∨ (rowList c n).any (fun r => decide (tdRows t.desc ≤ r)) = true then complete s (cmdRef c) stMalformed 0 []
    else complete (modTable s tk fun t => { t with hotList := (rowList c n).eraseDups }) (cmdRef c) stOk 0 []

/-- EMB_HOT_REFRESH (R478, R479). -/
def execEmbHotRefresh (c : Cmd) (s : State) : Host.Outcome State Fault Refusal :=
  live s fun s => embCmd s c { group := 0x0F, verb := 8, args := [(0, 8)] } fun s _ t =>
    tellEmb s (embRelay c t 8 t.hotList) 7 8 (handleOfTable t) 0 [] (t.hotList.flatMap (leBytes 8)) (entryNodes s (shardHosts t.desc t.shards)) embTake

/-- EMB_MOVE_ROWS (R480, R481): handle, count and target in ARGS, the row indices at ADDR0. -/
def execEmbMoveRows (c : Cmd) (s : State) : Host.Outcome State Fault Refusal :=
  live s fun s => embCmd s c { group := 0x0F, verb := 9, host := true, args := [(0, 8), (8, 4), (12, 4)] } fun s _ t =>
    let target := arg c 12 4
    let rows := (rowList c (arg c 8 4)).eraseDups
    if !(shardHosts t.desc t.shards).contains target || rows.any fun r => decide (tdRows t.desc ≤ r) then complete s (cmdRef c) stMalformed 0 []
    else
      let n := (rows.filter fun r => rowSource t r ≠ target && rowHome t r ≠ target).length
      tellEmb s (embRelay c t 9 (target :: rows)) 8 9 (handleOfTable t) 0 (leBytes 4 n) [] [target] embTake

/-- EMB_STATS (R484): counters of the table at this switch. -/
def execEmbStats (c : Cmd) (s : State) : Host.Outcome State Fault Refusal :=
  live s fun s => runCmd s c { group := 0x0F, verb := 10, args := [(0, 8)], acts := .reads } none (embMine s c) fun s =>
    match embOf s c with
    | none => complete s (cmdRef c) stDenied 0 []
    | some (tk, _) => complete s (cmdRef c) stOk 0 ((natRange 0 12).flatMap fun k => leBytes 8 (ctr s (.emb tk k)))

/-- EMB_ROW_APPLY (R472 to R474): one row of the step that a host applies. -/
def execEmbRowApply (coord id row : Nat) (s : State) : Host.Outcome State Fault Refusal :=
  live s fun s => settle hooks (applyOne s (tableKey coord id) row)

end Sys2Proof.Machine
end

