-- ==== Sys2Proof/Machine/FabricCore.lean ====
section
/-! DEFINITION. Machine/FabricCore.lean: management messages, discovery, endpoint resets, routes and managers as their commands and
messages change them (19_fabric_management.md R803 to R827). -/
namespace Sys2Proof.Machine

/-! ## Discovery (R806 to R810) -/

/-- The identity that an LL_HELLO gives, where the payload keeps R807. -/
def helloOf (b : List Byte) : Option Partner :=
  let role : Option Role := if leField b 0 1 = 0 then some .switch else if leField b 0 1 = 1 then some .endpoint
    else if leField b 0 1 = 2 then some .tray else none
  match role with
  | none => none
  | some role =>
    if b.length ≠ 96 ∨ leField b 1 1 ≠ 1 ∨ 2 ^ 15 ≤ leField b 4 2 ∨ 2 ^ 15 ≤ leField b 6 2 ∨ 512 ≤ leField b 8 4 ∨
        16 ≤ leField b 12 4 ∨ leField b 0x34 12 ≠ 0 then none
    else some { role := role, deviceId := leField b 2 2, node := leField b 4 2, yourNode := leField b 6 2, lport := leField b 8 4,
                caps := leField b 12 4, serial := leField b 16 8, bootId := leField b 24 8, queueBytes := leField b 32 8,
                dramBytes := leField b 40 8, chainLen := leField b 48 4, nonce := sliceBytes b 64 32 }

def Role.code : Role → Nat
  | .switch => 0 | .endpoint => 1 | .tray => 2

/-- NEIGHBOUR_UP (R984). -/
def reportUp (s : State) (n : Nat) (p : Partner) (verified : Bool) : State :=
  report s 0x01 p.node n (p.role.code + (if verified then 4 else 0) + 2 ^ 32 * p.caps)

/-- A port becomes UNTRUSTED; a failed identity is reported. -/
def untrust (s : State) (n : Nat) (reported : Bool) : State :=
  let s := modLport s n fun l => { l with disc := .untrusted, discSince := s.clk }
  if reported then report s 0x03 (((lportOf s n).partner.map (·.node)).getD noNode) n 0 else s

/-- The pieces of the own chain: offset and bytes (R808). DEDUCED (log 108): PIECE_LEN has 14 bits and its zero stands for no maximum
(R25), so a piece has at most 16,383 bytes. -/
def certPieces (chain : List Byte) : List (Nat × List Byte) :=
  (natRange 0 (ceilDiv chain.length 16383)).map fun i => (16383 * i, (chain.drop (16383 * i)).take 16383)

/-- Send the own chain to the partner whose NONCE is given, with the signature of R808 after the last piece. -/
def sendCert (s : State) (n : Nat) (theirs : List Byte) : State :=
  let chain := ownChain s
  let sig := aliasSign s (theirs ++ (lportOf s n).nonce ++ leBytes 8 s.fm.serial ++ leBytes 4 n)
  (certPieces chain).foldl (fun s p =>
    let last := decide (chain.length ≤ p.1 + p.2.length)
    let head := leBytes 4 p.1 ++ leBytes 4 (p.2.length + (if last then 2 ^ 14 else 0)) ++ leBytes 8 0
    sendLink s 0x81 n (head ++ p.2 ++ (if last then sig else []))) s

/-- The RESET message for an endpoint's node (R823). -/
def sendReset (s : State) (node but : Nat) (restored : Bool) : State :=
  if node = noNode then s else spread s (if restored then 0x86 else 0x85) true [node] but

/-- Work for a node's requests that waits here for a tray which never answers is released by its reset, without an answer: a RUN with all its steps
(R88, R367), a part of a GATHER or another step alone (R483). -/
def partsReleased (s : State) (node : Nat) : State :=
  (s.fab.jobs.filter fun e => e.2.p.src.toNat = node && e.2.stage = .stalled && e.2.code = 11).foldl (fun s e =>
    match e.2.kind with
    | .image i _ _ | .convert i _ =>
      if (jobOf s e.1).isNone then s else failRun (modRun s i fun r => { r with dest := .nobody }) i stPoisoned
    | .chunk .. => s
    | _ => jobGone s e.1) s

/-- What every switch does when it learns that a node was reset (R681, R825, R983, R271, R188, R483). -/
def nodeReset (s : State) (node : Nat) : State :=
  partsReleased (marksGone (windowReleased (nodeFails (requestsLost s fun d => d = node) node 2) fun p => p.src.toNat = node) node) node

/-- An endpoint has been reset (R810): its holds go, its numbering begins anew, requests to it are unanswered, and the RESET message
leaves. -/
def endpointReset (s : State) (n : Nat) (restored : Bool) : State :=
  let s := releaseHolds s fun o => o.p.lport = n
  let s := { s with coh := { s.coh with bridgeSeq := s.coh.bridgeSeq.filter fun e => e.1 / 2 ^ 30 ≠ n } }
  match (lportOf s n).node with
  | none => s
  | some d =>
    let s := { s with ing := { s.ing with pairs := s.ing.pairs.filter fun e => e.src ≠ d } }
    sendReset (nodeReset s d) d noLport restored

/-- A port reaches KNOWN (R806): with the same partner as before its hops come back (R824). -/
def known (s : State) (n : Nat) (verified : Bool) : State :=
  match (lportOf s n).partner with
  | none => s
  | some p =>
    let l := lportOf s n
    let node := l.node.getD p.node
    let s := modLport s n fun l => { l with disc := .known, discSince := s.clk }
    let s := reportUp s n p verified
    let same := l.before = some (p.serial, node)
    let (s, regained) := if same && wickDecides s then restoreHops s n fun _ => true else (s, [])
    let s := if !same then { s with fm := { s.fm with cleared := s.fm.cleared.filter fun m => m.lport ≠ n } } else s
    let mine := l.wasDown && p.role ≠ .switch
    let others := regained.filter fun d => !(mine && l.node = some d)
    let s := if others.isEmpty then s else spread s 0x86 false others n
    let s := modLport s n fun l => { l with wasDown := false }
    let s := if mine then endpointReset s n (regained.any fun d => l.node = some d) else s
    if p.role = .tray then rescrub s else s

/-- LL_HELLO (R806, R807): the status it is answered with. -/
def gotHello (s : State) (n : Nat) (b : List Byte) : State × Nat :=
  match helloOf b with
  | none => (s, stMalformed)
  | some p =>
    let l := lportOf s n
    match l.disc with
    | .hello =>
      let s := modLport s n fun l => { l with partner := some p, cert := [] }
      if l.role ≠ some p.role then (untrust (violate s n 15 [] 96) n false, stOk)
      else if p.role ≠ .switch then (known s n false, stOk)
      else
        let s := sendCert (modLport s n fun l => { l with disc := .verify, discSince := s.clk }) n p.nonce
        if p.chainLen = 0 then (untrust s n true, stOk) else (s, stOk)
    | .verify | .known =>
      if l.role ≠ some p.role then (s, stDenied) else (modLport s n fun l => { l with partner := some p }, stOk)
    | _ => (s, stDenied)

/-- LL_CERT (R808): pieces in their order; PIECE_LEN is 1 at least, and its zero is no maximum (R25). -/
def gotCert (s : State) (n : Nat) (b : List Byte) : State × Nat :=
  let l := lportOf s n
  let w := leField b 4 4
  let len := w % 2 ^ 14
  let last := w.testBit 14
  match l.disc, l.partner with
  | .verify, some p =>
    if len = 0 ∨ b.length ≠ 16 + len + (if last then 3328 else 0) ∨ 2 ^ 15 ≤ w ∨ leField b 8 8 ≠ 0 then (s, stMalformed)
    else if leField b 0 4 ≠ l.cert.length ∨ p.chainLen < l.cert.length + len then (s, stMalformed)
    else
      let chain := l.cert ++ sliceBytes b 16 len
      let s := modLport s n fun l => { l with cert := chain }
      if !last then (s, stOk)
      else
        let ok := chain.length = p.chainLen && (match Config.chainKey chain with
          | some (key, serial) => serial = p.serial &&
              sigOk key (l.nonce ++ p.nonce ++ leBytes 8 p.serial ++ leBytes 4 p.lport) (b.drop (16 + len))
          | none => false)
        (if ok then known s n true else untrust s n true, stOk)
  | _, _ => (s, stDenied)

/-- LL_STATE (R805, R810). -/
def gotState (s : State) (n : Nat) (b : List Byte) : State × Nat :=
  if b.length ≠ 8 ∨ 1 < leNat b then (s, stMalformed)
  else if facesSwitch s n then (s, stDenied)
  else (if leNat b = 1 then endpointReset s n false else s, stOk)

/-! ## Withdrawals and restores (R822 to R825) -/

/-- The ranges of a route message, and RESET, where the payload keeps R823. -/
def routeMsg (b : List Byte) : Option (List (Nat × Nat) × Bool) :=
  let count := leField b 0 2
  let at_ := fun i => leField b (8 + 4 * i) 4
  let rs := (natRange 0 count).map fun i => (at_ i % 2 ^ 15, at_ i / 2 ^ 16)
  if count = 0 ∨ 16382 < count ∨ 2 ^ 17 ≤ leField b 0 8 ∨ b.length ≠ 8 + 4 * count then none
  else if (natRange 0 count).any fun i => (at_ i).testBit 15 || (at_ i).testBit 31 then none
  else some (rs, (leField b 0 8).testBit 16)

/-- Forward a RESET message, at most once for each node within 1 ms (R823). -/
def forwardReset (s : State) (code from_ : Nat) (payload : List Byte) (nodes : List Nat) : State :=
  let recent := s.fm.resets.filter fun e => decide (s.clk < e.2 + msNs)
  if nodes.all fun d => recent.any fun e => e.1 = d then s
  else
    let s := { s with fm := { s.fm with resets := recent ++ nodes.map fun d => (d, s.clk) } }
    (knownSwitches s from_).foldl (fun s n => sendLink s code n payload) s

/-- ROUTE_WITHDRAW (R822, R825) or ROUTE_RESTORE (R824) arrives. -/
def gotRoutes (s : State) (restore : Bool) (n : Nat) (b : List Byte) : State × Nat :=
  match routeMsg b with
  | none => (s, stMalformed)
  | some (rs, reset) =>
    let named := fun d => rs.any fun r => decide (r.1 ≤ d ∧ d < r.1 + r.2)
    let (s, dsts) := if restore then (if wickDecides s then restoreHops s n named else (s, [])) else withdrawFrom s n rs
    let nodes := if reset then (rs.flatMap fun r => natRange r.1 r.2) else []
    let s := nodes.foldl nodeReset s
    let code := if restore then 0x86 else 0x85
    let s := if reset then forwardReset s code n b nodes else s
    let rest := dsts.filter fun d => !nodes.contains d
    let s := if rest.isEmpty then s else spread s code false rest n
    (if restore && !dsts.isEmpty then rescrub s else s, stOk)

/-! ## Discards, time, keys, Wick to Wick -/

/-- DISCARD_REPORT (R680): the request is unanswered; the port that sent it loses 2 points (R794). -/
def gotDiscard (s : State) (b : List Byte) : State × Nat :=
  let node := leField b 0 2
  if b.length ≠ 16 ∨ 2 ^ 15 ≤ node ∨ 4 < leField b 8 8 then (s, stMalformed)
  else
    match lportOfNode s node with
    | none => (s, stOk)
    | some l =>
      let s := penal s l 2
      match findOut s node (leField b 2 2) with
      | some (id, _) => (markUnanswered s id (leField b 8 1), stOk)
      | none => (s, stOk)

/-- TIME_SYNC (R714, R715). -/
def gotSync (s : State) (n : Nat) (b : List Byte) : State × Nat :=
  if b.length ≠ 16 ∨ 2 ^ 16 ≤ leNat b then (s, stMalformed) else (syncGot s n (leField b 0 2), stOk)

/-- TIME_FOLLOW (R715, R716). -/
def gotFollow (s : State) (n : Nat) (b : List Byte) : State × Nat :=
  let w := leField b 12 4
  if b.length ≠ 32 ∨ 64 ≤ w ∨ leField b 24 8 ≠ 0 then (s, stMalformed)
  else (timeFollow s n (leField b 0 8) (leField b 8 2) (leField b 10 2) (w % 8) (w / 8) (leField b 16 8), stOk)

/-- LINK_KEX (R757): B's record finishes an exchange that runs, A's record is answered with B's. -/
def gotKex (s : State) (n : Nat) (b : List Byte) : State × Nat :=
  if idLost s || !(lportOf s n).marked then (s, stDenied)
  else match kexRead b, kfind s.sec.kex n with
    | none, _ => (s, stDenied)
    | some (r, serial), some k => (kexFinish s n k r serial, stOk)
    | some (r, serial), none =>
      match keyStatus s with
      | some st => (s, st)
      | none =>
        let (t, own) := kexRespond s n r serial
        (sendLink t 0x8B n (kexPayload t own), stOk)

/-- A node that this switch holds as a switch in KNOWN, directly or through its routing table (R827). -/
def knownSwitch (s : State) (node : Nat) : Bool :=
  s.lports.any (fun e => e.2.disc = .known && e.2.role = some .switch && (e.2.partner.map (·.node)) = some node) ||
  ((kfind s.core.routes node).isSome && (lportOfNode s node).isNone && node ≠ selfNode s &&
    !s.lports.any fun e => e.2.role ≠ some .switch && (e.2.partner.map (·.node)) = some node)

/-- WICK_XCHG (R827): the status it is answered with; none where the answer comes later (R759). -/
def gotXchg (s : State) (p : Req) : State × Option Nat :=
  let b := p.payload
  let kind := leField b 0 2
  let d := b.drop 8
  let part := leField d 6 2 % 1024
  let a := fun o n => leField d (0x20 + o) n
  let node := p.src.toNat
  if !knownSwitch s node then (s, some stDenied)
  else if b.length < 72 ∨ leField b 2 6 ≠ 0 then (s, some stMalformed)
  else if kind = 1 then
    if leField d 0 2 = 0x0108 then
      let gibs := natRange (a 0 8 / GiB) (a 8 4)
      match homeAdds s gibs (a 16 4) (a 20 4) part ((leField d 5 1).testBit 0) with
      | .inr st => (s, some st)
      | .inl t => (noteRefs t gibs node, some stOk)
    else (dropRemote s (a 0 8 / GiB) node, some stOk)
  else if kind = 2 then (gotRevoke s p part (leField d 0x10 8 / GiB), none)
  else if kind = 5 then (reportedFail s part (a 4 4) (leField d 0x10 8 % 2 ^ 15), some stOk)
  else if kind = 6 then
    ({ s with snap := { s.snap with announced := s.snap.announced ++ [(leField d 0x10 8 / frameBytes, a 0 4)] } }, some stOk)
  else if kind = 3 ∨ kind = 4 ∨ kind = 7 ∨ kind = 8 then
    (wickCompute s node p d, none)
  else (s, some stMalformed)

/-! ## NODE commands (R816 to R818) -/

def selfSpec : CmdSpec := { pf0 := true, signed := true, group := 0x05, verb := 1, args := [(0, 4)] }
def assignSpec : CmdSpec := { pf0 := true, signed := true, group := 0x05, verb := 2, args := [(0, 4), (4, 4)] }
def clearSpec : CmdSpec := { pf0 := true, signed := true, group := 0x05, verb := 3, args := [(0, 4)] }

/-- Write a route entry; hops that a loss cleared in it do not come back (R824). -/
def writeRoute (s : State) (d : Nat) (r : Option Route) : State :=
  { s with core := { s.core with routes := match r with
             | some r => kset s.core.routes d r
             | none => kdel s.core.routes d },
           fm := { s.fm with cleared := s.fm.cleared.filter fun m => m.dst ≠ d } }

/-- NODE.SET_SELF: the switch's own node number and its local route entry. -/
def selfCmd (s : State) (c : Cmd) (r : CmdRef) : State :=
  let d := arg c 0 4
  if 0x7FFF < d then complete s r stMalformed 0 []
  else if selfNode s ≠ noNode ∨ d = noNode then complete s r stDenied 0 []
  else
    let s := writeRoute { s with fm := { s.fm with selfNode := d } } d (some { local_ := true, hops := [none, none, none, none], esc := none })
    complete (helloAgain s) r stOk 0 []

/-- NODE.ASSIGN: a node number, and its route, for an endpoint-facing logical port or host bridge. -/
def assignCmd (s : State) (c : Cmd) (r : CmdRef) : State :=
  let n := arg c 0 4
  let d := arg c 4 4
  if 515 < n ∨ 0x7FFF < d then complete s r stMalformed 0 []
  else if facesSwitch s n || (lportOf s n).node.isSome || d = selfNode s || (lportOfNode s d).isSome || d = noNode ||
      (kfind s.core.routes d).isSome then complete s r stDenied 0 []
  else
    let s := writeRoute s d (some { local_ := false, hops := [some n, none, none, none], esc := none })
    let s := modLport s n fun l => { l with node := some d }
    let s := if decide (n < 512) && (lportOf s n).disc ≠ .none && linkUp (lportOf s n).link then
        (if (lportOf s n).disc = .known then sendHello s n else resendHello s n) else s
    complete s r stOk 0 []

/-- NODE.CLEAR: the port goes down, the endpoint is released as after a reset, and its number and route go. -/
def clearCmd (s : State) (c : Cmd) (r : CmdRef) : State :=
  let n := arg c 0 4
  if 515 < n then complete s r stMalformed 0 []
  else match (lportOf s n).node with
    | none => complete s r stDenied 0 []
    | some d =>
      let s := if decide (n < 512) && (lportOf s n).link ≠ .disabled then goDown s n else s
      let s := endpointReset s n false
      let s := writeRoute (modLport s n fun l => { l with node := none, wasDown := false }) d none
      settle hooks (complete s r stOk 0 [])

/-! ## ROUTE.SET (R819, R820) -/

def routeSpec : CmdSpec := { pf0 := true, signed := true, host := true, group := 0x06, verb := 1, args := [(0, 32)], opts := 1 }

/-- A routing entry of the layout of R667, where no reserved bit is set; VALID 0 is no entry. -/
def routeOfWord (w : Nat) : Option (Option Route) :=
  let hop := fun i => let h := bits w (4 + 12 * i) 12
    if h.testBit 9 then some (h % 512) else none
  if bits w 2 2 ≠ 0 ∨ bits w 62 2 ≠ 0 ∨ (natRange 0 4).any fun i => bits w (14 + 12 * i) 2 ≠ 0 then none
  else if !w.testBit 0 then some none
  else some (some { local_ := w.testBit 1, hops := (natRange 0 4).map hop, esc := if w.testBit 61 then some (bits w 52 9) else none })

/-- The records of a ROUTE.SET list (R848): none where one keeps no form. -/
def routeRecords (b : List Byte) : Nat → Option (List (Nat × Option Route))
  | 0 => some []
  | k + 1 =>
    match routeOfWord (leField b 8 8), routeRecords (b.drop 16) k with
    | some r, some l => if 0x7FFF ≤ leField b 0 8 then none else some ((leField b 0 8, r) :: l)
    | _, _ => none

/-- An entry changes the escape hop of a valid entry. -/
def escChanges (s : State) (e : Nat × Option Route) : Bool :=
  match kfind s.core.routes e.1 with
  | none => false
  | some old => old.esc ≠ (match e.2 with
      | some r => r.esc
      | none => none)

/-- Write entries in their order. -/
def writeRoutes (s : State) (l : List (Nat × Option Route)) : State := l.foldl (fun s e => writeRoute s e.1 e.2) s

/-- ROUTE.SET on a signed command's body. -/
def routeCmd (s : State) (c : Cmd) (r : CmdRef) : State :=
  let b := c.host.getD []
  let count := leField b 0 8
  if count = 0 ∨ 4096 < count ∨ b.length < 8 + 16 * count then complete s r stMalformed 0 []
  else if !digestOk c (b.take (8 + 16 * count)) then complete s r stDenied 0 []
  else match routeRecords (b.drop 8) count with
    | none => complete s r stMalformed 0 []
    | some l =>
      if !opt c 0 then
        if l.any (escChanges s) then complete s r stMalformed 0 [] else complete (writeRoutes s l) r stOk 0 []
      else if s.fm.escDrain.isSome then complete s r stRetry 0 []
      else { s with fm := { s.fm with escDrain := some (l, r, s.clk) } }

/-! ## Managers and role (R811 to R816) -/

def managersSpec : CmdSpec := { pf0 := true, signed := true, host := true, group := 0x07, verb := 1, args := [(0, 32)] }
def roleSpec : CmdSpec := { pf0 := true, signed := true, group := 0x07, verb := 2, args := [(0, 4), (4, 4)] }
def freeSpec : CmdSpec := { pf0 := true, signed := true, group := 0x07, verb := 3, args := [(0, 4), (8, 8)] }

/-- Install a manager set (R812): KEY_EPOCH advances. A manager whose key stays keeps the CMD_SEQ accepted from it. -/
def setManagers (s : State) (ms : List Manager) (k : Nat) : State :=
  let keep := fun (m : Manager) => match s.fm.managers.find? fun o => o.key = m.key with
    | some o => { m with lastSeq := o.lastSeq }
    | none => m
  { s with fm := { s.fm with managers := ms.map keep, threshold := k, keyEpoch := (s.fm.keyEpoch + 1) % 2 ^ 16 } }

/-- FABRIC.SET_MANAGERS as a signed command (R812, R848): at least k managers of the current set sign its header and body. -/
def managersCmd (s : State) (c : Cmd) (r : CmdRef) : State :=
  let b := c.host.getD []
  let n := leField b 0 1 % 8
  let size := 8 + 1960 * n
  let is := signerList (leField b size 8)
  if !digestOk c (b.take size) then complete s r stDenied 0 []
  else
    let set := if leField b 0 8 = 0 then some ([], 0) else managerList b
    match set with
    | none => complete s r stMalformed 0 []
    | some (ms, k) =>
      if b.length < size + 8 + 3328 * is.length ∨ 2 ^ 7 ≤ leField b size 8 then complete s r stMalformed 0 []
      else if !quorum s is || !blocksOk s (c.list.getD []) is (b.drop (size + 8)) then complete s r stDenied 0 []
      else complete (setManagers s ms k) r stOk 0 []

/-- FABRIC.SET_ROLE (R816): STAGE, and the fabric's endpoint count. -/
def roleCmd (s : State) (c : Cmd) (r : CmdRef) : State :=
  if 3 < arg c 0 4 then complete s r stMalformed 0 []
  else
    let s := { s with fm := { s.fm with stage := arg c 0 4, endpoints := arg c 4 4 } }
    complete (setField s rStraggler 16 1 (if arg c 4 4 ≤ 4096 then 1 else 0)) r stOk 0 []

/-- FABRIC.SET_FREE_MODE (R153): now, or at a fabric time. -/
def freeCmd (s : State) (c : Cmd) (r : CmdRef) : State :=
  let at_ := arg c 8 8
  if 1 < arg c 0 4 then complete s r stMalformed 0 []
  else if at_ ≤ s.ftime.toNat then complete (setFree s (arg c 0 4 = 1)) r stOk 0 []
  else if s.mem.freePending.isSome then complete s r stRetry 0 []
  else { s with mem := { s.mem with freePending := some (decide (arg c 0 4 = 1), at_, r) } }

end Sys2Proof.Machine
end

