-- ==== Sys2Proof/Machine/Ras.lean ====
section
/-! DEFINITION. Machine/Ras.lean: the meanings of the commands and events of faults, detection and degradation
(18_reliability.md). -/
namespace Sys2Proof.Machine

/-! ## Regions -/

/-- REGION_SUPPLY_FAULT (R777): the Wick fences the region whose supply or clock left its range. -/
def execRegionSupplyFault (r : Nat) (s : State) : Host.Outcome State Fault Refusal :=
  live s fun s => if 16 ≤ r || !wickDecides s then s else settle hooks (fence s r 0)

/-- REGION_FENCE (R777, R778). -/
def execRegionFence (c : Cmd) (s : State) : Host.Outcome State Fault Refusal :=
  live s fun s => runCmd s c { pf0 := true, group := 0x17, verb := 1, args := [(0, 4)] } none true fun s =>
    let r := arg c 0 4
    if 15 < r then complete s (cmdRef c) stMalformed 0 []
    else if !wickDecides s then complete s (cmdRef c) stRetry 0 []
    else settle hooks (complete (fence s r 3) (cmdRef c) stOk 0 [])

/-- REGION_UNFENCE (R779): only a fence that REGION.FENCE made ends. -/
def execRegionUnfence (c : Cmd) (s : State) : Host.Outcome State Fault Refusal :=
  live s fun s => runCmd s c { pf0 := true, group := 0x17, verb := 2, args := [(0, 4)] } none true fun s =>
    let r := arg c 0 4
    if 15 < r then complete s (cmdRef c) stMalformed 0 []
    else if kfind s.ras.fenced r = some false then complete s (cmdRef c) stDenied 0 []
    else settle hooks (complete (modRas s fun x => { x with fenced := kdel x.fenced r }) (cmdRef c) stOk 0 [])

/-! ## Copies -/

/-- VERIFY_PASS (R793): VERIFY_H hours after the last, the Wick reads and compares every copied frame; `found` are the 4 KiB that it
finds in copies where they differ from the frame's. -/
def execVerifyPass (found : List (Nat × List Byte)) (s : State) : Host.Outcome State Fault Refusal :=
  live s fun s =>
    let h := regField s rRas 16 14
    if h = 0 then s
    else
      let s := untilTime s (s.ras.verifyAt + h * 3600000000000)
      let s := modRas s fun x => { x with verifyAt := s.clk }
      let real := found.filter fun e => e.2.length = 4096 &&
        ((tierOf s (e.1 / 2048)).map fun t => decide (1 < t.copies ∧ e.1 / 512 % 4 < t.copies ∧ e.1 / 512 % 4 ≠ 0)).getD false
      let alt := real.foldl (fun m e => kset m e.1 e.2) s.mem.copyAlt
      settle hooks (verifyPass { s with mem := { s.mem with copyAlt := alt } })

/-- POOL_RESOLVE (R792): a quarantined frame takes the bytes of the copy that is named. -/
def execPoolResolve (c : Cmd) (s : State) : Host.Outcome State Fault Refusal :=
  live s fun s =>
    let frame := frameOf (arg c 0 8)
    let owner := (tierOf s frame).map (·.partition)
    let sp : CmdSpec := { group := 0x08, verb := 7, args := [(0, 8), (8, 4)], acts := .object }
    runCmd s c sp owner (owner = some (c.fn - 1)) fun s =>
      let k := arg c 8 4
      if 2 ^ 47 ≤ arg c 0 8 ∨ 2 < k then complete s (cmdRef c) stMalformed 0 []
      else match tierOf s frame with
        | none => complete s (cmdRef c) stNoMapping 0 []
        | some t =>
          if !t.quarantined || t.copies ≤ k then complete s (cmdRef c) stDenied 0 []
          else match resolve s frame k with
            | none => complete s (cmdRef c) stDenied 0 []
            | some s => complete s (cmdRef c) stOk 0 []

/-! ## Hurricane -/

/-- HURRICANE_MISMATCH (R788): every key is destroyed, and Hurricane stops. -/
def execHurricaneMismatch (s : State) : Host.Outcome State Fault Refusal :=
  live s fun s =>
    if !s.ras.hurricane then s
    else
      let s := note (bump (modRas (destroyKeys s) fun x => { x with hurricane := false }) (.fault 4)) "HURRICANE_MISMATCH" []
      report s 0x0E (selfNode s) noLport 3

/-! ## Health and counters -/

/-- HEALTH_RECOVER (R794): RECOVER_MS after the last change a score rises by 1, up to 1,000. -/
def execHealthRecover (n : Nat) (s : State) : Host.Outcome State Fault Refusal :=
  live s fun s =>
    match kfind s.ras.health n with
    | none => s
    | some h =>
      let s := untilTime s (h.at_ + regField s rHealth 10 10 * msNs)
      modRas s fun x => { x with health := kmod x.health n fun h => { h with score := min 1000 (h.score + 1), at_ := s.clk } }

/-- HEALTH_READ (R794): 8 bytes for each score: the logical port, and from byte 4 the score. -/
def execHealthRead (c : Cmd) (s : State) : Host.Outcome State Fault Refusal :=
  live s fun s => runCmd s c { pf0 := true, group := 0x19, verb := 1 } none true fun s =>
    complete s (cmdRef c) stOk 0 (s.ras.health.flatMap fun e => leBytes 4 e.1 ++ leBytes 4 e.2.score)

/-- RAS_STATS (R802). -/
def execRasStats (c : Cmd) (s : State) : Host.Outcome State Fault Refusal :=
  live s fun s => runCmd s c { pf0 := true, group := 0x18, verb := 1 } none true fun s =>
    complete s (cmdRef c) stOk 0 ((natRange 0 17).flatMap fun k => leBytes 8 (ctr s (.ras k)))

/-! ## Tickets and the budget (R796 to R799) -/

/-- FABRIC.TICKET on a signed command's body: the list is the ticket (R848). -/
def ticketCmd (s : State) (c : Cmd) (r : CmdRef) : State :=
  let b := c.host.getD []
  if !digestOk c b then complete s r stDenied 0 []
  else
    let (t, st, order) := takeTicket s b
    settle hooks (complete t r (st + 256 * order) 0 [])

/-- FABRIC.SET_BUDGET: SPARES, LIMIT, WINDOW_MS. -/
def budgetCmd (s : State) (c : Cmd) (r : CmdRef) : State :=
  let spares := arg c 0 4
  let limit := arg c 4 4
  let window := arg c 8 4
  if 65535 < spares ∨ 255 < limit ∨ window = 0 ∨ 3600000 < window then complete s r stMalformed 0 []
  else complete (modRas s fun x => { x with spares := spares, limit := limit, windowMs := window }) r stOk 0 []

/-- FABRIC.ADD_SPARES: the sum saturates at 65,535. -/
def sparesCmd (s : State) (c : Cmd) (r : CmdRef) : State :=
  complete (modRas s fun x => { x with spares := min 65535 (x.spares + arg c 0 4) }) r stOk 0 []

/-- The checks' facts of the FABRIC commands. -/
def ticketSpec : CmdSpec := { pf0 := true, signed := true, host := true, group := 0x07, verb := 4, args := [(0, 32)] }
def budgetSpec : CmdSpec := { pf0 := true, signed := true, group := 0x07, verb := 5, args := [(0, 4), (4, 4), (8, 4)] }
def sparesSpec : CmdSpec := { pf0 := true, signed := true, group := 0x07, verb := 6, args := [(0, 4)] }

/-- FABRIC_TICKET (R797). -/
def execFabricTicket (c : Cmd) (s : State) : Host.Outcome State Fault Refusal := live s fun s => runSigned s c ticketSpec ticketCmd
/-- FABRIC_SET_BUDGET (R799). -/
def execFabricSetBudget (c : Cmd) (s : State) : Host.Outcome State Fault Refusal := live s fun s => runSigned s c budgetSpec budgetCmd
/-- FABRIC_ADD_SPARES (R799). -/
def execFabricAddSpares (c : Cmd) (s : State) : Host.Outcome State Fault Refusal := live s fun s => runSigned s c sparesSpec sparesCmd

/-- TICKET_EXPIRE (R798): an accepted ticket's ID is held until EXPIRES. -/
def execTicketExpire (id : Nat) (s : State) : Host.Outcome State Fault Refusal :=
  live s fun s =>
    match s.ras.tickets.find? fun e => e.1 = id with
    | none => s
    | some (_, t) =>
      let s := untilFabric s t
      modRas s fun x => { x with tickets := x.tickets.filter fun e => e.1 ≠ id }

end Sys2Proof.Machine
end

