-- ==== Sys2Proof/Machine/Fabric.lean ====
section
/-! DEFINITION. Machine/Fabric.lean: the meanings of management messages, of the events of discovery, and of the NODE, ROUTE and FABRIC
commands (19_fabric_management.md); the restarts of the Wick, which takes these messages (18_reliability.md R786, R787). -/
namespace Sys2Proof.Machine

/-! ## Signed commands in FM_COMMAND (R805, R814, R815, R848) -/

/-- The commands that a signed body may hold: what their checks need, and their effect. -/
def signedBody (group verb : Nat) : Option (CmdSpec × (State → Cmd → CmdRef → State)) :=
  match group, verb with
  | 5, 1 => some (selfSpec, selfCmd)
  | 5, 2 => some (assignSpec, assignCmd)
  | 5, 3 => some (clearSpec, clearCmd)
  | 6, 1 => some (routeSpec, routeCmd)
  | 7, 1 => some (managersSpec, managersCmd)
  | 7, 2 => some (roleSpec, roleCmd)
  | 7, 3 => some (freeSpec, freeCmd)
  | 7, 4 => some (ticketSpec, ticketCmd)
  | 7, 5 => some (budgetSpec, budgetCmd)
  | 7, 6 => some (sparesSpec, sparesCmd)
  | _, _ => none

/-- FM_COMMAND at its target: the command's own status leaves in FM_REPLY; the message is answered with the CODE of a check of
R815 that fails. -/
def fmCommand (s : State) (p : Req) : State × Nat :=
  let b := p.payload.take 3456
  let seq := leField b 0x18 8
  let r : CmdRef := { fn := 0, qp := 0, cid := 0, addr1 := 0, outLen := 0, fm := some (p.src.toNat, seq) }
  match signedCheck s b with
  | some (st, order) => (complete s r (st + 256 * (0x80 + order)) 0 [], st)
  | none =>
    let c0 : Cmd := { fn := 0, qp := 0, cid := 0, list := some (p.payload.drop 3456) }
    let bc := bodyCmd c0 (sliceBytes b 64 64)
    let s := acceptSeq s b
    match signedBody (leField b 64 1) (leField b 65 1) with
    | none => (complete s r stUnsupported 0 [], stOk)
    | some (sp, body) =>
      if bc.outLen ≠ 0 ∨ bc.addr0 ≠ 0 ∨ bc.addr1 ≠ 0 ∨ !descriptorOk bc sp then (complete s r stMalformed 0 [], stOk)
      else (body s { bc with list := some (b.take 128) } r, stOk)

/-! ## Arrival (R803 to R805, R809) -/

/-- An endpoint's message that waits for its answer is outstanding, and numbered with the requests to its destination: a FENCE waits
for it (R97, R98). -/
def holdMgmt (s : State) (code : Nat) (p : Req) : State :=
  let part : ReqPart := { off := 0, len := 0, pool := 0, home := p.dst.toNat, sent := true }
  let o : OutReq := { op := .mgmt code, p := p, gen := 0, phase := .active, parts := [part], arrived := s.clk }
  { s with ing := { s.ing with outs := kset s.ing.outs s.nextId o }, nextId := s.nextId + 1 }

/-- The endpoint's message is answered, and outstanding no more. -/
def mgmtGone (s : State) (code : Nat) (p : Req) : State :=
  match s.ing.outs.find? fun e => e.2.op = .mgmt code && e.2.p = p with
  | some (id, _) => requestGone s id
  | none => s

/-- A message is answered: on its own link where it is link-scoped or its sender is attached here, else by route. -/
def mgmtAnswer (s : State) (code : Nat) (p : Req) (status : Nat) : State :=
  if p.dst.toNat = noNode || !facesSwitch s p.lport then
    mgmtGone (respondHere s wickPort p.lport 0 (mkResp s (.mgmt code) p status 0 p.length.toNat 0 [])) code p
  else answer s (.mgmt code) p status 0

/-- What the Wick does with a message, and the status it is answered with; none where the answer comes later. -/
def mgmtEffect (s : State) (code : Nat) (p : Req) : State × Option Nat :=
  let n := p.lport
  let b := p.payload
  let now := fun (x : State × Nat) => (x.1, some x.2)
  match code with
  | 0x80 => now (gotHello s n b)
  | 0x81 => now (gotCert s n b)
  | 0x82 => now (gotState s n b)
  | 0x83 => now (fmCommand s p)
  | 0x85 => now (gotRoutes s false n b)
  | 0x86 => now (gotRoutes s true n b)
  | 0x88 => now (gotDiscard s b)
  | 0x89 => gotXchg s p
  | 0x8A => let x := takeTicket s b; (x.1, some x.2.1)
  | 0x8B => now (gotKex s n b)
  | 0x8E => now (gotSync s n b)
  | 0x8F => now (gotFollow s n b)
  | _ => (s, some stOk)

/-- The Wick takes a message. -/
def mgmtTake (s : State) (code : Nat) (p : Req) : State :=
  match mgmtEffect s code p with
  | (s, some st) => mgmtAnswer s code p st
  | (s, none) => s

/-- Opcodes of link scope (R805). -/
def linkScoped (code : Nat) : Bool := [0x80, 0x81, 0x82, 0x85, 0x86, 0x8B, 0x8E, 0x8F].contains code
/-- Opcodes marked "switches only" (R805), which are refused on an endpoint-facing port. -/
def switchesMarked (code : Nat) : Bool := [0x85, 0x86, 0x87, 0x88, 0x89, 0x8B, 0x8E, 0x8F].contains code

/-- A management message arrives: steps 1 and 3 of the ingress check, then the Wick, which keeps it while no core is live (R787), or
its route. -/
def mgmtArrive (code : Nat) (p : Req) (s : State) : State :=
  if s.ras.halt ≠ 0 then s
  else
    let pkt : Packet := .req (.mgmt code) p
    let s := capture s p.lport 0 pkt
    let credit := fun (s : State) => returnCredit s p.lport (channelOf p.tc.toNat p.esc) pkt.flits
    if discardUnknown s p.lport && p.dst.toNat ≠ noNode then credit (bump s (.notKnown p.lport))
    else
      let own := !facesSwitch s p.lport
      let s := if own && (lportOf s p.lport).node = some p.src.toNat then noteSeq s p else s
      if !step1Ok (.mgmt code) p || !step3Ok (selfNode s) (.mgmt code) p || (linkScoped code && p.dst.toNat ≠ noNode) then
        mgmtAnswer (violatePkt (credit s) p.lport 1 pkt) code p stMalformed
      else if own && switchesMarked code then mgmtAnswer (violatePkt (credit s) p.lport 6 pkt) code p stDenied
      else if p.dst.toNat = noNode || p.dst.toNat = selfNode s then
        let s := credit s
        if s.ras.cores.any (·.live) then mgmtTake s code p
        else
          let s := if own then holdMgmt s code p else s
          { s with ras := { s.ras with wickQueue := s.ras.wickQueue ++ [(code, p)] } }
      else if !own then transit s p.lport p.esc pkt
      else match enqueue (credit s) (schedPort p.lport) p.lport false pkt with
        | some t => holdMgmt t code p
        | none => mgmtAnswer (credit s) code p stNoMapping

/-- A management message's whole effect. -/
def mgmt (code : Nat) (p : Req) (s : State) : Host.Outcome State Fault Refusal :=
  live s fun s => settle hooks (checkQuar (mgmtArrive code p s) p.lport)

/-- LL_HELLO (R806, R807). -/
def execLlHello (p : Req) (s : State) : Host.Outcome State Fault Refusal := mgmt 0x80 p s
/-- LL_CERT (R808). -/
def execLlCert (p : Req) (s : State) : Host.Outcome State Fault Refusal := mgmt 0x81 p s
/-- LL_STATE (R805, R810). -/
def execLlState (p : Req) (s : State) : Host.Outcome State Fault Refusal := mgmt 0x82 p s
/-- FM_COMMAND (R815). -/
def execFmCommand (p : Req) (s : State) : Host.Outcome State Fault Refusal := mgmt 0x83 p s
/-- FM_REPLY (R805). -/
def execFmReply (p : Req) (s : State) : Host.Outcome State Fault Refusal := mgmt 0x84 p s
/-- ROUTE_WITHDRAW (R822, R823). -/
def execRouteWithdraw (p : Req) (s : State) : Host.Outcome State Fault Refusal := mgmt 0x85 p s
/-- ROUTE_RESTORE (R823, R824). -/
def execRouteRestore (p : Req) (s : State) : Host.Outcome State Fault Refusal := mgmt 0x86 p s
/-- EVENT (R826). -/
def execEvent (p : Req) (s : State) : Host.Outcome State Fault Refusal := mgmt 0x87 p s
/-- DISCARD_REPORT (R680, R805). -/
def execDiscardReport (p : Req) (s : State) : Host.Outcome State Fault Refusal := mgmt 0x88 p s
/-- WICK_XCHG (R827). -/
def execWickXchg (p : Req) (s : State) : Host.Outcome State Fault Refusal := mgmt 0x89 p s
/-- TICKET (R797). -/
def execTicket (p : Req) (s : State) : Host.Outcome State Fault Refusal := mgmt 0x8A p s
/-- LINK_KEX (R757). -/
def execLinkKex (p : Req) (s : State) : Host.Outcome State Fault Refusal := mgmt 0x8B p s
/-- TIME_SYNC (R714). -/
def execTimeSync (p : Req) (s : State) : Host.Outcome State Fault Refusal := mgmt 0x8E p s
/-- TIME_FOLLOW (R716). -/
def execTimeFollow (p : Req) (s : State) : Host.Outcome State Fault Refusal := mgmt 0x8F p s

/-! ## Timed events of discovery (R806) -/

/-- HELLO_RESEND: every 1 ms in HELLO until the partner's LL_HELLO has arrived. -/
def execHelloResend (n : Nat) (s : State) : Host.Outcome State Fault Refusal :=
  live s fun s =>
    let l := lportOf s n
    if l.disc ≠ .hello || 511 < n then s
    else
      let s := untilTime s (l.discSince + ((s.clk - l.discSince) / msNs + 1) * msNs)
      resendHello s n

/-- HELLO_TIMEOUT: no LL_HELLO for 10 ms; NEIGHBOUR_UP names no identity. -/
def execHelloTimeout (n : Nat) (s : State) : Host.Outcome State Fault Refusal :=
  live s fun s =>
    let l := lportOf s n
    if l.disc ≠ .hello || l.helloLate || 511 < n then s
    else
      let s := untilTime s (l.discSince + 10 * msNs)
      report (modLport s n fun l => { l with helloLate := true }) 0x01 noNode n 0

/-- VERIFY_TIMEOUT: verification has taken 10 ms. -/
def execVerifyTimeout (n : Nat) (s : State) : Host.Outcome State Fault Refusal :=
  live s fun s =>
    let l := lportOf s n
    if l.disc ≠ .verify || 511 < n then s else untrust (untilTime s (l.discSince + 10 * msNs)) n true

/-! ## NODE, ROUTE and FABRIC commands -/

/-- NODE_SET_SELF (R816). -/
def execNodeSetSelf (c : Cmd) (s : State) : Host.Outcome State Fault Refusal := live s fun s => runSigned s c selfSpec selfCmd
/-- NODE_ASSIGN (R817). -/
def execNodeAssign (c : Cmd) (s : State) : Host.Outcome State Fault Refusal := live s fun s => runSigned s c assignSpec assignCmd
/-- NODE_CLEAR (R818). -/
def execNodeClear (c : Cmd) (s : State) : Host.Outcome State Fault Refusal := live s fun s => runSigned s c clearSpec clearCmd
/-- ROUTE_SET (R819, R820). -/
def execRouteSet (c : Cmd) (s : State) : Host.Outcome State Fault Refusal := live s fun s => runSigned s c routeSpec routeCmd
/-- FABRIC_SET_ROLE (R816). -/
def execFabricSetRole (c : Cmd) (s : State) : Host.Outcome State Fault Refusal := live s fun s => runSigned s c roleSpec roleCmd
/-- FABRIC_SET_FREE_MODE (R153). -/
def execFabricSetFreeMode (c : Cmd) (s : State) : Host.Outcome State Fault Refusal := live s fun s => runSigned s c freeSpec freeCmd

/-- The unsigned form that R849 allows through PF0 while the manager set is empty. -/
def firstManagers (s : State) (c : Cmd) (r : CmdRef) : State :=
  match c.host with
  | none => complete s r stHostFault 0 []
  | some b =>
    if !digestOk c (b.take (8 + 1960 * (leField b 0 1 % 8))) then complete s r stDenied 0 []
    else match managerList b with
      | none => complete s r stMalformed 0 []
      | some (ms, k) => complete (setManagers s ms k) r stOk 0 []

/-- FABRIC_SET_MANAGERS (R812, R848, R849). -/
def execFabricSetManagers (c : Cmd) (s : State) : Host.Outcome State Fault Refusal :=
  live s fun s =>
    if c.signed then runSigned s c managersSpec managersCmd
    else runCmd s c { managersSpec with host := false } none true fun s =>
      if !s.fm.managers.isEmpty then complete s (cmdRef c) stDenied 0 [] else firstManagers s c (cmdRef c)

/-- ESC_DRAIN_DONE (R820): nothing is queued on an escape channel, and the waiting ROUTE.SET writes its entries. -/
def execEscDrainDone (s : State) : Host.Outcome State Fault Refusal :=
  live s fun s =>
    match s.fm.escDrain with
    | none => s
    | some (l, r, _) =>
      if !escDrained s then s
      else complete (writeRoutes { s with fm := { s.fm with escDrain := none } } l) r stOk 0 []

/-- ESC_DRAIN_TIMEOUT (R820): after 10 ms nothing is written. -/
def execEscDrainTimeout (s : State) : Host.Outcome State Fault Refusal :=
  live s fun s =>
    match s.fm.escDrain with
    | none => s
    | some (_, r, t) =>
      let s := untilTime s (t + 10 * msNs)
      complete { s with fm := { s.fm with escDrain := none } } r stRetry 0 []

/-! ## The Wick's cores (R786, R787) -/

/-- Set whether a core is live. -/
def setCore (s : State) (k : Nat) (on : Bool) : State := modRas s fun x => { x with cores := x.cores.set k { live := on } }

/-- WICK_WATCHDOG (R786): a core that has sent no heartbeat for 1 ms is halted and reset. -/
def execWickWatchdog (k : Nat) (s : State) : Host.Outcome State Fault Refusal :=
  live s fun s =>
    if !((s.ras.cores[k]?).map (·.live)).getD false || !s.ras.hurricane then s
    else note (bump (setCore s k false) (.ras 11)) "WICK_CORE_RESET" [k]

/-- The messages that waited for a core (R787). -/
def drainWick (s : State) : State :=
  let q := s.ras.wickQueue
  q.foldl (fun s e => mgmtTake s e.1 e.2) (modRas s fun x => { x with wickQueue := [] })

/-- WICK_CORE_REJOIN (R786, R787): a restarted core copies a live core's state, or starts from the bundle in a restart of all, and is
live again. -/
def execWickCoreRejoin (k : Nat) (s : State) : Host.Outcome State Fault Refusal :=
  live s fun s =>
    let any := s.ras.cores.any (·.live)
    if 4 ≤ k || ((s.ras.cores[k]?).map (·.live)).getD true || !(any || s.ras.restartAt.isSome) then s
    else
      let s := modRas (setCore s k true) fun x => { x with restartAt := none, failedRestarts := 0 }
      settle hooks (if any then s else drainWick s)

/-- WICK_RESTART (R787): no core is live, and Hurricane restarts all four. -/
def execWickRestart (s : State) : Host.Outcome State Fault Refusal :=
  live s fun s =>
    if s.ras.cores.any (·.live) || s.ras.restartAt.isSome || !s.ras.hurricane || s.ras.halt ≠ 0 then s
    else note (bumpBy (modRas s fun x => { x with restartAt := some s.clk }) (.ras 11) 48 4) "WICK_RESTART" []

/-- WICK_RESTART_TIMEOUT (R787): no core is live 50 ms after a restart: it failed; the third in a row halts the switch. -/
def execWickRestartTimeout (s : State) : Host.Outcome State Fault Refusal :=
  live s fun s =>
    match s.ras.restartAt with
    | none => s
    | some t =>
      let s := untilTime s (t + 50 * msNs)
      let k := s.ras.failedRestarts + 1
      let s := modRas s fun x => { x with restartAt := none, failedRestarts := k }
      if 3 ≤ k then haltSwitch s 4 else s

end Sys2Proof.Machine
end

