-- ==== Sys2Proof/Machine/Hyser.lean ====
section
/-! DEFINITION. Machine/Hyser.lean: the meanings of the Hyser interface's own events: register accesses, doorbells, fetching and
completions, functions, the recovery mailbox (20_hyser_interface.md). -/
namespace Sys2Proof.Machine

/-- An access over the management port by a function that exists (R830, R909, R914). -/
def onMgmt (fn : Nat) (s : State) (f : State → State) : Host.Outcome State Fault Refusal :=
  if mgmtUp s && fnExists s fn then .next (f s) else .next s

/-! ## Registers -/

/-- REGISTER_WRITE (R833): a write of 4 or 8 bytes at an offset of a function's BAR0. -/
def execRegisterWrite (fn off size value : Nat) (s : State) : Host.Outcome State Fault Refusal :=
  onMgmt fn s fun s => writeBar s fn off size value

/-- POOL_HEAT_CFG_WRITE (R136). -/
def execPoolHeatCfgWrite (value : Nat) (s : State) : Host.Outcome State Fault Refusal :=
  onMgmt 0 s fun s => writeBar s 0 rPoolHeat 4 value

/-- POOL_POLICY_CFG_WRITE (R141, R142). -/
def execPoolPolicyCfgWrite (value : Nat) (s : State) : Host.Outcome State Fault Refusal :=
  onMgmt 0 s fun s => writeBar s 0 rPoolPolicy 4 value

/-- PORT_CFG_EN_SET (R601, R626): a write of PORT_CFG_p with EN 1. -/
def execPortCfgEnSet (p value : Nat) (s : State) : Host.Outcome State Fault Refusal :=
  onMgmt 0 s fun s => if 128 ≤ p then s else writeBar s 0 (rPort p) 4 (setBits value 0 1 1)

/-- PORT_CFG_EN_CLEAR (R601, R626): a write of PORT_CFG_p with EN 0. -/
def execPortCfgEnClear (p value : Nat) (s : State) : Host.Outcome State Fault Refusal :=
  onMgmt 0 s fun s => if 128 ≤ p then s else writeBar s 0 (rPort p) 4 (setBits value 0 1 0)

/-- FTIME_READ (R710): a read of 4 bytes of FTIME's low word (0) or high word (1), or of all of it (2). The low word's read
latches the high word, which the next read of the high word returns. -/
def execFtimeRead (part : Nat) (s : State) : Host.Outcome State Fault Refusal :=
  onMgmt 0 s fun s =>
    let s := wakeChip s
    let now := if running s then s.ftime.toNat else 0
    if part = 0 then
      emit { s with tk := { s.tk with latch := some (now / 2 ^ 32) } } (.regRead 0 rFtime (now % 2 ^ 32))
    else if part = 1 then
      emit { s with tk := { s.tk with latch := none } } (.regRead 0 (rFtime + 4) (s.tk.latch.getD (now / 2 ^ 32)))
    else emit s (.regRead 0 rFtime now)

/-- HYS_DROPPED_READ (R18, R836): a read returns the counts and clears them. -/
def execHysDroppedRead (fn : Nat) (s : State) : Host.Outcome State Fault Refusal :=
  onMgmt fn s fun s =>
    let s := wakeChip s
    emit (modFn s fn fun x => { x with droppedCompletions := 0, droppedEvents := 0 }) (.regRead fn 0x18 (viewReg s fn 0x18))

/-! ## Queues -/

/-- DB_WRITE (R837, R841): a write of DB_q, of its low 4 bytes (0), its high 4 bytes (1), or all 8 (2). -/
def execDbWrite (fn q part value : Nat) (s : State) : Host.Outcome State Fault Refusal :=
  onMgmt fn s fun s =>
    if qpairs fn ≤ q then s
    else if part = 2 then writeBar s fn (0x1000 + 8 * q) 8 value
    else writeBar s fn (0x1000 + 8 * q + 4 * (part % 2)) 4 value

/-- QP_ENABLE (R836, R840): a write of QP_CFG_q with EN 1. -/
def execQpEnable (fn q value : Nat) (s : State) : Host.Outcome State Fault Refusal :=
  onMgmt fn s fun s => if qpairs fn ≤ q then s else writeBar s fn (0x110 + 32 * q) 8 (setBits value 0 1 1)

/-- QP_DISABLE (R836, R840): a write of QP_CFG_q with EN 0. -/
def execQpDisable (fn q value : Nat) (s : State) : Host.Outcome State Fault Refusal :=
  onMgmt fn s fun s => if qpairs fn ≤ q then s else writeBar s fn (0x110 + 32 * q) 8 (setBits value 0 1 0)

/-- QRESET (R836): a write of 1 to HYS_CTRL.QRESET. -/
def execQreset (fn : Nat) (s : State) : Host.Outcome State Fault Refusal := onMgmt fn s fun s => writeBar s fn 0x08 4 1

/-- DESCRIPTOR_FETCH (R838, R839, R841): a visit of the fetcher, and the 64 bytes it reads (none: the read fails). -/
def execDescriptorFetch (desc : Option (List Byte)) (s : State) : Host.Outcome State Fault Refusal :=
  live s fun s => if s.boot.perstMgt then settleUnknown 256 (fetch s desc) else s

/-- COMMAND_COMPLETION (R840, R842, R846, R857, R858): the oldest completion of a queue pair is written; `outOk` says that its
output could be. A full completion queue holds it. -/
def execCommandCompletion (fn qp : Nat) (outOk : Bool) (s : State) : Host.Outcome State Fault Refusal :=
  live s fun s =>
    let s := settleUnknown 256 s
    let x := qpOf s fn qp
    match (fnOf s fn).done.find? fun d => d.qp = qp with
    | none => s
    | some d =>
      if !x.ready || !cqRoom x || !s.boot.perstMgt then s
      else writeCompletion (modFn (markBusy s) fn fun f => { f with done := f.done.erase d }) fn d outOk

/-- COAL_TIMER (R842): the oldest completion not yet signalled is COAL_US old. -/
def execCoalTimer (fn qp : Nat) (s : State) : Host.Outcome State Fault Refusal :=
  live s fun s =>
    let x := qpOf s fn qp
    if !x.ien || x.unsignalled = 0 || !x.ready then s
    else signal (untilTime s (x.oldest + x.coalUs * usNs)) fn qp

/-- HYS_NOP (R854). -/
def execHysNop (c : Cmd) (s : State) : Host.Outcome State Fault Refusal :=
  live s fun s => runCmd s c { group := 0x01, verb := 1 } none true fun s => complete s (cmdRef c) stOk 0 []

/-! ## Functions -/

/-- NUMVFS_WRITE (R830): host software writes NumVFs and VF Enable; a virtual function that is gone keeps no Hyser state. -/
def execNumvfsWrite (n : Nat) (enable : Bool) (s : State) : Host.Outcome State Fault Refusal :=
  onMgmt 0 s fun s =>
    if 1024 < n then s
    else
      let s := { s with hys := { s.hys with numVfs := n, vfEnable := enable } }
      ((s.hys.fns.map (·.1)).filter fun fn => !fnExists s fn).foldl fnReset s

/-- FUNCTION_LEVEL_RESET (R831). -/
def execFunctionLevelReset (fn : Nat) (s : State) : Host.Outcome State Fault Refusal := onMgmt fn s fun s => fnReset s fn

/-! ## The recovery mailbox (R861, R862) -/

/-- MBX_GO: a chunk of `len` bytes of MBX_DATA is taken as bundle bytes from `offset` on. -/
def execMbxGo (len offset : Nat) (s : State) : Host.Outcome State Fault Refusal :=
  onMgmt 0 s fun s => writeBar s 0 0x2000 8 (1 + 8 * (len % 2 ^ 17) + 2 ^ 32 * (offset % 2 ^ 26))

/-- MBX_LAST: the chunk ends the bundle, and verification starts. -/
def execMbxLast (len offset : Nat) (s : State) : Host.Outcome State Fault Refusal :=
  onMgmt 0 s fun s => writeBar s 0 0x2000 8 (3 + 8 * (len % 2 ^ 17) + 2 ^ 32 * (offset % 2 ^ 26))

/-- MBX_ABORT: every staged byte is discarded. -/
def execMbxAbort (s : State) : Host.Outcome State Fault Refusal := onMgmt 0 s fun s => writeBar s 0 0x2000 8 4

end Sys2Proof.Machine
end

