-- ==== Sys2Proof/Machine/Links.lean ====
section
/-! DEFINITION. Machine/Links.lean: the meanings of the events of links and their commands (14_link_layer.md). -/
namespace Sys2Proof.Machine

/-- An event of a logical port of a switch that is not halted, in a region that is not fenced; violations may quarantine the port,
and what waited goes on. -/
def onLink (n : Nat) (s : State) (f : State → State) : Host.Outcome State Fault Refusal :=
  live s fun s => if 512 ≤ n ∨ s.ras.halt ≠ 0 ∨ isFenced s (n / 32) then s else settle hooks (checkQuar (f s) n)

/-- The same while the port is in one link state. -/
def inState (n : Nat) (st : LinkState) (s : State) (f : State → State) : Host.Outcome State Fault Refusal :=
  onLink n s fun s => if (lportOf s n).link = st then f s else s

/-! ## Training -/

/-- PARTNER_LOCK (R626). -/
def execPartnerLock (n : Nat) (s : State) : Host.Outcome State Fault Refusal :=
  inState n .detect s fun s => setLink s n .equalize

/-- EQUALIZE_DONE (R626). -/
def execEqualizeDone (n : Nat) (s : State) : Host.Outcome State Fault Refusal :=
  inState n .equalize s fun s => toIdentify s n

/-- EQUALIZE_TIMEOUT (R626, R632): 50 ms pass with some lanes failed. -/
def execEqualizeTimeout (n : Nat) (lanes : List Nat) (s : State) : Host.Outcome State Fault Refusal :=
  inState n .equalize s fun s =>
    let s := untilTime s ((lportOf s n).entered + 50 * msNs)
    let s := markLanes s (portOf n) (lanes.filter fun i => (lanesGiven s n).contains i) true
    match degrade s n with
    | some s => toIdentify s n
    | none => goDown s n

/-- TRAIN_ID (R626, R627, R637). -/
def execTrainId (n version role lanes : Nat) (marked degradeOk : Bool) (s : State) : Host.Outcome State Fault Refusal :=
  onLink n s fun s => trainId s n version role lanes marked degradeOk

/-- TRAIN_CREDIT (R614, R626). -/
def execTrainCredit (n : Nat) (adv : List Nat) (s : State) : Host.Outcome State Fault Refusal :=
  onLink n s fun s => trainCredit s n adv

/-- TRAIN_DONE (R626). -/
def execTrainDone (n : Nat) (s : State) : Host.Outcome State Fault Refusal := onLink n s fun s => trainDone s n

/-- IDENTIFY_TIMEOUT (R626): 1 ms. -/
def execIdentifyTimeout (n : Nat) (s : State) : Host.Outcome State Fault Refusal :=
  inState n .identify s fun s =>
    note (goDown (untilTime s ((lportOf s n).entered + msNs)) n) "TRAIN_MISMATCH" [n]

/-- CONFIG_TIMEOUT (R626): 100 µs. -/
def execConfigTimeout (n : Nat) (s : State) : Host.Outcome State Fault Refusal :=
  inState n .config s fun s =>
    note (goDown (untilTime s ((lportOf s n).entered + 100 * usNs)) n) "CONFIG_FAILED" [n]

/-- RETRAIN_TIMEOUT (R626, R630): 20 µs. -/
def execRetrainTimeout (n : Nat) (s : State) : Host.Outcome State Fault Refusal :=
  inState n .retrain s fun s => partnerLost (untilTime s ((lportOf s n).entered + 20 * usNs)) n

/-- RETRAIN_DONE (R626, R633, R982): `good` are the lanes found good. -/
def execRetrainDone (n : Nat) (good : List Nat) (s : State) : Host.Outcome State Fault Refusal :=
  inState n .retrain s fun s => retrainDone s n good

/-- DOWN_TIMEOUT (R626): after 1 ms the port trains again, on all its lanes (R633). -/
def execDownTimeout (n : Nat) (s : State) : Host.Outcome State Fault Refusal :=
  inState n .down s fun s =>
    let s := untilTime s ((lportOf s n).entered + msNs)
    let s := markLanes s (portOf n) (lanesGiven s n) false
    modLport (setLink s n .detect) n fun l => { l with lanesCut := none }

/-! ## Loss and lanes -/

/-- PARTNER_LOSS (R629, R630): every lane has shown loss for 500 ns. -/
def execPartnerLoss (n : Nat) (s : State) : Host.Outcome State Fault Refusal :=
  onLink n s fun s =>
    if ((lportOf s n).link = .active || (lportOf s n).link = .retrain) && (lportOf s n).gw.isNone then partnerLost s n else s

/-- LANE_FAIL (R625, R632): a lane's error ratio is too high over 1 ms. -/
def execLaneFail (n lane : Nat) (s : State) : Host.Outcome State Fault Refusal :=
  inState n .active s fun s => if (lanesUsed s n).contains lane then failLanes s n [lane] else s

/-- LANE_LOSS_OF_SIGNAL (R629): some lanes, not all, show loss for 500 ns. -/
def execLaneLossOfSignal (n : Nat) (lanes : List Nat) (s : State) : Host.Outcome State Fault Refusal :=
  onLink n s fun s =>
    let l := lportOf s n
    let hit := lanes.filter fun i => (lanesUsed s n).contains i
    if (l.link = .active || l.link = .retrain) && !hit.isEmpty && !(lanesUsed s n).all hit.contains then failLanes s n hit
    else s

/-- BEACON_TIMER (R636): 50 µs after the last beacon. -/
def execBeaconTimer (n : Nat) (s : State) : Host.Outcome State Fault Refusal :=
  inState n .lowPower s fun s =>
    let s := untilTime s ((lportOf s n).ll.beaconAt + 50 * usNs)
    emit (modLink s n fun ll => { ll with beaconAt := s.clk }) (.beacon n)

/-- BEACON_LOSS (R636): no beacon for 150 µs. -/
def execBeaconLoss (n : Nat) (s : State) : Host.Outcome State Fault Refusal :=
  inState n .lowPower s fun s => partnerLost (untilTime s ((lportOf s n).entered + 150 * usNs)) n

/-- LOW_POWER_EXIT (R626, R636, R883, R884): training frames, or a packet for the port; the chip wakes. -/
def execLowPowerExit (n : Nat) (s : State) : Host.Outcome State Fault Refusal :=
  inState n .lowPower s fun s => pump (modLink (setLink (wakeChip s) n .active) n fun ll => { ll with lp := .idle }) n

/-! ## Codewords and link control flits -/

/-- CODEWORD_RECEIVED (R605 to R607): a codeword whose RS decoding and CRC10 are good is accepted, with the symbols corrected. -/
def execCodewordReceived (n : Nat) (rs : Bool) (corrected : Nat) (cw : Codeword) (s : State) :
    Host.Outcome State Fault Refusal :=
  inState n .active s fun s => codeword s n (codewordGood rs cw) corrected (codewordFlits cw)

/-- IDLE (R612): it fills a slot. -/
def execIdle (_n : Nat) (s : State) : Host.Outcome State Fault Refusal := live s fun s => s

/-- STATUS (R616, R619). -/
def execStatus (n ack : Nat) (valid : Bool) (credits : List Nat) (s : State) : Host.Outcome State Fault Refusal :=
  inState n .active s fun s => hoodCheck (gotStatus s n ack valid credits)

/-- NAK (R621, R622). -/
def execNak (n seq : Nat) (s : State) : Host.Outcome State Fault Refusal := inState n .active s fun s => gotNak s n seq

/-- REPLAY (R620). -/
def execReplay (n seq : Nat) (s : State) : Host.Outcome State Fault Refusal := inState n .active s fun s => gotReplay s n seq

/-- ESCAPE (R615, R637): from an endpoint or a tray, or where no escape channel was advertised, the next packet is
discarded. -/
def execEscape (n : Nat) (s : State) : Host.Outcome State Fault Refusal :=
  inState n .active s fun s =>
    let l := lportOf s n
    let none_ := (natRange 0 6).all fun v => l.ll.adv.getD (2 * v + 1) 0 = 0
    let s := modLink s n fun ll => { ll with escNext := true }
    if l.role ≠ some .switch || none_ then linkDropped (modLink s n fun ll => { ll with dropNext := true }) n 12 (ctlHead 0x05 []) else s

/-- ACK_TIMEOUT (R621, R622). -/
def execAckTimeout (n : Nat) (s : State) : Host.Outcome State Fault Refusal :=
  inState n .active s fun s =>
    match (lportOf s n).ll.txHeld with
    | [] => s
    | k :: _ =>
      replayOrRetrain (untilTime s ((lportOf s n).ll.txSince + regField s (rPortLink (portOf n)) 0 8 * 100)) n k

/-- NAK_REPEAT (R620): 1 µs after the last NAK. -/
def execNakRepeat (n : Nat) (s : State) : Host.Outcome State Fault Refusal :=
  inState n .active s fun s =>
    match (lportOf s n).ll.rxWait with
    | none => s
    | some t => let s := untilTime s (t + usNs); sendNak s n (lportOf s n).ll.rxNext

/-- STATUS_TIMER (R616): at least every 100 ns. -/
def execStatusTimer (n : Nat) (s : State) : Host.Outcome State Fault Refusal :=
  inState n .active s fun s => sendStatus (untilTime s ((lportOf s n).ll.statusAt + 100)) n

/-- SECURE_FRAME (R591 to R593, R624): a trailer with the frame's data. -/
def execSecureFrame (n slot ctr : Nat) (data : List Byte) (tag : BitVec 128) (s : State) :
    Host.Outcome State Fault Refusal :=
  inState n .active s fun s => secureFrame s n slot ctr data tag

/-- LP_REQ (R635): agreed to unless packets wait for the port; the port idles once all it sent is acknowledged. -/
def execLpReq (n : Nat) (s : State) : Host.Outcome State Fault Refusal :=
  inState n .active s fun s =>
    if portQuiet s n then
      tryLowPower (emit (modLink s n fun ll => { ll with lp := .granted }) (.control n .lpAck)) n
    else emit s (.control n .lpNak)

/-! ## Gateways (R641 to R645) -/

/-- TUNNEL_FRAME (R642 to R644): an acknowledgement, and a data frame that is accepted in SEQ order; a frame with a bad FCS is
discarded. -/
def execTunnelFrame (n seq ack flits : Nat) (fcs : Bool) (s : State) : Host.Outcome State Fault Refusal :=
  inState n .active s fun s =>
    match (lportOf s n).gw with
    | none => s
    | some g =>
      if !fcs || 128 < flits then bump s (.gwDiscard n)
      else
        let held := g.held.filter fun h => decide (2 ^ 31 ≤ (ack + 2 ^ 32 - h.1) % 2 ^ 32)
        let moved := held.length ≠ g.held.length
        let next := flits ≠ 0 && seq = (g.rxSeq + 1) % 2 ^ 32
        let g' : Gateway := { g with held := held, acked := if moved then ack else g.acked, lastGood := s.clk,
                                     heldSince := if moved then s.clk else g.heldSince,
                                     rxSeq := if next then seq else g.rxSeq }
        let keep := fun (x : Nat × Nat × Packet) => held.any fun h => h.1 = x.1
        let s := modLport s n fun l => { l with gw := some g' }
        let s := modLink s n fun ll => { ll with txPkts := ll.txPkts.filter keep }
        let s := if flits ≠ 0 && !next then bump s (.gwDiscard n) else s
        pump s n

/-- PFC_FRAME (R642): each priority named pauses for its quanta of 512 bit times, or goes on at 0. -/
def execPfcFrame (n : Nat) (quanta : List (Nat × Nat)) (s : State) : Host.Outcome State Fault Refusal :=
  inState n .active s fun s =>
    let rate := 200 * max 1 (lanesUsed s n).length
    modLport s n fun l => { l with gw := l.gw.map fun g =>
      { g with paused := quanta.foldl (fun p q => kset p (q.1 % 8) (s.clk + q.2 % 65536 * 512 / rate)) g.paused } }

/-- TUN_RTO (R644): the oldest unacknowledged frame waits TUN_RTO_US, and everything from it is sent again. -/
def execTunRto (n : Nat) (s : State) : Host.Outcome State Fault Refusal :=
  inState n .active s fun s =>
    match (lportOf s n).gw with
    | none => s
    | some g =>
      if g.held.isEmpty then s
      else
        let s := untilTime s (g.heldSince + g.rtoUs * usNs)
        let s := g.held.foldl (fun s h => emit s (.tunnel n h.1 g.rxSeq h.2)) s
        modLport s n fun l => { l with gw := some { g with heldSince := s.clk, lastSent := s.clk } }

/-- TUN_DEAD (R645): no good frame for TUN_DEAD_US. -/
def execTunDead (n : Nat) (s : State) : Host.Outcome State Fault Refusal :=
  onLink n s fun s =>
    match (lportOf s n).gw with
    | none => s
    | some g =>
      if linkUp (lportOf s n).link then partnerLost (untilTime s (g.lastGood + g.deadUs * usNs)) n else s

/-- TUNNEL_KEEPALIVE (R644): a frame at least every 10 µs. -/
def execTunnelKeepalive (n : Nat) (s : State) : Host.Outcome State Fault Refusal :=
  inState n .active s fun s =>
    match (lportOf s n).gw with
    | none => s
    | some g =>
      let s := untilTime s (g.lastSent + 10 * usNs)
      emit (modLport s n fun l => { l with gw := some { g with lastSent := s.clk } }) (.tunnel n 0 g.rxSeq 0)

/-! ## Host bridges -/

/-- HB_LINK_LOSS (R647, R734): the IDE keys of its link are destroyed; reported to the Wick; the bridge's agent is not marked failed by it. -/
def execHbLinkLoss (bridge : Nat) (s : State) : Host.Outcome State Fault Refusal :=
  live s fun s => if bridge < 4 then note (bridgeDown s bridge) "HB_LINK_LOSS" [bridge] else s

/-! ## The PORT commands of links (R639, R641, R982) -/

def portSpec (verb : Nat) (args : List (Nat × Nat)) (opts : Nat) : CmdSpec :=
  { pf0 := true, group := 0x04, verb := verb, args := args, opts := opts }

/-- A logical port that SPLIT makes. -/
def lportThere (s : State) (n : Nat) : Bool := decide (n < 512) && (lportsOf s (portOf n)).contains n

/-- PORT_RETRAIN (R982). -/
def execPortRetrain (c : Cmd) (s : State) : Host.Outcome State Fault Refusal :=
  live s fun s => runCmd s c (portSpec 4 [(0, 4)] 0) none true fun s =>
    let n := arg c 0 4
    if !lportThere s n then complete s (cmdRef c) stMalformed 0 []
    else if (lportOf s n).link ≠ .active then complete s (cmdRef c) stDenied 0 []
    else
      toRetrain (modLport s n fun l => { l with retrainBy := l.retrainBy ++ [cmdRef c] }) n

/-- PORT_RELEASE (R982). -/
def execPortRelease (c : Cmd) (s : State) : Host.Outcome State Fault Refusal :=
  live s fun s => runCmd s c (portSpec 5 [(0, 4)] 0) none true fun s =>
    let n := arg c 0 4
    if !lportThere s n then complete s (cmdRef c) stMalformed 0 []
    else if (lportOf s n).link ≠ .quarantined then complete s (cmdRef c) stDenied 0 []
    else complete (setLink s n .down) (cmdRef c) stOk 0 []

/-- PORT_LINK_STATS (R639): the counters in their order. -/
def execPortLinkStats (c : Cmd) (s : State) : Host.Outcome State Fault Refusal :=
  live s fun s => runCmd s c (portSpec 6 [(0, 4)] 0) none true fun s =>
    let n := arg c 0 4
    if 512 ≤ n then complete s (cmdRef c) stMalformed 0 []
    else complete s (cmdRef c) stOk 0 ((natRange 0 10).flatMap fun k => leBytes 8 (ctr s (.link n k)))

/-- A unicast MAC address of 48 bits. -/
def macOk (m : Nat) : Bool := decide (m < 2 ^ 48) && m % 2 = 0

/-- PORT_SET_GATEWAY (R641): the port, own and peer addresses, VLAN (0xFFFF: none), a priority for each of 6 channels,
TUN_RTO_US, TUN_DEAD_US and RETX_MIB; its buffer is taken from free T1 frames. -/
def execPortSetGateway (c : Cmd) (s : State) : Host.Outcome State Fault Refusal :=
  live s fun s => runCmd s c (portSpec 3 [(0, 4), (8, 6), (16, 6), (4, 2), (6, 1), (14, 2), (22, 2), (24, 2), (26, 2), (28, 1)] 0)
      none true fun s =>
    let n := arg c 0 4
    let r := cmdRef c
    let own := arg c 8 6
    let peer := arg c 16 6
    let vlan := arg c 4 2
    let pcp := (natRange 0 6).map fun v => bits (arg c 14 2 + 2 ^ 16 * arg c 22 2) (4 * v) 4
    let rto := arg c 24 2
    let dead := arg c 26 2
    let retx := arg c 28 1
    let bad := !lportThere s n || regField s (rPort (portOf n)) 3 1 = 0 || !macOk own || !macOk peer ||
      !(decide (vlan ≤ 4094) || vlan = 0xFFFF) || pcp.any (fun p => decide (7 < p)) ||
      !decide (5 ≤ rto ∧ rto ≤ 5000) || !decide (10 ≤ dead ∧ dead ≤ 10000) || !decide (1 ≤ retx ∧ retx ≤ 16)
    if bad then complete s r stMalformed 0 []
    else
      let old := ((lportOf s n).gw.map (·.retxMib)).getD 0
      if t1Free s + ceilDiv old 2 < ceilDiv retx 2 then complete s r stBudget 0 []
      else
        let g : Gateway := { ownMac := own, peerMac := peer, vlan := if vlan = 0xFFFF then none else some vlan, pcp := pcp,
                             rtoUs := rto, deadUs := dead, retxMib := retx, lastGood := s.clk }
        let s := { s with mem := { s.mem with reserved := kset s.mem.reserved (1000 + n) (ceilDiv retx 2) } }
        complete (modLport s n fun l => { l with gw := some g, marked := true }) r stOk 0 []

end Sys2Proof.Machine
end

