-- ==== Sys2Proof/Machine/Power.lean ====
section
/-! DEFINITION. Machine/Power.lean: the meanings of the events and commands of power, clocks and thermal limits
(21_power_clocks.md; the neighbour limits of 07_compute_fabric.md). -/
namespace Sys2Proof.Machine

/-! ## The input and the reference clocks (R863 to R875) -/

/-- INPUT_LOW (R868): below 44 V for 10 µs. -/
def execInputLow (s : State) : Host.Outcome State Fault Refusal :=
  live s fun s =>
    if s.power.inputLow then s
    else report (modPower s fun p => { p with inputLow := true }) 0x0F (selfNode s) noLport 1

/-- INPUT_RECOVER (R868, R906): above 44 V again. -/
def execInputRecover (s : State) : Host.Outcome State Fault Refusal :=
  live s fun s => modPower s fun p => { p with inputLow := false }

/-- The reference inputs that are good: REFCLK_A is 0, REFCLK_B is 1. -/
def refGood (p : Power) (b : Nat) : Bool := if b = 0 then p.refA else p.refB

/-- Switch every PLL to an input (R871): logical ports that cannot hold lock go to RETRAIN. -/
def switchRef (s : State) (b : Nat) (ports : List Nat) : State :=
  let s := bump (modPower s fun p => { p with refSel := b }) (.power 10)
  ports.foldl toRetrain s

/-- REFCLK_LOST (R871): input b is lost; `ports` are the logical ports that cannot hold lock through the relock. -/
def execRefclkLost (b : Nat) (ports : List Nat) (s : State) : Host.Outcome State Fault Refusal :=
  live s fun s =>
    if !refGood s.power b || 2 ≤ b then s
    else
      let s := modPower s fun p => if b = 0 then { p with refA := false } else { p with refB := false }
      if s.power.refSel = b && refGood s.power (1 - b) then switchRef s (1 - b) ports else s

/-- REFCLK_RESTORED (R871, R873): a lost input is good again; it is taken at once where the input in use is lost. -/
def execRefclkRestored (b : Nat) (s : State) : Host.Outcome State Fault Refusal :=
  live s fun s =>
    if refGood s.power b || 2 ≤ b then s
    else
    let s := modPower s fun p =>
      let p := { p with refSince := p.refSince.set b s.clk }
      if b = 0 then { p with refA := true } else { p with refB := true }
    -- the input in use is lost, and now the other is good (R871)
    if s.power.refSel ≠ b && !refGood s.power s.power.refSel then switchRef s b [] else s

/-- REFCLK_SWITCHBACK (R873): the preferred input has been good for 100 ms. -/
def execRefclkSwitchback (ports : List Nat) (s : State) : Host.Outcome State Fault Refusal :=
  live s fun s =>
    let b := regField s rClk 0 1
    if s.power.refSel = b || !refGood s.power b then s
    else switchRef (untilTime s (s.power.refSince.getD b 0 + 100 * msNs)) b ports

/-- REFCLK_BOTH_LOST (R872): both inputs have been lost for 10 µs: the switch-core clock is lost, and the switch halts. -/
def execRefclkBothLost (s : State) : Host.Outcome State Fault Refusal :=
  live s fun s => haltSwitch (modPower s fun p => { p with refA := false, refB := false }) 2

/-! ## Automatic stepping (R882 to R885) -/

/-- REGION_IDLE_TRIM (R882): no step has run or been queued in a region for IDLE_TRIM_US. -/
def execRegionIdleTrim (r : Nat) (s : State) : Host.Outcome State Fault Refusal :=
  live s fun s =>
    if 16 ≤ r ∨ !isLit s r ∨ regField s rPwr 0 2 = 0 ∨ regionWork s r then s
    else
      let s := untilTime s ((regionPow s r).idleSince + regField s rPwr 2 10 * usNs)
      trimRegion s r fun x => { x with idle := true }

/-- CHIP_HOOD_ENTRY (R882): the Hooded conditions have held for IDLE_HOOD_US, and every ACTIVE logical port is asked. -/
def execChipHoodEntry (s : State) : Host.Outcome State Fault Refusal :=
  live s fun s =>
    if s.power.chip ≠ .trimmed || regField s rPwr 0 2 ≠ 2 || !quiet s none || s.power.hooding.isSome || s.ras.halt ≠ 0 then s
    else hoodCheck (askHood (untilTime s (s.power.busyAt + regField s rPwr 12 12 * usNs)))

/-- LP_ACK (R635): a partner agrees; the port goes to LOW_POWER once all that it sent is acknowledged. -/
def execLpAck (n : Nat) (s : State) : Host.Outcome State Fault Refusal :=
  live s fun s =>
    let l := lportOf s n
    if l.link ≠ .active || l.ll.lp ≠ .asked then s
    else
      let s := tryLowPower (modLink s n fun ll => { ll with lp := .acked }) n
      hoodCheck (modPower s fun p => { p with hooding := p.hooding.map fun h =>
        { h with await := h.await.filter (· ≠ n), agreed := h.agreed ++ [n] } })

/-- LP_NAK (R885): a partner refuses, and the chip stays in Trimmed. -/
def execLpNak (n : Nat) (s : State) : Host.Outcome State Fault Refusal :=
  live s fun s =>
    if (lportOf s n).ll.lp ≠ .asked then s
    else hoodRefused (modLink s n fun ll => { ll with lp := .idle })

/-- LP_ACK_TIMEOUT (R885): no answer within 10 µs. -/
def execLpAckTimeout (s : State) : Host.Outcome State Fault Refusal :=
  live s fun s =>
    match s.power.hooding with
    | none => s
    | some h => if h.await.isEmpty then s else hoodRefused (untilTime s (h.since + 10 * usNs))

/-- WAKE (R883): a wake event, and the regions whose blocks the work needs. -/
def execWake (regions : List Nat) (s : State) : Host.Outcome State Fault Refusal :=
  live s fun s => regions.foldl wakeRegion (wakeChip s)

/-! ## Commanded states (R886 to R892) -/

def chipOf : Nat → Option Chip
  | 0 => some .lit
  | 1 => some .trimmed
  | 2 => some .hooded
  | 3 => some .banked
  | 4 => some .pilot
  | _ => none

/-- POWER_SET_STATE (R886 to R888, R904): STATE, DRAIN_US. -/
def execPowerSetState (c : Cmd) (s : State) : Host.Outcome State Fault Refusal :=
  live s fun s => runCmd s c { pf0 := true, group := 0x1A, verb := 1, args := [(0, 4), (4, 4)] } none true fun s =>
    let r := cmdRef c
    let us := arg c 4 4
    match chipOf (arg c 0 4) with
    | none => complete s r stMalformed 0 []
    | some t =>
      let deep := (t = .banked && !bankedPorts s) || (t = .pilot && !(bankedPorts s && pilotParts s))
      let hot := s.power.temps.any fun e => decide ((8 * regField s rTherm 0 7 : Nat) ≤ e.2)
      if 1000000 < us then complete s r stMalformed 0 []
      else if s.power.asked.isSome then complete s r stRetry 0 []
      else if deep || (t = .lit && s.power.tripped && hot) then complete s r stDenied 0 []
      else
        let s := modPower s fun p => { p with asked := some { target := t, deadline := s.clk + us * usNs, by_ := r } }
        let s := trySetState s
        if us = 0 && t ≠ .lit && s.power.asked.isSome && s.power.hooding.isNone then
          complete (modPower s fun p => { p with asked := none }) r stRetry 0 []
        else s

/-- POWER_STATE_DRAIN_TIMEOUT (R886): the conditions do not hold within DRAIN_US. -/
def execPowerStateDrainTimeout (s : State) : Host.Outcome State Fault Refusal :=
  live s fun s =>
    match s.power.asked with
    | none => s
    | some a =>
      if a.target = .lit then s
      else
        let s := trySetState (untilTime s a.deadline)
        if s.power.asked.isSome then
          complete (modPower (unhood s) fun p => { p with asked := none }) a.by_ stRetry 0 []
        else s

/-- POWER_SET_REGION (R890 to R892): the region and its state. -/
def execPowerSetRegion (c : Cmd) (s : State) : Host.Outcome State Fault Refusal :=
  live s fun s => runCmd s c { pf0 := true, group := 0x1A, verb := 2, args := [(0, 4), (4, 4)] } none true fun s =>
    let r := arg c 0 4
    let k := arg c 4 4
    let by_ := cmdRef c
    if 16 ≤ r ∨ 2 < k then complete s by_ stMalformed 0 []
    else if isFenced s r || (k = 2 && regionBound s r) then complete s by_ stDenied 0 []
    else
      let s := if k = 0 then
          let s := modRegionPow s r fun x => { x with cmd := none, st := if x.st = .banked then .trimmed else x.st }
          wakeRegion s r
        else if k = 1 then trimRegion s r fun x => { x with cmd := some .trimmed, idle := false }
        else followRegions (modRegionPow s r fun x => { x with cmd := some .banked, st := .banked, idle := false, limN := 3600, nbrSince := none })
      complete s by_ stOk 0 []

/-- POWER_STATS (R907). -/
def execPowerStats (c : Cmd) (s : State) : Host.Outcome State Fault Refusal :=
  live s fun s => runCmd s c { pf0 := true, group := 0x1A, verb := 3 } none true fun s =>
    complete s (cmdRef c) stOk 0 ((natRange 0 11).flatMap fun k => leBytes 8 (ctr s (.power k)))

/-! ## Frequency, cap and guard (R894 to R897) -/

/-- A thermal episode of a region goes on or ends (R899, R900): it is lowered in every interval until it is 3 °C below THROTTLE_C (what it
may run at then: log entry 124). -/
def thermTick (s : State) (r : Nat) : State :=
  let t := (8 * regField s rTherm 0 7 : Nat)
  let own := decide ((t : Int) < regionTemp s r)
  let hot := own || s.power.coreHot
  let cool := decide (regionTemp s r ≤ (t : Int) - 24) && !s.power.coreHot
  modRegionPow s r fun x =>
    let lower := hot || (decide (x.limT < 3600) && !cool)
    if lower then { x with limT := max 900 (x.mhz - 100),
                           hotSince := if x.mhz ≤ 900 ∧ own = true then some (x.hotSince.getD s.clk) else none }
    else { x with limT := 3600, hotSince := none }

/-- The cap acts on a region (R895). -/
def capTick (s : State) (r : Nat) : State :=
  let cap := regField s rPwr 24 12
  modRegionPow s r fun x =>
    if cap < s.power.pin then { x with limC := max 900 (x.mhz - 100) }
    else if s.power.pin * 100 < 98 * cap then { x with limC := min 3600 (min x.limC x.mhz + 100) }
    else x

/-- The frequency that the power policy asks of a region, an open choice of the Wick, and what the limits leave of it (R327,
R894). -/
def freqTick (s : State) (r : Nat) : State :=
  let ask := 900 + 25 * (freeNat s % 109)
  capFreq (modRegionPow (bumpFree s) r fun x => { x with mhz := ask }) r

/-- POWER_TICK (R867, R894, R895, R899): the averages of the input, and a frequency for every Lit region. -/
def execPowerTick (vin pin : Nat) (s : State) : Host.Outcome State Fault Refusal :=
  live s fun s =>
    let s := modPower s fun p => { p with vin := vin, pin := pin }
    let lit := regions16.filter (isLit s)
    let s := lit.foldl (fun s r => freqTick (capTick (thermTick s r) r) r) s
    let cap := regField s rPwr 24 12
    let capped := decide (cap < pin) || lit.any (fun r => decide ((regionPow s r).limC < 3600)) || !s.power.capHolds.isEmpty
    let slow := lit.all fun r => (regionPow s r).mhz = 900
    let s := modPower s fun p => { p with capped := capped,
                                          overSince := if decide (cap < pin) && slow then some (p.overSince.getD s.clk) else none }
    if capped then bumpBy s (.power 6) 48 100000 else s

/-- Steps that a region committed in the preceding 1 ms. -/
def recentCommits (s : State) (r : Nat) : Nat := ((regionPow s r).commits.filter fun e => decide (s.clk < e.1 + msNs)).foldl (fun n e => n + e.2) 0

/-- The region that committed the fewest steps, the highest number among equals (R896). -/
def leastBusy (s : State) : List Nat → Option Nat
  | [] => none
  | r :: rs =>
    match leastBusy s rs with
    | some b => if recentCommits s r < recentCommits s b then some r else some b
    | none => some r

/-- CAP_TRIM (R896): the cap has been exceeded for 10 ms with every Lit region at 0.9 GHz, and a region takes a cap hold; or the
power has stayed below 95 % of it, and the last hold ends. -/
def execCapTrim (s : State) : Host.Outcome State Fault Refusal :=
  live s fun s =>
    let cap := regField s rPwr 24 12
    match s.power.overSince with
    | some t =>
      match leastBusy s (regions16.filter (isLit s)) with
      | none => s
      | some r =>
        let s := untilTime s (t + 10 * msNs)
        let s := bump (trimRegion s r fun x => { x with cap := true, idle := false }) (.power 7)
        modPower s fun p => { p with capHolds := p.capHolds ++ [r], overSince := some s.clk, capped := true }
    | none =>
      match s.power.capHolds.getLast? with
      | none => s
      | some r =>
        if s.power.pin * 100 < 95 * cap then
          let s := untilTime s (s.power.releaseAt + 10 * msNs)
          let s := modPower s fun p => { p with capHolds := p.capHolds.dropLast, releaseAt := s.clk,
                                                capped := decide (1 < p.capHolds.length) }
          modRegionPow s r fun x => { x with cap := false, idle := x.st = .trimmed && !{ x with cap := false : Region }.held }
        else s

/-- CURRENT_GUARD (R897). -/
def execCurrentGuard (s : State) : Host.Outcome State Fault Refusal :=
  live s fun s =>
    let s := modPower s fun p => { p with guardAt := s.clk }
    if s.power.guard then s else bump (modPower s fun p => { p with guard := true }) (.power 8)

/-- GUARD_RELEASE (R897): the current has stayed below GUARD_A for 100 µs. -/
def execGuardRelease (s : State) : Host.Outcome State Fault Refusal :=
  live s fun s =>
    if !s.power.guard then s
    else modPower (untilTime s (s.power.guardAt + 100 * usNs)) fun p => { p with guard := false }

/-! ## Thermal limits (R898 to R903) -/

/-- A throttle episode begins (R902): logged once and reported. -/
def episode (s : State) (r detail : Nat) : State :=
  report (bump (throttleLog s r) (.power 9)) 0x0F (selfNode s) noLport detail

/-- THERM_SAMPLE (R898 to R902): a sensor's reading in 1/8 °C. -/
def execThermSample (n : Nat) (t : Int) (s : State) : Host.Outcome State Fault Refusal :=
  live s fun s =>
    if 90 ≤ n then s
    else
      let s := modPower (if n < 64 then keepSample s (n / 4) else s) fun p => { p with temps := kset p.temps n t }
      let lim : Int := (8 * regField s rTherm 0 7 : Nat)
      let hbm : Int := (8 * regField s rTherm 7 7 : Nat)
      if n < 64 then
        let r := n / 4
        let x := regionPow s r
        if decide (lim < regionTemp s r) && decide (3600 ≤ x.limT) && isLit s r then
          episode (capFreq (modRegionPow s r fun x => { x with limT := max 900 (x.mhz - 100) }) r) r (2 + 2 ^ 8 * r)
        else if x.therm && decide (regionTemp s r < lim - 80) then
          modRegionPow s r fun x => { x with therm := false, limT := 3600, hotSince := none,
                                             idle := x.st = .trimmed && !{ x with therm := false : Region }.held }
        else if decide (x.limT < 3600) && !isLit s r && decide (regionTemp s r ≤ lim - 24) then
          modRegionPow s r fun x => { x with limT := 3600, hotSince := none }
        else s
      else if 80 ≤ n ∧ n < 88 then
        let k := n - 80
        let was := s.power.hbmHot.contains k
        if decide (hbm < t) && !was then
          report (bump (throttleLog (modPower s fun p => { p with hbmHot := insertRising k p.hbmHot }) (2 * k)) (.power 9))
            0x0F (selfNode s) noLport 4
        else if decide (t ≤ hbm) then modPower s fun p => { p with hbmHot := p.hbmHot.filter (· ≠ k) }
        else s
      else
        let was := s.power.coreHot
        -- the episode ends 3 °C below THROTTLE_C, as a region's (R899, R900)
        let bar := if was then lim - 24 else lim
        let hot := [64, 65, 66, 67, 68, 69, 70, 71, 72, 73, 74, 75, 76, 77, 78, 79, 88, 89].any fun k => decide (bar < temp s k)
        let s := modPower s fun p => { p with coreHot := hot }
        if hot && !was then
          let s := (regions16.filter (isLit s)).foldl (fun s r =>
            capFreq (modRegionPow s r fun x => { x with limT := max 900 (x.mhz - 100) }) r) s
          report (bump (throttleLog s 0) (.power 9)) 0x0F (selfNode s) noLport 3
        else s

/-- THERMAL_HOLD (R899): a region still hot at 0.9 GHz after 10 ms is held in Trimmed. -/
def execThermalHold (r : Nat) (s : State) : Host.Outcome State Fault Refusal :=
  live s fun s =>
    match (regionPow s r).hotSince with
    | none => s
    | some t =>
      if 16 ≤ r ∨ !isLit s r then s
      else trimRegion (untilTime s (t + 10 * msNs)) r fun x => { x with therm := true, idle := false, hotSince := none }

/-- A partition that a trip sets FREE (R903) leaves nothing of its record but KEY_GEN, as one that was torn down; a FREE one stays as it is. -/
def tripPart (p : Partition) : Partition := if p.st = .free then { p with tdi := .unlocked } else { keyGen := p.keyGen }

/-- Commands on what a trip loses complete (log entry 124): a PART.TEARDOWN with OK, since its partition is FREE, and commands on memory and
objects (groups 0x08 to 0x12) with TORN_DOWN. -/
def tripCommands (s : State) : State :=
  let s := s.sec.tearing.foldl (fun s t => t.2.by_.foldl (fun s r => complete s r stOk 0 []) s) s
  let lost := s.hys.fns.flatMap fun e => (e.2.inFlight.filter fun i => i.started && decide (8 ≤ i.group ∧ i.group ≤ 18)).map fun i => (e.1, i)
  lost.foldl (fun s e => complete s { fn := e.1, qp := e.2.qp, cid := e.2.cid, addr1 := 0, outLen := 0 } stTornDown 0 []) s

/-- THERMAL_TRIP (R903): hardware drops to Pilot; the keys of all partitions are destroyed and the partitions are FREE. -/
def execThermalTrip (s : State) : Host.Outcome State Fault Refusal :=
  live s fun s =>
    let s := (s.lports.filter fun e => decide (e.1 < 512) && e.2.link ≠ .disabled).foldl (fun s e => goDown s e.1) s
    let gone := (s.parts.filter fun e => e.2.st ≠ .free).map (·.1)
    let s := tripCommands s
    let s := { s with
      parts := s.parts.map fun (e : Nat × Partition) => (e.1, tripPart e.2)
      lports := s.lports.map fun (e : Nat × LPort) => (e.1, { e.2 with parts := e.2.parts.filter fun p => !gone.contains p })
      shape := { s.shape with l2 := s.shape.l2.filter fun e => !gone.contains (e.1 / 8) }
      sec := { s.sec with tearing := [], scrubs := [], revokes := [], bound := [], lockNonce := [] }
      mem := { s.mem with classOn := s.mem.classOn.filter fun e => !gone.contains e.1 }
      core := { s.core with voqs := [] } }
    let s := bridgesDown s
    let s := match s.power.asked with
      | some a => complete (modPower s fun p => { p with asked := none }) a.by_ stRetry 0 []
      | none => s
    let s := enterPilot s 2
    report (modPower s fun p => { p with tripped := true }) 0x0F (selfNode s) noLport 3

/-! ## Neighbour limits (R329 to R332) -/

/-- Every pair of neighbouring regions. -/
def pairs16 : List (Nat × Nat) :=
  regions16.flatMap fun a => (regions16.filter fun b => decide (a < b) && neighbours a b).map fun b => (a, b)

/-- A region takes part in comparisons: it is not fenced, and not below Trimmed (R332). -/
def compared (s : State) (r : Nat) : Bool :=
  !isFenced s r && (regionPow s r).st ≠ .banked && s.power.chip ≠ .banked && s.power.chip ≠ .pilot

/-- Of a pair beyond its limits, by averages over the preceding 100 µs (R329), the region to lower (R331): the hotter, or the one with the higher
supply. -/
def toLower (s : State) (a b : Nat) : Option Nat :=
  let x := regionSum s a
  let y := regionSum s b
  let dv := x.2.mv * y.1 - y.2.mv * x.1
  let dt := x.2.tj * y.1 - y.2.tj * x.1
  if !compared s a || !compared s b then none
  else if 60 * (x.1 * y.1) < dv.natAbs then some (if 0 < dv then a else b)
  else if 160 * (x.1 * y.1) < dt.natAbs then some (if 0 < dt then a else b)
  else none

/-- A region that the neighbour limit holds in Trimmed would, at 0.9 GHz, be within both limits of every neighbour that is compared. -/
def nbrFits (s : State) (r : Nat) : Bool :=
  regions16.all fun b => !neighbours r b || !compared s b ||
    (decide (((supplyMv r 900 : Int) - (regionAvg s b).mv).natAbs ≤ 60) &&
      decide (((regionAvg s r).tj - (regionAvg s b).tj).natAbs ≤ 160))

/-- NEIGHBOUR_COMPARE (R329 to R331), 100 µs after the last: a Trimmed region has no frequency to lower. -/
def execNeighbourCompare (s : State) : Host.Outcome State Fault Refusal :=
  live s fun s =>
    let s := untilTime s (s.power.nbrAt + 100 * usNs)
    let s := modPower s fun p => { p with nbrAt := s.clk }
    let low := (pairs16.filterMap fun p => toLower s p.1 p.2).eraseDups
    regions16.foldl (fun s r =>
      let x := regionPow s r
      if low.contains r && isLit s r then
        let s := if 3600 ≤ x.limN then throttleLog s r else s
        capFreq (modRegionPow s r fun x => { x with
          limN := max 900 (x.mhz - 100),
          nbrSince := if x.mhz ≤ 900 then some (x.nbrSince.getD s.clk) else none }) r
      else if x.limN < 3600 then modRegionPow s r fun x => { x with limN := 3600, nbrSince := none }
      else if x.nbr && nbrFits s r then
        modRegionPow s r fun x => { x with nbr := false, limN := 3600, idle := x.st = .trimmed && !{ x with nbr := false : Region }.held }
      else s) s

/-- NEIGHBOUR_TRIM (R332): a difference that has persisted for 10 ms at 0.9 GHz. -/
def execNeighbourTrim (r : Nat) (s : State) : Host.Outcome State Fault Refusal :=
  live s fun s =>
    match (regionPow s r).nbrSince with
    | none => s
    | some t =>
      if 16 ≤ r ∨ !isLit s r then s
      else
        let s := trimRegion (untilTime s (t + 10 * msNs)) r fun x => { x with nbr := true, idle := false, nbrSince := none }
        report s 0x0F (selfNode s) noLport (5 + 2 ^ 8 * r)

end Sys2Proof.Machine
end

