-- ==== Sys2Proof/Machine/ArbCore.lean ====
section
/-! DEFINITION. Machine/ArbCore.lean: the block arbiter (07_compute_fabric.md R308, R311 to R315): what a step asks of the banks of its
block's scratch, promotion and grants. A step does not wait for it: its timing alone is at stake. -/
namespace Sys2Proof.Machine

/-- Change a block's arbiter. -/
def modBankArb (s : State) (b : Nat) (f : BlockArb → BlockArb) : State := modBlk s b fun x => { x with arb := f x.arb }

/-- Streams that a cell reads (each operand whose source is a stream), and the one that it writes. -/
def cellStreams (w : Nat) : List Nat × List Nat :=
  let c := cellWord w
  let one := fun (src : Nat) => if src = 7 then [c.stA] else if src = 8 then [c.stB] else []
  if !c.en then ([], [])
  else ((one c.srcA ++ one c.srcB ++ one c.srcC ++ (if c.accOp = 5 ∨ c.accOp = 6 then [c.stA] else [])).eraseDups,
    if c.dst = 3 then [c.stOut] else [])

/-- Banks of the words of the read or the write half of a stream (R308, R345). -/
def halfBanks (x : Block) (e : Nat × Stream) (wr : Bool) : List Nat :=
  (natRange 0 (ceilDiv e.2.bytes 64)).map fun i => (halfAt x e wr / 64 + i) % 16

/-- What the next step of a template's block asks: fills by the region-side ports, and words that cells read and write. -/
def stepWords (im : List Byte) (t : Nat) (x : Block) : List (ArbPort × Nat) :=
  let ss := streamsOf im t
  let banks := fun (n : Nat) (wr : Bool) => match ss.find? fun e => e.1 = n with
    | some e => halfBanks x e wr
    | none => []
  let fill := ss.flatMap fun e =>
    if e.2.write then []
    else match e.2.kind with
      | 1 => (halfBanks x e false).map fun k => (ArbPort.mem, k)
      | 4 => (halfBanks x e false).map fun k => (ArbPort.net, k)
      | 2 | 5 => (halfBanks x e false).map fun k => (ArbPort.port, k)
      | _ => []
  let cells := ((cellWords im t).zipIdx).flatMap fun w =>
    let st := cellStreams w.1
    (st.1.flatMap fun n => (banks n false).map fun k => (ArbPort.cell w.2, k)) ++ st.2.flatMap fun n => (banks n true).map fun k => (ArbPort.cell w.2, k)
  fill ++ cells

/-- Write-backs at commit: memory by MEM, other blocks by NET, the response by PORT. -/
def commitWords (im : List Byte) (t : Nat) (x : Block) : List (ArbPort × Nat) :=
  (streamsOf im t).flatMap fun e =>
    if !e.2.write then []
    else match e.2.kind with
      | 1 => (halfBanks x e true).map fun k => (ArbPort.mem, k)
      | 4 => (halfBanks x e true).map fun k => (ArbPort.net, k)
      | 3 => (halfBanks x e true).map fun k => (ArbPort.port, k)
      | _ => []

/-- Most pending requests of a requester at a bank (R311). -/
def bankLimit : ArbPort → Nat
  | .cell _ => 1
  | .tile => 2
  | _ => 4

/-- Promotion time of a requester's class in region clocks (R312, R315); the region-side ports' requests are promoted on arrival. -/
def bankClocks (s : State) (b : Nat) : ArbPort → Nat
  | .cell _ => regField s (rBlockArb b) 0 8
  | .tile => regField s (rBlockArb b) 8 8
  | _ => 0

/-- Issue the requests that the limits allow, in their order; those whose class has a promotion time of 0 are promoted on arrival (R311,
R312, R315). -/
def bankIssue (now : Time) (clocks : ArbPort → Nat) (a : BlockArb) : BlockArb :=
  a.todo.foldl (fun (a : BlockArb) w =>
    if (a.pending.filter fun p => p.by_ = w.1 && p.bank = w.2).length < bankLimit w.1 then
      { a with pending := a.pending ++ [{ id := a.next, by_ := w.1, bank := w.2, issued := now, promoted := clocks w.1 = 0 }], next := a.next + 1 }
    else { a with todo := a.todo ++ [w] }) { a with todo := [] }

/-- Place of a requester on the rotating pointer. -/
def bankPlace : ArbPort → Nat
  | .cell n => n
  | .tile => 34
  | .port => 35
  | .mem => 36
  | .net => 37

/-- The request that a bank grants (R313): the oldest promoted one, or the next by the pointer. -/
def bankPick (a : BlockArb) (bank : Nat) : Option BankReq :=
  let l := a.pending.filter fun p => p.bank = bank
  let old := l.filter (·.promoted)
  let ptr := kget a.ptr bank 0
  let dist := fun (p : BankReq) => (bankPlace p.by_ + 38 - ptr) % 38
  let first := fun (f : BankReq → Nat) (l : List BankReq) => l.foldl (fun (m : Option BankReq) p => match m with
    | some q => if f p < f q then some p else some q
    | none => some p) none
  if old.isEmpty then first dist l else first (fun p => p.issued * 2 ^ 64 + p.id) old

/-- Each bank grants one request in a region clock (R313). -/
def bankGrant (now : Time) (clocks : ArbPort → Nat) (a : BlockArb) : BlockArb :=
  (natRange 0 16).foldl (fun (a : BlockArb) k =>
    match bankPick a k with
    | none => a
    | some p =>
      { a with pending := a.pending.filter fun q => q.id ≠ p.id
               ptr := if p.promoted then a.ptr else kset a.ptr k ((bankPlace p.by_ + 1) % 38) }) (bankIssue now clocks a)

/-- When a request is promoted (R312, R315), in time; none for one that is promoted already. -/
def bankDue (s : State) (b : Nat) (p : BankReq) : Option Time :=
  if p.promoted then none else some (p.issued + ceilDiv (bankClocks s b p.by_ * 1000) (Nat.max 900 (regionPow s (b / 16)).mhz))

/-- A step of a block asks for its words; at its commit, for its write-backs. -/
def bankStep (s : State) (j : Job) (words : List Byte → Nat → Block → List (ArbPort × Nat)) : State :=
  match j.kind, j.block with
  | .image i t _, some b => match instOf s i with
    | some x => modBankArb s b fun a => { a with todo := a.todo ++ words x.image t (blk s b) }
    | none => s
  | _, _ => s

end Sys2Proof.Machine
end

