-- ==== Sys2Proof/Machine/Progs.lean ====
section
/-! DEFINITION. Machine/Progs.lean: the meanings of the events of steps (07_compute_fabric.md R310 to R326, 08_fabric_programs.md R368 to
R371, 18_reliability.md R773 to R784) and of the PROG commands (08_fabric_programs.md). Unit u below 256 is the step of the image
bound to block u; unit 256 + k is the library's work with identity k. -/
namespace Sys2Proof.Machine

/-! ## Steps -/

/-- Regions with enough block faults within a second are fenced (R777). -/
def fenceFaults (s : State) : State :=
  (natRange 0 16).foldl (fun s r =>
    let n := ((kget s.ras.faultsAt r []).filter fun t => decide (s.clk < t + 1000000000)).length
    if regField s rRas 12 4 ≤ n && !isFenced s r && wickDecides s then fence s r 1 else s) s

/-- What follows block faults: contexts with scratch in a free block that was retired (which blocks hold it is an open choice), fences. -/
def afterFaults (before s : State) : State :=
  let lost := (natRange 0 256).filter fun b => (blk s b).retired && !(blk before b).retired && (blk before b).use = .free &&
    decide (0 < collScratch before (b / 16))
  let s := lost.foldl (fun s b => if freeNat s % 2 = 0 then collBlock (bumpFree s) (b / 16) else bumpFree s) s
  fenceFaults s

/-- A queued step starts; where its region is not Lit, it wakes it first (R883). `bad` are the words whose parity fails as it starts, as in
`wordErrors` (R322): a block that then lacks a cell abandons the step. -/
def stepStart (s : State) (u : Nat) (bad : List Nat) : State :=
  match unitJob s u with
  | none => s
  | some (id, j) =>
    if j.stage ≠ .queued then s
    else
      let s := match j.block with
        | some b => if isLit s (b / 16) then s else wakeRegion s (b / 16)
        | none => s
      if (j.block.map fun b => isLit s (b / 16)) = some false then s
      else
        let t := match j.block with
          | some b => if bad.isEmpty then s else afterFaults s (wordErrors s b bad)
          | none => s
        if (jobOf t id).bind (·.block) ≠ j.block then t
        else if isBroken t id then abandon t id stPoisoned
        else runStep (bankStep (chooseShadow t id) j stepWords) id

/-- STEP_START (R316, R319, R322, R369): the unit is the operand's low 64 bits; above them stands a bit for each unit of the block whose words fail
their parity as the step starts, as `wordErrors` numbers them. -/
def execStepStart (u : Nat) (s : State) : Host.Outcome State Fault Refusal :=
  live s fun s => settle hooks (stepStart s (u % 2 ^ 64) ((natRange 0 36).filter (u / 2 ^ 64).testBit))

/-- A stalled step goes on when nothing it waits for is missing. -/
def stepResume (s : State) (u : Nat) : State :=
  match unitJob s u with
  | none => s
  | some (id, j) => if j.stage ≠ .stalled ∨ !j.wait.isEmpty then s else runStep (stallEnd s j) id

/-- STEP_RESUME (R319, R159). -/
def execStepResume (u : Nat) (s : State) : Host.Outcome State Fault Refusal :=
  live s fun s => settle hooks (stepResume s u)

/-- A step that has passed commits, or is replayed for the errors found in it. -/
def stepCommit (s : State) (u : Nat) (bad : List Nat) : State :=
  match unitJob s u with
  | none => s
  | some (id, j) =>
    if j.stage ≠ .done ∨ (j.shadowed && !j.checked) = true then s
    else afterFaults s (finishStep (if bad.isEmpty then bankStep s j commitWords else s) id bad)

/-- STEP_COMMIT (R310, R316, R317, R321 to R326, R773): `bad` are the errors found in the step, as in `blockErrors`. -/
def execStepCommit (u : Nat) (bad : List Nat) (s : State) : Host.Outcome State Fault Refusal :=
  live s fun s => settle hooks (stepCommit s u bad)

/-- A millisecond after the last, a block's words are checked; one found bad is reloaded, its cell's state changes and the step in
progress replays. -/
def configScrub (s : State) (b : Nat) (bad : List Nat) : State :=
  let s := untilTime s ((blk s b).scrubAt + 1000000)
  let s := modBlk s b fun x => { x with scrubAt := s.clk }
  let t := if bad.isEmpty then s else wordErrors s b (bad.filter fun n => decide (n < 36))
  if bad.isEmpty then s
  else
    let t := (t.fab.jobs.filter fun e => e.2.block = some b && isStep e.2 && (e.2.stage = .stalled || e.2.stage = .done || e.2.stage = .referee)).foldl
      (fun t e => replayOr t e.1) t
    afterFaults s t

/-- CONFIG_SCRUB (R322, R323): `bad` are the words that fail their parity, as in `wordErrors`. -/
def execConfigScrub (b : Nat) (bad : List Nat) (s : State) : Host.Outcome State Fault Refusal :=
  live s fun s => if 256 ≤ b then s else settle hooks (configScrub s b bad)

/-- BLOCK_ARB_GRANT (R311, R313): one region clock of a block's arbiter. -/
def execBlockArbGrant (b : Nat) (s : State) : Host.Outcome State Fault Refusal :=
  live s fun s => if 256 ≤ b then s else modBankArb s b (bankGrant s.clk (bankClocks s b))

/-- BLOCK_ARB_PROMOTE (R312). -/
def execBlockArbPromote (b request : Nat) (s : State) : Host.Outcome State Fault Refusal :=
  live s fun s =>
    match (blk s b).arb.pending.find? fun p => p.id = request with
    | none => s
    | some p =>
      match bankDue s b p with
      | none => s
      | some t =>
        modBankArb (untilTime s t) b fun a => { a with pending := a.pending.map fun q => if q.id = request then { q with promoted := true } else q }

/-! ## Shadows and referees -/

/-- A shadow's step has ended: equal halves let the primary commit; others need a referee (R370, R782). -/
def shadowCompare (s : State) (u : Nat) (same : Bool) : State :=
  match unitJob s u with
  | none => s
  | some (id, j) =>
    match j.shadow with
    | none => s
    | some _ =>
      if j.stage ≠ .done ∨ j.checked then s
      else if same then modJob s id fun j => { j with shadow := none, checked := true }
      else modJob s id fun j => { j with stage := .referee, waitSince := some s.clk }

/-- SHADOW_COMPARE (R370, R782). -/
def execShadowCompare (u : Nat) (same : Bool) (s : State) : Host.Outcome State Fault Refusal :=
  live s fun s => settle hooks (shadowCompare s u same)

/-- The verdict of a referee's run (R782, R783): 1 against the shadow block, 2 against the primary, 3 against both. The wait for a referee
counts in SHADOW_WAIT_NS. -/
def verdict (s : State) (u row : Nat) : State :=
  match unitJob s u with
  | none => s
  | some (id, j) =>
    match j.inst, j.inst.bind (instOf s), j.block, j.shadow with
    | some i, some x, some b, some h =>
      if j.stage ≠ .referee ∨ (refereeFor s x b h).isNone = true ∨ !wickDecides s ∨ row = 0 ∨ 3 < row then s
      else
        let step := (blk s b).steps
        let s := bump (bumpBy s (.prog i 4) 48 (s.clk - j.waitSince.getD s.clk)) (.ras 9)
        let s := if row = 2 then s else fingerprint s h row step
        let s := if row = 1 then s else fingerprint s b row step
        let pass := fun (s : State) => modJob s id fun j => { j with stage := .done, shadow := none, checked := true, waitSince := none }
        match row with
        | 1 => finishStep (pass (blockFault s h)) id []
        | 2 => blockFault (finishStep (pass s) id []) b
        | _ =>
          let s := blockFault (modJob s id fun j => { j with shadow := none, waitSince := none }) h
          if j.replayed then blockFault (abandon s id stPoisoned) b
          else blockFault (replay (modJob s id fun j => { j with replayed := true }) id) b
    | _, _, _, _ => s

/-- REFEREE_DONE (R782, R783, R773). -/
def execRefereeDone (u row : Nat) (s : State) : Host.Outcome State Fault Refusal :=
  live s fun s => settle hooks (afterFaults s (verdict s u row))

/-! ## Loading and unloading -/

/-- The instance that a command names, where its handle is current. -/
def progOf (s : State) (c : Cmd) : Option (Nat × Inst) :=
  let h := progHandle (arg c 0 8)
  match instOf s h.1 with
  | some x => if x.gen = h.2.2 ∧ x.part = h.2.1 ∧ arg c 0 8 < 2 ^ 38 then some (h.1, x) else none
  | none => none
def progPart (s : State) (c : Cmd) : Option Nat := (progOf s c).map (·.2.part)
def progMine (s : State) (c : Cmd) : Bool := c.fn = 0 || progPart s c = some (c.fn - 1)

/-- An image in host memory: as many bytes as its header says (R336). -/
def hostImage (c : Cmd) : List Byte :=
  let b := c.host.getD []
  b.take (leField b 8 4)

/-- An instance's handle (R350). -/
def progHandleOf (i : Nat) (x : Inst) : Nat := i + 2 ^ 12 * x.part + 2 ^ 22 * x.gen

/-- Checks 7 and 8 of R348, the binding, and the answer. -/
def loadImage (s : State) (c : Cmd) (part : Nat) (lib : Option Nat) (image : List Byte) : State :=
  match bindInst s part lib image with
  | .inr n => complete s (cmdRef c) (stBudget + 256 * n) 0 []
  | .inl none => complete s (cmdRef c) (stBudget + 256 * 8) 0 []
  | .inl (some (s, i)) =>
    match instOf s i with
    | some x => complete (zeroProg s i) (cmdRef c) stOk (progHandleOf i x) []
    | none => s
where
  /-- Counters of a new instance start from 0. -/
  zeroProg (s : State) (i : Nat) : State :=
    { s with ctrs := s.ctrs.filter fun e => match e.1 with
        | .prog k _ => k ≠ i
        | .stallNs k _ _ | .stallEvents k _ _ => k ≠ i
        | _ => true }

/-- PROG_LOAD_LIB (R348, R349): the number of a library program in ARGS. -/
def execProgLoadLib (c : Cmd) (s : State) : Host.Outcome State Fault Refusal :=
  live s fun s => runCmd s c { group := 0x0D, verb := 1, args := [(0, 4)], acts := .field } none true fun s =>
    let n := arg c 0 4
    let part := fieldPart c
    if n = 0 ∨ 9 < n then complete s (cmdRef c) stMalformed 0 []
    else match Config.libraryImage (bundlePart s.boot.bundle 2) n with
      | none => complete s (cmdRef c) stUnsupported 0 []
      | some b =>
        match imageCheck s part 1 b with
        | some (st, k) => complete s (cmdRef c) (st + 256 * k) 0 []
        | none => settle hooks (loadImage s c part (some n) b)

/-- PROG_LOAD (R348, R349): the image in ADDR0. -/
def execProgLoad (c : Cmd) (s : State) : Host.Outcome State Fault Refusal :=
  live s fun s => runCmd s c { group := 0x0D, verb := 2, host := true, acts := .field } none true fun s =>
    let part := fieldPart c
    match imageCheck s part 2 (hostImage c) with
    | some (st, k) => complete s (cmdRef c) (st + 256 * k) 0 []
    | none => settle hooks (loadImage s c part none (hostImage c))

/-- PROG_REPLACE (R364, R365): a RUN in progress ends under the image it began with. -/
def execProgReplace (c : Cmd) (s : State) : Host.Outcome State Fault Refusal :=
  live s fun s => runCmd s c { group := 0x0D, verb := 3, host := true, args := [(0, 8)], acts := .object } (progPart s c) (progMine s c) fun s =>
    let r := cmdRef c
    match progOf s c with
    | none => complete s r stDenied 0 []
    | some (i, x) =>
      let b := hostImage c
      match imageCheck s x.part (if x.lib.isSome then 1 else 2) b with
      | some (st, k) => complete s r (st + 256 * k) 0 []
      | none =>
        if x.lib.isNone && !(kget s.fab.progs x.part {}).expert then complete s r (stBudget + 256 * 7) 0 []
        else if imagePart b 1 ≠ imagePart x.image 1 then complete s r stMalformed 0 []
        else if x.unload.isSome then complete s r stDenied 0 []
        else if x.replace.isSome then complete s r stRetry 0 []
        else
          let s := modInst s i fun x => { x with replace := some (b, r) }
          settle hooks (if x.run.isSome then s else applyReplace s i)

/-- PROG_UNLOAD (R366, R367): queued RUNs are DENIED; the instance goes when the RUN in progress has completed. -/
def execProgUnload (c : Cmd) (s : State) : Host.Outcome State Fault Refusal :=
  live s fun s => runCmd s c { group := 0x0D, verb := 4, args := [(0, 8)], acts := .object } (progPart s c) (progMine s c) fun s =>
    match progOf s c with
    | none => complete s (cmdRef c) stDenied 0 []
    | some (i, x) =>
      let s := modInst s i fun x => { x with queue := [], unload := some (x.unload.getD [] ++ [cmdRef c]) }
      settle hooks (unloadGo (x.queue.foldl (fun s r => holdEnd (refuse s r.dest .run r.p stDenied) r.hold) s) i)

/-- A command that reads something of an instance. -/
def progRead (s : State) (c : Cmd) (f : Nat → Inst → State) : State :=
  match progOf s c with
  | none => complete s (cmdRef c) stDenied 0 []
  | some (i, x) => f i x

/-- PROG_INFO (R336): PROGRAM_ID and PROGRAM_VERSION. -/
def execProgInfo (c : Cmd) (s : State) : Host.Outcome State Fault Refusal :=
  live s fun s => runCmd s c { group := 0x0D, verb := 5, args := [(0, 8)], acts := .reads } none (progMine s c) fun s =>
    progRead s c fun _ x => complete s (cmdRef c) stOk (programId x.image + 2 ^ 64 * programVersion x.image) []

/-- PROG_CELL_READ (R294): the word of a template's logical cell, which every block of the template carries. -/
def execProgCellRead (c : Cmd) (s : State) : Host.Outcome State Fault Refusal :=
  live s fun s => runCmd s c { group := 0x0D, verb := 6, args := [(0, 8), (8, 4), (12, 4)], acts := .reads } none (progMine s c) fun s =>
    progRead s c fun _ x =>
      if templateCount x.image ≤ arg c 8 4 ∨ 32 ≤ arg c 12 4 then complete s (cmdRef c) stMalformed 0 []
      else complete s (cmdRef c) stOk 0 (leBytes 32 ((cellWords x.image (arg c 8 4)).getD (arg c 12 4) 0))

/-- Tiers and reasons of PROG.STALLS, in order (R156, R159). -/
def stallRows : List (Nat × Nat) := (natRange 0 4).flatMap fun t => [0, 1, 2, 3, 4, 8, 9, 10, 11].map fun r => (t, r)

/-- PROG_STALLS (R159): STALL_NS and STALL_EVENTS of each tier and reason, with the time of stalls that last. -/
def execProgStalls (c : Cmd) (s : State) : Host.Outcome State Fault Refusal :=
  live s fun s => runCmd s c { group := 0x0D, verb := 7, args := [(0, 8)], acts := .reads } none (progMine s c) fun s =>
    let s := restall s
    progRead s c fun i _ => complete s (cmdRef c) stOk 0 (stallRows.flatMap fun e =>
      leBytes 8 (ctr s (.stallNs i e.1 e.2)) ++ leBytes 8 (ctr s (.stallEvents i e.1 e.2)))

/-- PROG_COUNTERS (R372). -/
def execProgCounters (c : Cmd) (s : State) : Host.Outcome State Fault Refusal :=
  live s fun s => runCmd s c { group := 0x0D, verb := 8, args := [(0, 8)], acts := .reads } none (progMine s c) fun s =>
    progRead s c fun i _ => complete s (cmdRef c) stOk 0 ((natRange 0 6).flatMap fun k => leBytes 8 (ctr s (.prog i k)))

/-- PROG_SET_SIGNER (R347, R749): the partition's expert signing key, 1,952 bytes in ADDR0. -/
def execProgSetSigner (c : Cmd) (s : State) : Host.Outcome State Fault Refusal :=
  live s fun s => runCmd s c { pf0 := true, group := 0x0D, verb := 9, host := true, acts := .field } none true fun s =>
    let n := c.partition.toNat
    let key := sliceBytes (c.host.getD []) 0 1952
    let s := modFab s fun f => { f with progs := kset f.progs n { kget f.progs n {} with signer := some key } }
    complete (tdiFault s n) (cmdRef c) stOk 0 []

/-- PROG_SET_QUOTA (R351, R352): the partition's program record, as one parameter. -/
def execProgSetQuota (c : Cmd) (s : State) : Host.Outcome State Fault Refusal :=
  live s fun s => runCmd s c { pf0 := true, group := 0x0D, verb := 10, args := [(0, 8)], acts := .field } none true fun s =>
    let n := c.partition.toNat
    let w := arg c 0 8
    let blocks := bits w 0 9
    let insts := bits w 16 13
    let sn := bits w 32 17
    if 256 < blocks ∨ 4096 < insts ∨ sn = 0 ∨ 65536 < sn ∨ bits w 9 7 ≠ 0 ∨ bits w 30 2 ≠ 0 ∨ bits w 49 15 ≠ 0 then
      complete s (cmdRef c) stMalformed 0 []
    else
      let s := modFab s fun f => { f with progs := kset f.progs n { kget f.progs n {} with
        blocks := blocks, insts := insts, expert := w.testBit 29, shadowN := sn } }
      complete s (cmdRef c) stOk 0 []

end Sys2Proof.Machine
end

