-- ==== Sys2Proof/Machine/Requests.lean ====
section
/-! DEFINITION. Machine/Requests.lean: the meanings of Jarti requests and responses as they arrive at the switch, and of
the events of 02_jarti_transactions.md. -/
namespace Sys2Proof.Machine

/-- A request arrives on a logical port; violations may quarantine the port (R638). -/
def arriveReq (op : Op) (p : Req) (s : State) : State :=
  if s.ras.halt ≠ 0 then s
  else
    let op := rowOp op p
    let pkt : Packet := .req op p
    let far := facesSwitch s p.lport
    let on := far && p.dst.toNat ≠ selfNode s
    let s := arrive hooks (capture s p.lport 0 pkt) op p
    let s := if on then s else payCredits { s with ing := { s.ing with owed := s.ing.owed ++ [{ p := p, flits := pkt.flits }] } }
    checkQuar s p.lport

/-- LOAD (R71, R78, R79). -/
def execLoad (p : Req) (s : State) : Host.Outcome State Fault Refusal := live s (arriveReq (.load) p)
/-- STORE (R71, R80). -/
def execStore (p : Req) (s : State) : Host.Outcome State Fault Refusal := live s (arriveReq (.store) p)
/-- STORE_CLEAR_POISON (R80). -/
def execStoreClearPoison (p : Req) (s : State) : Host.Outcome State Fault Refusal := live s (arriveReq (.storeClearPoison) p)
/-- COPY (R75, R80). -/
def execCopy (p : Req) (s : State) : Host.Outcome State Fault Refusal := live s (arriveReq (.copy) p)
/-- ATOMIC_ADD (R77). -/
def execAtomicAdd (p : Req) (s : State) : Host.Outcome State Fault Refusal := live s (arriveReq (.atomic .add) p)
/-- ATOMIC_MIN (R77). -/
def execAtomicMin (p : Req) (s : State) : Host.Outcome State Fault Refusal := live s (arriveReq (.atomic .min) p)
/-- ATOMIC_MAX (R77). -/
def execAtomicMax (p : Req) (s : State) : Host.Outcome State Fault Refusal := live s (arriveReq (.atomic .max) p)
/-- ATOMIC_AND (R77). -/
def execAtomicAnd (p : Req) (s : State) : Host.Outcome State Fault Refusal := live s (arriveReq (.atomic .and) p)
/-- ATOMIC_OR (R77). -/
def execAtomicOr (p : Req) (s : State) : Host.Outcome State Fault Refusal := live s (arriveReq (.atomic .or) p)
/-- ATOMIC_XOR (R77). -/
def execAtomicXor (p : Req) (s : State) : Host.Outcome State Fault Refusal := live s (arriveReq (.atomic .xor) p)
/-- ATOMIC_SWAP (R77). -/
def execAtomicSwap (p : Req) (s : State) : Host.Outcome State Fault Refusal := live s (arriveReq (.atomic .swap) p)
/-- ATOMIC_CAS (R77). -/
def execAtomicCas (p : Req) (s : State) : Host.Outcome State Fault Refusal := live s (arriveReq (.atomic .cas) p)
/-- FENCE (R97). -/
def execFence (p : Req) (s : State) : Host.Outcome State Fault Refusal := live s (arriveReq (.fence) p)
/-- OPEN_VERSION (R268). -/
def execOpenVersion (p : Req) (s : State) : Host.Outcome State Fault Refusal := live s (arriveReq (.openVersion) p)
/-- CLOSE_VERSION (R269). -/
def execCloseVersion (p : Req) (s : State) : Host.Outcome State Fault Refusal := live s (arriveReq (.closeVersion) p)
/-- PUBLISH (R276). -/
def execPublish (p : Req) (s : State) : Host.Outcome State Fault Refusal := live s (arriveReq (.publish) p)
/-- RD_SHARED (R221). -/
def execRdShared (p : Req) (s : State) : Host.Outcome State Fault Refusal := live s (arriveReq (.rdShared) p)
/-- RD_OWN (R221). -/
def execRdOwn (p : Req) (s : State) : Host.Outcome State Fault Refusal := live s (arriveReq (.rdOwn) p)
/-- UPGRADE (R229). -/
def execUpgrade (p : Req) (s : State) : Host.Outcome State Fault Refusal := live s (arriveReq (.upgrade) p)
/-- WB_DIRTY (R227). -/
def execWbDirty (p : Req) (s : State) : Host.Outcome State Fault Refusal := live s (arriveReq (.wbDirty) p)
/-- EVICT_CLEAN (R221). -/
def execEvictClean (p : Req) (s : State) : Host.Outcome State Fault Refusal := live s (arriveReq (.evictClean) p)
/-- SNP_INV (R205). -/
def execSnpInv (p : Req) (s : State) : Host.Outcome State Fault Refusal := live s (arriveReq (.snpInv) p)
/-- SNP_SHARE (R205). -/
def execSnpShare (p : Req) (s : State) : Host.Outcome State Fault Refusal := live s (arriveReq (.snpShare) p)
/-- COLL_CONTRIB (R397). -/
def execCollContrib (p : Req) (s : State) : Host.Outcome State Fault Refusal := live s (arriveReq (.collContrib) p)
/-- COLL_PARTIAL (R404). -/
def execCollPartial (p : Req) (s : State) : Host.Outcome State Fault Refusal := live s (arriveReq (.collPartial) p)
/-- COLL_DELIVER (R405). -/
def execCollDeliver (p : Req) (s : State) : Host.Outcome State Fault Refusal := live s (arriveReq (.collDeliver) p)
/-- GATHER (R460). -/
def execGather (p : Req) (s : State) : Host.Outcome State Fault Refusal := live s (arriveReq (.gather) p)
/-- SCATTER (R467). -/
def execScatter (p : Req) (s : State) : Host.Outcome State Fault Refusal := live s (arriveReq (.scatter) p)
/-- SEARCH (R502). -/
def execSearch (p : Req) (s : State) : Host.Outcome State Fault Refusal := live s (arriveReq (.search) p)
/-- ATTEND (R536). -/
def execAttend (p : Req) (s : State) : Host.Outcome State Fault Refusal := live s (arriveReq (.attend) p)
/-- FILTER (R376). -/
def execFilter (p : Req) (s : State) : Host.Outcome State Fault Refusal := live s (arriveReq (.filter) p)
/-- RUN (R356). -/
def execRun (p : Req) (s : State) : Host.Outcome State Fault Refusal := live s (arriveReq (.run) p)
/-- OWNER_CAS (R555). -/
def execOwnerCas (p : Req) (s : State) : Host.Outcome State Fault Refusal := live s (arriveReq (.ownerCas) p)

/-! ## Responses -/

/-- A part of an outstanding request that a response may answer: sent to the responding node and not done. -/
def partFor (o : OutReq) (node : Nat) : Option Nat :=
  o.parts.findIdx? fun p => p.home = node && p.sent && !p.done

/-- The outstanding request and part that a response answers (R55, R89, R90). A response whose TAG is outstanding but whose REQ_OPCODE or
RSP_NODE is not the request's answers none: R89 does not say what becomes of it (DESIGN CHOICE, log entry 151). -/
def answers (s : State) (r : Resp) : Option (Nat × Nat) :=
  s.ing.outs.findSome? fun e =>
    if e.2.p.src = r.dst && e.2.p.tag = r.tag && opCode e.2.op = r.reqOpcode.toNat then
      (partFor e.2 r.rspNode.toNat).map fun i => (e.1, i)
    else none

/-- A response for no outstanding request is discarded and counted (R89, R102). -/
def strayResp (s : State) (r : Resp) : State := violatePkt (bump s (.rspStray r.lport)) r.lport 4 (.resp r)

/-- The bytes of a tray's segments in order of offset. -/
def joinSegs (n : Nat) (segs : List (Nat × List Byte)) : List Byte :=
  (segs.foldl (fun (m : List (Nat × Byte)) e => writeBytes m e.1 e.2) []) |> fun m => readBytes m 0 n

/-- The bytes that one of several copies brought for 4 KiB of a frame: those that the frame holds; under read verification, others that
pass the record's CHECKSUM, which are compared with the other copies' (R152, R790); or a failure. Answers the failed units too. -/
def unitRead (t : TrayReq) (verify : Bool) (data : List Byte) (r : State × List Nat) (u : Nat) : State × List Nat :=
  let s := r.1
  let d := sliceBytes data (u - t.pool) 4096
  let k := metaKey t.frame t.copyIx (u % frameBytes / 4096)
  if d = getPool s u 4096 then r
  else if verify && crc32c d = (kget s.mem.copyMeta k {}).checksum then
    (decideUnit { s with mem := { s.mem with copyAlt := kset s.mem.copyAlt k d } } t.frame (u % frameBytes / 4096), r.2)
  else (s, r.2 ++ [u])

/-- Plain bytes that a copy's lines or block brought: a single copy's are what the frame holds, and bytes of one of several
copies must pass the record's CHECKSUM, which the frame's own bytes pass (R150, R152). -/
def trayBytes (s : State) (t : TrayReq) (data : List Byte) : State :=
  match tierOf s t.frame with
  | none => accessDone s t.op
  | some e =>
    if t.excess then accessDone s t.op
    else if e.copies = 1 then accessDone { s with mem := { s.mem with bytes := writeBytes s.mem.bytes t.pool data } } t.op
    else
      let (s, failed) := (unitsOf t.pool t.len).foldl (unitRead t e.verify data) (s, [])
      if failed.isEmpty then accessDone s t.op
      else readFailed s t.op t.frame t.copyIx t.pool t.len (failed.flatMap fun u => linesOf u 4096)

/-- A request to a tray is answered whole (R117, R127, R151, R597). -/
def trayDone (s : State) (tag : Nat) (t : TrayReq) : State :=
  let s := { s with mem := { s.mem with trayReqs := kdel s.mem.trayReqs tag } }
  if t.read then
    if t.bad then readFailed s t.op t.frame t.copyIx t.pool t.len (linesOf t.pool t.len)
    else match t.what with
      | .index => accessDone s t.op
      | .lines => trayBytes s t (openLines (frameKey s t.frame) t.pool (joinSegs t.n t.segs))
      | .block =>
        match tallowDecode (openBlock (frameKey s t.frame) t.pool (joinSegs t.n t.segs)) with
        | some (b, _) =>
          if b.length = 4096 then trayBytes s { t with pool := t.pool / 4096 * 4096 } b
          else readFailed s t.op t.frame t.copyIx t.pool t.len (linesOf t.pool t.len)
        | none => readFailed s t.op t.frame t.copyIx t.pool t.len (linesOf t.pool t.len)
  else if !t.bad then (if t.what = .block then blockWritten s t else accessDone s t.op)
  else if t.copyIx = 3 then accessDone (abandonMove s t.frame stPoisoned) t.op
  else
    match tierOf s t.frame with
    | some e =>
      if 1 < e.copies then
        accessDone (modTier (bump s .staleCopy) t.frame fun e =>
          { e with stale := if e.stale.contains t.copyIx then e.stale else e.stale ++ [t.copyIx] }) t.op
      else accessDone (modOp s t.op fun o => { o with failed := true }) t.op
    | none => accessDone s t.op

/-- A response to a part that an engine sent in its requester's name (R457, R539), or a late one (R517). -/
def engineAnswers (s : State) (r : Resp) : Option State :=
  match s.ing.outs.find? fun e => e.2.p.src = r.dst && e.2.p.tag = r.tag && opCode e.2.op = r.reqOpcode.toNat && isCompute e.2.op with
  | some (id, _) => match partAnswer s id r with
    | some t => some t
    | none => lateSearch s r
  | none => lateSearch s r

/-- The request to a tray that a response answers (R64, R117): of the same source, tag and node, and sent. -/
def trayFor (s : State) (r : Resp) : Option (Nat × TrayReq) :=
  s.mem.trayReqs.find? fun e => e.2.wait.isNone && e.2.src = r.dst.toNat && e.2.tag = r.tag.toNat && e.2.node = r.rspNode.toNat &&
    r.reqOpcode.toNat = opCode (if e.2.read then .load else .store)

/-- A tray's response arrives. -/
def trayResp (s : State) (r : Resp) (tag : Nat) (t : TrayReq) : State :=
    let bad := r.status ≠ 0
    let t := { t with segs := if r.isData then (r.segOffset.toNat, r.data) :: t.segs else t.segs,
                      got := t.got + r.segCover.toNat, bad := t.bad || bad }
    if t.read && decide (t.got < t.n) && !bad then { s with mem := { s.mem with trayReqs := kset s.mem.trayReqs tag t } }
    else trayDone s tag t

/-- A response to a request that this switch sent itself: for a combining group, or for an engine. -/
def ownResp (s : State) (r : Resp) : State :=
    let tag := r.tag.toNat
    match s.coh.groups.find? fun e => e.2.sent && e.2.tag = tag && e.2.home = r.rspNode.toNat with
    | some (g, _) => groupReply s (schedPort r.lport) g r.status.toNat r.result.toNat r.data r.load.toNat
    | none => hooks.respond s r

/-- LOAD as the fabric carries it on: in free mode 0 (R58); a response that enters the fabric here takes the larger of its
own level and that of the port on which it arrived (R57, R674). -/
def markLoad (s : State) (r : Resp) : Resp :=
  if s.mem.freeMode then { r with load := 0 }
  else if facesSwitch s r.lport then r
  else { r with load := BitVec.ofNat 4 (max r.load.toNat (loadLevel s r.lport)) }

/-- A packet that the switch consumes gives its link credit back (R660). -/
def consumed (s : State) (r : Resp) : State :=
  returnCredit s r.lport (channelOf r.tc.toNat r.esc) (Packet.resp r).flits

/-- A response to one of this switch's own link-scoped messages (R803, R804). -/
def linkResp (s : State) (r : Resp) : Bool :=
  decide (0x80 ≤ r.reqOpcode.toNat ∧ r.reqOpcode.toNat ≤ 0x8F) &&
  (r.dst.toNat = noNode || r.dst.toNat = selfNode s)

/-- A response arrives: dropped when it breaks R55 to R83 (R102), delivered to its requester's ingress, or sent on. -/
def arriveResp (r : Resp) (s : State) : State :=
  if s.ras.halt ≠ 0 then s else
  let s := capture s r.lport 0 (.resp r)
  if discardUnknown s r.lport && !linkResp s r then bump s (.notKnown r.lport)
  else if !respOk r then checkQuar (violatePkt (bump (consumed s r) (.rspDrop r.lport)) r.lport 3 (.resp r)) r.lport
  else
    let r := markLoad s r
    match trayFor s r with
    | some (k, t) => checkQuar (settle hooks (trayResp (consumed s r) r k t)) r.lport
    | none =>
    if r.dst.toNat = selfNode s || linkResp s r then checkQuar (settle hooks (ownResp (consumed s r) r)) r.lport
    else match lportOfNode s r.dst.toNat with
      | none => transit s r.lport r.esc (.resp r)
      | some _ =>
        let s := consumed s r
        match answers s r with
        | some (id, part) =>
          settle hooks (hereReply s (schedPort r.lport) id part r.status.toNat r.segOffset.toNat r.segCover.toNat r.result.toNat r.data r.load.toNat)
        | none => match engineAnswers s r with
          | some t => settle hooks t
          | none => checkQuar (strayResp s r) r.lport

/-- CPL (R55, R98). -/
def execCpl (r : Resp) (s : State) : Host.Outcome State Fault Refusal := live s (arriveResp { r with isData := false, data := [] })
/-- CPL_DATA (R55, R78). -/
def execCplData (r : Resp) (s : State) : Host.Outcome State Fault Refusal := live s (arriveResp { r with isData := true })

/-! ## Requests that are never answered (R87, R88, R100) -/

/-- UNANSWERED (R88): the outstanding request of a node and tag will not be answered, for a cause of R984. -/
def execUnanswered (node tag cause : Nat) (s : State) : Host.Outcome State Fault Refusal :=
  live s fun s =>
    match findOut s node tag with
    | some (id, _) => markUnanswered s id cause
    | none => s

/-- The largest age limit of AGE_CFG in ns (R100, R678). -/
def largestAge (s : State) : Nat :=
  (natRange 0 8).foldl (fun m k => max m (regField s rAge (16 * k) 16)) 0 * 10000

/-- SEQUENCE_GAP (R100): a number of a pair has been missing for longer than the largest age limit. -/
def execSequenceGap (src dst : Nat) (s : State) : Host.Outcome State Fault Refusal :=
  live s fun s =>
    match s.ing.pairs.find? fun e => e.src = src && e.dst = dst with
    | none => s
    | some e =>
      let m := gapStart e
      match firstAbove e m with
      | none => s
      | some t =>
        let s := untilTime s (t + largestAge s + 1)
        let s := { s with ing := { s.ing with pairs := s.ing.pairs.map fun x =>
          if x.src = src && x.dst = dst then { x with logged := some (gapEnd e m) } else x } }
        let s := note s "SEQUENCE_GAP" [src, dst, m]
        let s := match lportOfNode s src with
          | some port => checkQuar (violate s port 5 [] 0) port
          | none => s
        let stuck := s.ing.outs.filter fun o => o.2.op = .fence && o.2.p.src.toNat = src && o.2.p.dst.toNat = dst &&
          seqLess m o.2.p.seq.toNat
        stuck.foldl (fun s o => markUnanswered s o.1 6) s

end Sys2Proof.Machine
end

