-- ==== Sys2Proof/Machine/Search.lean ====
section
/-! DEFINITION. Machine/Search.lean: the meanings of the SEARCH commands and of a part sent again (11_vector_search.md, 20_hyser_interface.md
R855). -/
namespace Sys2Proof.Machine

/-- SEARCH_CREATE (R485, R492): the descriptor at a virtual address under the AST. -/
def execSearchCreate (c : Cmd) (s : State) : Host.Outcome State Fault Refusal :=
  live s fun s => runCmd s c { group := 0x10, verb := 1, ast := true, acts := .object } (astPart s c.ast.toNat) (astMine s c c.ast.toNat) fun s =>
    tableCmd s c (tablePart s c) 0x10 1

/-- The index of a command's handle here, whether it is of the function's partition. -/
def searchOf (s : State) (c : Cmd) : Option (Nat × SearchIx) := handleIndex s (arg c 0 8)
def searchPart (s : State) (c : Cmd) : Option Nat := (searchOf s c).map (·.2.part)
def searchMine (s : State) (c : Cmd) : Bool := c.fn = 0 || searchPart s c = some (c.fn - 1)

/-- A command on an index, at its coordinator. -/
def searchCmd (s : State) (c : Cmd) (sp : CmdSpec) (f : State → Nat → SearchIx → State) : State :=
  runCmd s c { sp with group := 0x10, acts := .object } (searchPart s c) (searchMine s c) fun s =>
    match searchOf s c with
    | some (xk, x) => if x.coord = selfNode s then settle hooks (f s xk x) else complete s (cmdRef c) stDenied 0 []
    | none => complete s (cmdRef c) stDenied 0 []

/-- A relayed command of an index. -/
def searchRelay (c : Cmd) (x : SearchIx) (verb : Nat) (args : List Nat) : Relay :=
  { group := 0x10, verb := verb, part := x.part, dest := .cmd (cmdRef c), obj := handleOfIndex x, args := args }

/-- SEARCH_DESTROY (R494). -/
def execSearchDestroy (c : Cmd) (s : State) : Host.Outcome State Fault Refusal :=
  live s fun s => searchCmd s c { group := 0x10, verb := 2, args := [(0, 8)] } fun s _ x =>
    let hosts := ixHosts x.desc x.shards
    tellEmb s (searchRelay c x 2 hosts) 7 2 (handleOfIndex x) 0 [] [] (entryNodes s hosts) searchTake

/-- The SEARCH that a SEARCH.QUERY stands for (R855). -/
def queryReq (s : State) (c : Cmd) (part : Nat) : Req :=
  let n := arg c 8 4
  { lport := 1000, tc := 0, vc := 0, partition := BitVec.ofNat 10 part, ast := c.ast, src := BitVec.ofNat 15 (selfNode s), dst := 0, tag := 0,
    length := BitVec.ofNat 24 n, address := BitVec.ofNat 64 (arg c 0 8), seq := 0, flags := 0, payload := sliceBytes (c.host.getD []) 0 n }

/-- SEARCH_QUERY (R518, R855): the handle and the payload's length in ARGS, the filter's AST in AST, the payload at ADDR0. -/
def execSearchQuery (c : Cmd) (s : State) : Host.Outcome State Fault Refusal :=
  live s fun s =>
    let sp : CmdSpec := { group := 0x10, verb := 3, host := true, ast := true, args := [(0, 8), (8, 4)], acts := .object }
    runCmd s c sp (searchPart s c) (searchMine s c && (c.ast = 0 || astMine s c c.ast.toNat)) fun s =>
      match searchOf s c with
      | none => complete s (cmdRef c) stDenied 0 []
      | some (_, x) =>
        let p := queryReq s c x.part
        if !((partOf s x.part).ops.testBit 7) then complete s (cmdRef c) stDenied 0 []
        else if 65536 < arg c 8 4 ∨ (p.length ≠ 0 ∧ c.outLen.toNat < 8 * sK p.payload) then complete s (cmdRef c) stMalformed 0 []
        else settle hooks (startSearch s (.cmd (cmdRef c)) p)

/-- SEARCH_DELETE (R520, R521): option 0 is UNDELETE; handle and count in ARGS, the 32-bit ids at ADDR0. -/
def execSearchDelete (c : Cmd) (s : State) : Host.Outcome State Fault Refusal :=
  live s fun s => searchCmd s c { group := 0x10, verb := 4, opts := 1, host := true, args := [(0, 8), (8, 4)] } fun s _ x =>
    let ids := (natRange 0 (arg c 8 4)).map fun k => leField (c.host.getD []) (4 * k) 4
    let good := ids.filter fun i => decide (i < ixItems x.desc)
    let skipped := ids.length - good.length
    let hostOfItem := fun (i : Nat) => ((natRange 0 (ixShards x.desc)).find? fun k =>
      decide (siBase x.shards k ≤ i ∧ i < siEnd x.desc x.shards k)).map (siHost x.shards)
    let hosts := (good.filterMap hostOfItem).eraseDups
    if hosts.isEmpty then complete s (cmdRef c) stOk skipped []
    else
      let (s, id) := newRelay s (searchRelay c x 4 [skipped])
      hosts.foldl (fun s h =>
        let mine := (good.filter fun i => hostOfItem i = some h).flatMap (leBytes 4)
        let a := embArgs (handleOfIndex x) 0 (leBytes 4 (if opt c 0 then 1 else 0))
        let s := relaySend s id 8 0x10 4 x.part 0 a mine [h]
        if h = selfNode s then searchTake s (.relay id h) ((xchgPayload 8 0x10 4 x.part 0 a).drop 8 ++ mine) else s) s

/-- SEARCH_REPAIR (R522, R523): handle and mask of shards in ARGS; RESULT counts the CLUSTER shards skipped. -/
def execSearchRepair (c : Cmd) (s : State) : Host.Outcome State Fault Refusal :=
  live s fun s => searchCmd s c { group := 0x10, verb := 5, args := [(0, 8), (8, 8)] } fun s xk x =>
    let mask := arg c 8 8
    let hosts := (((natRange 0 (ixShards x.desc)).filter mask.testBit).map (siHost x.shards)).eraseDups
    if 2 ^ ixShards x.desc ≤ mask then complete s (cmdRef c) stMalformed 0 []
    else if x.repairing then complete s (cmdRef c) stRetry 0 []
    else if hosts.isEmpty then complete s (cmdRef c) stOk 0 []
    else
      tellEmb (modIndex s xk fun x => { x with repairing := true }) (searchRelay c x 5 []) 8 5 (handleOfIndex x) 0 (leBytes 8 mask) [] hosts searchTake

/-- SEARCH_INFO (R524): the ENTRY of each shard. -/
def execSearchInfo (c : Cmd) (s : State) : Host.Outcome State Fault Refusal :=
  live s fun s => runCmd s c { group := 0x10, verb := 6, args := [(0, 8)], acts := .reads } none (searchMine s c) fun s =>
    match searchOf s c with
    | none => complete s (cmdRef c) stDenied 0 []
    | some (_, x) => complete s (cmdRef c) stOk 0 ((natRange 0 (ixShards x.desc)).flatMap fun k => leBytes 4 (entryItem x k))

/-- SEARCH_STATS (R526). -/
def execSearchStats (c : Cmd) (s : State) : Host.Outcome State Fault Refusal :=
  live s fun s => runCmd s c { group := 0x10, verb := 7, args := [(0, 8)], acts := .reads } none (searchMine s c) fun s =>
    match searchOf s c with
    | none => complete s (cmdRef c) stDenied 0 []
    | some (xk, _) => complete s (cmdRef c) stOk 0 ((natRange 0 15).flatMap fun k => leBytes 8 (ctr s (.search xk k)))

/-- Parts that were sent away with RETRY_LATER, with the time at which each goes again. -/
def retryParts (s : State) : List (Time × Nat × Nat) :=
  s.fab.jobs.flatMap fun e => (e.2.parts.zipIdx).filterMap fun x => x.1.retryAt.map fun t => (t, e.1, x.2)

/-- SEARCH_PART_RETRY (R507): the part that has waited longest goes again. -/
def execSearchPartRetry (s : State) : Host.Outcome State Fault Refusal :=
  live s fun s =>
    match (retryParts s).foldl (fun (m : Option (Time × Nat × Nat)) e => match m with
        | some x => if e.1 < x.1 then some e else some x
        | none => some e) none with
    | none => s
    | some (t, id, ix) =>
      let s := modJob (untilTime s t) id fun j => { j with parts := j.parts.mapIdx fun i x => if i = ix then { x with retryAt := none } else x }
      let kind : Option JobKind := (jobOf s id).map (·.kind)
      settle hooks (match kind with
        | some (.search xk) => searchGo s id xk
        | _ => s)

end Sys2Proof.Machine
end

