-- ==== Sys2Proof/Machine/Security.lean ====
section
/-! DEFINITION. Machine/Security.lean: the meanings of the commands and events of partitions, Hurricane, the Snuffer, SPDM, TDISP and
IDE (17_security.md; the port commands of 02_jarti_transactions.md R62 and 13_tallow_protection.md R590, R592). -/
namespace Sys2Proof.Machine

/-! ## Partitions (R724 to R730) -/

/-- PART_CREATE (R727, R761): the partition is ACTIVE under a new memory key pair. -/
def execPartCreate (c : Cmd) (s : State) : Host.Outcome State Fault Refusal :=
  live s fun s => runCmd s c { pf0 := true, group := 0x02, verb := 1, args := [(0, 4), (4, 4)], acts := .own } none true fun s =>
    let n := c.partition.toNat
    let r := cmdRef c
    if 4096 ≤ arg c 0 4 ∨ 512 < arg c 4 4 then complete s r stMalformed 0 []
    else if (partOf s n).st ≠ .free then complete s r stDenied 0 []
    else match keyStatus s with
      | some st => complete s r st 0 []
      | none =>
        let s := modPart (bumpFree s) n fun p =>
          { st := .active, ops := arg c 0 4 ||| 1, pinT1 := arg c 4 4, keyGen := (p.keyGen + 1) % 2 ^ 32 }
        complete { s with mem := { s.mem with classOn := kdel s.mem.classOn n } } r stOk 0 []

/-- PART_INFO (R728): the partition record, of the VF's partition or of the one that PARTITION names. -/
def execPartInfo (c : Cmd) (s : State) : Host.Outcome State Fault Refusal :=
  live s fun s => runCmd s c { group := 0x02, verb := 2, acts := .own } none true fun s =>
    let n := if c.fn = 0 then c.partition.toNat else c.fn - 1
    complete s (cmdRef c) stOk 0 (leBytes 16 (partWord s n))

/-- PART_SET (R728, R749): the enabled opcodes and the T1 pin quota. -/
def execPartSet (c : Cmd) (s : State) : Host.Outcome State Fault Refusal :=
  live s fun s => runCmd s c { pf0 := true, group := 0x02, verb := 3, args := [(0, 4), (4, 4)], acts := .field } none true fun s =>
    let n := c.partition.toNat
    if 4096 ≤ arg c 0 4 ∨ 512 < arg c 4 4 then complete s (cmdRef c) stMalformed 0 []
    else
      let s := tdiFault (modPart s n fun p => { p with ops := arg c 0 4 ||| 1, pinT1 := arg c 4 4 }) n
      complete s (cmdRef c) stOk 0 []

/-- PART_ADD_PORT (R729, R749): at most 8 partitions a port, and none where it faces a switch. -/
def execPartAddPort (c : Cmd) (s : State) : Host.Outcome State Fault Refusal :=
  live s fun s => runCmd s c { pf0 := true, group := 0x02, verb := 4, args := [(0, 4)], acts := .field } none true fun s =>
    let n := c.partition.toNat
    let l := arg c 0 4
    let r := cmdRef c
    if 511 < l then complete s r stMalformed 0 []
    else if facesSwitch s l then complete s r stDenied 0 []
    else if (lportOf s l).parts.contains n then complete s r stOk 0 []
    else if 8 ≤ (lportOf s l).parts.length then complete s r stBudget 0 []
    else complete (tdiFault (modLport s l fun x => { x with parts := insertRising n x.parts }) n) r stOk 0 []

/-- PART_REMOVE_PORT (R729, R730, R749). -/
def execPartRemovePort (c : Cmd) (s : State) : Host.Outcome State Fault Refusal :=
  live s fun s => runCmd s c { pf0 := true, group := 0x02, verb := 5, args := [(0, 4)], acts := .field } none true fun s =>
    let n := c.partition.toNat
    let l := arg c 0 4
    let r := cmdRef c
    if 511 < l then complete s r stMalformed 0 []
    else if !(lportOf s l).parts.contains n then complete s r stDenied 0 []
    else complete (tdiFault (modLport s l fun x => { x with parts := x.parts.filter (· ≠ n) }) n) r stOk 0 []

/-- Step 2 of R759 for shared regions: every open ends, and the storage of drafts and retained versions is left to the scrub. -/
def tearRegion (n : Nat) (s : State) (e : Nat × SharedRegion) : State :=
  let sids := e.2.opens.flatMap (fun o => o.2.reserve ++ o.2.written.map (·.2)) ++ e.2.retained.map (·.sid) ++
    (s.snap.dying.filter fun d => d.2 = e.1).map (·.1)
  let s := sids.foldl (fun s i =>
    match kfind s.snap.storage i with
    | some loc =>
      if locTier loc = .t3 then
        -- the index of a version that a commit left in T3, and its blocks
        let bs := s.mem.t3At.filter fun e => decide (e.1 / 512 = i + 2 ^ 26)
        leaveToScrub s n [] ((loc * 64, 64) :: bs.map (·.2)) (piecesOf ⟨2 ^ 26 + i, loc * 4096, 4096, loc * 64 % 2 ^ 42 + 2 ^ 62, 1⟩ ++
          bs.flatMap fun e => piecesOf ⟨2 ^ 26 + i, e.2.1 * 64, 64 * e.2.2, e.2.1 % 2 ^ 42 + 2 ^ 62, 1⟩)
      else leaveToScrub s n [loc] [] (piecesOf ⟨2 ^ 26 + i, loc * 4096, frameBytes, loc * 64 % 2 ^ 42 + 2 ^ 62, 1⟩)
    | none => s) s
  let s := e.2.opens.foldl (fun s o => endOpen s e.1 o.1) s
  let s := e.2.retained.foldl (fun s t => dropSid e.1 s t.sid) s
  { s with snap := { s.snap with regions := kdel s.snap.regions e.1 } }

/-- Step 2 of R759 for domains: each is destroyed as DOMAIN.DESTROY does. -/
def tearDomain (s : State) (d : Nat) : State :=
  let s := modDom s d fun x => { x with destroying := some (x.destroying.getD []) }
  let s := { s with coh := { s.coh with ranges := s.coh.ranges.filter fun e => e.2 ≠ d } }
  leaveLines s fun _ l => l.domain = d && !l.leaving

/-- Moves of a partition's frames are abandoned (R132, R759). A POOL.MOVE among them completes with TORN_DOWN: R976 names no status for it
(DESIGN CHOICE, log entry 165). -/
def tearMoves (s : State) (n : Nat) : State :=
  let mine := s.mem.moves.filter fun m => ((tierOf s m.1).map fun t => decide (t.partition = n)).getD false
  mine.foldl (fun s m => abandonMove s m.1 stTornDown) s

/-- Steps 1 to 4 of R759 begin. -/
def tearStart (s : State) (n : Nat) (r : CmdRef) : State :=
  let s := modPart (tdiFault s n) n fun p => { p with st := .tearing }
  let s := modSec s fun x => { x with tearing := kset x.tearing n { by_ := [r] } }
  let s := dropCompute (tearMoves s n) n
  let s := (s.snap.regions.filter fun e => e.2.partition = n).foldl (tearRegion n) s
  let s := (s.coh.domains.filter fun e => e.2.partition = n).foldl (fun s e => tearDomain s e.1) s
  unmapPart (releasePart s n) n

/-- PART_TEARDOWN (R759). -/
def execPartTeardown (c : Cmd) (s : State) : Host.Outcome State Fault Refusal :=
  live s fun s => runCmd s c { pf0 := true, group := 0x02, verb := 6, acts := .own } none true fun s =>
    let n := c.partition.toNat
    let r := cmdRef c
    match (partOf s n).st with
    | .free => complete s r stOk 0 []
    | .active => settle hooks (tearStart s n r)
    | _ => modSec s fun x => { x with tearing := kmod x.tearing n fun t => { t with by_ := t.by_ ++ [r] } }

/-- SCRUB_WRITE_DONE (R762, R765): a write of a scrub ends well or not. -/
def execScrubWriteDone (part addr : Nat) (ok : Bool) (s : State) : Host.Outcome State Fault Refusal :=
  live s fun s => settle hooks (scrubDone s part addr ok)

/-! ## Attestation -/

/-- SEC_ATTEST (R746). -/
def execSecAttest (c : Cmd) (s : State) : Host.Outcome State Fault Refusal :=
  live s fun s => runCmd s c { group := 0x03, verb := 1, args := [(0, 32)] } none true fun s =>
    if idLost s then complete s (cmdRef c) stDenied 0 []
    else
      let b := attestBody s c.fn (leBytes 32 c.args.toNat)
      complete s (cmdRef c) stOk 0 (b ++ aliasSign s b)

/-- SEC_PROG_LOG (R745): every event in order, since replaying them reproduces index 5. -/
def execSecProgLog (c : Cmd) (s : State) : Host.Outcome State Fault Refusal :=
  live s fun s => runCmd s c { group := 0x03, verb := 2 } none true fun s =>
    complete s (cmdRef c) stOk 0 (s.sec.progLog.flatMap fun e => sliceBytes e 0 64)

/-! ## Link keys -/

/-- SEC_LINK_KEX_START (R755 step 1). -/
def execSecLinkKexStart (c : Cmd) (s : State) : Host.Outcome State Fault Refusal :=
  live s fun s => runCmd s c { pf0 := true, group := 0x03, verb := 3, args := [(0, 4)] } none true fun s =>
    let n := arg c 0 4
    if 511 < n then complete s (cmdRef c) stMalformed 0 []
    else match kexCheck s n with
      | some st => complete s (cmdRef c) st 0 []
      | none =>
        let (t, r) := kexStart s n
        complete t (cmdRef c) stOk 0 (kexPayload t r)

/-- SEC_LINK_KEX_RESPOND (R755 step 2, R756). -/
def execSecLinkKexRespond (c : Cmd) (s : State) : Host.Outcome State Fault Refusal :=
  live s fun s => runCmd s c { pf0 := true, host := true, group := 0x03, verb := 4, args := [(0, 4)] } none true fun s =>
    let n := arg c 0 4
    if 511 < n then complete s (cmdRef c) stMalformed 0 []
    else match kexCheck s n, kexRead (c.host.getD []) with
      | some st, _ => complete s (cmdRef c) st 0 []
      | none, none => complete s (cmdRef c) stDenied 0 []
      | none, some (a, serial) =>
        let (t, b) := kexRespond s n a serial
        complete t (cmdRef c) stOk 0 (kexPayload t b)

/-- SEC_LINK_KEX_FINISH (R755 step 3, R756): a start that has expired finishes nothing. -/
def execSecLinkKexFinish (c : Cmd) (s : State) : Host.Outcome State Fault Refusal :=
  live s fun s => runCmd s c { pf0 := true, host := true, group := 0x03, verb := 5, args := [(0, 4)] } none true fun s =>
    let n := arg c 0 4
    if 511 < n then complete s (cmdRef c) stMalformed 0 []
    else if idLost s || !(lportOf s n).marked then complete s (cmdRef c) stDenied 0 []
    else match kfind s.sec.kex n, kexRead (c.host.getD []) with
      | some k, some (b, serial) => complete (kexFinish s n k b serial) (cmdRef c) stOk 0 []
      | _, _ => complete s (cmdRef c) stDenied 0 []

/-- LINK_KEY_ROTATE (R592, R757): the side with the lower node number starts an exchange in-band, before its counter or 24 hours
run out. -/
def execLinkKeyRotate (n : Nat) (s : State) : Host.Outcome State Fault Refusal :=
  live s fun s =>
    let l := lportOf s n
    if 511 < n || l.disc ≠ .known || !linkUp l.link || !facesSwitch s n || !kexMine s n ||
        (l.sec.txKeys.getD l.sec.txSlot none).isNone || (kfind s.sec.kex n).isSome || (kexCheck s n).isSome then s
    else
      let (t, r) := kexStart s n
      sendLink t 0x8B n (kexPayload t r)

/-- LINK_KEX_EXPIRE (R755): a start that is not finished within 10 s expires. -/
def execLinkKexExpire (n : Nat) (s : State) : Host.Outcome State Fault Refusal :=
  live s fun s =>
    match kfind s.sec.kex n with
    | none => s
    | some k => modSec (untilTime s (k.since + 10000000000)) fun x => { x with kex := kdel x.kex n }

/-! ## Ports -/

/-- PORT_SET_PRIV (R62): flat and node privilege of a logical port or host bridge. -/
def execPortSetPriv (c : Cmd) (s : State) : Host.Outcome State Fault Refusal :=
  live s fun s => runCmd s c { pf0 := true, group := 0x04, verb := 1, args := [(0, 4), (4, 4), (8, 4)] } none true fun s =>
    let n := arg c 0 4
    if 515 < n ∨ 1 < arg c 4 4 ∨ 1 < arg c 8 4 then complete s (cmdRef c) stMalformed 0 []
    else
      complete (modLport s n fun l => { l with flat := decide (arg c 4 4 = 1), nodePriv := decide (arg c 8 4 = 1) }) (cmdRef c) stOk 0 []

/-- PORT_SET_CRYPT (R590, R734): the mark of a logical port; its keys are destroyed when the mark is cleared. -/
def execPortSetCrypt (c : Cmd) (s : State) : Host.Outcome State Fault Refusal :=
  live s fun s => runCmd s c { pf0 := true, group := 0x04, verb := 2, args := [(0, 4), (4, 4)] } none true fun s =>
    let n := arg c 0 4
    if 511 < n ∨ 1 < arg c 4 4 then complete s (cmdRef c) stMalformed 0 []
    else if arg c 4 4 = 1 then complete (modLport s n fun l => { l with marked := true }) (cmdRef c) stOk 0 []
    else
      let s := modSec s fun x => { x with kex := kdel x.kex n }
      complete (pump (modLport s n fun l => { l with marked := false, sec := {} }) n) (cmdRef c) stOk 0 []

/-! ## The random bit generator (R733) -/

/-- RNG_HEALTH_FAIL (R733): issuing stops and the start-up test repeats; a second failure within 1 s latches the generator failed. -/
def execRngHealthFail (s : State) : Host.Outcome State Fault Refusal :=
  live s fun s =>
    if s.ras.rngFailed then s
    else
      let again := (s.sec.rngAt.map fun t => decide (s.clk ≤ t + 1000000000)).getD false
      let s := modSec s fun x => { x with rngAt := some s.clk }
      if again then
        report (note { s with ras := { s.ras with rngOk := false, rngFailed := true } } "RNG_FAILED" []) 0x0E (selfNode s) noLport 2
      else { s with ras := { s.ras with rngOk := false, rngTests := s.ras.rngTests + 1 } }

/-- RNG_RETEST_DONE (R733): the start-up test ends after 1 ms; where it fails too, the generator is latched failed. -/
def execRngRetestDone (ok : Bool) (s : State) : Host.Outcome State Fault Refusal :=
  live s fun s =>
    if s.ras.rngOk || s.ras.rngFailed then s
    else
      let s := untilTime s (s.sec.rngAt.getD s.clk + msNs)
      if ok then { s with ras := { s.ras with rngOk := true } }
      else report (note { s with ras := { s.ras with rngFailed := true } } "RNG_FAILED" []) 0x0E (selfNode s) noLport 2

/-! ## SPDM (R739 to R743) -/

/-- GET_VERSION: version 1.3, and the connection begins anew. -/
def execGetVersion (s : State) : Host.Outcome State Fault Refusal :=
  spdm 0 (fun s => spdmSay (modSec s fun x => { x with spdm := 1, sessions := [], ide := [] }) none .version) s

/-- GET_CAPABILITIES (R740). -/
def execGetCapabilities (s : State) : Host.Outcome State Fault Refusal :=
  spdm 1 (fun s => spdmSay (modSec s fun x => { x with spdm := max 2 x.spdm }) none .capabilities) s

/-- NEGOTIATE_ALGORITHMS (R741, R742): the extended entries offered for signatures and key exchange, as registry and algorithm,
and whether SHA-384, AES-256-GCM and raw bit streams are offered. -/
def execNegotiateAlgorithms (sigs kems : List (Nat × Nat)) (sha384 gcm raw : Bool) (s : State) : Host.Outcome State Fault Refusal :=
  spdm 2 (fun s =>
    if sigs.contains (3, 0x9001) && kems.contains (3, 0x9002) && sha384 && gcm && raw then
      spdmSay (modSec s fun x => { x with spdm := 3 }) none .algorithms
    else spdmSay s none (.error .negotiationFail)) s

/-- GET_DIGESTS: SHA-384 of the chain in slot 0. -/
def execGetDigests (s : State) : Host.Outcome State Fault Refusal :=
  spdm 3 (fun s => spdmSay s none (.digest (Config.sha384 (ownChain s)))) s

/-- GET_CERTIFICATE (R743): part of the chain in slot 0. -/
def execGetCertificate (slot off len : Nat) (s : State) : Host.Outcome State Fault Refusal :=
  spdm 3 (fun s =>
    let chain := ownChain s
    if slot ≠ 0 ∨ chain.length ≤ off then spdmSay s none (.error .invalidRequest)
    else
      let part := (chain.drop off).take len
      spdmSay s none (.certificate part (chain.length - off - part.length))) s

/-- CHALLENGE: a nonce and a signature under the alias key. -/
def execChallenge (slot : Nat) (nonce : List Byte) (s : State) : Host.Outcome State Fault Refusal :=
  spdm 3 (fun s =>
    if slot ≠ 0 then spdmSay s none (.error .invalidRequest)
    else if (keyStatus s).isSome then spdmSay s none (.error .unspecified)
    else
      let d := Config.sha384 (ownChain s)
      let own := randomBytes s 32
      spdmSay (bumpFree s) none (.challenge d own (aliasSign s (nonce ++ own ++ d)))) s

/-- GET_MEASUREMENTS (R744): operation 0 asks for the number of blocks, 1 to 6 for one, 255 for all. -/
def execGetMeasurements (op : Nat) (sign : Bool) (nonce : List Byte) (s : State) : Host.Outcome State Fault Refusal :=
  spdm 3 (fun s =>
    let all := measurements s
    let blocks := if op = 255 then all else all.filter fun m => m.1 = op
    if op ≠ 0 ∧ blocks.isEmpty then spdmSay s none (.error .invalidRequest)
    else
      let msg := nonce ++ blocks.flatMap fun m => leBytes 1 m.1 ++ m.2
      spdmSay s none (.measurements 6 blocks (if sign then some (aliasSign s msg) else none))) s

/-- KEY_EXCHANGE (R741): the switch encapsulates to the requester's key, and a session begins. -/
def execKeyExchange (ek : List Byte) (s : State) : Host.Outcome State Fault Refusal :=
  spdm 3 (fun s =>
    if (keyStatus s).isSome then spdmSay s none (.error .unspecified)
    else
      let ct := (Config.kemEncaps ek s.freeCtr).1
      let id := s.sec.keys
      let s := modSec (bumpFree s) fun x => { x with keys := x.keys + 1, sessions := x.sessions ++ [{ id := id }] }
      spdmSay s (some id) (.keyExchange ct (aliasSign s (ek ++ ct)))) s

/-- FINISH: the session is established where the requester's check data verify; otherwise it ends. -/
def execFinish (session : Nat) (ok : Bool) (s : State) : Host.Outcome State Fault Refusal :=
  spdm 3 (fun s =>
    if !(s.sec.sessions.any fun x => x.id = session && !x.established) then spdmSay s (some session) (.error .unexpectedRequest)
    else if ok then
      spdmSay (modSec s fun x => { x with
        sessions := x.sessions.map fun (e : SpdmSession) => if e.id = session then { e with established := true } else e })
        (some session) .finish
    else spdmSay (sessionEnds s session) (some session) (.error .invalidRequest)) s

/-- END_SESSION (R734): the session's keys are destroyed. -/
def execEndSession (session : Nat) (s : State) : Host.Outcome State Fault Refusal :=
  inSession session (fun s => sessionEnds (spdmSay s (some session) .endSession) session) s

/-- HEARTBEAT. -/
def execHeartbeat (session : Nat) (s : State) : Host.Outcome State Fault Refusal :=
  inSession session (fun s => spdmSay s (some session) .heartbeat) s

/-- KEY_UPDATE: the session's keys are replaced. -/
def execKeyUpdate (session : Nat) (s : State) : Host.Outcome State Fault Refusal :=
  inSession session (fun s =>
    spdmSay (modSec s fun x => { x with
      sessions := x.sessions.map fun (e : SpdmSession) => if e.id = session then { e with updates := e.updates + 1 } else e })
      (some session) .keyUpdate) s

/-- VENDOR_DEFINED_REQUEST (R739): PCIe IDE_KM, CXL IDE_KM or TDISP, inside a session only. The message inside has a row of its own. -/
def execVendorDefinedRequest (session : Option Nat) (known : Bool) (s : State) : Host.Outcome State Fault Refusal :=
  spdm 3 (fun s =>
    if !((session.map (sessionOpen s)).getD false) then spdmSay s session (.error .unexpectedRequest)
    else if known then spdmSay s session .vendorDefined
    else spdmSay s session (.error .unsupportedRequest)) s

/-- SPDM_UNSUPPORTED (R739). -/
def execSpdmUnsupported (_code : Nat) (s : State) : Host.Outcome State Fault Refusal :=
  spdm 0 (fun s => spdmSay s none (.error .unsupportedRequest)) s

/-! ## TDISP (R747 to R751) -/

/-- GET_TDISP_VERSION. -/
def execGetTdispVersion (session vf : Nat) (s : State) : Host.Outcome State Fault Refusal :=
  tdisp session vf (fun s _ => spdmSay s (some session) .tdispVersion) s

/-- GET_TDISP_CAPABILITIES. -/
def execGetTdispCapabilities (session vf : Nat) (s : State) : Host.Outcome State Fault Refusal :=
  tdisp session vf (fun s _ => spdmSay s (some session) .tdispCapabilities) s

/-- LOCK_INTERFACE_REQUEST (R751): CONFIG_UNLOCKED becomes CONFIG_LOCKED, bound to a selective stream whose keys are programmed. -/
def execLockInterfaceRequest (session vf stream : Nat) (s : State) : Host.Outcome State Fault Refusal :=
  tdisp session vf (fun s n =>
    if (partOf s n).tdi ≠ .unlocked then spdmSay s (some session) (.tdispError .invalidInterfaceState)
    else if !(ideStreamsOf s 0).contains stream || (keyStatus s).isSome then spdmSay s (some session) (.tdispError .invalidRequest)
    else
      let nonce := randomBytes s 32
      let s := modSec (bumpFree (setTdi s n .locked)) fun x =>
        { x with bound := kset x.bound vf stream, lockNonce := kset x.lockNonce vf nonce }
      spdmSay s (some session) (.lockNonce nonce)) s

/-- GET_DEVICE_INTERFACE_REPORT (R748): of a TDI that is CONFIG_LOCKED or RUN. -/
def execGetDeviceInterfaceReport (session vf : Nat) (s : State) : Host.Outcome State Fault Refusal :=
  tdisp session vf (fun s n =>
    if (partOf s n).tdi = .locked || (partOf s n).tdi = .run then spdmSay s (some session) (.report (tdiReport s vf))
    else spdmSay s (some session) (.tdispError .invalidInterfaceState)) s

/-- GET_DEVICE_INTERFACE_STATE. -/
def execGetDeviceInterfaceState (session vf : Nat) (s : State) : Host.Outcome State Fault Refusal :=
  tdisp session vf (fun s n => spdmSay s (some session) (.tdiState (partOf s n).tdi.code)) s

/-- START_INTERFACE_REQUEST: a locked TDI runs, given the nonce of its lock. -/
def execStartInterfaceRequest (session vf : Nat) (nonce : List Byte) (s : State) : Host.Outcome State Fault Refusal :=
  tdisp session vf (fun s n =>
    if (partOf s n).tdi ≠ .locked then spdmSay s (some session) (.tdispError .invalidInterfaceState)
    else if kfind s.sec.lockNonce vf ≠ some nonce then spdmSay s (some session) (.tdispError .invalidNonce)
    else spdmSay (modSec (setTdi s n .run) fun x => { x with lockNonce := kdel x.lockNonce vf }) (some session) .started) s

/-- STOP_INTERFACE_REQUEST (R750): the TDI is CONFIG_UNLOCKED again. -/
def execStopInterfaceRequest (session vf : Nat) (s : State) : Host.Outcome State Fault Refusal :=
  tdisp session vf (fun s n =>
    let s := modSec (setTdi s n .unlocked) fun x => { x with bound := kdel x.bound vf, lockNonce := kdel x.lockNonce vf }
    spdmSay s (some session) .stopped) s

/-! ## IDE key management (R751, R752) -/

/-- KEY_PROG: a key of a stream's key set, 0 or 1; a set in use takes none, nor a port beyond its streams. -/
def execKeyProg (session port stream set sub : Nat) (s : State) : Host.Outcome State Fault Refusal :=
  inSession session (fun s =>
    let known := (ideStreamsOf s port).contains stream
    let used := s.sec.ide.any fun k => inSet port stream set k && k.active
    if 4 < port ∨ 1 < set ∨ used ∨ (!known ∧ streamRoom port ≤ (ideStreamsOf s port).length) then spdmSay s (some session) (.ideAck false)
    else
      let k : IdeKey := { session := session, port := port, stream := stream, set := set, sub := sub }
      let s := modSec s fun x => { x with ide := (x.ide.filter fun e => !(inSet port stream set e && e.sub = sub)) ++ [k] }
      spdmSay s (some session) (.ideAck true)) s

/-- K_SET_GO: a programmed key set is in use. -/
def execKSetGo (session port stream set sub : Nat) (s : State) : Host.Outcome State Fault Refusal :=
  inSession session (fun s =>
    if !(s.sec.ide.any fun k => inSet port stream set k && k.sub = sub) then spdmSay s (some session) (.ideAck false)
    else
      let ide := s.sec.ide.map fun (k : IdeKey) => if inSet port stream set k && k.sub = sub then { k with active := true } else k
      spdmSay (modSec s fun x => { x with ide := ide }) (some session) (.ideAck true)) s

/-- K_SET_STOP: a key set is in use no more. -/
def execKSetStop (session port stream set sub : Nat) (s : State) : Host.Outcome State Fault Refusal :=
  inSession session (fun s =>
    if !(s.sec.ide.any fun k => inSet port stream set k && k.sub = sub && k.active) then spdmSay s (some session) (.ideAck false)
    else
      let ide := s.sec.ide.map fun (k : IdeKey) => if inSet port stream set k && k.sub = sub then { k with active := false } else k
      spdmSay (modSec s fun x => { x with ide := ide }) (some session) (.ideAck true)) s

end Sys2Proof.Machine
end

