-- ==== Sys2Proof/Machine/Serve.lean ====
section
/-! DEFINITION. Machine/Serve.lean: the meanings of the ATTN and SERVE commands, of leases and of drains (12_serving_composition.md). -/
namespace Sys2Proof.Machine

/-! ## Attention contexts -/

/-- ATTN_OPEN (R530, R533): the descriptor at a virtual address under the AST. -/
def execAttnOpen (c : Cmd) (s : State) : Host.Outcome State Fault Refusal :=
  live s fun s => runCmd s c { group := 0x11, verb := 1, ast := true, acts := .object } (astPart s c.ast.toNat) (astMine s c c.ast.toNat) fun s =>
    tableCmd s c (tablePart s c) 0x11 1

def attnCmdPart (s : State) (c : Cmd) : Option Nat := (handleAttn s (arg c 0 8)).map (·.2.part)
def attnMine (s : State) (c : Cmd) : Bool := c.fn = 0 || attnCmdPart s c = some (c.fn - 1)

/-- ATTN_CLOSE (R535): it completes when every admitted ATTEND has. -/
def execAttnClose (c : Cmd) (s : State) : Host.Outcome State Fault Refusal :=
  live s fun s => runCmd s c { group := 0x11, verb := 2, args := [(0, 8)], acts := .object } (attnCmdPart s c) (attnMine s c) fun s =>
    match handleAttn s (arg c 0 8) with
    | none => complete s (cmdRef c) stDenied 0 []
    | some (i, _) => settle hooks (closeAttn (modAttn s i fun x => { x with closing := some (x.closing.getD [] ++ [cmdRef c]) }) i)

/-- ATTN_STATS (R573). -/
def execAttnStats (c : Cmd) (s : State) : Host.Outcome State Fault Refusal :=
  live s fun s => runCmd s c { group := 0x11, verb := 3, args := [(0, 8)], acts := .reads } none (attnMine s c) fun s =>
    match handleAttn s (arg c 0 8) with
    | none => complete s (cmdRef c) stDenied 0 []
    | some (i, _) => complete s (cmdRef c) stOk 0 ((natRange 0 5).flatMap fun k => leBytes 8 (ctr s (.attn i k)))

/-! ## Services -/

/-- SERVE_CREATE (R547, R548): REQ_SLOTS and LEASE_US in ARGS, the map at a virtual address under the AST; the service's partition is
the VF's or PARTITION's. -/
def execServeCreate (c : Cmd) (s : State) : Host.Outcome State Fault Refusal :=
  live s fun s =>
    let sp : CmdSpec := { group := 0x12, verb := 1, ast := true, args := [(0, 4), (4, 4)], acts := .field }
    runCmd s c sp none (astMine s c c.ast.toNat) fun s =>
      if arg c 0 4 = 0 then complete s (cmdRef c) stOk 0 []
      else if 1048576 < arg c 0 4 ∨ arg c 4 4 < 10 ∨ 10000000 < arg c 4 4 then complete s (cmdRef c) (stMalformed + 256) 0 []
      else if (astOf s c.ast.toNat).isSome ∧ tablePart s c ≠ fieldPart c then complete s (cmdRef c) (stDenied + 256 * 2) 0 []
      else tableCmd s c (fieldPart c) 0x12 1

def servePart (s : State) (c : Cmd) : Option Nat := (handleService s (arg c 0 8)).map (·.2.part)
def serveMine (s : State) (c : Cmd) : Bool := c.fn = 0 || servePart s c = some (c.fn - 1)

/-- SERVE_SET_MAP (R563): the handle and DRAIN_MS in ARGS, the map at a virtual address under the AST. -/
def execServeSetMap (c : Cmd) (s : State) : Host.Outcome State Fault Refusal :=
  live s fun s =>
    let sp : CmdSpec := { group := 0x12, verb := 2, ast := true, args := [(0, 8), (8, 4)], acts := .object }
    runCmd s c sp (servePart s c) (serveMine s c && astMine s c c.ast.toNat) fun s =>
      match handleService s (arg c 0 8) with
      | none => complete s (cmdRef c) stDenied 0 []
      | some (_, v) =>
        if 60000 < arg c 8 4 then complete s (cmdRef c) (stMalformed + 256) 0 []
        else if (astOf s c.ast.toNat).isSome ∧ tablePart s c ≠ v.part then complete s (cmdRef c) (stDenied + 256 * 2) 0 []
        else tableCmd s c v.part 0x12 2

/-- The 32 bytes of an ownership entry (R553). -/
def ownBytes (e : OwnEntry) : List Byte :=
  leBytes 4 ((if e.owned then 1 else 0) + 2 * e.stage + (if e.offload then 8 else 0) + (if e.parked then 16 else 0) + 2 ^ 8 * e.owner) ++
    leBytes 4 e.token ++ leBytes 4 e.epoch ++ leBytes 8 e.leaseEnd ++ leBytes 8 e.stateVa ++ leBytes 4 0

/-- SERVE_OWNER_INFO (R553): the handle and the request's id in ARGS. -/
def execServeOwnerInfo (c : Cmd) (s : State) : Host.Outcome State Fault Refusal :=
  live s fun s => runCmd s c { group := 0x12, verb := 3, args := [(0, 8), (8, 4)], acts := .reads } none (serveMine s c) fun s =>
    match handleService s (arg c 0 8) with
    | none => complete s (cmdRef c) stDenied 0 []
    | some (_, v) =>
      if v.slots ≤ arg c 8 4 then complete s (cmdRef c) stMalformed 0 []
      else complete s (cmdRef c) stOk 0 (ownBytes (entryOf v (arg c 8 4)))

/-- SERVE_DESTROY (R569). -/
def execServeDestroy (c : Cmd) (s : State) : Host.Outcome State Fault Refusal :=
  live s fun s => runCmd s c { group := 0x12, verb := 4, args := [(0, 8)], acts := .object } (servePart s c) (serveMine s c) fun s =>
    match handleService s (arg c 0 8) with
    | none => complete s (cmdRef c) stDenied 0 []
    | some (i, _) => settle hooks (complete (dropService s i) (cmdRef c) stOk 0 [])

/-- SERVE_STATS (R573). -/
def execServeStats (c : Cmd) (s : State) : Host.Outcome State Fault Refusal :=
  live s fun s => runCmd s c { group := 0x12, verb := 5, args := [(0, 8)], acts := .reads } none (serveMine s c) fun s =>
    match handleService s (arg c 0 8) with
    | none => complete s (cmdRef c) stDenied 0 []
    | some (i, _) => complete s (cmdRef c) stOk 0 ((natRange 0 11).flatMap fun k => leBytes 8 (ctr s (.serve i k)))

/-- SERVE_LEASE_END (R560): the lease of a request's owner ends. -/
def execServeLeaseEnd (svc id : Nat) (s : State) : Host.Outcome State Fault Refusal :=
  live s fun s =>
    match serviceOf s svc with
    | none => s
    | some v =>
      let e := entryOf v id
      if !e.owned || e.parked then s
      else settle hooks (afterOwn (takeOver (untilFabric s e.leaseEnd) svc id) svc)

/-- SERVE_DRAIN_END (R567): the entries that keep the old epoch are taken from their owners. -/
def execServeDrainEnd (svc : Nat) (s : State) : Host.Outcome State Fault Refusal :=
  live s fun s =>
    match serviceOf s svc with
    | none => s
    | some v =>
      match v.old with
      | none => s
      | some (_, end_, _) =>
        let ids := (v.entries.filter fun e => e.2.owned && e.2.epoch ≠ v.epoch).map (·.1)
        settle hooks (afterOwn (ids.foldl (fun s id => takeOver s svc id) (untilFabric s end_)) svc)

end Sys2Proof.Machine
end

