-- ==== Sys2Proof/Machine/Snapshots.lean ====
section
/-! DEFINITION. Machine/Snapshots.lean: the meanings of the commands and events of 06_snapshots.md; the version opcodes
stand in Machine/SnapCore.lean. -/
namespace Sys2Proof.Machine

/-- VERSION_LEASE_END (R270). -/
def execVersionLeaseEnd (region node : Nat) (s : State) : Host.Outcome State Fault Refusal :=
  live s fun s => settle hooks (leaseEnds s region node)

/-- COW_COPY_DONE (R272). -/
def execCowCopyDone (region node frame : Nat) (s : State) : Host.Outcome State Fault Refusal :=
  live s fun s => settle hooks (cowDone s region node frame)

/-- Runs of consecutive frames. -/
def frameRuns (fs : List Nat) : List (Nat × Nat) :=
  fs.foldl (fun rs f =>
    match rs.getLast? with
    | some (a, n) => if a + n = f then rs.dropLast ++ [(a, n + 1)] else rs ++ [(f, 1)]
    | none => [(f, 1)]) []

/-- SNAP_CREATE (R255 to R260): virtual base in ADDR0, frame count and LEASE_MS in ARGS. -/
def execSnapCreate (c : Cmd) (s : State) : Host.Outcome State Fault Refusal :=
  live s fun s =>
    let t := c.ast.toNat
    runCmd s c { group := 0x0C, verb := 1, ast := true, acts := .object, args := [(0, 4), (4, 4)] } (astPart s t) (astMine s c t)
      fun s =>
        let va := c.addr0.toNat
        let n := arg c 0 4
        let lease := arg c 4 4
        let r := cmdRef c
        let pools := (natRange 0 n).map fun i => vaToPool s t (va + i * frameBytes)
        let frames := pools.filterMap fun a => a.map frameOf
        if (astOf s t).isNone then complete s r stDenied 0 []
        else if va % frameBytes ≠ 0 || decide (16384 < n) || lease = 0 || decide (60000 < lease) then complete s r stMalformed 0 []
        else if n = 0 then complete s r stOk 0 []
        else if frames.length ≠ n || (frames.any fun f => !homedHere s (f * frameBytes) || (tierOf s f).isNone) ||
            (frames.any fun f => f / 16384 ≠ frames.headD 0 / 16384) then complete s r stNoMapping 0 []
        else if frames.any fun f => (kfind s.coh.ranges (f * frameBytes / GiB)).isSome || (regionOf s f).isSome ||
            ((tierOf s f).map fun e => decide (1 < e.copies)).getD false then complete s r stDenied 0 []
        else
          let used := s.snap.regions.map (·.1) ++ s.snap.destroying.map (·.1)
          match firstFree used 1024 (freeNat s) (used.length + 1) with
          | none => complete s r stBudget 0 []
          | some k =>
            let g : SharedRegion := { partition := (astPart s t).getD 0, frames := frames, leaseMs := lease }
            let s := bumpFree { s with snap := { s.snap with regions := kset s.snap.regions k g } }
            let s := (frameRuns frames).foldl (fun s x =>
              xchgAll (xchgPayload 6 0x0C 0x01 g.partition (x.1 * frameBytes) (leBytes 4 x.2 ++ leBytes 4 lease)) (otherSwitches s) s) s
            complete s r stOk k []

/-- The region that a command names, and whether it is of the function's partition. -/
def snapPart (s : State) (c : Cmd) : Option Nat := (kfind s.snap.regions (arg c 0 4)).map (·.partition)
def snapMine (s : State) (c : Cmd) : Bool := c.fn = 0 || snapPart s c = some (c.fn - 1)

/-- SNAP_DESTROY (R282). -/
def execSnapDestroy (c : Cmd) (s : State) : Host.Outcome State Fault Refusal :=
  live s fun s => runCmd s c { group := 0x0C, verb := 2, acts := .object, args := [(0, 4)] } (snapPart s c) (snapMine s c) fun s =>
    let n := arg c 0 4
    match kfind s.snap.regions n with
    | none => complete s (cmdRef c) (if 1023 < n then stMalformed else stDenied) 0 []
    | some r =>
      let s := r.opens.foldl (fun s o => endOpen s n o.1) s
      let s := { s with snap := { s.snap with regions := kdel s.snap.regions n,
                                              destroying := s.snap.destroying ++ [(n, cmdRef c)] } }
      settle hooks s

/-- The 32-byte record of SNAP.INFO (R283). -/
def snapBytes (s : State) (n : Nat) : List Byte :=
  match kfind s.snap.regions n with
  | none => leBytes 32 0
  | some r =>
    let held := r.retained.length + (s.snap.dying.filter fun e => e.2 = n && !s.snap.dyingDrafts.contains e.1).length
    leBytes 8 (1 + 2 * r.frames.length + 2 ^ 16 * r.leaseMs) ++ leBytes 8 r.current ++
    leBytes 8 (r.opens.length + 2 ^ 17 * draftsOf r + 2 ^ 22 * held) ++ leBytes 8 r.expiries

/-- SNAP_INFO (R283). -/
def execSnapInfo (c : Cmd) (s : State) : Host.Outcome State Fault Refusal :=
  live s fun s => runCmd s c { group := 0x0C, verb := 3, args := [(0, 4)], acts := .reads } none (snapMine s c) fun s =>
    if 1023 < arg c 0 4 then complete s (cmdRef c) stMalformed 0 []
    else complete s (cmdRef c) stOk 0 (snapBytes s (arg c 0 4))

end Sys2Proof.Machine
end

