-- ==== Sys2Proof/Machine/Dispatch.lean ====
section
/-! DEFINITION. Machine/Dispatch.lean: which meaning each command has, one arm per command. -/
namespace Sys2Proof.Machine

/-- The effect of a command on everything but the queue. -/
def exec (i : Instr) (s : State) : Host.Outcome State Fault Refusal :=
  match i with
  | .load p => Sys2Proof.Machine.execLoad p s
  | .store p => Sys2Proof.Machine.execStore p s
  | .storeClearPoison p => Sys2Proof.Machine.execStoreClearPoison p s
  | .copy p => Sys2Proof.Machine.execCopy p s
  | .atomicAdd p => Sys2Proof.Machine.execAtomicAdd p s
  | .atomicMin p => Sys2Proof.Machine.execAtomicMin p s
  | .atomicMax p => Sys2Proof.Machine.execAtomicMax p s
  | .atomicAnd p => Sys2Proof.Machine.execAtomicAnd p s
  | .atomicOr p => Sys2Proof.Machine.execAtomicOr p s
  | .atomicXor p => Sys2Proof.Machine.execAtomicXor p s
  | .atomicSwap p => Sys2Proof.Machine.execAtomicSwap p s
  | .atomicCas p => Sys2Proof.Machine.execAtomicCas p s
  | .fence p => Sys2Proof.Machine.execFence p s
  | .openVersion p => Sys2Proof.Machine.execOpenVersion p s
  | .closeVersion p => Sys2Proof.Machine.execCloseVersion p s
  | .publish p => Sys2Proof.Machine.execPublish p s
  | .rdShared p => Sys2Proof.Machine.execRdShared p s
  | .rdOwn p => Sys2Proof.Machine.execRdOwn p s
  | .upgrade p => Sys2Proof.Machine.execUpgrade p s
  | .wbDirty p => Sys2Proof.Machine.execWbDirty p s
  | .evictClean p => Sys2Proof.Machine.execEvictClean p s
  | .snoopAnswer r => Sys2Proof.Machine.execSnoopAnswer r s
  | .collContrib p => Sys2Proof.Machine.execCollContrib p s
  | .collPartial p => Sys2Proof.Machine.execCollPartial p s
  | .collDeliver p => Sys2Proof.Machine.execCollDeliver p s
  | .gather p => Sys2Proof.Machine.execGather p s
  | .scatter p => Sys2Proof.Machine.execScatter p s
  | .search p => Sys2Proof.Machine.execSearch p s
  | .attend p => Sys2Proof.Machine.execAttend p s
  | .filter p => Sys2Proof.Machine.execFilter p s
  | .run p => Sys2Proof.Machine.execRun p s
  | .ownerCas p => Sys2Proof.Machine.execOwnerCas p s
  | .cpl r => Sys2Proof.Machine.execCpl r s
  | .cplData r => Sys2Proof.Machine.execCplData r s
  | .unanswered node tag cause => Sys2Proof.Machine.execUnanswered node tag cause s
  | .sequenceGap src dst => Sys2Proof.Machine.execSequenceGap src dst s
  | .regionArbGrant r => Sys2Proof.Machine.execRegionArbGrant r s
  | .regionArbPromote r => Sys2Proof.Machine.execRegionArbPromote r s
  | .hbmAccessDone r id bad => Sys2Proof.Machine.execHbmAccessDone r id bad s
  | .moveSubblockDone frame ok => Sys2Proof.Machine.execMoveSubblockDone frame ok s
  | .heatDecayPeriod => Sys2Proof.Machine.execHeatDecayPeriod s
  | .tierMapVisit frame => Sys2Proof.Machine.execTierMapVisit frame s
  | .tieringScan => Sys2Proof.Machine.execTieringScan s
  | .t3WriteResume op => Sys2Proof.Machine.execT3WriteResume op s
  | .trayLateTimeout tag => Sys2Proof.Machine.execTrayLateTimeout tag s
  | .freeModeTakeEffect => Sys2Proof.Machine.execFreeModeTakeEffect s
  | .pageWalkDone ast page => Sys2Proof.Machine.execPageWalkDone ast page s
  | .genSweepDone ast => Sys2Proof.Machine.execGenSweepDone ast s
  | .ptRelocate ast loc => Sys2Proof.Machine.execPtRelocate ast loc s
  | .tenureEnd line => Sys2Proof.Machine.execTenureEnd line s
  | .homeTimeout line => Sys2Proof.Machine.execHomeTimeout line s
  | .directorySweep domain agent bad => Sys2Proof.Machine.execDirectorySweep domain agent bad s
  | .combineWindowEnd group => Sys2Proof.Machine.execCombineWindowEnd group s
  | .hotLineSend line => Sys2Proof.Machine.execHotLineSend line s
  | .hotLineExpire line => Sys2Proof.Machine.execHotLineExpire line s
  | .versionLeaseEnd region node => Sys2Proof.Machine.execVersionLeaseEnd region node s
  | .cowCopyDone region node frame => Sys2Proof.Machine.execCowCopyDone region node frame s
  | .stepStart unit => Sys2Proof.Machine.execStepStart unit s
  | .stepResume unit => Sys2Proof.Machine.execStepResume unit s
  | .stepCommit unit bad => Sys2Proof.Machine.execStepCommit unit bad s
  | .configScrub block bad => Sys2Proof.Machine.execConfigScrub block bad s
  | .blockArbGrant block => Sys2Proof.Machine.execBlockArbGrant block s
  | .blockArbPromote block request => Sys2Proof.Machine.execBlockArbPromote block request s
  | .neighbourCompare => Sys2Proof.Machine.execNeighbourCompare s
  | .neighbourTrim r => Sys2Proof.Machine.execNeighbourTrim r s
  | .shadowCompare unit same => Sys2Proof.Machine.execShadowCompare unit same s
  | .refereeDone unit row => Sys2Proof.Machine.execRefereeDone unit row s
  | .collStall coord id ix => Sys2Proof.Machine.execCollStall coord id ix s
  | .embRowApply coord id row => Sys2Proof.Machine.execEmbRowApply coord id row s
  | .searchPartRetry => Sys2Proof.Machine.execSearchPartRetry s
  | .serveLeaseEnd svc id => Sys2Proof.Machine.execServeLeaseEnd svc id s
  | .serveDrainEnd svc => Sys2Proof.Machine.execServeDrainEnd svc s
  | .codewordReceived n rs corrected cw => Sys2Proof.Machine.execCodewordReceived n rs corrected cw s
  | .idle n => Sys2Proof.Machine.execIdle n s
  | .status n ack valid credits => Sys2Proof.Machine.execStatus n ack valid credits s
  | .nak n seq => Sys2Proof.Machine.execNak n seq s
  | .replay n seq => Sys2Proof.Machine.execReplay n seq s
  | .escape n => Sys2Proof.Machine.execEscape n s
  | .lpReq n => Sys2Proof.Machine.execLpReq n s
  | .lpAck n => Sys2Proof.Machine.execLpAck n s
  | .lpNak n => Sys2Proof.Machine.execLpNak n s
  | .trainId n version role lanes marked degradeOk => Sys2Proof.Machine.execTrainId n version role lanes marked degradeOk s
  | .trainCredit n adv => Sys2Proof.Machine.execTrainCredit n adv s
  | .trainDone n => Sys2Proof.Machine.execTrainDone n s
  | .secureFrame n slot ctr data tag => Sys2Proof.Machine.execSecureFrame n slot ctr data tag s
  | .linkKeyRotate n => Sys2Proof.Machine.execLinkKeyRotate n s
  | .ackTimeout n => Sys2Proof.Machine.execAckTimeout n s
  | .nakRepeat n => Sys2Proof.Machine.execNakRepeat n s
  | .statusTimer n => Sys2Proof.Machine.execStatusTimer n s
  | .partnerLock n => Sys2Proof.Machine.execPartnerLock n s
  | .equalizeDone n => Sys2Proof.Machine.execEqualizeDone n s
  | .equalizeTimeout n lanes => Sys2Proof.Machine.execEqualizeTimeout n lanes s
  | .identifyTimeout n => Sys2Proof.Machine.execIdentifyTimeout n s
  | .configTimeout n => Sys2Proof.Machine.execConfigTimeout n s
  | .retrainTimeout n => Sys2Proof.Machine.execRetrainTimeout n s
  | .retrainDone n lanes => Sys2Proof.Machine.execRetrainDone n lanes s
  | .downTimeout n => Sys2Proof.Machine.execDownTimeout n s
  | .laneFail n lane => Sys2Proof.Machine.execLaneFail n lane s
  | .partnerLoss n => Sys2Proof.Machine.execPartnerLoss n s
  | .beaconTimer n => Sys2Proof.Machine.execBeaconTimer n s
  | .beaconLoss n => Sys2Proof.Machine.execBeaconLoss n s
  | .lowPowerExit n => Sys2Proof.Machine.execLowPowerExit n s
  | .tunnelFrame n seq ack flits fcs => Sys2Proof.Machine.execTunnelFrame n seq ack flits fcs s
  | .pfcFrame n quanta => Sys2Proof.Machine.execPfcFrame n quanta s
  | .ptpFrame n offset => Sys2Proof.Machine.execPtpFrame n offset s
  | .tunRto n => Sys2Proof.Machine.execTunRto n s
  | .tunDead n => Sys2Proof.Machine.execTunDead n s
  | .tunnelKeepalive n => Sys2Proof.Machine.execTunnelKeepalive n s
  | .hbLinkLoss bridge => Sys2Proof.Machine.execHbLinkLoss bridge s
  | .cxlM2sReq bridge kind hpa tag => Sys2Proof.Machine.execCxlM2sReq bridge kind hpa tag s
  | .cxlM2sRwd bridge hpa tag mask data => Sys2Proof.Machine.execCxlM2sRwd bridge hpa tag mask data s
  | .cxlBiRsp bridge hpa kept data => Sys2Proof.Machine.execCxlBiRsp bridge hpa kept data s
  | .cxlBiconflict bridge hpa => Sys2Proof.Machine.execCxlBiconflict bridge hpa s
  | .schedMatch bad parity queues => Sys2Proof.Machine.execSchedMatch bad parity queues s
  | .voqPromote id => Sys2Proof.Machine.execVoqPromote id s
  | .sharedAdmit id => Sys2Proof.Machine.execSharedAdmit id s
  | .ageDiscard id => Sys2Proof.Machine.execAgeDiscard id s
  | .escWaitExpire id => Sys2Proof.Machine.execEscWaitExpire id s
  | .bucketRelease port => Sys2Proof.Machine.execBucketRelease port s
  | .bucketOverride port => Sys2Proof.Machine.execBucketOverride port s
  | .gateEntryChange p => Sys2Proof.Machine.execGateEntryChange p s
  | .gateListSwitch p => Sys2Proof.Machine.execGateListSwitch p s
  | .timeSyncTimer n => Sys2Proof.Machine.execTimeSyncTimer n s
  | .timeSync p => Sys2Proof.Machine.execTimeSync p s
  | .timeFollow p => Sys2Proof.Machine.execTimeFollow p s
  | .ppsEdge => Sys2Proof.Machine.execPpsEdge s
  | .timeRefLost pps => Sys2Proof.Machine.execTimeRefLost pps s
  | .ppsOut => Sys2Proof.Machine.execPpsOut s
  | .llHello p => Sys2Proof.Machine.execLlHello p s
  | .llCert p => Sys2Proof.Machine.execLlCert p s
  | .llState p => Sys2Proof.Machine.execLlState p s
  | .fmCommand p => Sys2Proof.Machine.execFmCommand p s
  | .fmReply p => Sys2Proof.Machine.execFmReply p s
  | .routeWithdraw p => Sys2Proof.Machine.execRouteWithdraw p s
  | .routeRestore p => Sys2Proof.Machine.execRouteRestore p s
  | .event p => Sys2Proof.Machine.execEvent p s
  | .discardReport p => Sys2Proof.Machine.execDiscardReport p s
  | .wickXchg p => Sys2Proof.Machine.execWickXchg p s
  | .ticket p => Sys2Proof.Machine.execTicket p s
  | .linkKex p => Sys2Proof.Machine.execLinkKex p s
  | .helloResend n => Sys2Proof.Machine.execHelloResend n s
  | .helloTimeout n => Sys2Proof.Machine.execHelloTimeout n s
  | .verifyTimeout n => Sys2Proof.Machine.execVerifyTimeout n s
  | .escDrainDone => Sys2Proof.Machine.execEscDrainDone s
  | .escDrainTimeout => Sys2Proof.Machine.execEscDrainTimeout s
  | .ticketExpire id => Sys2Proof.Machine.execTicketExpire id s
  | .healthRecover n => Sys2Proof.Machine.execHealthRecover n s
  | .verifyPass found => Sys2Proof.Machine.execVerifyPass found s
  | .wickWatchdog k => Sys2Proof.Machine.execWickWatchdog k s
  | .wickCoreRejoin k => Sys2Proof.Machine.execWickCoreRejoin k s
  | .wickRestart => Sys2Proof.Machine.execWickRestart s
  | .wickRestartTimeout => Sys2Proof.Machine.execWickRestartTimeout s
  | .hurricaneMismatch => Sys2Proof.Machine.execHurricaneMismatch s
  | .regionSupplyFault r => Sys2Proof.Machine.execRegionSupplyFault r s
  | .rngHealthFail => Sys2Proof.Machine.execRngHealthFail s
  | .rngRetestDone ok => Sys2Proof.Machine.execRngRetestDone ok s
  | .linkKexExpire n => Sys2Proof.Machine.execLinkKexExpire n s
  | .scrubWriteDone part addr ok => Sys2Proof.Machine.execScrubWriteDone part addr ok s
  | .getVersion => Sys2Proof.Machine.execGetVersion s
  | .getCapabilities => Sys2Proof.Machine.execGetCapabilities s
  | .negotiateAlgorithms sigs kems sha384 gcm raw => Sys2Proof.Machine.execNegotiateAlgorithms sigs kems sha384 gcm raw s
  | .getDigests => Sys2Proof.Machine.execGetDigests s
  | .getCertificate slot off len => Sys2Proof.Machine.execGetCertificate slot off len s
  | .challenge slot nonce => Sys2Proof.Machine.execChallenge slot nonce s
  | .getMeasurements op sign nonce => Sys2Proof.Machine.execGetMeasurements op sign nonce s
  | .keyExchange ek => Sys2Proof.Machine.execKeyExchange ek s
  | .finish session ok => Sys2Proof.Machine.execFinish session ok s
  | .endSession session => Sys2Proof.Machine.execEndSession session s
  | .heartbeat session => Sys2Proof.Machine.execHeartbeat session s
  | .keyUpdate session => Sys2Proof.Machine.execKeyUpdate session s
  | .vendorDefinedRequest session known => Sys2Proof.Machine.execVendorDefinedRequest session known s
  | .spdmUnsupported code => Sys2Proof.Machine.execSpdmUnsupported code s
  | .getTdispVersion session vf => Sys2Proof.Machine.execGetTdispVersion session vf s
  | .getTdispCapabilities session vf => Sys2Proof.Machine.execGetTdispCapabilities session vf s
  | .lockInterfaceRequest session vf stream => Sys2Proof.Machine.execLockInterfaceRequest session vf stream s
  | .getDeviceInterfaceReport session vf => Sys2Proof.Machine.execGetDeviceInterfaceReport session vf s
  | .getDeviceInterfaceState session vf => Sys2Proof.Machine.execGetDeviceInterfaceState session vf s
  | .startInterfaceRequest session vf nonce => Sys2Proof.Machine.execStartInterfaceRequest session vf nonce s
  | .stopInterfaceRequest session vf => Sys2Proof.Machine.execStopInterfaceRequest session vf s
  | .keyProg session port stream set sub => Sys2Proof.Machine.execKeyProg session port stream set sub s
  | .kSetGo session port stream set sub => Sys2Proof.Machine.execKSetGo session port stream set sub s
  | .kSetStop session port stream set sub => Sys2Proof.Machine.execKSetStop session port stream set sub s
  | .hysNop c => Sys2Proof.Machine.execHysNop c s
  | .partCreate c => Sys2Proof.Machine.execPartCreate c s
  | .partInfo c => Sys2Proof.Machine.execPartInfo c s
  | .partSet c => Sys2Proof.Machine.execPartSet c s
  | .partAddPort c => Sys2Proof.Machine.execPartAddPort c s
  | .partRemovePort c => Sys2Proof.Machine.execPartRemovePort c s
  | .partTeardown c => Sys2Proof.Machine.execPartTeardown c s
  | .secAttest c => Sys2Proof.Machine.execSecAttest c s
  | .secProgLog c => Sys2Proof.Machine.execSecProgLog c s
  | .secLinkKexStart c => Sys2Proof.Machine.execSecLinkKexStart c s
  | .secLinkKexRespond c => Sys2Proof.Machine.execSecLinkKexRespond c s
  | .secLinkKexFinish c => Sys2Proof.Machine.execSecLinkKexFinish c s
  | .portSetPriv c => Sys2Proof.Machine.execPortSetPriv c s
  | .portSetCrypt c => Sys2Proof.Machine.execPortSetCrypt c s
  | .portSetGateway c => Sys2Proof.Machine.execPortSetGateway c s
  | .portRetrain c => Sys2Proof.Machine.execPortRetrain c s
  | .portRelease c => Sys2Proof.Machine.execPortRelease c s
  | .portLinkStats c => Sys2Proof.Machine.execPortLinkStats c s
  | .nodeSetSelf c => Sys2Proof.Machine.execNodeSetSelf c s
  | .nodeAssign c => Sys2Proof.Machine.execNodeAssign c s
  | .nodeClear c => Sys2Proof.Machine.execNodeClear c s
  | .routeSet c => Sys2Proof.Machine.execRouteSet c s
  | .fabricSetManagers c => Sys2Proof.Machine.execFabricSetManagers c s
  | .fabricSetRole c => Sys2Proof.Machine.execFabricSetRole c s
  | .fabricSetFreeMode c => Sys2Proof.Machine.execFabricSetFreeMode c s
  | .fabricTicket c => Sys2Proof.Machine.execFabricTicket c s
  | .fabricSetBudget c => Sys2Proof.Machine.execFabricSetBudget c s
  | .fabricAddSpares c => Sys2Proof.Machine.execFabricAddSpares c s
  | .poolMap c => Sys2Proof.Machine.execPoolMap c s
  | .poolUnmap c => Sys2Proof.Machine.execPoolUnmap c s
  | .poolProtect c => Sys2Proof.Machine.execPoolProtect c s
  | .poolFrameInfo c => Sys2Proof.Machine.execPoolFrameInfo c s
  | .poolHeatRead c => Sys2Proof.Machine.execPoolHeatRead c s
  | .poolMove c => Sys2Proof.Machine.execPoolMove c s
  | .poolResolve c => Sys2Proof.Machine.execPoolResolve c s
  | .poolSetHome c => Sys2Proof.Machine.execPoolSetHome c s
  | .poolAttachTray c => Sys2Proof.Machine.execPoolAttachTray c s
  | .poolDetachTray c => Sys2Proof.Machine.execPoolDetachTray c s
  | .poolSetPolicy c => Sys2Proof.Machine.execPoolSetPolicy c s
  | .poolEnableClass c => Sys2Proof.Machine.execPoolEnableClass c s
  | .astCreate c => Sys2Proof.Machine.execAstCreate c s
  | .astDestroy c => Sys2Proof.Machine.execAstDestroy c s
  | .astInvalidate c => Sys2Proof.Machine.execAstInvalidate c s
  | .astInfo c => Sys2Proof.Machine.execAstInfo c s
  | .astPteRead c => Sys2Proof.Machine.execAstPteRead c s
  | .windowSet c => Sys2Proof.Machine.execWindowSet c s
  | .windowClear c => Sys2Proof.Machine.execWindowClear c s
  | .domainCreate c => Sys2Proof.Machine.execDomainCreate c s
  | .domainDestroy c => Sys2Proof.Machine.execDomainDestroy c s
  | .domainAddAgent c => Sys2Proof.Machine.execDomainAddAgent c s
  | .domainRemoveAgent c => Sys2Proof.Machine.execDomainRemoveAgent c s
  | .domainSetRange c => Sys2Proof.Machine.execDomainSetRange c s
  | .snapCreate c => Sys2Proof.Machine.execSnapCreate c s
  | .snapDestroy c => Sys2Proof.Machine.execSnapDestroy c s
  | .snapInfo c => Sys2Proof.Machine.execSnapInfo c s
  | .progLoadLib c => Sys2Proof.Machine.execProgLoadLib c s
  | .progLoad c => Sys2Proof.Machine.execProgLoad c s
  | .progReplace c => Sys2Proof.Machine.execProgReplace c s
  | .progUnload c => Sys2Proof.Machine.execProgUnload c s
  | .progInfo c => Sys2Proof.Machine.execProgInfo c s
  | .progCellRead c => Sys2Proof.Machine.execProgCellRead c s
  | .progStalls c => Sys2Proof.Machine.execProgStalls c s
  | .progCounters c => Sys2Proof.Machine.execProgCounters c s
  | .progSetSigner c => Sys2Proof.Machine.execProgSetSigner c s
  | .progSetQuota c => Sys2Proof.Machine.execProgSetQuota c s
  | .collOpen c => Sys2Proof.Machine.execCollOpen c s
  | .collClose c => Sys2Proof.Machine.execCollClose c s
  | .collSetOpt c => Sys2Proof.Machine.execCollSetOpt c s
  | .collStats c => Sys2Proof.Machine.execCollStats c s
  | .collRehost c => Sys2Proof.Machine.execCollRehost c s
  | .embCreate c => Sys2Proof.Machine.execEmbCreate c s
  | .embDestroy c => Sys2Proof.Machine.execEmbDestroy c s
  | .embSetDefault c => Sys2Proof.Machine.execEmbSetDefault c s
  | .embReplaceRows c => Sys2Proof.Machine.execEmbReplaceRows c s
  | .embCloseStep c => Sys2Proof.Machine.execEmbCloseStep c s
  | .embStepInfo c => Sys2Proof.Machine.execEmbStepInfo c s
  | .embHotSet c => Sys2Proof.Machine.execEmbHotSet c s
  | .embHotRefresh c => Sys2Proof.Machine.execEmbHotRefresh c s
  | .embMoveRows c => Sys2Proof.Machine.execEmbMoveRows c s
  | .embStats c => Sys2Proof.Machine.execEmbStats c s
  | .searchCreate c => Sys2Proof.Machine.execSearchCreate c s
  | .searchDestroy c => Sys2Proof.Machine.execSearchDestroy c s
  | .searchQuery c => Sys2Proof.Machine.execSearchQuery c s
  | .searchDelete c => Sys2Proof.Machine.execSearchDelete c s
  | .searchRepair c => Sys2Proof.Machine.execSearchRepair c s
  | .searchInfo c => Sys2Proof.Machine.execSearchInfo c s
  | .searchStats c => Sys2Proof.Machine.execSearchStats c s
  | .attnOpen c => Sys2Proof.Machine.execAttnOpen c s
  | .attnClose c => Sys2Proof.Machine.execAttnClose c s
  | .attnStats c => Sys2Proof.Machine.execAttnStats c s
  | .serveCreate c => Sys2Proof.Machine.execServeCreate c s
  | .serveSetMap c => Sys2Proof.Machine.execServeSetMap c s
  | .serveOwnerInfo c => Sys2Proof.Machine.execServeOwnerInfo c s
  | .serveDestroy c => Sys2Proof.Machine.execServeDestroy c s
  | .serveStats c => Sys2Proof.Machine.execServeStats c s
  | .shapeSetPart c => Sys2Proof.Machine.execShapeSetPart c s
  | .shapeStats c => Sys2Proof.Machine.execShapeStats c s
  | .gateSet c => Sys2Proof.Machine.execGateSet c s
  | .timeSet c => Sys2Proof.Machine.execTimeSet c s
  | .timeSetSource c => Sys2Proof.Machine.execTimeSetSource c s
  | .timeSetUpstream c => Sys2Proof.Machine.execTimeSetUpstream c s
  | .coreStats c => Sys2Proof.Machine.execCoreStats c s
  | .regionFence c => Sys2Proof.Machine.execRegionFence c s
  | .regionUnfence c => Sys2Proof.Machine.execRegionUnfence c s
  | .rasStats c => Sys2Proof.Machine.execRasStats c s
  | .healthRead c => Sys2Proof.Machine.execHealthRead c s
  | .powerSetState c => Sys2Proof.Machine.execPowerSetState c s
  | .powerSetRegion c => Sys2Proof.Machine.execPowerSetRegion c s
  | .powerStats c => Sys2Proof.Machine.execPowerStats c s
  | .lanternRead c => Sys2Proof.Machine.execLanternRead c s
  | .lanternLogRead c => Sys2Proof.Machine.execLanternLogRead c s
  | .lanternStats c => Sys2Proof.Machine.execLanternStats c s
  | .dbWrite fn q part value => Sys2Proof.Machine.execDbWrite fn q part value s
  | .descriptorFetch desc => Sys2Proof.Machine.execDescriptorFetch desc s
  | .commandCompletion fn qp outOk => Sys2Proof.Machine.execCommandCompletion fn qp outOk s
  | .coalTimer fn qp => Sys2Proof.Machine.execCoalTimer fn qp s
  | .qreset fn => Sys2Proof.Machine.execQreset fn s
  | .qpEnable fn q value => Sys2Proof.Machine.execQpEnable fn q value s
  | .qpDisable fn q value => Sys2Proof.Machine.execQpDisable fn q value s
  | .mbxGo len offset => Sys2Proof.Machine.execMbxGo len offset s
  | .mbxLast len offset => Sys2Proof.Machine.execMbxLast len offset s
  | .mbxAbort => Sys2Proof.Machine.execMbxAbort s
  | .bundleVerifyDone => Sys2Proof.Machine.execBundleVerifyDone s
  | .hbmInitDone => Sys2Proof.Machine.execHbmInitDone s
  | .ftimeRead part => Sys2Proof.Machine.execFtimeRead part s
  | .hysDroppedRead fn => Sys2Proof.Machine.execHysDroppedRead fn s
  | .portCfgEnSet p value => Sys2Proof.Machine.execPortCfgEnSet p value s
  | .portCfgEnClear p value => Sys2Proof.Machine.execPortCfgEnClear p value s
  | .poolHeatCfgWrite value => Sys2Proof.Machine.execPoolHeatCfgWrite value s
  | .poolPolicyCfgWrite value => Sys2Proof.Machine.execPoolPolicyCfgWrite value s
  | .registerWrite fn off size value => Sys2Proof.Machine.execRegisterWrite fn off size value s
  | .powerOn => Sys2Proof.Machine.execPowerOn s
  | .sysResetAssert => Sys2Proof.Machine.execSysResetAssert s
  | .sysResetDeassert => Sys2Proof.Machine.execSysResetDeassert s
  | .perstMgtAssert => Sys2Proof.Machine.execPerstMgtAssert s
  | .perstMgtDeassert => Sys2Proof.Machine.execPerstMgtDeassert s
  | .functionLevelReset fn => Sys2Proof.Machine.execFunctionLevelReset fn s
  | .hbPerstAssert k => Sys2Proof.Machine.execHbPerstAssert k s
  | .hbPerstDeassert k => Sys2Proof.Machine.execHbPerstDeassert k s
  | .inputLow => Sys2Proof.Machine.execInputLow s
  | .inputFail => Sys2Proof.Machine.execInputFail s
  | .refclkLost b ports => Sys2Proof.Machine.execRefclkLost b ports s
  | .refclkBothLost => Sys2Proof.Machine.execRefclkBothLost s
  | .refclkSwitchback ports => Sys2Proof.Machine.execRefclkSwitchback ports s
  | .regionIdleTrim r => Sys2Proof.Machine.execRegionIdleTrim r s
  | .chipHoodEntry => Sys2Proof.Machine.execChipHoodEntry s
  | .lpAckTimeout => Sys2Proof.Machine.execLpAckTimeout s
  | .wake regions => Sys2Proof.Machine.execWake regions s
  | .powerStateDrainTimeout => Sys2Proof.Machine.execPowerStateDrainTimeout s
  | .powerTick vin pin => Sys2Proof.Machine.execPowerTick vin pin s
  | .capTrim => Sys2Proof.Machine.execCapTrim s
  | .currentGuard => Sys2Proof.Machine.execCurrentGuard s
  | .guardRelease => Sys2Proof.Machine.execGuardRelease s
  | .thermSample n t => Sys2Proof.Machine.execThermSample n t s
  | .thermalHold r => Sys2Proof.Machine.execThermalHold r s
  | .thermalTrip => Sys2Proof.Machine.execThermalTrip s
  | .idcode => Sys2Proof.Machine.execIdcode s
  | .samplePreload pps t10m test float shift => Sys2Proof.Machine.execSamplePreload pps t10m test float shift s
  | .extest pps t10m test float shift => Sys2Proof.Machine.execExtest pps t10m test float shift s
  | .clamp => Sys2Proof.Machine.execClamp s
  | .highz => Sys2Proof.Machine.execHighz s
  | .bypass => Sys2Proof.Machine.execBypass s
  | .debugStatus => Sys2Proof.Machine.execDebugStatus s
  | .debugUnlock token => Sys2Proof.Machine.execDebugUnlock token s
  | .jtagTrst => Sys2Proof.Machine.execJtagTrst s
  | .snpInv p => Sys2Proof.Machine.execSnpInv p s
  | .snpShare p => Sys2Proof.Machine.execSnpShare p s
  | .inputRecover => Sys2Proof.Machine.execInputRecover s
  | .refclkRestored b => Sys2Proof.Machine.execRefclkRestored b s
  | .timeRefRestored pps => Sys2Proof.Machine.execTimeRefRestored pps s
  | .laneLossOfSignal n lanes => Sys2Proof.Machine.execLaneLossOfSignal n lanes s
  | .numvfsWrite n enable => Sys2Proof.Machine.execNumvfsWrite n enable s
  | .hdmDecoderWrite bridge index base sizeGib part ast vbase commit => Sys2Proof.Machine.execHdmDecoderWrite bridge index base sizeGib part ast vbase commit s

end Sys2Proof.Machine
end

