-- ==== Sys2Proof/Laws/Exec.lean ====
section
/-! SUPPORT. Laws/Exec.lean: each arm of the dispatch, so that no proof unfolds all of it. -/
namespace Sys2Proof.Machine

theorem exec_load (p : Req) (s : State) : exec (.load p) s = execLoad p s := rfl
theorem exec_store (p : Req) (s : State) : exec (.store p) s = execStore p s := rfl
theorem exec_storeClearPoison (p : Req) (s : State) : exec (.storeClearPoison p) s = execStoreClearPoison p s := rfl
theorem exec_copy (p : Req) (s : State) : exec (.copy p) s = execCopy p s := rfl
theorem exec_atomicAdd (p : Req) (s : State) : exec (.atomicAdd p) s = execAtomicAdd p s := rfl
theorem exec_atomicMin (p : Req) (s : State) : exec (.atomicMin p) s = execAtomicMin p s := rfl
theorem exec_atomicMax (p : Req) (s : State) : exec (.atomicMax p) s = execAtomicMax p s := rfl
theorem exec_atomicAnd (p : Req) (s : State) : exec (.atomicAnd p) s = execAtomicAnd p s := rfl
theorem exec_atomicOr (p : Req) (s : State) : exec (.atomicOr p) s = execAtomicOr p s := rfl
theorem exec_atomicXor (p : Req) (s : State) : exec (.atomicXor p) s = execAtomicXor p s := rfl
theorem exec_atomicSwap (p : Req) (s : State) : exec (.atomicSwap p) s = execAtomicSwap p s := rfl
theorem exec_atomicCas (p : Req) (s : State) : exec (.atomicCas p) s = execAtomicCas p s := rfl
theorem exec_fence (p : Req) (s : State) : exec (.fence p) s = execFence p s := rfl
theorem exec_openVersion (p : Req) (s : State) : exec (.openVersion p) s = execOpenVersion p s := rfl
theorem exec_closeVersion (p : Req) (s : State) : exec (.closeVersion p) s = execCloseVersion p s := rfl
theorem exec_publish (p : Req) (s : State) : exec (.publish p) s = execPublish p s := rfl
theorem exec_rdShared (p : Req) (s : State) : exec (.rdShared p) s = execRdShared p s := rfl
theorem exec_rdOwn (p : Req) (s : State) : exec (.rdOwn p) s = execRdOwn p s := rfl
theorem exec_upgrade (p : Req) (s : State) : exec (.upgrade p) s = execUpgrade p s := rfl
theorem exec_wbDirty (p : Req) (s : State) : exec (.wbDirty p) s = execWbDirty p s := rfl
theorem exec_evictClean (p : Req) (s : State) : exec (.evictClean p) s = execEvictClean p s := rfl
theorem exec_snoopAnswer (r : Resp) (s : State) : exec (.snoopAnswer r) s = execSnoopAnswer r s := rfl
theorem exec_collContrib (p : Req) (s : State) : exec (.collContrib p) s = execCollContrib p s := rfl
theorem exec_collPartial (p : Req) (s : State) : exec (.collPartial p) s = execCollPartial p s := rfl
theorem exec_collDeliver (p : Req) (s : State) : exec (.collDeliver p) s = execCollDeliver p s := rfl
theorem exec_gather (p : Req) (s : State) : exec (.gather p) s = execGather p s := rfl
theorem exec_scatter (p : Req) (s : State) : exec (.scatter p) s = execScatter p s := rfl
theorem exec_search (p : Req) (s : State) : exec (.search p) s = execSearch p s := rfl
theorem exec_attend (p : Req) (s : State) : exec (.attend p) s = execAttend p s := rfl
theorem exec_filter (p : Req) (s : State) : exec (.filter p) s = execFilter p s := rfl
theorem exec_run (p : Req) (s : State) : exec (.run p) s = execRun p s := rfl
theorem exec_ownerCas (p : Req) (s : State) : exec (.ownerCas p) s = execOwnerCas p s := rfl
theorem exec_cpl (r : Resp) (s : State) : exec (.cpl r) s = execCpl r s := rfl
theorem exec_cplData (r : Resp) (s : State) : exec (.cplData r) s = execCplData r s := rfl
theorem exec_unanswered (node tag cause : Nat) (s : State) : exec (.unanswered node tag cause) s = execUnanswered node tag cause s := rfl
theorem exec_sequenceGap (src dst : Nat) (s : State) : exec (.sequenceGap src dst) s = execSequenceGap src dst s := rfl
theorem exec_regionArbGrant (r : Nat) (s : State) : exec (.regionArbGrant r) s = execRegionArbGrant r s := rfl
theorem exec_regionArbPromote (r : Nat) (s : State) : exec (.regionArbPromote r) s = execRegionArbPromote r s := rfl
theorem exec_hbmAccessDone (r id : Nat) (bad : List Nat) (s : State) : exec (.hbmAccessDone r id bad) s = execHbmAccessDone r id bad s := rfl
theorem exec_moveSubblockDone (frame : Nat) (ok : Bool) (s : State) : exec (.moveSubblockDone frame ok) s = execMoveSubblockDone frame ok s := rfl
theorem exec_heatDecayPeriod (s : State) : exec (.heatDecayPeriod) s = execHeatDecayPeriod s := rfl
theorem exec_tierMapVisit (frame : Nat) (s : State) : exec (.tierMapVisit frame) s = execTierMapVisit frame s := rfl
theorem exec_tieringScan (s : State) : exec (.tieringScan) s = execTieringScan s := rfl
theorem exec_t3WriteResume (op : Nat) (s : State) : exec (.t3WriteResume op) s = execT3WriteResume op s := rfl
theorem exec_trayLateTimeout (tag : Nat) (s : State) : exec (.trayLateTimeout tag) s = execTrayLateTimeout tag s := rfl
theorem exec_freeModeTakeEffect (s : State) : exec (.freeModeTakeEffect) s = execFreeModeTakeEffect s := rfl
theorem exec_pageWalkDone (ast page : Nat) (s : State) : exec (.pageWalkDone ast page) s = execPageWalkDone ast page s := rfl
theorem exec_genSweepDone (ast : Nat) (s : State) : exec (.genSweepDone ast) s = execGenSweepDone ast s := rfl
theorem exec_ptRelocate (ast loc : Nat) (s : State) : exec (.ptRelocate ast loc) s = execPtRelocate ast loc s := rfl
theorem exec_tenureEnd (line : Nat) (s : State) : exec (.tenureEnd line) s = execTenureEnd line s := rfl
theorem exec_homeTimeout (line : Nat) (s : State) : exec (.homeTimeout line) s = execHomeTimeout line s := rfl
theorem exec_directorySweep (domain agent : Nat) (bad : List Nat) (s : State) : exec (.directorySweep domain agent bad) s = execDirectorySweep domain agent bad s := rfl
theorem exec_combineWindowEnd (group : Nat) (s : State) : exec (.combineWindowEnd group) s = execCombineWindowEnd group s := rfl
theorem exec_hotLineSend (line : Nat) (s : State) : exec (.hotLineSend line) s = execHotLineSend line s := rfl
theorem exec_hotLineExpire (line : Nat) (s : State) : exec (.hotLineExpire line) s = execHotLineExpire line s := rfl
theorem exec_versionLeaseEnd (region node : Nat) (s : State) : exec (.versionLeaseEnd region node) s = execVersionLeaseEnd region node s := rfl
theorem exec_cowCopyDone (region node frame : Nat) (s : State) : exec (.cowCopyDone region node frame) s = execCowCopyDone region node frame s := rfl
theorem exec_stepStart (unit : Nat) (s : State) : exec (.stepStart unit) s = execStepStart unit s := rfl
theorem exec_stepResume (unit : Nat) (s : State) : exec (.stepResume unit) s = execStepResume unit s := rfl
theorem exec_stepCommit (unit : Nat) (bad : List Nat) (s : State) : exec (.stepCommit unit bad) s = execStepCommit unit bad s := rfl
theorem exec_configScrub (block : Nat) (bad : List Nat) (s : State) : exec (.configScrub block bad) s = execConfigScrub block bad s := rfl
theorem exec_blockArbGrant (block : Nat) (s : State) : exec (.blockArbGrant block) s = execBlockArbGrant block s := rfl
theorem exec_blockArbPromote (block request : Nat) (s : State) : exec (.blockArbPromote block request) s = execBlockArbPromote block request s := rfl
theorem exec_neighbourCompare (s : State) : exec (.neighbourCompare) s = execNeighbourCompare s := rfl
theorem exec_neighbourTrim (r : Nat) (s : State) : exec (.neighbourTrim r) s = execNeighbourTrim r s := rfl
theorem exec_shadowCompare (unit : Nat) (same : Bool) (s : State) : exec (.shadowCompare unit same) s = execShadowCompare unit same s := rfl
theorem exec_refereeDone (unit row : Nat) (s : State) : exec (.refereeDone unit row) s = execRefereeDone unit row s := rfl
theorem exec_collStall (coord id ix : Nat) (s : State) : exec (.collStall coord id ix) s = execCollStall coord id ix s := rfl
theorem exec_embRowApply (coord id row : Nat) (s : State) : exec (.embRowApply coord id row) s = execEmbRowApply coord id row s := rfl
theorem exec_searchPartRetry (s : State) : exec (.searchPartRetry) s = execSearchPartRetry s := rfl
theorem exec_serveLeaseEnd (svc id : Nat) (s : State) : exec (.serveLeaseEnd svc id) s = execServeLeaseEnd svc id s := rfl
theorem exec_serveDrainEnd (svc : Nat) (s : State) : exec (.serveDrainEnd svc) s = execServeDrainEnd svc s := rfl
theorem exec_codewordReceived (n : Nat) (rs : Bool) (corrected : Nat) (cw : Codeword) (s : State) : exec (.codewordReceived n rs corrected cw) s = execCodewordReceived n rs corrected cw s := rfl
theorem exec_idle (n : Nat) (s : State) : exec (.idle n) s = execIdle n s := rfl
theorem exec_status (n ack : Nat) (valid : Bool) (credits : List Nat) (s : State) : exec (.status n ack valid credits) s = execStatus n ack valid credits s := rfl
theorem exec_nak (n seq : Nat) (s : State) : exec (.nak n seq) s = execNak n seq s := rfl
theorem exec_replay (n seq : Nat) (s : State) : exec (.replay n seq) s = execReplay n seq s := rfl
theorem exec_escape (n : Nat) (s : State) : exec (.escape n) s = execEscape n s := rfl
theorem exec_lpReq (n : Nat) (s : State) : exec (.lpReq n) s = execLpReq n s := rfl
theorem exec_lpAck (n : Nat) (s : State) : exec (.lpAck n) s = execLpAck n s := rfl
theorem exec_lpNak (n : Nat) (s : State) : exec (.lpNak n) s = execLpNak n s := rfl
theorem exec_trainId (n version role lanes : Nat) (marked degradeOk : Bool) (s : State) : exec (.trainId n version role lanes marked degradeOk) s = execTrainId n version role lanes marked degradeOk s := rfl
theorem exec_trainCredit (n : Nat) (adv : List Nat) (s : State) : exec (.trainCredit n adv) s = execTrainCredit n adv s := rfl
theorem exec_trainDone (n : Nat) (s : State) : exec (.trainDone n) s = execTrainDone n s := rfl
theorem exec_secureFrame (n slot ctr : Nat) (data : List Byte) (tag : BitVec 128) (s : State) : exec (.secureFrame n slot ctr data tag) s = execSecureFrame n slot ctr data tag s := rfl
theorem exec_linkKeyRotate (n : Nat) (s : State) : exec (.linkKeyRotate n) s = execLinkKeyRotate n s := rfl
theorem exec_ackTimeout (n : Nat) (s : State) : exec (.ackTimeout n) s = execAckTimeout n s := rfl
theorem exec_nakRepeat (n : Nat) (s : State) : exec (.nakRepeat n) s = execNakRepeat n s := rfl
theorem exec_statusTimer (n : Nat) (s : State) : exec (.statusTimer n) s = execStatusTimer n s := rfl
theorem exec_partnerLock (n : Nat) (s : State) : exec (.partnerLock n) s = execPartnerLock n s := rfl
theorem exec_equalizeDone (n : Nat) (s : State) : exec (.equalizeDone n) s = execEqualizeDone n s := rfl
theorem exec_equalizeTimeout (n : Nat) (lanes : List Nat) (s : State) : exec (.equalizeTimeout n lanes) s = execEqualizeTimeout n lanes s := rfl
theorem exec_identifyTimeout (n : Nat) (s : State) : exec (.identifyTimeout n) s = execIdentifyTimeout n s := rfl
theorem exec_configTimeout (n : Nat) (s : State) : exec (.configTimeout n) s = execConfigTimeout n s := rfl
theorem exec_retrainTimeout (n : Nat) (s : State) : exec (.retrainTimeout n) s = execRetrainTimeout n s := rfl
theorem exec_retrainDone (n : Nat) (lanes : List Nat) (s : State) : exec (.retrainDone n lanes) s = execRetrainDone n lanes s := rfl
theorem exec_downTimeout (n : Nat) (s : State) : exec (.downTimeout n) s = execDownTimeout n s := rfl
theorem exec_laneFail (n lane : Nat) (s : State) : exec (.laneFail n lane) s = execLaneFail n lane s := rfl
theorem exec_partnerLoss (n : Nat) (s : State) : exec (.partnerLoss n) s = execPartnerLoss n s := rfl
theorem exec_beaconTimer (n : Nat) (s : State) : exec (.beaconTimer n) s = execBeaconTimer n s := rfl
theorem exec_beaconLoss (n : Nat) (s : State) : exec (.beaconLoss n) s = execBeaconLoss n s := rfl
theorem exec_lowPowerExit (n : Nat) (s : State) : exec (.lowPowerExit n) s = execLowPowerExit n s := rfl
theorem exec_tunnelFrame (n seq ack flits : Nat) (fcs : Bool) (s : State) : exec (.tunnelFrame n seq ack flits fcs) s = execTunnelFrame n seq ack flits fcs s := rfl
theorem exec_pfcFrame (n : Nat) (quanta : List (Nat × Nat)) (s : State) : exec (.pfcFrame n quanta) s = execPfcFrame n quanta s := rfl
theorem exec_ptpFrame (n : Nat) (offset : Int) (s : State) : exec (.ptpFrame n offset) s = execPtpFrame n offset s := rfl
theorem exec_tunRto (n : Nat) (s : State) : exec (.tunRto n) s = execTunRto n s := rfl
theorem exec_tunDead (n : Nat) (s : State) : exec (.tunDead n) s = execTunDead n s := rfl
theorem exec_tunnelKeepalive (n : Nat) (s : State) : exec (.tunnelKeepalive n) s = execTunnelKeepalive n s := rfl
theorem exec_hbLinkLoss (bridge : Nat) (s : State) : exec (.hbLinkLoss bridge) s = execHbLinkLoss bridge s := rfl
theorem exec_cxlM2sReq (bridge : Nat) (kind : CxlReq) (hpa tag : Nat) (s : State) : exec (.cxlM2sReq bridge kind hpa tag) s = execCxlM2sReq bridge kind hpa tag s := rfl
theorem exec_cxlM2sRwd (bridge hpa tag : Nat) (mask : BitVec 64) (data : List Byte) (s : State) : exec (.cxlM2sRwd bridge hpa tag mask data) s = execCxlM2sRwd bridge hpa tag mask data s := rfl
theorem exec_cxlBiRsp (bridge hpa : Nat) (kept : Bool) (data : List Byte) (s : State) : exec (.cxlBiRsp bridge hpa kept data) s = execCxlBiRsp bridge hpa kept data s := rfl
theorem exec_cxlBiconflict (bridge hpa : Nat) (s : State) : exec (.cxlBiconflict bridge hpa) s = execCxlBiconflict bridge hpa s := rfl
theorem exec_schedMatch (bad : List Nat) (parity : Bool) (queues : List Nat) (s : State) : exec (.schedMatch bad parity queues) s = execSchedMatch bad parity queues s := rfl
theorem exec_voqPromote (id : Nat) (s : State) : exec (.voqPromote id) s = execVoqPromote id s := rfl
theorem exec_sharedAdmit (id : Nat) (s : State) : exec (.sharedAdmit id) s = execSharedAdmit id s := rfl
theorem exec_ageDiscard (id : Nat) (s : State) : exec (.ageDiscard id) s = execAgeDiscard id s := rfl
theorem exec_escWaitExpire (id : Nat) (s : State) : exec (.escWaitExpire id) s = execEscWaitExpire id s := rfl
theorem exec_bucketRelease (port : Nat) (s : State) : exec (.bucketRelease port) s = execBucketRelease port s := rfl
theorem exec_bucketOverride (port : Nat) (s : State) : exec (.bucketOverride port) s = execBucketOverride port s := rfl
theorem exec_gateEntryChange (p : Nat) (s : State) : exec (.gateEntryChange p) s = execGateEntryChange p s := rfl
theorem exec_gateListSwitch (p : Nat) (s : State) : exec (.gateListSwitch p) s = execGateListSwitch p s := rfl
theorem exec_timeSyncTimer (n : Nat) (s : State) : exec (.timeSyncTimer n) s = execTimeSyncTimer n s := rfl
theorem exec_timeSync (p : Req) (s : State) : exec (.timeSync p) s = execTimeSync p s := rfl
theorem exec_timeFollow (p : Req) (s : State) : exec (.timeFollow p) s = execTimeFollow p s := rfl
theorem exec_ppsEdge (s : State) : exec (.ppsEdge) s = execPpsEdge s := rfl
theorem exec_timeRefLost (pps : Bool) (s : State) : exec (.timeRefLost pps) s = execTimeRefLost pps s := rfl
theorem exec_ppsOut (s : State) : exec (.ppsOut) s = execPpsOut s := rfl
theorem exec_llHello (p : Req) (s : State) : exec (.llHello p) s = execLlHello p s := rfl
theorem exec_llCert (p : Req) (s : State) : exec (.llCert p) s = execLlCert p s := rfl
theorem exec_llState (p : Req) (s : State) : exec (.llState p) s = execLlState p s := rfl
theorem exec_fmCommand (p : Req) (s : State) : exec (.fmCommand p) s = execFmCommand p s := rfl
theorem exec_fmReply (p : Req) (s : State) : exec (.fmReply p) s = execFmReply p s := rfl
theorem exec_routeWithdraw (p : Req) (s : State) : exec (.routeWithdraw p) s = execRouteWithdraw p s := rfl
theorem exec_routeRestore (p : Req) (s : State) : exec (.routeRestore p) s = execRouteRestore p s := rfl
theorem exec_event (p : Req) (s : State) : exec (.event p) s = execEvent p s := rfl
theorem exec_discardReport (p : Req) (s : State) : exec (.discardReport p) s = execDiscardReport p s := rfl
theorem exec_wickXchg (p : Req) (s : State) : exec (.wickXchg p) s = execWickXchg p s := rfl
theorem exec_ticket (p : Req) (s : State) : exec (.ticket p) s = execTicket p s := rfl
theorem exec_linkKex (p : Req) (s : State) : exec (.linkKex p) s = execLinkKex p s := rfl
theorem exec_helloResend (n : Nat) (s : State) : exec (.helloResend n) s = execHelloResend n s := rfl
theorem exec_helloTimeout (n : Nat) (s : State) : exec (.helloTimeout n) s = execHelloTimeout n s := rfl
theorem exec_verifyTimeout (n : Nat) (s : State) : exec (.verifyTimeout n) s = execVerifyTimeout n s := rfl
theorem exec_escDrainDone (s : State) : exec (.escDrainDone) s = execEscDrainDone s := rfl
theorem exec_escDrainTimeout (s : State) : exec (.escDrainTimeout) s = execEscDrainTimeout s := rfl
theorem exec_ticketExpire (id : Nat) (s : State) : exec (.ticketExpire id) s = execTicketExpire id s := rfl
theorem exec_healthRecover (n : Nat) (s : State) : exec (.healthRecover n) s = execHealthRecover n s := rfl
theorem exec_verifyPass (found : List (Nat × List Byte)) (s : State) : exec (.verifyPass found) s = execVerifyPass found s := rfl
theorem exec_wickWatchdog (k : Nat) (s : State) : exec (.wickWatchdog k) s = execWickWatchdog k s := rfl
theorem exec_wickCoreRejoin (k : Nat) (s : State) : exec (.wickCoreRejoin k) s = execWickCoreRejoin k s := rfl
theorem exec_wickRestart (s : State) : exec (.wickRestart) s = execWickRestart s := rfl
theorem exec_wickRestartTimeout (s : State) : exec (.wickRestartTimeout) s = execWickRestartTimeout s := rfl
theorem exec_hurricaneMismatch (s : State) : exec (.hurricaneMismatch) s = execHurricaneMismatch s := rfl
theorem exec_regionSupplyFault (r : Nat) (s : State) : exec (.regionSupplyFault r) s = execRegionSupplyFault r s := rfl
theorem exec_rngHealthFail (s : State) : exec (.rngHealthFail) s = execRngHealthFail s := rfl
theorem exec_rngRetestDone (ok : Bool) (s : State) : exec (.rngRetestDone ok) s = execRngRetestDone ok s := rfl
theorem exec_linkKexExpire (n : Nat) (s : State) : exec (.linkKexExpire n) s = execLinkKexExpire n s := rfl
theorem exec_scrubWriteDone (part addr : Nat) (ok : Bool) (s : State) : exec (.scrubWriteDone part addr ok) s = execScrubWriteDone part addr ok s := rfl
theorem exec_getVersion (s : State) : exec (.getVersion) s = execGetVersion s := rfl
theorem exec_getCapabilities (s : State) : exec (.getCapabilities) s = execGetCapabilities s := rfl
theorem exec_negotiateAlgorithms (sigs kems : List (Nat × Nat)) (sha384 gcm raw : Bool) (s : State) : exec (.negotiateAlgorithms sigs kems sha384 gcm raw) s = execNegotiateAlgorithms sigs kems sha384 gcm raw s := rfl
theorem exec_getDigests (s : State) : exec (.getDigests) s = execGetDigests s := rfl
theorem exec_getCertificate (slot off len : Nat) (s : State) : exec (.getCertificate slot off len) s = execGetCertificate slot off len s := rfl
theorem exec_challenge (slot : Nat) (nonce : List Byte) (s : State) : exec (.challenge slot nonce) s = execChallenge slot nonce s := rfl
theorem exec_getMeasurements (op : Nat) (sign : Bool) (nonce : List Byte) (s : State) : exec (.getMeasurements op sign nonce) s = execGetMeasurements op sign nonce s := rfl
theorem exec_keyExchange (ek : List Byte) (s : State) : exec (.keyExchange ek) s = execKeyExchange ek s := rfl
theorem exec_finish (session : Nat) (ok : Bool) (s : State) : exec (.finish session ok) s = execFinish session ok s := rfl
theorem exec_endSession (session : Nat) (s : State) : exec (.endSession session) s = execEndSession session s := rfl
theorem exec_heartbeat (session : Nat) (s : State) : exec (.heartbeat session) s = execHeartbeat session s := rfl
theorem exec_keyUpdate (session : Nat) (s : State) : exec (.keyUpdate session) s = execKeyUpdate session s := rfl
theorem exec_vendorDefinedRequest (session : Option Nat) (known : Bool) (s : State) : exec (.vendorDefinedRequest session known) s = execVendorDefinedRequest session known s := rfl
theorem exec_spdmUnsupported (code : Nat) (s : State) : exec (.spdmUnsupported code) s = execSpdmUnsupported code s := rfl
theorem exec_getTdispVersion (session vf : Nat) (s : State) : exec (.getTdispVersion session vf) s = execGetTdispVersion session vf s := rfl
theorem exec_getTdispCapabilities (session vf : Nat) (s : State) : exec (.getTdispCapabilities session vf) s = execGetTdispCapabilities session vf s := rfl
theorem exec_lockInterfaceRequest (session vf stream : Nat) (s : State) : exec (.lockInterfaceRequest session vf stream) s = execLockInterfaceRequest session vf stream s := rfl
theorem exec_getDeviceInterfaceReport (session vf : Nat) (s : State) : exec (.getDeviceInterfaceReport session vf) s = execGetDeviceInterfaceReport session vf s := rfl
theorem exec_getDeviceInterfaceState (session vf : Nat) (s : State) : exec (.getDeviceInterfaceState session vf) s = execGetDeviceInterfaceState session vf s := rfl
theorem exec_startInterfaceRequest (session vf : Nat) (nonce : List Byte) (s : State) : exec (.startInterfaceRequest session vf nonce) s = execStartInterfaceRequest session vf nonce s := rfl
theorem exec_stopInterfaceRequest (session vf : Nat) (s : State) : exec (.stopInterfaceRequest session vf) s = execStopInterfaceRequest session vf s := rfl
theorem exec_keyProg (session port stream set sub : Nat) (s : State) : exec (.keyProg session port stream set sub) s = execKeyProg session port stream set sub s := rfl
theorem exec_kSetGo (session port stream set sub : Nat) (s : State) : exec (.kSetGo session port stream set sub) s = execKSetGo session port stream set sub s := rfl
theorem exec_kSetStop (session port stream set sub : Nat) (s : State) : exec (.kSetStop session port stream set sub) s = execKSetStop session port stream set sub s := rfl
theorem exec_hysNop (c : Cmd) (s : State) : exec (.hysNop c) s = execHysNop c s := rfl
theorem exec_partCreate (c : Cmd) (s : State) : exec (.partCreate c) s = execPartCreate c s := rfl
theorem exec_partInfo (c : Cmd) (s : State) : exec (.partInfo c) s = execPartInfo c s := rfl
theorem exec_partSet (c : Cmd) (s : State) : exec (.partSet c) s = execPartSet c s := rfl
theorem exec_partAddPort (c : Cmd) (s : State) : exec (.partAddPort c) s = execPartAddPort c s := rfl
theorem exec_partRemovePort (c : Cmd) (s : State) : exec (.partRemovePort c) s = execPartRemovePort c s := rfl
theorem exec_partTeardown (c : Cmd) (s : State) : exec (.partTeardown c) s = execPartTeardown c s := rfl
theorem exec_secAttest (c : Cmd) (s : State) : exec (.secAttest c) s = execSecAttest c s := rfl
theorem exec_secProgLog (c : Cmd) (s : State) : exec (.secProgLog c) s = execSecProgLog c s := rfl
theorem exec_secLinkKexStart (c : Cmd) (s : State) : exec (.secLinkKexStart c) s = execSecLinkKexStart c s := rfl
theorem exec_secLinkKexRespond (c : Cmd) (s : State) : exec (.secLinkKexRespond c) s = execSecLinkKexRespond c s := rfl
theorem exec_secLinkKexFinish (c : Cmd) (s : State) : exec (.secLinkKexFinish c) s = execSecLinkKexFinish c s := rfl
theorem exec_portSetPriv (c : Cmd) (s : State) : exec (.portSetPriv c) s = execPortSetPriv c s := rfl
theorem exec_portSetCrypt (c : Cmd) (s : State) : exec (.portSetCrypt c) s = execPortSetCrypt c s := rfl
theorem exec_portSetGateway (c : Cmd) (s : State) : exec (.portSetGateway c) s = execPortSetGateway c s := rfl
theorem exec_portRetrain (c : Cmd) (s : State) : exec (.portRetrain c) s = execPortRetrain c s := rfl
theorem exec_portRelease (c : Cmd) (s : State) : exec (.portRelease c) s = execPortRelease c s := rfl
theorem exec_portLinkStats (c : Cmd) (s : State) : exec (.portLinkStats c) s = execPortLinkStats c s := rfl
theorem exec_nodeSetSelf (c : Cmd) (s : State) : exec (.nodeSetSelf c) s = execNodeSetSelf c s := rfl
theorem exec_nodeAssign (c : Cmd) (s : State) : exec (.nodeAssign c) s = execNodeAssign c s := rfl
theorem exec_nodeClear (c : Cmd) (s : State) : exec (.nodeClear c) s = execNodeClear c s := rfl
theorem exec_routeSet (c : Cmd) (s : State) : exec (.routeSet c) s = execRouteSet c s := rfl
theorem exec_fabricSetManagers (c : Cmd) (s : State) : exec (.fabricSetManagers c) s = execFabricSetManagers c s := rfl
theorem exec_fabricSetRole (c : Cmd) (s : State) : exec (.fabricSetRole c) s = execFabricSetRole c s := rfl
theorem exec_fabricSetFreeMode (c : Cmd) (s : State) : exec (.fabricSetFreeMode c) s = execFabricSetFreeMode c s := rfl
theorem exec_fabricTicket (c : Cmd) (s : State) : exec (.fabricTicket c) s = execFabricTicket c s := rfl
theorem exec_fabricSetBudget (c : Cmd) (s : State) : exec (.fabricSetBudget c) s = execFabricSetBudget c s := rfl
theorem exec_fabricAddSpares (c : Cmd) (s : State) : exec (.fabricAddSpares c) s = execFabricAddSpares c s := rfl
theorem exec_poolMap (c : Cmd) (s : State) : exec (.poolMap c) s = execPoolMap c s := rfl
theorem exec_poolUnmap (c : Cmd) (s : State) : exec (.poolUnmap c) s = execPoolUnmap c s := rfl
theorem exec_poolProtect (c : Cmd) (s : State) : exec (.poolProtect c) s = execPoolProtect c s := rfl
theorem exec_poolFrameInfo (c : Cmd) (s : State) : exec (.poolFrameInfo c) s = execPoolFrameInfo c s := rfl
theorem exec_poolHeatRead (c : Cmd) (s : State) : exec (.poolHeatRead c) s = execPoolHeatRead c s := rfl
theorem exec_poolMove (c : Cmd) (s : State) : exec (.poolMove c) s = execPoolMove c s := rfl
theorem exec_poolResolve (c : Cmd) (s : State) : exec (.poolResolve c) s = execPoolResolve c s := rfl
theorem exec_poolSetHome (c : Cmd) (s : State) : exec (.poolSetHome c) s = execPoolSetHome c s := rfl
theorem exec_poolAttachTray (c : Cmd) (s : State) : exec (.poolAttachTray c) s = execPoolAttachTray c s := rfl
theorem exec_poolDetachTray (c : Cmd) (s : State) : exec (.poolDetachTray c) s = execPoolDetachTray c s := rfl
theorem exec_poolSetPolicy (c : Cmd) (s : State) : exec (.poolSetPolicy c) s = execPoolSetPolicy c s := rfl
theorem exec_poolEnableClass (c : Cmd) (s : State) : exec (.poolEnableClass c) s = execPoolEnableClass c s := rfl
theorem exec_astCreate (c : Cmd) (s : State) : exec (.astCreate c) s = execAstCreate c s := rfl
theorem exec_astDestroy (c : Cmd) (s : State) : exec (.astDestroy c) s = execAstDestroy c s := rfl
theorem exec_astInvalidate (c : Cmd) (s : State) : exec (.astInvalidate c) s = execAstInvalidate c s := rfl
theorem exec_astInfo (c : Cmd) (s : State) : exec (.astInfo c) s = execAstInfo c s := rfl
theorem exec_astPteRead (c : Cmd) (s : State) : exec (.astPteRead c) s = execAstPteRead c s := rfl
theorem exec_windowSet (c : Cmd) (s : State) : exec (.windowSet c) s = execWindowSet c s := rfl
theorem exec_windowClear (c : Cmd) (s : State) : exec (.windowClear c) s = execWindowClear c s := rfl
theorem exec_domainCreate (c : Cmd) (s : State) : exec (.domainCreate c) s = execDomainCreate c s := rfl
theorem exec_domainDestroy (c : Cmd) (s : State) : exec (.domainDestroy c) s = execDomainDestroy c s := rfl
theorem exec_domainAddAgent (c : Cmd) (s : State) : exec (.domainAddAgent c) s = execDomainAddAgent c s := rfl
theorem exec_domainRemoveAgent (c : Cmd) (s : State) : exec (.domainRemoveAgent c) s = execDomainRemoveAgent c s := rfl
theorem exec_domainSetRange (c : Cmd) (s : State) : exec (.domainSetRange c) s = execDomainSetRange c s := rfl
theorem exec_snapCreate (c : Cmd) (s : State) : exec (.snapCreate c) s = execSnapCreate c s := rfl
theorem exec_snapDestroy (c : Cmd) (s : State) : exec (.snapDestroy c) s = execSnapDestroy c s := rfl
theorem exec_snapInfo (c : Cmd) (s : State) : exec (.snapInfo c) s = execSnapInfo c s := rfl
theorem exec_progLoadLib (c : Cmd) (s : State) : exec (.progLoadLib c) s = execProgLoadLib c s := rfl
theorem exec_progLoad (c : Cmd) (s : State) : exec (.progLoad c) s = execProgLoad c s := rfl
theorem exec_progReplace (c : Cmd) (s : State) : exec (.progReplace c) s = execProgReplace c s := rfl
theorem exec_progUnload (c : Cmd) (s : State) : exec (.progUnload c) s = execProgUnload c s := rfl
theorem exec_progInfo (c : Cmd) (s : State) : exec (.progInfo c) s = execProgInfo c s := rfl
theorem exec_progCellRead (c : Cmd) (s : State) : exec (.progCellRead c) s = execProgCellRead c s := rfl
theorem exec_progStalls (c : Cmd) (s : State) : exec (.progStalls c) s = execProgStalls c s := rfl
theorem exec_progCounters (c : Cmd) (s : State) : exec (.progCounters c) s = execProgCounters c s := rfl
theorem exec_progSetSigner (c : Cmd) (s : State) : exec (.progSetSigner c) s = execProgSetSigner c s := rfl
theorem exec_progSetQuota (c : Cmd) (s : State) : exec (.progSetQuota c) s = execProgSetQuota c s := rfl
theorem exec_collOpen (c : Cmd) (s : State) : exec (.collOpen c) s = execCollOpen c s := rfl
theorem exec_collClose (c : Cmd) (s : State) : exec (.collClose c) s = execCollClose c s := rfl
theorem exec_collSetOpt (c : Cmd) (s : State) : exec (.collSetOpt c) s = execCollSetOpt c s := rfl
theorem exec_collStats (c : Cmd) (s : State) : exec (.collStats c) s = execCollStats c s := rfl
theorem exec_collRehost (c : Cmd) (s : State) : exec (.collRehost c) s = execCollRehost c s := rfl
theorem exec_embCreate (c : Cmd) (s : State) : exec (.embCreate c) s = execEmbCreate c s := rfl
theorem exec_embDestroy (c : Cmd) (s : State) : exec (.embDestroy c) s = execEmbDestroy c s := rfl
theorem exec_embSetDefault (c : Cmd) (s : State) : exec (.embSetDefault c) s = execEmbSetDefault c s := rfl
theorem exec_embReplaceRows (c : Cmd) (s : State) : exec (.embReplaceRows c) s = execEmbReplaceRows c s := rfl
theorem exec_embCloseStep (c : Cmd) (s : State) : exec (.embCloseStep c) s = execEmbCloseStep c s := rfl
theorem exec_embStepInfo (c : Cmd) (s : State) : exec (.embStepInfo c) s = execEmbStepInfo c s := rfl
theorem exec_embHotSet (c : Cmd) (s : State) : exec (.embHotSet c) s = execEmbHotSet c s := rfl
theorem exec_embHotRefresh (c : Cmd) (s : State) : exec (.embHotRefresh c) s = execEmbHotRefresh c s := rfl
theorem exec_embMoveRows (c : Cmd) (s : State) : exec (.embMoveRows c) s = execEmbMoveRows c s := rfl
theorem exec_embStats (c : Cmd) (s : State) : exec (.embStats c) s = execEmbStats c s := rfl
theorem exec_searchCreate (c : Cmd) (s : State) : exec (.searchCreate c) s = execSearchCreate c s := rfl
theorem exec_searchDestroy (c : Cmd) (s : State) : exec (.searchDestroy c) s = execSearchDestroy c s := rfl
theorem exec_searchQuery (c : Cmd) (s : State) : exec (.searchQuery c) s = execSearchQuery c s := rfl
theorem exec_searchDelete (c : Cmd) (s : State) : exec (.searchDelete c) s = execSearchDelete c s := rfl
theorem exec_searchRepair (c : Cmd) (s : State) : exec (.searchRepair c) s = execSearchRepair c s := rfl
theorem exec_searchInfo (c : Cmd) (s : State) : exec (.searchInfo c) s = execSearchInfo c s := rfl
theorem exec_searchStats (c : Cmd) (s : State) : exec (.searchStats c) s = execSearchStats c s := rfl
theorem exec_attnOpen (c : Cmd) (s : State) : exec (.attnOpen c) s = execAttnOpen c s := rfl
theorem exec_attnClose (c : Cmd) (s : State) : exec (.attnClose c) s = execAttnClose c s := rfl
theorem exec_attnStats (c : Cmd) (s : State) : exec (.attnStats c) s = execAttnStats c s := rfl
theorem exec_serveCreate (c : Cmd) (s : State) : exec (.serveCreate c) s = execServeCreate c s := rfl
theorem exec_serveSetMap (c : Cmd) (s : State) : exec (.serveSetMap c) s = execServeSetMap c s := rfl
theorem exec_serveOwnerInfo (c : Cmd) (s : State) : exec (.serveOwnerInfo c) s = execServeOwnerInfo c s := rfl
theorem exec_serveDestroy (c : Cmd) (s : State) : exec (.serveDestroy c) s = execServeDestroy c s := rfl
theorem exec_serveStats (c : Cmd) (s : State) : exec (.serveStats c) s = execServeStats c s := rfl
theorem exec_shapeSetPart (c : Cmd) (s : State) : exec (.shapeSetPart c) s = execShapeSetPart c s := rfl
theorem exec_shapeStats (c : Cmd) (s : State) : exec (.shapeStats c) s = execShapeStats c s := rfl
theorem exec_gateSet (c : Cmd) (s : State) : exec (.gateSet c) s = execGateSet c s := rfl
theorem exec_timeSet (c : Cmd) (s : State) : exec (.timeSet c) s = execTimeSet c s := rfl
theorem exec_timeSetSource (c : Cmd) (s : State) : exec (.timeSetSource c) s = execTimeSetSource c s := rfl
theorem exec_timeSetUpstream (c : Cmd) (s : State) : exec (.timeSetUpstream c) s = execTimeSetUpstream c s := rfl
theorem exec_coreStats (c : Cmd) (s : State) : exec (.coreStats c) s = execCoreStats c s := rfl
theorem exec_regionFence (c : Cmd) (s : State) : exec (.regionFence c) s = execRegionFence c s := rfl
theorem exec_regionUnfence (c : Cmd) (s : State) : exec (.regionUnfence c) s = execRegionUnfence c s := rfl
theorem exec_rasStats (c : Cmd) (s : State) : exec (.rasStats c) s = execRasStats c s := rfl
theorem exec_healthRead (c : Cmd) (s : State) : exec (.healthRead c) s = execHealthRead c s := rfl
theorem exec_powerSetState (c : Cmd) (s : State) : exec (.powerSetState c) s = execPowerSetState c s := rfl
theorem exec_powerSetRegion (c : Cmd) (s : State) : exec (.powerSetRegion c) s = execPowerSetRegion c s := rfl
theorem exec_powerStats (c : Cmd) (s : State) : exec (.powerStats c) s = execPowerStats c s := rfl
theorem exec_lanternRead (c : Cmd) (s : State) : exec (.lanternRead c) s = execLanternRead c s := rfl
theorem exec_lanternLogRead (c : Cmd) (s : State) : exec (.lanternLogRead c) s = execLanternLogRead c s := rfl
theorem exec_lanternStats (c : Cmd) (s : State) : exec (.lanternStats c) s = execLanternStats c s := rfl
theorem exec_dbWrite (fn q part value : Nat) (s : State) : exec (.dbWrite fn q part value) s = execDbWrite fn q part value s := rfl
theorem exec_descriptorFetch (desc : Option (List Byte)) (s : State) : exec (.descriptorFetch desc) s = execDescriptorFetch desc s := rfl
theorem exec_commandCompletion (fn qp : Nat) (outOk : Bool) (s : State) : exec (.commandCompletion fn qp outOk) s = execCommandCompletion fn qp outOk s := rfl
theorem exec_coalTimer (fn qp : Nat) (s : State) : exec (.coalTimer fn qp) s = execCoalTimer fn qp s := rfl
theorem exec_qreset (fn : Nat) (s : State) : exec (.qreset fn) s = execQreset fn s := rfl
theorem exec_qpEnable (fn q value : Nat) (s : State) : exec (.qpEnable fn q value) s = execQpEnable fn q value s := rfl
theorem exec_qpDisable (fn q value : Nat) (s : State) : exec (.qpDisable fn q value) s = execQpDisable fn q value s := rfl
theorem exec_mbxGo (len offset : Nat) (s : State) : exec (.mbxGo len offset) s = execMbxGo len offset s := rfl
theorem exec_mbxLast (len offset : Nat) (s : State) : exec (.mbxLast len offset) s = execMbxLast len offset s := rfl
theorem exec_mbxAbort (s : State) : exec (.mbxAbort) s = execMbxAbort s := rfl
theorem exec_bundleVerifyDone (s : State) : exec (.bundleVerifyDone) s = execBundleVerifyDone s := rfl
theorem exec_hbmInitDone (s : State) : exec (.hbmInitDone) s = execHbmInitDone s := rfl
theorem exec_ftimeRead (part : Nat) (s : State) : exec (.ftimeRead part) s = execFtimeRead part s := rfl
theorem exec_hysDroppedRead (fn : Nat) (s : State) : exec (.hysDroppedRead fn) s = execHysDroppedRead fn s := rfl
theorem exec_portCfgEnSet (p value : Nat) (s : State) : exec (.portCfgEnSet p value) s = execPortCfgEnSet p value s := rfl
theorem exec_portCfgEnClear (p value : Nat) (s : State) : exec (.portCfgEnClear p value) s = execPortCfgEnClear p value s := rfl
theorem exec_poolHeatCfgWrite (value : Nat) (s : State) : exec (.poolHeatCfgWrite value) s = execPoolHeatCfgWrite value s := rfl
theorem exec_poolPolicyCfgWrite (value : Nat) (s : State) : exec (.poolPolicyCfgWrite value) s = execPoolPolicyCfgWrite value s := rfl
theorem exec_registerWrite (fn off size value : Nat) (s : State) : exec (.registerWrite fn off size value) s = execRegisterWrite fn off size value s := rfl
theorem exec_powerOn (s : State) : exec (.powerOn) s = execPowerOn s := rfl
theorem exec_sysResetAssert (s : State) : exec (.sysResetAssert) s = execSysResetAssert s := rfl
theorem exec_sysResetDeassert (s : State) : exec (.sysResetDeassert) s = execSysResetDeassert s := rfl
theorem exec_perstMgtAssert (s : State) : exec (.perstMgtAssert) s = execPerstMgtAssert s := rfl
theorem exec_perstMgtDeassert (s : State) : exec (.perstMgtDeassert) s = execPerstMgtDeassert s := rfl
theorem exec_functionLevelReset (fn : Nat) (s : State) : exec (.functionLevelReset fn) s = execFunctionLevelReset fn s := rfl
theorem exec_hbPerstAssert (k : Nat) (s : State) : exec (.hbPerstAssert k) s = execHbPerstAssert k s := rfl
theorem exec_hbPerstDeassert (k : Nat) (s : State) : exec (.hbPerstDeassert k) s = execHbPerstDeassert k s := rfl
theorem exec_inputLow (s : State) : exec (.inputLow) s = execInputLow s := rfl
theorem exec_inputFail (s : State) : exec (.inputFail) s = execInputFail s := rfl
theorem exec_refclkLost (b : Nat) (ports : List Nat) (s : State) : exec (.refclkLost b ports) s = execRefclkLost b ports s := rfl
theorem exec_refclkBothLost (s : State) : exec (.refclkBothLost) s = execRefclkBothLost s := rfl
theorem exec_refclkSwitchback (ports : List Nat) (s : State) : exec (.refclkSwitchback ports) s = execRefclkSwitchback ports s := rfl
theorem exec_regionIdleTrim (r : Nat) (s : State) : exec (.regionIdleTrim r) s = execRegionIdleTrim r s := rfl
theorem exec_chipHoodEntry (s : State) : exec (.chipHoodEntry) s = execChipHoodEntry s := rfl
theorem exec_lpAckTimeout (s : State) : exec (.lpAckTimeout) s = execLpAckTimeout s := rfl
theorem exec_wake (regions : List Nat) (s : State) : exec (.wake regions) s = execWake regions s := rfl
theorem exec_powerStateDrainTimeout (s : State) : exec (.powerStateDrainTimeout) s = execPowerStateDrainTimeout s := rfl
theorem exec_powerTick (vin pin : Nat) (s : State) : exec (.powerTick vin pin) s = execPowerTick vin pin s := rfl
theorem exec_capTrim (s : State) : exec (.capTrim) s = execCapTrim s := rfl
theorem exec_currentGuard (s : State) : exec (.currentGuard) s = execCurrentGuard s := rfl
theorem exec_guardRelease (s : State) : exec (.guardRelease) s = execGuardRelease s := rfl
theorem exec_thermSample (n : Nat) (t : Int) (s : State) : exec (.thermSample n t) s = execThermSample n t s := rfl
theorem exec_thermalHold (r : Nat) (s : State) : exec (.thermalHold r) s = execThermalHold r s := rfl
theorem exec_thermalTrip (s : State) : exec (.thermalTrip) s = execThermalTrip s := rfl
theorem exec_idcode (s : State) : exec (.idcode) s = execIdcode s := rfl
theorem exec_samplePreload (pps t10m test float : Bool) (shift : Nat) (s : State) : exec (.samplePreload pps t10m test float shift) s = execSamplePreload pps t10m test float shift s := rfl
theorem exec_extest (pps t10m test float : Bool) (shift : Nat) (s : State) : exec (.extest pps t10m test float shift) s = execExtest pps t10m test float shift s := rfl
theorem exec_clamp (s : State) : exec (.clamp) s = execClamp s := rfl
theorem exec_highz (s : State) : exec (.highz) s = execHighz s := rfl
theorem exec_bypass (s : State) : exec (.bypass) s = execBypass s := rfl
theorem exec_debugStatus (s : State) : exec (.debugStatus) s = execDebugStatus s := rfl
theorem exec_debugUnlock (token : List Byte) (s : State) : exec (.debugUnlock token) s = execDebugUnlock token s := rfl
theorem exec_jtagTrst (s : State) : exec (.jtagTrst) s = execJtagTrst s := rfl
theorem exec_snpInv (p : Req) (s : State) : exec (.snpInv p) s = execSnpInv p s := rfl
theorem exec_snpShare (p : Req) (s : State) : exec (.snpShare p) s = execSnpShare p s := rfl
theorem exec_inputRecover (s : State) : exec (.inputRecover) s = execInputRecover s := rfl
theorem exec_refclkRestored (b : Nat) (s : State) : exec (.refclkRestored b) s = execRefclkRestored b s := rfl
theorem exec_timeRefRestored (pps : Bool) (s : State) : exec (.timeRefRestored pps) s = execTimeRefRestored pps s := rfl
theorem exec_laneLossOfSignal (n : Nat) (lanes : List Nat) (s : State) : exec (.laneLossOfSignal n lanes) s = execLaneLossOfSignal n lanes s := rfl
theorem exec_numvfsWrite (n : Nat) (enable : Bool) (s : State) : exec (.numvfsWrite n enable) s = execNumvfsWrite n enable s := rfl
theorem exec_hdmDecoderWrite (bridge index base sizeGib part ast vbase : Nat) (commit : Bool) (s : State) : exec (.hdmDecoderWrite bridge index base sizeGib part ast vbase commit) s = execHdmDecoderWrite bridge index base sizeGib part ast vbase commit s := rfl

end Sys2Proof.Machine
end

