-- ==== Sys2Proof/Laws/KMap.lean ====
section
/-! SUPPORT. Laws/KMap.lean: the laws of the finite maps and of memory as a map of bytes: a read after a write, and that
every operation keeps the canonical form. -/
namespace Sys2Proof.Machine

/-! ## Maps -/

@[simp] theorem kfind_kset_self {α : Type} (m : List (Nat × α)) (k : Nat) (v : α) : kfind (kset m k v) k = some v := by
  induction m with
  | nil => simp [kset, kfind]
  | cons e m ih =>
    obtain ⟨j, w⟩ := e
    simp only [kset]
    split
    · simp [kfind]
    · split
      · simp [kfind]
      · rename_i h1 h2
        have : j ≠ k := fun h => h2 h.symm
        simp [kfind, this, ih]

@[simp] theorem kfind_kset_other {α : Type} (m : List (Nat × α)) (k j : Nat) (v : α) (h : j ≠ k) :
    kfind (kset m k v) j = kfind m j := by
  induction m with
  | nil => simp [kset, kfind, Ne.symm h]
  | cons e m ih =>
    obtain ⟨i, w⟩ := e
    simp only [kset]
    split
    · simp [kfind, Ne.symm h]
    · split
      · rename_i h2
        subst h2
        simp [kfind, Ne.symm h]
      · simp only [kfind]
        split
        · rfl
        · exact ih

@[simp] theorem kget_kset_self {α : Type} (m : List (Nat × α)) (k : Nat) (v d : α) : kget (kset m k v) k d = v := by
  simp [kget]

@[simp] theorem kget_kset_other {α : Type} (m : List (Nat × α)) (k j : Nat) (v d : α) (h : j ≠ k) :
    kget (kset m k v) j d = kget m j d := by
  simp [kget, h]

theorem kfind_eq_none_of_lt {α : Type} (m : List (Nat × α)) (k : Nat) (h : ∀ e ∈ m, k < e.1) : kfind m k = none := by
  induction m with
  | nil => rfl
  | cons e m ih =>
    obtain ⟨j, w⟩ := e
    have hj : k < j := h (j, w) (by simp)
    simp only [kfind]
    rw [if_neg (by omega)]
    exact ih fun e he => h e (by simp [he])

/-- In a sorted map every later key is greater than the first. -/
theorem ksorted_lt {α : Type} (j : Nat) (w : α) (m : List (Nat × α)) (h : ksorted ((j, w) :: m) = true) :
    ∀ e ∈ m, j < e.1 := by
  induction m generalizing j w with
  | nil => simp
  | cons f m ih =>
    obtain ⟨i, v⟩ := f
    simp only [ksorted, Bool.and_eq_true, decide_eq_true_eq] at h
    intro e he
    rcases List.mem_cons.mp he with rfl | he
    · exact h.1
    · exact lt_trans h.1 (ih i v h.2 e he)

theorem ksorted_tail {α : Type} (e : Nat × α) (m : List (Nat × α)) (h : ksorted (e :: m) = true) : ksorted m = true := by
  obtain ⟨j, w⟩ := e
  cases m with
  | nil => rfl
  | cons f m =>
    obtain ⟨i, v⟩ := f
    simp only [ksorted, Bool.and_eq_true] at h
    exact h.2

theorem ksorted_cons {α : Type} (j : Nat) (w : α) (m : List (Nat × α)) (h : ksorted m = true) (hl : ∀ e ∈ m, j < e.1) :
    ksorted ((j, w) :: m) = true := by
  cases m with
  | nil => rfl
  | cons f m =>
    obtain ⟨i, v⟩ := f
    simp only [ksorted, Bool.and_eq_true, decide_eq_true_eq]
    exact ⟨hl (i, v) (by simp), h⟩

theorem mem_kset {α : Type} (m : List (Nat × α)) (k : Nat) (v : α) (e : Nat × α) (h : e ∈ kset m k v) :
    e = (k, v) ∨ e ∈ m := by
  induction m with
  | nil => simpa [kset] using h
  | cons f m ih =>
    obtain ⟨j, w⟩ := f
    simp only [kset] at h
    split at h
    · simpa using h
    · split at h
      · rcases List.mem_cons.mp h with h | h
        · exact .inl h
        · exact .inr (by simp [h])
      · rcases List.mem_cons.mp h with h | h
        · exact .inr (by simp [h])
        · rcases ih h with h | h
          · exact .inl h
          · exact .inr (by simp [h])

theorem mem_kdel {α : Type} (m : List (Nat × α)) (k : Nat) (e : Nat × α) (h : e ∈ kdel m k) : e ∈ m := by
  induction m with
  | nil => simp [kdel] at h
  | cons f m ih =>
    obtain ⟨j, w⟩ := f
    simp only [kdel] at h
    split at h
    · simp [h]
    · rcases List.mem_cons.mp h with h | h
      · simp [h]
      · simp [ih h]

theorem ksorted_kset {α : Type} (m : List (Nat × α)) (k : Nat) (v : α) (h : ksorted m = true) : ksorted (kset m k v) = true := by
  induction m with
  | nil => rfl
  | cons f m ih =>
    obtain ⟨j, w⟩ := f
    have hl := ksorted_lt j w m h
    have ht := ksorted_tail _ _ h
    simp only [kset]
    split
    · rename_i hk
      exact ksorted_cons k v _ h fun e he => by
        rcases List.mem_cons.mp he with rfl | he
        · exact hk
        · exact lt_trans hk (hl e he)
    · split
      · rename_i hk
        subst hk
        exact ksorted_cons _ v m ht hl
      · rename_i h1 h2
        refine ksorted_cons j w _ (ih ht) fun e he => ?_
        rcases mem_kset m k v e he with rfl | he
        · simp only; omega
        · exact hl e he

theorem ksorted_kdel {α : Type} (m : List (Nat × α)) (k : Nat) (h : ksorted m = true) : ksorted (kdel m k) = true := by
  induction m with
  | nil => rfl
  | cons f m ih =>
    obtain ⟨j, w⟩ := f
    simp only [kdel]
    split
    · exact ksorted_tail _ _ h
    · exact ksorted_cons j w _ (ih (ksorted_tail _ _ h)) fun e he => ksorted_lt j w m h e (mem_kdel m k e he)

theorem ksorted_filter {α : Type} (m : List (Nat × α)) (p : Nat × α → Bool) (h : ksorted m = true) :
    ksorted (m.filter p) = true := by
  induction m with
  | nil => rfl
  | cons f m ih =>
    obtain ⟨j, w⟩ := f
    rw [List.filter_cons]
    split
    · exact ksorted_cons j w _ (ih (ksorted_tail _ _ h)) fun e he => ksorted_lt j w m h e (List.mem_of_mem_filter he)
    · exact ih (ksorted_tail _ _ h)

theorem kfind_kdel_self {α : Type} (m : List (Nat × α)) (k : Nat) (h : ksorted m = true) : kfind (kdel m k) k = none := by
  induction m with
  | nil => rfl
  | cons f m ih =>
    obtain ⟨j, w⟩ := f
    simp only [kdel]
    split
    · rename_i hj
      subst hj
      exact kfind_eq_none_of_lt m _ (ksorted_lt _ w m h)
    · rename_i hj
      simp only [kfind, hj, if_false]
      exact ih (ksorted_tail _ _ h)

@[simp] theorem kfind_kdel_other {α : Type} (m : List (Nat × α)) (k j : Nat) (h : j ≠ k) : kfind (kdel m k) j = kfind m j := by
  induction m with
  | nil => rfl
  | cons f m ih =>
    obtain ⟨i, w⟩ := f
    simp only [kdel]
    split
    · rename_i hi
      subst hi
      simp [kfind, Ne.symm h]
    · simp only [kfind]
      split
      · rfl
      · exact ih

/-! ## Memory: canonical form -/

theorem memWf_nil : memWf [] = true := rfl

theorem memWf_iff (m : List (Nat × Byte)) : memWf m = true ↔ ksorted m = true ∧ ∀ c ∈ m, c.2 ≠ unlistedByte := by
  simp [memWf]

theorem memWf_setByte (m : List (Nat × Byte)) (a : Nat) (b : Byte) (h : memWf m = true) : memWf (setByte m a b) = true := by
  rw [memWf_iff] at h ⊢
  unfold setByte
  split
  · exact ⟨ksorted_kdel m a h.1, fun c hc => h.2 c (mem_kdel m a c hc)⟩
  · rename_i hb
    refine ⟨ksorted_kset m a b h.1, fun c hc => ?_⟩
    rcases mem_kset m a b c hc with rfl | hc
    · exact hb
    · exact h.2 c hc

theorem memWf_writeBytes (m : List (Nat × Byte)) (a : Nat) (l : List Byte) (h : memWf m = true) :
    memWf (writeBytes m a l) = true := by
  induction l generalizing m a with
  | nil => exact h
  | cons b l ih => exact ih _ _ (memWf_setByte m a b h)

theorem memWf_filter (m : List (Nat × Byte)) (p : Nat × Byte → Bool) (h : memWf m = true) : memWf (m.filter p) = true := by
  rw [memWf_iff] at h ⊢
  exact ⟨ksorted_filter m p h.1, fun c hc => h.2 c (List.mem_of_mem_filter hc)⟩

theorem memWf_clearBytes (m : List (Nat × Byte)) (a n : Nat) (h : memWf m = true) : memWf (clearBytes m a n) = true :=
  memWf_filter m _ h

/-! ## Memory: a read after a write -/

theorem byteAt_setByte_self (m : List (Nat × Byte)) (a : Nat) (b : Byte) (h : memWf m = true) :
    byteAt (setByte m a b) a = b := by
  rw [memWf_iff] at h
  unfold setByte byteAt kget
  split
  · rename_i hb
    simp [kfind_kdel_self m a h.1, hb]
  · simp

@[simp] theorem byteAt_setByte_other (m : List (Nat × Byte)) (a x : Nat) (b : Byte) (h : x ≠ a) :
    byteAt (setByte m a b) x = byteAt m x := by
  unfold setByte byteAt kget
  split <;> simp [h]

/-- Bytes outside a written range stay as they are. -/
theorem byteAt_writeBytes_outside (m : List (Nat × Byte)) (a x : Nat) (l : List Byte) (h : x < a ∨ a + l.length ≤ x) :
    byteAt (writeBytes m a l) x = byteAt m x := by
  induction l generalizing m a with
  | nil => rfl
  | cons b l ih =>
    simp only [List.length_cons] at h
    rw [writeBytes, ih _ _ (by omega), byteAt_setByte_other _ _ _ _ (by omega)]

/-- Bytes of a written range are those written. -/
theorem byteAt_writeBytes_inside (m : List (Nat × Byte)) (a i : Nat) (l : List Byte) (hm : memWf m = true) (h : i < l.length) :
    byteAt (writeBytes m a l) (a + i) = l[i] := by
  induction l generalizing m a i with
  | nil => simp at h
  | cons b l ih =>
    rw [writeBytes]
    cases i with
    | zero =>
      rw [Nat.add_zero, byteAt_writeBytes_outside _ _ _ _ (by omega)]
      exact byteAt_setByte_self m a b hm
    | succ i =>
      have := ih (setByte m a b) (a + 1) i (memWf_setByte m a b hm) (by simpa using h)
      rw [show a + (i + 1) = a + 1 + i by omega, this]
      simp

@[simp] theorem length_readBytes (m : List (Nat × Byte)) (a n : Nat) : (readBytes m a n).length = n := by
  induction n generalizing a with
  | zero => rfl
  | succ n ih => simp [readBytes, ih]

theorem getElem_readBytes (m : List (Nat × Byte)) (a n i : Nat) (h : i < (readBytes m a n).length) :
    (readBytes m a n)[i] = byteAt m (a + i) := by
  induction n generalizing a i with
  | zero => simp at h
  | succ n ih =>
    cases i with
    | zero => simp [readBytes]
    | succ i =>
      simp only [readBytes, List.getElem_cons_succ]
      rw [ih (a + 1) i (by simpa using h)]
      congr 1
      omega

/-- Reading what was written gives it back. -/
theorem readBytes_writeBytes (m : List (Nat × Byte)) (a : Nat) (l : List Byte) (h : memWf m = true) :
    readBytes (writeBytes m a l) a l.length = l := by
  apply List.ext_getElem
  · simp
  · intro i h1 h2
    rw [getElem_readBytes, byteAt_writeBytes_inside m a i l h h2]

/-! ## Numbers as bytes -/

@[simp] theorem length_leBytes (n v : Nat) : (leBytes n v).length = n := by
  induction n generalizing v with
  | zero => rfl
  | succ n ih => simp [leBytes, ih]

theorem leNat_leBytes (n v : Nat) : leNat (leBytes n v) = v % 256 ^ n := by
  induction n generalizing v with
  | zero => simp [leBytes, leNat, Nat.mod_one]
  | succ n ih =>
    simp only [leBytes, leNat, ih, BitVec.toNat_ofNat]
    rw [show (256 : Nat) ^ (n + 1) = 256 * 256 ^ n by ring, Nat.mod_mul]

end Sys2Proof.Machine
end

