-- ==== Sys2Proof/Laws/State.lean ====
section
/-! SUPPORT. Laws/State.lean: for each named update of the state, which fields it leaves as they are, one lemma a field, and
what it writes. -/
namespace Sys2Proof.Machine

variable (s : State)

/-! ## bumpBy -/

@[simp] theorem bumpBy_pending (c : Ctr) (w n : Nat) : (bumpBy s c w n).pending = s.pending := rfl
@[simp] theorem bumpBy_freeCtr (c : Ctr) (w n : Nat) : (bumpBy s c w n).freeCtr = s.freeCtr := rfl
@[simp] theorem bumpBy_nextId (c : Ctr) (w n : Nat) : (bumpBy s c w n).nextId = s.nextId := rfl
@[simp] theorem bumpBy_part (c : Ctr) (w n : Nat) : (bumpBy s c w n).part = s.part := rfl
@[simp] theorem bumpBy_clk (c : Ctr) (w n : Nat) : (bumpBy s c w n).clk = s.clk := rfl
@[simp] theorem bumpBy_ftime (c : Ctr) (w n : Nat) : (bumpBy s c w n).ftime = s.ftime := rfl
@[simp] theorem bumpBy_cfg (c : Ctr) (w n : Nat) : (bumpBy s c w n).cfg = s.cfg := rfl
@[simp] theorem bumpBy_ing (c : Ctr) (w n : Nat) : (bumpBy s c w n).ing = s.ing := rfl
@[simp] theorem bumpBy_mem (c : Ctr) (w n : Nat) : (bumpBy s c w n).mem = s.mem := rfl
@[simp] theorem bumpBy_xl (c : Ctr) (w n : Nat) : (bumpBy s c w n).xl = s.xl := rfl
@[simp] theorem bumpBy_coh (c : Ctr) (w n : Nat) : (bumpBy s c w n).coh = s.coh := rfl
@[simp] theorem bumpBy_lports (c : Ctr) (w n : Nat) : (bumpBy s c w n).lports = s.lports := rfl
@[simp] theorem bumpBy_core (c : Ctr) (w n : Nat) : (bumpBy s c w n).core = s.core := rfl
@[simp] theorem bumpBy_hys (c : Ctr) (w n : Nat) : (bumpBy s c w n).hys = s.hys := rfl
@[simp] theorem bumpBy_fm (c : Ctr) (w n : Nat) : (bumpBy s c w n).fm = s.fm := rfl
@[simp] theorem bumpBy_snap (c : Ctr) (w n : Nat) : (bumpBy s c w n).snap = s.snap := rfl
@[simp] theorem bumpBy_fab (c : Ctr) (w n : Nat) : (bumpBy s c w n).fab = s.fab := rfl
@[simp] theorem bumpBy_buckets (c : Ctr) (w n : Nat) : (bumpBy s c w n).buckets = s.buckets := rfl
@[simp] theorem bumpBy_shape (c : Ctr) (w n : Nat) : (bumpBy s c w n).shape = s.shape := rfl
@[simp] theorem bumpBy_tk (c : Ctr) (w n : Nat) : (bumpBy s c w n).tk = s.tk := rfl
@[simp] theorem bumpBy_parts (c : Ctr) (w n : Nat) : (bumpBy s c w n).parts = s.parts := rfl
@[simp] theorem bumpBy_sec (c : Ctr) (w n : Nat) : (bumpBy s c w n).sec = s.sec := rfl
@[simp] theorem bumpBy_ras (c : Ctr) (w n : Nat) : (bumpBy s c w n).ras = s.ras := rfl
@[simp] theorem bumpBy_waits (c : Ctr) (w n : Nat) : (bumpBy s c w n).waits = s.waits := rfl
@[simp] theorem bumpBy_power (c : Ctr) (w n : Nat) : (bumpBy s c w n).power = s.power := rfl
@[simp] theorem bumpBy_boot (c : Ctr) (w n : Nat) : (bumpBy s c w n).boot = s.boot := rfl
@[simp] theorem bumpBy_lan (c : Ctr) (w n : Nat) : (bumpBy s c w n).lan = s.lan := rfl
@[simp] theorem bumpBy_tap (c : Ctr) (w n : Nat) : (bumpBy s c w n).tap = s.tap := rfl
@[simp] theorem bumpBy_outs (c : Ctr) (w n : Nat) : (bumpBy s c w n).outs = s.outs := rfl
@[simp] theorem bumpBy_reports (c : Ctr) (w n : Nat) : (bumpBy s c w n).reports = s.reports := rfl
@[simp] theorem bumpBy_log (c : Ctr) (w n : Nat) : (bumpBy s c w n).log = s.log := rfl

/-! ## bump -/

@[simp] theorem bump_pending (c : Ctr) : (bump s c).pending = s.pending := rfl
@[simp] theorem bump_freeCtr (c : Ctr) : (bump s c).freeCtr = s.freeCtr := rfl
@[simp] theorem bump_nextId (c : Ctr) : (bump s c).nextId = s.nextId := rfl
@[simp] theorem bump_part (c : Ctr) : (bump s c).part = s.part := rfl
@[simp] theorem bump_clk (c : Ctr) : (bump s c).clk = s.clk := rfl
@[simp] theorem bump_ftime (c : Ctr) : (bump s c).ftime = s.ftime := rfl
@[simp] theorem bump_cfg (c : Ctr) : (bump s c).cfg = s.cfg := rfl
@[simp] theorem bump_ing (c : Ctr) : (bump s c).ing = s.ing := rfl
@[simp] theorem bump_mem (c : Ctr) : (bump s c).mem = s.mem := rfl
@[simp] theorem bump_xl (c : Ctr) : (bump s c).xl = s.xl := rfl
@[simp] theorem bump_coh (c : Ctr) : (bump s c).coh = s.coh := rfl
@[simp] theorem bump_lports (c : Ctr) : (bump s c).lports = s.lports := rfl
@[simp] theorem bump_core (c : Ctr) : (bump s c).core = s.core := rfl
@[simp] theorem bump_hys (c : Ctr) : (bump s c).hys = s.hys := rfl
@[simp] theorem bump_fm (c : Ctr) : (bump s c).fm = s.fm := rfl
@[simp] theorem bump_snap (c : Ctr) : (bump s c).snap = s.snap := rfl
@[simp] theorem bump_fab (c : Ctr) : (bump s c).fab = s.fab := rfl
@[simp] theorem bump_buckets (c : Ctr) : (bump s c).buckets = s.buckets := rfl
@[simp] theorem bump_shape (c : Ctr) : (bump s c).shape = s.shape := rfl
@[simp] theorem bump_tk (c : Ctr) : (bump s c).tk = s.tk := rfl
@[simp] theorem bump_parts (c : Ctr) : (bump s c).parts = s.parts := rfl
@[simp] theorem bump_sec (c : Ctr) : (bump s c).sec = s.sec := rfl
@[simp] theorem bump_ras (c : Ctr) : (bump s c).ras = s.ras := rfl
@[simp] theorem bump_waits (c : Ctr) : (bump s c).waits = s.waits := rfl
@[simp] theorem bump_power (c : Ctr) : (bump s c).power = s.power := rfl
@[simp] theorem bump_boot (c : Ctr) : (bump s c).boot = s.boot := rfl
@[simp] theorem bump_lan (c : Ctr) : (bump s c).lan = s.lan := rfl
@[simp] theorem bump_tap (c : Ctr) : (bump s c).tap = s.tap := rfl
@[simp] theorem bump_outs (c : Ctr) : (bump s c).outs = s.outs := rfl
@[simp] theorem bump_reports (c : Ctr) : (bump s c).reports = s.reports := rfl
@[simp] theorem bump_log (c : Ctr) : (bump s c).log = s.log := rfl

/-! ## note -/

@[simp] theorem note_pending (k : String) (a : List Nat) : (note s k a).pending = s.pending := rfl
@[simp] theorem note_freeCtr (k : String) (a : List Nat) : (note s k a).freeCtr = s.freeCtr := rfl
@[simp] theorem note_nextId (k : String) (a : List Nat) : (note s k a).nextId = s.nextId := rfl
@[simp] theorem note_part (k : String) (a : List Nat) : (note s k a).part = s.part := rfl
@[simp] theorem note_clk (k : String) (a : List Nat) : (note s k a).clk = s.clk := rfl
@[simp] theorem note_ftime (k : String) (a : List Nat) : (note s k a).ftime = s.ftime := rfl
@[simp] theorem note_cfg (k : String) (a : List Nat) : (note s k a).cfg = s.cfg := rfl
@[simp] theorem note_ctrs (k : String) (a : List Nat) : (note s k a).ctrs = s.ctrs := rfl
@[simp] theorem note_ing (k : String) (a : List Nat) : (note s k a).ing = s.ing := rfl
@[simp] theorem note_mem (k : String) (a : List Nat) : (note s k a).mem = s.mem := rfl
@[simp] theorem note_xl (k : String) (a : List Nat) : (note s k a).xl = s.xl := rfl
@[simp] theorem note_coh (k : String) (a : List Nat) : (note s k a).coh = s.coh := rfl
@[simp] theorem note_lports (k : String) (a : List Nat) : (note s k a).lports = s.lports := rfl
@[simp] theorem note_core (k : String) (a : List Nat) : (note s k a).core = s.core := rfl
@[simp] theorem note_hys (k : String) (a : List Nat) : (note s k a).hys = s.hys := rfl
@[simp] theorem note_fm (k : String) (a : List Nat) : (note s k a).fm = s.fm := rfl
@[simp] theorem note_snap (k : String) (a : List Nat) : (note s k a).snap = s.snap := rfl
@[simp] theorem note_fab (k : String) (a : List Nat) : (note s k a).fab = s.fab := rfl
@[simp] theorem note_buckets (k : String) (a : List Nat) : (note s k a).buckets = s.buckets := rfl
@[simp] theorem note_shape (k : String) (a : List Nat) : (note s k a).shape = s.shape := rfl
@[simp] theorem note_tk (k : String) (a : List Nat) : (note s k a).tk = s.tk := rfl
@[simp] theorem note_parts (k : String) (a : List Nat) : (note s k a).parts = s.parts := rfl
@[simp] theorem note_sec (k : String) (a : List Nat) : (note s k a).sec = s.sec := rfl
@[simp] theorem note_ras (k : String) (a : List Nat) : (note s k a).ras = s.ras := rfl
@[simp] theorem note_waits (k : String) (a : List Nat) : (note s k a).waits = s.waits := rfl
@[simp] theorem note_power (k : String) (a : List Nat) : (note s k a).power = s.power := rfl
@[simp] theorem note_boot (k : String) (a : List Nat) : (note s k a).boot = s.boot := rfl
@[simp] theorem note_lan (k : String) (a : List Nat) : (note s k a).lan = s.lan := rfl
@[simp] theorem note_tap (k : String) (a : List Nat) : (note s k a).tap = s.tap := rfl
@[simp] theorem note_outs (k : String) (a : List Nat) : (note s k a).outs = s.outs := rfl
@[simp] theorem note_reports (k : String) (a : List Nat) : (note s k a).reports = s.reports := rfl

/-! ## emit -/

@[simp] theorem emit_pending (o : Out) : (emit s o).pending = s.pending := rfl
@[simp] theorem emit_freeCtr (o : Out) : (emit s o).freeCtr = s.freeCtr := rfl
@[simp] theorem emit_nextId (o : Out) : (emit s o).nextId = s.nextId := rfl
@[simp] theorem emit_part (o : Out) : (emit s o).part = s.part := rfl
@[simp] theorem emit_clk (o : Out) : (emit s o).clk = s.clk := rfl
@[simp] theorem emit_ftime (o : Out) : (emit s o).ftime = s.ftime := rfl
@[simp] theorem emit_cfg (o : Out) : (emit s o).cfg = s.cfg := rfl
@[simp] theorem emit_ctrs (o : Out) : (emit s o).ctrs = s.ctrs := rfl
@[simp] theorem emit_ing (o : Out) : (emit s o).ing = s.ing := rfl
@[simp] theorem emit_mem (o : Out) : (emit s o).mem = s.mem := rfl
@[simp] theorem emit_xl (o : Out) : (emit s o).xl = s.xl := rfl
@[simp] theorem emit_coh (o : Out) : (emit s o).coh = s.coh := rfl
@[simp] theorem emit_lports (o : Out) : (emit s o).lports = s.lports := rfl
@[simp] theorem emit_core (o : Out) : (emit s o).core = s.core := rfl
@[simp] theorem emit_hys (o : Out) : (emit s o).hys = s.hys := rfl
@[simp] theorem emit_fm (o : Out) : (emit s o).fm = s.fm := rfl
@[simp] theorem emit_snap (o : Out) : (emit s o).snap = s.snap := rfl
@[simp] theorem emit_fab (o : Out) : (emit s o).fab = s.fab := rfl
@[simp] theorem emit_buckets (o : Out) : (emit s o).buckets = s.buckets := rfl
@[simp] theorem emit_shape (o : Out) : (emit s o).shape = s.shape := rfl
@[simp] theorem emit_tk (o : Out) : (emit s o).tk = s.tk := rfl
@[simp] theorem emit_parts (o : Out) : (emit s o).parts = s.parts := rfl
@[simp] theorem emit_sec (o : Out) : (emit s o).sec = s.sec := rfl
@[simp] theorem emit_ras (o : Out) : (emit s o).ras = s.ras := rfl
@[simp] theorem emit_waits (o : Out) : (emit s o).waits = s.waits := rfl
@[simp] theorem emit_power (o : Out) : (emit s o).power = s.power := rfl
@[simp] theorem emit_boot (o : Out) : (emit s o).boot = s.boot := rfl
@[simp] theorem emit_lan (o : Out) : (emit s o).lan = s.lan := rfl
@[simp] theorem emit_tap (o : Out) : (emit s o).tap = s.tap := rfl
@[simp] theorem emit_reports (o : Out) : (emit s o).reports = s.reports := rfl
@[simp] theorem emit_log (o : Out) : (emit s o).log = s.log := rfl

/-! ## bumpFree -/

@[simp] theorem bumpFree_pending : (bumpFree s).pending = s.pending := rfl
@[simp] theorem bumpFree_nextId : (bumpFree s).nextId = s.nextId := rfl
@[simp] theorem bumpFree_part : (bumpFree s).part = s.part := rfl
@[simp] theorem bumpFree_clk : (bumpFree s).clk = s.clk := rfl
@[simp] theorem bumpFree_ftime : (bumpFree s).ftime = s.ftime := rfl
@[simp] theorem bumpFree_cfg : (bumpFree s).cfg = s.cfg := rfl
@[simp] theorem bumpFree_ctrs : (bumpFree s).ctrs = s.ctrs := rfl
@[simp] theorem bumpFree_ing : (bumpFree s).ing = s.ing := rfl
@[simp] theorem bumpFree_mem : (bumpFree s).mem = s.mem := rfl
@[simp] theorem bumpFree_xl : (bumpFree s).xl = s.xl := rfl
@[simp] theorem bumpFree_coh : (bumpFree s).coh = s.coh := rfl
@[simp] theorem bumpFree_lports : (bumpFree s).lports = s.lports := rfl
@[simp] theorem bumpFree_core : (bumpFree s).core = s.core := rfl
@[simp] theorem bumpFree_hys : (bumpFree s).hys = s.hys := rfl
@[simp] theorem bumpFree_fm : (bumpFree s).fm = s.fm := rfl
@[simp] theorem bumpFree_snap : (bumpFree s).snap = s.snap := rfl
@[simp] theorem bumpFree_fab : (bumpFree s).fab = s.fab := rfl
@[simp] theorem bumpFree_buckets : (bumpFree s).buckets = s.buckets := rfl
@[simp] theorem bumpFree_shape : (bumpFree s).shape = s.shape := rfl
@[simp] theorem bumpFree_tk : (bumpFree s).tk = s.tk := rfl
@[simp] theorem bumpFree_parts : (bumpFree s).parts = s.parts := rfl
@[simp] theorem bumpFree_sec : (bumpFree s).sec = s.sec := rfl
@[simp] theorem bumpFree_ras : (bumpFree s).ras = s.ras := rfl
@[simp] theorem bumpFree_waits : (bumpFree s).waits = s.waits := rfl
@[simp] theorem bumpFree_power : (bumpFree s).power = s.power := rfl
@[simp] theorem bumpFree_boot : (bumpFree s).boot = s.boot := rfl
@[simp] theorem bumpFree_lan : (bumpFree s).lan = s.lan := rfl
@[simp] theorem bumpFree_tap : (bumpFree s).tap = s.tap := rfl
@[simp] theorem bumpFree_outs : (bumpFree s).outs = s.outs := rfl
@[simp] theorem bumpFree_reports : (bumpFree s).reports = s.reports := rfl
@[simp] theorem bumpFree_log : (bumpFree s).log = s.log := rfl

/-! ## markBusy -/

@[simp] theorem markBusy_pending : (markBusy s).pending = s.pending := rfl
@[simp] theorem markBusy_freeCtr : (markBusy s).freeCtr = s.freeCtr := rfl
@[simp] theorem markBusy_nextId : (markBusy s).nextId = s.nextId := rfl
@[simp] theorem markBusy_part : (markBusy s).part = s.part := rfl
@[simp] theorem markBusy_clk : (markBusy s).clk = s.clk := rfl
@[simp] theorem markBusy_ftime : (markBusy s).ftime = s.ftime := rfl
@[simp] theorem markBusy_cfg : (markBusy s).cfg = s.cfg := rfl
@[simp] theorem markBusy_ctrs : (markBusy s).ctrs = s.ctrs := rfl
@[simp] theorem markBusy_ing : (markBusy s).ing = s.ing := rfl
@[simp] theorem markBusy_mem : (markBusy s).mem = s.mem := rfl
@[simp] theorem markBusy_xl : (markBusy s).xl = s.xl := rfl
@[simp] theorem markBusy_coh : (markBusy s).coh = s.coh := rfl
@[simp] theorem markBusy_lports : (markBusy s).lports = s.lports := rfl
@[simp] theorem markBusy_core : (markBusy s).core = s.core := rfl
@[simp] theorem markBusy_hys : (markBusy s).hys = s.hys := rfl
@[simp] theorem markBusy_fm : (markBusy s).fm = s.fm := rfl
@[simp] theorem markBusy_snap : (markBusy s).snap = s.snap := rfl
@[simp] theorem markBusy_fab : (markBusy s).fab = s.fab := rfl
@[simp] theorem markBusy_buckets : (markBusy s).buckets = s.buckets := rfl
@[simp] theorem markBusy_shape : (markBusy s).shape = s.shape := rfl
@[simp] theorem markBusy_tk : (markBusy s).tk = s.tk := rfl
@[simp] theorem markBusy_parts : (markBusy s).parts = s.parts := rfl
@[simp] theorem markBusy_sec : (markBusy s).sec = s.sec := rfl
@[simp] theorem markBusy_ras : (markBusy s).ras = s.ras := rfl
@[simp] theorem markBusy_waits : (markBusy s).waits = s.waits := rfl
@[simp] theorem markBusy_boot : (markBusy s).boot = s.boot := rfl
@[simp] theorem markBusy_lan : (markBusy s).lan = s.lan := rfl
@[simp] theorem markBusy_tap : (markBusy s).tap = s.tap := rfl
@[simp] theorem markBusy_outs : (markBusy s).outs = s.outs := rfl
@[simp] theorem markBusy_reports : (markBusy s).reports = s.reports := rfl
@[simp] theorem markBusy_log : (markBusy s).log = s.log := rfl

/-! ## modLport -/

@[simp] theorem modLport_pending (n : Nat) (f : LPort → LPort) : (modLport s n f).pending = s.pending := rfl
@[simp] theorem modLport_freeCtr (n : Nat) (f : LPort → LPort) : (modLport s n f).freeCtr = s.freeCtr := rfl
@[simp] theorem modLport_nextId (n : Nat) (f : LPort → LPort) : (modLport s n f).nextId = s.nextId := rfl
@[simp] theorem modLport_part (n : Nat) (f : LPort → LPort) : (modLport s n f).part = s.part := rfl
@[simp] theorem modLport_clk (n : Nat) (f : LPort → LPort) : (modLport s n f).clk = s.clk := rfl
@[simp] theorem modLport_ftime (n : Nat) (f : LPort → LPort) : (modLport s n f).ftime = s.ftime := rfl
@[simp] theorem modLport_cfg (n : Nat) (f : LPort → LPort) : (modLport s n f).cfg = s.cfg := rfl
@[simp] theorem modLport_ctrs (n : Nat) (f : LPort → LPort) : (modLport s n f).ctrs = s.ctrs := rfl
@[simp] theorem modLport_ing (n : Nat) (f : LPort → LPort) : (modLport s n f).ing = s.ing := rfl
@[simp] theorem modLport_mem (n : Nat) (f : LPort → LPort) : (modLport s n f).mem = s.mem := rfl
@[simp] theorem modLport_xl (n : Nat) (f : LPort → LPort) : (modLport s n f).xl = s.xl := rfl
@[simp] theorem modLport_coh (n : Nat) (f : LPort → LPort) : (modLport s n f).coh = s.coh := rfl
@[simp] theorem modLport_core (n : Nat) (f : LPort → LPort) : (modLport s n f).core = s.core := rfl
@[simp] theorem modLport_hys (n : Nat) (f : LPort → LPort) : (modLport s n f).hys = s.hys := rfl
@[simp] theorem modLport_fm (n : Nat) (f : LPort → LPort) : (modLport s n f).fm = s.fm := rfl
@[simp] theorem modLport_snap (n : Nat) (f : LPort → LPort) : (modLport s n f).snap = s.snap := rfl
@[simp] theorem modLport_fab (n : Nat) (f : LPort → LPort) : (modLport s n f).fab = s.fab := rfl
@[simp] theorem modLport_buckets (n : Nat) (f : LPort → LPort) : (modLport s n f).buckets = s.buckets := rfl
@[simp] theorem modLport_shape (n : Nat) (f : LPort → LPort) : (modLport s n f).shape = s.shape := rfl
@[simp] theorem modLport_tk (n : Nat) (f : LPort → LPort) : (modLport s n f).tk = s.tk := rfl
@[simp] theorem modLport_parts (n : Nat) (f : LPort → LPort) : (modLport s n f).parts = s.parts := rfl
@[simp] theorem modLport_sec (n : Nat) (f : LPort → LPort) : (modLport s n f).sec = s.sec := rfl
@[simp] theorem modLport_ras (n : Nat) (f : LPort → LPort) : (modLport s n f).ras = s.ras := rfl
@[simp] theorem modLport_waits (n : Nat) (f : LPort → LPort) : (modLport s n f).waits = s.waits := rfl
@[simp] theorem modLport_power (n : Nat) (f : LPort → LPort) : (modLport s n f).power = s.power := rfl
@[simp] theorem modLport_boot (n : Nat) (f : LPort → LPort) : (modLport s n f).boot = s.boot := rfl
@[simp] theorem modLport_lan (n : Nat) (f : LPort → LPort) : (modLport s n f).lan = s.lan := rfl
@[simp] theorem modLport_tap (n : Nat) (f : LPort → LPort) : (modLport s n f).tap = s.tap := rfl
@[simp] theorem modLport_outs (n : Nat) (f : LPort → LPort) : (modLport s n f).outs = s.outs := rfl
@[simp] theorem modLport_reports (n : Nat) (f : LPort → LPort) : (modLport s n f).reports = s.reports := rfl
@[simp] theorem modLport_log (n : Nat) (f : LPort → LPort) : (modLport s n f).log = s.log := rfl

/-! ## modFn -/

@[simp] theorem modFn_pending (n : Nat) (f : Fn → Fn) : (modFn s n f).pending = s.pending := rfl
@[simp] theorem modFn_freeCtr (n : Nat) (f : Fn → Fn) : (modFn s n f).freeCtr = s.freeCtr := rfl
@[simp] theorem modFn_nextId (n : Nat) (f : Fn → Fn) : (modFn s n f).nextId = s.nextId := rfl
@[simp] theorem modFn_part (n : Nat) (f : Fn → Fn) : (modFn s n f).part = s.part := rfl
@[simp] theorem modFn_clk (n : Nat) (f : Fn → Fn) : (modFn s n f).clk = s.clk := rfl
@[simp] theorem modFn_ftime (n : Nat) (f : Fn → Fn) : (modFn s n f).ftime = s.ftime := rfl
@[simp] theorem modFn_cfg (n : Nat) (f : Fn → Fn) : (modFn s n f).cfg = s.cfg := rfl
@[simp] theorem modFn_ctrs (n : Nat) (f : Fn → Fn) : (modFn s n f).ctrs = s.ctrs := rfl
@[simp] theorem modFn_ing (n : Nat) (f : Fn → Fn) : (modFn s n f).ing = s.ing := rfl
@[simp] theorem modFn_mem (n : Nat) (f : Fn → Fn) : (modFn s n f).mem = s.mem := rfl
@[simp] theorem modFn_xl (n : Nat) (f : Fn → Fn) : (modFn s n f).xl = s.xl := rfl
@[simp] theorem modFn_coh (n : Nat) (f : Fn → Fn) : (modFn s n f).coh = s.coh := rfl
@[simp] theorem modFn_lports (n : Nat) (f : Fn → Fn) : (modFn s n f).lports = s.lports := rfl
@[simp] theorem modFn_core (n : Nat) (f : Fn → Fn) : (modFn s n f).core = s.core := rfl
@[simp] theorem modFn_fm (n : Nat) (f : Fn → Fn) : (modFn s n f).fm = s.fm := rfl
@[simp] theorem modFn_snap (n : Nat) (f : Fn → Fn) : (modFn s n f).snap = s.snap := rfl
@[simp] theorem modFn_fab (n : Nat) (f : Fn → Fn) : (modFn s n f).fab = s.fab := rfl
@[simp] theorem modFn_buckets (n : Nat) (f : Fn → Fn) : (modFn s n f).buckets = s.buckets := rfl
@[simp] theorem modFn_shape (n : Nat) (f : Fn → Fn) : (modFn s n f).shape = s.shape := rfl
@[simp] theorem modFn_tk (n : Nat) (f : Fn → Fn) : (modFn s n f).tk = s.tk := rfl
@[simp] theorem modFn_parts (n : Nat) (f : Fn → Fn) : (modFn s n f).parts = s.parts := rfl
@[simp] theorem modFn_sec (n : Nat) (f : Fn → Fn) : (modFn s n f).sec = s.sec := rfl
@[simp] theorem modFn_ras (n : Nat) (f : Fn → Fn) : (modFn s n f).ras = s.ras := rfl
@[simp] theorem modFn_waits (n : Nat) (f : Fn → Fn) : (modFn s n f).waits = s.waits := rfl
@[simp] theorem modFn_power (n : Nat) (f : Fn → Fn) : (modFn s n f).power = s.power := rfl
@[simp] theorem modFn_boot (n : Nat) (f : Fn → Fn) : (modFn s n f).boot = s.boot := rfl
@[simp] theorem modFn_lan (n : Nat) (f : Fn → Fn) : (modFn s n f).lan = s.lan := rfl
@[simp] theorem modFn_tap (n : Nat) (f : Fn → Fn) : (modFn s n f).tap = s.tap := rfl
@[simp] theorem modFn_outs (n : Nat) (f : Fn → Fn) : (modFn s n f).outs = s.outs := rfl
@[simp] theorem modFn_reports (n : Nat) (f : Fn → Fn) : (modFn s n f).reports = s.reports := rfl
@[simp] theorem modFn_log (n : Nat) (f : Fn → Fn) : (modFn s n f).log = s.log := rfl

/-! ## modOut -/

@[simp] theorem modOut_pending (n : Nat) (f : OutReq → OutReq) : (modOut s n f).pending = s.pending := rfl
@[simp] theorem modOut_freeCtr (n : Nat) (f : OutReq → OutReq) : (modOut s n f).freeCtr = s.freeCtr := rfl
@[simp] theorem modOut_nextId (n : Nat) (f : OutReq → OutReq) : (modOut s n f).nextId = s.nextId := rfl
@[simp] theorem modOut_part (n : Nat) (f : OutReq → OutReq) : (modOut s n f).part = s.part := rfl
@[simp] theorem modOut_clk (n : Nat) (f : OutReq → OutReq) : (modOut s n f).clk = s.clk := rfl
@[simp] theorem modOut_ftime (n : Nat) (f : OutReq → OutReq) : (modOut s n f).ftime = s.ftime := rfl
@[simp] theorem modOut_cfg (n : Nat) (f : OutReq → OutReq) : (modOut s n f).cfg = s.cfg := rfl
@[simp] theorem modOut_ctrs (n : Nat) (f : OutReq → OutReq) : (modOut s n f).ctrs = s.ctrs := rfl
@[simp] theorem modOut_mem (n : Nat) (f : OutReq → OutReq) : (modOut s n f).mem = s.mem := rfl
@[simp] theorem modOut_xl (n : Nat) (f : OutReq → OutReq) : (modOut s n f).xl = s.xl := rfl
@[simp] theorem modOut_coh (n : Nat) (f : OutReq → OutReq) : (modOut s n f).coh = s.coh := rfl
@[simp] theorem modOut_lports (n : Nat) (f : OutReq → OutReq) : (modOut s n f).lports = s.lports := rfl
@[simp] theorem modOut_core (n : Nat) (f : OutReq → OutReq) : (modOut s n f).core = s.core := rfl
@[simp] theorem modOut_hys (n : Nat) (f : OutReq → OutReq) : (modOut s n f).hys = s.hys := rfl
@[simp] theorem modOut_fm (n : Nat) (f : OutReq → OutReq) : (modOut s n f).fm = s.fm := rfl
@[simp] theorem modOut_snap (n : Nat) (f : OutReq → OutReq) : (modOut s n f).snap = s.snap := rfl
@[simp] theorem modOut_fab (n : Nat) (f : OutReq → OutReq) : (modOut s n f).fab = s.fab := rfl
@[simp] theorem modOut_buckets (n : Nat) (f : OutReq → OutReq) : (modOut s n f).buckets = s.buckets := rfl
@[simp] theorem modOut_shape (n : Nat) (f : OutReq → OutReq) : (modOut s n f).shape = s.shape := rfl
@[simp] theorem modOut_tk (n : Nat) (f : OutReq → OutReq) : (modOut s n f).tk = s.tk := rfl
@[simp] theorem modOut_parts (n : Nat) (f : OutReq → OutReq) : (modOut s n f).parts = s.parts := rfl
@[simp] theorem modOut_sec (n : Nat) (f : OutReq → OutReq) : (modOut s n f).sec = s.sec := rfl
@[simp] theorem modOut_ras (n : Nat) (f : OutReq → OutReq) : (modOut s n f).ras = s.ras := rfl
@[simp] theorem modOut_waits (n : Nat) (f : OutReq → OutReq) : (modOut s n f).waits = s.waits := rfl
@[simp] theorem modOut_power (n : Nat) (f : OutReq → OutReq) : (modOut s n f).power = s.power := rfl
@[simp] theorem modOut_boot (n : Nat) (f : OutReq → OutReq) : (modOut s n f).boot = s.boot := rfl
@[simp] theorem modOut_lan (n : Nat) (f : OutReq → OutReq) : (modOut s n f).lan = s.lan := rfl
@[simp] theorem modOut_tap (n : Nat) (f : OutReq → OutReq) : (modOut s n f).tap = s.tap := rfl
@[simp] theorem modOut_outs (n : Nat) (f : OutReq → OutReq) : (modOut s n f).outs = s.outs := rfl
@[simp] theorem modOut_reports (n : Nat) (f : OutReq → OutReq) : (modOut s n f).reports = s.reports := rfl
@[simp] theorem modOut_log (n : Nat) (f : OutReq → OutReq) : (modOut s n f).log = s.log := rfl

/-! ## bumpOwn -/

@[simp] theorem bumpOwn_pending (n : Nat) : (bumpOwn s n).pending = s.pending := rfl
@[simp] theorem bumpOwn_freeCtr (n : Nat) : (bumpOwn s n).freeCtr = s.freeCtr := rfl
@[simp] theorem bumpOwn_nextId (n : Nat) : (bumpOwn s n).nextId = s.nextId := rfl
@[simp] theorem bumpOwn_part (n : Nat) : (bumpOwn s n).part = s.part := rfl
@[simp] theorem bumpOwn_clk (n : Nat) : (bumpOwn s n).clk = s.clk := rfl
@[simp] theorem bumpOwn_ftime (n : Nat) : (bumpOwn s n).ftime = s.ftime := rfl
@[simp] theorem bumpOwn_cfg (n : Nat) : (bumpOwn s n).cfg = s.cfg := rfl
@[simp] theorem bumpOwn_ctrs (n : Nat) : (bumpOwn s n).ctrs = s.ctrs := rfl
@[simp] theorem bumpOwn_mem (n : Nat) : (bumpOwn s n).mem = s.mem := rfl
@[simp] theorem bumpOwn_xl (n : Nat) : (bumpOwn s n).xl = s.xl := rfl
@[simp] theorem bumpOwn_coh (n : Nat) : (bumpOwn s n).coh = s.coh := rfl
@[simp] theorem bumpOwn_lports (n : Nat) : (bumpOwn s n).lports = s.lports := rfl
@[simp] theorem bumpOwn_core (n : Nat) : (bumpOwn s n).core = s.core := rfl
@[simp] theorem bumpOwn_hys (n : Nat) : (bumpOwn s n).hys = s.hys := rfl
@[simp] theorem bumpOwn_fm (n : Nat) : (bumpOwn s n).fm = s.fm := rfl
@[simp] theorem bumpOwn_snap (n : Nat) : (bumpOwn s n).snap = s.snap := rfl
@[simp] theorem bumpOwn_fab (n : Nat) : (bumpOwn s n).fab = s.fab := rfl
@[simp] theorem bumpOwn_buckets (n : Nat) : (bumpOwn s n).buckets = s.buckets := rfl
@[simp] theorem bumpOwn_shape (n : Nat) : (bumpOwn s n).shape = s.shape := rfl
@[simp] theorem bumpOwn_tk (n : Nat) : (bumpOwn s n).tk = s.tk := rfl
@[simp] theorem bumpOwn_parts (n : Nat) : (bumpOwn s n).parts = s.parts := rfl
@[simp] theorem bumpOwn_sec (n : Nat) : (bumpOwn s n).sec = s.sec := rfl
@[simp] theorem bumpOwn_ras (n : Nat) : (bumpOwn s n).ras = s.ras := rfl
@[simp] theorem bumpOwn_waits (n : Nat) : (bumpOwn s n).waits = s.waits := rfl
@[simp] theorem bumpOwn_power (n : Nat) : (bumpOwn s n).power = s.power := rfl
@[simp] theorem bumpOwn_boot (n : Nat) : (bumpOwn s n).boot = s.boot := rfl
@[simp] theorem bumpOwn_lan (n : Nat) : (bumpOwn s n).lan = s.lan := rfl
@[simp] theorem bumpOwn_tap (n : Nat) : (bumpOwn s n).tap = s.tap := rfl
@[simp] theorem bumpOwn_outs (n : Nat) : (bumpOwn s n).outs = s.outs := rfl
@[simp] theorem bumpOwn_reports (n : Nat) : (bumpOwn s n).reports = s.reports := rfl
@[simp] theorem bumpOwn_log (n : Nat) : (bumpOwn s n).log = s.log := rfl

/-! ## setField -/

@[simp] theorem setField_pending (o lo w x : Nat) : (setField s o lo w x).pending = s.pending := rfl
@[simp] theorem setField_freeCtr (o lo w x : Nat) : (setField s o lo w x).freeCtr = s.freeCtr := rfl
@[simp] theorem setField_nextId (o lo w x : Nat) : (setField s o lo w x).nextId = s.nextId := rfl
@[simp] theorem setField_part (o lo w x : Nat) : (setField s o lo w x).part = s.part := rfl
@[simp] theorem setField_clk (o lo w x : Nat) : (setField s o lo w x).clk = s.clk := rfl
@[simp] theorem setField_ftime (o lo w x : Nat) : (setField s o lo w x).ftime = s.ftime := rfl
@[simp] theorem setField_ctrs (o lo w x : Nat) : (setField s o lo w x).ctrs = s.ctrs := rfl
@[simp] theorem setField_ing (o lo w x : Nat) : (setField s o lo w x).ing = s.ing := rfl
@[simp] theorem setField_mem (o lo w x : Nat) : (setField s o lo w x).mem = s.mem := rfl
@[simp] theorem setField_xl (o lo w x : Nat) : (setField s o lo w x).xl = s.xl := rfl
@[simp] theorem setField_coh (o lo w x : Nat) : (setField s o lo w x).coh = s.coh := rfl
@[simp] theorem setField_lports (o lo w x : Nat) : (setField s o lo w x).lports = s.lports := rfl
@[simp] theorem setField_core (o lo w x : Nat) : (setField s o lo w x).core = s.core := rfl
@[simp] theorem setField_hys (o lo w x : Nat) : (setField s o lo w x).hys = s.hys := rfl
@[simp] theorem setField_fm (o lo w x : Nat) : (setField s o lo w x).fm = s.fm := rfl
@[simp] theorem setField_snap (o lo w x : Nat) : (setField s o lo w x).snap = s.snap := rfl
@[simp] theorem setField_fab (o lo w x : Nat) : (setField s o lo w x).fab = s.fab := rfl
@[simp] theorem setField_buckets (o lo w x : Nat) : (setField s o lo w x).buckets = s.buckets := rfl
@[simp] theorem setField_shape (o lo w x : Nat) : (setField s o lo w x).shape = s.shape := rfl
@[simp] theorem setField_tk (o lo w x : Nat) : (setField s o lo w x).tk = s.tk := rfl
@[simp] theorem setField_parts (o lo w x : Nat) : (setField s o lo w x).parts = s.parts := rfl
@[simp] theorem setField_sec (o lo w x : Nat) : (setField s o lo w x).sec = s.sec := rfl
@[simp] theorem setField_ras (o lo w x : Nat) : (setField s o lo w x).ras = s.ras := rfl
@[simp] theorem setField_waits (o lo w x : Nat) : (setField s o lo w x).waits = s.waits := rfl
@[simp] theorem setField_power (o lo w x : Nat) : (setField s o lo w x).power = s.power := rfl
@[simp] theorem setField_boot (o lo w x : Nat) : (setField s o lo w x).boot = s.boot := rfl
@[simp] theorem setField_lan (o lo w x : Nat) : (setField s o lo w x).lan = s.lan := rfl
@[simp] theorem setField_tap (o lo w x : Nat) : (setField s o lo w x).tap = s.tap := rfl
@[simp] theorem setField_outs (o lo w x : Nat) : (setField s o lo w x).outs = s.outs := rfl
@[simp] theorem setField_reports (o lo w x : Nat) : (setField s o lo w x).reports = s.reports := rfl
@[simp] theorem setField_log (o lo w x : Nat) : (setField s o lo w x).log = s.log := rfl

/-! ## modPart -/

@[simp] theorem modPart_pending (n : Nat) (f : Partition → Partition) : (modPart s n f).pending = s.pending := rfl
@[simp] theorem modPart_freeCtr (n : Nat) (f : Partition → Partition) : (modPart s n f).freeCtr = s.freeCtr := rfl
@[simp] theorem modPart_nextId (n : Nat) (f : Partition → Partition) : (modPart s n f).nextId = s.nextId := rfl
@[simp] theorem modPart_part (n : Nat) (f : Partition → Partition) : (modPart s n f).part = s.part := rfl
@[simp] theorem modPart_clk (n : Nat) (f : Partition → Partition) : (modPart s n f).clk = s.clk := rfl
@[simp] theorem modPart_ftime (n : Nat) (f : Partition → Partition) : (modPart s n f).ftime = s.ftime := rfl
@[simp] theorem modPart_cfg (n : Nat) (f : Partition → Partition) : (modPart s n f).cfg = s.cfg := rfl
@[simp] theorem modPart_ctrs (n : Nat) (f : Partition → Partition) : (modPart s n f).ctrs = s.ctrs := rfl
@[simp] theorem modPart_ing (n : Nat) (f : Partition → Partition) : (modPart s n f).ing = s.ing := rfl
@[simp] theorem modPart_mem (n : Nat) (f : Partition → Partition) : (modPart s n f).mem = s.mem := rfl
@[simp] theorem modPart_xl (n : Nat) (f : Partition → Partition) : (modPart s n f).xl = s.xl := rfl
@[simp] theorem modPart_coh (n : Nat) (f : Partition → Partition) : (modPart s n f).coh = s.coh := rfl
@[simp] theorem modPart_lports (n : Nat) (f : Partition → Partition) : (modPart s n f).lports = s.lports := rfl
@[simp] theorem modPart_core (n : Nat) (f : Partition → Partition) : (modPart s n f).core = s.core := rfl
@[simp] theorem modPart_hys (n : Nat) (f : Partition → Partition) : (modPart s n f).hys = s.hys := rfl
@[simp] theorem modPart_fm (n : Nat) (f : Partition → Partition) : (modPart s n f).fm = s.fm := rfl
@[simp] theorem modPart_snap (n : Nat) (f : Partition → Partition) : (modPart s n f).snap = s.snap := rfl
@[simp] theorem modPart_fab (n : Nat) (f : Partition → Partition) : (modPart s n f).fab = s.fab := rfl
@[simp] theorem modPart_buckets (n : Nat) (f : Partition → Partition) : (modPart s n f).buckets = s.buckets := rfl
@[simp] theorem modPart_shape (n : Nat) (f : Partition → Partition) : (modPart s n f).shape = s.shape := rfl
@[simp] theorem modPart_tk (n : Nat) (f : Partition → Partition) : (modPart s n f).tk = s.tk := rfl
@[simp] theorem modPart_sec (n : Nat) (f : Partition → Partition) : (modPart s n f).sec = s.sec := rfl
@[simp] theorem modPart_ras (n : Nat) (f : Partition → Partition) : (modPart s n f).ras = s.ras := rfl
@[simp] theorem modPart_waits (n : Nat) (f : Partition → Partition) : (modPart s n f).waits = s.waits := rfl
@[simp] theorem modPart_power (n : Nat) (f : Partition → Partition) : (modPart s n f).power = s.power := rfl
@[simp] theorem modPart_boot (n : Nat) (f : Partition → Partition) : (modPart s n f).boot = s.boot := rfl
@[simp] theorem modPart_lan (n : Nat) (f : Partition → Partition) : (modPart s n f).lan = s.lan := rfl
@[simp] theorem modPart_tap (n : Nat) (f : Partition → Partition) : (modPart s n f).tap = s.tap := rfl
@[simp] theorem modPart_outs (n : Nat) (f : Partition → Partition) : (modPart s n f).outs = s.outs := rfl
@[simp] theorem modPart_reports (n : Nat) (f : Partition → Partition) : (modPart s n f).reports = s.reports := rfl
@[simp] theorem modPart_log (n : Nat) (f : Partition → Partition) : (modPart s n f).log = s.log := rfl

/-! ## modTier -/

@[simp] theorem modTier_pending (n : Nat) (f : TierEntry → TierEntry) : (modTier s n f).pending = s.pending := rfl
@[simp] theorem modTier_freeCtr (n : Nat) (f : TierEntry → TierEntry) : (modTier s n f).freeCtr = s.freeCtr := rfl
@[simp] theorem modTier_nextId (n : Nat) (f : TierEntry → TierEntry) : (modTier s n f).nextId = s.nextId := rfl
@[simp] theorem modTier_part (n : Nat) (f : TierEntry → TierEntry) : (modTier s n f).part = s.part := rfl
@[simp] theorem modTier_clk (n : Nat) (f : TierEntry → TierEntry) : (modTier s n f).clk = s.clk := rfl
@[simp] theorem modTier_ftime (n : Nat) (f : TierEntry → TierEntry) : (modTier s n f).ftime = s.ftime := rfl
@[simp] theorem modTier_cfg (n : Nat) (f : TierEntry → TierEntry) : (modTier s n f).cfg = s.cfg := rfl
@[simp] theorem modTier_ctrs (n : Nat) (f : TierEntry → TierEntry) : (modTier s n f).ctrs = s.ctrs := rfl
@[simp] theorem modTier_ing (n : Nat) (f : TierEntry → TierEntry) : (modTier s n f).ing = s.ing := rfl
@[simp] theorem modTier_xl (n : Nat) (f : TierEntry → TierEntry) : (modTier s n f).xl = s.xl := rfl
@[simp] theorem modTier_coh (n : Nat) (f : TierEntry → TierEntry) : (modTier s n f).coh = s.coh := rfl
@[simp] theorem modTier_lports (n : Nat) (f : TierEntry → TierEntry) : (modTier s n f).lports = s.lports := rfl
@[simp] theorem modTier_core (n : Nat) (f : TierEntry → TierEntry) : (modTier s n f).core = s.core := rfl
@[simp] theorem modTier_hys (n : Nat) (f : TierEntry → TierEntry) : (modTier s n f).hys = s.hys := rfl
@[simp] theorem modTier_fm (n : Nat) (f : TierEntry → TierEntry) : (modTier s n f).fm = s.fm := rfl
@[simp] theorem modTier_snap (n : Nat) (f : TierEntry → TierEntry) : (modTier s n f).snap = s.snap := rfl
@[simp] theorem modTier_fab (n : Nat) (f : TierEntry → TierEntry) : (modTier s n f).fab = s.fab := rfl
@[simp] theorem modTier_buckets (n : Nat) (f : TierEntry → TierEntry) : (modTier s n f).buckets = s.buckets := rfl
@[simp] theorem modTier_shape (n : Nat) (f : TierEntry → TierEntry) : (modTier s n f).shape = s.shape := rfl
@[simp] theorem modTier_tk (n : Nat) (f : TierEntry → TierEntry) : (modTier s n f).tk = s.tk := rfl
@[simp] theorem modTier_parts (n : Nat) (f : TierEntry → TierEntry) : (modTier s n f).parts = s.parts := rfl
@[simp] theorem modTier_sec (n : Nat) (f : TierEntry → TierEntry) : (modTier s n f).sec = s.sec := rfl
@[simp] theorem modTier_ras (n : Nat) (f : TierEntry → TierEntry) : (modTier s n f).ras = s.ras := rfl
@[simp] theorem modTier_waits (n : Nat) (f : TierEntry → TierEntry) : (modTier s n f).waits = s.waits := rfl
@[simp] theorem modTier_power (n : Nat) (f : TierEntry → TierEntry) : (modTier s n f).power = s.power := rfl
@[simp] theorem modTier_boot (n : Nat) (f : TierEntry → TierEntry) : (modTier s n f).boot = s.boot := rfl
@[simp] theorem modTier_lan (n : Nat) (f : TierEntry → TierEntry) : (modTier s n f).lan = s.lan := rfl
@[simp] theorem modTier_tap (n : Nat) (f : TierEntry → TierEntry) : (modTier s n f).tap = s.tap := rfl
@[simp] theorem modTier_outs (n : Nat) (f : TierEntry → TierEntry) : (modTier s n f).outs = s.outs := rfl
@[simp] theorem modTier_reports (n : Nat) (f : TierEntry → TierEntry) : (modTier s n f).reports = s.reports := rfl
@[simp] theorem modTier_log (n : Nat) (f : TierEntry → TierEntry) : (modTier s n f).log = s.log := rfl

/-! ## modOp -/

@[simp] theorem modOp_pending (n : Nat) (f : MemOp → MemOp) : (modOp s n f).pending = s.pending := rfl
@[simp] theorem modOp_freeCtr (n : Nat) (f : MemOp → MemOp) : (modOp s n f).freeCtr = s.freeCtr := rfl
@[simp] theorem modOp_nextId (n : Nat) (f : MemOp → MemOp) : (modOp s n f).nextId = s.nextId := rfl
@[simp] theorem modOp_part (n : Nat) (f : MemOp → MemOp) : (modOp s n f).part = s.part := rfl
@[simp] theorem modOp_clk (n : Nat) (f : MemOp → MemOp) : (modOp s n f).clk = s.clk := rfl
@[simp] theorem modOp_ftime (n : Nat) (f : MemOp → MemOp) : (modOp s n f).ftime = s.ftime := rfl
@[simp] theorem modOp_cfg (n : Nat) (f : MemOp → MemOp) : (modOp s n f).cfg = s.cfg := rfl
@[simp] theorem modOp_ctrs (n : Nat) (f : MemOp → MemOp) : (modOp s n f).ctrs = s.ctrs := rfl
@[simp] theorem modOp_ing (n : Nat) (f : MemOp → MemOp) : (modOp s n f).ing = s.ing := rfl
@[simp] theorem modOp_xl (n : Nat) (f : MemOp → MemOp) : (modOp s n f).xl = s.xl := rfl
@[simp] theorem modOp_coh (n : Nat) (f : MemOp → MemOp) : (modOp s n f).coh = s.coh := rfl
@[simp] theorem modOp_lports (n : Nat) (f : MemOp → MemOp) : (modOp s n f).lports = s.lports := rfl
@[simp] theorem modOp_core (n : Nat) (f : MemOp → MemOp) : (modOp s n f).core = s.core := rfl
@[simp] theorem modOp_hys (n : Nat) (f : MemOp → MemOp) : (modOp s n f).hys = s.hys := rfl
@[simp] theorem modOp_fm (n : Nat) (f : MemOp → MemOp) : (modOp s n f).fm = s.fm := rfl
@[simp] theorem modOp_snap (n : Nat) (f : MemOp → MemOp) : (modOp s n f).snap = s.snap := rfl
@[simp] theorem modOp_fab (n : Nat) (f : MemOp → MemOp) : (modOp s n f).fab = s.fab := rfl
@[simp] theorem modOp_buckets (n : Nat) (f : MemOp → MemOp) : (modOp s n f).buckets = s.buckets := rfl
@[simp] theorem modOp_shape (n : Nat) (f : MemOp → MemOp) : (modOp s n f).shape = s.shape := rfl
@[simp] theorem modOp_tk (n : Nat) (f : MemOp → MemOp) : (modOp s n f).tk = s.tk := rfl
@[simp] theorem modOp_parts (n : Nat) (f : MemOp → MemOp) : (modOp s n f).parts = s.parts := rfl
@[simp] theorem modOp_sec (n : Nat) (f : MemOp → MemOp) : (modOp s n f).sec = s.sec := rfl
@[simp] theorem modOp_ras (n : Nat) (f : MemOp → MemOp) : (modOp s n f).ras = s.ras := rfl
@[simp] theorem modOp_waits (n : Nat) (f : MemOp → MemOp) : (modOp s n f).waits = s.waits := rfl
@[simp] theorem modOp_power (n : Nat) (f : MemOp → MemOp) : (modOp s n f).power = s.power := rfl
@[simp] theorem modOp_boot (n : Nat) (f : MemOp → MemOp) : (modOp s n f).boot = s.boot := rfl
@[simp] theorem modOp_lan (n : Nat) (f : MemOp → MemOp) : (modOp s n f).lan = s.lan := rfl
@[simp] theorem modOp_tap (n : Nat) (f : MemOp → MemOp) : (modOp s n f).tap = s.tap := rfl
@[simp] theorem modOp_outs (n : Nat) (f : MemOp → MemOp) : (modOp s n f).outs = s.outs := rfl
@[simp] theorem modOp_reports (n : Nat) (f : MemOp → MemOp) : (modOp s n f).reports = s.reports := rfl
@[simp] theorem modOp_log (n : Nat) (f : MemOp → MemOp) : (modOp s n f).log = s.log := rfl

/-! ## setArb -/

@[simp] theorem setArb_pending (n : Nat) (a : Arb) : (setArb s n a).pending = s.pending := rfl
@[simp] theorem setArb_freeCtr (n : Nat) (a : Arb) : (setArb s n a).freeCtr = s.freeCtr := rfl
@[simp] theorem setArb_nextId (n : Nat) (a : Arb) : (setArb s n a).nextId = s.nextId := rfl
@[simp] theorem setArb_part (n : Nat) (a : Arb) : (setArb s n a).part = s.part := rfl
@[simp] theorem setArb_clk (n : Nat) (a : Arb) : (setArb s n a).clk = s.clk := rfl
@[simp] theorem setArb_ftime (n : Nat) (a : Arb) : (setArb s n a).ftime = s.ftime := rfl
@[simp] theorem setArb_cfg (n : Nat) (a : Arb) : (setArb s n a).cfg = s.cfg := rfl
@[simp] theorem setArb_ctrs (n : Nat) (a : Arb) : (setArb s n a).ctrs = s.ctrs := rfl
@[simp] theorem setArb_ing (n : Nat) (a : Arb) : (setArb s n a).ing = s.ing := rfl
@[simp] theorem setArb_xl (n : Nat) (a : Arb) : (setArb s n a).xl = s.xl := rfl
@[simp] theorem setArb_coh (n : Nat) (a : Arb) : (setArb s n a).coh = s.coh := rfl
@[simp] theorem setArb_lports (n : Nat) (a : Arb) : (setArb s n a).lports = s.lports := rfl
@[simp] theorem setArb_core (n : Nat) (a : Arb) : (setArb s n a).core = s.core := rfl
@[simp] theorem setArb_hys (n : Nat) (a : Arb) : (setArb s n a).hys = s.hys := rfl
@[simp] theorem setArb_fm (n : Nat) (a : Arb) : (setArb s n a).fm = s.fm := rfl
@[simp] theorem setArb_snap (n : Nat) (a : Arb) : (setArb s n a).snap = s.snap := rfl
@[simp] theorem setArb_fab (n : Nat) (a : Arb) : (setArb s n a).fab = s.fab := rfl
@[simp] theorem setArb_buckets (n : Nat) (a : Arb) : (setArb s n a).buckets = s.buckets := rfl
@[simp] theorem setArb_shape (n : Nat) (a : Arb) : (setArb s n a).shape = s.shape := rfl
@[simp] theorem setArb_tk (n : Nat) (a : Arb) : (setArb s n a).tk = s.tk := rfl
@[simp] theorem setArb_parts (n : Nat) (a : Arb) : (setArb s n a).parts = s.parts := rfl
@[simp] theorem setArb_sec (n : Nat) (a : Arb) : (setArb s n a).sec = s.sec := rfl
@[simp] theorem setArb_ras (n : Nat) (a : Arb) : (setArb s n a).ras = s.ras := rfl
@[simp] theorem setArb_waits (n : Nat) (a : Arb) : (setArb s n a).waits = s.waits := rfl
@[simp] theorem setArb_power (n : Nat) (a : Arb) : (setArb s n a).power = s.power := rfl
@[simp] theorem setArb_boot (n : Nat) (a : Arb) : (setArb s n a).boot = s.boot := rfl
@[simp] theorem setArb_lan (n : Nat) (a : Arb) : (setArb s n a).lan = s.lan := rfl
@[simp] theorem setArb_tap (n : Nat) (a : Arb) : (setArb s n a).tap = s.tap := rfl
@[simp] theorem setArb_outs (n : Nat) (a : Arb) : (setArb s n a).outs = s.outs := rfl
@[simp] theorem setArb_reports (n : Nat) (a : Arb) : (setArb s n a).reports = s.reports := rfl
@[simp] theorem setArb_log (n : Nat) (a : Arb) : (setArb s n a).log = s.log := rfl

/-! ## modAst -/

@[simp] theorem modAst_pending (n : Nat) (f : Ast → Ast) : (modAst s n f).pending = s.pending := rfl
@[simp] theorem modAst_freeCtr (n : Nat) (f : Ast → Ast) : (modAst s n f).freeCtr = s.freeCtr := rfl
@[simp] theorem modAst_nextId (n : Nat) (f : Ast → Ast) : (modAst s n f).nextId = s.nextId := rfl
@[simp] theorem modAst_part (n : Nat) (f : Ast → Ast) : (modAst s n f).part = s.part := rfl
@[simp] theorem modAst_clk (n : Nat) (f : Ast → Ast) : (modAst s n f).clk = s.clk := rfl
@[simp] theorem modAst_ftime (n : Nat) (f : Ast → Ast) : (modAst s n f).ftime = s.ftime := rfl
@[simp] theorem modAst_cfg (n : Nat) (f : Ast → Ast) : (modAst s n f).cfg = s.cfg := rfl
@[simp] theorem modAst_ctrs (n : Nat) (f : Ast → Ast) : (modAst s n f).ctrs = s.ctrs := rfl
@[simp] theorem modAst_ing (n : Nat) (f : Ast → Ast) : (modAst s n f).ing = s.ing := rfl
@[simp] theorem modAst_mem (n : Nat) (f : Ast → Ast) : (modAst s n f).mem = s.mem := rfl
@[simp] theorem modAst_coh (n : Nat) (f : Ast → Ast) : (modAst s n f).coh = s.coh := rfl
@[simp] theorem modAst_lports (n : Nat) (f : Ast → Ast) : (modAst s n f).lports = s.lports := rfl
@[simp] theorem modAst_core (n : Nat) (f : Ast → Ast) : (modAst s n f).core = s.core := rfl
@[simp] theorem modAst_hys (n : Nat) (f : Ast → Ast) : (modAst s n f).hys = s.hys := rfl
@[simp] theorem modAst_fm (n : Nat) (f : Ast → Ast) : (modAst s n f).fm = s.fm := rfl
@[simp] theorem modAst_snap (n : Nat) (f : Ast → Ast) : (modAst s n f).snap = s.snap := rfl
@[simp] theorem modAst_fab (n : Nat) (f : Ast → Ast) : (modAst s n f).fab = s.fab := rfl
@[simp] theorem modAst_buckets (n : Nat) (f : Ast → Ast) : (modAst s n f).buckets = s.buckets := rfl
@[simp] theorem modAst_shape (n : Nat) (f : Ast → Ast) : (modAst s n f).shape = s.shape := rfl
@[simp] theorem modAst_tk (n : Nat) (f : Ast → Ast) : (modAst s n f).tk = s.tk := rfl
@[simp] theorem modAst_parts (n : Nat) (f : Ast → Ast) : (modAst s n f).parts = s.parts := rfl
@[simp] theorem modAst_sec (n : Nat) (f : Ast → Ast) : (modAst s n f).sec = s.sec := rfl
@[simp] theorem modAst_ras (n : Nat) (f : Ast → Ast) : (modAst s n f).ras = s.ras := rfl
@[simp] theorem modAst_waits (n : Nat) (f : Ast → Ast) : (modAst s n f).waits = s.waits := rfl
@[simp] theorem modAst_power (n : Nat) (f : Ast → Ast) : (modAst s n f).power = s.power := rfl
@[simp] theorem modAst_boot (n : Nat) (f : Ast → Ast) : (modAst s n f).boot = s.boot := rfl
@[simp] theorem modAst_lan (n : Nat) (f : Ast → Ast) : (modAst s n f).lan = s.lan := rfl
@[simp] theorem modAst_tap (n : Nat) (f : Ast → Ast) : (modAst s n f).tap = s.tap := rfl
@[simp] theorem modAst_outs (n : Nat) (f : Ast → Ast) : (modAst s n f).outs = s.outs := rfl
@[simp] theorem modAst_reports (n : Nat) (f : Ast → Ast) : (modAst s n f).reports = s.reports := rfl
@[simp] theorem modAst_log (n : Nat) (f : Ast → Ast) : (modAst s n f).log = s.log := rfl

/-! ## modDom -/

@[simp] theorem modDom_pending (n : Nat) (f : Domain → Domain) : (modDom s n f).pending = s.pending := rfl
@[simp] theorem modDom_freeCtr (n : Nat) (f : Domain → Domain) : (modDom s n f).freeCtr = s.freeCtr := rfl
@[simp] theorem modDom_nextId (n : Nat) (f : Domain → Domain) : (modDom s n f).nextId = s.nextId := rfl
@[simp] theorem modDom_part (n : Nat) (f : Domain → Domain) : (modDom s n f).part = s.part := rfl
@[simp] theorem modDom_clk (n : Nat) (f : Domain → Domain) : (modDom s n f).clk = s.clk := rfl
@[simp] theorem modDom_ftime (n : Nat) (f : Domain → Domain) : (modDom s n f).ftime = s.ftime := rfl
@[simp] theorem modDom_cfg (n : Nat) (f : Domain → Domain) : (modDom s n f).cfg = s.cfg := rfl
@[simp] theorem modDom_ctrs (n : Nat) (f : Domain → Domain) : (modDom s n f).ctrs = s.ctrs := rfl
@[simp] theorem modDom_ing (n : Nat) (f : Domain → Domain) : (modDom s n f).ing = s.ing := rfl
@[simp] theorem modDom_mem (n : Nat) (f : Domain → Domain) : (modDom s n f).mem = s.mem := rfl
@[simp] theorem modDom_xl (n : Nat) (f : Domain → Domain) : (modDom s n f).xl = s.xl := rfl
@[simp] theorem modDom_lports (n : Nat) (f : Domain → Domain) : (modDom s n f).lports = s.lports := rfl
@[simp] theorem modDom_core (n : Nat) (f : Domain → Domain) : (modDom s n f).core = s.core := rfl
@[simp] theorem modDom_hys (n : Nat) (f : Domain → Domain) : (modDom s n f).hys = s.hys := rfl
@[simp] theorem modDom_fm (n : Nat) (f : Domain → Domain) : (modDom s n f).fm = s.fm := rfl
@[simp] theorem modDom_snap (n : Nat) (f : Domain → Domain) : (modDom s n f).snap = s.snap := rfl
@[simp] theorem modDom_fab (n : Nat) (f : Domain → Domain) : (modDom s n f).fab = s.fab := rfl
@[simp] theorem modDom_buckets (n : Nat) (f : Domain → Domain) : (modDom s n f).buckets = s.buckets := rfl
@[simp] theorem modDom_shape (n : Nat) (f : Domain → Domain) : (modDom s n f).shape = s.shape := rfl
@[simp] theorem modDom_tk (n : Nat) (f : Domain → Domain) : (modDom s n f).tk = s.tk := rfl
@[simp] theorem modDom_parts (n : Nat) (f : Domain → Domain) : (modDom s n f).parts = s.parts := rfl
@[simp] theorem modDom_sec (n : Nat) (f : Domain → Domain) : (modDom s n f).sec = s.sec := rfl
@[simp] theorem modDom_ras (n : Nat) (f : Domain → Domain) : (modDom s n f).ras = s.ras := rfl
@[simp] theorem modDom_waits (n : Nat) (f : Domain → Domain) : (modDom s n f).waits = s.waits := rfl
@[simp] theorem modDom_power (n : Nat) (f : Domain → Domain) : (modDom s n f).power = s.power := rfl
@[simp] theorem modDom_boot (n : Nat) (f : Domain → Domain) : (modDom s n f).boot = s.boot := rfl
@[simp] theorem modDom_lan (n : Nat) (f : Domain → Domain) : (modDom s n f).lan = s.lan := rfl
@[simp] theorem modDom_tap (n : Nat) (f : Domain → Domain) : (modDom s n f).tap = s.tap := rfl
@[simp] theorem modDom_outs (n : Nat) (f : Domain → Domain) : (modDom s n f).outs = s.outs := rfl
@[simp] theorem modDom_reports (n : Nat) (f : Domain → Domain) : (modDom s n f).reports = s.reports := rfl
@[simp] theorem modDom_log (n : Nat) (f : Domain → Domain) : (modDom s n f).log = s.log := rfl

/-! ## modRegion -/

@[simp] theorem modRegion_pending (n : Nat) (f : SharedRegion → SharedRegion) : (modRegion s n f).pending = s.pending := rfl
@[simp] theorem modRegion_freeCtr (n : Nat) (f : SharedRegion → SharedRegion) : (modRegion s n f).freeCtr = s.freeCtr := rfl
@[simp] theorem modRegion_nextId (n : Nat) (f : SharedRegion → SharedRegion) : (modRegion s n f).nextId = s.nextId := rfl
@[simp] theorem modRegion_part (n : Nat) (f : SharedRegion → SharedRegion) : (modRegion s n f).part = s.part := rfl
@[simp] theorem modRegion_clk (n : Nat) (f : SharedRegion → SharedRegion) : (modRegion s n f).clk = s.clk := rfl
@[simp] theorem modRegion_ftime (n : Nat) (f : SharedRegion → SharedRegion) : (modRegion s n f).ftime = s.ftime := rfl
@[simp] theorem modRegion_cfg (n : Nat) (f : SharedRegion → SharedRegion) : (modRegion s n f).cfg = s.cfg := rfl
@[simp] theorem modRegion_ctrs (n : Nat) (f : SharedRegion → SharedRegion) : (modRegion s n f).ctrs = s.ctrs := rfl
@[simp] theorem modRegion_ing (n : Nat) (f : SharedRegion → SharedRegion) : (modRegion s n f).ing = s.ing := rfl
@[simp] theorem modRegion_mem (n : Nat) (f : SharedRegion → SharedRegion) : (modRegion s n f).mem = s.mem := rfl
@[simp] theorem modRegion_xl (n : Nat) (f : SharedRegion → SharedRegion) : (modRegion s n f).xl = s.xl := rfl
@[simp] theorem modRegion_coh (n : Nat) (f : SharedRegion → SharedRegion) : (modRegion s n f).coh = s.coh := rfl
@[simp] theorem modRegion_lports (n : Nat) (f : SharedRegion → SharedRegion) : (modRegion s n f).lports = s.lports := rfl
@[simp] theorem modRegion_core (n : Nat) (f : SharedRegion → SharedRegion) : (modRegion s n f).core = s.core := rfl
@[simp] theorem modRegion_hys (n : Nat) (f : SharedRegion → SharedRegion) : (modRegion s n f).hys = s.hys := rfl
@[simp] theorem modRegion_fm (n : Nat) (f : SharedRegion → SharedRegion) : (modRegion s n f).fm = s.fm := rfl
@[simp] theorem modRegion_fab (n : Nat) (f : SharedRegion → SharedRegion) : (modRegion s n f).fab = s.fab := rfl
@[simp] theorem modRegion_buckets (n : Nat) (f : SharedRegion → SharedRegion) : (modRegion s n f).buckets = s.buckets := rfl
@[simp] theorem modRegion_shape (n : Nat) (f : SharedRegion → SharedRegion) : (modRegion s n f).shape = s.shape := rfl
@[simp] theorem modRegion_tk (n : Nat) (f : SharedRegion → SharedRegion) : (modRegion s n f).tk = s.tk := rfl
@[simp] theorem modRegion_parts (n : Nat) (f : SharedRegion → SharedRegion) : (modRegion s n f).parts = s.parts := rfl
@[simp] theorem modRegion_sec (n : Nat) (f : SharedRegion → SharedRegion) : (modRegion s n f).sec = s.sec := rfl
@[simp] theorem modRegion_ras (n : Nat) (f : SharedRegion → SharedRegion) : (modRegion s n f).ras = s.ras := rfl
@[simp] theorem modRegion_waits (n : Nat) (f : SharedRegion → SharedRegion) : (modRegion s n f).waits = s.waits := rfl
@[simp] theorem modRegion_power (n : Nat) (f : SharedRegion → SharedRegion) : (modRegion s n f).power = s.power := rfl
@[simp] theorem modRegion_boot (n : Nat) (f : SharedRegion → SharedRegion) : (modRegion s n f).boot = s.boot := rfl
@[simp] theorem modRegion_lan (n : Nat) (f : SharedRegion → SharedRegion) : (modRegion s n f).lan = s.lan := rfl
@[simp] theorem modRegion_tap (n : Nat) (f : SharedRegion → SharedRegion) : (modRegion s n f).tap = s.tap := rfl
@[simp] theorem modRegion_outs (n : Nat) (f : SharedRegion → SharedRegion) : (modRegion s n f).outs = s.outs := rfl
@[simp] theorem modRegion_reports (n : Nat) (f : SharedRegion → SharedRegion) : (modRegion s n f).reports = s.reports := rfl
@[simp] theorem modRegion_log (n : Nat) (f : SharedRegion → SharedRegion) : (modRegion s n f).log = s.log := rfl

/-! ## modFab -/

@[simp] theorem modFab_pending (f : Fab → Fab) : (modFab s f).pending = s.pending := rfl
@[simp] theorem modFab_freeCtr (f : Fab → Fab) : (modFab s f).freeCtr = s.freeCtr := rfl
@[simp] theorem modFab_nextId (f : Fab → Fab) : (modFab s f).nextId = s.nextId := rfl
@[simp] theorem modFab_part (f : Fab → Fab) : (modFab s f).part = s.part := rfl
@[simp] theorem modFab_clk (f : Fab → Fab) : (modFab s f).clk = s.clk := rfl
@[simp] theorem modFab_ftime (f : Fab → Fab) : (modFab s f).ftime = s.ftime := rfl
@[simp] theorem modFab_cfg (f : Fab → Fab) : (modFab s f).cfg = s.cfg := rfl
@[simp] theorem modFab_ctrs (f : Fab → Fab) : (modFab s f).ctrs = s.ctrs := rfl
@[simp] theorem modFab_ing (f : Fab → Fab) : (modFab s f).ing = s.ing := rfl
@[simp] theorem modFab_mem (f : Fab → Fab) : (modFab s f).mem = s.mem := rfl
@[simp] theorem modFab_xl (f : Fab → Fab) : (modFab s f).xl = s.xl := rfl
@[simp] theorem modFab_coh (f : Fab → Fab) : (modFab s f).coh = s.coh := rfl
@[simp] theorem modFab_lports (f : Fab → Fab) : (modFab s f).lports = s.lports := rfl
@[simp] theorem modFab_core (f : Fab → Fab) : (modFab s f).core = s.core := rfl
@[simp] theorem modFab_hys (f : Fab → Fab) : (modFab s f).hys = s.hys := rfl
@[simp] theorem modFab_fm (f : Fab → Fab) : (modFab s f).fm = s.fm := rfl
@[simp] theorem modFab_snap (f : Fab → Fab) : (modFab s f).snap = s.snap := rfl
@[simp] theorem modFab_buckets (f : Fab → Fab) : (modFab s f).buckets = s.buckets := rfl
@[simp] theorem modFab_shape (f : Fab → Fab) : (modFab s f).shape = s.shape := rfl
@[simp] theorem modFab_tk (f : Fab → Fab) : (modFab s f).tk = s.tk := rfl
@[simp] theorem modFab_parts (f : Fab → Fab) : (modFab s f).parts = s.parts := rfl
@[simp] theorem modFab_sec (f : Fab → Fab) : (modFab s f).sec = s.sec := rfl
@[simp] theorem modFab_ras (f : Fab → Fab) : (modFab s f).ras = s.ras := rfl
@[simp] theorem modFab_waits (f : Fab → Fab) : (modFab s f).waits = s.waits := rfl
@[simp] theorem modFab_power (f : Fab → Fab) : (modFab s f).power = s.power := rfl
@[simp] theorem modFab_boot (f : Fab → Fab) : (modFab s f).boot = s.boot := rfl
@[simp] theorem modFab_lan (f : Fab → Fab) : (modFab s f).lan = s.lan := rfl
@[simp] theorem modFab_tap (f : Fab → Fab) : (modFab s f).tap = s.tap := rfl
@[simp] theorem modFab_outs (f : Fab → Fab) : (modFab s f).outs = s.outs := rfl
@[simp] theorem modFab_reports (f : Fab → Fab) : (modFab s f).reports = s.reports := rfl
@[simp] theorem modFab_log (f : Fab → Fab) : (modFab s f).log = s.log := rfl

/-! ## modPkt -/

@[simp] theorem modPkt_pending (n : Nat) (f : QPkt → QPkt) : (modPkt s n f).pending = s.pending := rfl
@[simp] theorem modPkt_freeCtr (n : Nat) (f : QPkt → QPkt) : (modPkt s n f).freeCtr = s.freeCtr := rfl
@[simp] theorem modPkt_nextId (n : Nat) (f : QPkt → QPkt) : (modPkt s n f).nextId = s.nextId := rfl
@[simp] theorem modPkt_part (n : Nat) (f : QPkt → QPkt) : (modPkt s n f).part = s.part := rfl
@[simp] theorem modPkt_clk (n : Nat) (f : QPkt → QPkt) : (modPkt s n f).clk = s.clk := rfl
@[simp] theorem modPkt_ftime (n : Nat) (f : QPkt → QPkt) : (modPkt s n f).ftime = s.ftime := rfl
@[simp] theorem modPkt_cfg (n : Nat) (f : QPkt → QPkt) : (modPkt s n f).cfg = s.cfg := rfl
@[simp] theorem modPkt_ctrs (n : Nat) (f : QPkt → QPkt) : (modPkt s n f).ctrs = s.ctrs := rfl
@[simp] theorem modPkt_ing (n : Nat) (f : QPkt → QPkt) : (modPkt s n f).ing = s.ing := rfl
@[simp] theorem modPkt_mem (n : Nat) (f : QPkt → QPkt) : (modPkt s n f).mem = s.mem := rfl
@[simp] theorem modPkt_xl (n : Nat) (f : QPkt → QPkt) : (modPkt s n f).xl = s.xl := rfl
@[simp] theorem modPkt_coh (n : Nat) (f : QPkt → QPkt) : (modPkt s n f).coh = s.coh := rfl
@[simp] theorem modPkt_lports (n : Nat) (f : QPkt → QPkt) : (modPkt s n f).lports = s.lports := rfl
@[simp] theorem modPkt_hys (n : Nat) (f : QPkt → QPkt) : (modPkt s n f).hys = s.hys := rfl
@[simp] theorem modPkt_fm (n : Nat) (f : QPkt → QPkt) : (modPkt s n f).fm = s.fm := rfl
@[simp] theorem modPkt_snap (n : Nat) (f : QPkt → QPkt) : (modPkt s n f).snap = s.snap := rfl
@[simp] theorem modPkt_fab (n : Nat) (f : QPkt → QPkt) : (modPkt s n f).fab = s.fab := rfl
@[simp] theorem modPkt_buckets (n : Nat) (f : QPkt → QPkt) : (modPkt s n f).buckets = s.buckets := rfl
@[simp] theorem modPkt_shape (n : Nat) (f : QPkt → QPkt) : (modPkt s n f).shape = s.shape := rfl
@[simp] theorem modPkt_tk (n : Nat) (f : QPkt → QPkt) : (modPkt s n f).tk = s.tk := rfl
@[simp] theorem modPkt_parts (n : Nat) (f : QPkt → QPkt) : (modPkt s n f).parts = s.parts := rfl
@[simp] theorem modPkt_sec (n : Nat) (f : QPkt → QPkt) : (modPkt s n f).sec = s.sec := rfl
@[simp] theorem modPkt_ras (n : Nat) (f : QPkt → QPkt) : (modPkt s n f).ras = s.ras := rfl
@[simp] theorem modPkt_waits (n : Nat) (f : QPkt → QPkt) : (modPkt s n f).waits = s.waits := rfl
@[simp] theorem modPkt_power (n : Nat) (f : QPkt → QPkt) : (modPkt s n f).power = s.power := rfl
@[simp] theorem modPkt_boot (n : Nat) (f : QPkt → QPkt) : (modPkt s n f).boot = s.boot := rfl
@[simp] theorem modPkt_lan (n : Nat) (f : QPkt → QPkt) : (modPkt s n f).lan = s.lan := rfl
@[simp] theorem modPkt_tap (n : Nat) (f : QPkt → QPkt) : (modPkt s n f).tap = s.tap := rfl
@[simp] theorem modPkt_outs (n : Nat) (f : QPkt → QPkt) : (modPkt s n f).outs = s.outs := rfl
@[simp] theorem modPkt_reports (n : Nat) (f : QPkt → QPkt) : (modPkt s n f).reports = s.reports := rfl
@[simp] theorem modPkt_log (n : Nat) (f : QPkt → QPkt) : (modPkt s n f).log = s.log := rfl

/-! ## modLink -/

@[simp] theorem modLink_pending (n : Nat) (f : Link → Link) : (modLink s n f).pending = s.pending := rfl
@[simp] theorem modLink_freeCtr (n : Nat) (f : Link → Link) : (modLink s n f).freeCtr = s.freeCtr := rfl
@[simp] theorem modLink_nextId (n : Nat) (f : Link → Link) : (modLink s n f).nextId = s.nextId := rfl
@[simp] theorem modLink_part (n : Nat) (f : Link → Link) : (modLink s n f).part = s.part := rfl
@[simp] theorem modLink_clk (n : Nat) (f : Link → Link) : (modLink s n f).clk = s.clk := rfl
@[simp] theorem modLink_ftime (n : Nat) (f : Link → Link) : (modLink s n f).ftime = s.ftime := rfl
@[simp] theorem modLink_cfg (n : Nat) (f : Link → Link) : (modLink s n f).cfg = s.cfg := rfl
@[simp] theorem modLink_ctrs (n : Nat) (f : Link → Link) : (modLink s n f).ctrs = s.ctrs := rfl
@[simp] theorem modLink_ing (n : Nat) (f : Link → Link) : (modLink s n f).ing = s.ing := rfl
@[simp] theorem modLink_mem (n : Nat) (f : Link → Link) : (modLink s n f).mem = s.mem := rfl
@[simp] theorem modLink_xl (n : Nat) (f : Link → Link) : (modLink s n f).xl = s.xl := rfl
@[simp] theorem modLink_coh (n : Nat) (f : Link → Link) : (modLink s n f).coh = s.coh := rfl
@[simp] theorem modLink_core (n : Nat) (f : Link → Link) : (modLink s n f).core = s.core := rfl
@[simp] theorem modLink_hys (n : Nat) (f : Link → Link) : (modLink s n f).hys = s.hys := rfl
@[simp] theorem modLink_fm (n : Nat) (f : Link → Link) : (modLink s n f).fm = s.fm := rfl
@[simp] theorem modLink_snap (n : Nat) (f : Link → Link) : (modLink s n f).snap = s.snap := rfl
@[simp] theorem modLink_fab (n : Nat) (f : Link → Link) : (modLink s n f).fab = s.fab := rfl
@[simp] theorem modLink_buckets (n : Nat) (f : Link → Link) : (modLink s n f).buckets = s.buckets := rfl
@[simp] theorem modLink_shape (n : Nat) (f : Link → Link) : (modLink s n f).shape = s.shape := rfl
@[simp] theorem modLink_tk (n : Nat) (f : Link → Link) : (modLink s n f).tk = s.tk := rfl
@[simp] theorem modLink_parts (n : Nat) (f : Link → Link) : (modLink s n f).parts = s.parts := rfl
@[simp] theorem modLink_sec (n : Nat) (f : Link → Link) : (modLink s n f).sec = s.sec := rfl
@[simp] theorem modLink_ras (n : Nat) (f : Link → Link) : (modLink s n f).ras = s.ras := rfl
@[simp] theorem modLink_waits (n : Nat) (f : Link → Link) : (modLink s n f).waits = s.waits := rfl
@[simp] theorem modLink_power (n : Nat) (f : Link → Link) : (modLink s n f).power = s.power := rfl
@[simp] theorem modLink_boot (n : Nat) (f : Link → Link) : (modLink s n f).boot = s.boot := rfl
@[simp] theorem modLink_lan (n : Nat) (f : Link → Link) : (modLink s n f).lan = s.lan := rfl
@[simp] theorem modLink_tap (n : Nat) (f : Link → Link) : (modLink s n f).tap = s.tap := rfl
@[simp] theorem modLink_outs (n : Nat) (f : Link → Link) : (modLink s n f).outs = s.outs := rfl
@[simp] theorem modLink_reports (n : Nat) (f : Link → Link) : (modLink s n f).reports = s.reports := rfl
@[simp] theorem modLink_log (n : Nat) (f : Link → Link) : (modLink s n f).log = s.log := rfl

/-! ## modTk -/

@[simp] theorem modTk_pending (f : TimeKeep → TimeKeep) : (modTk s f).pending = s.pending := rfl
@[simp] theorem modTk_freeCtr (f : TimeKeep → TimeKeep) : (modTk s f).freeCtr = s.freeCtr := rfl
@[simp] theorem modTk_nextId (f : TimeKeep → TimeKeep) : (modTk s f).nextId = s.nextId := rfl
@[simp] theorem modTk_part (f : TimeKeep → TimeKeep) : (modTk s f).part = s.part := rfl
@[simp] theorem modTk_clk (f : TimeKeep → TimeKeep) : (modTk s f).clk = s.clk := rfl
@[simp] theorem modTk_ftime (f : TimeKeep → TimeKeep) : (modTk s f).ftime = s.ftime := rfl
@[simp] theorem modTk_cfg (f : TimeKeep → TimeKeep) : (modTk s f).cfg = s.cfg := rfl
@[simp] theorem modTk_ctrs (f : TimeKeep → TimeKeep) : (modTk s f).ctrs = s.ctrs := rfl
@[simp] theorem modTk_ing (f : TimeKeep → TimeKeep) : (modTk s f).ing = s.ing := rfl
@[simp] theorem modTk_mem (f : TimeKeep → TimeKeep) : (modTk s f).mem = s.mem := rfl
@[simp] theorem modTk_xl (f : TimeKeep → TimeKeep) : (modTk s f).xl = s.xl := rfl
@[simp] theorem modTk_coh (f : TimeKeep → TimeKeep) : (modTk s f).coh = s.coh := rfl
@[simp] theorem modTk_lports (f : TimeKeep → TimeKeep) : (modTk s f).lports = s.lports := rfl
@[simp] theorem modTk_core (f : TimeKeep → TimeKeep) : (modTk s f).core = s.core := rfl
@[simp] theorem modTk_hys (f : TimeKeep → TimeKeep) : (modTk s f).hys = s.hys := rfl
@[simp] theorem modTk_fm (f : TimeKeep → TimeKeep) : (modTk s f).fm = s.fm := rfl
@[simp] theorem modTk_snap (f : TimeKeep → TimeKeep) : (modTk s f).snap = s.snap := rfl
@[simp] theorem modTk_fab (f : TimeKeep → TimeKeep) : (modTk s f).fab = s.fab := rfl
@[simp] theorem modTk_buckets (f : TimeKeep → TimeKeep) : (modTk s f).buckets = s.buckets := rfl
@[simp] theorem modTk_shape (f : TimeKeep → TimeKeep) : (modTk s f).shape = s.shape := rfl
@[simp] theorem modTk_parts (f : TimeKeep → TimeKeep) : (modTk s f).parts = s.parts := rfl
@[simp] theorem modTk_sec (f : TimeKeep → TimeKeep) : (modTk s f).sec = s.sec := rfl
@[simp] theorem modTk_ras (f : TimeKeep → TimeKeep) : (modTk s f).ras = s.ras := rfl
@[simp] theorem modTk_waits (f : TimeKeep → TimeKeep) : (modTk s f).waits = s.waits := rfl
@[simp] theorem modTk_power (f : TimeKeep → TimeKeep) : (modTk s f).power = s.power := rfl
@[simp] theorem modTk_boot (f : TimeKeep → TimeKeep) : (modTk s f).boot = s.boot := rfl
@[simp] theorem modTk_lan (f : TimeKeep → TimeKeep) : (modTk s f).lan = s.lan := rfl
@[simp] theorem modTk_tap (f : TimeKeep → TimeKeep) : (modTk s f).tap = s.tap := rfl
@[simp] theorem modTk_outs (f : TimeKeep → TimeKeep) : (modTk s f).outs = s.outs := rfl
@[simp] theorem modTk_reports (f : TimeKeep → TimeKeep) : (modTk s f).reports = s.reports := rfl
@[simp] theorem modTk_log (f : TimeKeep → TimeKeep) : (modTk s f).log = s.log := rfl

/-! ## modSec -/

@[simp] theorem modSec_pending (f : Sec → Sec) : (modSec s f).pending = s.pending := rfl
@[simp] theorem modSec_freeCtr (f : Sec → Sec) : (modSec s f).freeCtr = s.freeCtr := rfl
@[simp] theorem modSec_nextId (f : Sec → Sec) : (modSec s f).nextId = s.nextId := rfl
@[simp] theorem modSec_part (f : Sec → Sec) : (modSec s f).part = s.part := rfl
@[simp] theorem modSec_clk (f : Sec → Sec) : (modSec s f).clk = s.clk := rfl
@[simp] theorem modSec_ftime (f : Sec → Sec) : (modSec s f).ftime = s.ftime := rfl
@[simp] theorem modSec_cfg (f : Sec → Sec) : (modSec s f).cfg = s.cfg := rfl
@[simp] theorem modSec_ctrs (f : Sec → Sec) : (modSec s f).ctrs = s.ctrs := rfl
@[simp] theorem modSec_ing (f : Sec → Sec) : (modSec s f).ing = s.ing := rfl
@[simp] theorem modSec_mem (f : Sec → Sec) : (modSec s f).mem = s.mem := rfl
@[simp] theorem modSec_xl (f : Sec → Sec) : (modSec s f).xl = s.xl := rfl
@[simp] theorem modSec_coh (f : Sec → Sec) : (modSec s f).coh = s.coh := rfl
@[simp] theorem modSec_lports (f : Sec → Sec) : (modSec s f).lports = s.lports := rfl
@[simp] theorem modSec_core (f : Sec → Sec) : (modSec s f).core = s.core := rfl
@[simp] theorem modSec_hys (f : Sec → Sec) : (modSec s f).hys = s.hys := rfl
@[simp] theorem modSec_fm (f : Sec → Sec) : (modSec s f).fm = s.fm := rfl
@[simp] theorem modSec_snap (f : Sec → Sec) : (modSec s f).snap = s.snap := rfl
@[simp] theorem modSec_fab (f : Sec → Sec) : (modSec s f).fab = s.fab := rfl
@[simp] theorem modSec_buckets (f : Sec → Sec) : (modSec s f).buckets = s.buckets := rfl
@[simp] theorem modSec_shape (f : Sec → Sec) : (modSec s f).shape = s.shape := rfl
@[simp] theorem modSec_tk (f : Sec → Sec) : (modSec s f).tk = s.tk := rfl
@[simp] theorem modSec_parts (f : Sec → Sec) : (modSec s f).parts = s.parts := rfl
@[simp] theorem modSec_ras (f : Sec → Sec) : (modSec s f).ras = s.ras := rfl
@[simp] theorem modSec_waits (f : Sec → Sec) : (modSec s f).waits = s.waits := rfl
@[simp] theorem modSec_power (f : Sec → Sec) : (modSec s f).power = s.power := rfl
@[simp] theorem modSec_boot (f : Sec → Sec) : (modSec s f).boot = s.boot := rfl
@[simp] theorem modSec_lan (f : Sec → Sec) : (modSec s f).lan = s.lan := rfl
@[simp] theorem modSec_tap (f : Sec → Sec) : (modSec s f).tap = s.tap := rfl
@[simp] theorem modSec_outs (f : Sec → Sec) : (modSec s f).outs = s.outs := rfl
@[simp] theorem modSec_reports (f : Sec → Sec) : (modSec s f).reports = s.reports := rfl
@[simp] theorem modSec_log (f : Sec → Sec) : (modSec s f).log = s.log := rfl

/-! ## modRas -/

@[simp] theorem modRas_pending (f : Ras → Ras) : (modRas s f).pending = s.pending := rfl
@[simp] theorem modRas_freeCtr (f : Ras → Ras) : (modRas s f).freeCtr = s.freeCtr := rfl
@[simp] theorem modRas_nextId (f : Ras → Ras) : (modRas s f).nextId = s.nextId := rfl
@[simp] theorem modRas_part (f : Ras → Ras) : (modRas s f).part = s.part := rfl
@[simp] theorem modRas_clk (f : Ras → Ras) : (modRas s f).clk = s.clk := rfl
@[simp] theorem modRas_ftime (f : Ras → Ras) : (modRas s f).ftime = s.ftime := rfl
@[simp] theorem modRas_cfg (f : Ras → Ras) : (modRas s f).cfg = s.cfg := rfl
@[simp] theorem modRas_ctrs (f : Ras → Ras) : (modRas s f).ctrs = s.ctrs := rfl
@[simp] theorem modRas_ing (f : Ras → Ras) : (modRas s f).ing = s.ing := rfl
@[simp] theorem modRas_mem (f : Ras → Ras) : (modRas s f).mem = s.mem := rfl
@[simp] theorem modRas_xl (f : Ras → Ras) : (modRas s f).xl = s.xl := rfl
@[simp] theorem modRas_coh (f : Ras → Ras) : (modRas s f).coh = s.coh := rfl
@[simp] theorem modRas_lports (f : Ras → Ras) : (modRas s f).lports = s.lports := rfl
@[simp] theorem modRas_core (f : Ras → Ras) : (modRas s f).core = s.core := rfl
@[simp] theorem modRas_hys (f : Ras → Ras) : (modRas s f).hys = s.hys := rfl
@[simp] theorem modRas_fm (f : Ras → Ras) : (modRas s f).fm = s.fm := rfl
@[simp] theorem modRas_snap (f : Ras → Ras) : (modRas s f).snap = s.snap := rfl
@[simp] theorem modRas_fab (f : Ras → Ras) : (modRas s f).fab = s.fab := rfl
@[simp] theorem modRas_buckets (f : Ras → Ras) : (modRas s f).buckets = s.buckets := rfl
@[simp] theorem modRas_shape (f : Ras → Ras) : (modRas s f).shape = s.shape := rfl
@[simp] theorem modRas_tk (f : Ras → Ras) : (modRas s f).tk = s.tk := rfl
@[simp] theorem modRas_parts (f : Ras → Ras) : (modRas s f).parts = s.parts := rfl
@[simp] theorem modRas_sec (f : Ras → Ras) : (modRas s f).sec = s.sec := rfl
@[simp] theorem modRas_waits (f : Ras → Ras) : (modRas s f).waits = s.waits := rfl
@[simp] theorem modRas_power (f : Ras → Ras) : (modRas s f).power = s.power := rfl
@[simp] theorem modRas_boot (f : Ras → Ras) : (modRas s f).boot = s.boot := rfl
@[simp] theorem modRas_lan (f : Ras → Ras) : (modRas s f).lan = s.lan := rfl
@[simp] theorem modRas_tap (f : Ras → Ras) : (modRas s f).tap = s.tap := rfl
@[simp] theorem modRas_outs (f : Ras → Ras) : (modRas s f).outs = s.outs := rfl
@[simp] theorem modRas_reports (f : Ras → Ras) : (modRas s f).reports = s.reports := rfl
@[simp] theorem modRas_log (f : Ras → Ras) : (modRas s f).log = s.log := rfl

/-! ## modPower -/

@[simp] theorem modPower_pending (f : Power → Power) : (modPower s f).pending = s.pending := rfl
@[simp] theorem modPower_freeCtr (f : Power → Power) : (modPower s f).freeCtr = s.freeCtr := rfl
@[simp] theorem modPower_nextId (f : Power → Power) : (modPower s f).nextId = s.nextId := rfl
@[simp] theorem modPower_part (f : Power → Power) : (modPower s f).part = s.part := rfl
@[simp] theorem modPower_clk (f : Power → Power) : (modPower s f).clk = s.clk := rfl
@[simp] theorem modPower_ftime (f : Power → Power) : (modPower s f).ftime = s.ftime := rfl
@[simp] theorem modPower_cfg (f : Power → Power) : (modPower s f).cfg = s.cfg := rfl
@[simp] theorem modPower_ctrs (f : Power → Power) : (modPower s f).ctrs = s.ctrs := rfl
@[simp] theorem modPower_ing (f : Power → Power) : (modPower s f).ing = s.ing := rfl
@[simp] theorem modPower_mem (f : Power → Power) : (modPower s f).mem = s.mem := rfl
@[simp] theorem modPower_xl (f : Power → Power) : (modPower s f).xl = s.xl := rfl
@[simp] theorem modPower_coh (f : Power → Power) : (modPower s f).coh = s.coh := rfl
@[simp] theorem modPower_lports (f : Power → Power) : (modPower s f).lports = s.lports := rfl
@[simp] theorem modPower_core (f : Power → Power) : (modPower s f).core = s.core := rfl
@[simp] theorem modPower_hys (f : Power → Power) : (modPower s f).hys = s.hys := rfl
@[simp] theorem modPower_fm (f : Power → Power) : (modPower s f).fm = s.fm := rfl
@[simp] theorem modPower_snap (f : Power → Power) : (modPower s f).snap = s.snap := rfl
@[simp] theorem modPower_fab (f : Power → Power) : (modPower s f).fab = s.fab := rfl
@[simp] theorem modPower_buckets (f : Power → Power) : (modPower s f).buckets = s.buckets := rfl
@[simp] theorem modPower_shape (f : Power → Power) : (modPower s f).shape = s.shape := rfl
@[simp] theorem modPower_tk (f : Power → Power) : (modPower s f).tk = s.tk := rfl
@[simp] theorem modPower_parts (f : Power → Power) : (modPower s f).parts = s.parts := rfl
@[simp] theorem modPower_sec (f : Power → Power) : (modPower s f).sec = s.sec := rfl
@[simp] theorem modPower_ras (f : Power → Power) : (modPower s f).ras = s.ras := rfl
@[simp] theorem modPower_waits (f : Power → Power) : (modPower s f).waits = s.waits := rfl
@[simp] theorem modPower_boot (f : Power → Power) : (modPower s f).boot = s.boot := rfl
@[simp] theorem modPower_lan (f : Power → Power) : (modPower s f).lan = s.lan := rfl
@[simp] theorem modPower_tap (f : Power → Power) : (modPower s f).tap = s.tap := rfl
@[simp] theorem modPower_outs (f : Power → Power) : (modPower s f).outs = s.outs := rfl
@[simp] theorem modPower_reports (f : Power → Power) : (modPower s f).reports = s.reports := rfl
@[simp] theorem modPower_log (f : Power → Power) : (modPower s f).log = s.log := rfl

/-! ## modQp -/

@[simp] theorem modQp_pending (n q : Nat) (f : Qp → Qp) : (modQp s n q f).pending = s.pending := rfl
@[simp] theorem modQp_freeCtr (n q : Nat) (f : Qp → Qp) : (modQp s n q f).freeCtr = s.freeCtr := rfl
@[simp] theorem modQp_nextId (n q : Nat) (f : Qp → Qp) : (modQp s n q f).nextId = s.nextId := rfl
@[simp] theorem modQp_part (n q : Nat) (f : Qp → Qp) : (modQp s n q f).part = s.part := rfl
@[simp] theorem modQp_clk (n q : Nat) (f : Qp → Qp) : (modQp s n q f).clk = s.clk := rfl
@[simp] theorem modQp_ftime (n q : Nat) (f : Qp → Qp) : (modQp s n q f).ftime = s.ftime := rfl
@[simp] theorem modQp_cfg (n q : Nat) (f : Qp → Qp) : (modQp s n q f).cfg = s.cfg := rfl
@[simp] theorem modQp_ctrs (n q : Nat) (f : Qp → Qp) : (modQp s n q f).ctrs = s.ctrs := rfl
@[simp] theorem modQp_ing (n q : Nat) (f : Qp → Qp) : (modQp s n q f).ing = s.ing := rfl
@[simp] theorem modQp_mem (n q : Nat) (f : Qp → Qp) : (modQp s n q f).mem = s.mem := rfl
@[simp] theorem modQp_xl (n q : Nat) (f : Qp → Qp) : (modQp s n q f).xl = s.xl := rfl
@[simp] theorem modQp_coh (n q : Nat) (f : Qp → Qp) : (modQp s n q f).coh = s.coh := rfl
@[simp] theorem modQp_lports (n q : Nat) (f : Qp → Qp) : (modQp s n q f).lports = s.lports := rfl
@[simp] theorem modQp_core (n q : Nat) (f : Qp → Qp) : (modQp s n q f).core = s.core := rfl
@[simp] theorem modQp_fm (n q : Nat) (f : Qp → Qp) : (modQp s n q f).fm = s.fm := rfl
@[simp] theorem modQp_snap (n q : Nat) (f : Qp → Qp) : (modQp s n q f).snap = s.snap := rfl
@[simp] theorem modQp_fab (n q : Nat) (f : Qp → Qp) : (modQp s n q f).fab = s.fab := rfl
@[simp] theorem modQp_buckets (n q : Nat) (f : Qp → Qp) : (modQp s n q f).buckets = s.buckets := rfl
@[simp] theorem modQp_shape (n q : Nat) (f : Qp → Qp) : (modQp s n q f).shape = s.shape := rfl
@[simp] theorem modQp_tk (n q : Nat) (f : Qp → Qp) : (modQp s n q f).tk = s.tk := rfl
@[simp] theorem modQp_parts (n q : Nat) (f : Qp → Qp) : (modQp s n q f).parts = s.parts := rfl
@[simp] theorem modQp_sec (n q : Nat) (f : Qp → Qp) : (modQp s n q f).sec = s.sec := rfl
@[simp] theorem modQp_ras (n q : Nat) (f : Qp → Qp) : (modQp s n q f).ras = s.ras := rfl
@[simp] theorem modQp_waits (n q : Nat) (f : Qp → Qp) : (modQp s n q f).waits = s.waits := rfl
@[simp] theorem modQp_power (n q : Nat) (f : Qp → Qp) : (modQp s n q f).power = s.power := rfl
@[simp] theorem modQp_boot (n q : Nat) (f : Qp → Qp) : (modQp s n q f).boot = s.boot := rfl
@[simp] theorem modQp_lan (n q : Nat) (f : Qp → Qp) : (modQp s n q f).lan = s.lan := rfl
@[simp] theorem modQp_tap (n q : Nat) (f : Qp → Qp) : (modQp s n q f).tap = s.tap := rfl
@[simp] theorem modQp_outs (n q : Nat) (f : Qp → Qp) : (modQp s n q f).outs = s.outs := rfl
@[simp] theorem modQp_reports (n q : Nat) (f : Qp → Qp) : (modQp s n q f).reports = s.reports := rfl
@[simp] theorem modQp_log (n q : Nat) (f : Qp → Qp) : (modQp s n q f).log = s.log := rfl

/-! ## modMbx -/

@[simp] theorem modMbx_pending (f : Mbx → Mbx) : (modMbx s f).pending = s.pending := rfl
@[simp] theorem modMbx_freeCtr (f : Mbx → Mbx) : (modMbx s f).freeCtr = s.freeCtr := rfl
@[simp] theorem modMbx_nextId (f : Mbx → Mbx) : (modMbx s f).nextId = s.nextId := rfl
@[simp] theorem modMbx_part (f : Mbx → Mbx) : (modMbx s f).part = s.part := rfl
@[simp] theorem modMbx_clk (f : Mbx → Mbx) : (modMbx s f).clk = s.clk := rfl
@[simp] theorem modMbx_ftime (f : Mbx → Mbx) : (modMbx s f).ftime = s.ftime := rfl
@[simp] theorem modMbx_cfg (f : Mbx → Mbx) : (modMbx s f).cfg = s.cfg := rfl
@[simp] theorem modMbx_ctrs (f : Mbx → Mbx) : (modMbx s f).ctrs = s.ctrs := rfl
@[simp] theorem modMbx_ing (f : Mbx → Mbx) : (modMbx s f).ing = s.ing := rfl
@[simp] theorem modMbx_mem (f : Mbx → Mbx) : (modMbx s f).mem = s.mem := rfl
@[simp] theorem modMbx_xl (f : Mbx → Mbx) : (modMbx s f).xl = s.xl := rfl
@[simp] theorem modMbx_coh (f : Mbx → Mbx) : (modMbx s f).coh = s.coh := rfl
@[simp] theorem modMbx_lports (f : Mbx → Mbx) : (modMbx s f).lports = s.lports := rfl
@[simp] theorem modMbx_core (f : Mbx → Mbx) : (modMbx s f).core = s.core := rfl
@[simp] theorem modMbx_hys (f : Mbx → Mbx) : (modMbx s f).hys = s.hys := rfl
@[simp] theorem modMbx_fm (f : Mbx → Mbx) : (modMbx s f).fm = s.fm := rfl
@[simp] theorem modMbx_snap (f : Mbx → Mbx) : (modMbx s f).snap = s.snap := rfl
@[simp] theorem modMbx_fab (f : Mbx → Mbx) : (modMbx s f).fab = s.fab := rfl
@[simp] theorem modMbx_buckets (f : Mbx → Mbx) : (modMbx s f).buckets = s.buckets := rfl
@[simp] theorem modMbx_shape (f : Mbx → Mbx) : (modMbx s f).shape = s.shape := rfl
@[simp] theorem modMbx_tk (f : Mbx → Mbx) : (modMbx s f).tk = s.tk := rfl
@[simp] theorem modMbx_parts (f : Mbx → Mbx) : (modMbx s f).parts = s.parts := rfl
@[simp] theorem modMbx_sec (f : Mbx → Mbx) : (modMbx s f).sec = s.sec := rfl
@[simp] theorem modMbx_ras (f : Mbx → Mbx) : (modMbx s f).ras = s.ras := rfl
@[simp] theorem modMbx_waits (f : Mbx → Mbx) : (modMbx s f).waits = s.waits := rfl
@[simp] theorem modMbx_power (f : Mbx → Mbx) : (modMbx s f).power = s.power := rfl
@[simp] theorem modMbx_lan (f : Mbx → Mbx) : (modMbx s f).lan = s.lan := rfl
@[simp] theorem modMbx_tap (f : Mbx → Mbx) : (modMbx s f).tap = s.tap := rfl
@[simp] theorem modMbx_outs (f : Mbx → Mbx) : (modMbx s f).outs = s.outs := rfl
@[simp] theorem modMbx_reports (f : Mbx → Mbx) : (modMbx s f).reports = s.reports := rfl
@[simp] theorem modMbx_log (f : Mbx → Mbx) : (modMbx s f).log = s.log := rfl

/-! ## untilTime -/

@[simp] theorem untilTime_pending (t : Time) : (untilTime s t).pending = s.pending := by unfold untilTime; split <;> rfl
@[simp] theorem untilTime_freeCtr (t : Time) : (untilTime s t).freeCtr = s.freeCtr := by unfold untilTime; split <;> rfl
@[simp] theorem untilTime_nextId (t : Time) : (untilTime s t).nextId = s.nextId := by unfold untilTime; split <;> rfl
@[simp] theorem untilTime_part (t : Time) : (untilTime s t).part = s.part := by unfold untilTime; split <;> rfl
@[simp] theorem untilTime_cfg (t : Time) : (untilTime s t).cfg = s.cfg := by unfold untilTime; split <;> rfl
@[simp] theorem untilTime_ctrs (t : Time) : (untilTime s t).ctrs = s.ctrs := by unfold untilTime; split <;> rfl
@[simp] theorem untilTime_ing (t : Time) : (untilTime s t).ing = s.ing := by unfold untilTime; split <;> rfl
@[simp] theorem untilTime_mem (t : Time) : (untilTime s t).mem = s.mem := by unfold untilTime; split <;> rfl
@[simp] theorem untilTime_xl (t : Time) : (untilTime s t).xl = s.xl := by unfold untilTime; split <;> rfl
@[simp] theorem untilTime_coh (t : Time) : (untilTime s t).coh = s.coh := by unfold untilTime; split <;> rfl
@[simp] theorem untilTime_lports (t : Time) : (untilTime s t).lports = s.lports := by unfold untilTime; split <;> rfl
@[simp] theorem untilTime_core (t : Time) : (untilTime s t).core = s.core := by unfold untilTime; split <;> rfl
@[simp] theorem untilTime_hys (t : Time) : (untilTime s t).hys = s.hys := by unfold untilTime; split <;> rfl
@[simp] theorem untilTime_fm (t : Time) : (untilTime s t).fm = s.fm := by unfold untilTime; split <;> rfl
@[simp] theorem untilTime_snap (t : Time) : (untilTime s t).snap = s.snap := by unfold untilTime; split <;> rfl
@[simp] theorem untilTime_fab (t : Time) : (untilTime s t).fab = s.fab := by unfold untilTime; split <;> rfl
@[simp] theorem untilTime_buckets (t : Time) : (untilTime s t).buckets = s.buckets := by unfold untilTime; split <;> rfl
@[simp] theorem untilTime_shape (t : Time) : (untilTime s t).shape = s.shape := by unfold untilTime; split <;> rfl
@[simp] theorem untilTime_parts (t : Time) : (untilTime s t).parts = s.parts := by unfold untilTime; split <;> rfl
@[simp] theorem untilTime_sec (t : Time) : (untilTime s t).sec = s.sec := by unfold untilTime; split <;> rfl
@[simp] theorem untilTime_ras (t : Time) : (untilTime s t).ras = s.ras := by unfold untilTime; split <;> rfl
@[simp] theorem untilTime_waits (t : Time) : (untilTime s t).waits = s.waits := by unfold untilTime; split <;> rfl
@[simp] theorem untilTime_power (t : Time) : (untilTime s t).power = s.power := by unfold untilTime; split <;> rfl
@[simp] theorem untilTime_boot (t : Time) : (untilTime s t).boot = s.boot := by unfold untilTime; split <;> rfl
@[simp] theorem untilTime_lan (t : Time) : (untilTime s t).lan = s.lan := by unfold untilTime; split <;> rfl
@[simp] theorem untilTime_tap (t : Time) : (untilTime s t).tap = s.tap := by unfold untilTime; split <;> rfl
@[simp] theorem untilTime_outs (t : Time) : (untilTime s t).outs = s.outs := by unfold untilTime; split <;> rfl
@[simp] theorem untilTime_reports (t : Time) : (untilTime s t).reports = s.reports := by unfold untilTime; split <;> rfl
@[simp] theorem untilTime_log (t : Time) : (untilTime s t).log = s.log := by unfold untilTime; split <;> rfl

@[simp] theorem setLink_pending (n : Nat) (x : LinkState) : (setLink s n x).pending = s.pending := rfl
@[simp] theorem setLink_freeCtr (n : Nat) (x : LinkState) : (setLink s n x).freeCtr = s.freeCtr := rfl
@[simp] theorem setLink_nextId (n : Nat) (x : LinkState) : (setLink s n x).nextId = s.nextId := rfl
@[simp] theorem setLink_part (n : Nat) (x : LinkState) : (setLink s n x).part = s.part := rfl
@[simp] theorem setLink_clk (n : Nat) (x : LinkState) : (setLink s n x).clk = s.clk := rfl
@[simp] theorem setLink_ftime (n : Nat) (x : LinkState) : (setLink s n x).ftime = s.ftime := rfl
@[simp] theorem setLink_cfg (n : Nat) (x : LinkState) : (setLink s n x).cfg = s.cfg := rfl
@[simp] theorem setLink_ctrs (n : Nat) (x : LinkState) : (setLink s n x).ctrs = s.ctrs := rfl
@[simp] theorem setLink_ing (n : Nat) (x : LinkState) : (setLink s n x).ing = s.ing := rfl
@[simp] theorem setLink_mem (n : Nat) (x : LinkState) : (setLink s n x).mem = s.mem := rfl
@[simp] theorem setLink_xl (n : Nat) (x : LinkState) : (setLink s n x).xl = s.xl := rfl
@[simp] theorem setLink_coh (n : Nat) (x : LinkState) : (setLink s n x).coh = s.coh := rfl
@[simp] theorem setLink_core (n : Nat) (x : LinkState) : (setLink s n x).core = s.core := rfl
@[simp] theorem setLink_hys (n : Nat) (x : LinkState) : (setLink s n x).hys = s.hys := rfl
@[simp] theorem setLink_fm (n : Nat) (x : LinkState) : (setLink s n x).fm = s.fm := rfl
@[simp] theorem setLink_snap (n : Nat) (x : LinkState) : (setLink s n x).snap = s.snap := rfl
@[simp] theorem setLink_fab (n : Nat) (x : LinkState) : (setLink s n x).fab = s.fab := rfl
@[simp] theorem setLink_buckets (n : Nat) (x : LinkState) : (setLink s n x).buckets = s.buckets := rfl
@[simp] theorem setLink_shape (n : Nat) (x : LinkState) : (setLink s n x).shape = s.shape := rfl
@[simp] theorem setLink_tk (n : Nat) (x : LinkState) : (setLink s n x).tk = s.tk := rfl
@[simp] theorem setLink_parts (n : Nat) (x : LinkState) : (setLink s n x).parts = s.parts := rfl
@[simp] theorem setLink_sec (n : Nat) (x : LinkState) : (setLink s n x).sec = s.sec := rfl
@[simp] theorem setLink_ras (n : Nat) (x : LinkState) : (setLink s n x).ras = s.ras := rfl
@[simp] theorem setLink_waits (n : Nat) (x : LinkState) : (setLink s n x).waits = s.waits := rfl
@[simp] theorem setLink_power (n : Nat) (x : LinkState) : (setLink s n x).power = s.power := rfl
@[simp] theorem setLink_boot (n : Nat) (x : LinkState) : (setLink s n x).boot = s.boot := rfl
@[simp] theorem setLink_lan (n : Nat) (x : LinkState) : (setLink s n x).lan = s.lan := rfl
@[simp] theorem setLink_tap (n : Nat) (x : LinkState) : (setLink s n x).tap = s.tap := rfl
@[simp] theorem setLink_outs (n : Nat) (x : LinkState) : (setLink s n x).outs = s.outs := rfl
@[simp] theorem setLink_reports (n : Nat) (x : LinkState) : (setLink s n x).reports = s.reports := rfl
@[simp] theorem setLink_log (n : Nat) (x : LinkState) : (setLink s n x).log = s.log := rfl
/-! ## What the readers see after an update that leaves what they read -/

@[simp] theorem lportOf_bumpBy (c : Ctr) (w n : Nat) (m : Nat) : lportOf (bumpBy s c w n) m = lportOf s m := rfl
@[simp] theorem partOf_bumpBy (c : Ctr) (w n : Nat) (m : Nat) : partOf (bumpBy s c w n) m = partOf s m := rfl
@[simp] theorem fnOf_bumpBy (c : Ctr) (w n : Nat) (m : Nat) : fnOf (bumpBy s c w n) m = fnOf s m := rfl
@[simp] theorem regField_bumpBy (c : Ctr) (w n : Nat) (ro rl rw : Nat) : regField (bumpBy s c w n) ro rl rw = regField s ro rl rw := rfl
@[simp] theorem selfNode_bumpBy (c : Ctr) (w n : Nat) : selfNode (bumpBy s c w n) = selfNode s := rfl
@[simp] theorem isFenced_bumpBy (c : Ctr) (w n : Nat) (m : Nat) : isFenced (bumpBy s c w n) m = isFenced s m := rfl
@[simp] theorem tierOf_bumpBy (c : Ctr) (w n : Nat) (m : Nat) : tierOf (bumpBy s c w n) m = tierOf s m := rfl
@[simp] theorem astOf_bumpBy (c : Ctr) (w n : Nat) (m : Nat) : astOf (bumpBy s c w n) m = astOf s m := rfl
@[simp] theorem regionPow_bumpBy (c : Ctr) (w n : Nat) (m : Nat) : regionPow (bumpBy s c w n) m = regionPow s m := rfl
@[simp] theorem running_bumpBy (c : Ctr) (w n : Nat) : running (bumpBy s c w n) = running s := rfl
@[simp] theorem lanesGiven_bumpBy (c : Ctr) (w n : Nat) (m : Nat) : lanesGiven (bumpBy s c w n) m = lanesGiven s m := rfl
@[simp] theorem lportOf_bump (c : Ctr) (m : Nat) : lportOf (bump s c) m = lportOf s m := rfl
@[simp] theorem partOf_bump (c : Ctr) (m : Nat) : partOf (bump s c) m = partOf s m := rfl
@[simp] theorem fnOf_bump (c : Ctr) (m : Nat) : fnOf (bump s c) m = fnOf s m := rfl
@[simp] theorem regField_bump (c : Ctr) (ro rl rw : Nat) : regField (bump s c) ro rl rw = regField s ro rl rw := rfl
@[simp] theorem selfNode_bump (c : Ctr) : selfNode (bump s c) = selfNode s := rfl
@[simp] theorem isFenced_bump (c : Ctr) (m : Nat) : isFenced (bump s c) m = isFenced s m := rfl
@[simp] theorem tierOf_bump (c : Ctr) (m : Nat) : tierOf (bump s c) m = tierOf s m := rfl
@[simp] theorem astOf_bump (c : Ctr) (m : Nat) : astOf (bump s c) m = astOf s m := rfl
@[simp] theorem regionPow_bump (c : Ctr) (m : Nat) : regionPow (bump s c) m = regionPow s m := rfl
@[simp] theorem running_bump (c : Ctr) : running (bump s c) = running s := rfl
@[simp] theorem lanesGiven_bump (c : Ctr) (m : Nat) : lanesGiven (bump s c) m = lanesGiven s m := rfl
@[simp] theorem lportOf_note (k : String) (a : List Nat) (m : Nat) : lportOf (note s k a) m = lportOf s m := rfl
@[simp] theorem partOf_note (k : String) (a : List Nat) (m : Nat) : partOf (note s k a) m = partOf s m := rfl
@[simp] theorem fnOf_note (k : String) (a : List Nat) (m : Nat) : fnOf (note s k a) m = fnOf s m := rfl
@[simp] theorem regField_note (k : String) (a : List Nat) (ro rl rw : Nat) : regField (note s k a) ro rl rw = regField s ro rl rw := rfl
@[simp] theorem ctr_note (k : String) (a : List Nat) (d : Ctr) : ctr (note s k a) d = ctr s d := rfl
@[simp] theorem selfNode_note (k : String) (a : List Nat) : selfNode (note s k a) = selfNode s := rfl
@[simp] theorem isFenced_note (k : String) (a : List Nat) (m : Nat) : isFenced (note s k a) m = isFenced s m := rfl
@[simp] theorem tierOf_note (k : String) (a : List Nat) (m : Nat) : tierOf (note s k a) m = tierOf s m := rfl
@[simp] theorem astOf_note (k : String) (a : List Nat) (m : Nat) : astOf (note s k a) m = astOf s m := rfl
@[simp] theorem regionPow_note (k : String) (a : List Nat) (m : Nat) : regionPow (note s k a) m = regionPow s m := rfl
@[simp] theorem running_note (k : String) (a : List Nat) : running (note s k a) = running s := rfl
@[simp] theorem lanesGiven_note (k : String) (a : List Nat) (m : Nat) : lanesGiven (note s k a) m = lanesGiven s m := rfl
@[simp] theorem lportOf_emit (o : Out) (m : Nat) : lportOf (emit s o) m = lportOf s m := rfl
@[simp] theorem partOf_emit (o : Out) (m : Nat) : partOf (emit s o) m = partOf s m := rfl
@[simp] theorem fnOf_emit (o : Out) (m : Nat) : fnOf (emit s o) m = fnOf s m := rfl
@[simp] theorem regField_emit (o : Out) (ro rl rw : Nat) : regField (emit s o) ro rl rw = regField s ro rl rw := rfl
@[simp] theorem ctr_emit (o : Out) (d : Ctr) : ctr (emit s o) d = ctr s d := rfl
@[simp] theorem selfNode_emit (o : Out) : selfNode (emit s o) = selfNode s := rfl
@[simp] theorem isFenced_emit (o : Out) (m : Nat) : isFenced (emit s o) m = isFenced s m := rfl
@[simp] theorem tierOf_emit (o : Out) (m : Nat) : tierOf (emit s o) m = tierOf s m := rfl
@[simp] theorem astOf_emit (o : Out) (m : Nat) : astOf (emit s o) m = astOf s m := rfl
@[simp] theorem regionPow_emit (o : Out) (m : Nat) : regionPow (emit s o) m = regionPow s m := rfl
@[simp] theorem running_emit (o : Out) : running (emit s o) = running s := rfl
@[simp] theorem lanesGiven_emit (o : Out) (m : Nat) : lanesGiven (emit s o) m = lanesGiven s m := rfl
@[simp] theorem lportOf_bumpFree (m : Nat) : lportOf (bumpFree s) m = lportOf s m := rfl
@[simp] theorem partOf_bumpFree (m : Nat) : partOf (bumpFree s) m = partOf s m := rfl
@[simp] theorem fnOf_bumpFree (m : Nat) : fnOf (bumpFree s) m = fnOf s m := rfl
@[simp] theorem regField_bumpFree (ro rl rw : Nat) : regField (bumpFree s) ro rl rw = regField s ro rl rw := rfl
@[simp] theorem ctr_bumpFree (d : Ctr) : ctr (bumpFree s) d = ctr s d := rfl
@[simp] theorem selfNode_bumpFree : selfNode (bumpFree s) = selfNode s := rfl
@[simp] theorem isFenced_bumpFree (m : Nat) : isFenced (bumpFree s) m = isFenced s m := rfl
@[simp] theorem tierOf_bumpFree (m : Nat) : tierOf (bumpFree s) m = tierOf s m := rfl
@[simp] theorem astOf_bumpFree (m : Nat) : astOf (bumpFree s) m = astOf s m := rfl
@[simp] theorem regionPow_bumpFree (m : Nat) : regionPow (bumpFree s) m = regionPow s m := rfl
@[simp] theorem running_bumpFree : running (bumpFree s) = running s := rfl
@[simp] theorem lanesGiven_bumpFree (m : Nat) : lanesGiven (bumpFree s) m = lanesGiven s m := rfl
@[simp] theorem lportOf_markBusy (m : Nat) : lportOf (markBusy s) m = lportOf s m := rfl
@[simp] theorem partOf_markBusy (m : Nat) : partOf (markBusy s) m = partOf s m := rfl
@[simp] theorem fnOf_markBusy (m : Nat) : fnOf (markBusy s) m = fnOf s m := rfl
@[simp] theorem regField_markBusy (ro rl rw : Nat) : regField (markBusy s) ro rl rw = regField s ro rl rw := rfl
@[simp] theorem ctr_markBusy (d : Ctr) : ctr (markBusy s) d = ctr s d := rfl
@[simp] theorem selfNode_markBusy : selfNode (markBusy s) = selfNode s := rfl
@[simp] theorem isFenced_markBusy (m : Nat) : isFenced (markBusy s) m = isFenced s m := rfl
@[simp] theorem tierOf_markBusy (m : Nat) : tierOf (markBusy s) m = tierOf s m := rfl
@[simp] theorem astOf_markBusy (m : Nat) : astOf (markBusy s) m = astOf s m := rfl
@[simp] theorem running_markBusy : running (markBusy s) = running s := rfl
@[simp] theorem lanesGiven_markBusy (m : Nat) : lanesGiven (markBusy s) m = lanesGiven s m := rfl
@[simp] theorem partOf_modLport (n : Nat) (f : LPort → LPort) (m : Nat) : partOf (modLport s n f) m = partOf s m := rfl
@[simp] theorem fnOf_modLport (n : Nat) (f : LPort → LPort) (m : Nat) : fnOf (modLport s n f) m = fnOf s m := rfl
@[simp] theorem regField_modLport (n : Nat) (f : LPort → LPort) (ro rl rw : Nat) : regField (modLport s n f) ro rl rw = regField s ro rl rw := rfl
@[simp] theorem ctr_modLport (n : Nat) (f : LPort → LPort) (d : Ctr) : ctr (modLport s n f) d = ctr s d := rfl
@[simp] theorem selfNode_modLport (n : Nat) (f : LPort → LPort) : selfNode (modLport s n f) = selfNode s := rfl
@[simp] theorem isFenced_modLport (n : Nat) (f : LPort → LPort) (m : Nat) : isFenced (modLport s n f) m = isFenced s m := rfl
@[simp] theorem tierOf_modLport (n : Nat) (f : LPort → LPort) (m : Nat) : tierOf (modLport s n f) m = tierOf s m := rfl
@[simp] theorem astOf_modLport (n : Nat) (f : LPort → LPort) (m : Nat) : astOf (modLport s n f) m = astOf s m := rfl
@[simp] theorem regionPow_modLport (n : Nat) (f : LPort → LPort) (m : Nat) : regionPow (modLport s n f) m = regionPow s m := rfl
@[simp] theorem running_modLport (n : Nat) (f : LPort → LPort) : running (modLport s n f) = running s := rfl
@[simp] theorem lanesGiven_modLport (n : Nat) (f : LPort → LPort) (m : Nat) : lanesGiven (modLport s n f) m = lanesGiven s m := rfl
@[simp] theorem lportOf_modFn (n : Nat) (f : Fn → Fn) (m : Nat) : lportOf (modFn s n f) m = lportOf s m := rfl
@[simp] theorem partOf_modFn (n : Nat) (f : Fn → Fn) (m : Nat) : partOf (modFn s n f) m = partOf s m := rfl
@[simp] theorem regField_modFn (n : Nat) (f : Fn → Fn) (ro rl rw : Nat) : regField (modFn s n f) ro rl rw = regField s ro rl rw := rfl
@[simp] theorem ctr_modFn (n : Nat) (f : Fn → Fn) (d : Ctr) : ctr (modFn s n f) d = ctr s d := rfl
@[simp] theorem selfNode_modFn (n : Nat) (f : Fn → Fn) : selfNode (modFn s n f) = selfNode s := rfl
@[simp] theorem isFenced_modFn (n : Nat) (f : Fn → Fn) (m : Nat) : isFenced (modFn s n f) m = isFenced s m := rfl
@[simp] theorem tierOf_modFn (n : Nat) (f : Fn → Fn) (m : Nat) : tierOf (modFn s n f) m = tierOf s m := rfl
@[simp] theorem astOf_modFn (n : Nat) (f : Fn → Fn) (m : Nat) : astOf (modFn s n f) m = astOf s m := rfl
@[simp] theorem regionPow_modFn (n : Nat) (f : Fn → Fn) (m : Nat) : regionPow (modFn s n f) m = regionPow s m := rfl
@[simp] theorem running_modFn (n : Nat) (f : Fn → Fn) : running (modFn s n f) = running s := rfl
@[simp] theorem lanesGiven_modFn (n : Nat) (f : Fn → Fn) (m : Nat) : lanesGiven (modFn s n f) m = lanesGiven s m := rfl
@[simp] theorem lportOf_modOut (n : Nat) (f : OutReq → OutReq) (m : Nat) : lportOf (modOut s n f) m = lportOf s m := rfl
@[simp] theorem partOf_modOut (n : Nat) (f : OutReq → OutReq) (m : Nat) : partOf (modOut s n f) m = partOf s m := rfl
@[simp] theorem fnOf_modOut (n : Nat) (f : OutReq → OutReq) (m : Nat) : fnOf (modOut s n f) m = fnOf s m := rfl
@[simp] theorem regField_modOut (n : Nat) (f : OutReq → OutReq) (ro rl rw : Nat) : regField (modOut s n f) ro rl rw = regField s ro rl rw := rfl
@[simp] theorem ctr_modOut (n : Nat) (f : OutReq → OutReq) (d : Ctr) : ctr (modOut s n f) d = ctr s d := rfl
@[simp] theorem selfNode_modOut (n : Nat) (f : OutReq → OutReq) : selfNode (modOut s n f) = selfNode s := rfl
@[simp] theorem isFenced_modOut (n : Nat) (f : OutReq → OutReq) (m : Nat) : isFenced (modOut s n f) m = isFenced s m := rfl
@[simp] theorem tierOf_modOut (n : Nat) (f : OutReq → OutReq) (m : Nat) : tierOf (modOut s n f) m = tierOf s m := rfl
@[simp] theorem astOf_modOut (n : Nat) (f : OutReq → OutReq) (m : Nat) : astOf (modOut s n f) m = astOf s m := rfl
@[simp] theorem regionPow_modOut (n : Nat) (f : OutReq → OutReq) (m : Nat) : regionPow (modOut s n f) m = regionPow s m := rfl
@[simp] theorem running_modOut (n : Nat) (f : OutReq → OutReq) : running (modOut s n f) = running s := rfl
@[simp] theorem lanesGiven_modOut (n : Nat) (f : OutReq → OutReq) (m : Nat) : lanesGiven (modOut s n f) m = lanesGiven s m := rfl
@[simp] theorem lportOf_bumpOwn (n : Nat) (m : Nat) : lportOf (bumpOwn s n) m = lportOf s m := rfl
@[simp] theorem partOf_bumpOwn (n : Nat) (m : Nat) : partOf (bumpOwn s n) m = partOf s m := rfl
@[simp] theorem fnOf_bumpOwn (n : Nat) (m : Nat) : fnOf (bumpOwn s n) m = fnOf s m := rfl
@[simp] theorem regField_bumpOwn (n : Nat) (ro rl rw : Nat) : regField (bumpOwn s n) ro rl rw = regField s ro rl rw := rfl
@[simp] theorem ctr_bumpOwn (n : Nat) (d : Ctr) : ctr (bumpOwn s n) d = ctr s d := rfl
@[simp] theorem selfNode_bumpOwn (n : Nat) : selfNode (bumpOwn s n) = selfNode s := rfl
@[simp] theorem isFenced_bumpOwn (n : Nat) (m : Nat) : isFenced (bumpOwn s n) m = isFenced s m := rfl
@[simp] theorem tierOf_bumpOwn (n : Nat) (m : Nat) : tierOf (bumpOwn s n) m = tierOf s m := rfl
@[simp] theorem astOf_bumpOwn (n : Nat) (m : Nat) : astOf (bumpOwn s n) m = astOf s m := rfl
@[simp] theorem regionPow_bumpOwn (n : Nat) (m : Nat) : regionPow (bumpOwn s n) m = regionPow s m := rfl
@[simp] theorem running_bumpOwn (n : Nat) : running (bumpOwn s n) = running s := rfl
@[simp] theorem lanesGiven_bumpOwn (n : Nat) (m : Nat) : lanesGiven (bumpOwn s n) m = lanesGiven s m := rfl
@[simp] theorem lportOf_setField (o lo w x : Nat) (m : Nat) : lportOf (setField s o lo w x) m = lportOf s m := rfl
@[simp] theorem partOf_setField (o lo w x : Nat) (m : Nat) : partOf (setField s o lo w x) m = partOf s m := rfl
@[simp] theorem fnOf_setField (o lo w x : Nat) (m : Nat) : fnOf (setField s o lo w x) m = fnOf s m := rfl
@[simp] theorem ctr_setField (o lo w x : Nat) (d : Ctr) : ctr (setField s o lo w x) d = ctr s d := rfl
@[simp] theorem selfNode_setField (o lo w x : Nat) : selfNode (setField s o lo w x) = selfNode s := rfl
@[simp] theorem isFenced_setField (o lo w x : Nat) (m : Nat) : isFenced (setField s o lo w x) m = isFenced s m := rfl
@[simp] theorem tierOf_setField (o lo w x : Nat) (m : Nat) : tierOf (setField s o lo w x) m = tierOf s m := rfl
@[simp] theorem astOf_setField (o lo w x : Nat) (m : Nat) : astOf (setField s o lo w x) m = astOf s m := rfl
@[simp] theorem regionPow_setField (o lo w x : Nat) (m : Nat) : regionPow (setField s o lo w x) m = regionPow s m := rfl
@[simp] theorem running_setField (o lo w x : Nat) : running (setField s o lo w x) = running s := rfl
@[simp] theorem lportOf_modPart (n : Nat) (f : Partition → Partition) (m : Nat) : lportOf (modPart s n f) m = lportOf s m := rfl
@[simp] theorem fnOf_modPart (n : Nat) (f : Partition → Partition) (m : Nat) : fnOf (modPart s n f) m = fnOf s m := rfl
@[simp] theorem regField_modPart (n : Nat) (f : Partition → Partition) (ro rl rw : Nat) : regField (modPart s n f) ro rl rw = regField s ro rl rw := rfl
@[simp] theorem ctr_modPart (n : Nat) (f : Partition → Partition) (d : Ctr) : ctr (modPart s n f) d = ctr s d := rfl
@[simp] theorem selfNode_modPart (n : Nat) (f : Partition → Partition) : selfNode (modPart s n f) = selfNode s := rfl
@[simp] theorem isFenced_modPart (n : Nat) (f : Partition → Partition) (m : Nat) : isFenced (modPart s n f) m = isFenced s m := rfl
@[simp] theorem tierOf_modPart (n : Nat) (f : Partition → Partition) (m : Nat) : tierOf (modPart s n f) m = tierOf s m := rfl
@[simp] theorem astOf_modPart (n : Nat) (f : Partition → Partition) (m : Nat) : astOf (modPart s n f) m = astOf s m := rfl
@[simp] theorem regionPow_modPart (n : Nat) (f : Partition → Partition) (m : Nat) : regionPow (modPart s n f) m = regionPow s m := rfl
@[simp] theorem running_modPart (n : Nat) (f : Partition → Partition) : running (modPart s n f) = running s := rfl
@[simp] theorem lanesGiven_modPart (n : Nat) (f : Partition → Partition) (m : Nat) : lanesGiven (modPart s n f) m = lanesGiven s m := rfl
@[simp] theorem lportOf_modTier (n : Nat) (f : TierEntry → TierEntry) (m : Nat) : lportOf (modTier s n f) m = lportOf s m := rfl
@[simp] theorem partOf_modTier (n : Nat) (f : TierEntry → TierEntry) (m : Nat) : partOf (modTier s n f) m = partOf s m := rfl
@[simp] theorem fnOf_modTier (n : Nat) (f : TierEntry → TierEntry) (m : Nat) : fnOf (modTier s n f) m = fnOf s m := rfl
@[simp] theorem regField_modTier (n : Nat) (f : TierEntry → TierEntry) (ro rl rw : Nat) : regField (modTier s n f) ro rl rw = regField s ro rl rw := rfl
@[simp] theorem ctr_modTier (n : Nat) (f : TierEntry → TierEntry) (d : Ctr) : ctr (modTier s n f) d = ctr s d := rfl
@[simp] theorem selfNode_modTier (n : Nat) (f : TierEntry → TierEntry) : selfNode (modTier s n f) = selfNode s := rfl
@[simp] theorem isFenced_modTier (n : Nat) (f : TierEntry → TierEntry) (m : Nat) : isFenced (modTier s n f) m = isFenced s m := rfl
@[simp] theorem astOf_modTier (n : Nat) (f : TierEntry → TierEntry) (m : Nat) : astOf (modTier s n f) m = astOf s m := rfl
@[simp] theorem regionPow_modTier (n : Nat) (f : TierEntry → TierEntry) (m : Nat) : regionPow (modTier s n f) m = regionPow s m := rfl
@[simp] theorem running_modTier (n : Nat) (f : TierEntry → TierEntry) : running (modTier s n f) = running s := rfl
@[simp] theorem lanesGiven_modTier (n : Nat) (f : TierEntry → TierEntry) (m : Nat) : lanesGiven (modTier s n f) m = lanesGiven s m := rfl
@[simp] theorem lportOf_modOp (n : Nat) (f : MemOp → MemOp) (m : Nat) : lportOf (modOp s n f) m = lportOf s m := rfl
@[simp] theorem partOf_modOp (n : Nat) (f : MemOp → MemOp) (m : Nat) : partOf (modOp s n f) m = partOf s m := rfl
@[simp] theorem fnOf_modOp (n : Nat) (f : MemOp → MemOp) (m : Nat) : fnOf (modOp s n f) m = fnOf s m := rfl
@[simp] theorem regField_modOp (n : Nat) (f : MemOp → MemOp) (ro rl rw : Nat) : regField (modOp s n f) ro rl rw = regField s ro rl rw := rfl
@[simp] theorem ctr_modOp (n : Nat) (f : MemOp → MemOp) (d : Ctr) : ctr (modOp s n f) d = ctr s d := rfl
@[simp] theorem selfNode_modOp (n : Nat) (f : MemOp → MemOp) : selfNode (modOp s n f) = selfNode s := rfl
@[simp] theorem isFenced_modOp (n : Nat) (f : MemOp → MemOp) (m : Nat) : isFenced (modOp s n f) m = isFenced s m := rfl
@[simp] theorem astOf_modOp (n : Nat) (f : MemOp → MemOp) (m : Nat) : astOf (modOp s n f) m = astOf s m := rfl
@[simp] theorem regionPow_modOp (n : Nat) (f : MemOp → MemOp) (m : Nat) : regionPow (modOp s n f) m = regionPow s m := rfl
@[simp] theorem running_modOp (n : Nat) (f : MemOp → MemOp) : running (modOp s n f) = running s := rfl
@[simp] theorem lanesGiven_modOp (n : Nat) (f : MemOp → MemOp) (m : Nat) : lanesGiven (modOp s n f) m = lanesGiven s m := rfl
@[simp] theorem lportOf_setArb (n : Nat) (a : Arb) (m : Nat) : lportOf (setArb s n a) m = lportOf s m := rfl
@[simp] theorem partOf_setArb (n : Nat) (a : Arb) (m : Nat) : partOf (setArb s n a) m = partOf s m := rfl
@[simp] theorem fnOf_setArb (n : Nat) (a : Arb) (m : Nat) : fnOf (setArb s n a) m = fnOf s m := rfl
@[simp] theorem regField_setArb (n : Nat) (a : Arb) (ro rl rw : Nat) : regField (setArb s n a) ro rl rw = regField s ro rl rw := rfl
@[simp] theorem ctr_setArb (n : Nat) (a : Arb) (d : Ctr) : ctr (setArb s n a) d = ctr s d := rfl
@[simp] theorem selfNode_setArb (n : Nat) (a : Arb) : selfNode (setArb s n a) = selfNode s := rfl
@[simp] theorem isFenced_setArb (n : Nat) (a : Arb) (m : Nat) : isFenced (setArb s n a) m = isFenced s m := rfl
@[simp] theorem astOf_setArb (n : Nat) (a : Arb) (m : Nat) : astOf (setArb s n a) m = astOf s m := rfl
@[simp] theorem regionPow_setArb (n : Nat) (a : Arb) (m : Nat) : regionPow (setArb s n a) m = regionPow s m := rfl
@[simp] theorem running_setArb (n : Nat) (a : Arb) : running (setArb s n a) = running s := rfl
@[simp] theorem lanesGiven_setArb (n : Nat) (a : Arb) (m : Nat) : lanesGiven (setArb s n a) m = lanesGiven s m := rfl
@[simp] theorem lportOf_modAst (n : Nat) (f : Ast → Ast) (m : Nat) : lportOf (modAst s n f) m = lportOf s m := rfl
@[simp] theorem partOf_modAst (n : Nat) (f : Ast → Ast) (m : Nat) : partOf (modAst s n f) m = partOf s m := rfl
@[simp] theorem fnOf_modAst (n : Nat) (f : Ast → Ast) (m : Nat) : fnOf (modAst s n f) m = fnOf s m := rfl
@[simp] theorem regField_modAst (n : Nat) (f : Ast → Ast) (ro rl rw : Nat) : regField (modAst s n f) ro rl rw = regField s ro rl rw := rfl
@[simp] theorem ctr_modAst (n : Nat) (f : Ast → Ast) (d : Ctr) : ctr (modAst s n f) d = ctr s d := rfl
@[simp] theorem selfNode_modAst (n : Nat) (f : Ast → Ast) : selfNode (modAst s n f) = selfNode s := rfl
@[simp] theorem isFenced_modAst (n : Nat) (f : Ast → Ast) (m : Nat) : isFenced (modAst s n f) m = isFenced s m := rfl
@[simp] theorem tierOf_modAst (n : Nat) (f : Ast → Ast) (m : Nat) : tierOf (modAst s n f) m = tierOf s m := rfl
@[simp] theorem regionPow_modAst (n : Nat) (f : Ast → Ast) (m : Nat) : regionPow (modAst s n f) m = regionPow s m := rfl
@[simp] theorem running_modAst (n : Nat) (f : Ast → Ast) : running (modAst s n f) = running s := rfl
@[simp] theorem lanesGiven_modAst (n : Nat) (f : Ast → Ast) (m : Nat) : lanesGiven (modAst s n f) m = lanesGiven s m := rfl
@[simp] theorem lportOf_modDom (n : Nat) (f : Domain → Domain) (m : Nat) : lportOf (modDom s n f) m = lportOf s m := rfl
@[simp] theorem partOf_modDom (n : Nat) (f : Domain → Domain) (m : Nat) : partOf (modDom s n f) m = partOf s m := rfl
@[simp] theorem fnOf_modDom (n : Nat) (f : Domain → Domain) (m : Nat) : fnOf (modDom s n f) m = fnOf s m := rfl
@[simp] theorem regField_modDom (n : Nat) (f : Domain → Domain) (ro rl rw : Nat) : regField (modDom s n f) ro rl rw = regField s ro rl rw := rfl
@[simp] theorem ctr_modDom (n : Nat) (f : Domain → Domain) (d : Ctr) : ctr (modDom s n f) d = ctr s d := rfl
@[simp] theorem selfNode_modDom (n : Nat) (f : Domain → Domain) : selfNode (modDom s n f) = selfNode s := rfl
@[simp] theorem isFenced_modDom (n : Nat) (f : Domain → Domain) (m : Nat) : isFenced (modDom s n f) m = isFenced s m := rfl
@[simp] theorem tierOf_modDom (n : Nat) (f : Domain → Domain) (m : Nat) : tierOf (modDom s n f) m = tierOf s m := rfl
@[simp] theorem astOf_modDom (n : Nat) (f : Domain → Domain) (m : Nat) : astOf (modDom s n f) m = astOf s m := rfl
@[simp] theorem regionPow_modDom (n : Nat) (f : Domain → Domain) (m : Nat) : regionPow (modDom s n f) m = regionPow s m := rfl
@[simp] theorem running_modDom (n : Nat) (f : Domain → Domain) : running (modDom s n f) = running s := rfl
@[simp] theorem lanesGiven_modDom (n : Nat) (f : Domain → Domain) (m : Nat) : lanesGiven (modDom s n f) m = lanesGiven s m := rfl
@[simp] theorem lportOf_modRegion (n : Nat) (f : SharedRegion → SharedRegion) (m : Nat) : lportOf (modRegion s n f) m = lportOf s m := rfl
@[simp] theorem partOf_modRegion (n : Nat) (f : SharedRegion → SharedRegion) (m : Nat) : partOf (modRegion s n f) m = partOf s m := rfl
@[simp] theorem fnOf_modRegion (n : Nat) (f : SharedRegion → SharedRegion) (m : Nat) : fnOf (modRegion s n f) m = fnOf s m := rfl
@[simp] theorem regField_modRegion (n : Nat) (f : SharedRegion → SharedRegion) (ro rl rw : Nat) : regField (modRegion s n f) ro rl rw = regField s ro rl rw := rfl
@[simp] theorem ctr_modRegion (n : Nat) (f : SharedRegion → SharedRegion) (d : Ctr) : ctr (modRegion s n f) d = ctr s d := rfl
@[simp] theorem selfNode_modRegion (n : Nat) (f : SharedRegion → SharedRegion) : selfNode (modRegion s n f) = selfNode s := rfl
@[simp] theorem isFenced_modRegion (n : Nat) (f : SharedRegion → SharedRegion) (m : Nat) : isFenced (modRegion s n f) m = isFenced s m := rfl
@[simp] theorem tierOf_modRegion (n : Nat) (f : SharedRegion → SharedRegion) (m : Nat) : tierOf (modRegion s n f) m = tierOf s m := rfl
@[simp] theorem astOf_modRegion (n : Nat) (f : SharedRegion → SharedRegion) (m : Nat) : astOf (modRegion s n f) m = astOf s m := rfl
@[simp] theorem regionPow_modRegion (n : Nat) (f : SharedRegion → SharedRegion) (m : Nat) : regionPow (modRegion s n f) m = regionPow s m := rfl
@[simp] theorem running_modRegion (n : Nat) (f : SharedRegion → SharedRegion) : running (modRegion s n f) = running s := rfl
@[simp] theorem lanesGiven_modRegion (n : Nat) (f : SharedRegion → SharedRegion) (m : Nat) : lanesGiven (modRegion s n f) m = lanesGiven s m := rfl
@[simp] theorem lportOf_modFab (f : Fab → Fab) (m : Nat) : lportOf (modFab s f) m = lportOf s m := rfl
@[simp] theorem partOf_modFab (f : Fab → Fab) (m : Nat) : partOf (modFab s f) m = partOf s m := rfl
@[simp] theorem fnOf_modFab (f : Fab → Fab) (m : Nat) : fnOf (modFab s f) m = fnOf s m := rfl
@[simp] theorem regField_modFab (f : Fab → Fab) (ro rl rw : Nat) : regField (modFab s f) ro rl rw = regField s ro rl rw := rfl
@[simp] theorem ctr_modFab (f : Fab → Fab) (d : Ctr) : ctr (modFab s f) d = ctr s d := rfl
@[simp] theorem selfNode_modFab (f : Fab → Fab) : selfNode (modFab s f) = selfNode s := rfl
@[simp] theorem isFenced_modFab (f : Fab → Fab) (m : Nat) : isFenced (modFab s f) m = isFenced s m := rfl
@[simp] theorem tierOf_modFab (f : Fab → Fab) (m : Nat) : tierOf (modFab s f) m = tierOf s m := rfl
@[simp] theorem astOf_modFab (f : Fab → Fab) (m : Nat) : astOf (modFab s f) m = astOf s m := rfl
@[simp] theorem regionPow_modFab (f : Fab → Fab) (m : Nat) : regionPow (modFab s f) m = regionPow s m := rfl
@[simp] theorem running_modFab (f : Fab → Fab) : running (modFab s f) = running s := rfl
@[simp] theorem lanesGiven_modFab (f : Fab → Fab) (m : Nat) : lanesGiven (modFab s f) m = lanesGiven s m := rfl
@[simp] theorem lportOf_modPkt (n : Nat) (f : QPkt → QPkt) (m : Nat) : lportOf (modPkt s n f) m = lportOf s m := rfl
@[simp] theorem partOf_modPkt (n : Nat) (f : QPkt → QPkt) (m : Nat) : partOf (modPkt s n f) m = partOf s m := rfl
@[simp] theorem fnOf_modPkt (n : Nat) (f : QPkt → QPkt) (m : Nat) : fnOf (modPkt s n f) m = fnOf s m := rfl
@[simp] theorem regField_modPkt (n : Nat) (f : QPkt → QPkt) (ro rl rw : Nat) : regField (modPkt s n f) ro rl rw = regField s ro rl rw := rfl
@[simp] theorem ctr_modPkt (n : Nat) (f : QPkt → QPkt) (d : Ctr) : ctr (modPkt s n f) d = ctr s d := rfl
@[simp] theorem selfNode_modPkt (n : Nat) (f : QPkt → QPkt) : selfNode (modPkt s n f) = selfNode s := rfl
@[simp] theorem isFenced_modPkt (n : Nat) (f : QPkt → QPkt) (m : Nat) : isFenced (modPkt s n f) m = isFenced s m := rfl
@[simp] theorem tierOf_modPkt (n : Nat) (f : QPkt → QPkt) (m : Nat) : tierOf (modPkt s n f) m = tierOf s m := rfl
@[simp] theorem astOf_modPkt (n : Nat) (f : QPkt → QPkt) (m : Nat) : astOf (modPkt s n f) m = astOf s m := rfl
@[simp] theorem regionPow_modPkt (n : Nat) (f : QPkt → QPkt) (m : Nat) : regionPow (modPkt s n f) m = regionPow s m := rfl
@[simp] theorem running_modPkt (n : Nat) (f : QPkt → QPkt) : running (modPkt s n f) = running s := rfl
@[simp] theorem lanesGiven_modPkt (n : Nat) (f : QPkt → QPkt) (m : Nat) : lanesGiven (modPkt s n f) m = lanesGiven s m := rfl
@[simp] theorem partOf_modLink (n : Nat) (f : Link → Link) (m : Nat) : partOf (modLink s n f) m = partOf s m := rfl
@[simp] theorem fnOf_modLink (n : Nat) (f : Link → Link) (m : Nat) : fnOf (modLink s n f) m = fnOf s m := rfl
@[simp] theorem regField_modLink (n : Nat) (f : Link → Link) (ro rl rw : Nat) : regField (modLink s n f) ro rl rw = regField s ro rl rw := rfl
@[simp] theorem ctr_modLink (n : Nat) (f : Link → Link) (d : Ctr) : ctr (modLink s n f) d = ctr s d := rfl
@[simp] theorem selfNode_modLink (n : Nat) (f : Link → Link) : selfNode (modLink s n f) = selfNode s := rfl
@[simp] theorem isFenced_modLink (n : Nat) (f : Link → Link) (m : Nat) : isFenced (modLink s n f) m = isFenced s m := rfl
@[simp] theorem tierOf_modLink (n : Nat) (f : Link → Link) (m : Nat) : tierOf (modLink s n f) m = tierOf s m := rfl
@[simp] theorem astOf_modLink (n : Nat) (f : Link → Link) (m : Nat) : astOf (modLink s n f) m = astOf s m := rfl
@[simp] theorem regionPow_modLink (n : Nat) (f : Link → Link) (m : Nat) : regionPow (modLink s n f) m = regionPow s m := rfl
@[simp] theorem running_modLink (n : Nat) (f : Link → Link) : running (modLink s n f) = running s := rfl
@[simp] theorem lanesGiven_modLink (n : Nat) (f : Link → Link) (m : Nat) : lanesGiven (modLink s n f) m = lanesGiven s m := rfl
@[simp] theorem lportOf_modTk (f : TimeKeep → TimeKeep) (m : Nat) : lportOf (modTk s f) m = lportOf s m := rfl
@[simp] theorem partOf_modTk (f : TimeKeep → TimeKeep) (m : Nat) : partOf (modTk s f) m = partOf s m := rfl
@[simp] theorem fnOf_modTk (f : TimeKeep → TimeKeep) (m : Nat) : fnOf (modTk s f) m = fnOf s m := rfl
@[simp] theorem regField_modTk (f : TimeKeep → TimeKeep) (ro rl rw : Nat) : regField (modTk s f) ro rl rw = regField s ro rl rw := rfl
@[simp] theorem ctr_modTk (f : TimeKeep → TimeKeep) (d : Ctr) : ctr (modTk s f) d = ctr s d := rfl
@[simp] theorem selfNode_modTk (f : TimeKeep → TimeKeep) : selfNode (modTk s f) = selfNode s := rfl
@[simp] theorem isFenced_modTk (f : TimeKeep → TimeKeep) (m : Nat) : isFenced (modTk s f) m = isFenced s m := rfl
@[simp] theorem tierOf_modTk (f : TimeKeep → TimeKeep) (m : Nat) : tierOf (modTk s f) m = tierOf s m := rfl
@[simp] theorem astOf_modTk (f : TimeKeep → TimeKeep) (m : Nat) : astOf (modTk s f) m = astOf s m := rfl
@[simp] theorem regionPow_modTk (f : TimeKeep → TimeKeep) (m : Nat) : regionPow (modTk s f) m = regionPow s m := rfl
@[simp] theorem running_modTk (f : TimeKeep → TimeKeep) : running (modTk s f) = running s := rfl
@[simp] theorem lanesGiven_modTk (f : TimeKeep → TimeKeep) (m : Nat) : lanesGiven (modTk s f) m = lanesGiven s m := rfl
@[simp] theorem lportOf_modSec (f : Sec → Sec) (m : Nat) : lportOf (modSec s f) m = lportOf s m := rfl
@[simp] theorem partOf_modSec (f : Sec → Sec) (m : Nat) : partOf (modSec s f) m = partOf s m := rfl
@[simp] theorem fnOf_modSec (f : Sec → Sec) (m : Nat) : fnOf (modSec s f) m = fnOf s m := rfl
@[simp] theorem regField_modSec (f : Sec → Sec) (ro rl rw : Nat) : regField (modSec s f) ro rl rw = regField s ro rl rw := rfl
@[simp] theorem ctr_modSec (f : Sec → Sec) (d : Ctr) : ctr (modSec s f) d = ctr s d := rfl
@[simp] theorem selfNode_modSec (f : Sec → Sec) : selfNode (modSec s f) = selfNode s := rfl
@[simp] theorem isFenced_modSec (f : Sec → Sec) (m : Nat) : isFenced (modSec s f) m = isFenced s m := rfl
@[simp] theorem tierOf_modSec (f : Sec → Sec) (m : Nat) : tierOf (modSec s f) m = tierOf s m := rfl
@[simp] theorem astOf_modSec (f : Sec → Sec) (m : Nat) : astOf (modSec s f) m = astOf s m := rfl
@[simp] theorem regionPow_modSec (f : Sec → Sec) (m : Nat) : regionPow (modSec s f) m = regionPow s m := rfl
@[simp] theorem running_modSec (f : Sec → Sec) : running (modSec s f) = running s := rfl
@[simp] theorem lanesGiven_modSec (f : Sec → Sec) (m : Nat) : lanesGiven (modSec s f) m = lanesGiven s m := rfl
@[simp] theorem lportOf_modRas (f : Ras → Ras) (m : Nat) : lportOf (modRas s f) m = lportOf s m := rfl
@[simp] theorem partOf_modRas (f : Ras → Ras) (m : Nat) : partOf (modRas s f) m = partOf s m := rfl
@[simp] theorem fnOf_modRas (f : Ras → Ras) (m : Nat) : fnOf (modRas s f) m = fnOf s m := rfl
@[simp] theorem regField_modRas (f : Ras → Ras) (ro rl rw : Nat) : regField (modRas s f) ro rl rw = regField s ro rl rw := rfl
@[simp] theorem ctr_modRas (f : Ras → Ras) (d : Ctr) : ctr (modRas s f) d = ctr s d := rfl
@[simp] theorem selfNode_modRas (f : Ras → Ras) : selfNode (modRas s f) = selfNode s := rfl
@[simp] theorem tierOf_modRas (f : Ras → Ras) (m : Nat) : tierOf (modRas s f) m = tierOf s m := rfl
@[simp] theorem astOf_modRas (f : Ras → Ras) (m : Nat) : astOf (modRas s f) m = astOf s m := rfl
@[simp] theorem regionPow_modRas (f : Ras → Ras) (m : Nat) : regionPow (modRas s f) m = regionPow s m := rfl
@[simp] theorem running_modRas (f : Ras → Ras) : running (modRas s f) = running s := rfl
@[simp] theorem lanesGiven_modRas (f : Ras → Ras) (m : Nat) : lanesGiven (modRas s f) m = lanesGiven s m := rfl
@[simp] theorem lportOf_modPower (f : Power → Power) (m : Nat) : lportOf (modPower s f) m = lportOf s m := rfl
@[simp] theorem partOf_modPower (f : Power → Power) (m : Nat) : partOf (modPower s f) m = partOf s m := rfl
@[simp] theorem fnOf_modPower (f : Power → Power) (m : Nat) : fnOf (modPower s f) m = fnOf s m := rfl
@[simp] theorem regField_modPower (f : Power → Power) (ro rl rw : Nat) : regField (modPower s f) ro rl rw = regField s ro rl rw := rfl
@[simp] theorem ctr_modPower (f : Power → Power) (d : Ctr) : ctr (modPower s f) d = ctr s d := rfl
@[simp] theorem selfNode_modPower (f : Power → Power) : selfNode (modPower s f) = selfNode s := rfl
@[simp] theorem isFenced_modPower (f : Power → Power) (m : Nat) : isFenced (modPower s f) m = isFenced s m := rfl
@[simp] theorem tierOf_modPower (f : Power → Power) (m : Nat) : tierOf (modPower s f) m = tierOf s m := rfl
@[simp] theorem astOf_modPower (f : Power → Power) (m : Nat) : astOf (modPower s f) m = astOf s m := rfl
@[simp] theorem running_modPower (f : Power → Power) : running (modPower s f) = running s := rfl
@[simp] theorem lanesGiven_modPower (f : Power → Power) (m : Nat) : lanesGiven (modPower s f) m = lanesGiven s m := rfl
@[simp] theorem lportOf_modQp (n q : Nat) (f : Qp → Qp) (m : Nat) : lportOf (modQp s n q f) m = lportOf s m := rfl
@[simp] theorem partOf_modQp (n q : Nat) (f : Qp → Qp) (m : Nat) : partOf (modQp s n q f) m = partOf s m := rfl
@[simp] theorem regField_modQp (n q : Nat) (f : Qp → Qp) (ro rl rw : Nat) : regField (modQp s n q f) ro rl rw = regField s ro rl rw := rfl
@[simp] theorem ctr_modQp (n q : Nat) (f : Qp → Qp) (d : Ctr) : ctr (modQp s n q f) d = ctr s d := rfl
@[simp] theorem selfNode_modQp (n q : Nat) (f : Qp → Qp) : selfNode (modQp s n q f) = selfNode s := rfl
@[simp] theorem isFenced_modQp (n q : Nat) (f : Qp → Qp) (m : Nat) : isFenced (modQp s n q f) m = isFenced s m := rfl
@[simp] theorem tierOf_modQp (n q : Nat) (f : Qp → Qp) (m : Nat) : tierOf (modQp s n q f) m = tierOf s m := rfl
@[simp] theorem astOf_modQp (n q : Nat) (f : Qp → Qp) (m : Nat) : astOf (modQp s n q f) m = astOf s m := rfl
@[simp] theorem regionPow_modQp (n q : Nat) (f : Qp → Qp) (m : Nat) : regionPow (modQp s n q f) m = regionPow s m := rfl
@[simp] theorem running_modQp (n q : Nat) (f : Qp → Qp) : running (modQp s n q f) = running s := rfl
@[simp] theorem lanesGiven_modQp (n q : Nat) (f : Qp → Qp) (m : Nat) : lanesGiven (modQp s n q f) m = lanesGiven s m := rfl
@[simp] theorem lportOf_modMbx (f : Mbx → Mbx) (m : Nat) : lportOf (modMbx s f) m = lportOf s m := rfl
@[simp] theorem partOf_modMbx (f : Mbx → Mbx) (m : Nat) : partOf (modMbx s f) m = partOf s m := rfl
@[simp] theorem fnOf_modMbx (f : Mbx → Mbx) (m : Nat) : fnOf (modMbx s f) m = fnOf s m := rfl
@[simp] theorem regField_modMbx (f : Mbx → Mbx) (ro rl rw : Nat) : regField (modMbx s f) ro rl rw = regField s ro rl rw := rfl
@[simp] theorem ctr_modMbx (f : Mbx → Mbx) (d : Ctr) : ctr (modMbx s f) d = ctr s d := rfl
@[simp] theorem selfNode_modMbx (f : Mbx → Mbx) : selfNode (modMbx s f) = selfNode s := rfl
@[simp] theorem isFenced_modMbx (f : Mbx → Mbx) (m : Nat) : isFenced (modMbx s f) m = isFenced s m := rfl
@[simp] theorem tierOf_modMbx (f : Mbx → Mbx) (m : Nat) : tierOf (modMbx s f) m = tierOf s m := rfl
@[simp] theorem astOf_modMbx (f : Mbx → Mbx) (m : Nat) : astOf (modMbx s f) m = astOf s m := rfl
@[simp] theorem regionPow_modMbx (f : Mbx → Mbx) (m : Nat) : regionPow (modMbx s f) m = regionPow s m := rfl
@[simp] theorem lanesGiven_modMbx (f : Mbx → Mbx) (m : Nat) : lanesGiven (modMbx s f) m = lanesGiven s m := rfl
@[simp] theorem lportOf_untilTime (t : Time) (m : Nat) : lportOf (untilTime s t) m = lportOf s m := by simp [lportOf]
@[simp] theorem partOf_untilTime (t : Time) (m : Nat) : partOf (untilTime s t) m = partOf s m := by simp [partOf]
@[simp] theorem fnOf_untilTime (t : Time) (m : Nat) : fnOf (untilTime s t) m = fnOf s m := by simp [fnOf]
@[simp] theorem regField_untilTime (t : Time) (ro rl rw : Nat) : regField (untilTime s t) ro rl rw = regField s ro rl rw := by unfold untilTime; split <;> rfl
@[simp] theorem ctr_untilTime (t : Time) (d : Ctr) : ctr (untilTime s t) d = ctr s d := by simp [ctr]
@[simp] theorem selfNode_untilTime (t : Time) : selfNode (untilTime s t) = selfNode s := by simp [selfNode]
@[simp] theorem isFenced_untilTime (t : Time) (m : Nat) : isFenced (untilTime s t) m = isFenced s m := by simp [isFenced]
@[simp] theorem tierOf_untilTime (t : Time) (m : Nat) : tierOf (untilTime s t) m = tierOf s m := by simp [tierOf]
@[simp] theorem astOf_untilTime (t : Time) (m : Nat) : astOf (untilTime s t) m = astOf s m := by simp [astOf]
@[simp] theorem regionPow_untilTime (t : Time) (m : Nat) : regionPow (untilTime s t) m = regionPow s m := by simp [regionPow]
@[simp] theorem running_untilTime (t : Time) : running (untilTime s t) = running s := by simp [running]
@[simp] theorem lanesGiven_untilTime (t : Time) (m : Nat) : lanesGiven (untilTime s t) m = lanesGiven s m := by unfold untilTime; split <;> rfl
@[simp] theorem partOf_setLink (n : Nat) (x : LinkState) (m : Nat) : partOf (setLink s n x) m = partOf s m := rfl
@[simp] theorem fnOf_setLink (n : Nat) (x : LinkState) (m : Nat) : fnOf (setLink s n x) m = fnOf s m := rfl
@[simp] theorem regField_setLink (n : Nat) (x : LinkState) (ro rl rw : Nat) : regField (setLink s n x) ro rl rw = regField s ro rl rw := rfl
@[simp] theorem ctr_setLink (n : Nat) (x : LinkState) (d : Ctr) : ctr (setLink s n x) d = ctr s d := rfl
@[simp] theorem selfNode_setLink (n : Nat) (x : LinkState) : selfNode (setLink s n x) = selfNode s := rfl
@[simp] theorem isFenced_setLink (n : Nat) (x : LinkState) (m : Nat) : isFenced (setLink s n x) m = isFenced s m := rfl
@[simp] theorem tierOf_setLink (n : Nat) (x : LinkState) (m : Nat) : tierOf (setLink s n x) m = tierOf s m := rfl
@[simp] theorem astOf_setLink (n : Nat) (x : LinkState) (m : Nat) : astOf (setLink s n x) m = astOf s m := rfl
@[simp] theorem regionPow_setLink (n : Nat) (x : LinkState) (m : Nat) : regionPow (setLink s n x) m = regionPow s m := rfl
@[simp] theorem running_setLink (n : Nat) (x : LinkState) : running (setLink s n x) = running s := rfl
@[simp] theorem lanesGiven_setLink (n : Nat) (x : LinkState) (m : Nat) : lanesGiven (setLink s n x) m = lanesGiven s m := rfl

end Sys2Proof.Machine
end

