-- ==== Sys2Proof/Safety.lean ====
section
/-! DEFINITION. Safety.lean: what statements about runs are phrased in: when an event of a part of the switch, a request or a
command is carried out, what follows every event of a link, and the form that memory keeps. -/
namespace Sys2Proof.Machine

/-- The switch runs and is not halted (R781, R913). -/
abbrev Up (s : State) : Prop := running s = true ∧ s.ras.halt = 0

/-- A logical port of a fabric port that is carried out for: the switch is up and the port's region is not fenced (R777). -/
abbrev PortLive (s : State) (n : Nat) : Prop := Up s ∧ n < 512 ∧ isFenced s (n / 32) = false

/-- What follows every event of a link: quarantine (R638), then everything that can go on. -/
abbrev linkAfter (u : State) (n : Nat) : State := settle hooks (checkQuar u n)

/-- The frame of an event of one logical port: every other port, and memory, translation, coherence, snapshots, engines,
partitions, buckets, shapers and registers stand as they were. -/
abbrev OnlyPort (s u : State) (n : Nat) : Prop :=
  (∀ m, m ≠ n → lportOf u m = lportOf s m) ∧ u.mem = s.mem ∧ u.xl = s.xl ∧ u.coh = s.coh ∧ u.snap = s.snap ∧ u.fab = s.fab ∧
    u.parts = s.parts ∧ u.buckets = s.buckets ∧ u.cfg = s.cfg

/-- A Hyser command is carried out: the switch runs, the command may start (R856), its function's TDI is not in ERROR (R750),
and it passes the checks that all commands share (R852). -/
abbrev CmdRuns (s : State) (c : Cmd) (sp : CmdSpec) (obj : Option Nat) (mine : Bool) : Prop :=
  running s = true ∧ mayStart s c sp = true ∧ tdiError (startCmd s c sp) c.fn = false ∧
    commonCheck (startCmd s c sp) c sp obj mine = none

/-- The memory of a state has its canonical form. -/
abbrev State.MemWf (s : State) : Prop := memWf s.mem.bytes = true

/-- The row's own opcode, and the packet, of a row that is a Jarti request (R71, R205). -/
def requestRow : Instr → Option (Op × Req)
  | .load p => some (.load, p)
  | .store p => some (.store, p)
  | .storeClearPoison p => some (.storeClearPoison, p)
  | .copy p => some (.copy, p)
  | .atomicAdd p => some (.atomic .add, p)
  | .atomicMin p => some (.atomic .min, p)
  | .atomicMax p => some (.atomic .max, p)
  | .atomicAnd p => some (.atomic .and, p)
  | .atomicOr p => some (.atomic .or, p)
  | .atomicXor p => some (.atomic .xor, p)
  | .atomicSwap p => some (.atomic .swap, p)
  | .atomicCas p => some (.atomic .cas, p)
  | .fence p => some (.fence, p)
  | .openVersion p => some (.openVersion, p)
  | .closeVersion p => some (.closeVersion, p)
  | .publish p => some (.publish, p)
  | .rdShared p => some (.rdShared, p)
  | .rdOwn p => some (.rdOwn, p)
  | .upgrade p => some (.upgrade, p)
  | .wbDirty p => some (.wbDirty, p)
  | .evictClean p => some (.evictClean, p)
  | .snpInv p => some (.snpInv, p)
  | .snpShare p => some (.snpShare, p)
  | .collContrib p => some (.collContrib, p)
  | .collPartial p => some (.collPartial, p)
  | .collDeliver p => some (.collDeliver, p)
  | .gather p => some (.gather, p)
  | .scatter p => some (.scatter, p)
  | .search p => some (.search, p)
  | .attend p => some (.attend, p)
  | .filter p => some (.filter, p)
  | .run p => some (.run, p)
  | .ownerCas p => some (.ownerCas, p)
  | _ => none

/-- The opcode and packet of a row that is a Jarti request: an encoding that is not listed comes with any of them (R71). -/
def requestOf (i : Instr) : Option (Op × Req) := (requestRow i).map fun e => (rowOp e.1 e.2, e.2)

/-- A packet on a logical port reaches the switch: it is up, Lantern captures nothing, and the port's partner is known
(R809). -/
abbrev Arrives (s : State) (n : Nat) : Prop := Up s ∧ regField s rLantern 0 1 = 0 ∧ discardUnknown s n = false

/-- What becomes of the link credit of n flits of a request once its meaning has run (R616, R660, R226): it is owed to the port, and goes back with
that of every other request that no longer waits in its port's buffer. -/
abbrev CreditEnds (v u : State) (p : Req) (n : Nat) : Prop :=
  u = payCredits { v with ing := { v.ing with owed := v.ing.owed ++ [{ p := p, flits := n }] } }

/-- An SPDM request reaches a connection that has been negotiated as far as it needs (R739, R741), of a switch with an identity. -/
abbrev SpdmReady (s : State) (need : Nat) : Prop :=
  running s = true ∧ mgmtUp s = true ∧ idLost s = false ∧ need ≤ s.sec.spdm

/-- The same within an established session. -/
abbrev InSession (s : State) (id : Nat) : Prop := SpdmReady s 3 ∧ sessionOpen s id = true

/-- The code and packet of a row that is a management message (R803, R805). -/
def messageOf : Instr → Option (Nat × Req)
  | .llHello p => some (0x80, p)
  | .llCert p => some (0x81, p)
  | .llState p => some (0x82, p)
  | .fmCommand p => some (0x83, p)
  | .fmReply p => some (0x84, p)
  | .routeWithdraw p => some (0x85, p)
  | .routeRestore p => some (0x86, p)
  | .event p => some (0x87, p)
  | .discardReport p => some (0x88, p)
  | .wickXchg p => some (0x89, p)
  | .ticket p => some (0x8A, p)
  | .linkKex p => some (0x8B, p)
  | .timeSync p => some (0x8E, p)
  | .timeFollow p => some (0x8F, p)
  | _ => none

/-- A management message arrives whose form is good: link-scoped ones name no destination; Lantern captures nothing, and a port
whose partner is not known carries only messages to no node (R805, R809). -/
abbrev MessageIn (s : State) (code : Nat) (p : Req) : Prop :=
  Up s ∧ regField s rLantern 0 1 = 0 ∧ (discardUnknown s p.lport = true → p.dst.toNat = noNode) ∧ step1Ok (.mgmt code) p = true ∧
    step3Ok (selfNode s) (.mgmt code) p = true ∧ (linkScoped code = true → p.dst.toNat = noNode)

/-- The state in which the Wick takes a message: an endpoint's is numbered (R86), and its link credit is given back (R660). -/
abbrev messageTaken (s : State) (code : Nat) (p : Req) : State :=
  let own := !facesSwitch s p.lport
  returnCredit (if own && (lportOf s p.lport).node = some p.src.toNat then noteSeq s p else s) p.lport
    (channelOf p.tc.toNat p.esc) (Packet.req (.mgmt code) p).flits

/-- The command in a signed command's body (R814). -/
abbrev signedBodyCmd (c : Cmd) (b : List Byte) : Cmd := { bodyCmd c (sliceBytes b 64 64) with list := some (b.take 128) }

/-- A signed command is carried out: it may start (R856), its outer descriptor is as R847 asks, the checks of R815 pass on what the
host read, and the body's descriptor is this command's (R848). -/
abbrev SignedRuns (s : State) (c : Cmd) (sp : CmdSpec) (b : List Byte) : Prop :=
  running s = true ∧ mayStart s c sp = true ∧ c.signed = true ∧ outerOk c = true ∧ c.fn = 0 ∧ c.host = some b ∧
    signedCheck s b = none ∧ leField b 64 1 = sp.group ∧ leField b 65 1 = sp.verb ∧
    (bodyCmd c (sliceBytes b 64 64)).outLen = 0 ∧ (bodyCmd c (sliceBytes b 64 64)).addr1 = 0 ∧
    descriptorOk (bodyCmd c (sliceBytes b 64 64)) sp = true ∧ (sp.host = true → c.list.isSome = true)

/-- The state in which a signed command takes its effect: it has started, and its CMD_SEQ is remembered (R814). -/
abbrev signedState (s : State) (c : Cmd) (sp : CmdSpec) (b : List Byte) : State := acceptSeq (startCmd s c sp) b

end Sys2Proof.Machine
end

