-- ==== Sys2Proof/Laws/Ops.lean ====
section
/-! SUPPORT. Laws/Ops.lean: one lemma for each shared operation: what it writes, and all that it leaves as it is. -/
namespace Sys2Proof.Machine

/-! ## What the named updates write -/

@[simp] theorem lportOf_modLport_self (s : State) (n : Nat) (f : LPort → LPort) : lportOf (modLport s n f) n = f (lportOf s n) := by
  simp [lportOf, modLport]

@[simp] theorem lportOf_modLport_other (s : State) (n m : Nat) (f : LPort → LPort) (h : m ≠ n) :
    lportOf (modLport s n f) m = lportOf s m := by
  simp [lportOf, modLport, h]

@[simp] theorem lportOf_modLink_self (s : State) (n : Nat) (f : Link → Link) :
    lportOf (modLink s n f) n = { lportOf s n with ll := f (lportOf s n).ll } := by
  simp [modLink]

@[simp] theorem lportOf_modLink_other (s : State) (n m : Nat) (f : Link → Link) (h : m ≠ n) :
    lportOf (modLink s n f) m = lportOf s m := by
  simp [modLink, h]

@[simp] theorem lportOf_setLink_self (s : State) (n : Nat) (st : LinkState) :
    lportOf (setLink s n st) n = { lportOf s n with link := st, entered := s.clk } := by
  simp [setLink]

@[simp] theorem lportOf_setLink_other (s : State) (n m : Nat) (st : LinkState) (h : m ≠ n) :
    lportOf (setLink s n st) m = lportOf s m := by
  simp [setLink, h]

@[simp] theorem emit_outs (s : State) (o : Out) : (emit s o).outs = s.outs ++ [o] := rfl
@[simp] theorem note_log (s : State) (k : String) (a : List Nat) : (note s k a).log = s.log ++ [⟨k, a, s.clk⟩] := rfl
@[simp] theorem modFab_fab (s : State) (f : Fab → Fab) : (modFab s f).fab = f s.fab := rfl
@[simp] theorem modTk_tk (s : State) (f : TimeKeep → TimeKeep) : (modTk s f).tk = f s.tk := rfl
@[simp] theorem modSec_sec (s : State) (f : Sec → Sec) : (modSec s f).sec = f s.sec := rfl
@[simp] theorem modRas_ras (s : State) (f : Ras → Ras) : (modRas s f).ras = f s.ras := rfl
@[simp] theorem modPower_power (s : State) (f : Power → Power) : (modPower s f).power = f s.power := rfl

theorem lportOf_congr {s t : State} (h : t.lports = s.lports) (n : Nat) : lportOf t n = lportOf s n := by
  simp [lportOf, h]

@[simp] theorem fnOf_modFn_self (s : State) (n : Nat) (f : Fn → Fn) : fnOf (modFn s n f) n = f (fnOf s n) := by
  simp [fnOf, modFn]

@[simp] theorem fnOf_modFn_other (s : State) (n m : Nat) (f : Fn → Fn) (h : m ≠ n) : fnOf (modFn s n f) m = fnOf s m := by
  simp [fnOf, modFn, h]

@[simp] theorem partOf_modPart_self (s : State) (n : Nat) (f : Partition → Partition) :
    partOf (modPart s n f) n = f (partOf s n) := by
  simp [partOf, modPart]

@[simp] theorem partOf_modPart_other (s : State) (n m : Nat) (f : Partition → Partition) (h : m ≠ n) :
    partOf (modPart s n f) m = partOf s m := by
  simp [partOf, modPart, h]

theorem partOf_congr {s t : State} (h : t.parts = s.parts) (n : Nat) : partOf t n = partOf s n := by
  simp [partOf, h]

theorem ctr_ctrSet (c d : Ctr) (v : Nat) (m : List (Ctr × Nat)) :
    (((ctrSet c v m).find? fun e => e.1 = d).map (·.2)).getD 0 =
      if d = c then v else ((m.find? fun e => e.1 = d).map (·.2)).getD 0 := by
  induction m with
  | nil => by_cases h : d = c <;> simp [ctrSet, h, eq_comm]
  | cons e m ih =>
    obtain ⟨e1, e2⟩ := e
    simp only [ctrSet]
    by_cases h : e1 = c
    · subst h
      by_cases hd : d = e1
      · subst hd; simp
      · have : ¬ e1 = d := fun h => hd h.symm
        simp [hd, this]
    · by_cases hd : e1 = d
      · subst hd; simp [h]
      · simp only [h, if_false, List.find?_cons, hd, decide_false]
        exact ih

/-- A counter after one is added to: it grows, saturating, and no other changes. -/
theorem ctr_bumpBy (s : State) (c d : Ctr) (w n : Nat) :
    ctr (bumpBy s c w n) d = if d = c then satAdd w (ctr s c) n else ctr s d := by
  simp only [ctr, bumpBy]
  exact ctr_ctrSet c d _ _

@[simp] theorem ctr_bump_self (s : State) (c : Ctr) : ctr (bump s c) c = satAdd 48 (ctr s c) 1 := by
  simp [bump, ctr_bumpBy]

@[simp] theorem ctr_bump_other (s : State) (c d : Ctr) (h : d ≠ c) : ctr (bump s c) d = ctr s d := by
  simp [bump, ctr_bumpBy, h]

/-- A timed event brings the clock to its time, and never back. -/
theorem untilTime_clk (s : State) (t : Time) : (untilTime s t).clk = max s.clk t := by
  unfold untilTime
  split
  · rename_i h
    exact (Nat.max_eq_right (Nat.le_of_lt h)).symm
  · rename_i h
    exact (Nat.max_eq_left (Nat.le_of_not_lt h)).symm

/-! ## Messages and reports change no table of the machine -/

/-- What stands in t as in s: all but queues of packets, messages and reports, scores, counters and logs. -/
structure Quiet (s t : State) : Prop where
  pending : t.pending = s.pending
  freeCtr : t.freeCtr = s.freeCtr
  part : t.part = s.part
  clk : t.clk = s.clk
  ftime : t.ftime = s.ftime
  cfg : t.cfg = s.cfg
  mem : t.mem = s.mem
  xl : t.xl = s.xl
  coh : t.coh = s.coh
  lports : t.lports = s.lports
  snap : t.snap = s.snap
  fab : t.fab = s.fab
  buckets : t.buckets = s.buckets
  shape : t.shape = s.shape
  tk : t.tk = s.tk
  parts : t.parts = s.parts
  sec : t.sec = s.sec
  waits : t.waits = s.waits
  boot : t.boot = s.boot
  tap : t.tap = s.tap

theorem Quiet.refl (s : State) : Quiet s s := by constructor <;> rfl

theorem Quiet.trans {s t u : State} (h : Quiet s t) (k : Quiet t u) : Quiet s u := by
  constructor
  all_goals first
    | exact k.pending.trans h.pending | exact k.freeCtr.trans h.freeCtr | exact k.part.trans h.part
    | exact k.clk.trans h.clk | exact k.ftime.trans h.ftime | exact k.cfg.trans h.cfg | exact k.mem.trans h.mem
    | exact k.xl.trans h.xl | exact k.coh.trans h.coh | exact k.lports.trans h.lports | exact k.snap.trans h.snap
    | exact k.fab.trans h.fab | exact k.buckets.trans h.buckets | exact k.shape.trans h.shape | exact k.tk.trans h.tk
    | exact k.parts.trans h.parts | exact k.sec.trans h.sec | exact k.waits.trans h.waits | exact k.boot.trans h.boot
    | exact k.tap.trans h.tap

theorem bumpBy_quiet (s : State) (c : Ctr) (w n : Nat) : Quiet s (bumpBy s c w n) := by constructor <;> rfl
theorem bump_quiet (s : State) (c : Ctr) : Quiet s (bump s c) := by constructor <;> rfl
theorem note_quiet (s : State) (k : String) (a : List Nat) : Quiet s (note s k a) := by constructor <;> rfl
theorem emit_quiet (s : State) (o : Out) : Quiet s (emit s o) := by constructor <;> rfl
theorem markBusy_quiet (s : State) : Quiet s (markBusy s) := by constructor <;> rfl
theorem modFn_quiet (s : State) (n : Nat) (f : Fn → Fn) : Quiet s (modFn s n f) := by constructor <;> rfl
theorem bumpOwn_quiet (s : State) (n : Nat) : Quiet s (bumpOwn s n) := by constructor <;> rfl
theorem noteMgmt_quiet (s : State) : Quiet s (noteMgmt s) := by constructor <;> rfl
theorem modOut_quiet (s : State) (n : Nat) (f : OutReq → OutReq) : Quiet s (modOut s n f) := by constructor <;> rfl

theorem fm_quiet (s : State) (x : Fm) : Quiet s { s with fm := x } := by constructor <;> rfl
theorem ras_quiet (s : State) (x : Ras) : Quiet s { s with ras := x } := by constructor <;> rfl
theorem reports_quiet (s : State) (x : List Report) : Quiet s { s with reports := x } := by constructor <;> rfl

theorem pushVoq_quiet (s : State) (a b c : Nat) (e : Bool) (k : Packet) (o : List Nat) : Quiet s (pushVoq s a b c e k o) := by
  constructor <;> rfl

theorem markHop_quiet (s : State) (d : Nat) (h : Option Nat) : Quiet s (markHop s d h) := by
  cases h <;> constructor <;> rfl

theorem enqueue_quiet (s : State) (a b : Nat) (e : Bool) (k : Packet) (t : State) (h : enqueue s a b e k = some t) : Quiet s t := by
  unfold enqueue at h
  split at h
  · cases h
    exact (markHop_quiet _ _ _).trans (pushVoq_quiet _ _ _ _ _ _ _)
  · cases h

theorem sendMgmt_quiet (s : State) (c d : Nat) (pl : List Byte) (t : State) (h : sendMgmt s c d pl = some t) : Quiet s t :=
  ((noteMgmt_quiet s).trans (bumpOwn_quiet _ d)).trans (enqueue_quiet _ _ _ _ _ t h)

theorem sendMgmt_getD_quiet (s : State) (c d : Nat) (pl : List Byte) : Quiet s ((sendMgmt s c d pl).getD s) := by
  cases h : sendMgmt s c d pl with
  | none => exact Quiet.refl s
  | some t => exact sendMgmt_quiet s c d pl t h

theorem sendLink_quiet (s : State) (c l : Nat) (pl : List Byte) : Quiet s (sendLink s c l pl) :=
  ((noteMgmt_quiet s).trans (bumpOwn_quiet _ noNode)).trans (pushVoq_quiet _ _ _ _ _ _ _)

theorem postEvent_quiet (s : State) (pl : List Byte) : Quiet s (postEvent s pl) := by
  unfold postEvent
  dsimp only
  split
  · exact Quiet.refl s
  · split <;> constructor <;> rfl

theorem eventsTo_quiet (pl : List Byte) (ms : List Manager) (s : State) : Quiet s (eventsTo pl ms s) := by
  induction ms generalizing s with
  | nil => exact Quiet.refl s
  | cons m ms ih =>
    simp only [eventsTo]
    refine Quiet.trans ?_ (ih _)
    split
    · exact Quiet.refl s
    · split
      · rename_i t h
        exact sendMgmt_quiet _ _ _ _ t h
      · constructor <;> rfl

/-- A report leaves every table as it is. -/
theorem report_quiet (s : State) (a b c d : Nat) : Quiet s (report s a b c d) :=
  (reports_quiet s _).trans ((eventsTo_quiet _ _ _).trans ((postEvent_quiet _ _).trans (fm_quiet _ _)))

theorem reportQueueError_quiet (s : State) (a b c : Nat) : Quiet s (reportQueueError s a b c) :=
  (reports_quiet s _).trans ((postEvent_quiet _ _).trans (fm_quiet _ _))

theorem penal_quiet (s : State) (l n : Nat) : Quiet s (penal s l n) := by
  unfold penal
  split
  · exact Quiet.refl s
  · dsimp only
    split
    · exact (ras_quiet s _).trans (report_quiet _ _ _ _ _)
    · exact ras_quiet s _

theorem startHealth_quiet (s : State) (l : Nat) : Quiet s (startHealth s l) := by
  unfold startHealth
  split
  · exact Quiet.refl s
  · constructor <;> rfl

theorem penalUnanswered_quiet (s : State) (l : Nat) : Quiet s (penalUnanswered s l) := by
  unfold penalUnanswered
  split
  · exact Quiet.refl s
  · dsimp only
    split_ifs <;> first | exact Quiet.refl s | exact (ras_quiet s _).trans (penal_quiet _ _ _)

theorem foldl_quiet {α : Type} (f : State → α → State) (h : ∀ s x, Quiet s (f s x)) (l : List α) (s : State) :
    Quiet s (l.foldl f s) := by
  induction l generalizing s with
  | nil => exact Quiet.refl s
  | cons x l ih => exact (h s x).trans (ih _)

theorem markOne_quiet (cause : Nat) (s : State) (id : Nat) : Quiet s (markOne cause s id) := by
  unfold markOne
  split
  · split
    · exact Quiet.refl s
    · dsimp only
      refine Quiet.trans ?_ (report_quiet _ _ _ _ _)
      refine Quiet.trans ?_ (foldl_quiet _ penalUnanswered_quiet _ _)
      exact (modOut_quiet _ _ _).trans (bump_quiet _ _)
  · exact Quiet.refl s

theorem markUnanswered_quiet (s : State) (id cause : Nat) : Quiet s (markUnanswered s id cause) :=
  (markOne_quiet _ _ _).trans (foldl_quiet _ (fun s x => markOne_quiet _ s x) _ _)

theorem discardReport_quiet (s : State) (k : Packet) (r : Nat) : Quiet s (discardReport s k r) := by
  unfold discardReport
  split
  · exact Quiet.refl s
  · split
    · split
      · exact markUnanswered_quiet _ _ _
      · exact Quiet.refl s
    · exact sendMgmt_getD_quiet _ _ _ _

theorem sendPkt_quiet (s : State) (a b : Nat) (e : Bool) (k : Packet) : Quiet s (sendPkt s a b e k) := by
  unfold sendPkt
  split
  · rename_i t h
    exact enqueue_quiet _ _ _ _ _ t h
  · exact (bump_quiet _ _).trans (discardReport_quiet _ _ _)

theorem sendResp_quiet (s : State) (p l : Nat) (r : Resp) : Quiet s (sendResp s p l r) := sendPkt_quiet _ _ _ _ _

theorem answer_quiet (s : State) (op : Op) (p : Req) (st r : Nat) : Quiet s (answer s op p st r) :=
  foldl_quiet _ (fun _ _ => sendResp_quiet _ _ _ _) _ _

/-- Completing a command writes only the queues of its function, or sends its answer to its manager. -/
theorem complete_quiet (s : State) (r : CmdRef) (st res : Nat) (out : List Byte) : Quiet s (complete s r st res out) := by
  unfold complete
  split
  · exact sendMgmt_getD_quiet _ _ _ _
  · dsimp only
    split
    · exact Quiet.refl s
    · split
      · exact (markBusy_quiet _).trans (modFn_quiet _ _ _)
      · exact (markBusy_quiet _).trans (modFn_quiet _ _ _)

theorem completeAll_quiet (s : State) (rs : List CmdRef) (st : Nat) : Quiet s (completeAll s rs st) :=
  foldl_quiet _ (fun s r => complete_quiet s r st 0 []) rs s

theorem startCmd_quiet (s : State) (c : Cmd) (sp : CmdSpec) : Quiet s (startCmd s c sp) :=
  (markBusy_quiet _).trans (modFn_quiet _ _ _)

/-! ## When a meaning is carried out -/

theorem live_running {s : State} (f : State → State) (h : running s = true) : live s f = .next (f s) := by
  simp [live, h]

theorem onLink_live {n : Nat} {s : State} (f : State → State) (h : PortLive s n) : onLink n s f = .next (linkAfter (f s) n) := by
  obtain ⟨⟨h1, h2⟩, h3, h4⟩ := h
  simp [onLink, live, h1, h2, h4, Nat.not_le.mpr h3]

theorem inState_live {n : Nat} {st : LinkState} {s : State} (f : State → State) (h : PortLive s n)
    (hl : (lportOf s n).link = st) : inState n st s f = .next (linkAfter (f s) n) := by
  simp [inState, onLink_live _ h, hl]

/-- A command that is carried out does what its own chapter says. -/
theorem runCmd_runs {s : State} {c : Cmd} {sp : CmdSpec} {obj : Option Nat} {mine : Bool} (body : State → State)
    (h : CmdRuns s c sp obj mine) : runCmd s c sp obj mine body = body (startCmd s c sp) := by
  obtain ⟨_, h2, h3, h4⟩ := h
  simp [runCmd, h2, h3, h4]

theorem live_runCmd {s : State} {c : Cmd} {sp : CmdSpec} {obj : State → Option Nat} {mine : State → Bool} (body : State → State)
    (h : CmdRuns s c sp (obj s) (mine s)) :
    live s (fun s => runCmd s c sp (obj s) (mine s) body) = .next (body (startCmd s c sp)) := by
  rw [live_running _ h.1, runCmd_runs body h]

end Sys2Proof.Machine
end

