-- ==== Sys2Proof/Laws/Links.lean ====
section
/-! SUPPORT. Laws/Links.lean: what the operations of a logical port change. -/
namespace Sys2Proof.Machine

/-- What the transmitter of port n leaves as it is: every other port, what the port itself is and knows but for its link layer,
secure-frame and gateway state, and everything else but what it sends. -/
structure TxFrame (n : Nat) (s t : State) : Prop where
  other : ∀ m, m ≠ n → lportOf t m = lportOf s m
  link : (lportOf t n).link = (lportOf s n).link
  entered : (lportOf t n).entered = (lportOf s n).entered
  retrainBy : (lportOf t n).retrainBy = (lportOf s n).retrainBy
  disc : (lportOf t n).disc = (lportOf s n).disc
  role : (lportOf t n).role = (lportOf s n).role
  lanesCut : (lportOf t n).lanesCut = (lportOf s n).lanesCut
  marked : (lportOf t n).marked = (lportOf s n).marked
  rxKeys : (lportOf t n).sec.rxKeys = (lportOf s n).sec.rxKeys
  rxSlot : (lportOf t n).sec.rxSlot = (lportOf s n).sec.rxSlot
  rxCtr : (lportOf t n).sec.rxCtr = (lportOf s n).sec.rxCtr
  rxNext : (lportOf t n).ll.rxNext = (lportOf s n).ll.rxNext
  peerFreed : (lportOf t n).ll.peerFreed = (lportOf s n).ll.peerFreed
  lp : (lportOf t n).ll.lp = (lportOf s n).ll.lp
  rest : ∃ l o, t = { s with lports := l, outs := o }

theorem TxFrame.refl (n : Nat) (s : State) : TxFrame n s s := by
  constructor
  case rest => exact ⟨s.lports, s.outs, rfl⟩
  all_goals intros; rfl

theorem TxFrame.trans {n : Nat} {s t u : State} (h : TxFrame n s t) (k : TxFrame n t u) : TxFrame n s u := by
  obtain ⟨l, o, ht⟩ := h.rest
  obtain ⟨l', o', hu⟩ := k.rest
  exact
    { other := fun m hm => (k.other m hm).trans (h.other m hm)
      link := k.link.trans h.link
      entered := k.entered.trans h.entered
      retrainBy := k.retrainBy.trans h.retrainBy
      disc := k.disc.trans h.disc
      role := k.role.trans h.role
      lanesCut := k.lanesCut.trans h.lanesCut
      marked := k.marked.trans h.marked
      rxKeys := k.rxKeys.trans h.rxKeys
      rxSlot := k.rxSlot.trans h.rxSlot
      rxCtr := k.rxCtr.trans h.rxCtr
      rxNext := k.rxNext.trans h.rxNext
      peerFreed := k.peerFreed.trans h.peerFreed
      lp := k.lp.trans h.lp
      rest := ⟨l', o', by rw [hu, ht]⟩ }

/-- A change of the port's own record that keeps what the transmitter keeps. -/
theorem modLport_txFrame (s : State) (n : Nat) (f : LPort → LPort)
    (h : ∀ l, f l = { l with ll := (f l).ll, sec := (f l).sec, gw := (f l).gw })
    (hk : (f (lportOf s n)).sec.rxKeys = (lportOf s n).sec.rxKeys) (hs : (f (lportOf s n)).sec.rxSlot = (lportOf s n).sec.rxSlot)
    (hc : (f (lportOf s n)).sec.rxCtr = (lportOf s n).sec.rxCtr) (hr : (f (lportOf s n)).ll.rxNext = (lportOf s n).ll.rxNext)
    (hp : (f (lportOf s n)).ll.peerFreed = (lportOf s n).ll.peerFreed) (hl : (f (lportOf s n)).ll.lp = (lportOf s n).ll.lp) :
    TxFrame n s (modLport s n f) := by
  have e := h (lportOf s n)
  constructor
  case other => intro m hm; simp [hm]
  case rest => exact ⟨_, s.outs, rfl⟩
  all_goals
    rw [lportOf_modLport_self]
    first
      | exact hk | exact hs | exact hc | exact hr | exact hp | exact hl
      | (rw [e])

theorem emit_txFrame (n : Nat) (s : State) (o : Out) : TxFrame n s (emit s o) := by
  constructor
  case rest => exact ⟨s.lports, _, rfl⟩
  all_goals intros; rfl

theorem emits_txFrame (n : Nat) (l : List Out) (s : State) : TxFrame n s (l.foldl emit s) := by
  induction l generalizing s with
  | nil => exact TxFrame.refl n s
  | cons o l ih => exact (emit_txFrame n s o).trans (ih _)

theorem takeSlot_txFrame (s : State) (n : Nat) : TxFrame n s (takeSlot s n) := by
  refine modLport_txFrame s n _ ?_ ?_ ?_ ?_ ?_ ?_ ?_
  all_goals intros
  all_goals dsimp only
  all_goals split
  all_goals first | rfl | (split_ifs <;> rfl)

@[simp] theorem lportOf_emits (n : Nat) (l : List Out) (s : State) : lportOf (l.foldl emit s) n = lportOf s n := by
  induction l generalizing s with
  | nil => rfl
  | cons o l ih => exact ih (emit s o)

theorem sendOne_txFrame (s : State) (n : Nat) : TxFrame n s (sendOne s n) := by
  unfold sendOne
  dsimp only
  refine (takeSlot_txFrame s n).trans ?_
  generalize takeSlot s n = t
  generalize fillSlots _ _ _ _ _ = f
  refine (emits_txFrame n f.outs t).trans ?_
  have he := lportOf_emits n f.outs t
  generalize f.outs.foldl emit t = x at he
  split
  · refine modLport_txFrame x n _ (fun l => rfl) ?_ ?_ ?_ ?_ ?_ ?_ <;> first | rfl | rw [he]
  · refine TxFrame.trans ?_ (emit_txFrame n _ _)
    refine modLport_txFrame x n _ (fun l => rfl) ?_ ?_ ?_ ?_ ?_ ?_ <;> first | rfl | rw [he]

theorem pumpN_txFrame (n k : Nat) (s : State) : TxFrame n s (pumpN n k s) := by
  induction k generalizing s with
  | zero => exact TxFrame.refl n s
  | succ k ih =>
    simp only [pumpN]
    split
    · exact TxFrame.refl n s
    · exact (sendOne_txFrame s n).trans (ih _)

/-- Sending changes only the transmitter of the port, and what has left the switch. -/
theorem pump_txFrame (s : State) (n : Nat) : TxFrame n s (pump s n) := pumpN_txFrame n 400 s

/-- PORT.RETRAIN commands that wait on a port are answered; nothing else of it changes. -/
theorem retrainEnds_lports (s : State) (n st : Nat) :
    (retrainEnds s n st).lports = (modLport s n fun l => { l with retrainBy := [] }).lports :=
  (completeAll_quiet _ _ _).lports

end Sys2Proof.Machine
end

