-- ==== Sys2Proof/Certificates/Slice0/Obligations.lean ====
section
/-! DEFINITION. Certificates/Slice0/Obligations.lean: the statements for the provers, one or more for every family of commands. -/
set_option autoImplicit false
open Sys2Proof Sys2Proof.Machine

/-- A step carries out the command at the front of the queue, on the state with the queue's rest. With an empty queue it lets 1 ns
pass, and what waits for time alone goes on: the model's choice (DESIGN CHOICE, log entry 1), which no rule of the spec states. -/
def Obligations.StepRunsFront : Prop :=
  ∀ (c : Instr) (rest : List Instr) (s : State),
    (s.pending = c :: rest → step s = exec c { s with pending := rest }) ∧
    (s.pending = [] → ∃ u, step s = .next u ∧ u = trySetState (settleUnknown 256 (untilTime s (s.clk + 1))) ∧
      (untilTime s (s.clk + 1)).clk = s.clk + 1)

/-- No command of the table ends in a fault or a refusal: in every state, each of them answers a next state. -/
def Obligations.EveryCommandCompletes : Prop :=
  ∀ (c : Instr) (s : State), ∃ t, exec c s = .next t

/-- R108, R113, R153, R220, R727, R812, R840, R881, R908: the state after reset. No partition, mapping, frame, line, route, queue
pair, instance or key exists; every port is DISABLED; memory lists nothing, and has its canonical form. What it takes from the
model and not from a rule: log entry 4. -/
def Obligations.ResetValues : Prop :=
  let s := State.reset
  s.pending = [] ∧ s.MemWf ∧ s.mem.bytes = [] ∧ s.mem.tier = [] ∧ s.mem.freeMode = false ∧ s.xl.asts = [] ∧ s.xl.ptes = [] ∧
    s.coh.lines = [] ∧ s.parts = [] ∧ s.core.routes = [] ∧ s.core.voqs = [] ∧ s.fab.insts = [] ∧ s.fab.jobs = [] ∧ s.sec.sessions = [] ∧
    s.sec.ide = [] ∧ s.outs = [] ∧ s.reports = [] ∧ s.fm.managers = [] ∧
    (∀ n, n < 516 → (lportOf s n).link = .disabled ∧ (lportOf s n).parts = [] ∧ (lportOf s n).marked = false) ∧
    (∀ n, (partOf s n).st = .free) ∧ (∀ fn q, (qpOf s fn q).en = false) ∧ selfNode s = 0x7FFF

/-- R53: the 32 bytes of a request's header spell the request, every field at every value, reserved bits among them. -/
def Obligations.RequestHeader : Prop :=
  ∀ (code : Nat) (p : Req), code < 256 → (reqHeader code p).length = 32 ∧
    reqOfHeader p.lport p.esc (reqHeader code p) p.payload = (code, { p with unlisted := none })

/-- Every step from a state whose memory has its canonical form keeps that form, and takes exactly one command from the queue, or
none from an empty one: no command adds to the queue of commands that wait. What it takes from the model and not from a rule:
log entry 7. -/
def Obligations.StepKeepsMemory : Prop :=
  ∀ (s t : State), s.MemWf → step s = .next t → t.MemWf ∧ t.pending = s.pending.tail

/-- R84, R86, R93, R96, R97: a request of every kind that an endpoint may send, on a port whose partner is an endpoint, whose check passes:
it is numbered, becomes outstanding, and goes on in its order; then the port's link credit is given back, unless the request is held at its
bucket. R84, R27, R73, R102: a request of an endpoint port that fails the check takes no effect but its number: it is answered with the
status of the check; one that fails step 2 is dropped in silence and counted. Each row is named. What it takes from the model and not from a
rule: log entries 18, 22, 131. -/
def Obligations.RequestFromEndpoint : Prop :=
  (∀ (i : Instr) (op : Op) (p : Req) (s : State), requestOf i = some (op, p) → Arrives s p.lport → facesSwitch s p.lport = false →
    ingressCheck hooks (noteSeq s p) op p [] = .pass →
    (addrForm p = 2 → p.dst.toNat = selfNode s ∨ (kfind s.core.routes p.dst.toNat).isSome ∨ (lportOfNode s p.dst.toNat).isSome) →
    ∃ u, exec i s = .next (checkQuar u p.lport) ∧
      CreditEnds (settle hooks (admitReq hooks (noteSeq s p) op p [])) u p (Packet.req op p).flits) ∧
  (∀ (i : Instr) (op : Op) (p : Req) (s : State), requestOf i = some (op, p) → Arrives s p.lport → facesSwitch s p.lport = false →
    let t := if (lportOf s p.lport).node = some p.src.toNat then noteSeq s p else s
    (∀ st, ingressCheck hooks t op p [] = .fail st →
      ∃ u v, exec i s = .next (checkQuar u p.lport) ∧ CreditEnds (settle hooks v) u p (Packet.req op p).flits ∧
        v.mem = s.mem ∧ v.ing.outs = s.ing.outs ∧ v.coh = s.coh ∧ v.snap = s.snap ∧ v.fab = s.fab ∧
        ∀ c ∈ coverOf op p.length.toNat, ∃ q ∈ v.core.voqs, q.egress = p.lport ∧
          q.pkt = .resp { mkResp t op p st c.1 c.2 0 [] with load := 0 }) ∧
    (ingressCheck hooks t op p [] = .drop →
      ∃ u v, exec i s = .next (checkQuar u p.lport) ∧ CreditEnds (settle hooks v) u p (Packet.req op p).flits ∧
        v.mem = s.mem ∧ v.ing.outs = s.ing.outs ∧ (kfind s.ras.health p.lport = none → v.core.voqs = s.core.voqs) ∧
        ctr v (.srcDrop p.lport) = satAdd 48 (ctr s (.srcDrop p.lport)) 1)) ∧
  -- each row by its name: where the check passes, the request is carried out
  (∀ (p : Req) (s : State), p.unlisted = none → Arrives s p.lport → facesSwitch s p.lport = false →
    (addrForm p = 2 → p.dst.toNat = selfNode s ∨ (kfind s.core.routes p.dst.toNat).isSome ∨ (lportOfNode s p.dst.toNat).isSome) →
    let pass := fun (op : Op) => ingressCheck hooks (noteSeq s p) op p [] = .pass
    let fin := fun (op : Op) (u : State) =>
      CreditEnds (settle hooks (admitReq hooks (noteSeq s p) op p [])) u p (Packet.req op p).flits
    (pass .load → ∃ u, exec (.load p) s = .next (checkQuar u p.lport) ∧ fin .load u) ∧
    (pass .store → ∃ u, exec (.store p) s = .next (checkQuar u p.lport) ∧ fin .store u) ∧
    (pass .storeClearPoison → ∃ u, exec (.storeClearPoison p) s = .next (checkQuar u p.lport) ∧ fin .storeClearPoison u) ∧
    (pass .copy → ∃ u, exec (.copy p) s = .next (checkQuar u p.lport) ∧ fin .copy u) ∧
    (pass (.atomic .add) → ∃ u, exec (.atomicAdd p) s = .next (checkQuar u p.lport) ∧ fin (.atomic .add) u) ∧
    (pass (.atomic .min) → ∃ u, exec (.atomicMin p) s = .next (checkQuar u p.lport) ∧ fin (.atomic .min) u) ∧
    (pass (.atomic .max) → ∃ u, exec (.atomicMax p) s = .next (checkQuar u p.lport) ∧ fin (.atomic .max) u) ∧
    (pass (.atomic .and) → ∃ u, exec (.atomicAnd p) s = .next (checkQuar u p.lport) ∧ fin (.atomic .and) u) ∧
    (pass (.atomic .or) → ∃ u, exec (.atomicOr p) s = .next (checkQuar u p.lport) ∧ fin (.atomic .or) u) ∧
    (pass (.atomic .xor) → ∃ u, exec (.atomicXor p) s = .next (checkQuar u p.lport) ∧ fin (.atomic .xor) u) ∧
    (pass (.atomic .swap) → ∃ u, exec (.atomicSwap p) s = .next (checkQuar u p.lport) ∧ fin (.atomic .swap) u) ∧
    (pass (.atomic .cas) → ∃ u, exec (.atomicCas p) s = .next (checkQuar u p.lport) ∧ fin (.atomic .cas) u) ∧
    (pass .fence → ∃ u, exec (.fence p) s = .next (checkQuar u p.lport) ∧ fin .fence u) ∧
    (pass .openVersion → ∃ u, exec (.openVersion p) s = .next (checkQuar u p.lport) ∧ fin .openVersion u) ∧
    (pass .closeVersion → ∃ u, exec (.closeVersion p) s = .next (checkQuar u p.lport) ∧ fin .closeVersion u) ∧
    (pass .publish → ∃ u, exec (.publish p) s = .next (checkQuar u p.lport) ∧ fin .publish u) ∧
    (pass .rdShared → ∃ u, exec (.rdShared p) s = .next (checkQuar u p.lport) ∧ fin .rdShared u) ∧
    (pass .rdOwn → ∃ u, exec (.rdOwn p) s = .next (checkQuar u p.lport) ∧ fin .rdOwn u) ∧
    (pass .upgrade → ∃ u, exec (.upgrade p) s = .next (checkQuar u p.lport) ∧ fin .upgrade u) ∧
    (pass .wbDirty → ∃ u, exec (.wbDirty p) s = .next (checkQuar u p.lport) ∧ fin .wbDirty u) ∧
    (pass .evictClean → ∃ u, exec (.evictClean p) s = .next (checkQuar u p.lport) ∧ fin .evictClean u) ∧
    (pass .collContrib → ∃ u, exec (.collContrib p) s = .next (checkQuar u p.lport) ∧ fin .collContrib u) ∧
    (pass .gather → ∃ u, exec (.gather p) s = .next (checkQuar u p.lport) ∧ fin .gather u) ∧
    (pass .scatter → ∃ u, exec (.scatter p) s = .next (checkQuar u p.lport) ∧ fin .scatter u) ∧
    (pass .search → ∃ u, exec (.search p) s = .next (checkQuar u p.lport) ∧ fin .search u) ∧
    (pass .attend → ∃ u, exec (.attend p) s = .next (checkQuar u p.lport) ∧ fin .attend u) ∧
    (pass .filter → ∃ u, exec (.filter p) s = .next (checkQuar u p.lport) ∧ fin .filter u) ∧
    (pass .run → ∃ u, exec (.run p) s = .next (checkQuar u p.lport) ∧ fin .run u) ∧
    (pass .ownerCas → ∃ u, exec (.ownerCas p) s = .next (checkQuar u p.lport) ∧ fin .ownerCas u))

/-- R84: the check's steps in their order, each with its status, for a request on which the steps before it pass. What it takes from the
model and not from a rule: log entries 18, 132. -/
def Obligations.IngressOrder : Prop :=
  ∀ (h : Hooks) (s : State) (op : Op) (p : Req),
    let part := partOf s p.partition.toNat
    let s1 := step1Ok op p = true
    let s2 := (lportOf s p.lport).node = some p.src.toNat
    let s3 := step3Ok (selfNode s) op p = true
    let s4 := memberOf s p.lport p.partition.toNat = true
    let s5 := part.st ≠ .tearing ∧ part.st ≠ .scrubbing
    let s6 := (addrForm p = 1 → (lportOf s p.lport).flat = true) ∧ (addrForm p = 2 → (lportOf s p.lport).nodePriv = true) ∧
      switchOnly op = false
    let s7 := opBit op = 0 ∨ part.ops.testBit (opBit op) = true
    (¬ s1 → ingressCheck h s op p [] = .fail 6) ∧
    (s1 → ¬ s2 → ingressCheck h s op p [] = .drop) ∧
    (s1 → s2 → ¬ s3 → ingressCheck h s op p [] = .fail 6) ∧
    (s1 → s2 → s3 → ¬ s4 → ingressCheck h s op p [] = .fail 5) ∧
    (s1 → s2 → s3 → s4 → ¬ s5 → ingressCheck h s op p [] = .fail 11) ∧
    (s1 → s2 → s3 → s4 → s5 → ¬ s6 → ingressCheck h s op p [] = .fail 5) ∧
    (s1 → s2 → s3 → s4 → s5 → s6 → ¬ s7 → ingressCheck h s op p [] = .fail 10) ∧
    -- step 8: the handle of a compute request, the AST of every partition virtual one
    (s1 → s2 → s3 → s4 → s5 → s6 → s7 → isCompute op = true → h.handleOk s op p = false → ingressCheck h s op p [] = .fail 5) ∧
    (s1 → s2 → s3 → s4 → s5 → s6 → s7 → addrForm p = 0 →
      (∀ a, astOf s p.ast.toNat = some a → a.partition ≠ p.partition.toNat) → ingressCheck h s op p [] = .fail 5) ∧
    -- steps 9 and 10, where every page's entry is known
    (s1 → s2 → s3 → s4 → s5 → s6 → s7 → isCompute op = false → addrForm p = 0 →
      (∃ a, astOf s p.ast.toNat = some a ∧ a.partition = p.partition.toNat) → missing s [] (needsOf op p) = [] →
      ((∃ n ∈ needsOf op p, lookPage s [] n.ast n.page = some none) → ingressCheck h s op p [] = .fail 4) ∧
      ((∀ n ∈ needsOf op p, ∃ e, lookPage s [] n.ast n.page = some (some e)) →
        (∃ n ∈ needsOf op p, ∃ e, lookPage s [] n.ast n.page = some (some e) ∧
          ((n.r = true ∧ e.r = false) ∨ (n.w = true ∧ e.w = false) ∨ (n.a = true ∧ e.a = false))) →
        ingressCheck h s op p [] = .fail 5) ∧
      ((∀ n ∈ needsOf op p, ∃ e, lookPage s [] n.ast n.page = some (some e) ∧
          (n.r = true → e.r = true) ∧ (n.w = true → e.w = true) ∧ (n.a = true → e.a = true)) →
        ingressCheck h s op p [] = .pass))

/-- R61, R75, R76: legal requests of an endpoint never have address bits that their form does not use, overlapping COPY ranges or a
misaligned atomic, so one that has is answered MALFORMED, where its header and source are good. -/
def Obligations.MalformedRequests : Prop :=
  ∀ (op : Op) (p : Req) (s : State), step1Ok op p = true → (lportOf s p.lport).node = some p.src.toNat →
    ((addrForm p = 1 → 2 ^ 47 ≤ p.address.toNat) → (addrForm p ≠ 1 → 2 ^ 48 ≤ p.address.toNat) →
      ingressCheck hooks s op p [] = .fail 6) ∧
    (op = .copy → 0 < p.length.toNat → p.address.toNat < leNat p.payload + p.length.toNat →
      leNat p.payload < p.address.toNat + p.length.toNat → ingressCheck hooks s op p [] = .fail 6) ∧
    (∀ a, op = .atomic a → p.length.toNat ≠ 0 →
      (p.length.toNat ≠ 4 ∧ p.length.toNat ≠ 8 ∨ p.address.toNat % p.length.toNat ≠ 0) → ingressCheck hooks s op p [] = .fail 6)

/-- R85, R42, R194, R205: a request of every kind that arrives on a port facing another switch. One for this switch's own node is carried
out at its home or target: a memory request as an operation on the windows' pool ranges, any other at the unit that serves it. One for
another node goes on through the buffer toward it, as SNP_INV, SNP_SHARE and COLL_DELIVER always do. Each row is named. What it takes from
the model and not from a rule: log entries 16, 131. -/
def Obligations.RequestFromSwitch : Prop :=
  (∀ (i : Instr) (op : Op) (p : Req) (s : State), requestOf i = some (op, p) → Arrives s p.lport → facesSwitch s p.lport = true →
    step1Ok op p = true → step3Fwd op p = true →
    (∀ (pl : List Byte) (a w b x : Nat), p.dst.toNat = selfNode s → plainPayload p = some pl → isMemory op = true →
      windowsOf s op p.address.toNat (copySrc p) p.length.toNat = some ((a, w), (b, x)) →
      let v := settle hooks (memStart s
        { op := op, p := { p with payload := pl }, origin := .remote, pool := a, len := p.length.toNat, srcPool := b, data := pl,
          phase := .access, window := w, srcWindow := x, arrived := s.clk })
      ∃ u, exec i s = .next (checkQuar u p.lport) ∧ CreditEnds v u p (Packet.req op p).flits) ∧
    (∀ pl : List Byte, p.dst.toNat = selfNode s → plainPayload p = some pl → isMemory op = false →
      let v := settle hooks (homeStart s .remote op { p with payload := pl })
      ∃ u, exec i s = .next (checkQuar u p.lport) ∧ CreditEnds v u p (Packet.req op p).flits) ∧
    (∀ (e : Nat) (esc : Bool) (hop : Option Nat), p.dst.toNat ≠ selfNode s → routeOf s p.lport p.dst.toNat p.esc = .dest e esc hop →
      ∃ v q, exec i s = .next (checkQuar (settle hooks v) p.lport) ∧ v.core.voqs.getLast? = some q ∧
        v.core.voqs.length = s.core.voqs.length + 1 ∧ q.pkt = .req op p ∧ q.egress = e ∧ q.esc = esc ∧ v.mem = s.mem ∧ v.coh = s.coh ∧ v.ing.outs = s.ing.outs)) ∧
  -- each row by its name: at this home or target, or on its way through
  (∀ (p : Req) (s : State), p.unlisted = none → Arrives s p.lport → facesSwitch s p.lport = true →
    let ok := fun (op : Op) => step1Ok op p = true ∧ step3Fwd op p = true
    (∀ (pl : List Byte) (a w b x : Nat), p.dst.toNat = selfNode s → plainPayload p = some pl →
      let meets := fun (op : Op) => ok op ∧ windowsOf s op p.address.toNat (copySrc p) p.length.toNat = some ((a, w), (b, x))
      let home := fun (op : Op) (u : State) => CreditEnds (settle hooks (memStart s
        { op := op, p := { p with payload := pl }, origin := .remote, pool := a, len := p.length.toNat, srcPool := b, data := pl,
          phase := .access, window := w, srcWindow := x, arrived := s.clk })) u p (Packet.req op p).flits
      (meets .load → ∃ u, exec (.load p) s = .next (checkQuar u p.lport) ∧ home .load u) ∧
      (meets .store → ∃ u, exec (.store p) s = .next (checkQuar u p.lport) ∧ home .store u) ∧
      (meets .storeClearPoison → ∃ u, exec (.storeClearPoison p) s = .next (checkQuar u p.lport) ∧ home .storeClearPoison u) ∧
      (meets .copy → ∃ u, exec (.copy p) s = .next (checkQuar u p.lport) ∧ home .copy u) ∧
      (meets (.atomic .add) → ∃ u, exec (.atomicAdd p) s = .next (checkQuar u p.lport) ∧ home (.atomic .add) u) ∧
      (meets (.atomic .min) → ∃ u, exec (.atomicMin p) s = .next (checkQuar u p.lport) ∧ home (.atomic .min) u) ∧
      (meets (.atomic .max) → ∃ u, exec (.atomicMax p) s = .next (checkQuar u p.lport) ∧ home (.atomic .max) u) ∧
      (meets (.atomic .and) → ∃ u, exec (.atomicAnd p) s = .next (checkQuar u p.lport) ∧ home (.atomic .and) u) ∧
      (meets (.atomic .or) → ∃ u, exec (.atomicOr p) s = .next (checkQuar u p.lport) ∧ home (.atomic .or) u) ∧
      (meets (.atomic .xor) → ∃ u, exec (.atomicXor p) s = .next (checkQuar u p.lport) ∧ home (.atomic .xor) u) ∧
      (meets (.atomic .swap) → ∃ u, exec (.atomicSwap p) s = .next (checkQuar u p.lport) ∧ home (.atomic .swap) u) ∧
      (meets (.atomic .cas) → ∃ u, exec (.atomicCas p) s = .next (checkQuar u p.lport) ∧ home (.atomic .cas) u)) ∧
    (∀ pl : List Byte, p.dst.toNat = selfNode s → plainPayload p = some pl →
      let home := fun (op : Op) (u : State) =>
        CreditEnds (settle hooks (homeStart s .remote op { p with payload := pl })) u p (Packet.req op p).flits
      (ok .openVersion → ∃ u, exec (.openVersion p) s = .next (checkQuar u p.lport) ∧ home .openVersion u) ∧
      (ok .closeVersion → ∃ u, exec (.closeVersion p) s = .next (checkQuar u p.lport) ∧ home .closeVersion u) ∧
      (ok .publish → ∃ u, exec (.publish p) s = .next (checkQuar u p.lport) ∧ home .publish u) ∧
      (ok .rdShared → ∃ u, exec (.rdShared p) s = .next (checkQuar u p.lport) ∧ home .rdShared u) ∧
      (ok .rdOwn → ∃ u, exec (.rdOwn p) s = .next (checkQuar u p.lport) ∧ home .rdOwn u) ∧
      (ok .upgrade → ∃ u, exec (.upgrade p) s = .next (checkQuar u p.lport) ∧ home .upgrade u) ∧
      (ok .wbDirty → ∃ u, exec (.wbDirty p) s = .next (checkQuar u p.lport) ∧ home .wbDirty u) ∧
      (ok .evictClean → ∃ u, exec (.evictClean p) s = .next (checkQuar u p.lport) ∧ home .evictClean u) ∧
      (ok .collContrib → ∃ u, exec (.collContrib p) s = .next (checkQuar u p.lport) ∧ home .collContrib u) ∧
      (ok .collPartial → ∃ u, exec (.collPartial p) s = .next (checkQuar u p.lport) ∧ home .collPartial u) ∧
      (ok .gather → ∃ u, exec (.gather p) s = .next (checkQuar u p.lport) ∧ home .gather u) ∧
      (ok .scatter → ∃ u, exec (.scatter p) s = .next (checkQuar u p.lport) ∧ home .scatter u) ∧
      (ok .search → ∃ u, exec (.search p) s = .next (checkQuar u p.lport) ∧ home .search u) ∧
      (ok .attend → ∃ u, exec (.attend p) s = .next (checkQuar u p.lport) ∧ home .attend u) ∧
      (ok .filter → ∃ u, exec (.filter p) s = .next (checkQuar u p.lport) ∧ home .filter u) ∧
      (ok .run → ∃ u, exec (.run p) s = .next (checkQuar u p.lport) ∧ home .run u) ∧
      (ok .ownerCas → ∃ u, exec (.ownerCas p) s = .next (checkQuar u p.lport) ∧ home .ownerCas u)) ∧
    (p.dst.toNat ≠ selfNode s →
      let on := fun (op : Op) => checkQuar (settle hooks (transit s p.lport p.esc (.req op p))) p.lport
      (ok .snpInv → exec (.snpInv p) s = .next (on .snpInv)) ∧
      (ok .snpShare → exec (.snpShare p) s = .next (on .snpShare)) ∧
      (ok .collDeliver → exec (.collDeliver p) s = .next (on .collDeliver))))

/-- R64: when the ingress switch forwards a checked request, whole or a part of it, to another node, the packet it queues names that
node in DST_NODE and the place there in ADDRESS, in node plus offset form; SRC_NODE, TAG, PARTITION and AST stand. -/
def Obligations.ForwardedRequest : Prop :=
  ∀ (h : Hooks) (id i : Nat) (o : OutReq) (part : ReqPart) (pl : List Byte) (s : State), kfind s.ing.outs id = some o →
    part.home < 2 ^ 15 → part.pool < 2 ^ 64 → part.home ≠ selfNode s →
    ∃ q : Req, sendPart h id pl s (i, part) =
        (let t := modOut s id fun o => { o with parts := o.parts.mapIdx fun j p => if j = i then { p with sent := true } else p }
         sendPkt (if o.parts.length ≠ 1 then bumpOwn t part.home else t) (schedPort o.p.lport) o.p.lport false (.req o.op q)) ∧
      addrForm q = 2 ∧ q.dst.toNat = part.home ∧ q.address.toNat = part.pool ∧ q.src = o.p.src ∧ q.tag = o.p.tag ∧
      q.partition = o.p.partition ∧ q.ast = o.p.ast

/-- R77, R80, R101, R220: what an operation does to the bytes of its home, where it sees the pool's own bytes, and the status and RESULT
it is answered with: a STORE writes its data and nothing else; STORE_CLEAR_POISON clears the poison of its lines too; COPY
writes what its source held; a write-back writes its data; an atomic stores the value of its operation and returns the pre-value; a poisoned line stops all
but STORE_CLEAR_POISON before any byte is written. What it takes from the model and not from a rule: log entry 8. -/
def Obligations.MemoryEffects : Prop :=
  ∀ (s : State) (o : MemOp), s.MemWf → o.views = [] → o.len ≠ 0 →
    let old := readBytes s.mem.bytes o.pool o.len
    let only := fun t : State => ∀ x, x < o.pool ∨ o.pool + o.len ≤ x → byteAt t.mem.bytes x = byteAt s.mem.bytes x
    (o.op = .store → o.origin ≠ .put → o.data.length = o.len → anyBad s o o.pool o.len = false →
      ∃ t, memEffect s o = (t, 0, 0) ∧ readBytes t.mem.bytes o.pool o.len = o.data ∧ only t ∧ t.mem.poison = s.mem.poison) ∧
    (o.op = .store ∨ o.op = .copy ∨ (∃ a, o.op = .atomic a) → anyBad s o o.pool o.len = true → memEffect s o = (s, 3, 0)) ∧
    (o.op = .wbDirty → o.data.length = o.len →
      ∃ t, memEffect s o = (t, 0, 0) ∧ readBytes t.mem.bytes o.pool o.len = o.data ∧ only t ∧ t.mem.poison = s.mem.poison) ∧
    (o.op = .storeClearPoison → o.data.length = o.len →
      ∃ t, memEffect s o = (t, 0, 0) ∧ readBytes t.mem.bytes o.pool o.len = o.data ∧ only t ∧
        ∀ l, poisoned t l = (poisoned s l && !(linesOf o.pool o.len).contains l)) ∧
    (o.op = .copy → anyBad s o o.pool o.len = false → anyBad s o o.srcPool o.len = false → anyQuarantined s o.srcPool o.len = false →
      ∃ t, memEffect s o = (t, 0, 0) ∧ readBytes t.mem.bytes o.pool o.len = readBytes s.mem.bytes o.srcPool o.len ∧ only t ∧
        t.mem.poison = s.mem.poison) ∧
    (∀ a, o.op = .atomic a → anyBad s o o.pool o.len = false → anyQuarantined s o.pool o.len = false →
      let v := atomicValue a o.len (flagSigned o.p) (leNat old) (leNat (o.data.take o.len)) (leNat (o.data.drop o.len))
      ∃ t, memEffect s o = (t, 0, leNat old) ∧ readBytes t.mem.bytes o.pool o.len = leBytes o.len v ∧ only t ∧
        t.mem.poison = s.mem.poison)

/-- R77: the value that each atomic stores: ADD wraps around; MIN and MAX compare signed or unsigned; AND, OR and XOR are bitwise;
SWAP stores the new value; CAS only where the pre-value equals the compare value. -/
def Obligations.AtomicValues : Prop :=
  ∀ (w pre x y : Nat), pre < 2 ^ (8 * w) → x < 2 ^ (8 * w) →
    (∀ g, BitVec.ofNat (8 * w) (atomicValue .add w g pre x y) = BitVec.ofNat (8 * w) pre + BitVec.ofNat (8 * w) x ∧
      atomicValue .add w g pre x y < 2 ^ (8 * w)) ∧
    atomicValue .min w false pre x y = min pre x ∧ atomicValue .max w false pre x y = max pre x ∧
    (BitVec.ofNat (8 * w) (atomicValue .min w true pre x y)).toInt =
      min (BitVec.ofNat (8 * w) pre).toInt (BitVec.ofNat (8 * w) x).toInt ∧
    (BitVec.ofNat (8 * w) (atomicValue .max w true pre x y)).toInt =
      max (BitVec.ofNat (8 * w) pre).toInt (BitVec.ofNat (8 * w) x).toInt ∧
    (∀ g k, (atomicValue .and w g pre x y).testBit k = (pre.testBit k && x.testBit k) ∧
      (atomicValue .or w g pre x y).testBit k = (pre.testBit k || x.testBit k) ∧
      (atomicValue .xor w g pre x y).testBit k = (pre.testBit k != x.testBit k)) ∧
    (∀ g, atomicValue .swap w g pre x y = x ∧ (pre = x → atomicValue .cas w g pre x y = y) ∧
      (pre ≠ x → atomicValue .cas w g pre x y = pre))

/-- R78, R79: the segments that answer a LOAD are of at most 65,536 bytes, follow one another and cover its range; one with a poisoned line
is POISONED, one with a divergent frame DIVERGENT, both without data; any other is OK with the bytes of its range. What it takes from the
model and not from a rule: log entries 19, 143. -/
def Obligations.LoadSegments : Prop :=
  ∀ (s : State) (o : MemOp), o.views = [] →
    ((loadSegments s o 0 (o.len + 1)).map fun g => g.2.1).sum = o.len ∧
    (∀ (k : Nat) (g : Nat × Nat × Nat × List Byte), (loadSegments s o 0 (o.len + 1))[k]? = some g → g.1 = 65536 * k ∧
      0 < g.2.1 ∧ g.2.1 ≤ 65536 ∧
      (anyBad s o (o.pool + g.1) g.2.1 = true → g.2.2 = (3, [])) ∧
      (anyBad s o (o.pool + g.1) g.2.1 = false → anyQuarantined s (o.pool + g.1) g.2.1 = true → g.2.2 = (8, [])) ∧
      (anyBad s o (o.pool + g.1) g.2.1 = false → anyQuarantined s (o.pool + g.1) g.2.1 = false →
        g.2.2 = (0, readBytes s.mem.bytes (o.pool + g.1) g.2.1)))

/-- R144 to R147: a region's arbiter grants the oldest promoted access first, and nothing else of memory changes; an access is
promoted once it has waited its class's time; an access done leaves the arbiter, and the operations it served go on; an error of
the arbiter's own state goes to the Wick (R777). R901: BULK and BG have no weight at a stack that is too hot. R129, R134, R135, R141,
R153, R158, R975: events of moves, heat, scans, free mode and trays, where each takes its effect. What it takes from
the model and not from a rule: log entries 2, 26, 27, 28, 32, 33, 102. -/
def Obligations.MemoryEvents : Prop :=
  (∀ (r : Nat) (x : Access) (s : State), running s = true →
    (oldest ((arbOf s r).waiting.filter (·.promoted)) = some x →
      ∃ a, exec (.regionArbGrant r) s = .next (setArb s r a) ∧ a.granted = (arbOf s r).granted ++ [x] ∧ a.credit = (arbOf s r).credit ∧
        (∀ y, y ∈ (arbOf s r).waiting.erase x → y ∈ a.waiting)) ∧
    (s.power.hbmHot.contains (r / 2) = true → arbWeight s r 3 = 0 ∧ arbWeight s r 4 = 0 ∧ arbWeight s r 0 = regField s (rArbCfg r) 0 4) ∧
    ((arbOf s r).waiting = [x] → x.promoted = false → 0 < arbWeight s r x.cls.ix →
      ∃ u, exec (.regionArbGrant r) s = .next u ∧ (arbOf u r).granted = (arbOf s r).granted ++ [x] ∧
        (∀ q, q ≠ r → arbOf u q = arbOf s q) ∧ u.mem.bytes = s.mem.bytes ∧ u.mem.ops = s.mem.ops) ∧
    ((arbOf s r).waiting = [x] → x.promoted = false →
      ∃ u, exec (.regionArbPromote r) s = .next u ∧ u.clk = max s.clk (x.arrived + arbPromoNs s r x.cls.ix) ∧
        (arbOf u r).waiting = [{ x with promoted := true }] ∧ (arbOf u r).granted = (arbOf s r).granted ∧
        (∀ q, q ≠ r → arbOf u q = arbOf s q) ∧ u.mem.bytes = s.mem.bytes ∧ u.mem.ops = s.mem.ops) ∧
    (∀ bad : List Nat, (arbOf s r).granted.find? (fun y => y.id = x.id) = some x →
      (∀ l ∈ bad, l < 2 ^ 41 ∧ (x.read = false ∨ (linesOf x.pool x.len).contains l = false)) →
      exec (.hbmAccessDone r x.id bad) s = .next (settle hooks ((x.op :: x.also).foldl accessDone
        (setArb s r { arbOf s r with granted := (arbOf s r).granted.erase x })))) ∧
    ((arbOf s r).granted.find? (fun y => y.id = x.id) = some x → (linesOf x.pool x.len).contains (2 ^ 43) = false →
      exec (.hbmAccessDone r x.id [2 ^ 43]) s = .next (settle hooks (regionStateError ((x.op :: x.also).foldl accessDone
        (setArb s r { arbOf s r with granted := (arbOf s r).granted.erase x })) r)))) ∧
  (∀ (f n : Nat) (t : TierEntry) (s : State), running s = true → tierOf s f = some t →
    (∀ m, kfind s.mem.moves f = some m → m.copying = true → m.suspended = false → m.copied = true → m.next + 1 < 32 →
      regField s rPoolPolicy 10 6 ≠ 0 →
      ∃ u, exec (.moveSubblockDone f true) s = .next (settle hooks (moveCopy (retryMoves u) f)) ∧
        kfind u.mem.moves f =
          some { m with next := m.next + 1, copying := true, ready := false, suspended := false, op := none, copied := false } ∧
        (∀ k, k ≠ f → kfind u.mem.moves k = kfind s.mem.moves k) ∧ u.mem.tier = s.mem.tier ∧ u.mem.bytes = s.mem.bytes) ∧
    (∀ m, kfind s.mem.moves f = some m → m.copying = true → m.suspended = false →
      exec (.moveSubblockDone f false) s = .next (settle hooks (abandonMove s f 3))) ∧
    (∃ u, exec .heatDecayPeriod s = .next u ∧ regField u rPoolHeat 8 8 = (regField s rPoolHeat 8 8 + 1) % 256 ∧
      u.clk = max s.clk (s.mem.periodAt + 2 ^ regField s rPoolHeat 0 4 * 1000000) ∧
      u.mem.periodAt = s.mem.periodAt + 2 ^ regField s rPoolHeat 0 4 * 1000000 ∧ u.mem.tier = s.mem.tier ∧
      u.mem.bytes = s.mem.bytes) ∧
    (∃ u, exec (.tierMapVisit f) s = .next u ∧
      tierOf u f = some { t with heat := decayedHeat s t, heatEpoch := regField s rPoolHeat 8 8 } ∧
      (∀ g, g ≠ f → tierOf u g = tierOf s g) ∧ u.mem.bytes = s.mem.bytes ∧ u.mem.moves = s.mem.moves) ∧
    (s.mem.nextScan = some n →
      ∃ v, exec .tieringScan s = .next (settle hooks (scan v)) ∧ v.clk = max s.clk n ∧ v.mem.scanAt = v.clk ∧
        v.mem.nextScan = some (v.clk + regField s rPoolPolicy 0 10 * 1000000) ∧ v.mem.tier = s.mem.tier ∧ v.mem.bytes = s.mem.bytes) ∧
    (∀ o, kfind s.mem.ops n = some o → o.phase = .t3 → exec (.t3WriteResume n) s = .next (settle hooks (memAccess s n))) ∧
    (∀ q o c, kfind s.mem.trayReqs n = some q → q.frame = f → kfind s.mem.ops q.op = some o →
      (healthyCopies s t).find? (fun c => c.2 ≠ q.copyIx && q.read) = some c →
      ∃ v, exec (.trayLateTimeout n) s = .next (settle hooks (modOp
          (accessCopy q.op (arbClass o) f q.pool q.len true c.1 c.2 v).1 q.op fun o => { o with left := o.left - 1 +
            (accessCopy q.op (arbClass o) f q.pool q.len true c.1 c.2 v).2 })) ∧
        v.clk = max s.clk (q.since + 10000) ∧ v.mem.trayReqs = kdel s.mem.trayReqs n ∧ v.mem.ops = s.mem.ops) ∧
    (∀ (b : Bool) (r : CmdRef), s.mem.freePending = some (b, n, r) →
      ∃ v, exec .freeModeTakeEffect s = .next (complete (setFree v b) r 0 0 []) ∧ v.mem = { s.mem with freePending := none } ∧
        v.clk = s.clk + (n - s.ftime.toNat)))

/-- R108, R109, R110: POOL.SET_HOME with a legal entry and node: one that changes nothing is OK; one whose range has mapped frames
is DENIED and changes nothing; one that would give a switch a 513th range is BUDGET; any other writes the entry. What it
takes from the model and not from a rule: log entries 111, 112. -/
def Obligations.PoolSetHome : Prop :=
  ∀ (c : Cmd) (s : State), CmdRuns s c (poolSpec 8 true [(0, 4), (4, 4)] 0) none true → arg c 0 4 < 4096 → arg c 4 4 ≤ 0x7FFF →
    let t := startCmd s c (poolSpec 8 true [(0, 4), (4, 4)] 0)
    let old := (kfind s.mem.homes (arg c 0 4)).getD 0x7FFF
    (old = arg c 4 4 → exec (.poolSetHome c) s = .next (complete t (cmdRef c) 0 0 [])) ∧
    (old ≠ arg c 4 4 → (∃ e ∈ s.mem.tier, e.1 / 16384 = arg c 0 4) ∨ (∃ e ∈ s.xl.ptes, e.2.page / 32 = arg c 0 4) →
      exec (.poolSetHome c) s = .next (complete t (cmdRef c) 5 0 [])) ∧
    (old ≠ arg c 4 4 → (∀ e ∈ s.mem.tier, e.1 / 16384 ≠ arg c 0 4) → (∀ e ∈ s.xl.ptes, e.2.page / 32 ≠ arg c 0 4) → arg c 4 4 ≠ 0x7FFF →
      512 ≤ (s.mem.homes.filter fun e => e.2 = arg c 4 4).length → exec (.poolSetHome c) s = .next (complete t (cmdRef c) 9 0 [])) ∧
    (old ≠ arg c 4 4 → (∀ e ∈ s.mem.tier, e.1 / 16384 ≠ arg c 0 4) → (∀ e ∈ s.xl.ptes, e.2.page / 32 ≠ arg c 0 4) →
      (arg c 4 4 ≠ 0x7FFF → (s.mem.homes.filter fun e => e.2 = arg c 4 4).length < 512) →
      exec (.poolSetHome c) s = .next (complete
        { t with mem := { s.mem with homes := if arg c 4 4 = 0x7FFF then kdel s.mem.homes (arg c 0 4)
                                              else kset s.mem.homes (arg c 0 4) (arg c 4 4) } } (cmdRef c) 0 0 []))

/-- R115, R120, R122, R137, R140, R974, R976: the other POOL commands of the tier map through PF0, on parameters that they accept. What it
takes from the model and not from a rule: log entries 24, 111, 112, 145, 159. -/
def Obligations.PoolCommands : Prop :=
  ∀ (c : Cmd) (s : State), c.fn = 0 →
    (let sp : CmdSpec := { poolSpec 4 false [(0, 8)] 0 with acts := .reads }
     CmdRuns s c sp none true → arg c 0 8 < 2 ^ 47 →
      ∃ u, exec (.poolFrameInfo c) s = .next (complete u (cmdRef c) 0 0 (entryBytes u (frameOf (arg c 0 8)))) ∧
        u = readHeat (startCmd s c sp) (frameOf (arg c 0 8)) ∧ u.mem.bytes = s.mem.bytes) ∧
    (let sp : CmdSpec := { poolSpec 5 false [(0, 8), (8, 4)] 0 with acts := .reads }
     CmdRuns s c sp none true → arg c 0 8 < 2 ^ 47 →
      let fs := (natRange (frameOf (arg c 0 8)) (arg c 8 4)).map some
      ∃ u, exec (.poolHeatRead c) s = .next (complete u (cmdRef c) 0 0 (heatBytes u fs)) ∧ u.mem.bytes = s.mem.bytes ∧
        u.mem.moves = s.mem.moves ∧ u.lports = s.lports ∧ u.xl = s.xl) ∧
    (let sp : CmdSpec := { poolSpec 6 true [(0, 8), (8, 4), (12, 4)] 0 with acts := .object }
     ∀ (t : TierEntry) (l : Place), CmdRuns s c sp (framePart s c) true → arg c 0 8 < 2 ^ 47 → arg c 8 4 = 1 → tierOf s (frameOf (arg c 0 8)) = some t →
      t.tier ≠ .t1 → t.bound = 0 → t.quarantined = false → (((rulesOf s t.cls).map (·.tiers)).getD []).contains .t1 = true →
      kfind s.mem.moves (frameOf (arg c 0 8)) = none → movePlace (startCmd s c sp) (frameOf (arg c 0 8)) t .t1 (arg c 12 4) = some l →
      ∃ u m, exec (.poolMove c) s = .next u ∧ kfind u.mem.moves (frameOf (arg c 0 8)) = some m ∧ m.dst = .t1 ∧ m.loc = l.loc ∧
        m.by_ = some (cmdRef c) ∧ tierOf u (frameOf (arg c 0 8)) = some { t with moving := true } ∧ u.mem.bytes = s.mem.bytes ∧
        (∀ f, f ≠ frameOf (arg c 0 8) → tierOf u f = tierOf s f)) ∧
    (let sp := poolSpec 9 true [(0, 4), (8, 8), (16, 4), (20, 4), (24, 4), (28, 4)] 0
     ∀ n d, CmdRuns s c sp none true → arg c 0 4 ≤ 31 → nodeList (arg c 8 8) = [n] → n ≤ 0x7FFF → arg c 16 4 ≤ 1024 → arg c 20 4 = 0 →
      trayDram s n = some d → (arg c 24 4 + arg c 16 4) * GiB ≤ d → kfind s.mem.slots (arg c 0 4) = none →
      (∀ e ∈ s.mem.slots, e.2.nodes.contains n = false) →
      let v : TraySlot := { nodes := [n], t2Gib := arg c 16 4, t3Gib := 0, t2Off := arg c 24 4, t3Off := arg c 28 4 }
      exec (.poolAttachTray c) s = .next (complete
        { startCmd s c sp with mem := { s.mem with slots := kset s.mem.slots (arg c 0 4) v } } (cmdRef c) 0 0 [])) ∧
    (let sp := poolSpec 10 true [(0, 4)] 1
     ∀ t, CmdRuns s c sp none true → arg c 0 4 ≤ 31 → kfind s.mem.slots (arg c 0 4) = some t → t.evacuating = [] →
      backedBy s (arg c 0 4) = [] → freeingOn s (arg c 0 4) = false → movingOnto s (arg c 0 4) = false →
      exec (.poolDetachTray c) s = .next (complete
        { startCmd s c sp with mem := { s.mem with slots := kdel s.mem.slots (arg c 0 4) } } (cmdRef c) 0 0 [])) ∧
    (let sp := poolSpec 11 true [(0, 4), (4, 4), (8, 4), (12, 4), (16, 4), (20, 4), (24, 4)] 0
     CmdRuns s c sp none true → 8 ≤ arg c 0 4 → arg c 0 4 ≤ 63 → 1 ≤ arg c 4 4 → arg c 4 4 ≤ 7 → 1 ≤ arg c 8 4 → arg c 8 4 ≤ 3 →
      (arg c 4 4).testBit (arg c 8 4 - 1) = true → arg c 12 4 ≤ 65535 → arg c 16 4 < arg c 12 4 → arg c 20 4 ≤ arg c 16 4 →
      arg c 24 4 ≤ 10000 →
      let v : PolicyClass := ⟨arg c 4 4, arg c 8 4, arg c 12 4, arg c 16 4, arg c 20 4, arg c 24 4⟩
      (kfind s.mem.classes (arg c 0 4) = none → exec (.poolSetPolicy c) s = .next (complete
        { startCmd s c sp with mem := { s.mem with classes := kset s.mem.classes (arg c 0 4) v } } (cmdRef c) 0 0 [])) ∧
      (kfind s.mem.classes (arg c 0 4) ≠ none → exec (.poolSetPolicy c) s = .next (complete
        { startCmd s c sp with mem := { s.mem with classesNext := kset s.mem.classesNext (arg c 0 4) v } } (cmdRef c) 0 0 []))) ∧
    (let sp := { poolSpec 12 true [(0, 4)] 1 with acts := .field }
     CmdRuns s c sp none true → 8 ≤ arg c 0 4 → arg c 0 4 ≤ 63 →
      let m := setBits (kget s.mem.classOn c.partition.toNat 0) (arg c 0 4) 1 (if opt c 0 then 1 else 0)
      exec (.poolEnableClass c) s = .next (complete
        { startCmd s c sp with mem := { s.mem with classOn := kset s.mem.classOn c.partition.toNat m } } (cmdRef c) 0 (m + 0x3F) []))

/-- R163, R164, R180, R183, R187: a page walk done brings its entry into the cache and to the requests that wait for it, or is
walked again where GEN has changed; a sweep done removes every entry of an earlier generation; a table moves where there is
place. What it takes from the model and not from a rule: log entries 34, 35. -/
def Obligations.WalksAndSweeps : Prop :=
  ∀ (t page loc : Nat) (a : Ast) (w : Walk) (s : State), running s = true → astOf s t = some a →
    (∀ e, s.xl.walks.find? (fun w => w.ast = t && w.page = page) = some w → w.gen = a.gen → pteOf s t page = some e →
      ∃ v, exec (.pageWalkDone t page) s = .next (settle hooks (walkArrives v t page)) ∧ v.xl.walks = s.xl.walks.erase w ∧
        cacheHit v t a.gen page = some e ∧ v.xl.ptes = s.xl.ptes ∧ v.xl.asts = s.xl.asts ∧ v.ing = s.ing ∧ v.mem = s.mem) ∧
    (s.xl.walks.find? (fun w => w.ast = t && w.page = page) = some w → w.gen = a.gen → pteOf s t page = none →
      ∃ v, exec (.pageWalkDone t page) s = .next (settle hooks (walkArrives v t page)) ∧ v.xl.walks = s.xl.walks.erase w ∧
        v.xl.cache = s.xl.cache ∧ v.xl.asts = s.xl.asts ∧ v.ing = s.ing ∧ v.mem = s.mem) ∧
    (s.xl.walks.find? (fun w => w.ast = t && w.page = page) = some w → w.gen ≠ a.gen →
      exec (.pageWalkDone t page) s = .next
        { s with xl := { s.xl with walks := s.xl.walks.erase w ++ [{ w with gen := a.gen }] } }) ∧
    (a.sweeping = true →
      ∃ v, exec (.genSweepDone t) s =
          .next (settle hooks (invalNext t ((invalFinish v t).xl.invals.length + 1) (invalFinish v t))) ∧
        astOf v t = some { a with sweeping := false } ∧ (∀ u, u ≠ t → astOf v u = astOf s u) ∧
        v.xl.cache = s.xl.cache.filter (fun e => e.ast ≠ t || e.gen = a.gen) ∧ v.xl.ptes = s.xl.ptes ∧ v.mem = s.mem) ∧
    (tableFits s loc (tablePages a.spanLog2) (some t) = true →
      ∃ v, exec (.ptRelocate t loc) s = .next v ∧ astOf v t = some { a with ptLoc := loc } ∧
        (∀ u, u ≠ t → astOf v u = astOf s u) ∧ v.xl.ptes = s.xl.ptes ∧ v.mem = s.mem)

/-- R162 to R170, R981: the AST commands on ASTs that exist, and AST.CREATE where numbers and table space are free. R192, R197: WINDOW.SET
writes its entry and WINDOW.CLEAR clears it; each completes at once where no request uses the entry's old contents, and otherwise waits for
those. What it takes from the model and not from a rule: log entries 36, 38, 111, 112, 136. -/
def Obligations.TranslationCommands : Prop :=
  (∀ (c : Cmd) (s : State),
    (let sp := astSpec 1 [(0, 4)] .field
     let t := startCmd s c sp
     ∀ n loc, CmdRuns s c sp none true → 30 ≤ arg c 0 4 → arg c 0 4 ≤ 48 → c.fn ≠ 0 → tablesTotal s + tableBytes (arg c 0 4) ≤ GiB →
      firstFree (s.xl.asts.map (·.1)) 4096 (freeNat s) (s.xl.asts.length + 1) = some n →
      tablePlace t (tablePages (arg c 0 4)) = some loc →
      ∃ u, exec (.astCreate c) s = .next (complete u (cmdRef c) 0 n []) ∧
        (∃ b, astOf u n = some { spanLog2 := arg c 0 4, partition := c.fn - 1, gen := 0, ptLoc := loc, born := b }) ∧
        (∀ k, k ≠ n → astOf u k = astOf s k) ∧ u.xl.ptes = s.xl.ptes ∧ u.xl.cache = s.xl.cache ∧ u.mem = s.mem) ∧
    -- never refused because free space is divided: the switch moves its tables together
    (let sp := astSpec 1 [(0, 4)] .field
     ∀ n, CmdRuns s c sp none true → 30 ≤ arg c 0 4 → arg c 0 4 ≤ 48 → c.fn ≠ 0 → tablesTotal s + tableBytes (arg c 0 4) ≤ GiB →
      firstFree (s.xl.asts.map (·.1)) 4096 (freeNat s) (s.xl.asts.length + 1) = some n →
      ∃ u a, exec (.astCreate c) s = .next (complete u (cmdRef c) 0 n []) ∧ astOf u n = some a ∧ a.spanLog2 = arg c 0 4 ∧
        a.partition = c.fn - 1 ∧ a.gen = 0 ∧ u.xl.ptes = s.xl.ptes ∧ u.mem = s.mem) ∧
    (let sp := astSpec 2 [(0, 4)] .object
     ∀ a, CmdRuns s c sp (astPart s (arg c 0 4)) (astMine s c (arg c 0 4)) → astOf s (arg c 0 4) = some a → a.draining = false →
      (∀ w ∈ s.xl.invals, w.ast = arg c 0 4 → w.running = true) → (∀ e ∈ s.xl.ptes, e.1 / 2 ^ 18 ≠ arg c 0 4) →
      ∃ u, exec (.astDestroy c) s = .next (settle hooks (complete u (cmdRef c) 0 0 [])) ∧ u.xl.asts = kdel s.xl.asts (arg c 0 4) ∧
        (∀ e ∈ u.xl.cache, e.ast ≠ arg c 0 4) ∧ u.xl.ptes = s.xl.ptes ∧ u.mem = s.mem) ∧
    (let sp := astSpec 3 [(0, 4)] .object
     ∀ a, CmdRuns s c sp (astPart s (arg c 0 4)) (astMine s c (arg c 0 4)) → astOf s (arg c 0 4) = some a → a.draining = false →
      a.sweeping = false → (∀ w ∈ s.xl.invals, w.ast = arg c 0 4 → w.running = true) →
      ∃ u, exec (.astInvalidate c) s = .next (settle hooks u) ∧
        astOf u (arg c 0 4) = some { a with gen := (a.gen + 1) % 65536, draining := true, sweeping := true,
                                            drainCount := inFlightOf s (arg c 0 4) a.gen,
                                            quiet := decide (inFlightOf s (arg c 0 4) a.gen = 0) } ∧
        u.xl.ptes = s.xl.ptes ∧ u.xl.invals = s.xl.invals ++ [⟨arg c 0 4, .invalidate, true, [], some (cmdRef c)⟩] ∧ u.mem = s.mem) ∧
    (let sp := astSpec 4 [(0, 4)] .reads
     CmdRuns s c sp none (astMine s c (arg c 0 4)) → arg c 0 4 ≤ 4095 →
      exec (.astInfo c) s = .next (complete (startCmd s c sp) (cmdRef c) 0 0 (match astOf s (arg c 0 4) with
        | none => leBytes 16 0
        | some a => leBytes 8 (1 + (if a.draining then 2 else 0) + 4 * a.spanLog2 + 2 ^ 8 * a.partition + 2 ^ 32 * a.gen) ++
            leBytes 8 (a.ptLoc + 2 ^ 36 * a.drainCount)))) ∧
    (let sp := astSpec 5 [(0, 4), (4, 4)] .reads
     CmdRuns s c sp none (astMine s c (arg c 0 4)) → arg c 4 4 ≤ 262143 → (astOf s (arg c 0 4)).isSome = true →
      exec (.astPteRead c) s = .next (complete (startCmd s c sp) (cmdRef c) 0 0
        (leBytes 4 (((pteOf s (arg c 0 4) (arg c 4 4)).map pteWord).getD 0))))) ∧
  (∀ (c : Cmd) (s : State), arg c 0 4 ≤ 1023 →
    (let sp := winSpec 1 [(0, 4), (4, 4), (8, 4), (12, 4)]
     let w : Window := ⟨arg c 4 4, arg c 8 4, arg c 12 4⟩
     CmdRuns s c sp none true → arg c 4 4 ≤ 131071 → arg c 12 4 ≤ 131071 → arg c 4 4 + arg c 8 4 ≤ 131072 → arg c 12 4 + arg c 8 4 ≤ 131072 →
      (∀ e ∈ s.xl.windows, e.1 ≠ arg c 0 4 → e.2.sizeGib = 0 ∨ arg c 8 4 = 0 ∨ e.2.offsetBase + e.2.sizeGib ≤ arg c 4 4 ∨
        arg c 4 4 + arg c 8 4 ≤ e.2.offsetBase) →
      ∃ u, u.xl.windows = kset s.xl.windows (arg c 0 4) w ∧ u.mem = s.mem ∧ u.xl.ptes = s.xl.ptes ∧
        (windowUsers s (arg c 0 4) = [] → exec (.windowSet c) s = .next (complete u (cmdRef c) 0 0 []) ∧
          u.xl.windowDrains = s.xl.windowDrains) ∧
        (windowUsers s (arg c 0 4) ≠ [] → exec (.windowSet c) s = .next { u with xl := { u.xl with
          windowDrains := s.xl.windowDrains ++ [⟨arg c 0 4, windowUsers s (arg c 0 4), cmdRef c⟩] } })) ∧
    (let sp := winSpec 2 [(0, 4)]
     let u := { startCmd s c sp with xl := { s.xl with windows := kdel s.xl.windows (arg c 0 4) } }
     CmdRuns s c sp none true →
      (windowUsers s (arg c 0 4) = [] → exec (.windowClear c) s = .next (complete u (cmdRef c) 0 0 [])) ∧
      (windowUsers s (arg c 0 4) ≠ [] → exec (.windowClear c) s = .next { u with xl := { u.xl with
          windowDrains := s.xl.windowDrains ++ [⟨arg c 0 4, windowUsers s (arg c 0 4), cmdRef c⟩] } })))

/-- R979, R980, R181, R185: POOL.MAP of pages homed here takes its references and writes its entries; POOL.UNMAP and POOL.PROTECT of whole
mapped pages write theirs, advance GEN, count the old generation's requests, and wait. What it takes from the model and not from a rule: log
entries 37, 111, 112, 154. -/
def Obligations.PageCommands : Prop :=
  ∀ (c : Cmd) (a : Ast) (s : State), astOf s c.ast.toNat = some a → c.addr0.toNat % GiB = 0 →
    let t := c.ast.toNat
    let v := c.addr0.toNat / GiB
    (let sp : CmdSpec := { group := 0x08, verb := 1, pf0 := true, opts := 1, ast := true, acts := .object,
                           args := [(0, 8), (8, 4), (12, 4), (16, 4), (20, 4)] }
     ∀ u, CmdRuns s c sp (astPart s t) true → arg c 8 4 = 1 → arg c 0 8 % GiB = 0 → arg c 0 8 < 2 ^ 47 → arg c 12 4 ≤ 7 →
      1 ≤ arg c 20 4 → arg c 20 4 ≤ 3 → v < tableEntries a → classRefusal s a.partition (arg c 16 4) = none → pteOf s t v = none →
      hdmClash (writePage (startCmd s c sp) t v 1 (arg c 0 8 / GiB) (arg c 12 4)) = false → homeOf s (arg c 0 8) = some (selfNode s) →
      homeAdds (startCmd s c sp) [arg c 0 8 / GiB] (arg c 16 4) (arg c 20 4) a.partition (opt c 0) = .inl u →
      exec (.poolMap c) s = .next (complete (writePage u t v 1 (arg c 0 8 / GiB) (arg c 12 4)) (cmdRef c) 0 0 [])) ∧
    (let sp : CmdSpec := { group := 0x08, verb := 2, ast := true, acts := .object, args := [(0, 4)] }
     CmdRuns s c sp (astPart s t) (astMine s c t) → a.draining = false → a.sweeping = false →
      (∀ w ∈ s.xl.invals, w.ast = t → w.running = true) → v + arg c 0 4 ≤ 2 ^ 18 → 0 < arg c 0 4 →
      wholePages s t v (arg c 0 4) = true → (∀ i, v ≤ i → i < v + arg c 0 4 → (pteOf s t i).isSome = true) → ksorted s.xl.ptes = true →
      ∃ u, exec (.poolUnmap c) s = .next (settle hooks u) ∧ (∀ i, v ≤ i → i < v + arg c 0 4 → pteOf u t i = none) ∧
        (∀ k i, k ≠ t ∨ i < v ∨ v + arg c 0 4 ≤ i → i < 2 ^ 18 → pteOf u k i = pteOf s k i) ∧
        astOf u t = some { a with gen := (a.gen + 1) % 65536, draining := true, sweeping := true,
                                  drainCount := inFlightOf s t a.gen, quiet := decide (inFlightOf s t a.gen = 0) } ∧ u.mem = s.mem) ∧
    (let sp : CmdSpec := { group := 0x08, verb := 3, ast := true, acts := .object, args := [(0, 4), (4, 4)] }
     CmdRuns s c sp (astPart s t) (astMine s c t) → a.draining = false → a.sweeping = false →
      (∀ w ∈ s.xl.invals, w.ast = t → w.running = true) → v + arg c 0 4 ≤ 2 ^ 18 → 0 < arg c 0 4 → arg c 4 4 ≤ 7 →
      wholePages s t v (arg c 0 4) = true → (∀ i, v ≤ i → i < v + arg c 0 4 → (pteOf s t i).isSome = true) →
      ∃ u, exec (.poolProtect c) s = .next (settle hooks u) ∧
        (∀ i e, v ≤ i → i < v + arg c 0 4 → pteOf s t i = some e → pteOf u t i =
          some { e with r := (arg c 4 4).testBit 0, w := (arg c 4 4).testBit 1, a := (arg c 4 4).testBit 2 }) ∧
        astOf u t = some { a with gen := (a.gen + 1) % 65536, draining := true, sweeping := true,
                                  drainCount := inFlightOf s t a.gen, quiet := decide (inFlightOf s t a.gen = 0) } ∧ u.mem = s.mem)

/-- R209, R212, R220, R221, R224, R236: what answers and reads do to a line's directory entry at its home. An answer takes the agent out of
the awaited ones and leaves it in S or not at all; the data that it brought is an operation that the line's transaction waits for; a read
done grants the line, E where it was in I and S otherwise for RD_SHARED, M for RD_OWN, and starts its tenure; a poisoned line grants
nothing. What it takes from the model and not from a rule: log entries 39, 156. -/
def Obligations.CoherenceTransitions : Prop :=
  ∀ (line a : Nat) (t : Txn) (s : State), (lineOf s line).txn = some t → s.MemWf →
    ((lineOf s line).st = .m → (lineOf s line).owner = a →
      ∃ u, noteAnswer s line a false = u ∧ (lineOf u line).st = .i ∧ u.mem = s.mem ∧
        (lineOf u line).txn = some { t with awaiting := t.awaiting.filter (· ≠ a), noCopy := t.noCopy.filter (· ≠ a) } ∧
        (∀ k, k ≠ line → kfind u.coh.lines k = kfind s.coh.lines k)) ∧
    (t.inv = false → (lineOf s line).st = .e → (lineOf s line).owner = a →
      ∃ u, noteAnswer s line a true = u ∧ (lineOf u line).st = .s ∧ (lineOf u line).sharers = [a] ∧ u.mem = s.mem ∧
        (∀ k, k ≠ line → kfind u.coh.lines k = kfind s.coh.lines k)) ∧
    (∀ (origin : Origin) (p : Req) (data : List Byte), ∃ v, lineWrite s line origin p data = memAccess v s.nextId ∧
      kfind v.mem.ops s.nextId = some { op := .wbDirty, p := p, origin := origin, pool := line * 64, len := 64, data := data,
                                        phase := .access, forLine := some line, arrived := s.clk } ∧
      (lineOf v line).txn = some { t with writes := t.writes ++ [s.nextId] } ∧ (lineOf v line).st = (lineOf s line).st ∧
      v.mem.bytes = s.mem.bytes ∧ v.mem.poison = s.mem.poison ∧ (∀ k, k ≠ line → kfind v.coh.lines k = kfind s.coh.lines k)) ∧
    (∀ op p origin, t.req = .coh op a p origin → poisoned s line = true →
      cohReadDone s line false = reply (endTxn s line) (homePort s (line * 64)) origin op p 3 0 64 0 [] 0) ∧
    (∀ p origin, t.req = .coh .rdShared a p origin → poisoned s line = false → t.fromI = true →
      ∃ u, cohReadDone s line false = reply u (homePort s (line * 64)) origin .rdShared p 0 0 64 (2 + line * 64) (readBytes s.mem.bytes (line * 64) 64)
          (homeLoad s (line * 64)) ∧
        (lineOf u line).st = .e ∧ (lineOf u line).owner = a ∧ (lineOf u line).txn = none ∧
        (lineOf u line).tenure = some (s.clk + tenureNs s (lineOf s line).domain, a) ∧ u.mem = s.mem) ∧
    (∀ p origin, t.req = .coh .rdOwn a p origin → poisoned s line = false →
      ∃ u, cohReadDone s line false = reply u (homePort s (line * 64)) origin .rdOwn p 0 0 64 (3 + line * 64) (readBytes s.mem.bytes (line * 64) 64)
          (homeLoad s (line * 64)) ∧
        (lineOf u line).st = .m ∧ (lineOf u line).owner = a ∧ (lineOf u line).sharers = [] ∧ (lineOf u line).txn = none ∧ u.mem = s.mem)

/-- R212, R224, R227, R231, R232: snoop answers that reach this home, the end of a line's tenure, its timeout, and the sweep after
an agent failed. R245, R248, R251, R252: a combining window closes at its end and its request is sent; a hot line sends the
oldest STORE held, and cools where none is held or outstanding. What it takes from the model and not from a rule: log entries 2,
15, 20, 21, 39, 40. -/
def Obligations.CoherenceEvents : Prop :=
  (∀ (line d a : Nat) (r : Resp) (s : State), running s = true →
    (discardUnknown s r.lport = false → respOk r = true → r.status = 0 → snoopResultOk r = true → r.dst.toNat = selfNode s →
      exec (.snoopAnswer r) s = .next (checkQuar (settle hooks (snoopAnswer s r)) r.lport)) ∧
    (discardUnknown s r.lport = false → respOk r = true → snoopResultOk r = true → r.status ≠ 0 →
      ∃ u, exec (.snoopAnswer r) s = .next (checkQuar u r.lport) ∧ ctr u .snoopDrop = satAdd 48 (ctr s .snoopDrop) 1 ∧ u.coh = s.coh ∧
        u.mem = s.mem) ∧
    (∀ t b x, (lineOf s line).tenure = some (t, b) → (lineOf s line).txn = some x → x.waitTenure = true →
      ∃ v, exec (.tenureEnd line) s = .next (settle hooks (lineSnoop v line)) ∧ v.clk = max s.clk t ∧ v.coh = s.coh ∧ v.mem = s.mem) ∧
    (∀ x, (lineOf s line).txn = some x → x.awaiting ≠ [] → x.waitTenure = false →
      ∃ v, exec (.homeTimeout line) s = .next (settle hooks (dropAwaited
          (x.awaiting.foldl (fun t a => agentFail t (lineOf s line).domain a 0) v) line fun _ => true)) ∧
        v.clk = max s.clk x.deadline ∧ v.coh = s.coh ∧ v.mem = s.mem) ∧
    (s.coh.sweeps.contains (d, a) = true →
      ∃ v, exec (.directorySweep d a []) s = .next (settle hooks
          ((v.coh.lines.filter fun e => (lineOf v e.1).domain = d).foldl (fun s e => dropAwaited s e.1 (· = a)) v)) ∧
        v = { s with coh := { s.coh with sweeps := s.coh.sweeps.filter (· ≠ (d, a)) } })) ∧
  (∀ (k : Nat) (s : State), running s = true →
    (∀ g, kfind s.coh.groups k = some g → g.sent = false →
      ∃ v, exec (.combineWindowEnd k) s = .next (settle hooks (groupSend v k)) ∧ v.clk = max s.clk (g.start + readWindow s) ∧
        v.coh = s.coh ∧ v.ing = s.ing ∧ v.mem = s.mem) ∧
    -- a STORE of this hot line alone, with nothing older outstanding
    (∀ h id rest, ksorted s.coh.hot = true → kfind s.coh.hot k = some h → h.outstanding = none → h.held = id :: rest →
      (∀ e ∈ s.coh.hot, e.1 ≠ k → e.2.held.contains id = false) → storeOut s k id = none →
      ∃ v, exec (.hotLineSend k) s = .next (settle hooks (sendParts hooks v id)) ∧ v.clk = max s.clk (h.lastSend + storeWindow s) ∧
        kfind v.coh.hot k = some { h with lastSend := v.clk, outstanding := some id, held := rest } ∧
        (∀ j, j ≠ k → kfind v.coh.hot j = kfind s.coh.hot j) ∧ v.ing = s.ing ∧ v.mem = s.mem) ∧
    (∀ h, kfind s.coh.hot k = some h → h.outstanding = none → h.held = [] →
      ∃ v, exec (.hotLineExpire k) s = .next v ∧ v.clk = max s.clk (h.idle + storeWindow s) ∧ v.coh = { s.coh with hot := kdel s.coh.hot k } ∧
        v.ing = s.ing ∧ v.mem = s.mem))

/-- R199 to R202, R234, R986: the DOMAIN commands where each is carried out. What it takes from the model and not from a rule: log entries
42, 111, 112, 155. -/
def Obligations.DomainCommands : Prop :=
  ∀ (c : Cmd) (s : State), let d := arg c 0 4
    (let sp := domSpec 1 [(0, 4)] .field 0
     CmdRuns s c sp none true → d ≤ 63 → domOf s d = none →
      ∃ u, exec (.domainCreate c) s = .next (complete u (cmdRef c) 0 0 []) ∧ domOf u d = some { partition := c.partition.toNat } ∧
        regField u (rDomain d) 0 1 = 1 ∧ regField u (rDomain d) 20 10 = c.partition.toNat ∧ regField u (rDomain d) 32 32 = 0 ∧
        (∀ e, e ≠ d → domOf u e = domOf s e) ∧ u.coh.lines = s.coh.lines ∧ u.coh.ranges = s.coh.ranges ∧ u.mem = s.mem) ∧
    (let sp := domSpec 2 [(0, 4)] .object 0
     ∀ x, CmdRuns s c sp (domPart s c) true → domOf s d = some x → x.destroying = none →
      ∃ u, exec (.domainDestroy c) s = .next (settle hooks (leaveLines u fun n _ => kfind s.coh.ranges (n * 64 / GiB) = some d)) ∧
        domOf u d = some { x with destroying := some [cmdRef c] } ∧ u.coh.ranges = s.coh.ranges.filter (fun e => e.2 ≠ d) ∧
        u.coh.lines = s.coh.lines ∧ u.mem = s.mem) ∧
    (let sp := domSpec 3 [(0, 4), (4, 4), (8, 4)] .object 0
     ∀ x, CmdRuns s c sp (domPart s c) true → domOf s d = some x → x.destroying = none → arg c 4 4 ≤ 31 → arg c 8 4 < 0x7FFF →
      (∀ m ∈ x.members, m.2 ≠ arg c 8 4) → kfind x.members (arg c 4 4) = none → agentMemberOk (startCmd s c sp) x (arg c 8 4) = true →
      let v := settle hooks (sweepAgent (startCmd s c sp) d (arg c 4 4) [])
      let lines := v.coh.lines.map fun e =>
        if (lineOf v e.1).domain = d then (e.1, { e.2 with granted := e.2.granted.filter (· ≠ arg c 4 4) }) else e
      ∃ u, exec (.domainAddAgent c) s = .next (complete (setField u (rDomain d) (32 + arg c 4 4) 1 0) (cmdRef c) 0 0 []) ∧
        u = modDom { v with coh := { v.coh with lines := lines } } d
          (fun x => { x with members := kset x.members (arg c 4 4) (arg c 8 4), failed := x.failed.filter (· ≠ arg c 4 4) })) ∧
    (let sp := domSpec 4 [(0, 4), (4, 4)] .object 0
     ∀ x n, CmdRuns s c sp (domPart s c) true → domOf s d = some x → x.destroying = none → kfind x.members (arg c 4 4) = some n →
      exec (.domainRemoveAgent c) s = .next (complete (agentFail (startCmd s c sp) d (arg c 4 4) 1) (cmdRef c) 0 0 [])) ∧
    (let sp := domSpec 5 [(0, 4), (4, 4)] .object 1
     ∀ x, CmdRuns s c sp (domPart s c) true → domOf s d = some x → x.destroying = none → arg c 4 4 < 131072 →
      (opt c 0 = false → kfind s.coh.ranges (arg c 4 4) = none → homedHere s (arg c 4 4 * GiB) = true → gibShared s (arg c 4 4) = false →
        (∀ e ∈ s.coh.leaving, e.1 ≠ arg c 4 4) →
        exec (.domainSetRange c) s = .next (complete
          { startCmd s c sp with coh := { s.coh with ranges := kset s.coh.ranges (arg c 4 4) d } } (cmdRef c) 0 0 [])) ∧
      (opt c 0 = true → kfind s.coh.ranges (arg c 4 4) = some d →
        exec (.domainSetRange c) s = .next (settle hooks (leaveLines
          { startCmd s c sp with coh := { s.coh with ranges := kdel s.coh.ranges (arg c 4 4),
                                                     leaving := s.coh.leaving ++ [(arg c 4 4, cmdRef c)] } }
          fun n _ => n * 64 / GiB = arg c 4 4))))

/-- R234: an agent that fails is marked in its domain and in DOMAIN_d.FAILED, its sweep starts, and no other domain changes. R238, R239 to
R241: a host bridge: a decoder written and committed where it maps no gigabyte a second time, and refused where it would; the host's
requests converted to Jarti requests of the bridge, by their kind, each under a tag of its own; to a coherent gigabyte of another domain a
cached read is a plain one (R239); an answer to a back-invalidate snoop is the snoop's answer; a conflict is acknowledged. What it takes
from the model and not from a rule: log entries 42, 43, 153. -/
def Obligations.AgentsAndHostBridge : Prop :=
  (∀ (d a cause node : Nat) (x : Domain) (s : State), domOf s d = some x → kfind x.members a = some node → x.failed.contains a = false →
    a < 32 →
    domOf (agentFail s d a cause) d = some { x with failed := insertRising a x.failed } ∧
    regField (agentFail s d a cause) (rDomain d) (32 + a) 1 = 1 ∧
    (agentFail s d a cause).coh.sweeps = s.coh.sweeps ++ [(d, a)] ∧
    (∀ e, e ≠ d → domOf (agentFail s d a cause) e = domOf s e) ∧ (agentFail s d a cause).mem = s.mem ∧
    (agentFail s d a cause).lports = s.lports) ∧
  (∀ (b hpa tag : Nat) (d : HdmDecoder) (s : State), running s = true → b < 4 → decoderOf s b hpa = some d → bridgeUp s b = true →
    let line := hdmLine s d hpa
    let va := hdmVa d hpa / 64 * 64
    let g := freeTag s b
    let noted := fun t : State => noteHost t b tag [g]
    exec (.cxlM2sReq b .readI hpa tag) s = .next (bridgeReq (noted s) b d .load va g 64 []) ∧
    (foreignLine s b line = false →
      exec (.cxlM2sReq b .readS hpa tag) s = .next (bridgeReq (noted s) b d .rdShared va g 64 []) ∧
      exec (.cxlM2sReq b .readA hpa tag) s = .next (bridgeReq (noted s) b d .rdOwn va g 64 []) ∧
      exec (.cxlM2sReq b .memInv hpa tag) s = .next (bridgeReq (noted s) b d .upgrade va g 64 []) ∧
      exec (.cxlM2sReq b .clnEvct hpa tag) s = .next (bridgeReq (noted (hostDrops s b line)) b d .evictClean va g 64 [])) ∧
    -- another domain's gigabyte is read uncached, and has no ownership or eviction
    (foreignLine s b line = true →
      exec (.cxlM2sReq b .readS hpa tag) s = .next (bridgeReq (noted s) b d .load va g 64 []) ∧
      exec (.cxlM2sReq b .readA hpa tag) s = .next (bridgeReq (noted s) b d .load va g 64 []) ∧
      exec (.cxlM2sReq b .memInv hpa tag) s = .next (emit s (.cxl b (.cmp tag 0 0)))) ∧
    (∀ (n : Nat) (mask : BitVec 64) (data : List Byte), line = some n → s.coh.hostHeld.contains (heldKey b n) = true →
      exec (.cxlM2sRwd b hpa tag mask data) s =
        .next (bridgeReq (noted (hostDrops s b line)) b d .wbDirty va g 64 (sliceBytes data 0 64))) ∧
    (∀ (mask : BitVec 64) (data : List Byte) (r : Nat × Nat), line = none ∨ s.coh.hostHeld = [] →
      (runsOf mask = [] → exec (.cxlM2sRwd b hpa tag mask data) s = .next (emit s (.cxl b (.cmp tag 0 0)))) ∧
      (runsOf mask = [r] → exec (.cxlM2sRwd b hpa tag mask data) s =
        .next (bridgeReq (noted s) b d .store (va + r.1) g r.2 (sliceBytes data r.1 r.2)))) ∧
    (∀ n x, line = some n → s.coh.biSnoops.find? (fun x => x.bridge = b && x.line = n) = some x → x.home = selfNode s →
      ∃ u r, exec (.cxlBiRsp b hpa false []) s = .next (settle hooks (snoopAnswer u r)) ∧ u.coh.biSnoops = s.coh.biSnoops.erase x ∧
        u.coh.hostHeld.contains (heldKey b n) = false ∧ u.mem = s.mem ∧ u.coh.lines = s.coh.lines ∧
        r.reqOpcode = (if x.inv then 0x48 else 0x49) ∧ r.tag = BitVec.ofNat 16 x.tag ∧
        r.result = (if s.coh.hostHeld.contains (heldKey b n) then 4 else 0)) ∧
    (∀ n x, line = some n → x ∈ s.coh.biSnoops → x.bridge = b → x.line = n →
      exec (.cxlBiconflict b hpa) s = .next (emit s (.cxl b (.biConflictAck hpa)))) ∧
    (∀ (index base size part ast vbase : Nat), index < 16 →
      (∃ e ∈ s.coh.decoders, e.1 / 16 = b ∧ e.1 ≠ b * 16 + index ∧
        ∃ x ∈ hdmPages s e.2, (hdmPages s ⟨base, size, part, ast, vbase⟩).contains x = true) →
      exec (.hdmDecoderWrite b index base size part ast vbase true) s = .next (emit s (.cxl b (.decoderRefused index 6)))) ∧
    (∀ index base size part ast vbase : Nat, index < 16 → (partOf s part).st = .active → (partOf s part).tdi ≠ .locked →
      (partOf s part).tdi ≠ .run → part < 1024 → ast < 4096 → base % GiB = 0 → vbase % GiB = 0 → s.coh.decoders = [] ∨ size = 0 →
      kfind s.coh.decoders (b * 16 + index) = none →
      exec (.hdmDecoderWrite b index base size part ast vbase true) s = .next
        { s with coh := { s.coh with decoders := kset s.coh.decoders (b * 16 + index) ⟨base, size, part, ast, vbase⟩ } }))

/-- R267 to R269, R276: what the version opcodes do to a region at its home. OPEN_VERSION of a node without an open gives it a read open of
the current version, a read open of a version that is current or that some open holds (of any other it is STALE and names the current one), or
a draft where fewer than 16 are open, each with a new lease; RENEW restarts the lease of an open, and is STALE where there is none or its
mark is set; reserved bits are MALFORMED. CLOSE ends the node's open and clears its mark. PUBLISH without a draft is STALE, of another base
than the draft's MALFORMED, of a base that is no longer current STALE with the draft's end, and one that is taken makes the next version
current. R255, R256, R257, R270, R272, R282, R283: a lease's end, the end of a copy on write, and the SNAP commands where each is carried out.
What it takes from the model and not from a rule: log entries 44, 45, 111, 112, 148. -/
def Obligations.SharedRegions : Prop :=
  (∀ (n node : Nat) (r : SharedRegion) (b : List Byte) (s : State), kfind s.snap.regions n = some r →
    let lease := s.ftime.toNat + r.leaseMs * 1000000
    -- OPEN_VERSION where the node holds no open
    (leField b 4 4 = 0 → kfind r.opens node = none → r.expired.contains node = false → opensAll s < 65536 →
      let opened := fun (o : VOpen) => ∃ t q, openVersion s n r node b = (t, 0, o.version) ∧ kfind t.snap.regions n = some q ∧
        q.current = r.current ∧ kfind q.opens node = some o ∧ (∀ m, m ≠ node → kfind q.opens m = kfind r.opens m) ∧
        (s.snap.dying = [] → t.mem = s.mem)
      (leField b 0 4 = 0 → leField b 8 8 = 0 → opened { draft := false, version := r.current, leaseEnd := lease }) ∧
      (leField b 0 4 = 1 → leField b 8 8 = r.current ∨ (∃ e ∈ r.opens, e.2.version = leField b 8 8) →
        opened { draft := false, version := leField b 8 8, leaseEnd := lease }) ∧
      (leField b 0 4 = 1 → leField b 8 8 ≠ r.current → (∀ e ∈ r.opens, e.2.version ≠ leField b 8 8) →
        ∃ t, openVersion s n r node b = (t, 7, r.current) ∧ kfind t.snap.regions n = some r ∧ (s.snap.dying = [] → t.mem = s.mem)) ∧
      (leField b 0 4 = 2 → leField b 8 8 = 0 → draftsOf r < 16 → opened { draft := true, version := r.current, leaseEnd := lease }) ∧
      (leField b 0 4 = 2 → leField b 8 8 = 0 → 16 ≤ draftsOf r →
        ∃ t, openVersion s n r node b = (t, 2, 0) ∧ kfind t.snap.regions n = some r ∧ (s.snap.dying = [] → t.mem = s.mem))) ∧
    (leField b 0 4 = 4 → leField b 4 4 = 0 → leField b 8 8 = 0 →
      (kfind r.opens node = none ∨ r.expired.contains node = true) → openVersion s n r node b = (s, 7, r.current)) ∧
    (∀ o, leField b 0 4 = 4 → leField b 4 4 = 0 → leField b 8 8 = 0 → kfind r.opens node = some o → r.expired.contains node = false →
      ∃ t q, openVersion s n r node b = (t, 0, o.version) ∧ kfind t.snap.regions n = some q ∧
        kfind q.opens node = some { o with leaseEnd := lease } ∧ (∀ m, m ≠ node → kfind q.opens m = kfind r.opens m) ∧ t.mem = s.mem) ∧
    (8 ≤ leField b 0 4 → openVersion s n r node b = (s, 6, 0)) ∧
    -- CLOSE_VERSION
    (∀ (origin : Origin) (p : Req) (k : Nat), p.payload = b → leNat b = 0 → p.length ≠ 0 → p.src.toNat = node → p.address.toNat < 2 ^ 47 →
      backed s p.address.toNat 0 = true → regionOf s (frameOf p.address.toNat) = some (n, r, k) →
      versionStart s origin .closeVersion p = reply (clearMark (endOpen s n node) n node) (homePort (clearMark (endOpen s n node) n node)
        p.address.toNat) origin .closeVersion p 0 0 p.length.toNat 0 [] 0) ∧
    (kfind r.opens node = none → r.expired.contains node = false →
      kfind (clearMark (endOpen s n node) n node).snap.regions n = some r) ∧
    (∀ o, r.opens = [(node, o)] → r.copies = [] → ∃ q, kfind (clearMark (endOpen s n node) n node).snap.regions n = some q ∧ q.opens = [] ∧
      q.expired.contains node = false ∧ q.current = r.current ∧ (clearMark (endOpen s n node) n node).mem = s.mem) ∧
    -- PUBLISH
    (leField b 8 8 < 2 → kfind r.opens node = none → publish s n r node b = (s, 7, r.current)) ∧
    (∀ o, leField b 8 8 < 2 → kfind r.opens node = some o → o.draft = false ∨ r.expired.contains node = true →
      publish s n r node b = (s, 7, r.current)) ∧
    (∀ o, leField b 8 8 < 2 → kfind r.opens node = some o → o.draft = true → r.expired.contains node = false →
      leField b 0 8 ≠ o.version → publish s n r node b = (s, 6, 0)) ∧
    (∀ o, leField b 8 8 < 2 → kfind r.opens node = some o → o.draft = true → r.expired.contains node = false →
      leField b 0 8 = o.version → o.version ≠ r.current → publish s n r node b = (endOpen s n node, 7, r.current)) ∧
    (∀ o, leField b 8 8 < 2 → kfind r.opens node = some o → o.draft = true → r.expired.contains node = false →
      leField b 0 8 = o.version → o.version = r.current → (publish s n r node b).2 = (0, r.current + 1) ∧
      (r.opens = [(node, o)] → r.copies = [] → o.written = [] → ∃ q, kfind (publish s n r node b).1.snap.regions n = some q ∧
        q.current = r.current + 1 ∧ (publish s n r node b).1.mem = s.mem ∧
        (leField b 8 8 = 0 → q.opens = []) ∧
        (leField b 8 8 = 1 → q.opens = [(node, { draft := false, version := r.current + 1, leaseEnd := lease })]))) ∧
    (leField b 8 8 ≥ 2 → publish s n r node b = (s, 6, 0))) ∧
  (∀ (c : Cmd) (n node frame : Nat) (s : State), running s = true →
    (∀ r o, kfind s.snap.regions n = some r → kfind r.opens node = some o →
      ∃ v, exec (.versionLeaseEnd n node) s = .next (settle hooks (modRegion (endOpen v n node) n fun r =>
          { r with expired := insertRising node r.expired, expiries := satAdd 32 r.expiries 1 })) ∧
        v = untilFabric s o.leaseEnd ∧ v.snap = s.snap ∧ v.mem = s.mem) ∧
    -- the base version's frame stands in the draft's storage, and the writes that wait for no other copy go on
    (∀ r o k, kfind s.snap.regions n = some r → kfind r.opens node = some o →
      r.copies.find? (fun c => c.node = node && c.frame = frame) = some k →
      s.MemWf → (∀ x, x < frameBytes → byteAt s.mem.bytes (sidBase k.sid + x) = 0) →
      ∃ v, exec (.cowCopyDone n node frame) s = .next (settle hooks ((k.ops.filter fun i =>
          !((v.snap.regions.flatMap fun e => e.2.copies).flatMap (·.ops)).contains i).foldl memNext v)) ∧
        kfind v.snap.regions n = some { r with copies := r.copies.erase k } ∧
        (∀ x, x < frameBytes → byteAt v.mem.bytes (sidBase k.sid + x) = byteAt s.mem.bytes (versionBase r frame o.version + x)) ∧
        (∀ x, x < sidBase k.sid ∨ sidBase k.sid + frameBytes ≤ x → byteAt v.mem.bytes x = byteAt s.mem.bytes x)) ∧
    -- SNAP.CREATE of the frames fs
    (let sp : CmdSpec := { group := 0x0C, verb := 1, ast := true, acts := .object, args := [(0, 4), (4, 4)] }
     let used := s.snap.regions.map (·.1) ++ s.snap.destroying.map (·.1)
     ∀ (fs : List Nat) (k : Nat) (a : Ast), CmdRuns s c sp (astPart s c.ast.toNat) (astMine s c c.ast.toNat) →
      astOf s c.ast.toNat = some a → arg c 0 4 = fs.length → 1 ≤ fs.length → fs.length ≤ 16384 →
      c.addr0.toNat % frameBytes = 0 → 1 ≤ arg c 4 4 → arg c 4 4 ≤ 60000 →
      (∀ i, i < fs.length → vaToPool s c.ast.toNat (c.addr0.toNat + i * frameBytes) = some (fs.getD i 0 * frameBytes)) →
      (∀ f ∈ fs, f / 16384 = fs.headD 0 / 16384 ∧ homedHere s (f * frameBytes) = true ∧ (∃ e, tierOf s f = some e ∧ e.copies ≤ 1) ∧
        kfind s.coh.ranges (f * frameBytes / GiB) = none ∧ regionOf s f = none) →
      firstFree used 1024 (freeNat s) (used.length + 1) = some k →
      ∃ u, exec (.snapCreate c) s = .next (complete u (cmdRef c) 0 k []) ∧
        kfind u.snap.regions k = some { partition := a.partition, frames := fs, leaseMs := arg c 4 4 } ∧
        (∀ j, j ≠ k → kfind u.snap.regions j = kfind s.snap.regions j) ∧ u.mem = s.mem) ∧
    (let sp : CmdSpec := { group := 0x0C, verb := 2, acts := .object, args := [(0, 4)] }
     ∀ r, CmdRuns s c sp (snapPart s c) (snapMine s c) → kfind s.snap.regions (arg c 0 4) = some r →
      let t := r.opens.foldl (fun s o => endOpen s (arg c 0 4) o.1) (startCmd s c sp)
      exec (.snapDestroy c) s = .next (settle hooks { t with snap := { t.snap with
        regions := kdel t.snap.regions (arg c 0 4), destroying := t.snap.destroying ++ [(arg c 0 4, cmdRef c)] } })) ∧
    (let sp : CmdSpec := { group := 0x0C, verb := 3, args := [(0, 4)], acts := .reads }
     CmdRuns s c sp none (snapMine s c) → arg c 0 4 ≤ 1023 →
      exec (.snapInfo c) s = .next (complete (startCmd s c sp) (cmdRef c) 0 0 (match kfind s.snap.regions (arg c 0 4) with
        | none => leBytes 32 0
        | some r => leBytes 8 (1 + 2 * r.frames.length + 2 ^ 16 * r.leaseMs) ++ leBytes 8 r.current ++
            leBytes 8 (r.opens.length + 2 ^ 17 * (r.opens.filter fun o => o.2.draft).length +
              2 ^ 22 * (r.retained.length +
                (s.snap.dying.filter fun e => e.2 = arg c 0 4 && !s.snap.dyingDrafts.contains e.1).length)) ++ leBytes 8 r.expiries))))

/-- R868, R871 to R873: the input's and the reference clocks' events. INPUT_LOW is kept and reported as THROTTLE with detail 1 until
the input recovers; the loss of the selected reference switches to the other, at once or when the other returns, the return of the preferred one after 100 ms back
to it; the loss of both halts the switch. R867, R894 to R897: the averages of the input are kept; over the cap the Wick lowers
by 100 MHz at each tick; after 10 ms at 0.9 GHz a region takes a cap hold, below 95 % of the cap the last one goes; the current
guard acts and is released after 100 µs. What it takes from the model and not from a rule: log entries 2, 123. -/
def Obligations.PowerInputsAndLimits : Prop :=
  (∀ (s : State), running s = true →
    (s.power.inputLow = false → ∃ u, exec .inputLow s = .next (report u 0x0F (selfNode s) 0x1FF 1) ∧
      u = { s with power := { s.power with inputLow := true } }) ∧
    exec .inputRecover s = .next { s with power := { s.power with inputLow := false } } ∧
    (s.power.refA = true → s.power.refB = true → s.power.refSel = 0 → ∀ ports : List Nat,
      ∃ u, exec (.refclkLost 0 ports) s = .next (ports.foldl toRetrain u) ∧ Quiet s u ∧ u.power.refSel = 1 ∧ u.power.refA = false ∧
        u.power.refB = true ∧ u.power.chip = s.power.chip ∧ u.power.regions = s.power.regions ∧
        ctr u (.power 10) = satAdd 48 (ctr s (.power 10)) 1) ∧
    (s.power.refA = true → s.power.refSel = 1 → ∀ ports : List Nat,
      exec (.refclkLost 0 ports) s = .next { s with power := { s.power with refA := false } }) ∧
    (s.power.refA = false → s.power.refSel = 0 ∨ s.power.refB = true → exec (.refclkRestored 0) s = .next
      { s with power := { s.power with refA := true, refSince := s.power.refSince.set 0 s.clk } }) ∧
    (s.power.refA = false → s.power.refB = false → s.power.refSel = 1 → ∃ u, exec (.refclkRestored 0) s = .next u ∧ Quiet s u ∧
      u.power = { s.power with refA := true, refSel := 0, refSince := s.power.refSince.set 0 s.clk } ∧
      ctr u (.power 10) = satAdd 48 (ctr s (.power 10)) 1) ∧
    (∀ ports : List Nat, s.power.refSel ≠ regField s rClk 0 1 → refGood s.power (regField s rClk 0 1) = true →
      ∃ u, exec (.refclkSwitchback ports) s = .next (ports.foldl toRetrain u) ∧ u.power.refSel = regField s rClk 0 1 ∧
        u.clk = max s.clk (s.power.refSince.getD (regField s rClk 0 1) 0 + 100000000) ∧ u.lports = s.lports ∧ u.mem = s.mem ∧
        u.power.regions = s.power.regions) ∧
    exec .refclkBothLost s = .next (haltSwitch { s with power := { s.power with refA := false, refB := false } } 2)) ∧
  (∀ (r vin pin : Nat) (s : State), running s = true →
    (∃ u, exec (.powerTick vin pin) s = .next u ∧ u.power.vin = vin ∧ u.power.pin = pin ∧ u.power.chip = s.power.chip ∧
      u.lports = s.lports ∧ u.mem = s.mem ∧ u.fab = s.fab ∧ (∀ q, isLit s q = false → regionPow u q = regionPow s q)) ∧
    (regField s rPwr 24 12 < s.power.pin → regionPow (capTick s r) r =
      { regionPow s r with limC := max 900 ((regionPow s r).mhz - 100) }) ∧
    (∀ b t, s.power.overSince = some t → leastBusy s (regions16.filter (isLit s)) = some b →
      ∃ u, exec .capTrim s = .next u ∧ u.clk = max s.clk (t + 10000000) ∧ (regionPow u b).st = .trimmed ∧ (regionPow u b).cap = true ∧
        u.power.capHolds = s.power.capHolds ++ [b] ∧ ctr u (.power 7) = satAdd 48 (ctr s (.power 7)) 1 ∧
        (∀ q, q ≠ b → regionPow u q = regionPow s q) ∧ u.mem = s.mem ∧ u.lports = s.lports) ∧
    (s.power.overSince = none → s.power.capHolds.getLast? = some r → s.power.pin * 100 < 95 * regField s rPwr 24 12 →
      ∃ u, exec .capTrim s = .next u ∧ u.clk = max s.clk (s.power.releaseAt + 10000000) ∧ (regionPow u r).cap = false ∧
        u.power.capHolds = s.power.capHolds.dropLast ∧ (∀ q, q ≠ r → regionPow u q = regionPow s q) ∧ u.mem = s.mem) ∧
    (∃ u, exec .currentGuard s = .next u ∧ u.power = { s.power with guard := true, guardAt := s.clk } ∧ Quiet s u ∧
      (s.power.guard = false → ctr u (.power 8) = satAdd 48 (ctr s (.power 8)) 1)) ∧
    (s.power.guard = true → ∃ u, exec .guardRelease s = .next u ∧ u.clk = max s.clk (s.power.guardAt + 100000) ∧
      u.power = { s.power with guard := false } ∧ u.lports = s.lports ∧ u.mem = s.mem))

/-- R882, R883, R885: a region without work for IDLE_TRIM_US is Trimmed, with the chip where it was the last Lit one; a chip that is
quiet for IDLE_HOOD_US asks its ACTIVE ports; no answer in 10 µs ends the entry; a wake event brings the chip and the regions
back. What it takes from the model and not from a rule: log entries 2, 121, 122. -/
def Obligations.PowerStepping : Prop :=
  ∀ (r : Nat) (s : State), running s = true →
    (r < 16 → isLit s r = true → regField s rPwr 0 2 ≠ 0 → regionWork s r = false →
      ∃ u, exec (.regionIdleTrim r) s = .next (followRegions u) ∧
        u.clk = max s.clk ((regionPow s r).idleSince + regField s rPwr 2 10 * 1000) ∧ regionPow u r = { regionPow s r with st := .trimmed, mv := 600, idle := true, limN := 3600, nbrSince := none } ∧
        (∀ q, q ≠ r → regionPow u q = regionPow s q) ∧ u.power.chip = s.power.chip ∧ u.lports = s.lports ∧ u.mem = s.mem ∧
        u.fab = s.fab) ∧
    (∀ u : State, u.power.chip = .lit → regions16.any (isLit u) = false →
      (followRegions u).power.chip = .trimmed ∧ (followRegions u).power.regions = u.power.regions ∧
        ctr (followRegions u) (.power 0) = satAdd 48 (ctr u (.power 0)) 1 ∧ Quiet u (followRegions u)) ∧
    (s.power.chip = .trimmed → regField s rPwr 0 2 = 2 → quiet s none = true → s.power.hooding = none → s.ras.halt = 0 →
      ∃ v, exec .chipHoodEntry s = .next (hoodCheck (askHood v)) ∧ v.clk = max s.clk (s.power.busyAt + regField s rPwr 12 12 * 1000) ∧
        v.lports = s.lports ∧ v.power = s.power ∧ v.mem = s.mem) ∧
    (∀ h, s.power.hooding = some h → h.await ≠ [] →
      ∃ v, exec .lpAckTimeout s = .next (hoodRefused v) ∧ v.clk = max s.clk (h.since + 10000) ∧ v.lports = s.lports ∧
        v.power = s.power ∧ v.mem = s.mem) ∧
    (∀ h, s.power.hooding = some h → (hoodRefused s).power.hooding = none ∧ (hoodRefused s).power.chip = s.power.chip ∧
      ctr (hoodRefused s) (.power 5) = satAdd 48 (ctr s (.power 5)) 1 ∧ (hoodRefused s).mem = s.mem) ∧
    (∀ rs : List Nat, exec (.wake rs) s = .next (rs.foldl wakeRegion (wakeChip s))) ∧
    (s.power.chip = .hooded → s.power.hooding = none → (wakeChip s).power.chip = .trimmed ∧ (wakeChip s).lports = s.lports ∧
      (wakeChip s).mem = s.mem) ∧
    (s.power.chip = .lit → s.power.hooding = none → r < 16 → (regionPow s r).st = .trimmed → (regionPow s r).held = false →
      isFenced s r = false → (regionPow (wakeRegion s r) r).st = .lit ∧ (regionPow (wakeRegion s r) r).idleSince = s.clk ∧
        (wakeRegion s r).power.chip = .lit ∧ Quiet s (wakeRegion s r) ∧
        (∀ q, q ≠ r → regionPow (wakeRegion s r) q = regionPow s q)) ∧
    ((regionPow s r).held = true → (regionPow (wakeRegion s r) r).st = (regionPow s r).st)

/-- R886 to R888, R890, R892, R904, R907: the POWER commands. POWER.SET_STATE is remembered and tested at once; one that arrives
while another waits is answered RETRY_LATER; POWER.SET_REGION Lit ends the command's hold, Trimmed and Banked begin one. What it
takes from the model and not from a rule: log entries 2, 111, 112, 121. -/
def Obligations.PowerCommands : Prop :=
  ∀ (c : Cmd) (s : State),
    (let sp : CmdSpec := { pf0 := true, group := 0x1A, verb := 1, args := [(0, 4), (4, 4)] }
     CmdRuns s c sp none true → arg c 4 4 ≤ 1000000 →
      (arg c 0 4 ≤ 4 → s.power.asked.isSome = true → exec (.powerSetState c) s = .next (complete (startCmd s c sp) (cmdRef c) 2 0 [])) ∧
      (arg c 0 4 = 0 → s.power.asked = none → s.power.tripped = false →
        exec (.powerSetState c) s = .next (trySetState { startCmd s c sp with power := { (startCmd s c sp).power with
          asked := some ⟨.lit, s.clk + arg c 4 4 * 1000, cmdRef c⟩ } })) ∧
      (arg c 0 4 = 1 ∨ arg c 0 4 = 2 → s.power.asked = none → 0 < arg c 4 4 →
        exec (.powerSetState c) s = .next (trySetState { startCmd s c sp with power := { (startCmd s c sp).power with
          asked := some ⟨if arg c 0 4 = 1 then .trimmed else .hooded, s.clk + arg c 4 4 * 1000, cmdRef c⟩ } })) ∧
      (arg c 0 4 = 3 → bankedPorts s = false → s.power.asked = none →
        exec (.powerSetState c) s = .next (complete (startCmd s c sp) (cmdRef c) 5 0 []))) ∧
    (∀ a, running s = true → s.power.asked = some a → a.target ≠ .lit →
      ∃ v, v = trySetState (untilTime s a.deadline) ∧
        (v.power.asked.isSome = true → exec .powerStateDrainTimeout s = .next (complete
          { unhood v with power := { (unhood v).power with asked := none } } a.by_ 2 0 [])) ∧
        (v.power.asked = none → exec .powerStateDrainTimeout s = .next v)) ∧
    (let sp : CmdSpec := { pf0 := true, group := 0x1A, verb := 2, args := [(0, 4), (4, 4)] }
     CmdRuns s c sp none true → arg c 0 4 < 16 → isFenced s (arg c 0 4) = false →
      (arg c 4 4 = 0 → ∃ u, exec (.powerSetRegion c) s = .next (complete (wakeRegion u (arg c 0 4)) (cmdRef c) 0 0 []) ∧ Quiet s u ∧
        regionPow u (arg c 0 4) = { regionPow s (arg c 0 4) with cmd := none, st :=
          (if (regionPow s (arg c 0 4)).st = .banked then .trimmed else (regionPow s (arg c 0 4)).st) } ∧
        (∀ q, q ≠ arg c 0 4 → regionPow u q = regionPow s q)) ∧
      (arg c 4 4 = 1 → ∃ u, exec (.powerSetRegion c) s = .next (complete (followRegions u) (cmdRef c) 0 0 []) ∧ Quiet s u ∧
        regionPow u (arg c 0 4) = { regionPow s (arg c 0 4) with
          cmd := some .trimmed, idle := false, st := .trimmed, mv := 600, limN := 3600, nbrSince := none } ∧
        (∀ q, q ≠ arg c 0 4 → regionPow u q = regionPow s q)) ∧
      (arg c 4 4 = 2 → regionBound s (arg c 0 4) = false →
        ∃ u, exec (.powerSetRegion c) s = .next (complete (followRegions u) (cmdRef c) 0 0 []) ∧ Quiet s u ∧
          regionPow u (arg c 0 4) = { regionPow s (arg c 0 4) with
            cmd := some .banked, idle := false, st := .banked, limN := 3600, nbrSince := none } ∧
          (∀ q, q ≠ arg c 0 4 → regionPow u q = regionPow s q)) ∧
      (arg c 4 4 = 2 → regionBound s (arg c 0 4) = true → exec (.powerSetRegion c) s = .next (complete (startCmd s c sp) (cmdRef c) 5 0 []))) ∧
    (let sp : CmdSpec := { pf0 := true, group := 0x1A, verb := 3 }
     CmdRuns s c sp none true → exec (.powerStats c) s = .next (complete (startCmd s c sp) (cmdRef c) 0 0
      (leBytes 8 (ctr s (.power 0)) ++ leBytes 8 (ctr s (.power 1)) ++ leBytes 8 (ctr s (.power 2)) ++ leBytes 8 (ctr s (.power 3)) ++
       leBytes 8 (ctr s (.power 4)) ++ leBytes 8 (ctr s (.power 5)) ++ leBytes 8 (ctr s (.power 6)) ++ leBytes 8 (ctr s (.power 7)) ++
       leBytes 8 (ctr s (.power 8)) ++ leBytes 8 (ctr s (.power 9)) ++ leBytes 8 (ctr s (.power 10)))))

/-- R898 to R903, R329 to R332: a sensor's reading is kept; a region over THROTTLE_C is lowered; one still hot after 10 ms at 0.9
GHz is held in Trimmed; the trip drops the chip to Pilot with every partition FREE; of a pair of neighbours beyond its limits
the hotter, or the one with the higher supply, is lowered by 100 MHz, and after 10 ms at 0.9 GHz is held in Trimmed and
reported. What it takes from the model and not from a rule: log entries 2, 124. -/
def Obligations.ThermalAndNeighbours : Prop :=
  ∀ (n r : Nat) (t : Int) (s : State), running s = true →
    (n < 90 → ∃ u, exec (.thermSample n t) s = .next u ∧ kfind u.power.temps n = some t ∧
      (∀ k, k ≠ n → kfind u.power.temps k = kfind s.power.temps k) ∧ Quiet s u ∧
      (n < 64 → isLit s (n / 4) = true → 3600 ≤ (regionPow s (n / 4)).limT → ((8 * regField s rTherm 0 7 : Nat) : Int) < t →
        (regionPow u (n / 4)).limT = max 900 ((regionPow s (n / 4)).mhz - 100) ∧
        (regionPow u (n / 4)).mhz ≤ max 900 ((regionPow s (n / 4)).mhz - 100))) ∧
    (∀ since, r < 16 → isLit s r = true → (regionPow s r).hotSince = some since →
      ∃ u, exec (.thermalHold r) s = .next (followRegions u) ∧ u.clk = max s.clk (since + 10000000) ∧
        regionPow u r = { regionPow s r with
          st := .trimmed, mv := 600, therm := true, idle := false, hotSince := none, limN := 3600, nbrSince := none } ∧
        (∀ q, q ≠ r → regionPow u q = regionPow s q) ∧ u.mem = s.mem ∧ u.lports = s.lports) ∧
    (∃ u, exec .thermalTrip s = .next u ∧ u.power.chip = .pilot ∧ u.power.tripped = true ∧ u.power.cause = 2 ∧
      (∀ e ∈ u.parts, e.2.st = .free ∧ e.2.tdi = .unlocked) ∧ u.mem.bytes = [] ∧ u.mem.tier = []) ∧
    (let v := untilTime s (s.power.nbrAt + 100000)
     ∃ u, exec .neighbourCompare s = .next u ∧ u.power.nbrAt = v.clk ∧ u.power.chip = s.power.chip ∧ Quiet v u ∧
      (∀ q, q < 16 → isLit s q = true → (pairs16.any fun p => toLower v p.1 p.2 = some q) = true →
        (regionPow u q).limN = max 900 ((regionPow s q).mhz - 100) ∧ (regionPow u q).mhz ≤ max 900 ((regionPow s q).mhz - 100) ∧
        (regionPow u q).st = (regionPow s q).st) ∧
      (∀ q, q < 16 → (pairs16.any fun p => toLower v p.1 p.2 = some q) = false → (regionPow s q).limN < 3600 →
        regionPow u q = { regionPow s q with limN := 3600, nbrSince := none })) ∧
    (∀ since, r < 16 → isLit s r = true → (regionPow s r).nbrSince = some since →
      ∃ u, exec (.neighbourTrim r) s = .next (report (followRegions u) 0x0F (selfNode s) 0x1FF (5 + 2 ^ 8 * r)) ∧
        u.clk = max s.clk (since + 10000000) ∧
        regionPow u r = { regionPow s r with st := .trimmed, mv := 600, nbr := true, idle := false, limN := 3600, nbrSince := none } ∧
        (∀ q, q ≠ r → regionPow u q = regionPow s q) ∧ u.mem = s.mem ∧ u.lports = s.lports)

/-- R727 to R730, R749, R759, R761, R765: partitions. PART.CREATE makes a FREE partition ACTIVE under the next key, and is DENIED
where it is not FREE; PART.INFO returns the record; PART.SET, ADD_PORT and REMOVE_PORT change it, and move a TDI that is locked
or runs to ERROR; PART.TEARDOWN of a FREE partition is OK, of one being torn down waits. What it takes from the model and not
from a rule: log entries 93, 94, 96, 111, 112. -/
def Obligations.PartitionCommands : Prop :=
  ∀ (c : Cmd) (s : State), let n := c.partition.toNat
    (let sp : CmdSpec := { pf0 := true, group := 0x02, verb := 1, args := [(0, 4), (4, 4)], acts := .own }
     CmdRuns s c sp none true → arg c 0 4 < 4096 → arg c 4 4 ≤ 512 →
      ((partOf s n).st ≠ .free → exec (.partCreate c) s = .next (complete (startCmd s c sp) (cmdRef c) 5 0 [])) ∧
      ((partOf s n).st = .free → keyStatus s = none →
        ∃ u, exec (.partCreate c) s = .next (complete u (cmdRef c) 0 0 []) ∧
          partOf u n = { st := .active, ops := arg c 0 4 ||| 1, pinT1 := arg c 4 4, keyGen := ((partOf s n).keyGen + 1) % 2 ^ 32 } ∧
          (∀ m, m ≠ n → partOf u m = partOf s m) ∧ u.mem.bytes = s.mem.bytes ∧ u.lports = s.lports ∧ u.xl = s.xl)) ∧
    (let sp : CmdSpec := { group := 0x02, verb := 2, acts := .own }
     let k := if c.fn = 0 then n else c.fn - 1
     CmdRuns s c sp none true → exec (.partInfo c) s = .next (complete (startCmd s c sp) (cmdRef c) 0 0 (leBytes 16
      ((partOf s k).st.code + 2 ^ 2 * (partOf s k).tdi.code + 2 ^ 16 * (partOf s k).ops + 2 ^ 32 * (partOf s k).pinT1 +
       2 ^ 48 * ((portsOf s k).length + (decodersOf s k).length) + 2 ^ 64 * (partOf s k).keyGen)))) ∧
    (let sp : CmdSpec := { pf0 := true, group := 0x02, verb := 3, args := [(0, 4), (4, 4)], acts := .field }
     CmdRuns s c sp none true → arg c 0 4 < 4096 → arg c 4 4 ≤ 512 →
      ∃ u, exec (.partSet c) s = .next (complete u (cmdRef c) 0 0 []) ∧
        partOf u n = { partOf s n with ops := arg c 0 4 ||| 1, pinT1 := arg c 4 4, tdi :=
          if (partOf s n).tdi = .locked ∨ (partOf s n).tdi = .run then .error else (partOf s n).tdi } ∧
        (∀ m, m ≠ n → partOf u m = partOf s m) ∧ u.mem = s.mem ∧ u.lports = s.lports) ∧
    (let sp : CmdSpec := { pf0 := true, group := 0x02, verb := 4, args := [(0, 4)], acts := .field }
     CmdRuns s c sp none true → arg c 0 4 ≤ 511 → facesSwitch s (arg c 0 4) = false → (lportOf s (arg c 0 4)).parts.contains n = false →
      ((lportOf s (arg c 0 4)).parts.length < 8 → ∃ u, exec (.partAddPort c) s = .next (complete u (cmdRef c) 0 0 []) ∧
        lportOf u (arg c 0 4) = { lportOf s (arg c 0 4) with parts := insertRising n (lportOf s (arg c 0 4)).parts } ∧
        (partOf u n).tdi = (if (partOf s n).tdi = .locked ∨ (partOf s n).tdi = .run then .error else (partOf s n).tdi) ∧
        (∀ m, m ≠ arg c 0 4 → lportOf u m = lportOf s m) ∧ (∀ m, m ≠ n → partOf u m = partOf s m) ∧ u.mem = s.mem) ∧
      (8 ≤ (lportOf s (arg c 0 4)).parts.length → exec (.partAddPort c) s = .next (complete (startCmd s c sp) (cmdRef c) 9 0 []))) ∧
    (let sp : CmdSpec := { pf0 := true, group := 0x02, verb := 5, args := [(0, 4)], acts := .field }
     CmdRuns s c sp none true → arg c 0 4 ≤ 511 → (lportOf s (arg c 0 4)).parts.contains n = true →
      ∃ u, exec (.partRemovePort c) s = .next (complete u (cmdRef c) 0 0 []) ∧
        lportOf u (arg c 0 4) = { lportOf s (arg c 0 4) with parts := (lportOf s (arg c 0 4)).parts.filter (· ≠ n) } ∧
        (∀ m, m ≠ arg c 0 4 → lportOf u m = lportOf s m) ∧ (∀ m, m ≠ n → partOf u m = partOf s m) ∧ u.mem = s.mem) ∧
    (let sp : CmdSpec := { pf0 := true, group := 0x02, verb := 6, acts := .own }
     CmdRuns s c sp none true →
      ((partOf s n).st = .free → exec (.partTeardown c) s = .next (complete (startCmd s c sp) (cmdRef c) 0 0 [])) ∧
      ((partOf s n).st = .active → exec (.partTeardown c) s = .next (settle hooks (tearStart (startCmd s c sp) n (cmdRef c)))) ∧
      (∀ t, (partOf s n).st = .tearing ∨ (partOf s n).st = .scrubbing → kfind s.sec.tearing n = some t →
        ∃ u, exec (.partTeardown c) s = .next u ∧ kfind u.sec.tearing n = some { t with by_ := t.by_ ++ [cmdRef c] } ∧
          u.parts = s.parts ∧ u.mem = s.mem)) ∧
    (∀ (part addr : Nat) (ok : Bool), running s = true →
      exec (.scrubWriteDone part addr ok) s = .next (settle hooks (scrubDone s part addr ok)))

/-- R745, R746, R755 to R757: SEC.ATTEST signs the measurements, the nonce, the serial and fabric time; SEC.PROG_LOG returns the
events; a key exchange starts, is answered, is finished with keys installed, or expires after 10 s; the lower node starts a
rekey in-band. R62, R590, R733: PORT.SET_PRIV and PORT.SET_CRYPT write a port's privileges and mark; clearing the mark destroys
the keys. A health failure of the random bit generator stops it until a start-up test passes; a second one within a second
latches it failed. What it takes from the model and not from a rule: log entries 2, 97, 99, 100, 111, 112. -/
def Obligations.KeysAndMarks : Prop :=
  (∀ (c : Cmd) (n : Nat) (s : State), n ≤ 511 →
    (let sp : CmdSpec := { group := 0x03, verb := 1, args := [(0, 32)] }
     CmdRuns s c sp none true → idLost s = false → c.fn = 0 →
      ∃ b, exec (.secAttest c) s = .next (complete (startCmd s c sp) (cmdRef c) 0 0 (b ++ aliasSign s b)) ∧
        b = (measurements s).flatMap (fun m => sliceBytes m.2 0 32) ++ sliceBytes (leBytes 32 c.args.toNat) 0 32 ++
          leBytes 8 s.fm.serial ++ leBytes 8 s.ftime.toNat) ∧
    (let sp : CmdSpec := { group := 0x03, verb := 2 }
     CmdRuns s c sp none true → exec (.secProgLog c) s = .next (complete (startCmd s c sp) (cmdRef c) 0 0
      (s.sec.progLog.flatMap fun e => sliceBytes e 0 64))) ∧
    (let sp : CmdSpec := { pf0 := true, group := 0x03, verb := 3, args := [(0, 4)] }
     CmdRuns s c sp none true → arg c 0 4 = n → kexCheck s n = none →
      ∃ u r, exec (.secLinkKexStart c) s = .next (complete u (cmdRef c) 0 0 (kexPayload u r)) ∧ r.node = selfNode s ∧ r.port = n ∧
        kfind u.sec.kex n = some ⟨s.clk, r.nonce, s.freeCtr⟩ ∧ (∀ m, m ≠ n → kfind u.sec.kex m = kfind s.sec.kex m) ∧
        u.lports = s.lports ∧ u.mem = s.mem) ∧
    (let sp : CmdSpec := { pf0 := true, host := true, group := 0x03, verb := 4, args := [(0, 4)] }
     ∀ a serial, CmdRuns s c sp none true → arg c 0 4 = n → kexCheck s n = none → kexRead (c.host.getD []) = some (a, serial) →
      ∃ u b, exec (.secLinkKexRespond c) s = .next (complete u (cmdRef c) 0 0 (kexPayload u b)) ∧ b.node = selfNode s ∧ b.port = n ∧
        (u, b) = kexRespond (startCmd s c sp) n a serial) ∧
    (let sp : CmdSpec := { pf0 := true, host := true, group := 0x03, verb := 5, args := [(0, 4)] }
     ∀ k b serial, CmdRuns s c sp none true → arg c 0 4 = n → idLost s = false → (lportOf s n).marked = true → kfind s.sec.kex n = some k →
      kexRead (c.host.getD []) = some (b, serial) →
      exec (.secLinkKexFinish c) s = .next (complete (kexFinish (startCmd s c sp) n k b serial) (cmdRef c) 0 0 [])) ∧
    (∀ tx rx : List Byte, ∀ first : Bool, (lportOf s n).sec.txKeys.getD (lportOf s n).sec.txSlot none = none →
      (lportOf (installKeys s n tx rx first) n).sec.rxKeys = [some rx, none] ∧
      (∀ m, m ≠ n → lportOf (installKeys s n tx rx first) m = lportOf s m) ∧ (installKeys s n tx rx first).mem = s.mem) ∧
    ((lportOf s n).disc = .known → linkUp (lportOf s n).link = true → facesSwitch s n = true → kexMine s n = true →
      ((lportOf s n).sec.txKeys.getD (lportOf s n).sec.txSlot none).isSome = true → kfind s.sec.kex n = none → kexCheck s n = none →
      running s = true →
      ∃ u r, exec (.linkKeyRotate n) s = .next (sendLink u 0x8B n (kexPayload u r)) ∧ kfind u.sec.kex n = some ⟨s.clk, r.nonce, s.freeCtr⟩ ∧
        r.node = selfNode s ∧ r.port = n ∧ u.lports = s.lports ∧ u.mem = s.mem) ∧
    (∀ k, running s = true → kfind s.sec.kex n = some k →
      ∃ u, exec (.linkKexExpire n) s = .next u ∧ u.sec = { s.sec with kex := kdel s.sec.kex n } ∧ u.lports = s.lports ∧ u.mem = s.mem ∧
        u.clk = max s.clk (k.since + 10000000000))) ∧
  (∀ (c : Cmd) (s : State), let n := arg c 0 4
    (let sp : CmdSpec := { pf0 := true, group := 0x04, verb := 1, args := [(0, 4), (4, 4), (8, 4)] }
     CmdRuns s c sp none true → n ≤ 515 → arg c 4 4 ≤ 1 → arg c 8 4 ≤ 1 →
      ∃ u, exec (.portSetPriv c) s = .next (complete u (cmdRef c) 0 0 []) ∧
        lportOf u n = { lportOf s n with flat := decide (arg c 4 4 = 1), nodePriv := decide (arg c 8 4 = 1) } ∧ OnlyPort s u n) ∧
    (let sp : CmdSpec := { pf0 := true, group := 0x04, verb := 2, args := [(0, 4), (4, 4)] }
     CmdRuns s c sp none true → n ≤ 511 →
      (arg c 4 4 = 1 → ∃ u, exec (.portSetCrypt c) s = .next (complete u (cmdRef c) 0 0 []) ∧
        lportOf u n = { lportOf s n with marked := true } ∧ OnlyPort s u n) ∧
      (arg c 4 4 = 0 → ∃ u, exec (.portSetCrypt c) s = .next (complete (pump u n) (cmdRef c) 0 0 []) ∧
        lportOf u n = { lportOf s n with marked := false, sec := {} } ∧ u.sec.kex = kdel s.sec.kex n ∧ OnlyPort s u n)) ∧
    (running s = true → s.ras.rngFailed = false →
      (s.sec.rngAt = none → ∃ u, exec .rngHealthFail s = .next u ∧ u.ras = { s.ras with rngOk := false, rngTests := s.ras.rngTests + 1 } ∧
        u.sec = { s.sec with rngAt := some s.clk } ∧ u.mem = s.mem ∧ u.lports = s.lports) ∧
      (∀ t, s.sec.rngAt = some t → s.clk ≤ t + 1000000000 →
        ∃ u, exec .rngHealthFail s = .next (report u 0x0E (selfNode s) 0x1FF 2) ∧
          u.ras = { s.ras with rngOk := false, rngFailed := true } ∧ u.sec = { s.sec with rngAt := some s.clk } ∧ u.mem = s.mem) ∧
      (s.ras.rngOk = false → ∃ u, exec (.rngRetestDone true) s = .next u ∧ u.ras = { s.ras with rngOk := true } ∧ u.sec = s.sec ∧
        u.mem = s.mem ∧ u.clk = max s.clk (s.sec.rngAt.getD s.clk + 1000000))))

/-- R739 to R746, R734: the SPDM requests on a connection that has come far enough: what the switch answers, and what the request
changes of the connection and its sessions; nothing else changes. What it takes from the model and not from a rule: log entries
6, 98, 99. -/
def Obligations.SpdmRequests : Prop :=
  ∀ (s : State) (id : Nat),
    let said := fun (x : Sec) (k : Option Nat) (r : SpdmReply) => ({ s with sec := x, outs := s.outs ++ [.spdm k r] } : State)
    let established := s.sec.sessions.map fun (e : SpdmSession) => if e.id = id then { e with established := true } else e
    let updated := s.sec.sessions.map fun (e : SpdmSession) => if e.id = id then { e with updates := e.updates + 1 } else e
    let ended : Sec := { s.sec with sessions := s.sec.sessions.filter (fun e => e.id ≠ id),
                                    ide := s.sec.ide.filter (fun k => k.session ≠ id) }
    (SpdmReady s 0 →
      exec .getVersion s = .next (said { s.sec with spdm := 1, sessions := [], ide := [] } none .version) ∧
      ∀ code, exec (.spdmUnsupported code) s = .next (said s.sec none (.error .unsupportedRequest))) ∧
    (SpdmReady s 1 → exec .getCapabilities s = .next (said { s.sec with spdm := max 2 s.sec.spdm } none .capabilities)) ∧
    (SpdmReady s 2 → ∀ sigs kems : List (Nat × Nat), ∀ sha gcm raw : Bool,
      ((3, 0x9001) ∈ sigs → (3, 0x9002) ∈ kems → sha = true → gcm = true → raw = true →
        exec (.negotiateAlgorithms sigs kems sha gcm raw) s = .next (said { s.sec with spdm := 3 } none .algorithms)) ∧
      ((3, 0x9001) ∉ sigs ∨ (3, 0x9002) ∉ kems →
        exec (.negotiateAlgorithms sigs kems sha gcm raw) s = .next (said s.sec none (.error .negotiationFail)))) ∧
    (SpdmReady s 3 →
      exec .getDigests s = .next (said s.sec none (.digest (Config.sha384 (ownChain s)))) ∧
      (∀ off len, off < (ownChain s).length → exec (.getCertificate 0 off len) s = .next (said s.sec none
        (.certificate (((ownChain s).drop off).take len) ((ownChain s).length - off - (((ownChain s).drop off).take len).length)))) ∧
      (∀ nonce, keyStatus s = none → ∃ own sig, exec (.challenge 0 nonce) s = .next
        { s with freeCtr := s.freeCtr + 1, outs := s.outs ++ [.spdm none (.challenge (Config.sha384 (ownChain s)) own sig)] } ∧
        own = randomBytes s 32) ∧
      (∀ nonce, exec (.getMeasurements 255 false nonce) s = .next (said s.sec none (.measurements 6 (measurements s) none))) ∧
      (∀ op nonce, 1 ≤ op → op ≤ 6 → ∃ m, m ∈ measurements s ∧ m.1 = op ∧
        exec (.getMeasurements op false nonce) s = .next (said s.sec none (.measurements 6 [m] none))) ∧
      (∀ ek, keyStatus s = none → ∃ ct sig, exec (.keyExchange ek) s = .next
        { s with freeCtr := s.freeCtr + 1, sec := { s.sec with keys := s.sec.keys + 1, sessions := s.sec.sessions ++ [{ id := s.sec.keys }] },
                 outs := s.outs ++ [.spdm (some s.sec.keys) (.keyExchange ct sig)] }) ∧
      ((∃ x ∈ s.sec.sessions, x.id = id ∧ x.established = false) →
        exec (.finish id true) s = .next (said { s.sec with sessions := established } (some id) .finish) ∧
        exec (.finish id false) s = .next (said ended (some id) (.error .invalidRequest)))) ∧
    (InSession s id →
      exec (.endSession id) s = .next (said ended (some id) .endSession) ∧
      exec (.heartbeat id) s = .next (said s.sec (some id) .heartbeat) ∧
      exec (.keyUpdate id) s = .next (said { s.sec with sessions := updated } (some id) .keyUpdate) ∧
      exec (.vendorDefinedRequest (some id) true) s = .next (said s.sec (some id) .vendorDefined) ∧
      exec (.vendorDefinedRequest (some id) false) s = .next (said s.sec (some id) (.error .unsupportedRequest)))

/-- R747, R748, R750, R751: the TDISP and IDE_KM requests in a session: a TDI is locked to a stream that holds keys, runs where its
nonce is given, and is unlocked again; a key set takes keys, is used, and is stopped. What it takes from the model and not from
a rule: log entries 6, 98. -/
def Obligations.TdispAndIde : Prop :=
  ∀ (s : State) (id vf : Nat), InSession s id → vf ≠ 0 → fnExists s vf = true → let n := vf - 1
    exec (.getTdispVersion id vf) s = .next (emit s (.spdm (some id) .tdispVersion)) ∧
    exec (.getTdispCapabilities id vf) s = .next (emit s (.spdm (some id) .tdispCapabilities)) ∧
    exec (.getDeviceInterfaceState id vf) s = .next (emit s (.spdm (some id) (.tdiState (partOf s n).tdi.code))) ∧
    ((partOf s n).tdi = .locked ∨ (partOf s n).tdi = .run →
      exec (.getDeviceInterfaceReport id vf) s = .next (emit s (.spdm (some id) (.report (tdiReport s vf))))) ∧
    (∀ stream, (partOf s n).tdi = .unlocked → (ideStreamsOf s 0).contains stream = true → keyStatus s = none →
      ∃ u, exec (.lockInterfaceRequest id vf stream) s = .next (emit u (.spdm (some id) (.lockNonce (randomBytes s 32)))) ∧
        partOf u n = { partOf s n with tdi := .locked } ∧ (∀ m, m ≠ n → partOf u m = partOf s m) ∧
        kfind u.sec.bound vf = some stream ∧ kfind u.sec.lockNonce vf = some (randomBytes s 32) ∧ u.sec.ide = s.sec.ide ∧ u.mem = s.mem) ∧
    (∀ stream, (partOf s n).tdi ≠ .unlocked →
      exec (.lockInterfaceRequest id vf stream) s = .next (emit s (.spdm (some id) (.tdispError .invalidInterfaceState)))) ∧
    (∀ nonce, (partOf s n).tdi = .locked → kfind s.sec.lockNonce vf = some nonce →
      ∃ u, exec (.startInterfaceRequest id vf nonce) s = .next (emit u (.spdm (some id) .started)) ∧
        partOf u n = { partOf s n with tdi := .run } ∧ (∀ m, m ≠ n → partOf u m = partOf s m) ∧ u.sec.bound = s.sec.bound ∧
        u.sec.ide = s.sec.ide ∧ u.mem = s.mem) ∧
    (∃ u, exec (.stopInterfaceRequest id vf) s = .next (emit u (.spdm (some id) .stopped)) ∧
      partOf u n = { partOf s n with tdi := .unlocked } ∧ (∀ m, m ≠ n → partOf u m = partOf s m) ∧ u.sec.bound = kdel s.sec.bound vf ∧
      u.sec.ide = s.sec.ide ∧ u.mem = s.mem) ∧
    (∀ port stream set sub : Nat, port ≤ 4 → set ≤ 1 → (∀ k ∈ s.sec.ide, inSet port stream set k = true → k.active = false) →
      (ideStreamsOf s port).length < streamRoom port →
      let keys := (s.sec.ide.filter fun e => !(inSet port stream set e && e.sub = sub)) ++ [⟨id, port, stream, set, sub, false⟩]
      exec (.keyProg id port stream set sub) s =
        .next (emit { s with sec := { s.sec with ide := keys } } (.spdm (some id) (.ideAck true)))) ∧
    (∀ port stream set sub : Nat, (∃ k ∈ s.sec.ide, inSet port stream set k = true ∧ k.sub = sub) →
      let go := s.sec.ide.map fun (k : IdeKey) => if inSet port stream set k && k.sub = sub then { k with active := true } else k
      exec (.kSetGo id port stream set sub) s =
        .next (emit { s with sec := { s.sec with ide := go } } (.spdm (some id) (.ideAck true)))) ∧
    (∀ port stream set sub : Nat, (∃ k ∈ s.sec.ide, inSet port stream set k = true ∧ k.sub = sub ∧ k.active = true) →
      let stop := s.sec.ide.map fun (k : IdeKey) => if inSet port stream set k && k.sub = sub then { k with active := false } else k
      exec (.kSetStop id port stream set sub) s =
        .next (emit { s with sec := { s.sec with ide := stop } } (.spdm (some id) (.ideAck true))))

/-- R55, R89, R90, R102, R660: a completion. One that breaks the rules of R55 to R83 is dropped, counted and a violation; one for a request
outstanding here at its requester's port answers that request; one that answers a request to a tray goes to that; one for none is counted and
a violation; one for another switch goes on. R88, R100, R984: a request that will not be answered is held as such, counted and reported with
its number, tag and cause, and a second notice changes nothing (the model's choice, log entry 171: the STOREs that it absorbed go with it); the
first number of a pair that is missing and not yet logged, once missing for longer than the largest age limit from the first arrival of a
number above it on, is logged and a violation of row 5, and every FENCE outstanding above it is unanswered with cause 6; without such a
number nothing changes. What it takes from the model and not from a rule: log entries 15, 17, 23, 30, 151, 171. -/
def Obligations.CompletionsAndGaps : Prop :=
  (∀ (r : Resp) (s : State), Arrives s r.lport →
    let done := fun (i : Instr) (r : Resp) =>
      (respOk r = false → exec i s = .next (checkQuar (violatePkt (bump (consumed s r) (.rspDrop r.lport)) r.lport 3 (.resp r)) r.lport)) ∧
      (let r' := markLoad s r
       (∀ k t, respOk r = true → trayFor s r' = some (k, t) →
        exec i s = .next (checkQuar (settle hooks (trayResp (consumed s r') r' k t)) r.lport)) ∧
       (respOk r = true → r.dst.toNat ≠ selfNode s → linkResp s r = false → trayFor s r' = none →
        (∀ l id part, lportOfNode s r.dst.toNat = some l → answers s r' = some (id, part) →
          exec i s = .next (settle hooks (hereReply (consumed s r') (schedPort r.lport) id part r.status.toNat r.segOffset.toNat r.segCover.toNat
            r.result.toNat r.data r'.load.toNat))) ∧
        (∀ l, lportOfNode s r.dst.toNat = some l → answers s r' = none → engineAnswers (consumed s r') r' = none →
          exec i s = .next (checkQuar (violatePkt (bump (consumed s r') (.rspStray r.lport)) r.lport 4 (.resp r')) r.lport)) ∧
        (lportOfNode s r.dst.toNat = none → exec i s = .next (transit s r.lport r.esc (.resp r')))))
    done (.cpl r) { r with isData := false, data := [] } ∧ done (.cplData r) { r with isData := true }) ∧
  -- each row by its name: the answer of a request outstanding here completes it
  (∀ (r : Resp) (l id part : Nat) (s : State), Arrives s r.lport → r.dst.toNat ≠ selfNode s → lportOfNode s r.dst.toNat = some l →
    let mine := fun (q : Resp) => respOk q = true ∧ linkResp s q = false ∧ trayFor s (markLoad s q) = none ∧ answers s (markLoad s q) = some (id, part)
    let got := fun (q : Resp) => settle hooks (hereReply (consumed s (markLoad s q)) (schedPort r.lport) id part q.status.toNat
      q.segOffset.toNat q.segCover.toNat q.result.toNat q.data (markLoad s q).load.toNat)
    (mine { r with isData := false, data := [] } → exec (.cpl r) s = .next (got { r with isData := false, data := [] })) ∧
    (mine { r with isData := true } → exec (.cplData r) s = .next (got { r with isData := true }))) ∧
  (∀ (node tag cause src dst : Nat) (s : State), running s = true →
    (∀ id o, findOut s node tag = some (id, o) →
      exec (.unanswered node tag cause) s = .next (markUnanswered s id cause)) ∧
    (∀ id o, kfind s.ing.outs id = some o → o.phase ≠ .unanswered → (o.parts.filter fun p => p.sent && !p.done) = [] →
      ∃ u, markOne cause s id = report u 0x05 o.p.src.toNat o.p.lport (o.p.seq.toNat + 2 ^ 32 * o.p.tag.toNat + 2 ^ 48 * cause) ∧
        kfind u.ing.outs id = some { o with phase := .unanswered } ∧ ctr u .unanswered = satAdd 48 (ctr s .unanswered) 1 ∧
        (∀ k, k ≠ id → kfind u.ing.outs k = kfind s.ing.outs k) ∧ u.mem = s.mem ∧ u.core = s.core) ∧
    (∀ id o, kfind s.ing.outs id = some o → o.phase = .unanswered → markOne cause s id = s) ∧
    -- the STOREs that it absorbed complete with it (R253), and so will not be answered either
    (∀ id, markUnanswered s id cause =
      ((s.ing.outs.filter fun e => e.2.phase = .absorbed id).map (·.1)).foldl (markOne cause) (markOne cause s id)) ∧
    -- of a pair of which no number is logged, the gap begins at the lowest number that has not arrived
    (∀ e : SeqPair, e.logged = none → (∀ a ∈ e.above, a.1 ≠ e.next) → gapStart e = e.next) ∧
    -- its time counts from the first arrival of a number above it
    (∀ (e : SeqPair) (m : Nat) (t : Time), firstAbove e m = some t →
      (∃ a ∈ e.above, seqLess m a.1 = true ∧ a.2 = t) ∧ ∀ a ∈ e.above, seqLess m a.1 = true → t ≤ a.2) ∧
    (∀ e, s.ing.pairs.find? (fun e => e.src = src && e.dst = dst) = some e → firstAbove e (gapStart e) = none →
      exec (.sequenceGap src dst) s = .next s) ∧
    (∀ e t port, s.ing.pairs.find? (fun e => e.src = src && e.dst = dst) = some e → firstAbove e (gapStart e) = some t →
      lportOfNode s src = some port →
      ∃ u v, exec (.sequenceGap src dst) s = .next
          ((v.ing.outs.filter fun o => o.2.op = .fence && o.2.p.src.toNat = src && o.2.p.dst.toNat = dst &&
            seqLess (gapStart e) o.2.p.seq.toNat).foldl (fun s o => markUnanswered s o.1 6) v) ∧
        v = checkQuar (violate u port 5 [] 0) port ∧
        u.clk = max s.clk (t + largestAge s + 1) ∧
        u.log = s.log ++ [⟨"SEQUENCE_GAP", [src, dst, gapStart e], u.clk⟩] ∧
        u.ing.pairs = s.ing.pairs.map
          (fun x => if x.src = src && x.dst = dst then { x with logged := some (gapEnd e (gapStart e)) } else x) ∧
        u.ing.outs = s.ing.outs ∧ u.lports = s.lports ∧ u.mem = s.mem))

/-- R803 to R805, R787, R809: a management message of every opcode. Each row that is not turned away as "switches only" and is for this
switch, with a live core, takes its effect at the Wick. One for this switch, or of link scope, is taken by the Wick,
which answers it with what its effect says, or keeps it while none of its cores is live; one marked "switches only" from an
endpoint is a violation of row 6 answered DENIED; one from a switch for another node goes on. What it takes from the model and
not from a rule: log entries 105, 106, 107. -/
def Obligations.MessagesTaken : Prop :=
  (∀ (p : Req) (s : State), s.ras.cores.any (·.live) = true → p.dst.toNat = noNode ∨ p.dst.toNat = selfNode s →
    let taken := fun (code : Nat) => MessageIn s code p ∧ (facesSwitch s p.lport = true ∨ switchesMarked code = false)
    let wick := fun (code : Nat) => settle hooks (checkQuar (mgmtTake (messageTaken s code p) code p) p.lport)
    (taken 0x8E → exec (.timeSync p) s = .next (wick 0x8E)) ∧
    (taken 0x8F → exec (.timeFollow p) s = .next (wick 0x8F)) ∧
    (taken 0x80 → exec (.llHello p) s = .next (wick 0x80)) ∧
    (taken 0x81 → exec (.llCert p) s = .next (wick 0x81)) ∧
    (taken 0x82 → exec (.llState p) s = .next (wick 0x82)) ∧
    (taken 0x83 → exec (.fmCommand p) s = .next (wick 0x83)) ∧
    (taken 0x84 → exec (.fmReply p) s = .next (wick 0x84)) ∧
    (taken 0x85 → exec (.routeWithdraw p) s = .next (wick 0x85)) ∧
    (taken 0x86 → exec (.routeRestore p) s = .next (wick 0x86)) ∧
    (taken 0x87 → exec (.event p) s = .next (wick 0x87)) ∧
    (taken 0x88 → exec (.discardReport p) s = .next (wick 0x88)) ∧
    (taken 0x89 → exec (.wickXchg p) s = .next (wick 0x89)) ∧
    (taken 0x8A → exec (.ticket p) s = .next (wick 0x8A)) ∧
    (taken 0x8B → exec (.linkKex p) s = .next (wick 0x8B))) ∧
  ∀ (i : Instr) (code : Nat) (p : Req) (s : State), messageOf i = some (code, p) → MessageIn s code p →
    let here := p.dst.toNat = noNode ∨ p.dst.toNat = selfNode s
    let own := facesSwitch s p.lport = false
    (own → switchesMarked code = true →
      exec i s = .next (settle hooks (checkQuar
        (mgmtAnswer (violatePkt (messageTaken s code p) p.lport 6 (.req (.mgmt code) p)) code p 5) p.lport))) ∧
    (¬ (own ∧ switchesMarked code = true) → here → s.ras.cores.any (·.live) = true →
      (∀ t st, mgmtEffect (messageTaken s code p) code p = (t, some st) →
        exec i s = .next (settle hooks (checkQuar (mgmtAnswer t code p st) p.lport))) ∧
      (∀ t, mgmtEffect (messageTaken s code p) code p = (t, none) → exec i s = .next (settle hooks (checkQuar t p.lport)))) ∧
    (¬ (own ∧ switchesMarked code = true) → here → s.ras.cores.any (·.live) = false →
      ∃ u, exec i s = .next (settle hooks (checkQuar u p.lport)) ∧ u.ras.wickQueue = s.ras.wickQueue ++ [(code, p)] ∧
        u.mem = s.mem ∧ u.fm = s.fm ∧ u.core = s.core ∧ u.parts = s.parts) ∧
    (¬ own → ¬ here → exec i s = .next (settle hooks (checkQuar (transit s p.lport p.esc (.req (.mgmt code) p)) p.lport))) ∧
    -- FM_REPLY and EVENT change nothing at a switch but their answer
    (code = 0x84 ∨ code = 0x87 → ∀ v, mgmtEffect v code p = (v, some 0))

/-- R806 to R808, R810: discovery. The first LL_HELLO makes the partner known where it is an endpoint or tray, sends the own chain
and waits for the partner's where it is a switch, and fails the port where its role is another; LL_CERT pieces are joined in
order; an endpoint's LL_STATE of 1 resets it; the timers send LL_HELLO again, report a partner that says nothing, and end a
verification. What it takes from the model and not from a rule: log entries 2, 108. -/
def Obligations.Discovery : Prop :=
  ∀ (s : State) (n : Nat) (b : List Byte), n ≤ 511 →
    (helloOf b = none → gotHello s n b = (s, 6)) ∧
    (∀ q : Partner, helloOf b = some q →
      ((lportOf s n).disc = .hello → (lportOf s n).role = some q.role → q.role ≠ .switch →
        ∃ u, gotHello s n b = (known u n false, 0) ∧ lportOf u n = { lportOf s n with partner := some q, cert := [] } ∧ OnlyPort s u n) ∧
      ((lportOf s n).disc = .hello → (lportOf s n).role = some .switch → q.role = .switch → q.chainLen ≠ 0 →
        ∃ u, gotHello s n b = (u, 0) ∧ lportOf u n = { lportOf s n with partner := some q, cert := [], disc := .verify, discSince := s.clk } ∧
          OnlyPort s u n ∧ u.core.voqs.length = s.core.voqs.length + (certPieces (ownChain s)).length) ∧
      ((lportOf s n).disc = .hello → (lportOf s n).role ≠ some q.role →
        ∃ u, gotHello s n b = (u, 0) ∧ (lportOf u n).disc = .untrusted ∧ ctr u (.link n 8) = satAdd 48 (ctr s (.link n 8)) 1 ∧
          OnlyPort s u n) ∧
      ((lportOf s n).disc = .verify ∨ (lportOf s n).disc = .known → (lportOf s n).role = some q.role →
        ∃ u, gotHello s n b = (u, 0) ∧ lportOf u n = { lportOf s n with partner := some q } ∧ OnlyPort s u n)) ∧
    (∀ p, (lportOf s n).disc = .verify → (lportOf s n).partner = some p →
      b.length = 16 + leField b 4 4 → 0 < leField b 4 4 → leField b 4 4 < 2 ^ 14 → leField b 8 8 = 0 →
      leField b 0 4 = (lportOf s n).cert.length → (lportOf s n).cert.length + leField b 4 4 ≤ p.chainLen →
      ∃ u, gotCert s n b = (u, 0) ∧ lportOf u n = { lportOf s n with cert := (lportOf s n).cert ++ sliceBytes b 16 (leField b 4 4) } ∧
        OnlyPort s u n) ∧
    (b.length = 8 → leNat b = 1 → facesSwitch s n = false → gotState s n b = (endpointReset s n false, 0)) ∧
    (b.length = 8 → leNat b = 0 → facesSwitch s n = false → gotState s n b = (s, 0)) ∧
    (running s = true → (lportOf s n).disc = .hello →
      (∃ u, exec (.helloResend n) s = .next u ∧
        u.clk = max s.clk ((lportOf s n).discSince + ((s.clk - (lportOf s n).discSince) / 1000000 + 1) * 1000000) ∧
        u.core.voqs.length = s.core.voqs.length + 1 ∧ (∃ q p, u.core.voqs.getLast? = some q ∧ q.egress = n ∧ q.pkt = .req (.mgmt 0x80) p ∧
          p.payload = helloPayload s n (lportOf s n).nonce) ∧ u.lports = s.lports ∧ u.mem = s.mem) ∧
      ((lportOf s n).helloLate = false →
        ∃ u, exec (.helloTimeout n) s = .next (report u 0x01 0x7FFF n 0) ∧ u.clk = max s.clk ((lportOf s n).discSince + 10000000) ∧
          lportOf u n = { lportOf s n with helloLate := true } ∧ OnlyPort s u n)) ∧
    (running s = true → (lportOf s n).disc = .verify →
      ∃ u, exec (.verifyTimeout n) s = .next (report u 0x03 (((lportOf s n).partner.map (·.node)).getD 0x7FFF) n 0) ∧
        u.clk = max s.clk ((lportOf s n).discSince + 10000000) ∧ lportOf u n = { lportOf s n with disc := .untrusted, discSince := u.clk } ∧
        OnlyPort s u n)

/-- R680, R714 to R716, R757, R797, R815, R822 to R824, R827: what the other messages that a switch takes change. What it takes from
the model and not from a rule: log entries 66, 92, 97, 104, 107. -/
def Obligations.MessageEffects : Prop :=
  ∀ (s : State) (p : Req), let n := p.lport; let b := p.payload
    -- TIME_SYNC: its number and time of arrival are kept for TIME_FOLLOW
    (b.length = 16 → leNat b < 2 ^ 16 → ∃ u, mgmtEffect s 0x8E p = (u, some 0) ∧
      (kget u.tk.exch n {}).got = some (leField b 0 2, s.ftime.toNat) ∧ (∀ m, m ≠ n → kfind u.tk.exch m = kfind s.tk.exch m) ∧
      u.ftime = s.ftime ∧ u.lports = s.lports ∧ u.mem = s.mem) ∧
    (b.length = 32 → leField b 12 4 < 64 → leField b 24 8 = 0 → mgmtEffect s 0x8F p =
      (timeFollow s n (leField b 0 8) (leField b 8 2) (leField b 10 2) (leField b 12 4 % 8) (leField b 12 4 / 8) (leField b 16 8), some 0)) ∧
    -- ROUTE_WITHDRAW: hops on the port to the destinations named are cleared, and come back with ROUTE_RESTORE
    (∀ rs, routeMsg b = some (rs, false) → wickDecides s = true →
      (∀ u, withdrawFrom s n rs = (u, []) → mgmtEffect s 0x85 p = (u, some 0)) ∧
      (∀ u ds, withdrawFrom s n rs = (u, ds) → ds ≠ [] → mgmtEffect s 0x85 p = (spread u 0x85 false ds n, some 0)) ∧
      (∀ d r, kfind s.core.routes d = some r → r.local_ = false → (rs.any fun r => decide (r.1 ≤ d ∧ d < r.1 + r.2)) = true →
        kfind (clearHops s n fun d => rs.any fun r => decide (r.1 ≤ d ∧ d < r.1 + r.2)).1.core.routes d = some (r.without n))) ∧
    (∀ rs, routeMsg b = some (rs, false) → wickDecides s = true →
      (restoreHops s n fun d => rs.any fun r => decide (r.1 ≤ d ∧ d < r.1 + r.2)).2 = [] →
      mgmtEffect s 0x86 p = ((restoreHops s n fun d => rs.any fun r => decide (r.1 ≤ d ∧ d < r.1 + r.2)).1, some 0)) ∧
    -- DISCARD_REPORT
    (∀ l id o, b.length = 16 → leField b 0 2 < 2 ^ 15 → leField b 8 8 ≤ 4 → lportOfNode s (leField b 0 2) = some l →
      kfind s.ras.health l = none → findOut s (leField b 0 2) (leField b 2 2) = some (id, o) →
      ∃ u, mgmtEffect s 0x88 p = (markUnanswered u id (leField b 8 1), some 0) ∧ u.ing = s.ing ∧ u.lports = s.lports ∧ u.mem = s.mem) ∧
    -- WICK_XCHG from no switch that is known, and of no form
    (knownSwitch s p.src.toNat = false → mgmtEffect s 0x89 p = (s, some 5)) ∧
    (knownSwitch s p.src.toNat = true → b.length < 72 → mgmtEffect s 0x89 p = (s, some 6)) ∧
    (knownSwitch s p.src.toNat = true → 72 ≤ b.length → leField b 2 6 = 0 → leField b 0 2 = 6 →
      ∃ u, mgmtEffect s 0x89 p = (u, some 0) ∧
        u.snap.announced = s.snap.announced ++ [(leField (b.drop 8) 0x10 8 / 2097152, leField (b.drop 8) 0x20 4)] ∧ u.mem = s.mem ∧ u.xl = s.xl) ∧
    -- LINK_KEX on a port that is not marked
    ((lportOf s n).marked = false → mgmtEffect s 0x8B p = (s, some 5)) ∧
    (∀ r serial k, idLost s = false → (lportOf s n).marked = true → kexRead b = some (r, serial) → kfind s.sec.kex n = some k →
      mgmtEffect s 0x8B p = (kexFinish s n k r serial, some 0)) ∧
    -- TICKET
    (∀ st order, ticketCheck s b = some (st, order) → mgmtEffect s 0x8A p = (bump s (.ras 15), some st)) ∧
    -- FM_COMMAND that fails a check of R815: the CODE, and FM_REPLY with the whole status
    (∀ st order, signedCheck s (b.take 3456) = some (st, order) →
      ∃ u, mgmtEffect s 0x83 p = (u, some st) ∧
        u = (sendMgmt s 0x84 p.src.toNat (leBytes 8 (leField (b.take 3456) 0x18 8) ++ leBytes 8 (st + 256 * (0x80 + order)) ++ leBytes 16 0)).getD s)

/-- R814 to R820, R824: the NODE and ROUTE commands, whose signed bodies are accepted. NODE.SET_SELF gives the switch its number
once, NODE.ASSIGN a port its own, NODE.CLEAR takes it; ROUTE.SET writes entries, at once or after the escape channels are empty.
What it takes from the model and not from a rule: log entries 2, 109, 112. -/
def Obligations.NodeAndRouteCommands : Prop :=
  ∀ (c : Cmd) (s : State) (b : List Byte), let bc := signedBodyCmd c b
    (SignedRuns s c selfSpec b → arg bc 0 4 < 0x7FFF → selfNode s = 0x7FFF →
      ∃ u, exec (.nodeSetSelf c) s = .next (complete (helloAgain u) (cmdRef bc) 0 0 []) ∧ selfNode u = arg bc 0 4 ∧
        kfind u.core.routes (arg bc 0 4) = some { local_ := true, hops := [none, none, none, none], esc := none } ∧
        (∀ d, d ≠ arg bc 0 4 → kfind u.core.routes d = kfind s.core.routes d) ∧ u.lports = s.lports ∧ u.mem = s.mem) ∧
    (SignedRuns s c selfSpec b → selfNode s ≠ 0x7FFF → arg bc 0 4 ≤ 0x7FFF →
      exec (.nodeSetSelf c) s = .next (complete (signedState s c selfSpec b) (cmdRef bc) 5 0 [])) ∧
    (SignedRuns s c assignSpec b → arg bc 0 4 < 512 → arg bc 4 4 < 0x7FFF → facesSwitch s (arg bc 0 4) = false →
      (lportOf s (arg bc 0 4)).node = none → (lportOf s (arg bc 0 4)).disc = .none → arg bc 4 4 ≠ selfNode s →
      lportOfNode s (arg bc 4 4) = none → kfind s.core.routes (arg bc 4 4) = none →
      ∃ u, exec (.nodeAssign c) s = .next (complete u (cmdRef bc) 0 0 []) ∧
        lportOf u (arg bc 0 4) = { lportOf s (arg bc 0 4) with node := some (arg bc 4 4) } ∧ OnlyPort s u (arg bc 0 4) ∧
        kfind u.core.routes (arg bc 4 4) = some { local_ := false, hops := [some (arg bc 0 4), none, none, none], esc := none } ∧
        (∀ d, d ≠ arg bc 4 4 → kfind u.core.routes d = kfind s.core.routes d)) ∧
    (∀ d, SignedRuns s c clearSpec b → arg bc 0 4 < 512 → (lportOf s (arg bc 0 4)).node = some d →
      ∃ u v, exec (.nodeClear c) s = .next (settle hooks (complete u (cmdRef bc) 0 0 [])) ∧
        v = endpointReset (if (lportOf s (arg bc 0 4)).link = .disabled then signedState s c clearSpec b
          else goDown (signedState s c clearSpec b) (arg bc 0 4)) (arg bc 0 4) false ∧
        lportOf u (arg bc 0 4) = { lportOf v (arg bc 0 4) with node := none, wasDown := false } ∧
        (ksorted v.core.routes = true → kfind u.core.routes d = none) ∧
        (∀ m, m ≠ arg bc 0 4 → lportOf u m = lportOf v m) ∧ (∀ e, e ≠ d → kfind u.core.routes e = kfind v.core.routes e)) ∧
    (∀ l es, SignedRuns s c routeSpec b → c.list = some l → let k := leField l 0 8
      0 < k → k ≤ 4096 → 8 + 16 * k ≤ l.length → digestOk bc (l.take (8 + 16 * k)) = true →
      routeRecords (l.drop 8) k = some es →
      (opt bc 0 = false → es.any (escChanges s) = false →
        exec (.routeSet c) s = .next (complete (writeRoutes (signedState s c routeSpec b) es) (cmdRef bc) 0 0 [])) ∧
      (opt bc 0 = false → es.any (escChanges s) = true →
        exec (.routeSet c) s = .next (complete (signedState s c routeSpec b) (cmdRef bc) 6 0 [])) ∧
      (opt bc 0 = true → s.fm.escDrain = none →
        ∃ u, exec (.routeSet c) s = .next u ∧ u.fm.escDrain = some (es, cmdRef bc, s.clk) ∧ u.core = s.core ∧ u.lports = s.lports ∧
          u.mem = s.mem)) ∧
    (∀ d e es, ksorted s.core.routes = true → kfind (writeRoutes s (es ++ [(d, e)])).core.routes d = e) ∧
    (∀ es r t, running s = true → s.fm.escDrain = some (es, r, t) →
      (escDrained s = true → ∃ u, exec .escDrainDone s = .next (complete (writeRoutes u es) r 0 0 []) ∧ u.core = s.core ∧ u.mem = s.mem ∧
        u.fm = { s.fm with escDrain := none }) ∧
      (∃ u, exec .escDrainTimeout s = .next (complete u r 2 0 []) ∧ u.core = s.core ∧ u.fm = { s.fm with escDrain := none } ∧
        u.clk = max s.clk (t + 10000000) ∧ u.mem = s.mem))

/-- R153, R796 to R799, R812, R816, R849: managers, role, free mode, the budget and tickets. What it takes from the model and not
from a rule: log entries 2, 104, 110, 112. -/
def Obligations.ManagersAndTickets : Prop :=
  ∀ (c : Cmd) (s : State) (b : List Byte), let bc := signedBodyCmd c b
    -- the first managers, unsigned through PF0
    (∀ l ms k, CmdRuns s c { managersSpec with host := false } none true → c.signed = false → c.host = some l → s.fm.managers = [] →
      digestOk c (l.take (8 + 1960 * (leField l 0 1 % 8))) = true → managerList l = some (ms, k) →
      ∃ u, exec (.fabricSetManagers c) s = .next (complete u (cmdRef c) 0 0 []) ∧ u.fm.managers = ms ∧ u.fm.threshold = k ∧
        u.fm.keyEpoch = (s.fm.keyEpoch + 1) % 2 ^ 16 ∧ u.core = s.core ∧ u.mem = s.mem) ∧
    (CmdRuns s c { managersSpec with host := false } none true → c.signed = false → s.fm.managers ≠ [] →
      exec (.fabricSetManagers c) s = .next (complete (startCmd s c { managersSpec with host := false }) (cmdRef c) 5 0 [])) ∧
    (SignedRuns s c roleSpec b → arg bc 0 4 ≤ 3 →
      ∃ u, exec (.fabricSetRole c) s = .next (complete u (cmdRef bc) 0 0 []) ∧ u.fm.stage = arg bc 0 4 ∧ u.fm.endpoints = arg bc 4 4 ∧
        regField u rStraggler 16 1 = (if arg bc 4 4 ≤ 4096 then 1 else 0) ∧ u.mem = s.mem ∧ u.lports = s.lports) ∧
    (SignedRuns s c freeSpec b → arg bc 0 4 ≤ 1 →
      (arg bc 8 8 ≤ s.ftime.toNat → exec (.fabricSetFreeMode c) s = .next (complete
        (setFree (signedState s c freeSpec b) (arg bc 0 4 = 1)) (cmdRef bc) 0 0 [])) ∧
      (s.ftime.toNat < arg bc 8 8 → s.mem.freePending = none →
        ∃ u, exec (.fabricSetFreeMode c) s = .next u ∧
          u.mem = { s.mem with freePending := some (decide (arg bc 0 4 = 1), arg bc 8 8, cmdRef bc) } ∧ u.lports = s.lports)) ∧
    (SignedRuns s c budgetSpec b → arg bc 0 4 ≤ 65535 → arg bc 4 4 ≤ 255 → 0 < arg bc 8 4 → arg bc 8 4 ≤ 3600000 →
      ∃ u, exec (.fabricSetBudget c) s = .next (complete u (cmdRef bc) 0 0 []) ∧
        u.ras = { s.ras with spares := arg bc 0 4, limit := arg bc 4 4, windowMs := arg bc 8 4 } ∧ u.mem = s.mem) ∧
    (SignedRuns s c sparesSpec b →
      ∃ u, exec (.fabricAddSpares c) s = .next (complete u (cmdRef bc) 0 0 []) ∧
        u.ras = { s.ras with spares := min 65535 (s.ras.spares + arg bc 0 4) } ∧ u.mem = s.mem) ∧
    (∀ t st order l, SignedRuns s c ticketSpec b → c.list = some l → digestOk bc l = true →
      takeTicket (signedState s c ticketSpec b) l = (t, st, order) →
      exec (.fabricTicket c) s = .next (settle hooks (complete t (cmdRef bc) (st + 256 * order) 0 []))) ∧
    -- a ticket that passes its checks
    (ticketCheck s b = none → let t := ticketOf b
      (t.action = 1 → s.ras.limit ≤ expelsUsed s ∨ s.ras.spares = 0 → wickDecides s = true → ∃ u, takeTicket s b = (u, 9, 7) ∧
        t.target ∈ u.ras.degraded ∧ u.ras.tickets = s.ras.tickets ∧ u.ras.spares = s.ras.spares ∧ u.mem = s.mem) ∧
      (t.action ≠ 1 → 4096 ≤ s.ras.tickets.length → takeTicket s b = (bump s (.ras 15), 2, 0)) ∧
      (t.action = 2 → ticketRoom s = true → ∃ u, takeTicket s b = (u, 0, 0) ∧ t.target ∈ u.ras.degraded ∧
        u.ras.tickets = s.ras.tickets ++ [(t.id, t.expires)] ∧ u.mem = s.mem) ∧
      (t.action = 3 → ticketRoom s = true → ∃ u, takeTicket s b = (u, 0, 0) ∧ t.target ∉ u.ras.degraded ∧
        u.ras.tickets = s.ras.tickets ++ [(t.id, t.expires)] ∧ u.mem = s.mem)) ∧
    (∀ id t, running s = true → s.ras.tickets.find? (fun e => e.1 = id) = some (id, t) →
      ∃ u, exec (.ticketExpire id) s = .next u ∧ u.ras = { s.ras with tickets := s.ras.tickets.filter (fun e => e.1 ≠ id) } ∧
        u.clk = s.clk + (t - s.ftime.toNat) ∧ u.mem = s.mem ∧ u.lports = s.lports)

/-- R786, R787: the Wick's cores. A core without a heartbeat is halted, and rejoins with a live core's state; where none is live
Hurricane restarts all four, and messages that waited are taken when one is live again; a restart that fails is counted, the
third halts. R777 to R779, R788, R792 to R794, R802: fences made and ended, copies verified and resolved, a mismatch in
Hurricane, scores and counters. What it takes from the model and not from a rule: log entries 2, 31, 101, 103, 106, 111, 112. -/
def Obligations.CoresFencesAndScores : Prop :=
  (∀ (k : Nat) (s : State), running s = true →
    (∀ x, s.ras.cores[k]? = some x → x.live = true → s.ras.hurricane = true →
      ∃ u, exec (.wickWatchdog k) s = .next u ∧ u.ras = { s.ras with cores := s.ras.cores.set k { live := false } } ∧
        ctr u (.ras 11) = satAdd 48 (ctr s (.ras 11)) 1 ∧ Quiet s u) ∧
    (∀ x, k < 4 → s.ras.cores[k]? = some x → x.live = false → s.ras.cores.any (·.live) = true →
      ∃ u, exec (.wickCoreRejoin k) s = .next (settle hooks u) ∧ Quiet s u ∧
        u.ras = { s.ras with cores := s.ras.cores.set k { live := true }, restartAt := none, failedRestarts := 0 }) ∧
    (∀ x, k < 4 → s.ras.cores[k]? = some x → x.live = false → s.ras.cores.any (·.live) = false → s.ras.restartAt.isSome = true →
      ∃ u, exec (.wickCoreRejoin k) s = .next (settle hooks (drainWick u)) ∧ Quiet s u ∧ u.core = s.core ∧ u.fm = s.fm ∧
        u.ras = { s.ras with cores := s.ras.cores.set k { live := true }, restartAt := none, failedRestarts := 0 }) ∧
    (∀ code p v, v.ras.wickQueue = [(code, p)] →
      drainWick v = mgmtTake { v with ras := { v.ras with wickQueue := [] } } code p) ∧
    (s.ras.cores.any (·.live) = false → s.ras.restartAt = none → s.ras.hurricane = true → s.ras.halt = 0 →
      ∃ u, exec .wickRestart s = .next u ∧ u.ras = { s.ras with restartAt := some s.clk } ∧ Quiet s u ∧
        ctr u (.ras 11) = satAdd 48 (ctr s (.ras 11)) 4) ∧
    (∀ t, s.ras.restartAt = some t →
      ∃ u, u.ras = { s.ras with restartAt := none, failedRestarts := s.ras.failedRestarts + 1 } ∧ u.clk = max s.clk (t + 50000000) ∧
        u.mem = s.mem ∧ u.lports = s.lports ∧
        (s.ras.failedRestarts < 2 → exec .wickRestartTimeout s = .next u) ∧
        (2 ≤ s.ras.failedRestarts → exec .wickRestartTimeout s = .next (haltSwitch u 4)))) ∧
  (∀ (c : Cmd) (s : State),
    (∀ r, running s = true → r < 16 → wickDecides s = true → exec (.regionSupplyFault r) s = .next (settle hooks (fence s r 0))) ∧
    (let sp : CmdSpec := { pf0 := true, group := 0x17, verb := 1, args := [(0, 4)] }
     CmdRuns s c sp none true → arg c 0 4 < 16 →
      (wickDecides s = true → exec (.regionFence c) s =
        .next (settle hooks (complete (fence (startCmd s c sp) (arg c 0 4) 3) (cmdRef c) 0 0 []))) ∧
      (wickDecides s = false → exec (.regionFence c) s = .next (complete (startCmd s c sp) (cmdRef c) 2 0 []))) ∧
    (∀ r cause, isFenced s r = true → fence s r 3 = s ∧
      (cause ≠ 3 → fence s r cause = { s with ras := { s.ras with fenced := kset s.ras.fenced r false } })) ∧
    (let sp : CmdSpec := { pf0 := true, group := 0x17, verb := 2, args := [(0, 4)] }
     CmdRuns s c sp none true → arg c 0 4 < 16 →
      (kfind s.ras.fenced (arg c 0 4) = some false → exec (.regionUnfence c) s = .next (complete (startCmd s c sp) (cmdRef c) 5 0 [])) ∧
      (kfind s.ras.fenced (arg c 0 4) = some true → ksorted s.ras.fenced = true →
        ∃ u, exec (.regionUnfence c) s = .next (settle hooks (complete u (cmdRef c) 0 0 [])) ∧ isFenced u (arg c 0 4) = false ∧
          (∀ q, q ≠ arg c 0 4 → kfind u.ras.fenced q = kfind s.ras.fenced q) ∧ Quiet s u)) ∧
    (running s = true → regField s rRas 16 14 ≠ 0 →
      ∃ u, exec (.verifyPass []) s = .next (settle hooks (verifyPass u)) ∧
        u.clk = max s.clk (s.ras.verifyAt + regField s rRas 16 14 * 3600000000000) ∧ u.ras = { s.ras with verifyAt := u.clk } ∧
        u.mem = s.mem ∧ u.lports = s.lports) ∧
    (running s = true → regField s rRas 16 14 = 0 → ∀ found, exec (.verifyPass found) s = .next s) ∧
    (let sp : CmdSpec := { group := 0x08, verb := 7, args := [(0, 8), (8, 4)], acts := .object }
     ∀ t, tierOf s (frameOf (arg c 0 8)) = some t → CmdRuns s c sp (some t.partition) (some t.partition = some (c.fn - 1)) →
      arg c 0 8 < 2 ^ 47 → arg c 8 4 ≤ 2 →
      (t.quarantined = false → exec (.poolResolve c) s = .next (complete (startCmd s c sp) (cmdRef c) 5 0 [])) ∧
      (∀ u, t.quarantined = true → arg c 8 4 < t.copies → resolve (startCmd s c sp) (frameOf (arg c 0 8)) (arg c 8 4) = some u →
        exec (.poolResolve c) s = .next (complete u (cmdRef c) 0 0 []) ∧
        ∃ t', tierOf u (frameOf (arg c 0 8)) = some t' ∧ t'.quarantined = false ∧ t'.stale = [] ∧ t'.copies = t.copies)) ∧
    (running s = true → s.ras.hurricane = true →
      ∃ u, exec .hurricaneMismatch s = .next (report u 0x0E (selfNode s) 0x1FF 3) ∧ u.ras.hurricane = false ∧ u.lports.length = s.lports.length ∧
        (∀ e ∈ u.lports, e.2.sec = {})) ∧
    (∀ n h, running s = true → kfind s.ras.health n = some h →
      ∃ u, exec (.healthRecover n) s = .next u ∧ u.clk = max s.clk (h.at_ + regField s rHealth 10 10 * 1000000) ∧
        kfind u.ras.health n = some { h with score := min 1000 (h.score + 1), at_ := u.clk } ∧
        (∀ m, m ≠ n → kfind u.ras.health m = kfind s.ras.health m) ∧ u.mem = s.mem ∧ u.lports = s.lports) ∧
    (let sp : CmdSpec := { pf0 := true, group := 0x19, verb := 1 }
     CmdRuns s c sp none true → exec (.healthRead c) s = .next (complete (startCmd s c sp) (cmdRef c) 0 0
      (s.ras.health.flatMap fun e => leBytes 4 e.1 ++ leBytes 4 e.2.score))) ∧
    (let sp : CmdSpec := { pf0 := true, group := 0x18, verb := 1 }
     CmdRuns s c sp none true → ∃ out, exec (.rasStats c) s = .next (complete (startCmd s c sp) (cmdRef c) 0 0 out) ∧
      out = (natRange 0 17).flatMap (fun k => leBytes 8 (ctr s (.ras k))) ∧ out.length = 136))

/-- R626: what the events of training do to a logical port: the lock of the partner, the end of equalization, TRAIN_ID that matches,
TRAIN_CREDIT and TRAIN_DONE in CONFIG, the end of RETRAIN, and the wait in DOWN, each with its frame. What it takes from the
model and not from a rule: log entry 2. -/
def Obligations.LinkTraining : Prop :=
  ∀ (n : Nat) (s : State), PortLive s n →
  -- PARTNER_LOCK in DETECT
  ((lportOf s n).link = .detect → ∃ u, exec (.partnerLock n) s = .next (linkAfter u n) ∧
    lportOf u n = { lportOf s n with link := .equalize, entered := s.clk } ∧ OnlyPort s u n ∧ u.clk = s.clk) ∧
  -- EQUALIZE_DONE in EQUALIZE: the port tells its lanes
  ((lportOf s n).link = .equalize → ∃ u, exec (.equalizeDone n) s = .next (linkAfter u n) ∧
    lportOf u n = { lportOf s n with link := .identify, entered := s.clk } ∧ OnlyPort s u n ∧ u.clk = s.clk ∧
    u.outs = s.outs ++ [.control n (.trainId (lanesUsed s n).length (lportOf s n).marked (regField s (rPort (portOf n)) 4 1 = 1))]) ∧
  -- TRAIN_ID that matches in IDENTIFY
  (∀ (role : Nat) (degradeOk : Bool), (lportOf s n).link = .identify → role < 3 →
    ∃ u, exec (.trainId n 1 role (lanesUsed s n).length (lportOf s n).marked degradeOk) s = .next (linkAfter u n) ∧
      (lportOf u n).link = .config ∧ (lportOf u n).entered = s.clk ∧ (lportOf u n).peerDegrade = degradeOk ∧
      (lportOf u n).role = some (if role = 0 then .switch else if role = 1 then .endpoint else .tray) ∧
      (∀ m, m ≠ n → lportOf u m = lportOf s m) ∧ u.mem = s.mem) ∧
  -- TRAIN_CREDIT and TRAIN_DONE, each before the other, in CONFIG
  (∀ adv : List Nat, (lportOf s n).link = .config → (lportOf s n).ll.gotDone = false →
    ∃ u, exec (.trainCredit n adv) s = .next (linkAfter u n) ∧
      lportOf u n = { lportOf s n with ll := { (lportOf s n).ll with
        gotCredit := true, peerAdv := (natRange 0 12).map fun c => adv.getD c 0 % 65536 } } ∧ OnlyPort s u n ∧ u.clk = s.clk) ∧
  ((lportOf s n).link = .config → (lportOf s n).ll.gotCredit = false →
    ∃ u, exec (.trainDone n) s = .next (linkAfter u n) ∧
      lportOf u n = { lportOf s n with ll := { (lportOf s n).ll with gotDone := true } } ∧ OnlyPort s u n ∧ u.clk = s.clk) ∧
  -- TRAIN_DONE, the last that CONFIG waits for: the port is ACTIVE and Lamplighter greets the partner
  ((lportOf s n).link = .config → (lportOf s n).ll.gotCredit = true → (lportOf s n).ll.sentCredit = true →
    ∃ u, exec (.trainDone n) s = .next (linkAfter u n) ∧ (lportOf u n).link = .active ∧ (lportOf u n).disc = .hello ∧
      (lportOf u n).ll.txNext = 0 ∧ (lportOf u n).ll.rxNext = 0 ∧ (lportOf u n).ll.peerAdv = (lportOf s n).ll.peerAdv ∧
      (∀ m, m ≠ n → lportOf u m = lportOf s m) ∧ u.mem = s.mem) ∧
  -- RETRAIN_DONE: ACTIVE again
  (∀ good : List Nat, (lportOf s n).link = .retrain →
    ∃ u, exec (.retrainDone n good) s = .next (linkAfter u n) ∧ (lportOf u n).link = .active ∧ (lportOf u n).retrainBy = [] ∧
      (∀ m, m ≠ n → lportOf u m = lportOf s m) ∧ u.mem = s.mem) ∧
  -- DOWN_TIMEOUT: 1 ms after it went DOWN the port trains again on all its lanes
  ((lportOf s n).link = .down → ∃ u, exec (.downTimeout n) s = .next (linkAfter u n) ∧
    u.clk = max s.clk ((lportOf s n).entered + 1000000) ∧
    lportOf u n = { lportOf s n with link := .detect, entered := u.clk, lanesCut := none } ∧
    (∀ m, m ≠ n → lportOf u m = lportOf s m) ∧ u.mem = s.mem)

/-- R626, R629, R630, R632, R636: timeouts and losses of a link, each at its time, take the port out of its state as R630 says:
`goDown` is the loss of a link, `partnerLost` the loss that R630 counts, `failLanes` that of lanes. R626, R630: the loss of a
link that was not up, from which no packet crosses on: the port stands in DOWN with all its lanes and an empty transmitter and
receiver, its waiting PORT.RETRAIN commands are answered, and nothing else changes but the queues of completions. What it takes
from the model and not from a rule: log entries 2, 87. -/
def Obligations.LinkLoss : Prop :=
  (∀ (n : Nat) (s : State), PortLive s n →
  (∀ lanes : List Nat, (lportOf s n).link = .equalize →
    exec (.equalizeTimeout n lanes) s = .next (linkAfter
      (let t := markLanes (untilTime s ((lportOf s n).entered + 50000000)) (portOf n) (lanes.filter fun i => (lanesGiven s n).contains i) true
       match degrade t n with
       | some u => toIdentify u n
       | none => goDown t n) n)) ∧
  ((lportOf s n).link = .identify → exec (.identifyTimeout n) s =
    .next (linkAfter (note (goDown (untilTime s ((lportOf s n).entered + 1000000)) n) "TRAIN_MISMATCH" [n]) n)) ∧
  ((lportOf s n).link = .config → exec (.configTimeout n) s =
    .next (linkAfter (note (goDown (untilTime s ((lportOf s n).entered + 100000)) n) "CONFIG_FAILED" [n]) n)) ∧
  ((lportOf s n).link = .retrain → exec (.retrainTimeout n) s =
    .next (linkAfter (partnerLost (untilTime s ((lportOf s n).entered + 20000)) n) n)) ∧
  ((lportOf s n).link = .lowPower → exec (.beaconLoss n) s =
    .next (linkAfter (partnerLost (untilTime s ((lportOf s n).entered + 150000)) n) n)) ∧
  ((lportOf s n).link = .active ∨ (lportOf s n).link = .retrain → (lportOf s n).gw = none →
    exec (.partnerLoss n) s = .next (linkAfter (partnerLost s n) n)) ∧
  (∀ lane : Nat, (lportOf s n).link = .active → (lanesUsed s n).contains lane →
    exec (.laneFail n lane) s = .next (linkAfter (failLanes s n [lane]) n)) ∧
  (∀ lanes : List Nat, (lportOf s n).link = .active ∨ (lportOf s n).link = .retrain →
    (∃ i ∈ lanes, (lanesUsed s n).contains i) → (∃ i ∈ lanesUsed s n, !lanes.contains i) →
    exec (.laneLossOfSignal n lanes) s =
      .next (linkAfter (failLanes s n (lanes.filter fun i => (lanesUsed s n).contains i)) n)) ∧
  (∀ g : Gateway, linkUp (lportOf s n).link = true → (lportOf s n).gw = some g → exec (.tunDead n) s =
    .next (linkAfter (partnerLost (untilTime s (g.lastGood + g.deadUs * 1000)) n) n))) ∧
  (∀ (n : Nat) (s : State), linkUp (lportOf s n).link = false → cutFrom s n = none →
    lportOf (goDown s n) n = { lportOf s n with
      link := .down, entered := s.clk, lanesCut := none, ll := { adv := (lportOf s n).ll.adv }, retrainBy := [] } ∧
    OnlyPort s (goDown s n) n ∧ (goDown s n).clk = s.clk ∧ (goDown s n).power.regions = s.power.regions)

/-- R606, R607, R617, R619, R620, R621, R616: what codewords and link control flits do on an ACTIVE port: a codeword that is bad, by its
RS decoding or by its CRC10, is counted and asked for again; a good one in order is accepted and its number used up; STATUS acknowledges and gives credit; NAK makes the port send REPLAY
and every held codeword from that number; REPLAY sets the receiver back; IDLE changes nothing. What it takes from the model and
not from a rule: log entries 80, 158. -/
def Obligations.LinkCodewords : Prop :=
  ∀ (n : Nat) (s : State), PortLive s n → (lportOf s n).link = .active →
  (∀ (rs : Bool) (corrected : Nat) (cw : Codeword), (lportOf s n).ll.rxWait = none →
    rs = false ∨ bits cw.tag 10 10 ≠ crc10 (bits cw.tag 0 10) cw.data →
    ∃ u, exec (.codewordReceived n rs corrected cw) s = .next (linkAfter u n) ∧
      ctr u (.link n 0) = satAdd 48 (ctr s (.link n 0)) 1 ∧ .control n (.nak (lportOf s n).ll.rxNext) ∈ u.outs ∧
      (lportOf u n).ll = { (lportOf s n).ll with rxWait := some s.clk } ∧ u.mem = s.mem) ∧
  (∀ (corrected : Nat) (cw : Codeword), (lportOf s n).ll.rxWait = none → bits cw.tag 10 10 = crc10 (bits cw.tag 0 10) cw.data →
    (lportOf s n).ll.rxPos = (lportOf s n).ll.rxNext → (codewordFlits cw).any isData = true → (∀ f ∈ codewordFlits cw, badControl f = false) →
    ∃ u, exec (.codewordReceived n true corrected cw) s = .next (linkAfter u n) ∧
      (lportOf u n).ll.rxNext = ((lportOf s n).ll.rxNext + 1) % 4096 ∧ (lportOf u n).ll.rxAny = true ∧
      (lportOf u n).link = .active ∧ u.mem = s.mem) ∧
  (∀ (ack : Nat) (valid : Bool) (credits : List Nat),
    (valid = true → ((lportOf s n).ll.txNext + 4096 - (ack + 1) % 4096) % 4096 < 2048) →
    ∃ u, exec (.status n ack valid credits) s = .next (linkAfter (hoodCheck (tryLowPower (pump u n) n)) n) ∧
      (lportOf u n).ll.peerFreed = (natRange 0 12).map (fun c => credits.getD c 0 % 65536) ∧
      (lportOf u n).ll.txHeld =
        (if valid then (lportOf s n).ll.txHeld.filter (fun k => !cwBefore k ack) else (lportOf s n).ll.txHeld) ∧
      OnlyPort s u n ∧ u.clk = s.clk) ∧
  (∀ seq : Nat, (lportOf s n).ll.txHeld.contains seq = true →
    (if (lportOf s n).ll.replayAt = seq then (lportOf s n).ll.replays + 1 else 1) < regField s (rPortLink (portOf n)) 8 4 →
    ∃ u, exec (.nak n seq) s = .next (linkAfter u n) ∧
      u.outs = s.outs ++ [.control n (.replay seq), .resend n ((lportOf s n).ll.txHeld.dropWhile fun k => k ≠ seq)] ∧
      (lportOf u n).ll.txHeld = (lportOf s n).ll.txHeld ∧ ctr u (.link n 3) = satAdd 48 (ctr s (.link n 3)) 1 ∧
      OnlyPort s u n ∧ u.clk = s.clk) ∧
  (∀ seq : Nat, (lportOf s n).ll.txHeld.contains seq = false →
    exec (.nak n seq) s = .next (linkAfter (toRetrain (linkViolation s n 14 (ctlHead 0x03 (leBytes 2 seq))) n) n)) ∧
  (∀ seq : Nat, cwBefore seq (lportOf s n).ll.rxNext = true →
    ∃ u, exec (.replay n seq) s = .next (linkAfter u n) ∧
      lportOf u n = { lportOf s n with ll := { (lportOf s n).ll with rxPos := seq, rxWait := none } } ∧
      OnlyPort s u n ∧ u.outs = s.outs ∧ u.clk = s.clk) ∧
  exec (.idle n) s = .next s

/-- R615, R616, R620, R621, R635, R636: ESCAPE from a switch marks the next packet; the timers of a port send what is due at its
time; LP_REQ is agreed to unless packets wait; LP_ACK and LP_NAK end the asking; a low-power port sends beacons and wakes. R591,
R592, R593: a secure frame on a marked port, whose slot holds a key, with the counter expected: where its tag verifies it is
accepted, its slot is current and its counter goes on; where it does not, it is discarded, counted, and asked for again. AES-GCM
is uninterpreted, so the statement holds whichever way the tag verifies. What it takes from the model and not from a rule: log
entries 2, 6, 81, 83, 84. -/
def Obligations.LinkTimersAndFrames : Prop :=
  (∀ (n : Nat) (s : State), PortLive s n →
  ((lportOf s n).link = .active → (lportOf s n).role = some .switch →
    (∃ v, v < 6 ∧ (lportOf s n).ll.adv.getD (2 * v + 1) 0 ≠ 0) →
    ∃ u, exec (.escape n) s = .next (linkAfter u n) ∧
      lportOf u n = { lportOf s n with ll := { (lportOf s n).ll with escNext := true } } ∧ OnlyPort s u n ∧ u.clk = s.clk) ∧
  (∀ k ks, (lportOf s n).link = .active → (lportOf s n).ll.txHeld = k :: ks →
    exec (.ackTimeout n) s = .next (linkAfter
      (replayOrRetrain (untilTime s ((lportOf s n).ll.txSince + regField s (rPortLink (portOf n)) 0 8 * 100)) n k) n)) ∧
  (∀ t, (lportOf s n).link = .active → (lportOf s n).ll.rxWait = some t →
    ∃ u, exec (.nakRepeat n) s = .next (linkAfter u n) ∧ u.clk = max s.clk (t + 1000) ∧
      u.outs = s.outs ++ [.control n (.nak (lportOf s n).ll.rxNext)] ∧
      lportOf u n = { lportOf s n with ll := { (lportOf s n).ll with rxWait := some u.clk } } ∧ OnlyPort s u n) ∧
  ((lportOf s n).link = .active →
    ∃ u, exec (.statusTimer n) s = .next (linkAfter u n) ∧ u.clk = max s.clk ((lportOf s n).ll.statusAt + 100) ∧
      u.outs = s.outs ++ [.control n (.status (((lportOf s n).ll.rxNext + 4095) % 4096) (lportOf s n).ll.rxAny (lportOf s n).ll.freed)] ∧
      lportOf u n = { lportOf s n with ll := { (lportOf s n).ll with rxCount := 0, statusAt := u.clk } } ∧ OnlyPort s u n) ∧
  ((lportOf s n).link = .active → portQuiet s n = false →
    ∃ u, exec (.lpReq n) s = .next (linkAfter u n) ∧ u = { s with outs := s.outs ++ [.control n .lpNak] }) ∧
  ((lportOf s n).link = .active → portQuiet s n = true →
    ∃ u, exec (.lpReq n) s = .next (linkAfter (tryLowPower u n) n) ∧ u.outs = s.outs ++ [.control n .lpAck] ∧
      lportOf u n = { lportOf s n with ll := { (lportOf s n).ll with lp := .granted } } ∧ OnlyPort s u n ∧ u.clk = s.clk) ∧
  ((lportOf s n).link = .active → (lportOf s n).ll.lp = .asked →
    ∃ u, exec (.lpAck n) s = .next (hoodCheck u) ∧
      ((lportOf s n).ll.txHeld = [] → (lportOf s n).ll.txq = [] → (lportOf u n).link = .lowPower) ∧
      ((lportOf s n).ll.txHeld ≠ [] → (lportOf u n).link = .active ∧ (lportOf u n).ll.lp = .acked) ∧
      (∀ h, s.power.hooding = some h → u.power.hooding =
        some { h with await := h.await.filter (· ≠ n), agreed := h.agreed ++ [n] }) ∧
      (∀ m, m ≠ n → lportOf u m = lportOf s m) ∧ u.mem = s.mem) ∧
  ((lportOf s n).ll.lp = .asked →
    ∃ u, exec (.lpNak n) s = .next (hoodRefused u) ∧
      lportOf u n = { lportOf s n with ll := { (lportOf s n).ll with lp := .idle } } ∧ OnlyPort s u n ∧ u.clk = s.clk) ∧
  ((lportOf s n).link = .lowPower →
    ∃ u, exec (.beaconTimer n) s = .next (linkAfter u n) ∧ u.clk = max s.clk ((lportOf s n).ll.beaconAt + 50000) ∧
      u.outs = s.outs ++ [.beacon n] ∧
      lportOf u n = { lportOf s n with ll := { (lportOf s n).ll with beaconAt := u.clk } } ∧ OnlyPort s u n) ∧
  ((lportOf s n).link = .lowPower → s.power.hooding = none → s.power.chip ≠ .hooded →
    ∃ u, exec (.lowPowerExit n) s = .next (linkAfter (pump u n) n) ∧
      lportOf u n = { lportOf s n with link := .active, entered := s.clk, ll := { (lportOf s n).ll with lp := .idle } } ∧
      OnlyPort s u n ∧ u.clk = s.clk)) ∧
  (∀ (n slot count : Nat) (data key : List Byte) (tag : BitVec 128) (s : State), PortLive s n → (lportOf s n).link = .active →
    (lportOf s n).marked = true → (lportOf s n).sec.rxKeys.getD slot none = some key →
    count = (if slot ≠ (lportOf s n).sec.rxSlot then 0 else (lportOf s n).sec.rxCtr) →
    (lportOf s n).sec.failedOnce ≠ some count →
    ∃ u v, exec (.secureFrame n slot count data tag) s = .next (linkAfter
        (if Config.gcmVerify (key.take 32) (key.drop 32 ++ leBytes 8 count)
          (leBytes 8 count ++ leBytes 1 (data.length / 64) ++ leBytes 7 slot) data tag then pump u n else v) n) ∧
      (lportOf u n).sec.rxSlot = slot ∧ (lportOf u n).sec.rxCtr = count + 1 ∧ (lportOf u n).sec.failedOnce = none ∧
      OnlyPort s u n ∧
      ctr v (.secureReject n) = satAdd 48 (ctr s (.secureReject n)) 1 ∧ (lportOf v n).sec = { (lportOf s n).sec with failedOnce := some count } ∧
      (lportOf v n).ll.rxNext = ((lportOf s n).ll.frameAt.getD ((lportOf s n).ll.rxNext, 0)).1 ∧ (lportOf v n).ll.rxWait = some s.clk ∧
      OnlyPort s v n)

/-- R642, R644: tunnel frames of a gateway port: one in SEQ order is accepted and acknowledges; one with a bad FCS is discarded and
counted; PFC pauses a priority for its quanta; the retransmission timer sends every held frame again; the keepalive sends an
empty one, and a host bridge that loses its link is noted (R647). R639, R641, R982: the PORT commands of links where they are
carried out: PORT.RETRAIN takes an ACTIVE port to RETRAIN and waits; PORT.RELEASE takes a quarantined port to DOWN;
PORT.LINK_STATS returns the ten counters in their order; PORT.SET_GATEWAY marks the port a gateway with the addresses,
priorities and times of its parameters and reserves its buffer. What it takes from the model and not from a rule: log entries 2,
86, 111, 112. -/
def Obligations.GatewaysAndPortCommands : Prop :=
  (∀ (n : Nat) (s : State) (g : Gateway), PortLive s n → (lportOf s n).gw = some g → (lportOf s n).link = .active →
  (∀ ack flits : Nat, 0 < flits → flits ≤ 128 →
    ∃ u h, exec (.tunnelFrame n ((g.rxSeq + 1) % 2 ^ 32) ack flits true) s = .next (linkAfter (pump u n) n) ∧
      (lportOf u n).gw = some h ∧ h.rxSeq = (g.rxSeq + 1) % 2 ^ 32 ∧ h.lastGood = s.clk ∧
      h.held = (g.held.filter fun x => decide (2 ^ 31 ≤ (ack + 2 ^ 32 - x.1) % 2 ^ 32)) ∧ OnlyPort s u n) ∧
  (∀ seq ack flits : Nat, exec (.tunnelFrame n seq ack flits false) s = .next (linkAfter (bump s (.gwDiscard n)) n)) ∧
  (∀ prio quanta : Nat, ∃ u h, exec (.pfcFrame n [(prio, quanta)]) s = .next (linkAfter u n) ∧ (lportOf u n).gw = some h ∧
      kfind h.paused (prio % 8) = some (s.clk + quanta % 65536 * 512 / (200 * max 1 (lanesUsed s n).length)) ∧
      h.held = g.held ∧ h.rxSeq = g.rxSeq ∧ OnlyPort s u n ∧ u.clk = s.clk) ∧
  (g.held ≠ [] → ∃ u, exec (.tunRto n) s = .next (linkAfter u n) ∧ u.clk = max s.clk (g.heldSince + g.rtoUs * 1000) ∧
      u.outs = s.outs ++ g.held.map (fun h => .tunnel n h.1 g.rxSeq h.2) ∧
      lportOf u n = { lportOf s n with gw := some { g with heldSince := u.clk, lastSent := u.clk } } ∧ OnlyPort s u n) ∧
  (∃ u, exec (.tunnelKeepalive n) s = .next (linkAfter u n) ∧ u.clk = max s.clk (g.lastSent + 10000) ∧
      u.outs = s.outs ++ [.tunnel n 0 g.rxSeq 0] ∧
      lportOf u n = { lportOf s n with gw := some { g with lastSent := u.clk } } ∧ OnlyPort s u n) ∧
  (∀ b, b < 4 → ∃ u, exec (.hbLinkLoss b) s = .next u ∧ u.boot.hbLink = s.boot.hbLink.set b false ∧
      u.log = s.log ++ [⟨"HB_LINK_LOSS", [b], s.clk⟩] ∧ u.lports = s.lports ∧ u.mem = s.mem ∧ u.coh = s.coh)) ∧
  (∀ (c : Cmd) (s : State),
  (CmdRuns s c { pf0 := true, group := 4, verb := 4, args := [(0, 4)] } none true → lportThere s (arg c 0 4) = true →
    (lportOf s (arg c 0 4)).link = .active →
    ∃ u, exec (.portRetrain c) s = .next u ∧ (lportOf u (arg c 0 4)).link = .retrain ∧
      (lportOf u (arg c 0 4)).retrainBy = (lportOf s (arg c 0 4)).retrainBy ++ [cmdRef c] ∧ OnlyPort s u (arg c 0 4)) ∧
  (CmdRuns s c { pf0 := true, group := 4, verb := 5, args := [(0, 4)] } none true → lportThere s (arg c 0 4) = true →
    (lportOf s (arg c 0 4)).link = .quarantined →
    ∃ u, exec (.portRelease c) s = .next (complete u (cmdRef c) 0 0 []) ∧
      lportOf u (arg c 0 4) = { lportOf s (arg c 0 4) with link := .down, entered := s.clk } ∧ OnlyPort s u (arg c 0 4)) ∧
  (CmdRuns s c { pf0 := true, group := 4, verb := 6, args := [(0, 4)] } none true → arg c 0 4 < 512 →
    ∃ u, exec (.portLinkStats c) s = .next (complete u (cmdRef c) 0 0
        ((natRange 0 10).flatMap fun k => leBytes 8 (ctr s (.link (arg c 0 4) k)))) ∧ Quiet s u) ∧
  (CmdRuns s c { pf0 := true, group := 4, verb := 3, args := [(0, 4), (8, 6), (16, 6), (4, 2), (6, 1), (14, 2), (22, 2), (24, 2), (26, 2), (28, 1)] } none true →
    lportThere s (arg c 0 4) = true → regField s (rPort (portOf (arg c 0 4))) 3 1 = 1 → macOk (arg c 8 6) = true →
    macOk (arg c 16 6) = true → (arg c 4 2 ≤ 4094 ∨ arg c 4 2 = 0xFFFF) →
    (∀ v, v < 6 → bits (arg c 14 2 + 2 ^ 16 * arg c 22 2) (4 * v) 4 ≤ 7) → 5 ≤ arg c 24 2 → arg c 24 2 ≤ 5000 →
    10 ≤ arg c 26 2 → arg c 26 2 ≤ 10000 → 1 ≤ arg c 28 1 → arg c 28 1 ≤ 16 → ceilDiv (arg c 28 1) 2 ≤ t1Free s →
    ∃ u g, exec (.portSetGateway c) s = .next (complete u (cmdRef c) 0 0 []) ∧
      lportOf u (arg c 0 4) = { lportOf s (arg c 0 4) with gw := some g, marked := true } ∧
      g.ownMac = arg c 8 6 ∧ g.peerMac = arg c 16 6 ∧ g.vlan = (if arg c 4 2 = 0xFFFF then none else some (arg c 4 2)) ∧
      g.rtoUs = arg c 24 2 ∧ g.deadUs = arg c 26 2 ∧ g.retxMib = arg c 28 1 ∧
      u.mem.reserved = kset s.mem.reserved (1000 + arg c 0 4) (ceilDiv (arg c 28 1) 2) ∧
      u.mem.bytes = s.mem.bytes ∧ (∀ m, m ≠ arg c 0 4 → lportOf u m = lportOf s m)))

/-- R653, R654, R660, R670, R679, R684, R772: a cell time without faults matches and moves cells, and one with an error in scheduler
state resets the pointers and matches nothing; a packet is promoted at its time, admitted where it fits, moved to its escape
channel when it has had no credit for ESC_WAIT, and discarded at its age; CORE.STATS returns the counters. What it takes from
the model and not from a rule: log entries 2, 82, 89, 91, 111, 112. -/
def Obligations.CoreEvents : Prop :=
  ∀ (id : Nat) (q : QPkt) (c : Cmd) (s : State), running s = true →
  (s.ras.halt = 0 → exec (.schedMatch [] false []) s = .next (settle hooks (cellTime (nextCell s)))) ∧
  (s.ras.halt = 0 → s.core.parityAt.length < 15 →
    ∃ u, exec (.schedMatch [] true []) s = .next (settle hooks u) ∧ u.core.grantPtr = [] ∧ u.core.acceptPtr = [] ∧
      u.core.voqs = s.core.voqs ∧ ctr u (.ras 7) = satAdd 48 (ctr s (.ras 7)) 1 ∧ u.mem = s.mem ∧ u.lports = s.lports) ∧
  (pktOf s id = some q → exec (.voqPromote id) s = .next
    (modPkt (untilTime s (q.entered + regField s rSchedPromo (8 * q.tc) 8 * 50)) id fun q => { q with promoted := true })) ∧
  (pktOf s id = some q → inVoq q = false → sharedRoom s q = true →
    (∀ x ∈ s.core.voqs.takeWhile (fun x => x.id ≠ id), inVoq x = true ∨ x.inLport ≠ q.inLport ∨
      channelOf x.tc x.esc ≠ channelOf q.tc q.esc) →
    ∃ u, exec (.sharedAdmit id) s = .next u ∧
      u.core.voqs = (s.core.voqs.filter fun x => x.id ≠ id) ++ [{ q with shared := true, admitted := s.clk, credit := 0 }] ∧
      (∀ m, m ≠ q.inLport → lportOf u m = lportOf s m) ∧ u.mem = s.mem ∧ u.cfg = s.cfg) ∧
  (pktOf s id = some q → crossing q = false →
    ∃ v, exec (.ageDiscard id) s =
        .next (settle hooks (bump ((egresses q).foldl (fun s e => discardReport s (copyFor q e) 0) v) .ageDiscards)) ∧
      v.core.voqs = (s.core.voqs.filter fun x => x.id ≠ q.id) ∧ v.clk = max s.clk (q.entered + ageLimit s q.tc) ∧
      v.mem = s.mem ∧ v.ing = s.ing) ∧
  ((headsOf [] s.core.voqs).find? (fun x => x.id = id) = some q → crossing q = false → q.esc = false →
    facesSwitch s q.egress = true → noCreditFor s q q.egress = true → s.fm.escDrain = none →
    ∀ (r : Route) (l : Nat), kfind s.core.routes q.pkt.dstOf = some r → escUsable s r = some l →
    ∃ v, exec (.escWaitExpire id) s = .next (bump v .escMoves) ∧
      v.core.voqs = s.core.voqs.map (fun x => if x.id = q.id then
        { x with egress := l, esc := facesSwitch s l, shared := !facesSwitch s l, admitted := v.clk, cells := x.total,
                 taking := [], noCredit := none } else x) ∧
      v.clk = max s.clk (q.noCredit.getD s.clk + regField s rRouteCfg 8 8 * 1000) ∧ v.mem = s.mem ∧ v.lports = s.lports) ∧
  (CmdRuns s c { pf0 := true, group := 0x16, verb := 1 } none true →
    exec (.coreStats c) s = .next (complete (startCmd s c { pf0 := true, group := 0x16, verb := 1 }) (cmdRef c) 0 0
      (leBytes 8 (ctr s .ageDiscards) ++ leBytes 8 (ctr s .noRouteDiscards) ++ leBytes 8 (ctr s .unanswered) ++
       leBytes 8 (ctr s .rerouted) ++ leBytes 8 (ctr s .escMoves) ++ leBytes 8 (ctr s .ctAborts) ++
       leBytes 8 (ctr s .reserveShort))))

/-- R693, R697, R698, R699, R705, R706, R707, R723: a bucket lets its oldest held request go and takes its cost; the override lets
the request that has waited longest go with all ahead of it; SHAPE.SET_PART writes a level-two shaper; SHAPE.STATS returns the
counters; GATE.SET leaves a list waiting for its change time, which GATE_LIST_SWITCH makes the list in force. What it takes from
the model and not from a rule: log entries 2, 90, 111, 112. -/
def Obligations.ShapersAndGates : Prop :=
  ∀ (c : Cmd) (s : State), running s = true →
  (∀ (port id : Nat) (rest : List Nat) (o : OutReq), (bucketNow s port).queue = id :: rest → kfind s.ing.outs id = some o →
    0 ≤ (bucketNow s port).level →
    ∃ u, exec (.bucketRelease port) s = .next (settle hooks (tryReq hooks u id)) ∧
      kfind u.buckets port = some { bucketNow s port with level := (bucketNow s port).level - bucketCost o.p,
                                                          queue := (id :: rest).filter (· ≠ id) } ∧
      (∀ p, p ≠ port → kfind u.buckets p = kfind s.buckets p) ∧ u.ing = s.ing ∧ u.mem = s.mem) ∧
  (∀ (port id : Nat) (o : OutReq), (bucketNow s port).queue = [id] → kfind s.ing.outs id = some o →
    exec (.bucketOverride port) s = .next (settle hooks (releaseHead port
      (bump (untilTime s (o.arrived + ageLimit s o.p.tc.toNat / 2)) .bucketOverrides) id))) ∧
  (CmdRuns s c { pf0 := true, group := 0x13, verb := 1, args := [(0, 4), (8, 8)], acts := .field } none true →
    3 ≤ arg c 0 4 → arg c 0 4 ≤ 7 → 1 ≤ bits (arg c 8 8) 1 20 → bits (arg c 8 8) 1 20 ≤ 1000000 → bits (arg c 8 8) 21 16 ≠ 0 →
    arg c 8 8 < 2 ^ 37 → kfind s.shape.l2 (8 * c.partition.toNat + arg c 0 4) = none →
    ∃ u, exec (.shapeSetPart c) s = .next (complete u (cmdRef c) 0 0 []) ∧
      u.shape.l2 = (if bits (arg c 8 8) 0 1 = 1
        then kset s.shape.l2 (8 * c.partition.toNat + arg c 0 4)
          ⟨bits (arg c 8 8) 1 20, bits (arg c 8 8) 21 16, bits (arg c 8 8) 21 16 * 1000000, s.clk⟩
        else kdel s.shape.l2 (8 * c.partition.toNat + arg c 0 4)) ∧ u.shape.l1 = s.shape.l1 ∧ u.shape.gates = s.shape.gates ∧
      u.cfg = s.cfg ∧ u.mem = s.mem ∧ u.parts = s.parts) ∧
  (CmdRuns s c { pf0 := true, group := 0x13, verb := 2 } none true →
    exec (.shapeStats c) s = .next (complete (startCmd s c { pf0 := true, group := 0x13, verb := 2 }) (cmdRef c) 0 0
      (leBytes 8 (ctr s .hostHolds) ++ leBytes 8 (ctr s .bucketOverrides) ++ leBytes 8 (ctr s .shaperWaitNs) ++
       leBytes 8 (ctr s .gateWaitNs) ++ leBytes 8 (ctr s .gateOverruns) ++ leBytes 8 (ctr s .timeSteps) ++
       leBytes 8 (ctr s .upstreamChanges)))) ∧
  (∀ (l : List Byte) (es : List GateEntry),
    CmdRuns s c { pf0 := true, group := 0x14, verb := 1, host := true,
                  args := [(0, 4), (4, 4), (8, 4), (16, 8), (24, 8)] } none true → c.host = some l →
    arg c 0 4 < 128 → arg c 4 4 ≤ 256 → 1000 ≤ arg c 8 4 → arg c 8 4 ≤ 1000000000 → 8 * arg c 4 4 ≤ l.length →
    gateEntries (l.take (8 * arg c 4 4)) (arg c 4 4) = some es →
    (∀ g, kfind s.shape.gates (arg c 0 4) = some g → g.next = none) →
    ∃ u g, exec (.gateSet c) s = .next u ∧ kfind u.shape.gates (arg c 0 4) = some g ∧
      g.next = some (⟨es, arg c 8 4, arg c 16 8⟩, cycleStart ⟨es, arg c 8 4, arg c 16 8⟩ (max (arg c 24 8) s.ftime.toNat), cmdRef c) ∧
      (∀ g0, kfind s.shape.gates (arg c 0 4) = some g0 → g.cur = g0.cur) ∧
      (∀ p, p ≠ arg c 0 4 → kfind u.shape.gates p = kfind s.shape.gates p) ∧ u.mem = s.mem) ∧
  (∀ (p t : Nat) (g : Gate) (l : GateList) (r : CmdRef), kfind s.shape.gates p = some g → g.next = some (l, t, r) →
    ∃ u, exec (.gateListSwitch p) s = .next (complete u r 0 0 []) ∧ kfind u.shape.gates p = some { cur := l } ∧
      (∀ k, k ≠ p → kfind u.shape.gates k = kfind s.shape.gates k) ∧ u.mem = s.mem ∧ u.lports = s.lports) ∧
  (∀ (p t : Nat) (g : Gate), kfind s.shape.gates p = some g → gateNext s g.cur = some t →
    exec (.gateEntryChange p) s = .next (untilFabric s t))

/-- R709, R711, R712, R713, R714, R718, R719, R938: what sets, marks and keeps fabric time, where each takes its effect. What it
takes from the model and not from a rule: log entries 2, 92, 111, 112. -/
def Obligations.FabricTime : Prop :=
  ∀ (c : Cmd) (n : Nat) (offset : Int) (s : State), running s = true →
  -- TIME.SET at a root that has never been LOCKED
  (CmdRuns s c { pf0 := true, group := 0x15, verb := 1, args := [(0, 8)] } none true → s.tk.source ≠ some .pps →
    s.tk.everLocked = false →
    ∃ u, exec (.timeSet c) s = .next (complete u (cmdRef c) 0 0 []) ∧ u.ftime = BitVec.ofNat 64 (arg c 0 8) ∧ u.tk = s.tk ∧
      u.clk = s.clk ∧ u.mem = s.mem) ∧
  -- TIME.SET_SOURCE to PPS
  (CmdRuns s c { pf0 := true, group := 0x15, verb := 2, args := [(0, 4), (4, 4)] } none true → arg c 0 4 = 1 → arg c 4 4 = 0 →
    ∃ u, exec (.timeSetSource c) s = .next (complete (rootLock u) (cmdRef c) 0 0 []) ∧
      u.tk = { s.tk with source := some .pps, depth := 0, onBackup := false, st := .acquiring, inRow := 0, outRow := 0 } ∧
      u.ftime = s.ftime ∧ u.mem = s.mem) ∧
  -- TIME.SET_UPSTREAM without a backup
  (CmdRuns s c { pf0 := true, group := 0x15, verb := 3, args := [(0, 4), (4, 4)] } none true → arg c 0 4 < 512 →
    facesSwitch s (arg c 0 4) = true → arg c 4 4 = 2 ^ 32 - 1 →
    ∃ u, exec (.timeSetUpstream c) s = .next (complete u (cmdRef c) 0 0 []) ∧ u.tk.source = none ∧
      u.tk.upstream = some (arg c 0 4) ∧ u.tk.backup = none ∧ u.tk.st = (if s.tk.st = .unset then .unset else .acquiring) ∧
      u.ftime = s.ftime ∧ u.mem = s.mem) ∧
  -- TIME_SYNC_TIMER: TIME_SYNC, then TIME_FOLLOW
  ((lportOf s n).link = .active → facesSwitch s n = true → (lportOf s n).disc = .known → (kget s.tk.exch n {}).sent = none →
    ∃ u a b, exec (.timeSyncTimer n) s = .next u ∧ u.core.voqs = s.core.voqs ++ [a, b] ∧ a.egress = n ∧ b.egress = n ∧
      (∃ p, a.pkt = .req (.mgmt 0x8E) p ∧ p.payload = leBytes 16 (kget s.tk.exch n {}).txSeq) ∧
      (∃ p, b.pkt = .req (.mgmt 0x8F) p ∧ p.payload = followPayload (syncSent s n) n) ∧
      (kget u.tk.exch n {}).sent = some ((kget s.tk.exch n {}).txSeq, s.ftime.toNat) ∧ u.mem = s.mem ∧ u.ftime = s.ftime) ∧
  -- PPS_EDGE at a root that has been LOCKED: time slews by the offset from the second
  (s.tk.source = some .pps → s.tk.everLocked = true → s.tk.nextPps = none →
    ∃ u, exec .ppsEdge s = .next (rootLock u) ∧
      u.tk.offset = timeDiff s.ftime.toNat ((s.ftime.toNat + 500000000) / 1000000000 * 1000000000) ∧
      u.tk.slew = -u.tk.offset ∧ u.tk.ppsOk = true ∧ u.ftime = s.ftime) ∧
  -- PPS_EDGE that names the first second: time steps
  (∀ m, s.tk.source = some .pps → s.tk.everLocked = false → s.tk.nextPps = some m →
    ∃ u, exec .ppsEdge s = .next (rootLock u) ∧ u.ftime = s.ftime - BitVec.ofInt 64 (timeDiff s.ftime.toNat m) ∧
      u.tk.nextPps = none ∧ ctr u .timeSteps = satAdd 48 (ctr s .timeSteps) 1) ∧
  (∀ pps : Bool, s.tk.source = some .pps → s.tk.st = .locked →
    ∃ u, exec (.timeRefLost pps) s = .next u ∧ u.tk.st = .holdover ∧ u.tk.slew = 0 ∧ u.ftime = s.ftime ∧
      (if pps then u.tk.ppsOk = false else u.tk.t10mOk = false)) ∧
  (∀ pps : Bool, s.tk.source = some .pps → s.tk.st = .holdover → (if pps then s.tk.t10mOk else s.tk.ppsOk) = true →
    ∃ u, exec (.timeRefRestored pps) s = .next u ∧ u.tk.st = .acquiring ∧ u.tk.ppsOk = true ∧ u.tk.t10mOk = true ∧
      u.ftime = s.ftime) ∧
  (s.tk.st ≠ .unset → exec .ppsOut s = .next
    (emit (untilFabric s ((s.ftime.toNat / 1000000000 + 1) * 1000000000)) (.ppsOut (s.ftime.toNat / 1000000000 + 1)))) ∧
  ((lportOf s n).gw.isSome = true → s.tk.source = some (.ptp n) → s.tk.st = .locked → offset.natAbs ≤ 1000 →
    ∃ u, exec (.ptpFrame n offset) s = .next (rootLock u) ∧ u.tk.offset = offset ∧ u.tk.slew = -offset ∧ u.ftime = s.ftime ∧
      u.tk.st = .locked) ∧
  ((lportOf s n).gw.isSome = true → s.tk.source ≠ some (.ptp n) → exec (.ptpFrame n offset) s = .next (bump s (.gwDiscard n)))

/-- R838 to R842, R846, R850, R858: the descriptor that the fetcher reads becomes a command in progress; a completion is written as
output, entry and message; the coalescing time signals what waits. What it takes from the model and not from a rule: log entries
2, 112, 113. -/
def Obligations.QueueEvents : Prop :=
  ∀ (fn q : Nat) (s : State),
    (∀ (v : State) (r : CmdRef) (i : InFlight) (st n : Nat) (out : List Byte), r.fm = none → i.orphan = false → out.length ≤ r.outLen →
      (fnOf v r.fn).inFlight.find? (fun i => i.qp = r.qp && i.cid = r.cid) = some i →
      fnOf (complete v r st n out) r.fn = { fnOf v r.fn with inFlight := (fnOf v r.fn).inFlight.erase i, done := (fnOf v r.fn).done ++
        [{ qp := r.qp, cid := r.cid, status := st, result := n, time := v.ftime.toNat, sqHead := i.sqHead, out := out, addr := r.addr1 }] } ∧
      (∀ m, m ≠ r.fn → fnOf (complete v r st n out) m = fnOf v m) ∧ Quiet v (complete v r st n out)) ∧
    (∀ v b, running s = true → s.boot.perstMgt = true → s.ras.cores.any (·.live) = true → visit s = some (v, fn, q) →
      (∃ u, exec (.descriptorFetch (some b)) s = .next (settleUnknown 256 u) ∧
        (qpOf u fn q).sqHead = ((qpOf s fn q).sqHead + 1) % 2 ^ (qpOf s fn q).sqLog2 ∧
        (fnOf u fn).inFlight = (fnOf s fn).inFlight ++ [fetchedEntry fn q (qpOf u fn q).sqHead b] ∧
        (∀ m, m ≠ fn → fnOf u m = fnOf s m) ∧ Quiet s u) ∧
      (∃ u, exec (.descriptorFetch none) s = .next (settleUnknown 256 u) ∧ (qpOf u fn q).error = true ∧ (qpOf u fn q).ready = false ∧
        (fnOf u fn).inFlight = (fnOf s fn).inFlight ∧ Quiet s u)) ∧
    (∀ d ok, running s = true → s.boot.perstMgt = true → let v := settleUnknown 256 s
      (fnOf v fn).done.find? (fun d => d.qp = q) = some d → d.qp = q → (qpOf v fn q).ready = true → cqRoom (qpOf v fn q) = true →
      ∃ u e, exec (.commandCompletion fn q ok) s = .next u ∧ (fnOf u fn).done = (fnOf v fn).done.erase d ∧
        e = (if ok = false ∧ d.out ≠ [] then { d with status := 16 } else d) ∧
        (Out.hostWrite ((qpOf v fn q).cqBase * 4096 + 32 * (qpOf v fn q).cqTail) (queueEntry (qpOf v fn q) e)) ∈ u.outs ∧
        (qpOf u fn q).cqTail = ((qpOf v fn q).cqTail + 1) % 2 ^ (qpOf v fn q).cqLog2 ∧ Quiet v u) ∧
    (∀ ok, running s = true → s.boot.perstMgt = true → let v := settleUnknown 256 s
      cqRoom (qpOf v fn q) = false → exec (.commandCompletion fn q ok) s = .next v) ∧
    (running s = true → (qpOf s fn q).ien = true → (qpOf s fn q).unsignalled ≠ 0 → (qpOf s fn q).ready = true →
      ∃ u, exec (.coalTimer fn q) s = .next u ∧ u.clk = max s.clk ((qpOf s fn q).oldest + (qpOf s fn q).coalUs * 1000) ∧
        u.outs = s.outs ++ [.msix fn (qpOf s fn q).vector] ∧ qpOf u fn q = { qpOf s fn q with unsignalled := 0 } ∧ u.mem = s.mem)

/-- R18, R136, R141, R142, R204, R243, R601, R626, R710, R833, R836, R837, R861: accesses of registers over the management port. A write that is not
aligned, or not of 4 or 8 bytes, is an access error; legal fields take their values, an illegal one stays and sets the bit that says so;
a 64-bit register's low half is held until its high half is written. EN of a fabric port sets its logical ports training, or disables them.
What the queue registers, doorbells and the mailbox do; what reads of FTIME and HYS_DROPPED return, latch and clear; what is left of a
function that is reset, or that NUMVFS takes away. What it takes from the model and not from a rule: log entries 114, 115, 116, 117, 118. -/
def Obligations.RegisterAccesses : Prop :=
  ∀ (fn q v : Nat) (s : State), mgmtUp s = true → fnExists s fn = true → let w := wakeChip s
    (∀ off size, exec (.registerWrite fn off size v) s = .next (writeBar s fn off size v)) ∧
    (∀ off size, (size ≠ 4 ∧ size ≠ 8) ∨ off % size ≠ 0 → exec (.registerWrite fn off size v) s = .next (accessError w fn)) ∧
    (accessError w fn).hys.evq = w.hys.evq ∧ (fnOf (accessError w fn) fn).accessError = true ∧ Quiet w (accessError w fn) ∧
    -- a register of two fields; a 64-bit register in one write and in two
    (running s = true →
      (bits v 0 10 ≤ 1000 → bits v 10 10 ≤ 1000 → ∃ u, exec (.registerWrite 0 rCombine 4 v) s = .next u ∧
        regField u rCombine 0 10 = bits v 0 10 ∧ regField u rCombine 10 10 = bits v 10 10 ∧
        (∀ off, off ≠ rCombine → regWord u off = regWord w off) ∧ u.mem = s.mem) ∧
      (1000 < bits v 0 10 → bits v 10 10 ≤ 1000 → ∃ u, exec (.registerWrite 0 rCombine 4 v) s = .next u ∧
        regField u rCombine 0 10 = regField w rCombine 0 10 ∧ regField u rCombine 10 10 = bits v 10 10 ∧ regField u rCohStatus 0 1 = 1) ∧
      (q < qpairs fn → (qpOf w fn q).en = false →
        (∃ u, exec (.registerWrite fn (0x100 + 32 * q) 8 v) s = .next u ∧
          qpOf u fn q = { qpOf w fn q with sqBase := v % 2 ^ 64 / 4096 } ∧ (∀ k, k ≠ q → qpOf u fn k = qpOf w fn k) ∧ Quiet w u) ∧
        (∃ u, exec (.registerWrite fn (0x100 + 32 * q) 4 v) s = .next u ∧ kfind (fnOf u fn).lowHalf (0x100 + 32 * q) = some (v % 2 ^ 32) ∧
          (∀ k, qpOf u fn k = qpOf w fn k) ∧ Quiet w u) ∧
        (∀ low, kfind (fnOf w fn).lowHalf (0x100 + 32 * q) = some low → ∃ u, exec (.registerWrite fn (0x104 + 32 * q) 4 v) s = .next u ∧
          qpOf u fn q = { qpOf w fn q with sqBase := (low + v % 2 ^ 32 * 2 ^ 32) / 4096 } ∧ Quiet w u) ∧
        (kfind (fnOf w fn).lowHalf (0x100 + 32 * q) = none →
          exec (.registerWrite fn (0x104 + 32 * q) 4 v) s = .next (accessError w fn)))) ∧
    (running s = true →
      (bits v 0 4 ≤ 10 → bits v 4 3 ≤ 4 → ∃ u, exec (.poolHeatCfgWrite v) s = .next u ∧ regField u rPoolHeat 0 4 = bits v 0 4 ∧
        regField u rPoolHeat 4 3 = bits v 4 3 ∧ regField u rPoolHeat 8 8 = regField w rPoolHeat 8 8 ∧
        (regField w rPoolHeat 0 4 = bits v 0 4 → u.mem = s.mem) ∧
        (regField w rPoolHeat 0 4 ≠ bits v 0 4 → u.mem = { s.mem with periodAt := w.clk })) ∧
      (10 < bits v 0 4 → ∃ u, exec (.poolHeatCfgWrite v) s = .next u ∧ regField u rPoolHeat 0 4 = regField w rPoolHeat 0 4 ∧
        regField u rPoolMode 1 1 = 1 ∧ u.mem = s.mem) ∧
      (bits v 0 10 ≤ 1000 → bits v 10 6 ≤ 50 → bits v 16 8 ≤ bits v 24 8 → bits v 24 8 ≤ 50 →
        let was := regField w rPoolPolicy 0 10
        let now := bits v 0 10
        ∃ u, exec (.poolPolicyCfgWrite v) s = .next (settle hooks u) ∧ regField u rPoolPolicy 0 10 = now ∧
          regField u rPoolPolicy 10 6 = bits v 10 6 ∧ regField u rPoolPolicy 16 8 = bits v 16 8 ∧ regField u rPoolPolicy 24 8 = bits v 24 8 ∧
          (now = was → u.mem.nextScan = s.mem.nextScan) ∧ (now ≠ was → now = 0 → u.mem.nextScan = none) ∧
          (now ≠ was → was = 0 → u.mem.nextScan = some (w.clk + now * 1000000)) ∧
          (now ≠ was → was ≠ 0 → now ≠ 0 → u.mem.nextScan = some (max w.clk (s.mem.scanAt + now * 1000000))) ∧
          (bits v 10 6 ≠ 0 → ∀ e ∈ u.mem.moves, e.2.suspended = false) ∧ u.mem.tier = s.mem.tier ∧ u.mem.bytes = s.mem.bytes) ∧
      (bits v 0 10 ≤ 1000 → bits v 10 6 ≤ 50 → bits v 16 8 ≤ 50 → bits v 24 8 < bits v 16 8 →
        exec (.poolPolicyCfgWrite v) s = .next (setField w rPoolMode 1 1 1)) ∧
      (q < 128 →
        (bits v 1 2 = 3 ∨ (v.testBit 3 = true ∧ q < 96) → exec (.portCfgEnSet q v) s = .next (setField w (rPortStatus q) 21 1 1) ∧
          exec (.portCfgEnClear q v) s = .next (setField w (rPortStatus q) 21 1 1)) ∧
        (bits v 1 2 ≠ 3 → (v.testBit 3 = true → 96 ≤ q) →
          ((regWord w (rPort q)).testBit 0 = false → w.ras.halt = 0 → isFenced w (q / 8) = false →
            ∃ u, exec (.portCfgEnSet q v) s = .next u ∧ regWord u (rPort q) = setBits v 0 1 1 % 32 ∧
              (∀ n ∈ lportsOf u q, (lportOf u n).link = .detect) ∧ (∀ n, n / 4 ≠ q → lportOf u n = lportOf w n) ∧ u.mem = s.mem) ∧
          ((regWord w (rPort q)).testBit 0 = true → bits v 1 3 ≠ bits (regWord w (rPort q)) 1 3 →
            exec (.portCfgEnClear q v) s = .next (setField w (rPortStatus q) 21 1 1)) ∧
          ((regWord w (rPort q)).testBit 0 = true → bits v 1 3 = bits (regWord w (rPort q)) 1 3 → splitOf w q = 0 →
            cutFrom w (4 * q) = none → ∃ u, exec (.portCfgEnClear q v) s = .next u ∧ regWord u (rPort q) = setBits v 0 1 0 % 32 ∧
              (lportOf u (4 * q)).link = .disabled))) ∧
      -- queue pairs
      (∃ u, exec (.qreset fn) s = .next u ∧ (∀ k, (qpOf u fn k).en = false) ∧ (fn = 0 → u.hys.evq.en = false) ∧ Quiet w u) ∧
      (q < qpairs fn →
        (1 ≤ bits v 1 4 → bits v 1 4 ≤ 12 → 1 ≤ bits v 5 4 → bits v 5 4 ≤ 12 → bits v 9 7 < vectors fn → bits v 17 8 ≠ 0 → bits v 25 10 ≤ 1000 →
          let x := qpOf w fn q
          (x.en = false → ∃ u, exec (.qpEnable fn q v) s = .next u ∧ qpOf u fn q = { x with
              en := true, ready := true, error := false, sqLog2 := bits v 1 4, cqLog2 := bits v 5 4, vector := bits v 9 7, ien := v.testBit 16,
              coalCount := bits v 17 8, coalUs := bits v 25 10, sqHead := 0, sqTail := 0, cqHead := 0, cqTail := 0, phase := true,
              unsignalled := 0 } ∧ (∀ k, k ≠ q → qpOf u fn k = qpOf w fn k) ∧ Quiet w u) ∧
          (x.en = true → bits v 1 4 = x.sqLog2 → bits v 5 4 = x.cqLog2 → ∃ u, exec (.qpDisable fn q v) s = .next u ∧
            (qpOf u fn q).en = false ∧ (qpOf u fn q).ready = false ∧ (qpOf u fn q).error = false ∧
            (∀ i ∈ (fnOf u fn).inFlight, i.qp = q → i.orphan = true) ∧ (∀ k, k ≠ q → qpOf u fn k = qpOf w fn k) ∧ Quiet w u)) ∧
        (bits v 1 4 = 0 → ∃ u, exec (.qpEnable fn q v) s = .next u ∧ (fnOf u fn).cfgReject = true ∧ (∀ k, qpOf u fn k = qpOf w fn k) ∧ Quiet w u) ∧
        ((qpOf w fn q).en = true → (qpOf w fn q).error = false → let x := qpOf w fn q
          let n := 2 ^ x.cqLog2
          (v % 4096 < 2 ^ x.sqLog2 → x.cqHead < n → x.cqHead < 4096 → ∃ u, exec (.dbWrite fn q 0 v) s = .next u ∧
            qpOf u fn q = { x with sqTail := v % 4096 } ∧ (∀ k, k ≠ q → qpOf u fn k = qpOf w fn k) ∧ Quiet w u) ∧
          (x.sqTail < 2 ^ x.sqLog2 → x.sqTail < 4096 → v % 4096 < n → (v % 4096 + n - x.cqHead) % n ≤ (x.cqTail + n - x.cqHead) % n →
            ∃ u, exec (.dbWrite fn q 1 v) s = .next u ∧ qpOf u fn q = { x with cqHead := v % 4096 } ∧ Quiet w u) ∧
          (let h := v / 2 ^ 32 % 4096
           v % 4096 < 2 ^ x.sqLog2 → h < n → (h + n - x.cqHead) % n ≤ (x.cqTail + n - x.cqHead) % n →
            ∃ u, exec (.dbWrite fn q 2 v) s = .next u ∧ qpOf u fn q = { x with sqTail := v % 4096, cqHead := h } ∧ Quiet w u) ∧
          (2 ^ x.sqLog2 ≤ v % 4096 → ∃ u, exec (.dbWrite fn q 0 v) s = .next u ∧ (qpOf u fn q).error = true ∧ (qpOf u fn q).ready = false)))) ∧
    -- the recovery mailbox
    (∀ len off, s.boot.phase = .recovery → s.boot.mbx.busy = false → len < 2 ^ 17 → off < 2 ^ 26 → let m := w.boot.mbx
      (off = m.staged.length → 0 < len → len ≤ 65536 → off + len ≤ 67108864 →
        (∃ u, exec (.mbxGo len off) s = .next u ∧
          u.boot.mbx = { m with staged := m.staged ++ readBytes m.data 0 len, busy := false, done := true, err := 0 } ∧
          u.outs = w.outs ++ [.msix 0 65]) ∧
        (∃ u, exec (.mbxLast len off) s = .next u ∧
          u.boot.mbx = { m with staged := m.staged ++ readBytes m.data 0 len, busy := true, done := false, err := 0 } ∧ u.outs = w.outs)) ∧
      (off ≠ m.staged.length ∨ len = 0 ∨ 65536 < len → exec (.mbxGo len off) s = .next (mbxDone (dropLow w 0 0x2000) 1)) ∧
      (off = m.staged.length → 0 < len → len ≤ 65536 → 67108864 < off + len →
        exec (.mbxGo len off) s = .next (mbxDone (dropLow w 0 0x2000) 2)) ∧
      (∃ u, exec .mbxAbort s = .next u ∧ u.boot.mbx = { m with staged := [], busy := false, done := true, err := 6 } ∧
        u.outs = w.outs ++ [.msix 0 65])) ∧
    -- reads
    (running s = true →
      (∃ u, exec (.ftimeRead 0) s = .next u ∧ u.outs = w.outs ++ [.regRead 0 rFtime (w.ftime.toNat % 2 ^ 32)] ∧
        u.tk = { w.tk with latch := some (w.ftime.toNat / 2 ^ 32) } ∧ u.mem = s.mem) ∧
      (∃ u, exec (.ftimeRead 1) s = .next u ∧
        u.outs = w.outs ++ [.regRead 0 (rFtime + 4) (w.tk.latch.getD (w.ftime.toNat / 2 ^ 32))] ∧
        u.tk = { w.tk with latch := none } ∧ u.mem = s.mem) ∧
      exec (.ftimeRead 2) s = .next (emit w (.regRead 0 rFtime w.ftime.toNat))) ∧
    (∃ u, exec (.hysDroppedRead fn) s = .next u ∧
      u.outs = w.outs ++ [.regRead fn 0x18 ((fnOf w fn).droppedCompletions + 2 ^ 16 * (fnOf w fn).droppedEvents)] ∧
      (fnOf u fn).droppedCompletions = 0 ∧ (fnOf u fn).droppedEvents = 0 ∧ Quiet w u) ∧
    -- functions
    (∀ n en, n ≤ 1024 → ∃ u, exec (.numvfsWrite n en) s = .next u ∧ u.hys.numVfs = n ∧ u.hys.vfEnable = en ∧
      (∀ k, k = 0 ∨ (en = true ∧ k ≤ n) → fnOf u k = fnOf s k) ∧ u.mem = s.mem ∧ u.lports = s.lports) ∧
    (∃ u, exec (.functionLevelReset fn) s = .next u ∧ (fnOf u fn).qps = [] ∧ (fnOf u fn).done = [] ∧ (fnOf u fn).accessError = false ∧
      (∀ i ∈ (fnOf u fn).inFlight, i.orphan = true) ∧ (∀ m, m ≠ fn → fnOf u m = fnOf s m) ∧ u.mem = s.mem ∧ u.lports = s.lports)

/-- R908 to R915, R918 to R922: power, resets and the firmware bundle. Power-on with SYS_RESET_N high and the end of a reset come to
recovery; the loss of the input and a reset leave nothing of memory, tables or keys; a good bundle brings the switch up and
ready, a bad one is discarded; the management link's reset resets every function, a host bridge's fails its agent. What it takes
from the model and not from a rule: log entries 4, 119, 120. -/
def Obligations.PowerUpAndBundle : Prop :=
  ∀ (s : State) (k : Nat),
    (s.boot.phase = .unpowered → exec .powerOn s = .next (coldStart s (if s.boot.sysReset then .recovery else .reset))) ∧
    exec .inputFail s = .next (coldStart s .unpowered) ∧
    (∀ ph, let t := coldStart s ph
      t.boot.phase = ph ∧ t.mem.bytes = [] ∧ t.mem.tier = [] ∧ t.parts = [] ∧ t.xl = State.reset.xl ∧ t.coh = State.reset.coh ∧
        t.core = State.reset.core ∧ t.fab = State.reset.fab ∧ t.sec = State.reset.sec ∧ t.lports = State.reset.lports ∧
        t.hys = State.reset.hys ∧ t.boot.bundle = [] ∧ t.ftime = 0#64 ∧ t.pending = s.pending) ∧
    (s.boot.phase ≠ .unpowered → ∃ u, exec .sysResetAssert s = .next u ∧ u.boot.phase = .reset ∧ u.boot.sysReset = false ∧
      u.mem.bytes = [] ∧ u.parts = [] ∧ u.sec = State.reset.sec) ∧
    (s.boot.phase = .reset → exec .sysResetDeassert s = .next { s with boot := { s.boot with sysReset := true, phase := .recovery } }) ∧
    (s.boot.phase = .recovery → s.boot.mbx.busy = true →
      (∀ err, bundleErr s.part s.boot.mbx.staged = err → err ≠ 0 →
        ∃ u, exec .bundleVerifyDone s = .next u ∧ u.boot.phase = .recovery ∧ u.boot.bundleFault = true ∧
          u.boot.mbx = { s.boot.mbx with staged := [], busy := false, done := true, err := err } ∧ u.fm = s.fm ∧ faultLow u = true) ∧
      (bundleErr s.part s.boot.mbx.staged = 0 →
        ∃ u, exec .bundleVerifyDone s = .next u ∧ u.boot.phase = .rails ∧ u.boot.bundle = s.boot.mbx.staged ∧ u.boot.bundleFault = false ∧
          u.boot.mbx = { s.boot.mbx with busy := false, done := true, err := 0 } ∧ u.mem = s.mem ∧ u.parts = s.parts)) ∧
    (s.boot.phase = .rails → ∃ u, exec .hbmInitDone s = .next u ∧ running u = true ∧ u.boot.hbLink = s.boot.hbPerst ∧
      u.fm.managers = ((managerList (bundlePart s.boot.bundle 7)).getD ([], 0)).1 ∧ u.parts = s.parts ∧ u.lports = s.lports) ∧
    (running s = true → ∃ u, exec .perstMgtAssert s = .next u ∧ u.boot.perstMgt = false ∧ u.hys.numVfs = 0 ∧ u.hys.vfEnable = false ∧
      u.sec.spdm = 0 ∧ u.sec.sessions = [] ∧ u.sec.ide = [] ∧ (∀ e ∈ u.parts, e.2.tdi = .unlocked) ∧ (fnOf u 0).qps = [] ∧
      u.mem = s.mem ∧ u.lports = s.lports) ∧
    exec .perstMgtDeassert s = .next { s with boot := { s.boot with perstMgt := true } } ∧
    (running s = true → k < 4 →
      ∃ u, exec (.hbPerstAssert k) s = .next (settle hooks u) ∧ u.boot.hbPerst = s.boot.hbPerst.set k false ∧
        u.boot.hbLink = s.boot.hbLink.set k false ∧ (∀ e ∈ u.coh.decoders, e.1 / 16 = k → e.2.sizeGib = 0) ∧
        (∀ h ∈ u.coh.hostHeld, h / 2 ^ 48 ≠ k) ∧ (∀ b ∈ u.coh.biSnoops, b.bridge ≠ k) ∧ (∀ b ∈ u.coh.bridgeOps, b.bridge ≠ k) ∧
        -- the bridge's agent has failed, and the holds on its requests are released
        (∀ n d x a, (lportOf s (512 + k)).node = some n → domOf s d = some x → kfind x.members a = some n → isFailed u d a = true) ∧
        (∀ id o, s.ing.outs = [(id, o)] → o.p.lport = 512 + k → o.phase = .unanswered → u.ing.outs = []) ∧
        (s.ing.outs = [] → u.mem = s.mem)) ∧
    (running s = false → k < 4 → ∃ u, exec (.hbPerstAssert k) s = .next u ∧ u.boot.hbPerst = s.boot.hbPerst.set k false ∧
      u.boot.hbLink = s.boot.hbLink.set k false ∧ u.coh = s.coh ∧ u.mem = s.mem) ∧
    (running s = true → k < 4 → s.ras.halt = 0 → exec (.hbPerstDeassert k) s = .next (startHealth { s with boot := { s.boot with
      hbPerst := s.boot.hbPerst.set k true, hbLink := s.boot.hbLink.set k true } } (512 + k))) ∧
    (running s = false → k < 4 → exec (.hbPerstDeassert k) s = .next { s with boot := { s.boot with hbPerst := s.boot.hbPerst.set k true } })

/-- R960, R964 to R970: Lantern's ring and the health log are read from a number on; the test access port's instructions, of which
EXTEST, CLAMP and HIGHZ act only where the policy allows them in recovery or halt; the debug unlock destroys every key. What it
takes from the model and not from a rule: log entries 111, 112, 125, 126, 127. -/
def Obligations.RingsAndTestPort : Prop :=
  ∀ (c : Cmd) (s : State),
    (let sp : CmdSpec := { pf0 := true, group := 0x1B, verb := 1, args := [(0, 4), (4, 4)] }
     CmdRuns s c sp none true → arg c 4 4 ≤ 16777215 →
      exec (.lanternRead c) s = .next (completeRing (startCmd s c sp) (cmdRef c) (arg c 0 4)
        (ringFrom s.lan.ring s.lan.next (arg c 0 4) (arg c 4 4)))) ∧
    (∀ ring next first count, (ringFrom ring next first count).length ≤ count ∧ (∀ e ∈ ringFrom ring next first count, e ∈ ring) ∧
      (next < 2 ^ 32 → next < first → ringFrom ring next first count = [])) ∧
    (let sp : CmdSpec := { pf0 := true, group := 0x1B, verb := 2, args := [(0, 4), (4, 4)] }
     CmdRuns s c sp none true → arg c 4 4 ≤ 16777215 →
      exec (.lanternLogRead c) s = .next (completeRing (startCmd s c sp) (cmdRef c) (arg c 0 4)
        (ringFrom s.lan.log s.lan.logNext (arg c 0 4) (arg c 4 4)))) ∧
    (let sp : CmdSpec := { pf0 := true, group := 0x1B, verb := 3 }
     CmdRuns s c sp none true → exec (.lanternStats c) s = .next (complete (startCmd s c sp) (cmdRef c) 0 0
      (leBytes 8 (ctr s (.lantern 0)) ++ leBytes 8 (ctr s (.lantern 1)) ++ leBytes 8 (ctr s (.lantern 2)) ++
       leBytes 8 (ctr s (.lantern 3)) ++ leBytes 8 (ctr s (.lantern 4))))) ∧
    (s.boot.phase ≠ .unpowered → let tap := fun (i : TapInstr) (o : Out) =>
        ({ s with tap := { s.tap with instr := i }, outs := s.outs ++ [o] } : State)
      let scan := fun (i : TapInstr) (p m t f : Bool) (x : Nat) =>
        ({ s with tap := { s.tap with instr := i, cells := x % 2 ^ 16 },
                  outs := s.outs ++ [.tdo 16 (boundary { s with tap := { s.tap with instr := i } } p m t f)] } : State)
      exec .idcode s = .next (tap .idcode (.tdo 32 (idcodeWord s.part))) ∧
      exec .bypass s = .next (tap .bypass (.tdo 1 0)) ∧
      exec .jtagTrst s = .next { s with tap := { s.tap with instr := .idcode } } ∧
      (∀ p m t f x, exec (.samplePreload p m t f x) s = .next (scan .samplePreload p m t f x)) ∧
      (extestOk s = true → (∀ p m t f x, exec (.extest p m t f x) s = .next (scan .extest p m t f x)) ∧
        exec .clamp s = .next (tap .clamp (.tdo 1 0)) ∧ exec .highz s = .next (tap .highz (.tdo 1 0))) ∧
      (extestOk s = false → (∀ p m t f x, exec (.extest p m t f x) s = .next (tap .bypass (.tdo 1 0))) ∧
        exec .clamp s = .next (tap .bypass (.tdo 1 0)) ∧ exec .highz s = .next (tap .bypass (.tdo 1 0))) ∧
      (s.ras.rngOk = true → s.ras.rngFailed = false → ∃ u, exec .debugStatus s = .next u ∧
        u.tap = { s.tap with instr := .debugStatus, nonce := some (randomBytes s 32) } ∧ u.mem = s.mem ∧
        u.outs = s.outs ++ [.tdo 384 (debugWord s (randomBytes s 32))]) ∧
      (∀ token, unlockOk s = true → tokenOk s token = true → ∃ u, exec (.debugUnlock token) s = .next u ∧ u.tap.unlocked = true ∧
        u.tap.nonce = none ∧ (∀ e ∈ u.lports, e.2.sec = {}) ∧ u.sec.kex = [] ∧ u.sec.sessions = [] ∧ u.sec.ide = [] ∧
        regField u rDebugPolicy 3 1 = 1) ∧
      (∀ token, unlockOk s = false ∨ tokenOk s token = false → exec (.debugUnlock token) s = .next { s with tap := { s.tap with
        nonce := none, instr := .debugUnlock, refused := true } }))

/-- R310 to R313, R316 to R319, R322, R323, R369, R370, R782, R783: the events of steps. A queued step runs as far as its operands
allow: it has passed, or stalls; a stalled one goes on; one that has passed commits, or is replayed for a cell's error, which
becomes SUSPECT; equal shadows let it commit, others wait for a referee's verdict; scrubs, and the grants and promotions of a
block's arbiter. A word of the block that is found bad as the step starts is loaded anew, and a cell's makes the cell SUSPECT; in a
block that lacks a cell or its tile no step passes. What it takes from the model and not from a rule: log entries 2, 57, 58, 59, 62,
176, 177. -/
def Obligations.StepEvents : Prop :=
  ∀ (u id : Nat) (j : Job) (s : State), running s = true →
    (unitJob s u = some (id, j) →
      -- a step starts in a Lit region, where the words of its block are found good, or one is found bad; elsewhere it wakes the region
      (j.stage = .queued → jobOf s id = some j → (∀ b, j.block = some b → isLit s (b / 16) = true) →
        (u < 2 ^ 64 → isBroken s id = false →
          exec (.stepStart u) s = .next (settle hooks (runStep (bankStep (chooseShadow s id) j stepWords) id))) ∧
        (u < 2 ^ 64 → isBroken s id = true → exec (.stepStart u) s = .next (settle hooks (abandon s id 3))) ∧
        (∀ b p, u < 256 → j.block = some b → p < 36 → let t := afterFaults s (wordErrors s b [p]); (jobOf t id).bind (·.block) = some b →
          (isBroken t id = false →
            exec (.stepStart (u + 2 ^ (64 + p))) s = .next (settle hooks (runStep (bankStep (chooseShadow t id) j stepWords) id))) ∧
          (isBroken t id = true → exec (.stepStart (u + 2 ^ (64 + p))) s = .next (settle hooks (abandon t id 3))))) ∧
      (∀ b, u < 2 ^ 64 → j.stage = .queued → j.block = some b → isLit s (b / 16) = false → isLit (wakeRegion s (b / 16)) (b / 16) = false →
        exec (.stepStart u) s = .next (settle hooks (wakeRegion s (b / 16)))) ∧
      (j.stage = .stalled → j.wait = [] → exec (.stepResume u) s = .next (settle hooks (runStep (stallEnd s j) id))) ∧
      (j.stage = .stalled → j.wait ≠ [] → exec (.stepResume u) s = .next (settle hooks s)) ∧
      (j.stage = .done → j.shadowed = false →
        exec (.stepCommit u []) s = .next (settle hooks (afterFaults s (finishStep (bankStep s j commitWords) id []))) ∧
        ∀ e bad, exec (.stepCommit u (e :: bad)) s = .next (settle hooks (afterFaults s (finishStep s id (e :: bad))))) ∧
      (j.stage = .done → j.checked = false → j.shadow.isSome = true → jobOf s id = some j →
        (∃ v, exec (.shadowCompare u true) s = .next (settle hooks v) ∧ jobOf v id = some { j with shadow := none, checked := true } ∧
          v.mem = s.mem ∧ v.lports = s.lports) ∧
        (∃ v, exec (.shadowCompare u false) s = .next (settle hooks v) ∧
          jobOf v id = some { j with stage := .referee, waitSince := some s.clk } ∧ v.mem = s.mem ∧ v.lports = s.lports)) ∧
      (∀ i x b h, j.stage = .referee → j.inst = some i → instOf s i = some x → j.block = some b → j.shadow = some h →
        (refereeFor s x b h).isSome = true → wickDecides s = true →
        let pass := fun (v : State) => modJob v id fun j => { j with stage := .done, shadow := none, checked := true, waitSince := none }
        let print := fun (b : Nat) => (b / 16, (regionAvg s (b / 16)).tj, (regionAvg s (b / 16)).mv.toNat)
        -- against the shadow block, against the primary, against both
        (∃ v, exec (.refereeDone u 1) s = .next (settle hooks (afterFaults s (finishStep (pass (blockFault v h)) id []))) ∧
          v.ras.prints = s.ras.prints ++ [print h] ∧ v.fab = s.fab ∧ v.mem = s.mem) ∧
        (∃ v, exec (.refereeDone u 2) s = .next (settle hooks (afterFaults s (blockFault (finishStep (pass v) id []) b))) ∧
          v.ras.prints = s.ras.prints ++ [print b] ∧ v.fab = s.fab ∧ v.mem = s.mem) ∧
        (∃ v, v.ras.prints = s.ras.prints ++ [print h, print b] ∧ v.fab = s.fab ∧ v.mem = s.mem ∧
          let w := blockFault (modJob v id fun j => { j with shadow := none, waitSince := none }) h
          exec (.refereeDone u 3) s = .next (settle hooks (afterFaults s (blockFault
            (if j.replayed then abandon w id 3 else replay (modJob w id fun j => { j with replayed := true }) id) b)))))) ∧
    -- what a step does where it has passed, stalls, commits, or is replayed
    (jobOf s id = some j →
      (∀ o, jobStep s j = .done o → j.shadowed = false → ∃ v, runStep s id = v ∧ jobOf v id = some { j with stage := .done } ∧ v.mem = s.mem) ∧
      (∀ b, j.block = some b → (blk s b).suspects = [] → finishStep s id [] = commitStep s id) ∧
      (∀ o i t g b, jobStep s j = .done o → j.kind = .image i t g → j.block = some b → commitStep s id = commitImage s id i t g b o) ∧
      (∀ b p, j.block = some b → p < 34 → (blk s b).retired = false → broken (blk s b) = false → cellInUse (blk s b) p = true →
        (blk s b).suspects.contains p = false → b < 256 → ∃ v, finishStep s id [p] = v ∧
          jobOf v id = some { j with stage := .queued, cache := [], wait := [], shadow := none, checked := false, waitSince := none } ∧
          (blk v b).suspects = (blk s b).suspects ++ [p] ∧ v.mem = s.mem)) ∧
    (∀ im t o x, (commitBlk im t o x).steps = x.steps + 1) ∧
    -- a word found bad: its cell becomes SUSPECT; the tile's word and the routes are only loaded anew
    (∀ b p, p < 34 → (blk s b).retired = false → cellInUse (blk s b) p = true → (blk s b).suspects.contains p = false →
      ∃ v, wordErrors s b [p] = v ∧ (blk v b).suspects = (blk s b).suspects ++ [p] ∧ v.mem = s.mem ∧ v.fab.jobs = s.fab.jobs) ∧
    (∀ b p, p = 34 ∨ p = 35 → ∃ v, wordErrors s b [p] = v ∧ v.fab = s.fab ∧ v.mem = s.mem) ∧
    -- scrubs and the block arbiter
    (u < 256 →
      (∃ v, exec (.configScrub u []) s = .next (settle hooks v) ∧ v.clk = max s.clk ((blk s u).scrubAt + 1000000) ∧
        blk v u = { blk s u with scrubAt := v.clk } ∧ (∀ b, b ≠ u → blk v b = blk s b) ∧ v.mem = s.mem) ∧
      (∃ v, exec (.blockArbGrant u) s = .next v ∧ blk v u = { blk s u with arb := bankGrant s.clk (bankClocks s u) (blk s u).arb } ∧
        (∀ b, b ≠ u → blk v b = blk s b) ∧ v.mem = s.mem ∧ v.clk = s.clk) ∧
      (∀ p t, (blk s u).arb.pending.find? (fun q => q.id = id) = some p → bankDue s u p = some t →
        ∃ v, exec (.blockArbPromote u id) s = .next v ∧ v.clk = max s.clk t ∧
          (blk v u).arb.pending = (blk s u).arb.pending.map (fun q => if q.id = id then { q with promoted := true } else q) ∧
          (∀ b, b ≠ u → blk v b = blk s b) ∧ v.mem = s.mem))

/-- R348 to R352, R364 to R367, R294, R336, R347, R372, R159: the PROG commands. A program that passes the checks is bound and its
handle returned; a replacement takes effect between RUNs; an unloading answers the RUNs that wait with DENIED; the reads return
what an instance holds; the partition's signing key and quota are written. What it takes from the model and not from a rule: log
entries 53, 54, 55, 111, 112. -/
def Obligations.ProgramCommands : Prop :=
  ∀ (c : Cmd) (s : State), let n := c.partition.toNat
    (let sp : CmdSpec := { group := 0x0D, verb := 1, args := [(0, 4)], acts := .field }
     ∀ b, CmdRuns s c sp none true → 1 ≤ arg c 0 4 → arg c 0 4 ≤ 9 → Config.libraryImage (bundlePart s.boot.bundle 2) (arg c 0 4) = some b →
      (∀ st k, imageCheck (startCmd s c sp) (fieldPart c) 1 b = some (st, k) →
        exec (.progLoadLib c) s = .next (complete (startCmd s c sp) (cmdRef c) (st + 256 * k) 0 [])) ∧
      (imageCheck (startCmd s c sp) (fieldPart c) 1 b = none →
        exec (.progLoadLib c) s = .next (settle hooks (loadImage (startCmd s c sp) c (fieldPart c) (some (arg c 0 4)) b)))) ∧
    (let sp : CmdSpec := { group := 0x0D, verb := 2, host := true, acts := .field }
     CmdRuns s c sp none true →
      (∀ st k, imageCheck (startCmd s c sp) (fieldPart c) 2 (hostImage c) = some (st, k) →
        exec (.progLoad c) s = .next (complete (startCmd s c sp) (cmdRef c) (st + 256 * k) 0 [])) ∧
      (imageCheck (startCmd s c sp) (fieldPart c) 2 (hostImage c) = none →
        exec (.progLoad c) s = .next (settle hooks (loadImage (startCmd s c sp) c (fieldPart c) none (hostImage c))))) ∧
    (∀ v part lib im,
      (∀ k, bindInst v part lib im = .inr k → loadImage v c part lib im = complete v (cmdRef c) (9 + 256 * k) 0 []) ∧
      (∀ t i x, bindInst v part lib im = .inl (some (t, i)) → instOf t i = some x →
        ∃ w, loadImage v c part lib im = complete w (cmdRef c) 0 (i + 2 ^ 12 * x.part + 2 ^ 22 * x.gen) [] ∧ w.fab = t.fab ∧ w.mem = t.mem)) ∧
    (let sp : CmdSpec := { group := 0x0D, verb := 3, host := true, args := [(0, 8)], acts := .object }
     ∀ i x, CmdRuns s c sp (progPart s c) (progMine s c) → progOf s c = some (i, x) → x.lib = none →
      imageCheck (startCmd s c sp) x.part 2 (hostImage c) = none → (kget s.fab.progs x.part {}).expert = true →
      imagePart (hostImage c) 1 = imagePart x.image 1 → x.unload = none →
      (x.replace.isSome = true → exec (.progReplace c) s = .next (complete (startCmd s c sp) (cmdRef c) 2 0 [])) ∧
      (x.replace = none → x.run.isSome = true → ∃ u, exec (.progReplace c) s = .next (settle hooks u) ∧
        instOf u i = some { x with replace := some (hostImage c, cmdRef c) } ∧ u.mem = s.mem) ∧
      (x.replace = none → x.run = none → ∃ u, exec (.progReplace c) s = .next (settle hooks (complete u (cmdRef c) 0 0 [])) ∧
        instOf u i = some { x with image := hostImage c, measure := Config.shake256 32 (hostImage c) } ∧ u.mem = s.mem)) ∧
    (let sp : CmdSpec := { group := 0x0D, verb := 4, args := [(0, 8)], acts := .object }
     ∀ i x, CmdRuns s c sp (progPart s c) (progMine s c) → progOf s c = some (i, x) →
      ∃ u, exec (.progUnload c) s = .next (settle hooks (unloadGo (x.queue.foldl (fun s r => holdEnd (refuse s r.dest .run r.p 5) r.hold) u) i)) ∧
        instOf u i = some { x with queue := [], unload := some (x.unload.getD [] ++ [cmdRef c]) } ∧ u.mem = s.mem) ∧
    (∀ i x, progOf s c = some (i, x) →
      (let sp : CmdSpec := { group := 0x0D, verb := 5, args := [(0, 8)], acts := .reads }
       CmdRuns s c sp none (progMine s c) → exec (.progInfo c) s =
        .next (complete (startCmd s c sp) (cmdRef c) 0 (programId x.image + 2 ^ 64 * programVersion x.image) [])) ∧
      (let sp : CmdSpec := { group := 0x0D, verb := 6, args := [(0, 8), (8, 4), (12, 4)], acts := .reads }
       CmdRuns s c sp none (progMine s c) → arg c 8 4 < templateCount x.image → arg c 12 4 < 32 → exec (.progCellRead c) s =
        .next (complete (startCmd s c sp) (cmdRef c) 0 0 (leBytes 32 ((cellWords x.image (arg c 8 4)).getD (arg c 12 4) 0)))) ∧
      (let sp : CmdSpec := { group := 0x0D, verb := 7, args := [(0, 8)], acts := .reads }
       -- the time of stalls that last counts until now
       let t := restall (startCmd s c sp)
       CmdRuns s c sp none (progMine s c) → exec (.progStalls c) s = .next (complete t (cmdRef c) 0 0
        (stallRows.flatMap fun e => leBytes 8 (ctr t (.stallNs i e.1 e.2)) ++ leBytes 8 (ctr t (.stallEvents i e.1 e.2))))) ∧
      (let sp : CmdSpec := { group := 0x0D, verb := 8, args := [(0, 8)], acts := .reads }
       CmdRuns s c sp none (progMine s c) → exec (.progCounters c) s = .next (complete (startCmd s c sp) (cmdRef c) 0 0
        (leBytes 8 (ctr s (.prog i 0)) ++ leBytes 8 (ctr s (.prog i 1)) ++ leBytes 8 (ctr s (.prog i 2)) ++ leBytes 8 (ctr s (.prog i 3)) ++
         leBytes 8 (ctr s (.prog i 4)) ++ leBytes 8 (ctr s (.prog i 5)))))) ∧
    (let sp : CmdSpec := { pf0 := true, group := 0x0D, verb := 9, host := true, acts := .field }
     ∀ l, CmdRuns s c sp none true → c.host = some l →
      ∃ u, exec (.progSetSigner c) s = .next (complete u (cmdRef c) 0 0 []) ∧ (kget u.fab.progs n {}).signer = some (sliceBytes l 0 1952) ∧
        (∀ m, m ≠ n → kfind u.fab.progs m = kfind s.fab.progs m) ∧ u.fab.insts = s.fab.insts ∧ u.mem = s.mem ∧
        (partOf u n).tdi = (if (partOf s n).tdi = .locked ∨ (partOf s n).tdi = .run then .error else (partOf s n).tdi)) ∧
    (let sp : CmdSpec := { pf0 := true, group := 0x0D, verb := 10, args := [(0, 8)], acts := .field }
     let w := arg c 0 8
     CmdRuns s c sp none true → bits w 0 9 ≤ 256 → bits w 16 13 ≤ 4096 → 0 < bits w 32 17 → bits w 32 17 ≤ 65536 →
      bits w 9 7 = 0 → bits w 30 2 = 0 → bits w 49 15 = 0 →
      ∃ u, exec (.progSetQuota c) s = .next (complete u (cmdRef c) 0 0 []) ∧
        kfind u.fab.progs n = some { kget s.fab.progs n {} with blocks := bits w 0 9, insts := bits w 16 13, expert := w.testBit 29,
                                                                shadowN := bits w 32 17 } ∧
        (∀ m, m ≠ n → kfind u.fab.progs m = kfind s.fab.progs m) ∧ u.fab.insts = s.fab.insts ∧ u.mem = s.mem)

/-- R379, R391, R417, R424, R431, R438, R440: the COLL commands. COLL.OPEN begins work that reads the descriptor; at the
present coordinator, COLL.CLOSE and COLL.SET_OPT ask the hosts they concern, elsewhere they are DENIED; COLL.REHOST asks the new
host, here where it names a coordinator or this switch is it, or else has the coordinator ask; COLL.STATS reads the counters of every
context here; a stalled node is counted, and reported for each node that it lacks. What it takes from the model
and not from a rule: log entries 2, 66, 68, 70, 111, 112. -/
def Obligations.CollectiveCommands : Prop :=
  ∀ (c : Cmd) (s : State),
    (let sp : CmdSpec := { group := 0x0E, verb := 1, ast := true, acts := .object }
     CmdRuns s c sp (astPart s c.ast.toNat) (astMine s c c.ast.toNat) →
      ∃ u j, exec (.collOpen c) s = .next (settle hooks u) ∧ kfind u.fab.jobs s.nextId = some j ∧ j.kind = .command 0x0E 1 c ∧
        j.dest = .cmd (cmdRef c) ∧ j.stage = .parts ∧ j.p.partition = BitVec.ofNat 10 (tablePart s c) ∧ j.p.ast = c.ast ∧
        (∀ k, k ≠ s.nextId → kfind u.fab.jobs k = kfind s.fab.jobs k) ∧ u.mem = s.mem) ∧
    (∀ ck x, collOf s c = some (ck, x) →
      (let sp : CmdSpec := { group := 0x0E, verb := 2, opts := 1, args := [(0, 8)], acts := .object }
       CmdRuns s c sp (collPart s c) (collMine s c) →
        (x.lead ≠ selfNode s → exec (.collClose c) s = .next (complete (startCmd s c sp) (cmdRef c) 5 0 [])) ∧
        (x.lead = selfNode s → let stage := if opt c 0 then 2 else 0
          exec (.collClose c) s = .next (settle hooks (tellHosts (startCmd s c sp)
            { group := 0x0E, verb := 2, part := x.part, dest := .cmd (cmdRef c), obj := handleOf x, stage := stage, args := ctxHosts x }
            3 2 (handleOf x) (leBytes 4 stage ++ leBytes 20 0) (ctxHosts x) collClosePart)))) ∧
      (let sp : CmdSpec := { group := 0x0E, verb := 3, host := true, args := [(0, 8), (8, 4)], acts := .object }
       CmdRuns s c sp (collPart s c) (collMine s c) →
        (x.lead ≠ selfNode s → exec (.collSetOpt c) s = .next (complete (startCmd s c sp) (cmdRef c) 5 0 [])) ∧
        (x.lead = selfNode s → cdOpt x.desc = 0 → exec (.collSetOpt c) s = .next (complete (startCmd s c sp) (cmdRef c) 6 0 [])) ∧
        (x.lead = selfNode s → cdOpt x.desc ≠ 0 → ∃ r hosts, exec (.collSetOpt c) s = .next (settle hooks (tellHosts (startCmd s c sp) r 4 3
            (handleOf x) (leBytes 4 0 ++ leBytes 4 (arg c 8 4) ++ leBytes 16 0) hosts collOptPart)) ∧
          hosts = ((natRange 0 (cdTrees x.desc)).map fun t => hostOf x (rootOf x.desc x.tree t)).eraseDups ∧
          r.dest = .cmd (cmdRef c) ∧ r.rest = sliceBytes (c.host.getD []) 0 24)) ∧
      -- the new coordinator that COLL.REHOST names, or 0x7FFF for none
      (let sp : CmdSpec := { pf0 := true, group := 0x0E, verb := 5, args := [(0, 8), (8, 4), (12, 4), (16, 4)], acts := .object }
       let known := fun (n : Nat) => n = selfNode s ∨ (kfind s.core.routes n).isSome = true
       CmdRuns s c sp (collPart s c) true →
        (cdNodes x.desc ≤ arg c 8 4 ∨ 2 ^ 15 ≤ arg c 12 4 ∨ 2 ^ 15 ≤ arg c 16 4 →
          exec (.collRehost c) s = .next (complete (startCmd s c sp) (cmdRef c) 6 0 [])) ∧
        (arg c 8 4 < cdNodes x.desc → arg c 12 4 < 2 ^ 15 → arg c 16 4 < 2 ^ 15 →
          (¬known (arg c 12 4) ∨ (arg c 16 4 ≠ 0x7FFF ∧ ¬known (arg c 16 4)) →
            exec (.collRehost c) s = .next (complete (startCmd s c sp) (cmdRef c) 5 0 [])) ∧
          (known (arg c 12 4) → arg c 16 4 ≠ 0x7FFF → known (arg c 16 4) →
            exec (.collRehost c) s = .next (settle hooks (rehost (startCmd s c sp) (.cmd (cmdRef c)) ck (arg c 8 4) (arg c 12 4) (arg c 16 4)))) ∧
          (known (arg c 12 4) → arg c 16 4 = 0x7FFF → x.lead = selfNode s →
            exec (.collRehost c) s = .next (settle hooks (rehost (startCmd s c sp) (.cmd (cmdRef c)) ck (arg c 8 4) (arg c 12 4) x.lead))) ∧
          (known (arg c 12 4) → arg c 16 4 = 0x7FFF → x.lead ≠ selfNode s →
            exec (.collRehost c) s = .next (settle hooks (tellHosts (startCmd s c sp)
              { group := 0x0E, verb := 5, part := x.part, dest := .cmd (cmdRef c), obj := ck, stage := 2 }
              4 5 (handleOf x) (noteArgs 2 0 (arg c 8 4) (arg c 12 4) x.lead 0 0) [x.lead] collResumePart)))))) ∧
    -- every context here that the function sees, its handle and its seven counters
    (let sp : CmdSpec := { group := 0x0E, verb := 4, acts := .reads }
     CmdRuns s c sp none true → exec (.collStats c) s = .next (complete (startCmd s c sp) (cmdRef c) 0 0
      ((s.fab.ctxs.filter fun e => c.fn = 0 || e.2.part = c.fn - 1).flatMap fun e => leBytes 8 (handleOf e.2) ++
        (leBytes 8 (ctr s (.coll e.1 0)) ++ leBytes 8 (ctr s (.coll e.1 1)) ++ leBytes 8 (ctr s (.coll e.1 2)) ++ leBytes 8 (ctr s (.coll e.1 3)) ++
         leBytes 8 (ctr s (.coll e.1 4)) ++ leBytes 8 (ctr s (.coll e.1 5)) ++ leBytes 8 (ctr s (.coll e.1 6)))))) ∧
    (∀ coord id ix x n key, running s = true → ctxOf s (ctxKey coord id) = some x → cnodeOf s (nodeKey (ctxKey coord id) ix) = some n →
      cdStall x.desc ≠ 0 → n.stallTold = false → lowestOpen x n = some key → lacking x n key ≠ [] →
      ∃ u, exec (.collStall coord id ix) s = .next (settle hooks ((lacking x n key).foldl (fun s node =>
          report (((partnerPort s node).map fun l => penal s l 30).getD s) 0x0A node 0x1FF (handleOf x + 2 ^ 48 * n.ix)) u)) ∧
        u.clk = max s.clk (n.lastInput + cdStall x.desc * 1000000) ∧
        cnodeOf u (nodeKey (ctxKey coord id) ix) = some { n with stallTold := true } ∧
        ctr u (.coll (ctxKey coord id) 5) = satAdd 48 (ctr s (.coll (ctxKey coord id) 5)) 1 ∧ u.mem = s.mem)

/-- R441, R445, R447, R450, R466, R471 to R480, R484: the EMB commands, at the table's coordinator; elsewhere they are DENIED. Each
is answered once the switches that it asks have done their part. A row of a step is applied once its lines have been read. What it takes from the model and not from a rule: log entries
66, 72, 73, 111, 112. -/
def Obligations.EmbeddingCommands : Prop :=
  ∀ (c : Cmd) (s : State),
    (let sp : CmdSpec := { group := 0x0F, verb := 1, opts := 1, ast := true, acts := .object }
     CmdRuns s c sp (astPart s c.ast.toNat) (astMine s c c.ast.toNat) →
      ∃ u j, exec (.embCreate c) s = .next (settle hooks u) ∧ kfind u.fab.jobs s.nextId = some j ∧ j.kind = .command 0x0F 1 c ∧
        j.dest = .cmd (cmdRef c) ∧ j.p.ast = c.ast ∧ (∀ k, k ≠ s.nextId → kfind u.fab.jobs k = kfind s.fab.jobs k) ∧ u.mem = s.mem) ∧
    (∀ tk t, embOf s c = some (tk, t) →
      let runs := fun (sp : CmdSpec) => CmdRuns s c sp (embPart s c) (embMine s c) ∧ t.coord = selfNode s
      let shards := shardHosts t.desc t.shards
      (let sp : CmdSpec := { group := 0x0F, verb := 2, args := [(0, 8)], acts := .object }
       (runs sp → exec (.embDestroy c) s = .next (settle hooks (tellEmb (startCmd s c sp) (embRelay c t 2 shards) 7 2 (handleOfTable t) 0 [] []
         (entryNodes s shards) embTake))) ∧
       (CmdRuns s c sp (embPart s c) (embMine s c) → t.coord ≠ selfNode s →
         exec (.embDestroy c) s = .next (complete (startCmd s c sp) (cmdRef c) 5 0 []))) ∧
      (let sp : CmdSpec := { group := 0x0F, verb := 3, host := true, args := [(0, 8), (8, 4), (12, 4)], acts := .object }
       runs sp → arg c 8 4 < 65536 → arg c 12 4 < 65536 → exec (.embSetDefault c) s = .next (settle hooks (tellEmb (startCmd s c sp) (embRelay c t 3 [])
         7 3 (handleOfTable t) 0 (leBytes 4 (arg c 8 4) ++ leBytes 4 (arg c 12 4)) (sliceBytes (c.host.getD []) 0 (codeBytes t.desc))
         (entryNodes s shards) embTake))) ∧
      (let sp : CmdSpec := { group := 0x0F, verb := 4, host := true, args := [(0, 8), (8, 4)], acts := .object }
       let rs := (natRange 0 (arg c 8 4)).map fun k => sliceBytes (c.host.getD []) (recordBytes t.desc * k) (recordBytes t.desc)
       let good := rs.filter fun r => decide (recRow r < tdRows t.desc)
       runs sp → rs.all recordOk = true →
         ((∀ r ∈ rs, tdRows t.desc ≤ recRow r) →
           exec (.embReplaceRows c) s = .next (settle hooks (complete (startCmd s c sp) (cmdRef c) 0 (arg c 8 4) []))) ∧
         (∀ h, (good.map fun r => rowSource t (recRow r)).eraseDups = [h] → h ≠ selfNode s →
           ∃ u, exec (.embReplaceRows c) s = .next (settle hooks (relaySend u s.nextId 8 0x0F 4 t.part 0 (embArgs (handleOfTable t) 0 [])
               (good.flatMap fun r => r) [h])) ∧
             kfind u.fab.relays s.nextId = some (embRelay c t 4 [arg c 8 4 - good.length]) ∧ u.mem = s.mem)) ∧
      (let sp : CmdSpec := { group := 0x0F, verb := 5, args := [(0, 8), (8, 4)], acts := .object }
       runs sp → exec (.embCloseStep c) s = .next (settle hooks (tellEmb (startCmd s c sp) (embRelay c t 5 []) 8 5 (handleOfTable t) 0
         (leBytes 4 (arg c 8 4)) [] shards embTake))) ∧
      (let sp : CmdSpec := { group := 0x0F, verb := 6, args := [(0, 8)], acts := .object }
       runs sp → exec (.embStepInfo c) s = .next (settle hooks (tellEmb (startCmd s c sp)
         (embRelay c t 6 ((natRange 0 (tdShards t.desc)).map (teHost t.shards))) 8 6 (handleOfTable t) 0 [] [] shards embTake))) ∧
      (let sp : CmdSpec := { group := 0x0F, verb := 7, host := true, args := [(0, 8), (8, 4)], acts := .object }
       runs sp →
         (arg c 8 4 ≤ tdHot t.desc → (∀ r ∈ rowList c (arg c 8 4), r < tdRows t.desc) →
           ∃ u, exec (.embHotSet c) s = .next (settle hooks (complete u (cmdRef c) 0 0 [])) ∧
             tableOf u tk = some { t with hotList := (rowList c (arg c 8 4)).eraseDups } ∧ u.mem = s.mem) ∧
         (tdHot t.desc < arg c 8 4 → exec (.embHotSet c) s = .next (settle hooks (complete (startCmd s c sp) (cmdRef c) 6 0 [])))) ∧
      (let sp : CmdSpec := { group := 0x0F, verb := 8, args := [(0, 8)], acts := .object }
       runs sp → exec (.embHotRefresh c) s = .next (settle hooks (tellEmb (startCmd s c sp) (embRelay c t 8 t.hotList) 7 8 (handleOfTable t) 0 []
         (t.hotList.flatMap (leBytes 8)) (entryNodes s shards) embTake))) ∧
      (let sp : CmdSpec := { group := 0x0F, verb := 9, host := true, args := [(0, 8), (8, 4), (12, 4)], acts := .object }
       let rows := (rowList c (arg c 8 4)).eraseDups
       runs sp → shards.contains (arg c 12 4) = true → (∀ r ∈ rows, r < tdRows t.desc) →
         exec (.embMoveRows c) s = .next (settle hooks (tellEmb (startCmd s c sp) (embRelay c t 9 (arg c 12 4 :: rows)) 8 9 (handleOfTable t) 0
           (leBytes 4 (rows.filter fun r => rowSource t r ≠ arg c 12 4 && rowHome t r ≠ arg c 12 4).length) [] [arg c 12 4] embTake))) ∧
      (let sp : CmdSpec := { group := 0x0F, verb := 10, args := [(0, 8)], acts := .reads }
       CmdRuns s c sp none (embMine s c) → exec (.embStats c) s = .next (complete (startCmd s c sp) (cmdRef c) 0 0
         ((natRange 0 12).flatMap fun k => leBytes 8 (ctr s (.emb tk k)))))) ∧
    -- a row of a step that is applied: one that nothing maps counts as missing, another takes its new codes beside the old
    (∀ coord id row t, running s = true → let tk := tableKey coord id
      tableOf s tk = some t →
      let waits := t.applying = false ∨ t.todo.contains row = false ∨ rowMoving t row = true ∨ (∃ e ∈ t.late, leField e.1 0 5 = row) ∨
        rowWorking s tk t row = true ∨ slotBusy s tk t row = true
      (waits → exec (.embRowApply coord id row) s = .next (settle hooks s)) ∧
      (¬waits → exec (.embRowApply coord id row) s = .next (settle hooks (rowWork s tk t row .apply .nobody)))) ∧
    (∀ id j tk t row, jobOf s id = some j → tableOf s tk = some t → j.hold = none →
      -- it waits for the lines that it needs
      (∀ rs, j.wait = [] → j.fail = none → rowGot s t j row (wantCodes .apply) = .need rs → rowGo s id tk row .apply = stall (jobFetch s id rs) id) ∧
      (∃ u, rowDone s id j tk t row .apply none = stepGo u tk 8 ∧ ctr u (.emb tk 8) = satAdd 48 (ctr s (.emb tk 8)) 1 ∧
        tableOf u tk = some { t with todo := t.todo.erase row, bufs := kmod t.bufs t.step fun b => { b with rows := kdel b.rows row } } ∧
        u.mem = s.mem) ∧
      (∀ r sc off g codes, j.block = none → j.stage ≠ .stalled →
        (∀ lo hi, applyRow t.desc r (((kget t.bufs t.step {}).rows.find? fun e => e.1 = row).map (·.2) |>.getD []) lo hi = .new sc off g codes) →
        ∃ u, u.fab = { s.fab with jobs := kdel s.fab.jobs id } ∧ u.mem = s.mem ∧ u.ctrs = s.ctrs ∧
          rowDone s id j tk t row .apply (some (r, false)) = stepGo (modTable (swapRow u tk t row true sc off g (some codes)) tk
            (fun t => { t with todo := t.todo.erase row, doing := t.doing + 1,
                               bufs := kmod t.bufs t.step fun b => { b with rows := kdel b.rows row } })) tk 8)) ∧
    -- a row held for another shard: the slot that was not in use has the new values, the other keeps its own
    (∀ tk t row r valid sc off g codes, tableOf s tk = some t → kfind t.held row = some r →
      ∃ u r', swapRow s tk t row valid sc off g (some codes) = u ∧ u.mem = s.mem ∧ tableOf u tk = some { t with held := kset t.held row r' } ∧
        r'.valid = valid ∧ r'.version = (r.version + 1) % 2 ^ 32 ∧ r'.active = 1 - r.active ∧ (r'.scale, r'.offset) = (sc, off) ∧
        (r'.scaleOld, r'.offsetOld) = (r.scale, r.offset) ∧ r'.g = g ∧ r'.codes = codes)

/-- R485, R492, R494, R505, R507, R518 to R524, R526, R855: the SEARCH commands, at the index's coordinator where they change it.
What it takes from the model and not from a rule: log entries 2, 66, 75, 76, 111, 112. -/
def Obligations.SearchCommands : Prop :=
  ∀ (c : Cmd) (s : State),
    (let sp : CmdSpec := { group := 0x10, verb := 1, ast := true, acts := .object }
     CmdRuns s c sp (astPart s c.ast.toNat) (astMine s c c.ast.toNat) →
      ∃ u j, exec (.searchCreate c) s = .next (settle hooks u) ∧ kfind u.fab.jobs s.nextId = some j ∧ j.kind = .command 0x10 1 c ∧
        j.dest = .cmd (cmdRef c) ∧ j.p.ast = c.ast ∧ (∀ k, k ≠ s.nextId → kfind u.fab.jobs k = kfind s.fab.jobs k) ∧ u.mem = s.mem) ∧
    (∀ xk x, searchOf s c = some (xk, x) →
      let runs := fun (sp : CmdSpec) => CmdRuns s c sp (searchPart s c) (searchMine s c) ∧ x.coord = selfNode s
      let hosts := ixHosts x.desc x.shards
      (let sp : CmdSpec := { group := 0x10, verb := 2, args := [(0, 8)], acts := .object }
       (runs sp → exec (.searchDestroy c) s = .next (settle hooks (tellEmb (startCmd s c sp) (searchRelay c x 2 hosts) 7 2 (handleOfIndex x) 0 [] []
         (entryNodes s hosts) searchTake))) ∧
       (CmdRuns s c sp (searchPart s c) (searchMine s c) → x.coord ≠ selfNode s →
         exec (.searchDestroy c) s = .next (complete (startCmd s c sp) (cmdRef c) 5 0 []))) ∧
      (let sp : CmdSpec := { group := 0x10, verb := 3, host := true, ast := true, args := [(0, 8), (8, 4)], acts := .object }
       let p := queryReq s c x.part
       CmdRuns s c sp (searchPart s c) (searchMine s c && (c.ast = 0 || astMine s c c.ast.toNat)) → (partOf s x.part).ops.testBit 7 = true →
         (65536 < arg c 8 4 → exec (.searchQuery c) s = .next (complete (startCmd s c sp) (cmdRef c) 6 0 [])) ∧
         (arg c 8 4 ≤ 65536 → p.length = 0 ∨ 8 * sK p.payload ≤ c.outLen.toNat →
           exec (.searchQuery c) s = .next (settle hooks (startSearch (startCmd s c sp) (.cmd (cmdRef c)) p))) ∧
         (arg c 8 4 ≤ 65536 → p.length ≠ 0 → c.outLen.toNat < 8 * sK p.payload →
           exec (.searchQuery c) s = .next (complete (startCmd s c sp) (cmdRef c) 6 0 []))) ∧
      (let sp : CmdSpec := { group := 0x10, verb := 4, opts := 1, host := true, args := [(0, 8), (8, 4)], acts := .object }
       let ids := (natRange 0 (arg c 8 4)).map fun k => leField (c.host.getD []) (4 * k) 4
       let good := ids.filter fun i => decide (i < ixItems x.desc)
       let hostOfItem := fun (i : Nat) => ((natRange 0 (ixShards x.desc)).find? fun k =>
         decide (siBase x.shards k ≤ i ∧ i < siEnd x.desc x.shards k)).map (siHost x.shards)
       runs sp →
         ((∀ k, k < arg c 8 4 → ixItems x.desc ≤ leField (c.host.getD []) (4 * k) 4) →
           exec (.searchDelete c) s = .next (settle hooks (complete (startCmd s c sp) (cmdRef c) 0 (arg c 8 4) []))) ∧
         (∀ h, (good.filterMap hostOfItem).eraseDups = [h] → h ≠ selfNode s →
           ∃ u, exec (.searchDelete c) s = .next (settle hooks (relaySend u s.nextId 8 0x10 4 x.part 0
               (embArgs (handleOfIndex x) 0 (leBytes 4 (if opt c 0 then 1 else 0)))
               ((good.filter fun i => hostOfItem i = some h).flatMap (leBytes 4)) [h])) ∧
             kfind u.fab.relays s.nextId = some (searchRelay c x 4 [arg c 8 4 - good.length]) ∧ u.mem = s.mem)) ∧
      (let sp : CmdSpec := { group := 0x10, verb := 5, args := [(0, 8), (8, 8)], acts := .object }
       let to_ := (((natRange 0 (ixShards x.desc)).filter (arg c 8 8).testBit).map (siHost x.shards)).eraseDups
       runs sp →
         (2 ^ ixShards x.desc ≤ arg c 8 8 → exec (.searchRepair c) s = .next (settle hooks (complete (startCmd s c sp) (cmdRef c) 6 0 []))) ∧
         (arg c 8 8 < 2 ^ ixShards x.desc → x.repairing = false → to_ = [] →
           exec (.searchRepair c) s = .next (settle hooks (complete (startCmd s c sp) (cmdRef c) 0 0 []))) ∧
         (arg c 8 8 < 2 ^ ixShards x.desc → x.repairing = true → exec (.searchRepair c) s = .next (settle hooks (complete (startCmd s c sp) (cmdRef c) 2 0 []))) ∧
         (arg c 8 8 < 2 ^ ixShards x.desc → x.repairing = false → to_ ≠ [] → ∃ u, exec (.searchRepair c) s = .next (settle hooks
             (tellEmb u (searchRelay c x 5 []) 8 5 (handleOfIndex x) 0 (leBytes 8 (arg c 8 8)) [] to_ searchTake)) ∧
           indexOf u xk = some { x with repairing := true } ∧ u.mem = s.mem)) ∧
      (let sp : CmdSpec := { group := 0x10, verb := 6, args := [(0, 8)], acts := .reads }
       CmdRuns s c sp none (searchMine s c) → exec (.searchInfo c) s = .next (complete (startCmd s c sp) (cmdRef c) 0 0
         ((natRange 0 (ixShards x.desc)).flatMap fun k => leBytes 4 (entryItem x k)))) ∧
      (let sp : CmdSpec := { group := 0x10, verb := 7, args := [(0, 8)], acts := .reads }
       CmdRuns s c sp none (searchMine s c) → exec (.searchStats c) s = .next (complete (startCmd s c sp) (cmdRef c) 0 0
         ((natRange 0 15).flatMap fun k => leBytes 8 (ctr s (.search xk k)))))) ∧
    -- the part that has waited longest goes again
    (running s = true → retryParts s = [] → exec .searchPartRetry s = .next s) ∧
    (running s = true → retryParts s ≠ [] → ∃ t id ix, (t, id, ix) ∈ retryParts s ∧ (∀ e ∈ retryParts s, t ≤ e.1) ∧
      let v := modJob (untilTime s t) id fun j => { j with parts := j.parts.mapIdx fun i x => if i = ix then { x with retryAt := none } else x }
      (∀ xk, (jobOf v id).map (·.kind) = some (.search xk) → exec .searchPartRetry s = .next (settle hooks (searchGo v id xk)))) ∧
    (∀ id j xk part t, running s = true → s.fab.jobs = [(id, j)] → j.kind = .search xk → j.parts = [part] → part.retryAt = some t →
      ∃ u, exec .searchPartRetry s = .next (settle hooks (searchGo u id xk)) ∧ u.clk = max s.clk t ∧
        jobOf u id = some { j with parts := [{ part with retryAt := none }] } ∧ u.mem = s.mem)

/-- R530, R533, R535, R547 to R549, R553, R560, R563, R567, R569, R573: the ATTN and SERVE commands, leases and drains. A lease that
ends takes the request from its owner; so does the end of a drain, for every entry that keeps the old epoch. What it takes from
the model and not from a rule: log entries 2, 78, 111, 112. -/
def Obligations.AttentionAndServing : Prop :=
  ∀ (c : Cmd) (s : State),
    (let sp : CmdSpec := { group := 0x11, verb := 1, ast := true, acts := .object }
     CmdRuns s c sp (astPart s c.ast.toNat) (astMine s c c.ast.toNat) →
      ∃ u j, exec (.attnOpen c) s = .next (settle hooks u) ∧ kfind u.fab.jobs s.nextId = some j ∧ j.kind = .command 0x11 1 c ∧
        j.dest = .cmd (cmdRef c) ∧ j.p.ast = c.ast ∧ (∀ k, k ≠ s.nextId → kfind u.fab.jobs k = kfind s.fab.jobs k) ∧ u.mem = s.mem) ∧
    (∀ i x, handleAttn s (arg c 0 8) = some (i, x) →
      (let sp : CmdSpec := { group := 0x11, verb := 2, args := [(0, 8)], acts := .object }
       CmdRuns s c sp (attnCmdPart s c) (attnMine s c) →
         ∃ u, exec (.attnClose c) s = .next (settle hooks (closeAttn u i)) ∧
           attnOf u i = some { x with closing := some (x.closing.getD [] ++ [cmdRef c]) } ∧ u.mem = s.mem) ∧
      (let sp : CmdSpec := { group := 0x11, verb := 3, args := [(0, 8)], acts := .reads }
       CmdRuns s c sp none (attnMine s c) → exec (.attnStats c) s = .next (complete (startCmd s c sp) (cmdRef c) 0 0
         ((natRange 0 5).flatMap fun k => leBytes 8 (ctr s (.attn i k)))))) ∧
    (∀ i x rs, attnOf s i = some x → x.closing = some rs → ksorted s.fab.attns = true →
      ((∃ e ∈ s.fab.jobs, e.2.kind = .attend i) → closeAttn s i = s) ∧
      ((∀ e ∈ s.fab.jobs, e.2.kind ≠ .attend i) →
        ∃ u, closeAttn s i = completeAll u rs 0 ∧ attnOf u i = none ∧ (∀ k, k ≠ i → attnOf u k = attnOf s k) ∧ u.mem = s.mem)) ∧
    (let sp : CmdSpec := { group := 0x12, verb := 1, ast := true, args := [(0, 4), (4, 4)], acts := .field }
     CmdRuns s c sp none (astMine s c c.ast.toNat) →
      (arg c 0 4 = 0 → exec (.serveCreate c) s = .next (complete (startCmd s c sp) (cmdRef c) 0 0 [])) ∧
      (0 < arg c 0 4 → arg c 0 4 ≤ 1048576 → 10 ≤ arg c 4 4 → arg c 4 4 ≤ 10000000 → astOf s c.ast.toNat = none ∨ tablePart s c = fieldPart c →
        ∃ u j, exec (.serveCreate c) s = .next (settle hooks u) ∧ kfind u.fab.jobs s.nextId = some j ∧ j.kind = .command 0x12 1 c ∧
          j.dest = .cmd (cmdRef c) ∧ j.p.partition = BitVec.ofNat 10 (fieldPart c) ∧ u.mem = s.mem)) ∧
    (∀ i v, handleService s (arg c 0 8) = some (i, v) →
      (let sp : CmdSpec := { group := 0x12, verb := 2, ast := true, args := [(0, 8), (8, 4)], acts := .object }
       CmdRuns s c sp (servePart s c) (serveMine s c && astMine s c c.ast.toNat) →
        (60000 < arg c 8 4 → exec (.serveSetMap c) s = .next (complete (startCmd s c sp) (cmdRef c) (6 + 256) 0 [])) ∧
        (arg c 8 4 ≤ 60000 → astOf s c.ast.toNat = none ∨ tablePart s c = v.part →
          ∃ u j, exec (.serveSetMap c) s = .next (settle hooks u) ∧ kfind u.fab.jobs s.nextId = some j ∧ j.kind = .command 0x12 2 c ∧
            j.dest = .cmd (cmdRef c) ∧ u.mem = s.mem)) ∧
      (let sp : CmdSpec := { group := 0x12, verb := 3, args := [(0, 8), (8, 4)], acts := .reads }
       CmdRuns s c sp none (serveMine s c) →
        (arg c 8 4 < v.slots → exec (.serveOwnerInfo c) s = .next (complete (startCmd s c sp) (cmdRef c) 0 0 (ownBytes (entryOf v (arg c 8 4))))) ∧
        (v.slots ≤ arg c 8 4 → exec (.serveOwnerInfo c) s = .next (complete (startCmd s c sp) (cmdRef c) 6 0 []))) ∧
      (let sp : CmdSpec := { group := 0x12, verb := 4, args := [(0, 8)], acts := .object }
       CmdRuns s c sp (servePart s c) (serveMine s c) →
        ∃ u, exec (.serveDestroy c) s = .next (settle hooks (complete u (cmdRef c) 0 0 [])) ∧ u = dropService (startCmd s c sp) i ∧
          (ksorted s.fab.services = true → kfind u.fab.services i = none) ∧ (∀ k, k ≠ i → kfind u.fab.services k = kfind s.fab.services k)) ∧
      (let sp : CmdSpec := { group := 0x12, verb := 5, args := [(0, 8)], acts := .reads }
       CmdRuns s c sp none (serveMine s c) → exec (.serveStats c) s = .next (complete (startCmd s c sp) (cmdRef c) 0 0
         ((natRange 0 11).flatMap fun k => leBytes 8 (ctr s (.serve i k)))))) ∧
    (∀ svc v, running s = true → serviceOf s svc = some v →
      (∀ id, (entryOf v id).owned = true → (entryOf v id).parked = false →
        exec (.serveLeaseEnd svc id) s = .next (settle hooks (afterOwn (takeOver (untilFabric s (entryOf v id).leaseEnd) svc id) svc))) ∧
      (∀ id, (entryOf v id).owned = false ∨ (entryOf v id).parked = true → exec (.serveLeaseEnd svc id) s = .next s) ∧
      (∀ m t r, v.old = some (m, t, r) → exec (.serveDrainEnd svc) s = .next (settle hooks (afterOwn
        (((v.entries.filter fun e => e.2.owned && e.2.epoch ≠ v.epoch).map (·.1)).foldl (fun s id => takeOver s svc id) (untilFabric s t)) svc))))

/-- R750, R852, R856, R978: what every unsigned Hyser command goes through before its own effect: one that may not start yet changes
nothing; a VF in ERROR is DENIED; then the checks in their order, the first that fails giving the CODE. What it takes from the
model and not from a rule: log entry 112. -/
def Obligations.CommandChecks : Prop :=
  ∀ (s : State) (c : Cmd) (sp : CmdSpec) (obj : Option Nat) (mine : Bool) (body : State → State),
    let t := startCmd s c sp
    let run := runCmd s c sp obj mine body
    let part := if sp.acts = .own && c.fn = 0 then none else actsFor c sp obj
    let ends := fun st => run = complete t (cmdRef c) st 0 []
    (mayStart s c sp = false → run = s) ∧
    (mayStart s c sp = true →
      (tdiError t c.fn = true → ends 5) ∧
      (tdiError t c.fn = false →
        (descriptorOk c sp = false → ends 6) ∧
        (descriptorOk c sp = true →
          (sp.pf0 = true → c.fn ≠ 0 → ends 5) ∧
          ((sp.pf0 = true → c.fn = 0) →
            (∀ n, part = some n → (partOf s n).st ≠ .active → ends (if (partOf s n).st = .free ∧ c.fn = 0 then 5 else 11)) ∧
            ((∀ n, part = some n → (partOf s n).st = .active) →
              (c.fn ≠ 0 → mine = false → ends 5) ∧
              ((c.fn ≠ 0 → mine = true) →
                (sp.host = true → c.host = none → ends 16) ∧
                ((sp.host = true → c.host.isSome = true) → run = body t)))))))

/-- R854: HYS.NOP has no parameters, changes nothing, and completes with OK and RESULT 0; it takes part in ordering like any other
command: it waits where a FENCE before it, or its own FENCE, says so. What it takes from the model and not from a rule: log
entry 112. -/
def Obligations.HysNop : Prop :=
  ∀ (c : Cmd) (s : State), let sp : CmdSpec := { group := 0x01, verb := 1 }
    (CmdRuns s c sp none true →
      ∃ t, exec (.hysNop c) s = .next t ∧ t = complete (startCmd s c sp) (cmdRef c) 0 0 [] ∧ Quiet s t ∧ t.core = s.core ∧ t.ing = s.ing ∧
        t.fm = s.fm ∧ t.ras = s.ras ∧ t.power.regions = s.power.regions ∧ t.power.chip = s.power.chip ∧ t.ctrs = s.ctrs ∧
        (∀ fn, fn ≠ c.fn → fnOf t fn = fnOf s fn)) ∧
    (running s = true → mayStart s c sp = true → tdiError (startCmd s c sp) c.fn = false → c.args ≠ 0 →
      exec (.hysNop c) s = .next (complete (startCmd s c sp) (cmdRef c) 6 0 [])) ∧
    (running s = true → orderOk c.fence (before s c sp) = false → exec (.hysNop c) s = .next s)

/-- R58: while the fabric runs in free mode, every switch writes LOAD as 0x0: in the responses that it makes, at its ports and at
its homes, and in those that enter the fabric or go on through it. -/
def Obligations.FreeModeLoad : Prop :=
  ∀ (s : State), s.mem.freeMode = true →
    (∀ r : Resp, (markLoad s r).load = 0) ∧
    (∀ (port lport load : Nat) (r : Resp), ∃ q, (respondHere s port lport load r).core.voqs.getLast? = some q ∧ q.pkt = .resp { r with load := 0 }) ∧
    (∀ (port load : Nat) (r : Resp), sendResp s port load r = sendPkt s port (internal port) false (.resp { r with load := 0 })) ∧
    (∀ r : Resp, Up s → regField s rLantern 0 1 = 0 → discardUnknown s r.lport = false → respOk { r with isData := true } = true →
      r.dst.toNat ≠ selfNode s → linkResp s r = false → lportOfNode s r.dst.toNat = none →
      exec (.cplData r) s = .next (transit s r.lport r.esc (.resp { r with isData := true, load := 0 })))
end

