-- ==== Sys2Proof/WellFormed.lean ====
section
/-! DEFINITION. WellFormed.lean: the operands that the outside can give a command: one named check for each kind of operand.
exec is total and defined on every command; these checks say which of them hardware can produce. -/
namespace Sys2Proof

/-- Logical ports: four for each of 128 fabric ports, and four host bridges (R598, R646). -/
def lportOk (n : Nat) : Bool := decide (n < 516)
/-- Logical ports of fabric ports. -/
def fabricPortOk (n : Nat) : Bool := decide (n < 512)
/-- Physical fabric ports. -/
def portOk (n : Nat) : Bool := decide (n < 128)
/-- Host bridges. -/
def bridgeOk (n : Nat) : Bool := decide (n < 4)
/-- Compute regions. -/
def regionOk (n : Nat) : Bool := decide (n < 16)
/-- Compute blocks. -/
def blockOk (n : Nat) : Bool := decide (n < 256)
/-- A unit of a block whose words fail their parity: a physical cell, 34 for the tile, 35 for routes and stream tables (R322). -/
def unitOk (n : Nat) : Bool := decide (n < 36)
/-- Wick cores (R786). -/
def coreOk (n : Nat) : Bool := decide (n < 4)
/-- Pool frames of 2 MiB in 128 TiB. -/
def frameOk (n : Nat) : Bool := decide (n < 2 ^ 26)
/-- Lines of 64 bytes of the pool. -/
def lineOk (n : Nat) : Bool := decide (n < 2 ^ 41)
/-- A pool line, or a line of a switch table, numbered from 2^41 (R770); from 2^42 on, either with a single bit that ECC corrected;
or 2^43, the state of a region's arbiter or of its slice control (R777). -/
def lineOrTableOk (n : Nat) : Bool := decide (n ≤ 2 ^ 43)
/-- Address-space tags (R53). -/
def astOk (n : Nat) : Bool := decide (n < 4096)
/-- Pages of the largest table (R162). -/
def pageOk (n : Nat) : Bool := decide (n < 2 ^ 18)
/-- Node numbers. -/
def nodeOk (n : Nat) : Bool := decide (n < 0x7FFF)
/-- Tags. -/
def idOk (n : Nat) : Bool := decide (n < 2 ^ 16)
/-- Causes of an unanswered request (R88). -/
def causeOk (n : Nat) : Bool := decide (n < 16)
/-- Coherence domains. -/
def domainOk (n : Nat) : Bool := decide (n < 64)
/-- Shared regions. -/
def snapOk (n : Nat) : Bool := decide (n < 1024)
/-- Partitions (R727). -/
def partitionOk (n : Nat) : Bool := decide (n < 1024)
/-- Functions: PF0 and 1,024 virtual functions (R828). -/
def fnOk (n : Nat) : Bool := decide (n ≤ 1024)
/-- NumVFs (R830). -/
def vfCountOk (n : Nat) : Bool := decide (n ≤ 1024)
/-- Virtual functions. -/
def vfOk (n : Nat) : Bool := decide (1 ≤ n ∧ n ≤ 1024)
/-- Queue pairs of a function: PF0 has the most, 64. -/
def queueOk (n : Nat) : Bool := decide (n < 64)
/-- Which part of a doorbell or of a 64-bit register an access takes: low, high, both (R833). -/
def doorbellOk (n : Nat) : Bool := decide (n < 3)
/-- An access of BAR0: 4 or 8 bytes, aligned (R833). -/
def accessOk (off size : Nat) : Bool := (size = 4 || size = 8) && off % size = 0
/-- A descriptor is 64 bytes (R844). -/
def descLenOk (d : Option (List Byte)) : Bool := match d with
  | none => true
  | some l => l.length = 64
/-- A chunk of a bundle (R861). -/
def chunkOk (len offset : Nat) : Bool := decide (len < 2 ^ 17) && decide (offset < 2 ^ 26)
/-- Numbers of codewords (R617). -/
def cwNumOk (n : Nat) : Bool := decide (n < 4096)
/-- A codeword has a tag of 20 bits and ten flits of 64 bytes (R603, R605). -/
def codewordOk (c : Codeword) : Bool :=
  decide (c.tag < 2 ^ 20) && decide (c.data.length = 640) && decide (c.packets.length ≤ 10)
/-- Credits of the twelve channels (R614, R616). -/
def creditsOk (l : List Nat) : Bool := decide (l.length ≤ 12)
/-- Lanes of a port. -/
def laneOk (n : Nat) : Bool := decide (n < 4)
/-- Lanes of a port, several. -/
def lanesOk (l : List Nat) : Bool := l.all laneOk
/-- The number of lanes in TRAIN_ID (R627). -/
def laneCountOk (n : Nat) : Bool := n = 1 || n = 2 || n = 4
/-- Key slots of a secure frame (R592). -/
def slotOk (n : Nat) : Bool := decide (n < 2)
/-- The data of a secure frame: whole flits, at most 16 (R591). -/
def frameDataOk (l : List Byte) : Bool := decide (l.length ≤ 1024) && l.length % 64 = 0
/-- The flits of a tunnel frame (R644). -/
def flitCountOk (n : Nat) : Bool := decide (n ≤ 128)
/-- Priorities and quanta of a PFC frame (R642). -/
def quantaOk (l : List (Nat × Nat)) : Bool := l.all fun q => decide (q.1 < 8 ∧ q.2 < 2 ^ 16)
/-- Host physical addresses of CXL.mem: lines (R240). -/
def hpaOk (n : Nat) : Bool := decide (n < 2 ^ 52)
/-- The data of a CXL.mem write: one line. -/
def lineDataOk (l : List Byte) : Bool := l.length = 64
/-- The data of a back-invalidate response: none, or one line. -/
def biDataOk (l : List Byte) : Bool := l.isEmpty || l.length = 64
/-- HDM decoders of a bridge (R238). -/
def decoderOk (n : Nat) : Bool := decide (n < 16)
/-- Bytes that a copy holds for a unit, 4 KiB (R789). -/
def copyLineOk (e : Nat × List Byte) : Bool := decide (e.2.length ≤ 4096)
/-- Certificate slots of SPDM. -/
def slotNumOk (n : Nat) : Bool := decide (n < 8)
/-- Nonces of SPDM and TDISP. -/
def nonceOk (l : List Byte) : Bool := l.length = 32
/-- Measurement indices: a byte. -/
def measureOk (n : Nat) : Bool := decide (n < 256)
/-- An ML-KEM-1024 encapsulation key (R741). -/
def encapsKeyOk (l : List Byte) : Bool := l.length = 1568
/-- Request codes of SPDM: a byte. -/
def spdmCodeOk (n : Nat) : Bool := decide (n < 256)
/-- Key sets and substreams of IDE (R751). -/
def keySetOk (set sub : Nat) : Bool := decide (set < 2) && decide (sub < 8)
/-- Reference clock inputs (R870). -/
def refOk (n : Nat) : Bool := decide (n < 2)
/-- Sensors (R898). -/
def sensorOk (n : Nat) : Bool := decide (n < 90)
/-- Rows of the verdict table (R782). -/
def rowOk (n : Nat) : Bool := decide (n < 16)
/-- An unlock token carries its fields and a signature (R969). -/
def tokenLenOk (l : List Byte) : Bool := decide (64 ≤ l.length)
/-- A request packet: at most 65,536 payload bytes (R52). -/
def reqOk (p : Req) : Bool := lportOk p.lport && decide (p.payload.length ≤ 65536)
/-- A response packet: at most 65,536 data bytes (R55). -/
def cplOk (r : Resp) : Bool := lportOk r.lport && decide (r.data.length ≤ 65536)
/-- A Hyser command: its function and queue pair exist. -/
def cmdOk (c : Cmd) : Bool := fnOk c.fn && queueOk c.qp

/-- The commands that the outside can give. -/
def Instr.wf : Instr → Bool
  | .load p => reqOk p
  | .store p => reqOk p
  | .storeClearPoison p => reqOk p
  | .copy p => reqOk p
  | .atomicAdd p => reqOk p
  | .atomicMin p => reqOk p
  | .atomicMax p => reqOk p
  | .atomicAnd p => reqOk p
  | .atomicOr p => reqOk p
  | .atomicXor p => reqOk p
  | .atomicSwap p => reqOk p
  | .atomicCas p => reqOk p
  | .fence p => reqOk p
  | .openVersion p => reqOk p
  | .closeVersion p => reqOk p
  | .publish p => reqOk p
  | .rdShared p => reqOk p
  | .rdOwn p => reqOk p
  | .upgrade p => reqOk p
  | .wbDirty p => reqOk p
  | .evictClean p => reqOk p
  | .snoopAnswer r => cplOk r
  | .collContrib p => reqOk p
  | .collPartial p => reqOk p
  | .collDeliver p => reqOk p
  | .gather p => reqOk p
  | .scatter p => reqOk p
  | .search p => reqOk p
  | .attend p => reqOk p
  | .filter p => reqOk p
  | .run p => reqOk p
  | .ownerCas p => reqOk p
  | .cpl r => cplOk r
  | .cplData r => cplOk r
  | .unanswered node tag cause => nodeOk node && idOk tag && causeOk cause
  | .sequenceGap src dst => nodeOk src && nodeOk dst
  | .regionArbGrant r => regionOk r
  | .regionArbPromote r => regionOk r
  | .hbmAccessDone r _ bad => regionOk r && bad.all lineOrTableOk
  | .moveSubblockDone frame _ => frameOk frame
  | .heatDecayPeriod => true
  | .tierMapVisit frame => frameOk frame
  | .tieringScan => true
  | .t3WriteResume _ => true
  | .trayLateTimeout tag => idOk tag
  | .freeModeTakeEffect => true
  | .pageWalkDone ast page => astOk ast && pageOk page
  | .genSweepDone ast => astOk ast
  | .ptRelocate ast _ => astOk ast
  | .tenureEnd line => lineOk line
  | .homeTimeout line => lineOk line
  | .directorySweep domain agent bad => domainOk domain && nodeOk agent && bad.all lineOk
  | .combineWindowEnd _ => true
  | .hotLineSend line => lineOk line
  | .hotLineExpire line => lineOk line
  | .versionLeaseEnd region node => snapOk region && nodeOk node
  | .cowCopyDone region node frame => snapOk region && nodeOk node && frameOk frame
  | .stepStart unit => decide (unit / 2 ^ 64 < 2 ^ 36)
  | .stepResume _ => true
  | .stepCommit _ _ => true
  | .configScrub block bad => blockOk block && bad.all unitOk
  | .blockArbGrant block => blockOk block
  | .blockArbPromote block _ => blockOk block
  | .neighbourCompare => true
  | .neighbourTrim r => regionOk r
  | .shadowCompare _ _ => true
  | .refereeDone _ row => rowOk row
  | .collStall coord id _ => nodeOk coord && idOk id
  | .embRowApply coord id _ => nodeOk coord && idOk id
  | .searchPartRetry => true
  | .serveLeaseEnd _ _ => true
  | .serveDrainEnd _ => true
  | .codewordReceived n _ _ cw => fabricPortOk n && codewordOk cw
  | .idle n => fabricPortOk n
  | .status n ack _ credits => fabricPortOk n && cwNumOk ack && creditsOk credits
  | .nak n seq => fabricPortOk n && cwNumOk seq
  | .replay n seq => fabricPortOk n && cwNumOk seq
  | .escape n => fabricPortOk n
  | .lpReq n => fabricPortOk n
  | .lpAck n => fabricPortOk n
  | .lpNak n => fabricPortOk n
  | .trainId n _ _ lanes _ _ => fabricPortOk n && laneCountOk lanes
  | .trainCredit n adv => fabricPortOk n && creditsOk adv
  | .trainDone n => fabricPortOk n
  | .secureFrame n slot _ data _ => fabricPortOk n && slotOk slot && frameDataOk data
  | .linkKeyRotate n => fabricPortOk n
  | .ackTimeout n => fabricPortOk n
  | .nakRepeat n => fabricPortOk n
  | .statusTimer n => fabricPortOk n
  | .partnerLock n => fabricPortOk n
  | .equalizeDone n => fabricPortOk n
  | .equalizeTimeout n lanes => fabricPortOk n && lanesOk lanes
  | .identifyTimeout n => fabricPortOk n
  | .configTimeout n => fabricPortOk n
  | .retrainTimeout n => fabricPortOk n
  | .retrainDone n lanes => fabricPortOk n && lanesOk lanes
  | .downTimeout n => fabricPortOk n
  | .laneFail n lane => fabricPortOk n && laneOk lane
  | .partnerLoss n => fabricPortOk n
  | .beaconTimer n => fabricPortOk n
  | .beaconLoss n => fabricPortOk n
  | .lowPowerExit n => fabricPortOk n
  | .tunnelFrame n _ _ flits _ => fabricPortOk n && flitCountOk flits
  | .pfcFrame n quanta => fabricPortOk n && quantaOk quanta
  | .ptpFrame n _ => fabricPortOk n
  | .tunRto n => fabricPortOk n
  | .tunDead n => fabricPortOk n
  | .tunnelKeepalive n => fabricPortOk n
  | .hbLinkLoss bridge => bridgeOk bridge
  | .cxlM2sReq bridge _ hpa _ => bridgeOk bridge && hpaOk hpa
  | .cxlM2sRwd bridge hpa _ _ data => bridgeOk bridge && hpaOk hpa && lineDataOk data
  | .cxlBiRsp bridge hpa _ data => bridgeOk bridge && hpaOk hpa && biDataOk data
  | .cxlBiconflict bridge hpa => bridgeOk bridge && hpaOk hpa
  | .schedMatch _ _ _ => true
  | .voqPromote _ => true
  | .sharedAdmit _ => true
  | .ageDiscard _ => true
  | .escWaitExpire _ => true
  | .bucketRelease port => portOk port
  | .bucketOverride port => portOk port
  | .gateEntryChange p => portOk p
  | .gateListSwitch p => portOk p
  | .timeSyncTimer n => fabricPortOk n
  | .timeSync p => reqOk p
  | .timeFollow p => reqOk p
  | .ppsEdge => true
  | .timeRefLost _ => true
  | .ppsOut => true
  | .llHello p => reqOk p
  | .llCert p => reqOk p
  | .llState p => reqOk p
  | .fmCommand p => reqOk p
  | .fmReply p => reqOk p
  | .routeWithdraw p => reqOk p
  | .routeRestore p => reqOk p
  | .event p => reqOk p
  | .discardReport p => reqOk p
  | .wickXchg p => reqOk p
  | .ticket p => reqOk p
  | .linkKex p => reqOk p
  | .helloResend n => lportOk n
  | .helloTimeout n => lportOk n
  | .verifyTimeout n => lportOk n
  | .escDrainDone => true
  | .escDrainTimeout => true
  | .ticketExpire _ => true
  | .healthRecover n => lportOk n
  | .verifyPass found => found.all copyLineOk
  | .wickWatchdog k => coreOk k
  | .wickCoreRejoin k => coreOk k
  | .wickRestart => true
  | .wickRestartTimeout => true
  | .hurricaneMismatch => true
  | .regionSupplyFault r => regionOk r
  | .rngHealthFail => true
  | .rngRetestDone _ => true
  | .linkKexExpire n => fabricPortOk n
  | .scrubWriteDone part _ _ => partitionOk part
  | .getVersion => true
  | .getCapabilities => true
  | .negotiateAlgorithms _ _ _ _ _ => true
  | .getDigests => true
  | .getCertificate slot _ _ => slotNumOk slot
  | .challenge slot nonce => slotNumOk slot && nonceOk nonce
  | .getMeasurements op _ nonce => measureOk op && nonceOk nonce
  | .keyExchange ek => encapsKeyOk ek
  | .finish _ _ => true
  | .endSession _ => true
  | .heartbeat _ => true
  | .keyUpdate _ => true
  | .vendorDefinedRequest _ _ => true
  | .spdmUnsupported code => spdmCodeOk code
  | .getTdispVersion _ vf => vfOk vf
  | .getTdispCapabilities _ vf => vfOk vf
  | .lockInterfaceRequest _ vf _ => vfOk vf
  | .getDeviceInterfaceReport _ vf => vfOk vf
  | .getDeviceInterfaceState _ vf => vfOk vf
  | .startInterfaceRequest _ vf nonce => vfOk vf && nonceOk nonce
  | .stopInterfaceRequest _ vf => vfOk vf
  | .keyProg _ _ _ set sub => keySetOk set sub
  | .kSetGo _ _ _ set sub => keySetOk set sub
  | .kSetStop _ _ _ set sub => keySetOk set sub
  | .hysNop c => cmdOk c
  | .partCreate c => cmdOk c
  | .partInfo c => cmdOk c
  | .partSet c => cmdOk c
  | .partAddPort c => cmdOk c
  | .partRemovePort c => cmdOk c
  | .partTeardown c => cmdOk c
  | .secAttest c => cmdOk c
  | .secProgLog c => cmdOk c
  | .secLinkKexStart c => cmdOk c
  | .secLinkKexRespond c => cmdOk c
  | .secLinkKexFinish c => cmdOk c
  | .portSetPriv c => cmdOk c
  | .portSetCrypt c => cmdOk c
  | .portSetGateway c => cmdOk c
  | .portRetrain c => cmdOk c
  | .portRelease c => cmdOk c
  | .portLinkStats c => cmdOk c
  | .nodeSetSelf c => cmdOk c
  | .nodeAssign c => cmdOk c
  | .nodeClear c => cmdOk c
  | .routeSet c => cmdOk c
  | .fabricSetManagers c => cmdOk c
  | .fabricSetRole c => cmdOk c
  | .fabricSetFreeMode c => cmdOk c
  | .fabricTicket c => cmdOk c
  | .fabricSetBudget c => cmdOk c
  | .fabricAddSpares c => cmdOk c
  | .poolMap c => cmdOk c
  | .poolUnmap c => cmdOk c
  | .poolProtect c => cmdOk c
  | .poolFrameInfo c => cmdOk c
  | .poolHeatRead c => cmdOk c
  | .poolMove c => cmdOk c
  | .poolResolve c => cmdOk c
  | .poolSetHome c => cmdOk c
  | .poolAttachTray c => cmdOk c
  | .poolDetachTray c => cmdOk c
  | .poolSetPolicy c => cmdOk c
  | .poolEnableClass c => cmdOk c
  | .astCreate c => cmdOk c
  | .astDestroy c => cmdOk c
  | .astInvalidate c => cmdOk c
  | .astInfo c => cmdOk c
  | .astPteRead c => cmdOk c
  | .windowSet c => cmdOk c
  | .windowClear c => cmdOk c
  | .domainCreate c => cmdOk c
  | .domainDestroy c => cmdOk c
  | .domainAddAgent c => cmdOk c
  | .domainRemoveAgent c => cmdOk c
  | .domainSetRange c => cmdOk c
  | .snapCreate c => cmdOk c
  | .snapDestroy c => cmdOk c
  | .snapInfo c => cmdOk c
  | .progLoadLib c => cmdOk c
  | .progLoad c => cmdOk c
  | .progReplace c => cmdOk c
  | .progUnload c => cmdOk c
  | .progInfo c => cmdOk c
  | .progCellRead c => cmdOk c
  | .progStalls c => cmdOk c
  | .progCounters c => cmdOk c
  | .progSetSigner c => cmdOk c
  | .progSetQuota c => cmdOk c
  | .collOpen c => cmdOk c
  | .collClose c => cmdOk c
  | .collSetOpt c => cmdOk c
  | .collStats c => cmdOk c
  | .collRehost c => cmdOk c
  | .embCreate c => cmdOk c
  | .embDestroy c => cmdOk c
  | .embSetDefault c => cmdOk c
  | .embReplaceRows c => cmdOk c
  | .embCloseStep c => cmdOk c
  | .embStepInfo c => cmdOk c
  | .embHotSet c => cmdOk c
  | .embHotRefresh c => cmdOk c
  | .embMoveRows c => cmdOk c
  | .embStats c => cmdOk c
  | .searchCreate c => cmdOk c
  | .searchDestroy c => cmdOk c
  | .searchQuery c => cmdOk c
  | .searchDelete c => cmdOk c
  | .searchRepair c => cmdOk c
  | .searchInfo c => cmdOk c
  | .searchStats c => cmdOk c
  | .attnOpen c => cmdOk c
  | .attnClose c => cmdOk c
  | .attnStats c => cmdOk c
  | .serveCreate c => cmdOk c
  | .serveSetMap c => cmdOk c
  | .serveOwnerInfo c => cmdOk c
  | .serveDestroy c => cmdOk c
  | .serveStats c => cmdOk c
  | .shapeSetPart c => cmdOk c
  | .shapeStats c => cmdOk c
  | .gateSet c => cmdOk c
  | .timeSet c => cmdOk c
  | .timeSetSource c => cmdOk c
  | .timeSetUpstream c => cmdOk c
  | .coreStats c => cmdOk c
  | .regionFence c => cmdOk c
  | .regionUnfence c => cmdOk c
  | .rasStats c => cmdOk c
  | .healthRead c => cmdOk c
  | .powerSetState c => cmdOk c
  | .powerSetRegion c => cmdOk c
  | .powerStats c => cmdOk c
  | .lanternRead c => cmdOk c
  | .lanternLogRead c => cmdOk c
  | .lanternStats c => cmdOk c
  | .dbWrite fn q part _ => fnOk fn && queueOk q && doorbellOk part
  | .descriptorFetch desc => descLenOk desc
  | .commandCompletion fn qp _ => fnOk fn && queueOk qp
  | .coalTimer fn qp => fnOk fn && queueOk qp
  | .qreset fn => fnOk fn
  | .qpEnable fn q _ => fnOk fn && queueOk q
  | .qpDisable fn q _ => fnOk fn && queueOk q
  | .mbxGo len offset => chunkOk len offset
  | .mbxLast len offset => chunkOk len offset
  | .mbxAbort => true
  | .bundleVerifyDone => true
  | .hbmInitDone => true
  | .ftimeRead part => doorbellOk part
  | .hysDroppedRead fn => fnOk fn
  | .portCfgEnSet p _ => portOk p
  | .portCfgEnClear p _ => portOk p
  | .poolHeatCfgWrite _ => true
  | .poolPolicyCfgWrite _ => true
  | .registerWrite fn off size _ => fnOk fn && accessOk off size
  | .powerOn => true
  | .sysResetAssert => true
  | .sysResetDeassert => true
  | .perstMgtAssert => true
  | .perstMgtDeassert => true
  | .functionLevelReset fn => fnOk fn
  | .hbPerstAssert k => bridgeOk k
  | .hbPerstDeassert k => bridgeOk k
  | .inputLow => true
  | .inputFail => true
  | .refclkLost b ports => refOk b && ports.all portOk
  | .refclkBothLost => true
  | .refclkSwitchback ports => ports.all portOk
  | .regionIdleTrim r => regionOk r
  | .chipHoodEntry => true
  | .lpAckTimeout => true
  | .wake regions => regions.all regionOk
  | .powerStateDrainTimeout => true
  | .powerTick _ _ => true
  | .capTrim => true
  | .currentGuard => true
  | .guardRelease => true
  | .thermSample n _ => sensorOk n
  | .thermalHold r => regionOk r
  | .thermalTrip => true
  | .idcode => true
  | .samplePreload _ _ _ _ _ => true
  | .extest _ _ _ _ _ => true
  | .clamp => true
  | .highz => true
  | .bypass => true
  | .debugStatus => true
  | .debugUnlock token => tokenLenOk token
  | .jtagTrst => true
  | .snpInv p => reqOk p
  | .snpShare p => reqOk p
  | .inputRecover => true
  | .refclkRestored b => refOk b
  | .timeRefRestored _ => true
  | .laneLossOfSignal n lanes => fabricPortOk n && lanesOk lanes
  | .numvfsWrite n _ => vfCountOk n
  | .hdmDecoderWrite bridge index _ _ part ast _ _ => bridgeOk bridge && decoderOk index && partitionOk part && astOk ast

end Sys2Proof
end

