-- ==== Sys2Proof/Tests/Slice0.lean ====
section
/-! SUPPORT. Tests/Slice0.lean: commands that WellFormed refuses, a concrete state and operands that meet the hypotheses of every statement
that has some (witness_<statement>), and values that the spec works out itself. A signature, a digest and a voltage curve are opaque: a
hypothesis that needs one to verify is met where it does, and its witness says so. -/
set_option autoImplicit false
namespace Sys2Proof.Tests
open Sys2Proof Sys2Proof.Machine

/-- A request of node 5 under partition 1 for this switch, node 1. -/
def req (tc : BitVec 3) : Req :=
  { lport := 0, tc := tc, vc := BitVec.ofNat 3 (tcVc tc.toNat), partition := 1, ast := 2, src := 5, dst := 1, tag := 7, length := 0,
    address := 0, seq := 0, flags := 0 }

/-- The same in rack flat form, of n bytes. -/
def flat (tc : BitVec 3) (n : BitVec 24) (pl : List Byte) : Req := { req tc with length := n, flags := 1, payload := pl }

/-- Bytes 0. -/
def zeros (n : Nat) : List Byte := List.replicate n 0

/-- A response. -/
def resp : Resp := { lport := 0, isData := false, status := 0, reqOpcode := 1, rspNode := 9, dst := 5, tag := 7 }

/-- An object of the engines, number 3 of partition 1 at node 1. -/
def inst3 : Inst := { part := 1, gen := 0, lib := none, image := [], measure := [], blocks := [], shadows := [], need := 0, shadowN := 0 }
def ctx3 : CollCtx := { coord := 1, id := 3, part := 1, gen := 0, desc := [], members := [], tree := [], lead := 1 }
def table3 : EmbTable := { coord := 1, id := 3, part := 1, gen := 0, desc := [], shards := [] }
def index3 : SearchIx := { coord := 1, id := 3, part := 1, gen := 0, desc := [], shards := [] }
def attn3 : AttnCtx := { part := 1, gen := 0, desc := [] }
def service3 : Service := { part := 1, gen := 0, slots := 0, leaseUs := 0, map := [] }

/-- A switch, node 1, with an endpoint, node 5, at logical port 0, another switch at port 4, partition 1, one mapped page of AST 2 whose entry
is cached, homed here, and an object of each engine. -/
def sw : State :=
  let s := State.reset
  { s with
    part := .olm9664B0
    fm := { s.fm with selfNode := 1 }
    lports := [(0, { link := .active, role := some .endpoint, disc := .known, node := some 5, flat := true, nodePriv := true, parts := [1] }),
               (4, { link := .active, role := some .switch, disc := .known })]
    parts := [(1, { st := .active, ops := 4095 })]
    mem := { s.mem with homes := [(0, 1)] }
    xl := { s.xl with asts := [(2, { spanLog2 := 30, partition := 1, gen := 0, ptLoc := 0 })],
                      ptes := [(2 * 2 ^ 18, ⟨false, true, true, true, 0⟩)], cache := [⟨2, 0, 0, ⟨false, true, true, true, 0⟩⟩] }
    fab := { s.fab with insts := [(3, inst3)], ctxs := [(ctxKey 1 3, ctx3)], tables := [(tableKey 1 3, table3)], indexes := [(indexKey 1 3, index3)],
                        attns := [(3, attn3)], services := [(3, service3)] } }

/-- A compute request that names an object by its handle. -/
def named (tc : BitVec 3) (a : Nat) : Req := { req tc with address := BitVec.ofNat 64 a }

/-! ## Commands that the outside cannot give -/

theorem test_wf_packets :
    (Instr.load { req 4 with lport := 516 }).wf = false ∧ (Instr.cpl { resp with lport := 516 }).wf = false ∧
    (Instr.helloResend 516).wf = false ∧ (Instr.idle 512).wf = false ∧ (Instr.load (req 4)).wf = true := by decide

theorem test_wf_payload_sizes (p : Req) (r : Resp) (hp : 65536 < p.payload.length) (hr : 65536 < r.data.length) :
    (Instr.store p).wf = false ∧ (Instr.cplData r).wf = false := by
  have h1 : ¬ p.payload.length ≤ 65536 := by omega
  have h2 : ¬ r.data.length ≤ 65536 := by omega
  simp [Instr.wf, reqOk, cplOk, h1, h2]

theorem test_wf_ports_and_bridges :
    (Instr.bucketRelease 128).wf = false ∧ (Instr.hbLinkLoss 4).wf = false ∧ (Instr.regionArbGrant 16).wf = false ∧
    (Instr.blockArbGrant 256).wf = false ∧ (Instr.configScrub 0 [36]).wf = false ∧ (Instr.wickWatchdog 4).wf = false ∧
    (Instr.laneFail 0 4).wf = false ∧ (Instr.equalizeTimeout 0 [4]).wf = false ∧ (Instr.trainId 0 0 0 3 false false).wf = false := by decide

theorem test_wf_memory :
    (Instr.moveSubblockDone (2 ^ 26) true).wf = false ∧ (Instr.tenureEnd (2 ^ 41)).wf = false ∧
    (Instr.hbmAccessDone 0 0 [2 ^ 43 + 1]).wf = false ∧ (Instr.hbmAccessDone 0 0 [2 ^ 43]).wf = true ∧
    (Instr.genSweepDone 4096).wf = false ∧ (Instr.pageWalkDone 0 (2 ^ 18)).wf = false ∧ (Instr.trayLateTimeout (2 ^ 16)).wf = false := by decide

theorem test_wf_numbers :
    (Instr.sequenceGap 0x7FFF 0).wf = false ∧ (Instr.unanswered 0 0 16).wf = false ∧ (Instr.directorySweep 64 0 []).wf = false ∧
    (Instr.versionLeaseEnd 1024 0).wf = false ∧ (Instr.scrubWriteDone 1024 0 true).wf = false ∧ (Instr.refereeDone 0 16).wf = false ∧
    (Instr.hdmDecoderWrite 0 16 0 0 0 0 0 true).wf = false := by decide

theorem test_wf_functions :
    (Instr.functionLevelReset 1025).wf = false ∧ (Instr.numvfsWrite 1025 true).wf = false ∧ (Instr.getTdispVersion 0 0).wf = false ∧
    (Instr.qpEnable 0 64 0).wf = false ∧ (Instr.ftimeRead 3).wf = false ∧ (Instr.registerWrite 0 2 4 0).wf = false ∧
    (Instr.descriptorFetch (some (zeros 63))).wf = false ∧ (Instr.mbxGo (2 ^ 17) 0).wf = false ∧
    (Instr.hysNop { fn := 1025, qp := 0, cid := 0 }).wf = false := by decide

theorem test_wf_links :
    (Instr.nak 0 4096).wf = false ∧ (Instr.codewordReceived 0 true 0 {}).wf = false ∧ (Instr.trainCredit 0 (List.replicate 13 0)).wf = false ∧
    (Instr.secureFrame 0 2 0 [] 0).wf = false ∧ (Instr.secureFrame 0 0 0 (zeros 63) 0).wf = false ∧
    (Instr.tunnelFrame 0 0 0 129 true).wf = false ∧ (Instr.pfcFrame 0 [(8, 0)]).wf = false := by decide

theorem test_wf_hosts :
    (Instr.cxlM2sReq 0 .readI (2 ^ 52) 0).wf = false ∧ (Instr.cxlM2sRwd 0 0 0 0 (zeros 63)).wf = false ∧
    (Instr.cxlBiRsp 0 0 true (zeros 63)).wf = false := by decide

theorem test_wf_security :
    (Instr.getCertificate 8 0 0).wf = false ∧ (Instr.challenge 0 (zeros 31)).wf = false ∧ (Instr.getMeasurements 256 false (zeros 32)).wf = false ∧
    (Instr.spdmUnsupported 256).wf = false ∧ (Instr.keyProg 0 0 0 2 0).wf = false ∧
    (Instr.debugUnlock (zeros 63)).wf = false := by decide

theorem test_wf_power : (Instr.refclkRestored 2).wf = false ∧ (Instr.thermSample 90 0).wf = false ∧ (Instr.wake [16]).wf = false := by decide

theorem test_wf_long_operands (a b : List Byte) (ha : a.length = 4097) (hb : b.length = 1567) :
    (Instr.verifyPass [(0, a)]).wf = false ∧ (Instr.keyExchange b).wf = false := by
  simp [Instr.wf, copyLineOk, encapsKeyOk, ha, hb]

theorem witness_RequestFromEndpoint_arrives : Arrives sw 0 ∧ facesSwitch sw 0 = false := by decide
/-- A check passes. -/
abbrev Passes (op : Op) (p : Req) : Prop := ingressCheck hooks (noteSeq sw p) op p [] = .pass
theorem witness_RequestFromEndpoint_memory :
    Passes .load (flat 4 64 []) ∧ Passes .store (flat 4 8 (zeros 8)) ∧ Passes .storeClearPoison (flat 4 64 (zeros 64)) ∧
    Passes .copy (flat 7 64 (leBytes 8 4096)) := by decide
theorem witness_RequestFromEndpoint_atomics :
    Passes (.atomic .add) (flat 4 8 (zeros 8)) ∧ Passes (.atomic .min) (flat 4 8 (zeros 8)) ∧ Passes (.atomic .max) (flat 4 4 (zeros 4)) ∧
    Passes (.atomic .and) (flat 4 8 (zeros 8)) ∧ Passes (.atomic .or) (flat 4 8 (zeros 8)) ∧ Passes (.atomic .xor) (flat 4 8 (zeros 8)) ∧
    Passes (.atomic .swap) (flat 4 8 (zeros 8)) ∧ Passes (.atomic .cas) (flat 4 8 (zeros 16)) := by decide
theorem witness_RequestFromEndpoint_order_and_versions :
    Passes .fence (req 4) ∧ Passes .openVersion { req 4 with length := 16, payload := zeros 16 } ∧
    Passes .closeVersion { req 4 with length := 8, payload := zeros 8 } ∧ Passes .publish { req 4 with length := 16, payload := zeros 16 } := by decide
theorem witness_RequestFromEndpoint_coherence :
    Passes .rdShared { req 3 with length := 64 } ∧ Passes .rdOwn { req 3 with length := 64 } ∧ Passes .upgrade { req 3 with length := 64 } ∧
    Passes .wbDirty { req 3 with length := 64, payload := zeros 64 } ∧ Passes .evictClean { req 3 with length := 64 } := by decide
theorem witness_RequestFromEndpoint_compute :
    Passes .collContrib (named 5 (mkNodeHandle 3 1 1 0)) ∧ Passes .gather (named 6 (mkTableHandle 3 1 1 0)) ∧
    Passes .scatter (named 6 (mkTableHandle 3 1 1 0)) ∧ Passes .search (named 6 (mkNodeHandle 3 1 1 0)) ∧
    Passes .attend (named 6 (mkNodeHandle 3 1 1 0)) ∧ Passes .filter (named 6 (3 + 2 ^ 12)) ∧ Passes .run (named 6 (3 + 2 ^ 12)) ∧
    Passes .ownerCas (named 3 (mkNodeHandle 3 1 1 0)) := by decide
/-- A check that fails, and a request whose source is not the port's. -/
theorem witness_RequestFromEndpoint_fails :
    ingressCheck hooks (noteSeq sw (req 1)) .load (req 1) [] = .fail 6 ∧
    (lportOf sw 0).node ≠ some ({ req 4 with src := 6 } : Req).src.toNat ∧ ingressCheck hooks sw .fence { req 4 with src := 6 } [] = .drop := by decide

/-- What the first seven steps of the check find. -/
def steps (s : State) (op : Op) (p : Req) : List Bool :=
  [step1Ok op p, decide ((lportOf s p.lport).node = some p.src.toNat), step3Ok (selfNode s) op p, memberOf s p.lport p.partition.toNat,
   decide ((partOf s p.partition.toNat).st ≠ .tearing ∧ (partOf s p.partition.toNat).st ≠ .scrubbing),
   (decide (addrForm p ≠ 1) || (lportOf s p.lport).flat) && (decide (addrForm p ≠ 2) || (lportOf s p.lport).nodePriv) && !switchOnly op,
   decide (opBit op = 0) || (partOf s p.partition.toNat).ops.testBit (opBit op)]

def add8 : Req := { req 4 with length := 8, payload := zeros 8 }

theorem witness_IngressOrder_steps :
    steps sw .load { req 4 with rsv := 1 } = [false, true, true, true, true, true, true] ∧
    steps sw .load { req 4 with src := 6 } = [true, false, true, true, true, true, true] ∧
    steps sw .load (req 1) = [true, true, false, true, true, true, true] ∧
    steps sw .load { req 4 with partition := 2 } = [true, true, true, false, true, true, true] ∧
    steps { sw with parts := [(1, { st := .tearing })] } .load (req 4) = [true, true, true, true, false, true, true] ∧
    steps { sw with lports := [(0, { node := some 5, parts := [1] })] } .load (flat 4 0 []) = [true, true, true, true, true, false, true] ∧
    steps { sw with parts := [(1, { st := .active, ops := 1 })] } (.atomic .add) add8 = [true, true, true, true, true, true, false] ∧
    steps sw (.atomic .add) add8 = [true, true, true, true, true, true, true] := by decide

theorem witness_IngressOrder_objects :
    steps sw .gather (named 6 0) = [true, true, true, true, true, true, true] ∧ hooks.handleOk sw .gather (named 6 0) = false ∧
    steps sw .load { req 4 with ast := 9 } = [true, true, true, true, true, true, true] ∧ astOf sw 9 = none ∧
    missing sw [] (needsOf .load { req 4 with address := 2 ^ 30 }) = [] ∧
    (∃ n ∈ needsOf .load { req 4 with address := 2 ^ 30 }, lookPage sw [] n.ast n.page = some none) ∧
    missing sw [] (needsOf .load (req 4)) = [] := by decide

def noRead : State := { sw with xl := { sw.xl with cache := [⟨2, 0, 0, ⟨false, false, true, true, 0⟩⟩] } }
theorem witness_IngressOrder_permissions :
    (needsOf .load (req 4)).map (fun n => (n.r, (lookPage noRead [] n.ast n.page))) = [(true, some (some ⟨false, false, true, true, 0⟩))] := by decide

/-- A FENCE names the page of its ADDRESS, and none that another request would need to read or write. -/
theorem witness_IngressOrder_fence :
    needsOf .fence (req 4) = [⟨2, 0, false, false, false⟩] ∧ missing sw [] (needsOf .fence (req 4)) = [] ∧ isCompute .fence = false ∧
    addrForm (req 4) = 0 ∧ lookPage sw [] 2 1 = some none ∧ needsOf .fence { req 4 with address := 2 ^ 30 } = [⟨2, 1, false, false, false⟩] := by decide

theorem witness_MalformedRequests :
    step1Ok .load { flat 4 0 [] with address := 2 ^ 47 } = true ∧ step1Ok .load { req 4 with address := 2 ^ 48 } = true ∧
    step1Ok .copy (flat 7 64 (leBytes 8 32)) = true ∧ copySrc (flat 7 64 (leBytes 8 32)) < 64 ∧ step1Ok (.atomic .add) { add8 with address := 4 } = true ∧
    step1Ok (.atomic .add) { add8 with length := 2 } = true := by decide

/-- The same from another switch, on the port that faces it. -/
def onward (p : Req) : Req := { p with lport := 4 }
abbrev FormOk (op : Op) (p : Req) : Prop := step1Ok op p = true ∧ step3Fwd op p = true ∧ (plainPayload p).isSome = true
abbrev Windowed (op : Op) (p : Req) : Prop := FormOk op p ∧ (windowsOf sw op p.address.toNat (copySrc p) p.length.toNat).isSome = true

theorem witness_RequestFromSwitch_memory :
    Arrives sw 4 ∧ facesSwitch sw 4 = true ∧ Windowed .load (onward (flat 4 64 [])) ∧ Windowed .store (onward (flat 4 8 (zeros 8))) ∧
    Windowed .storeClearPoison (onward (flat 4 64 (zeros 64))) ∧ Windowed .copy (onward (flat 7 64 (leBytes 8 4096))) ∧
    Windowed (.atomic .add) (onward (flat 4 8 (zeros 8))) ∧ Windowed (.atomic .cas) (onward (flat 4 8 (zeros 16))) := by decide

theorem witness_RequestFromSwitch_units :
    FormOk .openVersion (onward { req 4 with length := 16, payload := zeros 16 }) ∧ FormOk .rdShared (onward { req 3 with length := 64 }) ∧
    FormOk .wbDirty (onward { req 3 with length := 64, payload := zeros 64 }) ∧ FormOk .collContrib (onward (named 5 0)) ∧
    FormOk .collPartial (onward { req 5 with flags := 2 }) ∧ FormOk .gather (onward (named 6 0)) ∧ FormOk .ownerCas (onward (named 3 0)) := by decide

def through (p : Req) : Req := { onward p with dst := 5 }
theorem witness_RequestFromSwitch_through :
    (through (req 4)).dst.toNat ≠ selfNode sw ∧ routeOf { sw with core := { sw.core with routes := [(5, { local_ := false, hops := [some 0], esc := none })] } } 4 5 false = .dest 0 false (some 0) ∧
    FormOk .snpInv (through { req 2 with length := 8, payload := zeros 8, flags := 1 }) ∧
    FormOk .snpShare (through { req 2 with length := 8, payload := zeros 8, flags := 1 }) ∧ FormOk .collDeliver (through { req 5 with flags := 2 }) := by decide

/-- A LOAD of 64 bytes on its way to node 9. -/
def outLoad : OutReq := { op := .load, p := flat 4 64 [], gen := 0, phase := .active, parts := [{ off := 0, len := 64, pool := 0, home := 9 }], arrived := 0 }
theorem witness_ForwardedRequest :
    kfind ({ sw with ing := { sw.ing with outs := [(7, outLoad)] } } : State).ing.outs 7 = some outLoad ∧ 9 < 2 ^ 15 ∧ 9 ≠ selfNode sw := by decide

def memOp (op : Op) (n : Nat) (data : List Byte) : MemOp :=
  { op := op, p := req 4, origin := .remote, pool := 0, len := n, srcPool := 4096, data := data, phase := .access, arrived := 0 }
theorem witness_MemoryEffects :
    sw.MemWf ∧ anyBad sw (memOp .store 8 (zeros 8)) 0 8 = false ∧ (memOp .store 8 (zeros 8)).origin ≠ .put ∧
    anyBad { sw with mem := { sw.mem with poison := [0] } } (memOp (.atomic .add) 8 (zeros 8)) 0 8 = true ∧
    anyBad sw (memOp .copy 64 []) 4096 64 = false ∧ anyQuarantined sw 4096 64 = false ∧ anyQuarantined sw 0 8 = false := by decide

theorem witness_AtomicValues : (5 : Nat) < 2 ^ (8 * 4) ∧ (2 ^ 32 - 1) < 2 ^ (8 * 4) := by decide

def quar : State := { sw with mem := { sw.mem with tier := [(0, { tier := .t1, cls := 0, loc0 := 0, partition := 1, quarantined := true })] } }
theorem witness_LoadSegments :
    ((loadSegments sw (memOp .load 8 []) 0 9).map fun g => g.2.2.1) = [0] ∧
    ((loadSegments { sw with mem := { sw.mem with poison := [0] } } (memOp .load 8 []) 0 9).map fun g => g.2.2.1) = [3] ∧
    ((loadSegments quar (memOp .load 8 []) 0 9).map fun g => g.2.2.1) = [8] := by decide

/-! ## Memory, translation and coherence -/

def acc (promoted : Bool) : Access := { id := 6, cls := .req, group := 0, arrived := 0, promoted := promoted, op := 0 }
def arbs (a : Arb) : State := { sw with mem := { sw.mem with arbs := [(0, a)] } }
theorem witness_MemoryEvents_arbiter :
    oldest ((arbOf (arbs { waiting := [acc true] }) 0).waiting.filter (·.promoted)) = some (acc true) ∧
    (arbOf (arbs { waiting := [acc false] }) 0).waiting = [acc false] ∧ 0 < arbWeight sw 0 (acc false).cls.ix ∧
    (arbOf (arbs { granted := [acc false] }) 0).granted.find? (fun y => y.id = 6) = some (acc false) ∧ running sw = true := by decide

def frame0 : TierEntry := { tier := .t1, cls := 1, loc0 := 0, partition := 1 }
def moving : Move := { dst := .t2, loc := 2 ^ 33, copying := true, copied := true }
def tiers (m : Mem → Mem) : State := { sw with mem := m { sw.mem with tier := [(0, frame0)] } }
def moves : State := tiers fun m => { m with moves := [(0, moving)] }
def t3Held : State := tiers fun m => { m with ops := [(9, { memOp .store 8 (zeros 8) with phase := .t3 })] }
def twoCopies : State :=
  tiers fun m => { m with tier := [(0, { frame0 with tier := .t2, loc0 := 2 ^ 33, loc1 := 2 ^ 33 + 2 ^ 28, copies := 2 })],
                          slots := [(0, ⟨[8], 1, 1, 0, 1, []⟩), (1, ⟨[9], 1, 1, 0, 1, []⟩)],
                          ops := [(9, memOp .load 64 [])], trayReqs := [(4, { op := 9, slot := 0, frame := 0, copyIx := 0, read := true, pool := 0, len := 64, since := 0 })] }
theorem witness_MemoryEvents_moves_and_trays :
    tierOf moves 0 = some frame0 ∧ kfind moves.mem.moves 0 = some moving ∧ moving.next + 1 < 32 ∧ regField moves rPoolPolicy 10 6 ≠ 0 ∧
    moves.mem.nextScan = some 10000000 ∧ ((kfind t3Held.mem.ops 9).map (·.phase)) = some .t3 ∧
    (kfind twoCopies.mem.trayReqs 4).isSome = true ∧
    ((tierOf twoCopies 0).bind fun t => (healthyCopies twoCopies t).find? fun c => c.2 ≠ 0).isSome = true := by decide

/-- A command of PF0 with parameters, each at its offset in bytes. -/
def cmd (l : List (Nat × Nat)) : Cmd := { fn := 0, qp := 0, cid := 1, args := BitVec.ofNat 256 (l.foldl (fun v e => v + e.2 * 2 ^ (8 * e.1)) 0) }
/-- The same of partition 1's virtual function. -/
def vcmd (l : List (Nat × Nat)) : Cmd := { cmd l with fn := 2 }
/-- A switch whose partition 1 has its virtual function. -/
def swVf : State := { sw with hys := { sw.hys with numVfs := 2, vfEnable := true } }

theorem witness_PoolSetHome :
    CmdRuns sw (cmd [(0, 5), (4, 1)]) (poolSpec 8 true [(0, 4), (4, 4)] 0) none true ∧ arg (cmd [(0, 5), (4, 1)]) 0 4 < 4096 ∧
    (kfind sw.mem.homes 5).getD 0x7FFF ≠ 1 ∧ (∀ e ∈ sw.mem.tier, e.1 / 16384 ≠ 5) ∧ (∀ e ∈ sw.xl.ptes, e.2.page / 32 ≠ 5) ∧
    (sw.mem.homes.filter fun e => e.2 = 1).length < 512 ∧ (kfind sw.mem.homes 0).getD 0x7FFF = 1 ∧ (∃ e ∈ sw.xl.ptes, e.2.page / 32 = 0) := by decide

theorem witness_PoolSetHome_full (l : List (Nat × Nat)) (h : ∀ e ∈ l, e.2 = 1) (n : 512 ≤ l.length) :
    512 ≤ (l.filter fun e => e.2 = 1).length := by
  rw [List.filter_eq_self.2 (by simpa using h)]; exact n

def tray8 : LPort := { link := .active, role := some .tray, disc := .known, node := some 8, partner := some ⟨.tray, 0, 8, 1, 0, 0, 0, 0, 0, 2 ^ 40, 0, []⟩ }
def swTray : State := { sw with lports := sw.lports ++ [(8, tray8)] }
theorem witness_PoolCommands :
    CmdRuns sw (cmd [(0, 0)]) { poolSpec 4 false [(0, 8)] 0 with acts := .reads } none true ∧
    CmdRuns sw (cmd [(0, 0), (8, 2)]) { poolSpec 5 false [(0, 8), (8, 4)] 0 with acts := .reads } none true ∧
    CmdRuns sw (cmd [(0, 9), (4, 7), (8, 3), (12, 9), (16, 5), (20, 2), (24, 1)]) (poolSpec 11 true [(0, 4), (4, 4), (8, 4), (12, 4), (16, 4), (20, 4), (24, 4)] 0) none true ∧
    CmdRuns sw { cmd [(0, 9)] with partition := 1 } { poolSpec 12 true [(0, 4)] 1 with acts := .field } none true := by decide

def t2Frame : State := tiers fun m => { m with tier := [(0, { frame0 with tier := .t2, loc0 := 2 ^ 33 })], slots := [(0, ⟨[8], 1, 1, 0, 1, []⟩)] }
theorem witness_PoolCommands_move :
    CmdRuns t2Frame (cmd [(0, 0), (8, 1)]) { poolSpec 6 true [(0, 8), (8, 4), (12, 4)] 0 with acts := .object } (framePart t2Frame (cmd [(0, 0), (8, 1)])) true ∧
    (((rulesOf t2Frame 1).map (·.tiers)).getD []).contains .t1 = true ∧ kfind t2Frame.mem.moves 0 = none := by decide

theorem witness_PoolCommands_trays :
    CmdRuns swTray (cmd [(8, 8 + 0x7FFF * 2 ^ 16 + 0x7FFF * 2 ^ 32 + 0x7FFF * 2 ^ 48), (16, 1)]) (poolSpec 9 true [(0, 4), (8, 8), (16, 4), (20, 4), (24, 4), (28, 4)] 0) none true ∧
    nodeList (arg (cmd [(8, 8 + 0x7FFF * 2 ^ 16 + 0x7FFF * 2 ^ 32 + 0x7FFF * 2 ^ 48), (16, 1)]) 8 8) = [8] ∧ trayDram swTray 8 = some (2 ^ 40) ∧
    CmdRuns sw (cmd []) (poolSpec 10 true [(0, 4)] 1) none true ∧
    backedBy (tiers fun m => { m with slots := [(0, ⟨[8], 1, 1, 0, 1, []⟩)] }) 0 = [] ∧
    freeingOn sw 0 = false ∧ movingOnto sw 0 = false := by decide

def ast2 : Ast := { spanLog2 := 30, partition := 1, gen := 0, ptLoc := 0 }
theorem witness_WalksAndSweeps :
    astOf sw 2 = some ast2 ∧ pteOf sw 2 0 = some ⟨false, true, true, true, 0⟩ ∧ pteOf sw 2 1 = none ∧
    ({ sw with xl := { sw.xl with walks := [⟨2, 0, 0⟩] } } : State).xl.walks.find? (fun w => w.ast = 2 && w.page = 0) = some ⟨2, 0, 0⟩ ∧
    tableFits sw (tableArea sw).1 (tablePages 30) (some 2) = true := by decide

theorem witness_TranslationCommands_asts :
    CmdRuns swVf (vcmd [(0, 30)]) (astSpec 1 [(0, 4)] .field) none true ∧ tablesTotal swVf + tableBytes 30 ≤ GiB ∧
    CmdRuns sw (cmd [(0, 2)]) (astSpec 3 [(0, 4)] .object) (astPart sw 2) (astMine sw (cmd [(0, 2)]) 2) ∧
    CmdRuns { sw with xl := { sw.xl with ptes := [] } } (cmd [(0, 2)]) (astSpec 2 [(0, 4)] .object) (astPart sw 2) (astMine sw (cmd [(0, 2)]) 2) ∧
    CmdRuns sw (cmd [(0, 2)]) (astSpec 4 [(0, 4)] .reads) none (astMine sw (cmd [(0, 2)]) 2) ∧
    CmdRuns sw (cmd [(0, 2)]) (astSpec 5 [(0, 4), (4, 4)] .reads) none (astMine sw (cmd [(0, 2)]) 2) := by decide

/-- A free number, and a place for a table, whatever the free values are. -/
theorem witness_TranslationCommands_free (k : Nat) (s : State) :
    firstFree [] 4096 k 1 = some (k % 4096) ∧ chooseOf s [7] = some 7 ∧ tableFits { sw with xl := {} } (tableArea sw).1 (tablePages 30) none = true := by
  refine ⟨by simp [firstFree], by simp [chooseOf, Nat.mod_one], by decide⟩

theorem witness_TranslationCommands_windows :
    CmdRuns sw (cmd [(0, 3), (4, 1), (8, 1), (12, 2)]) (winSpec 1 [(0, 4), (4, 4), (8, 4), (12, 4)]) none true ∧
    CmdRuns sw (cmd [(0, 3)]) (winSpec 2 [(0, 4)]) none true ∧ windowUsers sw 3 = [] ∧
    windowUsers { sw with mem := { sw.mem with ops := [(9, { memOp .load 8 [] with window := 4 })] } } 3 ≠ [] := by decide

def counted : State := { sw with mem := { sw.mem with counts := [(1, { count := 1, cls := 1, copies := 1 })] } }
def mapCmd : Cmd := { cmd [(0, 2 ^ 30), (8, 1), (12, 7), (16, 1), (20, 1)] with ast := 2, addr0 := 0 }
def mapSpec : CmdSpec := { group := 0x08, verb := 1, pf0 := true, opts := 1, ast := true, acts := .object, args := [(0, 8), (8, 4), (12, 4), (16, 4), (20, 4)] }
def unmapped : State := { counted with xl := { counted.xl with ptes := [] } }
theorem witness_PageCommands_map :
    CmdRuns unmapped mapCmd mapSpec (astPart unmapped 2) true ∧ astOf unmapped 2 = some ast2 ∧ 0 < tableEntries ast2 ∧ pteOf unmapped 2 0 = none ∧
    classRefusal unmapped 1 1 = none ∧ hdmClash (writePage (startCmd unmapped mapCmd mapSpec) 2 0 1 1 7) = false ∧ homeOf unmapped (2 ^ 30) = some (selfNode unmapped) ∧
    (match homeAdds (startCmd unmapped mapCmd mapSpec) [1] 1 1 1 false with
     | .inl _ => true
     | .inr _ => false) = true := by decide
def rangeCmd (l : List (Nat × Nat)) : Cmd := { cmd l with ast := 2, addr0 := 0 }
theorem witness_PageCommands_unmap_and_protect :
    CmdRuns sw (rangeCmd [(0, 1)]) { group := 0x08, verb := 2, ast := true, acts := .object, args := [(0, 4)] } (astPart sw 2) (astMine sw (rangeCmd [(0, 1)]) 2) ∧
    CmdRuns sw (rangeCmd [(0, 1), (4, 5)]) { group := 0x08, verb := 3, ast := true, acts := .object, args := [(0, 4), (4, 4)] } (astPart sw 2) (astMine sw (rangeCmd [(0, 1), (4, 5)]) 2) ∧
    wholePages sw 2 0 1 = true ∧ (∀ i < 1, (pteOf sw 2 i).isSome = true) ∧ ksorted sw.xl.ptes = true := by decide

/-- A line of domain 0 with a transaction: agent 1 holds it, and its answer is awaited. -/
def txn : Txn := { req := .coh .rdShared 0 (req 3) .remote, awaiting := [1], inv := false, fromI := true }
def line1 : Line := { st := .m, owner := 1, domain := 0, txn := some txn }
def coh (f : Coh → Coh) : State :=
  { sw with coh := f { sw.coh with domains := [(0, { partition := 1, members := [(0, 5), (1, 6)] })], ranges := [(0, 0)], lines := [(3, line1)] } }
theorem witness_CoherenceTransitions :
    (lineOf (coh id) 3).txn = some txn ∧ (coh id).MemWf ∧ (lineOf (coh id) 3).st = .m ∧ (lineOf (coh id) 3).owner = 1 ∧ txn.inv = false ∧
    poisoned (coh id) 3 = false ∧ poisoned { coh id with mem := { sw.mem with poison := [3] } } 3 = true ∧
    (lineOf (coh fun c => { c with lines := [(3, { line1 with st := .e })] }) 3).st = .e := by decide

def group1 : Group := { pool := 0, op := .load, width := 64, signed := false, ast := 2, gen := 0, home := 9, start := 0, members := [7] }
def hot1 : HotLine := { lastSend := 0, held := [7] }
theorem witness_CoherenceEvents :
    discardUnknown sw 0 = false ∧ respOk { resp with dst := 1, reqOpcode := 0x48, result := 4 } = true ∧
    snoopResultOk { resp with dst := 1, reqOpcode := 0x48, result := 4 } = true ∧ respOk { resp with status := 6 } = true ∧
    (lineOf (coh fun c => { c with lines := [(3, { line1 with tenure := some (5, 1), txn := some { txn with waitTenure := true } })] }) 3).tenure = some (5, 1) ∧
    txn.awaiting ≠ [] ∧ txn.waitTenure = false ∧ (coh fun c => { c with sweeps := [(0, 1)] }).coh.sweeps.contains (0, 1) = true ∧
    kfind (coh fun c => { c with groups := [(4, group1)] }).coh.groups 4 = some group1 ∧ group1.sent = false ∧
    ksorted (coh fun c => { c with hot := [(3, hot1)] }).coh.hot = true ∧ storeOut (coh fun c => { c with hot := [(3, hot1)] }) 3 7 = none ∧
    kfind (coh fun c => { c with hot := [(3, { hot1 with held := [] })] }).coh.hot 3 = some { hot1 with held := [] } := by decide

theorem witness_DomainCommands :
    CmdRuns sw { cmd [(0, 2)] with partition := 1 } (domSpec 1 [(0, 4)] .field 0) none true ∧ domOf sw 2 = none ∧
    CmdRuns (coh id) (cmd []) (domSpec 2 [(0, 4)] .object 0) (domPart (coh id) (cmd [])) true ∧
    CmdRuns (coh id) (cmd [(4, 2), (8, 7)]) (domSpec 3 [(0, 4), (4, 4), (8, 4)] .object 0) (domPart (coh id) (cmd [(4, 2), (8, 7)])) true ∧
    agentMemberOk (startCmd (coh id) (cmd [(4, 2), (8, 7)]) (domSpec 3 [(0, 4), (4, 4), (8, 4)] .object 0)) { partition := 1, members := [(0, 5), (1, 6)] } 7 = true ∧
    CmdRuns (coh id) (cmd [(4, 1)]) (domSpec 4 [(0, 4), (4, 4)] .object 0) (domPart (coh id) (cmd [(4, 1)])) true ∧
    CmdRuns (coh id) (cmd [(4, 1)]) (domSpec 5 [(0, 4), (4, 4)] .object 1) (domPart (coh id) (cmd [(4, 1)])) true ∧
    homedHere (coh id) (1 * GiB) = true ∧ gibShared (coh id) 1 = false ∧
    CmdRuns (coh id) { cmd [] with opts := 1 } (domSpec 5 [(0, 4), (4, 4)] .object 1) (domPart (coh id) (cmd [])) true := by decide

def decoder0 : HdmDecoder := { base := 0, sizeGib := 1, partition := 1, ast := 2, vbase := 0 }
def bridge : State :=
  { coh fun c => { c with decoders := [(0, decoder0)] } with
    boot := { sw.boot with hbPerst := [true, false, false, false] }, lports := sw.lports ++ [(512, { node := some 20 })] }
theorem witness_AgentsAndHostBridge :
    domOf (coh id) 0 = some { partition := 1, members := [(0, 5), (1, 6)] } ∧ running bridge = true ∧ decoderOf bridge 0 64 = some decoder0 ∧ bridgeUp bridge 0 = true ∧
    hdmLine bridge decoder0 64 = some 1 ∧ foreignLine bridge 0 (some 1) = true ∧
    foreignLine { bridge with coh := { bridge.coh with ranges := [] } } 0 (some 1) = false ∧
    ({ bridge with coh := { bridge.coh with hostHeld := [heldKey 0 1], biSnoops := [⟨0, 1, true, 1, 5⟩] } } : State).coh.hostHeld.contains (heldKey 0 1) = true ∧
    (⟨0, 1, true, 1, 5⟩ : BiSnoop).home = selfNode bridge ∧
    (hdmPages bridge decoder0).contains 0 = true ∧ (partOf bridge 1).st = .active ∧ runsOf (0 : BitVec 64) = [] ∧ runsOf (6 : BitVec 64) = [(1, 2)] := by decide

def open1 : VOpen := { draft := true, version := 1, leaseEnd := 0 }
def region1 : SharedRegion := { partition := 1, frames := [0], leaseMs := 10, opens := [(5, open1)] }
def snap (r : SharedRegion) : State := { tiers id with snap := { sw.snap with regions := [(4, r)] } }
theorem witness_SharedRegions_versions :
    kfind (snap region1).snap.regions 4 = some region1 ∧ kfind region1.opens 9 = none ∧ opensAll (snap region1) < 65536 ∧
    leField (leBytes 4 4 ++ zeros 12) 0 4 = 4 ∧ leField (leBytes 8 1 ++ zeros 8) 0 8 = open1.version ∧ open1.version = region1.current ∧
    open1.version ≠ ({ region1 with current := 2 } : SharedRegion).current := by decide

def drafts16 : SharedRegion := { region1 with opens := (natRange 0 16).map fun n => (n, open1) }
/-- Opening the version in force, one named that is held or not, and a draft, where there is room for one more and where there is none. -/
theorem witness_SharedRegions_opens :
    leField (zeros 16) 0 4 = 0 ∧ leField (zeros 16) 8 8 = 0 ∧ leField (leBytes 4 1 ++ zeros 4 ++ leBytes 8 1) 0 4 = 1 ∧
    leField (leBytes 4 1 ++ zeros 4 ++ leBytes 8 1) 8 8 = region1.current ∧ (∃ e ∈ ({ region1 with current := 2 } : SharedRegion).opens, e.2.version = 1) ∧
    3 ≠ region1.current ∧ (∀ e ∈ region1.opens, e.2.version ≠ 3) ∧ leField (leBytes 4 2 ++ zeros 12) 0 4 = 2 ∧ draftsOf region1 < 16 ∧
    draftsOf { drafts16 with opens := drafts16.opens.take 15 } < 16 ∧ 16 ≤ draftsOf drafts16 ∧ kfind drafts16.opens 99 = none ∧
    region1.expired.contains 99 = false ∧ ({ region1 with expired := [5] } : SharedRegion).expired.contains 5 = true := by decide

def close5 : Req := { req 4 with length := 8, payload := zeros 8 }
theorem witness_SharedRegions_closes :
    leNat close5.payload = 0 ∧ close5.length ≠ 0 ∧ close5.src.toNat = 5 ∧ backed (snap region1) close5.address.toNat 0 = true ∧
    regionOf (snap region1) (frameOf close5.address.toNat) = some (4, region1, 0) ∧ region1.opens = [(5, open1)] ∧ region1.copies = [] ∧
    open1.written = [] ∧ open1.draft = true ∧ ({ open1 with draft := false } : VOpen).draft = false := by decide

def cow1 : CowCopy := { node := 5, frame := 0, sid := 0, ops := [] }
def shareCmd : Cmd := { cmd [(0, 1), (4, 10)] with ast := 2 }
theorem witness_SharedRegions_commands :
    ({ region1 with copies := [cow1] } : SharedRegion).copies.find? (fun c => c.node = 5 && c.frame = 0) = some cow1 ∧ (snap region1).mem.bytes = [] ∧
    CmdRuns (tiers id) shareCmd { group := 0x0C, verb := 1, ast := true, acts := .object, args := [(0, 4), (4, 4)] } (astPart (tiers id) 2) (astMine (tiers id) shareCmd 2) ∧
    vaToPool (tiers id) 2 0 = some 0 ∧ homedHere (tiers id) 0 = true ∧ regionOf (tiers id) 0 = none ∧ otherSwitches (tiers id) = [] ∧
    CmdRuns (snap region1) (cmd [(0, 4)]) { group := 0x0C, verb := 2, acts := .object, args := [(0, 4)] } (snapPart (snap region1) (cmd [(0, 4)])) (snapMine (snap region1) (cmd [(0, 4)])) ∧
    CmdRuns (snap region1) (cmd [(0, 4)]) { group := 0x0C, verb := 3, args := [(0, 4)], acts := .reads } none (snapMine (snap region1) (cmd [(0, 4)])) ∧
    (∀ f ∈ [0], f / 16384 = [0].headD 0 / 16384 ∧ (∃ e, tierOf (tiers id) f = some e ∧ e.copies ≤ 1)) ∧
    kfind (tiers id).coh.ranges 0 = none ∧ (tiers id).snap.regions = [] ∧ (tiers id).snap.destroying = [] := by
  refine ⟨by decide, by decide, by decide, by decide, by decide, by decide, by decide, by decide, by decide, ?_, by decide, by decide, by decide⟩
  intro f h; obtain rfl := List.mem_singleton.1 h; exact ⟨rfl, frame0, by decide, by decide⟩

/-! ## Power, partitions, keys and the management port -/

def pow (f : Power → Power) : State := { sw with power := f sw.power }
/-- Region 0 is Lit. -/
def lit (f : Region → Region) : State := pow fun p => { p with chip := .lit, regions := [(0, f { st := .lit, mhz := 900 })] }
theorem witness_PowerInputsAndLimits :
    running sw = true ∧ sw.power.inputLow = false ∧ (sw.power.refA && sw.power.refB) = true ∧ sw.power.refSel = 0 ∧
    sw.power.refSel ≠ regField (setField sw rClk 0 1 1) rClk 0 1 ∧ refGood sw.power 1 = true ∧
    regField (pow fun p => { p with pin := 4000 }) rPwr 24 12 < (pow fun p => { p with pin := 4000 }).power.pin ∧
    (pow fun p => { p with overSince := some 5 }).power.overSince = some 5 ∧
    leastBusy (lit id) (regions16.filter (isLit (lit id))) = some 0 ∧
    (pow fun p => { p with capHolds := [3] }).power.capHolds.getLast? = some 3 ∧ sw.power.pin * 100 < 95 * regField sw rPwr 24 12 ∧
    sw.power.guard = false := by decide

theorem witness_PowerStepping :
    isLit (lit id) 0 = true ∧ regField (lit id) rPwr 0 2 ≠ 0 ∧ regionWork (lit id) 0 = false ∧ (lit id).power.chip = .lit ∧
    regions16.any (isLit (pow fun p => { p with chip := .lit })) = false ∧ regField (setField sw rPwr 0 2 2) rPwr 0 2 = 2 ∧
    quiet sw none = true ∧ sw.power.chip = .trimmed ∧ sw.ras.halt = 0 ∧
    (pow fun p => { p with hooding := some { await := [0], since := 0 } }).power.hooding = some { await := [0], since := 0 } ∧
    (pow fun p => { p with chip := .hooded }).power.hooding = none ∧
    (regionPow (lit fun x => { x with st := .trimmed }) 0).held = false ∧ isFenced sw 0 = false ∧
    (regionPow (lit fun x => { x with cap := true }) 0).held = true := by decide

def powSpec (v : Nat) (a : List (Nat × Nat)) : CmdSpec := { pf0 := true, group := 0x1A, verb := v, args := a }
theorem witness_PowerCommands :
    CmdRuns sw (cmd [(0, 0), (4, 1000000)]) (powSpec 1 [(0, 4), (4, 4)]) none true ∧ sw.power.asked = none ∧ sw.power.tripped = false ∧
    CmdRuns sw (cmd [(0, 2), (4, 1)]) (powSpec 1 [(0, 4), (4, 4)]) none true ∧ bankedPorts (setField sw (rPort 0) 0 1 1) = false ∧
    (pow fun p => { p with asked := some ⟨.hooded, 9, ⟨0, 0, 1, 0, 0, none⟩⟩ }).power.asked = some ⟨.hooded, 9, ⟨0, 0, 1, 0, 0, none⟩⟩ ∧
    CmdRuns sw (cmd [(0, 15), (4, 2)]) (powSpec 2 [(0, 4), (4, 4)]) none true ∧ regionBound sw 15 = false ∧
    regionBound { sw with fab := { sw.fab with blocks := [(0, { use := .bound 3 0 0 })] } } 0 = true ∧
    CmdRuns sw (cmd []) (powSpec 3 []) none true := by decide

def two (x y : Region) : State := pow fun p => { p with regions := [(0, x), (1, y)] }
theorem witness_ThermalAndNeighbours :
    isLit (lit fun x => { x with hotSince := some 4, nbrSince := some 5 }) 0 = true ∧
    (regionPow (lit fun x => { x with hotSince := some 4, nbrSince := some 5 }) 0).hotSince = some 4 ∧
    (regionPow (lit fun x => { x with hotSince := some 4, nbrSince := some 5 }) 0).nbrSince = some 5 ∧
    toLower (two { st := .lit, mv := 700 } { st := .lit }) 0 1 = some 0 ∧ pairs16.contains (0, 1) = true ∧
    isLit (two { st := .lit, mv := 700 } { st := .lit }) 0 = true ∧ (two { st := .lit, mv := 700 } { st := .lit }).power.nbrAt = 0 := by decide

/-- A region above its limit of temperature, and one that was lowered and is compared with no other any more. -/
theorem witness_ThermalAndNeighbours_limits :
    (regionPow (lit id) 0).limT = 3600 ∧ ((8 * regField (lit id) rTherm 0 7 : Nat) : Int) < 1000 ∧
    (pairs16.any fun p => toLower (two { st := .lit, limN := 900 } { st := .lit }) p.1 p.2 = some 0) = false ∧
    (regionPow (two { st := .lit, limN := 900 } { st := .lit }) 0).limN < 3600 := by decide

def partSpec (v : Nat) (a : List (Nat × Nat)) (w : Acts) : CmdSpec := { pf0 := true, group := 0x02, verb := v, args := a, acts := w }
def tearing1 : State := { sw with parts := [(1, { st := .tearing })], sec := { sw.sec with tearing := [(1, { by_ := [] })] } }
theorem witness_PartitionCommands :
    CmdRuns sw { cmd [(0, 4095), (4, 512)] with partition := 2 } (partSpec 1 [(0, 4), (4, 4)] .own) none true ∧ (partOf sw 2).st = .free ∧
    keyStatus sw = none ∧ (partOf sw 1).st = .active ∧ CmdRuns sw { cmd [] with partition := 1 } { group := 0x02, verb := 2, acts := .own } none true ∧
    CmdRuns sw { cmd [(0, 4095), (4, 512)] with partition := 1 } (partSpec 3 [(0, 4), (4, 4)] .field) none true ∧
    CmdRuns sw { cmd [(0, 511)] with partition := 1 } (partSpec 4 [(0, 4)] .field) none true ∧ facesSwitch sw 511 = false ∧
    (lportOf sw 511).parts.contains 1 = false ∧ CmdRuns sw { cmd [] with partition := 1 } (partSpec 5 [(0, 4)] .field) none true ∧
    (lportOf sw 0).parts.contains 1 = true ∧ CmdRuns sw { cmd [] with partition := 1 } { group := 0x02, verb := 6, pf0 := true, acts := .own } none true ∧
    CmdRuns tearing1 { cmd [] with partition := 1 } { group := 0x02, verb := 6, pf0 := true, acts := .own } none true ∧
    (partOf tearing1 1).st = .tearing ∧ (kfind tearing1.sec.tearing 1).isSome = true := by decide

def sec (f : Sec → Sec) : State := { sw with sec := f sw.sec }
def partner9 : Partner := ⟨.switch, 0, 9, 1, 0, 0, 0, 0, 0, 0, 100, []⟩
def markedSw : State :=
  { sw with lports := [(4, { link := .active, role := some .switch, disc := .known, marked := true, partner := some partner9,
                             sec := { txKeys := [some [], none], rxKeys := [some [], none] } })] }
theorem witness_KeysAndMarks :
    CmdRuns sw (cmd [(0, 7)]) { group := 0x03, verb := 1, args := [(0, 32)] } none true ∧ idLost sw = false ∧
    CmdRuns sw (cmd []) { group := 0x03, verb := 2 } none true ∧
    CmdRuns markedSw (cmd [(0, 4)]) { pf0 := true, group := 0x03, verb := 3, args := [(0, 4)] } none true ∧ kexCheck markedSw 4 = none ∧
    CmdRuns markedSw { cmd [(0, 4)] with host := some [] } { pf0 := true, host := true, group := 0x03, verb := 4, args := [(0, 4)] } none true ∧
    (lportOf sw 4).sec.txKeys.getD (lportOf sw 4).sec.txSlot none = none ∧ facesSwitch markedSw 4 = true ∧ kexMine markedSw 4 = true ∧
    ((lportOf markedSw 4).sec.txKeys.getD (lportOf markedSw 4).sec.txSlot none).isSome = true ∧
    kfind (sec fun x => { x with kex := [(4, ⟨0, [], 0⟩)] }).sec.kex 4 = some ⟨0, [], 0⟩ ∧
    CmdRuns sw (cmd [(0, 515), (4, 1), (8, 1)]) { pf0 := true, group := 0x04, verb := 1, args := [(0, 4), (4, 4), (8, 4)] } none true ∧
    CmdRuns sw (cmd [(0, 511), (4, 1)]) { pf0 := true, group := 0x04, verb := 2, args := [(0, 4), (4, 4)] } none true ∧
    sw.sec.rngAt = none ∧ sw.ras.rngFailed = false ∧ (sec fun x => { x with rngAt := some 0 }).clk ≤ 0 + 1000000000 := by decide

/-- A key exchange record whose signature verifies under the key of its chain: no number is known for either. -/
theorem witness_KeysAndMarks_record (b key : List Byte) (serial : Nat) (n : 4936 ≤ b.length)
    (hk : Config.chainKey (b.drop 4936) = some (key, serial)) (hs : sigOk key (b.take 1608) (sliceBytes b 1608 3328) = true) :
    (kexRead b).isSome = true := by
  simp [kexRead, Nat.not_lt.2 n, hk, hs]

def session (p : Nat) (e : Bool) : State := sec fun x => { x with spdm := p, sessions := [{ id := 1, established := e }] }
theorem witness_SpdmRequests :
    SpdmReady (session 0 false) 0 ∧ SpdmReady (session 3 false) 3 ∧ keyStatus sw = none ∧ (∃ x ∈ (session 3 false).sec.sessions, x.id = 1 ∧ x.established = false) ∧
    InSession (session 3 true) 1 := by decide

def tdi (t : Tdi) (k : List IdeKey) : State :=
  { session 3 true with hys := { sw.hys with numVfs := 2, vfEnable := true }, parts := [(1, { st := .active, tdi := t })],
                        sec := { (session 3 true).sec with ide := k, lockNonce := [(2, zeros 32)] } }
theorem witness_TdispAndIde :
    InSession (tdi .unlocked []) 1 ∧ fnExists (tdi .unlocked []) 2 = true ∧ (partOf (tdi .run []) 1).tdi = .run ∧
    (ideStreamsOf (tdi .unlocked [⟨1, 0, 6, 1, 5, true⟩]) 0).contains 6 = true ∧ (partOf (tdi .unlocked []) 1).tdi = .unlocked ∧
    kfind (tdi .locked []).sec.lockNonce 2 = some (zeros 32) ∧ (ideStreamsOf (tdi .unlocked []) 4).length < streamRoom 4 ∧
    (∀ k ∈ [(⟨1, 4, 6, 1, 5, false⟩ : IdeKey)], inSet 4 6 1 k = true → k.active = false) ∧
    (∃ k ∈ (tdi .unlocked [⟨1, 0, 6, 1, 5, true⟩]).sec.ide, inSet 0 6 1 k = true ∧ k.sub = 5 ∧ k.active = true) := by decide

/-! ## Completions, messages, the fabric and links -/

def cplGood : Resp := { resp with reqOpcode := 0x01, segCover := 64 }
def outs (o : OutReq) : State := { sw with ing := { sw.ing with outs := [(7, o)] } }
/-- The same LOAD, sent and not answered. -/
def sentLoad : OutReq := { outLoad with parts := [{ off := 0, len := 64, pool := 0, home := 9, sent := true }] }
def gap (l : List (Nat × Time)) : SeqPair := { src := 5, dst := 1, next := 5, above := l }
def pairs (e : SeqPair) : State := { sw with ing := { sw.ing with pairs := [e] } }
theorem witness_CompletionsAndGaps :
    Arrives sw 4 ∧ respOk { cplGood with status := 9 } = true ∧ respOk { resp with status := 12 } = false ∧
    cplGood.dst.toNat ≠ selfNode sw ∧ linkResp sw cplGood = false ∧ lportOfNode sw 5 = some 0 ∧ lportOfNode sw 6 = none ∧
    answers sw cplGood = none ∧ engineAnswers (consumed sw cplGood) cplGood = none ∧ findOut (outs outLoad) 5 7 = some (7, outLoad) ∧
    outLoad.phase ≠ .unanswered ∧ (outLoad.parts.filter fun p => p.sent && !p.done) = [] ∧
    answers (outs sentLoad) (markLoad (outs sentLoad) cplGood) = some (7, 0) ∧ firstAbove (gap []) 5 = none ∧ gapStart (gap [(7, 40), (6, 50)]) = 5 ∧
    firstAbove (gap [(7, 40), (6, 50)]) 5 = some 40 ∧
    (pairs (gap [(7, 40)])).ing.pairs.find? (fun e => e.src = 5 && e.dst = 1) = some (gap [(7, 40)]) := by decide

/-- A read of a tray, node 8, that its response answers; and a STORE absorbed by the LOAD's number. -/
def trayRead : TrayReq := { op := 9, slot := 0, frame := 0, copyIx := 0, read := true, pool := 0, len := 64, n := 64, src := 1, tag := 7, node := 8, since := 0 }
def asked : State := { sw with mem := { sw.mem with trayReqs := [(4, trayRead)] } }
theorem witness_CompletionsAndGaps_trays :
    trayFor asked { cplGood with dst := 1, rspNode := 8 } = some (4, trayRead) ∧ trayFor asked cplGood = none ∧ trayFor sw cplGood = none ∧
    (outs { outLoad with phase := .unanswered }).ing.outs = [(7, { outLoad with phase := .unanswered })] ∧
    ((outs { outLoad with phase := .absorbed 3 }).ing.outs.filter fun e => e.2.phase = .absorbed 3).map (·.1) = [7] := by decide

/-- A management message to no node, and one to this switch. -/
def msg (n : Nat) (b : List Byte) : Req := { req 0 with lport := n, flags := 2, partition := 0, ast := 0, dst := 0x7FFF, length := BitVec.ofNat 24 b.length, payload := b }
def toSelf (n : Nat) (b : List Byte) : Req := { msg n b with dst := 1 }
theorem witness_MessagesTaken :
    sw.ras.cores.any (·.live) = true ∧ MessageIn sw 0x8E (msg 4 (zeros 16)) ∧ facesSwitch sw 4 = true ∧ MessageIn sw 0x80 (msg 0 (zeros 96)) ∧
    facesSwitch sw 0 = false ∧ switchesMarked 0x80 = false ∧ MessageIn sw 0x83 (toSelf 0 (zeros 64)) ∧ MessageIn sw 0x89 (toSelf 4 (zeros 72)) ∧
    MessageIn sw 0x87 (toSelf 0 (zeros 48)) ∧ MessageIn sw 0x8A { toSelf 0 (zeros 64) with dst := 9 } ∧
    ({ sw with ras := { sw.ras with cores := [{ live := false }] } } : State).ras.cores.any (·.live) = false := by decide

def hello (role yours : Nat) : List Byte := leBytes 1 role ++ leBytes 1 1 ++ leBytes 2 0 ++ leBytes 2 9 ++ leBytes 2 yours ++ zeros 40 ++ leBytes 4 100 ++ zeros 44
def port0 (d : Disc) (r : Role) (p : Option Partner) : State :=
  { sw with lports := [(0, { link := .active, role := some r, disc := d, node := some 5, partner := p })] }
theorem witness_Discovery :
    (helloOf (hello 1 0)).map (·.role) = some .endpoint ∧ ((helloOf (hello 0 0)).map fun q => decide (q.role = .switch ∧ q.chainLen ≠ 0)) = some true ∧
    helloOf (zeros 95) = none ∧ (lportOf (port0 .hello .endpoint none) 0).disc = .hello ∧ (lportOf (port0 .verify .switch (some partner9)) 0).disc = .verify ∧
    (lportOf (port0 .verify .switch (some partner9)) 0).cert.length + 100 ≤ partner9.chainLen ∧ facesSwitch sw 0 = false ∧ leNat (leBytes 8 1) = 1 ∧
    (lportOf (port0 .hello .endpoint none) 0).helloLate = false := by decide

theorem witness_Discovery_piece :
    let b := leBytes 4 0 ++ leBytes 4 100 ++ zeros 108
    b.length = 16 + leField b 4 4 ∧ 0 < leField b 4 4 ∧ leField b 4 4 < 2 ^ 14 ∧ leField b 8 8 = 0 ∧ leField b 0 4 = 0 := by decide

def route (l : Nat) : Route := { local_ := false, hops := [some l, none, none, none], esc := some l }
def routed : State := { sw with core := { sw.core with routes := [(9, route 4)] } }
def withdraw : List Byte := leBytes 2 1 ++ zeros 6 ++ leBytes 2 9 ++ leBytes 2 1
theorem witness_MessageEffects :
    leNat (leBytes 16 65535) < 2 ^ 16 ∧ leField (zeros 32) 12 4 < 64 ∧ routeMsg withdraw = some ([(9, 1)], false) ∧ wickDecides routed = true ∧
    (withdrawFrom routed 4 [(9, 1)]).2 = [9] ∧ (withdrawFrom routed 0 [(9, 1)]).2 = [] ∧ kfind routed.core.routes 9 = some (route 4) ∧
    (restoreHops routed 4 fun _ => true).2 = [] ∧ lportOfNode sw 5 = some 0 ∧ kfind sw.ras.health 0 = none ∧
    findOut (outs outLoad) 5 7 = some (7, outLoad) ∧ knownSwitch sw 9 = false ∧ knownSwitch markedSw 9 = true ∧
    leField (leBytes 2 6 ++ zeros 70) 0 2 = 6 ∧ (lportOf sw 4).marked = false ∧ (lportOf markedSw 4).marked = true ∧
    ticketCheck sw [] = some (6, 1) ∧ signedCheck sw [] = some (6, 1) := by decide

/-- A switch with one manager, whose serial and boot are 0, and a command it signs. -/
def managed : State :=
  { routed with fm := { sw.fm with managers := [{ key := [], report := 5 }], threshold := 1, keyEpoch := 1, serial := 0, bootId := 0 } }
def fresh : State := { managed with fm := { managed.fm with selfNode := 0x7FFF } }
def signedHead (g v part : Nat) (a : Nat) : List Byte :=
  leBytes 4 0x434D4446 ++ leBytes 2 1 ++ zeros 18 ++ leBytes 8 1 ++ leBytes 4 64 ++ zeros 28 ++
    (leBytes 1 g ++ leBytes 1 v ++ zeros 4 ++ leBytes 2 part ++ zeros 24 ++ leBytes 32 a)
def signedCmd (b : List Byte) (l : List Byte) : Cmd := { cmd [] with signed := true, host := some b, list := some l }

/-- A slice within the first of two lists. -/
theorem slice_append (h t : List Byte) (off n : Nat) (k : off + n ≤ h.length) : sliceBytes (h ++ t) off n = sliceBytes h off n := by
  have e : ((h ++ t).drop off).take n = (h.drop off).take n := by
    rw [List.drop_append_of_le_length (by omega), List.take_append_of_le_length (by simp; omega)]
  simp only [sliceBytes, e]

/-- A signed command's first 128 bytes, for a state and a row. -/
abbrev HeadOk (s : State) (sp : CmdSpec) (h l : List Byte) : Prop :=
  h.length = 128 ∧ (leField h 0 4 = 0x434D4446 ∧ leField h 0x20 4 = 64 ∧ leField h 0x24 28 = 0 ∧ leField h 6 2 = 0) ∧
    (leField h 4 2 = s.fm.keyEpoch ∧ leField h 8 8 = s.fm.serial ∧ leField h 0x10 8 = s.fm.bootId ∧ leField h 0x18 8 = 1) ∧
    leField h 64 1 = sp.group ∧ leField h 65 1 = sp.verb ∧ running s = true ∧ mayStart s (signedCmd [] l) sp = true ∧
    (bodyCmd (signedCmd [] l) (sliceBytes h 64 64)).outLen = 0 ∧ (bodyCmd (signedCmd [] l) (sliceBytes h 64 64)).addr1 = 0 ∧
    descriptorOk (bodyCmd (signedCmd [] l) (sliceBytes h 64 64)) sp = true

/-- Commands of one manager run where its signature verifies: no number is known for that. -/
theorem signed_runs (s : State) (sp : CmdSpec) (h sig l : List Byte) (hm : s.fm.managers = [{ key := [], report := 5 }])
    (hl : sig.length = 3328) (hs : sigOk [] h sig = true) (ok : HeadOk s sp h l) :
    SignedRuns s (signedCmd (h ++ sig) l) sp (h ++ sig) := by
  obtain ⟨n, ⟨a1, a2, a3, a4⟩, ⟨b1, b2, b3, b4⟩, c1, c2, run, may, d⟩ := ok
  have f : ∀ off k, off + k ≤ 128 → leField (h ++ sig) off k = leField h off k := fun off k x => by
    simp only [leField, slice_append h sig off k (by omega)]
  have e1 : (h ++ sig).take 128 = h := by rw [← n, List.take_left']; rfl
  have e2 : (h ++ sig).drop 128 = sig := by rw [← n, List.drop_left']; rfl
  refine ⟨run, may, rfl, rfl, rfl, rfl, ?_, by rw [f _ _ (by omega), c1], by rw [f _ _ (by omega), c2], ?_⟩
  · simp [signedCheck, f, a1, a2, a3, a4, b1, b2, b3, b4, hm, hs, hl, n, e1, e2]
  · rw [slice_append h sig 64 64 (by omega)]; exact ⟨d.1, d.2.1, d.2.2, fun _ => rfl⟩

theorem witness_NodeAndRouteCommands (sig : List Byte) (hl : sig.length = 3328) :
    let run := fun (s : State) (sp : CmdSpec) (h : List Byte) => sigOk [] h sig = true → SignedRuns s (signedCmd (h ++ sig) []) sp (h ++ sig)
    run fresh selfSpec (signedHead 5 1 0 0x7FFE) ∧ run managed selfSpec (signedHead 5 1 0 0x7FFF) ∧ run managed assignSpec (signedHead 5 2 0 (8 + 30 * 2 ^ 32)) ∧
    run managed clearSpec (signedHead 5 3 0 0) ∧ run managed routeSpec (signedHead 6 1 0 0) :=
  ⟨fun hs => signed_runs _ _ _ sig [] rfl hl hs (by decide +kernel), fun hs => signed_runs _ _ _ sig [] rfl hl hs (by decide +kernel),
    fun hs => signed_runs _ _ _ sig [] rfl hl hs (by decide +kernel), fun hs => signed_runs _ _ _ sig [] rfl hl hs (by decide +kernel),
    fun hs => signed_runs _ _ _ sig [] rfl hl hs (by decide +kernel)⟩

def rec1 : List Byte := leBytes 8 1 ++ leBytes 8 9 ++ leBytes 8 (1 + 516 * 16 + 4 * 2 ^ 52 + 2 ^ 61)
def drained (l : List QPkt) : State := { routed with fm := { routed.fm with escDrain := some ([(9, none)], ⟨0, 0, 1, 0, 0, none⟩, 5) }, core := { routed.core with voqs := l } }
theorem witness_NodeAndRouteCommands_entries :
    (let l := rec1
     let k := leField l 0 8
     0 < k ∧ k ≤ 4096 ∧ 8 + 16 * k ≤ l.length ∧ routeRecords (l.drop 8) k = some [(9, some (route 4))]) ∧
    [(9, some (route 4))].any (escChanges routed) = false ∧ [(9, none)].any (escChanges routed) = true ∧ routed.fm.escDrain = none ∧
    ksorted routed.core.routes = true ∧ escDrained (drained []) = true ∧ selfNode fresh = 0x7FFF ∧ (lportOf sw 8).node = none ∧
    (lportOf sw 8).disc = .none ∧ lportOfNode sw 30 = none ∧ kfind routed.core.routes 30 = none ∧ (lportOf sw 0).node = some 5 := by decide

theorem witness_ManagersAndTickets (sig : List Byte) (hl : sig.length = 3328) :
    let run := fun (s : State) (sp : CmdSpec) (h : List Byte) => sigOk [] h sig = true → SignedRuns s (signedCmd (h ++ sig) []) sp (h ++ sig)
    run managed roleSpec (signedHead 7 2 0 3) ∧ run managed freeSpec (signedHead 7 3 0 (1 + 2 ^ 64)) ∧
    run managed budgetSpec (signedHead 7 5 0 (65535 + 255 * 2 ^ 32 + 3600000 * 2 ^ 64)) ∧ run managed sparesSpec (signedHead 7 6 0 1) ∧
    run managed ticketSpec (signedHead 7 4 0 0) :=
  ⟨fun hs => signed_runs _ _ _ sig [] rfl hl hs (by decide +kernel), fun hs => signed_runs _ _ _ sig [] rfl hl hs (by decide +kernel),
    fun hs => signed_runs _ _ _ sig [] rfl hl hs (by decide +kernel), fun hs => signed_runs _ _ _ sig [] rfl hl hs (by decide +kernel),
    fun hs => signed_runs _ _ _ sig [] rfl hl hs (by decide +kernel)⟩

theorem witness_ManagersAndTickets_first :
    CmdRuns sw { cmd [] with host := some [] } { managersSpec with host := false } none true ∧ sw.fm.managers = [] ∧ managed.fm.managers ≠ [] ∧
    managed.mem.freePending = none ∧ managed.ras.limit ≤ expelsUsed managed ∧
    ({ sw with ras := { sw.ras with tickets := [(3, 4)] } } : State).ras.tickets.find? (fun e => e.1 = 3) = some (3, 4) := by decide

/-- A ticket of one manager for the switch itself: its 64-byte header (R796). -/
def ticketHead (action : Nat) : List Byte :=
  leBytes 4 0x5449434B ++ leBytes 1 action ++ leBytes 1 1 ++ leBytes 2 1 ++ leBytes 8 77 ++ leBytes 8 0 ++ leBytes 8 600000000000 ++
    leBytes 1 1 ++ leBytes 1 0 ++ leBytes 2 1 ++ zeros 28

/-- What a ticket's checks read of its header, for a state. -/
abbrev TicketOk (s : State) (h : List Byte) : Prop :=
  h.length = 64 ∧ ticketForm (h ++ zeros 3328) = true ∧ (ticketOf h).epoch = s.fm.keyEpoch ∧ signerList (ticketOf h).signers = [0] ∧
  quorum s [0] = true ∧ (ticketOf h).issued ≤ s.ftime.toNat ∧ s.ftime.toNat ≤ (ticketOf h).expires ∧
  (ticketOf h).expires ≤ (ticketOf h).issued + 600000000000 ∧ (s.ras.tickets.any fun e => e.1 = (ticketOf h).id) = false ∧
  ((ticketOf h).target.switch && (ticketOf h).target.node = selfNode s) = true

/-- A ticket's form and fields are read of its header, and its form of its length too. -/
theorem ticket_header (h x y : List Byte) (n : h.length = 64) (e : x.length = y.length) :
    ticketForm (h ++ x) = ticketForm (h ++ y) ∧ ticketOf (h ++ x) = ticketOf h := by
  have f : ∀ (x : List Byte) off k, off + k ≤ 64 → leField (h ++ x) off k = leField h off k := fun x off k y => by
    simp only [leField, slice_append h x off k (by omega)]
  constructor <;> simp [ticketForm, ticketOf, f, e]

theorem ticket_accepted (s : State) (h sig : List Byte) (hm : s.fm.managers = [{ key := [], report := 5 }])
    (hl : sig.length = 3328) (hs : sigOk [] h sig = true) (ok : TicketOk s h) : ticketCheck s (h ++ sig) = none := by
  obtain ⟨n, form, ep, sg, q, i1, i2, i3, t, me⟩ := ok
  have ⟨g, e⟩ := ticket_header h sig (zeros 3328) n (by rw [hl, zeros, List.length_replicate])
  have e1 : (h ++ sig).take 64 = h := by rw [← n, List.take_left']; rfl
  have e2 : (h ++ sig).drop 64 = sig := by rw [← n, List.drop_left']; rfl
  have b : blocksOk s h [0] sig = true := by
    have : sig.take 3328 = sig := List.take_of_length_le (by omega)
    simp [blocksOk, hm, this, hs]
  have a1 : ¬ (s.ftime.toNat < (ticketOf h).issued ∨ (ticketOf h).expires < s.ftime.toNat ∨
      (ticketOf h).issued + 600000000000 < (ticketOf h).expires) := by omega
  simp only [ticketCheck, e, g, form, e1, e2, sg, b, ep, q, t, me]
  simp [a1]

theorem witness_ManagersAndTickets_ticket (sig : List Byte) (hl : sig.length = 3328) (a : Nat) (ha : a = 1 ∨ a = 2 ∨ a = 3)
    (hs : sigOk [] (ticketHead a) sig = true) :
    ticketCheck managed (ticketHead a ++ sig) = none ∧ (ticketOf (ticketHead a ++ sig)).action = a ∧ ticketRoom managed = true := by
  have n : (ticketHead a).length = 64 := by rcases ha with rfl | rfl | rfl <;> decide
  refine ⟨ticket_accepted _ _ sig rfl hl hs ?_, ?_, by decide⟩
  · rcases ha with rfl | rfl | rfl <;> decide +kernel
  · rw [(ticket_header _ sig sig n rfl).2]; rcases ha with rfl | rfl | rfl <;> decide +kernel

def ras (f : Ras → Ras) : State := { sw with ras := f sw.ras }
def dead : WickCore := { live := false }
def alive : WickCore := {}
def quarFrame (stale : List Nat) : State :=
  tiers fun m => { m with tier := [(0, { frame0 with tier := .t2, loc0 := 2 ^ 33, loc1 := 2 ^ 33 + 2 ^ 28, copies := 2, quarantined := true, stale := stale })],
                          slots := [(0, ⟨[8], 1, 1, 0, 1, []⟩), (1, ⟨[9], 1, 1, 0, 1, []⟩)] }
theorem witness_CoresFencesAndScores_cores :
    sw.ras.cores[0]? = some alive ∧ sw.ras.hurricane = true ∧ (ras fun x => { x with cores := [dead, {}, {}, {}] }).ras.cores[0]? = some dead ∧
    (ras fun x => { x with cores := [dead, {}, {}, {}] }).ras.cores.any (·.live) = true ∧
    (ras fun x => { x with cores := [dead, dead, dead, dead], restartAt := some 0 }).ras.cores.any (·.live) = false ∧
    (ras fun x => { x with cores := [dead], restartAt := some 0 }).ras.restartAt.isSome = true ∧ sw.ras.restartAt = none := by decide

theorem witness_CoresFencesAndScores_fences :
    wickDecides sw = true ∧ wickDecides (ras fun x => { x with cores := [dead] }) = false ∧
    CmdRuns sw (cmd [(0, 15)]) { pf0 := true, group := 0x17, verb := 1, args := [(0, 4)] } none true ∧
    CmdRuns sw (cmd [(0, 15)]) { pf0 := true, group := 0x17, verb := 2, args := [(0, 4)] } none true ∧
    isFenced (ras fun x => { x with fenced := [(15, true)] }) 15 = true ∧ kfind (ras fun x => { x with fenced := [(15, false)] }).ras.fenced 15 = some false ∧
    ksorted (ras fun x => { x with fenced := [(15, true)] }).ras.fenced = true ∧ regField (setField sw rRas 16 14 1) rRas 16 14 ≠ 0 ∧
    regField (setField sw rRas 16 14 0) rRas 16 14 = 0 ∧ kfind (ras fun x => { x with health := [(4, {})] }).ras.health 4 = some {} ∧
    CmdRuns sw (cmd []) { pf0 := true, group := 0x19, verb := 1 } none true ∧ CmdRuns sw (cmd []) { pf0 := true, group := 0x18, verb := 1 } none true := by decide

/-- Each 4 KiB of copy 0 of frame 0 holds bytes that its record's CHECKSUM covers. -/
def keptCopy : State :=
  let s := quarFrame [1]
  { s with mem := { s.mem with copyAlt := (natRange 0 512).map fun u => (u, []),
                               copyMeta := (natRange 0 512).map fun u => (u, { checksum := crc32c [] }) } }

theorem mem_natRange : ∀ (n a u : Nat), u ∈ natRange a n → a ≤ u
  | n + 1, a, u, h => by
    rcases List.mem_cons.1 h with rfl | h
    · exact Nat.le_refl _
    · have := mem_natRange n (a + 1) u h; omega

theorem kfind_natRange {α : Type} (v : α) : ∀ (n a u : Nat), u ∈ natRange a n → kfind ((natRange a n).map fun k => (k, v)) u = some v
  | n + 1, a, u, h => by
    by_cases e : a = u
    · simp [natRange, kfind, e]
    · have m : u ∈ natRange (a + 1) n := (List.mem_cons.1 h).resolve_left (Ne.symm e)
      simpa [natRange, kfind, e] using kfind_natRange v n (a + 1) u m

theorem witness_CoresFencesAndScores_resolve :
    CmdRuns (quarFrame [1]) (cmd [(8, 0)]) { group := 0x08, verb := 7, args := [(0, 8), (8, 4)], acts := .object } (some 1) true ∧
    (∀ t, tierOf keptCopy (frameOf 0) = some t → t.quarantined = true ∧ 0 < t.copies ∧ (resolve keptCopy (frameOf 0) 0).isSome = true) := by
  refine ⟨by decide, fun t h => ?_⟩
  obtain rfl : _ = t := Option.some.inj h
  refine ⟨rfl, by decide, ?_⟩
  have k : ((natRange 0 512).all fun u => committed keptCopy
      { frame0 with tier := .t2, loc0 := 2 ^ 33, loc1 := 2 ^ 33 + 2 ^ 28, copies := 2, quarantined := true, stale := [1] } (frameOf 0) u 0) = true := by
    refine List.all_eq_true.2 fun u m => ?_
    have e : metaKey (frameOf 0) 0 u = u := by simp [metaKey, frameOf]
    simp [committed, copyBytes, e, keptCopy, kget, kfind_natRange _ 512 0 u m]
  simp only [resolve, h, k]
  rfl

def lport (f : LPort → LPort) : State := { sw with lports := [(0, f { link := .active, role := some .switch, disc := .known })] }
def ll (f : Link → Link) : State := lport fun l => { l with ll := f {} }
theorem witness_LinkTraining :
    PortLive sw 511 ∧ (lportOf (lport fun l => { l with link := .detect }) 0).link = .detect ∧
    (lportOf (lport fun l => { l with link := .config, ll := { gotCredit := true, sentCredit := true } }) 0).ll.gotCredit = true ∧
    (lportOf (lport fun l => { l with link := .config }) 0).ll.gotDone = false := by decide

theorem witness_LinkLoss :
    PortLive (lport id) 0 ∧ (lportOf (lport id) 0).gw = none ∧ (lanesUsed (lport id) 0).contains 3 = true ∧
    (∃ i ∈ [3], (lanesUsed (lport id) 0).contains i = true) ∧ (∃ i ∈ lanesUsed (lport id) 0, ([3].contains i) = false) ∧
    linkUp .lowPower = true ∧ linkUp .config = false ∧ cutFrom (lport id) 0 = none := by decide

/-- Ten zero flits of one channel, with a CRC10 that is theirs, and one that is not. -/
def good : Codeword := { tag := 2 ^ 10 * crc10 0 (zeros 2), data := zeros 2 }
theorem witness_LinkCodewords :
    PortLive (lport id) 0 ∧ (lportOf (lport id) 0).ll.rxWait = none ∧ bits good.tag 10 10 = crc10 (bits good.tag 0 10) good.data ∧
    bits ({ good with tag := good.tag + 2 ^ 10 } : Codeword).tag 10 10 ≠ crc10 (bits ({ good with tag := good.tag + 2 ^ 10 } : Codeword).tag 0 10) good.data ∧
    (lportOf (lport id) 0).ll.rxPos = (lportOf (lport id) 0).ll.rxNext ∧ (codewordFlits good).any isData = true ∧
    (∀ f ∈ codewordFlits good, badControl f = false) ∧ ((0 + 4096 - (4095 + 1) % 4096) % 4096 < 2048) ∧
    (lportOf (ll fun x => { x with txHeld := [5] }) 0).ll.txHeld.contains 5 = true ∧ 1 < regField sw (rPortLink 0) 8 4 ∧
    cwBefore 4095 (lportOf (lport id) 0).ll.rxNext = true := by decide +kernel

theorem witness_LinkTimersAndFrames :
    (∃ v, v < 6 ∧ (lportOf (ll fun x => { x with adv := [0, 0, 0, 0, 0, 0, 0, 0, 0, 0, 0, 9] }) 0).ll.adv.getD (2 * v + 1) 0 ≠ 0) ∧
    (lportOf (ll fun x => { x with txHeld := [5] }) 0).ll.txHeld = [5] ∧ (lportOf (ll fun x => { x with rxWait := some 8 }) 0).ll.rxWait = some 8 ∧
    portQuiet (lport id) 0 = true ∧ portQuiet (ll fun x => { x with txq := [{ id := 1, pkt := .req .load (req 4), total := 1, left := 1 }] }) 0 = false ∧
    (lportOf (ll fun x => { x with lp := .asked }) 0).ll.lp = .asked ∧ sw.power.hooding = none ∧ sw.power.chip ≠ .hooded ∧
    (lportOf markedSw 4).sec.rxKeys.getD 0 none = some [] ∧ (lportOf markedSw 4).sec.failedOnce ≠ some 0 := by decide

def gw0 : Gateway := { ownMac := 0, peerMac := 0, vlan := none, pcp := [], rtoUs := 5, deadUs := 10, retxMib := 1, held := [(1, 4)] }
def gwSpec : CmdSpec :=
  { pf0 := true, group := 4, verb := 3, args := [(0, 4), (8, 6), (16, 6), (4, 2), (6, 1), (14, 2), (22, 2), (24, 2), (26, 2), (28, 1)] }
def gwCmd (vlan rto dead mib : Nat) : Cmd := cmd [(0, 4), (8, 2 ^ 47), (16, 2), (4, vlan), (14, 0x7777), (24, rto), (26, dead), (28, mib)]
def gwOn : State := setField sw (rPort 1) 3 1 1
abbrev GwOk (c : Cmd) : Prop :=
  CmdRuns gwOn c gwSpec none true ∧ lportThere gwOn (arg c 0 4) = true ∧ regField gwOn (rPort (portOf (arg c 0 4))) 3 1 = 1 ∧ macOk (arg c 8 6) = true ∧
    macOk (arg c 16 6) = true ∧ (arg c 4 2 ≤ 4094 ∨ arg c 4 2 = 0xFFFF) ∧ (∀ v, v < 6 → bits (arg c 14 2 + 2 ^ 16 * arg c 22 2) (4 * v) 4 ≤ 7) ∧
    5 ≤ arg c 24 2 ∧ arg c 24 2 ≤ 5000 ∧ 10 ≤ arg c 26 2 ∧ arg c 26 2 ≤ 10000 ∧ 1 ≤ arg c 28 1 ∧ arg c 28 1 ≤ 16 ∧ ceilDiv (arg c 28 1) 2 ≤ t1Free gwOn
theorem witness_GatewaysAndPortCommands :
    (lportOf (lport fun l => { l with gw := some gw0 }) 0).gw = some gw0 ∧ gw0.held ≠ [] ∧ GwOk (gwCmd 4094 5 10 1) ∧ GwOk (gwCmd 0xFFFF 5000 10000 16) ∧
    CmdRuns sw (cmd [(0, 4)]) { pf0 := true, group := 4, verb := 4, args := [(0, 4)] } none true ∧ lportThere sw 4 = true ∧ (lportOf sw 4).link = .active ∧
    CmdRuns sw (cmd [(0, 4)]) { pf0 := true, group := 4, verb := 5, args := [(0, 4)] } none true ∧
    (lportOf (lport fun l => { l with link := .quarantined }) 0).link = .quarantined ∧
    CmdRuns sw (cmd [(0, 511)]) { pf0 := true, group := 4, verb := 6, args := [(0, 4)] } none true := by decide

/-- A packet of 128 bytes from port 0 to port 4. -/
def pkt1 : QPkt := { id := 3, pkt := .req .load { req 4 with dst := 9 }, inPort := 0, inLport := 0, egress := 4, tc := 4, bytes := 64, entered := 0, cells := 1, total := 1 }
def voq (q : QPkt) : State := { routed with core := { routed.core with voqs := [q] } }
theorem witness_CoreEvents :
    pktOf (voq pkt1) 3 = some pkt1 ∧ inVoq pkt1 = false ∧ sharedRoom (voq pkt1) pkt1 = true ∧ crossing pkt1 = false ∧ sw.core.parityAt.length < 15 ∧
    (headsOf [] (voq { pkt1 with shared := true }).core.voqs).find? (fun x => x.id = 3) = some { pkt1 with shared := true } ∧
    facesSwitch sw 4 = true ∧ noCreditFor (voq { pkt1 with shared := true }) { pkt1 with shared := true } 4 = true ∧ sw.fm.escDrain = none ∧
    kfind (voq pkt1).core.routes pkt1.pkt.dstOf = some (route 4) ∧ escUsable (voq pkt1) (route 4) = some 4 ∧
    CmdRuns sw (cmd []) { pf0 := true, group := 0x16, verb := 1 } none true := by decide

def bucket (l : List Nat) : State := { outs outLoad with buckets := [(0, { level := 0, at_ := 0, queue := l })] }
def gates (g : Gate) : State := { sw with shape := { sw.shape with gates := [(0, g)] } }
def gateList : GateList := ⟨[], 1000, 0⟩
theorem witness_ShapersAndGates :
    (bucketNow (bucket [7, 8]) 0).queue = [7, 8] ∧ 0 ≤ (bucketNow (bucket [7]) 0).level ∧ kfind (bucket [7]).ing.outs 7 = some outLoad ∧
    CmdRuns sw { cmd [(0, 7), (8, 1 + 2 * 1000000 + 2 ^ 21 * 65535)] with partition := 1 } { pf0 := true, group := 0x13, verb := 1, args := [(0, 4), (8, 8)], acts := .field } none true ∧
    CmdRuns sw (cmd []) { pf0 := true, group := 0x13, verb := 2 } none true ∧ kfind sw.shape.l2 15 = none ∧
    CmdRuns sw { cmd [(0, 127), (4, 0), (8, 1000000000)] with host := some [] } { pf0 := true, group := 0x14, verb := 1, host := true, args := [(0, 4), (4, 4), (8, 4), (16, 8), (24, 8)] } none true ∧
    gateEntries [] 0 = some [] ∧ kfind (gates { cur := gateList, next := some (gateList, 9, ⟨0, 0, 1, 0, 0, none⟩) }).shape.gates 0 =
      some { cur := gateList, next := some (gateList, 9, ⟨0, 0, 1, 0, 0, none⟩) } := by decide

def tk (f : TimeKeep → TimeKeep) : State := { lport id with tk := f sw.tk }
theorem witness_FabricTime :
    CmdRuns sw (cmd [(0, 5)]) { pf0 := true, group := 0x15, verb := 1, args := [(0, 8)] } none true ∧ sw.tk.source ≠ some .pps ∧ sw.tk.everLocked = false ∧
    CmdRuns sw (cmd [(0, 1)]) { pf0 := true, group := 0x15, verb := 2, args := [(0, 4), (4, 4)] } none true ∧
    CmdRuns sw (cmd [(0, 4), (4, 2 ^ 32 - 1)]) { pf0 := true, group := 0x15, verb := 3, args := [(0, 4), (4, 4)] } none true ∧
    facesSwitch sw 4 = true ∧ (kget (lport id).tk.exch 0 {}).sent = none ∧
    (tk fun t => { t with source := some .pps, everLocked := true, st := .locked }).tk.nextPps = none ∧
    (tk fun t => { t with source := some .pps, nextPps := some 1000000000 }).tk.everLocked = false ∧
    (tk fun t => { t with source := some .pps, st := .holdover, t10mOk := true }).tk.t10mOk = true ∧ (tk fun t => { t with st := .locked }).tk.st ≠ .unset ∧
    (lportOf (lport fun l => { l with gw := some gw0 }) 0).gw.isSome = true ∧ (-1000 : Int).natAbs ≤ 1000 ∧
    (tk fun t => { t with source := some (.ptp 0), st := .locked }).tk.source = some (.ptp 0) := by decide

/-! ## The management port, power-up, the rings and the engines -/

def cmd1 : InFlight := { qp := 0, cid := 1, fence := false, started := true, sqHead := 0 }
def done1 : Completion := { qp := 0, cid := 1, status := 0, result := 0, time := 0, sqHead := 0 }
def fn0 (f : Fn → Fn) : State := { sw with hys := { sw.hys with fns := [(0, f { qps := [(0, { en := true, ready := true, sqLog2 := 4, cqLog2 := 4, sqTail := 3 })] })] } }
theorem witness_QueueEvents :
    (fnOf (fn0 fun f => { f with inFlight := [cmd1] }) 0).inFlight.find? (fun i => i.qp = 0 && i.cid = 1) = some cmd1 ∧
    (visit (fn0 id)).map (fun v => v.2) = some (0, 0) ∧ sw.boot.perstMgt = true ∧
    (fnOf (settleUnknown 256 (fn0 fun f => { f with done := [done1] })) 0).done.find? (fun d => d.qp = 0) = some done1 ∧
    (qpOf (settleUnknown 256 (fn0 id)) 0 0).ready = true ∧ cqRoom (qpOf (settleUnknown 256 (fn0 id)) 0 0) = true ∧
    cqRoom (qpOf (settleUnknown 256 (fn0 fun f => { f with qps := [(0, { cqLog2 := 4, cqTail := 15 })] })) 0 0) = false ∧
    (qpOf (fn0 fun f => { f with qps := [(0, { ien := true, unsignalled := 1, ready := true })] }) 0 0).ien = true := by decide

theorem witness_RegisterAccesses :
    mgmtUp sw = true ∧ fnExists sw 0 = true ∧ (qpOf (fn0 id) 0 0).en = true ∧ 15 % 4096 < 2 ^ (qpOf (fn0 id) 0 0).sqLog2 ∧
    2 ^ (qpOf (fn0 id) 0 0).sqLog2 ≤ 16 % 4096 ∧ (qpOf (fn0 id) 0 0).cqHead < 2 ^ (qpOf (fn0 id) 0 0).cqLog2 ∧
    mgmtUp { sw with boot := { sw.boot with phase := .recovery } } = true ∧ sw.boot.mbx.busy = false ∧ sw.boot.mbx.staged.length = 0 ∧
    ({ sw with tk := { sw.tk with latch := some 9 } } : State).tk.latch = some 9 ∧ sw.hys.fns = [] := by decide

/-- Values at the ends of their ranges: of a combining register, the heat and policy registers, a queue pair's, a port's. -/
def pairCfg : Nat := 12 * 2 + 12 * 2 ^ 5 + 2 ^ 16 + 255 * 2 ^ 17 + 1000 * 2 ^ 25
theorem witness_RegisterAccesses_values :
    bits (1000 + 1000 * 2 ^ 10) 0 10 = 1000 ∧ bits (1000 + 1000 * 2 ^ 10) 10 10 = 1000 ∧ 1000 < bits (1001 + 5 * 2 ^ 10) 0 10 ∧
    bits (10 + 4 * 2 ^ 4) 0 4 = 10 ∧ bits (10 + 4 * 2 ^ 4) 4 3 = 4 ∧ 10 < bits 11 0 4 ∧
    bits (1000 + 50 * 2 ^ 10 + 50 * 2 ^ 16 + 50 * 2 ^ 24) 10 6 = 50 ∧ bits (49 * 2 ^ 24 + 50 * 2 ^ 16) 24 8 < bits (49 * 2 ^ 24 + 50 * 2 ^ 16) 16 8 ∧
    bits pairCfg 1 4 = 12 ∧ bits pairCfg 5 4 = 12 ∧ bits pairCfg 9 7 < vectors 0 ∧ bits pairCfg 17 8 = 255 ∧ bits pairCfg 25 10 = 1000 ∧ 63 < qpairs 0 ∧
    (qpOf (wakeChip sw) 0 63).en = false ∧ (qpOf (wakeChip (fn0 id)) 0 0).error = false ∧ kfind (fnOf (wakeChip sw) 0).lowHalf 0x100 = none ∧
    bits 6 1 2 = 3 ∧ (8 : Nat).testBit 3 = true ∧ bits 1 1 2 ≠ 3 ∧ (regWord (wakeChip sw) (rPort 1)).testBit 0 = false ∧
    isFenced (wakeChip sw) 0 = false ∧ (regWord (wakeChip (setField sw (rPort 1) 0 1 1)) (rPort 1)).testBit 0 = true ∧
    splitOf (wakeChip (setField sw (rPort 1) 0 1 1)) 1 = 0 ∧ cutFrom (wakeChip (setField sw (rPort 1) 0 1 1)) 4 = none := by decide

/-- A host bridge whose agent is in a domain, and a request of its port that will not be answered. -/
def bridgeIn : State :=
  { bridge with coh := { bridge.coh with domains := [(0, { partition := 1, members := [(2, 20)] })] },
                ing := { sw.ing with outs := [(7, { outLoad with p := { flat 4 64 [] with lport := 512 }, phase := .unanswered })] } }
theorem witness_PowerUpAndBundle_bridges :
    running bridgeIn = true ∧ (lportOf bridgeIn (512 + 0)).node = some 20 ∧ (domOf bridgeIn 0).map (fun x => kfind x.members 2) = some (some 20) ∧
    bridgeIn.ing.outs = [(7, { outLoad with p := { flat 4 64 [] with lport := 512 }, phase := .unanswered })] ∧ bridgeIn.ras.halt = 0 ∧
    running { sw with boot := { sw.boot with phase := .rails } } = false ∧ State.reset.boot.phase ≠ .rails ∧
    ({ sw with boot := { sw.boot with phase := .reset } } : State).boot.phase = .reset ∧
    ({ sw with boot := { sw.boot with phase := .unpowered } } : State).boot.phase = .unpowered := by decide

theorem witness_PowerUpAndBundle :
    bundleErr sw.part [] = 3 ∧ sw.ing.outs = [] ∧ lportOf sw 512 = { lportOf sw 512 with node := none } ∧
    ({ sw with boot := { sw.boot with phase := .recovery, mbx := { sw.boot.mbx with busy := true } } } : State).boot.mbx.busy = true := by decide

/-- A bundle of good form for this part passes where its digest, its signature and its curve do: no number is known for them. -/
theorem witness_PowerUpAndBundle_good (part : Part) (b : List Byte) (form : bundleFormOk b = true)
    (device : leField b 0x0C 2 = deviceId part) (revision : (leField b 0x10 4).testBit (revisionBit (revisionId part)) = true)
    (digest : Config.shake256 32 (bundlePart b 0x0E) = Config.romDigest (leField b 0x14 4))
    (sig : sigOk (bundlePart b 0x0E) (b.take (b.length - 3328)) (bundlePart b 0x0F) = true)
    (curve : Config.hasCurve (bundlePart b 6) ((Config.helperSerial (bundlePart b 4)).getD 0) = true) : bundleErr part b = 0 := by
  simp [bundleErr, form, device, revision, digest, sig, curve]

def recovery : State := { setField (setField sw rDebugPolicy 1 1 1) rDebugPolicy 2 1 1 with boot := { sw.boot with phase := .recovery }, parts := [] }
def ringSpec (v : Nat) : CmdSpec := { pf0 := true, group := 0x1B, verb := v, args := if v = 3 then [] else [(0, 4), (4, 4)] }
theorem witness_RingsAndTestPort :
    CmdRuns sw (cmd [(0, 2 ^ 32 - 1), (4, 16777215)]) (ringSpec 1) none true ∧ CmdRuns sw (cmd [(0, 0), (4, 0)]) (ringSpec 2) none true ∧
    CmdRuns sw (cmd []) (ringSpec 3) none true ∧ sw.boot.phase ≠ .unpowered ∧ extestOk recovery = true ∧
    extestOk { recovery with boot := sw.boot } = false ∧ unlockOk recovery = true ∧ unlockOk sw = false ∧ tokenOk recovery [] = false := by decide

/-- A step of block 0, of template 0 of instance 3. -/
def step0 (f : Job → Job) : Job := f { kind := .image 3 0 0, dest := .nobody, p := req 6, inst := some 3, block := some 0 }
def steps0 (f : Job → Job) : State := { sw with fab := { sw.fab with jobs := [(9, step0 f)] }, power := { sw.power with regions := [(0, { st := .lit })] } }
def block0 (f : Block → Block) : State := { steps0 id with fab := { (steps0 id).fab with blocks := [(0, f { use := .bound 3 0 0 })] } }
theorem witness_StepEvents :
    unitJob (steps0 id) 0 = some (9, step0 id) ∧ (∀ b, (step0 id).block = some b → isLit (steps0 id) (b / 16) = true) ∧
    (step0 fun j => { j with stage := .stalled }).wait = [] ∧ (step0 fun j => { j with stage := .stalled, wait := [(0, 64)] }).wait ≠ [] ∧
    (step0 fun j => { j with stage := .done }).shadowed = false ∧ (step0 fun j => { j with stage := .done, shadow := some 5 }).shadow.isSome = true ∧
    jobOf (steps0 id) 9 = some (step0 id) ∧ instOf sw 3 = some inst3 ∧ (refereeFor sw { inst3 with shadows := [40] } 0 16).isSome = true ∧ wickDecides sw = true ∧
    (blk (block0 id) 0).suspects = [] ∧ cellInUse (blk (block0 id) 0) 31 = true ∧ cellInUse (blk (block0 id) 0) 33 = false ∧
    (blk (block0 fun b => { b with suspects := [4] }) 0).suspects.contains 4 = true ∧
    (blk (block0 fun b => { b with arb := { pending := [⟨7, .cell 1, 0, 0, false⟩] } }) 0).arb.pending.find? (fun q => q.id = 7) = some ⟨7, .cell 1, 0, 0, false⟩ ∧
    (bankDue sw 0 ⟨7, .cell 1, 0, 0, false⟩).isSome = true := by decide

/-- The word of cell 31 found bad as the step starts; a block that lacks its tile; a region that cannot be lit. -/
def lacks : State := block0 fun b => { b with retiredCells := [34] }
def trimmedHere : State := { steps0 id with power := { (steps0 id).power with regions := [(0, { st := .trimmed, cmd := some .trimmed })] } }
theorem witness_StepEvents_words :
    isBroken (block0 id) 9 = false ∧ broken (blk (block0 id) 0) = false ∧ isBroken lacks 9 = true ∧ (blk lacks 0).retired = false ∧
    (step0 id).stage = .queued ∧ isLit trimmedHere 0 = false ∧ isLit (wakeRegion trimmedHere 0) 0 = false ∧
    (0 + 2 ^ (64 + 31)) / 2 ^ 64 = 2 ^ 31 ∧ (step0 fun j => { j with replayed := true }).replayed = true := by decide
theorem witness_StepEvents_bad_word :
    (jobOf (afterFaults (block0 id) (wordErrors (block0 id) 0 [31])) 9).bind (·.block) = some 0 ∧
    isBroken (afterFaults (block0 id) (wordErrors (block0 id) 0 [31])) 9 = false ∧
    isBroken (afterFaults lacks (wordErrors lacks 0 [35])) 9 = true := by decide +kernel

def progSpec (v : Nat) (a : List (Nat × Nat)) : CmdSpec := { group := 0x0D, verb := v, args := a, acts := .reads }
def h3 : Nat := 3 + 2 ^ 12
def bound3 (f : Inst → Inst) : State := { sw with fab := { sw.fab with insts := [(3, f inst3)] } }
theorem witness_ProgramCommands :
    CmdRuns sw { cmd [(0, 9)] with partition := 1 } { group := 0x0D, verb := 1, args := [(0, 4)], acts := .field } none true ∧
    CmdRuns sw { cmd [] with partition := 1, host := some [] } { group := 0x0D, verb := 2, host := true, acts := .field } none true ∧
    imageCheck sw 1 2 (hostImage { cmd [] with host := some [] }) = some (6, 1) ∧ progOf sw (cmd [(0, h3)]) = some (3, inst3) ∧ inst3.lib = none ∧
    CmdRuns sw { cmd [(0, h3)] with host := some [] } { group := 0x0D, verb := 3, host := true, args := [(0, 8)], acts := .object } (some 1) true ∧
    CmdRuns sw (cmd [(0, h3)]) { group := 0x0D, verb := 4, args := [(0, 8)], acts := .object } (some 1) true ∧ inst3.replace = none ∧
    CmdRuns sw (cmd [(0, h3)]) (progSpec 5 [(0, 8)]) none true ∧ CmdRuns sw (cmd [(0, h3), (12, 31)]) (progSpec 6 [(0, 8), (8, 4), (12, 4)]) none true ∧
    CmdRuns sw (cmd [(0, h3)]) (progSpec 7 [(0, 8)]) none true ∧ CmdRuns sw (cmd [(0, h3)]) (progSpec 8 [(0, 8)]) none true ∧
    templateCount (zeros 64 ++ leBytes 4 1 ++ leBytes 4 192 ++ leBytes 4 32 ++ zeros 148) = 1 ∧
    CmdRuns sw { cmd [] with partition := 1, host := some [] } { pf0 := true, group := 0x0D, verb := 9, host := true, acts := .field } none true ∧
    CmdRuns sw { cmd [(0, 256 + 2 ^ 16 * 4096 + 2 ^ 32 * 65536)] with partition := 1 } { pf0 := true, group := 0x0D, verb := 10, args := [(0, 8)], acts := .field } none true ∧
    bits (256 + 2 ^ 16 * 4096 + 2 ^ 32 * 65536) 30 2 = 0 ∧ bits (256 + 2 ^ 16 * 4096 + 2 ^ 32 * 65536) 32 17 = 65536 := by decide

def h1 : Nat := mkNodeHandle 3 1 1 0
def ht : Nat := mkTableHandle 3 1 1 0
def objSpec (g v : Nat) (a : List (Nat × Nat)) (w : Acts) : CmdSpec := { group := g, verb := v, args := a, acts := w }
def openCmd : Cmd := { cmd [] with ast := 2 }
theorem witness_CollectiveCommands :
    CmdRuns sw openCmd { group := 0x0E, verb := 1, ast := true, acts := .object } (astPart sw 2) (astMine sw openCmd 2) ∧
    collOf sw (cmd [(0, h1)]) = some (ctxKey 1 3, ctx3) ∧ ctx3.coord = selfNode sw ∧
    CmdRuns sw (cmd [(0, h1)]) { objSpec 0x0E 2 [(0, 8)] .object with opts := 1 } (some 1) true ∧
    CmdRuns sw { cmd [(0, h1)] with host := some [] } { objSpec 0x0E 3 [(0, 8), (8, 4)] .object with host := true } (some 1) true ∧ cdOpt ctx3.desc = 0 ∧
    CmdRuns sw (cmd []) (objSpec 0x0E 4 [] .reads) none true ∧ ctx3.lead = selfNode sw ∧ ({ ctx3 with lead := 9 } : CollCtx).lead ≠ selfNode sw ∧
    CmdRuns sw (cmd [(0, h1), (12, 1), (16, 0x7FFF)]) { objSpec 0x0E 5 [(0, 8), (8, 4), (12, 4), (16, 4)] .object with pf0 := true } (some 1) true ∧
    1 = selfNode sw ∧ kfind sw.core.routes 9 = none := by decide

/-- A context of one member, one tree and one chunk, whose leaf here has had no input. -/
def ctxDesc : List Byte := zeros 8 ++ leBytes 8 1 ++ leBytes 2 1 ++ zeros 2 ++ leBytes 2 1 ++ leBytes 2 1 ++ zeros 18 ++ leBytes 2 10 ++ zeros 20
def ctxOne : CollCtx := { ctx3 with desc := ctxDesc, members := zeros 32, tree := zeros 16 }
def leaf1 : CollNode := { ctx := ctxKey 1 3, ix := 0, owners := [0] }
def stalls : State := { sw with fab := { sw.fab with ctxs := [(ctxKey 1 3, ctxOne)], nodes := [(nodeKey (ctxKey 1 3) 0, leaf1)] } }
theorem witness_CollectiveCommands_stall :
    ctxOf stalls (ctxKey 1 3) = some ctxOne ∧ cnodeOf stalls (nodeKey (ctxKey 1 3) 0) = some leaf1 ∧ cdStall ctxOne.desc = 10 ∧
    leaf1.stallTold = false ∧ lowestOpen ctxOne leaf1 = some 0 ∧ lacking ctxOne leaf1 0 ≠ [] ∧ 0 < cdNodes ctxOne.desc ∧
    collOf stalls (cmd [(0, h1)]) = some (ctxKey 1 3, ctxOne) := by decide

theorem witness_EmbeddingCommands :
    CmdRuns sw openCmd { group := 0x0F, verb := 1, opts := 1, ast := true, acts := .object } (astPart sw 2) (astMine sw openCmd 2) ∧
    embOf sw (cmd [(0, ht)]) = some (tableKey 1 3, table3) ∧ table3.coord = selfNode sw ∧ CmdRuns sw (cmd [(0, ht)]) (objSpec 0x0F 2 [(0, 8)] .object) (some 1) true ∧
    CmdRuns sw { cmd [(0, ht), (8, 65535), (12, 65535)] with host := some [] } { objSpec 0x0F 3 [(0, 8), (8, 4), (12, 4)] .object with host := true } (some 1) true ∧
    CmdRuns sw { cmd [(0, ht)] with host := some [] } { objSpec 0x0F 4 [(0, 8), (8, 4)] .object with host := true } (some 1) true ∧
    CmdRuns sw (cmd [(0, ht), (8, 1)]) (objSpec 0x0F 5 [(0, 8), (8, 4)] .object) (some 1) true ∧ CmdRuns sw (cmd [(0, ht)]) (objSpec 0x0F 6 [(0, 8)] .object) (some 1) true ∧
    CmdRuns sw { cmd [(0, ht)] with host := some [] } { objSpec 0x0F 7 [(0, 8), (8, 4)] .object with host := true } (some 1) true ∧
    CmdRuns sw (cmd [(0, ht)]) (objSpec 0x0F 8 [(0, 8)] .object) (some 1) true ∧
    CmdRuns sw { cmd [(0, ht)] with host := some [] } { objSpec 0x0F 9 [(0, 8), (8, 4), (12, 4)] .object with host := true } (some 1) true ∧
    CmdRuns sw (cmd [(0, ht)]) (objSpec 0x0F 10 [(0, 8)] .reads) none true ∧ 0 ≤ tdHot table3.desc ∧ tdHot table3.desc < 1 := by decide

/-- A table that applies row 0, which no other work touches; the same row held for another shard. -/
def rowCopy1 : RowCopy := { valid := true, version := 1, scale := 2, offset := 3, g := 0, codes := [] }
def applies : EmbTable := { table3 with applying := true, todo := [0] }
def applying (t : EmbTable) : State := { sw with fab := { sw.fab with tables := [(tableKey 1 3, t)] } }
theorem witness_EmbeddingCommands_rows :
    tableOf (applying applies) (tableKey 1 3) = some applies ∧ applies.todo.contains 0 = true ∧ rowMoving applies 0 = false ∧ applies.late = [] ∧
    rowWorking (applying applies) (tableKey 1 3) applies 0 = false ∧ slotBusy (applying applies) (tableKey 1 3) applies 0 = false ∧
    applies.todo.contains 1 = false ∧ kfind ({ applies with held := [(0, rowCopy1)] } : EmbTable).held 0 = some rowCopy1 ∧
    (step0 id).hold = none ∧ (step0 fun j => { j with block := none }).stage ≠ .stalled := by decide

/-- A table of one row of one element with 8-bit codes, under the optimizer that adds gradients: the header's line is to be read where it has
not arrived, and a row that has comes to new codes whatever the values for no element are. -/
def tableAt : EmbTable :=
  { applies with desc := leBytes 1 4 ++ leBytes 1 1 ++ leBytes 2 1 ++ zeros 4 ++ leBytes 8 1 ++ zeros 48, shards := leBytes 2 1 ++ leBytes 2 2 ++ zeros 28 }
theorem witness_EmbeddingCommands_header :
    rowGot (applying tableAt) tableAt (step0 fun j => { j with wait := [], fail := none }) 0 (wantCodes .apply) = .need [(0, 64)] := by decide +kernel
theorem witness_EmbeddingCommands_new (lo hi : Val) :
    ∃ sc off g codes, applyRow tableAt.desc { rowCopy1 with codes := [0] } [] lo hi = .new sc off g codes := ⟨_, _, _, _, rfl⟩

theorem witness_SearchCommands :
    CmdRuns sw openCmd { group := 0x10, verb := 1, ast := true, acts := .object } (astPart sw 2) (astMine sw openCmd 2) ∧
    searchOf sw (cmd [(0, ht)]) = none ∧ searchOf sw (cmd [(0, h1)]) = some (indexKey 1 3, index3) ∧ index3.coord = selfNode sw ∧
    CmdRuns sw (cmd [(0, h1)]) (objSpec 0x10 2 [(0, 8)] .object) (some 1) true ∧
    CmdRuns sw { cmd [(0, h1), (8, 65536)] with host := some [], ast := 2 } { objSpec 0x10 3 [(0, 8), (8, 4)] .object with host := true, ast := true } (some 1) true ∧
    (partOf sw 1).ops.testBit 7 = true ∧
    CmdRuns sw { cmd [(0, h1)] with host := some [], opts := 1 } { objSpec 0x10 4 [(0, 8), (8, 4)] .object with host := true, opts := 1 } (some 1) true ∧
    CmdRuns sw (cmd [(0, h1)]) (objSpec 0x10 5 [(0, 8), (8, 8)] .object) (some 1) true ∧ index3.repairing = false ∧
    CmdRuns sw (cmd [(0, h1)]) (objSpec 0x10 6 [(0, 8)] .reads) none true ∧ CmdRuns sw (cmd [(0, h1)]) (objSpec 0x10 7 [(0, 8)] .reads) none true := by decide

/-- Two parts of searches that wait: the one of less time goes first. -/
def waits2 : State :=
  { sw with fab := { sw.fab with jobs := [(9, { step0 id with kind := .search 7, parts := [{ host := 9, items := [], retryAt := some 5 }, { host := 8, items := [], retryAt := some 4 }] })] } }
theorem witness_SearchCommands_retry :
    retryParts waits2 = [(5, 9, 0), (4, 9, 1)] ∧ retryParts sw = [] ∧ 2 ^ ixShards index3.desc ≤ 2 ∧ (65537 : Nat) > 65536 := by decide

def own1 (f : OwnEntry → OwnEntry) : Service := { service3 with slots := 1, entries := [(0, f { owned := true })], old := some ([], 9, ⟨0, 0, 1, 0, 0, none⟩) }
def svc (f : OwnEntry → OwnEntry) : State := { sw with fab := { sw.fab with services := [(3, own1 f)] } }
theorem witness_AttentionAndServing :
    CmdRuns sw openCmd { group := 0x11, verb := 1, ast := true, acts := .object } (astPart sw 2) (astMine sw openCmd 2) ∧
    handleAttn sw (arg (cmd [(0, h1)]) 0 8) = some (3, attn3) ∧ CmdRuns sw (cmd [(0, h1)]) (objSpec 0x11 2 [(0, 8)] .object) (some 1) true ∧
    CmdRuns sw (cmd [(0, h1)]) (objSpec 0x11 3 [(0, 8)] .reads) none true ∧ ksorted sw.fab.attns = true ∧ (∀ e ∈ sw.fab.jobs, e.2.kind ≠ .attend 3) ∧
    CmdRuns sw { cmd [(0, 1048576), (4, 10000000)] with ast := 2, partition := 1 } { group := 0x12, verb := 1, ast := true, args := [(0, 4), (4, 4)], acts := .field } none true ∧
    handleService (svc id) h1 = some (3, own1 id) ∧
    CmdRuns sw { cmd [(0, h1), (8, 60000)] with ast := 2 } { group := 0x12, verb := 2, ast := true, args := [(0, 8), (8, 4)], acts := .object } (some 1) true ∧
    CmdRuns (svc id) (cmd [(0, h1), (8, 0)]) (objSpec 0x12 3 [(0, 8), (8, 4)] .reads) none true ∧ CmdRuns sw (cmd [(0, h1)]) (objSpec 0x12 4 [(0, 8)] .object) (some 1) true ∧
    CmdRuns sw (cmd [(0, h1)]) (objSpec 0x12 5 [(0, 8)] .reads) none true ∧ (entryOf (own1 id) 0).owned = true ∧
    (entryOf (own1 fun e => { e with parked := true }) 0).parked = true ∧ (own1 id).old = some ([], 9, ⟨0, 0, 1, 0, 0, none⟩) := by decide

def nop : CmdSpec := { group := 0x01, verb := 1 }
theorem witness_CommandChecks :
    mayStart (fn0 fun f => { f with inFlight := [{ cmd1 with fence := true }] }) { cmd [] with cid := 2 } nop = false ∧
    mayStart sw (cmd []) nop = true ∧ tdiError sw 0 = false ∧
    tdiError { sw with parts := [(1, { st := .active, tdi := .error })] } 2 = true ∧ descriptorOk { cmd [] with rsv := 1 } nop = false ∧
    descriptorOk (cmd []) nop = true ∧ (partOf sw 1).st = .active ∧ (partOf sw 2).st = .free := by decide

theorem witness_HysNop : CmdRuns sw (cmd []) nop none true ∧ (cmd [(0, 1)]).args ≠ 0 ∧
    orderOk true (before (fn0 fun f => { f with inFlight := [cmd1, { cmd1 with cid := 2, started := false, fence := true }] }) { cmd [] with cid := 2 } nop) = false := by decide

def free : State := { sw with mem := { sw.mem with freeMode := true } }
theorem witness_FreeModeLoad :
    free.mem.freeMode = true ∧ Up free ∧ discardUnknown free 0 = false ∧ respOk { resp with dst := 6, isData := true } = true ∧
    ({ resp with dst := 6 } : Resp).dst.toNat ≠ selfNode free ∧ linkResp free { resp with dst := 6 } = false ∧ lportOfNode free 6 = none := by decide

theorem witness_StepKeepsMemory : sw.MemWf ∧ ∃ t, step sw = .next t := ⟨rfl, _, rfl⟩

/-- A command at the front of a queue, and an empty queue. -/
theorem witness_StepRunsFront : (∃ t, step { sw with pending := [.inputLow, .idle 0] } = .next t ∧ t.pending = [.idle 0]) ∧ State.reset.pending = [] ∧ State.reset.MemWf :=
  ⟨⟨_, rfl, rfl⟩, rfl, rfl⟩

/-! ## Values that the spec itself works out -/

/-- 07, three terms in two orders: 2^25 + 1 − 2^25 is 1.0 in a long accumulator, in both orders; in FP32 the first order gives 0. -/
theorem test_long_accumulator :
    let a := fp32.decode 0x4C000000
    let b := fp32.decode 0x3F800000
    let c := fp32.decode 0xCC000000
    accEmit acc320 (accSum acc320 [a, b, c]) 0x0C = 0x3F800000 ∧ accEmit acc320 (accSum acc320 [a, c, b]) 0x0C = 0x3F800000 ∧
    fp32.encode rne false ((rnd32 (a.add b)).add c) = 0 := by decide +kernel

/-- 08, R378: of the elements 5, 1, 9, 3, 4, 0, 0, 7, 2, 8 those at 0, 2, 4, 7 and 9 exceed 3. -/
theorem test_filter_example :
    (natRange 0 10).filter (fun i => matches_ 4 4 3 0 ([5, 1, 9, 3, 4, 0, 0, 7, 2, 8].getD i 0)) = [0, 2, 4, 7, 9] := by decide

/-- 05, R249: three adds of 5, 7 and 1 to 100 are one add of 13, answered 100, 105 and 112. -/
theorem test_combined_adds :
    [5, 7, 1].foldl (fun v y => atomicValue .add 4 false v y 0) 0 = 13 ∧ atomicValue .add 4 false 100 5 0 = 105 ∧
    atomicValue .add 4 false 105 7 0 = 112 ∧ atomicValue .min 4 true 1 0xFFFFFFFF 0 = 0xFFFFFFFF := by decide

/-- 16, R697: a LOAD of 1 MiB costs 1,048,608 bytes and a FENCE 32, in 80ths of a byte. -/
theorem test_bucket_cost : bucketCost { req 4 with length := 0x100000 } = 1048608 * 80 ∧ bucketCost (req 4) = 32 * 80 := by decide

/-- The check value that CRC-32C is known by, that of the nine digits: no number of the spec's. -/
theorem test_crc32c : crc32c [0x31, 0x32, 0x33, 0x34, 0x35, 0x36, 0x37, 0x38, 0x39] = 0xE3069283 := by decide +kernel

/-- 13: zero runs and literals of a block come back, here of 20 literal bytes and a tail of zeros (R575 to R581). -/
theorem test_tallow_round_trip :
    let x := (natRange 0 20).map (BitVec.ofNat 8) ++ zeros 44
    tallowDecode (tallowEncode 0 0 x) = some (x, 1) := by decide +kernel

end Sys2Proof.Tests
end

section
/-! Every command answers a next state (O2): the forms that the meanings of commands take. -/
namespace Sys2Proof.Machine

/-- An outcome that is a next state: neither a fault nor a refusal. -/
def Answers (o : Host.Outcome State Fault Refusal) : Prop := ∃ t, o = .next t

theorem next_answers (t : State) : Answers (.next t) := ⟨t, rfl⟩

theorem ite_answers {c : Prop} [Decidable c] {x y : Host.Outcome State Fault Refusal} (hx : Answers x) (hy : Answers y) :
    Answers (if c then x else y) := by
  split
  · exact hx
  · exact hy

theorem live_answers (s : State) (f : State → State) : Answers (live s f) := ite_answers (next_answers _) (next_answers _)

theorem execBundleVerifyDone_answers (s : State) : Answers (execBundleVerifyDone s) :=
  ite_answers (next_answers _) (ite_answers (next_answers _) (next_answers _))

theorem execHbPerstAssert_answers (k : Nat) (s : State) : Answers (execHbPerstAssert k s) :=
  ite_answers (next_answers _) (live_answers _ _)

theorem execHbPerstDeassert_answers (k : Nat) (s : State) : Answers (execHbPerstDeassert k s) :=
  ite_answers (next_answers _) (ite_answers (next_answers _) (next_answers _))

/-- Settles O2. But for the events of power, reset pins and the bundle, a meaning is a choice between two next states: it acts while its
condition holds (`live`, `onMgmt`, `tapRow`, and what is built on `live`), and leaves the state as it is elsewhere. -/
theorem everyCommandCompletes : Obligations.EveryCommandCompletes := by
  intro c s
  cases c
  case inputFail | perstMgtDeassert => exact next_answers _
  case bundleVerifyDone => exact execBundleVerifyDone_answers s
  case hbPerstAssert k => exact execHbPerstAssert_answers k s
  case hbPerstDeassert k => exact execHbPerstDeassert_answers k s
  all_goals exact ite_answers (next_answers _) (next_answers _)

end Sys2Proof.Machine
end

section
/-! Engines, memory moves and translation change no logical port: what the loss of a node (R424, R517, R561) leaves of the ports. One
lemma an operation, in the order of the definitions. -/
namespace Sys2Proof.Machine

/-! ## Shared operations -/

theorem foldl_lports {α : Type} (f : State → α → State) (h : ∀ s x, (f s x).lports = s.lports) (l : List α) (s : State) :
    (l.foldl f s).lports = s.lports := by
  induction l generalizing s with
  | nil => rfl
  | cons x l ih => exact (ih _).trans (h s x)

/-- The same for a fold that carries a number with the state. -/
theorem foldl_fst_lports {α β : Type} (f : State × β → α → State × β) (h : ∀ a x, (f a x).1.lports = a.1.lports) (l : List α)
    (a : State × β) : (l.foldl f a).1.lports = a.1.lports := by
  induction l generalizing a with
  | nil => rfl
  | cons x l ih => exact (ih _).trans (h a x)

@[simp] theorem pushVoq_lports (s : State) (a b c : Nat) (e : Bool) (k : Packet) (o : List Nat) :
    (pushVoq s a b c e k o).lports = s.lports := rfl

@[simp] theorem complete_lports (s : State) (r : CmdRef) (st res : Nat) (out : List Byte) :
    (complete s r st res out).lports = s.lports := (complete_quiet s r st res out).lports

@[simp] theorem completeAll_lports (s : State) (rs : List CmdRef) (st : Nat) : (completeAll s rs st).lports = s.lports :=
  (completeAll_quiet s rs st).lports

@[simp] theorem sendPkt_lports (s : State) (a b : Nat) (e : Bool) (k : Packet) : (sendPkt s a b e k).lports = s.lports :=
  (sendPkt_quiet s a b e k).lports

@[simp] theorem sendResp_lports (s : State) (p l : Nat) (r : Resp) : (sendResp s p l r).lports = s.lports :=
  (sendResp_quiet s p l r).lports

@[simp] theorem answer_lports (s : State) (op : Op) (p : Req) (st r : Nat) : (answer s op p st r).lports = s.lports :=
  (answer_quiet s op p st r).lports

@[simp] theorem sendMgmt_getD_lports (s : State) (c d : Nat) (pl : List Byte) : ((sendMgmt s c d pl).getD s).lports = s.lports :=
  (sendMgmt_getD_quiet s c d pl).lports

@[simp] theorem relayGot_lports (s : State) (id node st r : Nat) : (relayGot s id node st r).lports = s.lports := rfl
@[simp] theorem modService_lports (s : State) (i : Nat) (f : Service → Service) : (modService s i f).lports = s.lports := rfl
@[simp] theorem modJob_lports (s : State) (i : Nat) (f : Job → Job) : (modJob s i f).lports = s.lports := rfl
@[simp] theorem modIndex_lports (s : State) (i : Nat) (f : SearchIx → SearchIx) : (modIndex s i f).lports = s.lports := rfl
@[simp] theorem modCtx_lports (s : State) (i : Nat) (f : CollCtx → CollCtx) : (modCtx s i f).lports = s.lports := rfl
@[simp] theorem bumpSearch_lports (s : State) (x k n : Nat) : (bumpSearch s x k n).lports = s.lports := rfl
@[simp] theorem bumpGen_lports (s : State) (k n w : Nat) : (bumpGen s k n w).lports = s.lports := rfl
@[simp] theorem dropFrame_lports (s : State) (f : Nat) : (dropFrame s f).lports = s.lports := rfl
@[simp] theorem loseMove_lports (s : State) (f : Nat) : (loseMove s f).lports = s.lports := rfl
@[simp] theorem useIndex_lports (s : State) (f : Nat) : (useIndex s f).lports = s.lports := rfl
@[simp] theorem leaveToScrub_lports (s : State) (n : Nat) (f : List Nat) (u : List (Nat × Nat)) (t : List Piece) :
    (leaveToScrub s n f u t).lports = s.lports := rfl
@[simp] theorem hotDone_lports (s : State) (id : Nat) : (hotDone s id).lports = s.lports := rfl
@[simp] theorem putJob_lports (s : State) (j : Job) : (putJob s j).1.lports = s.lports := rfl
@[simp] theorem newRelay_lports (s : State) (r : Relay) : (newRelay s r).1.lports = s.lports := rfl
@[simp] theorem clearColl_lports (s : State) (k : Nat) : (clearColl s k).lports = s.lports := rfl
@[simp] theorem gateLast_lports (s : State) (n g : Nat) : (gateLast s n g).lports = s.lports := rfl
@[simp] theorem enginePkt_lports (s : State) (op : Op) (p : Req) (node n a fl : Nat) (pl : List Byte) (u : FabUse) :
    (enginePkt s op p node n a fl pl u).1.lports = s.lports := rfl
@[simp] theorem collPkt_lports (s : State) (x : CollCtx) (op : Op) (node a : Nat) (t : Bool) (d : Nat) (b : List Byte)
    (u : Req → FabUse) : (collPkt s x op node a t d b u).1.lports = s.lports := rfl

@[simp] theorem engineSend_lports (s : State) (port : Nat) (op : Op) (p : Req) (node n a fl : Nat) (pl : List Byte) (u : FabUse) :
    (engineSend s port op p node n a fl pl u).lports = s.lports := by
  simp [engineSend]

/-! ## Services (R561) -/

@[simp] theorem retireEpoch_lports (s : State) (i : Nat) : (retireEpoch s i).lports = s.lports := by
  unfold retireEpoch
  repeat' split
  all_goals simp

@[simp] theorem serveNotice_lports (s : State) (i t n id : Nat) : (serveNotice s i t n id).lports = s.lports := by
  unfold serveNotice
  dsimp only
  repeat' split
  all_goals simp

@[simp] theorem giveEntry_lports (s : State) (i id st n : Nat) (d v : Option Nat) : (giveEntry s i id st n d v).lports = s.lports := by
  unfold giveEntry
  dsimp only
  repeat' split
  all_goals simp

@[simp] theorem unpark_lports (s : State) (i : Nat) : (unpark s i).lports = s.lports := by
  unfold unpark
  split
  · rfl
  · refine foldl_lports _ (fun s id => ?_) _ _
    repeat' split
    all_goals simp

@[simp] theorem afterOwn_lports (s : State) (i : Nat) : (afterOwn s i).lports = s.lports := by simp [afterOwn]

@[simp] theorem takeOver_lports (s : State) (i id : Nat) : (takeOver s i id).lports = s.lports := by
  unfold takeOver
  dsimp only
  repeat' split
  all_goals simp

@[simp] theorem serveLost_lports (s : State) (n : Nat) : (serveLost s n).lports = s.lports := by
  unfold serveLost
  refine foldl_lports _ (fun s v => ?_) _ _
  dsimp only
  split
  · rfl
  · rw [afterOwn_lports]
    exact foldl_lports _ (fun s id => takeOver_lports s _ id) _ _

/-! ## Memory accesses and moves -/

@[simp] theorem joinRead_lports (s : State) (id : Nat) : (joinRead s id).1.lports = s.lports := by
  unfold joinRead
  dsimp only
  repeat' split
  all_goals simp

theorem overFrames_lports (f : State → Nat → State × Nat) (h : ∀ s x, (f s x).1.lports = s.lports) (l : List Nat) (s : State) :
    (overFrames f l s).1.lports = s.lports := by
  induction l generalizing s with
  | nil => rfl
  | cons x l ih => exact (ih _).trans (h s x)

@[simp] theorem arbPush_lports (s : State) (r : Nat) (x : Access) : (arbPush s r x).lports = s.lports := by
  unfold arbPush
  dsimp only
  split
  all_goals rfl

@[simp] theorem t1Access_lports (s : State) (r : Nat) (x : Access) (a n : Nat) : (t1Access s r x a n).1.lports = s.lports :=
  foldl_lports _ (fun s _ => arbPush_lports s _ _) _ _

@[simp] theorem trayGo_lports (s : State) (k : Nat) : (trayGo s k).lports = s.lports := by
  unfold trayGo
  dsimp only
  repeat' split
  all_goals simp

@[simp] theorem traySend_lports (s : State) (x : Nat) (tier : Tier) (t : TrayReq) (n : Nat) (d : List Byte) :
    (traySend s x tier t n d).lports = s.lports := by
  unfold traySend
  dsimp only
  repeat' split
  all_goals simp

@[simp] theorem blockRead_lports (id f sl : Nat) (s : State) (p : Nat) : (blockRead id f sl s p).lports = s.lports :=
  traySend_lports _ _ _ _ _ _

@[simp] theorem setBlock_lports (s : State) (c p : Nat) (u : Nat × Nat) : (setBlock s c p u).lports = s.lports := by
  unfold setBlock
  split
  all_goals rfl

@[simp] theorem blockUnits_lports (s : State) (id sl c p n : Nat) : (blockUnits s id sl c p n).2.lports = s.lports := by
  unfold blockUnits
  dsimp only
  repeat' split
  all_goals simp

@[simp] theorem blockWrite_lports (id f sl c : Nat) (r : State × Nat) (p : Nat) : (blockWrite id f sl c r p).1.lports = r.1.lports := by
  have h := blockUnits_lports r.1 id sl c p ((blockOf r.1 p).length / 64)
  unfold blockWrite
  dsimp only
  split
  all_goals rename_i hu
  all_goals rw [hu] at h
  · split
    all_goals simpa using h
  · simpa using h

@[simp] theorem accessCopy_lports (id : Nat) (cls : ArbClass) (f a n : Nat) (rd : Bool) (loc c : Nat) (s : State) :
    (accessCopy id cls f a n rd loc c s).1.lports = s.lports := by
  unfold accessCopy
  dsimp only
  split
  · rfl
  · split
    · repeat' split
      all_goals simp
    · exact foldl_lports _ (fun s p => traySend_lports s _ _ _ _ _) _ _
    · split
      · refine (foldl_lports _ (fun s p => blockRead_lports _ _ _ s p) _ _).trans ?_
        rw [useIndex_lports]
        split
        all_goals simp
      · exact foldl_fst_lports _ (fun r p => blockWrite_lports _ _ _ _ r p) _ _

@[simp] theorem accessCopies_lports (id : Nat) (cls : ArbClass) (f a n : Nat) (rd : Bool) (l : List (Nat × Nat)) (s : State) :
    (accessCopies id cls f a n rd l s).1.lports = s.lports := by
  induction l generalizing s with
  | nil => rfl
  | cons c l ih => exact (ih _).trans (accessCopy_lports _ _ _ _ _ _ _ _ _)

@[simp] theorem accessStorage_lports (id : Nat) (cls : ArbClass) (o : MemOp) (a n : Nat) (rd : Bool) (s : State) (f : Nat) :
    (accessStorage id cls o a n rd s f).1.lports = s.lports := by
  unfold accessStorage
  dsimp only
  split
  all_goals simp

@[simp] theorem readFrame_lports (id : Nat) (cls : ArbClass) (o : MemOp) (a n : Nat) (s : State) (f : Nat) :
    (readFrame id cls o a n s f).1.lports = s.lports := by
  unfold readFrame
  dsimp only
  repeat' split
  all_goals simp

@[simp] theorem memReads_lports (s : State) (id : Nat) : (memReads s id).lports = s.lports := by
  have h : ∀ (cls : ArbClass) (o : MemOp) (a n : Nat) (l : List Nat) (s : State),
      (overFrames (readFrame id cls o a n) l s).1.lports = s.lports :=
    fun cls o a n l s => overFrames_lports _ (fun s x => readFrame_lports id cls o a n s x) l s
  unfold memReads
  dsimp only
  split
  · rfl
  · rw [modOp_lports]
    split
    all_goals simp [h]

@[simp] theorem memAccess_lports (s : State) (id : Nat) : (memAccess s id).lports = s.lports := by
  have h := joinRead_lports s id
  unfold memAccess
  split
  · rfl
  · split
    · simp
    · split
      · simp
      · split
        all_goals rename_i hj
        all_goals rw [hj] at h
        all_goals simpa using h

@[simp] theorem retryMoves_lports (s : State) : (retryMoves s).lports = s.lports :=
  foldl_lports _ (fun s _ => memAccess_lports s _) _ _

@[simp] theorem abandonMove_lports (s : State) (f st : Nat) : (abandonMove s f st).lports = s.lports := by
  unfold abandonMove
  dsimp only
  repeat' split
  all_goals simp

@[simp] theorem moveCopy_lports (s : State) (f : Nat) : (moveCopy s f).lports = s.lports := by
  unfold moveCopy
  dsimp only
  split
  · rfl
  · split
    · rfl
    · split
      · rfl
      · split
        · rfl
        · rw [modOp_lports, accessCopy_lports]

@[simp] theorem startMove_lports (s : State) (f c : Nat) (dst : Tier) (pl : Place) (r : Option CmdRef) :
    (startMove s f c dst pl r).lports = s.lports := by
  unfold startMove
  dsimp only
  split
  all_goals simp

/-! ## Gigabytes released, and invalidations (R174, R184) -/

@[simp] theorem abandonGone_lports (s : State) (f : Nat) : (abandonGone s f).lports = s.lports := abandonMove_lports _ _ _

@[simp] theorem scrubFrame_lports (s : State) (f : Nat) : (scrubFrame s f).lports = s.lports := by
  unfold scrubFrame
  dsimp only
  repeat' split
  all_goals simp

@[simp] theorem dropRef_lports (s : State) (g : Nat) : (dropRef s g).lports = s.lports := by
  unfold dropRef
  repeat' split
  · exact foldl_lports _ (fun s f => by simp) _ _
  all_goals rfl

@[simp] theorem releaseGib_lports (s : State) (g : Nat) : (releaseGib s g).lports = s.lports := by
  unfold releaseGib
  repeat' split
  all_goals simp

@[simp] theorem advanceGen_lports (s : State) (a : Nat) : (advanceGen s a).lports = s.lports := by
  unfold advanceGen
  split
  all_goals rfl

@[simp] theorem invalWrite_lports (s : State) (a : Nat) (k : InvalKind) : (invalWrite s a k).lports = s.lports := by
  cases k
  all_goals rfl

@[simp] theorem astDestroyNow_lports (s : State) (a : Nat) (r : Option CmdRef) : (astDestroyNow s a r).lports = s.lports := by
  unfold astDestroyNow
  dsimp only
  repeat' split
  all_goals simp

@[simp] theorem invalStart_lports (s : State) (v : Inval) : (invalStart s v).lports = s.lports := by
  unfold invalStart
  dsimp only
  repeat' split
  all_goals simp

@[simp] theorem invalNext_lports (a n : Nat) (s : State) : (invalNext a n s).lports = s.lports := by
  induction n generalizing s with
  | zero => rfl
  | succ n ih =>
    unfold invalNext
    repeat' split
    all_goals simp [ih]

@[simp] theorem invalFinish_lports (s : State) (a : Nat) : (invalFinish s a).lports = s.lports := by
  unfold invalFinish
  dsimp only
  repeat' split
  all_goals simp [foldl_lports]

@[simp] theorem drainOne_lports (s : State) (a g : Nat) : (drainOne s a g).lports = s.lports := by
  unfold drainOne
  repeat' split
  all_goals simp

/-! ## Jobs and their answers -/

@[simp] theorem holdEnd_lports (s : State) (h : Option (Nat × Nat)) : (holdEnd s h).lports = s.lports := by
  unfold holdEnd
  split
  all_goals simp

@[simp] theorem jobGone_lports (s : State) (id : Nat) : (jobGone s id).lports = s.lports := by
  unfold jobGone
  split
  all_goals simp

@[simp] theorem windowStep_lports (s : State) (op : Nat) : (windowStep s op).lports = s.lports := completeAll_lports _ _ _

@[simp] theorem requestGone_lports (s : State) (id : Nat) : (requestGone s id).lports = s.lports := by
  unfold requestGone
  dsimp only
  repeat' split
  all_goals simp [foldl_lports]

@[simp] theorem noteGrant_lports (s : State) (l : Nat) (r : Resp) : (noteGrant s l r).lports = s.lports := by
  unfold noteGrant
  dsimp only
  split
  all_goals rfl

@[simp] theorem respondHere_lports (s : State) (p l n : Nat) (r : Resp) : (respondHere s p l n r).lports = s.lports :=
  noteGrant_lports _ _ _

@[simp] theorem engineAnswer_lports (s : State) (p id : Nat) (rs : List Resp) : (engineAnswer s p id rs).lports = s.lports := by
  unfold engineAnswer
  repeat' split
  all_goals simp [foldl_lports]

@[simp] theorem answerTo_lports (s : State) (d : JobTo) (op : Op) (p : Req) (st r c : Nat) (data : Option (List Byte)) :
    (answerTo s d op p st r c data).lports = s.lports := by
  unfold answerTo
  split
  all_goals simp [foldl_lports]

@[simp] theorem refuse_lports (s : State) (d : JobTo) (op : Op) (p : Req) (st : Nat) : (refuse s d op p st).lports = s.lports :=
  answerTo_lports _ _ _ _ _ _ _ _

@[simp] theorem tellTo_lports (s : State) (d : JobTo) (st r : Nat) (data : List Byte) : (tellTo s d st r data).lports = s.lports :=
  answerTo_lports _ _ _ _ _ _ _ _

/-! ## Searches (R517) -/

@[simp] theorem searchEnd_lports (s : State) (id x : Nat) : (searchEnd s id x).lports = s.lports := by
  unfold searchEnd
  dsimp only
  repeat' split
  all_goals simp

@[simp] theorem startSearchPart_lports (s : State) (d : JobTo) (k : Nat) (x : SearchIx) (p : Req) :
    (startSearchPart s d k x p).lports = s.lports := by
  unfold startSearchPart
  dsimp only
  repeat' split
  all_goals simp

@[simp] theorem sendRootPart_lports (s : State) (id ix h : Nat) (op : Op) (pl : List Byte) :
    (sendRootPart s id ix h op pl).lports = s.lports := by
  unfold sendRootPart
  dsimp only
  repeat' split
  all_goals simp

@[simp] theorem searchSend_lports (s : State) (id x : Nat) : (searchSend s id x).lports = s.lports := by
  unfold searchSend
  dsimp only
  split
  · refine foldl_lports _ (fun s ix => ?_) _ _
    repeat' split
    all_goals simp
  · rfl

@[simp] theorem searchGo_lports (s : State) (id x : Nat) : (searchGo s id x).lports = s.lports := by
  unfold searchGo
  dsimp only
  repeat' split
  all_goals simp

@[simp] theorem searchLost_lports (s : State) (n : Nat) : (searchLost s n).lports = s.lports := by
  unfold searchLost
  refine foldl_lports _ (fun s e => ?_) _ _
  dsimp only
  repeat' split
  all_goals simp

/-! ## Collectives (R424) -/

@[simp] theorem sendSelf_lports (s : State) (p : Nat) (k : Packet) : (sendSelf s p k).lports = s.lports := by
  unfold sendSelf
  split
  all_goals simp

@[simp] theorem collSend_lports (s : State) (port : Nat) (x : CollCtx) (op : Op) (node a : Nat) (t : Bool) (d : Nat) (b : List Byte)
    (u : Req → FabUse) : (collSend s port x op node a t d b u).lports = s.lports := by
  unfold collSend
  dsimp only
  split
  all_goals simp

@[simp] theorem notice_lports (s : State) (ck m t ty r c v n : Nat) : (notice s ck m t ty r c v n).lports = s.lports := by
  unfold notice
  split
  all_goals simp

@[simp] theorem noticeAll_lports (s : State) (ck ty : Nat) : (noticeAll s ck ty).lports = s.lports := by
  unfold noticeAll
  split
  · rfl
  · exact foldl_lports _ (fun s e => foldl_lports _ (fun s m => notice_lports s _ _ _ _ _ _ _ _) _ _) _ _

@[simp] theorem unbind_lports (s : State) (fs : List Nat) : (unbind s fs).lports = s.lports :=
  foldl_lports _ (fun s _ => modTier_lports s _ _) _ _

@[simp] theorem freeCtx_lports (s : State) (ck : Nat) : (freeCtx s ck).lports = s.lports := by
  unfold freeCtx
  dsimp only
  repeat' split
  all_goals simp

@[simp] theorem forceClose_lports (s : State) (ck t : Nat) : (forceClose s ck t).lports = s.lports := by
  unfold forceClose
  dsimp only
  repeat' split
  all_goals simp [foldl_lports]

@[simp] theorem relaySend_lports (s : State) (id k g v p a : Nat) (args extra : List Byte) (ns : List Nat) :
    (relaySend s id k g v p a args extra ns).lports = s.lports := by
  unfold relaySend
  refine foldl_lports _ (fun s n => ?_) _ _
  split
  · rfl
  · refine foldl_lports _ (fun s pl => ?_) _ _
    dsimp only
    split
    · rfl
    · rename_i t h
      exact (sendMgmt_quiet _ _ _ _ t h).lports

theorem bindFrame_lports (s t : State) (f : Nat) (r : Option Nat) (h : bindFrame s f r = .inl t) : t.lports = s.lports := by
  unfold bindFrame at h
  dsimp only at h
  repeat' split at h
  all_goals cases h
  all_goals simp

/-- A fold that stops at the first refusal. -/
theorem foldl_inl_lports {α : Type} (f : State ⊕ Nat → α → State ⊕ Nat) (hr : ∀ n x, f (.inr n) x = .inr n)
    (hl : ∀ s x t, f (.inl s) x = .inl t → t.lports = s.lports) (l : List α) (s t : State) (h : l.foldl f (.inl s) = .inl t) :
    t.lports = s.lports := by
  have stays : ∀ (l : List α) (n : Nat), l.foldl f (.inr n) = .inr n := by
    intro l n
    induction l with
    | nil => rfl
    | cons x l ih => rw [List.foldl_cons, hr, ih]
  induction l generalizing s with
  | nil => cases h; rfl
  | cons x l ih =>
    rw [List.foldl_cons] at h
    cases hx : f (.inl s) x with
    | inl u => exact (ih u (hx ▸ h)).trans (hl s x u hx)
    | inr n =>
      rw [hx, stays] at h
      cases h

theorem bindShard_lports (s t : State) (fs : List (List Nat)) (h : bindShard s fs = .inl t) : t.lports = s.lports := by
  unfold bindShard at h
  split at h
  · cases h; rfl
  · refine foldl_inl_lports _ (fun _ _ => rfl) (fun s w t h => ?_) _ s t h
    dsimp only at h
    split at h
    · cases h
    · rename_i u hu
      refine Eq.trans (foldl_inl_lports _ (fun _ _ => rfl) (fun s l t h => ?_) _ u t h) (bindFrame_lports _ _ _ _ hu)
      dsimp only at h
      split at h
      · exact bindFrame_lports _ _ _ _ h
      · cases h; rfl

theorem bindRoots_lports (s t : State) (ck : Nat) (l : List (Nat × List (List Nat))) (h : bindRoots s ck l = .inl t) :
    t.lports = s.lports := by
  unfold bindRoots at h
  refine foldl_inl_lports _ (fun _ _ => rfl) (fun s e t h => ?_) _ s t h
  dsimp only at h
  split at h
  · cases h; rfl
  · split at h
    · cases h
    · rename_i u hu
      cases h
      exact bindShard_lports s u _ hu

theorem admitNode_lports (s t : State) (x : CollCtx) (ck ix : Nat) (fresh : Bool) (h : admitNode s x ck ix fresh = some t) :
    t.lports = s.lports := by
  simp only [admitNode, Option.ite_none_left_eq_some, Option.some.injEq] at h
  obtain ⟨-, rfl⟩ := h
  rfl

theorem admitNodes_lports (x : CollCtx) (ck : Nat) (fresh : Bool) (l : List Nat) (s t : State)
    (h : admitNodes x ck fresh l s = some t) : t.lports = s.lports := by
  induction l generalizing s with
  | nil => cases h; rfl
  | cons ix l ih =>
    obtain ⟨u, hu, ht⟩ := Option.bind_eq_some_iff.mp h
    exact (ih u ht).trans (admitNode_lports s u x ck ix fresh hu)

/-- A context that is not known takes its place in the table and its part of the spill. -/
theorem openCtx_lports (known : Bool) (s : State) (c : Core) (x : CollCtx) (ck : Nat) :
    (if known then s else clearColl (modFab { s with core := c } fun f => { f with ctxs := kset f.ctxs ck x }) ck).lports =
      s.lports := by
  cases known
  all_goals rfl

@[simp] theorem collAdmit_lports (s : State) (d : JobTo) (b : List Byte) : (collAdmit s d b).lports = s.lports := by
  unfold collAdmit
  extract_lets a ans x d ck only known mine roots frames fs spill core s1
  have hans : ∀ t st, (ans t st).lports = t.lports := fun t st => tellTo_lports _ _ _ _ _
  have h1 : s1.lports = s.lports := openCtx_lports _ _ _ _ _
  clear_value s1
  split
  · exact hans _ _
  · split
    · exact hans _ _
    · split
      · exact hans _ _
      · split
        · exact hans _ _
        · rename_i s2 h2
          have e2 := bindRoots_lports _ _ _ _ h2
          split
          · exact hans _ _
          · rename_i s3 h3
            have e3 := admitNodes_lports _ _ _ _ _ _ h3
            split
            · rw [hans, e3, e2, h1]
            · rw [modCtx_lports, e3, e2, h1]

theorem hereToo_lports (s : State) (ns : List Nat) (f : State → State) (h : ∀ t, (f t).lports = t.lports) :
    (hereToo s ns f).lports = s.lports := by
  unfold hereToo
  split
  · exact h s
  · rfl

@[simp] theorem askAdmit_lports (s : State) (d : JobTo) (x : CollCtx) (o : Nat) (ns : List Nat) (ob : Nat) (as : List Nat) :
    (askAdmit s d x o ns ob as).lports = s.lports := by
  unfold askAdmit
  dsimp only
  rw [hereToo_lports _ _ _ fun t => collAdmit_lports t _ _, relaySend_lports, newRelay_lports]

@[simp] theorem rehost_lports (s : State) (d : JobTo) (ck ix h l : Nat) : (rehost s d ck ix h l).lports = s.lports := by
  unfold rehost
  split
  all_goals simp

@[simp] theorem collLost_lports (s : State) (n : Nat) : (collLost s n).lports = s.lports := by
  unfold collLost
  refine foldl_lports _ (fun s e => ?_) _ _
  dsimp only
  split
  · simp
  · split
    · rfl
    · refine foldl_lports _ (fun s i => ?_) _ _
      split
      all_goals simp

theorem nodeLost_lports (s : State) (n : Nat) : (nodeLost s n).lports = s.lports := by
  unfold nodeLost
  dsimp only
  rw [serveLost_lports, searchLost_lports, collLost_lports]
  refine foldl_lports _ (fun s e => ?_) _ _
  rfl

end Sys2Proof.Machine
end

section
/-! Taking a port out of its link states (R630) moves no other port's link, and leaves its own where it is sent. -/
namespace Sys2Proof.Machine

/-! ## What leaves every port's link as it is -/

/-- Every logical port's link stands in t as in s. -/
def SameLinks (s t : State) : Prop := ∀ n, (lportOf t n).link = (lportOf s n).link

theorem SameLinks.refl (s : State) : SameLinks s s := fun _ => rfl

theorem SameLinks.trans {s t u : State} (h : SameLinks s t) (k : SameLinks t u) : SameLinks s u := fun n => (k n).trans (h n)

theorem sameLinks_of_lports {s t : State} (h : t.lports = s.lports) : SameLinks s t := fun n => by rw [lportOf_congr h]

theorem Quiet.sameLinks {s t : State} (h : Quiet s t) : SameLinks s t := sameLinks_of_lports h.lports

theorem modLport_sameLinks (s : State) (n : Nat) (f : LPort → LPort) (h : ∀ l, (f l).link = l.link) : SameLinks s (modLport s n f) := by
  intro m
  by_cases hm : m = n
  · subst hm
    rw [lportOf_modLport_self, h]
  · rw [lportOf_modLport_other _ _ _ _ hm]

theorem modLink_sameLinks (s : State) (n : Nat) (f : Link → Link) : SameLinks s (modLink s n f) :=
  modLport_sameLinks s n _ fun _ => rfl

theorem ite_sameLinks {c : Prop} [Decidable c] {s t u : State} (ht : SameLinks s t) (hu : SameLinks s u) :
    SameLinks s (if c then t else u) := by
  split
  · exact ht
  · exact hu

theorem foldl_sameLinks {α : Type} (f : State → α → State) (h : ∀ s x, SameLinks s (f s x)) (l : List α) (s : State) :
    SameLinks s (l.foldl f s) := by
  induction l generalizing s with
  | nil => exact SameLinks.refl s
  | cons x l ih => exact (h s x).trans (ih _)

theorem returnCredit_sameLinks (s : State) (l c n : Nat) : SameLinks s (returnCredit s l c n) := by
  unfold returnCredit
  split
  · exact SameLinks.refl s
  · exact modLport_sameLinks s l _ fun _ => rfl

theorem takePkt_sameLinks (s : State) (q : QPkt) : SameLinks s (takePkt s q) :=
  (sameLinks_of_lports (s := s) rfl).trans (returnCredit_sameLinks _ _ _ _)

theorem discardPkt_sameLinks (s : State) (q : QPkt) (r : Nat) : SameLinks s (discardPkt s q r) :=
  (takePkt_sameLinks s q).trans (foldl_sameLinks _ (fun s _ => (discardReport_quiet s _ r).sameLinks) _ _)

theorem bumpFree_sameLinks (s : State) : SameLinks s (bumpFree s) := sameLinks_of_lports rfl
theorem bump_sameLinks (s : State) (c : Ctr) : SameLinks s (bump s c) := sameLinks_of_lports rfl

/-! ## The loss of a link (R630) -/

theorem toEscape_sameLinks (s t : State) (q : QPkt) (h : toEscape s q = some t) : SameLinks s t := by
  unfold toEscape at h
  split at h
  · cases h
  · obtain ⟨l, -, rfl⟩ := Option.map_eq_some_iff.mp h
    exact sameLinks_of_lports rfl

theorem reroute_sameLinks (s : State) (q : QPkt) : SameLinks s (reroute s q) := by
  unfold reroute
  split
  · rename_i t h
    exact (toEscape_sameLinks s t q h).trans (bump_sameLinks _ _)
  · exact (discardPkt_sameLinks s q 1).trans (bump_sameLinks _ _)

theorem aloneFor_sameLinks (s : State) (q : QPkt) (e : Nat) : SameLinks s (aloneFor s q e).1 := by
  unfold aloneFor
  split
  · exact SameLinks.refl s
  · exact sameLinks_of_lports rfl

theorem dropLink_sameLinks (s : State) (n : Nat) : SameLinks s (dropLink s n) := by
  have partly : ∀ (l : List QPkt) (s : State),
      SameLinks s (l.foldl (fun s q => discardPkt (bumpFree s) q (openReason s)) s) := fun l s =>
    foldl_sameLinks _ (fun s q => (bumpFree_sameLinks s).trans (discardPkt_sameLinks _ q _)) l s
  have unacked : ∀ (l : List (Nat × Packet)) (s : State),
      SameLinks s (l.foldl (fun s x => discardReport (bumpFree (bump s (.link n 7))) x.2 (openReason s)) s) := fun l s =>
    foldl_sameLinks _ (fun s x => ((bump_sameLinks s _).trans (bumpFree_sameLinks _)).trans (discardReport_quiet _ x.2 _).sameLinks) l s
  unfold dropLink
  dsimp only
  refine SameLinks.trans ?_ (foldl_sameLinks _ (fun s t => ?_) _ _)
  · refine SameLinks.trans ?_ (foldl_sameLinks _ (fun s q => ?_) _ _)
    · refine SameLinks.trans ?_ (unacked _ _)
      refine SameLinks.trans ?_ (partly _ _)
      exact modLport_sameLinks s n (fun l => { l with ll := { adv := l.ll.adv } }) fun _ => rfl
    · split
      · split
        · exact (aloneFor_sameLinks s _ n).trans (reroute_sameLinks _ _)
        · exact SameLinks.refl s
      · exact SameLinks.refl s
  · have pushed := (pushVoq_quiet s t.inPort t.inLport n false t.pkt []).sameLinks
    split
    · exact pushed.trans (reroute_sameLinks _ _)
    · exact pushed

/-! ## The neighbour is gone (R806, R821), and time with it (R718) -/

theorem markUnansweredAll_quiet {α : Type} (id : α → Nat) (c : Nat) (l : List α) (s : State) :
    Quiet s (l.foldl (fun s e => markUnanswered s (id e) c) s) := foldl_quiet _ (fun s e => markUnanswered_quiet s (id e) c) l s

theorem enginesLost_sameLinks (s : State) (gone : List Nat) : SameLinks s (enginesLost s gone) :=
  (foldl_sameLinks _ (fun s n => sameLinks_of_lports (nodeLost_lports s n)) _ s).trans
    (markUnansweredAll_quiet id 5 _ _).sameLinks

theorem spread_sameLinks (s : State) (c : Nat) (r : Bool) (d : List Nat) (b : Nat) : SameLinks s (spread s c r d b) :=
  foldl_sameLinks _ (fun s n => foldl_sameLinks _ (fun s pl => (sendLink_quiet s c n pl).sameLinks) _ s) _ s

theorem withdraw_sameLinks (s : State) (n : Nat) : SameLinks s (withdraw s n) := by
  unfold withdraw
  split
  · exact SameLinks.refl s
  · dsimp only
    refine SameLinks.trans ?_ (enginesLost_sameLinks _ _)
    refine SameLinks.trans ?_ (markUnansweredAll_quiet _ 5 _ _).sameLinks
    have told : SameLinks s (report (clearHops s n fun _ => true).1 0x04 noNode n (clearHops s n fun _ => true).2.length) :=
      (sameLinks_of_lports (s := s) rfl).trans (report_quiet _ _ _ _ _).sameLinks
    split
    · exact told
    · exact told.trans (spread_sameLinks _ _ _ _ _)

theorem discGone_sameLinks (s : State) (n : Nat) : SameLinks s (discGone s n) := by
  unfold discGone
  dsimp only
  refine SameLinks.trans ?_ (withdraw_sameLinks _ _)
  exact (report_quiet s _ _ _ _).sameLinks.trans (modLport_sameLinks _ n _ fun _ => rfl)

theorem timeLost_sameLinks (s : State) : SameLinks s (timeLost s) := by
  unfold timeLost
  split
  · exact SameLinks.refl s
  · dsimp only
    split
    · exact sameLinks_of_lports rfl
    · exact (sameLinks_of_lports (s := s) rfl).trans (report_quiet _ _ _ _ _).sameLinks

theorem timePortLost_sameLinks (s : State) (n : Nat) : SameLinks s (timePortLost s n) := by
  unfold timePortLost
  split
  · exact timeLost_sameLinks s
  · exact SameLinks.refl s

theorem retrainEnds_sameLinks (s : State) (n st : Nat) : SameLinks s (retrainEnds s n st) :=
  (modLport_sameLinks s n (fun l => { l with retrainBy := [] }) fun _ => rfl).trans
    (completeAll_quiet _ _ _).sameLinks

/-- A port whose partner's packets no longer cross on comes to the link state it is sent to. -/
theorem leaveUp_link (fuel : Nat) (s : State) (n : Nat) (dest : LinkState) (h : cutFrom s n = none) :
    (lportOf (leaveUp (fuel + 1) s n dest) n).link = dest := by
  have lost := fun (c : Bool) (t : State) =>
    ite_sameLinks (c := c = true) (dropLink_sameLinks t n) (modLink_sameLinks t n fun ll => { adv := ll.adv })
  have gone := fun (c : Bool) (t : State) =>
    ite_sameLinks (c := c = true) ((discGone_sameLinks t n).trans (timePortLost_sameLinks _ n)) (SameLinks.refl t)
  rw [leaveUp]
  dsimp only
  rw [h]
  dsimp only
  rw [retrainEnds_sameLinks _ n stRetry n, gone _ _ n, lost _ _ n, lportOf_modLport_self, lportOf_setLink_self]

end Sys2Proof.Machine
end

section
/-! Fields of a number and of a register (R18, R22): what a field reads as after a write of it or of another. -/
namespace Sys2Proof.Machine

/-! ## Bits of a number -/

theorem testBit_bits (v lo w i : Nat) : (bits v lo w).testBit i = (decide (i < w) && v.testBit (lo + i)) := by
  rw [bits, Nat.testBit_mod_two_pow, Nat.testBit_div_two_pow, Nat.add_comm]

theorem testBit_setBits (v lo w x i : Nat) :
    (setBits v lo w x).testBit i = if i < lo then v.testBit i else if i < lo + w then x.testBit (i - lo) else v.testBit i := by
  have shape : setBits v lo w x = 2 ^ lo * (2 ^ w * (v / 2 ^ (lo + w)) + x % 2 ^ w) + v % 2 ^ lo := by
    rw [setBits, pow_add]
    ring
  rw [shape, Nat.testBit_two_pow_mul_add _ (Nat.mod_lt _ (by positivity)),
    Nat.testBit_two_pow_mul_add _ (Nat.mod_lt _ (by positivity)), Nat.testBit_mod_two_pow, Nat.testBit_mod_two_pow,
    Nat.testBit_div_two_pow]
  split_ifs with h1 h2 h3
  · simp [h1]
  · simp [h2]
  · omega
  · omega
  · rw [show i - lo - w + (lo + w) = i by omega]

theorem bits_setBits_self (v lo w x : Nat) : bits (setBits v lo w x) lo w = x % 2 ^ w := by
  refine Nat.eq_of_testBit_eq fun i => ?_
  rw [testBit_bits, testBit_setBits, Nat.testBit_mod_two_pow, if_neg (by omega), Nat.add_sub_cancel_left]
  by_cases h : i < w
  · rw [if_pos (by omega)]
  · simp [h]

/-- A field beside the one written reads as before. -/
theorem bits_setBits_other (v lo w x l k : Nat) (h : l + k ≤ lo ∨ lo + w ≤ l) : bits (setBits v lo w x) l k = bits v l k := by
  refine Nat.eq_of_testBit_eq fun i => ?_
  rw [testBit_bits, testBit_bits, testBit_setBits]
  by_cases hi : i < k
  · rcases h with h | h
    · rw [if_pos (by omega)]
    · rw [if_neg (by omega), if_neg (by omega)]
  · simp [hi]

theorem testBit_setBits_other (v lo w x i : Nat) (h : i < lo ∨ lo + w ≤ i) : (setBits v lo w x).testBit i = v.testBit i := by
  rw [testBit_setBits]
  split_ifs
  · rfl
  · omega
  · rfl

/-- The bits beyond a width say nothing of the fields within it. -/
theorem bits_mod_two_pow (v lo w n : Nat) (h : lo + w ≤ n) : bits (v % 2 ^ n) lo w = bits v lo w := by
  refine Nat.eq_of_testBit_eq fun i => ?_
  rw [testBit_bits, testBit_bits, Nat.testBit_mod_two_pow]
  by_cases hi : i < w
  · simp [show lo + i < n by omega]
  · simp [hi]

theorem bits_lt (v lo w : Nat) : bits v lo w < 2 ^ w := Nat.mod_lt _ (by positivity)

/-! ## Registers -/

@[simp] theorem regWord_setField_self (s : State) (off lo w x : Nat) :
    regWord (setField s off lo w x) off = setBits (regWord s off) lo w x := by
  simp [regWord, setField]

@[simp] theorem regWord_setField_other (s : State) (off o lo w x : Nat) (h : o ≠ off) :
    regWord (setField s off lo w x) o = regWord s o := by
  simp [regWord, setField, h]

theorem regField_setField_self (s : State) (off lo w x : Nat) : regField (setField s off lo w x) off lo w = x % 2 ^ w := by
  rw [regField, regWord_setField_self, bits_setBits_self]

theorem regField_setField_other (s : State) (off o lo w x l k : Nat) (h : o ≠ off) :
    regField (setField s off lo w x) o l k = regField s o l k := by
  rw [regField, regWord_setField_other _ _ _ _ _ _ h, regField]

theorem regWord_congr {s t : State} (h : t.cfg = s.cfg) (off : Nat) : regWord t off = regWord s off := by
  rw [regWord, regWord, h]

theorem regField_congr {s t : State} (h : t.cfg = s.cfg) (off lo w : Nat) : regField t off lo w = regField s off lo w := by
  rw [regField, regField, regWord_congr h]

/-- A register holds a word. -/
def putReg (s : State) (off v : Nat) : State := { s with cfg := kset s.cfg off v }

@[simp] theorem regWord_putReg_self (s : State) (off v : Nat) : regWord (putReg s off v) off = v := by
  simp [regWord, putReg]

@[simp] theorem regWord_putReg_other (s : State) (off o v : Nat) (h : o ≠ off) : regWord (putReg s off v) o = regWord s o := by
  simp [regWord, putReg, h]

@[simp] theorem putReg_mem (s : State) (off v : Nat) : (putReg s off v).mem = s.mem := rfl
@[simp] theorem putReg_clk (s : State) (off v : Nat) : (putReg s off v).clk = s.clk := rfl

/-- A register's word after a write of v: each field as its access type says (R18). -/
def RegSpec.written (r : RegSpec) (old v : Nat) : Nat :=
  r.fields.foldl (fun w f => setBits w f.lo f.w (f.written (bits old f.lo f.w) (bits v f.lo f.w))) old

/-- A write whose fields are all legal. -/
theorem writeReg_legal (s : State) (off v : Nat) (r : RegSpec) (hr : regSpec off = some r) (hv : r.bad v = false) :
    writeReg s off v = putReg s off (r.written (regWord s off) v) := by
  simp [writeReg, hr, hv, putReg, RegSpec.written]

/-- A write of a register whose illegal fields stay, each by itself, with one that is illegal. -/
theorem writeReg_illegal (s : State) (off v : Nat) (r : RegSpec) (hr : regSpec off = some r) (hw : r.whole = false)
    (hv : r.bad v = true) :
    writeReg s off v = setField (putReg s off (r.written (regWord s off) v)) r.rejReg r.rejBit 1 1 := by
  simp [writeReg, hr, hv, hw, putReg, RegSpec.written]

end Sys2Proof.Machine
end

section
/-! Accesses of BAR0 (R832, R833): a wake event leaves memory and the reset state as they are, and an access of a register reaches
the write of the whole register. -/
namespace Sys2Proof.Machine

/-! ## What a wake event leaves (R883) -/

/-- What stands in t as in s after an access has woken the chip: all but links, power, time keeping, counters, outputs and logs. -/
structure Woken (s t : State) : Prop where
  mem : t.mem = s.mem
  boot : t.boot = s.boot

theorem Woken.refl (s : State) : Woken s s := ⟨rfl, rfl⟩

theorem Woken.trans {s t u : State} (h : Woken s t) (k : Woken t u) : Woken s u := ⟨k.mem.trans h.mem, k.boot.trans h.boot⟩

theorem pump_woken (s : State) (n : Nat) : Woken s (pump s n) := by
  obtain ⟨l, o, h⟩ := (pump_txFrame s n).rest
  rw [h]
  exact ⟨rfl, rfl⟩

theorem foldl_woken {α : Type} (f : State → α → State) (h : ∀ s x, Woken s (f s x)) (l : List α) (s : State) :
    Woken s (l.foldl f s) := by
  induction l generalizing s with
  | nil => exact Woken.refl s
  | cons x l ih => exact (h s x).trans (ih _)

theorem modLink_woken (s : State) (n : Nat) (f : Link → Link) : Woken s (modLink s n f) := ⟨rfl, rfl⟩
theorem setLink_woken (s : State) (n : Nat) (x : LinkState) : Woken s (setLink s n x) := ⟨rfl, rfl⟩
theorem modPower_woken (s : State) (f : Power → Power) : Woken s (modPower s f) := ⟨rfl, rfl⟩
theorem markBusy_woken (s : State) : Woken s (markBusy s) := ⟨rfl, rfl⟩
theorem bump_woken (s : State) (c : Ctr) : Woken s (bump s c) := ⟨rfl, rfl⟩

theorem unhood_woken (s : State) : Woken s (unhood s) := by
  unfold unhood
  split
  · exact Woken.refl s
  · refine Woken.trans ?_ (markBusy_woken _)
    refine Woken.trans ?_ (modPower_woken _ _)
    refine Woken.trans ?_ (foldl_woken _ (fun s n => modLink_woken s n _) _ _)
    refine foldl_woken _ (fun s n => ?_) _ _
    split
    · exact ((setLink_woken s n _).trans (modLink_woken _ n _)).trans (pump_woken _ n)
    · exact Woken.refl s

theorem timeAgain_woken (s : State) : Woken s (timeAgain s) := by
  unfold timeAgain rootLock
  split
  · exact Woken.refl s
  · split
    all_goals exact ⟨rfl, rfl⟩

theorem wakeChip_woken (s : State) : Woken s (wakeChip s) := by
  unfold wakeChip
  split
  · exact (bump_woken s _).trans (unhood_woken _)
  · split
    · exact ((modPower_woken s _).trans (markBusy_woken _)).trans (timeAgain_woken _)
    · exact markBusy_woken s

@[simp] theorem wakeChip_mem (s : State) : (wakeChip s).mem = s.mem := (wakeChip_woken s).mem
@[simp] theorem wakeChip_boot (s : State) : (wakeChip s).boot = s.boot := (wakeChip_woken s).boot
@[simp] theorem running_wakeChip (s : State) : running (wakeChip s) = running s := by simp [running]

/-! ## Functions and queue pairs -/

theorem onMgmt_up {s : State} {fn : Nat} (f : State → State) (hm : mgmtUp s = true) (hf : fnExists s fn = true) :
    onMgmt fn s f = .next (f s) := by
  simp [onMgmt, hm, hf]

@[simp] theorem fnExists_zero (s : State) : fnExists s 0 = true := rfl

theorem qpairs_le (fn : Nat) : qpairs fn ≤ 64 := by
  unfold qpairs
  split
  all_goals omega

@[simp] theorem fnOf_modQp_self (s : State) (fn q : Nat) (f : Qp → Qp) :
    fnOf (modQp s fn q f) fn = { fnOf s fn with qps := kset (fnOf s fn).qps q (f (qpOf s fn q)) } := fnOf_modFn_self s fn _

@[simp] theorem qpOf_modQp_self (s : State) (fn q : Nat) (f : Qp → Qp) : qpOf (modQp s fn q f) fn q = f (qpOf s fn q) := by
  simp [qpOf]

@[simp] theorem qpOf_modQp_other (s : State) (fn q k : Nat) (f : Qp → Qp) (h : k ≠ q) : qpOf (modQp s fn q f) fn k = qpOf s fn k := by
  simp [qpOf, h]

theorem qpOf_modFn (s : State) (n fn q : Nat) (f : Fn → Fn) (h : ∀ x, (f x).qps = x.qps) : qpOf (modFn s n f) fn q = qpOf s fn q := by
  by_cases hn : fn = n
  · subst hn
    rw [qpOf, fnOf_modFn_self, h, qpOf]
  · rw [qpOf, fnOf_modFn_other _ _ _ _ hn, qpOf]

theorem modQp_quiet (s : State) (fn q : Nat) (f : Qp → Qp) : Quiet s (modQp s fn q f) := modFn_quiet s fn _

theorem dropLow_eq (s : State) (fn b : Nat) :
    dropLow s fn b = s ∨ dropLow s fn b = modFn s fn fun x => { x with lowHalf := kdel x.lowHalf b } := by
  unfold dropLow
  split
  · exact .inl rfl
  · exact .inr rfl

theorem dropLow_quiet (s : State) (fn b : Nat) : Quiet s (dropLow s fn b) := by
  rcases dropLow_eq s fn b with h | h
  all_goals rw [h]
  · exact Quiet.refl s
  · exact modFn_quiet s fn _

@[simp] theorem qpOf_dropLow (s : State) (fn b q : Nat) : qpOf (dropLow s fn b) fn q = qpOf s fn q := by
  rcases dropLow_eq s fn b with h | h
  all_goals rw [h]
  exact qpOf_modFn s fn fn q _ fun _ => rfl

@[simp] theorem dropLow_boot (s : State) (fn b : Nat) : (dropLow s fn b).boot = s.boot := (dropLow_quiet s fn b).boot
@[simp] theorem running_dropLow (s : State) (fn b : Nat) : running (dropLow s fn b) = running s := by simp [running]

@[simp] theorem dropLow_outs (s : State) (fn b : Nat) : (dropLow s fn b).outs = s.outs := by
  rcases dropLow_eq s fn b with h | h
  all_goals rw [h]
  rfl

/-! ## Accesses that reach a register -/

/-- An access that is not aligned, or not of 4 or 8 bytes (R833). -/
theorem writeBar_misaligned (s : State) (fn off size v : Nat) (h : (size ≠ 4 ∧ size ≠ 8) ∨ off % size ≠ 0) :
    writeBar s fn off size v = accessError (wakeChip s) fn := by
  rw [writeBar]
  exact if_pos h

/-- What an access of a register of w bits at offset b does, once it has woken the chip (R833): writeBar's last case, by name. -/
def writeAt (s : State) (fn off size v b w : Nat) : State :=
  if w = 32 then (if off = b then writeWhole s fn b (v % 2 ^ 32) else s)
  else if 0x1000 ≤ b ∧ b < 0x2000 then
    if !running s then s
    else if size = 8 then doorbell s fn ((b - 0x1000) / 8) (some v) (some (v / 2 ^ 32))
    else if off = b then doorbell s fn ((b - 0x1000) / 8) (some v) none
    else doorbell s fn ((b - 0x1000) / 8) none (some v)
  else if w = 64 ∧ size = 8 then writeWhole (dropLow s fn b) fn b v
  else if w = 128 ∧ size = 4 then accessError s fn
  else if off = b then modFn s fn fun x => { x with lowHalf := kset x.lowHalf b v }
  else match kfind (fnOf s fn).lowHalf b with
    | none => accessError s fn
    | some low => writeWhole (dropLow s fn b) fn b (low + v * 2 ^ (8 * size))

/-- An access outside the MSI-X table and the mailbox's data is one of the register at its offset. -/
theorem writeBar_aligned (s : State) (fn off size v b w : Nat) (hs : size = 4 ∨ size = 8) (ha : off % size = 0)
    (ht : off < 0x3000 ∨ 0x20000 ≤ off) (hr : regAt fn off = some (b, w)) :
    writeBar s fn off size v = writeAt (wakeChip s) fn off size (v % 2 ^ (8 * size)) b w := by
  have hv : vectors fn ≤ 66 := by
    unfold vectors
    split
    all_goals omega
  rw [writeBar]
  dsimp only
  rw [if_neg (by omega), if_neg (by omega), if_neg (by omega), hr]
  rfl

/-- A write of a register of 32 bits. -/
theorem writeBar_reg32 (s : State) (fn off v : Nat) (ha : off % 4 = 0) (ht : off < 0x3000 ∨ 0x20000 ≤ off)
    (hr : regAt fn off = some (off, 32)) : writeBar s fn off 4 v = writeWhole (wakeChip s) fn off (v % 2 ^ 32) := by
  rw [writeBar_aligned s fn off 4 v off 32 (.inl rfl) ha ht hr]
  simp [writeAt]

/-- A whole write of a register of 64 bits, outside the doorbells. -/
theorem writeBar_reg64 (s : State) (fn off v : Nat) (ha : off % 8 = 0) (ht : off < 0x3000 ∨ 0x20000 ≤ off)
    (hd : off < 0x1000 ∨ 0x2000 ≤ off) (hr : regAt fn off = some (off, 64)) :
    writeBar s fn off 8 v = writeWhole (dropLow (wakeChip s) fn off) fn off (v % 2 ^ 64) := by
  rw [writeBar_aligned s fn off 8 v off 64 (.inr rfl) ha ht hr, writeAt, if_neg (by omega), if_neg (by omega), if_pos ⟨rfl, rfl⟩]

/-- The low half of such a register is held. -/
theorem writeBar_low (s : State) (fn off v : Nat) (ha : off % 4 = 0) (ht : off < 0x3000 ∨ 0x20000 ≤ off)
    (hd : off < 0x1000 ∨ 0x2000 ≤ off) (hr : regAt fn off = some (off, 64)) :
    writeBar s fn off 4 v = modFn (wakeChip s) fn fun x => { x with lowHalf := kset x.lowHalf off (v % 2 ^ 32) } := by
  rw [writeBar_aligned s fn off 4 v off 64 (.inl rfl) ha ht hr, writeAt, if_neg (by omega), if_neg (by omega), if_neg (by omega),
    if_neg (by omega), if_pos rfl]

/-- A write of its high half writes the register with the low half that is held. -/
theorem writeBar_high_held (s : State) (fn off v low : Nat) (ha : off % 4 = 0) (ht : off < 0xFF8)
    (hr : regAt fn (off + 4) = some (off, 64)) (hl : kfind (fnOf (wakeChip s) fn).lowHalf off = some low) :
    writeBar s fn (off + 4) 4 v = writeWhole (dropLow (wakeChip s) fn off) fn off (low + v % 2 ^ 32 * 2 ^ 32) := by
  rw [writeBar_aligned s fn (off + 4) 4 v off 64 (.inl rfl) (by omega) (.inl (by omega)) hr, writeAt, if_neg (by omega),
    if_neg (by omega), if_neg (by omega), if_neg (by omega), if_neg (by omega), hl]

/-- With none held it is an access error. -/
theorem writeBar_high_none (s : State) (fn off v : Nat) (ha : off % 4 = 0) (ht : off < 0xFF8)
    (hr : regAt fn (off + 4) = some (off, 64)) (hl : kfind (fnOf (wakeChip s) fn).lowHalf off = none) :
    writeBar s fn (off + 4) 4 v = accessError (wakeChip s) fn := by
  rw [writeBar_aligned s fn (off + 4) 4 v off 64 (.inl rfl) (by omega) (.inl (by omega)) hr, writeAt, if_neg (by omega),
    if_neg (by omega), if_neg (by omega), if_neg (by omega), if_neg (by omega), hl]

end Sys2Proof.Machine
end

section
/-! The registers of the obligation in BAR0's map (R832), and what a write of each does. -/
namespace Sys2Proof.Machine

/-! ## Where a register lies -/

theorem regAt_queue (fn off b : Nat) (hb : off / 8 * 8 = b) (h1 : 0x100 ≤ b) (h2 : b < 0x100 + 32 * qpairs fn) :
    regAt fn off = some (b, 64) := by
  have := qpairs_le fn
  rw [regAt]
  rw [if_neg (by omega), hb, if_neg (by omega), if_neg (by omega), if_pos ⟨h1, h2⟩]

theorem regAt_doorbell (fn off b : Nat) (hb : off / 8 * 8 = b) (h1 : 0x1000 ≤ b) (h2 : b < 0x1000 + 8 * qpairs fn) :
    regAt fn off = some (b, 64) := by
  have := qpairs_le fn
  rw [regAt]
  rw [if_neg (by omega), hb, if_neg (by omega), if_neg (by omega), if_neg (by omega), if_pos ⟨h1, h2⟩]

theorem regAt_control (fn : Nat) : regAt fn 0x08 = some (0x08, 32) := by
  simp [regAt]

theorem regAt_mailbox : regAt 0 0x2000 = some (0x2000, 64) := by
  simp [regAt, qpairs]

/-- A register of PF0's map from the pool's on, outside FTIME and the routing table. -/
theorem regAt_spec (off : Nat) (r : RegSpec) (h8 : off % 8 = 0) (h1 : 0x100000 ≤ off) (h2 : off < 0x150018) (hr : regSpec off = some r) :
    regAt 0 off = some (off, r.width) := by
  have hq : qpairs 0 = 64 := rfl
  rw [regAt]
  simp only [rFtime]
  rw [show off / 8 * 8 = off by omega, if_neg (by omega), if_neg (by omega), if_neg (by omega), if_neg (by omega), if_neg (by omega),
    if_neg (by omega), if_neg (by omega), if_neg (by omega), if_neg (by omega), hr]

theorem regInst_some (base stride n i : Nat) (hs : 0 < stride) (hi : i < n) :
    regInst (base + stride * i) base stride n = some i := by
  have lt : stride * i < stride * n := Nat.mul_lt_mul_of_pos_left hi hs
  rw [regInst, if_pos ⟨by omega, by omega, by simp⟩, Nat.add_sub_cancel_left, Nat.mul_div_cancel_left _ hs]

theorem regInst_none (off base stride n : Nat) (h : off < base ∨ (off - base) % stride ≠ 0) : regInst off base stride n = none := by
  rw [regInst, if_neg]
  rintro ⟨h1, -, h3⟩
  rcases h with h | h
  · omega
  · exact h h3

/-- COMBINE, POOL_HEAT_CFG and POOL_POLICY_CFG as R832's tables give them. -/
def combineSpec : RegSpec := ⟨32, [rwf 0 10 0 1000 200, rwf 10 10 0 1000 200], rCohStatus, 0, false⟩
def heatSpec : RegSpec := ⟨32, [rwf 0 4 0 10 6, rwf 4 3 0 4 1, ⟨8, 8, .ro, 0⟩], rPoolMode, 1, false⟩
def policySpec : RegSpec := ⟨32, [rwf 0 10 0 1000 10, rwf 10 6 0 50 10, rwf 16 8 0 50 4, rwf 24 8 0 50 8], rPoolMode, 1, false⟩

theorem regSpec_combine : regSpec rCombine = some combineSpec := rfl
theorem regSpec_poolHeat : regSpec rPoolHeat = some heatSpec := rfl
theorem regSpec_poolPolicy : regSpec rPoolPolicy = some policySpec := rfl

theorem inArr_false (off base n : Nat) (h : off < base ∨ base + 8 * n ≤ off) : inArr off base n = false := by
  rw [inArr, decide_eq_false_iff_not]
  omega

theorem inArr_true (base n i : Nat) (h : i < n) (hb : base % 8 = 0) : inArr (base + 8 * i) base n = true := by
  rw [inArr, decide_eq_true_eq]
  omega

theorem regSpec_port (q : Nat) (h : q < 128) : ∃ r, regSpec (rPort q) = some r ∧ r.width = 32 := by
  refine ⟨⟨32, [rwf 0 1 0 1 0, rwf 1 2 0 2 0, rwf 3 1 0 1 0, rwf 4 1 0 1 1], rPortStatus ((rPort q - rPort 0) / 8), 21, true⟩, ?_, rfl⟩
  have hA : regSpecA (rPort q) =
      some ⟨32, [rwf 0 1 0 1 0, rwf 1 2 0 2 0, rwf 3 1 0 1 0, rwf 4 1 0 1 1], rPortStatus ((rPort q - rPort 0) / 8), 21, true⟩ := by
    simp only [regSpecA, rPoolHeat, rPoolPolicy, rPoolMode, rCohStatus, rCombine, rArbCfg, rArbPromo, rDomain, rPort]
    rw [if_neg (by omega), if_neg (by omega), if_neg (by omega), inArr_false _ _ _ (by omega), inArr_false _ _ _ (by omega),
      if_neg (by simp), if_neg (by simp), if_neg (by omega), if_neg (by omega), inArr_false _ _ _ (by omega), if_neg (by simp),
      inArr_true 0x130000 128 q h rfl, if_pos rfl]
  rw [regSpec, hA, Option.some_or]

/-! ## What the write of a whole register does while the switch runs -/

theorem writeWhole_control (s : State) (fn v : Nat) (hr : running s = true) :
    writeWhole s fn 0x08 v = if v.testBit 0 then qreset s fn else s := by
  simp [writeWhole, hr]

theorem writeWhole_mailbox (s : State) (v : Nat) : writeWhole s 0 0x2000 v = mbxWrite s v := by
  simp [writeWhole]

theorem writeWhole_sqBase (s : State) (fn q v : Nat) (hr : running s = true) (hq : q < qpairs fn) :
    writeWhole s fn (0x100 + 32 * q) v = writeQpBase s fn q v false := by
  have := qpairs_le fn
  rw [writeWhole, if_neg (by omega), if_neg (by omega), if_neg (by omega), if_neg (by simp [hr]), if_neg (by omega),
    if_pos (by omega), regInst_some _ _ _ _ (by omega) hq]

theorem writeWhole_qpCfg (s : State) (fn q v : Nat) (hr : running s = true) (hq : q < qpairs fn) :
    writeWhole s fn (0x110 + 32 * q) v = writeQpCfg s fn q v := by
  have := qpairs_le fn
  rw [writeWhole, if_neg (by omega), if_neg (by omega), if_neg (by omega), if_neg (by simp [hr]), if_neg (by omega),
    if_pos (by omega), regInst_none _ _ _ _ (by omega), regInst_none _ _ _ _ (by omega), regInst_some _ _ _ _ (by omega) hq]

theorem writeWhole_combine (s : State) (v : Nat) (hr : running s = true) : writeWhole s 0 rCombine v = writeReg s rCombine v := by
  simp [writeWhole, hr, regInst, rCombine, rPoolHeat, rPoolPolicy, rLantern, rDebugPolicy, rPort, rBucket, rShape, rFilter]

theorem writeWhole_poolHeat (s : State) (v : Nat) (hr : running s = true) : writeWhole s 0 rPoolHeat v = writePoolHeat s v := by
  simp [writeWhole, hr, rPoolHeat]

theorem writeWhole_poolPolicy (s : State) (v : Nat) (hr : running s = true) : writeWhole s 0 rPoolPolicy v = writePoolPolicy s v := by
  simp [writeWhole, hr, rPoolHeat, rPoolPolicy]

theorem writeWhole_port (s : State) (q v : Nat) (hr : running s = true) (hq : q < 128) :
    writeWhole s 0 (rPort q) v = writePortCfg s q v := by
  simp only [writeWhole, rPoolHeat, rPoolPolicy, rLantern, rDebugPolicy, rPort]
  rw [if_neg (by omega), if_neg (by omega), if_neg (by omega), if_neg (by simp [hr]), if_neg (by omega), if_neg (by omega),
    if_neg (by omega), if_neg (by omega), if_neg (by omega), if_neg (by omega), if_neg (by omega),
    regInst_some 0x130000 8 128 q (by omega) hq]

/-! ## Accesses of these registers -/

theorem writeBar_combine (s : State) (v : Nat) (hr : running s = true) :
    writeBar s 0 rCombine 4 v = writeReg (wakeChip s) rCombine (v % 2 ^ 32) := by
  rw [writeBar_reg32 s 0 rCombine v rfl (.inr (by decide)) (regAt_spec _ _ rfl (by decide) (by decide) regSpec_combine),
    writeWhole_combine _ _ (by simpa using hr)]

theorem writeBar_poolHeat (s : State) (v : Nat) (hr : running s = true) :
    writeBar s 0 rPoolHeat 4 v = writePoolHeat (wakeChip s) (v % 2 ^ 32) := by
  rw [writeBar_reg32 s 0 rPoolHeat v rfl (.inr (by decide)) (regAt_spec _ _ rfl (by decide) (by decide) regSpec_poolHeat),
    writeWhole_poolHeat _ _ (by simpa using hr)]

theorem writeBar_poolPolicy (s : State) (v : Nat) (hr : running s = true) :
    writeBar s 0 rPoolPolicy 4 v = writePoolPolicy (wakeChip s) (v % 2 ^ 32) := by
  rw [writeBar_reg32 s 0 rPoolPolicy v rfl (.inr (by decide)) (regAt_spec _ _ rfl (by decide) (by decide) regSpec_poolPolicy),
    writeWhole_poolPolicy _ _ (by simpa using hr)]

theorem writeBar_port (s : State) (q v : Nat) (hr : running s = true) (hq : q < 128) :
    writeBar s 0 (rPort q) 4 v = writePortCfg (wakeChip s) q (v % 2 ^ 32) := by
  obtain ⟨r, hs, hw⟩ := regSpec_port q hq
  have at_ : rPort q = 0x130000 + 8 * q := rfl
  rw [writeBar_reg32 s 0 (rPort q) v (by omega) (.inr (by omega)) (hw ▸ regAt_spec _ _ (by omega) (by omega) (by omega) hs),
    writeWhole_port _ _ _ (by simpa using hr) hq]

theorem writeBar_qreset (s : State) (fn : Nat) (hr : running s = true) : writeBar s fn 0x08 4 1 = qreset (wakeChip s) fn := by
  rw [writeBar_reg32 s fn 0x08 1 rfl (.inl (by omega)) (regAt_control fn), writeWhole_control _ _ _ (by simpa using hr)]
  rfl

theorem writeBar_mailbox (s : State) (v : Nat) (hv : v < 2 ^ 64) :
    writeBar s 0 0x2000 8 v = mbxWrite (dropLow (wakeChip s) 0 0x2000) v := by
  rw [writeBar_reg64 s 0 0x2000 v rfl (.inl (by omega)) (.inr (by omega)) regAt_mailbox, writeWhole_mailbox, Nat.mod_eq_of_lt hv]

theorem writeBar_qpCfg (s : State) (fn q v : Nat) (hr : running s = true) (hq : q < qpairs fn) :
    writeBar s fn (0x110 + 32 * q) 8 v = writeQpCfg (dropLow (wakeChip s) fn (0x110 + 32 * q)) fn q (v % 2 ^ 64) := by
  have := qpairs_le fn
  rw [writeBar_reg64 s fn _ v (by omega) (.inl (by omega)) (.inl (by omega)) (regAt_queue fn _ _ (by omega) (by omega) (by omega)),
    writeWhole_qpCfg _ _ _ _ (by simpa using hr) hq]

theorem writeBar_sqBase (s : State) (fn q v : Nat) (hr : running s = true) (hq : q < qpairs fn) :
    writeBar s fn (0x100 + 32 * q) 8 v = writeQpBase (dropLow (wakeChip s) fn (0x100 + 32 * q)) fn q (v % 2 ^ 64) false := by
  have := qpairs_le fn
  rw [writeBar_reg64 s fn _ v (by omega) (.inl (by omega)) (.inl (by omega)) (regAt_queue fn _ _ (by omega) (by omega) (by omega)),
    writeWhole_sqBase _ _ _ _ (by simpa using hr) hq]

theorem writeBar_sqBase_low (s : State) (fn q v : Nat) (hq : q < qpairs fn) :
    writeBar s fn (0x100 + 32 * q) 4 v =
      modFn (wakeChip s) fn fun x => { x with lowHalf := kset x.lowHalf (0x100 + 32 * q) (v % 2 ^ 32) } := by
  have := qpairs_le fn
  exact writeBar_low s fn _ v (by omega) (.inl (by omega)) (.inl (by omega)) (regAt_queue fn _ _ (by omega) (by omega) (by omega))

theorem writeBar_sqBase_high (s : State) (fn q v low : Nat) (hr : running s = true) (hq : q < qpairs fn)
    (hl : kfind (fnOf (wakeChip s) fn).lowHalf (0x100 + 32 * q) = some low) :
    writeBar s fn (0x104 + 32 * q) 4 v =
      writeQpBase (dropLow (wakeChip s) fn (0x100 + 32 * q)) fn q (low + v % 2 ^ 32 * 2 ^ 32) false := by
  have := qpairs_le fn
  rw [show 0x104 + 32 * q = 0x100 + 32 * q + 4 by omega,
    writeBar_high_held s fn _ v low (by omega) (by omega) (regAt_queue fn _ _ (by omega) (by omega) (by omega)) hl,
    writeWhole_sqBase _ _ _ _ (by simpa using hr) hq]

theorem writeBar_sqBase_high_none (s : State) (fn q v : Nat) (hq : q < qpairs fn)
    (hl : kfind (fnOf (wakeChip s) fn).lowHalf (0x100 + 32 * q) = none) :
    writeBar s fn (0x104 + 32 * q) 4 v = accessError (wakeChip s) fn := by
  have := qpairs_le fn
  rw [show 0x104 + 32 * q = 0x100 + 32 * q + 4 by omega,
    writeBar_high_none s fn _ v (by omega) (by omega) (regAt_queue fn _ _ (by omega) (by omega) (by omega)) hl]

/-- A doorbell's whole write, and those of its halves (R837). -/
theorem writeAt_doorbell (s : State) (fn q off size v : Nat) (hr : running s = true) (hq : q < 64) :
    writeAt s fn off size v (0x1000 + 8 * q) 64 =
      if size = 8 then doorbell s fn q (some v) (some (v / 2 ^ 32))
      else if off = 0x1000 + 8 * q then doorbell s fn q (some v) none
      else doorbell s fn q none (some v) := by
  rw [writeAt, if_neg (by omega), if_pos (by omega), if_neg (by simp [hr]), show (0x1000 + 8 * q - 0x1000) / 8 = q by omega]

theorem writeBar_doorbell_low (s : State) (fn q v : Nat) (hr : running s = true) (hq : q < qpairs fn) :
    writeBar s fn (0x1000 + 8 * q) 4 v = doorbell (wakeChip s) fn q (some (v % 2 ^ 32)) none := by
  have := qpairs_le fn
  rw [writeBar_aligned s fn _ 4 v _ _ (.inl rfl) (by omega) (.inl (by omega))
      (regAt_doorbell fn _ (0x1000 + 8 * q) (by omega) (by omega) (by omega)),
    writeAt_doorbell _ _ _ _ _ _ (by simpa using hr) (by omega), if_neg (by omega), if_pos rfl]

theorem writeBar_doorbell_high (s : State) (fn q v : Nat) (hr : running s = true) (hq : q < qpairs fn) :
    writeBar s fn (0x1000 + 8 * q + 4) 4 v = doorbell (wakeChip s) fn q none (some (v % 2 ^ 32)) := by
  have := qpairs_le fn
  rw [writeBar_aligned s fn _ 4 v _ _ (.inl rfl) (by omega) (.inl (by omega))
      (regAt_doorbell fn _ (0x1000 + 8 * q) (by omega) (by omega) (by omega)),
    writeAt_doorbell _ _ _ _ _ _ (by simpa using hr) (by omega), if_neg (by omega), if_neg (by omega)]

theorem writeBar_doorbell_whole (s : State) (fn q v : Nat) (hr : running s = true) (hq : q < qpairs fn) :
    writeBar s fn (0x1000 + 8 * q) 8 v = doorbell (wakeChip s) fn q (some (v % 2 ^ 64)) (some (v % 2 ^ 64 / 2 ^ 32)) := by
  have := qpairs_le fn
  rw [writeBar_aligned s fn _ 8 v _ _ (.inr rfl) (by omega) (.inl (by omega))
      (regAt_doorbell fn _ (0x1000 + 8 * q) (by omega) (by omega) (by omega)),
    writeAt_doorbell _ _ _ _ _ _ (by simpa using hr) (by omega), if_pos rfl]

end Sys2Proof.Machine
end

section
/-! Writes of registers over the management port (R18, R136, R141, R142, R204, R833): access errors, COMBINE, SQ_BASE and the pool's registers. -/
namespace Sys2Proof.Machine

/-! ## Access errors (R833) -/

theorem registerWrite_up {s : State} {fn : Nat} (off size v : Nat) (hm : mgmtUp s = true) (hf : fnExists s fn = true) :
    exec (.registerWrite fn off size v) s = .next (writeBar s fn off size v) := by
  rw [exec_registerWrite, execRegisterWrite, onMgmt_up _ hm hf]

theorem accessError_quiet (s : State) (fn : Nat) : Quiet s (accessError s fn) := modFn_quiet s fn _
theorem cfgReject_quiet (s : State) (fn : Nat) : Quiet s (cfgReject s fn) := modFn_quiet s fn _

@[simp] theorem accessError_set (s : State) (fn : Nat) : (fnOf (accessError s fn) fn).accessError = true := by
  simp [accessError]

@[simp] theorem cfgReject_set (s : State) (fn : Nat) : (fnOf (cfgReject s fn) fn).cfgReject = true := by
  simp [cfgReject]

@[simp] theorem qpOf_cfgReject (s : State) (fn n q : Nat) : qpOf (cfgReject s n) fn q = qpOf s fn q :=
  qpOf_modFn s n fn q _ fun _ => rfl

/-! ## Fields of a write -/

/-- A field from 0 on takes a legal value and keeps its own instead of another. -/
theorem setBits_written_rwf (w old v lo n most r : Nat) :
    setBits w (rwf lo n 0 most r).lo (rwf lo n 0 most r).w ((rwf lo n 0 most r).written
      (bits old (rwf lo n 0 most r).lo (rwf lo n 0 most r).w) (bits v (rwf lo n 0 most r).lo (rwf lo n 0 most r).w)) =
    setBits w lo n (if bits v lo n ≤ most then bits v lo n else bits old lo n) := by
  simp [Field.written, rwf, Field.legal]

theorem legal_rwf (v lo n most r : Nat) :
    (rwf lo n 0 most r).legal (bits v (rwf lo n 0 most r).lo (rwf lo n 0 most r).w) = decide (bits v lo n ≤ most) := by
  simp [Field.legal, rwf]

@[simp] theorem bits_mod_self (v lo w : Nat) : bits v lo w % 2 ^ w = bits v lo w := Nat.mod_eq_of_lt (bits_lt v lo w)

theorem written_fields (fs : List Field) (width reg bit : Nat) (whole : Bool) (old v : Nat) :
    (RegSpec.mk width fs reg bit whole).written old v =
      fs.foldl (fun w f => setBits w f.lo f.w (f.written (bits old f.lo f.w) (bits v f.lo f.w))) old := rfl

/-! ## COMBINE (R204) -/

theorem combine_written (old v : Nat) : combineSpec.written old v =
    setBits (setBits old 0 10 (if bits v 0 10 ≤ 1000 then bits v 0 10 else bits old 0 10)) 10 10
      (if bits v 10 10 ≤ 1000 then bits v 10 10 else bits old 10 10) := by
  rw [combineSpec, written_fields, List.foldl_cons, List.foldl_cons, List.foldl_nil, setBits_written_rwf, setBits_written_rwf]

theorem combine_bad (v : Nat) : combineSpec.bad v = !(decide (bits v 0 10 ≤ 1000) && decide (bits v 10 10 ≤ 1000)) := by
  simp only [RegSpec.bad, combineSpec, List.any, legal_rwf, Bool.or_false, Bool.not_and]

/-- A legal COMBINE takes both fields. -/
theorem combine_legal {s : State} {v : Nat} (hm : mgmtUp s = true) (hr : running s = true) (h1 : bits v 0 10 ≤ 1000)
    (h2 : bits v 10 10 ≤ 1000) :
    ∃ u, exec (.registerWrite 0 rCombine 4 v) s = .next u ∧ regField u rCombine 0 10 = bits v 0 10 ∧
      regField u rCombine 10 10 = bits v 10 10 ∧ (∀ off, off ≠ rCombine → regWord u off = regWord (wakeChip s) off) ∧ u.mem = s.mem := by
  have low : bits (v % 2 ^ 32) 0 10 = bits v 0 10 := bits_mod_two_pow _ _ _ _ (by omega)
  have high : bits (v % 2 ^ 32) 10 10 = bits v 10 10 := bits_mod_two_pow _ _ _ _ (by omega)
  have good : combineSpec.bad (v % 2 ^ 32) = false := by
    rw [combine_bad, low, high]
    simp [h1, h2]
  refine ⟨_, registerWrite_up _ _ _ hm rfl, ?_⟩
  rw [writeBar_combine s v hr, writeReg_legal _ _ _ _ regSpec_combine good, combine_written, low, high, if_pos h1, if_pos h2]
  refine ⟨?_, ?_, fun off h => regWord_putReg_other _ _ _ _ h, by simp⟩
  · rw [regField, regWord_putReg_self, bits_setBits_other _ _ _ _ _ _ (by omega), bits_setBits_self, bits_mod_self]
  · rw [regField, regWord_putReg_self, bits_setBits_self, bits_mod_self]

/-- With an illegal first field the second is taken, the first stays, and COH_STATUS says so. -/
theorem combine_illegal {s : State} {v : Nat} (hm : mgmtUp s = true) (hr : running s = true) (h1 : 1000 < bits v 0 10)
    (h2 : bits v 10 10 ≤ 1000) :
    ∃ u, exec (.registerWrite 0 rCombine 4 v) s = .next u ∧ regField u rCombine 0 10 = regField (wakeChip s) rCombine 0 10 ∧
      regField u rCombine 10 10 = bits v 10 10 ∧ regField u rCohStatus 0 1 = 1 := by
  have low : bits (v % 2 ^ 32) 0 10 = bits v 0 10 := bits_mod_two_pow _ _ _ _ (by omega)
  have high : bits (v % 2 ^ 32) 10 10 = bits v 10 10 := bits_mod_two_pow _ _ _ _ (by omega)
  have bad : combineSpec.bad (v % 2 ^ 32) = true := by
    rw [combine_bad, low]
    simp [h1]
  refine ⟨_, registerWrite_up _ _ _ hm rfl, ?_⟩
  rw [writeBar_combine s v hr, writeReg_illegal _ _ _ _ regSpec_combine rfl bad, combine_written, low, high, if_neg (by omega),
    if_pos h2]
  change regField (setField _ rCohStatus 0 1 1) _ _ _ = _ ∧ regField (setField _ rCohStatus 0 1 1) _ _ _ = _ ∧
    regField (setField _ rCohStatus 0 1 1) _ _ _ = _
  refine ⟨?_, ?_, regField_setField_self _ _ _ _ _⟩
  · rw [regField_setField_other _ _ _ _ _ _ _ _ (by decide), regField, regWord_putReg_self,
      bits_setBits_other _ _ _ _ _ _ (by omega), bits_setBits_self, bits_mod_self, regField]
  · rw [regField_setField_other _ _ _ _ _ _ _ _ (by decide), regField, regWord_putReg_self, bits_setBits_self, bits_mod_self]

/-! ## SQ_BASE, in one write and in two (R833, R836) -/

theorem writeQpBase_stopped (s : State) (fn q v : Nat) (h : (qpOf s fn q).en = false) :
    writeQpBase s fn q v false = modQp s fn q fun x => { x with sqBase := v / 4096 } := by
  simp [writeQpBase, h]

/-- What a write of SQ_BASE does to a queue pair that is stopped: nothing else than its base changes. -/
theorem sqBase_written (s : State) (fn q b v : Nat) (h : (qpOf s fn q).en = false) :
    qpOf (writeQpBase (dropLow s fn b) fn q v false) fn q = { qpOf s fn q with sqBase := v / 4096 } ∧
      (∀ k, k ≠ q → qpOf (writeQpBase (dropLow s fn b) fn q v false) fn k = qpOf s fn k) ∧
      Quiet s (writeQpBase (dropLow s fn b) fn q v false) := by
  rw [writeQpBase_stopped _ _ _ _ (by simpa using h)]
  exact ⟨by simp, fun k hk => by simp [hk], (dropLow_quiet s fn b).trans (modQp_quiet _ _ _ _)⟩

theorem sqBase_whole {s : State} {fn q : Nat} (v : Nat) (hm : mgmtUp s = true) (hf : fnExists s fn = true) (hr : running s = true)
    (hq : q < qpairs fn) (h : (qpOf (wakeChip s) fn q).en = false) :
    ∃ u, exec (.registerWrite fn (0x100 + 32 * q) 8 v) s = .next u ∧
      qpOf u fn q = { qpOf (wakeChip s) fn q with sqBase := v % 2 ^ 64 / 4096 } ∧
      (∀ k, k ≠ q → qpOf u fn k = qpOf (wakeChip s) fn k) ∧ Quiet (wakeChip s) u := by
  refine ⟨_, registerWrite_up _ _ _ hm hf, ?_⟩
  rw [writeBar_sqBase s fn q v hr hq]
  exact sqBase_written _ _ _ _ _ h

theorem sqBase_low {s : State} {fn q : Nat} (v : Nat) (hm : mgmtUp s = true) (hf : fnExists s fn = true) (hq : q < qpairs fn) :
    ∃ u, exec (.registerWrite fn (0x100 + 32 * q) 4 v) s = .next u ∧
      kfind (fnOf u fn).lowHalf (0x100 + 32 * q) = some (v % 2 ^ 32) ∧
      (∀ k, qpOf u fn k = qpOf (wakeChip s) fn k) ∧ Quiet (wakeChip s) u := by
  refine ⟨_, registerWrite_up _ _ _ hm hf, ?_⟩
  rw [writeBar_sqBase_low s fn q v hq]
  exact ⟨by simp, fun k => qpOf_modFn _ fn fn k _ fun _ => rfl, modFn_quiet _ _ _⟩

theorem sqBase_high {s : State} {fn q low : Nat} (v : Nat) (hm : mgmtUp s = true) (hf : fnExists s fn = true) (hr : running s = true)
    (hq : q < qpairs fn) (h : (qpOf (wakeChip s) fn q).en = false)
    (hl : kfind (fnOf (wakeChip s) fn).lowHalf (0x100 + 32 * q) = some low) :
    ∃ u, exec (.registerWrite fn (0x104 + 32 * q) 4 v) s = .next u ∧
      qpOf u fn q = { qpOf (wakeChip s) fn q with sqBase := (low + v % 2 ^ 32 * 2 ^ 32) / 4096 } ∧ Quiet (wakeChip s) u := by
  refine ⟨_, registerWrite_up _ _ _ hm hf, ?_⟩
  rw [writeBar_sqBase_high s fn q v low hr hq hl]
  obtain ⟨base, -, quiet⟩ := sqBase_written (wakeChip s) fn q (0x100 + 32 * q) (low + v % 2 ^ 32 * 2 ^ 32) h
  exact ⟨base, quiet⟩

theorem sqBase_high_none {s : State} {fn q : Nat} (v : Nat) (hm : mgmtUp s = true) (hf : fnExists s fn = true)
    (hq : q < qpairs fn) (hl : kfind (fnOf (wakeChip s) fn).lowHalf (0x100 + 32 * q) = none) :
    exec (.registerWrite fn (0x104 + 32 * q) 4 v) s = .next (accessError (wakeChip s) fn) := by
  rw [registerWrite_up _ _ _ hm hf, writeBar_sqBase_high_none s fn q v hq hl]

/-! ## POOL_HEAT_CFG (R136) -/

theorem poolHeatCfgWrite_up {s : State} (v : Nat) (hm : mgmtUp s = true) (hr : running s = true) :
    exec (.poolHeatCfgWrite v) s = .next (writePoolHeat (wakeChip s) (v % 2 ^ 32)) := by
  rw [exec_poolHeatCfgWrite, execPoolHeatCfgWrite, onMgmt_up _ hm (fnExists_zero s), writeBar_poolHeat s v hr]

theorem heat_written (old v : Nat) : heatSpec.written old v =
    setBits (setBits (setBits old 0 4 (if bits v 0 4 ≤ 10 then bits v 0 4 else bits old 0 4)) 4 3
      (if bits v 4 3 ≤ 4 then bits v 4 3 else bits old 4 3)) 8 8 (bits old 8 8) := by
  simp only [RegSpec.written, heatSpec, List.foldl, setBits_written_rwf]
  rfl

theorem heat_bad (v : Nat) : heatSpec.bad v = !(decide (bits v 0 4 ≤ 10) && decide (bits v 4 3 ≤ 4)) := by
  simp only [RegSpec.bad, heatSpec, List.any, legal_rwf, Bool.or_false, Bool.not_and]
  simp [Field.legal]

/-- A PERIOD that stays, and one that changes. -/
theorem writePoolHeat_same (s : State) (v : Nat) (h : regField (writeReg s rPoolHeat v) rPoolHeat 0 4 = regField s rPoolHeat 0 4) :
    writePoolHeat s v = writeReg s rPoolHeat v := if_pos h

theorem writePoolHeat_new (s : State) (v : Nat) (h : regField (writeReg s rPoolHeat v) rPoolHeat 0 4 ≠ regField s rPoolHeat 0 4) :
    writePoolHeat s v = { writeReg s rPoolHeat v with
      mem := { (writeReg s rPoolHeat v).mem with periodAt := (writeReg s rPoolHeat v).clk } } := if_neg h

theorem writePoolHeat_cfg (s : State) (v : Nat) : (writePoolHeat s v).cfg = (writeReg s rPoolHeat v).cfg := by
  unfold writePoolHeat
  dsimp only
  split
  all_goals rfl

theorem poolHeat_legal {s : State} {v : Nat} (hm : mgmtUp s = true) (hr : running s = true) (h1 : bits v 0 4 ≤ 10)
    (h2 : bits v 4 3 ≤ 4) :
    ∃ u, exec (.poolHeatCfgWrite v) s = .next u ∧ regField u rPoolHeat 0 4 = bits v 0 4 ∧
      regField u rPoolHeat 4 3 = bits v 4 3 ∧ regField u rPoolHeat 8 8 = regField (wakeChip s) rPoolHeat 8 8 ∧
      (regField (wakeChip s) rPoolHeat 0 4 = bits v 0 4 → u.mem = s.mem) ∧
      (regField (wakeChip s) rPoolHeat 0 4 ≠ bits v 0 4 → u.mem = { s.mem with periodAt := (wakeChip s).clk }) := by
  have period : bits (v % 2 ^ 32) 0 4 = bits v 0 4 := bits_mod_two_pow _ _ _ _ (by omega)
  have weight : bits (v % 2 ^ 32) 4 3 = bits v 4 3 := bits_mod_two_pow _ _ _ _ (by omega)
  have good : heatSpec.bad (v % 2 ^ 32) = false := by
    rw [heat_bad, period, weight]
    simp [h1, h2]
  have write := writeReg_legal (wakeChip s) rPoolHeat (v % 2 ^ 32) heatSpec regSpec_poolHeat good
  rw [heat_written, period, weight, if_pos h1, if_pos h2] at write
  have now : regField (writeReg (wakeChip s) rPoolHeat (v % 2 ^ 32)) rPoolHeat 0 4 = bits v 0 4 := by
    rw [write, regField, regWord_putReg_self, bits_setBits_other _ _ _ _ _ _ (by omega), bits_setBits_other _ _ _ _ _ _ (by omega),
      bits_setBits_self, bits_mod_self]
  refine ⟨_, poolHeatCfgWrite_up v hm hr, ?_, ?_, ?_, fun h => ?_, fun h => ?_⟩
  · rw [regField_congr (writePoolHeat_cfg _ _), now]
  · rw [regField_congr (writePoolHeat_cfg _ _), write, regField, regWord_putReg_self, bits_setBits_other _ _ _ _ _ _ (by omega),
      bits_setBits_self, bits_mod_self]
  · rw [regField_congr (writePoolHeat_cfg _ _), write, regField, regWord_putReg_self, bits_setBits_self, bits_mod_self, regField]
  · rw [writePoolHeat_same _ _ (by rw [now, h]), write, putReg_mem, wakeChip_mem]
  · rw [writePoolHeat_new _ _ (by rw [now]; exact Ne.symm h), write, putReg_mem, putReg_clk, wakeChip_mem]

theorem poolHeat_illegal {s : State} {v : Nat} (hm : mgmtUp s = true) (hr : running s = true) (h1 : 10 < bits v 0 4) :
    ∃ u, exec (.poolHeatCfgWrite v) s = .next u ∧ regField u rPoolHeat 0 4 = regField (wakeChip s) rPoolHeat 0 4 ∧
      regField u rPoolMode 1 1 = 1 ∧ u.mem = s.mem := by
  have period : bits (v % 2 ^ 32) 0 4 = bits v 0 4 := bits_mod_two_pow _ _ _ _ (by omega)
  have bad : heatSpec.bad (v % 2 ^ 32) = true := by
    rw [heat_bad, period]
    simp [h1]
  have write : writeReg (wakeChip s) rPoolHeat (v % 2 ^ 32) = setField _ rPoolMode 1 1 1 :=
    writeReg_illegal (wakeChip s) rPoolHeat (v % 2 ^ 32) heatSpec regSpec_poolHeat rfl bad
  rw [heat_written, period, if_neg (by omega)] at write
  have same : regField (writeReg (wakeChip s) rPoolHeat (v % 2 ^ 32)) rPoolHeat 0 4 = regField (wakeChip s) rPoolHeat 0 4 := by
    rw [write, regField_setField_other _ _ _ _ _ _ _ _ (by decide), regField, regWord_putReg_self,
      bits_setBits_other _ _ _ _ _ _ (by omega), bits_setBits_other _ _ _ _ _ _ (by omega), bits_setBits_self, bits_mod_self, regField]
  refine ⟨_, poolHeatCfgWrite_up v hm hr, ?_⟩
  rw [writePoolHeat_same _ _ same]
  refine ⟨same, ?_, ?_⟩
  · rw [write]
    exact regField_setField_self _ _ _ _ _
  · rw [write]
    exact wakeChip_mem s

/-! ## POOL_POLICY_CFG (R141, R142) -/

theorem poolPolicyCfgWrite_up {s : State} (v : Nat) (hm : mgmtUp s = true) (hr : running s = true) :
    exec (.poolPolicyCfgWrite v) s = .next (writePoolPolicy (wakeChip s) (v % 2 ^ 32)) := by
  rw [exec_poolPolicyCfgWrite, execPoolPolicyCfgWrite, onMgmt_up _ hm (fnExists_zero s), writeBar_poolPolicy s v hr]

theorem policy_written (old v : Nat) (h1 : bits v 0 10 ≤ 1000) (h2 : bits v 10 6 ≤ 50) (h3 : bits v 16 8 ≤ 50) (h4 : bits v 24 8 ≤ 50) :
    policySpec.written old v =
      setBits (setBits (setBits (setBits old 0 10 (bits v 0 10)) 10 6 (bits v 10 6)) 16 8 (bits v 16 8)) 24 8 (bits v 24 8) := by
  rw [policySpec, written_fields, List.foldl_cons, List.foldl_cons, List.foldl_cons, List.foldl_cons, List.foldl_nil]
  rw [setBits_written_rwf, setBits_written_rwf, setBits_written_rwf, setBits_written_rwf, if_pos h1, if_pos h2, if_pos h3, if_pos h4]

theorem policy_bad (v : Nat) : policySpec.bad v =
    !(decide (bits v 0 10 ≤ 1000) && (decide (bits v 10 6 ≤ 50) && (decide (bits v 16 8 ≤ 50) && decide (bits v 24 8 ≤ 50)))) := by
  simp only [RegSpec.bad, policySpec, List.any, legal_rwf, Bool.or_false, Bool.not_and]

/-- What a legal write leaves in the register. -/
theorem writeReg_policy (s : State) {v : Nat} (h1 : bits v 0 10 ≤ 1000) (h2 : bits v 10 6 ≤ 50) (h3 : bits v 16 8 ≤ 50)
    (h4 : bits v 24 8 ≤ 50) : let t := writeReg s rPoolPolicy v
    regField t rPoolPolicy 0 10 = bits v 0 10 ∧ regField t rPoolPolicy 10 6 = bits v 10 6 ∧
      regField t rPoolPolicy 16 8 = bits v 16 8 ∧ regField t rPoolPolicy 24 8 = bits v 24 8 ∧ t.mem = s.mem ∧ t.clk = s.clk := by
  have good : policySpec.bad v = false := by
    rw [policy_bad]
    simp [h1, h2, h3, h4]
  dsimp only
  rw [writeReg_legal s rPoolPolicy v policySpec regSpec_poolPolicy good, policy_written _ v h1 h2 h3 h4]
  refine ⟨?_, ?_, ?_, ?_, rfl, rfl⟩
  all_goals rw [regField, regWord_putReg_self]
  · rw [bits_setBits_other _ _ _ _ _ _ (by omega), bits_setBits_other _ _ _ _ _ _ (by omega),
      bits_setBits_other _ _ _ _ _ _ (by omega), bits_setBits_self, bits_mod_self]
  · rw [bits_setBits_other _ _ _ _ _ _ (by omega), bits_setBits_other _ _ _ _ _ _ (by omega), bits_setBits_self, bits_mod_self]
  · rw [bits_setBits_other _ _ _ _ _ _ (by omega), bits_setBits_self, bits_mod_self]
  · rw [bits_setBits_self, bits_mod_self]

/-- When the next scan is due once SCAN_PERIOD has changed from was to now milliseconds (R141). -/
def scanDue (t : State) (was now : Nat) : Option Time :=
  if now = was then t.mem.nextScan
  else if now = 0 then none
  else if was = 0 then some (t.clk + now * msNs)
  else some (max t.clk (t.mem.scanAt + now * msNs))

/-- A legal write's state before what may now happen happens (R141, R142): was is SCAN_PERIOD before it. -/
def policySet (t : State) (was : Nat) : State :=
  { t with mem := { t.mem with
      nextScan := scanDue t was (regField t rPoolPolicy 0 10)
      moves := t.mem.moves.map fun (e : Nat × Move) =>
        if regField t rPoolPolicy 10 6 ≠ 0 then (e.1, { e.2 with suspended := false }) else e } }

theorem policySet_cfg (t : State) (was : Nat) : (policySet t was).cfg = t.cfg := rfl

theorem policySet_nextScan (t : State) (was : Nat) :
    (policySet t was).mem.nextScan = scanDue t was (regField t rPoolPolicy 0 10) := rfl

theorem policySet_moves (t : State) (was : Nat) (h : regField t rPoolPolicy 10 6 ≠ 0) :
    ∀ e ∈ (policySet t was).mem.moves, e.2.suspended = false := by
  intro e he
  obtain ⟨d, -, rfl⟩ := List.mem_map.mp he
  rw [if_pos h]

theorem writePoolPolicy_legal (s : State) (v : Nat)
    (h : regField (writeReg s rPoolPolicy v) rPoolPolicy 16 8 ≤ regField (writeReg s rPoolPolicy v) rPoolPolicy 24 8) :
    writePoolPolicy s v = settle hooks (policySet (writeReg s rPoolPolicy v) (regField s rPoolPolicy 0 10)) :=
  if_neg (Nat.not_lt.mpr h)

theorem writePoolPolicy_order (s : State) (v : Nat)
    (h : regField (writeReg s rPoolPolicy v) rPoolPolicy 24 8 < regField (writeReg s rPoolPolicy v) rPoolPolicy 16 8) :
    writePoolPolicy s v = setField s rPoolMode 1 1 1 := if_pos h

theorem poolPolicy_legal {s : State} {v : Nat} (hm : mgmtUp s = true) (hr : running s = true) (h1 : bits v 0 10 ≤ 1000)
    (h2 : bits v 10 6 ≤ 50) (h3 : bits v 16 8 ≤ bits v 24 8) (h4 : bits v 24 8 ≤ 50) :
    let w := wakeChip s
    let was := regField w rPoolPolicy 0 10
    let now := bits v 0 10
    ∃ u, exec (.poolPolicyCfgWrite v) s = .next (settle hooks u) ∧ regField u rPoolPolicy 0 10 = now ∧
      regField u rPoolPolicy 10 6 = bits v 10 6 ∧ regField u rPoolPolicy 16 8 = bits v 16 8 ∧ regField u rPoolPolicy 24 8 = bits v 24 8 ∧
      (now = was → u.mem.nextScan = s.mem.nextScan) ∧ (now ≠ was → now = 0 → u.mem.nextScan = none) ∧
      (now ≠ was → was = 0 → u.mem.nextScan = some (w.clk + now * 1000000)) ∧
      (now ≠ was → was ≠ 0 → now ≠ 0 → u.mem.nextScan = some (max w.clk (s.mem.scanAt + now * 1000000))) ∧
      (bits v 10 6 ≠ 0 → ∀ e ∈ u.mem.moves, e.2.suspended = false) ∧ u.mem.tier = s.mem.tier ∧ u.mem.bytes = s.mem.bytes := by
  have cut : ∀ lo k, lo + k ≤ 32 → bits (v % 2 ^ 32) lo k = bits v lo k := fun lo k h => bits_mod_two_pow v lo k 32 h
  obtain ⟨f1, f2, f3, f4, mem, clk⟩ := writeReg_policy (wakeChip s) (v := v % 2 ^ 32) (by rwa [cut _ _ (by omega)])
    (by rwa [cut _ _ (by omega)]) (by rw [cut _ _ (by omega)]; omega) (by rwa [cut _ _ (by omega)])
  rw [cut _ _ (by omega)] at f1 f2 f3 f4
  rw [wakeChip_mem] at mem
  intro w was now
  refine ⟨policySet (writeReg (wakeChip s) rPoolPolicy (v % 2 ^ 32)) was, ?_, ?_, ?_, ?_, ?_, ?_⟩
  · rw [poolPolicyCfgWrite_up v hm hr, writePoolPolicy_legal _ _ (by rw [f3, f4]; exact h3)]
  · rw [regField_congr (policySet_cfg _ _), f1]
  · rw [regField_congr (policySet_cfg _ _), f2]
  · rw [regField_congr (policySet_cfg _ _), f3]
  · rw [regField_congr (policySet_cfg _ _), f4]
  · rw [policySet_nextScan, f1, scanDue, clk, mem]
    refine ⟨fun h => if_pos h, fun h h0 => ?_, fun h h0 => ?_, fun h h0 h1 => ?_, fun h => policySet_moves _ _ (by rwa [f2]),
      (congrArg Mem.tier mem :), (congrArg Mem.bytes mem :)⟩
    · rw [if_neg h, if_pos h0]
    · rw [if_neg h, if_neg (by omega), if_pos h0]
    · rw [if_neg h, if_neg h1, if_neg h0]

/-- Marks that are out of order leave the register as it is. -/
theorem poolPolicy_order {s : State} {v : Nat} (hm : mgmtUp s = true) (hr : running s = true) (h1 : bits v 0 10 ≤ 1000)
    (h2 : bits v 10 6 ≤ 50) (h3 : bits v 16 8 ≤ 50) (h4 : bits v 24 8 < bits v 16 8) :
    exec (.poolPolicyCfgWrite v) s = .next (setField (wakeChip s) rPoolMode 1 1 1) := by
  have cut : ∀ lo k, lo + k ≤ 32 → bits (v % 2 ^ 32) lo k = bits v lo k := fun lo k h => bits_mod_two_pow v lo k 32 h
  obtain ⟨-, -, f3, f4, -, -⟩ := writeReg_policy (wakeChip s) (v := v % 2 ^ 32) (by rwa [cut _ _ (by omega)])
    (by rwa [cut _ _ (by omega)]) (by rwa [cut _ _ (by omega)]) (by rw [cut _ _ (by omega)]; omega)
  rw [cut _ _ (by omega)] at f3 f4
  rw [poolPolicyCfgWrite_up v hm hr, writePoolPolicy_order _ _ (by rw [f3, f4]; exact h4)]

end Sys2Proof.Machine
end

section
/-! EN of a fabric port (R601, R626): its logical ports train, or are disabled. -/
namespace Sys2Proof.Machine

/-! ## The word that a write of PORT_CFG puts -/

theorem portWord (v x : Nat) : setBits v 0 1 x % 2 ^ 32 % 32 = setBits v 0 1 x % 2 ^ 5 :=
  Nat.mod_mod_of_dvd _ (by norm_num)

theorem bits_portWord (v x lo k : Nat) (h1 : 1 ≤ lo) (h2 : lo + k ≤ 5) : bits (setBits v 0 1 x % 2 ^ 5) lo k = bits v lo k := by
  rw [bits_mod_two_pow _ _ _ _ h2, bits_setBits_other _ _ _ _ _ _ (.inr h1)]

theorem testBit_portWord_three (v x : Nat) : (setBits v 0 1 x % 2 ^ 5).testBit 3 = v.testBit 3 := by
  rw [Nat.testBit_mod_two_pow, testBit_setBits_other _ _ _ _ _ (.inr (by omega))]
  simp

theorem testBit_portWord_zero (v x : Nat) : (setBits v 0 1 x % 2 ^ 5).testBit 0 = x.testBit 0 := by
  rw [Nat.testBit_mod_two_pow, testBit_setBits]
  simp

/-- A write of PORT_CFG that R601 refuses, by the word that stands and the word written. -/
def portBad (q old v : Nat) : Prop := bits v 1 2 = 3 ∨ (v.testBit 3 = true ∧ q < 96) ∨ (old.testBit 0 = true ∧ bits v 1 3 ≠ bits old 1 3)

theorem portBad_portWord (q old v x : Nat) : portBad q old (setBits v 0 1 x % 2 ^ 5) ↔ portBad q old v := by
  rw [portBad, bits_portWord _ _ _ _ (by omega) (by omega), bits_portWord _ _ _ _ (by omega) (by omega), testBit_portWord_three, portBad]

theorem port_accepted {q old v : Nat} (h1 : bits v 1 2 ≠ 3) (h2 : v.testBit 3 = true → 96 ≤ q)
    (h3 : old.testBit 0 = true → bits v 1 3 = bits old 1 3) : ¬ portBad q old v := by
  rintro (h | ⟨h, h'⟩ | ⟨h, h'⟩)
  · exact h1 h
  · have := h2 h
    omega
  · exact h' (h3 h)

theorem writePortCfg_bad (s : State) (q v : Nat) (h : portBad q (regWord s (rPort q)) (v % 32)) :
    writePortCfg s q v = setField s (rPortStatus q) 21 1 1 := by
  rw [writePortCfg]
  refine if_pos ?_
  simpa [portBad, or_assoc] using h

theorem writePortCfg_on (s : State) (q v : Nat) (h : ¬ portBad q (regWord s (rPort q)) (v % 32))
    (hold : (regWord s (rPort q)).testBit 0 = false) (hnew : (v % 32).testBit 0 = true) (hh : s.ras.halt = 0) :
    writePortCfg s q v = portOn (putReg s (rPort q) (v % 32)) q := by
  rw [writePortCfg]
  dsimp only
  rw [if_neg (by simpa [portBad, or_assoc] using h)]
  simp [hold, hnew, hh, putReg]

theorem writePortCfg_off (s : State) (q v : Nat) (h : ¬ portBad q (regWord s (rPort q)) (v % 32))
    (hold : (regWord s (rPort q)).testBit 0 = true) (hnew : (v % 32).testBit 0 = false) :
    writePortCfg s q v = putReg (portOff s q) (rPort q) (v % 32) := by
  rw [writePortCfg]
  dsimp only
  rw [if_neg (by simpa [portBad, or_assoc] using h)]
  simp [hold, hnew, putReg]

/-! ## The logical ports of a port -/

theorem lportsOf_congr {s t : State} (h : t.cfg = s.cfg) (q : Nat) : lportsOf t q = lportsOf s q := by
  rw [lportsOf, lportsOf, splitOf, splitOf, regField_congr h]

theorem lportsOf_port (s : State) (q n : Nat) (h : n ∈ lportsOf s q) : n / 4 = q := by
  unfold lportsOf at h
  split at h
  · simp only [List.mem_cons, List.not_mem_nil, or_false] at h
    omega
  · split at h
    all_goals
      simp only [natRange, List.mem_cons, List.not_mem_nil, or_false] at h
      omega

theorem lportsOf_whole (s : State) (q : Nat) (h : splitOf s q = 0) : lportsOf s q = [4 * q] := if_pos h

/-! ## EN set -/

/-- Setting a port's links one after another changes nothing of a port that is not named, and nothing but ports. -/
theorem foldl_setLink_other (x : LinkState) (ns : List Nat) (s : State) (n : Nat) (h : n ∉ ns) :
    lportOf (ns.foldl (fun s n => setLink s n x) s) n = lportOf s n := by
  induction ns generalizing s with
  | nil => rfl
  | cons m ms ih =>
    rw [List.mem_cons, not_or] at h
    rw [List.foldl_cons, ih _ h.2, lportOf_setLink_other _ _ _ _ h.1]

theorem foldl_setLink_link (x : LinkState) (ns : List Nat) (s : State) (n : Nat) (h : n ∈ ns) :
    (lportOf (ns.foldl (fun s n => setLink s n x) s) n).link = x := by
  induction ns generalizing s with
  | nil => cases h
  | cons m ms ih =>
    rw [List.foldl_cons]
    by_cases hn : n ∈ ms
    · exact ih _ hn
    · obtain rfl : n = m := (List.mem_cons.mp h).resolve_right hn
      rw [foldl_setLink_other x ms _ n hn, lportOf_setLink_self]

theorem foldl_setLink_cfg (x : LinkState) (ns : List Nat) (s : State) : (ns.foldl (fun s n => setLink s n x) s).cfg = s.cfg := by
  induction ns generalizing s with
  | nil => rfl
  | cons m ms ih => exact ih _

theorem foldl_setLink_mem (x : LinkState) (ns : List Nat) (s : State) : (ns.foldl (fun s n => setLink s n x) s).mem = s.mem := by
  induction ns generalizing s with
  | nil => rfl
  | cons m ms ih => exact ih _

theorem isFenced_putReg (s : State) (off v r : Nat) : isFenced (putReg s off v) r = isFenced s r := rfl

theorem portOn_open (s : State) (q : Nat) (hf : isFenced s (q / 8) = false) :
    portOn s q = (lportsOf s q).foldl (fun s n => setLink s n .detect) s := by
  have same : ∀ (ns : List Nat) (t : State), isFenced t (q / 8) = false →
      ns.foldl (fun s n => setLink s n (if isFenced s (q / 8) then .down else .detect)) t =
        ns.foldl (fun s n => setLink s n .detect) t := by
    intro ns
    induction ns with
    | nil => exact fun _ _ => rfl
    | cons n ns ih =>
      intro t ht
      rw [List.foldl_cons, List.foldl_cons, ht]
      exact ih _ ht
  exact same _ _ hf

theorem portEn_bad {s : State} {q v : Nat} (x : Nat) (hr : running s = true) (hq : q < 128)
    (h : portBad q (regWord (wakeChip s) (rPort q)) v) :
    writeBar s 0 (rPort q) 4 (setBits v 0 1 x) = setField (wakeChip s) (rPortStatus q) 21 1 1 := by
  rw [writeBar_port s q _ hr hq, writePortCfg_bad]
  rw [portWord, portBad_portWord]
  exact h

theorem portCfgEnSet_up {s : State} {q : Nat} (v : Nat) (hm : mgmtUp s = true) (hq : q < 128) :
    exec (.portCfgEnSet q v) s = .next (writeBar s 0 (rPort q) 4 (setBits v 0 1 1)) := by
  rw [exec_portCfgEnSet, execPortCfgEnSet, onMgmt_up _ hm (fnExists_zero s), if_neg (by omega)]

theorem portCfgEnClear_up {s : State} {q : Nat} (v : Nat) (hm : mgmtUp s = true) (hq : q < 128) :
    exec (.portCfgEnClear q v) s = .next (writeBar s 0 (rPort q) 4 (setBits v 0 1 0)) := by
  rw [exec_portCfgEnClear, execPortCfgEnClear, onMgmt_up _ hm (fnExists_zero s), if_neg (by omega)]

/-- A split that is not one, or one of a port that cannot be split so, is refused whichever way EN goes. -/
theorem port_refused {s : State} {q v : Nat} (hm : mgmtUp s = true) (hr : running s = true) (hq : q < 128)
    (h : bits v 1 2 = 3 ∨ (v.testBit 3 = true ∧ q < 96)) :
    exec (.portCfgEnSet q v) s = .next (setField (wakeChip s) (rPortStatus q) 21 1 1) ∧
      exec (.portCfgEnClear q v) s = .next (setField (wakeChip s) (rPortStatus q) 21 1 1) := by
  have bad : portBad q (regWord (wakeChip s) (rPort q)) v := by
    rw [portBad]
    tauto
  rw [portCfgEnSet_up v hm hq, portCfgEnClear_up v hm hq, portEn_bad 1 hr hq bad, portEn_bad 0 hr hq bad]
  exact ⟨rfl, rfl⟩

/-- The fields of a port that is enabled stay. -/
theorem port_fixed {s : State} {q v : Nat} (hm : mgmtUp s = true) (hr : running s = true) (hq : q < 128)
    (hold : (regWord (wakeChip s) (rPort q)).testBit 0 = true) (h : bits v 1 3 ≠ bits (regWord (wakeChip s) (rPort q)) 1 3) :
    exec (.portCfgEnClear q v) s = .next (setField (wakeChip s) (rPortStatus q) 21 1 1) := by
  rw [portCfgEnClear_up v hm hq, portEn_bad 0 hr hq (.inr (.inr ⟨hold, h⟩))]

theorem port_set {s : State} {q v : Nat} (hm : mgmtUp s = true) (hr : running s = true) (hq : q < 128)
    (h1 : bits v 1 2 ≠ 3) (h2 : v.testBit 3 = true → 96 ≤ q) (hold : (regWord (wakeChip s) (rPort q)).testBit 0 = false)
    (hh : (wakeChip s).ras.halt = 0) (hf : isFenced (wakeChip s) (q / 8) = false) :
    ∃ u, exec (.portCfgEnSet q v) s = .next u ∧ regWord u (rPort q) = setBits v 0 1 1 % 32 ∧
      (∀ n ∈ lportsOf u q, (lportOf u n).link = .detect) ∧ (∀ n, n / 4 ≠ q → lportOf u n = lportOf (wakeChip s) n) ∧ u.mem = s.mem := by
  have good : ¬ portBad q (regWord (wakeChip s) (rPort q)) v := port_accepted h1 h2 fun h => by simp [hold] at h
  refine ⟨_, portCfgEnSet_up v hm hq, ?_⟩
  rw [writeBar_port s q _ hr hq, writePortCfg_on _ _ _ (by rwa [portWord, portBad_portWord]) hold
    (by rw [portWord, testBit_portWord_zero]; rfl) hh, portWord, portOn_open _ _ ((isFenced_putReg _ _ _ _).trans hf)]
  refine ⟨?_, fun n hn => ?_, fun n hn => ?_, ?_⟩
  · rw [regWord_congr (foldl_setLink_cfg _ _ _), regWord_putReg_self]
    rfl
  · rw [lportsOf_congr (foldl_setLink_cfg _ _ _)] at hn
    exact foldl_setLink_link _ _ _ _ hn
  · exact foldl_setLink_other _ _ _ _ fun hn' => hn (lportsOf_port _ _ _ hn')
  · rw [foldl_setLink_mem, putReg_mem, wakeChip_mem]

/-! ## EN cleared -/

/-- A whole port's logical port is disabled, whether it was so before or leaves its link. -/
theorem portOff_link (s : State) (q : Nat) (hs : splitOf s q = 0) (hc : cutFrom s (4 * q) = none) :
    (lportOf (portOff s q) (4 * q)).link = .disabled := by
  rw [portOff, lportsOf_whole s q hs, List.foldl_cons, List.foldl_nil]
  split_ifs with h
  · exact h
  · exact leaveUp_link 7 s (4 * q) .disabled hc

theorem port_clear {s : State} {q v : Nat} (hm : mgmtUp s = true) (hr : running s = true) (hq : q < 128)
    (h1 : bits v 1 2 ≠ 3) (h2 : v.testBit 3 = true → 96 ≤ q) (hold : (regWord (wakeChip s) (rPort q)).testBit 0 = true)
    (h3 : bits v 1 3 = bits (regWord (wakeChip s) (rPort q)) 1 3) (hs : splitOf (wakeChip s) q = 0)
    (hc : cutFrom (wakeChip s) (4 * q) = none) :
    ∃ u, exec (.portCfgEnClear q v) s = .next u ∧ regWord u (rPort q) = setBits v 0 1 0 % 32 ∧
      (lportOf u (4 * q)).link = .disabled := by
  have good : ¬ portBad q (regWord (wakeChip s) (rPort q)) v := port_accepted h1 h2 fun _ => h3
  refine ⟨_, portCfgEnClear_up v hm hq, ?_⟩
  rw [writeBar_port s q _ hr hq, writePortCfg_off _ _ _ (by rwa [portWord, portBad_portWord]) hold
    (by rw [portWord, testBit_portWord_zero]; rfl), portWord]
  exact ⟨regWord_putReg_self _ _ _, portOff_link _ _ hs hc⟩

end Sys2Proof.Machine
end

section
/-! Queue pairs (R836, R837, R840, R841): QRESET, writes of QP_CFG and of doorbells. -/
namespace Sys2Proof.Machine

/-! ## A queue pair stops (R840) -/

theorem orphan_quiet (s : State) (fn : Nat) (which : Nat → Bool) : Quiet s (orphan s fn which) := modFn_quiet s fn _

@[simp] theorem qpOf_orphan (s : State) (fn n q : Nat) (which : Nat → Bool) : qpOf (orphan s n which) fn q = qpOf s fn q :=
  qpOf_modFn s n fn q _ fun _ => rfl

/-- Every command of the queue pairs named is an orphan. -/
theorem orphan_inFlight (s : State) (fn : Nat) (which : Nat → Bool) :
    ∀ i ∈ (fnOf (orphan s fn which) fn).inFlight, which i.qp = true → i.orphan = true := by
  intro i hi hq
  rw [orphan, fnOf_modFn_self] at hi
  obtain ⟨j, -, rfl⟩ := List.mem_map.mp hi
  cases hw : which j.qp with
  | true => rfl
  | false =>
    rw [hw] at hq
    exact absurd (hw.symm.trans hq) Bool.false_ne_true

theorem qpStop_stopped (s : State) (fn q : Nat) (h : (qpOf s fn q).en = false) : qpStop s fn q = s := by
  simp [qpStop, h]

theorem qpStop_running (s : State) (fn q : Nat) (h : (qpOf s fn q).en = true) :
    qpStop s fn q =
      orphan (modQp s fn q fun x => { x with en := false, ready := false, error := false, unsignalled := 0 }) fn (· = q) := by
  simp [qpStop, h]

theorem qpStop_quiet (s : State) (fn q : Nat) : Quiet s (qpStop s fn q) := by
  cases h : (qpOf s fn q).en with
  | false => rw [qpStop_stopped s fn q h]; exact Quiet.refl s
  | true => rw [qpStop_running s fn q h]; exact (modQp_quiet s fn q _).trans (orphan_quiet _ fn _)

theorem qpStop_en (s : State) (fn q : Nat) : (qpOf (qpStop s fn q) fn q).en = false := by
  cases h : (qpOf s fn q).en with
  | false => rw [qpStop_stopped s fn q h, h]
  | true => simp [qpStop_running s fn q h]

@[simp] theorem qpOf_qpStop_other (s : State) (fn q k : Nat) (hk : k ≠ q) : qpOf (qpStop s fn q) fn k = qpOf s fn k := by
  cases h : (qpOf s fn q).en with
  | false => rw [qpStop_stopped s fn q h]
  | true => simp [qpStop_running s fn q h, hk]

/-! ## QRESET (R836) -/

theorem foldl_qpStop_quiet (fn : Nat) (qs : List Nat) (s : State) : Quiet s (qs.foldl (fun s q => qpStop s fn q) s) := by
  induction qs generalizing s with
  | nil => exact Quiet.refl s
  | cons q qs ih => exact (qpStop_quiet s fn q).trans (ih _)

theorem foldl_qpStop_en (fn k : Nat) (qs : List Nat) (s : State) (h : k ∈ qs ∨ (qpOf s fn k).en = false) :
    (qpOf (qs.foldl (fun s q => qpStop s fn q) s) fn k).en = false := by
  induction qs generalizing s with
  | nil => exact h.resolve_left (List.not_mem_nil)
  | cons q qs ih =>
    rw [List.foldl_cons]
    refine ih _ ?_
    by_cases hk : k = q
    · exact .inr (hk ▸ qpStop_en s fn q)
    · rw [qpOf_qpStop_other _ _ _ _ hk]
      exact h.imp_left fun h => (List.mem_cons.mp h).resolve_left hk

theorem kfind_none_of_not_mem {α : Type} (m : List (Nat × α)) (k : Nat) (h : k ∉ m.map (·.1)) : kfind m k = none := by
  induction m with
  | nil => rfl
  | cons e m ih =>
    rw [List.map_cons, List.mem_cons, not_or] at h
    rw [kfind, if_neg (Ne.symm h.1)]
    exact ih h.2

/-- A queue pair that the function's list does not name is at its reset value. -/
theorem qpOf_unlisted (s : State) (fn k : Nat) (h : k ∉ (fnOf s fn).qps.map (·.1)) : qpOf s fn k = {} := by
  rw [qpOf, kget, kfind_none_of_not_mem _ _ h, Option.getD_none]

theorem qreset_qps (s : State) (fn k : Nat) : (qpOf (qreset s fn) fn k).en = false := by
  have stopped : (qpOf (((fnOf s fn).qps.map (·.1)).foldl (fun s q => qpStop s fn q) s) fn k).en = false := by
    refine foldl_qpStop_en fn k _ s ?_
    by_cases h : k ∈ (fnOf s fn).qps.map (·.1)
    · exact .inl h
    · exact .inr (by rw [qpOf_unlisted s fn k h])
  unfold qreset
  dsimp only
  split
  all_goals exact stopped

theorem qreset_evq (s : State) : (qreset s 0).hys.evq.en = false := rfl

theorem hys_quiet (s : State) (x : Hys) : Quiet s { s with hys := x } := by constructor <;> rfl

theorem qreset_quiet (s : State) (fn : Nat) : Quiet s (qreset s fn) := by
  unfold qreset
  dsimp only
  split
  · exact (foldl_qpStop_quiet fn _ s).trans (hys_quiet _ _)
  · exact foldl_qpStop_quiet fn _ s

theorem qreset_done {s : State} {fn : Nat} (hm : mgmtUp s = true) (hf : fnExists s fn = true) (hr : running s = true) :
    ∃ u, exec (.qreset fn) s = .next u ∧ (∀ k, (qpOf u fn k).en = false) ∧ (fn = 0 → u.hys.evq.en = false) ∧
      Quiet (wakeChip s) u := by
  refine ⟨qreset (wakeChip s) fn, ?_, qreset_qps _ _, ?_, qreset_quiet _ _⟩
  · rw [exec_qreset, execQreset, onMgmt_up _ hm hf, writeBar_qreset s fn hr]
  · rintro rfl
    exact qreset_evq _

/-! ## QP_CFG (R836, R840) -/

/-- The fields of QP_CFG but EN in a queue pair. -/
def qpSet (v : Nat) (x : Qp) : Qp :=
  { x with sqLog2 := bits v 1 4, cqLog2 := bits v 5 4, vector := bits v 9 7, ien := v.testBit 16,
           coalCount := bits v 17 8, coalUs := bits v 25 10 }

/-- A word of QP_CFG whose fields are legal for a function and that may enable a queue pair. -/
structure QpCfgOk (fn v : Nat) : Prop where
  sqLeast : 1 ≤ bits v 1 4
  sqMost : bits v 1 4 ≤ 12
  cqLeast : 1 ≤ bits v 5 4
  cqMost : bits v 5 4 ≤ 12
  vector : bits v 9 7 < vectors fn
  count : bits v 17 8 ≠ 0
  us : bits v 25 10 ≤ 1000

theorem bits_qpWord (v x lo k : Nat) (h1 : 1 ≤ lo) (h2 : lo + k ≤ 64) : bits (setBits v 0 1 x % 2 ^ 64) lo k = bits v lo k := by
  rw [bits_mod_two_pow _ _ _ _ h2, bits_setBits_other _ _ _ _ _ _ (.inr h1)]

theorem testBit_qpWord (v x : Nat) : (setBits v 0 1 x % 2 ^ 64).testBit 16 = v.testBit 16 := by
  rw [Nat.testBit_mod_two_pow, testBit_setBits_other _ _ _ _ _ (.inr (by omega))]
  simp

theorem qpWord_mod_two (v x : Nat) : setBits v 0 1 x % 2 ^ 64 % 2 = x % 2 := by
  have low := bits_setBits_self v 0 1 x
  rw [← bits_mod_two_pow _ 0 1 64 (by omega)] at low
  simpa [bits] using low

theorem qpSet_qpWord (v x : Nat) : qpSet (setBits v 0 1 x % 2 ^ 64) = qpSet v := by
  funext y
  simp only [qpSet]
  rw [bits_qpWord _ _ _ _ (by omega) (by omega), bits_qpWord _ _ _ _ (by omega) (by omega), bits_qpWord _ _ _ _ (by omega) (by omega),
    bits_qpWord _ _ _ _ (by omega) (by omega), bits_qpWord _ _ _ _ (by omega) (by omega), testBit_qpWord]

theorem QpCfgOk.qpWord {fn v : Nat} (h : QpCfgOk fn v) (x : Nat) : QpCfgOk fn (setBits v 0 1 x % 2 ^ 64) := by
  obtain ⟨h1, h2, h3, h4, h5, h6, h7⟩ := h
  constructor
  all_goals rwa [bits_qpWord _ _ _ _ (by omega) (by omega)]

theorem decide_bit_sixteen (v : Nat) : decide (v / 65536 % 2 = 1) = v.testBit 16 := by
  rw [Nat.testBit_eq_decide_div_mod_eq]

/-- A write of a legal word, by what EN was and is. -/
theorem writeQpCfg_legal (s : State) (fn q v : Nat) (h : QpCfgOk fn v)
    (hs : (qpOf s fn q).en = true → bits v 1 4 = (qpOf s fn q).sqLog2 ∧ bits v 5 4 = (qpOf s fn q).cqLog2) :
    writeQpCfg s fn q v =
      let was := (qpOf s fn q).en
      let en := decide (v % 2 = 1)
      let s := modQp (if was && !en then qpStop s fn q else s) fn q (qpSet v)
      if !was && en then qpStart s fn q else s := by
  obtain ⟨h1, h2, h3, h4, h5, h6, h7⟩ := h
  rw [writeQpCfg]
  dsimp only
  rw [decide_bit_sixteen, if_neg]
  · rfl
  · rintro (h | h | h | h | h | ⟨h, h' | h'⟩ | ⟨-, h | h⟩)
    · omega
    · omega
    · omega
    · omega
    · omega
    · exact h' (hs h).1
    · exact h' (hs h).2
    · omega
    · omega

/-- An enabling write of a queue without entries is refused. -/
theorem writeQpCfg_empty (s : State) (fn q v : Nat) (hv : v % 2 = 1) (h : bits v 1 4 = 0) : writeQpCfg s fn q v = cfgReject s fn := by
  rw [writeQpCfg]
  exact if_pos (by simp [hv, h])

theorem qpEnable_up {s : State} {fn q : Nat} (v : Nat) (hm : mgmtUp s = true) (hf : fnExists s fn = true) (hr : running s = true)
    (hq : q < qpairs fn) : exec (.qpEnable fn q v) s =
      .next (writeQpCfg (dropLow (wakeChip s) fn (0x110 + 32 * q)) fn q (setBits v 0 1 1 % 2 ^ 64)) := by
  rw [exec_qpEnable, execQpEnable, onMgmt_up _ hm hf, if_neg (by omega), writeBar_qpCfg s fn q _ hr hq]

theorem qpDisable_up {s : State} {fn q : Nat} (v : Nat) (hm : mgmtUp s = true) (hf : fnExists s fn = true) (hr : running s = true)
    (hq : q < qpairs fn) : exec (.qpDisable fn q v) s =
      .next (writeQpCfg (dropLow (wakeChip s) fn (0x110 + 32 * q)) fn q (setBits v 0 1 0 % 2 ^ 64)) := by
  rw [exec_qpDisable, execQpDisable, onMgmt_up _ hm hf, if_neg (by omega), writeBar_qpCfg s fn q _ hr hq]

/-- A stopped queue pair that is enabled runs from the start of its queues. -/
theorem qpEnable_starts {s : State} {fn q v : Nat} (hm : mgmtUp s = true) (hf : fnExists s fn = true) (hr : running s = true)
    (hq : q < qpairs fn) (ok : QpCfgOk fn v) (h : (qpOf (wakeChip s) fn q).en = false) :
    ∃ u, exec (.qpEnable fn q v) s = .next u ∧
      qpOf u fn q = { qpOf (wakeChip s) fn q with
        en := true, ready := true, error := false, sqLog2 := bits v 1 4, cqLog2 := bits v 5 4, vector := bits v 9 7,
        ien := v.testBit 16, coalCount := bits v 17 8, coalUs := bits v 25 10, sqHead := 0, sqTail := 0, cqHead := 0, cqTail := 0,
        phase := true, unsignalled := 0 } ∧
      (∀ k, k ≠ q → qpOf u fn k = qpOf (wakeChip s) fn k) ∧ Quiet (wakeChip s) u := by
  refine ⟨_, qpEnable_up v hm hf hr hq, ?_⟩
  rw [writeQpCfg_legal _ _ _ _ (ok.qpWord 1) (by simp [h]), qpSet_qpWord, qpWord_mod_two]
  simp only [qpOf_dropLow, h, Bool.not_false, Bool.false_and, Bool.true_and, Nat.one_mod, decide_true, if_true, Bool.false_eq_true,
    if_false]
  refine ⟨?_, fun k hk => ?_, (dropLow_quiet _ _ _).trans ((modQp_quiet _ _ _ _).trans (modQp_quiet _ _ _ _))⟩
  · simp [qpStart, qpSet]
  · simp [qpStart, hk]

/-- A queue pair that is disabled stops, and its commands complete no more. -/
theorem qpDisable_stops {s : State} {fn q v : Nat} (hm : mgmtUp s = true) (hf : fnExists s fn = true) (hr : running s = true)
    (hq : q < qpairs fn) (ok : QpCfgOk fn v) (h : (qpOf (wakeChip s) fn q).en = true)
    (hs : bits v 1 4 = (qpOf (wakeChip s) fn q).sqLog2) (hc : bits v 5 4 = (qpOf (wakeChip s) fn q).cqLog2) :
    ∃ u, exec (.qpDisable fn q v) s = .next u ∧ (qpOf u fn q).en = false ∧ (qpOf u fn q).ready = false ∧
      (qpOf u fn q).error = false ∧ (∀ i ∈ (fnOf u fn).inFlight, i.qp = q → i.orphan = true) ∧
      (∀ k, k ≠ q → qpOf u fn k = qpOf (wakeChip s) fn k) ∧ Quiet (wakeChip s) u := by
  refine ⟨_, qpDisable_up v hm hf hr hq, ?_⟩
  have sizes : bits (setBits v 0 1 0 % 2 ^ 64) 1 4 = (qpOf (dropLow (wakeChip s) fn (0x110 + 32 * q)) fn q).sqLog2 ∧
      bits (setBits v 0 1 0 % 2 ^ 64) 5 4 = (qpOf (dropLow (wakeChip s) fn (0x110 + 32 * q)) fn q).cqLog2 := by
    rw [bits_qpWord _ _ _ _ (by omega) (by omega), bits_qpWord _ _ _ _ (by omega) (by omega), qpOf_dropLow]
    exact ⟨hs, hc⟩
  rw [writeQpCfg_legal _ _ _ _ (ok.qpWord 0) fun _ => sizes, qpSet_qpWord, qpWord_mod_two]
  simp only [qpOf_dropLow, h, Bool.not_true, Bool.false_and, Bool.true_and, Nat.zero_mod, Nat.zero_ne_one, decide_false, Bool.not_false,
    if_true, Bool.false_eq_true, if_false]
  rw [qpStop_running _ _ _ (by simpa using h)]
  refine ⟨?_, ?_, ?_, fun i hi hiq => ?_, fun k hk => ?_,
    (dropLow_quiet _ _ _).trans ((modQp_quiet _ _ _ _).trans ((orphan_quiet _ _ _).trans (modQp_quiet _ _ _ _)))⟩
  · simp [qpSet]
  · simp [qpSet]
  · simp [qpSet]
  · rw [fnOf_modQp_self] at hi
    exact orphan_inFlight _ _ _ i hi (by simpa using hiq)
  · simp [hk]

theorem qpEnable_refused {s : State} {fn q v : Nat} (hm : mgmtUp s = true) (hf : fnExists s fn = true) (hr : running s = true)
    (hq : q < qpairs fn) (h : bits v 1 4 = 0) :
    ∃ u, exec (.qpEnable fn q v) s = .next u ∧ (fnOf u fn).cfgReject = true ∧
      (∀ k, qpOf u fn k = qpOf (wakeChip s) fn k) ∧ Quiet (wakeChip s) u := by
  refine ⟨_, qpEnable_up v hm hf hr hq, ?_⟩
  rw [writeQpCfg_empty _ _ _ _ (qpWord_mod_two v 1) (by rwa [bits_qpWord _ _ _ _ (by omega) (by omega)])]
  exact ⟨cfgReject_set _ _, fun k => by simp, (dropLow_quiet _ _ _).trans (cfgReject_quiet _ _)⟩

/-! ## Doorbells (R837, R841) -/

/-- Entries of a completion queue from its head to an index (R837). -/
def entriesTo (x : Qp) (k : Nat) : Nat := (k + 2 ^ x.cqLog2 - x.cqHead) % 2 ^ x.cqLog2

/-- A doorbell whose tail and head lie in their queues, with a head that passes no entry that is not written. -/
theorem doorbell_taken (s : State) (fn q t h : Nat) (tail head : Option Nat) (hq : q < qpairs fn) (en : (qpOf s fn q).en = true)
    (err : (qpOf s fn q).error = false) (ht : tail.getD (qpOf s fn q).sqTail % 4096 = t) (hh : head.getD (qpOf s fn q).cqHead % 4096 = h)
    (t1 : t < 2 ^ (qpOf s fn q).sqLog2) (h1 : h < 2 ^ (qpOf s fn q).cqLog2)
    (pass : entriesTo (qpOf s fn q) h ≤ entriesTo (qpOf s fn q) (qpOf s fn q).cqTail) :
    doorbell s fn q tail head = modQp s fn q fun x => { x with sqTail := t, cqHead := h } := by
  rw [doorbell]
  dsimp only
  rw [if_neg (by simp [en, err, hq]), ht, hh, if_neg (by omega)]
  exact if_neg (Nat.not_lt.mpr pass)

/-- One whose tail lies outside its queue stops the queue pair. -/
theorem doorbell_outside (s : State) (fn q v : Nat) (head : Option Nat) (hq : q < qpairs fn) (en : (qpOf s fn q).en = true)
    (err : (qpOf s fn q).error = false) (h : 2 ^ (qpOf s fn q).sqLog2 ≤ v % 4096) :
    doorbell s fn q (some v) head = qpError s fn q 1 := by
  rw [doorbell]
  dsimp only
  rw [if_neg (by simp [en, err, hq])]
  exact if_pos (.inl h)

theorem qpOf_postEvent (s : State) (pl : List Byte) (fn q : Nat) : qpOf (postEvent s pl) fn q = qpOf s fn q := by
  unfold postEvent
  dsimp only
  split
  · rfl
  · split
    · exact qpOf_modFn s 0 fn q _ fun _ => rfl
    · rfl

theorem qpOf_reportQueueError (s : State) (n k c fn q : Nat) : qpOf (reportQueueError s n k c) fn q = qpOf s fn q :=
  qpOf_postEvent _ _ fn q

theorem qpError_qp (s : State) (fn q c : Nat) : (qpOf (qpError s fn q c) fn q).error = true ∧ (qpOf (qpError s fn q c) fn q).ready = false := by
  rw [qpError, qpOf_reportQueueError, qpOf_modQp_self]
  exact ⟨rfl, rfl⟩

theorem dbWrite_low_up {s : State} {fn q : Nat} (v : Nat) (hm : mgmtUp s = true) (hf : fnExists s fn = true) (hr : running s = true)
    (hq : q < qpairs fn) : exec (.dbWrite fn q 0 v) s = .next (doorbell (wakeChip s) fn q (some (v % 2 ^ 32)) none) := by
  rw [exec_dbWrite, execDbWrite, onMgmt_up _ hm hf, if_neg (by omega), if_neg (by omega), ← writeBar_doorbell_low s fn q v hr hq]
  rfl

theorem dbWrite_high_up {s : State} {fn q : Nat} (v : Nat) (hm : mgmtUp s = true) (hf : fnExists s fn = true) (hr : running s = true)
    (hq : q < qpairs fn) : exec (.dbWrite fn q 1 v) s = .next (doorbell (wakeChip s) fn q none (some (v % 2 ^ 32))) := by
  rw [exec_dbWrite, execDbWrite, onMgmt_up _ hm hf, if_neg (by omega), if_neg (by omega), ← writeBar_doorbell_high s fn q v hr hq]

theorem dbWrite_whole_up {s : State} {fn q : Nat} (v : Nat) (hm : mgmtUp s = true) (hf : fnExists s fn = true) (hr : running s = true)
    (hq : q < qpairs fn) : exec (.dbWrite fn q 2 v) s =
      .next (doorbell (wakeChip s) fn q (some (v % 2 ^ 64)) (some (v % 2 ^ 64 / 2 ^ 32))) := by
  rw [exec_dbWrite, execDbWrite, onMgmt_up _ hm hf, if_neg (by omega), if_pos rfl, writeBar_doorbell_whole s fn q v hr hq]

/-- What an accepted doorbell leaves of a queue pair, and of all else. -/
theorem modQp_doorbell (s : State) (fn q t h : Nat) :
    qpOf (modQp s fn q fun x => { x with sqTail := t, cqHead := h }) fn q = { qpOf s fn q with sqTail := t, cqHead := h } ∧
      (∀ k, k ≠ q → qpOf (modQp s fn q fun x => { x with sqTail := t, cqHead := h }) fn k = qpOf s fn k) ∧
      Quiet s (modQp s fn q fun x => { x with sqTail := t, cqHead := h }) :=
  ⟨qpOf_modQp_self _ _ _ _, fun _ hk => qpOf_modQp_other _ _ _ _ _ hk, modQp_quiet _ _ _ _⟩

section
variable {s : State} {fn q v : Nat} (hm : mgmtUp s = true) (hf : fnExists s fn = true) (hr : running s = true) (hq : q < qpairs fn)
  (en : (qpOf (wakeChip s) fn q).en = true) (err : (qpOf (wakeChip s) fn q).error = false)
include hm hf hr hq en err

theorem doorbell_tail (ht : v % 4096 < 2 ^ (qpOf (wakeChip s) fn q).sqLog2)
    (hh : (qpOf (wakeChip s) fn q).cqHead < 2 ^ (qpOf (wakeChip s) fn q).cqLog2) (h12 : (qpOf (wakeChip s) fn q).cqHead < 4096) :
    ∃ u, exec (.dbWrite fn q 0 v) s = .next u ∧ qpOf u fn q = { qpOf (wakeChip s) fn q with sqTail := v % 4096 } ∧
      (∀ k, k ≠ q → qpOf u fn k = qpOf (wakeChip s) fn k) ∧ Quiet (wakeChip s) u := by
  refine ⟨_, dbWrite_low_up v hm hf hr hq, ?_⟩
  rw [doorbell_taken _ _ _ (v % 4096) (qpOf (wakeChip s) fn q).cqHead (some (v % 2 ^ 32)) none hq en err (Nat.mod_mod_of_dvd v (by norm_num))
    (Nat.mod_eq_of_lt h12) ht hh
    (by simp [entriesTo])]
  exact modQp_doorbell _ _ _ _ _

theorem doorbell_head (ht : (qpOf (wakeChip s) fn q).sqTail < 2 ^ (qpOf (wakeChip s) fn q).sqLog2)
    (t12 : (qpOf (wakeChip s) fn q).sqTail < 4096) (hh : v % 4096 < 2 ^ (qpOf (wakeChip s) fn q).cqLog2)
    (pass : entriesTo (qpOf (wakeChip s) fn q) (v % 4096) ≤ entriesTo (qpOf (wakeChip s) fn q) (qpOf (wakeChip s) fn q).cqTail) :
    ∃ u, exec (.dbWrite fn q 1 v) s = .next u ∧ qpOf u fn q = { qpOf (wakeChip s) fn q with cqHead := v % 4096 } ∧
      Quiet (wakeChip s) u := by
  refine ⟨_, dbWrite_high_up v hm hf hr hq, ?_⟩
  rw [doorbell_taken _ _ _ (qpOf (wakeChip s) fn q).sqTail (v % 4096) none (some (v % 2 ^ 32)) hq en err (Nat.mod_eq_of_lt t12)
    (Nat.mod_mod_of_dvd v (by norm_num)) ht hh pass]
  obtain ⟨pair, -, quiet⟩ := modQp_doorbell (wakeChip s) fn q (qpOf (wakeChip s) fn q).sqTail (v % 4096)
  exact ⟨pair, quiet⟩

theorem doorbell_both (ht : v % 4096 < 2 ^ (qpOf (wakeChip s) fn q).sqLog2)
    (hh : v / 2 ^ 32 % 4096 < 2 ^ (qpOf (wakeChip s) fn q).cqLog2)
    (pass : entriesTo (qpOf (wakeChip s) fn q) (v / 2 ^ 32 % 4096) ≤
      entriesTo (qpOf (wakeChip s) fn q) (qpOf (wakeChip s) fn q).cqTail) :
    ∃ u, exec (.dbWrite fn q 2 v) s = .next u ∧
      qpOf u fn q = { qpOf (wakeChip s) fn q with sqTail := v % 4096, cqHead := v / 2 ^ 32 % 4096 } ∧ Quiet (wakeChip s) u := by
  refine ⟨_, dbWrite_whole_up v hm hf hr hq, ?_⟩
  have high : v % 2 ^ 64 / 2 ^ 32 % 4096 = v / 2 ^ 32 % 4096 := by omega
  rw [doorbell_taken _ _ _ (v % 4096) (v / 2 ^ 32 % 4096) (some (v % 2 ^ 64)) (some (v % 2 ^ 64 / 2 ^ 32)) hq en err (Nat.mod_mod_of_dvd v (by norm_num)) high ht hh pass]
  obtain ⟨pair, -, quiet⟩ := modQp_doorbell (wakeChip s) fn q (v % 4096) (v / 2 ^ 32 % 4096)
  exact ⟨pair, quiet⟩

theorem doorbell_error (h : 2 ^ (qpOf (wakeChip s) fn q).sqLog2 ≤ v % 4096) :
    ∃ u, exec (.dbWrite fn q 0 v) s = .next u ∧ (qpOf u fn q).error = true ∧ (qpOf u fn q).ready = false := by
  refine ⟨_, dbWrite_low_up v hm hf hr hq, ?_⟩
  rw [doorbell_outside _ _ _ _ _ hq en err (by rwa [Nat.mod_mod_of_dvd v (by norm_num)])]
  exact qpError_qp _ _ _ _

end

end Sys2Proof.Machine
end

section
/-! The recovery mailbox (R861, R862), reads that latch or clear (R710, R836), and what a reset of a function leaves (R831). -/
namespace Sys2Proof.Machine

/-! ## The word of MBX_CTRL -/

/-- The word of MBX_CTRL: its command bits, a chunk's length and its offset. -/
def mbxWord (a len off : Nat) : Nat := a + 8 * (len % 2 ^ 17) + 2 ^ 32 * (off % 2 ^ 26)

theorem mbxWord_lt (a len off : Nat) (ha : a < 8) : mbxWord a len off < 2 ^ 64 := by
  rw [mbxWord]
  omega

theorem bits_mbxWord_len (a len off : Nat) (ha : a < 8) (hl : len < 2 ^ 17) : bits (mbxWord a len off) 3 17 = len := by
  rw [mbxWord, bits]
  omega

theorem bits_mbxWord_off (a len off : Nat) (ha : a < 8) (ho : off < 2 ^ 26) : bits (mbxWord a len off) 32 26 = off := by
  rw [mbxWord, bits]
  omega

/-- The command bits are those of the word's lowest three. -/
theorem testBit_mbxWord (a len off i : Nat) (ha : a < 8) (hi : i < 3) : (mbxWord a len off).testBit i = a.testBit i := by
  have low : mbxWord a len off % 2 ^ 3 = a := by
    rw [mbxWord]
    omega
  have bit := Nat.testBit_mod_two_pow (mbxWord a len off) 3 i
  rw [low] at bit
  simpa [hi] using bit.symm

/-! ## What a command of the mailbox does -/

/-- The chunk in the mailbox's data follows what is staged (R861). -/
def mbxStage (s : State) (len : Nat) : State := modMbx s fun m => { m with staged := m.staged ++ readBytes m.data 0 len }

/-- A chunk in recovery, with the mailbox free: refused where it does not follow or is too long, else staged. -/
theorem mbxWrite_chunk (s : State) (v len off : Nat) (hb : s.boot.mbx.busy = false) (hp : s.boot.phase = .recovery)
    (h0 : v.testBit 0 = true) (h2 : v.testBit 2 = false) (hl : bits v 3 17 = len) (ho : bits v 32 26 = off) :
    mbxWrite s v =
      if off ≠ s.boot.mbx.staged.length ∨ len = 0 ∨ 65536 < len then mbxDone s 1
      else if 67108864 < off + len then mbxDone s 2
      else if v.testBit 1 then modMbx (mbxStage s len) fun m => { m with busy := true, done := false, err := 0 }
      else mbxDone (mbxStage s len) 0 := by
  rw [mbxWrite]
  dsimp only
  rw [if_neg (by simp [hb]), if_neg (by simp [h2]), if_neg (by simp [h0]), if_neg (by simp [hp]), hl, ho]
  rfl

theorem mbxWrite_abort (s : State) (v : Nat) (hb : s.boot.mbx.busy = false) (hp : s.boot.phase = .recovery)
    (h2 : v.testBit 2 = true) : mbxWrite s v = mbxDone (modMbx s fun m => { m with staged := [] }) 6 := by
  rw [mbxWrite]
  dsimp only
  rw [if_neg (by simp [hb]), if_pos h2, if_pos hp]

theorem mbxDone_mbx (s : State) (e : Nat) : (mbxDone s e).boot.mbx = { s.boot.mbx with busy := false, done := true, err := e } := rfl
theorem mbxDone_outs (s : State) (e : Nat) : (mbxDone s e).outs = s.outs ++ [.msix 0 65] := rfl
theorem modMbx_mbx (s : State) (f : Mbx → Mbx) : (modMbx s f).boot.mbx = f s.boot.mbx := rfl

theorem mbxGo_up {s : State} (len off : Nat) (hm : mgmtUp s = true) :
    exec (.mbxGo len off) s = .next (mbxWrite (dropLow (wakeChip s) 0 0x2000) (mbxWord 1 len off)) := by
  rw [exec_mbxGo, execMbxGo, onMgmt_up _ hm (fnExists_zero s), ← writeBar_mailbox s _ (mbxWord_lt _ _ _ (by omega)), mbxWord]

theorem mbxLast_up {s : State} (len off : Nat) (hm : mgmtUp s = true) :
    exec (.mbxLast len off) s = .next (mbxWrite (dropLow (wakeChip s) 0 0x2000) (mbxWord 3 len off)) := by
  rw [exec_mbxLast, execMbxLast, onMgmt_up _ hm (fnExists_zero s), ← writeBar_mailbox s _ (mbxWord_lt _ _ _ (by omega)), mbxWord]

theorem mbxAbort_up {s : State} (hm : mgmtUp s = true) :
    exec .mbxAbort s = .next (mbxWrite (dropLow (wakeChip s) 0 0x2000) 4) := by
  rw [exec_mbxAbort, execMbxAbort, onMgmt_up _ hm (fnExists_zero s), writeBar_mailbox s 4 (by norm_num)]

section
variable {s : State} {len off : Nat} (hm : mgmtUp s = true) (hp : s.boot.phase = .recovery) (hb : s.boot.mbx.busy = false)
  (hl : len < 2 ^ 17) (ho : off < 2 ^ 26)
include hm hp hb hl ho

omit hm in
theorem mbx_chunk (a : Nat) (ha : a < 8) (h0 : a.testBit 0 = true) (h2 : a.testBit 2 = false) :
    mbxWrite (dropLow (wakeChip s) 0 0x2000) (mbxWord a len off) =
      if off ≠ (wakeChip s).boot.mbx.staged.length ∨ len = 0 ∨ 65536 < len then mbxDone (dropLow (wakeChip s) 0 0x2000) 1
      else if 67108864 < off + len then mbxDone (dropLow (wakeChip s) 0 0x2000) 2
      else if a.testBit 1 then
        modMbx (mbxStage (dropLow (wakeChip s) 0 0x2000) len) fun m => { m with busy := true, done := false, err := 0 }
      else mbxDone (mbxStage (dropLow (wakeChip s) 0 0x2000) len) 0 := by
  rw [mbxWrite_chunk _ _ len off (by simpa using hb) (by simpa using hp) (by rwa [testBit_mbxWord _ _ _ _ ha (by omega)])
    (by rwa [testBit_mbxWord _ _ _ _ ha (by omega)]) (bits_mbxWord_len _ _ _ ha hl) (bits_mbxWord_off _ _ _ ha ho),
    testBit_mbxWord _ _ _ _ ha (by omega), dropLow_boot]

theorem mbxGo_staged (h1 : off = (wakeChip s).boot.mbx.staged.length) (h2 : 0 < len) (h3 : len ≤ 65536) (h4 : off + len ≤ 67108864) :
    ∃ u, exec (.mbxGo len off) s = .next u ∧
      u.boot.mbx = { (wakeChip s).boot.mbx with
        staged := (wakeChip s).boot.mbx.staged ++ readBytes (wakeChip s).boot.mbx.data 0 len, busy := false, done := true, err := 0 } ∧
      u.outs = (wakeChip s).outs ++ [.msix 0 65] := by
  refine ⟨_, mbxGo_up len off hm, ?_⟩
  rw [mbx_chunk hp hb hl ho 1 (by omega) rfl rfl, if_neg (by omega), if_neg (by omega), if_neg (by decide), mbxDone_mbx,
    mbxDone_outs, mbxStage, modMbx_mbx, modMbx_outs, dropLow_boot, dropLow_outs]
  exact ⟨rfl, rfl⟩

theorem mbxLast_staged (h1 : off = (wakeChip s).boot.mbx.staged.length) (h2 : 0 < len) (h3 : len ≤ 65536)
    (h4 : off + len ≤ 67108864) :
    ∃ u, exec (.mbxLast len off) s = .next u ∧
      u.boot.mbx = { (wakeChip s).boot.mbx with
        staged := (wakeChip s).boot.mbx.staged ++ readBytes (wakeChip s).boot.mbx.data 0 len, busy := true, done := false, err := 0 } ∧
      u.outs = (wakeChip s).outs := by
  refine ⟨_, mbxLast_up len off hm, ?_⟩
  rw [mbx_chunk hp hb hl ho 3 (by omega) rfl rfl, if_neg (by omega), if_neg (by omega), if_pos (by decide), modMbx_mbx, modMbx_outs,
    mbxStage, modMbx_mbx, modMbx_outs, dropLow_boot, dropLow_outs]
  exact ⟨rfl, rfl⟩

theorem mbxGo_misplaced (h : off ≠ (wakeChip s).boot.mbx.staged.length ∨ len = 0 ∨ 65536 < len) :
    exec (.mbxGo len off) s = .next (mbxDone (dropLow (wakeChip s) 0 0x2000) 1) := by
  rw [mbxGo_up len off hm, mbx_chunk hp hb hl ho 1 (by omega) rfl rfl, if_pos h]

theorem mbxGo_tooLong (h1 : off = (wakeChip s).boot.mbx.staged.length) (h2 : 0 < len) (h3 : len ≤ 65536) (h4 : 67108864 < off + len) :
    exec (.mbxGo len off) s = .next (mbxDone (dropLow (wakeChip s) 0 0x2000) 2) := by
  rw [mbxGo_up len off hm, mbx_chunk hp hb hl ho 1 (by omega) rfl rfl, if_neg (by omega), if_pos h4]

end

theorem mbxAbort_done {s : State} (hm : mgmtUp s = true) (hp : s.boot.phase = .recovery) (hb : s.boot.mbx.busy = false) :
    ∃ u, exec .mbxAbort s = .next u ∧
      u.boot.mbx = { (wakeChip s).boot.mbx with staged := [], busy := false, done := true, err := 6 } ∧
      u.outs = (wakeChip s).outs ++ [.msix 0 65] := by
  refine ⟨_, mbxAbort_up hm, ?_⟩
  rw [mbxWrite_abort _ 4 (by simpa using hb) (by simpa using hp) rfl, mbxDone_mbx, mbxDone_outs, modMbx_mbx, modMbx_outs, dropLow_boot,
    dropLow_outs]
  exact ⟨rfl, rfl⟩

/-! ## Reads of FTIME and of HYS_DROPPED (R710, R836) -/

theorem ftimeRead_low {s : State} (hm : mgmtUp s = true) (hr : running s = true) :
    ∃ u, exec (.ftimeRead 0) s = .next u ∧ u.outs = (wakeChip s).outs ++ [.regRead 0 rFtime ((wakeChip s).ftime.toNat % 2 ^ 32)] ∧
      u.tk = { (wakeChip s).tk with latch := some ((wakeChip s).ftime.toNat / 2 ^ 32) } ∧ u.mem = s.mem := by
  refine ⟨emit { wakeChip s with tk := { (wakeChip s).tk with latch := some ((wakeChip s).ftime.toNat / 2 ^ 32) } }
    (.regRead 0 rFtime ((wakeChip s).ftime.toNat % 2 ^ 32)), ?_, rfl, rfl, wakeChip_mem s⟩
  rw [exec_ftimeRead, execFtimeRead, onMgmt_up _ hm (fnExists_zero s)]
  dsimp only
  rw [if_pos rfl, if_pos ((running_wakeChip s).trans hr)]

theorem ftimeRead_high {s : State} (hm : mgmtUp s = true) (hr : running s = true) :
    ∃ u, exec (.ftimeRead 1) s = .next u ∧
      u.outs = (wakeChip s).outs ++
        [.regRead 0 (rFtime + 4) ((wakeChip s).tk.latch.getD ((wakeChip s).ftime.toNat / 2 ^ 32))] ∧
      u.tk = { (wakeChip s).tk with latch := none } ∧ u.mem = s.mem := by
  refine ⟨emit { wakeChip s with tk := { (wakeChip s).tk with latch := none } }
    (.regRead 0 (rFtime + 4) ((wakeChip s).tk.latch.getD ((wakeChip s).ftime.toNat / 2 ^ 32))), ?_, rfl, rfl, wakeChip_mem s⟩
  rw [exec_ftimeRead, execFtimeRead, onMgmt_up _ hm (fnExists_zero s)]
  dsimp only
  rw [if_neg (by omega), if_pos rfl, if_pos ((running_wakeChip s).trans hr)]

theorem ftimeRead_whole {s : State} (hm : mgmtUp s = true) (hr : running s = true) :
    exec (.ftimeRead 2) s = .next (emit (wakeChip s) (.regRead 0 rFtime (wakeChip s).ftime.toNat)) := by
  rw [exec_ftimeRead, execFtimeRead, onMgmt_up _ hm (fnExists_zero s)]
  dsimp only
  rw [if_neg (by omega), if_neg (by omega), if_pos ((running_wakeChip s).trans hr)]

theorem viewReg_dropped (s : State) (fn : Nat) :
    viewReg s fn 0x18 = (fnOf s fn).droppedCompletions + 2 ^ 16 * (fnOf s fn).droppedEvents := by
  rw [viewReg]
  dsimp only
  rw [if_neg (by omega), if_neg (by omega), if_pos rfl]

theorem hysDroppedRead_clears {s : State} {fn : Nat} (hm : mgmtUp s = true) (hf : fnExists s fn = true) :
    ∃ u, exec (.hysDroppedRead fn) s = .next u ∧
      u.outs = (wakeChip s).outs ++
        [.regRead fn 0x18 ((fnOf (wakeChip s) fn).droppedCompletions + 2 ^ 16 * (fnOf (wakeChip s) fn).droppedEvents)] ∧
      (fnOf u fn).droppedCompletions = 0 ∧ (fnOf u fn).droppedEvents = 0 ∧ Quiet (wakeChip s) u := by
  refine ⟨emit (modFn (wakeChip s) fn fun x => { x with droppedCompletions := 0, droppedEvents := 0 })
    (.regRead fn 0x18 (viewReg (wakeChip s) fn 0x18)), ?_, ?_, by simp, by simp, (modFn_quiet _ _ _).trans (emit_quiet _ _)⟩
  · rw [exec_hysDroppedRead, execHysDroppedRead, onMgmt_up _ hm hf]
  · rw [emit_outs, viewReg_dropped]
    rfl

/-! ## What a reset of a function leaves (R831) -/

theorem fnReset_mem (s : State) (fn : Nat) : (fnReset s fn).mem = s.mem := by
  unfold fnReset
  dsimp only
  split
  all_goals rfl

theorem fnReset_lports (s : State) (fn : Nat) : (fnReset s fn).lports = s.lports := by
  unfold fnReset
  dsimp only
  split
  all_goals rfl

theorem fnReset_numVfs (s : State) (fn : Nat) : (fnReset s fn).hys.numVfs = s.hys.numVfs := by
  unfold fnReset
  dsimp only
  split
  all_goals rfl

theorem fnReset_vfEnable (s : State) (fn : Nat) : (fnReset s fn).hys.vfEnable = s.hys.vfEnable := by
  unfold fnReset
  dsimp only
  split
  all_goals rfl

/-- The list of functions' states after a reset: one function's state is new. -/
theorem fnReset_fns (s : State) (fn m : Nat) : fnOf (fnReset s fn) m =
    fnOf (modFn (orphan s fn fun _ => true) fn fun x => { inFlight := x.inFlight, droppedCompletions := x.droppedCompletions }) m := by
  unfold fnReset
  dsimp only
  split
  all_goals rfl

theorem fnOf_fnReset_other (s : State) (fn m : Nat) (h : m ≠ fn) : fnOf (fnReset s fn) m = fnOf s m := by
  rw [fnReset_fns, fnOf_modFn_other _ _ _ _ h, orphan, fnOf_modFn_other _ _ _ _ h]

theorem fnOf_fnReset_self (s : State) (fn : Nat) : fnOf (fnReset s fn) fn =
    { inFlight := (fnOf (orphan s fn fun _ => true) fn).inFlight,
      droppedCompletions := (fnOf (orphan s fn fun _ => true) fn).droppedCompletions } := by
  rw [fnReset_fns, fnOf_modFn_self]

theorem functionLevelReset_done {s : State} {fn : Nat} (hm : mgmtUp s = true) (hf : fnExists s fn = true) :
    ∃ u, exec (.functionLevelReset fn) s = .next u ∧ (fnOf u fn).qps = [] ∧ (fnOf u fn).done = [] ∧
      (fnOf u fn).accessError = false ∧ (∀ i ∈ (fnOf u fn).inFlight, i.orphan = true) ∧ (∀ m, m ≠ fn → fnOf u m = fnOf s m) ∧
      u.mem = s.mem ∧ u.lports = s.lports := by
  refine ⟨fnReset s fn, ?_, ?_⟩
  · rw [exec_functionLevelReset, execFunctionLevelReset, onMgmt_up _ hm hf]
  rw [fnOf_fnReset_self]
  exact ⟨rfl, rfl, rfl, fun i hi => orphan_inFlight _ _ _ i hi rfl, fun m h => fnOf_fnReset_other _ _ _ h, fnReset_mem _ _,
    fnReset_lports _ _⟩

/-! ## NUMVFS -/

/-- A reset of several functions leaves the others, and what is no function's. -/
theorem foldl_fnReset (ns : List Nat) (s : State) :
    (ns.foldl fnReset s).hys.numVfs = s.hys.numVfs ∧ (ns.foldl fnReset s).hys.vfEnable = s.hys.vfEnable ∧
      (∀ k, k ∉ ns → fnOf (ns.foldl fnReset s) k = fnOf s k) ∧ (ns.foldl fnReset s).mem = s.mem ∧
      (ns.foldl fnReset s).lports = s.lports := by
  induction ns generalizing s with
  | nil => exact ⟨rfl, rfl, fun _ _ => rfl, rfl, rfl⟩
  | cons n ns ih =>
    obtain ⟨num, en, fns, mem, lports⟩ := ih (fnReset s n)
    refine ⟨num.trans (fnReset_numVfs s n), en.trans (fnReset_vfEnable s n), fun k hk => ?_, mem.trans (fnReset_mem s n),
      lports.trans (fnReset_lports s n)⟩
    rw [List.mem_cons, not_or] at hk
    exact (fns k hk.2).trans (fnOf_fnReset_other _ _ _ hk.1)

theorem fnExists_iff (s : State) (k : Nat) : fnExists s k = true ↔ k = 0 ∨ (s.hys.vfEnable = true ∧ k ≤ s.hys.numVfs) := by
  simp [fnExists]

/-- NUMVFS and VF_ENABLE are set. -/
def withVfs (s : State) (n : Nat) (en : Bool) : State := { s with hys := { s.hys with numVfs := n, vfEnable := en } }

theorem fnOf_withVfs (s : State) (n k : Nat) (en : Bool) : fnOf (withVfs s n en) k = fnOf s k := rfl

theorem numvfsWrite_up {s : State} {n : Nat} (en : Bool) (hm : mgmtUp s = true) (hn : n ≤ 1024) :
    exec (.numvfsWrite n en) s =
      .next ((((withVfs s n en).hys.fns.map (·.1)).filter fun fn => !fnExists (withVfs s n en) fn).foldl fnReset (withVfs s n en)) := by
  rw [exec_numvfsWrite, execNumvfsWrite, onMgmt_up _ hm (fnExists_zero s)]
  exact congrArg _ (if_neg (by omega))

theorem numvfsWrite_resets {s : State} {n : Nat} (en : Bool) (hm : mgmtUp s = true) (hn : n ≤ 1024) :
    ∃ u, exec (.numvfsWrite n en) s = .next u ∧ u.hys.numVfs = n ∧ u.hys.vfEnable = en ∧
      (∀ k, k = 0 ∨ (en = true ∧ k ≤ n) → fnOf u k = fnOf s k) ∧ u.mem = s.mem ∧ u.lports = s.lports := by
  obtain ⟨num, on, fns, mem, lports⟩ :=
    foldl_fnReset (((withVfs s n en).hys.fns.map (·.1)).filter fun fn => !fnExists (withVfs s n en) fn) (withVfs s n en)
  refine ⟨_, numvfsWrite_up en hm hn, num, on, fun k hk => (fns k fun reset => ?_).trans (fnOf_withVfs s n k en), mem, lports⟩
  have stays : fnExists (withVfs s n en) k = true := (fnExists_iff _ k).mpr hk
  simp [stays] at reset

end Sys2Proof.Machine
end

section
/-! Obligation O49, from the lemmas on each kind of access. -/
namespace Sys2Proof.Machine

/-- Settles O49, one kind of access after another. -/
theorem registerAccesses : Obligations.RegisterAccesses := by
  unfold Obligations.RegisterAccesses
  intro fn q v s hm hf w
  refine ⟨fun off size => registerWrite_up off size v hm hf, fun off size h => ?_, rfl, accessError_set w fn, accessError_quiet w fn,
    fun hr => ?_, fun hr => ?_, fun len off hp hb hl ho => ?_, fun hr => ?_, hysDroppedRead_clears hm hf,
    fun n en hn => numvfsWrite_resets en hm hn, functionLevelReset_done hm hf⟩
  · rw [registerWrite_up off size v hm hf, writeBar_misaligned s fn off size v h]
  · refine ⟨combine_legal hm hr, combine_illegal hm hr, fun hq en => ?_⟩
    exact ⟨sqBase_whole v hm hf hr hq en, sqBase_low v hm hf hq, fun low => sqBase_high v hm hf hr hq en,
      sqBase_high_none v hm hf hq⟩
  · refine ⟨poolHeat_legal hm hr, poolHeat_illegal hm hr, poolPolicy_legal hm hr, poolPolicy_order hm hr, fun hq => ?_,
      qreset_done hm hf hr, fun hq => ⟨fun h1 h2 h3 h4 h5 h6 h7 => ?_, qpEnable_refused hm hf hr hq, fun en err => ?_⟩⟩
    · exact ⟨port_refused hm hr hq, fun h1 h2 =>
        ⟨port_set hm hr hq h1 h2, port_fixed hm hr hq, port_clear hm hr hq h1 h2⟩⟩
    · have ok : QpCfgOk fn v := ⟨h1, h2, h3, h4, h5, h6, h7⟩
      exact ⟨qpEnable_starts hm hf hr hq ok, qpDisable_stops hm hf hr hq ok⟩
    · exact ⟨doorbell_tail hm hf hr hq en err, doorbell_head hm hf hr hq en err, doorbell_both hm hf hr hq en err,
        doorbell_error hm hf hr hq en err⟩
  · exact ⟨fun h1 h2 h3 h4 => ⟨mbxGo_staged hm hp hb hl ho h1 h2 h3 h4, mbxLast_staged hm hp hb hl ho h1 h2 h3 h4⟩,
      mbxGo_misplaced hm hp hb hl ho, mbxGo_tooLong hm hp hb hl ho, mbxAbort_done hm hp hb⟩
  · exact ⟨ftimeRead_low hm hr, ftimeRead_high hm hr, ftimeRead_whole hm hr⟩

end Sys2Proof.Machine
end

section
/-! The bytes of a request's header spell it (O4, R53). -/
namespace Sys2Proof.Machine

/-! ## Fields of a list of bytes -/

theorem leField_append_right (a b : List Byte) (off n : Nat) (h : a.length ≤ off) :
    leField (a ++ b) off n = leField b (off - a.length) n := by
  rw [leField, leField, sliceBytes, sliceBytes, List.drop_append, List.drop_eq_nil_of_le h, List.nil_append]

theorem leField_leBytes_append (n v : Nat) (b : List Byte) : leField (leBytes n v ++ b) 0 n = v % 256 ^ n := by
  have take : (leBytes n v ++ b).take n = leBytes n v := by
    rw [List.take_append_of_le_length (length_leBytes n v).ge, List.take_of_length_le (length_leBytes n v).le]
  rw [leField, sliceBytes, List.drop_zero, take, length_leBytes, Nat.sub_self, List.replicate_zero, List.append_nil, leNat_leBytes]

/-- A field that stands at the end of the bytes. -/
theorem leField_leBytes (n v : Nat) : leField (leBytes n v) 0 n = v % 256 ^ n := by
  simpa using leField_leBytes_append n v []

/-! ## The header -/

theorem length_reqHeader (code : Nat) (p : Req) : (reqHeader code p).length = 32 := by
  simp [reqHeader]

/-- The groups of reserved bits, each where a field leaves room, are the 38 reserved bits. -/
theorem rsv_groups (r : BitVec 38) :
    rsvAt r 0 2 + 2 ^ 2 * rsvAt r 2 6 + 2 ^ 8 * rsvAt r 8 4 + 2 ^ 12 * rsvAt r 12 1 + 2 ^ 13 * rsvAt r 13 1 +
      2 ^ 14 * rsvAt r 14 8 + 2 ^ 22 * rsvAt r 22 16 = r.toNat := by
  have lt := r.isLt
  simp only [rsvAt, bits]
  omega

/-- A field of `w` bits with reserved bits above it gives back the field. -/
theorem ofNat_low_field {w : Nat} (x : BitVec w) (r : Nat) : BitVec.ofNat w (x.toNat + 2 ^ w * r) = x :=
  BitVec.eq_of_toNat_eq (by rw [BitVec.toNat_ofNat, Nat.add_mul_mod_self_left, Nat.mod_eq_of_lt x.isLt])

/-- And the reserved bits. -/
theorem bits_high_field {w : Nat} (x : BitVec w) (r : BitVec 38) (lo k : Nat) :
    bits (x.toNat + 2 ^ w * rsvAt r lo k) w k = rsvAt r lo k := by
  rw [bits, Nat.add_mul_div_left _ _ (by positivity), Nat.div_eq_of_lt x.isLt, Nat.zero_add, rsvAt, bits, Nat.mod_mod]

/-- A field and the reserved bits above it fill their bytes. -/
theorem field_fits {w : Nat} (x : BitVec w) (r : BitVec 38) (lo k n : Nat) (h : 256 ^ n = 2 ^ w * 2 ^ k) :
    (x.toNat + 2 ^ w * rsvAt r lo k) % 256 ^ n = x.toNat + 2 ^ w * rsvAt r lo k := by
  refine Nat.mod_eq_of_lt ?_
  have low := x.isLt
  have high : rsvAt r lo k < 2 ^ k := Nat.mod_lt _ (by positivity)
  calc x.toNat + 2 ^ w * rsvAt r lo k < 2 ^ w * (rsvAt r lo k + 1) := by rw [Nat.mul_add]; omega
    _ ≤ 2 ^ w * 2 ^ k := Nat.mul_le_mul_left _ high
    _ = 256 ^ n := h.symm

/-- The header's bytes, each field where R53 has it. -/
theorem leField_reqHeader (code : Nat) (p : Req) (hc : code < 256) :
    let h := reqHeader code p
    leField h 0 1 = code ∧ leField h 1 1 = p.tc.toNat + 2 ^ 3 * p.vc.toNat + 2 ^ 6 * rsvAt p.rsv 0 2 ∧
    leField h 2 2 = p.partition.toNat + 2 ^ 10 * rsvAt p.rsv 2 6 ∧ leField h 4 2 = p.ast.toNat + 2 ^ 12 * rsvAt p.rsv 8 4 ∧
    leField h 6 2 = p.src.toNat + 2 ^ 15 * rsvAt p.rsv 12 1 ∧ leField h 8 2 = p.dst.toNat + 2 ^ 15 * rsvAt p.rsv 13 1 ∧
    leField h 10 2 = p.tag.toNat ∧ leField h 12 4 = p.length.toNat + 2 ^ 24 * rsvAt p.rsv 14 8 ∧
    leField h 16 8 = p.address.toNat ∧ leField h 24 4 = p.seq.toNat ∧ leField h 28 2 = p.flags.toNat ∧
    leField h 30 2 = rsvAt p.rsv 22 16 := by
  have classes : p.tc.toNat + 2 ^ 3 * p.vc.toNat + 2 ^ 6 * rsvAt p.rsv 0 2 < 256 := by
    have t := p.tc.isLt
    have v := p.vc.isLt
    have r : rsvAt p.rsv 0 2 < 4 := Nat.mod_lt _ (by positivity)
    omega
  simp only [reqHeader, List.append_assoc, leField_append_right, leField_leBytes_append, leField_leBytes, length_leBytes,
    Nat.reduceLeDiff, Nat.reduceSub]
  exact ⟨Nat.mod_eq_of_lt hc, Nat.mod_eq_of_lt classes, field_fits _ _ _ _ _ rfl, field_fits _ _ _ _ _ rfl, field_fits _ _ _ _ _ rfl,
    field_fits _ _ _ _ _ rfl, Nat.mod_eq_of_lt p.tag.isLt, field_fits _ _ _ _ _ rfl, Nat.mod_eq_of_lt p.address.isLt,
    Nat.mod_eq_of_lt p.seq.isLt, Nat.mod_eq_of_lt p.flags.isLt, Nat.mod_eq_of_lt (Nat.mod_lt _ (by positivity))⟩

/-- TC, VC and two reserved bits share a byte. -/
theorem classes_of_byte (t v : BitVec 3) (r : BitVec 38) :
    let b := t.toNat + 2 ^ 3 * v.toNat + 2 ^ 6 * rsvAt r 0 2
    BitVec.ofNat 3 b = t ∧ BitVec.ofNat 3 (b / 8) = v ∧ bits b 6 2 = rsvAt r 0 2 := by
  have ht := t.isLt
  have hv := v.isLt
  have hr : rsvAt r 0 2 < 4 := Nat.mod_lt _ (by positivity)
  refine ⟨BitVec.eq_of_toNat_eq ?_, BitVec.eq_of_toNat_eq ?_, ?_⟩
  · rw [BitVec.toNat_ofNat]; omega
  · rw [BitVec.toNat_ofNat]; omega
  · rw [bits]; omega

/-- Settles O4: each field of the header gives back the field of the request, and the groups of reserved bits theirs. -/
theorem requestHeader : Obligations.RequestHeader := by
  intro code p hc
  obtain ⟨h0, h1, h2, h4, h6, h8, h10, h12, h16, h24, h28, h30⟩ := leField_reqHeader code p hc
  obtain ⟨tc, vc, low⟩ := classes_of_byte p.tc p.vc p.rsv
  refine ⟨length_reqHeader code p, ?_⟩
  simp only [reqOfHeader, h0, h1, h2, h4, h6, h8, h10, h12, h16, h24, h28, h30, tc, vc, low, ofNat_low_field, bits_high_field, rsv_groups,
    BitVec.ofNat_toNat, BitVec.setWidth_eq]

end Sys2Proof.Machine
end

section
/-! The value that each atomic stores (O12, R77). -/
namespace Sys2Proof.Machine

/-- The smaller of two words by a signed comparison is the smaller number. -/
theorem toInt_ite_lt (w pre x : Nat) :
    (BitVec.ofNat w (if (BitVec.ofNat w x).toInt < (BitVec.ofNat w pre).toInt then x else pre)).toInt =
      min (BitVec.ofNat w pre).toInt (BitVec.ofNat w x).toInt := by
  split_ifs with h
  · exact (min_eq_right h.le).symm
  · exact (min_eq_left (not_lt.mp h)).symm

/-- And the other one the larger. -/
theorem toInt_ite_gt (w pre x : Nat) :
    (BitVec.ofNat w (if (BitVec.ofNat w x).toInt < (BitVec.ofNat w pre).toInt then pre else x)).toInt =
      max (BitVec.ofNat w pre).toInt (BitVec.ofNat w x).toInt := by
  split_ifs with h
  · exact (max_eq_left h.le).symm
  · exact (max_eq_right (not_lt.mp h)).symm

/-- ADD wraps around at the width of the word. -/
theorem atomicValue_add (w pre x y : Nat) (g : Bool) :
    BitVec.ofNat (8 * w) (atomicValue .add w g pre x y) = BitVec.ofNat (8 * w) pre + BitVec.ofNat (8 * w) x ∧
      atomicValue .add w g pre x y < 2 ^ (8 * w) := by
  refine ⟨BitVec.eq_of_toNat_eq ?_, Nat.mod_lt _ (by positivity)⟩
  simp [atomicValue]

theorem atomicValue_min_unsigned (w pre x y : Nat) : atomicValue .min w false pre x y = min pre x := by
  simp only [atomicValue, Bool.false_eq_true, if_false, decide_eq_true_eq]
  split_ifs <;> omega

theorem atomicValue_max_unsigned (w pre x y : Nat) : atomicValue .max w false pre x y = max pre x := by
  simp only [atomicValue, Bool.false_eq_true, if_false, decide_eq_true_eq]
  split_ifs <;> omega

theorem atomicValue_min_signed (w pre x y : Nat) :
    (BitVec.ofNat (8 * w) (atomicValue .min w true pre x y)).toInt =
      min (BitVec.ofNat (8 * w) pre).toInt (BitVec.ofNat (8 * w) x).toInt := by
  simpa only [atomicValue, if_true, decide_eq_true_eq] using toInt_ite_lt (8 * w) pre x

theorem atomicValue_max_signed (w pre x y : Nat) :
    (BitVec.ofNat (8 * w) (atomicValue .max w true pre x y)).toInt =
      max (BitVec.ofNat (8 * w) pre).toInt (BitVec.ofNat (8 * w) x).toInt := by
  simpa only [atomicValue, if_true, decide_eq_true_eq] using toInt_ite_gt (8 * w) pre x

/-- Settles O12, one operation after another. -/
theorem atomicValues : Obligations.AtomicValues := by
  intro w pre x y _ _
  exact ⟨atomicValue_add w pre x y, atomicValue_min_unsigned w pre x y, atomicValue_max_unsigned w pre x y,
    atomicValue_min_signed w pre x y, atomicValue_max_signed w pre x y,
    fun _ k => ⟨Nat.testBit_and pre x k, Nat.testBit_or pre x k, Nat.testBit_xor pre x k⟩,
    fun _ => ⟨rfl, fun h => if_pos h, fun h => if_neg h⟩⟩

end Sys2Proof.Machine
end

section
/-! Segments of a LOAD (O13, R78, R79), and what an operation does to the bytes of its home (O11, R80). -/
namespace Sys2Proof.Machine

/-- An operation that sees the pool's own bytes reads them where they stand. -/
theorem keyOf_plain (o : MemOp) (h : o.views = []) (a : Nat) : keyOf o a = a := by
  rw [keyOf, h]
  exact Nat.div_add_mod' a frameBytes

theorem readPool_plain (s : State) (o : MemOp) (h : o.views = []) (a n : Nat) : readPool s o a n = readBytes s.mem.bytes a n := by
  induction n generalizing a with
  | zero => rfl
  | succ n ih => rw [readPool, readBytes, keyOf_plain o h, ih]

/-- A segment of a LOAD: its offset, its bytes, its status and its data (R79). -/
def loadSegment (s : State) (o : MemOp) (off : Nat) : Nat × Nat × Nat × List Byte :=
  let n := min 65536 (o.len - off)
  let a := o.pool + off
  let st := if anyBad s o a n then stPoisoned else if anyQuarantined s a n then stDivergent else stOk
  (off, n, st, if st = stOk then readPool s o a n else [])

theorem loadSegments_end (s : State) (o : MemOp) (off fuel : Nat) (h : o.len ≤ off) : loadSegments s o off fuel = [] := by
  cases fuel with
  | zero => rfl
  | succ fuel => exact if_pos h

theorem loadSegments_cons (s : State) (o : MemOp) (off fuel : Nat) (h : off < o.len) :
    loadSegments s o off (fuel + 1) = loadSegment s o off :: loadSegments s o (off + min 65536 (o.len - off)) fuel :=
  if_neg (Nat.not_le.mpr h)

/-- The segments from an offset on cover what is left of the range. -/
theorem loadSegments_sum (s : State) (o : MemOp) (fuel off : Nat) (h : o.len - off < fuel) :
    ((loadSegments s o off fuel).map fun g => g.2.1).sum = o.len - off := by
  induction fuel generalizing off with
  | zero => omega
  | succ fuel ih =>
    by_cases more : off < o.len
    · rw [loadSegments_cons s o off fuel more, List.map_cons, List.sum_cons, ih _ (by omega)]
      simp only [loadSegment]
      omega
    · rw [loadSegments_end s o off _ (by omega), List.map_nil, List.sum_nil]
      omega

/-- They follow one another, each but the last of 65,536 bytes. -/
theorem loadSegments_get (s : State) (o : MemOp) (fuel off k : Nat) (g : Nat × Nat × Nat × List Byte)
    (h : (loadSegments s o off fuel)[k]? = some g) : g = loadSegment s o (off + 65536 * k) ∧ off + 65536 * k < o.len := by
  induction fuel generalizing off k with
  | zero => cases h
  | succ fuel ih =>
    by_cases more : off < o.len
    · rw [loadSegments_cons s o off fuel more] at h
      cases k with
      | zero =>
        cases h
        exact ⟨rfl, more⟩
      | succ k =>
        obtain ⟨hg, hk⟩ := ih _ k h
        have full : off + min 65536 (o.len - off) = off + 65536 := by omega
        rw [full, Nat.add_assoc, show 65536 + 65536 * k = 65536 * (k + 1) by omega] at hg hk
        exact ⟨hg, hk⟩
    · rw [loadSegments_end s o off _ (by omega)] at h
      cases h

/-- Settles O13: a segment is the one that its offset names, and the segments cover the range. -/
theorem Settled.loadSegments : Obligations.LoadSegments := by
  intro s o views
  refine ⟨loadSegments_sum s o _ 0 (by omega), fun k g h => ?_⟩
  obtain ⟨rfl, inside⟩ := loadSegments_get s o _ 0 k g h
  rw [Nat.zero_add] at inside ⊢
  refine ⟨rfl, ?_, Nat.min_le_left _ _, fun bad => ?_, fun good quar => ?_, fun good fine => ?_⟩
  · simp only [loadSegment]
    omega
  · simp only [loadSegment] at bad ⊢
    rw [bad]
    rfl
  · simp only [loadSegment] at good quar ⊢
    rw [good, quar]
    rfl
  · simp only [loadSegment] at good fine ⊢
    rw [good, fine, ← readPool_plain s o views]
    rfl

/-- A STORE of one byte that an engine of the switch puts into a line that its own access found uncorrectable. -/
def putStore : MemOp :=
  { op := .store, p := { lport := 0, tc := 4, vc := 3, partition := 0, ast := 0, src := 0, dst := 0, tag := 0, length := 1, address := 0,
                         seq := 0, flags := 0 },
    origin := .put, pool := 0, len := 1, data := [1], phase := .access, bad := [0], arrived := 0 }

theorem anyBad_putStore : anyBad State.reset putStore 0 1 = true := by decide

/-- What an engine puts is written although a line is bad, and answered OK. -/
theorem memEffect_putStore : (memEffect State.reset putStore).2 = (0, 0) := rfl

/-- Refutes O11: its second clause has every STORE stopped by a bad line, but one of origin put is written all the same. -/
theorem not_memoryEffects : ¬ Obligations.MemoryEffects := by
  intro h
  obtain ⟨_, stopped, _⟩ := h State.reset putStore rfl rfl (by decide)
  have effect := memEffect_putStore
  rw [stopped (.inl rfl) anyBad_putStore] at effect
  exact absurd effect (by decide)

end Sys2Proof.Machine
end

section
/-! The steps of the ingress check (O7, R84), and the requests that it finds malformed (O8, R61, R75, R76). -/
namespace Sys2Proof.Machine

/-! ## What the steps ask -/

/-- Step 5 (R84, R728): the partition is not being torn down. -/
def partStands (s : State) (p : Req) : Prop :=
  (partOf s p.partition.toNat).st ≠ .tearing ∧ (partOf s p.partition.toNat).st ≠ .scrubbing

/-- Step 6 (R84): the address form is allowed on the port, and the opcode is not one that only switches send. -/
def formAllowed (s : State) (op : Op) (p : Req) : Prop :=
  (addrForm p = 1 → (lportOf s p.lport).flat = true) ∧ (addrForm p = 2 → (lportOf s p.lport).nodePriv = true) ∧ switchOnly op = false

/-- Step 7 (R84, R728): the partition's record enables the opcode. -/
def opEnabled (s : State) (op : Op) (p : Req) : Prop :=
  opBit op = 0 ∨ (partOf s p.partition.toNat).ops.testBit (opBit op) = true

/-- Step 8 (R84) of the partition virtual form: no AST of the request's partition. -/
def astForeign (s : State) (p : Req) : Bool :=
  match astOf s p.ast.toNat with
  | some a => decide (a.partition ≠ p.partition.toNat)
  | none => true

/-- Steps 8 to 10 (R84). -/
def pageSteps (h : Hooks) (s : State) (op : Op) (p : Req) (got : List ((Nat × Nat) × Option Pte)) : Verdict :=
  if addrForm p = 0 && astForeign s p then .fail stDenied
  else if isCompute op && !h.handleOk s op p then .fail stDenied
  else if addrForm p = 1 && !flatOk s op p then .fail stNoMapping
  else
    match missing s got (needsOf op p) with
    | [] => if judgePages s got (needsOf op p) = stOk then .pass else .fail (judgePages s got (needsOf op p))
    | ms => .walk ms.eraseDups

theorem partStands_iff {s : State} {p : Req} :
    partStands s p ↔ ¬ ((partOf s p.partition.toNat).st = .tearing || (partOf s p.partition.toNat).st = .scrubbing) = true := by
  simp [partStands]

theorem formAllowed_iff {s : State} {op : Op} {p : Req} :
    formAllowed s op p ↔ ¬ ((addrForm p = 1 && !(lportOf s p.lport).flat) || (addrForm p = 2 && !(lportOf s p.lport).nodePriv) ||
      switchOnly op) = true := by
  simp [formAllowed, and_assoc]

theorem opEnabled_iff {s : State} {op : Op} {p : Req} :
    opEnabled s op p ↔ ¬ (!(partOf s p.partition.toNat).ops.testBit (opBit op) && opBit op ≠ 0) = true := by
  simp [opEnabled, or_iff_not_imp_right]

/-! ## Each step, where those before it pass -/

section
variable {h : Hooks} {s : State} {op : Op} {p : Req} {got : List ((Nat × Nat) × Option Pte)}

theorem ingressCheck_step1 (bad : ¬ step1Ok op p = true) : ingressCheck h s op p got = .fail stMalformed := by
  simp [ingressCheck, bad]

variable (h1 : step1Ok op p = true)
include h1

theorem ingressCheck_source (bad : ¬ (lportOf s p.lport).node = some p.src.toNat) : ingressCheck h s op p got = .drop := by
  simp [ingressCheck, h1, bad]

variable (h2 : (lportOf s p.lport).node = some p.src.toNat)
include h2

theorem ingressCheck_step3 (bad : ¬ step3Ok (selfNode s) op p = true) : ingressCheck h s op p got = .fail stMalformed := by
  simp [ingressCheck, h1, h2, bad]

variable (h3 : step3Ok (selfNode s) op p = true)
include h3

theorem ingressCheck_member (bad : ¬ memberOf s p.lport p.partition.toNat = true) : ingressCheck h s op p got = .fail stDenied := by
  simp [ingressCheck, h1, h2, h3, bad]

variable (h4 : memberOf s p.lport p.partition.toNat = true)
include h4

theorem ingressCheck_stands (bad : ¬ partStands s p) : ingressCheck h s op p got = .fail stTornDown := by
  rw [partStands_iff, not_not] at bad
  simp only [ingressCheck, h1, h2, h3, h4, bad, Bool.not_true, Bool.false_eq_true, if_false, ne_eq, not_true_eq_false, if_true]

variable (h5 : partStands s p)
include h5

theorem ingressCheck_form (bad : ¬ formAllowed s op p) : ingressCheck h s op p got = .fail stDenied := by
  rw [partStands_iff] at h5
  rw [formAllowed_iff, not_not] at bad
  simp only [ingressCheck, h1, h2, h3, h4, h5, bad, Bool.not_true, Bool.false_eq_true, if_false, ne_eq, not_true_eq_false, if_true]

variable (h6 : formAllowed s op p)
include h6

theorem ingressCheck_disabled (bad : ¬ opEnabled s op p) : ingressCheck h s op p got = .fail stUnsupported := by
  rw [partStands_iff] at h5
  rw [formAllowed_iff] at h6
  rw [opEnabled_iff, not_not] at bad
  simp only [ingressCheck, h1, h2, h3, h4, h5, h6, bad, Bool.not_true, Bool.false_eq_true, if_false, ne_eq, not_true_eq_false, if_true]

variable (h7 : opEnabled s op p)
include h7

/-- Once the header passes, steps 8 to 10 decide. -/
theorem ingressCheck_pages : ingressCheck h s op p got = pageSteps h s op p got := by
  rw [partStands_iff] at h5
  rw [formAllowed_iff] at h6
  rw [opEnabled_iff] at h7
  simp only [ingressCheck, h1, h2, h3, h4, h5, h6, h7, Bool.not_true, Bool.false_eq_true, if_false, ne_eq, not_true_eq_false]
  rfl

end

/-! ## Steps 8 to 10 -/

section
variable {h : Hooks} {s : State} {op : Op} {p : Req}

theorem astForeign_of_none (ha : ∀ a, astOf s p.ast.toNat = some a → a.partition ≠ p.partition.toNat) : astForeign s p = true := by
  unfold astForeign
  split
  · next a found => exact decide_eq_true (ha a found)
  · rfl

theorem astForeign_of_own (ha : ∃ a, astOf s p.ast.toNat = some a ∧ a.partition = p.partition.toNat) : astForeign s p = false := by
  obtain ⟨a, found, own⟩ := ha
  simp [astForeign, found, own]

theorem pageSteps_foreign (got : List ((Nat × Nat) × Option Pte)) (form : addrForm p = 0) (ha : astForeign s p = true) :
    pageSteps h s op p got = .fail stDenied := by
  simp [pageSteps, form, ha]

theorem pageSteps_handle (got : List ((Nat × Nat) × Option Pte)) (hc : isCompute op = true) (hh : h.handleOk s op p = false) :
    pageSteps h s op p got = .fail stDenied := by
  by_cases ha : (addrForm p = 0 && astForeign s p) = true
  · exact if_pos ha
  · simp only [pageSteps, ha, hc, hh, Bool.not_false, Bool.and_self, if_true, ite_self]

/-- With every page known, what the pages say decides. -/
theorem pageSteps_known (form : addrForm p = 0) (ha : astForeign s p = false) (hc : isCompute op = false)
    (known : missing s [] (needsOf op p) = []) :
    pageSteps h s op p [] =
      if judgePages s [] (needsOf op p) = stOk then .pass else .fail (judgePages s [] (needsOf op p)) := by
  simp [pageSteps, form, ha, hc, known]

end

/-! ## What the pages say -/

section
variable {s : State} {ns : List Need}

theorem judgePages_unmapped (hn : ∃ n ∈ ns, lookPage s [] n.ast n.page = some none) : judgePages s [] ns = stNoMapping := by
  obtain ⟨n, mem, none⟩ := hn
  refine if_pos (List.any_eq_true.mpr ⟨n, mem, ?_⟩)
  simp [none]

theorem any_unmapped_false (hn : ∀ n ∈ ns, ∃ e, lookPage s [] n.ast n.page = some (some e)) :
    (ns.any fun n => ((lookPage s [] n.ast n.page).getD none).isNone) = false := by
  rw [List.any_eq_false]
  intro n mem
  obtain ⟨e, found⟩ := hn n mem
  simp [found]

theorem judgePages_denied (hn : ∀ n ∈ ns, ∃ e, lookPage s [] n.ast n.page = some (some e))
    (lacks : ∃ n ∈ ns, ∃ e, lookPage s [] n.ast n.page = some (some e) ∧
      ((n.r = true ∧ e.r = false) ∨ (n.w = true ∧ e.w = false) ∨ (n.a = true ∧ e.a = false))) : judgePages s [] ns = stDenied := by
  obtain ⟨n, mem, e, found, lack⟩ := lacks
  simp only [judgePages, any_unmapped_false hn, Bool.false_eq_true, if_false]
  refine if_pos (List.any_eq_true.mpr ⟨n, mem, ?_⟩)
  simpa [found, or_assoc] using lack

theorem judgePages_permitted (hn : ∀ n ∈ ns, ∃ e, lookPage s [] n.ast n.page = some (some e) ∧
    (n.r = true → e.r = true) ∧ (n.w = true → e.w = true) ∧ (n.a = true → e.a = true)) : judgePages s [] ns = stOk := by
  have mapped := any_unmapped_false fun n mem => (hn n mem).imp fun _ found => found.1
  simp only [judgePages, mapped, Bool.false_eq_true, if_false]
  refine if_neg fun any => ?_
  obtain ⟨n, mem, lack⟩ := List.any_eq_true.mp any
  obtain ⟨e, found, hr, hw, ha⟩ := hn n mem
  rw [found] at lack
  simp only [Option.getD_some, Bool.or_eq_true, Bool.and_eq_true, Bool.not_eq_true'] at lack
  rcases lack with (⟨nr, er⟩ | ⟨nw, ew⟩) | ⟨na, ea⟩
  · exact Bool.false_ne_true (er.symm.trans (hr nr))
  · exact Bool.false_ne_true (ew.symm.trans (hw nw))
  · exact Bool.false_ne_true (ea.symm.trans (ha na))

end

/-- Settles O7: each step in its order, then steps 8 to 10 by what the pages say. -/
theorem ingressOrder : Obligations.IngressOrder := by
  intro h s op p
  refine ⟨ingressCheck_step1, ingressCheck_source, ingressCheck_step3, ingressCheck_member, ingressCheck_stands, ingressCheck_form,
    ingressCheck_disabled, fun h1 h2 h3 h4 h5 h6 h7 hc hh => ?_, fun h1 h2 h3 h4 h5 h6 h7 form foreign => ?_,
    fun h1 h2 h3 h4 h5 h6 h7 hc form own known => ?_⟩
  · rw [ingressCheck_pages h1 h2 h3 h4 h5 h6 h7, pageSteps_handle [] hc hh]
  · rw [ingressCheck_pages h1 h2 h3 h4 h5 h6 h7, pageSteps_foreign [] form (astForeign_of_none foreign)]
  · rw [ingressCheck_pages h1 h2 h3 h4 h5 h6 h7, pageSteps_known form (astForeign_of_own own) hc known]
    refine ⟨fun unmapped => ?_, fun mapped lacks => ?_, fun permitted => ?_⟩
    · rw [judgePages_unmapped unmapped]
      rfl
    · rw [judgePages_denied mapped lacks]
      rfl
    · rw [judgePages_permitted permitted]
      rfl

/-! ## Malformed requests -/

/-- Step 3 asks for the bits of ADDRESS that the form uses, and for the shape of the opcode. -/
theorem step3Ok_needs {self : Nat} {op : Op} {p : Req} (h3 : step3Ok self op p = true) :
    addrBitsOk (addrForm p) p.address.toNat = true ∧ shapeOk op p = true := by
  simp only [step3Ok, step3With, Bool.and_eq_true] at h3
  obtain ⟨⟨⟨_, addr⟩, shape⟩, _⟩ := h3
  exact ⟨addr, shape⟩

theorem addrBitsOk_false {form a : Nat} (h1 : form = 1 → 2 ^ 47 ≤ a) (h2 : form ≠ 1 → 2 ^ 48 ≤ a) : addrBitsOk form a = false := by
  unfold addrBitsOk
  split
  · next flat => exact decide_eq_false (Nat.not_lt.mpr (h1 flat))
  · next other => exact decide_eq_false (Nat.not_lt.mpr (h2 other))

theorem shapeOk_copy_overlap {p : Req} (n : 0 < p.length.toNat) (h1 : p.address.toNat < leNat p.payload + p.length.toNat)
    (h2 : leNat p.payload < p.address.toNat + p.length.toNat) : shapeOk .copy p = false := by
  simp [shapeOk, overlap, copySrc, n, h1, h2]

theorem shapeOk_atomic_misaligned {a : AtomicOp} {p : Req} (n : p.length.toNat ≠ 0)
    (h : p.length.toNat ≠ 4 ∧ p.length.toNat ≠ 8 ∨ p.address.toNat % p.length.toNat ≠ 0) : shapeOk (.atomic a) p = false := by
  rcases h with ⟨h4, h8⟩ | odd
  · simp [shapeOk, n, h4, h8]
  · simp [shapeOk, n, odd]

/-- Settles O8: each of the three fails step 3. -/
theorem malformedRequests : Obligations.MalformedRequests := by
  intro op p s h1 h2
  refine ⟨fun flat other => ingressCheck_step3 h1 h2 fun h3 => ?_, fun copy n above below => ingressCheck_step3 h1 h2 fun h3 => ?_,
    fun a atomic n bad => ingressCheck_step3 h1 h2 fun h3 => ?_⟩
  · exact Bool.false_ne_true ((addrBitsOk_false flat other).symm.trans (step3Ok_needs h3).1)
  · subst copy
    exact Bool.false_ne_true ((shapeOk_copy_overlap n above below).symm.trans (step3Ok_needs h3).2)
  · subst atomic
    exact Bool.false_ne_true ((shapeOk_atomic_misaligned n bad).symm.trans (step3Ok_needs h3).2)

end Sys2Proof.Machine
end

section
/-! A request or a part of it forwarded to another node (O10, R64). -/
namespace Sys2Proof.Machine

/-- The flags of a part's packet say the node plus offset form, whatever stands in the bit of FLAGS that tells of Tallow. -/
theorem bits_partFlags (v k : Nat) : bits (setBits (setBits v 0 2 2) 3 1 k) 0 2 = 2 := by
  rw [bits_setBits_other _ _ _ _ _ _ (.inl (by decide)), bits_setBits_self]
  rfl

theorem addrForm_partPkt (s : State) (o : OutReq) (part : ReqPart) (pl : List Byte) : addrForm (partPkt s o part pl) = 2 := by
  rw [addrForm, partPkt, BitVec.toNat_ofNat, bits_mod_two_pow _ _ _ _ (by decide), bits_partFlags]

/-- A part whose home is another node is queued toward it as the packet that R64 describes. -/
theorem sendPart_away (h : Hooks) (id i : Nat) (pl : List Byte) {s : State} {o : OutReq} {part : ReqPart}
    (ho : kfind s.ing.outs id = some o) (away : part.home ≠ selfNode s) :
    sendPart h id pl s (i, part) =
      (let t := modOut s id fun o => { o with parts := o.parts.mapIdx fun j p => if j = i then { p with sent := true } else p }
       sendPkt (if o.parts.length ≠ 1 then bumpOwn t part.home else t) (schedPort o.p.lport) o.p.lport false
         (.req o.op (partPkt t o part pl))) := by
  simp only [sendPart, ho]
  exact if_neg away

/-- Settles O10. -/
theorem forwardedRequest : Obligations.ForwardedRequest := by
  intro h id i o part pl s ho home pool away
  exact ⟨_, sendPart_away h id i pl ho away, addrForm_partPkt _ o part pl, Nat.mod_eq_of_lt home, Nat.mod_eq_of_lt pool, rfl, rfl, rfl,
    rfl⟩

end Sys2Proof.Machine
end

section
/-! What reports, violations and refusals leave as it is of the requests that are outstanding (R86), of the counters and of the queues. -/
namespace Sys2Proof.Machine

/-! ## Messages and reports -/

/-- Requests outstanding, counters and the node number stand in t as in s. -/
structure Steady (s t : State) : Prop where
  outs : t.ing.outs = s.ing.outs
  ctrs : t.ctrs = s.ctrs
  self : selfNode t = selfNode s

theorem Steady.refl (s : State) : Steady s s := ⟨rfl, rfl, rfl⟩

theorem Steady.trans {s t u : State} (h : Steady s t) (k : Steady t u) : Steady s u :=
  ⟨k.outs.trans h.outs, k.ctrs.trans h.ctrs, k.self.trans h.self⟩

theorem markHop_steady (s : State) (d : Nat) (h : Option Nat) : Steady s (markHop s d h) := by
  cases h <;> exact ⟨rfl, rfl, rfl⟩

theorem pushVoq_steady (s : State) (a b c : Nat) (e : Bool) (k : Packet) (o : List Nat) : Steady s (pushVoq s a b c e k o) :=
  ⟨rfl, rfl, rfl⟩

theorem enqueue_steady {s t : State} {a b : Nat} {e : Bool} {k : Packet} (h : enqueue s a b e k = some t) : Steady s t := by
  unfold enqueue at h
  split at h
  · cases h
    exact (markHop_steady _ _ _).trans (pushVoq_steady _ _ _ _ _ _ _)
  · cases h

theorem sendMgmt_steady {s t : State} {c d : Nat} {pl : List Byte} (h : sendMgmt s c d pl = some t) : Steady s t := by
  have own : Steady s (bumpOwn (noteMgmt s) d) := ⟨rfl, rfl, rfl⟩
  exact own.trans (enqueue_steady h)

theorem postEvent_steady (s : State) (pl : List Byte) : Steady s (postEvent s pl) := by
  unfold postEvent
  dsimp only
  split
  · exact Steady.refl s
  · split <;> exact ⟨rfl, rfl, rfl⟩

theorem eventsTo_steady (pl : List Byte) (ms : List Manager) (s : State) : Steady s (eventsTo pl ms s) := by
  induction ms generalizing s with
  | nil => exact Steady.refl s
  | cons m ms ih =>
    refine Steady.trans ?_ (ih _)
    split
    · exact Steady.refl s
    · split
      · next t sent => exact sendMgmt_steady sent
      · exact ⟨rfl, rfl, rfl⟩

theorem report_steady (s : State) (a b c d : Nat) : Steady s (report s a b c d) := by
  have listed : ∀ l, Steady s { s with reports := l } := fun _ => ⟨rfl, rfl, rfl⟩
  have numbered : ∀ (t : State) n, Steady t { t with fm := { t.fm with eventSeq := n } } := fun _ _ => ⟨rfl, rfl, rfl⟩
  exact (listed _).trans ((eventsTo_steady _ _ _).trans ((postEvent_steady _ _).trans (numbered _ _)))

theorem penal_steady (s : State) (l n : Nat) : Steady s (penal s l n) := by
  have scored : ∀ x, Steady s { s with ras := x } := fun _ => ⟨rfl, rfl, rfl⟩
  unfold penal
  split
  · exact Steady.refl s
  · dsimp only
    split
    · exact (scored _).trans (report_steady _ _ _ _ _)
    · exact scored _

/-! ## Violations (R102, R637) -/

/-- Memory, coherence, snapshots, engines, outstanding requests and the node number stand in t as in s. -/
structure SameTables (s t : State) : Prop where
  mem : t.mem = s.mem
  coh : t.coh = s.coh
  snap : t.snap = s.snap
  fab : t.fab = s.fab
  outs : t.ing.outs = s.ing.outs
  self : selfNode t = selfNode s

theorem SameTables.refl (s : State) : SameTables s s := ⟨rfl, rfl, rfl, rfl, rfl, rfl⟩

theorem SameTables.trans {s t u : State} (h : SameTables s t) (k : SameTables t u) : SameTables s u :=
  ⟨k.mem.trans h.mem, k.coh.trans h.coh, k.snap.trans h.snap, k.fab.trans h.fab, k.outs.trans h.outs, k.self.trans h.self⟩

theorem ringWrite_sameTables (s : State) (e : List Byte) : SameTables s (ringWrite s e) := by
  unfold ringWrite
  split
  · exact ⟨rfl, rfl, rfl, rfl, rfl, rfl⟩
  · dsimp only
    split <;> exact ⟨rfl, rfl, rfl, rfl, rfl, rfl⟩

theorem bump_sameTables (s : State) (c : Ctr) : SameTables s (bump s c) := ⟨rfl, rfl, rfl, rfl, rfl, rfl⟩

theorem modLport_sameTables (s : State) (l : Nat) (f : LPort → LPort) : SameTables s (modLport s l f) := ⟨rfl, rfl, rfl, rfl, rfl, rfl⟩

theorem penal_sameTables (s : State) (l n : Nat) : SameTables s (penal s l n) :=
  have q := penal_quiet s l n
  have k := penal_steady s l n
  ⟨q.mem, q.coh, q.snap, q.fab, k.outs, k.self⟩

theorem violate_sameTables (s : State) (l row : Nat) (header : List Byte) (size : Nat) : SameTables s (violate s l row header size) := by
  unfold violate
  exact (ringWrite_sameTables s _).trans ((bump_sameTables _ _).trans ((penal_sameTables _ l 5).trans (modLport_sameTables _ l _)))

/-- The ring counts only what it could not take. -/
theorem ctr_ringWrite (s : State) (e : List Byte) (c : Ctr) (hc : ∀ k, c ≠ .lantern k) : ctr (ringWrite s e) c = ctr s c := by
  unfold ringWrite
  split
  · exact ctr_bump_other _ _ _ (hc 0)
  · dsimp only
    split <;> rfl

/-- A violation counts only at its port, and in the ring. -/
theorem ctr_violate (s : State) (l row : Nat) (header : List Byte) (size : Nat) (c : Ctr) (hl : c ≠ .link l 8)
    (hc : ∀ k, c ≠ .lantern k) : ctr (violate s l row header size) c = ctr s c := by
  simp only [violate, ctr_modLport]
  rw [ctr, (penal_steady _ l 5).ctrs]
  exact (ctr_bump_other _ _ _ hl).trans (ctr_ringWrite s _ c hc)

theorem ringWrite_core (s : State) (e : List Byte) : (ringWrite s e).core = s.core := by
  unfold ringWrite
  split
  · rfl
  · dsimp only
    split <;> rfl

theorem ringWrite_ras (s : State) (e : List Byte) : (ringWrite s e).ras = s.ras := by
  unfold ringWrite
  split
  · rfl
  · dsimp only
    split <;> rfl

/-- A port without a score has none to lose, so nobody is told. -/
theorem violate_core (s : State) (l row : Nat) (header : List Byte) (size : Nat) (h : kfind s.ras.health l = none) :
    (violate s l row header size).core = s.core := by
  have unscored : ∀ e, penal (bump (ringWrite s e) (.link l 8)) l 5 = bump (ringWrite s e) (.link l 8) := fun e => by
    simp [penal, ringWrite_ras, h]
  simp [violate, unscored, ringWrite_core]

/-! ## Answers at the port where a request was checked -/

theorem noteGrant_core (s : State) (l : Nat) (r : Resp) : (noteGrant s l r).core = s.core := by
  unfold noteGrant
  split <;> rfl

theorem noteGrant_refused (s : State) (l : Nat) (r : Resp) (h : r.status ≠ 0) : noteGrant s l r = s := by
  refine if_neg fun granted => h ?_
  simp only [Bool.and_eq_true, decide_eq_true_eq] at granted
  exact granted.1.2

/-- A refusal takes its place behind what is queued; nothing else changes but the queues. -/
structure Refused (s t : State) : Prop where
  same : SameTables s t
  voqs : ∀ q ∈ s.core.voqs, q ∈ t.core.voqs

theorem Refused.refl (s : State) : Refused s s := ⟨SameTables.refl s, fun _ h => h⟩

theorem Refused.trans {s t u : State} (h : Refused s t) (k : Refused t u) : Refused s u :=
  ⟨h.same.trans k.same, fun q m => k.voqs q (h.voqs q m)⟩

/-- A packet goes to the end of the queues. -/
theorem pushVoq_voqs (s : State) (a b c : Nat) (e : Bool) (k : Packet) (o : List Nat) :
    ∃ q, (pushVoq s a b c e k o).core.voqs = s.core.voqs ++ [q] ∧ q.pkt = k ∧ q.egress = c ∧ q.esc = e := by
  refine ⟨_, rfl, ?_⟩
  dsimp only
  split <;> exact ⟨rfl, rfl, rfl⟩

/-- A response to a requester attached here goes to the end of the queues, its LOAD 0 in free mode (R58). -/
theorem respondHere_voqs (s : State) (port l load : Nat) (r : Resp) :
    ∃ q, (respondHere s port l load r).core.voqs = s.core.voqs ++ [q] ∧
      q.pkt = .resp { r with load := BitVec.ofNat 4 (if s.mem.freeMode then 0 else load) } ∧ q.egress = l := by
  obtain ⟨q, hq, pkt, egress, _⟩ := pushVoq_voqs (noteGrant s l r) port (internal port) l false
    (.resp { r with load := BitVec.ofNat 4 (if s.mem.freeMode then 0 else load) }) []
  rw [noteGrant_core] at hq
  exact ⟨q, hq, pkt, egress⟩

theorem respondHere_refused (s : State) (port l load : Nat) (r : Resp) (h : r.status ≠ 0) :
    Refused s (respondHere s port l load r) := by
  obtain ⟨q, hq, _⟩ := respondHere_voqs s port l load r
  refine ⟨?_, fun x hx => ?_⟩
  · rw [respondHere, noteGrant_refused s l r h]
    exact ⟨rfl, rfl, rfl, rfl, rfl, rfl⟩
  · rw [hq]
    exact List.mem_append_left _ hx

theorem refuseAll_refused (port l : Nat) (op : Op) (p : Req) (st : Nat) (hs : BitVec.ofNat 4 st ≠ 0) (cs : List (Nat × Nat))
    (s : State) : Refused s (cs.foldl (fun s c => respondHere s port l 0 (mkResp s op p st c.1 c.2 0 [])) s) := by
  induction cs generalizing s with
  | nil => exact Refused.refl s
  | cons c cs ih => exact (respondHere_refused s port l 0 _ hs).trans (ih _)

/-- Each range of a refused request is answered with the status, at the port where it arrived. -/
theorem refuseAll_answers (port l : Nat) (op : Op) (p : Req) (st : Nat) (hs : BitVec.ofNat 4 st ≠ 0) (cs : List (Nat × Nat))
    (s : State) (c : Nat × Nat) (hc : c ∈ cs) :
    ∃ q ∈ (cs.foldl (fun s c => respondHere s port l 0 (mkResp s op p st c.1 c.2 0 [])) s).core.voqs,
      q.egress = l ∧ q.pkt = .resp { mkResp s op p st c.1 c.2 0 [] with load := 0 } := by
  induction cs generalizing s with
  | nil => cases hc
  | cons d cs ih =>
    have first := respondHere_refused s port l 0 (mkResp s op p st d.1 d.2 0 []) hs
    rcases List.mem_cons.mp hc with rfl | later
    · obtain ⟨q, hq, pkt, egress⟩ := respondHere_voqs s port l 0 (mkResp s op p st c.1 c.2 0 [])
      refine ⟨q, (refuseAll_refused port l op p st hs cs _).voqs q ?_, egress, ?_⟩
      · rw [hq]
        exact List.mem_append_right _ (List.mem_singleton.mpr rfl)
      · rw [pkt, ite_self]
        rfl
    · obtain ⟨q, hq, egress, pkt⟩ := ih _ later
      refine ⟨q, hq, egress, ?_⟩
      rw [pkt, mkResp, mkResp, first.same.self]

end Sys2Proof.Machine
end

section
/-! A request that arrives: of an endpoint (O6, R84, R86) and of another switch (O9, R85). -/
namespace Sys2Proof.Machine

/-! ## Each request's row, and what every arrival has in common -/

/-- Each row of a Jarti request is the arrival of its packet under the row's own opcode. -/
theorem exec_request {i : Instr} {op : Op} {p : Req} (h : requestRow i = some (op, p)) (s : State) :
    exec i s = live s (arriveReq op p) := by
  unfold requestRow at h
  split at h <;> cases h
  all_goals rfl

theorem rowOp_listed {op : Op} {p : Req} (h : p.unlisted = none) : rowOp op p = op := by
  rw [rowOp, h]

/-- Lantern captures nothing while it is off. -/
theorem capture_off {s : State} (h : regField s rLantern 0 1 = 0) (l dir : Nat) (k : Packet) : capture s l dir k = s := if_pos h

/-- A request that is this switch's to carry out: its link credit is owed, and goes back with that of all that no longer wait. -/
def credited (v : State) (p : Req) (n : Nat) : State :=
  payCredits { v with ing := { v.ing with owed := v.ing.owed ++ [{ p := p, flits := n }] } }

/-- An endpoint's request takes its number where its SRC_NODE is the port's (R84). -/
def numbered (s : State) (p : Req) : State := if (lportOf s p.lport).node = some p.src.toNat then noteSeq s p else s

theorem arriveReq_endpoint {s : State} {p : Req} (op : Op) (arrives : Arrives s p.lport) (near : facesSwitch s p.lport = false) :
    arriveReq op p s = checkQuar (credited (settle hooks (fromEndpoint hooks (numbered s p) (rowOp op p) p [])) p
      (Packet.req (rowOp op p) p).flits) p.lport := by
  obtain ⟨⟨_, halt⟩, lantern, known⟩ := arrives
  simp [arriveReq, halt, capture_off lantern, arrive, known, near, numbered, credited]

theorem arriveReq_switch_here {s : State} {p : Req} (op : Op) (arrives : Arrives s p.lport) (far : facesSwitch s p.lport = true)
    (here : p.dst.toNat = selfNode s) :
    arriveReq op p s = checkQuar (credited (settle hooks (fromSwitch hooks s (rowOp op p) p)) p
      (Packet.req (rowOp op p) p).flits) p.lport := by
  obtain ⟨⟨_, halt⟩, lantern, known⟩ := arrives
  simp [arriveReq, halt, capture_off lantern, arrive, known, far, here, credited]

theorem arriveReq_switch_on {s : State} {p : Req} (op : Op) (arrives : Arrives s p.lport) (far : facesSwitch s p.lport = true)
    (away : p.dst.toNat ≠ selfNode s) :
    arriveReq op p s = checkQuar (settle hooks (fromSwitch hooks s (rowOp op p) p)) p.lport := by
  obtain ⟨⟨_, halt⟩, lantern, known⟩ := arrives
  simp [arriveReq, halt, capture_off lantern, arrive, known, far, away]

/-- A row of a request carried out. -/
theorem exec_requestOf {i : Instr} {op : Op} {p : Req} (h : requestOf i = some (op, p)) :
    ∃ row, op = rowOp row p ∧ ∀ s, Up s → exec i s = .next (arriveReq row p s) := by
  obtain ⟨⟨row, q⟩, hrow, same⟩ := Option.map_eq_some_iff.mp h
  obtain ⟨rfl, rfl⟩ := Prod.mk.inj same
  exact ⟨row, rfl, fun s up => (exec_request hrow s).trans (live_running _ up.1)⟩

theorem requestOf_row {i : Instr} {op : Op} {p : Req} (h : requestRow i = some (op, p)) (listed : p.unlisted = none) :
    requestOf i = some (op, p) := by
  rw [requestOf, h, Option.map_some, rowOp_listed listed]

/-! ## The verdict of the ingress check -/

section
variable {h : Hooks} {s : State} {op : Op} {p : Req} {got : List ((Nat × Nat) × Option Pte)}

theorem ingressCheck_pass_source (pass : ingressCheck h s op p got = .pass) : (lportOf s p.lport).node = some p.src.toNat := by
  have h1 : step1Ok op p = true := by
    by_contra bad
    rw [ingressCheck_step1 bad] at pass
    cases pass
  by_contra bad
  rw [ingressCheck_source h1 bad] at pass
  cases pass

/-- A verdict that fails a request names a status other than OK. -/
def Refuses (v : Verdict) : Prop := ∀ st, v = .fail st → BitVec.ofNat 4 st ≠ 0

theorem fail_refuses {st : Nat} (hs : BitVec.ofNat 4 st ≠ 0) : Refuses (.fail st) := by
  rintro _ ⟨⟩
  exact hs

theorem ite_refuses {c : Prop} [Decidable c] {v w : Verdict} (hv : Refuses v) (hw : ¬ c → Refuses w) : Refuses (if c then v else w) := by
  split
  · exact hv
  · next no => exact hw no

theorem judgePages_status (ns : List Need) (bad : judgePages s got ns ≠ stOk) : BitVec.ofNat 4 (judgePages s got ns) ≠ 0 := by
  unfold judgePages at bad ⊢
  dsimp only at bad ⊢
  split_ifs at bad ⊢
  · decide
  · decide
  · exact absurd rfl bad

theorem pageSteps_refuses : Refuses (pageSteps h s op p got) := by
  have fails : ∀ st, BitVec.ofNat 4 st ≠ 0 → Refuses (.fail st) := fun _ => fail_refuses
  refine ite_refuses (fails _ (by decide)) fun _ => ite_refuses (fails _ (by decide)) fun _ => ite_refuses (fails _ (by decide)) fun _ => ?_
  split
  · split
    · rintro _ ⟨⟩
    · next bad => exact fail_refuses (judgePages_status _ bad)
  · rintro _ ⟨⟩

theorem ingressCheck_refuses : Refuses (ingressCheck h s op p got) := by
  by_cases h1 : step1Ok op p = true
  case neg => rw [ingressCheck_step1 h1]; exact fail_refuses (by decide)
  by_cases h2 : (lportOf s p.lport).node = some p.src.toNat
  case neg => rw [ingressCheck_source h1 h2]; rintro _ ⟨⟩
  by_cases h3 : step3Ok (selfNode s) op p = true
  case neg => rw [ingressCheck_step3 h1 h2 h3]; exact fail_refuses (by decide)
  by_cases h4 : memberOf s p.lport p.partition.toNat = true
  case neg => rw [ingressCheck_member h1 h2 h3 h4]; exact fail_refuses (by decide)
  by_cases h5 : partStands s p
  case neg => rw [ingressCheck_stands h1 h2 h3 h4 h5]; exact fail_refuses (by decide)
  by_cases h6 : formAllowed s op p
  case neg => rw [ingressCheck_form h1 h2 h3 h4 h5 h6]; exact fail_refuses (by decide)
  by_cases h7 : opEnabled s op p
  case neg => rw [ingressCheck_disabled h1 h2 h3 h4 h5 h6 h7]; exact fail_refuses (by decide)
  rw [ingressCheck_pages h1 h2 h3 h4 h5 h6 h7]
  exact pageSteps_refuses

end

/-! ## A request of an endpoint -/

section
variable {s : State} {op : Op} {p : Req}

theorem numbered_sameTables (s : State) (p : Req) : SameTables s (numbered s p) := by
  unfold numbered
  split <;> exact ⟨rfl, rfl, rfl, rfl, rfl, rfl⟩

theorem numbered_ctrs (s : State) (p : Req) : (numbered s p).ctrs = s.ctrs := by
  unfold numbered
  split <;> rfl

theorem numbered_core (s : State) (p : Req) : (numbered s p).core = s.core := by
  unfold numbered
  split <;> rfl

theorem numbered_ras (s : State) (p : Req) : (numbered s p).ras = s.ras := by
  unfold numbered
  split <;> rfl

/-- The destination of a node-addressed request is this switch, or has an entry or a port here (R672). -/
def routedHere (s : State) (p : Req) : Prop :=
  addrForm p = 2 → p.dst.toNat = selfNode s ∨ (kfind s.core.routes p.dst.toNat).isSome ∨ (lportOfNode s p.dst.toNat).isSome

/-- A request that passes, and whose destination has a route here (R672), is admitted. -/
theorem fromEndpoint_pass (pass : ingressCheck hooks s op p [] = .pass)
    (route : routedHere s p) :
    fromEndpoint hooks s op p [] = admitReq hooks s op p [] := by
  simp only [fromEndpoint, pass]
  refine if_neg fun lost => ?_
  simp only [Bool.and_eq_true, decide_eq_true_eq, ne_eq, Option.isNone_iff_eq_none] at lost
  obtain ⟨⟨⟨form, other⟩, entry⟩, port⟩ := lost
  rcases route form with self | known | near
  · exact other self
  · rw [entry] at known
    cases known
  · rw [port] at near
    cases near

/-- One that fails is answered with the status, and changes nothing but the queues, once its violation, if it is one, is counted. -/
theorem fromEndpoint_fail {st : Nat} (fail : ingressCheck hooks s op p [] = .fail st) :
    ∃ w, SameTables s w ∧ fromEndpoint hooks s op p [] = refuseHere w p.lport op p st := by
  simp only [fromEndpoint, fail]
  split
  · exact ⟨_, violate_sameTables _ _ _ _ _, rfl⟩
  · split
    · exact ⟨_, violate_sameTables _ _ _ _ _, rfl⟩
    · exact ⟨s, SameTables.refl s, rfl⟩

theorem fromEndpoint_drop (drop : ingressCheck hooks s op p [] = .drop) :
    fromEndpoint hooks s op p [] = violatePkt (bump s (.srcDrop p.lport)) p.lport 2 (.req op p) := by
  simp only [fromEndpoint, drop]

end

/-- A request of an endpoint that passes goes on, and its credit ends. -/
theorem request_passes {i : Instr} {op : Op} {p : Req} {s : State} (hi : requestOf i = some (op, p)) (arrives : Arrives s p.lport)
    (near : facesSwitch s p.lport = false) (pass : ingressCheck hooks (noteSeq s p) op p [] = .pass)
    (route : routedHere s p) :
    ∃ u, exec i s = .next (checkQuar u p.lport) ∧
      CreditEnds (settle hooks (admitReq hooks (noteSeq s p) op p [])) u p (Packet.req op p).flits := by
  obtain ⟨row, rfl, run⟩ := exec_requestOf hi
  have own : numbered s p = noteSeq s p := if_pos (ingressCheck_pass_source pass)
  rw [run s arrives.1, arriveReq_endpoint row arrives near, own, fromEndpoint_pass pass route]
  exact ⟨_, rfl, rfl⟩

theorem request_fails {i : Instr} {op : Op} {p : Req} {s : State} {st : Nat} (hi : requestOf i = some (op, p))
    (arrives : Arrives s p.lport) (near : facesSwitch s p.lport = false) (fail : ingressCheck hooks (numbered s p) op p [] = .fail st) :
    ∃ u v, exec i s = .next (checkQuar u p.lport) ∧ CreditEnds (settle hooks v) u p (Packet.req op p).flits ∧
      v.mem = s.mem ∧ v.ing.outs = s.ing.outs ∧ v.coh = s.coh ∧ v.snap = s.snap ∧ v.fab = s.fab ∧
      ∀ c ∈ coverOf op p.length.toNat, ∃ q ∈ v.core.voqs, q.egress = p.lport ∧
        q.pkt = .resp { mkResp (numbered s p) op p st c.1 c.2 0 [] with load := 0 } := by
  obtain ⟨row, rfl, run⟩ := exec_requestOf hi
  obtain ⟨w, same, answer⟩ := fromEndpoint_fail fail
  have status := ingressCheck_refuses st fail
  have kept := ((numbered_sameTables s p).trans same).trans
    (refuseAll_refused (schedPort p.lport) p.lport (rowOp row p) p st status (coverOf (rowOp row p) p.length.toNat) w).same
  rw [run s arrives.1, arriveReq_endpoint row arrives near, answer]
  refine ⟨_, _, rfl, rfl, kept.mem, kept.outs, kept.coh, kept.snap, kept.fab, fun c hc => ?_⟩
  obtain ⟨q, hq, egress, pkt⟩ := refuseAll_answers (schedPort p.lport) p.lport (rowOp row p) p st status _ w c hc
  refine ⟨q, hq, egress, ?_⟩
  rw [pkt, mkResp, mkResp, same.self]

theorem request_drops {i : Instr} {op : Op} {p : Req} {s : State} (hi : requestOf i = some (op, p)) (arrives : Arrives s p.lport)
    (near : facesSwitch s p.lport = false) (drop : ingressCheck hooks (numbered s p) op p [] = .drop) :
    ∃ u v, exec i s = .next (checkQuar u p.lport) ∧ CreditEnds (settle hooks v) u p (Packet.req op p).flits ∧
      v.mem = s.mem ∧ v.ing.outs = s.ing.outs ∧ (kfind s.ras.health p.lport = none → v.core.voqs = s.core.voqs) ∧
      ctr v (.srcDrop p.lport) = satAdd 48 (ctr s (.srcDrop p.lport)) 1 := by
  obtain ⟨row, rfl, run⟩ := exec_requestOf hi
  have kept := ((numbered_sameTables s p).trans (bump_sameTables _ (.srcDrop p.lport))).trans
    (violate_sameTables _ p.lport 2 (Packet.req (rowOp row p) p).header (Packet.req (rowOp row p) p).size)
  rw [run s arrives.1, arriveReq_endpoint row arrives near, fromEndpoint_drop drop]
  refine ⟨_, _, rfl, rfl, kept.mem, kept.outs, fun unscored => ?_, ?_⟩
  · rw [violatePkt, violate_core _ _ _ _ _ (by rw [bump_ras, numbered_ras]; exact unscored), bump_core, numbered_core]
  · rw [violatePkt, ctr_violate _ _ _ _ _ _ (by simp) (by simp), ctr_bump_self, ctr, numbered_ctrs, ctr]

/-- Settles O6. -/
theorem requestFromEndpoint : Obligations.RequestFromEndpoint := by
  refine ⟨fun i op p s hi arrives near pass route => request_passes hi arrives near pass route,
    fun i op p s hi arrives near => ⟨fun st fail => request_fails hi arrives near fail, fun drop => request_drops hi arrives near drop⟩,
    fun p s listed arrives near route => ?_⟩
  have row : ∀ (i : Instr) {op : Op}, requestRow i = some (op, p) → ingressCheck hooks (noteSeq s p) op p [] = .pass →
      ∃ u, exec i s = .next (checkQuar u p.lport) ∧
        CreditEnds (settle hooks (admitReq hooks (noteSeq s p) op p [])) u p (Packet.req op p).flits :=
    fun _ _ hi pass => request_passes (requestOf_row hi listed) arrives near pass route
  exact ⟨row (.load p) rfl, row (.store p) rfl, row (.storeClearPoison p) rfl, row (.copy p) rfl, row (.atomicAdd p) rfl,
    row (.atomicMin p) rfl, row (.atomicMax p) rfl, row (.atomicAnd p) rfl, row (.atomicOr p) rfl, row (.atomicXor p) rfl,
    row (.atomicSwap p) rfl, row (.atomicCas p) rfl, row (.fence p) rfl, row (.openVersion p) rfl, row (.closeVersion p) rfl,
    row (.publish p) rfl, row (.rdShared p) rfl, row (.rdOwn p) rfl, row (.upgrade p) rfl, row (.wbDirty p) rfl,
    row (.evictClean p) rfl, row (.collContrib p) rfl, row (.gather p) rfl, row (.scatter p) rfl, row (.search p) rfl,
    row (.attend p) rfl, row (.filter p) rfl, row (.run p) rfl, row (.ownerCas p) rfl⟩

/-! ## A request of another switch -/

section
variable {s : State} {op : Op} {p : Req}

theorem fromSwitch_here (h1 : step1Ok op p = true) (h3 : step3Fwd op p = true) (here : p.dst.toNat = selfNode s) :
    fromSwitch hooks s op p = atHome hooks s op p := by
  simp [fromSwitch, h1, h3, here]

theorem fromSwitch_on (h1 : step1Ok op p = true) (h3 : step3Fwd op p = true) (away : p.dst.toNat ≠ selfNode s) :
    fromSwitch hooks s op p = transit s p.lport p.esc (.req op p) := by
  simp [fromSwitch, h1, h3, away]

/-- A memory operation on the pool ranges of the windows that a request of another switch names (R194). -/
theorem atHome_memory {pl : List Byte} {a w b x : Nat} (plain : plainPayload p = some pl) (mem : isMemory op = true)
    (windows : windowsOf s op p.address.toNat (copySrc p) p.length.toNat = some ((a, w), (b, x))) :
    atHome hooks s op p = memStart s
      { op := op, p := { p with payload := pl }, origin := .remote, pool := a, len := p.length.toNat, srcPool := b, data := pl,
        phase := .access, window := w, srcWindow := x, arrived := s.clk } := by
  simp [atHome, plain, mem, windows]

/-- Any other request begins at the unit that serves it. -/
theorem atHome_unit {pl : List Byte} (plain : plainPayload p = some pl) (unit : isMemory op = false) :
    atHome hooks s op p = homeStart s .remote op { p with payload := pl } := by
  simp [atHome, plain, unit, hooks, engines]

/-- Giving link credit back changes only ports. -/
theorem returnCredit_ports (s : State) (l c n : Nat) : ∃ ls, returnCredit s l c n = { s with lports := ls } := by
  unfold returnCredit
  split
  · exact ⟨s.lports, rfl⟩
  · exact ⟨_, rfl⟩

theorem markHop_voqs (s : State) (d : Nat) (h : Option Nat) : (markHop s d h).core.voqs = s.core.voqs := by
  cases h <;> rfl

/-- What is queued goes on with marks on its place in the buffer; only ports change beside the queues. -/
theorem transit_queued {t : State} {inL : Nat} {esc : Bool} {pkt : Packet} {q : QPkt}
    (queued : enqueue s (schedPort inL) inL esc pkt = some t) (last : t.core.voqs.getLast? = some q) :
    ∃ ls f, transit s inL esc pkt = { t with lports := ls, core := { t.core with voqs := t.core.voqs.map f } } ∧
      ∀ x : QPkt, (f x).pkt = x.pkt ∧ (f x).egress = x.egress ∧ (f x).esc = x.esc := by
  have credit : ∀ (now : Bool) c n, ∃ ls, (if now then returnCredit t inL c n else t) = { t with lports := ls } := fun now c n => by
    cases now
    · exact ⟨t.lports, rfl⟩
    · exact returnCredit_ports t inL c n
  obtain ⟨ls, paid⟩ := credit (q.shared && !q.esc) (channelOf q.tc esc) (pkt.size / 64)
  simp only [transit, queued, last, paid]
  refine ⟨ls, _, rfl, fun x => ?_⟩
  split <;> exact ⟨rfl, rfl, rfl⟩

/-- A packet with a route goes to the end of the queues toward it. -/
theorem transit_routed {inL e : Nat} {esc on : Bool} {pkt : Packet} {hop : Option Nat}
    (route : routeOf s inL pkt.dstOf esc = .dest e on hop) :
    ∃ q, (transit s inL esc pkt).core.voqs.getLast? = some q ∧
      (transit s inL esc pkt).core.voqs.length = s.core.voqs.length + 1 ∧ q.pkt = pkt ∧ q.egress = e ∧ q.esc = on ∧
      (transit s inL esc pkt).mem = s.mem ∧ (transit s inL esc pkt).coh = s.coh ∧
      (transit s inL esc pkt).ing.outs = s.ing.outs := by
  obtain ⟨q, voqs, hp, he, hs⟩ := pushVoq_voqs (markHop s pkt.dstOf hop) (schedPort inL) inL e on pkt []
  have queued : enqueue s (schedPort inL) inL esc pkt = some (pushVoq (markHop s pkt.dstOf hop) (schedPort inL) inL e on pkt []) := by
    rw [enqueue, route]
  have quiet := enqueue_quiet _ _ _ _ _ _ queued
  rw [markHop_voqs] at voqs
  obtain ⟨ls, f, went, kept⟩ := transit_queued queued (by rw [voqs, List.getLast?_concat])
  obtain ⟨fp, fe, fs⟩ := kept q
  rw [went]
  refine ⟨f q, ?_, ?_, fp.trans hp, fe.trans he, fs.trans hs, quiet.mem, quiet.coh, (enqueue_steady queued).outs⟩
  · simp [voqs]
  · simp [voqs]

end

section
variable {i : Instr} {op : Op} {p : Req} {s : State} (hi : requestOf i = some (op, p)) (arrives : Arrives s p.lport)
  (far : facesSwitch s p.lport = true) (h1 : step1Ok op p = true) (h3 : step3Fwd op p = true)
include hi arrives far h1 h3

theorem request_memory_here {pl : List Byte} {a w b x : Nat} (here : p.dst.toNat = selfNode s) (plain : plainPayload p = some pl)
    (mem : isMemory op = true)
    (windows : windowsOf s op p.address.toNat (copySrc p) p.length.toNat = some ((a, w), (b, x))) :
    ∃ u, exec i s = .next (checkQuar u p.lport) ∧
      CreditEnds (settle hooks (memStart s
        { op := op, p := { p with payload := pl }, origin := .remote, pool := a, len := p.length.toNat, srcPool := b, data := pl,
          phase := .access, window := w, srcWindow := x, arrived := s.clk })) u p (Packet.req op p).flits := by
  obtain ⟨row, rfl, run⟩ := exec_requestOf hi
  rw [run s arrives.1, arriveReq_switch_here row arrives far here, fromSwitch_here h1 h3 here, atHome_memory plain mem windows]
  exact ⟨_, rfl, rfl⟩

theorem request_unit_here {pl : List Byte} (here : p.dst.toNat = selfNode s) (plain : plainPayload p = some pl)
    (unit : isMemory op = false) :
    ∃ u, exec i s = .next (checkQuar u p.lport) ∧
      CreditEnds (settle hooks (homeStart s .remote op { p with payload := pl })) u p (Packet.req op p).flits := by
  obtain ⟨row, rfl, run⟩ := exec_requestOf hi
  rw [run s arrives.1, arriveReq_switch_here row arrives far here, fromSwitch_here h1 h3 here, atHome_unit plain unit]
  exact ⟨_, rfl, rfl⟩

theorem request_on (away : p.dst.toNat ≠ selfNode s) :
    exec i s = .next (checkQuar (settle hooks (transit s p.lport p.esc (.req op p))) p.lport) := by
  obtain ⟨row, rfl, run⟩ := exec_requestOf hi
  rw [run s arrives.1, arriveReq_switch_on row arrives far away, fromSwitch_on h1 h3 away]

end

/-- Settles O9. -/
theorem requestFromSwitch : Obligations.RequestFromSwitch := by
  refine ⟨fun i op p s hi arrives far h1 h3 =>
    ⟨fun pl a w b x here plain mem windows => ?_, fun pl here plain unit => request_unit_here hi arrives far h1 h3 here plain unit,
      fun e esc hop away route => ?_⟩,
    fun p s listed arrives far => ⟨fun pl a w b x here plain => ?_, fun pl here plain => ?_, fun away => ?_⟩⟩
  · exact request_memory_here hi arrives far h1 h3 here plain mem windows
  · obtain ⟨q, went⟩ := transit_routed (pkt := .req op p) route
    exact ⟨_, q, request_on hi arrives far h1 h3 away, went⟩
  · have row : ∀ (i : Instr) {op : Op}, requestRow i = some (op, p) → isMemory op = true →
        (step1Ok op p = true ∧ step3Fwd op p = true) ∧
          windowsOf s op p.address.toNat (copySrc p) p.length.toNat = some ((a, w), (b, x)) →
        ∃ u, exec i s = .next (checkQuar u p.lport) ∧
          CreditEnds (settle hooks (memStart s
            { op := op, p := { p with payload := pl }, origin := .remote, pool := a, len := p.length.toNat, srcPool := b, data := pl,
              phase := .access, window := w, srcWindow := x, arrived := s.clk })) u p (Packet.req op p).flits :=
      fun _ _ hi mem ok => request_memory_here (requestOf_row hi listed) arrives far ok.1.1 ok.1.2 here plain mem ok.2
    exact ⟨row (.load p) rfl rfl, row (.store p) rfl rfl, row (.storeClearPoison p) rfl rfl, row (.copy p) rfl rfl,
      row (.atomicAdd p) rfl rfl, row (.atomicMin p) rfl rfl, row (.atomicMax p) rfl rfl, row (.atomicAnd p) rfl rfl,
      row (.atomicOr p) rfl rfl, row (.atomicXor p) rfl rfl, row (.atomicSwap p) rfl rfl, row (.atomicCas p) rfl rfl⟩
  · have row : ∀ (i : Instr) {op : Op}, requestRow i = some (op, p) → isMemory op = false →
        step1Ok op p = true ∧ step3Fwd op p = true →
        ∃ u, exec i s = .next (checkQuar u p.lport) ∧
          CreditEnds (settle hooks (homeStart s .remote op { p with payload := pl })) u p (Packet.req op p).flits :=
      fun _ _ hi unit ok => request_unit_here (requestOf_row hi listed) arrives far ok.1 ok.2 here plain unit
    exact ⟨row (.openVersion p) rfl rfl, row (.closeVersion p) rfl rfl, row (.publish p) rfl rfl, row (.rdShared p) rfl rfl,
      row (.rdOwn p) rfl rfl, row (.upgrade p) rfl rfl, row (.wbDirty p) rfl rfl, row (.evictClean p) rfl rfl,
      row (.collContrib p) rfl rfl, row (.collPartial p) rfl rfl, row (.gather p) rfl rfl, row (.scatter p) rfl rfl,
      row (.search p) rfl rfl, row (.attend p) rfl rfl, row (.filter p) rfl rfl, row (.run p) rfl rfl, row (.ownerCas p) rfl rfl⟩
  · have row : ∀ (i : Instr) {op : Op}, requestRow i = some (op, p) → step1Ok op p = true ∧ step3Fwd op p = true →
        exec i s = .next (checkQuar (settle hooks (transit s p.lport p.esc (.req op p))) p.lport) :=
      fun _ _ hi ok => request_on (requestOf_row hi listed) arrives far ok.1 ok.2 away
    exact ⟨row (.snpInv p) rfl, row (.snpShare p) rfl, row (.collDeliver p) rfl⟩

end Sys2Proof.Machine
end

section
/-! Completions (O33, R55, R89, R102), requests that will not be answered (R88), and gaps of numbers (R100). -/
namespace Sys2Proof.Machine

/-! ## A response arrives -/

/-- A response that the switch consumes changes only ports. -/
theorem consumed_ing (s : State) (r : Resp) : (consumed s r).ing = s.ing := by
  obtain ⟨ls, h⟩ := returnCredit_ports s r.lport (channelOf r.tc.toNat r.esc) (Packet.resp r).flits
  rw [consumed, h]

theorem answers_consumed (s : State) (q r : Resp) : answers (consumed s q) r = answers s r := by
  rw [answers, consumed_ing, answers]

/-- LOAD is all that the fabric changes of a response. -/
theorem markLoad_load (s : State) (r : Resp) : markLoad s r = { r with load := (markLoad s r).load } := by
  unfold markLoad
  split
  · rfl
  · split <;> rfl

section
variable (s : State) (r : Resp)

@[simp] theorem markLoad_lport : (markLoad s r).lport = r.lport := by rw [markLoad_load]
@[simp] theorem markLoad_esc : (markLoad s r).esc = r.esc := by rw [markLoad_load]
@[simp] theorem markLoad_status : (markLoad s r).status = r.status := by rw [markLoad_load]
@[simp] theorem markLoad_reqOpcode : (markLoad s r).reqOpcode = r.reqOpcode := by rw [markLoad_load]
@[simp] theorem markLoad_dst : (markLoad s r).dst = r.dst := by rw [markLoad_load]
@[simp] theorem markLoad_segOffset : (markLoad s r).segOffset = r.segOffset := by rw [markLoad_load]
@[simp] theorem markLoad_segCover : (markLoad s r).segCover = r.segCover := by rw [markLoad_load]
@[simp] theorem markLoad_result : (markLoad s r).result = r.result := by rw [markLoad_load]
@[simp] theorem markLoad_data : (markLoad s r).data = r.data := by rw [markLoad_load]
@[simp] theorem linkResp_markLoad : linkResp s (markLoad s r) = linkResp s r := by simp [linkResp]

end

section
variable {s : State} {r : Resp} (arrives : Arrives s r.lport)
include arrives

/-- A response that breaks the rules is dropped, counted and a violation of row 3 (R102). -/
theorem arriveResp_bad (bad : respOk r = false) :
    arriveResp r s = checkQuar (violatePkt (bump (consumed s r) (.rspDrop r.lport)) r.lport 3 (.resp r)) r.lport := by
  obtain ⟨⟨_, halt⟩, lantern, known⟩ := arrives
  simp [arriveResp, halt, capture_off lantern, known, bad]

variable (ok : respOk r = true)
include ok

/-- One that answers a request to a tray goes to that (R117). -/
theorem arriveResp_tray {k : Nat} {t : TrayReq} (tray : trayFor s (markLoad s r) = some (k, t)) :
    arriveResp r s = checkQuar (settle hooks (trayResp (consumed s (markLoad s r)) (markLoad s r) k t)) r.lport := by
  obtain ⟨⟨_, halt⟩, lantern, known⟩ := arrives
  simp [arriveResp, halt, capture_off lantern, known, ok, tray]

variable (noTray : trayFor s (markLoad s r) = none) (other : r.dst.toNat ≠ selfNode s) (noLink : linkResp s r = false)
include noTray other noLink

/-- One for another switch goes on (R102). -/
theorem arriveResp_on (away : lportOfNode s r.dst.toNat = none) :
    arriveResp r s = transit s r.lport r.esc (.resp (markLoad s r)) := by
  obtain ⟨⟨_, halt⟩, lantern, known⟩ := arrives
  simp [arriveResp, halt, capture_off lantern, known, ok, noTray, other, noLink, away]

variable {l : Nat} (near : lportOfNode s r.dst.toNat = some l)
include near

/-- One for a request outstanding here answers it (R89, R90). -/
theorem arriveResp_answers {id part : Nat} (mine : answers s (markLoad s r) = some (id, part)) :
    arriveResp r s = settle hooks (hereReply (consumed s (markLoad s r)) (schedPort r.lport) id part r.status.toNat r.segOffset.toNat
      r.segCover.toNat r.result.toNat r.data (markLoad s r).load.toNat) := by
  obtain ⟨⟨_, halt⟩, lantern, known⟩ := arrives
  simp [arriveResp, halt, capture_off lantern, known, ok, noTray, other, noLink, near, answers_consumed, mine]

/-- One for none is counted and a violation of row 4 (R89, R102). -/
theorem arriveResp_stray (none : answers s (markLoad s r) = none)
    (noEngine : engineAnswers (consumed s (markLoad s r)) (markLoad s r) = Option.none) :
    arriveResp r s = checkQuar (violatePkt (bump (consumed s (markLoad s r)) (.rspStray r.lport)) r.lport 4 (.resp (markLoad s r)))
      r.lport := by
  obtain ⟨⟨_, halt⟩, lantern, known⟩ := arrives
  simp [arriveResp, halt, capture_off lantern, known, ok, noTray, other, noLink, near, answers_consumed, none, noEngine, strayResp]

end

theorem exec_cpl_up {r : Resp} {s : State} (up : Up s) : exec (.cpl r) s = .next (arriveResp { r with isData := false, data := [] } s) :=
  (exec_cpl r s).trans (live_running _ up.1)

theorem exec_cplData_up {r : Resp} {s : State} (up : Up s) : exec (.cplData r) s = .next (arriveResp { r with isData := true } s) :=
  (exec_cplData r s).trans (live_running _ up.1)

/-! ## Requests that will not be answered (R88) -/

/-- The request held as unanswered, and counted: the state that the report is made in. -/
def heldUnanswered (s : State) (id : Nat) : State := bump (modOut s id fun o => { o with phase := .unanswered }) .unanswered

section
variable {s : State} {id : Nat} {o : OutReq} (ho : kfind s.ing.outs id = some o)
include ho

/-- A request none of whose parts is with a partner is reported with its number, tag and cause. -/
theorem markOne_reports (cause : Nat) (fresh : o.phase ≠ .unanswered) (alone : (o.parts.filter fun p => p.sent && !p.done) = []) :
    markOne cause s id = report (heldUnanswered s id) 0x05 o.p.src.toNat o.p.lport
      (o.p.seq.toNat + 2 ^ 32 * o.p.tag.toNat + 2 ^ 48 * cause) := by
  have uncharged : ∀ t, chargePartners t o = t := fun t => by simp [chargePartners, alone]
  simp [markOne, ho, fresh, uncharged, heldUnanswered]

/-- A second notice changes nothing. -/
theorem markOne_again (cause : Nat) (told : o.phase = .unanswered) : markOne cause s id = s := by
  simp [markOne, ho, told]

theorem heldUnanswered_self : kfind (heldUnanswered s id).ing.outs id = some { o with phase := .unanswered } := by
  simp [heldUnanswered, modOut, kmod, ho]

theorem heldUnanswered_other {k : Nat} (hk : k ≠ id) : kfind (heldUnanswered s id).ing.outs k = kfind s.ing.outs k := by
  simp [heldUnanswered, modOut, kmod, ho, hk]

theorem markOne_held (cause : Nat) (fresh : o.phase ≠ .unanswered) (alone : (o.parts.filter fun p => p.sent && !p.done) = []) :
    ∃ u, markOne cause s id = report u 0x05 o.p.src.toNat o.p.lport (o.p.seq.toNat + 2 ^ 32 * o.p.tag.toNat + 2 ^ 48 * cause) ∧
      kfind u.ing.outs id = some { o with phase := .unanswered } ∧ ctr u .unanswered = satAdd 48 (ctr s .unanswered) 1 ∧
      (∀ k, k ≠ id → kfind u.ing.outs k = kfind s.ing.outs k) ∧ u.mem = s.mem ∧ u.core = s.core :=
  ⟨_, markOne_reports ho cause fresh alone, heldUnanswered_self ho, ctr_bump_self _ _, fun _ => heldUnanswered_other ho, rfl, rfl⟩

end

theorem unanswered_found {s : State} {node tag cause id : Nat} {o : OutReq} (run : running s = true)
    (found : findOut s node tag = some (id, o)) : exec (.unanswered node tag cause) s = .next (markUnanswered s id cause) := by
  rw [exec_unanswered, execUnanswered, live_running _ run, found]

/-! ## Gaps of numbers (R100) -/

/-- Of a pair of which no number is logged, the gap begins at the lowest number that has not arrived. -/
theorem gapStart_next {e : SeqPair} (unlogged : e.logged = none) (missing : ∀ a ∈ e.above, a.1 ≠ e.next) : gapStart e = e.next := by
  have absent : (e.above.any fun a => a.1 = e.next) = false := List.any_eq_false.mpr fun a ha => by simpa using missing a ha
  simp [gapStart, unlogged, missingFrom, absent]

/-- The lesser of a time and one found before. -/
def earliest (b : Option Time) (a : Nat × Time) : Option Time :=
  match b with
  | none => some a.2
  | some t => some (min t a.2)

theorem foldl_earliest_some (l : List (Nat × Time)) (t : Time) : l.foldl earliest (some t) = some ((l.map (·.2)).foldl min t) := by
  induction l generalizing t with
  | nil => rfl
  | cons a l ih => exact ih (min t a.2)

/-- A gap's time begins with the least of the times at which numbers above it have arrived. -/
theorem firstAbove_min (e : SeqPair) (m : Nat) : firstAbove e m = ((e.above.filter fun a => seqLess m a.1).map (·.2)).min? := by
  have fold : firstAbove e m = (e.above.filter fun a => seqLess m a.1).foldl earliest none := rfl
  rw [fold]
  cases e.above.filter fun a => seqLess m a.1 with
  | nil => rfl
  | cons a l => exact foldl_earliest_some l a.2

theorem firstAbove_first {e : SeqPair} {m : Nat} {t : Time} (h : firstAbove e m = some t) :
    (∃ a ∈ e.above, seqLess m a.1 = true ∧ a.2 = t) ∧ ∀ a ∈ e.above, seqLess m a.1 = true → t ≤ a.2 := by
  rw [firstAbove_min, List.min?_eq_some_iff] at h
  obtain ⟨source, least⟩ := h
  obtain ⟨a, ha, rfl⟩ := List.mem_map.mp source
  obtain ⟨mem, above⟩ := List.mem_filter.mp ha
  exact ⟨⟨a, mem, above, rfl⟩, fun b hb above => least b.2 (List.mem_map_of_mem (List.mem_filter.mpr ⟨hb, above⟩))⟩

/-- The state in which a gap is logged: at its time, the pair's missing numbers noted as told. -/
def gapLogged (s : State) (src dst : Nat) (e : SeqPair) (t : Time) : State :=
  let u := untilTime s (t + largestAge s + 1)
  note { u with ing := { u.ing with pairs := u.ing.pairs.map fun x =>
    if x.src = src && x.dst = dst then { x with logged := some (gapEnd e (gapStart e)) } else x } } "SEQUENCE_GAP" [src, dst, gapStart e]

theorem gapLogged_frame (s : State) (src dst : Nat) (e : SeqPair) (t : Time) :
    let u := gapLogged s src dst e t
    u.clk = max s.clk (t + largestAge s + 1) ∧ u.log = s.log ++ [⟨"SEQUENCE_GAP", [src, dst, gapStart e], u.clk⟩] ∧
      u.ing.pairs = s.ing.pairs.map
        (fun x => if x.src = src && x.dst = dst then { x with logged := some (gapEnd e (gapStart e)) } else x) ∧
      u.ing.outs = s.ing.outs ∧ u.lports = s.lports ∧ u.mem = s.mem := by
  refine ⟨untilTime_clk s _, ?_, ?_, ?_, untilTime_lports s _, untilTime_mem s _⟩
  · simp [gapLogged]
  · simp [gapLogged]
  · simp [gapLogged]

section
variable {src dst : Nat} {s : State} {e : SeqPair} (run : running s = true)
  (pair : s.ing.pairs.find? (fun e => e.src = src && e.dst = dst) = some e)
include run pair

theorem sequenceGap_none (closed : firstAbove e (gapStart e) = none) : exec (.sequenceGap src dst) s = .next s := by
  rw [exec_sequenceGap, execSequenceGap, live_running _ run]
  simp only [pair, closed]

theorem sequenceGap_told {t : Time} {port : Nat} (first : firstAbove e (gapStart e) = some t) (own : lportOfNode s src = some port) :
    exec (.sequenceGap src dst) s = .next
      (((checkQuar (violate (gapLogged s src dst e t) port 5 [] 0) port).ing.outs.filter fun o => o.2.op = .fence &&
          o.2.p.src.toNat = src && o.2.p.dst.toNat = dst && seqLess (gapStart e) o.2.p.seq.toNat).foldl
        (fun s o => markUnanswered s o.1 6) (checkQuar (violate (gapLogged s src dst e t) port 5 [] 0) port)) := by
  have still : lportOfNode (gapLogged s src dst e t) src = some port := by
    rw [lportOfNode, show (gapLogged s src dst e t).lports = s.lports from untilTime_lports s _]
    exact own
  rw [exec_sequenceGap, execSequenceGap, live_running _ run]
  simp only [pair, first]
  simp only [gapLogged] at still ⊢
  simp only [still]

end

/-! ## The obligation -/

/-- What becomes of a response, by its form and what it answers. -/
theorem response_outcomes {i : Instr} {r : Resp} {s : State} (arrives : Arrives s r.lport)
    (run : exec i s = .next (arriveResp r s)) :
    (respOk r = false → exec i s = .next (checkQuar (violatePkt (bump (consumed s r) (.rspDrop r.lport)) r.lport 3 (.resp r)) r.lport)) ∧
    (let r' := markLoad s r
     (∀ k t, respOk r = true → trayFor s r' = some (k, t) →
      exec i s = .next (checkQuar (settle hooks (trayResp (consumed s r') r' k t)) r.lport)) ∧
     (respOk r = true → r.dst.toNat ≠ selfNode s → linkResp s r = false → trayFor s r' = none →
      (∀ l id part, lportOfNode s r.dst.toNat = some l → answers s r' = some (id, part) →
        exec i s = .next (settle hooks (hereReply (consumed s r') (schedPort r.lport) id part r.status.toNat r.segOffset.toNat
          r.segCover.toNat r.result.toNat r.data r'.load.toNat))) ∧
      (∀ l, lportOfNode s r.dst.toNat = some l → answers s r' = none → engineAnswers (consumed s r') r' = none →
        exec i s = .next (checkQuar (violatePkt (bump (consumed s r') (.rspStray r.lport)) r.lport 4 (.resp r')) r.lport)) ∧
      (lportOfNode s r.dst.toNat = none → exec i s = .next (transit s r.lport r.esc (.resp r'))))) := by
  simp only [run, Host.Outcome.next.injEq]
  exact ⟨arriveResp_bad arrives, fun k t ok tray => arriveResp_tray arrives ok tray, fun ok other noLink noTray =>
    ⟨fun l id part near mine => arriveResp_answers arrives ok noTray other noLink near mine,
      fun l near none noEngine => arriveResp_stray arrives ok noTray other noLink near none noEngine,
      arriveResp_on arrives ok noTray other noLink⟩⟩

/-- Settles O33: a response's outcomes, then a request that will not be answered, then a gap. -/
theorem completionsAndGaps : Obligations.CompletionsAndGaps := by
  refine ⟨fun r s arrives => ⟨response_outcomes arrives (exec_cpl_up arrives.1), response_outcomes arrives (exec_cplData_up arrives.1)⟩,
    fun r l id part s arrives other near => ⟨fun mine => ?_, fun mine => ?_⟩, fun node tag cause src dst s run => ?_⟩
  · obtain ⟨ok, noLink, noTray, mine⟩ := mine
    rw [exec_cpl_up arrives.1, arriveResp_answers (r := { r with isData := false, data := [] }) arrives ok noTray other noLink near mine]
  · obtain ⟨ok, noLink, noTray, mine⟩ := mine
    rw [exec_cplData_up arrives.1, arriveResp_answers (r := { r with isData := true }) arrives ok noTray other noLink near mine]
  · exact ⟨fun id o found => unanswered_found run found, fun id o ho fresh alone => markOne_held ho cause fresh alone,
      fun id o ho told => markOne_again ho cause told, fun _ => rfl, fun e => gapStart_next, fun e m t => firstAbove_first,
      fun e pair closed => sequenceGap_none run pair closed, fun e t port pair first own =>
        ⟨gapLogged s src dst e t, _, sequenceGap_told run pair first own, rfl, gapLogged_frame s src dst e t⟩⟩

end Sys2Proof.Machine
end

section
/-! LOAD in free mode (O60, R58): a response that answers a request to a tray does not go on, whatever its DST_NODE. -/
namespace Sys2Proof.Machine

/-- A switch in free mode that has asked a tray, node 9, for 128 bytes in the name of node 5. -/
def askedTray : State :=
  { State.reset with mem := { State.reset.mem with
      freeMode := true
      trayReqs := [(0, { op := 0, slot := 0, frame := 0, copyIx := 0, read := true, pool := 0, len := 128, n := 128, src := 5, tag := 7,
                         node := 9, since := 0 })] } }

/-- The tray's answer of the first 64 bytes. -/
def trayAnswer : Resp :=
  { lport := 512, isData := true, status := 0, reqOpcode := 1, rspNode := 9, dst := 5, tag := 7, segCover := 64,
    data := List.replicate 64 0 }

theorem trayAnswer_arrives : Arrives askedTray trayAnswer.lport := by decide

/-- It is for no node of this switch, and for no message of its own. -/
theorem trayAnswer_elsewhere :
    respOk trayAnswer = true ∧ trayAnswer.dst.toNat ≠ selfNode askedTray ∧ linkResp askedTray trayAnswer = false ∧
      lportOfNode askedTray trayAnswer.dst.toNat = none := by decide

/-- The tray's request takes the 64 bytes. -/
theorem trayAnswer_taken : (arriveResp trayAnswer askedTray).mem.trayReqs.map (·.2.got) = [64] := by decide

/-- Going on, the response would leave the request as it is. -/
theorem trayAnswer_on :
    (transit askedTray trayAnswer.lport trayAnswer.esc (.resp trayAnswer)).mem.trayReqs.map (·.2.got) = [0] := by decide

/-- Refutes O60: its last clause has every response for another switch go on, but one that answers a request to a tray is taken by that
request, which may stand in the name of a node of another switch. -/
theorem not_freeModeLoad : ¬ Obligations.FreeModeLoad := by
  intro h
  obtain ⟨_, _, _, on⟩ := h askedTray rfl
  obtain ⟨up, lantern, known⟩ := trayAnswer_arrives
  obtain ⟨ok, other, noLink, away⟩ := trayAnswer_elsewhere
  have goes := on trayAnswer up lantern known ok other noLink away
  rw [exec_cplData_up up, Host.Outcome.next.injEq] at goes
  have got := congrArg (fun t : State => t.mem.trayReqs.map (·.2.got)) goes
  exact absurd (trayAnswer_taken.symm.trans (got.trans trayAnswer_on)) (by decide)

end Sys2Proof.Machine
end

section
/-! The state after reset (O3): what no step has written reads as its default. -/
namespace Sys2Proof.Machine

theorem lportOf_reset (n : Nat) : lportOf State.reset n = {} := rfl

theorem partOf_reset (n : Nat) : partOf State.reset n = {} := rfl

theorem qpOf_reset (fn q : Nat) : qpOf State.reset fn q = {} := rfl

/-- Settles O3: every table is empty, and a reader of an empty table sees its default. -/
theorem resetValues : Obligations.ResetValues := by
  refine ⟨rfl, memWf_nil, rfl, rfl, rfl, rfl, rfl, rfl, rfl, rfl, rfl, rfl, rfl, rfl, rfl, rfl, rfl, rfl, fun n _ => ?_, fun n => ?_,
    fun fn q => ?_, rfl⟩
  · rw [lportOf_reset]
    exact ⟨rfl, rfl, rfl⟩
  · rw [partOf_reset]
  · rw [qpOf_reset]

end Sys2Proof.Machine
end

section
/-! A command that has started (R856) has written its function's commands in progress and nothing else. -/
namespace Sys2Proof.Machine

variable (s : State) (c : Cmd) (sp : CmdSpec)

@[simp] theorem startCmd_mem : (startCmd s c sp).mem = s.mem := rfl
@[simp] theorem startCmd_xl : (startCmd s c sp).xl = s.xl := rfl
@[simp] theorem startCmd_lports : (startCmd s c sp).lports = s.lports := rfl
@[simp] theorem startCmd_core : (startCmd s c sp).core = s.core := rfl
@[simp] theorem startCmd_fm : (startCmd s c sp).fm = s.fm := rfl
@[simp] theorem startCmd_ras : (startCmd s c sp).ras = s.ras := rfl
@[simp] theorem startCmd_cfg : (startCmd s c sp).cfg = s.cfg := rfl
@[simp] theorem startCmd_ftime : (startCmd s c sp).ftime = s.ftime := rfl
@[simp] theorem tierOf_startCmd (f : Nat) : tierOf (startCmd s c sp) f = tierOf s f := rfl
@[simp] theorem rulesOf_startCmd (k : Nat) : rulesOf (startCmd s c sp) k = rulesOf s k := rfl
@[simp] theorem trayDram_startCmd (n : Nat) : trayDram (startCmd s c sp) n = trayDram s n := rfl
@[simp] theorem backedBy_startCmd (n : Nat) : backedBy (startCmd s c sp) n = backedBy s n := rfl
@[simp] theorem freeingOn_startCmd (n : Nat) : freeingOn (startCmd s c sp) n = freeingOn s n := rfl
@[simp] theorem movingOnto_startCmd (n : Nat) : movingOnto (startCmd s c sp) n = movingOnto s n := rfl
@[simp] theorem rangeMapped_startCmd (i : Nat) : rangeMapped (startCmd s c sp) i = rangeMapped s i := rfl

end Sys2Proof.Machine
end

section
/-! POOL.SET_HOME (O15, R108 to R110). -/
namespace Sys2Proof.Machine

theorem rangeMapped_iff (s : State) (i : Nat) :
    rangeMapped s i = true ↔ (∃ e ∈ s.mem.tier, e.1 / 16384 = i) ∨ ∃ e ∈ s.xl.ptes, e.2.page / 32 = i := by
  simp [rangeMapped]

/-- What the checks of all commands need to know of POOL.SET_HOME. -/
abbrev homeSpec : CmdSpec := poolSpec 8 true [(0, 4), (4, 4)] 0

/-- POOL.SET_HOME with a legal entry and node: the outcomes in the order in which they are decided. -/
theorem poolSetHome_runs {s : State} {c : Cmd} (runs : CmdRuns s c homeSpec none true) (entry : arg c 0 4 < 4096)
    (node : arg c 4 4 ≤ 0x7FFF) :
    exec (.poolSetHome c) s = .next
      (if (kfind s.mem.homes (arg c 0 4)).getD 0x7FFF = arg c 4 4 then complete (startCmd s c homeSpec) (cmdRef c) 0 0 []
       else if rangeMapped s (arg c 0 4) = true then complete (startCmd s c homeSpec) (cmdRef c) 5 0 []
       else if arg c 4 4 ≠ 0x7FFF && decide (512 ≤ (s.mem.homes.filter fun e => e.2 = arg c 4 4).length) then
         complete (startCmd s c homeSpec) (cmdRef c) 9 0 []
       else complete
         { startCmd s c homeSpec with mem := { s.mem with
             homes := if arg c 4 4 = 0x7FFF then kdel s.mem.homes (arg c 0 4) else kset s.mem.homes (arg c 0 4) (arg c 4 4) } }
         (cmdRef c) 0 0 []) := by
  have legal : ¬ (decide (4096 ≤ arg c 0 4) || decide (noNode < arg c 4 4)) = true := by
    simp only [Bool.or_eq_true, decide_eq_true_eq, noNode]
    omega
  rw [exec_poolSetHome, execPoolSetHome, live_runCmd _ runs]
  exact congrArg Host.Outcome.next (if_neg legal)

/-- Settles O15, one outcome after another. -/
theorem poolSetHome : Obligations.PoolSetHome := by
  intro c s runs entry node
  simp only [poolSetHome_runs runs entry node, Host.Outcome.next.injEq]
  refine ⟨fun same => if_pos same, fun change mapped => ?_, fun change noFrame noPage named full => ?_, fun change noFrame noPage room => ?_⟩
  · exact (if_neg change).trans (if_pos ((rangeMapped_iff s _).mpr mapped))
  all_goals
    have free : ¬ rangeMapped s (arg c 0 4) = true := by
      rw [rangeMapped_iff]
      exact fun m => m.elim (fun ⟨e, he, hi⟩ => noFrame e he hi) fun ⟨e, he, hi⟩ => noPage e he hi
    refine (if_neg change).trans ((if_neg free).trans ?_)
  · exact if_pos (by simp [named, full])
  · exact if_neg (by simpa using room)

end Sys2Proof.Machine
end

section
/-! Maps and tier map entries: a read after a change of the value at a key. -/
namespace Sys2Proof.Machine

@[simp] theorem kfind_kmod_self {α : Type} (m : List (Nat × α)) (k : Nat) (f : α → α) : kfind (kmod m k f) k = (kfind m k).map f := by
  unfold kmod
  split
  case h_1 v found => rw [kfind_kset_self, found, Option.map_some]
  case h_2 absent => rw [absent, Option.map_none]

@[simp] theorem kfind_kmod_other {α : Type} (m : List (Nat × α)) (k j : Nat) (f : α → α) (h : j ≠ k) :
    kfind (kmod m k f) j = kfind m j := by
  unfold kmod
  split
  · exact kfind_kset_other m k j _ h
  · rfl

variable (s : State) (f : Nat) (g : TierEntry → TierEntry)

@[simp] theorem tierOf_modTier_self : tierOf (modTier s f g) f = (tierOf s f).map g := kfind_kmod_self _ _ _
@[simp] theorem tierOf_modTier_other (k : Nat) (h : k ≠ f) : tierOf (modTier s f g) k = tierOf s k := kfind_kmod_other _ _ _ _ h

end Sys2Proof.Machine
end

section
/-! Commands that read heat (O16, R122, R137). -/
namespace Sys2Proof.Machine

/-- What reading heat leaves (R134): all but the tier map. -/
structure HeatRead (s t : State) : Prop where
  bytes : t.mem.bytes = s.mem.bytes
  moves : t.mem.moves = s.mem.moves
  lports : t.lports = s.lports
  xl : t.xl = s.xl

theorem readHeat_heatRead (s : State) (f : Nat) : HeatRead s (readHeat s f) := ⟨rfl, rfl, rfl, rfl⟩

theorem foldl_readHeat_heatRead (fs : List Nat) (s : State) : HeatRead s (fs.foldl readHeat s) := by
  induction fs generalizing s with
  | nil => exact ⟨rfl, rfl, rfl, rfl⟩
  | cons f fs ih =>
    obtain ⟨bytes, moves, lports, xl⟩ := ih (readHeat s f)
    exact ⟨bytes, moves, lports, xl⟩

section
variable {s : State} {c : Cmd} (pf0 : c.fn = 0)
include pf0

theorem astMine_pf0 (t : Nat) : astMine s c t = true := by simp [astMine, pf0]

/-- POOL.FRAME_INFO through PF0, on a pool address (R122). -/
theorem poolFrameInfo_pf0 (runs : CmdRuns s c { poolSpec 4 false [(0, 8)] 0 with acts := .reads } none true) (pool : arg c 0 8 < 2 ^ 47) :
    exec (.poolFrameInfo c) s = .next
      (let u := readHeat (startCmd s c { poolSpec 4 false [(0, 8)] 0 with acts := .reads }) (frameOf (arg c 0 8))
       complete u (cmdRef c) 0 0 (entryBytes u (frameOf (arg c 0 8)))) := by
  have legal : ¬ 2 ^ 47 ≤ arg c 0 8 := Nat.not_le.mpr pool
  have mine : astMine s c c.ast.toNat = true := astMine_pf0 pf0 _
  have spec : ({ poolSpec 4 false (if c.fn ≠ 0 then [] else [(0, 8)]) 0 with ast := decide (c.fn ≠ 0), acts := .reads } : CmdSpec) =
      { poolSpec 4 false [(0, 8)] 0 with acts := .reads } := by simp [pf0, poolSpec]
  rw [← spec, ← mine] at runs
  rw [exec_poolFrameInfo, execPoolFrameInfo]
  refine (live_runCmd _ runs).trans ?_
  rw [spec]
  refine congrArg Host.Outcome.next ?_
  refine (if_neg (by simp [pf0])).trans ((if_neg legal).trans rfl)

/-- POOL.HEAT_READ through PF0, on a run of frames (R137). -/
theorem poolHeatRead_pf0 (runs : CmdRuns s c { poolSpec 5 false [(0, 8), (8, 4)] 0 with acts := .reads } none true)
    (pool : arg c 0 8 < 2 ^ 47) :
    exec (.poolHeatRead c) s = .next
      (let fs := natRange (frameOf (arg c 0 8)) (arg c 8 4)
       let u := fs.foldl readHeat (startCmd s c { poolSpec 5 false [(0, 8), (8, 4)] 0 with acts := .reads })
       complete u (cmdRef c) 0 0 (heatBytes u (fs.map some))) := by
  have mine : astMine s c c.ast.toNat = true := astMine_pf0 pf0 _
  have spec : ({ poolSpec 5 false (if c.fn ≠ 0 then [(0, 4)] else [(0, 8), (8, 4)]) 0 with
      ast := decide (c.fn ≠ 0), acts := .reads } : CmdSpec) = { poolSpec 5 false [(0, 8), (8, 4)] 0 with acts := .reads } := by
    simp [pf0, poolSpec]
  rw [← spec, ← mine] at runs
  rw [exec_poolHeatRead, execPoolHeatRead]
  refine (live_runCmd _ runs).trans (congrArg Host.Outcome.next ?_)
  rw [spec]
  refine (if_neg (by simp [pf0])).trans ((if_neg (by simpa using fun _ => pool)).trans ?_)
  simp only [pf0, ne_eq, not_true_eq_false, if_false, List.foldl_map]

end

end Sys2Proof.Machine
end

section
/-! A move of a frame that is started (O16, R129): its goal stands while its first reads begin. -/
namespace Sys2Proof.Machine

/-- Where a move goes, and the command that waits for it. -/
def Move.goal (m : Move) : Tier × Nat × Option CmdRef := (m.dst, m.loc, m.by_)

/-- What the reads of a sub-block leave: bytes, tier map, and the goal of every move. -/
structure GoalKept (s t : State) : Prop where
  bytes : t.mem.bytes = s.mem.bytes
  tier : t.mem.tier = s.mem.tier
  goal : ∀ f, (kfind t.mem.moves f).map Move.goal = (kfind s.mem.moves f).map Move.goal

theorem GoalKept.of_moves {s t : State} (bytes : t.mem.bytes = s.mem.bytes) (tier : t.mem.tier = s.mem.tier)
    (moves : t.mem.moves = s.mem.moves) : GoalKept s t := ⟨bytes, tier, fun f => by rw [moves]⟩

theorem GoalKept.refl (s : State) : GoalKept s s := .of_moves rfl rfl rfl

theorem GoalKept.trans {s t u : State} (h : GoalKept s t) (k : GoalKept t u) : GoalKept s u :=
  ⟨k.bytes.trans h.bytes, k.tier.trans h.tier, fun f => (k.goal f).trans (h.goal f)⟩

theorem Quiet.goalKept {s t : State} (h : Quiet s t) : GoalKept s t := by
  constructor
  all_goals intros
  all_goals rw [h.mem]

theorem foldl_goalKept {α : Type} (f : State → α → State) (h : ∀ s x, GoalKept s (f s x)) (l : List α) (s : State) :
    GoalKept s (l.foldl f s) := by
  induction l generalizing s with
  | nil => exact GoalKept.refl s
  | cons x l ih => exact (h s x).trans (ih _)

theorem ite_goalKept {p : Prop} [Decidable p] {s t u : State} (ht : GoalKept s t) (hu : GoalKept s u) :
    GoalKept s (if p then t else u) := by
  split
  · exact ht
  · exact hu

/-- An access that reaches an arbiter writes the arbiters alone. -/
theorem arbPush_arbs (s : State) (r : Nat) (x : Access) : ∃ a, arbPush s r x = { s with mem := { s.mem with arbs := a } } := by
  unfold arbPush
  dsimp only
  split
  · exact ⟨_, rfl⟩
  · exact ⟨_, rfl⟩

theorem foldl_arbs {α : Type} (f : State → α → State) (h : ∀ s x, ∃ a, f s x = { s with mem := { s.mem with arbs := a } }) (l : List α)
    (s : State) : ∃ a, l.foldl f s = { s with mem := { s.mem with arbs := a } } := by
  induction l generalizing s with
  | nil => exact ⟨s.mem.arbs, rfl⟩
  | cons x l ih =>
    obtain ⟨a, first⟩ := h s x
    obtain ⟨b, rest⟩ := ih (f s x)
    refine ⟨b, ?_⟩
    rw [List.foldl_cons, rest, first]

theorem t1Access_arbs (s : State) (r : Nat) (x : Access) (a n : Nat) :
    ∃ b, (t1Access s r x a n).1 = { s with mem := { s.mem with arbs := b } } :=
  foldl_arbs _ (fun s _ => arbPush_arbs s _ _) _ _

theorem t1Access_goalKept (s : State) (r : Nat) (x : Access) (a n : Nat) : GoalKept s (t1Access s r x a n).1 := by
  obtain ⟨b, h⟩ := t1Access_arbs s r x a n
  rw [h]
  exact .of_moves rfl rfl rfl

theorem trayGo_goalKept (s : State) (k : Nat) : GoalKept s (trayGo s k) := by
  unfold trayGo
  split
  · exact GoalKept.refl s
  · split
    · exact GoalKept.refl s
    · refine GoalKept.trans ?_ (sendPkt_quiet _ _ _ _ _).goalKept
      exact .of_moves rfl rfl rfl

theorem traySend_goalKept (s : State) (x : Nat) (tier : Tier) (t : TrayReq) (n : Nat) (d : List Byte) :
    GoalKept s (traySend s x tier t n d) := by
  unfold traySend
  split
  · exact GoalKept.refl s
  · refine ite_goalKept ?_ (GoalKept.trans ?_ (trayGo_goalKept _ _)) <;> exact .of_moves rfl rfl rfl

theorem useIndex_goalKept (s : State) (f : Nat) : GoalKept s (useIndex s f) := .of_moves rfl rfl rfl

theorem modOp_goalKept (s : State) (id : Nat) (g : MemOp → MemOp) : GoalKept s (modOp s id g) := .of_moves rfl rfl rfl

theorem loseMove_goalKept (s : State) (f : Nat) : GoalKept s (loseMove s f) := by
  refine ⟨rfl, rfl, fun k => ?_⟩
  by_cases same : k = f
  · subst same
    rw [loseMove, kfind_kmod_self, Option.map_map]
    rfl
  · rw [loseMove, kfind_kmod_other _ _ _ _ same]

theorem accessCopy_goalKept (id : Nat) (cls : ArbClass) (f a n loc c : Nat) (s : State) :
    GoalKept s (accessCopy id cls f a n true loc c s).1 := by
  unfold accessCopy
  dsimp only
  split
  case isTrue => exact GoalKept.refl s
  split
  case h_1 =>
    split
    · split
      · exact loseMove_goalKept s f
      · exact GoalKept.refl s
    · exact t1Access_goalKept _ _ _ _ _
  case h_2 => exact foldl_goalKept _ (fun s p => traySend_goalKept s _ _ _ _ _) _ _
  case h_3 =>
    refine GoalKept.trans ?_ (foldl_goalKept _ (fun s p => traySend_goalKept s _ _ _ _ _) _ _)
    refine GoalKept.trans ?_ (useIndex_goalKept _ f)
    exact ite_goalKept (GoalKept.refl s) (traySend_goalKept _ _ _ _ _ _)

/-- The copy of a sub-block begins with its reads. -/
theorem moveCopy_goalKept (s : State) (f : Nat) : GoalKept s (moveCopy s f) := by
  unfold moveCopy
  split
  · exact GoalKept.refl s
  rename_i m found
  split
  · exact GoalKept.refl s
  dsimp only
  split
  · exact GoalKept.refl s
  split
  · exact loseMove_goalKept s f
  refine GoalKept.trans ?_ (GoalKept.trans (accessCopy_goalKept _ _ _ _ _ _ _ _) (modOp_goalKept _ _ _))
  refine ⟨rfl, rfl, fun k => ?_⟩
  by_cases same : k = f
  · subst same
    rw [kfind_kset_self, found]
    rfl
  · rw [kfind_kset_other _ _ _ _ same]

/-- A move of copy 0 begins: the frame's entry says so, and the move has its goal. -/
theorem startMove_goal (s : State) (f : Nat) (dst : Tier) (p : Place) (r : Option CmdRef) :
    let u := startMove s f 0 dst p r
    u.mem.bytes = s.mem.bytes ∧ (kfind u.mem.moves f).map Move.goal = some (dst, p.loc, r) ∧
      tierOf u f = (tierOf s f).map (fun t => { t with moving := true }) ∧ ∀ k, k ≠ f → tierOf u k = tierOf s k := by
  intro u
  obtain ⟨t, begun, frame, other, kept⟩ : ∃ t : State, (kfind t.mem.moves f).map Move.goal = some (dst, p.loc, r) ∧
      tierOf t f = (tierOf s f).map (fun t => { t with moving := true }) ∧ (∀ k, k ≠ f → tierOf t k = tierOf s k) ∧
      t.mem.bytes = s.mem.bytes ∧ GoalKept t u := by
    refine ⟨_, ?_, ?_, ?_, ?_, ite_goalKept (GoalKept.refl _) (moveCopy_goalKept _ f)⟩
    · exact congrArg (Option.map Move.goal) (kfind_kset_self _ _ _)
    · exact tierOf_modTier_self _ _ _
    · exact fun k hk => tierOf_modTier_other _ _ _ k hk
    · rfl
  obtain ⟨sameBytes, kept⟩ := kept
  refine ⟨kept.bytes.trans sameBytes, (kept.goal f).trans begun, ?_, fun k hk => ?_⟩
  · rw [tierOf, kept.tier]
    exact frame
  · rw [tierOf, kept.tier]
    exact other k hk

end Sys2Proof.Machine
end

section
/-! The POOL commands (O16), each on parameters that it accepts. -/
namespace Sys2Proof.Machine

section
variable {s : State} {c : Cmd}

abbrev moveSpec : CmdSpec := { poolSpec 6 true [(0, 8), (8, 4), (12, 4)] 0 with acts := .object }
abbrev attachSpec : CmdSpec := poolSpec 9 true [(0, 4), (8, 8), (16, 4), (20, 4), (24, 4), (28, 4)] 0
abbrev detachSpec : CmdSpec := poolSpec 10 true [(0, 4)] 1
abbrev setPolicySpec : CmdSpec := poolSpec 11 true [(0, 4), (4, 4), (8, 4), (12, 4), (16, 4), (20, 4), (24, 4)] 0
abbrev enableSpec : CmdSpec := { poolSpec 12 true [(0, 4)] 1 with acts := .field }

/-- POOL.MOVE of a frame to T1, where its class allows T1 and there is a place (R976). -/
theorem poolMove_starts {t : TierEntry} {l : Place} (runs : CmdRuns s c moveSpec (framePart s c) true) (pool : arg c 0 8 < 2 ^ 47)
    (toT1 : arg c 8 4 = 1) (found : tierOf s (frameOf (arg c 0 8)) = some t) (below : t.tier ≠ .t1) (unbound : t.bound = 0)
    (sound : t.quarantined = false) (allowed : (((rulesOf s t.cls).map (·.tiers)).getD []).contains .t1 = true)
    (still : kfind s.mem.moves (frameOf (arg c 0 8)) = none)
    (place : movePlace (startCmd s c moveSpec) (frameOf (arg c 0 8)) t .t1 (arg c 12 4) = some l) :
    exec (.poolMove c) s = .next (startMove (bumpFree (startCmd s c moveSpec)) (frameOf (arg c 0 8)) 0 .t1 l (some (cmdRef c))) := by
  rw [exec_poolMove, execPoolMove]
  refine (live_runCmd (obj := (framePart · c)) _ runs).trans (congrArg Host.Outcome.next ?_)
  refine (if_neg (by simpa [toT1] using pool)).trans ?_
  rw [toT1]
  dsimp only
  split
  case h_1 none => exact nomatch found.symm.trans none
  case h_2 t' some =>
    obtain rfl : t = t' := Option.some.inj (found.symm.trans some)
    refine (if_neg (by simp [below, tierOfCode])).trans ((if_neg ?_).trans ((if_neg ?_).trans ?_))
    · simpa [unbound, sound, tierOfCode] using allowed
    · simp [still]
    · split
      case h_1 none => exact nomatch place.symm.trans none
      case h_2 l' some => rw [Option.some.inj (place.symm.trans some)]; rfl

/-- POOL.ATTACH_TRAY of one node whose tray holds the T2 area, and no T3 area (R115). -/
theorem poolAttachTray_one {n d : Nat} (runs : CmdRuns s c attachSpec none true) (slot : arg c 0 4 ≤ 31) (one : nodeList (arg c 8 8) = [n])
    (node : n ≤ 0x7FFF) (t2 : arg c 16 4 ≤ 1024) (t3 : arg c 20 4 = 0) (tray : trayDram s n = some d)
    (fits : (arg c 24 4 + arg c 16 4) * GiB ≤ d) (free : kfind s.mem.slots (arg c 0 4) = none)
    (apart : ∀ e ∈ s.mem.slots, e.2.nodes.contains n = false) :
    exec (.poolAttachTray c) s = .next (complete { startCmd s c attachSpec with mem := { s.mem with
      slots := kset s.mem.slots (arg c 0 4)
        { nodes := [n], t2Gib := arg c 16 4, t3Gib := 0, t2Off := arg c 24 4, t3Off := arg c 28 4 } } } (cmdRef c) 0 0 []) := by
  rw [exec_poolAttachTray, execPoolAttachTray, live_runCmd _ runs, one, t3]
  refine congrArg Host.Outcome.next ((if_neg ?_).trans ((if_neg ?_).trans rfl))
  · have single : [n].eraseDups.length = 1 := rfl
    simp only [List.findSome?_cons, trayDram_startCmd, tray, single]
    simp [noNode]
    exact ⟨⟨⟨⟨slot, t2⟩, by omega⟩, node⟩, fun _ => fits⟩
  · simpa [free, tray] using apart

/-- POOL.DETACH_TRAY of a slot that backs nothing (R120). -/
theorem poolDetachTray_empty {t : TraySlot} (runs : CmdRuns s c detachSpec none true) (slot : arg c 0 4 ≤ 31)
    (found : kfind s.mem.slots (arg c 0 4) = some t) (idle : t.evacuating = []) (empty : backedBy s (arg c 0 4) = [])
    (noReader : freeingOn s (arg c 0 4) = false) (noMove : movingOnto s (arg c 0 4) = false) :
    exec (.poolDetachTray c) s = .next (complete
      { startCmd s c detachSpec with mem := { s.mem with slots := kdel s.mem.slots (arg c 0 4) } } (cmdRef c) 0 0 []) := by
  rw [exec_poolDetachTray, execPoolDetachTray, live_runCmd _ runs]
  refine congrArg Host.Outcome.next ((if_neg (Nat.not_lt.mpr slot)).trans ?_)
  split
  case h_1 none => exact nomatch found.symm.trans none
  case h_2 t' some =>
    obtain rfl : t = t' := Option.some.inj (found.symm.trans some)
    exact (if_neg (by simp [idle])).trans ((if_pos (by simp [empty, noReader, noMove])).trans rfl)

section
variable (runs : CmdRuns s c setPolicySpec none true) (least : 8 ≤ arg c 0 4) (most : arg c 0 4 ≤ 63) (tiers : 1 ≤ arg c 4 4)
  (tiersMost : arg c 4 4 ≤ 7) (initial : 1 ≤ arg c 8 4) (initialMost : arg c 8 4 ≤ 3) (start : (arg c 4 4).testBit (arg c 8 4 - 1) = true)
  (promote : arg c 12 4 ≤ 65535) (demote : arg c 16 4 < arg c 12 4) (compress : arg c 20 4 ≤ arg c 16 4) (dwell : arg c 24 4 ≤ 10000)
include runs least most tiers tiersMost initial initialMost start promote demote compress dwell

/-- POOL.SET_POLICY with a legal class: one that is defined waits for the next scan, a new one is defined at once (R140). -/
theorem poolSetPolicy_legal :
    let p : PolicyClass := ⟨arg c 4 4, arg c 8 4, arg c 12 4, arg c 16 4, arg c 20 4, arg c 24 4⟩
    exec (.poolSetPolicy c) s = .next
      (if (kfind s.mem.classes (arg c 0 4)).isSome then
        complete { startCmd s c setPolicySpec with mem := { s.mem with classesNext := kset s.mem.classesNext (arg c 0 4) p } } (cmdRef c) 0 0 []
       else complete { startCmd s c setPolicySpec with mem := { s.mem with classes := kset s.mem.classes (arg c 0 4) p } } (cmdRef c) 0 0 []) := by
  rw [exec_poolSetPolicy, execPoolSetPolicy, live_runCmd _ runs]
  refine congrArg Host.Outcome.next ((if_neg ?_).trans rfl)
  simp only [Bool.or_eq_true, decide_eq_true_eq, Bool.not_eq_true', start]
  simp
  omega

end

/-- POOL.ENABLE_CLASS of an expert class (R974). -/
theorem poolEnableClass_legal (runs : CmdRuns s c enableSpec none true) (least : 8 ≤ arg c 0 4) (most : arg c 0 4 ≤ 63) :
    let m := setBits (kget s.mem.classOn c.partition.toNat 0) (arg c 0 4) 1 (if opt c 0 then 1 else 0)
    exec (.poolEnableClass c) s = .next (complete
      { startCmd s c enableSpec with mem := { s.mem with classOn := kset s.mem.classOn c.partition.toNat m } } (cmdRef c) 0 (m + 0x3F) []) := by
  rw [exec_poolEnableClass, execPoolEnableClass, live_runCmd _ runs]
  refine congrArg Host.Outcome.next ((if_neg ?_).trans rfl)
  simp
  omega

end

/-- Settles O16, one command after another. -/
theorem poolCommands : Obligations.PoolCommands := by
  intro c s pf0
  refine ⟨fun runs pool => ⟨_, poolFrameInfo_pf0 pf0 runs pool, rfl, rfl⟩, fun runs pool => ?_,
    fun t l runs pool toT1 found below unbound sound allowed still place => ?_,
    fun n d runs slot one node t2 t3 tray fits free apart => poolAttachTray_one runs slot one node t2 t3 tray fits free apart,
    fun t runs slot found idle empty noReader noMove => poolDetachTray_empty runs slot found idle empty noReader noMove,
    fun runs least most tiers tiersMost initial initialMost start promote demote compress dwell => ?_,
    fun runs least most => poolEnableClass_legal runs least most⟩
  · obtain ⟨bytes, moves, lports, xl⟩ := foldl_readHeat_heatRead (natRange (frameOf (arg c 0 8)) (arg c 8 4))
      (startCmd s c { poolSpec 5 false [(0, 8), (8, 4)] 0 with acts := .reads })
    exact ⟨_, poolHeatRead_pf0 pf0 runs pool, bytes, moves, lports, xl⟩
  · have run := poolMove_starts runs pool toT1 found below unbound sound allowed still place
    obtain ⟨bytes, goal, moving, other⟩ :=
      startMove_goal (bumpFree (startCmd s c moveSpec)) (frameOf (arg c 0 8)) .t1 l (some (cmdRef c))
    obtain ⟨m, begun, aim⟩ := Option.map_eq_some_iff.mp goal
    obtain ⟨dst, loc, waits⟩ : m.dst = .t1 ∧ m.loc = l.loc ∧ m.by_ = some (cmdRef c) := by
      simpa only [Move.goal, Prod.mk.injEq] using aim
    exact ⟨_, m, run, begun, dst, loc, waits, moving.trans (congrArg _ found), bytes, other⟩
  · have run := poolSetPolicy_legal runs least most tiers tiersMost initial initialMost start promote demote compress dwell
    exact ⟨fun new => run.trans (congrArg _ (if_neg (by simp [new]))),
      fun defined => run.trans (congrArg _ (if_pos (Option.isSome_iff_ne_none.mpr defined)))⟩

end Sys2Proof.Machine
end

section
/-! Signed commands (R814, R847): what is carried out, and in what state. -/
namespace Sys2Proof.Machine

section
variable {s : State} {c : Cmd} {sp : CmdSpec} {b : List Byte}

theorem signedCheck_startCmd (s : State) (c : Cmd) (sp : CmdSpec) (b : List Byte) : signedCheck (startCmd s c sp) b = signedCheck s b := rfl

@[simp] theorem acceptSeq_mem (s : State) (b : List Byte) : (acceptSeq s b).mem = s.mem := rfl
@[simp] theorem acceptSeq_ras (s : State) (b : List Byte) : (acceptSeq s b).ras = s.ras := rfl
@[simp] theorem acceptSeq_lports (s : State) (b : List Byte) : (acceptSeq s b).lports = s.lports := rfl
@[simp] theorem acceptSeq_ftime (s : State) (b : List Byte) : (acceptSeq s b).ftime = s.ftime := rfl

/-- A signed command that is carried out does what its own chapter says with the command in its body. -/
theorem runSigned_runs (body : State → Cmd → CmdRef → State) (h : SignedRuns s c sp b) :
    runSigned s c sp body = body (signedState s c sp b) (signedBodyCmd c b) (cmdRef (signedBodyCmd c b)) := by
  obtain ⟨_, may, signed, outer, pf0, host, check, group, verb, noOut, noAddr, desc, list⟩ := h
  have noError : tdiError (startCmd s c sp) c.fn = false := by simp [tdiError, pf0]
  have reads : (sp.host && (bodyCmd c (sliceBytes b 64 64)).host.isNone) = false := by
    cases needed : sp.host
    · rfl
    · exact Option.isNone_eq_false_iff.mpr (list needed)
  unfold runSigned
  refine (if_neg (by simp [may])).trans ((if_neg (by simp [noError])).trans ((if_pos signed).trans
    ((if_neg (by simp [outer])).trans ((if_neg (not_not.mpr pf0)).trans ?_))))
  rw [host]
  dsimp only
  rw [signedCheck_startCmd, check]
  refine (if_neg ?_).trans ((if_neg (by simp [reads])).trans rfl)
  simp [group, verb, noOut, noAddr, desc]

/-- A signed command of a row whose meaning is this command. -/
theorem live_runSigned (body : State → Cmd → CmdRef → State) (h : SignedRuns s c sp b) :
    live s (fun s => runSigned s c sp body) = .next (body (signedState s c sp b) (signedBodyCmd c b) (cmdRef (signedBodyCmd c b))) := by
  rw [live_running _ h.1, runSigned_runs body h]

end

end Sys2Proof.Machine
end

section
/-! Managers, role, free mode and the budget (O38, R153, R799, R812, R816, R849). -/
namespace Sys2Proof.Machine

/-! ## The first managers, unsigned (R849) -/

abbrev firstManagersSpec : CmdSpec := { managersSpec with host := false }

section
variable {s : State} {c : Cmd} (runs : CmdRuns s c firstManagersSpec none true) (unsigned : c.signed = false)
include runs unsigned

theorem fabricSetManagers_unsigned :
    exec (.fabricSetManagers c) s = .next
      (if !s.fm.managers.isEmpty then complete (startCmd s c firstManagersSpec) (cmdRef c) 5 0 []
       else firstManagers (startCmd s c firstManagersSpec) c (cmdRef c)) := by
  rw [exec_fabricSetManagers, execFabricSetManagers, live_running _ runs.1, if_neg (by simp [unsigned]), runCmd_runs _ runs]
  rfl

end

/-- A list whose digest is right and whose form is good is installed. -/
theorem firstManagers_good {s : State} {c : Cmd} {l : List Byte} {ms : List Manager} {k : Nat} (r : CmdRef) (host : c.host = some l)
    (digest : digestOk c (l.take (8 + 1960 * (leField l 0 1 % 8))) = true) (good : managerList l = some (ms, k)) :
    firstManagers s c r = complete (setManagers s ms k) r 0 0 [] := by
  simp [firstManagers, host, digest, good]

/-- Where there was no manager, the new ones are as the list names them. -/
theorem setManagers_first {s : State} (none : s.fm.managers = []) (ms : List Manager) (k : Nat) : (setManagers s ms k).fm.managers = ms := by
  simp [setManagers, none]

/-! ## Signed commands of the FABRIC group -/

section
variable {s : State} {c : Cmd} {b : List Byte}

/-- The state after FABRIC.SET_ROLE (R816). -/
def roleSet (s : State) (stage endpoints : Nat) : State :=
  setField { s with fm := { s.fm with stage := stage, endpoints := endpoints } } rStraggler 16 1 (if endpoints ≤ 4096 then 1 else 0)

theorem fabricSetRole_legal (h : SignedRuns s c roleSpec b) (stage : arg (signedBodyCmd c b) 0 4 ≤ 3) :
    exec (.fabricSetRole c) s = .next (complete (roleSet (signedState s c roleSpec b) (arg (signedBodyCmd c b) 0 4) (arg (signedBodyCmd c b) 4 4))
      (cmdRef (signedBodyCmd c b)) 0 0 []) := by
  rw [exec_fabricSetRole, execFabricSetRole, live_runSigned _ h]
  exact congrArg Host.Outcome.next (if_neg (Nat.not_lt.mpr stage))

@[simp] theorem roleSet_fm (s : State) (stage endpoints : Nat) :
    (roleSet s stage endpoints).fm = { s.fm with stage := stage, endpoints := endpoints } := rfl
@[simp] theorem roleSet_mem (s : State) (stage endpoints : Nat) : (roleSet s stage endpoints).mem = s.mem := rfl
@[simp] theorem roleSet_lports (s : State) (stage endpoints : Nat) : (roleSet s stage endpoints).lports = s.lports := rfl

theorem regField_roleSet (s : State) (stage endpoints : Nat) :
    regField (roleSet s stage endpoints) rStraggler 16 1 = if endpoints ≤ 4096 then 1 else 0 := by
  rw [roleSet, regField_setField_self]
  split <;> rfl

/-- FABRIC.SET_FREE_MODE for a fabric time that has come (R153). -/
theorem fabricSetFreeMode_now (h : SignedRuns s c freeSpec b) (on : arg (signedBodyCmd c b) 0 4 ≤ 1)
    (now : arg (signedBodyCmd c b) 8 8 ≤ s.ftime.toNat) :
    exec (.fabricSetFreeMode c) s = .next (complete (setFree (signedState s c freeSpec b) (arg (signedBodyCmd c b) 0 4 = 1))
      (cmdRef (signedBodyCmd c b)) 0 0 []) := by
  rw [exec_fabricSetFreeMode, execFabricSetFreeMode, live_runSigned _ h]
  exact congrArg Host.Outcome.next ((if_neg (Nat.not_lt.mpr on)).trans (if_pos now))

/-- And for one to come, while no change waits. -/
theorem fabricSetFreeMode_later (h : SignedRuns s c freeSpec b) (on : arg (signedBodyCmd c b) 0 4 ≤ 1)
    (later : s.ftime.toNat < arg (signedBodyCmd c b) 8 8) (idle : s.mem.freePending = none) :
    exec (.fabricSetFreeMode c) s = .next { signedState s c freeSpec b with mem := { s.mem with
      freePending := some (decide (arg (signedBodyCmd c b) 0 4 = 1), arg (signedBodyCmd c b) 8 8, cmdRef (signedBodyCmd c b)) } } := by
  rw [exec_fabricSetFreeMode, execFabricSetFreeMode, live_runSigned _ h]
  exact congrArg Host.Outcome.next ((if_neg (Nat.not_lt.mpr on)).trans ((if_neg (Nat.not_le.mpr later)).trans
    (if_neg (by simp [idle]))))

theorem fabricSetBudget_legal (h : SignedRuns s c budgetSpec b) (spares : arg (signedBodyCmd c b) 0 4 ≤ 65535)
    (limit : arg (signedBodyCmd c b) 4 4 ≤ 255) (window : 0 < arg (signedBodyCmd c b) 8 4) (windowMost : arg (signedBodyCmd c b) 8 4 ≤ 3600000) :
    exec (.fabricSetBudget c) s = .next (complete (modRas (signedState s c budgetSpec b) fun x =>
      { x with spares := arg (signedBodyCmd c b) 0 4, limit := arg (signedBodyCmd c b) 4 4, windowMs := arg (signedBodyCmd c b) 8 4 })
      (cmdRef (signedBodyCmd c b)) 0 0 []) := by
  rw [exec_fabricSetBudget, execFabricSetBudget, live_runSigned _ h]
  exact congrArg Host.Outcome.next (if_neg (by omega))

theorem fabricAddSpares_runs (h : SignedRuns s c sparesSpec b) :
    exec (.fabricAddSpares c) s = .next (complete (modRas (signedState s c sparesSpec b) fun x =>
      { x with spares := min 65535 (x.spares + arg (signedBodyCmd c b) 0 4) }) (cmdRef (signedBodyCmd c b)) 0 0 []) := by
  rw [exec_fabricAddSpares, execFabricAddSpares, live_runSigned _ h]
  rfl

/-- FABRIC.TICKET whose list has the digest of the body (R797, R848). -/
theorem fabricTicket_takes {l : List Byte} {t : State} {st order : Nat} (h : SignedRuns s c ticketSpec b) (list : c.list = some l)
    (digest : digestOk (signedBodyCmd c b) l = true) (taken : takeTicket (signedState s c ticketSpec b) l = (t, st, order)) :
    exec (.fabricTicket c) s = .next (settle hooks (complete t (cmdRef (signedBodyCmd c b)) (st + 256 * order) 0 [])) := by
  rw [exec_fabricTicket, execFabricTicket, live_runSigned _ h]
  have host : (signedBodyCmd c b).host = some l := list
  rw [ticketCmd, host]
  refine congrArg Host.Outcome.next ((if_neg (by simp [digest])).trans ?_)
  rw [Option.getD_some, taken]

end

end Sys2Proof.Machine
end

section
/-! Tickets (O38, R797 to R800). -/
namespace Sys2Proof.Machine

/-! ## What a target's state changes -/

theorem degradeTarget_mem_degraded (s : State) (t : Target) : t ∈ (degradeTarget s t).ras.degraded := by
  rw [degradeTarget, modRas_ras]
  dsimp only
  split
  case isTrue known => simpa using known
  case isFalse => simp

theorem restoreTarget_not_mem_degraded (s : State) (t : Target) : t ∉ (restoreTarget s t).ras.degraded := by
  simp [restoreTarget]

theorem foldl_setLink_ras (x : LinkState) (ns : List Nat) (s : State) : (ns.foldl (fun s n => setLink s n x) s).ras = s.ras := by
  induction ns generalizing s with
  | nil => rfl
  | cons n ns ih => exact ih _

theorem readmit_degraded (s : State) (t : Target) : (readmit s t).ras.degraded = (restoreTarget s t).ras.degraded := by
  rw [readmit, modRas_ras, foldl_setLink_ras]

theorem readmit_tickets (s : State) (t : Target) : (readmit s t).ras.tickets = s.ras.tickets := by
  rw [readmit, modRas_ras, foldl_setLink_ras]
  rfl

theorem readmit_mem (s : State) (t : Target) : (readmit s t).mem = s.mem := by
  rw [readmit, modRas_mem, foldl_setLink_mem]
  rfl

/-! ## A ticket that passes its checks -/

/-- The state in which an accepted ticket takes its effect: its ID is held until it expires (R798). -/
def ticketHeld (s : State) (t : Ticket) : State :=
  note (bump (modRas s fun x => { x with tickets := x.tickets ++ [(t.id, t.expires)] }) (.ras 14)) "TICKET" [t.action, t.id, t.target.node]

section
variable {s : State} {b : List Byte} (passes : ticketCheck s b = none)
include passes

theorem takeTicket_overBudget (expels : (ticketOf b).action = 1) (spent : s.ras.limit ≤ expelsUsed s ∨ s.ras.spares = 0)
    (decides : wickDecides s = true) :
    takeTicket s b = (degradeTarget (bump (bump s (.ras 15)) (.ras 16)) (ticketOf b).target, 9, 7) := by
  have decides' : wickDecides (bump (bump s (.ras 15)) (.ras 16)) = true := decides
  unfold takeTicket
  rw [passes]
  exact (if_pos ⟨expels, spent⟩).trans (congrArg (fun u : State => (u, 9, 7)) (if_pos decides'))

theorem takeTicket_full (other : (ticketOf b).action ≠ 1) (full : 4096 ≤ s.ras.tickets.length) :
    takeTicket s b = (bump s (.ras 15), 2, 0) := by
  unfold takeTicket
  rw [passes]
  exact (if_neg fun h => other h.1).trans (if_pos (by simp [ticketRoom, Nat.not_lt.mpr full]))

theorem takeTicket_degrades (degrades : (ticketOf b).action = 2) (room : ticketRoom s = true) :
    takeTicket s b = (degradeTarget (ticketHeld s (ticketOf b)) (ticketOf b).target, 0, 0) := by
  unfold takeTicket
  rw [passes]
  refine (if_neg (by simp [degrades])).trans ((if_neg (by simp [room])).trans ?_)
  exact congrArg (fun u : State => (u, 0, 0)) ((if_neg (by simp [degrades])).trans (if_pos degrades))

theorem takeTicket_readmits (readmits : (ticketOf b).action = 3) (room : ticketRoom s = true) :
    takeTicket s b = (readmit (ticketHeld s (ticketOf b)) (ticketOf b).target, 0, 0) := by
  unfold takeTicket
  rw [passes]
  refine (if_neg (by simp [readmits])).trans ((if_neg (by simp [room])).trans ?_)
  exact congrArg (fun u : State => (u, 0, 0)) ((if_neg (by simp [readmits])).trans (if_neg (by simp [readmits])))

end

/-! ## A ticket's ID is held until it expires (R798) -/

theorem untilFabric_clk (s : State) (t : Nat) : (untilFabric s t).clk = s.clk + (t - s.ftime.toNat) := by
  unfold untilFabric
  split
  case isTrue => exact (untilTime_clk _ _).trans (Nat.max_eq_right (Nat.le_add_right _ _))
  case isFalse past => rw [Nat.sub_eq_zero_of_le (Nat.not_lt.mp past), Nat.add_zero]

@[simp] theorem untilFabric_mem (s : State) (t : Nat) : (untilFabric s t).mem = s.mem := by
  unfold untilFabric
  split
  · exact untilTime_mem _ _
  · rfl

@[simp] theorem untilFabric_ras (s : State) (t : Nat) : (untilFabric s t).ras = s.ras := by
  unfold untilFabric
  split
  · exact untilTime_ras _ _
  · rfl

@[simp] theorem untilFabric_lports (s : State) (t : Nat) : (untilFabric s t).lports = s.lports := by
  unfold untilFabric
  split
  · exact untilTime_lports _ _
  · rfl

theorem ticketExpire_held {s : State} {id t : Nat} (run : running s = true)
    (held : s.ras.tickets.find? (fun e => e.1 = id) = some (id, t)) :
    exec (.ticketExpire id) s = .next
      (modRas (untilFabric s t) fun x => { x with tickets := x.tickets.filter fun e => e.1 ≠ id }) := by
  rw [exec_ticketExpire, execTicketExpire, live_running _ run, held]

/-! ## The obligation -/

/-- Settles O38, one command after another, then tickets. -/
theorem managersAndTickets : Obligations.ManagersAndTickets := by
  intro c s b bc
  refine ⟨fun l ms k runs unsigned host empty digest good => ?_, fun runs unsigned some => ?_, fun runs stage => ?_, fun runs on => ?_,
    fun runs spares limit window windowMost =>
      ⟨_, fabricSetBudget_legal runs spares limit window windowMost, by rw [modRas_ras, acceptSeq_ras, startCmd_ras], by simp⟩,
    fun runs => ⟨_, fabricAddSpares_runs runs, by rw [modRas_ras, acceptSeq_ras, startCmd_ras], by simp⟩,
    fun t st order l runs list digest taken => fabricTicket_takes runs list digest taken,
    fun passes => ?_, fun id t run held => ?_⟩
  · have run := fabricSetManagers_unsigned runs unsigned
    rw [empty, if_neg (by simp), firstManagers_good _ host digest good] at run
    exact ⟨_, run, setManagers_first empty ms k, rfl, rfl, rfl, rfl⟩
  · rw [fabricSetManagers_unsigned runs unsigned, if_pos (by simpa using some)]
  · exact ⟨_, fabricSetRole_legal runs stage, by rw [roleSet_fm], by rw [roleSet_fm], regField_roleSet _ _ _, by simp, by simp⟩
  · exact ⟨fabricSetFreeMode_now runs on, fun later idle => ⟨_, fabricSetFreeMode_later runs on later idle, rfl, rfl⟩⟩
  · refine ⟨fun expels spent decides => ⟨_, takeTicket_overBudget passes expels spent decides, degradeTarget_mem_degraded _ _, rfl, rfl, rfl⟩,
      takeTicket_full passes,
      fun degrades room => ⟨_, takeTicket_degrades passes degrades room, degradeTarget_mem_degraded _ _, rfl, rfl⟩,
      fun readmits room => ⟨_, takeTicket_readmits passes readmits room, ?_, readmit_tickets _ _, readmit_mem _ _⟩⟩
    rw [readmit_degraded]
    exact restoreTarget_not_mem_degraded _ _
  · refine ⟨_, ticketExpire_held run held, ?_, untilFabric_clk s t, untilFabric_mem s t, untilFabric_lports s t⟩
    rw [modRas_ras, untilFabric_ras]

end Sys2Proof.Machine
end

section
/-! A region's arbiter (O14, R143 to R147, R901). -/
namespace Sys2Proof.Machine

/-! ## Reading and writing an arbiter -/

@[simp] theorem arbOf_setArb_self (s : State) (r : Nat) (a : Arb) : arbOf (setArb s r a) r = a := kget_kset_self _ _ _ _

@[simp] theorem arbOf_setArb_other (s : State) (r q : Nat) (a : Arb) (h : q ≠ r) : arbOf (setArb s r a) q = arbOf s q :=
  kget_kset_other _ _ _ _ _ h

@[simp] theorem setArb_bytes (s : State) (r : Nat) (a : Arb) : (setArb s r a).mem.bytes = s.mem.bytes := rfl
@[simp] theorem setArb_ops (s : State) (r : Nat) (a : Arb) : (setArb s r a).mem.ops = s.mem.ops := rfl

/-! ## An access that is granted (R144) -/

theorem arbTake_granted (s : State) (r : Nat) (a : Arb) (x : Access) : (arbTake s r a x).granted = a.granted ++ [x] := by
  unfold arbTake
  split <;> rfl

theorem arbTake_credit (s : State) (r : Nat) (a : Arb) (x : Access) : (arbTake s r a x).credit = a.credit := by
  unfold arbTake
  split <;> rfl

theorem mem_arbTake_waiting {s : State} {r : Nat} {a : Arb} {x y : Access} (h : y ∈ a.waiting.erase x) : y ∈ (arbTake s r a x).waiting := by
  unfold arbTake
  split
  · exact List.mem_append_left _ h
  · exact h

theorem regionArbGrant_runs {s : State} (run : running s = true) (r : Nat) : exec (.regionArbGrant r) s = .next (arbGrant s r) := by
  rw [exec_regionArbGrant, execRegionArbGrant, live_running _ run]

theorem arbGrant_promoted {s : State} {r : Nat} {x : Access} (h : oldest ((arbOf s r).waiting.filter (·.promoted)) = some x) :
    arbGrant s r = setArb s r (arbTake s r (arbOf s r) x) := by
  simp only [arbGrant, h]

theorem ArbClass.ix_lt (k : ArbClass) : k.ix < 5 := by cases k <;> decide

/-- The round-robin serves the only class that waits, if it has weight. -/
theorem wrrTurn_only (weights : List Nat) (waits : Nat → Bool) (credit : List Int) (k : Nat) (hk : k < 5) (only : ∀ j, waits j = decide (j = k))
    (weight : 0 < weights.getD k 0) : (wrrTurn weights waits credit).2 = some k := by
  have served : (fun j => waits j && decide (0 < weights.getD j 0)) = fun j => decide (j = k) := by
    funext j
    by_cases h : j = k
    · rw [only, h, decide_eq_true weight]
      simp
    · simp [only, h]
  have on : (natRange 0 5).filter (fun j => waits j && decide (0 < weights.getD j 0)) = [k] := by
    rw [served]
    interval_cases k <;> rfl
  simp only [wrrTurn, on, List.foldl_cons, List.foldl_nil]

theorem getD_weights (s : State) (r k : Nat) (hk : k < 5) : ((natRange 0 5).map (arbWeight s r)).getD k 0 = arbWeight s r k := by
  interval_cases k <;> rfl

/-- The only access that waits, of a class that has weight, is granted. -/
theorem arbGrant_only {s : State} {r : Nat} {x : Access} (only : (arbOf s r).waiting = [x]) (fresh : x.promoted = false)
    (weight : 0 < arbWeight s r x.cls.ix) :
    ∃ credit, arbGrant s r = setArb s r (arbTake s r { arbOf s r with credit := credit } x) := by
  have turn := wrrTurn_only ((natRange 0 5).map (arbWeight s r)) (fun k => [x].any fun x => x.cls.ix = k) (arbOf s r).credit x.cls.ix
    x.cls.ix_lt (fun j => by simp [eq_comm]) (by rw [getD_weights _ _ _ x.cls.ix_lt]; exact weight)
  have unpromoted : oldest ([x].filter (·.promoted)) = none := by simp [oldest, fresh]
  have first : oldest ([x].filter fun y => y.cls.ix = x.cls.ix) = some x := by simp [oldest]
  unfold arbGrant
  simp only [only, unpromoted, turn, first]
  exact ⟨_, rfl⟩

/-- BULK and BG have no weight at a stack that is too hot (R901). -/
theorem arbWeight_hot {s : State} {r k : Nat} (hot : s.power.hbmHot.contains (r / 2) = true) (low : 3 ≤ k) : arbWeight s r k = 0 :=
  if_pos (by rw [hot, decide_eq_true low]; rfl)

theorem arbWeight_other (s : State) {r k : Nat} (high : k < 3) : arbWeight s r k = regField s (rArbCfg r) (4 * k) 4 :=
  if_neg (by simp [high])

/-! ## Promotion (R145) -/

theorem arbPromoNs_untilTime (s : State) (t : Time) (r k : Nat) : arbPromoNs (untilTime s t) r k = arbPromoNs s r k := by
  rw [arbPromoNs, regField_congr (untilTime_cfg s t), arbPromoNs]

theorem arbOf_untilTime (s : State) (t : Time) (r : Nat) : arbOf (untilTime s t) r = arbOf s r := by
  rw [arbOf, untilTime_mem, arbOf]

theorem regionArbPromote_only {s : State} {r : Nat} {x : Access} (run : running s = true) (only : (arbOf s r).waiting = [x])
    (fresh : x.promoted = false) :
    exec (.regionArbPromote r) s = .next
      (setArb (untilTime s (x.arrived + arbPromoNs s r x.cls.ix)) r { arbOf s r with waiting := [{ x with promoted := true }] }) := by
  rw [exec_regionArbPromote, execRegionArbPromote, live_running _ run]
  have due : x.arrived + arbPromoNs s r x.cls.ix ≤ (untilTime s (x.arrived + arbPromoNs s r x.cls.ix)).clk := by
    rw [untilTime_clk]
    exact Nat.le_max_right _ _
  simp [only, fresh, arbPromoNs_untilTime, due]

/-! ## An access that is done (R147) -/

/-- The state in which the operations that a granted access served go on. -/
def grantDone (s : State) (r : Nat) (x : Access) : State :=
  (x.op :: x.also).foldl accessDone (setArb s r { arbOf s r with granted := (arbOf s r).granted.erase x })

/-- An access that is done, where ECC corrected nothing, failed in no table and on no line that it read. -/
theorem hbmAccessDone_sound {s : State} {r : Nat} {x : Access} {bad : List Nat} (run : running s = true)
    (found : (arbOf s r).granted.find? (fun y => y.id = x.id) = some x) (noTable : ∀ l ∈ bad, l < 2 ^ 41 ∨ 2 ^ 43 ≤ l)
    (noLine : ∀ l ∈ bad, x.read = false ∨ (linesOf x.pool x.len).contains l = false) :
    exec (.hbmAccessDone r x.id bad) s = .next
      (settle hooks (if bad.contains (2 ^ 43) then regionStateError (grantDone s r x) r else grantDone s r x)) := by
  have corrected : (bad.filter fun l => decide (2 ^ 42 ≤ l ∧ l < 2 ^ 43)) = [] :=
    List.filter_eq_nil_iff.mpr fun l hl => by
      have := noTable l hl
      simp only [decide_eq_true_eq]
      omega
  have tables : (bad.filter fun l => decide (2 ^ 41 ≤ l ∧ l < 2 ^ 42)) = [] :=
    List.filter_eq_nil_iff.mpr fun l hl => by
      have := noTable l hl
      simp only [decide_eq_true_eq]
      omega
  have kept : (x.read && !(bad.filter (linesOf x.pool x.len).contains).isEmpty) = false := by
    cases reads : x.read
    · rfl
    · have none : bad.filter (linesOf x.pool x.len).contains = [] :=
        List.filter_eq_nil_iff.mpr fun l hl => by simpa [reads] using noLine l hl
      rw [none]
      rfl
  rw [exec_hbmAccessDone, execHbmAccessDone, live_running _ run]
  dsimp only
  rw [found]
  simp only [corrected, tables, kept]
  rfl

end Sys2Proof.Machine
end

section
/-! Events of moves, heat, scans, trays and free mode (O14, R129, R134, R135, R141, R153, R158, R975). -/
namespace Sys2Proof.Machine

/-- A move whose next sub-block is copied, and whose following one is to be (R129). -/
def Move.onward (m : Move) : Move :=
  { m with next := m.next + 1, copying := true, ready := false, suspended := false, op := none, copied := false }

/-- The switch waits no longer for the answer to a request to a tray. -/
def forgetTrayReq (s : State) (n : Nat) : State := { s with mem := { s.mem with trayReqs := kdel s.mem.trayReqs n } }

@[simp] theorem forgetTrayReq_trayReqs (s : State) (n : Nat) : (forgetTrayReq s n).mem.trayReqs = kdel s.mem.trayReqs n := rfl
@[simp] theorem forgetTrayReq_ops (s : State) (n : Nat) : (forgetTrayReq s n).mem.ops = s.mem.ops := rfl
@[simp] theorem forgetTrayReq_clk (s : State) (n : Nat) : (forgetTrayReq s n).clk = s.clk := rfl

/-- The accesses to the copy that a read goes to where a tray has left it unanswered. -/
def lateOther (v : State) (q : TrayReq) (o : MemOp) (c : Nat × Nat) : State :=
  let r := accessCopy q.op (arbClass o) q.frame q.pool q.len true c.1 c.2 v
  modOp r.1 q.op fun x => { x with left := x.left - 1 + r.2 }

/-- How many accesses a range of a copy takes does not depend on their class. -/
theorem accessCopy_count (id : Nat) (c d : ArbClass) (f a n : Nat) (read : Bool) (loc copyIx : Nat) (s : State) :
    (accessCopy id c f a n read loc copyIx s).2 = (accessCopy id d f a n read loc copyIx s).2 := by
  unfold accessCopy
  dsimp only
  split
  case isTrue => rfl
  split
  case h_1 => split <;> rfl
  case h_2 => rfl
  case h_3 => rfl

/-- It makes no difference whose class counts the accesses: the operation's as it stood, or as the first of them left it. -/
theorem lateOther_eq (v : State) (q : TrayReq) (o : MemOp) (c : Nat × Nat) :
    lateOther v q o c = modOp (accessCopy q.op (arbClass o) q.frame q.pool q.len true c.1 c.2 v).1 q.op fun o => { o with
      left := o.left - 1 + (accessCopy q.op (arbClass o) q.frame q.pool q.len true c.1 c.2 v).2 } := by
  unfold lateOther
  dsimp only
  congr 1
  funext x
  rw [accessCopy_count q.op (arbClass o) (arbClass x)]

/-- A decay period ends. -/
def periodEnded (s : State) (t : Time) : State :=
  setField { s with mem := { s.mem with periodAt := t } } rPoolHeat 8 8 (regField s rPoolHeat 8 8 + 1)

theorem periodEnded_epoch (s : State) (t : Time) : regField (periodEnded s t) rPoolHeat 8 8 = (regField s rPoolHeat 8 8 + 1) % 256 :=
  regField_setField_self _ _ _ _ _

@[simp] theorem periodEnded_clk (s : State) (t : Time) : (periodEnded s t).clk = s.clk := rfl
@[simp] theorem periodEnded_mem (s : State) (t : Time) : (periodEnded s t).mem = { s.mem with periodAt := t } := rfl

@[simp] theorem periodNs_untilTime (s : State) (t : Time) : periodNs (untilTime s t) = periodNs s := by simp [periodNs]

section
variable {s : State} (run : running s = true)
include run

/-! ## Moves (R129, R132) -/

theorem moveSubblockDone_next {f : Nat} {m : Move} (found : kfind s.mem.moves f = some m) (copying : m.copying = true)
    (going : m.suspended = false) (copied : m.copied = true) (more : m.next + 1 < 32) (policy : regField s rPoolPolicy 10 6 ≠ 0) :
    exec (.moveSubblockDone f true) s = .next (settle hooks (moveCopy (retryMoves
      { s with mem := { s.mem with moves := kset s.mem.moves f m.onward } }) f)) := by
  have notLast : ¬ 32 ≤ m.next + 1 := Nat.not_le.mpr more
  rw [exec_moveSubblockDone, execMoveSubblockDone, live_running _ run, found]
  simp [copying, going, copied, more, notLast, policy, Move.onward]

theorem moveSubblockDone_fails {f : Nat} {m : Move} (found : kfind s.mem.moves f = some m) (copying : m.copying = true)
    (going : m.suspended = false) : exec (.moveSubblockDone f false) s = .next (settle hooks (abandonMove s f 3)) := by
  rw [exec_moveSubblockDone, execMoveSubblockDone, live_running _ run, found]
  simp [copying, going]

/-! ## Heat and the tiering scan (R134, R135, R141) -/

theorem heatDecayPeriod_runs :
    exec .heatDecayPeriod s = .next (periodEnded (untilTime s (s.mem.periodAt + periodNs s)) (s.mem.periodAt + periodNs s)) := by
  rw [exec_heatDecayPeriod, execHeatDecayPeriod, live_running _ run]
  dsimp only
  rw [periodNs_untilTime, periodEnded, untilTime_mem]

theorem tierMapVisit_runs (f : Nat) : exec (.tierMapVisit f) s = .next (tableAccess (readHeat s f) f) := by
  rw [exec_tierMapVisit, execTierMapVisit, live_running _ run]

theorem tieringScan_due {t : Time} (due : s.mem.nextScan = some t) :
    exec .tieringScan s = .next (settle hooks (scan { untilTime s t with mem := { s.mem with
      scanAt := (untilTime s t).clk, nextScan := some ((untilTime s t).clk + regField s rPoolPolicy 0 10 * 1000000) } })) := by
  rw [exec_tieringScan, execTieringScan, live_running _ run, due]
  simp

theorem t3WriteResume_held {n : Nat} {o : MemOp} (found : kfind s.mem.ops n = some o) (held : o.phase = .t3) :
    exec (.t3WriteResume n) s = .next (settle hooks (memAccess s n)) := by
  rw [exec_t3WriteResume, execT3WriteResume, live_running _ run, found]
  exact congrArg Host.Outcome.next (if_pos held)

/-! ## Trays (R158) -/

/-- A read that a tray leaves unanswered goes to another healthy copy. -/
theorem trayLateTimeout_other {n : Nat} {q : TrayReq} {o : MemOp} {t : TierEntry} {c : Nat × Nat} (asked : kfind s.mem.trayReqs n = some q)
    (waits : kfind s.mem.ops q.op = some o) (frame : tierOf s q.frame = some t)
    (other : (healthyCopies s t).find? (fun c => c.2 ≠ q.copyIx && q.read) = some c) :
    exec (.trayLateTimeout n) s = .next (settle hooks (lateOther (forgetTrayReq (untilTime s (q.since + 10 * usNs)) n) q o c)) := by
  have waits' : kfind (untilTime s (q.since + 10 * usNs)).mem.ops q.op = some o := by rw [untilTime_mem, waits]
  have frame' : tierOf (untilTime s (q.since + 10 * usNs)) q.frame = some t := by rw [tierOf_untilTime, frame]
  have other' : (healthyCopies (untilTime s (q.since + 10 * usNs)) t).find? (fun c => c.2 ≠ q.copyIx && q.read) = some c := by
    rw [← other]
    simp [healthyCopies, served, t1Owner]
  rw [exec_trayLateTimeout, execTrayLateTimeout, live_running _ run, asked]
  dsimp only
  generalize untilTime s (q.since + 10 * usNs) = v at *
  rw [waits']
  dsimp only
  rw [frame', Option.bind_some, other']
  rfl

/-! ## Free mode (R153) -/

theorem freeModeTakeEffect_due {on : Bool} {t : Nat} {r : CmdRef} (due : s.mem.freePending = some (on, t, r)) :
    exec .freeModeTakeEffect s = .next (complete
      (setFree { untilFabric s t with mem := { s.mem with freePending := none } } on) r 0 0 []) := by
  rw [exec_freeModeTakeEffect, execFreeModeTakeEffect, live_running _ run, due]
  dsimp only
  rw [untilFabric_mem]

end

/-- A visit of a frame's tier map entry writes its heat, and asks its arbiter for the table's line. -/
theorem tableAccess_arbs (s : State) (f : Nat) : ∃ a, tableAccess s f = { s with mem := { s.mem with arbs := a } } := by
  unfold tableAccess
  dsimp only
  split
  · exact t1Access_arbs _ _ _ _ _
  · exact ⟨s.mem.arbs, rfl⟩

end Sys2Proof.Machine
end

section
/-! The obligation on memory's events (O14). -/
namespace Sys2Proof.Machine

/-- A granted access leaves every other arbiter, the bytes and the operations. -/
theorem setArb_frame (s : State) (r : Nat) (a : Arb) :
    (∀ q, q ≠ r → arbOf (setArb s r a) q = arbOf s q) ∧ (setArb s r a).mem.bytes = s.mem.bytes ∧ (setArb s r a).mem.ops = s.mem.ops :=
  ⟨fun q hq => arbOf_setArb_other s r q a hq, rfl, rfl⟩

/-- Settles O14: the arbiter's grants, promotions and ends, then the events of moves, heat, scans, trays and free mode. -/
theorem memoryEvents : Obligations.MemoryEvents := by
  refine ⟨fun r x s run => ⟨fun oldest => ?_, fun hot => ?_, fun only fresh weight => ?_, fun only fresh => ?_, fun bad found sound => ?_,
    fun found apart => ?_⟩, fun f n t s run entry => ⟨fun m found copying going copied more policy => ?_,
    fun m found copying going => moveSubblockDone_fails run found copying going, ?_, ?_, fun due => ?_,
    fun o found held => t3WriteResume_held run found held, fun q o c asked frame waits other => ?_, fun on r due => ?_⟩⟩
  · exact ⟨_, (regionArbGrant_runs run r).trans (congrArg _ (arbGrant_promoted oldest)), arbTake_granted _ _ _ _, arbTake_credit _ _ _ _,
      fun y hy => mem_arbTake_waiting hy⟩
  · exact ⟨arbWeight_hot hot (by decide), arbWeight_hot hot (by decide), arbWeight_other s (by decide)⟩
  · obtain ⟨credit, grant⟩ := arbGrant_only only fresh weight
    refine ⟨_, (regionArbGrant_runs run r).trans (congrArg _ grant), ?_, setArb_frame _ _ _⟩
    rw [arbOf_setArb_self, arbTake_granted]
  · obtain ⟨other, bytes, ops⟩ := setArb_frame (untilTime s (x.arrived + arbPromoNs s r x.cls.ix)) r
      { arbOf s r with waiting := [{ x with promoted := true }] }
    refine ⟨_, regionArbPromote_only run only fresh, untilTime_clk _ _, ?_, ?_, fun q hq => ?_, ?_, ?_⟩
    · rw [arbOf_setArb_self]
    · rw [arbOf_setArb_self]
    · rw [other q hq, arbOf_untilTime]
    · rw [bytes, untilTime_mem]
    · rw [ops, untilTime_mem]
  · rw [hbmAccessDone_sound run found (fun l hl => .inl (sound l hl).1) (fun l hl => (sound l hl).2), if_neg]
    · rfl
    · rw [List.contains_iff_mem]
      exact fun h => absurd (sound _ h).1 (by decide)
  · rw [hbmAccessDone_sound run found (by simp) fun l hl => .inr (by rwa [List.mem_singleton.mp hl]), if_pos (by simp)]
    rfl
  · refine ⟨_, moveSubblockDone_next run found copying going copied more policy, ?_, fun k hk => ?_, rfl, rfl⟩
    · exact kfind_kset_self _ _ _
    · exact kfind_kset_other _ _ _ _ hk
  · refine ⟨_, heatDecayPeriod_runs run, ?_, ?_, ?_, ?_, ?_⟩
    · rw [periodEnded_epoch, regField_untilTime]
    · rw [periodEnded_clk, untilTime_clk, periodNs]
    · rw [periodEnded_mem, periodNs]
    · rw [periodEnded_mem, untilTime_mem]
    · rw [periodEnded_mem, untilTime_mem]
  · obtain ⟨a, access⟩ := tableAccess_arbs (readHeat s f) f
    refine ⟨_, tierMapVisit_runs run f, ?_⟩
    rw [access]
    refine ⟨?_, fun g hg => ?_, rfl, rfl⟩
    · exact (tierOf_modTier_self s f _).trans (by rw [entry]; rfl)
    · exact tierOf_modTier_other s f _ g hg
  · exact ⟨_, tieringScan_due run due, untilTime_clk _ _, rfl, rfl, rfl, rfl⟩
  · have late : 10 * usNs = 10000 := rfl
    subst frame
    refine ⟨forgetTrayReq (untilTime s (q.since + 10 * usNs)) n, ?_, ?_, ?_, ?_⟩
    · rw [trayLateTimeout_other run asked waits entry other, lateOther_eq]
    · rw [forgetTrayReq_clk, untilTime_clk, late]
    · rw [forgetTrayReq_trayReqs, untilTime_mem]
    · rw [forgetTrayReq_ops, untilTime_mem]
  · exact ⟨_, freeModeTakeEffect_due run due, rfl, untilFabric_clk s n⟩

end Sys2Proof.Machine
end

section
/-! Tables by key: ranges of page table entries (R165), cleared or changed together. -/
namespace Sys2Proof.Machine

theorem natRange_eq_range' (a n : Nat) : natRange a n = List.range' a n := by
  induction n generalizing a with
  | zero => rfl
  | succ n ih => rw [natRange, ih, List.range'_succ]

theorem mem_natRange_iff (a n i : Nat) : i ∈ natRange a n ↔ a ≤ i ∧ i < a + n := by
  rw [natRange_eq_range', List.mem_range'_1]

section
variable {α : Type}

theorem kfind_foldl_kdel_other (ks : List Nat) (m : List (Nat × α)) (j : Nat) (h : j ∉ ks) :
    kfind (ks.foldl kdel m) j = kfind m j := by
  induction ks generalizing m with
  | nil => rfl
  | cons k ks ih =>
    rw [List.foldl_cons, ih _ (List.not_mem_of_not_mem_cons h), kfind_kdel_other m k j (List.ne_of_not_mem_cons h)]

theorem kfind_foldl_kdel_self (ks : List Nat) (m : List (Nat × α)) (j : Nat) (sorted : ksorted m = true) (h : j ∈ ks) :
    kfind (ks.foldl kdel m) j = none := by
  induction ks generalizing m with
  | nil => exact absurd h List.not_mem_nil
  | cons k ks ih =>
    rw [List.foldl_cons]
    by_cases later : j ∈ ks
    · exact ih _ (ksorted_kdel m k sorted) later
    · obtain rfl : j = k := (List.mem_cons.mp h).resolve_right later
      rw [kfind_foldl_kdel_other ks _ j later, kfind_kdel_self m j sorted]

theorem kfind_foldl_kmod_other (f : α → α) (ks : List Nat) (m : List (Nat × α)) (j : Nat) (h : j ∉ ks) :
    kfind (ks.foldl (kmod · · f) m) j = kfind m j := by
  induction ks generalizing m with
  | nil => rfl
  | cons k ks ih =>
    rw [List.foldl_cons, ih _ (List.not_mem_of_not_mem_cons h), kfind_kmod_other m k j f (List.ne_of_not_mem_cons h)]

theorem kfind_foldl_kmod_self (f : α → α) (ks : List Nat) (m : List (Nat × α)) (j : Nat) (once : ks.Nodup) (h : j ∈ ks) :
    kfind (ks.foldl (kmod · · f) m) j = (kfind m j).map f := by
  induction ks generalizing m with
  | nil => exact absurd h List.not_mem_nil
  | cons k ks ih =>
    obtain ⟨fresh, once⟩ := List.nodup_cons.mp once
    rw [List.foldl_cons]
    rcases List.mem_cons.mp h with rfl | later
    · rw [kfind_foldl_kmod_other f ks _ j fresh, kfind_kmod_self]
    · rw [ih _ once later, kfind_kmod_other m k j f (fun same => fresh (same ▸ later))]

end

/-! ## Page table entries -/

/-- Keys of a range of an AST's entries. -/
def rangeKeys (t v n : Nat) : List Nat := (natRange v n).map (pteKey t)

theorem pteKey_injective (t : Nat) : Function.Injective (pteKey t) := fun _ _ => Nat.add_left_cancel

theorem rangeKeys_nodup (t v n : Nat) : (rangeKeys t v n).Nodup := by
  rw [rangeKeys, natRange_eq_range']
  exact List.Nodup.map (pteKey_injective t) List.nodup_range'

/-- An entry's key names its AST and its index, since no index reaches 2^18 (R162). -/
theorem pteKey_mem_rangeKeys {t v n k i : Nat} (top : v + n ≤ 2 ^ 18) (index : i < 2 ^ 18) :
    pteKey k i ∈ rangeKeys t v n ↔ k = t ∧ v ≤ i ∧ i < v + n := by
  simp only [rangeKeys, List.mem_map, mem_natRange_iff, pteKey]
  constructor
  · rintro ⟨j, inside, same⟩
    obtain ⟨rfl, rfl⟩ : k = t ∧ j = i := by omega
    exact ⟨rfl, inside⟩
  · rintro ⟨rfl, inside⟩
    exact ⟨i, inside, rfl⟩

theorem pteOf_eq {s : State} {t i : Nat} (index : i < 2 ^ 18) : pteOf s t i = kfind s.xl.ptes (pteKey t i) := if_pos index

/-! ## ASTs (R163) -/

@[simp] theorem astOf_modAst_self (s : State) (n : Nat) (f : Ast → Ast) : astOf (modAst s n f) n = (astOf s n).map f :=
  kfind_kmod_self _ _ _

@[simp] theorem astOf_modAst_other (s : State) (n k : Nat) (f : Ast → Ast) (h : k ≠ n) : astOf (modAst s n f) k = astOf s k :=
  kfind_kmod_other _ _ _ _ h

/-! ## A command that has started changes no table of translation (R856) -/

section
variable (s : State) (c : Cmd) (sp : CmdSpec)

@[simp] theorem astOf_startCmd (n : Nat) : astOf (startCmd s c sp) n = astOf s n := rfl
@[simp] theorem pteOf_startCmd (t i : Nat) : pteOf (startCmd s c sp) t i = pteOf s t i := rfl
@[simp] theorem homeOf_startCmd (p : Nat) : homeOf (startCmd s c sp) p = homeOf s p := rfl
@[simp] theorem selfNode_startCmd : selfNode (startCmd s c sp) = selfNode s := rfl
@[simp] theorem classRefusal_startCmd (part cls : Nat) : classRefusal (startCmd s c sp) part cls = classRefusal s part cls := rfl

end

end Sys2Proof.Machine
end

section
/-! Walks, sweeps and the relocation of a table (O17, R163, R164, R180, R183, R187). -/
namespace Sys2Proof.Machine

/-! ## The translation cache (R179, R180) -/

/-- An entry put into the cache stands at its front, and hits. -/
theorem cacheHit_cachePut (s : State) (e : XEntry) : cacheHit (cachePut s e) e.ast e.gen e.page = some e.pte := by
  simp [cacheHit, cachePut]

section
variable {s : State} {t page loc : Nat} {a : Ast} {w : Walk} (run : running s = true) (found : astOf s t = some a)

/-- A walk is over. -/
abbrev walkOver (s : State) (w : Walk) : State := { s with xl := { s.xl with walks := s.xl.walks.erase w } }

/-- What a walk has read: a valid entry is in the cache (R180). -/
def walkRead (s : State) (t page : Nat) (w : Walk) : State :=
  (pteOf s t page).elim (walkOver s w) fun e => cachePut (walkOver s w) { ast := t, gen := w.gen, page := page, pte := e }

include run found

section
variable (walk : s.xl.walks.find? (fun w => w.ast = t && w.page = page) = some w)
include walk

/-- A walk under the current GEN is over (R180). -/
theorem pageWalkDone_current (gen : w.gen = a.gen) :
    exec (.pageWalkDone t page) s = .next (settle hooks (walkArrives (walkRead s t page w) t page)) := by
  have table : pteOf (walkOver s w) t page = pteOf s t page := rfl
  have still : astOf (walkOver s w) t = some a := found
  rw [exec_pageWalkDone, execPageWalkDone, live_running _ run]
  simp only [walk, found, Option.map_some, Option.getD_some, ← gen, ne_eq, not_true_eq_false, if_false, table, still,
    Option.isSome_some, if_true, walkRead]
  cases pteOf s t page with
  | none => rfl
  | some e => rfl

/-- A walk under an earlier GEN is discarded, and the page walked for again (R180). -/
theorem pageWalkDone_stale (gen : w.gen ≠ a.gen) :
    exec (.pageWalkDone t page) s = .next
      { s with xl := { s.xl with walks := s.xl.walks.erase w ++ [{ w with gen := a.gen }] } } := by
  rw [exec_pageWalkDone, execPageWalkDone, live_running _ run]
  simp only [walk, found, Option.map_some, Option.getD_some, ne_eq, gen.symm, not_false_eq_true, if_true]

end

/-- A sweep is over: no entry of an earlier generation is left, and GEN may advance again (R183, R187). -/
def sweepOver (s : State) (t : Nat) (a : Ast) : State :=
  modAst { s with xl := { s.xl with cache := s.xl.cache.filter fun e => e.ast ≠ t || e.gen = a.gen } } t fun b =>
    { b with sweeping := false }

theorem genSweepDone_sweeping (sweeping : a.sweeping = true) :
    exec (.genSweepDone t) s =
      .next (settle hooks (invalNext t ((invalFinish (sweepOver s t a) t).xl.invals.length + 1) (invalFinish (sweepOver s t a) t))) := by
  rw [exec_genSweepDone, execGenSweepDone, live_running _ run]
  simp only [found, sweeping, Bool.not_true, Bool.false_eq_true, if_false, sweepOver]

theorem ptRelocate_fits (fits : tableFits s loc (tablePages a.spanLog2) (some t) = true) :
    exec (.ptRelocate t loc) s = .next (modAst s t fun b => { b with ptLoc := loc }) := by
  rw [exec_ptRelocate, execPtRelocate, live_running _ run]
  simp only [found, fits, if_true]

end

/-- Settles O17: the outcome of each event names the state that settles, and the cache and the AST table are read in it. -/
theorem walksAndSweeps : Obligations.WalksAndSweeps := by
  intro t page loc a w s run found
  refine ⟨fun e walk gen read => ?_, fun walk gen read => ?_, fun walk gen => pageWalkDone_stale run found walk gen,
    fun sweeping => ?_, fun fits => ?_⟩
  · refine ⟨_, pageWalkDone_current run found walk gen, ?_⟩
    rw [walkRead, read, Option.elim_some, ← gen]
    exact ⟨rfl, cacheHit_cachePut _ _, rfl, rfl, rfl, rfl⟩
  · refine ⟨_, pageWalkDone_current run found walk gen, ?_⟩
    rw [walkRead, read, Option.elim_none]
    exact ⟨rfl, rfl, rfl, rfl, rfl⟩
  · refine ⟨_, genSweepDone_sweeping run found sweeping, ?_, fun u other => astOf_modAst_other _ _ _ _ other, rfl, rfl, rfl⟩
    exact (astOf_modAst_self _ _ _).trans (congrArg _ found)
  · refine ⟨_, ptRelocate_fits run found fits, ?_, fun u other => astOf_modAst_other _ _ _ _ other, rfl, rfl⟩
    rw [astOf_modAst_self, found, Option.map_some]

end Sys2Proof.Machine
end

section
/-! Invalidations that run at once (R181 to R187, R980): what is written, and the generation that is counted and drained. -/
namespace Sys2Proof.Machine

/-! ## What the writing of entries, and the advance of GEN, leave (R182, R183, R185) -/

section
variable (s : State) (t : Nat) (k : InvalKind)

@[simp] theorem astOf_invalWrite (n : Nat) : astOf (invalWrite s t k) n = astOf s n := by cases k <;> rfl
@[simp] theorem invalWrite_invals : (invalWrite s t k).xl.invals = s.xl.invals := by cases k <;> rfl
@[simp] theorem invalWrite_mem : (invalWrite s t k).mem = s.mem := by cases k <;> rfl
@[simp] theorem inFlightOf_invalWrite (n g : Nat) : inFlightOf (invalWrite s t k) n g = inFlightOf s n g := by cases k <;> rfl

@[simp] theorem advanceGen_ptes : (advanceGen s t).xl.ptes = s.xl.ptes := by
  unfold advanceGen
  split
  · rfl
  · rfl

@[simp] theorem advanceGen_invals : (advanceGen s t).xl.invals = s.xl.invals := by
  unfold advanceGen
  split
  · rfl
  · rfl

@[simp] theorem advanceGen_mem : (advanceGen s t).mem = s.mem := by
  unfold advanceGen
  split
  · rfl
  · rfl

end

/-- An AST whose GEN has just advanced over n requests in flight (R185). -/
abbrev advancedAst (a : Ast) (n : Nat) : Ast :=
  { a with gen := (a.gen + 1) % 65536, draining := true, sweeping := true, drainCount := n, quiet := decide (n = 0) }

theorem astOf_advanceGen {s : State} {t : Nat} {a : Ast} (found : astOf s t = some a) :
    astOf (advanceGen s t) t = some (advancedAst a (inFlightOf s t a.gen)) := by
  unfold advanceGen
  rw [found]
  exact (astOf_modAst_self _ _ _).trans (congrArg _ found)

/-! ## An invalidation that runs -/

/-- An invalidation under way: entries written, GEN advanced, and its command waiting (R185). -/
def invalRun (s : State) (t : Nat) (k : InvalKind) (r : CmdRef) : State :=
  let u := advanceGen (invalWrite s t k) t
  { u with xl := { u.xl with invals := u.xl.invals ++ [⟨t, k, true, invalReleases s t k, some r⟩] } }

section
variable {s : State} {t : Nat} {k : InvalKind} {r : CmdRef}

@[simp] theorem invalRun_mem : (invalRun s t k r).mem = s.mem :=
  (advanceGen_mem _ _).trans (invalWrite_mem _ _ _)

@[simp] theorem invalRun_ptes : (invalRun s t k r).xl.ptes = (invalWrite s t k).xl.ptes := advanceGen_ptes _ _

@[simp] theorem invalRun_invals :
    (invalRun s t k r).xl.invals = s.xl.invals ++ [⟨t, k, true, invalReleases s t k, some r⟩] :=
  congrArg (· ++ _) ((advanceGen_invals _ _).trans (invalWrite_invals _ _ _))

variable {a : Ast} (found : astOf s t = some a)
include found

theorem astOf_invalRun : astOf (invalRun s t k r) t = some (advancedAst a (inFlightOf s t a.gen)) := by
  rw [← inFlightOf_invalWrite s t k]
  exact astOf_advanceGen ((astOf_invalWrite s t k t).trans found)

theorem invalRefusal_invalidate (b : Bool) (l : List Nat) : invalRefusal s ⟨t, .invalidate, b, l, some r⟩ = none := by
  simp [invalRefusal, found]

theorem invalRefusal_unmap (v n : Nat) (b : Bool) (l : List Nat) :
    invalRefusal s ⟨t, .unmap v n, b, l, some r⟩ = rangeRefusal s t v n := by
  simp [invalRefusal, found]

theorem invalRefusal_protect (v n p : Nat) (b : Bool) (l : List Nat) :
    invalRefusal s ⟨t, .protect v n p, b, l, some r⟩ = rangeRefusal s t v n := by
  simp [invalRefusal, found]

/-- An AST on which an invalidation may run (R183, R186): none drains, sweeps or waits its turn. -/
theorem invalidate_runs (drained : a.draining = false) (swept : a.sweeping = false)
    (front : ∀ w ∈ s.xl.invals, w.ast = t → w.running = true) (kept : k ≠ .destroy)
    (legal : invalRefusal s ⟨t, k, false, [], some r⟩ = none) : invalidate s t k (some r) = invalRun s t k r := by
  have turn : ¬ (mustWait s t k || s.xl.invals.any fun w => w.ast = t && !w.running) = true := by
    simpa [mustWait, found, drained, swept] using front
  rw [invalidate, if_neg turn]
  cases k with
  | destroy => exact absurd rfl kept
  | invalidate => simp only [invalStart, legal, invalRun]
  | unmap base gib => simp only [invalStart, legal, invalRun]
  | protect base gib perms => simp only [invalStart, legal, invalRun]
  | revoke gib => simp only [invalStart, legal, invalRun]

end

end Sys2Proof.Machine
end

section
/-! AST.CREATE (O18, R162 to R164). -/
namespace Sys2Proof.Machine

/-! ## A place for a new table (R164) -/

/-- Moving tables writes their places in the AST table, and nothing else. -/
structure TablesMoved (s t : State) : Prop where
  ptes : t.xl.ptes = s.xl.ptes
  mem : t.mem = s.mem

theorem packTables_moved (s : State) : TablesMoved s (packTables s).1 := by
  unfold packTables
  generalize (tableArea s).1 = base
  generalize s.xl.asts = l
  induction l using List.reverseRecOn with
  | nil => exact ⟨rfl, rfl⟩
  | append_singleton l e ih =>
    rw [List.foldl_append]
    exact ⟨ih.ptes, ih.mem⟩

theorem tableAlloc_moved (s : State) (span : Nat) : TablesMoved s (tableAlloc s span).1 := by
  unfold tableAlloc
  split
  · exact ⟨rfl, rfl⟩
  · exact packTables_moved s

theorem tableAlloc_place {s : State} {span loc : Nat} (place : tablePlace s (tablePages span) = some loc) :
    tableAlloc s span = (bumpFree s, loc) := by
  simp only [tableAlloc, place]

/-! ## A new AST -/

/-- An AST enters the AST table. -/
def addAst (s : State) (n : Nat) (a : Ast) : State :=
  bumpFree { s with xl := { s.xl with asts := kset s.xl.asts n a }, nextId := s.nextId + 1 }

theorem astOf_addAst_self (s : State) (n : Nat) (a : Ast) : astOf (addAst s n a) n = some a := kfind_kset_self _ _ _

theorem astOf_addAst_other (s : State) (n : Nat) (a : Ast) (k : Nat) (h : k ≠ n) : astOf (addAst s n a) k = astOf s k :=
  kfind_kset_other _ _ _ _ h

abbrev createSpec : CmdSpec := astSpec 1 [(0, 4)] .field

/-- The state behind the choice of a table's place, and that place. -/
abbrev tableFor (s : State) (c : Cmd) : State × Nat := tableAlloc (startCmd s c createSpec) (arg c 0 4)

/-- The AST that AST.CREATE of a virtual function makes (R162, R169). -/
abbrev newAst (s : State) (c : Cmd) : Ast :=
  { spanLog2 := arg c 0 4, partition := c.fn - 1, gen := 0, ptLoc := (tableFor s c).2, born := (tableFor s c).1.nextId }

theorem astCreate_vf {s : State} {c : Cmd} {n : Nat} (runs : CmdRuns s c createSpec none true) (least : 30 ≤ arg c 0 4)
    (most : arg c 0 4 ≤ 48) (vf : c.fn ≠ 0) (room : tablesTotal s + tableBytes (arg c 0 4) ≤ GiB)
    (number : firstFree (s.xl.asts.map (·.1)) 4096 (freeNat s) (s.xl.asts.length + 1) = some n) :
    exec (.astCreate c) s = .next (complete (addAst (tableFor s c).1 n (newAst s c)) (cmdRef c) 0 n []) := by
  have legal : ¬ (decide (arg c 0 4 < 30) || decide (48 < arg c 0 4)) = true := by
    simp only [Bool.or_eq_true, decide_eq_true_eq]
    omega
  have free : firstFree ((startCmd s c createSpec).xl.asts.map (·.1)) 4096 (freeNat (startCmd s c createSpec))
      ((startCmd s c createSpec).xl.asts.length + 1) = some n := number
  rw [exec_astCreate, execAstCreate, live_runCmd _ runs]
  refine congrArg Host.Outcome.next ((if_neg legal).trans ((if_neg (Nat.not_lt.mpr room)).trans ?_))
  simp only [free, vf, if_false, fieldPart, ne_eq, not_false_eq_true, if_true, addAst]

end Sys2Proof.Machine
end

section
/-! AST.DESTROY, AST.INVALIDATE, AST.INFO and AST.PTE_READ (O18, R165, R169, R170, R185, R981). -/
namespace Sys2Proof.Machine

abbrev destroySpec : CmdSpec := astSpec 2 [(0, 4)] .object
abbrev invalidateSpec : CmdSpec := astSpec 3 [(0, 4)] .object
abbrev astInfoSpec : CmdSpec := astSpec 4 [(0, 4)] .reads
abbrev pteReadSpec : CmdSpec := astSpec 5 [(0, 4), (4, 4)] .reads

/-- An AST is gone from the AST table and from the translation cache (R170). -/
def dropAst (s : State) (t : Nat) : State :=
  { s with xl := { s.xl with asts := kdel s.xl.asts t, cache := s.xl.cache.filter fun e => e.ast ≠ t } }

theorem dropAst_cache {s : State} {t : Nat} {e : XEntry} (h : e ∈ (dropAst s t).xl.cache) : e.ast ≠ t := by
  simpa using (List.mem_filter.mp h).2

/-- The destruction of an AST without a valid entry, on which nothing drains or waits its turn. -/
theorem invalidate_destroys {s : State} {t : Nat} {a : Ast} {r : CmdRef} (found : astOf s t = some a) (drained : a.draining = false)
    (front : ∀ w ∈ s.xl.invals, w.ast = t → w.running = true) (empty : ∀ e ∈ s.xl.ptes, e.1 / 2 ^ 18 ≠ t) :
    invalidate s t .destroy (some r) = complete (dropAst s t) r 0 0 [] := by
  have turn : ¬ (mustWait s t .destroy || s.xl.invals.any fun w => w.ast = t && !w.running) = true := by
    simpa [mustWait, found, drained] using front
  have unmapped : ¬ (s.xl.ptes.any fun e => e.1 / 2 ^ 18 = t) = true := by simpa using empty
  rw [invalidate, if_neg turn]
  simp only [invalStart, astDestroyNow, found, unmapped]
  rfl

section
variable {s : State} {c : Cmd}

/-- AST.DESTROY of an AST without a valid entry (R170). -/
theorem astDestroy_empty {a : Ast} (runs : CmdRuns s c destroySpec (astPart s (arg c 0 4)) (astMine s c (arg c 0 4)))
    (found : astOf s (arg c 0 4) = some a) (drained : a.draining = false)
    (front : ∀ w ∈ s.xl.invals, w.ast = arg c 0 4 → w.running = true) (empty : ∀ e ∈ s.xl.ptes, e.1 / 2 ^ 18 ≠ arg c 0 4) :
    exec (.astDestroy c) s =
      .next (settle hooks (complete (dropAst (startCmd s c destroySpec) (arg c 0 4)) (cmdRef c) 0 0 [])) := by
  rw [exec_astDestroy, execAstDestroy, ← invalidate_destroys (s := startCmd s c destroySpec) found drained front empty]
  exact (live_runCmd (obj := (astPart · _)) (mine := (astMine · c _)) _ runs).trans
    (congrArg Host.Outcome.next (if_neg (by simp [found])))

/-- AST.INVALIDATE that does not wait its turn (R185, R186). -/
theorem astInvalidate_runs {a : Ast} (runs : CmdRuns s c invalidateSpec (astPart s (arg c 0 4)) (astMine s c (arg c 0 4)))
    (found : astOf s (arg c 0 4) = some a) (drained : a.draining = false) (swept : a.sweeping = false)
    (front : ∀ w ∈ s.xl.invals, w.ast = arg c 0 4 → w.running = true) :
    exec (.astInvalidate c) s =
      .next (settle hooks (invalRun (startCmd s c invalidateSpec) (arg c 0 4) .invalidate (cmdRef c))) := by
  rw [exec_astInvalidate, execAstInvalidate, ← invalidate_runs (s := startCmd s c invalidateSpec) (k := .invalidate) found drained
    swept front nofun (invalRefusal_invalidate found _ _)]
  exact (live_runCmd (obj := (astPart · _)) (mine := (astMine · c _)) _ runs).trans
    (congrArg Host.Outcome.next (if_neg (by simp [found])))

theorem astInfo_number (runs : CmdRuns s c astInfoSpec none (astMine s c (arg c 0 4))) (number : arg c 0 4 ≤ 4095) :
    exec (.astInfo c) s = .next (complete (startCmd s c astInfoSpec) (cmdRef c) 0 0 (astBytes s (arg c 0 4))) := by
  rw [exec_astInfo, execAstInfo]
  exact (live_runCmd (mine := (astMine · c _)) _ runs).trans (congrArg Host.Outcome.next (if_neg (Nat.not_lt.mpr number)))

theorem astPteRead_entry (runs : CmdRuns s c pteReadSpec none (astMine s c (arg c 0 4))) (index : arg c 4 4 ≤ 262143)
    (found : (astOf s (arg c 0 4)).isSome = true) :
    exec (.astPteRead c) s = .next (complete (startCmd s c pteReadSpec) (cmdRef c) 0 0
      (leBytes 4 (((pteOf s (arg c 0 4) (arg c 4 4)).map pteWord).getD 0))) := by
  rw [exec_astPteRead, execAstPteRead]
  refine (live_runCmd (mine := (astMine · c _)) _ runs).trans (congrArg Host.Outcome.next ?_)
  refine (if_neg (Nat.not_lt.mpr index)).trans (if_neg fun none => ?_)
  exact Bool.false_ne_true ((Option.isSome_eq_false_iff.mpr none).symm.trans found)

end

end Sys2Proof.Machine
end

section
/-! WINDOW.SET and WINDOW.CLEAR (O18, R191, R192, R197). -/
namespace Sys2Proof.Machine

/-! ## A window's entry changes -/

theorem windowChanged_idle {s : State} {i : Nat} {r : CmdRef} (idle : windowUsers s i = []) :
    windowChanged s i r = complete s r 0 0 [] := by
  rw [windowChanged, idle]
  rfl

theorem windowChanged_used {s : State} {i : Nat} {r : CmdRef} (used : windowUsers s i ≠ []) :
    windowChanged s i r = { s with xl := { s.xl with windowDrains := s.xl.windowDrains ++ [⟨i, windowUsers s i, r⟩] } } := by
  rw [windowChanged]
  exact if_neg (by simpa using used)

/-! ## What a change of R749 leaves -/

/-- All that a change of TDI states leaves of translation, memory and the ingress. -/
structure OnlyTdi (s t : State) : Prop where
  xl : t.xl = s.xl
  mem : t.mem = s.mem
  ing : t.ing = s.ing

theorem tdiFault_onlyTdi (s : State) (n : Nat) : OnlyTdi s (tdiFault s n) := by
  unfold tdiFault
  split
  · exact ⟨rfl, rfl, rfl⟩
  · exact ⟨rfl, rfl, rfl⟩

theorem foldl_tdiFault_onlyTdi (l : List Nat) (s : State) : OnlyTdi s (l.foldl tdiFault s) := by
  induction l generalizing s with
  | nil => exact ⟨rfl, rfl, rfl⟩
  | cons n l ih =>
    obtain ⟨xl, mem, ing⟩ := tdiFault_onlyTdi s n
    obtain ⟨xl', mem', ing'⟩ := ih (tdiFault s n)
    exact ⟨xl'.trans xl, mem'.trans mem, ing'.trans ing⟩

theorem windowUsers_congr {s t : State} (mem : t.mem = s.mem) (ing : t.ing = s.ing) (i : Nat) : windowUsers t i = windowUsers s i := by
  simp only [windowUsers, mem, ing]

/-! ## The commands -/

abbrev windowSetSpec : CmdSpec := winSpec 1 [(0, 4), (4, 4), (8, 4), (12, 4)]
abbrev windowClearSpec : CmdSpec := winSpec 2 [(0, 4)]

/-- The partitions that have mapped a gigabyte of a window of size n from p on (R749). -/
def windowParts (s : State) (p n : Nat) : List Nat :=
  ((s.xl.ptes.filter fun e => decide (p ≤ e.2.page ∧ e.2.page < p + n)).filterMap fun e => astPart s (e.1 / 2 ^ 18)).eraseDups

/-- A window's entry is written, and the TDIs that see it are in ERROR. -/
def windowWritten (s : State) (i : Nat) (w : Window) : State :=
  let u := (windowParts s w.poolBase w.sizeGib).foldl tdiFault s
  { u with xl := { u.xl with windows := kset u.xl.windows i w } }

/-- What the writing of a window's entry does to the window table, and what it leaves. -/
structure WindowWritten (s t : State) (i : Nat) (w : Window) : Prop where
  windows : t.xl.windows = kset s.xl.windows i w
  mem : t.mem = s.mem
  ptes : t.xl.ptes = s.xl.ptes
  drains : t.xl.windowDrains = s.xl.windowDrains
  users : windowUsers t i = windowUsers s i

theorem windowWritten_writes (s : State) (i : Nat) (w : Window) : WindowWritten s (windowWritten s i w) i w := by
  obtain ⟨xl, mem, ing⟩ := foldl_tdiFault_onlyTdi (windowParts s w.poolBase w.sizeGib) s
  exact ⟨congrArg (fun x : Xlat => kset x.windows i w) xl, mem, congrArg (·.ptes) xl, congrArg (·.windowDrains) xl,
    windowUsers_congr mem ing i⟩

section
variable {s : State} {c : Cmd}

theorem windowSet_legal (number : arg c 0 4 ≤ 1023) (runs : CmdRuns s c windowSetSpec none true) (offset : arg c 4 4 ≤ 131071)
    (pool : arg c 12 4 ≤ 131071) (offsets : arg c 4 4 + arg c 8 4 ≤ 131072) (pools : arg c 12 4 + arg c 8 4 ≤ 131072)
    (apart : ∀ e ∈ s.xl.windows, e.1 ≠ arg c 0 4 → e.2.sizeGib = 0 ∨ arg c 8 4 = 0 ∨ e.2.offsetBase + e.2.sizeGib ≤ arg c 4 4 ∨
      arg c 4 4 + arg c 8 4 ≤ e.2.offsetBase) :
    exec (.windowSet c) s = .next (windowChanged
      (windowWritten (startCmd s c windowSetSpec) (arg c 0 4) ⟨arg c 4 4, arg c 8 4, arg c 12 4⟩) (arg c 0 4) (cmdRef c)) := by
  rw [exec_windowSet, execWindowSet, live_runCmd _ runs]
  refine congrArg Host.Outcome.next ((if_neg ?_).trans rfl)
  simp only [Bool.or_eq_true, decide_eq_true_eq, List.any_eq_true, Bool.and_eq_true, startCmd_xl]
  rintro (high | ⟨e, listed, ⟨⟨other, size⟩, newSize⟩, before, behind⟩)
  · omega
  · have := apart e listed other
    omega

theorem windowClear_legal (number : arg c 0 4 ≤ 1023) (runs : CmdRuns s c windowClearSpec none true) :
    exec (.windowClear c) s = .next (windowChanged
      { startCmd s c windowClearSpec with xl := { s.xl with windows := kdel s.xl.windows (arg c 0 4) } } (arg c 0 4) (cmdRef c)) := by
  rw [exec_windowClear, execWindowClear, live_runCmd _ runs]
  exact congrArg Host.Outcome.next (if_neg (Nat.not_lt.mpr number))

end

/-! ## The obligation -/

/-- Settles O18: AST.CREATE by the place that its table gets, AST.DESTROY and AST.INVALIDATE by the invalidation that runs at once, and the
WINDOW commands by whether requests use the old entry. -/
theorem translationCommands : Obligations.TranslationCommands := by
  refine ⟨fun c s => ⟨fun n loc runs least most vf room free place => ?_, fun n runs least most vf room free => ?_,
      fun a runs found drained front empty => ?_, fun a runs found drained swept front => ?_,
      fun runs number => astInfo_number runs number, fun runs index found => astPteRead_entry runs index found⟩,
    fun c s number => ⟨fun runs offset pool offsets pools apart => ?_, fun runs => ?_⟩⟩
  · have alloc : tableFor s c = (bumpFree (startCmd s c createSpec), loc) := tableAlloc_place place
    refine ⟨_, astCreate_vf runs least most vf room free, ?_⟩
    rw [newAst, alloc]
    exact ⟨⟨_, astOf_addAst_self _ _ _⟩, astOf_addAst_other _ _ _, rfl, rfl, rfl⟩
  · obtain ⟨ptes, mem⟩ := tableAlloc_moved (startCmd s c createSpec) (arg c 0 4)
    exact ⟨_, _, astCreate_vf runs least most vf room free, astOf_addAst_self _ _ _, rfl, rfl, rfl, ptes, mem⟩
  · exact ⟨_, astDestroy_empty runs found drained front empty, rfl, fun e => dropAst_cache, rfl, rfl⟩
  · exact ⟨_, astInvalidate_runs runs found drained swept front, astOf_invalRun found, invalRun_ptes, invalRun_invals, invalRun_mem⟩
  · obtain ⟨windows, mem, ptes, drains, users⟩ :=
      windowWritten_writes (startCmd s c windowSetSpec) (arg c 0 4) ⟨arg c 4 4, arg c 8 4, arg c 12 4⟩
    have run := windowSet_legal number runs offset pool offsets pools apart
    refine ⟨_, windows, mem, ptes, fun idle => ⟨run.trans (congrArg _ (windowChanged_idle (users.trans idle))), drains⟩, fun used => ?_⟩
    rw [run, windowChanged_used (by rwa [users]), users, drains]
    rfl
  · have run := windowClear_legal number runs
    exact ⟨fun idle => run.trans (congrArg _ (windowChanged_idle idle)), fun used => run.trans (congrArg _ (windowChanged_used used))⟩

end Sys2Proof.Machine
end

section
/-! POOL.MAP, POOL.UNMAP and POOL.PROTECT of pages homed here (O19, R979, R980). -/
namespace Sys2Proof.Machine

abbrev mapSpec : CmdSpec :=
  { group := 0x08, verb := 1, pf0 := true, opts := 1, ast := true, acts := .object, args := [(0, 8), (8, 4), (12, 4), (16, 4), (20, 4)] }
abbrev unmapSpec : CmdSpec := { group := 0x08, verb := 2, ast := true, acts := .object, args := [(0, 4)] }
abbrev protectSpec : CmdSpec := { group := 0x08, verb := 3, ast := true, acts := .object, args := [(0, 4), (4, 4)] }

/-! ## The entries of an unmapped and of a protected range (R165, R185) -/

/-- An entry with the permissions that POOL.PROTECT gives (R980). -/
abbrev withPerms (p : Nat) (e : Pte) : Pte := { e with r := p.testBit 0, w := p.testBit 1, a := p.testBit 2 }

theorem invalWrite_unmap_ptes (s : State) (t v n : Nat) :
    (invalWrite s t (.unmap v n)).xl.ptes = (rangeKeys t v n).foldl kdel s.xl.ptes := by
  rw [rangeKeys, List.foldl_map]
  rfl

theorem invalWrite_protect_ptes (s : State) (t v n p : Nat) :
    (invalWrite s t (.protect v n p)).xl.ptes = (rangeKeys t v n).foldl (kmod · · (withPerms p)) s.xl.ptes := by
  rw [rangeKeys, List.foldl_map]
  rfl

section
variable {s : State} {t v n i : Nat} (top : v + n ≤ 2 ^ 18)
include top

theorem pteOf_unmap_inside (sorted : ksorted s.xl.ptes = true) (low : v ≤ i) (high : i < v + n) :
    pteOf (invalWrite s t (.unmap v n)) t i = none := by
  have index : i < 2 ^ 18 := by omega
  rw [pteOf_eq index, invalWrite_unmap_ptes]
  exact kfind_foldl_kdel_self _ _ _ sorted ((pteKey_mem_rangeKeys top index).mpr ⟨rfl, low, high⟩)

theorem pteOf_unmap_outside {k : Nat} (outside : k ≠ t ∨ i < v ∨ v + n ≤ i) (index : i < 2 ^ 18) :
    pteOf (invalWrite s t (.unmap v n)) k i = pteOf s k i := by
  rw [pteOf_eq index, pteOf_eq index, invalWrite_unmap_ptes]
  refine kfind_foldl_kdel_other _ _ _ fun inside => ?_
  obtain ⟨same, low, high⟩ := (pteKey_mem_rangeKeys top index).mp inside
  omega

theorem pteOf_protect_inside (p : Nat) (low : v ≤ i) (high : i < v + n) :
    pteOf (invalWrite s t (.protect v n p)) t i = (pteOf s t i).map (withPerms p) := by
  have index : i < 2 ^ 18 := by omega
  rw [pteOf_eq index, pteOf_eq index, invalWrite_protect_ptes]
  exact kfind_foldl_kmod_self _ _ _ _ (rangeKeys_nodup t v n) ((pteKey_mem_rangeKeys top index).mpr ⟨rfl, low, high⟩)

/-- A range of whole mapped pages is not refused (R980). -/
theorem rangeRefusal_mapped (whole : wholePages s t v n = true) (mapped : ∀ i, v ≤ i → i < v + n → (pteOf s t i).isSome = true) :
    rangeRefusal s t v n = none := by
  have listed : ¬ (decide (2 ^ 18 < v + n) || (natRange v n).any fun i => (pteOf s t i).isNone) = true := by
    simp only [Bool.or_eq_true, decide_eq_true_eq, List.any_eq_true, mem_natRange_iff]
    rintro (high | ⟨i, ⟨low, high⟩, unmapped⟩)
    · omega
    · exact Bool.false_ne_true ((Option.isSome_eq_false_iff.mpr unmapped).symm.trans (mapped i low high))
  rw [rangeRefusal, whole]
  exact if_neg listed

end

theorem pteOf_congr {s u : State} (h : u.xl.ptes = s.xl.ptes) (k i : Nat) : pteOf u k i = pteOf s k i := by
  simp only [pteOf, h]

/-! ## The commands -/

section
variable {s : State} {c : Cmd} {a : Ast} (found : astOf s c.ast.toNat = some a) (whole : c.addr0.toNat % GiB = 0)
include found whole

/-- POOL.MAP of one gigabyte that passes every check, with the references that its home here adds (R979). -/
theorem poolMap_here {u : State} (runs : CmdRuns s c mapSpec (astPart s c.ast.toNat) true) (size : arg c 8 4 = 1)
    (pool : arg c 0 8 % GiB = 0) (poolTop : arg c 0 8 < 2 ^ 47) (perms : arg c 12 4 ≤ 7) (least : 1 ≤ arg c 20 4) (most : arg c 20 4 ≤ 3)
    (reach : c.addr0.toNat / GiB < tableEntries a) (allowed : classRefusal s a.partition (arg c 16 4) = none)
    (unmapped : pteOf s c.ast.toNat (c.addr0.toNat / GiB) = none)
    (apart : hdmClash (writePage (startCmd s c mapSpec) c.ast.toNat (c.addr0.toNat / GiB) 1 (arg c 0 8 / GiB) (arg c 12 4)) = false)
    (home : homeOf s (arg c 0 8) = some (selfNode s))
    (adds : homeAdds (startCmd s c mapSpec) [arg c 0 8 / GiB] (arg c 16 4) (arg c 20 4) a.partition (opt c 0) = .inl u) :
    exec (.poolMap c) s = .next
      (complete (writePage u c.ast.toNat (c.addr0.toNat / GiB) 1 (arg c 0 8 / GiB) (arg c 12 4)) (cmdRef c) 0 0 []) := by
  have legal : ¬ ((arg c 8 4 ≠ 1 && arg c 8 4 ≠ 32) || c.addr0.toNat % (arg c 8 4 * GiB) ≠ 0 || arg c 0 8 % (arg c 8 4 * GiB) ≠ 0 ||
      arg c 20 4 = 0 || decide (3 < arg c 20 4) || decide (7 < arg c 12 4) || decide (2 ^ 47 ≤ arg c 0 8)) = true := by
    simp only [size, one_mul, whole, pool, Bool.or_eq_true, Bool.and_eq_true, decide_eq_true_eq]
    omega
  rw [exec_poolMap, execPoolMap]
  refine (live_runCmd (obj := (astPart · _)) _ runs).trans (congrArg Host.Outcome.next ((if_neg legal).trans ?_))
  have fits : ¬ tableEntries a < c.addr0.toNat / GiB + 1 := Nat.not_lt.mpr reach
  simp only [astOf_startCmd, found, size, fits, if_false, classRefusal_startCmd, allowed, natRange, List.any_cons, List.any_nil,
    pteOf_startCmd, unmapped, Option.isSome_none, Bool.or_false, Bool.false_eq_true, apart, Bool.and_false, homeOf_startCmd, home,
    selfNode_startCmd, if_true, adds, stOk]

section
variable (size : 0 < arg c 0 4) (drained : a.draining = false) (swept : a.sweeping = false)
  (front : ∀ w ∈ s.xl.invals, w.ast = c.ast.toNat → w.running = true)
include size drained swept front

/-- The invalidation of a range of pages, where it may run (R186, R980). -/
theorem changeRange_runs {kind : Nat → InvalKind} (kept : kind (c.addr0.toNat / GiB) ≠ .destroy)
    (legal : invalRefusal s ⟨c.ast.toNat, kind (c.addr0.toNat / GiB), false, [], some (cmdRef c)⟩ = none) :
    changeRange s c (arg c 0 4) kind false = settle hooks (invalRun s c.ast.toNat (kind (c.addr0.toNat / GiB)) (cmdRef c)) := by
  rw [← invalidate_runs found drained swept front kept legal]
  exact (if_neg (by simp [found])).trans ((if_neg Bool.false_ne_true).trans ((if_neg size.ne').trans (if_neg (not_not.mpr whole))))

variable (top : c.addr0.toNat / GiB + arg c 0 4 ≤ 2 ^ 18)
  (pages : wholePages s c.ast.toNat (c.addr0.toNat / GiB) (arg c 0 4) = true)
  (mapped : ∀ i, c.addr0.toNat / GiB ≤ i → i < c.addr0.toNat / GiB + arg c 0 4 → (pteOf s c.ast.toNat i).isSome = true)
include top pages mapped

theorem poolUnmap_runs (runs : CmdRuns s c unmapSpec (astPart s c.ast.toNat) (astMine s c c.ast.toNat)) :
    exec (.poolUnmap c) s = .next (settle hooks (invalRun (startCmd s c unmapSpec) c.ast.toNat
      (.unmap (c.addr0.toNat / GiB) (arg c 0 4)) (cmdRef c))) := by
  rw [exec_poolUnmap, execPoolUnmap]
  refine (live_runCmd (obj := (astPart · _)) (mine := (astMine · c _)) _ runs).trans (congrArg Host.Outcome.next ?_)
  exact changeRange_runs (s := startCmd s c unmapSpec) found whole size drained swept front nofun
    ((invalRefusal_unmap found _ _ _ _).trans (rangeRefusal_mapped top pages mapped))

theorem poolProtect_runs (runs : CmdRuns s c protectSpec (astPart s c.ast.toNat) (astMine s c c.ast.toNat)) (perms : arg c 4 4 ≤ 7) :
    exec (.poolProtect c) s = .next (settle hooks (invalRun (startCmd s c protectSpec) c.ast.toNat
      (.protect (c.addr0.toNat / GiB) (arg c 0 4) (arg c 4 4)) (cmdRef c))) := by
  have legal : decide (7 < arg c 4 4) = false := decide_eq_false (Nat.not_lt.mpr perms)
  rw [exec_poolProtect, execPoolProtect]
  refine (live_runCmd (obj := (astPart · _)) (mine := (astMine · c _)) _ runs).trans (congrArg Host.Outcome.next ?_)
  rw [legal]
  exact changeRange_runs (s := startCmd s c protectSpec) found whole size drained swept front nofun
    ((invalRefusal_protect found _ _ _ _ _).trans (rangeRefusal_mapped top pages mapped))

end

end

/-- Settles O19: the invalidation of POOL.UNMAP and of POOL.PROTECT runs at once, and the keys of its range are written once each. -/
theorem pageCommands : Obligations.PageCommands := by
  intro c a s found whole
  refine ⟨fun u runs size pool poolTop perms least most reach allowed unmapped apart home adds =>
      poolMap_here found whole runs size pool poolTop perms least most reach allowed unmapped apart home adds,
    fun runs drained swept front top size pages mapped sorted => ?_, fun runs drained swept front top size perms pages mapped => ?_⟩
  · refine ⟨_, poolUnmap_runs found whole size drained swept front top pages mapped runs, fun i low high => ?_,
      fun k i outside index => ?_, astOf_invalRun found, invalRun_mem⟩
    · exact (pteOf_congr invalRun_ptes _ _).trans (pteOf_unmap_inside top sorted low high)
    · exact (pteOf_congr invalRun_ptes _ _).trans (pteOf_unmap_outside top outside index)
  · refine ⟨_, poolProtect_runs found whole size drained swept front top pages mapped runs perms, fun i e low high entry => ?_,
      astOf_invalRun found, invalRun_mem⟩
    exact (pteOf_congr invalRun_ptes _ _).trans ((pteOf_protect_inside top _ low high).trans (congrArg _ entry))

end Sys2Proof.Machine
end

section
/-! An agent that fails (R233, R234, R235): its mark, and what telling of it leaves as it is. -/
namespace Sys2Proof.Machine

theorem xchgAll_quiet (payload : List Byte) (ns : List Nat) (s : State) : Quiet s (xchgAll payload ns s) := by
  induction ns generalizing s with
  | nil => exact Quiet.refl s
  | cons n ns ih => exact (sendMgmt_getD_quiet s 0x89 n payload).trans (ih _)

/-- A failure that another home told of is not told on (R233). -/
theorem xchgUnless_quiet (told : Prop) [Decidable told] (payload : List Byte) (ns : List Nat) (s : State) :
    Quiet s (if told then s else xchgAll payload ns s) := by
  split
  · exact Quiet.refl s
  · exact xchgAll_quiet payload ns s

/-- An agent marked failed, before anyone is told: its FAILED bit, its sweep, and the reset that its node owes (R234, R235). -/
def agentMark (s : State) (d a node cause : Nat) : State :=
  let t := setField (modDom s d fun x => { x with failed := insertRising a x.failed }) (rDomain d) (32 + a) 1 1
  { t with coh := { t.coh with sweeps := s.coh.sweeps ++ [(d, a)],
                               unreset := if cause = 2 || s.coh.unreset.contains (d, node) then s.coh.unreset
                                          else s.coh.unreset ++ [(d, node)] } }

theorem domOf_congr {s t : State} (h : t.coh = s.coh) (d : Nat) : domOf t d = domOf s d := by
  rw [domOf, domOf, h]

section
variable (s : State) (d a node cause : Nat)

theorem domOf_agentMark_self : domOf (agentMark s d a node cause) d =
    (domOf s d).map fun x => { x with failed := insertRising a x.failed } :=
  kfind_kmod_self _ _ _

theorem domOf_agentMark_other {e : Nat} (h : e ≠ d) : domOf (agentMark s d a node cause) e = domOf s e :=
  kfind_kmod_other _ _ _ _ h

theorem regField_agentMark : regField (agentMark s d a node cause) (rDomain d) (32 + a) 1 = 1 :=
  regField_setField_self (modDom s d fun x => { x with failed := insertRising a x.failed }) (rDomain d) (32 + a) 1 1

/-- Reports, messages and scores of the health table are all that a failure adds to the mark. -/
theorem agentFail_quiet {x : Domain} (found : domOf s d = some x) (member : kfind x.members a = some node)
    (working : x.failed.contains a = false) : Quiet (agentMark s d a node cause) (agentFail s d a cause) := by
  simp only [agentFail, found, member, working, Bool.false_eq_true, if_false]
  refine Quiet.trans (Quiet.trans ?_ (report_quiet _ _ _ _ _)) (xchgUnless_quiet _ _ _ _)
  split
  · exact penal_quiet _ _ _
  · exact Quiet.refl _

end
end Sys2Proof.Machine
end

section
/-! Coherence events (O21): snoop answers, tenure, timeouts and sweeps at the home (R212, R224, R227, R231, R232), combining
windows and hot lines at the ingress (R245, R248, R251, R252). -/
namespace Sys2Proof.Machine

/-! ## Events of a line at its home -/

section
variable {r : Resp} {s : State} (run : running s = true) (known : discardUnknown s r.lport = false) (ok : respOk r = true)
  (result : snoopResultOk r = true)
include run known ok result

theorem snoopAnswer_home (accepted : r.status = 0) (home : r.dst.toNat = selfNode s) :
    exec (.snoopAnswer r) s = .next (checkQuar (settle hooks (snoopAnswer s r)) r.lport) := by
  rw [exec_snoopAnswer, execSnoopAnswer, live_running _ run]
  simp only [known, ok, result, accepted, home, ne_eq, not_true_eq_false, Bool.not_true, Bool.or_self, Bool.false_eq_true, if_false]

theorem snoopAnswer_refused (refused : r.status ≠ 0) :
    exec (.snoopAnswer r) s = .next (checkQuar (violatePkt (bump s .snoopDrop) r.lport 7 (.resp r)) r.lport) := by
  rw [exec_snoopAnswer, execSnoopAnswer, live_running _ run]
  simp only [known, ok, result, refused, ne_eq, not_false_eq_true, Bool.not_true, Bool.or_self, Bool.false_eq_true, if_false, if_true]

end

section
variable {line t b : Nat} {x : Txn} {s : State} (run : running s = true)
include run

theorem tenureEnd_waiting (tenure : (lineOf s line).tenure = some (t, b)) (txn : (lineOf s line).txn = some x)
    (waits : x.waitTenure = true) : exec (.tenureEnd line) s = .next (settle hooks (lineSnoop (untilTime s t) line)) := by
  rw [exec_tenureEnd, execTenureEnd, live_running _ run]
  simp only [tenure, txn, waits, if_true]

theorem homeTimeout_awaiting (txn : (lineOf s line).txn = some x) (awaits : x.awaiting ≠ []) (sent : x.waitTenure = false) :
    exec (.homeTimeout line) s = .next (settle hooks (dropAwaited
      (x.awaiting.foldl (fun t a => agentFail t (lineOf s line).domain a 0) (untilTime s x.deadline)) line fun _ => true)) := by
  rw [exec_homeTimeout, execHomeTimeout, live_running _ run]
  simp [lineTimeout, txn, awaits, sent]

end

/-- The sweep after an agent failed is owed no more (R232). -/
def sweepTaken (s : State) (d a : Nat) : State :=
  { s with coh := { s.coh with sweeps := s.coh.sweeps.filter (· ≠ (d, a)) } }

/-- A sweep that is owed and finds no uncorrectable entry: no line of the domain awaits the agent. -/
theorem sweepAgent_owed {s : State} {d a : Nat} (owed : s.coh.sweeps.contains (d, a) = true) :
    sweepAgent s d a [] = ((sweepTaken s d a).coh.lines.filter fun e => (lineOf (sweepTaken s d a) e.1).domain = d).foldl
      (fun s e => dropAwaited s e.1 (· = a)) (sweepTaken s d a) :=
  if_neg (by simp only [List.filter_nil, List.foldl_nil, owed, Bool.not_true, Bool.false_eq_true, not_false_eq_true])

/-! ## The ingress -/

/-- In a sorted map a predicate that holds of one key's entry alone selects this entry. -/
theorem filter_eq_of_kfind {α : Type} {m : List (Nat × α)} {k : Nat} {v : α} (p : Nat × α → Bool) (sorted : ksorted m = true)
    (found : kfind m k = some v) (holds : p (k, v) = true) (others : ∀ e ∈ m, e.1 ≠ k → p e = false) : m.filter p = [(k, v)] := by
  induction m with
  | nil => cases found
  | cons e m ih =>
    obtain ⟨j, w⟩ := e
    by_cases same : j = k
    · subst same
      obtain rfl : w = v := by simpa [kfind] using found
      have rest : m.filter p = [] := List.filter_eq_nil_iff.mpr fun e he => by
        have later : j < e.1 := ksorted_lt j w m sorted e he
        simp [others e (List.mem_cons_of_mem _ he) later.ne']
      rw [List.filter_cons_of_pos holds, rest]
    · have skipped : ¬ p (j, w) = true := by simp [others (j, w) List.mem_cons_self same]
      rw [List.filter_cons_of_neg skipped]
      exact ih (ksorted_tail _ m sorted) (by simpa [kfind, same] using found) fun e he => others e (List.mem_cons_of_mem _ he)

/-- The oldest STORE held on a line that no other line holds is ready, where no older one is outstanding. -/
theorem hotReady_alone {s : State} {k id : Nat} {h : HotLine} {rest : List Nat} (sorted : ksorted s.coh.hot = true)
    (found : kfind s.coh.hot k = some h) (free : h.outstanding = none) (held : h.held = id :: rest)
    (alone : ∀ e ∈ s.coh.hot, e.1 ≠ k → e.2.held.contains id = false) (oldest : storeOut s k id = none) :
    hotReady s k = some (id, [k]) := by
  have lines : (s.coh.hot.filter fun e => e.2.held.contains id) = [(k, h)] :=
    filter_eq_of_kfind _ sorted found (by simp [held]) alone
  simp only [hotReady, found, Option.bind_some, held, List.head?_cons, lines]
  simp [found, held, oldest, free]

/-- A hot line whose oldest STORE has been sent at the present time. -/
def hotSent (s : State) (k id : Nat) : State :=
  { s with coh := { s.coh with hot := kmod s.coh.hot k fun x =>
      { x with lastSend := s.clk, outstanding := some id, held := x.held.drop 1 } } }

theorem kfind_hotSent_self {s : State} {k id : Nat} {h : HotLine} {rest : List Nat} (found : kfind s.coh.hot k = some h)
    (held : h.held = id :: rest) :
    kfind (hotSent s k id).coh.hot k = some { h with lastSend := s.clk, outstanding := some id, held := rest } := by
  simp [hotSent, found, held]

theorem kfind_hotSent_other (s : State) (k id : Nat) {j : Nat} (other : j ≠ k) :
    kfind (hotSent s k id).coh.hot j = kfind s.coh.hot j :=
  kfind_kmod_other _ _ _ _ other

section
variable {k : Nat} {s : State} (run : running s = true)
include run

theorem combineWindowEnd_open {g : Group} (found : kfind s.coh.groups k = some g) (unsent : g.sent = false) :
    exec (.combineWindowEnd k) s = .next (settle hooks (groupSend (untilTime s (g.start + readWindow s)) k)) := by
  rw [exec_combineWindowEnd, execCombineWindowEnd, live_running _ run]
  simp only [found, unsent, Bool.false_eq_true, if_false]

theorem hotLineSend_ready {h : HotLine} {id : Nat} (found : kfind s.coh.hot k = some h) (ready : hotReady s k = some (id, [k])) :
    exec (.hotLineSend k) s =
      .next (settle hooks (sendParts hooks (hotSent (untilTime s (h.lastSend + storeWindow s)) k id) id)) := by
  rw [exec_hotLineSend, execHotLineSend, live_running _ run]
  simp only [ready, List.foldl_cons, List.foldl_nil, found, Option.map_some, Option.getD_some, Nat.zero_max]
  rfl

theorem hotLineExpire_idle {h : HotLine} (found : kfind s.coh.hot k = some h) (free : h.outstanding = none) (empty : h.held = []) :
    exec (.hotLineExpire k) s = .next
      (let t := untilTime s (h.idle + storeWindow s)
       { t with coh := { t.coh with hot := kdel t.coh.hot k } }) := by
  rw [exec_hotLineExpire, execHotLineExpire, live_running _ run]
  simp only [found, free, empty, Option.isNone_none, List.isEmpty_nil, Bool.and_self, if_true]

end

/-- Settles O21, event by event. -/
theorem coherenceEvents : Obligations.CoherenceEvents := by
  refine ⟨fun line d a r s run => ⟨fun known ok accepted result home => snoopAnswer_home run known ok result accepted home,
      fun known ok result refused => ?_, fun t b x tenure txn waits => ?_, fun x txn awaits sent => ?_, fun owed => ?_⟩,
    fun k s run => ⟨fun g found unsent => ?_, fun h id rest sorted found free held alone oldest => ?_, fun h found free held => ?_⟩⟩
  · have same := violate_sameTables (bump s .snoopDrop) r.lport 7 (Packet.resp r).header (Packet.resp r).size
    refine ⟨_, snoopAnswer_refused run known ok result refused, ?_, same.coh, same.mem⟩
    exact (ctr_violate _ _ _ _ _ .snoopDrop nofun nofun).trans (ctr_bump_self s .snoopDrop)
  · exact ⟨_, tenureEnd_waiting run tenure txn waits, untilTime_clk s t, untilTime_coh s t, untilTime_mem s t⟩
  · exact ⟨_, homeTimeout_awaiting run txn awaits sent, untilTime_clk s _, untilTime_coh s _, untilTime_mem s _⟩
  · refine ⟨_, ?_, rfl⟩
    rw [exec_directorySweep, execDirectorySweep, live_running _ run, sweepAgent_owed owed]
    rfl
  · exact ⟨_, combineWindowEnd_open run found unsent, untilTime_clk s _, untilTime_coh s _, untilTime_ing s _, untilTime_mem s _⟩
  · have stands := untilTime_coh s (h.lastSend + storeWindow s)
    refine ⟨_, hotLineSend_ready run found (hotReady_alone sorted found free held alone oldest), untilTime_clk s _,
      kfind_hotSent_self (by rw [stands, found]) held, fun j other => ?_, untilTime_ing s _, untilTime_mem s _⟩
    rw [kfind_hotSent_other _ k id other, stands]
  · refine ⟨_, hotLineExpire_idle run found free held, untilTime_clk s _, ?_, untilTime_ing s _, untilTime_mem s _⟩
    simp only [untilTime_coh]

end Sys2Proof.Machine
end

section
/-! The DOMAIN commands (O22, R199 to R202, R234, R986), each where it is carried out. -/
namespace Sys2Proof.Machine

abbrev domCreateSpec : CmdSpec := domSpec 1 [(0, 4)] .field 0
abbrev domDestroySpec : CmdSpec := domSpec 2 [(0, 4)] .object 0
abbrev domAddAgentSpec : CmdSpec := domSpec 3 [(0, 4), (4, 4), (8, 4)] .object 0
abbrev domRemoveAgentSpec : CmdSpec := domSpec 4 [(0, 4), (4, 4)] .object 0
abbrev domSetRangeSpec : CmdSpec := domSpec 5 [(0, 4), (4, 4)] .object 1

@[simp] theorem domOf_startCmd (s : State) (c : Cmd) (sp : CmdSpec) (d : Nat) : domOf (startCmd s c sp) d = domOf s d := rfl
@[simp] theorem startCmd_coh (s : State) (c : Cmd) (sp : CmdSpec) : (startCmd s c sp).coh = s.coh := rfl
@[simp] theorem homedHere_startCmd (s : State) (c : Cmd) (sp : CmdSpec) (p : Nat) : homedHere (startCmd s c sp) p = homedHere s p := rfl
@[simp] theorem gibShared_startCmd (s : State) (c : Cmd) (sp : CmdSpec) (g : Nat) : gibShared (startCmd s c sp) g = gibShared s g := rfl

theorem domLives_of_found {s : State} {d : Nat} {x : Domain} (found : domOf s d = some x) (lives : x.destroying = none) :
    domLives s d = true := by
  simp [domLives, found, lives]

/-! ## Creation and destruction -/

/-- The word of DOMAIN_d for a new domain: enabled, of a partition, no agent failed. -/
def newDomainWord (old part : Nat) : Nat := setBits (setBits (setBits old 0 1 1) 20 10 part) 32 32 0

theorem bits_newDomainWord (old part : Nat) (small : part < 2 ^ 10) :
    bits (newDomainWord old part) 0 1 = 1 ∧ bits (newDomainWord old part) 20 10 = part ∧ bits (newDomainWord old part) 32 32 = 0 := by
  unfold newDomainWord
  refine ⟨?_, ?_, bits_setBits_self _ _ _ _⟩
  · rw [bits_setBits_other _ _ _ _ _ _ (by omega), bits_setBits_other _ _ _ _ _ _ (by omega), bits_setBits_self]
    rfl
  · rw [bits_setBits_other _ _ _ _ _ _ (by omega), bits_setBits_self, Nat.mod_eq_of_lt small]

/-- A domain created, and its register written. -/
def domainCreated (s : State) (d part : Nat) : State :=
  putReg { s with coh := { s.coh with domains := kset s.coh.domains d { partition := part } } } (rDomain d)
    (newDomainWord (regWord s (rDomain d)) part)

theorem domainCreate_runs {s : State} {c : Cmd} (runs : CmdRuns s c domCreateSpec none true) (index : arg c 0 4 ≤ 63)
    (absent : domOf s (arg c 0 4) = none) :
    exec (.domainCreate c) s =
      .next (complete (domainCreated (startCmd s c domCreateSpec) (arg c 0 4) c.partition.toNat) (cmdRef c) 0 0 []) := by
  rw [exec_domainCreate, execDomainCreate, live_runCmd (obj := fun _ => none) (mine := fun _ => true) _ runs]
  simp only [domOf_startCmd, absent, Nat.not_lt.mpr index, Option.isSome_none, Bool.false_eq_true, if_false]
  rfl

/-- A domain whose destruction runs, without its ranges (R202). -/
def domainLeaving (s : State) (d : Nat) (r : CmdRef) : State :=
  let t := modDom s d fun x => { x with destroying := some [r] }
  { t with coh := { t.coh with ranges := s.coh.ranges.filter fun e => e.2 ≠ d } }

section
variable {s : State} {c : Cmd} {x : Domain} (found : domOf s (arg c 0 4) = some x) (lives : x.destroying = none)
include found lives

theorem domainDestroy_runs (runs : CmdRuns s c domDestroySpec (domPart s c) true) :
    exec (.domainDestroy c) s = .next (settle hooks (leaveLines (domainLeaving (startCmd s c domDestroySpec) (arg c 0 4) (cmdRef c))
      fun n _ => kfind s.coh.ranges (n * 64 / GiB) = some (arg c 0 4))) := by
  rw [exec_domainDestroy, execDomainDestroy, live_runCmd (obj := (domPart · c)) (mine := fun _ => true) _ runs]
  simp only [domOf_startCmd, found, lives]
  rfl

/-! ## Agents -/

theorem domainRemoveAgent_runs {n : Nat} (runs : CmdRuns s c domRemoveAgentSpec (domPart s c) true)
    (member : kfind x.members (arg c 4 4) = some n) :
    exec (.domainRemoveAgent c) s =
      .next (complete (agentFail (startCmd s c domRemoveAgentSpec) (arg c 0 4) (arg c 4 4) 1) (cmdRef c) 0 0 []) := by
  have here : domLives (startCmd s c domRemoveAgentSpec) (arg c 0 4) = true := domLives_of_found found lives
  rw [exec_domainRemoveAgent, execDomainRemoveAgent, live_runCmd (obj := (domPart · c)) (mine := fun _ => true) _ runs]
  simp [here, found, member]

end

/-- No line of a domain counts as granted to an agent: its node is new at its index (R211). -/
def ungranted (s : State) (d i : Nat) : State :=
  { s with coh := { s.coh with lines := s.coh.lines.map fun e =>
      if (lineOf s e.1).domain = d then (e.1, { e.2 with granted := e.2.granted.filter (· ≠ i) }) else e } }

/-- A node is the agent at an index, which counts as failed no more. -/
def joined (s : State) (d i node : Nat) : State :=
  modDom s d fun x => { x with members := kset x.members i node, failed := x.failed.filter (· ≠ i) }

section
variable {s : State} {c : Cmd} {x : Domain} (found : domOf s (arg c 0 4) = some x) (lives : x.destroying = none)
include found lives

theorem domainAddAgent_runs (runs : CmdRuns s c domAddAgentSpec (domPart s c) true) (index : arg c 4 4 ≤ 31)
    (node : arg c 8 4 < 0x7FFF) (single : ∀ m ∈ x.members, m.2 ≠ arg c 8 4) (vacant : kfind x.members (arg c 4 4) = none)
    (allowed : agentMemberOk (startCmd s c domAddAgentSpec) x (arg c 8 4) = true) :
    exec (.domainAddAgent c) s = .next (complete (setField
      (joined (ungranted (settle hooks (sweepAgent (startCmd s c domAddAgentSpec) (arg c 0 4) (arg c 4 4) [])) (arg c 0 4) (arg c 4 4))
        (arg c 0 4) (arg c 4 4) (arg c 8 4)) (rDomain (arg c 0 4)) (32 + arg c 4 4) 1 0) (cmdRef c) 0 0 []) := by
  have legal : (decide (31 < arg c 4 4) || decide (noNode ≤ arg c 8 4)) = false := by
    simp only [Bool.or_eq_false_iff, decide_eq_false_iff_not, noNode]
    omega
  have once : (x.members.any fun m => m.2 = arg c 8 4 && m.1 ≠ arg c 4 4) = false :=
    List.any_eq_false.mpr fun m h => by simp [single m h]
  rw [exec_domainAddAgent, execDomainAddAgent, live_runCmd (obj := (domPart · c)) (mine := fun _ => true) _ runs]
  simp only [domOf_startCmd, found, lives, legal, once, vacant, allowed, Option.isSome_none, Bool.false_and, Bool.not_true,
    Bool.false_eq_true, if_false, reduceCtorEq, decide_false]
  rfl

/-! ## Ranges -/

theorem domainSetRange_adds (runs : CmdRuns s c domSetRangeSpec (domPart s c) true) (gib : arg c 4 4 < 131072) (add : opt c 0 = false)
    (free : kfind s.coh.ranges (arg c 4 4) = none) (home : homedHere s (arg c 4 4 * GiB) = true)
    (unshared : gibShared s (arg c 4 4) = false) (stays : ∀ e ∈ s.coh.leaving, e.1 ≠ arg c 4 4) :
    exec (.domainSetRange c) s = .next (complete
      { startCmd s c domSetRangeSpec with coh := { s.coh with ranges := kset s.coh.ranges (arg c 4 4) (arg c 0 4) } }
      (cmdRef c) 0 0 []) := by
  have here : domLives (startCmd s c domSetRangeSpec) (arg c 0 4) = true := domLives_of_found found lives
  have settled : (s.coh.leaving.any fun e => e.1 = arg c 4 4) = false :=
    List.any_eq_false.mpr fun e h => by simp [stays e h]
  rw [exec_domainSetRange, execDomainSetRange, live_runCmd (obj := (domPart · c)) (mine := fun _ => true) _ runs]
  simp only [here, add, Nat.not_le.mpr gib, startCmd_coh, free, homedHere_startCmd, home, gibShared_startCmd, unshared, settled,
    Bool.not_true, Bool.or_self, Bool.false_eq_true, if_false]

theorem domainSetRange_removes (runs : CmdRuns s c domSetRangeSpec (domPart s c) true) (gib : arg c 4 4 < 131072) (remove : opt c 0 = true)
    (mapped : kfind s.coh.ranges (arg c 4 4) = some (arg c 0 4)) :
    exec (.domainSetRange c) s = .next (settle hooks (leaveLines
      { startCmd s c domSetRangeSpec with
          coh := { s.coh with ranges := kdel s.coh.ranges (arg c 4 4), leaving := s.coh.leaving ++ [(arg c 4 4, cmdRef c)] } }
      fun n _ => n * 64 / GiB = arg c 4 4)) := by
  have here : domLives (startCmd s c domSetRangeSpec) (arg c 0 4) = true := domLives_of_found found lives
  rw [exec_domainSetRange, execDomainSetRange, live_runCmd (obj := (domPart · c)) (mine := fun _ => true) _ runs]
  simp only [here, remove, Nat.not_le.mpr gib, startCmd_coh, mapped, ne_eq, not_true_eq_false, Bool.not_true, Bool.false_eq_true,
    if_false, if_true]

end

/-- Settles O22, one command after another. -/
theorem domainCommands : Obligations.DomainCommands := by
  refine fun c s => ⟨fun runs index absent => ?_, fun x runs found lives => ?_,
    fun x runs found lives index node single vacant allowed =>
      ⟨_, domainAddAgent_runs found lives runs index node single vacant allowed, ?_⟩,
    fun x n runs found lives member => domainRemoveAgent_runs found lives runs member,
    fun x runs found lives gib => ⟨domainSetRange_adds found lives runs gib, domainSetRange_removes found lives runs gib⟩⟩
  · obtain ⟨enabled, part, failed⟩ := bits_newDomainWord (regWord s (rDomain (arg c 0 4))) c.partition.toNat c.partition.isLt
    have word : regWord (domainCreated (startCmd s c domCreateSpec) (arg c 0 4) c.partition.toNat) (rDomain (arg c 0 4)) =
      newDomainWord (regWord s (rDomain (arg c 0 4))) c.partition.toNat := regWord_putReg_self _ _ _
    refine ⟨_, domainCreate_runs runs index absent, kfind_kset_self _ _ _, ?_, ?_, ?_, fun e other => kfind_kset_other _ _ _ _ other,
      rfl, rfl, rfl⟩
    · rw [regField, word, enabled]
    · rw [regField, word, part]
    · rw [regField, word, failed]
  · refine ⟨_, domainDestroy_runs found lives runs, (kfind_kmod_self _ _ _).trans ?_, rfl, rfl, rfl⟩
    exact congrArg (Option.map _) found
  · unfold joined ungranted domAddAgentSpec
    rfl

end Sys2Proof.Machine
end

section
/-! Host bridges (R238 to R241) and an agent that fails (R234): O23. -/
namespace Sys2Proof.Machine

/-! ## Requests of the host -/

/-- The Jarti operation that a request of the host becomes; a cached read of a line of a foreign domain is a plain one (R239, R240). -/
def hostOp (far : Bool) : CxlReq → Op
  | .readI => .load
  | .readS => if far then .load else .rdShared
  | .readA => if far then .load else .rdOwn
  | .memInv => .upgrade
  | .clnEvct => .evictClean

theorem freeTag_hostDrops (s : State) (b : Nat) (line : Option Nat) : freeTag (hostDrops s b line) b = freeTag s b := by
  cases line <;> rfl

theorem hostHolds_none {s : State} {b : Nat} {line : Option Nat} (unheld : line = none ∨ s.coh.hostHeld = []) :
    (line.map fun n => s.coh.hostHeld.contains (heldKey b n)).getD false = false := by
  rcases unheld with rfl | empty
  · rfl
  · cases line <;> simp [empty]

section
variable {b hpa tag : Nat} {d : HdmDecoder} {s : State} (run : running s = true) (decoded : decoderOf s b hpa = some d)
  (up : bridgeUp s b = true)
include run decoded up

/-- A request of the host is converted under a free tag, unless it asks for what a foreign domain's line does not have. -/
theorem cxlM2sReq_converts {kind : CxlReq} (kept : kind ≠ .clnEvct)
    (cached : (foreignLine s b (hdmLine s d hpa) && kind = .memInv) = false) :
    exec (.cxlM2sReq b kind hpa tag) s = .next (bridgeReq (noteHost s b tag [freeTag s b]) b d
      (hostOp (foreignLine s b (hdmLine s d hpa)) kind) (hdmVa d hpa / 64 * 64) (freeTag s b) 64 []) := by
  rw [exec_cxlM2sReq, execCxlM2sReq, live_running _ run]
  simp only [decoded, up, kept, cached, Bool.not_true, Bool.false_eq_true, if_false, decide_false, Bool.or_false]
  cases kind <;> rfl

theorem cxlM2sReq_memInv_far (far : foreignLine s b (hdmLine s d hpa) = true) :
    exec (.cxlM2sReq b .memInv hpa tag) s = .next (emit s (.cxl b (.cmp tag 0 0))) := by
  rw [exec_cxlM2sReq, execCxlM2sReq, live_running _ run]
  simp [decoded, up, far]

/-- An eviction to a line of the bridge's own domain: the host holds the line no more. -/
theorem cxlM2sReq_clnEvct_near (near : foreignLine s b (hdmLine s d hpa) = false) :
    exec (.cxlM2sReq b .clnEvct hpa tag) s = .next (bridgeReq (noteHost (hostDrops s b (hdmLine s d hpa)) b tag [freeTag s b]) b d
      .evictClean (hdmVa d hpa / 64 * 64) (freeTag s b) 64 []) := by
  rw [exec_cxlM2sReq, execCxlM2sReq, live_running _ run]
  simp [decoded, up, near, freeTag_hostDrops]

section
variable {n : Nat} {mask : BitVec 64} {data : List Byte}

theorem cxlM2sRwd_held (line : hdmLine s d hpa = some n) (held : s.coh.hostHeld.contains (heldKey b n) = true) :
    exec (.cxlM2sRwd b hpa tag mask data) s = .next (bridgeReq (noteHost (hostDrops s b (hdmLine s d hpa)) b tag [freeTag s b]) b d
      .wbDirty (hdmVa d hpa / 64 * 64) (freeTag s b) 64 (sliceBytes data 0 64)) := by
  rw [exec_cxlM2sRwd, execCxlM2sRwd, live_running _ run]
  simp only [decoded, up, line, held, Option.map_some, Option.getD_some, Bool.not_true, Bool.false_eq_true, if_false, if_true]

variable (unheld : hdmLine s d hpa = none ∨ s.coh.hostHeld = [])
include unheld

theorem cxlM2sRwd_noBytes (empty : runsOf mask = []) :
    exec (.cxlM2sRwd b hpa tag mask data) s = .next (emit s (.cxl b (.cmp tag 0 0))) := by
  rw [exec_cxlM2sRwd, execCxlM2sRwd, live_running _ run]
  simp only [decoded, up, hostHolds_none unheld, empty, Bool.not_true, Bool.false_eq_true, if_false]

theorem cxlM2sRwd_oneRun {r : Nat × Nat} (one : runsOf mask = [r]) :
    exec (.cxlM2sRwd b hpa tag mask data) s = .next (bridgeReq (noteHost s b tag [freeTag s b]) b d .store
      (hdmVa d hpa / 64 * 64 + r.1) (freeTag s b) r.2 (sliceBytes data r.1 r.2)) := by
  rw [exec_cxlM2sRwd, execCxlM2sRwd, live_running _ run]
  simp only [decoded, up, hostHolds_none unheld, one, Bool.not_true, Bool.false_eq_true, if_false]
  simp [freeTag]

end

end

/-! ## Snoops of the host's cache (R240, R241) -/

/-- A back-invalidate snoop answered: it waits no more, and the host does not hold the line. -/
def biAnswered (s : State) (b n : Nat) (x : BiSnoop) : State :=
  hostDrops { s with coh := { s.coh with biSnoops := s.coh.biSnoops.erase x } } b (some n)

/-- The snoop answer of a host that keeps no copy and writes nothing back. -/
def biResp (s : State) (b n : Nat) (x : BiSnoop) : Resp :=
  { lport := 512 + b, isData := false, status := 0, reqOpcode := if x.inv then 0x48 else 0x49,
    rspNode := BitVec.ofNat 15 ((lportOf (biAnswered s b n x) (512 + b)).node.getD noNode), dst := BitVec.ofNat 15 x.home,
    tag := BitVec.ofNat 16 x.tag, segCover := 8,
    result := BitVec.ofNat 64 (if s.coh.hostHeld.contains (heldKey b n) then 4 else 0) }

theorem hostHeld_biAnswered (s : State) (b n : Nat) (x : BiSnoop) :
    (biAnswered s b n x).coh.hostHeld.contains (heldKey b n) = false := by
  simp [biAnswered, hostDrops]

section
variable {b hpa n : Nat} {d : HdmDecoder} {x : BiSnoop} {s : State} (run : running s = true) (decoded : decoderOf s b hpa = some d)
  (line : hdmLine s d hpa = some n)
include run decoded line

theorem cxlBiRsp_home (waits : s.coh.biSnoops.find? (fun x => x.bridge = b && x.line = n) = some x) (home : x.home = selfNode s) :
    exec (.cxlBiRsp b hpa false []) s = .next (settle hooks (snoopAnswer (biAnswered s b n x) (biResp s b n x))) := by
  have here : x.home = selfNode (biAnswered s b n x) := home
  rw [exec_cxlBiRsp, execCxlBiRsp, live_running _ run]
  simp only [decoded, Option.bind_some, line, waits]
  refine congrArg Host.Outcome.next ((if_pos here).trans ?_)
  simp [biResp, biAnswered]

theorem cxlBiconflict_waits (waits : x ∈ s.coh.biSnoops) (bridge : x.bridge = b) (same : x.line = n) :
    exec (.cxlBiconflict b hpa) s = .next (emit s (.cxl b (.biConflictAck hpa))) := by
  have awaited : (s.coh.biSnoops.any fun y => y.bridge = b && y.line = n) = true :=
    List.any_eq_true.mpr ⟨x, waits, by simp [bridge, same]⟩
  rw [exec_cxlBiconflict, execCxlBiconflict, live_running _ run]
  simp only [decoded, Option.bind_some, line, awaited, if_true]

end

/-! ## Decoders (R238) -/

/-- A decoder that is committed maps a gigabyte that another of its bridge maps. -/
def decoderClash (s : State) (k b : Nat) (new : HdmDecoder) : Bool :=
  s.coh.decoders.any fun e => e.1 / 16 = b && e.1 ≠ k && (hdmPages s e.2).any fun g => (hdmPages s new).contains g

theorem decoderClash_of_page {s : State} {k b : Nat} {new : HdmDecoder}
    (h : ∃ e ∈ s.coh.decoders, e.1 / 16 = b ∧ e.1 ≠ k ∧ ∃ g ∈ hdmPages s e.2, (hdmPages s new).contains g = true) :
    decoderClash s k b new = true := by
  obtain ⟨e, mem, bridge, other, g, page, twice⟩ := h
  have shared : ((hdmPages s e.2).any fun g => (hdmPages s new).contains g) = true := List.any_eq_true.mpr ⟨g, page, twice⟩
  exact List.any_eq_true.mpr ⟨e, mem, by rw [shared]; simp [bridge, other]⟩

/-- A decoder of no size maps nothing. -/
theorem hdmPages_empty {s : State} {d : HdmDecoder} (h : d.sizeGib = 0) : hdmPages s d = [] := by
  rw [hdmPages, h]
  rfl

theorem decoderClash_none {s : State} {k b : Nat} {new : HdmDecoder} (h : s.coh.decoders = [] ∨ new.sizeGib = 0) :
    decoderClash s k b new = false := by
  rcases h with noDecoder | empty
  · simp [decoderClash, noDecoder]
  · simp [decoderClash, hdmPages_empty empty]

theorem decoderSlot_legal {b index : Nat} (bridge : b < 4) (slot : index < 16) :
    (decide (4 ≤ b) || decide (16 ≤ index)) = false := by
  simp only [Bool.or_eq_false_iff, decide_eq_false_iff_not]
  omega

/-- A partition whose TDI is neither locked nor running has nothing to lose. -/
theorem tdiFault_open {s : State} {n : Nat} (unlocked : (partOf s n).tdi ≠ .locked) (idle : (partOf s n).tdi ≠ .run) :
    tdiFault s n = s := by
  simp [tdiFault, unlocked, idle]

section
variable {b index base size part ast vbase : Nat} {s : State} (run : running s = true) (bridge : b < 4) (slot : index < 16)
include run bridge slot

theorem hdmDecoderWrite_refused (clash : decoderClash s (b * 16 + index) b ⟨base, size, part, ast, vbase⟩ = true) :
    exec (.hdmDecoderWrite b index base size part ast vbase true) s = .next (emit s (.cxl b (.decoderRefused index 6))) := by
  rw [exec_hdmDecoderWrite, execHdmDecoderWrite, live_running _ run]
  simp only [decoderSlot_legal bridge slot, Bool.not_true, Bool.false_eq_true, if_false]
  exact congrArg Host.Outcome.next (if_pos clash)

theorem hdmDecoderWrite_commits (apart : decoderClash s (b * 16 + index) b ⟨base, size, part, ast, vbase⟩ = false)
    (active : (partOf s part).st = .active) (unlocked : (partOf s part).tdi ≠ .locked) (idle : (partOf s part).tdi ≠ .run)
    (partition : part < 1024) (space : ast < 4096) (whole : base % GiB = 0) (vwhole : vbase % GiB = 0)
    (absent : kfind s.coh.decoders (b * 16 + index) = none) :
    exec (.hdmDecoderWrite b index base size part ast vbase true) s = .next
      { s with coh := { s.coh with decoders := kset s.coh.decoders (b * 16 + index) ⟨base, size, part, ast, vbase⟩ } } := by
  rw [exec_hdmDecoderWrite, execHdmDecoderWrite, live_running _ run]
  simp only [decoderSlot_legal bridge slot, Bool.not_true, Bool.false_eq_true, if_false, active, whole, vwhole,
    Nat.not_le.mpr partition, Nat.not_le.mpr space, absent, ne_eq, not_true_eq_false, decide_false, Bool.or_self]
  refine congrArg Host.Outcome.next ((if_neg (Bool.eq_false_iff.mp apart)).trans ?_)
  exact tdiFault_open unlocked idle

end

/-- Settles O23: the failed agent from its mark, the bridge request by request. -/
theorem agentsAndHostBridge : Obligations.AgentsAndHostBridge := by
  refine ⟨fun d a cause node x s found member working _ => ?_,
    fun b hpa tag d s run bridge decoded up => ⟨?_, fun near => ?_, fun far => ?_,
    fun n mask data line held => cxlM2sRwd_held run decoded up line held,
    fun mask data r unheld => ⟨cxlM2sRwd_noBytes run decoded up unheld, cxlM2sRwd_oneRun run decoded up unheld⟩,
    fun n x line waits home => ?_, fun n x line waits of same => cxlBiconflict_waits run decoded line waits of same,
    fun index base size part ast vbase slot clash => hdmDecoderWrite_refused run bridge slot (decoderClash_of_page clash),
    fun index base size part ast vbase slot active unlocked idle partition space whole vwhole apart absent =>
      hdmDecoderWrite_commits run bridge slot (decoderClash_none apart) active unlocked idle partition space whole vwhole absent⟩⟩
  · have told := agentFail_quiet s d a node cause found member working
    refine ⟨?_, ?_, congrArg Coh.sweeps told.coh, fun e other => ?_, told.mem, told.lports⟩
    · rw [domOf_congr told.coh, domOf_agentMark_self, found, Option.map_some]
    · rw [regField_congr told.cfg, regField_agentMark]
    · rw [domOf_congr told.coh, domOf_agentMark_other _ _ _ _ _ other]
  · exact cxlM2sReq_converts (kind := .readI) run decoded up nofun (by simp)
  · have op := fun kind (kept : kind ≠ .clnEvct) => cxlM2sReq_converts (tag := tag) (kind := kind) run decoded up kept (by simp [near])
    rw [near] at op
    exact ⟨op .readS nofun, op .readA nofun, op .memInv nofun, cxlM2sReq_clnEvct_near run decoded up near⟩
  · have op := fun kind (kept : kind ≠ .clnEvct) (cached : kind ≠ .memInv) =>
      cxlM2sReq_converts (tag := tag) (kind := kind) run decoded up kept (by simp [cached])
    rw [far] at op
    exact ⟨op .readS nofun nofun, op .readA nofun nofun, cxlM2sReq_memInv_far run decoded up far⟩
  · refine ⟨_, _, cxlBiRsp_home run decoded line waits home, rfl, hostHeld_biAnswered s b n x, rfl, rfl, rfl, rfl,
      apply_ite (BitVec.ofNat 64) _ 4 0⟩

end Sys2Proof.Machine
end

section
/-! Versioned shared regions (O24, R258, R268): opens at the limit, and a table of regions that is not in order. -/
namespace Sys2Proof.Machine

theorem endOpen_unheld {s : State} {n node : Nat} {r : SharedRegion} (found : kfind s.snap.regions n = some r)
    (unheld : kfind r.opens node = none) : endOpen s n node = s := by
  simp only [endOpen, found, unheld]

/-- With no storage to free and no SNAP.DESTROY that waits for it, a sweep leaves the regions as they are. -/
theorem sweepDying_regions {s : State} (dying : s.snap.dying = []) (destroying : s.snap.destroying = []) :
    (sweepDying s).snap.regions = s.snap.regions := by
  simp [sweepDying, dying, destroying]

theorem opensAll_congr {s t : State} (same : t.snap.regions = s.snap.regions) : opensAll t = opensAll s := by
  rw [opensAll, opensAll, same]

/-- An OPEN_VERSION of the current version is put off where 65,536 opens stand once the node's mark is cleared (R258, R268). -/
theorem openVersion_full {s : State} {n node : Nat} {r : SharedRegion} {b : List Byte} (found : kfind s.snap.regions n = some r)
    (unheld : kfind r.opens node = none) (mode : leField b 0 4 = 0) (dirty : leField b 4 4 = 0) (version : leField b 8 8 = 0)
    (dying : s.snap.dying = []) (destroying : s.snap.destroying = []) (full : 65536 ≤ opensAll (clearMark s n node)) :
    (openVersion s n r node b).2 = (stRetry, 0) := by
  have swept : (sweepDying (clearMark s n node)).snap.regions = (clearMark s n node).snap.regions := sweepDying_regions dying destroying
  have stands : kfind (sweepDying (clearMark s n node)).snap.regions n =
      some { r with expired := r.expired.filter (· ≠ node) } := by
    rw [swept, clearMark, modRegion, kfind_kmod_self, found, Option.map_some]
  rw [← opensAll_congr swept] at full
  simp [openVersion, mode, dirty, version, endOpen_unheld found unheld, stands, full, bits]

/-! ## Regions out of order -/

/-- A region that the nodes 1 to k hold open. -/
def crowded (k : Nat) : SharedRegion :=
  { partition := 0, frames := [], leaseMs := 1
    opens := (natRange 1 k).map fun node => (node, { draft := false, version := 1, leaseEnd := 0 }) }

/-- Two such regions, the higher number first: no table that the switch itself writes has this order. -/
def disordered (k : Nat) : State := { State.reset with snap := { regions := [(1, crowded k), (0, crowded k)] } }

theorem crowded_opens_length (k : Nat) : (crowded k).opens.length = k := by
  simp [crowded, natRange_eq_range']

theorem crowded_unheld (k : Nat) : kfind (crowded k).opens 0 = none :=
  kfind_eq_none_of_lt _ _ fun e held => by
    obtain ⟨node, inside, rfl⟩ := List.mem_map.mp held
    exact ((mem_natRange_iff 1 k node).mp inside).1

theorem disordered_opens (k : Nat) : opensAll (disordered k) = 2 * k := by
  simp [opensAll, disordered, crowded_opens_length, Nat.two_mul]

/-- Clearing a mark of region 0 writes its entry before that of region 1 and leaves the old one behind: its opens count twice. -/
theorem clearMark_disordered_opens (k : Nat) : opensAll (clearMark (disordered k) 0 0) = 3 * k := by
  have twice : (clearMark (disordered k) 0 0).snap.regions = [(0, crowded k), (1, crowded k), (0, crowded k)] := rfl
  simp only [opensAll, twice, List.foldl_cons, List.foldl_nil, crowded_opens_length]
  omega

/-- Refutes O24: its first clause counts the opens before the open and does not ask that the table of regions is in order. Of two
regions in falling order, with 30,000 opens each, the entry that the open writes for the second leaves the old one in the table: the
opens counted rise from 60,000 to 90,000, and the answer is RETRY_LATER, not OK. -/
theorem not_sharedRegions : ¬ Obligations.SharedRegions := by
  rintro ⟨versions, -⟩
  obtain ⟨fresh, -⟩ := versions 0 0 (crowded 30000) (List.replicate 16 0) (disordered 30000) rfl
  have room : opensAll (disordered 30000) < 65536 := by rw [disordered_opens]; decide
  have full : 65536 ≤ opensAll (clearMark (disordered 30000) 0 0) := by rw [clearMark_disordered_opens]; decide
  obtain ⟨current, -⟩ := fresh (by decide) (crowded_unheld 30000) rfl room
  obtain ⟨t, q, opened, -⟩ := current (by decide) (by decide)
  have later := openVersion_full (b := List.replicate 16 0) rfl (crowded_unheld 30000) (by decide) (by decide) (by decide) rfl rfl full
  rw [opened] at later
  have ok : stOk = stRetry := congrArg Prod.fst later
  exact absurd ok (by decide)

end Sys2Proof.Machine
end

section
/-! Blocks, work and arbiters after a change: what the shared operations of steps (R310 to R326, R773, R783) write and leave. -/
namespace Sys2Proof.Machine

/-! ## Reading a block or a piece of work -/

section
variable (s : State) (b id : Nat)

@[simp] theorem blk_modBlk_self (f : Block → Block) : blk (modBlk s b f) b = f (blk s b) := kget_kset_self _ _ _ _
@[simp] theorem blk_modBlk_other (f : Block → Block) (k : Nat) (h : k ≠ b) : blk (modBlk s b f) k = blk s k := kget_kset_other _ _ _ _ _ h

@[simp] theorem jobOf_modJob_self (f : Job → Job) : jobOf (modJob s id f) id = (jobOf s id).map f := kfind_kmod_self _ _ _
@[simp] theorem modJob_mem (f : Job → Job) : (modJob s id f).mem = s.mem := rfl
@[simp] theorem blk_modJob (f : Job → Job) (k : Nat) : blk (modJob s id f) k = blk s k := rfl

theorem blk_congr {s t : State} (h : t.fab = s.fab) (k : Nat) : blk t k = blk s k := by rw [blk, blk, h]
theorem jobOf_congr {s t : State} (h : t.fab = s.fab) (k : Nat) : jobOf t k = jobOf s k := by rw [jobOf, jobOf, h]

end

/-! ## The health log and fingerprints (R783, R965) -/

section
variable (s : State) (type r b cell : Nat) (rest : List Byte)

@[simp] theorem healthLog_fab : (healthLog s type r b cell rest).fab = s.fab := by
  unfold healthLog; dsimp only; split <;> rfl
@[simp] theorem healthLog_mem : (healthLog s type r b cell rest).mem = s.mem := by
  unfold healthLog; dsimp only; split <;> rfl
@[simp] theorem healthLog_ras : (healthLog s type r b cell rest).ras = s.ras := by
  unfold healthLog; dsimp only; split <;> rfl
@[simp] theorem healthLog_power : (healthLog s type r b cell rest).power = s.power := by
  unfold healthLog; dsimp only; split <;> rfl
@[simp] theorem healthLog_clk : (healthLog s type r b cell rest).clk = s.clk := by
  unfold healthLog; dsimp only; split <;> rfl

end

section
variable {s t : State} (power : t.power = s.power) (fenced : t.ras.fenced = s.ras.fenced) (r : Nat)
include power

theorem regionTemp_congr : regionTemp t r = regionTemp s r := by simp only [regionTemp, temp, power]

include fenced

theorem supplyNow_congr : supplyNow t r = supplyNow s r := by rw [supplyNow, isFenced, regionPow, power, fenced]; rfl
theorem clockNow_congr : clockNow t r = clockNow s r := by rw [clockNow, isFenced, regionPow, power, fenced]; rfl

/-- A region's averages are those of its supplies, frequencies, temperatures and fences, and of the time. -/
theorem regionAvg_congr (clk : t.clk = s.clk) : regionAvg t r = regionAvg s r := by
  have spans : regionSpans t r = regionSpans s r := by
    simp only [regionSpans, supplyNow_congr power fenced, clockNow_congr power fenced, regionTemp_congr power, power, clk]
  have sums : regionSum t r = regionSum s r := by
    simp only [regionSum, spans, supplyNow_congr power fenced, clockNow_congr power fenced, regionTemp_congr power]
  rw [regionAvg, sums, regionAvg]

end

/-- What a fingerprint for a block keeps of its region: the region's number, temperature and supply. -/
def printOf (s : State) (b : Nat) : Nat × Int × Nat := (b / 16, (regionAvg s (b / 16)).tj, (regionAvg s (b / 16)).mv.toNat)

section
variable (s : State) (b row step : Nat)

@[simp] theorem fingerprint_fab : (fingerprint s b row step).fab = s.fab := by simp only [fingerprint, healthLog_fab]
@[simp] theorem fingerprint_mem : (fingerprint s b row step).mem = s.mem := by simp only [fingerprint, healthLog_mem]

theorem fingerprint_prints : (fingerprint s b row step).ras.prints = s.ras.prints ++ [printOf s b] := by
  simp only [fingerprint, printOf, healthLog_ras]
  rw [regionAvg_congr (healthLog_power ..) (by rw [healthLog_ras]) _ (healthLog_clk ..)]

theorem printOf_fingerprint (c : Nat) : printOf (fingerprint s b row step) c = printOf s c := by
  have same : regionAvg (fingerprint s b row step) (c / 16) = regionAvg s (c / 16) :=
    regionAvg_congr (by simp only [fingerprint, healthLog_power]) (by simp only [fingerprint, healthLog_ras]) _
      (by simp only [fingerprint, healthLog_clk])
  rw [printOf, printOf, same]

end

/-! ## Errors of cells and of words (R322, R323) -/

/-- An error counts against a cell in use: it becomes SUSPECT. -/
def suspectCell (s : State) (b p : Nat) : State :=
  modBlk (note (bump s (.fault 0)) "CELL_ERROR" [b, p]) b fun x => { x with suspects := x.suspects ++ [p] }

section
variable (s : State) (b p : Nat)

@[simp] theorem suspectCell_mem : (suspectCell s b p).mem = s.mem := rfl
@[simp] theorem suspectCell_jobs : (suspectCell s b p).fab.jobs = s.fab.jobs := rfl
@[simp] theorem jobOf_suspectCell (id : Nat) : jobOf (suspectCell s b p) id = jobOf s id := rfl
@[simp] theorem blk_suspectCell : blk (suspectCell s b p) b = { blk s b with suspects := (blk s b).suspects ++ [p] } := blk_modBlk_self ..

@[simp] theorem cellErrors_nil : cellErrors s b [] = s := rfl

variable {s b p}

theorem cellErrors_suspect (cell : p < 34) (stands : (blk s b).retired = false) (used : cellInUse (blk s b) p = true)
    (active : (blk s b).suspects.contains p = false) : cellErrors s b [p] = suspectCell s b p := by
  have notTile : p ≠ 34 := Nat.ne_of_lt cell
  have once : [p].eraseDups = [p] := by simp [List.eraseDups_cons]
  rw [cellErrors, once, List.foldl_cons, List.foldl_nil]
  simp only [stands, used, active, notTile, Bool.not_true, Bool.false_eq_true, if_false]
  rfl

/-- The word of a cell found bad: nothing but the cell's error. -/
theorem wordErrors_cell (cell : p < 34) : wordErrors s b [p] = cellErrors s b [p] := by
  simp [wordErrors, cell, Nat.not_le.mpr cell]

/-- The tile's word, or routes and stream tables, found bad: they are loaded anew, which is logged. -/
theorem wordErrors_reloaded (above : 34 ≤ p) : wordErrors s b [p] = note (bump s (.fault 0)) "WORD_RELOADED" [b, p] := by
  simp [wordErrors, above, Nat.not_lt.mpr above, List.eraseDups_cons]

/-- An error of one cell in a step is the only error of its block. -/
theorem blockErrors_cell (cell : p < 34) : blockErrors s b [p] = cellErrors s b [p] := by
  have noBank : ¬ (64 ≤ p ∧ p < 80 ∨ 128 ≤ p ∧ p < 144) := by omega
  have noWord : ¬ (p = 35 ∨ p = 36) := by omega
  have noArbiter : ¬ 37 = p := by omega
  have below : p < 35 := by omega
  simp [blockErrors, noBank, noWord, noArbiter, below, wordErrors, bankErrors]

end

/-! ## A step that is stopped or replayed (R310, R323) -/

section
variable (s : State) (j : Job)

@[simp] theorem stallEnd_fab : (stallEnd s j).fab = s.fab := by unfold stallEnd; split <;> rfl
@[simp] theorem stallEnd_mem : (stallEnd s j).mem = s.mem := by unfold stallEnd; split <;> rfl
@[simp] theorem waitEnd_fab : (waitEnd s j).fab = s.fab := by unfold waitEnd; split <;> rfl
@[simp] theorem waitEnd_mem : (waitEnd s j).mem = s.mem := by unfold waitEnd; split <;> rfl
@[simp] theorem stopEnd_fab : (stopEnd s j).fab = s.fab := by
  rw [stopEnd, waitEnd_fab]; split
  · exact stallEnd_fab s j
  · rfl
@[simp] theorem stopEnd_mem : (stopEnd s j).mem = s.mem := by
  rw [stopEnd, waitEnd_mem]; split
  · exact stallEnd_mem s j
  · rfl

end

/-- A step as it is queued again: its operands are read anew, and no shadow's comparison counts. -/
def Job.requeued (j : Job) : Job :=
  { j with stage := .queued, cache := [], wait := [], shadow := none, checked := false, waitSince := none }

section
variable {s : State} {id : Nat} {j : Job} (found : jobOf s id = some j)
include found

theorem replay_eq : replay s id = modJob (stopEnd s j) id Job.requeued := by
  rw [replay, found]
  rfl

theorem jobOf_replay : jobOf (replay s id) id = some j.requeued := by
  rw [replay_eq found, jobOf_modJob_self, jobOf_congr (stopEnd_fab s j), found, Option.map_some]

theorem replay_mem : (replay s id).mem = s.mem := by rw [replay_eq found, modJob_mem, stopEnd_mem]

theorem blk_replay (b : Nat) : blk (replay s id) b = blk s b := by
  rw [replay_eq found, blk_modJob, blk_congr (stopEnd_fab s j)]

theorem isBroken_eq {b : Nat} (place : j.block = some b) : isBroken s id = (broken (blk s b) && !(blk s b).retired) := by
  rw [isBroken, found, Option.bind_some, place]

end

/-! ## A step that has passed (R310, R316, R317, R323) -/

section
variable {s : State} {id : Nat} {j : Job} {o : JobOut} (found : jobOf s id = some j)
include found

/-- A step that is not shadowed takes no shadow block. -/
theorem takeShadow_unshadowed (alone : j.shadowed = false) : takeShadow s id = s := by
  rw [takeShadow, found]
  dsimp only
  split
  · simp [alone]
  · rfl

theorem runStep_passes (passes : jobStep s j = .done o) (alone : j.shadowed = false) :
    runStep s id = modJob s id fun j => { j with stage := .done } := by
  have now : jobOf (modJob s id fun j => { j with stage := .done }) id = some { j with stage := .done } := by
    rw [jobOf_modJob_self, found, Option.map_some]
  rw [runStep, found]
  simp only [passes, passed]
  exact takeShadow_unshadowed now alone

theorem commitStep_image {i t g b : Nat} (passes : jobStep s j = .done o) (kind : j.kind = .image i t g) (place : j.block = some b) :
    commitStep s id = commitImage s id i t g b o := by
  rw [commitStep, found]
  simp only [passes, kind, place]

/-- Without errors, and with no SUSPECT cell, the step commits. -/
theorem finishStep_sound {b : Nat} (place : j.block = some b) (clear : (blk s b).suspects = []) : finishStep s id [] = commitStep s id := by
  have same : clearSuspects s b = (s, false) := by rw [clearSuspects, clear, List.foldl_nil]
  rw [finishStep, found]
  simp [place, same]

/-- The error of an ACTIVE cell: the cell becomes SUSPECT, and the step replays. -/
theorem finishStep_cell {b p : Nat} (place : j.block = some b) (cell : p < 34) (stands : (blk s b).retired = false)
    (whole : broken (blk s b) = false) (used : cellInUse (blk s b) p = true) (active : (blk s b).suspects.contains p = false) :
    finishStep s id [p] = replay (suspectCell s b p) id := by
  have found' : jobOf (suspectCell s b p) id = some j := (jobOf_suspectCell ..).trans found
  have whole' : isBroken (suspectCell s b p) id = false := by
    have cells : broken (blk (suspectCell s b p) b) = broken (blk s b) := by rw [blk_suspectCell]; rfl
    rw [isBroken_eq found' place, cells, whole, Bool.false_and]
  have noSource : ¬ (128 ≤ p ∧ p < 144) := by omega
  have noBank : ¬ (64 ≤ p ∧ p < 80) := by omega
  rw [finishStep, found]
  simp [place, blockErrors_cell cell, cellErrors_suspect cell stands used active, noSource, noBank, found, replayOr, whole']

end

end Sys2Proof.Machine
end

section
/-! Events of a block's steps (O52, R310 to R319, R322, R323, R369, R370, R782, R783). -/
namespace Sys2Proof.Machine

/-! ## The operand of STEP_START: a unit, and a bit for each word found bad -/

/-- The words that STEP_START's operand names. -/
def badWords (u : Nat) : List Nat := (natRange 0 36).filter (u / 2 ^ 64).testBit

theorem badWords_none {u : Nat} (small : u < 2 ^ 64) : badWords u = [] := by
  rw [badWords, Nat.div_eq_of_lt small]
  exact List.filter_eq_nil_iff.mpr fun i _ => by rw [Nat.zero_testBit]; exact Bool.false_ne_true

theorem badWords_one {u p : Nat} (unit : u < 256) (word : p < 36) : badWords (u + 2 ^ (64 + p)) = [p] := by
  have above : (u + 2 ^ (64 + p)) / 2 ^ 64 = 2 ^ p := by
    rw [Nat.pow_add, Nat.add_mul_div_left _ _ (Nat.two_pow_pos 64), Nat.div_eq_of_lt (by omega), Nat.zero_add]
  have bit : (2 ^ p).testBit = fun i => i == p := by
    funext i
    rw [Nat.testBit_two_pow, Bool.beq_eq_decide_eq]
    exact decide_eq_decide.mpr eq_comm
  have once : (natRange 0 36).count p = 1 := by
    rw [natRange_eq_range']
    exact List.count_eq_one_of_mem List.nodup_range' (List.mem_range'_1.mpr ⟨Nat.zero_le p, by omega⟩)
  rw [badWords, above, bit, List.filter_beq, once, List.replicate_one]

theorem unit_of_bad_word {u : Nat} (unit : u < 256) (p : Nat) : (u + 2 ^ (64 + p)) % 2 ^ 64 = u := by
  rw [Nat.pow_add, Nat.add_mul_mod_self_left, Nat.mod_eq_of_lt (by omega)]

/-! ## A step starts (R316, R319, R322, R369) -/

/-- The work starts in its block, whose words are as they stand; where the block lacks a cell or its tile it is abandoned. -/
def startIn (t : State) (id : Nat) (j : Job) : State :=
  if isBroken t id then abandon t id 3 else runStep (bankStep (chooseShadow t id) j stepWords) id

theorem startIn_whole {t : State} {id : Nat} (j : Job) (whole : isBroken t id = false) :
    startIn t id j = runStep (bankStep (chooseShadow t id) j stepWords) id := by
  rw [startIn, whole]
  exact if_neg Bool.false_ne_true

theorem startIn_broken {t : State} {id : Nat} (j : Job) (lacks : isBroken t id = true) : startIn t id j = abandon t id 3 := if_pos lacks

section
variable {s : State} {u id : Nat} {j : Job} (unit : unitJob s u = some (id, j))
include unit

theorem stepStart_sound (queued : j.stage = .queued) (found : jobOf s id = some j) (lit : ∀ b, j.block = some b → isLit s (b / 16) = true) :
    stepStart s u [] = startIn s id j := by
  rw [stepStart, unit]
  cases place : j.block with
  | none => simp [queued, found, place, startIn]
  | some b => simp [queued, found, place, lit b place, startIn]

/-- Words found bad are seen to first; the work starts where it still stands in its block. -/
theorem stepStart_badWord {b p : Nat} (queued : j.stage = .queued) (place : j.block = some b) (lit : isLit s (b / 16) = true)
    (stays : (jobOf (afterFaults s (wordErrors s b [p])) id).bind (·.block) = some b) :
    stepStart s u [p] = startIn (afterFaults s (wordErrors s b [p])) id j := by
  rw [stepStart, unit]
  simp [queued, place, lit, stays, startIn]

theorem stepStart_wakes {b : Nat} (bad : List Nat) (queued : j.stage = .queued) (place : j.block = some b) (dark : isLit s (b / 16) = false)
    (still : isLit (wakeRegion s (b / 16)) (b / 16) = false) : stepStart s u bad = wakeRegion s (b / 16) := by
  rw [stepStart, unit]
  simp [queued, place, dark, still]

end

section
variable {s : State} (run : running s = true)
include run

theorem exec_stepStart_words {u : Nat} (small : u < 2 ^ 64) : exec (.stepStart u) s = .next (settle hooks (stepStart s u [])) := by
  rw [exec_stepStart, execStepStart, live_running _ run, Nat.mod_eq_of_lt small, ← badWords, badWords_none small]

theorem exec_stepStart_badWord {u p : Nat} (small : u < 256) (word : p < 36) :
    exec (.stepStart (u + 2 ^ (64 + p))) s = .next (settle hooks (stepStart s u [p])) := by
  rw [exec_stepStart, execStepStart, live_running _ run, unit_of_bad_word small, ← badWords, badWords_one small word]

end

/-! ## A step goes on, commits, or is compared with its shadow (R316, R317, R319, R370) -/

section
variable {s : State} {u id : Nat} {j : Job} (run : running s = true) (unit : unitJob s u = some (id, j))
include run unit

theorem exec_stepResume_ready (stalled : j.stage = .stalled) (ready : j.wait = []) :
    exec (.stepResume u) s = .next (settle hooks (runStep (stallEnd s j) id)) := by
  rw [exec_stepResume, execStepResume, live_running _ run, stepResume, unit]
  simp [stalled, ready]

theorem exec_stepResume_waits (waits : j.wait ≠ []) : exec (.stepResume u) s = .next (settle hooks s) := by
  rw [exec_stepResume, execStepResume, live_running _ run, stepResume, unit]
  simp [waits]

theorem exec_stepCommit_sound (done : j.stage = .done) (alone : j.shadowed = false) :
    exec (.stepCommit u []) s = .next (settle hooks (afterFaults s (finishStep (bankStep s j commitWords) id []))) := by
  rw [exec_stepCommit, execStepCommit, live_running _ run, stepCommit, unit]
  simp [done, alone]

theorem exec_stepCommit_errors (done : j.stage = .done) (alone : j.shadowed = false) (e : Nat) (bad : List Nat) :
    exec (.stepCommit u (e :: bad)) s = .next (settle hooks (afterFaults s (finishStep s id (e :: bad)))) := by
  rw [exec_stepCommit, execStepCommit, live_running _ run, stepCommit, unit]
  simp [done, alone]

theorem exec_shadowCompare_equal (done : j.stage = .done) (unchecked : j.checked = false) (taken : j.shadow.isSome = true) :
    exec (.shadowCompare u true) s = .next (settle hooks (modJob s id fun j => { j with shadow := none, checked := true })) := by
  obtain ⟨h, shadow⟩ := Option.isSome_iff_exists.mp taken
  rw [exec_shadowCompare, execShadowCompare, live_running _ run, shadowCompare, unit]
  simp [shadow, done, unchecked]

theorem exec_shadowCompare_differ (done : j.stage = .done) (unchecked : j.checked = false) (taken : j.shadow.isSome = true) :
    exec (.shadowCompare u false) s = .next (settle hooks (modJob s id fun j => { j with stage := .referee, waitSince := some s.clk })) := by
  obtain ⟨h, shadow⟩ := Option.isSome_iff_exists.mp taken
  rw [exec_shadowCompare, execShadowCompare, live_running _ run, shadowCompare, unit]
  simp [shadow, done, unchecked]

end

/-! ## The verdict of a referee (R782, R783) -/

/-- A verdict has come: the wait for it, and the referee's run, are counted. -/
def verdictCounted (s : State) (i : Nat) (j : Job) : State := bump (bumpBy s (.prog i 4) 48 (s.clk - j.waitSince.getD s.clk)) (.ras 9)

/-- The step passes: its result stands as checked. -/
def passChecked (id : Nat) (s : State) : State :=
  modJob s id fun j => { j with stage := .done, shadow := none, checked := true, waitSince := none }

/-- The step counts as neither block's: both are at fault; it replays once, and is abandoned the second time. -/
def againstBoth (s : State) (id : Nat) (j : Job) (b h : Nat) : State :=
  let w := blockFault (modJob s id fun j => { j with shadow := none, waitSince := none }) h
  blockFault (if j.replayed then abandon w id 3 else replay (modJob w id fun j => { j with replayed := true }) id) b

@[simp] theorem verdictCounted_fab (s : State) (i : Nat) (j : Job) : (verdictCounted s i j).fab = s.fab := rfl
@[simp] theorem verdictCounted_mem (s : State) (i : Nat) (j : Job) : (verdictCounted s i j).mem = s.mem := rfl
@[simp] theorem verdictCounted_ras (s : State) (i : Nat) (j : Job) : (verdictCounted s i j).ras = s.ras := rfl
@[simp] theorem printOf_verdictCounted (s : State) (i : Nat) (j : Job) (b : Nat) : printOf (verdictCounted s i j) b = printOf s b := rfl

section
variable {s : State} {u id i b h : Nat} {j : Job} {x : Inst} (unit : unitJob s u = some (id, j)) (waits : j.stage = .referee)
  (inst : j.inst = some i) (bound : instOf s i = some x) (place : j.block = some b) (shadow : j.shadow = some h)
  (referee : (refereeFor s x b h).isSome = true) (decides : wickDecides s = true)
include unit waits inst bound place shadow referee decides

theorem verdict_againstShadow : verdict s u 1 =
    finishStep (passChecked id (blockFault (fingerprint (verdictCounted s i j) h 1 (blk s b).steps) h)) id [] := by
  simp [verdict, unit, waits, inst, bound, place, shadow, Option.isNone_eq_false_iff.mpr referee, decides, passChecked, verdictCounted]

theorem verdict_againstPrimary : verdict s u 2 =
    blockFault (finishStep (passChecked id (fingerprint (verdictCounted s i j) b 2 (blk s b).steps)) id []) b := by
  simp [verdict, unit, waits, inst, bound, place, shadow, Option.isNone_eq_false_iff.mpr referee, decides, passChecked, verdictCounted]

theorem verdict_againstBoth : verdict s u 3 =
    againstBoth (fingerprint (fingerprint (verdictCounted s i j) h 3 (blk s b).steps) b 3 (blk s b).steps) id j b h := by
  cases replayed : j.replayed <;>
    simp [verdict, unit, waits, inst, bound, place, shadow, Option.isNone_eq_false_iff.mpr referee, decides, againstBoth, replayed,
      verdictCounted]

end

theorem exec_refereeDone_verdict {s : State} (run : running s = true) (u row : Nat) :
    exec (.refereeDone u row) s = .next (settle hooks (afterFaults s (verdict s u row))) := by
  rw [exec_refereeDone, execRefereeDone, live_running _ run]

/-! ## The scrub of words and the arbiter of banks (R311 to R313, R322) -/

/-- A block's words are scrubbed now. -/
def stampScrub (s : State) (u : Nat) : State := modBlk s u fun x => { x with scrubAt := s.clk }

@[simp] theorem stampScrub_clk (s : State) (u : Nat) : (stampScrub s u).clk = s.clk := rfl
@[simp] theorem stampScrub_mem (s : State) (u : Nat) : (stampScrub s u).mem = s.mem := rfl
@[simp] theorem blk_stampScrub_self (s : State) (u : Nat) : blk (stampScrub s u) u = { blk s u with scrubAt := s.clk } :=
  blk_modBlk_self ..
@[simp] theorem blk_stampScrub_other (s : State) (u k : Nat) (h : k ≠ u) : blk (stampScrub s u) k = blk s k := blk_modBlk_other _ _ _ _ h

/-- A block's words are scrubbed a millisecond after the last time, or now where that is past. -/
def scrubbed (s : State) (u : Nat) : State := stampScrub (untilTime s ((blk s u).scrubAt + 1000000)) u

@[simp] theorem blk_untilTime (s : State) (t : Time) (b : Nat) : blk (untilTime s t) b = blk s b := blk_congr (untilTime_fab s t) b

/-- With no word found bad, a scrub is nothing more. -/
theorem configScrub_clean (s : State) (u : Nat) : configScrub s u [] = scrubbed s u := by
  simp only [configScrub, scrubbed, stampScrub, List.isEmpty_nil, if_true]

theorem scrubbed_clk (s : State) (u : Nat) : (scrubbed s u).clk = max s.clk ((blk s u).scrubAt + 1000000) := by
  rw [scrubbed, stampScrub_clk, untilTime_clk]

theorem scrubbed_mem (s : State) (u : Nat) : (scrubbed s u).mem = s.mem := by rw [scrubbed, stampScrub_mem, untilTime_mem]

theorem blk_scrubbed_self (s : State) (u : Nat) : blk (scrubbed s u) u = { blk s u with scrubAt := (scrubbed s u).clk } := by
  rw [scrubbed, blk_stampScrub_self, stampScrub_clk, blk_untilTime]

theorem blk_scrubbed_other (s : State) (u b : Nat) (other : b ≠ u) : blk (scrubbed s u) b = blk s b := by
  rw [scrubbed, blk_stampScrub_other _ _ _ other, blk_untilTime]

@[simp] theorem modBankArb_mem (s : State) (b : Nat) (f : BlockArb → BlockArb) : (modBankArb s b f).mem = s.mem := rfl
@[simp] theorem modBankArb_clk (s : State) (b : Nat) (f : BlockArb → BlockArb) : (modBankArb s b f).clk = s.clk := rfl
@[simp] theorem blk_modBankArb_self (s : State) (b : Nat) (f : BlockArb → BlockArb) :
    blk (modBankArb s b f) b = { blk s b with arb := f (blk s b).arb } := blk_modBlk_self ..
@[simp] theorem blk_modBankArb_other (s : State) (b : Nat) (f : BlockArb → BlockArb) (k : Nat) (h : k ≠ b) :
    blk (modBankArb s b f) k = blk s k := blk_modBlk_other _ _ _ _ h

/-- The request is promoted, where it waits. -/
def promoteReq (id : Nat) (a : BlockArb) : BlockArb :=
  { a with pending := a.pending.map fun q => if q.id = id then { q with promoted := true } else q }

section
variable {s : State} {u : Nat} (run : running s = true)
include run

theorem exec_configScrub_clean (block : u < 256) : exec (.configScrub u []) s = .next (settle hooks (scrubbed s u)) := by
  rw [exec_configScrub, execConfigScrub, live_running _ run, if_neg (Nat.not_le.mpr block), configScrub_clean]

theorem exec_blockArbGrant_block (block : u < 256) :
    exec (.blockArbGrant u) s = .next (modBankArb s u (bankGrant s.clk (bankClocks s u))) := by
  rw [exec_blockArbGrant, execBlockArbGrant, live_running _ run, if_neg (Nat.not_le.mpr block)]

theorem exec_blockArbPromote_due {id : Nat} {p : BankReq} {t : Time} (waits : (blk s u).arb.pending.find? (fun q => q.id = id) = some p)
    (due : bankDue s u p = some t) : exec (.blockArbPromote u id) s = .next (modBankArb (untilTime s t) u (promoteReq id)) := by
  rw [exec_blockArbPromote, execBlockArbPromote, live_running _ run, waits]
  dsimp only
  rw [due]
  rfl

end

end Sys2Proof.Machine
end

section
/-! Obligation O52, from the lemmas on each event. -/
namespace Sys2Proof.Machine

/-- Settles O52: each event by the lemma on what it does in the case that the clause names. -/
theorem stepEvents : Obligations.StepEvents := by
  intro u id j s run
  refine ⟨fun unit => ⟨?start, ?wakes, ?resume, ?waits, ?commit, ?compare, ?verdict⟩, fun found => ⟨?passes, ?finishes, ?image, ?cell⟩,
    fun _ _ _ _ => rfl, ?wordOfCell, ?wordReloaded, fun block => ⟨?scrub, ?grant, ?promote⟩⟩
  case start =>
    intro queued found lit
    refine ⟨fun small whole => ?_, fun small lacks => ?_, fun b p block place word => ?_⟩
    · rw [exec_stepStart_words run small, stepStart_sound unit queued found lit, startIn_whole j whole]
    · rw [exec_stepStart_words run small, stepStart_sound unit queued found lit, startIn_broken j lacks]
    · intro t stays
      have starts := exec_stepStart_badWord (u := u) run block word
      rw [stepStart_badWord unit queued place (lit b place) stays] at starts
      exact ⟨fun whole => by rw [starts, startIn_whole j whole], fun lacks => by rw [starts, startIn_broken j lacks]⟩
  case wakes =>
    intro b small queued place dark still
    rw [exec_stepStart_words run small, stepStart_wakes unit [] queued place dark still]
  case resume => exact exec_stepResume_ready run unit
  case waits => exact fun _ => exec_stepResume_waits run unit
  case commit => exact fun done alone => ⟨exec_stepCommit_sound run unit done alone, exec_stepCommit_errors run unit done alone⟩
  case compare =>
    intro done unchecked taken found
    refine ⟨⟨_, exec_shadowCompare_equal run unit done unchecked taken, ?_, rfl, rfl⟩,
      ⟨_, exec_shadowCompare_differ run unit done unchecked taken, ?_, rfl, rfl⟩⟩
    · rw [jobOf_modJob_self, found, Option.map_some]
    · rw [jobOf_modJob_self, found, Option.map_some]
  case verdict =>
    intro i x b h waits inst bound place shadow referee decides pass print
    refine ⟨⟨fingerprint (verdictCounted s i j) h 1 (blk s b).steps, ?_, ?_, fingerprint_fab .., fingerprint_mem ..⟩,
      ⟨fingerprint (verdictCounted s i j) b 2 (blk s b).steps, ?_, ?_, fingerprint_fab .., fingerprint_mem ..⟩,
      ⟨fingerprint (fingerprint (verdictCounted s i j) h 3 (blk s b).steps) b 3 (blk s b).steps, ?_, ?_, ?_, ?_⟩⟩
    · rw [exec_refereeDone_verdict run, verdict_againstShadow unit waits inst bound place shadow referee decides, passChecked]
    · rw [fingerprint_prints, printOf_verdictCounted, verdictCounted_ras, printOf]
    · rw [exec_refereeDone_verdict run, verdict_againstPrimary unit waits inst bound place shadow referee decides]
      rfl
    · rw [fingerprint_prints, printOf_verdictCounted, verdictCounted_ras, printOf]
    · rw [fingerprint_prints, fingerprint_prints, printOf_fingerprint, printOf_verdictCounted, printOf_verdictCounted, verdictCounted_ras,
        List.append_assoc, List.singleton_append, printOf, printOf]
    · rw [fingerprint_fab, fingerprint_fab, verdictCounted_fab]
    · rw [fingerprint_mem, fingerprint_mem, verdictCounted_mem]
    · rw [exec_refereeDone_verdict run, verdict_againstBoth unit waits inst bound place shadow referee decides, againstBoth]
  case passes =>
    intro o passes alone
    refine ⟨_, rfl, ?_⟩
    rw [runStep_passes found passes alone, jobOf_modJob_self, found]
    exact ⟨rfl, rfl⟩
  case finishes => exact fun b => finishStep_sound found
  case image => exact fun o i t g b => commitStep_image found
  case cell =>
    intro b p place cell stands whole used active _
    have found' : jobOf (suspectCell s b p) id = some j := (jobOf_suspectCell ..).trans found
    refine ⟨_, rfl, ?_⟩
    rw [finishStep_cell found place cell stands whole used active, jobOf_replay found', blk_replay found', blk_suspectCell, replay_mem found']
    exact ⟨rfl, rfl, suspectCell_mem ..⟩
  case wordOfCell =>
    intro b p cell stands used active
    refine ⟨_, rfl, ?_⟩
    rw [wordErrors_cell cell, cellErrors_suspect cell stands used active, blk_suspectCell]
    exact ⟨rfl, suspectCell_mem .., suspectCell_jobs ..⟩
  case wordReloaded =>
    intro b p word
    have above : 34 ≤ p := by omega
    refine ⟨_, rfl, ?_⟩
    rw [wordErrors_reloaded above]
    exact ⟨rfl, rfl⟩
  case scrub =>
    exact ⟨_, exec_configScrub_clean run block, scrubbed_clk s u, blk_scrubbed_self s u, blk_scrubbed_other s u, scrubbed_mem s u⟩
  case grant =>
    exact ⟨_, exec_blockArbGrant_block run block, blk_modBankArb_self .., blk_modBankArb_other s u _, modBankArb_mem .., modBankArb_clk ..⟩
  case promote =>
    intro p t waits due
    refine ⟨_, exec_blockArbPromote_due run waits due, (modBankArb_clk ..).trans (untilTime_clk s t), ?_, fun b other => ?_, (modBankArb_mem ..).trans (untilTime_mem s t)⟩
    · rw [blk_modBankArb_self, blk_untilTime]; rfl
    · rw [blk_modBankArb_other _ _ _ _ other, blk_untilTime]

end Sys2Proof.Machine
end

section
/-! Program instances after a change (R348 to R366), and the TDI state after one of R749: what the operations of the PROG commands write
and leave. -/
namespace Sys2Proof.Machine

/-! ## A command that has started -/

section
variable (s : State) (c d : Cmd) (sp : CmdSpec)

@[simp] theorem startCmd_fab : (startCmd s c sp).fab = s.fab := rfl
@[simp] theorem startCmd_boot : (startCmd s c sp).boot = s.boot := rfl
@[simp] theorem progOf_startCmd : progOf (startCmd s c sp) d = progOf s d := rfl

end

/-! ## Instances -/

/-- What a current handle names is in the table of instances. -/
theorem instOf_of_progOf {s : State} {c : Cmd} {i : Nat} {x : Inst} (named : progOf s c = some (i, x)) : instOf s i = some x := by
  unfold progOf at named
  dsimp only at named
  split at named
  case h_1 y found =>
    split at named
    · obtain ⟨rfl, rfl⟩ := Prod.mk.inj (Option.some.inj named)
      exact found
    · cases named
  case h_2 => cases named

/-- The handles that are current depend on the table of instances alone. -/
theorem progOf_congr {s t : State} (same : t.fab.insts = s.fab.insts) (c : Cmd) : progOf t c = progOf s c := by
  simp only [progOf, instOf, same]

@[simp] theorem instOf_modInst_self (s : State) (i : Nat) (f : Inst → Inst) : instOf (modInst s i f) i = (instOf s i).map f :=
  kfind_kmod_self _ _ _
@[simp] theorem instOf_logProg (s : State) (k p i : Nat) (m : List Byte) (j : Nat) : instOf (logProg s k p i m) j = instOf s j := rfl

/-! ## A replacement (R364, R365) -/

/-- A replacement that waits for the RUN in progress. -/
def replacePut (s : State) (i : Nat) (im : List Byte) (r : CmdRef) : State := modInst s i fun x => { x with replace := some (im, r) }

/-- The words of a replacement written, and the log of programs appended to. -/
def replaceWritten (s : State) (i part : Nat) (im : List Byte) : State :=
  logProg (modInst s i fun x => { x with image := im, measure := Config.shake256 32 im, replace := none }) 2 part i (Config.shake256 32 im)

section
variable {s : State} {i : Nat} {x : Inst} (found : instOf s i = some x)
include found

theorem instOf_replacePut (im : List Byte) (r : CmdRef) : instOf (replacePut s i im r) i = some { x with replace := some (im, r) } := by
  rw [replacePut, instOf_modInst_self, found, Option.map_some]

theorem instOf_replaceWritten (part : Nat) (im : List Byte) :
    instOf (replaceWritten s i part im) i = some { x with image := im, measure := Config.shake256 32 im, replace := none } := by
  rw [replaceWritten, instOf_logProg, instOf_modInst_self, found, Option.map_some]

theorem applyReplace_waiting {im : List Byte} {r : CmdRef} (waits : x.replace = some (im, r)) :
    applyReplace s i = complete (replaceWritten s i x.part im) r 0 0 [] := by
  simp only [applyReplace, found, waits]
  rfl

end

theorem replaceWritten_mem (s : State) (i part : Nat) (im : List Byte) : (replaceWritten s i part im).mem = s.mem := rfl
theorem replacePut_mem (s : State) (i : Nat) (im : List Byte) (r : CmdRef) : (replacePut s i im r).mem = s.mem := rfl

/-! ## Stalls counted until now (R159) leave the table of instances -/

/-- What is done to a destination that will not be answered (R156): jobSilent's choice, by name. -/
def holdSilent (s : State) (j : Job) : JobTo → State
  | .origin (.here id _) _ => markUnanswered s id 7
  | .origin .remote _ => report (bump s .unanswered) 0x05 j.p.src.toNat noLport (j.p.seq.toNat + 2 ^ 32 * j.p.tag.toNat + 2 ^ 48 * 7)
  | _ => s

theorem holdSilent_quiet (s : State) (j : Job) (d : JobTo) : Quiet s (holdSilent s j d) := by
  unfold holdSilent
  split
  · exact markUnanswered_quiet _ _ _
  · exact (bump_quiet _ _).trans (report_quiet _ _ _ _ _)
  · exact Quiet.refl s

theorem jobSilent_quiet (s : State) (j : Job) : Quiet s (jobSilent s j) := by
  unfold jobSilent
  dsimp only
  split
  case h_1 r _ _ =>
    cases jobOf s r with
    | none => exact Quiet.refl s
    | some x => exact holdSilent_quiet s j x.dest
  case h_2 => exact holdSilent_quiet s j j.dest

theorem stallEvent_fab (s : State) (j : Job) (w : Nat × Nat) : (stallEvent s j w).fab = s.fab := by
  have silent : (if w.2 = 11 then jobSilent s j else s).fab = s.fab := by
    split
    · exact (jobSilent_quiet s j).fab
    · rfl
  unfold stallEvent
  dsimp only
  split
  · exact silent
  · exact silent

theorem restall_insts (s : State) : (restall s).fab.insts = s.fab.insts := by
  refine List.foldlRecOn (motive := fun (t : State) => t.fab.insts = s.fab.insts) s.fab.jobs _ rfl fun (t : State) kept e _ => ?_
  split
  case isTrue => exact kept
  case isFalse =>
    have counted : (stallEnd t e.2).fab.insts = s.fab.insts := (congrArg Fab.insts (stallEnd_fab t e.2)).trans kept
    dsimp only
    split
    · exact counted
    · exact (congrArg Fab.insts (stallEvent_fab _ _ _)).trans counted

/-! ## A partition's TDI after a change of R749 -/

theorem tdiFault_fab (s : State) (n : Nat) : (tdiFault s n).fab = s.fab := by
  unfold tdiFault
  split
  · rfl
  · rfl

/-- A TDI that is locked or runs is in ERROR after it, any other stays. -/
theorem tdi_tdiFault (s : State) (n : Nat) : (partOf (tdiFault s n) n).tdi =
    if (partOf s n).tdi = .locked ∨ (partOf s n).tdi = .run then .error else (partOf s n).tdi := by
  simp only [tdiFault, Bool.or_eq_true, decide_eq_true_eq]
  split
  · rw [partOf_modPart_self]
  · rfl

end Sys2Proof.Machine
end

section
/-! The PROG commands (O53), each by what it does once it is carried out. -/
namespace Sys2Proof.Machine

abbrev progLoadLibSpec : CmdSpec := { group := 0x0D, verb := 1, args := [(0, 4)], acts := .field }
abbrev progLoadSpec : CmdSpec := { group := 0x0D, verb := 2, host := true, acts := .field }
abbrev progReplaceSpec : CmdSpec := { group := 0x0D, verb := 3, host := true, args := [(0, 8)], acts := .object }
abbrev progUnloadSpec : CmdSpec := { group := 0x0D, verb := 4, args := [(0, 8)], acts := .object }
abbrev progInfoSpec : CmdSpec := { group := 0x0D, verb := 5, args := [(0, 8)], acts := .reads }
abbrev progCellReadSpec : CmdSpec := { group := 0x0D, verb := 6, args := [(0, 8), (8, 4), (12, 4)], acts := .reads }
abbrev progStallsSpec : CmdSpec := { group := 0x0D, verb := 7, args := [(0, 8)], acts := .reads }
abbrev progCountersSpec : CmdSpec := { group := 0x0D, verb := 8, args := [(0, 8)], acts := .reads }
abbrev progSetSignerSpec : CmdSpec := { pf0 := true, group := 0x0D, verb := 9, host := true, acts := .field }
abbrev progSetQuotaSpec : CmdSpec := { pf0 := true, group := 0x0D, verb := 10, args := [(0, 8)], acts := .field }

variable {s : State} {c : Cmd}

/-! ## Loading (R348, R349) -/

/-- An image is bound, or the command answers with the check that it fails: the end of both loading commands. -/
def loadChecked (s : State) (c : Cmd) (kind : Nat) (lib : Option Nat) (image : List Byte) : State :=
  match imageCheck s (fieldPart c) kind image with
  | some (st, k) => complete s (cmdRef c) (st + 256 * k) 0 []
  | none => settle hooks (loadImage s c (fieldPart c) lib image)

section
variable {kind : Nat} {lib : Option Nat} {image : List Byte}

theorem loadChecked_fails {st k : Nat} (fails : imageCheck s (fieldPart c) kind image = some (st, k)) :
    loadChecked s c kind lib image = complete s (cmdRef c) (st + 256 * k) 0 [] := by
  unfold loadChecked
  rw [fails]

theorem loadChecked_passes (passes : imageCheck s (fieldPart c) kind image = none) :
    loadChecked s c kind lib image = settle hooks (loadImage s c (fieldPart c) lib image) := by
  unfold loadChecked
  rw [passes]

end

theorem progLoadLib_runs {b : List Byte} (runs : CmdRuns s c progLoadLibSpec none true) (least : 1 ≤ arg c 0 4) (most : arg c 0 4 ≤ 9)
    (listed : Config.libraryImage (bundlePart s.boot.bundle 2) (arg c 0 4) = some b) :
    exec (.progLoadLib c) s = .next (loadChecked (startCmd s c progLoadLibSpec) c 1 (some (arg c 0 4)) b) := by
  rw [exec_progLoadLib, execProgLoadLib, live_runCmd (obj := fun _ => none) (mine := fun _ => true) _ runs]
  have legal : ¬ (arg c 0 4 = 0 ∨ 9 < arg c 0 4) := by omega
  dsimp only
  rw [if_neg legal, startCmd_boot, listed]
  rfl

theorem progLoad_runs (runs : CmdRuns s c progLoadSpec none true) :
    exec (.progLoad c) s = .next (loadChecked (startCmd s c progLoadSpec) c 2 none (hostImage c)) := by
  rw [exec_progLoad, execProgLoad, live_runCmd (obj := fun _ => none) (mine := fun _ => true) _ runs]
  rfl

section
variable {v : State} {part : Nat} {lib : Option Nat} {im : List Byte}

theorem loadImage_refused {k : Nat} (refused : bindInst v part lib im = .inr k) :
    loadImage v c part lib im = complete v (cmdRef c) (9 + 256 * k) 0 [] := by
  rw [loadImage, refused]

theorem loadImage_bound {t : State} {i : Nat} {x : Inst} (bound : bindInst v part lib im = .inl (some (t, i)))
    (found : instOf t i = some x) :
    loadImage v c part lib im = complete (loadImage.zeroProg t i) (cmdRef c) 0 (i + 2 ^ 12 * x.part + 2 ^ 22 * x.gen) [] := by
  rw [loadImage, bound]
  dsimp only
  rw [found]
  rfl

end

/-! ## Replacing and unloading (R364 to R367) -/

section
variable {i : Nat} {x : Inst}

/-- What becomes of a replacement that passes the checks (R365): it is refused while another waits, it waits for the RUN in progress, or its
words are written at once. -/
def replaceGo (s : State) (i : Nat) (x : Inst) (im : List Byte) (r : CmdRef) : State :=
  if x.replace.isSome then complete s r 2 0 []
  else settle hooks (if x.run.isSome then replacePut s i im r else applyReplace (replacePut s i im r) i)

theorem replaceGo_taken (im : List Byte) (r : CmdRef) (waits : x.replace.isSome = true) :
    replaceGo s i x im r = complete s r 2 0 [] := if_pos waits

theorem replaceGo_busy (im : List Byte) (r : CmdRef) (free : x.replace = none) (busy : x.run.isSome = true) :
    replaceGo s i x im r = settle hooks (replacePut s i im r) := by
  have first : ¬ x.replace.isSome = true := by simp [free]
  exact (if_neg first).trans (congrArg (settle hooks) (if_pos busy))

theorem replaceGo_idle (found : instOf s i = some x) (im : List Byte) (r : CmdRef) (free : x.replace = none) (idle : x.run = none) :
    replaceGo s i x im r = settle hooks (complete (replaceWritten (replacePut s i im r) i x.part im) r 0 0 []) := by
  have first : ¬ x.replace.isSome = true := by simp [free]
  have still : ¬ x.run.isSome = true := by simp [idle]
  rw [← applyReplace_waiting (instOf_replacePut found im r) rfl]
  exact (if_neg first).trans (congrArg (settle hooks) (if_neg still))

/-- A replacement whose words are written at once stands in its program's entry, and none waits. -/
theorem instOf_replaceWritten_replacePut (found : instOf s i = some x) (im : List Byte) (r : CmdRef) (free : x.replace = none) :
    instOf (replaceWritten (replacePut s i im r) i x.part im) i = some { x with image := im, measure := Config.shake256 32 im } := by
  rw [instOf_replaceWritten (instOf_replacePut found im r), free]

section
variable (named : progOf s c = some (i, x))
include named

theorem progReplace_runs (runs : CmdRuns s c progReplaceSpec (progPart s c) (progMine s c)) (host : x.lib = none)
    (passes : imageCheck (startCmd s c progReplaceSpec) x.part 2 (hostImage c) = none)
    (expert : (kget s.fab.progs x.part {}).expert = true) (same : imagePart (hostImage c) 1 = imagePart x.image 1)
    (stays : x.unload = none) :
    exec (.progReplace c) s = .next (replaceGo (startCmd s c progReplaceSpec) i x (hostImage c) (cmdRef c)) := by
  rw [exec_progReplace, execProgReplace, live_runCmd (obj := (progPart · c)) (mine := (progMine · c)) _ runs]
  simp only [progOf_startCmd, named, host, Option.isSome_none, Option.isNone_none, Bool.false_eq_true, if_false, passes, startCmd_fab,
    expert, Bool.not_true, Bool.and_false, same, ne_eq, not_true_eq_false, stays]
  rfl

/-- A program without its queue, which is to be unloaded once nothing of it is in progress. -/
def unloadPut (s : State) (i : Nat) (r : CmdRef) : State :=
  modInst s i fun x => { x with queue := [], unload := some (x.unload.getD [] ++ [r]) }

theorem instOf_unloadPut (r : CmdRef) :
    instOf (unloadPut s i r) i = some { x with queue := [], unload := some (x.unload.getD [] ++ [r]) } := by
  rw [unloadPut, instOf_modInst_self, instOf_of_progOf named, Option.map_some]

theorem progUnload_runs (runs : CmdRuns s c progUnloadSpec (progPart s c) (progMine s c)) :
    exec (.progUnload c) s = .next (settle hooks (unloadGo
      (x.queue.foldl (fun s r => holdEnd (refuse s r.dest .run r.p 5) r.hold)
        (unloadPut (startCmd s c progUnloadSpec) i (cmdRef c))) i)) := by
  rw [exec_progUnload, execProgUnload, live_runCmd (obj := (progPart · c)) (mine := (progMine · c)) _ runs, progOf_startCmd, named]
  rfl

/-! ## Reading (R294, R336, R159, R372) -/

/-- A command that reads does so at what its handle names, where the table of instances is as it was. -/
theorem progRead_named (t : State) (same : t.fab.insts = s.fab.insts) (f : Nat → Inst → State) : progRead t c f = f i x := by
  rw [progRead, progOf_congr same, named]

theorem progInfo_runs (runs : CmdRuns s c progInfoSpec none (progMine s c)) :
    exec (.progInfo c) s = .next
      (complete (startCmd s c progInfoSpec) (cmdRef c) 0 (programId x.image + 2 ^ 64 * programVersion x.image) []) := by
  rw [exec_progInfo, execProgInfo, live_runCmd (obj := fun _ => none) (mine := (progMine · c)) _ runs, progRead_named named (startCmd s c _) rfl]

theorem progCellRead_runs (runs : CmdRuns s c progCellReadSpec none (progMine s c)) (template : arg c 8 4 < templateCount x.image)
    (cell : arg c 12 4 < 32) :
    exec (.progCellRead c) s = .next (complete (startCmd s c progCellReadSpec) (cmdRef c) 0 0
      (leBytes 32 ((cellWords x.image (arg c 8 4)).getD (arg c 12 4) 0))) := by
  have legal : ¬ (templateCount x.image ≤ arg c 8 4 ∨ 32 ≤ arg c 12 4) := by omega
  rw [exec_progCellRead, execProgCellRead, live_runCmd (obj := fun _ => none) (mine := (progMine · c)) _ runs,
    progRead_named named (startCmd s c _) rfl, if_neg legal]

theorem progStalls_runs (runs : CmdRuns s c progStallsSpec none (progMine s c)) :
    exec (.progStalls c) s = .next
      (let t := restall (startCmd s c progStallsSpec)
       complete t (cmdRef c) 0 0
        (stallRows.flatMap fun e => leBytes 8 (ctr t (.stallNs i e.1 e.2)) ++ leBytes 8 (ctr t (.stallEvents i e.1 e.2)))) := by
  rw [exec_progStalls, execProgStalls, live_runCmd (obj := fun _ => none) (mine := (progMine · c)) _ runs]
  dsimp only
  rw [progRead_named named (restall (startCmd s c _)) (restall_insts (startCmd s c _))]

theorem progCounters_runs (runs : CmdRuns s c progCountersSpec none (progMine s c)) :
    exec (.progCounters c) s = .next (complete (startCmd s c progCountersSpec) (cmdRef c) 0 0
      ((natRange 0 6).flatMap fun k => leBytes 8 (ctr s (.prog i k)))) := by
  rw [exec_progCounters, execProgCounters, live_runCmd (obj := fun _ => none) (mine := (progMine · c)) _ runs,
    progRead_named named (startCmd s c _) rfl]
  rfl

end

end

/-! ## The partition's signing key and quota (R347, R351, R352) -/

/-- A partition's program record changed. -/
def progsPut (s : State) (n : Nat) (r : ProgRec) : State := modFab s fun f => { f with progs := kset f.progs n r }

theorem progSetSigner_runs {l : List Byte} (runs : CmdRuns s c progSetSignerSpec none true) (read : c.host = some l) :
    exec (.progSetSigner c) s = .next (complete
      (tdiFault (progsPut (startCmd s c progSetSignerSpec) c.partition.toNat
        { kget s.fab.progs c.partition.toNat {} with signer := some (sliceBytes l 0 1952) }) c.partition.toNat) (cmdRef c) 0 0 []) := by
  rw [exec_progSetSigner, execProgSetSigner, live_runCmd (obj := fun _ => none) (mine := fun _ => true) _ runs, read]
  rfl

theorem progSetQuota_runs (runs : CmdRuns s c progSetQuotaSpec none true) (blocks : bits (arg c 0 8) 0 9 ≤ 256)
    (insts : bits (arg c 0 8) 16 13 ≤ 4096) (least : 0 < bits (arg c 0 8) 32 17) (most : bits (arg c 0 8) 32 17 ≤ 65536)
    (zero9 : bits (arg c 0 8) 9 7 = 0) (zero30 : bits (arg c 0 8) 30 2 = 0) (zero49 : bits (arg c 0 8) 49 15 = 0) :
    exec (.progSetQuota c) s = .next (complete
      (progsPut (startCmd s c progSetQuotaSpec) c.partition.toNat
        { kget s.fab.progs c.partition.toNat {} with
          blocks := bits (arg c 0 8) 0 9, insts := bits (arg c 0 8) 16 13, expert := (arg c 0 8).testBit 29,
          shadowN := bits (arg c 0 8) 32 17 }) (cmdRef c) 0 0 []) := by
  have legal : ¬ (256 < bits (arg c 0 8) 0 9 ∨ 4096 < bits (arg c 0 8) 16 13 ∨ bits (arg c 0 8) 32 17 = 0 ∨
      65536 < bits (arg c 0 8) 32 17 ∨ bits (arg c 0 8) 9 7 ≠ 0 ∨ bits (arg c 0 8) 30 2 ≠ 0 ∨ bits (arg c 0 8) 49 15 ≠ 0) := by omega
  rw [exec_progSetQuota, execProgSetQuota, live_runCmd (obj := fun _ => none) (mine := fun _ => true) _ runs]
  dsimp only
  rw [if_neg legal]
  rfl

theorem progs_progsPut_self (s : State) (n : Nat) (r : ProgRec) : kfind (progsPut s n r).fab.progs n = some r := kfind_kset_self _ _ _
theorem progs_progsPut_other (s : State) (n : Nat) (r : ProgRec) (m : Nat) (other : m ≠ n) :
    kfind (progsPut s n r).fab.progs m = kfind s.fab.progs m := kfind_kset_other _ _ _ _ other

/-! ## The obligation -/

/-- Settles O53: each command by what it does once it is carried out; a replacement by whether one waits already, and a RUN is in progress. -/
theorem programCommands : Obligations.ProgramCommands := by
  intro c s
  refine ⟨fun b runs least most listed => ⟨fun st k fails => ?libFails, fun passes => ?libPasses⟩,
    fun runs => ⟨fun st k fails => ?fails, fun passes => ?passes⟩,
    fun v part lib im => ⟨fun k => loadImage_refused, fun t i x bound found => ⟨_, loadImage_bound bound found, rfl, rfl⟩⟩,
    fun i x runs named host passes expert same stays => ?replace,
    fun i x runs named => ⟨_, progUnload_runs named runs, instOf_unloadPut named _, rfl⟩,
    fun i x named => ⟨progInfo_runs named, progCellRead_runs named, progStalls_runs named, fun runs => ?counters⟩,
    fun l runs read => ⟨_, progSetSigner_runs runs read, ?signer⟩,
    fun runs blocks insts least most zero9 zero30 zero49 =>
      ⟨_, progSetQuota_runs runs blocks insts least most zero9 zero30 zero49, progs_progsPut_self .., progs_progsPut_other _ _ _, rfl, rfl⟩⟩
  case libFails => rw [progLoadLib_runs runs least most listed, loadChecked_fails fails]
  case libPasses => rw [progLoadLib_runs runs least most listed, loadChecked_passes passes]
  case fails => rw [progLoad_runs runs, loadChecked_fails fails]
  case passes => rw [progLoad_runs runs, loadChecked_passes passes]
  case replace =>
    have does := progReplace_runs named runs host passes expert same stays
    have found : instOf (startCmd s c progReplaceSpec) i = some x := instOf_of_progOf named
    refine ⟨fun waits => ?_, fun free busy => ⟨replacePut (startCmd s c progReplaceSpec) i (hostImage c) (cmdRef c), ?_, ?_, ?_⟩,
      fun free idle =>
        ⟨replaceWritten (replacePut (startCmd s c progReplaceSpec) i (hostImage c) (cmdRef c)) i x.part (hostImage c), ?_, ?_, ?_⟩⟩
    · rw [does, replaceGo_taken _ _ waits]
    · rw [does, replaceGo_busy _ _ free busy]
    · exact instOf_replacePut found _ _
    · exact replacePut_mem ..
    · rw [does, replaceGo_idle found _ _ free idle]
    · exact instOf_replaceWritten_replacePut found _ _ free
    · exact replaceWritten_mem ..
  case counters =>
    rw [progCounters_runs named runs]
    simp only [natRange, List.flatMap_cons, List.flatMap_nil, List.append_nil, List.append_assoc]
  case signer =>
    rw [tdiFault_fab]
    refine ⟨?_, progs_progsPut_other _ _ _, rfl, (tdiFault_onlyTdi _ _).mem, tdi_tdiFault _ _⟩
    rw [kget, progs_progsPut_self]
    rfl

end Sys2Proof.Machine
end

section
/-! The COLL commands, and a node that has had no input for STALL_MS (O54, R379, R391, R417, R424, R431, R438, R440). -/
namespace Sys2Proof.Machine

abbrev collOpenSpec : CmdSpec := { group := 0x0E, verb := 1, ast := true, acts := .object }
abbrev collCloseSpec : CmdSpec := { group := 0x0E, verb := 2, opts := 1, args := [(0, 8)], acts := .object }
abbrev collSetOptSpec : CmdSpec := { group := 0x0E, verb := 3, host := true, args := [(0, 8), (8, 4)], acts := .object }
abbrev collStatsSpec : CmdSpec := { group := 0x0E, verb := 4, acts := .reads }
abbrev collRehostSpec : CmdSpec :=
  { pf0 := true, group := 0x0E, verb := 5, args := [(0, 8), (8, 4), (12, 4), (16, 4)], acts := .object }

/-! ## What a command that has started reads as before it -/

section
variable (s : State) (c d : Cmd) (sp : CmdSpec)

@[simp] theorem startCmd_nextId : (startCmd s c sp).nextId = s.nextId := rfl
@[simp] theorem ctr_startCmd (k : Ctr) : ctr (startCmd s c sp) k = ctr s k := rfl
@[simp] theorem collOf_startCmd : collOf (startCmd s c sp) d = collOf s d := rfl
@[simp] theorem collsSeen_startCmd : collsSeen (startCmd s c sp) d = collsSeen s d := rfl
@[simp] theorem tablePart_startCmd : tablePart (startCmd s c sp) d = tablePart s d := rfl

end

variable {s : State} {c : Cmd} {ck : Nat} {x : CollCtx}

/-! ## COLL.OPEN (R379, R391): work that reads the descriptor -/

theorem jobs_putJob_self (s : State) (j : Job) : kfind (putJob s j).1.fab.jobs s.nextId = some { j with arrived := s.clk } :=
  kfind_kset_self _ _ _

theorem jobs_putJob_other (s : State) (j : Job) (k : Nat) (other : k ≠ s.nextId) :
    kfind (putJob s j).1.fab.jobs k = kfind s.fab.jobs k := kfind_kset_other _ _ _ _ other

/-- The work of a command that reads its descriptor or map under an AST (R845): tableCmd's, by name. -/
def tableJob (s : State) (c : Cmd) (part group verb : Nat) : Job :=
  { kind := .command group verb c, dest := .cmd (cmdRef c), stage := .parts,
    p := { lport := 1000, tc := 0, vc := 0, partition := BitVec.ofNat 10 part, ast := c.ast, src := BitVec.ofNat 15 (selfNode s), dst := 0,
           tag := 0, length := 0, address := 0, seq := 0, flags := 0, payload := [] } }

theorem tableCmd_begins (s : State) (c : Cmd) (part group verb : Nat) :
    tableCmd s c part group verb = settle hooks (putJob s (tableJob s c part group verb)).1 := rfl

theorem collOpen_runs (runs : CmdRuns s c collOpenSpec (astPart s c.ast.toNat) (astMine s c c.ast.toNat)) :
    exec (.collOpen c) s = .next (tableCmd (startCmd s c collOpenSpec) c (tablePart s c) 0x0E 1) := by
  rw [exec_collOpen, execCollOpen, live_runCmd (obj := (astPart · _)) (mine := (astMine · c _)) _ runs, tablePart_startCmd]

/-! ## COLL.CLOSE and COLL.SET_OPT (R431, R438): at the present coordinator -/

section
variable (named : collOf s c = some (ck, x)) (sp : CmdSpec) (f : Nat → CollCtx → State)
include named

theorem atCoordinator_here (here : x.lead = selfNode s) : atCoordinator (startCmd s c sp) c f = f ck x := by
  rw [atCoordinator, collOf_startCmd, named]
  exact if_pos here

theorem atCoordinator_elsewhere (away : x.lead ≠ selfNode s) :
    atCoordinator (startCmd s c sp) c f = complete (startCmd s c sp) (cmdRef c) stDenied 0 [] := by
  rw [atCoordinator, collOf_startCmd, named]
  exact if_neg away

end

theorem collClose_runs (runs : CmdRuns s c collCloseSpec (collPart s c) (collMine s c)) :
    exec (.collClose c) s = .next (atCoordinator (startCmd s c collCloseSpec) c fun _ x =>
      settle hooks (collClose (startCmd s c collCloseSpec) (.cmd (cmdRef c)) x (opt c 0))) := by
  rw [exec_collClose, execCollClose, live_runCmd (obj := (collPart · c)) (mine := (collMine · c)) _ runs]

/-- Hosts of the roots of a context's trees, each once: those that hold the optimizer's parameters. -/
def rootHosts (x : CollCtx) : List Nat := ((natRange 0 (cdTrees x.desc)).map fun t => hostOf x (rootOf x.desc x.tree t)).eraseDups

/-- What stands for a COLL.SET_OPT while the hosts of the roots are asked; it keeps the new parameters. -/
def setOptRelay (c : Cmd) (x : CollCtx) : Relay :=
  { group := 0x0E, verb := 3, part := x.part, dest := .cmd (cmdRef c), obj := handleOf x, stage := 0,
    rest := sliceBytes (c.host.getD []) 0 24 }

/-- COLL.SET_OPT at the coordinator: a context without an optimizer has no parameters. -/
def setOptGo (s : State) (c : Cmd) (x : CollCtx) : State :=
  if cdOpt x.desc = 0 then complete s (cmdRef c) stMalformed 0 []
  else settle hooks (tellHosts s (setOptRelay c x) 4 3 (handleOf x) (leBytes 4 0 ++ leBytes 4 (arg c 8 4) ++ leBytes 16 0) (rootHosts x)
    collOptPart)

theorem collSetOpt_runs (runs : CmdRuns s c collSetOptSpec (collPart s c) (collMine s c)) :
    exec (.collSetOpt c) s = .next (atCoordinator (startCmd s c collSetOptSpec) c fun _ x =>
      setOptGo (startCmd s c collSetOptSpec) c x) := by
  rw [exec_collSetOpt, execCollSetOpt, live_runCmd (obj := (collPart · c)) (mine := (collMine · c)) _ runs]
  rfl

/-! ## COLL.REHOST (R424): who asks the new host -/

/-- A node that this switch is, or has a route to. -/
def nodeKnown (s : State) (n : Nat) : Bool := n = selfNode s || (kfind s.core.routes n).isSome

theorem nodeKnown_iff (s : State) (n : Nat) : nodeKnown s n = true ↔ n = selfNode s ∨ (kfind s.core.routes n).isSome = true := by
  rw [nodeKnown, Bool.or_eq_true, decide_eq_true_eq]

/-- The coordinator asked to re-host a logical node of its context. -/
def askRehost (s : State) (c : Cmd) (ck : Nat) (x : CollCtx) (ix host : Nat) : State :=
  tellHosts s { group := 0x0E, verb := 5, part := x.part, dest := .cmd (cmdRef c), obj := ck, stage := 2 } 4 5 (handleOf x)
    (noteArgs 2 0 ix host x.lead 0 0) [x.lead] collResumePart

/-- COLL.REHOST of a context that is here, for a logical node, its new host, and the new coordinator or none. -/
def rehostGo (s : State) (c : Cmd) (ck : Nat) (x : CollCtx) (ix host lead : Nat) : State :=
  if cdNodes x.desc ≤ ix ∨ 2 ^ 15 ≤ host ∨ 2 ^ 15 ≤ lead then complete s (cmdRef c) stMalformed 0 []
  else if !nodeKnown s host || !(lead = noNode || nodeKnown s lead) then complete s (cmdRef c) stDenied 0 []
  else if lead ≠ noNode ∨ x.lead = selfNode s then
    settle hooks (rehost s (.cmd (cmdRef c)) ck ix host (if lead = noNode then x.lead else lead))
  else settle hooks (askRehost s c ck x ix host)

theorem collRehost_runs (named : collOf s c = some (ck, x)) (runs : CmdRuns s c collRehostSpec (collPart s c) true) :
    exec (.collRehost c) s = .next (rehostGo (startCmd s c collRehostSpec) c ck x (arg c 8 4) (arg c 12 4) (arg c 16 4)) := by
  rw [exec_collRehost, execCollRehost, live_runCmd (obj := (collPart · c)) (mine := fun _ => true) _ runs, collOf_startCmd, named]
  rfl

section
variable {ix host lead : Nat}

theorem rehostGo_malformed (bad : cdNodes x.desc ≤ ix ∨ 2 ^ 15 ≤ host ∨ 2 ^ 15 ≤ lead) :
    rehostGo s c ck x ix host lead = complete s (cmdRef c) stMalformed 0 [] := if_pos bad

section
variable (legal : ¬ (cdNodes x.desc ≤ ix ∨ 2 ^ 15 ≤ host ∨ 2 ^ 15 ≤ lead))
include legal

theorem rehostGo_unknown (unknown : ¬ nodeKnown s host = true ∨ (lead ≠ noNode ∧ ¬ nodeKnown s lead = true)) :
    rehostGo s c ck x ix host lead = complete s (cmdRef c) stDenied 0 [] :=
  (if_neg legal).trans (if_pos (by simpa using unknown))

variable (hostKnown : nodeKnown s host = true)
include hostKnown

/-- Where what it names is known, this switch asks the new host if a coordinator is named or it is the present one; else the
coordinator is asked to. -/
theorem rehostGo_known (leadKnown : lead = noNode ∨ nodeKnown s lead = true) :
    rehostGo s c ck x ix host lead =
      if lead ≠ noNode ∨ x.lead = selfNode s then
        settle hooks (rehost s (.cmd (cmdRef c)) ck ix host (if lead = noNode then x.lead else lead))
      else settle hooks (askRehost s c ck x ix host) :=
  (if_neg legal).trans (if_neg (by simpa [hostKnown, or_iff_not_imp_left] using leadKnown))

theorem rehostGo_coordinator (named : lead ≠ noNode) (leadKnown : nodeKnown s lead = true) :
    rehostGo s c ck x ix host lead = settle hooks (rehost s (.cmd (cmdRef c)) ck ix host lead) := by
  rw [rehostGo_known legal hostKnown (.inr leadKnown), if_pos (.inl named), if_neg named]

theorem rehostGo_here (unnamed : lead = noNode) (here : x.lead = selfNode s) :
    rehostGo s c ck x ix host lead = settle hooks (rehost s (.cmd (cmdRef c)) ck ix host x.lead) := by
  rw [rehostGo_known legal hostKnown (.inl unnamed), if_pos (.inr here), if_pos unnamed]

theorem rehostGo_asks (unnamed : lead = noNode) (away : x.lead ≠ selfNode s) :
    rehostGo s c ck x ix host lead = settle hooks (askRehost s c ck x ix host) := by
  rw [rehostGo_known legal hostKnown (.inl unnamed), if_neg (by simp [unnamed, away])]

end

end

/-! ## COLL.STATS (R440) -/

theorem collStats_runs (runs : CmdRuns s c collStatsSpec none true) :
    exec (.collStats c) s = .next (complete (startCmd s c collStatsSpec) (cmdRef c) stOk 0
      ((collsSeen s c).flatMap fun e => leBytes 8 (handleOf e.2) ++ (natRange 0 7).flatMap fun k => leBytes 8 (ctr s (.coll e.1 k)))) := by
  rw [exec_collStats, execCollStats, live_runCmd (obj := fun _ => none) (mine := fun _ => true) _ runs]
  simp only [collsSeen_startCmd, ctr_startCmd]

/-! ## A node that lacks input (R417, R794) -/

theorem cnodeOf_modNode_self (s : State) (nk : Nat) (f : CollNode → CollNode) : cnodeOf (modNode s nk f) nk = (cnodeOf s nk).map f :=
  kfind_kmod_self _ _ _

/-- A stalled node, counted and marked as told at time t. -/
def stallCounted (s : State) (ck nk : Nat) (t : Time) : State :=
  bumpColl (modNode (untilTime s t) nk fun n => { n with stallTold := true }) ck 5 1

section
variable (s : State) (ck nk : Nat) (t : Time)

theorem stallCounted_clk : (stallCounted s ck nk t).clk = max s.clk t := untilTime_clk s t

theorem stallCounted_mem : (stallCounted s ck nk t).mem = s.mem := untilTime_mem s t

theorem cnodeOf_stallCounted {n : CollNode} (found : cnodeOf s nk = some n) :
    cnodeOf (stallCounted s ck nk t) nk = some { n with stallTold := true } := by
  have same : cnodeOf (untilTime s t) nk = some n := by rw [cnodeOf, untilTime_fab, ← found, cnodeOf]
  change cnodeOf (modNode (untilTime s t) nk _) nk = _
  rw [cnodeOf_modNode_self, same, Option.map_some]

theorem ctr_stallCounted : ctr (stallCounted s ck nk t) (.coll ck 5) = satAdd 48 (ctr s (.coll ck 5)) 1 := by
  rw [stallCounted, bumpColl, ctr_bumpBy, if_pos rfl, modNode, ctr_modFab, ctr_untilTime]

end

/-- What a stalled node tells of a node that it lacks: a partner loses 30 points, and either is reported. -/
def stallTells (x : CollCtx) (n : CollNode) (s : State) (node : Nat) : State :=
  report (((partnerPort s node).map fun l => penal s l 30).getD s) 0x0A node 0x1FF (handleOf x + 2 ^ 48 * n.ix)

theorem collStall_tells {coord id ix key : Nat} {n : CollNode} (ctx : ctxOf s (ctxKey coord id) = some x)
    (node : cnodeOf s (nodeKey (ctxKey coord id) ix) = some n) (timed : cdStall x.desc ≠ 0) (untold : n.stallTold = false)
    (lowest : lowestOpen x n = some key) (lacks : lacking x n key ≠ []) :
    collStall s coord id ix = (lacking x n key).foldl (stallTells x n)
      (stallCounted s (ctxKey coord id) (nodeKey (ctxKey coord id) ix) (n.lastInput + cdStall x.desc * 1000000)) := by
  have due : ¬ (cdStall x.desc = 0 ∨ n.stallTold = true) := by simp [timed, untold]
  have reported : ¬ (lacking x n key).isEmpty = true := by simpa using lacks
  simp only [collStall, ctx, node, if_neg due, lowest, if_neg reported]
  refine congrArg (fun f => List.foldl f _ _) (funext fun s => funext fun node => ?_)
  rw [stallTells]
  cases partnerPort s node with
  | none => rfl
  | some l => rfl

/-! ## The obligation -/

/-- Settles O54: each command by who carries it out, then the stall, whose reports begin from the state in which it is counted. -/
theorem collectiveCommands : Obligations.CollectiveCommands := by
  intro c s
  refine ⟨fun runs => ?opens, fun ck x named => ⟨fun runs => ⟨fun away => ?closeAway, fun here => ?closeHere⟩,
      fun runs => ⟨fun away => ?optAway, fun here plain => ?optNone, fun here optimizer => ?optHere⟩,
      fun runs => ⟨fun bad => ?malformed, fun ix host lead => ?rehosts⟩⟩,
    fun runs => ?stats, fun coord id ix x n key live ctx node timed untold lowest lacks => ?stalls⟩
  case opens =>
    refine ⟨_, _, (collOpen_runs runs).trans (congrArg Host.Outcome.next (tableCmd_begins ..)), jobs_putJob_self _ _, rfl, rfl, rfl, rfl, rfl,
      jobs_putJob_other _ _, rfl⟩
  case closeAway => rw [collClose_runs runs, atCoordinator_elsewhere named _ _ away]
  case closeHere =>
    rw [collClose_runs runs, atCoordinator_here named _ _ here]
    rfl
  case optAway => rw [collSetOpt_runs runs, atCoordinator_elsewhere named _ _ away]
  case optNone =>
    rw [collSetOpt_runs runs, atCoordinator_here named _ _ here]
    exact congrArg Host.Outcome.next (if_pos plain)
  case optHere =>
    refine ⟨setOptRelay c x, rootHosts x, ?_, rfl, rfl, rfl⟩
    rw [collSetOpt_runs runs, atCoordinator_here named _ _ here]
    exact congrArg Host.Outcome.next (if_neg optimizer)
  case malformed => rw [collRehost_runs named runs, rehostGo_malformed bad]
  case rehosts =>
    have legal : ¬ (cdNodes x.desc ≤ arg c 8 4 ∨ 2 ^ 15 ≤ arg c 12 4 ∨ 2 ^ 15 ≤ arg c 16 4) := by omega
    rw [collRehost_runs named runs]
    simp only [← nodeKnown_iff]
    exact ⟨fun unknown => congrArg Host.Outcome.next (rehostGo_unknown legal unknown),
      fun hostKnown given leadKnown => congrArg Host.Outcome.next (rehostGo_coordinator legal hostKnown given leadKnown),
      fun hostKnown unnamed here => congrArg Host.Outcome.next (rehostGo_here legal hostKnown unnamed here),
      fun hostKnown unnamed away => congrArg Host.Outcome.next (rehostGo_asks legal hostKnown unnamed away)⟩
  case stats =>
    rw [collStats_runs runs]
    simp only [natRange, List.flatMap_cons, List.flatMap_nil, List.append_nil, List.append_assoc]
    rfl
  case stalls =>
    refine ⟨stallCounted s (ctxKey coord id) (nodeKey (ctxKey coord id) ix) (n.lastInput + cdStall x.desc * 1000000), ?_,
      stallCounted_clk .., cnodeOf_stallCounted _ _ _ _ node, ctr_stallCounted .., stallCounted_mem ..⟩
    rw [exec_collStall, execCollStall, live_running _ live, collStall_tells ctx node timed untold lowest lacks]
    rfl

end Sys2Proof.Machine
end

section
/-! The SEARCH commands, and a part sent again (O56, R485, R492, R494, R505, R507, R518 to R524, R526, R855). -/
namespace Sys2Proof.Machine

abbrev searchCreateSpec : CmdSpec := { group := 0x10, verb := 1, ast := true, acts := .object }
abbrev searchDestroySpec : CmdSpec := { group := 0x10, verb := 2, args := [(0, 8)], acts := .object }
abbrev searchQuerySpec : CmdSpec := { group := 0x10, verb := 3, host := true, ast := true, args := [(0, 8), (8, 4)], acts := .object }
abbrev searchDeleteSpec : CmdSpec := { group := 0x10, verb := 4, opts := 1, host := true, args := [(0, 8), (8, 4)], acts := .object }
abbrev searchRepairSpec : CmdSpec := { group := 0x10, verb := 5, args := [(0, 8), (8, 8)], acts := .object }
abbrev searchInfoSpec : CmdSpec := { group := 0x10, verb := 6, args := [(0, 8)], acts := .reads }
abbrev searchStatsSpec : CmdSpec := { group := 0x10, verb := 7, args := [(0, 8)], acts := .reads }

section
variable (s : State) (c d : Cmd) (sp : CmdSpec)

@[simp] theorem searchOf_startCmd : searchOf (startCmd s c sp) d = searchOf s d := rfl
@[simp] theorem partOf_startCmd (n : Nat) : partOf (startCmd s c sp) n = partOf s n := rfl
@[simp] theorem queryReq_startCmd (part : Nat) : queryReq (startCmd s c sp) d part = queryReq s d part := rfl

end

section
variable (s : State) (r : Relay)

theorem kfind_newRelay_self : kfind (newRelay s r).1.fab.relays s.nextId = some r := kfind_kset_self _ _ _
theorem newRelay_mem : (newRelay s r).1.mem = s.mem := rfl

end

variable {s : State} {c : Cmd} {xk : Nat} {x : SearchIx}

/-! ## Messages to other switches -/

theorem foldl_steady {α : Type} (f : State → α → State) (each : ∀ s a, Steady s (f s a)) (l : List α) (s : State) :
    Steady s (l.foldl f s) := by
  induction l generalizing s with
  | nil => exact Steady.refl s
  | cons a l ih => exact (each s a).trans (ih _)

theorem relaySend_steady (s : State) (id kind group verb part addr0 : Nat) (args extra : List Byte) (nodes : List Nat) :
    Steady s (relaySend s id kind group verb part addr0 args extra nodes) := by
  unfold relaySend
  refine foldl_steady _ (fun s n => ?_) _ _
  split
  · exact ⟨rfl, rfl, rfl⟩
  · refine foldl_steady _ (fun s payload => ?_) _ _
    dsimp only
    split
    · exact ⟨rfl, rfl, rfl⟩
    · next sent => exact (sendMgmt_steady sent).trans ⟨rfl, rfl, rfl⟩

/-! ## Where a command is carried out -/

theorem next_settle_congr {t u : State} (same : t = u) :
    (Host.Outcome.next (settle hooks t) : Host.Outcome State Fault Refusal) = .next (settle hooks u) := congrArg _ (congrArg _ same)

/-- An index that a handle names is in the table under its key (R493). -/
theorem indexOf_of_handleIndex {a : Nat} (named : handleIndex s a = some (xk, x)) : indexOf s xk = some x := by
  simp only [handleIndex] at named
  split at named
  case h_1 y found =>
    split at named
    · obtain ⟨rfl, rfl⟩ := Prod.mk.inj (Option.some.inj named)
      exact found
    · cases named
  case h_2 => cases named

theorem indexOf_modIndex_self (s : State) (xk : Nat) (f : SearchIx → SearchIx) : indexOf (modIndex s xk f) xk = (indexOf s xk).map f :=
  kfind_kmod_self _ _ _

section
variable {sp full : CmdSpec} (f : State → Nat → SearchIx → State) (named : searchOf s c = some (xk, x))
  (runs : CmdRuns s c full (searchPart s c) (searchMine s c)) (spec : { sp with group := 0x10, acts := .object } = full)
include named runs spec

theorem live_searchCmd :
    live s (fun s => searchCmd s c sp f) = .next (if x.coord = selfNode s then settle hooks (f (startCmd s c full) xk x)
      else complete (startCmd s c full) (cmdRef c) stDenied 0 []) := by
  subst spec
  rw [live_running _ runs.1, searchCmd, runCmd_runs _ runs, searchOf_startCmd, named]
  rfl

theorem live_searchCmd_here (here : x.coord = selfNode s) :
    live s (fun s => searchCmd s c sp f) = .next (settle hooks (f (startCmd s c full) xk x)) := by
  rw [live_searchCmd f named runs spec, if_pos here]

theorem live_searchCmd_elsewhere (away : x.coord ≠ selfNode s) :
    live s (fun s => searchCmd s c sp f) = .next (complete (startCmd s c full) (cmdRef c) stDenied 0 []) := by
  rw [live_searchCmd f named runs spec, if_neg away]

end

/-! ## SEARCH.CREATE (R485, R492): work that reads the descriptor -/

theorem searchCreate_runs (runs : CmdRuns s c searchCreateSpec (astPart s c.ast.toNat) (astMine s c c.ast.toNat)) :
    exec (.searchCreate c) s = .next (tableCmd (startCmd s c searchCreateSpec) c (tablePart s c) 0x10 1) := by
  rw [exec_searchCreate, execSearchCreate, live_runCmd (obj := (astPart · _)) (mine := (astMine · c _)) _ runs, tablePart_startCmd]

/-! ## SEARCH.DESTROY (R494): every switch that may hold an entry is told -/

section
variable (named : searchOf s c = some (xk, x)) (runs : CmdRuns s c searchDestroySpec (searchPart s c) (searchMine s c))
include named runs

theorem searchDestroy_here (here : x.coord = selfNode s) :
    exec (.searchDestroy c) s = .next (settle hooks (tellEmb (startCmd s c searchDestroySpec) (searchRelay c x 2 (ixHosts x.desc x.shards)) 7 2
      (handleOfIndex x) 0 [] [] (entryNodes s (ixHosts x.desc x.shards)) searchTake)) :=
  (exec_searchDestroy c s).trans (live_searchCmd_here _ named runs rfl here)

theorem searchDestroy_elsewhere (away : x.coord ≠ selfNode s) :
    exec (.searchDestroy c) s = .next (complete (startCmd s c searchDestroySpec) (cmdRef c) stDenied 0 []) :=
  (exec_searchDestroy c s).trans (live_searchCmd_elsewhere _ named runs rfl away)

end

/-! ## SEARCH.QUERY (R518, R855): a payload that is too long, or an answer that does not fit, is MALFORMED -/

/-- The payload of a SEARCH.QUERY is too long, or its answer does not fit. -/
abbrev queryUnfit (c : Cmd) (p : Req) : Prop := 65536 < arg c 8 4 ∨ (p.length ≠ 0 ∧ c.outLen.toNat < 8 * sK p.payload)

theorem searchQuery_runs (named : searchOf s c = some (xk, x))
    (runs : CmdRuns s c searchQuerySpec (searchPart s c) (searchMine s c && (c.ast = 0 || astMine s c c.ast.toNat)))
    (allowed : (partOf s x.part).ops.testBit 7 = true) :
    exec (.searchQuery c) s = .next (if queryUnfit c (queryReq s c x.part) then
        complete (startCmd s c searchQuerySpec) (cmdRef c) stMalformed 0 []
      else settle hooks (startSearch (startCmd s c searchQuerySpec) (.cmd (cmdRef c)) (queryReq s c x.part))) := by
  rw [exec_searchQuery, execSearchQuery,
    live_runCmd (obj := (searchPart · c)) (mine := fun s => searchMine s c && (c.ast = 0 || astMine s c c.ast.toNat)) _ runs,
    searchOf_startCmd, named]
  simp only [partOf_startCmd, allowed, queryReq_startCmd]
  rfl

/-! ## SEARCH.DELETE (R520, R521): each host of a named item is asked -/

/-- The item ids that a SEARCH.DELETE carries. -/
def namedItems (c : Cmd) : List Nat := (natRange 0 (arg c 8 4)).map fun k => leField (c.host.getD []) (4 * k) 4

/-- Those of them that are items of the index; the others are skipped. -/
def goodItems (c : Cmd) (x : SearchIx) : List Nat := (namedItems c).filter fun i => decide (i < ixItems x.desc)

/-- The host of the shard that holds an item. -/
def itemHost (x : SearchIx) (i : Nat) : Option Nat :=
  ((natRange 0 (ixShards x.desc)).find? fun k => decide (siBase x.shards k ≤ i ∧ i < siEnd x.desc x.shards k)).map (siHost x.shards)

/-- The hosts that a SEARCH.DELETE asks, each once. -/
def itemHosts (c : Cmd) (x : SearchIx) : List Nat := ((goodItems c x).filterMap (itemHost x)).eraseDups

/-- The parameters of a SEARCH.DELETE's message: option 0 is UNDELETE. -/
def deleteArgs (c : Cmd) (x : SearchIx) : List Byte := embArgs (handleOfIndex x) 0 (leBytes 4 (if opt c 0 then 1 else 0))

/-- The ids of a host's items, as bytes. -/
def hostItems (c : Cmd) (x : SearchIx) (h : Nat) : List Byte := ((goodItems c x).filter fun i => itemHost x i = some h).flatMap (leBytes 4)

/-- A host is sent the ids of its items; this switch takes its own at once. -/
def askDelete (c : Cmd) (x : SearchIx) (id : Nat) (s : State) (h : Nat) : State :=
  let t := relaySend s id 8 0x10 4 x.part 0 (deleteArgs c x) (hostItems c x h) [h]
  if h = selfNode t then searchTake t (.relay id h) ((xchgPayload 8 0x10 4 x.part 0 (deleteArgs c x)).drop 8 ++ hostItems c x h) else t

theorem askDelete_other {id h : Nat} (away : h ≠ selfNode s) :
    askDelete c x id s h = relaySend s id 8 0x10 4 x.part 0 (deleteArgs c x) (hostItems c x h) [h] := by
  rw [askDelete, (relaySend_steady ..).self]
  exact if_neg away

/-- SEARCH.DELETE at the index's coordinator. -/
def deleteGo (s : State) (c : Cmd) (x : SearchIx) : State :=
  let skipped := (namedItems c).length - (goodItems c x).length
  if (itemHosts c x).isEmpty then complete s (cmdRef c) stOk skipped []
  else (itemHosts c x).foldl (askDelete c x s.nextId) (newRelay s (searchRelay c x 4 [skipped])).1

theorem searchDelete_here (named : searchOf s c = some (xk, x)) (runs : CmdRuns s c searchDeleteSpec (searchPart s c) (searchMine s c))
    (here : x.coord = selfNode s) :
    exec (.searchDelete c) s = .next (settle hooks (deleteGo (startCmd s c searchDeleteSpec) c x)) :=
  (exec_searchDelete c s).trans (live_searchCmd_here _ named runs rfl here)

theorem namedItems_length (c : Cmd) : (namedItems c).length = arg c 8 4 := by
  rw [namedItems, List.length_map, natRange_eq_range', List.length_range']

theorem goodItems_eq_nil (unknown : ∀ k, k < arg c 8 4 → ixItems x.desc ≤ leField (c.host.getD []) (4 * k) 4) : goodItems c x = [] := by
  simp only [goodItems, namedItems, List.filter_eq_nil_iff, List.forall_mem_map, mem_natRange_iff]
  intro k within
  simpa using unknown k (by omega)

theorem deleteGo_none (skipsAll : goodItems c x = []) : deleteGo s c x = complete s (cmdRef c) stOk (arg c 8 4) [] := by
  rw [deleteGo, itemHosts, skipsAll, namedItems_length]
  rfl

theorem deleteGo_one {h : Nat} (one : itemHosts c x = [h]) (away : h ≠ selfNode s) :
    deleteGo s c x = relaySend (newRelay s (searchRelay c x 4 [arg c 8 4 - (goodItems c x).length])).1 s.nextId 8 0x10 4 x.part 0
      (deleteArgs c x) (hostItems c x h) [h] := by
  rw [deleteGo, one, namedItems_length, if_neg (by simp), List.foldl_cons, List.foldl_nil]
  exact askDelete_other away

/-! ## SEARCH.REPAIR (R522, R523): one at a time for an index -/

/-- The hosts of the shards that a SEARCH.REPAIR names, each once. -/
def repairHosts (c : Cmd) (x : SearchIx) : List Nat :=
  (((natRange 0 (ixShards x.desc)).filter (arg c 8 8).testBit).map (siHost x.shards)).eraseDups

/-- An index whose repair has begun. -/
def repairBegun (s : State) (xk : Nat) : State := modIndex s xk fun x => { x with repairing := true }

/-- SEARCH.REPAIR at the index's coordinator. -/
def runRepair (s : State) (c : Cmd) (xk : Nat) (x : SearchIx) : State :=
  if 2 ^ ixShards x.desc ≤ arg c 8 8 then complete s (cmdRef c) stMalformed 0 []
  else if x.repairing then complete s (cmdRef c) stRetry 0 []
  else if (repairHosts c x).isEmpty then complete s (cmdRef c) stOk 0 []
  else tellEmb (repairBegun s xk) (searchRelay c x 5 []) 8 5 (handleOfIndex x) 0 (leBytes 8 (arg c 8 8)) [] (repairHosts c x) searchTake

theorem searchRepair_here (named : searchOf s c = some (xk, x)) (runs : CmdRuns s c searchRepairSpec (searchPart s c) (searchMine s c))
    (here : x.coord = selfNode s) :
    exec (.searchRepair c) s = .next (settle hooks (runRepair (startCmd s c searchRepairSpec) c xk x)) :=
  (exec_searchRepair c s).trans (live_searchCmd_here _ named runs rfl here)

theorem runRepair_malformed (bad : 2 ^ ixShards x.desc ≤ arg c 8 8) : runRepair s c xk x = complete s (cmdRef c) stMalformed 0 [] :=
  if_pos bad

section
variable (legal : arg c 8 8 < 2 ^ ixShards x.desc)
include legal

theorem runRepair_busy (busy : x.repairing = true) : runRepair s c xk x = complete s (cmdRef c) stRetry 0 [] :=
  (if_neg (Nat.not_le.mpr legal)).trans (if_pos busy)

section
variable (idle : x.repairing = false)
include idle

theorem runRepair_unhosted (unhosted : repairHosts c x = []) : runRepair s c xk x = complete s (cmdRef c) stOk 0 [] := by
  rw [runRepair, if_neg (Nat.not_le.mpr legal), if_neg (by simp [idle]), unhosted]
  rfl

/-- Where no other repair runs, the hosts of the shards that it names are asked. -/
theorem runRepair_asks (hosted : repairHosts c x ≠ []) :
    runRepair s c xk x =
      tellEmb (repairBegun s xk) (searchRelay c x 5 []) 8 5 (handleOfIndex x) 0 (leBytes 8 (arg c 8 8)) [] (repairHosts c x) searchTake := by
  rw [runRepair, if_neg (Nat.not_le.mpr legal), if_neg (by simp [idle]), if_neg (mt List.isEmpty_iff.mp hosted)]

end

end

/-! ## SEARCH.INFO (R524) and SEARCH.STATS (R526) -/

theorem searchInfo_runs (named : searchOf s c = some (xk, x)) (runs : CmdRuns s c searchInfoSpec none (searchMine s c)) :
    exec (.searchInfo c) s = .next (complete (startCmd s c searchInfoSpec) (cmdRef c) stOk 0
      ((natRange 0 (ixShards x.desc)).flatMap fun k => leBytes 4 (entryItem x k))) := by
  rw [exec_searchInfo, execSearchInfo, live_runCmd (obj := fun _ => none) (mine := (searchMine · c)) _ runs, searchOf_startCmd, named]

theorem searchStats_runs (named : searchOf s c = some (xk, x)) (runs : CmdRuns s c searchStatsSpec none (searchMine s c)) :
    exec (.searchStats c) s = .next (complete (startCmd s c searchStatsSpec) (cmdRef c) stOk 0
      ((natRange 0 15).flatMap fun k => leBytes 8 (ctr s (.search xk k)))) := by
  rw [exec_searchStats, execSearchStats, live_runCmd (obj := fun _ => none) (mine := (searchMine · c)) _ runs, searchOf_startCmd, named]
  simp only [ctr_startCmd]

/-! ## SEARCH_PART_RETRY (R507): of the parts that wait, the one of least time -/

/-- The time of a part that waits has come: it waits no longer. -/
def againNow (s : State) (t : Time) (id ix : Nat) : State :=
  modJob (untilTime s t) id fun j => { j with parts := j.parts.mapIdx fun i x => if i = ix then { x with retryAt := none } else x }

/-- A search goes on. -/
def retryGo (s : State) (id : Nat) : State :=
  match (jobOf s id).map (·.kind) with
  | some (JobKind.search xk) => searchGo s id xk
  | _ => s

/-- What follows the choice of a part to send again. -/
def retryChosen (s : State) : Option (Time × Nat × Nat) → State
  | none => s
  | some (t, id, ix) => settle hooks (retryGo (againNow s t id ix) id)

/-- The part of lesser time, of one found before and another. -/
def sooner (found : Option (Time × Nat × Nat)) (e : Time × Nat × Nat) : Option (Time × Nat × Nat) :=
  match found with
  | some x => if e.1 < x.1 then some e else some x
  | none => some e

theorem argmin_eq_foldl_sooner (l : List (Time × Nat × Nat)) : l.argmin (·.1) = l.foldl sooner none := by
  refine congrArg (fun f => l.foldl f none) (funext fun found => funext fun e => ?_)
  cases found <;> rfl

theorem searchPartRetry_chooses (live : running s = true) :
    exec .searchPartRetry s = .next (retryChosen s ((retryParts s).argmin (·.1))) := by
  rw [exec_searchPartRetry, execSearchPartRetry, live_running _ live, argmin_eq_foldl_sooner]
  rfl

theorem retryGo_search {id : Nat} (searches : (jobOf s id).map (·.kind) = some (.search xk)) : retryGo s id = searchGo s id xk := by
  rw [retryGo, searches]

/-- The only job has one part, which waits until t. -/
theorem retryParts_single {id : Nat} {j : Job} {part : JobPart} {t : Time} (only : s.fab.jobs = [(id, j)]) (one : j.parts = [part])
    (waits : part.retryAt = some t) : retryParts s = [(t, id, 0)] := by
  simp [retryParts, only, one, waits]

theorem jobOf_againNow_single {id : Nat} {j : Job} {part : JobPart} {t : Time} (only : s.fab.jobs = [(id, j)]) (one : j.parts = [part]) :
    jobOf (againNow s t id 0) id = some { j with parts := [{ part with retryAt := none }] } := by
  have found : jobOf (untilTime s t) id = some j := by simp [jobOf, only, kfind]
  rw [againNow, jobOf_modJob_self, found, Option.map_some, one]
  rfl

/-! ## The obligation -/

/-- Settles O56: each command by what it does once it is carried out, then the part of least time among those that wait. -/
theorem searchCommands : Obligations.SearchCommands := by
  intro c s
  refine ⟨fun runs => ?creates, fun xk x named => ⟨⟨fun ⟨runs, here⟩ => searchDestroy_here named runs here, searchDestroy_elsewhere named⟩,
      fun runs allowed => ?queries, fun ⟨runs, here⟩ => ?deletes, fun ⟨runs, here⟩ => ?repairs, searchInfo_runs named, searchStats_runs named⟩,
    fun live idle => ?noneWaits, fun live waiting => ?oneWaits, fun id j xk part t live only searches one waits => ?singleWaits⟩
  case creates =>
    exact ⟨_, _, (searchCreate_runs runs).trans (congrArg Host.Outcome.next (tableCmd_begins ..)), jobs_putJob_self _ _, rfl, rfl, rfl,
      jobs_putJob_other _ _, rfl⟩
  case queries =>
    rw [searchQuery_runs named runs allowed]
    refine ⟨fun long => congrArg Host.Outcome.next (if_pos (.inl long)), fun fits room => congrArg Host.Outcome.next (if_neg ?_),
      fun fits answered short => congrArg Host.Outcome.next (if_pos (.inr ⟨answered, short⟩))⟩
    rintro (long | ⟨answered, short⟩)
    · exact absurd fits (Nat.not_le.mpr long)
    · exact room.elim answered (Nat.not_le.mpr short)
  case deletes =>
    rw [searchDelete_here named runs here]
    exact ⟨fun unknown => next_settle_congr (deleteGo_none (goodItems_eq_nil unknown)),
      fun h one away => ⟨_, next_settle_congr (deleteGo_one one away), kfind_newRelay_self .., newRelay_mem ..⟩⟩
  case repairs =>
    have found : indexOf (startCmd s c searchRepairSpec) xk = some x := indexOf_of_handleIndex named
    rw [searchRepair_here named runs here]
    refine ⟨fun bad => next_settle_congr (runRepair_malformed bad),
      fun legal idle unhosted => next_settle_congr (runRepair_unhosted legal idle unhosted),
      fun legal busy => next_settle_congr (runRepair_busy legal busy),
      fun legal idle hosted => ⟨_, next_settle_congr (runRepair_asks legal idle hosted), ?_, rfl⟩⟩
    rw [repairBegun, indexOf_modIndex_self, found, Option.map_some]
  case noneWaits => rw [searchPartRetry_chooses live, idle, List.argmin_nil, retryChosen]
  case oneWaits =>
    obtain ⟨⟨t, id, ix⟩, first⟩ := Option.ne_none_iff_exists'.mp (mt (List.argmin_eq_none (f := Prod.fst)).mp waiting)
    refine ⟨t, id, ix, List.argmin_mem first, fun e waits => List.le_of_mem_argmin (f := Prod.fst) waits first, fun xk searches => ?_⟩
    rw [searchPartRetry_chooses live, first, retryChosen]
    exact next_settle_congr (retryGo_search searches)
  case singleWaits =>
    have found := jobOf_againNow_single (t := t) only one
    refine ⟨againNow s t id 0, ?_, untilTime_clk s t, found, untilTime_mem s t⟩
    rw [searchPartRetry_chooses live, retryParts_single only one waits, List.argmin_singleton, retryChosen,
      retryGo_search (by rw [found, Option.map_some, searches])]

end Sys2Proof.Machine
end

section
/-! ATTN.CLOSE (O57, R88, R535): a context is held by the ATTENDs that its ingress has admitted, and not by engine work alone. -/
namespace Sys2Proof.Machine

/-- Completing commands leaves every attention context as it is. -/
theorem attnOf_completeAll (s : State) (rs : List CmdRef) (st i : Nat) : attnOf (completeAll s rs st) i = attnOf s i := by
  rw [attnOf, attnOf, (completeAll_quiet s rs st).fab]

/-- While an admitted ATTEND of the context is outstanding at this ingress, its ATTN.CLOSE waits (R535). -/
theorem closeAttn_waits {s : State} {i : Nat} (waits : attnWaits s i = true) : closeAttn s i = s := by
  unfold closeAttn
  split
  · rfl
  · split
    · rfl
    · exact if_pos (by rw [waits, Bool.or_true])

/-- So where a context stands with such an ATTEND, what `closeAttn` gives is no state in which the context is gone. -/
theorem closeAttn_keeps_waiting {s u : State} {i st : Nat} {x : AttnCtx} {rs : List CmdRef} (found : attnOf s i = some x)
    (waits : attnWaits s i = true) (closes : closeAttn s i = completeAll u rs st) : attnOf u i = some x := by
  rw [← attnOf_completeAll u rs st i, ← closes, closeAttn_waits waits, found]

/-- Context 3 of partition 1, which command 7 of PF0 closes. -/
def closingCtx : AttnCtx := { part := 1, gen := 0, desc := [], closing := some [⟨0, 0, 7, 0, 0, none⟩] }

/-- An ATTEND of node 5 to that context, admitted here and never to be answered: it is held (R88). -/
def heldAttend : OutReq :=
  { op := .attend, gen := 0, phase := .unanswered, parts := [], arrived := 0
    p := { lport := 0, tc := 6, vc := 3, partition := 1, ast := 2, src := 5, dst := 1, tag := 7, length := 0,
           address := BitVec.ofNat 64 (mkNodeHandle 3 1 1 0), seq := 0, flags := 0 } }

/-- Command 7, an ATTN.CLOSE that has started. -/
def closeInFlight : InFlight := { qp := 0, cid := 7, fence := false, started := true, sqHead := 0, group := 0x11, verb := 2 }

/-- Node 1 with that context, that ATTEND and that command; no engine works. -/
def heldClose : State :=
  { State.reset with
    fm := { State.reset.fm with selfNode := 1 }
    ing := { State.reset.ing with outs := [(0, heldAttend)] }
    fab := { State.reset.fab with attns := [(3, closingCtx)] }
    hys := { State.reset.hys with fns := [(0, { inFlight := [closeInFlight] })] } }

theorem heldClose_waits : attnWaits heldClose 3 = true := by decide

/-- Refutes O57: its clause on closing frees a context as soon as no engine works for it, but an ATTEND that this ingress has admitted holds
the context too, here one that is never answered (R535, R88): the context stands and command 7 waits. -/
theorem not_attentionAndServing : ¬ Obligations.AttentionAndServing := by
  intro h
  obtain ⟨_, _, closes, _⟩ := h { fn := 0, qp := 0, cid := 7 } heldClose
  have idle : ∀ e ∈ heldClose.fab.jobs, e.2.kind ≠ .attend 3 := fun _ works => nomatch works
  obtain ⟨u, same, gone, -⟩ := (closes 3 closingCtx _ rfl rfl rfl).2 idle
  exact absurd (gone.symm.trans (closeAttn_keeps_waiting rfl heldClose_waits same)) nofun

end Sys2Proof.Machine
end

section
/-! A step (O1), the checks that every unsigned command goes through (O58, R852, R856), and HYS.NOP (O59, R854). -/
namespace Sys2Proof.Machine

/-- Settles O1: with a command in front the step is its meaning; with none, it idles. -/
theorem stepRunsFront : Obligations.StepRunsFront := by
  intro c rest s
  refine ⟨fun front => ?_, fun empty => ⟨idle s, ?_, rfl, ?_⟩⟩
  · rw [step, front]
  · rw [step, empty]
  · rw [untilTime_clk, Nat.max_eq_right (Nat.le_succ s.clk)]

/-! ## The checks, in their order -/

section
variable {s : State} {c : Cmd} {sp : CmdSpec} {obj : Option Nat} {mine : Bool} (body : State → State)

theorem runCmd_waits (waits : mayStart s c sp = false) : runCmd s c sp obj mine body = s := by
  simp [runCmd, waits]

theorem runCmd_tdiError (may : mayStart s c sp = true) (err : tdiError (startCmd s c sp) c.fn = true) :
    runCmd s c sp obj mine body = complete (startCmd s c sp) (cmdRef c) stDenied 0 [] := by
  simp [runCmd, may, err]

theorem runCmd_fails (may : mayStart s c sp = true) (noErr : tdiError (startCmd s c sp) c.fn = false) {st : Nat}
    (fails : commonCheck (startCmd s c sp) c sp obj mine = some st) :
    runCmd s c sp obj mine body = complete (startCmd s c sp) (cmdRef c) st 0 [] := by
  simp [runCmd, may, noErr, fails]

theorem runCmd_passes (may : mayStart s c sp = true) (noErr : tdiError (startCmd s c sp) c.fn = false)
    (passes : commonCheck (startCmd s c sp) c sp obj mine = none) : runCmd s c sp obj mine body = body (startCmd s c sp) := by
  simp [runCmd, may, noErr, passes]

/-- R978: the status of a command for a partition that is not ACTIVE. -/
theorem partitionCheck_inactive {n : Nat} (inactive : (partOf s n).st ≠ .active) :
    partitionCheck s c (some n) = some (if (partOf s n).st = .free ∧ c.fn = 0 then stDenied else stTornDown) := by
  cases st : (partOf s n).st
  case active => exact absurd st inactive
  all_goals simp [partitionCheck, st]
  split <;> rfl

theorem partitionCheck_active {part : Option Nat} (active : ∀ n, part = some n → (partOf s n).st = .active) :
    partitionCheck s c part = none := by
  cases part with
  | none => rfl
  | some n => simp [partitionCheck, active n rfl]

/-- The partition that the third check of R852 asks of. -/
abbrev partChecked (c : Cmd) (sp : CmdSpec) (obj : Option Nat) : Option Nat :=
  if sp.acts = .own && c.fn = 0 then none else actsFor c sp obj

theorem commonCheck_descriptor (bad : descriptorOk c sp = false) : commonCheck s c sp obj mine = some stMalformed := by
  simp [commonCheck, bad]

theorem commonCheck_pf0 (good : descriptorOk c sp = true) (pf0 : sp.pf0 = true) (vf : c.fn ≠ 0) :
    commonCheck s c sp obj mine = some stDenied := by
  simp [commonCheck, good, pf0, vf]

/-- PF0 alone, or a function of any: the second check passes. -/
theorem pf0_passes (pf0 : sp.pf0 = true → c.fn = 0) : (sp.pf0 && decide (c.fn ≠ 0)) = false := by
  cases h : sp.pf0
  · rfl
  · simp [pf0 h]

theorem commonCheck_partition (good : descriptorOk c sp = true) (pf0 : sp.pf0 = true → c.fn = 0) {n : Nat}
    (acts : partChecked c sp obj = some n) (inactive : (partOf s n).st ≠ .active) :
    commonCheck s c sp obj mine = some (if (partOf s n).st = .free ∧ c.fn = 0 then stDenied else stTornDown) := by
  have fails := (congrArg (partitionCheck s c) acts).trans (partitionCheck_inactive inactive)
  rw [commonCheck, good, pf0_passes pf0, fails]
  rfl

theorem commonCheck_last (good : descriptorOk c sp = true) (pf0 : sp.pf0 = true → c.fn = 0)
    (active : ∀ n, partChecked c sp obj = some n → (partOf s n).st = .active) :
    commonCheck s c sp obj mine =
      if c.fn ≠ 0 && !mine then some stDenied else if sp.host && c.host.isNone then some stHostFault else none := by
  rw [commonCheck, good, pf0_passes pf0, partitionCheck_active active]
  rfl

end

/-- Settles O58: each check of R852 where the ones before it pass. -/
theorem commandChecks : Obligations.CommandChecks := by
  intro s c sp obj mine body
  refine ⟨runCmd_waits body, fun may => ⟨runCmd_tdiError body may, fun noErr => ⟨fun bad => ?_, fun good => ⟨fun pf0 vf => ?_, fun pf0 =>
    ⟨fun n acts inactive => ?_, fun active => ⟨fun vf other => ?_, fun own => ⟨fun host lacks => ?_, fun given => ?_⟩⟩⟩⟩⟩⟩⟩
  · exact runCmd_fails body may noErr (commonCheck_descriptor bad)
  · exact runCmd_fails body may noErr (commonCheck_pf0 good pf0 vf)
  · exact runCmd_fails body may noErr (commonCheck_partition good pf0 acts inactive)
  · refine runCmd_fails body may noErr ((commonCheck_last good pf0 active).trans ?_)
    simp [vf, other]
  all_goals
    have mine' : (decide (c.fn ≠ 0) && !mine) = false := by
      by_cases vf : c.fn = 0 <;> simp_all
  · refine runCmd_fails body may noErr ((commonCheck_last good pf0 active).trans ?_)
    rw [mine']
    simp [host, lacks]
  · refine runCmd_passes body may noErr ((commonCheck_last good pf0 active).trans ?_)
    rw [mine']
    cases h : sp.host
    · rfl
    · simpa [Option.isSome_iff_ne_none] using given h

/-! ## HYS.NOP -/

theorem argMask_nil : argMask [] = 0 := rfl

/-- A command without parameters whose ARGS are not 0 fails the first check (R24). -/
theorem descriptorOk_args {c : Cmd} {sp : CmdSpec} (none : sp.args = []) (args : c.args ≠ 0) : descriptorOk c sp = false := by
  have whole : c.args.toNat &&& (2 ^ 256 - 1 - argMask sp.args) = c.args.toNat := by
    rw [none, argMask_nil, Nat.sub_zero, Nat.and_two_pow_sub_one_eq_mod, Nat.mod_eq_of_lt c.args.isLt]
  have some_ : c.args.toNat ≠ 0 := fun h => args (BitVec.eq_of_toNat_eq h)
  rw [descriptorOk, whole]
  simp [some_]

theorem runCmd_descriptor {s : State} {c : Cmd} {sp : CmdSpec} {obj : Option Nat} {mine : Bool} (body : State → State)
    (may : mayStart s c sp = true) (noErr : tdiError (startCmd s c sp) c.fn = false) (bad : descriptorOk c sp = false) :
    runCmd s c sp obj mine body = complete (startCmd s c sp) (cmdRef c) stMalformed 0 [] :=
  runCmd_fails body may noErr (commonCheck_descriptor bad)

/-- What completing a command that came from a queue leaves as it is, beside what `Quiet` keeps: it writes its function's queues. -/
theorem complete_queued (s : State) (r : CmdRef) (st res : Nat) (out : List Byte) (queued : r.fm = none) :
    ∃ x b, complete s r st res out = { s with hys := x, power := { s.power with busyAt := b } } ∧
      ∀ fn, fn ≠ r.fn → kget x.fns fn {} = fnOf s fn := by
  rw [complete, queued]
  dsimp only
  split
  · exact ⟨s.hys, s.power.busyAt, rfl, fun _ _ => rfl⟩
  · split
    · exact ⟨_, _, rfl, fun _ other => kget_kset_other _ _ _ _ _ other⟩
    · exact ⟨_, _, rfl, fun _ other => kget_kset_other _ _ _ _ _ other⟩

theorem fnOf_startCmd_other (s : State) (c : Cmd) (sp : CmdSpec) {fn : Nat} (other : fn ≠ c.fn) :
    fnOf (startCmd s c sp) fn = fnOf s fn :=
  fnOf_modFn_other (markBusy s) c.fn fn _ other

/-- Settles O59. -/
theorem hysNop : Obligations.HysNop := by
  intro c s
  dsimp only
  simp only [exec_hysNop, execHysNop]
  refine ⟨fun runs => ?_, fun up may noErr args => ?_, fun up waits => ?_⟩
  · refine ⟨_, live_runCmd (obj := fun _ => none) (mine := fun _ => true) _ runs, rfl, ?_, ?_⟩
    · exact (startCmd_quiet s c _).trans (complete_quiet _ _ _ _ _)
    · obtain ⟨x, b, same, others⟩ := complete_queued (startCmd s c { group := 0x01, verb := 1 }) (cmdRef c) 0 0 [] rfl
      rw [stOk, same]
      exact ⟨rfl, rfl, rfl, rfl, rfl, rfl, rfl, fun fn other => (others fn other).trans (fnOf_startCmd_other s c _ other)⟩
  · rw [live_running _ up, runCmd_descriptor _ may noErr (descriptorOk_args rfl args)]
  · have not : mayStart s c { group := 0x01, verb := 1 } = false := by simp [mayStart, waits]
    rw [live_running _ up, runCmd_waits _ not]

end Sys2Proof.Machine
end

section
/-! Memory's canonical form and the queue of commands through a step (O5, spec/03_memory_tiers.md, R738): a lemma for each function that
makes a state, in the order of the model's files, says that a state stays `Intact`; most write neither memory's bytes nor the queue, and
hold by `intact_with`. -/
namespace Sys2Proof.Machine

/-- The commands that wait are `l`, and memory has its canonical form. -/
structure Intact (l : List Instr) (s : State) : Prop where
  pending : s.pending = l
  wf : s.MemWf

/-- So is the state that a function gives, where it gives one: or none, or a status, or a refusal. -/
def OptIntact (l : List Instr) (o : Option State) : Prop := ∀ t, o = some t → Intact l t

def SumIntact (l : List Instr) {α : Type} (o : State ⊕ α) : Prop := ∀ t, o = .inl t → Intact l t

def OutIntact (l : List Instr) (o : Host.Outcome State Fault Refusal) : Prop := ∀ t, o = .next t → Intact l t

/-- What the model's parts do for one another keeps a state intact. -/
structure HooksIntact (l : List Instr) (hk : Hooks) : Prop where
  start : ∀ {s o op p}, Intact l s → Intact l (hk.start s o op p)
  respond : ∀ {s r}, Intact l s → Intact l (hk.respond s r)
  finish : ∀ {s}, Intact l s → Intact l (hk.finish s)

section
-- one lemma after another: the threads that Lean would start for them all pass the memory that a check allows
set_option Elab.async false
variable {l : List Instr} {s : State}

/-- Whatever else of a state is written, it stays intact. -/
theorem intact_with {freeCtr nextId part clk ftime cfg ctrs ing xl coh lports core hys fm snap fab buckets shape tk parts sec ras waits power
    boot lan tap outs reports log} {mem : Mem} (h : Intact l s) (same : mem.bytes = s.mem.bytes := by rfl) :
    Intact l { pending := s.pending, mem, freeCtr, nextId, part, clk, ftime, cfg, ctrs, ing, xl, coh, lports, core, hys, fm, snap, fab, buckets,
               shape, tk, parts, sec, ras, waits, power, boot, lan, tap, outs, reports, log } :=
  ⟨h.pending, by rw [State.MemWf, same]; exact h.wf⟩

theorem intact_mem {m : Mem} (h : Intact l s) (wf : memWf m.bytes = true) : Intact l { s with mem := m } := ⟨h.pending, wf⟩

theorem optIntact_none : OptIntact l none := fun t e => absurd e (Option.some_ne_none t).symm

theorem optIntact_some (h : Intact l s) : OptIntact l (some s) := fun _ e => Option.some.inj e ▸ h

theorem sumIntact_inr {α : Type} {a : α} : SumIntact l (.inr a) := fun _ e => absurd e Sum.inr_ne_inl

theorem sumIntact_inl {α : Type} (h : Intact l s) : SumIntact l (.inl s : State ⊕ α) := fun _ e => Sum.inl.inj e ▸ h

theorem outIntact_next (h : Intact l s) : OutIntact l (.next s) := fun _ e => Host.Outcome.next.inj e ▸ h

theorem intact_getD {o : Option State} (ho : OptIntact l o) (h : Intact l s) : Intact l (o.getD s) := by
  cases o with
  | none => exact h
  | some t => exact ho t rfl

theorem intact_fst {α : Type} {p : State × α} {t : State} {x : α} (e : p = (t, x)) (h : Intact l p.1) : Intact l t := by
  rwa [e] at h

theorem intact_snd {α : Type} {p : α × State} {t : State} {x : α} (e : p = (x, t)) (h : Intact l p.2) : Intact l t := by
  rwa [e] at h

theorem intact_foldl {α : Type} {f : State → α → State} {xs : List α} (hf : ∀ t x, Intact l t → Intact l (f t x)) (h : Intact l s) :
    Intact l (xs.foldl f s) := by
  induction xs generalizing s with
  | nil => exact h
  | cons x xs ih => exact ih (hf s x h)

theorem intact_foldl_fst {α β : Type} {f : State × β → α → State × β} {p : State × β} {xs : List α}
    (hf : ∀ q x, Intact l q.1 → Intact l (f q x).1) (h : Intact l p.1) : Intact l (xs.foldl f p).1 := by
  induction xs generalizing p with
  | nil => exact h
  | cons x xs ih => exact ih (hf p x h)

theorem intact_ite {c : Prop} [Decidable c] {t u : State} (ht : Intact l t) (hu : Intact l u) : Intact l (if c then t else u) := by
  split
  · exact ht
  · exact hu

/-- A state, or what is made of it. -/
theorem intact_then {c : Prop} [Decidable c] {t : State} (h : Intact l s) (ht : Intact l s → Intact l t) : Intact l (if c then t else s) :=
  intact_ite (ht h) h

theorem intact_else {c : Prop} [Decidable c] {t : State} (h : Intact l s) (ht : Intact l s → Intact l t) : Intact l (if c then s else t) :=
  intact_ite h (ht h)

theorem optIntact_bind {f : State → Option State} {o : Option State} (ho : OptIntact l o) (hf : ∀ t, Intact l t → OptIntact l (f t)) :
    OptIntact l (o.bind f) := by
  cases o with
  | none => exact optIntact_none
  | some t => exact hf t (ho t rfl)

theorem optIntact_map {α : Type} {f : α → State} {o : Option α} (hf : ∀ x, Intact l (f x)) : OptIntact l (o.map f) := by
  intro t e
  obtain ⟨x, -, rfl⟩ := Option.map_eq_some_iff.mp e
  exact hf x

theorem sumIntact_foldl {α : Type} {f : State ⊕ Nat → α → State ⊕ Nat} {r : State ⊕ Nat} {xs : List α}
    (hf : ∀ r x, SumIntact l r → SumIntact l (f r x)) (h : SumIntact l r) : SumIntact l (xs.foldl f r) := by
  induction xs generalizing r with
  | nil => exact h
  | cons x xs ih => exact ih (hf r x h)

/-! ### Regs: PF0's BAR0 register map -/

theorem setField_intact {off lo w v : Nat} (h : Intact l s) : Intact l (setField s off lo w v) := intact_with h

theorem writeReg_intact {off v : Nat} (h : Intact l s) : Intact l (writeReg s off v) := by
  unfold writeReg
  dsimp only
  split
  · exact h
  · exact intact_then (intact_ite h (intact_with h)) setField_intact

/-! ### Ops: the operations that the meanings share: counters, reports, routing and queueing a packet, answering a request, completing a command -/

theorem bumpBy_intact {c : Ctr} {w n : Nat} (h : Intact l s) : Intact l (bumpBy s c w n) := intact_with h
theorem bump_intact {c : Ctr} (h : Intact l s) : Intact l (bump s c) := bumpBy_intact h
theorem bridgeDown_intact {x : Nat} (h : Intact l s) : Intact l (bridgeDown s x) := intact_with h
theorem bridgesDown_intact (h : Intact l s) : Intact l (bridgesDown s) := intact_with h
theorem note_intact {kind : String} {args : List Nat} (h : Intact l s) : Intact l (note s kind args) := intact_with h
theorem emit_intact {o : Out} (h : Intact l s) : Intact l (emit s o) := intact_with h
theorem bumpFree_intact (h : Intact l s) : Intact l (bumpFree s) := intact_with h
theorem markBusy_intact (h : Intact l s) : Intact l (markBusy s) := intact_with h
theorem untilTime_intact {t : Time} (h : Intact l s) : Intact l (untilTime s t) := intact_ite (intact_with h) h
theorem untilFabric_intact {t : Nat} (h : Intact l s) : Intact l (untilFabric s t) := intact_ite (untilTime_intact h) h
theorem modLport_intact {n : Nat} {f : LPort → LPort} (h : Intact l s) : Intact l (modLport s n f) := intact_with h
theorem returnCredit_intact {lport channel flits : Nat} (h : Intact l s) : Intact l (returnCredit s lport channel flits) :=
  intact_ite h (modLport_intact h)
theorem pushVoq_intact {inPort inL egress : Nat} {esc : Bool} {pkt : Packet} {others : List Nat} (h : Intact l s) : Intact l (pushVoq s inPort inL
    egress esc pkt others) := markBusy_intact (intact_with h)
theorem modPkt_intact {x : Nat} {f : QPkt → QPkt} (h : Intact l s) : Intact l (modPkt s x f) := intact_with h

theorem markHop_intact {dst : Nat} {x : Option Nat} (h : Intact l s) : Intact l (markHop s dst x) := by
  unfold markHop
  dsimp only
  split
  · exact intact_with h
  · exact h

theorem enqueue_intact {inPort inL : Nat} {escIn : Bool} {pkt : Packet} (h : Intact l s) : OptIntact l (enqueue s inPort inL escIn pkt) := by
  unfold enqueue
  split
  · exact optIntact_some (pushVoq_intact (markHop_intact h))
  · exact optIntact_none

theorem bumpOwn_intact {dst : Nat} (h : Intact l s) : Intact l (bumpOwn s dst) := intact_with h
theorem noteMgmt_intact (h : Intact l s) : Intact l (noteMgmt s) := intact_with h
theorem sendMgmt_intact {code dst : Nat} {payload : List Byte} (h : Intact l s) : OptIntact l (sendMgmt s code dst payload) :=
  enqueue_intact (bumpOwn_intact (noteMgmt_intact h))
theorem sendLink_intact {code lport : Nat} {payload : List Byte} (h : Intact l s) : Intact l (sendLink s code lport payload) :=
  pushVoq_intact (bumpOwn_intact (noteMgmt_intact h))
theorem modFn_intact {fn : Nat} {f : Fn → Fn} (h : Intact l s) : Intact l (modFn s fn f) := intact_with h
theorem postEvent_intact {payload : List Byte} (h : Intact l s) : Intact l (postEvent s payload) :=
  intact_ite h (intact_ite (modFn_intact h) (intact_with (emit_intact (emit_intact h))))

theorem eventsTo_intact {payload : List Byte} {x : List Manager} (h : Intact l s) : Intact l (eventsTo payload x s) := by
  induction x generalizing payload s with
  | nil =>
    unfold eventsTo
    exact h
  | cons y ys ih =>
    unfold eventsTo
    dsimp only
    refine ih ?_
    split
    · exact h
    · split
      next e =>
        exact sendMgmt_intact h _ e
      · exact intact_with h

theorem report_intact {type subject lport detail : Nat} (h : Intact l s) : Intact l (report s type subject lport detail) :=
  intact_with (postEvent_intact (eventsTo_intact (intact_with h)))
theorem reportQueueError_intact {fn qp cause : Nat} (h : Intact l s) : Intact l (reportQueueError s fn qp cause) :=
  intact_with (postEvent_intact (intact_with h))

theorem penal_intact {lport n : Nat} (h : Intact l s) : Intact l (penal s lport n) := by
  unfold penal
  dsimp only
  split
  · exact h
  · exact intact_then (intact_with h) report_intact

theorem startHealth_intact {lport : Nat} (h : Intact l s) : Intact l (startHealth s lport) := intact_ite h (intact_with h)

theorem penalUnanswered_intact {lport : Nat} (h : Intact l s) : Intact l (penalUnanswered s lport) := by
  unfold penalUnanswered
  dsimp only
  split
  · exact h
  · exact intact_ite h (penal_intact (intact_with h))

theorem chargePartners_intact {o : OutReq} (h : Intact l s) : Intact l (chargePartners s o) :=
  intact_foldl (fun _ _ ht => penalUnanswered_intact ht) h
theorem modOut_intact {x : Nat} {f : OutReq → OutReq} (h : Intact l s) : Intact l (modOut s x f) := intact_with h

theorem markOne_intact {cause x : Nat} (h : Intact l s) : Intact l (markOne cause s x) := by
  unfold markOne
  dsimp only
  split
  · exact intact_ite h (report_intact (chargePartners_intact (bump_intact (modOut_intact h))))
  · exact h

theorem markUnanswered_intact {x cause : Nat} (h : Intact l s) : Intact l (markUnanswered s x cause) :=
  intact_foldl (fun _ _ ht => markOne_intact ht) (markOne_intact h)

theorem discardReport_intact {pkt : Packet} {reason : Nat} (h : Intact l s) : Intact l (discardReport s pkt reason) := by
  unfold discardReport
  split
  · exact h
  · split
    · split
      · exact markUnanswered_intact h
      · exact h
    · exact intact_getD (sendMgmt_intact h) h

theorem sendPkt_intact {inPort inL : Nat} {escIn : Bool} {pkt : Packet} (h : Intact l s) : Intact l (sendPkt s inPort inL escIn pkt) := by
  unfold sendPkt
  split
  next e =>
    exact enqueue_intact h _ e
  · exact discardReport_intact (bump_intact h)

theorem sendResp_intact {port load : Nat} {r : Resp} (h : Intact l s) : Intact l (sendResp s port load r) := sendPkt_intact h
theorem answer_intact {op : Op} {p : Req} {status result : Nat} (h : Intact l s) : Intact l (answer s op p status result) :=
  intact_foldl (fun _ _ ht => sendResp_intact ht) h

theorem complete_intact {r : CmdRef} {status result : Nat} {out : List Byte} (h : Intact l s) : Intact l (complete s r status result out) := by
  unfold complete
  dsimp only
  split
  · exact intact_getD (sendMgmt_intact h) h
  · split
    · exact h
    · exact intact_ite (modFn_intact (markBusy_intact h)) (modFn_intact (markBusy_intact h))

theorem completeAll_intact {rs : List CmdRef} {status : Nat} (h : Intact l s) : Intact l (completeAll s rs status) :=
  intact_foldl (fun _ _ ht => complete_intact ht) h

theorem live_intact {f : State → State} (h : Intact l s) (hf1 : ∀ t, Intact l t → Intact l (f t)) : OutIntact l (live s f) := by
  unfold live
  split
  · exact outIntact_next (hf1 _ h)
  · exact outIntact_next h

/-! ### Command: what every Hyser command goes through before its own checks -/

theorem modPart_intact {n : Nat} {f : Partition → Partition} (h : Intact l s) : Intact l (modPart s n f) := intact_with h
theorem tdiFault_intact {n : Nat} (h : Intact l s) : Intact l (tdiFault s n) := intact_ite (modPart_intact h) h
theorem startCmd_intact {c : Cmd} {sp : CmdSpec} (h : Intact l s) : Intact l (startCmd s c sp) := modFn_intact (markBusy_intact h)

theorem settleUnknown_intact {x : Nat} (h : Intact l s) : Intact l (settleUnknown x s) := by
  induction x generalizing s with
  | zero =>
    unfold settleUnknown
    exact h
  | succ n ih =>
    unfold settleUnknown
    split
    · exact h
    · exact ih (complete_intact h)

theorem runCmd_intact {c : Cmd} {sp : CmdSpec} {obj : Option Nat} {mine : Bool} {body : State → State} (h : Intact l s) (hbody : ∀ t, Intact l t →
    Intact l (body t)) : Intact l (runCmd s c sp obj mine body) := by
  unfold runCmd
  dsimp only
  split
  · exact h
  · split
    · exact complete_intact (startCmd_intact h)
    · split
      · exact complete_intact (startCmd_intact h)
      · exact hbody _ (startCmd_intact h)

theorem acceptSeq_intact {b : List Byte} (h : Intact l s) : Intact l (acceptSeq s b) := intact_with h

theorem runSigned_intact {c : Cmd} {sp : CmdSpec} {body : State → Cmd → CmdRef → State} (h : Intact l s) (hbody : ∀ t a1 a2, Intact l t → Intact l
    (body t a1 a2)) : Intact l (runSigned s c sp body) := by
  unfold runSigned
  dsimp only
  split
  · exact h
  · split
    · exact complete_intact (startCmd_intact h)
    · split
      · split
        · exact complete_intact (startCmd_intact h)
        · split
          · exact complete_intact (startCmd_intact h)
          · split
            · exact complete_intact (startCmd_intact h)
            · split
              · exact complete_intact (startCmd_intact h)
              · exact intact_ite (complete_intact (acceptSeq_intact (startCmd_intact h))) (intact_ite (complete_intact (acceptSeq_intact
                  (startCmd_intact h))) (hbody _ _ _ (acceptSeq_intact (startCmd_intact h))))
      · exact intact_ite (complete_intact (startCmd_intact h)) (complete_intact (startCmd_intact h))

/-! ### Pool: homes, tier addresses, free storage, placement, policy classes and heat -/

theorem modTier_intact {frame : Nat} {f : TierEntry → TierEntry} (h : Intact l s) : Intact l (modTier s frame f) := intact_with h
theorem putBlocks_intact {frame : Nat} {blocks : List (Nat × Nat)} (h : Intact l s) : Intact l (putBlocks s frame blocks) := intact_with h

theorem placeCopies_intact {used : List Nat} {n : Nat} (h : Intact l s) : ∀ p, placeCopies s used n = some p → Intact l p.2 := by
  induction n generalizing s used with
  | zero =>
    rintro p ⟨⟩
    exact h
  | succ n ih =>
    intro p e
    unfold placeCopies at e
    split at e
    · cases e
    · obtain ⟨q, eq, rfl⟩ := Option.map_eq_some_iff.mp e
      exact ih (bumpFree_intact h) q eq

theorem placeFrame_intact {frame cls copies part : Nat} {verify : Bool} (h : Intact l s) : OptIntact l (placeFrame s frame cls copies part verify) :=
    by
  unfold placeFrame
  dsimp only
  split
  · exact optIntact_none
  · split
    · exact optIntact_none
    · split
      · exact optIntact_none
      next e2 =>
        exact optIntact_some (putBlocks_intact (intact_with (placeCopies_intact (intact_else (bumpFree_intact h) bump_intact) _ e2)))

theorem placeFrames_intact {cls copies part : Nat} {verify : Bool} {x : List Nat} (h : Intact l s) : OptIntact l (placeFrames cls copies part verify x
    s) := by
  induction x generalizing cls copies part verify s with
  | nil =>
    unfold placeFrames
    exact optIntact_some h
  | cons y ys ih =>
    unfold placeFrames
    exact optIntact_bind (placeFrame_intact h) fun _ ht => ih ht

theorem dropFrame_intact {frame : Nat} (h : Intact l s) : Intact l (dropFrame s frame) :=
  intact_mem h (memWf_clearBytes _ _ _ h.2)
theorem touchFrame_intact {frame : Nat} (h : Intact l s) : Intact l (touchFrame s frame) := modTier_intact h
theorem touchRange_intact {pool len : Nat} (h : Intact l s) : Intact l (touchRange s pool len) := intact_foldl (fun _ _ ht => touchFrame_intact ht) h
theorem setPoison_intact {line : Nat} (h : Intact l s) : Intact l (setPoison s line) := intact_with h

/-! ### Watch: what the switch notes of its traffic: Lantern's ring, mirror copies and health log -/

theorem penalCodeword_intact {lport : Nat} (h : Intact l s) : Intact l (penalCodeword s lport) := by
  unfold penalCodeword
  dsimp only
  split
  · exact h
  · exact intact_then (intact_with h) penal_intact

theorem ringWrite_intact {entry : List Byte} (h : Intact l s) : Intact l (ringWrite s entry) :=
  intact_ite (bump_intact (bumpFree_intact h)) (intact_with (intact_then (bumpFree_intact h) setField_intact))
theorem lanCount_intact {f : Nat} (h : Intact l s) : Intact l (lanCount s f).1 := intact_with h

theorem lanCounts_intact {x : List Nat} (h : Intact l s) : Intact l (lanCounts x s).1 := by
  induction x generalizing s with
  | nil =>
    unfold lanCounts
    dsimp only
    exact h
  | cons y ys ih =>
    unfold lanCounts
    dsimp only
    exact ih (lanCount_intact h)

theorem mirror_intact {pkt : Packet} {entry : List Byte} (h : Intact l s) : Intact l (mirror s pkt entry) := by
  unfold mirror
  dsimp only
  split
  · exact h
  · split
    · split
      · exact bump_intact h
      · split
        · exact bump_intact h
        · exact intact_ite (bump_intact h) (pushVoq_intact (bumpOwn_intact (bump_intact (intact_with h))))
    · split
      · exact bump_intact h
      · split
        · exact bump_intact h
        · exact intact_ite (bump_intact h) (pushVoq_intact (bumpOwn_intact (bump_intact (intact_with h))))

theorem capture_intact {lport dir : Nat} {pkt : Packet} (h : Intact l s) : Intact l (capture s lport dir pkt) := by
  unfold capture
  dsimp only
  exact intact_ite h (intact_ite h (intact_else (lanCounts_intact h) (fun hs => intact_then (intact_ite (setField_intact hs) (ringWrite_intact hs))
      mirror_intact)))

theorem healthLog_intact {type region block cell : Nat} {rest : List Byte} (h : Intact l s) :
    Intact l (healthLog s type region block cell rest) := by
  have logged := intact_ite (c := 4096 ≤ s.lan.log.length) (bump_intact (c := .lantern 4) h) h
  exact intact_with logged

theorem keepSample_intact {r : Nat} (h : Intact l s) : Intact l (keepSample s r) := intact_with h

theorem violate_intact {lport row : Nat} {header : List Byte} {size : Nat} (h : Intact l s) : Intact l (violate s lport row header size) := by
  unfold violate
  dsimp only
  exact modLport_intact (penal_intact (bump_intact (ringWrite_intact h)))

theorem violatePkt_intact {lport row : Nat} {pkt : Packet} (h : Intact l s) : Intact l (violatePkt s lport row pkt) := violate_intact h

/-! ### MemCore: a memory operation at its home: version views -/

theorem altWrite_intact {a : Nat} {data : List Byte} (h : Intact l s) : Intact l (altWrite s a data) := intact_ite h (intact_with h)

theorem stampUnit_intact {a : Nat} (h : Intact l s) : Intact l (stampUnit s a) := by
  unfold stampUnit
  dsimp only
  split
  · exact intact_ite h (intact_with h)
  · exact h

theorem clearPoisonRange_intact {o : MemOp} {a n : Nat} (h : Intact l s) : Intact l (clearPoisonRange s o a n) := intact_with h

theorem pendUnit_intact {a : Nat} (h : Intact l s) : Intact l (pendUnit s a) := by
  unfold pendUnit
  dsimp only
  split
  · exact intact_ite h (intact_with h)
  · exact h

theorem overRun_intact {a n : Nat} (h : Intact l s) : Intact l (overRun s a n) := intact_with h

theorem memWf_writePool {m : List (Nat × Byte)} {o : MemOp} {a : Nat} {data : List Byte} (wf : memWf m = true) :
    memWf (writePool m o a data) = true := by
  induction data generalizing m a with
  | nil => exact wf
  | cons b bs ih => exact ih (memWf_setByte _ _ _ wf)

theorem storeBytes_intact {o : MemOp} {data : List Byte} (h : Intact l s) : Intact l (storeBytes s o data) :=
  intact_foldl (fun _ _ ht => pendUnit_intact ht) (overRun_intact (altWrite_intact (intact_mem h (memWf_writePool h.2))))

theorem adopt_intact {t : TierEntry} {frame unit winner : Nat} (h : Intact l s) : Intact l (adopt s t frame unit winner) :=
  intact_mem h (memWf_writeBytes _ _ _ h.2)
theorem quarantineFrame_intact {frame : Nat} (h : Intact l s) : Intact l (quarantineFrame s frame) :=
  intact_ite h (report_intact (note_intact (bump_intact (modTier_intact h))))

theorem decideUnit_intact {frame unit : Nat} (h : Intact l s) : Intact l (decideUnit s frame unit) := by
  unfold decideUnit
  dsimp only
  split
  · exact h
  · split
    · exact h
    · exact intact_ite (quarantineFrame_intact h) (bumpBy_intact (adopt_intact h))

theorem memEffect_intact {o : MemOp} (h : Intact l s) : Intact l (memEffect s o).1 := by
  unfold memEffect
  split
  · exact h
  · split
    · split
      · exact h
      · exact storeBytes_intact h
    · exact storeBytes_intact h
    · exact storeBytes_intact (clearPoisonRange_intact h)
    · split
      · exact h
      · split
        · exact h
        · exact storeBytes_intact h
    · split
      · exact h
      · split
        · exact h
        · exact storeBytes_intact h
    · exact h

theorem setArb_intact {r : Nat} {a : Arb} (h : Intact l s) : Intact l (setArb s r a) := intact_with h
theorem arbPush_intact {r : Nat} {x : Access} (h : Intact l s) : Intact l (arbPush s r x) := intact_ite (setArb_intact h) (setArb_intact h)
theorem t1Access_intact {r : Nat} {x : Access} {a n : Nat} (h : Intact l s) : Intact l (t1Access s r x a n).1 :=
  intact_foldl (fun _ _ ht => arbPush_intact ht) h

theorem trayGo_intact {key : Nat} (h : Intact l s) : Intact l (trayGo s key) := by
  unfold trayGo
  dsimp only
  split
  · exact h
  · split
    · exact h
    · exact sendPkt_intact (bumpOwn_intact (intact_with h))

theorem traySend_intact {x : Nat} {tier : Tier} {t : TrayReq} {n : Nat} {data : List Byte} (h : Intact l s) : Intact l (traySend s x tier t n data) :=
    by
  unfold traySend
  dsimp only
  split
  · exact h
  · exact intact_else (intact_with h) trayGo_intact

theorem useIndex_intact {frame : Nat} (h : Intact l s) : Intact l (useIndex s frame) := intact_with h
theorem setBlock_intact {copyIx pool : Nat} {u : Nat × Nat} (h : Intact l s) : Intact l (setBlock s copyIx pool u) :=
  intact_ite (intact_with h) (intact_with h)
theorem blockRead_intact {x frame slot pool : Nat} (h : Intact l s) : Intact l (blockRead x frame slot s pool) := traySend_intact h
theorem modOp_intact {x : Nat} {f : MemOp → MemOp} (h : Intact l s) : Intact l (modOp s x f) := intact_with h

theorem blockUnits_intact {x slot copyIx pool n : Nat} (h : Intact l s) : Intact l (blockUnits s x slot copyIx pool n).2 := by
  unfold blockUnits
  dsimp only
  split
  · split
    · exact setBlock_intact h
    · exact bumpFree_intact h
  · split
    · exact setBlock_intact h
    · exact bumpFree_intact h

theorem loseMove_intact {frame : Nat} (h : Intact l s) : Intact l (loseMove s frame) := intact_with h

theorem blockWrite_intact {x frame slot copyIx : Nat} {r : State × Nat} {pool : Nat} (h : Intact l r.1) : Intact l (blockWrite x frame slot copyIx r
    pool).1 := by
  unfold blockWrite
  dsimp only
  split
  next e =>
    split
    · exact loseMove_intact (intact_snd e (blockUnits_intact h))
    · exact modOp_intact (intact_snd e (blockUnits_intact h))
  next e =>
    exact traySend_intact (intact_snd e (blockUnits_intact h))

theorem indexWrite_intact {t : TrayReq} {loc : Nat} (h : Intact l s) : Intact l (indexWrite s t loc) := traySend_intact h

theorem blockWritten_intact {t : TrayReq} (h : Intact l s) : Intact l (blockWritten s t) := by
  unfold blockWritten
  dsimp only
  split
  · exact indexWrite_intact (intact_else (setBlock_intact h) intact_with)
  · exact modOp_intact (intact_else (setBlock_intact h) intact_with)

theorem accessCopy_intact {x : Nat} {cls : ArbClass} {frame a n : Nat} {read : Bool} {loc copyIx : Nat} (h : Intact l s) : Intact l (accessCopy x cls
    frame a n read loc copyIx s).1 := by
  unfold accessCopy
  dsimp only
  split
  · exact h
  · split
    · split
      · exact intact_ite (loseMove_intact h) h
      · exact t1Access_intact h
    · exact intact_foldl (fun _ _ ht => traySend_intact ht) h
    · split
      · exact intact_foldl (fun _ _ ht => blockRead_intact ht) (useIndex_intact (intact_ite h (traySend_intact h)))
      · exact intact_foldl_fst (fun _ _ hp => blockWrite_intact hp) (useIndex_intact h)

theorem accessCopies_intact {x : Nat} {cls : ArbClass} {frame a n : Nat} {read : Bool} {x1 : List (Nat × Nat)} (h : Intact l s) : Intact l
    (accessCopies x cls frame a n read x1 s).1 := by
  induction x1 generalizing x cls frame a n read s with
  | nil =>
    unfold accessCopies
    dsimp only
    exact h
  | cons y ys ih =>
    unfold accessCopies
    dsimp only
    exact ih (accessCopy_intact h)

theorem accessStorage_intact {x : Nat} {cls : ArbClass} {o : MemOp} {a n : Nat} {read : Bool} {frame : Nat} (h : Intact l s) : Intact l (accessStorage
    x cls o a n read s frame).1 := by
  unfold accessStorage
  dsimp only
  split
  · exact h
  · exact accessCopies_intact h

theorem readFrame_intact {x : Nat} {cls : ArbClass} {o : MemOp} {a n frame : Nat} (h : Intact l s) : Intact l (readFrame x cls o a n s frame).1 := by
  unfold readFrame
  dsimp only
  split
  · exact h
  · split
    · split
      · exact intact_with h
      · exact accessCopies_intact h
    · exact accessStorage_intact h

theorem writeFrame_intact {x : Nat} {cls : ArbClass} {o : MemOp} {a n frame : Nat} (h : Intact l s) : Intact l (writeFrame x cls o a n s frame).1 :=
    by
  unfold writeFrame
  dsimp only
  split
  · exact h
  · split
    · exact accessCopies_intact h
    · exact accessStorage_intact h

theorem overFrames_intact {f : State → Nat → State × Nat} {x : List Nat} (hf1 : ∀ t a1, Intact l t → Intact l (f t a1).1) (h : Intact l s) : Intact l
    (overFrames f x s).1 := by
  induction x generalizing s with
  | nil =>
    unfold overFrames
    dsimp only
    exact h
  | cons y ys ih =>
    unfold overFrames
    dsimp only
    exact ih (hf1 _ _ h)

theorem memReads_intact {x : Nat} (h : Intact l s) : Intact l (memReads s x) := by
  unfold memReads
  dsimp only
  split
  · exact h
  · refine modOp_intact ?_
    split
    · exact overFrames_intact (fun _ _ ht => readFrame_intact ht) (overFrames_intact (fun _ _ ht => readFrame_intact ht) h)
    · exact overFrames_intact (fun _ _ ht => readFrame_intact ht) h
    · exact overFrames_intact (fun _ _ ht => readFrame_intact ht) h
    · exact overFrames_intact (fun _ _ ht => readFrame_intact ht) h
    · exact overFrames_intact (fun _ _ ht => readFrame_intact ht) h

theorem joinRead_intact {x : Nat} (h : Intact l s) : Intact l (joinRead s x).1 := by
  unfold joinRead
  dsimp only
  split
  · exact h
  · split
    · exact h
    · split
      · exact h
      · split
        · split
          · exact modOp_intact (modOp_intact h)
          · exact h
        · split
          · exact modOp_intact (setArb_intact h)
          · exact h

theorem memWrites_intact {x : Nat} (h : Intact l s) : Intact l (memWrites s x) := by
  unfold memWrites
  dsimp only
  split
  · exact h
  · exact modOp_intact (overFrames_intact (fun _ _ ht => writeFrame_intact ht) h)

theorem moveCopy_intact {frame : Nat} (h : Intact l s) : Intact l (moveCopy s frame) := by
  unfold moveCopy
  dsimp only
  split
  · exact h
  · split
    · exact h
    · split
      · exact h
      · exact intact_ite (loseMove_intact h) (modOp_intact (accessCopy_intact (intact_with h)))

theorem startMove_intact {frame copyIx : Nat} {dst : Tier} {x : Place} {x1 : Option CmdRef} (h : Intact l s) : Intact l (startMove s frame copyIx dst
    x x1) := intact_else (modTier_intact (intact_with h)) moveCopy_intact

theorem expandOut_intact {frame : Nat} (h : Intact l s) : Intact l (expandOut s frame) := by
  unfold expandOut
  dsimp only
  split
  · exact h
  · split
    · exact h
    · split
      · exact startMove_intact (bumpFree_intact h)
      · split
        · exact startMove_intact (bumpFree_intact h)
        · exact report_intact (note_intact (bumpFree_intact (bumpFree_intact h)))

theorem memAccess_intact {x : Nat} (h : Intact l s) : Intact l (memAccess s x) := by
  unfold memAccess
  split
  · exact h
  · split
    · exact modOp_intact h
    · split
      · exact modOp_intact h
      · split
        next e1 =>
          exact intact_fst e1 (joinRead_intact h)
        next e1 =>
          exact memReads_intact (intact_fst e1 (joinRead_intact h))

theorem putOp_intact {o : MemOp} (h : Intact l s) : Intact l (putOp s o) := intact_with h
theorem dropOp_intact {x : Nat} (h : Intact l s) : Intact l (dropOp s x) := intact_with h

/-! ### Xlat: page tables, the translation cache, generations and invalidations, references to mapped gigabytes, windows -/

theorem modAst_intact {n : Nat} {f : Ast → Ast} (h : Intact l s) : Intact l (modAst s n f) := intact_with h

theorem cacheTouch_intact {ast gen page : Nat} (h : Intact l s) : Intact l (cacheTouch s ast gen page) := by
  unfold cacheTouch
  dsimp only
  split
  · exact intact_with h
  · exact h

theorem cachePut_intact {x : XEntry} (h : Intact l s) : Intact l (cachePut s x) := intact_with h

theorem addRef_intact {g cls copies part : Nat} {verify : Bool} (h : Intact l s) : SumIntact l (addRef s g cls copies part verify) := by
  unfold addRef
  dsimp only
  split
  · split
    · exact sumIntact_inr
    · split
      · exact sumIntact_inr
      · exact sumIntact_inl (intact_with h)
  · split
    next e1 =>
      exact sumIntact_inl (intact_with (placeFrames_intact h _ e1))
    · exact sumIntact_inr

theorem retryMoves_intact (h : Intact l s) : Intact l (retryMoves s) := intact_foldl (fun _ _ ht => memAccess_intact ht) h

theorem abandonMove_intact {frame status : Nat} (h : Intact l s) : Intact l (abandonMove s frame status) := by
  unfold abandonMove
  dsimp only
  split
  · refine retryMoves_intact ?_
    split
    · exact complete_intact (bump_intact (intact_with (modTier_intact (markBusy_intact h))))
    · exact bump_intact (intact_with (modTier_intact (markBusy_intact h)))
  · exact h

theorem abandonGone_intact {frame : Nat} (h : Intact l s) : Intact l (abandonGone s frame) := abandonMove_intact h
theorem leaveToScrub_intact {part : Nat} {frames : List Nat} {units : List (Nat × Nat)} {todo : List Piece} (h : Intact l s) : Intact l (leaveToScrub
    s part frames units todo) := intact_with h

theorem scrubFrame_intact {frame : Nat} (h : Intact l s) : Intact l (scrubFrame s frame) := by
  unfold scrubFrame
  dsimp only
  split
  · exact h
  · exact intact_ite h (leaveToScrub_intact h)

theorem dropRef_intact {g : Nat} (h : Intact l s) : Intact l (dropRef s g) := by
  unfold dropRef
  dsimp only
  split
  · exact intact_ite (intact_foldl (fun _ _ ht => dropFrame_intact (abandonGone_intact (scrubFrame_intact ht))) (intact_with h)) (intact_with h)
  · exact h

theorem releaseGib_intact {g : Nat} (h : Intact l s) : Intact l (releaseGib s g) := by
  unfold releaseGib
  split
  · exact dropRef_intact h
  · split
    · exact intact_getD (sendMgmt_intact h) h
    · exact h

theorem advanceGen_intact {ast : Nat} (h : Intact l s) : Intact l (advanceGen s ast) := by
  unfold advanceGen
  dsimp only
  split
  · exact intact_with (modAst_intact h)
  · exact h

theorem invalWrite_intact {ast : Nat} {x : InvalKind} (h : Intact l s) : Intact l (invalWrite s ast x) := by
  unfold invalWrite
  dsimp only
  split
  · exact intact_with h
  · exact intact_with h
  · exact intact_with h
  · exact h

theorem astDestroyNow_intact {ast : Nat} {r : Option CmdRef} (h : Intact l s) : Intact l (astDestroyNow s ast r) := by
  unfold astDestroyNow
  dsimp only
  split
  · split
    · exact complete_intact h
    · exact h
  · split
    · split
      · exact complete_intact h
      · exact h
    · split
      · exact complete_intact (intact_with h)
      · exact intact_with h

theorem invalStart_intact {v : Inval} (h : Intact l s) : Intact l (invalStart s v) := by
  unfold invalStart
  dsimp only
  split
  · exact astDestroyNow_intact h
  · split
    · exact complete_intact h
    · exact intact_with (advanceGen_intact (invalWrite_intact h))
  · exact intact_ite h (intact_with (advanceGen_intact (invalWrite_intact h)))

theorem invalidate_intact {ast : Nat} {kind : InvalKind} {r : Option CmdRef} (h : Intact l s) : Intact l (invalidate s ast kind r) :=
  intact_ite (intact_with h) (invalStart_intact h)

theorem invalNext_intact {ast x : Nat} (h : Intact l s) : Intact l (invalNext ast x s) := by
  induction x generalizing ast s with
  | zero =>
    unfold invalNext
    exact h
  | succ n ih =>
    unfold invalNext
    dsimp only
    split
    · exact intact_ite h (ih (invalStart_intact (intact_with h)))
    · exact h

theorem invalFinish_intact {ast : Nat} (h : Intact l s) : Intact l (invalFinish s ast) := by
  unfold invalFinish
  dsimp only
  split
  · exact h
  · split
    · exact h
    · split
      · exact invalNext_intact (modAst_intact h)
      · refine invalNext_intact ?_
        split
        · exact complete_intact (intact_foldl (fun _ _ ht => releaseGib_intact ht) (intact_with (modAst_intact h)))
        · exact intact_foldl (fun _ _ ht => releaseGib_intact ht) (intact_with (modAst_intact h))

theorem windowStep_intact {op : Nat} (h : Intact l s) : Intact l (windowStep s op) := completeAll_intact (intact_with h)

theorem drainOne_intact {ast gen : Nat} (h : Intact l s) : Intact l (drainOne s ast gen) := by
  unfold drainOne
  split
  · exact intact_ite (invalFinish_intact (modAst_intact h)) h
  · exact h

theorem holdEnd_intact {hold : Option (Nat × Nat)} (h : Intact l s) : Intact l (holdEnd s hold) := by
  unfold holdEnd
  split
  · exact drainOne_intact h
  · exact h

theorem jobGone_intact {x : Nat} (h : Intact l s) : Intact l (jobGone s x) := by
  unfold jobGone
  dsimp only
  split
  · exact h
  · exact holdEnd_intact (intact_with h)

theorem hotDone_intact {x : Nat} (h : Intact l s) : Intact l (hotDone s x) := intact_with h

theorem requestGone_intact {x : Nat} (h : Intact l s) : Intact l (requestGone s x) := by
  unfold requestGone
  dsimp only
  split
  · exact h
  · exact intact_then (hotDone_intact (intact_foldl (fun _ _ ht => windowStep_intact ht) (intact_with h))) drainOne_intact

/-! ### CohCore: answering requests of this ingress -/

theorem noteGrant_intact {lport : Nat} {r : Resp} (h : Intact l s) : Intact l (noteGrant s lport r) := intact_ite (intact_with h) h
theorem respondHere_intact {port lport load : Nat} {r : Resp} (h : Intact l s) : Intact l (respondHere s port lport load r) :=
  pushVoq_intact (noteGrant_intact h)
theorem refuseHere_intact {lport : Nat} {op : Op} {p : Req} {status : Nat} (h : Intact l s) : Intact l (refuseHere s lport op p status) :=
  intact_foldl (fun _ _ ht => respondHere_intact ht) h

theorem completeReq_intact {port x node status result : Nat} {data : List Byte} {load : Nat} (h : Intact l s) : Intact l (completeReq s port x node
    status result data load) := by
  unfold completeReq
  dsimp only
  split
  · exact h
  · exact intact_foldl (fun _ _ ht => requestGone_intact (respondHere_intact ht)) (requestGone_intact (respondHere_intact h))

theorem jobGot_intact {x : Nat} {op : Op} {p : Req} {status : Nat} {data : List Byte} (h : Intact l s) : Intact l (jobGot s x op p status data) :=
  intact_with h

theorem hereReply_intact {port x part status off cover result : Nat} {data : List Byte} {load : Nat} (h : Intact l s) : Intact l (hereReply s port x
    part status off cover result data load) := by
  unfold hereReply
  dsimp only
  split
  · exact h
  · split
    · exact h
    · split
      · exact intact_ite (requestGone_intact (respondHere_intact h)) (modOut_intact (respondHere_intact h))
      · exact intact_ite (modOut_intact h) (intact_then (modOut_intact h) completeReq_intact)

theorem answerAtomics_intact {a : AtomicOp} {w : Nat} {signed : Bool} {port status load : Nat} {x : List Nat} {x1 : Nat} (h : Intact l s) : Intact l
    (answerAtomics a w signed port status load x x1 s) := by
  induction x generalizing a w signed port status load x1 s with
  | nil =>
    unfold answerAtomics
    exact h
  | cons y ys ih =>
    unfold answerAtomics
    dsimp only
    split
    · exact ih h
    · exact ih (completeReq_intact h)

theorem answerReads_intact {port line status load : Nat} {data : List Byte} {x : List Nat} (h : Intact l s) : Intact l (answerReads port line status
    load data x s) := by
  induction x generalizing port line status load data s with
  | nil =>
    unfold answerReads
    exact h
  | cons y ys ih =>
    unfold answerReads
    dsimp only
    split
    · exact ih h
    · exact ih (completeReq_intact h)

theorem groupReply_intact {port g status result : Nat} {data : List Byte} {load : Nat} (h : Intact l s) : Intact l (groupReply s port g status result
    data load) := by
  unfold groupReply
  dsimp only
  split
  · exact h
  · split
    · exact answerAtomics_intact (intact_with h)
    · exact answerReads_intact (intact_with h)

theorem reply_intact {port : Nat} {origin : Origin} {op : Op} {p : Req} {status off cover result : Nat} {data : List Byte} {load : Nat} (h : Intact l
    s) : Intact l (reply s port origin op p status off cover result data load) := by
  unfold reply
  split
  · exact sendResp_intact h
  · exact hereReply_intact h
  · exact groupReply_intact h
  · exact h
  · exact h
  · exact h
  · exact h
  · exact h
  · exact jobGot_intact h

theorem replyWhole_intact {port : Nat} {origin : Origin} {op : Op} {p : Req} {status n load : Nat} (h : Intact l s) : Intact l (replyWhole s port
    origin op p status n load) := by
  unfold replyWhole
  split
  · exact intact_foldl (fun _ _ ht => reply_intact ht) h
  · exact intact_foldl (fun _ _ ht => reply_intact ht) h
  · exact reply_intact h

theorem setLine_intact {line : Nat} {x : Line} (h : Intact l s) : Intact l (setLine s line x) := intact_with h

theorem failLine_intact {line : Nat} (h : Intact l s) : Intact l (failLine s line) := by
  unfold failLine
  dsimp only
  split
  · exact h
  · exact intact_ite h (setLine_intact h)
  · exact intact_ite (setLine_intact (setPoison_intact h)) h

theorem sendSnoop_intact {line tag : Nat} {inv : Bool} {agent : Nat} (h : Intact l s) : Intact l (sendSnoop line tag inv s agent) := by
  unfold sendSnoop
  dsimp only
  split
  · exact h
  · split
    · exact h
    · exact sendPkt_intact (bumpOwn_intact h)

theorem grant_intact {line agent : Nat} {op : Op} {p : Req} {origin : Origin} {code : Nat} {data : List Byte} (h : Intact l s) : Intact l (grant s
    line agent op p origin code data) := reply_intact (setLine_intact h)
theorem endTxn_intact {line : Nat} (h : Intact l s) : Intact l (endTxn s line) := setLine_intact h
theorem tidyLine_intact {line : Nat} (h : Intact l s) : Intact l (tidyLine s line) := intact_ite (intact_with h) h
theorem cohRead_intact {line : Nat} {p : Req} (h : Intact l s) : Intact l (cohRead s line p) := memAccess_intact (putOp_intact (setLine_intact h))
theorem takeWb_intact {line a : Nat} {p : Req} {origin : Origin} (h : Intact l s) : Intact l (takeWb s line a p origin) :=
  intact_ite (memAccess_intact (putOp_intact (setLine_intact h))) (reply_intact (endTxn_intact h))
theorem takeEvict_intact {line a : Nat} {p : Req} {origin : Origin} (h : Intact l s) : Intact l (takeEvict s line a p origin) :=
  reply_intact (setLine_intact h)

theorem collected_intact {line : Nat} (h : Intact l s) : Intact l (collected s line).1 := by
  unfold collected
  dsimp only
  split
  · exact h
  · split
    · exact tidyLine_intact (setLine_intact h)
    · exact tidyLine_intact (setLine_intact h)
    · exact h
    · exact takeWb_intact h
    · exact takeEvict_intact h
    · split
      · exact reply_intact (endTxn_intact h)
      · split
        · exact grant_intact (setLine_intact h)
        · exact cohRead_intact h

theorem cohReadDone_intact {line : Nat} {bad : Bool} (h : Intact l s) : Intact l (cohReadDone s line bad) := by
  unfold cohReadDone
  dsimp only
  split
  · split
    · split
      · exact reply_intact (endTxn_intact h)
      · split
        · exact grant_intact h
        · exact grant_intact (setLine_intact h)
    · exact h
  · exact h

theorem lineWrite_intact {line : Nat} {origin : Origin} {p : Req} {data : List Byte} (h : Intact l s) : Intact l (lineWrite s line origin p data) :=
  memAccess_intact (putOp_intact (setLine_intact h))
theorem noteAnswer_intact {line a : Nat} {kept : Bool} (h : Intact l s) : Intact l (noteAnswer s line a kept) := setLine_intact h
theorem takeCrossing_intact {line a : Nat} {op : Op} {p : Req} {origin : Origin} (h : Intact l s) : Intact l (takeCrossing s line a op p origin) :=
  intact_ite (lineWrite_intact (noteAnswer_intact (intact_ite (bump_intact h) h))) (reply_intact (noteAnswer_intact (intact_ite (bump_intact h) h)))

theorem crossQueued_intact {line : Nat} {x : List LineReq} (h : Intact l s) : Intact l (crossQueued line x s) := by
  induction x generalizing line s with
  | nil =>
    unfold crossQueued
    exact h
  | cons y ys ih =>
    unfold crossQueued
    dsimp only
    split
    · exact intact_ite (ih (takeCrossing_intact (setLine_intact h))) (ih h)
    · exact ih h

theorem crossWaiting_intact {line : Nat} {x : List (Nat × LineReq)} (h : Intact l s) : Intact l (crossWaiting line x s) := by
  induction x generalizing line s with
  | nil =>
    unfold crossWaiting
    exact h
  | cons y ys ih =>
    unfold crossWaiting
    dsimp only
    split
    · exact intact_ite (ih (takeCrossing_intact (intact_with h))) (ih h)
    · exact ih h

theorem sendSnoops_intact {line : Nat} (h : Intact l s) : Intact l (sendSnoops s line).1 := by
  unfold sendSnoops
  dsimp only
  split
  · exact failLine_intact h
  · split
    · exact collected_intact (crossWaiting_intact (crossQueued_intact (intact_foldl (fun _ _ ht => sendSnoop_intact ht) (setLine_intact
        (failLine_intact h)))))
    · exact crossWaiting_intact (crossQueued_intact (intact_foldl (fun _ _ ht => sendSnoop_intact ht) (setLine_intact (failLine_intact h))))

theorem ownerAgain_intact {x : LineReq} (h : Intact l s) : Intact l (ownerAgain s x) := by
  unfold ownerAgain
  split
  · exact violatePkt_intact (bump_intact h)
  · exact h

theorem refill_intact {line : Nat} (h : Intact l s) : Intact l (refill s line) := intact_foldl (fun _ _ ht => intact_with (setLine_intact ht)) h

theorem lineBegin_intact {line : Nat} (h : Intact l s) : Intact l (lineBegin s line).1 := by
  unfold lineBegin
  dsimp only
  split
  · exact failLine_intact h
  · split
    · split
      · split
        · exact reply_intact (setLine_intact (failLine_intact h))
        · split
          · split
            · split
              · exact setLine_intact (ownerAgain_intact (failLine_intact h))
              · exact sendSnoops_intact (setLine_intact (ownerAgain_intact (failLine_intact h)))
            · split
              · exact setLine_intact (ownerAgain_intact (failLine_intact h))
              · exact sendSnoops_intact (setLine_intact (ownerAgain_intact (failLine_intact h)))
          · split
            · split
              · exact setLine_intact (failLine_intact h)
              · exact sendSnoops_intact (setLine_intact (failLine_intact h))
            · split
              · exact setLine_intact (failLine_intact h)
              · exact sendSnoops_intact (setLine_intact (failLine_intact h))
      · split
        · exact failLine_intact h
        · split
          · split
            · split
              · exact setLine_intact (ownerAgain_intact (failLine_intact h))
              · exact sendSnoops_intact (setLine_intact (ownerAgain_intact (failLine_intact h)))
            · split
              · exact setLine_intact (ownerAgain_intact (failLine_intact h))
              · exact sendSnoops_intact (setLine_intact (ownerAgain_intact (failLine_intact h)))
          · split
            · split
              · exact setLine_intact (failLine_intact h)
              · exact sendSnoops_intact (setLine_intact (failLine_intact h))
            · split
              · exact setLine_intact (failLine_intact h)
              · exact sendSnoops_intact (setLine_intact (failLine_intact h))
    · exact failLine_intact h

theorem opGotLine_intact {line op : Nat} (h : Intact l s) : Intact l (opGotLine s line op) := by
  unfold opGotLine
  dsimp only
  split
  · exact h
  · exact intact_else (modOp_intact h) (fun hs => intact_ite (memAccess_intact hs) (memAccess_intact (modOp_intact (intact_foldl (fun _ _ ht =>
      modOp_intact ht) (setLine_intact hs)))))

theorem lineRun_intact {fuel line : Nat} (h : Intact l s) : Intact l (lineRun fuel s line) := by
  induction fuel generalizing s line with
  | zero =>
    unfold lineRun
    exact h
  | succ n ih =>
    unfold lineRun
    dsimp only
    split
    next e =>
      exact refill_intact (opGotLine_intact (intact_fst e (lineBegin_intact (refill_intact h))))
    next e =>
      exact intact_ite (ih (intact_fst e (lineBegin_intact (refill_intact h)))) (tidyLine_intact (refill_intact (intact_fst e (lineBegin_intact
          (refill_intact h)))))

theorem lineGo_intact {line : Nat} (h : Intact l s) : Intact l (lineGo s line) := by
  unfold lineGo
  split
  next e =>
    exact opGotLine_intact (intact_fst e (collected_intact h))
  next e =>
    exact intact_then (intact_fst e (collected_intact h)) lineRun_intact

theorem lineSnoop_intact {line : Nat} (h : Intact l s) : Intact l (lineSnoop s line) := by
  unfold lineSnoop
  split
  next e =>
    exact opGotLine_intact (intact_fst e (sendSnoops_intact h))
  next e =>
    exact intact_then (intact_fst e (sendSnoops_intact h)) lineRun_intact

theorem makeRoom_intact {line : Nat} (h : Intact l s) : Intact l (makeRoom s line) := by
  unfold makeRoom
  dsimp only
  split
  · exact h
  · split
    · exact lineRun_intact (setLine_intact h)
    · exact h

theorem lineJoin_intact {line : Nat} {q : LineReq} (h : Intact l s) : Intact l (lineJoin s line q) :=
  intact_ite (intact_with h) (lineRun_intact (makeRoom_intact (setLine_intact h)))

theorem releaseLines_intact {wrote : Nat → Bool} {x : List Nat} (h : Intact l s) : Intact l (releaseLines wrote x s) := by
  induction x generalizing wrote s with
  | nil =>
    unfold releaseLines
    exact h
  | cons y ys ih =>
    unfold releaseLines
    dsimp only
    exact ih (lineRun_intact (setLine_intact h))

theorem cowStart_intact {node op : Nat} {c : Nat × Nat × Nat} (h : Intact l s) : Intact l (cowStart node op s c) := by
  unfold cowStart
  dsimp only
  split
  · exact h
  · split
    · exact h
    · split
      · exact h
      · exact modOp_intact (intact_with h)

theorem memNext_intact {x : Nat} (h : Intact l s) : Intact l (memNext s x) := by
  unfold memNext
  split
  · exact h
  · split
    · exact modOp_intact h
    · split
      · exact modOp_intact h
      · split
        · exact memAccess_intact h
        · exact intact_foldl (fun _ _ ht => lineJoin_intact ht) (modOp_intact h)

theorem touchOp_intact {o : MemOp} (h : Intact l s) : Intact l (touchOp s o) := intact_foldl (fun _ _ ht => touchFrame_intact ht) h
theorem awaitCopies_intact {node x : Nat} {o : MemOp} (h : Intact l s) : Intact l (awaitCopies node x o s) := intact_with h

theorem memStart_intact {o : MemOp} (h : Intact l s) : Intact l (memStart s o) := by
  unfold memStart
  dsimp only
  split
  · exact replyWhole_intact h
  · split
    · exact replyWhole_intact h
    · split
      · exact intact_ite (replyWhole_intact h) (intact_ite (replyWhole_intact h) (memNext_intact (awaitCopies_intact (touchOp_intact (intact_foldl
          (fun _ _ ht => cowStart_intact ht) (putOp_intact h))))))
      · exact replyWhole_intact h

theorem loadReplies_intact {o : MemOp} {load : Nat} {x : List (Nat × Nat × Nat × List Byte)} (h : Intact l s) : Intact l (loadReplies o load x s) :=
    by
  induction x generalizing o load s with
  | nil =>
    unfold loadReplies
    exact h
  | cons y ys ih =>
    unfold loadReplies
    exact ih (reply_intact h)

theorem stampRange_intact {o : MemOp} (h : Intact l s) : Intact l (stampRange s o) := intact_foldl (fun _ _ ht => stampUnit_intact ht) h
theorem freeStep_intact {op : Nat} (h : Intact l s) : Intact l (freeStep s op) := intact_with h

theorem moveStep_intact {frame x : Nat} {o : MemOp} (h : Intact l s) : Intact l (moveStep s frame x o) := by
  unfold moveStep
  dsimp only
  split
  · exact h
  · exact intact_ite h (intact_ite (abandonMove_intact h) (intact_with h))

theorem rewritten_intact {o : MemOp} {copy : Nat} (h : Intact l s) : Intact l (rewritten s o copy) := by
  unfold rewritten
  dsimp only
  split
  · exact h
  · split
    · exact h
    · exact intact_with h

theorem lineStep_intact {x : Nat} {o : MemOp} (h : Intact l s) : Intact l (lineStep s x o) := by
  unfold lineStep
  dsimp only
  split
  · exact h
  · exact intact_then (setLine_intact h) lineGo_intact

theorem memDone_intact {x : Nat} (h : Intact l s) : Intact l (memDone s x) := by
  unfold memDone
  dsimp only
  split
  · exact h
  · split
    · exact lineRun_intact (cohReadDone_intact (freeStep_intact (windowStep_intact (dropOp_intact h))))
    · exact moveStep_intact (freeStep_intact (windowStep_intact (dropOp_intact h)))
    · exact intact_else (freeStep_intact (windowStep_intact (dropOp_intact h))) rewritten_intact
    · split
      · split
        · exact releaseLines_intact (reply_intact (freeStep_intact (windowStep_intact (dropOp_intact h))))
        · exact releaseLines_intact (loadReplies_intact (freeStep_intact (windowStep_intact (dropOp_intact h))))
      · exact lineStep_intact (releaseLines_intact (reply_intact (intact_then (freeStep_intact (windowStep_intact (dropOp_intact h)))
          stampRange_intact)))

theorem memFinish_intact {x : Nat} (h : Intact l s) : Intact l (memFinish s x) := by
  unfold memFinish
  split
  · exact h
  · exact memDone_intact (intact_foldl (fun _ _ ht => memDone_intact (modOp_intact ht)) h)

theorem copyWrites_intact {x : Nat} {o : MemOp} {loc : Option Nat} {copyIx : Nat} (h : Intact l s) : Intact l (copyWrites s x o loc copyIx) := by
  unfold copyWrites
  dsimp only
  split
  · exact memFinish_intact h
  · split
    · exact memFinish_intact h
    · exact modOp_intact (accessCopy_intact h)

theorem memStep_intact {x : Nat} (h : Intact l s) : Intact l (memStep s x) := by
  unfold memStep
  split
  · exact h
  · split
    · exact memFinish_intact h
    · split
      · exact copyWrites_intact h
      · exact copyWrites_intact h
      · split
        next e1 =>
          split
          · exact memFinish_intact (modOp_intact (intact_fst e1 (memEffect_intact h)))
          · split
            · exact modOp_intact (expandOut_intact h)
            · exact memWrites_intact (modOp_intact (intact_fst e1 (memEffect_intact h)))

theorem accessDone_intact {x : Nat} (h : Intact l s) : Intact l (accessDone s x) := modOp_intact h

theorem rewriteCopy_intact {frame copyIx pool len : Nat} (h : Intact l s) : Intact l (rewriteCopy s frame copyIx pool len) := by
  unfold rewriteCopy
  dsimp only
  split
  · exact h
  · split
    · exact h
    · exact intact_ite h (modOp_intact (accessCopy_intact (putOp_intact h)))

theorem readFailed_intact {x frame copyIx pool len : Nat} {bad : List Nat} (h : Intact l s) : Intact l (readFailed s x frame copyIx pool len bad) :=
    by
  unfold readFailed
  dsimp only
  split
  · split
    · exact accessDone_intact (modOp_intact (note_intact (bumpBy_intact h)))
    · exact accessDone_intact (modOp_intact (note_intact (bumpBy_intact h)))
    · split
      · exact modOp_intact (accessCopy_intact (rewriteCopy_intact (note_intact (bumpBy_intact h))))
      · exact intact_ite (accessDone_intact (modOp_intact (rewriteCopy_intact (note_intact (bumpBy_intact h))))) (accessDone_intact (modOp_intact
          (note_intact (bumpBy_intact h))))
  · exact accessDone_intact (note_intact (bumpBy_intact h))

/-! ### MoveCore: moving frames between tiers and trays -/

theorem moveBlocksTo_intact {frame : Nat} {blocks : List (Nat × Nat)} {readers : List Nat} (h : Intact l s) : Intact l (moveBlocksTo s frame blocks
    readers) := putBlocks_intact (intact_with h)

theorem relocate_intact {frame : Nat} {m : Move} (h : Intact l s) : Intact l (relocate s frame m) := by
  unfold relocate
  dsimp only
  split
  · split
    · exact intact_else (moveBlocksTo_intact (intact_with h)) intact_with
    · exact h
  · split
    · exact h
    · exact intact_else (intact_then (modTier_intact h) moveBlocksTo_intact) intact_with

theorem commitMove_intact {frame : Nat} (h : Intact l s) : Intact l (commitMove s frame) := by
  unfold commitMove
  dsimp only
  split
  · exact h
  · refine retryMoves_intact ?_
    split
    · exact complete_intact (relocate_intact (intact_with (markBusy_intact h)))
    · exact relocate_intact (intact_with (markBusy_intact h))

theorem evacStep_intact {slot : Nat} (h : Intact l s) : Intact l (evacStep s slot) := by
  unfold evacStep
  dsimp only
  split
  · exact h
  · split
    · exact h
    · split
      · exact intact_ite h (completeAll_intact (intact_with h))
      · split
        · exact h
        · split
          · split
            · exact startMove_intact (bumpFree_intact h)
            · exact completeAll_intact (intact_with h)
          · exact h

theorem evacAll_intact (h : Intact l s) : Intact l (evacAll s) := intact_foldl (fun _ _ ht => evacStep_intact ht) h

/-! ### SnapCore: versioned shared regions -/

theorem modRegion_intact {n : Nat} {f : SharedRegion → SharedRegion} (h : Intact l s) : Intact l (modRegion s n f) := intact_with h
theorem freeSid_intact {sid : Nat} (h : Intact l s) : Intact l (freeSid s sid) :=
  ⟨(abandonMove_intact h).1, memWf_clearBytes _ _ _ (abandonMove_intact h).2⟩
theorem dropSid_intact {region sid : Nat} (h : Intact l s) : Intact l (dropSid region s sid) := intact_with h
theorem dropDraft_intact {region sid : Nat} (h : Intact l s) : Intact l (dropDraft region s sid) := intact_with (dropSid_intact h)
theorem sweepDying_intact (h : Intact l s) : Intact l (sweepDying s) :=
  intact_foldl (fun _ _ ht => complete_intact ht) (intact_with (intact_foldl (fun _ _ ht => freeSid_intact ht) (intact_with h)))

theorem takeSids_intact {n : Nat} (h : Intact l s) : ∀ p, takeSids n s = some p → Intact l p.2 := by
  induction n generalizing s with
  | zero =>
    rintro p ⟨⟩
    exact h
  | succ n ih =>
    intro p e
    unfold takeSids at e
    dsimp only at e
    split at e
    · cases e
    next sid t place =>
      obtain ⟨q, eq, rfl⟩ := Option.map_eq_some_iff.mp e
      have placed : Intact l t := by
        split at place
        · cases place
          exact h
        · obtain ⟨x, -, ex⟩ := Option.map_eq_some_iff.mp place
          cases ex
          exact bump_intact h
      exact ih (bumpFree_intact (intact_with placed)) q eq

theorem reclaim_intact {n : Nat} (h : Intact l s) : Intact l (reclaim s n) := by
  unfold reclaim
  dsimp only
  split
  · exact h
  · exact intact_foldl (fun _ _ ht => dropSid_intact ht) (modRegion_intact h)

theorem uncopied_intact {r : SharedRegion} {base : Nat} {c : CowCopy} {x : Nat} (h : Intact l s) : Intact l (uncopied r base c s x) := by
  unfold uncopied
  dsimp only
  split
  · exact h
  · exact intact_ite h (intact_ite (replyWhole_intact (freeStep_intact (windowStep_intact (dropOp_intact h)))) (modOp_intact h))

theorem cowNext_intact {x : Nat} (h : Intact l s) : Intact l (cowNext s x) := by
  unfold cowNext
  split
  · exact intact_ite (memNext_intact h) h
  · exact h

theorem dropCopies_intact {n node : Nat} (h : Intact l s) : Intact l (dropCopies s n node) := by
  unfold dropCopies
  dsimp only
  split
  · exact h
  · split
    · exact h
    · exact intact_foldl (fun _ x ht => cowNext_intact ht) (intact_foldl (fun _ _ ht => dropDraft_intact (intact_foldl (fun _ _ hu => uncopied_intact
        hu) ht)) (modRegion_intact h))

theorem endOpen_intact {n node : Nat} (h : Intact l s) : Intact l (endOpen s n node) := by
  unfold endOpen
  dsimp only
  split
  · exact h
  · split
    · exact h
    · exact reclaim_intact (intact_foldl (fun _ _ ht => dropDraft_intact ht) (modRegion_intact (dropCopies_intact h)))

theorem clearMark_intact {n node : Nat} (h : Intact l s) : Intact l (clearMark s n node) := modRegion_intact h

theorem memWf_foldl_setByte {xs : List (Nat × Byte)} {m : List (Nat × Byte)} (f : Nat → Nat) (wf : memWf m = true) :
    memWf (xs.foldl (fun m c => setByte m (f c.1) c.2) m) = true := by
  induction xs generalizing m with
  | nil => exact wf
  | cons x xs ih => exact ih (memWf_setByte _ _ _ wf)

theorem swapFrames_intact {a b : Nat} (h : Intact l s) : Intact l (swapFrames s a b) :=
  intact_mem h (memWf_foldl_setByte (swapKey a b) (memWf_filter _ _ h.2))

theorem redirect_intact {frame sid : Nat} (h : Intact l s) : Intact l (redirect frame sid s) := intact_with h

theorem commitFrame_intact {n : Nat} {w : Nat × Nat} (h : Intact l s) : Intact l (commitFrame n s w) := by
  unfold commitFrame
  dsimp only
  split
  · exact h
  · split
    · exact modRegion_intact (intact_with (modTier_intact (redirect_intact (swapFrames_intact (intact_with (abandonMove_intact (abandonMove_intact
        h)))))))
    · exact h

theorem setOpen_intact {n node : Nat} {o : VOpen} (h : Intact l s) : Intact l (setOpen s n node o) := modRegion_intact h

theorem leaseEnds_intact {n node : Nat} (h : Intact l s) : Intact l (leaseEnds s n node) := by
  unfold leaseEnds
  split
  · exact h
  · split
    · exact h
    · exact modRegion_intact (endOpen_intact (untilFabric_intact h))

theorem cowDone_intact {n node frame : Nat} (h : Intact l s) : Intact l (cowDone s n node frame) := by
  unfold cowDone
  split
  · exact h
  · split
    · exact intact_foldl (fun _ _ ht => memNext_intact ht)
        (modRegion_intact (intact_mem h (memWf_foldl_setByte (fun a => a - versionBase _ frame _ + sidBase _) h.2)))
    · exact h

theorem marksGone_intact {node : Nat} (h : Intact l s) : Intact l (marksGone s node) := intact_with h

/-! ### DomainCore: coherence messages at their home, snoop answers, failed agents, ranges that are withdrawn -/

theorem modDom_intact {d : Nat} {f : Domain → Domain} (h : Intact l s) : Intact l (modDom s d f) := intact_with h

theorem xchgAll_intact {payload : List Byte} {x : List Nat} (h : Intact l s) : Intact l (xchgAll payload x s) := by
  induction x generalizing payload s with
  | nil =>
    unfold xchgAll
    exact h
  | cons y ys ih =>
    unfold xchgAll
    exact ih (intact_getD (sendMgmt_intact h) h)

theorem cohStart_intact {origin : Origin} {op : Op} {p : Req} (h : Intact l s) : Intact l (cohStart s origin op p) := by
  unfold cohStart
  dsimp only
  split
  · exact reply_intact h
  · split
    · exact reply_intact (touchRange_intact h)
    · exact intact_else (reply_intact (intact_then (touchRange_intact h) setLine_intact)) (fun hs => intact_ite (intact_then (takeCrossing_intact
        (intact_then (touchRange_intact h) setLine_intact)) lineGo_intact) (intact_ite hs (lineJoin_intact (intact_then (touchRange_intact h)
        setLine_intact))))

theorem dropAwaited_intact {line : Nat} {gone : Nat → Bool} (h : Intact l s) : Intact l (dropAwaited s line gone) := by
  unfold dropAwaited
  dsimp only
  split
  · exact failLine_intact h
  · exact intact_then (failLine_intact h) (fun hs => intact_then (setLine_intact hs) lineGo_intact)

theorem snoopAnswer_intact {r : Resp} (h : Intact l s) : Intact l (snoopAnswer s r) := by
  unfold snoopAnswer
  dsimp only
  split
  · exact intact_else (bump_intact h) (fun ht => intact_ite (bump_intact h) (violatePkt_intact ht))
  · exact intact_ite (dropAwaited_intact (bump_intact h)) (intact_ite (setLine_intact h) (intact_then (intact_else (noteAnswer_intact h)
      lineWrite_intact) lineGo_intact))

theorem agentFail_intact {d a cause : Nat} (h : Intact l s) : Intact l (agentFail s d a cause) := by
  unfold agentFail
  dsimp only
  split
  · exact h
  · split
    · exact h
    · split
      · exact h
      · split
        · refine report_intact ?_
          split
          · exact penal_intact (intact_with (setField_intact (modDom_intact h)))
          · exact intact_with (setField_intact (modDom_intact h))
        · refine xchgAll_intact (report_intact ?_)
          split
          · exact penal_intact (intact_with (setField_intact (modDom_intact h)))
          · exact intact_with (setField_intact (modDom_intact h))

theorem nodeFails_intact {node cause : Nat} (h : Intact l s) : Intact l (nodeFails s node cause) :=
  intact_then (intact_foldl (fun _ _ ht => intact_foldl (fun _ _ hu => agentFail_intact hu) ht) h) intact_with
theorem reportedFail_intact {part a node : Nat} (h : Intact l s) : Intact l (reportedFail s part a node) :=
  intact_foldl (fun _ _ ht => agentFail_intact ht) h

theorem lineTimeout_intact {line : Nat} (h : Intact l s) : Intact l (lineTimeout s line) := by
  unfold lineTimeout
  dsimp only
  split
  · exact h
  · exact intact_ite h (dropAwaited_intact (intact_foldl (fun _ _ ht => agentFail_intact ht) (untilTime_intact h)))

theorem entryError_intact {line : Nat} (h : Intact l s) : Intact l (entryError s line) := by
  unfold entryError
  dsimp only
  split
  · exact lineRun_intact (setLine_intact (note_intact (bump_intact h)))
  · exact h

theorem sweepAgent_intact {d a : Nat} {bad : List Nat} (h : Intact l s) : Intact l (sweepAgent s d a bad) :=
  intact_else (intact_foldl (fun _ _ ht => entryError_intact ht) h) (fun hs => intact_foldl (fun _ _ ht => dropAwaited_intact ht) (intact_with hs))
theorem leaveLines_intact {which : Nat → Line → Bool} (h : Intact l s) : Intact l (leaveLines s which) :=
  intact_foldl (fun _ _ ht => lineRun_intact (setLine_intact ht)) h
theorem leaveDone_intact (h : Intact l s) : Intact l (leaveDone s) :=
  completeAll_intact (intact_with (intact_foldl (fun _ _ ht => completeAll_intact (intact_with ht)) h))

/-! ### TearCore: teardown of a partition as far as it runs by itself, revocations, the Snuffer scrub -/

theorem orphan_intact {fn : Nat} {which : Nat → Bool} (h : Intact l s) : Intact l (orphan s fn which) := modFn_intact h
theorem fnReset_intact {fn : Nat} (h : Intact l s) : Intact l (fnReset s fn) := intact_then (modFn_intact (orphan_intact h)) intact_with

theorem scrubSend_intact {c : Scrub} {p : Piece} (h : Intact l s) : Intact l (scrubSend s c p) := by
  unfold scrubSend
  dsimp only
  split
  · split
    · exact t1Access_intact h
    · exact h
  · split
    · exact h
    · exact sendPkt_intact (bumpOwn_intact (intact_with h))

theorem modScrub_intact {part : Nat} {f : Scrub → Scrub} (h : Intact l s) : Intact l (modScrub s part f) := intact_with h
theorem leaveOut_intact {c : Scrub} (h : Intact l s) : Intact l (leaveOut s c) := intact_ite h (leaveToScrub_intact (note_intact h))

theorem partGone_intact {n left : Nat} (h : Intact l s) : Intact l (partGone s n left) := by
  unfold partGone
  dsimp only
  exact intact_foldl (fun _ _ ht => complete_intact ht) (intact_with (fnReset_intact h))

theorem scrubEnds_intact (h : Intact l s) : Intact l (scrubEnds s) :=
  intact_foldl (fun _ _ ht => intact_then (leaveOut_intact (intact_with ht)) partGone_intact) h
theorem scrubStart_intact (h : Intact l s) : Intact l (scrubStart s) :=
  intact_foldl (fun _ _ ht => intact_foldl (fun _ _ hu => scrubSend_intact hu) (modScrub_intact (intact_with ht))) h

theorem scrubDone_intact {part addr : Nat} {ok : Bool} (h : Intact l s) : Intact l (scrubDone s part addr ok) := by
  unfold scrubDone
  dsimp only
  split
  · exact h
  · split
    · exact h
    · split
      · exact scrubSend_intact (modScrub_intact (intact_with h))
      · exact modScrub_intact (intact_with h)

theorem rescrub_intact (h : Intact l s) : Intact l (rescrub s) := intact_ite h (intact_with h)
theorem keyGone_intact {n : Nat} (h : Intact l s) : Intact l (keyGone s n) := leaveToScrub_intact (modPart_intact h)
theorem windowReleased_intact {which : Req → Bool} (h : Intact l s) : Intact l (windowReleased s which) :=
  intact_foldl (fun _ _ ht => windowStep_intact ht) h
theorem releasePart_intact {n : Nat} (h : Intact l s) : Intact l (releasePart s n) :=
  intact_foldl (fun _ _ ht => requestGone_intact (bump_intact ht)) (windowReleased_intact h)
theorem releaseHolds_intact {which : OutReq → Bool} (h : Intact l s) : Intact l (releaseHolds s which) :=
  intact_foldl (fun _ _ ht => requestGone_intact ht) h
theorem revokesDone_intact (h : Intact l s) : Intact l (revokesDone s) := intact_foldl (fun _ _ ht => answer_intact ht) (intact_with h)

theorem tearAll_intact (h : Intact l s) : Intact l (tearAll s) :=
  intact_else (revokesDone_intact h) (fun hs => scrubStart_intact (scrubEnds_intact (scrubStart_intact (intact_foldl (fun _ _ ht => intact_then ht
    keyGone_intact) (intact_foldl (fun _ _ ht => releasePart_intact ht) hs)))))

theorem revoked_intact {gib node : Nat} (h : Intact l s) : Intact l (revoked s gib node) :=
  intact_foldl (fun _ _ ht => dropRef_intact ht) (intact_with h)

theorem unmapPart_intact {n : Nat} (h : Intact l s) : Intact l (unmapPart s n) := by
  unfold unmapPart
  dsimp only
  refine intact_foldl (fun _ _ ht => intact_foldl (fun _ _ hu => ?_) (intact_foldl (fun _ _ hu => invalidate_intact hu) ht)) (intact_foldl (fun _ _ ht
      => invalidate_intact (invalidate_intact ht)) h)
  split
  next e =>
    exact intact_with (sendMgmt_intact hu _ e)
  · exact hu

theorem gotRevoke_intact {p : Req} {part gib : Nat} (h : Intact l s) : Intact l (gotRevoke s p part gib) :=
  releasePart_intact (intact_foldl (fun _ _ ht => invalidate_intact ht) (intact_with h))

/-! ### Ingress: a request at its ingress switch: the check -/

theorem noteSeq_intact {p : Req} (h : Intact l s) : Intact l (noteSeq s p) := intact_with h

theorem bucketTake_intact {x : Nat} {p : Req} (h : Intact l s) : Intact l (bucketTake s x p).1 := by
  unfold bucketTake
  dsimp only
  split
  · exact h
  · split
    · exact intact_with h
    · exact bump_intact (intact_with h)

theorem sendPart_intact {hk : Hooks} {x : Nat} {pl : List Byte} {ip : Nat × ReqPart} (k : HooksIntact l hk) (h : Intact l s) : Intact l (sendPart hk x
    pl s ip) := by
  unfold sendPart
  dsimp only
  split
  · exact h
  · split
    · split
      · split
        · split
          · exact memStart_intact (modOut_intact h)
          · exact replyWhole_intact (modOut_intact h)
        · exact memStart_intact (modOut_intact h)
      · exact k.start (modOut_intact h)
    · exact sendPkt_intact (intact_then (modOut_intact h) bumpOwn_intact)

theorem sendParts_intact {hk : Hooks} {x : Nat} (k : HooksIntact l hk) (h : Intact l s) : Intact l (sendParts hk s x) := by
  unfold sendParts
  dsimp only
  split
  · exact h
  · split
    · exact completeReq_intact (modOut_intact h)
    · exact intact_ite (k.start (modOut_intact h)) (intact_foldl (fun _ _ ht => intact_then ht (fun hs => sendPart_intact k hs)) (modOut_intact h))

theorem combine_intact {x : Nat} {o : OutReq} {part : ReqPart} (h : Intact l s) : Intact l (combine s x o part) := by
  unfold combine
  dsimp only
  split
  · exact modOut_intact (intact_with h)
  · exact modOut_intact (intact_with h)

theorem groupSend_intact {n : Nat} (h : Intact l s) : Intact l (groupSend s n) := by
  unfold groupSend
  dsimp only
  split
  · exact h
  · split
    · exact intact_with h
    · exact intact_ite (memStart_intact (intact_with h)) (sendPkt_intact (bumpOwn_intact (intact_with h)))

theorem hotChain_intact {x : Nat} {gone : List Nat} (h : Intact l s) : Intact l (hotChain s x gone) := intact_with h
theorem hotHold_intact {x : Nat} {o : OutReq} {lines : List Nat} (h : Intact l s) : Intact l (hotHold s x o lines) :=
  modOut_intact (intact_with (hotChain_intact (intact_foldl (fun _ _ ht => modOut_intact ht) (intact_foldl (fun _ _ ht => intact_with ht) h))))

theorem forwardReq_intact {hk : Hooks} {x : Nat} (k : HooksIntact l hk) (h : Intact l s) : Intact l (forwardReq hk s x) := by
  unfold forwardReq
  split
  · exact h
  · split
    · split
      · exact combine_intact h
      · exact h
    · split
      · exact sendParts_intact k h
      · exact hotHold_intact h

theorem hotSend_intact {hk : Hooks} {x : Nat} {lines : List Nat} (k : HooksIntact l hk) (h : Intact l s) : Intact l (hotSend hk s x lines) :=
  sendParts_intact k (intact_with h)
theorem payCredits_intact (h : Intact l s) : Intact l (payCredits s) := intact_foldl (fun _ _ ht => returnCredit_intact ht) (intact_with h)

theorem tryReq_intact {hk : Hooks} {x : Nat} (k : HooksIntact l hk) (h : Intact l s) : Intact l (tryReq hk s x) := by
  unfold tryReq
  dsimp only
  split
  · exact h
  · exact intact_ite (intact_ite (completeReq_intact h) (modOut_intact h)) (intact_ite (modOut_intact h) (forwardReq_intact k h))

theorem settleN_intact {hk : Hooks} {x : Nat} (k : HooksIntact l hk) (h : Intact l s) : Intact l (settleN hk x s) := by
  induction x generalizing s with
  | zero =>
    unfold settleN
    exact h
  | succ n ih =>
    unfold settleN
    split
    · exact ih (memStep_intact h)
    · split
      · exact ih (commitMove_intact h)
      · split
        · exact ih (memNext_intact h)
        · split
          · exact ih (trayGo_intact h)
          · split
            · exact ih (abandonMove_intact h)
            · split
              · exact ih (moveCopy_intact h)
              · split
                · exact ih (tryReq_intact k h)
                · split
                  · exact ih (sendParts_intact k h)
                  · split
                    · exact ih (lineRun_intact (makeRoom_intact h))
                    · exact h

theorem settle_intact {hk : Hooks} (k : HooksIntact l hk) (h : Intact l s) : Intact l (settle hk s) :=
  payCredits_intact (tearAll_intact (k.finish (evacAll_intact (leaveDone_intact (sweepDying_intact (settleN_intact k h))))))

theorem admitReq_intact {hk : Hooks} {op : Op} {p : Req} {got : List ((Nat × Nat) × Option Pte)} (k : HooksIntact l hk) (h : Intact l s) : Intact l
    (admitReq hk s op p got) := by
  unfold admitReq
  dsimp only
  split
  · split
    · exact markUnanswered_intact (intact_with (intact_foldl (fun _ _ ht => cacheTouch_intact ht) h))
    · split
      next e1 =>
        exact tryReq_intact k (intact_fst e1 (bucketTake_intact (intact_with (intact_foldl (fun _ _ hu => cacheTouch_intact hu) h))))
      next e1 =>
        exact intact_fst e1 (bucketTake_intact (intact_with (intact_foldl (fun _ _ hu => cacheTouch_intact hu) h)))
  · split
    · exact markUnanswered_intact (intact_with (intact_foldl (fun _ _ ht => cacheTouch_intact ht) h))
    · split
      next e =>
        exact tryReq_intact k (intact_fst e (bucketTake_intact (intact_with (intact_foldl (fun _ _ hu => cacheTouch_intact hu) h))))
      next e =>
        exact intact_fst e (bucketTake_intact (intact_with (intact_foldl (fun _ _ hu => cacheTouch_intact hu) h)))

theorem fromEndpoint_intact {hk : Hooks} {op : Op} {p : Req} {got : List ((Nat × Nat) × Option Pte)} (k : HooksIntact l hk) (h : Intact l s) : Intact
    l (fromEndpoint hk s op p got) := by
  unfold fromEndpoint
  dsimp only
  split
  · exact violatePkt_intact (bump_intact h)
  · exact refuseHere_intact (intact_ite (violatePkt_intact h) (intact_ite (violatePkt_intact h) h))
  · exact intact_with h
  · exact intact_ite (refuseHere_intact h) (admitReq_intact k h)

theorem atHome_intact {hk : Hooks} {op : Op} {p : Req} (k : HooksIntact l hk) (h : Intact l s) : Intact l (atHome hk s op p) := by
  unfold atHome
  dsimp only
  split
  · exact answer_intact h
  · split
    · split
      · exact memStart_intact h
      · exact answer_intact h
    · exact k.start h

theorem transit_intact {inL : Nat} {esc : Bool} {pkt : Packet} (h : Intact l s) : Intact l (transit s inL esc pkt) := by
  unfold transit
  dsimp only
  split
  · exact returnCredit_intact (discardReport_intact (bump_intact h))
  next e =>
    split
    · exact enqueue_intact h _ e
    · exact intact_with (intact_then (enqueue_intact h _ e) returnCredit_intact)

theorem fromSwitch_intact {hk : Hooks} {op : Op} {p : Req} (k : HooksIntact l hk) (h : Intact l s) : Intact l (fromSwitch hk s op p) :=
  intact_ite (answer_intact (violatePkt_intact h)) (intact_ite (atHome_intact k h) (transit_intact h))

theorem arrive_intact {hk : Hooks} {op : Op} {p : Req} (k : HooksIntact l hk) (h : Intact l s) : Intact l (arrive hk s op p) :=
  intact_ite (bump_intact h) (intact_ite (settle_intact k (fromSwitch_intact k h)) (settle_intact k (fromEndpoint_intact k (intact_ite (noteSeq_intact
    h) h))))

/-! ### FabCore: blocks and their binding -/

theorem modFab_intact {f : Fab → Fab} (h : Intact l s) : Intact l (modFab s f) := intact_with h
theorem modJob_intact {x : Nat} {f : Job → Job} (h : Intact l s) : Intact l (modJob s x f) := modFab_intact h
theorem modBlk_intact {b : Nat} {f : Block → Block} (h : Intact l s) : Intact l (modBlk s b f) := modFab_intact h
theorem modInst_intact {i : Nat} {f : Inst → Inst} (h : Intact l s) : Intact l (modInst s i f) := modFab_intact h
theorem modRun_intact {i : Nat} {f : RunState → RunState} (h : Intact l s) : Intact l (modRun s i f) := modInst_intact h
theorem putJob_intact {j : Job} (h : Intact l s) : Intact l (putJob s j).1 := intact_with h
theorem bumpGen_intact {kind n wide : Nat} (h : Intact l s) : Intact l (bumpGen s kind n wide) := modFab_intact h
theorem logProg_intact {kind part inst : Nat} {measure : List Byte} (h : Intact l s) : Intact l (logProg s kind part inst measure) := intact_with h
theorem clearBlk_intact {b : Nat} {use : BlockUse} {phase : Nat} (h : Intact l s) : Intact l (clearBlk s b use phase) := modBlk_intact h
theorem bindBlk_intact {n : Nat} {x : Nat × BlockUse} (h : Intact l s) : Intact l (bindBlk n s x) := clearBlk_intact (bumpFree_intact h)

theorem freeInst_intact {i : Nat} (h : Intact l s) : Intact l (freeInst s i) := by
  unfold freeInst
  dsimp only
  split
  · exact h
  · exact bumpGen_intact (modFab_intact (intact_foldl (fun _ _ ht => clearBlk_intact ht) h))

theorem bindInst_intact {part : Nat} {lib : Option Nat} {image : List Byte} (h : Intact l s) :
    ∀ p, bindInst s part lib image = .inl (some p) → Intact l p.1 := by
  intro p e
  unfold bindInst at e
  dsimp only at e
  split at e
  · cases e
  · split at e
    · cases e
      exact logProg_intact (modFab_intact (intact_foldl (fun _ _ ht => bindBlk_intact ht) (bumpFree_intact h)))
    · cases e

theorem engineAnswer_intact {port x : Nat} {rs : List Resp} (h : Intact l s) : Intact l (engineAnswer s port x rs) := by
  unfold engineAnswer
  split
  · exact h
  · exact intact_ite h (requestGone_intact (intact_foldl (fun _ _ ht => respondHere_intact ht) h))

theorem relayGot_intact {x node status result : Nat} (h : Intact l s) : Intact l (relayGot s x node status result) := modFab_intact h

theorem answerTo_intact {dest : JobTo} {op : Op} {p : Req} {status result cover : Nat} {data : Option (List Byte)} (h : Intact l s) : Intact l
    (answerTo s dest op p status result cover data) := by
  unfold answerTo
  split
  · exact engineAnswer_intact h
  · exact intact_foldl (fun _ _ ht => sendResp_intact ht) h
  · exact complete_intact h
  · exact answer_intact h
  · exact modFab_intact (relayGot_intact h)
  · exact modJob_intact h
  · exact h

theorem tellTo_intact {dest : JobTo} {status result : Nat} {data : List Byte} (h : Intact l s) : Intact l (tellTo s dest status result data) :=
  answerTo_intact h

theorem parcelGot_intact {node : Nat} {d : List Byte} (h : Intact l s) : Intact l (parcelGot s node d).1 := by
  unfold parcelGot
  dsimp only
  split
  · dsimp only
    exact modFab_intact h
  · dsimp only
    exact modFab_intact h

theorem newRelay_intact {r : Relay} (h : Intact l s) : Intact l (newRelay s r).1 := intact_with h

theorem relaySend_intact {x kind group verb part addr0 : Nat} {args extra : List Byte} {nodes : List Nat} (h : Intact l s) : Intact l (relaySend s x
    kind group verb part addr0 args extra nodes) := by
  unfold relaySend
  dsimp only
  refine intact_foldl (fun _ _ ht => ?_) h
  split
  · exact modFab_intact ht
  · refine intact_foldl (fun _ _ ht1 => ?_) ht
    split
    · exact relayGot_intact ht1
    next e =>
      exact modFab_intact (sendMgmt_intact ht1 _ e)

theorem enginePkt_intact {op : Op} {p : Req} {node n address flags : Nat} {payload : List Byte} {use : FabUse} (h : Intact l s) : Intact l (enginePkt
    s op p node n address flags payload use).1 := bumpOwn_intact (modFab_intact h)
theorem engineSend_intact {port : Nat} {op : Op} {p : Req} {node n address flags : Nat} {payload : List Byte} {use : FabUse} (h : Intact l s) : Intact
    l (engineSend s port op p node n address flags payload use) := sendPkt_intact (enginePkt_intact h)

theorem putNow_intact {x : Nat} (h : Intact l s) : Intact l (putNow s x) := by
  unfold putNow
  split
  · exact intact_ite (memStep_intact h) h
  · exact h

theorem enginePut_intact {tc : BitVec 3} {a : Nat} {data : List Byte} {bg : optParam Bool false} (h : Intact l s) : Intact l (enginePut tc s a data
    bg) := intact_foldl (fun _ x ht => putNow_intact (memNext_intact (touchOp_intact (putOp_intact ht)))) h

theorem jobAccess_intact {op : Op} {data : List Byte} {x : Nat} {r : Nat × Nat} (h : Intact l s) : Intact l (jobAccess op data x s r) := by
  unfold jobAccess
  dsimp only
  split
  · exact h
  · split
    · exact jobGot_intact (modJob_intact h)
    · exact intact_ite (memStart_intact (modJob_intact h)) (engineSend_intact (modJob_intact h))

theorem jobFetch_intact {x : Nat} {rs : List (Nat × Nat)} (h : Intact l s) : Intact l (jobFetch s x rs) :=
  intact_foldl (fun _ _ ht => jobAccess_intact ht) h
theorem jobWrite_intact {x : Nat} {w : Nat × List Byte} (h : Intact l s) : Intact l (jobWrite x s w) :=
  intact_foldl (fun _ _ ht => jobAccess_intact ht) h

/-! ### RunCore: RUNs and the steps of instances -/

theorem jobSilent_intact {j : Job} (h : Intact l s) : Intact l (jobSilent s j) := by
  unfold jobSilent
  dsimp only
  split
  · refine intact_getD (optIntact_map fun _ => ?_) h
    split
    · exact markUnanswered_intact h
    · exact report_intact (bump_intact h)
    · exact h
  · split
    · exact markUnanswered_intact h
    · exact report_intact (bump_intact h)
    · exact h

theorem stallEvent_intact {j : Job} {w : Nat × Nat} (h : Intact l s) : Intact l (stallEvent s j w) := by
  unfold stallEvent
  dsimp only
  split
  · exact intact_ite (jobSilent_intact h) h
  · exact bumpBy_intact (intact_ite (jobSilent_intact h) h)

theorem stall_intact {x : Nat} (h : Intact l s) : Intact l (stall s x) := by
  unfold stall
  dsimp only
  split
  · exact h
  · exact stallEvent_intact (modJob_intact h)

theorem stallEnd_intact {j : Job} (h : Intact l s) : Intact l (stallEnd s j) := by
  unfold stallEnd
  split
  · exact h
  · exact bumpBy_intact h

theorem restall_intact (h : Intact l s) : Intact l (restall s) :=
  intact_foldl (fun _ _ ht => intact_else ht (fun hs => intact_else (modJob_intact (stallEnd_intact hs)) stallEvent_intact)) h

theorem waitEnd_intact {j : Job} (h : Intact l s) : Intact l (waitEnd s j) := by
  unfold waitEnd
  split
  · exact bumpBy_intact h
  · exact h

theorem stopEnd_intact {j : Job} (h : Intact l s) : Intact l (stopEnd s j) := waitEnd_intact (intact_ite (stallEnd_intact h) h)

theorem countAbandon_intact {j : Job} {status : Nat} (h : Intact l s) : Intact l (countAbandon s j status) := by
  unfold countAbandon
  dsimp only
  split
  · exact h
  · exact intact_ite (bumpBy_intact h) (intact_ite (bumpBy_intact h) h)

theorem schedule_intact {i : Nat} (h : Intact l s) : Intact l (schedule s i) := by
  unfold schedule
  dsimp only
  split
  · exact h
  · split
    · exact h
    · split
      · exact h
      · refine intact_foldl (fun _ _ ht => ?_) h
        split
        · exact ht
        · refine intact_foldl (fun _ _ ht1 => ?_) ht
          split
          · exact intact_else ht1 (fun hs => putJob_intact (modRun_intact hs))
          · exact ht1

theorem regionCommits_intact {b n : Nat} (h : Intact l s) : Intact l (regionCommits s b n) := intact_with h

theorem emptySteps_intact {i : Nat} (h : Intact l s) : Intact l (emptySteps s i) := by
  unfold emptySteps
  dsimp only
  split
  · exact h
  · split
    · exact h
    · refine intact_foldl (fun _ _ ht => ?_) h
      split
      · exact ht
      · refine modRun_intact (intact_foldl (fun _ _ ht1 => ?_) ht)
        split
        · exact regionCommits_intact (modBlk_intact ht1)
        · exact ht1

theorem beginRun_intact {i : Nat} {r : RunState} (h : Intact l s) : Intact l (beginRun s i r) := by
  unfold beginRun
  dsimp only
  split
  · exact modInst_intact h
  · exact intact_ite (intact_else (modInst_intact h) (fun hs => putJob_intact (bumpFree_intact hs))) (schedule_intact (emptySteps_intact
      (modInst_intact h)))

theorem answerRun_intact {r : RunState} {status : Nat} (h : Intact l s) : Intact l (answerRun s r status) := answerTo_intact h

theorem applyReplace_intact {i : Nat} (h : Intact l s) : Intact l (applyReplace s i) := by
  unfold applyReplace
  dsimp only
  split
  · exact h
  · split
    · exact h
    · exact complete_intact (logProg_intact (modInst_intact h))

theorem finishUnload_intact {i : Nat} (h : Intact l s) : Intact l (finishUnload s i) := by
  unfold finishUnload
  dsimp only
  split
  · exact h
  · split
    · exact h
    · refine intact_foldl (fun _ _ ht => complete_intact ht) (freeInst_intact (logProg_intact ?_))
      split
      · exact complete_intact h
      · exact h

theorem unloadGo_intact {i : Nat} (h : Intact l s) : Intact l (unloadGo s i) := by
  unfold unloadGo
  split
  · exact h
  · exact intact_ite (finishUnload_intact h) h

theorem nextRun_intact {i : Nat} (h : Intact l s) : Intact l (nextRun s i) := by
  unfold nextRun
  dsimp only
  split
  · exact applyReplace_intact (modInst_intact h)
  · split
    · exact applyReplace_intact (modInst_intact h)
    · split
      · exact applyReplace_intact (modInst_intact h)
      · exact beginRun_intact (modInst_intact (applyReplace_intact (modInst_intact h)))

theorem checkRuns_intact {x x1 : Nat} (h : Intact l s) : Intact l (checkRuns x s x1) := by
  induction x generalizing s x1 with
  | zero =>
    unfold checkRuns
    exact h
  | succ n ih =>
    unfold checkRuns
    split
    · split
      · exact ih (holdEnd_intact (nextRun_intact (answerRun_intact h)))
      · exact h
    · exact h

theorem checkRun_intact {i : Nat} (h : Intact l s) : Intact l (checkRun s i) := checkRuns_intact h
theorem failRun_intact {i st : Nat} (h : Intact l s) : Intact l (failRun s i st) :=
  checkRun_intact (modRun_intact (modFab_intact (intact_foldl (fun _ _ ht => stopEnd_intact ht) h)))
theorem issueWrites_intact {x : Nat} {ws : List (Nat × List Byte)} (h : Intact l s) : Intact l (issueWrites s x ws) :=
  intact_foldl (fun _ _ ht => jobWrite_intact ht) (modJob_intact h)
theorem countAll_intact {x : List (Ctr × Nat)} (h : Intact l s) : Intact l (countAll s x) := intact_foldl (fun _ _ ht => bumpBy_intact ht) h
theorem regionCommit_intact {b : Nat} (h : Intact l s) : Intact l (regionCommit s b) := regionCommits_intact h
theorem countStep_intact {b : Nat} (h : Intact l s) : Intact l (countStep s b) := regionCommit_intact (modBlk_intact h)

theorem commitImage_intact {x i t g b : Nat} {o : JobOut} (h : Intact l s) : Intact l (commitImage s x i t g b o) := by
  unfold commitImage
  dsimp only
  split
  · exact h
  · exact checkRun_intact (schedule_intact (issueWrites_intact (modRun_intact (regionCommit_intact (modBlk_intact (countAll_intact h))))))

theorem refuse_intact {dest : JobTo} {op : Op} {p : Req} {st : Nat} (h : Intact l s) : Intact l (refuse s dest op p st) := answerTo_intact h

theorem startRun_intact {dest : JobTo} {p : Req} (h : Intact l s) : Intact l (startRun s dest p) := by
  unfold startRun
  dsimp only
  split
  · exact refuse_intact h
  · split
    · exact refuse_intact h
    · split
      · exact refuse_intact h
      · split
        · exact refuse_intact h
        · split
          · exact refuse_intact h
          · exact intact_ite (refuse_intact h) (intact_ite (refuse_intact h) (intact_ite (modInst_intact h) (checkRun_intact (beginRun_intact h))))

theorem startFilter_intact {dest : JobTo} {p : Req} (h : Intact l s) : Intact l (startFilter s dest p) := by
  unfold startFilter
  dsimp only
  split
  · exact refuse_intact h
  · split
    · exact refuse_intact h
    · split
      · exact refuse_intact h
      · split
        · exact refuse_intact h
        · split
          · exact refuse_intact h
          · exact putJob_intact (bumpFree_intact h)

theorem takeShadow_intact {x : Nat} (h : Intact l s) : Intact l (takeShadow s x) := by
  unfold takeShadow
  split
  · exact h
  · split
    · split
      · exact h
      · split
        · exact modJob_intact (waitEnd_intact h)
        · exact intact_ite (note_intact (bump_intact (modJob_intact (waitEnd_intact h)))) (modJob_intact h)
    · exact h

theorem passed_intact {x : Nat} (h : Intact l s) : Intact l (passed s x) := takeShadow_intact (modJob_intact h)

theorem moveBlock_intact {i t o old nb : Nat} (h : Intact l s) : Intact l (moveBlock s i t o old nb) := by
  unfold moveBlock
  dsimp only
  exact modFab_intact (modInst_intact (modBlk_intact (clearBlk_intact (intact_foldl (fun _ _ hu => stopEnd_intact hu) h))))

theorem goShort_intact {i t o old : Nat} (h : Intact l s) : Intact l (goShort s i t o old) :=
  intact_foldl (fun _ _ hu => holdEnd_intact (refuse_intact hu)) (intact_then (modFab_intact (modInst_intact (modInst_intact (bump_intact h))))
    failRun_intact)

theorem replaceBlock_intact {i t o old : Nat} (h : Intact l s) : Intact l (replaceBlock s i t o old) := by
  unfold replaceBlock
  split
  · exact h
  · split
    · exact moveBlock_intact h
    · exact moveBlock_intact h
    · exact goShort_intact h

theorem replaceShadow_intact {i old : Nat} (h : Intact l s) : Intact l (replaceShadow s i old) := by
  unfold replaceShadow
  dsimp only
  split
  · exact modInst_intact (modFab_intact (intact_foldl (fun _ _ ht => waitEnd_intact ht) h))
  · split
    · exact modInst_intact (clearBlk_intact (modInst_intact (modFab_intact (intact_foldl (fun _ _ ht => waitEnd_intact ht) h))))
    · exact modInst_intact (modFab_intact (intact_foldl (fun _ _ ht => waitEnd_intact ht) h))

theorem vacate_intact {b : Nat} (h : Intact l s) : Intact l (vacate s b) := by
  unfold vacate
  dsimp only
  refine modBlk_intact ?_
  split
  · exact replaceBlock_intact h
  · exact replaceShadow_intact h
  · exact h

theorem blockFault_intact {b : Nat} (h : Intact l s) : Intact l (blockFault s b) :=
  intact_ite h (intact_else (intact_with (healthLog_intact (bump_intact h))) (fun hs => vacate_intact (modBlk_intact hs)))

theorem fillShort_intact (h : Intact l s) : Intact l (fillShort s) := by
  unfold fillShort
  refine intact_foldl (fun _ _ ht => intact_foldl (fun _ _ hu => intact_foldl (fun _ _ hv => ?_) hu) ht) h
  split
  · split
    · exact modInst_intact (clearBlk_intact hv)
    · exact hv
  · exact hv

theorem retireCell_intact {b p : Nat} (h : Intact l s) : Intact l (retireCell s b p) := by
  unfold retireCell
  dsimp only
  split
  · exact modBlk_intact (modBlk_intact (healthLog_intact (bump_intact h)))
  · exact blockFault_intact (modBlk_intact (healthLog_intact (bump_intact h)))

theorem cellErrors_intact {b : Nat} {bad : List Nat} (h : Intact l s) : Intact l (cellErrors s b bad) :=
  intact_foldl (fun _ _ ht => intact_else (note_intact (bump_intact ht)) (fun hs => intact_ite (intact_ite (blockFault_intact (modBlk_intact
    (healthLog_intact hs))) (modBlk_intact hs)) (intact_else hs (fun hs => intact_ite (retireCell_intact hs) (modBlk_intact hs))))) h

theorem wordErrors_intact {b : Nat} {bad : List Nat} (h : Intact l s) : Intact l (wordErrors s b bad) :=
  cellErrors_intact (intact_foldl (fun _ _ ht => note_intact (bump_intact ht)) h)

theorem clearSuspects_intact {b : Nat} (h : Intact l s) : Intact l (clearSuspects s b).1 := by
  unfold clearSuspects
  dsimp only
  refine intact_foldl_fst (fun _ _ hp => ?_) h
  split
  · dsimp only
    exact modBlk_intact hp
  · split
    · dsimp only
      exact retireCell_intact (note_intact (bump_intact hp))
    · dsimp only
      exact modBlk_intact (note_intact (bump_intact hp))

theorem replay_intact {x : Nat} (h : Intact l s) : Intact l (replay s x) := modJob_intact (intact_getD (optIntact_map fun _ => stopEnd_intact h) h)
theorem fingerprint_intact {b row step : Nat} (h : Intact l s) : Intact l (fingerprint s b row step) := intact_with (healthLog_intact h)
theorem countMoves_intact {part n : Nat} (h : Intact l s) : Intact l (countMoves s part n) :=
  intact_foldl (fun _ _ ht => intact_then ht bumpBy_intact) (bumpBy_intact h)

/-! ### CollCore: collective contexts: descriptors, admission, contributions, records, partials, delivery, notices, re-hosting and the optimizer -/

theorem modCtx_intact {ck : Nat} {f : CollCtx → CollCtx} (h : Intact l s) : Intact l (modCtx s ck f) := modFab_intact h
theorem modNode_intact {nk : Nat} {f : CollNode → CollNode} (h : Intact l s) : Intact l (modNode s nk f) := modFab_intact h
theorem modChunk_intact {nk key : Nat} {f : ChunkSt → ChunkSt} (h : Intact l s) : Intact l (modChunk s nk key f) := modNode_intact h
theorem gateLast_intact {n0 g : Nat} (h : Intact l s) : Intact l (gateLast s n0 g) := intact_with h
theorem collPkt_intact {x : CollCtx} {op : Op} {node address : Nat} {tallow : Bool} {d : Nat} {data : List Byte} {use : Req → FabUse} (h : Intact l s)
    : Intact l (collPkt s x op node address tallow d data use).1 := enginePkt_intact h

theorem sendSelf_intact {port : Nat} {pkt : Packet} (h : Intact l s) : Intact l (sendSelf s port pkt) := by
  unfold sendSelf
  dsimp only
  split
  · exact modPkt_intact (pushVoq_intact h)
  · exact h

theorem collSend_intact {port : Nat} {x : CollCtx} {op : Op} {node address : Nat} {tallow : Bool} {d : Nat} {data : List Byte} {use : Req → FabUse} (h
    : Intact l s) : Intact l (collSend s port x op node address tallow d data use) :=
  intact_ite (sendSelf_intact (collPkt_intact h)) (gateLast_intact (sendPkt_intact (collPkt_intact h)))

theorem pushCopies_intact {port x : Nat} {x1 : List (Nat × Packet)} (h : Intact l s) : Intact l (pushCopies port x s x1) := by
  induction x generalizing port s x1 with
  | zero =>
    unfold pushCopies
    exact h
  | succ n ih =>
    unfold pushCopies
    dsimp only
    split
    · exact h
    · exact ih (modPkt_intact (pushVoq_intact h))

theorem sendCopies_intact {port g : Nat} {pkts : List Packet} (h : Intact l s) : Intact l (sendCopies s port g pkts) := by
  unfold sendCopies
  dsimp only
  refine gateLast_intact (pushCopies_intact (intact_foldl_fst (fun _ _ hp => ?_) h))
  split
  · exact sendSelf_intact hp
  · split
    · exact markHop_intact hp
    · exact sendPkt_intact hp

theorem collAgain_intact {port : Nat} {op : Op} {q : Req} {g : Nat} {use : FabUse} (h : Intact l s) : Intact l (collAgain s port op q g use).1 :=
  gateLast_intact (engineSend_intact h)
theorem sendUp_intact {x : CollCtx} {nk key ix start n : Nat} {data : List Byte} (h : Intact l s) : Intact l (sendUp s x nk key ix start n data) :=
  collSend_intact h
theorem sendJoins_intact {x : CollCtx} {nk round ix host : Nat} {down : Bool} (h : Intact l s) : Intact l (sendJoins s x nk round ix host down) :=
  collSend_intact h

theorem notice_intact {ck m t type round chunk via nonfinite : Nat} (h : Intact l s) : Intact l (notice s ck m t type round chunk via nonfinite) := by
  unfold notice
  dsimp only
  split
  · exact h
  · exact collSend_intact h

theorem collTold_intact {ck stage ix m rd num : Nat} (h : Intact l s) : Intact l (collTold s ck stage ix m rd num) := by
  unfold collTold
  split
  · exact h
  · split
    · exact modNode_intact h
    · exact modCtx_intact h
    · exact modCtx_intact h

theorem tellHost_intact {ck : Nat} {x : CollCtx} {host stage ix m rd num : Nat} (h : Intact l s) : Intact l (tellHost s ck x host stage ix m rd num)
    := by
  unfold tellHost
  split
  · exact collTold_intact h
  · split
    next e =>
      exact relaySend_intact (intact_fst e (newRelay_intact h))

theorem takeJoined_intact {x : CollCtx} {nk rd : Nat} (h : Intact l s) : Intact l (takeJoined s x nk rd) := by
  unfold takeJoined
  split
  · exact h
  · exact intact_ite h (intact_foldl (fun _ _ ht => sendJoins_intact ht) (modNode_intact h))

theorem goJoins_intact {ck : Nat} (h : Intact l s) : Intact l (goJoins s ck) := by
  unfold goJoins
  dsimp only
  split
  · exact h
  · refine intact_foldl (fun _ _ ht => intact_foldl (fun _ _ hu => ?_) ht) h
    split
    · exact hu
    · exact intact_else hu (fun hs => intact_ite (takeJoined_intact (modNode_intact hs)) (sendJoins_intact (modNode_intact hs)))

theorem modOpen_intact {x : CollCtx} {nk : Nat} {f : CollNode → CollNode} (h : Intact l s) : Intact l (modOpen s x nk f) := modNode_intact h
theorem modOpenChunk_intact {x : CollCtx} {nk key : Nat} {f : ChunkSt → ChunkSt} (h : Intact l s) : Intact l (modOpenChunk s x nk key f) :=
  modOpen_intact h
theorem nextRound_intact {x : CollCtx} {nk : Nat} (h : Intact l s) : Intact l (nextRound s x nk) := modNode_intact h

theorem goRounds_intact {ck : Nat} (h : Intact l s) : Intact l (goRounds s ck) := by
  unfold goRounds
  dsimp only
  split
  · exact h
  · refine intact_foldl (fun _ _ ht => ?_) (intact_foldl (fun _ _ ht => ?_) h)
    · split
      · exact intact_else ht (fun hs => intact_else (nextRound_intact hs) tellHost_intact)
      · exact ht
    · split
      · exact intact_else ht (fun hs => modCtx_intact (intact_foldl (fun _ x hs1 => nextRound_intact hs1) (intact_foldl (fun _ _ hs1 => notice_intact
          hs1) hs)))
      · exact ht

theorem delivered_intact {nk key : Nat} (h : Intact l s) : Intact l (delivered s nk key) := by
  unfold delivered
  dsimp only
  split
  · exact h
  · split
    · exact h
    · split
      · exact intact_else (intact_foldl (fun _ _ ht => intact_else ht answer_intact) (modChunk_intact h)) (fun hs => intact_foldl (fun _ _ ht =>
          tellHost_intact ht) hs)
      · exact intact_foldl (fun _ _ ht => intact_else ht answer_intact) (modChunk_intact h)

/-- One packet of a delivery, noted by its tag. -/
theorem noted_intact {x : CollCtx} {op : Op} {node address : Nat} {tall : Bool} {d : Nat} {data : List Byte} {use : Req → FabUse} {nk key : Nat}
    {f : ChunkSt → ChunkSt} (h : Intact l s) : Intact l (modChunk (collPkt s x op node address tall d data use).1 nk key f) :=
  modChunk_intact (collPkt_intact h)

theorem startDelivery_intact {nk key : Nat} (h : Intact l s) : Intact l (startDelivery s nk key) := by
  unfold startDelivery
  dsimp only
  split
  · exact h
  split
  · exact h
  · refine intact_ite h (delivered_intact (intact_foldl (fun t e ht => ?_) ?_))
    · exact intact_then (intact_foldl (fun _ _ hu => sendCopies_intact (noted_intact hu)) ht) fun hu => sendCopies_intact (noted_intact hu)
    · refine intact_then (intact_foldl (fun _ _ ht => sendCopies_intact (intact_foldl_fst (fun _ _ hp => ?_) (intact_foldl_fst (fun _ _ hp => ?_) ht))) h)
        fun ht => sendCopies_intact (intact_foldl_fst (fun _ _ hp => ?_) ht)
      all_goals
        dsimp only
        exact noted_intact hp

theorem haveResult_intact {x : CollCtx} {nk key : Nat} {res : List Byte} (h : Intact l s) : Intact l (haveResult s x nk key res) :=
  startDelivery_intact (modOpenChunk_intact h)
theorem queueChunk_intact {x : CollCtx} {nk key : Nat} (h : Intact l s) : Intact l (queueChunk s x nk key) := putJob_intact (bumpFree_intact h)

theorem takePiece_intact {x : CollCtx} {nk key : Nat} {op : Op} {p : Req} {parts : List (Nat × Nat)} (h : Intact l s) : Intact l (takePiece s x nk key
    op p parts) := by
  unfold takePiece
  dsimp only
  split
  · exact h
  · split
    · split
      · exact bumpBy_intact (bumpBy_intact (modChunk_intact h))
      · exact modChunk_intact h
    · split
      · split
        · exact bumpBy_intact (bumpBy_intact (modChunk_intact h))
        · exact modChunk_intact h
      · refine modOpenChunk_intact (intact_foldl (fun _ _ ht => sendUp_intact ht) ?_)
        split
        · exact bumpBy_intact (bumpBy_intact (modChunk_intact h))
        · exact modChunk_intact h

theorem goChunk_intact {x : CollCtx} {nk key : Nat} (h : Intact l s) : Intact l (goChunk s x nk key) := by
  unfold goChunk
  dsimp only
  split
  · exact h
  · split
    · refine intact_foldl (fun _ _ ht => ?_) (intact_foldl (fun _ _ ht => takePiece_intact ht) (modNode_intact h))
      split
      · exact ht
      · exact intact_else ht modChunk_intact
    · split
      · refine intact_foldl (fun _ _ ht => ?_) (intact_foldl (fun _ _ ht => takePiece_intact ht) (modNode_intact h))
        split
        · exact ht
        · exact intact_else ht modChunk_intact
      · split
        · split
          · refine intact_foldl (fun _ _ ht => ?_) (intact_foldl (fun _ _ ht => takePiece_intact ht) (modNode_intact h))
            split
            · exact ht
            · exact intact_else ht modChunk_intact
          · refine queueChunk_intact (modNode_intact (intact_foldl (fun _ _ ht => ?_) (intact_foldl (fun _ _ ht => takePiece_intact ht)
              (modNode_intact h))))
            split
            · exact ht
            · exact intact_else ht modChunk_intact
        · refine queueChunk_intact (intact_foldl (fun _ _ ht => ?_) (intact_foldl (fun _ _ ht => takePiece_intact ht) (modNode_intact h)))
          split
          · exact ht
          · exact intact_else ht modChunk_intact

theorem collGo_intact {ck : Nat} (h : Intact l s) : Intact l (collGo s ck) := by
  unfold collGo
  dsimp only
  split
  · exact goRounds_intact (goJoins_intact h)
  · refine intact_foldl (fun _ _ ht => ?_) (goRounds_intact (goJoins_intact h))
    split
    · exact ht
    · exact intact_else ht (fun hs => intact_foldl (fun _ _ hs1 => goChunk_intact hs1) hs)

theorem chunkTook_intact {x : CollCtx} {nk c : Nat} (h : Intact l s) : Intact l (chunkTook s x nk c) := by
  unfold chunkTook
  dsimp only
  split
  · exact h
  · split
    · exact modNode_intact h
    · exact h

theorem commitChunk_intact {x nk key : Nat} {o : JobOut} (h : Intact l s) : Intact l (commitChunk s x nk key o) := by
  unfold commitChunk
  dsimp only
  split
  · exact h
  · split
    · exact h
    · exact issueWrites_intact (modOpenChunk_intact (intact_ite (chunkTook_intact h) h))

theorem chunkDone_intact {nk key : Nat} (h : Intact l s) : Intact l (chunkDone s nk key) := by
  unfold chunkDone
  dsimp only
  split
  · exact h
  · split
    · exact h
    · exact intact_ite h (intact_ite (haveResult_intact h) (modChunk_intact (intact_foldl (fun _ _ ht => sendUp_intact ht) h)))

/-! ### CollRun: collective inputs and answers, admission, binding, closing and re-hosting -/

theorem bumpColl_intact {ck x n : Nat} (h : Intact l s) : Intact l (bumpColl s ck x n) := bumpBy_intact h
theorem retryInput_intact {x : CollCtx} {ck : Nat} {dest : JobTo} {op : Op} {p : Req} (h : Intact l s) : Intact l (retryInput s x ck dest op p) :=
  answerTo_intact (bumpColl_intact h)

theorem inputPiece_intact {x : CollCtx} {ck nk key : Nat} {dest : JobTo} {op : Op} {p : Req} {parts : List (Nat × Nat)} {note : ChunkSt → ChunkSt} (h
    : Intact l s) : Intact l (inputPiece s x ck nk key dest op p parts note).1 := by
  unfold inputPiece
  dsimp only
  split
  · exact refuse_intact h
  · split
    · exact refuse_intact (takePiece_intact (modNode_intact (modChunk_intact h)))
    · split
      · exact refuse_intact (bumpColl_intact (modNode_intact (modNode_intact (modChunk_intact h))))
      · exact retryInput_intact h

theorem shutInput_intact {x : CollCtx} {n : CollNode} {ck rd st : Nat} {dest : JobTo} {op : Op} {p : Req} (h : Intact l s) : Intact l (shutInput s x n
    ck rd st dest op p) := intact_ite (retryInput_intact h) (refuse_intact (intact_ite (bumpColl_intact h) h))

theorem joins_intact {ck : Nat} {x : CollCtx} {nk m rd : Nat} (h : Intact l s) : Intact l (joins s ck x nk m rd) := by
  unfold joins
  dsimp only
  split
  · exact h
  · exact intact_ite h (intact_else (modNode_intact h) tellHost_intact)

theorem startContrib_intact {dest : JobTo} {p : Req} (h : Intact l s) : Intact l (startContrib s dest p) := by
  unfold startContrib
  dsimp only
  split
  · exact refuse_intact h
  · split
    · exact refuse_intact h
    · split
      · exact refuse_intact h
      · split
        · exact retryInput_intact h
        · split
          · exact refuse_intact h
          · split
            · exact shutInput_intact h
            · exact intact_ite (collGo_intact (refuse_intact (joins_intact h))) (intact_ite (refuse_intact h) (intact_ite (refuse_intact
                (bumpColl_intact h)) (intact_then (inputPiece_intact h) (fun hs => collGo_intact (joins_intact (bumpColl_intact hs))))))

theorem takeDown_intact {x : CollCtx} {nk key start n : Nat} {data : List Byte} (h : Intact l s) : Intact l (takeDown s x nk key start n data) := by
  unfold takeDown
  dsimp only
  split
  · exact h
  · split
    · exact h
    · split
      · exact intact_then (modChunk_intact h) haveResult_intact
      · exact modChunk_intact h

theorem startPartial_intact {dest : JobTo} {p : Req} (h : Intact l s) : Intact l (startPartial s dest p) := by
  unfold startPartial
  dsimp only
  split
  · exact refuse_intact h
  · refine intact_ite ?_ ?_
    · exact refuse_intact h
    · refine intact_ite ?_ ?_
      · exact refuse_intact h
      · refine intact_ite ?_ ?_
        · exact retryInput_intact (intact_ite (bumpColl_intact h) h)
        · split
          · exact refuse_intact h
          · split
            · exact refuse_intact h
            · exact intact_ite (refuse_intact h) (intact_ite (retryInput_intact h) (intact_ite (refuse_intact (bumpColl_intact h)) (intact_ite
                (refuse_intact (collGo_intact (intact_ite h (intact_ite (intact_foldl (fun _ _ ht => takeJoined_intact ht) h) (modNode_intact h)))))
                (intact_ite (intact_ite (refuse_intact (collGo_intact (bumpColl_intact (intact_ite h (intact_ite (intact_foldl (fun _ _ ht =>
                takeJoined_intact ht) h) (modNode_intact h)))))) (collGo_intact (intact_foldl (fun _ _ ht => takeDown_intact ht) (intact_foldl (fun _
                _ ht => modChunk_intact ht) (intact_ite h (intact_ite (intact_foldl (fun _ _ ht => takeJoined_intact ht) h) (modNode_intact h)))))))
                (intact_ite (refuse_intact (bumpColl_intact (intact_ite h (intact_ite (intact_foldl (fun _ _ ht => takeJoined_intact ht) h)
                (modNode_intact h))))) (collGo_intact (intact_then (inputPiece_intact (intact_ite h (intact_ite (intact_foldl (fun _ _ ht =>
                takeJoined_intact ht) h) (modNode_intact h)))) bumpColl_intact)))))))

theorem stallReport_intact {x : CollCtx} {n : CollNode} {node : Nat} (h : Intact l s) : Intact l (stallReport s x n node) := report_intact h

theorem collAnswered_intact {tag : Nat} {u : FabUse} {status : Nat} (h : Intact l s) : Intact l (collAnswered s tag u status) := by
  unfold collAnswered
  dsimp only
  split
  · split
    · exact h
    · exact intact_ite h (collSend_intact h)
  · split
    · exact h
    · exact intact_ite h (intact_ite (modChunk_intact (collSend_intact h)) (intact_ite (intact_ite (modChunk_intact (collAgain_intact (bump_intact
        h))) (stallReport_intact h)) (collGo_intact (delivered_intact (modChunk_intact h)))))
  · exact h

theorem bindFrame_intact {f : Nat} {region : Option Nat} (h : Intact l s) : SumIntact l (bindFrame s f region) := by
  unfold bindFrame
  dsimp only
  split
  · split
    · exact sumIntact_inl (modTier_intact h)
    · split
      · exact sumIntact_inr
      · split
        · exact sumIntact_inl (startMove_intact (bumpFree_intact (modTier_intact h)))
        · exact sumIntact_inr
  · split
    · exact sumIntact_inl (modTier_intact h)
    · split
      · exact sumIntact_inr
      · split
        · exact sumIntact_inl (startMove_intact (bumpFree_intact (modTier_intact h)))
        · exact sumIntact_inr

theorem bindShard_intact {frames : List (List Nat)} (h : Intact l s) : SumIntact l (bindShard s frames) := by
  unfold bindShard
  split
  · exact sumIntact_inl h
  · refine sumIntact_foldl (fun r _ hr => ?_) (sumIntact_inl h)
    cases r with
    | inr st => exact sumIntact_inr
    | inl t =>
      dsimp only
      split
      · exact sumIntact_inr
      next u e =>
        refine sumIntact_foldl (fun r _ hr => ?_) (sumIntact_inl (bindFrame_intact (hr t rfl) u e))
        cases r with
        | inr st => exact sumIntact_inr
        | inl v =>
          dsimp only
          split
          · exact bindFrame_intact (hr v rfl)
          · exact sumIntact_inl (hr v rfl)

theorem unbind_intact {fs : List Nat} (h : Intact l s) : Intact l (unbind s fs) := intact_foldl (fun _ _ ht => modTier_intact ht) h

theorem freeCtx_intact {ck : Nat} (h : Intact l s) : Intact l (freeCtx s ck) := by
  unfold freeCtx
  dsimp only
  split
  · exact h
  · exact intact_then (intact_with (modFab_intact (unbind_intact h))) bumpGen_intact

theorem dropSteps_intact {nk : Nat} {which : Nat → Bool} (h : Intact l s) : Intact l (dropSteps s nk which) := modFab_intact h

theorem dropNode_intact {ck ix : Nat} (h : Intact l s) : Intact l (dropNode s ck ix) := by
  unfold dropNode
  dsimp only
  split
  · exact modCtx_intact (unbind_intact (intact_foldl (fun _ _ ht => answer_intact ht) (modFab_intact (dropSteps_intact h))))
  · exact h

theorem leaveCtx_intact {ck : Nat} (h : Intact l s) : Intact l (leaveCtx s ck) := by
  unfold leaveCtx
  split
  · exact intact_ite (freeCtx_intact h) h
  · exact h

theorem admitNode_intact {x : CollCtx} {ck ix : Nat} {fresh : Bool} (h : Intact l s) : OptIntact l (admitNode s x ck ix fresh) := by
  unfold admitNode
  dsimp only
  split
  · split
    · split
      · exact optIntact_none
      · exact optIntact_some (modFab_intact (bumpFree_intact (modFab_intact h)))
    · split
      · exact optIntact_none
      · exact optIntact_some (modFab_intact (bumpFree_intact (modFab_intact h)))
  · split
    · split
      · exact optIntact_none
      · exact optIntact_some (modFab_intact (bumpFree_intact (modFab_intact h)))
    · split
      · exact optIntact_none
      · exact optIntact_some (modFab_intact (bumpFree_intact (modFab_intact h)))

theorem admitNodes_intact {x : CollCtx} {ck : Nat} {fresh : Bool} {x1 : List Nat} (h : Intact l s) : OptIntact l (admitNodes x ck fresh x1 s) := by
  induction x1 generalizing x ck fresh s with
  | nil =>
    unfold admitNodes
    exact optIntact_some h
  | cons y ys ih =>
    unfold admitNodes
    exact optIntact_bind (admitNode_intact h) fun _ ht => ih ht

theorem clearColl_intact {ck : Nat} (h : Intact l s) : Intact l (clearColl s ck) := intact_with h

theorem bindRoots_intact {ck : Nat} {xs : List (Nat × List (List Nat))} (h : Intact l s) : SumIntact l (bindRoots s ck xs) := by
  unfold bindRoots
  refine sumIntact_foldl (fun r _ hr => ?_) (sumIntact_inl h)
  cases r with
  | inr st => exact sumIntact_inr
  | inl t =>
    dsimp only
    split
    · exact sumIntact_inl (hr t rfl)
    · split
      · exact sumIntact_inr
      next u e => exact sumIntact_inl (modCtx_intact (bindShard_intact (hr t rfl) u e))

theorem collAdmit_intact {dest : JobTo} {b : List Byte} (h : Intact l s) : Intact l (collAdmit s dest b) := by
  unfold collAdmit
  dsimp only
  split
  · exact tellTo_intact h
  · split
    · exact tellTo_intact h
    · split
      · split
        · exact tellTo_intact h
        · split
          · exact tellTo_intact h
          next e2 =>
            split
            · exact tellTo_intact h
            next e3 =>
              exact intact_ite (tellTo_intact (admitNodes_intact (bindRoots_intact h _ e2) _ e3)) (modCtx_intact (admitNodes_intact (bindRoots_intact
                  h _ e2) _ e3))
      · split
        · exact tellTo_intact h
        · split
          · exact tellTo_intact h
          next e1 =>
            split
            · exact tellTo_intact h
            next e2 =>
              exact intact_ite (tellTo_intact (admitNodes_intact (bindRoots_intact (clearColl_intact (modFab_intact (intact_with h))) _ e1) _ e2))
                  (modCtx_intact (admitNodes_intact (bindRoots_intact (clearColl_intact (modFab_intact (intact_with h))) _ e1) _ e2))

theorem goBind_intact {ck : Nat} (h : Intact l s) : Intact l (goBind s ck) := by
  unfold goBind
  dsimp only
  split
  · exact h
  · split
    · exact h
    · split
      · exact intact_ite (tellTo_intact (leaveCtx_intact (modCtx_intact (dropNode_intact (intact_foldl (fun _ _ ht => abandonMove_intact ht) h)))))
          (intact_ite h (intact_ite (tellTo_intact (modCtx_intact h)) (tellTo_intact (leaveCtx_intact (modCtx_intact (dropNode_intact h))))))
      · exact intact_ite (tellTo_intact (freeCtx_intact (intact_foldl (fun _ _ ht => abandonMove_intact ht) h))) (intact_ite h (intact_ite
          (tellTo_intact (modCtx_intact h)) (tellTo_intact (freeCtx_intact h))))

theorem hereToo_intact {nodes : List Nat} {f : State → State} (h : Intact l s) (hf1 : ∀ t, Intact l t → Intact l (f t)) : Intact l (hereToo s nodes f)
    := intact_ite (hf1 _ h) h

theorem askAdmit_intact {dest : JobTo} {x : CollCtx} {only : Nat} {nodes : List Nat} {obj : Nat} {args : List Nat} (h : Intact l s) : Intact l
    (askAdmit s dest x only nodes obj args) := by
  unfold askAdmit
  dsimp only
  exact hereToo_intact (relaySend_intact (newRelay_intact h)) (fun _ ht => collAdmit_intact ht)

theorem collWhere_intact {dest : JobTo} {b : List Byte} (h : Intact l s) : Intact l (collWhere s dest b) := tellTo_intact h

theorem askWhere_intact {r : Relay} {part : Nat} {b : List Byte} {known : List Nat} (h : Intact l s) : Intact l (askWhere s r part b known) := by
  unfold askWhere
  dsimp only
  exact hereToo_intact (relaySend_intact (newRelay_intact h)) (fun _ ht => collWhere_intact ht)

theorem collOpen_intact {dest : JobTo} {part : Nat} {b : List Byte} (h : Intact l s) : Intact l (collOpen s dest part b) :=
  intact_ite (tellTo_intact h) (intact_ite (tellTo_intact h) (askWhere_intact h))

theorem collPlaced_intact {dest : JobTo} {part : Nat} {b : List Byte} {places : List Nat} {unheard : Bool} (h : Intact l s) : Intact l (collPlaced s
    dest part b places unheard) := by
  unfold collPlaced
  dsimp only
  split
  · exact tellTo_intact h
  · split
    · exact tellTo_intact h
    · split
      · exact tellTo_intact h
      · exact askAdmit_intact (bumpFree_intact h)

theorem wherePlaced_intact {r : Relay} (h : Intact l s) : Intact l (wherePlaced s r) := intact_ite (askWhere_intact h) (collPlaced_intact h)

theorem tellHosts_intact {r : Relay} {kind verb handle : Nat} {args : List Byte} {nodes : List Nat} {here : State → JobTo → List Byte → State} (h :
    Intact l s) (hhere : ∀ t a1 a2, Intact l t → Intact l (here t a1 a2)) : Intact l (tellHosts s r kind verb handle args nodes here) := by
  unfold tellHosts
  dsimp only
  exact hereToo_intact (relaySend_intact (newRelay_intact h)) (fun _ ht => hhere _ _ _ ht)

theorem noticeAll_intact {ck type : Nat} (h : Intact l s) : Intact l (noticeAll s ck type) := by
  unfold noticeAll
  split
  · exact h
  · exact intact_foldl (fun _ _ ht => intact_foldl (fun _ _ hu => notice_intact hu) ht) h

theorem goClose_intact {ck : Nat} (h : Intact l s) : Intact l (goClose s ck) := by
  unfold goClose
  dsimp only
  split
  · exact h
  · split
    · exact h
    · exact intact_ite h (intact_foldl (fun _ _ ht => tellTo_intact ht) (freeCtx_intact (noticeAll_intact h)))

theorem forceClose_intact {ck type : Nat} (h : Intact l s) : Intact l (forceClose s ck type) := by
  unfold forceClose
  dsimp only
  split
  · exact h
  · exact intact_foldl (fun _ _ ht => tellTo_intact ht) (freeCtx_intact (modCtx_intact (intact_else (intact_foldl (fun _ _ ht => answer_intact ht) h)
      noticeAll_intact)))

theorem collClosePart_intact {dest : JobTo} {b : List Byte} (h : Intact l s) : Intact l (collClosePart s dest b) := by
  unfold collClosePart
  dsimp only
  split
  · exact tellTo_intact h
  · split
    · exact tellTo_intact (modCtx_intact h)
    · exact goClose_intact (collGo_intact (modCtx_intact h))
    · exact tellTo_intact (forceClose_intact h)
    · exact tellTo_intact (freeCtx_intact h)

theorem collClose_intact {dest : JobTo} {x : CollCtx} {force : Bool} (h : Intact l s) : Intact l (collClose s dest x force) :=
  tellHosts_intact h (fun _ _ _ ht => collClosePart_intact ht)

theorem collOptPart_intact {dest : JobTo} {b : List Byte} (h : Intact l s) : Intact l (collOptPart s dest b) := by
  unfold collOptPart
  dsimp only
  split
  · exact tellTo_intact h
  · exact intact_ite (tellTo_intact (modCtx_intact h)) (tellTo_intact (collGo_intact (modCtx_intact h)))

theorem retell_intact {ck : Nat} {x : CollCtx} {ix round : Nat} {n : CollNode} (h : Intact l s) : Intact l (retell s ck x ix round n) :=
  intact_then (intact_ite h (intact_foldl (fun _ _ ht => tellHost_intact ht) (intact_ite (tellHost_intact h) h))) tellHost_intact
theorem discard_intact {x : CollCtx} {t round rc gen : Nat} {ns : List (Nat × CollNode)} (h : Intact l s) : Intact l (discard s x t round rc gen ns)
    := intact_foldl (fun _ _ hu => modNode_intact (dropSteps_intact hu)) (intact_foldl (fun _ _ hu => answer_intact hu) h)
theorem joinsAgain_intact {x : CollCtx} {ix : Nat} {x1 : Nat × CollNode} (h : Intact l s) : Intact l (joinsAgain s x ix x1) :=
  intact_ite (modNode_intact h) (intact_ite (intact_foldl (fun _ _ ht => sendJoins_intact ht) h) h)

theorem takeResume_intact {ck ix host gen rc lead round : Nat} (h : Intact l s) : Intact l (takeResume s ck ix host gen rc lead round) := by
  unfold takeResume
  dsimp only
  split
  · exact h
  · split
    · exact modNode_intact (intact_then (bumpColl_intact (modCtx_intact h)) dropNode_intact)
    · exact leaveCtx_intact (collGo_intact (modCtx_intact (intact_foldl (fun _ _ ht => intact_foldl (fun _ _ hu => notice_intact hu) ht) (intact_else
        (intact_else (discard_intact (modNode_intact (intact_then (bumpColl_intact (modCtx_intact h)) dropNode_intact))) (fun hs => intact_foldl (fun
        _ _ ht => joinsAgain_intact ht) hs)) (fun hs => intact_foldl (fun _ _ ht => retell_intact ht) hs)))))

theorem rehost_intact {dest : JobTo} {ck ix host lead : Nat} (h : Intact l s) : Intact l (rehost s dest ck ix host lead) := by
  unfold rehost
  split
  · exact tellTo_intact h
  · exact askAdmit_intact h

theorem collResumePart_intact {dest : JobTo} {b : List Byte} (h : Intact l s) : Intact l (collResumePart s dest b) := by
  unfold collResumePart
  dsimp only
  split
  · exact tellTo_intact h
  · split
    · exact tellTo_intact h
    · exact tellTo_intact (takeResume_intact h)
    · exact rehost_intact h
    · exact tellTo_intact (collGo_intact (collTold_intact h))

theorem sendResume_intact {dest : JobTo} {ck ix host lead rc round : Nat} (h : Intact l s) : Intact l (sendResume s dest ck ix host lead rc round) :=
    by
  unfold sendResume
  dsimp only
  split
  · exact tellTo_intact h
  · exact tellHosts_intact h (fun _ _ _ ht => collResumePart_intact ht)

theorem askResume_intact {dest : JobTo} {ck ix host lead : Nat} (h : Intact l s) : Intact l (askResume s dest ck ix host lead) := by
  unfold askResume
  dsimp only
  split
  · exact tellTo_intact h
  · exact tellHosts_intact h (fun _ _ _ ht => collResumePart_intact ht)

theorem collTake_intact {dest : JobTo} {b : List Byte} (h : Intact l s) : Intact l (collTake s dest b) := by
  unfold collTake
  split
  · exact intact_ite (collWhere_intact h) (collAdmit_intact h)
  · exact collClosePart_intact h
  · exact collOptPart_intact h
  · exact collResumePart_intact h
  · exact tellTo_intact h

theorem collRelayed_intact {r : Relay} (h : Intact l s) : Intact l (collRelayed s r) := by
  unfold collRelayed
  dsimp only
  split
  · exact wherePlaced_intact h
  · exact intact_ite (tellTo_intact h) (tellTo_intact (tellHosts_intact h (fun _ _ _ ht => collClosePart_intact ht)))
  · exact tellHosts_intact h (fun _ _ _ ht => collClosePart_intact ht)
  · exact tellTo_intact h
  · exact intact_ite (tellTo_intact h) (hereToo_intact (relaySend_intact (newRelay_intact h)) (fun _ ht => collOptPart_intact ht))
  · exact tellTo_intact h
  · exact intact_ite (askResume_intact h) (tellTo_intact h)
  · exact sendResume_intact h
  · exact tellTo_intact h

theorem collLost_intact {node : Nat} (h : Intact l s) : Intact l (collLost s node) :=
  intact_foldl (fun _ _ ht => intact_ite (forceClose_intact ht) (intact_else ht (fun hs => intact_foldl (fun _ _ hu => intact_else hu rehost_intact)
    hs))) h

theorem rehostHere_intact {x : CollCtx → CollNode → Option Nat} (h : Intact l s) : Intact l (rehostHere s x) := by
  unfold rehostHere
  refine intact_foldl (fun _ _ ht => ?_) h
  split
  · exact ht
  · exact intact_ite (rehost_intact ht) (tellHosts_intact ht (fun _ _ _ ht1 => collResumePart_intact ht1))

theorem collFence_intact {r : Nat} (h : Intact l s) : Intact l (collFence s r) := rehostHere_intact h

theorem collBlock_intact {r : Nat} (h : Intact l s) : Intact l (collBlock s r) := by
  unfold collBlock
  dsimp only
  exact rehostHere_intact h

theorem moveShard_intact {nk : Nat} (h : Intact l s) : Intact l (moveShard s nk) := by
  unfold moveShard
  dsimp only
  split
  · exact h
  · split
    · exact h
    · split
      · exact modNode_intact h
      · split
        · split
          · exact bump_intact (modNode_intact h)
          · split
            · split
              · exact modNode_intact h
              · refine countMoves_intact (modNode_intact (intact_foldl_fst (fun _ _ hp => ?_) (modNode_intact h)))
                split
                · exact hp
                · split
                  · exact startMove_intact (bumpFree_intact hp)
                  · exact hp
            · split
              · exact modNode_intact h
              · refine countMoves_intact (modNode_intact (intact_foldl_fst (fun _ _ hp => ?_) (modNode_intact h)))
                split
                · exact hp
                · split
                  · exact startMove_intact (bumpFree_intact hp)
                  · exact hp
        · exact modNode_intact h

theorem collFinish_intact (h : Intact l s) : Intact l (collFinish s) :=
  intact_foldl (fun _ _ ht => moveShard_intact ht) (intact_foldl (fun _ _ ht => goClose_intact (collGo_intact (goBind_intact ht))) h)

/-! ### EmbCore: embedding tables: tables and rows -/

theorem modTable_intact {tk : Nat} {f : EmbTable → EmbTable} (h : Intact l s) : Intact l (modTable s tk f) := modFab_intact h
theorem bumpEmb_intact {tk x n : Nat} (h : Intact l s) : Intact l (bumpEmb s tk x n) := bumpBy_intact h
theorem putRanges_intact {tc : BitVec 3} {rs : List (Nat × Nat)} {b : List Byte} {bg : optParam Bool false} (h : Intact l s) : Intact l (putRanges s
    tc rs b bg) := intact_foldl_fst (fun _ _ hp => enginePut_intact hp) h
theorem keepHeader_intact {tk row : Nat} {rs : List (Nat × Nat)} {x : List Byte} (h : Intact l s) : Intact l (keepHeader s tk row rs x) :=
  modFab_intact h

theorem swapRow_intact {tk : Nat} {t : EmbTable} {row : Nat} {valid : Bool} {scale offset g : Nat} {codes : Option (List Byte)} (h : Intact l s) :
    Intact l (swapRow s tk t row valid scale offset g codes) := by
  unfold swapRow
  dsimp only
  split
  · exact modTable_intact (bumpEmb_intact h)
  · split
    · exact bumpEmb_intact h
    · refine putRanges_intact ?_
      split
      · exact putRanges_intact (keepHeader_intact (bumpEmb_intact h))
      · exact keepHeader_intact (bumpEmb_intact h)

theorem stepEnds_intact {tk : Nat} {t : EmbTable} (h : Intact l s) : Intact l (stepEnds s tk t) := modTable_intact (intact_with h)

theorem stepGo_intact {tk x : Nat} (h : Intact l s) : Intact l (stepGo s tk x) := by
  induction x generalizing s tk with
  | zero =>
    unfold stepGo
    exact h
  | succ n ih =>
    unfold stepGo
    split
    · exact h
    · split
      · exact intact_ite (ih (stepEnds_intact h)) h
      · split
        · exact intact_ite (ih (modTable_intact h)) h
        · exact h

theorem rowApplied_intact {tk row n : Nat} (h : Intact l s) : Intact l (rowApplied s tk row n) := stepGo_intact (modTable_intact h)

theorem applyNow_intact {tk : Nat} {t : EmbTable} {row : Nat} {r : RowCopy} (h : Intact l s) : Intact l (applyNow s tk t row r) := by
  unfold applyNow
  dsimp only
  split
  · exact rowApplied_intact (bumpEmb_intact (bumpFree_intact (bumpFree_intact h)))
  · exact rowApplied_intact (bumpEmb_intact (bumpFree_intact (bumpFree_intact h)))
  · exact rowApplied_intact (swapRow_intact (bumpFree_intact (bumpFree_intact h)))

theorem sendRootPart_intact {x ix host : Nat} {op : Op} {payload : List Byte} (h : Intact l s) : Intact l (sendRootPart s x ix host op payload) := by
  unfold sendRootPart
  dsimp only
  split
  · exact h
  · split
    · exact sendPkt_intact (bumpOwn_intact (modJob_intact h))
    · exact engineSend_intact (modJob_intact h)

theorem setPart_intact {x ix status result : Nat} {data : List Byte} (h : Intact l s) : Intact l (setPart s x ix status result data) :=
  modJob_intact h

theorem startGatherPart_intact {dest : JobTo} {tk : Nat} {t : EmbTable} {p : Req} (h : Intact l s) : Intact l (startGatherPart s dest tk t p) := by
  unfold startGatherPart
  dsimp only
  split
  · exact refuse_intact h
  · exact putJob_intact (bumpFree_intact h)

theorem answerGatherPart_intact {j : Job} {o : JobOut} (h : Intact l s) : Intact l (answerGatherPart s j o) := by
  unfold answerGatherPart
  dsimp only
  split
  · exact intact_foldl (fun _ _ ht => sendResp_intact ht) h
  · exact modJob_intact (setPart_intact h)
  · exact h

theorem startGather_intact {dest : JobTo} {p : Req} (h : Intact l s) : Intact l (startGather s dest p) := by
  unfold startGather
  dsimp only
  split
  · exact refuse_intact h
  · split
    · exact refuse_intact h
    · split
      · exact refuse_intact h
      · split
        · exact refuse_intact h
        · split
          · exact intact_ite (startGatherPart_intact h) (refuse_intact h)
          · split
            · exact refuse_intact h
            · split
              · exact refuse_intact h
              · exact putJob_intact (bumpEmb_intact h)

theorem gatherSend_intact {x tk : Nat} (h : Intact l s) : Intact l (gatherSend s x tk) := by
  unfold gatherSend
  dsimp only
  split
  · refine intact_foldl (fun _ _ ht => ?_) h
    split
    · exact ht
    · exact intact_ite (startGatherPart_intact (modJob_intact ht)) (sendRootPart_intact ht)
  · exact h

theorem gatherParts_intact {x tk : Nat} {x1 : List Byte} (h : Intact l s) : Intact l (gatherParts s x tk x1) := by
  unfold gatherParts
  dsimp only
  split
  · exact intact_ite (jobGone_intact (refuse_intact h)) (gatherSend_intact (modJob_intact (bumpEmb_intact (bumpEmb_intact h))))
  · exact h

theorem gatherEnd_intact {x tk : Nat} (h : Intact l s) : Intact l (gatherEnd s x tk) := by
  unfold gatherEnd
  dsimp only
  split
  · exact intact_ite (jobGone_intact (refuse_intact h)) (intact_ite (jobGone_intact (answerTo_intact h)) (issueWrites_intact (modJob_intact h)))
  · exact h

theorem listsThen_intact {x va n : Nat} {f : State → List Byte → State} (h : Intact l s) (hf1 : ∀ t a1, Intact l t → Intact l (f t a1)) : Intact l
    (listsThen s x va n f) := by
  unfold listsThen
  split
  · exact h
  · split
    · exact hf1 _ _ h
    · split
      · exact jobFetch_intact (modJob_intact h)
      · exact hf1 _ _ h
      · exact jobGone_intact (refuse_intact h)
      · exact jobGone_intact (refuse_intact h)
      · exact jobGone_intact (refuse_intact h)

theorem gatherGo_intact {x tk : Nat} (h : Intact l s) : Intact l (gatherGo s x tk) := by
  unfold gatherGo
  dsimp only
  split
  · exact h
  · split
    · exact jobGone_intact (refuse_intact h)
    · split
      · exact intact_ite (jobGone_intact (refuse_intact h)) h
      · split
        · exact h
        · split
          · exact intact_ite (gatherEnd_intact h) (gatherSend_intact h)
          · exact jobGone_intact (answerTo_intact h)
          · refine listsThen_intact h (fun _ _ ht => ?_)
            split
            · exact intact_then (gatherParts_intact ht) gatherEnd_intact
            · exact gatherParts_intact ht

theorem scatterTake_intact {tk : Nat} {t : EmbTable} {p : Req} (h : Intact l s) : Intact l (scatterTake s tk t p).1 := by
  unfold scatterTake
  dsimp only
  split
  · exact modTable_intact h
  · exact modTable_intact h

theorem startScatterPart_intact {dest : JobTo} {tk : Nat} {t : EmbTable} {p : Req} (h : Intact l s) : Intact l (startScatterPart s dest tk t p) :=
  intact_ite (refuse_intact (bumpEmb_intact h)) (putJob_intact (bumpFree_intact h))

theorem commitScatter_intact {x : Nat} {j : Job} {tk : Nat} (h : Intact l s) : Intact l (commitScatter s x j tk) := by
  unfold commitScatter
  dsimp only
  split
  · exact refuse_intact (jobGone_intact h)
  · exact intact_ite (answerTo_intact (stepGo_intact (scatterTake_intact (jobGone_intact h)))) (putJob_intact (stepGo_intact (scatterTake_intact
      (jobGone_intact h))))

theorem startScatter_intact {dest : JobTo} {p : Req} (h : Intact l s) : Intact l (startScatter s dest p) := by
  unfold startScatter
  dsimp only
  split
  · exact refuse_intact h
  · split
    · exact refuse_intact h
    · split
      · exact refuse_intact h
      · split
        · exact refuse_intact h
        · split
          · exact refuse_intact h
          · split
            · exact startScatterPart_intact h
            · split
              · exact refuse_intact h
              · exact putJob_intact (bumpEmb_intact h)

theorem scatterSend_intact {x tk : Nat} (h : Intact l s) : Intact l (scatterSend s x tk) := by
  unfold scatterSend
  dsimp only
  split
  · refine intact_foldl (fun _ _ ht => ?_) h
    split
    · exact ht
    · exact intact_ite (startScatterPart_intact (modJob_intact ht)) (sendRootPart_intact ht)
  · exact h

theorem scatterParts_intact {x tk : Nat} {x1 : List Byte} (h : Intact l s) : Intact l (scatterParts s x tk x1) := by
  unfold scatterParts
  dsimp only
  split
  · exact scatterSend_intact (modJob_intact (bumpEmb_intact h))
  · exact h

theorem scatterEnd_intact {x tk : Nat} (h : Intact l s) : Intact l (scatterEnd s x tk) := by
  unfold scatterEnd
  dsimp only
  split
  · exact h
  · exact jobGone_intact (answerTo_intact (intact_ite (bumpEmb_intact h) h))

theorem scatterGo_intact {x tk : Nat} (h : Intact l s) : Intact l (scatterGo s x tk) := by
  unfold scatterGo
  dsimp only
  split
  · exact h
  · split
    · exact jobGone_intact (refuse_intact h)
    · split
      · exact intact_ite (jobGone_intact (refuse_intact h)) h
      · split
        · exact h
        · split
          · exact intact_ite (scatterEnd_intact h) (scatterSend_intact h)
          · exact listsThen_intact h (fun _ _ ht => scatterParts_intact ht)

/-! ### EmbRun: creation and destruction of embedding tables, replacement of rows, the hot set, moves of rows, and the messages by which switches take part in them -/

theorem tellEmb_intact {r : Relay} {kind verb handle stage : Nat} {args extra : List Byte} {nodes : List Nat} {here : State → JobTo → List Byte →
    State} (h : Intact l s) (hhere : ∀ t a1 a2, Intact l t → Intact l (here t a1 a2)) : Intact l (tellEmb s r kind verb handle stage args extra nodes
    here) := by
  unfold tellEmb
  dsimp only
  exact intact_then (relaySend_intact (newRelay_intact h)) (fun hs => hhere _ _ _ hs)

theorem clearRows_intact {t : EmbTable} (h : Intact l s) : Intact l (clearRows s t) := by
  unfold clearRows
  refine intact_foldl (fun _ _ hu => ?_) h
  split
  · exact hu
  · refine intact_foldl (fun _ _ hu1 => ?_) hu
    split
    · exact putRanges_intact hu1
    · exact hu1

theorem clearEmb_intact {tk : Nat} (h : Intact l s) : Intact l (clearEmb s tk) := intact_with h

theorem embInstall_intact {part : Nat} {b : List Byte} (h : Intact l s) : Intact l (embInstall s part b).1 := by
  unfold embInstall
  dsimp only
  split
  · exact h
  · split
    · exact h
    · split
      · exact h
      · exact intact_else (clearEmb_intact (modFab_intact h)) intact_with

theorem freeTable_intact {tk : Nat} (h : Intact l s) : Intact l (freeTable s tk) := by
  unfold freeTable
  dsimp only
  split
  · exact h
  · exact intact_then (intact_with (modFab_intact (intact_foldl (fun _ _ ht => tellTo_intact ht) (intact_foldl (fun _ _ ht => jobGone_intact
      (refuse_intact ht)) h)))) bumpGen_intact

theorem embCreate_intact {dest : JobTo} {part : Nat} {init : Bool} {b : List Byte} (h : Intact l s) : Intact l (embCreate s dest part init b) := by
  unfold embCreate
  dsimp only
  split
  · exact tellTo_intact h
  · split
    · exact tellTo_intact h
    · split
      · exact tellEmb_intact h (fun _ _ _ ht => tellTo_intact (embInstall_intact ht))
      · exact tellEmb_intact (bumpFree_intact h) (fun _ _ _ ht => tellTo_intact (embInstall_intact ht))

theorem recordNow_intact {tk : Nat} {t : EmbTable} {rec : List Byte} {r : RowCopy} (h : Intact l s) : Intact l (recordNow s tk t rec r) :=
  swapRow_intact h
theorem dropMove_intact {tk : Nat} {t : EmbTable} {m : RowMove} (h : Intact l s) : Intact l (dropMove s tk t m) :=
  tellEmb_intact (modTable_intact h) (fun _ _ _ hu => hu)
theorem sendRow_intact {tk : Nat} {t : EmbTable} {m : RowMove} {r : RowCopy} (h : Intact l s) : Intact l (sendRow s tk t m r) :=
  tellEmb_intact (modTable_intact h) (fun _ _ _ hu => hu)

theorem rowDone_intact {x : Nat} {j : Job} {tk : Nat} {t : EmbTable} {row : Nat} {act : RowAct} {got : Option (RowCopy × Bool)} (h : Intact l s) :
    Intact l (rowDone s x j tk t row act got) := by
  unfold rowDone
  dsimp only
  split
  · exact rowApplied_intact (bumpEmb_intact (intact_then (jobGone_intact (intact_ite (stallEnd_intact h) h)) bumpEmb_intact))
  · refine applyNow_intact ?_
    split
    · exact countStep_intact (intact_then (jobGone_intact (intact_ite (stallEnd_intact h) h)) bumpEmb_intact)
    · exact intact_then (jobGone_intact (intact_ite (stallEnd_intact h) h)) bumpEmb_intact
  · exact recordNow_intact (intact_then (jobGone_intact (intact_ite (stallEnd_intact h) h)) bumpEmb_intact)
  · exact recordNow_intact (intact_then (jobGone_intact (intact_ite (stallEnd_intact h) h)) bumpEmb_intact)
  · split
    · exact dropMove_intact (intact_then (jobGone_intact (intact_ite (stallEnd_intact h) h)) bumpEmb_intact)
    · exact intact_then (jobGone_intact (intact_ite (stallEnd_intact h) h)) bumpEmb_intact
  · split
    · exact sendRow_intact (intact_then (jobGone_intact (intact_ite (stallEnd_intact h) h)) bumpEmb_intact)
    · exact intact_then (jobGone_intact (intact_ite (stallEnd_intact h) h)) bumpEmb_intact

theorem rowFailed_intact {x : Nat} {j : Job} {tk : Nat} {t : EmbTable} {row st : Nat} {act : RowAct} (h : Intact l s) : Intact l (rowFailed s x j tk t
    row st act) := by
  unfold rowFailed
  dsimp only
  split
  · exact rowApplied_intact (countAbandon_intact (jobGone_intact (intact_ite (stallEnd_intact h) h)))
  · split
    · exact relayGot_intact (countAbandon_intact (jobGone_intact (intact_ite (stallEnd_intact h) h)))
    · exact countAbandon_intact (jobGone_intact (intact_ite (stallEnd_intact h) h))
  · split
    · refine dropMove_intact ?_
      split
      · exact relayGot_intact (countAbandon_intact (jobGone_intact (intact_ite (stallEnd_intact h) h)))
      · exact countAbandon_intact (jobGone_intact (intact_ite (stallEnd_intact h) h))
    · exact countAbandon_intact (jobGone_intact (intact_ite (stallEnd_intact h) h))

theorem rowGo_intact {x tk row : Nat} {act : RowAct} (h : Intact l s) : Intact l (rowGo s x tk row act) := by
  unfold rowGo
  split
  · split
    · exact h
    · split
      · exact rowFailed_intact h
      · split
        · exact stall_intact (jobFetch_intact h)
        · exact rowDone_intact h
        · exact rowDone_intact h
  · exact jobGone_intact h
  · exact h

theorem rowWork_intact {tk : Nat} {t : EmbTable} {row : Nat} {act : RowAct} {dest : JobTo} (h : Intact l s) : Intact l (rowWork s tk t row act dest)
    := rowGo_intact (putJob_intact (bumpFree_intact h))

theorem applyOne_intact {tk row : Nat} (h : Intact l s) : Intact l (applyOne s tk row) := by
  unfold applyOne
  dsimp only
  split
  · exact h
  · exact intact_ite h (rowWork_intact h)

theorem lateGo_intact {tk : Nat} (h : Intact l s) : Intact l (lateGo s tk) := by
  unfold lateGo
  dsimp only
  split
  · exact h
  · refine intact_foldl (fun _ _ ht => ?_) (modTable_intact h)
    split
    · exact ht
    · split
      · exact modTable_intact ht
      · split
        · split
          · exact relaySend_intact ht
          · exact ht
        · exact rowWork_intact ht

theorem replacePart_intact {dest : JobTo} {tk : Nat} {t : EmbTable} {b : List Byte} (h : Intact l s) : Intact l (replacePart s dest tk t b) := by
  unfold replacePart
  split
  next e =>
    exact lateGo_intact (modTable_intact (intact_fst e (newRelay_intact h)))

theorem takeRow_intact {tk : Nat} {t : EmbTable} {b : List Byte} (h : Intact l s) : Intact l (takeRow s tk t b) := by
  unfold takeRow
  dsimp only
  split
  · exact modTable_intact (modTable_intact h)
  · split
    · refine putRanges_intact ?_
      split
      · exact putRanges_intact (modTable_intact h)
      · exact modTable_intact h
    · split
      · exact putRanges_intact (modTable_intact h)
      · exact modTable_intact h

theorem moveRows_intact {dest : JobTo} {tk : Nat} {t : EmbTable} {target : Nat} {rows : List Nat} (h : Intact l s) : Intact l (moveRows s dest tk t
    target rows) := by
  unfold moveRows
  split
  next e =>
    exact modTable_intact (intact_fst e (newRelay_intact h))

theorem commitRow_intact {tk : Nat} {m : RowMove} (h : Intact l s) : Intact l (commitRow s tk m) := by
  unfold commitRow
  dsimp only
  split
  · exact h
  · exact lateGo_intact (stepGo_intact (tellEmb_intact (modTable_intact (bumpEmb_intact h)) (fun _ _ _ ht => ht)))

theorem moveGo_intact {tk : Nat} {m : RowMove} (h : Intact l s) : Intact l (moveGo tk s m) := by
  unfold moveGo
  split
  · exact h
  · exact intact_ite h (intact_ite (intact_ite h (rowWork_intact h)) (intact_ite (commitRow_intact h) h))

theorem redirectRow_intact {tk row target : Nat} (h : Intact l s) : Intact l (redirectRow s tk row target) := modTable_intact h

theorem movePart_intact {dest : JobTo} {tk : Nat} {t : EmbTable} {b : List Byte} (h : Intact l s) : Intact l (movePart s dest tk t b) := by
  unfold movePart
  dsimp only
  split
  · exact intact_ite (tellTo_intact h) (tellTo_intact (modTable_intact h))
  · exact moveRows_intact h
  · exact tellTo_intact (takeRow_intact h)
  · exact tellTo_intact (redirectRow_intact h)
  · exact tellTo_intact (lateGo_intact (modTable_intact h))
  · exact tellTo_intact (modTable_intact h)

theorem hotPart_intact {dest : JobTo} {tk : Nat} {t : EmbTable} {b : List Byte} (h : Intact l s) : Intact l (hotPart s dest tk t b) := by
  unfold hotPart
  dsimp only
  split
  · exact tellTo_intact (modTable_intact h)
  · exact putJob_intact h
  · exact tellTo_intact (modTable_intact h)

theorem rowsGo_intact {x tk : Nat} (h : Intact l s) : Intact l (rowsGo s x tk) := by
  unfold rowsGo
  dsimp only
  split
  · split
    · exact h
    · split
      · exact jobGone_intact (tellTo_intact h)
      · exact intact_ite (jobFetch_intact h) (tellEmb_intact (jobGone_intact (bumpEmb_intact h)) (fun _ _ _ ht => tellTo_intact (modTable_intact ht)))
  · exact jobGone_intact (tellTo_intact h)
  · exact h

theorem closeTable_intact {tk : Nat} (h : Intact l s) : Intact l (closeTable s tk) := by
  unfold closeTable
  split
  · exact h
  · exact intact_ite h (intact_foldl (fun _ _ ht => tellTo_intact ht) (modTable_intact h))

theorem closeStep_intact {tk : Nat} {t : EmbTable} {step : Nat} (h : Intact l s) : Intact l (closeStep s tk t step).1 := by
  unfold closeStep
  dsimp only
  split
  · exact h
  · exact stepGo_intact (modTable_intact h)

theorem embTake_intact {dest : JobTo} {b : List Byte} (h : Intact l s) : Intact l (embTake s dest b) := by
  unfold embTake
  dsimp only
  split
  · exact tellTo_intact (embInstall_intact h)
  · split
    · exact tellTo_intact h
    · split
      · exact tellTo_intact (intact_ite (clearRows_intact h) (freeTable_intact h))
      · exact intact_ite (closeTable_intact (modTable_intact h)) (tellTo_intact (freeTable_intact h))
      · exact tellTo_intact (modTable_intact h)
      · exact replacePart_intact h
      · exact tellTo_intact (closeStep_intact h)
      · exact tellTo_intact h
      · exact hotPart_intact h
      · exact movePart_intact h
      · exact tellTo_intact h

theorem embRelayed_intact {r : Relay} (h : Intact l s) : Intact l (embRelayed s r) := by
  unfold embRelayed
  dsimp only
  split
  · exact intact_ite (intact_ite (tellTo_intact h) (tellEmb_intact h (fun _ _ _ ht => embTake_intact ht))) (tellTo_intact (tellEmb_intact h (fun _ _ _
      ht => embTake_intact ht)))
  · exact tellTo_intact h
  · exact tellTo_intact h
  · exact tellEmb_intact h (fun _ _ _ ht => embTake_intact ht)
  · exact tellTo_intact h
  · exact tellTo_intact h
  · exact tellTo_intact h
  · split
    · exact tellTo_intact h
    · exact intact_ite (tellTo_intact h) (intact_foldl (fun _ _ ht => intact_then (relaySend_intact ht) embTake_intact) (newRelay_intact h))
  · split
    · exact tellTo_intact (intact_ite (countMoves_intact h) h)
    · split
      · exact tellTo_intact (intact_ite (countMoves_intact h) h)
      · exact intact_ite (tellTo_intact (intact_ite (countMoves_intact h) h)) (intact_foldl (fun _ _ ht => intact_then (relaySend_intact ht)
          embTake_intact) (newRelay_intact (intact_ite (countMoves_intact h) h)))
  · split
    · exact h
    · split
      · exact h
      · exact tellEmb_intact (modTable_intact h) (fun _ _ _ ht => embTake_intact ht)
  · exact modTable_intact h
  · exact tellTo_intact h

theorem embShares_intact (h : Intact l s) : Intact l (embShares s) := by
  unfold embShares
  dsimp only
  exact modFab_intact h

theorem balanceTable_intact {tk : Nat} (h : Intact l s) : Intact l (balanceTable s tk) := by
  unfold balanceTable
  dsimp only
  split
  · exact h
  · split
    · exact h
    · split
      · exact intact_with (modTable_intact h)
      · exact intact_else (intact_with (modTable_intact h)) (fun hs => tellEmb_intact (modTable_intact hs) (fun _ _ _ ht => embTake_intact ht))

theorem embFinish_intact (h : Intact l s) : Intact l (embFinish s) :=
  embShares_intact (intact_foldl (fun _ _ ht => closeTable_intact (lateGo_intact (balanceTable_intact (stepGo_intact (intact_foldl (fun _ _ hu =>
    moveGo_intact hu) ht))))) h)

/-! ### SearchCore: vector indexes, search on a shard, merging, deletion and repair -/

theorem modIndex_intact {xk : Nat} {f : SearchIx → SearchIx} (h : Intact l s) : Intact l (modIndex s xk f) := modFab_intact h
theorem bumpSearch_intact {xk x n : Nat} (h : Intact l s) : Intact l (bumpSearch s xk x n) := bumpBy_intact h

theorem searchTook_intact {xk r took : Nat} (h : Intact l s) : Intact l (searchTook s xk r took) := by
  unfold searchTook
  dsimp only
  split
  · exact h
  · split
    · exact h
    · exact intact_then (modIndex_intact h) (fun hs => countMoves_intact (modIndex_intact hs))

theorem startSearchPart_intact {dest : JobTo} {xk : Nat} {x : SearchIx} {p : Req} (h : Intact l s) : Intact l (startSearchPart s dest xk x p) := by
  unfold startSearchPart
  dsimp only
  split
  · exact refuse_intact h
  · split
    · exact refuse_intact h
    · split
      · exact refuse_intact h
      · exact putJob_intact (bumpFree_intact (bumpSearch_intact h))

theorem startSearch_intact {dest : JobTo} {p : Req} (h : Intact l s) : Intact l (startSearch s dest p) := by
  unfold startSearch
  dsimp only
  split
  · exact refuse_intact h
  · split
    · split
      · exact refuse_intact h
      · split
        · exact refuse_intact h
        · split
          · exact refuse_intact h
          · split
            · exact refuse_intact h
            · split
              · exact startSearchPart_intact h
              · split
                · exact refuse_intact h
                · exact intact_ite (refuse_intact h) (intact_ite (refuse_intact (bumpSearch_intact h)) (putJob_intact (bumpSearch_intact h)))
    · split
      · exact refuse_intact h
      · split
        · exact refuse_intact h
        · split
          · exact refuse_intact h
          · split
            · exact refuse_intact h
            · split
              · exact startSearchPart_intact h
              · split
                · exact refuse_intact h
                · exact intact_ite (refuse_intact h) (intact_ite (refuse_intact (bumpSearch_intact h)) (putJob_intact (bumpSearch_intact h)))

theorem searchSend_intact {x xk : Nat} (h : Intact l s) : Intact l (searchSend s x xk) := by
  unfold searchSend
  dsimp only
  split
  · refine intact_foldl (fun _ _ ht => ?_) h
    split
    · exact ht
    · exact intact_ite (startSearchPart_intact (modJob_intact ht)) (sendRootPart_intact ht)
  · exact h

theorem searchEnd_intact {x xk : Nat} (h : Intact l s) : Intact l (searchEnd s x xk) := by
  unfold searchEnd
  dsimp only
  split
  · exact intact_ite (jobGone_intact (refuse_intact h)) (jobGone_intact (answerTo_intact (modIndex_intact (bumpSearch_intact (bumpSearch_intact h)))))
  · exact h

theorem searchGo_intact {x xk : Nat} (h : Intact l s) : Intact l (searchGo s x xk) := by
  unfold searchGo
  dsimp only
  split
  · exact h
  · split
    · exact jobGone_intact (refuse_intact h)
    · split
      · exact searchEnd_intact h
      · split
        · exact intact_then (searchSend_intact h) searchEnd_intact
        · exact searchSend_intact h

theorem searchRetry_intact {x ix : Nat} (h : Intact l s) : Intact l (searchRetry s x ix) := by
  unfold searchRetry
  dsimp only
  split
  · exact h
  · refine modJob_intact ?_
    split
    · exact bumpSearch_intact h
    · exact h

theorem searchLost_intact {node : Nat} (h : Intact l s) : Intact l (searchLost s node) := by
  unfold searchLost
  dsimp only
  refine intact_foldl (fun _ _ ht => ?_) h
  split
  · exact intact_else ht (fun hs => intact_else hs (fun hs => searchGo_intact (modJob_intact hs)))
  · exact ht

theorem searchCreate_intact {dest : JobTo} {part : Nat} {b : List Byte} {take : State → JobTo → List Byte → State} (h : Intact l s) (htake : ∀ t a1
    a2, Intact l t → Intact l (take t a1 a2)) : Intact l (searchCreate s dest part b take) := by
  unfold searchCreate
  dsimp only
  split
  · exact tellTo_intact h
  · split
    · exact tellTo_intact h
    · split
      · exact tellEmb_intact h htake
      · exact tellEmb_intact (bumpFree_intact h) htake

theorem searchInstall_intact {part : Nat} {b : List Byte} (h : Intact l s) : Intact l (searchInstall s part b).1 := by
  unfold searchInstall
  dsimp only
  split
  · dsimp only
    exact h
  · split
    · dsimp only
      exact h
    · split
      · split
        · dsimp only
          exact h
        · dsimp only
          exact intact_else (modFab_intact (intact_with h)) intact_with
      · split
        · dsimp only
          exact h
        · dsimp only
          exact intact_else (modFab_intact (intact_with h)) intact_with

theorem freeIndex_intact {xk : Nat} (h : Intact l s) : Intact l (freeIndex s xk) := by
  unfold freeIndex
  dsimp only
  split
  · exact h
  · exact intact_then (intact_with (modFab_intact (intact_foldl (fun _ _ ht => jobGone_intact (refuse_intact ht)) h))) bumpGen_intact

theorem closeIndex_intact {xk : Nat} (h : Intact l s) : Intact l (closeIndex s xk) := by
  unfold closeIndex
  split
  · exact h
  · exact intact_ite h (intact_foldl (fun _ _ ht => tellTo_intact ht) (modIndex_intact h))

theorem deletePart_intact {dest : JobTo} {xk : Nat} {x : SearchIx} {undelete : Bool} {ids : List Nat} (h : Intact l s) : Intact l (deletePart s dest
    xk x undelete ids) := by
  unfold deletePart
  dsimp only
  split
  · split
    · refine tellTo_intact (intact_foldl (fun _ _ ht => ?_) h)
      split
      · exact ht
      · split
        · exact ht
        · exact enginePut_intact ht
    · refine modFab_intact (intact_foldl (fun _ _ ht => ?_) h)
      split
      · exact ht
      · split
        · exact ht
        · exact enginePut_intact ht
  · split
    · refine tellTo_intact (intact_foldl (fun _ _ ht => ?_) h)
      split
      · exact ht
      · split
        · exact ht
        · exact enginePut_intact ht
    · refine modFab_intact (intact_foldl (fun _ _ ht => ?_) h)
      split
      · exact ht
      · split
        · exact ht
        · exact enginePut_intact ht

theorem tombsDone_intact (h : Intact l s) : Intact l (tombsDone s) := intact_foldl (fun _ _ ht => tellTo_intact ht) (modFab_intact h)
theorem repairEnd_intact {x xk : Nat} {j : Job} {x1 : SearchIx} {take : State → JobTo → List Byte → State} (h : Intact l s) (htake : ∀ t a1 a2, Intact
    l t → Intact l (take t a1 a2)) : Intact l (repairEnd s x xk j x1 take) := tellEmb_intact (jobGone_intact h) htake
theorem writeList_intact {j : Job} {x : SearchIx} {x1 x2 : Nat} {x3 : List Nat} (h : Intact l s) : Intact l (writeList s j x x1 x2 x3) :=
  putRanges_intact h

theorem repairGo_step_intact {n : Nat} {below : Nat.below (motive := fun _ => (State → JobTo → List Byte → State) → State → Nat → State) (n + 1)}
    {f : State → JobTo → List Byte → State} {x1 : Nat} (hf1 : ∀ t a1 a2, Intact l t → Intact l (f t a1 a2))
    (ih : ∀ {s}, Intact l s → Intact l (below.1 f s x1)) (h : Intact l s) : Intact l (repairGo._f (n + 1) below f s x1) := by
  delta repairGo._f
  dsimp -zeta only
  split
  · exact h
  · split
    · split
      · exact jobGone_intact (tellTo_intact h)
      · split
        · exact h
        · split
          · exact jobGone_intact (tellTo_intact h)
          · split
            · exact repairEnd_intact h hf1
            · extract_lets v next
              split
              · split
                · exact jobFetch_intact h
                · exact ih (modJob_intact h)
                · exact ih (modJob_intact (writeList_intact (bumpSearch_intact h)))
              · split
                · exact jobFetch_intact h
                · exact ih (modJob_intact h)
                · exact ih (modJob_intact (modJob_intact h))
    · exact h

theorem repairGo_intact {n : Nat} {f : State → JobTo → List Byte → State} {x1 : Nat} (hf1 : ∀ t a1 a2, Intact l t → Intact l (f t a1 a2)) (h : Intact l s) :
    Intact l (repairGo n f s x1) := by
  induction n generalizing s with
  | zero => exact h
  | succ n ih =>
    set_option smartUnfolding false in
    exact repairGo_step_intact hf1 ih h

theorem repairPart_intact {dest : JobTo} {xk : Nat} {x : SearchIx} {mask : Nat} (h : Intact l s) : Intact l (repairPart s dest xk x mask) := by
  unfold repairPart
  dsimp only
  split
  · exact tellTo_intact h
  · split
    · exact tellTo_intact h
    · exact putJob_intact h

theorem searchTake_intact {dest : JobTo} {b : List Byte} (h : Intact l s) : Intact l (searchTake s dest b) := by
  unfold searchTake
  dsimp only
  split
  · exact tellTo_intact h
  · split
    · exact tellTo_intact (searchInstall_intact h)
    · split
      · exact tellTo_intact h
      · split
        · exact tellTo_intact (freeIndex_intact h)
        · exact closeIndex_intact (modIndex_intact h)
        · exact tellTo_intact (freeIndex_intact h)
        · exact deletePart_intact h
        · exact repairPart_intact h
        · exact tellTo_intact (modIndex_intact h)
        · exact tellTo_intact h

theorem searchRelayed_intact {r : Relay} (h : Intact l s) : Intact l (searchRelayed s r) := by
  unfold searchRelayed
  dsimp only
  split
  · exact intact_ite (tellTo_intact h) (tellTo_intact (tellEmb_intact h (fun _ _ _ ht => searchTake_intact ht)))
  · exact tellTo_intact h
  · exact tellEmb_intact h (fun _ _ _ ht => searchTake_intact ht)
  · exact tellTo_intact h
  · refine tellTo_intact ?_
    split
    · exact modIndex_intact h
    · exact h
  · exact tellTo_intact h

theorem searchFinish_intact (h : Intact l s) : Intact l (searchFinish s) := intact_foldl (fun _ x ht => closeIndex_intact ht) (tombsDone_intact h)

/-! ### ServeCore: decode attention over KV pages -/

theorem modAttn_intact {i : Nat} {f : AttnCtx → AttnCtx} (h : Intact l s) : Intact l (modAttn s i f) := modFab_intact h
theorem modService_intact {i : Nat} {f : Service → Service} (h : Intact l s) : Intact l (modService s i f) := modFab_intact h

theorem serveNotice_intact {i type node x : Nat} (h : Intact l s) : Intact l (serveNotice s i type node x) := by
  unfold serveNotice
  dsimp only
  split
  · exact h
  · split
    · exact h
    · exact engineSend_intact (modService_intact h)

theorem giveEntry_intact {i x stage notice : Nat} {dest stateVa : Option Nat} (h : Intact l s) : Intact l (giveEntry s i x stage notice dest stateVa)
    := by
  unfold giveEntry
  dsimp only
  split
  · exact h
  · split
    · refine serveNotice_intact ?_
      split
      · exact bump_intact (modService_intact h)
      · exact modService_intact h
    · exact bump_intact (modService_intact h)

theorem unpark_intact {i : Nat} (h : Intact l s) : Intact l (unpark s i) := by
  unfold unpark
  split
  · exact h
  · refine intact_foldl (fun _ _ ht => ?_) h
    split
    · exact ht
    · exact intact_then ht giveEntry_intact

theorem retireEpoch_intact {i : Nat} (h : Intact l s) : Intact l (retireEpoch s i) := by
  unfold retireEpoch
  split
  · exact h
  · split
    · exact intact_ite (complete_intact (modService_intact h)) h
    · exact h

theorem afterOwn_intact {i : Nat} (h : Intact l s) : Intact l (afterOwn s i) := retireEpoch_intact (unpark_intact h)

theorem takeOver_intact {i x : Nat} (h : Intact l s) : Intact l (takeOver s i x) := by
  unfold takeOver
  dsimp only
  split
  · exact h
  · exact intact_ite h (intact_then (bump_intact (giveEntry_intact (modService_intact h))) (fun hs => bump_intact (serveNotice_intact hs)))

theorem serveLost_intact {node : Nat} (h : Intact l s) : Intact l (serveLost s node) :=
  intact_foldl (fun _ _ ht => intact_else ht (fun hs => afterOwn_intact (intact_foldl (fun _ _ hu => takeOver_intact hu) hs))) h

theorem newEpoch_intact {i : Nat} {map : List Byte} {drainMs : Nat} {r : CmdRef} (h : Intact l s) : Intact l (newEpoch s i map drainMs r) := by
  unfold newEpoch
  dsimp only
  split
  · exact h
  · exact afterOwn_intact (modService_intact h)

/-! ### JobCore: engines' work goes on: steps start, stall, resume, commit and are abandoned -/

theorem forwardOn_intact {dest : JobTo} {op : Op} {p : Req} {host : Nat} (h : Intact l s) : Intact l (forwardOn s dest op p host) := by
  unfold forwardOn
  split
  · exact refuse_intact h
  · split
    next e =>
      exact sendRootPart_intact (intact_fst e (putJob_intact h))

theorem attendList_intact {x i : Nat} {x1 : List Byte} (h : Intact l s) : Intact l (attendList s x i x1) := by
  unfold attendList
  dsimp only
  split
  · split
    · exact jobGone_intact (refuse_intact h)
    · exact intact_ite (jobGone_intact (refuse_intact (bump_intact h))) (modJob_intact (bumpFree_intact h))
  · exact jobGone_intact (refuse_intact h)
  · exact h

theorem startAttend_intact {dest : JobTo} {p : Req} (h : Intact l s) : Intact l (startAttend s dest p) := by
  unfold startAttend
  dsimp only
  split
  · exact refuse_intact h
  · split
    · exact intact_ite (refuse_intact h) (intact_ite (forwardOn_intact h) (forwardOn_intact h))
    · split
      · exact refuse_intact h
      · split
        · exact refuse_intact h
        · split
          · exact refuse_intact h
          · split
            · exact refuse_intact h
            · split
              · exact attendList_intact (putJob_intact h)
              · split
                · exact refuse_intact h
                · exact putJob_intact h

theorem closeAttn_intact {i : Nat} (h : Intact l s) : Intact l (closeAttn s i) := by
  unfold closeAttn
  split
  · exact h
  · split
    · exact h
    · exact intact_ite h (completeAll_intact (bumpGen_intact (modFab_intact h)))

/-! ### ServeCore: decode attention over KV pages -/

theorem intact_ite_fst {α : Type} {c : Prop} [Decidable c] {p q : State × α} (hp : Intact l p.1) (hq : Intact l q.1) :
    Intact l (if c then p else q).1 := by
  split
  · exact hp
  · exact hq

theorem ownerCas_intact {i : Nat} {v : Service} {src : Nat} {b : List Byte} (h : Intact l s) : Intact l (ownerCas s i v src b).1 := by
  unfold ownerCas
  extract_lets +onlyGivenNames id w op stage epoch e map fin
  have ends {t : State} {swapped : Bool} (ht : Intact l t) : Intact l (fin t swapped).1 := by
    unfold fin
    split
    · exact ht
    · exact ht
  clear_value map
  cases map with
  | none => exact bump_intact h
  | some m =>
    refine intact_ite_fst h (intact_ite_fst (ends (intact_ite h (bump_intact h))) ?_)
    clear_value op
    rcases op with _ | _ | _ | _
    · exact ends (afterOwn_intact (bump_intact (modService_intact h)))
    · exact ends (afterOwn_intact (intact_then (bump_intact (giveEntry_intact (modService_intact h))) bump_intact))
    · exact ends (afterOwn_intact (modService_intact h))
    · exact ends (afterOwn_intact (modService_intact h))

/-! ### JobCore: engines' work goes on: steps start, stall, resume, commit and are abandoned -/

theorem startOwnerCas_intact {dest : JobTo} {p : Req} (h : Intact l s) : Intact l (startOwnerCas s dest p) := by
  unfold startOwnerCas
  dsimp only
  split
  · exact intact_ite (refuse_intact h) (forwardOn_intact h)
  · split
    · exact refuse_intact h
    · exact intact_ite (refuse_intact h) (intact_ite (refuse_intact h) (intact_ite (refuse_intact (bumpFree_intact h)) (answerTo_intact
        (ownerCas_intact (intact_ite (modService_intact (bumpFree_intact h)) h)))))

theorem abandon_intact {x st : Nat} (h : Intact l s) : Intact l (abandon s x st) := by
  unfold abandon
  dsimp only
  split
  · exact h
  · split
    · exact failRun_intact (modFab_intact (countAbandon_intact h))
    · exact failRun_intact (modFab_intact (countAbandon_intact h))
    · split
      · exact forceClose_intact (modFab_intact (countAbandon_intact h))
      · exact modFab_intact (countAbandon_intact h)
    · exact jobGone_intact (tellTo_intact (countAbandon_intact h))
    · exact jobGone_intact (refuse_intact (countAbandon_intact h))

theorem rereadOr_intact {x st : Nat} (h : Intact l s) : Intact l (rereadOr s x st) := by
  unfold rereadOr
  split
  · exact h
  · exact intact_ite (replay_intact (modJob_intact h)) (abandon_intact h)

theorem malformed_intact {x : Nat} {a : Option Nat} (h : Intact l s) : Intact l (malformed s x a) := rereadOr_intact (modJob_intact h)

theorem runStep_intact {x : Nat} (h : Intact l s) : Intact l (runStep s x) := by
  unfold runStep
  split
  · exact h
  · split
    · exact stall_intact (jobFetch_intact h)
    · exact rereadOr_intact h
    · exact malformed_intact h
    · exact abandon_intact h
    · exact passed_intact h

theorem chooseShadow_intact {x : Nat} (h : Intact l s) : Intact l (chooseShadow s x) := by
  unfold chooseShadow
  dsimp only
  split
  · exact h
  · split
    · exact intact_ite h (modJob_intact (intact_then (intact_ite (bump_intact h) h) bump_intact))
    · exact h

theorem commitLib_intact {x : Nat} {j : Job} {o : JobOut} (h : Intact l s) : Intact l (commitLib s x j o) := by
  unfold commitLib
  dsimp only
  split
  · refine commitChunk_intact ?_
    split
    · refine searchTook_intact (intact_foldl (fun _ _ ht => countStep_intact ht) ?_)
      split
      · exact countStep_intact (countAll_intact h)
      · exact countAll_intact h
    · refine intact_foldl (fun _ _ ht => countStep_intact ht) ?_
      split
      · exact countStep_intact (countAll_intact h)
      · exact countAll_intact h
  · refine jobGone_intact (answerGatherPart_intact ?_)
    split
    · refine searchTook_intact (intact_foldl (fun _ _ ht => countStep_intact ht) ?_)
      split
      · exact countStep_intact (countAll_intact h)
      · exact countAll_intact h
    · refine intact_foldl (fun _ _ ht => countStep_intact ht) ?_
      split
      · exact countStep_intact (countAll_intact h)
      · exact countAll_intact h
  · refine commitScatter_intact ?_
    split
    · refine searchTook_intact (intact_foldl (fun _ _ ht => countStep_intact ht) ?_)
      split
      · exact countStep_intact (countAll_intact h)
      · exact countAll_intact h
    · refine intact_foldl (fun _ _ ht => countStep_intact ht) ?_
      split
      · exact countStep_intact (countAll_intact h)
      · exact countAll_intact h
  · refine issueWrites_intact ?_
    split
    · refine searchTook_intact (intact_foldl (fun _ _ ht => countStep_intact ht) ?_)
      split
      · exact countStep_intact (countAll_intact h)
      · exact countAll_intact h
    · refine intact_foldl (fun _ _ ht => countStep_intact ht) ?_
      split
      · exact countStep_intact (countAll_intact h)
      · exact countAll_intact h
  · split
    · refine jobGone_intact (answerTo_intact ?_)
      split
      · refine searchTook_intact (intact_foldl (fun _ _ ht => countStep_intact ht) ?_)
        split
        · exact countStep_intact (countAll_intact h)
        · exact countAll_intact h
      · refine intact_foldl (fun _ _ ht => countStep_intact ht) ?_
        split
        · exact countStep_intact (countAll_intact h)
        · exact countAll_intact h
    · refine issueWrites_intact ?_
      split
      · refine searchTook_intact (intact_foldl (fun _ _ ht => countStep_intact ht) ?_)
        split
        · exact countStep_intact (countAll_intact h)
        · exact countAll_intact h
      · refine intact_foldl (fun _ _ ht => countStep_intact ht) ?_
        split
        · exact countStep_intact (countAll_intact h)
        · exact countAll_intact h

theorem commitStep_intact {x : Nat} (h : Intact l s) : Intact l (commitStep s x) := by
  unfold commitStep
  split
  · exact h
  · split
    · split
      · exact commitImage_intact h
      · exact commitLib_intact h
    · exact rereadOr_intact h
    · exact malformed_intact h
    · exact abandon_intact h
    · exact stall_intact (jobFetch_intact h)

theorem bankErrors_intact {b : Nat} {banks : List Nat} (h : Intact l s) : Intact l (bankErrors s b banks) :=
  intact_foldl (fun _ _ ht => intact_ite (blockFault_intact (note_intact (bump_intact ht))) (modBlk_intact (note_intact (bump_intact ht)))) h
theorem replayOr_intact {x : Nat} (h : Intact l s) : Intact l (replayOr s x) := intact_ite (abandon_intact h) (replay_intact h)
theorem blockErrors_intact {b : Nat} {bad : List Nat} (h : Intact l s) : Intact l (blockErrors s b bad) :=
  intact_then (bankErrors_intact (cellErrors_intact (wordErrors_intact h))) (fun hs => blockFault_intact (note_intact (bump_intact hs)))

theorem finishStep_intact {x : Nat} {bad : List Nat} (h : Intact l s) : Intact l (finishStep s x bad) := by
  unfold finishStep
  dsimp only
  split
  · exact h
  · split
    · exact commitStep_intact h
    · exact intact_ite (intact_ite (replayOr_intact (clearSuspects_intact h)) (commitStep_intact (clearSuspects_intact h))) (intact_else
        (abandon_intact (blockErrors_intact h)) (fun hs => intact_ite hs (intact_then (intact_then (blockErrors_intact h) modJob_intact)
        replayOr_intact)))

theorem written_intact {x : Nat} {j : Job} (h : Intact l s) : Intact l (written s x j) := by
  unfold written
  dsimp only
  split
  · exact checkRun_intact (modFab_intact h)
  · exact checkRun_intact (modRun_intact (modFab_intact h))
  · exact chunkDone_intact (modFab_intact h)
  · exact gatherGo_intact h
  · split
    · exact jobGone_intact (answerTo_intact h)
    · exact jobGone_intact (refuse_intact h)

theorem commandGo.attnOpen_intact {dest : JobTo} {part : Nat} {d : List Byte} (h : Intact l s) : Intact l (commandGo.attnOpen s dest part d) := by
  unfold commandGo.attnOpen
  dsimp only
  split
  · exact tellTo_intact h
  · split
    · exact tellTo_intact h
    · split
      · exact tellTo_intact h
      · split
        · exact tellTo_intact h
        · split
          · exact tellTo_intact h
          · exact tellTo_intact (modFab_intact (bumpFree_intact (intact_with h)))

theorem commandGo.serveCreate_intact {dest : JobTo} {part slots lease : Nat} {m : List Byte} (h : Intact l s) : Intact l (commandGo.serveCreate s dest
    part slots lease m) := by
  unfold commandGo.serveCreate
  dsimp only
  split
  · exact tellTo_intact h
  · split
    · exact tellTo_intact h
    · split
      · exact tellTo_intact h
      · split
        · exact tellTo_intact h
        · exact tellTo_intact (modFab_intact (bumpFree_intact (intact_with h)))

theorem commandGo.serveSetMap_intact {dest : JobTo} {c : Cmd} {m : List Byte} (h : Intact l s) : Intact l (commandGo.serveSetMap s dest c m) := by
  unfold commandGo.serveSetMap
  dsimp only
  split
  · exact tellTo_intact h
  · exact intact_ite (tellTo_intact h) (intact_ite (tellTo_intact h) (intact_ite (tellTo_intact h) (newEpoch_intact h)))

theorem jobGo.readPages_intact {x i : Nat} {j : Job} (h : Intact l s) : Intact l (jobGo.readPages s x i j) := by
  unfold jobGo.readPages
  dsimp only
  split
  · exact jobFetch_intact h
  · exact attendList_intact h
  · exact abandon_intact h
  · exact abandon_intact h
  · exact abandon_intact h

theorem commandGo_intact {x : Nat} {j : Job} {g v : Nat} {c : Cmd} (h : Intact l s) : Intact l (commandGo s x j g v c) := by
  unfold commandGo
  dsimp only
  split
  · exact jobFetch_intact (modJob_intact h)
  · exact jobGone_intact (tellTo_intact h)
  · exact jobGone_intact (tellTo_intact h)
  · exact jobGone_intact (tellTo_intact h)
  · split
    · exact collOpen_intact (jobGone_intact h)
    · exact embCreate_intact (jobGone_intact h)
    · exact searchCreate_intact (jobGone_intact h) (fun _ _ _ ht => searchTake_intact ht)
    · exact commandGo.attnOpen_intact (jobGone_intact h)
    · exact commandGo.serveCreate_intact (jobGone_intact h)
    · exact commandGo.serveSetMap_intact (jobGone_intact h)

theorem readGot_intact {tag job pool len : Nat} {r : Resp} (h : Intact l s) : Intact l (readGot s tag job pool len r) :=
  intact_then (modJob_intact h) modFab_intact

theorem partSeg_intact {x ix : Nat} {r : Resp} (h : Intact l s) : Intact l (partSeg s x ix r) := by
  unfold partSeg
  dsimp only
  split
  · exact h
  · split
    · exact h
    · split
      · split
        · exact intact_then (respondHere_intact (modJob_intact h)) (fun hs => jobGone_intact (requestGone_intact hs))
        · exact jobGone_intact h
      · split
        · exact modJob_intact h
        · split
          · exact modJob_intact h
          · exact modJob_intact h
      · exact intact_ite (searchRetry_intact h) (modJob_intact h)
      · exact modJob_intact h

theorem partAnswer_intact {out : Nat} {r : Resp} (h : Intact l s) : OptIntact l (partAnswer s out r) := by
  unfold partAnswer
  split
  · exact optIntact_none
  · exact optIntact_map fun _ => partSeg_intact h

theorem lateSearch_intact {r : Resp} (h : Intact l s) : OptIntact l (lateSearch s r) := optIntact_map fun x => modIndex_intact (bumpSearch_intact h)

theorem fabAnswered_intact {r : Resp} (h : Intact l s) : OptIntact l (fabAnswered s r) := by
  unfold fabAnswered
  dsimp only
  split
  · exact lateSearch_intact h
  · refine optIntact_some ?_
    split
    · exact readGot_intact h
    · exact modFab_intact (modJob_intact h)
    · exact relayGot_intact (modFab_intact (modFab_intact h))
    · split
      · exact intact_getD (lateSearch_intact (modFab_intact h)) (modFab_intact h)
      · exact intact_then (partSeg_intact h) modFab_intact
    · exact modFab_intact h
    · exact collAnswered_intact (modFab_intact h)

theorem relaysGo_intact (h : Intact l s) : Intact l (relaysGo s) := by
  unfold relaysGo
  dsimp only
  split
  · exact h
  · split
    · exact collRelayed_intact (modFab_intact h)
    · exact embRelayed_intact (modFab_intact h)
    · exact searchRelayed_intact (modFab_intact h)

theorem jobGo_intact {x : Nat} (h : Intact l s) : Intact l (jobGo s x) := by
  unfold jobGo
  dsimp only
  split
  · exact h
  · refine intact_ite ?_ (intact_ite h ?_)
    · split
      · exact intact_ite (failRun_intact h) (intact_ite (written_intact h) h)
      · exact intact_ite (failRun_intact h) (intact_ite (written_intact h) h)
      · exact jobGone_intact h
    · split
      · split
        · exact gatherGo_intact h
        · exact scatterGo_intact h
        · exact rowGo_intact h
        · exact rowsGo_intact h
        · exact repairGo_intact (fun _ _ _ ht => searchTake_intact ht) h
        · exact abandon_intact h
      · refine intact_ite (written_intact h) ?_
        split
        · exact gatherGo_intact h
        · exact scatterGo_intact h
        · exact rowGo_intact h
        · exact rowsGo_intact h
        · exact repairGo_intact (fun _ _ _ ht => searchTake_intact ht) h
        · exact searchGo_intact h
        · exact commandGo_intact h
        · exact intact_ite (takeShadow_intact h) (jobGo.readPages_intact h)
        · exact takeShadow_intact h

theorem engineFinish_intact (h : Intact l s) : Intact l (engineFinish s) :=
  intact_ite h (fillShort_intact (intact_foldl (fun _ _ ht => unloadGo_intact ht) (restall_intact (intact_foldl (fun _ _ ht => closeAttn_intact ht)
    (searchFinish_intact (embFinish_intact (collFinish_intact (intact_foldl (fun _ _ ht => relaysGo_intact ht) (intact_foldl (fun _ _ ht =>
    jobGo_intact ht) h)))))))))

theorem pushShare_intact {o : Origin} {op : Op} {p : Req} {port : Nat} (h : Intact l s) : Intact l (pushShare s o op p port) :=
  modPkt_intact (pushVoq_intact h)

theorem toRegion_intact {o : Origin} {op : Op} {p : Req} (h : Intact l s) : Intact l (toRegion s o op p) := by
  unfold toRegion
  dsimp only
  split
  · exact h
  · exact pushShare_intact h
  · exact modFab_intact (intact_foldl_fst (fun _ _ hp1 => pushShare_intact hp1) h)

theorem engineStart_intact {o : Origin} {port : Nat} {op : Op} {p : Req} (h : Intact l s) : Intact l (engineStart s o port op p) := by
  unfold engineStart
  dsimp only
  split
  · exact startRun_intact h
  · exact startFilter_intact h
  · exact startGather_intact h
  · exact startScatter_intact h
  · exact startSearch_intact h
  · exact startAttend_intact h
  · exact startOwnerCas_intact h
  · exact startContrib_intact h
  · exact startPartial_intact h
  · exact refuse_intact h

theorem startLanded_intact (h : Intact l s) : Intact l (startLanded s) :=
  intact_foldl (fun _ _ ht => intact_getD (fabAnswered_intact ht) ht) (intact_foldl (fun _ _ ht => engineStart_intact ht) (intact_with h))
theorem nodeLost_intact {node : Nat} (h : Intact l s) : Intact l (nodeLost s node) :=
  serveLost_intact (searchLost_intact (collLost_intact (intact_foldl (fun _ _ ht => relayGot_intact (modFab_intact ht)) h)))
theorem bankCompute_intact (h : Intact l s) : Intact l (bankCompute s) := modFab_intact h
theorem pilotCompute_intact (h : Intact l s) : Intact l (pilotCompute s) := modFab_intact h

theorem dropInst_intact {i : Nat} (h : Intact l s) : Intact l (dropInst s i) := by
  unfold dropInst
  dsimp only
  split
  · exact h
  · refine finishUnload_intact (modInst_intact ?_)
    split
    · exact complete_intact (intact_foldl (fun _ _ ht => jobGone_intact (intact_else ht refuse_intact)) (intact_foldl (fun _ _ ht => holdEnd_intact
        (refuse_intact ht)) h))
    · exact intact_foldl (fun _ _ ht => jobGone_intact (intact_else ht refuse_intact)) (intact_foldl (fun _ _ ht => holdEnd_intact (refuse_intact ht))
        h)

theorem dropService_intact {i : Nat} (h : Intact l s) : Intact l (dropService s i) := by
  unfold dropService
  dsimp only
  split
  · exact h
  · refine bumpGen_intact (intact_with ?_)
    split
    · exact complete_intact h
    · exact h

theorem dropCompute_intact {n : Nat} (h : Intact l s) : Intact l (dropCompute s n) := by
  unfold dropCompute
  dsimp only
  refine modFab_intact (intact_foldl (fun _ _ ht => jobGone_intact ?_) (intact_foldl (fun _ _ ht => intact_then ht dropInst_intact) (intact_foldl (fun
      _ _ ht => intact_then ht dropService_intact) (intact_foldl (fun _ _ ht => intact_else ht (fun hs => closeAttn_intact (modAttn_intact
      (intact_foldl (fun _ _ hu => jobGone_intact (refuse_intact hu)) hs)))) (intact_foldl (fun _ x ht => intact_then ht freeIndex_intact)
      (intact_foldl (fun _ _ ht => intact_then ht freeTable_intact) (intact_foldl (fun _ _ ht => intact_then ht forceClose_intact) h)))))))
  split
  · exact tellTo_intact ht
  · exact refuse_intact ht

theorem fenceCompute_intact {r : Nat} (h : Intact l s) : Intact l (fenceCompute s r) := by
  unfold fenceCompute
  dsimp only
  exact modFab_intact (intact_with (collFence_intact (intact_foldl (fun _ _ ht => vacate_intact ht) h)))

theorem wickCompute_intact {node : Nat} {p : Req} {d : List Byte} (h : Intact l s) : Intact l (wickCompute s node p d) := by
  unfold wickCompute
  dsimp only
  split
  next e =>
    exact answer_intact (intact_fst e (parcelGot_intact h))
  next e =>
    split
    · exact collTake_intact (intact_fst e (parcelGot_intact h))
    · exact embTake_intact (intact_fst e (parcelGot_intact h))
    · exact searchTake_intact (intact_fst e (parcelGot_intact h))
    · exact tellTo_intact (intact_fst e (parcelGot_intact h))

/-! ### ShapeCore: egress shapers and time gates -/

theorem debit_intact {x tc flits : Nat} {pkt : Packet} (h : Intact l s) : Intact l (debit s x tc flits pkt) := by
  unfold debit
  dsimp only
  split
  · exact intact_then (intact_else (intact_ite (intact_with h) h) intact_with) intact_with
  · exact intact_then (intact_ite (intact_with h) h) intact_with

theorem l1Fill_intact {x : Nat} (h : Intact l s) : Intact l (l1Fill s x) := intact_with h

/-! ### TxCore: the transmitter of a logical port: data codewords and their numbers, secure frames, tunnel frames, credit and replay -/

theorem modLink_intact {n : Nat} {f : Link → Link} (h : Intact l s) : Intact l (modLink s n f) := modLport_intact h
theorem takeSlot_intact {n : Nat} (h : Intact l s) : Intact l (takeSlot s n) := modLport_intact h

theorem sendOne_intact {n : Nat} (h : Intact l s) : Intact l (sendOne s n) := by
  unfold sendOne
  dsimp only
  split
  · exact modLport_intact (intact_foldl (fun _ _ ht => emit_intact ht) (takeSlot_intact h))
  · exact emit_intact (modLport_intact (intact_foldl (fun _ _ ht => emit_intact ht) (takeSlot_intact h)))

theorem pumpN_intact {n x : Nat} (h : Intact l s) : Intact l (pumpN n x s) := by
  induction x generalizing n s with
  | zero =>
    unfold pumpN
    exact h
  | succ n ih =>
    unfold pumpN
    dsimp only
    exact intact_ite h (ih (sendOne_intact h))

theorem pump_intact {n : Nat} (h : Intact l s) : Intact l (pump s n) := pumpN_intact h
theorem noteBi_intact {x : Nat} {inv : Bool} {p : Req} (h : Intact l s) : Intact l (noteBi s x inv p) := intact_with h

theorem bridgeResp_intact {bridge : Nat} {r : Resp} (h : Intact l s) : Intact l (bridgeResp s bridge r) := by
  unfold bridgeResp
  dsimp only
  split
  · exact h
  · exact intact_ite (intact_with h) (intact_ite (emit_intact (intact_then (intact_with h) emit_intact)) (intact_else (intact_then (intact_with h)
      emit_intact) emit_intact))

theorem bridgeSnoop_intact {x : Nat} {inv : Bool} {p : Req} (h : Intact l s) : Intact l (bridgeSnoop s x inv p) := by
  unfold bridgeSnoop
  dsimp only
  split
  · exact emit_intact (noteBi_intact h)
  · exact noteBi_intact h

theorem landShare_intact {x : Nat} {o : Origin} {op : Op} {p : Req} {port : Nat} (h : Intact l s) : Intact l (landShare s x o op p port) := by
  unfold landShare
  dsimp only
  split
  · exact intact_with h
  · exact intact_ite (intact_with h) (intact_with h)

theorem deliver_intact {x : Nat} {q : QPkt} (h : Intact l s) : Intact l (deliver s x q) := by
  unfold deliver
  dsimp only
  split
  · exact pump_intact (modLink_intact h)
  · split
    · split
      · exact bridgeSnoop_intact h
      · exact bridgeSnoop_intact h
      · exact h
      · exact bridgeResp_intact h
    · split
      · exact landShare_intact h
      · split
        · exact intact_with h
        · exact h

theorem replayFrom_intact {n seq : Nat} (h : Intact l s) : Intact l (replayFrom s n seq) := by
  unfold replayFrom
  dsimp only
  exact modLink_intact (emit_intact (emit_intact (bump_intact h)))

theorem ackTo_intact {n seq : Nat} (h : Intact l s) : Intact l (ackTo s n seq) := modLink_intact h

theorem sendStatus_intact {n : Nat} (h : Intact l s) : Intact l (sendStatus s n) := by
  unfold sendStatus
  dsimp only
  exact modLink_intact (emit_intact h)

/-! ### SchedCore: the switch core: virtual output queues, attachments, the central scheduler's matching, admission to the shared area, and discards -/

theorem takePkt_intact {q : QPkt} (h : Intact l s) : Intact l (takePkt s q) := returnCredit_intact (markBusy_intact (intact_with h))
theorem discardPkt_intact {q : QPkt} {reason : Nat} (h : Intact l s) : Intact l (discardPkt s q reason) :=
  intact_foldl (fun _ _ ht => discardReport_intact ht) (takePkt_intact h)

theorem movePtrs_intact {new : List (Nat × List Nat)} (h : Intact l s) : Intact l (movePtrs s new) := by
  unfold movePtrs
  dsimp only
  refine intact_foldl (fun _ _ ht => ?_) h
  split
  · exact ht
  · exact intact_foldl (fun _ _ ht1 => intact_with ht1) ht

theorem matchAll_intact (h : Intact l s) : Intact l (matchAll s).1 := movePtrs_intact h

theorem waited_intact {q : QPkt} (h : Intact l s) : Intact l (waited s q) := by
  unfold waited
  dsimp only
  split
  · refine bumpBy_intact ?_
    split
    · exact bumpBy_intact h
    · exact h
  · split
    · exact bumpBy_intact h
    · exact h

theorem startPkt_intact {q : QPkt} {es : List Nat} (h : Intact l s) : Intact l (startPkt s q es) :=
  modPkt_intact (intact_foldl (fun _ _ ht => intact_ite (capture_intact (modLink_intact (debit_intact (intact_then ht bump_intact)))) (capture_intact
    (debit_intact (intact_then ht bump_intact)))) (waited_intact h))

theorem crossed_intact {q : QPkt} (h : Intact l s) : Intact l (crossed s q) := by
  unfold crossed
  dsimp only
  refine intact_foldl (fun _ _ ht => deliver_intact ht) ?_
  split
  · exact takePkt_intact h
  · exact modPkt_intact h

theorem moveCell_intact {x x1 x2 : Nat} (h : Intact l s) : Intact l (moveCell x s x1 x2) := by
  induction x generalizing s x1 x2 with
  | zero =>
    unfold moveCell
    exact h
  | succ n ih =>
    unfold moveCell
    dsimp only
    split
    · exact h
    · split
      · exact modPkt_intact h
      · split
        · exact crossed_intact h
        · split
          · exact intact_then (crossed_intact h) (fun hs => ih (startPkt_intact hs))
          · exact crossed_intact h

theorem noteWaits_intact (h : Intact l s) : Intact l (noteWaits s) := intact_foldl (fun _ _ ht => intact_else ht modPkt_intact) h
theorem nextCell_intact (h : Intact l s) : Intact l (nextCell s) := intact_with (untilTime_intact h)

theorem cellTime_intact (h : Intact l s) : Intact l (cellTime s) := by
  unfold cellTime
  dsimp only
  refine intact_foldl (fun _ _ ht => moveCell_intact ht) (intact_foldl (fun _ _ ht => ?_) (matchAll_intact (noteWaits_intact h)))
  split
  · exact startPkt_intact ht
  · exact ht

theorem admitPkt_intact {x : Nat} (h : Intact l s) : Intact l (admitPkt s x) := by
  unfold admitPkt
  dsimp only
  split
  · exact h
  · exact intact_ite h (intact_with (returnCredit_intact h))

theorem aloneFor_intact {q : QPkt} {x : Nat} (h : Intact l s) : Intact l (aloneFor s q x).1 := by
  unfold aloneFor
  dsimp only
  split
  · exact h
  · exact intact_with (modPkt_intact h)

theorem toEscape_intact {q : QPkt} (h : Intact l s) : OptIntact l (toEscape s q) := by
  unfold toEscape
  split
  · exact optIntact_none
  · exact optIntact_map fun _ => modPkt_intact h

/-! ### TimeCore: the keeping of fabric time -/

theorem modTk_intact {f : TimeKeep → TimeKeep} (h : Intact l s) : Intact l (modTk s f) := intact_with h
theorem reportLost_intact (h : Intact l s) : Intact l (reportLost s) := report_intact h

theorem timeLost_intact (h : Intact l s) : Intact l (timeLost s) := by
  unfold timeLost
  dsimp only
  split
  · exact h
  · split
    · exact bump_intact (modTk_intact h)
    · exact reportLost_intact (modTk_intact h)

theorem timePortLost_intact {n : Nat} (h : Intact l s) : Intact l (timePortLost s n) := intact_ite (timeLost_intact h) h
theorem correct_intact {offset : ℤ} {step : Bool} (h : Intact l s) : Intact l (correct s offset step) :=
  intact_ite (bump_intact (intact_with h)) (modTk_intact h)
theorem rootLock_intact (h : Intact l s) : Intact l (rootLock s) := intact_ite (note_intact (modTk_intact h)) h

theorem tookOffset_intact {offset : ℤ} {up : Bool} {depth : Nat} (h : Intact l s) : Intact l (tookOffset s offset up depth) := by
  unfold tookOffset
  dsimp only
  split
  · exact intact_then (modTk_intact h) (fun hs => modTk_intact (correct_intact hs))
  · exact intact_ite (timeLost_intact (modTk_intact h)) (intact_ite (note_intact (modTk_intact (modTk_intact (modTk_intact h)))) (correct_intact
      (modTk_intact (modTk_intact h))))
  · exact intact_ite (timeLost_intact (modTk_intact h)) (intact_then (correct_intact (modTk_intact (modTk_intact h))) (fun hs => reportLost_intact
      (modTk_intact hs)))
  · exact intact_then (modTk_intact h) (fun hs => modTk_intact (correct_intact hs))

theorem timeFollow_intact {n tTx seqTx seqRx st depth tRx : Nat} (h : Intact l s) : Intact l (timeFollow s n tTx seqTx seqRx st depth tRx) := by
  unfold timeFollow
  dsimp only
  split
  · exact modTk_intact h
  · split
    · exact intact_then (modTk_intact h) (fun hs => bump_intact (modTk_intact hs))
    · split
      · exact intact_ite (tookOffset_intact (modTk_intact h)) (intact_else (modTk_intact h) timeLost_intact)
      · exact intact_else (modTk_intact h) timeLost_intact

theorem syncSent_intact {n : Nat} (h : Intact l s) : Intact l (syncSent s n) := by
  unfold syncSent
  dsimp only
  exact modTk_intact h

theorem syncGot_intact {n seq : Nat} (h : Intact l s) : Intact l (syncGot s n seq) := modTk_intact h

/-! ### LamCore: Lamplighter: meeting neighbours, withdrawing and restoring routes -/

theorem clearHops_intact {lport : Nat} {which : Nat → Bool} (h : Intact l s) : Intact l (clearHops s lport which).1 := intact_with h
theorem spread_intact {code : Nat} {reset : Bool} {dsts : List Nat} {but : Nat} (h : Intact l s) : Intact l (spread s code reset dsts but) :=
  intact_foldl (fun _ _ ht => intact_foldl (fun _ _ hu => sendLink_intact hu) ht) h
theorem requestsLost_intact {gone : Nat → Bool} (h : Intact l s) : Intact l (requestsLost s gone) :=
  intact_foldl (fun _ _ ht => markUnanswered_intact ht) h
theorem enginesLost_intact {gone : List Nat} (h : Intact l s) : Intact l (enginesLost s gone) :=
  intact_foldl (fun _ _ ht => markUnanswered_intact ht) (intact_foldl (fun _ _ ht => nodeLost_intact ht) h)

theorem withdraw_intact {lport : Nat} (h : Intact l s) : Intact l (withdraw s lport) := by
  unfold withdraw
  dsimp only
  exact intact_ite h (enginesLost_intact (requestsLost_intact (intact_else (report_intact (clearHops_intact h)) spread_intact)))

theorem withdrawFrom_intact {lport : Nat} {dsts : List (Nat × Nat)} (h : Intact l s) : Intact l (withdrawFrom s lport dsts).1 := by
  unfold withdrawFrom
  dsimp only
  split
  · exact h
  · exact enginesLost_intact (requestsLost_intact (clearHops_intact h))

theorem restoreHops_intact {lport : Nat} {which : Nat → Bool} (h : Intact l s) : Intact l (restoreHops s lport which).1 := intact_with h
theorem resendHello_intact {n : Nat} (h : Intact l s) : Intact l (resendHello s n) := sendLink_intact h
theorem sendHello_intact {n : Nat} (h : Intact l s) : Intact l (sendHello s n) := sendLink_intact (modLport_intact (bumpFree_intact h))
theorem helloAgain_intact (h : Intact l s) : Intact l (helloAgain s) :=
  intact_foldl (fun _ _ ht => intact_ite (sendHello_intact ht) (resendHello_intact ht)) h
theorem discGone_intact {n : Nat} (h : Intact l s) : Intact l (discGone s n) := withdraw_intact (modLport_intact (report_intact h))
theorem setLink_intact {n : Nat} {st : LinkState} (h : Intact l s) : Intact l (setLink s n st) := modLport_intact h

theorem reroute_intact {q : QPkt} (h : Intact l s) : Intact l (reroute s q) := by
  unfold reroute
  split
  next e =>
    exact bump_intact (toEscape_intact h _ e)
  · exact bump_intact (discardPkt_intact h)

theorem dropLink_intact {n : Nat} (h : Intact l s) : Intact l (dropLink s n) := by
  unfold dropLink
  dsimp only
  refine intact_foldl (fun _ _ ht => ?_) (intact_foldl (fun _ _ ht => ?_) (intact_foldl (fun _ _ ht => discardReport_intact (bumpFree_intact
      (bump_intact ht))) (intact_foldl (fun _ _ ht => discardPkt_intact (bumpFree_intact ht)) (intact_with (modLport_intact h)))))
  · split
    · exact reroute_intact (pushVoq_intact ht)
    · exact pushVoq_intact ht
  · split
    · split
      · exact reroute_intact (aloneFor_intact ht)
      · exact ht
    · exact ht

theorem retrainEnds_intact {n status : Nat} (h : Intact l s) : Intact l (retrainEnds s n status) := completeAll_intact (modLport_intact h)

theorem leaveUp_intact {x x1 : Nat} {x2 : LinkState} (h : Intact l s) : Intact l (leaveUp x s x1 x2) := by
  induction x generalizing s x1 x2 with
  | zero =>
    unfold leaveUp
    exact setLink_intact h
  | succ n ih =>
    unfold leaveUp
    dsimp only
    split
    · exact ih (bump_intact (discardPkt_intact (bumpFree_intact (retrainEnds_intact (intact_then (intact_ite (dropLink_intact (modLport_intact
        (setLink_intact h))) (modLink_intact (modLport_intact (setLink_intact h)))) (fun hs => timePortLost_intact (discGone_intact hs)))))))
    · exact retrainEnds_intact (intact_then (intact_ite (dropLink_intact (modLport_intact (setLink_intact h))) (modLink_intact (modLport_intact
        (setLink_intact h)))) (fun hs => timePortLost_intact (discGone_intact hs)))

theorem goDown_intact {n : Nat} (h : Intact l s) : Intact l (goDown s n) := leaveUp_intact h
theorem partnerLost_intact {n : Nat} (h : Intact l s) : Intact l (partnerLost s n) := goDown_intact (penal_intact (bump_intact h))

/-! ### LinkCore: training, lanes, the receiver and violations of a logical port -/

theorem quarantine_intact {n : Nat} (h : Intact l s) : Intact l (quarantine s n) :=
  report_intact (modLport_intact (leaveUp_intact (penal_intact (bump_intact h))))
theorem quarOne_intact {n : Nat} (h : Intact l s) : Intact l (quarOne s n) := intact_ite (quarantine_intact h) h
theorem checkQuar_intact {_lport : Nat} (h : Intact l s) : Intact l (checkQuar s _lport) := intact_foldl (fun _ _ ht => quarOne_intact ht) h
theorem haltSwitch_intact {cause : Nat} (h : Intact l s) : Intact l (haltSwitch s cause) :=
  intact_ite h (report_intact (healthLog_intact (bridgesDown_intact (intact_with (intact_foldl (fun _ _ ht => leaveUp_intact ht) h)))))
theorem toRetrain_intact {n : Nat} (h : Intact l s) : Intact l (toRetrain s n) := intact_ite (penal_intact (bump_intact (setLink_intact h))) h
theorem markLanes_intact {p : Nat} {lanes : List Nat} {bad : Bool} (h : Intact l s) : Intact l (markLanes s p lanes bad) := setField_intact h

theorem degrade_intact {n : Nat} (h : Intact l s) : OptIntact l (degrade s n) := by
  unfold degrade
  dsimp only
  split
  · exact optIntact_none
  · exact optIntact_map fun _ => report_intact (penal_intact (bump_intact (modLport_intact h)))

theorem failLanes_intact {n : Nat} {lanes : List Nat} (h : Intact l s) : Intact l (failLanes s n lanes) := by
  unfold failLanes
  dsimp only
  split
  next e =>
    exact intact_ite (toRetrain_intact (degrade_intact (markLanes_intact h) _ e)) (setLink_intact (degrade_intact (markLanes_intact h) _ e))
  · exact goDown_intact (markLanes_intact h)

theorem sendCredit_intact {n : Nat} (h : Intact l s) : Intact l (sendCredit s n) :=
  intact_ite (emit_intact (emit_intact (modLink_intact h))) (bump_intact h)
theorem sendTrainId_intact {n : Nat} (h : Intact l s) : Intact l (sendTrainId s n) := emit_intact h
theorem toIdentify_intact {n : Nat} (h : Intact l s) : Intact l (toIdentify s n) := sendTrainId_intact (setLink_intact h)
theorem ratchet_intact {n : Nat} (h : Intact l s) : Intact l (ratchet s n) := modLport_intact h
theorem enterActive_intact {n : Nat} (h : Intact l s) : Intact l (enterActive s n) :=
  sendHello_intact (modLport_intact (note_intact (ratchet_intact (startHealth_intact (l1Fill_intact (setLink_intact (modLink_intact h)))))))
theorem tryActive_intact {n : Nat} (h : Intact l s) : Intact l (tryActive s n) := intact_ite (enterActive_intact h) h
theorem linkViolation_intact {n row : Nat} {head : List Byte} (h : Intact l s) : Intact l (linkViolation s n row head) := violate_intact h
theorem linkDropped_intact {n row : Nat} {head : List Byte} (h : Intact l s) : Intact l (linkDropped s n row head) :=
  linkViolation_intact (bump_intact h)

theorem trainId_intact {n version role lanes : Nat} {marked degradeOk : Bool} (h : Intact l s) : Intact l (trainId s n version role lanes marked
    degradeOk) := by
  unfold trainId
  dsimp only
  split
  · exact linkDropped_intact h
  · exact modLport_intact h
  · exact intact_ite (sendCredit_intact (setLink_intact (setField_intact (modLink_intact (modLport_intact h))))) (note_intact (goDown_intact h))
  · exact h

theorem trainCredit_intact {n : Nat} {adv : List Nat} (h : Intact l s) : Intact l (trainCredit s n adv) := by
  unfold trainCredit
  split
  · exact linkDropped_intact h
  · exact tryActive_intact (modLink_intact h)
  · exact h

theorem trainDone_intact {n : Nat} (h : Intact l s) : Intact l (trainDone s n) := by
  unfold trainDone
  split
  · exact linkDropped_intact h
  · exact tryActive_intact (modLink_intact h)
  · exact h

theorem retrainDone_intact {n : Nat} {good : List Nat} (h : Intact l s) : Intact l (retrainDone s n good) :=
  pump_intact (retrainEnds_intact (modLink_intact (intact_else (emit_intact (setLink_intact (intact_ite (markLanes_intact (modLport_intact h)) h)))
    emit_intact)))

theorem tryLowPower_intact {n : Nat} (h : Intact l s) : Intact l (tryLowPower s n) := intact_ite (modLink_intact (setLink_intact h)) h
theorem replayOrRetrain_intact {n seq : Nat} (h : Intact l s) : Intact l (replayOrRetrain s n seq) :=
  intact_then (replayFrom_intact h) (fun hs => toRetrain_intact (modLink_intact hs))
theorem gotNak_intact {n seq : Nat} (h : Intact l s) : Intact l (gotNak s n seq) :=
  intact_ite (replayOrRetrain_intact h) (toRetrain_intact (linkViolation_intact h))
theorem gotStatus_intact {n ack : Nat} {valid : Bool} {credits : List Nat} (h : Intact l s) : Intact l (gotStatus s n ack valid credits) :=
  intact_ite (toRetrain_intact (linkViolation_intact h)) (tryLowPower_intact (pump_intact (intact_then (modLink_intact h) ackTo_intact)))
theorem gotReplay_intact {n seq : Nat} (h : Intact l s) : Intact l (gotReplay s n seq) :=
  intact_ite (modLink_intact h) (toRetrain_intact (linkViolation_intact h))
theorem sendNak_intact {n seq : Nat} (h : Intact l s) : Intact l (sendNak s n seq) := modLink_intact (emit_intact (bump_intact h))
theorem packetFlit_intact {n vc : Nat} {first last : Bool} {size : Nat} {head : List Byte} (h : Intact l s) : Intact l (packetFlit s n vc first last
    size head) := intact_then (modLink_intact (intact_ite (linkDropped_intact h) h)) intact_with

theorem takeFlits_intact {n x x1 : Nat} {x2 : List Flit} (h : Intact l s) : Intact l (takeFlits n x x1 s x2) := by
  induction x2 generalizing n x x1 s with
  | nil =>
    unfold takeFlits
    exact h
  | cons y ys ih =>
    unfold takeFlits
    dsimp only
    refine ih ?_
    split
    · exact modLink_intact (packetFlit_intact h)
    · exact intact_ite h (linkDropped_intact h)
    · exact h

theorem codeword_intact {n : Nat} {good : Bool} {corrected : Nat} {flits : List Flit} (h : Intact l s) : Intact l (codeword s n good corrected flits)
    := by
  unfold codeword
  dsimp only
  split
  · exact intact_else (penalCodeword_intact (note_intact (bump_intact h))) sendNak_intact
  · split
    · refine intact_foldl (fun _ _ ht => ?_) (intact_else (bumpBy_intact h) note_intact)
      split
      · exact linkDropped_intact ht
      · exact ht
    · split
      · refine modLink_intact (intact_foldl (fun _ _ ht => ?_) (intact_else (bumpBy_intact h) note_intact))
        split
        · exact linkDropped_intact ht
        · exact ht
      · split
        · split
          · refine sendStatus_intact (takeFlits_intact (modLink_intact (modLink_intact (intact_foldl (fun _ _ ht => ?_) (bumpBy_intact h)))))
            split
            · exact linkDropped_intact ht
            · exact ht
          · refine takeFlits_intact (modLink_intact (modLink_intact (intact_foldl (fun _ _ ht => ?_) (bumpBy_intact h))))
            split
            · exact linkDropped_intact ht
            · exact ht
        · split
          · refine sendStatus_intact (takeFlits_intact (modLink_intact (modLink_intact (intact_foldl (fun _ _ ht => ?_) (note_intact (bumpBy_intact
              h))))))
            split
            · exact linkDropped_intact ht
            · exact ht
          · refine takeFlits_intact (modLink_intact (modLink_intact (intact_foldl (fun _ _ ht => ?_) (note_intact (bumpBy_intact h)))))
            split
            · exact linkDropped_intact ht
            · exact ht

theorem secureFrame_intact {n slot ctr : Nat} {data : List Byte} {tag : BitVec 128} (h : Intact l s) : Intact l (secureFrame s n slot ctr data tag) :=
    by
  unfold secureFrame
  dsimp only
  exact intact_ite (linkDropped_intact h) (intact_ite (pump_intact (modLport_intact h)) (intact_then (sendNak_intact (modLport_intact (penal_intact
      (bump_intact h)))) (fun hs => report_intact (toRetrain_intact hs))))

/-! ### PowerCore: the power ladder, regions, frequencies and thermal limits -/

theorem modPower_intact {f : Power → Power} (h : Intact l s) : Intact l (modPower s f) := intact_with h

theorem modRegionPow_intact {r : Nat} {f : Region → Region} (h : Intact l s) : Intact l (modRegionPow s r f) := by
  unfold modRegionPow
  dsimp only
  exact modPower_intact (intact_ite h (keepSample_intact h))

theorem capFreq_intact {r : Nat} (h : Intact l s) : Intact l (capFreq s r) := modRegionPow_intact h
theorem timeHolds_intact (h : Intact l s) : Intact l (timeHolds s) := intact_ite h (modTk_intact h)
theorem timeAgain_intact (h : Intact l s) : Intact l (timeAgain s) := intact_ite h (rootLock_intact (modTk_intact h))

theorem followRegions_intact (h : Intact l s) : Intact l (followRegions s) := by
  unfold followRegions
  dsimp only
  split
  · exact intact_ite h (bump_intact (modPower_intact h))
  · exact intact_ite (modPower_intact h) h
  · exact h

theorem trimRegion_intact {r : Nat} {f : Region → Region} (h : Intact l s) : Intact l (trimRegion s r f) :=
  followRegions_intact (modRegionPow_intact h)

theorem unhood_intact (h : Intact l s) : Intact l (unhood s) := by
  unfold unhood
  dsimp only
  split
  · exact h
  · exact markBusy_intact (modPower_intact (intact_foldl (fun _ _ ht => modLink_intact ht) (intact_foldl (fun _ _ ht => intact_then ht (fun hs =>
      pump_intact (modLink_intact (setLink_intact hs)))) h)))

theorem wakeChip_intact (h : Intact l s) : Intact l (wakeChip s) :=
  intact_ite (unhood_intact (bump_intact h)) (intact_ite (timeAgain_intact (markBusy_intact (modPower_intact h))) (markBusy_intact h))
theorem wakeRegion_intact {r : Nat} (h : Intact l s) : Intact l (wakeRegion s r) :=
  intact_then (wakeChip_intact h) (fun hs => capFreq_intact (followRegions_intact (modRegionPow_intact hs)))

theorem askHood_intact (h : Intact l s) : Intact l (askHood s) := by
  unfold askHood
  dsimp only
  exact modPower_intact (intact_foldl (fun _ _ ht => emit_intact (modLink_intact ht)) h)

theorem askedDone_intact (h : Intact l s) : Intact l (askedDone s) := by
  unfold askedDone
  split
  · exact complete_intact (modPower_intact h)
  · exact h

theorem hoodCheck_intact (h : Intact l s) : Intact l (hoodCheck s) := by
  unfold hoodCheck
  dsimp only
  split
  · exact h
  · exact intact_ite (intact_then (timeHolds_intact (bump_intact (modPower_intact h))) askedDone_intact) h

theorem hoodRefused_intact (h : Intact l s) : Intact l (hoodRefused s) := bump_intact (unhood_intact h)

theorem bankLines_intact (h : Intact l s) : Intact l (bankLines s).1 := by
  unfold bankLines
  dsimp only
  exact leaveLines_intact h

theorem enterBanked_intact (h : Intact l s) : Intact l (enterBanked s) :=
  timeHolds_intact (bump_intact (modPower_intact (intact_foldl (fun _ _ ht => modRegionPow_intact ht) (bankCompute_intact (intact_with h)))))
theorem losePool_intact (h : Intact l s) : Intact l (losePool s) := ⟨(pilotCompute_intact h).1, memWf_nil⟩
theorem enterPilot_intact {cause : Nat} (h : Intact l s) : Intact l (enterPilot s cause) :=
  timeHolds_intact (bump_intact (modPower_intact (losePool_intact h)))

theorem trySetState_intact (h : Intact l s) : Intact l (trySetState s) := by
  unfold trySetState
  dsimp only
  split
  · exact h
  · split
    · exact intact_then (intact_foldl (fun _ _ ht => wakeRegion_intact ht) (intact_ite (timeAgain_intact (modPower_intact h)) (wakeChip_intact h)))
        askedDone_intact
    · exact intact_ite h (intact_then (wakeChip_intact h) askedDone_intact)
    · exact intact_ite h (intact_ite (askedDone_intact h) (intact_ite (hoodCheck_intact h) (intact_ite (hoodCheck_intact (askHood_intact h)) h)))
    · split
      · exact askedDone_intact h
      · split
        · exact h
        · split
          · exact intact_then (bankLines_intact h) (fun hs => askedDone_intact (enterBanked_intact hs))
          · exact intact_ite (askedDone_intact (enterBanked_intact h)) h
    · split
      · exact askedDone_intact h
      · split
        · exact intact_then (bankLines_intact h) (fun hs => askedDone_intact (enterPilot_intact hs))
        · exact intact_ite (askedDone_intact (enterPilot_intact h)) h

theorem idle_intact (h : Intact l s) : Intact l (idle s) := trySetState_intact (settleUnknown_intact (untilTime_intact h))
theorem throttleLog_intact {r : Nat} (h : Intact l s) : Intact l (throttleLog s r) := healthLog_intact h

/-! ### MapCore: references to gigabytes of pool as a home adds them, and the answers to messages that this switch sent -/

theorem addRefs_intact {gibs : List Nat} {cls copies part : Nat} {verify : Bool} (h : Intact l s) :
    SumIntact l (addRefs s gibs cls copies part verify) := by
  unfold addRefs
  dsimp only
  split
  · exact sumIntact_inr
  · refine sumIntact_foldl (fun r _ hr => ?_) (sumIntact_inl h)
    cases r with
    | inl t => exact addRef_intact (hr t rfl)
    | inr st => exact sumIntact_inr

theorem homeAdds_intact {gibs : List Nat} {cls copies part : Nat} {verify : Bool} (h : Intact l s) : SumIntact l (homeAdds s gibs cls copies part
    verify) := by
  unfold homeAdds
  split
  · exact sumIntact_inr
  next e =>
    split
    · exact sumIntact_inl (addRefs_intact h _ e)
    · exact sumIntact_inr

theorem writePage_intact {ast va gib pool perms : Nat} (h : Intact l s) : Intact l (writePage s ast va gib pool perms) := intact_with h
theorem noteRefs_intact {gibs : List Nat} {node : Nat} (h : Intact l s) : Intact l (noteRefs s gibs node) := intact_with h
theorem dropRemote_intact {g node : Nat} (h : Intact l s) : Intact l (dropRemote s g node) := dropRef_intact (intact_with h)

theorem mapAnswered_intact {r : CmdRef} {ast va gib pool perms born status : Nat} (h : Intact l s) : Intact l (mapAnswered s r ast va gib pool perms
    born status) :=
  intact_ite (complete_intact h) (intact_ite (complete_intact (intact_foldl (fun _ _ ht => releaseGib_intact ht) h)) (intact_ite (complete_intact
    (intact_foldl (fun _ _ ht => releaseGib_intact ht) h)) (intact_ite (complete_intact (intact_foldl (fun _ _ ht => releaseGib_intact ht) h))
    (complete_intact (writePage_intact h)))))

theorem mgmtHeard_intact {tag : Nat} (h : Intact l s) : Intact l (mgmtHeard s tag) := intact_with h

theorem ownAnswered_intact {r : Resp} (h : Intact l s) : Intact l (ownAnswered s r) := by
  unfold ownAnswered
  dsimp only
  split
  · exact intact_ite (mgmtHeard_intact h) (violatePkt_intact (bump_intact h))
  · split
    · exact mapAnswered_intact (mgmtHeard_intact (intact_with h))
    · exact revoked_intact (mgmtHeard_intact (intact_with h))
    · exact scrubDone_intact (intact_with (mgmtHeard_intact (intact_with h)))
    · exact mgmtHeard_intact (intact_with h)

/-! ### Engines: the engines as the ingress and the home see them -/

theorem engineRespond_intact {r : Resp} (h : Intact l s) : Intact l (engineRespond s r) := by
  unfold engineRespond
  split
  next e =>
    exact mgmtHeard_intact (fabAnswered_intact h _ e)
  · exact ownAnswered_intact h

/-! ### SnapCore: versioned shared regions -/

theorem openVersion_intact {n : Nat} {r : SharedRegion} {node : Nat} {b : List Byte} (h : Intact l s) :
    Intact l (openVersion s n r node b).1 := by
  have ended : Intact l (sweepDying (clearMark (endOpen s n node) n node)) := sweepDying_intact (clearMark_intact (endOpen_intact h))
  unfold openVersion
  dsimp only
  split
  · exact h
  split
  · split
    · split
      · exact h
      · exact setOpen_intact h
    · exact h
  split
  · exact ended
  split
  · exact ended
  split
  · exact setOpen_intact ended
  split
  · split
    · exact setOpen_intact ended
    · exact ended
  split
  · exact ended
  split
  · exact ended
  next e => exact setOpen_intact (takeSids_intact ended _ e)

theorem publish_intact {n : Nat} {r : SharedRegion} {node : Nat} {b : List Byte} (h : Intact l s) : Intact l (publish s n r node b).1 := by
  unfold publish
  dsimp only
  split
  · exact h
  split
  · exact h
  split
  · exact h
  split
  · exact h
  split
  · exact endOpen_intact h
  · exact reclaim_intact (modRegion_intact (intact_foldl (fun _ _ ht => dropDraft_intact ht)
      (intact_foldl (fun _ _ ht => commitFrame_intact ht) (dropCopies_intact h))))

theorem versionStart_intact {origin : Origin} {op : Op} {p : Req} (h : Intact l s) : Intact l (versionStart s origin op p) := by
  unfold versionStart
  dsimp only
  split
  · exact reply_intact h
  split
  · exact reply_intact h
  split
  · exact reply_intact h
  split
  · exact reply_intact (openVersion_intact h)
  · exact intact_ite (reply_intact h) (reply_intact (clearMark_intact (endOpen_intact h)))
  · exact reply_intact (publish_intact h)

/-! ### Engines: the engines as the ingress and the home see them -/

theorem homeStart_intact {o : Origin} {op : Op} {p : Req} (h : Intact l s) : Intact l (homeStart s o op p) := by
  unfold homeStart
  split
  · exact cohStart_intact h
  · split
    · exact versionStart_intact h
    · exact versionStart_intact h
    · exact versionStart_intact h
    · exact engineStart_intact h
    · exact toRegion_intact h

theorem engines_intact : HooksIntact l engines where
  start := homeStart_intact
  respond := engineRespond_intact
  finish := id

theorem goOn_intact {x : Nat} (h : Intact l s) : Intact l (goOn x s) := by
  induction x generalizing s with
  | zero => exact h
  | succ n ih =>
    unfold goOn
    dsimp only
    exact intact_else (engineFinish_intact (startLanded_intact h)) fun ht => ih (settleN_intact engines_intact ht)

theorem hooks_intact : HooksIntact l hooks where
  start := homeStart_intact
  respond := engineRespond_intact
  finish := goOn_intact

theorem bucketOut_intact {x : Nat} (h : Intact l s) : Intact l (bucketOut s x) := by
  unfold bucketOut
  split
  · exact tryReq_intact hooks_intact h
  · exact h

theorem setFree_intact {on : Bool} (h : Intact l s) : Intact l (setFree s on) :=
  intact_ite h (intact_ite (settle_intact hooks_intact (intact_foldl (fun _ _ ht => bucketOut_intact ht) (intact_with (setField_intact (intact_with
    h))))) (intact_with (setField_intact (intact_with h))))

/-! ### Switch: the meanings of the events and commands of the switch core, of shapers, gates and fabric time -/

theorem cellBad_intact {x : Nat} (h : Intact l s) : Intact l (cellBad s x) := by
  unfold cellBad
  dsimp only
  split
  · exact h
  · exact intact_ite (intact_with (discardPkt_intact (note_intact (bump_intact h)))) (intact_then (bump_intact (intact_with (discardPkt_intact
      (note_intact (bump_intact h))))) (fun ht => intact_foldl (fun _ _ hu => goDown_intact hu) ht))

theorem schedParity_intact (h : Intact l s) : Intact l (schedParity s) :=
  intact_then (intact_with (note_intact (bump_intact (intact_with h)))) haltSwitch_intact

theorem voqParity_intact {x : Nat} (h : Intact l s) : Intact l (voqParity s x) := by
  unfold voqParity
  split
  · exact h
  · exact intact_foldl (fun _ _ ht => discardPkt_intact (bumpFree_intact ht)) (note_intact (bump_intact h))

theorem execSchedMatch_intact {bad : List Nat} {parity : Bool} {queues : List Nat} (h : Intact l s) : OutIntact l (execSchedMatch bad parity queues s)
    :=
  live_intact h (fun _ ht => intact_ite ht (settle_intact hooks_intact (intact_foldl (fun _ _ hu => cellBad_intact hu) (intact_ite (schedParity_intact
    (intact_foldl (fun _ _ hu => voqParity_intact hu) (nextCell_intact ht))) (cellTime_intact (intact_foldl (fun _ _ hu => voqParity_intact hu)
    (nextCell_intact ht)))))))

theorem execVoqPromote_intact {x : Nat} (h : Intact l s) : OutIntact l (execVoqPromote x s) := by
  unfold execVoqPromote
  dsimp only
  refine live_intact h (fun _ ht => ?_)
  split
  · exact ht
  · exact modPkt_intact (untilTime_intact ht)

theorem execSharedAdmit_intact {x : Nat} (h : Intact l s) : OutIntact l (execSharedAdmit x s) := live_intact h (fun _ ht => admitPkt_intact ht)

theorem execAgeDiscard_intact {x : Nat} (h : Intact l s) : OutIntact l (execAgeDiscard x s) := by
  unfold execAgeDiscard
  dsimp only
  refine live_intact h (fun _ ht => ?_)
  split
  · exact ht
  · exact intact_ite ht (settle_intact hooks_intact (bump_intact (discardPkt_intact (untilTime_intact ht))))

theorem execCoreStats_intact {c : Cmd} (h : Intact l s) : OutIntact l (execCoreStats c s) :=
  live_intact h (fun _ ht => runCmd_intact ht (fun _ hu => complete_intact hu))

theorem releaseHead_intact {port x : Nat} (h : Intact l s) : Intact l (releaseHead port s x) := by
  unfold releaseHead
  dsimp only
  split
  · exact h
  · exact bucketOut_intact (intact_with h)

theorem execBucketOverride_intact {port : Nat} (h : Intact l s) : OutIntact l (execBucketOverride port s) := by
  unfold execBucketOverride
  dsimp only
  refine live_intact h (fun _ ht => ?_)
  split
  · exact ht
  · exact settle_intact hooks_intact (intact_foldl (fun _ _ ht1 => releaseHead_intact ht1) (bump_intact (untilTime_intact ht)))

theorem execShapeSetPart_intact {c : Cmd} (h : Intact l s) : OutIntact l (execShapeSetPart c s) :=
  live_intact h (fun _ ht => runCmd_intact ht (fun _ hu => intact_ite (complete_intact hu) (complete_intact (intact_with hu))))
theorem execShapeStats_intact {c : Cmd} (h : Intact l s) : OutIntact l (execShapeStats c s) :=
  live_intact h (fun _ ht => runCmd_intact ht (fun _ hu => complete_intact hu))

theorem execGateSet_intact {c : Cmd} (h : Intact l s) : OutIntact l (execGateSet c s) := by
  unfold execGateSet
  dsimp only
  refine live_intact h (fun _ ht => runCmd_intact ht (fun _ hu => ?_))
  split
  · exact complete_intact hu
  · split
    · exact complete_intact hu
    · exact intact_ite (complete_intact hu) (intact_with hu)

theorem execGateListSwitch_intact {p : Nat} (h : Intact l s) : OutIntact l (execGateListSwitch p s) := by
  unfold execGateListSwitch
  dsimp only
  refine live_intact h (fun _ ht => ?_)
  split
  · exact ht
  · split
    · exact ht
    · exact complete_intact (intact_with (untilFabric_intact ht))

theorem execGateEntryChange_intact {p : Nat} (h : Intact l s) : OutIntact l (execGateEntryChange p s) := by
  unfold execGateEntryChange
  refine live_intact h (fun _ ht => ?_)
  split
  · exact ht
  · exact untilFabric_intact ht

theorem execTimeSet_intact {c : Cmd} (h : Intact l s) : OutIntact l (execTimeSet c s) :=
  live_intact h (fun _ ht => runCmd_intact ht (fun _ hu => intact_ite (complete_intact (modTk_intact hu)) (intact_ite (complete_intact hu)
    (complete_intact (intact_with hu)))))

theorem execTimeSetSource_intact {c : Cmd} (h : Intact l s) : OutIntact l (execTimeSetSource c s) :=
  live_intact h (fun _ ht => runCmd_intact ht (fun _ hu => intact_ite (complete_intact hu) (complete_intact (rootLock_intact (modTk_intact hu)))))
theorem execTimeSetUpstream_intact {c : Cmd} (h : Intact l s) : OutIntact l (execTimeSetUpstream c s) :=
  live_intact h (fun _ ht => runCmd_intact ht (fun _ hu => intact_ite (complete_intact hu) (complete_intact (modTk_intact hu))))

theorem execTimeSyncTimer_intact {n : Nat} (h : Intact l s) : OutIntact l (execTimeSyncTimer n s) := by
  unfold execTimeSyncTimer
  dsimp only
  refine live_intact h (fun _ ht => ?_)
  split
  · exact ht
  · refine sendLink_intact (sendLink_intact (syncSent_intact ?_))
    split
    · exact untilFabric_intact ht
    · exact ht

theorem execPpsEdge_intact (h : Intact l s) : OutIntact l (execPpsEdge s) :=
  live_intact h (fun _ ht => intact_else (modTk_intact ht) (fun hs => rootLock_intact (correct_intact (modTk_intact hs))))
theorem execTimeRefLost_intact {pps : Bool} (h : Intact l s) : OutIntact l (execTimeRefLost pps s) :=
  live_intact h (fun _ ht => intact_then (modTk_intact ht) timeLost_intact)
theorem execTimeRefRestored_intact {pps : Bool} (h : Intact l s) : OutIntact l (execTimeRefRestored pps s) :=
  live_intact h (fun _ ht => intact_ite (modTk_intact (modTk_intact ht)) (intact_then (modTk_intact ht) rootLock_intact))
theorem execPpsOut_intact (h : Intact l s) : OutIntact l (execPpsOut s) := live_intact h (fun _ ht => intact_else (untilFabric_intact ht) emit_intact)

theorem execPtpFrame_intact {n : Nat} {offset : ℤ} (h : Intact l s) : OutIntact l (execPtpFrame n offset s) :=
  live_intact h (fun _ ht => intact_else ht (fun hs => intact_ite (bump_intact hs) (rootLock_intact (intact_then (correct_intact (modTk_intact hs))
    modTk_intact))))

/-! ### HysCore: the Hyser registers, queue pairs, doorbells and completions, and what a write of any register of BAR0 does -/

theorem modQp_intact {fn q : Nat} {f : Qp → Qp} (h : Intact l s) : Intact l (modQp s fn q f) := modFn_intact h
theorem accessError_intact {fn : Nat} (h : Intact l s) : Intact l (accessError s fn) := modFn_intact h
theorem cfgReject_intact {fn : Nat} (h : Intact l s) : Intact l (cfgReject s fn) := modFn_intact h
theorem qpStart_intact {fn q : Nat} (h : Intact l s) : Intact l (qpStart s fn q) := modQp_intact h
theorem qpStop_intact {fn q : Nat} (h : Intact l s) : Intact l (qpStop s fn q) := intact_ite h (orphan_intact (modQp_intact h))
theorem qreset_intact {fn : Nat} (h : Intact l s) : Intact l (qreset s fn) :=
  intact_then (intact_foldl (fun _ _ ht => qpStop_intact ht) h) intact_with
theorem qpError_intact {fn q cause : Nat} (h : Intact l s) : Intact l (qpError s fn q cause) := reportQueueError_intact (modQp_intact h)
theorem doorbell_intact {fn q : Nat} {tail head : Option Nat} (h : Intact l s) : Intact l (doorbell s fn q tail head) :=
  intact_ite h (intact_ite (qpError_intact h) (intact_ite (qpError_intact h) (modQp_intact h)))
theorem signal_intact {fn q : Nat} (h : Intact l s) : Intact l (signal s fn q) := emit_intact (modQp_intact h)
theorem writeCompletion_intact {fn : Nat} {d : Completion} {outOk : Bool} (h : Intact l s) : Intact l (writeCompletion s fn d outOk) :=
  intact_then (modQp_intact (emit_intact (intact_ite h (emit_intact h)))) signal_intact

theorem visit_intact (h : Intact l s) : ∀ p, visit s = some p → Intact l p.1 := by
  intro p e
  unfold visit at e
  dsimp only at e
  have pf (q) (eq : ((nextPf s).map fun q => ({ s with hys := { s.hys with pfTurn := false, pfLast := q } }, 0, q)) = some q) : Intact l q.1 := by
    obtain ⟨_, -, rfl⟩ := Option.map_eq_some_iff.mp eq
    exact intact_with h
  have vf (q) (eq : ((nextVf s).map fun k => ({ s with hys := { s.hys with pfTurn := true, vfLast := k } }, k / 8, k % 8)) = some q) : Intact l q.1 := by
    obtain ⟨_, -, rfl⟩ := Option.map_eq_some_iff.mp eq
    exact intact_with h
  split at e
  · cases e
  · split at e
    · exact (Option.or_eq_some_iff.mp e).elim (pf p) fun e => vf p e.2
    · exact (Option.or_eq_some_iff.mp e).elim (vf p) fun e => pf p e.2

theorem writeQpCfg_intact {fn q v : Nat} (h : Intact l s) : Intact l (writeQpCfg s fn q v) :=
  intact_ite (cfgReject_intact h) (intact_then (modQp_intact (intact_ite (qpStop_intact h) h)) qpStart_intact)
theorem writeQpBase_intact {fn q v : Nat} {cq : Bool} (h : Intact l s) : Intact l (writeQpBase s fn q v cq) :=
  intact_ite (cfgReject_intact h) (modQp_intact h)
theorem writeEvqCfg_intact {v : Nat} (h : Intact l s) : Intact l (writeEvqCfg s v) := intact_ite (cfgReject_intact h) (intact_with h)
theorem writeEvqBase_intact {v : Nat} (h : Intact l s) : Intact l (writeEvqBase s v) := intact_ite (cfgReject_intact h) (intact_with h)
theorem writeHysStatus_intact {fn v : Nat} (h : Intact l s) : Intact l (writeHysStatus s fn v) := modFn_intact h
theorem modMbx_intact {f : Mbx → Mbx} (h : Intact l s) : Intact l (modMbx s f) := intact_with h
theorem mbxDone_intact {err : Nat} (h : Intact l s) : Intact l (mbxDone s err) := emit_intact (modMbx_intact h)

theorem mbxWrite_intact {v : Nat} (h : Intact l s) : Intact l (mbxWrite s v) :=
  intact_ite h (intact_ite (intact_ite (mbxDone_intact (modMbx_intact h)) h) (intact_ite h (intact_ite (mbxDone_intact h) (intact_ite (mbxDone_intact
    h) (intact_ite (mbxDone_intact h) (intact_ite (modMbx_intact (modMbx_intact h)) (mbxDone_intact (modMbx_intact h))))))))

theorem portOn_intact {p : Nat} (h : Intact l s) : Intact l (portOn s p) := intact_foldl (fun _ _ ht => setLink_intact ht) h
theorem portOff_intact {p : Nat} (h : Intact l s) : Intact l (portOff s p) := intact_foldl (fun _ _ ht => intact_else ht leaveUp_intact) h
theorem writePortCfg_intact {p v : Nat} (h : Intact l s) : Intact l (writePortCfg s p v) :=
  intact_ite (setField_intact h) (intact_then (intact_with (intact_ite (portOff_intact h) h)) portOn_intact)
theorem writePoolHeat_intact {v : Nat} (h : Intact l s) : Intact l (writePoolHeat s v) := intact_else (writeReg_intact h) intact_with
theorem writePoolPolicy_intact {v : Nat} (h : Intact l s) : Intact l (writePoolPolicy s v) :=
  intact_ite (setField_intact h) (settle_intact hooks_intact (intact_with (writeReg_intact h)))

theorem writeBucket_intact {n v : Nat} (h : Intact l s) : Intact l (writeBucket s n v) :=
  intact_ite (intact_with (writeReg_intact (intact_with h))) (intact_then (writeReg_intact (intact_with h)) (fun ht => settle_intact hooks_intact
    (intact_foldl (fun _ _ hu => releaseHead_intact hu) ht)))

theorem writeShape_intact {i v : Nat} (h : Intact l s) : Intact l (writeShape s i v) := intact_then (writeReg_intact (intact_with h)) intact_with
theorem writeLantern_intact {v : Nat} (h : Intact l s) : Intact l (writeLantern s v) :=
  intact_ite (setField_intact h) (intact_with (intact_then (writeReg_intact h) setField_intact))
theorem writeFilter_intact {f v : Nat} (h : Intact l s) : Intact l (writeFilter s f v) := intact_then (writeReg_intact h) intact_with
theorem writeDebugPolicy_intact {v : Nat} (h : Intact l s) : Intact l (writeDebugPolicy s v) := intact_else (writeReg_intact h) intact_with

theorem writeWhole_intact {fn off v : Nat} (h : Intact l s) : Intact l (writeWhole s fn off v) := by
  unfold writeWhole
  dsimp only
  refine intact_ite ?_ ?_
  · exact writeHysStatus_intact h
  · refine intact_ite ?_ ?_
    · exact mbxWrite_intact h
    · split
      · exact modMbx_intact h
      · split
        · exact h
        · split
          · exact intact_ite (qreset_intact h) h
          · split
            · split
              · exact writeQpBase_intact h
              · exact writeQpBase_intact h
              · exact writeQpCfg_intact h
              · exact intact_ite h (intact_ite (writeEvqBase_intact h) (intact_ite (writeEvqCfg_intact h) (intact_ite (intact_with h) h)))
            · split
              · exact h
              · split
                · exact writePoolHeat_intact h
                · split
                  · exact writePoolPolicy_intact h
                  · split
                    · exact writeLantern_intact h
                    · split
                      · exact writeDebugPolicy_intact h
                      · split
                        · exact writePortCfg_intact h
                        · exact writeBucket_intact h
                        · exact intact_ite (writeShape_intact h) h
                        · exact writeFilter_intact h
                        · exact writeReg_intact h

theorem dropLow_intact {fn b : Nat} (h : Intact l s) : Intact l (dropLow s fn b) := intact_ite h (modFn_intact h)

theorem writeBar_intact {fn off size v : Nat} (h : Intact l s) : Intact l (writeBar s fn off size v) := by
  unfold writeBar
  dsimp only
  split
  · exact accessError_intact (wakeChip_intact h)
  · split
    · exact intact_then (modFn_intact (wakeChip_intact h)) modFn_intact
    · split
      · exact modMbx_intact (wakeChip_intact h)
      · split
        · exact wakeChip_intact h
        · split
          · exact intact_then (wakeChip_intact h) writeWhole_intact
          · split
            · exact intact_else (wakeChip_intact h) (fun hs => intact_ite (doorbell_intact hs) (intact_ite (doorbell_intact hs) (doorbell_intact hs)))
            · split
              · exact writeWhole_intact (dropLow_intact (wakeChip_intact h))
              · split
                · exact accessError_intact (wakeChip_intact h)
                · split
                  · exact modFn_intact (wakeChip_intact h)
                  · split
                    · exact accessError_intact (wakeChip_intact h)
                    · exact writeWhole_intact (dropLow_intact (wakeChip_intact h))

/-! ### Boot: power-on, resets and the firmware bundle -/

theorem coldStart_intact {phase : Phase} (h : Intact l s) : Intact l (coldStart s phase) := ⟨h.1, memWf_nil⟩

theorem execPowerOn_intact (h : Intact l s) : OutIntact l (execPowerOn s) := by
  unfold execPowerOn
  split
  · exact outIntact_next (coldStart_intact h)
  · exact outIntact_next h

theorem execInputFail_intact (h : Intact l s) : OutIntact l (execInputFail s) := outIntact_next (coldStart_intact h)

theorem execSysResetAssert_intact (h : Intact l s) : OutIntact l (execSysResetAssert s) := by
  unfold execSysResetAssert
  dsimp only
  split
  · exact outIntact_next (intact_with h)
  · exact outIntact_next (coldStart_intact (intact_with h))

theorem execSysResetDeassert_intact (h : Intact l s) : OutIntact l (execSysResetDeassert s) := by
  unfold execSysResetDeassert
  dsimp only
  split
  · exact outIntact_next (intact_with h)
  · exact outIntact_next (intact_with h)

theorem execBundleVerifyDone_intact (h : Intact l s) : OutIntact l (execBundleVerifyDone s) := by
  unfold execBundleVerifyDone
  dsimp only
  split
  · exact outIntact_next h
  · split
    · exact outIntact_next (mbxDone_intact (intact_with h))
    · exact outIntact_next (mbxDone_intact (intact_with h))

theorem execHbmInitDone_intact (h : Intact l s) : OutIntact l (execHbmInitDone s) := by
  unfold execHbmInitDone
  dsimp only
  split
  · exact outIntact_next h
  · exact outIntact_next (intact_with (intact_foldl (fun _ _ ht => intact_then ht startHealth_intact) h))

theorem endSpdm_intact (h : Intact l s) : Intact l (endSpdm s) := intact_with h

theorem execPerstMgtAssert_intact (h : Intact l s) : OutIntact l (execPerstMgtAssert s) := by
  unfold execPerstMgtAssert
  dsimp only
  split
  · exact outIntact_next (intact_with h)
  · exact outIntact_next (endSpdm_intact (intact_with (intact_foldl (fun _ _ ht => fnReset_intact ht) (intact_with h))))

theorem execPerstMgtDeassert_intact (h : Intact l s) : OutIntact l (execPerstMgtDeassert s) := outIntact_next (intact_with h)

theorem execHbPerstDeassert_intact {x : Nat} (h : Intact l s) : OutIntact l (execHbPerstDeassert x s) := by
  unfold execHbPerstDeassert
  dsimp only
  split
  · exact outIntact_next h
  · split
    · exact outIntact_next (startHealth_intact (intact_with h))
    · exact outIntact_next (intact_with h)

/-! ### Coherence: the meanings of the commands and events of 05_coherence.md -/

theorem execSnoopAnswer_intact {r : Resp} (h : Intact l s) : OutIntact l (execSnoopAnswer r s) :=
  live_intact h (fun _ ht => intact_ite (bump_intact ht) (intact_ite (checkQuar_intact (violatePkt_intact (bump_intact ht))) (intact_ite
    (checkQuar_intact (violatePkt_intact (bump_intact ht))) (intact_ite (transit_intact ht) (checkQuar_intact (settle_intact hooks_intact
    (snoopAnswer_intact ht)))))))

theorem execTenureEnd_intact {line : Nat} (h : Intact l s) : OutIntact l (execTenureEnd line s) := by
  unfold execTenureEnd
  dsimp only
  refine live_intact h (fun _ ht => ?_)
  split
  · exact intact_ite (settle_intact hooks_intact (lineSnoop_intact (untilTime_intact ht))) ht
  · exact settle_intact hooks_intact (lineRun_intact (untilTime_intact ht))
  · exact ht

theorem execHomeTimeout_intact {line : Nat} (h : Intact l s) : OutIntact l (execHomeTimeout line s) :=
  live_intact h (fun _ ht => settle_intact hooks_intact (lineTimeout_intact ht))
theorem execDirectorySweep_intact {domain agent : Nat} {bad : List Nat} (h : Intact l s) : OutIntact l (execDirectorySweep domain agent bad s) :=
  live_intact h (fun _ ht => settle_intact hooks_intact (sweepAgent_intact ht))

theorem execCombineWindowEnd_intact {group : Nat} (h : Intact l s) : OutIntact l (execCombineWindowEnd group s) := by
  unfold execCombineWindowEnd
  refine live_intact h (fun _ ht => ?_)
  split
  · exact ht
  · exact intact_ite ht (settle_intact hooks_intact (groupSend_intact (untilTime_intact ht)))

theorem execHotLineSend_intact {line : Nat} (h : Intact l s) : OutIntact l (execHotLineSend line s) := by
  unfold execHotLineSend
  dsimp only
  refine live_intact h (fun _ ht => ?_)
  split
  · exact ht
  · exact settle_intact hooks_intact (hotSend_intact hooks_intact (untilTime_intact ht))

theorem execHotLineExpire_intact {line : Nat} (h : Intact l s) : OutIntact l (execHotLineExpire line s) := by
  unfold execHotLineExpire
  dsimp only
  refine live_intact h (fun _ ht => ?_)
  split
  · exact ht
  · exact intact_then ht (fun hs => intact_with (untilTime_intact hs))

theorem execDomainCreate_intact {c : Cmd} (h : Intact l s) : OutIntact l (execDomainCreate c s) :=
  live_intact h (fun _ ht => runCmd_intact ht (fun _ hu => intact_ite (complete_intact hu) (intact_ite (complete_intact hu) (complete_intact
    (intact_with hu)))))

theorem execDomainDestroy_intact {c : Cmd} (h : Intact l s) : OutIntact l (execDomainDestroy c s) := by
  unfold execDomainDestroy
  dsimp only
  refine live_intact h (fun _ ht => runCmd_intact ht (fun _ hu => ?_))
  split
  · exact complete_intact hu
  · split
    · exact modDom_intact hu
    · exact settle_intact hooks_intact (leaveLines_intact (intact_with (modDom_intact hu)))

/-- An agent that is added: the sweep of its index ends first (R232), then the lines forget what it was granted (R211). -/
theorem addedAgent_intact {d i node : Nat} {f : List (Nat × Line) → List (Nat × Line)} {r : CmdRef} (h : Intact l s) :
    Intact l (complete (setField (modDom { s with coh := { s.coh with lines := f s.coh.lines } } d fun x =>
      { x with members := kset x.members i node, failed := x.failed.filter (· ≠ i) }) (rDomain d) (32 + i) 1 0) r stOk 0 []) :=
  complete_intact (setField_intact (modDom_intact (intact_with h)))

theorem execDomainAddAgent_intact {c : Cmd} (h : Intact l s) : OutIntact l (execDomainAddAgent c s) := by
  unfold execDomainAddAgent
  refine live_intact h fun t ht => runCmd_intact ht fun u hu => ?_
  dsimp only
  split
  · exact complete_intact hu
  · refine intact_ite (complete_intact hu) (intact_ite (complete_intact hu) (intact_ite (complete_intact hu) (intact_ite (complete_intact hu)
      (intact_ite (complete_intact hu) (intact_ite (complete_intact hu) ?_)))))
    exact addedAgent_intact (settle_intact hooks_intact (sweepAgent_intact hu))

theorem execDomainRemoveAgent_intact {c : Cmd} (h : Intact l s) : OutIntact l (execDomainRemoveAgent c s) :=
  live_intact h (fun _ ht => runCmd_intact ht (fun _ hu => intact_ite (complete_intact hu) (complete_intact (agentFail_intact hu))))

theorem execHdmDecoderWrite_intact {bridge index base sizeGib part ast vbase : Nat} {commit : Bool} (h : Intact l s) : OutIntact l
    (execHdmDecoderWrite bridge index base sizeGib part ast vbase commit s) := by
  unfold execHdmDecoderWrite
  dsimp only
  refine live_intact h (fun _ ht => ?_)
  split
  · exact ht
  · split
    · split
      · exact tdiFault_intact (intact_with ht)
      · exact intact_with ht
    · split
      · exact emit_intact ht
      · split
        · exact ht
        · split
          · exact tdiFault_intact (tdiFault_intact (intact_with ht))
          · exact tdiFault_intact (intact_with ht)

theorem noteHost_intact {bridge hostTag : Nat} {tags : List Nat} (h : Intact l s) : Intact l (noteHost s bridge hostTag tags) := intact_with h
theorem bridgeReq_intact {bridge : Nat} {d : HdmDecoder} {op : Op} {va tag len : Nat} {payload : List Byte} (h : Intact l s) : Intact l (bridgeReq s
    bridge d op va tag len payload) := arrive_intact hooks_intact (intact_with h)

theorem hostDrops_intact {bridge : Nat} {line : Option Nat} (h : Intact l s) : Intact l (hostDrops s bridge line) := by
  unfold hostDrops
  dsimp only
  split
  · exact intact_with h
  · exact h

theorem execCxlM2sReq_intact {bridge : Nat} {kind : CxlReq} {hpa tag : Nat} (h : Intact l s) : OutIntact l (execCxlM2sReq bridge kind hpa tag s) := by
  unfold execCxlM2sReq
  dsimp only
  refine live_intact h (fun _ ht => ?_)
  split
  · exact ht
  · exact intact_else ht (fun hs => intact_ite (emit_intact (intact_then hs hostDrops_intact)) (bridgeReq_intact (noteHost_intact (intact_then hs
      hostDrops_intact))))

theorem execCxlM2sRwd_intact {bridge hpa tag : Nat} {mask : BitVec 64} {data : List Byte} (h : Intact l s) : OutIntact l (execCxlM2sRwd bridge hpa tag
    mask data s) := by
  unfold execCxlM2sRwd
  dsimp only
  refine live_intact h (fun _ ht => ?_)
  split
  · exact ht
  · split
    · exact ht
    · split
      · exact bridgeReq_intact (noteHost_intact (hostDrops_intact ht))
      · split
        · exact emit_intact ht
        · exact intact_foldl (fun _ _ ht1 => bridgeReq_intact ht1) (noteHost_intact ht)

theorem execCxlBiRsp_intact {bridge hpa : Nat} {kept : Bool} {data : List Byte} (h : Intact l s) : OutIntact l (execCxlBiRsp bridge hpa kept data s)
    := by
  unfold execCxlBiRsp
  dsimp only
  refine live_intact h (fun _ ht => ?_)
  split
  · exact ht
  · split
    · exact ht
    · exact intact_ite (settle_intact hooks_intact (snoopAnswer_intact (hostDrops_intact (intact_with ht)))) (sendPkt_intact (hostDrops_intact
        (intact_with ht)))

theorem execCxlBiconflict_intact {bridge hpa : Nat} (h : Intact l s) : OutIntact l (execCxlBiconflict bridge hpa s) := by
  unfold execCxlBiconflict
  refine live_intact h (fun _ ht => ?_)
  split
  · exact ht
  · exact intact_then ht emit_intact

/-! ### RasCore: region fences, copies that are verified, health, quorum tickets -/

theorem modRas_intact {f : Ras → Ras} (h : Intact l s) : Intact l (modRas s f) := intact_with h

theorem unserved_intact {x : Access} (h : Intact l s) : Intact l (unserved s x) := by
  unfold unserved
  dsimp only
  refine intact_foldl (fun _ _ ht => ?_) h
  split
  · exact readFailed_intact ht
  · refine accessDone_intact ?_
    split
    · split
      · refine modOp_intact ?_
        split
        · exact intact_else ht loseMove_intact
        · exact ht
      · split
        · exact intact_else ht loseMove_intact
        · exact ht
    · split
      · refine modOp_intact ?_
        split
        · exact intact_else ht loseMove_intact
        · exact ht
      · split
        · exact intact_else ht loseMove_intact
        · exact ht
    · split
      · refine modOp_intact ?_
        split
        · exact intact_else ht loseMove_intact
        · exact ht
      · split
        · exact intact_else ht loseMove_intact
        · exact ht

theorem moveAccesses_intact {r : Nat} (h : Intact l s) : Intact l (moveAccesses s r) :=
  intact_foldl (fun _ _ ht => intact_ite (unserved_intact ht) (arbPush_intact ht)) (setArb_intact h)

theorem leaveStack_intact {stack : Nat} (h : Intact l s) : Intact l (leaveStack s stack) := by
  unfold leaveStack
  refine intact_foldl (fun _ _ ht => ?_) h
  split
  · exact startMove_intact (bumpFree_intact ht)
  · split
    · exact startMove_intact (bumpFree_intact ht)
    · exact ht

theorem fence_intact {r cause : Nat} (h : Intact l s) : Intact l (fence s r cause) :=
  intact_ite (intact_ite h (modRas_intact h)) (report_intact (intact_then (moveAccesses_intact (intact_foldl (fun _ _ ht => intact_else ht
    discardPkt_intact) (intact_foldl (fun _ _ ht => goDown_intact ht) (fenceCompute_intact (healthLog_intact (keepSample_intact (bump_intact
    (modRas_intact h)))))))) leaveStack_intact))

theorem refresh_intact {frame : Nat} (h : Intact l s) : Intact l (refresh s frame) := by
  unfold refresh
  split
  · exact h
  · exact intact_ite h (modTier_intact h)

theorem verifyAccess_intact {frame : Nat} (h : Intact l s) : Intact l (verifyAccess s frame) := by
  unfold verifyAccess
  split
  · exact t1Access_intact h
  · exact h

theorem verifyPass_intact (h : Intact l s) : Intact l (verifyPass s) :=
  intact_foldl (fun _ _ ht => refresh_intact ht) (intact_foldl (fun _ _ ht => decideUnit_intact ht) (intact_foldl (fun _ _ ht => verifyAccess_intact
    ht) h))

theorem degradeTarget_intact {t : Target} (h : Intact l s) : Intact l (degradeTarget s t) := modRas_intact h
theorem restoreTarget_intact {t : Target} (h : Intact l s) : Intact l (restoreTarget s t) := modRas_intact h

theorem expel_intact {t : Target} (h : Intact l s) : Intact l (expel s t) :=
  intact_ite (haltSwitch_intact (restoreTarget_intact (modRas_intact h))) (intact_else (intact_foldl (fun _ _ hu => quarantine_intact hu)
    (restoreTarget_intact (modRas_intact h))) nodeFails_intact)

theorem readmit_intact {t : Target} (h : Intact l s) : Intact l (readmit s t) := by
  unfold readmit
  dsimp only
  exact modRas_intact (intact_foldl (fun _ _ hu => setLink_intact hu) (restoreTarget_intact h))

theorem takeTicket_intact {b : List Byte} (h : Intact l s) : Intact l (takeTicket s b).1 := by
  unfold takeTicket
  dsimp only
  split
  · exact bump_intact h
  · split
    · exact intact_then (bump_intact (bump_intact h)) degradeTarget_intact
    · split
      · exact bump_intact h
      · exact intact_ite (expel_intact (note_intact (bump_intact (modRas_intact h)))) (intact_ite (degradeTarget_intact (note_intact (bump_intact
          (modRas_intact h)))) (readmit_intact (note_intact (bump_intact (modRas_intact h)))))

/-! ### Memory: the meanings of the commands and events of 03_memory_tiers.md -/

theorem arbGrant_intact {r : Nat} (h : Intact l s) : Intact l (arbGrant s r) := by
  unfold arbGrant
  dsimp only
  split
  · exact setArb_intact h
  · split
    · exact h
    · split
      · exact h
      · exact setArb_intact h

theorem execRegionArbGrant_intact {r : Nat} (h : Intact l s) : OutIntact l (execRegionArbGrant r s) := live_intact h (fun _ ht => arbGrant_intact ht)

theorem execRegionArbPromote_intact {r : Nat} (h : Intact l s) : OutIntact l (execRegionArbPromote r s) := by
  unfold execRegionArbPromote
  dsimp only
  refine live_intact h (fun _ ht => setArb_intact ?_)
  split
  · exact ht
  · exact untilTime_intact ht

theorem tableErrors_intact {bad : List Nat} (h : Intact l s) : Intact l (tableErrors s bad) := by
  induction bad generalizing s with
  | nil =>
    unfold tableErrors
    exact h
  | cons y ys ih =>
    unfold tableErrors
    exact intact_ite (haltSwitch_intact (note_intact h)) (ih (note_intact (bump_intact h)))

theorem correctedLines_intact {lines : List Nat} (h : Intact l s) : Intact l (correctedLines s lines) :=
  intact_foldl (fun _ _ ht => note_intact (bump_intact ht)) h
theorem regionStateError_intact {r : Nat} (h : Intact l s) : Intact l (regionStateError s r) := intact_ite (fence_intact h) h

theorem execHbmAccessDone_intact {r x : Nat} {bad : List Nat} (h : Intact l s) : OutIntact l (execHbmAccessDone r x bad s) := by
  unfold execHbmAccessDone
  dsimp only
  refine live_intact h (fun _ ht => ?_)
  split
  · exact ht
  · exact settle_intact hooks_intact (intact_then (intact_foldl (fun _ _ ht1 => intact_ite (readFailed_intact ht1) (accessDone_intact ht1))
      (tableErrors_intact (correctedLines_intact (setArb_intact ht)))) regionStateError_intact)

theorem execMoveSubblockDone_intact {frame : Nat} {ok : Bool} (h : Intact l s) : OutIntact l (execMoveSubblockDone frame ok s) := by
  unfold execMoveSubblockDone
  dsimp only
  refine live_intact h (fun _ ht => ?_)
  split
  · exact ht
  · exact intact_ite ht (intact_ite (settle_intact hooks_intact (abandonMove_intact ht)) (intact_ite ht (settle_intact hooks_intact (intact_then
      (retryMoves_intact (intact_with ht)) moveCopy_intact))))

theorem execT3WriteResume_intact {op : Nat} (h : Intact l s) : OutIntact l (execT3WriteResume op s) := by
  unfold execT3WriteResume
  refine live_intact h (fun _ ht => ?_)
  split
  · exact intact_ite (settle_intact hooks_intact (memAccess_intact ht)) ht
  · exact ht

theorem execTrayLateTimeout_intact {tag : Nat} (h : Intact l s) : OutIntact l (execTrayLateTimeout tag s) := by
  unfold execTrayLateTimeout
  dsimp only
  refine live_intact h (fun _ ht => ?_)
  split
  · exact ht
  · split
    · split
      · exact settle_intact hooks_intact (modOp_intact (accessCopy_intact (intact_with (untilTime_intact ht))))
      · split
        · exact settle_intact hooks_intact (intact_with (untilTime_intact ht))
        · exact markUnanswered_intact (intact_with (untilTime_intact ht))
        · exact intact_foldl (fun _ _ ht1 => markUnanswered_intact ht1) (intact_with (untilTime_intact ht))
        · exact report_intact (bump_intact (intact_with (untilTime_intact ht)))
    · exact untilTime_intact ht

theorem readHeat_intact {frame : Nat} (h : Intact l s) : Intact l (readHeat s frame) := modTier_intact h

theorem tableAccess_intact {frame : Nat} (h : Intact l s) : Intact l (tableAccess s frame) := by
  unfold tableAccess
  dsimp only
  split
  · exact t1Access_intact h
  · exact h

theorem execTierMapVisit_intact {frame : Nat} (h : Intact l s) : OutIntact l (execTierMapVisit frame s) :=
  live_intact h (fun _ ht => tableAccess_intact (readHeat_intact ht))
theorem policyMove_intact {frame : Nat} {t : TierEntry} {dst : Tier} (h : Intact l s) : OptIntact l (policyMove s frame t dst) :=
  optIntact_map fun _ => startMove_intact (bumpFree_intact h)

theorem scanDown_intact {x : Nat × TierEntry} (h : Intact l s) : Intact l (scanDown s x) := by
  unfold scanDown
  dsimp only
  split
  · exact intact_ite h (intact_ite (intact_getD (policyMove_intact h) h) (intact_ite (intact_getD (policyMove_intact h) h) h))
  · exact h

theorem scanPressure_intact {high x : Nat} {x1 : List Nat} (h : Intact l s) : Intact l (scanPressure high x x1 s) := by
  induction x generalizing high x1 s with
  | zero =>
    unfold scanPressure
    exact h
  | succ n ih =>
    unfold scanPressure
    dsimp only
    split
    · exact h
    · split
      · exact h
      · exact ih (intact_getD (policyMove_intact h) h)

theorem scanUp_intact {x : Nat × TierEntry} (h : Intact l s) : Intact l (scanUp s x) := by
  unfold scanUp
  dsimp only
  split
  · split
    · exact h
    · split
      next e2 =>
        exact policyMove_intact h _ e2
      · exact bump_intact h
  · exact h

theorem scan_intact (h : Intact l s) : Intact l (scan s) :=
  intact_foldl (fun _ _ ht => scanUp_intact ht) (intact_else (intact_foldl (fun _ _ ht => scanDown_intact ht) (intact_foldl (fun _ _ ht =>
    readHeat_intact ht) (intact_with h))) scanPressure_intact)

theorem execTieringScan_intact (h : Intact l s) : OutIntact l (execTieringScan s) := by
  unfold execTieringScan
  dsimp only
  refine live_intact h (fun _ ht => ?_)
  split
  · exact ht
  · exact settle_intact hooks_intact (scan_intact (intact_with (untilTime_intact ht)))

theorem execFreeModeTakeEffect_intact (h : Intact l s) : OutIntact l (execFreeModeTakeEffect s) := by
  unfold execFreeModeTakeEffect
  dsimp only
  refine live_intact h (fun _ ht => ?_)
  split
  · exact ht
  · exact complete_intact (setFree_intact (intact_with (untilFabric_intact ht)))

theorem execPoolFrameInfo_intact {c : Cmd} (h : Intact l s) : OutIntact l (execPoolFrameInfo c s) := by
  unfold execPoolFrameInfo
  dsimp only
  refine live_intact h (fun _ ht => runCmd_intact ht (fun _ hu => ?_))
  split
  · split
    · exact complete_intact hu
    · exact complete_intact (readHeat_intact hu)
  · exact intact_ite (complete_intact hu) (complete_intact (readHeat_intact hu))

theorem execPoolHeatRead_intact {c : Cmd} (h : Intact l s) : OutIntact l (execPoolHeatRead c s) := by
  unfold execPoolHeatRead
  dsimp only
  refine live_intact h (fun _ ht => runCmd_intact ht (fun _ hu => ?_))
  split
  · split
    · exact complete_intact hu
    · split
      · exact complete_intact hu
      · refine complete_intact (intact_foldl (fun _ _ ht1 => ?_) hu)
        split
        · exact readHeat_intact ht1
        · exact ht1
  · split
    · exact complete_intact hu
    · split
      · exact complete_intact hu
      · refine complete_intact (intact_foldl (fun _ _ ht1 => ?_) hu)
        split
        · exact readHeat_intact ht1
        · exact ht1

theorem execPoolMove_intact {c : Cmd} (h : Intact l s) : OutIntact l (execPoolMove c s) := by
  unfold execPoolMove
  dsimp only
  refine live_intact h (fun _ ht => runCmd_intact ht (fun _ hu => ?_))
  split
  · exact complete_intact hu
  · split
    · exact complete_intact hu
    · split
      · exact complete_intact hu
      · split
        · exact complete_intact hu
        · split
          · exact complete_intact hu
          · split
            · exact complete_intact hu
            · exact startMove_intact (bumpFree_intact hu)

theorem execPoolSetHome_intact {c : Cmd} (h : Intact l s) : OutIntact l (execPoolSetHome c s) :=
  live_intact h (fun _ ht => runCmd_intact ht (fun _ hu => intact_ite (complete_intact hu) (intact_ite (complete_intact hu) (intact_ite
    (complete_intact hu) (intact_ite (complete_intact hu) (complete_intact (intact_with hu)))))))

theorem execPoolAttachTray_intact {c : Cmd} (h : Intact l s) : OutIntact l (execPoolAttachTray c s) :=
  live_intact h (fun _ ht => runCmd_intact ht (fun _ hu => intact_ite (complete_intact hu) (intact_ite (complete_intact hu) (complete_intact
    (intact_with hu)))))

theorem execPoolDetachTray_intact {c : Cmd} (h : Intact l s) : OutIntact l (execPoolDetachTray c s) := by
  unfold execPoolDetachTray
  dsimp only
  refine live_intact h (fun _ ht => runCmd_intact ht (fun _ hu => ?_))
  split
  · exact complete_intact hu
  · split
    · exact complete_intact hu
    · exact intact_else (intact_with hu) (fun ht1 => intact_ite (complete_intact (intact_with hu)) (intact_ite (complete_intact hu) (settle_intact
        hooks_intact ht1)))

theorem execPoolSetPolicy_intact {c : Cmd} (h : Intact l s) : OutIntact l (execPoolSetPolicy c s) :=
  live_intact h (fun _ ht => runCmd_intact ht (fun _ hu => intact_ite (complete_intact hu) (intact_ite (complete_intact (intact_with hu))
    (complete_intact (intact_with hu)))))

theorem execPoolEnableClass_intact {c : Cmd} (h : Intact l s) : OutIntact l (execPoolEnableClass c s) :=
  live_intact h (fun _ ht => runCmd_intact ht (fun _ hu => intact_ite (complete_intact hu) (complete_intact (intact_with hu))))

/-! ### Translation: the meanings of the commands and events of 04_translation_windows.md -/

theorem walkArrives_intact {ast page : Nat} (h : Intact l s) : Intact l (walkArrives s ast page) :=
  intact_foldl (fun _ _ ht => checkQuar_intact (fromEndpoint_intact hooks_intact ht)) (intact_with h)

theorem execPageWalkDone_intact {ast page : Nat} (h : Intact l s) : OutIntact l (execPageWalkDone ast page s) := by
  unfold execPageWalkDone
  dsimp only
  refine live_intact h (fun _ ht => ?_)
  split
  · exact ht
  · split
    · exact intact_with ht
    · refine settle_intact hooks_intact (walkArrives_intact ?_)
      split
      · exact intact_then (intact_with ht) cachePut_intact
      · exact intact_with ht

theorem execGenSweepDone_intact {ast : Nat} (h : Intact l s) : OutIntact l (execGenSweepDone ast s) := by
  unfold execGenSweepDone
  dsimp only
  refine live_intact h (fun _ ht => ?_)
  split
  · exact ht
  · exact intact_ite ht (settle_intact hooks_intact (invalNext_intact (invalFinish_intact (modAst_intact (intact_with ht)))))

theorem execPtRelocate_intact {ast loc : Nat} (h : Intact l s) : OutIntact l (execPtRelocate ast loc s) := by
  unfold execPtRelocate
  refine live_intact h (fun _ ht => ?_)
  split
  · exact ht
  · exact intact_then ht modAst_intact

theorem packTables_intact (h : Intact l s) : Intact l (packTables s).1 := intact_foldl_fst (fun _ _ hp => modAst_intact hp) h

theorem tableAlloc_intact {span : Nat} (h : Intact l s) : Intact l (tableAlloc s span).1 := by
  unfold tableAlloc
  split
  · exact bumpFree_intact h
  · exact packTables_intact h

theorem execAstCreate_intact {c : Cmd} (h : Intact l s) : OutIntact l (execAstCreate c s) := by
  unfold execAstCreate
  dsimp only
  refine live_intact h (fun _ ht => runCmd_intact ht (fun _ hu => ?_))
  split
  · exact complete_intact hu
  · split
    · exact complete_intact hu
    · split
      · exact complete_intact (intact_then (bumpFree_intact (intact_with (tableAlloc_intact hu))) tdiFault_intact)
      · exact complete_intact hu

theorem execAstDestroy_intact {c : Cmd} (h : Intact l s) : OutIntact l (execAstDestroy c s) :=
  live_intact h (fun _ ht => runCmd_intact ht (fun _ hu => intact_ite (complete_intact hu) (settle_intact hooks_intact (invalidate_intact hu))))
theorem execAstInvalidate_intact {c : Cmd} (h : Intact l s) : OutIntact l (execAstInvalidate c s) :=
  live_intact h (fun _ ht => runCmd_intact ht (fun _ hu => intact_ite (complete_intact hu) (settle_intact hooks_intact (invalidate_intact hu))))
theorem execAstInfo_intact {c : Cmd} (h : Intact l s) : OutIntact l (execAstInfo c s) :=
  live_intact h (fun _ ht => runCmd_intact ht (fun _ hu => intact_ite (complete_intact hu) (complete_intact hu)))
theorem execAstPteRead_intact {c : Cmd} (h : Intact l s) : OutIntact l (execAstPteRead c s) :=
  live_intact h (fun _ ht => runCmd_intact ht (fun _ hu => intact_ite (complete_intact hu) (intact_ite (complete_intact hu) (complete_intact hu))))
theorem windowChanged_intact {i : Nat} {r : CmdRef} (h : Intact l s) : Intact l (windowChanged s i r) :=
  intact_ite (complete_intact h) (intact_with h)

theorem execWindowSet_intact {c : Cmd} (h : Intact l s) : OutIntact l (execWindowSet c s) :=
  live_intact h (fun _ ht => runCmd_intact ht (fun _ hu => intact_ite (complete_intact hu) (windowChanged_intact (intact_with (intact_foldl (fun _ _
    hv => tdiFault_intact hv) hu)))))

theorem execWindowClear_intact {c : Cmd} (h : Intact l s) : OutIntact l (execWindowClear c s) :=
  live_intact h (fun _ ht => runCmd_intact ht (fun _ hu => intact_ite (complete_intact hu) (windowChanged_intact (intact_with hu))))
theorem failCheck_intact {c : Cmd} {st order : Nat} (h : Intact l s) : Intact l (failCheck s c st order) := complete_intact h

theorem execPoolMap_intact {c : Cmd} (h : Intact l s) : OutIntact l (execPoolMap c s) := by
  unfold execPoolMap
  dsimp only
  refine live_intact h (fun _ ht => runCmd_intact ht (fun _ hu => ?_))
  split
  · exact failCheck_intact hu
  · split
    · exact failCheck_intact hu
    · split
      · exact failCheck_intact hu
      · split
        · exact failCheck_intact hu
        · split
          · exact failCheck_intact hu
          · split
            · exact failCheck_intact hu
            · split
              · exact failCheck_intact hu
              · split
                · split
                  · exact failCheck_intact hu
                  next e4 =>
                    exact complete_intact (writePage_intact (homeAdds_intact hu _ e4))
                · split
                  next e3 =>
                    exact intact_with (sendMgmt_intact hu _ e3)
                  · exact failCheck_intact hu

theorem changeRange_intact {c : Cmd} {n : Nat} {kind : Nat → InvalKind} {bad : Bool} (h : Intact l s) : Intact l (changeRange s c n kind bad) :=
  intact_ite (complete_intact h) (intact_else (complete_intact h) (fun ht => intact_ite (complete_intact h) (intact_ite ht (settle_intact hooks_intact
    (invalidate_intact h)))))

theorem execPoolUnmap_intact {c : Cmd} (h : Intact l s) : OutIntact l (execPoolUnmap c s) :=
  live_intact h (fun _ ht => runCmd_intact ht (fun _ hu => changeRange_intact hu))
theorem execPoolProtect_intact {c : Cmd} (h : Intact l s) : OutIntact l (execPoolProtect c s) :=
  live_intact h (fun _ ht => runCmd_intact ht (fun _ hu => changeRange_intact hu))

/-! ### Coll: the meanings of the COLL commands and of a stall -/

theorem tableCmd_intact {c : Cmd} {part group verb : Nat} (h : Intact l s) : Intact l (tableCmd s c part group verb) :=
  settle_intact hooks_intact (putJob_intact h)
theorem execCollOpen_intact {c : Cmd} (h : Intact l s) : OutIntact l (execCollOpen c s) :=
  live_intact h (fun _ ht => runCmd_intact ht (fun _ hu => tableCmd_intact hu))

theorem atCoordinator_intact {c : Cmd} {f : Nat → CollCtx → State} (h : Intact l s) (hf1 : ∀ a0 a1, Intact l (f a0 a1)) : Intact l (atCoordinator s c
    f) := by
  unfold atCoordinator
  split
  · exact intact_ite (hf1 _ _) (complete_intact h)
  · exact complete_intact h

theorem execCollClose_intact {c : Cmd} (h : Intact l s) : OutIntact l (execCollClose c s) :=
  live_intact h (fun _ ht => runCmd_intact ht (fun _ hu => atCoordinator_intact hu (fun _ _ => settle_intact hooks_intact (collClose_intact hu))))

theorem execCollSetOpt_intact {c : Cmd} (h : Intact l s) : OutIntact l (execCollSetOpt c s) :=
  live_intact h (fun _ ht => runCmd_intact ht (fun _ hu => atCoordinator_intact hu (fun _ _ => intact_ite (complete_intact hu) (settle_intact
    hooks_intact (tellHosts_intact hu (fun _ _ _ hv => collOptPart_intact hv))))))

theorem execCollStats_intact {c : Cmd} (h : Intact l s) : OutIntact l (execCollStats c s) :=
  live_intact h (fun _ ht => runCmd_intact ht (fun _ hu => complete_intact hu))

theorem execCollRehost_intact {c : Cmd} (h : Intact l s) : OutIntact l (execCollRehost c s) := by
  unfold execCollRehost
  dsimp only
  refine live_intact h (fun _ ht => runCmd_intact ht (fun _ hu => ?_))
  split
  · exact complete_intact hu
  · exact intact_ite (complete_intact hu) (intact_ite (complete_intact hu) (intact_ite (settle_intact hooks_intact (rehost_intact hu)) (settle_intact
      hooks_intact (tellHosts_intact hu (fun _ _ _ ht1 => collResumePart_intact ht1)))))

theorem collStall_intact {coord x ix : Nat} (h : Intact l s) : Intact l (collStall s coord x ix) := by
  unfold collStall
  dsimp only
  split
  · split
    · exact h
    · split
      · exact h
      · split
        · exact h
        · refine intact_foldl (fun _ _ ht => stallReport_intact ?_) (bumpColl_intact (modNode_intact (untilTime_intact h)))
          split
          · exact penal_intact ht
          · exact ht
  · exact h

theorem execCollStall_intact {coord x ix : Nat} (h : Intact l s) : OutIntact l (execCollStall coord x ix s) :=
  live_intact h (fun _ ht => settle_intact hooks_intact (collStall_intact ht))

/-! ### SecCore: Hurricane: who it is, keys, measurements, link key exchanges, TDISP and IDE -/

theorem modSec_intact {f : Sec → Sec} (h : Intact l s) : Intact l (modSec s f) := intact_with h
theorem installKeys_intact {n : Nat} {tx rx : List Byte} {initiator : Bool} (h : Intact l s) : Intact l (installKeys s n tx rx initiator) :=
  pump_intact (modLport_intact h)
theorem kexStart_intact {n : Nat} (h : Intact l s) : Intact l (kexStart s n).1 := bumpFree_intact (modSec_intact h)

theorem kexRespond_intact {n : Nat} {a : KexRecord} {serial : Nat} (h : Intact l s) : Intact l (kexRespond s n a serial).1 := by
  unfold kexRespond
  dsimp only
  exact installKeys_intact (bumpFree_intact h)

theorem kexFinish_intact {n : Nat} {x : Kex} {b : KexRecord} {serial : Nat} (h : Intact l s) : Intact l (kexFinish s n x b serial) :=
  installKeys_intact (modSec_intact h)
theorem spdmSay_intact {session : Option Nat} {r : SpdmReply} (h : Intact l s) : Intact l (spdmSay s session r) := emit_intact h
theorem spdm_intact {need : Nat} {f : State → State} (hf1 : ∀ t, Intact l t → Intact l (f t)) (h : Intact l s) : OutIntact l (spdm need f s) :=
  live_intact h (fun _ ht => intact_else ht (fun hs => intact_ite (spdmSay_intact hs) (intact_ite (spdmSay_intact hs) (hf1 _ hs))))
theorem inSession_intact {x : Nat} {f : State → State} (hf1 : ∀ t, Intact l t → Intact l (f t)) (h : Intact l s) : OutIntact l (inSession x f s) :=
  spdm_intact (fun _ ht => intact_ite (hf1 _ ht) (spdmSay_intact ht)) h
theorem sessionEnds_intact {x : Nat} (h : Intact l s) : Intact l (sessionEnds s x) := modSec_intact h
theorem tdisp_intact {x vf : Nat} {f : State → Nat → State} (hf1 : ∀ t a1, Intact l t → Intact l (f t a1)) (h : Intact l s) : OutIntact l (tdisp x vf
    f s) := inSession_intact (fun _ ht => intact_ite (spdmSay_intact ht) (hf1 _ _ ht)) h
theorem setTdi_intact {n : Nat} {t : Tdi} (h : Intact l s) : Intact l (setTdi s n t) := modPart_intact h

/-! ### Debug: the commands that read Lantern's ring and the health log, and the JTAG port -/

theorem completeRing_intact {r : CmdRef} {first : Nat} {x : List (Nat × List Byte)} (h : Intact l s) : Intact l (completeRing s r first x) :=
  complete_intact h
theorem readRing_intact {c : Cmd} {ring : List (Nat × List Byte)} {x : Nat} (h : Intact l s) : Intact l (readRing s c ring x) :=
  intact_ite (complete_intact h) (completeRing_intact h)
theorem execLanternRead_intact {c : Cmd} (h : Intact l s) : OutIntact l (execLanternRead c s) :=
  live_intact h (fun _ ht => runCmd_intact ht (fun _ hu => readRing_intact hu))
theorem execLanternLogRead_intact {c : Cmd} (h : Intact l s) : OutIntact l (execLanternLogRead c s) :=
  live_intact h (fun _ ht => runCmd_intact ht (fun _ hu => readRing_intact hu))
theorem execLanternStats_intact {c : Cmd} (h : Intact l s) : OutIntact l (execLanternStats c s) :=
  live_intact h (fun _ ht => runCmd_intact ht (fun _ hu => complete_intact hu))

theorem tapRow_intact {f : State → State} (h : Intact l s) (hf1 : ∀ t, Intact l t → Intact l (f t)) : OutIntact l (tapRow s f) := by
  unfold tapRow
  split
  · exact outIntact_next (hf1 _ h)
  · exact outIntact_next h

theorem tapLoad_intact {i : TapInstr} (h : Intact l s) : Intact l (tapLoad s i) := intact_with h
theorem scanBoundary_intact {pps t10m test float : Bool} {shift : Nat} (h : Intact l s) : Intact l (scanBoundary s pps t10m test float shift) :=
  intact_with (emit_intact h)
theorem execIdcode_intact (h : Intact l s) : OutIntact l (execIdcode s) := tapRow_intact h (fun _ ht => emit_intact (tapLoad_intact ht))
theorem tapBypass_intact {i : TapInstr} (h : Intact l s) : Intact l (tapBypass s i) := emit_intact (tapLoad_intact h)
theorem execBypass_intact (h : Intact l s) : OutIntact l (execBypass s) := tapRow_intact h (fun _ ht => tapBypass_intact ht)
theorem execSamplePreload_intact {pps t10m test float : Bool} {shift : Nat} (h : Intact l s) : OutIntact l (execSamplePreload pps t10m test float
    shift s) := tapRow_intact h (fun _ ht => scanBoundary_intact (tapLoad_intact ht))
theorem execExtest_intact {pps t10m test float : Bool} {shift : Nat} (h : Intact l s) : OutIntact l (execExtest pps t10m test float shift s) :=
  tapRow_intact h (fun _ ht => intact_ite (scanBoundary_intact (tapLoad_intact ht)) (tapBypass_intact ht))
theorem execClamp_intact (h : Intact l s) : OutIntact l (execClamp s) := tapRow_intact h (fun _ ht => tapBypass_intact ht)
theorem execHighz_intact (h : Intact l s) : OutIntact l (execHighz s) := tapRow_intact h (fun _ ht => tapBypass_intact ht)
theorem execJtagTrst_intact (h : Intact l s) : OutIntact l (execJtagTrst s) := tapRow_intact h (fun _ ht => tapLoad_intact ht)
theorem execDebugStatus_intact (h : Intact l s) : OutIntact l (execDebugStatus s) :=
  tapRow_intact h (fun _ ht => bumpFree_intact (intact_with (emit_intact (tapLoad_intact ht))))

/-! ### SecCore: Hurricane: who it is, keys, measurements, link key exchanges, TDISP and IDE -/

theorem memWf_scrambled (wf : s.MemWf) : memWf (scrambled s) = true :=
  List.foldlRecOn _ _ (motive := fun m => memWf m = true) wf fun _ wf _ _ => memWf_writeBytes _ _ _ wf

theorem destroyKeys_intact (h : Intact l s) : Intact l (destroyKeys s) :=
  bumpFree_intact (modSec_intact ⟨h.pending, memWf_scrambled h.wf⟩)

/-! ### Debug: the commands that read Lantern's ring and the health log, and the JTAG port -/

theorem unlock_intact (h : Intact l s) : Intact l (unlock s) := intact_with (modSec_intact (setField_intact (destroyKeys_intact h)))
theorem execDebugUnlock_intact {token : List Byte} (h : Intact l s) : OutIntact l (execDebugUnlock token s) :=
  tapRow_intact h (fun _ ht => intact_ite (unlock_intact (tapLoad_intact (intact_with ht))) (intact_with (tapLoad_intact (intact_with ht))))

/-! ### Emb: the meanings of the EMB commands and of the apply of a row -/

theorem execEmbCreate_intact {c : Cmd} (h : Intact l s) : OutIntact l (execEmbCreate c s) :=
  live_intact h (fun _ ht => runCmd_intact ht (fun _ hu => tableCmd_intact hu))

theorem embCmd_intact {c : Cmd} {sp : CmdSpec} {f : State → Nat → EmbTable → State} (h : Intact l s) (hf1 : ∀ t a1 a2, Intact l t → Intact l (f t a1
    a2)) : Intact l (embCmd s c sp f) := by
  unfold embCmd
  refine runCmd_intact h (fun _ ht => ?_)
  split
  · exact intact_ite (settle_intact hooks_intact (hf1 _ _ _ ht)) (complete_intact ht)
  · exact complete_intact ht

theorem execEmbDestroy_intact {c : Cmd} (h : Intact l s) : OutIntact l (execEmbDestroy c s) :=
  live_intact h (fun _ ht => embCmd_intact ht (fun _ _ _ hu => tellEmb_intact hu (fun _ _ _ hv => embTake_intact hv)))

theorem execEmbSetDefault_intact {c : Cmd} (h : Intact l s) : OutIntact l (execEmbSetDefault c s) :=
  live_intact h (fun _ ht => embCmd_intact ht (fun _ _ _ hu => intact_ite (complete_intact hu) (tellEmb_intact hu (fun _ _ _ hv => embTake_intact
    hv))))

theorem execEmbReplaceRows_intact {c : Cmd} (h : Intact l s) : OutIntact l (execEmbReplaceRows c s) := by
  unfold execEmbReplaceRows
  dsimp only
  exact live_intact h (fun _ ht => embCmd_intact ht (fun _ _ _ hu => intact_ite (complete_intact hu) (intact_ite (complete_intact hu) (intact_foldl
      (fun _ _ hv => intact_then (relaySend_intact hv) embTake_intact) (newRelay_intact hu)))))

theorem execEmbCloseStep_intact {c : Cmd} (h : Intact l s) : OutIntact l (execEmbCloseStep c s) :=
  live_intact h (fun _ ht => embCmd_intact ht (fun _ _ _ hu => tellEmb_intact hu (fun _ _ _ hv => embTake_intact hv)))
theorem execEmbStepInfo_intact {c : Cmd} (h : Intact l s) : OutIntact l (execEmbStepInfo c s) :=
  live_intact h (fun _ ht => embCmd_intact ht (fun _ _ _ hu => tellEmb_intact hu (fun _ _ _ hv => embTake_intact hv)))
theorem execEmbHotSet_intact {c : Cmd} (h : Intact l s) : OutIntact l (execEmbHotSet c s) :=
  live_intact h (fun _ ht => embCmd_intact ht (fun _ _ _ hu => intact_ite (complete_intact hu) (complete_intact (modTable_intact hu))))
theorem execEmbHotRefresh_intact {c : Cmd} (h : Intact l s) : OutIntact l (execEmbHotRefresh c s) :=
  live_intact h (fun _ ht => embCmd_intact ht (fun _ _ _ hu => tellEmb_intact hu (fun _ _ _ hv => embTake_intact hv)))

theorem execEmbMoveRows_intact {c : Cmd} (h : Intact l s) : OutIntact l (execEmbMoveRows c s) :=
  live_intact h (fun _ ht => embCmd_intact ht (fun _ _ _ hu => intact_ite (complete_intact hu) (tellEmb_intact hu (fun _ _ _ hv => embTake_intact
    hv))))

theorem execEmbStats_intact {c : Cmd} (h : Intact l s) : OutIntact l (execEmbStats c s) := by
  unfold execEmbStats
  refine live_intact h (fun _ ht => runCmd_intact ht (fun _ hu => ?_))
  split
  · exact complete_intact hu
  · exact complete_intact hu

theorem execEmbRowApply_intact {coord x row : Nat} (h : Intact l s) : OutIntact l (execEmbRowApply coord x row s) :=
  live_intact h (fun _ ht => settle_intact hooks_intact (applyOne_intact ht))

/-! ### FabricCore: management messages, discovery, endpoint resets, routes and managers as their commands and messages change them -/

theorem reportUp_intact {n : Nat} {p : Partner} {verified : Bool} (h : Intact l s) : Intact l (reportUp s n p verified) := report_intact h
theorem untrust_intact {n : Nat} {reported : Bool} (h : Intact l s) : Intact l (untrust s n reported) := intact_then (modLport_intact h) report_intact
theorem sendCert_intact {n : Nat} {theirs : List Byte} (h : Intact l s) : Intact l (sendCert s n theirs) :=
  intact_foldl (fun _ _ ht => sendLink_intact ht) h
theorem sendReset_intact {node but : Nat} {restored : Bool} (h : Intact l s) : Intact l (sendReset s node but restored) :=
  intact_ite h (spread_intact h)

theorem partsReleased_intact {node : Nat} (h : Intact l s) : Intact l (partsReleased s node) := by
  unfold partsReleased
  refine intact_foldl (fun _ _ ht => ?_) h
  split
  · exact intact_else ht (fun hs => failRun_intact (modRun_intact hs))
  · exact intact_else ht (fun hs => failRun_intact (modRun_intact hs))
  · exact ht
  · exact jobGone_intact ht

theorem nodeReset_intact {node : Nat} (h : Intact l s) : Intact l (nodeReset s node) :=
  partsReleased_intact (marksGone_intact (windowReleased_intact (nodeFails_intact (requestsLost_intact h))))

theorem endpointReset_intact {n : Nat} {restored : Bool} (h : Intact l s) : Intact l (endpointReset s n restored) := by
  unfold endpointReset
  dsimp only
  split
  · exact intact_with (releaseHolds_intact h)
  · exact sendReset_intact (nodeReset_intact (intact_with (releaseHolds_intact h)))

theorem known_intact {n : Nat} {verified : Bool} (h : Intact l s) : Intact l (known s n verified) := by
  unfold known
  dsimp only
  split
  · exact h
  · split
    · refine rescrub_intact ?_
      split
      · refine endpointReset_intact (modLport_intact ?_)
        split
        · exact intact_else (intact_then (restoreHops_intact (reportUp_intact (modLport_intact h))) intact_with) spread_intact
        · exact intact_else (intact_then (reportUp_intact (modLport_intact h)) intact_with) spread_intact
      · refine modLport_intact ?_
        split
        · exact intact_else (intact_then (restoreHops_intact (reportUp_intact (modLport_intact h))) intact_with) spread_intact
        · exact intact_else (intact_then (reportUp_intact (modLport_intact h)) intact_with) spread_intact
    · split
      · refine endpointReset_intact (modLport_intact ?_)
        split
        · exact intact_else (intact_then (restoreHops_intact (reportUp_intact (modLport_intact h))) intact_with) spread_intact
        · exact intact_else (intact_then (reportUp_intact (modLport_intact h)) intact_with) spread_intact
      · refine modLport_intact ?_
        split
        · exact intact_else (intact_then (restoreHops_intact (reportUp_intact (modLport_intact h))) intact_with) spread_intact
        · exact intact_else (intact_then (reportUp_intact (modLport_intact h)) intact_with) spread_intact

theorem gotHello_intact {n : Nat} {b : List Byte} (h : Intact l s) : Intact l (gotHello s n b).1 := by
  unfold gotHello
  dsimp only
  split
  · dsimp only
    exact h
  · split
    · split
      · dsimp only
        exact untrust_intact (violate_intact (modLport_intact h))
      · split
        · dsimp only
          exact known_intact (modLport_intact h)
        · split
          · dsimp only
            exact untrust_intact (sendCert_intact (modLport_intact (modLport_intact h)))
          · dsimp only
            exact sendCert_intact (modLport_intact (modLport_intact h))
    · split
      · dsimp only
        exact h
      · dsimp only
        exact modLport_intact h
    · split
      · dsimp only
        exact h
      · dsimp only
        exact modLport_intact h
    · dsimp only
      exact h

theorem gotCert_intact {n : Nat} {b : List Byte} (h : Intact l s) : Intact l (gotCert s n b).1 := by
  unfold gotCert
  dsimp only
  split
  · split
    · split
      · dsimp only
        exact h
      · split
        · dsimp only
          exact h
        · split
          · dsimp only
            exact modLport_intact h
          · dsimp only
            exact intact_ite (known_intact (modLport_intact h)) (untrust_intact (modLport_intact h))
    · split
      · dsimp only
        exact h
      · split
        · dsimp only
          exact h
        · split
          · dsimp only
            exact modLport_intact h
          · dsimp only
            exact intact_ite (known_intact (modLport_intact h)) (untrust_intact (modLport_intact h))
  · dsimp only
    exact h

theorem gotState_intact {n : Nat} {b : List Byte} (h : Intact l s) : Intact l (gotState s n b).1 := by
  unfold gotState
  split
  · exact h
  · split
    · exact h
    · exact intact_ite (endpointReset_intact h) h

theorem forwardReset_intact {code x : Nat} {payload : List Byte} {nodes : List Nat} (h : Intact l s) : Intact l (forwardReset s code x payload nodes)
    := intact_ite h (intact_foldl (fun _ _ ht => sendLink_intact ht) (intact_with h))

theorem gotRoutes_intact {restore : Bool} {n : Nat} {b : List Byte} (h : Intact l s) : Intact l (gotRoutes s restore n b).1 := by
  unfold gotRoutes
  dsimp only
  split
  · exact h
  · split
    · split
      · exact intact_then (intact_else (intact_then (intact_foldl (fun _ _ ht => nodeReset_intact ht) (restoreHops_intact h)) forwardReset_intact)
          spread_intact) rescrub_intact
      · exact intact_then (intact_else (intact_then (intact_foldl (fun _ _ ht => nodeReset_intact ht) h) forwardReset_intact) spread_intact)
          rescrub_intact
    · exact intact_then (intact_else (intact_then (intact_foldl (fun _ _ ht => nodeReset_intact ht) (withdrawFrom_intact h)) forwardReset_intact)
        spread_intact) rescrub_intact

theorem gotDiscard_intact {b : List Byte} (h : Intact l s) : Intact l (gotDiscard s b).1 := by
  unfold gotDiscard
  dsimp only
  split
  · exact h
  · split
    · exact h
    · split
      · exact markUnanswered_intact (penal_intact h)
      · exact penal_intact h

theorem gotSync_intact {n : Nat} {b : List Byte} (h : Intact l s) : Intact l (gotSync s n b).1 := by
  unfold gotSync
  split
  · exact h
  · exact syncGot_intact h

theorem gotFollow_intact {n : Nat} {b : List Byte} (h : Intact l s) : Intact l (gotFollow s n b).1 := by
  unfold gotFollow
  dsimp only
  split
  · exact h
  · exact timeFollow_intact h

theorem gotKex_intact {n : Nat} {b : List Byte} (h : Intact l s) : Intact l (gotKex s n b).1 := by
  unfold gotKex
  split
  · exact h
  · split
    · exact h
    · exact kexFinish_intact h
    · split
      · exact h
      · split
        next e3 =>
          exact sendLink_intact (intact_fst e3 (kexRespond_intact h))

theorem gotXchg_intact {p : Req} (h : Intact l s) : Intact l (gotXchg s p).1 := by
  unfold gotXchg
  dsimp only
  split
  · exact h
  · split
    · exact h
    · split
      · split
        · split
          · exact h
          next e2 =>
            exact noteRefs_intact (homeAdds_intact h _ e2)
        · exact dropRemote_intact h
      · split
        · exact gotRevoke_intact h
        · split
          · exact reportedFail_intact h
          · split
            · exact intact_with h
            · split
              · exact wickCompute_intact h
              · exact h

theorem writeRoute_intact {d : Nat} {r : Option Route} (h : Intact l s) : Intact l (writeRoute s d r) := intact_with h
theorem selfCmd_intact {c : Cmd} {r : CmdRef} (h : Intact l s) : Intact l (selfCmd s c r) :=
  intact_ite (complete_intact h) (intact_ite (complete_intact h) (complete_intact (helloAgain_intact (writeRoute_intact (intact_with h)))))

theorem assignCmd_intact {c : Cmd} {r : CmdRef} (h : Intact l s) : Intact l (assignCmd s c r) :=
  intact_ite (complete_intact h) (intact_ite (complete_intact h) (complete_intact (intact_then (modLport_intact (writeRoute_intact h)) (fun hs =>
    intact_ite (sendHello_intact hs) (resendHello_intact hs)))))

theorem clearCmd_intact {c : Cmd} {r : CmdRef} (h : Intact l s) : Intact l (clearCmd s c r) := by
  unfold clearCmd
  dsimp only
  split
  · exact complete_intact h
  · split
    · exact complete_intact h
    · exact settle_intact hooks_intact (complete_intact (writeRoute_intact (modLport_intact (endpointReset_intact (intact_ite (goDown_intact h) h)))))

theorem writeRoutes_intact {x : List (Nat × Option Route)} (h : Intact l s) : Intact l (writeRoutes s x) :=
  intact_foldl (fun _ _ ht => writeRoute_intact ht) h

theorem routeCmd_intact {c : Cmd} {r : CmdRef} (h : Intact l s) : Intact l (routeCmd s c r) := by
  unfold routeCmd
  dsimp only
  split
  · exact complete_intact h
  · split
    · exact complete_intact h
    · split
      · exact complete_intact h
      · exact intact_ite (intact_ite (complete_intact h) (complete_intact (writeRoutes_intact h))) (intact_ite (complete_intact h) (intact_with h))

theorem setManagers_intact {ms : List Manager} {x : Nat} (h : Intact l s) : Intact l (setManagers s ms x) := intact_with h

theorem managersCmd_intact {c : Cmd} {r : CmdRef} (h : Intact l s) : Intact l (managersCmd s c r) := by
  unfold managersCmd
  dsimp only
  split
  · exact complete_intact h
  · split
    · exact complete_intact h
    · exact intact_ite (complete_intact h) (intact_ite (complete_intact h) (complete_intact (setManagers_intact h)))

theorem roleCmd_intact {c : Cmd} {r : CmdRef} (h : Intact l s) : Intact l (roleCmd s c r) :=
  intact_ite (complete_intact h) (complete_intact (setField_intact (intact_with h)))
theorem freeCmd_intact {c : Cmd} {r : CmdRef} (h : Intact l s) : Intact l (freeCmd s c r) :=
  intact_ite (complete_intact h) (intact_ite (complete_intact (setFree_intact h)) (intact_ite (complete_intact h) (intact_with h)))

/-! ### Ras: the meanings of the commands and events of faults, detection and degradation -/

theorem execRegionSupplyFault_intact {r : Nat} (h : Intact l s) : OutIntact l (execRegionSupplyFault r s) :=
  live_intact h (fun _ ht => intact_ite ht (settle_intact hooks_intact (fence_intact ht)))

theorem execRegionFence_intact {c : Cmd} (h : Intact l s) : OutIntact l (execRegionFence c s) :=
  live_intact h (fun _ ht => runCmd_intact ht (fun _ hu => intact_ite (complete_intact hu) (intact_ite (complete_intact hu) (settle_intact
    hooks_intact (complete_intact (fence_intact hu))))))

theorem execRegionUnfence_intact {c : Cmd} (h : Intact l s) : OutIntact l (execRegionUnfence c s) :=
  live_intact h (fun _ ht => runCmd_intact ht (fun _ hu => intact_ite (complete_intact hu) (intact_ite (complete_intact hu) (settle_intact
    hooks_intact (complete_intact (modRas_intact hu))))))

/-! ### RasCore: region fences, copies that are verified, health, quorum tickets -/

theorem resolve_intact {frame copy : Nat} (h : Intact l s) : OptIntact l (resolve s frame copy) := by
  unfold resolve
  dsimp only
  split
  · exact optIntact_none
  next t _ =>
    split
    · exact optIntact_none
    · have adopted : Intact l ((natRange 0 512).foldl (fun s u => adopt s t frame u copy) s) := intact_foldl (fun _ _ ht => adopt_intact ht) h
      generalize (natRange 0 512).foldl (fun s u => adopt s t frame u copy) s = u at adopted ⊢
      exact optIntact_some (modTier_intact (intact_with adopted))

/-! ### Ras: the meanings of the commands and events of faults, detection and degradation -/

theorem execPoolResolve_intact {c : Cmd} (h : Intact l s) : OutIntact l (execPoolResolve c s) := by
  unfold execPoolResolve
  dsimp only
  refine live_intact h (fun _ ht => runCmd_intact ht (fun _ hu => ?_))
  split
  · exact complete_intact hu
  · split
    · exact complete_intact hu
    · split
      · exact complete_intact hu
      · split
        · exact complete_intact hu
        next e1 =>
          exact complete_intact (resolve_intact hu _ e1)

theorem execHurricaneMismatch_intact (h : Intact l s) : OutIntact l (execHurricaneMismatch s) :=
  live_intact h (fun _ ht => intact_else ht (fun hs => report_intact (note_intact (bump_intact (modRas_intact (destroyKeys_intact hs))))))

theorem execHealthRecover_intact {n : Nat} (h : Intact l s) : OutIntact l (execHealthRecover n s) := by
  unfold execHealthRecover
  dsimp only
  refine live_intact h (fun _ ht => ?_)
  split
  · exact ht
  · exact modRas_intact (untilTime_intact ht)

theorem execHealthRead_intact {c : Cmd} (h : Intact l s) : OutIntact l (execHealthRead c s) :=
  live_intact h (fun _ ht => runCmd_intact ht (fun _ hu => complete_intact hu))
theorem execRasStats_intact {c : Cmd} (h : Intact l s) : OutIntact l (execRasStats c s) :=
  live_intact h (fun _ ht => runCmd_intact ht (fun _ hu => complete_intact hu))

theorem ticketCmd_intact {c : Cmd} {r : CmdRef} (h : Intact l s) : Intact l (ticketCmd s c r) := by
  unfold ticketCmd
  dsimp only
  exact intact_ite (complete_intact h) (settle_intact hooks_intact (complete_intact (takeTicket_intact h)))

theorem budgetCmd_intact {c : Cmd} {r : CmdRef} (h : Intact l s) : Intact l (budgetCmd s c r) :=
  intact_ite (complete_intact h) (complete_intact (modRas_intact h))
theorem sparesCmd_intact {c : Cmd} {r : CmdRef} (h : Intact l s) : Intact l (sparesCmd s c r) := complete_intact (modRas_intact h)
theorem execFabricTicket_intact {c : Cmd} (h : Intact l s) : OutIntact l (execFabricTicket c s) :=
  live_intact h (fun _ ht => runSigned_intact ht (fun _ _ _ hu => ticketCmd_intact hu))
theorem execFabricSetBudget_intact {c : Cmd} (h : Intact l s) : OutIntact l (execFabricSetBudget c s) :=
  live_intact h (fun _ ht => runSigned_intact ht (fun _ _ _ hu => budgetCmd_intact hu))
theorem execFabricAddSpares_intact {c : Cmd} (h : Intact l s) : OutIntact l (execFabricAddSpares c s) :=
  live_intact h (fun _ ht => runSigned_intact ht (fun _ _ _ hu => sparesCmd_intact hu))

theorem execTicketExpire_intact {x : Nat} (h : Intact l s) : OutIntact l (execTicketExpire x s) := by
  unfold execTicketExpire
  dsimp only
  refine live_intact h (fun _ ht => ?_)
  split
  · exact ht
  · exact modRas_intact (untilFabric_intact ht)

/-! ### Fabric: the meanings of management messages, of the events of discovery, and of the NODE, ROUTE and FABRIC commands -/

theorem holdMgmt_intact {code : Nat} {p : Req} (h : Intact l s) : Intact l (holdMgmt s code p) := intact_with h

theorem mgmtGone_intact {code : Nat} {p : Req} (h : Intact l s) : Intact l (mgmtGone s code p) := by
  unfold mgmtGone
  split
  · exact requestGone_intact h
  · exact h

theorem mgmtAnswer_intact {code : Nat} {p : Req} {status : Nat} (h : Intact l s) : Intact l (mgmtAnswer s code p status) :=
  intact_ite (mgmtGone_intact (respondHere_intact h)) (answer_intact h)

theorem signedBody_intact {group verb : Nat} {sp : CmdSpec} {body : State → Cmd → CmdRef → State} {c : Cmd} {r : CmdRef}
    (e : signedBody group verb = some (sp, body)) (h : Intact l s) : Intact l (body s c r) := by
  unfold signedBody at e
  split at e <;> cases e
  · exact selfCmd_intact h
  · exact assignCmd_intact h
  · exact clearCmd_intact h
  · exact routeCmd_intact h
  · exact managersCmd_intact h
  · exact roleCmd_intact h
  · exact freeCmd_intact h
  · exact ticketCmd_intact h
  · exact budgetCmd_intact h
  · exact sparesCmd_intact h

theorem fmCommand_intact {p : Req} (h : Intact l s) : Intact l (fmCommand s p).1 := by
  unfold fmCommand
  dsimp only
  split
  · dsimp only
    exact complete_intact h
  · split
    · dsimp only
      exact complete_intact (acceptSeq_intact h)
    next e =>
      split
      · dsimp only
        exact complete_intact (acceptSeq_intact h)
      · exact signedBody_intact e (acceptSeq_intact h)

theorem mgmtEffect_intact {code : Nat} {p : Req} (h : Intact l s) : Intact l (mgmtEffect s code p).1 := by
  unfold mgmtEffect
  dsimp only
  split
  · exact gotHello_intact h
  · exact gotCert_intact h
  · exact gotState_intact h
  · exact fmCommand_intact h
  · exact gotRoutes_intact h
  · exact gotRoutes_intact h
  · exact gotDiscard_intact h
  · exact gotXchg_intact h
  · exact takeTicket_intact h
  · exact gotKex_intact h
  · exact gotSync_intact h
  · exact gotFollow_intact h
  · exact h

theorem mgmtTake_intact {code : Nat} {p : Req} (h : Intact l s) : Intact l (mgmtTake s code p) := by
  unfold mgmtTake
  split
  next e =>
    exact mgmtAnswer_intact (intact_fst e (mgmtEffect_intact h))
  next e =>
    exact intact_fst e (mgmtEffect_intact h)

theorem mgmtArrive_intact {code : Nat} {p : Req} (h : Intact l s) : Intact l (mgmtArrive code p s) := by
  unfold mgmtArrive
  dsimp only
  split
  · exact h
  · split
    · exact returnCredit_intact (bump_intact (capture_intact h))
    · split
      · split
        · exact mgmtAnswer_intact (violatePkt_intact (returnCredit_intact (noteSeq_intact (capture_intact h))))
        · split
          · exact mgmtAnswer_intact (violatePkt_intact (returnCredit_intact (noteSeq_intact (capture_intact h))))
          · split
            · exact intact_ite (mgmtTake_intact (returnCredit_intact (noteSeq_intact (capture_intact h)))) (intact_with (intact_then
                (returnCredit_intact (noteSeq_intact (capture_intact h))) holdMgmt_intact))
            · split
              · exact transit_intact (noteSeq_intact (capture_intact h))
              · split
                next e1 =>
                  exact holdMgmt_intact (enqueue_intact (returnCredit_intact (noteSeq_intact (capture_intact h))) _ e1)
                · exact mgmtAnswer_intact (returnCredit_intact (noteSeq_intact (capture_intact h)))
      · split
        · exact mgmtAnswer_intact (violatePkt_intact (returnCredit_intact (capture_intact h)))
        · split
          · exact mgmtAnswer_intact (violatePkt_intact (returnCredit_intact (capture_intact h)))
          · split
            · exact intact_ite (mgmtTake_intact (returnCredit_intact (capture_intact h))) (intact_with (intact_then (returnCredit_intact
                (capture_intact h)) holdMgmt_intact))
            · split
              · exact transit_intact (capture_intact h)
              · split
                next e =>
                  exact holdMgmt_intact (enqueue_intact (returnCredit_intact (capture_intact h)) _ e)
                · exact mgmtAnswer_intact (returnCredit_intact (capture_intact h))

theorem mgmt_intact {code : Nat} {p : Req} (h : Intact l s) : OutIntact l (mgmt code p s) :=
  live_intact h (fun _ ht => settle_intact hooks_intact (checkQuar_intact (mgmtArrive_intact ht)))
theorem execLlHello_intact {p : Req} (h : Intact l s) : OutIntact l (execLlHello p s) := mgmt_intact h
theorem execLlCert_intact {p : Req} (h : Intact l s) : OutIntact l (execLlCert p s) := mgmt_intact h
theorem execLlState_intact {p : Req} (h : Intact l s) : OutIntact l (execLlState p s) := mgmt_intact h
theorem execFmCommand_intact {p : Req} (h : Intact l s) : OutIntact l (execFmCommand p s) := mgmt_intact h
theorem execFmReply_intact {p : Req} (h : Intact l s) : OutIntact l (execFmReply p s) := mgmt_intact h
theorem execRouteWithdraw_intact {p : Req} (h : Intact l s) : OutIntact l (execRouteWithdraw p s) := mgmt_intact h
theorem execRouteRestore_intact {p : Req} (h : Intact l s) : OutIntact l (execRouteRestore p s) := mgmt_intact h
theorem execEvent_intact {p : Req} (h : Intact l s) : OutIntact l (execEvent p s) := mgmt_intact h
theorem execDiscardReport_intact {p : Req} (h : Intact l s) : OutIntact l (execDiscardReport p s) := mgmt_intact h
theorem execWickXchg_intact {p : Req} (h : Intact l s) : OutIntact l (execWickXchg p s) := mgmt_intact h
theorem execTicket_intact {p : Req} (h : Intact l s) : OutIntact l (execTicket p s) := mgmt_intact h
theorem execLinkKex_intact {p : Req} (h : Intact l s) : OutIntact l (execLinkKex p s) := mgmt_intact h
theorem execTimeSync_intact {p : Req} (h : Intact l s) : OutIntact l (execTimeSync p s) := mgmt_intact h
theorem execTimeFollow_intact {p : Req} (h : Intact l s) : OutIntact l (execTimeFollow p s) := mgmt_intact h
theorem execHelloResend_intact {n : Nat} (h : Intact l s) : OutIntact l (execHelloResend n s) :=
  live_intact h (fun _ ht => intact_else ht (fun hs => resendHello_intact (untilTime_intact hs)))
theorem execHelloTimeout_intact {n : Nat} (h : Intact l s) : OutIntact l (execHelloTimeout n s) :=
  live_intact h (fun _ ht => intact_else ht (fun hs => report_intact (modLport_intact (untilTime_intact hs))))
theorem execVerifyTimeout_intact {n : Nat} (h : Intact l s) : OutIntact l (execVerifyTimeout n s) :=
  live_intact h (fun _ ht => intact_else ht (fun hs => untrust_intact (untilTime_intact hs)))
theorem execNodeSetSelf_intact {c : Cmd} (h : Intact l s) : OutIntact l (execNodeSetSelf c s) :=
  live_intact h (fun _ ht => runSigned_intact ht (fun _ _ _ hu => selfCmd_intact hu))
theorem execNodeAssign_intact {c : Cmd} (h : Intact l s) : OutIntact l (execNodeAssign c s) :=
  live_intact h (fun _ ht => runSigned_intact ht (fun _ _ _ hu => assignCmd_intact hu))
theorem execNodeClear_intact {c : Cmd} (h : Intact l s) : OutIntact l (execNodeClear c s) :=
  live_intact h (fun _ ht => runSigned_intact ht (fun _ _ _ hu => clearCmd_intact hu))
theorem execRouteSet_intact {c : Cmd} (h : Intact l s) : OutIntact l (execRouteSet c s) :=
  live_intact h (fun _ ht => runSigned_intact ht (fun _ _ _ hu => routeCmd_intact hu))
theorem execFabricSetRole_intact {c : Cmd} (h : Intact l s) : OutIntact l (execFabricSetRole c s) :=
  live_intact h (fun _ ht => runSigned_intact ht (fun _ _ _ hu => roleCmd_intact hu))
theorem execFabricSetFreeMode_intact {c : Cmd} (h : Intact l s) : OutIntact l (execFabricSetFreeMode c s) :=
  live_intact h (fun _ ht => runSigned_intact ht (fun _ _ _ hu => freeCmd_intact hu))

theorem firstManagers_intact {c : Cmd} {r : CmdRef} (h : Intact l s) : Intact l (firstManagers s c r) := by
  unfold firstManagers
  split
  · exact complete_intact h
  · split
    · exact complete_intact h
    · split
      · exact complete_intact h
      · exact complete_intact (setManagers_intact h)

theorem execFabricSetManagers_intact {c : Cmd} (h : Intact l s) : OutIntact l (execFabricSetManagers c s) :=
  live_intact h (fun _ ht => intact_ite (runSigned_intact ht (fun _ _ _ hu => managersCmd_intact hu)) (runCmd_intact ht (fun _ hu => intact_ite
    (complete_intact hu) (firstManagers_intact hu))))

theorem execEscDrainDone_intact (h : Intact l s) : OutIntact l (execEscDrainDone s) := by
  unfold execEscDrainDone
  dsimp only
  refine live_intact h (fun _ ht => ?_)
  split
  · exact ht
  · exact intact_else ht (fun hs => complete_intact (writeRoutes_intact (intact_with hs)))

theorem execEscDrainTimeout_intact (h : Intact l s) : OutIntact l (execEscDrainTimeout s) := by
  unfold execEscDrainTimeout
  dsimp only
  refine live_intact h (fun _ ht => ?_)
  split
  · exact ht
  · exact complete_intact (intact_with (untilTime_intact ht))

theorem setCore_intact {x : Nat} {on : Bool} (h : Intact l s) : Intact l (setCore s x on) := modRas_intact h
theorem execWickWatchdog_intact {x : Nat} (h : Intact l s) : OutIntact l (execWickWatchdog x s) :=
  live_intact h (fun _ ht => intact_else ht (fun hs => note_intact (bump_intact (setCore_intact hs))))
theorem drainWick_intact (h : Intact l s) : Intact l (drainWick s) := intact_foldl (fun _ _ ht => mgmtTake_intact ht) (modRas_intact h)
theorem execWickCoreRejoin_intact {x : Nat} (h : Intact l s) : OutIntact l (execWickCoreRejoin x s) :=
  live_intact h (fun _ ht => intact_ite ht (settle_intact hooks_intact (intact_else (modRas_intact (setCore_intact ht)) drainWick_intact)))
theorem execWickRestart_intact (h : Intact l s) : OutIntact l (execWickRestart s) :=
  live_intact h (fun _ ht => intact_else ht (fun hs => note_intact (bumpBy_intact (modRas_intact hs))))

theorem execWickRestartTimeout_intact (h : Intact l s) : OutIntact l (execWickRestartTimeout s) := by
  unfold execWickRestartTimeout
  dsimp only
  refine live_intact h (fun _ ht => ?_)
  split
  · exact ht
  · exact intact_then (modRas_intact (untilTime_intact ht)) haltSwitch_intact

/-! ### Hyser: the meanings of the Hyser interface's own events: register accesses, doorbells, fetching and completions, functions, the recovery mailbox -/

theorem onMgmt_intact {fn : Nat} {f : State → State} (h : Intact l s) (hf1 : ∀ t, Intact l t → Intact l (f t)) : OutIntact l (onMgmt fn s f) := by
  unfold onMgmt
  split
  · exact outIntact_next (hf1 _ h)
  · exact outIntact_next h

theorem execRegisterWrite_intact {fn off size value : Nat} (h : Intact l s) : OutIntact l (execRegisterWrite fn off size value s) :=
  onMgmt_intact h (fun _ ht => writeBar_intact ht)
theorem execPoolHeatCfgWrite_intact {value : Nat} (h : Intact l s) : OutIntact l (execPoolHeatCfgWrite value s) :=
  onMgmt_intact h (fun _ ht => writeBar_intact ht)
theorem execPoolPolicyCfgWrite_intact {value : Nat} (h : Intact l s) : OutIntact l (execPoolPolicyCfgWrite value s) :=
  onMgmt_intact h (fun _ ht => writeBar_intact ht)
theorem execPortCfgEnSet_intact {p value : Nat} (h : Intact l s) : OutIntact l (execPortCfgEnSet p value s) :=
  onMgmt_intact h (fun _ ht => intact_else ht writeBar_intact)
theorem execPortCfgEnClear_intact {p value : Nat} (h : Intact l s) : OutIntact l (execPortCfgEnClear p value s) :=
  onMgmt_intact h (fun _ ht => intact_else ht writeBar_intact)

theorem execFtimeRead_intact {part : Nat} (h : Intact l s) : OutIntact l (execFtimeRead part s) :=
  onMgmt_intact h (fun _ ht => intact_ite (emit_intact (intact_with (wakeChip_intact ht))) (intact_ite (emit_intact (intact_with (wakeChip_intact
    ht))) (emit_intact (wakeChip_intact ht))))

theorem execHysDroppedRead_intact {fn : Nat} (h : Intact l s) : OutIntact l (execHysDroppedRead fn s) :=
  onMgmt_intact h (fun _ ht => emit_intact (modFn_intact (wakeChip_intact ht)))
theorem execDbWrite_intact {fn q part value : Nat} (h : Intact l s) : OutIntact l (execDbWrite fn q part value s) :=
  onMgmt_intact h (fun _ ht => intact_else ht (fun hs => intact_ite (writeBar_intact hs) (writeBar_intact hs)))
theorem execQpEnable_intact {fn q value : Nat} (h : Intact l s) : OutIntact l (execQpEnable fn q value s) :=
  onMgmt_intact h (fun _ ht => intact_else ht writeBar_intact)
theorem execQpDisable_intact {fn q value : Nat} (h : Intact l s) : OutIntact l (execQpDisable fn q value s) :=
  onMgmt_intact h (fun _ ht => intact_else ht writeBar_intact)
theorem execQreset_intact {fn : Nat} (h : Intact l s) : OutIntact l (execQreset fn s) := onMgmt_intact h (fun _ ht => writeBar_intact ht)

/-! ### HysCore: the Hyser registers, queue pairs, doorbells and completions, and what a write of any register of BAR0 does -/

theorem fetch_intact {desc : Option (List Byte)} (h : Intact l s) : Intact l (fetch s desc) := by
  unfold fetch
  split
  · exact h
  next t _ _ visited =>
    have got : Intact l t := by
      split at visited
      · exact visit_intact h _ visited
      · cases visited
    split
    · exact qpError_intact got
    · exact modFn_intact (markBusy_intact (modQp_intact got))

/-! ### Hyser: the meanings of the Hyser interface's own events: register accesses, doorbells, fetching and completions, functions, the recovery mailbox -/

theorem execDescriptorFetch_intact {desc : Option (List Byte)} (h : Intact l s) : OutIntact l (execDescriptorFetch desc s) :=
  live_intact h (fun _ ht => intact_then ht (fun hs => settleUnknown_intact (fetch_intact hs)))

theorem execCommandCompletion_intact {fn qp : Nat} {outOk : Bool} (h : Intact l s) : OutIntact l (execCommandCompletion fn qp outOk s) := by
  unfold execCommandCompletion
  dsimp only
  refine live_intact h (fun _ ht => ?_)
  split
  · exact settleUnknown_intact ht
  · exact intact_else (settleUnknown_intact ht) (fun hs => writeCompletion_intact (modFn_intact (markBusy_intact hs)))

theorem execCoalTimer_intact {fn qp : Nat} (h : Intact l s) : OutIntact l (execCoalTimer fn qp s) :=
  live_intact h (fun _ ht => intact_else ht (fun hs => signal_intact (untilTime_intact hs)))
theorem execHysNop_intact {c : Cmd} (h : Intact l s) : OutIntact l (execHysNop c s) :=
  live_intact h (fun _ ht => runCmd_intact ht (fun _ hu => complete_intact hu))
theorem execNumvfsWrite_intact {n : Nat} {enable : Bool} (h : Intact l s) : OutIntact l (execNumvfsWrite n enable s) :=
  onMgmt_intact h (fun _ ht => intact_else ht (fun hs => intact_foldl (fun _ _ hu => fnReset_intact hu) (intact_with hs)))
theorem execFunctionLevelReset_intact {fn : Nat} (h : Intact l s) : OutIntact l (execFunctionLevelReset fn s) :=
  onMgmt_intact h (fun _ ht => fnReset_intact ht)
theorem execMbxGo_intact {len offset : Nat} (h : Intact l s) : OutIntact l (execMbxGo len offset s) :=
  onMgmt_intact h (fun _ ht => writeBar_intact ht)
theorem execMbxLast_intact {len offset : Nat} (h : Intact l s) : OutIntact l (execMbxLast len offset s) :=
  onMgmt_intact h (fun _ ht => writeBar_intact ht)
theorem execMbxAbort_intact (h : Intact l s) : OutIntact l (execMbxAbort s) := onMgmt_intact h (fun _ ht => writeBar_intact ht)

/-! ### Links: the meanings of the events of links and their commands -/

theorem onLink_intact {n : Nat} {f : State → State} (h : Intact l s) (hf1 : ∀ t, Intact l t → Intact l (f t)) : OutIntact l (onLink n s f) :=
  live_intact h (fun _ ht => intact_ite ht (settle_intact hooks_intact (checkQuar_intact (hf1 _ ht))))
theorem inState_intact {n : Nat} {st : LinkState} {f : State → State} (h : Intact l s) (hf1 : ∀ t, Intact l t → Intact l (f t)) : OutIntact l (inState
    n st s f) := onLink_intact h (fun _ ht => intact_then ht (fun hs => hf1 _ hs))
theorem execPartnerLock_intact {n : Nat} (h : Intact l s) : OutIntact l (execPartnerLock n s) := inState_intact h (fun _ ht => setLink_intact ht)
theorem execEqualizeDone_intact {n : Nat} (h : Intact l s) : OutIntact l (execEqualizeDone n s) := inState_intact h (fun _ ht => toIdentify_intact ht)

theorem execEqualizeTimeout_intact {n : Nat} {lanes : List Nat} (h : Intact l s) : OutIntact l (execEqualizeTimeout n lanes s) := by
  unfold execEqualizeTimeout
  dsimp only
  refine inState_intact h (fun _ ht => ?_)
  split
  next e =>
    exact toIdentify_intact (degrade_intact (markLanes_intact (untilTime_intact ht)) _ e)
  · exact goDown_intact (markLanes_intact (untilTime_intact ht))

theorem execTrainId_intact {n version role lanes : Nat} {marked degradeOk : Bool} (h : Intact l s) : OutIntact l (execTrainId n version role lanes
    marked degradeOk s) := onLink_intact h (fun _ ht => trainId_intact ht)
theorem execTrainCredit_intact {n : Nat} {adv : List Nat} (h : Intact l s) : OutIntact l (execTrainCredit n adv s) :=
  onLink_intact h (fun _ ht => trainCredit_intact ht)
theorem execTrainDone_intact {n : Nat} (h : Intact l s) : OutIntact l (execTrainDone n s) := onLink_intact h (fun _ ht => trainDone_intact ht)
theorem execIdentifyTimeout_intact {n : Nat} (h : Intact l s) : OutIntact l (execIdentifyTimeout n s) :=
  inState_intact h (fun _ ht => note_intact (goDown_intact (untilTime_intact ht)))
theorem execConfigTimeout_intact {n : Nat} (h : Intact l s) : OutIntact l (execConfigTimeout n s) :=
  inState_intact h (fun _ ht => note_intact (goDown_intact (untilTime_intact ht)))
theorem execRetrainTimeout_intact {n : Nat} (h : Intact l s) : OutIntact l (execRetrainTimeout n s) :=
  inState_intact h (fun _ ht => partnerLost_intact (untilTime_intact ht))
theorem execRetrainDone_intact {n : Nat} {good : List Nat} (h : Intact l s) : OutIntact l (execRetrainDone n good s) :=
  inState_intact h (fun _ ht => retrainDone_intact ht)
theorem execDownTimeout_intact {n : Nat} (h : Intact l s) : OutIntact l (execDownTimeout n s) :=
  inState_intact h (fun _ ht => modLport_intact (setLink_intact (markLanes_intact (untilTime_intact ht))))
theorem execPartnerLoss_intact {n : Nat} (h : Intact l s) : OutIntact l (execPartnerLoss n s) :=
  onLink_intact h (fun _ ht => intact_then ht partnerLost_intact)
theorem execLaneFail_intact {n lane : Nat} (h : Intact l s) : OutIntact l (execLaneFail n lane s) :=
  inState_intact h (fun _ ht => intact_then ht failLanes_intact)
theorem execLaneLossOfSignal_intact {n : Nat} {lanes : List Nat} (h : Intact l s) : OutIntact l (execLaneLossOfSignal n lanes s) :=
  onLink_intact h (fun _ ht => intact_then ht failLanes_intact)
theorem execBeaconTimer_intact {n : Nat} (h : Intact l s) : OutIntact l (execBeaconTimer n s) :=
  inState_intact h (fun _ ht => emit_intact (modLink_intact (untilTime_intact ht)))
theorem execBeaconLoss_intact {n : Nat} (h : Intact l s) : OutIntact l (execBeaconLoss n s) :=
  inState_intact h (fun _ ht => partnerLost_intact (untilTime_intact ht))
theorem execLowPowerExit_intact {n : Nat} (h : Intact l s) : OutIntact l (execLowPowerExit n s) :=
  inState_intact h (fun _ ht => pump_intact (modLink_intact (setLink_intact (wakeChip_intact ht))))
theorem execCodewordReceived_intact {n : Nat} {rs : Bool} {corrected : Nat} {cw : Codeword} (h : Intact l s) : OutIntact l (execCodewordReceived n rs
    corrected cw s) := inState_intact h (fun _ ht => codeword_intact ht)
theorem execIdle_intact {_n : Nat} (h : Intact l s) : OutIntact l (execIdle _n s) := live_intact h (fun _ ht => ht)
theorem execStatus_intact {n ack : Nat} {valid : Bool} {credits : List Nat} (h : Intact l s) : OutIntact l (execStatus n ack valid credits s) :=
  inState_intact h (fun _ ht => hoodCheck_intact (gotStatus_intact ht))
theorem execNak_intact {n seq : Nat} (h : Intact l s) : OutIntact l (execNak n seq s) := inState_intact h (fun _ ht => gotNak_intact ht)
theorem execReplay_intact {n seq : Nat} (h : Intact l s) : OutIntact l (execReplay n seq s) := inState_intact h (fun _ ht => gotReplay_intact ht)
theorem execEscape_intact {n : Nat} (h : Intact l s) : OutIntact l (execEscape n s) :=
  inState_intact h (fun _ ht => intact_then (modLink_intact ht) (fun hs => linkDropped_intact (modLink_intact hs)))

theorem execAckTimeout_intact {n : Nat} (h : Intact l s) : OutIntact l (execAckTimeout n s) := by
  unfold execAckTimeout
  refine inState_intact h (fun _ ht => ?_)
  split
  · exact ht
  · exact replayOrRetrain_intact (untilTime_intact ht)

theorem execNakRepeat_intact {n : Nat} (h : Intact l s) : OutIntact l (execNakRepeat n s) := by
  unfold execNakRepeat
  dsimp only
  refine inState_intact h (fun _ ht => ?_)
  split
  · exact ht
  · exact sendNak_intact (untilTime_intact ht)

theorem execStatusTimer_intact {n : Nat} (h : Intact l s) : OutIntact l (execStatusTimer n s) :=
  inState_intact h (fun _ ht => sendStatus_intact (untilTime_intact ht))
theorem execSecureFrame_intact {n slot ctr : Nat} {data : List Byte} {tag : BitVec 128} (h : Intact l s) : OutIntact l (execSecureFrame n slot ctr
    data tag s) := inState_intact h (fun _ ht => secureFrame_intact ht)
theorem execLpReq_intact {n : Nat} (h : Intact l s) : OutIntact l (execLpReq n s) :=
  inState_intact h (fun _ ht => intact_ite (tryLowPower_intact (emit_intact (modLink_intact ht))) (emit_intact ht))

theorem execTunnelFrame_intact {n seq ack flits : Nat} {fcs : Bool} (h : Intact l s) : OutIntact l (execTunnelFrame n seq ack flits fcs s) := by
  unfold execTunnelFrame
  dsimp only
  refine inState_intact h (fun _ ht => ?_)
  split
  · exact ht
  · exact intact_ite (bump_intact ht) (pump_intact (intact_then (modLink_intact (modLport_intact ht)) bump_intact))

theorem execPfcFrame_intact {n : Nat} {quanta : List (Nat × Nat)} (h : Intact l s) : OutIntact l (execPfcFrame n quanta s) :=
  inState_intact h (fun _ ht => modLport_intact ht)

theorem execTunRto_intact {n : Nat} (h : Intact l s) : OutIntact l (execTunRto n s) := by
  unfold execTunRto
  dsimp only
  refine inState_intact h (fun _ ht => ?_)
  split
  · exact ht
  · exact intact_else ht (fun hs => modLport_intact (intact_foldl (fun _ _ hs1 => emit_intact hs1) (untilTime_intact hs)))

theorem execTunDead_intact {n : Nat} (h : Intact l s) : OutIntact l (execTunDead n s) := by
  unfold execTunDead
  refine onLink_intact h (fun _ ht => ?_)
  split
  · exact ht
  · exact intact_then ht (fun hs => partnerLost_intact (untilTime_intact hs))

theorem execTunnelKeepalive_intact {n : Nat} (h : Intact l s) : OutIntact l (execTunnelKeepalive n s) := by
  unfold execTunnelKeepalive
  dsimp only
  refine inState_intact h (fun _ ht => ?_)
  split
  · exact ht
  · exact emit_intact (modLport_intact (untilTime_intact ht))

theorem execHbLinkLoss_intact {bridge : Nat} (h : Intact l s) : OutIntact l (execHbLinkLoss bridge s) :=
  live_intact h (fun _ ht => intact_then ht (fun hs => note_intact (bridgeDown_intact hs)))

theorem execPortRetrain_intact {c : Cmd} (h : Intact l s) : OutIntact l (execPortRetrain c s) :=
  live_intact h (fun _ ht => runCmd_intact ht (fun _ hu => intact_ite (complete_intact hu) (intact_ite (complete_intact hu) (toRetrain_intact
    (modLport_intact hu)))))

theorem execPortRelease_intact {c : Cmd} (h : Intact l s) : OutIntact l (execPortRelease c s) :=
  live_intact h (fun _ ht => runCmd_intact ht (fun _ hu => intact_ite (complete_intact hu) (intact_ite (complete_intact hu) (complete_intact
    (setLink_intact hu)))))

theorem execPortLinkStats_intact {c : Cmd} (h : Intact l s) : OutIntact l (execPortLinkStats c s) :=
  live_intact h (fun _ ht => runCmd_intact ht (fun _ hu => intact_ite (complete_intact hu) (complete_intact hu)))

theorem execPortSetGateway_intact {c : Cmd} (h : Intact l s) : OutIntact l (execPortSetGateway c s) :=
  live_intact h (fun _ ht => runCmd_intact ht (fun _ hu => intact_ite (complete_intact hu) (intact_ite (complete_intact hu) (complete_intact
    (modLport_intact (intact_with hu))))))

/-! ### Power: the meanings of the events and commands of power, clocks and thermal limits -/

theorem execInputLow_intact (h : Intact l s) : OutIntact l (execInputLow s) :=
  live_intact h (fun _ ht => intact_else ht (fun hs => report_intact (modPower_intact hs)))
theorem execInputRecover_intact (h : Intact l s) : OutIntact l (execInputRecover s) := live_intact h (fun _ ht => modPower_intact ht)
theorem switchRef_intact {b : Nat} {ports : List Nat} (h : Intact l s) : Intact l (switchRef s b ports) :=
  intact_foldl (fun _ _ ht => toRetrain_intact ht) (bump_intact (modPower_intact h))
theorem execRefclkLost_intact {b : Nat} {ports : List Nat} (h : Intact l s) : OutIntact l (execRefclkLost b ports s) :=
  live_intact h (fun _ ht => intact_else ht (fun hs => intact_then (modPower_intact hs) switchRef_intact))
theorem execRefclkRestored_intact {b : Nat} (h : Intact l s) : OutIntact l (execRefclkRestored b s) :=
  live_intact h (fun _ ht => intact_else ht (fun hs => intact_then (modPower_intact hs) switchRef_intact))
theorem execRefclkSwitchback_intact {ports : List Nat} (h : Intact l s) : OutIntact l (execRefclkSwitchback ports s) :=
  live_intact h (fun _ ht => intact_else ht (fun hs => switchRef_intact (untilTime_intact hs)))
theorem execRefclkBothLost_intact (h : Intact l s) : OutIntact l (execRefclkBothLost s) :=
  live_intact h (fun _ ht => haltSwitch_intact (modPower_intact ht))
theorem execRegionIdleTrim_intact {r : Nat} (h : Intact l s) : OutIntact l (execRegionIdleTrim r s) :=
  live_intact h (fun _ ht => intact_else ht (fun hs => trimRegion_intact (untilTime_intact hs)))
theorem execChipHoodEntry_intact (h : Intact l s) : OutIntact l (execChipHoodEntry s) :=
  live_intact h (fun _ ht => intact_else ht (fun hs => hoodCheck_intact (askHood_intact (untilTime_intact hs))))
theorem execLpAck_intact {n : Nat} (h : Intact l s) : OutIntact l (execLpAck n s) :=
  live_intact h (fun _ ht => intact_else ht (fun hs => hoodCheck_intact (modPower_intact (tryLowPower_intact (modLink_intact hs)))))
theorem execLpNak_intact {n : Nat} (h : Intact l s) : OutIntact l (execLpNak n s) :=
  live_intact h (fun _ ht => intact_else ht (fun hs => hoodRefused_intact (modLink_intact hs)))

theorem execLpAckTimeout_intact (h : Intact l s) : OutIntact l (execLpAckTimeout s) := by
  unfold execLpAckTimeout
  refine live_intact h (fun _ ht => ?_)
  split
  · exact ht
  · exact intact_else ht (fun hs => hoodRefused_intact (untilTime_intact hs))

theorem execWake_intact {regions : List Nat} (h : Intact l s) : OutIntact l (execWake regions s) :=
  live_intact h (fun _ ht => intact_foldl (fun _ _ hu => wakeRegion_intact hu) (wakeChip_intact ht))

theorem execPowerSetState_intact {c : Cmd} (h : Intact l s) : OutIntact l (execPowerSetState c s) := by
  unfold execPowerSetState
  dsimp only
  refine live_intact h (fun _ ht => runCmd_intact ht (fun _ hu => ?_))
  split
  · exact complete_intact hu
  · exact intact_ite (complete_intact hu) (intact_ite (complete_intact hu) (intact_ite (complete_intact hu) (intact_then (trySetState_intact
      (modPower_intact hu)) (fun hs => complete_intact (modPower_intact hs)))))

theorem execPowerStateDrainTimeout_intact (h : Intact l s) : OutIntact l (execPowerStateDrainTimeout s) := by
  unfold execPowerStateDrainTimeout
  dsimp only
  refine live_intact h (fun _ ht => ?_)
  split
  · exact ht
  · exact intact_else ht (fun hs => intact_then (trySetState_intact (untilTime_intact hs)) (fun hs => complete_intact (modPower_intact (unhood_intact
      hs))))

theorem execPowerSetRegion_intact {c : Cmd} (h : Intact l s) : OutIntact l (execPowerSetRegion c s) :=
  live_intact h (fun _ ht => runCmd_intact ht (fun _ hu => intact_ite (complete_intact hu) (intact_ite (complete_intact hu) (complete_intact
    (intact_ite (wakeRegion_intact (modRegionPow_intact hu)) (intact_ite (trimRegion_intact hu) (followRegions_intact (modRegionPow_intact hu))))))))

theorem execPowerStats_intact {c : Cmd} (h : Intact l s) : OutIntact l (execPowerStats c s) :=
  live_intact h (fun _ ht => runCmd_intact ht (fun _ hu => complete_intact hu))

theorem thermTick_intact {r : Nat} (h : Intact l s) : Intact l (thermTick s r) := by
  unfold thermTick
  dsimp only
  exact modRegionPow_intact h

theorem capTick_intact {r : Nat} (h : Intact l s) : Intact l (capTick s r) := by
  unfold capTick
  dsimp only
  exact modRegionPow_intact h

theorem freqTick_intact {r : Nat} (h : Intact l s) : Intact l (freqTick s r) := capFreq_intact (modRegionPow_intact (bumpFree_intact h))

theorem execPowerTick_intact {vin pin : Nat} (h : Intact l s) : OutIntact l (execPowerTick vin pin s) :=
  live_intact h (fun _ ht => intact_then (modPower_intact (intact_foldl (fun _ _ hu => freqTick_intact (capTick_intact (thermTick_intact hu)))
    (modPower_intact ht))) bumpBy_intact)

theorem execCapTrim_intact (h : Intact l s) : OutIntact l (execCapTrim s) := by
  unfold execCapTrim
  dsimp only
  refine live_intact h (fun _ ht => ?_)
  split
  · split
    · exact ht
    · exact modPower_intact (bump_intact (trimRegion_intact (untilTime_intact ht)))
  · split
    · exact ht
    · exact intact_then ht (fun hs => modRegionPow_intact (modPower_intact (untilTime_intact hs)))

theorem execCurrentGuard_intact (h : Intact l s) : OutIntact l (execCurrentGuard s) :=
  live_intact h (fun _ ht => intact_else (modPower_intact ht) (fun hs => bump_intact (modPower_intact hs)))
theorem execGuardRelease_intact (h : Intact l s) : OutIntact l (execGuardRelease s) :=
  live_intact h (fun _ ht => intact_else ht (fun hs => modPower_intact (untilTime_intact hs)))
theorem episode_intact {r detail : Nat} (h : Intact l s) : Intact l (episode s r detail) := report_intact (bump_intact (throttleLog_intact h))

theorem execThermSample_intact {n : Nat} {t : ℤ} (h : Intact l s) : OutIntact l (execThermSample n t s) :=
  live_intact h (fun _ hu => intact_else hu (fun hs => intact_ite (intact_ite (episode_intact (capFreq_intact (modRegionPow_intact (modPower_intact
    (intact_then hs keepSample_intact))))) (intact_ite (modRegionPow_intact (modPower_intact (intact_then hs keepSample_intact))) (intact_then
    (modPower_intact (intact_then hs keepSample_intact)) modRegionPow_intact))) (intact_ite (intact_ite (report_intact (bump_intact
    (throttleLog_intact (modPower_intact (modPower_intact (intact_then hs keepSample_intact)))))) (intact_then (modPower_intact (intact_then hs
    keepSample_intact)) modPower_intact)) (intact_then (modPower_intact (modPower_intact (intact_then hs keepSample_intact))) (fun hs => report_intact
    (bump_intact (throttleLog_intact (intact_foldl (fun _ _ hv => capFreq_intact (modRegionPow_intact hv)) hs))))))))

theorem execThermalHold_intact {r : Nat} (h : Intact l s) : OutIntact l (execThermalHold r s) := by
  unfold execThermalHold
  refine live_intact h (fun _ ht => ?_)
  split
  · exact ht
  · exact intact_else ht (fun hs => trimRegion_intact (untilTime_intact hs))

theorem tripCommands_intact (h : Intact l s) : Intact l (tripCommands s) :=
  intact_foldl (fun _ _ ht => complete_intact ht) (intact_foldl (fun _ _ ht => intact_foldl (fun _ _ hu => complete_intact hu) ht) h)

theorem execThermalTrip_intact (h : Intact l s) : OutIntact l (execThermalTrip s) := by
  unfold execThermalTrip
  dsimp only
  refine live_intact h (fun _ ht => report_intact (modPower_intact (enterPilot_intact ?_)))
  split
  · exact complete_intact (modPower_intact (bridgesDown_intact (intact_with (tripCommands_intact (intact_foldl (fun _ _ ht1 => goDown_intact ht1)
      ht)))))
  · exact bridgesDown_intact (intact_with (tripCommands_intact (intact_foldl (fun _ _ ht1 => goDown_intact ht1) ht)))

theorem execNeighbourCompare_intact (h : Intact l s) : OutIntact l (execNeighbourCompare s) :=
  live_intact h (fun _ ht => intact_foldl (fun _ _ hu => intact_ite (capFreq_intact (modRegionPow_intact (intact_then hu throttleLog_intact)))
    (intact_ite (modRegionPow_intact hu) (intact_then hu modRegionPow_intact))) (modPower_intact (untilTime_intact ht)))

theorem execNeighbourTrim_intact {r : Nat} (h : Intact l s) : OutIntact l (execNeighbourTrim r s) := by
  unfold execNeighbourTrim
  dsimp only
  refine live_intact h (fun _ ht => ?_)
  split
  · exact ht
  · exact intact_else ht (fun hs => report_intact (trimRegion_intact (untilTime_intact hs)))

/-! ### ArbCore: the block arbiter -/

theorem modBankArb_intact {b : Nat} {f : BlockArb → BlockArb} (h : Intact l s) : Intact l (modBankArb s b f) := modBlk_intact h

theorem bankStep_intact {j : Job} {words : List Byte → Nat → Block → List (ArbPort × Nat)} (h : Intact l s) : Intact l (bankStep s j words) := by
  unfold bankStep
  split
  · split
    · exact modBankArb_intact h
    · exact h
  · exact h

/-! ### Progs: the meanings of the events of steps -/

theorem fenceFaults_intact (h : Intact l s) : Intact l (fenceFaults s) := intact_foldl (fun _ _ ht => intact_then ht fence_intact) h
theorem afterFaults_intact {before : State} (h : Intact l before) (hs : Intact l s) : Intact l (afterFaults before s) :=
  fenceFaults_intact (intact_foldl (fun _ _ ht => intact_then (bumpFree_intact ht) collBlock_intact) hs)

theorem stepStart_intact {u : Nat} {bad : List Nat} (h : Intact l s) : Intact l (stepStart s u bad) := by
  unfold stepStart
  dsimp only
  split
  · exact h
  · split
    · exact h
    · split
      · split
        · split
          · exact h
          · split
            · split
              · exact intact_else (intact_ite h (wakeRegion_intact h)) (fun hs => intact_ite (abandon_intact hs) (runStep_intact (bankStep_intact
                  (chooseShadow_intact hs))))
              · exact intact_ite h (intact_ite (abandon_intact h) (runStep_intact (bankStep_intact (chooseShadow_intact h))))
            · split
              · exact intact_else (afterFaults_intact (intact_ite h (wakeRegion_intact h)) (wordErrors_intact (intact_ite h (wakeRegion_intact h))))
                  (fun hs => intact_ite (abandon_intact hs) (runStep_intact (bankStep_intact (chooseShadow_intact hs))))
              · exact intact_else (afterFaults_intact h (wordErrors_intact h)) (fun hs => intact_ite (abandon_intact hs) (runStep_intact
                  (bankStep_intact (chooseShadow_intact hs))))
        · split
          · exact wakeRegion_intact h
          · split
            · split
              · exact intact_else (intact_ite h (wakeRegion_intact h)) (fun hs => intact_ite (abandon_intact hs) (runStep_intact (bankStep_intact
                  (chooseShadow_intact hs))))
              · exact intact_ite h (intact_ite (abandon_intact h) (runStep_intact (bankStep_intact (chooseShadow_intact h))))
            · split
              · exact intact_else (afterFaults_intact (intact_ite h (wakeRegion_intact h)) (wordErrors_intact (intact_ite h (wakeRegion_intact h))))
                  (fun hs => intact_ite (abandon_intact hs) (runStep_intact (bankStep_intact (chooseShadow_intact hs))))
              · exact intact_else (afterFaults_intact h (wordErrors_intact h)) (fun hs => intact_ite (abandon_intact hs) (runStep_intact
                  (bankStep_intact (chooseShadow_intact hs))))
      · split
        · exact h
        · split
          · exact intact_else (intact_ite h (wakeRegion_intact h)) (fun hs => intact_ite (abandon_intact hs) (runStep_intact (bankStep_intact
              (chooseShadow_intact hs))))
          · exact intact_ite h (intact_ite (abandon_intact h) (runStep_intact (bankStep_intact (chooseShadow_intact h))))

theorem execStepStart_intact {u : Nat} (h : Intact l s) : OutIntact l (execStepStart u s) :=
  live_intact h (fun _ ht => settle_intact hooks_intact (stepStart_intact ht))

theorem stepResume_intact {u : Nat} (h : Intact l s) : Intact l (stepResume s u) := by
  unfold stepResume
  split
  · exact h
  · exact intact_ite h (runStep_intact (stallEnd_intact h))

theorem execStepResume_intact {u : Nat} (h : Intact l s) : OutIntact l (execStepResume u s) :=
  live_intact h (fun _ ht => settle_intact hooks_intact (stepResume_intact ht))

theorem stepCommit_intact {u : Nat} {bad : List Nat} (h : Intact l s) : Intact l (stepCommit s u bad) := by
  unfold stepCommit
  split
  · exact h
  · exact intact_ite h (afterFaults_intact h (finishStep_intact (intact_ite (bankStep_intact h) h)))

theorem execStepCommit_intact {u : Nat} {bad : List Nat} (h : Intact l s) : OutIntact l (execStepCommit u bad s) :=
  live_intact h (fun _ ht => settle_intact hooks_intact (stepCommit_intact ht))

theorem configScrub_intact {b : Nat} {bad : List Nat} (h : Intact l s) : Intact l (configScrub s b bad) :=
  intact_else (modBlk_intact (untilTime_intact h)) (fun hs => afterFaults_intact hs (intact_foldl (fun _ _ ht => replayOr_intact ht) (intact_else hs
    wordErrors_intact)))

theorem execConfigScrub_intact {b : Nat} {bad : List Nat} (h : Intact l s) : OutIntact l (execConfigScrub b bad s) :=
  live_intact h (fun _ ht => intact_ite ht (settle_intact hooks_intact (configScrub_intact ht)))
theorem execBlockArbGrant_intact {b : Nat} (h : Intact l s) : OutIntact l (execBlockArbGrant b s) :=
  live_intact h (fun _ ht => intact_else ht modBankArb_intact)

theorem execBlockArbPromote_intact {b request : Nat} (h : Intact l s) : OutIntact l (execBlockArbPromote b request s) := by
  unfold execBlockArbPromote
  refine live_intact h (fun _ ht => ?_)
  split
  · exact ht
  · split
    · exact ht
    · exact modBankArb_intact (untilTime_intact ht)

theorem shadowCompare_intact {u : Nat} {same : Bool} (h : Intact l s) : Intact l (shadowCompare s u same) := by
  unfold shadowCompare
  split
  · exact h
  · split
    · exact h
    · exact intact_ite h (intact_ite (modJob_intact h) (modJob_intact h))

theorem execShadowCompare_intact {u : Nat} {same : Bool} (h : Intact l s) : OutIntact l (execShadowCompare u same s) :=
  live_intact h (fun _ ht => settle_intact hooks_intact (shadowCompare_intact ht))

theorem verdict_intact {u row : Nat} (h : Intact l s) : Intact l (verdict s u row) := by
  unfold verdict
  dsimp only
  split
  · exact h
  · split
    · split
      · exact h
      · split
        · exact finishStep_intact (modJob_intact (blockFault_intact (intact_else (intact_else (bump_intact (bumpBy_intact h)) fingerprint_intact)
            fingerprint_intact)))
        · exact blockFault_intact (finishStep_intact (modJob_intact (intact_else (intact_else (bump_intact (bumpBy_intact h)) fingerprint_intact)
            fingerprint_intact)))
        · exact intact_ite (blockFault_intact (abandon_intact (blockFault_intact (modJob_intact (intact_else (intact_else (bump_intact (bumpBy_intact
            h)) fingerprint_intact) fingerprint_intact))))) (blockFault_intact (replay_intact (modJob_intact (blockFault_intact (modJob_intact
            (intact_else (intact_else (bump_intact (bumpBy_intact h)) fingerprint_intact) fingerprint_intact))))))
    · exact h

theorem execRefereeDone_intact {u row : Nat} (h : Intact l s) : OutIntact l (execRefereeDone u row s) :=
  live_intact h (fun _ ht => settle_intact hooks_intact (afterFaults_intact ht (verdict_intact ht)))
theorem loadImage.zeroProg_intact {i : Nat} (h : Intact l s) : Intact l (loadImage.zeroProg s i) := intact_with h

theorem loadImage_intact {c : Cmd} {part : Nat} {lib : Option Nat} {image : List Byte} (h : Intact l s) :
    Intact l (loadImage s c part lib image) := by
  unfold loadImage
  split
  · exact complete_intact h
  · exact complete_intact h
  next e =>
    have bound := bindInst_intact h _ e
    split
    · exact complete_intact (loadImage.zeroProg_intact bound)
    · exact bound

theorem execProgLoadLib_intact {c : Cmd} (h : Intact l s) : OutIntact l (execProgLoadLib c s) := by
  unfold execProgLoadLib
  dsimp only
  refine live_intact h (fun _ ht => runCmd_intact ht (fun _ hu => ?_))
  split
  · exact complete_intact hu
  · split
    · exact complete_intact hu
    · split
      · exact complete_intact hu
      · exact settle_intact hooks_intact (loadImage_intact hu)

theorem execProgLoad_intact {c : Cmd} (h : Intact l s) : OutIntact l (execProgLoad c s) := by
  unfold execProgLoad
  dsimp only
  refine live_intact h (fun _ ht => runCmd_intact ht (fun _ hu => ?_))
  split
  · exact complete_intact hu
  · exact settle_intact hooks_intact (loadImage_intact hu)

theorem execProgReplace_intact {c : Cmd} (h : Intact l s) : OutIntact l (execProgReplace c s) := by
  unfold execProgReplace
  dsimp only
  refine live_intact h (fun _ ht => runCmd_intact ht (fun _ hu => ?_))
  split
  · exact complete_intact hu
  · split
    · exact complete_intact hu
    · exact intact_ite (complete_intact hu) (intact_ite (complete_intact hu) (intact_ite (complete_intact hu) (intact_ite (complete_intact hu)
        (settle_intact hooks_intact (intact_else (modInst_intact hu) applyReplace_intact)))))

theorem execProgUnload_intact {c : Cmd} (h : Intact l s) : OutIntact l (execProgUnload c s) := by
  unfold execProgUnload
  dsimp only
  refine live_intact h (fun _ ht => runCmd_intact ht (fun _ hu => ?_))
  split
  · exact complete_intact hu
  · exact settle_intact hooks_intact (unloadGo_intact (intact_foldl (fun _ _ ht1 => holdEnd_intact (refuse_intact ht1)) (modInst_intact hu)))

theorem progRead_intact {c : Cmd} {f : Nat → Inst → State} (h : Intact l s) (hf1 : ∀ a0 a1, Intact l (f a0 a1)) : Intact l (progRead s c f) := by
  unfold progRead
  split
  · exact complete_intact h
  · exact hf1 _ _

theorem execProgInfo_intact {c : Cmd} (h : Intact l s) : OutIntact l (execProgInfo c s) :=
  live_intact h (fun _ ht => runCmd_intact ht (fun _ hu => progRead_intact hu (fun _ _ => complete_intact hu)))
theorem execProgCellRead_intact {c : Cmd} (h : Intact l s) : OutIntact l (execProgCellRead c s) :=
  live_intact h (fun _ ht => runCmd_intact ht (fun _ hu => progRead_intact hu (fun _ _ => intact_ite (complete_intact hu) (complete_intact hu))))
theorem execProgStalls_intact {c : Cmd} (h : Intact l s) : OutIntact l (execProgStalls c s) :=
  live_intact h (fun _ ht => runCmd_intact ht (fun _ hu => progRead_intact (restall_intact hu) (fun _ _ => complete_intact (restall_intact hu))))
theorem execProgCounters_intact {c : Cmd} (h : Intact l s) : OutIntact l (execProgCounters c s) :=
  live_intact h (fun _ ht => runCmd_intact ht (fun _ hu => progRead_intact hu (fun _ _ => complete_intact hu)))
theorem execProgSetSigner_intact {c : Cmd} (h : Intact l s) : OutIntact l (execProgSetSigner c s) :=
  live_intact h (fun _ ht => runCmd_intact ht (fun _ hu => complete_intact (tdiFault_intact (modFab_intact hu))))
theorem execProgSetQuota_intact {c : Cmd} (h : Intact l s) : OutIntact l (execProgSetQuota c s) :=
  live_intact h (fun _ ht => runCmd_intact ht (fun _ hu => intact_ite (complete_intact hu) (complete_intact (modFab_intact hu))))

/-! ### Requests: the meanings of Jarti requests and responses as they arrive at the switch, and of the events of 02_jarti_transactions.md -/

theorem arriveReq_intact {op : Op} {p : Req} (h : Intact l s) : Intact l (arriveReq op p s) :=
  intact_ite h (checkQuar_intact (intact_else (arrive_intact hooks_intact (capture_intact h)) (fun ht => payCredits_intact (intact_with ht))))
theorem execLoad_intact {p : Req} (h : Intact l s) : OutIntact l (execLoad p s) := live_intact h (fun _ ht => arriveReq_intact ht)
theorem execStore_intact {p : Req} (h : Intact l s) : OutIntact l (execStore p s) := live_intact h (fun _ ht => arriveReq_intact ht)
theorem execStoreClearPoison_intact {p : Req} (h : Intact l s) : OutIntact l (execStoreClearPoison p s) :=
  live_intact h (fun _ ht => arriveReq_intact ht)
theorem execCopy_intact {p : Req} (h : Intact l s) : OutIntact l (execCopy p s) := live_intact h (fun _ ht => arriveReq_intact ht)
theorem execAtomicAdd_intact {p : Req} (h : Intact l s) : OutIntact l (execAtomicAdd p s) := live_intact h (fun _ ht => arriveReq_intact ht)
theorem execAtomicMin_intact {p : Req} (h : Intact l s) : OutIntact l (execAtomicMin p s) := live_intact h (fun _ ht => arriveReq_intact ht)
theorem execAtomicMax_intact {p : Req} (h : Intact l s) : OutIntact l (execAtomicMax p s) := live_intact h (fun _ ht => arriveReq_intact ht)
theorem execAtomicAnd_intact {p : Req} (h : Intact l s) : OutIntact l (execAtomicAnd p s) := live_intact h (fun _ ht => arriveReq_intact ht)
theorem execAtomicOr_intact {p : Req} (h : Intact l s) : OutIntact l (execAtomicOr p s) := live_intact h (fun _ ht => arriveReq_intact ht)
theorem execAtomicXor_intact {p : Req} (h : Intact l s) : OutIntact l (execAtomicXor p s) := live_intact h (fun _ ht => arriveReq_intact ht)
theorem execAtomicSwap_intact {p : Req} (h : Intact l s) : OutIntact l (execAtomicSwap p s) := live_intact h (fun _ ht => arriveReq_intact ht)
theorem execAtomicCas_intact {p : Req} (h : Intact l s) : OutIntact l (execAtomicCas p s) := live_intact h (fun _ ht => arriveReq_intact ht)
theorem execFence_intact {p : Req} (h : Intact l s) : OutIntact l (execFence p s) := live_intact h (fun _ ht => arriveReq_intact ht)
theorem execOpenVersion_intact {p : Req} (h : Intact l s) : OutIntact l (execOpenVersion p s) := live_intact h (fun _ ht => arriveReq_intact ht)
theorem execCloseVersion_intact {p : Req} (h : Intact l s) : OutIntact l (execCloseVersion p s) := live_intact h (fun _ ht => arriveReq_intact ht)
theorem execPublish_intact {p : Req} (h : Intact l s) : OutIntact l (execPublish p s) := live_intact h (fun _ ht => arriveReq_intact ht)
theorem execRdShared_intact {p : Req} (h : Intact l s) : OutIntact l (execRdShared p s) := live_intact h (fun _ ht => arriveReq_intact ht)
theorem execRdOwn_intact {p : Req} (h : Intact l s) : OutIntact l (execRdOwn p s) := live_intact h (fun _ ht => arriveReq_intact ht)
theorem execUpgrade_intact {p : Req} (h : Intact l s) : OutIntact l (execUpgrade p s) := live_intact h (fun _ ht => arriveReq_intact ht)
theorem execWbDirty_intact {p : Req} (h : Intact l s) : OutIntact l (execWbDirty p s) := live_intact h (fun _ ht => arriveReq_intact ht)
theorem execEvictClean_intact {p : Req} (h : Intact l s) : OutIntact l (execEvictClean p s) := live_intact h (fun _ ht => arriveReq_intact ht)
theorem execSnpInv_intact {p : Req} (h : Intact l s) : OutIntact l (execSnpInv p s) := live_intact h (fun _ ht => arriveReq_intact ht)
theorem execSnpShare_intact {p : Req} (h : Intact l s) : OutIntact l (execSnpShare p s) := live_intact h (fun _ ht => arriveReq_intact ht)
theorem execCollContrib_intact {p : Req} (h : Intact l s) : OutIntact l (execCollContrib p s) := live_intact h (fun _ ht => arriveReq_intact ht)
theorem execCollPartial_intact {p : Req} (h : Intact l s) : OutIntact l (execCollPartial p s) := live_intact h (fun _ ht => arriveReq_intact ht)
theorem execCollDeliver_intact {p : Req} (h : Intact l s) : OutIntact l (execCollDeliver p s) := live_intact h (fun _ ht => arriveReq_intact ht)
theorem execGather_intact {p : Req} (h : Intact l s) : OutIntact l (execGather p s) := live_intact h (fun _ ht => arriveReq_intact ht)
theorem execScatter_intact {p : Req} (h : Intact l s) : OutIntact l (execScatter p s) := live_intact h (fun _ ht => arriveReq_intact ht)
theorem execSearch_intact {p : Req} (h : Intact l s) : OutIntact l (execSearch p s) := live_intact h (fun _ ht => arriveReq_intact ht)
theorem execAttend_intact {p : Req} (h : Intact l s) : OutIntact l (execAttend p s) := live_intact h (fun _ ht => arriveReq_intact ht)
theorem execFilter_intact {p : Req} (h : Intact l s) : OutIntact l (execFilter p s) := live_intact h (fun _ ht => arriveReq_intact ht)
theorem execRun_intact {p : Req} (h : Intact l s) : OutIntact l (execRun p s) := live_intact h (fun _ ht => arriveReq_intact ht)
theorem execOwnerCas_intact {p : Req} (h : Intact l s) : OutIntact l (execOwnerCas p s) := live_intact h (fun _ ht => arriveReq_intact ht)
theorem strayResp_intact {r : Resp} (h : Intact l s) : Intact l (strayResp s r) := violatePkt_intact (bump_intact h)

theorem unitRead_intact {t : TrayReq} {verify : Bool} {data : List Byte} {r : State × List Nat} {u : Nat} (h : Intact l r.1) :
    Intact l (unitRead t verify data r u).1 := by
  unfold unitRead
  dsimp only
  split
  · exact h
  · split
    · exact decideUnit_intact (intact_with h)
    · exact h

theorem trayBytes_intact {t : TrayReq} {data : List Byte} (h : Intact l s) : Intact l (trayBytes s t data) := by
  unfold trayBytes
  split
  · exact accessDone_intact h
  next e _ =>
    refine intact_ite (accessDone_intact h) (intact_ite ?_ ?_)
    · exact accessDone_intact (intact_mem h (memWf_writeBytes _ _ _ h.wf))
    · have read : Intact l ((unitsOf t.pool t.len).foldl (unitRead t e.verify data) (s, [])).1 :=
        intact_foldl_fst (fun _ _ hp => unitRead_intact hp) h
      exact intact_ite (accessDone_intact read) (readFailed_intact read)

theorem trayDone_intact {tag : Nat} {t : TrayReq} (h : Intact l s) : Intact l (trayDone s tag t) := by
  unfold trayDone
  dsimp only
  split
  · split
    · exact readFailed_intact (intact_with h)
    · split
      · exact accessDone_intact (intact_with h)
      · exact trayBytes_intact (intact_with h)
      · split
        · exact intact_ite (trayBytes_intact (intact_with h)) (readFailed_intact (intact_with h))
        · exact readFailed_intact (intact_with h)
  · split
    · exact intact_ite (blockWritten_intact (intact_with h)) (accessDone_intact (intact_with h))
    · split
      · exact accessDone_intact (abandonMove_intact (intact_with h))
      · split
        · exact intact_ite (accessDone_intact (modTier_intact (bump_intact (intact_with h)))) (accessDone_intact (modOp_intact (intact_with h)))
        · exact accessDone_intact (intact_with h)

theorem engineAnswers_intact {r : Resp} (h : Intact l s) : OptIntact l (engineAnswers s r) := by
  unfold engineAnswers
  split
  · split
    next e1 =>
      exact optIntact_some (partAnswer_intact h _ e1)
    · exact lateSearch_intact h
  · exact lateSearch_intact h

theorem trayResp_intact {r : Resp} {tag : Nat} {t : TrayReq} (h : Intact l s) : Intact l (trayResp s r tag t) :=
  intact_ite (intact_with h) (trayDone_intact h)

theorem ownResp_intact {r : Resp} (h : Intact l s) : Intact l (ownResp s r) := by
  unfold ownResp
  dsimp only
  split
  · exact groupReply_intact h
  · exact hooks_intact.respond h

theorem consumed_intact {r : Resp} (h : Intact l s) : Intact l (consumed s r) := returnCredit_intact h

theorem arriveResp_intact {r : Resp} (h : Intact l s) : Intact l (arriveResp r s) := by
  unfold arriveResp
  dsimp only
  split
  · exact h
  · split
    · exact bump_intact (capture_intact h)
    · split
      · exact checkQuar_intact (violatePkt_intact (bump_intact (consumed_intact (capture_intact h))))
      · split
        · exact checkQuar_intact (settle_intact hooks_intact (trayResp_intact (consumed_intact (capture_intact h))))
        · split
          · exact checkQuar_intact (settle_intact hooks_intact (ownResp_intact (consumed_intact (capture_intact h))))
          · split
            · exact transit_intact (capture_intact h)
            · split
              · exact settle_intact hooks_intact (hereReply_intact (consumed_intact (capture_intact h)))
              · split
                next e3 =>
                  exact settle_intact hooks_intact (engineAnswers_intact (consumed_intact (capture_intact h)) _ e3)
                · exact checkQuar_intact (strayResp_intact (consumed_intact (capture_intact h)))

theorem execCpl_intact {r : Resp} (h : Intact l s) : OutIntact l (execCpl r s) := live_intact h (fun _ ht => arriveResp_intact ht)
theorem execCplData_intact {r : Resp} (h : Intact l s) : OutIntact l (execCplData r s) := live_intact h (fun _ ht => arriveResp_intact ht)

theorem execUnanswered_intact {node tag cause : Nat} (h : Intact l s) : OutIntact l (execUnanswered node tag cause s) := by
  unfold execUnanswered
  refine live_intact h (fun _ ht => ?_)
  split
  · exact markUnanswered_intact ht
  · exact ht

theorem execSequenceGap_intact {src dst : Nat} (h : Intact l s) : OutIntact l (execSequenceGap src dst s) := by
  unfold execSequenceGap
  dsimp only
  refine live_intact h (fun _ ht => ?_)
  split
  · exact ht
  · split
    · exact ht
    · refine intact_foldl (fun _ _ ht1 => markUnanswered_intact ht1) ?_
      split
      · exact checkQuar_intact (violate_intact (note_intact (intact_with (untilTime_intact ht))))
      · exact note_intact (intact_with (untilTime_intact ht))

/-! ### Search: the meanings of the SEARCH commands and of a part sent again -/

theorem execSearchCreate_intact {c : Cmd} (h : Intact l s) : OutIntact l (execSearchCreate c s) :=
  live_intact h (fun _ ht => runCmd_intact ht (fun _ hu => tableCmd_intact hu))

theorem searchCmd_intact {c : Cmd} {sp : CmdSpec} {f : State → Nat → SearchIx → State} (h : Intact l s) (hf1 : ∀ t a1 a2, Intact l t → Intact l (f t
    a1 a2)) : Intact l (searchCmd s c sp f) := by
  unfold searchCmd
  refine runCmd_intact h (fun _ ht => ?_)
  split
  · exact intact_ite (settle_intact hooks_intact (hf1 _ _ _ ht)) (complete_intact ht)
  · exact complete_intact ht

theorem execSearchDestroy_intact {c : Cmd} (h : Intact l s) : OutIntact l (execSearchDestroy c s) :=
  live_intact h (fun _ ht => searchCmd_intact ht (fun _ _ _ hu => tellEmb_intact hu (fun _ _ _ hv => searchTake_intact hv)))

theorem execSearchQuery_intact {c : Cmd} (h : Intact l s) : OutIntact l (execSearchQuery c s) := by
  unfold execSearchQuery
  dsimp only
  refine live_intact h (fun _ ht => runCmd_intact ht (fun _ hu => ?_))
  split
  · exact complete_intact hu
  · exact intact_ite (complete_intact hu) (intact_ite (complete_intact hu) (settle_intact hooks_intact (startSearch_intact hu)))

theorem execSearchDelete_intact {c : Cmd} (h : Intact l s) : OutIntact l (execSearchDelete c s) := by
  unfold execSearchDelete
  dsimp only
  exact live_intact h (fun _ ht => searchCmd_intact ht (fun _ _ _ hu => intact_ite (complete_intact hu) (intact_foldl (fun _ _ hv => intact_then
      (relaySend_intact hv) searchTake_intact) (newRelay_intact hu))))

theorem execSearchRepair_intact {c : Cmd} (h : Intact l s) : OutIntact l (execSearchRepair c s) :=
  live_intact h (fun _ ht => searchCmd_intact ht (fun _ _ _ hu => intact_ite (complete_intact hu) (intact_ite (complete_intact hu) (intact_ite
    (complete_intact hu) (tellEmb_intact (modIndex_intact hu) (fun _ _ _ hv => searchTake_intact hv))))))

theorem execSearchInfo_intact {c : Cmd} (h : Intact l s) : OutIntact l (execSearchInfo c s) := by
  unfold execSearchInfo
  refine live_intact h (fun _ ht => runCmd_intact ht (fun _ hu => ?_))
  split
  · exact complete_intact hu
  · exact complete_intact hu

theorem execSearchStats_intact {c : Cmd} (h : Intact l s) : OutIntact l (execSearchStats c s) := by
  unfold execSearchStats
  refine live_intact h (fun _ ht => runCmd_intact ht (fun _ hu => ?_))
  split
  · exact complete_intact hu
  · exact complete_intact hu

theorem execSearchPartRetry_intact (h : Intact l s) : OutIntact l (execSearchPartRetry s) := by
  unfold execSearchPartRetry
  dsimp only
  refine live_intact h (fun _ ht => ?_)
  split
  · exact ht
  · refine settle_intact hooks_intact ?_
    split
    · exact searchGo_intact (modJob_intact (untilTime_intact ht))
    · exact modJob_intact (untilTime_intact ht)

/-! ### Security: the meanings of the commands and events of partitions, Hurricane, the Snuffer, SPDM, TDISP and IDE -/

theorem execPartCreate_intact {c : Cmd} (h : Intact l s) : OutIntact l (execPartCreate c s) := by
  unfold execPartCreate
  dsimp only
  refine live_intact h (fun _ ht => runCmd_intact ht (fun _ hu => ?_))
  split
  · exact complete_intact hu
  · split
    · exact complete_intact hu
    · split
      · exact complete_intact hu
      · exact complete_intact (intact_with (modPart_intact (bumpFree_intact hu)))

theorem execPartInfo_intact {c : Cmd} (h : Intact l s) : OutIntact l (execPartInfo c s) :=
  live_intact h (fun _ ht => runCmd_intact ht (fun _ hu => complete_intact hu))
theorem execPartSet_intact {c : Cmd} (h : Intact l s) : OutIntact l (execPartSet c s) :=
  live_intact h (fun _ ht => runCmd_intact ht (fun _ hu => intact_ite (complete_intact hu) (complete_intact (tdiFault_intact (modPart_intact hu)))))

theorem execPartAddPort_intact {c : Cmd} (h : Intact l s) : OutIntact l (execPartAddPort c s) :=
  live_intact h (fun _ ht => runCmd_intact ht (fun _ hu => intact_ite (complete_intact hu) (intact_ite (complete_intact hu) (intact_ite
    (complete_intact hu) (intact_ite (complete_intact hu) (complete_intact (tdiFault_intact (modLport_intact hu))))))))

theorem execPartRemovePort_intact {c : Cmd} (h : Intact l s) : OutIntact l (execPartRemovePort c s) :=
  live_intact h (fun _ ht => runCmd_intact ht (fun _ hu => intact_ite (complete_intact hu) (intact_ite (complete_intact hu) (complete_intact
    (tdiFault_intact (modLport_intact hu))))))

theorem tearRegion_intact {n : Nat} {x : Nat × SharedRegion} (h : Intact l s) : Intact l (tearRegion n s x) := by
  unfold tearRegion
  dsimp only
  refine intact_with (intact_foldl (fun _ _ ht => dropSid_intact ht) (intact_foldl (fun _ _ ht => endOpen_intact ht) (intact_foldl (fun _ _ ht => ?_)
      h)))
  split
  · exact intact_ite (leaveToScrub_intact ht) (leaveToScrub_intact ht)
  · exact ht

theorem tearDomain_intact {d : Nat} (h : Intact l s) : Intact l (tearDomain s d) := by
  unfold tearDomain
  dsimp only
  exact leaveLines_intact (intact_with (modDom_intact h))

theorem tearMoves_intact {n : Nat} (h : Intact l s) : Intact l (tearMoves s n) := intact_foldl (fun _ _ ht => abandonMove_intact ht) h

theorem tearStart_intact {n : Nat} {r : CmdRef} (h : Intact l s) : Intact l (tearStart s n r) :=
  unmapPart_intact (releasePart_intact (intact_foldl (fun _ _ ht => tearDomain_intact ht) (intact_foldl (fun _ _ ht => tearRegion_intact ht)
    (dropCompute_intact (tearMoves_intact (modSec_intact (modPart_intact (tdiFault_intact h))))))))

theorem execPartTeardown_intact {c : Cmd} (h : Intact l s) : OutIntact l (execPartTeardown c s) := by
  unfold execPartTeardown
  dsimp only
  refine live_intact h (fun _ ht => runCmd_intact ht (fun _ hu => ?_))
  split
  · exact complete_intact hu
  · exact settle_intact hooks_intact (tearStart_intact hu)
  · exact modSec_intact hu

theorem execScrubWriteDone_intact {part addr : Nat} {ok : Bool} (h : Intact l s) : OutIntact l (execScrubWriteDone part addr ok s) :=
  live_intact h (fun _ ht => settle_intact hooks_intact (scrubDone_intact ht))
theorem execSecAttest_intact {c : Cmd} (h : Intact l s) : OutIntact l (execSecAttest c s) :=
  live_intact h (fun _ ht => runCmd_intact ht (fun _ hu => intact_ite (complete_intact hu) (complete_intact hu)))
theorem execSecProgLog_intact {c : Cmd} (h : Intact l s) : OutIntact l (execSecProgLog c s) :=
  live_intact h (fun _ ht => runCmd_intact ht (fun _ hu => complete_intact hu))

theorem execSecLinkKexStart_intact {c : Cmd} (h : Intact l s) : OutIntact l (execSecLinkKexStart c s) := by
  unfold execSecLinkKexStart
  dsimp only
  refine live_intact h (fun _ ht => runCmd_intact ht (fun _ hu => ?_))
  split
  · exact complete_intact hu
  · split
    · exact complete_intact hu
    · exact complete_intact (kexStart_intact hu)

theorem execSecLinkKexRespond_intact {c : Cmd} (h : Intact l s) : OutIntact l (execSecLinkKexRespond c s) := by
  unfold execSecLinkKexRespond
  dsimp only
  refine live_intact h (fun _ ht => runCmd_intact ht (fun _ hu => ?_))
  split
  · exact complete_intact hu
  · split
    · exact complete_intact hu
    · exact complete_intact hu
    · exact complete_intact (kexRespond_intact hu)

theorem execSecLinkKexFinish_intact {c : Cmd} (h : Intact l s) : OutIntact l (execSecLinkKexFinish c s) := by
  unfold execSecLinkKexFinish
  dsimp only
  refine live_intact h (fun _ ht => runCmd_intact ht (fun _ hu => ?_))
  split
  · exact complete_intact hu
  · split
    · exact complete_intact hu
    · split
      · exact complete_intact (kexFinish_intact hu)
      · exact complete_intact hu

theorem execLinkKeyRotate_intact {n : Nat} (h : Intact l s) : OutIntact l (execLinkKeyRotate n s) := by
  unfold execLinkKeyRotate
  dsimp only
  exact live_intact h (fun _ ht => intact_else ht (fun hs => sendLink_intact (kexStart_intact hs)))

theorem execLinkKexExpire_intact {n : Nat} (h : Intact l s) : OutIntact l (execLinkKexExpire n s) := by
  unfold execLinkKexExpire
  refine live_intact h (fun _ ht => ?_)
  split
  · exact ht
  · exact modSec_intact (untilTime_intact ht)

theorem execPortSetPriv_intact {c : Cmd} (h : Intact l s) : OutIntact l (execPortSetPriv c s) :=
  live_intact h (fun _ ht => runCmd_intact ht (fun _ hu => intact_ite (complete_intact hu) (complete_intact (modLport_intact hu))))

theorem execPortSetCrypt_intact {c : Cmd} (h : Intact l s) : OutIntact l (execPortSetCrypt c s) :=
  live_intact h (fun _ ht => runCmd_intact ht (fun _ hu => intact_ite (complete_intact hu) (intact_ite (complete_intact (modLport_intact hu))
    (complete_intact (pump_intact (modLport_intact (modSec_intact hu)))))))

theorem execRngHealthFail_intact (h : Intact l s) : OutIntact l (execRngHealthFail s) :=
  live_intact h (fun _ ht => intact_else ht (fun hs => intact_ite (report_intact (note_intact (intact_with (modSec_intact hs)))) (intact_with
    (modSec_intact hs))))

theorem execRngRetestDone_intact {ok : Bool} (h : Intact l s) : OutIntact l (execRngRetestDone ok s) :=
  live_intact h (fun _ ht => intact_else ht (fun hs => intact_ite (intact_with (untilTime_intact hs)) (report_intact (note_intact (intact_with
    (untilTime_intact hs))))))

theorem execGetVersion_intact (h : Intact l s) : OutIntact l (execGetVersion s) := spdm_intact (fun _ ht => spdmSay_intact (modSec_intact ht)) h
theorem execGetCapabilities_intact (h : Intact l s) : OutIntact l (execGetCapabilities s) :=
  spdm_intact (fun _ ht => spdmSay_intact (modSec_intact ht)) h
theorem execNegotiateAlgorithms_intact {sigs kems : List (Nat × Nat)} {sha384 gcm raw : Bool} (h : Intact l s) : OutIntact l (execNegotiateAlgorithms
    sigs kems sha384 gcm raw s) := spdm_intact (fun _ ht => intact_ite (spdmSay_intact (modSec_intact ht)) (spdmSay_intact ht)) h
theorem execGetDigests_intact (h : Intact l s) : OutIntact l (execGetDigests s) := spdm_intact (fun _ ht => spdmSay_intact ht) h
theorem execGetCertificate_intact {slot off len : Nat} (h : Intact l s) : OutIntact l (execGetCertificate slot off len s) :=
  spdm_intact (fun _ ht => intact_ite (spdmSay_intact ht) (spdmSay_intact ht)) h
theorem execChallenge_intact {slot : Nat} {nonce : List Byte} (h : Intact l s) : OutIntact l (execChallenge slot nonce s) :=
  spdm_intact (fun _ ht => intact_ite (spdmSay_intact ht) (intact_ite (spdmSay_intact ht) (spdmSay_intact (bumpFree_intact ht)))) h
theorem execGetMeasurements_intact {op : Nat} {sign : Bool} {nonce : List Byte} (h : Intact l s) : OutIntact l (execGetMeasurements op sign nonce s)
    := spdm_intact (fun _ ht => intact_ite (spdmSay_intact ht) (spdmSay_intact ht)) h
theorem execKeyExchange_intact {ek : List Byte} (h : Intact l s) : OutIntact l (execKeyExchange ek s) :=
  spdm_intact (fun _ ht => intact_ite (spdmSay_intact ht) (spdmSay_intact (modSec_intact (bumpFree_intact ht)))) h
theorem execFinish_intact {session : Nat} {ok : Bool} (h : Intact l s) : OutIntact l (execFinish session ok s) :=
  spdm_intact (fun _ ht => intact_ite (spdmSay_intact ht) (intact_ite (spdmSay_intact (modSec_intact ht)) (spdmSay_intact (sessionEnds_intact ht)))) h
theorem execEndSession_intact {session : Nat} (h : Intact l s) : OutIntact l (execEndSession session s) :=
  inSession_intact (fun _ ht => sessionEnds_intact (spdmSay_intact ht)) h
theorem execHeartbeat_intact {session : Nat} (h : Intact l s) : OutIntact l (execHeartbeat session s) :=
  inSession_intact (fun _ ht => spdmSay_intact ht) h
theorem execKeyUpdate_intact {session : Nat} (h : Intact l s) : OutIntact l (execKeyUpdate session s) :=
  inSession_intact (fun _ ht => spdmSay_intact (modSec_intact ht)) h
theorem execVendorDefinedRequest_intact {session : Option Nat} {known : Bool} (h : Intact l s) : OutIntact l (execVendorDefinedRequest session known
    s) := spdm_intact (fun _ ht => intact_ite (spdmSay_intact ht) (intact_ite (spdmSay_intact ht) (spdmSay_intact ht))) h
theorem execSpdmUnsupported_intact {_code : Nat} (h : Intact l s) : OutIntact l (execSpdmUnsupported _code s) :=
  spdm_intact (fun _ ht => spdmSay_intact ht) h
theorem execGetTdispVersion_intact {session vf : Nat} (h : Intact l s) : OutIntact l (execGetTdispVersion session vf s) :=
  tdisp_intact (fun _ _ ht => spdmSay_intact ht) h
theorem execGetTdispCapabilities_intact {session vf : Nat} (h : Intact l s) : OutIntact l (execGetTdispCapabilities session vf s) :=
  tdisp_intact (fun _ _ ht => spdmSay_intact ht) h

theorem execLockInterfaceRequest_intact {session vf stream : Nat} (h : Intact l s) : OutIntact l (execLockInterfaceRequest session vf stream s) :=
  tdisp_intact (fun _ _ ht => intact_ite (spdmSay_intact ht) (intact_ite (spdmSay_intact ht) (spdmSay_intact (modSec_intact (bumpFree_intact
    (setTdi_intact ht)))))) h

theorem execGetDeviceInterfaceReport_intact {session vf : Nat} (h : Intact l s) : OutIntact l (execGetDeviceInterfaceReport session vf s) :=
  tdisp_intact (fun _ _ ht => intact_ite (spdmSay_intact ht) (spdmSay_intact ht)) h
theorem execGetDeviceInterfaceState_intact {session vf : Nat} (h : Intact l s) : OutIntact l (execGetDeviceInterfaceState session vf s) :=
  tdisp_intact (fun _ _ ht => spdmSay_intact ht) h

theorem execStartInterfaceRequest_intact {session vf : Nat} {nonce : List Byte} (h : Intact l s) : OutIntact l (execStartInterfaceRequest session vf
    nonce s) :=
  tdisp_intact (fun _ _ ht => intact_ite (spdmSay_intact ht) (intact_ite (spdmSay_intact ht) (spdmSay_intact (modSec_intact (setTdi_intact ht))))) h

theorem execStopInterfaceRequest_intact {session vf : Nat} (h : Intact l s) : OutIntact l (execStopInterfaceRequest session vf s) :=
  tdisp_intact (fun _ _ ht => spdmSay_intact (modSec_intact (setTdi_intact ht))) h
theorem execKeyProg_intact {session port stream x sub : Nat} (h : Intact l s) : OutIntact l (execKeyProg session port stream x sub s) :=
  inSession_intact (fun _ ht => intact_ite (spdmSay_intact ht) (spdmSay_intact (modSec_intact ht))) h
theorem execKSetGo_intact {session port stream x sub : Nat} (h : Intact l s) : OutIntact l (execKSetGo session port stream x sub s) :=
  inSession_intact (fun _ ht => intact_ite (spdmSay_intact ht) (spdmSay_intact (modSec_intact ht))) h
theorem execKSetStop_intact {session port stream x sub : Nat} (h : Intact l s) : OutIntact l (execKSetStop session port stream x sub s) :=
  inSession_intact (fun _ ht => intact_ite (spdmSay_intact ht) (spdmSay_intact (modSec_intact ht))) h

/-! ### Serve: the meanings of the ATTN and SERVE commands, of leases and of drains -/

theorem execAttnOpen_intact {c : Cmd} (h : Intact l s) : OutIntact l (execAttnOpen c s) :=
  live_intact h (fun _ ht => runCmd_intact ht (fun _ hu => tableCmd_intact hu))

theorem execAttnClose_intact {c : Cmd} (h : Intact l s) : OutIntact l (execAttnClose c s) := by
  unfold execAttnClose
  refine live_intact h (fun _ ht => runCmd_intact ht (fun _ hu => ?_))
  split
  · exact complete_intact hu
  · exact settle_intact hooks_intact (closeAttn_intact (modAttn_intact hu))

theorem execAttnStats_intact {c : Cmd} (h : Intact l s) : OutIntact l (execAttnStats c s) := by
  unfold execAttnStats
  refine live_intact h (fun _ ht => runCmd_intact ht (fun _ hu => ?_))
  split
  · exact complete_intact hu
  · exact complete_intact hu

theorem execServeCreate_intact {c : Cmd} (h : Intact l s) : OutIntact l (execServeCreate c s) :=
  live_intact h (fun _ ht => runCmd_intact ht (fun _ hu => intact_ite (complete_intact hu) (intact_ite (complete_intact hu) (intact_ite
    (complete_intact hu) (tableCmd_intact hu)))))

theorem execServeSetMap_intact {c : Cmd} (h : Intact l s) : OutIntact l (execServeSetMap c s) := by
  unfold execServeSetMap
  dsimp only
  refine live_intact h (fun _ ht => runCmd_intact ht (fun _ hu => ?_))
  split
  · exact complete_intact hu
  · exact intact_ite (complete_intact hu) (intact_ite (complete_intact hu) (tableCmd_intact hu))

theorem execServeOwnerInfo_intact {c : Cmd} (h : Intact l s) : OutIntact l (execServeOwnerInfo c s) := by
  unfold execServeOwnerInfo
  refine live_intact h (fun _ ht => runCmd_intact ht (fun _ hu => ?_))
  split
  · exact complete_intact hu
  · exact intact_ite (complete_intact hu) (complete_intact hu)

theorem execServeDestroy_intact {c : Cmd} (h : Intact l s) : OutIntact l (execServeDestroy c s) := by
  unfold execServeDestroy
  refine live_intact h (fun _ ht => runCmd_intact ht (fun _ hu => ?_))
  split
  · exact complete_intact hu
  · exact settle_intact hooks_intact (complete_intact (dropService_intact hu))

theorem execServeStats_intact {c : Cmd} (h : Intact l s) : OutIntact l (execServeStats c s) := by
  unfold execServeStats
  refine live_intact h (fun _ ht => runCmd_intact ht (fun _ hu => ?_))
  split
  · exact complete_intact hu
  · exact complete_intact hu

theorem execServeLeaseEnd_intact {svc x : Nat} (h : Intact l s) : OutIntact l (execServeLeaseEnd svc x s) := by
  unfold execServeLeaseEnd
  dsimp only
  refine live_intact h (fun _ ht => ?_)
  split
  · exact ht
  · exact intact_ite ht (settle_intact hooks_intact (afterOwn_intact (takeOver_intact (untilFabric_intact ht))))

theorem execServeDrainEnd_intact {svc : Nat} (h : Intact l s) : OutIntact l (execServeDrainEnd svc s) := by
  unfold execServeDrainEnd
  dsimp only
  refine live_intact h (fun _ ht => ?_)
  split
  · exact ht
  · split
    · exact ht
    · exact settle_intact hooks_intact (afterOwn_intact (intact_foldl (fun _ _ ht1 => takeOver_intact ht1) (untilFabric_intact ht)))

/-! ### Snapshots: the meanings of the commands and events of 06_snapshots.md; the version opcodes stand in Machine/SnapCore.lean -/

theorem execVersionLeaseEnd_intact {region node : Nat} (h : Intact l s) : OutIntact l (execVersionLeaseEnd region node s) :=
  live_intact h (fun _ ht => settle_intact hooks_intact (leaseEnds_intact ht))
theorem execCowCopyDone_intact {region node frame : Nat} (h : Intact l s) : OutIntact l (execCowCopyDone region node frame s) :=
  live_intact h (fun _ ht => settle_intact hooks_intact (cowDone_intact ht))

theorem execSnapCreate_intact {c : Cmd} (h : Intact l s) : OutIntact l (execSnapCreate c s) := by
  unfold execSnapCreate
  dsimp only
  refine live_intact h (fun _ ht => runCmd_intact ht (fun _ hu => ?_))
  split
  · exact complete_intact hu
  · split
    · exact complete_intact hu
    · split
      · exact complete_intact hu
      · split
        · exact complete_intact hu
        · split
          · exact complete_intact hu
          · split
            · exact complete_intact hu
            · exact complete_intact (intact_foldl (fun _ _ ht1 => xchgAll_intact ht1) (bumpFree_intact (intact_with hu)))

theorem execSnapDestroy_intact {c : Cmd} (h : Intact l s) : OutIntact l (execSnapDestroy c s) := by
  unfold execSnapDestroy
  dsimp only
  refine live_intact h (fun _ ht => runCmd_intact ht (fun _ hu => ?_))
  split
  · exact complete_intact hu
  · exact settle_intact hooks_intact (intact_with (intact_foldl (fun _ _ ht1 => endOpen_intact ht1) hu))

theorem execSnapInfo_intact {c : Cmd} (h : Intact l s) : OutIntact l (execSnapInfo c s) :=
  live_intact h (fun _ ht => runCmd_intact ht (fun _ hu => intact_ite (complete_intact hu) (complete_intact hu)))

/-! ### Switch: the meanings of the events and commands of the switch core, of shapers, gates and fabric time -/

theorem execEscWaitExpire_intact {id : Nat} (h : Intact l s) : OutIntact l (execEscWaitExpire id s) := by
  unfold execEscWaitExpire
  refine live_intact h fun t ht => ?_
  split
  · exact ht
  next q _ =>
    dsimp only
    split
    · exact ht
    split
    next u e =>
      obtain ⟨p, -, moved⟩ := Option.bind_eq_some_iff.mp e
      exact bump_intact (toEscape_intact (aloneFor_intact (untilTime_intact ht)) u moved)
    · exact untilTime_intact ht

theorem execBucketRelease_intact {port : Nat} (h : Intact l s) : OutIntact l (execBucketRelease port s) := by
  unfold execBucketRelease
  refine live_intact h (fun _ ht => ?_)
  split
  · exact ht
  · exact settle_intact hooks_intact (releaseHead_intact (untilTime_intact ht))

/-! ### Boot: power-on, resets and the firmware bundle -/

theorem execHbPerstAssert_intact {x : Nat} (h : Intact l s) : OutIntact l (execHbPerstAssert x s) := by
  unfold execHbPerstAssert
  split
  · exact outIntact_next h
  · refine live_intact (bridgeDown_intact (intact_with h)) (fun t ht => ?_)
    extract_lets u v _ w
    have hu : Intact l u := by
      unfold u
      split
      · exact nodeFails_intact ht
      · exact ht
    have hw : Intact l w := by
      unfold w
      split
      · exact intact_with (releaseHolds_intact hu)
      · exact releaseHolds_intact hu
    exact settle_intact hooks_intact (intact_with hw)

/-! ### Coherence: the meanings of the commands and events of 05_coherence.md -/

theorem execDomainSetRange_intact {c : Cmd} (h : Intact l s) : OutIntact l (execDomainSetRange c s) := by
  unfold execDomainSetRange
  refine live_intact h fun _ ht => runCmd_intact ht fun t hu => ?_
  extract_lets d g r
  refine intact_ite (complete_intact hu) (intact_ite (complete_intact hu) (intact_ite (intact_ite (complete_intact hu) ?_) ?_))
  · exact settle_intact hooks_intact (leaveLines_intact (intact_with hu))
  · split
    · exact complete_intact hu
    · exact intact_ite (complete_intact hu) (complete_intact (intact_with hu))

/-! ### Memory: the meanings of the commands and events of 03_memory_tiers.md -/

theorem intact_periodAt {n : Nat} (h : Intact l s) : Intact l { s with mem := { s.mem with periodAt := n } } := intact_with h

theorem execHeatDecayPeriod_intact (h : Intact l s) : OutIntact l (execHeatDecayPeriod s) := by
  unfold execHeatDecayPeriod
  refine live_intact h fun t ht => ?_
  extract_lets u
  have reached : Intact l u := untilTime_intact ht
  generalize u.mem.periodAt + periodNs u = n
  clear_value u
  exact setField_intact (intact_periodAt reached)

/-! ### Ras: the meanings of the commands and events of faults, detection and degradation -/

theorem intact_copyAlt {m : List (Nat × List Byte)} (h : Intact l s) : Intact l { s with mem := { s.mem with copyAlt := m } } := intact_with h

theorem execVerifyPass_intact {found : List (Nat × List Byte)} (h : Intact l s) : OutIntact l (execVerifyPass found s) := by
  unfold execVerifyPass
  refine live_intact h fun t ht => intact_ite ht ?_
  generalize t.ras.verifyAt + regField t rRas 16 14 * 3600000000000 = n
  exact settle_intact hooks_intact (verifyPass_intact (intact_copyAlt (modRas_intact (untilTime_intact ht))))

/-! ### Dispatch: which meaning each command has, one arm per command -/

theorem exec_intact {i : Instr} (h : Intact l s) : OutIntact l (exec i s) := by
  unfold exec
  split
  · exact execLoad_intact h
  · exact execStore_intact h
  · exact execStoreClearPoison_intact h
  · exact execCopy_intact h
  · exact execAtomicAdd_intact h
  · exact execAtomicMin_intact h
  · exact execAtomicMax_intact h
  · exact execAtomicAnd_intact h
  · exact execAtomicOr_intact h
  · exact execAtomicXor_intact h
  · exact execAtomicSwap_intact h
  · exact execAtomicCas_intact h
  · exact execFence_intact h
  · exact execOpenVersion_intact h
  · exact execCloseVersion_intact h
  · exact execPublish_intact h
  · exact execRdShared_intact h
  · exact execRdOwn_intact h
  · exact execUpgrade_intact h
  · exact execWbDirty_intact h
  · exact execEvictClean_intact h
  · exact execSnoopAnswer_intact h
  · exact execCollContrib_intact h
  · exact execCollPartial_intact h
  · exact execCollDeliver_intact h
  · exact execGather_intact h
  · exact execScatter_intact h
  · exact execSearch_intact h
  · exact execAttend_intact h
  · exact execFilter_intact h
  · exact execRun_intact h
  · exact execOwnerCas_intact h
  · exact execCpl_intact h
  · exact execCplData_intact h
  · exact execUnanswered_intact h
  · exact execSequenceGap_intact h
  · exact execRegionArbGrant_intact h
  · exact execRegionArbPromote_intact h
  · exact execHbmAccessDone_intact h
  · exact execMoveSubblockDone_intact h
  · exact execHeatDecayPeriod_intact h
  · exact execTierMapVisit_intact h
  · exact execTieringScan_intact h
  · exact execT3WriteResume_intact h
  · exact execTrayLateTimeout_intact h
  · exact execFreeModeTakeEffect_intact h
  · exact execPageWalkDone_intact h
  · exact execGenSweepDone_intact h
  · exact execPtRelocate_intact h
  · exact execTenureEnd_intact h
  · exact execHomeTimeout_intact h
  · exact execDirectorySweep_intact h
  · exact execCombineWindowEnd_intact h
  · exact execHotLineSend_intact h
  · exact execHotLineExpire_intact h
  · exact execVersionLeaseEnd_intact h
  · exact execCowCopyDone_intact h
  · exact execStepStart_intact h
  · exact execStepResume_intact h
  · exact execStepCommit_intact h
  · exact execConfigScrub_intact h
  · exact execBlockArbGrant_intact h
  · exact execBlockArbPromote_intact h
  · exact execNeighbourCompare_intact h
  · exact execNeighbourTrim_intact h
  · exact execShadowCompare_intact h
  · exact execRefereeDone_intact h
  · exact execCollStall_intact h
  · exact execEmbRowApply_intact h
  · exact execSearchPartRetry_intact h
  · exact execServeLeaseEnd_intact h
  · exact execServeDrainEnd_intact h
  · exact execCodewordReceived_intact h
  · exact execIdle_intact h
  · exact execStatus_intact h
  · exact execNak_intact h
  · exact execReplay_intact h
  · exact execEscape_intact h
  · exact execLpReq_intact h
  · exact execLpAck_intact h
  · exact execLpNak_intact h
  · exact execTrainId_intact h
  · exact execTrainCredit_intact h
  · exact execTrainDone_intact h
  · exact execSecureFrame_intact h
  · exact execLinkKeyRotate_intact h
  · exact execAckTimeout_intact h
  · exact execNakRepeat_intact h
  · exact execStatusTimer_intact h
  · exact execPartnerLock_intact h
  · exact execEqualizeDone_intact h
  · exact execEqualizeTimeout_intact h
  · exact execIdentifyTimeout_intact h
  · exact execConfigTimeout_intact h
  · exact execRetrainTimeout_intact h
  · exact execRetrainDone_intact h
  · exact execDownTimeout_intact h
  · exact execLaneFail_intact h
  · exact execPartnerLoss_intact h
  · exact execBeaconTimer_intact h
  · exact execBeaconLoss_intact h
  · exact execLowPowerExit_intact h
  · exact execTunnelFrame_intact h
  · exact execPfcFrame_intact h
  · exact execPtpFrame_intact h
  · exact execTunRto_intact h
  · exact execTunDead_intact h
  · exact execTunnelKeepalive_intact h
  · exact execHbLinkLoss_intact h
  · exact execCxlM2sReq_intact h
  · exact execCxlM2sRwd_intact h
  · exact execCxlBiRsp_intact h
  · exact execCxlBiconflict_intact h
  · exact execSchedMatch_intact h
  · exact execVoqPromote_intact h
  · exact execSharedAdmit_intact h
  · exact execAgeDiscard_intact h
  · exact execEscWaitExpire_intact h
  · exact execBucketRelease_intact h
  · exact execBucketOverride_intact h
  · exact execGateEntryChange_intact h
  · exact execGateListSwitch_intact h
  · exact execTimeSyncTimer_intact h
  · exact execTimeSync_intact h
  · exact execTimeFollow_intact h
  · exact execPpsEdge_intact h
  · exact execTimeRefLost_intact h
  · exact execPpsOut_intact h
  · exact execLlHello_intact h
  · exact execLlCert_intact h
  · exact execLlState_intact h
  · exact execFmCommand_intact h
  · exact execFmReply_intact h
  · exact execRouteWithdraw_intact h
  · exact execRouteRestore_intact h
  · exact execEvent_intact h
  · exact execDiscardReport_intact h
  · exact execWickXchg_intact h
  · exact execTicket_intact h
  · exact execLinkKex_intact h
  · exact execHelloResend_intact h
  · exact execHelloTimeout_intact h
  · exact execVerifyTimeout_intact h
  · exact execEscDrainDone_intact h
  · exact execEscDrainTimeout_intact h
  · exact execTicketExpire_intact h
  · exact execHealthRecover_intact h
  · exact execVerifyPass_intact h
  · exact execWickWatchdog_intact h
  · exact execWickCoreRejoin_intact h
  · exact execWickRestart_intact h
  · exact execWickRestartTimeout_intact h
  · exact execHurricaneMismatch_intact h
  · exact execRegionSupplyFault_intact h
  · exact execRngHealthFail_intact h
  · exact execRngRetestDone_intact h
  · exact execLinkKexExpire_intact h
  · exact execScrubWriteDone_intact h
  · exact execGetVersion_intact h
  · exact execGetCapabilities_intact h
  · exact execNegotiateAlgorithms_intact h
  · exact execGetDigests_intact h
  · exact execGetCertificate_intact h
  · exact execChallenge_intact h
  · exact execGetMeasurements_intact h
  · exact execKeyExchange_intact h
  · exact execFinish_intact h
  · exact execEndSession_intact h
  · exact execHeartbeat_intact h
  · exact execKeyUpdate_intact h
  · exact execVendorDefinedRequest_intact h
  · exact execSpdmUnsupported_intact h
  · exact execGetTdispVersion_intact h
  · exact execGetTdispCapabilities_intact h
  · exact execLockInterfaceRequest_intact h
  · exact execGetDeviceInterfaceReport_intact h
  · exact execGetDeviceInterfaceState_intact h
  · exact execStartInterfaceRequest_intact h
  · exact execStopInterfaceRequest_intact h
  · exact execKeyProg_intact h
  · exact execKSetGo_intact h
  · exact execKSetStop_intact h
  · exact execHysNop_intact h
  · exact execPartCreate_intact h
  · exact execPartInfo_intact h
  · exact execPartSet_intact h
  · exact execPartAddPort_intact h
  · exact execPartRemovePort_intact h
  · exact execPartTeardown_intact h
  · exact execSecAttest_intact h
  · exact execSecProgLog_intact h
  · exact execSecLinkKexStart_intact h
  · exact execSecLinkKexRespond_intact h
  · exact execSecLinkKexFinish_intact h
  · exact execPortSetPriv_intact h
  · exact execPortSetCrypt_intact h
  · exact execPortSetGateway_intact h
  · exact execPortRetrain_intact h
  · exact execPortRelease_intact h
  · exact execPortLinkStats_intact h
  · exact execNodeSetSelf_intact h
  · exact execNodeAssign_intact h
  · exact execNodeClear_intact h
  · exact execRouteSet_intact h
  · exact execFabricSetManagers_intact h
  · exact execFabricSetRole_intact h
  · exact execFabricSetFreeMode_intact h
  · exact execFabricTicket_intact h
  · exact execFabricSetBudget_intact h
  · exact execFabricAddSpares_intact h
  · exact execPoolMap_intact h
  · exact execPoolUnmap_intact h
  · exact execPoolProtect_intact h
  · exact execPoolFrameInfo_intact h
  · exact execPoolHeatRead_intact h
  · exact execPoolMove_intact h
  · exact execPoolResolve_intact h
  · exact execPoolSetHome_intact h
  · exact execPoolAttachTray_intact h
  · exact execPoolDetachTray_intact h
  · exact execPoolSetPolicy_intact h
  · exact execPoolEnableClass_intact h
  · exact execAstCreate_intact h
  · exact execAstDestroy_intact h
  · exact execAstInvalidate_intact h
  · exact execAstInfo_intact h
  · exact execAstPteRead_intact h
  · exact execWindowSet_intact h
  · exact execWindowClear_intact h
  · exact execDomainCreate_intact h
  · exact execDomainDestroy_intact h
  · exact execDomainAddAgent_intact h
  · exact execDomainRemoveAgent_intact h
  · exact execDomainSetRange_intact h
  · exact execSnapCreate_intact h
  · exact execSnapDestroy_intact h
  · exact execSnapInfo_intact h
  · exact execProgLoadLib_intact h
  · exact execProgLoad_intact h
  · exact execProgReplace_intact h
  · exact execProgUnload_intact h
  · exact execProgInfo_intact h
  · exact execProgCellRead_intact h
  · exact execProgStalls_intact h
  · exact execProgCounters_intact h
  · exact execProgSetSigner_intact h
  · exact execProgSetQuota_intact h
  · exact execCollOpen_intact h
  · exact execCollClose_intact h
  · exact execCollSetOpt_intact h
  · exact execCollStats_intact h
  · exact execCollRehost_intact h
  · exact execEmbCreate_intact h
  · exact execEmbDestroy_intact h
  · exact execEmbSetDefault_intact h
  · exact execEmbReplaceRows_intact h
  · exact execEmbCloseStep_intact h
  · exact execEmbStepInfo_intact h
  · exact execEmbHotSet_intact h
  · exact execEmbHotRefresh_intact h
  · exact execEmbMoveRows_intact h
  · exact execEmbStats_intact h
  · exact execSearchCreate_intact h
  · exact execSearchDestroy_intact h
  · exact execSearchQuery_intact h
  · exact execSearchDelete_intact h
  · exact execSearchRepair_intact h
  · exact execSearchInfo_intact h
  · exact execSearchStats_intact h
  · exact execAttnOpen_intact h
  · exact execAttnClose_intact h
  · exact execAttnStats_intact h
  · exact execServeCreate_intact h
  · exact execServeSetMap_intact h
  · exact execServeOwnerInfo_intact h
  · exact execServeDestroy_intact h
  · exact execServeStats_intact h
  · exact execShapeSetPart_intact h
  · exact execShapeStats_intact h
  · exact execGateSet_intact h
  · exact execTimeSet_intact h
  · exact execTimeSetSource_intact h
  · exact execTimeSetUpstream_intact h
  · exact execCoreStats_intact h
  · exact execRegionFence_intact h
  · exact execRegionUnfence_intact h
  · exact execRasStats_intact h
  · exact execHealthRead_intact h
  · exact execPowerSetState_intact h
  · exact execPowerSetRegion_intact h
  · exact execPowerStats_intact h
  · exact execLanternRead_intact h
  · exact execLanternLogRead_intact h
  · exact execLanternStats_intact h
  · exact execDbWrite_intact h
  · exact execDescriptorFetch_intact h
  · exact execCommandCompletion_intact h
  · exact execCoalTimer_intact h
  · exact execQreset_intact h
  · exact execQpEnable_intact h
  · exact execQpDisable_intact h
  · exact execMbxGo_intact h
  · exact execMbxLast_intact h
  · exact execMbxAbort_intact h
  · exact execBundleVerifyDone_intact h
  · exact execHbmInitDone_intact h
  · exact execFtimeRead_intact h
  · exact execHysDroppedRead_intact h
  · exact execPortCfgEnSet_intact h
  · exact execPortCfgEnClear_intact h
  · exact execPoolHeatCfgWrite_intact h
  · exact execPoolPolicyCfgWrite_intact h
  · exact execRegisterWrite_intact h
  · exact execPowerOn_intact h
  · exact execSysResetAssert_intact h
  · exact execSysResetDeassert_intact h
  · exact execPerstMgtAssert_intact h
  · exact execPerstMgtDeassert_intact h
  · exact execFunctionLevelReset_intact h
  · exact execHbPerstAssert_intact h
  · exact execHbPerstDeassert_intact h
  · exact execInputLow_intact h
  · exact execInputFail_intact h
  · exact execRefclkLost_intact h
  · exact execRefclkBothLost_intact h
  · exact execRefclkSwitchback_intact h
  · exact execRegionIdleTrim_intact h
  · exact execChipHoodEntry_intact h
  · exact execLpAckTimeout_intact h
  · exact execWake_intact h
  · exact execPowerStateDrainTimeout_intact h
  · exact execPowerTick_intact h
  · exact execCapTrim_intact h
  · exact execCurrentGuard_intact h
  · exact execGuardRelease_intact h
  · exact execThermSample_intact h
  · exact execThermalHold_intact h
  · exact execThermalTrip_intact h
  · exact execIdcode_intact h
  · exact execSamplePreload_intact h
  · exact execExtest_intact h
  · exact execClamp_intact h
  · exact execHighz_intact h
  · exact execBypass_intact h
  · exact execDebugStatus_intact h
  · exact execDebugUnlock_intact h
  · exact execJtagTrst_intact h
  · exact execSnpInv_intact h
  · exact execSnpShare_intact h
  · exact execInputRecover_intact h
  · exact execRefclkRestored_intact h
  · exact execTimeRefRestored_intact h
  · exact execLaneLossOfSignal_intact h
  · exact execNumvfsWrite_intact h
  · exact execHdmDecoderWrite_intact h

end

/-- Settles O5: each command keeps memory's canonical form and the commands that wait; the step itself takes the one in front. -/
theorem stepKeepsMemory : Obligations.StepKeepsMemory := by
  unfold Obligations.StepKeepsMemory
  intro s t wf e
  have kept : Intact s.pending.tail t := by
    unfold step at e
    split at e
    next none => exact outIntact_next (idle_intact ⟨by rw [none]; rfl, wf⟩) t e
    next c rest front => exact exec_intact (s := { s with pending := rest }) ⟨by rw [front]; rfl, wf⟩ t e
  exact ⟨kept.wf, kept.pending⟩

end Sys2Proof.Machine
end

section
/-! Training, losses, codewords and timers of a logical port (14_link_layer.md; O40 to O44): each event's own effect, and all that stands
as it was. -/
namespace Sys2Proof.Machine

/-! ## What an event of one port leaves as it is -/

section
variable {s t u : State} {n : Nat}

theorem onlyPort_refl (s : State) (n : Nat) : OnlyPort s s n := ⟨fun _ _ => rfl, rfl, rfl, rfl, rfl, rfl, rfl, rfl, rfl⟩

theorem onlyPort_trans (h : OnlyPort s t n) (k : OnlyPort t u n) : OnlyPort s u n := by
  obtain ⟨ports, mem, xl, coh, snap, fab, parts, buckets, cfg⟩ := h
  obtain ⟨ports', mem', xl', coh', snap', fab', parts', buckets', cfg'⟩ := k
  exact ⟨fun m hm => (ports' m hm).trans (ports m hm), mem'.trans mem, xl'.trans xl, coh'.trans coh, snap'.trans snap, fab'.trans fab,
    parts'.trans parts, buckets'.trans buckets, cfg'.trans cfg⟩

theorem onlyPort_modLport (s : State) (n : Nat) (f : LPort → LPort) : OnlyPort s (modLport s n f) n :=
  ⟨fun m hm => lportOf_modLport_other s n m f hm, rfl, rfl, rfl, rfl, rfl, rfl, rfl, rfl⟩

theorem onlyPort_modLink (s : State) (n : Nat) (f : Link → Link) : OnlyPort s (modLink s n f) n := onlyPort_modLport s n _

theorem onlyPort_setLink (s : State) (n : Nat) (st : LinkState) : OnlyPort s (setLink s n st) n := onlyPort_modLport s n _

theorem Quiet.onlyPort (h : Quiet s t) (n : Nat) : OnlyPort s t n :=
  ⟨fun m _ => lportOf_congr h.lports m, h.mem, h.xl, h.coh, h.snap, h.fab, h.parts, h.buckets, h.cfg⟩

theorem onlyPort_emit (h : OnlyPort s t n) (o : Out) : OnlyPort s (emit t o) n := onlyPort_trans h ((emit_quiet t o).onlyPort n)

/-- Every other port, and memory, stand as they were. -/
abbrev OthersKeep (s u : State) (n : Nat) : Prop := (∀ m, m ≠ n → lportOf u m = lportOf s m) ∧ u.mem = s.mem

theorem othersKeep_trans (h : OthersKeep s t n) (k : OthersKeep t u n) : OthersKeep s u n :=
  ⟨fun m hm => (k.1 m hm).trans (h.1 m hm), k.2.trans h.2⟩

theorem othersKeep_of_onlyPort (h : OnlyPort s t n) : OthersKeep s t n := ⟨h.1, h.2.1⟩

theorem othersKeep_setField (h : OthersKeep s t n) (o lo w v : Nat) : OthersKeep s (setField t o lo w v) n := h

theorem TxFrame.onlyPort (h : TxFrame n s t) : OnlyPort s t n := by
  obtain ⟨l, o, e⟩ := h.rest
  exact ⟨h.other, by rw [e], by rw [e], by rw [e], by rw [e], by rw [e], by rw [e], by rw [e], by rw [e]⟩

end

/-! ## Training (R626, O40) -/

theorem toIdentify_outs (s : State) (n : Nat) : (toIdentify s n).outs = s.outs ++
    [.control n (.trainId (lanesUsed s n).length (lportOf s n).marked (regField s (rPort (portOf n)) 4 1 = 1))] := by
  have lanes : lanesUsed (setLink s n .identify) n = lanesUsed s n := by simp [lanesUsed]
  rw [toIdentify, sendTrainId, emit_outs, lanes, lportOf_setLink_self]
  rfl

theorem sendCredit_link (s : State) (n : Nat) : ∃ ll, lportOf (sendCredit s n) n = { lportOf s n with ll := ll } := by
  unfold sendCredit
  dsimp only
  split
  · rw [lportOf_emit, lportOf_emit, lportOf_modLink_self]
    exact ⟨_, rfl⟩
  · exact ⟨_, lportOf_bump s _ n⟩

theorem sendCredit_onlyPort (s : State) (n : Nat) : OnlyPort s (sendCredit s n) n := by
  unfold sendCredit
  dsimp only
  split
  · exact onlyPort_emit (onlyPort_emit (onlyPort_modLink s n _) _) _
  · exact (bump_quiet s _).onlyPort n

/-- TRAIN_ID that matches: the partner's role and its leave to degrade are kept, and CONFIG begins. -/
theorem trainId_matches {s : State} {n role : Nat} (degradeOk : Bool) (identify : (lportOf s n).link = .identify) (known : role < 3) :
    (∃ ll, lportOf (trainId s n 1 role (lanesUsed s n).length (lportOf s n).marked degradeOk) n = { lportOf s n with
        link := .config, entered := s.clk, peerDegrade := degradeOk, ll := ll
        role := some (if role = 0 then .switch else if role = 1 then .endpoint else .tray) }) ∧
      OthersKeep s (trainId s n 1 role (lanesUsed s n).length (lportOf s n).marked degradeOk) n := by
  have who : (if role = 0 then some Role.switch else if role = 1 then some .endpoint else if role = 2 then some .tray else none) =
      some (if role = 0 then .switch else if role = 1 then .endpoint else .tray) := by
    split_ifs
    · rfl
    · rfl
    · rfl
    · omega
  unfold trainId
  simp only [identify, who, Option.isSome_some, decide_true, Bool.and_self, if_true]
  constructor
  · obtain ⟨ll, sent⟩ := sendCredit_link (setLink (setField (modLink (modLport s n _) n _) _ 1 1 _) n .config) n
    rw [sent, lportOf_setLink_self, lportOf_setField, lportOf_modLink_self, lportOf_modLport_self]
    exact ⟨_, rfl⟩
  · refine othersKeep_trans ?_ (othersKeep_of_onlyPort (sendCredit_onlyPort _ n))
    refine othersKeep_trans (othersKeep_setField ?_ _ _ _ _) (othersKeep_of_onlyPort (onlyPort_setLink _ n .config))
    exact othersKeep_of_onlyPort (onlyPort_trans (onlyPort_modLport s n _) (onlyPort_modLink _ n _))

theorem sendHello_lport (s : State) (n : Nat) : lportOf (sendHello s n) n = { lportOf s n with nonce := freeBytes s.freeCtr 32 } := by
  rw [sendHello, lportOf_congr (sendLink_quiet _ _ _ _).lports, lportOf_modLport_self]
  rfl

theorem sendHello_onlyPort (s : State) (n : Nat) : OnlyPort s (sendHello s n) n :=
  onlyPort_trans (onlyPort_modLport (bumpFree s) n _) ((sendLink_quiet _ _ _ _).onlyPort n)

/-- Keys that are ratcheted are all that the ratchet changes. -/
theorem ratchet_lport (s : State) (n : Nat) : ∃ x, lportOf (ratchet s n) n = { lportOf s n with sec := x } := by
  rw [ratchet, lportOf_modLport_self]
  split
  · exact ⟨_, rfl⟩
  · exact ⟨_, rfl⟩

/-- CONFIG is done: the port is ACTIVE with its numbers at 0, and greets its partner (R617, R626, R806). -/
theorem enterActive_lport (s : State) (n : Nat) : ∃ x since nonce, lportOf (enterActive s n) n = { lportOf s n with
    link := .active, entered := s.clk, sec := x, disc := .hello, discSince := since, nonce := nonce,
    ll := { adv := (lportOf s n).ll.adv, peerAdv := (lportOf s n).ll.peerAdv, statusAt := s.clk } } := by
  unfold enterActive
  extract_lets a b c d
  have started : lportOf (startHealth (l1Fill (setLink a n .active) n) n) n = lportOf (setLink a n .active) n :=
    lportOf_congr (startHealth_quiet _ n).lports n
  obtain ⟨x, kept⟩ := ratchet_lport (startHealth (l1Fill (setLink a n .active) n) n) n
  have active : lportOf a n = { lportOf s n with
      ll := { adv := (lportOf s n).ll.adv, peerAdv := (lportOf s n).ll.peerAdv, statusAt := s.clk } } := lportOf_modLink_self s n _
  rw [started, lportOf_setLink_self, active] at kept
  have greets : lportOf d n = { lportOf b n with disc := .hello, discSince := c.clk } := lportOf_modLport_self c n _
  rw [sendHello_lport, greets, kept]
  exact ⟨_, _, _, rfl⟩

theorem enterActive_onlyPort (s : State) (n : Nat) : OnlyPort s (enterActive s n) n := by
  unfold enterActive
  extract_lets a b c d
  have start : OnlyPort a (startHealth (l1Fill (setLink a n .active) n) n) n :=
    onlyPort_trans (onlyPort_setLink a n .active) ((startHealth_quiet (l1Fill (setLink a n .active) n) n).onlyPort n)
  have greeted : OnlyPort b d n := onlyPort_modLport c n _
  exact onlyPort_trans (onlyPort_modLink s n _) (onlyPort_trans (onlyPort_trans start (onlyPort_modLport _ n _))
    (onlyPort_trans greeted (sendHello_onlyPort d n)))

/-- RETRAIN succeeds: ACTIVE again, with no PORT.RETRAIN waiting. -/
theorem retrainDone_lport (s : State) (n : Nat) (good : List Nat) :
    (lportOf (retrainDone s n good) n).link = .active ∧ (lportOf (retrainDone s n good) n).retrainBy = [] := by
  unfold retrainDone
  extract_lets l all a b c d
  have ends := lportOf_congr (retrainEnds_lports (modLink d n fun ll => { ll with rxWait := none, txSince := d.clk }) n stOk) n
  rw [lportOf_modLport_self, lportOf_modLink_self] at ends
  have active : (lportOf d n).link = .active := by
    unfold d
    split
    · simp [c, b]
    · simp [c, b]
  have sent := pump_txFrame (retrainEnds (modLink d n fun ll => { ll with rxWait := none, txSince := d.clk }) n stOk) n
  exact ⟨by rw [sent.link, ends, active], by rw [sent.retrainBy, ends]⟩

theorem retrainEnds_onlyPort (s : State) (n st : Nat) : OnlyPort s (retrainEnds s n st) n :=
  onlyPort_trans (onlyPort_modLport s n _) ((completeAll_quiet _ _ _).onlyPort n)

theorem retrainDone_others (s : State) (n : Nat) (good : List Nat) : OthersKeep s (retrainDone s n good) n := by
  unfold retrainDone
  extract_lets l all a b c d
  have found : OthersKeep s a n := by
    unfold a
    split
    · exact othersKeep_setField (othersKeep_of_onlyPort (onlyPort_modLport s n _)) _ _ _ _
    · exact ⟨fun _ _ => rfl, rfl⟩
  have replayed : OnlyPort a d n := by
    unfold d
    split
    · exact onlyPort_emit (onlyPort_setLink a n .active) _
    · exact onlyPort_emit (onlyPort_emit (onlyPort_setLink a n .active) _) _
  refine othersKeep_trans found (othersKeep_of_onlyPort (onlyPort_trans replayed ?_))
  exact onlyPort_trans (onlyPort_trans (onlyPort_modLink d n _) (retrainEnds_onlyPort _ n stOk)) (pump_txFrame _ n).onlyPort

/-! ### The events of training, on a port that is live -/

section
variable {s : State} {n : Nat}

theorem partnerLock_runs (h : PortLive s n) (detect : (lportOf s n).link = .detect) :
    exec (.partnerLock n) s = .next (linkAfter (setLink s n .equalize) n) :=
  (exec_partnerLock n s).trans (inState_live _ h detect)

theorem equalizeDone_runs (h : PortLive s n) (equalize : (lportOf s n).link = .equalize) :
    exec (.equalizeDone n) s = .next (linkAfter (toIdentify s n) n) :=
  (exec_equalizeDone n s).trans (inState_live _ h equalize)

theorem trainId_runs (h : PortLive s n) (version role lanes : Nat) (marked degradeOk : Bool) :
    exec (.trainId n version role lanes marked degradeOk) s = .next (linkAfter (trainId s n version role lanes marked degradeOk) n) :=
  (exec_trainId n version role lanes marked degradeOk s).trans (onLink_live _ h)

theorem trainCredit_runs (h : PortLive s n) (adv : List Nat) :
    exec (.trainCredit n adv) s = .next (linkAfter (trainCredit s n adv) n) :=
  (exec_trainCredit n adv s).trans (onLink_live _ h)

theorem trainDone_runs (h : PortLive s n) : exec (.trainDone n) s = .next (linkAfter (trainDone s n) n) :=
  (exec_trainDone n s).trans (onLink_live _ h)

theorem retrainDone_runs (h : PortLive s n) (retrain : (lportOf s n).link = .retrain) (good : List Nat) :
    exec (.retrainDone n good) s = .next (linkAfter (retrainDone s n good) n) :=
  (exec_retrainDone n good s).trans (inState_live _ h retrain)

end

/-- A port that trains again at a time, on all its lanes (R626, R633). -/
def trainsAgain (s : State) (n : Nat) (at_ : Time) : State :=
  modLport (setLink (markLanes (untilTime s at_) (portOf n) (lanesGiven (untilTime s at_) n) false) n .detect) n
    fun l => { l with lanesCut := none }

section
variable (s : State) (n : Nat) (at_ : Time)

theorem trainsAgain_clk : (trainsAgain s n at_).clk = max s.clk at_ := untilTime_clk s at_

theorem trainsAgain_lport : lportOf (trainsAgain s n at_) n =
    { lportOf s n with link := .detect, entered := (trainsAgain s n at_).clk, lanesCut := none } := by
  simp [trainsAgain, markLanes]

theorem trainsAgain_others : OthersKeep s (trainsAgain s n at_) n :=
  ⟨fun m hm => by simp [trainsAgain, markLanes, hm], by simp [trainsAgain, markLanes]⟩

end

theorem downTimeout_runs {s : State} {n : Nat} (h : PortLive s n) (down : (lportOf s n).link = .down) :
    exec (.downTimeout n) s = .next (linkAfter (trainsAgain s n ((lportOf s n).entered + msNs)) n) :=
  (exec_downTimeout n s).trans (inState_live _ h down)

/-- Settles O40: each event of training, in its state, does what its own lemma says, and `linkAfter` follows. -/
theorem linkTraining : Obligations.LinkTraining := by
  intro n s h
  refine ⟨fun detect => ?_, fun equalize => ?_, fun role degradeOk identify known => ?_, fun adv config waits => ?_, fun config waits => ?_,
    fun config credit sent => ?_, fun good retrain => ?_, fun down => ?_⟩
  · exact ⟨_, partnerLock_runs h detect, lportOf_setLink_self s n _, onlyPort_setLink s n _, rfl⟩
  · exact ⟨_, equalizeDone_runs h equalize, lportOf_setLink_self s n _, onlyPort_emit (onlyPort_setLink s n _) _, rfl, toIdentify_outs s n⟩
  · obtain ⟨⟨ll, port⟩, others, mem⟩ := trainId_matches (s := s) (n := n) degradeOk identify known
    exact ⟨_, trainId_runs h _ _ _ _ _, by rw [port], by rw [port], by rw [port], by rw [port], others, mem⟩
  · refine ⟨_, trainCredit_runs h adv, ?_⟩
    have stays : trainCredit s n adv = modLink s n fun ll => { ll with
        gotCredit := true, peerAdv := (natRange 0 12).map fun c => adv.getD c 0 % 65536 } := by
      simp [trainCredit, config, tryActive, waits]
    rw [stays]
    exact ⟨lportOf_modLink_self s n _, onlyPort_modLink s n _, rfl⟩
  · refine ⟨_, trainDone_runs h, ?_⟩
    have stays : trainDone s n = modLink s n fun ll => { ll with gotDone := true } := by
      simp [trainDone, config, tryActive, waits]
    rw [stays]
    exact ⟨lportOf_modLink_self s n _, onlyPort_modLink s n _, rfl⟩
  · refine ⟨_, trainDone_runs h, ?_⟩
    have active : trainDone s n = enterActive (modLink s n fun ll => { ll with gotDone := true }) n := by
      simp [trainDone, config, tryActive, credit, sent]
    rw [active]
    obtain ⟨x, since, nonce, port⟩ := enterActive_lport (modLink s n fun ll => { ll with gotDone := true }) n
    have frame := onlyPort_trans (onlyPort_modLink s n fun ll => { ll with gotDone := true }) (enterActive_onlyPort _ n)
    rw [lportOf_modLink_self] at port
    exact ⟨by rw [port], by rw [port], by rw [port], by rw [port], by rw [port], frame.1, frame.2.1⟩
  · obtain ⟨others, mem⟩ := retrainDone_others s n good
    obtain ⟨active, ended⟩ := retrainDone_lport s n good
    exact ⟨_, retrainDone_runs h retrain good, active, ended, others, mem⟩
  · exact ⟨_, downTimeout_runs h down, trainsAgain_clk s n _, trainsAgain_lport s n _, trainsAgain_others s n _⟩

end Sys2Proof.Machine
end

section
/-! What messages, reports and completions leave of the power state: all of it but the time when the engines last worked (R882). -/
namespace Sys2Proof.Machine

/-- The power state stands, but for when work was last seen. -/
def PowerKept (s t : State) : Prop := ∃ b, t.power = { s.power with busyAt := b }

section
variable {s t u : State}

theorem powerKept_of_eq (h : t.power = s.power) : PowerKept s t := ⟨s.power.busyAt, h⟩

theorem PowerKept.refl (s : State) : PowerKept s s := powerKept_of_eq rfl

theorem PowerKept.trans (h : PowerKept s t) (k : PowerKept t u) : PowerKept s u := by
  obtain ⟨_, ht⟩ := h
  obtain ⟨b, hu⟩ := k
  exact ⟨b, by rw [hu, ht]⟩

theorem PowerKept.regions (h : PowerKept s t) : t.power.regions = s.power.regions := by
  obtain ⟨_, e⟩ := h
  rw [e]

theorem PowerKept.hooding (h : PowerKept s t) : t.power.hooding = s.power.hooding := by
  obtain ⟨_, e⟩ := h
  rw [e]

theorem PowerKept.chip (h : PowerKept s t) : t.power.chip = s.power.chip := by
  obtain ⟨_, e⟩ := h
  rw [e]

theorem foldl_powerKept {α : Type} (f : State → α → State) (h : ∀ s x, PowerKept s (f s x)) (l : List α) (s : State) :
    PowerKept s (l.foldl f s) := by
  induction l generalizing s with
  | nil => exact PowerKept.refl s
  | cons x l ih => exact (h s x).trans (ih _)

end

theorem pushVoq_powerKept (s : State) (a b c : Nat) (e : Bool) (k : Packet) (o : List Nat) : PowerKept s (pushVoq s a b c e k o) := ⟨s.clk, rfl⟩

theorem enqueue_powerKept {s t : State} {a b : Nat} {e : Bool} {k : Packet} (h : enqueue s a b e k = some t) : PowerKept s t := by
  unfold enqueue at h
  split at h
  next hop _ =>
    cases h
    have hopped : PowerKept s (markHop s k.dstOf hop) := powerKept_of_eq (by cases hop <;> rfl)
    exact hopped.trans (pushVoq_powerKept _ _ _ _ _ _ _)
  · cases h

theorem sendMgmt_powerKept {s t : State} {c d : Nat} {pl : List Byte} (h : sendMgmt s c d pl = some t) : PowerKept s t :=
  (powerKept_of_eq (t := bumpOwn (noteMgmt s) d) rfl).trans (enqueue_powerKept h)

theorem sendMgmt_getD_powerKept (s : State) (c d : Nat) (pl : List Byte) : PowerKept s ((sendMgmt s c d pl).getD s) := by
  cases h : sendMgmt s c d pl with
  | none => exact PowerKept.refl s
  | some t => exact sendMgmt_powerKept h

theorem postEvent_powerKept (s : State) (pl : List Byte) : PowerKept s (postEvent s pl) := by
  unfold postEvent
  dsimp only
  split
  · exact PowerKept.refl s
  · split
    · exact powerKept_of_eq rfl
    · exact powerKept_of_eq rfl

theorem eventsTo_powerKept (pl : List Byte) (ms : List Manager) (s : State) : PowerKept s (eventsTo pl ms s) := by
  induction ms generalizing s with
  | nil => exact PowerKept.refl s
  | cons m ms ih =>
    rw [eventsTo]
    refine PowerKept.trans ?_ (ih _)
    split
    · exact PowerKept.refl s
    · split
      next sent => exact sendMgmt_powerKept sent
      · exact powerKept_of_eq rfl

theorem report_powerKept (s : State) (a b c d : Nat) : PowerKept s (report s a b c d) := by
  unfold report
  extract_lets pl r p
  have kept : PowerKept s p :=
    (powerKept_of_eq (t := r) rfl).trans ((eventsTo_powerKept pl r.fm.managers r).trans (postEvent_powerKept _ pl))
  exact kept.trans (powerKept_of_eq rfl)

theorem complete_powerKept (s : State) (r : CmdRef) (st res : Nat) (out : List Byte) : PowerKept s (complete s r st res out) := by
  unfold complete
  split
  · exact sendMgmt_getD_powerKept _ _ _ _
  · dsimp only
    split
    · exact PowerKept.refl s
    · split
      · exact ⟨s.clk, rfl⟩
      · exact ⟨s.clk, rfl⟩

theorem completeAll_powerKept (s : State) (rs : List CmdRef) (st : Nat) : PowerKept s (completeAll s rs st) :=
  foldl_powerKept _ (fun s r => complete_powerKept s r st 0 []) rs s

end Sys2Proof.Machine
end

section
/-! Losses of a link (R626, R629, R630, R632, R636; O41). -/
namespace Sys2Proof.Machine

section
variable {s : State} {n : Nat}

theorem retrainEnds_lport (s : State) (n st : Nat) : lportOf (retrainEnds s n st) n = { lportOf s n with retrainBy := [] } := by
  rw [lportOf_congr (retrainEnds_lports s n st), lportOf_modLport_self]

/-- A port that is not up and from which no packet crosses on leaves for DOWN with an empty transmitter and receiver, and its waiting
commands are answered. -/
theorem goDown_idle (down : linkUp (lportOf s n).link = false) (whole : cutFrom s n = none) :
    goDown s n = retrainEnds (modLink (modLport (setLink s n .down) n fun l => { l with lanesCut := none }) n
      fun ll => { adv := ll.adv }) n stRetry := by
  rw [goDown, leaveUp]
  simp [down, whole]

theorem goDown_idle_lport (down : linkUp (lportOf s n).link = false) (whole : cutFrom s n = none) :
    lportOf (goDown s n) n = { lportOf s n with
      link := .down, entered := s.clk, lanesCut := none, ll := { adv := (lportOf s n).ll.adv }, retrainBy := [] } := by
  rw [goDown_idle down whole, retrainEnds_lport, lportOf_modLink_self, lportOf_modLport_self, lportOf_setLink_self]

theorem goDown_idle_onlyPort (down : linkUp (lportOf s n).link = false) (whole : cutFrom s n = none) : OnlyPort s (goDown s n) n := by
  rw [goDown_idle down whole]
  exact onlyPort_trans (onlyPort_trans (onlyPort_trans (onlyPort_setLink s n _) (onlyPort_modLport _ n _)) (onlyPort_modLink _ n _))
    (retrainEnds_onlyPort _ n _)

theorem retrainEnds_clk (s : State) (n st : Nat) : (retrainEnds s n st).clk = s.clk := (completeAll_quiet _ _ _).clk

theorem retrainEnds_powerKept (s : State) (n st : Nat) : PowerKept s (retrainEnds s n st) :=
  (powerKept_of_eq rfl).trans (completeAll_powerKept (modLport s n fun l => { l with retrainBy := [] }) _ st)

theorem goDown_idle_kept (down : linkUp (lportOf s n).link = false) (whole : cutFrom s n = none) :
    (goDown s n).clk = s.clk ∧ (goDown s n).power.regions = s.power.regions := by
  rw [goDown_idle down whole]
  exact ⟨retrainEnds_clk _ n _, (retrainEnds_powerKept _ n _).regions⟩

/-! ### The events, on a port that is live -/

theorem equalizeTimeout_runs (h : PortLive s n) (lanes : List Nat) (equalize : (lportOf s n).link = .equalize) :
    exec (.equalizeTimeout n lanes) s = .next (linkAfter
      (let t := markLanes (untilTime s ((lportOf s n).entered + 50000000)) (portOf n) (lanes.filter fun i => (lanesGiven s n).contains i) true
       match degrade t n with
       | some u => toIdentify u n
       | none => goDown t n) n) := by
  rw [exec_equalizeTimeout, execEqualizeTimeout, inState_live _ h equalize]
  have ns : 50 * msNs = 50000000 := rfl
  dsimp only
  rw [ns]
  generalize (lportOf s n).entered + 50000000 = at_
  rw [lanesGiven_untilTime] <;> rfl

theorem partnerLoss_runs (h : PortLive s n) (up : (lportOf s n).link = .active ∨ (lportOf s n).link = .retrain) (own : (lportOf s n).gw = none) :
    exec (.partnerLoss n) s = .next (linkAfter (partnerLost s n) n) := by
  rw [exec_partnerLoss, execPartnerLoss, onLink_live _ h]
  simp [up, own]

theorem laneFail_runs (h : PortLive s n) (lane : Nat) (active : (lportOf s n).link = .active) (used : (lanesUsed s n).contains lane) :
    exec (.laneFail n lane) s = .next (linkAfter (failLanes s n [lane]) n) := by
  rw [exec_laneFail, execLaneFail, inState_live _ h active, if_pos used]

theorem laneLossOfSignal_runs (h : PortLive s n) (lanes : List Nat) (up : (lportOf s n).link = .active ∨ (lportOf s n).link = .retrain)
    (some_ : ∃ i ∈ lanes, (lanesUsed s n).contains i) (notAll : ∃ i ∈ lanesUsed s n, !lanes.contains i) :
    exec (.laneLossOfSignal n lanes) s = .next (linkAfter (failLanes s n (lanes.filter fun i => (lanesUsed s n).contains i)) n) := by
  rw [exec_laneLossOfSignal, execLaneLossOfSignal, onLink_live _ h]
  have lost : (lanes.filter fun i => (lanesUsed s n).contains i).isEmpty = false := by
    obtain ⟨i, here, used⟩ := some_
    simpa using ⟨i, here, by simpa using used⟩
  have left : (lanesUsed s n).all (lanes.filter fun i => (lanesUsed s n).contains i).contains = false := by
    obtain ⟨i, used, gone⟩ := notAll
    simp only [List.all_eq_false]
    exact ⟨i, used, by simp_all⟩
  simp only [lost, left, Bool.not_false, Bool.and_true]
  simp [up]

theorem tunDead_runs (h : PortLive s n) {g : Gateway} (up : linkUp (lportOf s n).link = true) (gateway : (lportOf s n).gw = some g) :
    exec (.tunDead n) s = .next (linkAfter (partnerLost (untilTime s (g.lastGood + g.deadUs * 1000)) n) n) := by
  rw [exec_tunDead, execTunDead, onLink_live _ h]
  simp [gateway, up]

end

/-- Settles O41: each timeout or loss runs what R630 says, and the loss of a port that is not up leaves it in DOWN (`goDown_idle`). -/
theorem linkLoss : Obligations.LinkLoss := by
  refine ⟨fun n s h => ⟨fun lanes equalize => equalizeTimeout_runs h lanes equalize, fun identify => ?_, fun config => ?_, fun retrain => ?_,
    fun lowPower => ?_, fun up own => partnerLoss_runs h up own, fun lane active used => laneFail_runs h lane active used,
    fun lanes up hit left => laneLossOfSignal_runs h lanes up hit left, fun g up gateway => tunDead_runs h up gateway⟩, fun n s down whole => ?_⟩
  · exact (exec_identifyTimeout n s).trans (inState_live _ h identify)
  · exact (exec_configTimeout n s).trans (inState_live _ h config)
  · exact (exec_retrainTimeout n s).trans (inState_live _ h retrain)
  · exact (exec_beaconLoss n s).trans (inState_live _ h lowPower)
  · obtain ⟨clk, regions⟩ := goDown_idle_kept down whole
    exact ⟨goDown_idle_lport down whole, goDown_idle_onlyPort down whole, clk, regions⟩

end Sys2Proof.Machine
end

section
/-! Codewords and link control flits on an ACTIVE port (R606 to R621; O42). -/
namespace Sys2Proof.Machine

/-! ## A violation, and what the flits of a codeword leave of the receiver -/

theorem ringWrite_lports (s : State) (e : List Byte) : (ringWrite s e).lports = s.lports := by
  unfold ringWrite
  split
  · rfl
  · dsimp only
    split
    · rfl
    · rfl

/-- What the flits of an accepted codeword leave as it is: the link, the numbers of its codewords, and memory. -/
structure RxKept (n : Nat) (s t : State) : Prop where
  link : (lportOf t n).link = (lportOf s n).link
  rxNext : (lportOf t n).ll.rxNext = (lportOf s n).ll.rxNext
  rxAny : (lportOf t n).ll.rxAny = (lportOf s n).ll.rxAny
  mem : t.mem = s.mem

section
variable {n : Nat} {s t u : State}

theorem RxKept.refl (n : Nat) (s : State) : RxKept n s s := ⟨rfl, rfl, rfl, rfl⟩

theorem RxKept.trans (h : RxKept n s t) (k : RxKept n t u) : RxKept n s u :=
  ⟨k.link.trans h.link, k.rxNext.trans h.rxNext, k.rxAny.trans h.rxAny, k.mem.trans h.mem⟩

theorem rxKept_of_lport (port : lportOf t n = lportOf s n) (mem : t.mem = s.mem) : RxKept n s t :=
  ⟨by rw [port], by rw [port], by rw [port], mem⟩

theorem Quiet.rxKept (h : Quiet s t) (n : Nat) : RxKept n s t := rxKept_of_lport (lportOf_congr h.lports n) h.mem

theorem modLink_rxKept (s : State) (n : Nat) (f : Link → Link) (next : ∀ l, (f l).rxNext = l.rxNext) (any : ∀ l, (f l).rxAny = l.rxAny) :
    RxKept n s (modLink s n f) := by
  refine ⟨?_, ?_, ?_, rfl⟩
  · rw [lportOf_modLink_self]
  · rw [lportOf_modLink_self]
    exact next _
  · rw [lportOf_modLink_self]
    exact any _

end

theorem linkViolation_rxKept (s : State) (n row : Nat) (head : List Byte) : RxKept n s (linkViolation s n row head) := by
  unfold linkViolation violate
  extract_lets w p
  have written : RxKept n s w :=
    rxKept_of_lport (lportOf_congr (ringWrite_lports s _) n) (ringWrite_sameTables s _).mem
  have scored : RxKept n s p := written.trans (((bump_quiet w _).trans (penal_quiet _ n 5)).rxKept n)
  refine scored.trans ⟨?_, ?_, ?_, rfl⟩
  · rw [lportOf_modLport_self]
  · rw [lportOf_modLport_self]
  · rw [lportOf_modLport_self]

theorem linkDropped_rxKept (s : State) (n row : Nat) (head : List Byte) : RxKept n s (linkDropped s n row head) :=
  ((bump_quiet s _).rxKept n).trans (linkViolation_rxKept _ n row head)

theorem packetFlit_rxKept (s : State) (n vc : Nat) (first last : Bool) (size : Nat) (head : List Byte) :
    RxKept n s (packetFlit s n vc first last size head) := by
  unfold packetFlit
  extract_lets ll c used beyond row drop a b
  have dropped : RxKept n s a := by
    unfold a
    split
    · exact linkDropped_rxKept s n row head
    · exact RxKept.refl n s
  have counted : RxKept n a b := modLink_rxKept a n _ (fun _ => rfl) fun _ => rfl
  split
  · exact (dropped.trans counted).trans (rxKept_of_lport rfl rfl)
  · exact dropped.trans counted

theorem takeFlits_rxKept (n k : Nat) (fs : List Flit) (slot : Nat) (s : State) : RxKept n s (takeFlits n k slot s fs) := by
  induction fs generalizing slot s with
  | nil => exact RxKept.refl n s
  | cons f fs ih =>
    cases f with
    | packet vc first last size head =>
      rw [takeFlits]
      refine RxKept.trans ?_ (ih _ _)
      exact (packetFlit_rxKept s n vc first last size head).trans (modLink_rxKept _ n _ (fun _ => rfl) fun _ => rfl)
    | trailer head =>
      rw [takeFlits]
      split
      · exact ih _ _
      · exact (linkDropped_rxKept s n 11 head).trans (ih _ _)
    | control ok head =>
      rw [takeFlits]
      exact ih _ _

theorem sendStatus_rxKept (s : State) (n : Nat) : RxKept n s (sendStatus s n) :=
  ((emit_quiet s _).rxKept n).trans
    (modLink_rxKept (emit s _) n (fun ll => { ll with rxCount := 0, statusAt := s.clk }) (fun _ => rfl) fun _ => rfl)

/-! ## A codeword (R607, R619) -/

theorem penalCodeword_quiet (s : State) (n : Nat) : Quiet s (penalCodeword s n) := by
  unfold penalCodeword
  split
  · exact Quiet.refl s
  · dsimp only
    split
    · exact (ras_quiet s _).trans (penal_quiet _ _ _)
    · exact ras_quiet s _

theorem penalCodeword_ctrs (s : State) (n : Nat) : (penalCodeword s n).ctrs = s.ctrs := by
  unfold penalCodeword
  split
  · rfl
  · dsimp only
    split
    · exact (penal_steady _ _ _).ctrs
    · rfl

/-- A codeword that is not good is counted, and asked for again where no NAK waits (R607, R620). -/
theorem codeword_bad {s : State} {n : Nat} (corrected : Nat) (flits : List Flit) (idle : (lportOf s n).ll.rxWait = none) :
    let u := codeword s n false corrected flits
    ctr u (.link n 0) = satAdd 48 (ctr s (.link n 0)) 1 ∧ .control n (.nak (lportOf s n).ll.rxNext) ∈ u.outs ∧
      (lportOf u n).ll = { (lportOf s n).ll with rxWait := some s.clk } ∧ u.mem = s.mem := by
  have noted : Quiet s (penalCodeword (note (bump s (.link n 0)) "CODEWORD_BAD" [n]) n) :=
    ((bump_quiet s _).trans (note_quiet _ _ _)).trans (penalCodeword_quiet _ n)
  have asked : codeword s n false corrected flits =
      sendNak (penalCodeword (note (bump s (.link n 0)) "CODEWORD_BAD" [n]) n) n (lportOf s n).ll.rxNext := by
    simp [codeword, idle]
  have counted : ctr (penalCodeword (note (bump s (.link n 0)) "CODEWORD_BAD" [n]) n) (.link n 0) = satAdd 48 (ctr s (.link n 0)) 1 := by
    rw [ctr, penalCodeword_ctrs]
    exact ctr_bump_self s _
  intro u
  refine ⟨?_, ?_, ?_, ?_⟩
  · simp [u, asked, sendNak, counted]
  · simp [u, asked, sendNak]
  · simp only [u, asked, sendNak, lportOf_modLink_self, lportOf_emit, lportOf_bump, lportOf_congr noted.lports]
    rw [noted.clk]
  · exact (congrArg State.mem asked).trans noted.mem

theorem foldl_eq_self {α β : Type} {f : β → α → β} {b : β} {l : List α} (h : ∀ x ∈ l, f b x = b) : l.foldl f b = b := by
  induction l with
  | nil => rfl
  | cons x l ih => rw [List.foldl_cons, h x List.mem_cons_self, ih fun y hy => h y (List.mem_cons_of_mem x hy)]

/-- The flits of a codeword that is accepted: its number is used up, and where enough stand, STATUS goes out. -/
def acceptCodeword (s : State) (n : Nat) (flits : List Flit) : State :=
  let k := (lportOf s n).ll.rxNext
  let skip := (lportOf s n).ll.rxSkip
  let t := modLink (modLink s n fun ll => { ll with rxPos := (k + 1) % 4096 }) n fun ll =>
    { ll with rxNext := (k + 1) % 4096, rxAny := true, rxCount := ll.rxCount + 1, rxSkip := 0 }
  let u := takeFlits n k skip t (flits.drop skip)
  if 32 ≤ (lportOf u n).ll.rxCount then sendStatus u n else u

theorem acceptCodeword_effect (s : State) (n : Nat) (flits : List Flit) :
    let u := acceptCodeword s n flits
    (lportOf u n).ll.rxNext = ((lportOf s n).ll.rxNext + 1) % 4096 ∧ (lportOf u n).ll.rxAny = true ∧
      (lportOf u n).link = (lportOf s n).link ∧ u.mem = s.mem := by
  unfold acceptCodeword
  extract_lets k skip t v u
  have taken : RxKept n t v := takeFlits_rxKept n k _ skip t
  have done : RxKept n t u := by
    unfold u
    split
    · exact taken.trans (sendStatus_rxKept v n)
    · exact taken
  have port : lportOf t n = _ := lportOf_modLink_self (modLink s n fun ll => { ll with rxPos := (k + 1) % 4096 }) n _
  refine ⟨by rw [done.rxNext, port], by rw [done.rxAny, port], by rw [done.link, port, lportOf_modLink_self], done.mem⟩

/-- A good codeword in order is accepted once its symbols corrected are counted (R607, R619, R623). -/
theorem codeword_good {s : State} {n : Nat} (corrected : Nat) {flits : List Flit} (idle : (lportOf s n).ll.rxWait = none)
    (inOrder : (lportOf s n).ll.rxPos = (lportOf s n).ll.rxNext) (data : flits.any isData = true) (good : ∀ f ∈ flits, badControl f = false) :
    ∃ t, Quiet s t ∧ codeword s n true corrected flits = acceptCodeword t n flits := by
  have known (t : State) : ∀ f ∈ flits, (match f with
      | .control false head => linkDropped t n 9 head
      | _ => t) = t := by
    intro f hf
    have ok := good f hf
    cases f with
    | control ok' head => cases ok' <;> simp_all [badControl]
    | packet => rfl
    | trailer => rfl
  have counted : Quiet s (if corrected = 0 then bumpBy s (.link n 1) 48 corrected else
      note (bumpBy s (.link n 1) 48 corrected) "CODEWORD_CORRECTED" [n, corrected]) := by
    split
    · exact bumpBy_quiet s _ _ _
    · exact (bumpBy_quiet s _ _ _).trans (note_quiet _ _ _)
  refine ⟨_, counted, ?_⟩
  unfold codeword
  dsimp only
  rw [foldl_eq_self (known _)]
  generalize (if corrected = 0 then bumpBy s (.link n 1) 48 corrected else
      note (bumpBy s (.link n 1) 48 corrected) "CODEWORD_CORRECTED" [n, corrected]) = t at counted ⊢
  simp [data, idle, inOrder, acceptCodeword, lportOf_congr counted.lports]

/-! ## STATUS, NAK and REPLAY (R616 to R622) -/

/-- What STATUS makes of the link: the credit given back, and the codewords it acknowledges. -/
def statusTaken (s : State) (n ack : Nat) (valid : Bool) (credits : List Nat) : State :=
  let t := modLink s n fun ll => { ll with peerFreed := (natRange 0 12).map fun c => credits.getD c 0 % 65536 }
  if valid then ackTo t n ack else t

theorem gotStatus_inWindow {s : State} {n ack : Nat} {valid : Bool} (credits : List Nat)
    (window : valid = true → ((lportOf s n).ll.txNext + 4096 - (ack + 1) % 4096) % 4096 < 2048) :
    gotStatus s n ack valid credits = tryLowPower (pump (statusTaken s n ack valid credits) n) n := by
  have inside : (valid && decide (2048 ≤ ((lportOf s n).ll.txNext + 4096 - (ack + 1) % 4096) % 4096)) = false := by
    cases valid with
    | false => rfl
    | true => exact decide_eq_false (Nat.not_le.mpr (window rfl))
  unfold gotStatus
  dsimp only
  rw [inside, if_neg Bool.false_ne_true]
  rfl

theorem ackTo_onlyPort (s : State) (n seq : Nat) : OnlyPort s (ackTo s n seq) n := onlyPort_modLink s n _

theorem ackTo_held (s : State) (n seq : Nat) :
    (lportOf (ackTo s n seq) n).ll.txHeld = (lportOf s n).ll.txHeld.filter (fun k => !cwBefore k seq) ∧
      (lportOf (ackTo s n seq) n).ll.peerFreed = (lportOf s n).ll.peerFreed := by
  rw [ackTo, lportOf_modLink_self]
  dsimp only
  split
  next none =>
    refine ⟨(List.filter_eq_self.mpr fun k held => ?_).symm, rfl⟩
    have unacked := List.filter_eq_nil_iff.mp (List.isEmpty_iff.mp none) k held
    simpa using unacked
  · refine ⟨List.filter_congr fun k held => ?_, rfl⟩
    simp [held]

theorem statusTaken_effect (s : State) (n ack : Nat) (valid : Bool) (credits : List Nat) :
    let u := statusTaken s n ack valid credits
    (lportOf u n).ll.peerFreed = (natRange 0 12).map (fun c => credits.getD c 0 % 65536) ∧
      (lportOf u n).ll.txHeld =
        (if valid then (lportOf s n).ll.txHeld.filter (fun k => !cwBefore k ack) else (lportOf s n).ll.txHeld) ∧
      OnlyPort s u n ∧ u.clk = s.clk := by
  unfold statusTaken
  extract_lets t u
  have port : lportOf t n = _ := lportOf_modLink_self s n _
  have frame : OnlyPort s t n := onlyPort_modLink s n _
  cases valid with
  | false => exact ⟨by rw [show u = t from rfl, port], by rw [show u = t from rfl, port]; rfl, frame, rfl⟩
  | true =>
    obtain ⟨held, freed⟩ := ackTo_held t n ack
    rw [port] at held freed
    exact ⟨freed, held, onlyPort_trans frame (ackTo_onlyPort t n ack), rfl⟩

/-- NAK of a held number, short of the limit: REPLAY, and every held codeword from it (R621). -/
theorem gotNak_held {s : State} {n seq : Nat} (held : (lportOf s n).ll.txHeld.contains seq = true)
    (again : (if (lportOf s n).ll.replayAt = seq then (lportOf s n).ll.replays + 1 else 1) < regField s (rPortLink (portOf n)) 8 4) :
    gotNak s n seq = replayFrom s n seq := by
  have port : (lportOf (replayFrom s n seq) n).ll.replays = if (lportOf s n).ll.replayAt = seq then (lportOf s n).ll.replays + 1 else 1 := by
    rw [replayFrom, lportOf_modLink_self, lportOf_emit, lportOf_emit, lportOf_bump]
  have limit : regField (replayFrom s n seq) (rPortLink (portOf n)) 8 4 = regField s (rPortLink (portOf n)) 8 4 := rfl
  have goesOn : replaysOut (replayFrom s n seq) n = false := by
    rw [replaysOut, port, limit]
    exact decide_eq_false (Nat.not_le.mpr again)
  rw [gotNak, if_pos held, replayOrRetrain]
  simp [goesOn]

theorem replayFrom_effect (s : State) (n seq : Nat) :
    let u := replayFrom s n seq
    u.outs = s.outs ++ [.control n (.replay seq), .resend n ((lportOf s n).ll.txHeld.dropWhile fun k => k ≠ seq)] ∧
      (lportOf u n).ll.txHeld = (lportOf s n).ll.txHeld ∧ ctr u (.link n 3) = satAdd 48 (ctr s (.link n 3)) 1 ∧
      OnlyPort s u n ∧ u.clk = s.clk := by
  intro u
  refine ⟨?_, ?_, ctr_bump_self s _, ?_, rfl⟩
  · simp [u, replayFrom]
  · simp [u, replayFrom]
  · exact onlyPort_trans (onlyPort_emit (onlyPort_emit ((bump_quiet s _).onlyPort n) _) _) (onlyPort_modLink _ n _)

/-! ### The events, on an ACTIVE port that is live -/

section
variable {s : State} {n : Nat}

theorem codewordReceived_runs (h : PortLive s n) (active : (lportOf s n).link = .active) (rs : Bool) (corrected : Nat) (cw : Codeword) :
    exec (.codewordReceived n rs corrected cw) s =
      .next (linkAfter (codeword s n (codewordGood rs cw) corrected (codewordFlits cw)) n) :=
  (exec_codewordReceived n rs corrected cw s).trans (inState_live _ h active)

theorem status_runs (h : PortLive s n) (active : (lportOf s n).link = .active) (ack : Nat) (valid : Bool) (credits : List Nat) :
    exec (.status n ack valid credits) s = .next (linkAfter (hoodCheck (gotStatus s n ack valid credits)) n) :=
  (exec_status n ack valid credits s).trans (inState_live _ h active)

theorem nak_runs (h : PortLive s n) (active : (lportOf s n).link = .active) (seq : Nat) :
    exec (.nak n seq) s = .next (linkAfter (gotNak s n seq) n) :=
  (exec_nak n seq s).trans (inState_live _ h active)

theorem replay_runs (h : PortLive s n) (active : (lportOf s n).link = .active) (seq : Nat) :
    exec (.replay n seq) s = .next (linkAfter (gotReplay s n seq) n) :=
  (exec_replay n seq s).trans (inState_live _ h active)

end

/-- Settles O42: a codeword by `codeword_bad` and `acceptCodeword_effect`, the link control flits by what each makes of the port. -/
theorem linkCodewords : Obligations.LinkCodewords := by
  intro n s h active
  refine ⟨fun rs corrected cw idle bad => ?_, fun corrected cw idle crc inOrder data good => ?_, fun ack valid credits window => ?_,
    fun seq held again => ?_, fun seq gone => ?_, fun seq before => ?_, ?_⟩
  · have notGood : codewordGood rs cw = false := by
      rcases bad with bad | bad
      · simp [codewordGood, bad]
      · simp [codewordGood, bad]
    refine ⟨_, codewordReceived_runs h active rs corrected cw, ?_⟩
    rw [notGood]
    exact codeword_bad corrected _ idle
  · have isGood : codewordGood true cw = true := by simp [codewordGood, crc]
    obtain ⟨t, counted, accepted⟩ := codeword_good corrected idle inOrder data good
    obtain ⟨next, any, link, mem⟩ := acceptCodeword_effect t n (codewordFlits cw)
    rw [lportOf_congr counted.lports] at next link
    refine ⟨_, codewordReceived_runs h active true corrected cw, ?_⟩
    rw [isGood, accepted]
    exact ⟨next, any, link.trans active, mem.trans counted.mem⟩
  · refine ⟨statusTaken s n ack valid credits, ?_, statusTaken_effect s n ack valid credits⟩
    rw [status_runs h active, gotStatus_inWindow credits window]
  · refine ⟨replayFrom s n seq, ?_, replayFrom_effect s n seq⟩
    rw [nak_runs h active, gotNak_held held again]
  · rw [nak_runs h active, gotNak, if_neg (Bool.eq_false_iff.mp gone)]
  · refine ⟨_, (replay_runs h active seq).trans (by rw [gotReplay, if_pos before]), ?_⟩
    exact ⟨lportOf_modLink_self s n _, onlyPort_modLink s n _, rfl, rfl⟩
  · rw [exec_idle, execIdle, live_running _ h.1.1]

end Sys2Proof.Machine
end

section
/-! ESCAPE, the timers of a port, low power and secure frames (R591 to R593, R615 to R636; O43). -/
namespace Sys2Proof.Machine

section
variable {s : State} {n : Nat}

theorem untilTime_onlyPort (s : State) (at_ : Time) (n : Nat) : OnlyPort s (untilTime s at_) n :=
  ⟨fun m _ => lportOf_untilTime s at_ m, by simp, by simp, by simp, by simp, by simp, by simp, by simp, by simp⟩

/-! ## ESCAPE and the timers (R615, R616, R620, R621) -/

theorem escape_runs (h : PortLive s n) (active : (lportOf s n).link = .active) (switch : (lportOf s n).role = some .switch)
    (given : ∃ v, v < 6 ∧ (lportOf s n).ll.adv.getD (2 * v + 1) 0 ≠ 0) :
    exec (.escape n) s = .next (linkAfter (modLink s n fun ll => { ll with escNext := true }) n) := by
  obtain ⟨v, lt, some_⟩ := given
  have advertised : ((natRange 0 6).all fun v => (lportOf s n).ll.adv.getD (2 * v + 1) 0 = 0) = false := by
    rw [List.all_eq_false]
    exact ⟨v, by simp [natRange]; omega, by simpa using some_⟩
  rw [exec_escape, execEscape, inState_live _ h active]
  dsimp only
  rw [advertised, switch]
  simp

theorem ackTimeout_runs (h : PortLive s n) (active : (lportOf s n).link = .active) {k : Nat} {ks : List Nat}
    (held : (lportOf s n).ll.txHeld = k :: ks) :
    exec (.ackTimeout n) s = .next (linkAfter
      (replayOrRetrain (untilTime s ((lportOf s n).ll.txSince + regField s (rPortLink (portOf n)) 0 8 * 100)) n k) n) := by
  rw [exec_ackTimeout, execAckTimeout, inState_live _ h active, held]

theorem nakRepeat_runs (h : PortLive s n) (active : (lportOf s n).link = .active) {t : Time} (asked : (lportOf s n).ll.rxWait = some t) :
    exec (.nakRepeat n) s = .next (linkAfter (sendNak (untilTime s (t + 1000)) n (lportOf s n).ll.rxNext) n) := by
  rw [exec_nakRepeat, execNakRepeat, inState_live _ h active, asked]
  dsimp only
  rw [lportOf_untilTime]

theorem sendNak_at (s : State) (n : Nat) (at_ : Time) :
    let u := sendNak (untilTime s at_) n (lportOf s n).ll.rxNext
    u.clk = max s.clk at_ ∧ u.outs = s.outs ++ [.control n (.nak (lportOf s n).ll.rxNext)] ∧
      lportOf u n = { lportOf s n with ll := { (lportOf s n).ll with rxWait := some u.clk } } ∧ OnlyPort s u n := by
  intro u
  have clk : u.clk = (untilTime s at_).clk := rfl
  refine ⟨untilTime_clk s at_, ?_, ?_, ?_⟩
  · simp [u, sendNak]
  · rw [clk]
    simp [u, sendNak]
  · exact onlyPort_trans (untilTime_onlyPort s at_ n)
      (onlyPort_trans (onlyPort_emit ((bump_quiet _ (.link n 2)).onlyPort n) _) (onlyPort_modLink _ n _))

theorem sendStatus_at (s : State) (n : Nat) (at_ : Time) :
    let u := sendStatus (untilTime s at_) n
    u.clk = max s.clk at_ ∧
      u.outs = s.outs ++ [.control n (.status (((lportOf s n).ll.rxNext + 4095) % 4096) (lportOf s n).ll.rxAny (lportOf s n).ll.freed)] ∧
      lportOf u n = { lportOf s n with ll := { (lportOf s n).ll with rxCount := 0, statusAt := u.clk } } ∧ OnlyPort s u n := by
  intro u
  have clk : u.clk = (untilTime s at_).clk := rfl
  refine ⟨untilTime_clk s at_, ?_, ?_, ?_⟩
  · simp [u, sendStatus, statusFlit]
  · rw [clk]
    simp [u, sendStatus]
  · exact onlyPort_trans (untilTime_onlyPort s at_ n) (onlyPort_trans ((emit_quiet _ _).onlyPort n) (onlyPort_modLink _ n _))

theorem beacon_at (s : State) (n : Nat) (at_ : Time) :
    let u := emit (modLink (untilTime s at_) n fun ll => { ll with beaconAt := (untilTime s at_).clk }) (.beacon n)
    u.clk = max s.clk at_ ∧ u.outs = s.outs ++ [.beacon n] ∧
      lportOf u n = { lportOf s n with ll := { (lportOf s n).ll with beaconAt := u.clk } } ∧ OnlyPort s u n := by
  intro u
  have clk : u.clk = (untilTime s at_).clk := rfl
  refine ⟨untilTime_clk s at_, by simp [u], ?_, ?_⟩
  · rw [clk]
    simp [u]
  · exact onlyPort_emit (onlyPort_trans (untilTime_onlyPort s at_ n) (onlyPort_modLink _ n _)) _

/-! ## Low power (R635, R636) -/

theorem lpReq_waits (h : PortLive s n) (active : (lportOf s n).link = .active) (busy : portQuiet s n = false) :
    exec (.lpReq n) s = .next (linkAfter (emit s (.control n .lpNak)) n) := by
  rw [exec_lpReq, execLpReq, inState_live _ h active, if_neg (Bool.eq_false_iff.mp busy)]

theorem lpReq_agreed (h : PortLive s n) (active : (lportOf s n).link = .active) (quiet : portQuiet s n = true) :
    exec (.lpReq n) s = .next (linkAfter (tryLowPower
      (emit (modLink s n fun ll => { ll with lp := .granted }) (.control n .lpAck)) n) n) := by
  rw [exec_lpReq, execLpReq, inState_live _ h active, if_pos quiet]

/-- The port after LP_ACK, and the entry to Hooded that waited for it. -/
def lpAgreed (s : State) (n : Nat) : State :=
  modPower (tryLowPower (modLink s n fun ll => { ll with lp := .acked }) n) fun p => { p with hooding := p.hooding.map fun h =>
    { h with await := h.await.filter (· ≠ n), agreed := h.agreed ++ [n] } }

theorem lpAck_runs (h : PortLive s n) (active : (lportOf s n).link = .active) (asked : (lportOf s n).ll.lp = .asked) :
    exec (.lpAck n) s = .next (hoodCheck (lpAgreed s n)) := by
  rw [exec_lpAck, execLpAck, live_running _ h.1.1]
  simp [active, asked, lpAgreed]

theorem tryLowPower_onlyPort (s : State) (n : Nat) : OnlyPort s (tryLowPower s n) n := by
  unfold tryLowPower
  dsimp only
  split
  · exact onlyPort_trans (onlyPort_setLink s n _) (onlyPort_modLink _ n _)
  · exact onlyPort_refl s n

theorem tryLowPower_power (s : State) (n : Nat) : (tryLowPower s n).power = s.power := by
  unfold tryLowPower
  dsimp only
  split
  · rfl
  · rfl

theorem lpAgreed_sleeps (active : (lportOf s n).link = .active) (held : (lportOf s n).ll.txHeld = []) (queue : (lportOf s n).ll.txq = []) :
    (lportOf (lpAgreed s n) n).link = .lowPower := by
  simp [lpAgreed, tryLowPower, active, held, queue]

theorem lpAgreed_waits (active : (lportOf s n).link = .active) (held : (lportOf s n).ll.txHeld ≠ []) :
    (lportOf (lpAgreed s n) n).link = .active ∧ (lportOf (lpAgreed s n) n).ll.lp = .acked := by
  simp [lpAgreed, tryLowPower, active, held]

theorem lpAgreed_hooding {k : Hooding} (entering : s.power.hooding = some k) : (lpAgreed s n).power.hooding =
    some { k with await := k.await.filter (· ≠ n), agreed := k.agreed ++ [n] } := by
  rw [lpAgreed, modPower_power, tryLowPower_power, modLink_power, entering]
  rfl

theorem lpAgreed_onlyPort (s : State) (n : Nat) : OnlyPort s (lpAgreed s n) n :=
  onlyPort_trans (onlyPort_trans (onlyPort_modLink s n _) (tryLowPower_onlyPort _ n)) ⟨fun _ _ => rfl, rfl, rfl, rfl, rfl, rfl, rfl, rfl, rfl⟩

theorem lpNak_runs (h : PortLive s n) (asked : (lportOf s n).ll.lp = .asked) :
    exec (.lpNak n) s = .next (hoodRefused (modLink s n fun ll => { ll with lp := .idle })) := by
  rw [exec_lpNak, execLpNak, live_running _ h.1.1]
  simp [asked]

theorem beaconTimer_runs (h : PortLive s n) (lowPower : (lportOf s n).link = .lowPower) :
    exec (.beaconTimer n) s = .next (linkAfter (emit (modLink (untilTime s ((lportOf s n).ll.beaconAt + 50000)) n
      fun ll => { ll with beaconAt := (untilTime s ((lportOf s n).ll.beaconAt + 50000)).clk }) (.beacon n)) n) :=
  (exec_beaconTimer n s).trans (inState_live _ h lowPower)

theorem lowPowerExit_runs (h : PortLive s n) (lowPower : (lportOf s n).link = .lowPower) (awake : s.power.hooding = none)
    (lit : s.power.chip ≠ .hooded) :
    exec (.lowPowerExit n) s =
      .next (linkAfter (pump (modLink (setLink (markBusy s) n .active) n fun ll => { ll with lp := .idle }) n) n) := by
  have woken : wakeChip s = markBusy s := by simp [wakeChip, awake, lit]
  rw [exec_lowPowerExit, execLowPowerExit, inState_live _ h lowPower, woken]

theorem lowPowerExit_effect (s : State) (n : Nat) :
    let u := modLink (setLink (markBusy s) n .active) n fun ll => { ll with lp := .idle }
    lportOf u n = { lportOf s n with link := .active, entered := s.clk, ll := { (lportOf s n).ll with lp := .idle } } ∧
      OnlyPort s u n ∧ u.clk = s.clk := by
  intro u
  refine ⟨?_, ?_, rfl⟩
  · simp [u]
  · exact onlyPort_trans ((markBusy_quiet s).onlyPort n) (onlyPort_trans (onlyPort_setLink _ n _) (onlyPort_modLink _ n _))

/-! ## Secure frames (R591 to R593) -/

/-- The port after a secure frame whose tag verifies: its slot is current, and its counter goes on. -/
def frameAccepted (s : State) (n slot count : Nat) : State :=
  let l := lportOf s n
  let fresh := slot ≠ l.sec.rxSlot
  let x : Secure := { l.sec with
    rxSlot := slot, rxCtr := count + 1, failedOnce := none
    rxKeys := if fresh then l.sec.rxKeys.set l.sec.rxSlot none else l.sec.rxKeys
    txWant := if fresh && slot ≠ l.sec.txSlot && (l.sec.txKeys.getD slot none).isSome then some slot else l.sec.txWant }
  modLport s n fun l => { l with sec := x, ll := { l.ll with frameAt := none, frameFlits := 0 } }

/-- The port after the first frame in a row whose tag does not verify: it is asked for again from where it began. -/
def frameRejected (s : State) (n count : Nat) : State :=
  let at_ := (lportOf s n).ll.frameAt.getD ((lportOf s n).ll.rxNext, 0)
  sendNak (modLport (penal (bump s (.secureReject n)) n 50) n fun l => { l with
    sec := { l.sec with failedOnce := some count }
    ll := { l.ll with rxNext := at_.1, rxSkip := at_.2, frameAt := none, frameFlits := 0 } }) n at_.1

theorem secureFrame_expected {slot count : Nat} (data : List Byte) {key : List Byte} (tag : BitVec 128) (marked : (lportOf s n).marked = true)
    (keyed : (lportOf s n).sec.rxKeys.getD slot none = some key)
    (next : count = (if slot ≠ (lportOf s n).sec.rxSlot then 0 else (lportOf s n).sec.rxCtr)) (first : (lportOf s n).sec.failedOnce ≠ some count) :
    secureFrame s n slot count data tag =
      if Config.gcmVerify (key.take 32) (key.drop 32 ++ leBytes 8 count) (leBytes 8 count ++ leBytes 1 (data.length / 64) ++ leBytes 7 slot) data tag
      then pump (frameAccepted s n slot count) n else frameRejected s n count := by
  unfold secureFrame
  extract_lets l key' fresh expect ok _ x again
  have expected : expect = count := next.symm
  clear_value expect
  subst expected
  have verified : ok = Config.gcmVerify (key.take 32) (key.drop 32 ++ leBytes 8 expect)
      (leBytes 8 expect ++ leBytes 1 (data.length / 64) ++ leBytes 7 slot) data tag := by
    unfold ok key'
    rw [keyed]
    simp
  have fresh_ : ¬ again := first
  rw [if_neg (by simp [l, marked]), verified]
  split
  · rfl
  · rfl

theorem frameAccepted_effect (s : State) (n slot count : Nat) :
    let u := frameAccepted s n slot count
    (lportOf u n).sec.rxSlot = slot ∧ (lportOf u n).sec.rxCtr = count + 1 ∧ (lportOf u n).sec.failedOnce = none ∧ OnlyPort s u n := by
  have port : lportOf (frameAccepted s n slot count) n = _ := lportOf_modLport_self s n _
  exact ⟨by rw [port], by rw [port], by rw [port], onlyPort_modLport s n _⟩

theorem frameRejected_effect (s : State) (n count : Nat) :
    let v := frameRejected s n count
    ctr v (.secureReject n) = satAdd 48 (ctr s (.secureReject n)) 1 ∧ (lportOf v n).sec = { (lportOf s n).sec with failedOnce := some count } ∧
      (lportOf v n).ll.rxNext = ((lportOf s n).ll.frameAt.getD ((lportOf s n).ll.rxNext, 0)).1 ∧ (lportOf v n).ll.rxWait = some s.clk ∧
      OnlyPort s v n := by
  have counted : Quiet s (penal (bump s (.secureReject n)) n 50) := (bump_quiet s _).trans (penal_quiet _ n 50)
  have rejects : ctr (penal (bump s (.secureReject n)) n 50) (.secureReject n) = satAdd 48 (ctr s (.secureReject n)) 1 := by
    rw [ctr, (penal_steady _ n 50).ctrs]
    exact ctr_bump_self s _
  unfold frameRejected
  generalize penal (bump s (.secureReject n)) n 50 = p at counted rejects
  have port := lportOf_congr counted.lports n
  extract_lets at_ v
  have asked : lportOf v n = _ := lportOf_modLink_self (emit (bump (modLport p n _) (.link n 2)) (.control n (.nak at_.1))) n _
  rw [lportOf_emit, lportOf_bump, lportOf_modLport_self, port] at asked
  refine ⟨?_, by rw [asked], by rw [asked], ?_, ?_⟩
  · simp [v, sendNak, rejects]
  · rw [asked, ← counted.clk]
    rfl
  · exact onlyPort_trans (counted.onlyPort n) (onlyPort_trans (onlyPort_modLport _ n _)
      (onlyPort_trans (onlyPort_emit ((bump_quiet _ (.link n 2)).onlyPort n) _) (onlyPort_modLink _ n _)))

theorem secureFrame_runs (h : PortLive s n) (active : (lportOf s n).link = .active) (slot count : Nat) (data : List Byte) (tag : BitVec 128) :
    exec (.secureFrame n slot count data tag) s = .next (linkAfter (secureFrame s n slot count data tag) n) :=
  (exec_secureFrame n slot count data tag s).trans (inState_live _ h active)

theorem statusTimer_runs (h : PortLive s n) (active : (lportOf s n).link = .active) :
    exec (.statusTimer n) s = .next (linkAfter (sendStatus (untilTime s ((lportOf s n).ll.statusAt + 100)) n) n) :=
  (exec_statusTimer n s).trans (inState_live _ h active)

end

/-- Settles O43: each timer by what it sends at its time, LP_ACK by `lpAgreed`, and a secure frame by whether its tag verifies. -/
theorem linkTimersAndFrames : Obligations.LinkTimersAndFrames := by
  refine ⟨fun n s h => ⟨fun active switch given => ?_, fun k ks active held => ackTimeout_runs h active held, fun t active asked => ?_,
    fun active => ?_, fun active busy => ⟨_, lpReq_waits h active busy, rfl⟩, fun active quiet => ?_, fun active asked => ?_, fun asked => ?_,
    fun lowPower => ?_, fun lowPower awake lit => ?_⟩, fun n slot count data key tag s h active marked keyed next first => ?_⟩
  · exact ⟨_, escape_runs h active switch given, lportOf_modLink_self s n _, onlyPort_modLink s n _, rfl⟩
  · exact ⟨_, nakRepeat_runs h active asked, sendNak_at s n _⟩
  · exact ⟨_, statusTimer_runs h active, sendStatus_at s n _⟩
  · exact ⟨_, lpReq_agreed h active quiet, rfl, (lportOf_emit ..).trans (lportOf_modLink_self s n _), onlyPort_emit (onlyPort_modLink s n _) _, rfl⟩
  · obtain ⟨others, mem, -⟩ := lpAgreed_onlyPort s n
    exact ⟨_, lpAck_runs h active asked, lpAgreed_sleeps active, lpAgreed_waits active, fun k entering => lpAgreed_hooding entering, others, mem⟩
  · exact ⟨_, lpNak_runs h asked, lportOf_modLink_self s n _, onlyPort_modLink s n _, rfl⟩
  · exact ⟨_, beaconTimer_runs h lowPower, beacon_at s n _⟩
  · exact ⟨_, lowPowerExit_runs h lowPower awake lit, lowPowerExit_effect s n⟩
  · obtain ⟨slotNow, counter, once, frame⟩ := frameAccepted_effect s n slot count
    exact ⟨frameAccepted s n slot count, frameRejected s n count,
      by rw [secureFrame_runs h active, secureFrame_expected data tag marked keyed next first], slotNow, counter, once, frame,
      frameRejected_effect s n count⟩

end Sys2Proof.Machine
end

section
/-! Gateways (R641 to R645), host bridge links (R647) and the PORT commands of links (R639, R641, R982; O44). -/
namespace Sys2Proof.Machine

section
variable {s : State} {n : Nat} {g : Gateway}

/-! ## Tunnel and PFC frames (R642, R644) -/

/-- A gateway after the next frame in order, with an acknowledgement: the frames it acknowledges are held no longer. -/
def tunnelAcked (s : State) (g : Gateway) (ack : Nat) : Gateway :=
  let held := g.held.filter fun h => decide (2 ^ 31 ≤ (ack + 2 ^ 32 - h.1) % 2 ^ 32)
  let moved := held.length ≠ g.held.length
  { g with held := held, acked := if moved then ack else g.acked, lastGood := s.clk
           heldSince := if moved then s.clk else g.heldSince, rxSeq := (g.rxSeq + 1) % 2 ^ 32 }

/-- Its port. -/
def tunnelTaken (s : State) (n : Nat) (g : Gateway) (ack : Nat) : State :=
  modLink (modLport s n fun l => { l with gw := some (tunnelAcked s g ack) }) n fun ll =>
    { ll with txPkts := ll.txPkts.filter fun x => (tunnelAcked s g ack).held.any fun h => h.1 = x.1 }

theorem tunnelFrame_next (h : PortLive s n) (active : (lportOf s n).link = .active) (gateway : (lportOf s n).gw = some g) (ack : Nat)
    {flits : Nat} (some_ : 0 < flits) (fits : flits ≤ 128) :
    exec (.tunnelFrame n ((g.rxSeq + 1) % 2 ^ 32) ack flits true) s = .next (linkAfter (pump (tunnelTaken s n g ack) n) n) := by
  have taken : (!true || decide (128 < flits)) = false := by simpa using fits
  have data : (decide (flits ≠ 0) && decide ((g.rxSeq + 1) % 2 ^ 32 = (g.rxSeq + 1) % 2 ^ 32)) = true := by simpa using Nat.ne_of_gt some_
  rw [exec_tunnelFrame, execTunnelFrame, inState_live _ h active, gateway]
  dsimp only
  rw [taken, data]
  simp [tunnelTaken, tunnelAcked]

theorem tunnelTaken_gw (s : State) (n : Nat) (g : Gateway) (ack : Nat) : (lportOf (tunnelTaken s n g ack) n).gw = some (tunnelAcked s g ack) := by
  rw [tunnelTaken, lportOf_modLink_self, lportOf_modLport_self]

theorem tunnelTaken_onlyPort (s : State) (n : Nat) (g : Gateway) (ack : Nat) : OnlyPort s (tunnelTaken s n g ack) n :=
  onlyPort_trans (onlyPort_modLport s n _) (onlyPort_modLink _ n _)

theorem tunnelFrame_bad (h : PortLive s n) (active : (lportOf s n).link = .active) (gateway : (lportOf s n).gw = some g) (seq ack flits : Nat) :
    exec (.tunnelFrame n seq ack flits false) s = .next (linkAfter (bump s (.gwDiscard n)) n) := by
  rw [exec_tunnelFrame, execTunnelFrame, inState_live _ h active, gateway]
  simp

/-- A gateway whose network pauses priorities for their quanta. -/
def pfcPaused (s : State) (n : Nat) (quanta : List (Nat × Nat)) (g : Gateway) : Gateway :=
  { g with paused := quanta.foldl (fun p q => kset p (q.1 % 8) (s.clk + q.2 % 65536 * 512 / (200 * max 1 (lanesUsed s n).length))) g.paused }

theorem pfcFrame_runs (h : PortLive s n) (active : (lportOf s n).link = .active) (quanta : List (Nat × Nat)) :
    exec (.pfcFrame n quanta) s = .next (linkAfter (modLport s n fun l => { l with gw := l.gw.map (pfcPaused s n quanta) }) n) :=
  (exec_pfcFrame n quanta s).trans (inState_live _ h active)

theorem pfcFrame_gw (gateway : (lportOf s n).gw = some g) (quanta : List (Nat × Nat)) :
    (lportOf (modLport s n fun l => { l with gw := l.gw.map (pfcPaused s n quanta) }) n).gw = some (pfcPaused s n quanta g) := by
  rw [lportOf_modLport_self, gateway]
  rfl

/-! ## The timers of a gateway (R644) -/

theorem tunnels_outs (n seq : Nat) (hs : List (Nat × Nat)) (s : State) :
    (hs.foldl (fun s h => emit s (.tunnel n h.1 seq h.2)) s).outs = s.outs ++ hs.map fun h => .tunnel n h.1 seq h.2 := by
  induction hs generalizing s with
  | nil => simp
  | cons h hs ih => rw [List.foldl_cons, ih, emit_outs, List.map_cons, List.append_assoc, List.singleton_append]

theorem tunnels_quiet (n seq : Nat) (hs : List (Nat × Nat)) (s : State) :
    Quiet s (hs.foldl (fun s h => emit s (.tunnel n h.1 seq h.2)) s) := foldl_quiet _ (fun _ _ => emit_quiet _ _) hs s

/-- Every held frame goes out again at a time. -/
def tunnelAgain (s : State) (n : Nat) (g : Gateway) (at_ : Time) : State :=
  let t := g.held.foldl (fun s h => emit s (.tunnel n h.1 g.rxSeq h.2)) (untilTime s at_)
  modLport t n fun l => { l with gw := some { g with heldSince := t.clk, lastSent := t.clk } }

theorem tunnelAgain_effect (s : State) (n : Nat) (g : Gateway) (at_ : Time) :
    let u := tunnelAgain s n g at_
    u.clk = max s.clk at_ ∧ u.outs = s.outs ++ g.held.map (fun h => .tunnel n h.1 g.rxSeq h.2) ∧
      lportOf u n = { lportOf s n with gw := some { g with heldSince := u.clk, lastSent := u.clk } } ∧ OnlyPort s u n := by
  have sent := tunnels_quiet n g.rxSeq g.held (untilTime s at_)
  have outs := tunnels_outs n g.rxSeq g.held (untilTime s at_)
  unfold tunnelAgain
  generalize g.held.foldl (fun s h => emit s (.tunnel n h.1 g.rxSeq h.2)) (untilTime s at_) = t at sent outs
  dsimp only
  have port : lportOf t n = lportOf s n := (lportOf_congr sent.lports n).trans (lportOf_untilTime s at_ n)
  refine ⟨sent.clk.trans (untilTime_clk s at_), ?_, ?_, ?_⟩
  · exact outs.trans (by rw [untilTime_outs])
  · rw [lportOf_modLport_self, port]
    rfl
  · exact onlyPort_trans (onlyPort_trans (untilTime_onlyPort s at_ n) (sent.onlyPort n)) (onlyPort_modLport t n _)

theorem tunRto_runs (h : PortLive s n) (active : (lportOf s n).link = .active) (gateway : (lportOf s n).gw = some g) (held : g.held ≠ []) :
    exec (.tunRto n) s = .next (linkAfter (tunnelAgain s n g (g.heldSince + g.rtoUs * 1000)) n) := by
  have some_ : g.held.isEmpty = false := by simpa using held
  rw [exec_tunRto, execTunRto, inState_live _ h active, gateway]
  dsimp only
  rw [some_]
  rfl

theorem tunnelKeepalive_runs (h : PortLive s n) (active : (lportOf s n).link = .active) (gateway : (lportOf s n).gw = some g) :
    exec (.tunnelKeepalive n) s = .next (linkAfter (emit (modLport (untilTime s (g.lastSent + 10000)) n
      fun l => { l with gw := some { g with lastSent := (untilTime s (g.lastSent + 10000)).clk } }) (.tunnel n 0 g.rxSeq 0)) n) := by
  rw [exec_tunnelKeepalive, execTunnelKeepalive, inState_live _ h active, gateway]
  rfl

theorem keptAlive_effect (s : State) (n : Nat) (g : Gateway) (at_ : Time) :
    let u := emit (modLport (untilTime s at_) n fun l => { l with gw := some { g with lastSent := (untilTime s at_).clk } }) (.tunnel n 0 g.rxSeq 0)
    u.clk = max s.clk at_ ∧ u.outs = s.outs ++ [.tunnel n 0 g.rxSeq 0] ∧
      lportOf u n = { lportOf s n with gw := some { g with lastSent := u.clk } } ∧ OnlyPort s u n := by
  intro u
  have clk : u.clk = (untilTime s at_).clk := rfl
  refine ⟨untilTime_clk s at_, by simp [u], ?_, ?_⟩
  · rw [clk]
    simp [u]
  · exact onlyPort_emit (onlyPort_trans (untilTime_onlyPort s at_ n) (onlyPort_modLport _ n _)) _

theorem hbLinkLoss_runs (up : running s = true) {b : Nat} (lt : b < 4) :
    exec (.hbLinkLoss b) s = .next (note (bridgeDown s b) "HB_LINK_LOSS" [b]) := by
  rw [exec_hbLinkLoss, execHbLinkLoss, live_running _ up, if_pos lt]

/-! ## The PORT commands of links (R639, R641, R982) -/

variable {c : Cmd}

theorem startCmd_onlyPort (s : State) (c : Cmd) (sp : CmdSpec) (n : Nat) : OnlyPort s (startCmd s c sp) n := (startCmd_quiet s c sp).onlyPort n

theorem lportThere_started {sp : CmdSpec} {m : Nat} (there : lportThere s m = true) : ¬ (!lportThere (startCmd s c sp) m) = true := by
  have same : lportThere (startCmd s c sp) m = lportThere s m := rfl
  rw [same, there]
  exact Bool.false_ne_true

theorem portRetrain_runs (runs : CmdRuns s c (portSpec 4 [(0, 4)] 0) none true) (there : lportThere s (arg c 0 4) = true)
    (active : (lportOf s (arg c 0 4)).link = .active) :
    exec (.portRetrain c) s = .next (toRetrain (modLport (startCmd s c (portSpec 4 [(0, 4)] 0)) (arg c 0 4)
      fun l => { l with retrainBy := l.retrainBy ++ [cmdRef c] }) (arg c 0 4)) := by
  rw [exec_portRetrain, execPortRetrain, live_runCmd _ runs]
  exact congrArg Host.Outcome.next ((if_neg (lportThere_started there)).trans (if_neg (not_not_intro active)))

theorem toRetrain_active (active : (lportOf s n).link = .active) :
    (∃ b, lportOf (toRetrain s n) n = { lportOf s n with link := .retrain, entered := b }) ∧ OnlyPort s (toRetrain s n) n := by
  have counted : Quiet (setLink s n .retrain) (toRetrain s n) := by
    rw [toRetrain, if_pos active]
    exact (bump_quiet _ _).trans (penal_quiet _ _ _)
  exact ⟨⟨s.clk, by rw [lportOf_congr counted.lports, lportOf_setLink_self]⟩, onlyPort_trans (onlyPort_setLink s n _) (counted.onlyPort n)⟩

theorem portRelease_runs (runs : CmdRuns s c (portSpec 5 [(0, 4)] 0) none true) (there : lportThere s (arg c 0 4) = true)
    (quarantined : (lportOf s (arg c 0 4)).link = .quarantined) :
    exec (.portRelease c) s = .next (complete (setLink (startCmd s c (portSpec 5 [(0, 4)] 0)) (arg c 0 4) .down) (cmdRef c) 0 0 []) := by
  rw [exec_portRelease, execPortRelease, live_runCmd _ runs]
  exact congrArg Host.Outcome.next ((if_neg (lportThere_started there)).trans (if_neg (not_not_intro quarantined)))

theorem portLinkStats_runs (runs : CmdRuns s c (portSpec 6 [(0, 4)] 0) none true) (there : arg c 0 4 < 512) :
    exec (.portLinkStats c) s = .next (complete (startCmd s c (portSpec 6 [(0, 4)] 0)) (cmdRef c) 0 0
      ((natRange 0 10).flatMap fun k => leBytes 8 (ctr s (.link (arg c 0 4) k)))) := by
  rw [exec_portLinkStats, execPortLinkStats, live_runCmd _ runs]
  exact congrArg Host.Outcome.next (if_neg (Nat.not_le.mpr there))

end

/-- What the checks of all commands need to know of PORT.SET_GATEWAY. -/
abbrev gatewaySpec : CmdSpec :=
  portSpec 3 [(0, 4), (8, 6), (16, 6), (4, 2), (6, 1), (14, 2), (22, 2), (24, 2), (26, 2), (28, 1)] 0

/-- The gateway that PORT.SET_GATEWAY makes. -/
def gatewayOf (c : Cmd) (at_ : Time) : Gateway :=
  { ownMac := arg c 8 6, peerMac := arg c 16 6, vlan := if arg c 4 2 = 0xFFFF then none else some (arg c 4 2)
    pcp := (natRange 0 6).map fun v => bits (arg c 14 2 + 2 ^ 16 * arg c 22 2) (4 * v) 4
    rtoUs := arg c 24 2, deadUs := arg c 26 2, retxMib := arg c 28 1, lastGood := at_ }

/-- The buffer that it reserves. -/
def gatewayReserved (s : State) (c : Cmd) : State :=
  { s with mem := { s.mem with reserved := kset s.mem.reserved (1000 + arg c 0 4) (ceilDiv (arg c 28 1) 2) } }

/-- What R641 asks of its parameters. -/
structure GatewayLegal (s : State) (c : Cmd) : Prop where
  there : lportThere s (arg c 0 4) = true
  allowed : regField s (rPort (portOf (arg c 0 4))) 3 1 = 1
  own : macOk (arg c 8 6) = true
  peer : macOk (arg c 16 6) = true
  vlan : arg c 4 2 ≤ 4094 ∨ arg c 4 2 = 0xFFFF
  pcp : ∀ v, v < 6 → bits (arg c 14 2 + 2 ^ 16 * arg c 22 2) (4 * v) 4 ≤ 7
  rto : 5 ≤ arg c 24 2 ∧ arg c 24 2 ≤ 5000
  dead : 10 ≤ arg c 26 2 ∧ arg c 26 2 ≤ 10000
  retx : 1 ≤ arg c 28 1 ∧ arg c 28 1 ≤ 16

theorem portSetGateway_runs {s : State} {c : Cmd} (runs : CmdRuns s c gatewaySpec none true) (legal : GatewayLegal s c)
    (room : ceilDiv (arg c 28 1) 2 ≤ t1Free s) :
    exec (.portSetGateway c) s = .next (complete (modLport (gatewayReserved (startCmd s c gatewaySpec) c) (arg c 0 4)
      fun l => { l with gw := some (gatewayOf c s.clk), marked := true }) (cmdRef c) 0 0 []) := by
  obtain ⟨there, allowed, own, peer, vlan, pcp, rto, dead, retx⟩ := legal
  rw [exec_portSetGateway, execPortSetGateway, live_runCmd _ runs]
  refine congrArg Host.Outcome.next ((if_neg ?_).trans (if_neg ?_))
  · have same : regField (startCmd s c gatewaySpec) (rPort (portOf (arg c 0 4))) 3 1 = 1 := allowed
    have noPcp : ((natRange 0 6).map fun v => bits (arg c 14 2 + 2 ^ 16 * arg c 22 2) (4 * v) 4).any (fun p => decide (7 < p)) = false := by
      rw [List.any_map, List.any_eq_false]
      intro v hv
      have lt : v < 6 := by simp [natRange] at hv; omega
      simpa using pcp v lt
    simp only [lportThere_started there, same, own, peer, noPcp]
    simp [rto, dead, retx]
    omega
  · exact Nat.not_lt.mpr (Nat.le_add_right_of_le room)

/-- Settles O44: each tunnel or PFC frame by the gateway it leaves, each command by the port or counters it names. -/
theorem gatewaysAndPortCommands : Obligations.GatewaysAndPortCommands := by
  refine ⟨fun n s g h gateway active => ⟨fun ack flits some_ fits => ?_, fun seq ack flits => tunnelFrame_bad h active gateway seq ack flits,
    fun prio quanta => ?_, fun held => ?_, ?_, fun b lt => ?_⟩,
    fun c s => ⟨fun runs there active => ?_, fun runs there quarantined => ?_, fun runs there => ?_,
      fun runs there allowed own peer vlan pcp rto rto' dead dead' retx retx' room => ?_⟩⟩
  · exact ⟨_, _, tunnelFrame_next h active gateway ack some_ fits, tunnelTaken_gw s n g ack, rfl, rfl, rfl, tunnelTaken_onlyPort s n g ack⟩
  · exact ⟨_, _, pfcFrame_runs h active _, pfcFrame_gw gateway _, kfind_kset_self _ _ _, rfl, rfl, onlyPort_modLport s n _, rfl⟩
  · exact ⟨_, tunRto_runs h active gateway held, tunnelAgain_effect s n g _⟩
  · exact ⟨_, tunnelKeepalive_runs h active gateway, keptAlive_effect s n g _⟩
  · exact ⟨_, hbLinkLoss_runs h.1.1 lt, rfl, rfl, rfl, rfl, rfl⟩
  · obtain ⟨⟨b, port⟩, frame⟩ := toRetrain_active (s := modLport (startCmd s c (portSpec 4 [(0, 4)] 0)) (arg c 0 4)
      fun l => { l with retrainBy := l.retrainBy ++ [cmdRef c] }) (n := arg c 0 4) (by rw [lportOf_modLport_self]; exact active)
    rw [lportOf_modLport_self] at port
    exact ⟨_, portRetrain_runs runs there active, by rw [port], by rw [port]; rfl,
      onlyPort_trans (startCmd_onlyPort s c _ _) (onlyPort_trans (onlyPort_modLport _ _ _) frame)⟩
  · exact ⟨_, portRelease_runs runs there quarantined, lportOf_setLink_self _ _ _,
      onlyPort_trans (startCmd_onlyPort s c _ _) (onlyPort_setLink _ _ _)⟩
  · exact ⟨_, portLinkStats_runs runs there, startCmd_quiet s c _⟩
  · exact ⟨_, _, portSetGateway_runs runs ⟨there, allowed, own, peer, vlan, pcp, ⟨rto, rto'⟩, ⟨dead, dead'⟩, retx, retx'⟩ room,
      lportOf_modLport_self _ _ _, rfl, rfl, rfl, rfl, rfl, rfl, rfl, rfl, fun m hm => lportOf_modLport_other _ _ _ _ hm⟩

end Sys2Proof.Machine
end

section
/-! The events of the switch core (R653 to R684; O45). -/
namespace Sys2Proof.Machine

/-- A LOAD for node 5. -/
def multicastLoad : Packet :=
  .req .load { lport := 512, tc := 0, vc := 0, partition := 0, ast := 0, src := 1, dst := 5, tag := 0, length := 8, address := 0, seq := 0,
               flags := 0 }

/-- A multicast packet at the head of its queue: the copy for egress 0 has no link credit, the copy for egress 1 still waits (R676). -/
def multicastHead : QPkt :=
  { id := 0, pkt := multicastLoad, inPort := 144, inLport := 512, egress := 0, tc := 0, bytes := 64, entered := 0, shared := true,
    cells := 1, total := 1, others := [1] }

/-- The switch that holds it: port 0 faces a switch, is ACTIVE, and is the escape hop of the entry for node 5. -/
def multicastSwitch : State :=
  { State.reset with
    nextId := 1
    lports := [(0, { link := .active, role := some .switch, disc := .known })]
    core := { voqs := [multicastHead], routes := [(5, { local_ := false, hops := [], esc := some 0 })] } }

/-- Packets of the buffer after an outcome. -/
def packetsAfter : Host.Outcome State Fault Refusal → Nat
  | .next u => u.core.voqs.length
  | _ => 0

/-- The copy that moves to the escape channel becomes a packet of its own. -/
theorem packetsAfter_escWaitExpire_multicast : packetsAfter (exec (.escWaitExpire 0) multicastSwitch) = 2 := by decide

/-- Refutes O45: its clause on the escape channel says that the buffer holds the same packets, one of them with another egress. Of a
multicast packet only the copy for the egress without credit moves (R670, R676): it becomes a packet of its own beside the one that stays
for the other egresses, so that one packet more is in the buffer. -/
theorem not_coreEvents : ¬ Obligations.CoreEvents := by
  unfold Obligations.CoreEvents
  intro holds
  obtain ⟨-, -, -, -, -, escape, -⟩ :=
    holds 0 multicastHead { fn := 0, qp := 0, cid := 0 } multicastSwitch (by decide)
  obtain ⟨v, next, voqs, -⟩ := escape (by decide) (by decide) (by decide) (by decide) (by decide) (by decide) { local_ := false, hops := [], esc := some 0 } 0
    (by decide) (by decide)
  have two := packetsAfter_escWaitExpire_multicast
  rw [next] at two
  have one : v.core.voqs.length = 1 := by rw [voqs, List.length_map]; rfl
  exact absurd (one.symm.trans two) (by decide)

end Sys2Proof.Machine
end

section
/-! What sets, marks and keeps fabric time (R709 to R719, R938; O47). -/
namespace Sys2Proof.Machine

variable {s : State} {c : Cmd} {n : Nat}

/-! ## The TIME commands (R711, R713, R938) -/

abbrev timeSetSpec : CmdSpec := { pf0 := true, group := 0x15, verb := 1, args := [(0, 8)] }
abbrev timeSourceSpec : CmdSpec := { pf0 := true, group := 0x15, verb := 2, args := [(0, 4), (4, 4)] }
abbrev timeUpstreamSpec : CmdSpec := { pf0 := true, group := 0x15, verb := 3, args := [(0, 4), (4, 4)] }

theorem timeSet_runs (h : CmdRuns s c timeSetSpec none true) (other : s.tk.source ≠ some .pps) (never : s.tk.everLocked = false) :
    exec (.timeSet c) s = .next (complete { startCmd s c timeSetSpec with ftime := BitVec.ofNat 64 (arg c 0 8) } (cmdRef c) 0 0 []) := by
  have src : (startCmd s c timeSetSpec).tk.source ≠ some .pps := other
  have unlocked : (startCmd s c timeSetSpec).tk.everLocked = false := never
  rw [exec_timeSet, execTimeSet, live_runCmd _ h]
  simp only [src, unlocked]
  rfl

/-- A root on the PPS reference that has not locked yet. -/
def ppsRoot (t : TimeKeep) : TimeKeep :=
  { t with source := some .pps, depth := 0, onBackup := false, st := .acquiring, inRow := 0, outRow := 0 }

theorem timeSetSource_pps (h : CmdRuns s c timeSourceSpec none true) (pps : arg c 0 4 = 1) (noPort : arg c 4 4 = 0) :
    exec (.timeSetSource c) s = .next (complete (rootLock (modTk (startCmd s c timeSourceSpec) ppsRoot)) (cmdRef c) 0 0 []) := by
  rw [exec_timeSetSource, execTimeSetSource, live_runCmd _ h, pps, noPort]
  rfl

/-- A follower of one port, without a backup. -/
def followerOf (n : Nat) (t : TimeKeep) : TimeKeep :=
  { t with source := none, upstream := some n, onBackup := false, backup := none, inRow := 0, outRow := 0,
           st := if t.st = .unset then .unset else .acquiring }

theorem timeSetUpstream_alone (h : CmdRuns s c timeUpstreamSpec none true) (there : arg c 0 4 < 512)
    (switch : facesSwitch s (arg c 0 4) = true) (alone : arg c 4 4 = 2 ^ 32 - 1) :
    exec (.timeSetUpstream c) s =
      .next (complete (modTk (startCmd s c timeUpstreamSpec) (followerOf (arg c 0 4))) (cmdRef c) 0 0 []) := by
  have faces : facesSwitch (startCmd s c timeUpstreamSpec) (arg c 0 4) = true := switch
  rw [exec_timeSetUpstream, execTimeSetUpstream, live_runCmd _ h]
  simp only [alone, faces, decide_eq_true there, Bool.and_true, Bool.not_true, decide_true, Bool.true_or, Bool.or_self, if_true]
  rfl

/-! ## TIME_SYNC and TIME_FOLLOW (R714, R715) -/

/-- A link message joins the end of the queue of its port. -/
theorem sendLink_voqs (s : State) (code lport : Nat) (payload : List Byte) :
    ∃ q, (sendLink s code lport payload).core.voqs = s.core.voqs ++ [q] ∧ q.egress = lport ∧
      ∃ p, q.pkt = .req (.mgmt code) p ∧ p.payload = payload := by
  obtain ⟨q, voqs, pkt, egress, -⟩ :=
    pushVoq_voqs (bumpOwn (noteMgmt s) noNode) wickPort (internal wickPort) lport false (mgmtPkt s code noNode payload) []
  exact ⟨q, voqs, egress, _, pkt, rfl⟩

theorem followPayload_congr {s t : State} (h : t.tk = s.tk) (n : Nat) : followPayload t n = followPayload s n := by
  simp only [followPayload, h]

/-- TIME_SYNC and TIME_FOLLOW leave on a port. -/
def syncPair (s : State) (n : Nat) : State :=
  let u := sendLink (syncSent s n) 0x8E n (leBytes 16 (kget s.tk.exch n {}).txSeq)
  sendLink u 0x8F n (followPayload u n)

theorem timeSyncTimer_runs (run : running s = true) (active : (lportOf s n).link = .active) (switch : facesSwitch s n = true)
    (known : (lportOf s n).disc = .known) (first : (kget s.tk.exch n {}).sent = none) :
    exec (.timeSyncTimer n) s = .next (syncPair s n) := by
  rw [exec_timeSyncTimer, execTimeSyncTimer, live_running _ run]
  simp [active, switch, known, first, syncPair]

theorem syncPair_quiet (s : State) (n : Nat) : Quiet (syncSent s n) (syncPair s n) :=
  (sendLink_quiet _ _ _ _).trans (sendLink_quiet _ _ _ _)

theorem syncPair_voqs (s : State) (n : Nat) :
    ∃ a b, (syncPair s n).core.voqs = s.core.voqs ++ [a, b] ∧ a.egress = n ∧ b.egress = n ∧
      (∃ p, a.pkt = .req (.mgmt 0x8E) p ∧ p.payload = leBytes 16 (kget s.tk.exch n {}).txSeq) ∧
      (∃ p, b.pkt = .req (.mgmt 0x8F) p ∧ p.payload = followPayload (syncSent s n) n) := by
  have sync := sendLink_quiet (syncSent s n) 0x8E n (leBytes 16 (kget s.tk.exch n {}).txSeq)
  obtain ⟨a, voqsA, egressA, pktA⟩ := sendLink_voqs (syncSent s n) 0x8E n (leBytes 16 (kget s.tk.exch n {}).txSeq)
  obtain ⟨b, voqsB, egressB, p, pktB, payload⟩ := sendLink_voqs (sendLink (syncSent s n) 0x8E n (leBytes 16 (kget s.tk.exch n {}).txSeq))
    0x8F n (followPayload (sendLink (syncSent s n) 0x8E n (leBytes 16 (kget s.tk.exch n {}).txSeq)) n)
  refine ⟨a, b, ?_, egressA, egressB, pktA, p, pktB, payload.trans (followPayload_congr sync.tk n)⟩
  rw [voqsA, List.append_assoc] at voqsB
  exact voqsB

theorem syncPair_exch (s : State) (n : Nat) :
    (kget (syncPair s n).tk.exch n {}).sent = some ((kget s.tk.exch n {}).txSeq, s.ftime.toNat) := by
  rw [(syncPair_quiet s n).tk]
  simp [syncSent]

/-! ## Corrections (R719) -/

theorem correct_slew (offset : Int) (step : Bool) (h : (step && !s.tk.everLocked) = false) :
    correct s offset step = modTk s fun t => { t with slew := -offset } := by
  simp [correct, h]

theorem correct_step (offset : Int) (h : s.tk.everLocked = false) :
    correct s offset true = bump { s with ftime := s.ftime - BitVec.ofInt 64 offset } .timeSteps := by
  simp [correct, h]

/-! ## The references of a root (R711, R712, R718) -/

/-- The offset that a PPS edge shows is kept, and a second that was named is used up. -/
def ppsMarked (t : TimeKeep) (offset : Int) : TimeKeep := { t with ppsOk := true, offset := offset, nextPps := none }

theorem ppsEdge_marks (run : running s = true) (pps : s.tk.source = some .pps) {mark : Nat} {offset : Int}
    (hm : s.tk.nextPps.getD ((s.ftime.toNat + 500000000) / 1000000000 * 1000000000) = mark)
    (ho : timeDiff s.ftime.toNat mark = offset) :
    exec .ppsEdge s =
      .next (rootLock (correct (modTk s fun t => ppsMarked t offset) offset (s.tk.nextPps.isSome || decide (1000 < offset.natAbs)))) := by
  subst ho hm
  rw [exec_ppsEdge, execPpsEdge, live_running _ run]
  exact congrArg _ (if_neg (not_not_intro pps))

/-- A PPS edge that names no second slews fabric time by the offset. -/
theorem ppsMarked_slews (mark : Nat) (offset : Int) (ever : s.tk.everLocked = true) (step : Bool)
    (ho : timeDiff s.ftime.toNat mark = offset) :
    ∃ u, correct (modTk s fun t => ppsMarked t offset) offset step = u ∧ u.tk.offset = timeDiff s.ftime.toNat mark ∧
      u.tk.slew = -u.tk.offset ∧ u.tk.ppsOk = true ∧ u.ftime = s.ftime :=
  ⟨_, correct_slew _ _ (by simp [ppsMarked, ever]), ho.symm, rfl, rfl, rfl⟩

/-- One that names the first second steps it. -/
theorem ppsMarked_steps (mark : Nat) (offset : Int) (never : s.tk.everLocked = false) (ho : timeDiff s.ftime.toNat mark = offset) :
    ∃ u, correct (modTk s fun t => ppsMarked t offset) offset true = u ∧
      u.ftime = s.ftime - BitVec.ofInt 64 (timeDiff s.ftime.toNat mark) ∧
      u.tk.nextPps = none ∧ ctr u .timeSteps = satAdd 48 (ctr s .timeSteps) 1 := by
  refine ⟨_, correct_step (s := modTk s fun t => ppsMarked t offset) _ never, ?_, rfl, ctr_bump_self _ _⟩
  rw [ho]
  rfl

theorem timeLost_root (root : s.tk.source = some .pps) (locked : s.tk.st = .locked) :
    timeLost s = reportLost (modTk s fun t => { t with st := .holdover, inRow := 0, outRow := 0, slew := 0 }) := by
  simp [timeLost, locked, follows, root]

theorem reportLost_quiet (s : State) : Quiet s (reportLost s) := report_quiet _ _ _ _ _

/-- One of a root's references is there, or is not. -/
def refSet (pps ok : Bool) (t : TimeKeep) : TimeKeep := if pps then { t with ppsOk := ok } else { t with t10mOk := ok }

theorem refSet_st (pps ok : Bool) (t : TimeKeep) : (refSet pps ok t).st = t.st := by cases pps <;> rfl

theorem refSet_source (pps ok : Bool) (t : TimeKeep) : (refSet pps ok t).source = t.source := by cases pps <;> rfl

theorem refSet_own (pps ok : Bool) (t : TimeKeep) :
    if pps then (refSet pps ok t).ppsOk = ok else (refSet pps ok t).t10mOk = ok := by cases pps <;> rfl

theorem timeRefLost_locked (run : running s = true) (root : s.tk.source = some .pps) (locked : s.tk.st = .locked) (pps : Bool) :
    exec (.timeRefLost pps) s = .next (reportLost (modTk s fun t =>
      { refSet pps false t with st := .holdover, inRow := 0, outRow := 0, slew := 0 })) := by
  have src := (refSet_source pps false s.tk).trans root
  have st := (refSet_st pps false s.tk).trans locked
  rw [exec_timeRefLost, execTimeRefLost, live_running _ run]
  exact congrArg _ ((if_pos src).trans (timeLost_root src st))

theorem refSet_both {t : TimeKeep} {pps : Bool} (h : (if pps then t.t10mOk else t.ppsOk) = true) :
    (refSet pps true t).ppsOk = true ∧ (refSet pps true t).t10mOk = true := by
  cases pps
  · exact ⟨h, rfl⟩
  · exact ⟨rfl, h⟩

theorem timeRefRestored_holdover (run : running s = true) (root : s.tk.source = some .pps) (hold : s.tk.st = .holdover) {pps : Bool}
    (other : (if pps then s.tk.t10mOk else s.tk.ppsOk) = true) :
    exec (.timeRefRestored pps) s = .next (modTk s fun t => { refSet pps true t with st := .acquiring, inRow := 0, outRow := 0 }) := by
  obtain ⟨p, t⟩ := refSet_both other
  have src := (refSet_source pps true s.tk).trans root
  have st := (refSet_st pps true s.tk).trans hold
  have valid : refValid (modTk s (refSet pps true)) = true := by simp [refValid, src, p, t]
  rw [exec_timeRefRestored, execTimeRefRestored, live_running _ run]
  refine congrArg _ (if_pos ?_)
  change (decide ((refSet pps true s.tk).source = _) && decide ((refSet pps true s.tk).st = _) && refValid (modTk s (refSet pps true))) = true
  simp [src, st, valid]

/-! ## PPS_OUT and PTP (R709, R711) -/

theorem untilTime_st (s : State) (t : Time) : (untilTime s t).tk.st = s.tk.st := by
  unfold untilTime
  split <;> rfl

theorem untilFabric_st (s : State) (t : Nat) : (untilFabric s t).tk.st = s.tk.st := by
  unfold untilFabric
  split
  · exact untilTime_st _ _
  · rfl

theorem ppsOut_runs (run : running s = true) (set : s.tk.st ≠ .unset) :
    exec .ppsOut s = .next
      (emit (untilFabric s ((s.ftime.toNat / 1000000000 + 1) * 1000000000)) (.ppsOut (s.ftime.toNat / 1000000000 + 1))) := by
  rw [exec_ppsOut, execPpsOut, live_running _ run]
  exact congrArg _ (if_neg (by rwa [untilFabric_st]))

theorem ptpFrame_locked (run : running s = true) (gateway : (lportOf s n).gw.isSome = true) (slave : s.tk.source = some (.ptp n))
    (locked : s.tk.st = .locked) {offset : Int} (near : offset.natAbs ≤ 1000) :
    exec (.ptpFrame n offset) s = .next (rootLock (modTk s fun t => { t with offset := offset, slew := -offset })) := by
  have slews : correct (modTk s fun t => { t with offset := offset }) offset false =
      modTk s fun t => { t with offset := offset, slew := -offset } := rfl
  rw [exec_ptpFrame, execPtpFrame, live_running _ run]
  simp [Option.isSome_iff_ne_none.mp gateway, slave, locked, Nat.not_lt.mpr near, slews]

theorem ptpFrame_elsewhere (run : running s = true) (gateway : (lportOf s n).gw.isSome = true) (other : s.tk.source ≠ some (.ptp n))
    (offset : Int) : exec (.ptpFrame n offset) s = .next (bump s (.gwDiscard n)) := by
  rw [exec_ptpFrame, execPtpFrame, live_running _ run]
  simp [Option.isSome_iff_ne_none.mp gateway, other]

end Sys2Proof.Machine

namespace Sys2Proof.Machine

/-- Settles O47: each command and event by what it leaves of the time keeping; messages and reports touch none of it. -/
theorem fabricTime : Obligations.FabricTime := by
  unfold Obligations.FabricTime
  intro c n offset s run
  refine ⟨fun h other never => ⟨_, timeSet_runs h other never, rfl, rfl, rfl, rfl⟩,
    fun h pps noPort => ⟨_, timeSetSource_pps h pps noPort, rfl, rfl, rfl⟩,
    fun h there switch alone => ⟨_, timeSetUpstream_alone h there switch alone, rfl, rfl, rfl, rfl, rfl, rfl⟩,
    fun active switch known first => ?_, fun pps ever unnamed => ?_, fun m pps never named => ?_, fun pps root locked => ?_,
    fun pps root hold other => ?_, ppsOut_runs run,
    fun gateway slave locked near => ⟨_, ptpFrame_locked run gateway slave locked near, rfl, rfl, rfl, locked⟩,
    fun gateway other => ptpFrame_elsewhere run gateway other offset⟩
  · obtain ⟨a, b, voqs, egressA, egressB, pktA, pktB⟩ := syncPair_voqs s n
    exact ⟨_, a, b, timeSyncTimer_runs run active switch known first, voqs, egressA, egressB, pktA, pktB, syncPair_exch s n,
      (syncPair_quiet s n).mem, (syncPair_quiet s n).ftime⟩
  · obtain ⟨u, edge, effect⟩ := ppsMarked_slews _ _ ever _ rfl
    exact ⟨u, (ppsEdge_marks run pps (by rw [unnamed, Option.getD_none]) rfl).trans (congrArg _ (congrArg _ edge)), effect⟩
  · obtain ⟨u, edge, effect⟩ := ppsMarked_steps m _ never rfl
    have marks := ppsEdge_marks run pps (by rw [named, Option.getD_some]) rfl
    rw [named, Option.isSome_some, Bool.true_or] at marks
    exact ⟨u, marks.trans (congrArg _ (congrArg _ edge)), effect⟩
  · rw [timeRefLost_locked run root locked]
    have q := reportLost_quiet (modTk s fun t => { refSet pps false t with st := .holdover, inRow := 0, outRow := 0, slew := 0 })
    refine ⟨_, rfl, ?_, ?_, q.ftime, ?_⟩
    · rw [q.tk, modTk_tk]
    · rw [q.tk, modTk_tk]
    · rw [q.tk]
      exact refSet_own pps false s.tk
  · obtain ⟨p, t⟩ := refSet_both other
    exact ⟨_, timeRefRestored_holdover run root hold other, rfl, p, t, rfl⟩

end Sys2Proof.Machine
end

section
/-! Attestation, link keys, port privileges and marks, and the random bit generator (R745, R746, R755 to R757, R62, R590, R733; O30). -/
namespace Sys2Proof.Machine

variable {s : State} {c : Cmd} {n : Nat}

/-! ## Attestation (R745, R746) -/

abbrev attestSpec : CmdSpec := { group := 0x03, verb := 1, args := [(0, 32)] }
abbrev progLogSpec : CmdSpec := { group := 0x03, verb := 2 }

/-- Through PF0 the body holds no interface report. -/
theorem attestBody_pf0 (s : State) (nonce : List Byte) :
    attestBody s 0 nonce = (measurements s).flatMap (fun m => sliceBytes m.2 0 32) ++ sliceBytes nonce 0 32 ++ leBytes 8 s.fm.serial ++
      leBytes 8 s.ftime.toNat := by
  simp [attestBody]

theorem secAttest_runs (h : CmdRuns s c attestSpec none true) (identity : idLost s = false) (pf0 : c.fn = 0) :
    exec (.secAttest c) s = .next (complete (startCmd s c attestSpec) (cmdRef c) 0 0
      (attestBody s 0 (leBytes 32 c.args.toNat) ++ aliasSign s (attestBody s 0 (leBytes 32 c.args.toNat)))) := by
  have id' : ¬ idLost (startCmd s c attestSpec) = true := Bool.eq_false_iff.mp identity
  rw [exec_secAttest, execSecAttest, live_runCmd _ h, if_neg id', pf0]
  rfl

theorem secProgLog_runs (h : CmdRuns s c progLogSpec none true) :
    exec (.secProgLog c) s = .next (complete (startCmd s c progLogSpec) (cmdRef c) 0 0 (s.sec.progLog.flatMap fun e => sliceBytes e 0 64)) := by
  rw [exec_secProgLog, execSecProgLog, live_runCmd _ h]
  rfl

/-! ## Key exchanges (R755 to R757) -/

abbrev kexStartSpec : CmdSpec := { pf0 := true, group := 0x03, verb := 3, args := [(0, 4)] }
abbrev kexRespondSpec : CmdSpec := { pf0 := true, host := true, group := 0x03, verb := 4, args := [(0, 4)] }
abbrev kexFinishSpec : CmdSpec := { pf0 := true, host := true, group := 0x03, verb := 5, args := [(0, 4)] }

theorem kexCheck_startCmd (sp : CmdSpec) (n : Nat) : kexCheck (startCmd s c sp) n = kexCheck s n := rfl

/-- A start leaves its record's nonce and key pair as the port's exchange, and nothing else of the ports and memory. -/
theorem kexStart_effect (s : State) (n : Nat) :
    (kexStart s n).2.node = selfNode s ∧ (kexStart s n).2.port = n ∧
      kfind (kexStart s n).1.sec.kex n = some ⟨s.clk, (kexStart s n).2.nonce, s.freeCtr⟩ ∧
      (∀ m, m ≠ n → kfind (kexStart s n).1.sec.kex m = kfind s.sec.kex m) ∧ (kexStart s n).1.lports = s.lports ∧
      (kexStart s n).1.mem = s.mem :=
  ⟨rfl, rfl, kfind_kset_self _ _ _, fun _ other => kfind_kset_other _ _ _ _ other, rfl, rfl⟩

theorem secLinkKexStart_runs (h : CmdRuns s c kexStartSpec none true) (fits : n ≤ 511) (port : arg c 0 4 = n) (may : kexCheck s n = none) :
    exec (.secLinkKexStart c) s = .next (complete (kexStart (startCmd s c kexStartSpec) n).1 (cmdRef c) 0 0
      (kexPayload (kexStart (startCmd s c kexStartSpec) n).1 (kexStart (startCmd s c kexStartSpec) n).2)) := by
  have legal : ¬ 511 < n := Nat.not_lt.mpr fits
  rw [exec_secLinkKexStart, execSecLinkKexStart, live_runCmd _ h]
  dsimp only
  rw [port, if_neg legal, kexCheck_startCmd, may]

theorem secLinkKexRespond_runs (h : CmdRuns s c kexRespondSpec none true) (fits : n ≤ 511) (port : arg c 0 4 = n)
    (may : kexCheck s n = none) {a : KexRecord} {serial : Nat} (read : kexRead (c.host.getD []) = some (a, serial)) :
    exec (.secLinkKexRespond c) s = .next (complete (kexRespond (startCmd s c kexRespondSpec) n a serial).1 (cmdRef c) 0 0
      (kexPayload (kexRespond (startCmd s c kexRespondSpec) n a serial).1 (kexRespond (startCmd s c kexRespondSpec) n a serial).2)) := by
  have legal : ¬ 511 < n := Nat.not_lt.mpr fits
  rw [exec_secLinkKexRespond, execSecLinkKexRespond, live_runCmd _ h]
  dsimp only
  rw [port, if_neg legal, kexCheck_startCmd, may, read]

theorem secLinkKexFinish_runs (h : CmdRuns s c kexFinishSpec none true) (fits : n ≤ 511) (port : arg c 0 4 = n) (identity : idLost s = false)
    (marked : (lportOf s n).marked = true) {k : Kex} (started : kfind s.sec.kex n = some k) {b : KexRecord} {serial : Nat}
    (read : kexRead (c.host.getD []) = some (b, serial)) :
    exec (.secLinkKexFinish c) s = .next (complete (kexFinish (startCmd s c kexFinishSpec) n k b serial) (cmdRef c) 0 0 []) := by
  have legal : ¬ 511 < n := Nat.not_lt.mpr fits
  have may : ¬ (idLost (startCmd s c kexFinishSpec) || !(lportOf (startCmd s c kexFinishSpec) n).marked) = true := by
    change ¬ (idLost s || !(lportOf s n).marked) = true
    simp [identity, marked]
  have started' : kfind (startCmd s c kexFinishSpec).sec.kex n = some k := started
  rw [exec_secLinkKexFinish, execSecLinkKexFinish, live_runCmd _ h]
  dsimp only
  rw [port, if_neg legal, if_neg may, started', read]

/-- The first keys of a port, before it sends. -/
def firstKeys (s : State) (tx rx : List Byte) (l : LPort) : LPort :=
  { l with sec := { txKeys := [some tx, none], rxKeys := [some rx, none], since := s.clk } }

theorem installKeys_first (tx rx : List Byte) (first : Bool)
    (empty : (lportOf s n).sec.txKeys.getD (lportOf s n).sec.txSlot none = none) :
    installKeys s n tx rx first = pump (modLport s n (firstKeys s tx rx)) n := by
  have none_ : ((lportOf s n).sec.txKeys.getD (lportOf s n).sec.txSlot none).isNone = true := by rw [empty]; rfl
  exact congrArg (fun l => pump { s with lports := kset s.lports n l } n) (if_pos none_)

theorem installKeys_effect (tx rx : List Byte) (first : Bool)
    (empty : (lportOf s n).sec.txKeys.getD (lportOf s n).sec.txSlot none = none) :
    (lportOf (installKeys s n tx rx first) n).sec.rxKeys = [some rx, none] ∧
      (∀ m, m ≠ n → lportOf (installKeys s n tx rx first) m = lportOf s m) ∧ (installKeys s n tx rx first).mem = s.mem := by
  rw [installKeys_first tx rx first empty]
  have sends := pump_txFrame (modLport s n (firstKeys s tx rx)) n
  obtain ⟨l, o, rest⟩ := sends.rest
  refine ⟨?_, fun m other => ?_, ?_⟩
  · rw [sends.rxKeys, lportOf_modLport_self]
    rfl
  · rw [sends.other m other, lportOf_modLport_other _ _ _ _ other]
  · rw [rest]
    rfl

theorem linkKeyRotate_runs (run : running s = true) (fits : n ≤ 511) (known : (lportOf s n).disc = .known)
    (up : linkUp (lportOf s n).link = true) (switch : facesSwitch s n = true) (mine : kexMine s n = true)
    (keyed : ((lportOf s n).sec.txKeys.getD (lportOf s n).sec.txSlot none).isSome = true) (idle : kfind s.sec.kex n = none)
    (may : kexCheck s n = none) :
    exec (.linkKeyRotate n) s = .next (sendLink (kexStart s n).1 0x8B n (kexPayload (kexStart s n).1 (kexStart s n).2)) := by
  rw [exec_linkKeyRotate, execLinkKeyRotate, live_running _ run]
  refine congrArg _ (if_neg ?_)
  have some_ : ((lportOf s n).sec.txKeys.getD (lportOf s n).sec.txSlot none).isNone = false := by simpa using keyed
  simp [Nat.not_lt.mpr fits, known, up, switch, mine, some_, idle, may, -List.getD_eq_getElem?_getD]

theorem linkKexExpire_runs (run : running s = true) {k : Kex} (started : kfind s.sec.kex n = some k) :
    exec (.linkKexExpire n) s = .next (modSec (untilTime s (k.since + 10000000000)) fun x => { x with kex := kdel x.kex n }) := by
  rw [exec_linkKexExpire, execLinkKexExpire, live_running _ run, started]

/-- The exchange of a port is forgotten at a time. -/
theorem kexExpired_effect (s : State) (n : Nat) (at_ : Time) :
    ∃ u, (modSec (untilTime s at_) fun x => { x with kex := kdel x.kex n }) = u ∧ u.sec = { s.sec with kex := kdel s.sec.kex n } ∧
      u.lports = s.lports ∧ u.mem = s.mem ∧ u.clk = max s.clk at_ :=
  ⟨_, rfl, by simp, by simp, by simp, untilTime_clk s at_⟩

/-! ## Privileges and marks of ports (R62, R590) -/

abbrev setPrivSpec : CmdSpec := { pf0 := true, group := 0x04, verb := 1, args := [(0, 4), (4, 4), (8, 4)] }
abbrev setCryptSpec : CmdSpec := { pf0 := true, group := 0x04, verb := 2, args := [(0, 4), (4, 4)] }

/-- A port with the privileges that PORT.SET_PRIV names. -/
def withPriv (c : Cmd) (l : LPort) : LPort := { l with flat := decide (arg c 4 4 = 1), nodePriv := decide (arg c 8 4 = 1) }

theorem portSetPriv_runs (h : CmdRuns s c setPrivSpec none true) (port : arg c 0 4 ≤ 515) (flat : arg c 4 4 ≤ 1) (node : arg c 8 4 ≤ 1) :
    exec (.portSetPriv c) s = .next (complete (modLport (startCmd s c setPrivSpec) (arg c 0 4) (withPriv c)) (cmdRef c) 0 0 []) := by
  have legal : ¬ (515 < arg c 0 4 ∨ 1 < arg c 4 4 ∨ 1 < arg c 8 4) := by omega
  rw [exec_portSetPriv, execPortSetPriv, live_runCmd _ h]
  exact congrArg _ (if_neg legal)

theorem portSetCrypt_mark (h : CmdRuns s c setCryptSpec none true) (port : arg c 0 4 ≤ 511) (on : arg c 4 4 = 1) :
    exec (.portSetCrypt c) s =
      .next (complete (modLport (startCmd s c setCryptSpec) (arg c 0 4) fun l => { l with marked := true }) (cmdRef c) 0 0 []) := by
  have legal : ¬ (511 < arg c 0 4 ∨ 1 < arg c 4 4) := by omega
  rw [exec_portSetCrypt, execPortSetCrypt, live_runCmd _ h]
  exact congrArg _ ((if_neg legal).trans (if_pos on))

/-- A port without its mark, its keys and its exchange. -/
def unmarked (s : State) (n : Nat) : State :=
  modLport (modSec s fun x => { x with kex := kdel x.kex n }) n fun l => { l with marked := false, sec := {} }

theorem portSetCrypt_unmark (h : CmdRuns s c setCryptSpec none true) (port : arg c 0 4 ≤ 511) (off : arg c 4 4 = 0) :
    exec (.portSetCrypt c) s =
      .next (complete (pump (unmarked (startCmd s c setCryptSpec) (arg c 0 4)) (arg c 0 4)) (cmdRef c) 0 0 []) := by
  have legal : ¬ (511 < arg c 0 4 ∨ 1 < arg c 4 4) := by omega
  have on : ¬ arg c 4 4 = 1 := by omega
  rw [exec_portSetCrypt, execPortSetCrypt, live_runCmd _ h]
  exact congrArg _ ((if_neg legal).trans (if_neg on))

theorem unmarked_effect (s : State) (n : Nat) :
    lportOf (unmarked s n) n = { lportOf s n with marked := false, sec := {} } ∧ (unmarked s n).sec.kex = kdel s.sec.kex n ∧
      OnlyPort s (unmarked s n) n :=
  ⟨lportOf_modLport_self _ _ _, rfl, fun _ other => lportOf_modLport_other _ _ _ _ other, rfl, rfl, rfl, rfl, rfl, rfl, rfl, rfl⟩

/-! ## The random bit generator (R733) -/

/-- The generator stops; its start-up test begins. -/
def rngStopped (s : State) : State :=
  { modSec s (fun x => { x with rngAt := some s.clk }) with ras := { s.ras with rngOk := false, rngTests := s.ras.rngTests + 1 } }

theorem rngHealthFail_first (run : running s = true) (works : s.ras.rngFailed = false) (first : s.sec.rngAt = none) :
    exec .rngHealthFail s = .next (rngStopped s) := by
  rw [exec_rngHealthFail, execRngHealthFail, live_running _ run, works, first]
  rfl

/-- The generator is latched failed. -/
def rngLatched (s : State) : State :=
  note { modSec s (fun x => { x with rngAt := some s.clk }) with ras := { s.ras with rngOk := false, rngFailed := true } } "RNG_FAILED" []

theorem rngHealthFail_again (run : running s = true) (works : s.ras.rngFailed = false) {t : Time} (before : s.sec.rngAt = some t)
    (soon : s.clk ≤ t + 1000000000) : exec .rngHealthFail s = .next (report (rngLatched s) 0x0E (selfNode s) 0x1FF 2) := by
  have again : ((s.sec.rngAt.map fun t => decide (s.clk ≤ t + 1000000000)).getD false) = true := by simp [before, soon]
  rw [exec_rngHealthFail, execRngHealthFail, live_running _ run]
  exact congrArg _ ((if_neg (Bool.eq_false_iff.mp works)).trans (if_pos again))

theorem rngRetestDone_good (run : running s = true) (works : s.ras.rngFailed = false) (stopped : s.ras.rngOk = false) :
    exec (.rngRetestDone true) s =
      .next { untilTime s (s.sec.rngAt.getD s.clk + 1000000) with ras := { s.ras with rngOk := true } } := by
  have tests : ¬ (s.ras.rngOk || s.ras.rngFailed) = true := by simp [works, stopped]
  rw [exec_rngRetestDone, execRngRetestDone, live_running _ run, if_neg tests, if_pos rfl, untilTime_ras]

theorem rngTested_effect (s : State) (at_ : Time) :
    ∃ u, { untilTime s at_ with ras := { s.ras with rngOk := true } } = u ∧ u.ras = { s.ras with rngOk := true } ∧ u.sec = s.sec ∧
      u.mem = s.mem ∧ u.clk = max s.clk at_ :=
  ⟨_, rfl, rfl, untilTime_sec s at_, untilTime_mem s at_, untilTime_clk s at_⟩

end Sys2Proof.Machine

namespace Sys2Proof.Machine

/-- Settles O30: each command and event by the state it leaves. -/
theorem keysAndMarks : Obligations.KeysAndMarks := by
  unfold Obligations.KeysAndMarks
  refine ⟨fun c n s fits => ⟨fun h identity pf0 => ?_, secProgLog_runs, fun h port may => ?_, fun a serial h port may read => ?_,
    fun k b serial h port identity marked started read => secLinkKexFinish_runs h fits port identity marked started read,
    fun tx rx first empty => installKeys_effect tx rx first empty, ?_, fun k run started => ?_⟩,
    fun c s => ⟨fun h port flat node => ?_, fun h port => ⟨fun on => ?_, fun off => ?_⟩, fun run works => ⟨fun first => ?_, fun t before soon => ?_,
      fun stopped => ?_⟩⟩⟩
  · exact ⟨_, secAttest_runs h identity pf0, attestBody_pf0 _ _⟩
  · exact ⟨_, _, secLinkKexStart_runs h fits port may, kexStart_effect (startCmd s c kexStartSpec) n⟩
  · exact ⟨_, _, secLinkKexRespond_runs h fits port may read, rfl, rfl, rfl⟩
  · intro known up switch mine keyed idle may run
    obtain ⟨node, port, kept, -, lports, mem⟩ := kexStart_effect s n
    exact ⟨_, _, linkKeyRotate_runs run fits known up switch mine keyed idle may, kept, node, port, lports, mem⟩
  · obtain ⟨u, expires, effect⟩ := kexExpired_effect s n (k.since + 10000000000)
    exact ⟨u, (linkKexExpire_runs run started).trans (congrArg _ expires), effect⟩
  · exact ⟨_, portSetPriv_runs h port flat node, lportOf_modLport_self _ _ _, onlyPort_trans (startCmd_onlyPort s c setPrivSpec _) (onlyPort_modLport _ _ _)⟩
  · exact ⟨_, portSetCrypt_mark h port on, lportOf_modLport_self _ _ _, onlyPort_trans (startCmd_onlyPort s c setCryptSpec _) (onlyPort_modLport _ _ _)⟩
  · obtain ⟨own, kex, only⟩ := unmarked_effect (startCmd s c setCryptSpec) (arg c 0 4)
    exact ⟨_, portSetCrypt_unmark h port off, own, kex, onlyPort_trans (startCmd_onlyPort s c setCryptSpec _) only⟩
  · exact ⟨_, rngHealthFail_first run works first, rfl, rfl, rfl, rfl⟩
  · exact ⟨_, rngHealthFail_again run works before soon, rfl, rfl, rfl⟩
  · obtain ⟨u, tested, effect⟩ := rngTested_effect s (s.sec.rngAt.getD s.clk + 1000000)
    exact ⟨u, (rngRetestDone_good run works stopped).trans (congrArg _ tested), effect⟩

end Sys2Proof.Machine
end

section
/-! SPDM, TDISP and IDE (R739 to R752; O31, O32). -/
namespace Sys2Proof.Machine

variable {s : State} {id vf n : Nat}

/-! ## Requests that are answered (R736, R739) -/

theorem spdm_ready {need : Nat} (f : State → State) (h : SpdmReady s need) : spdm need f s = .next (f s) := by
  obtain ⟨run, up, identity, far⟩ := h
  rw [spdm, live_running _ run]
  simp [up, identity, Nat.not_lt.mpr far]

theorem inSession_open (f : State → State) (h : InSession s id) : inSession id f s = .next (f s) := by
  obtain ⟨ready, opened⟩ := h
  rw [inSession, spdm_ready _ ready, if_pos opened]

theorem tdisp_open (f : State → Nat → State) (h : InSession s id) (some_ : vf ≠ 0) (there : fnExists s vf = true) :
    tdisp id vf f s = .next (f s (vf - 1)) := by
  rw [tdisp, inSession_open _ h]
  simp [some_, there]

/-! ## The connection (R739 to R744) -/

theorem negotiateAlgorithms_all (h : SpdmReady s 2) {sigs kems : List (Nat × Nat)} (sig : (3, 0x9001) ∈ sigs) (kem : (3, 0x9002) ∈ kems) :
    exec (.negotiateAlgorithms sigs kems true true true) s = .next (spdmSay (modSec s fun x => { x with spdm := 3 }) none .algorithms) := by
  rw [exec_negotiateAlgorithms, execNegotiateAlgorithms, spdm_ready _ h, if_pos (by simp [sig, kem])]

theorem negotiateAlgorithms_lacks (h : SpdmReady s 2) {sigs kems : List (Nat × Nat)} (lacks : (3, 0x9001) ∉ sigs ∨ (3, 0x9002) ∉ kems)
    (sha gcm raw : Bool) :
    exec (.negotiateAlgorithms sigs kems sha gcm raw) s = .next (spdmSay s none (.error .negotiationFail)) := by
  have no : ¬ (sigs.contains (3, 0x9001) && kems.contains (3, 0x9002) && sha && gcm && raw) = true := by
    rcases lacks with no | no <;> simp [no]
  rw [exec_negotiateAlgorithms, execNegotiateAlgorithms, spdm_ready _ h, if_neg no]

theorem getCertificate_part (h : SpdmReady s 3) {off : Nat} (within : off < (ownChain s).length) (len : Nat) :
    exec (.getCertificate 0 off len) s = .next (spdmSay s none (.certificate (((ownChain s).drop off).take len)
      ((ownChain s).length - off - (((ownChain s).drop off).take len).length))) := by
  have ok : ¬ (0 ≠ 0 ∨ (ownChain s).length ≤ off) := by omega
  rw [exec_getCertificate, execGetCertificate, spdm_ready _ h]
  exact congrArg _ (if_neg ok)

theorem challenge_runs (h : SpdmReady s 3) (key : keyStatus s = none) (nonce : List Byte) :
    exec (.challenge 0 nonce) s = .next (spdmSay (bumpFree s) none (.challenge (Config.sha384 (ownChain s)) (randomBytes s 32)
      (aliasSign s (nonce ++ randomBytes s 32 ++ Config.sha384 (ownChain s))))) := by
  rw [exec_challenge, execChallenge, spdm_ready _ h]
  simp [key]

theorem getMeasurements_all (h : SpdmReady s 3) (nonce : List Byte) :
    exec (.getMeasurements 255 false nonce) s = .next (spdmSay s none (.measurements 6 (measurements s) none)) := by
  rw [exec_getMeasurements, execGetMeasurements, spdm_ready _ h]
  rfl

/-- Each index from 1 to 6 has one measurement block (R744). -/
theorem measurement_unique (s : State) {op : Nat} (low : 1 ≤ op) (high : op ≤ 6) :
    ∃ m, m ∈ measurements s ∧ m.1 = op ∧ (measurements s).filter (fun m => m.1 = op) = [m] := by
  simp only [measurements]
  interval_cases op <;> exact ⟨_, by simp, rfl, rfl⟩

theorem getMeasurements_one (h : SpdmReady s 3) {op : Nat} (low : 1 ≤ op) (high : op ≤ 6) {m : Nat × List Byte}
    (only : (measurements s).filter (fun m => m.1 = op) = [m]) (nonce : List Byte) :
    exec (.getMeasurements op false nonce) s = .next (spdmSay s none (.measurements 6 [m] none)) := by
  have one : op ≠ 255 := by omega
  rw [exec_getMeasurements, execGetMeasurements, spdm_ready _ h]
  dsimp only
  rw [if_neg one, only]
  simp

/-- A session that begins under the next key. -/
def sessionBegins (s : State) : State :=
  modSec (bumpFree s) fun x => { x with keys := x.keys + 1, sessions := x.sessions ++ [{ id := s.sec.keys }] }

theorem keyExchange_runs (h : SpdmReady s 3) (key : keyStatus s = none) (ek : List Byte) :
    exec (.keyExchange ek) s = .next (spdmSay (sessionBegins s) (some s.sec.keys) (.keyExchange (Config.kemEncaps ek s.freeCtr).1
      (aliasSign (sessionBegins s) (ek ++ (Config.kemEncaps ek s.freeCtr).1)))) := by
  have may : ¬ (keyStatus s).isSome = true := by simp [key]
  rw [exec_keyExchange, execKeyExchange, spdm_ready _ h, if_neg may]
  rfl

/-! ## Sessions (R734, R739, R741) -/

/-- A session that FINISH establishes. -/
def sessionFinished (s : State) (id : Nat) : State :=
  modSec s fun x => { x with
    sessions := x.sessions.map fun (e : SpdmSession) => if e.id = id then { e with established := true } else e }

theorem finish_runs (h : SpdmReady s 3) (begun : ∃ x ∈ s.sec.sessions, x.id = id ∧ x.established = false) (ok : Bool) :
    exec (.finish id ok) s = .next (if ok then spdmSay (sessionFinished s id) (some id) .finish
      else spdmSay (sessionEnds s id) (some id) (.error .invalidRequest)) := by
  have there : ¬ (!(s.sec.sessions.any fun x => x.id = id && !x.established)) = true := by
    obtain ⟨x, mem, same, fresh⟩ := begun
    simpa using ⟨x, mem, same, fresh⟩
  rw [exec_finish, execFinish, spdm_ready _ h, if_neg there]
  rfl

theorem vendorDefined_runs (h : InSession s id) (known : Bool) :
    exec (.vendorDefinedRequest (some id) known) s =
      .next (spdmSay s (some id) (if known then .vendorDefined else .error .unsupportedRequest)) := by
  obtain ⟨ready, opened⟩ := h
  rw [exec_vendorDefinedRequest, execVendorDefinedRequest, spdm_ready _ ready]
  cases known <;> simp [opened]

/-! ## TDISP (R747, R748, R750) -/

theorem lockInterface_state (h : InSession s id) (some_ : vf ≠ 0) (there : fnExists s vf = true) (stream : Nat)
    (taken : (partOf s (vf - 1)).tdi ≠ .unlocked) :
    exec (.lockInterfaceRequest id vf stream) s = .next (emit s (.spdm (some id) (.tdispError .invalidInterfaceState))) := by
  rw [exec_lockInterfaceRequest, execLockInterfaceRequest, tdisp_open _ h some_ there, if_pos taken, spdmSay]

/-- The TDI of a VF is locked to a stream. -/
def tdiLocked (s : State) (vf stream : Nat) : State :=
  modSec (bumpFree (setTdi s (vf - 1) .locked)) fun x =>
    { x with bound := kset x.bound vf stream, lockNonce := kset x.lockNonce vf (randomBytes s 32) }

theorem lockInterface_runs (h : InSession s id) (some_ : vf ≠ 0) (there : fnExists s vf = true) {stream : Nat}
    (unlocked : (partOf s (vf - 1)).tdi = .unlocked) (holds : (ideStreamsOf s 0).contains stream = true) (key : keyStatus s = none) :
    exec (.lockInterfaceRequest id vf stream) s = .next (emit (tdiLocked s vf stream) (.spdm (some id) (.lockNonce (randomBytes s 32)))) := by
  have may : ¬ (!(ideStreamsOf s 0).contains stream || (keyStatus s).isSome) = true := by
    rw [holds, key]
    decide
  rw [exec_lockInterfaceRequest, execLockInterfaceRequest, tdisp_open _ h some_ there, if_neg (not_not_intro unlocked), if_neg may]
  rfl

theorem setTdi_partOf (s : State) (n : Nat) (t : Tdi) :
    partOf (setTdi s n t) n = { partOf s n with tdi := t } ∧ ∀ m, m ≠ n → partOf (setTdi s n t) m = partOf s m :=
  ⟨partOf_modPart_self _ _ _, fun _ other => partOf_modPart_other _ _ _ _ other⟩

theorem getDeviceInterfaceReport_runs (h : InSession s id) (some_ : vf ≠ 0) (there : fnExists s vf = true)
    (locked : (partOf s (vf - 1)).tdi = .locked ∨ (partOf s (vf - 1)).tdi = .run) :
    exec (.getDeviceInterfaceReport id vf) s = .next (emit s (.spdm (some id) (.report (tdiReport s vf)))) := by
  rw [exec_getDeviceInterfaceReport, execGetDeviceInterfaceReport, tdisp_open _ h some_ there, if_pos (by simpa using locked), spdmSay]

/-- The TDI of a VF runs. -/
def tdiStarted (s : State) (vf : Nat) : State :=
  modSec (setTdi s (vf - 1) .run) fun x => { x with lockNonce := kdel x.lockNonce vf }

theorem startInterface_runs (h : InSession s id) (some_ : vf ≠ 0) (there : fnExists s vf = true) {nonce : List Byte}
    (locked : (partOf s (vf - 1)).tdi = .locked) (given : kfind s.sec.lockNonce vf = some nonce) :
    exec (.startInterfaceRequest id vf nonce) s = .next (emit (tdiStarted s vf) (.spdm (some id) .started)) := by
  rw [exec_startInterfaceRequest, execStartInterfaceRequest, tdisp_open _ h some_ there, if_neg (not_not_intro locked),
    if_neg (not_not_intro given)]
  rfl

/-- The TDI of a VF is unlocked. -/
def tdiStopped (s : State) (vf : Nat) : State :=
  modSec (setTdi s (vf - 1) .unlocked) fun x => { x with bound := kdel x.bound vf, lockNonce := kdel x.lockNonce vf }

theorem stopInterface_runs (h : InSession s id) (some_ : vf ≠ 0) (there : fnExists s vf = true) :
    exec (.stopInterfaceRequest id vf) s = .next (emit (tdiStopped s vf) (.spdm (some id) .stopped)) := by
  rw [exec_stopInterfaceRequest, execStopInterfaceRequest, tdisp_open _ h some_ there]
  rfl

/-! ## IDE keys (R751) -/

section
variable {port stream set sub : Nat}

theorem keyProg_runs (h : InSession s id) (port_ : port ≤ 4) (set_ : set ≤ 1)
    (unused : ∀ k ∈ s.sec.ide, inSet port stream set k = true → k.active = false) (room : (ideStreamsOf s port).length < streamRoom port) :
    exec (.keyProg id port stream set sub) s = .next (spdmSay (modSec s fun x => { x with
      ide := (x.ide.filter fun e => !(inSet port stream set e && e.sub = sub)) ++ [⟨id, port, stream, set, sub, false⟩] })
        (some id) (.ideAck true)) := by
  have used : (s.sec.ide.any fun k => inSet port stream set k && k.active) = false := by
    rw [List.any_eq_false]
    intro k mem both
    obtain ⟨here, active⟩ := (Bool.and_eq_true _ _).mp both
    rw [unused k mem here] at active
    cases active
  rw [exec_keyProg, execKeyProg, inSession_open _ h]
  refine congrArg _ (if_neg ?_)
  rw [used]
  simp only [Bool.false_eq_true, false_or]
  omega

/-- The keys of a set of a sub-stream come into use, or go out of it. -/
def setKeys (l : List IdeKey) (port stream set sub : Nat) (active : Bool) : List IdeKey :=
  l.map fun k => if inSet port stream set k && k.sub = sub then { k with active := active } else k

theorem kSetGo_runs (h : InSession s id) (there : ∃ k ∈ s.sec.ide, inSet port stream set k = true ∧ k.sub = sub) :
    exec (.kSetGo id port stream set sub) s = .next (spdmSay (modSec s fun x => { x with ide := setKeys x.ide port stream set sub true }) (some id) (.ideAck true)) := by
  have some_ : ¬ (!(s.sec.ide.any fun k => inSet port stream set k && k.sub = sub)) = true := by
    obtain ⟨k, mem, here, same⟩ := there
    simpa using ⟨k, mem, here, same⟩
  rw [exec_kSetGo, execKSetGo, inSession_open _ h]
  exact congrArg _ (if_neg some_)

theorem kSetStop_runs (h : InSession s id) (there : ∃ k ∈ s.sec.ide, inSet port stream set k = true ∧ k.sub = sub ∧ k.active = true) :
    exec (.kSetStop id port stream set sub) s = .next (spdmSay (modSec s fun x => { x with ide := setKeys x.ide port stream set sub false }) (some id) (.ideAck true)) := by
  have some_ : ¬ (!(s.sec.ide.any fun k => inSet port stream set k && k.sub = sub && k.active)) = true := by
    obtain ⟨k, mem, here, same, active⟩ := there
    simpa using ⟨k, mem, here, same, active⟩
  rw [exec_kSetStop, execKSetStop, inSession_open _ h]
  exact congrArg _ (if_neg some_)

end

end Sys2Proof.Machine

namespace Sys2Proof.Machine

/-- Settles O31: an SPDM request on a ready connection, by its answer and what it leaves of the connection. -/
theorem spdmRequests : Obligations.SpdmRequests := by
  unfold Obligations.SpdmRequests
  intro s id said established updated ended
  refine ⟨fun ready => ⟨(exec_getVersion s).trans (spdm_ready _ ready), fun code => (exec_spdmUnsupported code s).trans (spdm_ready _ ready)⟩,
    fun ready => (exec_getCapabilities s).trans (spdm_ready _ ready),
    fun ready sigs kems sha gcm raw => ⟨?_, fun lacks => negotiateAlgorithms_lacks ready lacks sha gcm raw⟩,
    fun ready => ⟨(exec_getDigests s).trans (spdm_ready _ ready), fun off len within => getCertificate_part ready within len,
      fun nonce key => ⟨_, _, challenge_runs ready key nonce, rfl⟩, getMeasurements_all ready, fun op nonce low high => ?_,
      fun ek key => ⟨_, _, keyExchange_runs ready key ek⟩, fun begun => ⟨finish_runs ready begun true, finish_runs ready begun false⟩⟩,
    fun h => ⟨(exec_endSession id s).trans (inSession_open _ h), (exec_heartbeat id s).trans (inSession_open _ h),
      (exec_keyUpdate id s).trans (inSession_open _ h), vendorDefined_runs h true, vendorDefined_runs h false⟩⟩
  · rintro sig kem rfl rfl rfl
    exact negotiateAlgorithms_all ready sig kem
  · obtain ⟨m, mem, index, only⟩ := measurement_unique s low high
    exact ⟨m, mem, index, getMeasurements_one ready low high only nonce⟩

/-- Settles O32: a TDISP or IDE_KM request in a session, by its answer and what it leaves of the TDI and the keys. -/
theorem tdispAndIde : Obligations.TdispAndIde := by
  unfold Obligations.TdispAndIde
  intro s id vf h some_ there n
  refine ⟨(exec_getTdispVersion id vf s).trans (tdisp_open _ h some_ there), (exec_getTdispCapabilities id vf s).trans (tdisp_open _ h some_ there),
    (exec_getDeviceInterfaceState id vf s).trans (tdisp_open _ h some_ there), getDeviceInterfaceReport_runs h some_ there,
    fun stream unlocked holds key => ?_, fun stream taken => lockInterface_state h some_ there stream taken, fun nonce locked given => ?_, ?_,
    fun port stream set sub port_ set_ unused room => keyProg_runs h port_ set_ unused room,
    fun port stream set sub has => kSetGo_runs h has, fun port stream set sub has => kSetStop_runs h has⟩
  · obtain ⟨own, others⟩ := setTdi_partOf s n .locked
    exact ⟨_, lockInterface_runs h some_ there unlocked holds key, own, others, kfind_kset_self _ _ _, kfind_kset_self _ _ _, rfl, rfl⟩
  · obtain ⟨own, others⟩ := setTdi_partOf s n .run
    exact ⟨_, startInterface_runs h some_ there locked given, own, others, rfl, rfl, rfl⟩
  · obtain ⟨own, others⟩ := setTdi_partOf s n .unlocked
    exact ⟨_, stopInterface_runs h some_ there, own, others, rfl, rfl, rfl⟩

end Sys2Proof.Machine
end

section
/-! The Wick's cores, fences, copies, Hurricane and health scores (R777 to R779, R786 to R788, R792 to R794, R802; O39). -/
namespace Sys2Proof.Machine

variable {s : State} {c : Cmd} {k n : Nat} {x : WickCore} {d : Bool}

/-! ## Cores (R786, R787) -/

theorem coreLive (core : s.ras.cores[k]? = some x) : ((s.ras.cores[k]?).map (·.live)).getD d = x.live := by
  rw [core]
  rfl

theorem setCore_quiet (s : State) (k : Nat) (on : Bool) : Quiet s (setCore s k on) := by constructor <;> rfl

/-- A core is halted and reset: R786's effect. -/
def coreHalted (s : State) (k : Nat) : State := note (bump (setCore s k false) (.ras 11)) "WICK_CORE_RESET" [k]

theorem coreHalted_quiet (s : State) (k : Nat) : Quiet s (coreHalted s k) :=
  ((setCore_quiet s k false).trans (bump_quiet _ _)).trans (note_quiet _ _ _)

theorem wickWatchdog_live (run : running s = true) (core : s.ras.cores[k]? = some x) (live_ : x.live = true) (hurricane : s.ras.hurricane = true) :
    exec (.wickWatchdog k) s = .next (coreHalted s k) := by
  rw [exec_wickWatchdog, execWickWatchdog, live_running _ run, coreLive core, live_, hurricane]
  rfl

/-- A core is live again, and no restart is under way. -/
def coreJoined (s : State) (k : Nat) : State := modRas (setCore s k true) fun x => { x with restartAt := none, failedRestarts := 0 }

theorem coreJoined_quiet (s : State) (k : Nat) : Quiet s (coreJoined s k) := by constructor <;> rfl

theorem wickCoreRejoin_runs (run : running s = true) (four : k < 4) (core : s.ras.cores[k]? = some x) (dead : x.live = false)
    (may : (s.ras.cores.any (·.live) || s.ras.restartAt.isSome) = true) :
    exec (.wickCoreRejoin k) s =
      .next (settle hooks (if s.ras.cores.any (·.live) then coreJoined s k else drainWick (coreJoined s k))) := by
  have joins : ¬ (decide (4 ≤ k) || ((s.ras.cores[k]?).map (·.live)).getD true ||
      !(s.ras.cores.any (·.live) || s.ras.restartAt.isSome)) = true := by
    rw [coreLive core, dead, may, decide_eq_false (Nat.not_le.mpr four)]
    decide
  rw [exec_wickCoreRejoin, execWickCoreRejoin, live_running _ run]
  exact congrArg _ (if_neg joins)

/-- Hurricane restarts the four cores. -/
def coresRestart (s : State) : State := note (bumpBy (modRas s fun x => { x with restartAt := some s.clk }) (.ras 11) 48 4) "WICK_RESTART" []

theorem coresRestart_quiet (s : State) : Quiet s (coresRestart s) := by constructor <;> rfl

theorem wickRestart_runs (run : running s = true) (dead : s.ras.cores.any (·.live) = false) (idle : s.ras.restartAt = none)
    (hurricane : s.ras.hurricane = true) (up : s.ras.halt = 0) : exec .wickRestart s = .next (coresRestart s) := by
  rw [exec_wickRestart, execWickRestart, live_running _ run]
  refine congrArg _ (if_neg ?_)
  rw [dead, idle, hurricane, up]
  decide

/-- A restart has failed by a time. -/
def restartFailed (s : State) (at_ : Time) : State :=
  modRas (untilTime s at_) fun x => { x with restartAt := none, failedRestarts := s.ras.failedRestarts + 1 }

theorem restartFailed_effect (s : State) (at_ : Time) :
    (restartFailed s at_).ras = { s.ras with restartAt := none, failedRestarts := s.ras.failedRestarts + 1 } ∧
      (restartFailed s at_).clk = max s.clk at_ ∧ (restartFailed s at_).mem = s.mem ∧ (restartFailed s at_).lports = s.lports := by
  refine ⟨?_, untilTime_clk s at_, untilTime_mem s at_, untilTime_lports s at_⟩
  rw [restartFailed, modRas_ras, untilTime_ras]

theorem wickRestartTimeout_runs (run : running s = true) {t : Time} (restart : s.ras.restartAt = some t) :
    exec .wickRestartTimeout s = .next (if 3 ≤ s.ras.failedRestarts + 1 then haltSwitch (restartFailed s (t + 50000000)) 4
      else restartFailed s (t + 50000000)) := by
  rw [exec_wickRestartTimeout, execWickRestartTimeout, live_running _ run, restart]
  simp only [untilTime_ras]
  rfl

/-! ## Fences (R777 to R779) -/

abbrev fenceSpec : CmdSpec := { pf0 := true, group := 0x17, verb := 1, args := [(0, 4)] }
abbrev unfenceSpec : CmdSpec := { pf0 := true, group := 0x17, verb := 2, args := [(0, 4)] }

theorem regionSupplyFault_decided (run : running s = true) {r : Nat} (there : r < 16) (decides : wickDecides s = true) :
    exec (.regionSupplyFault r) s = .next (settle hooks (fence s r 0)) := by
  rw [exec_regionSupplyFault, execRegionSupplyFault, live_running _ run]
  refine congrArg _ (if_neg ?_)
  rw [decides, decide_eq_false (Nat.not_le.mpr there)]
  decide

theorem regionFence_runs (h : CmdRuns s c fenceSpec none true) (there : arg c 0 4 < 16) :
    exec (.regionFence c) s = .next (if wickDecides s = true
      then settle hooks (complete (fence (startCmd s c fenceSpec) (arg c 0 4) 3) (cmdRef c) 0 0 [])
      else complete (startCmd s c fenceSpec) (cmdRef c) 2 0 []) := by
  have region : ¬ 15 < arg c 0 4 := by omega
  have decides : wickDecides (startCmd s c fenceSpec) = wickDecides s := rfl
  rw [exec_regionFence, execRegionFence, live_runCmd _ h]
  dsimp only
  rw [if_neg region, decides]
  cases wickDecides s <;> rfl

/-- A fence of a fenced region (R779): another cause than REGION.FENCE makes it one that REGION.UNFENCE does not end. -/
theorem fence_fenced {r : Nat} (fenced : isFenced s r = true) (cause : Nat) :
    fence s r cause = if cause = 3 then s else { s with ras := { s.ras with fenced := kset s.ras.fenced r false } } := by
  rw [fence, if_pos fenced]
  rfl

theorem regionUnfence_fault (h : CmdRuns s c unfenceSpec none true) (there : arg c 0 4 < 16) (fault : kfind s.ras.fenced (arg c 0 4) = some false) :
    exec (.regionUnfence c) s = .next (complete (startCmd s c unfenceSpec) (cmdRef c) 5 0 []) := by
  have region : ¬ 15 < arg c 0 4 := by omega
  have fault' : kfind (startCmd s c unfenceSpec).ras.fenced (arg c 0 4) = some false := fault
  rw [exec_regionUnfence, execRegionUnfence, live_runCmd _ h]
  exact congrArg _ ((if_neg region).trans (if_pos fault'))

/-- A region without its fence. -/
def unfenced (s : State) (r : Nat) : State := modRas s fun x => { x with fenced := kdel x.fenced r }

theorem regionUnfence_command (h : CmdRuns s c unfenceSpec none true) (there : arg c 0 4 < 16)
    (fenced : kfind s.ras.fenced (arg c 0 4) = some true) :
    exec (.regionUnfence c) s =
      .next (settle hooks (complete (unfenced (startCmd s c unfenceSpec) (arg c 0 4)) (cmdRef c) 0 0 [])) := by
  have region : ¬ 15 < arg c 0 4 := by omega
  have command : ¬ kfind (startCmd s c unfenceSpec).ras.fenced (arg c 0 4) = some false := by
    rw [startCmd_ras, fenced]
    decide
  rw [exec_regionUnfence, execRegionUnfence, live_runCmd _ h]
  exact congrArg _ ((if_neg region).trans (if_neg command))

theorem unfenced_effect {r : Nat} (sorted : ksorted s.ras.fenced = true) :
    isFenced (unfenced s r) r = false ∧ (∀ q, q ≠ r → kfind (unfenced s r).ras.fenced q = kfind s.ras.fenced q) ∧ Quiet s (unfenced s r) := by
  refine ⟨?_, fun q other => kfind_kdel_other _ _ _ other, by constructor <;> rfl⟩
  rw [isFenced, unfenced, modRas_ras, kfind_kdel_self _ _ sorted]
  rfl

/-! ## Copies (R792, R793) -/

/-- Verification begins at a time. -/
def verifyBegins (s : State) (at_ : Time) : State := modRas (untilTime s at_) fun x => { x with verifyAt := (untilTime s at_).clk }

theorem verifyBegins_effect (s : State) (at_ : Time) :
    (verifyBegins s at_).clk = max s.clk at_ ∧ (verifyBegins s at_).ras = { s.ras with verifyAt := (verifyBegins s at_).clk } ∧
      (verifyBegins s at_).mem = s.mem ∧ (verifyBegins s at_).lports = s.lports := by
  refine ⟨untilTime_clk s at_, ?_, untilTime_mem s at_, untilTime_lports s at_⟩
  rw [verifyBegins, modRas_ras, untilTime_ras]
  rfl

/-- A pass from a time on, as R793 says it, with what it finds in the copies. -/
def verifiesFrom (s : State) (found : List (Nat × List Byte)) (at_ : Time) : State :=
  let s := untilTime s at_
  let s := modRas s fun x => { x with verifyAt := s.clk }
  let real := found.filter fun e => e.2.length = 4096 &&
    ((tierOf s (e.1 / 2048)).map fun t => decide (1 < t.copies ∧ e.1 / 512 % 4 < t.copies ∧ e.1 / 512 % 4 ≠ 0)).getD false
  settle hooks (verifyPass { s with mem := { s.mem with copyAlt := real.foldl (fun m e => kset m e.1 e.2) s.mem.copyAlt } })

theorem verifyPass_on (run : running s = true) (found : List (Nat × List Byte)) (on : regField s rRas 16 14 ≠ 0) :
    exec (.verifyPass found) s = .next (verifiesFrom s found (s.ras.verifyAt + regField s rRas 16 14 * 3600000000000)) := by
  rw [exec_verifyPass, execVerifyPass, live_running _ run, if_neg on]
  rfl

theorem verifiesFrom_nothing (s : State) (at_ : Time) : verifiesFrom s [] at_ = settle hooks (verifyPass (verifyBegins s at_)) := rfl

theorem verifyPass_nothing (run : running s = true) (on : regField s rRas 16 14 ≠ 0) :
    exec (.verifyPass []) s =
      .next (settle hooks (verifyPass (verifyBegins s (s.ras.verifyAt + regField s rRas 16 14 * 3600000000000)))) :=
  (verifyPass_on run [] on).trans (congrArg _ (verifiesFrom_nothing _ _))

theorem verifyPass_off (run : running s = true) (off : regField s rRas 16 14 = 0) (found : List (Nat × List Byte)) :
    exec (.verifyPass found) s = .next s := by
  rw [exec_verifyPass, execVerifyPass, live_running _ run, if_pos off]

abbrev resolveSpec : CmdSpec := { group := 0x08, verb := 7, args := [(0, 8), (8, 4)], acts := .object }

section
variable {t : TierEntry} (entry : tierOf s (frameOf (arg c 0 8)) = some t)
  (h : CmdRuns s c resolveSpec (some t.partition) (some t.partition = some (c.fn - 1))) (addr : arg c 0 8 < 2 ^ 47) (copy : arg c 8 4 ≤ 2)
include entry h addr copy

/-- POOL.RESOLVE of a frame that has an entry. -/
theorem poolResolve_runs :
    exec (.poolResolve c) s = .next (if !t.quarantined || decide (t.copies ≤ arg c 8 4) then complete (startCmd s c resolveSpec) (cmdRef c) 5 0 []
      else (resolve (startCmd s c resolveSpec) (frameOf (arg c 0 8)) (arg c 8 4)).elim (complete (startCmd s c resolveSpec) (cmdRef c) 5 0 [])
        fun u => complete u (cmdRef c) 0 0 []) := by
  have legal : ¬ (2 ^ 47 ≤ arg c 0 8 ∨ 2 < arg c 8 4) := by omega
  obtain ⟨run, checks⟩ := h
  have owner : (tierOf s (frameOf (arg c 0 8))).map (·.partition) = some t.partition := by rw [entry]; rfl
  rw [exec_poolResolve, execPoolResolve, live_running _ run]
  dsimp only
  rw [owner, runCmd_runs _ ⟨run, checks⟩, if_neg legal, tierOf_startCmd, entry]
  dsimp only
  refine congrArg _ (if_congr (by simp) rfl ?_)
  cases resolve (startCmd s c resolveSpec) (frameOf (arg c 0 8)) (arg c 8 4) <;> rfl

end

theorem adopt_tier (s : State) (t : TierEntry) (frame unit winner : Nat) : (adopt s t frame unit winner).mem.tier = s.mem.tier := rfl

theorem foldl_adopt_tier (t : TierEntry) (frame copy : Nat) (units : List Nat) (s : State) :
    (units.foldl (fun s u => adopt s t frame u copy) s).mem.tier = s.mem.tier := by
  induction units generalizing s with
  | nil => rfl
  | cons u us ih => exact (ih _).trans (adopt_tier s t frame u copy)

/-- The resolved state of R792, over some units of a frame. -/
def resolvedOver (units : List Nat) (s : State) (t : TierEntry) (frame copy : Nat) : State :=
  let all := natRange 0 t.copies
  let top := units.foldl (fun m u => all.foldl (fun m c => max m (kget s.mem.copyMeta (metaKey frame c u) {}).version) m) 0
  let s := units.foldl (fun s u => adopt s t frame u copy) s
  let metas := units.foldl (fun m u => all.foldl (fun m c =>
    kset m (metaKey frame c u) { kget m (metaKey frame c u) {} with version := top + 1 }) m) s.mem.copyMeta
  modTier { s with mem := { s.mem with copyMeta := metas } } frame fun t => { t with quarantined := false, stale := [] }

theorem resolve_cases {u : State} {t : TierEntry} {frame copy : Nat} (entry : tierOf s frame = some t)
    (resolved : resolve s frame copy = some u) : u = resolvedOver (natRange 0 512) s t frame copy := by
  unfold resolve at resolved
  rw [entry] at resolved
  by_cases good : (!(natRange 0 512).all fun u => committed s t frame u copy) = true
  · exact absurd ((if_pos good).symm.trans resolved) nofun
  · exact (Option.some.inj ((if_neg good).symm.trans resolved)).symm

/-- A frame that is resolved is quarantined no more, and has no stale copy. -/
theorem resolvedOver_entry (units : List Nat) {t : TierEntry} {frame : Nat} (entry : tierOf s frame = some t) (copy : Nat) :
    tierOf (resolvedOver units s t frame copy) frame = some { t with quarantined := false, stale := [] } := by
  rw [resolvedOver, tierOf_modTier_self]
  simp only [tierOf, foldl_adopt_tier]
  rw [show kfind s.mem.tier frame = some t from entry]
  rfl

theorem resolve_entry {u : State} {t : TierEntry} {frame copy : Nat} (entry : tierOf s frame = some t) (resolved : resolve s frame copy = some u) :
    tierOf u frame = some { t with quarantined := false, stale := [] } := by
  rw [resolve_cases entry resolved]
  exact resolvedOver_entry _ entry copy

/-! ## Hurricane, health and counters (R788, R794, R802) -/

/-- Hurricane stops with every key destroyed. -/
def hurricaneStopped (s : State) : State :=
  note (bump (modRas (destroyKeys s) fun x => { x with hurricane := false }) (.fault 4)) "HURRICANE_MISMATCH" []

theorem hurricaneMismatch_runs (run : running s = true) (works : s.ras.hurricane = true) :
    exec .hurricaneMismatch s = .next (report (hurricaneStopped s) 0x0E (selfNode s) 0x1FF 3) := by
  rw [exec_hurricaneMismatch, execHurricaneMismatch, live_running _ run, works]
  rfl

theorem hurricaneStopped_lports (s : State) :
    (hurricaneStopped s).lports = s.lports.map fun e => (e.1, { e.2 with sec := {} }) := rfl

/-- A score at its next millisecond of recovery. -/
def scoreRaised (s : State) (n : Nat) (at_ : Time) : State :=
  let u := untilTime s at_
  modRas u fun x => { x with health := kmod x.health n fun h => { h with score := min 1000 (h.score + 1), at_ := u.clk } }

theorem healthRecover_runs (run : running s = true) {h : Health} (has : kfind s.ras.health n = some h) :
    exec (.healthRecover n) s = .next (scoreRaised s n (h.at_ + regField s rHealth 10 10 * 1000000)) := by
  rw [exec_healthRecover, execHealthRecover, live_running _ run, has]
  rfl

theorem scoreRaised_effect {h : Health} (has : kfind s.ras.health n = some h) (at_ : Time) :
    (scoreRaised s n at_).clk = max s.clk at_ ∧
      kfind (scoreRaised s n at_).ras.health n = some { h with score := min 1000 (h.score + 1), at_ := (scoreRaised s n at_).clk } ∧
      (∀ m, m ≠ n → kfind (scoreRaised s n at_).ras.health m = kfind s.ras.health m) ∧ (scoreRaised s n at_).mem = s.mem ∧
      (scoreRaised s n at_).lports = s.lports := by
  refine ⟨untilTime_clk s at_, ?_, fun m other => ?_, untilTime_mem s at_, untilTime_lports s at_⟩
  · simp only [scoreRaised, modRas_ras, untilTime_ras, kfind_kmod_self, has]
    rfl
  · simp only [scoreRaised, modRas_ras, untilTime_ras, kfind_kmod_other _ _ _ _ other]

abbrev healthReadSpec : CmdSpec := { pf0 := true, group := 0x19, verb := 1 }
abbrev rasStatsSpec : CmdSpec := { pf0 := true, group := 0x18, verb := 1 }

theorem healthRead_runs (h : CmdRuns s c healthReadSpec none true) :
    exec (.healthRead c) s = .next (complete (startCmd s c healthReadSpec) (cmdRef c) 0 0
      (s.ras.health.flatMap fun e => leBytes 4 e.1 ++ leBytes 4 e.2.score)) := by
  rw [exec_healthRead, execHealthRead, live_runCmd _ h]
  rfl

theorem rasStats_runs (h : CmdRuns s c rasStatsSpec none true) :
    exec (.rasStats c) s = .next (complete (startCmd s c rasStatsSpec) (cmdRef c) 0 0
      ((natRange 0 17).flatMap fun k => leBytes 8 (ctr s (.ras k)))) := by
  rw [exec_rasStats, execRasStats, live_runCmd _ h]
  rfl

theorem rasStats_length (s : State) : ((natRange 0 17).flatMap fun k => leBytes 8 (ctr s (.ras k))).length = 136 := by
  simp [natRange]

end Sys2Proof.Machine

namespace Sys2Proof.Machine

theorem restartFailed_or_halts {s : State} (run : running s = true) {t : Time} (restart : s.ras.restartAt = some t) :
    ∃ u, u.ras = { s.ras with restartAt := none, failedRestarts := s.ras.failedRestarts + 1 } ∧ u.clk = max s.clk (t + 50000000) ∧
        u.mem = s.mem ∧ u.lports = s.lports ∧
        (s.ras.failedRestarts < 2 → exec .wickRestartTimeout s = .next u) ∧
        (2 ≤ s.ras.failedRestarts → exec .wickRestartTimeout s = .next (haltSwitch u 4)) := by
  have effect := restartFailed_effect s (t + 50000000)
  have runs := wickRestartTimeout_runs run restart
  generalize restartFailed s (t + 50000000) = u at effect runs
  obtain ⟨ras, clk, mem, lports⟩ := effect
  refine ⟨u, ras, clk, mem, lports, fun few => ?_, fun many => ?_⟩
  · rwa [if_neg (by omega)] at runs
  · rwa [if_pos (by omega)] at runs

/-- Settles O39: each command and event by the state it leaves. -/
theorem coresFencesAndScores : Obligations.CoresFencesAndScores := by
  unfold Obligations.CoresFencesAndScores
  refine ⟨fun k s run => ⟨fun x core live_ hurricane => ?_, fun x four core dead any => ?_, fun x four core dead none_ restart => ?_,
      fun code p v one => ?_, fun dead idle hurricane up => ?_, fun t restart => restartFailed_or_halts run restart⟩,
    fun c s => ⟨fun r run there decides => regionSupplyFault_decided run there decides, fun h there => ⟨fun yes => ?_, fun no => ?_⟩,
      fun r cause fenced => ⟨fence_fenced fenced 3, fun other => (fence_fenced fenced cause).trans (if_neg other)⟩,
      fun h there => ⟨regionUnfence_fault h there, fun fenced sorted => ⟨_, regionUnfence_command h there fenced, ?_⟩⟩,
      fun run on => ?_, fun run off found => verifyPass_off run off found, fun t entry h addr copy => ⟨fun clean => ?_, fun u quarantined within resolved => ?_⟩,
      fun run works => ?_, fun n h run has => ?_, fun h => healthRead_runs h, fun h => ⟨_, rasStats_runs h, rfl, rasStats_length s⟩⟩⟩
  · exact ⟨_, wickWatchdog_live run core live_ hurricane, rfl, ctr_bump_self _ _, coreHalted_quiet s k⟩
  · have runs := wickCoreRejoin_runs run four core dead (by rw [any, Bool.true_or])
    rw [if_pos any] at runs
    exact ⟨_, runs, coreJoined_quiet s k, rfl⟩
  · have runs := wickCoreRejoin_runs run four core dead (by rw [restart, Bool.or_true])
    rw [if_neg (Bool.eq_false_iff.mp none_)] at runs
    exact ⟨_, runs, coreJoined_quiet s k, rfl, rfl, rfl⟩
  · rw [drainWick, one]
    rfl
  · exact ⟨_, wickRestart_runs run dead idle hurricane up, rfl, coresRestart_quiet s, by simp [coresRestart, ctr_bumpBy]⟩
  · exact (regionFence_runs h there).trans (congrArg _ (if_pos yes))
  · exact (regionFence_runs h there).trans (congrArg _ (if_neg (Bool.eq_false_iff.mp no)))
  · obtain ⟨gone, others, quiet⟩ := unfenced_effect (s := startCmd s c unfenceSpec) (r := arg c 0 4) sorted
    exact ⟨gone, others, (startCmd_quiet s c unfenceSpec).trans quiet⟩
  · exact ⟨_, verifyPass_nothing run on, verifyBegins_effect s _⟩
  · exact (poolResolve_runs entry h addr copy).trans (congrArg _ (if_pos (by simp [clean])))
  · refine ⟨(poolResolve_runs entry h addr copy).trans (congrArg _ ((if_neg (by simp [quarantined, within])).trans (by rw [resolved]; rfl))),
      _, resolve_entry (s := startCmd s c resolveSpec) entry resolved, rfl, rfl, rfl⟩
  · refine ⟨_, hurricaneMismatch_runs run works, rfl, ?_, fun e mem => ?_⟩
    · rw [hurricaneStopped_lports, List.length_map]
    · rw [hurricaneStopped_lports, List.mem_map] at mem
      obtain ⟨e, -, rfl⟩ := mem
      rfl
  · exact ⟨_, healthRecover_runs run has, scoreRaised_effect has _⟩

end Sys2Proof.Machine
end

section
/-! Where a management message is taken, answered, kept or sent on (R803 to R805, R787, R809; O34). -/
namespace Sys2Proof.Machine

variable {s : State} {code : Nat} {p : Req} {i : Instr}

/-! ## Arrival -/

/-- The packet of a management message. -/
abbrev messagePkt (code : Nat) (p : Req) : Packet := .req (.mgmt code) p

/-- A state in which an endpoint's message has been numbered (R86). -/
def messageNoted (s : State) (p : Req) : State :=
  if !facesSwitch s p.lport && (lportOf s p.lport).node = some p.src.toNat then noteSeq s p else s

theorem messageNoted_ing (s : State) (p : Req) : ∃ x, messageNoted s p = { s with ing := x } := by
  unfold messageNoted
  split
  · exact ⟨_, rfl⟩
  · exact ⟨s.ing, rfl⟩

/-- Numbering a message and giving back its credit write the ingress and the ports only. -/
theorem messageTaken_parts (s : State) (code : Nat) (p : Req) : ∃ x l, messageTaken s code p = { s with ing := x, lports := l } := by
  obtain ⟨x, noted⟩ := messageNoted_ing s p
  obtain ⟨l, credit⟩ := returnCredit_ports (messageNoted s p) p.lport (channelOf p.tc.toNat p.esc) (messagePkt code p).flits
  exact ⟨x, l, credit.trans (by rw [noted])⟩

theorem messageTaken_ras (s : State) (code : Nat) (p : Req) : (messageTaken s code p).ras = s.ras := by
  obtain ⟨x, l, h⟩ := messageTaken_parts s code p
  rw [h]

theorem messageNoted_self (s : State) (p : Req) : selfNode (messageNoted s p) = selfNode s := by
  obtain ⟨x, h⟩ := messageNoted_ing s p
  rw [h]
  rfl

/-- The state in which the Wick keeps a message while none of its cores is live (R787). -/
def messageKept (s : State) (code : Nat) (p : Req) : State :=
  let u := messageTaken s code p
  let u := if !facesSwitch s p.lport then holdMgmt u code p else u
  { u with ras := { u.ras with wickQueue := u.ras.wickQueue ++ [(code, p)] } }

/-- An endpoint's message for another node is sent there, and held until its answer comes. -/
def messageSent (s : State) (code : Nat) (p : Req) : State :=
  match enqueue s (schedPort p.lport) p.lport false (messagePkt code p) with
  | some t => holdMgmt t code p
  | none => mgmtAnswer s code p stNoMapping

/-- A message for this switch, or of link scope. -/
abbrev messageHere (s : State) (p : Req) : Prop := p.dst.toNat = noNode ∨ p.dst.toNat = selfNode s

/-- A message of good form, by its port, opcode and destination. -/
theorem mgmtArrive_in (h : MessageIn s code p) :
    mgmtArrive code p s =
      if facesSwitch s p.lport = false ∧ switchesMarked code = true then
        mgmtAnswer (violatePkt (messageTaken s code p) p.lport 6 (messagePkt code p)) code p 5
      else if messageHere s p then
        if s.ras.cores.any (·.live) then mgmtTake (messageTaken s code p) code p else messageKept s code p
      else if facesSwitch s p.lport = true then transit (messageNoted s p) p.lport p.esc (messagePkt code p)
      else messageSent (messageTaken s code p) code p := by
  obtain ⟨⟨run, halt⟩, lantern, knownPort, form, bits, link⟩ := h
  have enters : ¬ (discardUnknown s p.lport && decide (p.dst.toNat ≠ noNode)) = true := by
    simpa using knownPort
  have self := messageNoted_self s p
  have good : ¬ (!step1Ok (.mgmt code) p || !step3Ok (selfNode (messageNoted s p)) (.mgmt code) p ||
      (linkScoped code && decide (p.dst.toNat ≠ noNode))) = true := by
    rw [self, form, bits]
    simpa using link
  have here : (decide (p.dst.toNat = noNode) || decide (p.dst.toNat = selfNode (messageNoted s p))) = true ↔ messageHere s p := by
    rw [self]
    simp
  have ras := messageTaken_ras s code p
  rw [mgmtArrive, if_neg (not_not_intro halt)]
  dsimp only
  rw [capture_off lantern, if_neg enters]
  change (if (!step1Ok (.mgmt code) p || !step3Ok (selfNode (messageNoted s p)) (.mgmt code) p ||
      (linkScoped code && decide (p.dst.toNat ≠ noNode))) = true then _ else _) = _
  rw [if_neg good]
  refine if_congr (by simp) rfl (if_congr here ?_ (if_congr (by simp) rfl rfl))
  exact if_congr (by rw [ras]) rfl rfl

/-! ## The message's row -/

theorem mgmt_running (run : running s = true) : mgmt code p s = .next (settle hooks (checkQuar (mgmtArrive code p s) p.lport)) :=
  live_running _ run

/-- Each row that is a management message has its effect. -/
theorem exec_message (h : messageOf i = some (code, p)) : exec i s = mgmt code p s := by
  cases i <;> cases h <;> rfl

theorem exec_message_in (row : messageOf i = some (code, p)) (h : MessageIn s code p) {t : State} (arrives : mgmtArrive code p s = t) :
    exec i s = .next (settle hooks (checkQuar t p.lport)) := by
  rw [exec_message row, mgmt_running h.1.1, arrives]

/-- A message for this switch that is not turned away is taken by the Wick. -/
theorem mgmtArrive_taken (h : MessageIn s code p) (may : facesSwitch s p.lport = true ∨ switchesMarked code = false)
    (here : messageHere s p) (live_ : s.ras.cores.any (·.live) = true) :
    mgmtArrive code p s = mgmtTake (messageTaken s code p) code p := by
  have notTurned : ¬ (facesSwitch s p.lport = false ∧ switchesMarked code = true) := by
    rintro ⟨own, marked⟩
    rcases may with switch | unmarked
    · exact absurd (own.symm.trans switch) nofun
    · exact absurd (unmarked.symm.trans marked) nofun
  rw [mgmtArrive_in h, if_neg notTurned, if_pos here, if_pos live_]

theorem exec_message_taken (row : messageOf i = some (code, p)) (here : messageHere s p) (live_ : s.ras.cores.any (·.live) = true)
    (taken : MessageIn s code p ∧ (facesSwitch s p.lport = true ∨ switchesMarked code = false)) :
    exec i s = .next (settle hooks (checkQuar (mgmtTake (messageTaken s code p) code p) p.lport)) :=
  exec_message_in row taken.1 (mgmtArrive_taken taken.1 taken.2 here live_)

theorem mgmtTake_answers {s t : State} {st : Nat} (effect : mgmtEffect s code p = (t, some st)) : mgmtTake s code p = mgmtAnswer t code p st := by
  rw [mgmtTake, effect]

theorem mgmtTake_later {s t : State} (effect : mgmtEffect s code p = (t, none)) : mgmtTake s code p = t := by
  rw [mgmtTake, effect]

theorem messageKept_effect (s : State) (code : Nat) (p : Req) :
    (messageKept s code p).ras.wickQueue = s.ras.wickQueue ++ [(code, p)] ∧ (messageKept s code p).mem = s.mem ∧
      (messageKept s code p).fm = s.fm ∧ (messageKept s code p).core = s.core ∧ (messageKept s code p).parts = s.parts := by
  obtain ⟨x, l, h⟩ := messageTaken_parts s code p
  unfold messageKept
  rw [h]
  cases facesSwitch s p.lport <;> exact ⟨rfl, rfl, rfl, rfl, rfl⟩

end Sys2Proof.Machine

namespace Sys2Proof.Machine

/-- Settles O34: a row that is a management message arrives as its opcode, port and destination say. -/
theorem messagesTaken : Obligations.MessagesTaken := by
  unfold Obligations.MessagesTaken
  refine ⟨fun p s live_ here => ?_, fun i code p s row h => ⟨fun own marked => ?_, fun may here live_ =>
      ⟨fun t st effect => ?_, fun t effect => ?_⟩,
    fun may here dead => ⟨messageKept s code p, ?_, messageKept_effect s code p⟩, fun switch away => ?_, fun opcode v => ?_⟩⟩
  · dsimp only
    exact ⟨exec_message_taken rfl here live_, exec_message_taken rfl here live_, exec_message_taken rfl here live_,
      exec_message_taken rfl here live_, exec_message_taken rfl here live_, exec_message_taken rfl here live_,
      exec_message_taken rfl here live_, exec_message_taken rfl here live_, exec_message_taken rfl here live_,
      exec_message_taken rfl here live_, exec_message_taken rfl here live_, exec_message_taken rfl here live_,
      exec_message_taken rfl here live_, exec_message_taken rfl here live_⟩
  · exact exec_message_in row h (by rw [mgmtArrive_in h, if_pos ⟨own, marked⟩])
  · exact exec_message_in row h (by rw [mgmtArrive_in h, if_neg may, if_pos here, if_pos live_, mgmtTake_answers effect])
  · exact exec_message_in row h (by rw [mgmtArrive_in h, if_neg may, if_pos here, if_pos live_, mgmtTake_later effect])
  · exact exec_message_in row h (by rw [mgmtArrive_in h, if_neg may, if_pos here, if_neg (Bool.eq_false_iff.mp dead)])
  · have faces : facesSwitch s p.lport = true := by simpa using switch
    have notOwn : ¬ (facesSwitch s p.lport = false ∧ switchesMarked code = true) := fun both => switch both.1
    have noted : messageNoted s p = s := by simp [messageNoted, faces]
    exact exec_message_in row h (by rw [mgmtArrive_in h, if_neg notOwn, if_neg away, if_pos faces, noted])
  · rcases opcode with rfl | rfl <;> rfl

end Sys2Proof.Machine
end

section
/-! Discovery (R806 to R808; O35). -/
namespace Sys2Proof.Machine

/-! ## A violation with Lantern's ring full (R638, R957) -/

theorem ringWrite_cfg_full {s : State} (slow : tooFast s = false) (full : ringSize s ≤ s.lan.ring.length) (e : List Byte) :
    (ringWrite s e).cfg = (setField s rLanternStatus 32 1 1).cfg := by
  have lost : decide (ringSize (bumpFree s) ≤ (bumpFree s).lan.ring.length) = true := decide_eq_true full
  rw [ringWrite, if_neg (Bool.eq_false_iff.mp slow)]
  dsimp only
  rw [lost]
  rfl

/-- A violation whose entry pushes the oldest out of the ring sets a bit of LANTERN_STATUS. -/
theorem violate_cfg_full {s : State} (slow : tooFast s = false) (full : ringSize s ≤ s.lan.ring.length) (n row : Nat) (head : List Byte)
    (size : Nat) : (violate s n row head size).cfg = (setField s rLanternStatus 32 1 1).cfg := by
  unfold violate
  dsimp only
  rw [modLport_cfg, (penal_quiet _ _ _).cfg, bump_cfg, ringWrite_cfg_full slow full]

theorem gotHello_otherRole {s : State} {n : Nat} {b : List Byte} {q : Partner} (hello : helloOf b = some q) (waits : (lportOf s n).disc = .hello)
    (other : (lportOf s n).role ≠ some q.role) :
    gotHello s n b = (untrust (violate (modLport s n fun l => { l with partner := some q, cert := [] }) n 15 [] 96) n false, 0) := by
  rw [gotHello, hello]
  dsimp only
  rw [waits]
  dsimp only
  rw [if_pos other]

/-! ## The counterexample -/

/-- Port 0 waits for an LL_HELLO and has no role; Lantern's ring holds what is given. -/
def helloSwitch (ring : List (Nat × List Byte)) : State :=
  { State.reset with lports := [(0, { disc := .hello })], lan := { ring := ring } }

/-- A switch's LL_HELLO. -/
def switchHello : List Byte := leBytes 1 0 ++ leBytes 1 1 ++ List.replicate 94 0

/-- With a full ring the LL_HELLO of another role writes a register that was never written. -/
theorem gotHello_writes {ring : List (Nat × List Byte)} (full : ringSize State.reset ≤ ring.length) {q : Partner}
    (hello : helloOf switchHello = some q) : (gotHello (helloSwitch ring) 0 switchHello).1.cfg ≠ (helloSwitch ring).cfg := by
  have waits : (lportOf (helloSwitch ring) 0).disc = .hello := rfl
  have other : (lportOf (helloSwitch ring) 0).role ≠ some q.role := nofun
  have written : (gotHello (helloSwitch ring) 0 switchHello).1.cfg = (setField (helloSwitch ring) rLanternStatus 32 1 1).cfg := by
    rw [gotHello_otherRole hello waits other]
    exact violate_cfg_full (s := modLport (helloSwitch ring) 0 fun l => { l with partner := some q, cert := [] }) rfl full 0 15 [] 96
  rw [written]
  exact nofun

/-- Refutes O35: its clause on an LL_HELLO of another role keeps every register. The violation that this LL_HELLO is (R806) writes an entry
into Lantern's ring, and where that is full LANTERN_STATUS shows that an entry was lost (R957). -/
theorem not_discovery : ¬ Obligations.Discovery := by
  unfold Obligations.Discovery
  intro holds
  obtain ⟨q, hello⟩ : ∃ q, helloOf switchHello = some q := Option.isSome_iff_exists.mp (by decide)
  obtain ⟨ring, full⟩ : ∃ ring : List (Nat × List Byte), ringSize State.reset ≤ ring.length :=
    ⟨List.replicate (ringSize State.reset) (0, []), List.length_replicate.ge⟩
  obtain ⟨-, clauses, -⟩ := holds (helloSwitch ring) 0 switchHello (by decide)
  obtain ⟨-, -, mismatch, -⟩ := clauses q hello
  obtain ⟨u, got, -, -, only⟩ := mismatch rfl nofun
  obtain ⟨-, -, -, -, -, -, -, -, cfg⟩ := only
  exact gotHello_writes full hello ((congrArg (fun x : State × Nat => x.1.cfg) got).trans cfg)

end Sys2Proof.Machine
end

section
/-! What the messages that a switch takes change (R680, R714 to R716, R757, R797, R815, R822 to R824, R827; O36). -/
namespace Sys2Proof.Machine

variable {s u : State} {p : Req} {n : Nat} {b : List Byte}

/-! ## Time (R714 to R716) -/

theorem gotSync_kept (length : b.length = 16) (fits : leNat b < 2 ^ 16) : gotSync s n b = (syncGot s n (leField b 0 2), 0) := by
  have good : ¬ (b.length ≠ 16 ∨ 2 ^ 16 ≤ leNat b) := by omega
  rw [gotSync, if_neg good]

theorem syncGot_effect (s : State) (n seq : Nat) :
    (kget (syncGot s n seq).tk.exch n {}).got = some (seq, s.ftime.toNat) ∧
      ∀ m, m ≠ n → kfind (syncGot s n seq).tk.exch m = kfind s.tk.exch m := by
  refine ⟨?_, fun m other => kfind_kset_other _ _ _ _ other⟩
  simp [syncGot]

theorem gotFollow_taken (length : b.length = 32) (fits : leField b 12 4 < 64) (rsv : leField b 24 8 = 0) :
    gotFollow s n b =
      (timeFollow s n (leField b 0 8) (leField b 8 2) (leField b 10 2) (leField b 12 4 % 8) (leField b 12 4 / 8) (leField b 16 8), 0) := by
  have good : ¬ (b.length ≠ 32 ∨ 64 ≤ leField b 12 4 ∨ leField b 24 8 ≠ 0) := by omega
  rw [gotFollow]
  exact if_neg good

/-! ## Routes (R822 to R824) -/

section
variable {rs : List (Nat × Nat)} (msg : routeMsg b = some (rs, false))
include msg

/-- A ROUTE_WITHDRAW without RESET. -/
theorem gotRoutes_withdraw {ds : List Nat} (w : withdrawFrom s n rs = (u, ds)) :
    gotRoutes s false n b = (if ds.isEmpty then u else spread u 0x85 false ds n, 0) := by
  rw [gotRoutes, msg]
  simp [w]

/-- A ROUTE_RESTORE that gives no destination its route back. -/
theorem gotRoutes_restore (decides : wickDecides s = true)
    (none_ : (restoreHops s n fun d => rs.any fun r => decide (r.1 ≤ d ∧ d < r.1 + r.2)).2 = []) :
    gotRoutes s true n b = ((restoreHops s n fun d => rs.any fun r => decide (r.1 ≤ d ∧ d < r.1 + r.2)).1, 0) := by
  rw [gotRoutes, msg]
  dsimp only
  rw [if_pos rfl, if_pos decides]
  generalize restoreHops s n (fun d => rs.any fun r => decide (r.1 ≤ d ∧ d < r.1 + r.2)) = x at none_ ⊢
  obtain ⟨u, ds⟩ := x
  cases none_
  rfl

end

/-- A lookup in a table whose values change by key. -/
theorem kfind_map_values {α : Type} (l : List (Nat × α)) (f : Nat × α → Nat × α) (g : Nat → α → α)
    (hf : ∀ e, f e = (e.1, g e.1 e.2)) (k : Nat) :
    kfind (l.map f) k = (kfind l k).map (g k) := by
  induction l with
  | nil => rfl
  | cons e l ih =>
    rw [List.map_cons, hf]
    by_cases same : e.1 = k
    · subst same
      simp [kfind]
    · simpa [kfind, same] using ih

theorem clearHops_route (which : Nat → Bool) {d : Nat} {r : Route} (has : kfind s.core.routes d = some r) (routed : r.local_ = false)
    (named : which d = true) : kfind (clearHops s n which).1.core.routes d = some (r.without n) := by
  refine (kfind_map_values s.core.routes _ (fun d r => if which d && !r.local_ then r.without n else r) (fun e => ?_) d).trans ?_
  · split <;> rfl
  · rw [has, Option.map_some, named, routed]
    rfl

/-! ## Discards, Wick to Wick, keys, tickets and commands (R680, R757, R797, R815, R827) -/

theorem gotDiscard_found (length : b.length = 16) (node : leField b 0 2 < 2 ^ 15) (reason : leField b 8 8 ≤ 4) {l id : Nat} {o : OutReq}
    (port : lportOfNode s (leField b 0 2) = some l) (unscored : kfind s.ras.health l = none)
    (out : findOut s (leField b 0 2) (leField b 2 2) = some (id, o)) :
    gotDiscard s b = (markUnanswered s id (leField b 8 1), 0) := by
  have good : ¬ (b.length ≠ 16 ∨ 2 ^ 15 ≤ leField b 0 2 ∨ 4 < leField b 8 8) := by omega
  have same : penal s l 2 = s := by rw [penal, unscored]
  rw [gotDiscard, if_neg good, port]
  dsimp only
  rw [same, out]

theorem gotXchg_stranger (stranger : knownSwitch s p.src.toNat = false) : gotXchg s p = (s, some 5) := by
  rw [gotXchg]
  exact if_pos (by rw [stranger]; rfl)

theorem gotXchg_short (knows : knownSwitch s p.src.toNat = true) (short : p.payload.length < 72) : gotXchg s p = (s, some 6) := by
  rw [gotXchg]
  exact (if_neg (by simp [knows])).trans (if_pos (Or.inl short))

/-- A version that another home announces (R827, kind 6). -/
def versionAnnounced (s : State) (b : List Byte) : State :=
  { s with snap := { s.snap with announced := s.snap.announced ++ [(leField (b.drop 8) 0x10 8 / frameBytes, leField (b.drop 8) 0x20 4)] } }

theorem gotXchg_announce (knows : knownSwitch s p.src.toNat = true) (long : 72 ≤ p.payload.length) (rsv : leField p.payload 2 6 = 0)
    (kind : leField p.payload 0 2 = 6) : gotXchg s p = (versionAnnounced s p.payload, some 0) := by
  have good : ¬ (p.payload.length < 72 ∨ leField p.payload 2 6 ≠ 0) := by omega
  rw [gotXchg, kind]
  exact (if_neg (by simp [knows])).trans (if_neg good)

theorem gotKex_unmarked (unmarked : (lportOf s n).marked = false) : gotKex s n b = (s, 5) := by
  rw [gotKex]
  exact if_pos (by simp [unmarked])

theorem gotKex_finishes (identity : idLost s = false) (marked : (lportOf s n).marked = true) {r : KexRecord} {serial : Nat} {k : Kex}
    (read : kexRead b = some (r, serial)) (started : kfind s.sec.kex n = some k) : gotKex s n b = (kexFinish s n k r serial, 0) := by
  rw [gotKex, if_neg (by simp [identity, marked]), read, started]

theorem takeTicket_refused {st order : Nat} (refused : ticketCheck s b = some (st, order)) : takeTicket s b = (bump s (.ras 15), st, order) := by
  rw [takeTicket, refused]

theorem fmCommand_refused {st order : Nat} (refused : signedCheck s (p.payload.take 3456) = some (st, order)) :
    fmCommand s p = ((sendMgmt s 0x84 p.src.toNat (leBytes 8 (leField (p.payload.take 3456) 0x18 8) ++ leBytes 8 (st + 256 * (0x80 + order)) ++
      leBytes 16 0)).getD s, st) := by
  rw [fmCommand]
  dsimp only
  rw [refused]
  rfl

/-- An effect that is answered at once. -/
def answeredNow (x : State × Nat) : State × Option Nat := (x.1, some x.2)

end Sys2Proof.Machine

namespace Sys2Proof.Machine

/-- Settles O36: the effect of each message by its opcode. -/
theorem messageEffects : Obligations.MessageEffects := by
  unfold Obligations.MessageEffects
  intro s p n b
  refine ⟨fun length fits => ?_, fun length fits rsv => ?_, fun rs msg decides => ⟨fun u w => ?_, fun u ds w some_ => ?_,
      fun d r has routed named => clearHops_route (fun d => rs.any fun r => decide (r.1 ≤ d ∧ d < r.1 + r.2)) has routed named⟩,
    fun rs msg decides none_ => ?_, fun l id o length node reason port unscored out => ?_, gotXchg_stranger, gotXchg_short,
    fun knows long rsv kind => ?_, fun unmarked => ?_, fun r serial k identity marked read started => ?_, fun st order refused => ?_,
    fun st order refused => ?_⟩
  · obtain ⟨got, others⟩ := syncGot_effect s n (leField b 0 2)
    exact ⟨_, congrArg answeredNow (gotSync_kept length fits), got, others, rfl, rfl, rfl⟩
  · exact congrArg answeredNow (gotFollow_taken length fits rsv)
  · exact congrArg answeredNow (gotRoutes_withdraw msg w)
  · have taken := gotRoutes_withdraw msg w
    rw [if_neg (by simpa using some_)] at taken
    exact congrArg answeredNow taken
  · exact congrArg answeredNow (gotRoutes_restore msg decides none_)
  · exact ⟨s, congrArg answeredNow (gotDiscard_found length node reason port unscored out), rfl, rfl, rfl⟩
  · exact ⟨_, gotXchg_announce knows long rsv kind, rfl, rfl, rfl⟩
  · exact congrArg answeredNow (gotKex_unmarked unmarked)
  · exact congrArg answeredNow (gotKex_finishes identity marked read started)
  · exact congrArg (fun x : State × Nat × Nat => (x.1, some x.2.1)) (takeTicket_refused refused)
  · exact ⟨_, congrArg answeredNow (fmCommand_refused refused), rfl⟩

end Sys2Proof.Machine
end

section
/-! The NODE and ROUTE commands (R814 to R820, R824; O37). -/
namespace Sys2Proof.Machine

variable {s : State} {c : Cmd} {b : List Byte} {d : Nat}

/-! ## Route entries (R819) -/

theorem writeRoute_self (s : State) (d : Nat) (r : Option Route) (sorted : ksorted s.core.routes = true) :
    kfind (writeRoute s d r).core.routes d = r := by
  cases r with
  | none => exact kfind_kdel_self _ _ sorted
  | some r => exact kfind_kset_self _ _ _

theorem writeRoute_sorted {s : State} (d : Nat) (r : Option Route) (sorted : ksorted s.core.routes = true) :
    ksorted (writeRoute s d r).core.routes = true := by
  cases r with
  | none => exact ksorted_kdel _ _ sorted
  | some r => exact ksorted_kset _ _ _ sorted

theorem writeRoutes_sorted (es : List (Nat × Option Route)) {s : State} (sorted : ksorted s.core.routes = true) :
    ksorted (writeRoutes s es).core.routes = true := by
  induction es generalizing s with
  | nil => exact sorted
  | cons e es ih => exact ih (writeRoute_sorted e.1 e.2 sorted)

/-- The last entry for a destination stands. -/
theorem writeRoutes_last (s : State) (es : List (Nat × Option Route)) (d : Nat) (e : Option Route) (sorted : ksorted s.core.routes = true) :
    kfind (writeRoutes s (es ++ [(d, e)])).core.routes d = e := by
  rw [writeRoutes, List.foldl_append]
  exact writeRoute_self _ d e (writeRoutes_sorted es sorted)

/-! ## NODE.SET_SELF, NODE.ASSIGN and NODE.CLEAR (R816 to R818) -/

/-- A switch with its node number, before it says so. -/
def selfSet (s : State) (d : Nat) : State :=
  writeRoute { s with fm := { s.fm with selfNode := d } } d (some { local_ := true, hops := [none, none, none, none], esc := none })

theorem selfSet_effect (s : State) (d : Nat) :
    selfNode (selfSet s d) = d ∧
      kfind (selfSet s d).core.routes d = some { local_ := true, hops := [none, none, none, none], esc := none } ∧
      (∀ e, e ≠ d → kfind (selfSet s d).core.routes e = kfind s.core.routes e) ∧ (selfSet s d).lports = s.lports ∧ (selfSet s d).mem = s.mem :=
  ⟨rfl, kfind_kset_self s.core.routes d _, fun e other => kfind_kset_other s.core.routes d e _ other, rfl, rfl⟩

theorem nodeSetSelf_first (h : SignedRuns s c selfSpec b) (node : arg (signedBodyCmd c b) 0 4 < 0x7FFF) (fresh : selfNode s = 0x7FFF) :
    exec (.nodeSetSelf c) s = .next (complete (helloAgain (selfSet (signedState s c selfSpec b) (arg (signedBodyCmd c b) 0 4)))
      (cmdRef (signedBodyCmd c b)) 0 0 []) := by
  have legal : ¬ 0x7FFF < arg (signedBodyCmd c b) 0 4 := by omega
  have first : ¬ (selfNode (signedState s c selfSpec b) ≠ noNode ∨ arg (signedBodyCmd c b) 0 4 = noNode) := by
    rintro (set | none_)
    · exact set fresh
    · rw [none_] at node
      exact absurd node (by decide)
  rw [exec_nodeSetSelf, execNodeSetSelf, live_runSigned _ h]
  exact congrArg _ ((if_neg legal).trans (if_neg first))

theorem nodeSetSelf_again (h : SignedRuns s c selfSpec b) (set : selfNode s ≠ 0x7FFF) (node : arg (signedBodyCmd c b) 0 4 ≤ 0x7FFF) :
    exec (.nodeSetSelf c) s = .next (complete (signedState s c selfSpec b) (cmdRef (signedBodyCmd c b)) 5 0 []) := by
  have legal : ¬ 0x7FFF < arg (signedBodyCmd c b) 0 4 := by omega
  rw [exec_nodeSetSelf, execNodeSetSelf, live_runSigned _ h]
  exact congrArg _ ((if_neg legal).trans (if_pos (Or.inl set)))

/-- A port with a node number, and the route to it. -/
def nodeAssigned (s : State) (n d : Nat) : State :=
  modLport (writeRoute s d (some { local_ := false, hops := [some n, none, none, none], esc := none })) n fun l => { l with node := some d }

theorem nodeAssigned_effect (s : State) (n d : Nat) :
    lportOf (nodeAssigned s n d) n = { lportOf s n with node := some d } ∧ OnlyPort s (nodeAssigned s n d) n ∧
      kfind (nodeAssigned s n d).core.routes d = some { local_ := false, hops := [some n, none, none, none], esc := none } ∧
      ∀ e, e ≠ d → kfind (nodeAssigned s n d).core.routes e = kfind s.core.routes e :=
  ⟨lportOf_modLport_self _ _ _, ⟨fun _ other => lportOf_modLport_other _ _ _ _ other, rfl, rfl, rfl, rfl, rfl, rfl, rfl, rfl⟩,
    kfind_kset_self _ _ _, fun _ other => kfind_kset_other _ _ _ _ other⟩

theorem nodeAssign_runs (h : SignedRuns s c assignSpec b) (port : arg (signedBodyCmd c b) 0 4 < 512)
    (node : arg (signedBodyCmd c b) 4 4 < 0x7FFF) (endpoint : facesSwitch s (arg (signedBodyCmd c b) 0 4) = false)
    (free : (lportOf s (arg (signedBodyCmd c b) 0 4)).node = none) (quiet : (lportOf s (arg (signedBodyCmd c b) 0 4)).disc = .none)
    (other : arg (signedBodyCmd c b) 4 4 ≠ selfNode s) (unused : lportOfNode s (arg (signedBodyCmd c b) 4 4) = none)
    (routeless : kfind s.core.routes (arg (signedBodyCmd c b) 4 4) = none) :
    exec (.nodeAssign c) s = .next (complete (nodeAssigned (signedState s c assignSpec b) (arg (signedBodyCmd c b) 0 4)
      (arg (signedBodyCmd c b) 4 4)) (cmdRef (signedBodyCmd c b)) 0 0 []) := by
  have run := live_runSigned assignCmd h
  generalize signedBodyCmd c b = bc at *
  have legal : ¬ (515 < arg bc 0 4 ∨ 0x7FFF < arg bc 4 4) := by omega
  have named : arg bc 4 4 ≠ noNode := Nat.ne_of_lt node
  have may : ¬ (facesSwitch (signedState s c assignSpec b) (arg bc 0 4) || (lportOf (signedState s c assignSpec b) (arg bc 0 4)).node.isSome ||
      decide (arg bc 4 4 = selfNode (signedState s c assignSpec b)) || (lportOfNode (signedState s c assignSpec b) (arg bc 4 4)).isSome ||
      decide (arg bc 4 4 = noNode) || (kfind (signedState s c assignSpec b).core.routes (arg bc 4 4)).isSome) = true := by
    change ¬ (facesSwitch s (arg bc 0 4) || (lportOf s (arg bc 0 4)).node.isSome || decide (arg bc 4 4 = selfNode s) ||
      (lportOfNode s (arg bc 4 4)).isSome || decide (arg bc 4 4 = noNode) || (kfind s.core.routes (arg bc 4 4)).isSome) = true
    simp [endpoint, free, other, unused, named, routeless]
  have silent : (lportOf (nodeAssigned (signedState s c assignSpec b) (arg bc 0 4) (arg bc 4 4)) (arg bc 0 4)).disc = .none := by
    rw [(nodeAssigned_effect _ _ _).1]
    exact quiet
  rw [exec_nodeAssign, execNodeAssign, run]
  refine congrArg _ ((if_neg legal).trans ((if_neg may).trans ?_))
  refine congrArg (fun u => complete u (cmdRef bc) 0 0 []) (if_neg ?_)
  change ¬ (decide (arg bc 0 4 < 512) &&
    decide ((lportOf (nodeAssigned (signedState s c assignSpec b) (arg bc 0 4) (arg bc 4 4)) (arg bc 0 4)).disc ≠ .none) && _) = true
  simp [silent]

/-- A port without its node number. -/
def numberless (l : LPort) : LPort := { l with node := none, wasDown := false }

/-- A port without its node number, and no route to it. -/
def nodeCleared (s : State) (n d : Nat) : State := writeRoute (modLport s n numberless) d none

/-- The port of NODE.CLEAR goes down where it is not DISABLED, and its endpoint is released (R818). -/
def nodeReleased (s : State) (n : Nat) : State := endpointReset (if (lportOf s n).link = .disabled then s else goDown s n) n false

theorem nodeClear_runs (h : SignedRuns s c clearSpec b) (port : arg (signedBodyCmd c b) 0 4 < 512)
    (has : (lportOf s (arg (signedBodyCmd c b) 0 4)).node = some d) :
    exec (.nodeClear c) s = .next (settle hooks (complete (nodeCleared (nodeReleased (signedState s c clearSpec b)
      (arg (signedBodyCmd c b) 0 4)) (arg (signedBodyCmd c b) 0 4) d) (cmdRef (signedBodyCmd c b)) 0 0 [])) := by
  have run := live_runSigned clearCmd h
  generalize signedBodyCmd c b = bc at *
  have legal : ¬ 515 < arg bc 0 4 := by omega
  have has' : (lportOf (signedState s c clearSpec b) (arg bc 0 4)).node = some d := has
  rw [exec_nodeClear, execNodeClear, run, clearCmd]
  dsimp only
  rw [if_neg legal, has']
  dsimp only
  unfold nodeReleased nodeCleared
  by_cases off : (lportOf (signedState s c clearSpec b) (arg bc 0 4)).link = .disabled
  · rw [if_pos off, if_neg (by simp [off])]
    rfl
  · rw [if_neg off, if_pos (by simp [off, port])]
    rfl

theorem nodeReleased_signed (n : Nat) :
    nodeReleased (signedState s c clearSpec b) n =
      endpointReset (if (lportOf s n).link = .disabled then signedState s c clearSpec b else goDown (signedState s c clearSpec b) n) n false := by
  have port : lportOf (signedState s c clearSpec b) n = lportOf s n := rfl
  rw [nodeReleased, port]

theorem nodeCleared_effect (v : State) (n d : Nat) :
    lportOf (nodeCleared v n d) n = { lportOf v n with node := none, wasDown := false } ∧
      (ksorted v.core.routes = true → kfind (nodeCleared v n d).core.routes d = none) ∧
      (∀ m, m ≠ n → lportOf (nodeCleared v n d) m = lportOf v m) ∧
      ∀ e, e ≠ d → kfind (nodeCleared v n d).core.routes e = kfind v.core.routes e :=
  ⟨lportOf_modLport_self v n numberless, fun sorted => kfind_kdel_self _ _ sorted, fun _ other => lportOf_modLport_other v n _ numberless other,
    fun _ other => kfind_kdel_other _ _ _ other⟩

/-! ## ROUTE.SET (R819, R820) -/

theorem acceptSeq_core (s : State) (b : List Byte) : (acceptSeq s b).core = s.core := rfl

/-- Route entries that wait for the escape channels to drain, since a time. -/
def routesWait (v : State) (es : List (Nat × Option Route)) (r : CmdRef) (since : Nat) : State :=
  { v with fm := { v.fm with escDrain := some (es, r, since) } }

theorem routesWait_core (v : State) (es : List (Nat × Option Route)) (r : CmdRef) (since : Nat) :
    (routesWait v es r since).core = v.core := rfl

theorem routesWait_lports (v : State) (es : List (Nat × Option Route)) (r : CmdRef) (since : Nat) :
    (routesWait v es r since).lports = v.lports := rfl

theorem routesWait_mem (v : State) (es : List (Nat × Option Route)) (r : CmdRef) (since : Nat) :
    (routesWait v es r since).mem = v.mem := rfl

/-- Until the channels have drained, a signed command's entries change no route, port or memory. -/
theorem routesWait_signed (sp : CmdSpec) (es : List (Nat × Option Route)) (r : CmdRef) (since : Nat) :
    (routesWait (signedState s c sp b) es r since).core = s.core ∧ (routesWait (signedState s c sp b) es r since).lports = s.lports ∧
      (routesWait (signedState s c sp b) es r since).mem = s.mem := by
  rw [routesWait_core, routesWait_lports, routesWait_mem, acceptSeq_core, acceptSeq_lports, acceptSeq_mem, startCmd_core,
    startCmd_lports, startCmd_mem]
  exact ⟨rfl, rfl, rfl⟩

section
variable {l : List Byte} {es : List (Nat × Option Route)} (h : SignedRuns s c routeSpec b) (list : c.list = some l)
  (some_ : 0 < leField l 0 8) (fits : leField l 0 8 ≤ 4096) (length : 8 + 16 * leField l 0 8 ≤ l.length)
  (digest : digestOk (signedBodyCmd c b) (l.take (8 + 16 * leField l 0 8)) = true)
  (records : routeRecords (l.drop 8) (leField l 0 8) = some es)
include h list some_ fits length digest records

/-- ROUTE.SET whose list is good: written at once, refused, or left to wait for the escape channels. -/
theorem routeSet_runs :
    exec (.routeSet c) s = .next
      (if !opt (signedBodyCmd c b) 0 then
        if es.any (escChanges s) then complete (signedState s c routeSpec b) (cmdRef (signedBodyCmd c b)) 6 0 []
        else complete (writeRoutes (signedState s c routeSpec b) es) (cmdRef (signedBodyCmd c b)) 0 0 []
      else if s.fm.escDrain.isSome then complete (signedState s c routeSpec b) (cmdRef (signedBodyCmd c b)) 2 0 []
      else routesWait (signedState s c routeSpec b) es (cmdRef (signedBodyCmd c b)) s.clk) := by
  have host : (signedBodyCmd c b).host = some l := list
  have run := live_runSigned routeCmd h
  generalize signedBodyCmd c b = bc at *
  have legal : ¬ (leField l 0 8 = 0 ∨ 4096 < leField l 0 8 ∨ l.length < 8 + 16 * leField l 0 8) := by omega
  rw [exec_routeSet, execRouteSet, run, routeCmd, host, Option.getD_some]
  dsimp only
  rw [if_neg legal, digest, records]
  rfl

theorem routeSet_writes (now : opt (signedBodyCmd c b) 0 = false) (keeps : es.any (escChanges s) = false) :
    exec (.routeSet c) s = .next (complete (writeRoutes (signedState s c routeSpec b) es) (cmdRef (signedBodyCmd c b)) 0 0 []) := by
  rw [routeSet_runs h list some_ fits length digest records, now, keeps]
  rfl

theorem routeSet_escape (now : opt (signedBodyCmd c b) 0 = false) (changes : es.any (escChanges s) = true) :
    exec (.routeSet c) s = .next (complete (signedState s c routeSpec b) (cmdRef (signedBodyCmd c b)) 6 0 []) := by
  rw [routeSet_runs h list some_ fits length digest records, now, changes]
  rfl

theorem routeSet_waits (waits : opt (signedBodyCmd c b) 0 = true) (idle : s.fm.escDrain = none) :
    exec (.routeSet c) s = .next (routesWait (signedState s c routeSpec b) es (cmdRef (signedBodyCmd c b)) s.clk) := by
  rw [routeSet_runs h list some_ fits length digest records, waits, idle]
  rfl

end

/-- An escape drain that has ended. -/
def drainEnded (s : State) : State := { s with fm := { s.fm with escDrain := none } }

section
variable {es : List (Nat × Option Route)} {r : CmdRef} {t : Time} (run : running s = true) (waits : s.fm.escDrain = some (es, r, t))
include run waits

theorem escDrainDone_drained (drained : escDrained s = true) :
    exec .escDrainDone s = .next (complete (writeRoutes (drainEnded s) es) r 0 0 []) := by
  rw [exec_escDrainDone, execEscDrainDone, live_running _ run, waits]
  dsimp only
  rw [drained]
  rfl

theorem escDrainTimeout_runs : exec .escDrainTimeout s = .next (complete (drainEnded (untilTime s (t + 10000000))) r 2 0 []) := by
  rw [exec_escDrainTimeout, execEscDrainTimeout, live_running _ run, waits]
  rfl

end

theorem drainEnded_at (s : State) (at_ : Time) :
    (drainEnded (untilTime s at_)).core = s.core ∧ (drainEnded (untilTime s at_)).fm = { s.fm with escDrain := none } ∧
      (drainEnded (untilTime s at_)).clk = max s.clk at_ ∧ (drainEnded (untilTime s at_)).mem = s.mem := by
  refine ⟨untilTime_core s at_, ?_, untilTime_clk s at_, untilTime_mem s at_⟩
  rw [drainEnded, untilTime_fm]

end Sys2Proof.Machine

namespace Sys2Proof.Machine

/-- Settles O37: each signed command by the node numbers and routes that it leaves. -/
theorem nodeAndRouteCommands : Obligations.NodeAndRouteCommands := by
  unfold Obligations.NodeAndRouteCommands
  intro c s b bc
  refine ⟨fun h node fresh => ⟨_, nodeSetSelf_first h node fresh, selfSet_effect (signedState s c selfSpec b) _⟩,
    fun h set node => nodeSetSelf_again h set node,
    fun h port node endpoint free quiet other unused routeless =>
      ⟨_, nodeAssign_runs h port node endpoint free quiet other unused routeless, nodeAssigned_effect (signedState s c assignSpec b) _ _⟩,
    fun d h port has => ?_,
    fun l es h list some_ fits length digest records => ⟨routeSet_writes h list some_ fits length digest records,
      routeSet_escape h list some_ fits length digest records, fun waits idle =>
        ⟨_, routeSet_waits h list some_ fits length digest records waits idle, rfl,
          routesWait_signed routeSpec es _ _⟩⟩,
    fun d e es sorted => writeRoutes_last s es d e sorted,
    fun es r t run waits => ⟨fun drained => ⟨_, escDrainDone_drained run waits drained, rfl, rfl, rfl⟩, ?_⟩⟩
  · have runs := nodeClear_runs h port has
    rw [nodeReleased_signed] at runs
    exact ⟨_, _, runs, rfl, nodeCleared_effect _ _ d⟩
  · obtain ⟨core, fm, clk, mem⟩ := drainEnded_at s (t + 10000000)
    exact ⟨_, escDrainTimeout_runs run waits, core, fm, clk, mem⟩

end Sys2Proof.Machine
end

section
/-! How regions and the chip change (R327, R882, R883, R889 to R894): one rule for each operation on them. -/
namespace Sys2Proof.Machine

variable {s t u : State} {r q : Nat}

/-! ## Regions -/

/-- Only regions and what they were of late differ. -/
def RegionsOnly (s t : State) : Prop := ∃ g x, t = { s with power := { s.power with regions := g, samples := x } }

theorem RegionsOnly.refl (s : State) : RegionsOnly s s := ⟨s.power.regions, s.power.samples, rfl⟩

theorem RegionsOnly.trans (h : RegionsOnly s t) (k : RegionsOnly t u) : RegionsOnly s u := by
  obtain ⟨g, x, rfl⟩ := h
  obtain ⟨g', x', rfl⟩ := k
  exact ⟨g', x', rfl⟩

theorem RegionsOnly.quiet (h : RegionsOnly s t) : Quiet s t := by
  obtain ⟨g, x, rfl⟩ := h
  constructor <;> rfl

theorem RegionsOnly.ras (h : RegionsOnly s t) : t.ras = s.ras := by
  obtain ⟨g, x, rfl⟩ := h
  rfl

theorem RegionsOnly.ctrs (h : RegionsOnly s t) : t.ctrs = s.ctrs := by
  obtain ⟨g, x, rfl⟩ := h
  rfl

theorem RegionsOnly.power (h : RegionsOnly s t) : ∃ g x, t.power = { s.power with regions := g, samples := x } := by
  obtain ⟨g, x, rfl⟩ := h
  exact ⟨g, x, rfl⟩

theorem RegionsOnly.chip (h : RegionsOnly s t) : t.power.chip = s.power.chip := by
  obtain ⟨g, x, rfl⟩ := h
  rfl

theorem modRegionPow_only (s : State) (r : Nat) (f : Region → Region) : RegionsOnly s (modRegionPow s r f) := by
  unfold modRegionPow
  dsimp only
  split
  · exact ⟨_, _, rfl⟩
  · exact ⟨_, _, rfl⟩

theorem modRegionPow_regions (s : State) (r : Nat) (f : Region → Region) :
    (modRegionPow s r f).power.regions = kset s.power.regions r (f (regionPow s r)) := by
  unfold modRegionPow
  dsimp only
  split <;> rfl

@[simp] theorem regionPow_modRegionPow_self (s : State) (r : Nat) (f : Region → Region) :
    regionPow (modRegionPow s r f) r = f (regionPow s r) := by
  rw [regionPow, modRegionPow_regions, kget_kset_self]

@[simp] theorem regionPow_modRegionPow_other (s : State) (f : Region → Region) (h : q ≠ r) :
    regionPow (modRegionPow s r f) q = regionPow s q := by
  rw [regionPow, modRegionPow_regions, kget_kset_other _ _ _ _ _ h, regionPow]

theorem capFreq_only (s : State) (r : Nat) : RegionsOnly s (capFreq s r) := modRegionPow_only s r _

@[simp] theorem regionPow_capFreq_other (s : State) (h : q ≠ r) : regionPow (capFreq s r) q = regionPow s q :=
  regionPow_modRegionPow_other s _ h

/-- What a region may run at. -/
def cappedMhz (s : State) (r : Nat) (x : Region) : Nat := max 900 (min (min x.mhz (fmax s r)) (min x.limN (min x.limT x.limC)))

theorem regionPow_capFreq_self (s : State) (r : Nat) :
    regionPow (capFreq s r) r =
      { regionPow s r with mhz := cappedMhz s r (regionPow s r), mv := supplyMv r (cappedMhz s r (regionPow s r)) } :=
  regionPow_modRegionPow_self s r _

theorem isLit_congr (region : regionPow t r = regionPow s r) (ras : t.ras = s.ras) : isLit t r = isLit s r := by
  simp only [isLit, isFenced, region, ras]

theorem regionPow_congr (h : t.power.regions = s.power.regions) (r : Nat) : regionPow t r = regionPow s r := by
  rw [regionPow, h, regionPow]

theorem ctr_congr {s t : State} (h : t.ctrs = s.ctrs) (c : Ctr) : ctr t c = ctr s c := by
  rw [ctr, h, ctr]

/-! ## The chip follows -/

/-- What following the regions leaves as it is. -/
theorem followRegions_kept (s : State) :
    Quiet s (followRegions s) ∧ (followRegions s).power.regions = s.power.regions ∧ (followRegions s).ras = s.ras ∧
      ∀ c, c ≠ .power 0 → ctr (followRegions s) c = ctr s c := by
  unfold followRegions
  dsimp only
  split
  · split
    · exact ⟨Quiet.refl s, rfl, rfl, fun _ _ => rfl⟩
    · exact ⟨by constructor <;> rfl, rfl, rfl, fun c other => ctr_bump_other _ _ _ other⟩
  · split
    · exact ⟨by constructor <;> rfl, rfl, rfl, fun _ _ => rfl⟩
    · exact ⟨Quiet.refl s, rfl, rfl, fun _ _ => rfl⟩
  · exact ⟨Quiet.refl s, rfl, rfl, fun _ _ => rfl⟩

@[simp] theorem regionPow_followRegions (s : State) (q : Nat) : regionPow (followRegions s) q = regionPow s q :=
  regionPow_congr (followRegions_kept s).2.1 q

/-- The last Lit region has gone: the chip is Trimmed. -/
theorem followRegions_dark (lit : s.power.chip = .lit) (dark : regions16.any (isLit s) = false) :
    followRegions s = bump (modPower s fun p => { p with chip := .trimmed, busyAt := s.clk }) (.power 0) := by
  rw [followRegions, lit]
  dsimp only
  rw [dark]
  rfl

/-- The chip stays Lit while a region is. -/
theorem followRegions_lit (lit : s.power.chip = .lit) (some_ : regions16.any (isLit s) = true) : followRegions s = s := by
  rw [followRegions, lit]
  dsimp only
  rw [some_]
  rfl

/-- What is left of a region that goes to Trimmed. -/
def trimmedAs (f : Region → Region) (x : Region) : Region := f { x with st := .trimmed, mv := 600, limN := 3600, nbrSince := none }

theorem trimRegion_eq (s : State) (r : Nat) (f : Region → Region) : trimRegion s r f = followRegions (modRegionPow s r (trimmedAs f)) := rfl

/-- A region's change at a time. -/
theorem modRegionPow_at (s : State) (at_ : Time) (r : Nat) (f : Region → Region) :
    (modRegionPow (untilTime s at_) r f).clk = max s.clk at_ ∧ regionPow (modRegionPow (untilTime s at_) r f) r = f (regionPow s r) ∧
      (∀ q, q ≠ r → regionPow (modRegionPow (untilTime s at_) r f) q = regionPow s q) ∧
      (modRegionPow (untilTime s at_) r f).power.chip = s.power.chip ∧ (modRegionPow (untilTime s at_) r f).lports = s.lports ∧
      (modRegionPow (untilTime s at_) r f).mem = s.mem ∧ (modRegionPow (untilTime s at_) r f).fab = s.fab := by
  have only := modRegionPow_only (untilTime s at_) r f
  have quiet := only.quiet
  refine ⟨quiet.clk.trans (untilTime_clk s at_), by simp, fun q other => by simp [other], ?_, ?_, ?_, ?_⟩
  · rw [only.chip, untilTime_power]
  · rw [quiet.lports, untilTime_lports]
  · rw [quiet.mem, untilTime_mem]
  · rw [quiet.fab, untilTime_fab]

end Sys2Proof.Machine
end

section
/-! The input, the reference clocks, the cap and the current guard (R867, R868, R871 to R873, R894 to R897; O25). -/
namespace Sys2Proof.Machine

variable {s t u : State} {r q : Nat}

/-! ## The reference clocks (R871 to R873) -/

/-- Every PLL runs from an input. -/
def refUsed (s : State) (b : Nat) : State := bump (modPower s fun p => { p with refSel := b }) (.power 10)

/-- REFCLK_A is lost. -/
def lostA (s : State) : State := modPower s fun p => { p with refA := false }

theorem refclkLost_a (run : running s = true) (good : s.power.refA = true) (ports : List Nat) :
    exec (.refclkLost 0 ports) s =
      .next (if s.power.refSel = 0 && s.power.refB then ports.foldl toRetrain (refUsed (lostA s) 1) else lostA s) := by
  have known : ¬ (!refGood s.power 0 || decide (2 ≤ 0)) = true := by simp [refGood, good]
  rw [exec_refclkLost, execRefclkLost, live_running _ run, if_neg known]
  rfl

/-- REFCLK_A is good again. -/
def goodA (s : State) : State := modPower s fun p => { p with refA := true, refSince := s.power.refSince.set 0 s.clk }

theorem refclkRestored_a (run : running s = true) (lost : s.power.refA = false) :
    exec (.refclkRestored 0) s =
      .next (if decide (s.power.refSel ≠ 0) && !refGood (goodA s).power s.power.refSel then refUsed (goodA s) 0 else goodA s) := by
  have known : ¬ (refGood s.power 0 || decide (2 ≤ 0)) = true := by simp [refGood, lost]
  rw [exec_refclkRestored, execRefclkRestored, live_running _ run, if_neg known]
  rfl

theorem refclkSwitchback_runs (run : running s = true) (other : s.power.refSel ≠ regField s rClk 0 1)
    (good : refGood s.power (regField s rClk 0 1) = true) (ports : List Nat) :
    exec (.refclkSwitchback ports) s = .next (ports.foldl toRetrain
      (refUsed (untilTime s (s.power.refSince.getD (regField s rClk 0 1) 0 + 100000000)) (regField s rClk 0 1))) := by
  have waits : ¬ (decide (s.power.refSel = regField s rClk 0 1) || !refGood s.power (regField s rClk 0 1)) = true := by simp [other, good]
  rw [exec_refclkSwitchback, execRefclkSwitchback, live_running _ run, if_neg waits]
  rfl

theorem refUsed_at (s : State) (at_ : Time) (b : Nat) :
    (refUsed (untilTime s at_) b).power.refSel = b ∧ (refUsed (untilTime s at_) b).clk = max s.clk at_ ∧
      (refUsed (untilTime s at_) b).lports = s.lports ∧ (refUsed (untilTime s at_) b).mem = s.mem ∧
      (refUsed (untilTime s at_) b).power.regions = s.power.regions := by
  refine ⟨rfl, untilTime_clk s at_, untilTime_lports s at_, untilTime_mem s at_, ?_⟩
  change (untilTime s at_).power.regions = s.power.regions
  rw [untilTime_power]

/-! ## The averages and the cap (R867, R894, R895) -/

/-- What a tick of the regions leaves as it is. -/
structure TickKept (s t : State) : Prop where
  chip : t.power.chip = s.power.chip
  vin : t.power.vin = s.power.vin
  pin : t.power.pin = s.power.pin
  lports : t.lports = s.lports
  mem : t.mem = s.mem
  fab : t.fab = s.fab

theorem TickKept.refl (s : State) : TickKept s s := ⟨rfl, rfl, rfl, rfl, rfl, rfl⟩

theorem TickKept.trans (h : TickKept s t) (k : TickKept t u) : TickKept s u :=
  ⟨k.chip.trans h.chip, k.vin.trans h.vin, k.pin.trans h.pin, k.lports.trans h.lports, k.mem.trans h.mem, k.fab.trans h.fab⟩

theorem RegionsOnly.tickKept (h : RegionsOnly s t) : TickKept s t := by
  obtain ⟨g, x, rfl⟩ := h
  exact ⟨rfl, rfl, rfl, rfl, rfl, rfl⟩

theorem thermTick_only (s : State) (r : Nat) : RegionsOnly s (thermTick s r) := by
  unfold thermTick
  exact modRegionPow_only s r _

theorem capTick_only (s : State) (r : Nat) : RegionsOnly s (capTick s r) := by
  unfold capTick
  exact modRegionPow_only s r _

/-- One tick of a Lit region. -/
def regionTick (s : State) (r : Nat) : State := freqTick (capTick (thermTick s r) r) r

theorem freqTick_kept (s : State) (r : Nat) : TickKept s (freqTick s r) := by
  have free : TickKept s (bumpFree s) := ⟨rfl, rfl, rfl, rfl, rfl, rfl⟩
  exact free.trans ((modRegionPow_only (bumpFree s) r _).tickKept.trans (capFreq_only _ r).tickKept)

theorem regionTick_kept (s : State) (r : Nat) : TickKept s (regionTick s r) :=
  ((thermTick_only s r).trans (capTick_only _ r)).tickKept.trans (freqTick_kept _ r)

theorem regionTick_other (s : State) (h : q ≠ r) : regionPow (regionTick s r) q = regionPow s q := by
  rw [regionTick, freqTick, regionPow_capFreq_other _ h, regionPow_modRegionPow_other _ _ h, regionPow_bumpFree, capTick,
    regionPow_modRegionPow_other _ _ h, thermTick, regionPow_modRegionPow_other _ _ h]

theorem foldl_regionTick_kept (rs : List Nat) (s : State) : TickKept s (rs.foldl regionTick s) := by
  induction rs generalizing s with
  | nil => exact TickKept.refl s
  | cons r rs ih =>
    rw [List.foldl_cons]
    exact (regionTick_kept s r).trans (ih (regionTick s r))

theorem foldl_regionTick_other (rs : List Nat) (s : State) (h : q ∉ rs) : regionPow (rs.foldl regionTick s) q = regionPow s q := by
  induction rs generalizing s with
  | nil => rfl
  | cons r rs ih =>
    obtain ⟨own, rest⟩ := not_or.mp (mt List.mem_cons.mpr h)
    rw [List.foldl_cons, ih (regionTick s r) rest, regionTick_other s own]

/-- The averages of the input are kept. -/
def averaged (s : State) (vin pin : Nat) : State := modPower s fun p => { p with vin := vin, pin := pin }

/-- What a tick notes of the cap, and counts. -/
def capNoted (s : State) (capped : Bool) (since : Option Time) : State :=
  let t := modPower s fun p => { p with capped := capped, overSince := since }
  if capped then bumpBy t (.power 6) 48 100000 else t

theorem capNoted_kept (s : State) (capped : Bool) (since : Option Time) :
    TickKept s (capNoted s capped since) ∧ ∀ q, regionPow (capNoted s capped since) q = regionPow s q := by
  cases capped <;> exact ⟨⟨rfl, rfl, rfl, rfl, rfl, rfl⟩, fun _ => rfl⟩

theorem powerTick_runs (run : running s = true) (vin pin : Nat) :
    ∃ capped since, exec (.powerTick vin pin) s =
      .next (capNoted ((regions16.filter (isLit s)).foldl regionTick (averaged s vin pin)) capped since) := by
  rw [exec_powerTick, execPowerTick, live_running _ run]
  exact ⟨_, _, rfl⟩

theorem powerTick_effect (run : running s = true) (vin pin : Nat) :
    ∃ u, exec (.powerTick vin pin) s = .next u ∧ u.power.vin = vin ∧ u.power.pin = pin ∧ u.power.chip = s.power.chip ∧
      u.lports = s.lports ∧ u.mem = s.mem ∧ u.fab = s.fab ∧ (∀ q, isLit s q = false → regionPow u q = regionPow s q) := by
  obtain ⟨capped, since, runs⟩ := powerTick_runs run vin pin
  obtain ⟨noted, regions⟩ := capNoted_kept ((regions16.filter (isLit s)).foldl regionTick (averaged s vin pin)) capped since
  have kept := (foldl_regionTick_kept (regions16.filter (isLit s)) (averaged s vin pin)).trans noted
  refine ⟨_, runs, kept.vin, kept.pin, kept.chip, kept.lports, kept.mem, kept.fab, fun q dark => ?_⟩
  exact (regions q).trans (foldl_regionTick_other _ _ fun lit => absurd (List.of_mem_filter lit) (by simp [dark]))

theorem capTick_over (above : regField s rPwr 24 12 < s.power.pin) :
    regionPow (capTick s r) r = { regionPow s r with limC := max 900 ((regionPow s r).mhz - 100) } := by
  rw [capTick, regionPow_modRegionPow_self, if_pos above]

/-! ## Cap holds (R896) -/

/-- The region's mark of a cap hold. -/
def capHeld (x : Region) : Region := { x with cap := true, idle := false }

/-- A region takes a cap hold. -/
def capHoldTaken (s : State) (r : Nat) : State :=
  let v := bump (trimRegion s r capHeld) (.power 7)
  modPower v fun p => { p with capHolds := p.capHolds ++ [r], overSince := some v.clk, capped := true }

theorem capTrim_takes (run : running s = true) {t : Time} (above : s.power.overSince = some t)
    (least : leastBusy s (regions16.filter (isLit s)) = some r) :
    exec .capTrim s = .next (capHoldTaken (untilTime s (t + 10000000)) r) := by
  rw [exec_capTrim, execCapTrim, live_running _ run, above]
  dsimp only
  rw [least]
  rfl

theorem followRegions_capHolds (s : State) : (followRegions s).power.capHolds = s.power.capHolds := by
  unfold followRegions
  dsimp only
  split
  · split <;> rfl
  · split <;> rfl
  · rfl

theorem capHoldTaken_at (s : State) (at_ : Time) (r : Nat) :
    (capHoldTaken (untilTime s at_) r).clk = max s.clk at_ ∧ (regionPow (capHoldTaken (untilTime s at_) r) r).st = .trimmed ∧
      (regionPow (capHoldTaken (untilTime s at_) r) r).cap = true ∧
      (capHoldTaken (untilTime s at_) r).power.capHolds = s.power.capHolds ++ [r] ∧
      ctr (capHoldTaken (untilTime s at_) r) (.power 7) = satAdd 48 (ctr s (.power 7)) 1 ∧
      (∀ q, q ≠ r → regionPow (capHoldTaken (untilTime s at_) r) q = regionPow s q) ∧
      (capHoldTaken (untilTime s at_) r).mem = s.mem ∧ (capHoldTaken (untilTime s at_) r).lports = s.lports := by
  obtain ⟨clk, own, others, -, lports, mem, -⟩ := modRegionPow_at s at_ r (trimmedAs capHeld)
  have only := modRegionPow_only (untilTime s at_) r (trimmedAs capHeld)
  generalize hm : modRegionPow (untilTime s at_) r (trimmedAs capHeld) = m at clk own others lports mem only
  obtain ⟨quiet, -, -, ctrs⟩ := followRegions_kept m
  have trim : trimRegion (untilTime s at_) r capHeld = followRegions m := by rw [trimRegion_eq, hm]
  have region : ∀ q, regionPow (capHoldTaken (untilTime s at_) r) q = regionPow m q := fun q => by
    rw [capHoldTaken, trim]
    exact regionPow_followRegions m q
  have holds : (capHoldTaken (untilTime s at_) r).power.capHolds = (followRegions m).power.capHolds ++ [r] := by
    rw [capHoldTaken, trim]
    rfl
  have count : ctr (capHoldTaken (untilTime s at_) r) (.power 7) = satAdd 48 (ctr (followRegions m) (.power 7)) 1 := by
    rw [capHoldTaken, trim]
    exact ctr_bump_self (followRegions m) (.power 7)
  have before : ctr m (.power 7) = ctr s (.power 7) := ctr_congr (only.ctrs.trans (untilTime_ctrs s at_)) _
  obtain ⟨g, x, power⟩ := only.power
  refine ⟨?_, ?_, ?_, ?_, ?_, fun q other => (region q).trans (others q other), ?_, ?_⟩
  · rw [capHoldTaken, trim]
    exact quiet.clk.trans clk
  · rw [region, own]
    rfl
  · rw [region, own]
    rfl
  · rw [holds, followRegions_capHolds, power, untilTime_power]
  · rw [count, ctrs _ (by decide), before]
  · rw [capHoldTaken, trim]
    exact quiet.mem.trans mem
  · rw [capHoldTaken, trim]
    exact quiet.lports.trans lports

/-- The region's mark of a cap hold goes. -/
def capFreed (x : Region) : Region := { x with cap := false, idle := x.st = .trimmed && !{ x with cap := false : Region }.held }

/-- The last cap hold ends. -/
def capHoldEnded (s : State) (r : Nat) : State :=
  modRegionPow (modPower s fun p => { p with capHolds := p.capHolds.dropLast, releaseAt := s.clk, capped := decide (1 < p.capHolds.length) })
    r capFreed

theorem capTrim_ends (run : running s = true) (under : s.power.overSince = none) (last : s.power.capHolds.getLast? = some r)
    (low : s.power.pin * 100 < 95 * regField s rPwr 24 12) :
    exec .capTrim s = .next (capHoldEnded (untilTime s (s.power.releaseAt + 10000000)) r) := by
  rw [exec_capTrim, execCapTrim, live_running _ run, under]
  dsimp only
  rw [last]
  dsimp only
  rw [if_pos low]
  rfl

theorem capHoldEnded_effect (s : State) (r : Nat) :
    (capHoldEnded s r).clk = s.clk ∧ (regionPow (capHoldEnded s r) r).cap = false ∧
      (capHoldEnded s r).power.capHolds = s.power.capHolds.dropLast ∧
      (∀ q, q ≠ r → regionPow (capHoldEnded s r) q = regionPow s q) ∧ (capHoldEnded s r).mem = s.mem := by
  have only := modRegionPow_only (modPower s fun p =>
    { p with capHolds := p.capHolds.dropLast, releaseAt := s.clk, capped := decide (1 < p.capHolds.length) }) r capFreed
  obtain ⟨g, x, power⟩ := only.power
  refine ⟨only.quiet.clk, ?_, congrArg Power.capHolds power, fun q other => regionPow_modRegionPow_other _ _ other, only.quiet.mem⟩
  rw [capHoldEnded, regionPow_modRegionPow_self]
  rfl

theorem capHoldEnded_at (s : State) (at_ : Time) (r : Nat) :
    (capHoldEnded (untilTime s at_) r).clk = max s.clk at_ ∧ (regionPow (capHoldEnded (untilTime s at_) r) r).cap = false ∧
      (capHoldEnded (untilTime s at_) r).power.capHolds = s.power.capHolds.dropLast ∧
      (∀ q, q ≠ r → regionPow (capHoldEnded (untilTime s at_) r) q = regionPow s q) ∧
      (capHoldEnded (untilTime s at_) r).mem = s.mem := by
  obtain ⟨clk, own, holds, others, mem⟩ := capHoldEnded_effect (untilTime s at_) r
  refine ⟨clk.trans (untilTime_clk s at_), own, ?_, fun q other => (others q other).trans (regionPow_untilTime s at_ q), ?_⟩
  · rw [holds, untilTime_power]
  · rw [mem, untilTime_mem]

/-! ## The current guard (R897) -/

/-- The guard acts, counted where it did not before. -/
def guarded (s : State) : State :=
  let t := modPower s fun p => { p with guardAt := s.clk }
  if s.power.guard then t else bump (modPower t fun p => { p with guard := true }) (.power 8)

theorem currentGuard_runs (run : running s = true) : exec .currentGuard s = .next (guarded s) := by
  rw [exec_currentGuard, execCurrentGuard, live_running _ run]
  rfl

theorem guarded_effect (s : State) :
    (guarded s).power = { s.power with guard := true, guardAt := s.clk } ∧ Quiet s (guarded s) ∧
      (s.power.guard = false → ctr (guarded s) (.power 8) = satAdd 48 (ctr s (.power 8)) 1) := by
  unfold guarded
  dsimp only
  by_cases on : s.power.guard = true
  · rw [if_pos on]
    refine ⟨?_, by constructor <;> rfl, fun off => absurd (off.symm.trans on) nofun⟩
    rw [← on]
    rfl
  · rw [if_neg on]
    exact ⟨rfl, by constructor <;> rfl, fun _ => ctr_bump_self _ _⟩

/-- The guard is released. -/
def unguarded (s : State) : State := modPower s fun p => { p with guard := false }

theorem guardRelease_runs (run : running s = true) (on : s.power.guard = true) :
    exec .guardRelease s = .next (unguarded (untilTime s (s.power.guardAt + 100000))) := by
  rw [exec_guardRelease, execGuardRelease, live_running _ run, on]
  rfl

theorem unguarded_at (s : State) (at_ : Time) :
    (unguarded (untilTime s at_)).clk = max s.clk at_ ∧ (unguarded (untilTime s at_)).power = { s.power with guard := false } ∧
      (unguarded (untilTime s at_)).lports = s.lports ∧ (unguarded (untilTime s at_)).mem = s.mem := by
  refine ⟨untilTime_clk s at_, ?_, untilTime_lports s at_, untilTime_mem s at_⟩
  rw [unguarded, modPower_power, untilTime_power]

theorem inputLow_first (run : running s = true) (normal : s.power.inputLow = false) :
    exec .inputLow s = .next (report { s with power := { s.power with inputLow := true } } 0x0F (selfNode s) 0x1FF 1) := by
  rw [exec_inputLow, execInputLow, live_running _ run, normal]
  rfl

end Sys2Proof.Machine

namespace Sys2Proof.Machine

/-- The events of the input and the reference clocks. -/
theorem powerInputs {s : State} (run : running s = true) :
    (s.power.refA = true → s.power.refB = true → s.power.refSel = 0 → ∀ ports : List Nat,
      ∃ u, exec (.refclkLost 0 ports) s = .next (ports.foldl toRetrain u) ∧ Quiet s u ∧ u.power.refSel = 1 ∧ u.power.refA = false ∧
        u.power.refB = true ∧ u.power.chip = s.power.chip ∧ u.power.regions = s.power.regions ∧
        ctr u (.power 10) = satAdd 48 (ctr s (.power 10)) 1) ∧
    (s.power.refA = true → s.power.refSel = 1 → ∀ ports : List Nat,
      exec (.refclkLost 0 ports) s = .next { s with power := { s.power with refA := false } }) ∧
    (s.power.refA = false → s.power.refSel = 0 ∨ s.power.refB = true → exec (.refclkRestored 0) s = .next
      { s with power := { s.power with refA := true, refSince := s.power.refSince.set 0 s.clk } }) ∧
    (s.power.refA = false → s.power.refB = false → s.power.refSel = 1 → ∃ u, exec (.refclkRestored 0) s = .next u ∧ Quiet s u ∧
      u.power = { s.power with refA := true, refSel := 0, refSince := s.power.refSince.set 0 s.clk } ∧
      ctr u (.power 10) = satAdd 48 (ctr s (.power 10)) 1) := by
  refine ⟨fun a b sel ports => ?_, fun a sel ports => ?_, fun a fine => ?_, fun a b sel => ?_⟩
  · have runs := refclkLost_a run a ports
    rw [sel, b] at runs
    exact ⟨_, runs, by constructor <;> rfl, rfl, rfl, b, rfl, rfl, ctr_bump_self _ _⟩
  · have runs := refclkLost_a run a ports
    rw [sel] at runs
    exact runs
  · have stays : ¬ (decide (s.power.refSel ≠ 0) && !refGood (goodA s).power s.power.refSel) = true := by
      rcases fine with first | second
      · simp [first]
      · have good : refGood (goodA s).power s.power.refSel = true := by
          rw [refGood]
          split
          · rfl
          · exact second
        simp [good]
    exact (refclkRestored_a run a).trans (congrArg _ (if_neg stays))
  · have bad : (decide (s.power.refSel ≠ 0) && !refGood (goodA s).power s.power.refSel) = true := by
      have lost : refGood (goodA s).power 1 = false := b
      rw [sel, lost]
      rfl
    exact ⟨_, (refclkRestored_a run a).trans (congrArg _ (if_pos bad)), by constructor <;> rfl, rfl, ctr_bump_self _ _⟩

/-- Settles O25: each event by what it leaves of the power state. -/
theorem powerInputsAndLimits : Obligations.PowerInputsAndLimits := by
  unfold Obligations.PowerInputsAndLimits
  refine ⟨fun s run => ?_, fun r vin pin s run => ⟨powerTick_effect run vin pin, capTick_over, fun b t above least => ?_,
    fun under last low => ?_, ⟨_, currentGuard_runs run, guarded_effect s⟩, fun on => ?_⟩⟩
  · obtain ⟨lost, unused, restored, taken⟩ := powerInputs run
    refine ⟨fun normal => ⟨_, inputLow_first run normal, rfl⟩, (exec_inputRecover s).trans (live_running _ run), lost, unused, restored,
      taken, fun ports other good => ?_,
      (exec_refclkBothLost s).trans (live_running _ run)⟩
    exact ⟨_, refclkSwitchback_runs run other good ports, refUsed_at s _ _⟩
  · exact ⟨_, capTrim_takes run above least, capHoldTaken_at s _ b⟩
  · exact ⟨_, capTrim_ends run under last low, capHoldEnded_at s _ r⟩
  · exact ⟨_, guardRelease_runs run on, unguarded_at s _⟩

end Sys2Proof.Machine
end

section
/-! Automatic stepping of regions and the chip (R882, R883, R885; O26). -/
namespace Sys2Proof.Machine

variable {s t u : State} {r q : Nat}

/-! ## A region without work (R882) -/

/-- A region is idle. -/
def idled (x : Region) : Region := { x with idle := true }

theorem regionIdleTrim_runs (run : running s = true) (there : r < 16) (lit : isLit s r = true) (on : regField s rPwr 0 2 ≠ 0)
    (free : regionWork s r = false) :
    exec (.regionIdleTrim r) s = .next (followRegions (modRegionPow
      (untilTime s ((regionPow s r).idleSince + regField s rPwr 2 10 * 1000)) r (trimmedAs idled))) := by
  have trims : ¬ (16 ≤ r ∨ (!isLit s r) = true ∨ regField s rPwr 0 2 = 0 ∨ regionWork s r = true) := by
    rintro (far | dark | off | works)
    · omega
    · simp [lit] at dark
    · exact on off
    · simp [free] at works
  rw [exec_regionIdleTrim, execRegionIdleTrim, live_running _ run, if_neg trims]
  rfl

theorem chipHoodEntry_runs (run : running s = true) (trimmed : s.power.chip = .trimmed) (two : regField s rPwr 0 2 = 2)
    (calm : quiet s none = true) (idle : s.power.hooding = none) (up : s.ras.halt = 0) :
    exec .chipHoodEntry s = .next (hoodCheck (askHood (untilTime s (s.power.busyAt + regField s rPwr 12 12 * 1000)))) := by
  have enters : ¬ (decide (s.power.chip ≠ .trimmed) || decide (regField s rPwr 0 2 ≠ 2) || !quiet s none || s.power.hooding.isSome ||
      decide (s.ras.halt ≠ 0)) = true := by
    simp [trimmed, two, calm, idle, up]
  rw [exec_chipHoodEntry, execChipHoodEntry, live_running _ run, if_neg enters]

/-! ## An entry that is abandoned (R885) -/

theorem lpAckTimeout_runs (run : running s = true) {h : Hooding} (asks : s.power.hooding = some h) (waits : h.await ≠ []) :
    exec .lpAckTimeout s = .next (hoodRefused (untilTime s (h.since + 10000))) := by
  rw [exec_lpAckTimeout, execLpAckTimeout, live_running _ run, asks]
  dsimp only
  rw [if_neg (by simpa using waits)]
  rfl

/-- Only logical ports, and what leaves on them, differ. -/
def PortsOnly (s t : State) : Prop := ∃ l o, t = { s with lports := l, outs := o }

theorem PortsOnly.refl (s : State) : PortsOnly s s := ⟨s.lports, s.outs, rfl⟩

theorem PortsOnly.trans (h : PortsOnly s t) (k : PortsOnly t u) : PortsOnly s u := by
  obtain ⟨l, o, rfl⟩ := h
  obtain ⟨l', o', rfl⟩ := k
  exact ⟨l', o', rfl⟩

theorem foldl_portsOnly (f : State → Nat → State) (each : ∀ s n, PortsOnly s (f s n)) (ns : List Nat) (s : State) :
    PortsOnly s (ns.foldl f s) := by
  induction ns generalizing s with
  | nil => exact PortsOnly.refl s
  | cons n ns ih =>
    rw [List.foldl_cons]
    exact (each s n).trans (ih (f s n))

theorem modLport_portsOnly (s : State) (n : Nat) (f : LPort → LPort) : PortsOnly s (modLport s n f) := ⟨_, s.outs, rfl⟩

/-- A port in LOW_POWER returns to ACTIVE. -/
def portReturns (s : State) (n : Nat) : State :=
  if (lportOf s n).link = .lowPower then pump (modLink (setLink s n .active) n fun ll => { ll with lp := .idle }) n else s

theorem portReturns_only (s : State) (n : Nat) : PortsOnly s (portReturns s n) := by
  unfold portReturns
  split
  · exact ((modLport_portsOnly s n _).trans (modLport_portsOnly _ n _)).trans (pump_txFrame _ n).rest
  · exact PortsOnly.refl s

/-- The ports of an abandoned entry. -/
def portsReturned (s : State) (h : Hooding) : State :=
  h.await.foldl (fun s n => modLink s n fun ll => { ll with lp := .idle }) (h.agreed.foldl portReturns s)

theorem portsReturned_only (s : State) (h : Hooding) : PortsOnly s (portsReturned s h) :=
  (foldl_portsOnly _ portReturns_only _ s).trans (foldl_portsOnly _ (fun s n => modLport_portsOnly s n _) _ _)

theorem unhood_asked {h : Hooding} (asks : s.power.hooding = some h) :
    unhood s = markBusy (modPower (portsReturned s h) fun p => { p with hooding := none }) := by
  rw [unhood, asks]
  rfl

/-- An entry that is abandoned leaves the chip where it stands. -/
theorem unhood_effect {h : Hooding} (asks : s.power.hooding = some h) :
    ∃ l o b, unhood s = { s with lports := l, outs := o, power := { s.power with hooding := none, busyAt := b } } := by
  obtain ⟨l, o, ports⟩ := portsReturned_only s h
  rw [unhood_asked asks, ports]
  exact ⟨l, o, _, rfl⟩

theorem hoodRefused_effect {h : Hooding} (asks : s.power.hooding = some h) :
    (hoodRefused s).power.hooding = none ∧ (hoodRefused s).power.chip = s.power.chip ∧
      ctr (hoodRefused s) (.power 5) = satAdd 48 (ctr s (.power 5)) 1 ∧ (hoodRefused s).mem = s.mem := by
  obtain ⟨l, o, b, left⟩ := unhood_effect asks
  rw [hoodRefused, left]
  exact ⟨rfl, rfl, ctr_bump_self _ _, rfl⟩

/-! ## A wake event (R883) -/

theorem timeAgain_kept (s : State) :
    (timeAgain s).power = s.power ∧ (timeAgain s).lports = s.lports ∧ (timeAgain s).mem = s.mem ∧ (timeAgain s).ras = s.ras := by
  unfold timeAgain rootLock
  split
  · exact ⟨rfl, rfl, rfl, rfl⟩
  · split <;> exact ⟨rfl, rfl, rfl, rfl⟩

theorem wakeChip_hooded (hooded : s.power.chip = .hooded) (idle : s.power.hooding = none) :
    (wakeChip s).power.chip = .trimmed ∧ (wakeChip s).lports = s.lports ∧ (wakeChip s).mem = s.mem := by
  rw [wakeChip, if_neg (by simp [idle]), if_pos hooded]
  obtain ⟨power, lports, mem, -⟩ := timeAgain_kept (markBusy (modPower s fun p => { p with chip := .trimmed }))
  rw [power, lports, mem]
  exact ⟨rfl, rfl, rfl⟩

theorem wakeChip_lit (lit : s.power.chip = .lit) (idle : s.power.hooding = none) : wakeChip s = markBusy s := by
  rw [wakeChip, if_neg (by simp [idle]), if_neg (by rw [lit]; decide)]

/-- A wake event of the chip leaves every region as it is. -/
theorem wakeChip_region (s : State) (q : Nat) : regionPow (wakeChip s) q = regionPow s q := by
  unfold wakeChip
  split
  · rename_i asks
    obtain ⟨h, some_⟩ := Option.isSome_iff_exists.mp asks
    obtain ⟨l, o, b, left⟩ := unhood_effect (s := bump s (.power 4)) some_
    rw [left]
    rfl
  · split
    · exact regionPow_congr (congrArg Power.regions (timeAgain_kept _).1) q
    · rfl

/-- A region that a wake event lights. -/
def litAt (t : Time) (x : Region) : Region := { x with st := .lit, idle := false, idleSince := t, nbrSince := none }

theorem wakeRegion_lights (lit : s.power.chip = .lit) (idle : s.power.hooding = none) (there : r < 16)
    (trimmed : (regionPow s r).st = .trimmed) (free : (regionPow s r).held = false) (whole : isFenced s r = false) :
    wakeRegion s r = capFreq (modRegionPow (markBusy s) r (litAt s.clk)) r := by
  have wakes : (decide ((markBusy s).power.chip = .lit) || decide ((markBusy s).power.chip = .trimmed)) &&
      decide (r < 16) && decide ((regionPow (markBusy s) r).st = .trimmed) && !(regionPow (markBusy s) r).held && !isFenced (markBusy s) r := by
    have chip : (markBusy s).power.chip = .lit := lit
    have region : regionPow (markBusy s) r = regionPow s r := rfl
    have fence_ : isFenced (markBusy s) r = isFenced s r := rfl
    simp [chip, region, fence_, there, trimmed, free, whole]
  have only := modRegionPow_only (markBusy s) r (litAt s.clk)
  have lights : isLit (modRegionPow (markBusy s) r (litAt s.clk)) r = true := by
    have fence_ : isFenced (modRegionPow (markBusy s) r (litAt s.clk)) r = false := by
      rw [isFenced, only.ras]
      exact whole
    simp [isLit, fence_, litAt]
  have some_ : regions16.any (isLit (modRegionPow (markBusy s) r (litAt s.clk))) = true :=
    List.any_eq_true.mpr ⟨r, by simp only [List.mem_cons, List.not_mem_nil, or_false]; omega, lights⟩
  have stays : followRegions (modRegionPow (markBusy s) r (litAt s.clk)) = modRegionPow (markBusy s) r (litAt s.clk) :=
    followRegions_lit (only.chip.trans lit) some_
  rw [wakeRegion, wakeChip_lit lit idle]
  refine (if_pos wakes).trans ?_
  exact congrArg (capFreq · r) stays

theorem wakeRegion_lit_effect (lit : s.power.chip = .lit) (idle : s.power.hooding = none) (there : r < 16)
    (trimmed : (regionPow s r).st = .trimmed) (free : (regionPow s r).held = false) (whole : isFenced s r = false) :
    (regionPow (wakeRegion s r) r).st = .lit ∧ (regionPow (wakeRegion s r) r).idleSince = s.clk ∧ (wakeRegion s r).power.chip = .lit ∧
      Quiet s (wakeRegion s r) ∧ (∀ q, q ≠ r → regionPow (wakeRegion s r) q = regionPow s q) := by
  have only := (modRegionPow_only (markBusy s) r (litAt s.clk)).trans (capFreq_only _ r)
  rw [wakeRegion_lights lit idle there trimmed free whole]
  refine ⟨?_, ?_, only.chip.trans lit, (markBusy_quiet s).trans only.quiet, fun q other => ?_⟩
  · rw [regionPow_capFreq_self, regionPow_modRegionPow_self]
    rfl
  · rw [regionPow_capFreq_self, regionPow_modRegionPow_self]
    rfl
  · rw [regionPow_capFreq_other _ other, regionPow_modRegionPow_other _ _ other]
    rfl

/-- A region with a hold does not wake (R891). -/
theorem wakeRegion_held (held : (regionPow s r).held = true) : regionPow (wakeRegion s r) r = regionPow s r := by
  have region := wakeChip_region s r
  have stays : ¬ ((decide ((wakeChip s).power.chip = .lit) || decide ((wakeChip s).power.chip = .trimmed)) && decide (r < 16) &&
      decide ((regionPow (wakeChip s) r).st = .trimmed) && !(regionPow (wakeChip s) r).held && !isFenced (wakeChip s) r) = true := by
    rw [region, held]
    simp
  rw [wakeRegion]
  exact (congrArg (regionPow · r) (if_neg stays)).trans region

end Sys2Proof.Machine

namespace Sys2Proof.Machine

/-- Settles O26: automatic stepping by the rules of regions and of the chip that follows them. -/
theorem powerStepping : Obligations.PowerStepping := by
  unfold Obligations.PowerStepping
  intro r s run
  refine ⟨fun there lit on free => ?_, fun u lit dark => ?_, fun trimmed two calm idle up => ?_, fun h asks waits => ?_,
    fun h asks => hoodRefused_effect asks, fun rs => (exec_wake rs s).trans (live_running _ run), wakeChip_hooded,
    wakeRegion_lit_effect, fun held => by rw [wakeRegion_held held]⟩
  · exact ⟨_, regionIdleTrim_runs run there lit on free, modRegionPow_at s _ r (trimmedAs idled)⟩
  · rw [followRegions_dark lit dark]
    exact ⟨rfl, rfl, ctr_bump_self _ _, by constructor <;> rfl⟩
  · exact ⟨_, chipHoodEntry_runs run trimmed two calm idle up, untilTime_clk s _, untilTime_lports s _, untilTime_power s _, untilTime_mem s _⟩
  · exact ⟨_, lpAckTimeout_runs run asks waits, untilTime_clk s _, untilTime_lports s _, untilTime_power s _, untilTime_mem s _⟩

end Sys2Proof.Machine
end

section
/-! The POWER commands (R886 to R888, R890, R892, R904, R907; O27). -/
namespace Sys2Proof.Machine

variable {s : State} {c : Cmd}

abbrev setStateSpec : CmdSpec := { pf0 := true, group := 0x1A, verb := 1, args := [(0, 4), (4, 4)] }
abbrev setRegionSpec : CmdSpec := { pf0 := true, group := 0x1A, verb := 2, args := [(0, 4), (4, 4)] }
abbrev powerStatsSpec : CmdSpec := { pf0 := true, group := 0x1A, verb := 3 }

/-! ## POWER.SET_STATE (R886 to R888) -/

/-- A commanded state that waits. -/
def stateAsked (s : State) (c : Cmd) (t : Chip) : State :=
  let u := startCmd s c setStateSpec
  { u with power := { u.power with asked := some ⟨t, s.clk + arg c 4 4 * 1000, cmdRef c⟩ } }

/-- What POWER.SET_STATE does of a state that exists. -/
def setStateOf (s : State) (c : Cmd) (t : Chip) : State :=
  let u := startCmd s c setStateSpec
  let deep := (t = .banked && !bankedPorts s) || (t = .pilot && !(bankedPorts s && pilotParts s))
  let hot := s.power.temps.any fun e => decide ((8 * regField s rTherm 0 7 : Nat) ≤ e.2)
  if s.power.asked.isSome then complete u (cmdRef c) 2 0 []
  else if deep || (t = .lit && s.power.tripped && hot) then complete u (cmdRef c) 5 0 []
  else
    let v := trySetState (stateAsked s c t)
    if decide (arg c 4 4 = 0) && decide (t ≠ .lit) && v.power.asked.isSome && v.power.hooding.isNone then
      complete (modPower v fun p => { p with asked := none }) (cmdRef c) 2 0 []
    else v

theorem powerSetState_runs (h : CmdRuns s c setStateSpec none true) (drain : arg c 4 4 ≤ 1000000) {t : Chip}
    (named : chipOf (arg c 0 4) = some t) : exec (.powerSetState c) s = .next (setStateOf s c t) := by
  have legal : ¬ 1000000 < arg c 4 4 := Nat.not_lt.mpr drain
  rw [exec_powerSetState, execPowerSetState, live_runCmd _ h]
  dsimp only
  rw [named]
  exact congrArg _ (if_neg legal)

theorem setStateOf_waiting (t : Chip) (waits : s.power.asked.isSome = true) :
    setStateOf s c t = complete (startCmd s c setStateSpec) (cmdRef c) 2 0 [] := by
  rw [setStateOf]
  exact if_pos waits

theorem setStateOf_tries {t : Chip} (idle : s.power.asked = none)
    (allowed : t = .lit ∧ s.power.tripped = false ∨ (t = .trimmed ∨ t = .hooded) ∧ 0 < arg c 4 4) :
    setStateOf s c t = trySetState (stateAsked s c t) := by
  have first : ¬ s.power.asked.isSome = true := by simp [idle]
  rcases allowed with ⟨rfl, cold⟩ | ⟨rfl | rfl, later⟩
  · rw [setStateOf]
    refine (if_neg first).trans ((if_neg (by simp [cold])).trans (if_neg (by simp)))
  · have some_ : ¬ arg c 4 4 = 0 := by omega
    rw [setStateOf]
    exact (if_neg first).trans ((if_neg (by simp)).trans (if_neg (by simp [some_])))
  · have some_ : ¬ arg c 4 4 = 0 := by omega
    rw [setStateOf]
    exact (if_neg first).trans ((if_neg (by simp)).trans (if_neg (by simp [some_])))

theorem setStateOf_banked (idle : s.power.asked = none) (ports : bankedPorts s = false) :
    setStateOf s c .banked = complete (startCmd s c setStateSpec) (cmdRef c) 5 0 [] := by
  rw [setStateOf]
  exact (if_neg (by simp [idle])).trans (if_pos (by simp [ports]))

theorem chipOf_known {k : Nat} (known : k ≤ 4) : ∃ t, chipOf k = some t := by
  interval_cases k <;> exact ⟨_, rfl⟩

/-- DRAIN_US has passed (R886). -/
def drainEnds (s : State) (a : SetState) : State :=
  let v := trySetState (untilTime s a.deadline)
  if v.power.asked.isSome then complete (modPower (unhood v) fun p => { p with asked := none }) a.by_ 2 0 [] else v

theorem powerStateDrainTimeout_runs (run : running s = true) {a : SetState} (asked : s.power.asked = some a) (deep : a.target ≠ .lit) :
    exec .powerStateDrainTimeout s = .next (drainEnds s a) := by
  rw [exec_powerStateDrainTimeout, execPowerStateDrainTimeout, live_running _ run, asked]
  exact congrArg _ (if_neg deep)

/-! ## POWER.SET_REGION (R890 to R892) -/

/-- A region that the command no longer holds. -/
def commandFrees (x : Region) : Region := { x with cmd := none, st := if x.st = .banked then .trimmed else x.st }

/-- A region that the command holds in Trimmed. -/
def commandTrims (x : Region) : Region := { x with cmd := some .trimmed, idle := false }

/-- A region that the command holds in Banked. -/
def commandBanks (x : Region) : Region := { x with cmd := some .banked, st := .banked, idle := false, limN := 3600, nbrSince := none }

/-- The region's change and what follows from it. -/
def regionCommanded (s : State) (r k : Nat) : State :=
  if k = 0 then wakeRegion (modRegionPow s r commandFrees) r
  else if k = 1 then followRegions (modRegionPow s r (trimmedAs commandTrims))
  else followRegions (modRegionPow s r commandBanks)

section
variable (h : CmdRuns s c setRegionSpec none true) (there : arg c 0 4 < 16) (whole : isFenced s (arg c 0 4) = false)
include h there whole

theorem powerSetRegion_runs (known : arg c 4 4 ≤ 2) (may : arg c 4 4 = 2 → regionBound s (arg c 0 4) = false) :
    exec (.powerSetRegion c) s =
      .next (complete (regionCommanded (startCmd s c setRegionSpec) (arg c 0 4) (arg c 4 4)) (cmdRef c) 0 0 []) := by
  have legal : ¬ (16 ≤ arg c 0 4 ∨ 2 < arg c 4 4) := by omega
  have allowed : ¬ (isFenced (startCmd s c setRegionSpec) (arg c 0 4) ||
      (decide (arg c 4 4 = 2) && regionBound (startCmd s c setRegionSpec) (arg c 0 4))) = true := by
    have fence_ : isFenced (startCmd s c setRegionSpec) (arg c 0 4) = isFenced s (arg c 0 4) := rfl
    have bound : regionBound (startCmd s c setRegionSpec) (arg c 0 4) = regionBound s (arg c 0 4) := rfl
    rw [fence_, bound, whole]
    simpa using may
  rw [exec_powerSetRegion, execPowerSetRegion, live_runCmd _ h]
  exact congrArg _ ((if_neg legal).trans (if_neg allowed))

end

theorem powerSetRegion_bound (h : CmdRuns s c setRegionSpec none true) (there : arg c 0 4 < 16) (two : arg c 4 4 = 2)
    (bound : regionBound s (arg c 0 4) = true) :
    exec (.powerSetRegion c) s = .next (complete (startCmd s c setRegionSpec) (cmdRef c) 5 0 []) := by
  have legal : ¬ (16 ≤ arg c 0 4 ∨ 2 < arg c 4 4) := by omega
  have bound' : regionBound (startCmd s c setRegionSpec) (arg c 0 4) = true := bound
  rw [exec_powerSetRegion, execPowerSetRegion, live_runCmd _ h]
  exact congrArg _ ((if_neg legal).trans (if_pos (by rw [bound', two]; simp)))

/-- The region's change in a command that has started. -/
theorem modRegionPow_started (sp : CmdSpec) (r : Nat) (f : Region → Region) :
    Quiet s (modRegionPow (startCmd s c sp) r f) ∧ regionPow (modRegionPow (startCmd s c sp) r f) r = f (regionPow s r) ∧
      ∀ q, q ≠ r → regionPow (modRegionPow (startCmd s c sp) r f) q = regionPow s q := by
  have region : ∀ q, regionPow (startCmd s c sp) q = regionPow s q := fun _ => rfl
  refine ⟨(startCmd_quiet s c sp).trans (modRegionPow_only _ r f).quiet, ?_, fun q other => ?_⟩
  · rw [regionPow_modRegionPow_self, region]
  · rw [regionPow_modRegionPow_other _ _ other, region]

theorem powerStats_runs (h : CmdRuns s c powerStatsSpec none true) :
    exec (.powerStats c) s = .next (complete (startCmd s c powerStatsSpec) (cmdRef c) 0 0
      ((natRange 0 11).flatMap fun k => leBytes 8 (ctr s (.power k)))) := by
  rw [exec_powerStats, execPowerStats, live_runCmd _ h]
  rfl

end Sys2Proof.Machine

namespace Sys2Proof.Machine

/-- Settles O27: each command by the state, or the region, that it asks for. -/
theorem powerCommands : Obligations.PowerCommands := by
  unfold Obligations.PowerCommands
  intro c s
  refine ⟨fun h drain => ⟨fun known waits => ?_, fun lit idle cold => ?_, fun target idle later => ?_, fun banked ports idle => ?_⟩,
    fun a run asked deep => ⟨_, rfl, fun still => ?_, fun done => ?_⟩,
    fun h there whole => ⟨fun lit => ?_, fun trim => ?_, fun bank free => ?_, powerSetRegion_bound h there⟩, fun h => ?_⟩
  · obtain ⟨t, named⟩ := chipOf_known known
    exact (powerSetState_runs h drain named).trans (congrArg _ (setStateOf_waiting t waits))
  · exact (powerSetState_runs h drain (by rw [lit]; rfl)).trans (congrArg _ (setStateOf_tries idle (Or.inl ⟨rfl, cold⟩)))
  · rcases target with trimmed | hooded
    · rw [if_pos trimmed]
      exact (powerSetState_runs h drain (by rw [trimmed]; rfl)).trans (congrArg _ (setStateOf_tries idle (Or.inr ⟨Or.inl rfl, later⟩)))
    · rw [if_neg (by omega)]
      exact (powerSetState_runs h drain (by rw [hooded]; rfl)).trans (congrArg _ (setStateOf_tries idle (Or.inr ⟨Or.inr rfl, later⟩)))
  · exact (powerSetState_runs h drain (by rw [banked]; rfl)).trans (congrArg _ (setStateOf_banked idle ports))
  · exact (powerStateDrainTimeout_runs run asked deep).trans (congrArg _ (if_pos still))
  · exact (powerStateDrainTimeout_runs run asked deep).trans (congrArg _ (if_neg (by simp [done])))
  · have runs := powerSetRegion_runs h there whole (by omega) (by omega)
    rw [lit] at runs
    exact ⟨_, runs, modRegionPow_started setRegionSpec _ commandFrees⟩
  · have runs := powerSetRegion_runs h there whole (by omega) (by omega)
    rw [trim] at runs
    exact ⟨_, runs, modRegionPow_started setRegionSpec _ (trimmedAs commandTrims)⟩
  · have runs := powerSetRegion_runs h there whole (by omega) (fun _ => free)
    rw [bank] at runs
    exact ⟨_, runs, modRegionPow_started setRegionSpec _ commandBanks⟩
  · refine (powerStats_runs h).trans ?_
    simp [natRange]

end Sys2Proof.Machine
end

section
/-! Lantern's rings and the test access port (R960, R964 to R970; O51). -/
namespace Sys2Proof.Machine

variable {s : State} {c : Cmd}

abbrev lanternReadSpec : CmdSpec := { pf0 := true, group := 0x1B, verb := 1, args := [(0, 4), (4, 4)] }
abbrev lanternLogReadSpec : CmdSpec := { pf0 := true, group := 0x1B, verb := 2, args := [(0, 4), (4, 4)] }
abbrev lanternStatsSpec : CmdSpec := { pf0 := true, group := 0x1B, verb := 3 }

/-! ## The rings (R960) -/

theorem readRing_within (ring : List (Nat × List Byte)) (next : Nat) (fits : arg c 4 4 ≤ 16777215) :
    readRing s c ring next = completeRing s (cmdRef c) (arg c 0 4) (ringFrom ring next (arg c 0 4) (arg c 4 4)) :=
  if_neg (Nat.not_lt.mpr fits)

theorem lanternRead_runs (h : CmdRuns s c lanternReadSpec none true) (fits : arg c 4 4 ≤ 16777215) :
    exec (.lanternRead c) s = .next (completeRing (startCmd s c lanternReadSpec) (cmdRef c) (arg c 0 4)
      (ringFrom s.lan.ring s.lan.next (arg c 0 4) (arg c 4 4))) := by
  rw [exec_lanternRead, execLanternRead, live_runCmd _ h]
  exact congrArg _ (readRing_within _ _ fits)

theorem lanternLogRead_runs (h : CmdRuns s c lanternLogReadSpec none true) (fits : arg c 4 4 ≤ 16777215) :
    exec (.lanternLogRead c) s = .next (completeRing (startCmd s c lanternLogReadSpec) (cmdRef c) (arg c 0 4)
      (ringFrom s.lan.log s.lan.logNext (arg c 0 4) (arg c 4 4))) := by
  rw [exec_lanternLogRead, execLanternLogRead, live_runCmd _ h]
  exact congrArg _ (readRing_within _ _ fits)

theorem lanternStats_runs (h : CmdRuns s c lanternStatsSpec none true) :
    exec (.lanternStats c) s = .next (complete (startCmd s c lanternStatsSpec) (cmdRef c) 0 0
      ((natRange 0 5).flatMap fun k => leBytes 8 (ctr s (.lantern k)))) := by
  rw [exec_lanternStats, execLanternStats, live_runCmd _ h]
  rfl

/-- Before its first 2^32 entries a ring holds nothing beyond its next number. -/
theorem ringFrom_beyond (ring : List (Nat × List Byte)) {next first : Nat} (count : Nat) (young : next < 2 ^ 32) (beyond : next < first) :
    ringFrom ring next first count = [] :=
  if_pos ⟨young, beyond⟩

/-- What a read finds is the ring's entries, in its order. -/
theorem ringFrom_sublist (ring : List (Nat × List Byte)) (next first count : Nat) : (ringFrom ring next first count).Sublist ring := by
  unfold ringFrom
  dsimp only
  split
  · exact List.nil_sublist _
  · exact (List.take_sublist _ _).trans List.filter_sublist

theorem ringFrom_length_le (ring : List (Nat × List Byte)) (next first count : Nat) : (ringFrom ring next first count).length ≤ count := by
  unfold ringFrom
  dsimp only
  split
  · exact Nat.zero_le _
  · exact List.length_take_le _ _

/-! ## The instructions of the test access port (R966 to R968) -/

theorem tapRow_powered (f : State → State) (powered : s.boot.phase ≠ .unpowered) : tapRow s f = .next (f s) :=
  if_pos (decide_eq_true powered)

/-- An instruction that shows one register. -/
def tapShow (s : State) (i : TapInstr) (o : Out) : State := { s with tap := { s.tap with instr := i }, outs := s.outs ++ [o] }

/-- An instruction that scans the boundary register. -/
def tapScan (s : State) (i : TapInstr) (p m t f : Bool) (x : Nat) : State :=
  { s with tap := { s.tap with instr := i, cells := x % 2 ^ 16 },
           outs := s.outs ++ [.tdo 16 (boundary { s with tap := { s.tap with instr := i } } p m t f)] }

section
variable (powered : s.boot.phase ≠ .unpowered)
include powered

theorem idcode_runs : exec .idcode s = .next (tapShow s .idcode (.tdo 32 (idcodeWord s.part))) := (exec_idcode s).trans (tapRow_powered _ powered)

theorem bypass_runs : exec .bypass s = .next (tapShow s .bypass (.tdo 1 0)) := (exec_bypass s).trans (tapRow_powered _ powered)

theorem jtagTrst_runs : exec .jtagTrst s = .next { s with tap := { s.tap with instr := .idcode } } := (exec_jtagTrst s).trans (tapRow_powered _ powered)

theorem samplePreload_runs (p m t f : Bool) (x : Nat) : exec (.samplePreload p m t f x) s = .next (tapScan s .samplePreload p m t f x) :=
  (exec_samplePreload p m t f x s).trans (tapRow_powered _ powered)

theorem extest_allowed (may : extestOk s = true) (p m t f : Bool) (x : Nat) :
    exec (.extest p m t f x) s = .next (tapScan s .extest p m t f x) :=
  ((exec_extest p m t f x s).trans (tapRow_powered _ powered)).trans (congrArg _ (if_pos may))

theorem extest_refused (may : extestOk s = false) (p m t f : Bool) (x : Nat) :
    exec (.extest p m t f x) s = .next (tapShow s .bypass (.tdo 1 0)) :=
  ((exec_extest p m t f x s).trans (tapRow_powered _ powered)).trans (congrArg _ (if_neg (by simp [may])))

theorem clamp_runs : exec .clamp s = .next (tapShow s (if extestOk s then .clamp else .bypass) (.tdo 1 0)) :=
  (exec_clamp s).trans (tapRow_powered _ powered)

theorem highz_runs : exec .highz s = .next (tapShow s (if extestOk s then .highz else .bypass) (.tdo 1 0)) :=
  (exec_highz s).trans (tapRow_powered _ powered)

/-- The register that DEBUG_STATUS shows carries the nonce that it leaves for one unlock. -/
theorem debugStatus_runs (ok : s.ras.rngOk = true) (whole : s.ras.rngFailed = false) :
    ∃ u, exec .debugStatus s = .next u ∧ u.tap = { s.tap with instr := .debugStatus, nonce := some (randomBytes s 32) } ∧ u.mem = s.mem ∧
      u.outs = s.outs ++ [.tdo 384 (debugWord s (randomBytes s 32))] := by
  refine ⟨_, (exec_debugStatus s).trans (tapRow_powered _ powered), ?_, rfl, rfl⟩
  have issued : (s.ras.rngOk && !s.ras.rngFailed) = true := by rw [ok, whole]; rfl
  exact congrArg (fun k => ({ s.tap with instr := .debugStatus, nonce := k } : Tap)) (if_pos issued)

/-! ## The debug unlock (R969, R970) -/

/-- An attempt uses the nonce up. -/
def unlockTried (s : State) : State := { s with tap := { s.tap with nonce := none, instr := .debugUnlock } }

theorem debugUnlock_accepted {token : List Byte} (may : unlockOk s = true) (good : tokenOk s token = true) :
    exec (.debugUnlock token) s = .next (unlock (unlockTried s)) :=
  ((exec_debugUnlock token s).trans (tapRow_powered _ powered)).trans (congrArg _ (if_pos (by rw [may, good]; rfl)))

theorem debugUnlock_refused {token : List Byte} (bad : unlockOk s = false ∨ tokenOk s token = false) :
    exec (.debugUnlock token) s =
      .next { s with tap := { s.tap with nonce := none, instr := .debugUnlock, refused := true } } := by
  have no : ¬ (unlockOk s && tokenOk s token) = true := by rcases bad with bad | bad <;> simp [bad]
  exact ((exec_debugUnlock token s).trans (tapRow_powered _ powered)).trans (congrArg _ (if_neg no))

end

/-- No link, session or stream keeps a key through an unlock, and the debug policy says that the switch is unlocked. -/
theorem unlock_destroys (s : State) :
    (unlock s).tap.unlocked = true ∧ (unlock s).tap.nonce = s.tap.nonce ∧ (∀ e ∈ (unlock s).lports, e.2.sec = {}) ∧
      (unlock s).sec.kex = [] ∧ (unlock s).sec.sessions = [] ∧ (unlock s).sec.ide = [] ∧ regField (unlock s) rDebugPolicy 3 1 = 1 := by
  refine ⟨rfl, rfl, fun e held => ?_, rfl, rfl, rfl, regField_setField_self (destroyKeys s) rDebugPolicy 3 1 1⟩
  obtain ⟨_, _, rfl⟩ := List.mem_map.mp held
  rfl

end Sys2Proof.Machine

namespace Sys2Proof.Machine

/-- Settles O51: the rings by their reads, the test access port by its instructions. -/
theorem ringsAndTestPort : Obligations.RingsAndTestPort := by
  unfold Obligations.RingsAndTestPort
  intro c s
  refine ⟨lanternRead_runs, fun ring next first count =>
      ⟨ringFrom_length_le ring next first count, fun _ found => (ringFrom_sublist ring next first count).subset found,
        ringFrom_beyond ring count⟩,
    lanternLogRead_runs, lanternStats_runs, fun powered => ⟨idcode_runs powered, bypass_runs powered, jtagTrst_runs powered,
      samplePreload_runs powered, fun may => ⟨extest_allowed powered may, ?_, ?_⟩, fun may => ⟨extest_refused powered may, ?_, ?_⟩,
      debugStatus_runs powered, fun token may good => ⟨_, debugUnlock_accepted powered may good, unlock_destroys (unlockTried s)⟩,
      fun token => debugUnlock_refused powered⟩⟩
  · exact (clamp_runs powered).trans (by rw [may]; rfl)
  · exact (highz_runs powered).trans (by rw [may]; rfl)
  · exact (clamp_runs powered).trans (by rw [may]; rfl)
  · exact (highz_runs powered).trans (by rw [may]; rfl)

end Sys2Proof.Machine
end

section
/-! What the end of a request leaves as it stands (R88, R98): the reset state, the domains, and an ingress without requests. One lemma an
operation, in the order of the definitions; O50's reset of a host bridge needs them. -/
namespace Sys2Proof.Machine

/-- The reset state, the domains, and whether no request is outstanding. -/
def standing (s : State) : Boot × List (Nat × Domain) × Bool := (s.boot, s.coh.domains, s.ing.outs.isEmpty)

theorem standing_of_quiet {s t : State} (quiet : Quiet s t) (outs : t.ing.outs.isEmpty = s.ing.outs.isEmpty) : standing t = standing s := by
  rw [standing, standing, quiet.boot, quiet.coh, outs]

/-! ## Shared operations -/

theorem foldl_standing {α : Type} (f : State → α → State) (h : ∀ s x, standing (f s x) = standing s) (l : List α) (s : State) :
    standing (l.foldl f s) = standing s := by
  induction l generalizing s with
  | nil => rfl
  | cons x l ih => exact (ih _).trans (h s x)

/-- The same for a fold that carries a number with the state. -/
theorem foldl_fst_standing {α β : Type} (f : State × β → α → State × β) (h : ∀ a x, standing (f a x).1 = standing a.1) (l : List α)
    (a : State × β) : standing (l.foldl f a).1 = standing a.1 := by
  induction l generalizing a with
  | nil => rfl
  | cons x l ih => exact (ih _).trans (h a x)

theorem kset_isEmpty {α : Type} (m : List (Nat × α)) (k : Nat) (v : α) : (kset m k v).isEmpty = false := by
  cases m with
  | nil => rfl
  | cons e m =>
    unfold kset
    split_ifs <;> rfl

theorem kmod_isEmpty {α : Type} (m : List (Nat × α)) (k : Nat) (f : α → α) : (kmod m k f).isEmpty = m.isEmpty := by
  cases m with
  | nil => rfl
  | cons e m =>
    unfold kmod
    split
    · exact kset_isEmpty _ _ _
    · rfl

theorem isEmpty_of_steady {s t : State} (h : Steady s t) : t.ing.outs.isEmpty = s.ing.outs.isEmpty := by rw [h.outs]

@[simp] theorem standing_report (s : State) (a b c d : Nat) : standing (report s a b c d) = standing s :=
  standing_of_quiet (report_quiet s a b c d) (isEmpty_of_steady (report_steady s a b c d))

@[simp] theorem standing_penal (s : State) (l n : Nat) : standing (penal s l n) = standing s :=
  standing_of_quiet (penal_quiet s l n) (isEmpty_of_steady (penal_steady s l n))

@[simp] theorem standing_penalUnanswered (s : State) (l : Nat) : standing (penalUnanswered s l) = standing s := by
  unfold penalUnanswered
  dsimp only
  repeat' split
  all_goals first | rfl | exact standing_penal _ _ _

@[simp] theorem standing_sendMgmt_getD (s : State) (c d : Nat) (pl : List Byte) : standing ((sendMgmt s c d pl).getD s) = standing s := by
  cases h : sendMgmt s c d pl with
  | none => rfl
  | some t => exact standing_of_quiet (sendMgmt_quiet _ _ _ _ t h) (isEmpty_of_steady (sendMgmt_steady h))

@[simp] theorem standing_markOne (cause : Nat) (s : State) (id : Nat) : standing (markOne cause s id) = standing s := by
  unfold markOne
  split
  · split
    · rfl
    · dsimp only
      rw [standing_report, chargePartners, foldl_standing _ standing_penalUnanswered]
      exact standing_of_quiet ((modOut_quiet _ _ _).trans (bump_quiet _ _)) (kmod_isEmpty _ _ _)
  · rfl

@[simp] theorem standing_markUnanswered (s : State) (id cause : Nat) : standing (markUnanswered s id cause) = standing s :=
  (foldl_standing _ (standing_markOne cause) _ _).trans (standing_markOne cause s id)

@[simp] theorem standing_sendPkt (s : State) (a b : Nat) (e : Bool) (k : Packet) : standing (sendPkt s a b e k) = standing s := by
  unfold sendPkt
  split
  · next t h => exact standing_of_quiet (enqueue_quiet _ _ _ _ _ t h) (isEmpty_of_steady (enqueue_steady h))
  · unfold discardReport
    repeat' split
    · rfl
    · exact standing_markUnanswered _ _ _
    · rfl
    · exact standing_sendMgmt_getD _ _ _ _

@[simp] theorem standing_complete (s : State) (r : CmdRef) (st res : Nat) (out : List Byte) : standing (complete s r st res out) = standing s := by
  unfold complete
  split
  · exact standing_sendMgmt_getD _ _ _ _
  · dsimp only
    repeat' split
    all_goals rfl

@[simp] theorem standing_completeAll (s : State) (rs : List CmdRef) (st : Nat) : standing (completeAll s rs st) = standing s :=
  foldl_standing _ (fun s r => standing_complete s r st 0 []) rs s

@[simp] theorem standing_withMem (s : State) (m : Mem) : standing { s with mem := m } = standing s := rfl
@[simp] theorem standing_withXl (s : State) (x : Xlat) : standing { s with xl := x } = standing s := rfl
@[simp] theorem standing_markBusy (s : State) : standing (markBusy s) = standing s := rfl
@[simp] theorem standing_bump (s : State) (c : Ctr) : standing (bump s c) = standing s := rfl
@[simp] theorem standing_bumpFree (s : State) : standing (bumpFree s) = standing s := rfl
@[simp] theorem standing_bumpOwn (s : State) (d : Nat) : standing (bumpOwn s d) = standing s := rfl
@[simp] theorem standing_modOp (s : State) (id : Nat) (f : MemOp → MemOp) : standing (modOp s id f) = standing s := rfl
@[simp] theorem standing_modTier (s : State) (n : Nat) (f : TierEntry → TierEntry) : standing (modTier s n f) = standing s := rfl
@[simp] theorem standing_modAst (s : State) (n : Nat) (f : Ast → Ast) : standing (modAst s n f) = standing s := rfl
@[simp] theorem standing_setArb (s : State) (n : Nat) (a : Arb) : standing (setArb s n a) = standing s := rfl
@[simp] theorem standing_useIndex (s : State) (f : Nat) : standing (useIndex s f) = standing s := rfl
@[simp] theorem standing_loseMove (s : State) (f : Nat) : standing (loseMove s f) = standing s := rfl
@[simp] theorem standing_dropFrame (s : State) (f : Nat) : standing (dropFrame s f) = standing s := rfl
@[simp] theorem standing_leaveToScrub (s : State) (n : Nat) (f : List Nat) (u : List (Nat × Nat)) (t : List Piece) :
    standing (leaveToScrub s n f u t) = standing s := rfl

/-! ## Memory accesses and moves -/

@[simp] theorem standing_joinRead (s : State) (id : Nat) : standing (joinRead s id).1 = standing s := by
  unfold joinRead
  dsimp only
  repeat' split
  all_goals simp

theorem standing_overFrames (f : State → Nat → State × Nat) (h : ∀ s x, standing (f s x).1 = standing s) (l : List Nat) (s : State) :
    standing (overFrames f l s).1 = standing s := by
  induction l generalizing s with
  | nil => rfl
  | cons x l ih => exact (ih _).trans (h s x)

@[simp] theorem standing_arbPush (s : State) (r : Nat) (x : Access) : standing (arbPush s r x) = standing s := by
  unfold arbPush
  dsimp only
  split
  all_goals rfl

@[simp] theorem standing_t1Access (s : State) (r : Nat) (x : Access) (a n : Nat) : standing (t1Access s r x a n).1 = standing s :=
  foldl_standing _ (fun s _ => standing_arbPush s _ _) _ _

@[simp] theorem standing_trayGo (s : State) (k : Nat) : standing (trayGo s k) = standing s := by
  unfold trayGo
  dsimp only
  repeat' split
  all_goals simp

@[simp] theorem standing_traySend (s : State) (x : Nat) (tier : Tier) (t : TrayReq) (n : Nat) (d : List Byte) :
    standing (traySend s x tier t n d) = standing s := by
  unfold traySend
  dsimp only
  repeat' split
  all_goals first | rfl | exact standing_trayGo _ _

@[simp] theorem standing_blockRead (id f sl : Nat) (s : State) (p : Nat) : standing (blockRead id f sl s p) = standing s :=
  standing_traySend _ _ _ _ _ _

@[simp] theorem standing_setBlock (s : State) (c p : Nat) (u : Nat × Nat) : standing (setBlock s c p u) = standing s := by
  unfold setBlock
  split
  all_goals rfl

@[simp] theorem standing_blockUnits (s : State) (id sl c p n : Nat) : standing (blockUnits s id sl c p n).2 = standing s := by
  unfold blockUnits
  dsimp only
  repeat' split
  all_goals simp

@[simp] theorem standing_blockWrite (id f sl c : Nat) (r : State × Nat) (p : Nat) : standing (blockWrite id f sl c r p).1 = standing r.1 := by
  have h := standing_blockUnits r.1 id sl c p ((blockOf r.1 p).length / 64)
  unfold blockWrite
  dsimp only
  split
  all_goals rename_i hu
  all_goals rw [hu] at h
  · split
    all_goals simpa using h
  · simpa using h

@[simp] theorem standing_accessCopy (id : Nat) (cls : ArbClass) (f a n : Nat) (rd : Bool) (loc c : Nat) (s : State) :
    standing (accessCopy id cls f a n rd loc c s).1 = standing s := by
  unfold accessCopy
  dsimp only
  split
  · rfl
  · split
    · repeat' split
      all_goals simp
    · exact foldl_standing _ (fun s p => standing_traySend s _ _ _ _ _) _ _
    · split
      · refine (foldl_standing _ (fun s p => standing_blockRead _ _ _ s p) _ _).trans ?_
        rw [standing_useIndex]
        split
        all_goals simp
      · exact foldl_fst_standing _ (fun r p => standing_blockWrite _ _ _ _ r p) _ _

@[simp] theorem standing_accessCopies (id : Nat) (cls : ArbClass) (f a n : Nat) (rd : Bool) (l : List (Nat × Nat)) (s : State) :
    standing (accessCopies id cls f a n rd l s).1 = standing s := by
  induction l generalizing s with
  | nil => rfl
  | cons c l ih => exact (ih _).trans (standing_accessCopy _ _ _ _ _ _ _ _ _)

@[simp] theorem standing_accessStorage (id : Nat) (cls : ArbClass) (o : MemOp) (a n : Nat) (rd : Bool) (s : State) (f : Nat) :
    standing (accessStorage id cls o a n rd s f).1 = standing s := by
  unfold accessStorage
  dsimp only
  split
  all_goals simp

@[simp] theorem standing_readFrame (id : Nat) (cls : ArbClass) (o : MemOp) (a n : Nat) (s : State) (f : Nat) :
    standing (readFrame id cls o a n s f).1 = standing s := by
  unfold readFrame
  dsimp only
  repeat' split
  all_goals simp

@[simp] theorem standing_memReads (s : State) (id : Nat) : standing (memReads s id) = standing s := by
  have h : ∀ (cls : ArbClass) (o : MemOp) (a n : Nat) (l : List Nat) (s : State),
      standing (overFrames (readFrame id cls o a n) l s).1 = standing s :=
    fun cls o a n l s => standing_overFrames _ (fun s x => standing_readFrame id cls o a n s x) l s
  unfold memReads
  dsimp only
  split
  · rfl
  · rw [standing_modOp]
    split
    all_goals simp [h]

@[simp] theorem standing_memAccess (s : State) (id : Nat) : standing (memAccess s id) = standing s := by
  have h := standing_joinRead s id
  unfold memAccess
  split
  · rfl
  · split
    · simp
    · split
      · simp
      · split
        all_goals rename_i hj
        all_goals rw [hj] at h
        all_goals simpa using h

@[simp] theorem standing_retryMoves (s : State) : standing (retryMoves s) = standing s :=
  foldl_standing _ (fun s _ => standing_memAccess s _) _ _

@[simp] theorem standing_abandonMove (s : State) (f st : Nat) : standing (abandonMove s f st) = standing s := by
  unfold abandonMove
  dsimp only
  split
  · rw [standing_retryMoves]
    split
    · exact standing_complete _ _ _ _ _
    · rfl
  · rfl

/-! ## Gigabytes released, and invalidations (R174, R184) -/

@[simp] theorem standing_abandonGone (s : State) (f : Nat) : standing (abandonGone s f) = standing s := standing_abandonMove _ _ _

@[simp] theorem standing_scrubFrame (s : State) (f : Nat) : standing (scrubFrame s f) = standing s := by
  unfold scrubFrame
  dsimp only
  repeat' split
  all_goals simp

@[simp] theorem standing_dropRef (s : State) (g : Nat) : standing (dropRef s g) = standing s := by
  unfold dropRef
  repeat' split
  · exact foldl_standing _ (fun s f => by simp) _ _
  all_goals rfl

@[simp] theorem standing_releaseGib (s : State) (g : Nat) : standing (releaseGib s g) = standing s := by
  unfold releaseGib
  repeat' split
  all_goals simp

@[simp] theorem standing_advanceGen (s : State) (a : Nat) : standing (advanceGen s a) = standing s := by
  unfold advanceGen
  split
  all_goals rfl

@[simp] theorem standing_invalWrite (s : State) (a : Nat) (k : InvalKind) : standing (invalWrite s a k) = standing s := by
  cases k
  all_goals rfl

@[simp] theorem standing_astDestroyNow (s : State) (a : Nat) (r : Option CmdRef) : standing (astDestroyNow s a r) = standing s := by
  unfold astDestroyNow
  dsimp only
  repeat' split
  all_goals simp

@[simp] theorem standing_invalStart (s : State) (v : Inval) : standing (invalStart s v) = standing s := by
  have run : standing (advanceGen (invalWrite s v.ast v.kind) v.ast) = standing s := by simp
  unfold invalStart
  dsimp only
  repeat' split
  all_goals first | exact run | simp

@[simp] theorem standing_invalNext (a n : Nat) (s : State) : standing (invalNext a n s) = standing s := by
  induction n generalizing s with
  | zero => rfl
  | succ n ih =>
    unfold invalNext
    repeat' split
    all_goals simp [ih]

@[simp] theorem standing_invalFinish (s : State) (a : Nat) : standing (invalFinish s a) = standing s := by
  unfold invalFinish
  dsimp only
  repeat' split
  all_goals simp [foldl_standing]

@[simp] theorem standing_drainOne (s : State) (a g : Nat) : standing (drainOne s a g) = standing s := by
  unfold drainOne
  repeat' split
  all_goals simp

/-! ## Requests -/

@[simp] theorem standing_windowStep (s : State) (op : Nat) : standing (windowStep s op) = standing s := standing_completeAll _ _ _

/-- A request that ends leaves the ingress, and changes no domain. -/
theorem standing_requestGone {s : State} {id : Nat} {o : OutReq} (found : kfind s.ing.outs id = some o) :
    standing (requestGone s id) = (s.boot, s.coh.domains, (kdel s.ing.outs id).isEmpty) := by
  have without : ∀ l : List Nat, standing (hotDone (l.foldl windowStep { s with ing := { s.ing with outs := kdel s.ing.outs id } }) id) =
      (s.boot, s.coh.domains, (kdel s.ing.outs id).isEmpty) := fun l => foldl_standing _ standing_windowStep l _
  simp only [requestGone, found]
  split
  · exact (standing_drainOne _ _ _).trans (without _)
  · exact without _

theorem requestGone_bootDomains (s : State) (id : Nat) :
    (requestGone s id).boot = s.boot ∧ (requestGone s id).coh.domains = s.coh.domains := by
  cases found : kfind s.ing.outs id with
  | none => simp [requestGone, found]
  | some o =>
    have view := standing_requestGone found
    exact ⟨congrArg (·.1) view, congrArg (·.2.1) view⟩

end Sys2Proof.Machine
end

section
/-! Power, resets and the firmware bundle (R908 to R915, R918 to R922; O50). -/
namespace Sys2Proof.Machine

variable {s t u : State} {d a node cause k : Nat}

/-! ## Agents that fail (R233, R910) -/

/-- Only marks of failed agents, and what tells of them, are new. -/
structure FailsOnly (s t : State) : Prop where
  boot : t.boot = s.boot
  mem : t.mem = s.mem
  lports : t.lports = s.lports
  outs : t.ing.outs = s.ing.outs
  domains : ∀ d x, domOf s d = some x →
    ∃ y, domOf t d = some y ∧ y.members = x.members ∧ ∀ a, x.failed.contains a = true → y.failed.contains a = true

theorem FailsOnly.refl (s : State) : FailsOnly s s := ⟨rfl, rfl, rfl, rfl, fun _ x found => ⟨x, found, rfl, fun _ h => h⟩⟩

theorem FailsOnly.trans (h : FailsOnly s t) (g : FailsOnly t u) : FailsOnly s u := by
  refine ⟨g.boot.trans h.boot, g.mem.trans h.mem, g.lports.trans h.lports, g.outs.trans h.outs, fun d x found => ?_⟩
  obtain ⟨y, there, members, failed⟩ := h.domains d x found
  obtain ⟨z, still, same, more⟩ := g.domains d y there
  exact ⟨z, still, same.trans members, fun a marked => more a (failed a marked)⟩

theorem failsOnly_of_quiet (quiet : Quiet s t) (outs : t.ing.outs = s.ing.outs) : FailsOnly s t :=
  ⟨quiet.boot, quiet.mem, quiet.lports, outs, fun d x found => ⟨x, (domOf_congr quiet.coh d).trans found, rfl, fun _ h => h⟩⟩

theorem foldl_failsOnly {α : Type} (f : State → α → State) (each : ∀ s x, FailsOnly s (f s x)) (l : List α) (s : State) :
    FailsOnly s (l.foldl f s) := by
  induction l generalizing s with
  | nil => exact FailsOnly.refl s
  | cons x l ih => exact (each s x).trans (ih _)

theorem mem_insertRising (x y : Nat) (l : List Nat) : y ∈ insertRising x l ↔ y = x ∨ y ∈ l := by
  induction l with
  | nil => simp [insertRising]
  | cons z l ih =>
    unfold insertRising
    split_ifs with below same
    · simp
    · simp [same]
    · simp only [List.mem_cons, ih]
      tauto

theorem agentMark_failsOnly (s : State) (d a node cause : Nat) : FailsOnly s (agentMark s d a node cause) := by
  refine ⟨rfl, rfl, rfl, rfl, fun e x found => ?_⟩
  by_cases same : e = d
  · subst same
    refine ⟨{ x with failed := insertRising a x.failed }, by rw [domOf_agentMark_self, found]; rfl, rfl, fun b marked => ?_⟩
    simp only [List.contains_iff_mem] at marked ⊢
    exact (mem_insertRising _ _ _).mpr (Or.inr marked)
  · exact ⟨x, (domOf_agentMark_other s d a node cause same).trans found, rfl, fun _ h => h⟩

theorem xchgAll_steady (payload : List Byte) (ns : List Nat) (s : State) : Steady s (xchgAll payload ns s) := by
  induction ns generalizing s with
  | nil => exact Steady.refl s
  | cons n ns ih =>
    refine Steady.trans ?_ (ih _)
    cases sent : sendMgmt s 0x89 n payload with
    | none => exact Steady.refl s
    | some t => exact sendMgmt_steady sent

theorem agentFail_outs {x : Domain} (found : domOf s d = some x) (member : kfind x.members a = some node)
    (working : x.failed.contains a = false) : (agentFail s d a cause).ing.outs = s.ing.outs := by
  simp only [agentFail, found, member, working, Bool.false_eq_true, if_false]
  have told : ∀ (c : Prop) [Decidable c] (pl : List Byte) (ns : List Nat) (v : State),
      (if c then v else xchgAll pl ns v).ing.outs = v.ing.outs := fun c _ pl ns v => by
    split
    · rfl
    · exact (xchgAll_steady pl ns v).outs
  rw [told, (report_steady _ _ _ _ _).outs]
  split
  · exact (penal_steady _ _ _).outs
  · rfl

theorem agentFail_failsOnly (s : State) (d a cause : Nat) : FailsOnly s (agentFail s d a cause) := by
  cases found : domOf s d with
  | none => simpa [agentFail, found] using FailsOnly.refl s
  | some x =>
    cases member : kfind x.members a with
    | none => simpa [agentFail, found, member] using FailsOnly.refl s
    | some node =>
      cases working : x.failed.contains a with
      | true => simpa [agentFail, found, member, List.contains_iff_mem.mp working] using FailsOnly.refl s
      | false =>
        refine (agentMark_failsOnly s d a node cause).trans (failsOnly_of_quiet (agentFail_quiet s d a node cause found member working) ?_)
        exact (agentFail_outs found member working).trans rfl

theorem isFailed_iff (s : State) (d a : Nat) : isFailed s d a = true ↔ ∃ x, domOf s d = some x ∧ x.failed.contains a = true := by
  cases found : domOf s d <;> simp [isFailed, found]

theorem FailsOnly.isFailed (h : FailsOnly s t) (failed : isFailed s d a = true) : isFailed t d a = true := by
  obtain ⟨x, found, marked⟩ := (isFailed_iff s d a).mp failed
  obtain ⟨y, there, _, more⟩ := h.domains d x found
  exact (isFailed_iff t d a).mpr ⟨y, there, more a marked⟩

theorem agentFail_isFailed {x : Domain} (found : domOf s d = some x) (member : kfind x.members a = some node) :
    isFailed (agentFail s d a cause) d a = true := by
  cases working : x.failed.contains a with
  | true => exact (agentFail_failsOnly s d a cause).isFailed ((isFailed_iff s d a).mpr ⟨x, found, working⟩)
  | false =>
    refine (failsOnly_of_quiet (agentFail_quiet s d a node cause found member working) ?_).isFailed ?_
    · exact (agentFail_outs found member working).trans rfl
    · refine (isFailed_iff _ _ _).mpr ⟨{ x with failed := insertRising a x.failed }, by rw [domOf_agentMark_self, found]; rfl, ?_⟩
      exact List.contains_iff_mem.mpr ((mem_insertRising _ _ _).mpr (Or.inl rfl))

/-- A node's failure in one domain: every index at which it is a member. -/
def failsIn (node cause : Nat) (s : State) (e : Nat × Domain) : State :=
  (e.2.members.filter fun m => m.2 = node).foldl (fun s m => agentFail s e.1 m.1 cause) s

theorem failsIn_failsOnly (node cause : Nat) (s : State) (e : Nat × Domain) : FailsOnly s (failsIn node cause s e) :=
  foldl_failsOnly _ (fun s (m : Nat × Nat) => agentFail_failsOnly s e.1 m.1 cause) _ s

/-- What one element of a fold marks stays marked to the fold's end. -/
theorem foldl_isFailed {α : Type} (f : State → α → State) (each : ∀ s x, FailsOnly s (f s x)) {l : List α} {x : α} (held : x ∈ l)
    (s : State) (marks : ∀ t, FailsOnly s t → isFailed (f t x) d a = true) : isFailed (l.foldl f s) d a = true := by
  induction l generalizing s with
  | nil => cases held
  | cons y l ih =>
    rw [List.foldl_cons]
    rcases List.mem_cons.mp held with rfl | later
    · exact (foldl_failsOnly f each l _).isFailed (marks s (FailsOnly.refl s))
    · exact ih later _ fun t more => marks t ((each s y).trans more)

theorem failsIn_isFailed {x : Domain} (found : domOf s d = some x) (member : kfind x.members a = some node) (known : (a, node) ∈ x.members)
    (e : Domain) (same : e.members = x.members) : isFailed (failsIn node cause s (d, e)) d a = true := by
  refine foldl_isFailed _ (fun s (m : Nat × Nat) => agentFail_failsOnly s d m.1 cause) (x := (a, node)) ?_ s fun t more => ?_
  · exact List.mem_filter.mpr ⟨by rw [same]; exact known, by simp⟩
  · obtain ⟨y, there, members, _⟩ := more.domains d x found
    exact agentFail_isFailed there (by rw [members]; exact member)

theorem mem_of_kfind {α : Type} {m : List (Nat × α)} {k : Nat} {v : α} (found : kfind m k = some v) : (k, v) ∈ m := by
  induction m with
  | nil => cases found
  | cons e m ih =>
    obtain ⟨j, w⟩ := e
    unfold kfind at found
    split at found
    next same =>
      cases found
      rw [same]
      exact List.mem_cons_self
    next other => exact List.mem_cons_of_mem _ (ih found)

theorem nodeFails_failsOnly (s : State) (node cause : Nat) : FailsOnly s (nodeFails s node cause) := by
  have failed := foldl_failsOnly (failsIn node cause) (failsIn_failsOnly node cause) s.coh.domains s
  unfold nodeFails
  dsimp only
  split
  · exact failed.trans ⟨rfl, rfl, rfl, rfl, fun _ x found => ⟨x, found, rfl, fun _ h => h⟩⟩
  · exact failed

/-- A node that fails is a failed agent of every domain that it is a member of. -/
theorem nodeFails_isFailed {x : Domain} (found : domOf s d = some x) (member : kfind x.members a = some node) :
    isFailed (nodeFails s node cause) d a = true := by
  have failed : isFailed (s.coh.domains.foldl (failsIn node cause) s) d a = true := by
    refine foldl_isFailed _ (failsIn_failsOnly node cause) (mem_of_kfind found) s fun t more => ?_
    obtain ⟨y, there, members, _⟩ := more.domains d x found
    exact failsIn_isFailed there (by rw [members]; exact member) (by rw [members]; exact mem_of_kfind member) x members.symm
  unfold nodeFails
  dsimp only
  split
  · exact failed
  · exact failed

/-! ## Cold start and the bundle (R908, R911, R912, R918 to R922) -/

/-- The switch's memory, tables and keys are those of a reset. -/
theorem coldStart_clears (s : State) (ph : Phase) :
    (coldStart s ph).boot.phase = ph ∧ (coldStart s ph).mem.bytes = [] ∧ (coldStart s ph).mem.tier = [] ∧ (coldStart s ph).parts = [] ∧
      (coldStart s ph).xl = State.reset.xl ∧ (coldStart s ph).coh = State.reset.coh ∧ (coldStart s ph).core = State.reset.core ∧
      (coldStart s ph).fab = State.reset.fab ∧ (coldStart s ph).sec = State.reset.sec ∧ (coldStart s ph).lports = State.reset.lports ∧
      (coldStart s ph).hys = State.reset.hys ∧ (coldStart s ph).boot.bundle = [] ∧ (coldStart s ph).ftime = 0#64 ∧
      (coldStart s ph).pending = s.pending :=
  ⟨rfl, rfl, rfl, rfl, rfl, rfl, rfl, rfl, rfl, rfl, rfl, rfl, rfl, rfl⟩

theorem powerOn_unpowered (off : s.boot.phase = .unpowered) :
    exec .powerOn s = .next (coldStart s (if s.boot.sysReset then .recovery else .reset)) :=
  (exec_powerOn s).trans (if_pos off)

theorem sysResetAssert_powered (on : s.boot.phase ≠ .unpowered) :
    exec .sysResetAssert s = .next (coldStart { s with boot := { s.boot with sysReset := false } } .reset) :=
  (exec_sysResetAssert s).trans (if_neg on)

theorem sysResetDeassert_reset (held : s.boot.phase = .reset) :
    exec .sysResetDeassert s = .next { s with boot := { s.boot with sysReset := true, phase := .recovery } } :=
  (exec_sysResetDeassert s).trans (if_pos held)

/-- A bundle that is discarded (R922). -/
def bundleRefused (s : State) (err : Nat) : State :=
  mbxDone { s with boot := { s.boot with bundleFault := true, mbx := { s.boot.mbx with staged := [] } } } err

/-- A bundle that is kept (R921): the die's serial comes with it. -/
def bundleKept (s : State) : State :=
  let serial := Config.helperSerial (bundlePart s.boot.mbx.staged 4)
  mbxDone { s with fm := { s.fm with serial := serial.getD 0 }, sec := { s.sec with noIdentity := serial.isNone },
                   boot := { s.boot with bundle := s.boot.mbx.staged, bundleFault := false, phase := .rails } } 0

theorem bundleVerifyDone_runs (recovery : s.boot.phase = .recovery) (busy : s.boot.mbx.busy = true) :
    exec .bundleVerifyDone s = .next (if bundleErr s.part s.boot.mbx.staged ≠ 0 then bundleRefused s (bundleErr s.part s.boot.mbx.staged)
      else bundleKept s) := by
  have waiting : ¬ (!s.boot.mbx.busy || s.boot.phase ≠ .recovery) = true := by simp [recovery, busy]
  rw [exec_bundleVerifyDone, execBundleVerifyDone]
  dsimp only
  rw [if_neg waiting]
  split <;> rfl

/-- The host bridges that start their scores as the switch becomes ready. -/
def bridgesStart (s : State) : State :=
  (List.range 4).foldl (fun s k => if s.boot.hbPerst.getD k false then startHealth s (512 + k) else s) s

theorem bridgesStart_quiet (s : State) : Quiet s (bridgesStart s) :=
  foldl_quiet _ (fun s k => by
    split
    · exact startHealth_quiet s (512 + k)
    · exact Quiet.refl s) _ s

/-- The switch becomes ready (R912, R913). -/
def readied (s v : State) : State :=
  let set := (managerList (bundlePart s.boot.bundle 7)).getD ([], 0)
  { v with
    fm := { v.fm with managers := set.1, threshold := set.2 }
    mem := { v.mem with scanAt := v.clk, periodAt := v.clk, nextScan := some (v.clk + regField v rPoolPolicy 0 10 * msNs) }
    ras := { v.ras with verifyAt := v.clk }
    power := { v.power with busyAt := v.clk }
    boot := { v.boot with phase := .ready, hbLink := v.boot.hbPerst } }

theorem hbmInitDone_runs (rails : s.boot.phase = .rails) : exec .hbmInitDone s = .next (readied s (bridgesStart s)) := by
  rw [exec_hbmInitDone, execHbmInitDone, if_neg (not_not_intro rails)]
  rfl

theorem readied_effect {v : State} (quiet : Quiet s v) :
    running (readied s v) = true ∧ (readied s v).boot.hbLink = s.boot.hbPerst ∧
      (readied s v).fm.managers = ((managerList (bundlePart s.boot.bundle 7)).getD ([], 0)).1 ∧ (readied s v).parts = s.parts ∧
      (readied s v).lports = s.lports :=
  ⟨rfl, congrArg (·.hbPerst) quiet.boot, rfl, quiet.parts, quiet.lports⟩

/-! ## The management link (R909) -/

theorem foldl_fnReset_perstMgt (ns : List Nat) (s : State) : (ns.foldl fnReset s).boot.perstMgt = s.boot.perstMgt := by
  induction ns generalizing s with
  | nil => rfl
  | cons n ns ih =>
    have one : (fnReset s n).boot.perstMgt = s.boot.perstMgt := by
      unfold fnReset
      dsimp only
      split <;> rfl
    exact (ih _).trans one

theorem foldl_fnReset_stays {m : Nat} (ns : List Nat) (s : State) (empty : (fnOf s m).qps = []) : (fnOf (ns.foldl fnReset s) m).qps = [] := by
  induction ns generalizing s with
  | nil => exact empty
  | cons n ns ih =>
    refine ih _ ?_
    by_cases same : m = n
    · rw [same, fnOf_fnReset_self]
    · rw [fnOf_fnReset_other _ _ _ same]
      exact empty

theorem foldl_fnReset_qps {m : Nat} {ns : List Nat} (reset : m ∈ ns) (s : State) : (fnOf (ns.foldl fnReset s) m).qps = [] := by
  induction ns generalizing s with
  | nil => cases reset
  | cons n ns ih =>
    rcases List.mem_cons.mp reset with rfl | later
    · refine foldl_fnReset_stays ns _ ?_
      rw [fnOf_fnReset_self]
    · exact ih later _

/-- The management link is in reset. -/
def mgmtPinLow (s : State) : State := { s with boot := { s.boot with perstMgt := false } }

/-- What is left when the functions have been reset: no VF, no session, and every TDI unlocked. -/
def mgmtForgets (s : State) : State :=
  endSpdm { s with hys := { s.hys with numVfs := 0, vfEnable := false },
                   parts := s.parts.map fun (e : Nat × Partition) => (e.1, { e.2 with tdi := .unlocked }) }

theorem perstMgtAssert_runs (run : running s = true) :
    exec .perstMgtAssert s = .next (mgmtForgets (((0 :: s.hys.fns.map (·.1)).eraseDups).foldl fnReset (mgmtPinLow s))) := by
  have ready : s.boot.phase = .ready := of_decide_eq_true run
  have on : ¬ (s.boot.phase = .unpowered || s.boot.phase = .reset) = true := by rw [ready]; simp
  rw [exec_perstMgtAssert, execPerstMgtAssert]
  exact if_neg on

theorem mgmtForgets_effect (v : State) :
    (mgmtForgets v).hys.numVfs = 0 ∧ (mgmtForgets v).hys.vfEnable = false ∧ (mgmtForgets v).sec.spdm = 0 ∧ (mgmtForgets v).sec.sessions = [] ∧
      (mgmtForgets v).sec.ide = [] ∧ ∀ e ∈ (mgmtForgets v).parts, e.2.tdi = .unlocked := by
  refine ⟨rfl, rfl, rfl, rfl, rfl, fun e held => ?_⟩
  obtain ⟨_, _, rfl⟩ := List.mem_map.mp held
  rfl

/-! ## Host bridges (R910) -/

/-- A host bridge in reset: its pin and its link are low. -/
def bridgePinLow (s : State) (k : Nat) : State := bridgeDown { s with boot := { s.boot with hbPerst := s.boot.hbPerst.set k false } } k

/-- The bridge's agent fails. -/
def bridgeAgentFails (s : State) (k : Nat) : State :=
  match (lportOf s (512 + k)).node with
  | some n => nodeFails s n 2
  | none => s

/-- The numbers of the bridge's requests start anew. -/
def bridgePairsForgotten (s : State) (k : Nat) : State :=
  match (lportOf s (512 + k)).node with
  | some n => { s with ing := { s.ing with pairs := s.ing.pairs.filter fun e => e.src ≠ n } }
  | none => s

/-- A decoder as the reset of bridge k leaves it. -/
def decoderReset (k : Nat) (e : Nat × HdmDecoder) : Nat × HdmDecoder := if e.1 / 16 = k then (e.1, { e.2 with base := 0, sizeGib := 0 }) else e

/-- The bridge's decoders, holds, snoops and operations are gone. -/
def bridgeForgotten (s : State) (k : Nat) : State :=
  { s with coh := { s.coh with
      decoders := s.coh.decoders.map (decoderReset k)
      hostHeld := s.coh.hostHeld.filter fun h => h / 2 ^ 48 ≠ k
      biSnoops := s.coh.biSnoops.filter fun b => b.bridge ≠ k
      bridgeSeq := s.coh.bridgeSeq.filter fun e => e.1 / 2 ^ 30 ≠ 512 + k
      bridgeOps := s.coh.bridgeOps.filter fun b => b.bridge ≠ k } }

/-- Holds on the bridge's requests are released once its agent has failed. -/
def bridgeReleased (s : State) (k : Nat) : State := releaseHolds (bridgeAgentFails (bridgePinLow s k) k) fun o => o.p.lport = 512 + k

theorem hbPerstAssert_runs (run : running s = true) (bridge : k < 4) :
    exec (.hbPerstAssert k) s = .next (settle hooks (bridgeForgotten (bridgePairsForgotten (bridgeReleased s k) k) k)) := by
  have run' : running (bridgePinLow s k) = true := run
  rw [exec_hbPerstAssert, execHbPerstAssert, if_neg (Nat.not_le.mpr bridge)]
  exact live_running _ run'

theorem hbPerstAssert_stopped (stopped : running s = false) (bridge : k < 4) : exec (.hbPerstAssert k) s = .next (bridgePinLow s k) := by
  have stopped' : ¬ running (bridgePinLow s k) = true := by
    change ¬ running s = true
    simp [stopped]
  rw [exec_hbPerstAssert, execHbPerstAssert, if_neg (Nat.not_le.mpr bridge)]
  exact if_neg stopped'

theorem bridgeAgentFails_failsOnly (s : State) (k : Nat) : FailsOnly s (bridgeAgentFails s k) := by
  unfold bridgeAgentFails
  split
  · exact nodeFails_failsOnly s _ 2
  · exact FailsOnly.refl s

theorem bridgePairsForgotten_keeps (s : State) (k : Nat) :
    (bridgePairsForgotten s k).boot = s.boot ∧ (bridgePairsForgotten s k).coh = s.coh ∧ (bridgePairsForgotten s k).mem = s.mem ∧
      (bridgePairsForgotten s k).ing.outs = s.ing.outs := by
  unfold bridgePairsForgotten
  split <;> exact ⟨rfl, rfl, rfl, rfl⟩

/-- The release of held requests changes neither the reset state nor the domains. -/
theorem releaseHolds_bootDomains (s : State) (which : OutReq → Bool) :
    (releaseHolds s which).boot = s.boot ∧ (releaseHolds s which).coh.domains = s.coh.domains := by
  have all : ∀ (l : List Nat) (v : State), (l.foldl requestGone v).boot = v.boot ∧ (l.foldl requestGone v).coh.domains = v.coh.domains := by
    intro l
    induction l with
    | nil => exact fun _ => ⟨rfl, rfl⟩
    | cons id l ih => exact fun v => ⟨(ih _).1.trans (requestGone_bootDomains v id).1, (ih _).2.trans (requestGone_bootDomains v id).2⟩
  exact all _ s

theorem releaseHolds_none (which : OutReq → Bool) (none_ : s.ing.outs = []) : releaseHolds s which = s := by
  rw [releaseHolds, none_]
  rfl

/-- The one request that waits, and is held, is released. -/
theorem releaseHolds_one {which : OutReq → Bool} {id : Nat} {o : OutReq} (one : s.ing.outs = [(id, o)]) (held : o.phase = .unanswered)
    (its : which o = true) : (releaseHolds s which).ing.outs = [] := by
  have gone : (s.ing.outs.filter fun e => e.2.phase = .unanswered && which e.2).map (·.1) = [id] := by simp [one, held, its]
  have found : kfind s.ing.outs id = some o := by simp [one, kfind]
  have empty := congrArg (·.2.2) (standing_requestGone found)
  rw [releaseHolds, gone]
  refine List.isEmpty_iff.mp (empty.trans ?_)
  simp [one, kdel]

theorem bridgeForgotten_effect (v : State) (k : Nat) :
    (∀ e ∈ (bridgeForgotten v k).coh.decoders, e.1 / 16 = k → e.2.sizeGib = 0) ∧
      (∀ h ∈ (bridgeForgotten v k).coh.hostHeld, h / 2 ^ 48 ≠ k) ∧ (∀ b ∈ (bridgeForgotten v k).coh.biSnoops, b.bridge ≠ k) ∧
      ∀ b ∈ (bridgeForgotten v k).coh.bridgeOps, b.bridge ≠ k := by
  refine ⟨fun e held its => ?_, fun h held => of_decide_eq_true (List.mem_filter.mp held).2,
    fun b held => of_decide_eq_true (List.mem_filter.mp held).2, fun b held => of_decide_eq_true (List.mem_filter.mp held).2⟩
  obtain ⟨f, _, rfl⟩ := List.mem_map.mp held
  unfold decoderReset at its ⊢
  split at its
  next same => rw [if_pos same]
  next other => exact absurd its other

/-- What the bridge's reset leaves of the reset state, of its agent, and of an ingress with at most its own held request. -/
theorem bridgeReleased_effect (s : State) (k : Nat) :
    (bridgeReleased s k).boot = (bridgePinLow s k).boot ∧
      (∀ n d x a, (lportOf s (512 + k)).node = some n → domOf s d = some x → kfind x.members a = some n →
        isFailed (bridgeReleased s k) d a = true) ∧
      (∀ id o, s.ing.outs = [(id, o)] → o.p.lport = 512 + k → o.phase = .unanswered → (bridgeReleased s k).ing.outs = []) ∧
      (s.ing.outs = [] → (bridgeReleased s k).mem = s.mem) := by
  have fails := bridgeAgentFails_failsOnly (bridgePinLow s k) k
  obtain ⟨boot, domains⟩ := releaseHolds_bootDomains (bridgeAgentFails (bridgePinLow s k) k) fun o => o.p.lport = 512 + k
  refine ⟨boot.trans fails.boot, fun n d x a has found member => ?_, fun id o one its held => ?_, fun none_ => ?_⟩
  · have failed : isFailed (bridgeAgentFails (bridgePinLow s k) k) d a = true := by
      have has' : (lportOf (bridgePinLow s k) (512 + k)).node = some n := has
      have found' : domOf (bridgePinLow s k) d = some x := found
      rw [bridgeAgentFails, has']
      exact nodeFails_isFailed found' member
    unfold isFailed domOf at failed ⊢
    rw [bridgeReleased, domains]
    exact failed
  · exact releaseHolds_one (fails.outs.trans one) held (decide_eq_true its)
  · rw [bridgeReleased, releaseHolds_none _ (fails.outs.trans none_)]
    exact fails.mem

theorem hbPerstDeassert_runs (run : running s = true) (bridge : k < 4) (whole : s.ras.halt = 0) :
    exec (.hbPerstDeassert k) s = .next (startHealth { s with boot := { s.boot with
      hbPerst := s.boot.hbPerst.set k true, hbLink := s.boot.hbLink.set k true } } (512 + k)) := by
  have may : (running s && decide (s.ras.halt = 0)) = true := by rw [run, decide_eq_true whole]; rfl
  rw [exec_hbPerstDeassert, execHbPerstDeassert, if_neg (Nat.not_le.mpr bridge)]
  exact if_pos may

theorem hbPerstDeassert_stopped (stopped : running s = false) (bridge : k < 4) :
    exec (.hbPerstDeassert k) s = .next { s with boot := { s.boot with hbPerst := s.boot.hbPerst.set k true } } := by
  have may : ¬ (running s && decide (s.ras.halt = 0)) = true := by rw [stopped]; simp
  rw [exec_hbPerstDeassert, execHbPerstDeassert, if_neg (Nat.not_le.mpr bridge)]
  exact if_neg may

end Sys2Proof.Machine

namespace Sys2Proof.Machine

/-- Settles O50: each pin and each event of the power-on sequence by the state in which it comes. -/
theorem powerUpAndBundle : Obligations.PowerUpAndBundle := by
  unfold Obligations.PowerUpAndBundle
  intro s k
  refine ⟨powerOn_unpowered, exec_inputFail s, coldStart_clears s, fun on => ⟨_, sysResetAssert_powered on, rfl, rfl, rfl, rfl, rfl⟩,
    sysResetDeassert_reset, fun recovery busy => ⟨fun err same bad => ?_, fun good => ?_⟩,
    fun rails => ⟨_, hbmInitDone_runs rails, readied_effect (bridgesStart_quiet s)⟩, fun run => ?_, exec_perstMgtDeassert s,
    fun run bridge => ?_, fun stopped bridge => ⟨_, hbPerstAssert_stopped stopped bridge, rfl, rfl, rfl, rfl⟩,
    fun run bridge whole => hbPerstDeassert_runs run bridge whole, fun stopped bridge => hbPerstDeassert_stopped stopped bridge⟩
  · subst same
    exact ⟨_, (bundleVerifyDone_runs recovery busy).trans (congrArg _ (if_pos bad)), recovery, rfl, rfl, rfl, rfl⟩
  · exact ⟨_, (bundleVerifyDone_runs recovery busy).trans (congrArg _ (if_neg (not_not_intro good))), rfl, rfl, rfl, rfl, rfl, rfl⟩
  · obtain ⟨_, _, _, mem, lports⟩ := foldl_fnReset ((0 :: s.hys.fns.map (·.1)).eraseDups) (mgmtPinLow s)
    obtain ⟨num, enable, spdm, sessions, ide, tdis⟩ := mgmtForgets_effect (((0 :: s.hys.fns.map (·.1)).eraseDups).foldl fnReset (mgmtPinLow s))
    have pf0 : 0 ∈ (0 :: s.hys.fns.map (·.1)).eraseDups := by simp [List.eraseDups_cons]
    exact ⟨_, perstMgtAssert_runs run, foldl_fnReset_perstMgt _ _, num, enable, spdm, sessions, ide, tdis, foldl_fnReset_qps pf0 _, mem, lports⟩
  · obtain ⟨boot, coh, mem, outs⟩ := bridgePairsForgotten_keeps (bridgeReleased s k) k
    obtain ⟨pins, failed, released, quiet⟩ := bridgeReleased_effect s k
    obtain ⟨decoders, hostHeld, snoops, ops⟩ := bridgeForgotten_effect (bridgePairsForgotten (bridgeReleased s k) k) k
    have boot' := boot.trans pins
    refine ⟨_, hbPerstAssert_runs run bridge, congrArg (·.hbPerst) boot', congrArg (·.hbLink) boot', decoders, hostHeld, snoops, ops,
      fun n d x a has found member => ?_, fun id o one its held => outs.trans (released id o one its held), fun none_ => mem.trans (quiet none_)⟩
    have same : isFailed (bridgeForgotten (bridgePairsForgotten (bridgeReleased s k) k) k) d a = isFailed (bridgeReleased s k) d a := by
      change isFailed (bridgePairsForgotten (bridgeReleased s k) k) d a = _
      rw [isFailed, isFailed, domOf_congr coh]
    exact same.trans (failed n d x a has found member)

end Sys2Proof.Machine
end

section
/-! Thermal limits and the limits between neighbours (R898 to R903, R329 to R332; O28). -/
namespace Sys2Proof.Machine

variable {s t u : State} {r q n : Nat}

/-! ## What a reading leaves (R898, R902) -/

/-- The sensors' readings and every table stand. -/
structure ReadingsKept (s t : State) : Prop where
  quiet : Quiet s t
  temps : t.power.temps = s.power.temps

theorem ReadingsKept.refl (s : State) : ReadingsKept s s := ⟨Quiet.refl s, rfl⟩

theorem ReadingsKept.trans (h : ReadingsKept s t) (k : ReadingsKept t u) : ReadingsKept s u :=
  ⟨h.quiet.trans k.quiet, k.temps.trans h.temps⟩

theorem RegionsOnly.readingsKept (h : RegionsOnly s t) : ReadingsKept s t := by
  obtain ⟨g, x, rfl⟩ := h
  exact ⟨by constructor <;> rfl, rfl⟩

theorem PowerKept.temps (h : PowerKept s t) : t.power.temps = s.power.temps := by
  obtain ⟨b, same⟩ := h
  rw [same]

theorem report_readingsKept (s : State) (a b c d : Nat) : ReadingsKept s (report s a b c d) :=
  ⟨report_quiet s a b c d, (report_powerKept s a b c d).temps⟩

theorem bump_readingsKept (s : State) (c : Ctr) : ReadingsKept s (bump s c) := ⟨bump_quiet s c, rfl⟩

theorem throttleLog_quiet (s : State) (r : Nat) : Quiet s (throttleLog s r) := by
  unfold throttleLog healthLog
  dsimp only
  split <;> constructor <;> rfl

theorem throttleLog_power (s : State) (r : Nat) : (throttleLog s r).power = s.power := healthLog_power s _ _ _ _ _

theorem throttleLog_ras (s : State) (r : Nat) : (throttleLog s r).ras = s.ras := healthLog_ras s _ _ _ _ _

theorem throttleLog_readingsKept (s : State) (r : Nat) : ReadingsKept s (throttleLog s r) :=
  ⟨throttleLog_quiet s r, by rw [throttleLog_power]⟩

theorem modPower_readingsKept (f : Power → Power) (temps : (f s.power).temps = s.power.temps) : ReadingsKept s (modPower s f) :=
  ⟨by constructor <;> rfl, temps⟩

theorem episode_readingsKept (s : State) (r d : Nat) : ReadingsKept s (episode s r d) :=
  ((throttleLog_readingsKept s r).trans (bump_readingsKept _ _)).trans (report_readingsKept _ _ _ _ _)

/-- An episode is only logged, counted and reported. -/
theorem regionPow_episode (s : State) (r d q : Nat) : regionPow (episode s r d) q = regionPow s q := by
  have logged : (bump (throttleLog s r) (.power 9)).power.regions = s.power.regions := by rw [bump_power, throttleLog_power]
  exact regionPow_congr ((report_powerKept _ _ _ _ _).regions.trans logged) q

/-! ## A sensor's reading (R898 to R902) -/

/-- A region that is too hot runs 100 MHz slower. -/
def heatLowered (x : Region) : Region := { x with limT := max 900 (x.mhz - 100) }

/-- A region that has cooled is held no longer. -/
def heatUnheld (x : Region) : Region :=
  { x with therm := false, limT := 3600, hotSince := none, idle := x.st = .trimmed && !{ x with therm := false : Region }.held }

/-- A region that has cooled while it does not run is limited no longer. -/
def heatUnlimited (x : Region) : Region := { x with limT := 3600, hotSince := none }

/-- The limit of the regions, and of the cores, in 1/8 °C. -/
def throttleAt (s : State) : Int := (8 * regField s rTherm 0 7 : Nat)

/-- A reading as it is kept. -/
def sampled (s : State) (n : Nat) (t : Int) : State :=
  modPower (if n < 64 then keepSample s (n / 4) else s) fun p => { p with temps := kset p.temps n t }

/-- What a region's sensor leads to. -/
def regionSampled (s : State) (r : Nat) : State :=
  if decide (throttleAt s < regionTemp s r) && decide (3600 ≤ (regionPow s r).limT) && isLit s r then
    episode (capFreq (modRegionPow s r heatLowered) r) r (2 + 2 ^ 8 * r)
  else if (regionPow s r).therm && decide (regionTemp s r < throttleAt s - 80) then modRegionPow s r heatUnheld
  else if decide ((regionPow s r).limT < 3600) && !isLit s r && decide (regionTemp s r ≤ throttleAt s - 24) then
    modRegionPow s r heatUnlimited
  else s

/-- What a stack's sensor leads to. -/
def stackSampled (s : State) (k : Nat) (t : Int) : State :=
  let hbm : Int := (8 * regField s rTherm 7 7 : Nat)
  let was := s.power.hbmHot.contains k
  if decide (hbm < t) && !was then
    report (bump (throttleLog (modPower s fun p => { p with hbmHot := insertRising k p.hbmHot }) (2 * k)) (.power 9))
      0x0F (selfNode s) noLport 4
  else if decide (t ≤ hbm) then modPower s fun p => { p with hbmHot := p.hbmHot.filter (· ≠ k) }
  else s

/-- The core's sensors. -/
def coreSensors : List Nat := [64, 65, 66, 67, 68, 69, 70, 71, 72, 73, 74, 75, 76, 77, 78, 79, 88, 89]

/-- Every Lit region is lowered. -/
def coreLowers (s : State) : State :=
  (regions16.filter (isLit s)).foldl (fun s r => capFreq (modRegionPow s r heatLowered) r) s

/-- The core is in an episode, or begins one: an episode ends 3 °C below its limit. -/
def coreHotNow (s : State) : Bool :=
  coreSensors.any fun k => decide ((if s.power.coreHot then throttleAt s - 24 else throttleAt s) < temp s k)

/-- What the core's sensors show is kept. -/
def coreNoted (s : State) : State := modPower s fun p => { p with coreHot := coreHotNow s }

/-- What a sensor of the core leads to. -/
def coreSampled (s : State) : State :=
  if coreHotNow s && !s.power.coreHot then
    report (bump (throttleLog (coreLowers (coreNoted s)) 0) (.power 9)) 0x0F (selfNode (coreLowers (coreNoted s))) noLport 3
  else coreNoted s

theorem thermSample_runs (run : running s = true) (there : n < 90) (t : Int) :
    exec (.thermSample n t) s = .next (if n < 64 then regionSampled (sampled s n t) (n / 4)
      else if 80 ≤ n ∧ n < 88 then stackSampled (sampled s n t) (n - 80) t else coreSampled (sampled s n t)) := by
  rw [exec_thermSample, execThermSample, live_running _ run, if_neg (Nat.not_le.mpr there)]
  rfl

theorem sampled_effect (s : State) (n : Nat) (t : Int) :
    Quiet s (sampled s n t) ∧ (sampled s n t).power.temps = kset s.power.temps n t ∧ (sampled s n t).ras = s.ras ∧
      ∀ q, regionPow (sampled s n t) q = regionPow s q := by
  unfold sampled
  split
  · exact ⟨by constructor <;> rfl, rfl, rfl, fun _ => rfl⟩
  · exact ⟨by constructor <;> rfl, rfl, rfl, fun _ => rfl⟩

theorem lowered_only (s : State) (r : Nat) (f : Region → Region) : RegionsOnly s (capFreq (modRegionPow s r f) r) :=
  (modRegionPow_only s r f).trans (capFreq_only _ r)

theorem regionSampled_readingsKept (s : State) (r : Nat) : ReadingsKept s (regionSampled s r) := by
  unfold regionSampled
  split_ifs
  · exact (lowered_only s r _).readingsKept.trans (episode_readingsKept _ _ _)
  · exact (modRegionPow_only s r _).readingsKept
  · exact (modRegionPow_only s r _).readingsKept
  · exact ReadingsKept.refl s

theorem stackSampled_readingsKept (s : State) (k : Nat) (t : Int) : ReadingsKept s (stackSampled s k t) := by
  unfold stackSampled
  dsimp only
  split_ifs
  · exact (((modPower_readingsKept _ rfl).trans (throttleLog_readingsKept _ _)).trans (bump_readingsKept _ _)).trans
      (report_readingsKept _ _ _ _ _)
  · exact modPower_readingsKept _ rfl
  · exact ReadingsKept.refl s

theorem coreLowers_readingsKept (s : State) : ReadingsKept s (coreLowers s) := by
  have all : ∀ (l : List Nat) (v : State),
      ReadingsKept v (l.foldl (fun s r => capFreq (modRegionPow s r heatLowered) r) v) := by
    intro l
    induction l with
    | nil => exact fun v => ReadingsKept.refl v
    | cons r l ih =>
      intro v
      rw [List.foldl_cons]
      exact (lowered_only v r _).readingsKept.trans (ih _)
  exact all _ s

theorem coreNoted_readingsKept (s : State) : ReadingsKept s (coreNoted s) := modPower_readingsKept _ rfl

theorem coreSampled_readingsKept (s : State) : ReadingsKept s (coreSampled s) := by
  unfold coreSampled
  split
  · exact (((coreNoted_readingsKept s).trans (coreLowers_readingsKept _)).trans ((throttleLog_readingsKept _ _).trans
      (bump_readingsKept _ _))).trans (report_readingsKept _ _ _ _ _)
  · exact coreNoted_readingsKept s

/-- A sensor's own reading bounds its region's temperature from below. -/
theorem le_regionTemp (s : State) (n : Nat) : temp s n ≤ regionTemp s (n / 4) := by
  unfold regionTemp
  have place : n = 4 * (n / 4) ∨ n = 4 * (n / 4) + 1 ∨ n = 4 * (n / 4) + 2 ∨ n = 4 * (n / 4) + 3 := by omega
  rcases place with h | h | h | h <;> rw [← h] <;> simp

/-- A cap holds what runs at or below it. -/
theorem cappedMhz_le {x : Region} {lim : Nat} (floor : 900 ≤ lim) (capped : x.limT ≤ lim ∨ x.limN ≤ lim) : cappedMhz s r x ≤ lim := by
  unfold cappedMhz
  omega

theorem regionSampled_hot (lit : isLit s r = true) (free : 3600 ≤ (regionPow s r).limT) (hot : throttleAt s < regionTemp s r) :
    (regionPow (regionSampled s r) r).limT = max 900 ((regionPow s r).mhz - 100) ∧
      (regionPow (regionSampled s r) r).mhz ≤ max 900 ((regionPow s r).mhz - 100) := by
  have begins : (decide (throttleAt s < regionTemp s r) && decide (3600 ≤ (regionPow s r).limT) && isLit s r) = true := by
    simp [lit, free, hot]
  rw [regionSampled, if_pos begins, regionPow_episode, regionPow_capFreq_self, regionPow_modRegionPow_self]
  exact ⟨rfl, cappedMhz_le (Nat.le_max_left _ _) (Or.inl (Nat.le_refl _))⟩

theorem thermSample_effect (s : State) (n : Nat) (t : Int) (u : State)
    (becomes : u = if n < 64 then regionSampled (sampled s n t) (n / 4)
      else if 80 ≤ n ∧ n < 88 then stackSampled (sampled s n t) (n - 80) t else coreSampled (sampled s n t)) :
    kfind u.power.temps n = some t ∧ (∀ k, k ≠ n → kfind u.power.temps k = kfind s.power.temps k) ∧ Quiet s u ∧
      (n < 64 → isLit s (n / 4) = true → 3600 ≤ (regionPow s (n / 4)).limT → throttleAt s < t →
        (regionPow u (n / 4)).limT = max 900 ((regionPow s (n / 4)).mhz - 100) ∧
        (regionPow u (n / 4)).mhz ≤ max 900 ((regionPow s (n / 4)).mhz - 100)) := by
  obtain ⟨quiet, temps, ras, region⟩ := sampled_effect s n t
  have kept : ReadingsKept (sampled s n t) u := by
    rw [becomes]
    split_ifs
    · exact regionSampled_readingsKept _ _
    · exact stackSampled_readingsKept _ _ _
    · exact coreSampled_readingsKept _
  have readings := kept.temps.trans temps
  refine ⟨by rw [readings, kfind_kset_self], fun k other => by rw [readings, kfind_kset_other _ _ _ _ other], quiet.trans kept.quiet,
    fun region_ lit free hot => ?_⟩
  have same : throttleAt (sampled s n t) = throttleAt s := by rw [throttleAt, throttleAt, regField, regField, regWord, regWord, quiet.cfg]
  have read : temp (sampled s n t) n = t := by rw [temp, temps, kget_kset_self]
  have lowered := regionSampled_hot (s := sampled s n t) (r := n / 4) (by rw [isLit_congr (region _) ras]; exact lit)
    (by rw [region]; exact free) (by rw [same]; exact lt_of_lt_of_le (by rw [read]; exact hot) (le_regionTemp _ n))
  rw [becomes, if_pos region_]
  rw [region] at lowered
  exact lowered

/-! ## Holds (R899, R332) -/

/-- A region that the thermal limit holds. -/
def heatHeld (x : Region) : Region := { x with therm := true, idle := false, hotSince := none }

/-- A region that the limit between neighbours holds. -/
def nbrHeld (x : Region) : Region := { x with nbr := true, idle := false, nbrSince := none }

theorem thermalHold_runs (run : running s = true) {since : Time} (there : r < 16) (lit : isLit s r = true)
    (hot : (regionPow s r).hotSince = some since) :
    exec (.thermalHold r) s = .next (followRegions (modRegionPow (untilTime s (since + 10000000)) r (trimmedAs heatHeld))) := by
  have holds : ¬ (16 ≤ r ∨ (!isLit s r) = true) := by simp [lit, there]
  rw [exec_thermalHold, execThermalHold, live_running _ run]
  simp only [hot]
  rw [if_neg holds]
  rfl

theorem followRegions_fm (s : State) : (followRegions s).fm = s.fm := by
  unfold followRegions
  dsimp only
  repeat' split
  all_goals rfl

theorem modRegionPow_fm (s : State) (r : Nat) (f : Region → Region) : (modRegionPow s r f).fm = s.fm := by
  obtain ⟨g, x, same⟩ := modRegionPow_only s r f
  rw [same]

theorem neighbourTrim_runs (run : running s = true) {since : Time} (there : r < 16) (lit : isLit s r = true)
    (differs : (regionPow s r).nbrSince = some since) :
    exec (.neighbourTrim r) s = .next (report (followRegions (modRegionPow (untilTime s (since + 10000000)) r (trimmedAs nbrHeld)))
      0x0F (selfNode s) 0x1FF (5 + 2 ^ 8 * r)) := by
  have holds : ¬ (16 ≤ r ∨ (!isLit s r) = true) := by simp [lit, there]
  have node : selfNode (followRegions (modRegionPow (untilTime s (since + 10000000)) r (trimmedAs nbrHeld))) = selfNode s := by
    rw [selfNode, followRegions_fm, modRegionPow_fm, untilTime_fm, selfNode]
  rw [exec_neighbourTrim, execNeighbourTrim, live_running _ run]
  simp only [differs]
  rw [if_neg holds, ← node]
  rfl

/-! ## Comparisons of neighbours (R329 to R331) -/

/-- Regions, the log and its counters alone differ: what comparisons look at stands. -/
structure ComparesKept (s t : State) : Prop where
  quiet : Quiet s t
  nbrAt : t.power.nbrAt = s.power.nbrAt
  chip : t.power.chip = s.power.chip
  ras : t.ras = s.ras

theorem ComparesKept.refl (s : State) : ComparesKept s s := ⟨Quiet.refl s, rfl, rfl, rfl⟩

theorem ComparesKept.trans (h : ComparesKept s t) (k : ComparesKept t u) : ComparesKept s u :=
  ⟨h.quiet.trans k.quiet, k.nbrAt.trans h.nbrAt, k.chip.trans h.chip, k.ras.trans h.ras⟩

theorem RegionsOnly.comparesKept (h : RegionsOnly s t) : ComparesKept s t := by
  obtain ⟨g, x, same⟩ := h.power
  exact ⟨h.quiet, by rw [same], by rw [same], h.ras⟩

theorem throttleLog_comparesKept (s : State) (r : Nat) : ComparesKept s (throttleLog s r) :=
  ⟨throttleLog_quiet s r, by rw [throttleLog_power], by rw [throttleLog_power], throttleLog_ras s r⟩

theorem regionPow_throttleLog (s : State) (r q : Nat) : regionPow (throttleLog s r) q = regionPow s q :=
  regionPow_congr (by rw [throttleLog_power]) q

/-- The region of a pair that is beyond its limits runs 100 MHz slower; from 0.9 GHz on it is timed. -/
def nbrLowered (now : Time) (x : Region) : Region :=
  { x with limN := max 900 (x.mhz - 100), nbrSince := if x.mhz ≤ 900 then some (x.nbrSince.getD now) else none }

/-- A region that no pair lowers is limited no longer. -/
def nbrUnlimited (x : Region) : Region := { x with limN := 3600, nbrSince := none }

/-- A region that fits beside its neighbours again is held no longer. -/
def nbrUnheld (x : Region) : Region :=
  { x with nbr := false, limN := 3600, idle := x.st = .trimmed && !{ x with nbr := false : Region }.held }

/-- An episode's first lowering is logged. -/
def nbrLogged (s : State) (r : Nat) : State := if 3600 ≤ (regionPow s r).limN then throttleLog s r else s

/-- What a comparison does to one region. -/
def nbrStep (low : List Nat) (s : State) (r : Nat) : State :=
  if low.contains r && isLit s r then capFreq (modRegionPow (nbrLogged s r) r (nbrLowered (nbrLogged s r).clk)) r
  else if (regionPow s r).limN < 3600 then modRegionPow s r nbrUnlimited
  else if (regionPow s r).nbr && nbrFits s r then modRegionPow s r nbrUnheld
  else s

/-- A comparison is made now. -/
def nbrBegins (s : State) : State := modPower s fun p => { p with nbrAt := s.clk }

/-- The regions that a comparison lowers. -/
def nbrLow (s : State) : List Nat := (pairs16.filterMap fun p => toLower s p.1 p.2).eraseDups

theorem neighbourCompare_runs (run : running s = true) : exec .neighbourCompare s =
    .next (regions16.foldl (nbrStep (nbrLow (nbrBegins (untilTime s (s.power.nbrAt + 100000)))))
      (nbrBegins (untilTime s (s.power.nbrAt + 100000)))) := by
  rw [exec_neighbourCompare, execNeighbourCompare, live_running _ run]
  rfl

theorem nbrLogged_comparesKept (s : State) (r : Nat) : ComparesKept s (nbrLogged s r) := by
  unfold nbrLogged
  split
  · exact throttleLog_comparesKept s r
  · exact ComparesKept.refl s

theorem regionPow_nbrLogged (s : State) (r q : Nat) : regionPow (nbrLogged s r) q = regionPow s q := by
  unfold nbrLogged
  split
  · exact regionPow_throttleLog s r q
  · rfl

theorem nbrStep_comparesKept (low : List Nat) (s : State) (r : Nat) : ComparesKept s (nbrStep low s r) := by
  unfold nbrStep
  split_ifs
  · exact (nbrLogged_comparesKept s r).trans (lowered_only _ r _).comparesKept
  · exact (modRegionPow_only s r _).comparesKept
  · exact (modRegionPow_only s r _).comparesKept
  · exact ComparesKept.refl s

theorem regionPow_nbrStep_other (low : List Nat) (s : State) (other : q ≠ r) : regionPow (nbrStep low s r) q = regionPow s q := by
  unfold nbrStep
  split_ifs <;> simp [other, regionPow_nbrLogged]

theorem nbrStep_lowers {low : List Nat} (lit : isLit s r = true) (lowered : low.contains r = true) :
    (regionPow (nbrStep low s r) r).limN = max 900 ((regionPow s r).mhz - 100) ∧
      (regionPow (nbrStep low s r) r).mhz ≤ max 900 ((regionPow s r).mhz - 100) ∧ (regionPow (nbrStep low s r) r).st = (regionPow s r).st := by
  rw [nbrStep, if_pos (by rw [lowered, lit]; rfl), regionPow_capFreq_self, regionPow_modRegionPow_self, regionPow_nbrLogged]
  exact ⟨rfl, cappedMhz_le (Nat.le_max_left _ _) (Or.inr (Nat.le_refl _)), rfl⟩

theorem nbrStep_ends {low : List Nat} (spared : low.contains r = false) (limited : (regionPow s r).limN < 3600) :
    regionPow (nbrStep low s r) r = nbrUnlimited (regionPow s r) := by
  rw [nbrStep, if_neg (by rw [spared]; simp), if_pos limited, regionPow_modRegionPow_self]

/-- A comparison comes to a region once, and finds it as it was. -/
theorem foldl_nbrStep (low : List Nat) {l : List Nat} (once : l.Nodup) (s : State) :
    ComparesKept s (l.foldl (nbrStep low) s) ∧ (q ∉ l → regionPow (l.foldl (nbrStep low) s) q = regionPow s q) ∧
      (q ∈ l → ∃ w, ComparesKept s w ∧ regionPow w q = regionPow s q ∧
        regionPow (l.foldl (nbrStep low) s) q = regionPow (nbrStep low w q) q) := by
  induction l generalizing s with
  | nil => exact ⟨ComparesKept.refl s, fun _ => rfl, fun held => absurd held List.not_mem_nil⟩
  | cons r l ih =>
    rw [List.foldl_cons]
    obtain ⟨fresh, once⟩ := List.nodup_cons.mp once
    obtain ⟨kept, later, comes⟩ := ih once (nbrStep low s r)
    have first := nbrStep_comparesKept low s r
    refine ⟨first.trans kept, fun absent => ?_, fun held => ?_⟩
    · obtain ⟨other, absent⟩ := not_or.mp (mt List.mem_cons.mpr absent)
      exact (later absent).trans (regionPow_nbrStep_other low s other)
    · by_cases same : q = r
      · subst same
        exact ⟨s, ComparesKept.refl s, rfl, later fresh⟩
      · obtain ⟨w, soFar, region, becomes⟩ := comes ((List.mem_cons.mp held).resolve_left same)
        exact ⟨w, first.trans soFar, region.trans (regionPow_nbrStep_other low s same), becomes⟩

theorem toLower_nbrBegins (s : State) (a b : Nat) : toLower (nbrBegins s) a b = toLower s a b := rfl

theorem nbrLow_contains (s : State) (q : Nat) :
    (nbrLow (nbrBegins s)).contains q = pairs16.any fun p => toLower s p.1 p.2 = some q := by
  rw [Bool.eq_iff_iff, List.contains_iff_mem, nbrLow, List.mem_eraseDups, List.mem_filterMap, List.any_eq_true]
  simp only [toLower_nbrBegins, decide_eq_true_eq]

theorem regions16_nodup : regions16.Nodup := by decide

theorem mem_regions16 (there : q < 16) : q ∈ regions16 := by
  simp only [regions16, List.mem_cons, List.not_mem_nil, or_false]
  omega

/-- A comparison lowers the regions that it names, and ends the limits of the others. -/
theorem neighbourCompare_effect (v : State) :
    (regions16.foldl (nbrStep (nbrLow (nbrBegins v))) (nbrBegins v)).power.nbrAt = v.clk ∧
      (regions16.foldl (nbrStep (nbrLow (nbrBegins v))) (nbrBegins v)).power.chip = v.power.chip ∧
      Quiet v (regions16.foldl (nbrStep (nbrLow (nbrBegins v))) (nbrBegins v)) ∧
      (∀ q, q < 16 → isLit v q = true → (pairs16.any fun p => toLower v p.1 p.2 = some q) = true →
        (regionPow (regions16.foldl (nbrStep (nbrLow (nbrBegins v))) (nbrBegins v)) q).limN = max 900 ((regionPow v q).mhz - 100) ∧
        (regionPow (regions16.foldl (nbrStep (nbrLow (nbrBegins v))) (nbrBegins v)) q).mhz ≤ max 900 ((regionPow v q).mhz - 100) ∧
        (regionPow (regions16.foldl (nbrStep (nbrLow (nbrBegins v))) (nbrBegins v)) q).st = (regionPow v q).st) ∧
      ∀ q, q < 16 → (pairs16.any fun p => toLower v p.1 p.2 = some q) = false → (regionPow v q).limN < 3600 →
        regionPow (regions16.foldl (nbrStep (nbrLow (nbrBegins v))) (nbrBegins v)) q = nbrUnlimited (regionPow v q) := by
  obtain ⟨kept, _, _⟩ := foldl_nbrStep (q := 0) (nbrLow (nbrBegins v)) regions16_nodup (nbrBegins v)
  have begins : Quiet v (nbrBegins v) := by constructor <;> rfl
  have region : ∀ q, regionPow (nbrBegins v) q = regionPow v q := fun _ => rfl
  refine ⟨kept.nbrAt, kept.chip, begins.trans kept.quiet, fun q there lit named => ?_, fun q there spared limited => ?_⟩
  · obtain ⟨_, _, comes⟩ := foldl_nbrStep (q := q) (nbrLow (nbrBegins v)) regions16_nodup (nbrBegins v)
    obtain ⟨w, soFar, found, becomes⟩ := comes (mem_regions16 there)
    have lowered := nbrStep_lowers (s := w) (r := q) (low := nbrLow (nbrBegins v))
      ((isLit_congr (found.trans (region q)) soFar.ras).trans lit) ((nbrLow_contains v q).trans named)
    rw [becomes]
    rwa [found, region] at lowered
  · obtain ⟨_, _, comes⟩ := foldl_nbrStep (q := q) (nbrLow (nbrBegins v)) regions16_nodup (nbrBegins v)
    obtain ⟨w, _, found, becomes⟩ := comes (mem_regions16 there)
    rw [becomes, nbrStep_ends ((nbrLow_contains v q).trans spared) (by rw [found, region]; exact limited), found, region]

/-! ## The trip (R903) -/

/-- What a trip takes before the chip drops: partitions, their ports' membership, teardowns and queues. -/
def tripTakes (s : State) (gone : List Nat) : State :=
  { s with
    parts := s.parts.map fun (e : Nat × Partition) => (e.1, tripPart e.2)
    lports := s.lports.map fun (e : Nat × LPort) => (e.1, { e.2 with parts := e.2.parts.filter fun p => !gone.contains p })
    shape := { s.shape with l2 := s.shape.l2.filter fun e => !gone.contains (e.1 / 8) }
    sec := { s.sec with tearing := [], scrubs := [], revokes := [], bound := [], lockNonce := [] }
    mem := { s.mem with classOn := s.mem.classOn.filter fun e => !gone.contains e.1 }
    core := { s.core with voqs := [] } }

/-- The links go down with a trip, and the commands on what is lost complete. -/
def tripLinksDown (s : State) : State :=
  (s.lports.filter fun e => decide (e.1 < 512) && e.2.link ≠ .disabled).foldl (fun s e => goDown s e.1) s

/-- A commanded state that waits is answered. -/
def askedRetries (s : State) : State :=
  match s.power.asked with
  | some a => complete (modPower s fun p => { p with asked := none }) a.by_ stRetry 0 []
  | none => s

/-- The partitions that a trip sets FREE. -/
def tripGone (s : State) : List Nat := (s.parts.filter fun e => e.2.st ≠ .free).map (·.1)

/-- The switch when the chip drops. -/
def tripped (s : State) : State :=
  askedRetries (bridgesDown (tripTakes (tripCommands (tripLinksDown s)) (tripGone (tripLinksDown s))))

/-- The trip has happened. -/
def tripNoted (s : State) : State := modPower s fun p => { p with tripped := true }

theorem thermalTrip_runs (run : running s = true) : exec .thermalTrip s =
    .next (report (tripNoted (enterPilot (tripped s) 2)) 0x0F (selfNode (enterPilot (tripped s) 2)) noLport 3) := by
  rw [exec_thermalTrip, execThermalTrip, live_running _ run]
  rfl

theorem tripPart_free (p : Partition) : (tripPart p).st = .free ∧ (tripPart p).tdi = .unlocked := by
  unfold tripPart
  split
  next free => exact ⟨free, rfl⟩
  next => exact ⟨rfl, rfl⟩

theorem askedRetries_parts (s : State) : (askedRetries s).parts = s.parts := by
  unfold askedRetries
  split
  · exact (complete_quiet _ _ _ _ _).parts
  · rfl

theorem tripped_free (s : State) : ∀ e ∈ (tripped s).parts, e.2.st = .free ∧ e.2.tdi = .unlocked := by
  intro e held
  rw [tripped, askedRetries_parts] at held
  obtain ⟨f, _, rfl⟩ := List.mem_map.mp held
  exact tripPart_free f.2

theorem timeHolds_keeps (s : State) : (timeHolds s).power = s.power ∧ (timeHolds s).parts = s.parts ∧ (timeHolds s).mem = s.mem := by
  unfold timeHolds
  split <;> exact ⟨rfl, rfl, rfl⟩

/-- Pilot keeps the partitions, and nothing of the pool. -/
theorem enterPilot_effect (s : State) (cause : Nat) :
    (enterPilot s cause).power.chip = .pilot ∧ (enterPilot s cause).power.cause = cause ∧ (enterPilot s cause).parts = s.parts ∧
      (enterPilot s cause).mem.bytes = [] ∧ (enterPilot s cause).mem.tier = [] := by
  rw [enterPilot]
  obtain ⟨power, parts, mem⟩ := timeHolds_keeps
    (bump (modPower (losePool s) fun p => { p with chip := .pilot, cause := cause, hooding := none }) (.power 3))
  rw [power, parts, mem]
  exact ⟨rfl, rfl, rfl, rfl, rfl⟩

theorem thermalTrip_effect (v : State) (node : Nat) (free : ∀ e ∈ v.parts, e.2.st = .free ∧ e.2.tdi = .unlocked) :
    let u := report (tripNoted (enterPilot v 2)) 0x0F node noLport 3
    u.power.chip = .pilot ∧ u.power.tripped = true ∧ u.power.cause = 2 ∧ (∀ e ∈ u.parts, e.2.st = .free ∧ e.2.tdi = .unlocked) ∧
      u.mem.bytes = [] ∧ u.mem.tier = [] := by
  obtain ⟨chip, cause, parts, bytes, tier⟩ := enterPilot_effect v 2
  obtain ⟨b, power⟩ := report_powerKept (tripNoted (enterPilot v 2)) 0x0F node noLport 3
  have quiet := report_quiet (tripNoted (enterPilot v 2)) 0x0F node noLport 3
  dsimp only
  rw [power, quiet.parts, quiet.mem]
  exact ⟨chip, rfl, cause, fun e held => free e (parts ▸ held), bytes, tier⟩

end Sys2Proof.Machine

namespace Sys2Proof.Machine

/-- Settles O28: readings, holds, the trip and comparisons, each by what it leaves of the regions. -/
theorem thermalAndNeighbours : Obligations.ThermalAndNeighbours := by
  unfold Obligations.ThermalAndNeighbours
  intro n r t s run
  refine ⟨fun there => ⟨_, thermSample_runs run there t, thermSample_effect s n t _ rfl⟩, fun since there lit hot => ?_,
    ⟨_, thermalTrip_runs run, thermalTrip_effect _ _ (tripped_free s)⟩, ?_, fun since there lit differs => ?_⟩
  · obtain ⟨clk, own, others, _, lports, mem, _⟩ := modRegionPow_at s (since + 10000000) r (trimmedAs heatHeld)
    exact ⟨_, thermalHold_runs run there lit hot, clk, own, others, mem, lports⟩
  · obtain ⟨at_, chip, quiet, lowers, ends⟩ := neighbourCompare_effect (untilTime s (s.power.nbrAt + 100000))
    have region : ∀ q, regionPow (untilTime s (s.power.nbrAt + 100000)) q = regionPow s q :=
      fun q => regionPow_congr (by rw [untilTime_power]) q
    refine ⟨_, neighbourCompare_runs run, at_, by rw [chip, untilTime_power], quiet, fun q small lit named => ?_, fun q small spared limited => ?_⟩
    · rw [← region q]
      exact lowers q small ((isLit_congr (region q) (untilTime_ras _ _)).trans lit) named
    · rw [← region q]
      exact ends q small spared (by rw [region q]; exact limited)
  · obtain ⟨clk, own, others, _, lports, mem, _⟩ := modRegionPow_at s (since + 10000000) r (trimmedAs nbrHeld)
    exact ⟨_, neighbourTrim_runs run there lit differs, clk, own, others, mem, lports⟩

end Sys2Proof.Machine
end
